-- ==== Sys2Proof/Word.lean ====
section
/-! DEFINITION. The word types of the Ocvel D4 and their plainest arithmetic (00_scope R5, R9). -/

namespace Sys2Proof

/-- A 64-bit register value (03 R50). -/
abbrev Word := BitVec 64
/-- A byte of memory (05 R117). -/
abbrev Byte := BitVec 8
/-- A 32-bit instruction or scratchpad word (07 R134, 05 R101). -/
abbrev W32 := BitVec 32
/-- The lanes of a hierarchical mask: bit l is lane l. The band-summary word is computed from it (02 R27). -/
abbrev Mask := BitVec 1024
/-- One band entry of an operand queue: 64 bits for each of 32 lanes (03 R60). -/
abbrev Band := BitVec 2048

/-- Bits hi down to lo of a word, as in the manual's x[h:l] (00 R9). -/
def field {n : Nat} (x : BitVec n) (hi lo : Nat) : BitVec (hi - lo + 1) := x.extractLsb' lo (hi - lo + 1)

/-- One bit of a word, as a Bool. -/
def bitAt {n : Nat} (x : BitVec n) (i : Nat) : Bool := x.getLsbD i

/-- A Bool as one bit. -/
def ofBit (b : Bool) : BitVec 1 := if b then 1#1 else 0#1

end Sys2Proof
end

