-- ==== Sys2Proof/Config.lean ====
section
/-! DEFINITION. What an implementation of ISA level 1 fixes, and the values the manual leaves open. A free value is an
opaque constant without a body: no proof can see it (notes/assumptions/4.md to 7.md). -/

namespace Sys2Proof

/-- The ISA level (08 R186, isa.level). -/
def Config.isaLevel : BitVec 8 := 1#8
/-- The highest fabric and Tether version of the part (14 R311). -/
def Config.fabricVersion : BitVec 8 := 1#8
def Config.tetherVersion : BitVec 8 := 1#8
/-- The launch record, copy command, decompression and image versions of ISA level 1 (12 R262, 13 R279, 19 R367). -/
def Config.formatVersion : Nat := 1
/-- Bits of a device-physical address (05 R107). -/
def Config.physBits : Nat := 52
/-- The lanes a team may have (02 R25). -/
def Config.maxLanes : Nat := 1024
/-- Lane registers of a core (01 R15). -/
def Config.coreRegs : Nat := 131072
/-- Scratchpad granules of a core (05 R94). -/
def Config.coreGranules : Nat := 512

/-- A bit of the functions FRSQ, FEXP2, FLOG2, FSIN, FCOS, FTANH and FSIGM that R201 leaves to the implementation: for the
function with lane opcode `op`, type code `ty` and input bits `x`, which of the permitted results the part delivers. The
same input gives the same result (R202). -/
opaque Config.approxPick : (op ty : Nat) → (x : Word) → Nat

/-- SHA3-256, which the manual names and does not define (15 R326, R327; 19 R367; 20 R395; 21 R405). -/
opaque Config.sha3 : List Byte → BitVec 256

/-- Whether an ML-DSA-44 signature verifies, which the manual names and does not define (15 R325, R326). -/
opaque Config.mldsaVerifies : (key digest signature : List Byte) → Bool

/-- The ML-DSA-44 signature that the device makes with its identity key over a digest (15 R327, 20 R395). -/
opaque Config.mldsaSign : BitVec 256 → List Byte

/-- The pipeline latches in the scan-out of the raw matrix form, which follow the partial sums (19 R375; notes/assumptions/28.md). -/
opaque Config.rawLatches : Nat → List Byte

/-- The region whose cache slice homes a Tether line of this package, and the offset of a group's rotation of leases (14 R313;
20 R380): not architectural. -/
opaque Config.tetherHome : (line : Nat) → Nat
opaque Config.rotationOffset : (group : Nat) → Nat

/-- The array version of the implementation (19 R367). -/
opaque Config.arrayVersion : BitVec 32

/-- The algorithms that the SPDM responder offers: the hash, and the signature as a vendor-defined extended asymmetric
algorithm (15 R327). -/
inductive SpdmAlgorithm where
  | sha3_256 | mlDsa44
  deriving DecidableEq, Repr

/-- What the SPDM responder has to say: the algorithms it offers, the chain in certificate slot 0, measurements 1 to 5 (15 R327). -/
structure SpdmFacts where
  hash : SpdmAlgorithm
  signature : SpdmAlgorithm
  slot0 : List Byte
  measurements : List (BitVec 256)
  deriving DecidableEq, Repr

/-- The certificate chain rooted in the device identity key fused at manufacture (15 R327). -/
opaque Config.certChain : List Byte

/-- The body of an SPDM response, which the SPDM and CXL specifications fix and this manual does not (15 R327): a function of
the request, of what the responder has to say, and of its own fresh value. -/
opaque Config.spdmResponse : (request : List Byte) → (facts : SpdmFacts) → (fresh : Nat) → List Byte

/-- The digest of the boot ROM, measurement 1 (15 R327). -/
opaque Config.romDigest : BitVec 256

/-- SHA3-256 of the device identity public key (20 R395). -/
opaque Config.deviceId : BitVec 256

/-- Free values: entry `k` is the `k`-th value that the manual leaves open in a run (State.free counts them). -/
opaque Config.freeValue : Nat → Word

end Sys2Proof
end

