-- ==== Sys2Proof/Syntax.lean ====
section
/-! DEFINITION. The instructions, commands and events of the Ocvel D4: one constructor of `Instr` per row of
spec/opcode_table.json (07_encodings R134 to R152; the events and commands of 12 to 21). Encoded fields are kept as
bit vectors; a lane instruction is its common head (R148) and the fields of its modifier word (R150). -/

namespace Sys2Proof

/-- A scalar register field: 63 is sz, 62 is slr (07 R136). -/
abbrev SReg := BitVec 6
/-- A mask register field, m0 to m7 (03 R50). -/
abbrev MReg := BitVec 3
/-- A tile handle field, h0 to h255 (03 R50). -/
abbrev Handle := BitVec 8

/-- The condition codes that SET and BCMP share (07 R138). -/
inductive Cond where
  | eq | ne | lt | ge | ltn | gen
  deriving DecidableEq, Repr

/-- The access sizes of major 0x0B (07 R140); `d64` is .n64 or .i64. -/
inductive ScalarSize where
  | n8 | i8 | n16 | i16 | n32 | i32 | d64
  deriving DecidableEq, Repr

/-- The atomic operations that SATOM and ATOM share (07 R140). -/
inductive AtomOp where
  | add | fadd | min | max | minn | maxn | and | or | xor | swap | cas | fmin | fmax
  deriving DecidableEq, Repr

/-- Where SLD and SST reach: a global address with a byte offset, or a tile element (07 R140). -/
inductive ScalarSpace where
  | glob (off : BitVec 32)
  | tile (h : Handle)
  deriving DecidableEq, Repr

/-- Where SATOM reaches: a global address without offset, or a tile element (07 R140). -/
inductive AtomSpace where
  | glob
  | tile (h : Handle)
  deriving DecidableEq, Repr

/-- What ZFILL zeroes: a tile, or the tensor bound to a global handle (07 R145). -/
inductive FillTarget where
  | tile (h : Handle)
  | tensor (g : BitVec 6)
  deriving DecidableEq, Repr

/-- The scopes of fences and commands (06 R121). Codes 6 and 7 are reserved. -/
inductive Scope where
  | team | crew | gang | region | device | span
  deriving DecidableEq, Repr

/-- The fields of w0 and w1 of a lane instruction, less the opcode (07 R148). -/
structure LaneHead where
  ty : BitVec 4
  dst : BitVec 9
  s0 : BitVec 9
  s1 : BitVec 9
  s2 : BitVec 9
  z0 : Bool
  z1 : Bool
  z2 : Bool
  retain : BitVec 2
  b0 : Bool
  b1 : Bool
  b2 : Bool
  guard : BitVec 4
  neg : Bool
  md : Bool
  deriving DecidableEq, Repr

/-- Layout A of w2 (07 R150). -/
structure ModA where
  dsel : BitVec 5
  s0sel : BitVec 5
  s1sel : BitVec 5
  s2sel : BitVec 5
  q0 : BitVec 4
  q1 : BitVec 4
  rm : BitVec 3
  deriving DecidableEq, Repr

/-- Layout C of w2: as A with the source type in place of the queue select of s1 (07 R150). -/
structure ModC where
  dsel : BitVec 5
  s0sel : BitVec 5
  s1sel : BitVec 5
  s2sel : BitVec 5
  q0 : BitVec 4
  sty : BitVec 4
  rm : BitVec 3
  deriving DecidableEq, Repr

/-- Layout P of w2: a precision in [7:3] (07 R150). -/
structure ModP where
  dsel : BitVec 5
  s0sel : BitVec 5
  s1sel : BitVec 5
  s2sel : BitVec 5
  q0 : BitVec 4
  p : BitVec 5
  deriving DecidableEq, Repr

/-- Layout X of w2: a range code and an operation code (07 R150). -/
structure ModX where
  dsel : BitVec 5
  s0sel : BitVec 5
  s1sel : BitVec 5
  s2sel : BitVec 5
  q0 : BitVec 4
  range : BitVec 4
  op : BitVec 4
  deriving DecidableEq, Repr

/-- Layout M of w2, less the tag mode, which is part of the instruction (07 R150). -/
structure ModM where
  handle : BitVec 8
  sel : BitVec 5
  e : BitVec 5
  consume : Bool
  glob : Bool
  aop : BitVec 4
  q0 : BitVec 4
  deriving DecidableEq, Repr

/-- Layout MX of w2 for MMA, less .pair, which is part of the instruction (07 R150). -/
structure ModMma where
  hA : BitVec 8
  hB : BitVec 8
  pa1 : BitVec 4
  pb1 : BitVec 4
  acc : BitVec 2
  deriving DecidableEq, Repr

/-- Layout MX of w2 for MDRAIN (07 R150). -/
structure ModDrain where
  dest : BitVec 8
  res : BitVec 8
  glob : Bool
  add : Bool
  residual : Bool
  dropout : Bool
  rm : BitVec 3
  acc : BitVec 2
  deriving DecidableEq, Repr

/-- A team, by the position of its crew in the machine's list of crews and its index in the crew (02 R30). -/
structure TeamRef where
  crew : Nat
  team : Nat
  deriving DecidableEq, Repr

/-- One of a team's two streams (03 R50). -/
inductive Stream where
  | scalar | lane
  deriving DecidableEq, Repr

/-- A leased or scored unit of the package (20 R380, R382), by position. -/
inductive DevUnit where
  /-- physical core `pos` (0 to 4, 4 the spare at first boot) of logical gang `gang` -/
  | core (gang pos : Nat)
  /-- physical channel `ch` (0 to 32) of region `region` -/
  | channel (region ch : Nat)
  | port (p : Nat)
  | scm (stack : Nat)
  | slice (gang : Nat)
  deriving DecidableEq, Repr

/-- The events of R389 that raise a suspicion score. -/
inductive ScoreEvent where
  | replay | correctedCore | correctedSlice | correctedChannel | correctedScm | secondCorrected
  | flitNak | fecUncorrectable | uncorrectable | failedRun
  deriving DecidableEq, Repr

/-- The header of a fabric flit and its payload, as it arrives on a port: 16 bytes of header, the CRC-32C of the first twelve and
of the payload in the last four, and 64 bytes of payload (14 R309). -/
structure Flit where
  port : Nat
  kind : BitVec 8
  fver : BitVec 4
  vc : BitVec 4
  dst : BitVec 12
  src : BitVec 12
  seq : BitVec 16
  tag : BitVec 32
  payload : List Byte
  crc : BitVec 32
  deriving DecidableEq, Repr

/-- Where a Tether message came from: the port, and the link number of its last flit (14 R310). -/
structure Link where
  port : Nat
  seq : BitVec 16
  deriving DecidableEq, Repr

/-- What one run of a pattern set found beside its signature (20 R387): how many words, lines or codewords had more errors than its
criterion ever allows, and how many had as many as it allows a few times; shadow-latch replays. -/
structure RunFound where
  set : Nat
  wide : Nat
  narrow : Nat
  replays : Nat
  deriving DecidableEq, Repr

/-- Why a fetch of either stream fails (18 R350, R351). -/
inductive FetchFault where
  | translation | uncorrectable | poison
  deriving DecidableEq, Repr

/-- The instructions, commands and events. The scalar stream's instructions come first (07 R137 to R146, 08), then the
lane stream's (07 R148 to R152, 09 to 11), then the steps of the device, its engines, the host and the fabric. -/
inductive Instr where
  -- encodings and fetches that fail (18 R349 to R351)
  | unassignedEncoding (st : Stream)
  | instructionFetchFault (st : Stream) (why : FetchFault) (at_ : BitVec 64)
  -- scalar: integer ALU, major 0x01 (R138, R161)
  | add (d a b : SReg)
  | sub (d a b : SReg)
  | mul (d a b : SReg)
  | mulh (d a b : SReg)
  | mulhn (d a b : SReg)
  | div (d a b : SReg)
  | divn (d a b : SReg)
  | rem (d a b : SReg)
  | remn (d a b : SReg)
  | and (d a b : SReg)
  | or (d a b : SReg)
  | xor (d a b : SReg)
  | andn (d a b : SReg)
  | shl (d a b : SReg)
  | shr (d a b : SReg)
  | sar (d a b : SReg)
  | rol (d a b : SReg)
  | min (d a b : SReg)
  | max (d a b : SReg)
  | minn (d a b : SReg)
  | maxn (d a b : SReg)
  | clz (d a : SReg)
  | popc (d a : SReg)
  | brev (d a : SReg)
  /-- the width less 1 is `w` -/
  | sext (d a : SReg) (w : BitVec 6)
  | zext (d a : SReg) (w : BitVec 6)
  | set (d a b : SReg) (cc : Cond)
  -- scalar: immediates (R139, R162, R163)
  | addi (d a : SReg) (imm : BitVec 14)
  | andi (d a : SReg) (imm : BitVec 14)
  | ori (d a : SReg) (imm : BitVec 14)
  | xori (d a : SReg) (imm : BitVec 14)
  | shli (d a : SReg) (sh : BitVec 6)
  | shri (d a : SReg) (sh : BitVec 6)
  | sari (d a : SReg) (sh : BitVec 6)
  | li (d : SReg) (imm : BitVec 46)
  | liHi (d : SReg) (ext : BitVec 32)
  | sel (d a b c : SReg)
  -- scalar: memory (R140, R164 to R166)
  | sld (d a : SReg) (size : ScalarSize) (sp : ScalarSpace)
  | sst (d a : SReg) (size : ScalarSize) (sp : ScalarSpace)
  | sldf (d a b : SReg) (size : ScalarSize) (h : Handle) (e : BitVec 5) (consume : Bool)
  | sste (d a b : SReg) (size : ScalarSize) (h : Handle) (e : BitVec 5)
  | satom (d a b : SReg) (size : ScalarSize) (op : AtomOp) (sp : AtomSpace)
  -- scalar: control flow (R141, R167)
  | b (off : BitVec 20)
  | bz (a : SReg) (off : BitVec 20)
  | bnz (a : SReg) (off : BitVec 20)
  | call (off : BitVec 20)
  | loop (a : SReg) (off : BitVec 20)
  | bmz (m : MReg) (off : BitVec 20)
  | bmnz (m : MReg) (off : BitVec 20)
  | bcmp (cc : Cond) (a b : SReg) (off : BitVec 32)
  | jr (a : SReg)
  -- scalar: masks (R142, R168, R66)
  | mpush (ms : MReg)
  | melse
  | mpop
  | mmov (md ms : MReg)
  | mand (md ms mt : MReg)
  | mor (md ms mt : MReg)
  | mnot (md ms : MReg)
  | mcnt (sd : SReg) (ms : MReg)
  | mfirst (sd : SReg) (ms : MReg)
  -- scalar: lane queue and flags (R143, R169)
  | lq (off : BitVec 20)
  | fwait (flags : BitVec 12)
  | fclr (flags : BitVec 12)
  | ldrain
  -- scalar: streams (R144, R170 to R172)
  | strmD (q : BitVec 3) (a b : SReg)
  | strmC4 (q : BitVec 3) (a b : SReg)
  | qld (q : BitVec 3) (a : SReg)
  | qclose (q : BitVec 3)
  -- scalar: engine commands (R144, R176 to R180)
  | xwin (w : BitVec 4) (a : SReg)
  | xcopy (d a : SReg)
  | xred (d a : SReg)
  | bclose (d : SReg)
  | bwait (d a : SReg) (e : BitVec 5)
  | mwait (d a : SReg) (e : BitVec 5)
  | pbarPdomain
  | pbarPspan
  | stepmark (a : SReg)
  -- scalar: tiles and gates (R145, R173 to R175)
  | talloc (d a b : SReg) (h : Handle)
  | tfree (h : Handle)
  | tdesc (d : SReg) (h : Handle)
  | layout (d : SReg) (h : Handle) (tag : BitVec 4)
  | lwait (h : Handle)
  | gbind (d a : SReg) (g : BitVec 6)
  | zfill (d a : SReg) (tgt : FillTarget)
  | ginit (a b : SReg) (h : Handle)
  | garrive (d a : SReg) (h : Handle)
  | gexpect (a b : SReg) (h : Handle)
  | gwait (d a b : SReg) (h : Handle) (e : BitVec 5)
  -- scalar: work lists, scheduling, system (R144, R146, R181 to R189)
  | wlinit (d a : SReg)
  | wltake (d a : SReg) (e : BitVec 5)
  | tdwait (d a : SReg) (e : BitVec 5)
  | rgrow (d a : SReg) (e : BitVec 5)
  | rshrink (a : SReg)
  | yield
  | guardBegin
  | guardEnd
  | nopreBegin
  | nopreEnd
  | capq (d : SReg)
  | locq (d a : SReg)
  | launch (d a : SReg)
  | tclaim (d a : SReg)
  | sysr (d : SReg) (reg : BitVec 12)
  | sysw (d : SReg) (reg : BitVec 12)
  | clk (d : SReg)
  | trap (code : BitVec 12)
  | eret
  | nop
  | exit
  | fenceAcq (sc : Scope)
  | fenceRel (sc : Scope)
  | fenceAr (sc : Scope)
  -- lane: arithmetic, layout A (R152, R194 to R201)
  | iadd (h : LaneHead) (m : ModA)
  | isub (h : LaneHead) (m : ModA)
  | imul (h : LaneHead) (m : ModA)
  | imulh (h : LaneHead) (m : ModA)
  | imad (h : LaneHead) (m : ModA)
  | iabs (h : LaneHead) (m : ModA)
  | ineg (h : LaneHead) (m : ModA)
  | imin (h : LaneHead) (m : ModA)
  | imax (h : LaneHead) (m : ModA)
  | iand (h : LaneHead) (m : ModA)
  | ior (h : LaneHead) (m : ModA)
  | ixor (h : LaneHead) (m : ModA)
  | inot (h : LaneHead) (m : ModA)
  | ishl (h : LaneHead) (m : ModA)
  | ishr (h : LaneHead) (m : ModA)
  | isar (h : LaneHead) (m : ModA)
  | ipopc (h : LaneHead) (m : ModA)
  | iclz (h : LaneHead) (m : ModA)
  | ibfx (h : LaneHead) (m : ModA)
  | ibfi (h : LaneHead) (m : ModA)
  | isel (h : LaneHead) (m : ModA)
  | iadds (h : LaneHead) (m : ModA)
  | isubs (h : LaneHead) (m : ModA)
  | idot4 (h : LaneHead) (m : ModA)
  | icmpEq (h : LaneHead) (m : ModA)
  | icmpNe (h : LaneHead) (m : ModA)
  | icmpLt (h : LaneHead) (m : ModA)
  | icmpLe (h : LaneHead) (m : ModA)
  | icmpGt (h : LaneHead) (m : ModA)
  | icmpGe (h : LaneHead) (m : ModA)
  | fadd (h : LaneHead) (m : ModA)
  | fsub (h : LaneHead) (m : ModA)
  | fmul (h : LaneHead) (m : ModA)
  | ffma (h : LaneHead) (m : ModA)
  | fmin (h : LaneHead) (m : ModA)
  | fmax (h : LaneHead) (m : ModA)
  | fabs (h : LaneHead) (m : ModA)
  | fneg (h : LaneHead) (m : ModA)
  | fcmpEq (h : LaneHead) (m : ModA)
  | fcmpNe (h : LaneHead) (m : ModA)
  | fcmpLt (h : LaneHead) (m : ModA)
  | fcmpLe (h : LaneHead) (m : ModA)
  | fcmpGt (h : LaneHead) (m : ModA)
  | fcmpGe (h : LaneHead) (m : ModA)
  | fcmpUn (h : LaneHead) (m : ModA)
  | frcp (h : LaneHead) (m : ModA)
  | frsq (h : LaneHead) (m : ModA)
  | fsqrt (h : LaneHead) (m : ModA)
  | fdiv (h : LaneHead) (m : ModA)
  | fexp2 (h : LaneHead) (m : ModA)
  | flog2 (h : LaneHead) (m : ModA)
  | fsin (h : LaneHead) (m : ModA)
  | fcos (h : LaneHead) (m : ModA)
  | ftanh (h : LaneHead) (m : ModA)
  | fsigm (h : LaneHead) (m : ModA)
  | fround (h : LaneHead) (m : ModA)
  | fclass (h : LaneHead) (m : ModA)
  | fscale (h : LaneHead) (m : ModA)
  -- lane: conversions, block planes, moves (R203 to R210)
  | cvt (h : LaneHead) (m : ModC)
  | pack (h : LaneHead) (m : ModC)
  | unpk (h : LaneHead) (m : ModC)
  | qbp (h : LaneHead) (m : ModP)
  | dqbp (h : LaneHead) (m : ModP)
  | had32 (h : LaneHead) (m : ModA)
  | frmax (h : LaneHead) (m : ModX)
  | fradd (h : LaneHead) (m : ModX)
  /-- the four instructions of the idiom of R213 -/
  | fusedSoftmax (hm : LaneHead) (mm : ModX) (ht : LaneHead) (mt : ModA) (he : LaneHead) (me : ModA) (hs : LaneHead) (ms : ModX)
  | mov (h : LaneHead) (m : ModA)
  | movi (h : LaneHead) (imm : BitVec 32)
  | lidx (h : LaneHead) (m : ModA)
  -- lane: cross-lane (R214 to R217)
  | shfl (h : LaneHead) (m : ModA)
  | bcast (h : LaneHead) (m : ModA)
  | vote (h : LaneHead) (m : ModX)
  | pfxc (h : LaneHead) (m : ModX)
  | scan (h : LaneHead) (m : ModX)
  | red (h : LaneHead) (m : ModX)
  | lnop
  -- lane: memory, layout M (R218)
  | tld (h : LaneHead) (m : ModM)
  | tldIfempty (h : LaneHead) (m : ModM)
  | tst (h : LaneHead) (m : ModM)
  | tstIffull (h : LaneHead) (m : ModM)
  | tldf (h : LaneHead) (m : ModM)
  | tste (h : LaneHead) (m : ModM)
  | tldt (h : LaneHead) (m : ModM)
  | gld (h : LaneHead) (m : ModM)
  | gst (h : LaneHead) (m : ModM)
  | rld (h : LaneHead) (m : ModM)
  | atom (h : LaneHead) (m : ModM)
  | msgput (h : LaneHead) (m : ModM)
  | msgtake (h : LaneHead) (m : ModM)
  | wlapp (h : LaneHead) (m : ModM)
  | cstore (h : LaneHead) (m : ModM)
  | xld (h : LaneHead) (m : ModM)
  -- lane: matrix (R240)
  | mma (h : LaneHead) (m : ModMma)
  | mmaPair (h : LaneHead) (m : ModMma)
  | mzero (h : LaneHead) (acc : BitVec 2)
  | mread (h : LaneHead) (acc : BitVec 2)
  | mwrite (h : LaneHead) (acc : BitVec 2)
  | mdrain (h : LaneHead) (m : ModDrain)
  -- steps of a team and of its core
  | clauseStart (r : TeamRef)
  | clauseRetire (r : TeamRef)
  | clauseComplete (r : TeamRef) (uid : Nat)
  /-- access number `k` of the team's outstanding accesses -/
  | longLatencyComplete (r : TeamRef) (k : Nat)
  /-- store request number `k` of the stream is performed and acknowledged -/
  | storeAck (r : TeamRef) (st : Stream) (k : Nat)
  | teamWake (r : TeamRef) (st : Stream) (lane : Nat)
  | waitTimeout (r : TeamRef) (st : Stream) (lane : Nat)
  | streamDeliver (r : TeamRef) (k : Nat)
  | commandSignal (id : Nat)
  | layoutBlockConvert (crew : Nat) (h : Handle)
  | firstTouchBind (die : Nat) (va : BitVec 64)
  | matrixCommandStart (core : Nat)
  | accumulatorSwap (core : Nat) (acc : BitVec 2)
  | mmaComplete (core : Nat)
  | shadowLatchReplay (core : Nat)
  | pairOffer (core : Nat)
  | pairStart (core : Nat) (t : Nat)
  | pairStartCycle (core : Nat)
  | pairOfferWithdraw (core : Nat)
  -- steps of the scheduler (13, 17, 20)
  | crewFaultSave (crew : Nat)
  /-- cohort `cohort` of the launch at position `launch`, at slot `slot` of gang `gang` -/
  | crewPlace (launch cohort gang slot : Nat)
  | crewEvict (crew : Nat)
  | rgrowDeadlockEvict (core : Nat)
  | priorityAging (launch region : Nat)
  | priorityEvict (region : Nat)
  | cohortSteal (region : Nat)
  | launchAccept (q : Nat)
  | dependenceGatesResolved (launch : Nat)
  | leaseDue (u : DevUnit)
  | capacityNotify (crew : Nat)
  | nopreBudgetSpent (r : TeamRef)
  | forcedMigration (u : DevUnit)
  | channelLineMove (region ch line : Nat)
  | leaseTestStart (u : DevUnit)
  /-- `fails`: the pattern sets whose runs failed, in order, a set that failed twice standing twice in a row -/
  | testVerdict (u : DevUnit) (found : List RunFound) (got expect : List (BitVec 64))
  | scoreDecay
  | patrolScrub (u : DevUnit) (ev : Option ScoreEvent) (addr : Nat)
  -- the host: rings, memory, mailbox, SPDM, registers (14, 15, 17, 19 to 21)
  | launchQueueProdWrite (q : Nat) (v : BitVec 16)
  | poolProdWrite (p : Nat) (v : BitVec 16)
  | eventRingConsWrite (v : BitVec 16)
  | queueApertureWrite (off : Nat) (bytes : List Byte)
  | hostCxlMemRead (addr n : Nat)
  | hostCxlMemWrite (addr : Nat) (bytes : List Byte)
  | eventWrite
  | queueConfig (payload : List Byte)
  | rangeReserve (payload : List Byte)
  | rangeRelease (payload : List Byte)
  | poolConfig (payload : List Byte)
  | xlateInval (payload : List Byte)
  | spanJoin (payload : List Byte)
  | spanLeave (payload : List Byte)
  | eventConfig (payload : List Byte)
  | portStatus (payload : List Byte)
  | crewResume (payload : List Byte)
  | crewAbandon (payload : List Byte)
  | quiesce (payload : List Byte)
  | quiesceTimeout
  | resume (payload : List Byte)
  | restore (payload : List Byte)
  | unitStatus (payload : List Byte)
  | recordRead (payload : List Byte)
  | cometConfig (payload : List Byte)
  | cometTrack (payload : List Byte)
  | stepQuery (payload : List Byte)
  | stepRebuild (payload : List Byte)
  | stepLoad (payload : List Byte)
  | launchAbandon (payload : List Byte)
  | wlRelease (payload : List Byte)
  | mailboxUnsupportedOpcode (opcode : BitVec 16)
  | getVersion (msg : List Byte)
  | getCapabilities (msg : List Byte)
  | negotiateAlgorithms (msg : List Byte)
  | getDigests (msg : List Byte)
  | getCertificate (msg : List Byte)
  | challenge (msg : List Byte)
  | getMeasurements (msg : List Byte)
  | spdmUnsupportedRequest (msg : List Byte)
  | capWrite (v : BitVec 32) (i3c : Bool)
  | alarmClear (v : BitVec 32)
  | perfCounterClear (die : Nat)
  | registerWrite (off : Nat) (v : BitVec 32)
  | i3cSetdasa (addr : BitVec 7)
  -- power and boot (15, 21)
  | vauxApply
  | vinApply
  | vinLoss
  | thermalTrip
  | junctionHot (temp : BitVec 8)
  | monitorAlarm (temp : BitVec 8)
  | voltageDroop (island : Nat)
  | coldReset
  | holdupCharged
  | bootRunning
  | ballastDrainLine (die : Nat)
  -- the fabric and the span (12, 14, 21)
  | portSignalDetect (p : Nat)
  | portLanesLocked (p : Nat)
  | portTrainTimeout (p : Nat)
  | portSignalLoss (p : Nat)
  | hello (f : Flit)
  | ack (f : Flit)
  | nak (f : Flit)
  | flitCrcError (f : Flit)
  | flitUnassigned (f : Flit)
  | flitWrite (f : Flit)
  | flitReadRequest (f : Flit)
  | flitReadResponse (f : Flit)
  | xredContribution (f : Flit)
  | xredResult (f : Flit)
  | cometShard (f : Flit)
  | routeLost (m : Nat)
  | memberLost (m : Nat)
  /-- the Tether messages; `link` says how one from another package arrives, and nothing of a local one -/
  | tetherReadRequest (line : Nat) (pkg gang : Nat) (tag : BitVec 32) (link : Link)
  | tetherOwnershipRequest (line : Nat) (pkg gang : Nat) (tag : BitVec 32) (link : Link)
  | tetherAtomicRequest (line : Nat) (pkg gang : Nat) (tag : BitVec 32) (off : BitVec 6) (size : ScalarSize) (op : AtomOp) (operand cmp : Word) (claim : Bool) (link : Link)
  | tetherGrant (line gang : Nat) (tag : BitVec 32) (excl : Bool) (modified : Bool) (refused : Bool) (data : BitVec 512) (old : Word) (link : Link)
  | tetherSnoop (line gang : Nat) (inval : Bool) (link : Link)
  | tetherWriteBack (line pkg gang : Nat) (data : Option (BitVec 512)) (link : Link)
  | tetherReplacement (line gang : Nat)
  | tetherSnoopTimeout (line : Nat)
  | tetherRevoke (line gang : Nat) (link : Link)
  | requestGuardExpiry (r : TeamRef)
  | homeGuardExpiry (line : Nat)
  -- work lists (12 R274, 10 R237)
  | wlRunRequest (k : Nat)
  | wlappItemWrite (k : Nat)
  | wlCountChange (k : Nat)
  -- Comet (12 R276, 21 R407)
  | cometCaptureBegin (n : BitVec 32)
  | cometGranulePreserve (g : Nat)
  | cometCaptureEnd
  | cometStreamGranule (g : Nat)
  | cometPrepared
  | cometCommit (n : BitVec 32)
  | cometRecordDurable
  | functionReset
  | vauxRemoval
  | cometPreparedReport (m : Nat) (n : BitVec 32)
  | memberReachable (m : Nat)
  deriving DecidableEq, Repr

end Sys2Proof
end

