-- ==== Sys2Proof/WellFormed.lean ====
section
/-! DEFINITION. Which instructions have an assigned encoding with every unused field zero (07 R136, R147 to R150; the
ENCODING rows of 18 R349, R352, R353, R355). `Instr.wf` is decidable; what it refuses has only the fate of R349. -/

namespace Sys2Proof

/-- The width in bits of an element type of codes 0 to 14 (04 R71); code 14 moves 32-bit block words (10 R220). -/
def elemWidth (ty : BitVec 4) : Nat :=
  match ty.toNat with
  | 0 => 8 | 1 => 16 | 2 => 32 | 3 => 64 | 4 => 8 | 5 => 16 | 6 => 32 | 7 => 64
  | 8 => 32 | 9 => 16 | 10 => 16 | 11 => 8 | 12 => 8 | 13 => 4 | 14 => 32 | _ => 0

/-- The element width a selector code names, 0 for none (07 R149). -/
def selWidth (sel : BitVec 5) : Nat :=
  let n := sel.toNat
  if n = 0 then 0 else if n = 1 then 64 else if n < 4 then 32 else if n < 8 then 16 else if n < 16 then 8 else 4

/-- The element a selector code names (07 R149). -/
def selIndex (sel : BitVec 5) : Nat :=
  let n := sel.toNat
  if n < 2 then 0 else if n < 4 then n - 2 else if n < 8 then n - 4 else if n < 16 then n - 8 else n - 16

/-- A selector is absent or has the width of the type (07 R149). -/
def selOk (ty : BitVec 4) (sel : BitVec 5) : Bool := sel == 0#5 || selWidth sel == elemWidth ty

/-- Integer types, codes 0 to 7 (04 R71). -/
def isIntTy (ty : BitVec 4) : Bool := ty.toNat < 8
/-- The types .f32, .bf16 and .f16. -/
def isFloat3 (ty : BitVec 4) : Bool := ty.toNat == 8 || ty.toNat == 9 || ty.toNat == 10
/-- Codes 0 to 13: every type a lane register holds. -/
def isElemTy (ty : BitVec 4) : Bool := ty.toNat < 14

/-- A source an instruction does not use: every field zero (07 R148). -/
def srcUnused (reg : BitVec 9) (z b : Bool) (q : BitVec 4) (sel : BitVec 5) : Bool :=
  reg == 0#9 && !z && !b && q == 0#4 && sel == 0#5

/-- A source an instruction uses: at most one of register, zero, buffer and queue, and a selector of the type's width
(07 R149; 18 R352). -/
def srcOk (ty : BitVec 4) (reg : BitVec 9) (z b : Bool) (q : BitVec 4) (sel : BitVec 5) : Bool :=
  selOk ty sel && !(z && b) && (if bitAt q 3 then !z && !b && reg == 0#9 else q == 0#4)

/-- The retain field names none, or a source that is read (18 R352). -/
def retainOk (retain : BitVec 2) (u0 u1 u2 : Bool) : Bool :=
  match retain.toNat with | 0 => true | 1 => u0 | 2 => u1 | _ => u2

/-- Sources and retain of a layout A instruction that uses s0 to s2 as `u0 u1 u2` say, its operands having type `ty`. -/
def srcsA (h : LaneHead) (m : ModA) (ty : BitVec 4) (u0 u1 u2 : Bool) : Bool :=
  (if u0 then srcOk ty h.s0 h.z0 h.b0 m.q0 m.s0sel else srcUnused h.s0 h.z0 h.b0 m.q0 m.s0sel) &&
  (if u1 then srcOk ty h.s1 h.z1 h.b1 m.q1 m.s1sel else srcUnused h.s1 h.z1 h.b1 m.q1 m.s1sel) &&
  (if u2 then srcOk ty h.s2 h.z2 h.b2 0#4 m.s2sel else srcUnused h.s2 h.z2 h.b2 0#4 m.s2sel) &&
  retainOk h.retain u0 u1 u2

/-- An elementwise instruction of layout A: allowed types, sources used, whether .sat is accepted, the greatest rounding
code (09 R192 to R201). -/
def wfA (h : LaneHead) (m : ModA) (types : BitVec 4 → Bool) (u0 u1 u2 sat : Bool) (rmax : Nat) : Bool :=
  types h.ty && srcsA h m h.ty u0 u1 u2 && selOk h.ty m.dsel && (sat || !h.md) && decide (m.rm.toNat ≤ rmax)

/-- A compare: the destination is a predicate without selector (09 R197, R199). -/
def wfCmp (h : LaneHead) (m : ModA) (types : BitVec 4 → Bool) : Bool :=
  wfA h m types true true false false 0 && decide (h.dst.toNat < 16) && m.dsel == 0#5

/-- IDOT4 takes .i8 or .n8 and no selector (09 R196). -/
def wfIdot4 (h : LaneHead) (m : ModA) : Bool :=
  wfA h m (fun t => t == 0#4 || t == 4#4) true true true true 0 &&
  m.dsel == 0#5 && m.s0sel == 0#5 && m.s1sel == 0#5 && m.s2sel == 0#5

/-- SHFL and BCAST: the type applies to s0 without selector, .n32 to s1 (09 R215). -/
def wfShfl (h : LaneHead) (m : ModA) : Bool :=
  isElemTy h.ty && srcOk h.ty h.s0 h.z0 h.b0 m.q0 m.s0sel && m.s0sel == 0#5 &&
  srcOk 6#4 h.s1 h.z1 h.b1 m.q1 m.s1sel && srcUnused h.s2 h.z2 h.b2 0#4 m.s2sel &&
  retainOk h.retain true true false && selOk h.ty m.dsel && !h.md && m.rm == 0#3

/-- HAD32: .f32 with equal selectors; w1[0] is .norm (09 R210). -/
def wfHad32 (h : LaneHead) (m : ModA) : Bool :=
  wfA h m (· == 8#4) true false false true 0 && m.dsel == m.s0sel

/-- The key source of RSX conversions: s1 without selector or queue (09 R206). -/
def keyOk (h : LaneHead) (m : ModC) : Bool := srcOk h.ty h.s1 h.z1 h.b1 0#4 m.s1sel && m.s1sel == 0#5

/-- CVT (09 R203): both selectors or none; s1 only under RSX. -/
def wfCvt (h : LaneHead) (m : ModC) : Bool :=
  let rsx := m.rm == 4#3
  isElemTy h.ty && isElemTy m.sty && srcOk m.sty h.s0 h.z0 h.b0 m.q0 m.s0sel && selOk h.ty m.dsel &&
  ((m.s0sel == 0#5) == (m.dsel == 0#5)) &&
  (if rsx then keyOk h m else srcUnused h.s1 h.z1 h.b1 0#4 m.s1sel) &&
  srcUnused h.s2 h.z2 h.b2 0#4 m.s2sel && retainOk h.retain true rsx false && decide (m.rm.toNat ≤ 4)

/-- PACK (09 R204, R206): no source selector, an aligned destination element; the second operand in s1, or in s2 under RSX. -/
def wfPack (h : LaneHead) (m : ModC) : Bool :=
  let rsx := m.rm == 4#3
  isElemTy h.ty && isElemTy m.sty && decide (elemWidth h.ty < elemWidth m.sty) &&
  srcOk m.sty h.s0 h.z0 h.b0 m.q0 m.s0sel && m.s0sel == 0#5 &&
  srcOk m.sty h.s1 h.z1 h.b1 0#4 m.s1sel && m.s1sel == 0#5 &&
  (if rsx then srcOk m.sty h.s2 h.z2 h.b2 0#4 m.s2sel && m.s2sel == 0#5 else srcUnused h.s2 h.z2 h.b2 0#4 m.s2sel) &&
  selOk h.ty m.dsel && decide (selIndex m.dsel % (2 * (64 / elemWidth m.sty)) = 0) &&
  retainOk h.retain true true rsx && decide (m.rm.toNat ≤ 4)

/-- UNPK (09 R205): no destination selector, an aligned source element; s1 only under RSX. -/
def wfUnpk (h : LaneHead) (m : ModC) : Bool :=
  let rsx := m.rm == 4#3
  isElemTy h.ty && isElemTy m.sty && decide (elemWidth m.sty < elemWidth h.ty) &&
  srcOk m.sty h.s0 h.z0 h.b0 m.q0 m.s0sel && decide (selIndex m.s0sel % (64 / elemWidth h.ty) = 0) && m.dsel == 0#5 &&
  (if rsx then keyOk h m else srcUnused h.s1 h.z1 h.b1 0#4 m.s1sel) &&
  srcUnused h.s2 h.z2 h.b2 0#4 m.s2sel && retainOk h.retain true rsx false && decide (m.rm.toNat ≤ 4)

/-- QBP and DQBP (09 R208, R209): one named element of T on the value side, a .w selector on the block side. -/
def wfQbp (h : LaneHead) (m : ModP) (valSel blkSel : BitVec 5) : Bool :=
  isFloat3 h.ty && !(valSel == 0#5) && selOk h.ty valSel && (blkSel == 2#5 || blkSel == 3#5) &&
  decide (2 ≤ m.p.toNat ∧ m.p.toNat ≤ 16) && srcOk h.ty h.s0 h.z0 h.b0 m.q0 0#5 &&
  srcUnused h.s1 h.z1 h.b1 0#4 m.s1sel && srcUnused h.s2 h.z2 h.b2 0#4 m.s2sel && retainOk h.retain true false false && !h.md

/-- The common form of the range instructions of layout X that read s0 (09 R211 to R214). -/
def wfRange (h : LaneHead) (m : ModX) (types : BitVec 4 → Bool) : Bool :=
  types h.ty && srcOk h.ty h.s0 h.z0 h.b0 m.q0 m.s0sel && srcUnused h.s1 h.z1 h.b1 0#4 m.s1sel &&
  srcUnused h.s2 h.z2 h.b2 0#4 m.s2sel && retainOk h.retain true false false && selOk h.ty m.dsel &&
  decide (m.range.toNat ≤ 6)

/-- FRMAX and FRADD (09 R212). -/
def wfFrange (h : LaneHead) (m : ModX) : Bool := wfRange h m isFloat3 && m.op == 0#4 && !h.md

/-- RED and SCAN (09 R214). -/
def wfRed (h : LaneHead) (m : ModX) (scan : Bool) : Bool :=
  let op := (field m.op 2 0).toNat
  wfRange h m (fun t => isIntTy t || isFloat3 t) && decide (op ≤ 5) && (scan || !bitAt m.op 3) &&
  (decide (op ≤ 2) || isIntTy h.ty) && (!h.md || (isIntTy h.ty && decide (op = 0)))

/-- A predicate named in s0[3:0] (09 R216, R217). -/
def predSrcOk (h : LaneHead) (m : ModX) : Bool :=
  decide (h.s0.toNat < 16) && !h.z0 && !h.b0 && m.q0 == 0#4 && m.s0sel == 0#5 &&
  srcUnused h.s1 h.z1 h.b1 0#4 m.s1sel && srcUnused h.s2 h.z2 h.b2 0#4 m.s2sel && h.retain == 0#2

/-- VOTE (09 R216). -/
def wfVote (h : LaneHead) (m : ModX) : Bool :=
  h.ty == 0#4 && predSrcOk h m && m.dsel == 0#5 && decide (1 ≤ h.dst.toNat ∧ h.dst.toNat ≤ 7) &&
  m.range == 0#4 && m.op == 0#4 && !h.md

/-- PFXC (09 R217). -/
def wfPfxc (h : LaneHead) (m : ModX) : Bool :=
  isIntTy h.ty && predSrcOk h m && selOk h.ty m.dsel && decide (m.range.toNat ≤ 6 ∧ m.op.toNat ≤ 2)

/-- MOVI (09 R207, layout I): the destination selector stands in s0[4:0]. -/
def wfMovi (h : LaneHead) : Bool :=
  isElemTy h.ty && decide (h.s0.toNat < 32) && selOk h.ty (h.s0.setWidth 5) && h.s1 == 0#9 && h.s2 == 0#9 &&
  !h.z0 && !h.z1 && !h.z2 && !h.b0 && !h.b1 && !h.b2 && h.retain == 0#2 && !h.md

/-- How a lane memory instruction uses a source field (10 R218). -/
inductive MemSrc where
  | unused
  /-- a value, to which Z, B and retain apply -/
  | value
  /-- a register that is written, or the first of a group: neither Z nor B -/
  | register
  deriving DecidableEq, Repr

/-- A source field s1 or s2 of layout M. -/
def memSrcOk (k : MemSrc) (reg : BitVec 9) (z b : Bool) : Bool :=
  match k with
  | .unused => reg == 0#9 && !z && !b
  | .value => !(z && b)
  | .register => !z && !b

/-- The common form of a lane memory instruction: s0 without Z and B or a queue, s1 and s2 as given, and the fields e,
consume, atomic op and space zero where they are not used (10 R218). Retain of s0 is accepted (notes/assumptions/20.md). -/
def wfMem (h : LaneHead) (m : ModM) (types : BitVec 4 → Bool) (u0 : Bool) (k1 k2 : MemSrc) (dst handle ebits consume space aop : Bool) : Bool :=
  types h.ty && !h.md && !h.z0 && !h.b0 &&
  (if u0 then (if bitAt m.q0 3 then h.s0 == 0#9 else m.q0 == 0#4) else h.s0 == 0#9 && m.q0 == 0#4) &&
  memSrcOk k1 h.s1 h.z1 h.b1 && memSrcOk k2 h.s2 h.z2 h.b2 &&
  retainOk h.retain u0 (k1 == .value) (k2 == .value) && (dst || h.dst == 0#9) &&
  ((handle && !m.glob) || m.handle == 0#8) && (ebits || m.e == 0#5) && (consume || !m.consume) &&
  (space || !m.glob) && (aop || m.aop == 0#4)

/-- The data selector of an untagged access: none or the type's width; type 14 names .w0 or .w1 (10 R219, R220). -/
def dataSelOk (h : LaneHead) (m : ModM) : Bool :=
  if h.ty == 14#4 then m.sel == 2#5 || m.sel == 3#5 else selOk h.ty m.sel

/-- The data selector of a tagged form names one element of 32 or 64 bits (10 R226). -/
def taggedSelOk (h : LaneHead) (m : ModM) : Bool :=
  (m.sel == 1#5 || m.sel == 2#5 || m.sel == 3#5) && selWidth m.sel == elemWidth h.ty

/-- The types of TLDF, TSTE and ATOM's 32 and 64-bit elements (10 R218). -/
def isTaggedTy (ty : BitVec 4) : Bool := [2, 3, 6, 7, 8, 14].contains ty.toNat

/-- One named element, or none for a 64-bit type (10 R232, R235). -/
def oneElemSel (h : LaneHead) (m : ModM) : Bool :=
  selOk h.ty m.sel && (!(m.sel == 0#5) || elemWidth h.ty == 64)

/-- An operation code of ATOM that the type allows (10 R232). -/
def atomOpOk (h : LaneHead) (m : ModM) : Bool :=
  let f := m.aop == 1#4 || m.aop == 11#4 || m.aop == 12#4
  decide (m.aop.toNat ≤ 12) && (f == (h.ty == 8#4))

/-- Types of CSTORE and XLD by space (10 R218). -/
def isStoreTy (h : LaneHead) (m : ModM) : Bool := if m.glob then decide (h.ty.toNat ≤ 12) else isElemTy h.ty

/-- The common form of a matrix instruction (11 R240, 18 R355): retain 00, no w1[0] but for MDRAIN. -/
def wfMx (h : LaneHead) (ty : BitVec 4 → Bool) (dst u0 u1 u2 : Bool) : Bool :=
  ty h.ty && h.retain == 0#2 && (dst || h.dst == 0#9) &&
  (if u0 then !(h.z0 && h.b0) else h.s0 == 0#9 && !h.z0 && !h.b0) &&
  (if u1 then !(h.z1 && h.b1) else h.s1 == 0#9 && !h.z1 && !h.b1) &&
  (if u2 then !(h.z2 && h.b2) else h.s2 == 0#9 && !h.z2 && !h.b2)

/-- MMA: precisions 2 to 16 (11 R242, 18 R355). -/
def wfMma (h : LaneHead) (m : ModMma) : Bool :=
  wfMx h (· == 14#4) false true true true && !h.md && !(m.pa1 == 0#4) && !(m.pb1 == 0#4)

/-- MDRAIN (11 R255, 18 R355). -/
def wfDrain (h : LaneHead) (m : ModDrain) : Bool :=
  wfMx h isElemTy false true m.residual (m.dropout || m.rm == 4#3) && decide (m.rm.toNat ≤ 4) &&
  (m.residual || m.res == 0#8) && (!m.glob || decide (m.dest.toNat < 64)) &&
  (!m.add || (isFloat3 h.ty && m.rm == 0#3))

/-- The instructions that fuse into the softmax idiom of R213. -/
def wfFused (hm : LaneHead) (mm : ModX) (ht : LaneHead) (mt : ModA) (he : LaneHead) (me : ModA) (hs : LaneHead) (ms : ModX) : Bool :=
  let sels := [mm.dsel, mm.s0sel, mt.dsel, mt.s0sel, mt.s1sel, me.dsel, me.s0sel, ms.dsel, ms.s0sel]
  wfFrange hm mm && wfA ht mt isFloat3 true true false false 3 && wfA he me isFloat3 true false false false 0 && wfFrange hs ms &&
  hm.ty == ht.ty && hm.ty == he.ty && hm.ty == hs.ty && hm.guard == ht.guard && hm.guard == he.guard && hm.guard == hs.guard &&
  hm.neg == ht.neg && hm.neg == he.neg && hm.neg == hs.neg && mm.range == ms.range &&
  sels.all (· == mm.dsel) && mt.rm == 0#3 &&
  !hm.z0 && !hm.b0 && mm.q0 == 0#4 && !ht.z0 && !ht.b0 && mt.q0 == 0#4 && !ht.z1 && !ht.b1 && mt.q1 == 0#4 &&
  !he.z0 && !he.b0 && me.q0 == 0#4 && !hs.z0 && !hs.b0 && ms.q0 == 0#4 &&
  ht.s0 == hm.s0 && ht.s1 == hm.dst && he.s0 == ht.dst && hs.s0 == he.dst

/-- A size that tile space allows: 32 or 64 bits (07 R140, 18 R351). -/
def ScalarSize.tileOk : ScalarSize → Bool
  | .n32 | .i32 | .d64 => true
  | _ => false

/-- The sizes at which an atomic operation is valid (07 R140, 08 R166). -/
def ScalarSize.atomOk (z : ScalarSize) (op : AtomOp) : Bool :=
  z.tileOk && (match op with | .fadd | .fmin | .fmax => !(z == .d64) | _ => true)

/-- A descriptor group: a multiple of 4 (07 R136). -/
def groupOk (a : SReg) : Bool := field a 1 0 == 0#2

/-- Whether an instruction has an assigned encoding and meets the ENCODING rows of 18 R349 to R355. Events have no
encoding and are well formed. -/
def Instr.wf : Instr → Bool
  | .sld _ _ z sp => (match sp with | .glob _ => true | .tile _ => z.tileOk)
  | .sst _ _ z sp => (match sp with | .glob _ => true | .tile _ => z.tileOk)
  | .sldf _ _ _ z _ _ _ => z.tileOk
  | .sste _ _ _ z _ _ => z.tileOk
  | .satom _ _ _ z op _ => z.atomOk op
  | .strmD _ a bb => groupOk a && !bitAt bb 0 && decide (bb.toNat ≤ 60)
  | .strmC4 _ a bb => groupOk a && !bitAt bb 0 && decide (bb.toNat ≤ 60)
  | .qld _ a => groupOk a
  | .xwin _ a => groupOk a
  | .xcopy _ a => groupOk a
  | .xred _ a => groupOk a
  | .wlinit _ a => groupOk a
  | .wltake _ a _ => groupOk a
  | .tdesc d _ => !bitAt d 0 && decide (d.toNat ≤ 60)
  | .iadd h m | .isub h m | .imul h m => wfA h m isIntTy true true false true 0
  | .imad h m => wfA h m isIntTy true true true true 0
  | .iabs h m | .ineg h m => wfA h m isIntTy true false false true 0
  | .ishl h m | .iadds h m | .isubs h m => wfA h m isIntTy true true false true 0
  | .imulh h m | .imin h m | .imax h m | .iand h m | .ior h m | .ixor h m | .ishr h m | .isar h m | .ibfx h m =>
      wfA h m isIntTy true true false false 0
  | .inot h m | .ipopc h m | .iclz h m => wfA h m isIntTy true false false false 0
  | .ibfi h m | .isel h m => wfA h m isIntTy true true true false 0
  | .idot4 h m => wfIdot4 h m
  | .icmpEq h m | .icmpNe h m | .icmpLt h m | .icmpLe h m | .icmpGt h m | .icmpGe h m => wfCmp h m isIntTy
  | .fadd h m | .fsub h m | .fmul h m | .fdiv h m | .fscale h m => wfA h m isFloat3 true true false false 3
  | .ffma h m => wfA h m isFloat3 true true true false 3
  | .fmin h m | .fmax h m => wfA h m isFloat3 true true false false 0
  | .fabs h m | .fneg h m | .fclass h m => wfA h m isFloat3 true false false false 0
  | .fcmpEq h m | .fcmpNe h m | .fcmpLt h m | .fcmpLe h m | .fcmpGt h m | .fcmpGe h m | .fcmpUn h m => wfCmp h m isFloat3
  | .frcp h m | .fsqrt h m | .fround h m => wfA h m isFloat3 true false false false 3
  | .frsq h m | .fexp2 h m | .flog2 h m | .fsin h m | .fcos h m | .ftanh h m | .fsigm h m =>
      wfA h m isFloat3 true false false false 0
  | .cvt h m => wfCvt h m
  | .pack h m => wfPack h m
  | .unpk h m => wfUnpk h m
  | .qbp h m => wfQbp h m m.s0sel m.dsel
  | .dqbp h m => wfQbp h m m.dsel m.s0sel
  | .had32 h m => wfHad32 h m
  | .frmax h m | .fradd h m => wfFrange h m
  | .fusedSoftmax hm mm ht mt he me hs ms => wfFused hm mm ht mt he me hs ms
  | .mov h m => wfA h m isElemTy true false false false 0
  | .movi h _ => wfMovi h
  | .lidx h m => wfA h m isIntTy false false false false 0
  | .shfl h m | .bcast h m => wfShfl h m
  | .vote h m => wfVote h m
  | .pfxc h m => wfPfxc h m
  | .scan h m => wfRed h m true
  | .red h m => wfRed h m false
  | .tld h m => wfMem h m (·.toNat ≤ 14) true .unused .unused true true false false false false && dataSelOk h m
  | .tldIfempty h m => wfMem h m (·.toNat ≤ 14) true .unused .register true true true false false false && taggedSelOk h m
  | .tst h m => wfMem h m (·.toNat ≤ 14) true .value .unused false true false false false false && dataSelOk h m
  | .tstIffull h m => wfMem h m (·.toNat ≤ 14) true .value .register false true true false false false && taggedSelOk h m
  | .tldf h m => wfMem h m isTaggedTy true .unused .register true true true true false false && taggedSelOk h m
  | .tste h m => wfMem h m isTaggedTy true .value .register false true true false false false && taggedSelOk h m
  | .tldt h m => wfMem h m isElemTy true .unused .unused true true false false false false && m.sel == 0#5
  | .gld h m => wfMem h m (·.toNat ≤ 12) true .unused .unused true false false false false false && selOk h.ty m.sel
  | .gst h m => wfMem h m (·.toNat ≤ 12) true .value .unused false false false false false false && selOk h.ty m.sel
  | .rld h m => wfMem h m isElemTy true .value .register true false true false false false && selOk h.ty m.sel
  | .atom h m =>
      wfMem h m (fun t => [2, 3, 6, 7, 8].contains t.toNat) true .value (if m.aop == 10#4 then .value else .unused)
        true true false false true true && oneElemSel h m && atomOpOk h m
  | .msgput h m => wfMem h m (· == 6#4) true .value .register true false true false false false && m.sel == 0#5
  | .msgtake h m => wfMem h m (· == 6#4) false .unused .register true true true false false false && m.sel == 0#5
  | .wlapp h m => wfMem h m (· == 7#4) true .value .value true false false false false false && m.sel == 0#5
  | .cstore h m => wfMem h m (fun _ => isStoreTy h m) true .value .unused true true false false true false && oneElemSel h m
  | .xld h m => wfMem h m (fun _ => isStoreTy h m) true .unused .unused true true false false true false && oneElemSel h m
  | .mma h m | .mmaPair h m => wfMma h m
  | .mzero h _ => wfMx h (· == 0#4) false false false false && !h.md
  | .mread h _ => wfMx h (· == 8#4) true true false false && !h.md
  | .mwrite h _ => wfMx h (· == 8#4) false true true false && !h.md
  | .mdrain h m => wfDrain h m
  | _ => true

end Sys2Proof
end

