-- ==== Sys2Proof/Decode.lean ====
section
/-! DEFINITION. Decoding and encoding of scalar words, lane instructions and clause headers (07_encodings R134 to R152).
Decoding is total: what no map assigns is rejected by name, and has the fate of 18 R349. -/

namespace Sys2Proof

/-- Why a word is rejected (18 R349). -/
inductive DecodeError where
  /-- an unassigned major opcode -/
  | major
  /-- an unassigned func, condition code, space, size, op or register-field value -/
  | func
  /-- a nonzero must-be-zero field -/
  | field
  /-- an unassigned lane opcode -/
  | opcode
  /-- an operand, type, selector or option the instruction does not take -/
  | operand
  /-- a malformed clause header -/
  | header
  /-- fewer bytes than an instruction -/
  | truncated
  deriving DecidableEq, Repr

/-- The little-endian bytes of a number (00 R5). -/
def leBytes : Nat → Nat → List Byte
  | 0, _ => []
  | n + 1, x => BitVec.ofNat 8 x :: leBytes n (x / 256)

/-- The number whose little-endian bytes are given (00 R5). -/
def leNat : List Byte → Nat
  | [] => 0
  | b :: bs => b.toNat + 256 * leNat bs

/-- A 32-bit word from the first four bytes, with the rest. -/
def takeWord : List Byte → Option (W32 × List Byte)
  | b0 :: b1 :: b2 :: b3 :: rest => some (b3 ++ b2 ++ b1 ++ b0, rest)
  | _ => none

/-- The condition code of func[2:0] (07 R138). -/
def decodeCond (c : BitVec 3) : Option Cond :=
  match c.toNat with
  | 0 => some .eq | 1 => some .ne | 2 => some .lt | 3 => some .ge | 4 => some .ltn | 5 => some .gen | _ => none

def encodeCond : Cond → BitVec 3
  | .eq => 0 | .ne => 1 | .lt => 2 | .ge => 3 | .ltn => 4 | .gen => 5

/-- The access size of func[5:3] (07 R140). -/
def decodeSize (c : BitVec 3) : Option ScalarSize :=
  match c.toNat with
  | 0 => some .n8 | 1 => some .i8 | 2 => some .n16 | 3 => some .i16 | 4 => some .n32 | 5 => some .i32 | 6 => some .d64
  | _ => none

def encodeSize : ScalarSize → BitVec 3
  | .n8 => 0 | .i8 => 1 | .n16 => 2 | .i16 => 3 | .n32 => 4 | .i32 => 5 | .d64 => 6

/-- The atomic operation code (07 R140). -/
def decodeAtomOp (c : BitVec 4) : Option AtomOp :=
  match c.toNat with
  | 0 => some .add | 1 => some .fadd | 2 => some .min | 3 => some .max | 4 => some .minn | 5 => some .maxn
  | 6 => some .and | 7 => some .or | 8 => some .xor | 9 => some .swap | 10 => some .cas | 11 => some .fmin | 12 => some .fmax
  | _ => none

def encodeAtomOp : AtomOp → BitVec 4
  | .add => 0 | .fadd => 1 | .min => 2 | .max => 3 | .minn => 4 | .maxn => 5 | .and => 6 | .or => 7 | .xor => 8
  | .swap => 9 | .cas => 10 | .fmin => 11 | .fmax => 12

/-- The scope of a fence (06 R121); codes 6 and 7 are reserved. -/
def decodeScope (c : BitVec 3) : Option Scope :=
  match c.toNat with
  | 0 => some .team | 1 => some .crew | 2 => some .gang | 3 => some .region | 4 => some .device | 5 => some .span | _ => none

def encodeScope : Scope → BitVec 3
  | .team => 0 | .crew => 1 | .gang => 2 | .region => 3 | .device => 4 | .span => 5

/-- The major opcodes that carry an extension word (07 R135). -/
def hasExt (w : W32) : Bool := [0x09, 0x0A, 0x0B, 0x13, 0x18, 0x1A].contains (field w 31 26).toNat

/-- A field that must be zero. -/
def mustZero (c : Bool) (i : Instr) : Except DecodeError Instr := if c then .ok i else .error .field

/-- A code that a map may leave unassigned. -/
def assigned {α : Type} (x : Option α) (k : α → Except DecodeError Instr) : Except DecodeError Instr :=
  match x with
  | some a => k a
  | none => .error .func

/-- Major 0x01 by func (07 R138). -/
def decodeAlu (w : W32) : Except DecodeError Instr :=
  let d : SReg := field w 25 20
  let a : SReg := field w 19 14
  let b : SReg := field w 13 8
  match (field w 7 0).toNat with
  | 0x00 => .ok (.add d a b)
  | 0x01 => .ok (.sub d a b)
  | 0x02 => .ok (.mul d a b)
  | 0x03 => .ok (.mulh d a b)
  | 0x04 => .ok (.mulhn d a b)
  | 0x05 => .ok (.div d a b)
  | 0x06 => .ok (.divn d a b)
  | 0x07 => .ok (.rem d a b)
  | 0x08 => .ok (.remn d a b)
  | 0x10 => .ok (.and d a b)
  | 0x11 => .ok (.or d a b)
  | 0x12 => .ok (.xor d a b)
  | 0x13 => .ok (.andn d a b)
  | 0x14 => .ok (.shl d a b)
  | 0x15 => .ok (.shr d a b)
  | 0x16 => .ok (.sar d a b)
  | 0x17 => .ok (.rol d a b)
  | 0x20 => .ok (.min d a b)
  | 0x21 => .ok (.max d a b)
  | 0x22 => .ok (.minn d a b)
  | 0x23 => .ok (.maxn d a b)
  | 0x24 => mustZero (b == 0#6) (.clz d a)
  | 0x25 => mustZero (b == 0#6) (.popc d a)
  | 0x26 => mustZero (b == 0#6) (.brev d a)
  | 0x27 => .ok (.sext d a b)
  | 0x28 => .ok (.zext d a b)
  | 0x30 => .ok (.set d a b .eq)
  | 0x31 => .ok (.set d a b .ne)
  | 0x32 => .ok (.set d a b .lt)
  | 0x33 => .ok (.set d a b .ge)
  | 0x34 => .ok (.set d a b .ltn)
  | 0x35 => .ok (.set d a b .gen)
  | _ => .error .func

/-- Major 0x0B: scalar memory accesses (07 R140). -/
def decodeAccess (w ext : W32) : Except DecodeError Instr :=
  let d : SReg := field w 25 20
  let a : SReg := field w 19 14
  let b : SReg := field w 13 8
  let h : Handle := field ext 7 0
  let tile := field w 7 6 == 1#2
  let extTile := field ext 31 18 == 0#14
  let noE := field ext 12 8 == 0#5
  let noC := !bitAt ext 13
  let noOp := field ext 17 14 == 0#4
  if bitAt w 7 then .error .func else
  assigned (decodeSize (field w 5 3)) fun z =>
  match (field w 2 0).toNat with
  | 0 => if tile then mustZero (b == 0#6 && extTile && noE && noC && noOp) (.sld d a z (.tile h))
         else mustZero (b == 0#6) (.sld d a z (.glob ext))
  | 1 => if tile then mustZero (b == 0#6 && extTile && noE && noC && noOp) (.sst d a z (.tile h))
         else mustZero (b == 0#6) (.sst d a z (.glob ext))
  | 2 => if tile then mustZero (extTile && noOp) (.sldf d a b z h (field ext 12 8) (bitAt ext 13)) else .error .func
  | 3 => if tile then mustZero (extTile && noOp && noC) (.sste d a b z h (field ext 12 8)) else .error .func
  | 4 =>
    if tile then assigned (decodeAtomOp (field ext 17 14)) fun op => mustZero (extTile && noE && noC) (.satom d a b z op (.tile h))
    else assigned (decodeAtomOp (field ext 3 0)) fun op => mustZero (field ext 31 4 == 0#28) (.satom d a b z op .glob)
  | _ => .error .func

/-- Major 0x14: mask instructions (07 R142). -/
def decodeMask (w : W32) : Except DecodeError Instr :=
  let md : MReg := field w 25 23
  let ms : MReg := field w 22 20
  let mt : MReg := field w 18 16
  let sd : SReg := field w 13 8
  let p0 := field w 19 14 == 0#6
  let pt := !bitAt w 19 && field w 15 14 == 0#2
  let md0 := md == 0#3
  let ms0 := ms == 0#3
  let sd0 := sd == 0#6
  match (field w 7 0).toNat with
  | 0 => mustZero (md0 && p0 && sd0) (.mpush ms)
  | 1 => mustZero (md0 && ms0 && p0 && sd0) .melse
  | 2 => mustZero (md0 && ms0 && p0 && sd0) .mpop
  | 3 => mustZero (p0 && sd0) (.mmov md ms)
  | 4 => mustZero (pt && sd0) (.mand md ms mt)
  | 5 => mustZero (pt && sd0) (.mor md ms mt)
  | 6 => mustZero (p0 && sd0) (.mnot md ms)
  | 7 => mustZero (md0 && p0) (.mcnt sd ms)
  | 8 => mustZero (md0 && p0) (.mfirst sd ms)
  | _ => .error .func

/-- Major 0x17: operand-queue streams (07 R144). -/
def decodeStream (w : W32) : Except DecodeError Instr :=
  let d0 := field w 25 20 == 0#6
  let a : SReg := field w 19 14
  let b : SReg := field w 13 8
  let q : BitVec 3 := field w 2 0
  match (field w 7 3).toNat with
  | 0 => mustZero d0 (.strmD q a b)
  | 1 => mustZero d0 (.strmC4 q a b)
  | 2 => mustZero (d0 && b == 0#6) (.qld q a)
  | 3 => mustZero (d0 && a == 0#6 && b == 0#6) (.qclose q)
  | _ => .error .func

/-- Majors 0x19 and 0x1B: engine and work-list commands (07 R144). -/
def decodeEngine (w : W32) : Except DecodeError Instr :=
  let d : SReg := field w 25 20
  let a : SReg := field w 19 14
  let b : SReg := field w 13 8
  let d0 := d == 0#6
  let a0 := a == 0#6
  let b0 := b == 0#6
  let e : BitVec 5 := field w 12 8
  let e5 := !bitAt w 13
  match (field w 7 0).toNat with
  | 0 => mustZero (d0 && field w 13 12 == 0#2) (.xwin (field w 11 8) a)
  | 1 => mustZero b0 (.xcopy d a)
  | 2 => mustZero b0 (.xred d a)
  | 3 => mustZero (a0 && b0) (.bclose d)
  | 4 => mustZero e5 (.bwait d a e)
  | 5 => mustZero e5 (.mwait d a e)
  | 6 => mustZero (d0 && a0 && b0) .pbarPdomain
  | 7 => mustZero (d0 && a0 && b0) .pbarPspan
  | 8 => mustZero (d0 && b0) (.stepmark a)
  | _ => .error .func

def decodeWorkList (w : W32) : Except DecodeError Instr :=
  let d : SReg := field w 25 20
  let a : SReg := field w 19 14
  let e : BitVec 5 := field w 12 8
  match (field w 7 0).toNat with
  | 0 => mustZero (field w 13 8 == 0#6) (.wlinit d a)
  | 1 => mustZero (!bitAt w 13) (.wltake d a e)
  | 2 => mustZero (!bitAt w 13) (.tdwait d a e)
  | _ => .error .func

/-- Major 0x18: tiles and handles (07 R145). -/
def decodeTile (w ext : W32) : Except DecodeError Instr :=
  let d : SReg := field w 25 20
  let a : SReg := field w 19 14
  let b : SReg := field w 13 8
  let d0 := d == 0#6
  let a0 := a == 0#6
  let b0 := b == 0#6
  let h : Handle := field ext 7 0
  let x8 := field ext 31 8 == 0#24
  match (field w 7 0).toNat with
  | 0 => mustZero x8 (.talloc d a b h)
  | 1 => mustZero (x8 && d0 && a0 && b0) (.tfree h)
  | 2 => mustZero (x8 && a0 && b0) (.tdesc d h)
  | 3 => mustZero (field ext 31 12 == 0#20 && a0 && b0) (.layout d h (field ext 11 8))
  | 4 => mustZero (x8 && d0 && a0 && b0) (.lwait h)
  | 5 => mustZero (field ext 31 6 == 0#26 && b0) (.gbind d a (field ext 5 0))
  | 6 =>
    if bitAt ext 12 then mustZero (field ext 31 13 == 0#19 && field ext 11 6 == 0#6 && b0) (.zfill d a (.tensor (field ext 5 0)))
    else mustZero (x8 && b0) (.zfill d a (.tile h))
  | _ => .error .func

/-- Major 0x1A: gates (07 R145). -/
def decodeGate (w ext : W32) : Except DecodeError Instr :=
  let d : SReg := field w 25 20
  let a : SReg := field w 19 14
  let b : SReg := field w 13 8
  let d0 := d == 0#6
  let h : Handle := field ext 7 0
  let x8 := field ext 31 8 == 0#24
  match (field w 7 0).toNat with
  | 0 => mustZero (x8 && d0) (.ginit a b h)
  | 1 => mustZero (x8 && b == 0#6) (.garrive d a h)
  | 2 => mustZero (x8 && d0) (.gexpect a b h)
  | 3 => mustZero (field ext 31 13 == 0#19) (.gwait d a b h (field ext 12 8))
  | _ => .error .func

/-- Major 0x1C: scheduling (07 R146). -/
def decodeSched (w : W32) : Except DecodeError Instr :=
  let d : SReg := field w 25 20
  let a : SReg := field w 19 14
  let d0 := d == 0#6
  let a0 := a == 0#6
  let b0 := field w 13 8 == 0#6
  let z := d0 && a0 && b0
  match (field w 7 0).toNat with
  | 0 => mustZero (!bitAt w 13) (.rgrow d a (field w 12 8))
  | 1 => mustZero (d0 && b0) (.rshrink a)
  | 2 => mustZero z .yield
  | 3 => mustZero z .guardBegin
  | 4 => mustZero z .guardEnd
  | 5 => mustZero z .nopreBegin
  | 6 => mustZero z .nopreEnd
  | 7 => mustZero (a0 && b0) (.capq d)
  | 8 => mustZero b0 (.locq d a)
  | 9 => mustZero b0 (.launch d a)
  | 0x0A => mustZero b0 (.tclaim d a)
  | _ => .error .func

/-- Whether a system register number is one of 08 R186 or 17 R341. -/
def sysRegAssigned (n : BitVec 12) : Bool :=
  let k := n.toNat
  decide (k ≤ 0x00B ∨ (0x010 ≤ k ∧ k ≤ 0x013) ∨ k = 0x020 ∨ k = 0x021 ∨ (0x030 ≤ k ∧ k ≤ 0x035) ∨
    (0x040 ≤ k ∧ k ≤ 0x060) ∨ (0x070 ≤ k ∧ k ≤ 0x074) ∨ k = 0x080 ∨ k = 0x081)

/-- Major 0x1D: system registers and traps (07 R146). -/
def decodeSys (w : W32) : Except DecodeError Instr :=
  let d : SReg := field w 25 20
  let r : BitVec 12 := field w 19 8
  match (field w 7 0).toNat with
  | 0 => if sysRegAssigned r then .ok (.sysr d r) else .error .func
  | 1 => if sysRegAssigned r then .ok (.sysw d r) else .error .func
  | 2 => mustZero (r == 0#12) (.clk d)
  | 3 => mustZero (d == 0#6) (.trap r)
  | 4 => mustZero (d == 0#6 && r == 0#12) .eret
  | _ => .error .func

/-- Major 0x1E: NOP, EXIT, JR and the fences (07 R146). -/
def decodeMisc (w : W32) : Except DecodeError Instr :=
  let d0 := field w 25 20 == 0#6
  let a : SReg := field w 19 14
  let z := d0 && a == 0#6 && field w 13 8 == 0#6
  match (field w 7 3).toNat with
  | 0 =>
    match (field w 2 0).toNat with
    | 0 => mustZero z .nop
    | 1 => mustZero z .exit
    | 2 => mustZero (d0 && field w 13 8 == 0#6) (.jr a)
    | _ => .error .func
  | 8 => assigned (decodeScope (field w 2 0)) fun s => mustZero z (.fenceAcq s)
  | 9 => assigned (decodeScope (field w 2 0)) fun s => mustZero z (.fenceRel s)
  | 10 => assigned (decodeScope (field w 2 0)) fun s => mustZero z (.fenceAr s)
  | _ => .error .func

/-- The map of the major opcodes (07 R137), before the checks of `Instr.wf`. -/
def decodeMajor (w ext : W32) : Except DecodeError Instr :=
  let d : SReg := field w 25 20
  let a : SReg := field w 19 14
  let b : SReg := field w 13 8
  let imm : BitVec 14 := field w 13 0
  let off : BitVec 20 := field w 19 0
  let d0 := d == 0#6
  let sh0 := field w 13 6 == 0#8
  match (field w 31 26).toNat with
  | 0x01 => decodeAlu w
  | 0x02 => .ok (.addi d a imm)
  | 0x03 => .ok (.andi d a imm)
  | 0x04 => .ok (.ori d a imm)
  | 0x05 => .ok (.xori d a imm)
  | 0x06 => mustZero sh0 (.shli d a (field w 5 0))
  | 0x07 => mustZero sh0 (.shri d a (field w 5 0))
  | 0x08 => mustZero sh0 (.sari d a (field w 5 0))
  | 0x09 =>
    if a == 0#6 then .ok (.li d (ext ++ imm))
    else if a == 1#6 then mustZero (imm == 0#14) (.liHi d ext) else .error .func
  | 0x0A => mustZero (field w 7 0 == 0#8 && field ext 31 6 == 0#26) (.sel d a b (field ext 5 0))
  | 0x0B => decodeAccess w ext
  | 0x0C => mustZero d0 (.b off)
  | 0x0D => .ok (.bz d off)
  | 0x0E => .ok (.bnz d off)
  | 0x0F => mustZero d0 (.call off)
  | 0x10 => .ok (.loop d off)
  | 0x11 => mustZero (field w 22 20 == 0#3) (.bmz (field w 25 23) off)
  | 0x12 => mustZero (field w 22 20 == 0#3) (.bmnz (field w 25 23) off)
  | 0x13 => assigned (decodeCond (field w 2 0)) fun cc => mustZero (d0 && field w 7 3 == 0#5) (.bcmp cc a b ext)
  | 0x14 => decodeMask w
  | 0x15 => mustZero d0 (.lq off)
  | 0x16 =>
    match a.toNat with
    | 0 => mustZero (d0 && field w 13 12 == 0#2) (.fwait (field w 11 0))
    | 1 => mustZero (d0 && field w 13 12 == 0#2) (.fclr (field w 11 0))
    | 2 => mustZero (d0 && imm == 0#14) .ldrain
    | _ => .error .func
  | 0x17 => decodeStream w
  | 0x18 => decodeTile w ext
  | 0x19 => decodeEngine w
  | 0x1A => decodeGate w ext
  | 0x1B => decodeWorkList w
  | 0x1C => decodeSched w
  | 0x1D => decodeSys w
  | 0x1E => decodeMisc w
  | _ => .error .major

/-- Keep an instruction only if its operands are admitted (18 R349). -/
def checkWf (r : Except DecodeError Instr) : Except DecodeError Instr :=
  match r with
  | .ok i => if i.wf then .ok i else .error .operand
  | .error e => .error e

/-- Decode a scalar instruction from its first word and the word after it (used only by the SL majors). -/
def decodeScalar (w ext : W32) : Except DecodeError Instr := checkWf (decodeMajor w ext)

/-- Whether some extension word makes an instruction of a first word: a zero one does where any does, since it asks for nothing (no
must-be-zero bit, the operation that every size allows). -/
def scalarFits (w : W32) : Bool := (decodeScalar w 0#32).toOption.isSome

/-- Decode a scalar instruction at the head of a list of bytes, with the bytes that follow it. -/
def decodeScalarBytes (bs : List Byte) : Except DecodeError (Instr × List Byte) :=
  match takeWord bs with
  | none => .error .truncated
  | some (w, rest) =>
    if hasExt w then
      match takeWord rest with
      | none => .error .truncated
      | some (x, rest') => (decodeScalar w x).map (·, rest')
    else (decodeScalar w 0#32).map (·, rest)

/-- The fields of w0 and w1 (07 R148). -/
def decodeHead (w0 w1 : W32) : LaneHead :=
  { ty := field w0 21 18, dst := field w0 17 9, s0 := field w0 8 0
    s1 := field w1 31 23, s2 := field w1 22 14, z0 := bitAt w1 13, z1 := bitAt w1 12, z2 := bitAt w1 11
    retain := field w1 10 9, b0 := bitAt w1 8, b1 := bitAt w1 7, b2 := bitAt w1 6
    guard := field w1 5 2, neg := bitAt w1 1, md := bitAt w1 0 }

def decodeModA (w : W32) : ModA :=
  { dsel := field w 31 27, s0sel := field w 26 22, s1sel := field w 21 17, s2sel := field w 16 12
    q0 := field w 11 8, q1 := field w 7 4, rm := field w 3 1 }
def decodeModC (w : W32) : ModC :=
  { dsel := field w 31 27, s0sel := field w 26 22, s1sel := field w 21 17, s2sel := field w 16 12
    q0 := field w 11 8, sty := field w 7 4, rm := field w 3 1 }
def decodeModP (w : W32) : ModP :=
  { dsel := field w 31 27, s0sel := field w 26 22, s1sel := field w 21 17, s2sel := field w 16 12
    q0 := field w 11 8, p := field w 7 3 }
def decodeModX (w : W32) : ModX :=
  { dsel := field w 31 27, s0sel := field w 26 22, s1sel := field w 21 17, s2sel := field w 16 12
    q0 := field w 11 8, range := field w 7 4, op := field w 3 0 }
def decodeModM (w : W32) : ModM :=
  { handle := field w 31 24, sel := field w 23 19, e := field w 18 14, consume := bitAt w 11, glob := bitAt w 10
    aop := field w 9 6, q0 := field w 5 2 }
def decodeModMma (w : W32) : ModMma :=
  { hA := field w 31 24, hB := field w 23 16, pa1 := field w 15 12, pb1 := field w 11 8, acc := field w 7 6 }
def decodeModDrain (w : W32) : ModDrain :=
  { dest := field w 31 24, res := field w 23 16, glob := bitAt w 15, add := bitAt w 14, residual := bitAt w 13
    dropout := bitAt w 12, rm := field w 11 9, acc := field w 7 6 }

/-- The opcodes of layout A (07 R152). -/
def laneOpA : Nat → Option (LaneHead → ModA → Instr)
  | 0x000 => some .iadd
  | 0x001 => some .isub
  | 0x002 => some .imul
  | 0x003 => some .imulh
  | 0x004 => some .imad
  | 0x005 => some .iabs
  | 0x006 => some .ineg
  | 0x007 => some .imin
  | 0x008 => some .imax
  | 0x009 => some .iand
  | 0x00A => some .ior
  | 0x00B => some .ixor
  | 0x00C => some .inot
  | 0x00D => some .ishl
  | 0x00E => some .ishr
  | 0x00F => some .isar
  | 0x010 => some .ipopc
  | 0x011 => some .iclz
  | 0x012 => some .ibfx
  | 0x013 => some .ibfi
  | 0x014 => some .isel
  | 0x015 => some .iadds
  | 0x016 => some .isubs
  | 0x017 => some .idot4
  | 0x018 => some .icmpEq
  | 0x019 => some .icmpNe
  | 0x01A => some .icmpLt
  | 0x01B => some .icmpLe
  | 0x01C => some .icmpGt
  | 0x01D => some .icmpGe
  | 0x040 => some .fadd
  | 0x041 => some .fsub
  | 0x042 => some .fmul
  | 0x043 => some .ffma
  | 0x044 => some .fmin
  | 0x045 => some .fmax
  | 0x046 => some .fabs
  | 0x047 => some .fneg
  | 0x048 => some .fcmpEq
  | 0x049 => some .fcmpNe
  | 0x04A => some .fcmpLt
  | 0x04B => some .fcmpLe
  | 0x04C => some .fcmpGt
  | 0x04D => some .fcmpGe
  | 0x04E => some .fcmpUn
  | 0x050 => some .frcp
  | 0x051 => some .frsq
  | 0x052 => some .fsqrt
  | 0x053 => some .fdiv
  | 0x054 => some .fexp2
  | 0x055 => some .flog2
  | 0x056 => some .fsin
  | 0x057 => some .fcos
  | 0x058 => some .ftanh
  | 0x059 => some .fsigm
  | 0x05A => some .fround
  | 0x05B => some .fclass
  | 0x05C => some .fscale
  | 0x085 => some .had32
  | 0x088 => some .mov
  | 0x08A => some .lidx
  | 0x0C0 => some .shfl
  | 0x0C1 => some .bcast
  | _ => none

/-- The opcodes of layout C. -/
def laneOpC : Nat → Option (LaneHead → ModC → Instr)
  | 0x080 => some .cvt
  | 0x081 => some .pack
  | 0x082 => some .unpk
  | _ => none

/-- The opcodes of layout P. -/
def laneOpP : Nat → Option (LaneHead → ModP → Instr)
  | 0x083 => some .qbp
  | 0x084 => some .dqbp
  | _ => none

/-- The opcodes of layout X. -/
def laneOpX : Nat → Option (LaneHead → ModX → Instr)
  | 0x086 => some .frmax
  | 0x087 => some .fradd
  | 0x0C2 => some .vote
  | 0x0C3 => some .pfxc
  | 0x0C4 => some .scan
  | 0x0C5 => some .red
  | _ => none

/-- The opcodes of layout M that have no tagged form by tag mode. -/
def laneOpM : Nat → Option (LaneHead → ModM → Instr)
  | 0x102 => some .tldf
  | 0x103 => some .tste
  | 0x104 => some .tldt
  | 0x105 => some .gld
  | 0x106 => some .gst
  | 0x107 => some .rld
  | 0x108 => some .atom
  | 0x109 => some .msgput
  | 0x10A => some .msgtake
  | 0x10B => some .wlapp
  | 0x0C6 => some .cstore
  | 0x0C7 => some .xld
  | _ => none

/-- TLD and TST by tag mode (10 R218): 00 untagged, 01 tagged, others unassigned. -/
def decodeTagMode (op : Nat) (h : LaneHead) (m : ModM) (mode : BitVec 2) : Except DecodeError Instr :=
  match op, mode.toNat with
  | 0x100, 0 => .ok (.tld h m)
  | 0x100, 1 => .ok (.tldIfempty h m)
  | 0x101, 0 => .ok (.tst h m)
  | 0x101, 1 => .ok (.tstIffull h m)
  | _, _ => .error .func

/-- The map of the lane opcodes (07 R152), before the checks of `Instr.wf`. -/
def decodeLaneRaw (w0 w1 w2 : W32) : Except DecodeError Instr :=
  let op := (field w0 31 22).toNat
  let h := decodeHead w0 w1
  match laneOpA op with
  | some f => mustZero (!bitAt w2 0) (f h (decodeModA w2))
  | none =>
  match laneOpC op with
  | some f => mustZero (!bitAt w2 0) (f h (decodeModC w2))
  | none =>
  match laneOpP op with
  | some f => mustZero (field w2 2 0 == 0#3) (f h (decodeModP w2))
  | none =>
  match laneOpX op with
  | some f => .ok (f h (decodeModX w2))
  | none =>
  match laneOpM op with
  | some f => mustZero (field w2 1 0 == 0#2 && field w2 13 12 == 0#2) (f h (decodeModM w2))
  | none =>
  match op with
  | 0x089 => .ok (.movi h w2)
  | 0x100 | 0x101 => if field w2 1 0 == 0#2 then decodeTagMode op h (decodeModM w2) (field w2 13 12) else .error .field
  | 0x140 =>
    mustZero (field w2 4 0 == 0#5) (if bitAt w2 5 then .mmaPair h (decodeModMma w2) else .mma h (decodeModMma w2))
  | 0x141 => mustZero (field w2 31 8 == 0#24 && field w2 5 0 == 0#6) (.mzero h (field w2 7 6))
  | 0x142 => mustZero (field w2 31 8 == 0#24 && field w2 5 0 == 0#6) (.mread h (field w2 7 6))
  | 0x143 => mustZero (field w2 31 8 == 0#24 && field w2 5 0 == 0#6) (.mwrite h (field w2 7 6))
  | 0x144 => mustZero (!bitAt w2 8 && field w2 5 0 == 0#6) (.mdrain h (decodeModDrain w2))
  | 0x180 => mustZero (field w0 21 0 == 0#22 && w1 == 0#32 && w2 == 0#32) .lnop
  | _ => .error .opcode

/-- Decode a lane instruction from its three words (07 R148). -/
def decodeLane (w0 w1 w2 : W32) : Except DecodeError Instr := checkWf (decodeLaneRaw w0 w1 w2)

/-- A modifier word for each way in which the layouts let w2 make w0 and w1 well formed: of layouts A, X and I zero; of C the greatest,
the least and a 64-bit source type, with and without RSX; of P a selector for either value width; of M a selector of every width, the
tag modes, the operations that take a float or a third source; the least MMA; an MDRAIN with and without residual and dropout. -/
def laneGuesses : List W32 :=
  0#32 :: ([0x00#32, 0x30#32, 0xD0#32].flatMap (fun t => [t, t ||| 0x08#32])) ++
  [0x10800010#32, 0x20800010#32, 0x11000010#32] ++
  ([0, 1, 2, 4, 8, 16].flatMap fun sel => [0, 1, 10].flatMap fun op => [0, 1].map fun mode => BitVec.ofNat 32 (sel * 2 ^ 19 + mode * 2 ^ 12 + op * 2 ^ 6)) ++
  [0x1100#32, 0x2000#32, 0x1000#32, 0x3000#32]

/-- Whether some w2, or some w1 and w2, make an instruction of the first words. -/
def laneFits2 (w0 w1 : W32) : Bool := laneGuesses.any (fun w2 => (decodeLane w0 w1 w2).toOption.isSome)
def laneFits1 (w0 : W32) : Bool := laneFits2 w0 0#32

/-- Decode a lane instruction at the head of a list of bytes, with the bytes that follow it. -/
def decodeLaneBytes (bs : List Byte) : Except DecodeError (Instr × List Byte) :=
  match takeWord bs with
  | none => .error .truncated
  | some (w0, r0) =>
    match takeWord r0 with
    | none => .error .truncated
    | some (w1, r1) =>
      match takeWord r1 with
      | none => .error .truncated
      | some (w2, r2) => (decodeLane w0 w1 w2).map (·, r2)

/-- The softmax idiom that four adjacent instructions of a clause form (09 R213), if they form it. -/
def fuseSoftmax (a b c d : Instr) : Option Instr :=
  match a, b, c, d with
  | .frmax hm mm, .fsub ht mt, .fexp2 he me, .fradd hs ms =>
    if wfFused hm mm ht mt he me hs ms then some (.fusedSoftmax hm mm ht mt he me hs ms) else none
  | _, _, _, _ => none

/-- The fields of a clause header (07 R151). -/
structure ClauseHeader where
  count : BitVec 4
  wait : BitVec 12
  setA : BitVec 4
  setB : BitVec 4
  deriving DecidableEq, Repr

/-- A flag field of a header names f0 to f11 or none (07 R151). -/
def flagFieldOk (f : BitVec 4) : Bool := decide (f.toNat < 12 ∨ f.toNat = 15)

/-- Decode a clause header from its three words; the malformed ones of 18 R349 are rejected. -/
def decodeHeader (w0 w1 w2 : W32) : Except DecodeError ClauseHeader :=
  let hd : ClauseHeader := { count := field w0 21 18, wait := field w0 17 6, setA := field w0 5 2, setB := field w1 31 28 }
  if field w0 31 22 == 0x3FF#10 && !(hd.count == 0#4) && field w0 1 0 == 0#2 && field w1 27 0 == 0#28 && w2 == 0#32 &&
      flagFieldOk hd.setA && flagFieldOk hd.setB
  then .ok hd else .error .header

def encodeHeader (hd : ClauseHeader) : List W32 :=
  [0x3FF#10 ++ hd.count ++ hd.wait ++ hd.setA ++ 0#2, hd.setB ++ 0#28, 0#32]

/-- An SR or SX word (07 R134). -/
def wordSR (major : BitVec 6) (d a b : SReg) (func : BitVec 8) : W32 := major ++ d ++ a ++ b ++ func
/-- An SI word. -/
def wordSI (major : BitVec 6) (d a : SReg) (imm : BitVec 14) : W32 := major ++ d ++ a ++ imm
/-- An SB word. -/
def wordSB (major : BitVec 6) (a : SReg) (off : BitVec 20) : W32 := major ++ a ++ off
/-- An SM word. -/
def wordSM (md ms : MReg) (mt : BitVec 3) (sd : SReg) (func : BitVec 8) : W32 := 0x14#6 ++ md ++ ms ++ 0#1 ++ mt ++ 0#2 ++ sd ++ func
/-- An SY word. -/
def wordSY (d : SReg) (r : BitVec 12) (func : BitVec 8) : W32 := 0x1D#6 ++ d ++ r ++ func
/-- The func of major 0x0B. -/
def accessFunc (tile : Bool) (z : ScalarSize) (op : BitVec 3) : BitVec 8 := 0#1 ++ ofBit tile ++ encodeSize z ++ op
/-- The extension word of a tile access. -/
def accessExt (h : Handle) (e : BitVec 5) (consume : Bool) (op : BitVec 4) : W32 := 0#14 ++ op ++ ofBit consume ++ e ++ h

/-- The words w0 and w1 of a lane instruction (07 R148). -/
def encodeHead (op : BitVec 10) (h : LaneHead) : W32 × W32 :=
  (op ++ h.ty ++ h.dst ++ h.s0,
   h.s1 ++ h.s2 ++ ofBit h.z0 ++ ofBit h.z1 ++ ofBit h.z2 ++ h.retain ++ ofBit h.b0 ++ ofBit h.b1 ++ ofBit h.b2 ++
     h.guard ++ ofBit h.neg ++ ofBit h.md)

def laneWords (op : BitVec 10) (h : LaneHead) (w2 : W32) : List W32 := [(encodeHead op h).1, (encodeHead op h).2, w2]
def encodeModA (m : ModA) : W32 := m.dsel ++ m.s0sel ++ m.s1sel ++ m.s2sel ++ m.q0 ++ m.q1 ++ m.rm ++ 0#1
def encodeModC (m : ModC) : W32 := m.dsel ++ m.s0sel ++ m.s1sel ++ m.s2sel ++ m.q0 ++ m.sty ++ m.rm ++ 0#1
def encodeModP (m : ModP) : W32 := m.dsel ++ m.s0sel ++ m.s1sel ++ m.s2sel ++ m.q0 ++ m.p ++ 0#3
def encodeModX (m : ModX) : W32 := m.dsel ++ m.s0sel ++ m.s1sel ++ m.s2sel ++ m.q0 ++ m.range ++ m.op
def encodeModM (mode : BitVec 2) (m : ModM) : W32 :=
  m.handle ++ m.sel ++ m.e ++ mode ++ ofBit m.consume ++ ofBit m.glob ++ m.aop ++ m.q0 ++ 0#2
def encodeModMma (pair : Bool) (m : ModMma) : W32 := m.hA ++ m.hB ++ m.pa1 ++ m.pb1 ++ m.acc ++ ofBit pair ++ 0#5
def encodeModDrain (m : ModDrain) : W32 :=
  m.dest ++ m.res ++ ofBit m.glob ++ ofBit m.add ++ ofBit m.residual ++ ofBit m.dropout ++ m.rm ++ 0#1 ++ m.acc ++ 0#6
def encodeAcc (acc : BitVec 2) : W32 := 0#24 ++ acc ++ 0#6

/-- The words of an instruction, written from the encoding tables of 07. The steps and commands of the device have no
words. The softmax idiom is its four instructions. -/
def encode : Instr → List W32
  | .add d a b2 => [wordSR 0x01#6 d a b2 0x00#8]
  | .sub d a b2 => [wordSR 0x01#6 d a b2 0x01#8]
  | .mul d a b2 => [wordSR 0x01#6 d a b2 0x02#8]
  | .mulh d a b2 => [wordSR 0x01#6 d a b2 0x03#8]
  | .mulhn d a b2 => [wordSR 0x01#6 d a b2 0x04#8]
  | .div d a b2 => [wordSR 0x01#6 d a b2 0x05#8]
  | .divn d a b2 => [wordSR 0x01#6 d a b2 0x06#8]
  | .rem d a b2 => [wordSR 0x01#6 d a b2 0x07#8]
  | .remn d a b2 => [wordSR 0x01#6 d a b2 0x08#8]
  | .and d a b2 => [wordSR 0x01#6 d a b2 0x10#8]
  | .or d a b2 => [wordSR 0x01#6 d a b2 0x11#8]
  | .xor d a b2 => [wordSR 0x01#6 d a b2 0x12#8]
  | .andn d a b2 => [wordSR 0x01#6 d a b2 0x13#8]
  | .shl d a b2 => [wordSR 0x01#6 d a b2 0x14#8]
  | .shr d a b2 => [wordSR 0x01#6 d a b2 0x15#8]
  | .sar d a b2 => [wordSR 0x01#6 d a b2 0x16#8]
  | .rol d a b2 => [wordSR 0x01#6 d a b2 0x17#8]
  | .min d a b2 => [wordSR 0x01#6 d a b2 0x20#8]
  | .max d a b2 => [wordSR 0x01#6 d a b2 0x21#8]
  | .minn d a b2 => [wordSR 0x01#6 d a b2 0x22#8]
  | .maxn d a b2 => [wordSR 0x01#6 d a b2 0x23#8]
  | .clz d a => [wordSR 0x01#6 d a 0#6 0x24#8]
  | .popc d a => [wordSR 0x01#6 d a 0#6 0x25#8]
  | .brev d a => [wordSR 0x01#6 d a 0#6 0x26#8]
  | .sext d a w => [wordSR 0x01#6 d a w 0x27#8]
  | .zext d a w => [wordSR 0x01#6 d a w 0x28#8]
  | .set d a b2 cc => [wordSR 0x01#6 d a b2 (0b00110#5 ++ encodeCond cc)]
  | .addi d a imm => [wordSI 0x02#6 d a imm]
  | .andi d a imm => [wordSI 0x03#6 d a imm]
  | .ori d a imm => [wordSI 0x04#6 d a imm]
  | .xori d a imm => [wordSI 0x05#6 d a imm]
  | .shli d a sh => [wordSI 0x06#6 d a (0#8 ++ sh)]
  | .shri d a sh => [wordSI 0x07#6 d a (0#8 ++ sh)]
  | .sari d a sh => [wordSI 0x08#6 d a (0#8 ++ sh)]
  | .li d imm => [wordSI 0x09#6 d 0#6 (field imm 13 0), field imm 45 14]
  | .liHi d ext => [wordSI 0x09#6 d 1#6 0#14, ext]
  | .sel d a b2 c => [wordSR 0x0A#6 d a b2 0#8, 0#26 ++ c]
  | .sld d a z (.glob off) => [wordSR 0x0B#6 d a 0#6 (accessFunc false z 0#3), off]
  | .sld d a z (.tile h) => [wordSR 0x0B#6 d a 0#6 (accessFunc true z 0#3), accessExt h 0#5 false 0#4]
  | .sst d a z (.glob off) => [wordSR 0x0B#6 d a 0#6 (accessFunc false z 1#3), off]
  | .sst d a z (.tile h) => [wordSR 0x0B#6 d a 0#6 (accessFunc true z 1#3), accessExt h 0#5 false 0#4]
  | .sldf d a b2 z h e c => [wordSR 0x0B#6 d a b2 (accessFunc true z 2#3), accessExt h e c 0#4]
  | .sste d a b2 z h e => [wordSR 0x0B#6 d a b2 (accessFunc true z 3#3), accessExt h e false 0#4]
  | .satom d a b2 z op .glob => [wordSR 0x0B#6 d a b2 (accessFunc false z 4#3), 0#28 ++ encodeAtomOp op]
  | .satom d a b2 z op (.tile h) => [wordSR 0x0B#6 d a b2 (accessFunc true z 4#3), accessExt h 0#5 false (encodeAtomOp op)]
  | .b off => [wordSB 0x0C#6 0#6 off]
  | .bz a off => [wordSB 0x0D#6 a off]
  | .bnz a off => [wordSB 0x0E#6 a off]
  | .call off => [wordSB 0x0F#6 0#6 off]
  | .loop a off => [wordSB 0x10#6 a off]
  | .bmz m off => [wordSB 0x11#6 (m ++ 0#3) off]
  | .bmnz m off => [wordSB 0x12#6 (m ++ 0#3) off]
  | .bcmp cc a b2 off => [wordSR 0x13#6 0#6 a b2 (0#5 ++ encodeCond cc), off]
  | .jr a => [wordSR 0x1E#6 0#6 a 0#6 0x02#8]
  | .mpush ms => [wordSM 0#3 ms 0#3 0#6 0#8]
  | .melse => [wordSM 0#3 0#3 0#3 0#6 1#8]
  | .mpop => [wordSM 0#3 0#3 0#3 0#6 2#8]
  | .mmov md ms => [wordSM md ms 0#3 0#6 3#8]
  | .mand md ms mt => [wordSM md ms mt 0#6 4#8]
  | .mor md ms mt => [wordSM md ms mt 0#6 5#8]
  | .mnot md ms => [wordSM md ms 0#3 0#6 6#8]
  | .mcnt sd ms => [wordSM 0#3 ms 0#3 sd 7#8]
  | .mfirst sd ms => [wordSM 0#3 ms 0#3 sd 8#8]
  | .lq off => [wordSB 0x15#6 0#6 off]
  | .fwait f => [wordSI 0x16#6 0#6 0#6 (0#2 ++ f)]
  | .fclr f => [wordSI 0x16#6 0#6 1#6 (0#2 ++ f)]
  | .ldrain => [wordSI 0x16#6 0#6 2#6 0#14]
  | .strmD q a b2 => [wordSR 0x17#6 0#6 a b2 (0#5 ++ q)]
  | .strmC4 q a b2 => [wordSR 0x17#6 0#6 a b2 (1#5 ++ q)]
  | .qld q a => [wordSR 0x17#6 0#6 a 0#6 (2#5 ++ q)]
  | .qclose q => [wordSR 0x17#6 0#6 0#6 0#6 (3#5 ++ q)]
  | .xwin w a => [wordSR 0x19#6 0#6 a (0#2 ++ w) 0#8]
  | .xcopy d a => [wordSR 0x19#6 d a 0#6 1#8]
  | .xred d a => [wordSR 0x19#6 d a 0#6 2#8]
  | .bclose d => [wordSR 0x19#6 d 0#6 0#6 3#8]
  | .bwait d a e => [wordSR 0x19#6 d a (0#1 ++ e) 4#8]
  | .mwait d a e => [wordSR 0x19#6 d a (0#1 ++ e) 5#8]
  | .pbarPdomain => [wordSR 0x19#6 0#6 0#6 0#6 6#8]
  | .pbarPspan => [wordSR 0x19#6 0#6 0#6 0#6 7#8]
  | .stepmark a => [wordSR 0x19#6 0#6 a 0#6 8#8]
  | .talloc d a b2 h => [wordSR 0x18#6 d a b2 0#8, 0#24 ++ h]
  | .tfree h => [wordSR 0x18#6 0#6 0#6 0#6 1#8, 0#24 ++ h]
  | .tdesc d h => [wordSR 0x18#6 d 0#6 0#6 2#8, 0#24 ++ h]
  | .layout d h t => [wordSR 0x18#6 d 0#6 0#6 3#8, 0#20 ++ t ++ h]
  | .lwait h => [wordSR 0x18#6 0#6 0#6 0#6 4#8, 0#24 ++ h]
  | .gbind d a g => [wordSR 0x18#6 d a 0#6 5#8, 0#26 ++ g]
  | .zfill d a (.tile h) => [wordSR 0x18#6 d a 0#6 6#8, 0#24 ++ h]
  | .zfill d a (.tensor g) => [wordSR 0x18#6 d a 0#6 6#8, 1#20 ++ 0#6 ++ g]
  | .ginit a b2 h => [wordSR 0x1A#6 0#6 a b2 0#8, 0#24 ++ h]
  | .garrive d a h => [wordSR 0x1A#6 d a 0#6 1#8, 0#24 ++ h]
  | .gexpect a b2 h => [wordSR 0x1A#6 0#6 a b2 2#8, 0#24 ++ h]
  | .gwait d a b2 h e => [wordSR 0x1A#6 d a b2 3#8, 0#19 ++ e ++ h]
  | .wlinit d a => [wordSR 0x1B#6 d a 0#6 0#8]
  | .wltake d a e => [wordSR 0x1B#6 d a (0#1 ++ e) 1#8]
  | .tdwait d a e => [wordSR 0x1B#6 d a (0#1 ++ e) 2#8]
  | .rgrow d a e => [wordSR 0x1C#6 d a (0#1 ++ e) 0#8]
  | .rshrink a => [wordSR 0x1C#6 0#6 a 0#6 1#8]
  | .yield => [wordSR 0x1C#6 0#6 0#6 0#6 2#8]
  | .guardBegin => [wordSR 0x1C#6 0#6 0#6 0#6 3#8]
  | .guardEnd => [wordSR 0x1C#6 0#6 0#6 0#6 4#8]
  | .nopreBegin => [wordSR 0x1C#6 0#6 0#6 0#6 5#8]
  | .nopreEnd => [wordSR 0x1C#6 0#6 0#6 0#6 6#8]
  | .capq d => [wordSR 0x1C#6 d 0#6 0#6 7#8]
  | .locq d a => [wordSR 0x1C#6 d a 0#6 8#8]
  | .launch d a => [wordSR 0x1C#6 d a 0#6 9#8]
  | .tclaim d a => [wordSR 0x1C#6 d a 0#6 10#8]
  | .sysr d r => [wordSY d r 0#8]
  | .sysw d r => [wordSY d r 1#8]
  | .clk d => [wordSY d 0#12 2#8]
  | .trap c => [wordSY 0#6 c 3#8]
  | .eret => [wordSY 0#6 0#12 4#8]
  | .nop => [wordSR 0x1E#6 0#6 0#6 0#6 0#8]
  | .exit => [wordSR 0x1E#6 0#6 0#6 0#6 1#8]
  | .fenceAcq sc => [wordSR 0x1E#6 0#6 0#6 0#6 (8#5 ++ encodeScope sc)]
  | .fenceRel sc => [wordSR 0x1E#6 0#6 0#6 0#6 (9#5 ++ encodeScope sc)]
  | .fenceAr sc => [wordSR 0x1E#6 0#6 0#6 0#6 (10#5 ++ encodeScope sc)]
  | .iadd h m => laneWords 0x000#10 h (encodeModA m)
  | .isub h m => laneWords 0x001#10 h (encodeModA m)
  | .imul h m => laneWords 0x002#10 h (encodeModA m)
  | .imulh h m => laneWords 0x003#10 h (encodeModA m)
  | .imad h m => laneWords 0x004#10 h (encodeModA m)
  | .iabs h m => laneWords 0x005#10 h (encodeModA m)
  | .ineg h m => laneWords 0x006#10 h (encodeModA m)
  | .imin h m => laneWords 0x007#10 h (encodeModA m)
  | .imax h m => laneWords 0x008#10 h (encodeModA m)
  | .iand h m => laneWords 0x009#10 h (encodeModA m)
  | .ior h m => laneWords 0x00A#10 h (encodeModA m)
  | .ixor h m => laneWords 0x00B#10 h (encodeModA m)
  | .inot h m => laneWords 0x00C#10 h (encodeModA m)
  | .ishl h m => laneWords 0x00D#10 h (encodeModA m)
  | .ishr h m => laneWords 0x00E#10 h (encodeModA m)
  | .isar h m => laneWords 0x00F#10 h (encodeModA m)
  | .ipopc h m => laneWords 0x010#10 h (encodeModA m)
  | .iclz h m => laneWords 0x011#10 h (encodeModA m)
  | .ibfx h m => laneWords 0x012#10 h (encodeModA m)
  | .ibfi h m => laneWords 0x013#10 h (encodeModA m)
  | .isel h m => laneWords 0x014#10 h (encodeModA m)
  | .iadds h m => laneWords 0x015#10 h (encodeModA m)
  | .isubs h m => laneWords 0x016#10 h (encodeModA m)
  | .idot4 h m => laneWords 0x017#10 h (encodeModA m)
  | .icmpEq h m => laneWords 0x018#10 h (encodeModA m)
  | .icmpNe h m => laneWords 0x019#10 h (encodeModA m)
  | .icmpLt h m => laneWords 0x01A#10 h (encodeModA m)
  | .icmpLe h m => laneWords 0x01B#10 h (encodeModA m)
  | .icmpGt h m => laneWords 0x01C#10 h (encodeModA m)
  | .icmpGe h m => laneWords 0x01D#10 h (encodeModA m)
  | .fadd h m => laneWords 0x040#10 h (encodeModA m)
  | .fsub h m => laneWords 0x041#10 h (encodeModA m)
  | .fmul h m => laneWords 0x042#10 h (encodeModA m)
  | .ffma h m => laneWords 0x043#10 h (encodeModA m)
  | .fmin h m => laneWords 0x044#10 h (encodeModA m)
  | .fmax h m => laneWords 0x045#10 h (encodeModA m)
  | .fabs h m => laneWords 0x046#10 h (encodeModA m)
  | .fneg h m => laneWords 0x047#10 h (encodeModA m)
  | .fcmpEq h m => laneWords 0x048#10 h (encodeModA m)
  | .fcmpNe h m => laneWords 0x049#10 h (encodeModA m)
  | .fcmpLt h m => laneWords 0x04A#10 h (encodeModA m)
  | .fcmpLe h m => laneWords 0x04B#10 h (encodeModA m)
  | .fcmpGt h m => laneWords 0x04C#10 h (encodeModA m)
  | .fcmpGe h m => laneWords 0x04D#10 h (encodeModA m)
  | .fcmpUn h m => laneWords 0x04E#10 h (encodeModA m)
  | .frcp h m => laneWords 0x050#10 h (encodeModA m)
  | .frsq h m => laneWords 0x051#10 h (encodeModA m)
  | .fsqrt h m => laneWords 0x052#10 h (encodeModA m)
  | .fdiv h m => laneWords 0x053#10 h (encodeModA m)
  | .fexp2 h m => laneWords 0x054#10 h (encodeModA m)
  | .flog2 h m => laneWords 0x055#10 h (encodeModA m)
  | .fsin h m => laneWords 0x056#10 h (encodeModA m)
  | .fcos h m => laneWords 0x057#10 h (encodeModA m)
  | .ftanh h m => laneWords 0x058#10 h (encodeModA m)
  | .fsigm h m => laneWords 0x059#10 h (encodeModA m)
  | .fround h m => laneWords 0x05A#10 h (encodeModA m)
  | .fclass h m => laneWords 0x05B#10 h (encodeModA m)
  | .fscale h m => laneWords 0x05C#10 h (encodeModA m)
  | .had32 h m => laneWords 0x085#10 h (encodeModA m)
  | .mov h m => laneWords 0x088#10 h (encodeModA m)
  | .lidx h m => laneWords 0x08A#10 h (encodeModA m)
  | .shfl h m => laneWords 0x0C0#10 h (encodeModA m)
  | .bcast h m => laneWords 0x0C1#10 h (encodeModA m)
  | .cvt h m => laneWords 0x080#10 h (encodeModC m)
  | .pack h m => laneWords 0x081#10 h (encodeModC m)
  | .unpk h m => laneWords 0x082#10 h (encodeModC m)
  | .qbp h m => laneWords 0x083#10 h (encodeModP m)
  | .dqbp h m => laneWords 0x084#10 h (encodeModP m)
  | .frmax h m => laneWords 0x086#10 h (encodeModX m)
  | .fradd h m => laneWords 0x087#10 h (encodeModX m)
  | .vote h m => laneWords 0x0C2#10 h (encodeModX m)
  | .pfxc h m => laneWords 0x0C3#10 h (encodeModX m)
  | .scan h m => laneWords 0x0C4#10 h (encodeModX m)
  | .red h m => laneWords 0x0C5#10 h (encodeModX m)
  | .tldf h m => laneWords 0x102#10 h (encodeModM 0#2 m)
  | .tste h m => laneWords 0x103#10 h (encodeModM 0#2 m)
  | .tldt h m => laneWords 0x104#10 h (encodeModM 0#2 m)
  | .gld h m => laneWords 0x105#10 h (encodeModM 0#2 m)
  | .gst h m => laneWords 0x106#10 h (encodeModM 0#2 m)
  | .rld h m => laneWords 0x107#10 h (encodeModM 0#2 m)
  | .atom h m => laneWords 0x108#10 h (encodeModM 0#2 m)
  | .msgput h m => laneWords 0x109#10 h (encodeModM 0#2 m)
  | .msgtake h m => laneWords 0x10A#10 h (encodeModM 0#2 m)
  | .wlapp h m => laneWords 0x10B#10 h (encodeModM 0#2 m)
  | .cstore h m => laneWords 0x0C6#10 h (encodeModM 0#2 m)
  | .xld h m => laneWords 0x0C7#10 h (encodeModM 0#2 m)
  | .tld h m => laneWords 0x100#10 h (encodeModM 0#2 m)
  | .tldIfempty h m => laneWords 0x100#10 h (encodeModM 1#2 m)
  | .tst h m => laneWords 0x101#10 h (encodeModM 0#2 m)
  | .tstIffull h m => laneWords 0x101#10 h (encodeModM 1#2 m)
  | .movi h imm => laneWords 0x089#10 h imm
  | .mma h m => laneWords 0x140#10 h (encodeModMma false m)
  | .mmaPair h m => laneWords 0x140#10 h (encodeModMma true m)
  | .mzero h acc => laneWords 0x141#10 h (encodeAcc acc)
  | .mread h acc => laneWords 0x142#10 h (encodeAcc acc)
  | .mwrite h acc => laneWords 0x143#10 h (encodeAcc acc)
  | .mdrain h m => laneWords 0x144#10 h (encodeModDrain m)
  | .lnop => [0x180#10 ++ 0#22, 0#32, 0#32]
  | .fusedSoftmax hm mm ht mt he me hs ms =>
    laneWords 0x086#10 hm (encodeModX mm) ++ laneWords 0x041#10 ht (encodeModA mt) ++
      laneWords 0x054#10 he (encodeModA me) ++ laneWords 0x087#10 hs (encodeModX ms)
  | .clauseStart _ => []
  | .clauseRetire _ => []
  | .clauseComplete _ _ => []
  | .longLatencyComplete _ _ => []
  | .storeAck _ _ _ => []
  | .teamWake _ _ _ => []
  | .waitTimeout _ _ _ => []
  | .streamDeliver _ _ => []
  | .commandSignal _ => []
  | .layoutBlockConvert _ _ => []
  | .firstTouchBind _ _ => []
  | .matrixCommandStart _ => []
  | .accumulatorSwap _ _ => []
  | .mmaComplete _ => []
  | .shadowLatchReplay _ => []
  | .pairOffer _ => []
  | .pairStart _ _ => []
  | .pairStartCycle _ => []
  | .pairOfferWithdraw _ => []
  | .crewFaultSave _ => []
  | .crewPlace _ _ _ _ => []
  | .crewEvict _ => []
  | .rgrowDeadlockEvict _ => []
  | .priorityAging _ _ => []
  | .priorityEvict _ => []
  | .cohortSteal _ => []
  | .launchAccept _ => []
  | .dependenceGatesResolved _ => []
  | .leaseDue _ => []
  | .capacityNotify _ => []
  | .nopreBudgetSpent _ => []
  | .forcedMigration _ => []
  | .channelLineMove _ _ _ => []
  | .leaseTestStart _ => []
  | .testVerdict _ _ _ _ => []
  | .scoreDecay => []
  | .patrolScrub _ _ _ => []
  | .launchQueueProdWrite _ _ => []
  | .poolProdWrite _ _ => []
  | .eventRingConsWrite _ => []
  | .queueApertureWrite _ _ => []
  | .hostCxlMemRead _ _ => []
  | .hostCxlMemWrite _ _ => []
  | .eventWrite => []
  | .queueConfig _ => []
  | .rangeReserve _ => []
  | .rangeRelease _ => []
  | .poolConfig _ => []
  | .xlateInval _ => []
  | .spanJoin _ => []
  | .spanLeave _ => []
  | .eventConfig _ => []
  | .portStatus _ => []
  | .crewResume _ => []
  | .crewAbandon _ => []
  | .quiesce _ => []
  | .quiesceTimeout => []
  | .resume _ => []
  | .restore _ => []
  | .unitStatus _ => []
  | .recordRead _ => []
  | .cometConfig _ => []
  | .cometTrack _ => []
  | .stepQuery _ => []
  | .stepRebuild _ => []
  | .stepLoad _ => []
  | .launchAbandon _ => []
  | .wlRelease _ => []
  | .mailboxUnsupportedOpcode _ => []
  | .getVersion _ => []
  | .getCapabilities _ => []
  | .negotiateAlgorithms _ => []
  | .getDigests _ => []
  | .getCertificate _ => []
  | .challenge _ => []
  | .getMeasurements _ => []
  | .spdmUnsupportedRequest _ => []
  | .capWrite _ _ => []
  | .alarmClear _ => []
  | .perfCounterClear _ => []
  | .registerWrite _ _ => []
  | .i3cSetdasa _ => []
  | .vauxApply => []
  | .vinApply => []
  | .vinLoss => []
  | .thermalTrip => []
  | .junctionHot _ => []
  | .monitorAlarm _ => []
  | .voltageDroop _ => []
  | .coldReset => []
  | .holdupCharged => []
  | .bootRunning => []
  | .ballastDrainLine _ => []
  | .portSignalDetect _ => []
  | .portLanesLocked _ => []
  | .portTrainTimeout _ => []
  | .portSignalLoss _ => []
  | .hello _ => []
  | .ack _ => []
  | .nak _ => []
  | .flitCrcError _ => []
  | .flitUnassigned _ => []
  | .flitWrite _ => []
  | .flitReadRequest _ => []
  | .flitReadResponse _ => []
  | .xredContribution _ => []
  | .xredResult _ => []
  | .cometShard _ => []
  | .routeLost _ => []
  | .memberLost _ => []
  | .tetherReadRequest _ _ _ _ _ => []
  | .tetherOwnershipRequest _ _ _ _ _ => []
  | .tetherAtomicRequest _ _ _ _ _ _ _ _ _ _ _ => []
  | .tetherGrant _ _ _ _ _ _ _ _ _ => []
  | .tetherSnoop _ _ _ _ => []
  | .tetherWriteBack _ _ _ _ _ => []
  | .tetherReplacement _ _ => []
  | .tetherSnoopTimeout _ => []
  | .tetherRevoke _ _ _ => []
  | .requestGuardExpiry _ => []
  | .homeGuardExpiry _ => []
  | .wlRunRequest _ => []
  | .wlappItemWrite _ => []
  | .wlCountChange _ => []
  | .cometCaptureBegin _ => []
  | .cometGranulePreserve _ => []
  | .cometCaptureEnd => []
  | .cometStreamGranule _ => []
  | .cometPrepared => []
  | .cometCommit _ => []
  | .cometRecordDurable => []
  | .unassignedEncoding _ => []
  | .instructionFetchFault _ _ _ => []
  | .functionReset => []
  | .vauxRemoval => []
  | .cometPreparedReport _ _ => []
  | .memberReachable _ => []

/-- The bytes of an instruction as memory holds them: each word little-endian, the first at the lowest address (00 R5). -/
def encodeBytes (i : Instr) : List Byte := (encode i).flatMap fun w => leBytes 4 w.toNat

/-- The stream an encoded instruction belongs to; none for the steps and commands of the device. -/
def Instr.stream (i : Instr) : Option Stream :=
  match (encode i).length with
  | 0 => none
  | 1 => some .scalar
  | 2 => some .scalar
  | _ => some .lane

/-- The instruction that the decoder reads from the bits `w` of an opcode-table row of `nbits` bits: up to 64 bits a
scalar instruction with its extension word, otherwise a lane instruction of 96 bits. -/
def decodeTableWord (nbits w : Nat) : Option Instr :=
  if nbits ≤ 64 then
    match decodeScalarBytes (leBytes 8 (w % 2 ^ nbits)) with
    | .ok (i, _) => some i
    | .error _ => none
  else
    match decodeLaneBytes (leBytes 12 (w % 2 ^ nbits)) with
    | .ok (i, _) => some i
    | .error _ => none

end Sys2Proof
end

