-- ==== Sys2Proof/Machine/Num.lean ====
section
/-! DEFINITION. Numbers: integer reduction, the floating-point formats, rounding, conversions and DMIX (04_numbers R71 to
R84, 11_matrix R258). A floating-point value is held exactly as a sign and a fraction of naturals; every rounding is one
call of `roundMag`. -/

namespace Sys2Proof.Machine

/-- A binary format (04 R72). -/
structure Fmt where
  ebits : Nat
  fbits : Nat
  bias : Nat
  /-- Infinity and NaN encodings exist as IEEE 754 gives them -/
  ieee : Bool
  /-- bits of the greatest finite magnitude -/
  maxBits : Nat
  /-- the canonical NaN, or +0 for E2M1, which has none (R84) -/
  nanBits : Nat
  deriving DecidableEq, Repr

/-- The formats by type code (04 R71, R72); .f32 stands in for codes without a format. -/
def fmtOf (ty : BitVec 4) : Fmt :=
  match ty.toNat with
  | 9 => ⟨8, 7, 127, true, 0x7F7F, 0x7FC0⟩
  | 10 => ⟨5, 10, 15, true, 0x7BFF, 0x7E00⟩
  | 11 => ⟨4, 3, 7, false, 0x7E, 0x7F⟩
  | 12 => ⟨5, 2, 15, true, 0x7B, 0x7E⟩
  | 13 => ⟨2, 1, 1, false, 0x7, 0⟩
  | _ => ⟨8, 23, 127, true, 0x7F7FFFFF, 0x7FC00000⟩

def f32 : Fmt := fmtOf 8#4
def Fmt.width (f : Fmt) : Nat := 1 + f.ebits + f.fbits
/-- E4M3 is the one format with a NaN and no infinity (04 R72). -/
def Fmt.isE4m3 (f : Fmt) : Bool := !f.ieee && f.ebits == 4
def Fmt.signBit (f : Fmt) (neg : Bool) : Nat := if neg then 2 ^ (f.width - 1) else 0

/-- A floating-point value: NaN, an infinity, or the exact magnitude num/den with a sign, den positive. -/
inductive FVal where
  | nan
  | inf (neg : Bool)
  | fin (neg : Bool) (num den : Nat)
  deriving DecidableEq, Repr

/-- The rounding modes; RSX carries the 32 bits u of R82 (04 R79). -/
inductive RMode where
  | rne | rz | rdn | rup
  | rsx (u : BitVec 32)
  deriving DecidableEq, Repr

/-- The mode of codes 0 to 3 (04 R79). -/
def rmodeOf (c : BitVec 3) : RMode :=
  match c.toNat with | 1 => .rz | 2 => .rdn | 3 => .rup | _ => .rne

def RMode.isRdn : RMode → Bool
  | .rdn => true
  | _ => false

/-- num/den times 2^k, as a fraction. -/
def scaleFrac (num den : Nat) (k : Int) : Nat × Nat := if 0 ≤ k then (num * 2 ^ k.toNat, den) else (num, den * 2 ^ (-k).toNat)

/-- floor(log2(num/den)) for a positive fraction. -/
def ilog2 (num den : Nat) : Int :=
  let e : Int := (num.log2 : Int) - (den.log2 : Int)
  let (n, d) := scaleFrac num den (-e)
  if n < d then e - 1 else e

/-- The value of an encoding (04 R72). -/
def decodeF (f : Fmt) (x : Nat) : FVal :=
  let neg := x.testBit (f.width - 1)
  let e := (x / 2 ^ f.fbits) % 2 ^ f.ebits
  let m := x % 2 ^ f.fbits
  if f.ieee && e == 2 ^ f.ebits - 1 then (if m = 0 then .inf neg else .nan)
  else if f.isE4m3 && e == 15 && m == 7 then .nan
  else
    let sig := if e = 0 then m else 2 ^ f.fbits + m
    let k : Int := (if e = 0 then 1 else (e : Int)) - f.bias - f.fbits
    let (n, d) := scaleFrac sig 1 k
    .fin neg n d

/-- The exponent of the grid's spacing at the magnitude num/den: the spacing is 2^this (04 R80). -/
def quantum (f : Fmt) (num den : Nat) : Int := max (ilog2 num den) (1 - (f.bias : Int)) - f.fbits

/-- Whether a magnitude with lower neighbour `lo` (in spacings) and remainder rem/d rounds away from zero (04 R79, R80, R82). -/
def roundsUp (mode : RMode) (neg : Bool) (lo rem d : Nat) : Bool :=
  match mode with
  | .rne => decide (2 * rem > d) || (decide (2 * rem = d) && lo % 2 == 1)
  | .rz => false
  | .rdn => neg && decide (rem ≠ 0)
  | .rup => !neg && decide (rem ≠ 0)
  | .rsx u => decide (rem * 2 ^ 32 > u.toNat * d)

/-- The magnitude bits of a positive fraction rounded to the format's grid extended upwards without limit (04 R80). -/
def roundMag (f : Fmt) (mode : RMode) (neg : Bool) (num den : Nat) : Nat :=
  let q := quantum f num den
  let (n, d) := scaleFrac num den (-q)
  let lo := n / d
  let m := if roundsUp mode neg lo (n % d) d then lo + 1 else lo
  let base : Int := q + f.bias + f.fbits - 1
  m + base.toNat * 2 ^ f.fbits

/-- An infinite result in the format (04 R81, R84). -/
def infBits (f : Fmt) (sat neg : Bool) : Nat :=
  if sat then f.signBit neg + f.maxBits
  else if f.ieee then f.signBit neg + (2 ^ f.ebits - 1) * 2 ^ f.fbits
  else if f.isE4m3 then f.nanBits
  else f.signBit neg + f.maxBits

/-- A result whose magnitude exceeds the greatest finite one (04 R81). -/
def overflowBits (f : Fmt) (mode : RMode) (sat neg : Bool) : Nat :=
  let toInf := match mode with | .rne => true | .rz => false | .rdn => neg | .rup => !neg | .rsx _ => false
  infBits f (sat || !toInf) neg

/-- A value rounded once to a format (04 R73, R80, R81, R84). -/
def encodeF (f : Fmt) (mode : RMode) (sat : Bool) (v : FVal) : Nat :=
  match v with
  | .nan => f.nanBits
  | .inf neg => infBits f sat neg
  | .fin neg num den =>
    if num = 0 then f.signBit neg else
    let m := roundMag f mode neg num den
    if m ≤ f.maxBits then f.signBit neg + m else overflowBits f mode sat neg

/-- The exact sum (04 R74). An exact zero sum of opposite signs is −0 only under RDN. -/
def addV (rdn : Bool) (x y : FVal) : FVal :=
  match x, y with
  | .nan, _ => .nan
  | _, .nan => .nan
  | .inf a, .inf b => if a == b then .inf a else .nan
  | .inf a, _ => .inf a
  | _, .inf b => .inf b
  | .fin a n d, .fin b m e =>
    let s : Int := (if a then -1 else 1) * ((n * e : Nat) : Int) + (if b then -1 else 1) * ((m * d : Nat) : Int)
    if s = 0 then .fin (if n = 0 && m = 0 && a == b then a else rdn) 0 1
    else .fin (decide (s < 0)) s.natAbs (d * e)

def negV : FVal → FVal
  | .nan => .nan
  | .inf a => .inf !a
  | .fin a n d => .fin (!a) n d

def absV : FVal → FVal
  | .nan => .nan
  | .inf _ => .inf false
  | .fin _ n d => .fin false n d

/-- The exact product (04 R74): infinity times zero is NaN. -/
def mulV (x y : FVal) : FVal :=
  match x, y with
  | .nan, _ => .nan
  | _, .nan => .nan
  | .inf a, .inf b => .inf (a != b)
  | .inf a, .fin b m _ => if m = 0 then .nan else .inf (a != b)
  | .fin a n _, .inf b => if n = 0 then .nan else .inf (a != b)
  | .fin a n d, .fin b m e => .fin (a != b) (n * m) (d * e)

/-- The exact quotient (09 R200). -/
def divV (x y : FVal) : FVal :=
  match x, y with
  | .nan, _ => .nan
  | _, .nan => .nan
  | .inf _, .inf _ => .nan
  | .inf a, .fin b _ _ => .inf (a != b)
  | .fin a _ _, .inf b => .fin (a != b) 0 1
  | .fin a n d, .fin b m e =>
    if m = 0 then (if n = 0 then .nan else .inf (a != b)) else .fin (a != b) (n * e) (d * m)

/-- Integer square root, bit by bit from bit `k`. -/
def isqrtFrom : Nat → Nat → Nat → Nat
  | 0, n, r => if (r + 1) * (r + 1) ≤ n then r + 1 else r
  | k + 1, n, r => isqrtFrom k n (if (r + 2 ^ (k + 1)) * (r + 2 ^ (k + 1)) ≤ n then r + 2 ^ (k + 1) else r)

def isqrt (n : Nat) : Nat := isqrtFrom (n.log2 / 2 + 1) n 0

/-- The square root, exact where it is rational; otherwise a fraction strictly between the two neighbouring multiples of
2^−30 of its magnitude, which rounds as the root does in every format (09 R200). -/
def sqrtV (x : FVal) : FVal :=
  match x with
  | .nan => .nan
  | .inf a => if a then .nan else .inf false
  | .fin a n d =>
    if n = 0 then .fin a 0 1 else if a then .nan else
    let r := isqrt (n * d * 2 ^ 60)
    if r * r = n * d * 2 ^ 60 then .fin false r (d * 2 ^ 30) else .fin false (2 * r + 1) (d * 2 ^ 31)

/-- The value times 2^k. -/
def scaleV (x : FVal) (k : Int) : FVal :=
  match x with
  | .fin a n d => let (n', d') := scaleFrac n d k; .fin a n' d'
  | v => v

/-- x < y on values that are not NaN, −0 not less than +0. -/
def ltV (x y : FVal) : Bool :=
  match x, y with
  | .nan, _ => false
  | _, .nan => false
  | .inf a, .inf b => a && !b
  | .inf a, _ => a
  | _, .inf b => !b
  | .fin a n d, .fin b m e =>
    decide ((if a then -1 else 1 : Int) * ((n * e : Nat) : Int) < (if b then -1 else 1 : Int) * ((m * d : Nat) : Int))

def eqV (x y : FVal) : Bool :=
  match x, y with
  | .nan, _ => false
  | _, .nan => false
  | _, _ => !ltV x y && !ltV y x

def isNanV : FVal → Bool
  | .nan => true
  | _ => false

def isNegV : FVal → Bool
  | .nan => false
  | .inf a => a
  | .fin a _ _ => a

/-- x before y in the order of minimum and maximum: −0 is less than +0 (09 R198). -/
def beforeV (x y : FVal) : Bool := ltV x y || (eqV x y && isNegV x && !isNegV y)

/-- The exact value of an integer. -/
def intV (i : Int) : FVal := .fin (decide (i < 0)) i.natAbs 1

/-- A value rounded to an integer in a mode; the caller deals with NaN and infinities (04 R80). -/
def roundInt (mode : RMode) (neg : Bool) (num den : Nat) : Int :=
  let lo := num / den
  let m := if roundsUp mode neg lo (num % den) den then lo + 1 else lo
  if neg then -(m : Int) else m

/-! ### Integer types (04 R76) -/

/-- Whether a type code is a signed integer type. -/
def isSignedTy (ty : BitVec 4) : Bool := ty.toNat < 4
/-- The width-w bits of an element read as the type says. -/
def elemInt (signed : Bool) (w x : Nat) : Int := if signed && x.testBit (w - 1) then (x : Int) - 2 ^ w else x
def minInt (signed : Bool) (w : Nat) : Int := if signed then -(2 ^ (w - 1) : Int) else 0
def maxInt (signed : Bool) (w : Nat) : Int := if signed then 2 ^ (w - 1) - 1 else 2 ^ w - 1
/-- wrap_iN and wrap_nN: the low w bits (00 R9). -/
def wrapBits (w : Nat) (i : Int) : Nat := (i % (2 ^ w : Int)).toNat
def clampInt (signed : Bool) (w : Nat) (i : Int) : Int := max (minInt signed w) (min (maxInt signed w) i)
/-- The reduction of an exact integer result (04 R76). -/
def reduceInt (signed sat : Bool) (w : Nat) (i : Int) : Nat := wrapBits w (if sat then clampInt signed w i else i)

/-! ### Conversions (04 R83, R84) -/

/-- Whether a type code is a floating-point type. -/
def isFloatTy (ty : BitVec 4) : Bool := 8 ≤ ty.toNat && ty.toNat ≤ 13

/-- Float to integer: round in the mode, then clamp; NaN gives 0 (R84). -/
def floatToInt (td : BitVec 4) (mode : RMode) (v : FVal) : Nat :=
  let s := isSignedTy td
  let w := elemWidth td
  match v with
  | .nan => 0
  | .inf neg => wrapBits w (if neg then minInt s w else maxInt s w)
  | .fin neg n d => wrapBits w (clampInt s w (roundInt mode neg n d))

/-- The exact value of an element of any type of codes 0 to 13. -/
def elemVal (ty : BitVec 4) (x : Nat) : FVal :=
  if isIntTy ty then intV (elemInt (isSignedTy ty) (elemWidth ty) x) else decodeF (fmtOf ty) x

/-- One element converted from type ts to type td (09 R203; R83, R84). -/
def convertElem (td ts : BitVec 4) (mode : RMode) (sat : Bool) (x : Nat) : Nat :=
  if isIntTy td then
    if isIntTy ts then reduceInt (isSignedTy td) sat (elemWidth td) (elemInt (isSignedTy ts) (elemWidth ts) x)
    else floatToInt td mode (decodeF (fmtOf ts) x)
  else if td == ts then (if isNanV (decodeF (fmtOf ts) x) then (fmtOf td).nanBits else x)
  else encodeF (fmtOf td) mode sat (elemVal ts x)

/-! ### DMIX (11 R258) -/

def dmixC1 : Word := 0x8F3C59A17E2D64B5#64
def dmixC2 : Word := 0x5A4EC3D92B17F68D#64

def dmixMix (v : Word) : Word :=
  let v := v ^^^ (v >>> 29)
  let v := v * dmixC2
  let v := v ^^^ (v >>> 32)
  let v := v * dmixC1
  v ^^^ (v >>> 29)

/-- The generator: five 32-bit naturals to 64 bits. -/
def dmix (seed step row column stream : BitVec 32) : Word :=
  let v : Word := seed ++ stream
  let v := dmixMix (v + step.setWidth 64 * dmixC1)
  let v := dmixMix (v + row.setWidth 64 * dmixC1)
  let v := dmixMix (v + column.setWidth 64 * dmixC1)
  dmixMix (v ^^^ dmixC2)

/-- The 32 bits that R82 and R256 draw from a key. -/
def dmixLow (seed step row column stream : BitVec 32) : BitVec 32 := (dmix seed step row column stream).setWidth 32

/-! ### The two-term operations of the formats -/

/-- One rounded addition in a format (04 R85). -/
def addF (f : Fmt) (mode : RMode) (x y : Nat) : Nat := encodeF f mode false (addV mode.isRdn (decodeF f x) (decodeF f y))
def subF (f : Fmt) (mode : RMode) (x y : Nat) : Nat := encodeF f mode false (addV mode.isRdn (decodeF f x) (negV (decodeF f y)))
def mulF (f : Fmt) (mode : RMode) (x y : Nat) : Nat := encodeF f mode false (mulV (decodeF f x) (decodeF f y))
/-- Fused multiply-add with one rounding (09 R198). -/
def fmaF (f : Fmt) (mode : RMode) (x y z : Nat) : Nat :=
  encodeF f mode false (addV mode.isRdn (mulV (decodeF f x) (decodeF f y)) (decodeF f z))

/-- Minimum (`mx` false) or maximum with one NaN ignored, and the canonical NaN for two (08 R166, 09 R198). -/
def minmaxF (f : Fmt) (mx : Bool) (x y : Nat) : Nat :=
  let a := decodeF f x
  let b := decodeF f y
  if isNanV a then (if isNanV b then f.nanBits else y) else if isNanV b then x
  else if beforeV a b == mx then y else x

/-- Minimum or maximum in which any NaN gives the canonical NaN (09 R212, R214; 12 R268). -/
def minmaxNanF (f : Fmt) (mx : Bool) (x y : Nat) : Nat :=
  if isNanV (decodeF f x) || isNanV (decodeF f y) then f.nanBits else minmaxF f mx x y

/-- −0 of a format, the identity of its additions (04 R87). -/
def negZero (f : Fmt) : Nat := f.signBit true

/-- One level of the pairwise tree: neighbours added, an odd last term kept (its partner would be −0). -/
def pairUp (f : Fmt) : List Nat → List Nat
  | x :: y :: rest => addF f .rne x y :: pairUp f rest
  | [x] => [addF f .rne x (negZero f)]
  | [] => []

/-- tree_sum by levels (04 R87); `k` bounds the levels. -/
def treeLevels (f : Fmt) : Nat → List Nat → List Nat
  | 0, l => l
  | k + 1, l => if l.length ≤ 1 then l else treeLevels f k (pairUp f l)

/-- A value with a NaN made canonical (04 R73). -/
def canonNan (f : Fmt) (x : Nat) : Nat := if isNanV (decodeF f x) then f.nanBits else x

/-- tree_sum: one term alone is returned unchanged but for a NaN made canonical (04 R87). -/
def treeSum (f : Fmt) (l : List Nat) : Nat :=
  match treeLevels f (l.length.log2 + 2) l with
  | [] => negZero f
  | x :: _ => canonNan f x

/-- Combine each position with the one `d` before it (04 R89). -/
def scanStep (op : Nat → Nat → Nat) (d : Nat) (l : List Nat) : List Nat :=
  l.take d ++ List.zipWith op l (l.drop d)

/-- The doubling scan of R89: `k` bounds the steps. -/
def scanLevels (op : Nat → Nat → Nat) : Nat → Nat → List Nat → List Nat
  | 0, _, l => l
  | k + 1, d, l => if d < l.length then scanLevels op k (2 * d) (scanStep op d l) else l

/-- The inclusive prefix combination of a list in the order of R89. -/
def scanInclusive (op : Nat → Nat → Nat) (l : List Nat) : List Nat := scanLevels op (l.length.log2 + 2) 1 l

/-- The class bits of FCLASS (09 R200). -/
def classF (f : Fmt) (x : Nat) : Nat :=
  let e := (x / 2 ^ f.fbits) % 2 ^ f.ebits
  match decodeF f x with
  | .nan => 2 ^ 8
  | .inf neg => if neg then 2 ^ 0 else 2 ^ 7
  | .fin neg n _ =>
    if n = 0 then (if neg then 2 ^ 3 else 2 ^ 4)
    else if e = 0 then (if neg then 2 ^ 2 else 2 ^ 5)
    else if neg then 2 ^ 1 else 2 ^ 6

/-- FROUND: an integral value of the format with the sign of x (09 R200). -/
def roundIntegralF (f : Fmt) (mode : RMode) (x : Nat) : Nat :=
  match decodeF f x with
  | .nan => f.nanBits
  | .inf _ => x
  | .fin neg n d => if n = 0 then x else encodeF f .rz false (.fin neg (roundInt mode neg n d).natAbs 1)

end Sys2Proof.Machine
end

