-- ==== Sys2Proof/Machine/State.lean ====
section
/-! DEFINITION. The state of one Ocvel D4 package: what the manual gives the machine, and the model's own agenda of moves
(notes/assumptions/1.md). Each structure's defaults are its values when it comes into being; `State.reset` is the machine
after a cold reset (15_platform R320, R324). -/

namespace Sys2Proof.Machine

/-- Why the machine stops. Every constructor is safe: the model stops where no rule of the manual says what happens. -/
inductive Fault where
  /-- An instruction of a team is executed and no team has the focus: raised by `withTeam`; safe. -/
  | noTeam
  deriving DecidableEq, Repr

/-- What the model refuses. -/
inductive Refusal where
  /-- An instruction without a meaning in the model, raised by `exec`; safe. -/
  | notModelled (mnemonic : String)
  deriving DecidableEq, Repr

/-- Why one access or command step does not happen now (17 R340, 02 R40). -/
inductive Stop where
  /-- a trap or status with this code -/
  | code (c : Nat)
  /-- a hold: nothing happens and the step may be tried again -/
  | hold
  deriving DecidableEq, Repr

/-- The outcome of an address translation (14 R305 to R307): a device-physical address and the page table entry used, no
translation, no translation because the pool of a page size is empty, or an entry that the walker cannot read (17 R340, R344). -/
inductive Xlate where
  | ok (pa : Nat) (entry : Word)
  | fail
  | empty (z : Nat)
  | lost
  deriving DecidableEq, Repr

/-- A sparse array of w-bit cells: addresses rising, no cell equal to zero, which an unlisted address reads as. -/
abbrev SMap (w : Nat) := List (Nat × BitVec w)

/-- Memory by device-physical byte address (14 R300; notes/assumptions/2.md). -/
abbrev Memory := List Host.Cell

/-! ### Teams -/

/-- The coordinates of a tile element (05 R96). -/
structure Coord where
  c0 : Nat
  c1 : Nat
  c2 : Nat
  c3 : Nat
  deriving DecidableEq, Repr

/-- A location of memory that a team access names (06 R117): an element of a tile, or one word of its block-plane block
(10 R220); or bytes at a virtual address. -/
inductive Loc where
  | tile (crew uid : Nat) (c : Coord) (blk : Option Nat)
  | glob (va pa : Nat)
  deriving DecidableEq, Repr

/-- What an outstanding access does when it is performed (03 R57). -/
inductive AccKind where
  | load (reg : BitVec 9) (elem : Nat)
  | store (v : Word) (step : BitVec 32)
  | atom (op : AtomOp) (operand cmp : Word) (reg : BitVec 9) (elem : Nat)
  deriving DecidableEq, Repr

/-- An access of a team that is issued and not yet performed (06 R119, R123). -/
structure Access where
  /-- program order within the team -/
  ord : Nat
  /-- the write request it belongs to (06 R123) -/
  req : Nat
  stream : Stream
  /-- uid of the clause, for a lane access -/
  clause : Nat
  lane : Nat
  loc : Loc
  /-- bits -/
  width : Nat
  kind : AccKind
  /-- index of its instruction in the clause -/
  idx : Nat := 0
  /-- core cycles since it was sent (17 R344) -/
  age : Nat := 0
  deriving DecidableEq, Repr

/-- An entry of the lane queue, or a clause that has retired and is not complete (03 R53, R54, R58). -/
structure Clause where
  uid : Nat
  addr : Nat
  mask : Mask
  /-- the captured header's instruction count -/
  count : Nat
  /-- the header's wait mask -/
  wait : BitVec 12
  /-- the header's setA and setB -/
  setA : BitVec 4 := 15#4
  setB : BitVec 4 := 15#4
  /-- the flags held, less those that FCLR dropped -/
  holds : BitVec 12
  /-- step.now at the LQ (08 R180) -/
  step : BitVec 32
  /-- program order of the LQ: the scalar stream's earlier tile stores come first (03 R70) -/
  ord : Nat
  /-- accesses of clauses with a smaller uid than this come first (03 R68) -/
  fence : Nat
  started : Bool
  deriving DecidableEq, Repr

/-- A stream command (03 R62; 08 R170, R171). `kind` 0 STRM.d, 1 STRM.c4, 2 QLD. -/
structure StreamCmd where
  kind : Nat
  q : Nat
  /-- s[a] to s[a+3] and t2, t3 -/
  r0 : Word
  r1 : Word
  r2 : Word
  r3 : Word
  t2 : Word
  t3 : Word
  /-- uid of the captured tile, for QLD -/
  uid : Nat
  /-- band entries delivered -/
  sent : Nat
  /-- program order (06 R120) -/
  ord : Nat
  deriving DecidableEq, Repr

/-- A word's tags that a waiter waits for: full or empty (10 R226, R227). -/
structure TagWant where
  crew : Nat
  uid : Nat
  c : Coord
  full : Bool
  /-- the word of the element's block, for fmt 14 (10 R220) -/
  blk : Option Nat
  deriving DecidableEq, Repr

/-- The scalar stream stopped in a waiting instruction (02 R38, 17 R342). -/
structure ScalarWait where
  instr : Instr
  /-- core cycles remaining; none without limit -/
  remaining : Option Nat
  /-- order in which waits began (10 R227) -/
  began : Nat
  want : Option TagWant := none
  /-- of a GWAIT: its gate's tile and element, and the phase that the gate update which has woken it left (05 R103, R104) -/
  gate : Option (Nat × Coord) := none
  woken : Option Nat := none
  deriving DecidableEq, Repr

/-- An unresolved lane of the waiting lane instruction at the head clause (10 R222, R228). -/
structure LaneWait where
  lane : Nat
  instr : Instr
  remaining : Option Nat
  began : Nat
  want : Option TagWant := none
  /-- the lane's operands, read in its pass: s0, and s1 where the instruction has one -/
  a : Word
  b : Word
  /-- core cycles since its request to the core of another crew was sent (17 R344) -/
  age : Nat := 0
  deriving DecidableEq, Repr

/-- A team's standing in a list set (02 R47). -/
structure WlHold where
  /-- control block address -/
  set : Nat
  items : Nat
  seed : Bool
  deriving DecidableEq, Repr

/-- A lane's append whose item address did not translate (10 R237, 19 R373): its reserved position, and what its re-execution writes there
(notes/assumptions/40.md). -/
structure WlSlot where
  lane : Nat
  set : Nat
  list : Nat
  pos : Nat
  dest : BitVec 9
  item : Word
  /-- the WLAPP: its clause, its place in the program order, its index in the clause -/
  clause : Nat
  ord : Nat
  idx : Nat
  deriving DecidableEq, Repr

/-- A VOTE's write on its way to a mask register (03 R67). -/
structure Vote where
  /-- the clause -/
  uid : Nat
  reg : BitVec 3
  mask : Mask
  deriving DecidableEq, Repr

/-- What a lane fault keeps for the re-execution of its instruction (17 R342, 18 R354, 19 R373). -/
structure Restart where
  /-- the popped vector of each queue source, band entries in ascending order -/
  popped : List (Nat × List Band)
  /-- the set X of CSTORE and XLD, once the instruction has executed for the first time -/
  x : Option Mask
  deriving DecidableEq, Repr

/-- How a team stands in one class of issue slots (13 R289): its wait count, saturating at 64; the core cycles for which it has been a
candidate without a break; whether it has been chosen since the last of them. -/
structure SlotWait where
  count : Nat := 0
  since : Nat := 0
  got : Bool := false
  deriving DecidableEq, Repr

/-- The state of a team (02 R28, R34; 03 R50; 19 R372). -/
structure Team where
  id : Nat
  lanes : Nat
  /-- regs.lane (08 R186) -/
  regs : Nat
  priv : Bool
  pc : BitVec 64
  sregs : SMap 64 := []
  /-- m0 to m7 -/
  masks : SMap 1024 := []
  /-- VOTEs executed whose write the scalar stream does not yet see, oldest first (03 R67) -/
  votes : List Vote := []
  /-- the mask stack, bottom first -/
  stack : List Mask := []
  queue : List Clause := []
  /-- next instruction of the head clause -/
  lidx : Nat := 0
  retired : List Clause := []
  /-- q0 to q7 -/
  queues : List (List Band) := List.replicate 8 []
  scq : List StreamCmd := []
  /-- entries that the instruction at lidx has popped while it waits for the rest of the vector, by queue (03 R61) -/
  taken : List (Nat × List Band) := []
  /-- the operand buffer, valid for the next instruction only -/
  obuf : Option (SMap 64) := none
  /-- what the waiting instruction at lidx retains, for the next one -/
  obufNext : Option (SMap 64) := none
  /-- register · 1024 + lane -/
  vregs : SMap 64 := []
  /-- p0 to p14, a lane mask each -/
  preds : SMap 1024 := []
  exited : Bool := false
  /-- work-list holdings retired and the scalar stream ended: R36, R37 FINISHED -/
  finished : Bool := false
  faulted : Bool := false
  swait : Option ScalarWait := none
  lwaits : List LaneWait := []
  stepNow : BitVec 32 := 0#32
  batchOpen : BitVec 16 := 1#16
  seqNext : BitVec 32 := 0#32
  guardDepth : BitVec 4 := 0#4
  nopreDepth : BitVec 4 := 0#4
  nopreUsed : Nat := 0
  nopreSpent : Bool := false
  lfm : Mask := 0#1024
  trapPc : BitVec 56 := 0#56
  trapCause : BitVec 28 := 0#28
  trapVec : BitVec 56 := 0#56
  trapLclause : BitVec 56 := 0#56
  trapLidx : BitVec 4 := 0#4
  trapLane : Bool := false
  trapInh : Bool := false
  restart : Option Restart := none
  /-- appends that are to be re-executed (10 R237) -/
  slots : List WlSlot := []
  ctxSel : BitVec 14 := 0#14
  sctr : BitVec 16 := 0#16
  lctr : BitVec 16 := 0#16
  pending : List Access := []
  /-- lane accesses that have failed for want of an answer and are to be made again (17 R344; notes/assumptions/47.md) -/
  again : List Access := []
  pairSeq : BitVec 16 := 0#16
  /-- accumulator · 16384 + row · 128 + column -/
  acc : SMap 32 := []
  accUsed : BitVec 4 := 0#4
  /-- what holds an uncorrectable error: lane registers (register · 1024 + lane), scalar registers, accumulator elements -/
  laneErr : List Nat := []
  scalarErr : List Nat := []
  accErr : List Nat := []
  wl : List WlHold := []
  nextOrd : Nat := 1
  nextClause : Nat := 1
  /-- clauses below this uid were appended before the last MPOP (03 R68) -/
  fenceUid : Nat := 0
  /-- core cycles for which the team has been BLOCKED (13 R292) -/
  blockedFor : Nat := 0
  /-- scalar, vector and matrix start slots -/
  scalarSlot : SlotWait := {}
  vectorSlot : SlotWait := {}
  matrixSlot : SlotWait := {}
  deriving DecidableEq, Repr

/-! ### Crews -/

/-- A window that no XWIN has written: origin 0, every extent 1 (12 R261). -/
def windowReset : BitVec 256 := 0x0000000000010001000100010001000100000000000000000000000000000000#256

/-- A layout conversion in progress: blocks are converted in ascending order (05 R113, 12 R272). -/
structure Conv where
  target : BitVec 4
  done : Nat
  words : SMap 32 := []
  full : List Nat := []
  poison : List Nat := []
  /-- order of the LAYOUT on the core -/
  order : Nat
  deriving DecidableEq, Repr

/-- A tile (05 R93 to R105). `layout` is the tag of the storage in `words`, D1.from. -/
structure Tile where
  uid : Nat
  handle : BitVec 8
  freed : Bool := false
  /-- the tile whose values at its TFREE this one keeps for stream commands (08 R171); 0 for none -/
  copyOf : Nat := 0
  n0 : BitVec 16
  n1 : BitVec 16
  n2 : BitVec 16
  n3 : BitVec 16
  fmt : BitVec 4
  planes : BitVec 5
  layout : BitVec 4
  tags : Bool
  queue : Bool
  tracked : Bool := false
  words : SMap 32 := []
  /-- words whose tag is full, ascending -/
  full : List Nat := []
  /-- poisoned words (20 R398) -/
  poison : List Nat := []
  /-- of a freed tile: its footprint has been released, and only accesses of teams that are still outstanding name it (08 R173) -/
  released : Bool := false
  conv : Option Conv := none
  bstep : BitVec 32 := 0#32
  head : BitVec 32 := 0#32
  tail : BitVec 32 := 0#32
  deriving DecidableEq, Repr

/-- How a crew stands (02 R36, R37; 17 R345; 21 R416). -/
inductive CrewState where
  | live | completed | abandoned
  deriving DecidableEq, Repr

/-- A crew that has ever been resident (02 R30; 19 R370). Its position in `State.crews` never changes. -/
structure Crew where
  launchId : BitVec 32
  crewId : BitVec 32
  /-- logical core of the placement -/
  place : Option Nat
  /-- order of the first residency (13 R291) -/
  born : Nat
  lastRegion : Nat
  /-- slice-island cycles in a backlog since it left its core (13 R287) -/
  waited : Nat := 0
  state : CrewState := .live
  teams : List Team := []
  tiles : List Tile := []
  nextUid : Nat := 1
  /-- bound descriptors of g0 to g63, 64 bytes each; zero is unbound -/
  globals : SMap 512 := []
  /-- w0 to w15, W0 in the low bits: origin 0 and extents 1 until an XWIN (12 R261) -/
  windows : List (BitVec 256) := List.replicate 16 windowReset
  capNote : BitVec 9 := 0#9
  /-- a capacity change whose notification has not been delivered (13 R295) -/
  capPending : Bool := false
  /-- saved after a fault (17 R345) -/
  heldFaulted : Bool := false
  /-- CREW_RESUME, or the pool row of R345, has made a faulted crew placeable -/
  placeable : Bool := false
  /-- the page size code whose empty pools faulted every access of the trap (17 R345) -/
  poolZ : Option Nat := none
  /-- evicted while a team waited in RGROW (13 R291) -/
  growEvicted : Bool := false
  mirrored : Bool := false
  /-- table entries that hold an uncorrectable error: tile handles, global handles from 256 on, windows from 320 on (20 R398) -/
  tableErr : List Nat := []
  /-- WL_RELEASE has been applied (21 R417) -/
  released : Bool := false
  /-- work-list holdings of an abandoned crew -/
  owed : List WlHold := []
  deriving DecidableEq, Repr

/-! ### Engines -/

/-- An engine command in flight (12 R262; 19 R374). -/
structure Command where
  id : Nat
  xred : Bool
  crew : Nat
  team : Nat
  /-- core of issue -/
  core : Nat
  /-- batch in [47:32], sequence number in [31:0] (08 R177) -/
  ticket : BitVec 48
  words : BitVec 256
  swin : BitVec 256
  dwin : BitVec 256
  /-- captured descriptors of global handles -/
  sdesc : BitVec 512
  ddesc : BitVec 512
  /-- captured tile uids, 0 for none -/
  suid : Nat
  duid : Nat
  guid : Nat
  /-- program order of the issue and the clauses appended before it (06 R127) -/
  ord : Nat
  clauses : Nat
  /-- element positions moved -/
  done : List Nat := []
  /-- errors met, as codes -/
  errs : List Nat := []
  /-- a writer waiting for an empty tag, with the order of the wait (10 R227) -/
  waiting : Option (Nat × TagWant) := none
  /-- number within its span reduction group -/
  spanK : Nat := 0
  /-- the root values that have arrived, by destination element, and whether the reduction ended aborted (12 R271, 18 R359) -/
  root : List (Nat × Word) := []
  rootFail : Bool := false
  /-- whether its local values have been formed, and whether this package's node has been sent on -/
  formed : Bool := false
  sent : Bool := false
  /-- words written of blocks of a tagged block-plane tile that are not whole: block and word (12 R263) -/
  blocks : List (Nat × Nat) := []
  /-- how many ranges of lost lines there were at issue (20 R393) -/
  deadAt : Nat := 0
  deriving DecidableEq, Repr

/-- A member's command in a span reduction that this package takes part in (12 R271): what every member must know of it. -/
structure SpanNode where
  group : BitVec 16
  k : Nat
  member : Nat
  logc : Nat
  op : BitVec 3
  arrival : Bool
  cbase : Nat
  logb : Nat
  ok : Bool
  /-- number of destination elements -/
  count : Nat
  deriving DecidableEq, Repr

/-- A node value of a span reduction that has reached this package: the member that formed it, its index range
[base, base + 2^lg), the destination element (12 R271). -/
structure SpanVal where
  group : BitVec 16
  k : Nat
  member : Nat
  base : Nat
  lg : Nat
  elem : Nat
  value : Word
  deriving DecidableEq, Repr

/-- The pair handshake of one side (11 R253). -/
inductive PairPhase where
  | idle
  /-- an offer was withdrawn: the side serves another command before it offers again -/
  | withdrawn
  /-- OFFERED, with the pair-clock cycles passed -/
  | offered (age : Nat)
  /-- ARMED, with the pair-clock cycle of the start -/
  | armed (t : Nat)
  | running
  deriving DecidableEq, Repr

/-- A command of a core's matrix queue (11 R247; 19 R375). -/
structure MCmd where
  id : Nat
  core : Nat
  team : TeamRef
  clause : Nat
  ord : Nat
  step : BitVec 32
  instr : Instr
  /-- lane 0's source values: vA, vB, vK of MMA; the five slots of R375 for MDRAIN -/
  src : List Word
  /-- lane, coordinates and value of MREAD and MWRITE -/
  laneOps : List (Nat × Word × Word) := []
  /-- captured tiles hA, hB or destination, residual -/
  uidA : Nat := 0
  uidB : Nat := 0
  /-- the captured global descriptor of an MDRAIN -/
  desc : BitVec 512 := 0#512
  started : Bool := false
  /-- chunk cursor m (11 R251) -/
  cursor : Nat := 0
  /-- of an MDRAIN that has read its sources: the accumulator elements not yet written, with their values in FP32 bits (11 R256),
  2^32 more for an element that held an uncorrectable error (18 R355) -/
  drain : Option (List (Nat × Nat)) := none
  pairSeq : BitVec 16 := 0#16
  phase : PairPhase := .idle
  deriving DecidableEq, Repr

/-- A pair OFFER sent to a core (11 R253). -/
structure Offer where
  core : Nat
  /-- the team that is to receive it -/
  team : TeamRef
  seq : BitVec 16
  pa : Nat
  pb : Nat
  n : Nat
  deriving DecidableEq, Repr

/-- A WLAPP run on its way to the set's master, or granted and not wholly written (10 R237, 12 R274). -/
structure WlItem where
  team : TeamRef
  clause : Nat
  ord : Nat
  gang : Nat
  lane : Nat
  set : Nat
  list : Nat
  dest : BitVec 9
  item : Word
  /-- the run: items of one instruction, set and list share it -/
  run : Nat
  /-- index of the WLAPP in its clause -/
  idx : Nat
  /-- the reserved position, when the master has granted it -/
  pos : Option Nat := none
  /-- the item's translated address with its page table entry, once its write is on its way -/
  at_ : Option (Nat × Word) := none
  deriving DecidableEq, Repr

/-- A retirement on its way to the set's master (12 R274). -/
structure WlChange where
  team : TeamRef
  gang : Nat
  set : Nat
  retire : Nat
  deriving DecidableEq, Repr

/-- A reserved position whose lane faulted or whose crew was abandoned (10 R237, 21 R417). -/
structure WlHole where
  set : Nat
  list : Nat
  pos : Nat
  void : Bool
  owner : TeamRef
  deriving DecidableEq, Repr

/-- One 64-byte line accepted by a Ballast queue (12 R278). -/
structure BLine where
  addr : Nat
  data : BitVec 512
  deriving DecidableEq, Repr

/-- A granule of tracked state (12 R275): 4 KiB of a page by device-physical address, or a block of a tile's storage. -/
inductive Granule where
  | page (pa va : Nat)
  | tile (crew uid block : Nat)
  deriving DecidableEq, Repr

/-- One entry of a step image's directory with its data (21 R404). -/
structure ImageUnit where
  gran : Granule
  launchId : BitVec 32
  crewId : BitVec 32
  handle : BitVec 8
  layout : BitVec 4
  data : List Byte
  poison : List Nat
  deriving DecidableEq, Repr

/-- A granule kept for the image of the step being captured (12 R276). -/
structure Preserved where
  unit : ImageUnit
  deriving DecidableEq, Repr

/-- The snapshot engine (12 R275, R276; 21 R403 to R411). -/
structure Comet where
  configured : Bool := false
  base : Nat := 0
  units : Nat := 0
  presBase : Nat := 0
  presLen : Nat := 0
  /-- launches of the snapshot set; those that join or leave once the capture has ended -/
  tracked : List (BitVec 32) := []
  joining : List (BitVec 32) := []
  leaving : List (BitVec 32) := []
  committed : Option (BitVec 32) := none
  capture : Option (BitVec 32) := none
  /-- the end of the capture has been reached (12 R276 point 4) -/
  ended : Bool := false
  captured : List Granule := []
  preserved : List Preserved := []
  /-- units of the image, in the order streamed -/
  image : List ImageUnit := []
  /-- the image's units have been written to SCM and sent to the parity members -/
  written : Bool := false
  /-- the step whose record stands prepared, and the one whose committed record is not yet durable (21 R407) -/
  prepared : Option (BitVec 32) := none
  committing : Option (BitVec 32) := none
  /-- the step whose capture was abandoned: it is not captured again -/
  barred : Option (BitVec 32) := none
  /-- members whose prepared report has reached the coordinator -/
  reports : List (Nat × BitVec 32) := []
  suspended : Bool := false
  /-- areas that earlier COMET_CONFIGs set, the newest first: first byte and units per slot -/
  earlier : List (Nat × Nat) := []
  /-- the step that STEP_REBUILD restores, and the shards it has asked for: member, kind, index -/
  rebuilding : Option (BitVec 32) := none
  asked : List (Nat × Nat × Nat) := []
  deriving DecidableEq, Repr

/-- A Comet shard that has reached this package: member, step, kind (0 data, 1 P, 2 Q; 6 the answer of a member that was asked
for its record alone), index, 4,096 bytes (12 R277). -/
structure Shard where
  member : Nat
  step : BitVec 32
  kind : Nat
  index : Nat
  valid : Bool
  data : List Byte
  /-- the parts of its data that have arrived -/
  parts : List Nat := []
  /-- the sender's record of the step: 0 none that is valid, 1 prepared, 2 committed -/
  held : Nat := 0
  deriving DecidableEq, Repr

/-! ### Launches and the host -/

/-- How an accepted launch stands (13 R282, R283). -/
inductive LaunchState where
  | waiting | eligible | completed
  deriving DecidableEq, Repr

/-- An accepted launch (13 R279 to R287; 19 R369). -/
structure Launch where
  id : BitVec 32
  record : BitVec 1024
  /-- declarations 4 and up, 12 bytes each -/
  ext : List (BitVec 96)
  state : LaunchState := .waiting
  epri : Nat
  /-- slice-island cycles of each region during which the launch waited unplaced (13 R286) -/
  aging : SMap 64 := []
  /-- slice-island cycles of each region in the backlog, for stealing (13 R287) -/
  waited : SMap 64 := []
  /-- never-started crews: first index and count -/
  ranges : List (Nat × Nat) := []
  /-- cohorts stolen by another region: cohort, region -/
  stolen : List (Nat × Nat) := []
  aborted : Bool := false
  deriving DecidableEq, Repr

/-- One ring of R301. -/
structure Ring where
  prod : BitVec 16 := 0#16
  cons : BitVec 16 := 0#16
  k : Nat := 0
  base : Nat := 0
  en : Bool := false
  priv : Bool := false
  err : Bool := false
  lowMark : BitVec 16 := 0#16
  low : Bool := false
  deriving DecidableEq, Repr

/-- A virtual range (14 R305). -/
structure Range where
  base : Nat
  len : Nat
  /-- page size code: 0 64 KiB, 1 2 MiB, 2 512 MiB -/
  z : Nat
  table : Nat
  deriving DecidableEq, Repr

/-- An entry of a core's translation cache (14 R308). -/
structure TlbEntry where
  core : Nat
  page : Nat
  z : Nat
  entry : Word
  deriving DecidableEq, Repr

/-- An entry of a gang's translation cache, which the gang's cores share (14 R308). -/
structure GangTlbEntry where
  gang : Nat
  page : Nat
  z : Nat
  entry : Word
  deriving DecidableEq, Repr

/-- An L1 copy of a 64-byte global line (06 R124). -/
structure L1Line where
  core : Nat
  line : Nat
  data : BitVec 512
  deriving DecidableEq, Repr

/-- A mailbox or SPDM reply: return code and output payload (14 R303). Codes: 0 Success, 2 Invalid Input, 3 Unsupported,
6 Busy. -/
structure Reply where
  code : Nat
  out : List Byte
  deriving DecidableEq, Repr

/-! ### Fabric, Tether, leases -/

/-- A fabric port (14 R309 to R311). State codes 0 DOWN to 5 TEST. -/
structure Port where
  state : Nat := 0
  fver : BitVec 8 := 0#8
  tver : BitVec 8 := 0#8
  peerSpan : BitVec 32 := 0#32
  peerIndex : BitVec 16 := 0#16
  peerPort : BitVec 8 := 0#8
  txSeq : BitVec 16 := 0#16
  rxSeq : BitVec 16 := 0#16
  unacked : List Flit := []
  nakSeq : BitVec 16 := 0#16
  naks : Nat := 0
  /-- island cycles in TRAIN -/
  age : Nat := 0
  retired : Bool := false
  deriving DecidableEq, Repr

/-- The state of a Tether line at its home (14 R314). A slice is named by package · 64 + gang. -/
inductive DirState where
  | uncached
  | shared (set : List Nat)
  | exclusive (owner : Nat)
  | ownerLost (owner : Nat)
  deriving DecidableEq, Repr

/-- The directory entry and home copy of a line homed here; an unlisted line is UNCACHED and zero (14 R313). -/
structure HomeLine where
  line : Nat
  dir : DirState
  value : BitVec 512
  deriving DecidableEq, Repr

/-- A slice's copy state (14 R314). -/
inductive Mesi where
  | m | e | s
  deriving DecidableEq, Repr

/-- A copy of a Tether line in a cache slice of this package. -/
structure SliceLine where
  gang : Nat
  line : Nat
  st : Mesi
  value : BitVec 512
  deriving DecidableEq, Repr

/-- What a Tether request asks of the home (14 R314; 08 R185). -/
inductive TReqKind where
  | read | own | atomic (off : Nat) (width : Nat) (op : AtomOp) (operand cmp : Word) | claim
  deriving DecidableEq, Repr

/-- How a request of a team of this package stands. -/
inductive TReqState where
  | waiting | granted | refused | failed | answered (old : Word)
  deriving DecidableEq, Repr

/-- A Tether request that a team of this package has sent (14 R314, 17 R344). -/
structure TReq where
  team : TeamRef
  gang : Nat
  line : Nat
  kind : TReqKind
  tag : BitVec 32
  st : TReqState := .waiting
  /-- core cycles since it was sent -/
  age : Nat := 0
  deriving DecidableEq, Repr

/-- A request that the directory has begun and that waits for a snoop's answer (14 R315, R316). -/
structure HomeWait where
  line : Nat
  /-- slice of the requester and its transaction tag -/
  slice : Nat
  tag : BitVec 32
  kind : TReqKind
  /-- the directory has begun it; the later ones of a line wait for it -/
  begun : Bool := false
  /-- slices snooped and not answered -/
  snooped : List Nat
  age : Nat := 0
  deriving DecidableEq, Repr

/-- Span membership (14 R312; 12 R277). -/
structure Span where
  joined : Bool := false
  id : BitVec 32 := 0#32
  index : BitVec 12 := 0#12
  count : BitVec 13 := 1#13
  base : Nat := 0
  fver : BitVec 8 := 1#8
  tver : BitVec 8 := 1#8
  group : BitVec 16 := 0#16
  member : Nat := 0
  /-- an erasure group has been set -/
  erasure : Bool := false
  noRoute : List (Nat × Nat) := []
  lost : List Nat := []
  deriving DecidableEq, Repr

/-- A core, channel, port, slice or SCM stack under score and lease (20 R383, R389). States 0 to 7 of R383. -/
structure LeasedUnit where
  u : DevUnit
  state : Nat
  score : BitVec 16 := 0#16
  early : Bool := false
  /-- order of entering DUE -/
  due : Nat := 0
  /-- core cycles deferred and draining (13 R298) -/
  deferred : Nat := 0
  drained : Nat := 0
  /-- lines of a channel already moved (20 R385) -/
  moved : List Nat := []
  /-- events since boot: replays, corrected, uncorrectable -/
  nrep : Nat := 0
  ncorr : Nat := 0
  nunc : Nat := 0
  /-- logical core slot or channel that it served when its lease began, and whether a spare has taken its place -/
  slot : Nat := 0
  replaced : Bool := false
  /-- runs of the test in progress that have been charged, and a FAIL that takes effect at RESUME: its reason, set and signatures -/
  charged : Nat := 0
  failed : Option (Nat × Nat × BitVec 64 × BitVec 64) := none
  deriving DecidableEq, Repr

/-- A retirement record's fields (20 R395). -/
structure Retirement where
  boot : BitVec 32
  mcyc : BitVec 64
  u : DevUnit
  reason : BitVec 8
  action : BitVec 8
  score : BitVec 16
  subst : Option DevUnit
  capgen : BitVec 32
  set : BitVec 16
  got : BitVec 64
  expect : BitVec 64
  nrep : BitVec 64
  ncorr : BitVec 64
  nunc : BitVec 64
  deriving DecidableEq, Repr

/-- One performance counter block (15 R323). -/
structure Perf where
  en : Bool := false
  cnt : SMap 64 := []
  sel : SMap 8 := []
  deriving DecidableEq, Repr

/-- The platform registers of R320. -/
structure Platform where
  cap : BitVec 16 := 0x0E10#16
  holdup : Bool := false
  caplim : Bool := false
  thermlim : Bool := false
  alarm : Bool := false
  tmax : BitVec 8 := 0#8
  stage : BitVec 8 := 0#8
  fail : BitVec 8 := 0#8
  secver : BitVec 8 := 0#8
  power : BitVec 16 := 0#16
  deriving DecidableEq, Repr

/-- A stored firmware image: kind 1 to 3, copy 0 (A) or 1 (B), and its bytes (15 R325). -/
structure Firmware where
  kind : Nat
  copy : Nat
  image : List Byte
  deriving DecidableEq, Repr

/-- What is kept without power (15 R326; 20 R395; 21 R401). -/
structure NonVolatile where
  records : List Retirement := []
  boots : BitVec 32 := 0#32
  powerLost : Bool := false
  drained : Bool := false
  firmware : List Firmware := []
  /-- the four fused key digests, and which are revoked -/
  keys : List (BitVec 256 × Bool) := []
  secver : BitVec 8 := 0#8
  deriving DecidableEq, Repr

/-- A request to another die that has no answer (17 R344): the team, or the engine command, that waits for it, and the core cycles since
it was sent. -/
structure Asked where
  team : Option TeamRef
  command : Nat
  age : Nat
  deriving DecidableEq, Repr

/-- A page walker at work: the pool it takes from, the virtual page it met unbacked, the entry that it read there, and the zeroed frame at
the pool's head (14 R307). -/
structure Walk where
  pool : Nat
  va : Nat
  entry : Word
  frame : Nat
  deriving DecidableEq, Repr

/-- A stamp that is due and that Comet still holds back (12 R276; 13 R281): the die that writes it, its address, its value. -/
structure OwedStamp where
  die : Nat
  va : Nat
  value : Nat
  deriving DecidableEq, Repr

/-- The clocks of the package (00 R7): how many cycles pass between two steps is an input. The home-slice cycles of a line are those of
the cache-slice island of the region that homes it (01 R20). -/
inductive Clock where
  | core (c : Nat)
  | mgmt
  | slice (region : Nat)
  | port (p : Nat)
  | pair (core : Nat)
  deriving DecidableEq, Repr

/-- One entry of the agenda: which agent moves next, or which input arrives (notes/assumptions/1.md). -/
inductive Move where
  /-- the team's stream executes its next instruction -/
  | run (r : TeamRef) (st : Stream)
  /-- an event or command of the table happens -/
  | event (i : Instr)
  | elapse (c : Clock) (n : Nat)
  /-- a core's L1 copy of a line, or an entry of a core's or a gang's translation cache, is dropped (06 R124, 14 R308) -/
  | l1Drop (core line : Nat)
  | tlbDrop (core page : Nat)
  | gangTlbDrop (gang page : Nat)
  /-- the oldest VOTE under way of a team reaches its mask register (03 R67) -/
  | voteLand (r : TeamRef)
  /-- the array of a core performs one chunk step of its started MMA (11 R251) -/
  | chunkStep (core : Nat)
  /-- command `id` moves the element at position `pos` (12 R263) -/
  | cmdElem (id pos : Nat)
  /-- an MDRAIN writes the destination element of accumulator element `key` (11 R257) -/
  | drainElem (id key : Nat)
  /-- a lane register of a team, a scalar register, or an accumulator element comes to hold an uncorrectable error (17 R340; 18 R352, R355) -/
  | laneError (r : TeamRef) (reg lane : Nat)
  | scalarError (r : TeamRef) (reg : Nat)
  | accError (r : TeamRef) (key : Nat)
  /-- an entry of a crew's tile table (a tile handle), its global handles (256 and up) or its windows (320 and up) comes to hold one (20 R398) -/
  | tableError (crew entry : Nat)
  /-- a run of the test in progress on a unit has ended, with what it found (20 R388, R389) -/
  | testRun (u : DevUnit) (found : RunFound) (got expect : BitVec 64)
  /-- requests from one die to another get no answer from now on, or get them again (17 R344) -/
  | dieSilent (asking answering : Nat) (silent : Bool)
  /-- a page walker of a die takes up an unbacked page, and ends its walk (14 R307) -/
  | walkBegin (die va : Nat)
  | walkEnd (pool : Nat)
  /-- a stamp that was held back is written; a launch whose completion stamp was held back completes (13 R281, R283) -/
  | owedStamp (k : Nat)
  | launchDone (id : BitVec 32)
  /-- the host reads or writes a BAR, or enables the mailbox interrupt (14 R299, R303) -/
  | barRead (bar off : Nat)
  | barWrite (bar off : Nat) (v : BitVec 32)
  | mailboxInterrupt (on : Bool)
  /-- a private write or read on the I3C bus (15 R328) -/
  | i3cWrite (addr : BitVec 7) (bytes : List Byte)
  | i3cRead (addr : BitVec 7)
  /-- the power controller's readings: package power, whether it stretches clocks to meet the cap, the hottest junction (15 R320, R321) -/
  | monitor (power : BitVec 16) (caplim : Bool) (temp : BitVec 8)
  /-- boot enters its next stage (15 R324) -/
  | bootStage
  /-- an error in a unit, found otherwise than by scrubbing (20 R389) -/
  | unitError (u : DevUnit) (e : ScoreEvent) (addr : Nat)
  deriving DecidableEq, Repr

/-- The state of the package. -/
structure State where
  /-- the model's own: the agenda, the acting team, and the index of the next free value -/
  moves : List Move := []
  focus : Option TeamRef := none
  free : Nat := 0
  /-- HBM4E and drained SCM by device-physical address -/
  mem : Memory := []
  /-- poisoned 4-byte words, by address divided by 4 -/
  poison : List Nat := []
  /-- lines lost with a retired channel or stack, as (first address, length) -/
  dead : List (Nat × Nat) := []
  /-- buffer step of global lines, by address divided by 64 (12 R269) -/
  lineStep : SMap 32 := []
  ballast : List BLine := []
  ranges : List Range := []
  tlb : List TlbEntry := []
  gangTlb : List GangTlbEntry := []
  l1 : List L1Line := []
  pools : List Ring := List.replicate 12 {}
  lqs : List Ring := List.replicate 64 {}
  /-- launch queue whose turn it is (13 R281) -/
  turn : Nat := 0
  evRing : Ring := {}
  evSeq : BitVec 64 := 0#64
  /-- events waiting, and the records written to host memory with their slots -/
  events : List (BitVec 256) := []
  hostRing : List (Nat × BitVec 256) := []
  msix : BitVec 2 := 0#2
  reply : Option Reply := none
  spdm : Option (List Byte) := none
  hostRead : List Byte := []
  /-- whether the host has enabled the mailbox interrupt, and the mailbox command that runs and is not complete (14 R303) -/
  mailboxIrq : Bool := false
  mailboxRun : Option (Nat × List Byte) := none
  walks : List Walk := []
  owed : List OwedStamp := []
  launches : List Launch := []
  nextId : BitVec 32 := 0#32
  crews : List Crew := []
  nextBorn : Nat := 0
  /-- order counters of waits, conversions, runs and matrix commands -/
  nextWait : Nat := 0
  nextConv : Nat := 0
  nextRun : Nat := 0
  nextCmd : Nat := 1
  nextTag : BitVec 32 := 0#32
  commands : List Command := []
  spanNodes : List SpanNode := []
  /-- node values in the order of their arrival -/
  spanVals : List SpanVal := []
  /-- copies into tracked SCM pages that have signalled and are not yet durable at pspan, with their step (06 R131, R132) -/
  pspanOpen : List (TeamRef × BitVec 32) := []
  /-- the next reduction number of each group -/
  spanNext : SMap 32 := []
  wlItems : List WlItem := []
  wlChanges : List WlChange := []
  wlHoles : List WlHole := []
  matrix : List MCmd := []
  offers : List Offer := []
  /-- the team that a slot class of a core (core · 2, and 1 more for the vector slots) last chose at a count of 64 (13 R289) -/
  lastChosen : List (Nat × TeamRef) := []
  /-- issue slots of a core's scalar and vector class that instructions have taken of the current core cycle on (13 R288), by the keys of
  `lastChosen` -/
  issueUsed : List (Nat × Nat) := []
  /-- dies between which requests get no answer, and the requests that wait for one (17 R344) -/
  silent : List (Nat × Nat) := []
  asked : List Asked := []
  /-- the team that holds each accumulator tile: core · 4 + N (11 R246) -/
  accHold : List (Nat × TeamRef) := []
  clk : SMap 64 := []
  pairClk : SMap 64 := []
  regions : Nat := 16
  /-- vacant gangs and vacant core numbers of non-vacant gangs (01 R12, R13) -/
  vacantGangs : List Nat := []
  vacantCores : List Nat := []
  /-- cores that a lease keeps from new placements (13 R296) -/
  closedCores : List Nat := []
  capGen : BitVec 32 := 0#32
  units : List LeasedUnit := []
  nextDue : Nat := 0
  /-- rotation slots that each group of leased units has used since boot, by the id of its first unit (20 R380) -/
  slotsUsed : List (DevUnit × Nat) := []
  /-- units with a corrected word or line in this decay period -/
  corrected : List (DevUnit × Nat) := []
  mgmt : Nat := 0
  decayAge : Nat := 0
  cutSeq : BitVec 64 := 0#64
  quiesced : Bool := false
  /-- management cycles QUIESCE has used while it waits for the cut, with its payload (19 R365) -/
  quiescing : Option (Nat × List Byte) := none
  ports : List Port := List.replicate 24 {}
  outbox : List Flit := []
  span : Span := {}
  home : List HomeLine := []
  homeWaits : List HomeWait := []
  slices : List SliceLine := []
  treqs : List TReq := []
  comet : Comet := {}
  shards : List Shard := []
  platform : Platform := {}
  perf : List Perf := List.replicate 4 {}
  vaux : Bool := true
  vin : Bool := true
  /-- the power-loss sequence runs: management cycles since t0 (21 R401) -/
  powerLoss : Option Nat := none
  nv : NonVolatile := {}
  /-- the dynamic I3C address, and the register index that the last private write chose (15 R328) -/
  i3c : Option (BitVec 7) := none
  i3cIndex : Nat := 0
  deriving DecidableEq, Repr

/-- The package after a cold reset, before boot stage 0x01 is entered (15 R320, R324): platform registers as R320 gives
them, every ring unconfigured, no launch, a span of one, 16 regions with no vacancy (01 R11, R14). -/
def State.reset : State := {}

end Sys2Proof.Machine
end

