-- ==== Sys2Proof/Machine/Ops.lean ====
section
/-! DEFINITION. The named operations on sparse arrays, teams and registers, and taking a trap and returning from one
(03_two_streams R50 to R66, 17_fault_model R340 to R343). -/

namespace Sys2Proof.Machine

abbrev Out := Host.Outcome State Fault Refusal

/-! ### Sparse arrays and sorted lists -/

/-- The cell at an address: zero where none is listed. -/
def cellGet {w : Nat} (m : SMap w) (a : Nat) : BitVec w :=
  match m with
  | [] => 0#w
  | (b, v) :: rest => if a = b then v else cellGet rest a

/-- A cell listed before the first one of a greater address. -/
def cellPut {w : Nat} (m : SMap w) (a : Nat) (v : BitVec w) : SMap w :=
  match m with
  | [] => [(a, v)]
  | (b, u) :: rest => if a < b then (a, v) :: (b, u) :: rest else (b, u) :: cellPut rest a v

/-- The array without the cell at an address. -/
def cellDrop {w : Nat} (m : SMap w) (a : Nat) : SMap w := m.filter (fun c => c.1 != a)

/-- A write keeps the canonical form: a zero removes the cell. -/
def cellSet {w : Nat} (m : SMap w) (a : Nat) (v : BitVec w) : SMap w :=
  if v = 0#w then cellDrop m a else cellPut (cellDrop m a) a v

/-- Every address is at least `lo`, addresses rise, no cell is zero. -/
def SMap.wfFrom {w : Nat} : Nat → SMap w → Bool
  | _, [] => true
  | lo, (a, v) :: rest => decide (lo ≤ a) && decide (v ≠ 0#w) && SMap.wfFrom (a + 1) rest

/-- The canonical form of a sparse array. -/
def SMap.wf {w : Nat} (m : SMap w) : Bool := SMap.wfFrom 0 m

/-- The canonical form of memory. -/
def Memory.wf (m : Memory) : Bool := SMap.wf (w := 8) m

/-- Cells from `a` on, `n` of them, removed: they read zero. -/
def cellErase {w : Nat} (m : SMap w) (a n : Nat) : SMap w := m.filter (fun c => !(decide (a ≤ c.1) && decide (c.1 < a + n)))

/-- Add to a rising list of naturals. -/
def natInsert (x : Nat) : List Nat → List Nat
  | [] => [x]
  | y :: rest => if x = y then y :: rest else if x < y then x :: y :: rest else y :: natInsert x rest

/-- `n` bytes at `a`, little-endian (00 R5). -/
def readLE (m : Memory) (a : Nat) : Nat → Nat
  | 0 => 0
  | n + 1 => (cellGet m a).toNat + 256 * readLE m (a + 1) n

/-- The low `n` bytes of `v` stored at `a`. -/
def writeLE (m : Memory) (a : Nat) : Nat → Nat → Memory
  | 0, _ => m
  | n + 1, v => writeLE (cellSet m a (BitVec.ofNat 8 v)) (a + 1) n (v / 256)

/-- The replacement of the first element that satisfies `p`, or its addition at the end. -/
def upsert {α : Type} (p : α → Bool) (x : α) : List α → List α
  | [] => [x]
  | y :: rest => if p y then x :: rest else y :: upsert p x rest

/-! ### Lanes and masks (02 R26, R27) -/

/-- The mask of lanes 0 to n − 1. -/
def laneMask (n : Nat) : Mask := BitVec.ofNat 1024 (2 ^ n - 1)
/-- The lanes of a mask, ascending. -/
def maskLanes (m : Mask) (n : Nat) : List Nat := (List.range n).filter (fun l => m.getLsbD l)
/-- A mask of the lanes that satisfy `p`. -/
def maskOf (n : Nat) (p : Nat → Bool) : Mask := (List.range n).foldl (fun m l => if p l then m ||| BitVec.ofNat 1024 (2 ^ l) else m) 0#1024
/-- Band word b of a mask. -/
def bandWord (m : Mask) (b : Nat) : BitVec 32 := m.extractLsb' (32 * b) 32
/-- The band-summary word: bit b is set when band word b is nonzero (02 R27). -/
def summaryWord (m : Mask) : BitVec 32 :=
  (List.range 32).foldl (fun s b => if bandWord m b = 0#32 then s else s ||| BitVec.ofNat 32 (2 ^ b)) 0#32
/-- A mask with band word b replaced. -/
def setBandWord (m : Mask) (b : Nat) (v : BitVec 32) : Mask :=
  (m &&& ~~~(BitVec.ofNat 1024 ((2 ^ 32 - 1) * 2 ^ (32 * b)))) ||| BitVec.ofNat 1024 (v.toNat * 2 ^ (32 * b))

/-! ### Reading and replacing teams and crews -/

def State.crewAt (s : State) (k : Nat) : Option Crew := s.crews[k]?
def Crew.teamAt (c : Crew) (k : Nat) : Option Team := c.teams[k]?
/-- The crew and the team of a reference. -/
def State.teamAt (s : State) (r : TeamRef) : Option (Crew × Team) :=
  match s.crewAt r.crew with
  | none => none
  | some c => match c.teamAt r.team with
    | none => none
    | some t => some (c, t)
def Crew.putTeam (c : Crew) (k : Nat) (t : Team) : Crew := { c with teams := c.teams.set k t }
def State.putCrew (s : State) (k : Nat) (c : Crew) : State := { s with crews := s.crews.set k c }
def State.modCrew (s : State) (k : Nat) (f : Crew → Crew) : State :=
  match s.crewAt k with
  | none => s
  | some c => s.putCrew k (f c)
/-- The state with a team replaced. -/
def State.putTeam (s : State) (r : TeamRef) (t : Team) : State :=
  match s.crewAt r.crew with
  | none => s
  | some c => s.putCrew r.crew (c.putTeam r.team t)
def State.modTeam (s : State) (r : TeamRef) (f : Team → Team) : State :=
  match s.teamAt r with
  | none => s
  | some (_, t) => s.putTeam r (f t)
/-- Every team of the machine, by reference. -/
def State.teamRefs (s : State) : List TeamRef :=
  (s.crews.zipIdx.map (fun p => (List.range p.1.teams.length).map (fun k => TeamRef.mk p.2 k))).flatten

/-- After a trap of a team that has made it FAULTED: the page size whose empty pool caused every faulting access of the crew's
traps, if one did (17 R345). `again` says that the team was FAULTED before. -/
def State.notePool (s : State) (r : TeamRef) (again : Bool) (z : Option Nat) : State :=
  match s.teamAt r with
  | none => s
  | some (c, t) =>
    if !t.faulted then s
    else
      let other := again || c.teams.zipIdx.any (fun p => p.2 != r.team && p.1.faulted)
      let next := if other && c.poolZ != z then none else z
      s.modCrew r.crew (fun c => { c with poolZ := next, placeable := c.placeable && next == c.poolZ })

/-- What an instruction does to the acting team: a fault where no team has the focus. -/
def withTeam (s : State) (f : TeamRef → Crew → Team → State) : Out :=
  match s.focus with
  | none => .fault .noTeam
  | some r => match s.teamAt r with
    | none => .fault .noTeam
    | some (c, t) => .next (f r c t)

/-- An instruction that changes the acting team alone. -/
def onTeam (s : State) (f : Team → Team) : Out := withTeam s (fun r _ t => s.putTeam r (f t))

/-! ### Scalar registers (03 R51) -/

/-- s0 to s62; sz reads zero. -/
def Team.sreg (t : Team) (a : SReg) : Word := if a = 63#6 then 0#64 else cellGet t.sregs a.toNat
/-- A write; one to sz is discarded. The register then holds no error. -/
def Team.setSreg (t : Team) (d : SReg) (v : Word) : Team :=
  if d = 63#6 then t else { t with sregs := cellSet t.sregs d.toNat v, scalarErr := t.scalarErr.filter (fun k => k != d.toNat) }
/-- Register a + k of a descriptor group (07 R136). -/
def Team.sregK (t : Team) (a : SReg) (k : Nat) : Word := t.sreg (a + BitVec.ofNat 6 k)
/-- The program counter moved past an instruction of `n` bytes. -/
def Team.advance (t : Team) (n : Nat) : Team := { t with pc := t.pc + BitVec.ofNat 64 n }
/-- A register result and the move past the instruction. -/
def Team.result (t : Team) (d : SReg) (v : Word) (n : Nat) : Team := (t.setSreg d v).advance n
/-- A status result: the code zero-extended (08 R160). -/
def Team.status (t : Team) (d : SReg) (code n : Nat) : Team := t.result d (BitVec.ofNat 64 code) n

/-! ### Status codes (17 R336) and causes (17 R340) -/

def stOk : Nat := 0
def stTimeout : Nat := 1
def stStalePhase : Nat := 2
def stStepLate : Nat := 3
def stPoison : Nat := 4
def stAborted : Nat := 5
def stUncorrectable : Nat := 6
def stBounds : Nat := 7
def stTranslation : Nat := 8
def stOwnerLost : Nat := 9
def stCapacity : Nat := 10
def stDecomp : Nat := 11
def stRetired : Nat := 12
def causeSoftware : Nat := 0x10
def causeEncoding : Nat := 0x11
def causeOperand : Nat := 0x12
def causeRegister : Nat := 0x13
def causeAlignment : Nat := 0x14
def causeCollective : Nat := 0x15
def causeMaskstack : Nat := 0x16
def causePrivilege : Nat := 0x17
def causeTag : Nat := 0x18

/-- The place of a cause in the order of R347: the least is reported. -/
def causeRank (c : Nat) : Nat :=
  match c with
  | 0x11 => 0 | 0x13 => 1 | 0x17 => 2 | 0x12 => 3 | 0x15 => 4 | 0x16 => 5 | 0x14 => 6 | 8 => 7 | 6 => 8 | 4 => 9 | 9 => 10
  | 7 => 11 | 0x18 => 12 | _ => 13

/-- The first of several causes. -/
def firstCause : List Nat → Option Nat
  | [] => none
  | c :: rest => match firstCause rest with
    | none => some c
    | some d => if causeRank c ≤ causeRank d then some c else some d

/-! ### Mask registers, flags, lane registers -/

def Team.mask (t : Team) (m : MReg) : Mask := cellGet t.masks m.toNat
/-- Bits of lanes at or above lane.count are discarded (02 R27). -/
def Team.setMask (t : Team) (m : MReg) (v : Mask) : Team := { t with masks := cellSet t.masks m.toNat (v &&& laneMask t.lanes) }
/-- Clauses that hold flags: those in the lane queue and those retired and not complete (03 R58). -/
def Team.holders (t : Team) : List Clause := t.retired ++ t.queue
/-- The flags that are set. -/
def Team.flags (t : Team) : BitVec 12 := t.holders.foldl (fun f c => f ||| c.holds) 0#12

/-- Register r of lane l. -/
def Team.vreg (t : Team) (r l : Nat) : Word := cellGet t.vregs (r * 1024 + l)
/-- A write; the register then holds no error. -/
def Team.setVreg (t : Team) (r l : Nat) (v : Word) : Team :=
  { t with vregs := cellSet t.vregs (r * 1024 + l) v, laneErr := t.laneErr.filter (fun k => k != r * 1024 + l) }
/-- Predicate p of lane l; p15 is pt. -/
def Team.pred (t : Team) (p l : Nat) : Bool := p == 15 || (cellGet t.preds p).getLsbD l
/-- Predicate p written for the lanes of `on`; a write to pt is discarded. -/
def Team.setPred (t : Team) (p : Nat) (on v : Mask) : Team :=
  if p = 15 then t else { t with preds := cellSet t.preds p ((cellGet t.preds p &&& ~~~on) ||| (v &&& on)) }

/-- A VOTE's write is under way: the scalar stream reads the old mask until it lands (03 R67). -/
def Team.vote (t : Team) (uid : Nat) (m : MReg) (v : Mask) : Team := { t with votes := t.votes ++ [⟨uid, m, v⟩] }
/-- The writes of `vs` land, in order, through the last that `through` names; the others stay under way. -/
def Team.landThrough (through : Vote → Bool) (t : Team) : List Vote → Team
  | [] => { t with votes := [] }
  | v :: vs => if (v :: vs).any through then (t.setMask v.reg v.mask).landThrough through vs else { t with votes := v :: vs }
/-- A complete clause has made its writes, and the writes before them. -/
def Team.landClause (t : Team) (uid : Nat) : Team := t.landThrough (fun v => v.uid == uid) t.votes
def Team.landVotes (t : Team) : Team := t.landThrough (fun _ => true) t.votes
/-- The oldest write lands. -/
def Team.landOldest (t : Team) : Team :=
  match t.votes with
  | [] => t
  | v :: vs => { t.setMask v.reg v.mask with votes := vs }

/-- Element k of width w of a register value (03 R52). -/
def getElem (w k : Nat) (x : Word) : Nat := (x.toNat / 2 ^ (w * k)) % 2 ^ w
/-- The value with element k replaced; the other bits stay. -/
def putElem (w k : Nat) (x : Word) (v : Nat) : Word :=
  BitVec.ofNat 64 (x.toNat - getElem w k x * 2 ^ (w * k) + (v % 2 ^ w) * 2 ^ (w * k))

/-! ### Taking a trap and returning from one (17 R342, R343; 08 R187) -/

/-- A trap of the scalar stream, which leaves the wait it stood in: the record is written; a privileged team with a handler
that is not already running continues at trap.vec, every other team is FAULTED. Where lanes are still to be re-executed the record
stays that of the lane fault (R342), but for a second trap under a handler, which the record then describes (R343). `save` is what trap.pc receives. -/
def Team.trap (t : Team) (cause code : Nat) (save : BitVec 64) : Team :=
  let u := { t with trapCause := BitVec.ofNat 28 (code * 65536 + cause), trapPc := save.setWidth 56, trapLane := false
                    trapLclause := 0#56, trapLidx := 0#4, swait := none }
  if t.priv && !(t.trapVec == 0#56) && !t.trapInh then { u with trapInh := true, pc := t.trapVec.setWidth 64 }
  else if t.lfm = 0#1024 || t.trapInh then { u with faulted := true }
  else { t with trapPc := save.setWidth 56, swait := none, faulted := true }

/-- A trap at the instruction the scalar stream stands at. -/
def Team.trapHere (t : Team) (cause : Nat) : Team := t.trap cause 0 t.pc

/-- ERET in a privileged team. -/
def Team.eret (t : Team) : Team := { t with pc := t.trapPc.setWidth 64, trapInh := false }

/-- A fault of the lane stream: `lanes` is the lane fault mask; the team is FAULTED whatever its privilege (R343). trap.pc names
the first scalar instruction not executed: where a scalar trap has stopped the team, that trap has set it (R342). -/
def Team.laneTrap (t : Team) (cause : Nat) (lanes : Mask) (addr : Nat) : Team :=
  { t with trapCause := BitVec.ofNat 28 cause, trapPc := if t.faulted then t.trapPc else t.pc.setWidth 56, trapLane := true, lfm := lanes
           trapLclause := BitVec.ofNat 56 addr, trapLidx := BitVec.ofNat 4 t.lidx, faulted := true }

/-! ### Where a team stands -/

/-- The next order number of the team's program order. -/
def Team.takeOrd (t : Team) : Nat × Team := (t.nextOrd, { t with nextOrd := t.nextOrd + 1 })
/-- Die of a logical core and of a logical region: region r is HBM4E stack r (notes/assumptions/9.md). -/
def coreDie (core : Nat) : Nat := core / 48
def coreGang (core : Nat) : Nat := core / 4
def coreRegion (core : Nat) : Nat := core / 12
/-- The crew's core; of an evicted crew, the first core of its last region. -/
def Crew.core (c : Crew) : Nat := c.place.getD (12 * c.lastRegion)
/-- Crews resident on a core, by position. -/
def State.residents (s : State) (core : Nat) : List Nat :=
  ((s.crews.zipIdx).filter (fun p => p.1.place == some core)).map (·.2)

/-! ### Performance counters (15 R323) -/

/-- Event `code` counted `n` times in the block of die d. -/
def State.count (s : State) (d code n : Nat) : State :=
  match s.perf[d]? with
  | none => s
  | some p =>
    if p.en then
      let cnt := (List.range 8).foldl (fun m i => if (cellGet p.sel i).toNat = code then cellSet m i (cellGet m i + BitVec.ofNat 64 n) else m) p.cnt
      { s with perf := s.perf.set d { p with cnt := cnt } }
    else s

/-! ### Events of the event ring (14 R304) -/

/-- An event raised: it waits in the device, with the next sequence number. -/
def State.raise (s : State) (kind status info addr detail : Nat) : State :=
  let r : BitVec 256 := s.evSeq ++ BitVec.ofNat 64 detail ++ BitVec.ofNat 64 addr ++ BitVec.ofNat 32 info ++ BitVec.ofNat 16 status ++ BitVec.ofNat 16 kind
  { s with events := s.events ++ [r], evSeq := s.evSeq + 1#64 }

end Sys2Proof.Machine
end

