-- ==== Sys2Proof/Machine/Flags.lean ====
section
/-! DEFINITION. Condition codes and completion flags: conditions of SET and BCMP (07_encodings R138), flag holdings and
what waits on them (03_two_streams R54, R58, R59). -/

namespace Sys2Proof.Machine

/-- Whether a condition holds between two 64-bit values (07 R138). -/
def condHolds (cc : Cond) (x y : Word) : Bool :=
  match cc with
  | .eq => x == y
  | .ne => !(x == y)
  | .lt => x.slt y
  | .ge => !x.slt y
  | .ltn => x.ult y
  | .gen => !x.ult y

/-- The flags that a header's setA and setB name, as one holding each (03 R58). -/
def headerHolds (setA setB : BitVec 4) : BitVec 12 :=
  BitVec.ofNat 12 (2 ^ setA.toNat) ||| BitVec.ofNat 12 (2 ^ setB.toNat)

/-- FCLR: every current holding of the named flags is dropped (03 R59). -/
def Team.dropFlags (t : Team) (m : BitVec 12) : Team :=
  { t with queue := t.queue.map (fun c => { c with holds := c.holds &&& ~~~m })
           retired := t.retired.map (fun c => { c with holds := c.holds &&& ~~~m }) }

/-- Whether a named flag has a holding. -/
def Team.flagsBusy (t : Team) (m : BitVec 12) : Bool := !(t.flags &&& m == 0#12)

/-- Whether a wait mask names a flag held by a clause appended before clause `uid` and not complete (03 R54). -/
def Team.waitBlocked (t : Team) (uid : Nat) (wait : BitVec 12) : Bool :=
  t.holders.any (fun c => decide (c.uid < uid) && !(c.holds &&& wait == 0#12))

/-- Outstanding accesses of a clause. -/
def Team.clausePending (t : Team) (uid : Nat) : Bool := (t.pending ++ t.again).any (fun a => a.stream == .lane && a.clause == uid)

/-- Every clause appended before now has retired. -/
def Team.allRetired (t : Team) : Bool := t.queue.isEmpty

/-- No load or value-returning access of the team is outstanding (06 R122). -/
def Team.loadsDone (t : Team) : Bool :=
  t.pending.all (fun a => match a.kind with | .store _ _ => true | _ => false)

/-- Both store counters read zero (06 R122, R123). -/
def Team.storesDone (t : Team) : Bool := t.sctr == 0#16 && t.lctr == 0#16

end Sys2Proof.Machine
end

