-- ==== Sys2Proof/Machine/Links.lean ====
section
/-! DEFINITION. The fabric's links: the bytes and the CRC of a flit, link numbers, routes, and ports that come up or go down
(14_host_fabric R309 to R311; 20_infield_test R386). -/

namespace Sys2Proof.Machine

/-! ### Bytes -/

/-- A list of exactly n bytes. -/
def padTo (n : Nat) (l : List Byte) : List Byte := l.take n ++ List.replicate (n - l.length) 0#8

/-! ### Flits (14 R309) -/

/-- One bit of CRC-32C, bits reflected: the Castagnoli polynomial that the name stands for (notes/assumptions/63.md). -/
def crcBit (c : BitVec 32) : BitVec 32 := if c.getLsbD 0 then (c >>> 1) ^^^ 0x82F63B78#32 else c >>> 1
def crcByte (c : BitVec 32) (b : Byte) : BitVec 32 := (List.range 8).foldl (fun c _ => crcBit c) (c ^^^ b.setWidth 32)
def crc32c (l : List Byte) : BitVec 32 := ~~~(l.foldl crcByte 0xFFFFFFFF#32)

/-- Bytes 0 to 11 of a flit's header. -/
def flitHead (f : Flit) : List Byte :=
  leBytes 1 f.kind.toNat ++ leBytes 1 (f.fver.toNat + 16 * f.vc.toNat) ++ leBytes 2 f.dst.toNat ++ leBytes 2 f.src.toNat ++ leBytes 2 f.seq.toNat ++ leBytes 4 f.tag.toNat
def flitCrc (f : Flit) : BitVec 32 := crc32c (flitHead f ++ f.payload)
/-- A flit with the CRC that its bytes have. -/
def sealed (f : Flit) : Flit := { f with crc := flitCrc f }
def crcOk (f : Flit) : Bool := f.crc == flitCrc f
/-- A flit's 80 bytes on the link. -/
def flitBytes (f : Flit) : List Byte := flitHead f ++ leBytes 4 f.crc.toNat ++ f.payload

/-- The payload of a flit: 64 bytes. -/
def flitPayload (l : List Byte) : List Byte := padTo 64 l

/-! ### Sending (14 R310) -/

/-- A flit leaves on a port: it takes the link's next number and is kept until it is acknowledged. -/
def State.sendOn (s : State) (p : Nat) (f : Flit) : State :=
  match s.ports[p]? with
  | none => s
  | some q =>
    let f := sealed { f with port := p, seq := q.txSeq }
    { s with outbox := s.outbox ++ [f], ports := s.ports.set p { q with txSeq := q.txSeq + 1#16, unacked := q.unacked ++ [f] } }.count (p / 6) 0x0E 1

/-- The port that carries traffic, if one is UP: which one is not architectural. -/
def State.upPort (s : State) : Option Nat :=
  let p := s.ports.findIdx (fun q => q.state == 3)
  if p < s.ports.length then some p else none

/-- Stands for the port of a flit that no link carries yet. -/
def noPort : Nat := 24

/-- A flit handed to the fabric: with no port UP it waits in the package. -/
def State.route (s : State) (f : Flit) : State :=
  match s.upPort with
  | some p => s.sendOn p f
  | none => { s with outbox := s.outbox ++ [{ f with port := noPort }] }

/-- One flit of a message to another member, by span.index. -/
def State.send (s : State) (kind : Nat) (dst : Nat) (tag : BitVec 32) (payload : List Byte) : State :=
  s.route { port := noPort, kind := BitVec.ofNat 8 kind, fver := s.span.fver.setWidth 4, vc := 0#4, dst := BitVec.ofNat 12 dst, src := s.span.index, seq := 0#16
            tag := tag, payload := flitPayload payload, crc := 0#32 }

/-- A message with a line of data: a flit that says what it is, and one with the 64 bytes (notes/assumptions/24.md). -/
def State.sendData (s : State) (kind : Nat) (dst : Nat) (tag : BitVec 32) (head : List Byte) (data : Option (BitVec 512)) : State :=
  match data with
  | none => s.send kind dst tag head
  | some d => (s.send kind dst tag head).send kind dst tag (leBytes 64 d.toNat)

/-- A flit of the link itself, HELLO, ACK or NAK, handed to a port. -/
def State.linkFlit (s : State) (p : Nat) (kind : Nat) (seq : BitVec 16) (payload : List Byte) : State :=
  let f : Flit := { port := p, kind := BitVec.ofNat 8 kind, fver := Config.fabricVersion.setWidth 4, vc := 0#4, dst := 0#12, src := s.span.index, seq := seq
                    tag := 0#32, payload := flitPayload payload, crc := 0#32 }
  ({ s with outbox := s.outbox ++ [sealed f] }).count (p / 6) 0x0E 1

/-! ### Ports (14 R311) -/

def State.portAt (s : State) (p : Nat) : Port := s.ports.getD p {}
def State.putPort (s : State) (p : Nat) (q : Port) : State := { s with ports := s.ports.set p q }

/-- A port's state changes, with event 0x07. -/
def State.portTo (s : State) (p st : Nat) : State :=
  match s.ports[p]? with
  | none => s
  | some q => if q.state = st then s else { s with ports := s.ports.set p { q with state := st, age := 0 } }.raise 7 0 p 0 st

/-- A link ends: its port goes to state `st`, and the flits it has not been acknowledged take the span's other routes (R310);
its numbers begin again at 0 (notes/assumptions/77.md). -/
def State.portDown (s : State) (p st : Nat) : State :=
  let q := s.portAt p
  (q.unacked).foldl (fun s f => s.route f) ((s.putPort p { q with unacked := [], txSeq := 0#16, rxSeq := 0#16, nakSeq := 0#16, naks := 0 }).portTo p st)

/-- The fabric runs: it stops at the loss of power and while the main rails are off. -/
def State.fabricOn (s : State) : Bool := s.powerLoss.isNone && s.vaux

/-- Whether a port carries the span's traffic. -/
def State.linkUp (s : State) (p : Nat) : Bool := s.fabricOn && decide (p < 24) && (s.portAt p).state == 3

/-! ### Receiving (14 R310) -/

/-- Whether a link number comes before another, modulo 2^16. -/
def seqBefore (a b : BitVec 16) : Bool := decide (1 ≤ (b - a).toNat ∧ (b - a).toNat < 2 ^ 15)

/-- The next `n` numbered flits of a link are taken: the receiver expects the number after them, and an ACK with the last number
taken goes back. -/
def State.takeSeq (s : State) (p n : Nat) : State :=
  let q := s.portAt p
  (s.putPort p { q with rxSeq := q.rxSeq + BitVec.ofNat 16 n }).linkFlit p 2 (q.rxSeq + BitVec.ofNat 16 n - 1#16) []

/-- A NAK with the number expected. -/
def State.sendNak (s : State) (p : Nat) : State := s.linkFlit p 3 (s.portAt p).rxSeq []

/-- A message of `n` flits whose last one has the number `l.seq` arrives: `f` acts on it if its flits are the next in order; a gap is
answered with a NAK; earlier numbers were delivered before. -/
def State.inOrder (s : State) (l : Link) (n : Nat) (f : State → State) : State :=
  if !s.linkUp l.port then s
  else if l.seq = (s.portAt l.port).rxSeq + BitVec.ofNat 16 n - 1#16 then f (s.takeSeq l.port n)
  else if seqBefore l.seq (s.portAt l.port).rxSeq then s
  else s.sendNak l.port

end Sys2Proof.Machine
end

