-- ==== Sys2Proof/Machine/Memory.lean ====
section
/-! DEFINITION. Global memory: the device-physical map, translation and first touch, the L1 copies, poison, tracked pages
(05_tiles_memory R107 to R110, 06_ordering R117 to R124, 12_engines R276, 14_host_fabric R300, R305 to R308). -/

namespace Sys2Proof.Machine

/-! ### The device-physical map (14 R300) -/

def isScm (pa : Nat) : Bool := decide (2 ^ 44 ≤ pa)
/-- HBM4E stack or SCM stack of an address. -/
def stackOf (pa : Nat) : Nat := if isScm pa then (pa - 2 ^ 44) / 2 ^ 39 else pa / 2 ^ 36
def paDie (pa : Nat) : Nat := if isScm pa then stackOf pa / 2 else stackOf pa / 4
/-- Whether an address names built memory: 16 HBM4E stacks or 8 SCM stacks. -/
def paBuilt (pa : Nat) : Bool := decide (pa < 2 ^ 40) || (isScm pa && decide (stackOf pa < 8))
/-- Lines held by a retired channel or stack (20 R393). -/
def State.isDead (s : State) (pa n : Nat) : Bool := s.dead.any (fun d => decide (d.1 < pa + n ∧ pa < d.1 + d.2))
/-- Whether a poisoned word lies in the bytes. -/
def State.isPoisoned (s : State) (pa n : Nat) : Bool := s.poison.any (fun w => decide (4 * w < pa + n ∧ pa < 4 * w + 4))

/-! ### Dies that do not answer (17 R344) -/

/-- The dies that give a die no answer. -/
def State.silentTo (s : State) (die : Nat) : List Nat := (s.silent.filter (fun p => p.1 == die)).map (·.2)
/-- The guard of a request to another die, in core cycles. -/
def dieGuard : Nat := 2 ^ 22

/-! ### Reading memory, Ballast lines included (06 R117, 12 R278) -/

/-- The newest accepted line at an address, if a Ballast queue holds one. -/
def ballastLine (l : List BLine) (line : Nat) : Option (BitVec 512) :=
  match l with
  | [] => none
  | b :: rest => match ballastLine rest line with
    | some d => some d
    | none => if b.addr = line then some b.data else none

/-- The 64 bytes at a line's address. -/
def State.lineData (s : State) (line : Nat) : BitVec 512 :=
  match (if isScm line then ballastLine s.ballast line else none) with
  | some d => d
  | none => BitVec.ofNat 512 (readLE s.mem line 64)

/-- `n` bytes at a device-physical address, within one line. -/
def State.physRead (s : State) (pa n : Nat) : Nat :=
  if isScm pa then ((s.lineData (pa / 64 * 64)).toNat / 256 ^ (pa % 64)) % 256 ^ n else readLE s.mem pa n

/-- A line with n bytes at offset `off` replaced. -/
def patchLine (d : BitVec 512) (off n v : Nat) : BitVec 512 :=
  let old := (d.toNat / 256 ^ off) % 256 ^ n
  BitVec.ofNat 512 (d.toNat - old * 256 ^ off + (v % 256 ^ n) * 256 ^ off)

/-- The 4-byte words wholly written by a store lose their poison (18 R358). -/
def State.clearPoison (s : State) (pa n : Nat) : State :=
  { s with poison := s.poison.filter (fun w => !(decide (pa ≤ 4 * w ∧ 4 * w + 4 ≤ pa + n))) }

/-- The 4-byte words that bytes touch become poisoned. -/
def State.setPoison (s : State) (pa n : Nat) : State :=
  { s with poison := ((List.range ((pa % 4 + n + 3) / 4)).map (fun i => pa / 4 + i)).foldl (fun p w => natInsert w p) s.poison }

/-- Room of a die's Ballast queue: 64 MiB in 64-byte lines (12 R278). -/
def State.ballastRoom (s : State) (die : Nat) : Bool :=
  decide ((s.ballast.filter (fun b => paDie b.addr == die)).length < 2 ^ 20)

/-- A line accepted behind those of a queue: what the newest of them holds of the same line it replaces. -/
def acceptLine (line : Nat) (d : BitVec 512) : List BLine → List BLine
  | [] => [⟨line, d⟩]
  | [b] => if b.addr = line then [⟨line, d⟩] else [b, ⟨line, d⟩]
  | b :: rest => b :: acceptLine line d rest

/-- `n` bytes written at a device-physical address within one line: HBM4E directly, SCM by acceptance in the die's
Ballast queue, which waits while the queue is full and accepts nothing after the loss of power (21 R401). -/
def State.physWrite (s : State) (pa n v : Nat) : Except Stop State :=
  let line := pa / 64 * 64
  if s.isDead pa n then .error (.code stUncorrectable)
  else if isScm pa then
    if (s.ballastRoom (paDie pa) || s.ballast.getLast?.any (fun b => b.addr == line)) && s.powerLoss.isNone then
      .ok ({ s with ballast := acceptLine line (patchLine (s.lineData line) (pa % 64) n v) s.ballast }.clearPoison pa n)
    else .error .hold
  else .ok ({ s with mem := writeLE s.mem pa n v }.clearPoison pa n)

/-! ### Ranges and page tables (14 R305, R306) -/

def pageSize (z : Nat) : Nat := if z = 0 then 2 ^ 16 else if z = 1 then 2 ^ 21 else 2 ^ 29
def State.rangeOf (s : State) (va : Nat) : Option Range := s.ranges.find? (fun r => decide (r.base ≤ va ∧ va < r.base + r.len))
/-- The Tether window (14 R313). -/
def State.inTether (s : State) (va : Nat) : Bool :=
  s.span.joined && decide (s.span.base ≤ va ∧ va < s.span.base + 2 ^ 24 * s.span.count.toNat)
def Range.entryAddr (r : Range) (va : Nat) : Nat := r.table + 8 * ((va - r.base) / pageSize r.z)
def pteV (e : Word) : Bool := bitAt e 0
def pteScm (e : Word) : Bool := bitAt e 1
def pteRo (e : Word) : Bool := bitAt e 2
def pteTracked (e : Word) : Bool := bitAt e 3
def pteHome (e : Word) : Nat := (field e 5 4).toNat
def pteFrame (e : Word) : Nat := (field e 51 16).toNat * 2 ^ 16
def State.pte (s : State) (r : Range) (va : Nat) : Word := BitVec.ofNat 64 (s.physRead (r.entryAddr va) 8)

/-! ### First touch (05 R108, 14 R307) -/

/-- A request of a die to the home slice of an address, counted (15 R323, codes 0x08 to 0x0B). How much of HBM4E it moves depends on what
the cache slices hold, which the manual leaves to the part: a free value (notes/assumptions/50.md). -/
def State.countRequest (s : State) (die pa : Nat) (wr : Bool) : State :=
  let home := paDie pa
  let s1 := if home = die then s else (s.count die 8 1).count home 9 1
  match s1.perf[home]? with
  | none => s1
  | some p => if p.en && !isScm pa then { s1.count home (if wr then 0x0B else 0x0A) (Config.freeValue s1.free).toNat with free := s1.free + 1 } else s1

/-- Whether a pool entry may be used by die `die` for frames of page size code z. -/
def State.poolEntryOk (s : State) (die z : Nat) (e : Word) : Bool :=
  let f := e.toNat
  decide (f < 2 ^ 40) && f % pageSize z == 0 && paDie f == die && !s.isDead f (pageSize z)

/-- The pool's low bit, recomputed; event 0x03 when it becomes set (14 R301, R304). -/
def State.poolLow (s : State) (p : Nat) : State :=
  match s.pools[p]? with
  | none => s
  | some r =>
    let low := r.en && decide ((r.prod - r.cons).toNat < r.lowMark.toNat)
    let s' := { s with pools := s.pools.set p { r with low := low } }
    if low && !r.low then s'.raise 3 0 0 0 p else s'

/-- The walker's search at the head of a pool: malformed entries are discarded with event 0x04; `fuel` bounds the entries.
Answers the state and the frame at the head, which stays there. -/
def State.poolHead (s : State) (die z : Nat) : Nat → State × Option Nat
  | 0 => (s, none)
  | fuel + 1 =>
    let p := 3 * die + z
    match s.pools[p]? with
    | none => (s, none)
    | some r =>
      if !r.en || r.prod == r.cons then (s, none)
      else
        let at_ := r.base + 8 * (r.cons.toNat % 2 ^ r.k)
        let e : Word := BitVec.ofNat 64 (s.physRead at_ 8)
        let s := s.countRequest die at_ false
        if s.poolEntryOk die z e then (s, some e.toNat)
        else
          let s1 := ({ s with pools := s.pools.set p { r with cons := r.cons + 1#16 } }.raise 4 0 0 e.toNat p).poolLow p
          s1.poolHead die z fuel

/-- A frame is zeroed: how many of its bytes reach HBM4E is a free value too. -/
def State.zeroFrame (s : State) (f n : Nat) : State :=
  { s with mem := cellErase s.mem f n, poison := s.poison.filter (fun w => !(decide (f ≤ 4 * w ∧ 4 * w < f + n))) }.countRequest (paDie f) f true

/-- The compare-and-swap that has found the entry `e` unbacked: it is written with v, home and the frame, and the pool advances. -/
def State.bindFrame (s : State) (r : Range) (die va : Nat) (e : Word) (f : Nat) : State × Word :=
  let e' : Word := (e &&& 0xC#64) ||| 1#64 ||| BitVec.ofNat 64 (16 * die) ||| BitVec.ofNat 64 f
  let p := 3 * die + r.z
  ({ s with mem := writeLE s.mem (r.entryAddr va) 8 e'.toNat
            pools := (match s.pools[p]? with | none => s.pools | some q => s.pools.set p { q with cons := q.cons + 1#16 }) }.poolLow p |>.countRequest die (r.entryAddr va) true, e')

/-- A walker meets an unbacked page: it finds the frame at the head of its die's pool and zeroes it. One walker at a time takes from a
pool (notes/assumptions/64.md). -/
def State.walkBegin (s : State) (die va : Nat) : State :=
  match s.rangeOf va with
  | none => s
  | some r =>
    let p := 3 * die + r.z
    let e := s.pte r va
    if pteV e || pteScm e || decide (4 ≤ die) || s.inTether va || s.walks.any (fun w => w.pool == p) then s
    else match (s.countRequest die (r.entryAddr va) false).poolHead die r.z 65536 with
      | (s1, none) => s1.raise 2 stTranslation 0 va (die + 256 * r.z)
      | (s1, some f) => let s2 := s1.zeroFrame f (pageSize r.z); { s2 with walks := s2.walks ++ [⟨p, va, e, f⟩] }

/-- The walker's compare-and-swap: where the entry is no longer the one that it read, it fails and the frame stays at the pool's head. -/
def State.walkEnd (s : State) (p : Nat) : State :=
  match s.walks.find? (fun w => w.pool == p) with
  | none => s
  | some w =>
    let s1 := { s with walks := s.walks.filter (fun x => x.pool != p) }
    match s1.rangeOf w.va with
    | none => s1
    | some r => if s1.pte r w.va ≠ w.entry ∨ 3 * (p / 3) + r.z ≠ p then s1 else (s1.bindFrame r (p / 3) w.va w.entry w.frame).1

/-- First touch of the page of `va` by one walker, from the pool's head to the swap. With the pool empty nothing is bound and event 0x02
is raised. -/
def State.firstTouch (s : State) (r : Range) (die va : Nat) (e : Word) : State × Xlate :=
  let (s1, h) := s.poolHead die r.z 65536
  match h with
  | none => (s1.raise 2 stTranslation 0 va (die + 256 * r.z), .empty r.z)
  | some f =>
    let (s2, e') := (s1.zeroFrame f (pageSize r.z)).bindFrame r die va e f
    (s2, .ok (f + (va - r.base) % pageSize r.z) e')

/-- What the walkers answer fills the translation caches of the core and of its gang (14 R308). -/
def State.cacheEntry (s : State) (core : Option Nat) (page z : Nat) (e : Word) : State :=
  match core with
  | none => s
  | some c => { s with tlb := s.tlb ++ [TlbEntry.mk c page z e], gangTlb := s.gangTlb ++ [GangTlbEntry.mk (coreGang c) page z e] }

/-- The gang's cached entry for a page, for a core of the gang. -/
def State.gangEntry (s : State) (core : Option Nat) (page z : Nat) : Option (Nat × Word) :=
  match core with
  | none => none
  | some c => (s.gangTlb.find? (fun t => t.gang == coreGang c && t.page == page && t.z == z)).map (fun t => (c, t.entry))

/-- The walker of die `die` reads the entry of the page at `page`, and binds the page at its first touch. -/
def State.walk (s0 : State) (core : Option Nat) (r : Range) (die va page : Nat) (wr : Bool) : State × Xlate :=
  let e := s0.pte r va
  let s := s0.countRequest die (r.entryAddr va) false
  if s.isDead (r.entryAddr va) 8 then (s, .lost)
  else if wr && pteRo e then (s, .fail)
  else if pteV e then (s.cacheEntry core page r.z e, .ok (pteFrame e + (va - page)) e)
  else if pteScm e then (s, .fail)
  else
    let (s1, x) := s.firstTouch r die va e
    match x with
    | .ok pa e' => (s1.cacheEntry core page r.z e', .ok pa e')
    | x => (s1, x)

/-- Translation of a virtual address for an agent of die `die`; `core` is the core whose translation caches, its own and then its
gang's, are used and filled, none for an agent without one. A walk that takes from the pool which a first touch needs ends first. A
write to a page with ro = 1, an SCM page with v = 0, the Tether window and an address in no range have no translation (05 R107, 14
R305 to R308). -/
def State.translate (s : State) (core : Option Nat) (die va : Nat) (wr : Bool) : State × Xlate :=
  if 2 ^ 56 ≤ va || s.inTether va then (s, .fail)
  else match s.rangeOf va with
    | none => (s, .fail)
    | some r =>
      let page := (va - r.base) / pageSize r.z * pageSize r.z + r.base
      let hit := s.tlb.find? (fun t => some t.core == core && t.page == page && t.z == r.z)
      match hit with
      | some t => if wr && pteRo t.entry then (s, .fail) else (s, .ok (pteFrame t.entry + (va - page)) t.entry)
      | none => match s.gangEntry core page r.z with
        | some (c, e) =>
          if wr && pteRo e then (s, .fail)
          else ({ s with tlb := s.tlb ++ [TlbEntry.mk c page r.z e] }, .ok (pteFrame e + (va - page)) e)
        | none =>
          let e := s.pte r va
          (if pteV e || pteScm e then s else s.walkEnd (3 * die + r.z)).walk core r die va page wr

/-- The test of R107 without its effect: whether an address translates for a write or a read by an agent of the die. -/
def State.wouldTranslate (s : State) (die va : Nat) (wr : Bool) : Bool :=
  match (s.translate none die va wr).2 with
  | .ok _ _ => true
  | _ => false

/-! ### Tracked pages and Comet's preserve area (12 R276, 21 R408) -/

/-- Tag a is older than b (12 R275). -/
def tagOlder (a b : BitVec 32) : Bool := let d := (b - a).toNat; decide (1 ≤ d ∧ d ≤ 2 ^ 31 - 1)

/-- Whether a write or mark with this tag waits under R408: newer than c + 2 while Comet is configured, not suspended. -/
def Comet.tooNew (k : Comet) (step : BitVec 32) : Bool :=
  match k.committed with
  | none => false
  | some c => k.configured && !k.suspended && tagOlder (c + 2#32) step

/-- The bytes of a device-physical granule, as a list. -/
def State.granuleBytes (s : State) (pa : Nat) : List Byte := 
  (List.range 4096).map (fun i => BitVec.ofNat 8 (s.physRead (pa / 4096 * 4096 + i) 1))

/-- The bits `b` of width `w` of a number replaced. -/
def patchBits (x b w v : Nat) : Nat := x - (x / 2 ^ b % 2 ^ w) * 2 ^ b + (v % 2 ^ w) * 2 ^ b

/-- A number with its bits `b` of width `w` changed by `f`. -/
def updateBits (x b w : Nat) (f : Nat → Nat) : Nat := patchBits x b w (f (x / 2 ^ b % 2 ^ w))

/-- A list of bytes with bits [b + w − 1 : b] of the `n` of them from `off` changed by `f`. -/
def patchBytes (l : List Byte) (off n b w : Nat) (f : Nat → Nat) : List Byte :=
  l.take off ++ leBytes n (updateBits (leNat ((l.drop off).take n)) b w f) ++ l.drop (off + n)

/-- The step being captured, or the next one to be (12 R276, 21 R407). -/
def Comet.target (k : Comet) : BitVec 32 :=
  match k.capture with
  | some n => n
  | none => match k.committed with
    | some c => c + 1#32
    | none => 0#32

/-- Before a write tagged `step` to granule `g`, whose content now is `u`: the first newer write to a granule not yet
captured preserves it, waiting while the preserve area is full (12 R276 point 2). -/
def State.preserve (s : State) (g : Granule) (u : ImageUnit) (step : BitVec 32) : Except Stop State :=
  if s.comet.tooNew step then .error .hold
  else if !s.comet.configured || s.comet.suspended || !tagOlder s.comet.target step || s.comet.captured.contains g || s.comet.preserved.any (fun p => p.unit.gran == g) then .ok s
  else if s.comet.presLen < 4096 * (s.comet.preserved.length + 1) then .error .hold
  else .ok { s with comet := { s.comet with preserved := s.comet.preserved ++ [Preserved.mk u] } }

/-- A write tagged n or older is applied to the preserved copy as well (12 R276 point 3): `f` makes the new value of bits
[b + w − 1 : b] of the `n` bytes from `off` of the old one, which in the copy lacks the newer writes. -/
def State.alsoPreserved (s : State) (g : Granule) (step : BitVec 32) (off n b w : Nat) (f : Nat → Nat) : State :=
  if tagOlder s.comet.target step then s
  else { s with comet := { s.comet with preserved := s.comet.preserved.map (fun p =>
      if p.unit.gran == g then { p with unit := { p.unit with data := patchBytes p.unit.data off n b w f
                                                              poison := p.unit.poison.filter (fun i => !(decide (8 * off + b ≤ 32 * (i % 1024) ∧ 32 * (i % 1024) + 32 ≤ 8 * off + b + w))) } } else p) } }

/-- A write of bits [b + w − 1 : b] of `n` bytes of a page, whose new value `f` makes of the old one, with its step tag: Comet's hook for
a tracked page, then the write itself. -/
def State.pageMerge (s : State) (va pa : Nat) (e : Word) (step : BitVec 32) (n b w : Nat) (f : Nat → Nat) : Except Stop State :=
  if pteTracked e then
    let g := Granule.page (pa / 4096 * 4096) (va / 4096 * 4096)
    let u : ImageUnit := ⟨g, 0#32, 0#32, 0#8, 0#4, s.granuleBytes pa, s.poison.filter (fun w => decide (w / 1024 = pa / 4096))⟩
    match s.preserve g u step with
    | .error x => .error x
    | .ok s1 => (s1.alsoPreserved g step (pa % 4096) n b w f).physWrite pa n (updateBits (s.physRead pa n) b w f)
  else s.physWrite pa n (updateBits (s.physRead pa n) b w f)

/-- A write of `n` whole bytes of a page. -/
def State.pageWrite (s : State) (va pa : Nat) (e : Word) (step : BitVec 32) (n v : Nat) : Except Stop State := s.pageMerge va pa e step n 0 (8 * n) (fun _ => v)

/-! ### L1 copies (06 R124) -/

/-- The team's outstanding stores and atomics. -/
def Access.isStore (a : Access) : Bool :=
  match a.kind with
  | .load _ _ => false
  | _ => true
def Loc.line? : Loc → Option Nat
  | .glob _ pa => some (pa / 64)
  | .tile _ _ _ _ => none
def State.l1Copy (s : State) (core line : Nat) : Option (BitVec 512) :=
  (s.l1.find? (fun x => x.core == core && x.line == line)).map (·.data)
def State.l1Invalidate (s : State) (core : Nat) : State := { s with l1 := s.l1.filter (fun x => !(x.core == core)) }
def State.l1DropLine (s : State) (core line : Nat) : State :=
  { s with l1 := s.l1.filter (fun x => !(x.core == core && x.line == line)) }
/-- A store performed at the home slice updates the issuing core's copy. -/
def State.l1Update (s : State) (core pa n v : Nat) : State :=
  { s with l1 := s.l1.map (fun x => if x.core == core && x.line == pa / 64 then { x with data := patchLine x.data (pa % 64) n v } else x) }

/-- Lines of a core's L1 data cache: 128 KiB (01 R15). -/
def l1Lines : Nat := 2048

/-- A line fills the L1, where the oldest line gives it room if need be: which line goes is not architectural. -/
def State.l1Fill (s : State) (core line : Nat) (d : BitVec 512) : State :=
  let room := (s.l1.filter (fun x => x.core == core)).length < l1Lines
  { s with l1 := (if room then s.l1 else s.l1.eraseP (fun x => x.core == core)) ++ [L1Line.mk core line d] }

/-- A load at the issuing core: the L1 copy if one is held, which waits while `busy`, a store of the core to the line that is
outstanding; else the home slice, which leaves a copy. -/
def State.l1Load (s : State) (busy : Bool) (core pa n : Nat) : Except Stop (State × Nat) :=
  match s.l1Copy core (pa / 64) with
  | some d =>
    if busy then .error .hold
    else .ok (s.count (coreDie core) 6 1, (d.toNat / 256 ^ (pa % 64)) % 256 ^ n)
  | none =>
    let s1 := (s.count (coreDie core) 7 1).countRequest (coreDie core) pa false
    .ok (s1.l1Fill core (pa / 64) (s1.lineData (pa / 64 * 64)), s1.physRead pa n)

/-! ### One global access of a team: checks (08 R164, 18 R351, R353) -/

/-- The checks of a global access of `n` bytes, in the order of R347: alignment, translation, an SCM page, an uncorrectable
line, poison (of the data for a read, of the word merged into for a narrow store). -/
def State.globCheck (s : State) (core va n : Nat) (wr rd : Bool) : State × Except Nat (Nat × Word) × Option Nat :=
  if va % n ≠ 0 then (s, .error causeAlignment, none)
  else match s.translate (some core) (coreDie core) va wr with
    | (s1, .fail) => (s1, .error stTranslation, none)
    | (s1, .lost) => (s1, .error stUncorrectable, none)
    | (s1, .empty z) => (s1, .error stTranslation, some z)
    | (s1, .ok pa e) =>
      if pteScm e then (s1, .error stTranslation, none)
      else if s1.isDead pa n then (s1, .error stUncorrectable, none)
      else if (rd || decide (n < 4)) && s1.isPoisoned pa n then (s1, .error stPoison, none)
      else (s1, .ok (pa, e), none)

end Sys2Proof.Machine
end

