-- ==== Sys2Proof/Machine/Tiles.lean ====
section
/-! DEFINITION. Storage layouts, tiles with their tags and conversions, operand regions held by MMAs, gates, and global
tensors (05_tiles_memory R93 to R115, 11_matrix R244, 10_lane_memory_isa R220). -/

namespace Sys2Proof.Machine

/-! ### Layouts (05 R98 to R100) -/

/-- What fixes the place of an element: extents, format, planes, layout tag. -/
structure Shape where
  ns : List Nat
  fmt : BitVec 4
  planes : Nat
  tag : Nat
  deriving DecidableEq, Repr

def ceilDiv (a b : Nat) : Nat := (a + b - 1) / b
def roundUp (a b : Nat) : Nat := ceilDiv a b * b
def prod (l : List Nat) : Nat := l.foldl (· * ·) 1
def Shape.n (h : Shape) (i : Nat) : Nat := h.ns.getD i 1
def Shape.width (h : Shape) : Nat := elemWidth h.fmt
/-- The side K of a tiled tag. -/
def tileSide (tag : Nat) : Nat := 2 ^ tag
/-- Whether a coordinate lies in the shape (05 R97). -/
def Shape.inside (h : Shape) (c : List Nat) : Bool := (List.range 6).all (fun i => decide (c.getD i 0 < h.n i))
/-- Words of a block of a block-plane tensor. -/
def Shape.blockWords (h : Shape) : Nat := h.planes + 1
/-- Blocks along the K extent. -/
def Shape.kb (h : Shape) : Nat := ceilDiv (if h.tag = 8 then h.n 1 else h.n 0) 32

/-- Bytes of one plane (05 R100). -/
def Shape.planeBytes (h : Shape) : Nat :=
  let w := h.width
  let packed (p : Nat) := ceilDiv (p * w) 32 * 4
  if h.tag < 2 then packed (h.n 0 * h.n 1)
  else if h.tag ≤ 5 then packed (roundUp (h.n 0) (tileSide h.tag) * roundUp (h.n 1) (tileSide h.tag))
  else if h.tag = 6 then h.n 0 * (ceilDiv (h.n 1 * w) 1024 * 128)
  else if h.tag = 7 then packed (ceilDiv (h.n 0) 2 * 2 * h.n 1)
  else (if h.tag = 8 then h.n 0 else h.n 1) * h.kb * h.blockWords * 4

/-- Storage size S (05 R100). -/
def Shape.size (h : Shape) : Nat := prod (h.ns.drop 2) * h.planeBytes

/-- Batch index, dimension 2 fastest. -/
def batchIndex : List Nat → List Nat → Nat
  | n :: ns, c :: cs => c + n * batchIndex ns cs
  | _, _ => 0

/-- Position of an element in its plane, for the tags that count elements. -/
def Shape.planeElem (h : Shape) (c0 c1 : Nat) : Nat :=
  if h.tag = 0 then c0 * h.n 1 + c1
  else if h.tag = 1 then c1 * h.n 0 + c0
  else if h.tag ≤ 5 then
    let k := tileSide h.tag
    ((c0 / k) * (roundUp (h.n 1) k / k) + c1 / k) * k * k + (c0 % k) * k + c1 % k
  else c0 / 2 * 2 * h.n 1 + 2 * c1 + c0 % 2

/-- Offset in bits of an element's storage; of fmt 14, of the first word of its block. -/
def Shape.bitOf (h : Shape) (c : List Nat) : Nat :=
  let w := h.width
  let c0 := c.getD 0 0
  let c1 := c.getD 1 0
  let base := batchIndex (h.ns.drop 2) (c.drop 2) * h.planeBytes
  if h.tag < 6 ∨ h.tag = 7 then base * 8 + h.planeElem c0 c1 * w
  else if h.tag = 6 then
    let x := c1 * w / 8
    (base + c0 * (ceilDiv (h.n 1 * w) 1024 * 128) + ((x / 16) ^^^ (c0 % 8)) * 16 + x % 16) * 8 + c1 * w % 8
  else
    let kk := if h.tag = 8 then c1 else c0
    let oo := if h.tag = 8 then c0 else c1
    (base + (oo * h.kb + kk / 32) * h.blockWords * 4) * 8

/-- Whether a format takes a layout tag (05 R99). -/
def layoutOk (fmt : BitVec 4) (tag : Nat) : Bool := if fmt = 14#4 then tag == 8 || tag == 9 else decide (tag < 8) && decide (fmt.toNat < 14)

/-! ### Tiles -/

def Tile.shapeAs (t : Tile) (tag : Nat) : Shape := ⟨[t.n0.toNat, t.n1.toNat, t.n2.toNat, t.n3.toNat], t.fmt, t.planes.toNat, tag⟩
def Tile.shape (t : Tile) : Shape := t.shapeAs t.layout.toNat
def Tile.width (t : Tile) : Nat := elemWidth t.fmt
/-- D1.layout: the target tag while a conversion is in progress. -/
def Tile.tagNow (t : Tile) : BitVec 4 := match t.conv with | none => t.layout | some v => v.target
def Tile.newShape (t : Tile) : Shape := t.shapeAs t.tagNow.toNat
/-- Blocks of 4,096 bytes of the new storage. -/
def Tile.newBlocks (t : Tile) : Nat := ceilDiv t.newShape.size 4096
/-- Footprint in granules, both during a conversion (05 R94). -/
def Tile.granules (t : Tile) : Nat :=
  ceilDiv t.shape.size 4096 + (match t.conv with | none => 0 | some _ => t.newBlocks)

def Coord.list (c : Coord) : List Nat := [c.c0, c.c1, c.c2, c.c3]
/-- Packed coordinates (05 R96). -/
def coordOf (x : Word) : Coord := ⟨getElem 16 0 x, getElem 16 1 x, getElem 16 2 x, getElem 16 3 x⟩
def Coord.plus1 (c : Coord) (j : Nat) : Coord := { c with c1 := c.c1 + j }
def Tile.inside (t : Tile) (c : Coord) : Bool := t.shape.inside c.list

/-- Where an element (or word `i` of its block) lies: whether in the new storage, and the bit offset (05 R113). -/
def Tile.bitAddr (t : Tile) (c : Coord) (blk : Option Nat) : Bool × Nat :=
  let extra := match blk with | none => 0 | some i => 32 * i
  match t.conv with
  | none => (false, t.shape.bitOf c.list + extra)
  | some v =>
    let b := t.newShape.bitOf c.list + extra
    if b / 32768 < v.done then (true, b) else (false, t.shape.bitOf c.list + extra)

/-- Width of one access: the element's, or a block word's. -/
def Tile.accWidth (t : Tile) : Nat := if t.fmt = 14#4 then 32 else t.width

def Tile.wordsIn (t : Tile) (new : Bool) : SMap 32 := if new then (match t.conv with | none => [] | some v => v.words) else t.words
def Tile.fullIn (t : Tile) (new : Bool) : List Nat := if new then (match t.conv with | none => [] | some v => v.full) else t.full
def Tile.poisonIn (t : Tile) (new : Bool) : List Nat := if new then (match t.conv with | none => [] | some v => v.poison) else t.poison
def Tile.putWords (t : Tile) (new : Bool) (m : SMap 32) : Tile :=
  if new then { t with conv := t.conv.map (fun v => { v with words := m }) } else { t with words := m }
def Tile.putFull (t : Tile) (new : Bool) (l : List Nat) : Tile :=
  if new then { t with conv := t.conv.map (fun v => { v with full := l }) } else { t with full := l }
def Tile.putPoison (t : Tile) (new : Bool) (l : List Nat) : Tile :=
  if new then { t with conv := t.conv.map (fun v => { v with poison := l }) } else { t with poison := l }

/-- Bits [b + w − 1 : b] of a storage of 32-bit words, w at most 64 and not across a word unless whole words. -/
def bitsOf (m : SMap 32) (b w : Nat) : Nat :=
  if w = 64 then (cellGet m (b / 32)).toNat + 2 ^ 32 * (cellGet m (b / 32 + 1)).toNat
  else (cellGet m (b / 32)).toNat / 2 ^ (b % 32) % 2 ^ w
def putBits (m : SMap 32) (b w v : Nat) : SMap 32 :=
  if w = 64 then cellSet (cellSet m (b / 32) (BitVec.ofNat 32 v)) (b / 32 + 1) (BitVec.ofNat 32 (v / 2 ^ 32))
  else
    let x := (cellGet m (b / 32)).toNat
    cellSet m (b / 32) (BitVec.ofNat 32 (x - (x / 2 ^ (b % 32) % 2 ^ w) * 2 ^ (b % 32) + (v % 2 ^ w) * 2 ^ (b % 32)))
/-- The words of an access. -/
def wordsOf (b w : Nat) : List Nat := if w = 64 then [b / 32, b / 32 + 1] else [b / 32]

/-- The value of an element or block word. -/
def Tile.read (t : Tile) (c : Coord) (blk : Option Nat) : Nat :=
  let (new, b) := t.bitAddr c blk
  bitsOf (t.wordsIn new) b t.accWidth
/-- A write; words written whole lose their poison (18 R358). -/
def Tile.write (t : Tile) (c : Coord) (blk : Option Nat) (v : Nat) : Tile :=
  let (new, b) := t.bitAddr c blk
  let t := t.putWords new (putBits (t.wordsIn new) b t.accWidth v)
  if t.accWidth < 32 then t else t.putPoison new ((t.poisonIn new).filter (fun w => !(wordsOf b t.accWidth).contains w))
def Tile.poisoned (t : Tile) (c : Coord) (blk : Option Nat) : Bool :=
  let (new, b) := t.bitAddr c blk
  (wordsOf b t.accWidth).any (fun w => (t.poisonIn new).contains w)
def Tile.setPoisoned (t : Tile) (c : Coord) (blk : Option Nat) : Tile :=
  let (new, b) := t.bitAddr c blk
  t.putPoison new ((wordsOf b t.accWidth).foldl (fun p w => natInsert w p) (t.poisonIn new))

/-- The coordinates at which a block-plane block begins: its words have one name each (10 R220). -/
def Tile.blockAt (t : Tile) (c : Coord) : Coord := if t.layout = 8#4 then { c with c1 := c.c1 / 32 * 32 } else { c with c0 := c.c0 / 32 * 32 }

/-! ### Tags (05 R101) -/

/-- Every word of the access is full. -/
def Tile.isFull (t : Tile) (c : Coord) (blk : Option Nat) : Bool :=
  let (new, b) := t.bitAddr c blk
  (wordsOf b t.accWidth).all (fun w => (t.fullIn new).contains w)
/-- Every word of the access is empty. -/
def Tile.isEmpty (t : Tile) (c : Coord) (blk : Option Nat) : Bool :=
  let (new, b) := t.bitAddr c blk
  (wordsOf b t.accWidth).all (fun w => !(t.fullIn new).contains w)
def Tile.setTag (t : Tile) (c : Coord) (blk : Option Nat) (full : Bool) : Tile :=
  let (new, b) := t.bitAddr c blk
  let ws := wordsOf b t.accWidth
  if full then t.putFull new (ws.foldl (fun p w => natInsert w p) (t.fullIn new))
  else t.putFull new ((t.fullIn new).filter (fun w => !ws.contains w))

/-! ### Conversions (05 R112 to R115, 12 R272) -/

/-- Every coordinate of a tile. -/
def Tile.coords (t : Tile) : List Coord :=
  (List.range t.n3.toNat).flatMap fun c3 => (List.range t.n2.toNat).flatMap fun c2 =>
    (List.range t.n0.toNat).flatMap fun c0 => (List.range t.n1.toNat).map fun c1 => ⟨c0, c1, c2, c3⟩

/-- The layout engine fills the next block of the new storage and sets its bit; each word's tag, and its poison, move with the element
that it holds. After the last block the old footprint goes. -/
def Tile.convertBlock (t : Tile) : Tile :=
  match t.conv with
  | none => t
  | some v =>
    let j := v.done
    let mine := t.coords.filter (fun c => t.newShape.bitOf c.list / 32768 == j)
    let v' := mine.foldl (fun v c =>
      let nb := t.newShape.bitOf c.list
      let ob := t.shape.bitOf c.list
      let moved (old new : List Nat) : List Nat :=
        ((wordsOf ob t.width).zip (wordsOf nb t.width)).foldl (fun p w => if old.contains w.1 then natInsert w.2 p else p) new
      { v with words := putBits v.words nb t.width (bitsOf t.words ob t.width), full := if t.tags then moved t.full v.full else v.full
               poison := moved t.poison v.poison }) { v with done := j + 1 }
    if j + 1 < t.newBlocks then { t with conv := some v' }
    else { t with layout := v'.target, words := v'.words, full := v'.full, poison := v'.poison, conv := none }

/-! ### The tile table of a crew (05 R93 to R95) -/

def Crew.tile (c : Crew) (h : Handle) : Option Tile := c.tiles.find? (fun t => t.handle == h && !t.freed)
def Crew.tileUid (c : Crew) (u : Nat) : Option Tile := c.tiles.find? (fun t => t.uid == u)
def Crew.putTile (c : Crew) (t : Tile) : Crew := { c with tiles := c.tiles.map (fun x => if x.uid = t.uid then t else x) }
def State.putTile (s : State) (k : Nat) (t : Tile) : State := s.modCrew k (fun c => c.putTile t)
/-- The tile of a location. -/
def State.tileAt (s : State) (k u : Nat) : Option Tile :=
  match s.crewAt k with
  | none => none
  | some c => c.tileUid u

/-- A copy that TFREE leaves for stream commands stands in its original's footprint until that is released (08 R171, R173). -/
def Crew.granules (c : Crew) : Nat :=
  ((c.tiles.filter (fun t => !t.released && (t.copyOf == 0 || c.tiles.all (fun u => u.uid != t.copyOf || u.released)))).map Tile.granules).sum
/-- Granules of the tiles of every crew resident on the core. -/
def State.coreGranules (s : State) (core : Nat) : Nat :=
  ((s.residents core).map (fun k => match s.crewAt k with | none => 0 | some c => c.granules)).sum

/-- D0 of a tile (05 R93). -/
def Tile.d0 (t : Tile) : Word := t.n3 ++ t.n2 ++ t.n1 ++ t.n0
/-- D1 of a tile, with the fields that report its standing. -/
def Tile.d1 (t : Tile) : Word :=
  let busy := t.conv.isSome
  let count := if t.queue then (t.tail - t.head).toNat else match t.conv with | none => 0 | some v => t.newBlocks - v.done
  BitVec.ofNat 64 (t.fmt.toNat + 2 ^ 4 * t.planes.toNat + 2 ^ 9 * t.tagNow.toNat + (if t.tags then 2 ^ 13 else 0) +
    (if t.queue then 2 ^ 14 else 0) + 2 ^ 32 * (count % 2 ^ 16) + 2 ^ 48 * t.layout.toNat + (if busy then 2 ^ 52 else 0) +
    2 ^ 53 * (t.granules % 2 ^ 10) + 2 ^ 63)

/-- Whether D0 and D1[15:0] describe a tile within the ranges of R93, R99 and R105. -/
def tileDescOk (d0 : Word) (d1 : BitVec 32) : Bool :=
  let n (i : Nat) := getElem 16 i d0
  let fmt := field d1 3 0
  let planes := (field d1 8 4).toNat
  let tag := (field d1 12 9).toNat
  let tags := bitAt d1 13
  let queue := bitAt d1 14
  decide (1 ≤ n 0 ∧ 1 ≤ n 1 ∧ 1 ≤ n 2 ∧ 1 ≤ n 3) && d1.toNat / 2 ^ 15 == 0 && !(fmt == 15#4) &&
  (if fmt = 14#4 then decide (2 ≤ planes ∧ planes ≤ 16) else planes == 0) && layoutOk fmt tag &&
  (!queue || (fmt == 6#4 && tag == 0 && !tags && decide (n 1 ≤ 64) && n 2 == 1 && n 3 == 1))

/-- The tile that a descriptor makes: words zero, tags empty (05 R95, R35). -/
def mkTile (uid : Nat) (h : Handle) (d0 : Word) (d1 : BitVec 32) (tracked : Bool) : Tile :=
  { uid := uid, handle := h, n0 := field d0 15 0, n1 := field d0 31 16, n2 := field d0 47 32, n3 := field d0 63 48
    fmt := field d1 3 0, planes := field d1 8 4, layout := field d1 12 9, tags := bitAt d1 13, queue := bitAt d1 14, tracked := tracked }

/-! ### Operand regions held by MMAs (11 R242, R244) -/

/-- The five operand words of a started or queued MMA as coordinates and the chunk count. -/
def MCmd.aOrigin (m : MCmd) : Coord := coordOf (m.src.getD 0 0#64)
def MCmd.bOrigin (m : MCmd) : Coord := coordOf (m.src.getD 1 0#64)
def MCmd.chunks (m : MCmd) : Nat := getElem 16 0 (m.src.getD 2 0#64)
def MCmd.isMma (m : MCmd) : Bool := match m.instr with | .mma _ _ | .mmaPair _ _ => true | _ => false
def MCmd.isPair (m : MCmd) : Bool := match m.instr with | .mmaPair _ _ => true | _ => false

/-- Whether the element's block of tile `uid` of crew `k` lies in the region that the command holds. -/
def MCmd.holds (m : MCmd) (k uid : Nat) (c : Coord) : Bool :=
  let a := m.aOrigin
  let b := m.bOrigin
  let n := m.chunks
  m.isMma && m.team.crew == k &&
  ((uid == m.uidA && decide (a.c0 ≤ c.c0 ∧ c.c0 < a.c0 + 128 ∧ a.c1 / 32 ≤ c.c1 / 32 ∧ c.c1 / 32 < a.c1 / 32 + n) && c.c2 == a.c2 && c.c3 == a.c3) ||
   (uid == m.uidB && decide (b.c1 ≤ c.c1 ∧ c.c1 < b.c1 + 128 ∧ b.c0 / 32 ≤ c.c0 / 32 ∧ c.c0 / 32 < b.c0 / 32 + n) && c.c2 == b.c2 && c.c3 == b.c3))

/-- Whether some MMA of a matrix queue holds the element's words. -/
def State.mmaHeld (s : State) (k uid : Nat) (c : Coord) : Bool := s.matrix.any (fun m => m.holds k uid c)
/-- Whether some MMA holds a word of the tile: TFREE waits (11 R244). -/
def State.tileHeld (s : State) (k uid : Nat) : Bool := s.matrix.any (fun m => m.isMma && m.team.crew == k && (m.uidA == uid || m.uidB == uid))

/-! ### Writes to tile elements -/

/-- The granule of an element of a tracked tile and what Comet would keep of it. -/
def tileGranule (k : Nat) (cr : Crew) (t : Tile) (c : Coord) (blk : Option Nat) : Granule × ImageUnit × Nat :=
  let (new, b) := t.bitAddr c blk
  let j := b / 32768
  let g := Granule.tile k t.uid j
  let data := (List.range 1024).flatMap (fun i =>
    let w := cellGet (t.wordsIn new) (1024 * j + i)
    (List.range 4).map (fun q => BitVec.ofNat 8 (w.toNat / 256 ^ q)))
  (g, ⟨g, cr.launchId, cr.crewId, t.handle, if new then t.tagNow else t.layout, data, (t.poisonIn new).filter (fun w => w / 1024 == j)⟩, b / 8 % 4096)

/-- A write of an element or block word at its point, whose new value `f` makes of the old one: a held word waits (11 R244), Comet's
hook, then the write; `full` sets the tags full in the same operation (05 R101). -/
def State.tileUpdate (s : State) (k uid : Nat) (c : Coord) (blk : Option Nat) (f : Nat → Nat) (step : BitVec 32) (full : Bool) : Except Stop State :=
  match s.crewAt k with
  | none => .ok s
  | some cr => match cr.tileUid uid with
    | none => .ok s
    | some t =>
      if s.mmaHeld k uid c then .error .hold
      else
        let t' := let x := t.write c blk (f (t.read c blk)); if full then x.setTag c blk true else x
        if t.tracked && s.comet.tracked.contains cr.launchId then
          let (g, u, off) := tileGranule k cr t c blk
          match s.preserve g u step with
          | .error x => .error x
          | .ok s1 =>
            let (_, b) := t'.bitAddr c blk
            .ok ((s1.alsoPreserved g step (off / 4 * 4) (4 * (wordsOf b t'.accWidth).length) (b % 32) t'.accWidth f).putTile k t')
        else .ok (s.putTile k t')

/-- A write of a value. -/
def State.tileWrite (s : State) (k uid : Nat) (c : Coord) (blk : Option Nat) (v : Nat) (step : BitVec 32) (full : Bool) : Except Stop State :=
  s.tileUpdate k uid c blk (fun _ => v) step full

/-- A change of tags alone. -/
def State.tileTag (s : State) (k uid : Nat) (c : Coord) (full : Bool) : State :=
  match s.tileAt k uid with
  | none => s
  | some t => s.putTile k (t.setTag c none full)

/-! ### Gates (05 R102 to R104) -/

def gatePhase (g : Word) : Nat := getElem 16 0 g
def gateNeed (g : Word) : Nat := getElem 16 1 g
def gateGot (g : Word) : Nat := getElem 16 2 g
def gateBytes (g : Word) : Nat := getElem 16 3 g

/-- gate_update (05 R103). -/
def gateUpdate (g : Word) (arrivals addUnits subUnits : Nat) : Word :=
  let got := min (gateGot g + arrivals) 65535
  let bytes := min (gateBytes g + addUnits - subUnits) 65535
  let need := gateNeed g
  let adv := (decide (0 < arrivals) || decide (0 < subUnits)) && decide (need ≤ got) && bytes == 0
  let phase := if adv then (gatePhase g + 1) % 65536 else gatePhase g
  let got := if adv then (if 0 < need then got - need else 0) else got
  BitVec.ofNat 64 (phase + 2 ^ 16 * need + 2 ^ 32 * got + 2 ^ 48 * bytes)

/-- A gate update at its point; a held word cannot be a gate, and the tags stay (05 R102). -/
def State.gateApply (s : State) (k uid : Nat) (c : Coord) (f : Word → Word) (step : BitVec 32) : Except Stop State :=
  match s.tileAt k uid with
  | none => .ok s
  | some _ => s.tileUpdate k uid c none (fun x => (f (BitVec.ofNat 64 x)).toNat) step false

/-! ### Global tensors (05 R109) -/

def descBase (d : BitVec 512) : Nat := (d.extractLsb' 0 56).toNat
def descFmt (d : BitVec 512) : BitVec 4 := d.extractLsb' 64 4
def descPlanes (d : BitVec 512) : Nat := (d.extractLsb' 68 5).toNat
def descTag (d : BitVec 512) : Nat := (d.extractLsb' 73 4).toNat
def descScm (d : BitVec 512) : Bool := d.getLsbD 77
def descN (d : BitVec 512) (i : Nat) : Nat := (d.extractLsb' (128 + 32 * i) 32).toNat
def descShape (d : BitVec 512) : Shape := ⟨(List.range 6).map (descN d), descFmt d, descPlanes d, descTag d⟩

/-- The limits of R109. -/
def descOk (d : BitVec 512) : Bool :=
  let fmt := descFmt d
  (d.extractLsb' 56 8) == 0#8 && descBase d % 256 == 0 && !(fmt == 15#4) &&
  (if fmt = 14#4 then decide (2 ≤ descPlanes d ∧ descPlanes d ≤ 16) else descPlanes d == 0) && layoutOk fmt (descTag d) &&
  (d.extractLsb' 78 18) == 0#18 && (d.extractLsb' 96 32) == 0#32 && (List.range 6).all (fun i => decide (1 ≤ descN d i)) &&
  (d.extractLsb' 320 192) == 0#192 && decide (descBase d + (descShape d).size ≤ 2 ^ 56)

/-- Virtual address and bit within the byte of an element of a global tensor, or of word i of its block. -/
def descElem (d : BitVec 512) (c : List Nat) (blk : Option Nat) : Nat × Nat :=
  let b := (descShape d).bitOf c + (match blk with | none => 0 | some i => 32 * i)
  (descBase d + b / 8, b % 8)

end Sys2Proof.Machine
end

