-- ==== Sys2Proof/Machine/Operands.lean ====
section
/-! DEFINITION. The operand forms of both streams: scalar addresses, and the lane stream's sources, selectors, guards,
queue pops, operand buffer and faults (03_two_streams R55, R61, R65; 08_scalar_isa R164; 09_lane_compute_isa R190, R191;
18_instruction_faults R347, R348). -/

namespace Sys2Proof.Machine

/-! ### Scalar operands -/

/-- The access size in bytes. -/
def sizeBytes : ScalarSize → Nat
  | .n8 | .i8 => 1
  | .n16 | .i16 => 2
  | .n32 | .i32 => 4
  | .d64 => 8
def sizeSigned : ScalarSize → Bool
  | .i8 | .i16 | .i32 => true
  | _ => false
/-- The value of a load: zero-extended or sign-extended by the size (08 R164). -/
def extendBy (z : ScalarSize) (x : Nat) : Word :=
  let w := 8 * sizeBytes z
  if sizeSigned z && x.testBit (w - 1) then BitVec.ofNat 64 (x + (2 ^ 64 - 2 ^ w)) else BitVec.ofNat 64 x
/-- The address of a global SLD or SST (08 R164). -/
def scalarAddr (t : Team) (a : SReg) (off : BitVec 32) : Nat := (t.sreg a + off.signExtend 64).toNat
/-- The target of a branch form with a signed word offset (08 R167). -/
def branchTarget (pc : BitVec 64) {n : Nat} (off : BitVec n) : BitVec 64 := pc + 4#64 * off.signExtend 64

/-! ### Lane sources -/

/-- Where a source's 64 bits come from (09 R190). -/
inductive Src where
  | zero | buf
  | queue (q : Nat)
  | reg (r : Nat)
  deriving DecidableEq, Repr

/-- A source by its fields: a queue select, the Z flag, the B flag, else the register. -/
def srcOf (reg : BitVec 9) (z b : Bool) (q : BitVec 4) : Src :=
  if bitAt q 3 then .queue (field q 2 0).toNat else if z then .zero else if b then .buf else .reg reg.toNat

def Src.isQueue : Src → Option Nat
  | .queue q => some q
  | _ => none
def Src.isReg : Src → Option Nat
  | .reg r => some r
  | _ => none

/-- The popped vectors an instruction reads, by queue. -/
abbrev Pops := List (Nat × List Band)

/-- The entry of lane l in a popped vector. -/
def bandLane (p : List Band) (l : Nat) : Word := (p.getD (l / 32) 0#2048).extractLsb' (64 * (l % 32)) 64

/-- The value of a source in lane l, executing or not (09 R191). -/
def Team.src (t : Team) (pops : Pops) (x : Src) (l : Nat) : Word :=
  match x with
  | .zero => 0#64
  | .buf => match t.obuf with | none => 0#64 | some m => cellGet m l
  | .queue q => match pops.find? (fun p => p.1 == q) with | none => 0#64 | some p => bandLane p.2 l
  | .reg r => t.vreg r l

/-- The operand buffer that retaining a source leaves: its value in every lane (03 R65). -/
def Team.retained (t : Team) (pops : Pops) (x : Option Src) : Option (SMap 64) :=
  match x with
  | none => none
  | some x => some ((List.range t.lanes).foldl (fun m l => cellSet m l (t.src pops x l)) [])

/-- The source that the retain field names. -/
def retainSrc (retain : BitVec 2) (s0 s1 s2 : Src) : Option Src :=
  match retain.toNat with | 0 => none | 1 => some s0 | 2 => some s1 | _ => some s2

/-- Lanes that execute an instruction of a clause: the clause mask and the guard (03 R55); on a re-execution after a
fault, only the lanes of the lane fault mask (17 R345). -/
def Team.executing (t : Team) (mask : Mask) (h : LaneHead) : Mask :=
  let g := maskOf t.lanes (fun l => mask.getLsbD l && (t.pred h.guard.toNat l != h.neg))
  if t.restart.isSome then g &&& t.lfm else g

/-! ### Queue pops (03 R61) -/

/-- Band entries of one vector. -/
def Team.bands (t : Team) : Nat := t.lanes / 32

/-- The entries of queue q taken by the instruction at lidx so far. -/
def Team.takenOf (t : Team) (q : Nat) : List Band := ((t.taken.find? (fun p => p.1 == q)).map (·.2)).getD []

/-- Band entries of queue q that the instruction at lidx has taken or could take: a queue popped before a fault holds its
whole vector. -/
def Team.reachOf (t : Team) (q : Nat) : Nat :=
  if (match t.restart with | none => false | some r => r.popped.any (fun p => p.1 == q)) then t.bands
  else min t.bands ((t.takenOf q).length + (t.queues.getD q []).length)

/-- The first `n` band entries of the current vector stand taken from queue q: one entry a pass, in ascending band order. -/
def Team.popQueue (t : Team) (n q : Nat) : Team :=
  let have_ := t.takenOf q
  let avail := t.queues.getD q []
  { t with queues := t.queues.set q (avail.drop (n - have_.length)), taken := upsert (fun p => p.1 == q) (q, have_ ++ avail.take (n - have_.length)) t.taken }

/-- Pops for the queues an instruction selects, each pass taking one entry of each: a pass whose entry has not arrived in one
of them takes nothing from the others. A queue popped before a fault is not popped again. Answers the team and whether every
vector is whole. -/
def Team.popAll (t : Team) (qs : List Nat) : Team × Bool :=
  let n := qs.foldl (fun k q => min k (t.reachOf q)) t.bands
  let fresh := qs.filter (fun q => match t.restart with | none => true | some r => !r.popped.any (fun p => p.1 == q))
  (fresh.foldl (fun u q => u.popQueue n q) t, n == t.bands)

/-- The vectors the current instruction reads. -/
def Team.popped (t : Team) : Pops := (match t.restart with | none => [] | some r => r.popped) ++ t.taken

/-! ### Completion and faults of a lane instruction -/

/-- The step of the clause at the head: what its writes carry (08 R180). -/
def Team.headStep (t : Team) : BitVec 32 := match t.queue with | [] => t.stepNow | c :: _ => c.step

/-- The instruction at lidx has made its passes: the next one stands at lidx, with the operand buffer given. -/
def Team.laneDone (t : Team) (buf : Option (SMap 64)) : Team :=
  { t with lidx := t.lidx + 1, taken := [], obuf := buf, obufNext := none, restart := none, lfm := if t.restart.isSome then 0#1024 else t.lfm }

/-- A lane fault: the pops and the set X are kept for the re-execution (17 R342). What an earlier fault of the instruction has fixed
stays: X is fixed once (18 R354). -/
def Team.laneFault (t : Team) (cause : Nat) (lanes : Mask) (x : Option Mask) (addr : Nat) : Team :=
  { t.laneTrap cause lanes addr with
    restart := some ⟨t.popped, match t.restart with | none => x | some q => match q.x with | none => x | some y => some y⟩, taken := [] }

/-- The trap record that a late fault of a lane leaves, by an append or an access that has been issued: it names the instruction, wherever
the lane stream has come to since. Where a lane instruction is to be re-executed already, its record stands (17 R342;
notes/assumptions/40.md and 47.md). -/
def Team.lateTrap (t : Team) (l idx cause addr : Nat) : Team :=
  let lane := BitVec.ofNat 1024 (2 ^ l)
  if t.restart.isSome then
    (if t.faulted then t else { t.laneTrap cause t.lfm addr with trapLidx := BitVec.ofNat 4 idx })
  else
    let first := if t.faulted && t.trapLane then (firstCause [t.trapCause.toNat % 65536, cause]).getD cause else cause
    { t.laneTrap first (if t.slots.isEmpty && t.again.isEmpty then lane else t.lfm ||| lane) addr with trapLidx := BitVec.ofNat 4 idx }

/-- A lane's bit leaves the lane fault mask when what is made again of it has ended (17 R345). -/
def Team.laneMended (t : Team) (lane : Nat) : Team :=
  if t.restart.isNone && t.slots.all (fun q => q.lane != lane) && t.again.all (fun a => a.lane != lane) then
    { t with lfm := t.lfm &&& ~~~BitVec.ofNat 1024 (2 ^ lane) }
  else t

/-- A lane fault of the instruction as a whole, or of lanes for which no pool is to blame: a crew that waits for a pool of one
page size no longer waits for that alone (17 R345). -/
def State.laneFaultAt (s : State) (r : TeamRef) (t : Team) (cause : Nat) (lanes : Mask) (x : Option Mask) (addr : Nat) : State :=
  (s.putTeam r (t.laneFault cause lanes x addr)).notePool r false none

/-- The lanes of the lane fault mask of an instruction fault: those that would have executed, else the clause mask (18 R347). -/
def wholeLanes (x mask : Mask) : Mask := if x = 0#1024 then mask else x

/-- Lanes of x that read, of the sources, a register that holds an uncorrectable error; `reads k l` are the lanes whose values
of source k lane l reads (18 R352). -/
def Team.errLanes (t : Team) (srcs : List Src) (x : Mask) (reads : Nat → Nat → List Nat) : Mask :=
  if t.laneErr.isEmpty then 0#1024
  else maskOf t.lanes (fun l => x.getLsbD l && srcs.zipIdx.any (fun p => match p.1 with
    | .reg v => (reads p.2 l).any (fun k => t.laneErr.contains (v * 1024 + k))
    | _ => false))

/-- The source that the retain field names, of the sources in their order. -/
def keptSrc (h : LaneHead) (srcs : List Src) : Option Src := if h.retain = 0#2 then none else srcs[h.retain.toNat - 1]?

/-- The frame of every lane instruction of assigned encoding: no clause started, nothing happens; an empty clause mask pops,
retains and does nothing else (18 R348); a B source without a valid buffer is ENCODING; a vector not yet whole waits; a register outside the
allocation is REGISTER; then the instruction's own effect on the executing lanes. `srcs` are its sources, `regs` the
registers it names or implies. The effect answers the whole state; `Team.laneDone` is its part. -/
def laneFrame (s : State) (h : LaneHead) (srcs : List Src) (regs : List Nat)
    (eff : TeamRef → Crew → Team → Clause → Mask → State) : Out :=
  withTeam s fun r c t =>
    match t.queue with
    | [] => s
    | cl :: _ =>
      if !cl.started || (!t.lwaits.isEmpty && t.restart.isNone) || decide (cl.count ≤ t.lidx) then s
      else
        let x := t.executing cl.mask h
        let (t1, whole) := t.popAll (srcs.filterMap Src.isQueue).eraseDups
        let noBuf := srcs.contains .buf && t.obuf.isNone
        if cl.mask = 0#1024 then
          (if noBuf then s.putTeam r (t.laneDone (if h.retain = 0#2 then none else some []))
           else if whole then s.putTeam r (t1.laneDone (t1.retained t1.popped (keptSrc h srcs))) else s.putTeam r t1)
        else if noBuf then s.laneFaultAt r t causeEncoding (wholeLanes x cl.mask) (some x) cl.addr
        else if !whole then s.putTeam r t1
        else if (srcs.filterMap Src.isReg ++ regs).any (fun v => decide (t.regs ≤ v)) then
          s.laneFaultAt r t1 causeRegister (wholeLanes x cl.mask) (some x) cl.addr
        else eff r c t1 cl x

/-- The frame of a lane instruction that computes registers, predicates or masks: lanes whose sources meet an uncorrectable
error fault, and the instruction completes for the others (17 R342, 18 R352). `reads t x k l` are the lanes whose values of source
k lane l reads. A block that reads such a value is written in no lane. -/
def laneCompute (s : State) (h : LaneHead) (srcs : List Src) (regs : List Nat) (reads : Team → Mask → Nat → Nat → List Nat)
    (eff : TeamRef → Crew → Team → Clause → Mask → State) : Out :=
  laneFrame s h srcs regs fun r c t cl x =>
    let bad := t.errLanes srcs x (reads t x)
    if bad = 0#1024 then eff r c t cl x
    else ((eff r c t { cl with mask := maskOf t.lanes (fun l => cl.mask.getLsbD l && bandWord bad (l / 32) == 0#32) } (x &&& ~~~bad)).modTeam r (fun u =>
      { u with lidx := t.lidx, obuf := t.obuf, taken := t.taken, restart := t.restart }.laneFault stUncorrectable bad (some x) cl.addr)).notePool r false none

/-- A lane reads its own values alone. -/
def ownLane (_ : Team) (_ : Mask) (_ l : Nat) : List Nat := [l]
/-- A lane reads its block of 32. -/
def blockLanes (_ : Team) (_ : Mask) (_ l : Nat) : List Nat := (List.range 32).map (fun j => l / 32 * 32 + j)
/-- A lane reads the executing lanes of its block of 32. -/
def execBlock (t : Team) (x : Mask) (k l : Nat) : List Nat := (blockLanes t x k l).filter (fun j => x.getLsbD j)

/-! ### Elements (03 R52, 09 R190) -/

/-- The element set of a destination. -/
def elemSet (w : Nat) (sel : BitVec 5) : List Nat := if sel = 0#5 then List.range (64 / w) else [selIndex sel]
/-- What a source contributes to element i. -/
def srcElem (w : Nat) (sel : BitVec 5) (i : Nat) (x : Word) : Nat := getElem w (if sel = 0#5 then i else selIndex sel) x
/-- A register value with the element set computed by f; the other bits stay. -/
def mapElems (w : Nat) (sel : BitVec 5) (old : Word) (f : Nat → Nat) : Word :=
  (elemSet w sel).foldl (fun acc i => putElem w i acc (f i)) old

/-- The register written in the executing lanes with values computed from the team before the instruction. -/
def Team.writeLanes (t : Team) (d : Nat) (x : Mask) (f : Nat → Word) : Team :=
  (maskLanes x t.lanes).foldl (fun u l => u.setVreg d l (f l)) t

end Sys2Proof.Machine
end

