-- ==== Sys2Proof/Machine/Teams.lean ====
section
/-! DEFINITION. Fetching, team states that follow from the rest of the state, the end of teams, crews and launches, and
what fits a core (02_work_hierarchy R29, R36 to R42; 13_scheduling R279, R283). -/

namespace Sys2Proof.Machine

/-! ### Launch records (13 R279) -/

/-- Bits [hi : lo] of the field at byte `off` of a record. -/
def recField (r : BitVec 1024) (off lo n : Nat) : Nat := (r.extractLsb' (8 * off + lo) n).toNat
def recSentry (r : BitVec 1024) : Nat := recField r 0 0 56
def recLentry (r : BitVec 1024) : Nat := recField r 8 0 56
def recCrews (r : BitVec 1024) : Nat := recField r 16 0 32
def recLanes (r : BitVec 1024) : Nat := recField r 20 0 11
def recRegs (r : BitVec 1024) : Nat := recField r 22 0 10
def recTeams (r : BitVec 1024) : Nat := recField r 24 0 5
def recCohortCode (r : BitVec 1024) : Nat := recField r 25 0 2
def recCohort (r : BitVec 1024) : Nat := 2 ^ recCohortCode r
def recPriority (r : BitVec 1024) : Nat := recField r 25 2 3
def recPriv (r : BitVec 1024) : Bool := recField r 25 5 1 == 1
def recHinted (r : BitVec 1024) : Bool := recField r 25 6 1 == 1
def recIrq (r : BitVec 1024) : Bool := recField r 25 7 1 == 1
def recHint (r : BitVec 1024) : Nat := recField r 26 0 4
def recVer (r : BitVec 1024) : Nat := recField r 26 4 4
def recNtiles (r : BitVec 1024) : Nat := recField r 27 0 6
def recDone (r : BitVec 1024) : Nat := recField r 32 0 56
def recGate (r : BitVec 1024) (i : Nat) : Nat := recField r (40 + 8 * i) 0 56
def recXdecl (r : BitVec 1024) : Nat := recField r 120 0 56
/-- Tile declaration i: 96 bits (13 R280). -/
def Launch.decl (l : Launch) (i : Nat) : BitVec 96 := if i < 4 then l.record.extractLsb' (8 * (72 + 12 * i)) 96 else l.ext.getD (i - 4) 0#96
def Launch.decls (l : Launch) : List (BitVec 96) := (List.range (recNtiles l.record)).map l.decl
def declD0 (d : BitVec 96) : Word := d.extractLsb' 0 64
def declD1 (d : BitVec 96) : BitVec 32 := (d.extractLsb' 64 16).setWidth 32
def declHandle (d : BitVec 96) : Handle := d.extractLsb' 80 8
def declTracked (d : BitVec 96) : Bool := d.getLsbD 88
def declOk (d : BitVec 96) : Bool := tileDescOk (declD0 d) (declD1 d) && (d.extractLsb' 89 7) == 0#7

/-- The tiles that the declarations make, with handles. -/
def Launch.tiles (l : Launch) : List Tile := (l.decls.zipIdx).map (fun p => mkTile (p.2 + 1) (declHandle p.1) (declD0 p.1) (declD1 p.1) (declTracked p.1))

/-- The launch of a crew. -/
def State.launchOf (s : State) (c : Crew) : Option Launch := s.launches.find? (fun l => l.id == c.launchId)
/-- Cohort size and number of crews of a crew's launch. -/
def State.cohortSize (s : State) (c : Crew) : Nat := match s.launchOf c with | none => 1 | some l => recCohort l.record
def State.crewCount (s : State) (c : Crew) : Nat := match s.launchOf c with | none => 0 | some l => recCrews l.record
/-- Positions of the crews of the same gang cohort, the crew among them (02 R31). -/
def State.cohort (s : State) (c : Crew) : List Nat :=
  let z := s.cohortSize c
  ((s.crews.zipIdx).filter (fun p => p.1.launchId == c.launchId && p.1.crewId.toNat / z == c.crewId.toNat / z)).map (·.2)
/-- Whether the launch is in Comet's snapshot set (12 R275). -/
def State.tracked (s : State) (c : Crew) : Bool := s.comet.tracked.contains c.launchId

/-! ### Fetching (05 R108, 03 R53) -/

/-- A word fetched by a core: first touch binds, faults are named; poison anywhere in the word's line counts (18 R350, R351).
An address that is no multiple of 4 is fetched as it stands (notes/assumptions/10.md). -/
def State.fetchWord (s : State) (core va : Nat) : State × Except FetchFault (BitVec 32) :=
  match s.translate (some core) (coreDie core) va false with
  | (s1, .ok pa e) =>
    if pteScm e then (s1, .error .translation)
    else if s1.isDead pa 4 then (s1, .error .uncorrectable)
    else if s1.isPoisoned (pa / 64 * 64) 64 then (s1, .error .poison)
    else (s1, .ok (BitVec.ofNat 32 (s1.physRead pa 4)))
  | (s1, .lost) => (s1, .error .uncorrectable)
  | (s1, _) => (s1, .error .translation)

/-- The cause of a fetch fault (18 R350, R351). -/
def fetchCause : FetchFault → Nat
  | .translation => stTranslation
  | .uncorrectable => stUncorrectable
  | .poison => stPoison

/-- `n` words from an address, or the fault that R347 ranks first. -/
def State.fetchWords (s : State) (core va : Nat) : Nat → State × Except FetchFault (List (BitVec 32))
  | 0 => (s, .ok [])
  | n + 1 =>
    match s.fetchWord core va with
    | (s1, .error .translation) => (s1, .error .translation)
    | (s1, .error f) => match s1.fetchWords core (va + 4) n with
      | (s2, .error g) => (s2, .error (if causeRank (fetchCause f) ≤ causeRank (fetchCause g) then f else g))
      | (s2, .ok _) => (s2, .error f)
    | (s1, .ok w) => match s1.fetchWords core (va + 4) n with
      | (s2, .error f) => (s2, .error f)
      | (s2, .ok ws) => (s2, .ok (w :: ws))

/-- The instruction the scalar stream stands at: a fetch fault with the address fetched, an unassigned encoding (none), or an
instruction. The extension word is fetched where the first word's format has one (07 R135); a first word that no extension makes well
formed is ENCODING, whatever that fetch meets (18 R347, R349). A program counter that is no multiple of 4 is met as
notes/assumptions/10.md says. -/
def State.fetchScalar (s : State) (core : Nat) (pc : BitVec 64) : State × Except (FetchFault × BitVec 64) (Option Instr) :=
  match s.fetchWords core pc.toNat 1 with
  | (s1, .error f) => (s1, .error (f, pc))
  | (s1, .ok ws) =>
    let w := ws.getD 0 0#32
    if hasExt w then
      match s1.fetchWords core (pc.toNat + 4) 1 with
      | (s2, .error f) => (s2, if scalarFits w then .error (f, pc + 4#64) else .ok none)
      | (s2, .ok xs) => (s2, .ok (decodeScalar w (xs.getD 0 0#32)).toOption)
    else (s1, .ok (decodeScalar w 0#32).toOption)

/-- Whether the words of a lane instruction that can be fetched, up to the first that cannot, leave it well formed. -/
def State.laneFits (s : State) (core va : Nat) : Bool :=
  match (s.fetchWords core va 2).2, (s.fetchWords core va 1).2 with
  | .ok ws, _ => laneFits2 (ws.getD 0 0#32) (ws.getD 1 0#32)
  | .error _, .ok ws => laneFits1 (ws.getD 0 0#32)
  | .error _, .error _ => true

/-- The lane instruction of index `i` of the clause at `addr` (07 R148, R151): words that no later word makes well formed are ENCODING,
whatever the fetch of the later ones meets (18 R347, R349). -/
def State.fetchLane (s : State) (core addr i : Nat) : State × Except FetchFault (Option Instr) :=
  match s.fetchWords core (addr + 12 + 12 * i) 3 with
  | (s1, .error f) => (s1, if s.laneFits core (addr + 12 + 12 * i) then .error f else .ok none)
  | (s1, .ok ws) => (s1, .ok (decodeLane (ws.getD 0 0#32) (ws.getD 1 0#32) (ws.getD 2 0#32)).toOption)

/-! ### Team states (02 R37 to R42) -/

/-- The scalar stream's next instruction, without the effects of fetching it. -/
def State.peekScalar (s : State) (c : Crew) (t : Team) : Option Instr :=
  match (s.fetchScalar c.core t.pc).2 with
  | .ok i => i
  | .error _ => none
/-- The queues that the next lane instruction waits for. -/
def instrQueues : Instr → List Nat
  | .iadd h m | .isub h m | .imul h m | .imulh h m | .iand h m | .ior h m | .ixor h m | .ishl h m | .ishr h m | .isar h m
  | .imin h m | .imax h m | .ibfx h m | .iadds h m | .isubs h m | .fadd h m | .fsub h m | .fmul h m | .fmin h m | .fmax h m
  | .fdiv h m | .fscale h m | .shfl h m | .bcast h m | .imad h m | .ibfi h m | .isel h m | .idot4 h m | .ffma h m
  | .icmpEq h m | .icmpNe h m | .icmpLt h m | .icmpLe h m | .icmpGt h m | .icmpGe h m
  | .fcmpEq h m | .fcmpNe h m | .fcmpLt h m | .fcmpLe h m | .fcmpGt h m | .fcmpGe h m | .fcmpUn h m
  | .iabs h m | .ineg h m | .inot h m | .ipopc h m | .iclz h m | .fabs h m | .fneg h m | .frcp h m | .frsq h m | .fsqrt h m
  | .fexp2 h m | .flog2 h m | .fsin h m | .fcos h m | .ftanh h m | .fsigm h m | .fround h m | .fclass h m | .had32 h m | .mov h m =>
      ([srcOf h.s0 false false m.q0, srcOf h.s1 false false m.q1].filterMap Src.isQueue).eraseDups
  | .cvt h m | .pack h m | .unpk h m => [srcOf h.s0 false false m.q0].filterMap Src.isQueue
  | .qbp h m | .dqbp h m => [srcOf h.s0 false false m.q0].filterMap Src.isQueue
  | .frmax h m | .fradd h m | .red h m | .scan h m => [srcOf h.s0 false false m.q0].filterMap Src.isQueue
  | .tld h m | .tldIfempty h m | .tst h m | .tstIffull h m | .tldf h m | .tste h m | .tldt h m | .gld h m | .gst h m
  | .rld h m | .atom h m | .msgput h m | .wlapp h m | .cstore h m | .xld h m => [srcOf h.s0 false false m.q0].filterMap Src.isQueue
  | _ => []

/-- The scalar stream stands at a blocking point (02 R38). -/
def Team.scalarWaits (t : Team) : Bool := t.swait.isSome
/-- The timeout exponent of a waiting lane instruction. -/
def waitE : Instr → BitVec 5
  | .tldf _ m | .tste _ m | .tldIfempty _ m | .tstIffull _ m | .rld _ m | .msgput _ m | .msgtake _ m => m.e
  | _ => 0#5
/-- The lane stream stands at a blocking point: some lane of a waiting instruction with e ≥ 1 is unresolved (10 R221). -/
def Team.laneWaits (t : Team) : Bool := t.lwaits.any (fun w => waitE w.instr != 0#5)
/-- The scalar stream is stalled solely on the lane stream (02 R39). -/
def State.scalarStalled (s : State) (c : Crew) (t : Team) : Bool :=
  match s.peekScalar c t with
  | some (.fwait m) => t.flagsBusy m && !(t.retired.any (fun k => !(k.holds &&& m == 0#12)))
  | some (.lq _) => decide (16 ≤ t.queue.length)
  | _ => false
/-- The lane stream is stalled solely on the scalar stream: its next instruction waits for a queue that no stream command
is to feed (02 R39). -/
def State.laneStalled (s : State) (c : Crew) (t : Team) : Bool :=
  match t.queue with
  | [] => false
  | cl :: _ =>
    if !cl.started || decide (cl.count ≤ t.lidx) then false
    else match (s.fetchLane c.core cl.addr t.lidx).2 with
      | .ok (some i) => (instrQueues i).any (fun q =>
          decide ((t.takenOf q).length + (t.queues.getD q []).length < t.bands) && t.scq.all (fun k => k.q != q))
      | _ => false
/-- BLOCKED (02 R39). -/
def State.blocked (s : State) (c : Crew) (t : Team) : Bool :=
  !t.faulted && !t.finished &&
  ((t.scalarWaits && (t.laneWaits || t.queue.isEmpty || s.laneStalled c t)) ||
   (t.laneWaits && (t.scalarWaits || t.exited || s.scalarStalled c t)))
/-- Whether R42 lets the crew be evicted, for itself alone. -/
def State.crewEvictable (s : State) (c : Crew) : Bool :=
  c.teams.all (fun t => s.blocked c t || t.faulted || t.finished) && c.teams.any (fun t => s.blocked c t || t.faulted)
/-- R42 for the crew's whole cohort. -/
def State.evictable (s : State) (c : Crew) : Bool :=
  (s.cohort c).all (fun k => match s.crewAt k with | none => true | some d => d.place.isNone || s.crewEvictable d)
/-- A NOPRE region whose budget is not spent holds the crew (13 R297). -/
def Crew.inNopre (c : Crew) : Bool := c.teams.any (fun t => !(t.nopreDepth == 0#4) && !t.nopreSpent)
def Crew.inGuard (c : Crew) : Bool := c.teams.any (fun t => !(t.guardDepth == 0#4))

/-- A crew whose teams may execute: resident, live, and no team of its gang cohort FAULTED (17 R345). -/
def State.crewRuns (s : State) (c : Crew) : Bool :=
  c.place.isSome && c.state == .live && !s.quiesced && s.quiescing.isNone && s.powerLoss.isNone &&
  (s.cohort c).all (fun k => match s.crewAt k with | none => true | some d => d.state != .live || d.teams.all (fun t => !t.faulted))

/-- A crew whose teams may still finish what they have begun while they are being stopped: the clause in progress, and an
access that a Tether home is to answer (13 R298, 17 R345, 19 R363). -/
def State.crewStops (s : State) (c : Crew) : Bool := c.place.isSome && c.state == .live && !s.quiesced && s.powerLoss.isNone

/-- Whether the stream may execute its next instruction. An access that a Tether home is to answer is finished though the team is
FAULTED (17 R342, R345); no lane instruction issues while appends of an earlier one are to be re-executed (10 R237). -/
def State.canRun (s : State) (r : TeamRef) (st : Stream) : Bool :=
  match s.teamAt r with
  | none => false
  | some (c, t) =>
    let asked := s.treqs.any (fun q => q.team == r)
    s.crewStops c && !t.finished &&
    (match st with
     | .scalar => (!t.faulted || asked) && !t.exited && t.swait.isNone && (s.crewRuns c || asked)
     | .lane => !t.faulted && (t.lwaits.isEmpty || t.restart.isSome) && (t.lfm == 0#1024 || t.restart.isSome) &&
       (match t.queue with | [] => false | cl :: _ => cl.started && decide (t.lidx < cl.count)))

/-! ### What fits a core (02 R29) -/

def Team.footprint (t : Team) : Nat := t.lanes * t.regs
def Crew.footprint (c : Crew) : Nat := (c.teams.map Team.footprint).sum
def State.coreTeams (s : State) (core : Nat) : Nat := ((s.residents core).map (fun k => match s.crewAt k with | none => 0 | some c => c.teams.length)).sum
def State.coreRegsUsed (s : State) (core : Nat) : Nat := ((s.residents core).map (fun k => match s.crewAt k with | none => 0 | some c => c.footprint)).sum
/-- Whether `teams` teams, `regs` registers and `grans` granules fit beside a core's residents. -/
def State.fits (s : State) (core teams regs grans : Nat) : Bool :=
  decide (s.coreTeams core + teams ≤ 16) && decide (s.coreRegsUsed core + regs ≤ Config.coreRegs) &&
  decide (s.coreGranules core + grans ≤ Config.coreGranules)
/-- Logical cores that exist: gangs and slots not vacant (01 R12 to R14). -/
def State.coreExists (s : State) (core : Nat) : Bool :=
  decide (core < 12 * s.regions) && !s.vacantGangs.contains (coreGang core) && !s.vacantCores.contains core
def State.gangSlots (s : State) (g : Nat) : Nat := ((List.range 4).filter (fun i => s.coreExists (4 * g + i))).length
def State.devGangs (s : State) : Nat := 3 * s.regions - s.vacantGangs.length
def State.devCores (s : State) : Nat := ((List.range (12 * s.regions)).filter s.coreExists).length

/-! ### Register growth (08 R182, 13 R290) -/

/-- When the current wait of the scalar stream began: now, if it does not wait yet. -/
def State.scalarBegan (s : State) (t : Team) : Nat := match t.swait with | none => s.nextWait | some w => w.began

/-- Registers that a growth of the team to `n` per lane takes. -/
def Team.growth (t : Team) (n : Nat) : Nat := t.lanes * (n - t.regs)
/-- The core's register file can grant it; mirror copies count as free. -/
def State.growFits (s : State) (core : Nat) (t : Team) (n : Nat) : Bool := decide (s.coreRegsUsed core + t.growth n ≤ Config.coreRegs)

/-- The allocation that a team waits for in RGROW. -/
def Team.growWant (t : Team) : Option (Nat × Nat) :=
  match t.swait with
  | none => none
  | some w => match w.instr with
    | .rgrow _ a _ => some (w.began, (t.sreg a).toNat)
    | _ => none

/-- Whether an older request on the core can be granted now: it is granted first. -/
def State.growBefore (s : State) (core began : Nat) : Bool :=
  (s.residents core).any (fun k => match s.crewAt k with
    | none => false
    | some c => s.crewRuns c && c.teams.any (fun t => match t.growWant with
      | none => false
      | some (b, n) => decide (b < began) && s.growFits core t n))

/-- Of two crew positions, the younger crew: the later first residency (13 R291). -/
def State.younger (s : State) (i j : Nat) : Bool :=
  match s.crewAt i, s.crewAt j with
  | some a, some b =>
    decide (b.born < a.born) || (a.born == b.born && (decide (b.launchId.toNat < a.launchId.toNat) || (a.launchId == b.launchId && decide (b.crewId.toNat < a.crewId.toNat))))
  | _, _ => false
/-- The youngest of some crews. -/
def State.youngest (s : State) : List Nat → Option Nat
  | [] => none
  | k :: rest => match s.youngest rest with
    | none => some k
    | some j => if s.younger k j then some k else some j

/-- Mirrors go, from the youngest crew on, until the footprints and what is mirrored fit the register file (20 R400). -/
def State.dropMirrors (s : State) (core : Nat) : Nat → State
  | 0 => s
  | fuel + 1 =>
    let ms := (s.residents core).filter (fun k => match s.crewAt k with | none => false | some c => c.mirrored)
    let used := (ms.map (fun k => match s.crewAt k with | none => 0 | some c => c.footprint)).sum
    if s.coreRegsUsed core + used ≤ Config.coreRegs then s
    else match s.youngest ms with
      | none => s
      | some k => (s.modCrew k (fun c => { c with mirrored := false })).dropMirrors core fuel

/-- RGROW's effect once the register file can grant the request. -/
def attemptRgrow (d a : SReg) (s : State) (r : TeamRef) (c : Crew) (t : Team) : Option State :=
  let n := (t.sreg a).toNat
  if !s.growFits c.core t n || s.growBefore c.core (s.scalarBegan t) then none
  else some ((s.modTeam r (fun t => { ({ t with regs := n }.status d stOk 4) with swait := none })).dropMirrors c.core 16)

/-- The oldest waiting request of the core that can be granted is granted; `fuel` bounds the grants. -/
def State.grantRgrow (s : State) (core : Nat) : Nat → State
  | 0 => s
  | fuel + 1 =>
    match s.teamRefs.findSome? (fun r => match s.teamAt r with
      | none => none
      | some (c, t) => match t.swait with
        | none => none
        | some w => match w.instr with
          | .rgrow d a _ => if c.place == some core && s.crewRuns c then attemptRgrow d a s r c t else none
          | _ => none) with
    | none => s
    | some s1 => s1.grantRgrow core fuel

/-! ### Stamps -/

/-- An 8-byte word written at its home slice by an agent of die `die`: none while Comet holds the write back; an address that has no
translation, or lost lines, takes no word. -/
def State.stampWrite (s : State) (die va v : Nat) : Option State :=
  match s.translate none die va true with
  | (s1, .ok pa e) =>
    if pteScm e then some s1
    else (match s1.pageWrite va pa e 0#32 8 v with
      | .ok s2 => some s2
      | .error .hold => none
      | .error (.code _) => some s1)
  | (s1, _) => some s1

/-! ### The end of teams, crews and launches (02 R36, 13 R283) -/

/-- A team that has exited finishes once its lane queue is empty and its last clause is complete; it then holds no
accumulator tile (11 R246), and the core's waiting requests for registers are tested again (13 R290). -/
def State.finishTeam (s : State) (r : TeamRef) : State :=
  match s.teamAt r with
  | none => s
  | some (c, t) =>
    if t.exited && !t.finished && t.queue.isEmpty && t.retired.isEmpty then
      { s.putTeam r { t with finished := true } with accHold := s.accHold.filter (fun p => !(p.2 == r)) }.grantRgrow c.core 16
    else s

/-- The launch completes when all its crews have completed or been abandoned and their commands have signalled: the stamp at done,
and event 0x01 for a record with irq = 1. While Comet holds the stamp back, the launch does not complete. The stamp is written from die 0
(notes/assumptions/78.md). -/
def State.completeLaunch (s : State) (id : BitVec 32) : State :=
  match s.launches.find? (fun l => l.id == id) with
  | none => s
  | some l =>
    if l.state == .eligible && l.ranges.isEmpty && 
       s.crews.zipIdx.all (fun p => !(p.1.launchId == id) || (p.1.state != .live && s.commands.all (fun m => m.crew != p.2))) then
      let st := if l.aborted then stAborted else stOk
      let v := st * 2 ^ 48 + 2 ^ 32 + id.toNat
      let done := recDone l.record
      match (if done = 0 then some s else s.stampWrite 0 done v) with
      | none => s
      | some s1 =>
        let s2 := { s1 with launches := upsert (fun x => x.id == id) { l with state := .completed } s1.launches }
        if recIrq l.record then s2.raise 1 st id.toNat done v else s2
    else s

/-- A crew completes when every team has finished and every engine command it issued has signalled, once its outstanding stores are
performed, which the launch's stamp follows (13 R283; notes/assumptions/65.md); its tiles, handles, windows and registers are released
(13 R290); those of an
abandoned crew, once its commands have signalled (21 R416). -/
def State.completeCrew (s : State) (k : Nat) : State :=
  match s.crewAt k with
  | none => s
  | some c =>
    if c.state == .live && c.teams.all (fun t => t.finished && t.pending.isEmpty && t.again.isEmpty) && s.commands.all (fun m => m.crew != k) then
      ((s.putCrew k { c with state := .completed, place := none, tiles := [], globals := [], windows := List.replicate 16 windowReset }).grantRgrow c.core 16).completeLaunch c.launchId
    else if c.state == .abandoned && s.commands.all (fun m => m.crew != k) then
      (s.putCrew k { c with tiles := [], globals := [], windows := List.replicate 16 windowReset }).completeLaunch c.launchId
    else s

/-- The ends that follow a step of a crew. -/
def State.settle (s : State) (k : Nat) : State :=
  match s.crewAt k with
  | none => s
  | some c => ((List.range c.teams.length).foldl (fun s i => s.finishTeam ⟨k, i⟩) s).completeCrew k

end Sys2Proof.Machine
end

