-- ==== Sys2Proof/Machine/Drain.lean ====
section
/-! DEFINITION. Which locations an outstanding MDRAIN is to read and write, the order of a team's own accesses, and the stores
that keep a core from using its L1 copy of a line (03_two_streams R68, R70; 06_ordering R117 to R124; 11_matrix R255 to R257). -/

namespace Sys2Proof.Machine

/-! ### What an MDRAIN touches (11 R255, R256) -/

/-- Destination coordinates of dimension 0 upwards at the origin. -/
def drainOrigin (md : ModDrain) (src : List Word) : List Nat :=
  let a := src.getD 0 0#64
  let b := src.getD 1 0#64
  if md.glob then [getElem 32 0 a, getElem 32 1 a] ++ (List.range 4).map (fun i => getElem 16 i b) else (coordOf a).list
def drainAt (o : List Nat) (i j : Nat) : List Nat := (o.getD 0 0 + i) :: (o.getD 1 0 + j) :: o.drop 2
/-- The elements of the accumulator that have a destination. -/
def drainCells (sh : Shape) (o : List Nat) : List (Nat × Nat) :=
  ((List.range 128).filter (fun i => decide (o.getD 0 0 + i < sh.n 0))).flatMap (fun i =>
    ((List.range 128).filter (fun j => decide (o.getD 1 0 + j < sh.n 1))).map (fun j => (i, j)))

/-- Residual coordinates of an element. -/
def residAt (src : List Word) (p : Nat × Nat) : Coord :=
  let q := coordOf (src.getD 2 0#64)
  { q with c0 := q.c0 + p.1, c1 := q.c1 + p.2 }

def coord4 (c : List Nat) : Coord := ⟨c.getD 0 0, c.getD 1 0, c.getD 2 0, c.getD 3 0⟩

/-- The shape of an MDRAIN's destination. -/
def State.drainShape (s : State) (m : MCmd) (h : LaneHead) (md : ModDrain) : Shape :=
  if md.glob then descShape m.desc else (match s.tileAt m.team.crew m.uidA with | none => ⟨[0], h.ty, 0, 0⟩ | some t => t.shape)
/-- The accumulator elements whose destinations an MDRAIN has not written. -/
def State.drainLeft (s : State) (m : MCmd) (h : LaneHead) (md : ModDrain) : List (Nat × Nat) :=
  match m.drain with
  | some l => l.map (fun p => (p.1 / 128, p.1 % 128))
  | none => drainCells (s.drainShape m h md) (drainOrigin md m.src)
/-- Where the destination of an accumulator element lies. -/
def State.drainLoc (s : State) (m : MCmd) (md : ModDrain) (p : Nat × Nat) : Option Loc :=
  let c := drainAt (drainOrigin md m.src) p.1 p.2
  if md.glob then
    (let va := (descElem m.desc c none).1
     match (s.translate none (coreDie m.core) va true).2 with
     | .ok pa _ => some (.glob va pa)
     | _ => none)
  else some (.tile m.team.crew m.uidA (coord4 c) none)

/-- Whether an MDRAIN with add-on-store has written part of the tile, or of the 64-byte line, and not the rest: others that update
several of its elements stay out until it has (06 R130). -/
def State.drainInside (s : State) (m : MCmd) (uid crew : Nat) (line : Option Nat) : Bool :=
  match m.instr, m.drain with
  | .mdrain h md, some _ =>
    let cells := drainCells (s.drainShape m h md) (drainOrigin md m.src)
    let left := s.drainLeft m h md
    md.add &&
    (match line with
     | none => !md.glob && m.team.crew == crew && m.uidA == uid && !left.isEmpty && decide (left.length < cells.length)
     | some l =>
       let lineOf (p : Nat × Nat) : Nat := (descElem m.desc (drainAt (drainOrigin md m.src) p.1 p.2) none).1 / 64
       md.glob && left.any (fun p => lineOf p == l) && cells.any (fun p => lineOf p == l && !left.contains p))
  | _, _ => false

/-! ### Order of accesses (06 R118, R119; 03 R68, R70) -/

/-- Whether two accesses touch a common location: a 32-bit word of a tile (R117), or a byte of global memory. -/
def State.locOverlap (s : State) (a : Loc) (wa : Nat) (b : Loc) (wb : Nat) : Bool :=
  match a, b with
  | .tile k u c i, .tile k' u' c' i' => k == k' && u == u' && (match s.tileAt k u with
    | none => c == c' && i == i'
    | some t =>
      let x := t.bitAddr c i
      let y := t.bitAddr c' i'
      x.1 == y.1 && (wordsOf x.2 t.accWidth).any (fun w => (wordsOf y.2 t.accWidth).contains w))
  | .glob _ p, .glob _ q => decide (p < q + (wb + 7) / 8 ∧ q < p + (wa + 7) / 8)
  | _, _ => false

/-! ### Control blocks, list tables and appends (12 R273, 08 R181; 10 R237) -/

/-- The fields of a control block: appended, taken, inflight, S, L, items, cap, state and the last sixteen bytes. -/
structure WlBlock where
  appended : Nat
  taken : Nat
  inflight : Nat
  s : Nat
  lists : Nat
  items : Nat
  cap : Nat
  state : Nat
  rest : Nat
  deriving DecidableEq, Repr

def wlBlockOf (x : Nat) : WlBlock :=
  let f (off n : Nat) : Nat := x / 256 ^ off % 256 ^ n
  ⟨f 0 8, f 8 8, f 16 8, f 24 4, f 28 4, f 32 8, f 40 4, f 44 4, f 48 16⟩

/-- The checks of R181 on the fields as they stand. -/
def WlBlock.ok (b : WlBlock) : Bool :=
  decide (b.state / 2 = 0) && decide (1 ≤ b.lists ∧ b.lists ≤ 4096) && b.cap != 0 && b.items % 8 == 0 && b.rest == 0
def WlBlock.quiescent (b : WlBlock) : Bool := b.state % 2 == 1

/-- Address of the table entry of list i, and of item position n of list i. -/
def wlEntryAt (set i : Nat) : Nat := set + 64 + 16 * i
def WlBlock.itemAt (b : WlBlock) (i n : Nat) : Nat := b.items + 8 * (i * b.cap + n % b.cap)

/-- `n` bytes read at home by the compaction unit of a core's gang, through ordinary translation. -/
def State.wlRead (s : State) (core va n : Nat) : Option Nat :=
  match (s.translate none (coreDie core) va false).2 with
  | .ok pa e => if pteScm e || s.isDead pa n then none else some (s.physRead pa n)
  | _ => none

/-- Head and tail of a list. -/
def State.wlEntry (s : State) (core set i : Nat) : Option (Nat × Nat) :=
  (s.wlRead core (wlEntryAt set i) 16).map (fun x => (x % 2 ^ 64, x / 2 ^ 64))
/-- The core of an append. -/
def State.itemCore (s : State) (it : WlItem) : Nat := match s.teamAt it.team with | none => 4 * it.gang | some (c, _) => c.core
/-- Where the item of an append lies once it stands at a position: none while the control block cannot be read. -/
def State.itemLoc (s : State) (it : WlItem) (pos : Nat) : Option Loc :=
  match s.wlRead (s.itemCore it) it.set 64 with
  | none => none
  | some x =>
    let va := (wlBlockOf x).itemAt it.list pos
    match it.at_ with
    | some (pa, _) => some (.glob va pa)
    | none => match (s.translate none (coreDie (s.itemCore it)) va true).2 with
      | .ok pa _ => some (.glob va pa)
      | _ => none

/-- Whether an append may yet write the location: at its granted position, and anywhere in its list until the master has granted one. -/
def State.itemTouches (s : State) (it : WlItem) (l : Loc) (w : Nat) : Bool :=
  match it.pos, l with
  | some p, _ => (match s.itemLoc it p with | none => false | some x => s.locOverlap x 64 l w)
  | none, .glob va _ => (match s.wlRead (s.itemCore it) it.set 64 with
    | none => false
    | some x =>
      let b := wlBlockOf x
      decide (b.items + 8 * it.list * b.cap < va + (w + 7) / 8 ∧ va < b.items + 8 * (it.list + 1) * b.cap))
  | none, .tile _ _ _ _ => false

/-- Whether an MDRAIN is still to write the location, or, where a store is to follow it, to read it as residual. -/
def State.drainTouches (s : State) (m : MCmd) (store : Bool) (l : Loc) (w : Nat) : Bool :=
  match m.instr with
  | .mdrain h md =>
    let left := s.drainLeft m h md
    left.any (fun p => match s.drainLoc m md p with | none => false | some x => s.locOverlap x (elemWidth h.ty) l w) ||
    (store && md.residual && m.drain.isNone && left.any (fun p => s.locOverlap (.tile m.team.crew m.uidB (residAt m.src p) none) 32 l w))
  | _ => false

/-- An older outstanding access of the stream to a common location; an MDRAIN and the write of an append are accesses of the lane stream. -/
def State.olderOverlap (s : State) (r : TeamRef) (t : Team) (st : Stream) (ord : Nat) (store : Bool) (l : Loc) (w : Nat) : Bool :=
  t.pending.any (fun a => a.stream == st && decide (a.ord < ord) && s.locOverlap a.loc a.width l w) ||
  (st == .lane && (s.matrix.any (fun m => m.team == r && decide (m.ord < ord) && s.drainTouches m store l w) ||
    s.wlItems.any (fun i => i.team == r && decide (i.ord < ord) && s.itemTouches i l w)))

/-- No append and no matrix command of the team belongs to a clause below `uid`. -/
def State.clausesDone (s : State) (r : TeamRef) (uid : Nat) : Bool :=
  s.wlItems.all (fun i => i.team != r || decide (uid ≤ i.clause)) && s.matrix.all (fun m => m.team != r || decide (uid ≤ m.clause))

/-- The clauses before the last MPOP have retired and their accesses are performed: scalar accesses may go on (03 R68). -/
def State.mpopClear (s : State) (r : TeamRef) (t : Team) : Bool :=
  t.queue.all (fun c => decide (t.fenceUid ≤ c.uid)) && t.pending.all (fun a => a.stream == .scalar || decide (t.fenceUid ≤ a.clause)) &&
  s.clausesDone r t.fenceUid

/-- What comes before every access of a clause: the accesses of the clauses before its MPOP (03 R68), and the scalar stream's tile
stores before its LQ (03 R70). -/
def State.clauseFree (s : State) (r : TeamRef) (t : Team) (c : Clause) : Bool :=
  t.pending.all (fun b => match b.stream with
    | .lane => decide (c.fence ≤ b.clause)
    | .scalar => decide (c.ord ≤ b.ord) || (match b.loc with | .tile _ _ _ _ => false | .glob _ _ => true)) &&
  s.clausesDone r c.fence

/-- Outstanding accesses of a stream. -/
def Team.streamIdle (t : Team) (st : Stream) : Bool := t.pending.all (fun a => a.stream != st)

/-- Whether a write of the team is outstanding: a poisoned word may yet lose its poison before it is read (18 R353, R358). -/
def State.storesOut (s : State) (r : TeamRef) (t : Team) : Bool :=
  t.pending.any Access.isStore || s.matrix.any (fun m => m.team == r && (match m.instr with | .mdrain _ _ => true | _ => false))

/-! ### Stores that a load waits for (06 R124) -/

/-- Whether a store of the core to a global line is outstanding that does not follow, in its own team, access `ord` of team `r`: an
append's write is one when its position is granted. -/
def State.lineBusy (s : State) (core line : Nat) (r : TeamRef) (ord : Nat) : Bool :=
  (s.residents core).any (fun k => match s.crewAt k with
    | none => false
    | some c => c.teams.zipIdx.any (fun p => p.1.pending.any (fun a =>
        a.isStore && a.loc.line? == some line && !((⟨k, p.2⟩ : TeamRef) == r && decide (ord < a.ord))))) ||
  s.matrix.any (fun m => (match s.crewAt m.team.crew with | none => false | some c => c.place == some core) && !(m.team == r && decide (ord < m.ord)) &&
    (match m.instr with
     | .mdrain h md => md.glob && (s.drainLeft m h md).any (fun p => (match s.drainLoc m md p with | none => none | some l => l.line?) == some line)
     | _ => false)) ||
  s.wlItems.any (fun i => s.itemCore i == core && !(i.team == r && decide (ord < i.ord)) &&
    (match i.pos with | none => false | some p => (match s.itemLoc i p with | none => none | some l => l.line?) == some line))

/-! ### Outstanding loads (17 R342, 18 R353) -/

/-- Whether a team's load of one of the bytes is outstanding: its checks found no poison, so none comes before it is performed. -/
def State.loadsOut (s : State) (pa n : Nat) : Bool :=
  s.crews.any (fun c => c.teams.any (fun t => t.pending.any (fun a => match a.kind, a.loc with
    | .store _ _, _ => false
    | _, .glob _ p => decide (p < pa + n ∧ pa < p + a.width / 8)
    | _, .tile _ _ _ _ => false)))
/-- The same for a word of a tile. -/
def State.tileLoadsOut (s : State) (k u : Nat) (new : Bool) (word : Nat) : Bool :=
  s.crews.any (fun c => c.teams.any (fun t => t.pending.any (fun a => match a.kind, a.loc with
    | .store _ _, _ => false
    | _, .tile j v x i => j == k && v == u && (match s.tileAt k u with
      | none => false
      | some tl => (tl.bitAddr x i).1 == new && (wordsOf (tl.bitAddr x i).2 tl.accWidth).contains word)
    | _, .glob _ _ => false)))

/-! ### Freed tiles whose storage is still named (08 R171, R173) -/

/-- Whether a stream command or a command of an engine or a matrix queue keeps the footprint of a freed tile (08 R173). -/
def State.tileKept (s : State) (k : Nat) (c : Crew) (u : Nat) : Bool :=
  c.teams.any (fun t => t.scq.any (fun q => q.uid == u)) ||
  s.commands.any (fun m => m.crew == k && (m.suid == u || m.duid == u || m.guid == u)) ||
  s.matrix.any (fun m => m.team.crew == k && (m.uidA == u || m.uidB == u))

/-- Whether an access, a stream command, an engine command or a matrix command still names a tile. -/
def State.tileNamed (s : State) (k : Nat) (c : Crew) (u : Nat) : Bool :=
  s.tileKept k c u ||
  s.crews.any (fun d => d.teams.any (fun t => t.pending.any (fun a => match a.loc with | .tile j v _ _ => j == k && v == u | _ => false)))

/-- Freed tiles that no command names any longer release their footprint; those that nothing names are gone. -/
def State.sweepTiles (s : State) (k : Nat) : State :=
  s.modCrew k (fun c => { c with tiles := (c.tiles.filter (fun t => !t.freed || s.tileNamed k c t.uid)).map (fun t =>
    if t.freed && !s.tileKept k c t.uid then { t with released := true } else t) })

end Sys2Proof.Machine
end

