-- ==== Sys2Proof/Machine/Approx.lean ====
section
/-! DEFINITION. The seven approximated functions of 09 R201. The manual bounds their error and leaves the bits to the part
(R202): the model computes the exact value far beyond the bound, forms the results the bound permits, and lets the opaque
`Config.approxPick` choose among them. -/

namespace Sys2Proof.Machine

/-- Fraction bits of the fixed-point values in this file. -/
def fixBits : Nat := 640
def fixOne : Int := 2 ^ fixBits
def fixMul (a b : Int) : Int := a * b / fixOne

/-- Σ (±1)^i / ((2i+1) k^(2i+1)) in fixed point: arctan(1/k), or artanh(1/k) when `alt` is false. -/
def atanSeries (alt : Bool) (k : Int) : Nat → Int → Int → Int
  | 0, _, _ => 0
  | n + 1, i, t => (if alt && i % 2 == 1 then -(t / (2 * i + 1)) else t / (2 * i + 1)) + atanSeries alt k n (i + 1) (t / (k * k))

def fixPi : Int := 16 * atanSeries true 5 300 0 (fixOne / 5) - 4 * atanSeries true 239 100 0 (fixOne / 239)
def fixLn2 : Int := 2 * atanSeries false 3 300 0 (fixOne / 3)

/-- Σ x^i / i! from term i on, for |x| ≤ 8. -/
def expSeries (x : Int) : Nat → Int → Int → Int
  | 0, _, _ => 0
  | n + 1, i, t => t + expSeries x n (i + 1) (fixMul t x / (i + 1))

/-- Σ of the alternating series of sine (`i` = 1, t = x) or cosine (`i` = 0, t = 1). -/
def trigSeries (x : Int) : Nat → Int → Int → Int
  | 0, _, _ => 0
  | n + 1, i, t => t + trigSeries x n (i + 2) (-(fixMul (fixMul t x) x) / ((i + 1) * (i + 2)))

/-- 2^x of a fixed-point x, as a fixed-point mantissa in [1, 2) and an exponent. -/
def exp2Fix (x : Int) : Int × Int := (expSeries (fixMul (x % fixOne) fixLn2) 160 0 fixOne, x / fixOne)

/-- The fraction bits of log2 of a fixed-point mantissa in [1, 2), one squaring a bit. -/
def log2Bits : Nat → Int → Int → Int
  | 0, _, acc => acc
  | n + 1, m, acc =>
    let s := fixMul m m
    if 2 * fixOne ≤ s then log2Bits n (s / 2) (2 * acc + 1) else log2Bits n s (2 * acc)

/-- log2 of a positive fraction, in fixed point to 300 fraction bits. -/
def log2Fix (num den : Nat) : Int :=
  let e := ilog2 num den
  let (n, d) := scaleFrac num den (-e)
  e * fixOne + log2Bits 300 ((n : Int) * fixOne / d) 0 * 2 ^ (fixBits - 300)

/-- A fixed-point value divided by 2^k. -/
def fixShift (x k : Int) : Int := if 0 ≤ k then x * 2 ^ k.toNat else x / 2 ^ (-k).toNat

/-- A value of magnitude at most 1, and below 1: no sine, cosine, hyperbolic tangent or logistic value of a nonzero argument is 1. -/
def fixUnit (x : Int) : Int := max (-fixOne) (min x (fixOne - 1))

/-- The exact value of an approximated function at a finite argument, in fixed point; the opcodes are those of R201. -/
def approxExact (op : Nat) (neg : Bool) (num den : Nat) : Int :=
  let x : Int := (if neg then -1 else 1) * ((num : Int) * fixOne / den)
  match op with
  | 0x051 => (isqrt (den * 2 ^ (4 * fixBits) / num) : Int) / fixOne
  | 0x054 => let (m, e) := exp2Fix (max x (-(600 * fixOne))); fixShift m e
  | 0x055 => log2Fix num den
  | 0x056 => let r := x % (2 * fixPi); fixUnit (trigSeries (if r > fixPi then r - 2 * fixPi else r) 130 1 (if r > fixPi then r - 2 * fixPi else r))
  | 0x057 => let r := x % (2 * fixPi); fixUnit (trigSeries (if r > fixPi then r - 2 * fixPi else r) 130 0 fixOne)
  | 0x058 =>
    let y := min x (300 * fixOne)
    let (m, e) := exp2Fix (-(2 * y * fixOne / fixLn2))
    let t := fixShift m e
    fixUnit ((fixOne - t) * fixOne / (fixOne + t))
  | _ =>
    let y := max (min x (600 * fixOne)) (-(400 * fixOne))
    let (m, e) := exp2Fix (-(y * fixOne / fixLn2))
    max 0 (fixUnit (fixOne * fixOne / (fixOne + fixShift m e)))

/-- Fixed-point magnitude as a fraction. -/
def fixVal (x : Int) : FVal := .fin (decide (x < 0)) x.natAbs (2 ^ fixBits)

/-- The position of an encoding in the order of its values. -/
def ordinalF (f : Fmt) (x : Nat) : Int := if x.testBit (f.width - 1) then -((x % 2 ^ (f.width - 1) : Nat) : Int) else x
/-- The encoding at a position. Position 0 is +0: R201 gives no sign of a zero delivered at a nonzero argument (notes/assumptions/4.md). -/
def ofOrdinalF (f : Fmt) (k : Int) : Nat := if k < 0 then f.signBit true + k.natAbs else k.natAbs

/-- The encoding of the choice `pick` among the grid values between two fixed-point bounds. -/
def pickBetween (f : Fmt) (lo hi : Int) (pick : Nat) : Nat :=
  let a := ordinalF f (encodeF f .rup false (fixVal lo))
  let b := ordinalF f (encodeF f .rdn false (fixVal hi))
  if a ≤ b then ofOrdinalF f (a + (pick : Int) % (b - a + 1)) else encodeF f .rne false (fixVal lo)

/-- The permitted error of a function for .f32 at the exact value v with argument num/den (R201). -/
def approxBound (op : Nat) (v : Int) (num den : Nat) : Int :=
  let ulp := fixShift fixOne (quantum f32 (max v.natAbs 1) (2 ^ fixBits))
  match op with
  | 0x051 => ulp
  | 0x054 => if v < fixShift fixOne (-126) then 2 * fixShift fixOne (-149) else 2 * ulp
  | 0x055 => if den ≤ 2 * num ∧ num ≤ 2 * den then fixShift fixOne (-22) else 2 * ulp
  | 0x056 => fixShift fixOne (-21)
  | 0x057 => fixShift fixOne (-21)
  | _ => max (2 * ulp) (fixShift fixOne (-24))

/-- The range a result stays in, where R201 gives one. -/
def approxLimits (op : Nat) (lo hi : Int) : Int × Int :=
  match op with
  | 0x056 | 0x057 | 0x058 => (max lo (-fixOne), min hi fixOne)
  | 0x059 => (max lo 0, min hi fixOne)
  | _ => (lo, hi)

/-- The exact value of the function is a value of every format: FRSQ of a power of 4, and FSIGM of 0. -/
def approxOnGrid (op num den : Nat) : Bool :=
  let e := ilog2 num den
  let (n, d) := scaleFrac num den (-e)
  if op = 0x051 then n == d && e % 2 == 0 else num == 0

/-- The part's choice at a finite argument where no special value applies. -/
def approxFinite (op : Nat) (ty : BitVec 4) (pick : Nat) (neg : Bool) (num den : Nat) : Nat :=
  let f := fmtOf ty
  let v := approxExact op neg num den
  if ty == 8#4 then
    let b := approxBound op v num den
    let (lo, hi) := approxLimits op (v - b) (v + b)
    pickBetween f lo hi pick
  else if approxOnGrid op num den then encodeF f .rne false (fixVal v)
  else
    -- one of the two grid neighbours of the exact value (R201)
    let lo := ordinalF f (encodeF f .rdn false (fixVal v))
    let hi := ordinalF f (encodeF f .rup false (fixVal (v + 1)))
    ofOrdinalF f (lo + (pick : Int) % (hi - lo + 1))

/-- An approximated function of R201 on an element of .f32, .bf16 or .f16: the special values, the exact cases, and
otherwise the part's choice within the bound. -/
def approxF (op : Nat) (ty : BitVec 4) (x : Nat) : Nat :=
  let f := fmtOf ty
  let pick := Config.approxPick op ty.toNat (BitVec.ofNat 64 x)
  let one := encodeF f .rne false (intV 1)
  match decodeF f x with
  | .nan => f.nanBits
  | .inf neg =>
    match op with
    | 0x051 => if neg then f.nanBits else 0
    | 0x054 => if neg then 0 else infBits f false false
    | 0x055 => if neg then f.nanBits else infBits f false false
    | 0x056 | 0x057 => f.nanBits
    | 0x058 => f.signBit neg + one
    | _ => if neg then 0 else one
  | .fin neg n d =>
    match op with
    | 0x051 =>
      if n = 0 then infBits f false neg else if neg then f.nanBits else approxFinite op ty pick neg n d
    | 0x054 =>
      if n % d = 0 ∧ n / d ≤ f.bias + (if neg then f.fbits - 1 else 0) then
        encodeF f .rne false (scaleV (intV 1) ((if neg then -1 else 1) * ((n / d : Nat) : Int)))
      else if !neg && decide ((f.bias + 1) * d ≤ n) then infBits f false false
      else approxFinite op ty pick neg n d
    | 0x055 =>
      if n = 0 then infBits f false true else if neg then f.nanBits
      else
        let e := ilog2 n d
        let (n', d') := scaleFrac n d (-e)
        if n' = d' then encodeF f .rne false (intV e) else approxFinite op ty pick neg n d
    | 0x056 => if n = 0 then x else approxFinite op ty pick neg n d
    | 0x057 => if n = 0 then one else approxFinite op ty pick neg n d
    -- an odd function: the choice is made at |x|
    | 0x058 =>
      if n = 0 ∧ ty ≠ 8#4 then x else
      f.signBit neg ^^^ approxFinite op ty (Config.approxPick op ty.toNat (BitVec.ofNat 64 (x % 2 ^ (f.width - 1)))) false n d
    | _ => approxFinite op ty pick neg n d

end Sys2Proof.Machine
end

