-- ==== Sys2Proof/Machine/LaneInt.lean ====
section
/-! DEFINITION. Integer lane arithmetic, moves and lane numbers (09_lane_compute_isa R194 to R197, R207). -/

namespace Sys2Proof.Machine

/-- The three sources of a layout A instruction. -/
def srcs3 (h : LaneHead) (m : ModA) : List Src :=
  [srcOf h.s0 h.z0 h.b0 m.q0, srcOf h.s1 h.z1 h.b1 m.q1, srcOf h.s2 h.z2 h.b2 0#4]

/-- What source k of an instruction contributes to element i in lane l, of width w. -/
def Team.elem (t : Team) (p : Pops) (srcs : List Src) (k w : Nat) (sel : BitVec 5) (i l : Nat) : Nat :=
  srcElem w sel i (t.src p (srcs.getD k .zero) l)

/-- The retain field applied to a list of three sources. -/
def Team.keep (t : Team) (p : Pops) (h : LaneHead) (srcs : List Src) : Option (SMap 64) :=
  t.retained p (retainSrc h.retain (srcs.getD 0 .zero) (srcs.getD 1 .zero) (srcs.getD 2 .zero))

/-- An elementwise instruction of layout A with `n` sources: f on the elements that the sources contribute (09 R190). -/
def laneA (s : State) (h : LaneHead) (m : ModA) (n : Nat) (f : Nat → Nat → Nat → Nat) : Out :=
  let w := elemWidth h.ty
  let ss := srcs3 h m
  laneCompute s h (ss.take n) [h.dst.toNat] ownLane fun r _ t _ x =>
    let p := t.popped
    let v (l : Nat) := mapElems w m.dsel (t.vreg h.dst.toNat l)
      (fun i => f (t.elem p ss 0 w m.s0sel i l) (t.elem p ss 1 w m.s1sel i l) (t.elem p ss 2 w m.s2sel i l))
    s.putTeam r ((t.writeLanes h.dst.toNat x v).laneDone (t.keep p h ss))

/-- An integer instruction: the exact result of g on elements read as the type says, then reduced (04 R76). -/
def intA (s : State) (h : LaneHead) (m : ModA) (n : Nat) (g : Int → Int → Int → Int) : Out :=
  let w := elemWidth h.ty
  let sg := isSignedTy h.ty
  laneA s h m n (fun x y z => reduceInt sg h.md w (g (elemInt sg w x) (elemInt sg w y) (elemInt sg w z)))

/-- A compare: the predicate holds when the condition holds in all elements (09 R197, R199). -/
def laneCmp (s : State) (h : LaneHead) (m : ModA) (g : Nat → Nat → Bool) : Out :=
  let w := elemWidth h.ty
  let ss := srcs3 h m
  laneCompute s h (ss.take 2) [] ownLane fun r _ t _ x =>
    let p := t.popped
    let v := maskOf t.lanes (fun l => (elemSet w 0#5).all (fun i => g (t.elem p ss 0 w m.s0sel i l) (t.elem p ss 1 w m.s1sel i l)))
    s.putTeam r ((t.setPred (field h.dst 3 0).toNat x v).laneDone (t.keep p h ss))

/-- An integer compare in the signedness of the type. -/
def intCmp (s : State) (h : LaneHead) (m : ModA) (g : Int → Int → Bool) : Out :=
  let w := elemWidth h.ty
  let sg := isSignedTy h.ty
  laneCmp s h m (fun x y => g (elemInt sg w x) (elemInt sg w y))

/-- Number of one bits of a w-bit value. -/
def popCount (w x : Nat) : Nat := (List.range w).foldl (fun n i => if x.testBit i then n + 1 else n) 0
/-- Number of leading zero bits of a w-bit value. -/
def leadingZeros (w x : Nat) : Nat := if x = 0 then w else w - 1 - x.log2
/-- Bitwise complement within w bits. -/
def notBits (w x : Nat) : Nat := 2 ^ w - 1 - x % 2 ^ w
/-- The field descriptor of R195: position and length. -/
def bfPos (w f : Nat) : Nat := (f % 2 ^ (w / 2)) % w
def bfLen (w f : Nat) : Nat := min (f / 2 ^ (w / 2) % 2 ^ (w / 2)) (w - bfPos w f)
/-- IBFX (09 R195). -/
def bitExtract (signed : Bool) (w x f : Nat) : Nat :=
  let len := bfLen w f
  let r := x / 2 ^ bfPos w f % 2 ^ len
  if len = 0 then 0 else if signed && r.testBit (len - 1) then r + (2 ^ w - 2 ^ len) else r
/-- IBFI (09 R195). -/
def bitInsert (w x v f : Nat) : Nat :=
  let len := bfLen w f
  let pos := bfPos w f
  x - (x / 2 ^ pos % 2 ^ len) * 2 ^ pos + (v % 2 ^ len) * 2 ^ pos
/-- An arithmetic right shift of a w-bit value. -/
def sarBits (w x n : Nat) : Nat := wrapBits w (elemInt true w x / (2 ^ (min n w) : Nat))
/-- ISHL: exact, the amount bounded where every larger one gives the same reduction. -/
def shlInt (w : Nat) (x : Int) (n : Nat) : Int := x * (2 ^ (min n (2 * w)) : Nat)

def execIadd (h : LaneHead) (m : ModA) (s : State) : Out := intA s h m 2 (fun x y _ => x + y)
def execIsub (h : LaneHead) (m : ModA) (s : State) : Out := intA s h m 2 (fun x y _ => x - y)
def execImul (h : LaneHead) (m : ModA) (s : State) : Out := intA s h m 2 (fun x y _ => x * y)
def execImulh (h : LaneHead) (m : ModA) (s : State) : Out := intA s h m 2 (fun x y _ => x * y / (2 ^ elemWidth h.ty : Nat))
def execImad (h : LaneHead) (m : ModA) (s : State) : Out := intA s h m 3 (fun x y z => x * y + z)
def execIabs (h : LaneHead) (m : ModA) (s : State) : Out := intA s h m 1 (fun x _ _ => if x < 0 then -x else x)
def execIneg (h : LaneHead) (m : ModA) (s : State) : Out := intA s h m 1 (fun x _ _ => -x)
def execImin (h : LaneHead) (m : ModA) (s : State) : Out := intA s h m 2 (fun x y _ => if x ≤ y then x else y)
def execImax (h : LaneHead) (m : ModA) (s : State) : Out := intA s h m 2 (fun x y _ => if x ≤ y then y else x)
def execIand (h : LaneHead) (m : ModA) (s : State) : Out := laneA s h m 2 (fun x y _ => x &&& y)
def execIor (h : LaneHead) (m : ModA) (s : State) : Out := laneA s h m 2 (fun x y _ => x ||| y)
def execIxor (h : LaneHead) (m : ModA) (s : State) : Out := laneA s h m 2 (fun x y _ => x ^^^ y)
def execInot (h : LaneHead) (m : ModA) (s : State) : Out := laneA s h m 1 (fun x _ _ => notBits (elemWidth h.ty) x)
def execIshl (h : LaneHead) (m : ModA) (s : State) : Out :=
  let w := elemWidth h.ty
  let sg := isSignedTy h.ty
  laneA s h m 2 (fun x y _ => reduceInt sg h.md w (shlInt w (elemInt sg w x) y))
def execIshr (h : LaneHead) (m : ModA) (s : State) : Out := laneA s h m 2 (fun x y _ => x / 2 ^ (min y (elemWidth h.ty)))
def execIsar (h : LaneHead) (m : ModA) (s : State) : Out := laneA s h m 2 (fun x y _ => sarBits (elemWidth h.ty) x y)
def execIpopc (h : LaneHead) (m : ModA) (s : State) : Out := laneA s h m 1 (fun x _ _ => popCount (elemWidth h.ty) x)
def execIclz (h : LaneHead) (m : ModA) (s : State) : Out := laneA s h m 1 (fun x _ _ => leadingZeros (elemWidth h.ty) x)
def execIbfx (h : LaneHead) (m : ModA) (s : State) : Out := laneA s h m 2 (fun x f _ => bitExtract (isSignedTy h.ty) (elemWidth h.ty) x f)
def execIbfi (h : LaneHead) (m : ModA) (s : State) : Out := laneA s h m 3 (fun x v f => bitInsert (elemWidth h.ty) x v f)
def execIsel (h : LaneHead) (m : ModA) (s : State) : Out := laneA s h m 3 (fun x y z => if z = 0 then y else x)
/-- x in the type, y in the type of the other signedness (09 R196). -/
def mixedA (s : State) (h : LaneHead) (m : ModA) (g : Int → Int → Int) : Out :=
  let w := elemWidth h.ty
  let sg := isSignedTy h.ty
  laneA s h m 2 (fun x y _ => reduceInt sg h.md w (g (elemInt sg w x) (elemInt (!sg) w y)))
def execIadds (h : LaneHead) (m : ModA) (s : State) : Out := mixedA s h m (fun x y => x + y)
def execIsubs (h : LaneHead) (m : ModA) (s : State) : Out := mixedA s h m (fun x y => x - y)

/-- IDOT4 on whole registers: two 32-bit dot products of four bytes (09 R196). -/
def idot4Word (sg sat : Bool) (x y z : Word) : Word :=
  let r (i : Nat) : Nat := reduceInt sg sat 32 ((List.range 4).foldl
    (fun acc j => acc + elemInt sg 8 (getElem 8 (4 * i + j) x) * elemInt sg 8 (getElem 8 (4 * i + j) y)) (elemInt sg 32 (getElem 32 i z)))
  BitVec.ofNat 64 (r 0 + 2 ^ 32 * r 1)

def execIdot4 (h : LaneHead) (m : ModA) (s : State) : Out :=
  let ss := srcs3 h m
  laneCompute s h ss [h.dst.toNat] ownLane fun r _ t _ x =>
    let p := t.popped
    let v (l : Nat) := idot4Word (isSignedTy h.ty) h.md (t.src p (ss.getD 0 .zero) l) (t.src p (ss.getD 1 .zero) l) (t.src p (ss.getD 2 .zero) l)
    s.putTeam r ((t.writeLanes h.dst.toNat x v).laneDone (t.keep p h ss))

def execIcmpEq (h : LaneHead) (m : ModA) (s : State) : Out := intCmp s h m (fun x y => decide (x = y))
def execIcmpNe (h : LaneHead) (m : ModA) (s : State) : Out := intCmp s h m (fun x y => decide (x ≠ y))
def execIcmpLt (h : LaneHead) (m : ModA) (s : State) : Out := intCmp s h m (fun x y => decide (x < y))
def execIcmpLe (h : LaneHead) (m : ModA) (s : State) : Out := intCmp s h m (fun x y => decide (x ≤ y))
def execIcmpGt (h : LaneHead) (m : ModA) (s : State) : Out := intCmp s h m (fun x y => decide (x > y))
def execIcmpGe (h : LaneHead) (m : ModA) (s : State) : Out := intCmp s h m (fun x y => decide (x ≥ y))

/-! ### Moves and lane numbers (09 R207) -/

def execMov (h : LaneHead) (m : ModA) (s : State) : Out := laneA s h m 1 (fun x _ _ => x)

/-- The immediate as an element of the type. -/
def movImm (ty : BitVec 4) (imm : BitVec 32) : Nat :=
  if ty = 3#4 then (imm.signExtend 64).toNat else imm.toNat % 2 ^ elemWidth ty

/-- An instruction without sources: element i of the set in lane l is f l i. -/
def laneGen (s : State) (h : LaneHead) (sel : BitVec 5) (f : Nat → Nat → Nat) : Out :=
  let w := elemWidth h.ty
  laneFrame s h [] [h.dst.toNat] fun r _ t _ x =>
    s.putTeam r ((t.writeLanes h.dst.toNat x (fun l => mapElems w sel (t.vreg h.dst.toNat l) (f l))).laneDone none)

def execMovi (h : LaneHead) (imm : BitVec 32) (s : State) : Out := laneGen s h (h.s0.setWidth 5) (fun _ _ => movImm h.ty imm)
def execLidx (h : LaneHead) (m : ModA) (s : State) : Out :=
  let w := elemWidth h.ty
  laneGen s h m.dsel (fun l i => (l * (64 / w) + i) % 2 ^ w)

/-- LNOP makes its passes and does nothing (07 R152). -/
def execLnop (s : State) : Out :=
  withTeam s fun r _ t =>
    match t.queue with
    | [] => s
    | cl :: _ => if !cl.started || (!t.lwaits.isEmpty && t.restart.isNone) || decide (cl.count ≤ t.lidx) then s else s.putTeam r (t.laneDone none)

end Sys2Proof.Machine
end

