-- ==== Sys2Proof/Machine/LaneFloat.lean ====
section
/-! DEFINITION. Floating-point lane arithmetic, special functions, conversions, block planes and the Hadamard butterfly
(09_lane_compute_isa R198 to R210). -/

namespace Sys2Proof.Machine

/-- A floating-point instruction of layout A on bit patterns of the format. -/
def floatA (s : State) (h : LaneHead) (m : ModA) (n : Nat) (g : Fmt → RMode → Nat → Nat → Nat → Nat) : Out :=
  laneA s h m n (g (fmtOf h.ty) (rmodeOf m.rm))

def execFadd (h : LaneHead) (m : ModA) (s : State) : Out := floatA s h m 2 (fun f r x y _ => addF f r x y)
def execFsub (h : LaneHead) (m : ModA) (s : State) : Out := floatA s h m 2 (fun f r x y _ => subF f r x y)
def execFmul (h : LaneHead) (m : ModA) (s : State) : Out := floatA s h m 2 (fun f r x y _ => mulF f r x y)
def execFfma (h : LaneHead) (m : ModA) (s : State) : Out := floatA s h m 3 (fun f r x y z => fmaF f r x y z)
def execFmin (h : LaneHead) (m : ModA) (s : State) : Out := floatA s h m 2 (fun f _ x y _ => minmaxF f false x y)
def execFmax (h : LaneHead) (m : ModA) (s : State) : Out := floatA s h m 2 (fun f _ x y _ => minmaxF f true x y)
def execFabs (h : LaneHead) (m : ModA) (s : State) : Out := floatA s h m 1 (fun f _ x _ _ => x % 2 ^ (f.width - 1))
def execFneg (h : LaneHead) (m : ModA) (s : State) : Out := floatA s h m 1 (fun f _ x _ _ => x ^^^ 2 ^ (f.width - 1))

/-- A floating-point compare on values: g sees whether either is a NaN, less and equal (09 R199). -/
def floatCmp (s : State) (h : LaneHead) (m : ModA) (g : (nan lt eq : Bool) → Bool) : Out :=
  laneCmp s h m (fun x y =>
    let a := decodeF (fmtOf h.ty) x
    let b := decodeF (fmtOf h.ty) y
    g (isNanV a || isNanV b) (ltV a b) (eqV a b))

def execFcmpEq (h : LaneHead) (m : ModA) (s : State) : Out := floatCmp s h m (fun nan _ eq => !nan && eq)
def execFcmpNe (h : LaneHead) (m : ModA) (s : State) : Out := floatCmp s h m (fun nan _ eq => nan || !eq)
def execFcmpLt (h : LaneHead) (m : ModA) (s : State) : Out := floatCmp s h m (fun nan lt _ => !nan && lt)
def execFcmpLe (h : LaneHead) (m : ModA) (s : State) : Out := floatCmp s h m (fun nan lt eq => !nan && (lt || eq))
def execFcmpGt (h : LaneHead) (m : ModA) (s : State) : Out := floatCmp s h m (fun nan lt eq => !nan && !lt && !eq)
def execFcmpGe (h : LaneHead) (m : ModA) (s : State) : Out := floatCmp s h m (fun nan lt _ => !nan && !lt)
def execFcmpUn (h : LaneHead) (m : ModA) (s : State) : Out := floatCmp s h m (fun nan _ _ => nan)

/-- FSCALE (09 R200). -/
def scaleF (f : Fmt) (r : RMode) (x y : Nat) : Nat :=
  let n := elemInt true f.width y
  encodeF f r false (scaleV (decodeF f x) (max (-700) (min 700 n)))

def execFrcp (h : LaneHead) (m : ModA) (s : State) : Out :=
  floatA s h m 1 (fun f r x _ _ => encodeF f r false (divV (.fin false 1 1) (decodeF f x)))
def execFsqrt (h : LaneHead) (m : ModA) (s : State) : Out := floatA s h m 1 (fun f r x _ _ => encodeF f r false (sqrtV (decodeF f x)))
def execFdiv (h : LaneHead) (m : ModA) (s : State) : Out :=
  floatA s h m 2 (fun f r x y _ => encodeF f r false (divV (decodeF f x) (decodeF f y)))
def execFround (h : LaneHead) (m : ModA) (s : State) : Out := floatA s h m 1 (fun f r x _ _ => roundIntegralF f r x)
def execFclass (h : LaneHead) (m : ModA) (s : State) : Out := floatA s h m 1 (fun f _ x _ _ => classF f x)
def execFscale (h : LaneHead) (m : ModA) (s : State) : Out := floatA s h m 2 (fun f r x y _ => scaleF f r x y)

/-- One of the seven functions of R201, by lane opcode. -/
def approxA (s : State) (h : LaneHead) (m : ModA) (op : Nat) : Out := laneA s h m 1 (fun x _ _ => approxF op h.ty x)
def execFrsq (h : LaneHead) (m : ModA) (s : State) : Out := approxA s h m 0x051
def execFexp2 (h : LaneHead) (m : ModA) (s : State) : Out := approxA s h m 0x054
def execFlog2 (h : LaneHead) (m : ModA) (s : State) : Out := approxA s h m 0x055
def execFsin (h : LaneHead) (m : ModA) (s : State) : Out := approxA s h m 0x056
def execFcos (h : LaneHead) (m : ModA) (s : State) : Out := approxA s h m 0x057
def execFtanh (h : LaneHead) (m : ModA) (s : State) : Out := approxA s h m 0x058
def execFsigm (h : LaneHead) (m : ModA) (s : State) : Out := approxA s h m 0x059

/-! ### Conversions (09 R203 to R206) -/

def srcsC (h : LaneHead) (m : ModC) : List Src :=
  [srcOf h.s0 h.z0 h.b0 m.q0, srcOf h.s1 h.z1 h.b1 0#4, srcOf h.s2 h.z2 h.b2 0#4]

/-- The rounding mode of a conversion of destination element `col` in lane l: under RSX the bits of DMIX for the key of
R206. -/
def convMode (rm : BitVec 3) (key : Word) (step : BitVec 32) (l col : Nat) : RMode :=
  if rm = 4#3 then .rsx (dmixLow (key.extractLsb' 0 32) step (BitVec.ofNat 32 l) (BitVec.ofNat 32 col) (key.extractLsb' 32 32))
  else rmodeOf rm

/-- The frame of a conversion: `n` sources; f gives the register value of lane l from the old value, the source values and
the mode by destination element. -/
def laneC (s : State) (h : LaneHead) (m : ModC) (n : Nat) (f : Word → (Nat → Word) → (Nat → RMode) → Word) : Out :=
  let ss := srcsC h m
  laneCompute s h (ss.take n) [h.dst.toNat] ownLane fun r _ t cl x =>
    let p := t.popped
    let v (l : Nat) := f (t.vreg h.dst.toNat l) (fun k => t.src p (ss.getD k .zero) l)
      (convMode m.rm (t.src p (ss.getD 1 .zero) l) cl.step l)
    s.putTeam r ((t.writeLanes h.dst.toNat x v).laneDone (t.keep p h ss))

/-- Elements of a conversion: (destination element, value) pairs applied to a register value. -/
def putElems (w : Nat) (old : Word) (l : List (Nat × Nat)) : Word := l.foldl (fun acc p => putElem w p.1 acc p.2) old

def execCvt (h : LaneHead) (m : ModC) (s : State) : Out :=
  let wd := elemWidth h.ty
  let ws := elemWidth m.sty
  laneC s h m (if m.rm = 4#3 then 2 else 1) (fun old src mode =>
    let conv (j k : Nat) := (k, convertElem h.ty m.sty (mode k) h.md (getElem ws j (src 0)))
    putElems wd old (if m.s0sel = 0#5 then (List.range (min (64 / ws) (64 / wd))).map (fun j => conv j j)
      else [conv (selIndex m.s0sel) (selIndex m.dsel)]))

def execPack (h : LaneHead) (m : ModC) (s : State) : Out :=
  let wd := elemWidth h.ty
  let ws := elemWidth m.sty
  let es := 64 / ws
  let k := selIndex m.dsel
  let y := if m.rm = 4#3 then 2 else 1
  laneC s h m (y + 1) (fun old src mode =>
    let conv (i j d : Nat) := (d, convertElem h.ty m.sty (mode d) h.md (getElem ws j (src i)))
    putElems wd old ((List.range es).map (fun j => conv 0 j (k + j)) ++ (List.range es).map (fun j => conv y j (k + es + j))))

def execUnpk (h : LaneHead) (m : ModC) (s : State) : Out :=
  let wd := elemWidth h.ty
  let ws := elemWidth m.sty
  let k := selIndex m.s0sel
  laneC s h m (if m.rm = 4#3 then 2 else 1) (fun old src mode =>
    putElems wd old ((List.range (64 / wd)).map (fun j => (j, convertElem h.ty m.sty (mode j) h.md (getElem ws (k + j) (src 0))))))

/-! ### Block planes (09 R208, R209; 04 R77) -/

/-- The bands of a clause mask that have a pass. -/
def passBands (mask : Mask) (lanes : Nat) : List Nat := (List.range (lanes / 32)).filter (fun b => !(bandWord mask b == 0#32))

/-- The p + 1 words of a block quantised from 32 exact values (09 R208). -/
def quantBlock (p : Nat) (v : List FVal) : List Nat :=
  let mx : Int := 2 ^ (p - 1) - 1
  let bad := v.any (fun x => match x with | .fin _ _ _ => false | _ => true)
  let maxabs := v.foldl (fun a x => if ltV a (absV x) then absV x else a) (.fin false 0 1)
  let scale := if bad then f32.nanBits else encodeF f32 .rne false (divV maxabs (intV mx))
  let a (x : FVal) : Int :=
    if bad || scale = 0 then 0
    else match divV x (decodeF f32 scale) with
      | .fin neg n d => min (max (roundInt .rne neg n d) (-mx)) mx
      | _ => 0
  let bits := v.map (fun x => wrapBits p (a x))
  (List.range p).map (fun i => bits.zipIdx.foldl (fun w q => if q.1.testBit i then w + 2 ^ q.2 else w) 0) ++ [scale]

def execQbp (h : LaneHead) (m : ModP) (s : State) : Out :=
  let w := elemWidth h.ty
  let pl := m.p.toNat
  let s0 := srcOf h.s0 h.z0 h.b0 m.q0
  laneCompute s h [s0] [h.dst.toNat] execBlock fun r _ t cl x =>
    let p := t.popped
    let t' := (passBands cl.mask t.lanes).foldl (fun u b =>
      let vs := (List.range 32).map (fun j =>
        if x.getLsbD (32 * b + j) then decodeF (fmtOf h.ty) (getElem w (selIndex m.s0sel) (t.src p s0 (32 * b + j))) else .fin false 0 1)
      (quantBlock pl vs).zipIdx.foldl (fun u q =>
        u.setVreg h.dst.toNat (32 * b + q.2) (putElem 32 (selIndex m.dsel) (t.vreg h.dst.toNat (32 * b + q.2)) q.1)) u) t
    s.putTeam r (t'.laneDone (t.retained p (retainSrc h.retain s0 .zero .zero)))

/-- Element j of a block of p planes, as a p-bit two's complement integer (04 R77). -/
def blockElem (p : Nat) (word : Nat → Nat) (j : Nat) : Int :=
  elemInt true p ((List.range p).foldl (fun a i => if (word i).testBit j then a + 2 ^ i else a) 0)

def execDqbp (h : LaneHead) (m : ModP) (s : State) : Out :=
  let w := elemWidth h.ty
  let pl := m.p.toNat
  let s0 := srcOf h.s0 h.z0 h.b0 m.q0
  laneCompute s h [s0] [h.dst.toNat] (fun t x k l => (blockLanes t x k l).take (pl + 1)) fun r _ t _ x =>
    let p := t.popped
    let v (l : Nat) :=
      let word (i : Nat) := getElem 32 (selIndex m.s0sel) (t.src p s0 (l / 32 * 32 + i))
      putElem w (selIndex m.dsel) (t.vreg h.dst.toNat l)
        (encodeF (fmtOf h.ty) .rne false (mulV (intV (blockElem pl word (l % 32))) (decodeF f32 (word pl))))
    s.putTeam r ((t.writeLanes h.dst.toNat x v).laneDone (t.retained p (retainSrc h.retain s0 .zero .zero)))

/-! ### The Hadamard butterfly (09 R210) -/

/-- One stage over 32 values. -/
def hadStage (k : Nat) (y : List Nat) : List Nat :=
  (List.range y.length).map (fun j =>
    if j.testBit k then subF f32 .rne (y.getD (j - 2 ^ k) 0) (y.getD j 0) else addF f32 .rne (y.getD j 0) (y.getD (j + 2 ^ k) 0))
def hadamard (norm : Bool) (y : List Nat) : List Nat :=
  let z := (List.range 5).foldl (fun y k => hadStage k y) y
  if norm then z.map (fun v => mulF f32 .rne v 0x3E3504F3) else z

def execHad32 (h : LaneHead) (m : ModA) (s : State) : Out :=
  let s0 := srcOf h.s0 h.z0 h.b0 m.q0
  laneCompute s h [s0] [h.dst.toNat] execBlock fun r _ t cl x =>
    let p := t.popped
    let t' := (passBands cl.mask t.lanes).foldl (fun u b =>
      (elemSet 32 m.dsel).foldl (fun u e =>
        let y := hadamard h.md ((List.range 32).map (fun j =>
          if x.getLsbD (32 * b + j) then getElem 32 e (t.src p s0 (32 * b + j)) else negZero f32))
        y.zipIdx.foldl (fun u q =>
          if x.getLsbD (32 * b + q.2) then u.setVreg h.dst.toNat (32 * b + q.2) (putElem 32 e (u.vreg h.dst.toNat (32 * b + q.2)) q.1) else u) u) u) t
    s.putTeam r (t'.laneDone (t.retained p (retainSrc h.retain s0 .zero .zero)))

end Sys2Proof.Machine
end

