-- ==== Sys2Proof/Machine/ScalarMem.lean ====
section
/-! DEFINITION. Waits of the scalar stream, and SLD, SST, SLDF, SSTE and SATOM
(06_ordering R118 to R125, 08_scalar_isa R160, R164 to R166, 14_host_fabric R313 to R316, 18_instruction_faults R351). -/

namespace Sys2Proof.Machine

/-! ### Waits (02 R38, R41; 08 R160; 10 R227) -/

/-- The team's scalar stream begins to wait in `i` for at most 2^e core cycles. -/
def State.beginWait (s : State) (r : TeamRef) (i : Instr) (e : BitVec 5) (want : Option TagWant) : State :=
  { s.modTeam r (fun t => { t with swait := some ⟨i, if e = 31#5 then none else some (2 ^ e.toNat), s.nextWait, want, none, none⟩ }) with nextWait := s.nextWait + 1 }

/-- A waiting instruction: its whole effect if the condition holds, its timeout effect for e = 0, else the wait. -/
def State.waitOr (s : State) (r : TeamRef) (i : Instr) (e : BitVec 5) (want : Option TagWant) (att : Option State) (timeout : State) : State :=
  match att with
  | some s' => s'
  | none => if e = 0#5 then timeout else s.beginWait r i e want

/-- The tags of a word stand as a waiter wants them. -/
def State.tagHolds (s : State) (w : TagWant) : Bool :=
  match s.tileAt w.crew w.uid with
  | none => false
  | some t => if w.full then t.isFull w.c w.blk else t.isEmpty w.c w.blk

/-- Every waiter on words: when its wait began, and what it wants. -/
def State.tagWaiters (s : State) : List (Nat × TagWant) :=
  (s.crews.flatMap (fun c => c.teams.flatMap (fun t =>
    (match t.swait with | none => [] | some w => (w.want.map (fun x => (w.began, x))).toList) ++
    t.lwaits.filterMap (fun w => w.want.map (fun x => (w.began, x)))))) ++
  s.commands.filterMap (fun m => m.waiting)

/-- The drain port serves waiters in the order in which their waits began (10 R227): a waiter that began at `began` is
served when its condition holds and no earlier waiter on the word could be served. -/
def State.servable (s : State) (began : Nat) (w : TagWant) : Bool :=
  s.tagHolds w && s.tagWaiters.all (fun p => !(decide (p.1 < began) && s.locOverlap (.tile p.2.crew p.2.uid p.2.c p.2.blk) 0 (.tile w.crew w.uid w.c w.blk) 0 && s.tagHolds p.2))

/-- The condition of a waiter that began at `began` holds, and an earlier waiter whose condition holds too is to be served first:
the port has not tested this one yet, so its count cannot find the condition false (10 R227, 08 R160). -/
def State.heldBack (s : State) (began : Nat) (w : TagWant) : Bool := s.tagHolds w && !s.servable began w


/-! ### Faults of scalar accesses -/

/-- A trap at the scalar instruction; the crew notes the page size whose empty pool caused it (17 R345). -/
def State.scalarFault (s : State) (r : TeamRef) (cause : Nat) (z : Option Nat) : State :=
  (s.modTeam r (fun t => t.trapHere cause)).notePool r false z

/-- A tile element named by a scalar instruction of the given size, or the first cause (18 R351). -/
def scalarTile (c : Crew) (h : Handle) (x : Word) (w : Nat) : Except Nat (Tile × Coord) :=
  match c.tile h with
  | none => .error stBounds
  | some tl =>
    if tl.fmt = 14#4 || tl.width ≠ w then .error causeOperand
    else if tl.queue || !tl.inside (coordOf x) then .error stBounds
    else .ok (tl, coordOf x)

/-! ### Tether accesses (14 R313, R314) -/

def State.tetherLine (s : State) (va : Nat) : Nat := (va - s.span.base) / 64
def State.sliceCopy (s : State) (gang line : Nat) : Option SliceLine := s.slices.find? (fun x => x.gang == gang && x.line == line)
def State.putSlice (s : State) (x : SliceLine) : State := { s with slices := upsert (fun y => y.gang == x.gang && y.line == x.line) x s.slices }
def State.treqOf (s : State) (r : TeamRef) : Option TReq := s.treqs.find? (fun q => q.team == r)
def State.dropTreq (s : State) (r : TeamRef) : State := { s with treqs := s.treqs.filter (fun q => !(q.team == r)) }

/-- The scalar width of a size code of a flit's payload is not given by the manual: a request to another package carries
its fields in the model's own order (notes/assumptions/24.md). -/
def treqPayload (line gang : Nat) (k : TReqKind) : List Byte :=
  let code := match k with | .read => 0 | .own => 1 | .atomic _ _ _ _ _ => 2 | .claim => 3
  let (off, w, op, x, y) := match k with
    | .atomic off w op x y => (off, w, (encodeAtomOp op).toNat, x.toNat, y.toNat)
    | _ => (0, 0, 0, 0, 0)
  leBytes 8 line ++ leBytes 1 gang ++ leBytes 1 code ++ leBytes 1 off ++ leBytes 1 w ++ leBytes 1 op ++ leBytes 3 0 ++ leBytes 8 x ++ leBytes 8 y ++ leBytes 32 0

/-- A team's request to the home of a line is sent: a local one waits in `treqs`, one to another package leaves as a flit. -/
def State.sendTreq (s : State) (r : TeamRef) (gang line : Nat) (k : TReqKind) : State :=
  let q : TReq := { team := r, gang := gang, line := line, kind := k, tag := s.nextTag }
  let s1 := ({ s with treqs := s.treqs ++ [q], nextTag := s.nextTag + 1#32 }).count (gang / 12) 0x0F 1
  let home := line / 2 ^ 18
  if s.span.lost.contains home then { s1 with treqs := s1.treqs.map (fun (x : TReq) => if x.tag = q.tag then { x with st := .failed } else x) }
  else if home = s.span.index.toNat then s1 else s1.send 0x30 home q.tag (treqPayload line gang k)

/-- Requests that a store counter counts (06 R123). -/
def TReqKind.counted : TReqKind → Bool
  | .own | .atomic _ _ _ _ _ => true
  | .read | .claim => false

/-- A team's request is over: the home directory has acknowledged it, and the counter falls. -/
def State.endTreq (s : State) (r : TeamRef) (k : TReqKind) : State :=
  (s.dropTreq r).modTeam r (fun t => if k.counted then { t with sctr := t.sctr - 1#16 } else t)

/-- Lines of a gang's cache slice: 8 MiB (01 R11, R16). -/
def sliceLines : Nat := 131072

/-- Whether a gang's slice has room for a line when its copy comes, beside the lines that it holds and those that are on their way: which
line goes for it is not architectural (notes/assumptions/73.md). -/
def State.sliceRoom (s : State) (gang line : Nat) : Bool :=
  (s.sliceCopy gang line).isSome ||
  decide ((s.slices.filter (fun x => x.gang == gang)).length + (s.treqs.filter (fun q => q.gang == gang)).length < sliceLines)

/-- A team's request is issued and counted; one that would carry the counter past 65,535 waits, and so does one for a line that the slice
has no room for, until a replacement has made some. -/
def State.beginTreq (s : State) (r : TeamRef) (gang line : Nat) (k : TReqKind) : State :=
  match s.teamAt r with
  | none => s
  | some (_, t) =>
    if !s.sliceRoom gang line then s
    else if k.counted then (if t.sctr = 0xFFFF#16 then s else (s.putTeam r { t with sctr := t.sctr + 1#16 }).sendTreq r gang line k)
    else s.sendTreq r gang line k

/-- A Tether access that has failed: a trap, unless a lane fault has stopped the team already: then the access is not executed, and
fails again at restart (17 R342). -/
def State.tetherFault (s : State) (r : TeamRef) (cause : Nat) : State :=
  match s.teamAt r with
  | none => s
  | some (_, t) => if t.faulted then s else s.scalarFault r cause none

/-- trap.pc of a team that a lane fault has stopped names the first scalar instruction not executed, also after the scalar stream has
finished an access that was under way (17 R342). -/
def State.followPc (s : State) (r : TeamRef) : State := s.modTeam r (fun t => if t.faulted then { t with trapPc := t.pc.setWidth 56 } else t)

/-- A Tether access of a team: `hit` answers the effect on the slice's copy where it can be performed there. -/
def State.tetherAccess (s : State) (r : TeamRef) (gang line : Nat) (k : TReqKind) (hit : Option SliceLine → Option State)
    (answer : Word → State → State) : State :=
  match s.treqOf r with
  | some q =>
    (match q.st with
     | .waiting => s
     | .refused => (s.endTreq r k).tetherFault r stOwnerLost
     | .failed => (s.endTreq r k).tetherFault r stUncorrectable
     | .answered old => (answer old (s.endTreq r k)).followPc r
     | .granted => match hit (s.sliceCopy gang line) with
       | some s1 => (s1.endTreq r k).followPc r
       | none => (s.dropTreq r).sendTreq r gang line k)
  | none => match hit (s.sliceCopy gang line) with
    | some s1 => s1
    | none => s.beginTreq r gang line k

def lineBytes (d : BitVec 512) (off n : Nat) : Nat := (d.toNat / 256 ^ off) % 256 ^ n

/-! ### SLD and SST (08 R164) -/

def execSld (d a : SReg) (z : ScalarSize) (sp : ScalarSpace) (s : State) : Out :=
  withTeam s fun r c t =>
    let n := sizeBytes z
    if !s.mpopClear r t then s
    else match sp with
    | .glob off =>
      let va := scalarAddr t a off
      if va % n ≠ 0 then s.scalarFault r causeAlignment none
      else if s.inTether va then
        s.tetherAccess r (coreGang c.core) (s.tetherLine va) .read
          (fun x => x.map (fun l => s.putTeam r (t.result d (extendBy z (lineBytes l.value (va % 64) n)) 8))) (fun _ s => s)
      else match s.globCheck c.core va n false true with
        | (s1, .error e, pz) => if e = stPoison && s.storesOut r t then s else s1.scalarFault r e pz
        | (s1, .ok (pa, _), _) =>
          if s.olderOverlap r t .scalar t.nextOrd false (.glob va pa) (8 * n) then s1
          else match s1.l1Load (s1.lineBusy c.core (pa / 64) r t.nextOrd) c.core pa n with
            | .error _ => s1
            | .ok (s2, v) => s2.putTeam r (t.result d (extendBy z v) 8)
    | .tile h =>
      match scalarTile c h (t.sreg a) (8 * n) with
      | .error e => s.scalarFault r e none
      | .ok (tl, x) =>
        if s.olderOverlap r t .scalar t.nextOrd false (.tile r.crew tl.uid x none) (8 * n) then s
        else if tl.poisoned x none then s.scalarFault r stPoison none
        else s.putTeam r (t.result d (extendBy z (tl.read x none)) 8)

/-- A store issued by the scalar stream: it is outstanding, and its counter has risen (06 R123). -/
def Team.issueStore (t : Team) (l : Loc) (w : Nat) (v : Word) : Team :=
  { t with pending := t.pending ++ [{ ord := t.nextOrd, req := t.nextOrd, stream := .scalar, clause := 0, lane := 0, loc := l, width := w, kind := .store v t.stepNow }], nextOrd := t.nextOrd + 1, sctr := t.sctr + 1#16 }

def execSst (d a : SReg) (z : ScalarSize) (sp : ScalarSpace) (s : State) : Out :=
  withTeam s fun r c t =>
    let n := sizeBytes z
    if !s.mpopClear r t || (t.sctr == 0xFFFF#16 && (s.treqOf r).isNone) then s
    else match sp with
    | .glob off =>
      let va := scalarAddr t a off
      if va % n ≠ 0 then s.scalarFault r causeAlignment none
      else if s.inTether va then
        s.tetherAccess r (coreGang c.core) (s.tetherLine va) .own
          (fun x => match x with
            | none => none
            | some l => if l.st == .s then none
              else some ((s.putTeam r (t.advance 8)).putSlice { l with st := .m, value := patchLine l.value (va % 64) n (t.sreg d).toNat })) (fun _ s => s)
      else match s.globCheck c.core va n true false with
        | (s1, .error e, pz) => if e = stPoison && s.storesOut r t then s else s1.scalarFault r e pz
        | (s1, .ok (pa, _), _) => s1.putTeam r ((t.issueStore (.glob va pa) (8 * n) (t.sreg d)).advance 8)
    | .tile h =>
      match scalarTile c h (t.sreg a) (8 * n) with
      | .error e => s.scalarFault r e none
      | .ok (tl, x) => s.putTeam r ((t.issueStore (.tile r.crew tl.uid x none) (8 * n) (t.sreg d)).advance 8)

/-! ### SLDF and SSTE (08 R165) -/

/-- The tile element of a tagged scalar access, or the first cause. -/
def taggedTile (c : Crew) (h : Handle) (x : Word) (w : Nat) : Except Nat (Tile × Coord) :=
  match scalarTile c h x w with
  | .error e => .error (match c.tile h with
      | none => e
      | some tl => if tl.fmt ≠ 14#4 && tl.width == w && !tl.tags then (firstCause [e, causeTag]).getD e else e)
  | .ok (tl, x) => if tl.tags then .ok (tl, x) else .error causeTag

/-- A wait that has begun stands on the tile that the handle named then: a handle freed or given to another tile since
leaves it waiting (17 R337: no wait traps). -/
def Team.sameWait (t : Team) (uid : Nat) : Bool :=
  match t.swait with
  | none => true
  | some w => match w.want with
    | none => true
    | some x => x.uid == uid

/-- What an access cause makes of an attempt: a trap before the wait has begun, nothing while it lasts. -/
def State.attemptFault (s : State) (r : TeamRef) (t : Team) (e : Nat) : Option State :=
  if t.swait.isSome then none else some (s.scalarFault r e none)

/-- SLDF's whole effect, when the port can serve it; the stream's earlier stores to the element have been performed before it
begins. -/
def attemptSldf (d a b : SReg) (z : ScalarSize) (h : Handle) (consume : Bool) (s : State) (r : TeamRef) (c : Crew) (t : Team) : Option State :=
  match taggedTile c h (t.sreg a) (8 * sizeBytes z) with
  | .error e => s.attemptFault r t e
  | .ok (tl, x) =>
    if t.sameWait tl.uid && s.servable (s.scalarBegan t) ⟨r.crew, tl.uid, x, true, none⟩ then
      (if tl.poisoned x none then some (s.scalarFault r stPoison none)
       else
         let t' := { (t.setSreg d (extendBy z (tl.read x none))).status b stOk 8 with swait := none }
         some ((if consume then s.tileTag r.crew tl.uid x false else s).putTeam r t'))
    else none

/-- SSTE's whole effect: a release, so the stream's earlier accesses come first (06 R125). -/
def attemptSste (d a b : SReg) (z : ScalarSize) (h : Handle) (s : State) (r : TeamRef) (c : Crew) (t : Team) : Option State :=
  match taggedTile c h (t.sreg a) (8 * sizeBytes z) with
  | .error e => s.attemptFault r t e
  | .ok (tl, x) =>
    if t.sameWait tl.uid && s.servable (s.scalarBegan t) ⟨r.crew, tl.uid, x, false, none⟩ && t.streamIdle .scalar then
      match s.tileWrite r.crew tl.uid x none (t.sreg d).toNat t.stepNow true with
      | .error _ => none
      | .ok s1 => some (s1.modTeam r (fun t => { t.status b stOk 8 with swait := none }))
    else none

/-- The timeout effect of a wait whose one result is a status register. -/
def statusTimeout (s : State) (r : TeamRef) (d : SReg) (n : Nat) : State :=
  s.modTeam r (fun t => { t.status d stTimeout n with swait := none })

def execSldf (d a b : SReg) (z : ScalarSize) (h : Handle) (e : BitVec 5) (consume : Bool) (s : State) : Out :=
  withTeam s fun r c t =>
    if !s.mpopClear r t then s
    else match taggedTile c h (t.sreg a) (8 * sizeBytes z) with
    | .error x => s.scalarFault r x none
    | .ok (tl, x) =>
      let want : TagWant := ⟨r.crew, tl.uid, x, true, none⟩
      if s.olderOverlap r t .scalar t.nextOrd false (.tile r.crew tl.uid x none) (8 * sizeBytes z) then s
      else if e = 0#5 && s.heldBack (s.scalarBegan t) want then s
      else s.waitOr r (.sldf d a b z h e consume) e (some want) (attemptSldf d a b z h consume s r c t) (statusTimeout s r b 8)

/-- The stream's earlier accesses come first: until they have been performed, SSTE has not begun. Nor has it while its condition
holds and the store is held (by an MMA, by Comet, by an earlier waiter): its e counts towards the condition alone (08 R160). A
store counter at 65,535 is a hold (06 R123). -/
def execSste (d a b : SReg) (z : ScalarSize) (h : Handle) (e : BitVec 5) (s : State) : Out :=
  withTeam s fun r c t =>
    if !s.mpopClear r t || t.sctr == 0xFFFF#16 then s
    else match taggedTile c h (t.sreg a) (8 * sizeBytes z) with
    | .error x => s.scalarFault r x none
    | .ok (tl, x) =>
      let want : TagWant := ⟨r.crew, tl.uid, x, false, none⟩
      if !t.streamIdle .scalar then s
      else match attemptSste d a b z h s r c t with
        | some s1 => s1
        | none => if s.tagHolds want then s else s.waitOr r (.sste d a b z h e) e (some want) none (statusTimeout s r b 8)

/-! ### SATOM (08 R166) -/

/-- The new element of an atomic operation at width w (08 R166). -/
def atomNew (op : AtomOp) (w old operand cmp : Nat) : Nat :=
  let x := operand % 2 ^ w
  let so := elemInt true w old
  let sx := elemInt true w x
  match op with
  | .add => (old + x) % 2 ^ w
  | .fadd => addF f32 .rne old x
  | .min => if so ≤ sx then old else x
  | .max => if so ≤ sx then x else old
  | .minn => if old ≤ x then old else x
  | .maxn => if old ≤ x then x else old
  | .and => old &&& x
  | .or => old ||| x
  | .xor => old ^^^ x
  | .swap => x
  | .cas => if old = cmp % 2 ^ w then x else old
  | .fmin => minmaxF f32 false old x
  | .fmax => minmaxF f32 true old x

def isFloatOp : AtomOp → Bool
  | .fadd | .fmin | .fmax => true
  | _ => false

/-- An atomic update of a global element at its home slice; the core's L1 copy of the line goes (06 R124). -/
def State.globAtom (s : State) (core va pa n : Nat) (op : AtomOp) (x cmp : Word) (step : BitVec 32) : Except Stop (State × Nat) :=
  let old := s.physRead pa n
  match s.pageMerge va pa (match s.rangeOf va with | none => 0#64 | some g => s.pte g va) step n 0 (8 * n) (fun o => atomNew op (8 * n) o x.toNat cmp.toNat) with
  | .error e => .error e
  | .ok s1 => .ok ((s1.l1DropLine core (pa / 64)).countRequest (coreDie core) pa true, old)

/-- The stream waits for old, and for its earlier stores to the location; the update is acknowledged as old returns, so the counter
rises and falls in one step, and one that stands at 65,535 is a hold (06 R123). -/
def execSatom (d a b : SReg) (z : ScalarSize) (op : AtomOp) (sp : AtomSpace) (s : State) : Out :=
  withTeam s fun r c t =>
    let n := sizeBytes z
    if !s.mpopClear r t || (t.sctr == 0xFFFF#16 && (s.treqOf r).isNone) then s
    else match sp with
    | .glob =>
      let va := (t.sreg a).toNat
      if va % n ≠ 0 then s.scalarFault r causeAlignment none
      else if s.inTether va then
        s.tetherAccess r (coreGang c.core) (s.tetherLine va) (.atomic (va % 64) (8 * n) op (t.sreg b) (t.sreg d)) (fun _ => none)
          (fun old s => s.modTeam r (fun t => t.result d (extendBy z old.toNat) 8))
      else match s.globCheck c.core va n true true with
        | (s1, .error e, pz) => if e = stPoison && s.storesOut r t then s else s1.scalarFault r e pz
        | (s1, .ok (pa, _), _) =>
          if s.olderOverlap r t .scalar t.nextOrd true (.glob va pa) (8 * n) then s1
          else match s1.globAtom c.core va pa n op (t.sreg b) (t.sreg d) t.stepNow with
            | .error _ => s1
            | .ok (s2, old) => s2.putTeam r (t.result d (extendBy z old) 8)
    | .tile h =>
      match scalarTile c h (t.sreg a) (8 * n) with
      | .error e => s.scalarFault r (match c.tile h with | none => e | some tl => if isFloatOp op && tl.fmt ≠ 8#4 then causeOperand else e) none
      | .ok (tl, x) =>
        if isFloatOp op && tl.fmt ≠ 8#4 then s.scalarFault r causeOperand none
        else if s.olderOverlap r t .scalar t.nextOrd true (.tile r.crew tl.uid x none) (8 * n) then s
        else if tl.poisoned x none then s.scalarFault r stPoison none
        else
          let old := tl.read x none
          match s.tileUpdate r.crew tl.uid x none (fun o => atomNew op (8 * n) o (t.sreg b).toNat (t.sreg d).toNat) t.stepNow false with
          | .error _ => s
          | .ok s1 => s1.modTeam r (fun t => t.result d (extendBy z old) 8)

end Sys2Proof.Machine
end

