-- ==== Sys2Proof/Machine/Streams.lean ====
section
/-! DEFINITION. LQ and the life of a clause, stream commands and QCLOSE, and the encodings and fetches that fail
(03_two_streams R53, R54, R57, R58, R60 to R64; 08_scalar_isa R169 to R172; 18_instruction_faults R347 to R351). -/

namespace Sys2Proof.Machine

/-! ### LQ (03 R53; 07 R143; 18 R350) -/

/-- The clause address that LQ names. -/
def lqAddr (l : Option Launch) (off : BitVec 20) : Nat :=
  (BitVec.ofNat 64 (match l with | none => 0 | some x => recLentry x.record) + 4#64 * off.signExtend 64).toNat

/-- The page size code of the pool whose emptiness keeps an address untranslated (14 R307). -/
def State.emptyPool (s : State) (die va : Nat) : Option Nat :=
  match (s.translate none die va false).2 with
  | .empty z => some z
  | _ => none

/-- The same for a fetch of words from `va` to `va + last`, which fails at the first word without translation. -/
def State.fetchPool (s : State) (die va last : Nat) : Option Nat :=
  if s.wouldTranslate die va false then s.emptyPool die (va + last) else s.emptyPool die va

/-- The clause entry that a header makes: the active mask, the holdings, the step. -/
def Team.newClause (t : Team) (addr : Nat) (hd : ClauseHeader) : Clause :=
  { uid := t.nextClause, addr := addr, mask := t.mask 0#3, count := hd.count.toNat, wait := hd.wait, setA := hd.setA, setB := hd.setB
    holds := headerHolds hd.setA hd.setB, step := t.stepNow, ord := t.nextOrd, fence := t.fenceUid, started := false }

/-- The lane queue with a clause appended. -/
def Team.append (t : Team) (c : Clause) : Team :=
  { t with queue := t.queue ++ [c], nextClause := t.nextClause + 1, nextOrd := t.nextOrd + 1 }

/-- Whether the words of a header that can be fetched leave it well formed: a malformed one is ENCODING, whatever the fetch of the
words behind it meets (18 R347, R350). -/
def State.headerFits (s : State) (core addr : Nat) : Bool :=
  match (s.fetchWords core addr 2).2, (s.fetchWords core addr 1).2 with
  | .ok ws, _ => (decodeHeader (ws.getD 0 0#32) (ws.getD 1 0#32) 0#32).toOption.isSome
  | .error _, .ok ws => (decodeHeader (ws.getD 0 0#32) 0#32 0#32).toOption.isSome
  | .error _, .error _ => true

def execLq (off : BitVec 20) (s : State) : Out :=
  withTeam s fun r c t =>
    if 16 ≤ t.queue.length then s
    else
      let addr := lqAddr (s.launchOf c) off
      match s.fetchWords c.core addr 3 with
      | (s1, .error f) => if !s.headerFits c.core addr then s1.scalarFault r causeEncoding none else s1.scalarFault r (fetchCause f) (if f = .translation then s.fetchPool (coreDie c.core) addr 8 else none)
      | (s1, .ok ws) =>
        match decodeHeader (ws.getD 0 0#32) (ws.getD 1 0#32) (ws.getD 2 0#32) with
        | .error _ => s1.scalarFault r causeEncoding none
        | .ok hd => s1.putTeam r ((t.append (t.newClause addr hd)).advance 4)

/-! ### The life of a clause (03 R54, R57, R58) -/

/-- The clause at the head starts once no flag of its wait mask is held by an earlier clause. -/
def execClauseStart (r : TeamRef) (s : State) : Out :=
  .next (match s.teamAt r with
    | none => s
    | some (c, t) => match t.queue with
      | [] => s
      | cl :: rest =>
        if s.crewRuns c && !t.faulted && !cl.started && !t.waitBlocked cl.uid cl.wait then
          s.putTeam r { t with queue := { cl with started := true } :: rest, lidx := 0, obuf := none, taken := [] }
        else s)

/-- A clause whose instructions have all made their passes leaves the lane queue. -/
def execClauseRetire (r : TeamRef) (s : State) : Out :=
  .next (match s.teamAt r with
    | none => s
    | some (c, t) => match t.queue with
      | [] => s
      | cl :: rest =>
        if s.crewStops c && !t.faulted && cl.started && decide (cl.count ≤ t.lidx) && t.lwaits.isEmpty then
          s.putTeam r { t with queue := rest, retired := t.retired ++ [cl], lidx := 0, obuf := none, taken := [] }
        else s)

/-- Whether a long-latency operation of a clause is outstanding: an access, an append, a matrix command. -/
def State.clauseBusy (s : State) (r : TeamRef) (t : Team) (uid : Nat) : Bool :=
  t.clausePending uid || t.slots.any (fun w => w.clause == uid) || s.wlItems.any (fun i => i.team == r && i.clause == uid) || s.matrix.any (fun m => m.team == r && m.clause == uid)

/-- A retired clause whose long-latency operations have completed is complete: its VOTEs have written (R67) and its holdings end. -/
def execClauseComplete (r : TeamRef) (uid : Nat) (s : State) : Out :=
  .next (match s.teamAt r with
    | none => s
    | some (_, t) =>
      if t.retired.any (fun c => c.uid == uid) && !s.clauseBusy r t uid then
        (s.putTeam r { t.landClause uid with retired := t.retired.filter (fun c => !(c.uid == uid)) }).settle r.crew
      else s)

/-! ### STRM and QLD (03 R62, R63; 08 R170, R171) -/

/-- Counts c0 to c3 of a STRM. -/
def StreamCmd.counts (k : StreamCmd) : List Nat := (List.range 4).map (fun i => getElem 16 i k.r1)
/-- The counts before the first zero count. -/
def leadCounts : List Nat → List Nat
  | [] => []
  | c :: rest => if c = 0 then [] else c :: leadCounts rest
/-- Whether c0 is nonzero and no nonzero count follows a zero count. -/
def countsOk (l : List Nat) : Bool := decide (0 < (leadCounts l).length) && (l.drop (leadCounts l).length).all (· == 0)

/-- The sum B + Σ d_k·t_k in steps of one field of width w at element i. -/
def strmField (w i j : Nat) (b : Word) (ct : List (Nat × Word)) : Nat :=
  (ct.foldl (fun (p : Nat × Nat) x => (p.1 + (p.2 % x.1) * getElem w i x.2, p.2 / x.1)) (getElem w i b, j)).1 % 2 ^ w

/-- x_j of R63. -/
def StreamCmd.elem (k : StreamCmd) (j : Nat) : Word :=
  let ct := (leadCounts k.counts).zip [k.r2, k.r3, k.t2, k.t3]
  if k.kind = 0 then BitVec.ofNat 64 (strmField 64 0 j k.r0 ct)
  else BitVec.ofNat 64 ((List.range 4).foldl (fun a i => a + strmField 16 i j k.r0 ct * 2 ^ (16 * i)) 0)

/-- x_i of R171 for lane l of vector v. -/
def StreamCmd.qldCoord (k : StreamCmd) (l v : Nat) : Coord :=
  let f (i : Nat) : Nat := (getElem 16 i k.r1 + l * getElem 16 i k.r2 + v * getElem 16 i k.r3) % 2 ^ 16
  ⟨f 0, f 1, f 2, f 3⟩

/-- Elements of a stream command, and its vectors for a team of `lanes` lanes. -/
def StreamCmd.total (k : StreamCmd) : Nat := prod (leadCounts k.counts)
def StreamCmd.vectors (k : StreamCmd) (lanes : Nat) : Nat := if k.kind = 2 then getElem 16 1 k.r0 else ceilDiv k.total lanes

/-- A stream command as the registers at issue make it. -/
def Team.streamCmd (t : Team) (kind q : Nat) (a : SReg) (t2 t3 : Word) (uid : Nat) : StreamCmd :=
  { kind := kind, q := q, r0 := t.sregK a 0, r1 := t.sregK a 1, r2 := t.sregK a 2, r3 := t.sregK a 3, t2 := t2, t3 := t3, uid := uid, sent := 0, ord := t.nextOrd }
def Team.enqueue (t : Team) (k : StreamCmd) : Team := { t with scq := t.scq ++ [k], nextOrd := t.nextOrd + 1 }

/-- Whether a STRM's descriptor group is within R170. -/
def StreamCmd.strmOk (k : StreamCmd) (b : SReg) : Bool := countsOk k.counts && (getElem 16 2 k.r1 != 0 || b == 0#6)

/-- STRM in mode `kind`: captured at issue; a full stream command queue is a hold. -/
def strm (kind : Nat) (q : BitVec 3) (a b : SReg) (s : State) : Out :=
  withTeam s fun r _ t =>
    let two := getElem 16 2 (t.sregK a 1) != 0
    let k := t.streamCmd kind q.toNat a (if two then t.sregK b 0 else 0#64) (if two then t.sregK b 1 else 0#64) 0
    if !k.strmOk b then s.scalarFault r causeOperand none
    else if 8 ≤ t.scq.length then s
    else s.putTeam r ((t.enqueue k).advance 4)

def execStrmD (q : BitVec 3) (a b : SReg) (s : State) : Out := strm 0 q a b s
def execStrmC4 (q : BitVec 3) (a b : SReg) (s : State) : Out := strm 1 q a b s

/-- Whether every element that a QLD names lies in the tile's shape (18 R351). -/
def StreamCmd.qldInside (k : StreamCmd) (tl : Tile) (lanes : Nat) : Bool :=
  (List.range (k.vectors lanes)).all fun v => (List.range lanes).all fun l => (List.range (64 / tl.width)).all fun j =>
    tl.inside ((k.qldCoord l v).plus1 j)

/-- The first cause of a QLD, or the captured tile. -/
def qldTile (c : Crew) (k : StreamCmd) (lanes : Nat) : Except Nat Tile :=
  if getElem 8 1 k.r0 ≠ 0 ∨ getElem 32 1 k.r0 ≠ 0 ∨ getElem 16 1 k.r0 = 0 then .error causeOperand
  else match c.tile (BitVec.ofNat 8 (getElem 8 0 k.r0)) with
    | none => .error stBounds
    | some tl =>
      if tl.queue || tl.fmt == 14#4 then .error causeOperand
      else if k.qldInside tl lanes then .ok tl else .error stBounds

def execQld (q : BitVec 3) (a : SReg) (s : State) : Out :=
  withTeam s fun r c t =>
    match qldTile c (t.streamCmd 2 q.toNat a 0#64 0#64 0) t.lanes with
    | .error e => s.scalarFault r e none
    | .ok tl =>
      if 8 ≤ t.scq.length then s
      else s.putTeam r ((t.enqueue (t.streamCmd 2 q.toNat a 0#64 0#64 tl.uid)).advance 4)

/-! ### Delivery (03 R60 to R63, 06 R120) -/

/-- The 64 bits that lane l of the command's vector v receives, with the number of free values they use: an element that
is poisoned has no value (18 R358), one outside the shape reads zero. -/
def State.qldValue (s : State) (k : StreamCmd) (tl : Tile) (l v : Nat) : Word :=
  let w := tl.width
  let c := k.qldCoord l v
  BitVec.ofNat 64 ((List.range (64 / w)).foldl (fun a j =>
    let x := c.plus1 j
    let e := if !tl.inside x then 0 else if tl.poisoned x none then getElem w j (Config.freeValue (s.free + l)) else tl.read x none
    a + e * 2 ^ (w * j)) 0)

/-- Whether an earlier scalar store to an element that the entry reads is outstanding. -/
def State.qldWaits (s : State) (r : TeamRef) (t : Team) (k : StreamCmd) (tl : Tile) (ls : List Nat) (v : Nat) : Bool :=
  ls.any fun l => (List.range (64 / tl.width)).any fun j =>
    s.olderOverlap r t .scalar k.ord false (.tile r.crew tl.uid ((k.qldCoord l v).plus1 j) none) tl.width

/-- One band entry of stream command number `k`, where its queue has room: the commands are served in issue order, one at a time
(03 R62), also while its crew is being stopped, so that a clause in progress ends (17 R345, 19 R363). The 32 elements of an entry are read in one step (notes/assumptions/59.md). -/
def execStreamDeliver (r : TeamRef) (k : Nat) (s : State) : Out :=
  .next (match s.teamAt r with
    | none => s
    | some (c, t) => match t.scq[k]? with
      | none => s
      | some q =>
        let v := q.sent / t.bands
        let ls := (List.range 32).map (fun i => 32 * (q.sent % t.bands) + i)
        if !s.crewStops c || k != 0 || decide (8 ≤ (t.queues.getD q.q []).length) then s
        else
          let tile := c.tileUid q.uid
          if q.kind = 2 && (match tile with | none => false | some tl => s.qldWaits r t q tl ls v) then s
          else
            let val (l : Nat) : Word :=
              if q.kind = 2 then (match tile with | none => 0#64 | some tl => s.qldValue q tl l v)
              else if v * t.lanes + l < q.total then q.elem (v * t.lanes + l) else 0#64
            let e : Band := BitVec.ofNat 2048 (ls.foldl (fun a l => a + (val l).toNat * 2 ^ (64 * (l % 32))) 0)
            let q' := { q with sent := q.sent + 1 }
            let done := decide (q.vectors t.lanes * t.bands ≤ q'.sent)
            let t' := { t with queues := t.queues.set q.q (t.queues.getD q.q [] ++ [e])
                               scq := if done then t.scq.eraseIdx k else t.scq.set k q' }
            let s1 := { s.putTeam r t' with free := s.free + t.lanes }
            if done then s1.sweepTiles r.crew else s1)

/-- QCLOSE waits for the clauses appended before it to retire, then cancels the queue's commands and empties it. -/
def execQclose (q : BitVec 3) (s : State) : Out :=
  withTeam s fun r _ t =>
    if !t.allRetired then s
    else (s.putTeam r ({ t with scq := t.scq.filter (fun k => k.q != q.toNat), queues := t.queues.set q.toNat [] }.advance 4)).sweepTiles r.crew

/-! ### Encodings and fetches that fail (18 R347 to R351) -/

/-- The lanes that the instruction at lidx would have executed in: its guard is read where its second word can be fetched. -/
def State.wouldExecute (s : State) (c : Crew) (t : Team) (cl : Clause) : Mask :=
  match (s.fetchWords c.core (cl.addr + 16 + 12 * t.lidx) 1).2 with
  | .ok ws => t.executing cl.mask (decodeHead 0#32 (ws.getD 0 0#32))
  | .error _ => if t.restart.isSome then t.lfm else cl.mask

/-- A fault of the lane instruction at lidx before it has any effect: it pops no queue and fixes no set X. Under an empty clause
mask it has no effect but for its retain field (18 R348, R352). -/
def State.laneFetchFault (s : State) (r : TeamRef) (c : Crew) (t : Team) (cause : Nat) (z : Option Nat) : State :=
  match t.queue with
  | [] => s
  | cl :: _ =>
    if !cl.started || (!t.lwaits.isEmpty && t.restart.isNone) || decide (cl.count ≤ t.lidx) then s
    else if cl.mask = 0#1024 then
      s.putTeam r (t.laneDone (match (s.fetchWords c.core (cl.addr + 16 + 12 * t.lidx) 1).2 with
        | .ok ws => if (decodeHead 0#32 (ws.getD 0 0#32)).retain = 0#2 then none else some []
        | .error _ => none))
    else
      let x := s.wouldExecute c t cl
      (s.putTeam r (t.laneFault cause (wholeLanes x cl.mask) none cl.addr)).notePool r false z

def execUnassignedEncoding (st : Stream) (s : State) : Out :=
  withTeam s fun r c t =>
    match st with
    | .scalar => s.scalarFault r causeEncoding none
    | .lane => s.laneFetchFault r c t causeEncoding none

def execInstructionFetchFault (st : Stream) (why : FetchFault) (at_ : BitVec 64) (s : State) : Out :=
  withTeam s fun r c t =>
    let z := if why = .translation then s.fetchPool (coreDie c.core) at_.toNat (match st with | .scalar => 4 | .lane => 8) else none
    match st with
    | .scalar => (s.putTeam r (t.trap (fetchCause why) 0 at_)).notePool r false z
    | .lane => s.laneFetchFault r c t (fetchCause why) z

end Sys2Proof.Machine
end

