-- ==== Sys2Proof/Machine/TileOps.lean ====
section
/-! DEFINITION. Tiles, handles and bindings; layout conversions; ZFILL; gates (05_tiles_memory R93 to R95, R102 to R104,
R109, R112 to R115; 08_scalar_isa R173 to R175; 12_engines R269, R272; 18_instruction_faults R351, R360, R361). -/

namespace Sys2Proof.Machine

/-- A status written, and the move past a tile or gate instruction. -/
def State.tileStatus (s : State) (r : TeamRef) (d : SReg) (code : Nat) : State := s.modTeam r (fun t => t.status d code 8)

/-! ### TALLOC, TFREE, TDESC (05 R93 to R95, R115; 08 R173) -/

/-- Whether `grans` more granules fit the crew's core (05 R94). -/
def State.granulesFit (s : State) (core grans : Nat) : Bool := decide (s.coreGranules core + grans ≤ Config.coreGranules)

/-- TALLOC's status. -/
def State.tallocCode (s : State) (c : Crew) (h : Handle) (x y : Word) : Nat :=
  let d1 : BitVec 32 := field y 31 0
  if (c.tile h).isSome || !tileDescOk x d1 then stBounds
  else if s.granulesFit c.core (mkTile c.nextUid h x d1 false).granules then stOk else stBounds

def execTalloc (d a b : SReg) (h : Handle) (s : State) : Out :=
  withTeam s fun r c t =>
    let x := t.sreg a
    let y := t.sreg b
    let code := s.tallocCode c h x y
    let s1 := if code = stOk then
        s.modCrew r.crew (fun c => { c with tiles := c.tiles ++ [mkTile c.nextUid h x (field y 31 0) false], nextUid := c.nextUid + 1, tableErr := c.tableErr.filter (fun k => k != h.toNat) })
      else s
    s1.tileStatus r d code

/-- The crew after TFREE of a tile: the handle is free; stream commands keep the values the tile has now (08 R171). -/
def Crew.freeTile (c : Crew) (tl : Tile) : Crew :=
  let u := tl.uid
  let c1 := c.putTile { tl with freed := true }
  if c.teams.any (fun t => t.scq.any (fun q => q.uid == u)) then
    { c1 with tiles := c1.tiles ++ [{ tl with uid := c.nextUid, freed := true, copyOf := u }], nextUid := c.nextUid + 1
              teams := c1.teams.map (fun t => { t with scq := t.scq.map (fun q => if q.uid = u then { q with uid := c.nextUid } else q) }) }
  else c1

/-- TFREE waits for an MMA that holds a word of the tile (11 R244); on a free handle it does nothing. -/
def execTfree (h : Handle) (s : State) : Out :=
  withTeam s fun r c t =>
    match c.tile h with
    | none => s.putTeam r (t.advance 8)
    | some tl =>
      if s.tileHeld r.crew tl.uid then s
      else ((s.putTeam r (t.advance 8)).modCrew r.crew (fun c => c.freeTile tl)).sweepTiles r.crew

def execTdesc (d : SReg) (h : Handle) (s : State) : Out :=
  withTeam s fun r c t =>
    let (x, y) := match c.tile h with
      | none => (0#64, 0#64)
      | some tl => (tl.d0, tl.d1)
    s.putTeam r (((t.setSreg d x).setSreg (d + 1#6) y).advance 8)

/-! ### LAYOUT, LWAIT and the layout engine (05 R112, R113; 12 R272) -/

/-- The tag a LAYOUT names is not valid for the tile (18 R351). -/
def layoutBad (tl : Tile) (tag : BitVec 4) : Bool :=
  tl.queue || decide (10 ≤ tag.toNat) || !layoutOk tl.fmt tag.toNat || (tl.tags && decide (tl.width < 32)) ||
  (tl.fmt == 14#4 && tag != tl.layout)

def execLayout (d : SReg) (h : Handle) (tag : BitVec 4) (s : State) : Out :=
  withTeam s fun r c _ =>
    match c.tile h with
    | none => s.tileStatus r d stBounds
    | some tl =>
      if layoutBad tl tag then s.tileStatus r d stBounds
      else if tl.conv.isSome then s
      else if tag = tl.layout then s.tileStatus r d stOk
      else if s.granulesFit c.core (ceilDiv (tl.shapeAs tag.toNat).size 4096) then
        ({ s.putTile r.crew { tl with conv := some { target := tag, done := 0, order := s.nextConv } } with nextConv := s.nextConv + 1 }).tileStatus r d stOk
      else s.tileStatus r d stBounds

def execLwait (h : Handle) (s : State) : Out :=
  withTeam s fun r c t =>
    match c.tile h with
    | none => s.putTeam r (t.advance 8)
    | some tl => if tl.conv.isSome then s else s.putTeam r (t.advance 8)

/-- Orders of the conversions under way on a core. -/
def State.convOrders (s : State) (core : Nat) : List Nat :=
  (s.residents core).flatMap (fun k => match s.crewAt k with
    | none => []
    | some c => (c.tiles.filter (fun t => !t.freed)).filterMap (fun t => t.conv.map (·.order)))

/-- The layout engine of the crew's core converts the next block of the tile whose LAYOUT is the oldest there. -/
def execLayoutBlockConvert (crew : Nat) (h : Handle) (s : State) : Out :=
  .next (match s.crewAt crew with
    | none => s
    | some c => match c.place, c.tile h with
      | some core, some tl => match tl.conv with
        | none => s
        | some v => if (s.convOrders core).all (fun o => decide (v.order ≤ o)) then s.putTile crew tl.convertBlock else s
      | _, _ => s)

/-! ### GBIND (05 R109; 18 R351, R360) -/

def execGbind (d a : SReg) (g : BitVec 6) (s : State) : Out :=
  withTeam s fun r c t =>
    let va := (t.sreg a).toNat
    if va % 64 ≠ 0 then s.tileStatus r d stBounds
    else match s.globCheck c.core va 64 false true with
      | (s1, .error e, z) => if e = stTranslation then s1.tileStatus r d stTranslation else if e = stPoison && s.storesOut r t then s else s1.scalarFault r e z
      | (s1, .ok (pa, _), _) =>
        if s1.olderOverlap r t .scalar t.nextOrd false (.glob va pa) 512 then s1
        else match s1.l1Load (s1.lineBusy c.core (pa / 64) r t.nextOrd) c.core pa 64 with
          | .error _ => s1
          | .ok (s2, v) =>
            let desc : BitVec 512 := BitVec.ofNat 512 v
            if descOk desc then (s2.modCrew r.crew (fun c => { c with globals := cellSet c.globals g.toNat desc, tableErr := c.tableErr.filter (fun k => k != 256 + g.toNat) })).tileStatus r d stOk
            else s2.tileStatus r d stBounds

/-! ### ZFILL (08 R174) -/

/-- A tile with every element zero, every tag empty and the buffer step recorded. -/
def Tile.zeroed (t : Tile) (step : BitVec 32) : Tile :=
  { t with words := [], full := [], poison := [], conv := t.conv.map (fun v => { v with words := [], full := [], poison := [] }), bstep := step }

/-- Comet's hook for every 4 KiB block of a tracked tile that is zeroed (12 R276). -/
def State.preserveTile (s : State) (k : Nat) (cr : Crew) (t : Tile) (step : BitVec 32) : List Nat → Except Stop State
  | [] => .ok s
  | j :: rest =>
    let g := Granule.tile k t.uid j
    let data := (List.range 1024).flatMap (fun i => leBytes 4 (cellGet t.words (1024 * j + i)).toNat)
    match s.preserve g ⟨g, cr.launchId, cr.crewId, t.handle, t.layout, data, t.poison.filter (fun w => w / 1024 == j)⟩ step with
    | .error x => .error x
    | .ok s1 => (s1.alsoPreserved g step 0 4096 0 32768 (fun _ => 0)).preserveTile k cr t step rest

/-- The pages of [va, stop) as (virtual address, device-physical address, bytes, entry), each bound where first touch can;
none where one does not translate, is read-only, or is an SCM page under a handle with scm = 0. A page whose entry is lost counts with the
lost bytes of its entry. -/
def State.fillPieces (s : State) (die : Nat) (scm : Bool) : Nat → Nat → Nat → State × Option (List (Nat × Nat × Nat × Word))
  | 0, _, _ => (s, some [])
  | fuel + 1, va, stop =>
    if stop ≤ va then (s, some [])
    else match s.rangeOf va, s.translate none die va true with
      | some g, (s1, .ok pa e) =>
        if pteScm e && !scm then (s1, none)
        else
          let n := min stop (g.base + ((va - g.base) / pageSize g.z + 1) * pageSize g.z) - va
          match s1.fillPieces die scm fuel (va + n) stop with
          | (s2, none) => (s2, none)
          | (s2, some l) => (s2, some ((va, pa, n, e) :: l))
      | some g, (s1, .lost) =>
        (match s1.fillPieces die scm fuel (g.base + ((va - g.base) / pageSize g.z + 1) * pageSize g.z) stop with
         | (s2, none) => (s2, none)
         | (s2, some l) => (s2, some ((va, g.entryAddr va, 8, 0#64) :: l)))
      | _, (s1, _) => (s1, none)

/-- The oldest accepted line of a die drains to its SCM stack (12 R278). -/
def State.drainLine (s : State) (die : Nat) : State :=
  match s.ballast.find? (fun b => paDie b.addr == die) with
  | none => s
  | some b => { s with mem := writeLE s.mem b.addr 64 b.data.toNat, ballast := s.ballast.eraseP (fun b => paDie b.addr == die) }

/-- `n` lines of SCM zeroed from the line `pa`: a full queue drains a line first. -/
def State.zeroScm (s : State) (pa stop : Nat) : Nat → State
  | 0 => s
  | n + 1 =>
    let line := pa / 64 * 64
    let m := min stop (line + 64) - pa
    let s1 := if s.ballastRoom (paDie pa) then s else s.drainLine (paDie pa)
    (({ s1 with ballast := s1.ballast ++ [BLine.mk line (patchLine (s1.lineData line) (pa % 64) m 0)] }).clearPoison pa m).zeroScm (pa + m) stop n

/-- Bytes zeroed at their points, the buffer step of their lines recorded, the core's L1 copies of them dropped. -/
def State.zeroPiece (s : State) (core : Nat) (step : BitVec 32) (p : Nat × Nat × Nat × Word) : State :=
  let (_, pa, n, _) := p
  let s1 := if isScm pa then s.zeroScm pa (pa + n) (n / 64 + 2) else { s with mem := cellErase s.mem pa n }.clearPoison pa n
  { s1 with lineStep := (List.range (n / 64 + 1)).foldl (fun m i => if 64 * i < n then cellSet m (pa / 64 + i) step else m) s1.lineStep
            l1 := s1.l1.filter (fun x => !(x.core == core && decide (pa / 64 ≤ x.line ∧ 64 * x.line < pa + n))) }

/-- Comet's hook for the granules of a tracked page piece. -/
def State.preservePiece (s : State) (step : BitVec 32) (p : Nat × Nat × Nat × Word) : Except Stop State :=
  let (va, pa, n, e) := p
  if !pteTracked e then .ok s
  else (List.range (n / 4096 + 1)).foldl (fun acc i =>
    match acc with
    | .error x => .error x
    | .ok s =>
      let q := pa / 4096 * 4096 + 4096 * i
      if pa + n ≤ q then .ok s
      else
        let g := Granule.page q (va / 4096 * 4096 + 4096 * i)
        match s.preserve g ⟨g, 0#32, 0#32, 0#8, 0#4, s.granuleBytes q, s.poison.filter (fun w => decide (w / 1024 = q / 4096))⟩ step with
        | .error x => .error x
        | .ok s1 =>
          let k := min (pa + n) (q + 4096) - max pa q
          .ok (s1.alsoPreserved g step (max pa q - q) k 0 (8 * k) (fun _ => 0))) (.ok s)

/-- Comet's hook for every piece, in order. -/
def State.preservePieces (s : State) (step : BitVec 32) : List (Nat × Nat × Nat × Word) → Except Stop State
  | [] => .ok s
  | p :: rest => match s.preservePiece step p with
    | .error x => .error x
    | .ok s1 => s1.preservePieces step rest

/-- Whether an earlier access of the scalar stream to the tile, or to the bytes of the pieces, is outstanding (06 R118). -/
def Team.fillWaits (t : Team) (crew uid : Nat) (ps : List (Nat × Nat × Nat × Word)) : Bool :=
  t.pending.any (fun a => a.stream == .scalar && (match a.loc with
    | .tile k u _ _ => k == crew && u == uid
    | .glob _ p => ps.any (fun q => decide (p < q.2.1 + q.2.2.1 ∧ q.2.1 < p + a.width / 8))))

def execZfill (d a : SReg) (tgt : FillTarget) (s : State) : Out :=
  withTeam s fun r c t =>
    let step : BitVec 32 := field (t.sreg a) 31 0
    match tgt with
    | .tile h =>
      match c.tile h with
      | none => s.tileStatus r d stBounds
      | some tl =>
        if tl.queue then s.tileStatus r d stBounds
        else if s.tileHeld r.crew tl.uid || t.fillWaits r.crew tl.uid [] then s
        else if tl.tracked && s.tracked c then
          match s.preserveTile r.crew c tl t.stepNow (List.range (ceilDiv tl.shape.size 4096)) with
          | .error _ => s
          | .ok s1 => (s1.putTile r.crew (tl.zeroed step)).tileStatus r d stOk
        else (s.putTile r.crew (tl.zeroed step)).tileStatus r d stOk
    | .tensor g =>
      let desc := cellGet c.globals g.toNat
      if desc = 0#512 then s.tileStatus r d stBounds
      else
        let size := (descShape desc).size
        match s.fillPieces (coreDie c.core) (descScm desc) (size / 2 ^ 16 + 2) (descBase desc) (descBase desc + size) with
        | (s1, none) => s1.tileStatus r d stTranslation
        | (s1, some ps) =>
          if ps.any (fun p => s1.isDead p.2.1 p.2.2.1) then s1.scalarFault r stUncorrectable none
          else if (ps.any (fun p => isScm p.2.1) && s1.powerLoss.isSome) || t.fillWaits r.crew 0 ps then s1
          else match s1.preservePieces t.stepNow ps with
            | .error _ => s1
            | .ok s2 => (ps.foldl (fun s p => s.zeroPiece c.core step p) s2).tileStatus r d stOk

/-! ### Gates (05 R102 to R104; 08 R175) -/

/-- The gate element that an instruction names, or the first cause (18 R351). -/
def gateTile (c : Crew) (h : Handle) (x : Word) : Except Nat (Tile × Coord) :=
  match c.tile h with
  | none => .error stBounds
  | some tl =>
    if tl.fmt ≠ 3#4 ∧ tl.fmt ≠ 7#4 then .error causeOperand
    else if !tl.inside (coordOf x) then .error stBounds
    else if !tl.tags then .error causeTag
    else .ok (tl, coordOf x)

/-- A gate update that has advanced the phase, or a GINIT that has replaced it, wakes every waiter on the gate: each has then seen that phase (05 R103, R104). -/
def State.gateWake (s : State) (k uid : Nat) (x : Coord) (old new : Nat) : State :=
  if old = new then s
  else s.modCrew k (fun c => { c with teams := c.teams.map (fun t => { t with swait := t.swait.map (fun w => match w.instr with
    | .gwait _ _ b _ _ => if w.gate == some (uid, x) && w.woken.isNone && new != getElem 16 0 (t.sreg b) then { w with woken := some new } else w
    | _ => w) }) })

/-- A gate update (05 R103) at its point, with the waiters it wakes. -/
def State.gateStep (s : State) (k uid : Nat) (x : Coord) (arrivals add sub : Nat) (step : BitVec 32) : Except Stop State :=
  match s.tileAt k uid with
  | none => .ok s
  | some t =>
    let g := BitVec.ofNat 64 (t.read x none)
    (s.gateApply k uid x (fun g => gateUpdate g arrivals add sub) step).map (fun s1 => s1.gateWake k uid x (gatePhase g) (gatePhase (gateUpdate g arrivals add sub)))

/-- A gate instruction's update of its gate, with the value the gate held before: a release that reads the gate when `rel`. -/
def gateOp (s : State) (h : Handle) (a : SReg) (rel : Bool) (f : TeamRef → Team → Tile → Coord → Except Stop State)
    (fin : Word → Tile → Coord → TeamRef → State → State) : Out :=
  withTeam s fun r c t =>
    match gateTile c h (t.sreg a) with
    | .error e => s.scalarFault r e none
    | .ok (tl, x) =>
      if (rel && !t.streamIdle .scalar) || s.olderOverlap r t .scalar t.nextOrd true (.tile r.crew tl.uid x none) 64 then s
      else if rel && tl.poisoned x none then s.scalarFault r stPoison none
      else match f r t tl x with
        | .error _ => s
        | .ok s1 => fin (BitVec.ofNat 64 (tl.read x none)) tl x r s1

def execGinit (a b : SReg) (h : Handle) (s : State) : Out :=
  gateOp s h a false (fun r t tl x => (s.gateApply r.crew tl.uid x (fun _ => t.sreg b) t.stepNow).map (fun s1 =>
    s1.gateWake r.crew tl.uid x (gatePhase (BitVec.ofNat 64 (tl.read x none))) (gatePhase (t.sreg b)))) (fun _ tl x r s => (s.tileTag r.crew tl.uid x true).modTeam r (fun t => t.advance 8))
def execGarrive (d a : SReg) (h : Handle) (s : State) : Out :=
  gateOp s h a true (fun r t tl x => s.gateStep r.crew tl.uid x 1 0 0 t.stepNow) (fun g _ _ r s => s.modTeam r (fun t => t.result d (BitVec.ofNat 64 (gatePhase g)) 8))
def execGexpect (a b : SReg) (h : Handle) (s : State) : Out :=
  gateOp s h a true (fun r t tl x => s.gateStep r.crew tl.uid x 0 (min (t.sreg b).toNat 65535) 0 t.stepNow) (fun _ _ _ r s => s.modTeam r (fun t => t.advance 8))

/-- GWAIT's effect at a phase that differs from the token (05 R104). -/
def gwaitAt (d b : SReg) (s : State) (r : TeamRef) (t : Team) (phase : Nat) : Option State :=
  let dist := (phase + 2 ^ 16 - getElem 16 0 (t.sreg b)) % 2 ^ 16
  if dist = 0 then none
  else some (s.modTeam r (fun t => { t.status d (if dist = 1 then stOk else stStalePhase) 8 with swait := none }))

/-- GWAIT's effect: before the wait has begun, by the gate's phase; a wait ends by the gate update that has woken it. -/
def attemptGwait (d a b : SReg) (h : Handle) (s : State) (r : TeamRef) (c : Crew) (t : Team) : Option State :=
  match t.swait with
  | some w => w.woken.bind (gwaitAt d b s r t)
  | none => match gateTile c h (t.sreg a) with
    | .error e => some (s.scalarFault r e none)
    | .ok (tl, x) =>
      if tl.poisoned x none then some (s.scalarFault r stPoison none)
      else gwaitAt d b s r t (gatePhase (BitVec.ofNat 64 (tl.read x none)))

def execGwait (d a b : SReg) (h : Handle) (e : BitVec 5) (s : State) : Out :=
  withTeam s fun r c t =>
    match gateTile c h (t.sreg a) with
    | .error x => s.scalarFault r x none
    | .ok (tl, x) =>
      if s.olderOverlap r t .scalar t.nextOrd false (.tile r.crew tl.uid x none) 64 then s
      else match attemptGwait d a b h s r c t with
        | some s1 => s1
        | none => if e = 0#5 then statusTimeout s r d 8
          else (s.beginWait r (.gwait d a b h e) e none).modTeam r (fun t => { t with swait := t.swait.map (fun w => { w with gate := some (tl.uid, x) }) })

end Sys2Proof.Machine
end

