-- ==== Sys2Proof/Machine/Engine.lean ====
section
/-! DEFINITION. Copy windows and engine commands: their words, their checks, the movement of their elements, reduce-stores,
span reductions, signals, and the waits on them (06_ordering R125 to R132, 08_scalar_isa R176 to R180, 12_engines R261 to
R271, 18_instruction_faults R357 to R360). -/

namespace Sys2Proof.Machine

/-! ### Windows (12 R261) and command words (12 R262) -/

def winO (w : BitVec 256) : List Nat :=
  [(w.extractLsb' 0 32).toNat, (w.extractLsb' 32 32).toNat] ++ (List.range 4).map (fun i => (w.extractLsb' (64 + 16 * i) 16).toNat)
def winE (w : BitVec 256) : List Nat := (List.range 6).map (fun i => (w.extractLsb' (128 + 16 * i) 16).toNat)
/-- Whether a window can be applied (18 R349). -/
def winOk (w : BitVec 256) (tile : Bool) : Bool :=
  (winE w).all (fun e => e != 0) && (w.extractLsb' 224 32) == 0#32 &&
  (!tile || ((winO w).all (fun o => decide (o ≤ 65535)) && (winO w).getD 4 0 == 0 && (winO w).getD 5 0 == 0 && (winE w).getD 4 0 == 1 && (winE w).getD 5 0 == 1))

def Command.bits (m : Command) (i lo n : Nat) : Nat := (m.words.extractLsb' (64 * i + lo) n).toNat
def Command.srcH (m : Command) : Nat := m.bits 0 0 8
def Command.srcG (m : Command) : Bool := m.bits 0 8 1 == 1
def Command.dstH (m : Command) : Nat := m.bits 0 9 8
def Command.dstG (m : Command) : Bool := m.bits 0 17 1 == 1
def Command.scope (m : Command) : Nat := m.bits 0 26 3
def Command.acq (m : Command) : Bool := m.bits 0 29 1 == 1
def Command.rel (m : Command) : Bool := m.bits 0 30 1 == 1
def Command.persist (m : Command) : Bool := m.bits 0 31 1 == 1
def Command.decomp (m : Command) : Bool := m.bits 0 32 1 == 1
def Command.op (m : Command) : Nat := m.bits 0 33 3
def Command.arrival (m : Command) : Bool := m.bits 0 36 1 == 1
def Command.sig (m : Command) : Nat := m.bits 0 37 2
def Command.ver (m : Command) : Nat := m.bits 0 39 4
def Command.signal (m : Command) : Word := m.words.extractLsb' 64 64
def Command.step (m : Command) : BitVec 32 := m.words.extractLsb' 128 32
def Command.axis (m : Command) : Nat := m.bits 3 0 3
def Command.logc (m : Command) : Nat := m.bits 3 3 5
def Command.cbase (m : Command) : Nat := m.bits 3 8 24
def Command.group (m : Command) : BitVec 16 := m.words.extractLsb' 224 16
/-- An XRED at scope .span (12 R271). -/
def Command.isSpan (m : Command) : Bool := m.xred && m.scope == 5
def Command.ref (m : Command) : TeamRef := ⟨m.crew, m.team⟩

/-- A command that writes SCM (06 R132). -/
def Command.writesScm (m : Command) : Bool := m.dstG && descScm m.ddesc

/-! ### The ends of a command -/

/-- A source or destination: a captured tile or a captured binding. -/
inductive CEnd where
  | tile (t : Tile)
  | tensor (d : BitVec 512)
  deriving DecidableEq, Repr

def CEnd.fmt : CEnd → BitVec 4
  | .tile t => t.fmt
  | .tensor d => descFmt d
def CEnd.planes : CEnd → Nat
  | .tile t => t.planes.toNat
  | .tensor d => descPlanes d
def CEnd.tag : CEnd → Nat
  | .tile t => t.tagNow.toNat
  | .tensor d => descTag d
def CEnd.shape : CEnd → Shape
  | .tile t => t.shape
  | .tensor d => descShape d
def CEnd.isTile : CEnd → Bool
  | .tile _ => true
  | .tensor _ => false
/-- Bits of an element: of a block-plane element, its planes and its share of the scale word (04 R77). -/
def CEnd.width (e : CEnd) : Nat := if e.fmt = 14#4 then e.planes + 1 else elemWidth e.fmt

def State.cmdEnd (s : State) (m : Command) (glob : Bool) (h uid : Nat) (d : BitVec 512) : Option CEnd :=
  if glob then (if 64 ≤ h ∨ d = 0#512 then none else some (.tensor d))
  else match s.tileAt m.crew uid with
    | none => none
    | some t => if t.queue then none else some (.tile t)
def State.cmdSrc (s : State) (m : Command) : Option CEnd := s.cmdEnd m m.srcG m.srcH m.suid m.sdesc
def State.cmdDst (s : State) (m : Command) : Option CEnd := s.cmdEnd m m.dstG m.dstH m.duid m.ddesc

/-! ### Malformed commands (18 R349, R357) -/

/-- log2 of a power of two. -/
def isPow2 (n : Nat) : Bool := decide (0 < n) && 2 ^ n.log2 == n

/-- The fields of R262 within their limits. -/
def Command.fieldsOk (m : Command) : Bool :=
  m.bits 0 51 13 == 0 && m.bits 2 32 32 == 0 && m.bits 3 48 16 == 0 && decide (m.scope ≤ 5) && m.sig != 3 &&
  (m.sig != 1 || (m.signal.toNat % 8 == 0 && decide (m.signal.toNat < 2 ^ 56))) &&
  (if m.xred then decide (m.op ≤ 2) && decide (m.axis ≤ 5) && decide (m.logc ≤ 24) else m.op == 0 && m.bits 3 0 64 == 0) &&
  (!m.arrival || m.isSpan) && (!m.decomp || m.srcG)

/-- Whether an XRED may combine these formats (12 R268). -/
def xredTypes (src dst : BitVec 4) : Bool :=
  if isFloatTy src then dst == 8#4 || dst == 9#4 || dst == 10#4
  else isIntTy src && (dst == 2#4 || dst == 3#4 || dst == 6#4 || dst == 7#4)

/-- The windows and formats of R263 and R270. -/
def Command.shapesOk (m : Command) (a b : CEnd) : Bool :=
  let e := winE m.swin
  let f := winE m.dwin
  winOk m.swin a.isTile && winOk m.dwin b.isTile &&
  (if m.xred then
    let x := e.getD m.axis 1
    isPow2 x && f.getD m.axis 0 == 1 && (List.range 6).all (fun i => i == m.axis || e.getD i 0 == f.getD i 0) && xredTypes a.fmt b.fmt &&
    (m.isSpan || (m.logc == x.log2 && m.cbase == 0))
   else e == f && a.fmt == b.fmt && (a.fmt != 14#4 || (a.planes == b.planes && a.tag == b.tag)))

/-- Where a command's signal goes: a stamp address that translates outside SCM, or a gate word inside a gate tile. -/
def State.signalOk (s : State) (m : Command) : Bool :=
  if m.sig = 1 then (match (s.translate none (coreDie m.core) m.signal.toNat true).2 with
    | .ok _ e => !pteScm e
    | _ => false)
  else if m.sig = 2 then (match s.tileAt m.crew m.guid with
    | none => false
    | some t => (t.fmt == 3#4 || t.fmt == 7#4) && t.tags && t.inside (coordOf m.signal))
  else true

/-- The code with which a malformed command ends before any element. Its signal is looked at before the first element: a page
that loses its translation later leaves the elements written. -/
def State.cmdBad (s : State) (m : Command) : Option Nat :=
  if m.ver ≠ Config.formatVersion then some stAborted
  else match s.cmdSrc m, s.cmdDst m with
    | some a, some b => if m.fieldsOk && m.shapesOk a b && (!m.done.isEmpty || !m.blocks.isEmpty || s.signalOk m) then none else some stBounds
    | _, _ => some stBounds

/-- Destination elements that the windows name, or 0 where they cannot be read. -/
def State.cmdCount (s : State) (m : Command) : Nat :=
  match s.cmdDst m with
  | none => 0
  | some b => if winOk m.dwin b.isTile then prod (winE m.dwin) else 0
/-- The declared payload in bytes: of a queue tile's descriptor, too, windows and format can be read (18 R357). -/
def State.cmdPayload (s : State) (m : Command) : Nat :=
  let size (e : CEnd) : Nat := if winOk m.dwin e.isTile then ceilDiv (prod (winE m.dwin) * e.width) 8 else 0
  match s.cmdDst m with
  | some b => size b
  | none => if m.dstG then 0 else match s.tileAt m.crew m.duid with | none => 0 | some t => size (.tile t)
/-- Element positions to be moved: none of a malformed command. -/
def State.cmdPositions (s : State) (m : Command) : Nat := if (s.cmdBad m).isSome then 0 else s.cmdCount m

/-! ### Positions -/

/-- The position number p within extents, dimension 0 fastest. -/
def unrank : List Nat → Nat → List Nat
  | [], _ => []
  | e :: es, p => p % e :: unrank es (p / e)
def addCoords (a b : List Nat) : List Nat := List.zipWith (· + ·) a b
/-- Destination coordinates of a position. -/
def Command.dstAt (m : Command) (p : Nat) : List Nat := addCoords (winO m.dwin) (unrank (winE m.dwin) p)
/-- Source coordinates of a position, at place `x` of the reduced axis. -/
def Command.srcAt (m : Command) (p x : Nat) : List Nat :=
  let e := unrank (winE m.dwin) p
  addCoords (winO m.swin) (if m.xred then e.set m.axis x else e)

/-! ### Reading (12 R263, R266, R267; 18 R358) -/

/-- The element's index within its block-plane block. -/
def bpBit (tag : Nat) (c : List Nat) : Nat := (if tag = 8 then c.getD 1 0 else c.getD 0 0) % 32
/-- A block-plane element: its plane bits, and its block's scale above them. -/
def bpValue (planes bit : Nat) (word : Nat → Nat) : Nat :=
  (List.range planes).foldl (fun a i => a + (word i / 2 ^ bit % 2) * 2 ^ i) (word planes * 2 ^ planes)

/-- Lines lost before the command was issued, or since (20 R393). -/
def Command.lostAt (m : Command) (s : State) (pa n : Nat) : Option Nat :=
  let hit (l : List (Nat × Nat)) : Bool := l.any (fun d => decide (d.1 < pa + n ∧ pa < d.1 + d.2))
  if hit (s.dead.drop m.deadAt) then some stRetired else if hit (s.dead.take m.deadAt) then some stUncorrectable else none

/-- The address that a command reaches, or its code: an SCM page needs a handle with scm = 1 (05 R110). The request to its home is counted. -/
def State.cmdPage (s : State) (m : Command) (scm : Bool) (va : Nat) (wr : Bool) : State × Except Nat (Nat × Word) :=
  match s.translate none (coreDie m.core) va wr with
  | (s1, .ok pa e) => if pteScm e && !scm then (s1, .error stTranslation) else (s1.countRequest (coreDie m.core) pa wr, .ok (pa, e))
  | (s1, .lost) => (s1, .error stUncorrectable)
  | (s1, _) => (s1, .error stTranslation)

/-- What a read delivers: a value with the code that poisons its destination, if any; or the code that keeps it unwritten. -/
abbrev Got := Except Stop (Nat × Option Nat)

/-- `n` bytes at a virtual address, within one line. -/
def State.cmdLoad (s : State) (m : Command) (scm : Bool) (va n : Nat) : State × Got :=
  match s.cmdPage m scm va false with
  | (s1, .error x) => (s1, .error (.code x))
  | (s1, .ok (pa, _)) =>
    match m.lostAt s1 pa n with
    | some c => if c = stRetired then (s1, .error (.code stRetired)) else (s1, .ok (0, some stUncorrectable))
    | none => (s1, .ok (s1.physRead pa n, if s1.isPoisoned pa n then some stPoison else none))

/-- The worse of two poisoning codes. -/
def worse (a b : Option Nat) : Option Nat := if a = some stUncorrectable ∨ b = none then a else if a = none then b else if b = some stUncorrectable then b else a

/-- `n` bytes from `va`, line by line. -/
def State.cmdBytes (s : State) (m : Command) (scm : Bool) : Nat → Nat → Nat → State × Except Stop (List Byte × Option Nat)
  | 0, _, _ => (s, .ok ([], none))
  | fuel + 1, va, n =>
    if n = 0 then (s, .ok ([], none))
    else
      let k := min n (64 - va % 64)
      match s.cmdLoad m scm va k with
      | (s1, .error x) => (s1, .error x)
      | (s1, .ok (v, p)) => match s1.cmdBytes m scm fuel (va + k) (n - k) with
        | (s2, .error x) => (s2, .error x)
        | (s2, .ok (bs, q)) => (s2, .ok (leBytes k v ++ bs, worse p q))

/-- The (count, value) pairs of method 3. -/
def runPairs : List Byte → List (Nat × Byte)
  | c :: v :: rest => (c.toNat, v) :: runPairs rest
  | _ => []
/-- The words of method 2 laid out by the bitmap. -/
def sparseWords (bitmap payload : List Byte) : Nat → Nat → List Byte
  | 0, _ => []
  | n + 1, i =>
    if (bitmap.getD (i / 8) 0#8).getLsbD (i % 8) then payload.take 4 ++ sparseWords bitmap (payload.drop 4) n (i + 1)
    else List.replicate 4 0#8 ++ sparseWords bitmap payload n (i + 1)
/-- The block that a header's method makes of its payload, none where it is malformed (12 R267). -/
def decompress (method : Nat) (p : List Byte) : Option (List Byte) :=
  let l := p.length
  if method = 0 then (if l = 4096 then some p else none)
  else if method = 1 then (if l = 0 then some (List.replicate 4096 0#8) else none)
  else if method = 2 then
    let k := ((List.range 1024).filter (fun i => (p.getD (i / 8) 0#8).getLsbD (i % 8))).length
    if 128 ≤ l ∧ l = 128 + 4 * k then some (sparseWords (p.take 128) (p.drop 128) 1024 0) else none
  else if method = 3 then
    let runs := runPairs (p.take (l - 2048))
    if 2048 ≤ l ∧ l % 2 = 0 ∧ runs.all (fun r => r.1 != 0) ∧ (runs.map (·.1)).sum = 2048 then
      some (((runs.flatMap (fun r => List.replicate r.1 r.2)).zip (p.drop (l - 2048))).flatMap (fun q => [q.2, q.1]))
    else none
  else none

/-- Block j of a compressed tensor. -/
def State.cmdBlock (s : State) (m : Command) (d : BitVec 512) (j : Nat) : State × Except Stop (List Byte × Option Nat) :=
  let at_ := descBase d + 4104 * j
  match s.cmdLoad m (descScm d) at_ 8 with
  | (s1, .error x) => (s1, .error x)
  | (s1, .ok (h, p)) =>
    let l := h / 2 ^ 16 % 2 ^ 13
    if p.isSome then (s1, .ok (List.replicate 4096 0#8, p))
    else if h % 2 ^ 16 ≥ 4 ∨ h / 2 ^ 29 ≠ 0 ∨ l > 4096 then (s1, .error (.code stDecomp))
    else match s1.cmdBytes m (descScm d) (l + 1) (at_ + 8) l with
      | (s2, .error x) => (s2, .error x)
      | (s2, .ok (bs, q)) =>
        if q.isSome then (s2, .ok (List.replicate 4096 0#8, q))
        else match decompress (h % 16) bs with
          | none => (s2, .error (.code stDecomp))
          | some b => (s2, .ok (b, none))

/-- `n` bytes of a tensor's uncompressed storage at byte offset `b`. -/
def State.cmdStorage (s : State) (m : Command) (d : BitVec 512) (b n : Nat) : State × Got :=
  if m.decomp then
    match s.cmdBlock m d (b / 4096) with
    | (s1, .error x) => (s1, .error x)
    | (s1, .ok (bs, p)) => (s1, .ok (leNat ((bs.drop (b % 4096)).take n), p))
  else s.cmdLoad m (descScm d) (descBase d + b) n

/-- The words 0 to `k` − 1 of a block-plane block of a tensor. -/
def State.cmdWords (s : State) (m : Command) (d : BitVec 512) (b : Nat) : Nat → State × Except Stop (List Nat × Option Nat)
  | 0 => (s, .ok ([], none))
  | k + 1 => match s.cmdWords m d b k with
    | (s1, .error x) => (s1, .error x)
    | (s1, .ok (l, p)) => match s1.cmdStorage m d (b + 4 * k) 4 with
      | (s2, .error x) => (s2, .error x)
      | (s2, .ok (v, q)) => (s2, .ok (l ++ [v], worse p q))

/-- A source element: BOUNDS outside the shape; without acq the issuing team's earlier scalar stores to tiles come first
(06 R127). -/
def State.cmdRead (s : State) (m : Command) (e : CEnd) (c : List Nat) : State × Got :=
  if !e.shape.inside c then (s, .error (.code stBounds))
  else match e with
  | .tile t =>
    let x := coord4 c
    if (match s.teamAt m.ref with | none => false | some (_, tm) => s.olderOverlap m.ref tm .scalar m.ord false (.tile m.crew t.uid x none) 64) then (s, .error .hold)
    else if t.fmt = 14#4 then
      let p := t.planes.toNat
      (s, .ok (bpValue p (bpBit t.layout.toNat c) (fun i => t.read x (some i)),
        if (List.range (p + 1)).any (fun i => t.poisoned x (some i)) then some stPoison else none))
    else (s, .ok (t.read x none, if t.poisoned x none then some stPoison else none))
  | .tensor d =>
    let b := (descShape d).bitOf c
    if descFmt d = 14#4 then
      match s.cmdWords m d (b / 8) (descPlanes d + 1) with
      | (s1, .error x) => (s1, .error x)
      | (s1, .ok (l, p)) => (s1, .ok (bpValue (descPlanes d) (bpBit (descTag d) c) (fun i => l.getD i 0), p))
    else
      let w := e.width
      match s.cmdStorage m d (b / 8) (ceilDiv w 8) with
      | (s1, .error x) => (s1, .error x)
      | (s1, .ok (v, p)) => (s1, .ok (v / 2 ^ (b % 8) % 2 ^ w, p))

/-! ### Writing (12 R263, R268, R269) -/

/-- The address of a destination element of a tensor, or the code that keeps it unwritten. -/
def State.cmdTarget (s : State) (m : Command) (d : BitVec 512) (c : List Nat) (blk : Option Nat) : State × Except Nat (Nat × Nat × Word) :=
  let (va, _) := descElem d c blk
  match s.cmdPage m (descScm d) va true with
  | (s1, .error x) => (s1, .error x)
  | (s1, .ok (pa, e)) => match m.lostAt s1 pa (ceilDiv (elemWidth (descFmt d)) 8) with
    | some x => (s1, .error x)
    | none => (s1, .ok (va, pa, e))

/-- Whether an XRED element is step-late against the buffer step (12 R269). -/
def Command.late (m : Command) (buf : BitVec 32) : Bool := m.xred && tagOlder m.step buf

/-- The codes that keep a destination element unwritten. -/
def State.cmdBlocked (s : State) (m : Command) (e : CEnd) (c : List Nat) : State × List Nat :=
  if !e.shape.inside c then (s, [stBounds])
  else match e with
  | .tile t => (s, if m.late t.bstep then [stStepLate] else [])
  | .tensor d => match s.cmdTarget m d c (if descFmt d = 14#4 then some (descPlanes d) else none) with
    | (s1, .error x) => (s1, [x])
    | (s1, .ok (_, pa, _)) => (s1, if m.late (cellGet s1.lineStep (pa / 64)) then [stStepLate] else [])

/-- The L1 copies of a line that a command's write drops: of the core of its issue, and of the core its crew stands on now, for
which it is as if the crew had stayed on one core (06 R124, R133). -/
def State.cmdL1Drop (s : State) (m : Command) (line : Nat) : State :=
  let s1 := s.l1DropLine m.core line
  match s.crewAt m.crew with
  | none => s1
  | some c => match c.place with
    | none => s1
    | some core => s1.l1DropLine core line

/-- One element, or word of a block, of a tensor written at its home; the core's L1 copy of the line goes (06 R124). A poisoned write
comes after the outstanding loads of its bytes, which have found no poison (18 R353). -/
def State.cmdStore (s : State) (m : Command) (d : BitVec 512) (c : List Nat) (blk : Option Nat) (w : Nat) (f : Nat → Nat) (poison : Bool) : Except Stop State :=
  match s.cmdTarget m d c blk with
  | (_, .error x) => .error (.code x)
  | (s1, .ok (va, pa, e)) =>
    let n := ceilDiv w 8
    let off := (descElem d c blk).2
    if poison && s1.loadsOut pa n then .error .hold
    else match s1.pageMerge va pa e m.step n off w f with
    | .error x => .error x
    | .ok s2 => .ok ((if poison then s2.setPoison pa n else s2).cmdL1Drop m (pa / 64))

/-- A word of a tile's block, or an element, written through `f`; `full` sets its tags. -/
def State.cmdTileStore (s : State) (m : Command) (uid : Nat) (x : Coord) (blk : Option Nat) (f : Nat → Nat) (poison full : Bool) : Except Stop State :=
  match s.tileAt m.crew uid with
  | none => .ok s
  | some t =>
    let (new, b) := t.bitAddr x blk
    if poison && (wordsOf b t.accWidth).any (s.tileLoadsOut m.crew uid new) then .error .hold
    else match s.tileUpdate m.crew uid x blk f m.step full with
    | .error x => .error x
    | .ok s1 => if poison then (match s1.tileAt m.crew uid with | none => .ok s1 | some t1 => .ok (s1.putTile m.crew (t1.setPoisoned x blk))) else .ok s1

/-- The words of a block-plane element written one after another. -/
def State.cmdBlockStore (s : State) (put : State → Nat → (Nat → Nat) → Except Stop State) (planes bit v : Nat) : List Nat → Except Stop State
  | [] => .ok s
  | i :: rest =>
    match put s i (fun w => if i = planes then v / 2 ^ planes % 2 ^ 32 else patchBits w bit 1 (v / 2 ^ i)) with
    | .error x => .error x
    | .ok s1 => s1.cmdBlockStore put planes bit v rest

/-- A destination element written through `f` of its old value, with the code of a poisoned element that an update reads; of a
block-plane tile, the words `ws` of its block. -/
def State.cmdWrite (s : State) (m : Command) (e : CEnd) (c : List Nat) (ws : List Nat) (f : Nat → Nat) (poison : Bool) : Except Stop (State × Option Nat) :=
  match e with
  | .tile t =>
    let x := coord4 c
    if t.fmt = 14#4 then
      let p := t.planes.toNat
      (s.cmdBlockStore (fun s i g => s.cmdTileStore m t.uid x (some i) g poison t.tags) p (bpBit t.layout.toNat c) (f 0) ws).map (·, none)
    else
      let bad := m.xred && t.poisoned x none
      (s.cmdTileStore m t.uid x none f (poison || bad) (t.tags && !m.xred)).map (·, if bad then some stPoison else none)
  | .tensor d =>
    if descFmt d = 14#4 then
      let p := descPlanes d
      (s.cmdBlockStore (fun s i g => s.cmdStore m d c (some i) 32 g poison) p (bpBit (descTag d) c) (f 0) (List.range (p + 1))).map (·, none)
    else
      let w := e.width
      let bad := m.xred && (match s.cmdTarget m d c none with | (s1, .ok (_, pa, _)) => s1.isPoisoned pa (ceilDiv w 8) | _ => false)
      (s.cmdStore m d c none w f (poison || bad)).map (·, if bad then some stPoison else none)

/-! ### Reduce-store values (12 R268, R270) -/

/-- A term as the reduction takes it: FP32 bits of a floating-point term, the destination's bits of an integer. -/
def xredTerm (src dst : BitVec 4) (x : Nat) : Nat :=
  if isFloatTy src then encodeF f32 .rne false (decodeF (fmtOf src) x)
  else wrapBits (elemWidth dst) (elemInt (isSignedTy src) (elemWidth src) x)
/-- The identity at an absent position. -/
def xredIdent (src dst : BitVec 4) (op : Nat) : Nat :=
  let w := elemWidth dst
  if isFloatTy src then (if op = 0 then negZero f32 else infBits f32 false (op == 2))
  else if op = 0 then 0 else wrapBits w (if op = 1 then maxInt (isSignedTy dst) w else minInt (isSignedTy dst) w)
/-- The integer that a node of 64 bits stands for. -/
def nodeInt (dst : BitVec 4) (x : Nat) : Int := elemInt (isSignedTy dst) 64 x
/-- Two node values combined by the op (12 R271). -/
def nodeOp (src dst : BitVec 4) (op x y : Nat) : Nat :=
  if isFloatTy src then (if op = 0 then addF f32 .rne x y else minmaxNanF f32 (op == 2) x y)
  else if op = 0 then (x + y) % 2 ^ 64
  else if op = 1 then (if nodeInt dst x ≤ nodeInt dst y then x else y) else (if nodeInt dst x ≤ nodeInt dst y then y else x)
/-- A term as a node value: 64 bits with the destination's signedness. -/
def termNode (src dst : BitVec 4) (x : Nat) : Nat :=
  if isFloatTy src then x else wrapBits 64 (elemInt (isSignedTy dst) (elemWidth dst) x)
/-- The local value of R270 over the terms in axis order. -/
def xredLocal (src dst : BitVec 4) (op : Nat) (terms : List Nat) : Nat :=
  if isFloatTy src ∧ op = 0 then treeSum f32 terms
  else match terms.map (termNode src dst) with
    | [] => 0
    | x :: rest => rest.foldl (fun a y => nodeOp src dst op a y) (if isFloatTy src then minmaxNanF f32 (op == 2) x x else x)
/-- The update of a destination element by a node value (12 R268). -/
def xredApply (src dst : BitVec 4) (op node old : Nat) : Nat :=
  let w := elemWidth dst
  if isFloatTy src then
    let f := fmtOf dst
    let a := decodeF f old
    let b := decodeF f32 node
    if op = 0 then encodeF f .rne false (addV false a b)
    else if isNanV a || isNanV b then f.nanBits
    else encodeF f .rne false (if beforeV a b == (op == 1) then a else b)
  else
    let a := elemInt (isSignedTy dst) w old
    let b := nodeInt dst node
    wrapBits w (if op = 0 then a + b else if op = 1 then min a b else max a b)

/-- The terms of one destination element: values or identities, the codes met, the poisoning code; or a hold, or the code
that keeps the element unwritten. -/
def State.cmdTerms (s : State) (m : Command) (a b : CEnd) (p : Nat) : Nat → State × Except Stop (List Nat × List Nat × Option Nat)
  | 0 => (s, .ok ([], [], none))
  | k + 1 => match s.cmdTerms m a b p k with
    | (s1, .error x) => (s1, .error x)
    | (s1, .ok (l, es, q)) => match s1.cmdRead m a (m.srcAt p k) with
      | (s2, .error .hold) => (s2, .error .hold)
      | (s2, .error (.code c)) =>
        if c = stBounds then (s2, .ok (l ++ [xredIdent a.fmt b.fmt m.op], natInsert c es, q)) else (s2, .error (.code c))
      | (s2, .ok (v, r)) => (s2, .ok (l ++ [xredTerm a.fmt b.fmt v], es, worse q r))

/-! ### Moving elements (06 R127, R130; 12 R263; 10 R227) -/

/-- The accesses of a team that precede a point of its program order have been performed: those of clauses with a smaller
uid, which have retired, and those of the scalar stream with a smaller order (06 R127). -/
def State.earlierDone (s : State) (r : TeamRef) (clauses ord : Nat) : Bool :=
  match s.teamAt r with
  | none => true
  | some (_, t) =>
    t.queue.all (fun c => decide (clauses ≤ c.uid)) &&
    t.pending.all (fun a => match a.stream with | .scalar => decide (ord ≤ a.ord) | .lane => decide (clauses ≤ a.clause)) &&
    s.wlItems.all (fun i => i.team != r || decide (clauses ≤ i.clause)) && s.matrix.all (fun c => c.team != r || decide (clauses ≤ c.clause))

/-- Whether the command may begin to read. -/
def State.cmdMayRead (s : State) (m : Command) : Bool := !m.acq || s.earlierDone m.ref m.clauses m.ord

/-- Bytes of an SCM destination that are written together: a line is accepted whole (21 R401, R402); of a block-plane tensor, the lines
that whole blocks fill. -/
def acceptSpan (d : BitVec 512) : Nat := if descFmt d = 14#4 then Nat.lcm (4 * (descPlanes d + 1)) 64 else 64

/-- Positions written together with position `p`: those of one word of a tag-enabled tile (12 R263), and those of one line of SCM. -/
def State.cmdGroup (s : State) (m : Command) (e : CEnd) (p : Nat) : List Nat :=
  match e with
  | .tensor d =>
    let key (q : Nat) : Nat := ((descElem d (m.dstAt q) none).1 - descBase d) / acceptSpan d
    if descScm d && (descShape d).inside (m.dstAt p) then (List.range (s.cmdPositions m)).filter (fun q => key q == key p && (descShape d).inside (m.dstAt q)) else [p]
  | .tile t =>
    if m.xred || !t.tags || decide (32 ≤ t.width) && t.fmt != 14#4 then [p]
    else
      let key (q : Nat) : Nat := (t.newShape.bitOf (m.dstAt q)) / 32
      if t.shape.inside (m.dstAt p) then (List.range (s.cmdPositions m)).filter (fun q => key q == key p && t.shape.inside (m.dstAt q)) else [p]

/-- The lines of a global destination that an XRED has begun and not finished, or its tile: R130 keeps others out. -/
def State.cmdInside (s : State) (m : Command) (uid : Nat) (crew : Nat) (line : Option Nat) : Bool :=
  m.xred && !m.done.isEmpty && decide (m.done.length < s.cmdPositions m) &&
  (match s.cmdDst m, line with
   | some (.tile t), none => m.crew == crew && t.uid == uid
   | some (.tensor d), some l =>
     let lineOf (p : Nat) : Nat := (descElem d (m.dstAt p) none).1 / 64
     m.done.any (fun p => lineOf p == l) && (List.range (s.cmdPositions m)).any (fun p => lineOf p == l && !m.done.contains p)
   | _, _ => false)

/-- Whether another XRED, or an MDRAIN with add-on-store, is inside the tile or line that this position updates. -/
def State.cmdExcluded (s : State) (m : Command) (p : Nat) : Bool :=
  let taken (uid crew : Nat) (line : Option Nat) : Bool :=
    s.commands.any (fun o => o.id != m.id && s.cmdInside o uid crew line) || s.matrix.any (fun o => s.drainInside o uid crew line)
  m.xred && (match s.cmdDst m with
    | some (.tile t) => taken t.uid m.crew none
    | some (.tensor d) => taken 0 0 (some ((descElem d (m.dstAt p) none).1 / 64))
    | none => false)

def addCodes (es cs : List Nat) : List Nat := cs.foldl (fun l c => natInsert c l) es
def State.putCommand (s : State) (m : Command) : State := { s with commands := s.commands.map (fun x => if x.id = m.id then m else x) }

/-- One position of an XCOPY read and written, without regard to tags: the codes met, or a hold. Read and write are one step
(notes/assumptions/59.md). `ws` are the words of a block-plane block that are written. -/
def State.copyOne (s : State) (m : Command) (a b : CEnd) (ws : List Nat) (p : Nat) : State × Option (List Nat) :=
  match s.cmdRead m a (m.srcAt p 0) with
  | (s1, .error .hold) => (s1, none)
  | (s1, .error (.code c)) => let (s2, es) := s1.cmdBlocked m b (m.dstAt p); (s2, some (c :: es))
  | (s1, .ok (v, q)) => match s1.cmdBlocked m b (m.dstAt p) with
    | (s2, []) => match s2.cmdWrite m b (m.dstAt p) ws (fun _ => v) q.isSome with
      | .error .hold => (s2, none)
      | .error (.code c) => (s2, some [c])
      | .ok (s3, x) => (s3, some (q.toList ++ x.toList))
    | (s2, es) => (s2, some (q.toList ++ es))

/-- Several positions, all or none. -/
def State.copyAll (s : State) (m : Command) (a b : CEnd) (ws : List Nat) : List Nat → State × Option (List Nat)
  | [] => (s, some [])
  | p :: rest => match s.copyOne m a b ws p with
    | (s1, none) => (s1, none)
    | (s1, some es) => match s1.copyAll m a b ws rest with
      | (s2, none) => (s2, none)
      | (s2, some fs) => (s2, some (es ++ fs))

/-- The wait of a command's writes for a word to become empty: its place among the word's waiters, and whether it is this one. -/
def State.copyTurn (s : State) (m : Command) (want : TagWant) : Nat × Bool :=
  match m.waiting with
  | none => (s.nextWait, false)
  | some w => if w.2 == want then (w.1, true) else (s.nextWait, false)

/-- A command begins to wait for a word, unless it waits for another. -/
def State.copyWait (s : State) (m : Command) (want : TagWant) : State :=
  if m.waiting.isNone then { s.putCommand { m with waiting := some (s.nextWait, want) } with nextWait := s.nextWait + 1 } else s

/-- Words of the block of a position of a tagged block-plane tile that are not yet written. -/
def Command.wordsLeft (m : Command) (t : Tile) (p : Nat) : List Nat :=
  (List.range (t.planes.toNat + 1)).filter (fun i => !m.blocks.contains (t.shape.bitOf (m.dstAt p) / 32, i))

/-- Whether a position of an XCOPY is to be written: no code keeps it unwritten. -/
def State.copyWrites (s : State) (m : Command) (a b : CEnd) (p : Nat) : Bool :=
  match s.cmdRead m a (m.srcAt p 0) with
  | (_, .error _) => false
  | (s1, .ok _) => (s1.cmdBlocked m b (m.dstAt p)).2.isEmpty

/-- A position of an XCOPY moved: where the destination's tag is full the command begins to wait for it, unless nothing is to be written
there (18 R358). Each word of a tagged block-plane block waits for itself (12 R263). -/
def State.moveCopy (s : State) (m : Command) (a b : CEnd) (p : Nat) : State :=
  let g := s.cmdGroup m b p
  let fin (s1 : State) (es : List Nat) (mine : Bool) : State :=
    s1.putCommand { m with done := m.done ++ g, errs := addCodes m.errs es, waiting := if mine then none else m.waiting }
  match b with
  | .tensor _ => match s.copyAll m a b [] g with
    | (_, none) => s
    | (s1, some es) => fin s1 es false
  | .tile t =>
    let x := t.blockAt (coord4 (m.dstAt p))
    let key := t.shape.bitOf (m.dstAt p) / 32
    let want : TagWant := ⟨m.crew, t.uid, coord4 (m.dstAt p), false, none⟩
    let turn := s.copyTurn m want
    let ended (s1 : State) (es : List Nat) (w : Option (Nat × TagWant)) : State :=
      s1.putCommand { m with done := m.done ++ g, errs := addCodes m.errs es, waiting := w, blocks := m.blocks.filter (fun k => k.1 != key) }
    if !t.tags || !g.any (s.copyWrites m a b) then (match s.copyAll m a b (List.range (t.planes.toNat + 1)) g with
      | (_, none) => s
      | (s1, some es) => if t.fmt = 14#4 then ended s1 es m.waiting else fin s1 es turn.2)
    else if t.fmt = 14#4 then
      let want (i : Nat) : TagWant := ⟨m.crew, t.uid, x, false, some i⟩
      let left := m.wordsLeft t p
      (match left.find? (fun i => s.servable (s.copyTurn m (want i)).1 (want i)) with
       | none => s.copyWait m (want (left.headD 0))
       | some i => match s.copyAll m a b [i] g with
         | (_, none) => s
         | (s1, some es) =>
           let w := if (s.copyTurn m (want i)).2 then none else m.waiting
           if left = [i] then ended s1 es w
           else s1.putCommand { m with errs := addCodes m.errs es, waiting := w, blocks := m.blocks ++ [(key, i)] })
    else
      if !s.servable turn.1 want then s.copyWait m want
      else match s.copyAll m a b [] g with
        | (_, none) => s
        | (s1, some es) => fin s1 es turn.2

/-- A position of an XRED: the codes met, or a hold. It takes its local value, or the root value of its span reduction. -/
def State.redOne (s : State) (m : Command) (a b : CEnd) (p : Nat) : State × Option (List Nat) :=
  match s.cmdTerms m a b p ((winE m.swin).getD m.axis 1) with
  | (s1, .error .hold) => (s1, none)
  | (s1, .error (.code c)) => let (s2, es) := s1.cmdBlocked m b (m.dstAt p); (s2, some (c :: es))
  | (s1, .ok (l, es, q)) =>
    let node := match (if m.isSpan then m.root.find? (fun x => x.1 == p) else none) with
      | some x => x.2.toNat
      | none => xredLocal a.fmt b.fmt m.op l
    match s1.cmdBlocked m b (m.dstAt p) with
    | (s2, []) => match s2.cmdWrite m b (m.dstAt p) [] (xredApply a.fmt b.fmt m.op node) q.isSome with
      | .error .hold => (s2, none)
      | .error (.code c) => (s2, some (c :: es))
      | .ok (s3, x) => (s3, some (es ++ q.toList ++ x.toList))
    | (s2, fs) => (s2, some (es ++ q.toList ++ fs))

/-- Several positions, all or none. -/
def State.redAll (s : State) (m : Command) (a b : CEnd) : List Nat → State × Option (List Nat)
  | [] => (s, some [])
  | p :: rest => match s.redOne m a b p with
    | (s1, none) => (s1, none)
    | (s1, some es) => match s1.redAll m a b rest with
      | (s2, none) => (s2, none)
      | (s2, some fs) => (s2, some (es ++ fs))

/-- A position of an XRED moved, with those that are written together with it. -/
def State.moveRed (s : State) (m : Command) (a b : CEnd) (p : Nat) : State :=
  let g := s.cmdGroup m b p
  if g.any (s.cmdExcluded m) then s
  else match s.redAll m a b g with
    | (_, none) => s
    | (s1, some es) => s1.putCommand { m with done := m.done ++ g, errs := addCodes m.errs es }

/-! ### Span reductions (12 R271; 18 R359) -/

/-- The members' commands of one reduction. -/
def State.redNodes (s : State) (g : BitVec 16) (k : Nat) : List SpanNode := s.spanNodes.filter (fun n => n.group == g && n.k == k)
/-- Whether every member's command is known. -/
def State.redWhole (s : State) (g : BitVec 16) (k : Nat) : Bool :=
  (List.range s.span.count.toNat).all (fun i => (s.redNodes g k).any (fun n => n.member == i))
/-- Whether the commands of a reduction agree, are aligned and do not overlap. -/
def nodesOk (l : List SpanNode) : Bool :=
  match l with
  | [] => true
  | n :: _ =>
    l.all (fun x => x.ok && x.logc == n.logc && x.op == n.op && x.cbase % 2 ^ x.logb == 0 && decide (x.cbase + 2 ^ x.logb ≤ 2 ^ x.logc)) &&
    l.all (fun x => l.all (fun y => x.member == y.member || decide (x.cbase + 2 ^ x.logb ≤ y.cbase ∨ y.cbase + 2 ^ y.logb ≤ x.cbase)))
/-- The member that holds the lowest covered index of those given. -/
def rootHolder (l : List SpanNode) : Option SpanNode :=
  l.foldl (fun b x => match b with | none => some x | some y => if x.cbase < y.cbase then some x else some y) none
/-- The member that holds the lowest covered index of [a, a + 2^i): it forms the node over that range. -/
def holderOf (l : List SpanNode) (a i : Nat) : Option SpanNode := rootHolder (l.filter (fun n => decide (a ≤ n.cbase ∧ n.cbase < a + 2 ^ i)))

/-- The values of a member's node over [a, a + 2^i), in destination order: none until all have arrived. -/
def State.nodeValues (s : State) (g : BitVec 16) (k member a i count : Nat) : Option (List Word) :=
  (List.range count).mapM (fun e =>
    (s.spanVals.find? (fun v => v.group == g && v.k == k && v.member == member && v.base == a && v.lg == i && v.elem == e)).map (·.value))

/-- How far a member's own node has come up the tree of R271. -/
inductive Climb where
  /-- the root, formed here -/
  | root (vals : List Word)
  /-- a node that another member is to combine -/
  | send (dest a i : Nat) (vals : List Word)
  /-- the sibling's values have not arrived -/
  | wait
  deriving DecidableEq, Repr

/-- The node over [a, a + 2^i) combined with its siblings, a range at a time, up to the root or to the member that holds a lower
covered index: a range that holds none is the identity. -/
def State.climb (s : State) (src dst : BitVec 4) (op : Nat) (l : List SpanNode) (g : BitVec 16) (k : Nat) : Nat → Nat → Nat → List Word → Climb
  | 0, _, _, v => .root v
  | f + 1, i, a, v =>
    let parent := a / 2 ^ (i + 1) * 2 ^ (i + 1)
    let sib := if a = parent then a + 2 ^ i else parent
    let node (x y : Word) : Word := BitVec.ofNat 64 (nodeOp src dst op x.toNat y.toNat)
    let id : Word := BitVec.ofNat 64 (termNode src dst (xredIdent src dst op))
    match holderOf l sib i with
    | none => s.climb src dst op l g k f (i + 1) parent (v.map (fun x => if sib < a then node id x else node x id))
    | some n =>
      if sib < a then .send n.member a i v
      else match s.nodeValues g k n.member sib i v.length with
        | none => .wait
        | some u => s.climb src dst op l g k f (i + 1) parent (List.zipWith node v u)

/-- Arrival mode: the members' local values of one element combined in the order in which they arrived. -/
def State.arrivalValue (s : State) (src dst : BitVec 4) (op : Nat) (g : BitVec 16) (k e : Nat) : Word :=
  match s.spanVals.filter (fun v => v.group == g && v.k == k && v.elem == e) with
  | [] => BitVec.ofNat 64 (termNode src dst (xredIdent src dst op))
  | v :: rest => rest.foldl (fun x y => BitVec.ofNat 64 (nodeOp src dst op x.toNat y.value.toNat)) v.value

/-- The payload of a contribution or result flit in the model's own order (notes/assumptions/24.md). -/
def redPayload (n : SpanNode) (value : Option (Nat × Word)) : List Byte :=
  leBytes 2 n.group.toNat ++ leBytes 4 n.k ++ leBytes 2 n.member ++ leBytes 1 n.logc ++ leBytes 1 n.op.toNat ++ leBytes 1 (if n.arrival then 1 else 0) ++
  leBytes 1 (if n.ok then 1 else 0) ++ leBytes 4 n.cbase ++ leBytes 1 n.logb ++ leBytes 1 (if value.isSome then 1 else 0) ++ leBytes 2 0 ++ leBytes 4 n.count ++
  leBytes 4 ((value.map (·.1)).getD 0) ++ leBytes 8 ((value.map (·.2.toNat)).getD 0) ++ leBytes 28 0

/-- The members other than this package. -/
def State.others (s : State) : List Nat := (List.range s.span.count.toNat).filter (fun i => i != s.span.index.toNat)

/-- Local values of every destination element, with the codes met; none while some read is held. Where a term cannot be read or does not
translate, the manual does not say what the other members' trees get of this one: the identity stands for the whole local value of the
element (notes/assumptions/75.md). -/
def State.redLocals (s : State) (m : Command) (a b : CEnd) : Nat → State × Option (List (Nat × Word) × List Nat)
  | 0 => (s, some ([], []))
  | p + 1 => match s.redLocals m a b p with
    | (s1, none) => (s1, none)
    | (s1, some (l, es)) => match s1.cmdTerms m a b p ((winE m.swin).getD m.axis 1) with
      | (s2, .error .hold) => (s2, none)
      | (s2, .error (.code c)) => (s2, some (l ++ [(p, BitVec.ofNat 64 (termNode a.fmt b.fmt (xredIdent a.fmt b.fmt m.op)))], natInsert c es))
      | (s2, .ok (ts, fs, q)) => (s2, some (l ++ [(p, BitVec.ofNat 64 (xredLocal a.fmt b.fmt m.op ts))], addCodes es (fs ++ q.toList)))

/-- A member's command becomes known here and to every other member. -/
def State.postNode (s : State) (n : SpanNode) : State :=
  s.others.foldl (fun s d => s.send 0x20 d 0#32 (redPayload n none)) { s with spanNodes := s.spanNodes ++ [n] }

/-- Values of the node over [a, a + 2^i) that this package has formed, sent to another member. -/
def State.sendNode (s : State) (n : SpanNode) (dest a i : Nat) (vals : List Word) : State :=
  vals.zipIdx.foldl (fun s v => s.send 0x20 dest 0#32 (redPayload { n with cbase := a, logb := i } (some (v.2, v.1)))) s

/-- This package forms the local values of its command, or reports that the command is malformed; with a member lost the
reduction ends ABORTED (21 R411). -/
def State.formLocal (s : State) (m : Command) : State :=
  let node (ok : Bool) (count logb : Nat) : SpanNode :=
    { group := m.group, k := m.spanK, member := s.span.index.toNat, logc := m.logc, op := BitVec.ofNat 3 m.op, arrival := m.arrival
      cbase := m.cbase, logb := logb, ok := ok, count := count }
  if !s.span.lost.isEmpty then s.putCommand { m with formed := true, rootFail := true }
  else match s.cmdBad m, s.cmdSrc m, s.cmdDst m with
  | none, some a, some b =>
    (match s.redLocals m a b (s.cmdPositions m) with
     | (_, none) => s
     | (s1, some (l, es)) =>
       let n := node true (s.cmdPositions m) ((winE m.swin).getD m.axis 1).log2
       let s2 := (s1.putCommand { m with formed := true, errs := addCodes m.errs es }).postNode n
       { s2 with spanVals := s2.spanVals ++ l.map (fun v => SpanVal.mk n.group n.k n.member n.cbase n.logb v.1 v.2) })
  | _, _, _ => (s.putCommand { m with formed := true }).postNode (node false 0 0)

/-- The root values are formed here: they go to every participant (12 R271). -/
def State.postRoot (s : State) (m : Command) (n : SpanNode) (vals : List Word) : State :=
  let s1 := s.putCommand { m with root := vals.zipIdx.map (fun v => (v.2, v.1)) }
  s.others.foldl (fun s d => vals.zipIdx.foldl (fun s v => s.send 0x21 d 0#32 (redPayload n (some (v.2, v.1)))) s) s1

/-- A reduction whose every command is known: this package's node goes up the tree, or its local values to the root holder; the
holder of the lowest covered index forms the root; or every member's command ends ABORTED. A member with fewer destination elements
than another supplies the identity for the rest. Where the commands disagree in the arrival bit, the root holder's own counts
(notes/assumptions/60.md). -/
def State.closeReduction (s : State) (g : BitVec 16) (k : Nat) : State :=
  let l := s.redNodes g k
  match s.commands.find? (fun m => m.isSpan && m.group == g && m.spanK == k && m.formed) with
  | none => s
  | some m =>
    if !s.redWhole g k || m.rootFail then s
    else if !nodesOk l then s.putCommand { m with rootFail := true }
    else if m.sent || !m.root.isEmpty then s
    else match rootHolder l, l.find? (fun n => n.member == s.span.index.toNat), s.cmdSrc m, s.cmdDst m with
      | some h, some n, some a, some b =>
        (match s.nodeValues g k n.member n.cbase n.logb n.count with
         | none => s
         | some vals =>
           let count := l.foldl (fun c x => max c x.count) 0
           let own := vals ++ List.replicate (count - vals.length) (BitVec.ofNat 64 (termNode a.fmt b.fmt (xredIdent a.fmt b.fmt m.op)))
           if h.arrival then
             (if h.member ≠ n.member then (s.putCommand { m with sent := true }).sendNode n h.member n.cbase n.logb own
              else if l.all (fun x => x.member == n.member || (s.nodeValues g k x.member x.cbase x.logb count).isSome) then
                s.postRoot m n ((List.range count).map (s.arrivalValue a.fmt b.fmt m.op g k))
              else s)
           else match s.climb a.fmt b.fmt m.op l g k (n.logc - n.logb) n.logb n.cbase own with
             | .wait => s
             | .send dest x i vals => (s.putCommand { m with sent := true }).sendNode n dest x i vals
             | .root vals => s.postRoot m n vals)
      | _, _, _, _ => s

/-! ### A command's next element and its end (06 R127; 12 R264) -/

/-- The command moves the element at a position, if it may. -/
def State.cmdMove (s : State) (id p : Nat) : State :=
  match s.commands.find? (fun m => m.id == id) with
  | none => s
  | some m => match s.cmdSrc m, s.cmdDst m with
    | some a, some b =>
      if s.cmdPositions m ≤ p || m.done.contains p || !s.cmdMayRead m || m.rootFail then s
      else if m.isSpan && !m.formed then (s.formLocal m).closeReduction m.group m.spanK
      else if m.isSpan && m.root.length < s.cmdPositions m then s
      else if m.xred then s.moveRed m a b p else s.moveCopy m a b p
    | _, _ => s

/-- The first of the codes in the order of R264. -/
def cmdStatus (errs : List Nat) : Nat :=
  ([stUncorrectable, stPoison, stTranslation, stBounds, stDecomp, stStepLate, stRetired, stAborted].find? (fun c => errs.contains c)).getD stOk

/-- Durability at pspan of the command's writes to tracked SCM pages: their step is committed (06 R131). -/
def State.cmdDurable (s : State) (m : Command) : Bool :=
  match s.cmdDst m with
  | some (.tensor d) =>
    !descScm d || !s.span.erasure ||
    (List.range (s.cmdPositions m)).all (fun p => match s.translate none (coreDie m.core) (descElem d (m.dstAt p) none).1 true with
      | (_, .ok _ e) => !pteTracked e || (match s.comet.committed with | none => false | some c => !tagOlder c m.step)
      | _ => true)
  | _ => true

/-- The signal of a command that has moved its elements; none while it is held. A stamp drops the L1 copy of its line; a gate update
wakes the gate's waiters (05 R103). -/
def State.cmdSignal (s : State) (m : Command) (code : Nat) : Option State :=
  if m.sig = 1 then
    if m.signal.toNat % 8 ≠ 0 ∨ 2 ^ 56 ≤ m.signal.toNat then some s
    else match s.translate none (coreDie m.core) m.signal.toNat true with
      | (s1, .ok pa e) =>
        if pteScm e then some s1
        else match s1.pageWrite m.signal.toNat pa e m.step 8 (code * 2 ^ 48 + m.ticket.toNat) with
          | .ok s2 => some (s2.cmdL1Drop m (pa / 64))
          | .error .hold => none
          | .error (.code _) => some s1
      | (s1, _) => some s1
  else if m.sig = 2 then
    if !s.signalOk m then some s
    else match s.gateStep m.crew m.guid (coordOf m.signal) 0 0 (ceilDiv (s.cmdPayload m) 256) m.step with
      | .ok s1 => some s1
      | .error _ => none
  else some s

/-- Whether `n` bytes that a command has reached lie in lines lost since its issue. -/
def State.lostBytes (s : State) (m : Command) (va n : Nat) (wr : Bool) : Bool :=
  (List.range ((va % 64 + n + 63) / 64)).any (fun i =>
    let a := max va (va / 64 * 64 + 64 * i)
    match (s.translate none (coreDie m.core) a wr).2 with
    | .ok pa _ => m.lostAt s pa (min (va + n) (va / 64 * 64 + 64 * (i + 1)) - a) == some stRetired
    | _ => false)
/-- The bytes of an element of a tensor: of a compressed one, the block's header with its payload. -/
def State.elemBytes (s : State) (m : Command) (d : BitVec 512) (c : List Nat) (decomp : Bool) : Nat × Nat :=
  let b := (descShape d).bitOf c
  if decomp then
    let at_ := descBase d + 4104 * (b / 32768)
    (at_, 8 + (match (s.translate none (coreDie m.core) at_ false).2 with | .ok pa _ => s.physRead pa 8 / 2 ^ 16 % 2 ^ 13 | _ => 0))
  else if descFmt d = 14#4 then (descBase d + b / 8, 4 * (descPlanes d + 1))
  else (descBase d + b / 8, ceilDiv (elemWidth (descFmt d)) 8)
/-- Whether an element of a side that a command has moved lies in lines lost since: the retirement came while the command was in flight
(20 R393, 17 R336). -/
def State.lostElem (s : State) (m : Command) (e : Option CEnd) (c : List Nat) (wr : Bool) : Bool :=
  match e with
  | some (.tensor d) => (descShape d).inside c && (let (va, n) := s.elemBytes m d c (m.decomp && !wr); s.lostBytes m va n wr)
  | _ => false
def State.touchesLost (s : State) (m : Command) : Bool :=
  decide (m.deadAt < s.dead.length) && m.done.any (fun p =>
    s.lostElem m (s.cmdDst m) (m.dstAt p) true || (List.range (if m.xred then (winE m.swin).getD m.axis 1 else 1)).any (fun x => s.lostElem m (s.cmdSrc m) (m.srcAt p x) false))

/-- The command ends: what is left of it is moved, its signal written, its slot freed; nothing while a part is held. -/
def execCommandSignal (id : Nat) (s : State) : Out :=
  .next (match s.commands.find? (fun m => m.id == id) with
    | none => s
    | some m0 =>
      let s0 := if m0.isSpan && !m0.formed && s.cmdMayRead m0 then (s.formLocal m0).closeReduction m0.group m0.spanK else s
      let n := s0.cmdPositions m0
      let s1 := (List.range n).foldl (fun s p => s.cmdMove id p) s0
      match s1.commands.find? (fun m => m.id == id) with
      | none => s
      | some m =>
        if (m.isSpan && !m.formed) || (m.done.length < n && !m.rootFail) || (m.rel && !s1.earlierDone m.ref m.clauses m.ord) ||
           (m.persist && !s1.cmdDurable m) then (if m0.isSpan && !m0.formed then s0 else s)
        else
          let code := cmdStatus (addCodes m.errs ((s1.cmdBad m).toList ++ (if m.rootFail then [stAborted] else []) ++ (if s1.touchesLost m then [stRetired] else [])))
          match s1.cmdSignal m code with
          | none => s
          | some s2 =>
            let s3 := { s2 with commands := s2.commands.filter (fun x => !(x.id == id))
                                pspanOpen := if m.writesScm && !s1.cmdDurable m then s2.pspanOpen ++ [(m.ref, m.step)] else s2.pspanOpen
                                spanNodes := if m.isSpan then s2.spanNodes.filter (fun x => !(x.group == m.group && x.k == m.spanK)) else s2.spanNodes
                                spanVals := if m.isSpan then s2.spanVals.filter (fun x => !(x.group == m.group && x.k == m.spanK)) else s2.spanVals }
            (s3.sweepTiles m.crew).settle m.crew)

/-! ### The instructions (08 R176 to R180) -/

def execXwin (w : BitVec 4) (a : SReg) (s : State) : Out :=
  withTeam s fun r _ t =>
    let v : BitVec 256 := t.sregK a 3 ++ t.sregK a 2 ++ t.sregK a 1 ++ t.sregK a 0
    (s.putTeam r (t.advance 4)).modCrew r.crew (fun c => { c with windows := c.windows.set w.toNat v, tableErr := c.tableErr.filter (fun k => k != 320 + w.toNat) })

/-- The tile that a command captures under a handle: 0 for none. -/
def Crew.captureTile (c : Crew) (h : Nat) : Nat := match c.tile (BitVec.ofNat 8 h) with | none => 0 | some t => t.uid

/-- XCOPY and XRED: the words, windows, bindings and tiles are captured, the ticket taken (08 R177). -/
def issueCommand (xred : Bool) (d a : SReg) (s : State) : Out :=
  withTeam s fun r c t =>
    if 128 ≤ (s.commands.filter (fun m => m.core == c.core)).length then s
    else
      let words : BitVec 256 := t.sregK a 3 ++ t.sregK a 2 ++ t.sregK a 1 ++ t.sregK a 0
      let f (lo n : Nat) : Nat := (words.extractLsb' lo n).toNat
      let m : Command :=
        { id := s.nextCmd, xred := xred, crew := r.crew, team := r.team, core := c.core, ticket := t.batchOpen ++ t.seqNext, words := words
          swin := c.windows.getD (f 18 4) windowReset, dwin := c.windows.getD (f 22 4) windowReset
          sdesc := cellGet c.globals (f 0 8), ddesc := cellGet c.globals (f 9 8), suid := if f 8 1 = 0 then c.captureTile (f 0 8) else 0
          duid := if f 17 1 = 0 then c.captureTile (f 9 8) else 0, guid := if f 37 2 = 2 then c.captureTile (f 43 8) else 0, ord := t.nextOrd, clauses := t.nextClause, deadAt := s.dead.length
          spanK := if xred ∧ f 26 3 = 5 then (cellGet s.spanNext (f 224 16)).toNat else 0 }
      let t' := { t.result d (m.ticket.setWidth 64) 4 with seqNext := t.seqNext + 1#32, nextOrd := t.nextOrd + 1 }
      { s.putTeam r t' with commands := s.commands ++ [m], nextCmd := s.nextCmd + 1
                            spanNext := if m.isSpan then cellSet s.spanNext m.group.toNat (BitVec.ofNat 32 (m.spanK + 1)) else s.spanNext }

def execXcopy (d a : SReg) (s : State) : Out := issueCommand false d a s
def execXred (d a : SReg) (s : State) : Out := issueCommand true d a s

def execBclose (d : SReg) (s : State) : Out :=
  onTeam s (fun t => { t.result d (t.batchOpen.setWidth 64) 4 with batchOpen := t.batchOpen + 1#16 })

/-- BWAIT's effect once the team's commands of the batches have signalled. -/
def attemptBwait (d a : SReg) (s : State) (r : TeamRef) (t : Team) : Option State :=
  let n : BitVec 16 := field (t.sreg a) 15 0
  if s.commands.all (fun m => !(m.crew == r.crew && m.team == r.team && decide ((n - m.ticket.extractLsb' 32 16).toNat < 32768))) then
    some (s.modTeam r (fun t => { t.status d stOk 4 with swait := none }))
  else none

def execBwait (d a : SReg) (e : BitVec 5) (s : State) : Out :=
  withTeam s fun r _ t => s.waitOr r (.bwait d a e) e none (attemptBwait d a s r t) (statusTimeout s r d 4)

/-- MWAIT's effect once the stamp differs from s[d]: read at the home slice, never from the L1. -/
def attemptMwait (d a : SReg) (s : State) (r : TeamRef) (c : Crew) (t : Team) : Option State :=
  match s.globCheck c.core (t.sreg a).toNat 8 false true with
  | (s1, .error e, z) => if t.swait.isSome then none else some (s1.scalarFault r e z)
  | (s1, .ok (pa, _), _) =>
    let v : Word := BitVec.ofNat 64 (s1.physRead pa 8)
    if v = t.sreg d then none else some (s1.modTeam r (fun t => { t.result d v 4 with swait := none }))

/-- cat(status(TIMEOUT), s[d][47:0]) on expiry or a failed poll. -/
def mwaitTimeout (s : State) (r : TeamRef) (d : SReg) : State :=
  s.modTeam r (fun t => { t.result d ((BitVec.ofNat 16 stTimeout) ++ field (t.sreg d) 47 0) 4 with swait := none })

/-- The stream's own earlier stores to the stamp, which may clear its poison, come first (06 R118). -/
def execMwait (d a : SReg) (e : BitVec 5) (s : State) : Out :=
  withTeam s fun r c t =>
    match s.globCheck c.core (t.sreg a).toNat 8 false true with
    | (s1, .error x, z) => if x = stPoison && s1.storesOut r t then s1 else s1.scalarFault r x z
    | (s1, .ok (pa, _), _) =>
      if s1.olderOverlap r t .scalar t.nextOrd false (.glob (t.sreg a).toNat pa) 64 then s1
      else s1.waitOr r (.mwait d a e) e none (attemptMwait d a s1 r c t) (mwaitTimeout s1 r d)

/-- PBAR waits, as a hold, for the signals of the team's copies that write SCM. -/
def execPbarPdomain (s : State) : Out :=
  withTeam s fun r _ t =>
    if s.commands.any (fun m => m.crew == r.crew && m.team == r.team && m.writesScm) then s else s.putTeam r (t.advance 4)

/-- At pspan the writes to tracked pages also wait for the commitment of their step; with fewer than ten packages, or no
erasure group, PBAR.pspan is PBAR.pdomain (18 R351). -/
def execPbarPspan (s : State) : Out :=
  withTeam s fun r _ t =>
    if s.commands.any (fun m => m.crew == r.crew && m.team == r.team && m.writesScm) then s
    else if s.span.count.toNat < 10 || !s.span.erasure then s.putTeam r (t.advance 4)
    else if (s.pspanOpen.filter (fun p => p.1 == r)).any (fun p => match s.comet.committed with | none => true | some c => tagOlder c p.2) then s
    else s.putTeam r (t.advance 4)

def execStepmark (a : SReg) (s : State) : Out :=
  withTeam s fun r c t =>
    let n : BitVec 32 := field (t.sreg a) 31 0
    if s.tracked c && s.comet.tooNew n then s else s.putTeam r ({ t with stepNow := n }.advance 4)

end Sys2Proof.Machine
end

