-- ==== Sys2Proof/Machine/LaneMem.lean ====
section
/-! DEFINITION. Lane memory instructions: tile and global loads and stores, atomics, tagged accesses, remote loads, message
queues, compress-stores and work-list appends (10_lane_memory_isa R218 to R238, 18_instruction_faults R347, R353, R354). -/

namespace Sys2Proof.Machine

/-! ### Operands and elements (10 R218 to R220) -/

def memS0 (h : LaneHead) (m : ModM) : Src := srcOf h.s0 h.z0 h.b0 m.q0
def memS1 (h : LaneHead) : Src := srcOf h.s1 h.z1 h.b1 0#4
def memS2 (h : LaneHead) : Src := srcOf h.s2 h.z2 h.b2 0#4
/-- What the retain field of a lane memory instruction keeps. -/
def Team.memKeep (t : Team) (h : LaneHead) (m : ModM) : Option (SMap 64) := t.retained t.popped (retainSrc h.retain (memS0 h m) (memS1 h) (memS2 h))

/-- The first cause for the whole instruction of a tile form (18 R353). -/
def tileForm (c : Crew) (h : LaneHead) (m : ModM) (tagged : Bool) : Option Nat :=
  match c.tile m.handle with
  | none => some stBounds
  | some tl =>
    if tl.queue then some stBounds
    else if (tl.fmt == 14#4) != (h.ty == 14#4) || tl.width != elemWidth h.ty then some causeOperand
    else if tagged && !tl.tags then some causeTag
    else none

/-- The elements that lane l touches at coordinates c: (element of the register, coordinates, block word); none where one
lies outside the shape. -/
def laneElems (tl : Tile) (ty : BitVec 4) (sel : BitVec 5) (l : Nat) (c : Coord) : Option (List (Nat × Coord × Option Nat)) :=
  if ty = 14#4 then
    (if tl.planes.toNat < l % 32 then some []
     else if tl.inside c then some [(selIndex sel, tl.blockAt c, some (l % 32))] else none)
  else
    let es := if sel = 0#5 then (List.range (64 / elemWidth ty)).map (fun j => (j, c.plus1 j, none)) else [(selIndex sel, c, none)]
    if es.all (fun e => tl.inside e.2.1) then some es else none

/-! ### The common form of the instructions that leave the lane stream free (10 R221; 06 R123) -/

/-- The accesses of the lanes, those whose accesses fault with cause and pool, and the state after the translations. -/
structure LanePlan where
  s : State
  accs : List (Nat × Loc × Nat × AccKind)
  faults : List (Nat × Nat × Option Nat)

/-- A lane's accesses, or its fault. -/
abbrev LaneAcc := Except (Nat × Option Nat) (List (Loc × Nat × AccKind))

def planLanes (f : State → Nat → State × LaneAcc) : List Nat → LanePlan → LanePlan
  | [], p => p
  | l :: rest, p => match f p.s l with
    | (s1, .error e) => planLanes f rest { p with s := s1, faults := p.faults ++ [(l, e)] }
    | (s1, .ok as) => planLanes f rest { p with s := s1, accs := p.accs ++ as.map (fun a => (l, a)) }

/-- The pool whose emptiness caused every fault of a trap (17 R345). -/
def faultPool (l : List (Nat × Nat × Option Nat)) : Option Nat :=
  match l with
  | [] => none
  | (_, _, z) :: rest => if rest.all (fun q => q.2.2 == z) then z else none

/-- The lane fault mask and the cause of a set of faulting lanes. -/
def faultMask (lanes : Nat) (l : List (Nat × Nat × Option Nat)) : Mask := maskOf lanes (fun i => l.any (fun q => q.1 == i))
def faultCause (l : List (Nat × Nat × Option Nat)) : Nat := (firstCause (l.map (fun q => q.2.1))).getD 0

/-- A trap of the lane stream at the head clause for the faulting lanes. -/
def State.lanesFault (s : State) (r : TeamRef) (cl : Clause) (x : Mask) (l : List (Nat × Nat × Option Nat)) : State :=
  (s.modTeam r (fun t => t.laneFault (faultCause l) (faultMask t.lanes l) (some x) cl.addr)).notePool r false (faultPool l)

/-- A lane beyond the words of a block-plane block: it accesses nothing and never faults (10 R220). -/
def laneBeyond (c : Crew) (h : LaneHead) (m : ModM) (l : Nat) : Bool :=
  h.ty == 14#4 && (match c.tile m.handle with | none => false | some tl => decide (tl.planes.toNat < l % 32))

/-- The cause of a lane whose source registers meet an uncorrectable error (18 R352). -/
def Team.laneErrAt (t : Team) (srcs : List Src) (l : Nat) : Bool :=
  !t.laneErr.isEmpty && (srcs.filterMap Src.isReg).any (fun v => t.laneErr.contains (v * 1024 + l))

/-- Which write request an access belongs to: its pass for a store, its lane for an atomic (06 R123, 10 R232). -/
def reqOf (ord : Nat) (perLane : Bool) (l : Nat) : Nat := ord * 2048 + (if perLane then 64 + l else l / 32)

/-- A lane memory instruction that is not a waiting one: `f` gives each executing lane's accesses, `fin` a result written
in the passes to the lanes that do not fault. A store that would carry the counter past 65,535 waits; so does an instruction that
finds poison while a write of its team, which may clear it, is outstanding (18 R358). -/
def laneAccess (s : State) (h : LaneHead) (m : ModM) (srcs : List Src) (regs : List Nat) (whole : Crew → Option Nat) (store perLane : Bool)
    (f : TeamRef → Crew → Team → Mask → State → Nat → State × LaneAcc) (fin : Team → Mask → List Nat → Team) : Out :=
  laneFrame s h srcs regs fun r c t cl x0 =>
    match whole c with
    | some e => s.laneFaultAt r t e (wholeLanes x0 cl.mask) (some x0) cl.addr
    | none =>
      let x := match t.restart with | none => x0 | some q => q.x.getD x0
      let p := planLanes (fun s l => if t.laneErrAt srcs l && !laneBeyond c h m l then (s, .error (stUncorrectable, none)) else f r c t x s l) (maskLanes x0 t.lanes) ⟨s, [], []⟩
      let accs := p.accs.map (fun q => Access.mk t.nextOrd (reqOf t.nextOrd perLane q.1) .lane cl.uid q.1 q.2.1 q.2.2.1 q.2.2.2 t.lidx 0)
      let n := if store then ((accs.map (·.req)).eraseDups).length else 0
      if 65535 < t.lctr.toNat + n || (p.faults.any (fun q => q.2.1 == stPoison) && s.storesOut r t) then s
      else
        let ok := (maskLanes x0 t.lanes).filter (fun l => !(p.faults.any (fun q => q.1 == l)))
        let t1 := fin { t with pending := t.pending ++ accs, nextOrd := t.nextOrd + 1, lctr := t.lctr + BitVec.ofNat 16 n } x ok
        if p.faults.isEmpty then p.s.putTeam r (t1.laneDone (t.memKeep h m))
        else (p.s.putTeam r t1).lanesFault r cl x p.faults

def noFin (t : Team) (_ : Mask) (_ : List Nat) : Team := t

/-- A lane's tile accesses: BOUNDS outside the shape, POISON of a word read or merged into. -/
def tileAcc (crew : Nat) (tl : Tile) (w : Nat) (reads : Bool) (es : Option (List (Nat × Coord × Option Nat))) (k : Nat → AccKind) : LaneAcc :=
  match es with
  | none => .error (stBounds, none)
  | some l =>
    if (reads || decide (w < 32)) && l.any (fun e => tl.poisoned e.2.1 e.2.2) then .error (stPoison, none)
    else .ok (l.map (fun e => (.tile crew tl.uid e.2.1 e.2.2, w, k e.1)))

/-! ### TLD, TST, TLDT (10 R225, R229) -/

/-- The tile that a tile form's checks have found. -/
def formTile (c : Crew) (m : ModM) : Tile := (c.tile m.handle).getD (mkTile 0 0#8 0#64 0#32 false)

def execTld (h : LaneHead) (m : ModM) (s : State) : Out :=
  laneAccess s h m [memS0 h m] [h.dst.toNat] (fun c => tileForm c h m false) false false
    (fun r c t _ s l => (s, tileAcc r.crew (formTile c m) (elemWidth h.ty) true
      (laneElems (formTile c m) h.ty m.sel l (coordOf (t.src t.popped (memS0 h m) l))) (fun j => .load h.dst j))) noFin

def execTst (h : LaneHead) (m : ModM) (s : State) : Out :=
  laneAccess s h m [memS0 h m, memS1 h] [] (fun c => tileForm c h m false) true false
    (fun r c t _ s l => (s, tileAcc r.crew (formTile c m) (elemWidth h.ty) false
      (laneElems (formTile c m) h.ty m.sel l (coordOf (t.src t.popped (memS0 h m) l)))
      (fun j => .store (BitVec.ofNat 64 (getElem (elemWidth h.ty) j (t.src t.popped (memS1 h) l))) t.headStep))) noFin

/-- The elements of TLDT: rows from c0 on; of 4-bit elements, pairs along dimension 1. -/
def transposedElems (tl : Tile) (w : Nat) (c : Coord) : Option (List (Nat × Coord × Option Nat)) :=
  let es : List (Nat × Coord × Option Nat) :=
    if w = 4 then (List.range 16).map (fun i => (i, { c with c0 := c.c0 + i / 2, c1 := c.c1 + i % 2 }, none))
    else (List.range (64 / w)).map (fun i => (i, { c with c0 := c.c0 + i }, none))
  if es.all (fun e => tl.inside e.2.1) then some es else none

def execTldt (h : LaneHead) (m : ModM) (s : State) : Out :=
  let w := elemWidth h.ty
  laneAccess s h m [memS0 h m] [h.dst.toNat] (fun c => tileForm c h m false) false false
    (fun r c t _ s l =>
      let x := coordOf (t.src t.popped (memS0 h m) l)
      if w = 4 ∧ x.c1 % 2 = 1 then (s, .error (causeOperand, none))
      else (s, tileAcc r.crew (formTile c m) w true (transposedElems (formTile c m) w x) (fun j => .load h.dst j))) noFin

/-! ### GLD, GST (10 R230) -/

/-- Bytes of a global access: the named element's, or the register's. -/
def globBytes (h : LaneHead) (m : ModM) : Nat := if m.sel = 0#5 then 8 else elemWidth h.ty / 8

/-- A lane's global access of `n` bytes at `va`. -/
def globAcc (s : State) (core n : Nat) (va : Word) (wr rd : Bool) (k : AccKind) : State × LaneAcc :=
  match s.globCheck core va.toNat n wr rd with
  | (s1, .error e, z) => (s1, .error (e, z))
  | (s1, .ok (pa, _), _) => (s1, .ok [(.glob va.toNat pa, 8 * n, k)])

/-- The element of the register that a global access moves, in units of its own width. -/
def globElem (m : ModM) : Nat := if m.sel = 0#5 then 0 else selIndex m.sel

def execGld (h : LaneHead) (m : ModM) (s : State) : Out :=
  laneAccess s h m [memS0 h m] [h.dst.toNat] (fun _ => none) false false
    (fun _ c t _ s l => globAcc s c.core (globBytes h m) (t.src t.popped (memS0 h m) l) false true (.load h.dst (globElem m))) noFin

def execGst (h : LaneHead) (m : ModM) (s : State) : Out :=
  laneAccess s h m [memS0 h m, memS1 h] [] (fun _ => none) true false
    (fun _ c t _ s l => globAcc s c.core (globBytes h m) (t.src t.popped (memS0 h m) l) true false
      (.store (BitVec.ofNat 64 (getElem (8 * globBytes h m) (globElem m) (t.src t.popped (memS1 h) l))) t.headStep)) noFin

/-! ### ATOM (10 R232) -/

/-- The lane's operation with its operand and compare values. -/
def atomKind (h : LaneHead) (m : ModM) (t : Team) (l : Nat) : AccKind :=
  let w := elemWidth h.ty
  let k := selIndex m.sel
  .atom ((decodeAtomOp m.aop).getD .add) (BitVec.ofNat 64 (getElem w k (t.src t.popped (memS1 h) l)))
    (BitVec.ofNat 64 (getElem w k (t.src t.popped (memS2 h) l))) h.dst k

def execAtom (h : LaneHead) (m : ModM) (s : State) : Out :=
  let w := elemWidth h.ty
  laneAccess s h m ([memS0 h m, memS1 h] ++ if m.aop = 10#4 then [memS2 h] else []) [h.dst.toNat]
    (fun c => if m.glob then none else tileForm c h m false) true true
    (fun r c t _ s l =>
      let x := t.src t.popped (memS0 h m) l
      if m.glob then globAcc s c.core (w / 8) x true true (atomKind h m t l)
      else
        let tl := formTile c m
        (s, tileAcc r.crew tl w true (if tl.inside (coordOf x) then some [(selIndex m.sel, coordOf x, none)] else none) (fun _ => atomKind h m t l))) noFin

/-! ### CSTORE, XLD (10 R235, R236; 18 R354) -/

/-- Number of lanes of X below l. -/
def slotOf (x : Mask) (l : Nat) : Nat := (maskLanes x l).length

/-- The counts that CSTORE writes in its passes: n in .w0, k_l in .w1. -/
def cstoreFin (h : LaneHead) (t : Team) (x : Mask) (ok : List Nat) : Team :=
  ok.foldl (fun u l => u.setVreg h.dst.toNat l (BitVec.ofNat 64 ((maskLanes x t.lanes).length + slotOf x l * 2 ^ 32))) t

/-- A lane's access at its slot: in a tile along dimension 1, in global memory by whole elements, where the address does not wrap. -/
def slotAcc (h : LaneHead) (m : ModM) (r : TeamRef) (c : Crew) (t : Team) (x : Mask) (s : State) (l : Nat) (wr : Bool) (k : AccKind) : State × LaneAcc :=
  let w := elemWidth h.ty
  let b := t.src t.popped (memS0 h m) l
  if m.glob then
    (let va := b.toNat + slotOf x l * (w / 8)
     if va < 2 ^ 64 then globAcc s c.core (w / 8) (BitVec.ofNat 64 va) wr (!wr) k
     else (s, .error (if va % (w / 8) ≠ 0 then causeAlignment else stTranslation, none)))
  else
    let tl := formTile c m
    let y := (coordOf b).plus1 (slotOf x l)
    (s, tileAcc r.crew tl w (!wr) (if tl.inside y then some [(selIndex m.sel, y, none)] else none) (fun _ => k))

def execCstore (h : LaneHead) (m : ModM) (s : State) : Out :=
  laneAccess s h m [memS0 h m, memS1 h] [h.dst.toNat] (fun c => if m.glob then none else tileForm c h m false) true false
    (fun r c t x s l => slotAcc h m r c t x s l true
      (.store (BitVec.ofNat 64 (getElem (elemWidth h.ty) (selIndex m.sel) (t.src t.popped (memS1 h) l))) t.headStep)) (cstoreFin h)

def execXld (h : LaneHead) (m : ModM) (s : State) : Out :=
  laneAccess s h m [memS0 h m] [h.dst.toNat] (fun c => if m.glob then none else tileForm c h m false) false false
    (fun r c t x s l => slotAcc h m r c t x s l false (.load h.dst (selIndex m.sel))) noFin

/-! ### Waiting instructions (10 R221, R222) -/

/-- No earlier access of the lane stream is outstanding: what a release waits for (06 R125). -/
def State.laneIdle (s : State) (r : TeamRef) (t : Team) : Bool :=
  t.streamIdle .lane && s.wlItems.all (fun i => i.team != r) && s.matrix.all (fun c => c.team != r)

/-- How a lane's wait stands: not yet served, a fault, or the state after it has resolved. -/
abbrev LaneRes := Option (Except Nat State)

/-- A lane resolves: its status is written to the register given. -/
def State.laneStatus (s : State) (r : TeamRef) (reg : BitVec 9) (l code : Nat) : State := s.modTeam r (fun t => t.setVreg reg.toNat l (BitVec.ofNat 64 code))

def State.modTile (s : State) (k u : Nat) (f : Tile → Tile) : State :=
  match s.tileAt k u with
  | none => s
  | some t => s.putTile k (f t)

/-- The element k of width w of a register of lane l written. -/
def Team.putLane (t : Team) (reg : BitVec 9) (l w k v : Nat) : Team := t.setVreg reg.toNat l (putElem w k (t.vreg reg.toNat l) v)

/-- A tagged access once the port serves it: `loads` moves the element into v[d], else s1's into the element; `tag` is what
the tags become, none to leave them (10 R226). -/
def tryTagged (h : LaneHead) (m : ModM) (loads : Bool) (tag : Option Bool) (s : State) (r : TeamRef) (w : LaneWait) : LaneRes :=
  match w.want with
  | none => some (.ok s)
  | some g => match s.tileAt g.crew g.uid, s.teamAt r with
    | some tl, some (_, t) =>
      if tl.freed || !s.servable w.began g then none
      else if loads then
        if tl.poisoned g.c g.blk then some (.error stPoison)
        else
          let s1 := match tag with | none => s | some b => s.modTile g.crew g.uid (fun t => t.setTag g.c g.blk b)
          some (.ok ((s1.modTeam r (fun t => t.putLane h.dst w.lane (elemWidth h.ty) (selIndex m.sel) (tl.read g.c g.blk))).laneStatus r h.s2 w.lane stOk))
      else
        match s.tileWrite g.crew g.uid g.c g.blk (getElem (elemWidth h.ty) (selIndex m.sel) w.b) t.headStep (tag == some true) with
        | .error _ => none
        | .ok s1 => some (.ok (s1.laneStatus r h.s2 w.lane stOk))
    | _, _ => none

/-- What a remote reference reaches (05 R106). -/
inductive Remote where
  | refused
  | notStarted
  | tile (crew : Nat) (t : Tile)
  deriving DecidableEq, Repr

/-- A crew that is neither in the never-started ranges nor known has completed (19 R369); set bits [63:40] refuse the reference
(notes/assumptions/70.md). -/
def State.remote (s : State) (c : Crew) (ref : Word) : Remote :=
  let i := getElem 32 0 ref
  if ref.toNat / 2 ^ 40 ≠ 0 ∨ s.crewCount c ≤ i then .refused
  else match (s.crews.zipIdx).find? (fun p => p.1.launchId == c.launchId && p.1.crewId.toNat == i) with
    | none => if (match s.launchOf c with | none => false | some l => l.ranges.any (fun p => decide (p.1 ≤ i ∧ i < p.1 + p.2))) then .notStarted else .refused
    | some (d, k) =>
      if d.state != .live then .refused
      else match d.tile (BitVec.ofNat 8 (ref.toNat / 2 ^ 32 % 256)) with
        | none => .refused
        | some t => .tile k t

/-- The core of the crew gives the core of another an answer: its die is not silent to it (17 R344). -/
def State.hears (s : State) (c : Crew) (k : Nat) : Bool :=
  match s.crewAt k with
  | none => true
  | some d => match d.place with
    | none => true
    | some core => !(s.silentTo (coreDie c.core)).contains (coreDie core)

/-- A request to the core of another crew, counted where that is on another die (15 R323). -/
def State.countReach (s : State) (c : Crew) (k : Nat) : State :=
  match (s.crewAt k).bind (fun d => d.place) with
  | none => s
  | some core => if coreDie core = coreDie c.core then s else (s.count (coreDie c.core) 8 1).count (coreDie core) 9 1

/-- The target refuses an RLD (10 R231). -/
def State.rldRefuses (s : State) (h : LaneHead) (m : ModM) (c : Crew) (w : LaneWait) : Bool :=
  match s.remote c w.a with
  | .refused => true
  | .notStarted => false
  | .tile k tl => s.hears c k && (tl.queue || tl.fmt == 14#4 || tl.width != elemWidth h.ty || (laneElems tl h.ty m.sel w.lane (coordOf w.b)).isNone)

/-- RLD when its target's answer has come: refusals give BOUNDS (10 R231). -/
def tryRld (h : LaneHead) (m : ModM) (s : State) (r : TeamRef) (w : LaneWait) : LaneRes :=
  let refused : LaneRes := some (.ok (s.laneStatus r h.s2 w.lane stBounds))
  match s.teamAt r with
  | none => none
  | some (c, _) => match s.remote c w.a with
    | .refused => refused
    | .notStarted => none
    | .tile k tl =>
      if !s.hears c k then none
      else if tl.queue || tl.fmt == 14#4 || tl.width != elemWidth h.ty then refused
      else match laneElems tl h.ty m.sel w.lane (coordOf w.b) with
        | none => refused
        | some es =>
          if es.any (fun e => tl.poisoned e.2.1 e.2.2) then some (.error stPoison)
          else some (.ok (((s.countReach c k).modTeam r (fun t => es.foldl (fun t e => t.putLane h.dst w.lane (elemWidth h.ty) e.1 (tl.read e.2.1 e.2.2)) t)).laneStatus r h.s2 w.lane stOk))

/-- The words of an entry written in order at the queue's drain port. -/
def State.putEntry (s : State) (k uid row : Nat) (step : BitVec 32) (v : Nat → Nat) : List Nat → Except Stop State
  | [] => .ok s
  | i :: rest => match s.tileWrite k uid ⟨row, i, 0, 0⟩ none (v i) step false with
    | .error x => .error x
    | .ok s1 => s1.putEntry k uid row step v rest

/-- Word i of the message group that begins at s1, whose value is `first` (10 R233): with its Z flag the whole group reads zero, and
the B flag replaces its first register alone (10 R218, 03 R65; notes/assumptions/20.md). -/
def Team.groupWord (t : Team) (h : LaneHead) (first : Word) (l i : Nat) : Nat :=
  if i < 2 then getElem 32 i first else if h.z1 then 0 else getElem 32 (i % 2) (t.vreg (h.s1.toNat + i / 2) l)

/-- The registers of a message group after its first. -/
def groupRest (h : LaneHead) (words : Nat) : List Src := if h.z1 then [] else (List.range (ceilDiv words 2 - 1)).map (fun j => .reg (h.s1.toNat + 1 + j))

/-- Whether a register group that begins at `reg` passes the allocation. -/
def groupOver (t : Team) (reg : BitVec 9) (words : Nat) : Bool := decide (t.regs < reg.toNat + ceilDiv words 2)

/-- MSGPUT once the queue has room and no lower lane waits on the same queue. Where the group's length was not known when the lane issued,
its registers are tested now, for the lane alone (notes/assumptions/20.md). -/
def tryMsgput (h : LaneHead) (s : State) (r : TeamRef) (w : LaneWait) : LaneRes :=
  let refused : LaneRes := some (.ok (s.laneStatus r h.s2 w.lane stBounds))
  match s.teamAt r with
  | none => none
  | some (c, t) => match s.remote c w.a with
    | .refused => refused
    | .notStarted => none
    | .tile k tl =>
      if !s.hears c k then none
      else if !tl.queue then refused
      else if !h.z1 && groupOver t h.s1 tl.n1.toNat then some (.error causeRegister)
      else if t.laneErrAt (groupRest h tl.n1.toNat) w.lane then some (.error stUncorrectable)
      else if t.lwaits.any (fun o => decide (o.lane < w.lane) && o.a == w.a) then none
      else
        let n := tl.n0.toNat
        let used := (tl.tail - tl.head).toNat
        if n ≤ used then none
        else match s.putEntry k tl.uid (tl.tail.toNat % n) t.headStep (fun i => t.groupWord h w.b w.lane i) (List.range tl.n1.toNat) with
          | .error _ => none
          | .ok s1 =>
            let s2 := (s1.countReach c k).modTile k tl.uid (fun t => { t with tail := t.tail + 1#32 })
            some (.ok ((s2.modTeam r (fun t => t.setVreg h.dst.toNat w.lane (BitVec.ofNat 64 (n - (used + 1))))).laneStatus r h.s2 w.lane stOk))

/-- The core that a lane's RLD or MSGPUT asks gives no answer. -/
def State.unheard (s : State) (r : TeamRef) (w : LaneWait) : Bool :=
  match w.instr, s.teamAt r with
  | .rld _ _, some (c, _) | .msgput _ _, some (c, _) => (match s.remote c w.a with | .tile k _ => !s.hears c k | _ => false)
  | _, _ => false

/-- Whether a MSGTAKE that began earlier still waits on the queue. -/
def State.takerBefore (s : State) (began : Nat) (g : TagWant) : Bool :=
  s.crews.any (fun c => c.teams.any (fun t => t.lwaits.any (fun o =>
    match o.instr, o.want with
    | .msgtake _ _, some x => decide (o.began < began) && x == g
    | _, _ => false)))

/-- MSGTAKE once the queue has an entry for the lane: the lowest waiting lane of the instruction that has waited longest. -/
def tryMsgtake (h : LaneHead) (s : State) (r : TeamRef) (w : LaneWait) : LaneRes :=
  match w.want with
  | none => none
  | some g => match s.tileAt g.crew g.uid, s.teamAt r with
    | some q, some (_, t) =>
      if q.freed || q.head == q.tail || t.lwaits.any (fun o => decide (o.lane < w.lane)) || s.takerBefore w.began g then none
      else
        let row := q.head.toNat % q.n0.toNat
        let e := q.n1.toNat
        if (List.range e).any (fun i => q.poisoned ⟨row, i, 0, 0⟩ none) then some (.error stPoison)
        else
          let word (i : Nat) : Nat := if i < e then q.read ⟨row, i, 0, 0⟩ none else 0
          let s1 := s.modTile g.crew g.uid (fun t => { t with head := t.head + 1#32 })
          some (.ok ((s1.modTeam r (fun t => (List.range (ceilDiv e 2)).foldl (fun t j =>
            t.setVreg (h.dst.toNat + j) w.lane (BitVec.ofNat 64 (word (2 * j) + word (2 * j + 1) * 2 ^ 32))) t)).laneStatus r h.s2 w.lane stOk))
    | _, _ => none

/-- The attempt of a waiting lane. -/
def laneTry (s : State) (r : TeamRef) (w : LaneWait) : LaneRes :=
  match w.instr with
  | .tldf h m => tryTagged h m true (if m.consume then some false else none) s r w
  | .tste h m => tryTagged h m false (some true) s r w
  | .tldIfempty h m => tryTagged h m true none s r w
  | .tstIffull h m => tryTagged h m false none s r w
  | .rld h m => tryRld h m s r w
  | .msgput h _ => tryMsgput h s r w
  | .msgtake h _ => tryMsgtake h s r w
  | _ => none

/-- The attempt of a lane in its own pass: the data that an RLD waits for is not there yet (02 R38, R44), and a target that refuses it
says so at once (notes/assumptions/17.md). -/
def laneTryFirst (s : State) (r : TeamRef) (w : LaneWait) : LaneRes :=
  match w.instr with
  | .rld h m => if (match s.teamAt r with | none => false | some (c, _) => s.rldRefuses h m c w) then tryRld h m s r w else none
  | _ => laneTry s r w

/-- The status register of a waiting lane instruction. -/
def statusReg : Instr → BitVec 9
  | .tldf h _ | .tste h _ | .tldIfempty h _ | .tstIffull h _ | .rld h _ | .msgput h _ | .msgtake h _ => h.s2
  | _ => 0#9

/-- A lane whose attempt does not succeed although its condition holds: the port's write is held (by an MMA, by Comet), or another
waiter that is served first has not been served, or the answer of an RLD's target is on its way. Its count cannot find the condition
false (10 R222, R226, R227, R231, R233, R234). -/
def State.laneHeld (s : State) (r : TeamRef) (w : LaneWait) : Bool :=
  match w.instr, w.want with
  | .msgtake _ _, some g => (match s.tileAt g.crew g.uid with | none => false | some q => !q.freed && q.head != q.tail)
  | .msgput _ _, _ => (match s.teamAt r with
    | none => false
    | some (c, t) => t.lwaits.any (fun o => decide (o.lane < w.lane) && o.a == w.a) ||
      (match s.remote c w.a with | .tile _ tl => tl.queue && decide ((tl.tail - tl.head).toNat < tl.n0.toNat) | _ => false))
  | .rld _ _, _ => (match s.teamAt r with
    | none => false
    | some (c, _) => match s.remote c w.a with | .notStarted => false | _ => true)
  | _, some g => (match s.tileAt g.crew g.uid with | none => false | some q => !q.freed && s.tagHolds g)
  | _, none => false

/-- A waiting lane expires; with it every lane of a MSGTAKE still without an entry, or every higher lane of a MSGPUT on the same
queue (10 R233, R234). -/
def State.laneExpire (s : State) (r : TeamRef) (w : LaneWait) : State :=
  let also (o : LaneWait) : Bool := o.lane == w.lane || (match w.instr with | .msgtake _ _ => true | .msgput _ _ => decide (w.lane < o.lane) && o.a == w.a | _ => false)
  s.modTeam r (fun t => (w :: t.lwaits.filter also).foldl (fun t o => t.setVreg (statusReg w.instr).toNat o.lane (BitVec.ofNat 64 stTimeout)) { t with lwaits := t.lwaits.filter (fun o => !also o) })

/-- A waiting instruction completes when no lane is unresolved and none is left to re-execute. -/
def Team.laneSettle (t : Team) : Team := if t.lwaits.isEmpty && t.restart.isNone && !t.faulted then t.laneDone t.obufNext else t

/-- The lanes of a waiting instruction tried in ascending order: those that cannot be served wait, or expire at e = 0; one whose
condition holds stands expired and unserved until what holds its effect is over. -/
def waitLanes (r : TeamRef) (e : BitVec 5) (w : State → Nat → Except Nat LaneWait) : List Nat → State → List (Nat × Nat × Option Nat) → State × List (Nat × Nat × Option Nat)
  | [], s, fs => (s, fs)
  | l :: rest, s, fs => match w s l with
    | .error c => waitLanes r e w rest s (fs ++ [(l, c, none)])
    | .ok x => match laneTryFirst s r x with
      | some (.ok s1) => waitLanes r e w rest s1 fs
      | some (.error c) => waitLanes r e w rest s (fs ++ [(l, c, none)])
      | none =>
        if e = 0#5 && !s.laneHeld r x then waitLanes r e w rest (s.laneExpire r x) fs
        else if e = 0#5 then waitLanes r e w rest (s.modTeam r (fun t => { t with lwaits := t.lwaits ++ [{ x with remaining := some 0 }] })) fs
        else waitLanes r e w rest (s.modTeam r (fun t => { t with lwaits := t.lwaits ++ [x] })) fs

/-- A waiting instruction: what comes before its clause's accesses (03 R68, R70) and `ready` hold it back, `want` makes each
executing lane's wait or its fault; the waits of a pass begin before those of the next (10 R227). A write request of one that stores is issued when its wait ends and acknowledged in the same
step, so the counter rises and falls at once; where it could not rise, the instruction waits (06 R123; notes/assumptions/58.md).
`group` are further registers that a lane reads. -/
def laneWaiting (s : State) (i : Instr) (h : LaneHead) (m : ModM) (srcs : List Src) (regs : List Nat) (store : Bool) (whole : State → Crew → Team → Mask → Option Nat)
    (ready : State → TeamRef → Crew → Team → Mask → Bool) (want : TeamRef → Crew → Nat → Word → Except Nat (Option TagWant))
    (group : State → Crew → Word → List Src := fun _ _ _ => []) : Out :=
  laneFrame s h srcs regs fun r c t cl x =>
    match whole s c t x with
    | some e => s.laneFaultAt r t e (wholeLanes x cl.mask) (some x) cl.addr
    | none =>
      if !s.clauseFree r t cl || !ready s r c t x || (store && decide (65535 < t.lctr.toNat + t.bands)) then s
      else
        let began := s.nextWait
        let w (s : State) (l : Nat) : Except Nat LaneWait :=
          let a := t.src t.popped (memS0 h m) l
          match (if t.laneErrAt (srcs ++ group s c a) l && !laneBeyond c h m l then .error stUncorrectable else want r c l a) with
          | .error e => .error e
          | .ok g => .ok ⟨l, i, if m.e = 31#5 then none else some (2 ^ m.e.toNat), began + l / 32, g, a, t.src t.popped (memS1 h) l, 0⟩
        let t1 := { t with taken := t.popped, restart := none, lfm := if t.restart.isSome then 0#1024 else t.lfm, obufNext := t.memKeep h m }
        let (s1, fs) := waitLanes r m.e w (maskLanes x t.lanes) { s.putTeam r t1 with nextWait := s.nextWait + t.bands } []
        if fs.isEmpty then s1.modTeam r (fun t => t.laneSettle) else s1.lanesFault r cl x fs

/-- The word that a tagged form's lane waits on: none for a lane beyond a block's words; BOUNDS outside the shape. -/
def tagWant (h : LaneHead) (m : ModM) (full : Bool) (r : TeamRef) (c : Crew) (l : Nat) (a : Word) : Except Nat (Option TagWant) :=
  let tl := formTile c m
  match laneElems tl h.ty m.sel l (coordOf a) with
  | none => .error stBounds
  | some [] => .ok none
  | some (e :: _) => .ok (some ⟨r.crew, tl.uid, e.2.1, full, e.2.2⟩)

/-- The stream's earlier accesses to the words named come first (06 R118). -/
def tagReady (h : LaneHead) (m : ModM) (store : Bool) (s : State) (r : TeamRef) (c : Crew) (t : Team) (x : Mask) : Bool :=
  (maskLanes x t.lanes).all (fun l => match tagWant h m true r c l (t.src t.popped (memS0 h m) l) with
    | .ok (some g) => !s.olderOverlap r t .lane t.nextOrd store (.tile g.crew g.uid g.c g.blk) 64
    | _ => true)

def execTldf (h : LaneHead) (m : ModM) (s : State) : Out :=
  laneWaiting s (.tldf h m) h m [memS0 h m] [h.dst.toNat, h.s2.toNat] false (fun _ c _ _ => tileForm c h m true) (tagReady h m false) (tagWant h m true)
def execTldIfempty (h : LaneHead) (m : ModM) (s : State) : Out :=
  laneWaiting s (.tldIfempty h m) h m [memS0 h m] [h.dst.toNat, h.s2.toNat] false (fun _ c _ _ => tileForm c h m true) (tagReady h m false) (tagWant h m false)
def execTstIffull (h : LaneHead) (m : ModM) (s : State) : Out :=
  laneWaiting s (.tstIffull h m) h m [memS0 h m, memS1 h] [h.s2.toNat] true (fun _ c _ _ => tileForm c h m true) (tagReady h m true) (tagWant h m true)
/-- TSTE is a release: every earlier access of the lane stream is performed first (06 R125). -/
def execTste (h : LaneHead) (m : ModM) (s : State) : Out :=
  laneWaiting s (.tste h m) h m [memS0 h m, memS1 h] [h.s2.toNat] true (fun _ c _ _ => tileForm c h m true) (fun s r _ t _ => s.laneIdle r t) (tagWant h m false)

/-- RLD waits for the lane stream's own tile accesses, MDRAINs among them, which it may follow. -/
def execRld (h : LaneHead) (m : ModM) (s : State) : Out :=
  laneWaiting s (.rld h m) h m [memS0 h m, memS1 h] [h.dst.toNat, h.s2.toNat] false (fun _ _ _ _ => none)
    (fun s r _ t _ => t.pending.all (fun a => a.stream != .lane || (match a.loc with | .glob _ _ => true | .tile _ _ _ _ => false)) &&
      s.matrix.all (fun m => m.team != r || m.uidA == 0 || (match m.instr with | .mdrain _ _ => false | _ => true))) (fun _ _ _ _ => .ok none)

/-- Words of an entry of the queue that a reference reaches: 0 where it reaches none. The tiles of a crew that has not started are those
that its launch declares (notes/assumptions/20.md). -/
def State.entryWords (s : State) (c : Crew) (ref : Word) : Nat :=
  let words (t : Tile) : Nat := if t.queue then t.n1.toNat else 0
  match s.remote c ref with
  | .tile _ t => words t
  | .notStarted => (match (s.launchOf c).bind (fun l => l.tiles.find? (fun t => t.handle == BitVec.ofNat 8 (ref.toNat / 2 ^ 32 % 256))) with
    | none => 0
    | some t => words t)
  | .refused => 0

def execMsgput (h : LaneHead) (m : ModM) (s : State) : Out :=
  laneWaiting s (.msgput h m) h m [memS0 h m, memS1 h] [h.dst.toNat, h.s2.toNat] true
    (fun s c t x => if !h.z1 && (maskLanes x t.lanes).any (fun l => groupOver t h.s1 (s.entryWords c (t.src t.popped (memS0 h m) l))) then some causeRegister else none)
    (fun _ _ _ _ _ => true) (fun _ _ _ _ => .ok none) (fun s c a => groupRest h (s.entryWords c a))

def execMsgtake (h : LaneHead) (m : ModM) (s : State) : Out :=
  laneWaiting s (.msgtake h m) h m [] [h.dst.toNat, h.s2.toNat] false
    (fun _ c t _ => match c.tile m.handle with
      | none => some stBounds
      | some q => if !q.queue then some stBounds else if groupOver t h.dst q.n1.toNat then some causeRegister else none)
    (fun _ _ _ _ _ => true)
    (fun r c _ _ => .ok (some ⟨r.crew, (formTile c m).uid, ⟨0, 0, 0, 0⟩, true, none⟩))

/-! ### WLAPP (08 R181, 10 R237) -/

/-- A team's standing in a set, with a seed when it names the set for the first time (02 R47). -/
def Team.joinSet (t : Team) (set : Nat) : Team := if t.wl.any (fun w => w.set == set) then t else { t with wl := t.wl ++ [⟨set, 0, true⟩] }

/-- How a lane's append begins: a fault, a status at once, or an item for the compaction unit. -/
inductive WlStart where
  | fault (cause : Nat) (z : Option Nat)
  | refused (named : Bool)
  | item
  deriving DecidableEq, Repr

def wlStart (s : State) (core : Nat) (bad : Bool) (set list : Nat) : State × WlStart :=
  if bad then (s, .fault stUncorrectable none)
  else match s.globCheck core set 64 true true with
  | (s1, .error e, z) => (s1, .fault e z)
  | (s1, .ok (pa, _), _) =>
    let b := wlBlockOf (s1.physRead pa 64)
    (s1, if !b.ok then .refused false else if b.lists ≤ list then .refused true else .item)

/-- The lanes of a WLAPP in ascending order: set `a`, item `b`, list `c`; `base` is the first run number of the instruction. -/
def wlLanes (r : TeamRef) (cl : Clause) (h : LaneHead) (core : Nat) (bad : Nat → Bool) (a b c : Nat → Word) (ord idx base : Nat) :
    List Nat → State → List (Nat × Nat × Option Nat) → State × List (Nat × Nat × Option Nat)
  | [], s, fs => (s, fs)
  | l :: rest, s, fs =>
    let set := (a l).toNat
    let list := getElem 32 0 (c l)
    match wlStart s core (bad l) set list with
    | (s1, .fault e z) => wlLanes r cl h core bad a b c ord idx base rest s1 (fs ++ [(l, e, z)])
    | (s1, .refused named) =>
      let s2 := if named then s1.modTeam r (fun t => t.joinSet set) else s1
      wlLanes r cl h core bad a b c ord idx base rest (s2.laneStatus r h.dst l stBounds) fs
    | (s1, .item) =>
      let run := match s1.wlItems.find? (fun q => decide (base ≤ q.run) && q.set == set && q.list == list) with | none => s1.nextRun | some q => q.run
      let it : WlItem := { team := r, clause := cl.uid, ord := ord, gang := coreGang core, lane := l, set := set, list := list, dest := h.dst, item := b l, run := run, idx := idx }
      let s2 := { s1 with wlItems := s1.wlItems ++ [it], nextRun := max s1.nextRun (run + 1) }
      wlLanes r cl h core bad a b c ord idx base rest (s2.modTeam r (fun t => { t.joinSet set with lctr := t.lctr + 1#16 })) fs

/-- WLAPP: the items go to the compaction unit, and the lane stream goes on (R221, R237). -/
def execWlapp (h : LaneHead) (m : ModM) (s : State) : Out :=
  laneFrame s h [memS0 h m, memS1 h, memS2 h] [h.dst.toNat] fun r c t cl x =>
    let lanes := maskLanes x t.lanes
    if 65535 < t.lctr.toNat + lanes.length then s
    else
      let src (k : Src) (l : Nat) : Word := t.src t.popped k l
      let (s1, fs) := wlLanes r cl h c.core (t.laneErrAt [memS0 h m, memS1 h, memS2 h]) (src (memS0 h m)) (src (memS1 h)) (src (memS2 h)) t.nextOrd t.lidx s.nextRun lanes
        (s.putTeam r { t with nextOrd := t.nextOrd + 1 }) []
      if fs.isEmpty then s1.modTeam r (fun u => u.laneDone (t.memKeep h m)) else s1.lanesFault r cl x fs

/-! ### The completion of accesses (03 R57; 06 R118, R123, R124) -/

/-- The clause of an access. -/
def Team.clauseOf (t : Team) (uid : Nat) : Option Clause := t.holders.find? (fun c => c.uid == uid)

/-- The header address of a clause that the team holds. -/
def Team.clauseAddr (t : Team) (uid : Nat) : Nat := match t.clauseOf uid with | none => 0 | some cl => cl.addr

/-- Whether an outstanding access may be performed: the stream's older accesses to the location, the clauses before its
clause's MPOP (03 R68), and the scalar stream's tile stores before its LQ (03 R70) come first. -/
def State.mayPerform (s : State) (r : TeamRef) (t : Team) (a : Access) : Bool :=
  !s.olderOverlap r t a.stream a.ord a.isStore a.loc a.width &&
  (a.stream == .scalar || (match t.clauseOf a.clause with | none => true | some c => s.clauseFree r t c))

/-- Access number k leaves the list; its counter falls when it is the last of its request. One that was made again has mended its lane. -/
def Team.retireAccess (t : Team) (k : Nat) (a : Access) : Team :=
  let t0 := if t.lfm != 0#1024 && a.stream == .lane && t.pending.countP (fun b => b.stream == .lane && b.lane == a.lane) ≤ 1 then t.laneMended a.lane else t
  let t1 := { t0 with pending := t.pending.eraseIdx k }
  let counted := match a.kind with | .load _ _ => false | _ => true
  if !counted || t1.pending.any (fun b => b.stream == a.stream && b.req == a.req) then t1
  else match a.stream with
    | .scalar => { t1 with sctr := t1.sctr - 1#16 }
    | .lane => { t1 with lctr := t1.lctr - 1#16 }

/-- A load's value at its point, or a hold (06 R117, R124). -/
def State.performLoad (s : State) (r : TeamRef) (core : Nat) (a : Access) : Except Stop (State × Nat) :=
  match a.loc with
  | .tile k u c b => .ok (s, match s.tileAt k u with | none => 0 | some t => t.read c b)
  | .glob _ pa => s.l1Load (s.lineBusy core (pa / 64) r a.ord) core pa (a.width / 8)

/-- The entry of the page of a virtual address, as its table holds it now. -/
def State.pteOf (s : State) (va : Nat) : Word := match s.rangeOf va with | none => 0#64 | some g => s.pte g va

/-- A store or atomic update performed at its point, with the old value. -/
def State.performWrite (s : State) (core : Nat) (step : BitVec 32) (a : Access) : Except Stop (State × Nat) :=
  match a.loc, a.kind with
  | .tile k u c b, .store v st => (s.tileWrite k u c b v.toNat st false).map (·, 0)
  | .tile k u c b, .atom op x y _ _ =>
    let old := match s.tileAt k u with | none => 0 | some t => t.read c b
    (s.tileUpdate k u c b (fun o => atomNew op a.width o x.toNat y.toNat) step false).map (·, old)
  | .glob va pa, .store v st =>
    (s.pageWrite va pa (s.pteOf va) st (a.width / 8) v.toNat).map (fun s1 => ((s1.l1Update core pa (a.width / 8) v.toNat).countRequest (coreDie core) pa true, 0))
  | .glob va pa, .atom op x y _ _ => s.globAtom core va pa (a.width / 8) op x y step
  | _, .load _ _ => .ok (s, 0)

/-- A freed tile that the access was the last to name is gone (08 R173). -/
def State.sweepLoc (s : State) (l : Loc) : State :=
  match l with
  | .tile k _ _ _ => s.sweepTiles k
  | .glob _ _ => s

/-- The home of an access gives the core no answer (17 R344). -/
def State.muted (s : State) (core : Nat) (l : Loc) : Bool :=
  match l with
  | .glob _ pa => (s.silentTo (coreDie core)).contains (paDie pa)
  | .tile _ _ _ _ => false

/-- The step that an access of a team carries. -/
def Team.accessStep (t : Team) (a : Access) : BitVec 32 := match t.clauseOf a.clause with | none => t.stepNow | some cl => cl.step

/-- Access number k, whose home gives no answer, fails when its guard expires; a store or atomic may have been performed all the same, which
a free value decides. A scalar store traps where the stream has come to; a lane's access is kept, and made again when its team is placed
again (17 R342, R344, R345; notes/assumptions/47.md). -/
def State.accessFails (s : State) (r : TeamRef) (k : Nat) (a : Access) : State :=
  match s.teamAt r with
  | none => s
  | some (c, t) =>
    if a.age < dieGuard then s
    else
      let did : State := match (if a.isStore && (Config.freeValue s.free).getLsbD 0 then s.performWrite c.core (t.accessStep a) a else .ok (s, 0)) with
        | .ok (s1, _) => { s1 with free := max s1.free (s.free + 1) }
        | .error _ => { s with free := s.free + 1 }
      let u := t.retireAccess k a
      if t.finished then (did.putTeam r u).completeCrew r.crew
      else match a.stream with
      | .scalar => if t.faulted then did.putTeam r u else (did.putTeam r u).scalarFault r stUncorrectable none
      | .lane => (did.putTeam r { u.lateTrap a.lane a.idx stUncorrectable (t.clauseAddr a.clause) with again := u.again ++ [a] }).notePool r t.faulted none

/-- Access number k, a load or an atomic, completes: its value is written to its register. -/
def execLongLatencyComplete (r : TeamRef) (k : Nat) (s : State) : Out :=
  .next (match s.teamAt r with
    | none => s
    | some (c, t) => match t.pending[k]? with
      | none => s
      | some a =>
        if c.place.isNone || !s.mayPerform r t a then s
        else if s.muted c.core a.loc then (match a.kind with | .store _ _ => s | _ => s.accessFails r k a)
        else match a.kind with
          | .store _ _ => s
          | .load d e => match s.performLoad r c.core a with
            | .error _ => s
            | .ok (s1, v) => (s1.modTeam r (fun t => (t.retireAccess k a).putLane d a.lane a.width e v)).sweepLoc a.loc
          | .atom _ _ _ d e => match s.performWrite c.core (t.accessStep a) a with
            | .error _ => s
            | .ok (s1, v) => (s1.modTeam r (fun t => (t.retireAccess k a).putLane d a.lane a.width e v)).sweepLoc a.loc)

/-- Store access number k of the team is performed and acknowledged, if it is the stream's. A store whose lines were lost
since its issue is acknowledged without effect. -/
def execStoreAck (r : TeamRef) (st : Stream) (k : Nat) (s : State) : Out :=
  .next (match s.teamAt r with
    | none => s
    | some (c, t) => match t.pending[k]? with
      | none => s
      | some a =>
        if c.place.isNone || a.stream != st || !s.mayPerform r t a then s
        else if s.muted c.core a.loc then (match a.kind with | .store _ _ => s.accessFails r k a | _ => s)
        else match a.kind with
          | .store _ _ => (match s.performWrite c.core 0#32 a with
            | .error .hold => s
            | .error (.code _) => ((s.modTeam r (fun t => t.retireAccess k a)).sweepLoc a.loc).completeCrew r.crew
            | .ok (s1, _) => ((s1.modTeam r (fun t => t.retireAccess k a)).sweepLoc a.loc).completeCrew r.crew)
          | _ => s)

end Sys2Proof.Machine
end

