-- ==== Sys2Proof/Machine/WorkList.lean ====
section
/-! DEFINITION. Work lists: list sets in global memory, their master, WLINIT, WLTAKE and TDWAIT, and the appends of WLAPP
(02_work_hierarchy R47 to R49, 08_scalar_isa R181, 10_lane_memory_isa R237, R238, 12_engines R273, R274). -/

namespace Sys2Proof.Machine

/-! ### Control blocks and list tables in memory (12 R273) -/

/-- A control block as the 64 bytes that the device writes. -/
def WlBlock.bits (b : WlBlock) : Nat :=
  b.appended + 2 ^ 64 * b.taken + 2 ^ 128 * b.inflight + 2 ^ 192 * b.s + 2 ^ 224 * b.lists + 2 ^ 256 * b.items + 2 ^ 320 * b.cap +
  2 ^ 352 * b.state + 2 ^ 384 * b.rest

/-- `n` bytes written at home; none while they cannot be. -/
def State.wlWrite (s : State) (core va n v : Nat) (step : BitVec 32) : Option State :=
  match s.translate none (coreDie core) va true with
  | (s1, .ok pa e) => if pteScm e then none else (match s1.pageWrite va pa e step n v with | .ok s2 => some s2 | .error _ => none)
  | _ => none

/-- A control block that passes the checks of R181. -/
def State.wlBlock (s : State) (core set : Nat) : Option WlBlock :=
  match s.wlRead core set 64 with
  | none => none
  | some x => if (wlBlockOf x).ok then some (wlBlockOf x) else none
def State.putWlBlock (s : State) (core set : Nat) (b : WlBlock) (step : BitVec 32) : Option State := s.wlWrite core set 64 b.bits step

/-- Head and tail of a list written. -/
def State.putWlEntry (s : State) (core set i head tail : Nat) (step : BitVec 32) : Option State :=
  s.wlWrite core (wlEntryAt set i) 16 (head % 2 ^ 64 + 2 ^ 64 * (tail % 2 ^ 64)) step

/-- The master's test of R48: quiescence, once reached, stays. -/
def WlBlock.test (b : WlBlock) : WlBlock := if b.inflight = 0 ∧ b.appended = b.taken then { b with state := 1 } else b
/-- A retirement of n: in flight never falls below zero (02 R47). -/
def WlBlock.retire (b : WlBlock) (n : Nat) : WlBlock := { b with inflight := b.inflight - n }.test

/-! ### What a team holds and owes (02 R47, R49) -/

/-- Units that a team would retire on a set: its items, and its seed, which it takes now if it names the set first. -/
def Team.wlOwed (t : Team) (set : Nat) : Nat :=
  match t.wl.find? (fun w => w.set == set) with
  | none => 1
  | some w => w.items + (if w.seed then 1 else 0)
/-- The team's standing in a set replaced. -/
def Team.putHold (t : Team) (w : WlHold) : Team := { t with wl := upsert (fun x => x.set == w.set) w t.wl }

/-- The team retires what it holds of a set: the change is on its way to the master. -/
def State.retireHold (s : State) (r : TeamRef) (core set : Nat) : State :=
  match s.teamAt r with
  | none => s
  | some (_, t) =>
    let n := t.wlOwed set
    let s1 := s.putTeam r (t.putHold ⟨set, 0, false⟩)
    if n = 0 then s1 else { s1 with wlChanges := s1.wlChanges ++ [WlChange.mk r (coreGang core) set n] }

/-- Whether a change of the team to the set is still on its way. -/
def State.changeDue (s : State) (r : TeamRef) (set : Nat) : Bool := s.wlChanges.any (fun w => w.team == r && w.set == set)

/-- Whether the clause still holds a WLAPP at or after instruction `i`. -/
def State.clauseAppends (s : State) (core : Nat) (cl : Clause) (i : Nat) : Bool :=
  (List.range (cl.count - i)).any (fun k => match (s.fetchLane core cl.addr (i + k)).2 with
    | .ok (some (.wlapp _ _)) => true
    | .ok _ => false
    | .error _ => true)

/-- Every WLAPP of clauses appended before has been performed and counted (10 R238): a word that cannot be fetched now may be one. -/
def State.appendsDone (s : State) (r : TeamRef) (c : Crew) (t : Team) : Bool :=
  s.wlItems.all (fun i => i.team != r) && t.slots.isEmpty &&
  t.queue.zipIdx.all (fun p => !s.clauseAppends c.core p.1 (if p.2 = 0 && p.1.started then t.lidx else 0))

/-! ### WLINIT (08 R181) -/

/-- Whether `n` bytes at `va` lie in ranges, outside the Tether window, in HBM4E pages that may be written. -/
def State.wlUsable (s : State) : Nat → Nat → Nat → Bool
  | 0, va, stop => decide (stop ≤ va)
  | fuel + 1, va, stop =>
    if stop ≤ va then true
    else if s.inTether va then false
    else match s.rangeOf va with
      | none => false
      | some g =>
        let e := s.pte g va
        !pteScm e && !pteRo e && s.wlUsable fuel (g.base + ((va - g.base) / pageSize g.z + 1) * pageSize g.z) stop

/-- The pieces of one line each of `n` bytes at `va`, with their addresses once bound; none where one does not translate. -/
def State.wlLines (s : State) (core : Nat) : Nat → Nat → Nat → State × Option (List (Nat × Nat × Nat × Word))
  | 0, _, _ => (s, some [])
  | fuel + 1, va, n =>
    if n = 0 then (s, some [])
    else match s.translate (some core) (coreDie core) va true with
      | (s1, .ok pa e) =>
        (match s1.wlLines core fuel (va + min n 64) (n - min n 64) with
         | (s2, none) => (s2, none)
         | (s2, some l) => (s2, some ((va, pa, min n 64, e) :: l)))
      | (s1, _) => (s1, none)

/-- The first line holds the block; the others, the empty table. -/
def State.wlFill (s : State) (core : Nat) (step : BitVec 32) (first : Nat) : List (Nat × Nat × Nat × Word) → Except Stop State
  | [] => .ok s
  | (va, pa, n, e) :: rest => match s.pageWrite va pa e step n first with
    | .error x => .error x
    | .ok s1 => (s1.l1DropLine core (pa / 64)).wlFill core step 0 rest

/-- The set begins anew: no team has named it, no position of it is reserved. -/
def State.forgetSet (s : State) (set : Nat) : State :=
  { s with crews := s.crews.map (fun c => { c with teams := c.teams.map (fun t => { t with wl := t.wl.filter (fun w => w.set != set) })
                                                   owed := c.owed.filter (fun w => w.set != set) })
           wlHoles := s.wlHoles.filter (fun h => h.set != set) }

def execWlinit (d a : SReg) (s : State) : Out :=
  withTeam s fun r c t =>
    let set := (t.sregK a 0).toNat
    let x := t.sregK a 1
    let items := (t.sregK a 2).toNat
    let cap := (t.sregK a 3).toNat
    let seed := (field x 31 0).toNat
    let lists := (field x 44 32).toNat
    let put (s : State) (code : Nat) : State := s.modTeam r (fun t => t.status d code 4)
    if set % 64 ≠ 0 ∨ 2 ^ 56 ≤ set ∨ seed = 0 ∨ lists = 0 ∨ 4096 < lists ∨ 2 ^ 45 ≤ x.toNat ∨ items % 8 ≠ 0 ∨ 2 ^ 56 ≤ items ∨ cap = 0 ∨ 2 ^ 32 ≤ cap then
      put s stBounds
    else
      let n := 64 + 16 * lists
      let total := lists * cap * 8
      if !s.wlUsable (n / 2 ^ 16 + 2) set (set + n) || !s.wlUsable (total / 2 ^ 16 + 2) items (items + total) then put s stTranslation
      else match s.wlLines c.core (n / 64 + 1) set n with
        | (s1, none) => put s1 stTranslation
        | (s1, some ls) =>
          if ls.any (fun p => s1.olderOverlap r t .scalar t.nextOrd true (.glob p.1 p.2.1) (8 * p.2.2.1)) then s1
          else
            let b : WlBlock := { appended := 0, taken := 0, inflight := seed, s := seed, lists := lists, items := items, cap := cap, state := 0, rest := 0 }
            match s1.wlFill c.core t.stepNow b.bits ls with
            | .error .hold => s1
            | .error (.code e) => s1.scalarFault r e none
            | .ok s2 => put (s2.forgetSet set) stOk

/-! ### Taking (02 R47, R48; 08 R181; 10 R237; 12 R274) -/

/-- The positions that a take of at most `m` items may remove from `pos` on, and where the head then stands: void positions
are passed over, and a reserved position whose item is not written ends the take. -/
def State.wlScan (s : State) (set list : Nat) : Nat → Nat → Nat → Nat → List Nat × Nat
  | 0, pos, _, _ => ([], pos)
  | fuel + 1, pos, tail, m =>
    if tail ≤ pos ∨ m = 0 then ([], pos)
    else
      let here (h : WlHole) : Bool := h.set == set && h.list == list && h.pos == pos
      if s.wlHoles.any (fun h => here h && h.void) then s.wlScan set list fuel (pos + 1) tail m
      else if s.wlHoles.any here || s.wlItems.any (fun i => i.set == set && i.list == list && i.pos == some pos) then ([], pos)
      else let (l, e) := s.wlScan set list fuel (pos + 1) tail (m - 1); (pos :: l, e)

/-- The parts of a take: set, list, M, handle, first element. -/
structure Take where
  set : Nat
  list : Nat
  m : Nat
  h : Handle
  at_ : Coord
  deriving DecidableEq, Repr

def Team.take (t : Team) (a : SReg) : Take :=
  ⟨(field (t.sregK a 0) 55 0).toNat, (field (t.sregK a 1) 11 0).toNat, (field (t.sregK a 2) 15 0).toNat, field (t.sregK a 2) 23 16, coordOf (t.sregK a 3)⟩

/-- The destination tile of a take, if the take keeps to R351. -/
def Take.tile (k : Take) (c : Crew) : Option Tile :=
  match c.tile k.h with
  | none => none
  | some tl =>
    if !tl.queue && (tl.fmt == 3#4 || tl.fmt == 7#4) && decide (1 ≤ k.m ∧ k.m ≤ 1024) && tl.inside k.at_ && tl.inside (k.at_.plus1 (k.m - 1)) then some tl else none

/-- WLTAKE's result: the status in [63:48], the number of items in [31:0]. -/
def takeResult (code k : Nat) : Word := BitVec.ofNat 64 (code * 2 ^ 48 + k)

/-- Whether a WLTAKE that began earlier waits on the list, in a resident or an evicted crew (12 R274); the request of a crew held
faulted is made anew when it resumes (17 R342). -/
def State.takeBefore (s : State) (began : Nat) (k : Take) : Bool :=
  s.crews.any (fun c => c.state == .live && !c.heldFaulted && c.teams.any (fun t => !t.faulted && match t.swait with
    | none => false
    | some w => match w.instr with
      | .wltake _ a _ => decide (w.began < began) && (t.take a).set == k.set && (t.take a).list == k.list
      | _ => false))

/-- Items written to the destination run, in list order. -/
def State.takeItems (s : State) (r : TeamRef) (uid : Nat) (k : Take) (step : BitVec 32) : List (Nat × Nat) → Except Stop State
  | [] => .ok s
  | (j, v) :: rest => match s.tileWrite r.crew uid (k.at_.plus1 j) none v step false with
    | .error x => .error x
    | .ok s1 => s1.takeItems r uid k step rest

/-- WLTAKE's effect once an item exists for it or the set is quiescent; a block that fails the checks of R181, or whose L the index
passes, ends the wait with BOUNDS. -/
def attemptWltake (d a : SReg) (s : State) (r : TeamRef) (c : Crew) (t : Team) : Option State :=
  let k := t.take a
  let out (s : State) (code n : Nat) : State := s.modTeam r (fun t => { t.result d (takeResult code n) 4 with swait := none })
  let fin (s : State) (n : Nat) : State := out s stOk n
  if s.changeDue r k.set then none
  else match s.wlRead c.core k.set 64 with
  | none => none
  | some x =>
    let b := (wlBlockOf x).test
    if !(wlBlockOf x).ok || decide (b.lists ≤ k.list) then some (out s stBounds 0)
    else if b.quiescent then (s.putWlBlock c.core k.set b t.stepNow).map (fun s1 => fin s1 0)
    else if s.takeBefore (s.scalarBegan t) k then none
    else match k.tile c, s.wlEntry c.core k.set k.list with
      | some tl, some (head, tail) =>
        let (ps, head') := s.wlScan k.set k.list (tail - head) head tail k.m
        if ps.isEmpty then none
        else match ps.mapM (fun p => s.wlRead c.core (b.itemAt k.list p) 8) with
          | none => none
          | some vs =>
            if ps.any (fun p => match (s.translate none (coreDie c.core) (b.itemAt k.list p) false).2 with | .ok pa _ => s.isPoisoned pa 8 | _ => false) then
              some (s.scalarFault r stPoison none)
            else match s.takeItems r tl.uid k t.stepNow (vs.zipIdx.map (fun q => (q.2, q.1))) with
              | .error _ => none
              | .ok s1 =>
                let n := ps.length
                match s1.putWlEntry c.core k.set k.list head' tail t.stepNow with
                | none => none
                | some s2 => (s2.putWlBlock c.core k.set { b with taken := b.taken + n, inflight := b.inflight + n } t.stepNow).map (fun s3 =>
                    let s4 := { s3 with wlHoles := s3.wlHoles.filter (fun h => !(h.set == k.set && h.list == k.list && h.void && decide (h.pos < head'))) }
                    (fin s4 n).modTeam r (fun t => t.putHold ⟨k.set, n, false⟩))
      | _, _ => none

/-- WLTAKE's condition holds, and its effect is held (by an MMA, by Comet, by an older request that is served first): its count cannot
find the condition false (08 R160). -/
def State.takeHeld (s : State) (c : Crew) (t : Team) (a : SReg) : Bool :=
  let k := t.take a
  match s.wlBlock c.core k.set with
  | none => false
  | some b0 => b0.test.quiescent || (match s.wlEntry c.core k.set k.list with
    | none => false
    | some (head, tail) => !(s.wlScan k.set k.list (tail - head) head tail k.m).1.isEmpty)

/-- Whether the storage that a control block names holds one of `n` bytes at `va`. -/
def WlBlock.covers (b : WlBlock) (set va n : Nat) : Bool :=
  let hits (x k : Nat) : Bool := decide (x < va + n ∧ va < x + k)
  hits set (64 + 16 * b.lists) || hits b.items (b.lists * b.cap * 8)

/-- The scalar stream's earlier accesses to the set's storage come first (06 R118). -/
def Team.setBusy (t : Team) (set : Nat) (b : WlBlock) : Bool :=
  t.pending.any (fun a => a.stream == .scalar && (match a.loc with | .glob va _ => b.covers set va ((a.width + 7) / 8) | .tile _ _ _ _ => false))

/-- So do those to the elements that a take writes. -/
def State.takeAfter (s : State) (r : TeamRef) (c : Crew) (t : Team) (k : Take) (b : WlBlock) : Bool :=
  t.setBusy k.set b ||
  (match k.tile c with
   | none => false
   | some tl => (List.range k.m).any (fun j => s.olderOverlap r t .scalar t.nextOrd true (.tile r.crew tl.uid (k.at_.plus1 j) none) tl.accWidth))

/-- WLTAKE's expiry: no items, nothing further retired. -/
def wltakeTimeout (s : State) (r : TeamRef) (d : SReg) : State :=
  s.modTeam r (fun t => { t.result d (takeResult stTimeout 0) 4 with swait := none })

/-- Whether the storage that a control block names touches the Tether window (18 R360). -/
def State.wlInTether (s : State) (set : Nat) (b : WlBlock) : Bool :=
  s.span.joined && b.covers set s.span.base (2 ^ 24 * s.span.count.toNat)

/-- The control block that WLTAKE or TDWAIT names: the block, a status, or a trap. -/
def State.wlNamed (s : State) (core set : Nat) : State × Except (Nat × Bool) WlBlock :=
  match s.globCheck core set 64 true true with
  | (s1, .error e, _) =>
    (s1, .error (if e = causeAlignment then (stBounds, false) else if e = stTranslation then (stTranslation, false) else (e, true)))
  | (s1, .ok (pa, _), _) =>
    let b := wlBlockOf (s1.physRead pa 64)
    if !b.ok then (s1, .error (stBounds, false)) else if s1.wlInTether set b then (s1, .error (stTranslation, false)) else (s1, .ok b)

/-- WLTAKE. Refused with BOUNDS, it retires nothing and takes no item, and a seed stays where it was (notes/assumptions/72.md). -/
def execWltake (d a : SReg) (e : BitVec 5) (s : State) : Out :=
  withTeam s fun r c t =>
    let k := t.take a
    let out (s : State) (code : Nat) : State := s.modTeam r (fun t => t.result d (takeResult code 0) 4)
    match s.wlNamed c.core k.set with
    | (s1, .error (code, true)) => s1.scalarFault r code none
    | (s1, .error (code, false)) => out s1 code
    | (s1, .ok b) =>
      if b.lists ≤ k.list ∨ (k.tile c).isNone then out s1 stBounds
      else if (s1.wlEntry c.core k.set k.list).isNone then out s1 stTranslation
      else if !s1.appendsDone r c t || s1.takeAfter r c t k b then s1
      else if s1.changeDue r k.set then s1
      else if t.wlOwed k.set ≠ 0 then s1.retireHold r c.core k.set
      else if e = 0#5 && (attemptWltake d a s1 r c t).isNone && s1.takeHeld c t a then s1
      else s1.waitOr r (.wltake d a e) e none (attemptWltake d a s1 r c t) (wltakeTimeout s1 r d)

/-! ### TDWAIT -/

/-- TDWAIT's effect at quiescence; a block that fails the checks of R181 ends the wait with BOUNDS. -/
def attemptTdwait (d a : SReg) (s : State) (r : TeamRef) (c : Crew) (t : Team) : Option State :=
  let set := (t.sreg a).toNat
  if s.changeDue r set then none
  else match s.wlRead c.core set 64 with
    | none => none
    | some x =>
      let out (s : State) (code : Nat) : State := s.modTeam r (fun t => { t.status d code 4 with swait := none })
      let b := (wlBlockOf x).test
      if !(wlBlockOf x).ok then some (out s stBounds)
      else if b.quiescent then (s.putWlBlock c.core set b t.stepNow).map (fun s1 => out s1 stOk)
      else none

/-- TDWAIT's condition holds, and the master's write of the block is held (by Comet): its count cannot find the condition false. -/
def State.tdHeld (s : State) (c : Crew) (t : Team) (a : SReg) : Bool :=
  match s.wlBlock c.core (t.sreg a).toNat with
  | none => false
  | some b => b.test.quiescent

def execTdwait (d a : SReg) (e : BitVec 5) (s : State) : Out :=
  withTeam s fun r c t =>
    let set := (t.sreg a).toNat
    match s.wlNamed c.core set with
    | (s1, .error (code, true)) => s1.scalarFault r code none
    | (s1, .error (code, false)) => s1.modTeam r (fun t => t.status d code 4)
    | (s1, .ok b) =>
      if !s1.appendsDone r c t || t.setBusy set b then s1
      else if s1.changeDue r set then s1
      else if t.wlOwed set ≠ 0 then s1.retireHold r c.core set
      else if e = 0#5 && (attemptTdwait d a s1 r c t).isNone && s1.tdHeld c t a then s1
      else s1.waitOr r (.tdwait d a e) e none (attemptTdwait d a s1 r c t) (statusTimeout s1 r d 4)

/-! ### The master and the compaction units (10 R237, 12 R274) -/

/-- An append of a lane has ended: the counter falls, and where the append was re-executed after its fault the lane is done (10 R237). -/
def Team.appendDone (t : Team) (lane : Nat) : Team := { t.laneMended lane with lctr := t.lctr - 1#16 }

/-- An append of a lane has ended with a status: its item is gone. -/
def State.appendEnd (s : State) (it : WlItem) (code : Nat) : State :=
  { s with wlItems := s.wlItems.filter (fun i => !(i == it)) }.modTeam it.team (fun t =>
    (t.setVreg it.dest.toNat it.lane (BitVec.ofNat 64 code)).appendDone it.lane)

/-- The accesses that come before an append's (03 R68, R70). -/
def State.appendFree (s : State) (it : WlItem) : Bool :=
  match s.teamAt it.team with
  | none => true
  | some (_, t) => match t.clauseOf it.clause with
    | none => true
    | some cl => s.clauseFree it.team t cl

/-- The step of an append. -/
def State.itemStep (s : State) (it : WlItem) : BitVec 32 :=
  match s.teamAt it.team with
  | none => 0#32
  | some (_, t) => match t.clauseOf it.clause with | none => t.stepNow | some c => c.step

/-- Positions granted to the items of a run, in their order. -/
def grantRun (run : Nat) : Nat → List WlItem → List WlItem
  | _, [] => []
  | p, i :: rest => if i.run = run ∧ i.pos.isNone then { i with pos := some p } :: grantRun run (p + 1) rest else i :: grantRun run p rest

/-- The run of item number k reaches the set's master: it is refused whole after quiescence, or granted positions at the
list's tail in ascending lane order as far as the list has room. -/
def execWlRunRequest (k : Nat) (s : State) : Out :=
  .next (match s.wlItems[k]? with
    | none => s
    | some it =>
      let core := s.itemCore it
      let run := s.wlItems.filter (fun i => i.run == it.run && i.pos.isNone)
      if it.pos.isSome || !s.appendFree it || s.wlItems.any (fun i => i.pos.isNone && i.gang == it.gang && i.set == it.set && decide (i.run < it.run)) then s
      else match s.wlRead core it.set 64 with
        | none => s
        | some x =>
          let b := (wlBlockOf x).test
          if !b.ok || decide (b.lists ≤ it.list) || b.quiescent then
            let s1 := if (wlBlockOf x).ok then (s.putWlBlock core it.set b (s.itemStep it)).getD s else s
            run.foldl (fun s i => s.appendEnd i stBounds) s1
          else match s.wlEntry core it.set it.list with
            | none => s
            | some (head, tail) =>
              let room := b.cap - (tail - head)
              match s.putWlEntry core it.set it.list head (tail + min room run.length) (s.itemStep it) with
              | none => s
              | some s1 =>
                let s2 := (run.drop room).foldl (fun s i => s.appendEnd i stBounds) s1
                { s2 with wlItems := grantRun it.run tail (s2.wlItems) })

/-- A lane whose item address does not translate faults: its position stays reserved, and the append is kept for its re-execution. -/
def State.appendFault (s : State) (it : WlItem) (pos cause : Nat) (z : Option Nat) : State :=
  let s1 := { s with wlItems := s.wlItems.filter (fun i => !(i == it)), wlHoles := s.wlHoles ++ [WlHole.mk it.set it.list pos false it.team] }
  match s1.teamAt it.team with
  | none => s1
  | some (_, t) =>
    let slot : WlSlot := ⟨it.lane, it.set, it.list, pos, it.dest, it.item, it.clause, it.ord, it.idx⟩
    let u := t.lateTrap it.lane it.idx cause (t.clauseAddr it.clause)
    (s1.putTeam it.team { u with lctr := t.lctr - 1#16, slots := t.slots ++ [slot] }).notePool it.team t.faulted z

/-- An access that has failed is made again: its address is translated anew, and where it does not translate the lane faults again. -/
def State.remake (s : State) (r : TeamRef) (a : Access) : State :=
  match s.teamAt r, a.loc with
  | some (c, _), .glob va _ =>
    let again (s : State) (cause : Nat) (z : Option Nat) : State :=
      (s.modTeam r (fun t => { t.lateTrap a.lane a.idx cause (t.clauseAddr a.clause) with again := t.again ++ [a] })).notePool r false z
    (match s.translate (some c.core) (coreDie c.core) va a.isStore with
     | (s1, .ok pa _) => s1.modTeam r (fun t =>
         { t with pending := t.pending ++ [{ a with loc := .glob va pa, age := 0 }]
                  lctr := if a.isStore && t.pending.all (fun b => b.stream != .lane || b.req != a.req) then t.lctr + 1#16 else t.lctr })
     | (s1, .empty z) => again s1 stTranslation (some z)
     | (s1, .fail) => again s1 stTranslation none
     | (s1, .lost) => again s1 stUncorrectable none)
  | _, _ => s

/-- The accesses and the appends that a team keeps are made again at its core, each append at its reserved position. -/
def State.rearmTeam (s : State) (r : TeamRef) : State :=
  match s.teamAt r with
  | none => s
  | some (c, t) =>
    let items := t.slots.zipIdx.map (fun p => ({ team := r, clause := p.1.clause, ord := p.1.ord, gang := coreGang c.core, lane := p.1.lane, set := p.1.set, list := p.1.list
                                                 dest := p.1.dest, item := p.1.item, run := s.nextRun + p.2, idx := p.1.idx, pos := some p.1.pos } : WlItem))
    let mine (h : WlHole) : Bool := h.owner == r && t.slots.any (fun q => q.set == h.set && q.list == h.list && q.pos == h.pos)
    t.again.foldl (fun s a => s.remake r a) ({ s with wlItems := s.wlItems ++ items, wlHoles := s.wlHoles.filter (fun h => !mine h), nextRun := s.nextRun + items.length }.putTeam r
      { t with slots := [], again := [], lctr := t.lctr + BitVec.ofNat 16 items.length })

/-- The same for every team of a crew, when it is placed again (10 R237). -/
def State.rearmSlots (s : State) (k : Nat) : State :=
  match s.crewAt k with
  | none => s
  | some c => (List.range c.teams.length).foldl (fun s i => s.rearmTeam ⟨k, i⟩) s

/-- Item number k has its position: its address is translated, which binds its page, and the write is on its way; then, after what comes
before it (06 R118; 03 R68, R70), it is written, in the core's L1 copy too (06 R124), and counted, and WLTAKE sees it from then on. -/
def execWlappItemWrite (k : Nat) (s : State) : Out :=
  .next (match s.wlItems[k]? with
    | none => s
    | some it => match it.pos with
      | none => s
      | some pos =>
        let core := s.itemCore it
        match s.wlRead core it.set 64 with
        | none => s
        | some x =>
          let b := wlBlockOf x
          let va := b.itemAt it.list pos
          match it.at_ with
          | none => (match s.translate none (coreDie core) va true with
            | (s1, .ok pa e) =>
              if pteScm e then s1.appendFault it pos stTranslation none
              else { s1 with wlItems := s1.wlItems.set k { it with at_ := some (pa, e) } }
            | (s1, .empty z) => s1.appendFault it pos stTranslation (some z)
            | (s1, .fail) => s1.appendFault it pos stTranslation none
            | (s1, .lost) => s1.appendFault it pos stUncorrectable none)
          | some (pa, e) =>
            if !s.appendFree it || (match s.teamAt it.team with | none => false | some (_, t) => s.olderOverlap it.team t .lane it.ord true (.glob va pa) 64) then s
            else match s.pageWrite va pa e (s.itemStep it) 8 it.item.toNat with
            | .error _ => s
            | .ok s2 => match s2.putWlBlock core it.set { b with appended := b.appended + 1 } (s.itemStep it) with
              | none => s
              | some s3 => ((s3.l1Update core pa 8 it.item.toNat).countRequest (coreDie core) pa true).appendEnd it stOk)

/-- Change number k reaches the master: each gang's changes arrive in that gang's order. Where the block's bytes fail the
checks of R181 nothing is counted. -/
def execWlCountChange (k : Nat) (s : State) : Out :=
  .next (match s.wlChanges[k]? with
    | none => s
    | some w =>
      if (s.wlChanges.take k).any (fun x => x.gang == w.gang && x.set == w.set) then s
      else
        let core := 4 * w.gang
        match s.wlBlock core w.set with
        | none => { s with wlChanges := s.wlChanges.eraseIdx k }
        | some b => match s.putWlBlock core w.set (b.retire w.retire) (match s.teamAt w.team with | none => 0#32 | some (_, t) => t.stepNow) with
          | none => s
          | some s1 => { s1 with wlChanges := s1.wlChanges.eraseIdx k })

end Sys2Proof.Machine
end

