-- ==== Sys2Proof/Machine/Sched.lean ====
section
/-! DEFINITION. Register growth, YIELD, the queries of capacity and locality, and TCLAIM (08_scalar_isa R182, R183, R185;
13_scheduling R290; 18_instruction_faults R351; 20_infield_test R400). -/

namespace Sys2Proof.Machine

/-! ### RGROW and RSHRINK (08 R182, 13 R290) -/

def execRgrow (d a : SReg) (e : BitVec 5) (s : State) : Out :=
  withTeam s fun r c t =>
    let n := (t.sreg a).toNat
    if n % 8 ≠ 0 ∨ n < t.regs ∨ 512 < n then s.scalarFault r causeOperand none
    else if n = t.regs then s.putTeam r (t.status d stOk 4)
    else if Config.coreRegs < c.footprint + t.growth n then s.putTeam r (t.status d stBounds 4)
    else if e = 0#5 && s.growFits c.core t n && s.growBefore c.core s.nextWait then s
    else s.waitOr r (.rgrow d a e) e none (attemptRgrow d a s r c t) (statusTimeout s r d 4)

/-- Registers that a waiting lane instruction is to write. -/
def instrDests (c : Crew) : Instr → List Nat
  | .tldf h _ | .tldIfempty h _ | .rld h _ => [h.dst.toNat, h.s2.toNat]
  | .tste h _ | .tstIffull h _ => [h.s2.toNat]
  | .msgput h _ => [h.dst.toNat, h.s2.toNat]
  | .msgtake h m => h.s2.toNat :: (List.range (ceilDiv (match c.tile m.handle with | none => 2 | some q => q.n1.toNat) 2)).map (fun i => h.dst.toNat + i)
  | .mread h _ => [h.dst.toNat]
  | _ => []

/-- Whether a long-latency operation of the team has a destination at or above register `n`. -/
def State.destAbove (s : State) (r : TeamRef) (c : Crew) (t : Team) (n : Nat) : Bool :=
  (t.pending ++ t.again).any (fun a => match a.kind with | .load d _ => decide (n ≤ d.toNat) | .atom _ _ _ d _ => decide (n ≤ d.toNat) | .store _ _ => false) ||
  s.wlItems.any (fun i => i.team == r && decide (n ≤ i.dest.toNat)) || t.slots.any (fun q => decide (n ≤ q.dest.toNat)) ||
  t.lwaits.any (fun w => (instrDests c w.instr).any (fun d => decide (n ≤ d))) ||
  s.matrix.any (fun m => m.team == r && (instrDests c m.instr).any (fun d => decide (n ≤ d)))

/-- Registers at or above the new allocation cease to exist; then the core's waiting requests are tested again. -/
def execRshrink (a : SReg) (s : State) : Out :=
  withTeam s fun r c t =>
    let n := (t.sreg a).toNat
    if n % 8 ≠ 0 ∨ n < 8 ∨ t.regs < n then s.scalarFault r causeOperand none
    else if s.destAbove r c t n then s
    else
      let t1 := { t with regs := n, vregs := cellErase t.vregs (1024 * n) (1024 * 512), laneErr := t.laneErr.filter (fun k => decide (k < 1024 * n)) }.advance 4
      (s.putTeam r t1).grantRgrow c.core 16

/-! ### YIELD (02 R38) -/

/-- The blocking point whose wake condition is already true. -/
def execYield (s : State) : Out :=
  withTeam s fun r _ _ => s.beginWait r .yield 31#5 none
def attemptYield (s : State) (r : TeamRef) : Option State := some (s.modTeam r (fun t => { t.advance 4 with swait := none }))

/-! ### CAPQ and LOCQ (08 R182, R183) -/

def State.capqWord (s : State) : Word :=
  BitVec.ofNat 8 s.regions ++ BitVec.ofNat 8 s.devGangs ++ BitVec.ofNat 16 s.devCores ++ s.capGen
def execCapq (d : SReg) (s : State) : Out := withTeam s fun r _ t => s.putTeam r (t.result d s.capqWord 4)

/-- Hops between two dies of the ring. -/
def dieHops (a b : Nat) : Nat := min ((a + 4 - b) % 4) ((b + 4 - a) % 4)
/-- LOCQ of the team's placement. -/
def State.locqPlace (s : State) (c : Crew) : Word :=
  let region := coreRegion c.core
  let (hinted, hint) := match s.launchOf c with
    | none => (false, 0)
    | some l => (recHinted l.record && decide (recHint l.record < s.regions), recHint l.record)
  BitVec.ofNat 64 (region + (if hinted then 2 ^ 4 * hint + 2 ^ 8 + (if hint = region then 2 ^ 9 else 0) else 0) + 2 ^ 10 * coreDie c.core)
/-- LOCQ of the page that holds an address; it binds nothing and never faults. -/
def State.locqPage (s : State) (c : Crew) (va : Nat) : Word :=
  if 2 ^ 56 ≤ va || s.inTether va then 0x8000#64
  else match s.rangeOf va with
    | none => 0x8000#64
    | some g =>
      let e := s.pte g va
      if !pteV e then 0x8000#64
      else
        let pa := pteFrame e
        let die := if pteScm e then paDie pa else pteHome e
        BitVec.ofNat 64 ((if pteScm e then 0 else stackOf pa % 16) + 2 ^ 8 * dieHops (coreDie c.core) die + 2 ^ 10 * (die % 4))

def execLocq (d a : SReg) (s : State) : Out :=
  withTeam s fun r c t => s.putTeam r (t.result d (if a = 63#6 then s.locqPlace c else s.locqPage c (t.sreg a).toNat) 4)

/-! ### TCLAIM (08 R185, 14 R316) -/

/-- The home directory serves the claim: 1 for the one TCLAIM that finds the line owner-lost. -/
def execTclaim (d a : SReg) (s : State) : Out :=
  withTeam s fun r c t =>
    let va := (t.sreg a).toNat
    if va % 64 ≠ 0 || !s.inTether va then s.putTeam r (t.status d stBounds 4)
    else s.tetherAccess r (coreGang c.core) (s.tetherLine va) .claim (fun _ => none)
      (fun old s => s.modTeam r (fun t => t.status d (if old = 1#64 then stOk else stAborted) 4))

end Sys2Proof.Machine
end

