-- ==== Sys2Proof/Machine/System.lean ====
section
/-! DEFINITION. System registers, the mask window of ctx.data, TRAP and ERET, CLK, EXIT and the fences
(06_ordering R121 to R124, 08_scalar_isa R186 to R189, 17_fault_model R341, R343, 18_instruction_faults R351). -/

namespace Sys2Proof.Machine

/-! ### ctx.data (08 R188) -/

/-- The mask that a mask object of ctx.sel names. -/
def Team.ctxMask (t : Team) (o : Nat) : Option Mask :=
  if o < 8 then some (t.mask (BitVec.ofNat 3 o)) else if 16 ≤ o ∧ o < 32 then some (t.stack.getD (o - 16) 0#1024) else none
def Team.ctxObject (t : Team) : Nat := (t.ctxSel.extractLsb' 0 8).toNat
def Team.ctxIndex (t : Team) : Nat := (t.ctxSel.extractLsb' 8 6).toNat

/-- The selected word, none outside the table of R188. -/
def Team.ctxRead (t : Team) : Option Nat :=
  if t.ctxObject = 8 then (if t.ctxIndex = 0 then some t.stack.length else none)
  else match t.ctxMask t.ctxObject with
    | none => none
    | some m => if t.ctxIndex = 0 then some (summaryWord m).toNat else if t.ctxIndex ≤ 32 then some (bandWord m (t.ctxIndex - 1)).toNat else none

/-- A stack of the given depth: entries at or above it are gone, and new ones are empty. -/
def setDepth (l : List Mask) (n : Nat) : List Mask := l.take n ++ List.replicate (n - l.length) 0#1024

/-- The selected word written; none where R188 traps. A stack entry at or above the depth keeps nothing (22_programs_faults R421). -/
def Team.ctxWrite (t : Team) (v : Word) : Option Team :=
  if t.ctxRead.isNone then none
  else if t.ctxObject = 8 then
    (let n := (field v 31 0).toNat
     if 16 < n then none else some { t with stack := setDepth t.stack n })
  else if t.ctxIndex = 0 then some t
  else match t.ctxMask t.ctxObject with
    | none => none
    | some m =>
      let m' := setBandWord m (t.ctxIndex - 1) (field v 31 0)
      if t.ctxObject < 8 then some (t.setMask (BitVec.ofNat 3 t.ctxObject) m')
      else some { t with stack := t.stack.set (t.ctxObject - 16) (m' &&& laneMask t.lanes) }

/-! ### SYSR and SYSW (08 R186, 17 R341) -/

/-- The value of a system register; none for a selection of ctx.data that traps. -/
def State.sysReg (s : State) (c : Crew) (t : Team) (n : Nat) : Option Nat :=
  if 0x041 ≤ n ∧ n ≤ 0x060 then some (bandWord t.lfm (n - 0x041)).toNat
  else match n with
  | 0x000 => some Config.isaLevel.toNat
  | 0x001 => some t.id
  | 0x002 => some c.teams.length
  | 0x003 => some t.lanes
  | 0x004 => some c.crewId.toNat
  | 0x005 => some (s.crewCount c)
  | 0x006 => some c.core
  | 0x007 => some (coreGang c.core)
  | 0x008 => some (coreRegion c.core)
  | 0x009 => some c.launchId.toNat
  | 0x00A => some s.span.index.toNat
  | 0x00B => some s.span.count.toNat
  | 0x010 => some s.regions
  | 0x011 => some s.devGangs
  | 0x012 => some s.devCores
  | 0x013 => some (if t.priv then 1 else 0)
  | 0x020 => some s.capGen.toNat
  | 0x021 => some c.capNote.toNat
  | 0x030 => some t.stepNow.toNat
  | 0x031 => some t.regs
  | 0x032 => some t.batchOpen.toNat
  | 0x033 => some t.seqNext.toNat
  | 0x034 => some t.guardDepth.toNat
  | 0x035 => some t.nopreDepth.toNat
  | 0x040 => some (summaryWord t.lfm).toNat
  | 0x070 => some t.trapPc.toNat
  | 0x071 => some t.trapCause.toNat
  | 0x072 => some t.trapVec.toNat
  | 0x073 => some t.trapLclause.toNat
  | 0x074 => some (t.trapLidx.toNat + (if t.trapLane then 16 else 0) + (if t.trapInh then 32 else 0))
  | 0x080 => some t.ctxSel.toNat
  | 0x081 => t.ctxRead
  | _ => some 0

def execSysr (d : SReg) (reg : BitVec 12) (s : State) : Out :=
  withTeam s fun r c t => match s.sysReg c t reg.toNat with
    | none => s.scalarFault r causeOperand none
    | some v => s.putTeam r (t.result d (BitVec.ofNat 64 v) 4)

/-- Registers that only a privileged team may write. -/
def sysPriv (n : Nat) : Bool := n == 0x070 || n == 0x072 || n == 0x080 || n == 0x081

/-- SYSW takes effect on the register's defined bits. -/
def execSysw (d : SReg) (reg : BitVec 12) (s : State) : Out :=
  withTeam s fun r _ t =>
    let n := reg.toNat
    let v := t.sreg d
    if n = 0x021 then (s.putTeam r (t.advance 4)).modCrew r.crew (fun c => { c with capNote := field v 8 0 })
    else if !(sysPriv n && t.priv) then s.scalarFault r causePrivilege none
    else if n = 0x070 then s.putTeam r ({ t with trapPc := field v 55 0 }.advance 4)
    else if n = 0x072 then s.putTeam r ({ t with trapVec := field v 55 0 }.advance 4)
    else if n = 0x080 then s.putTeam r ({ t with ctxSel := field v 13 0 }.advance 4)
    else match t.ctxWrite v with
      | none => s.scalarFault r causeOperand none
      | some t1 => s.putTeam r (t1.advance 4)

def execClk (d : SReg) (s : State) : Out := withTeam s fun r c t => s.putTeam r (t.result d (cellGet s.clk c.core) 4)

/-! ### TRAP and ERET (08 R187, 17 R342, R343) -/

def execTrap (code : BitVec 12) (s : State) : Out :=
  withTeam s fun r _ t => (s.putTeam r (t.trap causeSoftware code.toNat (t.pc + 4#64))).notePool r false none

def execEret (s : State) : Out :=
  withTeam s fun r _ t => if t.priv then s.putTeam r t.eret else s.scalarFault r causePrivilege none

/-! ### EXIT (02 R36, R47; 10 R238) -/

/-- The team retires its items and seeds on every set. -/
def State.retireAll (s : State) (r : TeamRef) (core : Nat) : List WlHold → State
  | [] => s
  | w :: rest =>
    let n := w.items + (if w.seed then 1 else 0)
    (if n = 0 then s else { s with wlChanges := s.wlChanges ++ [WlChange.mk r (coreGang core) w.set n] }).retireAll r core rest

def execExit (s : State) : Out :=
  withTeam s fun r c t =>
    if !s.appendsDone r c t then s
    else ((s.putTeam r { t.advance 4 with exited := true, wl := [] }).retireAll r c.core t.wl).settle r.crew

/-! ### Fences (06 R122, R124) -/

def scopeCode : Scope → Nat
  | .team => 0 | .crew => 1 | .gang => 2 | .region => 3 | .device => 4 | .span => 5
/-- What an acquire waits for, and what a release waits for. -/
def Team.acqDone (t : Team) : Bool := t.allRetired && t.loadsDone
def Team.relDone (t : Team) : Bool := t.allRetired && t.loadsDone && t.storesDone

/-- A fence: a hold until its condition, then the invalidation of the core's L1 at scope .gang or wider for an acquire. -/
def fence (acq : Bool) (sc : Scope) (cond : Team → Bool) (s : State) : Out :=
  withTeam s fun r c t =>
    if !cond t then s
    else
      let s1 := s.putTeam r (t.advance 4)
      if acq && decide (2 ≤ scopeCode sc) then s1.l1Invalidate c.core else s1

def execFenceAcq (sc : Scope) (s : State) : Out := fence true sc Team.acqDone s
def execFenceRel (sc : Scope) (s : State) : Out := fence false sc Team.relDone s
def execFenceAr (sc : Scope) (s : State) : Out := fence true sc Team.relDone s

end Sys2Proof.Machine
end

