-- ==== Sys2Proof/Machine/Matrix.lean ====
section
/-! DEFINITION. The matrix engine: MMA, MZERO, MREAD, MWRITE and MDRAIN, the matrix queue, the accumulator tiles and paired
operation (04_numbers R77, R78, R86, 11_matrix R239 to R258, 18_instruction_faults R355, R356). -/

namespace Sys2Proof.Machine

/-! ### Commands and their places (11 R241, R246, R252) -/

/-- The accumulator that a matrix instruction names. -/
def MCmd.accN (m : MCmd) : Nat :=
  match m.instr with
  | .mma _ k | .mmaPair _ k => k.acc.toNat
  | .mdrain _ k => k.acc.toNat
  | .mzero _ a | .mread _ a | .mwrite _ a => a.toNat
  | _ => 0
/-- The precisions that an MMA reads. -/
def MCmd.prec (m : MCmd) : Nat × Nat :=
  match m.instr with
  | .mma _ k | .mmaPair _ k => (k.pa1.toNat + 1, k.pb1.toNat + 1)
  | _ => (0, 0)

/-- The crews 2c and 2c + 1 are partners; the even one leads. -/
def Crew.leads (c : Crew) : Bool := c.crewId.toNat % 2 == 0
def State.partnerCrew (s : State) (c : Crew) : Option (Crew × Nat) :=
  (s.crews.zipIdx).find? (fun p => p.1.launchId == c.launchId && p.1.crewId == (c.crewId ^^^ 1#32))
/-- The core of a pair that leads, and its pair clock. -/
def leadCore (core : Nat) : Nat := core / 2 * 2
def State.pairNow (s : State) (core : Nat) : Nat := (cellGet s.pairClk (leadCore core)).toNat

/-- Replace or remove a command. -/
def State.putMCmd (s : State) (m : MCmd) : State := { s with matrix := s.matrix.map (fun x => if x.id = m.id then m else x) }
/-- The team of the same id in the partner crew. -/
def State.partnerRef (s : State) (m : MCmd) : Option TeamRef :=
  match s.crewAt m.team.crew with
  | none => none
  | some c => (s.partnerCrew c).map (fun p => ⟨p.2, m.team.team⟩)
/-- An offer that this command has sent, and one that is meant for it. -/
def State.sentBy (s : State) (m : MCmd) (o : Offer) : Bool := m.isPair && some o.team == s.partnerRef m && o.seq == m.pairSeq
def MCmd.sentTo (m : MCmd) (o : Offer) : Bool := m.isPair && o.team == m.team && o.seq == m.pairSeq
def State.dropMCmd (s : State) (m : MCmd) : State :=
  { s with matrix := s.matrix.filter (fun x => x.id != m.id), offers := s.offers.filter (fun o => !s.sentBy m o && !m.sentTo o) }

/-- The other side's command of a paired MMA. -/
def State.partnerCmd (s : State) (m : MCmd) : Option MCmd :=
  match s.partnerRef m with
  | none => none
  | some r => s.matrix.find? (fun x => x.isPair && x.team == r && x.pairSeq == m.pairSeq)
/-- The side whose hB and B origin a command uses. -/
def State.bSide (s : State) (m : MCmd) : MCmd :=
  if m.isPair && (match s.crewAt m.team.crew with | none => false | some c => !c.leads) then (s.partnerCmd m).getD m else m

/-! ### Chunk steps (04 R86, 11 R239, R243) -/

/-- The plane and scale words of a block, read at one of its elements. -/
def Tile.blockWord (t : Tile) (c : Coord) (i : Nat) : Nat := t.read (t.blockAt c) (some i)

/-- Element e of a block at precision q: zero past the K extent (04 R78, 05 R100). -/
def chunkElem (t : Tile) (c : Coord) (q kk extent e : Nat) : Int :=
  if extent ≤ kk + e then 0 else blockElem t.planes.toNat (t.blockWord c) e / 2 ^ (t.planes.toNat - q)
/-- The scale of a block read at precision q. -/
def chunkScale (t : Tile) (c : Coord) (q : Nat) : FVal := scaleV (decodeF f32 (t.blockWord c t.planes.toNat)) (t.planes.toNat - q : Nat)

/-- One chunk step of one element (04 R86). -/
def chunkUpdate (ta tb : Tile) (ca cb : Coord) (pa pb old : Nat) : Nat :=
  let d : Int := (List.range 32).foldl (fun x e => x + chunkElem ta ca pa ca.c1 ta.n1.toNat e * chunkElem tb cb pb cb.c0 tb.n0.toNat e) 0
  let sk := encodeF f32 .rne false (mulV (chunkScale ta ca pa) (chunkScale tb cb pb))
  let tk := encodeF f32 .rne false (mulV (intV d) (decodeF f32 sk))
  addF f32 .rne old tk

/-- An element of an accumulator value. -/
def accKey (n i j : Nat) : Nat := n * 16384 + i * 128 + j
def Team.accAt (t : Team) (n i j : Nat) : Nat := (cellGet t.acc (accKey n i j)).toNat
/-- The whole of accumulator n replaced. -/
def Team.setAcc (t : Team) (n : Nat) (f : Nat → Nat → Nat) : Team :=
  let cells : SMap 32 := (List.range 16384).filterMap (fun k =>
    let v := BitVec.ofNat 32 (f (k / 128) (k % 128))
    if v = 0#32 then none else some (n * 16384 + k, v))
  { t with acc := t.acc.filter (fun p => decide (p.1 < n * 16384)) ++ cells ++ t.acc.filter (fun p => decide ((n + 1) * 16384 ≤ p.1))
           accUsed := t.accUsed ||| BitVec.ofNat 4 (2 ^ n) }

/-- Chunk step m.cursor of an MMA on its own side. -/
def State.mmaChunk (s : State) (m : MCmd) : State :=
  let b := s.bSide m
  match s.tileAt m.team.crew m.uidA, s.tileAt b.team.crew b.uidB with
  | some ta, some tb =>
    let a0 := m.aOrigin
    let b0 := b.bOrigin
    let k := m.cursor
    let (pa, pb) := m.prec
    let f (t : Team) (i j : Nat) : Nat :=
      let old := t.accAt m.accN i j
      if ta.n0.toNat ≤ a0.c0 + i ∨ tb.n1.toNat ≤ b0.c1 + j then old
      else chunkUpdate ta tb { a0 with c0 := a0.c0 + i, c1 := a0.c1 + 32 * k } { b0 with c0 := b0.c0 + 32 * k, c1 := b0.c1 + j } pa pb old
    (s.modTeam m.team (fun t => t.setAcc m.accN (f t))).putMCmd { m with cursor := k + 1 }
  | _, _ => s.putMCmd { m with cursor := m.cursor + 1 }

/-- The matrix queue of a core: the commands of the crews resident there. -/
def State.queuedOn (s : State) (core : Nat) : List MCmd :=
  s.matrix.filter (fun m => m.core == core && (match s.crewAt m.team.crew with | none => false | some c => c.place == some core))

/-- Array cycles of a chunk step, counted (15 R323). -/
def State.countChunk (s : State) (m : MCmd) : State := s.count (coreDie m.core) 4 (m.prec.1 * m.prec.2)

/-- The started MMA of a core. -/
def State.runningOn (s : State) (core : Nat) : Option MCmd := (s.queuedOn core).find? (fun m => m.started)

/-- The array performs one chunk step; a pair's two arrays step together (11 R251, R254). -/
def State.chunkStep (s : State) (core : Nat) : State :=
  match s.runningOn core with
  | none => s
  | some m =>
    if m.chunks ≤ m.cursor ∨ s.quiesced ∨ s.powerLoss.isSome then s
    else if m.isPair then (match s.partnerCmd m with
      | none => s
      | some p => (((s.mmaChunk m).mmaChunk p).countChunk m).countChunk p)
    else (s.mmaChunk m).countChunk m

/-! ### Entering the matrix queue (11 R241, R242, R247; 18 R355) -/

/-- Whether an outstanding store reaches the operand region of an MMA that is about to enter (11 R244). -/
def State.regionBusy (s : State) (m : MCmd) : Bool :=
  match s.teamAt m.team with
  | none => false
  | some (_, t) => t.pending.any (fun a => a.isStore && (match a.loc with | .tile k u c _ => m.holds k u c | .glob _ _ => false))

/-- The matrix queue of a core is full. While QUIESCE brings the package to its cut, a command that waits to enter a full queue stands
behind it: it is saved with m = 0 (19 R375; notes/assumptions/28.md). -/
def State.queueFull (s : State) (core : Nat) : Bool := s.quiescing.isNone && decide (8 ≤ (s.queuedOn core).length)

/-- The common part of a matrix instruction once its checks have passed: a full queue is a hold. -/
def State.enterMatrix (s : State) (m : MCmd) (f : Team → Team) : State :=
  if s.queueFull m.core then s
  else { s.modTeam m.team (fun t => (f { t with nextOrd := t.nextOrd + 1 }).laneDone none) with matrix := s.matrix ++ [m], nextCmd := s.nextCmd + 1 }

/-- A matrix command as its instruction makes it. -/
def mkMCmd (s : State) (r : TeamRef) (c : Crew) (t : Team) (cl : Clause) (i : Instr) (src : List Word) : MCmd :=
  { id := s.nextCmd, core := c.core, team := r, clause := cl.uid, ord := t.nextOrd, step := cl.step, instr := i, src := src }

/-- COLLECTIVE under a partial mask. -/
def collective (t : Team) (x : Mask) : List Nat := if x = laneMask t.lanes then [] else [causeCollective]

def mxS0 (h : LaneHead) : Src := srcOf h.s0 h.z0 h.b0 0#4
def mxS1 (h : LaneHead) : Src := srcOf h.s1 h.z1 h.b1 0#4
def mxS2 (h : LaneHead) : Src := srcOf h.s2 h.z2 h.b2 0#4

/-- The causes of one operand of an MMA: its tile, its origin, the chunk range along K. -/
def operandCauses (tl : Option Tile) (isA : Bool) (q n : Nat) (o : Coord) : List Nat :=
  let (k, out) := if isA then (o.c1, o.c0) else (o.c0, o.c1)
  (if k % 32 ≠ 0 then [causeOperand] else []) ++
  (match tl with
   | none => [stBounds]
   | some t =>
     let (ext, lim) := if isA then (t.n1.toNat, t.n0.toNat) else (t.n0.toNat, t.n1.toNat)
     (if t.fmt ≠ 14#4 ∨ t.tagNow ≠ (if isA then 8#4 else 9#4) ∨ t.planes.toNat < q ∨ 32 * ceilDiv ext 32 < k + 32 * n then [causeOperand] else []) ++
     (if lim ≤ out ∨ t.n2.toNat ≤ o.c2 ∨ t.n3.toNat ≤ o.c3 then [stBounds] else []))

/-- A poisoned word among those that an MMA reads of an operand. -/
def operandPoison (tl : Tile) (isA : Bool) (q n : Nat) (o : Coord) : Bool :=
  !tl.poison.isEmpty &&
  (List.range 128).any (fun i => (List.range n).any (fun k =>
    let c : Coord := if isA then { o with c0 := o.c0 + i, c1 := o.c1 + 32 * k } else { o with c0 := o.c0 + 32 * k, c1 := o.c1 + i }
    (if isA then decide (c.c0 < tl.n0.toNat) else decide (c.c1 < tl.n1.toNat)) &&
    (tl.planes.toNat :: (List.range q).map (fun j => tl.planes.toNat - 1 - j)).any (fun j => tl.poisoned c (some j))))

/-- UNCORRECTABLE where lane 0 of a source register, or of a register after one, holds an uncorrectable error (17 R340). -/
def operandErr (t : Team) (srcs : List Src) : List Nat := if t.laneErrAt srcs 0 then [stUncorrectable] else []

/-- MMA and MMA.pair: `own` says whether the side reads its own hB and s1. The checks are made when the MMA can enter the queue:
there is room, what comes before its clause's accesses has been performed, and no store to its operands is outstanding (R244, 18 R355). -/
def enterMma (s : State) (i : Instr) (h : LaneHead) (m : ModMma) (pair : Bool) : Out :=
  laneFrame s h [mxS0 h, mxS1 h, mxS2 h] [] fun r c t cl x =>
    let src (y : Src) : Word := t.src t.popped y 0
    let k := src (mxS2 h)
    let n := getElem 16 0 k
    let own := !pair || c.leads
    let ta := c.tile m.hA
    let tb := c.tile m.hB
    let pa := m.pa1.toNat + 1
    let pb := m.pb1.toNat + 1
    let oa := coordOf (src (mxS0 h))
    let ob := coordOf (src (mxS1 h))
    let cmd := { mkMCmd s r c t cl i [src (mxS0 h), src (mxS1 h), k] with
      uidA := c.captureTile m.hA.toNat, uidB := if own then c.captureTile m.hB.toNat else 0, pairSeq := if pair then t.pairSeq else 0#16 }
    let bad := operandErr t [mxS0 h, if own then mxS1 h else .zero, mxS2 h] ++ collective t x ++ (if n = 0 ∨ 2047 < n ∨ 2 ^ 18 ≤ k.toNat then [causeOperand] else []) ++
      (if pair && s.cohortSize c == 1 then [causeOperand] else []) ++ operandCauses ta true pa n oa ++ (if own then operandCauses tb false pb n ob else [])
    if s.queueFull c.core || s.regionBusy cmd || !s.clauseFree r t cl then s
    else match firstCause bad with
    | some e => s.laneFaultAt r t e (wholeLanes x cl.mask) (some x) cl.addr
    | none =>
      if (match ta with | none => false | some tl => operandPoison tl true pa n oa) || (own && (match tb with | none => false | some tl => operandPoison tl false pb n ob)) then
        s.laneFaultAt r t stPoison (wholeLanes x cl.mask) (some x) cl.addr
      else s.enterMatrix cmd (fun t => if pair then { t with pairSeq := t.pairSeq + 1#16 } else t)

def execMma (h : LaneHead) (m : ModMma) (s : State) : Out := enterMma s (.mma h m) h m false
def execMmaPair (h : LaneHead) (m : ModMma) (s : State) : Out := enterMma s (.mmaPair h m) h m true

def execMzero (h : LaneHead) (acc : BitVec 2) (s : State) : Out :=
  laneFrame s h [] [] fun r c t cl x =>
    match firstCause (collective t x) with
    | some e => s.laneFaultAt r t e (wholeLanes x cl.mask) (some x) cl.addr
    | none => s.enterMatrix (mkMCmd s r c t cl (.mzero h acc) []) id

/-- The coordinates of MREAD and MWRITE within an accumulator. -/
def accInside (c : Coord) : Bool := decide (c.c0 ≤ 127 ∧ c.c1 ≤ 126 ∧ c.c2 = 0 ∧ c.c3 = 0)

/-- Whether an element of the team's accumulator n at the coordinates of MREAD holds an uncorrectable error. -/
def Team.accErrAt (t : Team) (n : Nat) (c : Coord) : Bool := t.accErr.contains (accKey n c.c0 c.c1) || t.accErr.contains (accKey n c.c0 (c.c1 + 1))
/-- Whether a matrix command of the team on accumulator n is outstanding. -/
def State.accBusy (s : State) (r : TeamRef) (n : Nat) : Bool := s.matrix.any (fun m => m.team == r && m.accN == n)

/-- MREAD and MWRITE: each executing lane with good coordinates acts; the others fault. `bad` are further faults of a lane (20 R398); an
accumulator element in error that an earlier command may yet write makes the instruction wait. -/
def enterLanes (s : State) (i : Instr) (h : LaneHead) (srcs : List Src) (regs : List Nat) (reads : Option Nat) (val : Team → Nat → Word) : Out :=
  laneFrame s h srcs regs fun r c t cl x =>
    let at_ (l : Nat) : Word := t.src t.popped (mxS0 h) l
    let errAt (l : Nat) : Bool := match reads with | none => false | some n => t.accErrAt n (coordOf (at_ l))
    let cause (l : Nat) : Option Nat :=
      if t.laneErrAt srcs l then some stUncorrectable else if !accInside (coordOf (at_ l)) then some stBounds
      else if errAt l then some stUncorrectable else none
    let lanes := maskLanes x t.lanes
    let good := lanes.filter (fun l => (cause l).isNone)
    let bad := lanes.filterMap (fun l => (cause l).map (fun e => (l, e, none)))
    let cmd := { mkMCmd s r c t cl i [] with laneOps := good.map (fun l => (l, at_ l, val t l)) }
    if lanes.any errAt && s.accBusy r (reads.getD 0) then s
    else if good.isEmpty then (if bad.isEmpty then s.putTeam r (t.laneDone none) else s.lanesFault r cl x bad)
    else if s.queueFull c.core then s
    else if bad.isEmpty then s.enterMatrix cmd id
    else ({ s.modTeam r (fun t => { t with nextOrd := t.nextOrd + 1 }) with matrix := s.matrix ++ [cmd], nextCmd := s.nextCmd + 1 }).lanesFault r cl x bad

def execMread (h : LaneHead) (acc : BitVec 2) (s : State) : Out := enterLanes s (.mread h acc) h [mxS0 h] [h.dst.toNat] (some acc.toNat) (fun _ _ => 0#64)
def execMwrite (h : LaneHead) (acc : BitVec 2) (s : State) : Out :=
  enterLanes s (.mwrite h acc) h [mxS0 h, mxS1 h] [] none (fun t l => t.src t.popped (mxS1 h) l)

/-! ### MDRAIN (11 R255 to R257) -/

/-- The register after the one that a source names: with the Z flag of the source there is none and it reads zero; its B flag replaces the
first register alone (notes/assumptions/20.md). -/
def nextReg (x : Src) (reg : BitVec 9) : List Nat := match x with | .zero => [] | _ => [reg.toNat + 1]
def nextValue (t : Team) (x : Src) (reg : BitVec 9) : Word := match x with | .zero => 0#64 | _ => t.vreg (reg.toNat + 1) 0

/-- The destination of an MDRAIN. -/
def drainEnd (c : Crew) (md : ModDrain) : Option CEnd :=
  if md.glob then (let d := cellGet c.globals md.dest.toNat; if d = 0#512 then none else some (.tensor d)) else (c.tile md.dest).map .tile

/-- The causes that do not depend on single elements. -/
def drainForm (c : Crew) (h : LaneHead) (md : ModDrain) (e : Option CEnd) (o : List Nat) : List Nat :=
  (match e with
   | none => [stBounds]
   | some e =>
     (match e with
      | .tile t => (if t.queue then [stBounds] else [])
      | .tensor d => (if descTag d = 8 ∨ descTag d = 9 then [causeOperand] else []) ++ (if descScm d then [stTranslation] else [])) ++
     (if e.fmt ≠ h.ty then [causeOperand] else []) ++
     (if e.shape.inside (0 :: 0 :: o.drop 2) then [] else [stBounds])) ++
  (if md.residual then (match c.tile md.res with
    | none => [stBounds]
    | some t => if !isFloatTy t.fmt then [causeOperand] else if t.queue then [stBounds] else []) else [])

/-- The causes of the residual elements: outside the tile, poisoned. -/
def residCauses (c : Crew) (md : ModDrain) (src : List Word) (cells : List (Nat × Nat)) : List Nat :=
  if !md.residual then []
  else match c.tile md.res with
    | none => []
    | some t => (if cells.all (fun p => t.inside (residAt src p)) then [] else [stBounds]) ++
      (if t.poison.isEmpty then [] else if cells.any (fun p => t.inside (residAt src p) && t.poisoned (residAt src p) none) then [stPoison] else [])

/-- The causes of the destination elements: pages are bound in the check, and stay bound. -/
def drainElems (s : State) (c : Crew) (h : LaneHead) (md : ModDrain) (e : CEnd) (o : List Nat) : List (Nat × Nat) → State × List (Nat × Option Nat)
  | [] => (s, [])
  | p :: rest =>
    let w := elemWidth h.ty
    match e with
    | .tile t =>
      let bad := !t.poison.isEmpty && (md.add || decide (w < 32)) && t.poisoned (coord4 (drainAt o p.1 p.2)) none
      let (s1, l) := drainElems s c h md e o rest
      (s1, if bad then (stPoison, none) :: l else l)
    | .tensor d =>
      let (va, _) := descElem d (drainAt o p.1 p.2) none
      let n := ceilDiv w 8
      match s.globCheck c.core va n true md.add with
      | (s1, .error x, z) => let (s2, l) := drainElems s1 c h md e o rest; (s2, (x, z) :: l)
      | (s1, .ok _, _) => drainElems s1 c h md e o rest

/-- The key is used with dropout and with stochastic rounding alone (11 R255). -/
def drainKeyed (md : ModDrain) : Bool := md.dropout || md.rm == 4#3

/-- The five slots of the key and origin registers. -/
def drainSrc (t : Team) (h : LaneHead) (md : ModDrain) : List Word :=
  let v (x : Src) : Word := t.src t.popped x 0
  [v (mxS0 h), if md.glob then nextValue t (mxS0 h) h.s0 else 0#64, if md.residual then v (mxS1 h) else 0#64,
   if drainKeyed md then v (mxS2 h) else 0#64, if drainKeyed md then nextValue t (mxS2 h) h.s2 else 0#64]

def execMdrain (h : LaneHead) (m : ModDrain) (s : State) : Out :=
  let regs := (if m.glob then nextReg (mxS0 h) h.s0 else []) ++ (if drainKeyed m then nextReg (mxS2 h) h.s2 else [])
  laneFrame s h [mxS0 h, mxS1 h, mxS2 h] regs fun r c t cl x =>
    let src := drainSrc t h m
    let o := drainOrigin m src
    let e := drainEnd c m
    let named := [mxS0 h, if m.residual then mxS1 h else .zero, if drainKeyed m then mxS2 h else .zero] ++ regs.map Src.reg
    let form := operandErr t named ++ collective t x ++ drainForm c h m e o
    let whole (s : State) (cause : Nat) (z : Option Nat) : State :=
      (s.modTeam r (fun _ => t.laneFault cause (wholeLanes x cl.mask) (some x) cl.addr)).notePool r false z
    match e with
    | none => whole s ((firstCause form).getD stBounds) none
    | some d =>
      if (firstCause form).any (fun q => decide (causeRank q < causeRank stTranslation)) then whole s ((firstCause form).getD stBounds) none
      else
        let cells := drainCells d.shape o
        let placed := (operandErr t named).isEmpty && d.shape.inside (0 :: 0 :: o.drop 2) && !form.contains stTranslation
        let (s1, l) := if placed then drainElems s c h m d o cells else (s, [])
        let others := form ++ residCauses c m src cells
        match firstCause (others ++ l.map (·.1)) with
        | some q => if q = stPoison && s.storesOut r t then s else whole s1 q (if others.isEmpty then faultPool (l.map (fun y => (0, y))) else none)
        | none =>
          let passes := t.lanes / 32
          if 65535 < t.lctr.toNat + passes then s1
          else s1.enterMatrix { mkMCmd s1 r c t cl (.mdrain h m) src with
              uidA := if m.glob then 0 else c.captureTile m.dest.toNat, uidB := if m.residual then c.captureTile m.res.toNat else 0
              desc := if m.glob then cellGet c.globals m.dest.toNat else 0#512 } (fun t => { t with lctr := t.lctr + BitVec.ofNat 16 passes })

/-- The value that MDRAIN brings to destination (r, c), FP32 bits, before the conversion (11 R256). -/
def drainValue (md : ModDrain) (src : List Word) (step : BitVec 32) (acc : Nat) (resid : Option (Fmt × Nat)) (r c : Nat) : Nat :=
  let x := match resid with | none => acc | some (f, v) => encodeF f32 .rne false (addV false (decodeF f32 acc) (decodeF f v))
  if md.dropout then
    let k := src.getD 3 0#64
    let g := src.getD 4 0#64
    let u := dmixLow (k.extractLsb' 0 32) step (BitVec.ofNat 32 r) (BitVec.ofNat 32 c) ((g.extractLsb' 32 32) &&& 0x7FFFFFFF#32)
    if u.toNat < getElem 32 1 k then 0 else mulF f32 .rne x (getElem 32 0 g)
  else x

/-- The conversion of MDRAIN for destination (r, c): to FP32, too, it is that of R84, which the saturate bit makes finite. -/
def drainConvert (h : LaneHead) (md : ModDrain) (src : List Word) (step : BitVec 32) (x r c : Nat) : Nat :=
  let k := src.getD 3 0#64
  let g := src.getD 4 0#64
  let mode := if md.rm = 4#3 then .rsx (dmixLow (k.extractLsb' 0 32) step (BitVec.ofNat 32 r) (BitVec.ofNat 32 c) ((g.extractLsb' 32 32) ||| 0x80000000#32))
    else rmodeOf md.rm
  if h.ty = 8#4 then encodeF f32 mode h.md (decodeF f32 x) else convertElem h.ty 8#4 mode h.md x

/-- The new destination element: the sum rounded once to T, or the converted value. -/
def drainNew (h : LaneHead) (md : ModDrain) (src : List Word) (step : BitVec 32) (x old r c : Nat) : Nat :=
  if md.add then encodeF (fmtOf h.ty) .rne false (addV false (decodeF (fmtOf h.ty) old) (decodeF f32 x)) else drainConvert h md src step x r c

/-- One destination element written at its point; one whose page has since lost its translation or its line is not. An element whose
accumulator element held an uncorrectable error is written poisoned, after the outstanding loads of its word (18 R355, R358). -/
def State.drainStore (s : State) (m : MCmd) (h : LaneHead) (md : ModDrain) (p : Nat × Nat) (x : Nat) : Except Stop State :=
  let c := drainAt (drainOrigin md m.src) p.1 p.2
  let bad := decide (2 ^ 32 ≤ x)
  let new (old : Nat) : Nat := drainNew h md m.src m.step (x % 2 ^ 32) old (c.getD 0 0) (c.getD 1 0)
  if md.glob then
    let (va, bit) := descElem m.desc c none
    let w := elemWidth h.ty
    let n := ceilDiv w 8
    match s.translate none (coreDie m.core) va true with
    | (s0, .ok pa e) =>
      let s1 := s0.countRequest (coreDie m.core) pa true
      if pteScm e then .ok s0
      else if bad && s1.loadsOut pa n then .error .hold
      else
        let old := s1.physRead pa n
        let v := patchBits old bit w (new (old / 2 ^ bit % 2 ^ w))
        match s1.pageMerge va pa e m.step n bit w new with
        | .error .hold => .error .hold
        | .error (.code _) => .ok s1
        | .ok s2 =>
          let s3 := if bad then s2.setPoison pa n else s2
          .ok (if md.add then s3.l1DropLine m.core (pa / 64) else s3.l1Update m.core pa n v)
    | (s1, _) => .ok s1
  else match s.tileAt m.team.crew m.uidA with
    | none => .ok s
    | some t =>
      let y := coord4 c
      let (nw, b) := t.bitAddr y none
      if bad && (wordsOf b t.accWidth).any (s.tileLoadsOut m.team.crew m.uidA nw) then .error .hold
      else match s.tileUpdate m.team.crew m.uidA y none new m.step false with
      | .error .hold => .error .hold
      | .error (.code _) => .ok s
      | .ok s1 => .ok (if bad then s1.modTile m.team.crew m.uidA (fun t => t.setPoisoned y none) else s1)

/-- Whether an XRED, or another MDRAIN with add-on-store, is partly inside the tile or the line of an element that an add-on-store is to
update (06 R130). -/
def State.drainExcluded (s : State) (m : MCmd) (md : ModDrain) (p : Nat × Nat) : Bool :=
  let taken (uid crew : Nat) (line : Option Nat) : Bool :=
    s.commands.any (fun k => s.cmdInside k uid crew line) || s.matrix.any (fun k => k.id != m.id && s.drainInside k uid crew line)
  md.add && (if md.glob then taken 0 0 (some ((descElem m.desc (drainAt (drainOrigin md m.src) p.1 p.2) none).1 / 64)) else taken m.uidA m.team.crew none)

/-- The pass of an instruction of `passes` passes that accumulator row i is written in (R257). -/
def drainPass (passes i : Nat) : Nat := ((List.range passes).find? (fun k => decide (128 * k / passes ≤ i ∧ i < 128 * (k + 1) / passes))).getD 0

/-- An MDRAIN reads the accumulator and every residual element, once the stream's earlier accesses to the residual and what comes before
its clause's accesses have been performed; the counts of the passes that write nothing fall. None while it must wait. -/
def State.drainBegin (s : State) (m : MCmd) (h : LaneHead) (md : ModDrain) : Option State :=
  match s.teamAt m.team with
  | none => none
  | some (_, t) =>
    let o := drainOrigin md m.src
    let cells := drainCells (s.drainShape m h md) o
    let rt := if md.residual then s.tileAt m.team.crew m.uidB else none
    if (match t.clauseOf m.clause with | none => false | some cl => !s.clauseFree m.team t cl) ||
       (md.residual && cells.any (fun p => s.olderOverlap m.team t .lane m.ord false (.tile m.team.crew m.uidB (residAt m.src p) none) 64)) then none
    else
      let vals := cells.map (fun p =>
        let k := accKey m.accN p.1 p.2
        (accKey 0 p.1 p.2, drainValue md m.src m.step (t.accAt m.accN p.1 p.2) (rt.map (fun q => (fmtOf q.fmt, q.read (residAt m.src p) none)))
          (o.getD 0 0 + p.1) (o.getD 1 0 + p.2) + (if t.accErr.contains k then 2 ^ 32 else 0)))
      let idle := (List.range t.bands).filter (fun k => cells.all (fun p => drainPass t.bands p.1 != k))
      let s1 := s.modTeam m.team (fun t => { t with lctr := t.lctr - BitVec.ofNat 16 idle.length })
      some (if cells.isEmpty then (s1.dropMCmd m).sweepTiles m.team.crew else s1.putMCmd { m with drain := some vals })

/-- An MDRAIN that has read its sources writes one destination element; the count of a pass falls with its last one, and the MDRAIN
completes with the last of all (R257). -/
def State.drainElem (s : State) (id key : Nat) : State :=
  match s.matrix.find? (fun m => m.id == id) with
  | none => s
  | some m => match m.instr, m.drain, s.teamAt m.team with
    | .mdrain h md, some l, some (_, t) => (match l.find? (fun v => v.1 == key) with
      | none => s
      | some v =>
        let p := (key / 128, key % 128)
        let waits := match s.drainLoc m md p with | none => false | some loc => s.olderOverlap m.team t .lane m.ord true loc (elemWidth h.ty)
        if waits || s.drainExcluded m md p || s.quiesced || s.powerLoss.isSome then s
        else match s.drainStore m h md p v.2 with
          | .error _ => s
          | .ok s1 =>
            let rest := l.filter (fun v => v.1 != key)
            let lastOfPass := rest.all (fun v => drainPass t.bands (v.1 / 128) != drainPass t.bands p.1)
            let s2 := if lastOfPass then s1.modTeam m.team (fun t => { t with lctr := t.lctr - 1#16 }) else s1
            if rest.isEmpty then (s2.dropMCmd m).sweepTiles m.team.crew else s2.putMCmd { m with drain := some rest })
    | _, _, _ => s

/-- The trap of a team for an element of its MDRAIN that has had no answer; no lane is to re-execute it (17 R344). -/
def State.drainFault (s : State) (m : MCmd) : State :=
  match s.teamAt m.team with
  | none => s
  | some (_, t) => if t.faulted || t.finished then s else (s.putTeam m.team (t.laneTrap stUncorrectable 0#1024 (t.clauseAddr m.clause))).notePool m.team false none

/-! ### The array (11 R246 to R249, R253) -/

/-- MWRITE's elements: where several lanes name one element, which value it takes is open. -/
def mwriteList (free : Nat) (ops : List (Nat × Word × Word)) : List (Nat × Nat) :=
  let ws := ops.flatMap (fun q => let c := coordOf q.2.1; [(accKey 0 c.c0 c.c1, getElem 32 0 q.2.2), (accKey 0 c.c0 (c.c1 + 1), getElem 32 1 q.2.2)])
  ws.zipIdx.map (fun p =>
    let cands := ws.filter (fun w => w.1 == p.1.1)
    (p.1.1, if cands.length ≤ 1 then p.1.2 else
      let first := (ws.findIdx? (fun w => w.1 == p.1.1)).getD 0
      (cands.getD ((Config.freeValue (free + first)).toNat % cands.length) p.1).2))

/-- MZERO, MREAD or MWRITE performed whole. -/
def State.performMatrix (s : State) (m : MCmd) : Option State :=
  let n := m.accN
  match m.instr with
  | .mzero _ _ => some (s.modTeam m.team (fun t => { t.setAcc n (fun _ _ => 0) with accErr := t.accErr.filter (fun k => k / 16384 != n) }))
  | .mread h _ => some (s.modTeam m.team (fun t => m.laneOps.foldl (fun u q =>
      let c := coordOf q.2.1
      u.setVreg h.dst.toNat q.1 (BitVec.ofNat 64 (t.accAt n c.c0 c.c1 + t.accAt n c.c0 (c.c1 + 1) * 2 ^ 32))) t))
  | .mwrite _ _ =>
    let ws := mwriteList s.free m.laneOps
    some { s.modTeam m.team (fun t => { ws.foldl (fun u w => { u with acc := cellSet u.acc (n * 16384 + w.1) (BitVec.ofNat 32 w.2) }) t with
        accUsed := t.accUsed ||| BitVec.ofNat 4 (2 ^ n), accErr := t.accErr.filter (fun k => ws.all (fun w => n * 16384 + w.1 != k)) }) with free := s.free + ws.length }
  | _ => none

/-- The commands of a core that R247 allows: no earlier command of the same team is left. -/
def State.allowedCmds (s : State) (core : Nat) : List MCmd :=
  let l := s.queuedOn core
  l.filter (fun m => l.all (fun x => x.team != m.team || decide (m.id ≤ x.id)))
def State.accHolder (s : State) (core n : Nat) : Option TeamRef := (s.accHold.find? (fun p => p.1 == core * 4 + n)).map (·.2)

/-- The array is free: no MMA runs, and no pair command is OFFERED or ARMED. -/
def State.arrayFree (s : State) (core : Nat) : Bool := s.matrix.all (fun m => m.core != core || (!m.started && (m.phase == .idle || m.phase == .withdrawn)))

/-- The fate of a paired MMA whose partner does not join: every element of its accumulator is the canonical NaN (18 R356). -/
def State.pairNan (s : State) (m : MCmd) : State :=
  (s.modTeam m.team (fun t => { t.setAcc m.accN (fun _ _ => 0x7FC00000) with accErr := t.accErr.filter (fun k => k / 16384 != m.accN) })).dropMCmd m

/-- Whether the partner of a paired MMA can never join: its team has finished, its crew has completed, which it has too if it
is no longer known and not waiting to start, or it does not exist in the launch. -/
def State.partnerGone (s : State) (m : MCmd) : Bool :=
  match s.crewAt m.team.crew with
  | none => true
  | some c => match s.partnerCrew c with
    | none => (match s.launchOf c with
      | none => true
      | some l => let i := (c.crewId ^^^ 1#32).toNat; !l.ranges.any (fun p => decide (p.1 ≤ i ∧ i < p.1 + p.2)))
    | some (p, _) => p.state != .live || (match p.teamAt m.team.team with | none => true | some t => t.finished)

/-- The array starts a command, if it can begin now. -/
def State.startCmd (s : State) (core : Nat) (m : MCmd) : Option State :=
  match m.instr with
  | .mma _ _ => some (s.putMCmd { m with started := true })
  | .mmaPair _ _ =>
    if s.partnerGone m then some ((s.pairNan m).sweepTiles m.team.crew)
    else (s.partnerRef m).map (fun q =>
      { s.putMCmd { m with phase := .offered 0 } with offers := s.offers ++ [Offer.mk (core ^^^ 1) q m.pairSeq m.prec.1 m.prec.2 m.chunks] })
  | .mdrain h md => if m.drain.isSome then none else s.drainBegin m h md
  | _ => (s.performMatrix m).map (fun s1 => (s1.dropMCmd m).sweepTiles m.team.crew)

/-- The array starts the oldest command that R247 allows, whose accumulator tile its team holds and which can begin; a paired MMA whose
offer was withdrawn stands behind the others, once (R253). -/
def execMatrixCommandStart (core : Nat) (s : State) : Out :=
  .next (if !s.arrayFree core then s
    else
      let l := (s.allowedCmds core).filter (fun m => s.accHolder core m.accN == some m.team)
      let again (s : State) : State := { s with matrix := s.matrix.map (fun m => if m.core = core ∧ m.phase = .withdrawn then { m with phase := .idle } else m) }
      match ((l.filter (fun m => m.phase != .withdrawn)) ++ l.filter (fun m => m.phase == .withdrawn)).findSome? (fun m => (s.startCmd core m).map (fun s1 => (m, s1))) with
      | some (m, s1) => again (s1.modTeam m.team (fun t => { t with matrixSlot := { t.matrixSlot with count := 0, got := true } }))
      | none => s)

/-- The holder's accumulator value is moved out and the waiting team's loaded, once the holder's earlier commands on the
tile have completed. -/
def execAccumulatorSwap (core : Nat) (acc : BitVec 2) (s : State) : Out :=
  .next (match (s.allowedCmds core).find? (fun m => m.accN == acc.toNat && s.accHolder core acc.toNat != some m.team) with
    | none => s
    | some m =>
      if s.matrix.any (fun x => x.core == core && x.accN == acc.toNat && some x.team == s.accHolder core acc.toNat && (decide (x.id < m.id) || x.started || (x.phase != .idle && x.phase != .withdrawn))) then s
      else { s with accHold := upsert (fun p => p.1 == core * 4 + acc.toNat) (core * 4 + acc.toNat, m.team) s.accHold })

/-- The words of an operand region set empty (11 R245). -/
def State.consume (s : State) (k uid : Nat) (isA : Bool) (o : Coord) (n : Nat) : State :=
  s.modTile k uid (fun t =>
    if !t.tags then t
    else (List.range 128).foldl (fun t i => (List.range n).foldl (fun t j =>
      let c : Coord := if isA then { o with c0 := o.c0 + i, c1 := o.c1 + 32 * j } else { o with c0 := o.c0 + 32 * j, c1 := o.c1 + i }
      if (if isA then t.n0.toNat ≤ c.c0 else t.n1.toNat ≤ c.c1) then t
      else (List.range (t.planes.toNat + 1)).foldl (fun t w => t.setTag c (some w) false) t) t) t)

/-- One side of an MMA completes: consumed tags, then the holds. -/
def State.finishMma (s : State) (m : MCmd) : State :=
  let k := (m.src.getD 2 0#64).toNat
  let s1 := if k.testBit 16 then s.consume m.team.crew m.uidA true m.aOrigin m.chunks else s
  let s2 := if k.testBit 17 && m.uidB != 0 then s1.consume m.team.crew m.uidB false m.bOrigin m.chunks else s1
  (s2.dropMCmd m).sweepTiles m.team.crew

/-- Consuming tags is a release: the earlier accesses of the lane stream have been performed (11 R245, 06 R125). -/
def State.consumeReady (s : State) (m : MCmd) : Bool :=
  let k := (m.src.getD 2 0#64).toNat
  let tagged (u : Nat) : Bool := match s.tileAt m.team.crew u with | none => false | some t => t.tags
  if (k.testBit 16 && tagged m.uidA) || (k.testBit 17 && tagged m.uidB) then
    (match s.teamAt m.team with
     | none => true
     | some (_, t) => t.pending.all (fun a => a.stream != .lane || decide (m.ord ≤ a.ord)) && s.wlItems.all (fun i => i.team != m.team || decide (m.ord ≤ i.ord)))
  else true

/-- The last chunk step of the core's MMA, and of its partner's, has retired. -/
def execMmaComplete (core : Nat) (s : State) : Out :=
  .next (match s.runningOn core with
    | none => s
    | some m =>
      if m.cursor < m.chunks || !s.consumeReady m then s
      else if m.isPair then (match s.partnerCmd m with
        | none => s
        | some p => if p.started && decide (p.chunks ≤ p.cursor) && s.consumeReady p then (s.finishMma m).finishMma p else s)
      else s.finishMma m)

/-- The OFFERED command of a core. -/
def State.offeredOn (s : State) (core : Nat) : Option MCmd :=
  s.matrix.find? (fun m => m.core == core && m.isPair && (match m.phase with | .offered _ => true | _ => false))

/-- The partner's OFFER reaches a core whose side is OFFERED with the same seq: unequal fields end both MMAs; with equal
fields the leader arms for 64 pair-clock cycles on. A partner that can no longer join ends the side alone. -/
def execPairOffer (core : Nat) (s : State) : Out :=
  .next (match s.offeredOn core with
    | none => s
    | some m =>
      let (pa, pb) := m.prec
      if s.partnerGone m then (s.pairNan m).sweepTiles m.team.crew
      else match s.offers.find? m.sentTo, s.partnerCmd m with
        | some o, some p =>
          if o.pa ≠ pa ∨ o.pb ≠ pb ∨ o.n ≠ m.chunks then (((s.pairNan m).pairNan p).sweepTiles m.team.crew).sweepTiles p.team.crew
          else if core % 2 = 0 then s.putMCmd { m with phase := .armed (s.pairNow core + 64) }
          else s
        | _, _ => s)

/-- The follower receives START(t). -/
def execPairStart (core : Nat) (t : Nat) (s : State) : Out :=
  .next (match s.offeredOn core with
    | none => s
    | some m => match s.partnerCmd m with
      | none => s
      | some p => if p.phase == .armed t && core % 2 == 1 then s.putMCmd { m with phase := .armed t } else s)

/-- Pair-clock cycle t: both arrays begin chunk step 0. -/
def execPairStartCycle (core : Nat) (s : State) : Out :=
  .next (match s.matrix.find? (fun m => m.core == core && (match m.phase with | .armed _ => true | _ => false)) with
    | none => s
    | some m => match s.partnerCmd m with
      | none => s
      | some p =>
        if m.phase == p.phase && (match m.phase with | .armed t => decide (t ≤ s.pairNow core) | _ => false) then
          ({ s with offers := s.offers.filter (fun o => !s.sentBy m o && !m.sentTo o) }.putMCmd
            { m with phase := .running, started := true }).putMCmd { p with phase := .running, started := true }
        else s)

/-- After 65,536 pair-clock cycles without the partner's OFFER the offer is withdrawn. -/
def execPairOfferWithdraw (core : Nat) (s : State) : Out :=
  .next (match s.offeredOn core with
    | none => s
    | some m =>
      if (match m.phase with | .offered a => decide (65536 ≤ a) | _ => false) && !s.offers.any m.sentTo then
        { s.putMCmd { m with phase := .withdrawn } with offers := s.offers.filter (fun o => !s.sentBy m o) }
      else s)

end Sys2Proof.Machine
end

