-- ==== Sys2Proof/Machine/Waits.lean ====
section
/-! DEFINITION. The end of a wait: the waiting instruction's effect when its condition holds, and its expiry
(02_work_hierarchy R38, R41, R44; 08_scalar_isa R160; 10_lane_memory_isa R222, R228; 17_fault_model R337). -/

namespace Sys2Proof.Machine

/-- The effect of the scalar stream's wait, when its condition holds. -/
def State.attempt (s : State) (r : TeamRef) (c : Crew) (t : Team) (w : ScalarWait) : Option State :=
  match w.instr with
  | .sldf d a b z h _ consume => attemptSldf d a b z h consume s r c t
  | .sste d a b z h _ => attemptSste d a b z h s r c t
  | .gwait d a b h _ => attemptGwait d a b h s r c t
  | .bwait d a _ => attemptBwait d a s r t
  | .mwait d a _ => attemptMwait d a s r c t
  | .wltake d a _ => attemptWltake d a s r c t
  | .tdwait d a _ => attemptTdwait d a s r c t
  | .rgrow d a _ => attemptRgrow d a s r c t
  | .yield => attemptYield s r
  | _ => none

/-- The expiry of the scalar stream's wait. -/
def State.expire (s : State) (r : TeamRef) (w : ScalarWait) : State :=
  match w.instr with
  | .sldf _ _ b _ _ _ _ | .sste _ _ b _ _ _ => statusTimeout s r b 8
  | .gwait d _ _ _ _ => statusTimeout s r d 8
  | .mwait d _ _ => mwaitTimeout s r d
  | .wltake d _ _ => wltakeTimeout s r d
  | .bwait d _ _ | .tdwait d _ _ | .rgrow d _ _ => statusTimeout s r d 4
  | _ => s

/-- A lane's wait is over: the instruction completes with its last lane. -/
def State.laneResolved (s : State) (r : TeamRef) (lane : Nat) : State :=
  s.modTeam r (fun t => ({ t with lwaits := t.lwaits.filter (fun w => w.lane != lane) }).laneSettle)

/-- The effect of a lane's wait when its condition holds, or its fault, which joins lanes that are still to be re-executed
(17 R342). An RLD or MSGPUT whose target's core gives no answer fails when its guard expires (17 R344). -/
def State.laneAttempt (s : State) (r : TeamRef) (t : Team) (w : LaneWait) : Option State :=
  match (if s.unheard r w && decide (dieGuard ≤ w.age) then some (.error stUncorrectable) else laneTry s r w) with
  | none => none
  | some (.ok s1) => some (s1.laneResolved r w.lane)
  | some (.error e) => match t.queue with
    | [] => none
    | cl :: _ => some ((s.modTeam r (fun t =>
        { t with lwaits := t.lwaits.filter (fun x => x.lane != w.lane) }.laneFault e ((if t.restart.isSome then t.lfm else 0#1024) ||| BitVec.ofNat 1024 (2 ^ w.lane)) none
          cl.addr)).notePool r false none)

/-- The waits of a stream that may end: the team's crew runs and the team is not FAULTED. -/
def State.mayWake (s : State) (c : Crew) (t : Team) : Bool := s.crewRuns c && !t.faulted
/-- The same for lanes; with e = 0 the lane stream stands at no blocking point, and its instruction ends though the crew is being
stopped (02 R38; 13 R298, 19 R363). -/
def State.mayWakeLane (s : State) (c : Crew) (t : Team) : Bool := s.mayWake c t || (s.crewStops c && !t.faulted && !t.laneWaits)

def execTeamWake (r : TeamRef) (st : Stream) (lane : Nat) (s : State) : Out :=
  .next (match s.teamAt r with
    | none => s
    | some (c, t) =>
      match st with
      | .scalar => if !s.mayWake c t then s else (match t.swait with
        | none => s
        | some w => (s.attempt r c t w).getD s)
      | .lane => if !s.mayWakeLane c t then s else match t.lwaits.find? (fun w => w.lane == lane) with
        | none => s
        | some w => (s.laneAttempt r t w).getD s)

/-- The condition of a scalar wait holds while its effect is held: by an earlier waiter, by an MMA or by Comet. Its count
does not end it then (08 R160; 10 R227). -/
def State.scalarHeld (s : State) (c : Crew) (t : Team) (w : ScalarWait) : Bool :=
  match w.instr, w.want with
  | .wltake _ a _, _ => s.takeHeld c t a
  | .tdwait _ a _, _ => s.tdHeld c t a
  | .rgrow _ a _, _ => s.growFits c.core t (t.sreg a).toNat
  | _, some g => s.tagHolds g && (match s.tileAt g.crew g.uid with | none => false | some tl => !tl.freed)
  | _, none => false

/-- A lane's wait whose count has run out succeeds, stays where its effect is held, or expires. -/
def State.laneRunOut (s : State) (r : TeamRef) (t : Team) (w : LaneWait) : State :=
  (s.laneAttempt r t w).getD (if s.laneHeld r w then s else (s.laneExpire r w).modTeam r (fun t => t.laneSettle))

/-- The same for an RLD: its response may come after the expiry, which discards it. How long a response takes the manual leaves open
(10 R231; notes/assumptions/17.md). -/
def State.rldRunOut (s : State) (r : TeamRef) (t : Team) (w : LaneWait) : State :=
  let s1 := { s with free := s.free + 1 }
  if (Config.freeValue s.free).getLsbD 0 then (s1.laneExpire r w).modTeam r (fun t => t.laneSettle) else s1.laneRunOut r t w

/-- Expiry of a wait whose count has run out; when its condition holds in the same cycle the wait succeeds (02 R41). -/
def execWaitTimeout (r : TeamRef) (st : Stream) (lane : Nat) (s : State) : Out :=
  .next (match s.teamAt r with
    | none => s
    | some (c, t) =>
      match st with
      | .scalar => if !s.mayWake c t then s else (match t.swait with
        | none => s
        | some w => if w.remaining = some 0 then (s.attempt r c t w).getD (if s.scalarHeld c t w then s else s.expire r w) else s)
      | .lane => if !s.mayWakeLane c t then s else match t.lwaits.find? (fun w => w.lane == lane) with
        | none => s
        | some w =>
          if w.remaining ≠ some 0 then s
          else match w.instr with
          | .rld _ _ => s.rldRunOut r t w
          | _ => s.laneRunOut r t w)

/-! ### Wake conditions of crews off their core (02 R37, R44) -/

/-- Whether a wait of the team could end now. -/
def State.teamWakes (s : State) (r : TeamRef) (c : Crew) (t : Team) : Bool :=
  (match t.swait with | none => false | some w => w.remaining == some 0 || (s.attempt r c t w).isSome) ||
  t.lwaits.any (fun w => w.remaining == some 0 || (laneTry s r w).isSome)

/-- A team of an evicted crew that can go on: it is not BLOCKED, or its wake condition holds. -/
def State.teamReady (s : State) (r : TeamRef) (c : Crew) (t : Team) : Bool :=
  !t.finished && !t.faulted && (!s.blocked c t || s.teamWakes r c t)

/-- An evicted crew with a team whose wake condition holds (R44). -/
def State.crewReady (s : State) (k : Nat) : Bool :=
  match s.crewAt k with
  | none => false
  | some c => c.teams.zipIdx.any (fun p => s.teamReady ⟨k, p.2⟩ c p.1)

end Sys2Proof.Machine
end

