-- ==== Sys2Proof/Machine/Time.lean ====
section
/-! DEFINITION. What the passing of clock cycles does (00_scope R7; 02_work_hierarchy R41; 11_matrix R253; 13_scheduling
R286, R287, R292, R297, R298; 14_host_fabric R311, R316; 17_fault_model R344; 19_quiesce_save R365; 21_recovery R401, R411).
How many cycles pass between two steps is an input (notes/assumptions/1.md). -/

namespace Sys2Proof.Machine

/-- A wait's remaining core cycles. -/
def tickLeft (n : Nat) (o : Option Nat) : Option Nat := o.map (fun k => k - n)

/-- The NOPRE budget of R297, in core cycles. -/
def nopreBudget : Nat := 2 ^ 20

/-- `n` core cycles pass for a resident team; `blocked` says whether it stands BLOCKED. -/
def Team.tick (t : Team) (n : Nat) (blocked : Bool) : Team :=
  { t with
    swait := t.swait.map (fun w => { w with remaining := tickLeft n w.remaining })
    lwaits := t.lwaits.map (fun w => { w with remaining := tickLeft n w.remaining, age := w.age + n })
    pending := t.pending.map (fun a => { a with age := a.age + n })
    blockedFor := if blocked then t.blockedFor + n else 0
    nopreUsed := if t.nopreDepth = 0#4 then t.nopreUsed else min nopreBudget (t.nopreUsed + n) }

/-- Whether a request that waits for another die is of a core: of a team that is resident there, or of an engine command or an
MDRAIN issued there. -/
def State.askedFrom (s : State) (core : Nat) (q : Asked) : Bool :=
  match q.team with
  | some r => (match s.crewAt r.crew with | none => false | some c => c.place == some core)
  | none => s.commands.any (fun m => m.id == q.command && m.core == core) || s.matrix.any (fun m => m.id == q.command && m.core == core)

/-- `n` core cycles of logical core `core`: its counter, the waits and budgets of its residents, its requests' guards, and
the counts of a lease on it. -/
def State.coreTick (s : State) (core n : Nat) : State :=
  let here (c : Crew) : Bool := c.place == some core && !s.quiesced
  { (if s.coreExists core then s.count (coreDie core) 1 n else s) with
    clk := cellSet s.clk core (cellGet s.clk core + BitVec.ofNat 64 n)
    crews := s.crews.map (fun c => if here c then { c with teams := c.teams.map (fun t => t.tick n (s.blocked c t)) } else c)
    treqs := s.treqs.map (fun q => match s.crewAt q.team.crew with
      | none => q
      | some c => if c.place == some core then { q with age := q.age + n } else q)
    asked := s.asked.map (fun q => if s.askedFrom core q then { q with age := q.age + n } else q)
    units := s.units.map (fun u => match u.u with
      | .core _ _ =>
        if u.slot = core ∧ (u.state = 1 ∨ u.state = 2) then { u with deferred := u.deferred + n }
        else if u.slot = core ∧ u.state = 3 then { u with drained := u.drained + n }
        else u
      | _ => u) }

/-- Every accepted line has drained into its stack. -/
def State.drainedLines (s : State) : State :=
  { s with mem := s.ballast.foldl (fun m b => writeLE m b.addr 64 b.data.toNat) s.mem, ballast := [] }

/-- Whether the 2^15 management cycles of the power-loss sequence end within `n` more: by then every queue has drained (21 R401, R402). -/
def State.holdupEnds (s : State) (n : Nat) : Bool :=
  match s.powerLoss with
  | none => false
  | some k => decide (k < 2 ^ 15 ∧ 2 ^ 15 ≤ k + n)

/-- `n` management cycles. -/
def State.mgmtTick (s : State) (n : Nat) : State :=
  { (if s.holdupEnds n then s.drainedLines else s) with
    mgmt := s.mgmt + n
    decayAge := s.decayAge + n
    powerLoss := s.powerLoss.map (fun k => k + n)
    nv := if s.holdupEnds n then { s.nv with powerLost := true, drained := true } else s.nv
    quiescing := s.quiescing.map (fun q => (q.1 + n, q.2))
    span := { s.span with noRoute := s.span.noRoute.map (fun m => (m.1, m.2 + n)) } }

/-- Distributor of cohort `k` of a launch (13 R285), a steal apart. -/
def State.dealtTo (s : State) (l : Launch) (k : Nat) : Nat :=
  if recHinted l.record && decide (recHint l.record < s.regions) then recHint l.record else k % s.regions

/-- The distributor whose backlog holds a never-started cohort. -/
def State.distributorOf (s : State) (l : Launch) (k : Nat) : Nat :=
  match l.stolen.find? (fun p => p.1 == k) with
  | some p => p.2
  | none => s.dealtTo l k

/-- The least of some numbers. -/
def leastOf : List Nat → Option Nat
  | [] => none
  | k :: rest => match leastOf rest with
    | none => some k
    | some j => some (min k j)

/-- The first never-started cohort of a launch in a region's backlog, in ascending index. A region's dealt cohorts recur
every `regions` indices, so a window of each range holds its first one; the stolen cohorts are looked at one by one. -/
def State.firstCohort (s : State) (l : Launch) (region : Nat) : Option Nat :=
  let z := recCohort l.record
  leastOf (l.ranges.flatMap (fun p =>
    let a := p.1 / z
    let n := (p.2 + z - 1) / z
    let window := (List.range (min n (16 + l.stolen.length))).map (fun i => a + i)
    (window ++ (l.stolen.map (·.1)).filter (fun k => decide (a ≤ k ∧ k < a + n))).filter (fun k => s.distributorOf l k == region)))

/-! ### Cohorts off their cores (13 R286, R287) -/

/-- Cohort index of a crew in its launch. -/
def State.cohortOf (s : State) (c : Crew) : Nat := c.crewId.toNat / s.cohortSize c

/-- The live crews of a crew's cohort. -/
def State.liveCohort (s : State) (c : Crew) : List Nat :=
  (s.cohort c).filter (fun k => match s.crewAt k with | none => false | some d => d.state == .live)

/-- An evicted cohort that comes first among its priority: a team's wake condition holds, or CREW_RESUME has made a crew placeable
(13 R286; 17 R346). -/
def State.cohortFirst (s : State) (ks : List Nat) : Bool :=
  ks.any (fun k => match s.crewAt k with | none => false | some c => c.placeable || s.crewReady k)
/-- One that is placed though a cohort of a higher priority waits: those, and one evicted while it waited in RGROW (13 R286, R291). -/
def State.cohortReady (s : State) (ks : List Nat) : Bool :=
  s.cohortFirst ks || ks.any (fun k => match s.crewAt k with | none => false | some c => c.growEvicted)

/-- The backlog that holds an evicted crew: that of the distributor that stole it, else of its hint, else of its last
region. -/
def State.evictedHome (s : State) (l : Launch) (c : Crew) : Nat :=
  match l.stolen.find? (fun p => p.1 == s.cohortOf c) with
  | some p => p.2
  | none => if recHinted l.record && decide (recHint l.record < s.regions) then recHint l.record else c.lastRegion

/-- The evicted cohorts of a launch in a region's backlog, each by its first crew's position: one held faulted is not there until the
driver, or a pool, returns it (R287; 17 R345). -/
def State.evictedIn (s : State) (l : Launch) (region : Nat) : List Nat :=
  (s.crews.zipIdx.filter (fun p =>
    p.1.launchId == l.id && p.1.state == .live && s.evictedHome l p.1 == region && (s.liveCohort p.1).head? == some p.2 &&
    (s.liveCohort p.1).all (fun k => match s.crewAt k with | none => true | some c => c.place.isNone && (!c.heldFaulted || c.placeable)))).map (·.2)

/-- Whether a launch has a cohort in a region's backlog. -/
def State.inBacklog (s : State) (l : Launch) (region : Nat) : Bool :=
  l.state == .eligible && ((s.firstCohort l region).isSome || !(s.evictedIn l region).isEmpty)

/-- `n` cycles of the cache-slice island of a region: launches with cohorts in its backlog age, the cohorts wait, and so do the
requests that the directory has begun for lines which a slice of the region homes (00 R7). -/
def State.sliceTick (s : State) (region n : Nat) : State :=
  { s with
    homeWaits := s.homeWaits.map (fun (h : HomeWait) => if h.begun && Config.tetherHome h.line % 16 == region then { h with age := h.age + n } else h)
    launches := s.launches.map (fun l =>
      if s.inBacklog l region then
        { l with aging := cellSet l.aging region (cellGet l.aging region + BitVec.ofNat 64 n)
                 waited := cellSet l.waited region (cellGet l.waited region + BitVec.ofNat 64 n) }
      else l)
    crews := s.crews.map (fun c => match s.launchOf c with
      | none => c
      | some l => if c.state == .live && c.place.isNone && s.evictedHome l c == region then { c with waited := c.waited + n } else c) }

/-- A core's translation cache drops a page (14 R308). -/
def State.tlbDrop (s : State) (core page : Nat) : State := { s with tlb := s.tlb.filter (fun t => !(t.core == core && t.page == page)) }

/-- A gang's translation cache drops a page (14 R308). -/
def State.gangTlbDrop (s : State) (gang page : Nat) : State := { s with gangTlb := s.gangTlb.filter (fun t => !(t.gang == gang && t.page == page)) }

/-- `n` cycles of a clock: the two ports of a pair are on one island (01 R20). -/
def State.elapse (s : State) (c : Clock) (n : Nat) : State :=
  match c with
  | .core c => s.coreTick c n
  | .mgmt => s.mgmtTick n
  | .slice r => s.sliceTick r n
  | .port p => { s with ports := s.ports.zipIdx.map (fun q => if q.2 / 2 = p / 2 ∧ q.1.state = 1 then { q.1 with age := q.1.age + n } else q.1) }
  | .pair c =>
    let lead := leadCore c
    { s with pairClk := cellSet s.pairClk lead (cellGet s.pairClk lead + BitVec.ofNat 64 n)
             matrix := s.matrix.map (fun m => if leadCore m.core = lead then { m with phase := match m.phase with | .offered a => .offered (a + n) | p => p } else m) }

end Sys2Proof.Machine
end

