-- ==== Sys2Proof/Machine/Launches.lean ====
section
/-! DEFINITION. Launch records: acceptance from the host queues and by LAUNCH, refusals, dependence gates, cancellation
(13_scheduling R279 to R285; 08_scalar_isa R184; 18_instruction_faults R360; 21_recovery R416). -/

namespace Sys2Proof.Machine

/-- The device takes no new step of its own while it is quiesced, brought to a cut, or losing power (19 R363, 21 R401). -/
def State.active (s : State) : Bool := !s.quiesced && s.quiescing.isNone && s.powerLoss.isNone

/-! ### Reading a record -/

/-- `n` bytes that the device reads at a device-physical address; bytes of lost or poisoned words are free values
(notes/assumptions/42.md). -/
def State.devRead (s : State) (pa : Nat) : Nat → State × List Byte
  | 0 => (s, [])
  | n + 1 =>
    if s.isDead (pa + n) 1 || s.isPoisoned (pa + n) 1 then
      let (s1, l) := ({ s with free := s.free + 1 }).devRead pa n
      (s1, l ++ [(Config.freeValue s.free).setWidth 8])
    else
      let (s1, l) := s.devRead pa n
      (s1, l ++ [BitVec.ofNat 8 (s.physRead (pa + n) 1)])

/-- Bytes as one number, the first the least significant (00 R5). -/
def bytesNat : List Byte → Nat
  | [] => 0
  | b :: rest => b.toNat + 256 * bytesNat rest

/-- Declarations 4 and up at a virtual address: none where a part of them does not translate. Each declaration is read by
its 4-byte words, none of which crosses a page. The device reads from die 0 (notes/assumptions/78.md). -/
def State.readExt (s : State) (va : Nat) : Nat → State × Option (List Byte)
  | 0 => (s, some [])
  | n + 1 =>
    match s.translate none 0 va false with
    | (s1, .ok pa _) =>
      let (s2, b) := s1.devRead pa 4
      (match s2.readExt (va + 4) n with
       | (s3, some l) => (s3, some (b ++ l))
       | (s3, none) => (s3, none))
    | (s1, _) => (s1, none)

/-- The declarations in a list of bytes, 12 each (13 R280). -/
def declsOf (l : List Byte) (n : Nat) : List (BitVec 96) := (List.range n).map (fun i => BitVec.ofNat 96 (bytesNat ((l.drop (12 * i)).take 12)))

/-! ### The checks of R281 -/

/-- Fields marked zero are zero, and the version is known. -/
def recZerosOk (r : BitVec 1024) : Bool :=
  recField r 7 0 8 == 0 && recField r 15 0 8 == 0 && recField r 20 11 5 == 0 && recField r 22 10 6 == 0 && recField r 24 5 3 == 0 &&
  recField r 27 6 2 == 0 && recField r 28 0 32 == 0 && recField r 39 0 8 == 0 && (List.range 4).all (fun i => recField r (47 + 8 * i) 0 8 == 0) &&
  recField r 127 0 8 == 0 && (decide (4 < recNtiles r) || recXdecl r == 0) && recVer r == Config.formatVersion

/-- Every field lies in its limits (R279). -/
def recLimitsOk (r : BitVec 1024) : Bool :=
  recSentry r % 4 == 0 && recLentry r % 4 == 0 && decide (1 ≤ recCrews r) && decide (32 ≤ recLanes r ∧ recLanes r ≤ 1024) && recLanes r % 32 == 0 &&
  decide (8 ≤ recRegs r ∧ recRegs r ≤ 512) && recRegs r % 8 == 0 && decide (1 ≤ recTeams r ∧ recTeams r ≤ 16) && recCohortCode r != 3 &&
  decide (recNtiles r ≤ 32) && recDone r % 8 == 0 && (List.range 4).all (fun i => recGate r i % 8 == 0)

/-- Declarations within R93 and R99, with distinct handles, of at most 512 granules. -/
def Launch.declsOk (l : Launch) : Bool :=
  l.decls.all declOk && decide ((l.decls.map declHandle).eraseDups.length = l.decls.length) &&
  decide ((l.tiles.map Tile.granules).sum ≤ Config.coreGranules)

/-- Bytes of an extension. -/
def extBytes (r : BitVec 1024) : Nat := 12 * (recNtiles r - 4)

/-- The Tether window holds the extension, done or a gate (18 R360). -/
def State.recTether (s : State) (r : BitVec 1024) : Bool :=
  (decide (4 < recNtiles r) && (s.inTether (recXdecl r) || s.inTether (recXdecl r + extBytes r - 1))) ||
  (recDone r != 0 && s.inTether (recDone r)) || (List.range 4).any (fun i => recGate r i != 0 && s.inTether (recGate r i))

/-- Some core could hold one crew alone, and some gang has as many slots as the cohort. -/
def State.shapeFits (s : State) (l : Launch) : Bool :=
  let r := l.record
  decide (recTeams r * recLanes r * recRegs r ≤ Config.coreRegs) && decide (0 < s.devCores) &&
  (List.range (3 * s.regions)).any (fun g => decide (recCohort r ≤ s.gangSlots g))

/-- Accepted launches that have not completed. -/
def State.openLaunches (s : State) : Nat := (s.launches.filter (fun l => l.state != .completed)).length

/-- The extension read, and the first refusal of R281 that applies to a record that has been read, apart from the limit on
open launches. `priv` says whether the source is privileged, `aligned` whether the record's own address is aligned. -/
def State.checkRecord (s : State) (r : BitVec 1024) (priv aligned : Bool) : State × List (BitVec 96) × Nat :=
  if s.recTether r || (decide (4 < recNtiles r) && recField r 127 0 8 != 0) then (s, [], stTranslation)
  else
    let n := recNtiles r - 4
    let (s1, x) := if recXdecl r % 16 = 0 then s.readExt (recXdecl r) (3 * n) else s.readExt (recXdecl r / 4 * 4) (3 * n)
    match x with
    | none => (s1, [], stTranslation)
    | some b =>
      let ext := declsOf b n
      let l : Launch := { id := 0#32, record := r, ext := ext, epri := recPriority r }
      if !aligned || !recZerosOk r || !recLimitsOk r || recXdecl r % 16 != 0 || !l.declsOk then (s1, ext, stBounds)
      else if recPriv r && !priv then (s1, ext, stAborted)
      else if !s1.shapeFits l then (s1, ext, stCapacity)
      else (s1, ext, stOk)

/-- The launch that an accepted record makes, with the next launch.id. -/
def State.acceptRecord (s : State) (r : BitVec 1024) (ext : List (BitVec 96)) : State :=
  { s with launches := s.launches ++ [{ id := s.nextId, record := r, ext := ext, epri := recPriority r, ranges := [(0, recCrews r)] }]
           nextId := s.nextId + 1#32 }

/-- A stamp, written now or once Comet no longer holds it back. -/
def State.oweStamp (s : State) (o : OwedStamp) : State := (s.stampWrite o.die o.va o.value).getD { s with owed := s.owed ++ [o] }

/-- The stamp that was held back is tried again. -/
def State.payStamp (s : State) (k : Nat) : State :=
  match s.owed[k]? with
  | none => s
  | some o => match s.stampWrite o.die o.va o.value with
    | none => s
    | some s1 => { s1 with owed := s1.owed.eraseIdx k }

/-- The stamp of a refused record that names done. -/
def State.refuseStamp (s : State) (die : Nat) (r : BitVec 1024) (code : Nat) : State :=
  if recDone r = 0 ∨ recDone r % 8 ≠ 0 then s else s.oweStamp ⟨die, recDone r, code * 2 ^ 48 + 2 ^ 32⟩

/-! ### LAUNCH (08 R184) -/

/-- `n` bytes from a virtual address, each translated: none where one is not. -/
def State.readVirtual (s : State) (core va : Nat) : Nat → State × Option (List Byte)
  | 0 => (s, some [])
  | n + 1 =>
    match s.translate (some core) (coreDie core) va false with
    | (s1, .ok pa _) =>
      let (s2, b) := s1.devRead pa 1
      (match s2.readVirtual core (va + 1) n with
       | (s3, some l) => (s3, some (b ++ l))
       | (s3, none) => (s3, none))
    | (s1, _) => (s1, none)

/-- The record at a virtual address, if its address translates: an aligned one lies in one page; a misaligned one is read, byte by
byte, for the refusals that rank before its misalignment and for the stamp that it names. -/
def State.readRecord (s : State) (core va : Nat) : State × Option (BitVec 1024) :=
  if va % 128 = 0 then
    match s.translate (some core) (coreDie core) va false with
    | (s1, .ok pa _) => let (s2, b) := s1.devRead pa 128; (s2, some (BitVec.ofNat 1024 (bytesNat b)))
    | (s1, _) => (s1, none)
  else match s.readVirtual core va 128 with
    | (s1, some b) => (s1, some (BitVec.ofNat 1024 (bytesNat b)))
    | (s1, none) => (s1, none)

def execLaunch (d a : SReg) (s : State) : Out :=
  withTeam s fun r c t =>
    let va := (t.sreg a).toNat
    if !t.relDone then s
    else
      let fin (s : State) (code : Nat) : State := s.modTeam r (fun t => t.status d code 4)
      match s.readRecord c.core va with
      | (s1, none) => fin s1 stTranslation
      | (s1, some rec) =>
        let (s2, ext, code) := s1.checkRecord rec t.priv (va % 128 == 0)
        let code := if code = stOk ∧ 4096 ≤ s2.openLaunches then stTimeout else code
        if code = stOk then fin (s2.acceptRecord rec ext) stOk else fin (s2.refuseStamp (coreDie c.core) rec code) code

/-! ### The host queues (13 R281; 14 R302) -/

/-- The record at the head of a launch queue. -/
def State.headRecord (s : State) (q : Ring) : State × BitVec 1024 :=
  let (s1, b) := s.devRead (q.base + 128 * (q.cons.toNat % 2 ^ q.k)) 128
  (s1, BitVec.ofNat 1024 (bytesNat b))

/-- The queue has a record that can be taken now: a record that would be the 4,097th open launch waits. -/
def State.queueReady (s : State) (k : Nat) : Bool :=
  match s.lqs[k]? with
  | none => false
  | some q =>
    q.en && !q.err && q.prod != q.cons &&
    (decide (s.openLaunches < 4096) || (let (s1, r) := s.headRecord q; (s1.checkRecord r q.priv true).2.2 != stOk))

/-- The queue whose turn it is: the first ready one from `turn` on, round-robin. -/
def State.queueTurn (s : State) : Option Nat :=
  ((List.range 64).map (fun i => (s.turn + i) % 64)).find? s.queueReady

def execLaunchAccept (q : Nat) (s : State) : Out :=
  .next (if !s.active || s.platform.stage != 0xFF#8 || s.queueTurn != some q then s
    else match s.lqs[q]? with
    | none => s
    | some ring =>
      let (s1, r) := s.headRecord ring
      let (s2, ext, code) := s1.checkRecord r ring.priv true
      let s3 := if code = stOk then s2.acceptRecord r ext else s2.refuseStamp 0 r code
      { s3 with lqs := s3.lqs.set q { ring with cons := ring.cons + 1#16 }, turn := (q + 1) % 64 })

/-! ### Dependence gates (13 R282) -/

/-- A gate word as the device reads it at its home slice; none while its address does not translate. The device reads from die 0 (notes/assumptions/78.md). -/
def State.gateWord (s : State) (va : Nat) : State × Option Nat :=
  match s.translate none 0 va false with
  | (s1, .ok pa _) => (s1, some (s1.physRead pa 8))
  | (s1, _) => (s1, none)

/-- The words of the named gates, in order; none where one is not satisfied. -/
def State.gateWords (s : State) : List Nat → State × Option (List Nat)
  | [] => (s, some [])
  | g :: rest =>
    match s.gateWord g with
    | (s1, none) => (s1, none)
    | (s1, some w) =>
      if w / 2 ^ 32 % 2 ^ 16 = 0 then (s1, none)
      else match s1.gateWords rest with
        | (s2, none) => (s2, none)
        | (s2, some ws) => (s2, some (w :: ws))

def recGates (r : BitVec 1024) : List Nat := ((List.range 4).map (recGate r)).filter (fun g => g != 0)

def State.putLaunch (s : State) (l : Launch) : State := { s with launches := s.launches.map (fun x => if x.id == l.id then l else x) }

/-- A launch that is cancelled or abandoned before it is eligible: no crew is placed and its stamp carries ABORTED. -/
def State.cancelLaunch (s : State) (l : Launch) : State :=
  (s.putLaunch { l with state := .eligible, ranges := [], aborted := true }).completeLaunch l.id

def execDependenceGatesResolved (launch : Nat) (s : State) : Out :=
  .next (match s.launches[launch]? with
    | none => s
    | some l =>
      if !s.active || l.state != .waiting then s
      else match s.gateWords (recGates l.record) with
        | (s1, none) => s1
        | (s1, some ws) =>
          if ws.all (fun w => w / 2 ^ 48 % 2 ^ 16 == stOk) then s1.putLaunch { l with state := .eligible }
          else s1.cancelLaunch l)

end Sys2Proof.Machine
end

