-- ==== Sys2Proof/Machine/Place.lean ====
section
/-! DEFINITION. Region distributors and residency: placing a cohort, evicting it, saving a faulted crew, aging and stealing
(02_work_hierarchy R29 to R31, R35, R42; 13_scheduling R285 to R287, R291 to R293; 17_fault_model R345, R346;
20_infield_test R384, R400). -/

namespace Sys2Proof.Machine

/-! ### What fits where (02 R29, R31) -/

/-- What one crew needs of a core: teams, registers, granules. -/
structure Need where
  crew : Nat
  teams : Nat
  regs : Nat
  grans : Nat
  deriving DecidableEq, Repr

/-- Registers per lane with which a team is placed: the requested allocation of one that was evicted in RGROW. -/
def Team.placeRegs (t : Team) : Nat := match t.growWant with | none => t.regs | some (_, n) => max t.regs n

/-- What a crew that has been resident needs. -/
def Crew.need (c : Crew) : Need :=
  ⟨c.crewId.toNat, c.teams.length, (c.teams.map (fun t => t.lanes * (if c.growEvicted then t.placeRegs else t.regs))).sum, c.granules⟩

/-- What crew `i` of a launch needs at its start. -/
def Launch.need (l : Launch) (i : Nat) : Need :=
  ⟨i, recTeams l.record, recTeams l.record * recLanes l.record * recRegs l.record, (l.tiles.map Tile.granules).sum⟩

/-- Crew indices of a cohort. -/
def Launch.members (l : Launch) (k : Nat) : List Nat :=
  let z := recCohort l.record
  ((List.range z).map (fun i => k * z + i)).filter (fun i => decide (i < recCrews l.record))

/-- Whether a never-started range holds a crew. -/
def Launch.unstarted (l : Launch) (i : Nat) : Bool := l.ranges.any (fun p => decide (p.1 ≤ i ∧ i < p.1 + p.2))

/-- A core takes new placements. -/
def State.coreOpen (s : State) (core : Nat) : Bool := s.coreExists core && !s.closedCores.contains core

/-- Whether a cohort of size z with these needs fits at slot `slot` of gang `g`: crew i takes slot `slot` + i mod z. -/
def State.fitsAt (s : State) (z : Nat) (needs : List Need) (g slot : Nat) : Bool :=
  slot % z == 0 && decide (slot + z ≤ 4) && decide (g < 3 * s.regions) && decide (z ≤ s.gangSlots g) &&
  needs.all (fun n => let core := 4 * g + slot + n.crew % z; s.coreOpen core && s.fits core n.teams n.regs n.grans)

/-- Whether it fits somewhere in a region. -/
def State.fitsRegion (s : State) (z : Nat) (needs : List Need) (region : Nat) : Bool :=
  (List.range 3).any (fun i => (List.range 4).any (fun slot => s.fitsAt z needs (3 * region + i) slot))

/-! ### The backlog of a region in order (13 R286) -/

/-- A cohort that waits to be placed: its launch by position, its index, whether it is an evicted one, by which crew, its effective
priority; whether it comes first among that priority, and whether a higher priority holds it back. -/
structure Waiting where
  launch : Nat
  cohort : Nat
  evicted : Option Nat
  epri : Nat
  first : Bool := false
  free : Bool := false
  deriving DecidableEq, Repr

/-- Needs of a waiting cohort. -/
def State.needsOf (s : State) (w : Waiting) : List Need :=
  match w.evicted with
  | some k => (match s.crewAt k with
    | none => []
    | some c => (s.liveCohort c).filterMap (fun j => (s.crewAt j).map Crew.need))
  | none => match s.launches[w.launch]? with
    | none => []
    | some l => ((l.members w.cohort).filter l.unstarted).map l.need

def State.cohortZ (s : State) (w : Waiting) : Nat := match s.launches[w.launch]? with | none => 1 | some l => recCohort l.record

/-- The last cohort of a launch, which may be smaller than the others, where a region's backlog holds it unstarted. -/
def State.lastCohort (s : State) (l : Launch) (region : Nat) : Option Nat :=
  let k := (recCrews l.record - 1) / recCohort l.record
  if l.unstarted (recCrews l.record - 1) && s.distributorOf l k == region then some k else none

/-- The evicted cohorts of the launch at position `lp` in a region's backlog. -/
def State.evictedAt (s : State) (region : Nat) (l : Launch) (lp : Nat) : List Waiting :=
  (s.evictedIn l region).filterMap (fun k => (s.crewAt k).map (fun c =>
    Waiting.mk lp (s.cohortOf c) (some k) l.epri (s.cohortFirst (s.liveCohort c)) (s.cohortReady (s.liveCohort c))))

/-- A cohort put among others in ascending order of index. -/
def Waiting.insert (w : Waiting) : List Waiting → List Waiting
  | [] => [w]
  | x :: rest => if w.cohort < x.cohort then w :: x :: rest else x :: w.insert rest

/-- The waiting cohorts of one effective priority in a region's backlog, in order: the evicted ones that come first; then, launch by
launch, the other evicted ones and those not started, in ascending index. Of the unstarted cohorts of a launch, all but the last need the
same, so the first and the last stand for all of them. -/
def State.waitingAt (s : State) (region p : Nat) : List Waiting :=
  let ls := s.launches.zipIdx.filter (fun q => q.1.state == .eligible && q.1.epri == p)
  let saved (q : Launch × Nat) : List Waiting := s.evictedAt region q.1 q.2
  ls.flatMap (fun q => (saved q).filter (·.first)) ++
  ls.flatMap (fun q => ((saved q).filter (fun w => !w.first)).foldr Waiting.insert
    (((s.firstCohort q.1 region).toList ++ (s.lastCohort q.1 region).toList).eraseDups.map (fun k => { launch := q.2, cohort := k, evicted := none, epri := p })))

/-- A region's backlog, highest effective priority first. -/
def State.waiting (s : State) (region : Nat) : List Waiting := (List.range 8).flatMap (fun i => s.waitingAt region (7 - i))

/-- Whether the distributor may place `w` now: of those before it in the order, none that it may place fits; among evicted cohorts that
come first in one priority the manual gives no order. `top` is the highest effective priority met so far; below it only the exceptions of
R286 are placed. -/
def State.mayPlace (s : State) (region : Nat) (w : Waiting) : Option Nat → List Waiting → Bool
  | _, [] => false
  | top, x :: rest =>
    let free := x.free || (match top with | none => true | some p => decide (p ≤ x.epri))
    if x = w then free
    else if free && s.fitsRegion (s.cohortZ x) (s.needsOf x) region && !(x.first && w.first && x.epri == w.epri) then false
    else s.mayPlace region w (some (match top with | none => x.epri | some p => max p x.epri)) rest

/-! ### Becoming resident (02 R35, 06 R124, 20 R400) -/

/-- Team `i` of a crew at its start. -/
def Launch.newTeam (l : Launch) (i : Nat) : Team :=
  { id := i, lanes := recLanes l.record, regs := recRegs l.record, priv := recPriv l.record, pc := BitVec.ofNat 64 (recSentry l.record)
    masks := cellSet [] 0 (laneMask (recLanes l.record)) }

/-- Crew `i` of a launch at its start on a core. -/
def Launch.newCrew (l : Launch) (i core born : Nat) : Crew :=
  { launchId := l.id, crewId := BitVec.ofNat 32 i, place := some core, born := born, lastRegion := coreRegion core
    teams := (List.range (recTeams l.record)).map l.newTeam, tiles := l.tiles, nextUid := recNtiles l.record + 1 }

/-- A crew range without crew i. -/
def cutRange (i : Nat) (p : Nat × Nat) : List (Nat × Nat) :=
  if p.1 ≤ i ∧ i < p.1 + p.2 then ([(p.1, i - p.1), (i + 1, p.1 + p.2 - i - 1)]).filter (fun q => q.2 != 0) else [p]

/-- A team placed again: a FAULTED one resumes at trap.pc, its lane stream with the lanes of the lane fault mask (17 R345); a growth
that it waits for there is then granted (13 R291). -/
def Team.resumed (t : Team) (grow : Bool) : Team :=
  let t0 := { t with lwaits := t.lwaits.map (fun (w : LaneWait) => { w with age := 0 }) }
  let t1 := if t.faulted then { t0 with faulted := false, pc := t.trapPc.setWidth 64 } else t0
  match (if grow then t1.swait else none) with
  | none => t1
  | some w => match w.instr with
    | .rgrow d a _ => { ({ t1 with regs := (t1.sreg a).toNat }.status d stOk 4) with swait := none }
    | _ => t1

/-- A crew that leaves the saved state for a core. -/
def Crew.resumedOn (c : Crew) (core : Nat) : Crew :=
  { c with place := some core, lastRegion := coreRegion core, teams := c.teams.map (fun t => t.resumed c.growEvicted), growEvicted := false
           heldFaulted := false, placeable := false, poolZ := none, waited := 0 }

/-- What follows the arrival of crew `k` on a core: the L1 is invalidated, the crew's matrix commands wait there, and it is
mirrored where the footprints allow it. -/
def State.arrived (s : State) (k core : Nat) : State :=
  let s1 := { ((s.count (coreDie core) 12 1).l1Invalidate core) with matrix := s.matrix.map (fun (m : MCmd) => if m.team.crew = k then { m with core := core } else m) }
  (s1.modCrew k (fun c => { c with mirrored := decide (s1.coreRegsUsed core ≤ 65536) })).dropMirrors core 16

/-- Core of crew index `i` of a cohort of size z at slot `slot` of gang g. -/
def cohortCore (z g slot i : Nat) : Nat := 4 * g + slot + i % z

/-- Unstarted crew `i` of the launch at position `lp` starts. -/
def State.startCrew (s : State) (lp g slot : Nat) (i : Nat) : State :=
  match s.launches[lp]? with
  | none => s
  | some l =>
    let core := cohortCore (recCohort l.record) g slot i
    let s1 := { s with crews := s.crews ++ [l.newCrew i core s.nextBorn]
                       launches := s.launches.set lp { l with ranges := l.ranges.flatMap (cutRange i) } }
    s1.arrived s.crews.length core

/-- The placement of a waiting cohort at a slot of a gang; the launch's priority returns to its record's. -/
def State.placeCohort (s : State) (w : Waiting) (g slot : Nat) : State :=
  match s.launches[w.launch]? with
  | none => s
  | some l =>
    let z := recCohort l.record
    let s0 := { s with launches := s.launches.set w.launch { l with epri := recPriority l.record, aging := [], stolen := l.stolen.filter (fun p => p.1 != w.cohort) } }
    match w.evicted with
    | none => { ((l.members w.cohort).filter l.unstarted).foldl (fun s i => s.startCrew w.launch g slot i) s0 with nextBorn := s.nextBorn + 1 }
    | some k => match s.crewAt k with
      | none => s
      | some c => (s.liveCohort c).foldl (fun s j => match s.crewAt j with
        | none => s
        | some d =>
          let core := cohortCore z g slot d.crewId.toNat
          ((s.putCrew j (d.resumedOn core)).arrived j core).rearmSlots j) s0

def execCrewPlace (launch cohort gang slot : Nat) (s : State) : Out :=
  .next (
    let region := gang / 3
    let l := s.waiting region
    match l.find? (fun w => w.launch == launch && w.cohort == cohort) with
    | none => s
    | some w =>
      if s.active && s.mayPlace region w none l && s.fitsAt (s.cohortZ w) (s.needsOf w) gang slot then s.placeCohort w gang slot else s)

/-! ### Leaving a core (02 R42, 06 R133, 13 R293) -/

/-- The state of R133 and R247: loads completed, store counters zero, appends performed, no Tether answer awaited, every matrix
command completed (notes/assumptions/62.md). -/
def State.drained (s : State) (k : Nat) : Bool :=
  (match s.crewAt k with
   | none => true
   | some c => c.teams.all (fun t => t.pending.isEmpty && t.sctr == 0#16 && t.lctr == 0#16)) &&
  s.wlItems.all (fun w => w.team.crew != k) && s.treqs.all (fun q => q.team.crew != k) &&
  s.matrix.all (fun m => m.team.crew != k)

/-- The lane stream stands where R298 and R363 let it be stopped: at no clause in progress, in a waiting instruction, or
where only the scalar stream could let it go on. -/
def State.laneAtStop (s : State) (c : Crew) (t : Team) : Bool :=
  t.faulted || (match t.queue with | [] => true | cl :: _ => !cl.started) || t.laneWaits || s.laneStalled c t

/-- A crew leaves its core: its accumulator tiles, its offers and its place are given up. -/
def State.leaveCore (s : State) (k : Nat) : State :=
  match s.crewAt k with
  | none => s
  | some c => match c.place with
    | none => s
    | some core =>
      let mine := s.matrix.filter (fun m => m.team.crew == k)
      let s1 := { (s.count (coreDie core) 13 1) with
        accHold := s.accHold.filter (fun p => p.2.crew != k)
        offers := s.offers.filter (fun o => mine.all (fun m => !s.sentBy m o))
        matrix := s.matrix.map (fun (m : MCmd) => if m.team.crew = k then { m with phase := .idle } else m) }
      (s1.putCrew k { c with place := none, lastRegion := coreRegion core, mirrored := false, waited := 0
                             growEvicted := c.teams.any (fun t => t.growWant.isSome), teams := c.teams.map Team.landVotes }).grantRgrow core 16

/-- Event 0x0A for each FAULTED team of a crew. -/
def State.faultEvents (s : State) (c : Crew) : State :=
  c.teams.foldl (fun s t => if t.faulted then
      s.raise 0x0A (t.trapCause.toNat % 65536) c.launchId.toNat t.trapPc.toNat (c.crewId.toNat + 2 ^ 32 * t.id)
    else s) s

/-- A crew leaves its core; with a FAULTED team it is held until the driver acts on the cause (17 R345, R346). -/
def State.leaveOrHold (s : State) (k : Nat) : State :=
  match s.crewAt k with
  | none => s
  | some c =>
    if c.teams.any (·.faulted) then
      let s1 := (s.leaveCore k).modCrew k (fun c => { c with heldFaulted := true })
      if c.poolZ.isSome then s1 else s1.faultEvents c
    else s.leaveCore k

/-- The crew's cohort leaves together. -/
def State.leaveCohort (s : State) (c : Crew) : State := (s.liveCohort c).foldl (fun s j => s.leaveOrHold j) s

/-- Whether R42 lets the scheduler take the crew's cohort off its cores. -/
def State.mayChoose (s : State) (k : Nat) : Bool :=
  match s.crewAt k with
  | none => false
  | some c =>
    c.place.isSome && c.state == .live && s.evictable c &&
    (s.liveCohort c).all (fun j => match s.crewAt j with | none => true | some d => !d.inNopre)
/-- Whether the cohort stands in the state of R133, to which its eviction first brings it (13 R293). -/
def State.cohortDrained (s : State) (k : Nat) : Bool :=
  match s.crewAt k with
  | none => true
  | some c => (s.liveCohort c).all (fun j => s.drained j)
/-- Whether the cohort may leave now. -/
def State.mayEvict (s : State) (k : Nat) : Bool := s.mayChoose k && s.cohortDrained k

/-- The chosen crew's cohort leaves its cores; while it is not in the state of R133, its accesses complete first. -/
def State.evictChosen (s : State) (k : Nat) : State :=
  if !s.cohortDrained k then s else match s.crewAt k with | none => s | some c => s.leaveCohort c

/-- Eviction for a test lease on the core (13 R292, R296). -/
def execCrewEvict (crew : Nat) (s : State) : Out :=
  .next (match s.crewAt crew with
    | none => s
    | some c => match c.place with
      | none => s
      | some core => if s.active && s.closedCores.contains core && s.mayEvict crew then s.evictChosen crew else s)

/-- With every team of the core BLOCKED, FAULTED or FINISHED and one waiting in RGROW, the youngest crew that R42 allows
is chosen and leaves, and the waiting requests are tested again (13 R291, R293). -/
def execRgrowDeadlockEvict (core : Nat) (s : State) : Out :=
  .next (
    let cs := s.residents core
    let stuck := cs.all (fun k => match s.crewAt k with | none => true | some c => c.teams.all (fun t => s.blocked c t || t.faulted || t.finished))
    let wants := cs.any (fun k => match s.crewAt k with | none => false | some c => c.teams.any (fun t => s.blocked c t && t.growWant.isSome))
    if s.active && stuck && wants then
      match s.youngest (cs.filter s.mayChoose) with
      | none => s
      | some k => s.evictChosen k
    else s)

/-! ### A faulted crew (17 R345, R346) -/

def execCrewFaultSave (crew : Nat) (s : State) : Out :=
  .next (match s.crewAt crew with
    | none => s
    | some c =>
      let ks := s.liveCohort c
      let all (f : Nat → Crew → Bool) : Bool := ks.all (fun j => match s.crewAt j with | none => true | some d => f j d)
      if s.active && c.place.isSome && c.state == .live && c.teams.any (·.faulted) && all (fun j d => s.drained j && d.teams.all (fun t => s.laneAtStop d t))
      then ks.foldl (fun s j => s.leaveOrHold j) s else s)

/-! ### Aging, making room, stealing (13 R286, R287, R292) -/

/-- A launch's effective priority rises with every 2^18 slice-island cycles of a region without a placement. -/
def execPriorityAging (launch region : Nat) (s : State) : Out :=
  .next (match s.launches[launch]? with
    | none => s
    | some l =>
      let p := min 7 (recPriority l.record + (cellGet l.aging region).toNat / 2 ^ 18)
      if s.active && s.inBacklog l region && decide (l.epri < p) then { s with launches := s.launches.set launch { l with epri := p } } else s)

/-- Effective priority of a crew. -/
def State.crewPri (s : State) (c : Crew) : Nat := match s.launchOf c with | none => 0 | some l => l.epri

/-- Every team BLOCKED for at least 2^16 core cycles. -/
def State.longBlocked (s : State) (c : Crew) : Bool := c.teams.all (fun t => s.blocked c t && decide (2 ^ 16 ≤ t.blockedFor))

/-- Of some crews, those of the least effective priority. -/
def State.lowest (s : State) (ks : List Nat) : List Nat :=
  let pri (k : Nat) : Nat := match s.crewAt k with | none => 0 | some c => s.crewPri c
  ks.filter (fun k => ks.all (fun j => decide (pri k ≤ pri j)))

/-- The crews of a region that may make room for a waiting cohort of effective priority `p`. -/
def State.victims (s : State) (region p : Nat) : List Nat :=
  (s.crews.zipIdx.filter (fun q => (match q.1.place with | none => false | some core => coreRegion core == region) &&
    decide (s.crewPri q.1 < p) && s.longBlocked q.1 && s.mayChoose q.2)).map (·.2)

/-- A cohort that fits no core of its region takes the place of the lowest crew there: a crew with a guard only when no
other qualifies, the youngest of equals. -/
def execPriorityEvict (region : Nat) (s : State) : Out :=
  .next (
    let ps := ((s.waiting region).filter (fun w => !s.fitsRegion (s.cohortZ w) (s.needsOf w) region)).map (·.epri)
    match ps.foldl (fun o p => some (match o with | none => p | some q => max p q)) (none : Option Nat) with
    | none => s
    | some p =>
      let vs := s.victims region p
      let free := vs.filter (fun k => match s.crewAt k with | none => false | some c => !c.inGuard)
      match s.youngest (s.lowest (if free.isEmpty then vs else free)) with
      | none => s
      | some k => if s.active then s.evictChosen k else s)

/-- Unstarted crews of a launch in a region's backlog, counted. -/
def State.unstartedIn (s : State) (l : Launch) (region : Nat) : Nat :=
  let z := recCohort l.record
  (l.ranges.map (fun p =>
    let a := p.1 / z
    let n := (p.2 + z - 1) / z
    let inside := l.stolen.filter (fun q => decide (a ≤ q.1 ∧ q.1 < a + n))
    let dealt := if recHinted l.record && decide (recHint l.record < s.regions) then (if recHint l.record = region then n else 0)
      else (a + n + s.regions - 1 - region) / s.regions - (a + s.regions - 1 - region) / s.regions
    let cohorts := dealt + (inside.filter (fun q => q.2 == region)).length - (inside.filter (fun q => s.dealtTo l q.1 == region)).length
    let short := if decide ((p.1 + p.2) % z ≠ 0) && s.distributorOf l ((p.1 + p.2) / z) == region then z - (p.1 + p.2) % z else 0
    cohorts * z - short)).sum

/-- The length of a region's backlog, in crews. -/
def State.backlogLength (s : State) (region : Nat) : Nat :=
  (s.launches.map (fun l => if l.state == .eligible then
      s.unstartedIn l region + ((s.evictedIn l region).map (fun k => match s.crewAt k with | none => 0 | some c => (s.liveCohort c).length)).sum
    else 0)).sum

/-- A distributor with a free team slot and no cohort of its own that fits. -/
def State.regionIdle (s : State) (region : Nat) : Bool :=
  (s.waiting region).all (fun w => !s.fitsRegion (s.cohortZ w) (s.needsOf w) region) &&
  (List.range 12).any (fun i => s.coreOpen (12 * region + i) && decide (s.coreTeams (12 * region + i) < 16))

/-- A hinted cohort is passed over until it has waited 2^16 slice-island cycles in the backlog. -/
def State.stealable (s : State) (victim : Nat) (w : Waiting) : Bool :=
  match s.launches[w.launch]? with
  | none => false
  | some l =>
    !(recHinted l.record && decide (recHint l.record < s.regions)) ||
    (match w.evicted with
     | none => decide (2 ^ 16 ≤ (cellGet l.waited victim).toNat)
     | some k => match s.crewAt k with | none => false | some c => decide (2 ^ 16 ≤ c.waited))

def execCohortSteal (region : Nat) (s : State) : Out :=
  .next (
    let rs := (List.range s.regions).filter (fun r => r != region)
    let most := rs.foldl (fun m r => max m (s.backlogLength r)) 0
    match rs.find? (fun r => decide (s.backlogLength r = most) && decide (0 < most)) with
    | none => s
    | some v =>
      match (s.waiting v).find? (fun w => s.stealable v w && s.fitsRegion (s.cohortZ w) (s.needsOf w) region) with
      | none => s
      | some w => match s.launches[w.launch]? with
        | none => s
        | some l =>
          if s.active && decide (region < s.regions) && s.regionIdle region then
            { s with launches := s.launches.set w.launch { l with stolen := upsert (fun p => p.1 == w.cohort) (w.cohort, region) l.stolen } }
          else s)

end Sys2Proof.Machine
end

