-- ==== Sys2Proof/Machine/Lease.lean ====
section
/-! DEFINITION. Test leases, capacity changes, suspicion scores, retirement, and the GUARD and NOPRE regions that defer a lease
(13_scheduling R294 to R298; 20_infield_test R380 to R400; 08_scalar_isa R182; 11_matrix R250). -/

namespace Sys2Proof.Machine

/-! ### Units (20 R380 to R383) -/

/-- Marks a spare core, or the idle channel, in `LeasedUnit.slot`. -/
def spareSlot : DevUnit → Nat
  | .core g _ => 4 * g + 4
  | .channel _ _ => 32
  | _ => 0

/-- A unit that no lease or score has touched since boot: four cores of a gang and 32 channels of a stack are in service. -/
def defaultUnit (u : DevUnit) : LeasedUnit :=
  match u with
  | .core g p => { u := u, state := if p = 4 then 6 else 0, slot := if p = 4 then spareSlot u else 4 * g + p }
  | .channel _ c => { u := u, state := if c = 32 then 6 else 0, slot := c }
  | _ => { u := u, state := 0 }

def State.unit (s : State) (u : DevUnit) : LeasedUnit := (s.units.find? (fun x => x.u == u)).getD (defaultUnit u)
def State.putUnit (s : State) (x : LeasedUnit) : State := { s with units := upsert (fun y => y.u == x.u) x s.units }
def LeasedUnit.isSpare (x : LeasedUnit) : Bool := match x.u with | .core _ _ | .channel _ _ => x.slot == spareSlot x.u | _ => false

/-- The units of a unit's group: at most one is under lease. -/
def groupUnits : DevUnit → List DevUnit
  | .core g _ => (List.range 5).map (DevUnit.core g)
  | .channel r _ => (List.range 33).map (DevUnit.channel r)
  | .port p => (List.range 6).map (fun i => DevUnit.port (p / 6 * 6 + i))
  | .scm _ => []
  | .slice _ => []

/-- A unit that exists and takes leases. -/
def State.leasable (s : State) : DevUnit → Bool
  | .core g p => decide (g < 3 * s.regions) && decide (p < 5) && !s.vacantGangs.contains g
  | .channel r c => decide (r < 16) && decide (c < 33)
  | .port p => decide (p < 24)
  | _ => false

/-- Whether another unit of the group is under lease: DEFERRED to RETURNING. -/
def State.groupBusy (s : State) (u : DevUnit) : Bool :=
  (groupUnits u).any (fun v => v != u && (let x := (s.unit v).state; decide (2 ≤ x ∧ x ≤ 5)))

/-- The spare core or the idle channel of a unit's group. -/
def State.spareOf (s : State) (u : DevUnit) : Option DevUnit :=
  match u with
  | .core _ _ | .channel _ _ => (groupUnits u).find? (fun v => v != u && (s.unit v).state == 6)
  | _ => none

/-- Of the units DUE in a group, the one whose turn it is: the oldest early lease, else the oldest. -/
def State.leaseTurn (s : State) (u : DevUnit) : Bool :=
  let x := s.unit u
  (groupUnits u).all (fun v =>
    let y := s.unit v
    v == u || y.state != 1 || (x.early && (!y.early || decide (x.due ≤ y.due))) || (!x.early && !y.early && decide (x.due ≤ y.due)))

/-! ### Capacity changes (13 R294) -/

/-- cap.gen rises, the notifications become due, and event 0x05 is raised. -/
def State.capacityChange (s : State) : State :=
  let s1 := { s with capGen := s.capGen + 1#32
                     crews := s.crews.map (fun (c : Crew) => if c.state == CrewState.live && c.capNote.getLsbD 8 then { c with capPending := true } else c) }
  s1.raise 5 0 0 0 s1.capGen.toNat

/-! ### Rotation (20 R380) -/

/-- Management cycles between two slots of a unit's group. -/
def rotationEvery : DevUnit → Nat
  | .core _ _ => 2 ^ 35
  | .channel _ _ => 2 ^ 32
  | _ => 2 ^ 34

/-- Number of a unit's group, for its offset: gangs, then stacks, then the dies' ports. -/
def groupNumber : DevUnit → Nat
  | .core g _ => g
  | .channel r _ => 48 + r
  | .port p => 64 + p / 6
  | .scm _ | .slice _ => 0

/-- The first unit of a unit's group, which names the group. -/
def groupHead (u : DevUnit) : DevUnit := (groupUnits u).headD u

/-- The slots of a unit's group that have arrived since boot, and how many of them have been used. -/
def State.slotsArrived (s : State) (u : DevUnit) : Nat := (s.mgmt + Config.rotationOffset (groupNumber u) % rotationEvery u) / rotationEvery u
def State.slotsTaken (s : State) (u : DevUnit) : Nat := ((s.slotsUsed.find? (fun p => p.1 == groupHead u)).map (·.2)).getD 0

/-- The next slot of the group has arrived and is the unit's: units take the slots in ascending physical order. -/
def State.slotIsDue (s : State) (u : DevUnit) : Bool :=
  decide (s.slotsTaken u < s.slotsArrived u) && (groupUnits u)[s.slotsTaken u % (groupUnits u).length]? == some u

/-- The slot is used. -/
def State.useSlot (s : State) (u : DevUnit) : State :=
  { s with slotsUsed := upsert (fun p => p.1 == groupHead u) (groupHead u, s.slotsTaken u + 1) s.slotsUsed }

/-! ### Deferral and draining (13 R296, R297; 20 R383 to R386) -/

/-- R297 for a logical core. -/
def State.defers (s : State) (core : Nat) : Bool :=
  (s.residents core).any (fun k => match s.crewAt k with | none => false | some c => c.inNopre || c.inGuard)

/-- A lease enters DRAINING with a capacity change: a core takes no more crews, and its slot is vacant for the lease where no
spare can take it; a port goes down for its test. -/
def State.enterDraining (s : State) (x : LeasedUnit) : State :=
  let s1 := s.putUnit { x with state := 3, drained := 0, moved := [] }
  (match x.u with
   | .core _ _ => { s1 with closedCores := natInsert x.slot s1.closedCores
                            vacantCores := if (s.spareOf x.u).isSome then s1.vacantCores else natInsert x.slot s1.vacantCores }
   | .port p => s1.portDown p 5
   | _ => s1).capacityChange

/-- A lease that is DUE or DEFERRED moves on where it can: its group has no other lease, the package is not quiesced, a
channel has an idle one to move to; a core is DEFERRED while R297 holds. -/
def State.advanceLease (s : State) (u : DevUnit) : State :=
  let x := s.unit u
  let free := s.active && !s.groupBusy u && s.leaseTurn u && (match u with | .channel _ _ => (s.spareOf u).isSome | _ => true)
  if x.state = 1 ∧ free = true then
    (match u with
     | .core _ _ => if s.defers x.slot then s.putUnit { x with state := 2 } else s.enterDraining x
     | _ => s.enterDraining x)
  else if x.state = 2 ∧ s.active = true ∧ s.defers x.slot = false then s.enterDraining x
  else s

/-- Every lease that is DUE or DEFERRED is looked at again. -/
def State.advanceLeases (s : State) : State := (s.units.map (·.u)).foldl (fun s u => s.advanceLease u) s

/-- A unit becomes DUE, as an early lease or in its rotation slot. -/
def State.makeDue (s : State) (u : DevUnit) (early : Bool) : State :=
  { s.putUnit { s.unit u with state := 1, early := early, due := s.nextDue, deferred := 0 } with nextDue := s.nextDue + 1 }

/-- A spare or idle unit may go to its test: its group has no lease, and none that waits for one (R381, R383). -/
def State.mayTestSpare (s : State) (u : DevUnit) : Bool := s.active && !s.groupBusy u && (groupUnits u).all (fun v => (s.unit v).state != 1)

/-- Whether no channel of a stack can stand in for another. -/
def State.noIdle (s : State) (r : Nat) : Bool := (List.range 33).all (fun c => let x := (s.unit (.channel r c)).state; decide (x ≤ 1) || x == 7)

/-- A stack without an idle channel, which takes no further channel leases in rotation (R385). -/
def State.noChannelLease (s : State) (u : DevUnit) : Bool :=
  match u with
  | .channel r _ => s.noIdle r
  | _ => false

/-- The rotation slot of a unit, once it has arrived (R380). A spare or idle unit goes to its test at once, and its slot waits until it
can; the slot of a unit that takes no lease passes. A lease that is DUE or DEFERRED already goes on where it can. -/
def execLeaseDue (u : DevUnit) (s : State) : Out :=
  .next (
    let x := s.unit u
    if !s.slotIsDue u then s.advanceLease u
    else if !s.leasable u then s.useSlot u
    else if x.state = 0 then (if s.noChannelLease u then s.useSlot u else ((s.useSlot u).makeDue u false).advanceLease u)
    else if x.state = 6 then (if s.mayTestSpare u then (s.useSlot u).putUnit { x with state := 4, replaced := false } else s)
    else (s.useSlot u).advanceLease u)

/-- The cap.note word of a crew: written with cap.gen and set full, where the tile can take it. -/
def execCapacityNotify (crew : Nat) (s : State) : Out :=
  .next (match s.crewAt crew with
    | none => s
    | some c =>
      if !c.capPending || c.state != .live then s
      else
        let done (s : State) : State := s.modCrew crew (fun c => { c with capPending := false })
        if !c.capNote.getLsbD 8 then done s
        else match c.tile (c.capNote.extractLsb' 0 8) with
        | none => done s
        | some t =>
          if !t.tags || !(t.fmt == 2#4 || t.fmt == 6#4 || t.fmt == 3#4 || t.fmt == 7#4) then done s
          else
            let step := match c.teams with | [] => 0#32 | t :: _ => t.stepNow
            match s.tileWrite crew t.uid ⟨0, 0, 0, 0⟩ none s.capGen.toNat step true with
            | .error _ => s
            | .ok s1 => done s1)

def execNopreBudgetSpent (r : TeamRef) (s : State) : Out :=
  .next (match s.teamAt r with
    | none => s
    | some (_, t) =>
      if t.nopreDepth != 0#4 && !t.nopreSpent && decide (nopreBudget ≤ t.nopreUsed) then (s.putTeam r { t with nopreSpent := true }).advanceLeases
      else s)

/-! ### GUARD and NOPRE (08 R182; 18 R351) -/

/-- A depth that counts up to 15 and down to 0: at its limit the instruction traps OPERAND. -/
def depthOp (s : State) (get : Team → BitVec 4) (put : Team → BitVec 4 → Team) (up : Bool) : Out :=
  withTeam s fun r _ t =>
    let d := get t
    if d = (if up then 15#4 else 0#4) then s.scalarFault r causeOperand none
    else
      let s1 := s.putTeam r ((put t (if up then d + 1#4 else d - 1#4)).advance 4)
      if up then s1 else s1.advanceLeases

def execGuardBegin (s : State) : Out := depthOp s (·.guardDepth) (fun t d => { t with guardDepth := d }) true
def execGuardEnd (s : State) : Out := depthOp s (·.guardDepth) (fun t d => { t with guardDepth := d }) false
/-- The budget begins when the depth rises from 0. -/
def Team.setNopre (t : Team) (d : BitVec 4) : Team :=
  if t.nopreDepth = 0#4 ∨ d = 0#4 then { t with nopreDepth := d, nopreUsed := 0, nopreSpent := false } else { t with nopreDepth := d }
def execNopreBegin (s : State) : Out := depthOp s (·.nopreDepth) Team.setNopre true
def execNopreEnd (s : State) : Out := depthOp s (·.nopreDepth) Team.setNopre false

/-! ### Forced migration (13 R298) -/

/-- The crews that a lease still waits for once a count has reached 2^24 core cycles. -/
def State.inTheWay (s : State) (x : LeasedUnit) : List Nat :=
  if x.state = 2 ∧ 2 ^ 24 ≤ x.deferred then (s.residents x.slot).filter (fun k => match s.crewAt k with | none => false | some c => c.inNopre || c.inGuard)
  else if x.state = 3 ∧ 2 ^ 24 ≤ x.drained then s.residents x.slot
  else []

/-- Every crew of the cohort stands where it can be stopped and saved. -/
def State.cohortStopped (s : State) (ks : List Nat) : Bool :=
  ks.all (fun j => match s.crewAt j with | none => true | some d => s.drained j && d.teams.all (fun t => s.laneAtStop d t))

/-- The crews in the way are saved without the condition of R42, each with its cohort, as soon as they stand at an instruction
boundary; then the lease goes on. -/
def execForcedMigration (u : DevUnit) (s : State) : Out :=
  .next (match u with
    | .core _ _ =>
      if !s.active then s
      else ((s.inTheWay (s.unit u)).foldl (fun s k => match s.crewAt k with
        | none => s
        | some c => let ks := s.liveCohort c; if c.place.isSome && s.cohortStopped ks then ks.foldl (fun s j => s.leaveOrHold j) s else s) s).advanceLease u
    | _ => s)

/-! ### Test (20 R384 to R388) -/

/-- Lines of a channel. -/
def channelLines : Nat := 2 ^ 25

/-- A line of a draining channel moves to the idle channel; its device-physical address stays. -/
def execChannelLineMove (region ch line : Nat) (s : State) : Out :=
  .next (
    let x := s.unit (.channel region ch)
    if s.active && x.state == 3 && decide (line < channelLines) then s.putUnit { x with moved := natInsert line x.moved } else s)

/-! ### Suspicion scores (20 R389 to R391) -/

def scoreOf : ScoreEvent → Nat
  | .replay | .flitNak => 1
  | .correctedCore | .correctedSlice | .correctedChannel | .correctedScm => 8
  | .secondCorrected => 256
  | .fecUncorrectable => 16
  | .uncorrectable => 16384
  | .failedRun => 4096

/-- sat_n16 of a sum. -/
def satScore (a : BitVec 16) (n : Nat) : BitVec 16 := BitVec.ofNat 16 (min 65535 (a.toNat + n))

/-- A unit id (20 R396). -/
def unitId : DevUnit → Nat
  | .core g p => 0x1000 + (g / 12) * 2 ^ 10 + 5 * (g % 12) + p
  | .channel r c => 0x2000 + (r / 4) * 2 ^ 10 + 33 * (r % 4) + c
  | .port p => 0x3000 + (p / 6) * 2 ^ 10 + p % 6
  | .scm j => 0x4000 + (j / 2) * 2 ^ 10 + j % 2
  | .slice g => 0x5000 + (g / 12) * 2 ^ 10 + g % 12

/-- A retirement's record, and event 0x06. -/
def State.recordRetirement (s : State) (x : LeasedUnit) (reason action : Nat) (subst : Option DevUnit) (set : Nat) (got expect : BitVec 64) : State :=
  let rec_ : Retirement := { boot := s.nv.boots, mcyc := BitVec.ofNat 64 s.mgmt, u := x.u, reason := BitVec.ofNat 8 reason, action := BitVec.ofNat 8 action
                             score := x.score, subst := subst, capgen := s.capGen, set := BitVec.ofNat 16 set, got := got, expect := expect
                             nrep := BitVec.ofNat 64 x.nrep, ncorr := BitVec.ofNat 64 x.ncorr, nunc := BitVec.ofNat 64 x.nunc }
  ({ s with nv := { s.nv with records := s.nv.records ++ [rec_] } }).raise 6 0 0 s.nv.records.length (unitId x.u)

/-- No capture is in progress: the next one has not begun, so the launches waiting to join or to leave the set do so (21 R409). -/
def Comet.idle (k : Comet) : Comet :=
  { k with capture := none, ended := false, captured := [], preserved := [], image := [], written := false, prepared := none
           tracked := (k.tracked.filter (fun l => !k.leaving.contains l)) ++ k.joining.filter (fun l => !k.tracked.contains l)
           joining := [], leaving := [] }
/-- A Comet capture in progress is abandoned, with event 0x0B (21 R406): what has been reported and sent of the step is void. -/
def State.cometAbandon (s : State) (reason : Nat) : State :=
  match s.comet.capture with
  | none => s
  | some n =>
    ({ s with comet := { s.comet.idle with barred := some n, reports := s.comet.reports.filter (fun r => r.2 != n) }
              shards := s.shards.filter (fun x => x.step != n) }).raise
      0x0B 0 s.span.index.toNat 0 (n.toNat + 2 ^ 32 * reason)
def State.cometSuspend (s : State) : State := { s with comet := { s.comet with suspended := true } }

/-- An SCM stack retires at once: its lines are lost, and so are the accepted lines bound for it (20 R393; 21 R419). -/
def State.retireStack (s : State) (j : Nat) : State :=
  let base := 2 ^ 44 + 2 ^ 39 * j
  let x := { s.unit (.scm j) with state := 7 }
  let s1 := { s.putUnit x with dead := s.dead ++ [(base, 2 ^ 39)], ballast := s.ballast.filter (fun b => !(decide (base ≤ b.addr ∧ b.addr < base + 2 ^ 39))) }
  ((s1.capacityChange.recordRetirement x 3 1 none 0xFFFF 0#64 0#64).cometAbandon 4).cometSuspend

/-- A cache slice's retirement takes effect at the next boot. -/
def State.retireSlice (s : State) (g : Nat) : State :=
  let x := { s.unit (.slice g) with state := 7 }
  (s.putUnit x).capacityChange.recordRetirement x 3 2 none 0xFFFF 0#64 0#64

/-- A channel retires without an idle one to take its place: its lines are lost. -/
def State.retireChannel (s : State) (r c : Nat) : State :=
  let x := { s.unit (.channel r c) with state := 7 }
  let s1 := { s.putUnit x with dead := s.dead ++ [(2 ^ 36 * r + 2 ^ 31 * x.slot, 2 ^ 31)] }
  s1.capacityChange.recordRetirement x 2 1 none 0xFFFF 0#64 0#64

/-- A unit in service whose score is 2,048 or more becomes DUE as an early lease, and one that is DUE becomes early at 32,768 (R391). -/
def State.earlyLease (s : State) (x : LeasedUnit) : State :=
  if x.state = 0 ∧ 2048 ≤ x.score.toNat then s.makeDue x.u true
  else if x.state = 1 ∧ 32768 ≤ x.score.toNat then s.putUnit { x with early := true }
  else s

/-- The thresholds of R391. -/
def State.threshold (s : State) (u : DevUnit) : State :=
  let x := s.unit u
  match u with
  | .scm j => if x.state = 0 ∧ 32768 ≤ x.score.toNat then s.retireStack j else s
  | .slice g => if x.state = 0 ∧ 32768 ≤ x.score.toNat then s.retireSlice g else s
  | .channel r c =>
    if x.state ≤ 1 ∧ 32768 ≤ x.score.toNat ∧ s.noIdle r = true then s.retireChannel r c
    else s.earlyLease x
  | _ => s.earlyLease x

/-! ### Decay (20 R390) -/

/-- One decay of a score: a thirty-second part, rounded up. -/
def decayScore (k : Nat) : Nat := k - (k + 31) / 32

/-- The decays that have come due since the last are applied, and the thresholds are tested on the result. 512 of them bring every
score to 0. -/
def State.decayed (s : State) : State :=
  let n := min 512 (s.decayAge / 2 ^ 28)
  if n = 0 then s
  else
    let s1 := { s with decayAge := s.decayAge % 2 ^ 28, corrected := [],
                       units := s.units.map (fun x : LeasedUnit => { x with score := BitVec.ofNat 16 ((List.range n).foldl (fun k _ => decayScore k) x.score.toNat) }) }
    (s1.units.map (·.u)).foldl (fun s u => s.threshold u) s1

/-- A unit that is empty enters TESTING; the spare, or the idle channel, takes its place, and its score, decayed as it is due, is
tested as it enters service (R390, R391). -/
def execLeaseTestStart (u : DevUnit) (s : State) : Out :=
  .next (
    let s := s.decayed
    let x := s.unit u
    let sub := s.spareOf u
    let swap (s : State) (v : DevUnit) : State := ((s.putUnit { s.unit v with state := 0, slot := x.slot }).putUnit { x with state := 4, replaced := true }).threshold v
    if !s.active || x.state != 3 then s
    else match u with
    | .core _ _ =>
      if !(s.residents x.slot).isEmpty then s
      else
        let s1 := { s with closedCores := s.closedCores.filter (fun c => c != x.slot) }
        (match (if s.vacantCores.contains x.slot then none else sub) with
         | some v => swap s1 v
         | none => s1.putUnit { x with state := 4, replaced := false }).advanceLeases
    | .channel _ _ => if x.moved.length < channelLines then s else (match sub with | none => s | some v => (swap s v).advanceLeases)
    | _ => (s.putUnit { x with state := 4, replaced := false }).advanceLeases)

/-- A unit's score rises by an event's increment, after every decay that is due. -/
def State.charge (s : State) (u : DevUnit) (e : ScoreEvent) : State :=
  let s := s.decayed
  let x := s.unit u
  let x1 := { x with score := satScore x.score (scoreOf e) }
  let x2 := match e with
    | .replay => { x1 with nrep := x1.nrep + 1 }
    | .correctedCore | .correctedSlice | .correctedChannel | .correctedScm => { x1 with ncorr := x1.ncorr + 1 }
    | .uncorrectable => { x1 with nunc := x1.nunc + 1 }
    | _ => x1
  (s.putUnit x2).threshold u

/-- The physical core that serves a logical one. -/
def State.servingCore (s : State) (core : Nat) : Option DevUnit :=
  (groupUnits (.core (core / 4) 0)).find? (fun u => let x := s.unit u; x.slot == core && decide (x.state ≤ 3))

/-- A late transition in an array: the array cycle is repeated, and the core's score rises (11 R250). -/
def execShadowLatchReplay (core : Nat) (s : State) : Out :=
  .next (match s.servingCore core with
    | none => s
    | some u => if (s.runningOn core).isSome then (s.count (coreDie core) 5 1).charge u .replay else s)

/-- Every 2^28 management cycles each score decays. -/
def execScoreDecay (s : State) : Out := .next s.decayed

/-- The cell of a lane register: no address of a tile word or a line names it. -/
def registerCell (r : TeamRef) (reg lane : Nat) : Nat := 2 ^ 128 * (1 + 16 * r.crew + r.team) + 1024 * reg + lane

/-- The word or line that a scrub finds uncorrectable is poisoned. For a core, `addr` packs a crew's position, the uid of one
of its tiles and a word of its storage in 16-bit steps; otherwise it is a device-physical address (notes/assumptions/31.md). -/
def State.scrubPoison (s : State) (u : DevUnit) (addr : Nat) : State :=
  match u with
  | .core _ _ =>
    (match s.tileAt (addr % 2 ^ 16) (addr / 2 ^ 16 % 2 ^ 16) with
     | none => s
     | some t => s.putTile (addr % 2 ^ 16) { t with poison := natInsert (addr / 2 ^ 32) t.poison })
  | .port _ => s
  | _ => s.setPoison (addr / 64 * 64) 64

/-- Whether an event of R389 is one that is charged to a unit of the kind. Replays, NAKs, second corrected errors and failing runs are
charged where they happen. -/
def unitErrs (u : DevUnit) (e : ScoreEvent) : Bool :=
  match u, e with
  | .core _ _, .correctedCore | .slice _, .correctedSlice | .channel _ _, .correctedChannel | .scm _, .correctedScm => true
  | .port _, .fecUncorrectable => true
  | _, .uncorrectable => true
  | _, _ => false

/-- Whether a scrub can find it: scrubs read memory, cache slices and scratchpads (R399). -/
def scrubFinds (u : DevUnit) (e : ScoreEvent) : Bool :=
  match u with
  | .port _ => false
  | _ => unitErrs u e

/-- The word or line of an address, within which a second corrected error counts (R389). -/
def errorCell (u : DevUnit) (addr : Nat) : DevUnit × Nat :=
  match u with
  | .core _ _ => (u, addr)
  | _ => (u, addr / 64)

/-- A corrected error is charged, and the second one in the same word or line within a decay period is charged 256 more. -/
def State.chargeCorrected (s : State) (u : DevUnit) (e : ScoreEvent) (addr : Nat) : State :=
  let s := s.decayed
  let seen := (s.corrected.filter (fun p => p == errorCell u addr)).length
  let s1 := { s with corrected := s.corrected ++ [errorCell u addr] }.charge u e
  if seen = 1 then s1.charge u .secondCorrected else s1

/-- Whether the poisoning of the word or line would show to a load that has read it and is not yet performed: the scrub then comes after
it (notes/assumptions/68.md). -/
def State.scrubWaits (s : State) (u : DevUnit) (addr : Nat) : Bool :=
  match u with
  | .core _ _ => s.tileLoadsOut (addr % 2 ^ 16) (addr / 2 ^ 16 % 2 ^ 16) false (addr / 2 ^ 32)
  | .port _ => false
  | _ => s.loadsOut (addr / 64 * 64) 64

/-- An error in a unit that is found otherwise than by scrubbing: on an access, in a register, or on a link. An uncorrectable one poisons
its word or line (R398). -/
def State.unitError (s : State) (u : DevUnit) (e : ScoreEvent) (addr : Nat) : State :=
  if !unitErrs u e then s
  else if e = .uncorrectable then (if s.scrubWaits u addr then s else (s.scrubPoison u addr).charge u e)
  else if e = .fecUncorrectable then s.charge u e
  else s.chargeCorrected u e addr

/-- A patrol scrub of a word or line: corrected data is written back, which no access observes; the second corrected error in
one decay period costs 256 more; an uncorrectable one poisons (20 R389, R398, R399). -/
def execPatrolScrub (u : DevUnit) (ev : Option ScoreEvent) (addr : Nat) (s : State) : Out :=
  .next (match ev with
    | none => s
    | some e =>
      if !scrubFinds u e then s
      else if e = .uncorrectable then (if s.scrubWaits u addr then s else (s.scrubPoison u addr).charge u e)
      else s.chargeCorrected u e addr)

/-! ### Verdicts (20 R388, R392, R395) -/

/-- Number of pattern sets of a unit. -/
def patternSets : DevUnit → Nat
  | .core _ _ => 7
  | _ => 1
/-- Whether a set compares a signature. -/
def signedSet : DevUnit → Nat → Bool
  | .core _ _, 0 | .core _ _, 1 | .core _ _, 6 => true
  | _, _ => false

/-- One run of a pattern set: its signature and the stored one, and what it found. -/
structure TestRun where
  set : Nat
  got : BitVec 64
  expect : BitVec 64
  wide : Nat
  narrow : Nat
  replays : Nat
  deriving DecidableEq, Repr
def testRuns (found : List RunFound) (got expect : List (BitVec 64)) : List TestRun :=
  (found.zip (got.zip expect)).map (fun (f, g, e) => ⟨f.set, g, e, f.wide, f.narrow, f.replays⟩)

/-- The pass criterion of a set (R387). -/
def passesRun (u : DevUnit) (r : TestRun) : Bool :=
  match u with
  | .core _ _ =>
    if r.set ≤ 1 then r.got == r.expect
    else if r.set ≤ 5 then r.wide == 0 && decide (r.narrow ≤ 16)
    else decide (r.replays ≤ 4)
  | .channel _ _ => r.wide == 0 && decide (r.narrow ≤ 64)
  | .port _ => r.wide == 0 && decide (r.narrow ≤ 1024)
  | _ => true

/-- How a unit's test went (R388): its runs are not those of a test, every set ended, or a set failed twice in a row. -/
inductive TestEnd where
  | noTest
  | ended
  | failedTwice (r : TestRun)
  deriving DecidableEq, Repr

/-- The runs of the sets from `k` on: the sets run in order, a set that fails runs once more, and one that fails again ends the test. -/
def testEnd (u : DevUnit) (k : Nat) (again : Bool) : List TestRun → TestEnd
  | [] => if k = patternSets u ∧ again = false then .ended else .noTest
  | r :: rest =>
    if r.set ≠ k ∨ patternSets u ≤ k then .noTest
    else if passesRun u r then testEnd u (k + 1) false rest
    else if !again then testEnd u k true rest
    else if rest.isEmpty then .failedTwice r else .noTest

/-- A unit in RETURNING goes back: a core or channel that was replaced becomes the spare or idle one, a core whose slot was
vacant takes it again, a port, which is DOWN since its test, trains; a spare that was tested makes no capacity change (R381). Its score is tested as it
enters service (R391). -/
def State.leaseReturn (s : State) (u : DevUnit) : State :=
  let x := { s.unit u with early := false, deferred := 0, drained := 0, moved := [] }
  (if x.state ≠ 5 then s
   else if x.isSpare then s.putUnit { x with state := 6 }
   else match u with
   | .core _ _ =>
     if x.replaced then (s.putUnit { x with state := 6, slot := spareSlot u, replaced := false }).capacityChange
     else { s.putUnit { x with state := 0 } with vacantCores := s.vacantCores.filter (fun c => c != x.slot) }.capacityChange
   | .channel _ _ => (s.putUnit { x with state := 6, slot := spareSlot u, replaced := false }).capacityChange
   | .port _ => (s.putUnit { x with state := 0 }).capacityChange
   | _ => s).threshold u

/-- The unit that took the place of `x`. -/
def State.substituteOf (s : State) (x : LeasedUnit) : Option DevUnit :=
  if x.replaced then (groupUnits x.u).find? (fun v => v != x.u && (s.unit v).slot == x.slot && decide ((s.unit v).state ≤ 1)) else none

/-- A unit that failed is RETIRED: a spare stays in its place, else its slot stays vacant; a port stays DOWN. -/
def State.unitRetire (s : State) (x : LeasedUnit) (reason set : Nat) (got expect : BitVec 64) : State :=
  let x := { x with state := 7, early := false }
  let sub := s.substituteOf x
  let s1 := s.putUnit x
  let s2 := match x.u with
    | .port p => { s1 with ports := s1.ports.zipIdx.map (fun (q : Port × Nat) => if q.2 = p then { q.1 with retired := true } else q.1) }.portTo p 0
    | _ => s1
  s2.capacityChange.recordRetirement x reason (if sub.isSome then 0 else 1) sub set got expect

/-- What a run adds to the score of its unit: its replays, its uncorrectable codewords, and its failure (R389). -/
def LeasedUnit.chargeRun (x : LeasedUnit) (r : TestRun) : LeasedUnit :=
  let found := match x.u with | .core _ _ => r.replays | .port _ => 16 * r.wide | _ => 0
  { x with score := satScore x.score (found + (if passesRun x.u r then 0 else 4096)), nrep := match x.u with | .core _ _ => x.nrep + r.replays | _ => x.nrep }

/-- A run of a unit's test has ended: it is charged in that cycle, after every decay that is due (R390). -/
def State.testRun (s : State) (u : DevUnit) (found : RunFound) (got expect : BitVec 64) : State :=
  let s := s.decayed
  let x := s.unit u
  if x.state != 4 || x.failed.isSome || s.powerLoss.isSome || !s.vaux then s
  else s.putUnit { x.chargeRun ⟨found.set, got, expect, found.wide, found.narrow, found.replays⟩ with charged := x.charged + 1 }

/-- A unit that failed its test is RETIRED; while the package is quiesced that waits for RESUME. -/
def State.failUnit (s : State) (x : LeasedUnit) (reason set : Nat) (got expect : BitVec 64) : State :=
  if s.active then (s.unitRetire { x with failed := none } reason set got expect).advanceLeases else s.putUnit { x with failed := some (reason, set, got, expect) }

/-- The pattern sets have ended (R388): the runs not yet charged are, and the unit is RETIRED or enters RETURNING, where its port is DOWN
(R386). A unit that passed returns at once; while the package is quiesced it stays in RETURNING, and one that failed stays in TESTING,
until RESUME (R383, R363). -/
def execTestVerdict (u : DevUnit) (found : List RunFound) (got expect : List (BitVec 64)) (s : State) : Out :=
  .next (
    let runs := testRuns found got expect
    let s := s.decayed
    let x0 := s.unit u
    let x := { (runs.drop x0.charged).foldl LeasedUnit.chargeRun x0 with charged := 0 }
    if x.state != 4 || x.failed.isSome || s.powerLoss.isSome || !s.vaux then s
    else match testEnd u 0 false runs with
    | .noTest => s
    | .failedTwice r => s.failUnit x 1 r.set (if signedSet u r.set then r.got else 0#64) (if signedSet u r.set then r.expect else 0#64)
    | .ended =>
      if 32768 ≤ x.score.toNat then s.failUnit x 2 0xFFFF 0#64 0#64
      else
        let s1 := s.putUnit { x with state := 5, score := BitVec.ofNat 16 (x.score.toNat / 2) }
        let s2 := match u with | .port p => s1.portTo p 0 | _ => s1
        if s2.active then (s2.leaseReturn u).advanceLeases else s2)

/-- Every unit in RETURNING goes back, and every unit whose test has failed is RETIRED. -/
def State.leasesReturn (s : State) : State :=
  (s.units.map (·.u)).foldl (fun s u => match (s.unit u).failed with
    | some (reason, set, got, expect) => s.unitRetire { s.unit u with failed := none } reason set got expect
    | none => s.leaseReturn u) s.decayed

end Sys2Proof.Machine
end

