-- ==== Sys2Proof/Machine/Rings.lean ====
section
/-! DEFINITION. The host's side: rings, launch queue apertures, CXL.mem, the event ring, the mailbox commands that configure
rings, ranges, pools, translation, the span and events (14_host_fabric R299 to R312; 17_fault_model R345). -/

namespace Sys2Proof.Machine

/-! ### When the host reaches the device (15 R324, R326) -/

/-- The mailbox and the rings are usable from stage 0x07 on. -/
def State.usable (s : State) : Bool := decide (7 ≤ s.platform.stage.toNat) && s.powerLoss.isNone && s.vaux && s.platform.fail == 0#8

/-! ### Host memory accesses (14 R300) -/

/-- Bytes stored from a device-physical address of HBM4E on, as a host write; bytes of lost lines are discarded. -/
def State.hostStore (s : State) (pa : Nat) (bytes : List Byte) : State :=
  ((bytes.zipIdx.foldl (fun (s : State) p => if s.isDead (pa + p.2) 1 then s else { s with mem := cellSet s.mem (pa + p.2) p.1 }) s)).clearPoison pa bytes.length

/-- The HBM4E range that CXL.mem exposes. -/
def hostRange (addr n : Nat) : Bool := decide (addr + n ≤ 2 ^ 40)

/-- What an access of the host moves of HBM4E, line by line (15 R323). -/
def State.hostCount (s : State) (addr n : Nat) (wr : Bool) : State :=
  (List.range ((addr % 64 + n + 63) / 64)).foldl (fun s i => s.countRequest (paDie (addr / 64 * 64 + 64 * i)) (addr / 64 * 64 + 64 * i) wr) s

def execHostCxlMemRead (addr n : Nat) (s : State) : Out :=
  .next (if s.usable && hostRange addr n then (let (s1, b) := (s.hostCount addr n false).devRead addr n; { s1 with hostRead := b }) else s)

def execHostCxlMemWrite (addr : Nat) (bytes : List Byte) (s : State) : Out :=
  .next (if s.usable && hostRange addr bytes.length then (s.hostCount addr bytes.length true).hostStore addr bytes else s)

/-! ### Ring registers (14 R301, R302) -/

/-- A write of a launch queue's prod; an overrun stops the queue. Registers of an unconfigured ring ignore writes. -/
def State.putQueueProd (s : State) (q : Nat) (v : BitVec 16) : State :=
  match s.lqs[q]? with
  | none => s
  | some r =>
    if !s.usable || !r.en then s
    else { s with lqs := s.lqs.set q { r with prod := v, err := r.err || decide (2 ^ r.k < (v - r.cons).toNat) } }

/-- A write of a pool's prod: the crews that an empty pool of its page size has stopped may be placed again, also one that is not yet saved
(17 R345). -/
def State.putPoolProd (s : State) (p : Nat) (v : BitVec 16) : State :=
  match s.pools[p]? with
  | none => s
  | some r =>
    if !s.usable || !r.en then s
    else
      let s1 := { s with pools := s.pools.set p { r with prod := v } }.poolLow p
      if v = r.prod then s1
      else { s1 with crews := s1.crews.map (fun (c : Crew) => if c.poolZ == some (p % 3) then { c with placeable := true } else c) }

def State.putEventCons (s : State) (v : BitVec 16) : State :=
  if s.usable && s.evRing.en then { s with evRing := { s.evRing with cons := v } } else s

def execLaunchQueueProdWrite (q : Nat) (v : BitVec 16) (s : State) : Out := .next (s.putQueueProd q v)
def execPoolProdWrite (p : Nat) (v : BitVec 16) (s : State) : Out := .next (s.putPoolProd p v)
def execEventRingConsWrite (v : BitVec 16) (s : State) : Out := .next (s.putEventCons v)

/-- Launch queue and byte within its aperture of a BAR2 offset. -/
def apertureQueue (off : Nat) : Option (Nat × Nat) :=
  if off < 0x100000 then none
  else
    let o := off - 0x100000
    if o / 0x80000 < 64 then some (o / 0x80000, o % 0x80000) else none

/-- A host write through a launch queue's aperture; bytes outside the ring are discarded. -/
def State.apertureWrite (s : State) (off : Nat) (bytes : List Byte) : State :=
  match apertureQueue off with
  | none => s
  | some (q, o) => match s.lqs[q]? with
    | none => s
    | some r => if s.usable && r.en then s.hostStore (r.base + o) (bytes.take (128 * 2 ^ r.k - o)) else s

def execQueueApertureWrite (off : Nat) (bytes : List Byte) (s : State) : Out := .next (s.apertureWrite off bytes)

/-- The function's reset returns every ring register to its reset value. -/
def execFunctionReset (s : State) : Out :=
  .next { s with pools := List.replicate 12 {}, lqs := List.replicate 64 {}, evRing := {}, turn := 0, walks := [] }

/-! ### BAR2 (14 R299, R301, R302) -/

/-- A ring of the map of R301. -/
inductive RingName where
  | queue (q : Nat)
  | pool (p : Nat)
  | event
  deriving DecidableEq, Repr

/-- The ring whose 16 bytes of registers hold a BAR2 offset. -/
def ringAt (off : Nat) : Option RingName :=
  if off / 16 < 64 then some (.queue (off / 16))
  else if 0x40 ≤ off / 16 ∧ off / 16 < 0x4C then some (.pool (off / 16 - 0x40))
  else if off / 16 = 0x50 then some .event
  else none

def State.ring (s : State) : RingName → Ring
  | .queue q => s.lqs.getD q {}
  | .pool p => s.pools.getD p {}
  | .event => s.evRing

/-- A flag at its place in a register. -/
def flagBit (b : Bool) (i : Nat) : BitVec 32 := if b then 1#32 <<< i else 0#32

/-- The 32-bit register at an offset within a ring's 16 bytes; reserved bits read zero. -/
def Ring.word (r : Ring) (o : Nat) : BitVec 32 :=
  if o = 0 then r.prod.setWidth 32
  else if o = 4 then r.cons.setWidth 32
  else if o = 8 then flagBit r.en 0 ||| flagBit r.priv 1 ||| flagBit r.err 2 ||| flagBit r.low 3
  else 0#32

/-- What a host read of BAR2 answers: ring registers, and zero in the apertures; none where the manual puts nothing. -/
def State.bar2Word (s : State) (off : Nat) : Option (BitVec 32) :=
  if (apertureQueue off).isSome then some 0#32
  else (ringAt off).map (fun r => (s.ring r).word (off % 16))

/-- A host write of 4 bytes to BAR2: prod of a queue or pool, cons of the event ring, an aperture; the rest is read-only. -/
def State.bar2Write (s : State) (off : Nat) (v : BitVec 32) : State :=
  if (apertureQueue off).isSome then s.apertureWrite off (leBytes 4 v.toNat)
  else match ringAt off with
  | some (.queue q) => if off % 16 = 0 then s.putQueueProd q (v.setWidth 16) else s
  | some (.pool p) => if off % 16 = 0 then s.putPoolProd p (v.setWidth 16) else s
  | some .event => if off % 16 = 4 then s.putEventCons (v.setWidth 16) else s
  | none => s

/-! ### The event ring (14 R304) -/

/-- The oldest waiting event is written to the host ring when it has room; MSI-X vector 1 marks the change from empty. -/
def execEventWrite (s : State) : Out :=
  .next (match s.events with
    | [] => s
    | e :: rest =>
      let r := s.evRing
      if !s.usable || !r.en || decide (2 ^ r.k ≤ (r.prod - r.cons).toNat) then s
      else { s with events := rest, hostRing := upsert (fun p => p.1 == r.prod.toNat % 2 ^ r.k) (r.prod.toNat % 2 ^ r.k, e) s.hostRing
                    evRing := { r with prod := r.prod + 1#16 }, msix := if r.prod = r.cons then s.msix ||| 2#2 else s.msix })

/-! ### Walkers (14 R307) -/

/-- A walker of a die meets an address: a page with v = 0 and scm = 0 is bound by first touch. -/
def execFirstTouchBind (die : Nat) (va : BitVec 64) (s : State) : Out :=
  .next (if die < 4 then (s.translate none die va.toNat false).1 else s)

/-! ### The mailbox (14 R303) -/

def rcSuccess : Nat := 0
def rcInvalid : Nat := 2
def rcUnsupported : Nat := 3
def rcBusy : Nat := 6

/-- The vendor commands of the primary mailbox (14 R303; 17 R346; 19 R362; 20 R397; 21 R409). -/
def opQueueConfig : Nat := 0xC000
def opRangeReserve : Nat := 0xC001
def opRangeRelease : Nat := 0xC002
def opPoolConfig : Nat := 0xC003
def opXlateInval : Nat := 0xC004
def opSpanJoin : Nat := 0xC005
def opSpanLeave : Nat := 0xC006
def opEventConfig : Nat := 0xC007
def opPortStatus : Nat := 0xC008
def opCrewResume : Nat := 0xC009
def opCrewAbandon : Nat := 0xC00A
def opQuiesce : Nat := 0xC00B
def opResume : Nat := 0xC00C
def opRestore : Nat := 0xC00D
def opUnitStatus : Nat := 0xC00E
def opRecordRead : Nat := 0xC00F
def opCometConfig : Nat := 0xC011
def opCometTrack : Nat := 0xC012
def opStepQuery : Nat := 0xC013
def opStepRebuild : Nat := 0xC014
def opStepLoad : Nat := 0xC015
def opLaunchAbandon : Nat := 0xC016
def opWlRelease : Nat := 0xC017

/-- Whether an opcode is listed for the primary mailbox. -/
def mailboxListed (op : Nat) : Bool := decide (opQueueConfig ≤ op ∧ op ≤ opWlRelease) && op != 0xC010

/-- A command's completion: the return code, the output payload, and MSI-X vector 0 where the host has enabled the mailbox interrupt. -/
def State.answer (s : State) (code : Nat) (out : List Byte) : State :=
  { s with reply := some ⟨code, out⟩, msix := if s.mailboxIrq then s.msix ||| 1#2 else s.msix, mailboxRun := none }

/-- A command that cannot complete yet goes on running. -/
def State.keepRunning (s : State) (op : Nat) (p : List Byte) : State := { s with mailboxRun := some (op, p) }

/-- Whether the mailbox is free for a command: it is usable, and no other command runs. -/
def State.mailboxFree (s : State) (op : Nat) (p : List Byte) : Bool :=
  s.usable && s.quiescing.isNone && (match s.mailboxRun with | none => true | some r => r == (op, p))

/-- `n` bytes of a payload at an offset, as a number. -/
def payAt (p : List Byte) (off n : Nat) : Nat := bytesNat ((p.drop off).take n)

/-- A mailbox command, one at a time: a payload shorter than its fields is Invalid Input. -/
def mailbox (s : State) (op : Nat) (p : List Byte) (len : Nat) (f : State → State) : Out :=
  .next (if !s.mailboxFree op p then s else if p.length < len then s.answer rcInvalid [] else f s)

/-- Whether any accepted launch has not completed. -/
def State.launchOpen (s : State) : Bool := s.launches.any (fun l => l.state != .completed)

/-- An opcode that is not listed: one below 0x0100 is of the CXL mailbox and gets no answer here, every other one is Unsupported
(notes/assumptions/74.md). -/
def execMailboxUnsupportedOpcode (opcode : BitVec 16) (s : State) : Out :=
  mailbox s opcode.toNat [] 0 fun s => if opcode.toNat / 256 = 0 ∨ mailboxListed opcode.toNat = true then s else s.answer rcUnsupported []

def execQueueConfig (payload : List Byte) (s : State) : Out :=
  mailbox s opQueueConfig payload 16 fun s =>
    let q := payAt payload 0 1
    let k := payAt payload 1 1
    let base := payAt payload 8 8
    match s.lqs[q]? with
    | none => s.answer rcInvalid []
    | some r =>
      if 12 < k ∨ (k ≠ 0 ∧ (base % 2 ^ (k + 7) ≠ 0 ∨ 2 ^ 40 < base + 2 ^ (k + 7))) then s.answer rcInvalid []
      else if r.cons ≠ r.prod ∧ r.err = false then s.answer rcBusy []
      else { s with lqs := s.lqs.set q { k := k, base := base, en := decide (k ≠ 0), priv := decide (payAt payload 2 1 % 2 = 1) } }.answer rcSuccess []

/-- Two stretches of addresses have one in common. -/
def overlaps (a la b lb : Nat) : Bool := decide (a < b + lb ∧ b < a + la)

/-- A new range takes the first released index, else the next. -/
def State.rangeSlot (s : State) : Nat := s.ranges.findIdx (fun r => r.len == 0)

/-- RANGE_RESERVE; a length of 0 is Invalid Input (notes/assumptions/74.md). -/
def execRangeReserve (payload : List Byte) (s : State) : Out :=
  mailbox s opRangeReserve payload 32 fun s =>
    let base := payAt payload 0 8
    let len := payAt payload 8 8
    let z := payAt payload 16 1
    let table := payAt payload 24 8
    let i := s.rangeSlot
    if 2 < z ∨ base % pageSize z ≠ 0 ∨ len % pageSize z ≠ 0 ∨ len = 0 ∨ 2 ^ 56 < base + len ∨ table % 8 ≠ 0 ∨ 2 ^ 40 < table + 8 * (len / pageSize z) ∨
       s.ranges.any (fun r => overlaps r.base r.len base len) = true ∨
       (s.span.joined && overlaps s.span.base (2 ^ 24 * s.span.count.toNat) base len) = true ∨ 1024 ≤ i then s.answer rcInvalid []
    else
      let r : Range := ⟨base, len, z, table⟩
      { s with ranges := if i < s.ranges.length then s.ranges.set i r else s.ranges ++ [r] }.answer rcSuccess (leBytes 2 i)

/-- Translation cache entries of pages that meet a stretch of addresses go. -/
def State.tlbDropIn (s : State) (base len : Nat) : State :=
  { s with tlb := s.tlb.filter (fun t => !overlaps t.page (pageSize t.z) base len)
           gangTlb := s.gangTlb.filter (fun t => !overlaps t.page (pageSize t.z) base len) }

def execRangeRelease (payload : List Byte) (s : State) : Out :=
  mailbox s opRangeRelease payload 2 fun s =>
    let i := payAt payload 0 2
    match s.ranges[i]? with
    | none => s.answer rcInvalid []
    | some r =>
      if r.len = 0 then s.answer rcInvalid []
      else if s.launchOpen then s.answer rcBusy []
      else ({ s with ranges := s.ranges.set i ⟨0, 0, 0, 0⟩ }.tlbDropIn r.base r.len).answer rcSuccess []

/-- POOL_CONFIG; a ring that does not lie wholly in HBM4E is Invalid Input (notes/assumptions/74.md). -/
def execPoolConfig (payload : List Byte) (s : State) : Out :=
  mailbox s opPoolConfig payload 16 fun s =>
    let die := payAt payload 0 1
    let z := payAt payload 1 1
    let k := payAt payload 2 1
    let base := payAt payload 8 8
    if 3 < die ∨ 2 < z ∨ k = 0 ∨ 15 < k ∨ base % 8 ≠ 0 ∨ 2 ^ 40 < base + 8 * 2 ^ k then s.answer rcInvalid []
    else
      let p := 3 * die + z
      if s.walks.any (fun w => w.pool == p) then s.answer rcBusy []
      else ({ s with pools := s.pools.set p { k := k, base := base, en := true, lowMark := BitVec.ofNat 16 (payAt payload 4 2) } }.poolLow p).answer rcSuccess []

/-- Accesses that used a translation of the stretch are outstanding, or appends whose items are on their way. -/
def State.xlateBusy (s : State) (base len : Nat) : Bool :=
  s.crews.any (fun c => c.teams.any (fun t => t.pending.any (fun a => match a.loc with
    | .glob va _ => overlaps va (a.width / 8) base len
    | .tile _ _ _ _ => false))) ||
  s.wlItems.any (fun i => i.at_.isSome && (match i.pos.bind (s.itemLoc i) with | some (.glob va _) => overlaps va 8 base len | _ => false))

/-- XLATE_INVAL completes once no access that used a dropped translation is outstanding (R308); until then it runs. -/
def execXlateInval (payload : List Byte) (s : State) : Out :=
  mailbox s opXlateInval payload 16 fun s =>
    let base := payAt payload 0 8
    let len := payAt payload 8 8
    let s1 := s.tlbDropIn base len
    if s.xlateBusy base len then s1.keepRunning opXlateInval payload else s1.answer rcSuccess []

def execEventConfig (payload : List Byte) (s : State) : Out :=
  mailbox s opEventConfig payload 16 fun s =>
    let k := payAt payload 0 1
    let base := payAt payload 8 8
    if k < 4 ∨ 15 < k ∨ base % 32 ≠ 0 then s.answer rcInvalid []
    else { s with evRing := { k := k, base := base, en := true }, hostRing := [] }.answer rcSuccess []

def execPortStatus (payload : List Byte) (s : State) : Out :=
  mailbox s opPortStatus payload 1 fun s =>
    match s.ports[payAt payload 0 1]? with
    | none => s.answer rcInvalid []
    | some p => s.answer rcSuccess (leBytes 1 p.state ++ [p.fver, p.tver] ++ leBytes 1 0 ++ leBytes 4 p.peerSpan.toNat ++ leBytes 2 p.peerIndex.toNat ++ [p.peerPort])

/-! ### Joining and leaving a span (14 R311, R312) -/

/-- The payload of a HELLO flit: the part's highest versions, the span id and index, the port (notes/assumptions/24.md). -/
def State.helloPayload (s : State) (p : Nat) : List Byte :=
  [Config.fabricVersion, Config.tetherVersion] ++ leBytes 1 (if s.span.joined then 1 else 0) ++ leBytes 1 p ++ leBytes 4 s.span.id.toNat ++ leBytes 2 s.span.index.toNat ++ leBytes 54 0

/-- A port enters HELLO and sends its HELLO flit. -/
def State.portHello (s : State) (p : Nat) : State := (s.portTo p 2).linkFlit p 1 0#16 (s.helloPayload p)

/-- FOREIGN ports go back to HELLO at a SPAN_JOIN or SPAN_LEAVE. -/
def State.rehello (s : State) : State :=
  (List.range 24).foldl (fun s p => match s.ports[p]? with | none => s | some q => if q.state = 4 then s.portHello p else s) s

/-- Tether state at the change of membership: no line is cached, every home copy is zero (R313). -/
def State.clearTether (s : State) : State := { s with home := [], homeWaits := [], slices := [], treqs := [] }

def execSpanJoin (payload : List Byte) (s : State) : Out :=
  mailbox s opSpanJoin payload 21 fun s =>
    let count := payAt payload 4 2
    let index := payAt payload 6 2
    let base := payAt payload 8 8
    let fver := payAt payload 16 1
    let tver := payAt payload 17 1
    let m := payAt payload 20 1
    if s.launchOpen then s.answer rcBusy []
    else if count = 0 ∨ 4096 < count ∨ count ≤ index ∨ fver = 0 ∨ Config.fabricVersion.toNat < fver ∨ tver = 0 ∨ Config.tetherVersion.toNat < tver ∨
       base % 2 ^ 24 ≠ 0 ∨ 2 ^ 56 < base + 2 ^ 24 * count ∨ 9 < m ∨
       s.ranges.any (fun r => overlaps r.base r.len base (2 ^ 24 * count)) = true then s.answer rcInvalid []
    else
      let sp : Span := { joined := true, id := BitVec.ofNat 32 (payAt payload 0 4), index := BitVec.ofNat 12 index, count := BitVec.ofNat 13 count, base := base
                         fver := BitVec.ofNat 8 fver, tver := BitVec.ofNat 8 tver, group := BitVec.ofNat 16 (payAt payload 18 2), member := m
                         erasure := decide (10 ≤ count) }
      ({ s.clearTether with span := sp }.rehello).answer rcSuccess []

def execSpanLeave (payload : List Byte) (s : State) : Out :=
  mailbox s opSpanLeave payload 0 fun s =>
    if s.launchOpen then s.answer rcBusy []
    else ({ s.clearTether with span := {} }.rehello).answer rcSuccess []

end Sys2Proof.Machine
end

