-- ==== Sys2Proof/Machine/Abandon.lean ====
section
/-! DEFINITION. The mailbox commands on crews, launches, units and records: CREW_RESUME, CREW_ABANDON, LAUNCH_ABANDON,
WL_RELEASE, UNIT_STATUS, RECORD_READ (17_fault_model R346; 20_infield_test R395 to R397; 21_recovery R409, R415 to R417). -/

namespace Sys2Proof.Machine

/-! ### Crews held faulted (17 R346) -/

/-- The position of a crew by its launch.id and crew.id. -/
def State.findCrew (s : State) (launch crew : Nat) : Option Nat :=
  let k := s.crews.findIdx (fun c => c.launchId.toNat == launch && c.crewId.toNat == crew)
  if k < s.crews.length then some k else none

/-- A crew that is held faulted. -/
def State.heldCrew (s : State) (p : List Byte) : Option Nat :=
  match s.findCrew (payAt p 0 4) (payAt p 4 4) with
  | none => none
  | some k => match s.crewAt k with
    | none => none
    | some c => if c.heldFaulted && c.state == .live then some k else none

def execCrewResume (payload : List Byte) (s : State) : Out :=
  mailbox s opCrewResume payload 8 fun s =>
    match s.heldCrew payload with
    | none => s.answer rcInvalid []
    | some k => (s.modCrew k (fun c => { c with placeable := true })).answer rcSuccess []

/-! ### Abandonment (21 R416) -/

/-- A span XRED of an abandoned crew ends ABORTED on every participant: its package's node says so. -/
def State.abortSpan (s : State) (m : Command) : State :=
  if !m.isSpan then s
  else
    (s.putCommand { m with formed := true, rootFail := true }).postNode
      { group := m.group, k := m.spanK, member := s.span.index.toNat, logc := m.logc, op := BitVec.ofNat 3 m.op, arrival := m.arrival
        cbase := m.cbase, logb := 0, ok := false, count := 0 }

/-- The empty rest of a team whose crew is abandoned. -/
def Team.gone (t : Team) : Team := { id := t.id, lanes := t.lanes, regs := t.regs, priv := t.priv, pc := t.pc, exited := true, finished := true }

/-- A crew is abandoned: its teams execute nothing more, its work-list holdings stay owed, its span XREDs abort, its unperformed
matrix commands go, and its tiles go once its commands have signalled. -/
def State.abandonCrew (s : State) (k : Nat) : State :=
  match s.crewAt k with
  | none => s
  | some c =>
    if c.state != .live then s
    else
      let s1 := s.leaveCore k
      let s2 := s1.modCrew k (fun c => { c with state := .abandoned, teams := c.teams.map Team.gone, owed := c.teams.flatMap (·.wl), heldFaulted := false
                                                placeable := false, growEvicted := false, capPending := false })
      let s3 := { s2 with matrix := s2.matrix.filter (fun m => m.team.crew != k)
                          launches := s2.launches.map (fun (l : Launch) => if l.id == c.launchId then { l with aborted := true } else l) }
      (((s3.commands.filter (fun m => m.crew == k)).foldl (fun s m => s.abortSpan m) s3).completeCrew k)

def execCrewAbandon (payload : List Byte) (s : State) : Out :=
  mailbox s opCrewAbandon payload 8 fun s =>
    match s.heldCrew payload with
    | none => s.answer rcInvalid []
    | some k => (s.abandonCrew k).answer rcSuccess []

/-- An accepted launch that has not completed. -/
def State.openLaunch (s : State) (id : Nat) : Option Launch := s.launches.find? (fun l => l.id.toNat == id && l.state != .completed)

/-- The live crews of a launch. -/
def State.crewsOf (s : State) (l : Launch) : List Nat := (s.crews.zipIdx.filter (fun p => p.1.launchId == l.id && p.1.state == .live)).map (·.2)

/-- LAUNCH_ABANDON: resident crews are stopped first, as under forced migration; crews that never started are dropped; a launch
that waits on its gates is cancelled. -/
def execLaunchAbandon (payload : List Byte) (s : State) : Out :=
  mailbox s opLaunchAbandon payload 4 fun s =>
    match s.openLaunch (payAt payload 0 4) with
    | none => s.answer rcInvalid []
    | some l =>
      if l.state = .waiting then (s.cancelLaunch l).answer rcSuccess []
      else
        let ks := s.crewsOf l
        let here := ks.filter (fun k => match s.crewAt k with | none => false | some c => c.place.isSome)
        if !s.cohortStopped here then s.keepRunning opLaunchAbandon payload
        else
          let s1 := s.putLaunch { l with ranges := [], aborted := true }
          ((ks.foldl (fun s k => s.abandonCrew k) s1).completeLaunch l.id).answer rcSuccess []

/-! ### WL_RELEASE (21 R417) -/

/-- The abandoned crews that WL_RELEASE names; none where the command is refused, as it is where every one of them has been
released already. -/
def State.releaseCrews (s : State) (launch crew : Nat) : Option (List Nat) :=
  if crew = 0xFFFFFFFF then
    let ks := (s.crews.zipIdx.filter (fun p => p.1.launchId.toNat == launch && p.1.state == .abandoned && !p.1.released)).map (·.2)
    if ks.isEmpty then none else some ks
  else match s.findCrew launch crew with
    | none => none
    | some k => match s.crewAt k with
      | none => none
      | some c => if c.state == .abandoned && !c.released then some [k] else none

/-- The sets that the crews' holdings and reserved positions lie in. -/
def State.owedSets (s : State) (ks : List Nat) : List Nat :=
  ((ks.flatMap (fun k => match s.crewAt k with | none => [] | some c => (c.owed.filter (fun w => decide (0 < w.items) || w.seed)).map (·.set))) ++
   (s.wlHoles.filter (fun h => ks.contains h.owner.crew && !h.void)).map (·.set)).eraseDups

/-- Every item and seed of a crew is retired at its set's master. -/
def State.releaseCrew (s : State) (k : Nat) : State :=
  match s.crewAt k with
  | none => s
  | some c =>
    let s1 := s.retireAll ⟨k, 0⟩ (12 * c.lastRegion) c.owed
    { s1.modCrew k (fun c => { c with owed := [], released := true }) with
      wlHoles := s1.wlHoles.map (fun (h : WlHole) => if h.owner.crew = k then { h with void := true } else h) }

def execWlRelease (payload : List Byte) (s : State) : Out :=
  mailbox s opWlRelease payload 8 fun s =>
    match s.releaseCrews (payAt payload 0 4) (payAt payload 4 4) with
    | none => s.answer rcInvalid []
    | some ks => (ks.foldl (fun s k => s.releaseCrew k) s).answer rcSuccess (leBytes 4 (s.owedSets ks).length)

/-! ### UNIT_STATUS and RECORD_READ (20 R395, R397) -/

/-- The unit that a logical core or channel slot names. -/
def State.slotUnit (s : State) (g : List DevUnit) (slot : Nat) : Option LeasedUnit :=
  match (g.map s.unit).find? (fun x => x.slot == slot && decide (x.state ≤ 3)) with
  | some x => some x
  | none => (g.map s.unit).find? (fun x => x.slot == slot && (x.state == 4 || x.state == 5) && !x.replaced)

def State.statusUnit (s : State) (kind i : Nat) : Option LeasedUnit :=
  if kind = 1 then
    (if i < 12 * s.regions ∧ !s.vacantGangs.contains (i / 4) then s.slotUnit (groupUnits (.core (i / 4) 0)) i else none)
  else if kind = 2 then
    (if i % 16 < s.regions ∧ i < 512 then s.slotUnit (groupUnits (.channel (i % 16) 0)) (i / 16 % 32) else none)
  else if kind = 3 then (if i < 24 then some (s.unit (.port i)) else none)
  else none

def execUnitStatus (payload : List Byte) (s : State) : Out :=
  mailbox s opUnitStatus payload 4 fun s =>
    let s := s.decayed
    match s.statusUnit (payAt payload 0 1) (payAt payload 2 2) with
    | none => s.answer rcInvalid []
    | some x => s.answer rcSuccess (leBytes 1 x.state ++ leBytes 1 0 ++ leBytes 2 x.score.toNat)

/-- The 512 signed bytes of a retirement record. -/
def recordBody (i : Nat) (r : Retirement) : List Byte :=
  padTo 512 (leBytes 4 0x5452434F ++ leBytes 2 1 ++ leBytes 2 512 ++ leBytes 4 i ++ leBytes 4 r.boot.toNat ++ leBytes 8 r.mcyc.toNat ++ leBytes 2 (unitId r.u) ++
    [r.reason, r.action] ++ leBytes 2 r.score.toNat ++ leBytes 2 (match r.subst with | none => 0xFFFF | some u => unitId u) ++ leBytes 4 r.capgen.toNat ++
    leBytes 2 r.set.toNat ++ leBytes 2 0 ++ leBytes 8 r.got.toNat ++ leBytes 8 r.expect.toNat ++ leBytes 8 r.nrep.toNat ++ leBytes 8 r.ncorr.toNat ++
    leBytes 8 r.nunc.toNat ++ leBytes 32 Config.deviceId.toNat)

/-- A retirement record of 4,096 bytes. -/
def recordBytes (i : Nat) (r : Retirement) : List Byte :=
  let b := recordBody i r
  padTo 4096 (b ++ padTo 2420 (Config.mldsaSign (Config.sha3 b)))

def execRecordRead (payload : List Byte) (s : State) : Out :=
  mailbox s opRecordRead payload 4 fun s =>
    let i := payAt payload 0 4
    match s.nv.records[i]? with
    | none => s.answer rcInvalid []
    | some r => s.answer rcSuccess (recordBytes i r)

end Sys2Proof.Machine
end

