-- ==== Sys2Proof/Machine/Platform.lean ====
section
/-! DEFINITION. Power, monitors, platform registers, performance counters, boot, image verification, attestation and I3C
(15_platform R317 to R329; 00_scope R8; 12_engines R278; 21_recovery R401, R402). -/

namespace Sys2Proof.Machine

/-- Power reaches the compute dies. -/
def State.powered (s : State) : Bool := s.vaux && s.vin && s.powerLoss.isNone

/-! ### Platform registers (15 R320, R328, R329; 00 R8) -/

/-- The 32-bit registers at 0x8000 + 4·k; the other indices, and reserved bits, read zero. -/
def Platform.word (p : Platform) (k : Nat) : BitVec 32 :=
  match k with
  | 0 => p.cap.setWidth 32
  | 1 => flagBit p.holdup 0 ||| flagBit p.caplim 1 ||| flagBit p.thermlim 2 ||| flagBit p.alarm 3 ||| (p.tmax.setWidth 32 <<< 8)
  | 2 => p.stage.setWidth 32 ||| (p.fail.setWidth 32 <<< 8) ||| (p.secver.setWidth 32 <<< 16)
  | 3 => p.power.setWidth 32
  | _ => 0#32

/-- The power cap of a write: between 1,200 and 3,600 W. -/
def capClamp (v : Nat) : Nat := if v < 1200 then 1200 else if 3600 < v then 3600 else v

/-- A write of the register at 0x8000 + 4·k: the cap, or a 1 that clears alarm; the rest is read-only or reserved. -/
def Platform.put (p : Platform) (k : Nat) (v : BitVec 32) : Platform :=
  match k with
  | 0 => { p with cap := BitVec.ofNat 16 (capClamp (v.toNat % 2 ^ 16)) }
  | 1 => if v.getLsbD 3 then { p with alarm := false } else p
  | _ => p

/-- Whether a host or an I3C access reaches the platform registers. -/
def State.regsReach (s : State) (i3c : Bool) : Bool := if i3c then s.vaux else s.usable

def State.putPlatform (s : State) (k : Nat) (v : BitVec 32) : State := { s with platform := s.platform.put k v }

def execCapWrite (v : BitVec 32) (i3c : Bool) (s : State) : Out := .next (if s.regsReach i3c then s.putPlatform 0 v else s)

/-- A write to the register that holds alarm: a 1 in bit 3 clears it. -/
def execAlarmClear (v : BitVec 32) (s : State) : Out := .next (if s.vaux then s.putPlatform 1 v else s)

/-! ### Performance counters (15 R323) -/

def State.modPerf (s : State) (d : Nat) (f : Perf → Perf) : State :=
  match s.perf[d]? with
  | none => s
  | some p => { s with perf := s.perf.set d (f p) }

def execPerfCounterClear (die : Nat) (s : State) : Out := .next (if s.usable then s.modPerf die (fun p => { p with cnt := [] }) else s)

/-- The 32-bit register at an offset within a counter block: en, halves of the counters, selectors; the rest reads zero. -/
def Perf.word (p : Perf) (o : Nat) : BitVec 32 :=
  if o / 4 = 0 then flagBit p.en 0
  else if 8 ≤ o ∧ o < 0x48 then BitVec.ofNat 32 ((cellGet p.cnt ((o - 8) / 8)).toNat / 2 ^ (32 * (o / 4 % 2)))
  else if 0x48 ≤ o ∧ o < 0x68 then (cellGet p.sel ((o - 0x48) / 4)).setWidth 32
  else 0#32

/-- A write at an offset within a counter block: en and clr, the selectors. -/
def Perf.put (p : Perf) (o : Nat) (v : BitVec 32) : Perf :=
  if o = 0 then { p with en := v.getLsbD 0, cnt := if v.getLsbD 1 then [] else p.cnt }
  else if 0x48 ≤ o ∧ o < 0x68 ∧ o % 4 = 0 then { p with sel := cellSet p.sel ((o - 0x48) / 4) (v.setWidth 8) }
  else p

/-! ### BAR0 (14 R299) -/

/-- A host read of BAR0: platform registers and counter blocks. What else stands there, the component and device registers of CXL, the
mailbox and the MSI-X table, is laid out by other specifications: none. -/
def State.bar0Word (s : State) (off : Nat) : Option (BitVec 32) :=
  if 0x8000 ≤ off ∧ off < 0x8010 then some (s.platform.word ((off - 0x8000) / 4))
  else if 0x9000 ≤ off ∧ off < 0x9400 then some ((s.perf.getD ((off - 0x9000) / 0x100) {}).word (off % 0x100))
  else none

def State.bar0Write (s : State) (off : Nat) (v : BitVec 32) : State :=
  if !s.usable then s
  else if 0x8000 ≤ off ∧ off < 0x8010 ∧ off % 4 = 0 then s.putPlatform ((off - 0x8000) / 4) v
  else if 0x9000 ≤ off ∧ off < 0x9400 then s.modPerf ((off - 0x9000) / 0x100) (fun p => p.put (off % 0x100) v)
  else s

/-- A host write to a register of BAR0. -/
def execRegisterWrite (off : Nat) (v : BitVec 32) (s : State) : Out := .next (s.bar0Write off v)

/-- A host read of 4 aligned bytes of a BAR: a free value where the manual puts no register (notes/assumptions/66.md). -/
def State.barRead (s : State) (bar off : Nat) : State :=
  if !s.usable then s
  else match (if bar = 0 then s.bar0Word (off / 4 * 4) else s.bar2Word (off / 4 * 4)) with
  | some v => { s with hostRead := leBytes 4 v.toNat }
  | none => { s with hostRead := leBytes 4 (Config.freeValue s.free).toNat, free := s.free + 1 }

/-- A host write of 4 bytes to a BAR. -/
def State.barWrite (s : State) (bar off : Nat) (v : BitVec 32) : State := if bar = 0 then s.bar0Write off v else s.bar2Write off v

/-! ### I3C (15 R328) -/

/-- The static address, which holds until SETDASA gives a dynamic one. -/
def i3cStatic : BitVec 7 := 0x3A#7
def State.i3cHears (s : State) (addr : BitVec 7) : Bool := s.vaux && addr == s.i3c.getD i3cStatic

/-- SETDASA; the target runs on VAUX alone. -/
def execI3cSetdasa (addr : BitVec 7) (s : State) : Out := .next (if s.vaux then { s with i3c := some addr } else s)

/-- A private write: an index byte, and four data bytes if a register is written. -/
def State.i3cWrite (s : State) (addr : BitVec 7) (bytes : List Byte) : State :=
  if !s.i3cHears addr then s
  else match bytes with
  | [] => s
  | k :: data =>
    let s1 := { s with i3cIndex := k.toNat }
    if data.length = 4 then s1.putPlatform k.toNat (BitVec.ofNat 32 (bytesNat data)) else s1

/-- A private read of four bytes, little-endian, of the register that the last private write named. -/
def State.i3cRead (s : State) (addr : BitVec 7) : State :=
  if s.i3cHears addr then { s with hostRead := leBytes 4 (s.platform.word s.i3cIndex).toNat } else s

/-! ### Loss of power (21 R401, R402) -/

/-- From now on the queues accept nothing and everything stops; the queues drain. -/
def State.losePower (s : State) : State := { s with powerLoss := some 0 }

def execVinLoss (s : State) : Out := .next (if s.powered then { s.losePower with vin := false } else { s with vin := false })
def execVauxRemoval (s : State) : Out := .next { s with vaux := false, i3c := none }
def execVauxApply (s : State) : Out := .next { s with vaux := true }

/-- The oldest line of a die's Ballast queue reaches its SCM stack. -/
def execBallastDrainLine (die : Nat) (s : State) : Out :=
  .next (if s.vaux then s.drainLine die else s)

/-! ### Monitors (15 R319 to R321) -/

/-- What a junction's temperature does to the registers: 100 °C stretches clocks, 105 °C raises the alarm. -/
def Platform.heat (p : Platform) (temp : BitVec 8) : Platform :=
  { p with thermlim := p.thermlim || decide (100 ≤ temp.toNat), alarm := p.alarm || decide (105 ≤ temp.toNat), tmax := if p.tmax < temp then temp else p.tmax }

/-- A junction's temperature: from 115 °C on the VIN load goes, after the power-loss drain. -/
def State.heat (s : State) (temp : BitVec 8) : State :=
  let s1 := { s with platform := s.platform.heat temp }
  if 115 ≤ temp.toNat then s1.losePower else s1

def execJunctionHot (temp : BitVec 8) (s : State) : Out := .next (if s.powered && decide (100 ≤ temp.toNat) then s.heat temp else s)

/-- A junction of 105 °C, or a voltage outside its island's band, whatever the temperature. -/
def execMonitorAlarm (temp : BitVec 8) (s : State) : Out :=
  .next (if s.powered then { s with platform := { s.platform with alarm := true } }.heat temp else s)

/-- A junction reaches 115 °C (21 R401); a reading above that is a `junctionHot` of its own temperature. -/
def execThermalTrip (s : State) : Out := .next (if s.powered then s.heat 115#8 else s)

/-- The controller's readings of the whole package: its power, whether it stretches clocks to meet the cap, its hottest junction. -/
def State.monitor (s : State) (power : BitVec 16) (caplim : Bool) (temp : BitVec 8) : State :=
  if s.powered then { s with platform := { s.platform with power := power, caplim := caplim, thermlim := false, tmax := 0#8 } }.heat temp else s

/-- The island is stretched in the cycle of detection, which no result shows. -/
def execVoltageDroop (_island : Nat) (s : State) : Out := .next s

/-! ### Firmware images (15 R325, R326) -/

/-- An image's header of 3,780 bytes, and its body, which starts at offset 4,096. -/
def Firmware.header (f : Firmware) : List Byte := f.image.take 3780
def Firmware.body (f : Firmware) : List Byte := f.image.drop 4096

/-- The first failing condition of R326 for an image of a kind, 0 for none. -/
def imageCode (nv : NonVolatile) (kind : Nat) (f : Firmware) : Nat :=
  let h := f.header
  let key := (h.drop 48).take 1312
  let signed := Config.sha3 (h.take 1360)
  if h.length ≠ 3780 ∨ payAt h 0 4 ≠ 0x3156434F ∨ payAt h 4 2 ≠ 1 ∨ payAt h 6 2 ≠ kind ∨ 2 ^ 9 ≤ payAt h 8 4 then 1
  else if nv.keys.any (fun k => k.1 == Config.sha3 key && !k.2) = false then 2
  else if Config.mldsaVerifies key (leBytes 32 signed.toNat) ((h.drop 1360).take 2420) = false then 3
  else if payAt h 12 4 ≠ f.body.length ∨ payAt h 16 32 ≠ (Config.sha3 f.body).toNat then 4
  else if payAt h 8 1 < nv.secver.toNat then 5
  else 0

/-- A kind's images: the accepted one, copy A before copy B, or the failure code of the copy tried last. -/
def NonVolatile.verify (nv : NonVolatile) (kind : Nat) : Except Nat Firmware :=
  let try_ (copy : Nat) : Except Nat Firmware :=
    match nv.firmware.find? (fun f => f.kind == kind && f.copy == copy) with
    | none => .error 1
    | some f => let c := imageCode nv kind f; if c = 0 then .ok f else .error c
  match try_ 0 with
  | .ok f => .ok f
  | .error _ => try_ 1

/-- The failure of the images of some kinds, 0 for none. -/
def NonVolatile.verifyAll (nv : NonVolatile) : List Nat → Nat
  | [] => 0
  | k :: rest => match nv.verify k with
    | .error c => c
    | .ok _ => nv.verifyAll rest

/-- Raised by every accepted image that commits. -/
def NonVolatile.raisedSecver (nv : NonVolatile) : Nat :=
  [1, 2, 3].foldl (fun v k => match nv.verify k with
    | .ok f => if (payAt f.header 8 4).testBit 8 then max v (payAt f.header 8 1) else v
    | .error _ => v) nv.secver.toNat

/-! ### Boot (15 R324; 20 R395; 01 R12) -/

/-- A unit that a record with action 0 or 1 names is excluded; a slice also with action 2. -/
def NonVolatile.excluded (nv : NonVolatile) (u : DevUnit) : Bool :=
  nv.records.any (fun r => r.u == u && (decide (r.action.toNat ≤ 1) || (match u with | .slice _ => true | _ => false)))

/-- Gangs left out at boot: those whose slice is excluded. Logical gang numbers are the physical ones (notes/assumptions/9.md). -/
def NonVolatile.bootGangs (nv : NonVolatile) : List Nat := (List.range 48).filter (fun g => nv.excluded (.slice g))

/-- The units of a group of `n` whose last one is the spare: excluded ones are RETIRED, and the spare takes the lowest slot left
open by them (notes/assumptions/32.md). -/
def bootGroup (nv : NonVolatile) (mk : Nat → DevUnit) (n base : Nat) : List LeasedUnit :=
  let out := (List.range n).filter (fun i => nv.excluded (mk i))
  let spare := mk (n - 1)
  let taken := (out.filter (fun i => decide (i < n - 1))).head?
  out.map (fun i => { u := mk i, state := 7, slot := base + i }) ++
  (if nv.excluded spare then [] else match taken with
    | none => []
    | some i => [{ u := spare, state := 0, slot := base + i }])

/-- Core slots without a working core. -/
def NonVolatile.bootCores (nv : NonVolatile) : List Nat :=
  (List.range 48).flatMap (fun g =>
    if nv.excluded (.slice g) then []
    else
      let out := (List.range 4).filter (fun i => nv.excluded (.core g i))
      (if nv.excluded (.core g 4) then out else out.drop 1).map (fun i => 4 * g + i))

/-- The units that boot finds out of their places. -/
def NonVolatile.bootUnits (nv : NonVolatile) : List LeasedUnit :=
  (List.range 48).flatMap (fun g => bootGroup nv (DevUnit.core g) 5 (4 * g)) ++ (List.range 16).flatMap (fun r => bootGroup nv (DevUnit.channel r) 33 0) ++
  ((List.range 24).map DevUnit.port ++ (List.range 8).map DevUnit.scm ++ (List.range 48).map DevUnit.slice).filterMap
    (fun u => if nv.excluded u then some { u := u, state := 7 } else none)

/-- What a cold reset keeps: what needs no power, the SCM with every accepted line drained into it (01 R24, 06 R131), the rails, the lines
lost for good, and the agenda. -/
def State.afterReset (s : State) : State :=
  let nv := { s.nv with boots := s.nv.boots + 1#32, powerLost := s.nv.powerLost && s.powerLoss.isSome, drained := s.nv.drained && s.powerLoss.isSome }
  { State.reset with
    moves := s.moves, free := s.free, nv := nv, vaux := s.vaux, vin := s.vin, dead := s.dead
    mem := s.drainedLines.mem.filter (fun c => isScm c.1), poison := s.poison.filter (fun w => isScm (4 * w))
    units := nv.bootUnits, vacantGangs := nv.bootGangs, vacantCores := nv.bootCores
    ports := (List.range 24).map (fun p => { retired := nv.excluded (.port p) }) }

/-- Boot stands at a stage and has not failed. -/
def State.bootAt (s : State) (n : Nat) : Bool := s.platform.stage.toNat == n && s.platform.fail == 0#8

/-- The boot sequence starts: the boot ROM runs on VAUX. Power that returns during the power-loss sequence does not stop it. -/
def execColdReset (s : State) : Out :=
  .next (
    if !s.vaux || (match s.powerLoss with | none => false | some k => decide (k < 2 ^ 15)) then s
    else let s1 := s.afterReset; { s1 with platform := { s1.platform with stage := 1#8 } })

def State.enterStage (s : State) (n fail : Nat) : State := { s with platform := { s.platform with stage := BitVec.ofNat 8 n, fail := BitVec.ofNat 8 fail } }

/-- The next boot stage is entered, once the one before has done its work: 2 and 3 verify images, and stop at a failure; from 4 on VIN is
there; 5 reads the fuses; the hold-up charge completes in 6. -/
def State.bootStage (s : State) : State :=
  if !s.vaux || s.powerLoss.isSome then s
  else if s.bootAt 1 then s.enterStage 2 (s.nv.verifyAll [1])
  else if s.bootAt 2 then s.enterStage 3 (s.nv.verifyAll [2, 3])
  else if !s.vin then s
  else if s.bootAt 3 then s.enterStage 4 0
  else if s.bootAt 4 then { s with platform := { s.platform with stage := 5#8, secver := s.nv.secver } }
  else if s.bootAt 5 then s.enterStage 6 0
  else if s.bootAt 6 && s.platform.holdup then s.enterStage 7 0
  else s

/-- VIN without VAUX draws no current. -/
def execVinApply (s : State) : Out := .next (if s.vaux then { s with vin := true } else s)

/-- The hold-up charge completes, in stage 6. -/
def execHoldupCharged (s : State) : Out :=
  .next (if s.powered && s.bootAt 6 then { s with platform := { s.platform with holdup := true } } else s)

/-- The launch queues are served, and the images that commit raise secver. -/
def execBootRunning (s : State) : Out :=
  .next (
    if s.powered && s.bootAt 7 then
      let v := BitVec.ofNat 8 s.nv.raisedSecver
      { s with platform := { s.platform with stage := 0xFF#8, secver := v }, nv := { s.nv with secver := v } }
    else s)

/-! ### Attestation (15 R327) -/

/-- Every unit that the manual numbers (20 R395). -/
def allUnits : List DevUnit :=
  (List.range 48).flatMap (fun g => (List.range 5).map (DevUnit.core g)) ++ (List.range 16).flatMap (fun r => (List.range 33).map (DevUnit.channel r)) ++
  (List.range 24).map DevUnit.port ++ (List.range 8).map DevUnit.scm ++ (List.range 48).map DevUnit.slice

/-- The enabled set. -/
def NonVolatile.enabled (nv : NonVolatile) : List DevUnit := allUnits.filter (fun u => !nv.excluded u)

/-- The fuse state: key digests, which are revoked, secver, and the enabled set by unit ids (notes/assumptions/33.md). -/
def NonVolatile.fuseBytes (nv : NonVolatile) : List Byte :=
  nv.keys.flatMap (fun k => leBytes 32 k.1.toNat ++ leBytes 1 (if k.2 then 1 else 0)) ++ [nv.secver] ++ nv.enabled.flatMap (fun u => leBytes 2 (unitId u))

/-- Measurements 1 to 5: the ROM, the images of kinds 1 to 3, the fuse state. -/
def NonVolatile.measurements (nv : NonVolatile) : List (BitVec 256) :=
  [Config.romDigest] ++ [1, 2, 3].map (fun k => match nv.verify k with | .ok f => Config.sha3 f.image | .error _ => 0#256) ++ [Config.sha3 nv.fuseBytes]

/-- What the responder has to say. -/
def NonVolatile.spdmFacts (nv : NonVolatile) : SpdmFacts :=
  { hash := .sha3_256, signature := .mlDsa44, slot0 := Config.certChain, measurements := nv.measurements }

/-- SPDM_MSG, the only opcode of the secondary mailbox: it carries one SPDM message each way. -/
def opSpdmMsg : Nat := 0xC010
def secondaryMailbox (op : Nat) (s : State) (f : State → State) : Out := .next (if s.usable && op == opSpdmMsg then f s else s)

/-- A supported SPDM request is answered. -/
def spdmAnswer (msg : List Byte) (s : State) : Out :=
  secondaryMailbox opSpdmMsg s fun s => { s with spdm := some (Config.spdmResponse msg s.nv.spdmFacts s.free), free := s.free + 1 }

def execGetVersion (msg : List Byte) (s : State) : Out := spdmAnswer msg s
def execGetCapabilities (msg : List Byte) (s : State) : Out := spdmAnswer msg s
def execNegotiateAlgorithms (msg : List Byte) (s : State) : Out := spdmAnswer msg s
def execGetDigests (msg : List Byte) (s : State) : Out := spdmAnswer msg s
def execGetCertificate (msg : List Byte) (s : State) : Out := spdmAnswer msg s
def execChallenge (msg : List Byte) (s : State) : Out := spdmAnswer msg s
def execGetMeasurements (msg : List Byte) (s : State) : Out := spdmAnswer msg s

/-- ERROR with UnsupportedRequest, in the layout of SPDM 1.3 (notes/assumptions/33.md). -/
def execSpdmUnsupportedRequest (msg : List Byte) (s : State) : Out :=
  secondaryMailbox opSpdmMsg s fun s => { s with spdm := some [0x13#8, 0x7F#8, 0x07#8, msg.getD 1 0#8] }

end Sys2Proof.Machine
end

