-- ==== Sys2Proof/Machine/Fabric.lean ====
section
/-! DEFINITION. The fabric ports and their links: training, HELLO, ACK, NAK, replay; the flits of span reductions; the form of
Comet's; members without a route (12_engines R271, R277; 14_host_fabric R309 to R311; 18 R359; 21_recovery R411). -/

namespace Sys2Proof.Machine

/-! ### The ports (14 R311) -/

/-- Signal on all 8 lanes. -/
def execPortSignalDetect (p : Nat) (s : State) : Out :=
  .next (if s.fabricOn && decide (p < 24) && (s.portAt p).state == 0 && !(s.portAt p).retired then s.portTo p 1 else s)

/-- Lanes locked with FEC: the port enters HELLO and sends its HELLO flit. -/
def execPortLanesLocked (p : Nat) (s : State) : Out :=
  .next (if s.fabricOn && decide (p < 24) && (s.portAt p).state == 1 then s.portHello p else s)

def execPortTrainTimeout (p : Nat) (s : State) : Out :=
  .next (if s.fabricOn && decide (p < 24) && (s.portAt p).state == 1 && decide (2 ^ 24 ≤ (s.portAt p).age) then s.portTo p 0 else s)

def execPortSignalLoss (p : Nat) (s : State) : Out :=
  .next (if s.fabricOn && decide (p < 24) && (s.portAt p).state == 3 then s.portDown p 0 else s)

/-- The flits that no link carried leave on a port that has come UP. -/
def State.flushOut (s : State) (p : Nat) : State :=
  (s.outbox.filter (fun f => f.port == noPort)).foldl (fun s f => s.sendOn p f) { s with outbox := s.outbox.filter (fun f => f.port != noPort) }

/-! ### HELLO (14 R311; 21 R411) -/

/-- What a HELLO payload says: the peer's highest versions, whether it has joined, its port, span id and span.index. -/
structure HelloInfo where
  fver : BitVec 8
  tver : BitVec 8
  joined : Bool
  port : BitVec 8
  span : BitVec 32
  index : BitVec 16
  deriving DecidableEq, Repr

def helloInfo (f : Flit) : HelloInfo :=
  ⟨BitVec.ofNat 8 (payAt f.payload 0 1), BitVec.ofNat 8 (payAt f.payload 1 1), payAt f.payload 2 1 == 1, BitVec.ofNat 8 (payAt f.payload 3 1),
    BitVec.ofNat 32 (payAt f.payload 4 4), BitVec.ofNat 16 (payAt f.payload 8 2)⟩

def leastVer (a b : BitVec 8) : BitVec 8 := if b.toNat < a.toNat then b else a

/-- A lost member whose HELLO says that it is not joined has left the span: its next SPAN_JOIN counts. -/
def State.heardLeave (s : State) (q : Port) (h : HelloInfo) : State :=
  if !h.joined && q.peerSpan == s.span.id && s.span.lost.contains q.peerIndex.toNat then
    { s with span := { s.span with lost := s.span.lost.filter (fun m => m != q.peerIndex.toNat) } }
  else s

/-! ### Numbers, ACK and NAK (14 R310) -/

/-- A port that takes flits and answers them: one in HELLO or UP. A FOREIGN port carries HELLO flits alone, and so no NAK. -/
def State.portHears (s : State) (p : Nat) : Bool := s.fabricOn && decide (p < 24) && ((s.portAt p).state == 2 || (s.portAt p).state == 3)

/-- A flit with a CRC error is answered with a NAK, and the port's score rises (14 R310; 20 R389). -/
def State.crcNak (s : State) (p : Nat) : State := (s.sendNak p).charge (.port p) .flitNak

/-- A flit of traffic arrives: it acts on a link that is UP, once its CRC is checked. -/
def checkedIn (fl : Flit) (s : State) (f : State → State) : Out :=
  .next (
    if !s.portHears fl.port then s
    else if !crcOk fl then s.crcNak fl.port
    else if s.linkUp fl.port then f s
    else s)

/-- A numbered flit arrives: `f` acts on it if it is the next in order. -/
def linkIn (fl : Flit) (s : State) (f : State → State) : Out := checkedIn fl s fun s => s.inOrder ⟨fl.port, fl.seq⟩ 1 f

/-- An ACK: the flits up to its number need no replay. -/
def execAck (f : Flit) (s : State) : Out :=
  checkedIn f s fun s => let q := s.portAt f.port; s.putPort f.port { q with unacked := q.unacked.filter (fun x => seqBefore f.seq x.seq) }

/-- A NAK with the number that the peer expects: what lies before it has arrived, the rest is replayed. The 16th NAK of one
number takes the port DOWN. -/
def State.replayFrom (s : State) (f : Flit) : State :=
  let q := s.portAt f.port
  let n := if q.nakSeq = f.seq ∧ q.naks ≠ 0 then q.naks + 1 else 1
  let left := q.unacked.filter (fun x => x.seq == f.seq || seqBefore f.seq x.seq)
  let s1 := s.putPort f.port { q with unacked := left, nakSeq := f.seq, naks := n }
  if 16 ≤ n then s1.portDown f.port 0
  else { s1 with outbox := s1.outbox ++ left }.count (f.port / 6) 0x0E left.length

/-- At a port in HELLO the one flit sent is its HELLO, which goes again. -/
def execNak (f : Flit) (s : State) : Out :=
  .next (
    if !s.portHears f.port then s
    else if !crcOk f then s.crcNak f.port
    else if s.linkUp f.port then s.replayFrom f
    else s.linkFlit f.port 1 0#16 (s.helloPayload f.port))

/-- A HELLO flit at a port in HELLO, or at a FOREIGN one, which answers with its own: the versions are negotiated, and the port
is UP with equal span ids and both sides joined. A lost member's HELLO counts as one of another span. A HELLO with a CRC error
is answered with a NAK, which a FOREIGN port does not send (notes/assumptions/77.md). -/
def execHello (f : Flit) (s : State) : Out :=
  .next (
    let st := (s.portAt f.port).state
    if !s.portHears f.port && (!s.fabricOn || decide (24 ≤ f.port) || st != 4) then s
    else if !crcOk f then (if st = 4 then s else s.crcNak f.port)
    else if st = 3 then s
    else
      let h := helloInfo f
      let s1 := (if st = 4 then s.portHello f.port else s).heardLeave (s.portAt f.port) h
      let q := s1.portAt f.port
      let s2 := s1.putPort f.port { q with fver := leastVer Config.fabricVersion h.fver, tver := leastVer Config.tetherVersion h.tver
                                           peerSpan := h.span, peerIndex := h.index, peerPort := h.port }
      if s2.span.joined && h.joined && h.span == s2.span.id && !s2.span.lost.contains h.index.toNat then (s2.portTo f.port 3).flushOut f.port
      else s2.portTo f.port 4)

/-- A flit whose CRC is wrong, whatever its kind. -/
def execFlitCrcError (f : Flit) (s : State) : Out := checkedIn f s id

/-- The kinds that R309 assigns. -/
def flitKinds : List Nat := [0x00, 0x01, 0x02, 0x03, 0x10, 0x11, 0x12, 0x20, 0x21, 0x30, 0x31, 0x32, 0x40]

/-- A flit of unassigned kind is discarded, and a NAK sent. -/
def execFlitUnassigned (f : Flit) (s : State) : Out :=
  checkedIn f s fun s => if flitKinds.contains f.kind.toNat then s else s.sendNak f.port

/-- Write, read request and read response flits: taken in order and acknowledged. The manual gives these kinds no further
effect on the package that receives them (notes/assumptions/25.md). -/
def execFlitWrite (f : Flit) (s : State) : Out := linkIn f s id
def execFlitReadRequest (f : Flit) (s : State) : Out := linkIn f s id
def execFlitReadResponse (f : Flit) (s : State) : Out := linkIn f s id

/-! ### Span reductions (12 R271; 18 R359) -/

/-- The command that a contribution flit speaks of, or the node whose value it carries (notes/assumptions/24.md). -/
def nodeOf (p : List Byte) : SpanNode :=
  { group := BitVec.ofNat 16 (payAt p 0 2), k := payAt p 2 4, member := payAt p 6 2, logc := payAt p 8 1, op := BitVec.ofNat 3 (payAt p 9 1)
    arrival := payAt p 10 1 == 1, ok := payAt p 11 1 == 1, cbase := payAt p 12 4, logb := payAt p 16 1, count := payAt p 20 4 }

/-- The destination element and value that a contribution or result flit carries, if it carries one. -/
def nodeValue (p : List Byte) : Option (Nat × Word) := if payAt p 17 1 = 0 then none else some (payAt p 24 4, BitVec.ofNat 64 (payAt p 28 8))

/-- Two commands of one member in one reduction. -/
def sameNode (a b : SpanNode) : Bool := a.group == b.group && a.k == b.k && a.member == b.member

/-- A member's command becomes known; or its later report that it was aborted. -/
def State.contribute (s : State) (n : SpanNode) : State :=
  (match s.spanNodes.find? (sameNode n) with
   | some _ => { s with spanNodes := s.spanNodes.map (fun x => if sameNode n x then { x with ok := x.ok && n.ok } else x) }
   | none => { s with spanNodes := s.spanNodes ++ [n] }).closeReduction n.group n.k

/-- A value of a member's node arrives. -/
def State.contributeValue (s : State) (n : SpanNode) (v : Nat × Word) : State :=
  { s with spanVals := s.spanVals ++ [SpanVal.mk n.group n.k n.member n.cbase n.logb v.1 v.2] }.closeReduction n.group n.k

def execXredContribution (f : Flit) (s : State) : Out := linkIn f s fun s =>
  match nodeValue f.payload with
  | none => s.contribute (nodeOf f.payload)
  | some v => s.contributeValue (nodeOf f.payload) v

/-- One root value from the root holder. -/
def execXredResult (f : Flit) (s : State) : Out :=
  linkIn f s fun s =>
    let n := nodeOf f.payload
    match nodeValue f.payload with
    | none => s
    | some v => { s with commands := s.commands.map (fun m =>
        if m.isSpan && m.group == n.group && m.spanK == n.k && m.formed && !m.rootFail && m.root.all (fun u => u.1 != v.1) then { m with root := m.root ++ [v] } else m) }

/-! ### Comet shards (12 R277) -/

/-- Bytes of a shard that one flit carries, and the parts of a shard. -/
def shardPart : Nat := 48
def shardParts : Nat := (4096 + shardPart - 1) / shardPart

/-- The payload of a shard flit, in the model's own order (notes/assumptions/24.md). -/
def shardPayload (step : BitVec 32) (kind index part : Nat) (valid : Bool) (record : Nat) (data : List Byte) : List Byte :=
  leBytes 4 step.toNat ++ leBytes 1 kind ++ leBytes 1 (if valid then 1 else 0) ++ leBytes 1 part ++ leBytes 1 record ++ leBytes 8 index ++
  padTo shardPart ((data.drop (shardPart * part)).take shardPart)

/-- A shard sent to another member, with the state of the sender's record of its step. -/
def State.sendShard (s : State) (dst : Nat) (step : BitVec 32) (kind index record : Nat) (data : List Byte) : State :=
  (List.range shardParts).foldl (fun s p => s.send 0x40 dst 0#32 (shardPayload step kind index p true record data)) s
/-- The answer of a member that has no such shard to send. -/
def State.sendNoShard (s : State) (dst : Nat) (step : BitVec 32) (kind index record : Nat) : State :=
  s.send 0x40 dst 0#32 (shardPayload step kind index 0 false record [])
/-- A shard of a member's own slot is asked for, or with kind 6 its record alone. -/
def State.askShard (s : State) (dst : Nat) (step : BitVec 32) (kind index : Nat) : State :=
  s.send 0x40 dst 0#32 (leBytes 4 step.toNat ++ leBytes 1 5 ++ leBytes 2 0 ++ leBytes 1 kind ++ leBytes 8 index ++ leBytes 48 0)

/-- Bytes of a list replaced from an offset on. -/
def putBytes (l : List Byte) (off : Nat) (b : List Byte) : List Byte := (l.take off ++ b ++ l.drop (off + b.length)).take l.length

/-! ### Members without a route (14 R310; 21 R411) -/

/-- Another member of the span. -/
def State.otherMember (s : State) (m : Nat) : Bool := s.span.joined && decide (m < s.span.count.toNat) && m != s.span.index.toNat

/-- No route reaches a member: event 0x09, and the count of R411 begins. -/
def execRouteLost (m : Nat) (s : State) : Out :=
  .next (
    if !s.fabricOn || !s.otherMember m || s.span.lost.contains m || s.span.noRoute.any (fun p => p.1 == m) then s
    else { s with span := { s.span with noRoute := s.span.noRoute ++ [(m, 0)] } }.raise 9 0 m 0 m)

/-- A member that becomes reachable before the count ends is not declared lost. -/
def execMemberReachable (m : Nat) (s : State) : Out :=
  .next { s with span := { s.span with noRoute := s.span.noRoute.filter (fun p => p.1 != m) } }

/-- Home package of a Tether line. -/
def lineHome (line : Nat) : Nat := line / 2 ^ 18

/-- A member without a route for 2^24 management cycles is lost: event 0x0C; span reductions in flight end ABORTED, from wherever
they have come to (notes/assumptions/61.md); copies of lines homed there go without write-back and requests to them fail; Comet's capture is abandoned and Comet suspends. -/
def execMemberLost (m : Nat) (s : State) : Out :=
  .next (
    if !s.fabricOn || !s.span.noRoute.any (fun p => p.1 == m && decide (2 ^ 24 ≤ p.2)) then s
    else
      let s1 := { s with span := { s.span with noRoute := s.span.noRoute.filter (fun p => p.1 != m), lost := natInsert m s.span.lost }
                         commands := s.commands.map (fun (x : Command) => if x.isSpan then { x with formed := true, rootFail := true } else x)
                         slices := s.slices.filter (fun x => lineHome x.line != m)
                         treqs := s.treqs.map (fun (q : TReq) => if lineHome q.line = m ∧ q.st = TReqState.waiting then { q with st := .failed } else q) }
      ((s1.raise 0x0C 0 m 0 0).cometAbandon 2).cometSuspend)

end Sys2Proof.Machine
end

