-- ==== Sys2Proof/Machine/Tether.lean ====
section
/-! DEFINITION. The Tether directory and the cache slices: requests, grants, snoops, write-backs, replacements, time-outs,
revokes and guards (14_host_fabric R313 to R316; 17_fault_model R344; 21_recovery R411, R418). -/

namespace Sys2Proof.Machine

/-! ### Directory entries -/

/-- The directory entry and home copy of a line: UNCACHED and zero where none is listed. -/
def State.homeLine (s : State) (line : Nat) : HomeLine := (s.home.find? (fun h => h.line == line)).getD ⟨line, .uncached, 0#512⟩
def State.putHome (s : State) (h : HomeLine) : State :=
  { s with home := if h.dir = .uncached ∧ h.value = 0#512 then s.home.filter (fun x => x.line != h.line) else upsert (fun x => x.line == h.line) h s.home }
/-- Whether this package is a line's home. -/
def State.homedHere (s : State) (line : Nat) : Bool := s.span.joined && lineHome line == s.span.index.toNat
/-- A slice of the span: package · 64 + gang. -/
def sliceOf (pkg gang : Nat) : Nat := 64 * pkg + gang
def State.mySlice (s : State) (slice : Nat) : Bool := slice / 64 == s.span.index.toNat
def State.dropSlice (s : State) (gang line : Nat) : State := { s with slices := s.slices.filter (fun x => !(x.gang == gang && x.line == line)) }

/-! ### Answers to a requester (14 R314) -/

/-- What the home answers: a copy in a state, a refusal with OWNER_LOST, or the old value of an atomic or claim. -/
inductive TAnswer where
  | copy (st : Mesi) (data : BitVec 512)
  | refused
  | old (v : Word)
  deriving DecidableEq, Repr

/-- What the first flit of a Tether response says, in the model's own order, and the line that a second one carries
(notes/assumptions/24.md). -/
def answerHead (line gang : Nat) (a : TAnswer) : List Byte :=
  let code := match a with | .copy .s _ => 0 | .copy .e _ => 1 | .copy .m _ => 2 | .refused => 3 | .old _ => 4
  let old := match a with | .old v => v.toNat | _ => 0
  leBytes 8 line ++ leBytes 1 gang ++ leBytes 1 code ++ leBytes 6 0 ++ leBytes 8 old
def TAnswer.data : TAnswer → Option (BitVec 512)
  | .copy _ d => some d
  | _ => none

/-- A message of a slice about a line: 5 a snoop's answer without data, 6 one with data, 7 a replacement. -/
def sliceHead (line gang code : Nat) : List Byte := leBytes 8 line ++ leBytes 1 gang ++ leBytes 1 code
/-- Flits of a message, with or without a line of data. -/
def dataFlits (data : Option (BitVec 512)) : Nat := if data.isSome then 2 else 1

/-- A waiting request of this package takes its answer; a late one finds none (17 R344). -/
def State.takeAnswer (s : State) (line gang : Nat) (tag : BitVec 32) (a : TAnswer) : State :=
  match s.treqs.find? (fun q => q.tag == tag && q.gang == gang && q.line == line && q.st == .waiting) with
  | none => s
  | some q =>
    let put (st : TReqState) (s : State) : State := { s with treqs := s.treqs.map (fun (x : TReq) => if x.tag == tag then { x with st := st } else x) }
    match q.kind, a with
    | _, .refused => put .refused s
    | .atomic _ _ _ _ _, .old v => put (.answered v) s
    | .claim, .old v => put (.answered v) s
    | .read, .copy st d => put .granted (s.putSlice ⟨gang, line, st, d⟩)
    | .own, .copy .m d => put .granted (s.putSlice ⟨gang, line, .m, d⟩)
    | _, _ => s

/-- The home's answer: to a slice of this package at once, to another package as a flit. -/
def State.answerSlice (s : State) (line slice : Nat) (tag : BitVec 32) (a : TAnswer) : State :=
  if s.mySlice slice then s.takeAnswer line (slice % 64) tag a else s.sendData 0x32 (slice / 64) tag (answerHead line (slice % 64) a) a.data

/-! ### Serving a request (14 R314 to R316; 08 R166, R185) -/

/-- The slices that the directory counts as holding a line, in any state. -/
def DirState.holders : DirState → List Nat
  | .shared l => l
  | .exclusive o => [o]
  | _ => []

/-- Whether a snoop for a request invalidates. -/
def TReqKind.invalidates : TReqKind → Bool
  | .read => false
  | _ => true

/-- A line becomes owner-lost: event 0x08 and a revoke to the owner (R418). A local owner's revoke is the event of that name. -/
def State.loseOwner (s : State) (line owner : Nat) : State :=
  let s1 := (s.putHome { s.homeLine line with dir := .ownerLost owner }).raise 8 0 (owner / 64) (s.span.base + 64 * line) (owner / 64)
  if s1.mySlice owner then s1 else s1.send 0x31 (owner / 64) 0#32 (leBytes 8 line ++ leBytes 1 (owner % 64) ++ leBytes 1 2)

/-- A snoop sent: to another package as a flit, to a local slice as the event of that name. -/
def State.sendSnoop (s : State) (line slice : Nat) (inval : Bool) : State :=
  if s.mySlice slice then s else s.send 0x31 (slice / 64) 0#32 (leBytes 8 line ++ leBytes 1 (slice % 64) ++ leBytes 1 (if inval then 1 else 0))

/-- The request whose snoops are answered takes its effect at the directory. -/
def State.finishRequest (s : State) (w : HomeWait) : State :=
  let h := s.homeLine w.line
  match w.kind with
  | .read =>
    (match h.dir with
     | .uncached => (s.putHome { h with dir := .exclusive w.slice }).answerSlice w.line w.slice w.tag (.copy .e h.value)
     | .shared l => (s.putHome { h with dir := .shared (natInsert w.slice l) }).answerSlice w.line w.slice w.tag (.copy .s h.value)
     | .exclusive o => (s.putHome { h with dir := .shared (natInsert w.slice [o]) }).answerSlice w.line w.slice w.tag (.copy .s h.value)
     | .ownerLost _ => s.answerSlice w.line w.slice w.tag .refused)
  | .own => (s.putHome { h with dir := .exclusive w.slice }).answerSlice w.line w.slice w.tag (.copy .m h.value)
  | .atomic off width op x cmp =>
    let old := lineBytes h.value off (width / 8)
    (s.putHome { h with dir := .uncached, value := patchLine h.value off (width / 8) (atomNew op width old x.toNat cmp.toNat) }).answerSlice
      w.line w.slice w.tag (.old (BitVec.ofNat 64 old))
  | .claim => s.answerSlice w.line w.slice w.tag (.old 0#64)

/-- The slices that a request must snoop first. -/
def snoopList (d : DirState) (k : TReqKind) (slice : Nat) : List Nat :=
  match k, d with
  | .claim, _ => []
  | .read, .shared _ => []
  | .own, .shared l => l.filter (fun o => o != slice)
  | _, d => d.holders

/-- The directory begins a request: none where it is answered at once, else the request with the slices it has snooped. -/
def State.beginRequest (s : State) (w : HomeWait) : State × Option HomeWait :=
  let h := s.homeLine w.line
  match h.dir with
  | .ownerLost _ =>
    if w.kind = .claim then ((s.putHome { h with dir := .uncached }).answerSlice w.line w.slice w.tag (.old 1#64), none)
    else (s.answerSlice w.line w.slice w.tag .refused, none)
  | d =>
    let l := snoopList d w.kind w.slice
    let gone := l.find? (fun o => s.span.lost.contains (o / 64))
    match d, gone with
    | .exclusive o, some _ => ((s.loseOwner w.line o).answerSlice w.line w.slice w.tag .refused, none)
    | _, _ =>
      if l.isEmpty then (s.finishRequest w, none)
      else (l.foldl (fun s o => s.sendSnoop w.line o w.kind.invalidates) s, some { w with begun := true, snooped := l, age := 0 })

/-- The line's requests are taken up in their order until one waits. -/
def State.pumpLine (s : State) (line : Nat) : Nat → State
  | 0 => s
  | fuel + 1 =>
    match s.homeWaits.find? (fun w => w.line == line) with
    | none => s
    | some w =>
      if w.begun then s
      else
        let others := s.homeWaits.filter (fun x => !(x.slice == w.slice && x.tag == w.tag))
        match s.beginRequest w with
        | (s1, none) => { s1 with homeWaits := others }.pumpLine line fuel
        | (s1, some w1) => { s1 with homeWaits := s1.homeWaits.map (fun x => if x.slice == w.slice && x.tag == w.tag then w1 else x) }

/-- A waiting request is over. -/
def State.endRequest (s : State) (w : HomeWait) : State :=
  { s with homeWaits := s.homeWaits.filter (fun x => !(x.slice == w.slice && x.tag == w.tag)) }.pumpLine w.line (s.homeWaits.length + 1)

/-- A request that the directory takes up; one that waits already is not taken twice. -/
def State.enterRequest (s : State) (w : HomeWait) : State :=
  if !s.homedHere w.line || s.homeWaits.any (fun x => x.slice == w.slice && x.tag == w.tag) then s
  else
    let s1 := { s with homeWaits := s.homeWaits ++ [w] }
    s1.pumpLine w.line (s1.homeWaits.length + 1)

/-- A request reaches the home. One of this package is one that a team has sent; one of another member arrives on a port. -/
def State.homeRequest (s : State) (line pkg gang : Nat) (tag : BitVec 32) (kind : TReqKind) (link : Link) : State :=
  let w : HomeWait := { line := line, slice := sliceOf pkg gang, tag := tag, kind := kind, snooped := [] }
  if 48 ≤ gang then s
  else if pkg = s.span.index.toNat then
    (if s.treqs.any (fun q => q.tag == tag && q.gang == gang && q.line == line && q.kind == kind && q.st == .waiting) then s.enterRequest w else s)
  else s.inOrder link 1 fun s => if s.otherMember pkg && !s.span.lost.contains pkg then s.enterRequest w else s

def execTetherReadRequest (line pkg gang : Nat) (tag : BitVec 32) (link : Link) (s : State) : Out :=
  .next (if s.fabricOn then s.homeRequest line pkg gang tag .read link else s)
def execTetherOwnershipRequest (line pkg gang : Nat) (tag : BitVec 32) (link : Link) (s : State) : Out :=
  .next (if s.fabricOn then s.homeRequest line pkg gang tag .own link else s)
/-- SATOM's request, or TCLAIM's. -/
def execTetherAtomicRequest (line pkg gang : Nat) (tag : BitVec 32) (off : BitVec 6) (size : ScalarSize) (op : AtomOp) (operand cmp : Word)
    (claim : Bool) (link : Link) (s : State) : Out :=
  .next (
    if s.fabricOn && (claim || off.toNat % sizeBytes size == 0) then
      s.homeRequest line pkg gang tag (if claim then .claim else .atomic off.toNat (8 * sizeBytes size) op operand cmp) link
    else s)

/-- Flits of a home's answer: a copy comes with its data, a refusal or an old value without. The answer to a request that no team waits
for any more is as long as its last number says. -/
def State.grantFlits (s : State) (tag : BitVec 32) (refused : Bool) (l : Link) : Nat :=
  if refused then 1
  else match s.treqs.find? (fun q => q.tag == tag) with
  | some q => (match q.kind with | .atomic _ _ _ _ _ | .claim => 1 | _ => 2)
  | none => if l.seq = (s.portAt l.port).rxSeq then 1 else 2

/-- An answer of another package's home arrives. -/
def execTetherGrant (line gang : Nat) (tag : BitVec 32) (excl modified refused : Bool) (data : BitVec 512) (old : Word) (link : Link) (s : State) : Out :=
  .next (s.inOrder link (s.grantFlits tag refused link) fun s =>
    if s.homedHere line then s
    else match s.treqs.find? (fun q => q.tag == tag) with
    | none => s
    | some q =>
      s.takeAnswer line gang tag (
        if refused then .refused
        else match q.kind with
        | .atomic _ _ _ _ _ | .claim => .old old
        | _ => .copy (if modified then .m else if excl then .e else .s) data))

/-! ### Snoops and write-backs (14 R314, R316) -/

/-- What a slice does with a snoop: the data that it writes back, and its copy after. -/
def State.snoopSlice (s : State) (gang line : Nat) (inval : Bool) : State × Option (BitVec 512) :=
  match s.sliceCopy gang line with
  | none => (s, none)
  | some x => (if inval then s.dropSlice gang line else s.putSlice { x with st := .s }, if x.st = .m then some x.value else none)

/-- A snoop's answer reaches the home: the home copy takes the data of the owner; with the last answer the request goes on.
Late messages of a lost owner, and answers that no request waits for, are discarded. -/
def State.homeAnswer (s : State) (line slice : Nat) (data : Option (BitVec 512)) : State :=
  let h := s.homeLine line
  let s1 := match h.dir, data with
    | .exclusive o, some d => if o = slice then s.putHome { h with value := d } else s
    | _, _ => s
  match s1.homeWaits.find? (fun w => w.line == line && w.begun && w.snooped.contains slice) with
  | some w =>
    let left := w.snooped.filter (fun o => o != slice)
    if left.isEmpty then (s1.finishRequest w).endRequest w
    else { s1 with homeWaits := s1.homeWaits.map (fun x => if x.slice == w.slice && x.tag == w.tag then { x with snooped := left } else x) }
  | none =>
    match h.dir, data with
    | .exclusive o, some d => if o = slice then s1.putHome { h with value := d, dir := .uncached } else s1
    | _, _ => s1

/-- A snoop reaches a slice of this package: from the local home, which answers for it at once, or from another package. -/
def execTetherSnoop (line gang : Nat) (inval : Bool) (link : Link) (s : State) : Out :=
  .next (
    if !s.fabricOn then s
    else if s.homedHere line then
      (let slice := sliceOf s.span.index.toNat gang
       match s.homeWaits.find? (fun w => w.line == line && w.begun && w.snooped.contains slice) with
       | none => s
       | some w =>
         if w.kind.invalidates != inval then s
         else
           let (s1, d) := s.snoopSlice gang line inval
           s1.homeAnswer line slice d)
    else s.inOrder link 1 fun s =>
      let (s1, d) := s.snoopSlice gang line inval
      s1.sendData 0x32 (lineHome line) 0#32 (sliceHead line gang (if d.isSome then 6 else 5)) d)

/-- A snoop's answer or a write-back of another package's slice arrives at the home. -/
def execTetherWriteBack (line pkg gang : Nat) (data : Option (BitVec 512)) (link : Link) (s : State) : Out :=
  .next (s.inOrder link (dataFlits data) fun s =>
    if s.homedHere line && s.otherMember pkg && decide (gang < 48) then s.homeAnswer line (sliceOf pkg gang) data else s)

/-- A slice replaces a line: an M copy is written back, an E or S copy goes silently. -/
def execTetherReplacement (line gang : Nat) (s : State) : Out :=
  .next (match s.sliceCopy gang line with
    | none => s
    | some x =>
      let s1 := s.dropSlice gang line
      if !s.fabricOn then s
      else if x.st ≠ .m then s1
      else if s1.homedHere line then
        (let slice := sliceOf s1.span.index.toNat gang
         let h := s1.homeLine line
         if h.dir ≠ .exclusive slice then s1
         else if s1.homeWaits.any (fun w => w.line == line && w.begun && w.snooped.contains slice) then s1.homeAnswer line slice (some x.value)
         else s1.putHome { h with value := x.value, dir := .uncached })
      else s1.sendData 0x32 (lineHome line) 0#32 (sliceHead line gang 7) (some x.value))

/-! ### Time-outs, revokes and guards (14 R316; 17 R344; 21 R418) -/

/-- Whether a begun request of a line has waited the whole time for its snoops. -/
def State.snoopLate (s : State) (line : Nat) : Option HomeWait :=
  s.homeWaits.find? (fun w => w.line == line && w.begun && decide (2 ^ 20 ≤ w.age))

/-- The directory after silence: silent sharers leave the set, and their copies, which count as invalid,
are gone where they are of this package; an owner's silence makes the line owner-lost. -/
def State.silence (s : State) (w : HomeWait) : State :=
  let h := s.homeLine w.line
  match h.dir with
  | .exclusive o => s.loseOwner w.line o
  | .shared l =>
    let s1 := s.putHome { h with dir := .shared (l.filter (fun o => !w.snooped.contains o)) }
    { s1 with slices := s1.slices.filter (fun x => !(x.line == w.line && w.snooped.contains (sliceOf s.span.index.toNat x.gang))) }
  | _ => s

/-- No answer within 2^20 home-slice cycles: an owner-lost line refuses the request, else the request goes on. -/
def execTetherSnoopTimeout (line : Nat) (s : State) : Out :=
  .next (match (if s.fabricOn then s.snoopLate line else none) with
    | none => s
    | some w =>
      let s1 := s.silence w
      match (s1.homeLine line).dir with
      | .ownerLost _ => (s1.answerSlice line w.slice w.tag .refused).endRequest w
      | _ => (s1.finishRequest w).endRequest w)

/-- A revoke reaches a slice: it drops its copy without write-back. From the local home it concerns a copy that the directory no
longer counts. -/
def execTetherRevoke (line gang : Nat) (link : Link) (s : State) : Out :=
  .next (
    if s.homedHere line then
      (match s.sliceCopy gang line with
       | none => s
       | some x => if x.st = .s ∨ (s.homeLine line).dir = .exclusive (sliceOf s.span.index.toNat gang) then s else s.dropSlice gang line)
    else s.inOrder link 1 (fun s => s.dropSlice gang line))

/-- A Tether request without an answer for 2^24 core cycles fails with UNCORRECTABLE. -/
def execRequestGuardExpiry (r : TeamRef) (s : State) : Out :=
  .next { s with treqs := s.treqs.map (fun (q : TReq) => if q.team = r ∧ q.st = .waiting ∧ 2 ^ 24 ≤ q.age then { q with st := .failed } else q) }

/-- Whether a requester has gone silent: its package is out of reach, or its team waits no longer. -/
def State.requesterSilent (s : State) (w : HomeWait) : Bool :=
  if s.mySlice w.slice then !s.treqs.any (fun q => q.tag == w.tag && q.st == .waiting)
  else s.span.lost.contains (w.slice / 64) || s.span.noRoute.any (fun p => p.1 == w.slice / 64)

/-- The home abandons the transaction of a silent requester after 2^20 home-slice cycles. -/
def execHomeGuardExpiry (line : Nat) (s : State) : Out :=
  .next (match (if s.fabricOn then s.snoopLate line else none) with
    | none => s
    | some w => if s.requesterSilent w then (s.silence w).endRequest w else s)

end Sys2Proof.Machine
end

