-- ==== Sys2Proof/Machine/CometImage.lean ====
section
/-! DEFINITION. Comet's data: tracked granules, image units, the directory, parity over GF(2^8), step records, and the accepted
writes that carry them to SCM (12_engines R275 to R278; 21_recovery R403 to R405). -/

namespace Sys2Proof.Machine

/-! ### GF(2^8) with polynomial 0x11D and generator 2 (12 R277) -/

def gfDouble (x : Nat) : Nat := if x < 128 then 2 * x else (2 * x - 256) ^^^ 0x1D
def gfMulBits (a b : Nat) : Nat → Nat
  | 0 => 0
  | k + 1 => (if b % 2 = 1 then a else 0) ^^^ gfMulBits (gfDouble a) (b / 2) k
def gfMul (a b : Nat) : Nat := gfMulBits a b 8
def gfPow (a : Nat) : Nat → Nat
  | 0 => 1
  | n + 1 => gfMul a (gfPow a n)
def gfInv (a : Nat) : Nat := gfPow a 254
/-- g^d. -/
def gfGen (d : Nat) : Nat := gfPow 2 d

def xorBytes (a b : List Byte) : List Byte := List.zipWith (fun x y => x ^^^ y) a b
def scaleBytes (c : Nat) (a : List Byte) : List Byte := a.map (fun x => BitVec.ofNat 8 (gfMul c x.toNat))
def zeroUnit : List Byte := List.replicate 4096 0#8
/-- P and Q of the data shards of a stripe, in their order. -/
def parityP (ds : List (List Byte)) : List Byte := ds.foldl xorBytes zeroUnit
def parityQ (ds : List (List Byte)) : List Byte := ds.zipIdx.foldl (fun a p => xorBytes a (scaleBytes (gfGen p.2) p.1)) zeroUnit

/-- Data shards with the missing ones solved from P and Q, where those that remain suffice: any 8 of the 10. -/
def solveStripe (ds : List (Option (List Byte))) (p q : Option (List Byte)) : Option (List (List Byte)) :=
  let have_ := ds.map (fun d => d.getD zeroUnit)
  match (ds.zipIdx.filter (fun d => d.1.isNone)).map (·.2), p, q with
  | [], _, _ => some have_
  | [a], some p, _ => some (have_.set a (xorBytes p (parityP have_)))
  | [a], none, some q => some (have_.set a (scaleBytes (gfInv (gfGen a)) (xorBytes q (parityQ have_))))
  | [a, b], some p, some q =>
    let x := xorBytes p (parityP have_)
    let y := xorBytes q (parityQ have_)
    let da := scaleBytes (gfInv (gfGen a ^^^ gfGen b)) (xorBytes (scaleBytes (gfGen b) x) y)
    some ((have_.set a da).set b (xorBytes x da))
  | _, _, _ => none

/-! ### Bytes of SCM (12 R278; 21 R403) -/

/-- One whole line accepted by its die's Ballast queue: a full queue drains a line first; a lost line is discarded. -/
def State.acceptLine (s : State) (pa : Nat) (d : BitVec 512) : State :=
  if s.isDead pa 64 then s
  else
    let s1 := if s.ballastRoom (paDie pa) then s else s.drainLine (paDie pa)
    ({ s1 with ballast := s1.ballast ++ [BLine.mk pa d] }).clearPoison pa 64
/-- Whole lines accepted from an aligned address on. -/
def State.acceptBytes (s : State) (pa : Nat) (b : List Byte) : State :=
  (List.range (b.length / 64)).foldl (fun s i => s.acceptLine (pa + 64 * i) (BitVec.ofNat 512 (bytesNat ((b.drop (64 * i)).take 64)))) s
/-- `n` bytes of memory as the device holds them. -/
def State.memBytes (s : State) (pa n : Nat) : List Byte := (List.range n).map (fun i => BitVec.ofNat 8 (s.physRead (pa + i) 1))
/-- The lines that hold some 4-byte words of a unit become poisoned. -/
def State.poisonLines (s : State) (pa : Nat) (ws : List Nat) : State := ws.foldl (fun s w => s.setPoison (pa + 4 * w / 64 * 64) 64) s

/-- First byte of image slot z. -/
def Comet.slotBase (k : Comet) (z : Nat) : Nat := k.base + 2 ^ 20 + 5120 * k.units * z
/-- Unit i of the slot of step n: data units, then P units, then Q units. -/
def Comet.unitAddr (k : Comet) (n : BitVec 32) (i : Nat) : Nat := k.slotBase (n.toNat % 2) + 4096 * i
def Comet.pUnit (k : Comet) (j : Nat) : Nat := k.units + j
def Comet.qUnit (k : Comet) (j : Nat) : Nat := k.units + k.units / 8 + j
def Comet.recordAddr (k : Comet) (n : BitVec 32) : Nat := k.base + 4096 * (n.toNat % 2)

/-! ### Tracked granules (12 R275) -/

/-- The 4 KiB granules of tracked pages, by device-physical and virtual address. -/
def State.trackedPages (s : State) : List Granule :=
  s.ranges.flatMap (fun r => (List.range (r.len / pageSize r.z)).flatMap (fun i =>
    let va := r.base + pageSize r.z * i
    let e := s.pte r va
    if pteV e && pteTracked e then (List.range (pageSize r.z / 4096)).map (fun j => Granule.page (pteFrame e + 4096 * j) (va + 4096 * j)) else []))

/-- The blocks of the tiles that launches of the set declare as tracked. -/
def State.trackedTiles (s : State) : List Granule :=
  s.crews.zipIdx.flatMap (fun p =>
    if p.1.state == CrewState.live && s.comet.tracked.contains p.1.launchId then
      (p.1.tiles.filter (fun t => t.tracked && !t.freed && t.copyOf == 0)).flatMap (fun t => (List.range (ceilDiv t.shape.size 4096)).map (fun j => Granule.tile p.2 t.uid j))
    else [])

def State.trackedGranules (s : State) : List Granule := s.trackedPages ++ s.trackedTiles

/-- A granule as it stands; none while its tile is in conversion. -/
def State.liveUnit (s : State) (g : Granule) : Option ImageUnit :=
  match g with
  | .page pa _ => some ⟨g, 0#32, 0#32, 0#8, 0#4, s.granuleBytes pa, s.poison.filter (fun w => decide (w / 1024 = pa / 4096))⟩
  | .tile k u j => match s.crewAt k, s.tileAt k u with
    | some c, some t =>
      if t.conv.isSome then none
      else some ⟨g, c.launchId, c.crewId, t.handle, t.layout, (List.range 1024).flatMap (fun i => leBytes 4 (cellGet t.words (1024 * j + i)).toNat),
        t.poison.filter (fun w => w / 1024 == j)⟩
    | _, _ => none

/-- Granules of the set that the capture has not yet taken: preserved ones first. -/
def State.uncaptured (s : State) : List Granule :=
  s.comet.preserved.map (fun p => p.unit.gran) ++
  s.trackedGranules.filter (fun g => !s.comet.captured.contains g && !s.comet.preserved.any (fun p => p.unit.gran == g))

/-! ### The image of a step (21 R404) -/

def dirEntry (u : ImageUnit) (unit : Nat) : List Byte :=
  match u.gran with
  | .page _ va => leBytes 8 1 ++ leBytes 8 va ++ leBytes 8 0 ++ leBytes 8 unit
  | .tile _ _ j => leBytes 8 2 ++ leBytes 4 u.launchId.toNat ++ leBytes 4 u.crewId.toNat ++ [u.handle] ++ leBytes 1 u.layout.toNat ++ leBytes 2 0 ++
      leBytes 4 j ++ leBytes 8 unit

/-- Directory units of an image of `count` granules. -/
def dirUnits (count : Nat) : Nat := ceilDiv count 128

/-- The data units of an image: its directory, then its granules in the order captured. -/
def imageUnits (img : List ImageUnit) : List (List Byte) :=
  let d := dirUnits img.length
  let dir := img.zipIdx.flatMap (fun p => dirEntry p.1 (d + p.2))
  (List.range d).map (fun i => padTo 4096 ((dir.drop (4096 * i)).take 4096)) ++ img.map (fun u => padTo 4096 u.data)

/-- A step record (21 R405). -/
structure StepRecord where
  state : Nat
  n : BitVec 32
  used : Nat
  udigest : BitVec 256
  deriving DecidableEq, Repr

def State.recordHead (s : State) (r : StepRecord) : List Byte :=
  leBytes 4 0x4D43434F ++ leBytes 2 1 ++ leBytes 1 r.state ++ leBytes 1 (r.n.toNat % 2) ++ leBytes 4 r.n.toNat ++ leBytes 4 s.span.id.toNat ++
  leBytes 2 s.span.count.toNat ++ leBytes 2 s.span.index.toNat ++ leBytes 2 s.span.group.toNat ++ leBytes 1 s.span.member ++ leBytes 1 0 ++
  leBytes 4 s.comet.units ++ leBytes 4 r.used ++ leBytes 32 r.udigest.toNat

/-- A record is written to the slot of its step. -/
def State.writeRecord (s : State) (r : StepRecord) : State :=
  let h := s.recordHead r
  s.acceptBytes (s.comet.recordAddr r.n) (padTo 4096 (h ++ leBytes 32 (Config.sha3 h).toNat))

/-- The valid record of slot z, if there is one. -/
def State.stepRecordAt (s : State) (z : Nat) : Option StepRecord :=
  let pa := s.comet.base + 4096 * z
  if !s.comet.configured || s.isDead pa 4096 || s.isPoisoned pa 96 then none
  else
    let b := s.memBytes pa 96
    let st := payAt b 6 1
    let n := payAt b 8 4
    if payAt b 0 4 = 0x4D43434F ∧ payAt b 4 2 = 1 ∧ payAt b 7 1 = z ∧ n % 2 = z ∧ (st = 1 ∨ st = 2) ∧ payAt b 64 32 = (Config.sha3 (b.take 64)).toNat ∧
       payAt b 20 2 = s.span.group.toNat ∧ payAt b 22 1 = s.span.member then
      some ⟨st, BitVec.ofNat 32 n, payAt b 28 4, BitVec.ofNat 256 (payAt b 32 32)⟩
    else none

/-- This package with its Comet area where an earlier COMET_CONFIG set it. -/
def State.inArea (s : State) (a : Nat × Nat) : State := { s with comet := { s.comet with base := a.1, units := a.2 } }

def State.validRecords (s : State) : List StepRecord := [0, 1].filterMap s.stepRecordAt

/-- The newest step of some records. -/
def newestStep (l : List StepRecord) : Option (BitVec 32) :=
  l.foldl (fun b r => match b with | none => some r.n | some n => if tagOlder n r.n then some r.n else some n) none
def State.newestCommitted (s : State) : Option (BitVec 32) := newestStep (s.validRecords.filter (fun r => r.state == 2))
def State.newestPrepared (s : State) : Option (BitVec 32) := newestStep (s.validRecords.filter (fun r => r.state == 1))

/-- The valid record of a step. -/
def State.recordOf (s : State) (n : BitVec 32) : Option StepRecord := s.validRecords.find? (fun r => r.n == n)

/-- The digest of data units 0 to used − 1 of a step's slot. -/
def State.unitsDigest (s : State) (n : BitVec 32) (used : Nat) : BitVec 256 := Config.sha3 (s.memBytes (s.comet.unitAddr n 0) (4096 * used))

/-! ### Erasure groups (12 R277) -/

/-- span.index of member m of this package's erasure group: groups are ten consecutive members (notes/assumptions/26.md). -/
def State.memberAt (s : State) (m : Nat) : Nat := s.span.index.toNat - s.span.member + m

/-- Stripe number t of this member's data shard d, P unit and Q unit. -/
def stripeOf (m d : Nat) : Nat := (m + 10 - d) % 10
/-- The shard at place i of stripe (r, t): its member, kind and unit index. Places 0 to 7 are data, 8 is P, 9 is Q. -/
def stripeShard (r t i : Nat) : Nat × Nat × Nat :=
  ((t + i) % 10, if i < 8 then (0, 8 * r + i) else if i = 8 then (1, r) else (2, r))

/-- A shard of a step that has come from another member. -/
def State.shardFrom (s : State) (n : BitVec 32) (p kind index : Nat) : Option Shard :=
  s.shards.find? (fun x => x.member == p && x.step == n && x.kind == kind && x.index == index)
/-- A shard of a step that another member has sent whole. -/
def State.sentShard (s : State) (n : BitVec 32) (m kind index : Nat) : Option (List Byte) :=
  match s.shardFrom n (s.memberAt m) kind index with
  | some x => if x.valid && x.parts.length == shardParts then some x.data else none
  | none => none

/-- The data shards of the stripe whose parity this member holds at place i. -/
def State.stripeData (s : State) (n : BitVec 32) (r i : Nat) : List (Option (List Byte)) :=
  let t := stripeOf s.span.member i
  (List.range 8).map (fun d => let x := stripeShard r t d; s.sentShard n x.1 x.2.1 x.2.2)

/-! ### The units that a member still holds (21 R405, R413; notes/assumptions/76.md) -/

/-- udigest agrees, as far as the units it covers are there to be read. -/
def State.digestHolds (s : State) (r : StepRecord) : Bool :=
  s.isDead (s.comet.unitAddr r.n 0) (4096 * r.used) || s.unitsDigest r.n r.used == r.udigest
/-- A unit of the slot of a step, whole under its record: a data unit that the image does not reach is zero. -/
def State.unitIn (s : State) (n : BitVec 32) (i : Nat) : Option (List Byte) :=
  match s.recordOf n with
  | none => none
  | some r =>
    let pa := s.comet.unitAddr n i
    if !s.digestHolds r then none
    else if r.used ≤ i ∧ i < s.comet.units then some zeroUnit
    else if s.isDead pa 4096 || s.isPoisoned pa 4096 then none
    else some (s.memBytes pa 4096)
/-- A unit that this member still holds intact, in its area or in an earlier one of the same size. -/
def State.intactUnit (s : State) (n : BitVec 32) (i : Nat) : Option (List Byte) :=
  ((s.comet.base, s.comet.units) :: s.comet.earlier.filter (fun a => a.2 == s.comet.units)).findSome? (fun a => (s.inArea a).unitIn n i)
/-- What this member's record of a step says, in its area or in an earlier one: 0 with no valid record, 1 prepared, 2 committed. -/
def State.recordState (s : State) (n : BitVec 32) : Nat :=
  (((s.comet.base, s.comet.units) :: s.comet.earlier).filterMap (fun a => (s.inArea a).recordOf n)).foldl (fun b r => max b r.state) 0
/-- Unit number of a shard in its member's slot. -/
def Comet.shardUnit (k : Comet) (kind index : Nat) : Nat := if kind = 0 then index else if kind = 1 then k.pUnit index else k.qUnit index

/-- A member that is asked for a shard of its slot sends it, or says that it has none. -/
def State.serveShard (s : State) (src : Nat) (n : BitVec 32) (kind index : Nat) : State :=
  let none_ := s.sendNoShard src n kind index (s.recordState n)
  if 2 < kind then none_
  else match s.intactUnit n (s.comet.shardUnit kind index) with
    | none => none_
    | some b => s.sendShard src n kind index (s.recordState n) b

/-- Part of a shard arrives. -/
def State.takeShard (s : State) (src : Nat) (p : List Byte) : State :=
  let step := BitVec.ofNat 32 (payAt p 0 4)
  let kind := payAt p 4 1
  let index := payAt p 8 8
  let part := payAt p 6 1
  let same (x : Shard) : Bool := x.member == src && x.step == step && x.kind == kind && x.index == index
  let old : Shard := (s.shards.find? same).getD ⟨src, step, kind, index, true, List.replicate 4096 0#8, [], 0⟩
  if shardParts ≤ part then s
  else { s with shards := upsert same { old with valid := old.valid && payAt p 5 1 == 1, data := putBytes old.data (shardPart * part) ((p.drop 16).take shardPart)
                                                 parts := natInsert part old.parts, held := payAt p 7 1 } s.shards }

/-- A Comet flit: a request for a shard is served, a shard or the answer that there is none is taken. -/
def execCometShard (f : Flit) (s : State) : Out := linkIn f s fun s =>
  if payAt f.payload 4 1 = 5 then s.serveShard f.src.toNat (BitVec.ofNat 32 (payAt f.payload 0 4)) (payAt f.payload 7 1) (payAt f.payload 8 8)
  else s.takeShard f.src.toNat f.payload

def allSome {α : Type} : List (Option α) → Option (List α)
  | [] => some []
  | none :: _ => none
  | some a :: rest => (allSome rest).map (fun l => a :: l)

end Sys2Proof.Machine
end

