-- ==== Sys2Proof/Machine/CometEngine.lean ====
section
/-! DEFINITION. The capture of a step, its three stages of commitment, and the commands COMET_CONFIG, COMET_TRACK, STEP_QUERY,
STEP_REBUILD and STEP_LOAD (12_engines R275 to R277; 21_recovery R403 to R414, R419). -/

namespace Sys2Proof.Machine

/-- Comet works: it is configured, not suspended, and the package is not quiesced. -/
def State.cometOn (s : State) : Bool := s.comet.configured && !s.comet.suspended && s.active && s.vaux

/-! ### Capture (12 R276) -/

/-- Crews of the snapshot set, with their positions. -/
def State.setCrews (s : State) : List (Nat × Crew) :=
  (s.crews.zipIdx.filter (fun p => s.comet.tracked.contains p.1.launchId)).map (fun p => (p.2, p.1))

/-- Every team of the set has marked a step newer than n, or has finished; some team has marked n or a newer one. -/
def State.allMarked (s : State) (n : BitVec 32) : Bool :=
  s.launches.all (fun l => !s.comet.tracked.contains l.id || l.ranges.isEmpty) &&
  s.setCrews.all (fun p => p.2.teams.all (fun t => t.finished || tagOlder n t.stepNow)) &&
  s.setCrews.any (fun p => p.2.teams.any (fun t => !tagOlder t.stepNow n))

/-- Capture of step n begins: n follows the newest committed step, whose record is durable. -/
def execCometCaptureBegin (n : BitVec 32) (s : State) : Out :=
  .next (
    if s.cometOn && s.comet.capture.isNone && n == s.comet.target && s.comet.barred != some n && !s.comet.tracked.isEmpty && s.allMarked n then
      { s with comet := { s.comet with capture := some n, ended := false, captured := [], image := [], written := false, prepared := none } }
    else s)

/-- Comet copies a granule that it has not captured into the preserve area, before a newer write. -/
def execCometGranulePreserve (g : Nat) (s : State) : Out :=
  .next (
    if !s.cometOn then s
    else match s.trackedGranules[g]? with
    | none => s
    | some x =>
      if s.comet.captured.contains x || s.comet.preserved.any (fun p => p.unit.gran == x) || decide (s.comet.presLen < 4096 * (s.comet.preserved.length + 1)) then s
      else match s.liveUnit x with
        | none => s
        | some u => { s with comet := { s.comet with preserved := s.comet.preserved ++ [Preserved.mk u] } })

/-- A write tagged n or older can still come from this crew. -/
def State.olderWork (s : State) (n : BitVec 32) (k : Nat) (c : Crew) : Bool :=
  c.teams.any (fun t =>
    (t.queue ++ t.retired).any (fun x => !tagOlder n x.step) ||
    t.pending.any (fun a => match a.kind with | .store _ step => !tagOlder n step | _ => false)) ||
  s.commands.any (fun m => m.crew == k && !tagOlder n m.step) ||
  s.matrix.any (fun m => m.team.crew == k && !tagOlder n m.step)

/-- The units of a whole image go to the image slot, and to the members that hold their stripes' parity. -/
def State.writeImage (s : State) : State :=
  match s.comet.capture with
  | none => s
  | some n =>
    let img := s.comet.image
    let us := imageUnits img
    let d := dirUnits img.length
    let s1 := us.zipIdx.foldl (fun s u => s.acceptBytes (s.comet.unitAddr n u.2) u.1) s
    let s2 := img.zipIdx.foldl (fun s u => s.poisonLines (s.comet.unitAddr n (d + u.2)) (u.1.poison.map (fun w => w % 1024))) s1
    let s3 := if !s2.span.erasure then s2
      else (List.range s2.comet.units).foldl (fun s u =>
        let t := stripeOf s.span.member (u % 8)
        let b := us.getD u zeroUnit
        (s.sendShard (s.memberAt ((t + 8) % 10)) n 0 u 0 b).sendShard (s.memberAt ((t + 9) % 10)) n 0 u 0 b) s2
    { s3 with comet := { s3.comet with written := true } }

/-- With every granule captured, the image is written. -/
def State.imageWhole (s : State) : State := if s.comet.ended && !s.comet.written && s.uncaptured.isEmpty then s.writeImage else s

/-- The end of a capture: every write and command of the set tagged n or older is done. A capture of more than U units is
abandoned with reason 1. -/
def execCometCaptureEnd (s : State) : Out :=
  .next (match s.comet.capture with
    | none => s
    | some n =>
      if !s.cometOn || s.comet.ended || s.setCrews.any (fun p => s.olderWork n p.1 p.2) then s
      else
        let c := s.uncaptured.length
        if s.comet.units < dirUnits c + c then s.cometAbandon 1
        else { s with comet := { s.comet with ended := true } }.imageWhole)

/-- A granule streams to the image, from the preserve area or live; its place in the preserve area is free again. -/
def execCometStreamGranule (g : Nat) (s : State) : Out :=
  .next (
    if !s.cometOn || s.comet.capture.isNone || !s.comet.ended || s.comet.written then s
    else match s.uncaptured[g]? with
    | none => s
    | some x =>
      let kept := (s.comet.preserved.find? (fun p => p.unit.gran == x)).map (·.unit)
      match (match kept with | some u => some u | none => s.liveUnit x) with
      | none => s
      | some u =>
        let s1 := { s with comet := { s.comet with captured := s.comet.captured ++ [x], image := s.comet.image ++ [u]
                                                   preserved := s.comet.preserved.filter (fun p => p.unit.gran != x) } }
        if s1.comet.units < dirUnits s1.comet.image.length + s1.comet.image.length then s1.cometAbandon 1 else s1.imageWhole)

/-! ### Commitment (21 R407) -/

/-- The parity units of this member for rows 0 to U/8 − 1, once every shard of their stripes is here. -/
def State.parityUnits (s : State) (n : BitVec 32) : Option (List (List Byte × List Byte)) :=
  allSome ((List.range (s.comet.units / 8)).map (fun r =>
    match allSome (s.stripeData n r 8), allSome (s.stripeData n r 9) with
    | some p, some q => some (parityP p, parityQ q)
    | _, _ => none))

/-- The payload of a prepared report or a COMMIT, which the manual leaves open (notes/assumptions/24.md). -/
def stepMessage (kind : Nat) (n : BitVec 32) : List Byte := leBytes 4 n.toNat ++ leBytes 1 kind ++ leBytes 59 0

/-- The member's units are durable: its prepared record is written, and the coordinator has its report. -/
def execCometPrepared (s : State) : Out :=
  .next (match s.comet.capture with
    | none => s
    | some n =>
      if !s.cometOn || !s.comet.written || s.comet.prepared.isSome || s.comet.committing.isSome then s
      else match (if s.span.erasure then s.parityUnits n else some []) with
      | none => s
      | some ps =>
        let s1 := ps.zipIdx.foldl (fun s p => (s.acceptBytes (s.comet.unitAddr n (s.comet.pUnit p.2)) p.1.1).acceptBytes (s.comet.unitAddr n (s.comet.qUnit p.2)) p.1.2) s
        let used := dirUnits s1.comet.image.length + s1.comet.image.length
        let s2 := s1.writeRecord ⟨1, n, used, s1.unitsDigest n used⟩
        let s3 := { s2 with comet := { s2.comet with prepared := some n } }
        if s3.span.index = 0#12 then { s3 with comet := { s3.comet with reports := s3.comet.reports ++ [(0, n)] } }
        else s3.send 0x40 0 0#32 (stepMessage 3 n))

/-- A member's report at the coordinator. -/
def execCometPreparedReport (m : Nat) (n : BitVec 32) (s : State) : Out :=
  .next (
    if s.span.index = 0#12 ∧ s.otherMember m = true ∧ s.comet.reports.contains (m, n) = false then
      { s with comet := { s.comet with reports := s.comet.reports ++ [(m, n)] } }
    else s)

/-- The coordinator, which holds every member's report, sends COMMIT; each member rewrites its record as committed. -/
def execCometCommit (n : BitVec 32) (s : State) : Out :=
  .next (
    if !s.cometOn || s.comet.prepared != some n || s.comet.committing.isSome then s
    else
      let first := s.span.index == 0#12
      if first && !(List.range s.span.count.toNat).all (fun m => s.comet.reports.contains (m, n)) then s
      else
        let used := dirUnits s.comet.image.length + s.comet.image.length
        let s1 := s.writeRecord ⟨2, n, used, s.unitsDigest n used⟩
        let s2 := { s1 with comet := { s1.comet with committing := some n, reports := s1.comet.reports.filter (fun r => r.2 != n) } }
        if first then s2.others.foldl (fun s d => s.send 0x40 d 0#32 (stepMessage 4 n)) s2 else s2)

/-- The committed record is durable: slot mod(n + 1, 2) is free, and launches join and leave the set. -/
def execCometRecordDurable (s : State) : Out :=
  .next (match s.comet.committing with
    | none => s
    | some n =>
      if !s.active then s
      else
        let k := s.comet
        { s with
          comet := { k.idle with committed := some n, committing := none }
          shards := s.shards.filter (fun x => tagOlder n x.step || k.rebuilding == some x.step)
          pspanOpen := s.pspanOpen.filter (fun p => tagOlder n p.2) })

/-! ### The commands of R409 -/

/-- First address past the SCM stacks. -/
def scmEnd : Nat := 2 ^ 44 + 2 ^ 42

def execCometConfig (payload : List Byte) (s : State) : Out :=
  mailbox s opCometConfig payload 32 fun s =>
    let b := payAt payload 0 8
    let u := payAt payload 8 4
    let pb := payAt payload 16 8
    let pl := payAt payload 24 8
    if b % 2 ^ 20 ≠ 0 ∨ u % 8 ≠ 0 ∨ b < 2 ^ 44 ∨ scmEnd < b + 2 ^ 20 + 10240 * u ∨ pb % 4096 ≠ 0 ∨ 2 ^ 40 < pb + pl then s.answer rcInvalid []
    else if s.comet.capture.isSome ∧ s.comet.suspended = false then s.answer rcBusy []
    else
      let k := s.comet
      let s1 := { s with comet := { tracked := k.idle.tracked, suspended := k.suspended, configured := true, base := b, units := u, presBase := pb, presLen := pl
                                    earlier := if k.configured then (k.base, k.units) :: k.earlier.filter (fun a => a != (k.base, k.units)) else k.earlier } }
      { s1 with comet := { s1.comet with committed := s1.newestCommitted } }.answer rcSuccess []

def execCometTrack (payload : List Byte) (s : State) : Out :=
  mailbox s opCometTrack payload 5 fun s =>
    match s.openLaunch (payAt payload 0 4) with
    | none => s.answer rcInvalid []
    | some l =>
      let k := s.comet
      let add := payAt payload 4 1 % 2 == 1
      let put (l' : BitVec 32) (xs : List (BitVec 32)) : List (BitVec 32) := xs.filter (fun x => x != l') ++ [l']
      let cut (l' : BitVec 32) (xs : List (BitVec 32)) : List (BitVec 32) := xs.filter (fun x => x != l')
      let k' := if k.capture.isNone then (if add then { k with tracked := put l.id k.tracked } else { k with tracked := cut l.id k.tracked })
        else if add then { k with joining := put l.id k.joining, leaving := cut l.id k.leaving }
        else { k with leaving := put l.id k.leaving, joining := cut l.id k.joining }
      { s with comet := k' }.answer rcSuccess []

/-- A flag's bit in a byte. -/
def bit2 (a b : Bool) : List Byte := leBytes 1 ((if a then 1 else 0) + (if b then 2 else 0))
def stepBytes (n : Option (BitVec 32)) : List Byte := leBytes 4 (n.getD 0#32).toNat

/-- Data units of a step's slot that lie on retired stacks. -/
def State.lostUnits (s : State) (n : BitVec 32) : Nat :=
  ((List.range s.comet.units).filter (fun u => s.isDead (s.comet.unitAddr n u) 4096)).length

/-- "That slot" is the newest valid prepared step's, or with none the newest committed step's; where a retired stack holds the
records too, it is the slot of c, the newest step that Comet knows committed (notes/assumptions/76.md). -/
def execStepQuery (payload : List Byte) (s : State) : Out :=
  mailbox s opStepQuery payload 0 fun s =>
    let c := s.newestCommitted
    let p := s.newestPrepared
    let lost := match p, c, s.comet.committed with
      | some n, _, _ => s.lostUnits n
      | none, some n, _ => s.lostUnits n
      | none, none, some n => s.lostUnits n
      | none, none, none => 0
    s.answer rcSuccess (bit2 s.nv.powerLost s.nv.drained ++ leBytes 3 0 ++ stepBytes c ++ bit2 c.isSome s.comet.suspended ++ leBytes 3 0 ++ stepBytes p ++
      bit2 p.isSome false ++ leBytes 3 0 ++ leBytes 4 lost)

/-- A launch of the snapshot set that has not completed. -/
def State.setOpen (s : State) : Bool := s.launches.any (fun l => s.comet.tracked.contains l.id && l.state != .completed)

/-! ### STEP_REBUILD (21 R413) -/

/-- A shard of this member restored: kept, or decoded from eight others of its stripe. `i` is its place in stripe (r, t). -/
def State.restoreShard (s : State) (n : BitVec 32) (unit r i : Nat) : Option (List Byte) :=
  match s.intactUnit n unit with
  | some b => some b
  | none =>
    if !s.span.erasure then none
    else
      let t := stripeOf s.span.member i
      let get (j : Nat) : Option (List Byte) := let x := stripeShard r t j; if j = i then none else s.sentShard n x.1 x.2.1 x.2.2
      match solveStripe ((List.range 8).map get) (get 8) (get 9) with
      | none => none
      | some ds => if i < 8 then ds[i]? else if i = 8 then some (parityP ds) else some (parityQ ds)

/-- Every unit of the slot with its number, or none where some stripe has too few shards. -/
def State.restoreAll (s : State) (n : BitVec 32) : Option (List (Nat × List Byte)) :=
  allSome ((List.range (s.comet.units / 8)).flatMap (fun r =>
    (List.range 8).map (fun d => (s.restoreShard n (8 * r + d) r d).map (fun b => (8 * r + d, b))) ++
    (if s.span.erasure then [(s.restoreShard n (s.comet.pUnit r) r 8).map (fun b => (s.comet.pUnit r, b)),
      (s.restoreShard n (s.comet.qUnit r) r 9).map (fun b => (s.comet.qUnit r, b))] else [])))

/-- A member that a rebuild can reach: one that is not lost and has a route. -/
def State.canReach (s : State) (m : Nat) : Bool := s.otherMember m && !s.span.lost.contains m && !s.span.noRoute.any (fun p => p.1 == m)

/-- What a rebuild of step n asks the members it can reach: each for its record, and the other shards of each stripe of which this
member lacks its own. -/
def State.shardAsks (s : State) (n : BitVec 32) : List (Nat × Nat × Nat) :=
  let own (unit r i : Nat) : List (Nat × Nat × Nat) :=
    if !s.span.erasure || (s.intactUnit n unit).isSome then []
    else ((List.range 10).filter (fun j => j != i)).map (fun j => let x := stripeShard r (stripeOf s.span.member i) j; (s.memberAt x.1, x.2.1, x.2.2))
  ((List.range s.span.count.toNat).map (fun m => (m, 6, 0)) ++
   (List.range (s.comet.units / 8)).flatMap (fun r =>
     (List.range 8).flatMap (fun d => own (8 * r + d) r d) ++ own (s.comet.pUnit r) r 8 ++ own (s.comet.qUnit r) r 9)).filter (fun a => s.canReach a.1)

/-- Shards are asked for. -/
def State.askAll (s : State) (n : BitVec 32) (l : List (Nat × Nat × Nat)) : State :=
  l.foldl (fun (s : State) a => s.askShard a.1 n a.2.1 a.2.2) { s with comet := { s.comet with asked := s.comet.asked ++ l } }

/-- An ask has its answer. -/
def State.answered (s : State) (n : BitVec 32) (a : Nat × Nat × Nat) : Bool :=
  match s.shardFrom n a.1 a.2.1 a.2.2 with
  | some x => !x.valid || x.parts.length == shardParts
  | none => false

/-- A valid committed record of step n is held here, or on a member that has answered. -/
def State.heldCommitted (s : State) (n : BitVec 32) : Bool :=
  s.recordState n == 2 || s.shards.any (fun x => x.step == n && x.held == 2 && s.canReach x.member)

/-- A rebuild is over. -/
def State.rebuildOver (s : State) (n : BitVec 32) : State :=
  { s with comet := { s.comet with rebuilding := none, asked := [] }, shards := s.shards.filter (fun x => x.step != n) }

/-- The restored slot is written with a committed record; Comet leaves suspension (R419). -/
def State.rebuildStep (s : State) (n : BitVec 32) : State :=
  if !s.heldCommitted n then (s.rebuildOver n).answer rcSuccess (leBytes 2 stAborted)
  else match s.restoreAll n with
    | none => (s.rebuildOver n).answer rcSuccess (leBytes 2 stUncorrectable)
    | some us =>
      let s1 := us.foldl (fun s u => s.acceptBytes (s.comet.unitAddr n u.1) u.2) s
      let s2 := (s1.writeRecord ⟨2, n, s1.comet.units, s1.unitsDigest n s1.comet.units⟩).rebuildOver n
      { s2 with comet := { s2.comet with suspended := false, committed := s2.newestCommitted, barred := none } }.answer rcSuccess (leBytes 2 stOk)

/-- STEP_REBUILD asks for what it needs, and runs until every member it can reach has answered. -/
def execStepRebuild (payload : List Byte) (s : State) : Out :=
  mailbox s opStepRebuild payload 4 fun s =>
    let n := BitVec.ofNat 32 (payAt payload 0 4)
    if s.comet.suspended = false ∧ s.setOpen = true ∧ s.comet.rebuilding ≠ some n then s.answer rcBusy []
    else if !s.comet.configured then s.answer rcSuccess (leBytes 2 stAborted)
    else
      let s1 := if s.comet.rebuilding == some n then s
        else { s with comet := { s.comet with rebuilding := some n, asked := [] }, shards := s.shards.filter (fun x => x.step != n) }
      let asks := s1.shardAsks n
      let new := asks.filter (fun a => !s1.comet.asked.contains a)
      if asks.all (s1.answered n) then s1.rebuildStep n
      else (s1.askAll n new).keepRunning opStepRebuild payload

/-! ### STEP_LOAD (21 R414) -/

/-- A directory entry as read: kind, bytes 8–15, bytes 16–23, data unit. -/
structure LoadEntry where
  kind : Nat
  key : Nat
  bytes : List Byte
  unit : Nat
  deriving DecidableEq, Repr

def loadEntry (b : List Byte) : LoadEntry := ⟨payAt b 0 1, payAt b 8 8, b, payAt b 24 8⟩
def unitEntries (b : List Byte) : List LoadEntry := (List.range 128).map (fun i => loadEntry ((b.drop (32 * i)).take 32))

/-- The used entries of the directory of a step whose image has `used` units: the first granule's data unit ends it. -/
def State.loadEntries (s : State) (n : BitVec 32) (used : Nat) : List LoadEntry :=
  if used = 0 then []
  else
  let unit (i : Nat) : List LoadEntry := (unitEntries (s.memBytes (s.comet.unitAddr n i) 4096)).filter (fun e => e.kind == 1 || e.kind == 2)
  match leastOf ((unit 0).map (·.unit)) with
  | none => []
  | some d => (List.range d).flatMap unit

/-- Bytes of a page written by Comet: HBM4E, or SCM by acceptance. `n` divides a line. -/
def State.loadWrite (s : State) (pa : Nat) (b : List Byte) : State :=
  if isScm pa then s.acceptLine (pa / 64 * 64) (patchLine (s.lineData (pa / 64 * 64)) (pa % 64) b.length (bytesNat b))
  else s.hostStore pa b

/-- Bytes written from a virtual address on, line by line, their pages bound by first touch; none where one does not translate. -/
def State.loadBytes (s : State) (va : Nat) : Nat → List Byte → State × Bool
  | 0, _ => (s, true)
  | fuel + 1, b =>
    if b.isEmpty then (s, true)
    else
      let k := 64 - va % 64
      match s.translate none 0 va false with
      | (s1, .ok pa _) => (s1.loadWrite pa (b.take k)).loadBytes (va + k) fuel (b.drop k)
      | (s1, _) => (s1, false)

/-- The tracked bit of the page of an address. -/
def State.setTracked (s : State) (va : Nat) : State :=
  match s.rangeOf va with
  | none => s
  | some r => ({ s with mem := writeLE s.mem (r.entryAddr va) 8 (s.pte r va ||| 8#64).toNat }).tlbDropIn va 1

/-- Poisoned lines of a data unit, by line number. -/
def State.poisonedLines (s : State) (pa : Nat) : List Nat := (List.range 64).filter (fun i => s.isPoisoned (pa + 64 * i) 64)
/-- The lines of a written block that become poisoned. -/
def State.loadPoison (s : State) (va : Nat) (ls : List Nat) : State :=
  ls.foldl (fun s i => match s.translate none 0 (va + 64 * i) false with | (s1, .ok pa _) => s1.setPoison pa 64 | (s1, _) => s1) s

/-- One block of a step's image written at a virtual address. -/
def State.loadBlock (s : State) (n : BitVec 32) (unit va : Nat) : State × Bool :=
  let pa := s.comet.unitAddr n unit
  let ls := s.poisonedLines pa
  match s.loadBytes va 65 (s.memBytes pa 4096) with
  | (s1, ok) => if ok then (s1.loadPoison va ls, true) else (s1, false)

/-- The page granules, in the directory's order. -/
def State.loadPages (s : State) (n : BitVec 32) : List LoadEntry → State × Bool
  | [] => (s, true)
  | e :: rest =>
    if e.kind ≠ 1 then s.loadPages n rest
    else match s.loadBlock n e.unit e.key with
      | (s1, true) => (s1.setTracked e.key).loadPages n rest
      | (s1, false) => (s1, false)

/-- The tile blocks' data, from `va` on. -/
def State.loadTiles (s : State) (n : BitVec 32) (va : Nat) : List LoadEntry → State × Bool
  | [] => (s, true)
  | e :: rest => match s.loadBlock n e.unit va with
    | (s1, true) => s1.loadTiles n (va + 4096) rest
    | (s1, false) => (s1, false)

/-- The count, the entries with their data's offsets, and the blocks, at A. -/
def State.loadKind2 (s : State) (n : BitVec 32) (a : Nat) (es : List LoadEntry) : State × Bool :=
  let first := 8 + 32 * es.length
  let head := leBytes 8 es.length ++ es.zipIdx.flatMap (fun p => p.1.bytes.take 24 ++ leBytes 8 (first + 4096 * p.2))
  match s.loadBytes a (head.length + 1) head with
  | (s1, true) => s1.loadTiles n (a + first) es
  | (s1, false) => (s1, false)

def execStepLoad (payload : List Byte) (s : State) : Out :=
  mailbox s opStepLoad payload 16 fun s =>
    let n := BitVec.ofNat 32 (payAt payload 0 4)
    let a := payAt payload 8 8
    if a % 4096 ≠ 0 then s.answer rcInvalid []
    else if s.launchOpen then s.answer rcBusy []
    else match s.recordOf n with
      | none => s.answer rcSuccess (leBytes 2 stAborted)
      | some r =>
        if s.isDead (s.comet.unitAddr n 0) (4096 * r.used) || s.unitsDigest n r.used != r.udigest then s.answer rcSuccess (leBytes 2 stAborted)
        else
          let es := s.loadEntries n r.used
          match s.loadPages n es with
          | (s1, false) => s1.answer rcSuccess (leBytes 2 stTranslation)
          | (s1, true) => match s1.loadKind2 n a (es.filter (fun e => e.kind == 2)) with
            | (s2, false) => s2.answer rcSuccess (leBytes 2 stTranslation)
            | (s2, true) =>
              { s2 with comet := { s2.comet.idle with committed := some n, suspended := false, barred := none, committing := none, reports := [] }
                        shards := [] }.answer rcSuccess (leBytes 2 stOk)

end Sys2Proof.Machine
end

