-- ==== Sys2Proof/Machine/LaneCross.lean ====
section
/-! DEFINITION. Reductions, scans, cross-lane moves, votes and counts (09_lane_compute_isa R211 to R217). -/

namespace Sys2Proof.Machine

/-- The first lane and the number of lanes of each range of a team (09 R211). -/
def rangesOf (code : Nat) (lanes : Nat) : List (Nat × Nat) :=
  if code < 6 then (List.range (lanes / 2 ^ code)).map (fun i => (i * 2 ^ code, 2 ^ code)) else [(0, lanes)]

/-- The values of a range's positions: element order within lanes, the identity where a lane does not execute (04 R87). -/
def rangeVals (w : Nat) (sel : BitVec 5) (x : Mask) (ident : Nat) (src : Nat → Word) (rg : Nat × Nat) : List Nat :=
  (List.range rg.2).flatMap (fun o =>
    (if sel = 0#5 then List.range (64 / w) else [selIndex sel]).map (fun i =>
      if x.getLsbD (rg.1 + o) then getElem w i (src (rg.1 + o)) else ident))

/-- The position of destination element i of the lane at offset o. -/
def rangePos (w : Nat) (sel : BitVec 5) (o i : Nat) : Nat := if sel = 0#5 then o * (64 / w) + i else o

/-- The executing lanes of a lane's range. -/
def rangeLanes (code : Nat) (t : Team) (x : Mask) (l : Nat) : List Nat :=
  ((rangesOf code t.lanes).filter (fun rg => decide (rg.1 ≤ l ∧ l < rg.1 + rg.2))).flatMap (fun rg =>
    ((List.range rg.2).map (fun o => rg.1 + o)).filter (fun j => x.getLsbD j))

/-- A range instruction: `g` maps the positions' values to the positions' results (09 R211). -/
def laneRange (s : State) (h : LaneHead) (m : ModX) (ident : Nat) (g : List Nat → List Nat) : Out :=
  let w := elemWidth h.ty
  let s0 := srcOf h.s0 h.z0 h.b0 m.q0
  laneCompute s h [s0] [h.dst.toNat] (fun t x _ l => rangeLanes m.range.toNat t x l) fun r _ t _ x =>
    let p := t.popped
    let t' := (rangesOf m.range.toNat t.lanes).foldl (fun u rg =>
      let res := g (rangeVals w m.s0sel x ident (fun l => t.src p s0 l) rg)
      (List.range rg.2).foldl (fun u o =>
        if x.getLsbD (rg.1 + o) then
          u.setVreg h.dst.toNat (rg.1 + o) (mapElems w m.dsel (t.vreg h.dst.toNat (rg.1 + o)) (fun i => res.getD (rangePos w m.s0sel o i) 0))
        else u) u) t
    s.putTeam r (t'.laneDone (t.retained p (retainSrc h.retain s0 .zero .zero)))

/-- Operation codes of RED and SCAN as two-term operations, with their identities (09 R214). -/
def redIdent (ty : BitVec 4) (op : Nat) : Nat :=
  let w := elemWidth ty
  let sg := isSignedTy ty
  if isIntTy ty then
    (if op = 1 then wrapBits w (maxInt sg w) else if op = 2 then wrapBits w (minInt sg w) else if op = 3 then 2 ^ w - 1 else 0)
  else if op = 0 then negZero (fmtOf ty)
  else infBits (fmtOf ty) false (decide (op = 2))

def redOp (ty : BitVec 4) (op : Nat) (x y : Nat) : Nat :=
  let w := elemWidth ty
  let sg := isSignedTy ty
  if isIntTy ty then
    (if op = 1 then (if elemInt sg w x ≤ elemInt sg w y then x else y)
     else if op = 2 then (if elemInt sg w x ≤ elemInt sg w y then y else x)
     else if op = 3 then x &&& y else if op = 4 then x ||| y else x ^^^ y)
  else if op = 0 then addF (fmtOf ty) .rne x y
  else minmaxNanF (fmtOf ty) (decide (op = 2)) x y

/-- The exact integer sum of elements. -/
def intSum (ty : BitVec 4) (l : List Nat) : Int := l.foldl (fun a x => a + elemInt (isSignedTy ty) (elemWidth ty) x) 0

/-- The reduction of a range's values (09 R212, R214). -/
def reduceRange (ty : BitVec 4) (op : Nat) (sat : Bool) (l : List Nat) : Nat :=
  if op = 0 then
    (if isIntTy ty then reduceInt (isSignedTy ty) sat (elemWidth ty) (intSum ty l) else treeSum (fmtOf ty) l)
  else l.foldl (redOp ty op) (redIdent ty op)

/-- Exact prefix sums. -/
def prefixSums (ty : BitVec 4) (acc : Int) : List Nat → List Int
  | [] => []
  | x :: rest =>
    let a := acc + elemInt (isSignedTy ty) (elemWidth ty) x
    a :: prefixSums ty a rest

/-- The inclusive scan of a range's values. -/
def scanRange (ty : BitVec 4) (op : Nat) (sat : Bool) (l : List Nat) : List Nat :=
  if op = 0 && isIntTy ty then (prefixSums ty 0 l).map (reduceInt (isSignedTy ty) sat (elemWidth ty))
  else if op = 0 then scanInclusive (redOp ty op) (l.map (canonNan (fmtOf ty)))
  else scanInclusive (redOp ty op) (l.map (redOp ty op (redIdent ty op)))

def execFrmax (h : LaneHead) (m : ModX) (s : State) : Out :=
  laneRange s h m (redIdent h.ty 2) (fun l => let v := reduceRange h.ty 2 false l; l.map (fun _ => v))
def execFradd (h : LaneHead) (m : ModX) (s : State) : Out :=
  laneRange s h m (redIdent h.ty 0) (fun l => let v := reduceRange h.ty 0 false l; l.map (fun _ => v))
def execRed (h : LaneHead) (m : ModX) (s : State) : Out :=
  let op := (field m.op 2 0).toNat
  laneRange s h m (redIdent h.ty op) (fun l => let v := reduceRange h.ty op h.md l; l.map (fun _ => v))
def execScan (h : LaneHead) (m : ModX) (s : State) : Out :=
  let op := (field m.op 2 0).toNat
  laneRange s h m (redIdent h.ty op) (fun l => scanRange h.ty op h.md (if bitAt m.op 3 then redIdent h.ty op :: l.dropLast else l))

/-- The state of a next outcome. -/
def outState (o : Out) (s : State) : State :=
  match o with
  | .next s' => s'
  | _ => s

/-- The fused softmax idiom: the four instructions in sequence, and no destination written when any would trap (09 R213). -/
def execFusedSoftmax (hm : LaneHead) (mm : ModX) (ht : LaneHead) (mt : ModA) (he : LaneHead) (me : ModA) (hs : LaneHead) (ms : ModX)
    (s : State) : Out :=
  laneFrame s hm [] [hm.dst.toNat, hm.s0.toNat, ht.dst.toNat, he.dst.toNat, hs.dst.toNat] fun r _ t cl x =>
    if t.errLanes [.reg hm.s0.toNat] x (fun _ l => [l]) ≠ 0#1024 then s.laneFaultAt r t stUncorrectable (wholeLanes x cl.mask) (some x) cl.addr
    else
    let s1 := outState (execFrmax hm mm s) s
    let s2 := outState (execFsub ht mt s1) s1
    let s3 := outState (execFexp2 he me s2) s2
    outState (execFradd hs ms s3) s3

/-- A source lane's value read by team position (09 R215). -/
def laneSrcAt (w : Nat) (lanes : Nat) (src : Nat → Word) (p : Nat) : Nat :=
  let e := 64 / w
  if p < lanes * e then getElem w (p % e) (src (p / e)) else 0

/-- The lanes that a lane of SHFL or BCAST reads: its own position word, and the lanes that hold its elements. -/
def shflLanes (h : LaneHead) (m : ModA) (step : Nat) (t : Team) (k l : Nat) : List Nat :=
  if k = 1 then [l]
  else
    let w := elemWidth h.ty
    let pos := getElem 32 (selIndex m.s1sel) (t.src t.popped ((srcs3 h m).getD 1 .zero) l)
    ((elemSet w m.dsel).map (fun i => (pos + step * i) / (64 / w))).filter (fun j => decide (j < t.lanes))

/-- SHFL and BCAST: `step` is 1 where element i reads position P + i. -/
def laneShfl (s : State) (h : LaneHead) (m : ModA) (step : Nat) : Out :=
  let w := elemWidth h.ty
  let ss := srcs3 h m
  laneCompute s h (ss.take 2) [h.dst.toNat] (fun t _ k l => shflLanes h m step t k l) fun r _ t _ x =>
    let p := t.popped
    let v (l : Nat) :=
      let pos := getElem 32 (selIndex m.s1sel) (t.src p (ss.getD 1 .zero) l)
      mapElems w m.dsel (t.vreg h.dst.toNat l) (fun i => laneSrcAt w t.lanes (fun k => t.src p (ss.getD 0 .zero) k) (pos + step * i))
    s.putTeam r ((t.writeLanes h.dst.toNat x v).laneDone (t.keep p h ss))

def execShfl (h : LaneHead) (m : ModA) (s : State) : Out := laneShfl s h m 1
def execBcast (h : LaneHead) (m : ModA) (s : State) : Out := laneShfl s h m 0

def execVote (h : LaneHead) (m : ModX) (s : State) : Out :=
  laneFrame s h [] [] fun r _ t cl x =>
    let _ := m
    let v := maskOf t.lanes (fun l => x.getLsbD l && t.pred (field h.s0 3 0).toNat l)
    s.putTeam r ((t.vote cl.uid (field h.dst 2 0) v).laneDone none)

def execPfxc (h : LaneHead) (m : ModX) (s : State) : Out :=
  let w := elemWidth h.ty
  laneFrame s h [] [h.dst.toNat] fun r _ t _ x =>
    let on (l : Nat) : Bool := x.getLsbD l && t.pred (field h.s0 3 0).toNat l
    let t' := (rangesOf m.range.toNat t.lanes).foldl (fun u rg =>
      let total := ((List.range rg.2).filter (fun o => on (rg.1 + o))).length
      (List.range rg.2).foldl (fun (q : Team × Nat) o =>
        let l := rg.1 + o
        let n := q.2 + (if on l then 1 else 0)
        let c := if m.op = 0#4 then q.2 else if m.op = 1#4 then n else total
        (if x.getLsbD l then q.1.setVreg h.dst.toNat l (mapElems w m.dsel (t.vreg h.dst.toNat l)
          (fun _ => reduceInt (isSignedTy h.ty) h.md w c)) else q.1, n)) (u, 0) |>.1) t
    s.putTeam r (t'.laneDone none)

end Sys2Proof.Machine
end

