-- ==== Sys2Proof/Machine/Fetch.lean ====
section
/-! DEFINITION. Which instruction a stream executes next: the fetch and decoding of both streams, the fusion of the softmax
idiom, and what withFetchWord sets (03_two_streams R53, R54; 07_encodings R134, R135, R151; 09_lane_compute_isa R213;
18_instruction_faults R347, R350, R351; notes/assumptions/1.md and 8.md). -/

namespace Sys2Proof.Machine

/-- `n` registers of a group. -/
def sregGroup (a : SReg) (n : Nat) : List SReg := (List.range n).map (fun k => a + BitVec.ofNat 6 k)

/-- The scalar registers that a scalar instruction reads (08 R161 to R189). -/
def scalarSources : Instr → List SReg
  | .add _ a b | .sub _ a b | .mul _ a b | .mulh _ a b | .mulhn _ a b | .div _ a b | .divn _ a b | .rem _ a b | .remn _ a b
  | .and _ a b | .or _ a b | .xor _ a b | .andn _ a b | .shl _ a b | .shr _ a b | .sar _ a b | .rol _ a b
  | .min _ a b | .max _ a b | .minn _ a b | .maxn _ a b | .set _ a b _ | .bcmp _ a b _ | .talloc _ a b _
  | .ginit a b _ | .gexpect a b _ | .gwait _ a b _ _ => [a, b]
  | .clz _ a | .popc _ a | .brev _ a | .sext _ a _ | .zext _ a _ | .addi _ a _ | .andi _ a _ | .ori _ a _ | .xori _ a _
  | .shli _ a _ | .shri _ a _ | .sari _ a _ | .sld _ a _ _ | .sldf _ a _ _ _ _ _ | .bz a _ | .bnz a _ | .loop a _ | .jr a
  | .bwait _ a _ | .stepmark a | .gbind _ a _ | .zfill _ a _ | .garrive _ a _ | .tdwait _ a _
  | .rgrow _ a _ | .rshrink a | .locq _ a | .launch _ a | .tclaim _ a => [a]
  | .liHi d _ | .sysw d _ => [d]
  | .mwait d a _ => [d, a]
  | .sel _ a b c => [a, b, c]
  | .sst d a _ _ | .sste d a _ _ _ _ => [d, a]
  | .satom d a b _ _ _ => [d, a, b]
  | .strmD _ a b | .strmC4 _ a b => sregGroup a 4 ++ sregGroup b 2
  | .qld _ a | .xwin _ a | .xcopy _ a | .xred _ a | .wlinit _ a | .wltake _ a _ => sregGroup a 4
  | _ => []

/-- The scalar stream's next instruction. -/
def State.nextScalar (s : State) (c : Crew) (t : Team) : State × Instr :=
  match s.fetchScalar c.core t.pc with
  | (s1, .error f) => (s1, .instructionFetchFault .scalar f.1 f.2)
  | (s1, .ok none) => (s1, .unassignedEncoding .scalar)
  | (s1, .ok (some i)) => (s1, i)

/-- Whether a scalar instruction reads a register that holds an uncorrectable error (17 R340). -/
def Team.readsError (t : Team) (i : Instr) : Bool := !t.scalarErr.isEmpty && (scalarSources i).any (fun a => t.scalarErr.contains a.toNat)

/-- The entries of its crew's tile table, global handles and windows that an instruction of the team uses, numbered as `Crew.tableErr` does. -/
def Team.tableUses (t : Team) : Instr → List Nat
  | .sld _ _ _ sp | .sst _ _ _ sp => (match sp with | .tile h => [h.toNat] | .glob _ => [])
  | .satom _ _ _ _ _ sp => (match sp with | .tile h => [h.toNat] | .glob => [])
  | .sldf _ _ _ _ h _ _ | .sste _ _ _ _ h _ | .tfree h | .tdesc _ h | .layout _ h _ | .lwait h | .ginit _ _ h | .garrive _ _ h | .gexpect _ _ h
  | .gwait _ _ _ h _ => [h.toNat]
  | .zfill _ _ tgt => (match tgt with | .tile h => [h.toNat] | .tensor g => [256 + g.toNat])
  | .qld _ a => [getElem 8 0 (t.sregK a 0)]
  | .xcopy _ a | .xred _ a =>
    let f (lo n : Nat) : Nat := getElem 64 0 (t.sregK a 0) / 2 ^ lo % 2 ^ n
    [if f 8 1 = 0 then f 0 8 else 256 + f 0 6, if f 17 1 = 0 then f 9 8 else 256 + f 9 6, 320 + f 18 4, 320 + f 22 4] ++ (if f 37 2 = 2 then [f 43 8] else [])
  | .tld _ m | .tldIfempty _ m | .tst _ m | .tstIffull _ m | .tldf _ m | .tste _ m | .tldt _ m | .msgtake _ m => [m.handle.toNat]
  | .atom _ m | .cstore _ m | .xld _ m => if m.glob then [] else [m.handle.toNat]
  | .mma _ m | .mmaPair _ m => [m.hA.toNat, m.hB.toNat]
  | .mdrain _ m => (if m.glob then 256 + m.dest.toNat % 64 else m.dest.toNat) :: (if m.residual then [m.res.toNat] else [])
  | _ => []

/-- Whether an instruction uses an entry that holds an uncorrectable error (20 R398). -/
def Crew.usesError (c : Crew) (t : Team) (i : Instr) : Bool := !c.tableErr.isEmpty && (t.tableUses i).any (fun k => c.tableErr.contains k)

/-- Whether a step of a stream of the team has trapped with a cause that R347 ranks before UNCORRECTABLE. -/
def Team.trapsFirst (t u : Team) : Bool :=
  ((u.faulted && !t.faulted) || (u.trapInh && !t.trapInh)) && decide (causeRank (u.trapCause.toNat % 65536) < causeRank stUncorrectable)

/-- The instruction of index `i` of a clause, where its words can be fetched and decoded. -/
def State.peekLane (s : State) (core : Nat) (cl : Clause) (i : Nat) : Option Instr :=
  if cl.count ≤ i then none
  else match (s.fetchLane core cl.addr i).2 with
    | .ok o => o
    | .error _ => none

/-- Four adjacent instructions of the clause that form the softmax idiom run as one. -/
def State.fused (s : State) (core : Nat) (cl : Clause) (i : Nat) (a : Instr) : Instr :=
  match a with
  | .frmax _ _ => (match s.peekLane core cl (i + 1), s.peekLane core cl (i + 2), s.peekLane core cl (i + 3) with
    | some b, some c, some d => (fuseSoftmax a b c d).getD a
    | _, _, _ => a)
  | _ => a

/-- The lane stream's next instruction. -/
def State.nextLane (s : State) (c : Crew) (t : Team) (cl : Clause) : State × Instr :=
  match s.fetchLane c.core cl.addr t.lidx with
  | (s1, .error f) => (s1, .instructionFetchFault .lane f (BitVec.ofNat 64 (cl.addr + 12 + 12 * t.lidx)))
  | (s1, .ok none) => (s1, .unassignedEncoding .lane)
  | (s1, .ok (some i)) => (s1, s1.fused c.core cl t.lidx i)

/-- The next instruction of a stream of a team, with the state after its fetch; none where the stream may not go on. -/
def State.fetchNext (s : State) (r : TeamRef) (st : Stream) : Option (State × Instr) :=
  match s.teamAt r with
  | none => none
  | some (c, t) =>
    if !s.canRun r st then none
    else match st, t.queue with
      | .scalar, _ => some (s.nextScalar c t)
      | .lane, cl :: _ => some (s.nextLane c t cl)
      | .lane, [] => none

/-- The branches and jumps of R167. -/
def isBranch : Instr → Bool
  | .b _ | .bz _ _ | .bnz _ _ | .call _ | .loop _ _ | .bmz _ _ | .bmnz _ _ | .bcmp _ _ _ _ | .jr _ => true
  | _ => false

/-- The scalar stream stands at a branch, which is executed though it may lead to itself. -/
def State.atBranch (s : State) (r : TeamRef) : Bool :=
  match s.teamAt r with
  | none => false
  | some (c, t) => s.canRun r .scalar && (match s.peekScalar c t with | some i => isBranch i | none => false)

/-- Passes of the lane instruction at the head clause. -/
def Team.passes (t : Team) : Nat :=
  match t.queue with
  | [] => 0
  | cl :: _ => ((List.range 32).filter (fun b => !(bandWord cl.mask b == 0#32))).length

/-- Issues counted: a scalar instruction when it moves its stream on, a lane instruction's passes when it leaves lidx. -/
def State.countIssue (s0 s : State) (r : TeamRef) (st : Stream) : State :=
  match s0.teamAt r, s.teamAt r with
  | some (c, t), some (_, u) =>
    (match st with
     | .scalar => if t.pc = u.pc && !s0.atBranch r then s else s.count (coreDie c.core) 2 1
     | .lane => if t.lidx = u.lidx then s else s.count (coreDie c.core) 3 t.passes)
  | _, _ => s

/-! ### A machine whose next instruction is given (notes/assumptions/8.md) -/

/-- The address at which a placed program stands. -/
def placeBase : Nat := 0x1000000
/-- The range, the page table entry and the pages that hold it: one 64 KiB page at device-physical 0x20000, its table at
0x10000. -/
def placeRange : Range := ⟨placeBase, 0x10000, 0, 0x10000⟩
def placePage : Nat := 0x20000
def placeEntry : Nat := placePage + 1

/-- A privileged team of 32 lanes and 64 registers that stands at the given pc. -/
def placeTeam (pc : Nat) (queue : List Clause) : Team :=
  { id := 0, lanes := 32, regs := 64, priv := true, pc := BitVec.ofNat 64 pc, masks := [(0, laneMask 32)], queue := queue }
/-- Its crew, alone of its launch, on core 0. -/
def placeCrew (t : Team) : Crew := { launchId := 0#32, crewId := 0#32, place := some 0, born := 0, lastRegion := 0, teams := [t] }
/-- The launch record: one crew of one team, both entries at the program. -/
def placeRecord : BitVec 1024 :=
  BitVec.ofNat 1024 (placeBase + 2 ^ 64 * placeBase + 2 ^ 128 * 1 + 2 ^ 160 * 32 + 2 ^ 176 * 64 + 2 ^ 192 * 1 + 2 ^ 200 * 32 + 2 ^ 208 * 16)
def placeLaunch : Launch := { id := 0#32, record := placeRecord, ext := [], state := .eligible, epri := 0 }
/-- The clause of a placed lane instruction, whose header would stand 12 bytes before it. -/
def placeClause : Clause := { uid := 0, addr := placeBase - 12, mask := laneMask 32, count := 1, wait := 0#12, holds := 0#12, step := 0#32, ord := 0, fence := 0, started := true }

/-- The booted machine with that crew resident and the bytes of one instruction at its place; the stream it belongs to moves
next. -/
def State.place (s : State) (nbits w : Nat) : State :=
  let lane := decide (64 < nbits)
  let t := if lane then placeTeam placeBase [placeClause] else placeTeam placeBase []
  let mem := writeLE (writeLE s.mem placeRange.table 8 placeEntry) placePage 12 (w % 2 ^ nbits)
  { s with platform := { s.platform with stage := 0xFF#8 }, ranges := [placeRange], mem := mem, launches := [placeLaunch], nextId := 1#32
           crews := [placeCrew t], nextBorn := 1, focus := some ⟨0, 0⟩, moves := [.run ⟨0, 0⟩ (if lane then .lane else .scalar)] }

end Sys2Proof.Machine
end

