-- ==== Sys2Proof/Machine/Image.lean ====
section
/-! DEFINITION. The save image: its header, its sections and their records, as bytes (19_quiesce_save R367 to R376;
notes/assumptions/28.md says what the layout has no place for). -/

namespace Sys2Proof.Machine

/-! ### Padding -/

/-- Bytes padded with zeros to a multiple of k. -/
def padMul (k : Nat) (l : List Byte) : List Byte := l ++ List.replicate (roundUp l.length k - l.length) 0#8
def zeros (n : Nat) : List Byte := List.replicate n 0#8
/-- Bits packed into bytes, the first in bit 0. -/
def packBits (l : List Bool) : List Byte :=
  (List.range (ceilDiv l.length 8)).map (fun i => BitVec.ofNat 8 ((List.range 8).foldl (fun n k => if l.getD (8 * i + k) false then n + 2 ^ k else n) 0))

/-- A mask: the summary word, then band words 0 to 31. -/
def maskBytes (m : Mask) : List Byte := leBytes 4 (summaryWord m).toNat ++ leBytes 128 m.toNat

/-! ### Section 1: the launch table (R369) -/

/-- A record with xdecl zero. -/
def noXdecl (r : BitVec 1024) : BitVec 1024 := r &&& ~~~(BitVec.ofNat 1024 ((2 ^ 56 - 1) * 2 ^ 960))

/-- Extension declarations of a launch. -/
def recExt (r : BitVec 1024) : Nat := if 4 < recNtiles r then recNtiles r - 4 else 0

def launchEntry (l : Launch) : List Byte :=
  let x := recExt l.record
  padMul 8 (leBytes 4 l.id.toNat ++ leBytes 1 (if l.state = .waiting then 0 else 1) ++ leBytes 1 l.epri ++ zeros 2 ++ leBytes 128 (noXdecl l.record).toNat ++
    leBytes 4 x ++ leBytes 4 l.ranges.length ++ zeros 24 ++ (l.ext.take x).flatMap (fun d => leBytes 12 d.toNat) ++
    l.ranges.flatMap (fun p => leBytes 4 p.1 ++ leBytes 4 p.2))

/-- Launches that have not completed, in acceptance order. -/
def State.tableLaunches (s : State) : List Launch := s.launches.filter (fun l => l.state != .completed)

/-! ### Tile images (R371) -/

def storageBytes (m : SMap 32) (n : Nat) : List Byte := (List.range (n / 4)).flatMap (fun i => leBytes 4 (cellGet m i).toNat)
def tagBytes (full : List Nat) (n : Nat) : List Byte := packBits ((List.range (n / 4)).map (fun i => full.contains i))

def tileImage (t : Tile) : List Byte :=
  let n := t.shape.size
  let n' := match t.conv with | none => 0 | some _ => t.newShape.size
  leBytes 8 t.d0.toNat ++ leBytes 8 t.d1.toNat ++ [t.handle] ++ leBytes 1 (if t.tracked then 1 else 0) ++ zeros 2 ++ leBytes 4 t.bstep.toNat ++
  leBytes 4 t.head.toNat ++ leBytes 4 t.tail.toNat ++ leBytes 8 n ++ leBytes 8 n' ++ zeros 16 ++
  (match t.conv with | none => [] | some v => padMul 8 (packBits ((List.range (ceilDiv n' 4096)).map (fun j => decide (j < v.done))))) ++
  padMul 8 (storageBytes t.words n) ++ (if t.tags then padMul 8 (tagBytes t.full n) else []) ++
  (match t.conv with | none => [] | some v => padMul 8 (storageBytes v.words n' ++ (if t.tags then tagBytes v.full n' else [])))

/-- Tiles that have an image: those with a handle. -/
def Crew.liveTiles (c : Crew) : List Tile := c.tiles.filter (fun t => !t.freed && t.copyOf == 0)

/-! ### Team records (R372 to R374) -/

/-- The state byte of a team. -/
def State.stateCode (s : State) (c : Crew) (t : Team) : Nat :=
  if t.finished then 4 else if t.faulted then 2 else if s.blocked c t then (if t.exited then 5 else 1) else if t.exited then 3 else 0

/-- A holding of a clause: 15 for none, or for one that FCLR dropped. -/
def Clause.holdByte (c : Clause) (f : BitVec 4) : Nat := if f.toNat < 12 ∧ c.holds.getLsbD f.toNat = true then f.toNat else 15

def clauseEntry (c : Clause) : List Byte :=
  leBytes 8 c.addr ++ maskBytes c.mask ++ leBytes 1 (c.holdByte c.setA) ++ leBytes 1 (c.holdByte c.setB) ++ zeros 2 ++ leBytes 4 c.step.toNat ++ zeros 4

/-- A stream command with the vectors wholly delivered. -/
def streamEntry (bands : Nat) (k : StreamCmd) : List Byte :=
  leBytes 1 k.kind ++ leBytes 1 k.q ++ zeros 6 ++ leBytes 8 k.r0.toNat ++ leBytes 8 k.r1.toNat ++ leBytes 8 k.r2.toNat ++ leBytes 8 k.r3.toNat ++
  leBytes 8 k.t2.toNat ++ leBytes 8 k.t3.toNat ++ leBytes 4 (k.sent / bands) ++ zeros 4

/-- Object, and coordinates or value, of a lane's wait. -/
def laneObject (w : LaneWait) : Nat × Nat :=
  match w.instr with
  | .rld _ _ => (w.a.toNat, w.b.toNat)
  | .msgput _ _ => (w.a.toNat, 0)
  | .msgtake _ m => (m.handle.toNat, 0)
  | .tldf _ m | .tste _ m | .tldIfempty _ m | .tstIffull _ m => (m.handle.toNat, w.a.toNat)
  | _ => (0, 0)
def laneKind (i : Instr) : Nat :=
  match i with
  | .msgtake _ _ => 5
  | .msgput _ _ => 6
  | .rld _ _ => 8
  | _ => 1
/-- Kind, object and value of the scalar stream's wait. -/
def Team.scalarObject (t : Team) (i : Instr) : Nat × Nat × Nat :=
  match i with
  | .sldf _ a _ _ h _ _ | .sste _ a _ _ h _ => (1, h.toNat, (t.sreg a).toNat)
  | .gwait _ a _ h _ => (2, h.toNat, (t.sreg a).toNat)
  | .bwait _ a _ => (3, (t.sreg a).toNat % 2 ^ 16, 0)
  | .mwait d a _ => (4, (t.sreg a).toNat, (t.sreg d).toNat)
  | .wltake _ a _ => (7, (t.sreg a).toNat, 0)
  | .tdwait _ a _ => (9, (t.sreg a).toNat, 0)
  | .rgrow _ a _ => (10, 0, (t.sreg a).toNat)
  | _ => (11, 0, 0)

def remainingBytes (o : Option Nat) : List Byte := leBytes 4 (match o with | none => 0xFFFFFFFF | some n => n)

/-- The wake records of a team: the scalar stream's wait, then those of its lanes. -/
def Team.wakes (t : Team) : List (List Byte) :=
  (match t.swait with
   | none => []
   | some w => let (k, o, v) := t.scalarObject w.instr
     [leBytes 1 k ++ leBytes 1 0 ++ leBytes 2 0 ++ remainingBytes w.remaining ++ leBytes 8 o ++ leBytes 8 v ++ zeros 8]) ++
  t.lwaits.map (fun w => let (o, v) := laneObject w
    leBytes 1 (laneKind w.instr) ++ leBytes 1 1 ++ leBytes 2 w.lane ++ remainingBytes w.remaining ++ leBytes 8 o ++ leBytes 8 v ++ zeros 8)

/-- The instruction at lidx of the head clause. -/
def State.headInstr (s : State) (c : Crew) (t : Team) : Option Instr :=
  match t.queue with
  | [] => none
  | cl :: _ => s.peekLane c.core cl t.lidx

/-- Positions of the lanes of a set within it, and their number: the slots of R236. -/
def slotBytes (lanes : Nat) (x : Mask) : List Byte :=
  let ls := maskLanes x lanes
  (List.range lanes).flatMap (fun l => leBytes 4 (ls.filter (fun j => decide (j < l))).length) ++ leBytes 4 ls.length

/-- List and reserved position of each append that is to be made again, in lane order (10 R237). -/
def Team.slotRecord (t : Team) : List Byte :=
  (List.range t.lanes).flatMap (fun l => (t.slots.filter (fun x => x.lane == l)).flatMap (fun x => leBytes 8 x.list ++ leBytes 8 x.pos))

/-- The restart record: the band entries that the lane instruction at lidx has popped, whether it has faulted or waits; then, of a fault,
the set X and its slots where the instruction has fixed them, or of a WLAPP its lanes, which have no positions; then the reserved positions
of appends that are to be made again (notes/assumptions/28.md). -/
def State.restartBytes (s : State) (c : Crew) (t : Team) : List Byte :=
  t.popped.flatMap (fun p => p.2.flatMap (fun b => leBytes 256 b.toNat)) ++
  (match t.restart, s.headInstr c t with
   | some r, some (.cstore _ _) | some r, some (.xld _ _) => (match r.x with | none => [] | some x => maskBytes x ++ slotBytes t.lanes x)
   | some _, some (.wlapp _ _) => (maskLanes t.lfm t.lanes).flatMap (fun _ => leBytes 8 0xFFFFFFFFFFFFFFFF ++ leBytes 8 0)
   | _, _ => []) ++ t.slotRecord

def State.teamRecord (s : State) (c : Crew) (t : Team) : List Byte :=
  let q (i : Nat) : List Band := t.queues.getD i []
  let restart := s.restartBytes c t
  let wakes := t.wakes
  (List.range 63).flatMap (fun i => leBytes 8 (cellGet t.sregs i).toNat) ++ leBytes 8 t.pc.toNat ++ leBytes 2 t.regs ++ leBytes 1 (s.stateCode c t) ++
  leBytes 1 t.id ++ leBytes 4 t.stepNow.toNat ++ leBytes 2 t.batchOpen.toNat ++ leBytes 2 t.pairSeq.toNat ++ leBytes 4 t.seqNext.toNat ++
  leBytes 1 t.guardDepth.toNat ++ leBytes 1 t.nopreDepth.toNat ++ leBytes 1 (if t.nopreSpent then 1 else 0) ++ zeros 1 ++ leBytes 4 (min t.nopreUsed (2 ^ 20 - 1)) ++
  leBytes 8 t.trapPc.toNat ++ leBytes 4 t.trapCause.toNat ++ leBytes 8 t.trapLclause.toNat ++
  leBytes 1 (t.trapLidx.toNat + (if t.trapLane then 16 else 0) + (if t.trapInh then 32 else 0)) ++ zeros 3 ++
  (List.range 8).flatMap (fun i => maskBytes (cellGet t.masks i)) ++ leBytes 1 t.stack.length ++ zeros 7 ++
  (List.range 16).flatMap (fun i => maskBytes (t.stack.getD i 0#1024)) ++ maskBytes t.lfm ++
  leBytes 1 t.queue.length ++ leBytes 1 t.lidx ++ leBytes 1 t.scq.length ++ leBytes 1 (if t.obuf.isSome then 1 else 0) ++
  (List.range 8).flatMap (fun i => leBytes 1 (q i).length) ++ leBytes 4 wakes.length ++ leBytes 4 restart.length ++
  padMul 8 (t.queue.flatMap clauseEntry) ++ padMul 8 (t.scq.flatMap (streamEntry t.bands)) ++
  (List.range 8).flatMap (fun i => (q i).flatMap (fun b => leBytes 256 b.toNat)) ++
  (match t.obuf with | none => [] | some m => (List.range t.lanes).flatMap (fun l => leBytes 8 (cellGet m l).toNat)) ++
  padMul 8 restart ++ wakes.flatten ++
  padMul 8 ((List.range t.lanes).flatMap (fun l => leBytes 2 ((List.range 15).foldl (fun n p => if (cellGet t.preds p).getLsbD l then n + 2 ^ p else n) 0))) ++
  (List.range t.regs).flatMap (fun v => (List.range t.lanes).flatMap (fun l => leBytes 8 (t.vreg v l).toNat)) ++
  leBytes 8 t.accUsed.toNat ++
  (List.range 4).flatMap (fun n => if t.accUsed.getLsbD n then (List.range 16384).flatMap (fun k => leBytes 4 (cellGet t.acc (n * 16384 + k)).toNat) else [])

/-! ### Crew records (R370) -/

def State.crewRecord (s : State) (c : Crew) : List Byte :=
  let tiles := c.liveTiles
  let tail := tiles.flatMap tileImage ++ c.teams.flatMap (fun t => s.teamRecord c t.landVotes)
  let body := leBytes 1 c.teams.length ++ leBytes 1 ((if c.teams.any (·.faulted) then 1 else 0) + (if c.place.isNone then 2 else 0)) ++ leBytes 2 tiles.length ++
    leBytes 4 c.footprint ++ leBytes 4 c.granules ++ leBytes 2 c.capNote.toNat ++ leBytes 1 c.lastRegion ++ zeros 33 ++
    (List.range 64).flatMap (fun g => let d := cellGet c.globals g; leBytes 8 (if d = 0#512 then 0 else 1) ++ leBytes 64 d.toNat) ++
    c.windows.flatMap (fun w => leBytes 32 w.toNat) ++ zeros 64
  leBytes 4 c.launchId.toNat ++ leBytes 4 c.crewId.toNat ++ leBytes 8 (16 + body.length + tail.length) ++ body ++ tail

/-- Crews that have been resident and have not completed. -/
def State.savedCrews (s : State) : List (Nat × Crew) := (s.crews.zipIdx.filter (fun p => p.1.state == CrewState.live)).map (fun p => (p.2, p.1))

/-! ### Parked commands and matrix commands (R374, R375) -/

/-- Identity of a team in a record. -/
def State.identBytes (s : State) (r : TeamRef) : List Byte :=
  match s.teamAt r with
  | none => zeros 9
  | some (c, t) => leBytes 4 c.launchId.toNat ++ leBytes 4 c.crewId.toNat ++ leBytes 1 t.id

def State.parkedBytes (s : State) (m : Command) : List Byte :=
  s.identBytes m.ref ++ zeros 7 ++ leBytes 8 m.ticket.toNat ++ leBytes 8 m.done.length ++ leBytes 32 m.words.toNat ++ leBytes 32 m.swin.toNat ++
  leBytes 32 m.dwin.toNat ++ leBytes 64 (if m.srcG then m.sdesc.toNat else 0) ++ leBytes 64 (if m.dstG then m.ddesc.toNat else 0)

/-- Commands of crews that are in the image. -/
def State.parked (s : State) : List Command := s.commands.filter (fun m => match s.crewAt m.crew with | none => false | some c => c.state == .live)

/-- Order of a command in its team's matrix queue. -/
def State.matrixOrder (s : State) (m : MCmd) : Nat := (s.matrix.filter (fun x => x.team == m.team && decide (x.id < m.id))).length

def State.canonicalEntry (s : State) (m : MCmd) : List Byte :=
  let w := encode m.instr
  s.identBytes m.team ++ leBytes 1 m.accN ++ leBytes 2 (s.matrixOrder m) ++ leBytes 4 m.cursor ++
  (List.range 3).flatMap (fun i => leBytes 4 (w.getD i 0#32).toNat) ++ zeros 4 ++ (List.range 5).flatMap (fun i => leBytes 8 (m.src.getD i 0#64).toNat) ++
  leBytes 8 m.pairSeq.toNat ++ zeros 48

/-- The scan-out of an MMA's array: the partial sums of its accumulator, row-major in FP32, and the pipeline latches. -/
def State.scanOut (s : State) (m : MCmd) : List Byte :=
  (match s.teamAt m.team with
   | none => []
   | some (_, t) => if m.isMma then (List.range 16384).flatMap (fun k => leBytes 4 (cellGet t.acc (m.accN * 16384 + k)).toNat) else []) ++ Config.rawLatches m.id

/-- A raw entry: the identity bytes and what a part needs of the command, the length of the scan-out, and the scan-out. -/
def State.rawEntry (s : State) (m : MCmd) : List Byte := let scan := s.scanOut m; s.canonicalEntry m ++ leBytes 8 scan.length ++ padMul 8 scan

def State.savedMatrix (s : State) : List MCmd := s.matrix.filter (fun m => match s.crewAt m.team.crew with | none => false | some c => c.state == .live)

/-! ### Memory, Ballast, Tether, Comet (R376) -/

/-- Ranges that hold something. -/
def State.mapRanges (s : State) : List Range := s.ranges.filter (fun r => r.len != 0)
/-- The backed pages of a range: virtual address and entry. -/
def State.backed (s : State) (r : Range) : List (Nat × Word) :=
  ((List.range (r.len / pageSize r.z)).map (fun i => (r.base + pageSize r.z * i, s.pte r (r.base + pageSize r.z * i)))).filter (fun p => pteV p.2)

def State.mapSection (s : State) : List Byte :=
  s.mapRanges.flatMap (fun r => leBytes 8 r.base ++ leBytes 8 r.len ++ leBytes 8 r.z ++ leBytes 8 (s.backed r).length) ++
  s.mapRanges.flatMap (fun r => (s.backed r).flatMap (fun p => leBytes 8 p.1 ++
    leBytes 8 ((if pteScm p.2 then 1 else 0) + (if pteRo p.2 then 2 else 0) + (if pteTracked p.2 then 4 else 0))))

/-- The bytes of backed pages; with Ballast lines recorded apart, the bytes that their stacks hold. -/
def State.contentsSection (s : State) (scm : Bool) : List Byte :=
  s.mapRanges.flatMap (fun r => (s.backed r).flatMap (fun p =>
    if scm then (List.range (pageSize r.z)).map (fun i => BitVec.ofNat 8 (readLE s.mem (pteFrame p.2 + i) 1)) else s.memBytes (pteFrame p.2) (pageSize r.z)))

/-- The virtual address of an SCM address, if a range backs it. -/
def State.virtualOf (s : State) (pa : Nat) : Option Nat :=
  s.mapRanges.findSome? (fun r => (s.backed r).findSome? (fun p =>
    if pteScm p.2 ∧ pteFrame p.2 ≤ pa ∧ pa < pteFrame p.2 + pageSize r.z then some (p.1 + (pa - pteFrame p.2)) else none))

/-- Accepted lines of pages that ranges back; lines of Comet's area belong to no page. -/
def State.ballastLines (s : State) : List (Nat × BitVec 512) := s.ballast.filterMap (fun b => (s.virtualOf b.addr).map (fun va => (va, b.data)))

def State.tetherSection (s : State) : List Byte :=
  let first := s.span.index.toNat * 2 ^ 18
  (List.range (2 ^ 18)).flatMap (fun i => leBytes 64 (s.homeLine (first + i)).value.toNat) ++
  (List.range (2 ^ 18)).flatMap (fun i => leBytes 4 (match (s.homeLine (first + i)).dir with | .ownerLost _ => 3 | _ => 0))

def State.cometSection (s : State) : List Byte :=
  leBytes 4 (s.comet.committed.getD 0#32).toNat ++ leBytes 2 s.span.group.toNat ++ leBytes 1 s.span.member ++
  packBits (s.tableLaunches.map (fun l => s.comet.tracked.contains l.id))

/-! ### What the tables have no field for (notes/assumptions/69.md) -/

/-- A list of numbers, with its length before it. -/
def listBytes (l : List Nat) : List Byte := leBytes 8 l.length ++ l.flatMap (leBytes 8)

/-- A sparse array as numbers: whether it is there, then its cells. -/
def cellList {w : Nat} : Option (SMap w) → List Nat
  | none => []
  | some l => 1 :: l.flatMap (fun p => [p.1, p.2.toNat])

/-- What an access that is to be made again holds but its address in memory, which is translated anew. -/
def Access.numbers (a : Access) : List Nat :=
  [a.ord, a.req, a.clause, a.lane, match a.loc with | .glob va _ => va | .tile _ _ _ _ => 0, a.width, a.idx] ++
  (match a.kind with
   | .load d e => [0, d.toNat, e, 0, 0, 0]
   | .store v step => [1, 0, 0, v.toNat, step.toNat, 0]
   | .atom op x y d e => [2, d.toNat, e, x.toNat, y.toNat, (encodeAtomOp op).toNat])

/-- What a team's record and entries do not say: its work-list holdings, its MPOP fences, the holdings of its retired clauses, the order of
its waits and commands, which of the commands are reductions and which words of blocks they have written, its copies not yet durable at
pspan, what a waiting lane instruction retains, its appends and accesses that are to be made again, the lanes of its matrix commands; and of a FAULTED
team whether its scalar stream has exited, and whether a lane instruction is to be re-executed. -/
def State.teamExtra (s : State) (r : TeamRef) (c : Crew) (t : Team) : List (List Nat) :=
  [[c.launchId.toNat, c.crewId.toNat, t.id],
   [if t.exited then 1 else 0, t.nextOrd, t.nextClause, t.fenceUid, match t.swait with | none => 0 | some w => w.began, if t.restart.isSome then 1 else 0],
   t.queue.flatMap (fun k => [k.uid, k.ord, k.fence, if k.started then 1 else 0]),
   t.retired.flatMap (fun k => [k.uid, k.addr, k.holds.toNat, k.ord, k.fence]),
   t.wl.flatMap (fun w => [w.set, w.items, if w.seed then 1 else 0]),
   t.lwaits.map (·.began),
   (s.commands.filter (fun m => m.ref == r)).flatMap (fun m => [m.ticket.toNat, m.ord, m.clauses, if m.xred then 1 else 0]),
   (s.pspanOpen.filter (fun p => p.1 == r)).map (fun p => p.2.toNat),
   cellList t.obufNext,
   t.slots.flatMap (fun x => [x.lane, x.set, x.list, x.pos, x.dest.toNat, x.item.toNat, x.clause, x.ord, x.idx]),
   (s.commands.filter (fun m => m.ref == r)).flatMap (fun m => m.blocks.flatMap (fun p => [m.ticket.toNat, p.1, p.2])),
   t.again.flatMap Access.numbers] ++
  ((s.matrix.filter (fun m => m.team == r)).map (fun m => [m.clause, m.ord, m.step.toNat] ++ m.laneOps.flatMap (fun p => [p.1, p.2.1.toNat, p.2.2.toNat])))

/-- Whether a team has anything of that kind. -/
def State.hasExtra (s : State) (r : TeamRef) (t : Team) : Bool :=
  (t.faulted && t.exited) || t.restart.isSome || !t.slots.isEmpty || !t.again.isEmpty || !t.wl.isEmpty || !t.retired.isEmpty || t.swait.isSome || !t.lwaits.isEmpty ||
  (t.fenceUid != 0 && !t.queue.isEmpty) || s.pspanOpen.any (fun p => p.1 == r) ||
  s.commands.any (fun m => m.ref == r) || s.matrix.any (fun m => m.team == r)

/-- Their records: a count of lists, then the lists. -/
def State.extraRecords (s : State) : List (List Byte) :=
  s.savedCrews.flatMap (fun p => p.2.teams.zipIdx.filterMap (fun q =>
    let r : TeamRef := ⟨p.1, q.2⟩
    if s.hasExtra r q.1 then (let l := s.teamExtra r p.2 q.1; some (leBytes 8 l.length ++ l.flatMap listBytes)) else none))

/-! ### The image (R367, R368) -/

/-- A section: kind, record count, bytes; every version is 1. -/
structure Section where
  kind : Nat
  count : Nat
  bytes : List Byte
  deriving DecidableEq, Repr

/-- What QUIESCE is asked to save. -/
structure SaveFlags where
  mem : Bool
  scm : Bool
  raw : Bool
  canonical : Bool
  deriving DecidableEq, Repr

def State.sections (s : State) (f : SaveFlags) : List Section :=
  [⟨1, s.tableLaunches.length, s.tableLaunches.flatMap launchEntry⟩, ⟨2, s.savedCrews.length, s.savedCrews.flatMap (fun p => s.crewRecord p.2)⟩,
   ⟨3, s.parked.length, s.parked.flatMap s.parkedBytes⟩] ++
  (if f.canonical then [Section.mk 4 s.savedMatrix.length (s.savedMatrix.flatMap s.canonicalEntry)] else []) ++
  (if f.raw then [Section.mk 0x8005 s.savedMatrix.length (s.savedMatrix.flatMap s.rawEntry)] else []) ++
  (if f.mem then [Section.mk 6 s.mapRanges.length s.mapSection,
    Section.mk 7 ((s.mapRanges.map (fun r => (s.backed r).length)).sum) (s.contentsSection f.scm)] else []) ++
  (if f.scm then [Section.mk 8 s.ballastLines.length (s.ballastLines.flatMap (fun b => leBytes 8 b.1 ++ leBytes 64 b.2.toNat))] else []) ++
  (if s.span.joined then [Section.mk 0x8009 (2 ^ 18) s.tetherSection] else []) ++ [Section.mk 0x000A 1 s.cometSection] ++
  (let l := s.extraRecords; if l.isEmpty then [] else [Section.mk 0x800B l.length l.flatten])

/-- The directory and the sections after it, from an offset on. -/
def layOut (off : Nat) : List Section → List Byte × List Byte
  | [] => ([], [])
  | x :: rest =>
    let (d, b) := layOut (off + roundUp x.bytes.length 64) rest
    (leBytes 2 x.kind ++ leBytes 2 1 ++ leBytes 4 x.count ++ leBytes 8 off ++ leBytes 8 x.bytes.length ++ zeros 8 ++ d, padMul 64 x.bytes ++ b)

/-- 1 + the greatest hint of a hinted launch; 1 with none. -/
def regNeed (ls : List Launch) : Nat := (ls.filter (fun l => recHinted l.record)).foldl (fun n l => max n (1 + recHint l.record)) 1

def State.image (s : State) (f : SaveFlags) : List Byte :=
  let xs := s.sections f
  let first := roundUp (256 + 32 * xs.length) 64
  let (dir, body) := layOut first xs
  let rest := padTo (first - 256) dir ++ body
  let head :=
    leBytes 8 0x45564153_4C56434F ++ leBytes 2 1 ++ leBytes 2 256 ++ [Config.isaLevel] ++ leBytes 1 Config.formatVersion ++ leBytes 1 Config.formatVersion ++
    leBytes 1 Config.formatVersion ++ [s.span.fver, s.span.tver] ++ leBytes 1 ((if f.raw then 1 else 0) + (if f.canonical then 2 else 0)) ++
    leBytes 1 ((if f.mem then 1 else 0) + (if f.scm then 2 else 0) + (if s.span.joined then 4 else 0)) ++
    leBytes 4 (if f.raw then Config.arrayVersion.toNat else 0) ++ leBytes 8 (256 + rest.length) ++ leBytes 4 xs.length ++ leBytes 4 (regNeed s.tableLaunches) ++
    leBytes 4 s.nextId.toNat ++ leBytes 4 s.capGen.toNat ++ leBytes 8 s.cutSeq.toNat ++ leBytes 2 s.span.index.toNat ++ leBytes 2 s.span.count.toNat ++ zeros 4 ++
    leBytes 32 (Config.sha3 rest).toNat
  padTo 256 head ++ rest

end Sys2Proof.Machine
end

