-- ==== Sys2Proof/Machine/Quiesce.lean ====
section
/-! DEFINITION. QUIESCE, its time-out, and RESUME: how every agent reaches the cut, and what is written there
(19_quiesce_save R362 to R366; 20_infield_test R383). -/

namespace Sys2Proof.Machine

/-! ### Leases (20 R383) -/

/-- A lease that is DEFERRED or DRAINING returns to DUE: its core takes placements again, its port trains again. A slot that the lease had
left vacant is a capacity change (01 R14). -/
def State.holdLease (s : State) (x : LeasedUnit) : State :=
  if x.state ≠ 2 ∧ x.state ≠ 3 then s
  else
    let s1 := (s.putUnit { x with state := 1, deferred := 0, drained := 0, moved := [] }).threshold x.u
    if x.state = 2 then s1
    else match x.u with
    | .core _ _ =>
      let s2 := { s1 with closedCores := s1.closedCores.filter (fun c => c != x.slot), vacantCores := s1.vacantCores.filter (fun c => c != x.slot) }
      if s1.vacantCores.contains x.slot then s2.capacityChange else s2
    | .port p => s1.portTo p 0
    | _ => s1

def State.holdLeases (s : State) : State := (s.decayed.units.map (·.u)).foldl (fun s u => s.holdLease (s.unit u)) s.decayed

/-! ### The cut (19 R363, R364) -/

/-- A team's streams stand where they may be stopped, and its long-latency operations have completed. -/
def State.crewAtCut (s : State) (c : Crew) : Bool :=
  c.teams.all (fun t => t.pending.isEmpty && t.sctr == 0#16 && t.lctr == 0#16 && s.laneAtStop c t)

/-- Every element of linear index below a cursor has moved, and no other. -/
def Command.atCursor (m : Command) : Bool := m.done.all (fun p => decide (p < m.done.length))

/-- Every agent has reached the cut; with scm = 0 the Ballast queues are empty too. -/
def State.atCut (s : State) (scm : Bool) : Bool :=
  s.crews.all (fun c => c.place.isNone || c.state != .live || s.crewAtCut c) &&
  s.wlItems.isEmpty && s.wlChanges.isEmpty && s.treqs.isEmpty && s.matrix.all (fun m => m.isMma || !m.started) &&
  s.commands.all (fun m => !m.isSpan && m.atCursor) && (scm || s.ballast.isEmpty)

/-- A line held in M or E is written back to its home. -/
def State.writeBack (s : State) (x : SliceLine) : State :=
  if x.st = .s then s
  else
    let s1 := s.dropSlice x.gang x.line
    if s1.homedHere x.line then
      (let h := s1.homeLine x.line
       if h.dir = .exclusive (sliceOf s1.span.index.toNat x.gang) then s1.putHome { h with value := x.value, dir := .uncached } else s1)
    else s1.sendData 0x32 (lineHome x.line) 0#32 (sliceHead x.line x.gang 7) (some x.value)

/-- The preserve area is discarded: the step it served is not captured. -/
def State.dropPreserved (s : State) : State :=
  if s.comet.preserved.isEmpty then s else { s with comet := { s.comet with preserved := [], barred := some s.comet.target } }

/-- The package is quiesced. -/
def State.cut (s : State) : State :=
  let s1 := (s.cometAbandon 3).dropPreserved
  { s1.slices.foldl (fun s x => s.writeBack x) s1 with quiesced := true, quiescing := none, cutSeq := s1.cutSeq + 1#64 }

/-- RESUME's effect: units that have passed their tests return, and those that have failed retire. -/
def State.resumeAll (s : State) : State := { s with quiesced := false, quiescing := none }.leasesReturn.advanceLeases

/-! ### The commands (19 R362, R365) -/

def saveFlags (p : List Byte) : SaveFlags :=
  let f := payAt p 16 1
  ⟨f.testBit 0, f.testBit 1, f.testBit 2, f.testBit 3⟩

/-- Output of QUIESCE: status, version, length, cut sequence number. -/
def quiesceOut (status ver len : Nat) (seq : BitVec 64) : List Byte := leBytes 2 status ++ leBytes 1 ver ++ zeros 5 ++ leBytes 8 len ++ leBytes 8 seq.toNat

/-- The image is written at its base, or does not fit its capacity. -/
def State.save (s : State) (p : List Byte) : State :=
  let base := payAt p 0 8
  let img := s.image (saveFlags p)
  if payAt p 8 8 < img.length ∨ 2 ^ 40 < base + img.length then s.answer rcSuccess (quiesceOut stBounds 0 0 s.cutSeq)
  else
    let s1 := s.hostStore base img
    (if (payAt p 16 1).testBit 4 then s1.resumeAll else s1).answer rcSuccess (quiesceOut stOk 1 img.length s1.cutSeq)

/-- Every GWAIT that a gate update has woken ends before the image is written: the image keeps the gate and not the update (05 R104). -/
def State.settleGates (s : State) : State :=
  (s.crews.zipIdx.flatMap (fun p => (List.range p.1.teams.length).map (fun i => (⟨p.2, i⟩ : TeamRef)))).foldl (fun s r => match s.teamAt r with
    | none => s
    | some (c, t) => match t.swait with
      | none => s
      | some w => if w.woken.isSome then (s.attempt r c t w).getD s else s) s

/-- The cut and the image, once every agent is there. -/
def State.tryCut (s : State) (p : List Byte) : State := if s.atCut (saveFlags p).scm then s.settleGates.cut.save p else s

/-- The budget of 2^26 management cycles is spent before the cut: no image, and the package goes on (R365). -/
def State.cutTimeout (s : State) : State := s.resumeAll.answer rcSuccess (quiesceOut stTimeout 0 0 0#64)

/-- QUIESCE begins, and is tried again while it runs. -/
def execQuiesce (payload : List Byte) (s : State) : Out :=
  .next (
    if !s.usable || (match s.mailboxRun with | none => false | some r => r != (opQuiesce, payload)) then s
    else match s.quiescing with
    | some q => if s.powerLoss.isSome ∨ q.2 ≠ payload then s else if 2 ^ 26 ≤ q.1 then s.cutTimeout else s.tryCut payload
    | none =>
      let f := payAt payload 16 1
      if payload.length < 18 then s.answer rcInvalid []
      else if s.quiesced then s.answer rcBusy []
      else if f / 4 % 4 = 0 ∨ 32 ≤ f ∨ payAt payload 17 1 = 0 ∨ payAt payload 0 8 % 4096 ≠ 0 then s.answer rcInvalid []
      else { s with quiescing := some (0, payload) }.holdLeases.tryCut payload)

/-- The budget is spent. -/
def execQuiesceTimeout (s : State) : Out :=
  .next (match s.quiescing with
    | none => s
    | some q => if q.1 < 2 ^ 26 || s.powerLoss.isSome then s else s.cutTimeout)

def execResume (payload : List Byte) (s : State) : Out :=
  mailbox s opResume payload 0 fun s => if s.quiesced then s.resumeAll.answer rcSuccess (leBytes 2 stOk) else s.answer rcBusy []

end Sys2Proof.Machine
end

