-- ==== Sys2Proof/Machine/Restore.lean ====
section
/-! DEFINITION. RESTORE: the checks of a save image, and its restoration onto this package (19_quiesce_save R377 to R379;
notes/assumptions/28.md). -/

namespace Sys2Proof.Machine

/-! ### Reading an image (R367, R368) -/

/-- An entry of the section directory. -/
structure SecEntry where
  kind : Nat
  ver : Nat
  count : Nat
  off : Nat
  len : Nat
  zero : Bool
  deriving DecidableEq, Repr

def secEntry (b : List Byte) (i : Nat) : SecEntry :=
  let e := (b.drop (256 + 32 * i)).take 32
  ⟨payAt e 0 2, payAt e 2 2, payAt e 4 4, payAt e 8 8, payAt e 16 8, payAt e 24 8 == 0⟩
def secEntries (b : List Byte) : List SecEntry := (List.range (payAt b 32 4)).map (secEntry b)
/-- The bytes and the record count of a section of version 1; empty where there is none. -/
def sectionOf (b : List Byte) (k : Nat) : Nat × List Byte :=
  match (secEntries b).find? (fun e => e.kind == k && e.ver == 1) with
  | none => (0, [])
  | some e => (e.count, (b.drop e.off).take e.len)
def hasSection (b : List Byte) (k : Nat) : Bool := (secEntries b).any (fun e => e.kind == k && e.ver == 1)

/-- Bytes that the tables give as zero. -/
def zeroAt (b : List Byte) (off n : Nat) : Bool := ((b.drop off).take n).all (fun x => x == 0#8)

/-- Sections aligned, in order, within the image and apart. -/
def dirOk (len : Nat) : Nat → List SecEntry → Bool
  | _, [] => true
  | at_, e :: rest => e.zero && e.off % 64 == 0 && decide (at_ ≤ e.off) && decide (e.off + e.len ≤ len) && dirOk len (e.off + e.len) rest

def imageShapeOk (b : List Byte) (len : Nat) : Bool :=
  decide (256 ≤ b.length) && payAt b 0 8 == 0x455641534C56434F && payAt b 10 2 == 256 && payAt b 60 4 == 0 && (b.drop 96).take 160 == zeros 160 &&
  payAt b 18 1 / 4 == 0 && payAt b 19 1 / 8 == 0 && payAt b 24 8 == len && decide (256 + 32 * payAt b 32 4 ≤ len) &&
  dirOk len (256 + 32 * payAt b 32 4) (secEntries b) && [1, 2, 3, 0x000A].all (fun k => (secEntries b).any (fun e => e.kind == k))

def knownKinds : List Nat := [1, 2, 3, 4, 0x8005, 6, 7, 8, 0x8009, 0x000A]

/-! ### Records as read -/

/-- A sparse array of the nonzero w-bit cells of some values. -/
def cellsOf {w : Nat} (l : List Nat) : SMap w := l.zipIdx.filterMap (fun p => let v : BitVec w := BitVec.ofNat w p.1; if v = 0#w then none else some (p.2, v))
def maskAt (b : List Byte) (off : Nat) : Mask := BitVec.ofNat 1024 (payAt b (off + 4) 128)
def bitsAt (b : List Byte) (n : Nat) : List Nat := (List.range n).filter (fun i => (payAt b (i / 8) 1).testBit (i % 8))

/-- A launch entry and its length. -/
def parseLaunch (b : List Byte) : Launch × Nat :=
  let x := payAt b 136 4
  let g := payAt b 140 4
  let d (i : Nat) : BitVec 96 := BitVec.ofNat 96 (payAt b (168 + 12 * i) 12)
  let r (i : Nat) : Nat × Nat := (payAt b (168 + 12 * x + 8 * i) 4, payAt b (172 + 12 * x + 8 * i) 4)
  ({ id := BitVec.ofNat 32 (payAt b 0 4), record := BitVec.ofNat 1024 (payAt b 8 128), ext := (List.range x).map d
     state := if payAt b 4 1 = 0 then .waiting else .eligible, epri := payAt b 5 1, ranges := (List.range g).map r }, roundUp (168 + 12 * x + 8 * g) 8)

/-- The zero fields of a launch entry: xdecl is one (R369). -/
def launchZeros (b : List Byte) : Bool := zeroAt b 6 2 && zeroAt b 128 7 && zeroAt b 144 24

/-- Some records in a row, each read by `f`, which answers its length. -/
def parseMany {α : Type} (f : List Byte → α × Nat) : Nat → List Byte → List α
  | 0, _ => []
  | n + 1, b => let (x, k) := f b; x :: parseMany f n (b.drop k)

/-- A tile image and its length; `uid` and `order` number the tile and its conversion. -/
def parseTile (uid order : Nat) (b : List Byte) : Tile × Nat :=
  let d1 := payAt b 8 8
  let n := payAt b 32 8
  let n' := payAt b 40 8
  let busy := (d1 / 2 ^ 52) % 2 == 1
  let tags := (d1 / 2 ^ 13) % 2 == 1
  let nb := if busy then roundUp (ceilDiv (ceilDiv n' 4096) 8) 8 else 0
  let words (off len : Nat) : SMap 32 := cellsOf ((List.range (len / 4)).map (fun i => payAt b (off + 4 * i) 4))
  let full (off len : Nat) : List Nat := if tags then bitsAt (b.drop off) (len / 4) else []
  let tb (len : Nat) : Nat := if tags then roundUp (ceilDiv (len / 4) 8) 8 else 0
  let o1 := 64 + nb
  let o2 := o1 + roundUp n 8
  let o3 := o2 + tb n
  let o4 := o3 + (if busy then n' else 0)
  let t := mkTile uid (BitVec.ofNat 8 (payAt b 16 1)) (BitVec.ofNat 64 (payAt b 0 8)) (BitVec.ofNat 32 (d1 % 2 ^ 16)) (payAt b 17 1 == 1)
  ({ t with layout := BitVec.ofNat 4 (d1 / 2 ^ 48), bstep := BitVec.ofNat 32 (payAt b 20 4), head := BitVec.ofNat 32 (payAt b 24 4), tail := BitVec.ofNat 32 (payAt b 28 4)
            words := words o1 n, full := full o2 n
            conv := if busy then some { target := BitVec.ofNat 4 (d1 / 2 ^ 9), done := (bitsAt (b.drop 64) (ceilDiv n' 4096)).length, words := words o3 n', full := full o4 n', order := order }
              else none }, if busy then o3 + roundUp (n' + (if tags then ceilDiv (n' / 4) 8 else 0)) 8 else o3)

/-- Tile images in a row, with the bytes that follow them, and whether their zero fields are zero. -/
def parseTiles (uid : Nat) : Nat → List Byte → List Tile × Bool × List Byte
  | 0, b => ([], true, b)
  | n + 1, b =>
    let (t, k) := parseTile uid uid b
    let (l, ok, rest) := parseTiles (uid + 1) n (b.drop k)
    (t :: l, ok && decide (payAt b 17 1 < 2) && zeroAt b 18 2 && zeroAt b 48 16, rest)

/-- A wake record. -/
structure Wake where
  stream : Nat
  lane : Nat
  remaining : Option Nat
  obj : Nat
  val : Nat
  deriving DecidableEq, Repr

def parseWake (b : List Byte) : Wake × Nat :=
  let n := payAt b 4 4
  (⟨payAt b 1 1, payAt b 2 2, if n = 0xFFFFFFFF then none else some n, payAt b 8 8, payAt b 16 8⟩, 32)

/-- A team as read, with what needs its instructions: its wake records and the bytes of its restart record; and whether its zero fields
are zero. -/
structure TeamImage where
  team : Team
  wakes : List Wake
  restart : List Byte
  zeros : Bool
  deriving DecidableEq, Repr

def holdsOf (a b : Nat) : BitVec 12 := BitVec.ofNat 12 ((if a < 12 then 2 ^ a else 0) ||| (if b < 12 then 2 ^ b else 0))

/-- A clause entry; the instruction count and the wait mask stand in the clause's header. -/
def parseClause (lanes : Mask) (b : List Byte) : Clause × Nat :=
  ({ uid := 0, addr := payAt b 0 8, mask := maskAt b 8 &&& lanes, count := 0, wait := 0#12, holds := holdsOf (payAt b 140 1) (payAt b 141 1)
     setA := BitVec.ofNat 4 (payAt b 140 1), setB := BitVec.ofNat 4 (payAt b 141 1)
     step := BitVec.ofNat 32 (payAt b 144 4), ord := 0, fence := 0, started := false }, 152)

/-- A stream command; its tile is named by its descriptor group. -/
def parseStream (c : Crew) (bands : Nat) (b : List Byte) : StreamCmd × Nat :=
  let w (i : Nat) : Word := BitVec.ofNat 64 (payAt b (8 + 8 * i) 8)
  ({ kind := payAt b 0 1, q := payAt b 1 1, r0 := w 0, r1 := w 1, r2 := w 2, r3 := w 3, t2 := w 4, t3 := w 5
     uid := if payAt b 0 1 = 2 then c.captureTile (payAt b 8 1) else 0, sent := bands * payAt b 56 4, ord := 0 }, 64)

/-- A team record and its length. A FAULTED team has not exited, unless the image says more of it (notes/assumptions/69.md). -/
def parseTeam (c : Crew) (record : BitVec 1024) (b : List Byte) : TeamImage × Nat :=
  let lanes := recLanes record
  let n (off k : Nat) : Nat := payAt b off k
  let code := n 514 1
  let nlq := n 3868 1
  let nscq := n 3870 1
  let qn (i : Nat) : Nat := n (3872 + i) 1
  let regs := n 512 2
  let o1 := 3888 + 152 * nlq
  let o2 := o1 + 64 * nscq
  let qoff (i : Nat) : Nat := o2 + 256 * ((List.range i).map qn).sum
  let o3 := qoff 8
  let o4 := o3 + (if n 3871 1 = 1 then 8 * lanes else 0)
  let o5 := o4 + roundUp (n 3884 4) 8
  let o6 := o5 + 32 * n 3880 4
  let o7 := o6 + roundUp (2 * lanes) 8
  let o8 := o7 + 8 * lanes * regs
  let used : BitVec 4 := BitVec.ofNat 4 (n o8 1)
  let accs := (List.range 4).filter (fun i => used.getLsbD i)
  let live := laneMask lanes
  let queue := (parseMany (parseClause live) nlq (b.drop 3888)).zipIdx.map (fun (p : Clause × Nat) => { p.1 with uid := p.2 + 1 })
  let t : Team :=
    { id := n 515 1, lanes := lanes, regs := regs, priv := recPriv record, pc := BitVec.ofNat 64 (n 504 8)
      sregs := cellsOf ((List.range 63).map (fun i => n (8 * i) 8))
      masks := cellsOf ((List.range 8).map (fun i => (maskAt b (560 + 132 * i) &&& live).toNat))
      stack := (List.range (n 1616 1)).map (fun i => maskAt b (1624 + 132 * i) &&& live)
      queue := queue, lidx := n 3869 1
      queues := (List.range 8).map (fun i => (List.range (qn i)).map (fun j => BitVec.ofNat 2048 (n (qoff i + 256 * j) 256)))
      scq := parseMany (parseStream c (lanes / 32)) nscq (b.drop o1)
      obuf := if n 3871 1 = 1 then some (cellsOf ((List.range lanes).map (fun l => n (o3 + 8 * l) 8))) else none
      vregs := (List.range regs).flatMap (fun v => (List.range lanes).filterMap (fun l =>
        let x : Word := BitVec.ofNat 64 (n (o7 + 8 * (v * lanes + l)) 8); if x = 0#64 then none else some (v * 1024 + l, x)))
      preds := cellsOf ((List.range 15).map (fun p => (maskOf lanes (fun l => (n (o6 + 2 * l) 2).testBit p)).toNat))
      exited := code == 3 || code == 4 || code == 5, finished := code == 4, faulted := code == 2
      stepNow := BitVec.ofNat 32 (n 516 4), batchOpen := BitVec.ofNat 16 (n 520 2), seqNext := BitVec.ofNat 32 (n 524 4)
      guardDepth := BitVec.ofNat 4 (n 528 1), nopreDepth := BitVec.ofNat 4 (n 529 1), nopreUsed := n 532 4, nopreSpent := n 530 1 == 1
      lfm := maskAt b 3736 &&& live, trapPc := BitVec.ofNat 56 (n 536 8), trapCause := BitVec.ofNat 28 (n 544 4), trapLclause := BitVec.ofNat 56 (n 548 8)
      trapLidx := BitVec.ofNat 4 (n 556 1), trapLane := (n 556 1).testBit 4, trapInh := (n 556 1).testBit 5, pairSeq := BitVec.ofNat 16 (n 522 2)
      acc := (accs.zipIdx).flatMap (fun p => (List.range 16384).filterMap (fun k =>
        let x : BitVec 32 := BitVec.ofNat 32 (n (o8 + 8 + 65536 * p.2 + 4 * k) 4); if x = 0#32 then none else some (p.1 * 16384 + k, x)))
      accUsed := used, nextClause := nlq + 1 }
  let zero := decide (n 530 1 < 2) && n 531 1 == 0 && decide (n 556 1 < 64) && zeroAt b 557 3 && zeroAt b 1617 7 && decide (n 3871 1 < 2) &&
    (List.range nlq).all (fun i => zeroAt b (3888 + 152 * i + 142) 2 && zeroAt b (3888 + 152 * i + 148) 4) &&
    (List.range nscq).all (fun i => zeroAt b (o1 + 64 * i + 2) 6 && zeroAt b (o1 + 64 * i + 60) 4) &&
    (List.range (n 3880 4)).all (fun i => zeroAt b (o5 + 32 * i + 24) 8) && (List.range lanes).all (fun l => decide (n (o6 + 2 * l) 2 < 2 ^ 15)) &&
    decide (n o8 1 < 16) && zeroAt b (o8 + 1) 7
  (⟨t, parseMany parseWake (n 3880 4) (b.drop o5), (b.drop o4).take (n 3884 4), zero⟩, o8 + 8 + 65536 * accs.length)

/-- A crew as read. -/
structure CrewImage where
  crew : Crew
  teams : List TeamImage
  regs : Nat
  grans : Nat
  zeros : Bool
  deriving DecidableEq, Repr

/-- A crew record and its length; the launch table gives its record. -/
def parseCrew (ls : List Launch) (b : List Byte) : CrewImage × Nat :=
  let id : BitVec 32 := BitVec.ofNat 32 (payAt b 0 4)
  let record := match ls.find? (fun l => l.id == id) with | none => 0#1024 | some l => l.record
  let (tiles, tilesOk, rest) := parseTiles 1 (payAt b 18 2) (b.drop 5248)
  let g (i : Nat) : Nat := if payAt b (64 + 72 * i) 1 = 1 then payAt b (72 + 72 * i) 64 else 0
  let c : Crew :=
    { launchId := id, crewId := BitVec.ofNat 32 (payAt b 4 4), place := none, born := 0, lastRegion := payAt b 30 1
      tiles := tiles, nextUid := tiles.length + 1, globals := cellsOf ((List.range 64).map g)
      windows := (List.range 16).map (fun i => BitVec.ofNat 256 (payAt b (4672 + 32 * i) 32)), capNote := BitVec.ofNat 9 (payAt b 28 2) }
  let ts : List TeamImage := parseMany (parseTeam c record) (payAt b 16 1) rest
  let c1 := { c with teams := ts.map TeamImage.team, heldFaulted := (payAt b 17 1).testBit 0 }
  let zero := decide (payAt b 17 1 < 4) && decide (payAt b 28 2 < 512) && zeroAt b 31 33 &&
    (List.range 64).all (fun i => decide (payAt b (64 + 72 * i) 1 < 2) && zeroAt b (65 + 72 * i) 7) && zeroAt b 5184 64 && tilesOk && ts.all (·.zeros)
  (⟨c1, ts, payAt b 20 4, payAt b 24 4, zero⟩, payAt b 8 8)

def imageLaunches (b : List Byte) : List Launch := let (n, x) := sectionOf b 1; parseMany parseLaunch n x
def imageCrews (b : List Byte) : List CrewImage := let (n, x) := sectionOf b 2; parseMany (parseCrew (imageLaunches b)) n x

/-! ### The checks (R377) -/

/-- Identity bytes and queue order of a matrix entry. -/
def matrixIdent (e : List Byte) : List Byte := e.take 12
/-- A raw entry: its canonical part, with its scan-out after it. -/
def parseRaw (b : List Byte) : List Byte × Nat := (b.take 128 ++ (b.drop 136).take (payAt b 128 8), 136 + roundUp (payAt b 128 8) 8)
def rawEntries (b : List Byte) : List (List Byte) := let (n, x) := sectionOf b 0x8005; parseMany parseRaw n x
def canonicalEntries (b : List Byte) : List (List Byte) := let (n, x) := sectionOf b 4; parseMany (fun y => (y.take 128, 128)) n x
def commandEntries (b : List Byte) : List (List Byte) := let (n, x) := sectionOf b 3; parseMany (fun y => (y.take 256, 256)) n x
/-- Whether the raw form can be used on this part. -/
def rawUsable (b : List Byte) : Bool := BitVec.ofNat 32 (payAt b 20 4) == Config.arrayVersion

def imageUnknown (b : List Byte) : Bool :=
  decide (1 < payAt b 8 2) || decide (Config.isaLevel.toNat < payAt b 12 1) || [13, 14, 15].any (fun i => decide (Config.formatVersion < payAt b i 1)) ||
  (secEntries b).any (fun e => decide (e.kind < 0x8000) && (!knownKinds.contains e.kind || e.ver != 1)) ||
  (!rawUsable b && (rawEntries b).any (fun e => !(canonicalEntries b).any (fun x => matrixIdent x == matrixIdent e)))

/-- A saved crew fits an empty core, and its cohort some gang. -/
def State.imageFits (s : State) (b : List Byte) : Bool :=
  decide (payAt b 36 4 ≤ s.regions) &&
  (imageCrews b).all (fun c => decide (c.teams.length ≤ 16) && decide (c.regs ≤ Config.coreRegs) && decide (c.grans ≤ Config.coreGranules)) &&
  (imageLaunches b).all (fun l => (List.range (3 * s.regions)).any (fun g => decide (recCohort l.record ≤ s.gangSlots g)))

/-- A range of the image's memory map with its number of backed pages. -/
structure MapRange where
  base : Nat
  len : Nat
  z : Nat
  pages : Nat
  deriving DecidableEq, Repr

def imageMap (b : List Byte) : List MapRange :=
  let (n, x) := sectionOf b 6
  parseMany (fun y => (⟨payAt y 0 8, payAt y 8 8, payAt y 16 8, payAt y 24 8⟩, 32)) n x
/-- Frames that the pools of a page size hold. -/
def State.poolFrames (s : State) (z : Nat) : Nat :=
  ((List.range 4).map (fun d => match s.pools[3 * d + z]? with | none => 0 | some r => if r.en then (r.prod - r.cons).toNat else 0)).sum

def State.mapFits (s : State) (b : List Byte) : Bool :=
  !(payAt b 19 1).testBit 0 ||
  ((imageMap b).all (fun m => s.ranges.any (fun r => r.len != 0 && r.base == m.base && r.len == m.len && r.z == m.z)) &&
   (List.range 3).all (fun z => decide ((((imageMap b).filter (fun m => m.z == z)).map (·.pages)).sum ≤ s.poolFrames z)))

/-- The zero fields of the records. -/
def recordZeros (b : List Byte) : Bool :=
  (let (n, x) := sectionOf b 1; parseMany (fun y => (launchZeros y, (parseLaunch y).2)) n x).all id && (imageCrews b).all (·.zeros) &&
  (commandEntries b).all (fun e => zeroAt e 9 7) && (canonicalEntries b ++ rawEntries b).all (fun e => zeroAt e 80 48) &&
  (List.range ((imageMap b).map (·.pages)).sum).all (fun i =>
    let o := 32 * (sectionOf b 6).1 + 16 * i
    zeroAt (sectionOf b 6).2 (o + 7) 1 && decide (payAt (sectionOf b 6).2 (o + 8) 1 < 8) && zeroAt (sectionOf b 6).2 (o + 9) 7)

/-- The status of the first failing check. -/
def State.checkImage (s : State) (base len : Nat) (b : List Byte) : Nat :=
  if 2 ^ 40 < base + len ∨ !imageShapeOk b len ∨ !recordZeros b then stBounds
  else if s.isDead base len || s.isPoisoned base len || Config.sha3 (b.drop 256) != BitVec.ofNat 256 (payAt b 64 32) then stUncorrectable
  else if imageUnknown b then stAborted
  else if !s.imageFits b then stCapacity
  else if !s.mapFits b then stTranslation
  else stOk

/-! ### Memory, Ballast, Tether (R378, 1 to 3) -/

/-- The first die whose pool of a page size has a frame. -/
def State.poolDie (s : State) (z : Nat) : Nat :=
  ((List.range 4).find? (fun d => match s.pools[3 * d + z]? with | none => false | some r => r.en && r.prod != r.cons)).getD 0

/-- A page of the image: its contents, then scm, ro and tracked. A page that is not bound takes a frame by first touch. -/
def State.restorePage (s : State) (va flags : Nat) (b : List Byte) : State :=
  match s.rangeOf va with
  | none => s
  | some r =>
    let e := s.pte r va
    let s1 := if pteV e then s else ({ s with mem := writeLE s.mem (r.entryAddr va) 8 (e &&& ~~~2#64).toNat }.translate none (s.poolDie r.z) va false).1
    let e1 := s1.pte r va
    let s2 := if isScm (pteFrame e1) then s1.acceptBytes (pteFrame e1) b else s1.hostStore (pteFrame e1) b
    { s2 with mem := writeLE s2.mem (r.entryAddr va) 8 ((e1 &&& ~~~14#64) ||| BitVec.ofNat 64 (2 * (flags % 8))).toNat }.tlbDropIn va 1

/-- Page entries with their contents, in order. -/
def State.restorePages (s : State) : Nat → List Byte → List Byte → State
  | 0, _, _ => s
  | n + 1, es, cs =>
    let va := payAt es 0 8
    let k := match s.rangeOf va with | none => 0 | some r => pageSize r.z
    (s.restorePage va (payAt es 8 1) (cs.take k)).restorePages n (es.drop 16) (cs.drop k)

def State.restoreMemory (s : State) (b : List Byte) : State :=
  if (payAt b 19 1).testBit 0 then s.restorePages ((imageMap b).map (·.pages)).sum ((sectionOf b 6).2.drop (32 * (sectionOf b 6).1)) (sectionOf b 7).2 else s

/-- Accepted lines, in their order; a page that has taken a frame of a pool takes its lines in that frame. -/
def State.restoreBallast (s : State) (b : List Byte) : State :=
  let (n, x) := sectionOf b 8
  (parseMany (fun y => ((payAt y 0 8, BitVec.ofNat 512 (payAt y 8 64)), 72)) n x).foldl (fun s p =>
    match s.translate none 0 p.1 false with
    | (s1, .ok pa _) => if isScm pa then s1.acceptLine pa p.2 else s1.hostStore pa (leBytes 64 p.2.toNat)
    | (s1, _) => s1) s

/-- The image's Tether section is for this member of a span of this size. -/
def State.tetherFits (s : State) (b : List Byte) : Bool := payAt b 56 2 == s.span.index.toNat && payAt b 58 2 == s.span.count.toNat

def State.restoreTether (s : State) (b : List Byte) : State :=
  if !hasSection b 0x8009 || !s.tetherFits b then s
  else
    let x := (sectionOf b 0x8009).2
    (List.range (2 ^ 18)).foldl (fun s i =>
      s.putHome ⟨s.span.index.toNat * 2 ^ 18 + i, if payAt x (2 ^ 24 + 4 * i) 1 = 3 then .ownerLost (sliceOf s.span.index.toNat 0) else .uncached,
        BitVec.ofNat 512 (payAt x (64 * i) 64)⟩) s

/-! ### Teams re-armed (R379) -/

/-- Count and wait mask of a clause, from its header. -/
def State.headed (s : State) (core : Nat) (cl : Clause) : Clause :=
  match (s.fetchWords core cl.addr 3).2 with
  | .error _ => cl
  | .ok ws => match decodeHeader (ws.getD 0 0#32) (ws.getD 1 0#32) (ws.getD 2 0#32) with
    | .error _ => cl
    | .ok hd => { cl with count := hd.count.toNat, wait := hd.wait }

/-- The word that a scalar wait stands on. -/
def scalarWant (r : TeamRef) (c : Crew) (t : Team) (i : Instr) : Option TagWant :=
  match i with
  | .sldf _ a _ _ h _ _ => (c.tile h).map (fun tl => ⟨r.crew, tl.uid, coordOf (t.sreg a), true, none⟩)
  | .sste _ a _ _ h _ => (c.tile h).map (fun tl => ⟨r.crew, tl.uid, coordOf (t.sreg a), false, none⟩)
  | _ => none

/-- The word that a lane's wait stands on. -/
def laneWant (r : TeamRef) (c : Crew) (i : Instr) (lane : Nat) (a : Word) : Option TagWant :=
  let get (h : LaneHead) (m : ModM) (full : Bool) : Option TagWant := match tagWant h m full r c lane a with | .ok w => w | .error _ => none
  match i with
  | .tldf h m | .tstIffull h m => get h m true
  | .tste h m | .tldIfempty h m => get h m false
  | .msgtake _ m => some ⟨r.crew, (formTile c m).uid, ⟨0, 0, 0, 0⟩, true, none⟩
  | _ => none

/-- The operands of a waiting lane: what the wake record keeps of s0, and s1. -/
def laneOperands (t : Team) (i : Instr) (w : Wake) : Word × Word :=
  let s1 (h : LaneHead) : Word := t.src t.popped (memS1 h) w.lane
  match i with
  | .rld _ _ => (BitVec.ofNat 64 w.obj, BitVec.ofNat 64 w.val)
  | .msgput h _ => (BitVec.ofNat 64 w.obj, s1 h)
  | .tldf h _ | .tste h _ | .tldIfempty h _ | .tstIffull h _ => (BitVec.ofNat 64 w.val, s1 h)
  | _ => (0#64, 0#64)

/-- What a waiting lane instruction retains, read again from the saved registers where the image does not say it
(notes/assumptions/69.md). -/
def laneRetains (t : Team) (i : Instr) : Option (SMap 64) :=
  match i with
  | .rld h m | .msgput h m | .msgtake h m | .tldf h m | .tste h m | .tldIfempty h m | .tstIffull h m => t.memKeep h m
  | _ => none

/-- Bytes of a restart record that follow the popped entries: of a WLAPP that is to be re-executed 16 for each faulted lane, and 16 for each
append that is to be made again. -/
def restartTail (t : Team) (i : Option Instr) (again : Bool) : Nat :=
  16 * t.slots.length + (match i with
  | some (.wlapp _ _) => if again then 16 * (maskLanes t.lfm t.lanes).length else 0
  | _ => 0)

/-- The entries that the lane instruction at lidx has popped, by queue, each queue as many, and the rest of the record (R373). -/
def parsePopped (t : Team) (i : Option Instr) (again : Bool) (b : List Byte) : List (Nat × List Band) × List Byte :=
  let qs := match i with | none => [] | some i => instrQueues i
  let k := min t.bands ((b.length - restartTail t i again) / (256 * max 1 qs.length))
  if qs.isEmpty || k == 0 then ([], b)
  else (qs.zipIdx.map (fun q => (q.1, (List.range k).map (fun j => BitVec.ofNat 2048 (payAt b (256 * (q.2 * k + j)) 256)))), b.drop (256 * qs.length * k))

/-- What a fault keeps for the re-execution: the popped vectors where they are whole, then the set X. -/
def parseRestart (t : Team) (i : Option Instr) (again : Bool) (b : List Byte) : Option Restart :=
  if !again then none
  else
    let (pops, rest) := parsePopped t i again b
    let whole := pops.filter (fun p => p.2.length == t.bands)
    match i with
    | some (.cstore _ _) | some (.xld _ _) => some ⟨whole, if rest.length < 132 then none else some (maskAt rest 0 &&& laneMask t.lanes)⟩
    | _ => some ⟨whole, none⟩

/-- A WLAPP at which a restart record stands, in an image that says no more of it: the lanes that have positions are appends to be made
again, and the others, if there are any, re-execute it (notes/assumptions/40.md). -/
def Team.splitAppends (t : Team) (i : Option Instr) (b : List Byte) : Team :=
  match i, t.restart, t.queue with
  | some (.wlapp h m), some q, cl :: _ =>
    let rest := (parsePopped t i true b).2
    let placed := (maskLanes t.lfm t.lanes).zipIdx.filter (fun p => 16 * (p.2 + 1) ≤ rest.length && payAt rest (16 * p.2) 8 != 0xFFFFFFFFFFFFFFFF)
    let slots := placed.map (fun p => WlSlot.mk p.1 (t.src q.popped (memS0 h m) p.1).toNat (payAt rest (16 * p.2) 8) (payAt rest (16 * p.2 + 8) 8) h.dst
      (t.src q.popped (memS1 h) p.1) cl.uid 0 t.lidx)
    let left := (maskLanes t.lfm t.lanes).filter (fun l => placed.all (fun p => p.1 != l))
    if left.isEmpty then { t with slots := slots, restart := none, taken := [], obuf := t.memKeep h m, lidx := t.lidx + 1 }
    else { t with slots := slots, lfm := maskOf t.lanes (fun l => left.contains l) }
  | _, _, _ => t

/-- What the lane instruction at lidx has taken and no fault keeps. -/
def parseTaken (t : Team) (i : Option Instr) (again : Bool) (b : List Byte) : List (Nat × List Band) :=
  (parsePopped t i again b).1.filter (fun p => !again || p.2.length != t.bands)

/-- A sparse array that a list of numbers holds. -/
def cellsIn (l : List Nat) : Option (SMap 64) := if l.isEmpty then none else some ((List.range ((l.length - 1) / 2)).map (fun i => (l.getD (2 * i + 1) 0, BitVec.ofNat 64 (l.getD (2 * i + 2) 0))))

/-- The head stream command's vector in progress: its entries that have been delivered stand in its queue or have been taken. -/
def Team.resumeStream (t : Team) : Team :=
  match t.scq with
  | [] => t
  | k :: rest => { t with scq := { k with sent := k.sent + ((t.queues.getD k.q []).length + (t.takenOf k.q).length) % t.bands } :: rest }

/-! ### What the tables have no field for (notes/assumptions/69.md) -/

/-- A list of numbers after its length, and the bytes it takes. -/
def parseList (b : List Byte) : List Nat × Nat := let n := payAt b 0 8; ((List.range n).map (fun i => payAt b (8 + 8 * i) 8), 8 + 8 * n)
def parseExtra (b : List Byte) : List (List Nat) × Nat := let l := parseMany parseList (payAt b 0 8) (b.drop 8); (l, 8 + (l.map (fun x => 8 + 8 * x.length)).sum)
def imageExtra (b : List Byte) : List (List (List Nat)) := let (n, x) := sectionOf b 0x800B; parseMany parseExtra n x

/-- The record of a team; none where the image has none. -/
def extraOf (es : List (List (List Nat))) (c : Crew) (t : Team) : List (List Nat) :=
  (es.find? (fun e => e.getD 0 [] == [c.launchId.toNat, c.crewId.toNat, t.id])).getD []
/-- A list in stretches of k numbers. -/
def stretches (k : Nat) (l : List Nat) : List (List Nat) := (List.range (l.length / k)).map (fun i => (l.drop (k * i)).take k)

/-- An access that is to be made again. -/
def accessOf (x : List Nat) : Access :=
  let g (i : Nat) : Nat := x.getD i 0
  { ord := g 0, req := g 1, stream := .lane, clause := g 2, lane := g 3, loc := .glob (g 4) 0, width := g 5, idx := g 6
    kind := if g 7 = 0 then .load (BitVec.ofNat 9 (g 8)) (g 9)
      else if g 7 = 1 then .store (BitVec.ofNat 64 (g 10)) (BitVec.ofNat 32 (g 11))
      else .atom ((decodeAtomOp (BitVec.ofNat 4 (g 12))).getD .add) (BitVec.ofNat 64 (g 10)) (BitVec.ofNat 64 (g 11)) (BitVec.ofNat 9 (g 8)) (g 9) }

/-- A team takes up what its record says. -/
def Team.withExtra (t : Team) (e : List (List Nat)) : Team :=
  if e.isEmpty then t
  else
    let g (l : List Nat) (i : Nat) : Nat := l.getD i 0
    let top := e.getD 1 []
    let q := stretches 4 (e.getD 2 [])
    { t with
      exited := g top 0 == 1, nextOrd := g top 1, nextClause := g top 2, fenceUid := g top 3
      queue := t.queue.zipIdx.map (fun (p : Clause × Nat) => match q[p.2]? with | none => p.1 | some x => { p.1 with uid := g x 0, ord := g x 1, fence := g x 2, started := g x 3 == 1 })
      retired := (stretches 5 (e.getD 3 [])).map (fun x =>
        { uid := g x 0, addr := g x 1, mask := 0#1024, count := 0, wait := 0#12, holds := BitVec.ofNat 12 (g x 2), step := 0#32, ord := g x 3, fence := g x 4, started := true })
      wl := (stretches 3 (e.getD 4 [])).map (fun x => ⟨g x 0, g x 1, g x 2 == 1⟩)
      again := (stretches 13 (e.getD 11 [])).map accessOf
      slots := (stretches 9 (e.getD 9 [])).map (fun x => ⟨g x 0, g x 1, g x 2, g x 3, BitVec.ofNat 9 (g x 4), BitVec.ofNat 64 (g x 5), g x 6, g x 7, g x 8⟩) }

/-- A gate wait of a restored team: its gate, and the phase it holds where that differs from the token already (05 R104). -/
def gateArm (c : Crew) (t : Team) (w : ScalarWait) : ScalarWait :=
  match w.instr with
  | .gwait _ a b h _ => (match gateTile c h (t.sreg a) with
    | .error _ => w
    | .ok (tl, x) =>
      let phase := gatePhase (BitVec.ofNat 64 (tl.read x none))
      { w with gate := some (tl.uid, x), woken := if phase = getElem 16 0 (t.sreg b) then none else some phase })
  | _ => w

/-- A restored team's clauses, restart record and waits, read with the instructions that its streams stand at. -/
def State.rearm (s : State) (r : TeamRef) (ti : TeamImage) (es : List (List (List Nat))) : State :=
  match s.teamAt r with
  | none => s
  | some (c, t) =>
    let e := extraOf es c t
    let lanesWait := ti.wakes.filter (fun w => w.stream == 1)
    let begun := decide (0 < t.lidx) || !lanesWait.isEmpty || !ti.restart.isEmpty || t.obuf.isSome || t.lfm != 0#1024
    let t1 := { t with queue := t.queue.zipIdx.map (fun (p : Clause × Nat) => { s.headed c.core p.1 with started := p.2 == 0 && begun }) }.withExtra e
    let head := s.headInstr c t1
    let again := if e.isEmpty then t1.lfm != 0#1024 else (e.getD 1 []).getD 5 0 == 1
    let t2 := ({ t1 with restart := parseRestart t1 head again ti.restart, taken := parseTaken t1 head again ti.restart } : Team)
    let t2 := (if e.isEmpty then t2.splitAppends head ti.restart else t2).resumeStream
    let at_ (l : List Nat) (i : Nat) : Nat := match l[i]? with | none => s.nextWait + 1 | some k => k
    let sw := match ti.wakes.find? (fun w => w.stream == 0), s.peekScalar c t2 with
      | some w, some i => some (gateArm c t2 { instr := i, remaining := w.remaining, began := at_ (e.getD 1 []) 4, want := scalarWant r c t2 i })
      | _, _ => none
    let lw := match head with
      | none => []
      | some i => lanesWait.zipIdx.map (fun p => let w := p.1; let (a, b) := laneOperands t2 i w; LaneWait.mk w.lane i w.remaining (at_ (e.getD 5 []) p.2) (laneWant r c i w.lane a) a b 0)
    let t3 := { t2 with swait := sw, lwaits := lw, obufNext := if lw.isEmpty then none else if e.isEmpty then head.bind (laneRetains t2) else cellsIn (e.getD 8 []) }
    let holes := t3.slots.map (fun x => WlHole.mk x.set x.list x.pos false r)
    { s.putTeam r t3 with pspanOpen := s.pspanOpen ++ (e.getD 7 []).map (fun k => (r, BitVec.ofNat 32 k)), nextWait := max (s.nextWait + 2) ((lw.map (·.began) ++ sw.toList.map (·.began)).foldl max 0 + 1), wlHoles := s.wlHoles ++ holes }

/-! ### Crews, commands, matrix commands (R378, 5 and 6) -/

/-- A crew record becomes an evicted crew; a FAULTED team raises event 0x0A again. -/
def State.restoreCrew (s : State) (es : List (List (List Nat))) (x : CrewImage) : State :=
  let k := s.crews.length
  let c := { x.crew with born := s.nextBorn, lastRegion := x.crew.lastRegion % s.regions }
  let s1 := { s with crews := s.crews ++ [c], nextBorn := s.nextBorn + 1 }
  let s2 := x.teams.zipIdx.foldl (fun s p => s.rearm ⟨k, p.2⟩ p.1 es) s1
  let s3 := s2.modCrew k (fun c => { c with growEvicted := c.teams.any (fun t => t.growWant.isSome) })
  if c.heldFaulted then s3.faultEvents c else s3

/-- The reference of the team that identity bytes name. -/
def State.identRef (s : State) (b : List Byte) : Option TeamRef :=
  match s.findCrew (payAt b 0 4) (payAt b 4 4) with
  | none => none
  | some k => match s.crewAt k with
    | none => none
    | some c => let i := c.teams.findIdx (fun t => t.id == payAt b 8 1); if i < c.teams.length then some ⟨k, i⟩ else none

/-- A parked command goes on from its cursor. Where the image does not say of which kind it is, one whose operation and fourth word are
zero is a copy (notes/assumptions/69.md). -/
def State.restoreCommand (s : State) (es : List (List (List Nat))) (b : List Byte) : State :=
  match s.identRef b with
  | none => s
  | some r => match s.teamAt r with
    | none => s
    | some (c, t) =>
      let said := ((stretches 4 ((extraOf es c t).getD 6 [])).find? (fun x => x.getD 0 0 == payAt b 16 8)).getD []
      let blocks := ((stretches 3 ((extraOf es c t).getD 10 [])).filter (fun x => x.getD 0 0 == payAt b 16 8)).map (fun x => (x.getD 1 0, x.getD 2 0))
      let words : BitVec 256 := BitVec.ofNat 256 (payAt b 32 32)
      let f (lo n : Nat) : Nat := (words.extractLsb' lo n).toNat
      let m : Command :=
        { id := s.nextCmd, xred := (match said[3]? with | some k => k == 1 | none => decide (f 33 3 ≠ 0 ∨ f 192 64 ≠ 0)), crew := r.crew, team := r.team, core := c.core, ticket := BitVec.ofNat 48 (payAt b 16 8), words := words
          swin := BitVec.ofNat 256 (payAt b 64 32), dwin := BitVec.ofNat 256 (payAt b 96 32), sdesc := BitVec.ofNat 512 (payAt b 128 64), ddesc := BitVec.ofNat 512 (payAt b 192 64)
          suid := if f 8 1 = 0 then c.captureTile (f 0 8) else 0, duid := if f 17 1 = 0 then c.captureTile (f 9 8) else 0
          guid := if f 37 2 = 2 then c.captureTile (f 43 8) else 0, blocks := blocks, ord := said.getD 1 0, clauses := said.getD 2 0
          done := List.range (payAt b 24 8), deadAt := s.dead.length }
      { s with commands := s.commands ++ [m], nextCmd := s.nextCmd + 1 }

/-- A row-major accumulator image, where a raw entry brings one. -/
def Team.withScan (t : Team) (m : MCmd) (scan : List Byte) : Team :=
  if m.isMma && decide (65536 ≤ scan.length) then t.setAcc m.accN (fun r c => payAt scan (4 * (128 * r + c)) 4) else t

/-- A matrix command resumes from its cursor, and the accumulator of a raw entry is read from it. The lane operands of MREAD and MWRITE
are those that the image records, else they are read from the saved registers (notes/assumptions/69.md). -/
def State.restoreMatrix (s : State) (es : List (List (List Nat))) (b : List Byte) : State :=
  let w (i : Nat) : W32 := BitVec.ofNat 32 (payAt b (16 + 4 * i) 4)
  match s.identRef b, decodeLane (w 0) (w 1) (w 2) with
  | some r, .ok i =>
    (match s.teamAt r with
     | none => s
     | some (c, t) =>
       let src := (List.range 5).map (fun j => BitVec.ofNat 64 (payAt b (32 + 8 * j) 8))
       let said := (extraOf es c t).getD (12 + payAt b 10 2) []
       let lanes (h : LaneHead) (val : Nat → Word) : List (Nat × Word × Word) :=
         if said.isEmpty then
           ((maskLanes (maskOf t.lanes (fun l => t.pred h.guard.toNat l != h.neg)) t.lanes).filter (fun l => accInside (coordOf (t.src [] (mxS0 h) l)))).map
             (fun l => (l, t.src [] (mxS0 h) l, val l))
         else (stretches 3 (said.drop 3)).map (fun x => (x.getD 0 0, BitVec.ofNat 64 (x.getD 1 0), BitVec.ofNat 64 (x.getD 2 0)))
       let base : MCmd := { id := s.nextCmd, core := c.core, team := r, clause := said.getD 0 0, ord := said.getD 1 0, step := match said[2]? with | none => t.headStep | some k => BitVec.ofNat 32 k
                            instr := i, src := src
                            cursor := payAt b 12 4, pairSeq := BitVec.ofNat 16 (payAt b 72 2) }
       let m : MCmd := match i with
         | .mma _ k => { base with src := src.take 3, uidA := c.captureTile k.hA.toNat, uidB := c.captureTile k.hB.toNat }
         | .mmaPair _ k => { base with src := src.take 3, uidA := c.captureTile k.hA.toNat, uidB := if c.leads then c.captureTile k.hB.toNat else 0 }
         | .mread h _ => { base with src := [], laneOps := lanes h (fun _ => 0#64) }
         | .mwrite h _ => { base with src := [], laneOps := lanes h (fun l => t.src [] (mxS1 h) l) }
         | .mdrain _ k => { base with uidA := if k.glob then 0 else c.captureTile k.dest.toNat, uidB := if k.residual then c.captureTile k.res.toNat else 0
                                      desc := if k.glob then cellGet c.globals k.dest.toNat else 0#512 }
         | _ => { base with src := [] }
       { s.modTeam r (fun t => t.withScan m (b.drop 128)) with matrix := s.matrix ++ [m], nextCmd := s.nextCmd + 1 })
  | _, _ => s

/-- The matrix entries that are used: of a command the raw one where the part can read it, else the canonical one; the oldest of a team
first. -/
def matrixEntries (b : List Byte) : List (List Byte) :=
  let raw := if rawUsable b then rawEntries b else []
  let l := raw ++ (canonicalEntries b).filter (fun e => !raw.any (fun x => matrixIdent x == matrixIdent e))
  let top := (l.map (fun e => payAt e 10 2)).foldl max 0
  (List.range (top + 1)).flatMap (fun i => l.filter (fun e => payAt e 10 2 == i))

/-! ### The whole (R378) -/

def State.restoreTable (s : State) (b : List Byte) : State :=
  { s with launches := imageLaunches b, crews := [], wlHoles := [], pspanOpen := [], nextId := BitVec.ofNat 32 (payAt b 40 4) }

/-- The launches that the image's Comet section registers. -/
def imageTracked (b : List Byte) : List (BitVec 32) :=
  let x := (sectionOf b 0x000A).2
  let ls := imageLaunches b
  (bitsAt (x.drop 7) ls.length).filterMap (fun i => (ls[i]?).map (·.id))

def State.restoreAllFrom (s : State) (b : List Byte) : State :=
  let s1 := ((s.restoreMemory b).restoreBallast b).restoreTether b
  let es := imageExtra b
  let s2 := (imageCrews b).foldl (fun s c => s.restoreCrew es c) (s1.restoreTable b)
  let s3 := (commandEntries b).foldl (fun s e => s.restoreCommand es e) s2
  let s4 := (matrixEntries b).foldl (fun s e => s.restoreMatrix es e) s3
  ({ s4 with comet := { s4.comet with tracked := imageTracked b } }).capacityChange

def execRestore (payload : List Byte) (s : State) : Out :=
  mailbox s opRestore payload 16 fun s =>
    let base := payAt payload 0 8
    let len := payAt payload 8 8
    if base % 4096 ≠ 0 then s.answer rcInvalid []
    else if s.quiesced || s.launchOpen then s.answer rcBusy []
    else
      let b := s.memBytes base len
      let code := s.checkImage base len b
      if code ≠ stOk then s.answer rcSuccess (leBytes 2 code ++ zeros 1)
      else
        let skipped := hasSection b 0x8009 && !s.tetherFits b
        let raw := hasSection b 0x8005 && rawUsable b
        (s.restoreAllFrom b).answer rcSuccess (leBytes 2 stOk ++ leBytes 1 ((if skipped then 1 else 0) + (if raw then 2 else 0)))

end Sys2Proof.Machine
end

