-- ==== Sys2Proof/Machine/Scalar.lean ====
section
/-! DEFINITION. Scalar integer arithmetic, immediates, branches, masks and the lane queue's simple forms
(08_scalar_isa R161 to R163, R167 to R169; 03_two_streams R59, R66, R68). -/

namespace Sys2Proof.Machine

/-- An instruction that writes one register from the team's registers and moves past `n` bytes. -/
def scalarOp (s : State) (d : SReg) (n : Nat) (f : Team → Word) : Out := onTeam s (fun t => t.result d (f t) n)
/-- A two-operand instruction of major 0x01 (08 R161). -/
def alu (s : State) (d a b : SReg) (f : Word → Word → Word) : Out := scalarOp s d 4 (fun t => f (t.sreg a) (t.sreg b))

/-- Signed quotient towards zero, with the corners of R161. -/
def divS (x y : Word) : Word := if y = 0#64 then BitVec.allOnes 64 else x.sdiv y
def divU (x y : Word) : Word := if y = 0#64 then BitVec.allOnes 64 else x / y
/-- Bits [127:64] of a product. -/
def mulHighS (x y : Word) : Word := BitVec.ofInt 64 (x.toInt * y.toInt / (2 ^ 64 : Nat))
def mulHighU (x y : Word) : Word := BitVec.ofNat 64 (x.toNat * y.toNat / 2 ^ 64)
def shamt (y : Word) : Nat := (field y 5 0).toNat
def clz64 (x : Word) : Word := BitVec.ofNat 64 (if x = 0#64 then 64 else 63 - x.toNat.log2)
def popc64 (x : Word) : Word := BitVec.ofNat 64 ((List.range 64).foldl (fun n i => if x.getLsbD i then n + 1 else n) 0)
def brev64 (x : Word) : Word := x.reverse

def execAdd (d a b : SReg) (s : State) : Out := alu s d a b (fun x y => x + y)
def execSub (d a b : SReg) (s : State) : Out := alu s d a b (fun x y => x - y)
def execMul (d a b : SReg) (s : State) : Out := alu s d a b (fun x y => x * y)
def execMulh (d a b : SReg) (s : State) : Out := alu s d a b (fun x y => mulHighS x y)
def execMulhn (d a b : SReg) (s : State) : Out := alu s d a b (fun x y => mulHighU x y)
def execDiv (d a b : SReg) (s : State) : Out := alu s d a b (fun x y => divS x y)
def execDivn (d a b : SReg) (s : State) : Out := alu s d a b (fun x y => divU x y)
def execRem (d a b : SReg) (s : State) : Out := alu s d a b (fun x y => x - y * divS x y)
def execRemn (d a b : SReg) (s : State) : Out := alu s d a b (fun x y => if y = 0#64 then x else x % y)
def execAnd (d a b : SReg) (s : State) : Out := alu s d a b (fun x y => x &&& y)
def execOr (d a b : SReg) (s : State) : Out := alu s d a b (fun x y => x ||| y)
def execXor (d a b : SReg) (s : State) : Out := alu s d a b (fun x y => x ^^^ y)
def execAndn (d a b : SReg) (s : State) : Out := alu s d a b (fun x y => x &&& ~~~y)
def execShl (d a b : SReg) (s : State) : Out := alu s d a b (fun x y => x <<< shamt y)
def execShr (d a b : SReg) (s : State) : Out := alu s d a b (fun x y => x >>> shamt y)
def execSar (d a b : SReg) (s : State) : Out := alu s d a b (fun x y => x.sshiftRight (shamt y))
def execRol (d a b : SReg) (s : State) : Out := alu s d a b (fun x y => x.rotateLeft (shamt y))
def execMin (d a b : SReg) (s : State) : Out := alu s d a b (fun x y => if x.slt y then x else y)
def execMax (d a b : SReg) (s : State) : Out := alu s d a b (fun x y => if x.slt y then y else x)
def execMinn (d a b : SReg) (s : State) : Out := alu s d a b (fun x y => if x.ult y then x else y)
def execMaxn (d a b : SReg) (s : State) : Out := alu s d a b (fun x y => if x.ult y then y else x)
def execClz (d a : SReg) (s : State) : Out := scalarOp s d 4 (fun t => clz64 (t.sreg a))
def execPopc (d a : SReg) (s : State) : Out := scalarOp s d 4 (fun t => popc64 (t.sreg a))
def execBrev (d a : SReg) (s : State) : Out := scalarOp s d 4 (fun t => brev64 (t.sreg a))
/-- Sign extension from the low w + 1 bits. -/
def sextLow (x : Word) (w : BitVec 6) : Word := (x <<< (63 - w.toNat)).sshiftRight (63 - w.toNat)
def zextLow (x : Word) (w : BitVec 6) : Word := (x <<< (63 - w.toNat)) >>> (63 - w.toNat)
def execSext (d a : SReg) (w : BitVec 6) (s : State) : Out := scalarOp s d 4 (fun t => sextLow (t.sreg a) w)
def execZext (d a : SReg) (w : BitVec 6) (s : State) : Out := scalarOp s d 4 (fun t => zextLow (t.sreg a) w)
def execSet (d a b : SReg) (cc : Cond) (s : State) : Out :=
  scalarOp s d 4 (fun t => if condHolds cc (t.sreg a) (t.sreg b) then 1#64 else 0#64)

/-! ### Immediates (08 R162, R163) -/

def execAddi (d a : SReg) (imm : BitVec 14) (s : State) : Out := scalarOp s d 4 (fun t => let x := t.sreg a; let y := imm.signExtend 64; x + y)
def execAndi (d a : SReg) (imm : BitVec 14) (s : State) : Out := scalarOp s d 4 (fun t => let x := t.sreg a; let y := imm.signExtend 64; x &&& y)
def execOri (d a : SReg) (imm : BitVec 14) (s : State) : Out := scalarOp s d 4 (fun t => let x := t.sreg a; let y := imm.signExtend 64; x ||| y)
def execXori (d a : SReg) (imm : BitVec 14) (s : State) : Out := scalarOp s d 4 (fun t => let x := t.sreg a; let y := imm.signExtend 64; x ^^^ y)
def execShli (d a : SReg) (sh : BitVec 6) (s : State) : Out := scalarOp s d 4 (fun t => t.sreg a <<< sh.toNat)
def execShri (d a : SReg) (sh : BitVec 6) (s : State) : Out := scalarOp s d 4 (fun t => t.sreg a >>> sh.toNat)
def execSari (d a : SReg) (sh : BitVec 6) (s : State) : Out := scalarOp s d 4 (fun t => (t.sreg a).sshiftRight sh.toNat)
def execLi (d : SReg) (imm : BitVec 46) (s : State) : Out := scalarOp s d 8 (fun _ => imm.signExtend 64)
def execLiHi (d : SReg) (ext : BitVec 32) (s : State) : Out := scalarOp s d 8 (fun t => ext ++ (field (t.sreg d) 31 0))
def execSel (d a b c : SReg) (s : State) : Out := scalarOp s d 8 (fun t => if t.sreg c = 0#64 then t.sreg b else t.sreg a)

/-! ### Control flow (08 R167) -/

/-- A branch form: the target where the condition holds, else the next word. -/
def branchIf (t : Team) (c : Bool) {n : Nat} (off : BitVec n) (len : Nat) : Team :=
  if c then { t with pc := branchTarget t.pc off } else t.advance len
def execB (off : BitVec 20) (s : State) : Out := onTeam s (fun t => branchIf t true off 4)
def execBz (a : SReg) (off : BitVec 20) (s : State) : Out := onTeam s (fun t => branchIf t (t.sreg a == 0#64) off 4)
def execBnz (a : SReg) (off : BitVec 20) (s : State) : Out := onTeam s (fun t => branchIf t (!(t.sreg a == 0#64)) off 4)
def execCall (off : BitVec 20) (s : State) : Out := onTeam s (fun t => branchIf (t.setSreg 62#6 (t.pc + 4#64)) true off 4)
def execLoop (a : SReg) (off : BitVec 20) (s : State) : Out :=
  onTeam s (fun t => let u := t.setSreg a (t.sreg a - 1#64); branchIf u (!(u.sreg a == 0#64)) off 4)
def execBmz (m : MReg) (off : BitVec 20) (s : State) : Out := onTeam s (fun t => branchIf t (t.mask m == 0#1024) off 4)
def execBmnz (m : MReg) (off : BitVec 20) (s : State) : Out := onTeam s (fun t => branchIf t (!(t.mask m == 0#1024)) off 4)
def execBcmp (cc : Cond) (a b : SReg) (off : BitVec 32) (s : State) : Out :=
  onTeam s (fun t => branchIf t (condHolds cc (t.sreg a) (t.sreg b)) off 8)
/-- JR: a target that is not a multiple of 4 traps ALIGNMENT at the JR (18 R351). -/
def execJr (a : SReg) (s : State) : Out :=
  onTeam s (fun t => if field (t.sreg a) 1 0 = 0#2 then { t with pc := t.sreg a } else t.trapHere causeAlignment)

/-! ### Masks (03 R66, R68; 08 R168) -/

def execMpush (ms : MReg) (s : State) : Out :=
  onTeam s (fun t =>
    if 16 ≤ t.stack.length then t.trapHere causeMaskstack
    else (({ t with stack := t.stack ++ [t.mask 0#3] }).setMask 0#3 (t.mask 0#3 &&& t.mask ms)).advance 4)
def execMelse (s : State) : Out :=
  onTeam s (fun t =>
    match t.stack.getLast? with
    | none => t.trapHere causeMaskstack
    | some top => (t.setMask 0#3 (top &&& ~~~(t.mask 0#3))).advance 4)
/-- MPOP is a reconvergence point: the clauses appended so far come before later accesses (03 R68). -/
def execMpop (s : State) : Out :=
  onTeam s (fun t =>
    match t.stack.getLast? with
    | none => t.trapHere causeMaskstack
    | some top => (({ t with stack := t.stack.dropLast, fenceUid := t.nextClause }).setMask 0#3 top).advance 4)
def execMmov (md ms : MReg) (s : State) : Out := onTeam s (fun t => (t.setMask md (t.mask ms)).advance 4)
def execMand (md ms mt : MReg) (s : State) : Out := onTeam s (fun t => (t.setMask md (t.mask ms &&& t.mask mt)).advance 4)
def execMor (md ms mt : MReg) (s : State) : Out := onTeam s (fun t => (t.setMask md (t.mask ms ||| t.mask mt)).advance 4)
def execMnot (md ms : MReg) (s : State) : Out := onTeam s (fun t => (t.setMask md (~~~(t.mask ms))).advance 4)
def execMcnt (sd : SReg) (ms : MReg) (s : State) : Out :=
  scalarOp s sd 4 (fun t => BitVec.ofNat 64 (maskLanes (t.mask ms) t.lanes).length)
def execMfirst (sd : SReg) (ms : MReg) (s : State) : Out :=
  scalarOp s sd 4 (fun t => match maskLanes (t.mask ms) t.lanes with | [] => BitVec.allOnes 64 | l :: _ => BitVec.ofNat 64 l)

/-! ### Flags (03 R59; 08 R169) -/

/-- FWAIT waits, as a hold, until every named flag has no holding. -/
def execFwait (flags : BitVec 12) (s : State) : Out := onTeam s (fun t => if t.flagsBusy flags then t else t.advance 4)
def execFclr (flags : BitVec 12) (s : State) : Out := onTeam s (fun t => (t.dropFlags flags).advance 4)
/-- LDRAIN waits until the lane queue is empty and every clause is complete. -/
def execLdrain (s : State) : Out := onTeam s (fun t => if t.queue.isEmpty && t.retired.isEmpty then t.advance 4 else t)

def execNop (s : State) : Out := onTeam s (fun t => t.advance 4)

end Sys2Proof.Machine
end

