-- ==== Sys2Proof/Machine/Dispatch.lean ====
section
/-! DEFINITION. The dispatch of every instruction, command and event to its meaning. -/

namespace Sys2Proof.Machine

def exec (i : Instr) (s : State) : Host.Outcome State Fault Refusal :=
  match i with
  | .unassignedEncoding st => Sys2Proof.Machine.execUnassignedEncoding st s
  | .instructionFetchFault st why at_ => Sys2Proof.Machine.execInstructionFetchFault st why at_ s
  | .add d a b => Sys2Proof.Machine.execAdd d a b s
  | .sub d a b => Sys2Proof.Machine.execSub d a b s
  | .mul d a b => Sys2Proof.Machine.execMul d a b s
  | .mulh d a b => Sys2Proof.Machine.execMulh d a b s
  | .mulhn d a b => Sys2Proof.Machine.execMulhn d a b s
  | .div d a b => Sys2Proof.Machine.execDiv d a b s
  | .divn d a b => Sys2Proof.Machine.execDivn d a b s
  | .rem d a b => Sys2Proof.Machine.execRem d a b s
  | .remn d a b => Sys2Proof.Machine.execRemn d a b s
  | .and d a b => Sys2Proof.Machine.execAnd d a b s
  | .or d a b => Sys2Proof.Machine.execOr d a b s
  | .xor d a b => Sys2Proof.Machine.execXor d a b s
  | .andn d a b => Sys2Proof.Machine.execAndn d a b s
  | .shl d a b => Sys2Proof.Machine.execShl d a b s
  | .shr d a b => Sys2Proof.Machine.execShr d a b s
  | .sar d a b => Sys2Proof.Machine.execSar d a b s
  | .rol d a b => Sys2Proof.Machine.execRol d a b s
  | .min d a b => Sys2Proof.Machine.execMin d a b s
  | .max d a b => Sys2Proof.Machine.execMax d a b s
  | .minn d a b => Sys2Proof.Machine.execMinn d a b s
  | .maxn d a b => Sys2Proof.Machine.execMaxn d a b s
  | .clz d a => Sys2Proof.Machine.execClz d a s
  | .popc d a => Sys2Proof.Machine.execPopc d a s
  | .brev d a => Sys2Proof.Machine.execBrev d a s
  | .sext d a w => Sys2Proof.Machine.execSext d a w s
  | .zext d a w => Sys2Proof.Machine.execZext d a w s
  | .set d a b cc => Sys2Proof.Machine.execSet d a b cc s
  | .addi d a imm => Sys2Proof.Machine.execAddi d a imm s
  | .andi d a imm => Sys2Proof.Machine.execAndi d a imm s
  | .ori d a imm => Sys2Proof.Machine.execOri d a imm s
  | .xori d a imm => Sys2Proof.Machine.execXori d a imm s
  | .shli d a sh => Sys2Proof.Machine.execShli d a sh s
  | .shri d a sh => Sys2Proof.Machine.execShri d a sh s
  | .sari d a sh => Sys2Proof.Machine.execSari d a sh s
  | .li d imm => Sys2Proof.Machine.execLi d imm s
  | .liHi d ext => Sys2Proof.Machine.execLiHi d ext s
  | .sel d a b c => Sys2Proof.Machine.execSel d a b c s
  | .sld d a size sp => Sys2Proof.Machine.execSld d a size sp s
  | .sst d a size sp => Sys2Proof.Machine.execSst d a size sp s
  | .sldf d a b size h e consume => Sys2Proof.Machine.execSldf d a b size h e consume s
  | .sste d a b size h e => Sys2Proof.Machine.execSste d a b size h e s
  | .satom d a b size op sp => Sys2Proof.Machine.execSatom d a b size op sp s
  | .b off => Sys2Proof.Machine.execB off s
  | .bz a off => Sys2Proof.Machine.execBz a off s
  | .bnz a off => Sys2Proof.Machine.execBnz a off s
  | .call off => Sys2Proof.Machine.execCall off s
  | .loop a off => Sys2Proof.Machine.execLoop a off s
  | .bmz m off => Sys2Proof.Machine.execBmz m off s
  | .bmnz m off => Sys2Proof.Machine.execBmnz m off s
  | .bcmp cc a b off => Sys2Proof.Machine.execBcmp cc a b off s
  | .jr a => Sys2Proof.Machine.execJr a s
  | .mpush ms => Sys2Proof.Machine.execMpush ms s
  | .melse => Sys2Proof.Machine.execMelse s
  | .mpop => Sys2Proof.Machine.execMpop s
  | .mmov md ms => Sys2Proof.Machine.execMmov md ms s
  | .mand md ms mt => Sys2Proof.Machine.execMand md ms mt s
  | .mor md ms mt => Sys2Proof.Machine.execMor md ms mt s
  | .mnot md ms => Sys2Proof.Machine.execMnot md ms s
  | .mcnt sd ms => Sys2Proof.Machine.execMcnt sd ms s
  | .mfirst sd ms => Sys2Proof.Machine.execMfirst sd ms s
  | .lq off => Sys2Proof.Machine.execLq off s
  | .fwait flags => Sys2Proof.Machine.execFwait flags s
  | .fclr flags => Sys2Proof.Machine.execFclr flags s
  | .ldrain => Sys2Proof.Machine.execLdrain s
  | .strmD q a b => Sys2Proof.Machine.execStrmD q a b s
  | .strmC4 q a b => Sys2Proof.Machine.execStrmC4 q a b s
  | .qld q a => Sys2Proof.Machine.execQld q a s
  | .qclose q => Sys2Proof.Machine.execQclose q s
  | .xwin w a => Sys2Proof.Machine.execXwin w a s
  | .xcopy d a => Sys2Proof.Machine.execXcopy d a s
  | .xred d a => Sys2Proof.Machine.execXred d a s
  | .bclose d => Sys2Proof.Machine.execBclose d s
  | .bwait d a e => Sys2Proof.Machine.execBwait d a e s
  | .mwait d a e => Sys2Proof.Machine.execMwait d a e s
  | .pbarPdomain => Sys2Proof.Machine.execPbarPdomain s
  | .pbarPspan => Sys2Proof.Machine.execPbarPspan s
  | .stepmark a => Sys2Proof.Machine.execStepmark a s
  | .talloc d a b h => Sys2Proof.Machine.execTalloc d a b h s
  | .tfree h => Sys2Proof.Machine.execTfree h s
  | .tdesc d h => Sys2Proof.Machine.execTdesc d h s
  | .layout d h tag => Sys2Proof.Machine.execLayout d h tag s
  | .lwait h => Sys2Proof.Machine.execLwait h s
  | .gbind d a g => Sys2Proof.Machine.execGbind d a g s
  | .zfill d a tgt => Sys2Proof.Machine.execZfill d a tgt s
  | .ginit a b h => Sys2Proof.Machine.execGinit a b h s
  | .garrive d a h => Sys2Proof.Machine.execGarrive d a h s
  | .gexpect a b h => Sys2Proof.Machine.execGexpect a b h s
  | .gwait d a b h e => Sys2Proof.Machine.execGwait d a b h e s
  | .wlinit d a => Sys2Proof.Machine.execWlinit d a s
  | .wltake d a e => Sys2Proof.Machine.execWltake d a e s
  | .tdwait d a e => Sys2Proof.Machine.execTdwait d a e s
  | .rgrow d a e => Sys2Proof.Machine.execRgrow d a e s
  | .rshrink a => Sys2Proof.Machine.execRshrink a s
  | .yield => Sys2Proof.Machine.execYield s
  | .guardBegin => Sys2Proof.Machine.execGuardBegin s
  | .guardEnd => Sys2Proof.Machine.execGuardEnd s
  | .nopreBegin => Sys2Proof.Machine.execNopreBegin s
  | .nopreEnd => Sys2Proof.Machine.execNopreEnd s
  | .capq d => Sys2Proof.Machine.execCapq d s
  | .locq d a => Sys2Proof.Machine.execLocq d a s
  | .launch d a => Sys2Proof.Machine.execLaunch d a s
  | .tclaim d a => Sys2Proof.Machine.execTclaim d a s
  | .sysr d reg => Sys2Proof.Machine.execSysr d reg s
  | .sysw d reg => Sys2Proof.Machine.execSysw d reg s
  | .clk d => Sys2Proof.Machine.execClk d s
  | .trap code => Sys2Proof.Machine.execTrap code s
  | .eret => Sys2Proof.Machine.execEret s
  | .nop => Sys2Proof.Machine.execNop s
  | .exit => Sys2Proof.Machine.execExit s
  | .fenceAcq sc => Sys2Proof.Machine.execFenceAcq sc s
  | .fenceRel sc => Sys2Proof.Machine.execFenceRel sc s
  | .fenceAr sc => Sys2Proof.Machine.execFenceAr sc s
  | .iadd h m => Sys2Proof.Machine.execIadd h m s
  | .isub h m => Sys2Proof.Machine.execIsub h m s
  | .imul h m => Sys2Proof.Machine.execImul h m s
  | .imulh h m => Sys2Proof.Machine.execImulh h m s
  | .imad h m => Sys2Proof.Machine.execImad h m s
  | .iabs h m => Sys2Proof.Machine.execIabs h m s
  | .ineg h m => Sys2Proof.Machine.execIneg h m s
  | .imin h m => Sys2Proof.Machine.execImin h m s
  | .imax h m => Sys2Proof.Machine.execImax h m s
  | .iand h m => Sys2Proof.Machine.execIand h m s
  | .ior h m => Sys2Proof.Machine.execIor h m s
  | .ixor h m => Sys2Proof.Machine.execIxor h m s
  | .inot h m => Sys2Proof.Machine.execInot h m s
  | .ishl h m => Sys2Proof.Machine.execIshl h m s
  | .ishr h m => Sys2Proof.Machine.execIshr h m s
  | .isar h m => Sys2Proof.Machine.execIsar h m s
  | .ipopc h m => Sys2Proof.Machine.execIpopc h m s
  | .iclz h m => Sys2Proof.Machine.execIclz h m s
  | .ibfx h m => Sys2Proof.Machine.execIbfx h m s
  | .ibfi h m => Sys2Proof.Machine.execIbfi h m s
  | .isel h m => Sys2Proof.Machine.execIsel h m s
  | .iadds h m => Sys2Proof.Machine.execIadds h m s
  | .isubs h m => Sys2Proof.Machine.execIsubs h m s
  | .idot4 h m => Sys2Proof.Machine.execIdot4 h m s
  | .icmpEq h m => Sys2Proof.Machine.execIcmpEq h m s
  | .icmpNe h m => Sys2Proof.Machine.execIcmpNe h m s
  | .icmpLt h m => Sys2Proof.Machine.execIcmpLt h m s
  | .icmpLe h m => Sys2Proof.Machine.execIcmpLe h m s
  | .icmpGt h m => Sys2Proof.Machine.execIcmpGt h m s
  | .icmpGe h m => Sys2Proof.Machine.execIcmpGe h m s
  | .fadd h m => Sys2Proof.Machine.execFadd h m s
  | .fsub h m => Sys2Proof.Machine.execFsub h m s
  | .fmul h m => Sys2Proof.Machine.execFmul h m s
  | .ffma h m => Sys2Proof.Machine.execFfma h m s
  | .fmin h m => Sys2Proof.Machine.execFmin h m s
  | .fmax h m => Sys2Proof.Machine.execFmax h m s
  | .fabs h m => Sys2Proof.Machine.execFabs h m s
  | .fneg h m => Sys2Proof.Machine.execFneg h m s
  | .fcmpEq h m => Sys2Proof.Machine.execFcmpEq h m s
  | .fcmpNe h m => Sys2Proof.Machine.execFcmpNe h m s
  | .fcmpLt h m => Sys2Proof.Machine.execFcmpLt h m s
  | .fcmpLe h m => Sys2Proof.Machine.execFcmpLe h m s
  | .fcmpGt h m => Sys2Proof.Machine.execFcmpGt h m s
  | .fcmpGe h m => Sys2Proof.Machine.execFcmpGe h m s
  | .fcmpUn h m => Sys2Proof.Machine.execFcmpUn h m s
  | .frcp h m => Sys2Proof.Machine.execFrcp h m s
  | .frsq h m => Sys2Proof.Machine.execFrsq h m s
  | .fsqrt h m => Sys2Proof.Machine.execFsqrt h m s
  | .fdiv h m => Sys2Proof.Machine.execFdiv h m s
  | .fexp2 h m => Sys2Proof.Machine.execFexp2 h m s
  | .flog2 h m => Sys2Proof.Machine.execFlog2 h m s
  | .fsin h m => Sys2Proof.Machine.execFsin h m s
  | .fcos h m => Sys2Proof.Machine.execFcos h m s
  | .ftanh h m => Sys2Proof.Machine.execFtanh h m s
  | .fsigm h m => Sys2Proof.Machine.execFsigm h m s
  | .fround h m => Sys2Proof.Machine.execFround h m s
  | .fclass h m => Sys2Proof.Machine.execFclass h m s
  | .fscale h m => Sys2Proof.Machine.execFscale h m s
  | .cvt h m => Sys2Proof.Machine.execCvt h m s
  | .pack h m => Sys2Proof.Machine.execPack h m s
  | .unpk h m => Sys2Proof.Machine.execUnpk h m s
  | .qbp h m => Sys2Proof.Machine.execQbp h m s
  | .dqbp h m => Sys2Proof.Machine.execDqbp h m s
  | .had32 h m => Sys2Proof.Machine.execHad32 h m s
  | .frmax h m => Sys2Proof.Machine.execFrmax h m s
  | .fradd h m => Sys2Proof.Machine.execFradd h m s
  | .fusedSoftmax hm mm ht mt he me hs ms => Sys2Proof.Machine.execFusedSoftmax hm mm ht mt he me hs ms s
  | .mov h m => Sys2Proof.Machine.execMov h m s
  | .movi h imm => Sys2Proof.Machine.execMovi h imm s
  | .lidx h m => Sys2Proof.Machine.execLidx h m s
  | .shfl h m => Sys2Proof.Machine.execShfl h m s
  | .bcast h m => Sys2Proof.Machine.execBcast h m s
  | .vote h m => Sys2Proof.Machine.execVote h m s
  | .pfxc h m => Sys2Proof.Machine.execPfxc h m s
  | .scan h m => Sys2Proof.Machine.execScan h m s
  | .red h m => Sys2Proof.Machine.execRed h m s
  | .lnop => Sys2Proof.Machine.execLnop s
  | .tld h m => Sys2Proof.Machine.execTld h m s
  | .tldIfempty h m => Sys2Proof.Machine.execTldIfempty h m s
  | .tst h m => Sys2Proof.Machine.execTst h m s
  | .tstIffull h m => Sys2Proof.Machine.execTstIffull h m s
  | .tldf h m => Sys2Proof.Machine.execTldf h m s
  | .tste h m => Sys2Proof.Machine.execTste h m s
  | .tldt h m => Sys2Proof.Machine.execTldt h m s
  | .gld h m => Sys2Proof.Machine.execGld h m s
  | .gst h m => Sys2Proof.Machine.execGst h m s
  | .rld h m => Sys2Proof.Machine.execRld h m s
  | .atom h m => Sys2Proof.Machine.execAtom h m s
  | .msgput h m => Sys2Proof.Machine.execMsgput h m s
  | .msgtake h m => Sys2Proof.Machine.execMsgtake h m s
  | .wlapp h m => Sys2Proof.Machine.execWlapp h m s
  | .cstore h m => Sys2Proof.Machine.execCstore h m s
  | .xld h m => Sys2Proof.Machine.execXld h m s
  | .mma h m => Sys2Proof.Machine.execMma h m s
  | .mmaPair h m => Sys2Proof.Machine.execMmaPair h m s
  | .mzero h acc => Sys2Proof.Machine.execMzero h acc s
  | .mread h acc => Sys2Proof.Machine.execMread h acc s
  | .mwrite h acc => Sys2Proof.Machine.execMwrite h acc s
  | .mdrain h m => Sys2Proof.Machine.execMdrain h m s
  | .clauseStart r => Sys2Proof.Machine.execClauseStart r s
  | .clauseRetire r => Sys2Proof.Machine.execClauseRetire r s
  | .clauseComplete r uid => Sys2Proof.Machine.execClauseComplete r uid s
  | .longLatencyComplete r k => Sys2Proof.Machine.execLongLatencyComplete r k s
  | .storeAck r st k => Sys2Proof.Machine.execStoreAck r st k s
  | .teamWake r st lane => Sys2Proof.Machine.execTeamWake r st lane s
  | .waitTimeout r st lane => Sys2Proof.Machine.execWaitTimeout r st lane s
  | .streamDeliver r k => Sys2Proof.Machine.execStreamDeliver r k s
  | .commandSignal id => Sys2Proof.Machine.execCommandSignal id s
  | .layoutBlockConvert crew h => Sys2Proof.Machine.execLayoutBlockConvert crew h s
  | .firstTouchBind die va => Sys2Proof.Machine.execFirstTouchBind die va s
  | .matrixCommandStart core => Sys2Proof.Machine.execMatrixCommandStart core s
  | .accumulatorSwap core acc => Sys2Proof.Machine.execAccumulatorSwap core acc s
  | .mmaComplete core => Sys2Proof.Machine.execMmaComplete core s
  | .shadowLatchReplay core => Sys2Proof.Machine.execShadowLatchReplay core s
  | .pairOffer core => Sys2Proof.Machine.execPairOffer core s
  | .pairStart core t => Sys2Proof.Machine.execPairStart core t s
  | .pairStartCycle core => Sys2Proof.Machine.execPairStartCycle core s
  | .pairOfferWithdraw core => Sys2Proof.Machine.execPairOfferWithdraw core s
  | .crewFaultSave crew => Sys2Proof.Machine.execCrewFaultSave crew s
  | .crewPlace launch cohort gang slot => Sys2Proof.Machine.execCrewPlace launch cohort gang slot s
  | .crewEvict crew => Sys2Proof.Machine.execCrewEvict crew s
  | .rgrowDeadlockEvict core => Sys2Proof.Machine.execRgrowDeadlockEvict core s
  | .priorityAging launch region => Sys2Proof.Machine.execPriorityAging launch region s
  | .priorityEvict region => Sys2Proof.Machine.execPriorityEvict region s
  | .cohortSteal region => Sys2Proof.Machine.execCohortSteal region s
  | .launchAccept q => Sys2Proof.Machine.execLaunchAccept q s
  | .dependenceGatesResolved launch => Sys2Proof.Machine.execDependenceGatesResolved launch s
  | .leaseDue u => Sys2Proof.Machine.execLeaseDue u s
  | .capacityNotify crew => Sys2Proof.Machine.execCapacityNotify crew s
  | .nopreBudgetSpent r => Sys2Proof.Machine.execNopreBudgetSpent r s
  | .forcedMigration u => Sys2Proof.Machine.execForcedMigration u s
  | .channelLineMove region ch line => Sys2Proof.Machine.execChannelLineMove region ch line s
  | .leaseTestStart u => Sys2Proof.Machine.execLeaseTestStart u s
  | .testVerdict u found got expect => Sys2Proof.Machine.execTestVerdict u found got expect s
  | .scoreDecay => Sys2Proof.Machine.execScoreDecay s
  | .patrolScrub u ev addr => Sys2Proof.Machine.execPatrolScrub u ev addr s
  | .launchQueueProdWrite q v => Sys2Proof.Machine.execLaunchQueueProdWrite q v s
  | .poolProdWrite p v => Sys2Proof.Machine.execPoolProdWrite p v s
  | .eventRingConsWrite v => Sys2Proof.Machine.execEventRingConsWrite v s
  | .queueApertureWrite off bytes => Sys2Proof.Machine.execQueueApertureWrite off bytes s
  | .hostCxlMemRead addr n => Sys2Proof.Machine.execHostCxlMemRead addr n s
  | .hostCxlMemWrite addr bytes => Sys2Proof.Machine.execHostCxlMemWrite addr bytes s
  | .eventWrite => Sys2Proof.Machine.execEventWrite s
  | .queueConfig payload => Sys2Proof.Machine.execQueueConfig payload s
  | .rangeReserve payload => Sys2Proof.Machine.execRangeReserve payload s
  | .rangeRelease payload => Sys2Proof.Machine.execRangeRelease payload s
  | .poolConfig payload => Sys2Proof.Machine.execPoolConfig payload s
  | .xlateInval payload => Sys2Proof.Machine.execXlateInval payload s
  | .spanJoin payload => Sys2Proof.Machine.execSpanJoin payload s
  | .spanLeave payload => Sys2Proof.Machine.execSpanLeave payload s
  | .eventConfig payload => Sys2Proof.Machine.execEventConfig payload s
  | .portStatus payload => Sys2Proof.Machine.execPortStatus payload s
  | .crewResume payload => Sys2Proof.Machine.execCrewResume payload s
  | .crewAbandon payload => Sys2Proof.Machine.execCrewAbandon payload s
  | .quiesce payload => Sys2Proof.Machine.execQuiesce payload s
  | .quiesceTimeout => Sys2Proof.Machine.execQuiesceTimeout s
  | .resume payload => Sys2Proof.Machine.execResume payload s
  | .restore payload => Sys2Proof.Machine.execRestore payload s
  | .unitStatus payload => Sys2Proof.Machine.execUnitStatus payload s
  | .recordRead payload => Sys2Proof.Machine.execRecordRead payload s
  | .cometConfig payload => Sys2Proof.Machine.execCometConfig payload s
  | .cometTrack payload => Sys2Proof.Machine.execCometTrack payload s
  | .stepQuery payload => Sys2Proof.Machine.execStepQuery payload s
  | .stepRebuild payload => Sys2Proof.Machine.execStepRebuild payload s
  | .stepLoad payload => Sys2Proof.Machine.execStepLoad payload s
  | .launchAbandon payload => Sys2Proof.Machine.execLaunchAbandon payload s
  | .wlRelease payload => Sys2Proof.Machine.execWlRelease payload s
  | .mailboxUnsupportedOpcode opcode => Sys2Proof.Machine.execMailboxUnsupportedOpcode opcode s
  | .getVersion msg => Sys2Proof.Machine.execGetVersion msg s
  | .getCapabilities msg => Sys2Proof.Machine.execGetCapabilities msg s
  | .negotiateAlgorithms msg => Sys2Proof.Machine.execNegotiateAlgorithms msg s
  | .getDigests msg => Sys2Proof.Machine.execGetDigests msg s
  | .getCertificate msg => Sys2Proof.Machine.execGetCertificate msg s
  | .challenge msg => Sys2Proof.Machine.execChallenge msg s
  | .getMeasurements msg => Sys2Proof.Machine.execGetMeasurements msg s
  | .spdmUnsupportedRequest msg => Sys2Proof.Machine.execSpdmUnsupportedRequest msg s
  | .capWrite v i3c => Sys2Proof.Machine.execCapWrite v i3c s
  | .alarmClear v => Sys2Proof.Machine.execAlarmClear v s
  | .perfCounterClear die => Sys2Proof.Machine.execPerfCounterClear die s
  | .registerWrite off v => Sys2Proof.Machine.execRegisterWrite off v s
  | .i3cSetdasa addr => Sys2Proof.Machine.execI3cSetdasa addr s
  | .vauxApply => Sys2Proof.Machine.execVauxApply s
  | .vinApply => Sys2Proof.Machine.execVinApply s
  | .vinLoss => Sys2Proof.Machine.execVinLoss s
  | .thermalTrip => Sys2Proof.Machine.execThermalTrip s
  | .junctionHot temp => Sys2Proof.Machine.execJunctionHot temp s
  | .monitorAlarm temp => Sys2Proof.Machine.execMonitorAlarm temp s
  | .voltageDroop island => Sys2Proof.Machine.execVoltageDroop island s
  | .coldReset => Sys2Proof.Machine.execColdReset s
  | .holdupCharged => Sys2Proof.Machine.execHoldupCharged s
  | .bootRunning => Sys2Proof.Machine.execBootRunning s
  | .ballastDrainLine die => Sys2Proof.Machine.execBallastDrainLine die s
  | .portSignalDetect p => Sys2Proof.Machine.execPortSignalDetect p s
  | .portLanesLocked p => Sys2Proof.Machine.execPortLanesLocked p s
  | .portTrainTimeout p => Sys2Proof.Machine.execPortTrainTimeout p s
  | .portSignalLoss p => Sys2Proof.Machine.execPortSignalLoss p s
  | .hello f => Sys2Proof.Machine.execHello f s
  | .ack f => Sys2Proof.Machine.execAck f s
  | .nak f => Sys2Proof.Machine.execNak f s
  | .flitCrcError f => Sys2Proof.Machine.execFlitCrcError f s
  | .flitUnassigned f => Sys2Proof.Machine.execFlitUnassigned f s
  | .flitWrite f => Sys2Proof.Machine.execFlitWrite f s
  | .flitReadRequest f => Sys2Proof.Machine.execFlitReadRequest f s
  | .flitReadResponse f => Sys2Proof.Machine.execFlitReadResponse f s
  | .xredContribution f => Sys2Proof.Machine.execXredContribution f s
  | .xredResult f => Sys2Proof.Machine.execXredResult f s
  | .cometShard f => Sys2Proof.Machine.execCometShard f s
  | .routeLost m => Sys2Proof.Machine.execRouteLost m s
  | .memberLost m => Sys2Proof.Machine.execMemberLost m s
  | .tetherReadRequest line pkg gang tag link => Sys2Proof.Machine.execTetherReadRequest line pkg gang tag link s
  | .tetherOwnershipRequest line pkg gang tag link => Sys2Proof.Machine.execTetherOwnershipRequest line pkg gang tag link s
  | .tetherAtomicRequest line pkg gang tag off size op operand cmp claim link => Sys2Proof.Machine.execTetherAtomicRequest line pkg gang tag off size op operand cmp claim link s
  | .tetherGrant line gang tag excl modified refused data old link => Sys2Proof.Machine.execTetherGrant line gang tag excl modified refused data old link s
  | .tetherSnoop line gang inval link => Sys2Proof.Machine.execTetherSnoop line gang inval link s
  | .tetherWriteBack line pkg gang data link => Sys2Proof.Machine.execTetherWriteBack line pkg gang data link s
  | .tetherReplacement line gang => Sys2Proof.Machine.execTetherReplacement line gang s
  | .tetherSnoopTimeout line => Sys2Proof.Machine.execTetherSnoopTimeout line s
  | .tetherRevoke line gang link => Sys2Proof.Machine.execTetherRevoke line gang link s
  | .requestGuardExpiry r => Sys2Proof.Machine.execRequestGuardExpiry r s
  | .homeGuardExpiry line => Sys2Proof.Machine.execHomeGuardExpiry line s
  | .wlRunRequest k => Sys2Proof.Machine.execWlRunRequest k s
  | .wlappItemWrite k => Sys2Proof.Machine.execWlappItemWrite k s
  | .wlCountChange k => Sys2Proof.Machine.execWlCountChange k s
  | .cometCaptureBegin n => Sys2Proof.Machine.execCometCaptureBegin n s
  | .cometGranulePreserve g => Sys2Proof.Machine.execCometGranulePreserve g s
  | .cometCaptureEnd => Sys2Proof.Machine.execCometCaptureEnd s
  | .cometStreamGranule g => Sys2Proof.Machine.execCometStreamGranule g s
  | .cometPrepared => Sys2Proof.Machine.execCometPrepared s
  | .cometCommit n => Sys2Proof.Machine.execCometCommit n s
  | .cometRecordDurable => Sys2Proof.Machine.execCometRecordDurable s
  | .functionReset => Sys2Proof.Machine.execFunctionReset s
  | .vauxRemoval => Sys2Proof.Machine.execVauxRemoval s
  | .cometPreparedReport m n => Sys2Proof.Machine.execCometPreparedReport m n s
  | .memberReachable m => Sys2Proof.Machine.execMemberReachable m s

end Sys2Proof.Machine
end

