-- ==== Sys2Proof/Machine/Choice.lean ====
section
/-! DEFINITION. A stream of a team executes its next instruction: which team of a core an issue slot goes to, and what becomes of a
request to a die that does not answer (13_scheduling R288, R289; 17_fault_model R344; notes/assumptions/1.md, 47.md and 71.md). -/

namespace Sys2Proof.Machine

/-! ### One instruction -/

/-- What follows the meaning of an instruction of a stream: its issue is counted. -/
def afterExec (s0 : State) (r : TeamRef) (st : Stream) (o : Out) : Out :=
  match o with
  | .next s => .next (s0.countIssue s r st)
  | .fault f => .fault f
  | .refused x => .refused x

/-- The state of a team alone. -/
def State.teamOf (s : State) (r : TeamRef) : Option Team := (s.teamAt r).map (·.2)

/-- An instruction of a stream is executed. One that meets an uncorrectable error, a scalar instruction in a register that it reads, or one
of either stream in an entry of its crew's tables, traps UNCORRECTABLE, unless a cause that R347 ranks before it stops the instruction
(17 R340; 20 R398; notes/assumptions/67.md). -/
def State.execRead (s : State) (r : TeamRef) (st : Stream) (i : Instr) : Out :=
  match s.teamAt r with
  | none => exec i s
  | some (c, t) =>
    if (st == .scalar && t.readsError i) || c.usesError t i then
      (match exec i s with
       | .next s1 => (match s1.teamOf r with
         | some u => if t.trapsFirst u then .next s1 else exec (.instructionFetchFault st .uncorrectable t.pc) s
         | none => .next s1)
       | o => o)
    else exec i s

/-- A stream of a team executes its next instruction, if it may go on. -/
def State.stepTeam (s : State) (r : TeamRef) (st : Stream) : Out :=
  match ({ s with focus := some r }).fetchNext r st with
  | none => .next s
  | some (s1, i) => afterExec s1 r st (s1.execRead r st i)

/-! ### Dies that do not answer (17 R344) -/

/-- The memory of a die (14 R300). -/
def dieMemory (d : Nat) : List (Nat × Nat) := [(2 ^ 38 * d, 2 ^ 38), (2 ^ 44 + 2 ^ 40 * d, 2 ^ 40)]

/-- The state with the memory of some dies out of reach, and the way back. A command's count of the lines lost before it follows. -/
def State.hush (s : State) (ds : List Nat) : State :=
  { s with dead := ds.flatMap dieMemory ++ s.dead, commands := s.commands.map (fun (m : Command) => { m with deadAt := m.deadAt + 2 * ds.length }) }
def State.unhush (s : State) (ds : List Nat) : State :=
  { s with dead := s.dead.drop (2 * ds.length), commands := s.commands.map (fun (m : Command) => { m with deadAt := m.deadAt - 2 * ds.length }) }

/-- Whether it is the request of the team, or of the command. -/
def Asked.isOf (q : Asked) (team : Option TeamRef) (command : Nat) : Bool := q.team == team && q.command == command

/-- A step that may send a request to a silent die. `a` is what the step does when every die answers, `b` when the silent ones have lost
their memory: where the two are the same it sends none. Else it is held until its guard expires, and then fails as `b` says; a store or
atomic of it may have been performed, which a free value decides. -/
def State.guarded (s : State) (team : Option TeamRef) (command : Nat) (a b : State) (maybe : State → State → State) : State :=
  let others := s.asked.filter (fun q => !q.isOf team command)
  if a = b then { a with asked := others }
  else match s.asked.find? (fun q => q.isOf team command) with
  | none => { s with asked := others ++ [⟨team, command, 0⟩] }
  | some q =>
    if q.age < dieGuard then s
    else { (if (Config.freeValue s.free).getLsbD 0 then maybe a b else b) with asked := others, free := max b.free s.free + 1 }

/-- The failed state with what the request wrote all the same. -/
def keepWrites (a b : State) : State := { b with mem := a.mem, poison := a.poison, lineStep := a.lineStep, ballast := a.ballast }
/-- The same for a team: its stores stay outstanding. -/
def keepStores (r : TeamRef) (a b : State) : State :=
  match a.teamOf r, b.teamOf r with
  | some t, some u =>
    (keepWrites a b).putTeam r { u with pending := u.pending ++ t.pending.filter (fun x => x.isStore && !u.pending.contains x), sctr := t.sctr, lctr := t.lctr, nextOrd := t.nextOrd }
  | _, _ => b

/-- A stream of a team executes its next instruction; its requests to silent dies count against their guard. -/
def State.stepHeard (s : State) (r : TeamRef) (st : Stream) : Out :=
  match s.teamAt r with
  | none => .next s
  | some (c, _) =>
    let ds := s.silentTo (coreDie c.core)
    if ds.isEmpty then s.stepTeam r st
    else match s.stepTeam r st, (s.hush ds).stepTeam r st with
    | .next a, .next b => .next (s.guarded (some r) 0 a (b.unhush ds) (keepStores r))
    | o, _ => o

/-- The same for an element of an engine command: the core of issue asks. -/
def State.cmdHeard (s : State) (id p : Nat) : State :=
  match s.commands.find? (fun m => m.id == id) with
  | none => s
  | some m =>
    let ds := s.silentTo (coreDie m.core)
    if ds.isEmpty then s.cmdMove id p else s.guarded none id (s.cmdMove id p) (((s.hush ds).cmdMove id p).unhush ds) keepWrites

/-- The same for an element of an MDRAIN, which stays unwritten then, or may have been written; the team traps (notes/assumptions/47.md). -/
def State.drainHeard (s : State) (id key : Nat) : State :=
  match s.matrix.find? (fun m => m.id == id) with
  | none => s
  | some m =>
    let ds := s.silentTo (coreDie m.core)
    if ds.isEmpty then s.drainElem id key
    else
      let a := s.drainElem id key
      let b := ((s.hush ds).drainElem id key).unhush ds
      s.guarded none id a (if a = b then b else b.drainFault m) keepWrites

/-! ### Issue slots (13 R288, R289) -/

/-- The resident teams of a core, in slot order (notes/assumptions/71.md). -/
def State.coreTeamRefs (s : State) (core : Nat) : List TeamRef :=
  (s.residents core).flatMap (fun k => match s.crewAt k with | none => [] | some c => (List.range c.teams.length).map (fun i => ⟨k, i⟩))

/-- The step from `s` to `s1` has executed an instruction of the stream, as one that is stopped by a hold has not: the team changes, or a
Tether request of it does, or it has branched, perhaps to the branch itself. -/
def State.issued (s s1 : State) (r : TeamRef) (st : Stream) : Bool :=
  s1.teamOf r != s.teamOf r || s1.treqOf r != s.treqOf r || (st == .scalar && s.atBranch r)

def Team.slot (t : Team) : Stream → SlotWait
  | .scalar => t.scalarSlot
  | .lane => t.vectorSlot
def Team.putSlot (t : Team) (st : Stream) (w : SlotWait) : Team :=
  match st with
  | .scalar => { t with scalarSlot := w }
  | .lane => { t with vectorSlot := w }

/-- A candidate for a slot: the stream's next instruction would be executed. -/
def State.slotCandidate (s : State) (r : TeamRef) (st : Stream) : Bool :=
  s.canRun r st && (match s.stepTeam r st with | .next s1 => s.issued s1 r st | _ => true)

/-- A candidate for the matrix start slot: the team of the oldest command that the array may start. -/
def State.matrixCandidate (s : State) (core : Nat) (r : TeamRef) : Bool :=
  s.arrayFree core && ((s.allowedCmds core).find? (fun m => s.accHolder core m.accN == some m.team)).any (fun m => m.team == r)

/-- The limit at which a wait count saturates. -/
def slotLimit : Nat := 64

/-- Where a slot class of a core stands in `State.lastChosen`. -/
def slotKey (core : Nat) (st : Stream) : Nat := 2 * core + (match st with | .scalar => 0 | .lane => 1)

/-- How far a team stands after the one last chosen at the limit, in slot order. Where that team has left the core the first slot comes
first (notes/assumptions/71.md). -/
def State.slotPlace (s : State) (core : Nat) (st : Stream) (r : TeamRef) : Nat :=
  let l := s.coreTeamRefs core
  let i := l.findIdx (fun q => q == r)
  match s.lastChosen.find? (fun p => p.1 == slotKey core st) with
  | none => i
  | some p => let j := l.findIdx (fun q => q == p.2); if j < l.length then (i + l.length - j - 1) % l.length else i

/-- Whether candidate `a` is chosen before candidate `b`: the greater count, then the longer candidacy, or at the limit the next in slot
order. -/
def State.slotBefore (s : State) (core : Nat) (st : Stream) (a b : TeamRef) : Bool :=
  match s.teamOf a, s.teamOf b with
  | some t, some u =>
    let x := t.slot st
    let y := u.slot st
    if x.count ≠ y.count then decide (y.count < x.count)
    else if x.count < slotLimit then decide (y.since < x.since)
    else decide (s.slotPlace core st a < s.slotPlace core st b)
  | _, _ => false

/-- The slot may go to the team: no other candidate of its core comes before it. -/
def State.slotChoice (s : State) (r : TeamRef) (st : Stream) : Bool :=
  match s.teamAt r with
  | none => true
  | some (c, _) => (s.coreTeamRefs c.core).all (fun q => q == r || !(s.slotBefore c.core st q r && s.slotCandidate q st))

/-- Slots of a class in a core cycle (R288). -/
def slotWidth : Stream → Nat
  | .scalar => 1
  | .lane => 2
/-- Slots of a class that a core's instructions have taken of this cycle on. -/
def State.usedSlots (s : State) (core : Nat) (st : Stream) : Nat := ((s.issueUsed.find? (fun p => p.1 == slotKey core st)).map (·.2)).getD 0
/-- The slots that an instruction takes: one, or one for each pass. -/
def Team.takes (t : Team) : Stream → Nat
  | .scalar => 1
  | .lane => max 1 t.passes
def putSlots (k n : Nat) (l : List (Nat × Nat)) : List (Nat × Nat) := if n = 0 then l.filter (fun p => p.1 != k) else upsert (fun p => p.1 == k) (k, n) l

/-- The team is chosen: its count starts again, a choice at the limit is remembered, and the slots are taken. -/
def State.markChosen (s : State) (r : TeamRef) (st : Stream) (core : Nat) (t : Team) : State :=
  let w := t.slot st
  { s.modTeam r (fun t => t.putSlot st { w with count := 0, got := true }) with
    lastChosen := if w.count < slotLimit then s.lastChosen else upsert (fun p => p.1 == slotKey core st) (slotKey core st, r) s.lastChosen
    issueUsed := putSlots (slotKey core st) (s.usedSlots core st + t.takes st) s.issueUsed }

/-- What follows a step from `s` of a stream of the team that stood as `t`: where its instruction was executed, it was chosen. -/
def afterSlot (s : State) (r : TeamRef) (st : Stream) (core : Nat) (t : Team) (o : Out) : Out :=
  match o with
  | .next s1 => .next (if s.issued s1 r st then s1.markChosen r st core t else s1)
  | o => o

/-- A team's standing after `n` core cycles in which it was, or was not, a candidate. -/
def SlotWait.tick (w : SlotWait) (n : Nat) (candidate : Bool) : SlotWait :=
  if !candidate then { w with since := 0, got := false }
  else { count := min slotLimit (if w.got then w.count + (n - 1) else w.count + n), since := w.since + n, got := false }

/-- `n` core cycles pass for the slots of a core. -/
def State.slotTick (s : State) (core n : Nat) : State :=
  if n = 0 then s
  else (s.coreTeamRefs core).foldl (fun (s1 : State) r =>
    s1.modTeam r (fun t => { t with scalarSlot := t.scalarSlot.tick n (s.slotCandidate r .scalar), vectorSlot := t.vectorSlot.tick n (s.slotCandidate r .lane)
                                    matrixSlot := t.matrixSlot.tick n (s.matrixCandidate core r) }))
    { s with issueUsed := [Stream.scalar, .lane].foldl (fun l st => putSlots (slotKey core st) (s.usedSlots core st - slotWidth st * n) l) s.issueUsed }

/-- The core cycles that pass before a class of the core has a slot again: with none left, the next instruction issues in a later cycle. -/
def State.nextSlot (s : State) (core : Nat) (st : Stream) : State :=
  let n := s.usedSlots core st / slotWidth st
  if n = 0 then s else (s.slotTick core n).elapse (.core core) n

/-- A slot goes to a team, whose stream executes its next instruction. -/
def State.stepSlot (s0 : State) (r : TeamRef) (st : Stream) : Out :=
  match s0.teamAt r with
  | none => .next s0
  | some (c, _) =>
    let s := s0.nextSlot c.core st
    match s.teamAt r with
    | none => .next s0
    | some (c, t) => if !s.slotChoice r st then .next s0 else afterSlot s r st c.core t (s.stepHeard r st)

end Sys2Proof.Machine
end

