-- ==== Sys2Proof/Machine/Agenda.lean ====
section
/-! DEFINITION. What a step of the package is: the first move of the agenda happens; with an empty agenda the team in focus
goes on (notes/assumptions/1.md). -/

namespace Sys2Proof.Machine

/-- Whether a row of the table is an event or a command and not an instruction of a stream. -/
def isEvent (i : Instr) : Bool :=
  match i with
  | .unassignedEncoding _ => false
  | .instructionFetchFault _ _ _ => false
  | i => i.stream.isNone

/-- The steps of cores, arrays, engines, schedulers, Comet and Tether: they stop while the package is quiesced, which leaves the
host's access, the platform, HELLO, ACK and NAK (19 R363, R364), and at the loss of power (21 R401). -/
def deviceProgress (i : Instr) : Bool :=
  match i with
  | .clauseStart _ | .clauseRetire _ | .clauseComplete _ _ | .longLatencyComplete _ _ | .storeAck _ _ _ | .teamWake _ _ _ | .waitTimeout _ _ _
  | .streamDeliver _ _ | .commandSignal _ | .layoutBlockConvert _ _ | .firstTouchBind _ _ | .matrixCommandStart _ | .accumulatorSwap _ _ | .mmaComplete _
  | .shadowLatchReplay _ | .pairOffer _ | .pairStart _ _ | .pairStartCycle _ | .pairOfferWithdraw _ | .crewFaultSave _ | .crewPlace _ _ _ _ | .crewEvict _
  | .rgrowDeadlockEvict _ | .priorityAging _ _ | .priorityEvict _ | .cohortSteal _ | .launchAccept _ | .dependenceGatesResolved _ | .capacityNotify _
  | .nopreBudgetSpent _ | .forcedMigration _ | .channelLineMove _ _ _ | .leaseTestStart _
  | .wlRunRequest _ | .wlappItemWrite _ | .wlCountChange _ | .flitWrite _ | .flitReadRequest _ | .flitReadResponse _ | .xredContribution _ | .xredResult _
  | .cometShard _ | .tetherReadRequest _ _ _ _ _ | .tetherOwnershipRequest _ _ _ _ _ | .tetherAtomicRequest _ _ _ _ _ _ _ _ _ _ _
  | .tetherGrant _ _ _ _ _ _ _ _ _ | .tetherSnoop _ _ _ _ | .tetherWriteBack _ _ _ _ _ | .tetherReplacement _ _ | .tetherSnoopTimeout _ | .tetherRevoke _ _ _
  | .requestGuardExpiry _ | .homeGuardExpiry _ | .cometCaptureBegin _ | .cometGranulePreserve _ | .cometCaptureEnd | .cometStreamGranule _ | .cometPrepared
  | .cometCommit _ | .cometRecordDurable | .cometPreparedReport _ _ => true
  | _ => false

/-- The steps that need no standby supply. -/
def powerEvent (i : Instr) : Bool :=
  match i with
  | .vauxApply | .vinApply | .vinLoss | .vauxRemoval => true
  | _ => false

/-- The cores and engines move. -/
def State.moving (s : State) : Bool := !s.quiesced && s.powerLoss.isNone && s.vaux
/-- Whether an event can happen now. -/
def State.mayHappen (s : State) (i : Instr) : Bool := if deviceProgress i then s.moving else s.vaux || powerEvent i

/-! ### Uncorrectable errors in registers (17 R340; 20 R389, R398, R400) -/

/-- The core of a resident team. -/
def State.homeCore (s : State) (r : TeamRef) : Option Nat :=
  match s.crewAt r.crew with
  | none => none
  | some c => c.place

/-- An error of a core is charged to the physical core that serves it: a corrected one of a cell, or an uncorrectable one. -/
def State.chargeCore (s : State) (core : Nat) (cell : Option Nat) : State :=
  match s.servingCore core, cell with
  | none, _ => s
  | some u, some k => s.chargeCorrected u .correctedCore k
  | some u, none => s.charge u .uncorrectable

/-- A lane register of a resident team comes to hold an uncorrectable error; the mirror copy, where there is one, takes its place. -/
def State.laneError (s : State) (r : TeamRef) (reg lane : Nat) : State :=
  match s.teamAt r, s.homeCore r with
  | some (c, t), some core =>
    if t.regs ≤ reg ∨ t.lanes ≤ lane then s
    else if c.mirrored then s.chargeCore core (some (registerCell r reg lane))
    else (s.putTeam r { t with laneErr := natInsert (reg * 1024 + lane) t.laneErr }).chargeCore core none
  | _, _ => s

/-- A scalar register comes to hold one. -/
def State.scalarError (s : State) (r : TeamRef) (reg : Nat) : State :=
  match s.teamAt r, s.homeCore r with
  | some (_, t), some core => if 63 ≤ reg then s else (s.putTeam r { t with scalarErr := natInsert reg t.scalarErr }).chargeCore core none
  | _, _ => s

/-- An accumulator element comes to hold one, where no MREAD of the team has already found it good. -/
def State.accError (s : State) (r : TeamRef) (key : Nat) : State :=
  match s.teamAt r, s.homeCore r with
  | some (_, t), some core =>
    if 65536 ≤ key ∨ s.matrix.any (fun m => m.team == r && (match m.instr with | .mread _ _ => true | _ => false)) then s
    else (s.putTeam r { t with accErr := natInsert key t.accErr }).chargeCore core none
  | _, _ => s

/-- An entry of a resident crew's tile table, global handles or windows comes to hold one. -/
def State.tableError (s : State) (k entry : Nat) : State :=
  match s.crewAt k with
  | none => s
  | some c => match c.place with
    | none => s
    | some core => if 336 ≤ entry then s else (s.putCrew k { c with tableErr := natInsert entry c.tableErr }).chargeCore core none

/-! ### Moves -/

/-- A move happens. -/
def State.stepMove (s : State) (m : Move) : Out :=
  match m with
  | .run r st => s.stepSlot r st
  | .event i => if isEvent i && s.mayHappen i then exec i s else .next s
  | .elapse c n => .next ((match c with | .core k => s.slotTick k n | _ => s).elapse c n)
  | .l1Drop core line => .next (s.l1DropLine core line)
  | .tlbDrop core page => .next (s.tlbDrop core page)
  | .gangTlbDrop gang page => .next (s.gangTlbDrop gang page)
  | .voteLand r => .next (if s.moving then s.modTeam r Team.landOldest else s)
  | .chunkStep core => .next (if s.moving then s.chunkStep core else s)
  | .cmdElem id pos => .next (if s.moving then s.cmdHeard id pos else s)
  | .drainElem id key => .next (if s.moving then s.drainHeard id key else s)
  | .laneError r reg lane => .next (s.laneError r reg lane)
  | .scalarError r reg => .next (s.scalarError r reg)
  | .accError r key => .next (s.accError r key)
  | .tableError k entry => .next (s.tableError k entry)
  | .testRun u found got expect => .next (s.testRun u found got expect)
  | .dieSilent asking answering silent =>
    .next { s with silent := s.silent.filter (fun p => p != (asking, answering)) ++ (if silent && asking != answering then [(asking, answering)] else []) }
  | .walkBegin die va => .next (if s.moving then s.walkBegin die va else s)
  | .walkEnd pool => .next (if s.moving then s.walkEnd pool else s)
  | .owedStamp k => .next (if s.moving then s.payStamp k else s)
  | .launchDone id => .next (if s.moving then s.completeLaunch id else s)
  | .barRead bar off => .next (s.barRead bar off)
  | .barWrite bar off v => .next (s.barWrite bar off v)
  | .mailboxInterrupt on => .next (if s.usable then { s with mailboxIrq := on } else s)
  | .i3cWrite addr bytes => .next (s.i3cWrite addr bytes)
  | .i3cRead addr => .next (s.i3cRead addr)
  | .monitor power caplim temp => .next (s.monitor power caplim temp)
  | .bootStage => .next s.bootStage
  | .unitError u e addr => .next (if s.vaux then s.unitError u e addr else s)

/-- The focus team's scalar stream, else its lane stream. -/
def State.stepFocus (s : State) : Out :=
  match s.focus with
  | none => .next s
  | some r => if s.canRun r .scalar then s.stepSlot r .scalar else if s.canRun r .lane then s.stepSlot r .lane else .next s

/-- The next step. -/
def State.stepNext (s : State) : Out :=
  match s.moves with
  | m :: rest => ({ s with moves := rest }).stepMove m
  | [] => s.stepFocus

end Sys2Proof.Machine
end

