-- ==== Sys2Proof/Safety.lean ====
section
/-! DEFINITION. The terms in which claims speak: an invariant of memory, the acting team, where a lane instruction stands, and
what an update leaves alone. -/

namespace Sys2Proof.Machine

/-- The memory is in its canonical form: addresses rise, no listed byte is zero. -/
abbrev State.memOk (s : State) : Prop := s.mem.wf = true

/-- A step went on. -/
abbrev stepsTo (s t : State) : Prop := step s = .next t

/-- Team `r` acts: it has the focus, and stands as `t` in the crew `c`. -/
abbrev State.acts (s : State) (r : TeamRef) (c : Crew) (t : Team) : Prop := s.focus = some r ∧ s.teamAt r = some (c, t)

/-- The byte that memory holds at a device-physical address. -/
def State.byteAt (s : State) (pa : Nat) : Byte := cellGet s.mem pa

/-- Every byte of memory reads as before, save those of an address range. -/
def sameBytesBut (s s' : State) (pa n : Nat) : Prop := ∀ a, a < pa ∨ pa + n ≤ a → s'.byteAt a = s.byteAt a

/-- Every byte of memory reads as before. -/
def sameBytes (s s' : State) : Prop := ∀ a, s'.byteAt a = s.byteAt a

/-- Only the team `r` changes, to `t'`. -/
abbrev onlyTeam (s s' : State) (r : TeamRef) (t' : Team) : Prop := s' = s.putTeam r t'

/-- An event record's kind (14 R302). -/
def eventKind (e : BitVec 256) : Nat := (e.extractLsb' 0 16).toNat

/-- Between two states, exactly `n` events were raised, each of the kind. -/
def raised (s s' : State) (kind n : Nat) : Prop := ∃ es, s'.events = s.events ++ es ∧ es.length = n ∧ ∀ e, e ∈ es → eventKind e = kind

/-! ### Accesses of memory (05 R107, 06 R124, 08 R164) -/

/-- The register value of a load of this size (08 R164). -/
def loadedAs (z : ScalarSize) (v : Nat) : Word :=
  if sizeSigned z then (BitVec.ofNat (8 * sizeBytes z) v).signExtend 64 else (BitVec.ofNat (8 * sizeBytes z) v).setWidth 64

/-- An access of `n` bytes at a virtual address by a core is aligned, reaches HBM4E at `pa`, and meets no lost or poisoned
memory; `s1` is the state after its translation. -/
def State.reaches (s : State) (core va n : Nat) (wr : Bool) (s1 : State) (pa : Nat) : Prop :=
  va % n = 0 ∧ s.inTether va = false ∧ (∃ e, s.translate (some core) (coreDie core) va wr = (s1, .ok pa e) ∧ pteScm e = false) ∧
  pa + n ≤ 2 ^ 40 ∧ s1.isDead pa n = false ∧ s1.isPoisoned pa n = false

/-- The `n` bytes at a virtual address lie in one bound page, whose entry is `e`, and reach HBM4E at `pa`, for an agent that keeps no
translation of its own (14 R305, R307). -/
def State.pageBound (s : State) (va n pa : Nat) (e : Word) (wr : Bool) : Prop :=
  pa + n ≤ 2 ^ 40 ∧ ∃ g, (∀ i, i < n → va + i < 2 ^ 56 ∧ s.inTether (va + i) = false ∧ s.rangeOf (va + i) = some g) ∧ s.pte g va = e ∧ s.isDead (g.entryAddr va) 8 = false ∧
    pteV e = true ∧ pteScm e = false ∧ (wr = true → pteRo e = false) ∧ pa = pteFrame e + (va - g.base) % pageSize g.z ∧
    (va - g.base) % pageSize g.z + n ≤ pageSize g.z

/-- A handle names this tile, whose element at the coordinates of `x` is `w` bits wide and inside the shape. -/
abbrev Crew.element (c : Crew) (h : Handle) (x : Word) (w : Nat) (tl : Tile) : Prop :=
  c.tile h = some tl ∧ c.tileUid tl.uid = some tl ∧ tl.fmt ≠ 14#4 ∧ tl.width = w ∧ tl.queue = false ∧ tl.inside (coordOf x) = true

/-- The tile that `uid` of crew `k` names in a state reads as `v` at the coordinates. -/
def State.elementReads (s : State) (k uid : Nat) (x : Coord) (v : Nat) : Prop := ∃ tl, s.tileAt k uid = some tl ∧ tl.read x none = v

/-! ### Scalar instructions that write one register (08 R161 to R163, R168, R182, R183, R186, R189) -/

/-- The register that a register-only scalar instruction writes, and its length in bytes; none for the others. -/
def scalarDest : Instr → Option (SReg × Nat)
  | .add d _ _ | .sub d _ _ | .mul d _ _ | .mulh d _ _ | .mulhn d _ _ | .div d _ _ | .divn d _ _ | .rem d _ _ | .remn d _ _
  | .and d _ _ | .or d _ _ | .xor d _ _ | .andn d _ _ | .shl d _ _ | .shr d _ _ | .sar d _ _ | .rol d _ _
  | .min d _ _ | .max d _ _ | .minn d _ _ | .maxn d _ _ | .clz d _ | .popc d _ | .brev d _ | .sext d _ _ | .zext d _ _ | .set d _ _ _
  | .addi d _ _ | .andi d _ _ | .ori d _ _ | .xori d _ _ | .shli d _ _ | .shri d _ _ | .sari d _ _
  | .mcnt d _ | .mfirst d _ | .capq d | .locq d _ | .clk d => some (d, 4)
  | .li d _ | .liHi d _ | .sel d _ _ _ => some (d, 8)
  | _ => none

/-! ### Lane instructions (03 R54, R55; 09 R191; 18 R347) -/

/-- The lane stream of team `r` stands at an instruction of the started clause `cl`, and no lane of it waits. -/
abbrev State.laneAt (s : State) (r : TeamRef) (c : Crew) (t : Team) (cl : Clause) : Prop :=
  s.acts r c t ∧ t.queue.head? = some cl ∧ cl.started = true ∧ t.lwaits = [] ∧ t.lidx < cl.count

/-- The team after the pops of an instruction with these sources. -/
def Team.afterPops (t : Team) (srcs : List Src) : Team := (t.popAll (srcs.filterMap Src.isQueue).eraseDups).1

/-- Nothing keeps an instruction with these sources and registers from its passes: some lane is in the clause mask, the
operand buffer it reads is valid, every vector it pops has arrived, its registers lie in the allocation, and no lane of a register that it
reads holds an uncorrectable error. -/
abbrev Team.laneReady (t : Team) (cl : Clause) (srcs : List Src) (regs : List Nat) : Prop :=
  cl.mask ≠ 0#1024 ∧ (Src.buf ∈ srcs → t.obuf.isSome = true) ∧ (t.popAll (srcs.filterMap Src.isQueue).eraseDups).2 = true ∧
  (∀ v, v ∈ srcs.filterMap Src.isReg ++ regs → v < t.regs) ∧ ∀ v, v ∈ srcs.filterMap Src.isReg → ∀ l, l < 1024 → v * 1024 + l ∉ t.laneErr

/-- Lane `l` executes the instruction (03 R55). -/
abbrev Team.executes (t : Team) (cl : Clause) (h : LaneHead) (l : Nat) : Prop := (t.executing cl.mask h).getLsbD l = true

/-- The team keeps everything but lane registers, and what every lane instruction may change: the pops, the operand buffer,
the place in the clause, the marks of a re-execution. No register comes to hold an error. -/
def Team.laneKeeps (t t' : Team) : Prop :=
  (∀ k ∈ t'.laneErr, k ∈ t.laneErr) ∧
  { t' with vregs := t.vregs, laneErr := t.laneErr, queues := t.queues, taken := t.taken, obuf := t.obuf, obufNext := t.obufNext
            lidx := t.lidx, restart := t.restart, lfm := t.lfm } = t

/-- Element `e` of width `w` of register `v` in lane `l`. -/
def Team.laneElem (t : Team) (w v l e : Nat) : Nat := getElem w e (t.vreg v l)

/-- What a lane instruction writes: the elements in `on` of register `d` in the lanes of `x` hold `val l e`, every other element
of every lane register is as before, the instruction has made its passes, and the rest of the team is as before. -/
def Team.laneWrites (t t' : Team) (x : Mask) (w d : Nat) (on : Nat → Prop) (val : Nat → Nat → Nat) : Prop :=
  (∀ l e, x.getLsbD l = true → e < 64 / w → on e → t'.laneElem w d l e = val l e % 2 ^ w) ∧
  (∀ l e, x.getLsbD l = true → e < 64 / w → ¬on e → t'.laneElem w d l e = t.laneElem w d l e) ∧
  (∀ v l, v ≠ d ∨ x.getLsbD l = false → l < 1024 → t'.vreg v l = t.vreg v l) ∧
  t'.lidx = t.lidx + 1 ∧ t.laneKeeps t'

/-- The same for a predicate: `p` holds `val l` in the lanes of `x`; predicate 15 is never written. -/
def Team.predWrites (t t' : Team) (x : Mask) (p : Nat) (val : Nat → Prop) : Prop :=
  (∀ l, x.getLsbD l = true → p ≠ 15 → (t'.pred p l = true ↔ val l)) ∧
  (∀ q l, q ≠ p ∨ x.getLsbD l = false ∨ q = 15 → l < 1024 → t'.pred q l = t.pred q l) ∧
  t'.lidx = t.lidx + 1 ∧ t.laneKeeps { t' with preds := t.preds }

/-- A lane instruction of the three-source form completes: with its first `n` sources it writes `g` of the elements that they
contribute to the destination elements its selector names (09 R190). -/
def laneComputes (i : Instr) (h : LaneHead) (m : ModA) (n : Nat) (g : Nat → Nat → Nat → Nat) : Prop :=
  ∀ (s : State) (r : TeamRef) (c : Crew) (t : Team) (cl : Clause), s.laneAt r c t cl →
    let ss := srcs3 h m
    let w := elemWidth h.ty
    t.laneReady cl (ss.take n) [h.dst.toNat] →
    let u := t.afterPops (ss.take n)
    ∃ t', exec i s = .next (s.putTeam r t') ∧ t.laneWrites t' (t.executing cl.mask h) w h.dst.toNat (fun e => e ∈ elemSet w m.dsel)
      (fun l e => g (u.elem u.popped ss 0 w m.s0sel e l) (u.elem u.popped ss 1 w m.s1sel e l) (u.elem u.popped ss 2 w m.s2sel e l))

/-- A compare completes: its predicate holds where `g` holds of every element (09 R197, R199). -/
def laneCompares (i : Instr) (h : LaneHead) (m : ModA) (g : Nat → Nat → Prop) : Prop :=
  ∀ (s : State) (r : TeamRef) (c : Crew) (t : Team) (cl : Clause), s.laneAt r c t cl →
    let ss := srcs3 h m
    let w := elemWidth h.ty
    t.laneReady cl (ss.take 2) [] →
    let u := t.afterPops (ss.take 2)
    ∃ t', exec i s = .next (s.putTeam r t') ∧ t.predWrites t' (t.executing cl.mask h) (h.dst.toNat % 16)
      (fun l => ∀ e, e < 64 / w → g (u.elem u.popped ss 0 w m.s0sel e l) (u.elem u.popped ss 1 w m.s1sel e l))

/-- A conversion completes: the destination elements in `on` hold `val` of the source registers' values and the rounding mode
of the element; layout C has `n` sources (09 R203 to R206). -/
def laneConverts (i : Instr) (h : LaneHead) (m : ModC) (n : Nat) (on : Nat → Prop) (val : (Nat → Word) → RMode → Nat → Nat) : Prop :=
  ∀ (s : State) (r : TeamRef) (c : Crew) (t : Team) (cl : Clause), s.laneAt r c t cl →
    let ss := srcsC h m
    t.laneReady cl (ss.take n) [h.dst.toNat] →
    let u := t.afterPops (ss.take n)
    let src (l k : Nat) : Word := u.src u.popped (ss.getD k .zero) l
    ∃ t', exec i s = .next (s.putTeam r t') ∧ t.laneWrites t' (t.executing cl.mask h) (elemWidth h.ty) h.dst.toNat on
      (fun l e => val (src l) (convMode m.rm (src l 1) cl.step l e) e)

/-- A lane access instruction is issued (10 R221; 06 R123): every executing lane's accesses, as `acc` lists them, become
outstanding, `reqs` write requests are counted, the instruction has made its passes. -/
def Team.laneIssues (t t' : Team) (cl : Clause) (x : Mask) (acc : Nat → List (Loc × Nat × AccKind)) (reqs : Nat) : Prop :=
  ∃ new : List Access, t'.pending = t.pending ++ new ∧
    new.map (fun a => (a.lane, a.loc, a.width, a.kind)) = (maskLanes x t.lanes).flatMap (fun l => (acc l).map (fun q => (l, q))) ∧
    (∀ a, a ∈ new → a.stream = .lane ∧ a.clause = cl.uid ∧ a.ord = t.nextOrd) ∧ t'.lctr = t.lctr + BitVec.ofNat 16 reqs ∧ t'.lidx = t.lidx + 1 ∧
    t.laneKeeps { t' with pending := t.pending, lctr := t.lctr, nextOrd := t.nextOrd }

/-- The passes in which some executing lane has an access: the write requests of a store (06 R123). -/
def passCount (lanes : List Nat) (acc : Nat → List (Loc × Nat × AccKind)) : Nat := (((lanes.filter (fun l => !(acc l).isEmpty)).map (· / 32)).eraseDups).length

/-- The device-physical addresses of the lanes' global accesses of `n` bytes, translated in lane order; none where one faults. -/
def State.laneReaches (s : State) (core n : Nat) (wr rd : Bool) (va : Nat → Nat) : List Nat → State × Option (List (Nat × Nat))
  | [] => (s, some [])
  | l :: rest => match s.globCheck core (va l) n wr rd with
    | (s1, .ok (pa, _), _) => (match s1.laneReaches core n wr rd va rest with
      | (s2, some ps) => (s2, some ((l, pa) :: ps))
      | (s2, none) => (s2, none))
    | (s1, .error _, _) => (s1, none)

/-- The one access of a lane at its translated address. -/
def globAcc1 (ps : List (Nat × Nat)) (n : Nat) (va : Nat → Nat) (k : Nat → AccKind) (l : Nat) : List (Loc × Nat × AccKind) :=
  (ps.filter (fun p => p.1 == l)).map (fun p => (.glob (va l) p.2, 8 * n, k l))

/-- A tile that the memory form of an instruction may name (18 R353). -/
abbrev Crew.laneTile (c : Crew) (h : LaneHead) (m : ModM) (tl : Tile) : Prop :=
  c.tile m.handle = some tl ∧ tl.queue = false ∧ (tl.fmt = 14#4 ↔ h.ty = 14#4) ∧ tl.width = elemWidth h.ty

/-- The lane stream stands at an instruction of which lane `l` alone executes and nothing of it has been begun. -/
abbrev State.oneLane (s : State) (r : TeamRef) (c : Crew) (t : Team) (cl : Clause) (h : LaneHead) (l : Nat) : Prop :=
  s.laneAt r c t cl ∧ t.restart = none ∧ t.faulted = false ∧ maskLanes (t.executing cl.mask h) t.lanes = [l]

/-- The range of a lane: its first lane and its number of lanes (09 R211). -/
def laneRangeOf (code lanes l : Nat) : Nat × Nat := if code < 6 then (l / 2 ^ code * 2 ^ code, 2 ^ code) else (0, lanes)

/-- A range instruction completes: each destination element holds the result at its position of its lane's range. -/
def laneRanges (i : Instr) (h : LaneHead) (m : ModX) (ident : Nat) (g : List Nat → List Nat) : Prop :=
  ∀ (s : State) (r : TeamRef) (c : Crew) (t : Team) (cl : Clause), s.laneAt r c t cl → t.lanes % 32 = 0 →
    let s0 := srcOf h.s0 h.z0 h.b0 m.q0
    let w := elemWidth h.ty
    let x := t.executing cl.mask h
    t.laneReady cl [s0] [h.dst.toNat] →
    let u := t.afterPops [s0]
    let rg (l : Nat) := laneRangeOf m.range.toNat t.lanes l
    ∃ t', exec i s = .next (s.putTeam r t') ∧ t.laneWrites t' x w h.dst.toNat (fun e => e ∈ elemSet w m.dsel)
      (fun l e => (g (rangeVals w m.s0sel x ident (fun k => u.src u.popped s0 k) (rg l))).getD (rangePos w m.s0sel (l - (rg l).1) e) 0)

end Sys2Proof.Machine
end

