-- ==== Sys2Proof/Certificates/Slice0/Obligations.lean ====
section
/-! DEFINITION. The statements about this model, from the numbered rules of the manual. -/

open Sys2Proof Sys2Proof.Machine

/-! ### Encodings, steps, reset -/

/-- Decoding undoes encoding (07 R134 to R152): every scalar instruction and every single lane instruction whose operands are
admitted is read back from its own bytes, with whatever follows them left over. -/
def Obligations.DecodeOfEncodeIsTheInstruction : Prop :=
  ∀ (i : Instr) (rest : List Byte), i.wf = true →
    (i.stream = some .scalar → decodeScalarBytes (encodeBytes i ++ rest) = .ok (i, rest)) ∧
    (i.stream = some .lane → (encode i).length = 3 → decodeLaneBytes (encodeBytes i ++ rest) = .ok (i, rest))

/-- Encoding undoes decoding (07 R134, R148; 18 R349): no bit of a word that is read as an instruction is dropped. -/
def Obligations.EncodeOfDecodeIsTheWords : Prop :=
  (∀ (w ext : W32) (i : Instr), decodeScalar w ext = .ok i → encode i = if hasExt w then [w, ext] else [w]) ∧
  (∀ (w0 w1 w2 : W32) (i : Instr), decodeLane w0 w1 w2 = .ok i → encode i = [w0, w1, w2])

/-- Words written out from the encoding tables of 07 and the worked example of 08 decode to their instructions. -/
def Obligations.DocumentedWordsDecode : Prop :=
  decodeScalar 0x04208100#32 0#32 = .ok (.add 2#6 2#6 1#6) ∧
  decodeScalar 0x24100005#32 0#32 = .ok (.li 1#6 5#46) ∧
  decodeScalar 0x401FFFFF#32 0#32 = .ok (.loop 1#6 (-1#20)) ∧
  decodeScalar 0x043FC201#32 0#32 = .ok (.sub 3#6 63#6 2#6) ∧
  decodeScalar 0x0440C505#32 0#32 = .ok (.div 4#6 3#6 5#6) ∧
  decodeScalar 0x0460C507#32 0#32 = .ok (.rem 6#6 3#6 5#6) ∧
  decodeScalar 0x78000000#32 0#32 = .ok .nop ∧
  decodeScalar 0x78000001#32 0#32 = .ok .exit

/-- The machine after reset (15 R320, R324; 01 R11, R14; 12 R262): boot stage 0x00, the stated platform registers, no launch and no
crew, an empty memory image, a span of one member.
Memory is in its canonical form after reset.
Model choices it rests on: notes/assumptions/2.md and 3.md. -/
def Obligations.ResetState : Prop :=
  (
    State.reset.platform.stage = 0#8 ∧ State.reset.platform.cap = 0x0E10#16 ∧ State.reset.platform.holdup = false ∧ State.reset.platform.alarm = false ∧
    State.reset.launches = [] ∧ State.reset.crews = [] ∧ State.reset.commands = [] ∧ State.reset.nextId = 0#32 ∧ State.reset.capGen = 0#32 ∧
    State.reset.quiesced = false ∧ State.reset.span.joined = false ∧ State.reset.ranges = [] ∧
    State.reset.lqs.length = 64 ∧ (∀ q ∈ State.reset.lqs, q.en = false ∧ q.prod = q.cons) ∧
    State.reset.pools.length = 12 ∧ (∀ q ∈ State.reset.pools, q.en = false ∧ q.prod = q.cons) ∧
    State.reset.ports.length = 24 ∧ (∀ p ∈ State.reset.ports, p.state = 0) ∧ State.reset.comet.configured = false) ∧
  (
    State.reset.memOk)

/-- Every step keeps memory in its canonical form, whatever agent moves. -/
def Obligations.StepKeepsMemoryCanonical : Prop :=
  ∀ s s' : State, s.memOk → step s = .next s' → s'.memOk

/-- A step whose move is a team's stream executes the instruction that its bytes decode to (03 R53, R54; 07 R134, R135, R148), where
the core's cycle has a slot left that may go to the team (13 R288, R289), no die is silent to its own, and no register that a scalar
instruction reads and no entry of the crew's tables holds an error:
the team takes the focus, its words are fetched, the instruction is executed, the issue is counted, and the slot was the team's.
Model choices it rests on: notes/assumptions/1.md, 47.md, 67.md and 71.md. -/
def Obligations.StepRunsTheDecodedInstruction : Prop :=
  ∀ (s s1 : State) (rest : List Move) (r : TeamRef) (c : Crew) (t : Team) (i : Instr),
    let s0 : State := { s with moves := rest, focus := some r }
    let ready (st : Stream) : Prop := s.moves = .run r st :: rest ∧ s.teamAt r = some (c, t) ∧ s.silentTo (coreDie c.core) = [] ∧
      c.tableErr = [] ∧ s.usedSlots c.core st < slotWidth st ∧ State.slotChoice { s with moves := rest } r st = true ∧ s0.canRun r st = true
    let runs (st : Stream) : Prop := step s = afterSlot { s with moves := rest } r st c.core t (afterExec s1 r st (exec i s1))
    (∀ w : W32, ready .scalar → (∀ a ∈ scalarSources i, a.toNat ∉ t.scalarErr) →
      s0.fetchWord c.core t.pc.toNat = (s1, .ok w) → hasExt w = false → decodeScalar w 0#32 = .ok i → runs .scalar) ∧
    (∀ (s2 : State) (w x : W32), ready .scalar → (∀ a ∈ scalarSources i, a.toNat ∉ t.scalarErr) →
      s0.fetchWord c.core t.pc.toNat = (s2, .ok w) → hasExt w = true → s2.fetchWord c.core (t.pc.toNat + 4) = (s1, .ok x) →
      decodeScalar w x = .ok i → runs .scalar) ∧
    (∀ (s2 s3 : State) (cl : Clause) (w0 w1 w2 : W32), ready .lane → t.queue.head? = some cl →
      s0.fetchWord c.core (cl.addr + 12 + 12 * t.lidx) = (s2, .ok w0) →
      s2.fetchWord c.core (cl.addr + 12 + 12 * t.lidx + 4) = (s3, .ok w1) → s3.fetchWord c.core (cl.addr + 12 + 12 * t.lidx + 4 + 4) = (s1, .ok w2) →
      decodeLane w0 w1 w2 = .ok i → (∀ h m, i ≠ .frmax h m) → runs .lane)

/-- A fetched word is the four bytes at its translated address, the first the least significant (00 R5, 05 R107, R108).
A bound HBM4E page translates an address to its frame (14 R305, R306), with or without a copy of its entry in the core's or its gang's
translation cache, and leaves everything but the caches and what the performance counters count.
A walker whose entry lies in memory that is lost answers so (17 R344), and the fetch is UNCORRECTABLE.
First touch (05 R108; 14 R307): the walker of a die takes the frame at the head of its pool, zeroes it, writes the entry with v, the home and the frame, and
moves the pool on; no other byte changes. With no frame the page stays unbound. A walker whose page another has bound since leaves the frame at the pool's head.
Model choices it rests on: notes/assumptions/50.md, 55.md and 64.md. -/
def Obligations.FetchAndTranslation : Prop :=
  (
    (
      ∀ (s s1 : State) (core va pa : Nat) (e : Word),
        s.translate (some core) (coreDie core) va false = (s1, .ok pa e) → pteScm e = false → pa < 2 ^ 40 →
        s1.isDead pa 4 = false → s1.isPoisoned (pa / 64 * 64) 64 = false →
        s.fetchWord core va = (s1, .ok (s1.byteAt (pa + 3) ++ s1.byteAt (pa + 2) ++ s1.byteAt (pa + 1) ++ s1.byteAt pa))) ∧
    (
      (∀ (s : State) (core va : Nat) (g : Range),
        va < 2 ^ 56 → s.inTether va = false → s.rangeOf va = some g → s.isDead (g.entryAddr va) 8 = true → pteV (s.pte g va) = true →
        (∀ x ∈ s.tlb, x.core ≠ core) → (∀ x ∈ s.gangTlb, x.gang ≠ coreGang core) → (s.fetchWord core va).2 = .error .uncorrectable) ∧
      ∀ (s : State) (core va : Nat) (g : Range) (wr : Bool),
        va < 2 ^ 56 → s.inTether va = false → s.rangeOf va = some g → s.isDead (g.entryAddr va) 8 = false → pteV (s.pte g va) = true →
        (wr = true → pteRo (s.pte g va) = false) →
        (∀ x ∈ s.tlb, x.core = core → x.entry = s.pte g va ∨ x.page ≠ (va - g.base) / pageSize g.z * pageSize g.z + g.base) →
        (∀ x ∈ s.gangTlb, x.gang = coreGang core → x.entry = s.pte g va ∨ x.page ≠ (va - g.base) / pageSize g.z * pageSize g.z + g.base) →
        ∃ s1, s.translate (some core) (coreDie core) va wr = (s1, .ok (pteFrame (s.pte g va) + (va - g.base) % pageSize g.z) (s.pte g va)) ∧
          { s1 with tlb := s.tlb, gangTlb := s.gangTlb, perf := s.perf, free := s.free } = s)) ∧
  (
    ∀ (s : State) (die : Nat) (va : BitVec 64) (g : Range) (p : Ring), die < 4 → va.toNat < 2 ^ 56 → s.inTether va.toNat = false → s.rangeOf va.toNat = some g →
      let e := s.pte g va.toNat
      s.isDead (g.entryAddr va.toNat) 8 = false → pteV e = false → pteScm e = false → s.pools[3 * die + g.z]? = some p → (∀ w, w ∈ s.walks → w.pool ≠ 3 * die + g.z) →
      (∀ (v : State) (f : Nat), v.walks = [⟨3 * die + g.z, va.toNat, e, f⟩] → v.rangeOf va.toNat = some g → v.pte g va.toNat ≠ e →
        v.walkEnd (3 * die + g.z) = { v with walks := [] }) ∧
      (p.en = false ∨ p.prod = p.cons → (s.translate none die va.toNat false).2 = .empty g.z ∧ ∃ s', exec (.firstTouchBind die va) s = .next s' ∧ s'.mem = s.mem ∧ s'.pools = s.pools) ∧
      (p.en = true → p.prod ≠ p.cons →
        let f := s.physRead (p.base + 8 * (p.cons.toNat % 2 ^ p.k)) 8
        let at_ := g.entryAddr va.toNat
        f < 2 ^ 40 → f % pageSize g.z = 0 → paDie f = die → s.isDead f (pageSize g.z) = false → (at_ + 8 ≤ f ∨ f + pageSize g.z ≤ at_) →
        ∃ s', exec (.firstTouchBind die va) s = .next s' ∧
          readLE s'.mem at_ 8 = ((e &&& 0xC#64) ||| 1#64 ||| BitVec.ofNat 64 (16 * die) ||| BitVec.ofNat 64 f).toNat ∧
          (∀ a, f ≤ a → a < f + pageSize g.z → s'.byteAt a = 0#8) ∧
          (∀ a, (a < f ∨ f + pageSize g.z ≤ a) → (a < at_ ∨ at_ + 8 ≤ a) → s'.byteAt a = s.byteAt a) ∧
          (s'.pools[3 * die + g.z]?).map (·.cons) = some (p.cons + 1#16) ∧ s'.crews = s.crews))

/-! ### Scalar registers and arithmetic -/

/-- sz reads as zero and discards writes; any other register that is written holds the value, and nothing but it and the program
counter changes (03 R51), save that a register written anew holds no error. The team's place in the package takes the new team, and nothing else of the package changes.
The frame of the scalar instructions that write one register (03 R51, 08 R161 to R163, R168, R182, R183, R189): every other
register, every other part of the team, every other team, memory and the rest of the package are as before, and the program counter moves
past the instruction.
Model choices it rests on: notes/assumptions/67.md. -/
def Obligations.ScalarRegisterInstructionsFrame : Prop :=
  (
    (∀ (t : Team) (d a : SReg) (v : Word) (n : Nat),
      (t.result d v n).sreg a = (if a = d ∧ d ≠ 63#6 then v else t.sreg a) ∧ t.sreg 63#6 = 0#64 ∧
      (t.result d v n).scalarErr = (if d = 63#6 then t.scalarErr else t.scalarErr.filter (fun k => k != d.toNat)) ∧
      { t.result d v n with sregs := t.sregs, scalarErr := t.scalarErr, pc := t.pc } = t) ∧
    (∀ (s : State) (r q : TeamRef) (c : Crew) (t u : Team), s.teamAt r = some (c, t) →
      (s.putTeam r u).teamAt r = some (c.putTeam r.team u, u) ∧ { s.putTeam r u with crews := s.crews } = s ∧
      (q.crew ≠ r.crew → (s.putTeam r u).teamAt q = s.teamAt q) ∧
      (q.team ≠ r.team → ((s.putTeam r u).teamAt q).map (·.2) = (s.teamAt q).map (·.2)))) ∧
  (
    ∀ (s s' : State) (r : TeamRef) (c : Crew) (t : Team) (i : Instr) (d : SReg) (n : Nat),
      s.acts r c t → scalarDest i = some (d, n) → exec i s = .next s' →
      ∃ t', s'.teamAt r = some (c.putTeam r.team t', t') ∧ (∀ a, a ≠ d → t'.sreg a = t.sreg a) ∧ t'.sreg 63#6 = 0#64 ∧
        t'.pc = t.pc + BitVec.ofNat 64 n ∧ (∀ k ∈ t'.scalarErr, k ∈ t.scalarErr) ∧ { t' with sregs := t.sregs, scalarErr := t.scalarErr, pc := t.pc } = t ∧ { s' with crews := s.crews } = s ∧ sameBytes s s' ∧
        (∀ q, q ≠ r → (s'.teamAt q).map (·.2) = (s.teamAt q).map (·.2)))

/-- The results of the SR forms of major 0x01 (08 R161).
The results and the words of the immediate forms, LI, LI.hi and SEL (08 R162, R163). -/
def Obligations.ScalarIntegerResults : Prop :=
  (
    ∀ (s : State) (r : TeamRef) (c : Crew) (t : Team), s.acts r c t → ∀ (d a b : SReg),
      let x := t.sreg a
      let y := t.sreg b
      let is (i : Instr) (v : Word) : Prop := exec i s = .next (s.putTeam r (t.result d v 4))
      is (.add d a b) (x + y) ∧ is (.sub d a b) (x - y) ∧ is (.mul d a b) (BitVec.ofNat 64 (x.toNat * y.toNat)) ∧
      is (.mulh d a b) ((x.signExtend 128 * y.signExtend 128).extractLsb' 64 64) ∧
      is (.mulhn d a b) ((x.setWidth 128 * y.setWidth 128).extractLsb' 64 64) ∧
      is (.div d a b) (if y = 0#64 then -1#64 else BitVec.ofInt 64 (x.toInt.tdiv y.toInt)) ∧
      is (.divn d a b) (if y = 0#64 then -1#64 else BitVec.ofNat 64 (x.toNat / y.toNat)) ∧
      is (.rem d a b) (BitVec.ofInt 64 (x.toInt.tmod y.toInt)) ∧
      is (.remn d a b) (BitVec.ofNat 64 (x.toNat % y.toNat)) ∧
      is (.and d a b) (x &&& y) ∧ is (.or d a b) (x ||| y) ∧ is (.xor d a b) (x ^^^ y) ∧ is (.andn d a b) (x &&& ~~~y) ∧
      is (.shl d a b) (x <<< (y.toNat % 64)) ∧ is (.shr d a b) (x >>> (y.toNat % 64)) ∧ is (.sar d a b) (x.sshiftRight (y.toNat % 64)) ∧
      is (.rol d a b) (x.rotateLeft (y.toNat % 64)) ∧
      is (.min d a b) (if x.toInt ≤ y.toInt then x else y) ∧ is (.max d a b) (if x.toInt ≤ y.toInt then y else x) ∧
      is (.minn d a b) (if x.toNat ≤ y.toNat then x else y) ∧ is (.maxn d a b) (if x.toNat ≤ y.toNat then y else x) ∧
      (∃ v : Word, is (.clz d a) v ∧ v.toNat ≤ 64 ∧ (∀ i, 64 - v.toNat ≤ i → x.getLsbD i = false) ∧ (v.toNat < 64 → x.getLsbD (63 - v.toNat) = true)) ∧
      is (.popc d a) (BitVec.ofNat 64 ((List.range 64).countP (fun i => x.getLsbD i))) ∧
      (∃ v : Word, is (.brev d a) v ∧ ∀ i, i < 64 → v.getLsbD (63 - i) = x.getLsbD i) ∧
      (∀ w : BitVec 6, is (.sext d a w) ((x.setWidth (w.toNat + 1)).signExtend 64) ∧ is (.zext d a w) ((x.setWidth (w.toNat + 1)).setWidth 64)) ∧
      is (.set d a b .eq) (if x = y then 1#64 else 0#64) ∧ is (.set d a b .ne) (if x = y then 0#64 else 1#64) ∧
      is (.set d a b .lt) (if x.toInt < y.toInt then 1#64 else 0#64) ∧ is (.set d a b .ge) (if x.toInt < y.toInt then 0#64 else 1#64) ∧
      is (.set d a b .ltn) (if x.toNat < y.toNat then 1#64 else 0#64) ∧ is (.set d a b .gen) (if x.toNat < y.toNat then 0#64 else 1#64)) ∧
  (
    ∀ (s : State) (r : TeamRef) (c : Crew) (t : Team), s.acts r c t → ∀ (d a b e : SReg) (imm : BitVec 14) (sh : BitVec 6) (big : BitVec 46) (ext : BitVec 32),
      let x := t.sreg a
      let is (i : Instr) (v : Word) (n : Nat) : Prop := exec i s = .next (s.putTeam r (t.result d v n))
      is (.addi d a imm) (x + imm.signExtend 64) 4 ∧ is (.andi d a imm) (x &&& imm.signExtend 64) 4 ∧
      is (.ori d a imm) (x ||| imm.signExtend 64) 4 ∧ is (.xori d a imm) (x ^^^ imm.signExtend 64) 4 ∧
      is (.shli d a sh) (x <<< sh.toNat) 4 ∧ is (.shri d a sh) (x >>> sh.toNat) 4 ∧ is (.sari d a sh) (x.sshiftRight sh.toNat) 4 ∧
      is (.li d big) (big.signExtend 64) 8 ∧ is (.liHi d ext) (ext ++ (t.sreg d).setWidth 32) 8 ∧
      is (.sel d a b e) (if t.sreg e ≠ 0#64 then x else t.sreg b) 8 ∧
      encode (.addi d a imm) = [0x02#6 ++ d ++ a ++ imm] ∧ encode (.andi d a imm) = [0x03#6 ++ d ++ a ++ imm] ∧
      encode (.ori d a imm) = [0x04#6 ++ d ++ a ++ imm] ∧ encode (.xori d a imm) = [0x05#6 ++ d ++ a ++ imm] ∧
      encode (.shli d a sh) = [0x06#6 ++ d ++ a ++ 0#8 ++ sh] ∧ encode (.shri d a sh) = [0x07#6 ++ d ++ a ++ 0#8 ++ sh] ∧
      encode (.sari d a sh) = [0x08#6 ++ d ++ a ++ 0#8 ++ sh] ∧
      encode (.li d big) = [0x09#6 ++ d ++ 0#6 ++ big.extractLsb' 0 14, big.extractLsb' 14 32] ∧
      encode (.liHi d ext) = [0x09#6 ++ d ++ 1#6 ++ 0#14, ext] ∧ encode (.sel d a b e) = [0x0A#6 ++ d ++ a ++ b ++ 0#8, 0#26 ++ e])

/-- Control flow (08 R167; 18 R351): T is the instruction's address plus four times the signed word offset; a branch not taken goes on
at the next instruction.
Model choices it rests on: notes/assumptions/11.md. -/
def Obligations.BranchTargets : Prop :=
  ∀ (s : State) (r : TeamRef) (c : Crew) (t : Team), s.acts r c t → ∀ (a b : SReg) (m : MReg) (off : BitVec 20) (far : BitVec 32) (cc : Cond),
    let x := t.sreg a
    let y := t.sreg b
    let target : Word := t.pc + 4#64 * off.signExtend 64
    let goes (i : Instr) (u : Team) (p : Word) : Prop := exec i s = .next (s.putTeam r { u with pc := p })
    goes (.b off) t target ∧
    goes (.bz a off) t (if x = 0#64 then target else t.pc + 4#64) ∧
    goes (.bnz a off) t (if x ≠ 0#64 then target else t.pc + 4#64) ∧
    goes (.call off) (t.setSreg 62#6 (t.pc + 4#64)) target ∧
    goes (.loop a off) (t.setSreg a (x - 1#64)) (if a ≠ 63#6 ∧ x ≠ 1#64 then target else t.pc + 4#64) ∧
    goes (.bmz m off) t (if summaryWord (t.mask m) = 0#32 then target else t.pc + 4#64) ∧
    goes (.bmnz m off) t (if summaryWord (t.mask m) ≠ 0#32 then target else t.pc + 4#64) ∧
    goes (.bcmp cc a b far) t (if condHolds cc x y = true then t.pc + 4#64 * far.signExtend 64 else t.pc + 8#64) ∧
    (x.toNat % 4 = 0 → goes (.jr a) t x) ∧
    (x.toNat % 4 ≠ 0 → exec (.jr a) s = .next (s.putTeam r (t.trapHere causeAlignment))) ∧
    goes .nop t (t.pc + 4#64)

/-- The mask instructions lane by lane (02 R27; 03 R66; 08 R168), and the traps of an overfull and of an empty mask stack (18 R351).
No bit at or above lane.count is ever set by a mask write.
FWAIT waits, as a hold, while a named flag has a holding; FCLR drops every current holding of the named flags; LDRAIN waits
until no clause is left (03 R58, R59). -/
def Obligations.MaskAndFlagInstructions : Prop :=
  (
    (∀ (t : Team) (m k : MReg) (v : Mask), (t.setMask m v).mask k = if k = m then v &&& laneMask t.lanes else t.mask k) ∧
    (∀ (n l : Nat), l < 1024 → (laneMask n).getLsbD l = decide (l < n)) ∧
    (∀ (s : State) (r : TeamRef) (c : Crew) (t : Team), s.acts r c t → ∀ (md ms mt : MReg) (d : SReg),
      let goes (i : Instr) (u : Team) : Prop := exec i s = .next (s.putTeam r (u.advance 4))
      (t.stack.length < 16 → goes (.mpush ms) (({ t with stack := t.stack ++ [t.mask 0#3] }).setMask 0#3 (t.mask 0#3 &&& t.mask ms))) ∧
      (16 ≤ t.stack.length → exec (.mpush ms) s = .next (s.putTeam r (t.trapHere causeMaskstack))) ∧
      (∀ (low : List Mask) (top : Mask), t.stack = low ++ [top] →
        goes .melse (t.setMask 0#3 (top &&& ~~~(t.mask 0#3))) ∧
        goes .mpop (({ t with stack := low, fenceUid := t.nextClause }).setMask 0#3 top)) ∧
      (t.stack = [] → exec .melse s = .next (s.putTeam r (t.trapHere causeMaskstack)) ∧ exec .mpop s = .next (s.putTeam r (t.trapHere causeMaskstack))) ∧
      goes (.mmov md ms) (t.setMask md (t.mask ms)) ∧ goes (.mand md ms mt) (t.setMask md (t.mask ms &&& t.mask mt)) ∧
      goes (.mor md ms mt) (t.setMask md (t.mask ms ||| t.mask mt)) ∧ goes (.mnot md ms) (t.setMask md (~~~(t.mask ms))) ∧
      goes (.mcnt d ms) (t.setSreg d (BitVec.ofNat 64 ((List.range t.lanes).countP (fun l => (t.mask ms).getLsbD l)))) ∧
      (∃ v : Word, goes (.mfirst d ms) (t.setSreg d v) ∧
        ((v = -1#64 ∧ ∀ l, l < t.lanes → (t.mask ms).getLsbD l = false) ∨
         (v.toNat < t.lanes ∧ (t.mask ms).getLsbD v.toNat = true ∧ ∀ l, l < v.toNat → (t.mask ms).getLsbD l = false))))) ∧
  (
    ∀ (s : State) (r : TeamRef) (c : Crew) (t : Team), s.acts r c t → ∀ (m : BitVec 12),
      ((∀ cl, cl ∈ t.retired ++ t.queue → cl.holds &&& m = 0#12) → exec (.fwait m) s = .next (s.putTeam r (t.advance 4))) ∧
      ((∃ cl, cl ∈ t.retired ++ t.queue ∧ cl.holds &&& m ≠ 0#12) → exec (.fwait m) s = .next s) ∧
      (∃ t' : Team, exec (.fclr m) s = .next (s.putTeam r (t'.advance 4)) ∧ { t' with queue := t.queue, retired := t.retired } = t ∧
        t'.queue = t.queue.map (fun (cl : Clause) => { cl with holds := cl.holds &&& ~~~m }) ∧
        t'.retired = t.retired.map (fun (cl : Clause) => { cl with holds := cl.holds &&& ~~~m })) ∧
      (t.queue = [] → t.retired = [] → exec .ldrain s = .next (s.putTeam r (t.advance 4))) ∧
      (t.queue ≠ [] ∨ t.retired ≠ [] → exec .ldrain s = .next s))

/-- Every instruction goes on when its team acts (17 R340): an event of the package and an instruction of the acting team end in a next
state, with traps, holds and waits among the next states; the only stop is the model's own, an instruction executed for no team.
Model choices it rests on: notes/assumptions/1.md. -/
def Obligations.EveryInstructionGoesOn : Prop :=
  (∀ (s : State) (r : TeamRef) (c : Crew) (t : Team), s.acts r c t → ∀ i, ∃ s', exec i s = .next s') ∧
  (∀ (i : Instr) (s : State), (∃ s', exec i s = .next s') ∨ (exec i s = .fault .noTeam ∧ ∀ r c t, ¬s.acts r c t))

/-! ### Flags, the lane queue, stream commands -/

/-- LQ (03 R53, 08 R169): the captured header, the current mask and the step make a new entry at the end of the lane queue; a full
queue is a hold.
The life of a clause (03 R54, R57, R58): the head starts when no earlier clause holds a flag of its wait mask, retires after its last
instruction, and its holdings end when every access of it has completed; by then the writes of its VOTEs have reached the mask registers (R67).
Model choices it rests on: notes/assumptions/16.md and 56.md. -/
def Obligations.ClauseLife : Prop :=
  (
    ∀ (s : State) (r : TeamRef) (c : Crew) (t : Team), s.acts r c t → ∀ (off : BitVec 20),
      (16 ≤ t.queue.length → exec (.lq off) s = .next s) ∧
      (∀ (l : Launch) (s1 : State) (w0 w1 w2 : W32) (hd : ClauseHeader), t.queue.length < 16 → s.launchOf c = some l →
        s.fetchWords c.core ((BitVec.ofNat 64 (recLentry l.record) + 4#64 * off.signExtend 64).toNat) 3 = (s1, .ok [w0, w1, w2]) →
        decodeHeader w0 w1 w2 = .ok hd →
        ∃ (t' : Team) (cl : Clause), exec (.lq off) s = .next (s1.putTeam r (t'.advance 4)) ∧
          { t' with queue := t.queue, nextClause := t.nextClause, nextOrd := t.nextOrd } = t ∧ t'.queue = t.queue ++ [cl] ∧
          cl.addr = (BitVec.ofNat 64 (recLentry l.record) + 4#64 * off.signExtend 64).toNat ∧ cl.mask = t.mask 0#3 ∧ cl.count = hd.count.toNat ∧
          cl.wait = hd.wait ∧ cl.step = t.stepNow ∧ cl.started = false ∧ cl.uid = t.nextClause ∧ t'.nextClause = t.nextClause + 1 ∧
          ∀ k, k < 12 → (cl.holds.getLsbD k = true ↔ k = hd.setA.toNat ∨ k = hd.setB.toNat))) ∧
  (
    ∀ (s : State) (r : TeamRef) (c : Crew) (t : Team), s.teamAt r = some (c, t) → t.faulted = false → ∀ (cl : Clause) (rest : List Clause),
      (t.queue = cl :: rest → s.crewRuns c = true → cl.started = false →
        (∀ x, x ∈ t.retired ++ t.queue → x.uid < cl.uid → x.holds &&& cl.wait = 0#12) →
        exec (.clauseStart r) s = .next (s.putTeam r { t with queue := { cl with started := true } :: rest, lidx := 0, obuf := none, taken := [] })) ∧
      (t.queue = cl :: rest → (∃ x, x ∈ t.retired ++ t.queue ∧ x.uid < cl.uid ∧ x.holds &&& cl.wait ≠ 0#12) → exec (.clauseStart r) s = .next s) ∧
      (t.queue = cl :: rest → s.crewStops c = true → cl.started = true → cl.count ≤ t.lidx → t.lwaits = [] →
        exec (.clauseRetire r) s = .next (s.putTeam r { t with queue := rest, retired := t.retired ++ [cl], lidx := 0, obuf := none, taken := [] })) ∧
      (cl ∈ t.retired → t.clausePending cl.uid = false → (∀ w, w ∈ t.slots → w.clause ≠ cl.uid) →
        (t.growWant = none ∨ ∀ u, u ∈ c.teams → u.exited = false ∧ u.finished = false) → (∀ i, i ∈ s.wlItems → i.team = r → i.clause ≠ cl.uid) →
        (∀ m, m ∈ s.matrix → m.team = r → m.clause ≠ cl.uid) →
        ∃ (s' : State) (c' : Crew) (t' : Team), exec (.clauseComplete r cl.uid) s = .next s' ∧ s'.teamAt r = some (c', t') ∧
          (∀ x, x ∈ t'.retired ↔ x ∈ t.retired ∧ x.uid ≠ cl.uid) ∧ { t' with retired := t.retired, finished := t.finished, masks := t.masks, votes := t.votes } = t ∧
          (∀ (pre post : List Vote), t.votes = pre ++ post → (∀ v, v ∈ post → v.uid ≠ cl.uid) → (∀ v, pre.getLast? = some v → v.uid = cl.uid) →
            t'.votes = post ∧ t'.masks = (pre.foldl (fun u v => u.setMask v.reg v.mask) t).masks)) ∧
      (t.clausePending cl.uid = true → exec (.clauseComplete r cl.uid) s = .next s))

/-- STRM, QLD and QCLOSE at issue (03 R62, R64; 08 R170 to R172): the descriptor group is captured and the command joins the end of the
stream command queue; QCLOSE cancels the queue's commands and empties it.
The values that a stream command delivers (03 R60, R63; 08 R170, R171): element d0 + c0·(d1 + c1·(d2 + c2·d3)) of STRM.d is the base plus
each digit's multiple of its step, of STRM.c4 the same in each 16-bit field; lanes past the last element receive zero. Lane l of vector v of a QLD
receives the captured tile's elements from the origin plus l lane steps and v vector steps on, along dimension 1, and zero bits for one outside
the shape. Each delivery adds one band entry of 32 lanes to the command's queue.
Model choices it rests on: notes/assumptions/7.md. -/
def Obligations.StreamCommands : Prop :=
  (
    ∀ (s : State) (r : TeamRef) (c : Crew) (t : Team), s.acts r c t → ∀ (q : BitVec 3) (a b : SReg),
      let cnt (i : Nat) : Nat := getElem 16 i (t.sregK a 1)
      let issues (i : Instr) (k : StreamCmd) : Prop :=
        exec i s = .next (s.putTeam r ({ t with scq := t.scq ++ [k], nextOrd := t.nextOrd + 1 }.advance 4))
      (t.scq.length < 8 → 0 < cnt 0 → (cnt 1 = 0 → cnt 2 = 0) → (cnt 2 = 0 → cnt 3 = 0) → (cnt 2 = 0 → b = 0#6) →
        ∃ k : StreamCmd, issues (.strmD q a b) k ∧ issues (.strmC4 q a b) { k with kind := 1 } ∧ k.kind = 0 ∧ k.q = q.toNat ∧ k.sent = 0 ∧
          k.r0 = t.sregK a 0 ∧ k.r1 = t.sregK a 1 ∧ k.r2 = t.sregK a 2 ∧ k.r3 = t.sregK a 3 ∧
          (cnt 2 ≠ 0 → k.t2 = t.sregK b 0 ∧ k.t3 = t.sregK b 1)) ∧
      (cnt 0 = 0 → exec (.strmD q a b) s = .next (s.scalarFault r causeOperand none) ∧ exec (.strmC4 q a b) s = .next (s.scalarFault r causeOperand none)) ∧
      (∀ tl : Tile, t.scq.length < 8 → getElem 8 1 (t.sregK a 0) = 0 → getElem 32 1 (t.sregK a 0) = 0 → getElem 16 1 (t.sregK a 0) ≠ 0 →
        c.tile ((t.sregK a 0).setWidth 8) = some tl → tl.queue = false → tl.fmt ≠ 14#4 →
        (∀ v l j, v < getElem 16 1 (t.sregK a 0) → l < t.lanes → j < 64 / tl.width →
          tl.inside ⟨(getElem 16 0 (t.sregK a 1) + l * getElem 16 0 (t.sregK a 2) + v * getElem 16 0 (t.sregK a 3)) % 2 ^ 16,
            (getElem 16 1 (t.sregK a 1) + l * getElem 16 1 (t.sregK a 2) + v * getElem 16 1 (t.sregK a 3)) % 2 ^ 16 + j,
            (getElem 16 2 (t.sregK a 1) + l * getElem 16 2 (t.sregK a 2) + v * getElem 16 2 (t.sregK a 3)) % 2 ^ 16,
            (getElem 16 3 (t.sregK a 1) + l * getElem 16 3 (t.sregK a 2) + v * getElem 16 3 (t.sregK a 3)) % 2 ^ 16⟩ = true) →
        ∃ k : StreamCmd, issues (.qld q a) k ∧ k.kind = 2 ∧ k.q = q.toNat ∧ k.sent = 0 ∧ k.uid = tl.uid ∧ k.r0 = t.sregK a 0 ∧ k.r1 = t.sregK a 1 ∧
          k.r2 = t.sregK a 2 ∧ k.r3 = t.sregK a 3) ∧
      (t.queue ≠ [] → exec (.qclose q) s = .next s) ∧
      (t.queue = [] → ∃ (s' : State) (c' : Crew) (t' : Team), exec (.qclose q) s = .next s' ∧ s'.teamAt r = some (c', t'.advance 4) ∧
        (∀ k, k ∈ t'.scq ↔ k ∈ t.scq ∧ k.q ≠ q.toNat) ∧ t'.queues = t.queues.set q.toNat [] ∧ { t' with scq := t.scq, queues := t.queues } = t)) ∧
  (
    (∀ (k : StreamCmd) (d0 d1 d2 d3 : Nat),
      let cnt (i : Nat) : Nat := getElem 16 i k.r1
      (cnt 1 = 0 → cnt 2 = 0) → (cnt 2 = 0 → cnt 3 = 0) → d0 < cnt 0 → d1 < max 1 (cnt 1) → d2 < max 1 (cnt 2) → d3 < max 1 (cnt 3) →
      let j := d0 + cnt 0 * (d1 + cnt 1 * (d2 + cnt 2 * d3))
      (k.kind = 0 → k.elem j = k.r0 + BitVec.ofNat 64 d0 * k.r2 + BitVec.ofNat 64 d1 * k.r3 + BitVec.ofNat 64 d2 * k.t2 + BitVec.ofNat 64 d3 * k.t3) ∧
      (k.kind = 1 → ∀ i, i < 4 → getElem 16 i (k.elem j) =
        (getElem 16 i k.r0 + d0 * getElem 16 i k.r2 + d1 * getElem 16 i k.r3 + d2 * getElem 16 i k.t2 + d3 * getElem 16 i k.t3) % 2 ^ 16)) ∧
    (∀ (s : State) (r : TeamRef) (c : Crew) (t : Team) (q : StreamCmd) (rest : List StreamCmd),
      s.teamAt r = some (c, t) → s.crewStops c = true → t.scq = q :: rest → q.q < t.queues.length → (t.queues.getD q.q []).length < 8 →
      let v := q.sent / t.bands
      let lane (i : Nat) : Nat := 32 * (q.sent % t.bands) + i
      (q.kind = 2 → ∃ tl, c.tileUid q.uid = some tl ∧ s.qldWaits r t q tl ((List.range 32).map lane) v = false) →
      ∃ (s' : State) (c' : Crew) (t' : Team) (e : Band), exec (.streamDeliver r 0) s = .next s' ∧ s'.teamAt r = some (c', t') ∧
        t'.queues.getD q.q [] = t.queues.getD q.q [] ++ [e] ∧ (∀ p, p ≠ q.q → t'.queues.getD p [] = t.queues.getD p []) ∧
        (q.kind ≠ 2 → ∀ i, i < 32 → e.extractLsb' (64 * i) 64 = (if v * t.lanes + lane i < q.total then q.elem (v * t.lanes + lane i) else 0#64)) ∧
        (∀ tl i j, q.kind = 2 → c.tileUid q.uid = some tl → i < 32 → j < 64 / tl.width →
          let f (k : Nat) : Nat := (getElem 16 k q.r1 + lane i * getElem 16 k q.r2 + v * getElem 16 k q.r3) % 2 ^ 16
          let x : Coord := ⟨f 0, f 1 + j, f 2, f 3⟩
          (tl.inside x = true → tl.poisoned x none = false → getElem tl.width j (e.extractLsb' (64 * i) 64) = tl.read x none % 2 ^ tl.width) ∧
          (tl.inside x = false → getElem tl.width j (e.extractLsb' (64 * i) 64) = 0)) ∧
        (t'.scq = if q.vectors t.lanes * t.bands ≤ q.sent + 1 then rest else { q with sent := q.sent + 1 } :: rest) ∧
        { t' with queues := t.queues, scq := t.scq } = t))

/-! ### Loads, stores, atomics -/

/-- SLD (08 R164; 06 R124): the little-endian bytes of global memory, or of the core's L1 copy of the line, or the tile element, extended
by the size; a misaligned address traps ALIGNMENT. No byte of memory changes.
SST (08 R164; 06 R123): the store is issued, its counter rises, the register's value goes with it; memory has not changed yet.
Model choices it rests on: notes/assumptions/13.md and 15.md. -/
def Obligations.ScalarAccesses : Prop :=
  (
    ∀ (s : State) (r : TeamRef) (c : Crew) (t : Team), s.acts r c t → ∀ (d a : SReg) (z : ScalarSize) (off : BitVec 32) (h : Handle),
      let va := (t.sreg a + off.signExtend 64).toNat
      let n := sizeBytes z
      s.mpopClear r t = true →
      (∀ (s1 : State) (pa : Nat), s.reaches c.core va n false s1 pa → s.olderOverlap r t .scalar t.nextOrd false (.glob va pa) (8 * n) = false →
        (s1.l1Copy c.core (pa / 64) = none → ∃ s2, exec (.sld d a z (.glob off)) s = .next s2 ∧ sameBytes s1 s2 ∧
          s2.teamAt r = some (c.putTeam r.team (t.result d (loadedAs z (readLE s1.mem pa n)) 8), t.result d (loadedAs z (readLE s1.mem pa n)) 8)) ∧
        (∀ line, s1.l1Copy c.core (pa / 64) = some line → s1.lineBusy c.core (pa / 64) r t.nextOrd = false →
          ∃ s2, exec (.sld d a z (.glob off)) s = .next s2 ∧ sameBytes s1 s2 ∧
          s2.teamAt r = some (c.putTeam r.team (t.result d (loadedAs z (line.toNat / 256 ^ (pa % 64))) 8), t.result d (loadedAs z (line.toNat / 256 ^ (pa % 64))) 8))) ∧
      (va % n ≠ 0 → exec (.sld d a z (.glob off)) s = .next (s.scalarFault r causeAlignment none)) ∧
      (∀ tl : Tile, c.element h (t.sreg a) (8 * n) tl → tl.poisoned (coordOf (t.sreg a)) none = false →
        s.olderOverlap r t .scalar t.nextOrd false (.tile r.crew tl.uid (coordOf (t.sreg a)) none) (8 * n) = false →
        exec (.sld d a z (.tile h)) s = .next (s.putTeam r (t.result d (loadedAs z (tl.read (coordOf (t.sreg a)) none)) 8))) ∧
      (c.tile h = none → exec (.sld d a z (.tile h)) s = .next (s.scalarFault r stBounds none))) ∧
  (
    ∀ (s : State) (r : TeamRef) (c : Crew) (t : Team), s.acts r c t → ∀ (d a : SReg) (z : ScalarSize) (off : BitVec 32) (h : Handle),
      let va := (t.sreg a + off.signExtend 64).toNat
      let n := sizeBytes z
      let issues (i : Instr) (s1 : State) (l : Loc) : Prop := ∃ (t' : Team) (x : Access), exec i s = .next (s1.putTeam r (t'.advance 8)) ∧
        t'.pending = t.pending ++ [x] ∧ x.loc = l ∧ x.width = 8 * n ∧ x.kind = .store (t.sreg d) t.stepNow ∧ x.stream = .scalar ∧
        t'.sctr = t.sctr + 1#16 ∧ { t' with pending := t.pending, sctr := t.sctr, nextOrd := t.nextOrd } = t
      s.mpopClear r t = true → t.sctr ≠ 0xFFFF#16 →
      (∀ (s1 : State) (pa : Nat), s.reaches c.core va n true s1 pa → issues (.sst d a z (.glob off)) s1 (.glob va pa)) ∧
      (va % n ≠ 0 → exec (.sst d a z (.glob off)) s = .next (s.scalarFault r causeAlignment none)) ∧
      (∀ tl : Tile, c.element h (t.sreg a) (8 * n) tl → issues (.sst d a z (.tile h)) s (.tile r.crew tl.uid (coordOf (t.sreg a)) none)))

/-- An outstanding access is performed (03 R57; 06 R118, R123): a global store writes its bytes, the low one first, and no other byte of
memory; a load writes its element of its register; either leaves the list of outstanding accesses. The end of the crew, where this store was
the last that it waited for, follows. One whose home gives no answer waits for its guard of 2^22 core cycles and then fails (17 R344): a lane's
load traps UNCORRECTABLE and is kept, to be made again.
The new element of each atomic operation, the integer ones at a width w (08 R166), and SATOM: old returns extended by the size, the new value
stands in memory, and no other byte changes.
Model choices it rests on: notes/assumptions/47.md, 53.md and 65.md. -/
def Obligations.AccessesPerform : Prop :=
  (
    ∀ (s : State) (r : TeamRef) (c : Crew) (t : Team) (k va pa core : Nat) (x : Access), s.teamAt r = some (c, t) → c.place = some core →
      t.pending[k]? = some x → s.mayPerform r t x = true → x.loc = .glob va pa → pa + x.width / 8 ≤ 2 ^ 40 →
      let mended (t' : Team) : Prop := ∀ l, t'.lfm.getLsbD l = true → t.lfm.getLsbD l = true
      (s.muted core x.loc = true → x.age < dieGuard → exec (.storeAck r x.stream k) s = .next s ∧ exec (.longLatencyComplete r k) s = .next s) ∧
      (∀ (d : BitVec 9) (e : Nat), s.muted core x.loc = true → dieGuard ≤ x.age → x.kind = .load d e → x.stream = .lane → t.finished = false → t.faulted = false →
        t.restart = none → t.slots = [] → t.again = [] →
        ∃ (s' : State) (c' : Crew) (t' : Team), exec (.longLatencyComplete r k) s = .next s' ∧ sameBytes s s' ∧ s'.teamAt r = some (c', t') ∧ t'.faulted = true ∧
          t'.trapCause = BitVec.ofNat 28 stUncorrectable ∧ t'.lfm = BitVec.ofNat 1024 (2 ^ x.lane) ∧ t'.pending = t.pending.eraseIdx k ∧ t'.again = [x] ∧ t'.vregs = t.vregs) ∧
      (s.muted core x.loc = false → ∀ (v : Word) (st : BitVec 32), x.kind = .store v st → pteTracked (s.pteOf va) = false → s.isDead pa (x.width / 8) = false →
        ∃ (s' : State) (c' : Crew) (t' : Team), exec (.storeAck r x.stream k) s = .next (s'.completeCrew r.crew) ∧ readLE s'.mem pa (x.width / 8) = v.toNat % 256 ^ (x.width / 8) ∧
          sameBytesBut s s' pa (x.width / 8) ∧ s'.teamAt r = some (c', t') ∧ t'.pending = t.pending.eraseIdx k ∧
          ((∀ y, y ∈ t.pending.eraseIdx k → y.stream ≠ x.stream ∨ y.req ≠ x.req) →
            (x.stream = .scalar → t'.sctr = t.sctr - 1#16 ∧ t'.lctr = t.lctr) ∧ (x.stream = .lane → t'.lctr = t.lctr - 1#16 ∧ t'.sctr = t.sctr)) ∧
          mended t' ∧ { t' with pending := t.pending, sctr := t.sctr, lctr := t.lctr, lfm := t.lfm } = t) ∧
      (s.muted core x.loc = false → ∀ (d : BitVec 9) (e : Nat), x.kind = .load d e → s.l1Copy core (pa / 64) = none →
        ∃ (s' : State) (c' : Crew) (t' : Team), exec (.longLatencyComplete r k) s = .next s' ∧ sameBytes s s' ∧ s'.teamAt r = some (c', t') ∧
          t'.vreg d.toNat x.lane = putElem x.width e (t.vreg d.toNat x.lane) (readLE s.mem pa (x.width / 8)) ∧ t'.pending = t.pending.eraseIdx k ∧
          (∀ v l, v * 1024 + l ≠ d.toNat * 1024 + x.lane → t'.vreg v l = t.vreg v l) ∧ mended t' ∧ { t' with pending := t.pending, vregs := t.vregs, laneErr := t.laneErr, lfm := t.lfm } = t) ∧
      (s.muted core x.loc = false → ∀ (op : AtomOp) (o y : Word) (d : BitVec 9) (e : Nat), x.kind = .atom op o y d e → pteTracked (s.pteOf va) = false → s.isDead pa (x.width / 8) = false →
        ∃ (s' : State) (c' : Crew) (t' : Team), exec (.longLatencyComplete r k) s = .next s' ∧ sameBytesBut s s' pa (x.width / 8) ∧
          readLE s'.mem pa (x.width / 8) = atomNew op x.width (readLE s.mem pa (x.width / 8)) o.toNat y.toNat % 256 ^ (x.width / 8) ∧
          s'.teamAt r = some (c', t') ∧ t'.pending = t.pending.eraseIdx k ∧
          t'.vreg d.toNat x.lane = putElem x.width e (t.vreg d.toNat x.lane) (readLE s.mem pa (x.width / 8)))) ∧
  (
    (∀ (w : Nat) (x y z : BitVec w), w ∈ [8, 16, 32, 64] →
      let new (op : AtomOp) (v : BitVec w) : Prop := atomNew op w x.toNat y.toNat z.toNat = v.toNat
      new .add (x + y) ∧ new .and (x &&& y) ∧ new .or (x ||| y) ∧ new .xor (x ^^^ y) ∧ new .swap y ∧ new .cas (if x = z then y else x) ∧
      new .min (if x.toInt ≤ y.toInt then x else y) ∧ new .max (if x.toInt ≤ y.toInt then y else x) ∧
      new .minn (if x.toNat ≤ y.toNat then x else y) ∧ new .maxn (if x.toNat ≤ y.toNat then y else x)) ∧
    (∀ (x y z : Nat), x < 2 ^ 32 → y < 2 ^ 32 →
      let V := decodeF f32
      atomNew .fadd 32 x y z = encodeF f32 .rne false (addV false (V x) (V y)) ∧
      atomNew .fmin 32 x y z = (if V x = .nan ∧ V y = .nan then 0x7FC00000 else if V x = .nan then y else if V y = .nan then x else if beforeV (V x) (V y) = true then x else y) ∧
      atomNew .fmax 32 x y z = (if V x = .nan ∧ V y = .nan then 0x7FC00000 else if V x = .nan then y else if V y = .nan then x else if beforeV (V x) (V y) = true then y else x)) ∧
    (∀ (s : State) (r : TeamRef) (c : Crew) (t : Team), s.acts r c t → ∀ (d a b : SReg) (z : ScalarSize) (op : AtomOp) (s1 : State) (pa : Nat),
      let va := (t.sreg a).toNat
      let n := sizeBytes z
      s.mpopClear r t = true → t.sctr ≠ 0xFFFF#16 → s.reaches c.core va n true s1 pa → s.olderOverlap r t .scalar t.nextOrd true (.glob va pa) (8 * n) = false →
      pteTracked (s1.pteOf va) = false →
      ∃ s2, exec (.satom d a b z op .glob) s = .next s2 ∧ readLE s2.mem pa n = atomNew op (8 * n) (readLE s1.mem pa n) (t.sreg b).toNat (t.sreg d).toNat % 256 ^ n ∧
        sameBytesBut s1 s2 pa n ∧
        s2.teamAt r = some (c.putTeam r.team (t.result d (loadedAs z (readLE s1.mem pa n)) 8), t.result d (loadedAs z (readLE s1.mem pa n)) 8)) ∧
    (∀ (s : State) (r : TeamRef) (c : Crew) (t : Team), s.acts r c t → ∀ (d a b : SReg) (z : ScalarSize) (op : AtomOp) (h : Handle) (tl : Tile),
      let x := coordOf (t.sreg a)
      s.mpopClear r t = true → t.sctr ≠ 0xFFFF#16 → c.element h (t.sreg a) (8 * sizeBytes z) tl → isFloatOp op = false → tl.poisoned x none = false → tl.tracked = false →
      s.olderOverlap r t .scalar t.nextOrd true (.tile r.crew tl.uid x none) (8 * sizeBytes z) = false → s.mmaHeld r.crew tl.uid x = false →
      exec (.satom d a b z op (.tile h)) s = .next ((s.putTile r.crew (tl.write x none (atomNew op (8 * sizeBytes z) (tl.read x none) (t.sreg b).toNat (t.sreg d).toNat))).modTeam r
        (fun u => u.result d (loadedAs z (tl.read x none)) 8))))

/-- A tile write and the element it names (05 R96, R98, R101): the element reads as written and its words lose their poison; the tile's
shape, format, layout, handle and tags stay. A change of tags leaves every element's value.
SLDF and SSTE (08 R165; 05 R101; 02 R38, R41; 10 R227): earlier stores of the stream come first; then the access when the tags stand
as it wants and no earlier waiter is to be served, status OK in the second register; where an earlier waiter is, the instruction holds or
waits; with e = 0 and other tags, TIMEOUT; else the team waits for at most 2^e core cycles.
Model choices it rests on: notes/assumptions/58.md. -/
def Obligations.TaggedScalarAccesses : Prop :=
  (
    ∀ (tl : Tile) (x : Coord) (v : Nat), tl.fmt ≠ 14#4 → tl.fmt ≠ 15#4 →
      (tl.write x none v).read x none = v % 2 ^ tl.width ∧ (tl.width ≥ 32 → (tl.write x none v).poisoned x none = false) ∧
      (tl.write x none v).isFull x none = tl.isFull x none ∧
      { tl.write x none v with words := tl.words, poison := tl.poison, conv := tl.conv } = tl ∧
      (∀ b y, (tl.setTag x none b).read y none = tl.read y none) ∧ (tl.setTag x none true).isFull x none = true ∧ (tl.setTag x none false).isEmpty x none = true) ∧
  (
    ∀ (s : State) (r : TeamRef) (c : Crew) (t : Team), s.acts r c t → ∀ (d a b : SReg) (z : ScalarSize) (h : Handle) (e : BitVec 5) (cons : Bool) (tl : Tile),
      let x := coordOf (t.sreg a)
      let full : TagWant := ⟨r.crew, tl.uid, x, true, none⟩
      let empty : TagWant := ⟨r.crew, tl.uid, x, false, none⟩
      s.mpopClear r t = true → t.swait = none → c.element h (t.sreg a) (8 * sizeBytes z) tl → tl.tags = true →
      (s.olderOverlap r t .scalar t.nextOrd false (.tile r.crew tl.uid x none) (8 * sizeBytes z) = true → exec (.sldf d a b z h e cons) s = .next s) ∧
      (s.olderOverlap r t .scalar t.nextOrd false (.tile r.crew tl.uid x none) (8 * sizeBytes z) = false →
        (s.servable s.nextWait full = true → tl.poisoned x none = false →
          exec (.sldf d a b z h e cons) s = .next ((if cons then s.tileTag r.crew tl.uid x false else s).putTeam r
            { (t.setSreg d (loadedAs z (tl.read x none))).status b 0 8 with swait := none })) ∧
        (s.tagHolds full = true → s.servable s.nextWait full = false → exec (.sldf d a b z h 0#5 cons) s = .next s) ∧
        (s.tagHolds full = false → exec (.sldf d a b z h 0#5 cons) s = .next (s.putTeam r { t.status b 1 8 with swait := none })) ∧
        (s.servable s.nextWait full = false → e ≠ 0#5 →
          exec (.sldf d a b z h e cons) s = .next (s.beginWait r (.sldf d a b z h e cons) e (some full)))) ∧
      (t.sctr ≠ 0xFFFF#16 → t.streamIdle .scalar = false → exec (.sste d a b z h e) s = .next s) ∧
      (t.sctr ≠ 0xFFFF#16 → t.streamIdle .scalar = true → s.mmaHeld r.crew tl.uid x = false → tl.tracked = false →
        (s.servable s.nextWait empty = true →
          exec (.sste d a b z h e) s = .next ((s.putTile r.crew ((tl.write x none (t.sreg d).toNat).setTag x none true)).modTeam r
            (fun u => { u.status b 0 8 with swait := none }))) ∧
        (s.tagHolds empty = true → s.servable s.nextWait empty = false → exec (.sste d a b z h e) s = .next s) ∧
        (s.tagHolds empty = false →
          exec (.sste d a b z h 0#5) s = .next (s.putTeam r { t.status b 1 8 with swait := none }) ∧
          (e ≠ 0#5 → exec (.sste d a b z h e) s = .next (s.beginWait r (.sste d a b z h e) e (some empty))))))

/-! ### Traps, system registers, fences -/

/-- Taking a trap in the scalar stream and returning from it (17 R341 to R343; 08 R187): what the trap record receives, where a privileged
team with a handler goes on, and that every other team becomes FAULTED and stands still; where lanes of an earlier lane fault are still to
be re-executed, the record of such a team stays that fault's, unless the trap is a second one, of a handler. A wait that the stream stood in is over.
A fetch or encoding that fails in the lane stream (18 R347, R350; 17 R342): the team becomes FAULTED, the record names clause, instruction
and lanes of the clause mask, and no lane register changes; an empty clause mask passes over the instruction.
Model choices it rests on: notes/assumptions/10.md and 57.md. -/
def Obligations.TrapEntryAndReturn : Prop :=
  (
    (∀ (t : Team) (cause code : Nat) (save : Word), cause < 2 ^ 16 → code < 2 ^ 12 →
      let u := t.trap cause code save
      let handled := t.priv = true ∧ t.trapVec ≠ 0#56 ∧ t.trapInh = false
      u.trapPc = save.setWidth 56 ∧ u.swait = none ∧
      (handled ∨ t.lfm = 0#1024 ∨ t.trapInh = true →
        u.trapCause.toNat = code * 2 ^ 16 + cause ∧ u.trapLane = false ∧ u.trapLclause = 0#56 ∧ u.trapLidx = 0#4) ∧
      (¬handled ∧ t.lfm ≠ 0#1024 ∧ t.trapInh = false →
        u.trapCause = t.trapCause ∧ u.trapLane = t.trapLane ∧ u.trapLclause = t.trapLclause ∧ u.trapLidx = t.trapLidx) ∧
      (handled → u.pc = t.trapVec.setWidth 64 ∧ u.trapInh = true ∧ u.faulted = t.faulted) ∧
      (¬handled → u.pc = t.pc ∧ u.trapInh = t.trapInh ∧ u.faulted = true) ∧
      { u with trapCause := t.trapCause, trapPc := t.trapPc, trapLane := t.trapLane, pc := t.pc, trapInh := t.trapInh, faulted := t.faulted
               trapLclause := t.trapLclause, trapLidx := t.trapLidx, swait := t.swait } = t) ∧
    (∀ (s : State) (r : TeamRef) (c : Crew) (t : Team), s.acts r c t →
      (∀ code : BitVec 12, ∃ (s' : State) (c' : Crew), exec (.trap code) s = .next s' ∧ s'.teamAt r = some (c', t.trap 0x10 code.toNat (t.pc + 4#64)) ∧ sameBytes s s') ∧
      (t.priv = true → exec .eret s = .next (s.putTeam r { t with pc := t.trapPc.setWidth 64, trapInh := false })) ∧
      (t.priv = false → exec .eret s = .next (s.scalarFault r 0x17 none)) ∧
      (∃ (s' : State) (c' : Crew), exec (.unassignedEncoding .scalar) s = .next s' ∧ s'.teamAt r = some (c', t.trap 0x11 0 t.pc) ∧ sameBytes s s') ∧
      (∀ (why : FetchFault) (at_ : Word), ∃ (s' : State) (c' : Crew), exec (.instructionFetchFault .scalar why at_) s = .next s' ∧
        s'.teamAt r = some (c', t.trap (match why with | .translation => 8 | .uncorrectable => 6 | .poison => 4) 0 at_) ∧ sameBytes s s')) ∧
    (∀ (s : State) (r : TeamRef) (c : Crew) (t : Team) (cause : Nat) (z : Option Nat), s.teamAt r = some (c, t) →
      ∃ c', (s.scalarFault r cause z).teamAt r = some (c', t.trap cause 0 t.pc) ∧ sameBytes s (s.scalarFault r cause z))) ∧
  (
    ∀ (s : State) (r : TeamRef) (c : Crew) (t : Team) (cl : Clause), s.laneAt r c t cl → t.restart = none → ∀ (why : FetchFault) (at_ : Word),
      (cl.mask ≠ 0#1024 →
        ∃ (s1 s2 : State) (c1 c2 : Crew) (t1 t2 : Team), exec (.unassignedEncoding .lane) s = .next s1 ∧ s1.teamAt r = some (c1, t1) ∧
          exec (.instructionFetchFault .lane why at_) s = .next s2 ∧ s2.teamAt r = some (c2, t2) ∧
          t1.trapCause = 0x11#28 ∧ t2.trapCause = (match why with | .translation => 8#28 | .uncorrectable => 6#28 | .poison => 4#28) ∧
          ∀ u, u = t1 ∨ u = t2 → u.faulted = true ∧ u.trapLane = true ∧ u.trapPc = (if t.faulted then t.trapPc else t.pc.setWidth 56) ∧ u.trapLclause = BitVec.ofNat 56 cl.addr ∧
            u.trapLidx = BitVec.ofNat 4 t.lidx ∧ u.lfm ≠ 0#1024 ∧ u.lfm &&& ~~~cl.mask = 0#1024 ∧ u.vregs = t.vregs ∧ u.queues = t.queues ∧ u.pc = t.pc) ∧
      (cl.mask = 0#1024 → ∃ b, exec (.unassignedEncoding .lane) s = .next (s.putTeam r (t.laneDone b)) ∧ (b = none ∨ b = some [])))

/-- SYSR, SYSW and CLK (08 R186, R188, R189; 17 R341): the value of each system register, the lane fault mask's summary and bands among them, which
writes take effect, and PRIVILEGE for the registers that cannot be written. ctx.data reads and writes the words of the mask registers, of the mask stack
and its depth; a selection outside the table, and a depth above 16, trap OPERAND.
Model choices it rests on: notes/assumptions/9.md. -/
def Obligations.SystemRegisters : Prop :=
  ∀ (s : State) (r : TeamRef) (c : Crew) (t : Team), s.acts r c t → ∀ (d : SReg),
    let reads (n : BitVec 12) (v : Nat) : Prop := exec (.sysr d n) s = .next (s.putTeam r (t.result d (BitVec.ofNat 64 v) 4))
    let writes (n : BitVec 12) (t' : Team) : Prop := exec (.sysw d n) s = .next (s.putTeam r (t'.advance 4))
    let v := t.sreg d
    reads 0x000#12 1 ∧ (∀ l, s.launchOf c = some l → reads 0x005#12 (recCrews l.record)) ∧
    reads 0x001#12 t.id ∧ reads 0x002#12 c.teams.length ∧ reads 0x003#12 t.lanes ∧ reads 0x004#12 c.crewId.toNat ∧ reads 0x006#12 c.core ∧
    reads 0x007#12 (c.core / 4) ∧ reads 0x008#12 (c.core / 12) ∧ reads 0x009#12 c.launchId.toNat ∧ reads 0x00A#12 s.span.index.toNat ∧
    reads 0x00B#12 s.span.count.toNat ∧ reads 0x010#12 s.regions ∧ reads 0x011#12 (3 * s.regions - s.vacantGangs.length) ∧
    reads 0x012#12 ((List.range (12 * s.regions)).countP (fun k => !s.vacantGangs.contains (k / 4) && !s.vacantCores.contains k)) ∧
    reads 0x013#12 (if t.priv then 1 else 0) ∧ reads 0x020#12 s.capGen.toNat ∧
    reads 0x021#12 c.capNote.toNat ∧ reads 0x030#12 t.stepNow.toNat ∧ reads 0x031#12 t.regs ∧ reads 0x032#12 t.batchOpen.toNat ∧
    reads 0x033#12 t.seqNext.toNat ∧ reads 0x034#12 t.guardDepth.toNat ∧ reads 0x035#12 t.nopreDepth.toNat ∧ reads 0x070#12 t.trapPc.toNat ∧
    reads 0x071#12 t.trapCause.toNat ∧ reads 0x072#12 t.trapVec.toNat ∧ reads 0x073#12 t.trapLclause.toNat ∧
    reads 0x074#12 (t.trapLidx.toNat + 16 * (if t.trapLane then 1 else 0) + 32 * (if t.trapInh then 1 else 0)) ∧ reads 0x080#12 t.ctxSel.toNat ∧
    (∃ x, reads 0x040#12 x ∧ x < 2 ^ 32 ∧ ∀ k, k < 32 → (x.testBit k = true ↔ t.lfm.extractLsb' (32 * k) 32 ≠ 0#32)) ∧
    (∀ n : BitVec 12, 0x041 ≤ n.toNat → n.toNat ≤ 0x060 → reads n (t.lfm.extractLsb' (32 * (n.toNat - 0x041)) 32).toNat) ∧
    (∃ c', exec (.sysw d 0x021#12) s = .next (s.putCrew r.crew c') ∧ c'.capNote = v.setWidth 9 ∧
      { c' with capNote := c.capNote } = c.putTeam r.team (t.advance 4)) ∧
    (t.priv = true →
      writes 0x070#12 { t with trapPc := v.setWidth 56 } ∧ writes 0x072#12 { t with trapVec := v.setWidth 56 } ∧
      writes 0x080#12 { t with ctxSel := v.setWidth 14 }) ∧
    (∀ (o i : Nat), o < 256 → i < 64 → t.ctxSel.toNat = o + 256 * i →
      let entry := t.stack.getD (o - 16) 0#1024
      let m := if o < 8 then t.mask (BitVec.ofNat 3 o) else entry
      let mask := o < 8 ∨ (16 ≤ o ∧ o < 32)
      (mask → i = 0 → (∃ x, reads 0x081#12 x ∧ x < 2 ^ 32 ∧ ∀ k, k < 32 → (x.testBit k = true ↔ m.extractLsb' (32 * k) 32 ≠ 0#32)) ∧
        (t.priv = true → writes 0x081#12 t)) ∧
      (mask → 1 ≤ i → i ≤ 32 → reads 0x081#12 (m.extractLsb' (32 * (i - 1)) 32).toNat) ∧
      (o < 8 → 1 ≤ i → i ≤ 32 → t.priv = true → ∃ t' : Team, writes 0x081#12 t' ∧ { t' with masks := t.masks } = t ∧
        (∀ l, l < 1024 → (t'.mask (BitVec.ofNat 3 o)).getLsbD l =
          if l / 32 = i - 1 then v.getLsbD (l % 32) && decide (l < t.lanes) else m.getLsbD l && decide (l < t.lanes)) ∧
        ∀ k : MReg, k ≠ BitVec.ofNat 3 o → t'.mask k = t.mask k) ∧
      (16 ≤ o → o < 32 → 1 ≤ i → i ≤ 32 → t.priv = true → ∃ t' : Team, writes 0x081#12 t' ∧ { t' with stack := t.stack } = t ∧ t'.stack.length = t.stack.length ∧
        (∀ k, k ≠ o - 16 → t'.stack[k]? = t.stack[k]?) ∧
        (o - 16 < t.stack.length → ∀ l, l < 1024 → (t'.stack.getD (o - 16) 0#1024).getLsbD l =
          if l / 32 = i - 1 then v.getLsbD (l % 32) && decide (l < t.lanes) else m.getLsbD l && decide (l < t.lanes))) ∧
      (o = 8 → i = 0 → reads 0x081#12 t.stack.length ∧
        (t.priv = true → v.toNat % 2 ^ 32 ≤ 16 → ∃ t' : Team, writes 0x081#12 t' ∧ { t' with stack := t.stack } = t ∧ t'.stack.length = v.toNat % 2 ^ 32 ∧
          ∀ k, k < v.toNat % 2 ^ 32 → t'.stack.getD k 0#1024 = t.stack.getD k 0#1024) ∧
        (t.priv = true → 16 < v.toNat % 2 ^ 32 → exec (.sysw d 0x081#12) s = .next (s.scalarFault r 0x12 none))) ∧
      ((¬mask ∧ o ≠ 8) ∨ (o = 8 ∧ i ≠ 0) ∨ 32 < i →
        exec (.sysr d 0x081#12) s = .next (s.scalarFault r 0x12 none) ∧ (t.priv = true → exec (.sysw d 0x081#12) s = .next (s.scalarFault r 0x12 none)))) ∧
    (∀ n : BitVec 12, let k := n.toNat
      k ≤ 0x00B ∨ (0x010 ≤ k ∧ k ≤ 0x013) ∨ k = 0x020 ∨ (0x030 ≤ k ∧ k ≤ 0x035) ∨ (0x040 ≤ k ∧ k ≤ 0x060) ∨ k = 0x071 ∨ k = 0x073 ∨ k = 0x074 ∨
        (t.priv = false ∧ (k = 0x070 ∨ k = 0x072 ∨ k = 0x080 ∨ k = 0x081)) →
      exec (.sysw d n) s = .next (s.scalarFault r 0x17 none)) ∧
    exec (.clk d) s = .next (s.putTeam r (t.result d (cellGet s.clk c.core) 4))

/-- The fences (06 R121, R122, R124): an acquire waits for every clause to retire and every load of the team; a release for its stores too;
an acquire at scope .gang or wider empties the core's L1. Otherwise nothing but the program counter changes.
EXIT (02 R36, R47; 10 R238): the scalar stream ends, what the team holds of each list set is retired, and a team whose lane queue is
empty and whose clauses are complete has finished.
Model choices it rests on: notes/assumptions/12.md. -/
def Obligations.FencesAndExit : Prop :=
  (
    ∀ (s : State) (r : TeamRef) (c : Crew) (t : Team), s.acts r c t → ∀ (sc : Scope),
      let loads : Prop := ∃ a, a ∈ t.pending ∧ ∀ v st, a.kind ≠ .store v st
      let next := s.putTeam r (t.advance 4)
      let wide := sc = .gang ∨ sc = .region ∨ sc = .device ∨ sc = .span
      (t.queue = [] → ¬loads →
        (wide → ∃ s', exec (.fenceAcq sc) s = .next s' ∧ { s' with l1 := next.l1 } = next ∧ (∀ x, x ∈ s'.l1 ↔ x ∈ s.l1 ∧ x.core ≠ c.core)) ∧
        (¬wide → exec (.fenceAcq sc) s = .next next) ∧
        (t.sctr = 0#16 → t.lctr = 0#16 → exec (.fenceRel sc) s = .next next ∧
          (wide → ∃ s', exec (.fenceAr sc) s = .next s' ∧ { s' with l1 := next.l1 } = next ∧ (∀ x, x ∈ s'.l1 ↔ x ∈ s.l1 ∧ x.core ≠ c.core)) ∧
          (¬wide → exec (.fenceAr sc) s = .next next))) ∧
      (t.queue ≠ [] ∨ loads → exec (.fenceAcq sc) s = .next s) ∧
      (t.queue ≠ [] ∨ loads ∨ t.sctr ≠ 0#16 ∨ t.lctr ≠ 0#16 → exec (.fenceRel sc) s = .next s ∧ exec (.fenceAr sc) s = .next s)) ∧
  (
    ∀ (s : State) (r : TeamRef) (c : Crew) (t : Team), s.acts r c t → t.finished = false →
      (∀ i, i ∈ s.wlItems → i.team ≠ r) → t.slots = [] → t.queue = [] → t.growWant = none →
      ∃ (s' : State) (c' : Crew) (t' : Team), exec .exit s = .next s' ∧ s'.teamAt r = some (c', t') ∧ t'.exited = true ∧ t'.wl = [] ∧ t'.pc = t.pc + 4#64 ∧
        t'.finished = t.retired.isEmpty ∧ { t' with exited := t.exited, wl := t.wl, pc := t.pc, finished := t.finished } = t ∧
        s'.wlChanges = s.wlChanges ++ (t.wl.filter (fun w => w.items + (if w.seed then 1 else 0) ≠ 0)).map (fun w =>
          { team := r, gang := c.core / 4, set := w.set, retire := w.items + (if w.seed then 1 else 0) }))

/-! ### Tiles, layouts, bindings, gates -/

/-- TALLOC, TFREE, TDESC (05 R93 to R95, R115; 08 R173): a well-formed descriptor on a free handle that fits the core makes a tile of zeros with
empty tags; TFREE frees the handle; TDESC reads the descriptor back, zeros for a free handle. -/
def Obligations.TileInstructions : Prop :=
  ∀ (s : State) (r : TeamRef) (c : Crew) (t : Team), s.acts r c t → ∀ (d a b : SReg) (h : Handle),
    let x := t.sreg a
    let y := t.sreg b
    (c.tile h = none → tileDescOk x (y.setWidth 32) = true →
      s.granulesFit c.core (mkTile c.nextUid h x (y.setWidth 32) false).granules = true →
      ∃ (s' : State) (c' : Crew) (tl : Tile), exec (.talloc d a b h) s = .next s' ∧ s'.teamAt r = some (c', t.status d 0 8) ∧ c'.tiles = c.tiles ++ [tl] ∧
        tl.handle = h ∧ tl.n0 = x.extractLsb' 0 16 ∧ tl.n1 = x.extractLsb' 16 16 ∧ tl.n2 = x.extractLsb' 32 16 ∧ tl.n3 = x.extractLsb' 48 16 ∧
        tl.fmt = y.extractLsb' 0 4 ∧ tl.planes = y.extractLsb' 4 5 ∧ tl.layout = y.extractLsb' 9 4 ∧ tl.tags = y.getLsbD 13 ∧ tl.queue = y.getLsbD 14 ∧
        tl.words = [] ∧ tl.full = [] ∧ tl.conv = none ∧ tl.freed = false ∧ sameBytes s s') ∧
    ((c.tile h).isSome = true ∨ tileDescOk x (y.setWidth 32) = false → exec (.talloc d a b h) s = .next (s.putTeam r (t.status d 7 8))) ∧
    (c.tile h = none → exec (.tfree h) s = .next (s.putTeam r (t.advance 8)) ∧
      exec (.tdesc d h) s = .next (s.putTeam r (((t.setSreg d 0#64).setSreg (d + 1#6) 0#64).advance 8))) ∧
    (∀ tl : Tile, c.tile h = some tl →
      (s.tileHeld r.crew tl.uid = true → exec (.tfree h) s = .next s) ∧
      (s.tileHeld r.crew tl.uid = false → (∀ u, u ∈ c.tiles → u.handle = h → u.freed = false → u.uid = tl.uid) →
        ∃ (s' : State) (c' : Crew) (t' : Team), exec (.tfree h) s = .next s' ∧ s'.teamAt r = some (c', t') ∧ c'.tile h = none ∧ t'.pc = t.pc + 8#64 ∧
          t'.sregs = t.sregs ∧ (∀ g, g ≠ h → (∀ u, u ∈ c.tiles → u.uid = tl.uid → u.handle = h) → c'.tile g = c.tile g)) ∧
      exec (.tdesc d h) s = .next (s.putTeam r (((t.setSreg d (tl.n3 ++ tl.n2 ++ tl.n1 ++ tl.n0)).setSreg (d + 1#6) tl.d1).advance 8)) ∧
      tl.d1.extractLsb' 0 4 = tl.fmt ∧ tl.d1.extractLsb' 4 5 = tl.planes ∧ tl.d1.extractLsb' 9 4 = tl.tagNow ∧ tl.d1.getLsbD 13 = tl.tags ∧
      tl.d1.getLsbD 14 = tl.queue ∧ tl.d1.getLsbD 52 = tl.conv.isSome ∧ tl.d1.getLsbD 63 = true)

/-- LAYOUT, LWAIT and the layout engine (05 R112, R113; 12 R272): a valid tag starts a conversion with status OK, a block at a time; LWAIT holds
while one is in progress; after the last block the tile stands in its new layout. Every element's value, and in a tile with tags every
element's tags, stand through each block and at the end (05 R113, R114).
Model choices it rests on: notes/assumptions/21.md. -/
def Obligations.LayoutConversions : Prop :=
  ∀ (s : State) (r : TeamRef) (c : Crew) (t : Team), s.acts r c t → ∀ (d : SReg) (h : Handle) (tag : BitVec 4) (tl : Tile), c.tile h = some tl →
    (tl.queue = true ∨ layoutOk tl.fmt tag.toNat = false → exec (.layout d h tag) s = .next (s.putTeam r (t.status d 7 8))) ∧
    (tl.queue = false → layoutOk tl.fmt tag.toNat = true → (tl.tags = true → 32 ≤ tl.width) → (tl.fmt = 14#4 → tag = tl.layout) →
      (tl.conv.isSome = true → exec (.layout d h tag) s = .next s) ∧
      (tl.conv = none → tag = tl.layout → exec (.layout d h tag) s = .next (s.putTeam r (t.status d 0 8))) ∧
      (tl.conv = none → tag ≠ tl.layout → s.granulesFit c.core (ceilDiv (tl.shapeAs tag.toNat).size 4096) = true →
        ∃ s', exec (.layout d h tag) s = .next s' ∧ s'.teamAt r = some (c.putTile { tl with conv := some { target := tag, done := 0, order := s.nextConv } } |>.putTeam r.team (t.status d 0 8), t.status d 0 8) ∧
          sameBytes s s')) ∧
    (tl.conv = none → exec (.lwait h) s = .next (s.putTeam r (t.advance 8))) ∧
    (tl.conv.isSome = true → exec (.lwait h) s = .next s) ∧
    (∀ (core : Nat) (v : Conv), c.place = some core → tl.conv = some v → (∀ o, o ∈ s.convOrders core → v.order ≤ o) →
      ∃ tl' : Tile, exec (.layoutBlockConvert r.crew h) s = .next (s.putTile r.crew tl') ∧ tl'.uid = tl.uid ∧ tl'.handle = tl.handle ∧
        (v.done + 1 < tl.newBlocks → ∃ v', tl'.conv = some v' ∧ v'.done = v.done + 1 ∧ v'.target = v.target ∧ tl'.words = tl.words) ∧
        (tl.newBlocks ≤ v.done + 1 → tl'.conv = none ∧ tl'.layout = v.target) ∧
        (tl.fmt ≠ 14#4 → layoutOk tl.fmt tl.layout.toNat = true → layoutOk tl.fmt v.target.toNat = true → (∀ w, w ∈ v.full → w < 1024 * v.done) →
          ∀ x : Coord, tl.inside x = true →
            tl'.read x none = tl.read x none ∧
            (tl.tags = true → 32 ≤ tl.width → tl'.isFull x none = tl.isFull x none ∧ tl'.isEmpty x none = tl.isEmpty x none)))

/-- GBIND and ZFILL (05 R109; 08 R174; 12 R269): a 64-byte descriptor within its limits becomes the binding of g; ZFILL makes every element
of a tile zero and every tag empty and records the buffer step; of a global tensor, here one that lies in one page, it makes every byte zero, and
a page that does not translate gives the status TRANSLATION; an unbound handle gives BOUNDS. -/
def Obligations.BindAndFill : Prop :=
  ∀ (s : State) (r : TeamRef) (c : Crew) (t : Team), s.acts r c t → ∀ (d a : SReg) (g : BitVec 6) (h : Handle),
    let va := (t.sreg a).toNat
    (va % 64 ≠ 0 → exec (.gbind d a g) s = .next (s.putTeam r (t.status d 7 8))) ∧
    (∀ (s1 : State) (pa : Nat), s.reaches c.core va 64 false s1 pa → s1.olderOverlap r t .scalar t.nextOrd false (.glob va pa) 512 = false →
      s1.l1Copy c.core (pa / 64) = none → descOk (BitVec.ofNat 512 (readLE s1.mem pa 64)) = true →
      ∃ (s' : State) (c' : Crew), exec (.gbind d a g) s = .next s' ∧ s'.teamAt r = some (c', t.status d 0 8) ∧ sameBytes s1 s' ∧
        (∀ k, cellGet c'.globals k = if k = g.toNat then BitVec.ofNat 512 (readLE s1.mem pa 64) else cellGet c.globals k)) ∧
    (∀ tl : Tile, c.tile h = some tl → c.tileUid tl.uid = some tl → tl.queue = false → tl.tracked = false → s.tileHeld r.crew tl.uid = false → t.fillWaits r.crew tl.uid [] = false →
      ∃ (s' : State) (c' : Crew) (tl' : Tile), exec (.zfill d a (.tile h)) s = .next s' ∧ s'.teamAt r = some (c', t.status d 0 8) ∧ sameBytes s s' ∧
        s'.tileAt r.crew tl.uid = some tl' ∧ tl'.bstep = (t.sreg a).setWidth 32 ∧ (∀ x blk, tl'.read x blk = 0) ∧ (∀ x blk, tl'.isEmpty x blk = true) ∧
        tl'.shape = tl.shape) ∧
    (c.tile h = none → exec (.zfill d a (.tile h)) s = .next (s.putTeam r (t.status d 7 8))) ∧
    (let desc := cellGet c.globals g.toNat
     let base := descBase desc
     let size := (descShape desc).size
     (desc = 0#512 → exec (.zfill d a (.tensor g)) s = .next (s.putTeam r (t.status d 7 8))) ∧
     (∀ gr : Range, desc ≠ 0#512 → 0 < size → s.rangeOf base = some gr → base + size ≤ gr.base + ((base - gr.base) / pageSize gr.z + 1) * pageSize gr.z →
       (∀ (s1 : State) (pa : Nat) (e : Word), s.translate none (coreDie c.core) base true = (s1, .ok pa e) → pteScm e = false → pteTracked e = false →
         pa + size ≤ 2 ^ 40 → s1.isDead pa size = false → t.fillWaits r.crew 0 [(base, pa, size, e)] = false →
         ∃ (s' : State) (c' : Crew), exec (.zfill d a (.tensor g)) s = .next s' ∧ s'.teamAt r = some (c', t.status d 0 8) ∧
           (∀ x, pa ≤ x → x < pa + size → s'.byteAt x = 0#8) ∧ sameBytesBut s1 s' pa size) ∧
       (∀ (s1 : State) (x : Xlate), s.translate none (coreDie c.core) base true = (s1, x) → x = .fail ∨ (∃ z, x = .empty z) →
         ∃ (s' : State) (c' : Crew), exec (.zfill d a (.tensor g)) s = .next s' ∧ s'.teamAt r = some (c', t.status d 8 8) ∧ sameBytes s1 s')))

/-- The gate update of 05 R103 and the gate instructions (05 R104; 08 R175): arrivals and bytes are counted with saturation; when the count is
met and no byte is owed the phase advances; GARRIVE returns the old phase, GWAIT the distance of the phase from its token. -/
def Obligations.GateInstructions : Prop :=
  (∀ (g : Word) (n add sub : Nat),
    let got := min (gateGot g + n) 65535
    let bytes := min (gateBytes g + add - sub) 65535
    let g' := gateUpdate g n add sub
    gateNeed g' = gateNeed g ∧ gateBytes g' = bytes ∧
    ((0 < n ∨ 0 < sub) ∧ gateNeed g ≤ got ∧ bytes = 0 → gatePhase g' = (gatePhase g + 1) % 65536 ∧ gateGot g' = if gateNeed g = 0 then 0 else got - gateNeed g) ∧
    (¬((0 < n ∨ 0 < sub) ∧ gateNeed g ≤ got ∧ bytes = 0) → gatePhase g' = gatePhase g ∧ gateGot g' = got)) ∧
  (∀ (s : State) (r : TeamRef) (c : Crew) (t : Team), s.acts r c t → ∀ (d a b : SReg) (h : Handle) (e : BitVec 5) (tl : Tile),
    let x := coordOf (t.sreg a)
    c.tile h = some tl → c.tileUid tl.uid = some tl → tl.fmt = 3#4 ∨ tl.fmt = 7#4 → tl.inside x = true → tl.tags = true → tl.tracked = false → s.mmaHeld r.crew tl.uid x = false →
    (∀ w, s.olderOverlap r t .scalar t.nextOrd w (.tile r.crew tl.uid x none) 64 = false) → t.swait = none →
    let g : Word := BitVec.ofNat 64 (tl.read x none)
    let upd (v : Word) : Tile := tl.write x none v.toNat
    (∃ s', exec (.ginit a b h) s = .next s' ∧ s'.tileAt r.crew tl.uid = some ((upd (t.sreg b)).setTag x none true) ∧ (s'.teamAt r).map (·.2) = some (t.advance 8)) ∧
    (t.streamIdle .scalar = true → tl.poisoned x none = false →
      (∃ s', exec (.garrive d a h) s = .next s' ∧ s'.tileAt r.crew tl.uid = some (upd (gateUpdate g 1 0 0)) ∧
        (s'.teamAt r).map (·.2) = some (t.result d (BitVec.ofNat 64 (gatePhase g)) 8)) ∧
      (∃ s', exec (.gexpect a b h) s = .next s' ∧ s'.tileAt r.crew tl.uid = some (upd (gateUpdate g 0 (min (t.sreg b).toNat 65535) 0)) ∧
        (s'.teamAt r).map (·.2) = some (t.advance 8))) ∧
    (tl.poisoned x none = false →
      let dist := (gatePhase g + 65536 - (t.sreg b).toNat % 65536) % 65536
      (dist ≠ 0 → exec (.gwait d a b h e) s = .next (s.putTeam r { t.status d (if dist = 1 then 0 else 2) 8 with swait := none })) ∧
      (dist = 0 → exec (.gwait d a b h 0#5) s = .next (s.putTeam r { t.status d 1 8 with swait := none }) ∧
        (e ≠ 0#5 → exec (.gwait d a b h e) s = .next ((s.beginWait r (.gwait d a b h e) e none).modTeam r
          (fun u => { u with swait := u.swait.map (fun w => { w with gate := some (tl.uid, x) }) }))))))

/-! ### Registers, regions, locality -/

/-- RGROW, RSHRINK, YIELD, GUARD and NOPRE (08 R182; 13 R290, R297; 18 R351): a growth that the register file has room for is granted at once;
registers at or above a smaller allocation cease to exist; the depths count between 0 and 15.
CAPQ and LOCQ (08 R182, R183): the number of regions, gangs and cores with cap.gen; the team's region and die, and the place of a page.
Model choices it rests on: notes/assumptions/9.md. -/
def Obligations.RegistersRegionsAndCapacity : Prop :=
  (
    ∀ (s : State) (r : TeamRef) (c : Crew) (t : Team), s.acts r c t → ∀ (d a : SReg) (e : BitVec 5),
      let n := (t.sreg a).toNat
      (n % 8 ≠ 0 ∨ n < t.regs ∨ 512 < n → exec (.rgrow d a e) s = .next (s.scalarFault r 0x12 none)) ∧
      (n % 8 = 0 → n ≤ 512 →
        (n = t.regs → exec (.rgrow d a e) s = .next (s.putTeam r (t.status d 0 4))) ∧
        (t.regs < n → 131072 < c.footprint + t.lanes * (n - t.regs) → exec (.rgrow d a e) s = .next (s.putTeam r (t.status d 7 4))) ∧
        (t.regs < n → c.footprint + t.lanes * (n - t.regs) ≤ 131072 → s.coreRegsUsed c.core + t.lanes * (n - t.regs) ≤ 131072 →
          s.growBefore c.core (s.scalarBegan t) = false → (e = 0#5 → s.growBefore c.core s.nextWait = false) → (∀ k, k ∈ s.residents c.core → ∀ x, s.crewAt k = some x → x.mirrored = false) → r.crew ∈ s.residents c.core →
          exec (.rgrow d a e) s = .next (s.putTeam r { { t with regs := n }.status d 0 4 with swait := none })) ∧
        (t.regs < n → c.footprint + t.lanes * (n - t.regs) ≤ 131072 → 131072 < s.coreRegsUsed c.core + t.lanes * (n - t.regs) →
          exec (.rgrow d a 0#5) s = .next (s.putTeam r { t.status d 1 4 with swait := none }) ∧
          (e ≠ 0#5 → exec (.rgrow d a e) s = .next (s.beginWait r (.rgrow d a e) e none)))) ∧
      (n % 8 = 0 → 8 ≤ n → n ≤ t.regs → s.destAbove r c t n = false → (∀ q u, (s.teamAt q).map (·.2) = some u → u.growWant = none) →
        ∃ t', exec (.rshrink a) s = .next (s.putTeam r t') ∧ t'.regs = n ∧ t'.pc = t.pc + 4#64 ∧ (∀ v l, v < n → l < 1024 → t'.vreg v l = t.vreg v l) ∧
          (∀ v l, n ≤ v → v < 512 → l < 1024 → t'.vreg v l = 0#64) ∧ { t' with regs := t.regs, vregs := t.vregs, laneErr := t.laneErr, pc := t.pc } = t) ∧
      (n % 8 ≠ 0 ∨ n < 8 ∨ t.regs < n → exec (.rshrink a) s = .next (s.scalarFault r 0x12 none)) ∧
      exec .yield s = .next (s.beginWait r .yield 31#5 none) ∧
      (t.guardDepth ≠ 15#4 → exec .guardBegin s = .next (s.putTeam r ({ t with guardDepth := t.guardDepth + 1#4 }.advance 4))) ∧
      (t.guardDepth = 15#4 → exec .guardBegin s = .next (s.scalarFault r 0x12 none)) ∧
      (t.guardDepth = 0#4 → exec .guardEnd s = .next (s.scalarFault r 0x12 none)) ∧
      (t.guardDepth ≠ 0#4 → s.units = [] → exec .guardEnd s = .next (s.putTeam r ({ t with guardDepth := t.guardDepth - 1#4 }.advance 4))) ∧
      (t.nopreDepth ≠ 15#4 → ∃ t' : Team, exec .nopreBegin s = .next (s.putTeam r (t'.advance 4)) ∧ t'.nopreDepth = t.nopreDepth + 1#4 ∧
        { t' with nopreDepth := t.nopreDepth, nopreUsed := t.nopreUsed, nopreSpent := t.nopreSpent } = t ∧
        (t.nopreDepth = 0#4 → t'.nopreUsed = 0 ∧ t'.nopreSpent = false)) ∧
      (t.nopreDepth = 15#4 → exec .nopreBegin s = .next (s.scalarFault r 0x12 none)) ∧
      (t.nopreDepth = 0#4 → exec .nopreEnd s = .next (s.scalarFault r 0x12 none)) ∧
      (t.nopreDepth ≠ 0#4 → s.units = [] → ∃ t' : Team, exec .nopreEnd s = .next (s.putTeam r (t'.advance 4)) ∧ t'.nopreDepth = t.nopreDepth - 1#4 ∧
        { t' with nopreDepth := t.nopreDepth, nopreUsed := t.nopreUsed, nopreSpent := t.nopreSpent } = t)) ∧
  (
    ∀ (s : State) (r : TeamRef) (c : Crew) (t : Team), s.acts r c t → ∀ (d a : SReg),
      (∃ v, exec (.capq d) s = .next (s.putTeam r (t.result d v 4)) ∧ v.extractLsb' 0 32 = s.capGen ∧ v.extractLsb' 32 16 = BitVec.ofNat 16 s.devCores ∧
        v.extractLsb' 48 8 = BitVec.ofNat 8 s.devGangs ∧ v.extractLsb' 56 8 = BitVec.ofNat 8 s.regions) ∧
      (∃ v : Word, exec (.locq d 63#6) s = .next (s.putTeam r (t.result d v 4)) ∧
        (c.core < 192 → (v.extractLsb' 0 4).toNat = c.core / 12 ∧ (v.extractLsb' 10 2).toNat = c.core / 48)) ∧
      (a ≠ 63#6 → 2 ^ 56 ≤ (t.sreg a).toNat ∨ s.rangeOf (t.sreg a).toNat = none → exec (.locq d a) s = .next (s.putTeam r (t.result d 0x8000#64 4))) ∧
      (∀ g, a ≠ 63#6 → (t.sreg a).toNat < 2 ^ 56 → s.inTether (t.sreg a).toNat = false → s.rangeOf (t.sreg a).toNat = some g →
        let e := s.pte g (t.sreg a).toNat
        (pteV e = false → exec (.locq d a) s = .next (s.putTeam r (t.result d 0x8000#64 4))) ∧
        (pteV e = true → pteScm e = false → pteFrame e < 2 ^ 40 → ∃ v : Word, exec (.locq d a) s = .next (s.putTeam r (t.result d v 4)) ∧
          (v.extractLsb' 0 4).toNat = pteFrame e / 2 ^ 36 % 16 ∧ (v.extractLsb' 10 2).toNat = pteHome e ∧
          (c.core < 192 → (v.extractLsb' 8 2).toNat = dieHops (c.core / 48) (pteHome e)))))

/-! ### Engine commands -/

/-- XWIN, XCOPY, XRED and BCLOSE (08 R176, R177; 12 R261, R262): the command's words, windows, tiles and bindings are captured, it takes the next
ticket of the open batch; BCLOSE returns the batch and opens the next one. A full engine queue is a hold.
BWAIT, MWAIT, PBAR and STEPMARK (08 R178 to R180; 06 R131): the waits end when every command of the named batches has signalled, when the
stamp differs from s[d], when the team's copies that write SCM have signalled; STEPMARK sets step.now.
Model choices it rests on: notes/assumptions/36.md and 59.md. -/
def Obligations.EngineInstructions : Prop :=
  (
    ∀ (s : State) (r : TeamRef) (c : Crew) (t : Team), s.acts r c t → ∀ (d a : SReg) (w : BitVec 4),
      (∃ (s' : State) (c' : Crew), exec (.xwin w a) s = .next s' ∧ s'.teamAt r = some (c', t.advance 4) ∧
        c'.windows = c.windows.set w.toNat (t.sregK a 3 ++ t.sregK a 2 ++ t.sregK a 1 ++ t.sregK a 0) ∧ { c' with windows := c.windows, tableErr := c.tableErr } = c.putTeam r.team (t.advance 4) ∧
        { s' with crews := s.crews } = s) ∧
      (128 ≤ (s.commands.filter (fun m => m.core == c.core)).length → exec (.xcopy d a) s = .next s ∧ exec (.xred d a) s = .next s) ∧
      ((s.commands.filter (fun m => m.core == c.core)).length < 128 → ∀ red : Bool,
        ∃ (s' : State) (m : Command) (u : Team), exec (if red then .xred d a else .xcopy d a) s = .next s' ∧ s'.commands = s.commands ++ [m] ∧ m.xred = red ∧
          m.crew = r.crew ∧ m.team = r.team ∧ m.core = c.core ∧ m.ticket = t.batchOpen ++ t.seqNext ∧ m.done = [] ∧ m.errs = [] ∧
          m.words = t.sregK a 3 ++ t.sregK a 2 ++ t.sregK a 1 ++ t.sregK a 0 ∧
          m.swin = c.windows.getD ((t.sregK a 0).extractLsb' 18 4).toNat windowReset ∧ m.dwin = c.windows.getD ((t.sregK a 0).extractLsb' 22 4).toNat windowReset ∧
          m.sdesc = cellGet c.globals ((t.sregK a 0).extractLsb' 0 8).toNat ∧ m.ddesc = cellGet c.globals ((t.sregK a 0).extractLsb' 9 8).toNat ∧
          (∀ tl, (t.sregK a 0).extractLsb' 8 1 = 0#1 → c.tile ((t.sregK a 0).extractLsb' 0 8) = some tl → m.suid = tl.uid) ∧
          (∀ tl, (t.sregK a 0).extractLsb' 17 1 = 0#1 → c.tile ((t.sregK a 0).extractLsb' 9 8) = some tl → m.duid = tl.uid) ∧
          (∀ tl, (t.sregK a 0).extractLsb' 37 2 = 2#2 → c.tile ((t.sregK a 0).extractLsb' 43 8) = some tl → m.guid = tl.uid) ∧
          s'.teamAt r = some (c.putTeam r.team u, u) ∧ u.seqNext = t.seqNext + 1#32 ∧
          { u with seqNext := t.seqNext, nextOrd := t.nextOrd } = t.result d ((t.batchOpen ++ t.seqNext).setWidth 64) 4 ∧ sameBytes s s') ∧
      exec (.bclose d) s = .next (s.putTeam r { t.result d (t.batchOpen.setWidth 64) 4 with batchOpen := t.batchOpen + 1#16 })) ∧
  (
    ∀ (s : State) (r : TeamRef) (c : Crew) (t : Team), s.acts r c t → ∀ (d a : SReg) (e : BitVec 5),
      let mine (m : Command) : Prop := m.crew = r.crew ∧ m.team = r.team
      let named (m : Command) : Prop := mine m ∧ ((t.sreg a).setWidth 16 - m.ticket.extractLsb' 32 16).toNat < 32768
      ((∀ m, m ∈ s.commands → ¬named m) → exec (.bwait d a e) s = .next (s.putTeam r { t.status d 0 4 with swait := none })) ∧
      ((∃ m, m ∈ s.commands ∧ named m) → exec (.bwait d a 0#5) s = .next (s.putTeam r { t.status d 1 4 with swait := none }) ∧
        (e ≠ 0#5 → exec (.bwait d a e) s = .next (s.beginWait r (.bwait d a e) e none))) ∧
      (∀ (s1 : State) (pa : Nat), s.reaches c.core (t.sreg a).toNat 8 false s1 pa → s1.olderOverlap r t .scalar t.nextOrd false (.glob (t.sreg a).toNat pa) 64 = false →
        let v : Word := BitVec.ofNat 64 (readLE s1.mem pa 8)
        (v ≠ t.sreg d → t.swait = none →
          exec (.mwait d a e) s = .next (s1.putTeam r { t.result d v 4 with swait := none })) ∧
        (v = t.sreg d → t.swait = none →
          exec (.mwait d a 0#5) s = .next (s1.putTeam r { t.result d (1#16 ++ (t.sreg d).setWidth 48) 4 with swait := none }) ∧
          (e ≠ 0#5 → exec (.mwait d a e) s = .next (s1.beginWait r (.mwait d a e) e none)))) ∧
      ((∀ m, m ∈ s.commands → mine m → m.writesScm = false) →
        exec .pbarPdomain s = .next (s.putTeam r (t.advance 4)) ∧
        (s.span.count.toNat < 10 → exec .pbarPspan s = .next (s.putTeam r (t.advance 4))) ∧
        (s.pspanOpen = [] → exec .pbarPspan s = .next (s.putTeam r (t.advance 4)))) ∧
      ((∃ m, m ∈ s.commands ∧ mine m ∧ m.writesScm = true) → exec .pbarPdomain s = .next s ∧ exec .pbarPspan s = .next s) ∧
      (s.comet.tooNew ((t.sreg a).setWidth 32) = false → exec (.stepmark a) s = .next (s.putTeam r ({ t with stepNow := (t.sreg a).setWidth 32 }.advance 4))))

/-- The end of an engine command (12 R264; 08 R177): with every element moved and no ordering flag, its stamp takes the first of its codes in the
order of R264 above the ticket, or its gate the bytes of its declared payload in units of 256, and it leaves the engine. RETIRED_TARGET is
among the codes where lines that it moved were lost while it was in flight (20 R393).
The elements of engine commands (12 R263, R266 to R270; 18 R358): where position p lies in both windows; what is read of a tile, of a bound
global page and of a compressed block, whose methods are those of R267; a copied element is written with its bits unchanged, one outside a
shape or without a translation is not, and the code is kept; an XRED updates its destination by one rounding or wrap of the old value and
the local value, whose absent terms are the identity, and a step-late element is rejected.
Model choices it rests on: notes/assumptions/36.md, 59.md and 75.md. -/
def Obligations.CommandSignals : Prop :=
  (
    ∀ (s : State) (m : Command), s.commands = [m] → m.isSpan = false → m.rel = false → m.persist = false → m.rootFail = false →
      (∀ p, p < s.cmdPositions m → p ∈ m.done) → s.cmdPositions m ≤ m.done.length →
      let codes := addCodes m.errs ((s.cmdBad m).toList ++ if s.touchesLost m then [stRetired] else [])
      (∀ (s1 : State) (pa : Nat) (e : Word), m.sig = 1 → m.signal.toNat % 8 = 0 → m.signal.toNat < 2 ^ 56 →
        s.translate none (coreDie m.core) m.signal.toNat true = (s1, .ok pa e) → pteScm e = false → pteTracked e = false → pa + 8 ≤ 2 ^ 40 → s1.isDead pa 8 = false →
        (∀ k, s.crewAt k = none ∨ ∃ c, s.crewAt k = some c ∧ c.state = .live ∧ ∃ t, t ∈ c.teams ∧ t.exited = false ∧ t.finished = false) →
        ∃ s', exec (.commandSignal m.id) s = .next s' ∧ s'.commands = [] ∧ sameBytesBut s1 s' pa 8 ∧
          readLE s'.mem pa 8 = cmdStatus codes * 2 ^ 48 + m.ticket.toNat ∧
          (m.errs = [] → s.cmdBad m = none → s.touchesLost m = false → readLE s'.mem pa 8 = m.ticket.toNat)) ∧
      (∀ (c : Crew) (h : Handle) (tl : Tile), m.sig = 2 → s.signalOk m = true → s.crewAt m.crew = some c → c.state = .live →
        (∃ t, t ∈ c.teams ∧ t.exited = false ∧ t.finished = false) → c.tile h = some tl → c.tileUid tl.uid = some tl → tl.uid = m.guid → tl.tracked = false →
        s.mmaHeld m.crew tl.uid (coordOf m.signal) = false →
        ∃ s', exec (.commandSignal m.id) s = .next s' ∧ s'.commands = [] ∧ sameBytes s s' ∧ s'.tileAt m.crew tl.uid =
          some (tl.write (coordOf m.signal) none (gateUpdate (BitVec.ofNat 64 (tl.read (coordOf m.signal) none)) 0 0 (ceilDiv (s.cmdPayload m) 256)).toNat))) ∧
  (
    (∀ (m : Command) (p i : Nat), i < 6 →
      let k := p / ((winE m.dwin).take i).foldl (· * ·) 1 % (winE m.dwin).getD i 1
      (m.dstAt p).getD i 0 = (winO m.dwin).getD i 0 + k ∧
      ∀ x, (m.srcAt p x).getD i 0 = (winO m.swin).getD i 0 + if m.xred = true ∧ i = m.axis then x else k) ∧
    (∀ p : List Byte,
      (decompress 0 p = if p.length = 4096 then some p else none) ∧ (decompress 1 p = if p = [] then some (List.replicate 4096 0#8) else none) ∧
      (∀ k, 4 ≤ k → decompress k p = none) ∧ (p.length < 2048 ∨ p.length % 2 = 1 → decompress 3 p = none) ∧
      (let bit (i : Nat) : Bool := (p.getD (i / 8) 0#8).getLsbD (i % 8)
       let rank (i : Nat) : Nat := ((List.range i).filter bit).length
       (p.length ≠ 128 + 4 * rank 1024 → decompress 2 p = none) ∧
       (p.length = 128 + 4 * rank 1024 → ∃ b, decompress 2 p = some b ∧ b.length = 4096 ∧
         ∀ i j, i < 1024 → j < 4 → b.getD (4 * i + j) 0#8 = if bit i then p.getD (128 + 4 * rank i + j) 0#8 else 0#8)) ∧
      (∀ (runs : List (Nat × Byte)) (low : List Byte), low.length = 2048 → (∀ r, r ∈ runs → r.1 < 256) → p = runs.flatMap (fun r => [BitVec.ofNat 8 r.1, r.2]) ++ low →
        ((∃ r, r ∈ runs ∧ r.1 = 0) ∨ (runs.map (·.1)).sum ≠ 2048 → decompress 3 p = none) ∧
        ((∀ r, r ∈ runs → r.1 ≠ 0) → (runs.map (·.1)).sum = 2048 → ∃ b, decompress 3 p = some b ∧ b.length = 4096 ∧
          ∀ j, j < 2048 → b.getD (2 * j) 0#8 = low.getD j 0#8 ∧ b.getD (2 * j + 1) 0#8 = (runs.flatMap (fun r => List.replicate r.1 r.2)).getD j 0#8))) ∧
    (∀ (s : State) (m : Command) (x : List Nat),
      (∀ a : CEnd, a.shape.inside x = false → s.cmdRead m a x = (s, .error (.code stBounds))) ∧
      (∀ tl : Tile, tl.fmt ≠ 14#4 → tl.shape.inside x = true →
        (∀ c t, s.teamAt m.ref = some (c, t) → s.olderOverlap m.ref t .scalar m.ord false (.tile m.crew tl.uid (coord4 x) none) 64 = false) →
        s.cmdRead m (.tile tl) x = (s, .ok (tl.read (coord4 x) none, if tl.poisoned (coord4 x) none then some stPoison else none))) ∧
      (∀ d : BitVec 512, (descShape d).inside x = true → descFmt d ≠ 14#4 →
        let b := (descShape d).bitOf x
        let w := elemWidth (descFmt d)
        let n := ceilDiv w 8
        (m.decomp = false →
          (∀ (pa : Nat) (e : Word), s.pageBound (descBase d + b / 8) n pa e false → s.dead = [] →
            ∃ s1, s.cmdRead m (.tensor d) x = (s1, .ok (readLE s.mem pa n / 2 ^ (b % 8) % 2 ^ w, if s.isPoisoned pa n then some stPoison else none)) ∧
              { s1 with perf := s.perf, free := s.free } = s) ∧
          (s.rangeOf (descBase d + b / 8) = none → (s.cmdRead m (.tensor d) x).2 = .error (.code stTranslation))) ∧
        (m.decomp = true → ∀ s1 : State,
          (∀ bs, s.cmdBlock m d (b / 8 / 4096) = (s1, .ok (bs, none)) →
            s.cmdRead m (.tensor d) x = (s1, .ok (leNat ((bs.drop (b / 8 % 4096)).take n) / 2 ^ (b % 8) % 2 ^ w, none))) ∧
          (s.cmdBlock m d (b / 8 / 4096) = (s1, .error (.code stDecomp)) → s.cmdRead m (.tensor d) x = (s1, .error (.code stDecomp))))) ∧
      (∀ (d : BitVec 512) (j pa : Nat) (e : Word), (descBase d + 4104 * j) % 8 = 0 → s.pageBound (descBase d + 4104 * j) 4104 pa e false → s.dead = [] → s.isPoisoned pa 4104 = false →
        let h := readLE s.mem pa 8
        let l := h / 2 ^ 16 % 2 ^ 13
        (h % 2 ^ 16 ≥ 4 ∨ h / 2 ^ 29 ≠ 0 ∨ 4096 < l → (s.cmdBlock m d j).2 = .error (.code stDecomp)) ∧
        (h % 2 ^ 16 < 4 → h / 2 ^ 29 = 0 → l ≤ 4096 →
          (s.cmdBlock m d j).2 = match decompress (h % 16) (leBytes l (readLE s.mem (pa + 8) l)) with
            | none => .error (.code stDecomp)
            | some bs => .ok (bs, none)))) ∧
    (∀ (s s1 : State) (m : Command) (p : Nat) (a b : CEnd), s.commands = [m] → m.acq = false → m.isSpan = false → m.rootFail = false →
      s.cmdSrc m = some a → s.cmdDst m = some b → p < s.cmdPositions m → p ∉ m.done → m.waiting = none → m.blocks = [] → s1.commands = [m] →
      let ended (s' : State) (es : List Nat) : Prop := s'.commands = [{ m with done := m.done ++ [p], errs := addCodes m.errs es }]
      let x := m.dstAt p
      (m.xred = false → ∀ v, s.cmdRead m a (m.srcAt p 0) = (s1, .ok (v, none)) →
        (∀ tl, b = .tile tl → tl.tags = false → tl.fmt ≠ 14#4 → tl.tracked = false → tl.shape.inside x = true → s1.tileAt m.crew tl.uid = some tl → s1.mmaHeld m.crew tl.uid (coord4 x) = false →
          (s.cmdMove m.id p).tileAt m.crew tl.uid = some (tl.write (coord4 x) none v) ∧ ended (s.cmdMove m.id p) [] ∧ sameBytes s1 (s.cmdMove m.id p)) ∧
        (∀ (d : BitVec 512) (pb : Nat) (e : Word), b = .tensor d → descFmt d ≠ 14#4 → descScm d = false → (descShape d).inside x = true → s1.dead = [] →
          let n := ceilDiv (elemWidth (descFmt d)) 8
          s1.pageBound (descElem d x none).1 n pb e true → pteTracked e = false →
          readLE (s.cmdMove m.id p).mem pb n = updateBits (readLE s1.mem pb n) (descElem d x none).2 (elemWidth (descFmt d)) (fun _ => v) % 256 ^ n ∧
          ended (s.cmdMove m.id p) [] ∧ sameBytesBut s1 (s.cmdMove m.id p) pb n) ∧
        (b.shape.inside x = false → s.cmdGroup m b p = [p] → ended (s.cmdMove m.id p) [stBounds] ∧ sameBytes s1 (s.cmdMove m.id p) ∧ (s.cmdMove m.id p).crews = s1.crews)) ∧
      (m.xred = false → ∀ tl k, b = .tile tl → tl.shape.inside x = true → s.cmdGroup m b p = [p] → tl.fmt ≠ 14#4 → s.cmdRead m a (m.srcAt p 0) = (s1, .error (.code k)) →
        ended (s.cmdMove m.id p) [k] ∧ sameBytes s1 (s.cmdMove m.id p) ∧ (s.cmdMove m.id p).crews = s1.crews) ∧
      (m.xred = true → s.matrix = [] → ∀ l es, s.cmdTerms m a b p ((winE m.swin).getD m.axis 1) = (s1, .ok (l, es, none)) →
        let node := xredLocal a.fmt b.fmt m.op l
        (∀ tl, b = .tile tl → tl.fmt ≠ 14#4 → tl.tracked = false → tl.shape.inside x = true → s1.tileAt m.crew tl.uid = some tl → s1.mmaHeld m.crew tl.uid (coord4 x) = false →
          (tagOlder m.step tl.bstep = true → ended (s.cmdMove m.id p) (es ++ [stStepLate]) ∧ (s.cmdMove m.id p).crews = s1.crews) ∧
          (tagOlder m.step tl.bstep = false → tl.poisoned (coord4 x) none = false →
            (s.cmdMove m.id p).tileAt m.crew tl.uid = some (tl.write (coord4 x) none (xredApply a.fmt b.fmt m.op node (tl.read (coord4 x) none))) ∧
            ended (s.cmdMove m.id p) es ∧ sameBytes s1 (s.cmdMove m.id p))) ∧
        (∀ (d : BitVec 512) (pb : Nat) (e : Word), b = .tensor d → descFmt d ≠ 14#4 → descScm d = false → (descShape d).inside x = true → s1.dead = [] →
          let n := ceilDiv (elemWidth (descFmt d)) 8
          s1.pageBound (descElem d x none).1 n pb e true → pteTracked e = false →
          (tagOlder m.step (cellGet s1.lineStep (pb / 64)) = true → ended (s.cmdMove m.id p) (es ++ [stStepLate]) ∧ sameBytes s1 (s.cmdMove m.id p)) ∧
          (tagOlder m.step (cellGet s1.lineStep (pb / 64)) = false → s1.isPoisoned pb n = false →
            readLE (s.cmdMove m.id p).mem pb n = updateBits (readLE s1.mem pb n) (descElem d x none).2 (elemWidth (descFmt d)) (xredApply a.fmt b.fmt m.op node) % 256 ^ n ∧
            ended (s.cmdMove m.id p) es ∧ sameBytesBut s1 (s.cmdMove m.id p) pb n)))) ∧
    (∀ (s : State) (m : Command) (tl : Tile) (b : CEnd) (p n : Nat), tl.fmt ≠ 14#4 →
      (∀ k, k < n → tl.poisoned (coord4 (m.srcAt p k)) none = false) →
      (∀ c t k, s.teamAt m.ref = some (c, t) → k < n → s.olderOverlap m.ref t .scalar m.ord false (.tile m.crew tl.uid (coord4 (m.srcAt p k)) none) 64 = false) →
      s.cmdTerms m (.tile tl) b p n = (s, .ok ((List.range n).map (fun k =>
        if tl.shape.inside (m.srcAt p k) then xredTerm tl.fmt b.fmt (tl.read (coord4 (m.srcAt p k)) none) else xredIdent tl.fmt b.fmt m.op),
        if (List.range n).all (fun k => tl.shape.inside (m.srcAt p k)) then [] else [stBounds], none))) ∧
    (∀ (src dst : BitVec 4) (old : Nat) (xs : List Nat),
      let w := elemWidth dst
      let f := fmtOf dst
      let ts := xs.map (xredTerm src dst)
      let int (x : Nat) : Int := elemInt (isSignedTy dst) w x
      (isIntTy src = true → w ≤ 64 → 8 ≤ w → old < 2 ^ w →
        xredApply src dst 0 (xredLocal src dst 0 ts) old = wrapBits w (old + (xs.map (elemInt (isSignedTy src) (elemWidth src))).sum) ∧
        (xs ≠ [] → int (xredApply src dst 1 (xredLocal src dst 1 ts) old) = ts.foldl (fun a x => min a (int x)) (int old) ∧
          int (xredApply src dst 2 (xredLocal src dst 2 ts) old) = ts.foldl (fun a x => max a (int x)) (int old))) ∧
      (isFloatTy src = true → xredLocal src dst 0 ts = treeSum f32 ts ∧
        ∀ v op, let a := decodeF f old
          let b := decodeF f32 v
          xredApply src dst op v old = if op = 0 then encodeF f .rne false (addV false a b) else if isNanV a || isNanV b then f.nanBits
            else encodeF f .rne false (if beforeV a b == (op == 1) then a else b))))

/-! ### Work lists -/

/-- WLINIT (08 R181; 12 R273): the control block and an empty table are written; a set is quiescent, and WLTAKE and TDWAIT answer, when nothing is
in flight and as many items were taken as appended; malformed groups give BOUNDS.
A WLTAKE that finds an item (02 R47; 08 R181; 12 R273): the item at the list's head goes to the destination element, head, taken and in flight rise by
one, and the team holds one unit of the set.
Model choices it rests on: notes/assumptions/39.md, 40.md and 72.md. -/
def Obligations.WorkListInstructions : Prop :=
  (
    (∀ (b : WlBlock) (n : Nat), (b.retire n).inflight = b.inflight - n ∧
      ((b.retire n).quiescent = true ↔ (b.inflight ≤ n ∧ b.appended = b.taken) ∨ b.quiescent = true)) ∧
    (∀ (s : State) (r : TeamRef) (c : Crew) (t : Team), s.acts r c t → ∀ (d a : SReg) (e : BitVec 5),
      let set := (t.sregK a 0).toNat
      let lists := ((t.sregK a 1).extractLsb' 32 13).toNat
      (set % 64 ≠ 0 ∨ lists = 0 ∨ 4096 < lists → exec (.wlinit d a) s = .next (s.putTeam r (t.status d 7 4))) ∧
      (∀ (s1 : State) (pa : Nat) (e1 : Word) (rest : List (Nat × Nat × Nat × Word)),
        let seed := ((t.sregK a 1).setWidth 32).toNat
        let items := (t.sregK a 2).toNat
        let cap := (t.sregK a 3).toNat
        let n := 64 + 16 * lists
        set % 64 = 0 → set < 2 ^ 56 → 1 ≤ lists → lists ≤ 4096 → 0 < seed → (t.sregK a 1).toNat < 2 ^ 45 → items % 8 = 0 → items < 2 ^ 56 → 0 < cap → cap < 2 ^ 32 →
        s.wlUsable (n / 2 ^ 16 + 2) set (set + n) = true → s.wlUsable (lists * cap * 8 / 2 ^ 16 + 2) items (items + lists * cap * 8) = true →
        s.wlLines c.core (n / 64 + 1) set n = (s1, some ((set, pa, 64, e1) :: rest)) → pa + 64 ≤ 2 ^ 40 → pteTracked e1 = false → s1.dead = [] → t.pending = [] →
        (∀ p, p ∈ rest → pteTracked p.2.2.2 = false ∧ p.2.1 + p.2.2.1 ≤ 2 ^ 40 ∧ (p.2.1 + p.2.2.1 ≤ pa ∨ pa + 64 ≤ p.2.1)) →
        ∃ (s' : State) (c' : Crew) (t' : Team), exec (.wlinit d a) s = .next s' ∧ s'.teamAt r = some (c', t') ∧ { t' with wl := t.wl } = t.status d 0 4 ∧
          (∀ w, w ∈ t'.wl ↔ w ∈ t.wl ∧ w.set ≠ set) ∧
          (∀ x, (x < pa ∨ pa + 64 ≤ x) → (∀ p, p ∈ rest → x < p.2.1 ∨ p.2.1 + p.2.2.1 ≤ x) → s'.byteAt x = s1.byteAt x) ∧
          (∀ p, p ∈ rest → readLE s'.mem p.2.1 p.2.2.1 = 0) ∧
          readLE s'.mem pa 8 = 0 ∧ readLE s'.mem (pa + 8) 8 = 0 ∧ readLE s'.mem (pa + 16) 8 = seed ∧ readLE s'.mem (pa + 24) 4 = seed ∧
          readLE s'.mem (pa + 28) 4 = lists ∧ readLE s'.mem (pa + 32) 8 = items ∧ readLE s'.mem (pa + 40) 4 = cap ∧ readLE s'.mem (pa + 44) 4 = 0 ∧
          readLE s'.mem (pa + 48) 16 = 0) ∧
      (∀ (b : WlBlock) (s2 : State), t.swait = none → s.wlNamed c.core (t.sreg a).toNat = (s, .ok b) → s.wlBlock c.core (t.sreg a).toNat = some b → s.appendsDone r c t = true →
        t.setBusy (t.sreg a).toNat b = false → s.changeDue r (t.sreg a).toNat = false → t.wlOwed (t.sreg a).toNat = 0 → b.inflight = 0 → b.appended = b.taken →
        s.putWlBlock c.core (t.sreg a).toNat { b with state := 1 } t.stepNow = some s2 →
        exec (.tdwait d a e) s = .next (s2.modTeam r (fun u => { u.status d 0 4 with swait := none })) ∧
        ((t.sregK a 0).toNat < 2 ^ 56 → (t.sregK a 1).toNat % 4096 < b.lists → ((t.take a).tile c).isSome = true → s.takeAfter r c t (t.take a) b = false → (s.wlEntry c.core set ((t.sregK a 1).toNat % 4096)).isSome = true →
          exec (.wltake d a e) s = .next (s2.modTeam r (fun u => { u.result d 0#64 4 with swait := none })))) ∧
      (∀ b : WlBlock, t.swait = none → s.wlNamed c.core (t.sreg a).toNat = (s, .ok b) → s.wlBlock c.core (t.sreg a).toNat = some b → s.appendsDone r c t = true →
        t.setBusy (t.sreg a).toNat b = false → s.changeDue r (t.sreg a).toNat = false → t.wlOwed (t.sreg a).toNat = 0 → 0 < b.inflight → b.state = 0 →
        exec (.tdwait d a 0#5) s = .next (s.putTeam r { t.status d 1 4 with swait := none }) ∧
        (e ≠ 0#5 → exec (.tdwait d a e) s = .next (s.beginWait r (.tdwait d a e) e none))) ∧
      (∀ (b : WlBlock) (head : Nat), let k := t.take a
        t.swait = none → s.wlNamed c.core k.set = (s, .ok b) → s.wlBlock c.core k.set = some b → s.appendsDone r c t = true → s.takeAfter r c t k b = false → s.changeDue r k.set = false →
        t.wlOwed k.set = 0 → 0 < b.inflight → b.state = 0 → k.list < b.lists → (k.tile c).isSome = true → s.wlEntry c.core k.set k.list = some (head, head) →
        exec (.wltake d a 0#5) s = .next (s.putTeam r { t.result d 0x1000000000000#64 4 with swait := none }) ∧
        (e ≠ 0#5 → exec (.wltake d a e) s = .next (s.beginWait r (.wltake d a e) e none))))) ∧
  (
    ∀ (s s1 s2 s3 : State) (r : TeamRef) (c : Crew) (t : Team) (d a : SReg) (e : BitVec 5) (b : WlBlock) (tl : Tile) (head : Nat) (v : Nat), s.acts r c t → t.swait = none →
      let k := t.take a
      s.wlNamed c.core k.set = (s, .ok b) → s.wlBlock c.core k.set = some b → s.appendsDone r c t = true → s.changeDue r k.set = false → t.wlOwed k.set = 0 → s.takeAfter r c t k b = false →
      0 < b.inflight → b.state = 0 → k.list < b.lists → k.tile c = some tl → s.wlEntry c.core k.set k.list = some (head, head + 1) →
      s.takeBefore s.nextWait k = false → s.wlHoles = [] → s.wlItems = [] → s.wlRead c.core (b.itemAt k.list head) 8 = some v → s.poison = [] → 
      s.tileWrite r.crew tl.uid k.at_ none v t.stepNow false = .ok s1 → s1.putWlEntry c.core k.set k.list (head + 1) (head + 1) t.stepNow = some s2 →
      s2.putWlBlock c.core k.set { b with taken := b.taken + 1, inflight := b.inflight + 1 } t.stepNow = some s3 →
      ∃ (s' : State) (t' : Team), exec (.wltake d a e) s = .next s' ∧ { s' with crews := s3.crews, wlHoles := s3.wlHoles } = s3 ∧ (s'.teamAt r).map (·.2) = some t' ∧
        t'.pc = t.pc + 4#64 ∧ (∀ x, t'.sreg x = (t.setSreg d 1#64).sreg x) ∧ (t'.wl.find? (fun w => w.set == k.set)) = some ⟨k.set, 1, false⟩)

/-- Appends at the set's master (10 R237; 12 R274): a run is granted positions at the list's tail in lane order; an item's address is then translated, and one whose
translation fails keeps its position until its lane is placed again; the item is written at its position and counted, its lane gets OK and the counter falls; a retirement lowers what is in flight, never below zero.
WLAPP (10 R221, R237; 02 R47): an executing lane's item goes to the compaction unit, the team has joined the set, its write request is counted, and the lane
stream goes on; a control block that fails the checks of R181, or a list that the set does not have, gives the lane BOUNDS.
Model choices it rests on: notes/assumptions/40.md. -/
def Obligations.WorkListAppend : Prop :=
  (
    (∀ (s s1 : State) (it : WlItem) (x head tail : Nat), s.wlItems = [it] → it.pos = none → s.appendFree it = true → s.wlRead (s.itemCore it) it.set 64 = some x →
      let b := wlBlockOf x
      b.ok = true → b.state = 0 → b.inflight ≠ 0 → it.list < b.lists → s.wlEntry (s.itemCore it) it.set it.list = some (head, tail) → tail - head < b.cap →
      s.putWlEntry (s.itemCore it) it.set it.list head (tail + 1) (s.itemStep it) = some s1 → s1.wlItems = s.wlItems →
      exec (.wlRunRequest 0) s = .next { s1 with wlItems := [{ it with pos := some tail }] }) ∧
    (∀ (s s1 : State) (it : WlItem) (x pos : Nat), s.wlItems = [it] → it.pos = some pos → it.at_ = none → s.wlRead (s.itemCore it) it.set 64 = some x → s1.wlItems = s.wlItems →
      let va := (wlBlockOf x).itemAt it.list pos
      (∀ (pa : Nat) (e : Word), s.translate none (coreDie (s.itemCore it)) va true = (s1, .ok pa e) → pteScm e = false →
        exec (.wlappItemWrite 0) s = .next { s1 with wlItems := [{ it with at_ := some (pa, e) }] }) ∧
      (∀ (c : Crew) (t : Team), s.translate none (coreDie (s.itemCore it)) va true = (s1, .fail) → s1.teamAt it.team = some (c, t) → t.restart = none → t.faulted = false → t.slots = [] → t.again = [] →
        let q : WlSlot := ⟨it.lane, it.set, it.list, pos, it.dest, it.item, it.clause, it.ord, it.idx⟩
        ∃ (s' : State) (t' : Team), exec (.wlappItemWrite 0) s = .next s' ∧ s'.wlItems = [] ∧ s'.wlHoles = s1.wlHoles ++ [⟨it.set, it.list, pos, false, it.team⟩] ∧ sameBytes s1 s' ∧
          (s'.teamAt it.team).map (·.2) = some t' ∧ t'.faulted = true ∧ t'.trapCause = 8#28 ∧ t'.trapLane = true ∧ t'.lfm = BitVec.ofNat 1024 (2 ^ it.lane) ∧ t'.trapLidx = BitVec.ofNat 4 it.idx ∧
          t'.slots = [q] ∧ t'.lctr = t.lctr - 1#16 ∧ t'.vregs = t.vregs ∧ t'.lidx = t.lidx)) ∧
    (∀ (s : State) (r : TeamRef) (c : Crew) (t : Team) (q : WlSlot), s.teamAt r = some (c, t) → t.slots = [q] → t.again = [] →
      ∃ it : WlItem, (s.rearmTeam r).wlItems = s.wlItems ++ [it] ∧ it.team = r ∧ it.lane = q.lane ∧ it.set = q.set ∧ it.list = q.list ∧ it.pos = some q.pos ∧ it.item = q.item ∧ it.dest = q.dest ∧
        it.idx = q.idx ∧ ((s.rearmTeam r).teamAt r).map (·.2) = some { t with slots := [], lctr := t.lctr + 1#16 }) ∧
    (∀ (s s2 s3 : State) (it : WlItem) (x pos pa : Nat) (e : Word) (c : Crew) (t : Team), s.wlItems = [it] → it.pos = some pos → it.at_ = some (pa, e) →
      s.wlRead (s.itemCore it) it.set 64 = some x →
      (s.appendFree it = false → exec (.wlappItemWrite 0) s = .next s) ∧
      (s.appendFree it = true → (∀ d u, s.teamAt it.team = some (d, u) → s.olderOverlap it.team u .lane it.ord true (.glob ((wlBlockOf x).itemAt it.list pos) pa) 64 = false) →
        s.pageWrite ((wlBlockOf x).itemAt it.list pos) pa e (s.itemStep it) 8 it.item.toNat = .ok s2 →
        s2.putWlBlock (s.itemCore it) it.set { wlBlockOf x with appended := (wlBlockOf x).appended + 1 } (s.itemStep it) = some s3 →
        s3.wlItems = s.wlItems → s3.teamAt it.team = some (c, t) →
        ∃ (s' : State) (t' : Team), exec (.wlappItemWrite 0) s = .next s' ∧ s'.wlItems = [] ∧ sameBytes s3 s' ∧ (s'.teamAt it.team).map (·.2) = some t' ∧
          t'.vreg it.dest.toNat it.lane = 0#64 ∧ t'.lctr = t.lctr - 1#16 ∧ t'.lwaits = t.lwaits ∧ t'.lidx = t.lidx)) ∧
    (∀ (s s1 : State) (w : WlChange) (rest : List WlChange) (b : WlBlock), s.wlChanges = w :: rest → s.wlBlock (4 * w.gang) w.set = some b →
      s.putWlBlock (4 * w.gang) w.set (b.retire w.retire) (match s.teamAt w.team with | none => 0#32 | some (_, t) => t.stepNow) = some s1 → s1.wlChanges = s.wlChanges →
      exec (.wlCountChange 0) s = .next { s1 with wlChanges := rest })) ∧
  (
    ∀ (s s1 : State) (r : TeamRef) (c : Crew) (t : Team) (cl : Clause) (h : LaneHead) (m : ModM) (l pa : Nat) (e : Word), s.oneLane r c t cl h l → t.lctr.toNat < 65535 → s.wlItems = [] →
      let u := t.afterPops [memS0 h m, memS1 h, memS2 h]
      let set := (u.src u.popped (memS0 h m) l).toNat
      let list := (u.src u.popped (memS2 h) l).toNat % 2 ^ 32
      t.laneReady cl [memS0 h m, memS1 h, memS2 h] [h.dst.toNat] →
      (s.putTeam r { u with nextOrd := u.nextOrd + 1 }).globCheck c.core set 64 true true = (s1, .ok (pa, e), none) →
      let b := wlBlockOf (s1.physRead pa 64)
      let bounds (joins : Bool) : Prop := ∃ (s' : State) (t' : Team), exec (.wlapp h m) s = .next s' ∧ s'.wlItems = [] ∧ (s'.teamAt r).map (·.2) = some t' ∧ t'.vreg h.dst.toNat l = 7#64 ∧
        t'.lidx = t.lidx + 1 ∧ (joins = false → t'.wl = t.wl) ∧ (joins = true → ∃ q, q ∈ t'.wl ∧ q.set = set) ∧ t'.lctr = t.lctr ∧ sameBytes s1 s'
      (b.ok = true → list < b.lists → ∃ (s' : State) (t' : Team) (it : WlItem), exec (.wlapp h m) s = .next s' ∧ s'.wlItems = [it] ∧ it.team = r ∧ it.lane = l ∧ it.set = set ∧ it.list = list ∧
        it.item = u.src u.popped (memS1 h) l ∧ it.pos = none ∧ it.dest = h.dst ∧ it.clause = cl.uid ∧ it.idx = t.lidx ∧ (s'.teamAt r).map (·.2) = some t' ∧ t'.lctr = t.lctr + 1#16 ∧ t'.vregs = t.vregs ∧
        t'.lwaits = [] ∧ t'.lidx = t.lidx + 1 ∧ (∃ q, q ∈ t'.wl ∧ q.set = set) ∧ sameBytes s1 s') ∧
      (b.ok = true → b.lists ≤ list → bounds true) ∧ (b.ok = false → bounds false))

/-- LAUNCH and the device's own steps of a launch (08 R184; 13 R281, R282): an accepted record becomes a waiting launch with the next launch.id and OK; an untranslated
record gives TRANSLATION, a misaligned one BOUNDS where nothing before it is refused, and a refusal writes its stamp; with no gate, or every gate satisfied with OK, it becomes eligible.
Model choices it rests on: notes/assumptions/42.md, 43.md, 65.md and 78.md. -/
def Obligations.LaunchesAndGates : Prop :=
  (∀ (s : State) (r : TeamRef) (c : Crew) (t : Team), s.acts r c t → ∀ (d a : SReg), t.queue = [] → t.pending = [] → t.sctr = 0#16 → t.lctr = 0#16 →
    (∀ s1, s.readRecord c.core (t.sreg a).toNat = (s1, none) → exec (.launch d a) s = .next (s1.modTeam r (fun u => u.status d 8 4))) ∧
    (∀ (s1 s2 : State) (rec : BitVec 1024) (ext : List (BitVec 96)) (code : Nat), s.readRecord c.core (t.sreg a).toNat = (s1, some rec) →
      s1.checkRecord rec t.priv ((t.sreg a).toNat % 128 == 0) = (s2, ext, code) → code ≠ 0 →
      exec (.launch d a) s = .next ((s2.refuseStamp (coreDie c.core) rec code).modTeam r (fun u => u.status d code 4))) ∧
    (∀ (s1 : State) (rec : BitVec 1024) (p : Bool), (s1.checkRecord rec p false).2.2 = 7 ∨ (s1.checkRecord rec p false).2.2 = 8) ∧
    (∀ (s1 s2 : State) (rec : BitVec 1024) (ext : List (BitVec 96)), (t.sreg a).toNat % 128 = 0 → s.readRecord c.core (t.sreg a).toNat = (s1, some rec) →
      s1.checkRecord rec t.priv true = (s2, ext, 0) → s2.openLaunches < 4096 → s2.teamAt r = some (c, t) →
      ∃ (s' : State) (l : Launch), exec (.launch d a) s = .next s' ∧ s'.launches = s2.launches ++ [l] ∧ l.id = s2.nextId ∧ l.record = rec ∧ l.state = .waiting ∧
        l.ranges = [(0, recCrews rec)] ∧ s'.nextId = s2.nextId + 1#32 ∧ (s'.teamAt r).map (·.2) = some (t.status d 0 4) ∧ sameBytes s2 s')) ∧
  (∀ (s s1 s2 : State) (q : Nat) (g : Ring) (rec : BitVec 1024) (ext : List (BitVec 96)), s.active = true → s.platform.stage = 0xFF#8 → s.queueTurn = some q → s.lqs[q]? = some g →
    s.headRecord g = (s1, rec) → s1.checkRecord rec g.priv true = (s2, ext, 0) → s2.lqs = s.lqs →
    ∃ s', exec (.launchAccept q) s = .next s' ∧ s'.lqs[q]? = some { g with cons := g.cons + 1#16 } ∧ (∀ p, p ≠ q → s'.lqs[p]? = s.lqs[p]?) ∧
      (∃ l : Launch, s'.launches = s2.launches ++ [l] ∧ l.id = s2.nextId ∧ l.record = rec ∧ l.state = .waiting) ∧ s'.turn = (q + 1) % 64) ∧
  (∀ (s : State) (k : Nat) (l : Launch), s.active = true → s.launches[k]? = some l → l.state = .waiting →
    (recGates l.record = [] → exec (.dependenceGatesResolved k) s = .next (s.putLaunch { l with state := .eligible })) ∧
    (∀ (s1 : State) (ws : List Nat), s.gateWords (recGates l.record) = (s1, some ws) → (∀ w, w ∈ ws → w / 2 ^ 48 % 2 ^ 16 = 0) →
      exec (.dependenceGatesResolved k) s = .next (s1.putLaunch { l with state := .eligible })) ∧
    (∀ s1, s.gateWords (recGates l.record) = (s1, none) → exec (.dependenceGatesResolved k) s = .next s1))

/-! ### Lane computation -/

/-- The reduction of an exact integer result to w bits (04 R76): wrapping keeps the low w bits, saturation clamps to the type's range.
Lane integer arithmetic (09 R194, R196): every result is the exact one over elements read as the type says, reduced once, with saturation where
the modifier asks for it. -/
def Obligations.LaneIntegerArithmetic : Prop :=
  (
    ∀ (w : Nat) (sg : Bool) (i : Int), w ∈ [8, 16, 32, 64] →
      reduceInt sg false w i < 2 ^ w ∧ ((reduceInt sg false w i : Int) - i) % 2 ^ w = 0 ∧
      (∀ lo hi : Int, lo = (if sg then -(2 ^ (w - 1)) else 0) → hi = (if sg then 2 ^ (w - 1) - 1 else 2 ^ w - 1) →
        elemInt sg w (reduceInt sg true w i) = (if i < lo then lo else if hi < i then hi else i) ∧
        (lo ≤ i → i ≤ hi → elemInt sg w (reduceInt sg false w i) = i)) ∧
      (∀ x : BitVec w, elemInt true w x.toNat = x.toInt ∧ elemInt false w x.toNat = x.toNat)) ∧
  (
    ∀ (h : LaneHead) (m : ModA),
      let w := elemWidth h.ty
      let sg := isSignedTy h.ty
      let I (x : Nat) : Int := elemInt sg w x
      let J (x : Nat) : Int := elemInt (!sg) w x
      let R (i : Int) : Nat := reduceInt sg h.md w i
      laneComputes (.iadd h m) h m 2 (fun x y _ => R (I x + I y)) ∧ laneComputes (.isub h m) h m 2 (fun x y _ => R (I x - I y)) ∧
      laneComputes (.imul h m) h m 2 (fun x y _ => R (I x * I y)) ∧ laneComputes (.imad h m) h m 3 (fun x y z => R (I x * I y + I z)) ∧
      (h.md = false → laneComputes (.imulh h m) h m 2 (fun x y _ => R (I x * I y / 2 ^ w))) ∧
      laneComputes (.iabs h m) h m 1 (fun x _ _ => R |I x|) ∧ laneComputes (.ineg h m) h m 1 (fun x _ _ => R (-I x)) ∧
      (h.md = false → laneComputes (.imin h m) h m 2 (fun x y _ => if I x ≤ I y then x else y) ∧ laneComputes (.imax h m) h m 2 (fun x y _ => if I x ≤ I y then y else x)) ∧
      laneComputes (.iadds h m) h m 2 (fun x y _ => R (I x + J y)) ∧ laneComputes (.isubs h m) h m 2 (fun x y _ => R (I x - J y)) ∧
      laneComputes (.ishl h m) h m 2 (fun x y _ => R (I x * 2 ^ y)))

/-- Lane bit operations, moves, dot products and lane numbers (09 R194, R196, R207; 07 R152).
Lane compares (09 R197, R199): integers by the type's signedness, floating-point values with −0 equal to +0; a NaN makes .ne and .un true and the
others false. -/
def Obligations.LaneBitsAndComparisons : Prop :=
  (
    ∀ (h : LaneHead) (m : ModA) (imm : BitVec 32),
      let w := elemWidth h.ty
      (h.ty.toNat < 14 → laneComputes (.mov h m) h m 1 (fun x _ _ => x) ∧
        (∀ (s : State) (r : TeamRef) (c : Crew) (t : Team) (cl : Clause), s.laneAt r c t cl → t.laneReady cl [] [h.dst.toNat] →
          ∃ t', exec (.movi h imm) s = .next (s.putTeam r t') ∧ t.laneWrites t' (t.executing cl.mask h) w h.dst.toNat (fun e => e ∈ elemSet w (h.s0.setWidth 5))
            (fun _ _ => if h.ty = 3#4 then (imm.signExtend 64).toNat else imm.toNat))) ∧
      (h.ty.toNat < 8 →
      laneComputes (.iand h m) h m 2 (fun x y _ => x &&& y) ∧ laneComputes (.ior h m) h m 2 (fun x y _ => x ||| y) ∧
      laneComputes (.ixor h m) h m 2 (fun x y _ => x ^^^ y) ∧ laneComputes (.inot h m) h m 1 (fun x _ _ => 2 ^ w - 1 - x) ∧
      laneComputes (.ishr h m) h m 2 (fun x y _ => x >>> y) ∧
      laneComputes (.isar h m) h m 2 (fun x y _ => (elemInt true w x / 2 ^ y % 2 ^ w).toNat) ∧
      laneComputes (.ipopc h m) h m 1 (fun x _ _ => (List.range w).countP (fun i => x.testBit i)) ∧
      laneComputes (.iclz h m) h m 1 (fun x _ _ => ((List.range w).takeWhile (fun i => !x.testBit (w - 1 - i))).length) ∧
      laneComputes (.isel h m) h m 3 (fun x y z => if z ≠ 0 then x else y) ∧
      (∀ (s : State) (r : TeamRef) (c : Crew) (t : Team) (cl : Clause), s.laneAt r c t cl → t.laneReady cl [] [h.dst.toNat] →
        (∃ t', exec (.lidx h m) s = .next (s.putTeam r t') ∧ t.laneWrites t' (t.executing cl.mask h) w h.dst.toNat (fun e => e ∈ elemSet w m.dsel)
          (fun l e => l * (64 / w) + e))) ∧
      (∀ (s : State) (r : TeamRef) (c : Crew) (t : Team) (cl : Clause), s.laneAt r c t cl → exec .lnop s = .next (s.putTeam r (t.laneDone none))) ∧
      (∀ (s : State) (r : TeamRef) (c : Crew) (t : Team) (cl : Clause), s.laneAt r c t cl → t.laneReady cl (srcs3 h m) [h.dst.toNat] →
        let u := t.afterPops (srcs3 h m)
        let src (k l : Nat) : Word := u.src u.popped ((srcs3 h m).getD k .zero) l
        let sg := isSignedTy h.ty
        ∃ t', exec (.idot4 h m) s = .next (s.putTeam r t') ∧ t.laneWrites t' (t.executing cl.mask h) 32 h.dst.toNat (fun _ => True)
          (fun l e => reduceInt sg h.md 32 (elemInt sg 32 (getElem 32 e (src 2 l)) +
            elemInt sg 8 (getElem 8 (4 * e) (src 0 l)) * elemInt sg 8 (getElem 8 (4 * e) (src 1 l)) +
            elemInt sg 8 (getElem 8 (4 * e + 1) (src 0 l)) * elemInt sg 8 (getElem 8 (4 * e + 1) (src 1 l)) +
            elemInt sg 8 (getElem 8 (4 * e + 2) (src 0 l)) * elemInt sg 8 (getElem 8 (4 * e + 2) (src 1 l)) +
            elemInt sg 8 (getElem 8 (4 * e + 3) (src 0 l)) * elemInt sg 8 (getElem 8 (4 * e + 3) (src 1 l))))))) ∧
  (
    (∀ (h : LaneHead) (m : ModA),
      let I (x : Nat) : Int := elemInt (isSignedTy h.ty) (elemWidth h.ty) x
      let V (x : Nat) : FVal := decodeF (fmtOf h.ty) x
      let nan (x y : Nat) : Prop := V x = .nan ∨ V y = .nan
      laneCompares (.icmpEq h m) h m (fun x y => I x = I y) ∧ laneCompares (.icmpNe h m) h m (fun x y => I x ≠ I y) ∧
      laneCompares (.icmpLt h m) h m (fun x y => I x < I y) ∧ laneCompares (.icmpLe h m) h m (fun x y => I x ≤ I y) ∧
      laneCompares (.icmpGt h m) h m (fun x y => I y < I x) ∧ laneCompares (.icmpGe h m) h m (fun x y => I y ≤ I x) ∧
      laneCompares (.fcmpEq h m) h m (fun x y => ¬nan x y ∧ eqV (V x) (V y) = true) ∧ laneCompares (.fcmpNe h m) h m (fun x y => nan x y ∨ eqV (V x) (V y) = false) ∧
      laneCompares (.fcmpLt h m) h m (fun x y => ltV (V x) (V y) = true) ∧ laneCompares (.fcmpLe h m) h m (fun x y => ltV (V x) (V y) = true ∨ eqV (V x) (V y) = true) ∧
      laneCompares (.fcmpGt h m) h m (fun x y => ¬nan x y ∧ ltV (V x) (V y) = false ∧ eqV (V x) (V y) = false) ∧
      laneCompares (.fcmpGe h m) h m (fun x y => ¬nan x y ∧ ltV (V x) (V y) = false) ∧ laneCompares (.fcmpUn h m) h m nan) ∧
    (∀ (a b : Bool) (n d k e : Nat), 0 < d → 0 < e →
      (ltV (.fin a n d) (.fin b k e) = true ↔ (if a then -1 else 1 : Int) * n * e < (if b then -1 else 1 : Int) * k * d) ∧
      (eqV (.fin true 0 1) (.fin false 0 1) = true) ∧ ltV (.inf true) (.fin a n d) = true ∧ ltV (.fin a n d) (.inf false) = true ∧ eqV .nan (.fin a n d) = false))

/-- The field instructions (09 R195): the low half of a descriptor element gives the position and its high half the length, both cut to the element; IBFX extends what it
extracts by the type, and IBFI replaces those bits of x by the low bits of v. -/
def Obligations.LaneFieldInstructions : Prop :=
  ∀ (h : LaneHead) (m : ModA), h.ty.toNat < 8 →
    let w := elemWidth h.ty
    let pos (f : Nat) : Nat := f % 2 ^ (w / 2) % w
    let len (f : Nat) : Nat := min (f / 2 ^ (w / 2)) (w - pos f)
    laneComputes (.ibfx h m) h m 2 (fun x f _ =>
      let v := x / 2 ^ pos f % 2 ^ len f
      if isSignedTy h.ty ∧ 0 < len f ∧ v.testBit (len f - 1) then v + (2 ^ w - 2 ^ len f) else v) ∧
    laneComputes (.ibfi h m) h m 3 (fun x v f => x / 2 ^ (pos f + len f) * 2 ^ (pos f + len f) + v % 2 ^ len f * 2 ^ pos f + x % 2 ^ pos f)

/-- Lane floating-point arithmetic (09 R198, R200): each rounded result is one rounding of the exact value of the operands; FMIN and FMAX ignore one
NaN; FABS and FNEG touch the sign bit alone.
The approximated functions (09 R201, R202): the values that R201 fixes (special values, FEXP2 at integers and at overflow, FLOG2 at powers of two), the ranges of
the results, the oddness of FTANH; every other value is one the part chooses within the bound of R201 about the exact value as the model evaluates it,
an open value of the model (the log's entry on `Config.approxPick`).
Model choices it rests on: notes/assumptions/4.md. -/
def Obligations.LaneFloatArithmetic : Prop :=
  (
    ∀ (h : LaneHead) (m : ModA),
      let f := fmtOf h.ty
      let md := rmodeOf m.rm
      let V (x : Nat) : FVal := decodeF f x
      let R (v : FVal) : Nat := encodeF f md false v
      laneComputes (.fadd h m) h m 2 (fun x y _ => R (addV md.isRdn (V x) (V y))) ∧ laneComputes (.fsub h m) h m 2 (fun x y _ => R (addV md.isRdn (V x) (negV (V y)))) ∧
      laneComputes (.fmul h m) h m 2 (fun x y _ => R (mulV (V x) (V y))) ∧ laneComputes (.ffma h m) h m 3 (fun x y z => R (addV md.isRdn (mulV (V x) (V y)) (V z))) ∧
      laneComputes (.fdiv h m) h m 2 (fun x y _ => R (divV (V x) (V y))) ∧ laneComputes (.frcp h m) h m 1 (fun x _ _ => R (divV (.fin false 1 1) (V x))) ∧
      laneComputes (.fsqrt h m) h m 1 (fun x _ _ => R (sqrtV (V x))) ∧
      laneComputes (.fmin h m) h m 2 (fun x y _ => if V x = .nan ∧ V y = .nan then f.nanBits else if V x = .nan then y else if V y = .nan then x
        else if beforeV (V x) (V y) = true then x else y) ∧
      laneComputes (.fmax h m) h m 2 (fun x y _ => if V x = .nan ∧ V y = .nan then f.nanBits else if V x = .nan then y else if V y = .nan then x
        else if beforeV (V x) (V y) = true then y else x) ∧
      laneComputes (.fabs h m) h m 1 (fun x _ _ => x % 2 ^ (f.width - 1)) ∧ laneComputes (.fneg h m) h m 1 (fun x _ _ => x ^^^ 2 ^ (f.width - 1)) ∧
      laneComputes (.fround h m) h m 1 (fun x _ _ => match V x with
        | .nan => f.nanBits
        | .inf _ => x
        | .fin neg n d => if n = 0 then x else encodeF f .rz false (.fin neg (roundInt md neg n d).natAbs 1)) ∧
      laneComputes (.fclass h m) h m 1 (fun x _ _ => classF f x) ∧
      laneComputes (.fscale h m) h m 2 (fun x y _ => R (scaleV (V x) (max (-700) (min 700 (elemInt true f.width y)))))) ∧
  (
    (∀ (h : LaneHead) (m : ModA),
      laneComputes (.frsq h m) h m 1 (fun x _ _ => approxF 0x051 h.ty x) ∧ laneComputes (.fexp2 h m) h m 1 (fun x _ _ => approxF 0x054 h.ty x) ∧
      laneComputes (.flog2 h m) h m 1 (fun x _ _ => approxF 0x055 h.ty x) ∧ laneComputes (.fsin h m) h m 1 (fun x _ _ => approxF 0x056 h.ty x) ∧
      laneComputes (.fcos h m) h m 1 (fun x _ _ => approxF 0x057 h.ty x) ∧ laneComputes (.ftanh h m) h m 1 (fun x _ _ => approxF 0x058 h.ty x) ∧
      laneComputes (.fsigm h m) h m 1 (fun x _ _ => approxF 0x059 h.ty x)) ∧
    (∀ (ty : BitVec 4) (x : Nat),
      let f := fmtOf ty
      let V := decodeF f x
      (V = .nan → ∀ op, approxF op ty x = f.nanBits) ∧
      (V = .inf false → approxF 0x051 ty x = 0 ∧ approxF 0x054 ty x = infBits f false false ∧ approxF 0x055 ty x = infBits f false false ∧
        approxF 0x056 ty x = f.nanBits ∧ approxF 0x057 ty x = f.nanBits ∧ approxF 0x058 ty x = encodeF f .rne false (intV 1) ∧ approxF 0x059 ty x = encodeF f .rne false (intV 1)) ∧
      (V = .inf true → approxF 0x051 ty x = f.nanBits ∧ approxF 0x054 ty x = 0 ∧ approxF 0x055 ty x = f.nanBits ∧ approxF 0x056 ty x = f.nanBits ∧
        approxF 0x057 ty x = f.nanBits ∧ approxF 0x059 ty x = 0) ∧
      (∀ neg d, V = .fin neg 0 d → approxF 0x051 ty x = infBits f false neg ∧ approxF 0x055 ty x = infBits f false true ∧ approxF 0x056 ty x = x ∧
        approxF 0x057 ty x = encodeF f .rne false (intV 1) ∧ (ty ≠ 8#4 → approxF 0x058 ty x = x) ∧ approxF 0x054 ty x = encodeF f .rne false (scaleV (intV 1) 0)) ∧
      (∀ n d, V = .fin true n d → 0 < n → approxF 0x051 ty x = f.nanBits ∧ approxF 0x055 ty x = f.nanBits) ∧
      (∀ neg n d, V = .fin neg n d → n % d = 0 → n / d ≤ f.bias + (if neg then f.fbits - 1 else 0) →
        approxF 0x054 ty x = encodeF f .rne false (scaleV (intV 1) ((if neg then -1 else 1) * ((n / d : Nat) : Int)))) ∧
      (∀ n d, V = .fin false n d → 0 < d → (f.bias + 1) * d ≤ n → approxF 0x054 ty x = infBits f false false) ∧
      (∀ (n d k : Nat), V = .fin false n d → 0 < n → 0 < d → (n = d * 2 ^ k → approxF 0x055 ty x = encodeF f .rne false (intV k)) ∧
        (d = n * 2 ^ k → approxF 0x055 ty x = encodeF f .rne false (intV (-(k : Int))))) ∧
      (ty ∈ [8#4, 9#4, 10#4] → x < 2 ^ f.width → V ≠ .nan →
        approxF 0x058 ty (x ^^^ f.signBit true) = approxF 0x058 ty x ^^^ f.signBit true ∧
        ∀ neg n d,
          (decodeF f (approxF 0x056 ty x) = .fin neg n d ∨ decodeF f (approxF 0x057 ty x) = .fin neg n d ∨ decodeF f (approxF 0x058 ty x) = .fin neg n d → n ≤ d) ∧
          (decodeF f (approxF 0x059 ty x) = .fin neg n d → n ≤ d ∧ (neg = true → n = 0)))) ∧
    (∀ (op pick n d : Nat) (neg : Bool),
      let v := approxExact op neg n d
      let pos (ty : BitVec 4) : Int := ordinalF (fmtOf ty) (approxFinite op ty pick neg n d)
      let lo := ordinalF f32 (encodeF f32 .rup false (fixVal (approxLimits op (v - approxBound op v n d) (v + approxBound op v n d)).1))
      let hi := ordinalF f32 (encodeF f32 .rdn false (fixVal (approxLimits op (v - approxBound op v n d) (v + approxBound op v n d)).2))
      (lo ≤ hi → lo ≤ pos 8#4 ∧ pos 8#4 ≤ hi) ∧
      (∀ ty, ty = 9#4 ∨ ty = 10#4 →
        (approxOnGrid op n d = true → approxFinite op ty pick neg n d = encodeF (fmtOf ty) .rne false (fixVal v)) ∧
        (let below := ordinalF (fmtOf ty) (encodeF (fmtOf ty) .rdn false (fixVal v))
         let above := ordinalF (fmtOf ty) (encodeF (fmtOf ty) .rup false (fixVal (v + 1)))
         approxOnGrid op n d = false → below ≤ above → below ≤ pos ty ∧ pos ty ≤ above))))

/-- Conversions (09 R203 to R206; 04 R83, R84): each written element is the source element converted in the element's rounding mode, which for RSX comes
from the key, the clause's step, the lane and the element. -/
def Obligations.LaneConversions : Prop :=
  ∀ (h : LaneHead) (m : ModC),
    let ws := elemWidth m.sty
    let conv (md : RMode) (v : Word) (j : Nat) : Nat := convertElem h.ty m.sty md h.md (getElem ws j v)
    let n := if m.rm = 4#3 then 2 else 1
    (m.s0sel = 0#5 → laneConverts (.cvt h m) h m n (fun e => e < 64 / ws) (fun src md e => conv md (src 0) e)) ∧
    (m.s0sel ≠ 0#5 → laneConverts (.cvt h m) h m n (fun e => e = selIndex m.dsel) (fun src md _ => conv md (src 0) (selIndex m.s0sel))) ∧
    (0 < 64 / ws → laneConverts (.pack h m) h m (n + 1) (fun e => selIndex m.dsel ≤ e ∧ e < selIndex m.dsel + 2 * (64 / ws))
      (fun src md e => if e < selIndex m.dsel + 64 / ws then conv md (src 0) (e - selIndex m.dsel) else conv md (src n) (e - selIndex m.dsel - 64 / ws))) ∧
    laneConverts (.unpk h m) h m n (fun _ => True) (fun src md e => conv md (src 0) (selIndex m.s0sel + e))

/-- Cross-lane instructions (09 R211 to R217): range reductions and scans over the positions of each lane's range, shuffles by team position, votes and
prefix counts.
Reductions and scans as sums of elements (09 R212, R214): integer sums are exact and reduced once; the inclusive scan of an integer sum is the
sequence of prefix sums; a floating-point sum is the pairwise tree of 04 R87, padded with −0, and a floating-point scan goes by doubling distances (04 R89); a
floating-point range maximum is the canonical NaN when an element is a NaN.
Model choices it rests on: notes/assumptions/35.md and 56.md. -/
def Obligations.LaneCrossingsAndRanges : Prop :=
  (
    ∀ (h : LaneHead) (m : ModX) (ma : ModA),
      let w := elemWidth h.ty
      let op := m.op.toNat % 8
      let all (v : Nat) (l : List Nat) : List Nat := List.replicate l.length v
      laneRanges (.frmax h m) h m (redIdent h.ty 2) (fun l => all (reduceRange h.ty 2 false l) l) ∧
      laneRanges (.fradd h m) h m (redIdent h.ty 0) (fun l => all (reduceRange h.ty 0 false l) l) ∧
      laneRanges (.red h m) h m (redIdent h.ty op) (fun l => all (reduceRange h.ty op h.md l) l) ∧
      (m.op.getLsbD 3 = false → laneRanges (.scan h m) h m (redIdent h.ty op) (fun l => scanRange h.ty op h.md l)) ∧
      (m.op.getLsbD 3 = true → laneRanges (.scan h m) h m (redIdent h.ty op) (fun l => scanRange h.ty op h.md (redIdent h.ty op :: l.dropLast))) ∧
      (∀ (s : State) (r : TeamRef) (c : Crew) (t : Team) (cl : Clause), s.laneAt r c t cl →
        let x := t.executing cl.mask h
        let ss := (srcs3 h ma).take 2
        let u := t.afterPops ss
        let at_ (p : Nat) : Nat := if p < t.lanes * (64 / w) then getElem w (p % (64 / w)) (u.src u.popped (ss.getD 0 .zero) (p / (64 / w))) else 0
        let pos (l : Nat) : Nat := getElem 32 (selIndex ma.s1sel) (u.src u.popped (ss.getD 1 .zero) l)
        let on (l : Nat) : Bool := x.getLsbD l && t.pred (h.s0.toNat % 16) l
        let count (lo hi : Nat) : Nat := (List.range hi).countP (fun l => decide (lo ≤ l) && on l)
        (t.laneReady cl ss [h.dst.toNat] →
          (∃ t', exec (.shfl h ma) s = .next (s.putTeam r t') ∧ t.laneWrites t' x w h.dst.toNat (fun e => e ∈ elemSet w ma.dsel) (fun l e => at_ (pos l + e))) ∧
          (∃ t', exec (.bcast h ma) s = .next (s.putTeam r t') ∧ t.laneWrites t' x w h.dst.toNat (fun e => e ∈ elemSet w ma.dsel) (fun l _ => at_ (pos l)))) ∧
        (cl.mask ≠ 0#1024 → ∃ t', exec (.vote h m) s = .next (s.putTeam r t') ∧ t'.lidx = t.lidx + 1 ∧ t.laneKeeps { t' with votes := t.votes } ∧ t'.vregs = t.vregs ∧
          ∃ v : Mask, t'.votes = t.votes ++ [⟨cl.uid, h.dst.setWidth 3, v⟩] ∧ (∀ l, l < 1024 → v.getLsbD l = on l)) ∧
        (∀ (v : Vote) (vs : List Vote), t.votes = v :: vs → t.landOldest = { t.setMask v.reg v.mask with votes := vs } ∧ t.landVotes = t.landOldest.landVotes ∧ t.landVotes.votes = []) ∧
        (t.laneReady cl [] [h.dst.toNat] → t.lanes % 32 = 0 → 
          ∃ t', exec (.pfxc h m) s = .next (s.putTeam r t') ∧ t.laneWrites t' x w h.dst.toNat (fun e => e ∈ elemSet w m.dsel) (fun l _ =>
            let g := laneRangeOf m.range.toNat t.lanes l
            reduceInt (isSignedTy h.ty) h.md w ((if m.op = 0#4 then count g.1 l else if m.op = 1#4 then count g.1 (l + 1) else count g.1 (g.1 + g.2) : Nat) : Int))))) ∧
  (
    ∀ (ty : BitVec 4) (sat : Bool) (l : List Nat),
      let w := elemWidth ty
      let I (x : Nat) : Int := elemInt (isSignedTy ty) w x
      (ty.toNat < 8 → reduceRange ty 0 sat l = reduceInt (isSignedTy ty) sat w (l.map I).sum ∧
        (scanRange ty 0 sat l).length = l.length ∧
        ∀ k, k < l.length → (scanRange ty 0 sat l).getD k 0 = reduceInt (isSignedTy ty) sat w ((l.take (k + 1)).map I).sum) ∧
      (8 ≤ ty.toNat → ty.toNat ≤ 10 → (∀ x, x ∈ l → x < 2 ^ w) →
        let f := fmtOf ty
        let can (x : Nat) : Nat := if decodeF f x = .nan then f.nanBits else x
        (∀ x, l = [x] → reduceRange ty 0 sat l = can x) ∧
        (∃ v : Nat → Nat → Nat, (∀ i, v 0 i = l.getD i (negZero f)) ∧ (∀ k i, v (k + 1) i = addF f .rne (v k (2 * i)) (v k (2 * i + 1))) ∧
          ∀ k, 2 ≤ l.length → l.length ≤ 2 ^ k → 2 ^ k < 2 * l.length → reduceRange ty 0 sat l = v k 0) ∧
        (∃ y : Nat → Nat → Nat, (∀ i, y 0 i = can (l.getD i 0)) ∧ (∀ k i, y (k + 1) i = if 2 ^ k ≤ i then addF f .rne (y k (i - 2 ^ k)) (y k i) else y k i) ∧
          ∀ k i, l.length ≤ 2 ^ k → i < l.length → (scanRange ty 0 sat l).getD i 0 = y k i)) ∧
      (8 ≤ ty.toNat → ty.toNat ≤ 10 → (∃ x, x ∈ l ∧ decodeF (fmtOf ty) x = .nan) → reduceRange ty 2 sat l = (fmtOf ty).nanBits ∧ reduceRange ty 1 sat l = (fmtOf ty).nanBits))

/-- Block planes, the Hadamard butterfly and the fused softmax idiom (09 R208 to R210, R213). -/
def Obligations.LaneBlockInstructions : Prop :=
  (∀ (s : State) (r : TeamRef) (c : Crew) (t : Team) (cl : Clause), s.laneAt r c t cl → t.lanes % 32 = 0 → t.lanes ≤ 1024 → ∀ (h : LaneHead) (m : ModP) (ma : ModA),
    let w := elemWidth h.ty
    let x := t.executing cl.mask h
    let p := m.p.toNat
    let band (l : Nat) : Prop := cl.mask.extractLsb' (32 * (l / 32)) 32 ≠ 0#32
    let s0 := srcOf h.s0 h.z0 h.b0 m.q0
    let u := t.afterPops [s0]
    (t.laneReady cl [s0] [h.dst.toNat] →
      (selIndex m.dsel < 2 → ∃ t', exec (.qbp h m) s = .next (s.putTeam r t') ∧ t'.lidx = t.lidx + 1 ∧ t.laneKeeps t' ∧
        (∀ l, l < t.lanes → band l → l % 32 ≤ p → t'.laneElem 32 h.dst.toNat l (selIndex m.dsel) =
          (quantBlock p ((List.range 32).map (fun j => if x.getLsbD (l / 32 * 32 + j) then
            decodeF (fmtOf h.ty) (getElem w (selIndex m.s0sel) (u.src u.popped s0 (l / 32 * 32 + j))) else .fin false 0 1))).getD (l % 32) 0 % 2 ^ 32) ∧
        (∀ v l, v ≠ h.dst.toNat ∨ ¬band l ∨ p < l % 32 ∨ t.lanes ≤ l → l < 1024 → t'.vreg v l = t.vreg v l)) ∧
      (∃ t', exec (.dqbp h m) s = .next (s.putTeam r t') ∧ t.laneWrites t' x w h.dst.toNat (fun e => e = selIndex m.dsel) (fun l _ =>
        let word (i : Nat) := getElem 32 (selIndex m.s0sel) (u.src u.popped s0 (l / 32 * 32 + i))
        encodeF (fmtOf h.ty) .rne false (mulV (intV (blockElem p word (l % 32))) (decodeF f32 (word p)))))) ∧
    (let s0 := srcOf h.s0 h.z0 h.b0 ma.q0
     let u := t.afterPops [s0]
     t.laneReady cl [s0] [h.dst.toNat] → ∃ t', exec (.had32 h ma) s = .next (s.putTeam r t') ∧ t.laneWrites t' x 32 h.dst.toNat (fun e => e ∈ elemSet 32 ma.dsel) (fun l e =>
        (hadamard h.md ((List.range 32).map (fun j => if x.getLsbD (l / 32 * 32 + j) then getElem 32 e (u.src u.popped s0 (l / 32 * 32 + j)) else 0x80000000))).getD (l % 32) 0))) ∧
  (∀ (s : State) (r : TeamRef) (c : Crew) (t : Team) (cl : Clause), s.laneAt r c t cl → ∀ (hm : LaneHead) (mm : ModX) (ht : LaneHead) (mt : ModA) (he : LaneHead) (me : ModA) (hs : LaneHead) (ms : ModX),
    t.laneReady cl [.reg hm.s0.toNat] [hm.dst.toNat, hm.s0.toNat, ht.dst.toNat, he.dst.toNat, hs.dst.toNat] →
    ∃ s1 s2 s3 s4, exec (.frmax hm mm) s = .next s1 ∧ exec (.fsub ht mt) s1 = .next s2 ∧ exec (.fexp2 he me) s2 = .next s3 ∧ exec (.fradd hs ms) s3 = .next s4 ∧
      exec (.fusedSoftmax hm mm ht mt he me hs ms) s = .next s4)

/-! ### Lane memory -/

/-- Tile accesses of lanes (10 R219, R225, R229, R232, R235, R236): each executing lane's elements become outstanding loads, stores or atomics; CSTORE and
XLD place the executing lanes' elements one after another along dimension 1, and CSTORE returns their number and the lane's place.
Model choices it rests on: notes/assumptions/14.md and 53.md. -/
def Obligations.LaneTileAccesses : Prop :=
  ∀ (s : State) (r : TeamRef) (c : Crew) (t : Team) (cl : Clause) (h : LaneHead) (m : ModM) (tl : Tile),
    s.laneAt r c t cl → t.restart = none → c.laneTile h m tl → t.lctr.toNat + 1024 ≤ 65535 →
    let w := elemWidth h.ty
    let x := t.executing cl.mask h
    let lanes := maskLanes x t.lanes
    let at_ (e : Nat × Coord × Option Nat) : Loc := .tile r.crew tl.uid e.2.1 e.2.2
    let clean (es : Nat → List (Nat × Coord × Option Nat)) : Prop := ∀ l e, l ∈ lanes → e ∈ es l → tl.poisoned e.2.1 e.2.2 = false
    (∀ es : Nat → List (Nat × Coord × Option Nat),
      let u := t.afterPops [memS0 h m]
      let xs (l : Nat) : Coord := coordOf (u.src u.popped (memS0 h m) l)
      t.laneReady cl [memS0 h m] [h.dst.toNat] → clean es →
      ((∀ l, l ∈ lanes → laneElems tl h.ty m.sel l (xs l) = some (es l)) →
        ∃ t', exec (.tld h m) s = .next (s.putTeam r t') ∧ t'.vregs = t.vregs ∧ t.laneIssues t' cl x (fun l => (es l).map (fun e => (at_ e, w, .load h.dst e.1))) 0) ∧
      ((∀ l, l ∈ lanes → transposedElems tl w (xs l) = some (es l) ∧ (w = 4 → (xs l).c1 % 2 = 0)) →
        ∃ t', exec (.tldt h m) s = .next (s.putTeam r t') ∧ t'.vregs = t.vregs ∧ t.laneIssues t' cl x (fun l => (es l).map (fun e => (at_ e, w, .load h.dst e.1))) 0) ∧
      (m.glob = false → (∀ l, l ∈ lanes → es l = [(selIndex m.sel, (xs l).plus1 (slotOf x l), none)] ∧ tl.inside ((xs l).plus1 (slotOf x l)) = true) →
        ∃ t', exec (.xld h m) s = .next (s.putTeam r t') ∧ t'.vregs = t.vregs ∧ t.laneIssues t' cl x (fun l => (es l).map (fun e => (at_ e, w, .load h.dst e.1))) 0)) ∧
    (∀ es : Nat → List (Nat × Coord × Option Nat),
      let u := t.afterPops [memS0 h m, memS1 h]
      let xs (l : Nat) : Coord := coordOf (u.src u.popped (memS0 h m) l)
      let val (l j : Nat) : Word := BitVec.ofNat 64 (getElem w j (u.src u.popped (memS1 h) l))
      let acc (l : Nat) : List (Loc × Nat × AccKind) := (es l).map (fun e => (at_ e, w, .store (val l e.1) cl.step))
      clean es →
      (t.laneReady cl [memS0 h m, memS1 h] [] → (∀ l, l ∈ lanes → laneElems tl h.ty m.sel l (xs l) = some (es l)) →
        ∃ t', exec (.tst h m) s = .next (s.putTeam r t') ∧ t'.vregs = t.vregs ∧ t.laneIssues t' cl x acc (passCount lanes acc)) ∧
      (t.laneReady cl [memS0 h m, memS1 h] [h.dst.toNat] → m.glob = false →
        (∀ l, l ∈ lanes → es l = [(selIndex m.sel, (xs l).plus1 (slotOf x l), none)] ∧ tl.inside ((xs l).plus1 (slotOf x l)) = true) →
        ∃ t', exec (.cstore h m) s = .next (s.putTeam r t') ∧ t.laneIssues t' cl x acc (passCount lanes acc) ∧
          (∀ v l, l < 1024 → t'.vreg v l = if v = h.dst.toNat ∧ l ∈ lanes then BitVec.ofNat 64 (lanes.length + (lanes.countP (fun k => decide (k < l))) * 2 ^ 32) else t.vreg v l))) ∧
    (let srcs := [memS0 h m, memS1 h] ++ if m.aop = 10#4 then [memS2 h] else []
     let u := t.afterPops srcs
     let xs (l : Nat) : Coord := coordOf (u.src u.popped (memS0 h m) l)
     t.laneReady cl srcs [h.dst.toNat] → m.glob = false → h.ty ≠ 14#4 → (∀ l, l ∈ lanes → tl.inside (xs l) = true ∧ tl.poisoned (xs l) none = false) → ∀ op, decodeAtomOp m.aop = some op →
     ∃ t', exec (.atom h m) s = .next (s.putTeam r t') ∧ t'.vregs = t.vregs ∧ t.laneIssues t' cl x (fun l => [(.tile r.crew tl.uid (xs l) none, w,
       .atom op (BitVec.ofNat 64 (getElem w (selIndex m.sel) (u.src u.popped (memS1 h) l))) (BitVec.ofNat 64 (getElem w (selIndex m.sel) (u.src u.popped (memS2 h) l))) h.dst (selIndex m.sel))])
       lanes.length)

/-- Global accesses of lanes (10 R230, R232, R235, R236): each executing lane's bytes at its translated address become an outstanding load, store or
atomic; no byte of memory changes but by the first touches of the translations.
Model choices it rests on: notes/assumptions/14.md and 53.md. -/
def Obligations.LaneGlobalAccesses : Prop :=
  ∀ (s s1 : State) (r : TeamRef) (c : Crew) (t : Team) (cl : Clause) (h : LaneHead) (m : ModM) (ps : List (Nat × Nat)),
    s.laneAt r c t cl → t.restart = none → t.lctr.toNat + 1024 ≤ 65535 →
    let w := elemWidth h.ty
    let n := if m.sel = 0#5 then 8 else w / 8
    let j := if m.sel = 0#5 then 0 else selIndex m.sel
    let x := t.executing cl.mask h
    let lanes := maskLanes x t.lanes
    (let u := t.afterPops [memS0 h m]
     let va (l : Nat) : Nat := (u.src u.popped (memS0 h m) l).toNat
     let slot (l : Nat) : Nat := (u.src u.popped (memS0 h m) l).toNat + slotOf x l * (w / 8)
     t.laneReady cl [memS0 h m] [h.dst.toNat] →
     (s.laneReaches c.core n false true va lanes = (s1, some ps) →
       ∃ t', exec (.gld h m) s = .next (s1.putTeam r t') ∧ t'.vregs = t.vregs ∧ t.laneIssues t' cl x (globAcc1 ps n va (fun _ => .load h.dst j)) 0) ∧
     (m.glob = true → s.laneReaches c.core (w / 8) false true slot lanes = (s1, some ps) →
       ∃ t', exec (.xld h m) s = .next (s1.putTeam r t') ∧ t'.vregs = t.vregs ∧ t.laneIssues t' cl x (globAcc1 ps (w / 8) slot (fun _ => .load h.dst (selIndex m.sel))) 0)) ∧
    (let u := t.afterPops [memS0 h m, memS1 h]
     let va (l : Nat) : Nat := (u.src u.popped (memS0 h m) l).toNat
     let slot (l : Nat) : Nat := (u.src u.popped (memS0 h m) l).toNat + slotOf x l * (w / 8)
     let acc := globAcc1 ps n va (fun l => .store (BitVec.ofNat 64 (getElem (8 * n) j (u.src u.popped (memS1 h) l))) cl.step)
     let acs := globAcc1 ps (w / 8) slot (fun l => .store (BitVec.ofNat 64 (getElem w (selIndex m.sel) (u.src u.popped (memS1 h) l))) cl.step)
     (t.laneReady cl [memS0 h m, memS1 h] [] → s.laneReaches c.core n true false va lanes = (s1, some ps) →
       ∃ t', exec (.gst h m) s = .next (s1.putTeam r t') ∧ t'.vregs = t.vregs ∧ t.laneIssues t' cl x acc (passCount lanes acc)) ∧
     (t.laneReady cl [memS0 h m, memS1 h] [h.dst.toNat] → m.glob = true → s.laneReaches c.core (w / 8) true false slot lanes = (s1, some ps) →
       ∃ t', exec (.cstore h m) s = .next (s1.putTeam r t') ∧ t.laneIssues t' cl x acs (passCount lanes acs) ∧
         (∀ v l, l < 1024 → t'.vreg v l = if v = h.dst.toNat ∧ l ∈ lanes then BitVec.ofNat 64 (lanes.length + (lanes.countP (fun k => decide (k < l))) * 2 ^ 32) else t.vreg v l))) ∧
    (let srcs := [memS0 h m, memS1 h] ++ if m.aop = 10#4 then [memS2 h] else []
     let u := t.afterPops srcs
     let va (l : Nat) : Nat := (u.src u.popped (memS0 h m) l).toNat
     t.laneReady cl srcs [h.dst.toNat] → m.glob = true → s.laneReaches c.core (w / 8) true true va lanes = (s1, some ps) → ∀ op, decodeAtomOp m.aop = some op →
     ∃ t', exec (.atom h m) s = .next (s1.putTeam r t') ∧ t'.vregs = t.vregs ∧ t.laneIssues t' cl x (globAcc1 ps (w / 8) va (fun l =>
       .atom op (BitVec.ofNat 64 (getElem w (selIndex m.sel) (u.src u.popped (memS1 h) l))) (BitVec.ofNat 64 (getElem w (selIndex m.sel) (u.src u.popped (memS2 h) l))) h.dst (selIndex m.sel)))
       lanes.length)

/-- Tagged lane accesses (10 R222, R226, R228; 05 R101): when the word's tags stand as the form wants them, TLD.f loads and its consuming form empties the
tags, TLD.ifempty loads, TST.iffull stores, TST.e stores and fills, with status OK; with e = 0 and other tags the lane gets TIMEOUT, else it waits;
where the tags stand so and an earlier waiter is served first, it waits too, with nothing left to count.
Model choices it rests on: notes/assumptions/54.md and 58.md. -/
def Obligations.TaggedLaneAccesses : Prop :=
  ∀ (s : State) (r : TeamRef) (c : Crew) (t : Team) (cl : Clause) (h : LaneHead) (m : ModM) (tl : Tile) (l : Nat) (e : Nat × Coord × Option Nat) (rest : List (Nat × Coord × Option Nat)),
    s.oneLane r c t cl h l → c.laneTile h m tl → c.tileUid tl.uid = some tl → tl.tags = true → tl.tracked = false → s.mmaHeld r.crew tl.uid e.2.1 = false → tl.poisoned e.2.1 e.2.2 = false →
    t.pending = [] → (∀ i, i ∈ s.wlItems → i.team ≠ r) → (∀ k, k ∈ s.matrix → k.team ≠ r) → t.lctr.toNat + t.bands ≤ 65535 →
    let w := elemWidth h.ty
    let k := selIndex m.sel
    let holds := s.tagHolds ⟨r.crew, tl.uid, e.2.1, true, e.2.2⟩
    let full := s.servable (s.nextWait + l / 32) ⟨r.crew, tl.uid, e.2.1, true, e.2.2⟩
    let empty := s.servable (s.nextWait + l / 32) ⟨r.crew, tl.uid, e.2.1, false, e.2.2⟩
    let ends (i : Instr) (t' : Team) (tl' : Tile) : Prop := ∃ s', exec i s = .next s' ∧ (s'.teamAt r).map (·.2) = some t' ∧ s'.tileAt r.crew tl.uid = some tl' ∧ sameBytes s s' ∧
      t'.lidx = t.lidx + 1 ∧ t'.lwaits = [] ∧ t.laneKeeps t'
    (let u := t.afterPops [memS0 h m]
     t.laneReady cl [memS0 h m] [h.dst.toNat, h.s2.toNat] → h.dst ≠ h.s2 → k < 64 / w → laneElems tl h.ty m.sel l (coordOf (u.src u.popped (memS0 h m) l)) = some (e :: rest) →
     (full = true → ∃ t', ends (.tldf h m) t' (if m.consume then tl.setTag e.2.1 e.2.2 false else tl) ∧ t'.laneElem w h.dst.toNat l k = tl.read e.2.1 e.2.2 % 2 ^ w ∧ t'.vreg h.s2.toNat l = 0#64) ∧
     (empty = true → ∃ t', ends (.tldIfempty h m) t' tl ∧ t'.laneElem w h.dst.toNat l k = tl.read e.2.1 e.2.2 % 2 ^ w ∧ t'.vreg h.s2.toNat l = 0#64) ∧
     (holds = false → m.e = 0#5 → ∃ t', ends (.tldf h m) t' tl ∧ t'.vreg h.s2.toNat l = 1#64 ∧ t'.vreg h.dst.toNat l = t.vreg h.dst.toNat l) ∧
     (full = false → (m.e = 0#5 → holds = true) → ∃ (s' : State) (t' : Team) (x : LaneWait), exec (.tldf h m) s = .next s' ∧ (s'.teamAt r).map (·.2) = some t' ∧ t'.lwaits = [x] ∧ x.lane = l ∧
       x.remaining = (if m.e = 0#5 then some 0 else if m.e = 31#5 then none else some (2 ^ m.e.toNat)) ∧ t'.lidx = t.lidx ∧ t'.vregs = t.vregs)) ∧
    (let u := t.afterPops [memS0 h m, memS1 h]
     let v := getElem w k (u.src u.popped (memS1 h) l)
     t.laneReady cl [memS0 h m, memS1 h] [h.s2.toNat] → laneElems tl h.ty m.sel l (coordOf (u.src u.popped (memS0 h m) l)) = some (e :: rest) →
     (full = true → ∃ t', ends (.tstIffull h m) t' (tl.write e.2.1 e.2.2 v) ∧ t'.vreg h.s2.toNat l = 0#64) ∧
     (empty = true → ∃ t', ends (.tste h m) t' ((tl.write e.2.1 e.2.2 v).setTag e.2.1 e.2.2 true) ∧ t'.vreg h.s2.toNat l = 0#64))

/-- Remote loads and message queues (10 R231, R233, R234): RLD waits for the answer of another crew's tile of the launch (WaitsEnd gives its end); MSGPUT writes an entry at the tail of a
queue with room and returns the room left; MSGTAKE takes the entry at the head; a reference that reaches nothing, and an RLD of a queue tile, of another width or of
coordinates outside the shape, give BOUNDS.
Model choices it rests on: notes/assumptions/17.md, 20.md, 47.md, 58.md and 70.md. -/
def Obligations.RemoteAndMessages : Prop :=
  ∀ (s : State) (r : TeamRef) (c : Crew) (t : Team) (cl : Clause) (h : LaneHead) (m : ModM) (l k : Nat) (tl : Tile), s.oneLane r c t cl h l → t.pending = [] →
    (∀ i, i ∈ s.wlItems → i.team ≠ r) → (∀ k, k ∈ s.matrix → k.team ≠ r) → t.lctr.toNat + t.bands ≤ 65535 →
    let w := elemWidth h.ty
    let status (t' : Team) (v : Word) : Prop := t'.vreg h.s2.toNat l = v ∧ t'.lidx = t.lidx + 1 ∧ t.laneKeeps t'
    (let u := t.afterPops [memS0 h m, memS1 h]
     let a := u.src u.popped (memS0 h m) l
     let b := coordOf (u.src u.popped (memS1 h) l)
     t.laneReady cl [memS0 h m, memS1 h] [h.dst.toNat, h.s2.toNat] → h.dst ≠ h.s2 →
     let ends (v : Word) : Prop := ∃ s' t', exec (.rld h m) s = .next s' ∧ (s'.teamAt r).map (·.2) = some t' ∧ status t' v ∧ (∀ v k, k < 1024 → v ≠ h.s2.toNat ∨ k ≠ l → t'.vreg v k = t.vreg v k) ∧ sameBytes s s'
     let waits (n : Option Nat) : Prop := ∃ s' t' x, exec (.rld h m) s = .next s' ∧ (s'.teamAt r).map (·.2) = some t' ∧ t'.lwaits = [x] ∧ x.lane = l ∧ x.instr = .rld h m ∧ x.a = a ∧
       x.b = u.src u.popped (memS1 h) l ∧ x.want = none ∧ x.remaining = n ∧ t'.vregs = t.vregs ∧ t'.lidx = t.lidx ∧ sameBytes s s'
     let count := if m.e = 31#5 then none else some (2 ^ m.e.toNat)
     (s.remote c a = .refused → ends 7#64) ∧
     (s.remote c a = .notStarted → (m.e = 0#5 → ends 1#64) ∧ (m.e ≠ 0#5 → waits count)) ∧
     (s.remote c a = .tile k tl → s.hears c k = true →
       (tl.queue = true ∨ tl.width ≠ w ∨ tl.fmt = 14#4 ∨ (h.ty ≠ 14#4 ∧ m.sel ≠ 0#5 ∧ tl.inside b = false) → ends 7#64) ∧
       (tl.queue = false → tl.width = w → tl.fmt ≠ 14#4 → h.ty ≠ 14#4 → m.sel ≠ 0#5 → tl.inside b = true → waits (if m.e = 0#5 then some 0 else count)))) ∧
    (let u := t.afterPops [memS0 h m, memS1 h]
     let a := u.src u.popped (memS0 h m) l
     t.laneReady cl [memS0 h m, memS1 h] [h.dst.toNat, h.s2.toNat] → h.dst ≠ h.s2 →
     (h.z1 = true ∨ h.s1.toNat ≤ t.regs → s.remote c a = .refused ∨ (s.remote c a = .tile k tl ∧ s.hears c k = true ∧ tl.queue = false) → ∃ s' t', exec (.msgput h m) s = .next s' ∧ (s'.teamAt r).map (·.2) = some t' ∧ status t' 7#64) ∧
     (∀ s1, s.remote c a = .tile k tl → s.hears c k = true → s.tileAt k tl.uid = some tl → tl.queue = true → tl.fmt = 6#4 → tl.layout = 0#4 → tl.conv = none →
       (h.z1 = false → ∀ i, i < (tl.n1.toNat + 1) / 2 → (h.s1.toNat + i) * 1024 + l ∉ t.laneErr) → h.z1 = true ∨ h.s1.toNat + (tl.n1.toNat + 1) / 2 ≤ t.regs → (tl.tail - tl.head).toNat < tl.n0.toNat →
       s.putEntry k tl.uid (tl.tail.toNat % tl.n0.toNat) cl.step (fun i => t.groupWord h (u.src u.popped (memS1 h) l) l i) (List.range tl.n1.toNat) = .ok s1 →
       ∃ s' t', exec (.msgput h m) s = .next s' ∧ (s'.teamAt r).map (·.2) = some t' ∧ status t' 0#64 ∧
         t'.vreg h.dst.toNat l = BitVec.ofNat 64 (tl.n0.toNat - ((tl.tail - tl.head).toNat + 1)) ∧ ∃ q, s'.tileAt k tl.uid = some q ∧ q.tail = tl.tail + 1#32 ∧ q.head = tl.head ∧
         ∀ i, i < tl.n1.toNat → q.read ⟨tl.tail.toNat % tl.n0.toNat, i, 0, 0⟩ none =
           if i < 2 then getElem 32 i (u.src u.popped (memS1 h) l) else if h.z1 then 0 else getElem 32 (i % 2) (t.vreg (h.s1.toNat + i / 2) l))) ∧
    (t.laneReady cl [] [h.dst.toNat, h.s2.toNat] → c.tile m.handle = some tl → c.tileUid tl.uid = some tl → tl.queue = true → h.dst.toNat + (tl.n1.toNat + 1) / 2 ≤ t.regs → tl.n1.toNat ≤ 64 →
     (h.s2.toNat < h.dst.toNat ∨ h.dst.toNat + (tl.n1.toNat + 1) / 2 ≤ h.s2.toNat) → tl.head ≠ tl.tail → s.takerBefore (s.nextWait + l / 32) ⟨r.crew, tl.uid, ⟨0, 0, 0, 0⟩, true, none⟩ = false →
     (∀ i, i < tl.n1.toNat → tl.poisoned ⟨tl.head.toNat % tl.n0.toNat, i, 0, 0⟩ none = false) →
     ∃ s' t', exec (.msgtake h m) s = .next s' ∧ (s'.teamAt r).map (·.2) = some t' ∧ status t' 0#64 ∧ (s'.tileAt r.crew tl.uid).map (·.head) = some (tl.head + 1#32) ∧
       (∀ i, i < tl.n1.toNat → (t'.vreg (h.dst.toNat + i / 2) l).extractLsb' (32 * (i % 2)) 32 = BitVec.ofNat 32 (tl.read ⟨tl.head.toNat % tl.n0.toNat, i, 0, 0⟩ none)))

/-! ### The matrix engine -/

/-- Matrix instructions (11 R241, R242, R247, R255): with good operands and room in the matrix queue each enters the queue of its core with lane 0's operands and the
tiles it names, and is done in the lane stream; neither a register, an accumulator nor memory changes; MMA.pair takes the team's pair number.
Model choices it rests on: notes/assumptions/20.md. -/
def Obligations.MatrixInstructions : Prop :=
  ∀ (s : State) (r : TeamRef) (c : Crew) (t : Team) (cl : Clause) (h : LaneHead),
    s.laneAt r c t cl → (s.queuedOn c.core).length < 8 → t.pending = [] →
    let x := t.executing cl.mask h
    let enters (i : Instr) (f : MCmd → Team → State → Prop) : Prop := ∃ (s' : State) (t' : Team) (m : MCmd), exec i s = .next s' ∧ (s'.teamAt r).map (·.2) = some t' ∧
      s'.matrix = s.matrix ++ [m] ∧ m.instr = i ∧ m.team = r ∧ m.core = c.core ∧ m.clause = cl.uid ∧ m.step = cl.step ∧ m.started = false ∧ m.cursor = 0 ∧ m.phase = .idle ∧
      t'.lidx = t.lidx + 1 ∧ t'.vregs = t.vregs ∧ t'.acc = t.acc ∧ t'.preds = t.preds ∧ s'.mem = s.mem ∧ f m t' s'
    let operand (tl : Tile) (isA : Bool) (q n : Nat) (o : Coord) : Prop := tl.fmt = 14#4 ∧ tl.tagNow = (if isA then 8#4 else 9#4) ∧ q ≤ tl.planes.toNat ∧ tl.poison = [] ∧
      (let k := if isA then o.c1 else o.c0
       k % 32 = 0 ∧ k + 32 * n ≤ ((if isA then tl.n1.toNat else tl.n0.toNat) + 31) / 32 * 32) ∧
      (if isA then o.c0 < tl.n0.toNat else o.c1 < tl.n1.toNat) ∧ o.c2 < tl.n2.toNat ∧ o.c3 < tl.n3.toNat
    (∀ (m : ModMma) (ta tb : Tile),
      let srcs := [mxS0 h, mxS1 h, mxS2 h]
      let u := t.afterPops srcs
      let v (y : Src) : Word := u.src u.popped y 0
      let n := getElem 16 0 (v (mxS2 h))
      t.laneReady cl srcs [] → s.clausesDone r cl.fence = true → x = laneMask t.lanes → 1 ≤ n → n ≤ 2047 → (v (mxS2 h)).toNat < 2 ^ 18 →
      c.tile m.hA = some ta → operand ta true (m.pa1.toNat + 1) n (coordOf (v (mxS0 h))) →
      (c.tile m.hB = some tb → operand tb false (m.pb1.toNat + 1) n (coordOf (v (mxS1 h))) →
        enters (.mma h m) (fun k t' _ => k.src = [v (mxS0 h), v (mxS1 h), v (mxS2 h)] ∧ k.uidA = ta.uid ∧ k.uidB = tb.uid ∧ t'.pairSeq = t.pairSeq)) ∧
      (s.cohortSize c ≠ 1 → (c.leads = true → c.tile m.hB = some tb ∧ operand tb false (m.pb1.toNat + 1) n (coordOf (v (mxS1 h)))) →
        enters (.mmaPair h m) (fun k t' _ => k.src = [v (mxS0 h), v (mxS1 h), v (mxS2 h)] ∧ k.uidA = ta.uid ∧ k.uidB = (if c.leads then tb.uid else 0) ∧ k.pairSeq = t.pairSeq ∧ t'.pairSeq = t.pairSeq + 1#16))) ∧
    (∀ acc : BitVec 2, t.laneReady cl [] [] → x = laneMask t.lanes → enters (.mzero h acc) (fun m _ _ => m.accN = acc.toNat)) ∧
    (∀ acc : BitVec 2, (maskLanes x t.lanes) ≠ [] →
      (let u := t.afterPops [mxS0 h]
       let at_ (l : Nat) : Word := u.src u.popped (mxS0 h) l
       t.laneReady cl [mxS0 h] [h.dst.toNat] → (∀ l, l ∈ maskLanes x t.lanes → t.accErrAt acc.toNat (coordOf (at_ l)) = false) → (∀ l, l ∈ maskLanes x t.lanes → (coordOf (at_ l)).c0 ≤ 127 ∧ (coordOf (at_ l)).c1 ≤ 126 ∧ (coordOf (at_ l)).c2 = 0 ∧ (coordOf (at_ l)).c3 = 0) →
       enters (.mread h acc) (fun m _ _ => m.accN = acc.toNat ∧ m.laneOps = (maskLanes x t.lanes).map (fun l => (l, at_ l, 0#64)))) ∧
      (let u := t.afterPops [mxS0 h, mxS1 h]
       let at_ (l : Nat) : Word := u.src u.popped (mxS0 h) l
       t.laneReady cl [mxS0 h, mxS1 h] [] → (∀ l, l ∈ maskLanes x t.lanes → (coordOf (at_ l)).c0 ≤ 127 ∧ (coordOf (at_ l)).c1 ≤ 126 ∧ (coordOf (at_ l)).c2 = 0 ∧ (coordOf (at_ l)).c3 = 0) →
       enters (.mwrite h acc) (fun m _ _ => m.accN = acc.toNat ∧ m.laneOps = (maskLanes x t.lanes).map (fun l => (l, at_ l, u.src u.popped (mxS1 h) l))))) ∧
    (∀ (m : ModDrain) (tl res : Tile),
      let srcs := [mxS0 h, mxS1 h, mxS2 h]
      let u := t.afterPops srcs
      let v := drainSrc u h m
      let o := coordOf (v.getD 0 0#64)
      let q := coordOf (v.getD 2 0#64)
      let more := if m.dropout || m.rm == 4#3 then nextReg (mxS2 h) h.s2 else []
      t.laneReady cl srcs more → (∀ y ∈ more, y * 1024 ∉ t.laneErr) → x = laneMask t.lanes → t.lctr.toNat + t.lanes / 32 ≤ 65535 →
      m.glob = false → c.tile m.dest = some tl → tl.queue = false → tl.fmt = h.ty → tl.poison = [] → 0 < tl.n0.toNat → 0 < tl.n1.toNat → o.c2 < tl.n2.toNat → o.c3 < tl.n3.toNat →
      (m.residual = true → c.tile m.res = some res ∧ isFloatTy res.fmt = true ∧ res.queue = false ∧ res.poison = [] ∧
        (∀ i j, i < 128 → j < 128 → o.c0 + i < tl.n0.toNat → o.c1 + j < tl.n1.toNat → res.inside { q with c0 := q.c0 + i, c1 := q.c1 + j } = true)) →
      enters (.mdrain h m) (fun k t' s' => k.src = v ∧ k.uidA = tl.uid ∧ k.uidB = (if m.residual then res.uid else 0) ∧ t'.lctr = t.lctr + BitVec.ofNat 16 (t.lanes / 32) ∧
        s' = ({ s with matrix := s.matrix ++ [k], nextCmd := s.nextCmd + 1 }).putTeam r t')) ∧
    (∀ (m : ModDrain) (s1 : State),
      let srcs := [mxS0 h, mxS1 h, mxS2 h]
      let u := t.afterPops srcs
      let v := drainSrc u h m
      let d := cellGet c.globals m.dest.toNat
      let o := drainOrigin m v
      let more := nextReg (mxS0 h) h.s0 ++ if m.dropout || m.rm == 4#3 then nextReg (mxS2 h) h.s2 else []
      t.laneReady cl srcs more → (∀ y ∈ more, y * 1024 ∉ t.laneErr) → x = laneMask t.lanes → t.lctr.toNat + t.lanes / 32 ≤ 65535 →
      m.glob = true → m.residual = false → d ≠ 0#512 → descFmt d = h.ty → descTag d ≠ 8 → descTag d ≠ 9 → descScm d = false → (descShape d).inside (0 :: 0 :: o.drop 2) = true →
      drainElems s c h m (.tensor d) o (drainCells (descShape d) o) = (s1, []) →
      ∃ (t' : Team) (k : MCmd), exec (.mdrain h m) s = .next (({ s1 with matrix := s1.matrix ++ [k], nextCmd := s1.nextCmd + 1 }).putTeam r t') ∧ k.instr = .mdrain h m ∧ k.team = r ∧ k.src = v ∧ k.desc = d ∧
        k.step = cl.step ∧ t'.lidx = t.lidx + 1 ∧ t'.vregs = t.vregs ∧ t'.acc = t.acc ∧ t'.lctr = t.lctr + BitVec.ofNat 16 (t.lanes / 32))

/-- The array (04 R86; 11 R243, R245 to R249, R251, R253, R256, R257; 15 R323): the oldest command that may run and whose accumulator its team
holds is started: MZERO, MREAD and MWRITE are performed at once; MDRAIN reads its sources, and then writes its elements one by one, each
pass's count falling with its last; an MMA runs by chunk steps in ascending order and completes after its last, which empties the tags of the regions that its consume bits name; a replay changes nothing; an
accumulator tile passes to the team that waits for it.
Model choices it rests on: notes/assumptions/34.md and 71.md. -/
def Obligations.MatrixArray : Prop :=
  ∀ (s : State) (core : Nat) (m : MCmd) (c : Crew) (t : Team), s.teamAt m.team = some (c, t) →
    let n := m.accN
    let rest (s' : State) : Prop := s'.matrix = s.matrix.filter (fun y => y.id != m.id) ∧ s'.mem = s.mem
    (∃ s', exec (.shadowLatchReplay core) s = .next s' ∧ s'.crews = s.crews ∧ s'.matrix = s.matrix ∧ s'.mem = s.mem) ∧
    (s.arrayFree core = true → (∀ y, y ∈ s.matrix → y.phase ≠ .withdrawn) →
      ((s.allowedCmds core).filter (fun y => s.accHolder core y.accN == some y.team)).head? = some m →
      (∀ h a, m.instr = .mzero h a → ∃ (s' : State) (t' : Team), exec (.matrixCommandStart core) s = .next s' ∧ (s'.teamAt m.team).map (·.2) = some t' ∧ rest s' ∧
        (∀ k i j, i < 128 → j < 128 → t'.accAt k i j = if k = n then 0 else t.accAt k i j) ∧ { t' with acc := t.acc, accUsed := t.accUsed, accErr := t.accErr, matrixSlot := t.matrixSlot } = t) ∧
      (∀ h a, m.instr = .mread h a → (m.laneOps.map (·.1)).Nodup → (∀ q, q ∈ m.laneOps → q.1 < 1024) →
        ∃ (s' : State) (t' : Team), exec (.matrixCommandStart core) s = .next s' ∧ (s'.teamAt m.team).map (·.2) = some t' ∧ rest s' ∧ { t' with vregs := t.vregs, laneErr := t.laneErr, matrixSlot := t.matrixSlot } = t ∧
          (∀ q, q ∈ m.laneOps → t'.vreg h.dst.toNat q.1 = BitVec.ofNat 64 (t.accAt n (coordOf q.2.1).c0 (coordOf q.2.1).c1 + t.accAt n (coordOf q.2.1).c0 ((coordOf q.2.1).c1 + 1) * 2 ^ 32)) ∧
          (∀ v l, l < 1024 → v ≠ h.dst.toNat ∨ l ∉ m.laneOps.map (·.1) → t'.vreg v l = t.vreg v l)) ∧
      (∀ h a, m.instr = .mwrite h a → (∀ q, q ∈ m.laneOps → (coordOf q.2.1).c0 ≤ 127 ∧ (coordOf q.2.1).c1 ≤ 126) →
        (m.laneOps.flatMap (fun q => [((coordOf q.2.1).c0, (coordOf q.2.1).c1), ((coordOf q.2.1).c0, (coordOf q.2.1).c1 + 1)])).Nodup →
        ∃ (s' : State) (t' : Team), exec (.matrixCommandStart core) s = .next s' ∧ (s'.teamAt m.team).map (·.2) = some t' ∧ rest s' ∧
          { t' with acc := t.acc, accUsed := t.accUsed, accErr := t.accErr, matrixSlot := t.matrixSlot } = t ∧
          (∀ q, q ∈ m.laneOps → t'.accAt n (coordOf q.2.1).c0 (coordOf q.2.1).c1 = getElem 32 0 q.2.2 ∧ t'.accAt n (coordOf q.2.1).c0 ((coordOf q.2.1).c1 + 1) = getElem 32 1 q.2.2)) ∧
      (∀ h k, m.instr = .mma h k → ∃ (s' : State) (t' : Team), exec (.matrixCommandStart core) s = .next s' ∧ s'.matrix = (s.putMCmd { m with started := true }).matrix ∧ s'.mem = s.mem ∧
        (s'.teamAt m.team).map (·.2) = some t' ∧ { t' with matrixSlot := t.matrixSlot } = t)) ∧
    (∀ h md tl, m.instr = .mdrain h md → md.glob = false → s.tileAt m.team.crew m.uidA = some tl → t.pending = [] →
      let o := coordOf (m.src.getD 0 0#64)
      let k := m.src.getD 3 0#64
      let g := m.src.getD 4 0#64
      let w (i j : Nat) : Coord := { o with c0 := o.c0 + i, c1 := o.c1 + j }
      let resid (i j : Nat) : FVal := match s.tileAt m.team.crew m.uidB with
        | some q => decodeF (fmtOf q.fmt) (q.read (let p := coordOf (m.src.getD 2 0#64); { p with c0 := p.c0 + i, c1 := p.c1 + j }) none)
        | none => decodeF f32 0
      let x (i j : Nat) : Nat := if md.residual then encodeF f32 .rne false (addV false (decodeF f32 (t.accAt n i j)) (resid i j)) else t.accAt n i j
      let mix (i j : Nat) (st : BitVec 32) : BitVec 32 := dmixLow (k.extractLsb' 0 32) m.step (BitVec.ofNat 32 (o.c0 + i)) (BitVec.ofNat 32 (o.c1 + j)) st
      let y (i j : Nat) : Nat := if md.dropout then (if (mix i j ((g.extractLsb' 32 32) &&& 0x7FFFFFFF#32)).toNat < getElem 32 1 k then 0 else mulF f32 .rne (x i j) (getElem 32 0 g)) else x i j
      let mode (i j : Nat) : RMode := if md.rm = 4#3 then .rsx (mix i j ((g.extractLsb' 32 32) ||| 0x80000000#32)) else rmodeOf md.rm
      let new (i j v old : Nat) : Nat := if md.add then encodeF (fmtOf h.ty) .rne false (addV false (decodeF (fmtOf h.ty) old) (decodeF f32 v))
        else if h.ty = 8#4 then encodeF f32 (mode i j) h.md (decodeF f32 v) else convertElem h.ty 8#4 (mode i j) h.md v
      let cells := ((List.range 128).filter (fun i => decide (o.c0 + i < tl.n0.toNat))).flatMap (fun i => ((List.range 128).filter (fun j => decide (o.c1 + j < tl.n1.toNat))).map (fun j => (i, j)))
      let pass (i : Nat) : Nat := ((i + 1) * t.bands - 1) / 128
      (m.drain = none → s.arrayFree core = true → (∀ q, q ∈ s.matrix → q.phase ≠ .withdrawn) →
        ((s.allowedCmds core).filter (fun q => s.accHolder core q.accN == some q.team)).head? = some m → (∀ q, q ∈ s.matrix → q.team = m.team → m.ord ≤ q.ord) →
        (∀ cl, t.clauseOf m.clause = some cl → s.clausesDone m.team cl.fence = true) → (md.residual = true → ∃ q, s.tileAt m.team.crew m.uidB = some q) → cells ≠ [] → t.accErr = [] →
        ∃ (s' : State) (t' : Team), exec (.matrixCommandStart core) s = .next s' ∧ (s'.teamAt m.team).map (·.2) = some t' ∧ { t' with lctr := t.lctr, matrixSlot := t.matrixSlot } = t ∧ s'.mem = s.mem ∧
          s'.matrix = (s.putMCmd { m with drain := some (cells.map (fun p => (p.1 * 128 + p.2, y p.1 p.2))) }).matrix) ∧
      (∀ (l : List (Nat × Nat)) (i j v : Nat), m.drain = some l → (l.map (·.1)).Nodup → (i * 128 + j, v) ∈ l → i < 128 → j < 128 → v < 2 ^ 32 → s.matrix = [m] → s.commands = [] → tl.freed = false →
        tl.tracked = false → s.quiesced = false → s.powerLoss = none → 1 ≤ t.bands → t.bands ≤ 32 →
        let left := l.filter (fun q => q.1 != i * 128 + j)
        ∃ t', (((s.drainElem m.id (i * 128 + j)).teamAt m.team).map (·.2)) = some t' ∧ { t' with lctr := t.lctr } = t ∧ (s.drainElem m.id (i * 128 + j)).mem = s.mem ∧
          (s.drainElem m.id (i * 128 + j)).tileAt m.team.crew m.uidA = some (tl.write (w i j) none (new i j v (tl.read (w i j) none))) ∧
          (s.drainElem m.id (i * 128 + j)).matrix = (if left = [] then [] else [{ m with drain := some left }]) ∧
          t'.lctr = (if ∃ q, q ∈ left ∧ pass (q.1 / 128) = pass i then t.lctr else t.lctr - 1#16))) ∧
    (∀ h k ta tb, m.instr = .mma h k → s.runningOn core = some m → s.tileAt m.team.crew m.uidA = some ta → s.tileAt m.team.crew m.uidB = some tb →
      (m.cursor < m.chunks → s.quiesced = false → s.powerLoss = none →
        let pa := k.pa1.toNat + 1
        let pb := k.pb1.toNat + 1
        let ca (i : Nat) : Coord := let a := m.aOrigin; { a with c0 := a.c0 + i, c1 := a.c1 + 32 * m.cursor }
        let cb (j : Nat) : Coord := let b := m.bOrigin; { b with c0 := b.c0 + 32 * m.cursor, c1 := b.c1 + j }
        let dot (i j : Nat) : Int := (List.range 32).foldl (fun z e => z + chunkElem ta (ca i) pa (ca i).c1 ta.n1.toNat e * chunkElem tb (cb j) pb (cb j).c0 tb.n0.toNat e) 0
        let scale (i j : Nat) : Nat := encodeF f32 .rne false (mulV (chunkScale ta (ca i) pa) (chunkScale tb (cb j) pb))
        let term (i j : Nat) : Nat := encodeF f32 .rne false (mulV (intV (dot i j)) (decodeF f32 (scale i j)))
        ∃ t', ((s.chunkStep core).teamAt m.team).map (·.2) = some t' ∧ { t' with acc := t.acc, accUsed := t.accUsed } = t ∧ (s.chunkStep core).mem = s.mem ∧
          (s.chunkStep core).matrix = (s.putMCmd { m with cursor := m.cursor + 1 }).matrix ∧
          (∀ a i j, i < 128 → j < 128 → t'.accAt a i j = if a = n ∧ (ca i).c0 < ta.n0.toNat ∧ (cb j).c1 < tb.n1.toNat then addF f32 .rne (t.accAt n i j) (term i j) % 2 ^ 32 else t.accAt a i j)) ∧
      (m.chunks ≤ m.cursor → s.consumeReady m = true → ta.freed = false → tb.freed = false → ∃ s', exec (.mmaComplete core) s = .next s' ∧ rest s' ∧ (s'.teamAt m.team).map (·.2) = some t ∧
        (let b (i : Nat) : Bool := (m.src.getD 2 0#64).getLsbD (16 + i)
         ∃ ta' tb', s'.tileAt m.team.crew m.uidA = some ta' ∧ s'.tileAt m.team.crew m.uidB = some tb' ∧
           (b 0 = false → m.uidA ≠ m.uidB ∨ b 1 = false → ta' = ta) ∧ (b 1 = false → m.uidA ≠ m.uidB ∨ b 0 = false → tb' = tb) ∧
           (ta.conv = none → { ta' with full := ta.full } = ta) ∧ (tb.conv = none → { tb' with full := tb.full } = tb) ∧
           (b 0 = true → ta.tags = true → ta.conv = none → ∀ i j w, i < 128 → j < m.chunks → m.aOrigin.c0 + i < ta.n0.toNat → w ≤ ta.planes.toNat →
             ta'.isEmpty { m.aOrigin with c0 := m.aOrigin.c0 + i, c1 := m.aOrigin.c1 + 32 * j } (some w) = true) ∧
           (b 1 = true → m.uidB ≠ 0 → tb.tags = true → tb.conv = none → ∀ i j w, i < 128 → j < m.chunks → m.bOrigin.c1 + i < tb.n1.toNat → w ≤ tb.planes.toNat →
             tb'.isEmpty { m.bOrigin with c0 := m.bOrigin.c0 + 32 * j, c1 := m.bOrigin.c1 + i } (some w) = true)))) ∧
    (∀ acc : BitVec 2, (s.allowedCmds core).find? (fun y => y.accN == acc.toNat && s.accHolder core acc.toNat != some y.team) = some m → s.matrix = [m] → m.started = false → m.phase = .idle →
      ∃ s', exec (.accumulatorSwap core acc) s = .next s' ∧ s'.accHolder core acc.toNat = some m.team ∧ { s' with accHold := s.accHold } = s)

/-- Paired MMAs (11 R252 to R254; 18 R356): a side that is next offers its fields to the partner; with the partner's equal offer the leader arms for 64 pair-clock cycles on and the follower takes the
same start, unequal fields or a partner that cannot join end the MMA with canonical NaNs; both arrays start at the agreed cycle; an offer unanswered for 65,536 cycles is withdrawn, and the side serves another command before it offers again. -/
def Obligations.PairedMma : Prop :=
  ∀ (s : State) (core : Nat) (m p : MCmd) (c : Crew) (t : Team) (h : LaneHead) (k : ModMma), m.instr = .mmaPair h k → m.core = core → s.teamAt m.team = some (c, t) → s.matrix.find? (fun y => y.id == m.id) = some m →
    let nan (s' : State) (x : MCmd) (old : Team) : Prop := ∃ t' : Team, (s'.teamAt x.team).map (·.2) = some t' ∧ { t' with acc := old.acc, accUsed := old.accUsed, accErr := old.accErr, matrixSlot := old.matrixSlot } = old ∧
      (∀ a i j, i < 128 → j < 128 → t'.accAt a i j = if a = x.accN then 0x7FC00000 else old.accAt a i j) ∧ (∀ y, y ∈ s'.matrix → y.id ≠ x.id)
    let kept (s' : State) : Prop := s'.mem = s.mem ∧ ∀ r u, (s.teamAt r).map (·.2) = some u → ∃ u' : Team, (s'.teamAt r).map (·.2) = some u' ∧ { u' with matrixSlot := u.matrixSlot } = u
    let held := (s.allowedCmds core).filter (fun y => s.accHolder core y.accN == some y.team)
    (s.arrayFree core = true → m.phase = .withdrawn → ∀ (y : MCmd) (h2 : LaneHead) (k2 : ModMma), (held.filter (fun x => x.phase != .withdrawn)).head? = some y → y.instr = .mma h2 k2 →
      ∃ s', exec (.matrixCommandStart core) s = .next s' ∧ kept s' ∧
        s'.matrix = (s.putMCmd { y with started := true }).matrix.map (fun x => if x.core = core ∧ x.phase = .withdrawn then { x with phase := .idle } else x)) ∧
    (s.arrayFree core = true → held.head? = some m → (∀ y, y ∈ s.matrix → y.core = core → y.phase ≠ .withdrawn) →
      (∀ r, s.partnerGone m = false → s.partnerRef m = some r →
        ∃ s', exec (.matrixCommandStart core) s = .next s' ∧ kept s' ∧ s'.matrix = (s.putMCmd { m with phase := .offered 0 }).matrix ∧
          s'.offers = s.offers ++ [Offer.mk (core ^^^ 1) r m.pairSeq (k.pa1.toNat + 1) (k.pb1.toNat + 1) m.chunks]) ∧
      (s.partnerGone m = true → ∃ s', exec (.matrixCommandStart core) s = .next s' ∧ nan s' m t)) ∧
    (∀ age, m.phase = .offered age → s.offeredOn core = some m →
      (s.partnerGone m = true → ∃ s', exec (.pairOffer core) s = .next s' ∧ nan s' m t) ∧
      (s.partnerGone m = false →
        (s.offers.find? m.sentTo = none → exec (.pairOffer core) s = .next s) ∧
        (∀ o, s.offers.find? m.sentTo = some o → s.partnerCmd m = some p →
          (o.pa = k.pa1.toNat + 1 → o.pb = k.pb1.toNat + 1 → o.n = m.chunks →
            (core % 2 = 0 → exec (.pairOffer core) s = .next (s.putMCmd { m with phase := .armed (s.pairNow core + 64) })) ∧ (core % 2 = 1 → exec (.pairOffer core) s = .next s)) ∧
          (o.pa ≠ k.pa1.toNat + 1 ∨ o.pb ≠ k.pb1.toNat + 1 ∨ o.n ≠ m.chunks → m.team.crew ≠ p.team.crew → m.id ≠ p.id → ∀ c2 t2, s.teamAt p.team = some (c2, t2) →
            ∃ s', exec (.pairOffer core) s = .next s' ∧ nan s' m t ∧ nan s' p t2))) ∧
      (∀ n, s.partnerCmd m = some p →
        (p.phase = .armed n → core % 2 = 1 → exec (.pairStart core n) s = .next (s.putMCmd { m with phase := .armed n })) ∧
        (p.phase ≠ .armed n ∨ core % 2 = 0 → exec (.pairStart core n) s = .next s)) ∧
      (s.offers.any m.sentTo = false → (65536 ≤ age → ∃ s', exec (.pairOfferWithdraw core) s = .next s' ∧ s'.matrix = (s.putMCmd { m with phase := .withdrawn }).matrix ∧
          (∀ o, o ∈ s'.offers ↔ o ∈ s.offers ∧ s.sentBy m o = false) ∧ s'.crews = s.crews) ∧
        (age < 65536 → exec (.pairOfferWithdraw core) s = .next s))) ∧
    (∀ n, m.phase = .armed n → s.matrix.find? (fun y => y.core == core && (match y.phase with | .armed _ => true | _ => false)) = some m → s.partnerCmd m = some p →
      (p.phase = .armed n → n ≤ s.pairNow core → ∃ s', exec (.pairStartCycle core) s = .next s' ∧
        s'.matrix = ((s.putMCmd { m with phase := .running, started := true }).putMCmd { p with phase := .running, started := true }).matrix ∧ s'.crews = s.crews) ∧
      (s.pairNow core < n ∨ p.phase ≠ .armed n → exec (.pairStartCycle core) s = .next s)) ∧
    (s.runningOn core = some m → s.partnerCmd m = some p → p.started = true → m.id ≠ p.id → p.instr = .mmaPair h k → m.chunks ≤ m.cursor → p.chunks ≤ p.cursor → s.consumeReady m = true → s.consumeReady p = true →
      ∃ s', exec (.mmaComplete core) s = .next s' ∧ (∀ y, y ∈ s'.matrix ↔ y ∈ s.matrix ∧ y.id ≠ m.id ∧ y.id ≠ p.id) ∧ (s'.teamAt m.team).map (·.2) = some t)

/-! ### The ends of waits, and first touch -/

/-- A wait ends with its instruction's effect once its condition holds, and with TIMEOUT when its count runs out first (02 R38, R41; 08 R160, R166, R179, R181, R182; 10 R222, R226, R228, R231, R233,
R234); YIELD
waits for its next turn; a wait whose condition does not hold goes on, and so does one whose condition holds while an earlier waiter is served first. A gate wait ends
by the phase that has woken it. An RLD takes its value when its answer comes; one whose crew has not started when its count runs out gets TIMEOUT.
Model choices it rests on: notes/assumptions/17.md, 20.md, 39.md, 40.md and 58.md. -/
def Obligations.WaitsEnd : Prop :=
  ∀ (s : State) (r : TeamRef) (c : Crew) (t : Team) (l : Nat), s.teamAt r = some (c, t) → s.crewRuns c = true → t.faulted = false →
    (s.focus = some r → exec .yield s = .next (s.beginWait r .yield 31#5 none)) ∧
    (∀ w : ScalarWait, t.swait = some w →
      (w.instr = .yield → exec (.teamWake r .scalar l) s = .next (s.putTeam r { t.advance 4 with swait := none })) ∧
      (∀ d a e, w.instr = .bwait d a e →
        let open_ (m : Command) : Prop := m.crew = r.crew ∧ m.team = r.team ∧ ((t.sreg a).setWidth 16 - m.ticket.extractLsb' 32 16).toNat < 32768
        ((∀ m, m ∈ s.commands → ¬open_ m) → exec (.teamWake r .scalar l) s = .next (s.putTeam r { t.status d 0 4 with swait := none }) ∧
          (w.remaining = some 0 → exec (.waitTimeout r .scalar l) s = .next (s.putTeam r { t.status d 0 4 with swait := none }))) ∧
        ((∃ m, m ∈ s.commands ∧ open_ m) → exec (.teamWake r .scalar l) s = .next s ∧
          (w.remaining = some 0 → exec (.waitTimeout r .scalar l) s = .next (s.putTeam r { t.status d 1 4 with swait := none })) ∧
          (w.remaining ≠ some 0 → exec (.waitTimeout r .scalar l) s = .next s))) ∧
      (∀ d a b z h e k tl, w.instr = .sldf d a b z h e k → c.element h (t.sreg a) (8 * sizeBytes z) tl → tl.tags = true → w.want = some ⟨r.crew, tl.uid, coordOf (t.sreg a), true, none⟩ →
        tl.poisoned (coordOf (t.sreg a)) none = false →
        (s.servable w.began ⟨r.crew, tl.uid, coordOf (t.sreg a), true, none⟩ = true →
          exec (.teamWake r .scalar l) s = .next ((if k then s.tileTag r.crew tl.uid (coordOf (t.sreg a)) false else s).putTeam r
            { (t.setSreg d (loadedAs z (tl.read (coordOf (t.sreg a)) none))).status b 0 8 with swait := none })) ∧
        (s.tagHolds ⟨r.crew, tl.uid, coordOf (t.sreg a), true, none⟩ = false → w.remaining = some 0 →
          exec (.waitTimeout r .scalar l) s = .next (s.putTeam r { t.status b 1 8 with swait := none })) ∧
        (s.tagHolds ⟨r.crew, tl.uid, coordOf (t.sreg a), true, none⟩ = true → s.servable w.began ⟨r.crew, tl.uid, coordOf (t.sreg a), true, none⟩ = false →
          (s.tileAt r.crew tl.uid).any (fun x => !x.freed) = true → w.remaining = some 0 → exec (.waitTimeout r .scalar l) s = .next s)) ∧
      (∀ d a b h e, w.instr = .gwait d a b h e →
        (w.woken = none → exec (.teamWake r .scalar l) s = .next s ∧
          (w.want = none → w.remaining = some 0 → exec (.waitTimeout r .scalar l) s = .next (s.putTeam r { t.status d 1 8 with swait := none }))) ∧
        (∀ phase, w.woken = some phase →
          let dist := (phase + 2 ^ 16 - (t.sreg b).toNat % 2 ^ 16) % 2 ^ 16
          dist ≠ 0 → exec (.teamWake r .scalar l) s = .next (s.putTeam r { t.status d (if dist = 1 then 0 else 2) 8 with swait := none }) ∧
            (w.remaining = some 0 → exec (.waitTimeout r .scalar l) s = .next (s.putTeam r { t.status d (if dist = 1 then 0 else 2) 8 with swait := none })))) ∧
      (∀ d a b z h e tl, let g : TagWant := ⟨r.crew, tl.uid, coordOf (t.sreg a), false, none⟩
        w.instr = .sste d a b z h e → c.element h (t.sreg a) (8 * sizeBytes z) tl → tl.tags = true → w.want = some g → t.streamIdle .scalar = true → tl.tracked = false → s.mmaHeld r.crew tl.uid g.c = false →
        (s.servable w.began g = true → exec (.teamWake r .scalar l) s = .next ((s.putTile r.crew ((tl.write g.c none (t.sreg d).toNat).setTag g.c none true)).modTeam r
          (fun u => { u.status b 0 8 with swait := none }))) ∧
        (s.servable w.began g = false → exec (.teamWake r .scalar l) s = .next s) ∧
        (s.tagHolds g = false → w.remaining = some 0 → exec (.waitTimeout r .scalar l) s = .next (s.putTeam r { t.status b 1 8 with swait := none }))) ∧
      (∀ d a e, w.instr = .mwait d a e → w.want = none → ∀ (s1 : State) (pa : Nat), s.reaches c.core (t.sreg a).toNat 8 false s1 pa →
        let v : Word := BitVec.ofNat 64 (readLE s1.mem pa 8)
        (v ≠ t.sreg d → exec (.teamWake r .scalar l) s = .next (s1.putTeam r { t.result d v 4 with swait := none })) ∧
        (v = t.sreg d → exec (.teamWake r .scalar l) s = .next s ∧
          (w.remaining = some 0 → exec (.waitTimeout r .scalar l) s = .next (s.putTeam r { t.result d (1#16 ++ (t.sreg d).setWidth 48) 4 with swait := none })))) ∧
      (∀ d a e, w.instr = .rgrow d a e → w.want = none → (t.sreg a).toNat % 8 = 0 → t.regs < (t.sreg a).toNat →
        let n := (t.sreg a).toNat
        let fits := s.coreRegsUsed c.core + t.lanes * (n - t.regs) ≤ 131072
        (fits → s.growBefore c.core w.began = false → (∀ k, k ∈ s.residents c.core → ∀ x, s.crewAt k = some x → x.mirrored = false) → r.crew ∈ s.residents c.core →
          exec (.teamWake r .scalar l) s = .next (s.putTeam r { { t with regs := n }.status d 0 4 with swait := none })) ∧
        (¬fits → exec (.teamWake r .scalar l) s = .next s ∧
          (w.remaining = some 0 → exec (.waitTimeout r .scalar l) s = .next (s.putTeam r { t.status d 1 4 with swait := none })))) ∧
      (∀ d a e (b : WlBlock), w.instr = .tdwait d a e → w.want = none → let set := (t.sreg a).toNat
        s.changeDue r set = false → s.wlBlock c.core set = some b →
        (∀ s2, b.inflight = 0 → b.appended = b.taken → s.putWlBlock c.core set { b with state := 1 } t.stepNow = some s2 →
          exec (.teamWake r .scalar l) s = .next (s2.modTeam r (fun u => { u.status d 0 4 with swait := none }))) ∧
        (0 < b.inflight → b.state = 0 → exec (.teamWake r .scalar l) s = .next s ∧
          (w.remaining = some 0 → exec (.waitTimeout r .scalar l) s = .next (s.putTeam r { t.status d 1 4 with swait := none })))) ∧
      (∀ d a e (b : WlBlock) (tl : Tile) (head v : Nat), w.instr = .wltake d a e → w.want = none → let k := t.take a
        s.changeDue r k.set = false → s.wlBlock c.core k.set = some b → k.list < b.lists → k.tile c = some tl →
        (∀ s2, b.inflight = 0 → b.appended = b.taken → s.putWlBlock c.core k.set { b with state := 1 } t.stepNow = some s2 →
          exec (.teamWake r .scalar l) s = .next (s2.modTeam r (fun u => { u.result d 0#64 4 with swait := none }))) ∧
        (0 < b.inflight → b.state = 0 → s.wlEntry c.core k.set k.list = some (head, head) → exec (.teamWake r .scalar l) s = .next s ∧
          (w.remaining = some 0 → exec (.waitTimeout r .scalar l) s = .next (s.putTeam r { t.result d 0x1000000000000#64 4 with swait := none }))) ∧
        (∀ s1 s2 s3 : State, 0 < b.inflight → b.state = 0 → s.wlEntry c.core k.set k.list = some (head, head + 1) → s.takeBefore w.began k = false → s.wlHoles = [] → s.wlItems = [] → s.poison = [] →
          1 ≤ k.m → s.wlRead c.core (b.itemAt k.list head) 8 = some v → s.tileWrite r.crew tl.uid k.at_ none v t.stepNow false = .ok s1 →
          s1.putWlEntry c.core k.set k.list (head + 1) (head + 1) t.stepNow = some s2 →
          s2.putWlBlock c.core k.set { b with taken := b.taken + 1, inflight := b.inflight + 1 } t.stepNow = some s3 →
          ∃ (s' : State) (t' : Team), exec (.teamWake r .scalar l) s = .next s' ∧ { s' with crews := s3.crews, wlHoles := s3.wlHoles } = s3 ∧ (s'.teamAt r).map (·.2) = some t' ∧
            t'.swait = none ∧ t'.pc = t.pc + 4#64 ∧ (∀ x, t'.sreg x = (t.setSreg d 1#64).sreg x) ∧ (t'.wl.find? (fun w => w.set == k.set)) = some ⟨k.set, 1, false⟩))) ∧
    (∀ (w : LaneWait) (h : LaneHead) (m : ModM) (g : TagWant) (tl : Tile), t.lwaits = [w] → w.lane = l → l < 1024 → w.instr = .tldf h m → w.want = some g → s.tileAt g.crew g.uid = some tl → tl.freed = false →
      t.restart = none → h.dst ≠ h.s2 → selIndex m.sel < 64 / elemWidth h.ty →
      (s.servable w.began g = true → tl.poisoned g.c g.blk = false →
        ∃ (s' : State) (t' : Team), exec (.teamWake r .lane l) s = .next s' ∧ (s'.teamAt r).map (·.2) = some t' ∧ t'.lwaits = [] ∧ t'.lidx = t.lidx + 1 ∧ t'.vreg h.s2.toNat l = 0#64 ∧
          t'.laneElem (elemWidth h.ty) h.dst.toNat l (selIndex m.sel) = tl.read g.c g.blk % 2 ^ elemWidth h.ty ∧
          s'.tileAt g.crew g.uid = some (if m.consume then tl.setTag g.c g.blk false else tl) ∧ sameBytes s s') ∧
      (s.servable w.began g = false → exec (.teamWake r .lane l) s = .next s ∧
        (w.remaining = some 0 → s.tagHolds g = true → exec (.waitTimeout r .lane l) s = .next s) ∧
        (w.remaining = some 0 → s.tagHolds g = false → ∃ t', exec (.waitTimeout r .lane l) s = .next (s.putTeam r t') ∧ t'.lwaits = [] ∧ t'.lidx = t.lidx + 1 ∧ t'.vreg h.s2.toNat l = 1#64 ∧
          (∀ v k, k < 1024 → v ≠ h.s2.toNat ∨ k ≠ l → t'.vreg v k = t.vreg v k)) ∧
        (w.remaining ≠ some 0 → exec (.waitTimeout r .lane l) s = .next s))) ∧
    (∀ (w : LaneWait) (h : LaneHead) (m : ModM) (g : TagWant) (tl : Tile), t.lwaits = [w] → w.lane = l → l < 1024 → w.want = some g → s.tileAt g.crew g.uid = some tl → tl.freed = false → t.restart = none →
      let done (i : Instr) (t' : Team) : Prop := ∃ s', exec i s = .next s' ∧ (s'.teamAt r).map (·.2) = some t' ∧ t'.lwaits = [] ∧ t'.lidx = t.lidx + 1 ∧ sameBytes s s'
      let v := getElem (elemWidth h.ty) (selIndex m.sel) w.b
      (w.instr = .tldIfempty h m → h.dst ≠ h.s2 → selIndex m.sel < 64 / elemWidth h.ty → s.servable w.began g = true → tl.poisoned g.c g.blk = false →
        ∃ t', done (.teamWake r .lane l) t' ∧ t'.vreg h.s2.toNat l = 0#64 ∧ t'.laneElem (elemWidth h.ty) h.dst.toNat l (selIndex m.sel) = tl.read g.c g.blk % 2 ^ elemWidth h.ty) ∧
      (w.instr = .tste h m ∨ w.instr = .tstIffull h m → tl.tracked = false → s.mmaHeld g.crew g.uid g.c = false → s.servable w.began g = true →
        ∃ s' t', exec (.teamWake r .lane l) s = .next s' ∧ (s'.teamAt r).map (·.2) = some t' ∧ t'.lwaits = [] ∧ t'.lidx = t.lidx + 1 ∧ t'.vreg h.s2.toNat l = 0#64 ∧ sameBytes s s' ∧
          s'.tileAt g.crew g.uid = some (if w.instr = .tste h m then (tl.write g.c g.blk v).setTag g.c g.blk true else tl.write g.c g.blk v)) ∧
      (w.instr = .tste h m ∨ w.instr = .tstIffull h m ∨ w.instr = .tldIfempty h m → s.tagHolds g = false → exec (.teamWake r .lane l) s = .next s ∧
        (w.remaining = some 0 → ∃ t', done (.waitTimeout r .lane l) t' ∧ t'.vreg h.s2.toNat l = 1#64 ∧ (∀ v k, k < 1024 → v ≠ h.s2.toNat ∨ k ≠ l → t'.vreg v k = t.vreg v k))) ∧
      (w.instr = .msgtake h m → tl.n1.toNat ≤ 64 → h.dst.toNat + (tl.n1.toNat + 1) / 2 ≤ 512 → (h.s2.toNat < h.dst.toNat ∨ h.dst.toNat + (tl.n1.toNat + 1) / 2 ≤ h.s2.toNat) →
        (tl.head ≠ tl.tail → s.takerBefore w.began g = false → (∀ i, i < tl.n1.toNat → tl.poisoned ⟨tl.head.toNat % tl.n0.toNat, i, 0, 0⟩ none = false) →
          ∃ s' t', exec (.teamWake r .lane l) s = .next s' ∧ (s'.teamAt r).map (·.2) = some t' ∧ t'.lwaits = [] ∧ t'.lidx = t.lidx + 1 ∧ t'.vreg h.s2.toNat l = 0#64 ∧
            (s'.tileAt g.crew g.uid).map (·.head) = some (tl.head + 1#32) ∧
            (∀ i, i < tl.n1.toNat → (t'.vreg (h.dst.toNat + i / 2) l).extractLsb' (32 * (i % 2)) 32 = BitVec.ofNat 32 (tl.read ⟨tl.head.toNat % tl.n0.toNat, i, 0, 0⟩ none))) ∧
        (tl.head = tl.tail → exec (.teamWake r .lane l) s = .next s ∧
          (w.remaining = some 0 → ∃ t', done (.waitTimeout r .lane l) t' ∧ t'.vreg h.s2.toNat l = 1#64)))) ∧
    (∀ (w : LaneWait) (h : LaneHead) (m : ModM) (k : Nat) (q : Tile), t.lwaits = [w] → w.lane = l → l < 1024 → w.want = none → t.restart = none → h.dst ≠ h.s2 →
      let done (i : Instr) (t' : Team) : Prop := ∃ s', exec i s = .next s' ∧ (s'.teamAt r).map (·.2) = some t' ∧ t'.lwaits = [] ∧ t'.lidx = t.lidx + 1 ∧ sameBytes s s'
      (w.instr = .rld h m → s.remote c w.a = .tile k q → s.hears c k = true → q.queue = false → q.fmt ≠ 14#4 → h.ty ≠ 14#4 → q.width = elemWidth h.ty → m.sel ≠ 0#5 → selIndex m.sel < 64 / elemWidth h.ty →
        q.inside (coordOf w.b) = true → q.poisoned (coordOf w.b) none = false →
        ∃ t', done (.teamWake r .lane l) t' ∧ t'.vreg h.s2.toNat l = 0#64 ∧ t'.laneElem (elemWidth h.ty) h.dst.toNat l (selIndex m.sel) = q.read (coordOf w.b) none % 2 ^ elemWidth h.ty) ∧
      (w.instr = .msgput h m → s.remote c w.a = .tile k q → s.hears c k = true → q.queue = true → h.z1 = true ∨ h.s1.toNat + (q.n1.toNat + 1) / 2 ≤ t.regs → t.laneErr = [] →
        (∀ s1, (q.tail - q.head).toNat < q.n0.toNat →
          s.putEntry k q.uid (q.tail.toNat % q.n0.toNat) t.headStep (fun i => t.groupWord h w.b l i) (List.range q.n1.toNat) = .ok s1 →
          ∃ s' t', exec (.teamWake r .lane l) s = .next s' ∧ (s'.teamAt r).map (·.2) = some t' ∧ t'.lwaits = [] ∧ t'.lidx = t.lidx + 1 ∧ t'.vreg h.s2.toNat l = 0#64 ∧
            t'.vreg h.dst.toNat l = BitVec.ofNat 64 (q.n0.toNat - ((q.tail - q.head).toNat + 1)) ∧ (s'.tileAt k q.uid).map (·.tail) = (s1.tileAt k q.uid).map (fun x => x.tail + 1#32)) ∧
        (q.n0.toNat ≤ (q.tail - q.head).toNat → exec (.teamWake r .lane l) s = .next s ∧
          (w.remaining = some 0 → ∃ t', done (.waitTimeout r .lane l) t' ∧ t'.vreg h.s2.toNat l = 1#64 ∧ t'.vreg h.dst.toNat l = t.vreg h.dst.toNat l)))) ∧
    (∀ (w : LaneWait) (h : LaneHead) (m : ModM), t.lwaits = [w] → w.lane = l → l < 1024 → w.instr = .rld h m → w.want = none → w.remaining = some 0 → t.restart = none → s.remote c w.a = .notStarted →
      ∃ (s' : State) (t' : Team), exec (.waitTimeout r .lane l) s = .next s' ∧ (s'.teamAt r).map (·.2) = some t' ∧ t'.lwaits = [] ∧ t'.lidx = t.lidx + 1 ∧ t'.vreg h.s2.toNat l = 1#64 ∧
        (∀ v k, k < 1024 → v ≠ h.s2.toNat ∨ k ≠ l → t'.vreg v k = t.vreg v k) ∧ sameBytes s s')

/-! ### Placement -/

/-- Residency (02 R29, R31, R35, R42; 13 R286, R287, R291 to R293; 17 R345): a cohort that its distributor may place starts its crews with fresh teams; a crew that
may be evicted leaves its core with its state kept; a faulted crew is held with event 0x0A for each faulted team; priorities rise with age; an idle distributor steals. A
package that is stopped places and evicts nothing.
Model choices it rests on: notes/assumptions/41.md, 56.md and 62.md. -/
def Obligations.Placement : Prop :=
  ∀ s : State,
    let leaves (i : Instr) (k : Nat) (c : Crew) (f : Crew → State → Prop) : Prop := ∃ (s' : State) (c' : Crew), exec i s = .next s' ∧ s'.crewAt k = some c' ∧ c'.place = none ∧ c'.teams = c.teams.map Team.landVotes ∧
      c'.tiles = c.tiles ∧ c'.lastRegion = (match c.place with | some core => coreRegion core | none => c.lastRegion) ∧ (∀ p, p ∈ s'.accHold → p.2.crew ≠ k) ∧ s'.mem = s.mem ∧ f c' s'
    (s.active = false → ∀ a b g z : Nat, exec (.crewPlace a b g z) s = .next s ∧ exec (.crewEvict a) s = .next s ∧ exec (.crewFaultSave a) s = .next s ∧ exec (.rgrowDeadlockEvict a) s = .next s ∧
      exec (.priorityAging a b) s = .next s ∧ exec (.priorityEvict a) s = .next s ∧ exec (.cohortSteal a) s = .next s) ∧
    (s.active = true →
      (∀ (lp k g slot i : Nat) (w : Waiting) (l : Launch), (s.waiting (g / 3)).find? (fun w => w.launch == lp && w.cohort == k) = some w → w.evicted = none → s.mayPlace (g / 3) w none (s.waiting (g / 3)) = true →
        s.launches[lp]? = some l → s.fitsAt (recCohort l.record) (s.needsOf w) g slot = true → (l.members k).filter l.unstarted = [i] →
        ∃ (s' : State) (c' : Crew), exec (.crewPlace lp k g slot) s = .next s' ∧ s'.crews.length = s.crews.length + 1 ∧ s'.crewAt s.crews.length = some c' ∧ c'.place = some (4 * g + slot + i % recCohort l.record) ∧
          c'.launchId = l.id ∧ c'.crewId = BitVec.ofNat 32 i ∧ c'.tiles = l.tiles ∧ c'.state = .live ∧ c'.teams.length = recTeams l.record ∧
          (∀ (j : Nat) (t' : Team), c'.teams[j]? = some t' → t'.id = j ∧ t'.lanes = recLanes l.record ∧ t'.regs = recRegs l.record ∧ t'.priv = recPriv l.record ∧ t'.pc = BitVec.ofNat 64 (recSentry l.record) ∧
            t'.queue = [] ∧ t'.pending = [] ∧ (∀ a, t'.sreg a = 0#64) ∧ (∀ v n, t'.vreg v n = 0#64) ∧ (∀ a n m, t'.accAt a n m = 0)) ∧
          (∃ l', s'.launches[lp]? = some l' ∧ l'.unstarted i = false ∧ l'.epri = recPriority l.record ∧ l'.id = l.id ∧ (∀ j, j ≠ i → l'.unstarted j = l.unstarted j)) ∧ s'.mem = s.mem) ∧
      (∀ (k : Nat) (c : Crew), s.crewAt k = some c → s.liveCohort c = [k] →
        (∀ core, c.place = some core → s.closedCores.contains core = true → s.mayEvict k = true →
          (c.teams.any (·.faulted) = false → leaves (.crewEvict k) k c (fun _ s' => s'.events = s.events)) ∧
          (c.teams.any (·.faulted) = true → c.poolZ = none → leaves (.crewEvict k) k c (fun c' s' => c'.heldFaulted = true ∧ raised s s' 0x0A (c.teams.countP (·.faulted))))) ∧
        (c.place.isSome = true → c.state = .live → c.teams.any (·.faulted) = true → s.drained k = true → (∀ t, t ∈ c.teams → s.laneAtStop c t = true) → c.poolZ = none →
          leaves (.crewFaultSave k) k c (fun c' s' => c'.heldFaulted = true ∧ raised s s' 0x0A (c.teams.countP (·.faulted)))) ∧
        (∀ core, c.place = some core → s.youngest ((s.residents core).filter s.mayChoose) = some k →
          (∀ j d, j ∈ s.residents core → s.crewAt j = some d → ∀ t, t ∈ d.teams → (s.blocked d t || t.faulted || t.finished) = true) →
          (∃ j d t, j ∈ s.residents core ∧ s.crewAt j = some d ∧ t ∈ d.teams ∧ s.blocked d t = true ∧ t.growWant.isSome = true) →
          (s.cohortDrained k = false → exec (.rgrowDeadlockEvict core) s = .next s) ∧
          (s.cohortDrained k = true → leaves (.rgrowDeadlockEvict core) k c (fun c' s' => (c.teams.any (·.faulted) = false → s'.events = s.events) ∧ (c.teams.any (·.faulted) = true → c'.heldFaulted = true)))) ∧
        (∀ (core region p : Nat), c.place = some core →
          (((s.waiting region).filter (fun w => !s.fitsRegion (s.cohortZ w) (s.needsOf w) region)).map (·.epri)).max? = some p →
          s.victims region p = [k] → (s.cohortDrained k = false → exec (.priorityEvict region) s = .next s) ∧
          (s.cohortDrained k = true → leaves (.priorityEvict region) k c (fun _ s' => s'.events = s.events)))) ∧
      (∀ (lp region : Nat) (l : Launch), s.launches[lp]? = some l → s.inBacklog l region = true → l.epri < min 7 (recPriority l.record + (cellGet l.aging region).toNat / 2 ^ 18) →
        exec (.priorityAging lp region) s = .next { s with launches := s.launches.set lp { l with epri := min 7 (recPriority l.record + (cellGet l.aging region).toNat / 2 ^ 18) } }) ∧
      (∀ (region v : Nat) (w : Waiting) (l : Launch), region < s.regions → s.regionIdle region = true →
        ((List.range s.regions).filter (fun q => q != region)).find? (fun q => ((List.range s.regions).filter (fun q => q != region)).all (fun x => decide (s.backlogLength x ≤ s.backlogLength q))) = some v →
        0 < s.backlogLength v → (s.waiting v).find? (fun w => s.stealable v w && s.fitsRegion (s.cohortZ w) (s.needsOf w) region) = some w → s.launches[w.launch]? = some l →
        ∃ st, exec (.cohortSteal region) s = .next { s with launches := s.launches.set w.launch { l with stolen := st } } ∧ (w.cohort, region) ∈ st ∧
          (∀ q, q.1 ≠ w.cohort → (q ∈ st ↔ q ∈ l.stolen))))

/-! ### Leases, scores, capacity -/

/-- Test leases and scores (13 R294 to R298; 20 R381 to R400): a unit that is due drains with a capacity change, a deferred core waits; an empty unit is tested while its
spare stands in; a verdict returns or retires it; scores rise by R389 and decay by a thirty-second; an uncorrectable line is poisoned; teams are notified.
Model choices it rests on: notes/assumptions/6.md, 31.md, 44.md, 56.md and 68.md. -/
def Obligations.TestLeases : Prop :=
  ∀ s : State,
    let alone (u : DevUnit) : Prop := ∀ v, v ∈ groupUnits u → v ≠ u → (s.unit v).state = 0 ∨ (s.unit v).state = 6 ∨ (s.unit v).state = 7
    let quiet : Prop := ∀ y, y ∈ s.units → (s.unit y.u).state ≠ 1 ∧ (s.unit y.u).state ≠ 2
    (∀ u, s.slotIsDue u = false → (s.unit u).state = 0 ∨ (s.unit u).state = 6 → exec (.leaseDue u) s = .next s) ∧
    (∀ u, s.slotIsDue u = true → s.leasable u = false → exec (.leaseDue u) s = .next (s.useSlot u)) ∧
    (∀ u, s.active = true → s.slotIsDue u = true → s.leasable u = true → alone u →
      let x := s.unit u
      let drains (s' : State) : Prop := (s'.unit u).state = 3 ∧ (s'.unit u).slot = x.slot ∧ s'.capGen = s.capGen + 1#32 ∧ s'.slotsTaken u = s.slotsTaken u + 1 ∧ s'.mem = s.mem ∧ s'.launches = s.launches
      (∀ g p, u = .core g p → x.state = 0 →
        (s.defers x.slot = false → ∃ s', exec (.leaseDue u) s = .next s' ∧ drains s' ∧ x.slot ∈ s'.closedCores ∧ raised s s' 5 1) ∧
        (s.defers x.slot = true → ∃ s', exec (.leaseDue u) s = .next s' ∧ (s'.unit u).state = 2 ∧ s'.capGen = s.capGen ∧ s'.closedCores = s.closedCores ∧ s'.crews = s.crews)) ∧
      (∀ p q, u = .port p → x.state = 0 → s.ports[p]? = some q → ∃ s', exec (.leaseDue u) s = .next s' ∧ drains s' ∧ (s'.ports[p]?).map (·.state) = some 5) ∧
      (∀ g ch v, u = .channel g ch → x.state = 0 → v ∈ groupUnits u → v ≠ u → (s.unit v).state = 6 → ∃ s', exec (.leaseDue u) s = .next s' ∧ drains s') ∧
      (x.state = 6 → ∃ s', exec (.leaseDue u) s = .next s' ∧ (s'.unit u).state = 4 ∧ s'.slotsTaken u = s.slotsTaken u + 1 ∧ s'.capGen = s.capGen ∧ s'.crews = s.crews)) ∧
    (∀ (k : Nat) (c : Crew) (tl : Tile), s.crewAt k = some c → c.capPending = true → c.state = .live → c.capNote.getLsbD 8 = true → c.tile (c.capNote.extractLsb' 0 8) = some tl → c.tileUid tl.uid = some tl →
      tl.tags = true → tl.fmt ∈ [2#4, 3#4, 6#4, 7#4] → tl.tracked = false → s.mmaHeld k tl.uid ⟨0, 0, 0, 0⟩ = false →
      ∃ (s' : State) (c' : Crew), exec (.capacityNotify k) s = .next s' ∧ s'.crewAt k = some c' ∧ c'.capPending = false ∧ c'.teams = c.teams ∧
        s'.tileAt k tl.uid = some ((tl.write ⟨0, 0, 0, 0⟩ none s.capGen.toNat).setTag ⟨0, 0, 0, 0⟩ none true) ∧ s'.mem = s.mem) ∧
    (∀ (r : TeamRef) (c : Crew) (t : Team), s.teamAt r = some (c, t) →
      (t.nopreUsed < nopreBudget → exec (.nopreBudgetSpent r) s = .next s) ∧
      (t.nopreDepth ≠ 0#4 → nopreBudget ≤ t.nopreUsed → t.nopreSpent = false → ∃ s', exec (.nopreBudgetSpent r) s = .next s' ∧ (s'.teamAt r).map (·.2) = some { t with nopreSpent := true } ∧ s'.mem = s.mem)) ∧
    (∀ (g p k : Nat) (c : Crew), s.active = true → s.inTheWay (s.unit (.core g p)) = [k] → (s.unit (.core g p)).state = 3 → s.crewAt k = some c → c.place.isSome = true → s.liveCohort c = [k] → s.cohortStopped [k] = true →
      ∃ (s' : State) (c' : Crew), exec (.forcedMigration (.core g p)) s = .next s' ∧ s'.crewAt k = some c' ∧ c'.place = none ∧ c'.teams = c.teams.map Team.landVotes ∧ c'.tiles = c.tiles ∧ (c.teams.any (·.faulted) = true → c'.heldFaulted = true) ∧ s'.mem = s.mem) ∧
    (∀ g ch line : Nat, s.active = true → (s.unit (.channel g ch)).state = 3 → line < channelLines →
      ∃ s', exec (.channelLineMove g ch line) s = .next s' ∧ line ∈ (s'.unit (.channel g ch)).moved ∧ (∀ l, l ∈ (s.unit (.channel g ch)).moved → l ∈ (s'.unit (.channel g ch)).moved) ∧ { s' with units := s.units } = s) ∧
    (∀ g p : Nat,
      let u : DevUnit := .core g p
      let x := s.unit u
      s.decayAge < 2 ^ 28 → (s.active = true → quiet →
      (x.state = 3 → s.residents x.slot = [] →
        (∀ v, s.vacantCores.contains x.slot = false → s.spareOf u = some v → (s.unit v).score.toNat < 2048 → ∃ s', exec (.leaseTestStart u) s = .next s' ∧ (s'.unit u).state = 4 ∧ (s'.unit u).replaced = true ∧
          (s'.unit v).state = 0 ∧ (s'.unit v).slot = x.slot ∧ x.slot ∉ s'.closedCores ∧ s'.crews = s.crews) ∧
        (s.spareOf u = none → ∃ s', exec (.leaseTestStart u) s = .next s' ∧ (s'.unit u).state = 4 ∧ (s'.unit u).replaced = false ∧ s'.vacantCores = s.vacantCores ∧ s'.crews = s.crews)) ∧
      (x.state = 3 → s.residents x.slot ≠ [] → exec (.leaseTestStart u) s = .next s) ∧
      (x.state = 4 → x.isSpare = false → x.charged = 0 → x.failed = none → s.vaux = true → s.powerLoss = none → ∀ (found : List RunFound) (got expect : List (BitVec 64)),
        let runs := testRuns found got expect
        let replays := (runs.map (·.replays)).sum
        let score := min 65535 (x.score.toNat + replays + 4096 * (runs.filter (fun r => !passesRun u r)).length)
        let retires (y : Retirement) (s' : State) : Prop := exec (.testVerdict u found got expect) s = .next s' ∧ (s'.unit u).state = 7 ∧ s'.nv.records = s.nv.records ++ [y] ∧ y.u = u ∧ y.score = BitVec.ofNat 16 score ∧
          s'.capGen = s.capGen + 1#32 ∧ s'.crews.length = s.crews.length
        (testEnd u 0 false runs = .noTest → exec (.testVerdict u found got expect) s = .next s) ∧
        (runs.map (·.set) = List.range 7 → runs.all (passesRun u) = true → testEnd u 0 false runs = .ended ∧ score = min 65535 (x.score.toNat + replays)) ∧
        (testEnd u 0 false runs = .ended → score < 32768 → x.replaced = true → ∃ s', exec (.testVerdict u found got expect) s = .next s' ∧ (s'.unit u).state = 6 ∧ (s'.unit u).slot = 4 * g + 4 ∧
          (s'.unit u).score = BitVec.ofNat 16 (score / 2) ∧ s'.capGen = s.capGen + 1#32 ∧ s'.mem = s.mem) ∧
        (testEnd u 0 false runs = .ended → score < 32768 → x.replaced = false → ∃ s', exec (.testVerdict u found got expect) s = .next s' ∧ (s'.unit u).score = BitVec.ofNat 16 (score / 2) ∧
          (score / 2 < 2048 → (s'.unit u).state = 0 ∧ x.slot ∉ s'.vacantCores ∧ s'.capGen = s.capGen + 1#32) ∧ (2048 ≤ score / 2 → (s'.unit u).early = true ∧ 1 ≤ (s'.unit u).state ∧ (s'.unit u).state ≤ 3)) ∧
        (testEnd u 0 false runs = .ended → 32768 ≤ score → ∃ (s' : State) (y : Retirement), retires y s' ∧ y.reason = 2#8 ∧ y.set = 0xFFFF#16) ∧
        (∀ (pre : List TestRun) (r r' : TestRun), runs = pre ++ [r, r'] → pre.map (·.set) = List.range r.set → pre.all (passesRun u) = true → r.set < 7 → r'.set = r.set → passesRun u r = false → passesRun u r' = false →
          ∃ (s' : State) (y : Retirement), retires y s' ∧ y.reason = 1#8 ∧ y.set = BitVec.ofNat 16 r.set ∧ score = min 65535 (x.score.toNat + replays + 8192) ∧ (r.set ∈ [0, 1, 6] → y.got = r'.got ∧ y.expect = r'.expect)))) ∧
      (x.state = 4 → x.failed = none → s.vaux = true → s.powerLoss = none → ∀ (f : RunFound) (got expect : BitVec 64),
        let ok := passesRun u ⟨f.set, got, expect, f.wide, f.narrow, f.replays⟩
        let s' := s.testRun u f got expect
        (s'.unit u).score = BitVec.ofNat 16 (min 65535 (x.score.toNat + f.replays + (if ok = true then 0 else 4096))) ∧ (s'.unit u).charged = x.charged + 1 ∧ (s'.unit u).state = 4 ∧ s'.crews = s.crews)) ∧
    (∀ (p : Nat) (q : Port) (found : List RunFound) (got expect : List (BitVec 64)),
      let x := s.unit (.port p)
      let runs := testRuns found got expect
      s.quiesced = true → s.decayAge < 2 ^ 28 → s.ports[p]? = some q → x.state = 4 → x.charged = 0 → x.failed = none → x.score.toNat < 2048 → s.vaux = true → s.powerLoss = none →
        (∀ r, runs = [r] → r.set = 0 → r.wide = 0 → r.narrow ≤ 1024 → ∃ s', exec (.testVerdict (.port p) found got expect) s = .next s' ∧ (s'.unit (.port p)).state = 5 ∧
          (s'.ports[p]?).map (·.state) = some 0 ∧ s'.capGen = s.capGen) ∧
        (∀ r r', runs = [r, r'] → r.set = 0 → r'.set = 0 → r.wide = 0 → r'.wide = 0 → 1024 < r.narrow → 1024 < r'.narrow → ∃ s', exec (.testVerdict (.port p) found got expect) s = .next s' ∧ (s'.unit (.port p)).state = 4 ∧
          (s'.unit (.port p)).failed.isSome = true ∧ (s'.unit (.port p)).score = x.score + 8192#16 ∧ s'.capGen = s.capGen ∧ s'.ports = s.ports)) ∧
    (s.decayAge < 2 ^ 28 →
      (∀ core u, s.servingCore core = some u → (s.runningOn core).isSome = true → ∃ s', exec (.shadowLatchReplay core) s = .next s' ∧
        (s'.unit u).score = BitVec.ofNat 16 (min 65535 ((s.unit u).score.toNat + 1)) ∧ (s'.unit u).nrep = (s.unit u).nrep + 1 ∧ s'.matrix = s.matrix ∧ s'.crews = s.crews) ∧
      exec .scoreDecay s = .next s ∧
      (∀ p addr, ((s.unitError (.port p) .fecUncorrectable addr).unit (.port p)).score = BitVec.ofNat 16 (min 65535 ((s.unit (.port p)).score.toNat + 16))) ∧
      (∀ u addr, exec (.patrolScrub u none addr) s = .next s ∧
        (∀ e, scrubFinds u e = true → e ≠ .uncorrectable → errorCell u addr ∉ s.corrected →
          ∃ s', exec (.patrolScrub u (some e) addr) s = .next s' ∧ (s'.unit u).score = BitVec.ofNat 16 (min 65535 ((s.unit u).score.toNat + 8)) ∧ s'.mem = s.mem ∧ s'.poison = s.poison) ∧
        (∀ e, scrubFinds u e = true → e ≠ .uncorrectable → s.corrected.filter (fun p => p == errorCell u addr) = [errorCell u addr] →
          ∃ s', exec (.patrolScrub u (some e) addr) s = .next s' ∧ (s'.unit u).score = BitVec.ofNat 16 (min 65535 ((s.unit u).score.toNat + 264)) ∧ s'.mem = s.mem ∧ s'.poison = s.poison) ∧
        ((∃ g ch, u = .channel g ch) → (s.loadsOut (addr / 64 * 64) 64 = true → exec (.patrolScrub u (some .uncorrectable) addr) s = .next s) ∧
          (s.loadsOut (addr / 64 * 64) 64 = false → ∃ s', exec (.patrolScrub u (some .uncorrectable) addr) s = .next s' ∧ s'.isPoisoned (addr / 64 * 64) 64 = true ∧
            (s'.unit u).score = BitVec.ofNat 16 (min 65535 ((s.unit u).score.toNat + 16384)) ∧ s'.mem = s.mem)))) ∧
    (2 ^ 28 ≤ s.decayAge → s.decayAge < 2 ^ 29 → (∀ y, y ∈ s.units → (s.unit y.u).score.toNat < 2048 ∧ y.score.toNat < 2048) → ∃ s', exec .scoreDecay s = .next s' ∧ s'.decayAge = s.decayAge - 2 ^ 28 ∧
      (∀ y, y ∈ s.units → (s'.unit y.u).score = BitVec.ofNat 16 ((s.unit y.u).score.toNat - ((s.unit y.u).score.toNat + 31) / 32)) ∧ { s' with decayAge := s.decayAge, corrected := s.corrected, units := s.units } = s)

/-! ### The host -/

/-- The host's registers and memory accesses (14 R300 to R304): prod and cons are written as told, an overrun of a launch queue stops it, a new prod of a pool frees the
crews held for it; CXL.mem and the apertures reach HBM4E; an event goes to the ring that has room; a function reset clears the rings; ring registers read as they stand, and apertures as zero.
Before stage 0x07 nothing is reached.
Model choices it rests on: notes/assumptions/50.md and 66.md. -/
def Obligations.HostRings : Prop :=
  ∀ s : State,
    (s.usable = false → ∀ (q off : Nat) (v : BitVec 16) (bs : List Byte), exec (.launchQueueProdWrite q v) s = .next s ∧ exec (.poolProdWrite q v) s = .next s ∧ exec (.eventRingConsWrite v) s = .next s ∧
      exec (.queueApertureWrite off bs) s = .next s ∧ exec (.hostCxlMemRead q off) s = .next s ∧ exec (.hostCxlMemWrite q bs) s = .next s ∧ exec .eventWrite s = .next s) ∧
    (s.usable = true →
      (∀ (q : Nat) (v : BitVec 16) (g : Ring), s.lqs[q]? = some g → g.en = true →
        exec (.launchQueueProdWrite q v) s = .next { s with lqs := s.lqs.set q { g with prod := v, err := g.err || decide (2 ^ g.k < (v - g.cons).toNat) } }) ∧
      (∀ (p : Nat) (v : BitVec 16) (g : Ring), s.pools[p]? = some g → g.en = true →
        ∃ s', exec (.poolProdWrite p v) s = .next s' ∧ s'.pools[p]? = some { g with prod := v, low := decide ((v - g.cons).toNat < g.lowMark.toNat) } ∧ (∀ q, q ≠ p → s'.pools[q]? = s.pools[q]?) ∧
          raised s s' 3 (if g.low = false ∧ (v - g.cons).toNat < g.lowMark.toNat then 1 else 0) ∧ s'.mem = s.mem ∧
          (∀ (k : Nat) (c : Crew), s.crewAt k = some c → s'.crewAt k = some { c with placeable := c.placeable || (v != g.prod && c.poolZ == some (p % 3)) })) ∧
      (∀ v : BitVec 16, exec (.eventRingConsWrite v) s = .next (if s.evRing.en then { s with evRing := { s.evRing with cons := v } } else s)) ∧
      (∀ addr n : Nat, addr + n ≤ 2 ^ 40 → s.isDead addr n = false → s.isPoisoned addr n = false →
        ∃ s', exec (.hostCxlMemRead addr n) s = .next s' ∧ s'.hostRead = (List.range n).map (fun i => s.byteAt (addr + i)) ∧ { s' with hostRead := s.hostRead, perf := s.perf, free := s.free } = s) ∧
      (∀ addr n, 2 ^ 40 < addr + n → exec (.hostCxlMemRead addr n) s = .next s) ∧
      (∀ (addr : Nat) (bs : List Byte), addr + bs.length ≤ 2 ^ 40 → s.isDead addr bs.length = false →
        ∃ s', exec (.hostCxlMemWrite addr bs) s = .next s' ∧ (∀ i, i < bs.length → s'.byteAt (addr + i) = bs.getD i 0#8) ∧ sameBytesBut s s' addr bs.length ∧
          { s' with mem := s.mem, poison := s.poison, perf := s.perf, free := s.free } = s) ∧
      (∀ (q o : Nat) (bs : List Byte) (g : Ring), q < 64 → o + bs.length ≤ 128 * 2 ^ g.k → o < 0x80000 → s.lqs[q]? = some g → g.en = true → s.isDead (g.base + o) bs.length = false →
        ∃ s', exec (.queueApertureWrite (0x100000 + 0x80000 * q + o) bs) s = .next s' ∧ (∀ i, i < bs.length → s'.byteAt (g.base + o + i) = bs.getD i 0#8) ∧ sameBytesBut s s' (g.base + o) bs.length ∧
          { s' with mem := s.mem, poison := s.poison } = s) ∧
      (∀ (e : BitVec 256) (rest : List (BitVec 256)), s.events = e :: rest → s.evRing.en = true →
        (2 ^ s.evRing.k ≤ (s.evRing.prod - s.evRing.cons).toNat → exec .eventWrite s = .next s) ∧
        ((s.evRing.prod - s.evRing.cons).toNat < 2 ^ s.evRing.k → ∃ s', exec .eventWrite s = .next s' ∧ s'.events = rest ∧ (s.evRing.prod.toNat % 2 ^ s.evRing.k, e) ∈ s'.hostRing ∧
          s'.evRing = { s.evRing with prod := s.evRing.prod + 1#16 } ∧ (s.evRing.prod = s.evRing.cons → s'.msix.getLsbD 1 = true) ∧
          { s' with events := s.events, hostRing := s.hostRing, evRing := s.evRing, msix := s.msix } = s)) ∧
      (∀ (q : Nat) (g : Ring), q < 64 → s.lqs[q]? = some g →
        (s.barRead 2 (16 * q)).hostRead = leBytes 4 g.prod.toNat ∧ (s.barRead 2 (16 * q + 4)).hostRead = leBytes 4 g.cons.toNat ∧ (s.barRead 2 (16 * q + 12)).hostRead = leBytes 4 0 ∧
        (s.barRead 2 (16 * q + 8)).hostRead = leBytes 4 (g.en.toNat + 2 * g.priv.toNat + 4 * g.err.toNat + 8 * g.low.toNat) ∧
        (∀ v : BitVec 32, s.barWrite 2 (16 * q) v = s.putQueueProd q (v.setWidth 16) ∧ s.barWrite 2 (16 * q + 4) v = s)) ∧
      (∀ off, 0x100000 ≤ off → off < 0x100000 + 64 * 0x80000 → (s.barRead 2 off).hostRead = leBytes 4 0)) ∧
    (∃ s', exec .functionReset s = .next s' ∧ s'.lqs = State.reset.lqs ∧ s'.pools = State.reset.pools ∧ s'.evRing = State.reset.evRing ∧
      s'.walks = [] ∧
      { s' with lqs := s.lqs, pools := s.pools, evRing := s.evRing, turn := s.turn, walks := s.walks } = s)

/-- The mailbox's configuration commands (14 R303, R305 to R308, R311, R312): a payload too short or out of range is Invalid Input; else the queue, pool, event ring or range
is as the payload says and the code is Success; a release waits for no launch; a span is joined or left with no launch open. A
completion raises vector 0 where the mailbox interrupt is enabled; while XLATE_INVAL waits for outstanding accesses it runs, and no other command does.
Model choices it rests on: notes/assumptions/29.md, 30.md and 74.md. -/
def Obligations.MailboxConfiguration : Prop :=
  ∀ s : State,
    let answers (i : Instr) (code : Nat) (f : State → Prop) : Prop := ∃ s', exec i s = .next s' ∧ s'.reply.map (·.code) = some code ∧ s'.msix.getLsbD 0 = (s.mailboxIrq || s.msix.getLsbD 0) ∧ s'.mem = s.mem ∧ s'.crews = s.crews ∧ f s'
    let same (s' : State) : Prop := { s' with reply := s.reply, msix := s.msix } = s
    let le (n v : Nat) : List Byte := (List.range n).map (fun i => BitVec.ofNat 8 (v / 256 ^ i))
    (s.usable = false → ∀ p, exec (.queueConfig p) s = .next s ∧ exec (.rangeReserve p) s = .next s ∧ exec (.rangeRelease p) s = .next s ∧ exec (.poolConfig p) s = .next s ∧ exec (.xlateInval p) s = .next s ∧
      exec (.eventConfig p) s = .next s ∧ exec (.portStatus p) s = .next s ∧ exec (.spanJoin p) s = .next s ∧ exec (.spanLeave p) s = .next s) ∧
    (s.usable = true → s.quiescing = none → ∀ q, s.mailboxRun = some (0xC004, q) → ∀ p,
      exec (.queueConfig p) s = .next s ∧ exec (.rangeReserve p) s = .next s ∧ exec (.rangeRelease p) s = .next s ∧ exec (.poolConfig p) s = .next s ∧
      exec (.eventConfig p) s = .next s ∧ exec (.portStatus p) s = .next s ∧ exec (.spanJoin p) s = .next s ∧ exec (.spanLeave p) s = .next s ∧ (p ≠ q → exec (.xlateInval p) s = .next s)) ∧
    (s.usable = true → s.quiescing = none → s.mailboxRun = none →
      (∀ op : BitVec 16, op.toNat / 256 ≠ 0 → ¬(0xC000 ≤ op.toNat ∧ op.toNat ≤ 0xC017 ∧ op.toNat ≠ 0xC010) → answers (.mailboxUnsupportedOpcode op) 3 same) ∧
      (∀ p : List Byte, p.length < 16 → answers (.queueConfig p) 2 same ∧ answers (.poolConfig p) 2 same ∧ answers (.eventConfig p) 2 same ∧ answers (.xlateInval p) 2 same ∧ answers (.rangeReserve p) 2 same ∧ answers (.spanJoin p) 2 same) ∧
      (∀ (q k flags base : Nat) (g : Ring), s.lqs[q]? = some g → q < 64 → k ≤ 12 → flags < 256 → base + 2 ^ (k + 7) ≤ 2 ^ 40 → base % 2 ^ (k + 7) = 0 →
        let p := le 1 q ++ le 1 k ++ le 6 flags ++ le 8 base
        (g.cons = g.prod ∨ g.err = true → answers (.queueConfig p) 0 (fun s' => s'.lqs = s.lqs.set q { k := k, base := base, en := decide (k ≠ 0), priv := decide (flags % 2 = 1) })) ∧
        (g.cons ≠ g.prod → g.err = false → answers (.queueConfig p) 6 same)) ∧
      (∀ die z k low base : Nat, die < 4 → z < 3 → 1 ≤ k → k ≤ 15 → low < 65536 → base % 8 = 0 → base + 8 * 2 ^ k ≤ 2 ^ 40 → s.pools.length = 12 →
        (s.walks.any (fun w => w.pool == 3 * die + z) = true → answers (.poolConfig (le 1 die ++ le 1 z ++ le 2 k ++ le 4 low ++ le 8 base)) 6 same) ∧
        (s.walks.any (fun w => w.pool == 3 * die + z) = false → answers (.poolConfig (le 1 die ++ le 1 z ++ le 2 k ++ le 4 low ++ le 8 base)) 0 (fun s' => ∃ g, s'.pools[3 * die + z]? = some g ∧ g.k = k ∧ g.base = base ∧ g.en = true ∧ g.prod = 0#16 ∧ g.cons = 0#16 ∧ g.lowMark = BitVec.ofNat 16 low))) ∧
      (∀ k base : Nat, 4 ≤ k → k ≤ 15 → base % 32 = 0 → base < 2 ^ 64 → answers (.eventConfig (le 8 k ++ le 8 base)) 0 (fun s' => s'.evRing = { k := k, base := base, en := true } ∧ s'.hostRing = [])) ∧
      (∀ base len z table : Nat, z < 3 → base % pageSize z = 0 → len % pageSize z = 0 → 0 < len → base + len ≤ 2 ^ 56 → table % 8 = 0 → table + 8 * (len / pageSize z) ≤ 2 ^ 40 →
        (∀ r, r ∈ s.ranges → base + len ≤ r.base ∨ r.base + r.len ≤ base) → s.span.joined = false → s.rangeSlot < 1024 →
        answers (.rangeReserve (le 8 base ++ le 8 len ++ le 8 z ++ le 8 table)) 0 (fun s' => s'.reply.map (·.out) = some (le 2 s.rangeSlot) ∧ s'.ranges[s.rangeSlot]? = some ⟨base, len, z, table⟩ ∧
          (∀ i, i ≠ s.rangeSlot → s'.ranges[i]? = s.ranges[i]?))) ∧
      (∀ (i : Nat) (r : Range), i < 65536 → s.ranges[i]? = some r → r.len ≠ 0 →
        (s.launchOpen = true → answers (.rangeRelease (le 2 i)) 6 same) ∧
        (s.launchOpen = false → answers (.rangeRelease (le 2 i)) 0 (fun s' => (s'.ranges[i]?).map (·.len) = some 0 ∧ (∀ j, j ≠ i → s'.ranges[j]? = s.ranges[j]?) ∧
          (∀ x, x ∈ s'.tlb → x ∈ s.tlb ∧ overlaps x.page (pageSize x.z) r.base r.len = false) ∧ (∀ x, x ∈ s'.gangTlb → x ∈ s.gangTlb ∧ overlaps x.page (pageSize x.z) r.base r.len = false)))) ∧
      (∀ base len : Nat, base < 2 ^ 64 → len < 2 ^ 64 → s.xlateBusy base len = false →
        answers (.xlateInval (le 8 base ++ le 8 len)) 0 (fun s' => (∀ x, x ∈ s'.tlb ↔ x ∈ s.tlb ∧ overlaps x.page (pageSize x.z) base len = false) ∧
          (∀ x, x ∈ s'.gangTlb ↔ x ∈ s.gangTlb ∧ overlaps x.page (pageSize x.z) base len = false) ∧ { s' with tlb := s.tlb, gangTlb := s.gangTlb, reply := s.reply, msix := s.msix } = s)) ∧
      (∀ base len : Nat, base < 2 ^ 64 → len < 2 ^ 64 → s.xlateBusy base len = true → ∃ s', exec (.xlateInval (le 8 base ++ le 8 len)) s = .next s' ∧ s'.mailboxRun = some (0xC004, le 8 base ++ le 8 len) ∧
          { s' with tlb := s.tlb, gangTlb := s.gangTlb, mailboxRun := none } = s) ∧
      (∀ (i : Nat) (q : Port), i < 24 → s.ports[i]? = some q → q.state < 256 →
        answers (.portStatus (le 1 i)) 0 (fun s' => s'.reply.map (·.out) = some (le 1 q.state ++ [q.fver, q.tver, 0#8] ++ le 4 q.peerSpan.toNat ++ le 2 q.peerIndex.toNat ++ [q.peerPort]) ∧ same s')) ∧
      (s.launchOpen = true → ∀ p : List Byte, 21 ≤ p.length → answers (.spanJoin p) 6 same ∧ answers (.spanLeave p) 6 same) ∧
      (s.launchOpen = false →
        (∀ p, answers (.spanLeave p) 0 (fun s' => s'.span = State.reset.span ∧ s'.home = [] ∧ s'.slices = [])) ∧
        (∀ id count index base fver tver group m : Nat, id < 2 ^ 32 → 1 ≤ count → count ≤ 4096 → index < count → base % 2 ^ 24 = 0 → base + 2 ^ 24 * count ≤ 2 ^ 56 → 1 ≤ fver → fver ≤ Config.fabricVersion.toNat →
          1 ≤ tver → tver ≤ Config.tetherVersion.toNat → group < 2 ^ 16 → m ≤ 9 → (∀ r, r ∈ s.ranges → base + 2 ^ 24 * count ≤ r.base ∨ r.base + r.len ≤ base) →
          answers (.spanJoin (le 4 id ++ le 2 count ++ le 2 index ++ le 8 base ++ le 1 fver ++ le 1 tver ++ le 2 group ++ le 1 m)) 0
            (fun s' => s'.span.joined = true ∧ s'.span.id = BitVec.ofNat 32 id ∧ s'.span.count.toNat = count ∧ s'.span.index.toNat = index ∧ s'.span.base = base ∧ s'.span.group.toNat = group ∧ s'.span.member = m ∧
              s'.home = [] ∧ s'.slices = []))))

/-! ### Quiesce, restore, abandonment -/

/-- QUIESCE, RESUME and RESTORE (19 R362 to R366, R377, R378): refused when the package stands otherwise; at the cut the package is quiesced and its image lies at the base; a
spent budget ends with TIMEOUT; RESUME goes on; RESTORE checks the image first, and takes from it the launch table and every crew as an evicted one, with a capacity change.
Model choices it rests on: notes/assumptions/28.md, 30.md and 69.md. -/
def Obligations.QuiesceAndRestore : Prop :=
  ∀ (s : State) (p : List Byte), s.usable = true → s.mailboxRun = none →
    let answers (i : Instr) (code : Nat) (f : State → Prop) : Prop := ∃ s', exec i s = .next s' ∧ s'.reply.map (·.code) = some code ∧ s'.msix.getLsbD 0 = (s.mailboxIrq || s.msix.getLsbD 0) ∧ f s'
    let same (s' : State) : Prop := { s' with reply := s.reply, msix := s.msix } = s
    let status (s' : State) (n : Nat) : Prop := s'.reply.map (fun y => bytesNat (y.out.take 2)) = some n
    let fl := saveFlags p
    let bits := payAt p 16 1
    (s.quiescing = none →
      (p.length < 18 → answers (.quiesce p) 2 same) ∧
      (18 ≤ p.length → s.quiesced = true → answers (.quiesce p) 6 same) ∧
      (18 ≤ p.length → s.quiesced = false → (bits / 4 % 4 = 0 ∨ 32 ≤ bits ∨ payAt p 17 1 = 0 ∨ payAt p 0 8 % 4096 ≠ 0) → answers (.quiesce p) 2 same) ∧
      (18 ≤ p.length → s.quiesced = false → bits / 4 % 4 ≠ 0 → bits < 32 → payAt p 17 1 ≠ 0 → payAt p 0 8 % 4096 = 0 → s.units = [] → s.decayAge < 2 ^ 28 →
        let q := { s with quiescing := some (0, p) }
        (q.atCut fl.scm = false → exec (.quiesce p) s = .next q) ∧
        (q.atCut fl.scm = true → s.slices = [] → s.comet.capture = none → s.comet.preserved = [] → (∀ c t w, c ∈ s.crews → t ∈ c.teams → t.swait = some w → w.woken = none) → bits / 16 % 2 = 0 →
          let u := { s with quiesced := true, quiescing := none, cutSeq := s.cutSeq + 1#64 }
          let img := u.image fl
          let base := payAt p 0 8
          bytesNat (img.take 8) = 0x455641534C56434F ∧
          (payAt p 8 8 < img.length → answers (.quiesce p) 0 (fun s' => status s' 7 ∧ s'.quiesced = true ∧ s'.mem = s.mem)) ∧
          (img.length ≤ payAt p 8 8 → base + img.length ≤ 2 ^ 40 → s.isDead base img.length = false →
            answers (.quiesce p) 0 (fun s' => status s' 0 ∧ s'.quiesced = true ∧ s'.quiescing = none ∧ s'.cutSeq = s.cutSeq + 1#64 ∧ s'.crews = s.crews ∧ s'.launches = s.launches ∧
              (∀ i, i < img.length → s'.byteAt (base + i) = img.getD i 0#8) ∧ sameBytesBut s s' base img.length))))) ∧
    (∀ age, s.quiescing = some (age, p) → s.powerLoss = none → s.units = [] →
      (age < 2 ^ 26 → exec .quiesceTimeout s = .next s) ∧
      (2 ^ 26 ≤ age → answers .quiesceTimeout 0 (fun s' => status s' 1 ∧ s'.quiescing = none ∧ s'.quiesced = false ∧ s'.crews = s.crews ∧ s'.mem = s.mem) ∧
        exec (.quiesce p) s = exec .quiesceTimeout s)) ∧
    (s.quiescing = none → (s.quiesced = false → answers (.resume p) 6 same) ∧
      (s.quiesced = true → s.units = [] → answers (.resume p) 0 (fun s' => status s' 0 ∧ s'.quiesced = false ∧ s'.crews = s.crews ∧ s'.mem = s.mem))) ∧
    (s.quiescing = none → 16 ≤ p.length →
      let b := s.memBytes (payAt p 0 8) (payAt p 8 8)
      let code := s.checkImage (payAt p 0 8) (payAt p 8 8) b
      (payAt p 0 8 % 4096 ≠ 0 → answers (.restore p) 2 same) ∧
      (payAt p 0 8 % 4096 = 0 → s.quiesced = true ∨ s.launchOpen = true → answers (.restore p) 6 same) ∧
      (payAt p 0 8 % 4096 = 0 → s.quiesced = false → s.launchOpen = false →
        (code ≠ 0 → answers (.restore p) 0 (fun s' => status s' code ∧ same s')) ∧
        (code = 0 → answers (.restore p) 0 (fun s' => status s' 0 ∧ s'.launches = imageLaunches b ∧ s'.crews.length = (imageCrews b).length ∧ (∀ c, c ∈ s'.crews → c.place = none) ∧
          s'.nextId = BitVec.ofNat 32 (payAt b 40 4) ∧ s'.capGen = s.capGen + 1#32)) ∧
        (2 ^ 40 < payAt p 0 8 + payAt p 8 8 → code = 7)))

/-- Commands on crews, launches, units and records (17 R346; 20 R395, R397; 21 R415 to R417): a crew held faulted becomes placeable or is abandoned, a launch is cancelled or its
crews abandoned, an abandoned crew's holdings are retired, a unit's state and score and a record are read; a name that fits nothing is Invalid Input.
Model choices it rests on: notes/assumptions/22.md, 30.md and 61.md. -/
def Obligations.CrewAndRecordCommands : Prop :=
  ∀ (s : State) (p : List Byte), s.usable = true → s.quiescing = none → s.mailboxRun = none → 8 ≤ p.length →
    let answers (i : Instr) (code : Nat) (f : State → Prop) : Prop := ∃ s', exec i s = .next s' ∧ s'.reply.map (·.code) = some code ∧ s'.msix.getLsbD 0 = (s.mailboxIrq || s.msix.getLsbD 0) ∧ f s'
    let same (s' : State) : Prop := { s' with reply := s.reply, msix := s.msix } = s
    let named (c : Crew) : Bool := c.launchId.toNat == payAt p 0 4 && c.crewId.toNat == payAt p 4 4
    (∀ q, q.length < 4 → answers (.launchAbandon q) 2 same ∧ answers (.unitStatus q) 2 same ∧ answers (.recordRead q) 2 same) ∧
    ((∀ c, c ∈ s.crews → named c = true → c.heldFaulted = false) → answers (.crewResume p) 2 same ∧ answers (.crewAbandon p) 2 same) ∧
    (∀ (k : Nat) (c : Crew), s.crews.findIdx named = k → s.crewAt k = some c → c.heldFaulted = true → c.state = .live →
      answers (.crewResume p) 0 (fun s' => s'.crewAt k = some { c with placeable := true } ∧ { s' with crews := s.crews, reply := s.reply, msix := s.msix } = s) ∧
      answers (.crewAbandon p) 0 (fun s' => ∃ c', s'.crewAt k = some c' ∧ c'.state = .abandoned ∧ c'.place = none ∧ c'.heldFaulted = false ∧ (∀ t, t ∈ c'.teams → t.finished = true ∧ t.wl = []) ∧
        c'.owed = c.teams.flatMap (·.wl) ∧ (∀ m, m ∈ s'.matrix → m.team.crew ≠ k))) ∧
    ((∀ l, l ∈ s.launches → l.id.toNat = payAt p 0 4 → l.state = .completed) → answers (.launchAbandon p) 2 same) ∧
    (∀ l, s.openLaunch (payAt p 0 4) = some l → s.launches = [l] → s.crews = [] →
      (l.state = .waiting ∨ l.state = .eligible → recDone l.record = 0 → answers (.launchAbandon p) 0 (fun s' => s'.launches.map (·.state) = [.completed] ∧ s'.launches.map (·.aborted) = [true] ∧
        s'.launches.map (·.ranges) = [[]] ∧ s'.mem = s.mem ∧ raised s s' 1 (if recIrq l.record then 1 else 0)))) ∧
    (payAt p 4 4 ≠ 0xFFFFFFFF → (∀ c, c ∈ s.crews → named c = true → c.state ≠ .abandoned ∨ c.released = true) → answers (.wlRelease p) 2 same) ∧
    (∀ (k : Nat) (c : Crew) (h : WlHold), payAt p 4 4 ≠ 0xFFFFFFFF → s.crews.findIdx named = k → s.crewAt k = some c → c.state = .abandoned → c.released = false → c.owed = [h] → 0 < h.items + (if h.seed then 1 else 0) → s.wlHoles = [] →
      answers (.wlRelease p) 0 (fun s' => s'.reply.map (·.out) = some [1#8, 0#8, 0#8, 0#8] ∧ (s'.crewAt k).map (·.owed) = some [] ∧ (s'.crewAt k).map (·.released) = some true ∧
        (∃ w, s'.wlChanges = s.wlChanges ++ [w] ∧ w.set = h.set ∧ w.retire = h.items + (if h.seed then 1 else 0)) ∧ s'.mem = s.mem)) ∧
    (s.decayAge < 2 ^ 28 → s.statusUnit (payAt p 0 1) (payAt p 2 2) = none → answers (.unitStatus p) 2 same) ∧
    (∀ x, s.decayAge < 2 ^ 28 → s.statusUnit (payAt p 0 1) (payAt p 2 2) = some x → x.state < 256 →
      answers (.unitStatus p) 0 (fun s' => same s' ∧ s'.reply.map (·.out) = some [BitVec.ofNat 8 x.state, 0#8, BitVec.ofNat 8 x.score.toNat, BitVec.ofNat 8 (x.score.toNat / 256)])) ∧
    (s.nv.records.length ≤ payAt p 0 4 → answers (.recordRead p) 2 same) ∧
    (∀ r, s.nv.records[payAt p 0 4]? = some r → answers (.recordRead p) 0 (fun s' => same s' ∧ s'.reply.map (·.out.length) = some 4096 ∧
      (∀ o, s'.reply.map (·.out) = some o → payAt o 0 4 = 0x5452434F ∧ payAt o 8 4 = payAt p 0 4 ∧ payAt o 12 4 = r.boot.toNat ∧ payAt o 24 2 = unitId r.u % 65536 ∧ payAt o 26 1 = r.reason.toNat ∧ payAt o 27 1 = r.action.toNat ∧
        payAt o 28 2 = r.score.toNat)))

/-! ### Comet -/

/-- The capture and commitment of a step (12 R275 to R277; 21 R404 to R408): a capture begins once every team has marked, a newer write's granule is kept, the capture ends with the
older work, granules stream to the image, a prepared and then a committed record make the step durable. Nothing happens while Comet is off.
Model choices it rests on: notes/assumptions/48.md. -/
def Obligations.CometCapture : Prop :=
  ∀ s : State,
    let k := s.comet
    let comets (s' : State) (k' : Comet) : Prop := s' = { s with comet := k' }
    (s.cometOn = false → ∀ (n : BitVec 32) (g : Nat), exec (.cometCaptureBegin n) s = .next s ∧ exec (.cometGranulePreserve g) s = .next s ∧ exec .cometCaptureEnd s = .next s ∧ exec (.cometStreamGranule g) s = .next s ∧
      exec .cometPrepared s = .next s ∧ exec (.cometCommit n) s = .next s) ∧
    (s.cometOn = true →
      (k.capture = none → k.tracked ≠ [] → k.barred ≠ some k.target → s.allMarked k.target = true →
        ∃ s', exec (.cometCaptureBegin k.target) s = .next s' ∧ comets s' { k with capture := some k.target, ended := false, captured := [], image := [], written := false, prepared := none }) ∧
      (∀ n, n ≠ k.target ∨ k.capture.isSome = true ∨ s.allMarked n = false → exec (.cometCaptureBegin n) s = .next s) ∧
      (∀ (g : Nat) (x : Granule) (u : ImageUnit), s.trackedGranules[g]? = some x → x ∉ k.captured → (∀ p, p ∈ k.preserved → p.unit.gran ≠ x) → 4096 * (k.preserved.length + 1) ≤ k.presLen → s.liveUnit x = some u →
        ∃ s', exec (.cometGranulePreserve g) s = .next s' ∧ comets s' { k with preserved := k.preserved ++ [Preserved.mk u] }) ∧
      (∀ n, k.capture = some n →
        (k.ended = false → (∀ p, p ∈ s.setCrews → s.olderWork n p.1 p.2 = false) →
          (dirUnits s.uncaptured.length + s.uncaptured.length ≤ k.units → s.uncaptured ≠ [] → ∃ s', exec .cometCaptureEnd s = .next s' ∧ comets s' { k with ended := true }) ∧
          (k.units < dirUnits s.uncaptured.length + s.uncaptured.length → ∃ s', exec .cometCaptureEnd s = .next s' ∧ s'.comet.capture = none ∧ s'.comet.preserved = [] ∧ s'.comet.committed = k.committed ∧
            s'.comet.barred = some n ∧ (∀ r, r ∈ s'.comet.reports ↔ r ∈ k.reports ∧ r.2 ≠ n) ∧ (∀ x, x ∈ s'.shards ↔ x ∈ s.shards ∧ x.step ≠ n) ∧ raised s s' 0x0B 1 ∧ s'.mem = s.mem ∧ s'.ballast = s.ballast)) ∧
        ((∃ p, p ∈ s.setCrews ∧ s.olderWork n p.1 p.2 = true) → exec .cometCaptureEnd s = .next s) ∧
        (∀ (g : Nat) (x : Granule) (u : ImageUnit), k.ended = true → k.written = false → s.uncaptured[g]? = some x →
          ((k.preserved.find? (fun p => p.unit.gran == x)).map (·.unit) = some u ∨ ((∀ p, p ∈ k.preserved → p.unit.gran ≠ x) ∧ s.liveUnit x = some u)) →
          dirUnits (k.image.length + 1) + (k.image.length + 1) ≤ k.units →
          ∃ s', exec (.cometStreamGranule g) s = .next s' ∧ s'.comet.captured = k.captured ++ [x] ∧ s'.comet.image = k.image ++ [u] ∧ (∀ p, p ∈ s'.comet.preserved → p.unit.gran ≠ x) ∧ s'.comet.capture = some n ∧
            s'.crews = s.crews ∧ (s.uncaptured = [x] → s'.comet.written = true)) ∧
        (k.written = true → k.prepared = none → k.committing = none → s.span.erasure = false →
          ∃ s', exec .cometPrepared s = .next s' ∧ s'.comet.prepared = some n ∧ s'.comet.committed = k.committed ∧ (s.span.index = 0#12 → s'.comet.reports = k.reports ++ [(0, n)] ∧ s'.outbox = s.outbox) ∧
            (s.span.index ≠ 0#12 → s'.comet.reports = k.reports) ∧ s'.crews = s.crews)) ∧
      (∀ n, k.prepared = some n → k.committing = none → s.span.index = 0#12 →
        ((∀ m, m < s.span.count.toNat → (m, n) ∈ k.reports) → ∃ s', exec (.cometCommit n) s = .next s' ∧ s'.comet.committing = some n ∧ (∀ r, r ∈ s'.comet.reports ↔ r ∈ k.reports ∧ r.2 ≠ n) ∧ s'.crews = s.crews) ∧
        ((∃ m, m < s.span.count.toNat ∧ (m, n) ∉ k.reports) → exec (.cometCommit n) s = .next s))) ∧
    (∀ m n, (s.span.index = 0#12 → s.otherMember m = true → (m, n) ∉ k.reports → ∃ s', exec (.cometPreparedReport m n) s = .next s' ∧ comets s' { k with reports := k.reports ++ [(m, n)] }) ∧
      (s.span.index ≠ 0#12 → exec (.cometPreparedReport m n) s = .next s)) ∧
    (∀ n, k.committing = some n → s.active = true → ∃ s', exec .cometRecordDurable s = .next s' ∧ s'.comet.committed = some n ∧ s'.comet.capture = none ∧ s'.comet.committing = none ∧ s'.comet.preserved = [] ∧
      (∀ l, l ∈ s'.comet.tracked ↔ (l ∈ k.tracked ∧ l ∉ k.leaving) ∨ (l ∈ k.joining ∧ l ∉ k.tracked)) ∧ s'.comet.joining = [] ∧ s'.comet.leaving = [] ∧ s'.mem = s.mem ∧ s'.crews = s.crews) ∧
    (k.committing = none → exec .cometRecordDurable s = .next s)

/-- COMET_CONFIG, COMET_TRACK, STEP_QUERY, STEP_REBUILD and STEP_LOAD (21 R409, R413, R414, R419): what each checks, in order, and what it leaves.
Model choices it rests on: notes/assumptions/26.md, 48.md and 76.md. -/
def Obligations.CometCommands : Prop :=
  ∀ (s : State), s.usable = true → s.quiescing = none → s.mailboxRun = none →
    let answers (i : Instr) (code : Nat) (f : State → Prop) : Prop := ∃ s', exec i s = .next s' ∧ s'.reply.map (·.code) = some code ∧ s'.msix.getLsbD 0 = (s.mailboxIrq || s.msix.getLsbD 0) ∧ f s'
    let same (s' : State) : Prop := { s' with reply := s.reply, msix := s.msix } = s
    let le (n v : Nat) : List Byte := (List.range n).map (fun i => BitVec.ofNat 8 (v / 256 ^ i))
    let status (s' : State) (n : Nat) : Prop := s'.reply.map (fun y => bytesNat (y.out.take 2)) = some n
    let k := s.comet
    (∀ b u pb pl : Nat, u < 2 ^ 32 → b < 2 ^ 64 → pb < 2 ^ 64 → pl < 2 ^ 64 →
      let p := le 8 b ++ le 8 u ++ le 8 pb ++ le 8 pl
      let ok : Prop := b % 2 ^ 20 = 0 ∧ u % 8 = 0 ∧ 2 ^ 44 ≤ b ∧ b + 2 ^ 20 + 10240 * u ≤ 2 ^ 44 + 2 ^ 42 ∧ pb % 4096 = 0 ∧ pb + pl ≤ 2 ^ 40
      (¬ok → answers (.cometConfig p) 2 same) ∧ (ok → k.capture.isSome = true → k.suspended = false → answers (.cometConfig p) 6 same) ∧
      (ok → k.capture = none ∨ k.suspended = true → answers (.cometConfig p) 0 (fun s' => s'.comet.configured = true ∧ s'.comet.base = b ∧ s'.comet.units = u ∧ s'.comet.presBase = pb ∧ s'.comet.presLen = pl ∧
        (∀ l, l ∈ s'.comet.tracked ↔ (l ∈ k.tracked ∧ l ∉ k.leaving) ∨ (l ∈ k.joining ∧ l ∉ k.tracked)) ∧ s'.comet.joining = [] ∧ s'.comet.leaving = [] ∧ s'.comet.capture = none ∧
        (k.configured = true → (k.base, k.units) ∈ s'.comet.earlier) ∧ s'.comet.suspended = k.suspended ∧ s'.comet.committed = s'.newestCommitted ∧ s'.mem = s.mem ∧ s'.crews = s.crews))) ∧
    (∀ (id : BitVec 32) (add : Bool),
      let p := le 4 id.toNat ++ [if add then 1#8 else 0#8]
      (s.openLaunch id.toNat = none → answers (.cometTrack p) 2 same) ∧
      (∀ l, s.openLaunch id.toNat = some l → answers (.cometTrack p) 0 (fun s' => s'.mem = s.mem ∧ s'.crews = s.crews ∧ s'.launches = s.launches ∧
        (k.capture = none → (∀ x, x ∈ s'.comet.tracked ↔ (x ∈ k.tracked ∧ x ≠ l.id) ∨ (add = true ∧ x = l.id))) ∧
        (k.capture.isSome = true → s'.comet.tracked = k.tracked ∧ (l.id ∈ s'.comet.joining ↔ add = true) ∧ (l.id ∈ s'.comet.leaving ↔ add = false))))) ∧
    (∀ q, answers (.stepQuery q) 0 (fun s' => same s' ∧ (∀ o, s'.reply.map (·.out) = some o → o.length = 24 ∧ payAt o 0 1 % 2 = (if s.nv.powerLost then 1 else 0) ∧ payAt o 4 4 = (s.newestCommitted.getD 0#32).toNat ∧
      payAt o 8 1 % 2 = (if s.newestCommitted.isSome then 1 else 0) ∧ payAt o 12 4 = (s.newestPrepared.getD 0#32).toNat ∧ payAt o 16 1 = (if s.newestPrepared.isSome then 1 else 0) ∧
      (∀ n, s.newestPrepared = some n → payAt o 20 4 = s.lostUnits n % 2 ^ 32) ∧ (∀ n, s.newestPrepared = none → s.newestCommitted = some n → payAt o 20 4 = s.lostUnits n % 2 ^ 32)))) ∧
    (∀ n : BitVec 32,
      let p := le 4 n.toNat
      let s1 := if k.rebuilding = some n then s else { s with comet := { k with rebuilding := some n, asked := [] }, shards := s.shards.filter (fun x => x.step != n) }
      let over_ (code : Nat) (s' : State) : Prop := status s' code ∧ s'.comet.rebuilding = none ∧ s'.comet.asked = [] ∧ (∀ x, x ∈ s'.shards → x.step ≠ n) ∧ s'.crews = s.crews
      (k.suspended = false → s.setOpen = true → k.rebuilding ≠ some n → answers (.stepRebuild p) 6 same) ∧
      (k.suspended = true ∨ s.setOpen = false ∨ k.rebuilding = some n →
        (k.configured = false → answers (.stepRebuild p) 0 (fun s' => status s' 5 ∧ same s')) ∧
        (k.configured = true → (∃ a, a ∈ s1.shardAsks n ∧ s1.answered n a = false) → ∃ s', exec (.stepRebuild p) s = .next s' ∧ s'.mailboxRun = some (0xC014, p) ∧ s'.comet.rebuilding = some n ∧
          (∀ a, a ∈ s1.shardAsks n → a ∈ s'.comet.asked) ∧ s'.comet.suspended = k.suspended ∧ s'.mem = s.mem ∧ s'.ballast = s.ballast ∧ s'.crews = s.crews) ∧
        (k.configured = true → (∀ a, a ∈ s1.shardAsks n → s1.answered n a = true) →
          (s1.heldCommitted n = false → answers (.stepRebuild p) 0 (fun s' => over_ 5 s' ∧ s'.comet.suspended = k.suspended ∧ s'.mem = s.mem ∧ s'.ballast = s.ballast)) ∧
          (s1.heldCommitted n = true → s1.restoreAll n = none → answers (.stepRebuild p) 0 (fun s' => over_ 6 s' ∧ s'.comet.suspended = k.suspended ∧ s'.mem = s.mem ∧ s'.ballast = s.ballast)) ∧
          (∀ us, s1.heldCommitted n = true → s1.restoreAll n = some us → answers (.stepRebuild p) 0 (fun s' => over_ 0 s' ∧ s'.comet.suspended = false ∧ s'.comet.barred = none)))) ∧
      (∀ m i : Nat, s1.span.erasure = false → s1.restoreShard n i m i = s1.intactUnit n i) ∧
      (∀ i x, s.intactUnit n i = some x → ∃ (a : Nat × Nat) (r : StepRecord), (a = (k.base, k.units) ∨ a ∈ k.earlier ∧ a.2 = k.units) ∧ (s.inArea a).recordOf n = some r ∧ (s.inArea a).digestHolds r = true ∧
        ((r.used ≤ i ∧ i < k.units ∧ x = List.replicate 4096 0#8) ∨ x = s.memBytes ((s.inArea a).comet.unitAddr n i) 4096))) ∧
    (∀ (n : BitVec 32) (a : Nat), a < 2 ^ 56 →
      let p := le 8 n.toNat ++ le 8 a
      (a % 4096 ≠ 0 → answers (.stepLoad p) 2 same) ∧ (a % 4096 = 0 → s.launchOpen = true → answers (.stepLoad p) 6 same) ∧
      (a % 4096 = 0 → s.launchOpen = false →
        ((∀ r, r ∈ s.validRecords → r.n ≠ n) → answers (.stepLoad p) 0 (fun s' => status s' 5 ∧ same s')) ∧
        (∀ r s1 s2, s.validRecords.find? (fun r => r.n == n) = some r → s.isDead (k.unitAddr n 0) (4096 * r.used) = false → s.unitsDigest n r.used = r.udigest →
          (s.loadPages n (s.loadEntries n r.used) = (s1, false) → answers (.stepLoad p) 0 (fun s' => status s' 8)) ∧
          (s.loadPages n (s.loadEntries n r.used) = (s1, true) → s1.loadKind2 n a ((s.loadEntries n r.used).filter (fun e => e.kind == 2)) = (s2, true) →
            answers (.stepLoad p) 0 (fun s' => status s' 0 ∧ s'.comet.committed = some n ∧ s'.comet.suspended = false ∧ s'.comet.capture = none ∧ s'.comet.reports = [] ∧ s'.shards = [] ∧ s'.mem = s2.mem))) ∧
        (∀ r, s.validRecords.find? (fun r => r.n == n) = some r → s.isDead (k.unitAddr n 0) (4096 * r.used) = true ∨ s.unitsDigest n r.used ≠ r.udigest →
          answers (.stepLoad p) 0 (fun s' => status s' 5 ∧ same s'))))

/-! ### Platform -/

/-- The platform's registers and counters, as the host and I3C reach them (00 R8; 14 R299; 15 R320, R323, R328): a written cap is clamped, a 1 clears alarm, counters and
selectors are written and cleared, SETDASA gives the target its address; every other register keeps its value under a write. Reads give the fields at their bits.
Model choices it rests on: notes/assumptions/29.md and 66.md. -/
def Obligations.PlatformRegisters : Prop :=
  ∀ s : State,
    let f := s.platform
    let capped (v : BitVec 32) : State := { s with platform := { f with cap := BitVec.ofNat 16 (max 1200 (min 3600 (v.toNat % 65536))) } }
    let cleared (v : BitVec 32) : State := if v.getLsbD 3 then { s with platform := { f with alarm := false } } else s
    let word (k : Nat) : Nat := if k = 0 then f.cap.toNat else if k = 1 then f.holdup.toNat + 2 * f.caplim.toNat + 4 * f.thermlim.toNat + 8 * f.alarm.toNat + 256 * f.tmax.toNat
      else if k = 2 then f.stage.toNat + 2 ^ 8 * f.fail.toNat + 2 ^ 16 * f.secver.toNat else if k = 3 then f.power.toNat else 0
    (∀ v : BitVec 32, s.usable = true → exec (.capWrite v false) s = .next (capped v)) ∧
    (∀ v : BitVec 32, s.vaux = true → exec (.capWrite v true) s = .next (capped v) ∧ exec (.alarmClear v) s = .next (cleared v)) ∧
    (s.vaux = false → ∀ v : BitVec 32, exec (.capWrite v true) s = .next s ∧ exec (.alarmClear v) s = .next s) ∧
    (s.usable = false → ∀ (v : BitVec 32) (n : Nat), exec (.capWrite v false) s = .next s ∧ exec (.perfCounterClear n) s = .next s ∧ exec (.registerWrite n v) s = .next s) ∧
    (s.usable = true →
      (∀ (d : Nat) (p : Perf), s.perf[d]? = some p → d < 4 →
        exec (.perfCounterClear d) s = .next { s with perf := s.perf.set d { p with cnt := [] } } ∧
        (∀ v : BitVec 32, exec (.registerWrite (0x9000 + 0x100 * d) v) s = .next { s with perf := s.perf.set d { p with en := v.getLsbD 0, cnt := if v.getLsbD 1 then [] else p.cnt } }) ∧
        (∀ (v : BitVec 32) (i : Nat), i < 8 → ∃ s' p', exec (.registerWrite (0x9000 + 0x100 * d + 0x48 + 4 * i) v) s = .next s' ∧ s' = { s with perf := s.perf.set d p' } ∧ p'.en = p.en ∧ p'.cnt = p.cnt ∧
          cellGet p'.sel i = v.setWidth 8 ∧ (∀ j, j ≠ i → cellGet p'.sel j = cellGet p.sel j)) ∧
        (∀ i, i < 8 → (s.barRead 0 (0x9000 + 0x100 * d + 8 + 8 * i)).hostRead = leBytes 4 (cellGet p.cnt i).toNat ∧ (s.barRead 0 (0x9000 + 0x100 * d + 12 + 8 * i)).hostRead = leBytes 4 ((cellGet p.cnt i).toNat / 2 ^ 32) ∧
          (s.barRead 0 (0x9000 + 0x100 * d + 0x48 + 4 * i)).hostRead = leBytes 4 (cellGet p.sel i).toNat)) ∧
      (∀ v : BitVec 32, exec (.registerWrite 0x8000 v) s = .next (capped v) ∧ exec (.registerWrite 0x8004 v) s = .next (cleared v)) ∧
      (∀ (off : Nat) (v : BitVec 32), off < 0x8000 ∨ (0x8008 ≤ off ∧ off < 0x9000) ∨ 0x9400 ≤ off → exec (.registerWrite off v) s = .next s) ∧
      (∀ k, k < 4 → (s.barRead 0 (0x8000 + 4 * k)).hostRead = leBytes 4 (word k))) ∧
    (∀ a : BitVec 7, (s.vaux = true → exec (.i3cSetdasa a) s = .next { s with i3c := some a }) ∧ (s.vaux = false → exec (.i3cSetdasa a) s = .next s) ∧
      (s.vaux = true → a = s.i3c.getD 0x3A#7 → ∀ k : Byte, ((s.i3cWrite a [k]).i3cRead a).hostRead = leBytes 4 (word k.toNat)))

/-- Power and its monitors (12 R278; 15 R317 to R321, R324, R329; 21 R401, R402): the rails come and go; a loss of VIN, or a junction of 115 °C, starts the power-loss sequence; 100 °C
stretches clocks and 105 °C raises alarm; a droop leaves no trace; a Ballast line reaches its stack; the hold-up charge and the last boot stage.
Model choices it rests on: notes/assumptions/31.md, 32.md and 66.md. -/
def Obligations.PowerAndMonitors : Prop :=
  ∀ s : State,
    let f := s.platform
    exec .vauxApply s = .next { s with vaux := true } ∧ exec .vauxRemoval s = .next { s with vaux := false, i3c := none } ∧
    (s.vaux = true → exec .vinApply s = .next { s with vin := true }) ∧ (s.vaux = false → exec .vinApply s = .next s) ∧
    (∀ n, exec (.voltageDroop n) s = .next s) ∧
    (s.powered = false → exec .vinLoss s = .next { s with vin := false } ∧ (∀ x : BitVec 8, exec (.junctionHot x) s = .next s ∧ exec (.monitorAlarm x) s = .next s) ∧ exec .thermalTrip s = .next s) ∧
    (s.vaux = true → s.vin = true → s.powerLoss = none →
      exec .vinLoss s = .next { s with vin := false, powerLoss := some 0 } ∧
      (∀ x : BitVec 8,
        let hot (p : Platform) : Platform := { p with thermlim := p.thermlim || decide (100 ≤ x.toNat), alarm := p.alarm || decide (105 ≤ x.toNat), tmax := if p.tmax.toNat < x.toNat then x else p.tmax }
        let after (p : Platform) : State := { s with platform := hot p, powerLoss := if 115 ≤ x.toNat then some 0 else none }
        exec (.monitorAlarm x) s = .next (after { f with alarm := true }) ∧
        (100 ≤ x.toNat → exec (.junctionHot x) s = .next (after f)) ∧ (x.toNat < 100 → exec (.junctionHot x) s = .next s) ∧
        (x = 115#8 → exec .thermalTrip s = .next (after f))) ∧
      (f.stage = 6#8 → f.fail = 0#8 → exec .holdupCharged s = .next { s with platform := { f with holdup := true } }) ∧
      (f.stage ≠ 6#8 → exec .holdupCharged s = .next s) ∧
      (f.stage = 7#8 → f.fail = 0#8 → ∃ s', exec .bootRunning s = .next s' ∧ s'.platform.stage = 0xFF#8 ∧ s'.platform.secver = s'.nv.secver ∧ s.nv.secver.toNat ≤ s'.nv.secver.toNat ∧
        { s' with platform := f, nv := s.nv } = s) ∧
      (f.stage ≠ 7#8 → exec .bootRunning s = .next s)) ∧
    (∀ b rest, s.vaux = true → s.ballast = b :: rest →
      ∃ s', exec (.ballastDrainLine (paDie b.addr)) s = .next s' ∧ s'.ballast = rest ∧ readLE s'.mem b.addr 64 = b.data.toNat ∧ sameBytesBut s s' b.addr 64 ∧ s'.crews = s.crews)

/-- Boot and attestation (01 R24; 06 R131; 15 R324 to R327): a cold reset leaves the state of reset but for what needs no power, with every accepted SCM line in place, counts the boot and
enters stage 1; each stage is entered in turn, 2 and 3 with the code of the image that fails, 4 once VIN is there, 7 once the hold-up charge has completed. SPDM requests are answered
through the secondary mailbox.
Model choices it rests on: notes/assumptions/2.md, 3.md, 5.md, 32.md and 33.md. -/
def Obligations.BootAndAttestation : Prop :=
  ∀ s : State,
    (s.vaux = false → exec .coldReset s = .next s) ∧ (∀ n, s.powerLoss = some n → n < 2 ^ 15 → exec .coldReset s = .next s) ∧
    (s.vaux = true → (∀ n, s.powerLoss = some n → 2 ^ 15 ≤ n) →
      ∃ s', exec .coldReset s = .next s' ∧ s'.nv.boots = s.nv.boots + 1#32 ∧ s'.nv.keys = s.nv.keys ∧ s'.nv.records = s.nv.records ∧ s'.nv.firmware = s.nv.firmware ∧ s'.nv.secver = s.nv.secver ∧
        s'.crews = [] ∧ s'.launches = [] ∧ s'.commands = [] ∧ s'.matrix = [] ∧ s'.tlb = [] ∧ s'.gangTlb = [] ∧ s'.ballast = [] ∧ s'.focus = none ∧ s'.platform.cap = State.reset.platform.cap ∧ s'.lqs = State.reset.lqs ∧ s'.pools = State.reset.pools ∧
        s'.ranges = State.reset.ranges ∧ s'.capGen = State.reset.capGen ∧ s'.span = State.reset.span ∧ s'.dead = s.dead ∧ s'.powerLoss = none ∧ s'.platform.stage = 1#8 ∧ s'.platform.fail = 0#8 ∧
        ((∀ b, b ∈ s.ballast → b.addr % 64 = 0) → ∀ a, 2 ^ 44 ≤ a → (s'.byteAt a).toNat = s.physRead a 1) ∧ (∀ a, a < 2 ^ 44 → s'.byteAt a = 0#8)) ∧
    (s.vaux = true → s.powerLoss = none → s.platform.fail = 0#8 →
      let enters (n c : Nat) : Prop := s.bootStage = { s with platform := { s.platform with stage := BitVec.ofNat 8 n, fail := BitVec.ofNat 8 c } }
      (s.platform.stage = 1#8 → enters 2 (s.nv.verifyAll [1])) ∧ (s.platform.stage = 2#8 → enters 3 (s.nv.verifyAll [2, 3])) ∧
      (s.platform.stage = 3#8 → s.vin = true → enters 4 0) ∧ (s.platform.stage = 3#8 → s.vin = false → s.bootStage = s) ∧
      (s.platform.stage = 4#8 → s.vin = true → s.bootStage = { s with platform := { s.platform with stage := 5#8, secver := s.nv.secver } }) ∧
      (s.platform.stage = 5#8 → s.vin = true → enters 6 0) ∧ (s.platform.stage = 6#8 → s.vin = true → s.platform.holdup = true → enters 7 0) ∧
      (s.platform.stage = 6#8 → s.platform.holdup = false → s.bootStage = s)) ∧
    (s.platform.fail ≠ 0#8 → s.bootStage = s) ∧
    (∀ (kind : Nat) (g : Firmware), (imageCode s.nv kind g = 0 → s.nv.secver.toNat ≤ payAt g.image 8 1 ∧ payAt g.image 6 2 = kind ∧ 3780 ≤ g.image.length ∧ payAt g.image 12 4 = (g.image.drop 4096).length ∧
        payAt g.image 16 32 = (Config.sha3 (g.image.drop 4096)).toNat ∧ (∃ k, k ∈ s.nv.keys ∧ k.1 = Config.sha3 ((g.image.drop 48).take 1312) ∧ k.2 = false)) ∧
      (payAt g.image 6 2 ≠ kind → imageCode s.nv kind g = 1)) ∧
    (∀ msg : List Byte,
      let answered (i : Instr) : Prop := (s.usable = true → exec i s = .next { s with spdm := some (Config.spdmResponse msg s.nv.spdmFacts s.free), free := s.free + 1 }) ∧ (s.usable = false → exec i s = .next s)
      answered (.getVersion msg) ∧ answered (.getCapabilities msg) ∧ answered (.negotiateAlgorithms msg) ∧ answered (.getDigests msg) ∧ answered (.getCertificate msg) ∧ answered (.challenge msg) ∧
      answered (.getMeasurements msg) ∧
      (s.usable = true → exec (.spdmUnsupportedRequest msg) s = .next { s with spdm := some [0x13#8, 0x7F#8, 0x07#8, msg.getD 1 0#8] }) ∧ (s.usable = false → exec (.spdmUnsupportedRequest msg) s = .next s))

/-! ### The fabric -/

/-- Ports and their links (14 R309 to R311; 20 R389): the states of a port and their events, HELLO and its outcome, a numbered flit taken in order with an ACK, a repeated one
ignored, a gap or a bad flit answered with a NAK, an ACK that drops what it covers, a NAK that replays the rest and whose 16th takes the port down; a flit whose CRC is wrong gets a
NAK and costs its port 1, in HELLO too; a port that goes down hands its flits on. In the other states a port takes no flit, but a FOREIGN one its HELLO. With the fabric off nothing happens.
Model choices it rests on: notes/assumptions/24.md, 25.md, 63.md and 77.md. -/
def Obligations.PortsAndLinks : Prop :=
  ∀ (s : State) (p : Nat) (q : Port), p < 24 → s.ports[p]? = some q →
    let linked (i : Instr) (f : State → Port → Prop) : Prop := ∃ (s' : State) (q' : Port), exec i s = .next s' ∧ s'.ports[p]? = some q' ∧ (∀ j, j ≠ p → s'.ports[j]? = s.ports[j]?) ∧ s'.crews = s.crews ∧ s'.mem = s.mem ∧ f s' q'
    let sends (s' : State) (kind : BitVec 8) (seq : BitVec 16) : Prop := ∃ f : Flit, s'.outbox = s.outbox ++ [f] ∧ f.port = p ∧ f.kind = kind ∧ f.seq = seq ∧ crcOk f = true
    let hellos (s' : State) : Prop := ∃ f : Flit, s'.outbox = s.outbox ++ [f] ∧ f.port = p ∧ f.kind = 1#8 ∧ f.seq = 0#16 ∧ f.payload = flitPayload (s.helloPayload p) ∧ crcOk f = true
    let nakked (i : Instr) : Prop := linked i (fun s' q' => q' = q ∧ sends s' 3#8 q.rxSeq ∧ (s'.unit (.port p)).score = BitVec.ofNat 16 (min 65535 ((s.unit (.port p)).score.toNat + 1)))
    let down (i : Instr) (left : List Flit) : Prop := ∃ (s' : State) (q' : Port), exec i s = .next s' ∧ s'.ports[p]? = some q' ∧ q'.state = 0 ∧ q'.unacked = [] ∧ q'.txSeq = 0#16 ∧ q'.rxSeq = 0#16 ∧ raised s s' 7 1 ∧
      s'.outbox.length = s.outbox.length + left.length ∧ s'.crews = s.crews ∧ s'.mem = s.mem ∧
      ((∀ (j : Nat) (x : Port), j ≠ p → s.ports[j]? = some x → x.state ≠ 3) → s'.outbox = s.outbox ++ left.map (fun f => { f with port := 24 }) ∧ ∀ j, j ≠ p → s'.ports[j]? = s.ports[j]?)
    let others (f : Flit) : List Instr := [.ack f, .nak f, .flitCrcError f, .flitUnassigned f, .flitWrite f, .flitReadRequest f, .flitReadResponse f]
    let to_ (i : Instr) (st : Nat) : Prop := linked i (fun s' q' => q'.state = st ∧ q'.age = 0 ∧ raised s s' 7 1 ∧ s'.outbox = s.outbox)
    (s.fabricOn = false → exec (.portSignalDetect p) s = .next s ∧ exec (.portLanesLocked p) s = .next s ∧ exec (.portTrainTimeout p) s = .next s ∧ exec (.portSignalLoss p) s = .next s ∧
      (∀ f : Flit, f.port = p → exec (.hello f) s = .next s ∧ ∀ i, i ∈ others f → exec i s = .next s)) ∧
    (s.fabricOn = true →
      (q.state = 0 → q.retired = false → to_ (.portSignalDetect p) 1) ∧ (q.state ≠ 0 ∨ q.retired = true → exec (.portSignalDetect p) s = .next s) ∧
      (q.state = 1 → linked (.portLanesLocked p) (fun s' q' => q'.state = 2 ∧ q'.age = 0 ∧ raised s s' 7 1 ∧ hellos s') ∧
        (2 ^ 24 ≤ q.age → to_ (.portTrainTimeout p) 0) ∧ (q.age < 2 ^ 24 → exec (.portTrainTimeout p) s = .next s)) ∧
      (q.state ≠ 1 → exec (.portLanesLocked p) s = .next s ∧ exec (.portTrainTimeout p) s = .next s) ∧
      (q.state = 3 → down (.portSignalLoss p) q.unacked) ∧ (q.state ≠ 3 → exec (.portSignalLoss p) s = .next s) ∧
      (∀ f : Flit, f.port = p →
        let same : Prop := s.span.joined = true ∧ payAt f.payload 2 1 = 1 ∧ payAt f.payload 4 4 = s.span.id.toNat ∧ payAt f.payload 8 2 ∉ s.span.lost
        let met (s' : State) (q' : Port) : Prop := (same → q'.state = 3) ∧ (¬same → q'.state = 4) ∧ q'.fver.toNat = min Config.fabricVersion.toNat (payAt f.payload 0 1) ∧
          q'.tver.toNat = min Config.tetherVersion.toNat (payAt f.payload 1 1) ∧ q'.peerSpan.toNat = payAt f.payload 4 4 ∧ q'.peerIndex.toNat = payAt f.payload 8 2 ∧ s'.slices = s.slices
        (q.state ≠ 2 → q.state ≠ 3 → (∀ i, i ∈ others f → exec i s = .next s) ∧ (q.state ≠ 4 → exec (.hello f) s = .next s)) ∧
        (q.state = 2 ∨ q.state = 3 → crcOk f = false → s.decayAge < 2 ^ 28 → nakked (.hello f) ∧ ∀ i, i ∈ others f → nakked i) ∧
        (q.state = 2 → crcOk f = true →
          ((∀ g, g ∈ s.outbox → g.port ≠ 24) → linked (.hello f) (fun s' q' => met s' q' ∧ raised s s' 7 1 ∧ s'.outbox = s.outbox)) ∧
          linked (.nak f) (fun s' q' => q' = q ∧ hellos s') ∧ (∀ i, i ∈ others f → i ≠ .nak f → exec i s = .next s)) ∧
        (q.state = 4 → (crcOk f = false → exec (.hello f) s = .next s) ∧
          (crcOk f = true → (∀ g, g ∈ s.outbox → g.port ≠ 24) → linked (.hello f) (fun s' q' => met s' q' ∧ raised s s' 7 2 ∧ hellos s'))) ∧
        (q.state = 3 → crcOk f = true → exec (.hello f) s = .next s ∧
          (∃ s', exec (.ack f) s = .next s' ∧ s'.ports[p]? = some { q with unacked := q.unacked.filter (fun x => seqBefore f.seq x.seq) } ∧ { s' with ports := s.ports } = s) ∧
          (let n := if q.nakSeq = f.seq ∧ q.naks ≠ 0 then q.naks + 1 else 1
           let left := q.unacked.filter (fun x => x.seq == f.seq || seqBefore f.seq x.seq)
           (n < 16 → linked (.nak f) (fun s' q' => q' = { q with unacked := left, nakSeq := f.seq, naks := n } ∧ s'.outbox = s.outbox ++ left)) ∧
           (16 ≤ n → down (.nak f) left)) ∧
          exec (.flitCrcError f) s = .next s ∧
          (f.kind.toNat ∉ [0, 1, 2, 3, 0x10, 0x11, 0x12, 0x20, 0x21, 0x30, 0x31, 0x32, 0x40] → linked (.flitUnassigned f) (fun s' q' => q' = q ∧ sends s' 3#8 q.rxSeq)) ∧
          (∀ i, i ∈ [Instr.flitWrite f, .flitReadRequest f, .flitReadResponse f] →
            (f.seq = q.rxSeq → linked i (fun s' q' => q' = { q with rxSeq := q.rxSeq + 1#16 } ∧ sends s' 2#8 q.rxSeq)) ∧
            (seqBefore f.seq q.rxSeq = true → exec i s = .next s) ∧
            (f.seq ≠ q.rxSeq → seqBefore f.seq q.rxSeq = false → linked i (fun s' q' => q' = q ∧ sends s' 3#8 q.rxSeq))))))

/-- Span reductions, Comet shards and lost members (12 R271, R277; 14 R310; 18 R359; 21 R411): a contribution makes a member's command known or brings a value of its node, a result value reaches the commands that wait for it, a part of a
shard is kept, a shard that is asked for is sent, a member without a route raises event 0x09 and after 2^24 management cycles is lost with event 0x0C; its lines' copies and requests go. The payload layout is the model's own.
Model choices it rests on: notes/assumptions/24.md, 60.md, 61.md and 76.md. -/
def Obligations.SpanMessages : Prop :=
  ∀ s : State,
    (∀ (f : Flit) (q : Port), f.port < 24 → s.ports[f.port]? = some q → q.state = 3 → s.fabricOn = true → crcOk f = true → f.seq = q.rxSeq →
      let n := nodeOf f.payload
      (s.commands = [] → ∃ s', exec (.xredContribution f) s = .next s' ∧ s'.crews = s.crews ∧ s'.mem = s.mem ∧ (s'.ports[f.port]?).map (·.rxSeq) = some (q.rxSeq + 1#16) ∧
        (payAt f.payload 17 1 ≠ 0 → s'.spanNodes = s.spanNodes ∧ s'.spanVals = s.spanVals ++ [⟨n.group, n.k, n.member, n.cbase, n.logb, payAt f.payload 24 4, BitVec.ofNat 64 (payAt f.payload 28 8)⟩]) ∧
        (payAt f.payload 17 1 = 0 → s'.spanVals = s.spanVals ∧ ((∀ x, x ∈ s.spanNodes → sameNode n x = false) → s'.spanNodes = s.spanNodes ++ [n]) ∧
          ((∃ x, x ∈ s.spanNodes ∧ sameNode n x = true) → s'.spanNodes.length = s.spanNodes.length))) ∧
      (∃ s', exec (.xredResult f) s = .next s' ∧ s'.crews = s.crews ∧ s'.mem = s.mem ∧ s'.commands.length = s.commands.length ∧
        (payAt f.payload 17 1 = 0 → s'.commands = s.commands) ∧
        (payAt f.payload 17 1 ≠ 0 → let v : Nat × Word := (payAt f.payload 24 4, BitVec.ofNat 64 (payAt f.payload 28 8))
          ∀ (i : Nat) (m : Command), s.commands[i]? = some m → s'.commands[i]? = some (if m.isSpan = true ∧ m.group = n.group ∧ m.spanK = n.k ∧ m.formed = true ∧ m.rootFail = false ∧
            m.root.all (fun u => u.1 != v.1) = true then { m with root := m.root ++ [v] } else m))) ∧
      (payAt f.payload 4 1 = 5 →
        let n := BitVec.ofNat 32 (payAt f.payload 0 4)
        let k := payAt f.payload 7 1
        let lacks : Prop := 2 < k ∨ s.intactUnit n (s.comet.shardUnit k (payAt f.payload 8 8)) = none
        ∃ s', exec (.cometShard f) s = .next s' ∧ s'.crews = s.crews ∧ s'.mem = s.mem ∧ s'.comet = s.comet ∧ s'.shards = s.shards ∧
          (lacks → s'.outbox.length = s.outbox.length + 2) ∧ (¬lacks → s'.outbox.length = s.outbox.length + 87) ∧
          (∀ a, s'.outbox.getLast? = some a → a.kind = 0x40#8 ∧ a.dst = f.src ∧ payAt a.payload 0 4 = payAt f.payload 0 4 ∧ payAt a.payload 4 1 = k ∧ payAt a.payload 7 1 = s.recordState n ∧
            (lacks → payAt a.payload 5 1 = 0) ∧ (¬lacks → payAt a.payload 5 1 = 1))) ∧
      (payAt f.payload 4 1 ≠ 5 → payAt f.payload 6 1 < 86 → ∃ (s' : State) (x : Shard), exec (.cometShard f) s = .next s' ∧ x ∈ s'.shards ∧ x.member = f.src.toNat ∧ x.step = BitVec.ofNat 32 (payAt f.payload 0 4) ∧ x.kind = payAt f.payload 4 1 ∧
        x.index = payAt f.payload 8 8 ∧ payAt f.payload 6 1 ∈ x.parts ∧ x.held = payAt f.payload 7 1 ∧ (payAt f.payload 5 1 ≠ 1 → x.valid = false) ∧ s'.crews = s.crews ∧ s'.mem = s.mem)) ∧
    (∀ m : Nat,
      (s.fabricOn = true → s.otherMember m = true → m ∉ s.span.lost → (∀ x, x ∈ s.span.noRoute → x.1 ≠ m) →
        ∃ s', exec (.routeLost m) s = .next s' ∧ s'.span = { s.span with noRoute := s.span.noRoute ++ [(m, 0)] } ∧ raised s s' 9 1 ∧ s'.slices = s.slices ∧ s'.crews = s.crews ∧ s'.mem = s.mem) ∧
      (s.otherMember m = false → exec (.routeLost m) s = .next s) ∧
      (∃ s', exec (.memberReachable m) s = .next s' ∧ (∀ x, x ∈ s'.span.noRoute ↔ x ∈ s.span.noRoute ∧ x.1 ≠ m) ∧ { s' with span := s.span } = s ∧ s'.span.lost = s.span.lost) ∧
      ((∀ x, x ∈ s.span.noRoute → x.1 ≠ m ∨ x.2 < 2 ^ 24) → exec (.memberLost m) s = .next s) ∧
      (∀ age, s.fabricOn = true → (m, age) ∈ s.span.noRoute → 2 ^ 24 ≤ age →
        ∃ s', exec (.memberLost m) s = .next s' ∧ m ∈ s'.span.lost ∧ (∀ x, x ∈ s'.span.noRoute → x.1 ≠ m) ∧ (s.comet.capture = none → raised s s' 0x0C 1) ∧ s'.comet.suspended = true ∧ s'.comet.capture = none ∧
          (s.comet.capture.isSome = true → ∃ a b, s'.events = s.events ++ [a, b] ∧ eventKind a = 0x0C ∧ eventKind b = 0x0B) ∧
          (∀ x, x ∈ s'.slices ↔ x ∈ s.slices ∧ x.line / 2 ^ 18 ≠ m) ∧ (∀ x, x ∈ s'.treqs → x.line / 2 ^ 18 = m → x.st ≠ .waiting) ∧ (∀ x, x ∈ s'.commands → x.isSpan = true → x.formed = true ∧ x.rootFail = true) ∧
          s'.crews = s.crews ∧ s'.mem = s.mem))

/-! ### Tether -/

/-- Tether accesses of a team (08 R185; 14 R313, R314, R316; 17 R344): SLD reads a copy that its slice holds, SST writes an M or E copy, which becomes M; without one a request goes to the home;
a store's or an atomic's request raises the store counter until its
answer; SATOM gives the old value that its home answers; a slice without room sends nothing; TCLAIM answers OK once, ABORTED or BOUNDS; a refused request traps with OWNER_LOST and a failed one with UNCORRECTABLE.
Model choices it rests on: notes/assumptions/46.md and 73.md. -/
def Obligations.TetherAccesses : Prop :=
  ∀ (s : State) (r : TeamRef) (c : Crew) (t : Team), s.acts r c t → ∀ (d a : SReg) (z : ScalarSize) (off : BitVec 32),
    let va := scalarAddr t a off
    let n := sizeBytes z
    let line := (va - s.span.base) / 64
    let cl := ((t.sreg a).toNat - s.span.base) / 64
    let asks (i : Instr) (l : Nat) (k : TReqKind) (n : BitVec 16) : Prop := ∃ s', exec i s = .next s' ∧ (s'.teamAt r).map (·.2) = some { t with sctr := t.sctr + n } ∧ s'.slices = s.slices ∧ sameBytes s s' ∧
      ∃ q, s'.treqs = s.treqs ++ [q] ∧ q.team = r ∧ q.gang = coreGang c.core ∧ q.line = l ∧ q.kind = k ∧ q.st = .waiting
    let room (l : Nat) : Bool := s.sliceRoom (coreGang c.core) l
    let ends (i : Instr) (q : TReq) (k : BitVec 16) : Prop :=
      let u := { t with sctr := t.sctr - k }
      (q.st = .waiting → exec i s = .next s) ∧
      (q.st = .refused → t.faulted = false → exec i s = .next (((s.dropTreq r).putTeam r u).scalarFault r 9 none)) ∧
      (q.st = .failed → t.faulted = false → exec i s = .next (((s.dropTreq r).putTeam r u).scalarFault r 6 none)) ∧
      (q.st = .refused ∨ q.st = .failed → t.faulted = true → exec i s = .next ((s.dropTreq r).putTeam r u))
    (∀ (b : SReg) (op : AtomOp), s.mpopClear r t = true → s.inTether (t.sreg a).toNat = true → (t.sreg a).toNat % n = 0 →
      let i : Instr := .satom d a b z op .glob
      (s.treqOf r = none → t.sctr ≠ 0xFFFF#16 → s.span.lost.contains (cl / 2 ^ 18) = false → room cl = true → asks i cl (.atomic ((t.sreg a).toNat % 64) (8 * n) op (t.sreg b) (t.sreg d)) 1#16) ∧
      (s.treqOf r = none → t.sctr ≠ 0xFFFF#16 → room cl = false → exec i s = .next s) ∧
      (∀ q, s.treqOf r = some q → ends i q 1#16 ∧
        (∀ old, q.st = .answered old → old.toNat < 2 ^ (8 * n) → t.faulted = false → exec i s = .next ((s.dropTreq r).putTeam r ({ t with sctr := t.sctr - 1#16 }.result d (loadedAs z old.toNat) 8))))) ∧
    (s.mpopClear r t = true → s.inTether va = true → va % n = 0 →
      (s.treqOf r = none →
        (∀ x, s.sliceCopy (coreGang c.core) line = some x → exec (.sld d a z (.glob off)) s = .next (s.putTeam r (t.result d (loadedAs z (x.value.toNat / 256 ^ (va % 64) % 256 ^ n)) 8))) ∧
        (s.sliceCopy (coreGang c.core) line = none → room line = true → s.span.lost.contains (line / 2 ^ 18) = false → asks (.sld d a z (.glob off)) line .read 0#16) ∧
        (s.sliceCopy (coreGang c.core) line = none → room line = false → exec (.sld d a z (.glob off)) s = .next s) ∧
        (t.sctr ≠ 0xFFFF#16 →
          (∀ x, s.sliceCopy (coreGang c.core) line = some x → x.st ≠ .s →
            ∃ s', exec (.sst d a z (.glob off)) s = .next s' ∧ s'.teamAt r = some (c.putTeam r.team (t.advance 8), t.advance 8) ∧
              s'.sliceCopy (coreGang c.core) line = some { x with st := .m, value := patchLine x.value (va % 64) n (t.sreg d).toNat } ∧ s'.home = s.home ∧ s'.treqs = s.treqs ∧ sameBytes s s') ∧
          (s.sliceCopy (coreGang c.core) line = none ∧ room line = true ∨ (∃ x, s.sliceCopy (coreGang c.core) line = some x ∧ x.st = .s) → s.span.lost.contains (line / 2 ^ 18) = false → asks (.sst d a z (.glob off)) line .own 1#16))) ∧
      (∀ q, s.treqOf r = some q → ends (.sld d a z (.glob off)) q 0#16 ∧ ends (.sst d a z (.glob off)) q 1#16)) ∧
    ((t.sreg a).toNat % 64 ≠ 0 ∨ s.inTether (t.sreg a).toNat = false → exec (.tclaim d a) s = .next (s.putTeam r (t.status d 7 4))) ∧
    ((t.sreg a).toNat % 64 = 0 → s.inTether (t.sreg a).toNat = true →
      (s.treqOf r = none → room cl = true → s.span.lost.contains (cl / 2 ^ 18) = false → asks (.tclaim d a) cl .claim 0#16) ∧
      (∀ q old, s.treqOf r = some q → q.st = .answered old → t.faulted = false → exec (.tclaim d a) s = .next ((s.dropTreq r).putTeam r (t.status d (if old = 1#64 then 0 else 5) 4))))

/-- The Tether directory and the slices (14 R314 to R316; 17 R344; 21 R418): what each request finds and leaves at the home for each directory state, what snoops, write-backs, replacements and
revokes do, and what silence leads to.
Model choices it rests on: notes/assumptions/24.md and 46.md. -/
def Obligations.TetherDirectory : Prop :=
  ∀ (s : State) (line gang : Nat) (link : Link) (tag : BitVec 32), gang < 48 →
    let me := s.span.index.toNat
    let slice := 64 * me + gang
    let h := s.homeLine line
    let homed : Prop := s.span.joined = true ∧ line / 2 ^ 18 = me
    let quiet (s' : State) : Prop := s'.crews = s.crews ∧ s'.mem = s.mem
    (s.fabricOn = false → exec (.tetherReadRequest line me gang tag link) s = .next s ∧ exec (.tetherOwnershipRequest line me gang tag link) s = .next s ∧ exec (.tetherSnoopTimeout line) s = .next s ∧
      exec (.homeGuardExpiry line) s = .next s) ∧
    (∀ q : TReq, s.fabricOn = true → homed → s.homeWaits = [] → s.treqs = [q] → q.tag = tag → q.gang = gang → q.line = line → q.st = .waiting →
      let gets (i : Instr) (st : Mesi) (dir : DirState) : Prop := ∃ s', exec i s = .next s' ∧ s'.treqs = [{ q with st := .granted }] ∧ s'.sliceCopy gang line = some ⟨gang, line, st, h.value⟩ ∧
        s'.homeLine line = ⟨line, dir, h.value⟩ ∧ s'.homeWaits = [] ∧ quiet s'
      let waits (i : Instr) (l : List Nat) : Prop := ∃ s' w, exec i s = .next s' ∧ s'.homeWaits = [w] ∧ w.line = line ∧ w.slice = slice ∧ w.begun = true ∧ w.snooped = l ∧ w.age = 0 ∧ s'.treqs = [q] ∧ s'.home = s.home ∧ quiet s'
      let refuses (i : Instr) : Prop := ∃ s', exec i s = .next s' ∧ s'.treqs = [{ q with st := .refused }] ∧ s'.home = s.home ∧ s'.slices = s.slices ∧ s'.homeWaits = [] ∧ quiet s'
      let answers (i : Instr) (old : Word) (dir : DirState) (v : BitVec 512) : Prop := ∃ s', exec i s = .next s' ∧ s'.treqs = [{ q with st := .answered old }] ∧ s'.homeLine line = ⟨line, dir, v⟩ ∧
        s'.slices = s.slices ∧ s'.homeWaits = [] ∧ quiet s'
      (q.kind = .read →
        let i : Instr := .tetherReadRequest line me gang tag link
        (h.dir = .uncached → gets i .e (.exclusive slice)) ∧ (∀ l, h.dir = .shared l → gets i .s (.shared (natInsert slice l))) ∧
        (∀ o, h.dir = .exclusive o → s.span.lost.contains (o / 64) = false → waits i [o]) ∧ (∀ o, h.dir = .ownerLost o → refuses i)) ∧
      (q.kind = .own →
        let i : Instr := .tetherOwnershipRequest line me gang tag link
        (h.dir = .uncached → gets i .m (.exclusive slice)) ∧ (∀ l, h.dir = .shared l → l.filter (fun o => o != slice) = [] → gets i .m (.exclusive slice)) ∧
        (∀ l, h.dir = .shared l → l.filter (fun o => o != slice) ≠ [] → (∀ o, o ∈ l → s.span.lost.contains (o / 64) = false) → waits i (l.filter (fun o => o != slice))) ∧
        (∀ o, h.dir = .exclusive o → s.span.lost.contains (o / 64) = false → waits i [o]) ∧ (∀ o, h.dir = .ownerLost o → refuses i)) ∧
      (∀ (off : BitVec 6) (z : ScalarSize) (op : AtomOp) (x y : Word) (b : Bool), q.kind = (if b then .claim else .atomic off.toNat (8 * sizeBytes z) op x y) → off.toNat % sizeBytes z = 0 →
        let i : Instr := .tetherAtomicRequest line me gang tag off z op x y b link
        let old := h.value.toNat / 256 ^ off.toNat % 256 ^ sizeBytes z
        (b = false → h.dir = .uncached → answers i (BitVec.ofNat 64 old) .uncached (patchLine h.value off.toNat (8 * sizeBytes z / 8) (atomNew op (8 * sizeBytes z) old x.toNat y.toNat))) ∧
        (b = false → ∀ o, h.dir = .ownerLost o → refuses i) ∧ (b = false → ∀ o, h.dir = .exclusive o → s.span.lost.contains (o / 64) = false → waits i [o]) ∧
        (b = true → (∀ o, h.dir = .ownerLost o → answers i 1#64 .uncached h.value) ∧ ((∀ o, h.dir ≠ .ownerLost o) → answers i 0#64 h.dir h.value)))) ∧
    (∀ (q : TReq) (pt : Port), s.fabricOn = true → ¬homed → link.port < 24 → s.ports[link.port]? = some pt → pt.state = 3 → s.treqs = [q] → q.tag = tag → q.gang = gang → q.line = line → q.st = .waiting → ∀ (excl modified : Bool) (data : BitVec 512) (old : Word),
      (link.seq = pt.rxSeq → ∃ s', exec (.tetherGrant line gang tag excl modified true data old link) s = .next s' ∧ s'.treqs = [{ q with st := .refused }] ∧ s'.slices = s.slices ∧ quiet s') ∧
      (q.kind = .read → link.seq = pt.rxSeq + 1#16 → ∃ s', exec (.tetherGrant line gang tag excl modified false data old link) s = .next s' ∧ s'.treqs = [{ q with st := .granted }] ∧
        s'.sliceCopy gang line = some ⟨gang, line, if modified then .m else if excl then .e else .s, data⟩ ∧ quiet s') ∧
      (q.kind = .claim → link.seq = pt.rxSeq → ∃ s', exec (.tetherGrant line gang tag excl modified false data old link) s = .next s' ∧ s'.treqs = [{ q with st := .answered old }] ∧ s'.slices = s.slices ∧ quiet s')) ∧
    (∀ (w : HomeWait) (x : SliceLine), s.fabricOn = true → homed → s.homeWaits = [w] → w.line = line → w.begun = true → w.snooped = [slice] → h.dir = .exclusive slice → s.sliceCopy gang line = some x →
      w.slice / 64 = me → s.treqs = [] → let v := if x.st = .m then x.value else h.value
      (w.kind = .read → ∃ s', exec (.tetherSnoop line gang false link) s = .next s' ∧ s'.sliceCopy gang line = some { x with st := .s } ∧ s'.homeLine line = ⟨line, .shared (natInsert w.slice [slice]), v⟩ ∧ s'.homeWaits = [] ∧ quiet s') ∧
      (w.kind = .own → w.slice ≠ slice → ∃ s', exec (.tetherSnoop line gang true link) s = .next s' ∧ s'.sliceCopy gang line = none ∧ s'.homeLine line = ⟨line, .exclusive w.slice, v⟩ ∧ s'.homeWaits = [] ∧ quiet s')) ∧
    (∀ (pkg : Nat) (d : BitVec 512) (pt : Port), s.fabricOn = true → homed → link.port < 24 → s.ports[link.port]? = some pt → pt.state = 3 → link.seq = pt.rxSeq + 1#16 → s.otherMember pkg = true → s.homeWaits = [] →
      (h.dir = .exclusive (64 * pkg + gang) → ∃ s', exec (.tetherWriteBack line pkg gang (some d) link) s = .next s' ∧ s'.homeLine line = ⟨line, .uncached, d⟩ ∧ quiet s') ∧
      (∀ o, h.dir = .ownerLost o → ∃ s', exec (.tetherWriteBack line pkg gang (some d) link) s = .next s' ∧ s'.home = s.home ∧ quiet s')) ∧
    (s.sliceCopy gang line = none → exec (.tetherReplacement line gang) s = .next s) ∧
    (∀ x, s.sliceCopy gang line = some x → s.fabricOn = true →
      (x.st ≠ .m → exec (.tetherReplacement line gang) s = .next (s.dropSlice gang line)) ∧
      (x.st = .m → homed → h.dir = .exclusive slice → s.homeWaits = [] →
        ∃ s', exec (.tetherReplacement line gang) s = .next s' ∧ s'.sliceCopy gang line = none ∧ s'.homeLine line = ⟨line, .uncached, x.value⟩ ∧ quiet s')) ∧
    (∀ w : HomeWait, s.homeWaits = [w] → w.line = line → w.begun = true → s.fabricOn = true →
      (w.age < 2 ^ 20 → exec (.tetherSnoopTimeout line) s = .next s ∧ exec (.homeGuardExpiry line) s = .next s) ∧
      (2 ^ 20 ≤ w.age → ∀ o, h.dir = .exclusive o →
        (∃ s', exec (.tetherSnoopTimeout line) s = .next s' ∧ s'.homeLine line = ⟨line, .ownerLost o, h.value⟩ ∧ s'.homeWaits = [] ∧ raised s s' 8 1 ∧ quiet s') ∧
        (s.requesterSilent w = true → ∃ s', exec (.homeGuardExpiry line) s = .next s' ∧ s'.homeWaits = [] ∧ s'.homeLine line = ⟨line, .ownerLost o, h.value⟩ ∧ quiet s') ∧
        (s.requesterSilent w = false → exec (.homeGuardExpiry line) s = .next s)) ∧
      (2 ^ 20 ≤ w.age → ∀ l, h.dir = .shared l → w.kind = .own → w.slice / 64 = me → s.treqs = [] →
        ∃ s', exec (.tetherSnoopTimeout line) s = .next s' ∧ s'.homeLine line = ⟨line, .exclusive w.slice, h.value⟩ ∧ s'.homeWaits = [] ∧ (slice ∈ w.snooped → s'.sliceCopy gang line = none) ∧
          (slice ∉ w.snooped → s'.sliceCopy gang line = s.sliceCopy gang line) ∧ s'.events = s.events ∧ quiet s')) ∧
    (∀ pt : Port, s.fabricOn = true → ¬homed → link.port < 24 → s.ports[link.port]? = some pt → pt.state = 3 → link.seq = pt.rxSeq → ∃ s', exec (.tetherRevoke line gang link) s = .next s' ∧ s'.sliceCopy gang line = none ∧ s'.home = s.home ∧ quiet s') ∧
    (∀ r : TeamRef, ∃ s', exec (.requestGuardExpiry r) s = .next s' ∧ { s' with treqs := s.treqs } = s ∧ s'.treqs.length = s.treqs.length ∧
      (∀ (i : Nat) (q : TReq), s.treqs[i]? = some q → s'.treqs[i]? = some (if q.team = r ∧ q.st = .waiting ∧ 2 ^ 24 ≤ q.age then { q with st := .failed } else q)))
end

