-- ==== Sys2Proof/Laws/Cells.lean ====
section
/-! SUPPORT. Sparse arrays and memory: read after write, and that every operation keeps the canonical form. -/

namespace Sys2Proof.Machine

variable {w : Nat}

/-! ### Reading after an update, of any list -/

theorem cellGet_filter (m : SMap w) (q : Nat → Bool) (b : Nat) :
    cellGet (m.filter (fun c => q c.1)) b = if q b then cellGet m b else 0#w := by
  induction m with
  | nil => simp [cellGet]
  | cons c rest ih =>
    obtain ⟨a, v⟩ := c
    by_cases hb : b = a
    · subst hb
      by_cases hq : q b = true
      · simp [List.filter, hq, cellGet]
      · simp only [Bool.not_eq_true] at hq
        simp [List.filter, hq, ih]
    · by_cases hq : q a = true
      · simp [List.filter, hq, cellGet, hb, ih]
      · simp only [Bool.not_eq_true] at hq
        simp [List.filter, hq, cellGet, hb, ih]

theorem cellGet_cellDrop (m : SMap w) (a b : Nat) : cellGet (cellDrop m a) b = if b = a then 0#w else cellGet m b := by
  rw [cellDrop, cellGet_filter m (fun x => x != a) b]
  by_cases h : b = a <;> simp [h]

theorem cellGet_cellPut (m : SMap w) (a b : Nat) (v : BitVec w) (h : cellGet m a = 0#w) (hv : ∀ c ∈ m, c.1 ≠ a) :
    cellGet (cellPut m a v) b = if b = a then v else cellGet m b := by
  induction m with
  | nil => by_cases hb : b = a <;> simp [cellPut, cellGet, hb]
  | cons c rest ih =>
    obtain ⟨x, u⟩ := c
    have hx : x ≠ a := hv (x, u) (by simp)
    by_cases hlt : a < x
    · by_cases hb : b = a
      · simp [cellPut, hlt, cellGet, hb]
      · simp [cellPut, hlt, cellGet, hb]
    · have hr : cellGet rest a = 0#w := by simpa [cellGet, hx.symm] using h
      have := ih hr (fun c hc => hv c (by simp [hc]))
      by_cases hb : b = a
      · subst hb; simp [cellPut, hlt, cellGet, hx.symm, this]
      · simp [cellPut, hlt, cellGet, this, hb]

/-- Read after write. -/
theorem cellGet_cellSet (m : SMap w) (a b : Nat) (v : BitVec w) : cellGet (cellSet m a v) b = if b = a then v else cellGet m b := by
  unfold cellSet
  by_cases hv : v = 0#w
  · simp [hv, cellGet_cellDrop]
  · rw [if_neg hv, cellGet_cellPut _ _ _ _ (by simp [cellGet_cellDrop]) (by simp [cellDrop]), cellGet_cellDrop]
    by_cases hb : b = a <;> simp [hb]
@[simp] theorem cellGet_cellSet_self (m : SMap w) (a : Nat) (v : BitVec w) : cellGet (cellSet m a v) a = v := by
  simp [cellGet_cellSet]
theorem cellGet_cellSet_other (m : SMap w) {a b : Nat} (v : BitVec w) (h : b ≠ a) : cellGet (cellSet m a v) b = cellGet m b := by
  simp [cellGet_cellSet, h]

/-- Erased cells read zero, the others as before. -/
theorem cellGet_cellErase (m : SMap w) (a n b : Nat) : cellGet (cellErase m a n) b = if a ≤ b ∧ b < a + n then 0#w else cellGet m b := by
  rw [cellErase, cellGet_filter m (fun x => !(decide (a ≤ x) && decide (x < a + n))) b]
  by_cases h : a ≤ b ∧ b < a + n
  · simp [h]
  · rw [if_neg h, if_pos]
    simp only [Bool.not_eq_true', Bool.and_eq_false_iff, decide_eq_false_iff_not]
    omega

/-! ### The canonical form -/

theorem SMap.wfFrom_mono {m : SMap w} {lo hi : Nat} (h : lo ≤ hi) (hm : SMap.wfFrom hi m = true) : SMap.wfFrom lo m = true := by
  cases m with
  | nil => rfl
  | cons c rest =>
    obtain ⟨a, v⟩ := c
    simp only [SMap.wfFrom, Bool.and_eq_true, decide_eq_true_eq] at hm ⊢
    exact ⟨⟨by omega, hm.1.2⟩, hm.2⟩

theorem filter_wfFrom {m : SMap w} {lo : Nat} (p : Nat × BitVec w → Bool) (hm : SMap.wfFrom lo m = true) :
    SMap.wfFrom lo (m.filter p) = true := by
  induction m generalizing lo with
  | nil => rfl
  | cons c rest ih =>
    obtain ⟨a, v⟩ := c
    simp only [SMap.wfFrom, Bool.and_eq_true, decide_eq_true_eq] at hm
    obtain ⟨⟨h1, h2⟩, h3⟩ := hm
    by_cases hp : p (a, v) = true
    · simp only [List.filter, hp, SMap.wfFrom, Bool.and_eq_true, decide_eq_true_eq]
      exact ⟨⟨h1, h2⟩, ih h3⟩
    · simp only [List.filter, Bool.not_eq_true] at hp ⊢
      rw [hp]
      exact SMap.wfFrom_mono (by omega) (ih h3)

theorem cellPut_wfFrom {m : SMap w} {lo a : Nat} {v : BitVec w} (hm : SMap.wfFrom lo m = true) (ha : lo ≤ a) (hv : v ≠ 0#w)
    (hn : ∀ c ∈ m, c.1 ≠ a) : SMap.wfFrom lo (cellPut m a v) = true := by
  induction m generalizing lo with
  | nil => simp [cellPut, SMap.wfFrom, hv, ha]
  | cons c rest ih =>
    obtain ⟨b, u⟩ := c
    have hb : b ≠ a := hn (b, u) (by simp)
    simp only [SMap.wfFrom, Bool.and_eq_true, decide_eq_true_eq] at hm
    obtain ⟨⟨h1, h2⟩, h3⟩ := hm
    by_cases hlt : a < b
    · simp only [cellPut, hlt, if_true, SMap.wfFrom, Bool.and_eq_true, decide_eq_true_eq]
      exact ⟨⟨ha, hv⟩, ⟨by omega, h2⟩, h3⟩
    · simp only [cellPut, hlt, if_false, SMap.wfFrom, Bool.and_eq_true, decide_eq_true_eq]
      exact ⟨⟨h1, h2⟩, ih h3 (by omega) (fun c hc => hn c (by simp [hc]))⟩

/-- Removing cells keeps the canonical form. -/
theorem filter_wf {m : SMap w} (p : Nat × BitVec w → Bool) (hm : m.wf = true) : SMap.wf (m.filter p) = true := filter_wfFrom p hm
theorem cellErase_wf {m : SMap w} (a n : Nat) (hm : m.wf = true) : (cellErase m a n).wf = true := filter_wf _ hm
/-- A write keeps the canonical form. -/
theorem cellSet_wf {m : SMap w} (a : Nat) (v : BitVec w) (hm : m.wf = true) : (cellSet m a v).wf = true := by
  unfold cellSet
  by_cases hv : v = 0#w
  · rw [if_pos hv]; exact filter_wf _ hm
  · rw [if_neg hv]; exact cellPut_wfFrom (filter_wf _ hm) (Nat.zero_le a) hv (by simp [cellDrop])

/-! ### Bytes of memory -/

/-- A store of several bytes keeps the canonical form of memory. -/
theorem writeLE_wf {m : Memory} (a n v : Nat) (hm : m.wf = true) : (writeLE m a n v).wf = true := by
  induction n generalizing m a v with
  | zero => exact hm
  | succ n ih => exact ih _ _ (cellSet_wf (w := 8) a _ hm)

/-- A store leaves every byte outside alone. -/
theorem cellGet_writeLE_other (m : Memory) (a n v b : Nat) (hb : b < a ∨ a + n ≤ b) : cellGet (writeLE m a n v) b = cellGet m b := by
  induction n generalizing m a v with
  | zero => rfl
  | succ n ih => rw [writeLE, ih _ _ _ (by omega), cellGet_cellSet_other (w := 8) _ _ (by omega)]

/-- Byte i of a store reads as byte i of the value. -/
theorem cellGet_writeLE_same (m : Memory) (a n v i : Nat) (hi : i < n) : cellGet (writeLE m a n v) (a + i) = BitVec.ofNat 8 (v / 256 ^ i) := by
  induction n generalizing m a v i with
  | zero => omega
  | succ n ih =>
    rw [writeLE]
    cases i with
    | zero => rw [cellGet_writeLE_other _ _ _ _ _ (by omega), Nat.add_zero, cellGet_cellSet_self (w := 8)]; simp
    | succ i => rw [show a + (i + 1) = a + 1 + i by omega, ih _ (a + 1) (v / 256) i (by omega), Nat.div_div_eq_div_mul, Nat.pow_succ, Nat.mul_comm]

/-- The value stored reads back. -/
theorem readLE_writeLE (m : Memory) (a n v : Nat) : readLE (writeLE m a n v) a n = v % 256 ^ n := by
  induction n generalizing m a v with
  | zero => simp [readLE, Nat.mod_one]
  | succ n ih =>
    have h0 := cellGet_writeLE_same m a (n + 1) v 0 (by omega)
    simp only [Nat.add_zero, pow_zero, Nat.div_one] at h0
    rw [readLE, h0, writeLE, ih, Nat.pow_succ, Nat.mul_comm (256 ^ n) 256, Nat.mod_mul]
    simp [BitVec.toNat_ofNat]

/-- A store elsewhere leaves what is read alone. -/
theorem readLE_writeLE_other (m : Memory) (a n v b k : Nat) (h : b + k ≤ a ∨ a + n ≤ b) : readLE (writeLE m a n v) b k = readLE m b k := by
  induction k generalizing b with
  | zero => rfl
  | succ k ih => rw [readLE, readLE, ih _ (by omega), cellGet_writeLE_other _ _ _ _ _ (by omega)]

end Sys2Proof.Machine
end

