-- ==== Sys2Proof/Laws/State.lean ====
section
/-! SUPPORT. One lemma per field per update of a team and of the package: what each named update changes, and that it changes
nothing else. -/

namespace Sys2Proof.Machine

/-! ### Updates of a team -/

@[simp] theorem Team.advance_id (t : Team) (n : Nat) : (t.advance n).id = t.id := rfl
@[simp] theorem Team.advance_lanes (t : Team) (n : Nat) : (t.advance n).lanes = t.lanes := rfl
@[simp] theorem Team.advance_regs (t : Team) (n : Nat) : (t.advance n).regs = t.regs := rfl
@[simp] theorem Team.advance_priv (t : Team) (n : Nat) : (t.advance n).priv = t.priv := rfl
@[simp] theorem Team.advance_sregs (t : Team) (n : Nat) : (t.advance n).sregs = t.sregs := rfl
@[simp] theorem Team.advance_masks (t : Team) (n : Nat) : (t.advance n).masks = t.masks := rfl
@[simp] theorem Team.advance_votes (t : Team) (n : Nat) : (t.advance n).votes = t.votes := rfl
@[simp] theorem Team.advance_stack (t : Team) (n : Nat) : (t.advance n).stack = t.stack := rfl
@[simp] theorem Team.advance_queue (t : Team) (n : Nat) : (t.advance n).queue = t.queue := rfl
@[simp] theorem Team.advance_lidx (t : Team) (n : Nat) : (t.advance n).lidx = t.lidx := rfl
@[simp] theorem Team.advance_retired (t : Team) (n : Nat) : (t.advance n).retired = t.retired := rfl
@[simp] theorem Team.advance_queues (t : Team) (n : Nat) : (t.advance n).queues = t.queues := rfl
@[simp] theorem Team.advance_scq (t : Team) (n : Nat) : (t.advance n).scq = t.scq := rfl
@[simp] theorem Team.advance_taken (t : Team) (n : Nat) : (t.advance n).taken = t.taken := rfl
@[simp] theorem Team.advance_obuf (t : Team) (n : Nat) : (t.advance n).obuf = t.obuf := rfl
@[simp] theorem Team.advance_obufNext (t : Team) (n : Nat) : (t.advance n).obufNext = t.obufNext := rfl
@[simp] theorem Team.advance_vregs (t : Team) (n : Nat) : (t.advance n).vregs = t.vregs := rfl
@[simp] theorem Team.advance_preds (t : Team) (n : Nat) : (t.advance n).preds = t.preds := rfl
@[simp] theorem Team.advance_exited (t : Team) (n : Nat) : (t.advance n).exited = t.exited := rfl
@[simp] theorem Team.advance_finished (t : Team) (n : Nat) : (t.advance n).finished = t.finished := rfl
@[simp] theorem Team.advance_faulted (t : Team) (n : Nat) : (t.advance n).faulted = t.faulted := rfl
@[simp] theorem Team.advance_swait (t : Team) (n : Nat) : (t.advance n).swait = t.swait := rfl
@[simp] theorem Team.advance_lwaits (t : Team) (n : Nat) : (t.advance n).lwaits = t.lwaits := rfl
@[simp] theorem Team.advance_stepNow (t : Team) (n : Nat) : (t.advance n).stepNow = t.stepNow := rfl
@[simp] theorem Team.advance_batchOpen (t : Team) (n : Nat) : (t.advance n).batchOpen = t.batchOpen := rfl
@[simp] theorem Team.advance_seqNext (t : Team) (n : Nat) : (t.advance n).seqNext = t.seqNext := rfl
@[simp] theorem Team.advance_guardDepth (t : Team) (n : Nat) : (t.advance n).guardDepth = t.guardDepth := rfl
@[simp] theorem Team.advance_nopreDepth (t : Team) (n : Nat) : (t.advance n).nopreDepth = t.nopreDepth := rfl
@[simp] theorem Team.advance_nopreUsed (t : Team) (n : Nat) : (t.advance n).nopreUsed = t.nopreUsed := rfl
@[simp] theorem Team.advance_nopreSpent (t : Team) (n : Nat) : (t.advance n).nopreSpent = t.nopreSpent := rfl
@[simp] theorem Team.advance_lfm (t : Team) (n : Nat) : (t.advance n).lfm = t.lfm := rfl
@[simp] theorem Team.advance_trapPc (t : Team) (n : Nat) : (t.advance n).trapPc = t.trapPc := rfl
@[simp] theorem Team.advance_trapCause (t : Team) (n : Nat) : (t.advance n).trapCause = t.trapCause := rfl
@[simp] theorem Team.advance_trapVec (t : Team) (n : Nat) : (t.advance n).trapVec = t.trapVec := rfl
@[simp] theorem Team.advance_trapLclause (t : Team) (n : Nat) : (t.advance n).trapLclause = t.trapLclause := rfl
@[simp] theorem Team.advance_trapLidx (t : Team) (n : Nat) : (t.advance n).trapLidx = t.trapLidx := rfl
@[simp] theorem Team.advance_trapLane (t : Team) (n : Nat) : (t.advance n).trapLane = t.trapLane := rfl
@[simp] theorem Team.advance_trapInh (t : Team) (n : Nat) : (t.advance n).trapInh = t.trapInh := rfl
@[simp] theorem Team.advance_restart (t : Team) (n : Nat) : (t.advance n).restart = t.restart := rfl
@[simp] theorem Team.advance_slots (t : Team) (n : Nat) : (t.advance n).slots = t.slots := rfl
@[simp] theorem Team.advance_ctxSel (t : Team) (n : Nat) : (t.advance n).ctxSel = t.ctxSel := rfl
@[simp] theorem Team.advance_sctr (t : Team) (n : Nat) : (t.advance n).sctr = t.sctr := rfl
@[simp] theorem Team.advance_lctr (t : Team) (n : Nat) : (t.advance n).lctr = t.lctr := rfl
@[simp] theorem Team.advance_pending (t : Team) (n : Nat) : (t.advance n).pending = t.pending := rfl
@[simp] theorem Team.advance_again (t : Team) (n : Nat) : (t.advance n).again = t.again := rfl
@[simp] theorem Team.advance_pairSeq (t : Team) (n : Nat) : (t.advance n).pairSeq = t.pairSeq := rfl
@[simp] theorem Team.advance_acc (t : Team) (n : Nat) : (t.advance n).acc = t.acc := rfl
@[simp] theorem Team.advance_accUsed (t : Team) (n : Nat) : (t.advance n).accUsed = t.accUsed := rfl
@[simp] theorem Team.advance_laneErr (t : Team) (n : Nat) : (t.advance n).laneErr = t.laneErr := rfl
@[simp] theorem Team.advance_scalarErr (t : Team) (n : Nat) : (t.advance n).scalarErr = t.scalarErr := rfl
@[simp] theorem Team.advance_accErr (t : Team) (n : Nat) : (t.advance n).accErr = t.accErr := rfl
@[simp] theorem Team.advance_wl (t : Team) (n : Nat) : (t.advance n).wl = t.wl := rfl
@[simp] theorem Team.advance_nextOrd (t : Team) (n : Nat) : (t.advance n).nextOrd = t.nextOrd := rfl
@[simp] theorem Team.advance_nextClause (t : Team) (n : Nat) : (t.advance n).nextClause = t.nextClause := rfl
@[simp] theorem Team.advance_fenceUid (t : Team) (n : Nat) : (t.advance n).fenceUid = t.fenceUid := rfl
@[simp] theorem Team.advance_blockedFor (t : Team) (n : Nat) : (t.advance n).blockedFor = t.blockedFor := rfl
@[simp] theorem Team.advance_scalarSlot (t : Team) (n : Nat) : (t.advance n).scalarSlot = t.scalarSlot := rfl
@[simp] theorem Team.advance_vectorSlot (t : Team) (n : Nat) : (t.advance n).vectorSlot = t.vectorSlot := rfl
@[simp] theorem Team.advance_matrixSlot (t : Team) (n : Nat) : (t.advance n).matrixSlot = t.matrixSlot := rfl
@[simp] theorem Team.advance_pc (t : Team) (n : Nat) : (t.advance n).pc = t.pc + BitVec.ofNat 64 n := rfl
@[simp] theorem Team.setSreg_id (t : Team) (d : SReg) (v : Word) : (t.setSreg d v).id = t.id := by unfold Team.setSreg; split <;> rfl
@[simp] theorem Team.setSreg_lanes (t : Team) (d : SReg) (v : Word) : (t.setSreg d v).lanes = t.lanes := by unfold Team.setSreg; split <;> rfl
@[simp] theorem Team.setSreg_regs (t : Team) (d : SReg) (v : Word) : (t.setSreg d v).regs = t.regs := by unfold Team.setSreg; split <;> rfl
@[simp] theorem Team.setSreg_priv (t : Team) (d : SReg) (v : Word) : (t.setSreg d v).priv = t.priv := by unfold Team.setSreg; split <;> rfl
@[simp] theorem Team.setSreg_pc (t : Team) (d : SReg) (v : Word) : (t.setSreg d v).pc = t.pc := by unfold Team.setSreg; split <;> rfl
@[simp] theorem Team.setSreg_masks (t : Team) (d : SReg) (v : Word) : (t.setSreg d v).masks = t.masks := by unfold Team.setSreg; split <;> rfl
@[simp] theorem Team.setSreg_votes (t : Team) (d : SReg) (v : Word) : (t.setSreg d v).votes = t.votes := by unfold Team.setSreg; split <;> rfl
@[simp] theorem Team.setSreg_stack (t : Team) (d : SReg) (v : Word) : (t.setSreg d v).stack = t.stack := by unfold Team.setSreg; split <;> rfl
@[simp] theorem Team.setSreg_queue (t : Team) (d : SReg) (v : Word) : (t.setSreg d v).queue = t.queue := by unfold Team.setSreg; split <;> rfl
@[simp] theorem Team.setSreg_lidx (t : Team) (d : SReg) (v : Word) : (t.setSreg d v).lidx = t.lidx := by unfold Team.setSreg; split <;> rfl
@[simp] theorem Team.setSreg_retired (t : Team) (d : SReg) (v : Word) : (t.setSreg d v).retired = t.retired := by unfold Team.setSreg; split <;> rfl
@[simp] theorem Team.setSreg_queues (t : Team) (d : SReg) (v : Word) : (t.setSreg d v).queues = t.queues := by unfold Team.setSreg; split <;> rfl
@[simp] theorem Team.setSreg_scq (t : Team) (d : SReg) (v : Word) : (t.setSreg d v).scq = t.scq := by unfold Team.setSreg; split <;> rfl
@[simp] theorem Team.setSreg_taken (t : Team) (d : SReg) (v : Word) : (t.setSreg d v).taken = t.taken := by unfold Team.setSreg; split <;> rfl
@[simp] theorem Team.setSreg_obuf (t : Team) (d : SReg) (v : Word) : (t.setSreg d v).obuf = t.obuf := by unfold Team.setSreg; split <;> rfl
@[simp] theorem Team.setSreg_obufNext (t : Team) (d : SReg) (v : Word) : (t.setSreg d v).obufNext = t.obufNext := by unfold Team.setSreg; split <;> rfl
@[simp] theorem Team.setSreg_vregs (t : Team) (d : SReg) (v : Word) : (t.setSreg d v).vregs = t.vregs := by unfold Team.setSreg; split <;> rfl
@[simp] theorem Team.setSreg_preds (t : Team) (d : SReg) (v : Word) : (t.setSreg d v).preds = t.preds := by unfold Team.setSreg; split <;> rfl
@[simp] theorem Team.setSreg_exited (t : Team) (d : SReg) (v : Word) : (t.setSreg d v).exited = t.exited := by unfold Team.setSreg; split <;> rfl
@[simp] theorem Team.setSreg_finished (t : Team) (d : SReg) (v : Word) : (t.setSreg d v).finished = t.finished := by unfold Team.setSreg; split <;> rfl
@[simp] theorem Team.setSreg_faulted (t : Team) (d : SReg) (v : Word) : (t.setSreg d v).faulted = t.faulted := by unfold Team.setSreg; split <;> rfl
@[simp] theorem Team.setSreg_swait (t : Team) (d : SReg) (v : Word) : (t.setSreg d v).swait = t.swait := by unfold Team.setSreg; split <;> rfl
@[simp] theorem Team.setSreg_lwaits (t : Team) (d : SReg) (v : Word) : (t.setSreg d v).lwaits = t.lwaits := by unfold Team.setSreg; split <;> rfl
@[simp] theorem Team.setSreg_stepNow (t : Team) (d : SReg) (v : Word) : (t.setSreg d v).stepNow = t.stepNow := by unfold Team.setSreg; split <;> rfl
@[simp] theorem Team.setSreg_batchOpen (t : Team) (d : SReg) (v : Word) : (t.setSreg d v).batchOpen = t.batchOpen := by unfold Team.setSreg; split <;> rfl
@[simp] theorem Team.setSreg_seqNext (t : Team) (d : SReg) (v : Word) : (t.setSreg d v).seqNext = t.seqNext := by unfold Team.setSreg; split <;> rfl
@[simp] theorem Team.setSreg_guardDepth (t : Team) (d : SReg) (v : Word) : (t.setSreg d v).guardDepth = t.guardDepth := by unfold Team.setSreg; split <;> rfl
@[simp] theorem Team.setSreg_nopreDepth (t : Team) (d : SReg) (v : Word) : (t.setSreg d v).nopreDepth = t.nopreDepth := by unfold Team.setSreg; split <;> rfl
@[simp] theorem Team.setSreg_nopreUsed (t : Team) (d : SReg) (v : Word) : (t.setSreg d v).nopreUsed = t.nopreUsed := by unfold Team.setSreg; split <;> rfl
@[simp] theorem Team.setSreg_nopreSpent (t : Team) (d : SReg) (v : Word) : (t.setSreg d v).nopreSpent = t.nopreSpent := by unfold Team.setSreg; split <;> rfl
@[simp] theorem Team.setSreg_lfm (t : Team) (d : SReg) (v : Word) : (t.setSreg d v).lfm = t.lfm := by unfold Team.setSreg; split <;> rfl
@[simp] theorem Team.setSreg_trapPc (t : Team) (d : SReg) (v : Word) : (t.setSreg d v).trapPc = t.trapPc := by unfold Team.setSreg; split <;> rfl
@[simp] theorem Team.setSreg_trapCause (t : Team) (d : SReg) (v : Word) : (t.setSreg d v).trapCause = t.trapCause := by unfold Team.setSreg; split <;> rfl
@[simp] theorem Team.setSreg_trapVec (t : Team) (d : SReg) (v : Word) : (t.setSreg d v).trapVec = t.trapVec := by unfold Team.setSreg; split <;> rfl
@[simp] theorem Team.setSreg_trapLclause (t : Team) (d : SReg) (v : Word) : (t.setSreg d v).trapLclause = t.trapLclause := by unfold Team.setSreg; split <;> rfl
@[simp] theorem Team.setSreg_trapLidx (t : Team) (d : SReg) (v : Word) : (t.setSreg d v).trapLidx = t.trapLidx := by unfold Team.setSreg; split <;> rfl
@[simp] theorem Team.setSreg_trapLane (t : Team) (d : SReg) (v : Word) : (t.setSreg d v).trapLane = t.trapLane := by unfold Team.setSreg; split <;> rfl
@[simp] theorem Team.setSreg_trapInh (t : Team) (d : SReg) (v : Word) : (t.setSreg d v).trapInh = t.trapInh := by unfold Team.setSreg; split <;> rfl
@[simp] theorem Team.setSreg_restart (t : Team) (d : SReg) (v : Word) : (t.setSreg d v).restart = t.restart := by unfold Team.setSreg; split <;> rfl
@[simp] theorem Team.setSreg_slots (t : Team) (d : SReg) (v : Word) : (t.setSreg d v).slots = t.slots := by unfold Team.setSreg; split <;> rfl
@[simp] theorem Team.setSreg_ctxSel (t : Team) (d : SReg) (v : Word) : (t.setSreg d v).ctxSel = t.ctxSel := by unfold Team.setSreg; split <;> rfl
@[simp] theorem Team.setSreg_sctr (t : Team) (d : SReg) (v : Word) : (t.setSreg d v).sctr = t.sctr := by unfold Team.setSreg; split <;> rfl
@[simp] theorem Team.setSreg_lctr (t : Team) (d : SReg) (v : Word) : (t.setSreg d v).lctr = t.lctr := by unfold Team.setSreg; split <;> rfl
@[simp] theorem Team.setSreg_pending (t : Team) (d : SReg) (v : Word) : (t.setSreg d v).pending = t.pending := by unfold Team.setSreg; split <;> rfl
@[simp] theorem Team.setSreg_again (t : Team) (d : SReg) (v : Word) : (t.setSreg d v).again = t.again := by unfold Team.setSreg; split <;> rfl
@[simp] theorem Team.setSreg_pairSeq (t : Team) (d : SReg) (v : Word) : (t.setSreg d v).pairSeq = t.pairSeq := by unfold Team.setSreg; split <;> rfl
@[simp] theorem Team.setSreg_acc (t : Team) (d : SReg) (v : Word) : (t.setSreg d v).acc = t.acc := by unfold Team.setSreg; split <;> rfl
@[simp] theorem Team.setSreg_accUsed (t : Team) (d : SReg) (v : Word) : (t.setSreg d v).accUsed = t.accUsed := by unfold Team.setSreg; split <;> rfl
@[simp] theorem Team.setSreg_laneErr (t : Team) (d : SReg) (v : Word) : (t.setSreg d v).laneErr = t.laneErr := by unfold Team.setSreg; split <;> rfl
@[simp] theorem Team.setSreg_accErr (t : Team) (d : SReg) (v : Word) : (t.setSreg d v).accErr = t.accErr := by unfold Team.setSreg; split <;> rfl
@[simp] theorem Team.setSreg_wl (t : Team) (d : SReg) (v : Word) : (t.setSreg d v).wl = t.wl := by unfold Team.setSreg; split <;> rfl
@[simp] theorem Team.setSreg_nextOrd (t : Team) (d : SReg) (v : Word) : (t.setSreg d v).nextOrd = t.nextOrd := by unfold Team.setSreg; split <;> rfl
@[simp] theorem Team.setSreg_nextClause (t : Team) (d : SReg) (v : Word) : (t.setSreg d v).nextClause = t.nextClause := by unfold Team.setSreg; split <;> rfl
@[simp] theorem Team.setSreg_fenceUid (t : Team) (d : SReg) (v : Word) : (t.setSreg d v).fenceUid = t.fenceUid := by unfold Team.setSreg; split <;> rfl
@[simp] theorem Team.setSreg_blockedFor (t : Team) (d : SReg) (v : Word) : (t.setSreg d v).blockedFor = t.blockedFor := by unfold Team.setSreg; split <;> rfl
@[simp] theorem Team.setSreg_scalarSlot (t : Team) (d : SReg) (v : Word) : (t.setSreg d v).scalarSlot = t.scalarSlot := by unfold Team.setSreg; split <;> rfl
@[simp] theorem Team.setSreg_vectorSlot (t : Team) (d : SReg) (v : Word) : (t.setSreg d v).vectorSlot = t.vectorSlot := by unfold Team.setSreg; split <;> rfl
@[simp] theorem Team.setSreg_matrixSlot (t : Team) (d : SReg) (v : Word) : (t.setSreg d v).matrixSlot = t.matrixSlot := by unfold Team.setSreg; split <;> rfl
@[simp] theorem Team.result_id (t : Team) (d : SReg) (v : Word) (n : Nat) : (t.result d v n).id = t.id := by simp [Team.result]
@[simp] theorem Team.result_lanes (t : Team) (d : SReg) (v : Word) (n : Nat) : (t.result d v n).lanes = t.lanes := by simp [Team.result]
@[simp] theorem Team.result_regs (t : Team) (d : SReg) (v : Word) (n : Nat) : (t.result d v n).regs = t.regs := by simp [Team.result]
@[simp] theorem Team.result_priv (t : Team) (d : SReg) (v : Word) (n : Nat) : (t.result d v n).priv = t.priv := by simp [Team.result]
@[simp] theorem Team.result_masks (t : Team) (d : SReg) (v : Word) (n : Nat) : (t.result d v n).masks = t.masks := by simp [Team.result]
@[simp] theorem Team.result_votes (t : Team) (d : SReg) (v : Word) (n : Nat) : (t.result d v n).votes = t.votes := by simp [Team.result]
@[simp] theorem Team.result_stack (t : Team) (d : SReg) (v : Word) (n : Nat) : (t.result d v n).stack = t.stack := by simp [Team.result]
@[simp] theorem Team.result_queue (t : Team) (d : SReg) (v : Word) (n : Nat) : (t.result d v n).queue = t.queue := by simp [Team.result]
@[simp] theorem Team.result_lidx (t : Team) (d : SReg) (v : Word) (n : Nat) : (t.result d v n).lidx = t.lidx := by simp [Team.result]
@[simp] theorem Team.result_retired (t : Team) (d : SReg) (v : Word) (n : Nat) : (t.result d v n).retired = t.retired := by simp [Team.result]
@[simp] theorem Team.result_queues (t : Team) (d : SReg) (v : Word) (n : Nat) : (t.result d v n).queues = t.queues := by simp [Team.result]
@[simp] theorem Team.result_scq (t : Team) (d : SReg) (v : Word) (n : Nat) : (t.result d v n).scq = t.scq := by simp [Team.result]
@[simp] theorem Team.result_taken (t : Team) (d : SReg) (v : Word) (n : Nat) : (t.result d v n).taken = t.taken := by simp [Team.result]
@[simp] theorem Team.result_obuf (t : Team) (d : SReg) (v : Word) (n : Nat) : (t.result d v n).obuf = t.obuf := by simp [Team.result]
@[simp] theorem Team.result_obufNext (t : Team) (d : SReg) (v : Word) (n : Nat) : (t.result d v n).obufNext = t.obufNext := by simp [Team.result]
@[simp] theorem Team.result_vregs (t : Team) (d : SReg) (v : Word) (n : Nat) : (t.result d v n).vregs = t.vregs := by simp [Team.result]
@[simp] theorem Team.result_preds (t : Team) (d : SReg) (v : Word) (n : Nat) : (t.result d v n).preds = t.preds := by simp [Team.result]
@[simp] theorem Team.result_exited (t : Team) (d : SReg) (v : Word) (n : Nat) : (t.result d v n).exited = t.exited := by simp [Team.result]
@[simp] theorem Team.result_finished (t : Team) (d : SReg) (v : Word) (n : Nat) : (t.result d v n).finished = t.finished := by simp [Team.result]
@[simp] theorem Team.result_faulted (t : Team) (d : SReg) (v : Word) (n : Nat) : (t.result d v n).faulted = t.faulted := by simp [Team.result]
@[simp] theorem Team.result_swait (t : Team) (d : SReg) (v : Word) (n : Nat) : (t.result d v n).swait = t.swait := by simp [Team.result]
@[simp] theorem Team.result_lwaits (t : Team) (d : SReg) (v : Word) (n : Nat) : (t.result d v n).lwaits = t.lwaits := by simp [Team.result]
@[simp] theorem Team.result_stepNow (t : Team) (d : SReg) (v : Word) (n : Nat) : (t.result d v n).stepNow = t.stepNow := by simp [Team.result]
@[simp] theorem Team.result_batchOpen (t : Team) (d : SReg) (v : Word) (n : Nat) : (t.result d v n).batchOpen = t.batchOpen := by simp [Team.result]
@[simp] theorem Team.result_seqNext (t : Team) (d : SReg) (v : Word) (n : Nat) : (t.result d v n).seqNext = t.seqNext := by simp [Team.result]
@[simp] theorem Team.result_guardDepth (t : Team) (d : SReg) (v : Word) (n : Nat) : (t.result d v n).guardDepth = t.guardDepth := by simp [Team.result]
@[simp] theorem Team.result_nopreDepth (t : Team) (d : SReg) (v : Word) (n : Nat) : (t.result d v n).nopreDepth = t.nopreDepth := by simp [Team.result]
@[simp] theorem Team.result_nopreUsed (t : Team) (d : SReg) (v : Word) (n : Nat) : (t.result d v n).nopreUsed = t.nopreUsed := by simp [Team.result]
@[simp] theorem Team.result_nopreSpent (t : Team) (d : SReg) (v : Word) (n : Nat) : (t.result d v n).nopreSpent = t.nopreSpent := by simp [Team.result]
@[simp] theorem Team.result_lfm (t : Team) (d : SReg) (v : Word) (n : Nat) : (t.result d v n).lfm = t.lfm := by simp [Team.result]
@[simp] theorem Team.result_trapPc (t : Team) (d : SReg) (v : Word) (n : Nat) : (t.result d v n).trapPc = t.trapPc := by simp [Team.result]
@[simp] theorem Team.result_trapCause (t : Team) (d : SReg) (v : Word) (n : Nat) : (t.result d v n).trapCause = t.trapCause := by simp [Team.result]
@[simp] theorem Team.result_trapVec (t : Team) (d : SReg) (v : Word) (n : Nat) : (t.result d v n).trapVec = t.trapVec := by simp [Team.result]
@[simp] theorem Team.result_trapLclause (t : Team) (d : SReg) (v : Word) (n : Nat) : (t.result d v n).trapLclause = t.trapLclause := by simp [Team.result]
@[simp] theorem Team.result_trapLidx (t : Team) (d : SReg) (v : Word) (n : Nat) : (t.result d v n).trapLidx = t.trapLidx := by simp [Team.result]
@[simp] theorem Team.result_trapLane (t : Team) (d : SReg) (v : Word) (n : Nat) : (t.result d v n).trapLane = t.trapLane := by simp [Team.result]
@[simp] theorem Team.result_trapInh (t : Team) (d : SReg) (v : Word) (n : Nat) : (t.result d v n).trapInh = t.trapInh := by simp [Team.result]
@[simp] theorem Team.result_restart (t : Team) (d : SReg) (v : Word) (n : Nat) : (t.result d v n).restart = t.restart := by simp [Team.result]
@[simp] theorem Team.result_slots (t : Team) (d : SReg) (v : Word) (n : Nat) : (t.result d v n).slots = t.slots := by simp [Team.result]
@[simp] theorem Team.result_ctxSel (t : Team) (d : SReg) (v : Word) (n : Nat) : (t.result d v n).ctxSel = t.ctxSel := by simp [Team.result]
@[simp] theorem Team.result_sctr (t : Team) (d : SReg) (v : Word) (n : Nat) : (t.result d v n).sctr = t.sctr := by simp [Team.result]
@[simp] theorem Team.result_lctr (t : Team) (d : SReg) (v : Word) (n : Nat) : (t.result d v n).lctr = t.lctr := by simp [Team.result]
@[simp] theorem Team.result_pending (t : Team) (d : SReg) (v : Word) (n : Nat) : (t.result d v n).pending = t.pending := by simp [Team.result]
@[simp] theorem Team.result_again (t : Team) (d : SReg) (v : Word) (n : Nat) : (t.result d v n).again = t.again := by simp [Team.result]
@[simp] theorem Team.result_pairSeq (t : Team) (d : SReg) (v : Word) (n : Nat) : (t.result d v n).pairSeq = t.pairSeq := by simp [Team.result]
@[simp] theorem Team.result_acc (t : Team) (d : SReg) (v : Word) (n : Nat) : (t.result d v n).acc = t.acc := by simp [Team.result]
@[simp] theorem Team.result_accUsed (t : Team) (d : SReg) (v : Word) (n : Nat) : (t.result d v n).accUsed = t.accUsed := by simp [Team.result]
@[simp] theorem Team.result_laneErr (t : Team) (d : SReg) (v : Word) (n : Nat) : (t.result d v n).laneErr = t.laneErr := by simp [Team.result]
@[simp] theorem Team.result_accErr (t : Team) (d : SReg) (v : Word) (n : Nat) : (t.result d v n).accErr = t.accErr := by simp [Team.result]
@[simp] theorem Team.result_wl (t : Team) (d : SReg) (v : Word) (n : Nat) : (t.result d v n).wl = t.wl := by simp [Team.result]
@[simp] theorem Team.result_nextOrd (t : Team) (d : SReg) (v : Word) (n : Nat) : (t.result d v n).nextOrd = t.nextOrd := by simp [Team.result]
@[simp] theorem Team.result_nextClause (t : Team) (d : SReg) (v : Word) (n : Nat) : (t.result d v n).nextClause = t.nextClause := by simp [Team.result]
@[simp] theorem Team.result_fenceUid (t : Team) (d : SReg) (v : Word) (n : Nat) : (t.result d v n).fenceUid = t.fenceUid := by simp [Team.result]
@[simp] theorem Team.result_blockedFor (t : Team) (d : SReg) (v : Word) (n : Nat) : (t.result d v n).blockedFor = t.blockedFor := by simp [Team.result]
@[simp] theorem Team.result_scalarSlot (t : Team) (d : SReg) (v : Word) (n : Nat) : (t.result d v n).scalarSlot = t.scalarSlot := by simp [Team.result]
@[simp] theorem Team.result_vectorSlot (t : Team) (d : SReg) (v : Word) (n : Nat) : (t.result d v n).vectorSlot = t.vectorSlot := by simp [Team.result]
@[simp] theorem Team.result_matrixSlot (t : Team) (d : SReg) (v : Word) (n : Nat) : (t.result d v n).matrixSlot = t.matrixSlot := by simp [Team.result]
@[simp] theorem Team.result_pc (t : Team) (d : SReg) (v : Word) (n : Nat) : (t.result d v n).pc = t.pc + BitVec.ofNat 64 n := by simp [Team.result]
@[simp] theorem Team.setMask_id (t : Team) (m : MReg) (v : Mask) : (t.setMask m v).id = t.id := rfl
@[simp] theorem Team.setMask_lanes (t : Team) (m : MReg) (v : Mask) : (t.setMask m v).lanes = t.lanes := rfl
@[simp] theorem Team.setMask_regs (t : Team) (m : MReg) (v : Mask) : (t.setMask m v).regs = t.regs := rfl
@[simp] theorem Team.setMask_priv (t : Team) (m : MReg) (v : Mask) : (t.setMask m v).priv = t.priv := rfl
@[simp] theorem Team.setMask_pc (t : Team) (m : MReg) (v : Mask) : (t.setMask m v).pc = t.pc := rfl
@[simp] theorem Team.setMask_sregs (t : Team) (m : MReg) (v : Mask) : (t.setMask m v).sregs = t.sregs := rfl
@[simp] theorem Team.setMask_votes (t : Team) (m : MReg) (v : Mask) : (t.setMask m v).votes = t.votes := rfl
@[simp] theorem Team.setMask_stack (t : Team) (m : MReg) (v : Mask) : (t.setMask m v).stack = t.stack := rfl
@[simp] theorem Team.setMask_queue (t : Team) (m : MReg) (v : Mask) : (t.setMask m v).queue = t.queue := rfl
@[simp] theorem Team.setMask_lidx (t : Team) (m : MReg) (v : Mask) : (t.setMask m v).lidx = t.lidx := rfl
@[simp] theorem Team.setMask_retired (t : Team) (m : MReg) (v : Mask) : (t.setMask m v).retired = t.retired := rfl
@[simp] theorem Team.setMask_queues (t : Team) (m : MReg) (v : Mask) : (t.setMask m v).queues = t.queues := rfl
@[simp] theorem Team.setMask_scq (t : Team) (m : MReg) (v : Mask) : (t.setMask m v).scq = t.scq := rfl
@[simp] theorem Team.setMask_taken (t : Team) (m : MReg) (v : Mask) : (t.setMask m v).taken = t.taken := rfl
@[simp] theorem Team.setMask_obuf (t : Team) (m : MReg) (v : Mask) : (t.setMask m v).obuf = t.obuf := rfl
@[simp] theorem Team.setMask_obufNext (t : Team) (m : MReg) (v : Mask) : (t.setMask m v).obufNext = t.obufNext := rfl
@[simp] theorem Team.setMask_vregs (t : Team) (m : MReg) (v : Mask) : (t.setMask m v).vregs = t.vregs := rfl
@[simp] theorem Team.setMask_preds (t : Team) (m : MReg) (v : Mask) : (t.setMask m v).preds = t.preds := rfl
@[simp] theorem Team.setMask_exited (t : Team) (m : MReg) (v : Mask) : (t.setMask m v).exited = t.exited := rfl
@[simp] theorem Team.setMask_finished (t : Team) (m : MReg) (v : Mask) : (t.setMask m v).finished = t.finished := rfl
@[simp] theorem Team.setMask_faulted (t : Team) (m : MReg) (v : Mask) : (t.setMask m v).faulted = t.faulted := rfl
@[simp] theorem Team.setMask_swait (t : Team) (m : MReg) (v : Mask) : (t.setMask m v).swait = t.swait := rfl
@[simp] theorem Team.setMask_lwaits (t : Team) (m : MReg) (v : Mask) : (t.setMask m v).lwaits = t.lwaits := rfl
@[simp] theorem Team.setMask_stepNow (t : Team) (m : MReg) (v : Mask) : (t.setMask m v).stepNow = t.stepNow := rfl
@[simp] theorem Team.setMask_batchOpen (t : Team) (m : MReg) (v : Mask) : (t.setMask m v).batchOpen = t.batchOpen := rfl
@[simp] theorem Team.setMask_seqNext (t : Team) (m : MReg) (v : Mask) : (t.setMask m v).seqNext = t.seqNext := rfl
@[simp] theorem Team.setMask_guardDepth (t : Team) (m : MReg) (v : Mask) : (t.setMask m v).guardDepth = t.guardDepth := rfl
@[simp] theorem Team.setMask_nopreDepth (t : Team) (m : MReg) (v : Mask) : (t.setMask m v).nopreDepth = t.nopreDepth := rfl
@[simp] theorem Team.setMask_nopreUsed (t : Team) (m : MReg) (v : Mask) : (t.setMask m v).nopreUsed = t.nopreUsed := rfl
@[simp] theorem Team.setMask_nopreSpent (t : Team) (m : MReg) (v : Mask) : (t.setMask m v).nopreSpent = t.nopreSpent := rfl
@[simp] theorem Team.setMask_lfm (t : Team) (m : MReg) (v : Mask) : (t.setMask m v).lfm = t.lfm := rfl
@[simp] theorem Team.setMask_trapPc (t : Team) (m : MReg) (v : Mask) : (t.setMask m v).trapPc = t.trapPc := rfl
@[simp] theorem Team.setMask_trapCause (t : Team) (m : MReg) (v : Mask) : (t.setMask m v).trapCause = t.trapCause := rfl
@[simp] theorem Team.setMask_trapVec (t : Team) (m : MReg) (v : Mask) : (t.setMask m v).trapVec = t.trapVec := rfl
@[simp] theorem Team.setMask_trapLclause (t : Team) (m : MReg) (v : Mask) : (t.setMask m v).trapLclause = t.trapLclause := rfl
@[simp] theorem Team.setMask_trapLidx (t : Team) (m : MReg) (v : Mask) : (t.setMask m v).trapLidx = t.trapLidx := rfl
@[simp] theorem Team.setMask_trapLane (t : Team) (m : MReg) (v : Mask) : (t.setMask m v).trapLane = t.trapLane := rfl
@[simp] theorem Team.setMask_trapInh (t : Team) (m : MReg) (v : Mask) : (t.setMask m v).trapInh = t.trapInh := rfl
@[simp] theorem Team.setMask_restart (t : Team) (m : MReg) (v : Mask) : (t.setMask m v).restart = t.restart := rfl
@[simp] theorem Team.setMask_slots (t : Team) (m : MReg) (v : Mask) : (t.setMask m v).slots = t.slots := rfl
@[simp] theorem Team.setMask_ctxSel (t : Team) (m : MReg) (v : Mask) : (t.setMask m v).ctxSel = t.ctxSel := rfl
@[simp] theorem Team.setMask_sctr (t : Team) (m : MReg) (v : Mask) : (t.setMask m v).sctr = t.sctr := rfl
@[simp] theorem Team.setMask_lctr (t : Team) (m : MReg) (v : Mask) : (t.setMask m v).lctr = t.lctr := rfl
@[simp] theorem Team.setMask_pending (t : Team) (m : MReg) (v : Mask) : (t.setMask m v).pending = t.pending := rfl
@[simp] theorem Team.setMask_again (t : Team) (m : MReg) (v : Mask) : (t.setMask m v).again = t.again := rfl
@[simp] theorem Team.setMask_pairSeq (t : Team) (m : MReg) (v : Mask) : (t.setMask m v).pairSeq = t.pairSeq := rfl
@[simp] theorem Team.setMask_acc (t : Team) (m : MReg) (v : Mask) : (t.setMask m v).acc = t.acc := rfl
@[simp] theorem Team.setMask_accUsed (t : Team) (m : MReg) (v : Mask) : (t.setMask m v).accUsed = t.accUsed := rfl
@[simp] theorem Team.setMask_laneErr (t : Team) (m : MReg) (v : Mask) : (t.setMask m v).laneErr = t.laneErr := rfl
@[simp] theorem Team.setMask_scalarErr (t : Team) (m : MReg) (v : Mask) : (t.setMask m v).scalarErr = t.scalarErr := rfl
@[simp] theorem Team.setMask_accErr (t : Team) (m : MReg) (v : Mask) : (t.setMask m v).accErr = t.accErr := rfl
@[simp] theorem Team.setMask_wl (t : Team) (m : MReg) (v : Mask) : (t.setMask m v).wl = t.wl := rfl
@[simp] theorem Team.setMask_nextOrd (t : Team) (m : MReg) (v : Mask) : (t.setMask m v).nextOrd = t.nextOrd := rfl
@[simp] theorem Team.setMask_nextClause (t : Team) (m : MReg) (v : Mask) : (t.setMask m v).nextClause = t.nextClause := rfl
@[simp] theorem Team.setMask_fenceUid (t : Team) (m : MReg) (v : Mask) : (t.setMask m v).fenceUid = t.fenceUid := rfl
@[simp] theorem Team.setMask_blockedFor (t : Team) (m : MReg) (v : Mask) : (t.setMask m v).blockedFor = t.blockedFor := rfl
@[simp] theorem Team.setMask_scalarSlot (t : Team) (m : MReg) (v : Mask) : (t.setMask m v).scalarSlot = t.scalarSlot := rfl
@[simp] theorem Team.setMask_vectorSlot (t : Team) (m : MReg) (v : Mask) : (t.setMask m v).vectorSlot = t.vectorSlot := rfl
@[simp] theorem Team.setMask_matrixSlot (t : Team) (m : MReg) (v : Mask) : (t.setMask m v).matrixSlot = t.matrixSlot := rfl
@[simp] theorem Team.setVreg_id (t : Team) (r l : Nat) (v : Word) : (t.setVreg r l v).id = t.id := rfl
@[simp] theorem Team.setVreg_lanes (t : Team) (r l : Nat) (v : Word) : (t.setVreg r l v).lanes = t.lanes := rfl
@[simp] theorem Team.setVreg_regs (t : Team) (r l : Nat) (v : Word) : (t.setVreg r l v).regs = t.regs := rfl
@[simp] theorem Team.setVreg_priv (t : Team) (r l : Nat) (v : Word) : (t.setVreg r l v).priv = t.priv := rfl
@[simp] theorem Team.setVreg_pc (t : Team) (r l : Nat) (v : Word) : (t.setVreg r l v).pc = t.pc := rfl
@[simp] theorem Team.setVreg_sregs (t : Team) (r l : Nat) (v : Word) : (t.setVreg r l v).sregs = t.sregs := rfl
@[simp] theorem Team.setVreg_masks (t : Team) (r l : Nat) (v : Word) : (t.setVreg r l v).masks = t.masks := rfl
@[simp] theorem Team.setVreg_votes (t : Team) (r l : Nat) (v : Word) : (t.setVreg r l v).votes = t.votes := rfl
@[simp] theorem Team.setVreg_stack (t : Team) (r l : Nat) (v : Word) : (t.setVreg r l v).stack = t.stack := rfl
@[simp] theorem Team.setVreg_queue (t : Team) (r l : Nat) (v : Word) : (t.setVreg r l v).queue = t.queue := rfl
@[simp] theorem Team.setVreg_lidx (t : Team) (r l : Nat) (v : Word) : (t.setVreg r l v).lidx = t.lidx := rfl
@[simp] theorem Team.setVreg_retired (t : Team) (r l : Nat) (v : Word) : (t.setVreg r l v).retired = t.retired := rfl
@[simp] theorem Team.setVreg_queues (t : Team) (r l : Nat) (v : Word) : (t.setVreg r l v).queues = t.queues := rfl
@[simp] theorem Team.setVreg_scq (t : Team) (r l : Nat) (v : Word) : (t.setVreg r l v).scq = t.scq := rfl
@[simp] theorem Team.setVreg_taken (t : Team) (r l : Nat) (v : Word) : (t.setVreg r l v).taken = t.taken := rfl
@[simp] theorem Team.setVreg_obuf (t : Team) (r l : Nat) (v : Word) : (t.setVreg r l v).obuf = t.obuf := rfl
@[simp] theorem Team.setVreg_obufNext (t : Team) (r l : Nat) (v : Word) : (t.setVreg r l v).obufNext = t.obufNext := rfl
@[simp] theorem Team.setVreg_preds (t : Team) (r l : Nat) (v : Word) : (t.setVreg r l v).preds = t.preds := rfl
@[simp] theorem Team.setVreg_exited (t : Team) (r l : Nat) (v : Word) : (t.setVreg r l v).exited = t.exited := rfl
@[simp] theorem Team.setVreg_finished (t : Team) (r l : Nat) (v : Word) : (t.setVreg r l v).finished = t.finished := rfl
@[simp] theorem Team.setVreg_faulted (t : Team) (r l : Nat) (v : Word) : (t.setVreg r l v).faulted = t.faulted := rfl
@[simp] theorem Team.setVreg_swait (t : Team) (r l : Nat) (v : Word) : (t.setVreg r l v).swait = t.swait := rfl
@[simp] theorem Team.setVreg_lwaits (t : Team) (r l : Nat) (v : Word) : (t.setVreg r l v).lwaits = t.lwaits := rfl
@[simp] theorem Team.setVreg_stepNow (t : Team) (r l : Nat) (v : Word) : (t.setVreg r l v).stepNow = t.stepNow := rfl
@[simp] theorem Team.setVreg_batchOpen (t : Team) (r l : Nat) (v : Word) : (t.setVreg r l v).batchOpen = t.batchOpen := rfl
@[simp] theorem Team.setVreg_seqNext (t : Team) (r l : Nat) (v : Word) : (t.setVreg r l v).seqNext = t.seqNext := rfl
@[simp] theorem Team.setVreg_guardDepth (t : Team) (r l : Nat) (v : Word) : (t.setVreg r l v).guardDepth = t.guardDepth := rfl
@[simp] theorem Team.setVreg_nopreDepth (t : Team) (r l : Nat) (v : Word) : (t.setVreg r l v).nopreDepth = t.nopreDepth := rfl
@[simp] theorem Team.setVreg_nopreUsed (t : Team) (r l : Nat) (v : Word) : (t.setVreg r l v).nopreUsed = t.nopreUsed := rfl
@[simp] theorem Team.setVreg_nopreSpent (t : Team) (r l : Nat) (v : Word) : (t.setVreg r l v).nopreSpent = t.nopreSpent := rfl
@[simp] theorem Team.setVreg_lfm (t : Team) (r l : Nat) (v : Word) : (t.setVreg r l v).lfm = t.lfm := rfl
@[simp] theorem Team.setVreg_trapPc (t : Team) (r l : Nat) (v : Word) : (t.setVreg r l v).trapPc = t.trapPc := rfl
@[simp] theorem Team.setVreg_trapCause (t : Team) (r l : Nat) (v : Word) : (t.setVreg r l v).trapCause = t.trapCause := rfl
@[simp] theorem Team.setVreg_trapVec (t : Team) (r l : Nat) (v : Word) : (t.setVreg r l v).trapVec = t.trapVec := rfl
@[simp] theorem Team.setVreg_trapLclause (t : Team) (r l : Nat) (v : Word) : (t.setVreg r l v).trapLclause = t.trapLclause := rfl
@[simp] theorem Team.setVreg_trapLidx (t : Team) (r l : Nat) (v : Word) : (t.setVreg r l v).trapLidx = t.trapLidx := rfl
@[simp] theorem Team.setVreg_trapLane (t : Team) (r l : Nat) (v : Word) : (t.setVreg r l v).trapLane = t.trapLane := rfl
@[simp] theorem Team.setVreg_trapInh (t : Team) (r l : Nat) (v : Word) : (t.setVreg r l v).trapInh = t.trapInh := rfl
@[simp] theorem Team.setVreg_restart (t : Team) (r l : Nat) (v : Word) : (t.setVreg r l v).restart = t.restart := rfl
@[simp] theorem Team.setVreg_slots (t : Team) (r l : Nat) (v : Word) : (t.setVreg r l v).slots = t.slots := rfl
@[simp] theorem Team.setVreg_ctxSel (t : Team) (r l : Nat) (v : Word) : (t.setVreg r l v).ctxSel = t.ctxSel := rfl
@[simp] theorem Team.setVreg_sctr (t : Team) (r l : Nat) (v : Word) : (t.setVreg r l v).sctr = t.sctr := rfl
@[simp] theorem Team.setVreg_lctr (t : Team) (r l : Nat) (v : Word) : (t.setVreg r l v).lctr = t.lctr := rfl
@[simp] theorem Team.setVreg_pending (t : Team) (r l : Nat) (v : Word) : (t.setVreg r l v).pending = t.pending := rfl
@[simp] theorem Team.setVreg_again (t : Team) (r l : Nat) (v : Word) : (t.setVreg r l v).again = t.again := rfl
@[simp] theorem Team.setVreg_pairSeq (t : Team) (r l : Nat) (v : Word) : (t.setVreg r l v).pairSeq = t.pairSeq := rfl
@[simp] theorem Team.setVreg_acc (t : Team) (r l : Nat) (v : Word) : (t.setVreg r l v).acc = t.acc := rfl
@[simp] theorem Team.setVreg_accUsed (t : Team) (r l : Nat) (v : Word) : (t.setVreg r l v).accUsed = t.accUsed := rfl
@[simp] theorem Team.setVreg_scalarErr (t : Team) (r l : Nat) (v : Word) : (t.setVreg r l v).scalarErr = t.scalarErr := rfl
@[simp] theorem Team.setVreg_accErr (t : Team) (r l : Nat) (v : Word) : (t.setVreg r l v).accErr = t.accErr := rfl
@[simp] theorem Team.setVreg_wl (t : Team) (r l : Nat) (v : Word) : (t.setVreg r l v).wl = t.wl := rfl
@[simp] theorem Team.setVreg_nextOrd (t : Team) (r l : Nat) (v : Word) : (t.setVreg r l v).nextOrd = t.nextOrd := rfl
@[simp] theorem Team.setVreg_nextClause (t : Team) (r l : Nat) (v : Word) : (t.setVreg r l v).nextClause = t.nextClause := rfl
@[simp] theorem Team.setVreg_fenceUid (t : Team) (r l : Nat) (v : Word) : (t.setVreg r l v).fenceUid = t.fenceUid := rfl
@[simp] theorem Team.setVreg_blockedFor (t : Team) (r l : Nat) (v : Word) : (t.setVreg r l v).blockedFor = t.blockedFor := rfl
@[simp] theorem Team.setVreg_scalarSlot (t : Team) (r l : Nat) (v : Word) : (t.setVreg r l v).scalarSlot = t.scalarSlot := rfl
@[simp] theorem Team.setVreg_vectorSlot (t : Team) (r l : Nat) (v : Word) : (t.setVreg r l v).vectorSlot = t.vectorSlot := rfl
@[simp] theorem Team.setVreg_matrixSlot (t : Team) (r l : Nat) (v : Word) : (t.setVreg r l v).matrixSlot = t.matrixSlot := rfl
@[simp] theorem Team.setPred_id (t : Team) (p : Nat) (on v : Mask) : (t.setPred p on v).id = t.id := by unfold Team.setPred; split <;> rfl
@[simp] theorem Team.setPred_lanes (t : Team) (p : Nat) (on v : Mask) : (t.setPred p on v).lanes = t.lanes := by unfold Team.setPred; split <;> rfl
@[simp] theorem Team.setPred_regs (t : Team) (p : Nat) (on v : Mask) : (t.setPred p on v).regs = t.regs := by unfold Team.setPred; split <;> rfl
@[simp] theorem Team.setPred_priv (t : Team) (p : Nat) (on v : Mask) : (t.setPred p on v).priv = t.priv := by unfold Team.setPred; split <;> rfl
@[simp] theorem Team.setPred_pc (t : Team) (p : Nat) (on v : Mask) : (t.setPred p on v).pc = t.pc := by unfold Team.setPred; split <;> rfl
@[simp] theorem Team.setPred_sregs (t : Team) (p : Nat) (on v : Mask) : (t.setPred p on v).sregs = t.sregs := by unfold Team.setPred; split <;> rfl
@[simp] theorem Team.setPred_masks (t : Team) (p : Nat) (on v : Mask) : (t.setPred p on v).masks = t.masks := by unfold Team.setPred; split <;> rfl
@[simp] theorem Team.setPred_votes (t : Team) (p : Nat) (on v : Mask) : (t.setPred p on v).votes = t.votes := by unfold Team.setPred; split <;> rfl
@[simp] theorem Team.setPred_stack (t : Team) (p : Nat) (on v : Mask) : (t.setPred p on v).stack = t.stack := by unfold Team.setPred; split <;> rfl
@[simp] theorem Team.setPred_queue (t : Team) (p : Nat) (on v : Mask) : (t.setPred p on v).queue = t.queue := by unfold Team.setPred; split <;> rfl
@[simp] theorem Team.setPred_lidx (t : Team) (p : Nat) (on v : Mask) : (t.setPred p on v).lidx = t.lidx := by unfold Team.setPred; split <;> rfl
@[simp] theorem Team.setPred_retired (t : Team) (p : Nat) (on v : Mask) : (t.setPred p on v).retired = t.retired := by unfold Team.setPred; split <;> rfl
@[simp] theorem Team.setPred_queues (t : Team) (p : Nat) (on v : Mask) : (t.setPred p on v).queues = t.queues := by unfold Team.setPred; split <;> rfl
@[simp] theorem Team.setPred_scq (t : Team) (p : Nat) (on v : Mask) : (t.setPred p on v).scq = t.scq := by unfold Team.setPred; split <;> rfl
@[simp] theorem Team.setPred_taken (t : Team) (p : Nat) (on v : Mask) : (t.setPred p on v).taken = t.taken := by unfold Team.setPred; split <;> rfl
@[simp] theorem Team.setPred_obuf (t : Team) (p : Nat) (on v : Mask) : (t.setPred p on v).obuf = t.obuf := by unfold Team.setPred; split <;> rfl
@[simp] theorem Team.setPred_obufNext (t : Team) (p : Nat) (on v : Mask) : (t.setPred p on v).obufNext = t.obufNext := by unfold Team.setPred; split <;> rfl
@[simp] theorem Team.setPred_vregs (t : Team) (p : Nat) (on v : Mask) : (t.setPred p on v).vregs = t.vregs := by unfold Team.setPred; split <;> rfl
@[simp] theorem Team.setPred_exited (t : Team) (p : Nat) (on v : Mask) : (t.setPred p on v).exited = t.exited := by unfold Team.setPred; split <;> rfl
@[simp] theorem Team.setPred_finished (t : Team) (p : Nat) (on v : Mask) : (t.setPred p on v).finished = t.finished := by unfold Team.setPred; split <;> rfl
@[simp] theorem Team.setPred_faulted (t : Team) (p : Nat) (on v : Mask) : (t.setPred p on v).faulted = t.faulted := by unfold Team.setPred; split <;> rfl
@[simp] theorem Team.setPred_swait (t : Team) (p : Nat) (on v : Mask) : (t.setPred p on v).swait = t.swait := by unfold Team.setPred; split <;> rfl
@[simp] theorem Team.setPred_lwaits (t : Team) (p : Nat) (on v : Mask) : (t.setPred p on v).lwaits = t.lwaits := by unfold Team.setPred; split <;> rfl
@[simp] theorem Team.setPred_stepNow (t : Team) (p : Nat) (on v : Mask) : (t.setPred p on v).stepNow = t.stepNow := by unfold Team.setPred; split <;> rfl
@[simp] theorem Team.setPred_batchOpen (t : Team) (p : Nat) (on v : Mask) : (t.setPred p on v).batchOpen = t.batchOpen := by unfold Team.setPred; split <;> rfl
@[simp] theorem Team.setPred_seqNext (t : Team) (p : Nat) (on v : Mask) : (t.setPred p on v).seqNext = t.seqNext := by unfold Team.setPred; split <;> rfl
@[simp] theorem Team.setPred_guardDepth (t : Team) (p : Nat) (on v : Mask) : (t.setPred p on v).guardDepth = t.guardDepth := by unfold Team.setPred; split <;> rfl
@[simp] theorem Team.setPred_nopreDepth (t : Team) (p : Nat) (on v : Mask) : (t.setPred p on v).nopreDepth = t.nopreDepth := by unfold Team.setPred; split <;> rfl
@[simp] theorem Team.setPred_nopreUsed (t : Team) (p : Nat) (on v : Mask) : (t.setPred p on v).nopreUsed = t.nopreUsed := by unfold Team.setPred; split <;> rfl
@[simp] theorem Team.setPred_nopreSpent (t : Team) (p : Nat) (on v : Mask) : (t.setPred p on v).nopreSpent = t.nopreSpent := by unfold Team.setPred; split <;> rfl
@[simp] theorem Team.setPred_lfm (t : Team) (p : Nat) (on v : Mask) : (t.setPred p on v).lfm = t.lfm := by unfold Team.setPred; split <;> rfl
@[simp] theorem Team.setPred_trapPc (t : Team) (p : Nat) (on v : Mask) : (t.setPred p on v).trapPc = t.trapPc := by unfold Team.setPred; split <;> rfl
@[simp] theorem Team.setPred_trapCause (t : Team) (p : Nat) (on v : Mask) : (t.setPred p on v).trapCause = t.trapCause := by unfold Team.setPred; split <;> rfl
@[simp] theorem Team.setPred_trapVec (t : Team) (p : Nat) (on v : Mask) : (t.setPred p on v).trapVec = t.trapVec := by unfold Team.setPred; split <;> rfl
@[simp] theorem Team.setPred_trapLclause (t : Team) (p : Nat) (on v : Mask) : (t.setPred p on v).trapLclause = t.trapLclause := by unfold Team.setPred; split <;> rfl
@[simp] theorem Team.setPred_trapLidx (t : Team) (p : Nat) (on v : Mask) : (t.setPred p on v).trapLidx = t.trapLidx := by unfold Team.setPred; split <;> rfl
@[simp] theorem Team.setPred_trapLane (t : Team) (p : Nat) (on v : Mask) : (t.setPred p on v).trapLane = t.trapLane := by unfold Team.setPred; split <;> rfl
@[simp] theorem Team.setPred_trapInh (t : Team) (p : Nat) (on v : Mask) : (t.setPred p on v).trapInh = t.trapInh := by unfold Team.setPred; split <;> rfl
@[simp] theorem Team.setPred_restart (t : Team) (p : Nat) (on v : Mask) : (t.setPred p on v).restart = t.restart := by unfold Team.setPred; split <;> rfl
@[simp] theorem Team.setPred_slots (t : Team) (p : Nat) (on v : Mask) : (t.setPred p on v).slots = t.slots := by unfold Team.setPred; split <;> rfl
@[simp] theorem Team.setPred_ctxSel (t : Team) (p : Nat) (on v : Mask) : (t.setPred p on v).ctxSel = t.ctxSel := by unfold Team.setPred; split <;> rfl
@[simp] theorem Team.setPred_sctr (t : Team) (p : Nat) (on v : Mask) : (t.setPred p on v).sctr = t.sctr := by unfold Team.setPred; split <;> rfl
@[simp] theorem Team.setPred_lctr (t : Team) (p : Nat) (on v : Mask) : (t.setPred p on v).lctr = t.lctr := by unfold Team.setPred; split <;> rfl
@[simp] theorem Team.setPred_pending (t : Team) (p : Nat) (on v : Mask) : (t.setPred p on v).pending = t.pending := by unfold Team.setPred; split <;> rfl
@[simp] theorem Team.setPred_again (t : Team) (p : Nat) (on v : Mask) : (t.setPred p on v).again = t.again := by unfold Team.setPred; split <;> rfl
@[simp] theorem Team.setPred_pairSeq (t : Team) (p : Nat) (on v : Mask) : (t.setPred p on v).pairSeq = t.pairSeq := by unfold Team.setPred; split <;> rfl
@[simp] theorem Team.setPred_acc (t : Team) (p : Nat) (on v : Mask) : (t.setPred p on v).acc = t.acc := by unfold Team.setPred; split <;> rfl
@[simp] theorem Team.setPred_accUsed (t : Team) (p : Nat) (on v : Mask) : (t.setPred p on v).accUsed = t.accUsed := by unfold Team.setPred; split <;> rfl
@[simp] theorem Team.setPred_laneErr (t : Team) (p : Nat) (on v : Mask) : (t.setPred p on v).laneErr = t.laneErr := by unfold Team.setPred; split <;> rfl
@[simp] theorem Team.setPred_scalarErr (t : Team) (p : Nat) (on v : Mask) : (t.setPred p on v).scalarErr = t.scalarErr := by unfold Team.setPred; split <;> rfl
@[simp] theorem Team.setPred_accErr (t : Team) (p : Nat) (on v : Mask) : (t.setPred p on v).accErr = t.accErr := by unfold Team.setPred; split <;> rfl
@[simp] theorem Team.setPred_wl (t : Team) (p : Nat) (on v : Mask) : (t.setPred p on v).wl = t.wl := by unfold Team.setPred; split <;> rfl
@[simp] theorem Team.setPred_nextOrd (t : Team) (p : Nat) (on v : Mask) : (t.setPred p on v).nextOrd = t.nextOrd := by unfold Team.setPred; split <;> rfl
@[simp] theorem Team.setPred_nextClause (t : Team) (p : Nat) (on v : Mask) : (t.setPred p on v).nextClause = t.nextClause := by unfold Team.setPred; split <;> rfl
@[simp] theorem Team.setPred_fenceUid (t : Team) (p : Nat) (on v : Mask) : (t.setPred p on v).fenceUid = t.fenceUid := by unfold Team.setPred; split <;> rfl
@[simp] theorem Team.setPred_blockedFor (t : Team) (p : Nat) (on v : Mask) : (t.setPred p on v).blockedFor = t.blockedFor := by unfold Team.setPred; split <;> rfl
@[simp] theorem Team.setPred_scalarSlot (t : Team) (p : Nat) (on v : Mask) : (t.setPred p on v).scalarSlot = t.scalarSlot := by unfold Team.setPred; split <;> rfl
@[simp] theorem Team.setPred_vectorSlot (t : Team) (p : Nat) (on v : Mask) : (t.setPred p on v).vectorSlot = t.vectorSlot := by unfold Team.setPred; split <;> rfl
@[simp] theorem Team.setPred_matrixSlot (t : Team) (p : Nat) (on v : Mask) : (t.setPred p on v).matrixSlot = t.matrixSlot := by unfold Team.setPred; split <;> rfl

/-! ### Updates of the package -/

@[simp] theorem State.putCrew_moves (s : State) (k : Nat) (c : Crew) : (s.putCrew k c).moves = s.moves := rfl
@[simp] theorem State.putCrew_focus (s : State) (k : Nat) (c : Crew) : (s.putCrew k c).focus = s.focus := rfl
@[simp] theorem State.putCrew_free (s : State) (k : Nat) (c : Crew) : (s.putCrew k c).free = s.free := rfl
@[simp] theorem State.putCrew_mem (s : State) (k : Nat) (c : Crew) : (s.putCrew k c).mem = s.mem := rfl
@[simp] theorem State.putCrew_poison (s : State) (k : Nat) (c : Crew) : (s.putCrew k c).poison = s.poison := rfl
@[simp] theorem State.putCrew_dead (s : State) (k : Nat) (c : Crew) : (s.putCrew k c).dead = s.dead := rfl
@[simp] theorem State.putCrew_lineStep (s : State) (k : Nat) (c : Crew) : (s.putCrew k c).lineStep = s.lineStep := rfl
@[simp] theorem State.putCrew_ballast (s : State) (k : Nat) (c : Crew) : (s.putCrew k c).ballast = s.ballast := rfl
@[simp] theorem State.putCrew_ranges (s : State) (k : Nat) (c : Crew) : (s.putCrew k c).ranges = s.ranges := rfl
@[simp] theorem State.putCrew_tlb (s : State) (k : Nat) (c : Crew) : (s.putCrew k c).tlb = s.tlb := rfl
@[simp] theorem State.putCrew_gangTlb (s : State) (k : Nat) (c : Crew) : (s.putCrew k c).gangTlb = s.gangTlb := rfl
@[simp] theorem State.putCrew_l1 (s : State) (k : Nat) (c : Crew) : (s.putCrew k c).l1 = s.l1 := rfl
@[simp] theorem State.putCrew_pools (s : State) (k : Nat) (c : Crew) : (s.putCrew k c).pools = s.pools := rfl
@[simp] theorem State.putCrew_lqs (s : State) (k : Nat) (c : Crew) : (s.putCrew k c).lqs = s.lqs := rfl
@[simp] theorem State.putCrew_turn (s : State) (k : Nat) (c : Crew) : (s.putCrew k c).turn = s.turn := rfl
@[simp] theorem State.putCrew_evRing (s : State) (k : Nat) (c : Crew) : (s.putCrew k c).evRing = s.evRing := rfl
@[simp] theorem State.putCrew_evSeq (s : State) (k : Nat) (c : Crew) : (s.putCrew k c).evSeq = s.evSeq := rfl
@[simp] theorem State.putCrew_events (s : State) (k : Nat) (c : Crew) : (s.putCrew k c).events = s.events := rfl
@[simp] theorem State.putCrew_hostRing (s : State) (k : Nat) (c : Crew) : (s.putCrew k c).hostRing = s.hostRing := rfl
@[simp] theorem State.putCrew_msix (s : State) (k : Nat) (c : Crew) : (s.putCrew k c).msix = s.msix := rfl
@[simp] theorem State.putCrew_reply (s : State) (k : Nat) (c : Crew) : (s.putCrew k c).reply = s.reply := rfl
@[simp] theorem State.putCrew_spdm (s : State) (k : Nat) (c : Crew) : (s.putCrew k c).spdm = s.spdm := rfl
@[simp] theorem State.putCrew_hostRead (s : State) (k : Nat) (c : Crew) : (s.putCrew k c).hostRead = s.hostRead := rfl
@[simp] theorem State.putCrew_mailboxIrq (s : State) (k : Nat) (c : Crew) : (s.putCrew k c).mailboxIrq = s.mailboxIrq := rfl
@[simp] theorem State.putCrew_mailboxRun (s : State) (k : Nat) (c : Crew) : (s.putCrew k c).mailboxRun = s.mailboxRun := rfl
@[simp] theorem State.putCrew_walks (s : State) (k : Nat) (c : Crew) : (s.putCrew k c).walks = s.walks := rfl
@[simp] theorem State.putCrew_owed (s : State) (k : Nat) (c : Crew) : (s.putCrew k c).owed = s.owed := rfl
@[simp] theorem State.putCrew_launches (s : State) (k : Nat) (c : Crew) : (s.putCrew k c).launches = s.launches := rfl
@[simp] theorem State.putCrew_nextId (s : State) (k : Nat) (c : Crew) : (s.putCrew k c).nextId = s.nextId := rfl
@[simp] theorem State.putCrew_nextBorn (s : State) (k : Nat) (c : Crew) : (s.putCrew k c).nextBorn = s.nextBorn := rfl
@[simp] theorem State.putCrew_nextWait (s : State) (k : Nat) (c : Crew) : (s.putCrew k c).nextWait = s.nextWait := rfl
@[simp] theorem State.putCrew_nextConv (s : State) (k : Nat) (c : Crew) : (s.putCrew k c).nextConv = s.nextConv := rfl
@[simp] theorem State.putCrew_nextRun (s : State) (k : Nat) (c : Crew) : (s.putCrew k c).nextRun = s.nextRun := rfl
@[simp] theorem State.putCrew_nextCmd (s : State) (k : Nat) (c : Crew) : (s.putCrew k c).nextCmd = s.nextCmd := rfl
@[simp] theorem State.putCrew_nextTag (s : State) (k : Nat) (c : Crew) : (s.putCrew k c).nextTag = s.nextTag := rfl
@[simp] theorem State.putCrew_commands (s : State) (k : Nat) (c : Crew) : (s.putCrew k c).commands = s.commands := rfl
@[simp] theorem State.putCrew_spanNodes (s : State) (k : Nat) (c : Crew) : (s.putCrew k c).spanNodes = s.spanNodes := rfl
@[simp] theorem State.putCrew_spanVals (s : State) (k : Nat) (c : Crew) : (s.putCrew k c).spanVals = s.spanVals := rfl
@[simp] theorem State.putCrew_pspanOpen (s : State) (k : Nat) (c : Crew) : (s.putCrew k c).pspanOpen = s.pspanOpen := rfl
@[simp] theorem State.putCrew_spanNext (s : State) (k : Nat) (c : Crew) : (s.putCrew k c).spanNext = s.spanNext := rfl
@[simp] theorem State.putCrew_wlItems (s : State) (k : Nat) (c : Crew) : (s.putCrew k c).wlItems = s.wlItems := rfl
@[simp] theorem State.putCrew_wlChanges (s : State) (k : Nat) (c : Crew) : (s.putCrew k c).wlChanges = s.wlChanges := rfl
@[simp] theorem State.putCrew_wlHoles (s : State) (k : Nat) (c : Crew) : (s.putCrew k c).wlHoles = s.wlHoles := rfl
@[simp] theorem State.putCrew_matrix (s : State) (k : Nat) (c : Crew) : (s.putCrew k c).matrix = s.matrix := rfl
@[simp] theorem State.putCrew_offers (s : State) (k : Nat) (c : Crew) : (s.putCrew k c).offers = s.offers := rfl
@[simp] theorem State.putCrew_lastChosen (s : State) (k : Nat) (c : Crew) : (s.putCrew k c).lastChosen = s.lastChosen := rfl
@[simp] theorem State.putCrew_issueUsed (s : State) (k : Nat) (c : Crew) : (s.putCrew k c).issueUsed = s.issueUsed := rfl
@[simp] theorem State.putCrew_silent (s : State) (k : Nat) (c : Crew) : (s.putCrew k c).silent = s.silent := rfl
@[simp] theorem State.putCrew_asked (s : State) (k : Nat) (c : Crew) : (s.putCrew k c).asked = s.asked := rfl
@[simp] theorem State.putCrew_accHold (s : State) (k : Nat) (c : Crew) : (s.putCrew k c).accHold = s.accHold := rfl
@[simp] theorem State.putCrew_clk (s : State) (k : Nat) (c : Crew) : (s.putCrew k c).clk = s.clk := rfl
@[simp] theorem State.putCrew_pairClk (s : State) (k : Nat) (c : Crew) : (s.putCrew k c).pairClk = s.pairClk := rfl
@[simp] theorem State.putCrew_regions (s : State) (k : Nat) (c : Crew) : (s.putCrew k c).regions = s.regions := rfl
@[simp] theorem State.putCrew_vacantGangs (s : State) (k : Nat) (c : Crew) : (s.putCrew k c).vacantGangs = s.vacantGangs := rfl
@[simp] theorem State.putCrew_vacantCores (s : State) (k : Nat) (c : Crew) : (s.putCrew k c).vacantCores = s.vacantCores := rfl
@[simp] theorem State.putCrew_closedCores (s : State) (k : Nat) (c : Crew) : (s.putCrew k c).closedCores = s.closedCores := rfl
@[simp] theorem State.putCrew_capGen (s : State) (k : Nat) (c : Crew) : (s.putCrew k c).capGen = s.capGen := rfl
@[simp] theorem State.putCrew_units (s : State) (k : Nat) (c : Crew) : (s.putCrew k c).units = s.units := rfl
@[simp] theorem State.putCrew_nextDue (s : State) (k : Nat) (c : Crew) : (s.putCrew k c).nextDue = s.nextDue := rfl
@[simp] theorem State.putCrew_slotsUsed (s : State) (k : Nat) (c : Crew) : (s.putCrew k c).slotsUsed = s.slotsUsed := rfl
@[simp] theorem State.putCrew_corrected (s : State) (k : Nat) (c : Crew) : (s.putCrew k c).corrected = s.corrected := rfl
@[simp] theorem State.putCrew_mgmt (s : State) (k : Nat) (c : Crew) : (s.putCrew k c).mgmt = s.mgmt := rfl
@[simp] theorem State.putCrew_decayAge (s : State) (k : Nat) (c : Crew) : (s.putCrew k c).decayAge = s.decayAge := rfl
@[simp] theorem State.putCrew_cutSeq (s : State) (k : Nat) (c : Crew) : (s.putCrew k c).cutSeq = s.cutSeq := rfl
@[simp] theorem State.putCrew_quiesced (s : State) (k : Nat) (c : Crew) : (s.putCrew k c).quiesced = s.quiesced := rfl
@[simp] theorem State.putCrew_quiescing (s : State) (k : Nat) (c : Crew) : (s.putCrew k c).quiescing = s.quiescing := rfl
@[simp] theorem State.putCrew_ports (s : State) (k : Nat) (c : Crew) : (s.putCrew k c).ports = s.ports := rfl
@[simp] theorem State.putCrew_outbox (s : State) (k : Nat) (c : Crew) : (s.putCrew k c).outbox = s.outbox := rfl
@[simp] theorem State.putCrew_span (s : State) (k : Nat) (c : Crew) : (s.putCrew k c).span = s.span := rfl
@[simp] theorem State.putCrew_home (s : State) (k : Nat) (c : Crew) : (s.putCrew k c).home = s.home := rfl
@[simp] theorem State.putCrew_homeWaits (s : State) (k : Nat) (c : Crew) : (s.putCrew k c).homeWaits = s.homeWaits := rfl
@[simp] theorem State.putCrew_slices (s : State) (k : Nat) (c : Crew) : (s.putCrew k c).slices = s.slices := rfl
@[simp] theorem State.putCrew_treqs (s : State) (k : Nat) (c : Crew) : (s.putCrew k c).treqs = s.treqs := rfl
@[simp] theorem State.putCrew_comet (s : State) (k : Nat) (c : Crew) : (s.putCrew k c).comet = s.comet := rfl
@[simp] theorem State.putCrew_shards (s : State) (k : Nat) (c : Crew) : (s.putCrew k c).shards = s.shards := rfl
@[simp] theorem State.putCrew_platform (s : State) (k : Nat) (c : Crew) : (s.putCrew k c).platform = s.platform := rfl
@[simp] theorem State.putCrew_perf (s : State) (k : Nat) (c : Crew) : (s.putCrew k c).perf = s.perf := rfl
@[simp] theorem State.putCrew_vaux (s : State) (k : Nat) (c : Crew) : (s.putCrew k c).vaux = s.vaux := rfl
@[simp] theorem State.putCrew_vin (s : State) (k : Nat) (c : Crew) : (s.putCrew k c).vin = s.vin := rfl
@[simp] theorem State.putCrew_powerLoss (s : State) (k : Nat) (c : Crew) : (s.putCrew k c).powerLoss = s.powerLoss := rfl
@[simp] theorem State.putCrew_nv (s : State) (k : Nat) (c : Crew) : (s.putCrew k c).nv = s.nv := rfl
@[simp] theorem State.putCrew_i3c (s : State) (k : Nat) (c : Crew) : (s.putCrew k c).i3c = s.i3c := rfl
@[simp] theorem State.putCrew_i3cIndex (s : State) (k : Nat) (c : Crew) : (s.putCrew k c).i3cIndex = s.i3cIndex := rfl
@[simp] theorem State.putTeam_moves (s : State) (r : TeamRef) (t : Team) : (s.putTeam r t).moves = s.moves := by unfold State.putTeam; split <;> rfl
@[simp] theorem State.putTeam_focus (s : State) (r : TeamRef) (t : Team) : (s.putTeam r t).focus = s.focus := by unfold State.putTeam; split <;> rfl
@[simp] theorem State.putTeam_free (s : State) (r : TeamRef) (t : Team) : (s.putTeam r t).free = s.free := by unfold State.putTeam; split <;> rfl
@[simp] theorem State.putTeam_mem (s : State) (r : TeamRef) (t : Team) : (s.putTeam r t).mem = s.mem := by unfold State.putTeam; split <;> rfl
@[simp] theorem State.putTeam_poison (s : State) (r : TeamRef) (t : Team) : (s.putTeam r t).poison = s.poison := by unfold State.putTeam; split <;> rfl
@[simp] theorem State.putTeam_dead (s : State) (r : TeamRef) (t : Team) : (s.putTeam r t).dead = s.dead := by unfold State.putTeam; split <;> rfl
@[simp] theorem State.putTeam_lineStep (s : State) (r : TeamRef) (t : Team) : (s.putTeam r t).lineStep = s.lineStep := by unfold State.putTeam; split <;> rfl
@[simp] theorem State.putTeam_ballast (s : State) (r : TeamRef) (t : Team) : (s.putTeam r t).ballast = s.ballast := by unfold State.putTeam; split <;> rfl
@[simp] theorem State.putTeam_ranges (s : State) (r : TeamRef) (t : Team) : (s.putTeam r t).ranges = s.ranges := by unfold State.putTeam; split <;> rfl
@[simp] theorem State.putTeam_tlb (s : State) (r : TeamRef) (t : Team) : (s.putTeam r t).tlb = s.tlb := by unfold State.putTeam; split <;> rfl
@[simp] theorem State.putTeam_gangTlb (s : State) (r : TeamRef) (t : Team) : (s.putTeam r t).gangTlb = s.gangTlb := by unfold State.putTeam; split <;> rfl
@[simp] theorem State.putTeam_l1 (s : State) (r : TeamRef) (t : Team) : (s.putTeam r t).l1 = s.l1 := by unfold State.putTeam; split <;> rfl
@[simp] theorem State.putTeam_pools (s : State) (r : TeamRef) (t : Team) : (s.putTeam r t).pools = s.pools := by unfold State.putTeam; split <;> rfl
@[simp] theorem State.putTeam_lqs (s : State) (r : TeamRef) (t : Team) : (s.putTeam r t).lqs = s.lqs := by unfold State.putTeam; split <;> rfl
@[simp] theorem State.putTeam_turn (s : State) (r : TeamRef) (t : Team) : (s.putTeam r t).turn = s.turn := by unfold State.putTeam; split <;> rfl
@[simp] theorem State.putTeam_evRing (s : State) (r : TeamRef) (t : Team) : (s.putTeam r t).evRing = s.evRing := by unfold State.putTeam; split <;> rfl
@[simp] theorem State.putTeam_evSeq (s : State) (r : TeamRef) (t : Team) : (s.putTeam r t).evSeq = s.evSeq := by unfold State.putTeam; split <;> rfl
@[simp] theorem State.putTeam_events (s : State) (r : TeamRef) (t : Team) : (s.putTeam r t).events = s.events := by unfold State.putTeam; split <;> rfl
@[simp] theorem State.putTeam_hostRing (s : State) (r : TeamRef) (t : Team) : (s.putTeam r t).hostRing = s.hostRing := by unfold State.putTeam; split <;> rfl
@[simp] theorem State.putTeam_msix (s : State) (r : TeamRef) (t : Team) : (s.putTeam r t).msix = s.msix := by unfold State.putTeam; split <;> rfl
@[simp] theorem State.putTeam_reply (s : State) (r : TeamRef) (t : Team) : (s.putTeam r t).reply = s.reply := by unfold State.putTeam; split <;> rfl
@[simp] theorem State.putTeam_spdm (s : State) (r : TeamRef) (t : Team) : (s.putTeam r t).spdm = s.spdm := by unfold State.putTeam; split <;> rfl
@[simp] theorem State.putTeam_hostRead (s : State) (r : TeamRef) (t : Team) : (s.putTeam r t).hostRead = s.hostRead := by unfold State.putTeam; split <;> rfl
@[simp] theorem State.putTeam_mailboxIrq (s : State) (r : TeamRef) (t : Team) : (s.putTeam r t).mailboxIrq = s.mailboxIrq := by unfold State.putTeam; split <;> rfl
@[simp] theorem State.putTeam_mailboxRun (s : State) (r : TeamRef) (t : Team) : (s.putTeam r t).mailboxRun = s.mailboxRun := by unfold State.putTeam; split <;> rfl
@[simp] theorem State.putTeam_walks (s : State) (r : TeamRef) (t : Team) : (s.putTeam r t).walks = s.walks := by unfold State.putTeam; split <;> rfl
@[simp] theorem State.putTeam_owed (s : State) (r : TeamRef) (t : Team) : (s.putTeam r t).owed = s.owed := by unfold State.putTeam; split <;> rfl
@[simp] theorem State.putTeam_launches (s : State) (r : TeamRef) (t : Team) : (s.putTeam r t).launches = s.launches := by unfold State.putTeam; split <;> rfl
@[simp] theorem State.putTeam_nextId (s : State) (r : TeamRef) (t : Team) : (s.putTeam r t).nextId = s.nextId := by unfold State.putTeam; split <;> rfl
@[simp] theorem State.putTeam_nextBorn (s : State) (r : TeamRef) (t : Team) : (s.putTeam r t).nextBorn = s.nextBorn := by unfold State.putTeam; split <;> rfl
@[simp] theorem State.putTeam_nextWait (s : State) (r : TeamRef) (t : Team) : (s.putTeam r t).nextWait = s.nextWait := by unfold State.putTeam; split <;> rfl
@[simp] theorem State.putTeam_nextConv (s : State) (r : TeamRef) (t : Team) : (s.putTeam r t).nextConv = s.nextConv := by unfold State.putTeam; split <;> rfl
@[simp] theorem State.putTeam_nextRun (s : State) (r : TeamRef) (t : Team) : (s.putTeam r t).nextRun = s.nextRun := by unfold State.putTeam; split <;> rfl
@[simp] theorem State.putTeam_nextCmd (s : State) (r : TeamRef) (t : Team) : (s.putTeam r t).nextCmd = s.nextCmd := by unfold State.putTeam; split <;> rfl
@[simp] theorem State.putTeam_nextTag (s : State) (r : TeamRef) (t : Team) : (s.putTeam r t).nextTag = s.nextTag := by unfold State.putTeam; split <;> rfl
@[simp] theorem State.putTeam_commands (s : State) (r : TeamRef) (t : Team) : (s.putTeam r t).commands = s.commands := by unfold State.putTeam; split <;> rfl
@[simp] theorem State.putTeam_spanNodes (s : State) (r : TeamRef) (t : Team) : (s.putTeam r t).spanNodes = s.spanNodes := by unfold State.putTeam; split <;> rfl
@[simp] theorem State.putTeam_spanVals (s : State) (r : TeamRef) (t : Team) : (s.putTeam r t).spanVals = s.spanVals := by unfold State.putTeam; split <;> rfl
@[simp] theorem State.putTeam_pspanOpen (s : State) (r : TeamRef) (t : Team) : (s.putTeam r t).pspanOpen = s.pspanOpen := by unfold State.putTeam; split <;> rfl
@[simp] theorem State.putTeam_spanNext (s : State) (r : TeamRef) (t : Team) : (s.putTeam r t).spanNext = s.spanNext := by unfold State.putTeam; split <;> rfl
@[simp] theorem State.putTeam_wlItems (s : State) (r : TeamRef) (t : Team) : (s.putTeam r t).wlItems = s.wlItems := by unfold State.putTeam; split <;> rfl
@[simp] theorem State.putTeam_wlChanges (s : State) (r : TeamRef) (t : Team) : (s.putTeam r t).wlChanges = s.wlChanges := by unfold State.putTeam; split <;> rfl
@[simp] theorem State.putTeam_wlHoles (s : State) (r : TeamRef) (t : Team) : (s.putTeam r t).wlHoles = s.wlHoles := by unfold State.putTeam; split <;> rfl
@[simp] theorem State.putTeam_matrix (s : State) (r : TeamRef) (t : Team) : (s.putTeam r t).matrix = s.matrix := by unfold State.putTeam; split <;> rfl
@[simp] theorem State.putTeam_offers (s : State) (r : TeamRef) (t : Team) : (s.putTeam r t).offers = s.offers := by unfold State.putTeam; split <;> rfl
@[simp] theorem State.putTeam_lastChosen (s : State) (r : TeamRef) (t : Team) : (s.putTeam r t).lastChosen = s.lastChosen := by unfold State.putTeam; split <;> rfl
@[simp] theorem State.putTeam_issueUsed (s : State) (r : TeamRef) (t : Team) : (s.putTeam r t).issueUsed = s.issueUsed := by unfold State.putTeam; split <;> rfl
@[simp] theorem State.putTeam_silent (s : State) (r : TeamRef) (t : Team) : (s.putTeam r t).silent = s.silent := by unfold State.putTeam; split <;> rfl
@[simp] theorem State.putTeam_asked (s : State) (r : TeamRef) (t : Team) : (s.putTeam r t).asked = s.asked := by unfold State.putTeam; split <;> rfl
@[simp] theorem State.putTeam_accHold (s : State) (r : TeamRef) (t : Team) : (s.putTeam r t).accHold = s.accHold := by unfold State.putTeam; split <;> rfl
@[simp] theorem State.putTeam_clk (s : State) (r : TeamRef) (t : Team) : (s.putTeam r t).clk = s.clk := by unfold State.putTeam; split <;> rfl
@[simp] theorem State.putTeam_pairClk (s : State) (r : TeamRef) (t : Team) : (s.putTeam r t).pairClk = s.pairClk := by unfold State.putTeam; split <;> rfl
@[simp] theorem State.putTeam_regions (s : State) (r : TeamRef) (t : Team) : (s.putTeam r t).regions = s.regions := by unfold State.putTeam; split <;> rfl
@[simp] theorem State.putTeam_vacantGangs (s : State) (r : TeamRef) (t : Team) : (s.putTeam r t).vacantGangs = s.vacantGangs := by unfold State.putTeam; split <;> rfl
@[simp] theorem State.putTeam_vacantCores (s : State) (r : TeamRef) (t : Team) : (s.putTeam r t).vacantCores = s.vacantCores := by unfold State.putTeam; split <;> rfl
@[simp] theorem State.putTeam_closedCores (s : State) (r : TeamRef) (t : Team) : (s.putTeam r t).closedCores = s.closedCores := by unfold State.putTeam; split <;> rfl
@[simp] theorem State.putTeam_capGen (s : State) (r : TeamRef) (t : Team) : (s.putTeam r t).capGen = s.capGen := by unfold State.putTeam; split <;> rfl
@[simp] theorem State.putTeam_units (s : State) (r : TeamRef) (t : Team) : (s.putTeam r t).units = s.units := by unfold State.putTeam; split <;> rfl
@[simp] theorem State.putTeam_nextDue (s : State) (r : TeamRef) (t : Team) : (s.putTeam r t).nextDue = s.nextDue := by unfold State.putTeam; split <;> rfl
@[simp] theorem State.putTeam_slotsUsed (s : State) (r : TeamRef) (t : Team) : (s.putTeam r t).slotsUsed = s.slotsUsed := by unfold State.putTeam; split <;> rfl
@[simp] theorem State.putTeam_corrected (s : State) (r : TeamRef) (t : Team) : (s.putTeam r t).corrected = s.corrected := by unfold State.putTeam; split <;> rfl
@[simp] theorem State.putTeam_mgmt (s : State) (r : TeamRef) (t : Team) : (s.putTeam r t).mgmt = s.mgmt := by unfold State.putTeam; split <;> rfl
@[simp] theorem State.putTeam_decayAge (s : State) (r : TeamRef) (t : Team) : (s.putTeam r t).decayAge = s.decayAge := by unfold State.putTeam; split <;> rfl
@[simp] theorem State.putTeam_cutSeq (s : State) (r : TeamRef) (t : Team) : (s.putTeam r t).cutSeq = s.cutSeq := by unfold State.putTeam; split <;> rfl
@[simp] theorem State.putTeam_quiesced (s : State) (r : TeamRef) (t : Team) : (s.putTeam r t).quiesced = s.quiesced := by unfold State.putTeam; split <;> rfl
@[simp] theorem State.putTeam_quiescing (s : State) (r : TeamRef) (t : Team) : (s.putTeam r t).quiescing = s.quiescing := by unfold State.putTeam; split <;> rfl
@[simp] theorem State.putTeam_ports (s : State) (r : TeamRef) (t : Team) : (s.putTeam r t).ports = s.ports := by unfold State.putTeam; split <;> rfl
@[simp] theorem State.putTeam_outbox (s : State) (r : TeamRef) (t : Team) : (s.putTeam r t).outbox = s.outbox := by unfold State.putTeam; split <;> rfl
@[simp] theorem State.putTeam_span (s : State) (r : TeamRef) (t : Team) : (s.putTeam r t).span = s.span := by unfold State.putTeam; split <;> rfl
@[simp] theorem State.putTeam_home (s : State) (r : TeamRef) (t : Team) : (s.putTeam r t).home = s.home := by unfold State.putTeam; split <;> rfl
@[simp] theorem State.putTeam_homeWaits (s : State) (r : TeamRef) (t : Team) : (s.putTeam r t).homeWaits = s.homeWaits := by unfold State.putTeam; split <;> rfl
@[simp] theorem State.putTeam_slices (s : State) (r : TeamRef) (t : Team) : (s.putTeam r t).slices = s.slices := by unfold State.putTeam; split <;> rfl
@[simp] theorem State.putTeam_treqs (s : State) (r : TeamRef) (t : Team) : (s.putTeam r t).treqs = s.treqs := by unfold State.putTeam; split <;> rfl
@[simp] theorem State.putTeam_comet (s : State) (r : TeamRef) (t : Team) : (s.putTeam r t).comet = s.comet := by unfold State.putTeam; split <;> rfl
@[simp] theorem State.putTeam_shards (s : State) (r : TeamRef) (t : Team) : (s.putTeam r t).shards = s.shards := by unfold State.putTeam; split <;> rfl
@[simp] theorem State.putTeam_platform (s : State) (r : TeamRef) (t : Team) : (s.putTeam r t).platform = s.platform := by unfold State.putTeam; split <;> rfl
@[simp] theorem State.putTeam_perf (s : State) (r : TeamRef) (t : Team) : (s.putTeam r t).perf = s.perf := by unfold State.putTeam; split <;> rfl
@[simp] theorem State.putTeam_vaux (s : State) (r : TeamRef) (t : Team) : (s.putTeam r t).vaux = s.vaux := by unfold State.putTeam; split <;> rfl
@[simp] theorem State.putTeam_vin (s : State) (r : TeamRef) (t : Team) : (s.putTeam r t).vin = s.vin := by unfold State.putTeam; split <;> rfl
@[simp] theorem State.putTeam_powerLoss (s : State) (r : TeamRef) (t : Team) : (s.putTeam r t).powerLoss = s.powerLoss := by unfold State.putTeam; split <;> rfl
@[simp] theorem State.putTeam_nv (s : State) (r : TeamRef) (t : Team) : (s.putTeam r t).nv = s.nv := by unfold State.putTeam; split <;> rfl
@[simp] theorem State.putTeam_i3c (s : State) (r : TeamRef) (t : Team) : (s.putTeam r t).i3c = s.i3c := by unfold State.putTeam; split <;> rfl
@[simp] theorem State.putTeam_i3cIndex (s : State) (r : TeamRef) (t : Team) : (s.putTeam r t).i3cIndex = s.i3cIndex := by unfold State.putTeam; split <;> rfl
@[simp] theorem State.modCrew_moves (s : State) (k : Nat) (f : Crew → Crew) : (s.modCrew k f).moves = s.moves := by unfold State.modCrew; split <;> rfl
@[simp] theorem State.modCrew_focus (s : State) (k : Nat) (f : Crew → Crew) : (s.modCrew k f).focus = s.focus := by unfold State.modCrew; split <;> rfl
@[simp] theorem State.modCrew_free (s : State) (k : Nat) (f : Crew → Crew) : (s.modCrew k f).free = s.free := by unfold State.modCrew; split <;> rfl
@[simp] theorem State.modCrew_mem (s : State) (k : Nat) (f : Crew → Crew) : (s.modCrew k f).mem = s.mem := by unfold State.modCrew; split <;> rfl
@[simp] theorem State.modCrew_poison (s : State) (k : Nat) (f : Crew → Crew) : (s.modCrew k f).poison = s.poison := by unfold State.modCrew; split <;> rfl
@[simp] theorem State.modCrew_dead (s : State) (k : Nat) (f : Crew → Crew) : (s.modCrew k f).dead = s.dead := by unfold State.modCrew; split <;> rfl
@[simp] theorem State.modCrew_lineStep (s : State) (k : Nat) (f : Crew → Crew) : (s.modCrew k f).lineStep = s.lineStep := by unfold State.modCrew; split <;> rfl
@[simp] theorem State.modCrew_ballast (s : State) (k : Nat) (f : Crew → Crew) : (s.modCrew k f).ballast = s.ballast := by unfold State.modCrew; split <;> rfl
@[simp] theorem State.modCrew_ranges (s : State) (k : Nat) (f : Crew → Crew) : (s.modCrew k f).ranges = s.ranges := by unfold State.modCrew; split <;> rfl
@[simp] theorem State.modCrew_tlb (s : State) (k : Nat) (f : Crew → Crew) : (s.modCrew k f).tlb = s.tlb := by unfold State.modCrew; split <;> rfl
@[simp] theorem State.modCrew_gangTlb (s : State) (k : Nat) (f : Crew → Crew) : (s.modCrew k f).gangTlb = s.gangTlb := by unfold State.modCrew; split <;> rfl
@[simp] theorem State.modCrew_l1 (s : State) (k : Nat) (f : Crew → Crew) : (s.modCrew k f).l1 = s.l1 := by unfold State.modCrew; split <;> rfl
@[simp] theorem State.modCrew_pools (s : State) (k : Nat) (f : Crew → Crew) : (s.modCrew k f).pools = s.pools := by unfold State.modCrew; split <;> rfl
@[simp] theorem State.modCrew_lqs (s : State) (k : Nat) (f : Crew → Crew) : (s.modCrew k f).lqs = s.lqs := by unfold State.modCrew; split <;> rfl
@[simp] theorem State.modCrew_turn (s : State) (k : Nat) (f : Crew → Crew) : (s.modCrew k f).turn = s.turn := by unfold State.modCrew; split <;> rfl
@[simp] theorem State.modCrew_evRing (s : State) (k : Nat) (f : Crew → Crew) : (s.modCrew k f).evRing = s.evRing := by unfold State.modCrew; split <;> rfl
@[simp] theorem State.modCrew_evSeq (s : State) (k : Nat) (f : Crew → Crew) : (s.modCrew k f).evSeq = s.evSeq := by unfold State.modCrew; split <;> rfl
@[simp] theorem State.modCrew_events (s : State) (k : Nat) (f : Crew → Crew) : (s.modCrew k f).events = s.events := by unfold State.modCrew; split <;> rfl
@[simp] theorem State.modCrew_hostRing (s : State) (k : Nat) (f : Crew → Crew) : (s.modCrew k f).hostRing = s.hostRing := by unfold State.modCrew; split <;> rfl
@[simp] theorem State.modCrew_msix (s : State) (k : Nat) (f : Crew → Crew) : (s.modCrew k f).msix = s.msix := by unfold State.modCrew; split <;> rfl
@[simp] theorem State.modCrew_reply (s : State) (k : Nat) (f : Crew → Crew) : (s.modCrew k f).reply = s.reply := by unfold State.modCrew; split <;> rfl
@[simp] theorem State.modCrew_spdm (s : State) (k : Nat) (f : Crew → Crew) : (s.modCrew k f).spdm = s.spdm := by unfold State.modCrew; split <;> rfl
@[simp] theorem State.modCrew_hostRead (s : State) (k : Nat) (f : Crew → Crew) : (s.modCrew k f).hostRead = s.hostRead := by unfold State.modCrew; split <;> rfl
@[simp] theorem State.modCrew_mailboxIrq (s : State) (k : Nat) (f : Crew → Crew) : (s.modCrew k f).mailboxIrq = s.mailboxIrq := by unfold State.modCrew; split <;> rfl
@[simp] theorem State.modCrew_mailboxRun (s : State) (k : Nat) (f : Crew → Crew) : (s.modCrew k f).mailboxRun = s.mailboxRun := by unfold State.modCrew; split <;> rfl
@[simp] theorem State.modCrew_walks (s : State) (k : Nat) (f : Crew → Crew) : (s.modCrew k f).walks = s.walks := by unfold State.modCrew; split <;> rfl
@[simp] theorem State.modCrew_owed (s : State) (k : Nat) (f : Crew → Crew) : (s.modCrew k f).owed = s.owed := by unfold State.modCrew; split <;> rfl
@[simp] theorem State.modCrew_launches (s : State) (k : Nat) (f : Crew → Crew) : (s.modCrew k f).launches = s.launches := by unfold State.modCrew; split <;> rfl
@[simp] theorem State.modCrew_nextId (s : State) (k : Nat) (f : Crew → Crew) : (s.modCrew k f).nextId = s.nextId := by unfold State.modCrew; split <;> rfl
@[simp] theorem State.modCrew_nextBorn (s : State) (k : Nat) (f : Crew → Crew) : (s.modCrew k f).nextBorn = s.nextBorn := by unfold State.modCrew; split <;> rfl
@[simp] theorem State.modCrew_nextWait (s : State) (k : Nat) (f : Crew → Crew) : (s.modCrew k f).nextWait = s.nextWait := by unfold State.modCrew; split <;> rfl
@[simp] theorem State.modCrew_nextConv (s : State) (k : Nat) (f : Crew → Crew) : (s.modCrew k f).nextConv = s.nextConv := by unfold State.modCrew; split <;> rfl
@[simp] theorem State.modCrew_nextRun (s : State) (k : Nat) (f : Crew → Crew) : (s.modCrew k f).nextRun = s.nextRun := by unfold State.modCrew; split <;> rfl
@[simp] theorem State.modCrew_nextCmd (s : State) (k : Nat) (f : Crew → Crew) : (s.modCrew k f).nextCmd = s.nextCmd := by unfold State.modCrew; split <;> rfl
@[simp] theorem State.modCrew_nextTag (s : State) (k : Nat) (f : Crew → Crew) : (s.modCrew k f).nextTag = s.nextTag := by unfold State.modCrew; split <;> rfl
@[simp] theorem State.modCrew_commands (s : State) (k : Nat) (f : Crew → Crew) : (s.modCrew k f).commands = s.commands := by unfold State.modCrew; split <;> rfl
@[simp] theorem State.modCrew_spanNodes (s : State) (k : Nat) (f : Crew → Crew) : (s.modCrew k f).spanNodes = s.spanNodes := by unfold State.modCrew; split <;> rfl
@[simp] theorem State.modCrew_spanVals (s : State) (k : Nat) (f : Crew → Crew) : (s.modCrew k f).spanVals = s.spanVals := by unfold State.modCrew; split <;> rfl
@[simp] theorem State.modCrew_pspanOpen (s : State) (k : Nat) (f : Crew → Crew) : (s.modCrew k f).pspanOpen = s.pspanOpen := by unfold State.modCrew; split <;> rfl
@[simp] theorem State.modCrew_spanNext (s : State) (k : Nat) (f : Crew → Crew) : (s.modCrew k f).spanNext = s.spanNext := by unfold State.modCrew; split <;> rfl
@[simp] theorem State.modCrew_wlItems (s : State) (k : Nat) (f : Crew → Crew) : (s.modCrew k f).wlItems = s.wlItems := by unfold State.modCrew; split <;> rfl
@[simp] theorem State.modCrew_wlChanges (s : State) (k : Nat) (f : Crew → Crew) : (s.modCrew k f).wlChanges = s.wlChanges := by unfold State.modCrew; split <;> rfl
@[simp] theorem State.modCrew_wlHoles (s : State) (k : Nat) (f : Crew → Crew) : (s.modCrew k f).wlHoles = s.wlHoles := by unfold State.modCrew; split <;> rfl
@[simp] theorem State.modCrew_matrix (s : State) (k : Nat) (f : Crew → Crew) : (s.modCrew k f).matrix = s.matrix := by unfold State.modCrew; split <;> rfl
@[simp] theorem State.modCrew_offers (s : State) (k : Nat) (f : Crew → Crew) : (s.modCrew k f).offers = s.offers := by unfold State.modCrew; split <;> rfl
@[simp] theorem State.modCrew_lastChosen (s : State) (k : Nat) (f : Crew → Crew) : (s.modCrew k f).lastChosen = s.lastChosen := by unfold State.modCrew; split <;> rfl
@[simp] theorem State.modCrew_issueUsed (s : State) (k : Nat) (f : Crew → Crew) : (s.modCrew k f).issueUsed = s.issueUsed := by unfold State.modCrew; split <;> rfl
@[simp] theorem State.modCrew_silent (s : State) (k : Nat) (f : Crew → Crew) : (s.modCrew k f).silent = s.silent := by unfold State.modCrew; split <;> rfl
@[simp] theorem State.modCrew_asked (s : State) (k : Nat) (f : Crew → Crew) : (s.modCrew k f).asked = s.asked := by unfold State.modCrew; split <;> rfl
@[simp] theorem State.modCrew_accHold (s : State) (k : Nat) (f : Crew → Crew) : (s.modCrew k f).accHold = s.accHold := by unfold State.modCrew; split <;> rfl
@[simp] theorem State.modCrew_clk (s : State) (k : Nat) (f : Crew → Crew) : (s.modCrew k f).clk = s.clk := by unfold State.modCrew; split <;> rfl
@[simp] theorem State.modCrew_pairClk (s : State) (k : Nat) (f : Crew → Crew) : (s.modCrew k f).pairClk = s.pairClk := by unfold State.modCrew; split <;> rfl
@[simp] theorem State.modCrew_regions (s : State) (k : Nat) (f : Crew → Crew) : (s.modCrew k f).regions = s.regions := by unfold State.modCrew; split <;> rfl
@[simp] theorem State.modCrew_vacantGangs (s : State) (k : Nat) (f : Crew → Crew) : (s.modCrew k f).vacantGangs = s.vacantGangs := by unfold State.modCrew; split <;> rfl
@[simp] theorem State.modCrew_vacantCores (s : State) (k : Nat) (f : Crew → Crew) : (s.modCrew k f).vacantCores = s.vacantCores := by unfold State.modCrew; split <;> rfl
@[simp] theorem State.modCrew_closedCores (s : State) (k : Nat) (f : Crew → Crew) : (s.modCrew k f).closedCores = s.closedCores := by unfold State.modCrew; split <;> rfl
@[simp] theorem State.modCrew_capGen (s : State) (k : Nat) (f : Crew → Crew) : (s.modCrew k f).capGen = s.capGen := by unfold State.modCrew; split <;> rfl
@[simp] theorem State.modCrew_units (s : State) (k : Nat) (f : Crew → Crew) : (s.modCrew k f).units = s.units := by unfold State.modCrew; split <;> rfl
@[simp] theorem State.modCrew_nextDue (s : State) (k : Nat) (f : Crew → Crew) : (s.modCrew k f).nextDue = s.nextDue := by unfold State.modCrew; split <;> rfl
@[simp] theorem State.modCrew_slotsUsed (s : State) (k : Nat) (f : Crew → Crew) : (s.modCrew k f).slotsUsed = s.slotsUsed := by unfold State.modCrew; split <;> rfl
@[simp] theorem State.modCrew_corrected (s : State) (k : Nat) (f : Crew → Crew) : (s.modCrew k f).corrected = s.corrected := by unfold State.modCrew; split <;> rfl
@[simp] theorem State.modCrew_mgmt (s : State) (k : Nat) (f : Crew → Crew) : (s.modCrew k f).mgmt = s.mgmt := by unfold State.modCrew; split <;> rfl
@[simp] theorem State.modCrew_decayAge (s : State) (k : Nat) (f : Crew → Crew) : (s.modCrew k f).decayAge = s.decayAge := by unfold State.modCrew; split <;> rfl
@[simp] theorem State.modCrew_cutSeq (s : State) (k : Nat) (f : Crew → Crew) : (s.modCrew k f).cutSeq = s.cutSeq := by unfold State.modCrew; split <;> rfl
@[simp] theorem State.modCrew_quiesced (s : State) (k : Nat) (f : Crew → Crew) : (s.modCrew k f).quiesced = s.quiesced := by unfold State.modCrew; split <;> rfl
@[simp] theorem State.modCrew_quiescing (s : State) (k : Nat) (f : Crew → Crew) : (s.modCrew k f).quiescing = s.quiescing := by unfold State.modCrew; split <;> rfl
@[simp] theorem State.modCrew_ports (s : State) (k : Nat) (f : Crew → Crew) : (s.modCrew k f).ports = s.ports := by unfold State.modCrew; split <;> rfl
@[simp] theorem State.modCrew_outbox (s : State) (k : Nat) (f : Crew → Crew) : (s.modCrew k f).outbox = s.outbox := by unfold State.modCrew; split <;> rfl
@[simp] theorem State.modCrew_span (s : State) (k : Nat) (f : Crew → Crew) : (s.modCrew k f).span = s.span := by unfold State.modCrew; split <;> rfl
@[simp] theorem State.modCrew_home (s : State) (k : Nat) (f : Crew → Crew) : (s.modCrew k f).home = s.home := by unfold State.modCrew; split <;> rfl
@[simp] theorem State.modCrew_homeWaits (s : State) (k : Nat) (f : Crew → Crew) : (s.modCrew k f).homeWaits = s.homeWaits := by unfold State.modCrew; split <;> rfl
@[simp] theorem State.modCrew_slices (s : State) (k : Nat) (f : Crew → Crew) : (s.modCrew k f).slices = s.slices := by unfold State.modCrew; split <;> rfl
@[simp] theorem State.modCrew_treqs (s : State) (k : Nat) (f : Crew → Crew) : (s.modCrew k f).treqs = s.treqs := by unfold State.modCrew; split <;> rfl
@[simp] theorem State.modCrew_comet (s : State) (k : Nat) (f : Crew → Crew) : (s.modCrew k f).comet = s.comet := by unfold State.modCrew; split <;> rfl
@[simp] theorem State.modCrew_shards (s : State) (k : Nat) (f : Crew → Crew) : (s.modCrew k f).shards = s.shards := by unfold State.modCrew; split <;> rfl
@[simp] theorem State.modCrew_platform (s : State) (k : Nat) (f : Crew → Crew) : (s.modCrew k f).platform = s.platform := by unfold State.modCrew; split <;> rfl
@[simp] theorem State.modCrew_perf (s : State) (k : Nat) (f : Crew → Crew) : (s.modCrew k f).perf = s.perf := by unfold State.modCrew; split <;> rfl
@[simp] theorem State.modCrew_vaux (s : State) (k : Nat) (f : Crew → Crew) : (s.modCrew k f).vaux = s.vaux := by unfold State.modCrew; split <;> rfl
@[simp] theorem State.modCrew_vin (s : State) (k : Nat) (f : Crew → Crew) : (s.modCrew k f).vin = s.vin := by unfold State.modCrew; split <;> rfl
@[simp] theorem State.modCrew_powerLoss (s : State) (k : Nat) (f : Crew → Crew) : (s.modCrew k f).powerLoss = s.powerLoss := by unfold State.modCrew; split <;> rfl
@[simp] theorem State.modCrew_nv (s : State) (k : Nat) (f : Crew → Crew) : (s.modCrew k f).nv = s.nv := by unfold State.modCrew; split <;> rfl
@[simp] theorem State.modCrew_i3c (s : State) (k : Nat) (f : Crew → Crew) : (s.modCrew k f).i3c = s.i3c := by unfold State.modCrew; split <;> rfl
@[simp] theorem State.modCrew_i3cIndex (s : State) (k : Nat) (f : Crew → Crew) : (s.modCrew k f).i3cIndex = s.i3cIndex := by unfold State.modCrew; split <;> rfl
@[simp] theorem State.modTeam_moves (s : State) (r : TeamRef) (f : Team → Team) : (s.modTeam r f).moves = s.moves := by unfold State.modTeam; split <;> simp
@[simp] theorem State.modTeam_focus (s : State) (r : TeamRef) (f : Team → Team) : (s.modTeam r f).focus = s.focus := by unfold State.modTeam; split <;> simp
@[simp] theorem State.modTeam_free (s : State) (r : TeamRef) (f : Team → Team) : (s.modTeam r f).free = s.free := by unfold State.modTeam; split <;> simp
@[simp] theorem State.modTeam_mem (s : State) (r : TeamRef) (f : Team → Team) : (s.modTeam r f).mem = s.mem := by unfold State.modTeam; split <;> simp
@[simp] theorem State.modTeam_poison (s : State) (r : TeamRef) (f : Team → Team) : (s.modTeam r f).poison = s.poison := by unfold State.modTeam; split <;> simp
@[simp] theorem State.modTeam_dead (s : State) (r : TeamRef) (f : Team → Team) : (s.modTeam r f).dead = s.dead := by unfold State.modTeam; split <;> simp
@[simp] theorem State.modTeam_lineStep (s : State) (r : TeamRef) (f : Team → Team) : (s.modTeam r f).lineStep = s.lineStep := by unfold State.modTeam; split <;> simp
@[simp] theorem State.modTeam_ballast (s : State) (r : TeamRef) (f : Team → Team) : (s.modTeam r f).ballast = s.ballast := by unfold State.modTeam; split <;> simp
@[simp] theorem State.modTeam_ranges (s : State) (r : TeamRef) (f : Team → Team) : (s.modTeam r f).ranges = s.ranges := by unfold State.modTeam; split <;> simp
@[simp] theorem State.modTeam_tlb (s : State) (r : TeamRef) (f : Team → Team) : (s.modTeam r f).tlb = s.tlb := by unfold State.modTeam; split <;> simp
@[simp] theorem State.modTeam_gangTlb (s : State) (r : TeamRef) (f : Team → Team) : (s.modTeam r f).gangTlb = s.gangTlb := by unfold State.modTeam; split <;> simp
@[simp] theorem State.modTeam_l1 (s : State) (r : TeamRef) (f : Team → Team) : (s.modTeam r f).l1 = s.l1 := by unfold State.modTeam; split <;> simp
@[simp] theorem State.modTeam_pools (s : State) (r : TeamRef) (f : Team → Team) : (s.modTeam r f).pools = s.pools := by unfold State.modTeam; split <;> simp
@[simp] theorem State.modTeam_lqs (s : State) (r : TeamRef) (f : Team → Team) : (s.modTeam r f).lqs = s.lqs := by unfold State.modTeam; split <;> simp
@[simp] theorem State.modTeam_turn (s : State) (r : TeamRef) (f : Team → Team) : (s.modTeam r f).turn = s.turn := by unfold State.modTeam; split <;> simp
@[simp] theorem State.modTeam_evRing (s : State) (r : TeamRef) (f : Team → Team) : (s.modTeam r f).evRing = s.evRing := by unfold State.modTeam; split <;> simp
@[simp] theorem State.modTeam_evSeq (s : State) (r : TeamRef) (f : Team → Team) : (s.modTeam r f).evSeq = s.evSeq := by unfold State.modTeam; split <;> simp
@[simp] theorem State.modTeam_events (s : State) (r : TeamRef) (f : Team → Team) : (s.modTeam r f).events = s.events := by unfold State.modTeam; split <;> simp
@[simp] theorem State.modTeam_hostRing (s : State) (r : TeamRef) (f : Team → Team) : (s.modTeam r f).hostRing = s.hostRing := by unfold State.modTeam; split <;> simp
@[simp] theorem State.modTeam_msix (s : State) (r : TeamRef) (f : Team → Team) : (s.modTeam r f).msix = s.msix := by unfold State.modTeam; split <;> simp
@[simp] theorem State.modTeam_reply (s : State) (r : TeamRef) (f : Team → Team) : (s.modTeam r f).reply = s.reply := by unfold State.modTeam; split <;> simp
@[simp] theorem State.modTeam_spdm (s : State) (r : TeamRef) (f : Team → Team) : (s.modTeam r f).spdm = s.spdm := by unfold State.modTeam; split <;> simp
@[simp] theorem State.modTeam_hostRead (s : State) (r : TeamRef) (f : Team → Team) : (s.modTeam r f).hostRead = s.hostRead := by unfold State.modTeam; split <;> simp
@[simp] theorem State.modTeam_mailboxIrq (s : State) (r : TeamRef) (f : Team → Team) : (s.modTeam r f).mailboxIrq = s.mailboxIrq := by unfold State.modTeam; split <;> simp
@[simp] theorem State.modTeam_mailboxRun (s : State) (r : TeamRef) (f : Team → Team) : (s.modTeam r f).mailboxRun = s.mailboxRun := by unfold State.modTeam; split <;> simp
@[simp] theorem State.modTeam_walks (s : State) (r : TeamRef) (f : Team → Team) : (s.modTeam r f).walks = s.walks := by unfold State.modTeam; split <;> simp
@[simp] theorem State.modTeam_owed (s : State) (r : TeamRef) (f : Team → Team) : (s.modTeam r f).owed = s.owed := by unfold State.modTeam; split <;> simp
@[simp] theorem State.modTeam_launches (s : State) (r : TeamRef) (f : Team → Team) : (s.modTeam r f).launches = s.launches := by unfold State.modTeam; split <;> simp
@[simp] theorem State.modTeam_nextId (s : State) (r : TeamRef) (f : Team → Team) : (s.modTeam r f).nextId = s.nextId := by unfold State.modTeam; split <;> simp
@[simp] theorem State.modTeam_nextBorn (s : State) (r : TeamRef) (f : Team → Team) : (s.modTeam r f).nextBorn = s.nextBorn := by unfold State.modTeam; split <;> simp
@[simp] theorem State.modTeam_nextWait (s : State) (r : TeamRef) (f : Team → Team) : (s.modTeam r f).nextWait = s.nextWait := by unfold State.modTeam; split <;> simp
@[simp] theorem State.modTeam_nextConv (s : State) (r : TeamRef) (f : Team → Team) : (s.modTeam r f).nextConv = s.nextConv := by unfold State.modTeam; split <;> simp
@[simp] theorem State.modTeam_nextRun (s : State) (r : TeamRef) (f : Team → Team) : (s.modTeam r f).nextRun = s.nextRun := by unfold State.modTeam; split <;> simp
@[simp] theorem State.modTeam_nextCmd (s : State) (r : TeamRef) (f : Team → Team) : (s.modTeam r f).nextCmd = s.nextCmd := by unfold State.modTeam; split <;> simp
@[simp] theorem State.modTeam_nextTag (s : State) (r : TeamRef) (f : Team → Team) : (s.modTeam r f).nextTag = s.nextTag := by unfold State.modTeam; split <;> simp
@[simp] theorem State.modTeam_commands (s : State) (r : TeamRef) (f : Team → Team) : (s.modTeam r f).commands = s.commands := by unfold State.modTeam; split <;> simp
@[simp] theorem State.modTeam_spanNodes (s : State) (r : TeamRef) (f : Team → Team) : (s.modTeam r f).spanNodes = s.spanNodes := by unfold State.modTeam; split <;> simp
@[simp] theorem State.modTeam_spanVals (s : State) (r : TeamRef) (f : Team → Team) : (s.modTeam r f).spanVals = s.spanVals := by unfold State.modTeam; split <;> simp
@[simp] theorem State.modTeam_pspanOpen (s : State) (r : TeamRef) (f : Team → Team) : (s.modTeam r f).pspanOpen = s.pspanOpen := by unfold State.modTeam; split <;> simp
@[simp] theorem State.modTeam_spanNext (s : State) (r : TeamRef) (f : Team → Team) : (s.modTeam r f).spanNext = s.spanNext := by unfold State.modTeam; split <;> simp
@[simp] theorem State.modTeam_wlItems (s : State) (r : TeamRef) (f : Team → Team) : (s.modTeam r f).wlItems = s.wlItems := by unfold State.modTeam; split <;> simp
@[simp] theorem State.modTeam_wlChanges (s : State) (r : TeamRef) (f : Team → Team) : (s.modTeam r f).wlChanges = s.wlChanges := by unfold State.modTeam; split <;> simp
@[simp] theorem State.modTeam_wlHoles (s : State) (r : TeamRef) (f : Team → Team) : (s.modTeam r f).wlHoles = s.wlHoles := by unfold State.modTeam; split <;> simp
@[simp] theorem State.modTeam_matrix (s : State) (r : TeamRef) (f : Team → Team) : (s.modTeam r f).matrix = s.matrix := by unfold State.modTeam; split <;> simp
@[simp] theorem State.modTeam_offers (s : State) (r : TeamRef) (f : Team → Team) : (s.modTeam r f).offers = s.offers := by unfold State.modTeam; split <;> simp
@[simp] theorem State.modTeam_lastChosen (s : State) (r : TeamRef) (f : Team → Team) : (s.modTeam r f).lastChosen = s.lastChosen := by unfold State.modTeam; split <;> simp
@[simp] theorem State.modTeam_issueUsed (s : State) (r : TeamRef) (f : Team → Team) : (s.modTeam r f).issueUsed = s.issueUsed := by unfold State.modTeam; split <;> simp
@[simp] theorem State.modTeam_silent (s : State) (r : TeamRef) (f : Team → Team) : (s.modTeam r f).silent = s.silent := by unfold State.modTeam; split <;> simp
@[simp] theorem State.modTeam_asked (s : State) (r : TeamRef) (f : Team → Team) : (s.modTeam r f).asked = s.asked := by unfold State.modTeam; split <;> simp
@[simp] theorem State.modTeam_accHold (s : State) (r : TeamRef) (f : Team → Team) : (s.modTeam r f).accHold = s.accHold := by unfold State.modTeam; split <;> simp
@[simp] theorem State.modTeam_clk (s : State) (r : TeamRef) (f : Team → Team) : (s.modTeam r f).clk = s.clk := by unfold State.modTeam; split <;> simp
@[simp] theorem State.modTeam_pairClk (s : State) (r : TeamRef) (f : Team → Team) : (s.modTeam r f).pairClk = s.pairClk := by unfold State.modTeam; split <;> simp
@[simp] theorem State.modTeam_regions (s : State) (r : TeamRef) (f : Team → Team) : (s.modTeam r f).regions = s.regions := by unfold State.modTeam; split <;> simp
@[simp] theorem State.modTeam_vacantGangs (s : State) (r : TeamRef) (f : Team → Team) : (s.modTeam r f).vacantGangs = s.vacantGangs := by unfold State.modTeam; split <;> simp
@[simp] theorem State.modTeam_vacantCores (s : State) (r : TeamRef) (f : Team → Team) : (s.modTeam r f).vacantCores = s.vacantCores := by unfold State.modTeam; split <;> simp
@[simp] theorem State.modTeam_closedCores (s : State) (r : TeamRef) (f : Team → Team) : (s.modTeam r f).closedCores = s.closedCores := by unfold State.modTeam; split <;> simp
@[simp] theorem State.modTeam_capGen (s : State) (r : TeamRef) (f : Team → Team) : (s.modTeam r f).capGen = s.capGen := by unfold State.modTeam; split <;> simp
@[simp] theorem State.modTeam_units (s : State) (r : TeamRef) (f : Team → Team) : (s.modTeam r f).units = s.units := by unfold State.modTeam; split <;> simp
@[simp] theorem State.modTeam_nextDue (s : State) (r : TeamRef) (f : Team → Team) : (s.modTeam r f).nextDue = s.nextDue := by unfold State.modTeam; split <;> simp
@[simp] theorem State.modTeam_slotsUsed (s : State) (r : TeamRef) (f : Team → Team) : (s.modTeam r f).slotsUsed = s.slotsUsed := by unfold State.modTeam; split <;> simp
@[simp] theorem State.modTeam_corrected (s : State) (r : TeamRef) (f : Team → Team) : (s.modTeam r f).corrected = s.corrected := by unfold State.modTeam; split <;> simp
@[simp] theorem State.modTeam_mgmt (s : State) (r : TeamRef) (f : Team → Team) : (s.modTeam r f).mgmt = s.mgmt := by unfold State.modTeam; split <;> simp
@[simp] theorem State.modTeam_decayAge (s : State) (r : TeamRef) (f : Team → Team) : (s.modTeam r f).decayAge = s.decayAge := by unfold State.modTeam; split <;> simp
@[simp] theorem State.modTeam_cutSeq (s : State) (r : TeamRef) (f : Team → Team) : (s.modTeam r f).cutSeq = s.cutSeq := by unfold State.modTeam; split <;> simp
@[simp] theorem State.modTeam_quiesced (s : State) (r : TeamRef) (f : Team → Team) : (s.modTeam r f).quiesced = s.quiesced := by unfold State.modTeam; split <;> simp
@[simp] theorem State.modTeam_quiescing (s : State) (r : TeamRef) (f : Team → Team) : (s.modTeam r f).quiescing = s.quiescing := by unfold State.modTeam; split <;> simp
@[simp] theorem State.modTeam_ports (s : State) (r : TeamRef) (f : Team → Team) : (s.modTeam r f).ports = s.ports := by unfold State.modTeam; split <;> simp
@[simp] theorem State.modTeam_outbox (s : State) (r : TeamRef) (f : Team → Team) : (s.modTeam r f).outbox = s.outbox := by unfold State.modTeam; split <;> simp
@[simp] theorem State.modTeam_span (s : State) (r : TeamRef) (f : Team → Team) : (s.modTeam r f).span = s.span := by unfold State.modTeam; split <;> simp
@[simp] theorem State.modTeam_home (s : State) (r : TeamRef) (f : Team → Team) : (s.modTeam r f).home = s.home := by unfold State.modTeam; split <;> simp
@[simp] theorem State.modTeam_homeWaits (s : State) (r : TeamRef) (f : Team → Team) : (s.modTeam r f).homeWaits = s.homeWaits := by unfold State.modTeam; split <;> simp
@[simp] theorem State.modTeam_slices (s : State) (r : TeamRef) (f : Team → Team) : (s.modTeam r f).slices = s.slices := by unfold State.modTeam; split <;> simp
@[simp] theorem State.modTeam_treqs (s : State) (r : TeamRef) (f : Team → Team) : (s.modTeam r f).treqs = s.treqs := by unfold State.modTeam; split <;> simp
@[simp] theorem State.modTeam_comet (s : State) (r : TeamRef) (f : Team → Team) : (s.modTeam r f).comet = s.comet := by unfold State.modTeam; split <;> simp
@[simp] theorem State.modTeam_shards (s : State) (r : TeamRef) (f : Team → Team) : (s.modTeam r f).shards = s.shards := by unfold State.modTeam; split <;> simp
@[simp] theorem State.modTeam_platform (s : State) (r : TeamRef) (f : Team → Team) : (s.modTeam r f).platform = s.platform := by unfold State.modTeam; split <;> simp
@[simp] theorem State.modTeam_perf (s : State) (r : TeamRef) (f : Team → Team) : (s.modTeam r f).perf = s.perf := by unfold State.modTeam; split <;> simp
@[simp] theorem State.modTeam_vaux (s : State) (r : TeamRef) (f : Team → Team) : (s.modTeam r f).vaux = s.vaux := by unfold State.modTeam; split <;> simp
@[simp] theorem State.modTeam_vin (s : State) (r : TeamRef) (f : Team → Team) : (s.modTeam r f).vin = s.vin := by unfold State.modTeam; split <;> simp
@[simp] theorem State.modTeam_powerLoss (s : State) (r : TeamRef) (f : Team → Team) : (s.modTeam r f).powerLoss = s.powerLoss := by unfold State.modTeam; split <;> simp
@[simp] theorem State.modTeam_nv (s : State) (r : TeamRef) (f : Team → Team) : (s.modTeam r f).nv = s.nv := by unfold State.modTeam; split <;> simp
@[simp] theorem State.modTeam_i3c (s : State) (r : TeamRef) (f : Team → Team) : (s.modTeam r f).i3c = s.i3c := by unfold State.modTeam; split <;> simp
@[simp] theorem State.modTeam_i3cIndex (s : State) (r : TeamRef) (f : Team → Team) : (s.modTeam r f).i3cIndex = s.i3cIndex := by unfold State.modTeam; split <;> simp

end Sys2Proof.Machine
end

