-- ==== Sys2Proof/Laws/Memory.lean ====
section
/-! SUPPORT. Memory: bytes of wider reads, and one lemma per operation that writes memory: it keeps the canonical form. -/

namespace Sys2Proof.Machine

/-! ### Bytes of a wider read -/

theorem readLE_byte (m : Memory) : ∀ (n a k : Nat), k < n → readLE m a n / 256 ^ k % 256 = (cellGet m (a + k)).toNat := by
  intro n
  induction n with
  | zero => intro a k h; omega
  | succ n ih =>
    intro a k h
    have hb : (cellGet m a).toNat < 256 := (cellGet m a).isLt
    cases k with
    | zero => simp only [readLE, Nat.pow_zero, Nat.div_one, Nat.add_zero]; omega
    | succ k =>
      have : (readLE m a (n + 1)) / 256 ^ (k + 1) = readLE m (a + 1) n / 256 ^ k := by
        rw [readLE, Nat.pow_succ', ← Nat.div_div_eq_div_mul]; congr 1; omega
      rw [this, ih (a + 1) k (by omega)]; congr 2; omega

theorem readLE_lt (m : Memory) (n : Nat) : ∀ a, readLE m a n < 256 ^ n := by
  induction n with
  | zero => intro a; simp [readLE]
  | succ n ih =>
    intro a
    have hb : (cellGet m a).toNat < 256 := (cellGet m a).isLt
    have h := ih (a + 1)
    rw [readLE, Nat.pow_succ']; omega

/-- A byte of memory without accepted SCM lines. -/
theorem physRead_byte (s : State) (hb : s.ballast = []) (pa : Nat) : s.physRead pa 1 = (cellGet s.mem pa).toNat := by
  unfold State.physRead
  split
  · have e : s.lineData (pa / 64 * 64) = BitVec.ofNat 512 (readLE s.mem (pa / 64 * 64) 64) := by simp [State.lineData, hb, ballastLine]
    have l : readLE s.mem (pa / 64 * 64) 64 < 2 ^ 512 := lt_of_lt_of_le (readLE_lt _ _ _) (by rw [show (256 : Nat) = 2 ^ 8 from rfl, ← Nat.pow_mul])
    rw [e, BitVec.toNat_ofNat, Nat.mod_eq_of_lt l, Nat.pow_one, readLE_byte _ _ _ _ (Nat.mod_lt _ (by decide))]
    congr 2; omega
  · simp [readLE]

/-! ### Updates that leave memory alone -/

@[simp] theorem State.raise_mem (s : State) (a b c d e : Nat) : (s.raise a b c d e).mem = s.mem := rfl
@[simp] theorem State.clearPoison_mem (s : State) (pa n : Nat) : (s.clearPoison pa n).mem = s.mem := rfl
@[simp] theorem State.count_mem (s : State) (d code n : Nat) : (s.count d code n).mem = s.mem := by
  unfold State.count; split
  · rfl
  · split <;> rfl
@[simp] theorem State.countRequest_mem (s : State) (die pa : Nat) (wr : Bool) : (s.countRequest die pa wr).mem = s.mem := by
  unfold State.countRequest
  have h : (if paDie pa = die then s else (s.count die 8 1).count (paDie pa) 9 1).mem = s.mem := by split <;> simp
  dsimp only
  split
  · exact h
  · split
    · simpa using h
    · exact h
@[simp] theorem State.alsoPreserved_mem (s : State) (g : Granule) (st : BitVec 32) (o n b w : Nat) (f : Nat → Nat) : (s.alsoPreserved g st o n b w f).mem = s.mem := by
  unfold State.alsoPreserved; split <;> rfl
@[simp] theorem State.poolLow_mem (s : State) (p : Nat) : (s.poolLow p).mem = s.mem := by
  unfold State.poolLow
  split
  · rfl
  · dsimp only; split <;> rfl
@[simp] theorem State.poolHead_mem (fuel : Nat) : ∀ (s : State) (die z : Nat), (s.poolHead die z fuel).1.mem = s.mem := by
  induction fuel with
  | zero => intro s die z; rfl
  | succ n ih =>
    intro s die z
    unfold State.poolHead
    dsimp only
    split
    · rfl
    · split
      · rfl
      · split
        · simp
        · rw [ih]; simp
theorem preserve_mem {s s' : State} {g : Granule} {u : ImageUnit} {st : BitVec 32} (h : s.preserve g u st = .ok s') : s'.mem = s.mem := by
  unfold State.preserve at h
  split at h
  · cases h
  · split at h
    · cases h; rfl
    · split at h <;> cases h; rfl

/-! ### Every operation that writes memory keeps its canonical form -/

theorem wf_writeLE {s : State} (h : s.memOk) (a n v : Nat) : State.memOk { s with mem := writeLE s.mem a n v } := writeLE_wf a n v h

theorem memOk_physWrite {s s' : State} {pa n v : Nat} (h : s.memOk) (e : s.physWrite pa n v = .ok s') : s'.memOk := by
  unfold State.physWrite at e
  split at e
  · cases e
  · split at e
    · dsimp only at e
      split at e <;> cases e
      exact h
    · cases e
      exact writeLE_wf _ _ _ h

theorem memOk_pageMerge {s s' : State} {va pa n b k : Nat} {w : Word} {st : BitVec 32} {f : Nat → Nat} (h : s.memOk) (e : s.pageMerge va pa w st n b k f = .ok s') : s'.memOk := by
  unfold State.pageMerge at e
  split at e
  · dsimp only at e
    split at e
    · cases e
    · rename_i s1 h1
      exact memOk_physWrite (by unfold State.memOk; rw [State.alsoPreserved_mem, preserve_mem h1]; exact h) e
  · exact memOk_physWrite h e

theorem memOk_pageWrite {s s' : State} {va pa n v : Nat} {w : Word} {st : BitVec 32} (h : s.memOk) (e : s.pageWrite va pa w st n v = .ok s') : s'.memOk :=
  memOk_pageMerge h e

theorem memOk_zeroFrame {s : State} (h : s.memOk) (f n : Nat) : (s.zeroFrame f n).memOk := by
  unfold State.zeroFrame State.memOk
  rw [State.countRequest_mem]
  exact cellErase_wf _ _ h

theorem memOk_bindFrame {s : State} (h : s.memOk) (r : Range) (die va : Nat) (e : Word) (f : Nat) : (s.bindFrame r die va e f).1.memOk := by
  unfold State.bindFrame State.memOk
  simp only [State.countRequest_mem, State.poolLow_mem]
  exact writeLE_wf _ _ _ h

theorem memOk_countRequest {s : State} (h : s.memOk) (die pa : Nat) (wr : Bool) : (s.countRequest die pa wr).memOk := by
  unfold State.memOk; rw [State.countRequest_mem]; exact h

theorem memOk_poolHead {s : State} (h : s.memOk) (die z n : Nat) : (s.poolHead die z n).1.memOk := by
  unfold State.memOk; rw [State.poolHead_mem]; exact h

theorem memOk_walkEnd {s : State} (h : s.memOk) (p : Nat) : (s.walkEnd p).memOk := by
  unfold State.walkEnd
  split
  · exact h
  · dsimp only
    split
    · exact h
    · split
      · exact h
      · exact memOk_bindFrame (s := { s with walks := s.walks.filter (fun x => x.pool != p) }) h _ _ _ _ _

theorem memOk_walkBegin {s : State} (h : s.memOk) (die va : Nat) : (s.walkBegin die va).memOk := by
  unfold State.walkBegin
  split
  · exact h
  · rename_i r _
    dsimp only
    split
    · exact h
    · have hm := memOk_poolHead (memOk_countRequest h die (r.entryAddr va) false) die r.z 65536
      generalize (s.countRequest die (r.entryAddr va) false).poolHead die r.z 65536 = q at hm ⊢
      obtain ⟨s1, f⟩ := q
      cases f with
      | none => exact hm
      | some f => exact memOk_zeroFrame hm _ _

theorem memOk_firstTouch {s : State} (h : s.memOk) (r : Range) (die va : Nat) (e : Word) : (s.firstTouch r die va e).1.memOk := by
  have hm := memOk_poolHead h die r.z 65536
  unfold State.firstTouch
  generalize s.poolHead die r.z 65536 = q at hm ⊢
  obtain ⟨s1, f⟩ := q
  cases f with
  | none => exact hm
  | some f => exact memOk_bindFrame (memOk_zeroFrame hm _ _) _ _ _ _ _

theorem memOk_cacheEntry {s : State} (h : s.memOk) (core : Option Nat) (page z : Nat) (e : Word) : (s.cacheEntry core page z e).memOk := by
  cases core <;> exact h

theorem memOk_walk {s : State} (h : s.memOk) (core : Option Nat) (r : Range) (die va page : Nat) (wr : Bool) :
    (s.walk core r die va page wr).1.memOk := by
  have hc := memOk_countRequest h die (r.entryAddr va) false
  unfold State.walk
  dsimp only
  split
  · exact hc
  split
  · exact hc
  · split
    · exact memOk_cacheEntry hc _ _ _ _
    · split
      · exact hc
      · have hf := memOk_firstTouch hc r die va (s.pte r va)
        generalize (s.countRequest die (r.entryAddr va) false).firstTouch r die va (s.pte r va) = q at hf ⊢
        obtain ⟨s1, x⟩ := q
        cases x <;> first | exact hf | exact memOk_cacheEntry hf _ _ _ _

theorem memOk_translate {s : State} (h : s.memOk) (core : Option Nat) (die va : Nat) (wr : Bool) : (s.translate core die va wr).1.memOk := by
  unfold State.translate
  split
  · exact h
  · split
    · exact h
    · dsimp only
      split
      · split <;> exact h
      · split
        · split <;> exact h
        · refine memOk_walk ?_ _ _ _ _ _ _
          split
          · exact h
          · exact memOk_walkEnd h _

theorem memOk_globCheck {s : State} (h : s.memOk) (core va n : Nat) (wr rd : Bool) : (s.globCheck core va n wr rd).1.memOk := by
  have ht := memOk_translate h (some core) (coreDie core) va wr
  unfold State.globCheck
  split
  · exact h
  · generalize hp : s.translate (some core) (coreDie core) va wr = p at ht ⊢
    obtain ⟨s1, x⟩ := p
    cases x with
    | fail => exact ht
    | lost => exact ht
    | empty z => exact ht
    | ok pa e => dsimp only; split_ifs <;> exact ht

theorem memOk_drainLine {s : State} (h : s.memOk) (die : Nat) : (s.drainLine die).memOk := by
  unfold State.drainLine
  split
  · exact h
  · exact writeLE_wf _ _ _ h

theorem memOk_zeroScm (n : Nat) : ∀ {s : State} (_ : s.memOk) (pa stop : Nat), (s.zeroScm pa stop n).memOk := by
  induction n with
  | zero => intro s h pa stop; exact h
  | succ n ih =>
    intro s h pa stop
    unfold State.zeroScm
    dsimp only
    apply ih
    unfold State.memOk
    split
    · exact h
    · exact memOk_drainLine h _

theorem memOk_zeroPiece {s : State} (h : s.memOk) (core : Nat) (st : BitVec 32) (p : Nat × Nat × Nat × Word) : (s.zeroPiece core st p).memOk := by
  unfold State.zeroPiece State.memOk
  dsimp only
  split
  · exact memOk_zeroScm _ h _ _
  · exact cellErase_wf _ _ h

theorem memOk_hostStore {s : State} (h : s.memOk) (pa : Nat) (bytes : List Byte) : (s.hostStore pa bytes).memOk := by
  have key : ∀ (l : List (Byte × Nat)) (u : State), u.memOk →
      (l.foldl (fun (s : State) p => if s.isDead (pa + p.2) 1 then s else { s with mem := cellSet s.mem (pa + p.2) p.1 }) u).memOk := by
    intro l
    induction l with
    | nil => intro u hu; exact hu
    | cons x l ih =>
      intro u hu
      refine ih _ ?_
      dsimp only
      split
      · exact hu
      · exact cellSet_wf _ _ hu
  exact key _ _ h

theorem memOk_drainedLines {s : State} (h : s.memOk) : s.drainedLines.memOk := by
  have key : ∀ (l : List BLine) (m : Memory), m.wf = true → (l.foldl (fun m b => writeLE m b.addr 64 b.data.toNat) m).wf = true := by
    intro l
    induction l with
    | nil => intro m hm; exact hm
    | cons x l ih => intro m hm; exact ih _ (writeLE_wf _ _ _ hm)
  exact key _ _ h

theorem memOk_afterReset {s : State} (h : s.memOk) : s.afterReset.memOk := filter_wf _ (memOk_drainedLines h)

theorem memOk_setTracked {s : State} (h : s.memOk) (va : Nat) : (s.setTracked va).memOk := by
  unfold State.setTracked
  split
  · exact h
  · exact writeLE_wf _ _ _ h

theorem memOk_place {s : State} (h : s.memOk) (nbits w : Nat) : (s.place nbits w).memOk := writeLE_wf _ _ _ (writeLE_wf _ _ _ h)

end Sys2Proof.Machine
end

