-- ==== Sys2Proof/Laws/PerInstr.lean ====
section
/-! SUPPORT. The per-instruction family `EncodingWidth`: how many words an instruction's encoding has. -/

namespace Sys2Proof.Laws.EncodingWidth

/-- A scalar instruction has one or two words, a lane instruction three and a fused group twelve, an event none (07 R134, R148). -/
def Statement (i : Instr) : Prop :=
  match i.stream with
  | none => encode i = []
  | some .scalar => (encode i).length = 1 ∨ (encode i).length = 2
  | some .lane => (encode i).length = 3 ∨ (encode i).length = 12

theorem unassignedEncoding : ∀ x0, Statement (.unassignedEncoding x0) := fun _ => (rfl : _ = _)
theorem instructionFetchFault : ∀ x0 x1 x2, Statement (.instructionFetchFault x0 x1 x2) := fun _ _ _ => (rfl : _ = _)
theorem add : ∀ x0 x1 x2, Statement (.add x0 x1 x2) := fun _ _ _ => .inl rfl
theorem sub : ∀ x0 x1 x2, Statement (.sub x0 x1 x2) := fun _ _ _ => .inl rfl
theorem mul : ∀ x0 x1 x2, Statement (.mul x0 x1 x2) := fun _ _ _ => .inl rfl
theorem mulh : ∀ x0 x1 x2, Statement (.mulh x0 x1 x2) := fun _ _ _ => .inl rfl
theorem mulhn : ∀ x0 x1 x2, Statement (.mulhn x0 x1 x2) := fun _ _ _ => .inl rfl
theorem div : ∀ x0 x1 x2, Statement (.div x0 x1 x2) := fun _ _ _ => .inl rfl
theorem divn : ∀ x0 x1 x2, Statement (.divn x0 x1 x2) := fun _ _ _ => .inl rfl
theorem rem : ∀ x0 x1 x2, Statement (.rem x0 x1 x2) := fun _ _ _ => .inl rfl
theorem remn : ∀ x0 x1 x2, Statement (.remn x0 x1 x2) := fun _ _ _ => .inl rfl
theorem and : ∀ x0 x1 x2, Statement (.and x0 x1 x2) := fun _ _ _ => .inl rfl
theorem or : ∀ x0 x1 x2, Statement (.or x0 x1 x2) := fun _ _ _ => .inl rfl
theorem xor : ∀ x0 x1 x2, Statement (.xor x0 x1 x2) := fun _ _ _ => .inl rfl
theorem andn : ∀ x0 x1 x2, Statement (.andn x0 x1 x2) := fun _ _ _ => .inl rfl
theorem shl : ∀ x0 x1 x2, Statement (.shl x0 x1 x2) := fun _ _ _ => .inl rfl
theorem shr : ∀ x0 x1 x2, Statement (.shr x0 x1 x2) := fun _ _ _ => .inl rfl
theorem sar : ∀ x0 x1 x2, Statement (.sar x0 x1 x2) := fun _ _ _ => .inl rfl
theorem rol : ∀ x0 x1 x2, Statement (.rol x0 x1 x2) := fun _ _ _ => .inl rfl
theorem min : ∀ x0 x1 x2, Statement (.min x0 x1 x2) := fun _ _ _ => .inl rfl
theorem max : ∀ x0 x1 x2, Statement (.max x0 x1 x2) := fun _ _ _ => .inl rfl
theorem minn : ∀ x0 x1 x2, Statement (.minn x0 x1 x2) := fun _ _ _ => .inl rfl
theorem maxn : ∀ x0 x1 x2, Statement (.maxn x0 x1 x2) := fun _ _ _ => .inl rfl
theorem clz : ∀ x0 x1, Statement (.clz x0 x1) := fun _ _ => .inl rfl
theorem popc : ∀ x0 x1, Statement (.popc x0 x1) := fun _ _ => .inl rfl
theorem brev : ∀ x0 x1, Statement (.brev x0 x1) := fun _ _ => .inl rfl
theorem sext : ∀ x0 x1 x2, Statement (.sext x0 x1 x2) := fun _ _ _ => .inl rfl
theorem zext : ∀ x0 x1 x2, Statement (.zext x0 x1 x2) := fun _ _ _ => .inl rfl
theorem set : ∀ x0 x1 x2 x3, Statement (.set x0 x1 x2 x3) := fun _ _ _ _ => .inl rfl
theorem addi : ∀ x0 x1 x2, Statement (.addi x0 x1 x2) := fun _ _ _ => .inl rfl
theorem andi : ∀ x0 x1 x2, Statement (.andi x0 x1 x2) := fun _ _ _ => .inl rfl
theorem ori : ∀ x0 x1 x2, Statement (.ori x0 x1 x2) := fun _ _ _ => .inl rfl
theorem xori : ∀ x0 x1 x2, Statement (.xori x0 x1 x2) := fun _ _ _ => .inl rfl
theorem shli : ∀ x0 x1 x2, Statement (.shli x0 x1 x2) := fun _ _ _ => .inl rfl
theorem shri : ∀ x0 x1 x2, Statement (.shri x0 x1 x2) := fun _ _ _ => .inl rfl
theorem sari : ∀ x0 x1 x2, Statement (.sari x0 x1 x2) := fun _ _ _ => .inl rfl
theorem li : ∀ x0 x1, Statement (.li x0 x1) := fun _ _ => .inr rfl
theorem liHi : ∀ x0 x1, Statement (.liHi x0 x1) := fun _ _ => .inr rfl
theorem sel : ∀ x0 x1 x2 x3, Statement (.sel x0 x1 x2 x3) := fun _ _ _ _ => .inr rfl
theorem sld : ∀ x0 x1 x2 x3, Statement (.sld x0 x1 x2 x3) := by intros; rename_i x; cases x <;> first | exact .inl rfl | exact .inr rfl
theorem sst : ∀ x0 x1 x2 x3, Statement (.sst x0 x1 x2 x3) := by intros; rename_i x; cases x <;> first | exact .inl rfl | exact .inr rfl
theorem sldf : ∀ x0 x1 x2 x3 x4 x5 x6, Statement (.sldf x0 x1 x2 x3 x4 x5 x6) := fun _ _ _ _ _ _ _ => .inr rfl
theorem sste : ∀ x0 x1 x2 x3 x4 x5, Statement (.sste x0 x1 x2 x3 x4 x5) := fun _ _ _ _ _ _ => .inr rfl
theorem satom : ∀ x0 x1 x2 x3 x4 x5, Statement (.satom x0 x1 x2 x3 x4 x5) := by intros; rename_i x; cases x <;> first | exact .inl rfl | exact .inr rfl
theorem b : ∀ x0, Statement (.b x0) := fun _ => .inl rfl
theorem bz : ∀ x0 x1, Statement (.bz x0 x1) := fun _ _ => .inl rfl
theorem bnz : ∀ x0 x1, Statement (.bnz x0 x1) := fun _ _ => .inl rfl
theorem call : ∀ x0, Statement (.call x0) := fun _ => .inl rfl
theorem loop : ∀ x0 x1, Statement (.loop x0 x1) := fun _ _ => .inl rfl
theorem bmz : ∀ x0 x1, Statement (.bmz x0 x1) := fun _ _ => .inl rfl
theorem bmnz : ∀ x0 x1, Statement (.bmnz x0 x1) := fun _ _ => .inl rfl
theorem bcmp : ∀ x0 x1 x2 x3, Statement (.bcmp x0 x1 x2 x3) := fun _ _ _ _ => .inr rfl
theorem jr : ∀ x0, Statement (.jr x0) := fun _ => .inl rfl
theorem mpush : ∀ x0, Statement (.mpush x0) := fun _ => .inl rfl
theorem melse : Statement (.melse) := .inl rfl
theorem mpop : Statement (.mpop) := .inl rfl
theorem mmov : ∀ x0 x1, Statement (.mmov x0 x1) := fun _ _ => .inl rfl
theorem mand : ∀ x0 x1 x2, Statement (.mand x0 x1 x2) := fun _ _ _ => .inl rfl
theorem mor : ∀ x0 x1 x2, Statement (.mor x0 x1 x2) := fun _ _ _ => .inl rfl
theorem mnot : ∀ x0 x1, Statement (.mnot x0 x1) := fun _ _ => .inl rfl
theorem mcnt : ∀ x0 x1, Statement (.mcnt x0 x1) := fun _ _ => .inl rfl
theorem mfirst : ∀ x0 x1, Statement (.mfirst x0 x1) := fun _ _ => .inl rfl
theorem lq : ∀ x0, Statement (.lq x0) := fun _ => .inl rfl
theorem fwait : ∀ x0, Statement (.fwait x0) := fun _ => .inl rfl
theorem fclr : ∀ x0, Statement (.fclr x0) := fun _ => .inl rfl
theorem ldrain : Statement (.ldrain) := .inl rfl
theorem strmD : ∀ x0 x1 x2, Statement (.strmD x0 x1 x2) := fun _ _ _ => .inl rfl
theorem strmC4 : ∀ x0 x1 x2, Statement (.strmC4 x0 x1 x2) := fun _ _ _ => .inl rfl
theorem qld : ∀ x0 x1, Statement (.qld x0 x1) := fun _ _ => .inl rfl
theorem qclose : ∀ x0, Statement (.qclose x0) := fun _ => .inl rfl
theorem xwin : ∀ x0 x1, Statement (.xwin x0 x1) := fun _ _ => .inl rfl
theorem xcopy : ∀ x0 x1, Statement (.xcopy x0 x1) := fun _ _ => .inl rfl
theorem xred : ∀ x0 x1, Statement (.xred x0 x1) := fun _ _ => .inl rfl
theorem bclose : ∀ x0, Statement (.bclose x0) := fun _ => .inl rfl
theorem bwait : ∀ x0 x1 x2, Statement (.bwait x0 x1 x2) := fun _ _ _ => .inl rfl
theorem mwait : ∀ x0 x1 x2, Statement (.mwait x0 x1 x2) := fun _ _ _ => .inl rfl
theorem pbarPdomain : Statement (.pbarPdomain) := .inl rfl
theorem pbarPspan : Statement (.pbarPspan) := .inl rfl
theorem stepmark : ∀ x0, Statement (.stepmark x0) := fun _ => .inl rfl
theorem talloc : ∀ x0 x1 x2 x3, Statement (.talloc x0 x1 x2 x3) := fun _ _ _ _ => .inr rfl
theorem tfree : ∀ x0, Statement (.tfree x0) := fun _ => .inr rfl
theorem tdesc : ∀ x0 x1, Statement (.tdesc x0 x1) := fun _ _ => .inr rfl
theorem layout : ∀ x0 x1 x2, Statement (.layout x0 x1 x2) := fun _ _ _ => .inr rfl
theorem lwait : ∀ x0, Statement (.lwait x0) := fun _ => .inr rfl
theorem gbind : ∀ x0 x1 x2, Statement (.gbind x0 x1 x2) := fun _ _ _ => .inr rfl
theorem zfill : ∀ x0 x1 x2, Statement (.zfill x0 x1 x2) := by intros; rename_i x; cases x <;> first | exact .inl rfl | exact .inr rfl
theorem ginit : ∀ x0 x1 x2, Statement (.ginit x0 x1 x2) := fun _ _ _ => .inr rfl
theorem garrive : ∀ x0 x1 x2, Statement (.garrive x0 x1 x2) := fun _ _ _ => .inr rfl
theorem gexpect : ∀ x0 x1 x2, Statement (.gexpect x0 x1 x2) := fun _ _ _ => .inr rfl
theorem gwait : ∀ x0 x1 x2 x3 x4, Statement (.gwait x0 x1 x2 x3 x4) := fun _ _ _ _ _ => .inr rfl
theorem wlinit : ∀ x0 x1, Statement (.wlinit x0 x1) := fun _ _ => .inl rfl
theorem wltake : ∀ x0 x1 x2, Statement (.wltake x0 x1 x2) := fun _ _ _ => .inl rfl
theorem tdwait : ∀ x0 x1 x2, Statement (.tdwait x0 x1 x2) := fun _ _ _ => .inl rfl
theorem rgrow : ∀ x0 x1 x2, Statement (.rgrow x0 x1 x2) := fun _ _ _ => .inl rfl
theorem rshrink : ∀ x0, Statement (.rshrink x0) := fun _ => .inl rfl
theorem yield : Statement (.yield) := .inl rfl
theorem guardBegin : Statement (.guardBegin) := .inl rfl
theorem guardEnd : Statement (.guardEnd) := .inl rfl
theorem nopreBegin : Statement (.nopreBegin) := .inl rfl
theorem nopreEnd : Statement (.nopreEnd) := .inl rfl
theorem capq : ∀ x0, Statement (.capq x0) := fun _ => .inl rfl
theorem locq : ∀ x0 x1, Statement (.locq x0 x1) := fun _ _ => .inl rfl
theorem launch : ∀ x0 x1, Statement (.launch x0 x1) := fun _ _ => .inl rfl
theorem tclaim : ∀ x0 x1, Statement (.tclaim x0 x1) := fun _ _ => .inl rfl
theorem sysr : ∀ x0 x1, Statement (.sysr x0 x1) := fun _ _ => .inl rfl
theorem sysw : ∀ x0 x1, Statement (.sysw x0 x1) := fun _ _ => .inl rfl
theorem clk : ∀ x0, Statement (.clk x0) := fun _ => .inl rfl
theorem trap : ∀ x0, Statement (.trap x0) := fun _ => .inl rfl
theorem eret : Statement (.eret) := .inl rfl
theorem nop : Statement (.nop) := .inl rfl
theorem exit : Statement (.exit) := .inl rfl
theorem fenceAcq : ∀ x0, Statement (.fenceAcq x0) := fun _ => .inl rfl
theorem fenceRel : ∀ x0, Statement (.fenceRel x0) := fun _ => .inl rfl
theorem fenceAr : ∀ x0, Statement (.fenceAr x0) := fun _ => .inl rfl
theorem iadd : ∀ x0 x1, Statement (.iadd x0 x1) := fun _ _ => .inl rfl
theorem isub : ∀ x0 x1, Statement (.isub x0 x1) := fun _ _ => .inl rfl
theorem imul : ∀ x0 x1, Statement (.imul x0 x1) := fun _ _ => .inl rfl
theorem imulh : ∀ x0 x1, Statement (.imulh x0 x1) := fun _ _ => .inl rfl
theorem imad : ∀ x0 x1, Statement (.imad x0 x1) := fun _ _ => .inl rfl
theorem iabs : ∀ x0 x1, Statement (.iabs x0 x1) := fun _ _ => .inl rfl
theorem ineg : ∀ x0 x1, Statement (.ineg x0 x1) := fun _ _ => .inl rfl
theorem imin : ∀ x0 x1, Statement (.imin x0 x1) := fun _ _ => .inl rfl
theorem imax : ∀ x0 x1, Statement (.imax x0 x1) := fun _ _ => .inl rfl
theorem iand : ∀ x0 x1, Statement (.iand x0 x1) := fun _ _ => .inl rfl
theorem ior : ∀ x0 x1, Statement (.ior x0 x1) := fun _ _ => .inl rfl
theorem ixor : ∀ x0 x1, Statement (.ixor x0 x1) := fun _ _ => .inl rfl
theorem inot : ∀ x0 x1, Statement (.inot x0 x1) := fun _ _ => .inl rfl
theorem ishl : ∀ x0 x1, Statement (.ishl x0 x1) := fun _ _ => .inl rfl
theorem ishr : ∀ x0 x1, Statement (.ishr x0 x1) := fun _ _ => .inl rfl
theorem isar : ∀ x0 x1, Statement (.isar x0 x1) := fun _ _ => .inl rfl
theorem ipopc : ∀ x0 x1, Statement (.ipopc x0 x1) := fun _ _ => .inl rfl
theorem iclz : ∀ x0 x1, Statement (.iclz x0 x1) := fun _ _ => .inl rfl
theorem ibfx : ∀ x0 x1, Statement (.ibfx x0 x1) := fun _ _ => .inl rfl
theorem ibfi : ∀ x0 x1, Statement (.ibfi x0 x1) := fun _ _ => .inl rfl
theorem isel : ∀ x0 x1, Statement (.isel x0 x1) := fun _ _ => .inl rfl
theorem iadds : ∀ x0 x1, Statement (.iadds x0 x1) := fun _ _ => .inl rfl
theorem isubs : ∀ x0 x1, Statement (.isubs x0 x1) := fun _ _ => .inl rfl
theorem idot4 : ∀ x0 x1, Statement (.idot4 x0 x1) := fun _ _ => .inl rfl
theorem icmpEq : ∀ x0 x1, Statement (.icmpEq x0 x1) := fun _ _ => .inl rfl
theorem icmpNe : ∀ x0 x1, Statement (.icmpNe x0 x1) := fun _ _ => .inl rfl
theorem icmpLt : ∀ x0 x1, Statement (.icmpLt x0 x1) := fun _ _ => .inl rfl
theorem icmpLe : ∀ x0 x1, Statement (.icmpLe x0 x1) := fun _ _ => .inl rfl
theorem icmpGt : ∀ x0 x1, Statement (.icmpGt x0 x1) := fun _ _ => .inl rfl
theorem icmpGe : ∀ x0 x1, Statement (.icmpGe x0 x1) := fun _ _ => .inl rfl
theorem fadd : ∀ x0 x1, Statement (.fadd x0 x1) := fun _ _ => .inl rfl
theorem fsub : ∀ x0 x1, Statement (.fsub x0 x1) := fun _ _ => .inl rfl
theorem fmul : ∀ x0 x1, Statement (.fmul x0 x1) := fun _ _ => .inl rfl
theorem ffma : ∀ x0 x1, Statement (.ffma x0 x1) := fun _ _ => .inl rfl
theorem fmin : ∀ x0 x1, Statement (.fmin x0 x1) := fun _ _ => .inl rfl
theorem fmax : ∀ x0 x1, Statement (.fmax x0 x1) := fun _ _ => .inl rfl
theorem fabs : ∀ x0 x1, Statement (.fabs x0 x1) := fun _ _ => .inl rfl
theorem fneg : ∀ x0 x1, Statement (.fneg x0 x1) := fun _ _ => .inl rfl
theorem fcmpEq : ∀ x0 x1, Statement (.fcmpEq x0 x1) := fun _ _ => .inl rfl
theorem fcmpNe : ∀ x0 x1, Statement (.fcmpNe x0 x1) := fun _ _ => .inl rfl
theorem fcmpLt : ∀ x0 x1, Statement (.fcmpLt x0 x1) := fun _ _ => .inl rfl
theorem fcmpLe : ∀ x0 x1, Statement (.fcmpLe x0 x1) := fun _ _ => .inl rfl
theorem fcmpGt : ∀ x0 x1, Statement (.fcmpGt x0 x1) := fun _ _ => .inl rfl
theorem fcmpGe : ∀ x0 x1, Statement (.fcmpGe x0 x1) := fun _ _ => .inl rfl
theorem fcmpUn : ∀ x0 x1, Statement (.fcmpUn x0 x1) := fun _ _ => .inl rfl
theorem frcp : ∀ x0 x1, Statement (.frcp x0 x1) := fun _ _ => .inl rfl
theorem frsq : ∀ x0 x1, Statement (.frsq x0 x1) := fun _ _ => .inl rfl
theorem fsqrt : ∀ x0 x1, Statement (.fsqrt x0 x1) := fun _ _ => .inl rfl
theorem fdiv : ∀ x0 x1, Statement (.fdiv x0 x1) := fun _ _ => .inl rfl
theorem fexp2 : ∀ x0 x1, Statement (.fexp2 x0 x1) := fun _ _ => .inl rfl
theorem flog2 : ∀ x0 x1, Statement (.flog2 x0 x1) := fun _ _ => .inl rfl
theorem fsin : ∀ x0 x1, Statement (.fsin x0 x1) := fun _ _ => .inl rfl
theorem fcos : ∀ x0 x1, Statement (.fcos x0 x1) := fun _ _ => .inl rfl
theorem ftanh : ∀ x0 x1, Statement (.ftanh x0 x1) := fun _ _ => .inl rfl
theorem fsigm : ∀ x0 x1, Statement (.fsigm x0 x1) := fun _ _ => .inl rfl
theorem fround : ∀ x0 x1, Statement (.fround x0 x1) := fun _ _ => .inl rfl
theorem fclass : ∀ x0 x1, Statement (.fclass x0 x1) := fun _ _ => .inl rfl
theorem fscale : ∀ x0 x1, Statement (.fscale x0 x1) := fun _ _ => .inl rfl
theorem cvt : ∀ x0 x1, Statement (.cvt x0 x1) := fun _ _ => .inl rfl
theorem pack : ∀ x0 x1, Statement (.pack x0 x1) := fun _ _ => .inl rfl
theorem unpk : ∀ x0 x1, Statement (.unpk x0 x1) := fun _ _ => .inl rfl
theorem qbp : ∀ x0 x1, Statement (.qbp x0 x1) := fun _ _ => .inl rfl
theorem dqbp : ∀ x0 x1, Statement (.dqbp x0 x1) := fun _ _ => .inl rfl
theorem had32 : ∀ x0 x1, Statement (.had32 x0 x1) := fun _ _ => .inl rfl
theorem frmax : ∀ x0 x1, Statement (.frmax x0 x1) := fun _ _ => .inl rfl
theorem fradd : ∀ x0 x1, Statement (.fradd x0 x1) := fun _ _ => .inl rfl
theorem fusedSoftmax : ∀ x0 x1 x2 x3 x4 x5 x6 x7, Statement (.fusedSoftmax x0 x1 x2 x3 x4 x5 x6 x7) := fun _ _ _ _ _ _ _ _ => .inr rfl
theorem mov : ∀ x0 x1, Statement (.mov x0 x1) := fun _ _ => .inl rfl
theorem movi : ∀ x0 x1, Statement (.movi x0 x1) := fun _ _ => .inl rfl
theorem lidx : ∀ x0 x1, Statement (.lidx x0 x1) := fun _ _ => .inl rfl
theorem shfl : ∀ x0 x1, Statement (.shfl x0 x1) := fun _ _ => .inl rfl
theorem bcast : ∀ x0 x1, Statement (.bcast x0 x1) := fun _ _ => .inl rfl
theorem vote : ∀ x0 x1, Statement (.vote x0 x1) := fun _ _ => .inl rfl
theorem pfxc : ∀ x0 x1, Statement (.pfxc x0 x1) := fun _ _ => .inl rfl
theorem scan : ∀ x0 x1, Statement (.scan x0 x1) := fun _ _ => .inl rfl
theorem red : ∀ x0 x1, Statement (.red x0 x1) := fun _ _ => .inl rfl
theorem lnop : Statement (.lnop) := .inl rfl
theorem tld : ∀ x0 x1, Statement (.tld x0 x1) := fun _ _ => .inl rfl
theorem tldIfempty : ∀ x0 x1, Statement (.tldIfempty x0 x1) := fun _ _ => .inl rfl
theorem tst : ∀ x0 x1, Statement (.tst x0 x1) := fun _ _ => .inl rfl
theorem tstIffull : ∀ x0 x1, Statement (.tstIffull x0 x1) := fun _ _ => .inl rfl
theorem tldf : ∀ x0 x1, Statement (.tldf x0 x1) := fun _ _ => .inl rfl
theorem tste : ∀ x0 x1, Statement (.tste x0 x1) := fun _ _ => .inl rfl
theorem tldt : ∀ x0 x1, Statement (.tldt x0 x1) := fun _ _ => .inl rfl
theorem gld : ∀ x0 x1, Statement (.gld x0 x1) := fun _ _ => .inl rfl
theorem gst : ∀ x0 x1, Statement (.gst x0 x1) := fun _ _ => .inl rfl
theorem rld : ∀ x0 x1, Statement (.rld x0 x1) := fun _ _ => .inl rfl
theorem atom : ∀ x0 x1, Statement (.atom x0 x1) := fun _ _ => .inl rfl
theorem msgput : ∀ x0 x1, Statement (.msgput x0 x1) := fun _ _ => .inl rfl
theorem msgtake : ∀ x0 x1, Statement (.msgtake x0 x1) := fun _ _ => .inl rfl
theorem wlapp : ∀ x0 x1, Statement (.wlapp x0 x1) := fun _ _ => .inl rfl
theorem cstore : ∀ x0 x1, Statement (.cstore x0 x1) := fun _ _ => .inl rfl
theorem xld : ∀ x0 x1, Statement (.xld x0 x1) := fun _ _ => .inl rfl
theorem mma : ∀ x0 x1, Statement (.mma x0 x1) := fun _ _ => .inl rfl
theorem mmaPair : ∀ x0 x1, Statement (.mmaPair x0 x1) := fun _ _ => .inl rfl
theorem mzero : ∀ x0 x1, Statement (.mzero x0 x1) := fun _ _ => .inl rfl
theorem mread : ∀ x0 x1, Statement (.mread x0 x1) := fun _ _ => .inl rfl
theorem mwrite : ∀ x0 x1, Statement (.mwrite x0 x1) := fun _ _ => .inl rfl
theorem mdrain : ∀ x0 x1, Statement (.mdrain x0 x1) := fun _ _ => .inl rfl
theorem clauseStart : ∀ x0, Statement (.clauseStart x0) := fun _ => (rfl : _ = _)
theorem clauseRetire : ∀ x0, Statement (.clauseRetire x0) := fun _ => (rfl : _ = _)
theorem clauseComplete : ∀ x0 x1, Statement (.clauseComplete x0 x1) := fun _ _ => (rfl : _ = _)
theorem longLatencyComplete : ∀ x0 x1, Statement (.longLatencyComplete x0 x1) := fun _ _ => (rfl : _ = _)
theorem storeAck : ∀ x0 x1 x2, Statement (.storeAck x0 x1 x2) := fun _ _ _ => (rfl : _ = _)
theorem teamWake : ∀ x0 x1 x2, Statement (.teamWake x0 x1 x2) := fun _ _ _ => (rfl : _ = _)
theorem waitTimeout : ∀ x0 x1 x2, Statement (.waitTimeout x0 x1 x2) := fun _ _ _ => (rfl : _ = _)
theorem streamDeliver : ∀ x0 x1, Statement (.streamDeliver x0 x1) := fun _ _ => (rfl : _ = _)
theorem commandSignal : ∀ x0, Statement (.commandSignal x0) := fun _ => (rfl : _ = _)
theorem layoutBlockConvert : ∀ x0 x1, Statement (.layoutBlockConvert x0 x1) := fun _ _ => (rfl : _ = _)
theorem firstTouchBind : ∀ x0 x1, Statement (.firstTouchBind x0 x1) := fun _ _ => (rfl : _ = _)
theorem matrixCommandStart : ∀ x0, Statement (.matrixCommandStart x0) := fun _ => (rfl : _ = _)
theorem accumulatorSwap : ∀ x0 x1, Statement (.accumulatorSwap x0 x1) := fun _ _ => (rfl : _ = _)
theorem mmaComplete : ∀ x0, Statement (.mmaComplete x0) := fun _ => (rfl : _ = _)
theorem shadowLatchReplay : ∀ x0, Statement (.shadowLatchReplay x0) := fun _ => (rfl : _ = _)
theorem pairOffer : ∀ x0, Statement (.pairOffer x0) := fun _ => (rfl : _ = _)
theorem pairStart : ∀ x0 x1, Statement (.pairStart x0 x1) := fun _ _ => (rfl : _ = _)
theorem pairStartCycle : ∀ x0, Statement (.pairStartCycle x0) := fun _ => (rfl : _ = _)
theorem pairOfferWithdraw : ∀ x0, Statement (.pairOfferWithdraw x0) := fun _ => (rfl : _ = _)
theorem crewFaultSave : ∀ x0, Statement (.crewFaultSave x0) := fun _ => (rfl : _ = _)
theorem crewPlace : ∀ x0 x1 x2 x3, Statement (.crewPlace x0 x1 x2 x3) := fun _ _ _ _ => (rfl : _ = _)
theorem crewEvict : ∀ x0, Statement (.crewEvict x0) := fun _ => (rfl : _ = _)
theorem rgrowDeadlockEvict : ∀ x0, Statement (.rgrowDeadlockEvict x0) := fun _ => (rfl : _ = _)
theorem priorityAging : ∀ x0 x1, Statement (.priorityAging x0 x1) := fun _ _ => (rfl : _ = _)
theorem priorityEvict : ∀ x0, Statement (.priorityEvict x0) := fun _ => (rfl : _ = _)
theorem cohortSteal : ∀ x0, Statement (.cohortSteal x0) := fun _ => (rfl : _ = _)
theorem launchAccept : ∀ x0, Statement (.launchAccept x0) := fun _ => (rfl : _ = _)
theorem dependenceGatesResolved : ∀ x0, Statement (.dependenceGatesResolved x0) := fun _ => (rfl : _ = _)
theorem leaseDue : ∀ x0, Statement (.leaseDue x0) := fun _ => (rfl : _ = _)
theorem capacityNotify : ∀ x0, Statement (.capacityNotify x0) := fun _ => (rfl : _ = _)
theorem nopreBudgetSpent : ∀ x0, Statement (.nopreBudgetSpent x0) := fun _ => (rfl : _ = _)
theorem forcedMigration : ∀ x0, Statement (.forcedMigration x0) := fun _ => (rfl : _ = _)
theorem channelLineMove : ∀ x0 x1 x2, Statement (.channelLineMove x0 x1 x2) := fun _ _ _ => (rfl : _ = _)
theorem leaseTestStart : ∀ x0, Statement (.leaseTestStart x0) := fun _ => (rfl : _ = _)
theorem testVerdict : ∀ x0 x1 x2 x3, Statement (.testVerdict x0 x1 x2 x3) := fun _ _ _ _ => (rfl : _ = _)
theorem scoreDecay : Statement (.scoreDecay) := (rfl : _ = _)
theorem patrolScrub : ∀ x0 x1 x2, Statement (.patrolScrub x0 x1 x2) := fun _ _ _ => (rfl : _ = _)
theorem launchQueueProdWrite : ∀ x0 x1, Statement (.launchQueueProdWrite x0 x1) := fun _ _ => (rfl : _ = _)
theorem poolProdWrite : ∀ x0 x1, Statement (.poolProdWrite x0 x1) := fun _ _ => (rfl : _ = _)
theorem eventRingConsWrite : ∀ x0, Statement (.eventRingConsWrite x0) := fun _ => (rfl : _ = _)
theorem queueApertureWrite : ∀ x0 x1, Statement (.queueApertureWrite x0 x1) := fun _ _ => (rfl : _ = _)
theorem hostCxlMemRead : ∀ x0 x1, Statement (.hostCxlMemRead x0 x1) := fun _ _ => (rfl : _ = _)
theorem hostCxlMemWrite : ∀ x0 x1, Statement (.hostCxlMemWrite x0 x1) := fun _ _ => (rfl : _ = _)
theorem eventWrite : Statement (.eventWrite) := (rfl : _ = _)
theorem queueConfig : ∀ x0, Statement (.queueConfig x0) := fun _ => (rfl : _ = _)
theorem rangeReserve : ∀ x0, Statement (.rangeReserve x0) := fun _ => (rfl : _ = _)
theorem rangeRelease : ∀ x0, Statement (.rangeRelease x0) := fun _ => (rfl : _ = _)
theorem poolConfig : ∀ x0, Statement (.poolConfig x0) := fun _ => (rfl : _ = _)
theorem xlateInval : ∀ x0, Statement (.xlateInval x0) := fun _ => (rfl : _ = _)
theorem spanJoin : ∀ x0, Statement (.spanJoin x0) := fun _ => (rfl : _ = _)
theorem spanLeave : ∀ x0, Statement (.spanLeave x0) := fun _ => (rfl : _ = _)
theorem eventConfig : ∀ x0, Statement (.eventConfig x0) := fun _ => (rfl : _ = _)
theorem portStatus : ∀ x0, Statement (.portStatus x0) := fun _ => (rfl : _ = _)
theorem crewResume : ∀ x0, Statement (.crewResume x0) := fun _ => (rfl : _ = _)
theorem crewAbandon : ∀ x0, Statement (.crewAbandon x0) := fun _ => (rfl : _ = _)
theorem quiesce : ∀ x0, Statement (.quiesce x0) := fun _ => (rfl : _ = _)
theorem quiesceTimeout : Statement (.quiesceTimeout) := (rfl : _ = _)
theorem resume : ∀ x0, Statement (.resume x0) := fun _ => (rfl : _ = _)
theorem restore : ∀ x0, Statement (.restore x0) := fun _ => (rfl : _ = _)
theorem unitStatus : ∀ x0, Statement (.unitStatus x0) := fun _ => (rfl : _ = _)
theorem recordRead : ∀ x0, Statement (.recordRead x0) := fun _ => (rfl : _ = _)
theorem cometConfig : ∀ x0, Statement (.cometConfig x0) := fun _ => (rfl : _ = _)
theorem cometTrack : ∀ x0, Statement (.cometTrack x0) := fun _ => (rfl : _ = _)
theorem stepQuery : ∀ x0, Statement (.stepQuery x0) := fun _ => (rfl : _ = _)
theorem stepRebuild : ∀ x0, Statement (.stepRebuild x0) := fun _ => (rfl : _ = _)
theorem stepLoad : ∀ x0, Statement (.stepLoad x0) := fun _ => (rfl : _ = _)
theorem launchAbandon : ∀ x0, Statement (.launchAbandon x0) := fun _ => (rfl : _ = _)
theorem wlRelease : ∀ x0, Statement (.wlRelease x0) := fun _ => (rfl : _ = _)
theorem mailboxUnsupportedOpcode : ∀ x0, Statement (.mailboxUnsupportedOpcode x0) := fun _ => (rfl : _ = _)
theorem getVersion : ∀ x0, Statement (.getVersion x0) := fun _ => (rfl : _ = _)
theorem getCapabilities : ∀ x0, Statement (.getCapabilities x0) := fun _ => (rfl : _ = _)
theorem negotiateAlgorithms : ∀ x0, Statement (.negotiateAlgorithms x0) := fun _ => (rfl : _ = _)
theorem getDigests : ∀ x0, Statement (.getDigests x0) := fun _ => (rfl : _ = _)
theorem getCertificate : ∀ x0, Statement (.getCertificate x0) := fun _ => (rfl : _ = _)
theorem challenge : ∀ x0, Statement (.challenge x0) := fun _ => (rfl : _ = _)
theorem getMeasurements : ∀ x0, Statement (.getMeasurements x0) := fun _ => (rfl : _ = _)
theorem spdmUnsupportedRequest : ∀ x0, Statement (.spdmUnsupportedRequest x0) := fun _ => (rfl : _ = _)
theorem capWrite : ∀ x0 x1, Statement (.capWrite x0 x1) := fun _ _ => (rfl : _ = _)
theorem alarmClear : ∀ x0, Statement (.alarmClear x0) := fun _ => (rfl : _ = _)
theorem perfCounterClear : ∀ x0, Statement (.perfCounterClear x0) := fun _ => (rfl : _ = _)
theorem registerWrite : ∀ x0 x1, Statement (.registerWrite x0 x1) := fun _ _ => (rfl : _ = _)
theorem i3cSetdasa : ∀ x0, Statement (.i3cSetdasa x0) := fun _ => (rfl : _ = _)
theorem vauxApply : Statement (.vauxApply) := (rfl : _ = _)
theorem vinApply : Statement (.vinApply) := (rfl : _ = _)
theorem vinLoss : Statement (.vinLoss) := (rfl : _ = _)
theorem thermalTrip : Statement .thermalTrip := (rfl : _ = _)
theorem junctionHot : ∀ x0, Statement (.junctionHot x0) := fun _ => (rfl : _ = _)
theorem monitorAlarm : ∀ x0, Statement (.monitorAlarm x0) := fun _ => (rfl : _ = _)
theorem voltageDroop : ∀ x0, Statement (.voltageDroop x0) := fun _ => (rfl : _ = _)
theorem coldReset : Statement (.coldReset) := (rfl : _ = _)
theorem holdupCharged : Statement (.holdupCharged) := (rfl : _ = _)
theorem bootRunning : Statement (.bootRunning) := (rfl : _ = _)
theorem ballastDrainLine : ∀ x0, Statement (.ballastDrainLine x0) := fun _ => (rfl : _ = _)
theorem portSignalDetect : ∀ x0, Statement (.portSignalDetect x0) := fun _ => (rfl : _ = _)
theorem portLanesLocked : ∀ x0, Statement (.portLanesLocked x0) := fun _ => (rfl : _ = _)
theorem portTrainTimeout : ∀ x0, Statement (.portTrainTimeout x0) := fun _ => (rfl : _ = _)
theorem portSignalLoss : ∀ x0, Statement (.portSignalLoss x0) := fun _ => (rfl : _ = _)
theorem hello : ∀ x0, Statement (.hello x0) := fun _ => (rfl : _ = _)
theorem ack : ∀ x0, Statement (.ack x0) := fun _ => (rfl : _ = _)
theorem nak : ∀ x0, Statement (.nak x0) := fun _ => (rfl : _ = _)
theorem flitCrcError : ∀ x0, Statement (.flitCrcError x0) := fun _ => (rfl : _ = _)
theorem flitUnassigned : ∀ x0, Statement (.flitUnassigned x0) := fun _ => (rfl : _ = _)
theorem flitWrite : ∀ x0, Statement (.flitWrite x0) := fun _ => (rfl : _ = _)
theorem flitReadRequest : ∀ x0, Statement (.flitReadRequest x0) := fun _ => (rfl : _ = _)
theorem flitReadResponse : ∀ x0, Statement (.flitReadResponse x0) := fun _ => (rfl : _ = _)
theorem xredContribution : ∀ x0, Statement (.xredContribution x0) := fun _ => (rfl : _ = _)
theorem xredResult : ∀ x0, Statement (.xredResult x0) := fun _ => (rfl : _ = _)
theorem cometShard : ∀ x0, Statement (.cometShard x0) := fun _ => (rfl : _ = _)
theorem routeLost : ∀ x0, Statement (.routeLost x0) := fun _ => (rfl : _ = _)
theorem memberLost : ∀ x0, Statement (.memberLost x0) := fun _ => (rfl : _ = _)
theorem tetherReadRequest : ∀ x0 x1 x2 x3 x4, Statement (.tetherReadRequest x0 x1 x2 x3 x4) := fun _ _ _ _ _ => (rfl : _ = _)
theorem tetherOwnershipRequest : ∀ x0 x1 x2 x3 x4, Statement (.tetherOwnershipRequest x0 x1 x2 x3 x4) := fun _ _ _ _ _ => (rfl : _ = _)
theorem tetherAtomicRequest : ∀ x0 x1 x2 x3 x4 x5 x6 x7 x8 x9 x10, Statement (.tetherAtomicRequest x0 x1 x2 x3 x4 x5 x6 x7 x8 x9 x10) := fun _ _ _ _ _ _ _ _ _ _ _ => (rfl : _ = _)
theorem tetherGrant : ∀ x0 x1 x2 x3 x4 x5 x6 x7 x8, Statement (.tetherGrant x0 x1 x2 x3 x4 x5 x6 x7 x8) := fun _ _ _ _ _ _ _ _ _ => (rfl : _ = _)
theorem tetherSnoop : ∀ x0 x1 x2 x3, Statement (.tetherSnoop x0 x1 x2 x3) := fun _ _ _ _ => (rfl : _ = _)
theorem tetherWriteBack : ∀ x0 x1 x2 x3 x4, Statement (.tetherWriteBack x0 x1 x2 x3 x4) := fun _ _ _ _ _ => (rfl : _ = _)
theorem tetherReplacement : ∀ x0 x1, Statement (.tetherReplacement x0 x1) := fun _ _ => (rfl : _ = _)
theorem tetherSnoopTimeout : ∀ x0, Statement (.tetherSnoopTimeout x0) := fun _ => (rfl : _ = _)
theorem tetherRevoke : ∀ x0 x1 x2, Statement (.tetherRevoke x0 x1 x2) := fun _ _ _ => (rfl : _ = _)
theorem requestGuardExpiry : ∀ x0, Statement (.requestGuardExpiry x0) := fun _ => (rfl : _ = _)
theorem homeGuardExpiry : ∀ x0, Statement (.homeGuardExpiry x0) := fun _ => (rfl : _ = _)
theorem wlRunRequest : ∀ x0, Statement (.wlRunRequest x0) := fun _ => (rfl : _ = _)
theorem wlappItemWrite : ∀ x0, Statement (.wlappItemWrite x0) := fun _ => (rfl : _ = _)
theorem wlCountChange : ∀ x0, Statement (.wlCountChange x0) := fun _ => (rfl : _ = _)
theorem cometCaptureBegin : ∀ x0, Statement (.cometCaptureBegin x0) := fun _ => (rfl : _ = _)
theorem cometGranulePreserve : ∀ x0, Statement (.cometGranulePreserve x0) := fun _ => (rfl : _ = _)
theorem cometCaptureEnd : Statement (.cometCaptureEnd) := (rfl : _ = _)
theorem cometStreamGranule : ∀ x0, Statement (.cometStreamGranule x0) := fun _ => (rfl : _ = _)
theorem cometPrepared : Statement (.cometPrepared) := (rfl : _ = _)
theorem cometCommit : ∀ x0, Statement (.cometCommit x0) := fun _ => (rfl : _ = _)
theorem cometRecordDurable : Statement (.cometRecordDurable) := (rfl : _ = _)
theorem functionReset : Statement (.functionReset) := (rfl : _ = _)
theorem vauxRemoval : Statement (.vauxRemoval) := (rfl : _ = _)
theorem cometPreparedReport : ∀ x0 x1, Statement (.cometPreparedReport x0 x1) := fun _ _ => (rfl : _ = _)
theorem memberReachable : ∀ x0, Statement (.memberReachable x0) := fun _ => (rfl : _ = _)

end Sys2Proof.Laws.EncodingWidth
end

