-- ==== Sys2Proof/Laws/Teams.lean ====
section
/-! SUPPORT. An instruction that acts for a team: what reaching it, replacing it and acting for it answer. -/

namespace Sys2Proof.Machine
theorem onTeam_acts {s : State} {r c t} (h : s.acts r c t) (f : Team → Team) : onTeam s f = .next (s.putTeam r (f t)) := by
  simp [onTeam, withTeam, h.1, h.2]
theorem withTeam_acts {s : State} {r c t} (h : s.acts r c t) (f : TeamRef → Crew → Team → State) : withTeam s f = .next (f r c t) := by
  simp [withTeam, h.1, h.2]
theorem teamAt_eq {s : State} {r c t} : s.teamAt r = some (c, t) ↔ s.crews[r.crew]? = some c ∧ c.teams[r.team]? = some t := by
  unfold State.teamAt State.crewAt Crew.teamAt
  cases h : s.crews[r.crew]? with
  | none => simp
  | some d =>
    cases h2 : d.teams[r.team]? with
    | none => simp only [h2, reduceCtorEq, false_iff, not_and, Option.some.injEq]; rintro rfl; simp [h2]
    | some u => simp only [h2, Option.some.injEq, Prod.mk.injEq]; constructor
                · rintro ⟨rfl, rfl⟩; exact ⟨rfl, h2⟩
                · rintro ⟨rfl, h3⟩; exact ⟨rfl, by simpa [h2] using h3⟩
theorem putTeam_eq {s : State} {r c t} (h : s.teamAt r = some (c, t)) (u : Team) : s.putTeam r u = { s with crews := s.crews.set r.crew (c.putTeam r.team u) } := by
  simp [State.putTeam, State.crewAt, (teamAt_eq.1 h).1, State.putCrew]
theorem list_set_self {α : Type} (l : List α) (i : Nat) (x : α) (h : l[i]? = some x) : l.set i x = l := by
  obtain ⟨h1, rfl⟩ := List.getElem?_eq_some_iff.1 h
  simp
theorem putTeam_self {s : State} {r c t} (h : s.teamAt r = some (c, t)) : s.putTeam r t = s := by
  obtain ⟨h1, h2⟩ := teamAt_eq.1 h
  rw [putTeam_eq h]
  have : c.putTeam r.team t = c := by unfold Crew.putTeam; rw [list_set_self _ _ _ h2]
  rw [this, list_set_self _ _ _ h1]
theorem teamAt_putTeam {s : State} {r c t} (h : s.teamAt r = some (c, t)) (u : Team) : (s.putTeam r u).teamAt r = some (c.putTeam r.team u, u) := by
  obtain ⟨h1, h2⟩ := teamAt_eq.1 h
  rw [putTeam_eq h, teamAt_eq]
  have l1 := (List.getElem?_eq_some_iff.1 h1).1
  have l2 := (List.getElem?_eq_some_iff.1 h2).1
  simp [l1, Crew.putTeam, l2]
theorem crewAt_of {s : State} {r c t} (h : s.teamAt r = some (c, t)) : s.crewAt r.crew = some c := (teamAt_eq.1 h).1
end Sys2Proof.Machine
end

