-- ==== Sys2Proof/Tests/Slice0.lean ====
section
/-! SUPPORT. Tests of the model: words written out from the encoding tables of 07, ill-formed terms, single steps with results from
the manual or by hand from its rules, and for every statement with hypotheses a state and operands that meet them. -/

namespace Sys2Proof.Tests

open Sys2Proof Sys2Proof.Machine

set_option Elab.async false

/-! ### Scalar words (07 R134 to R146), field by field -/

/-- A word and its extension word read as an instruction. -/
def reads (w ext : W32) (i : Instr) : Bool := decide ((decodeScalar w ext).toOption = some i)
/-- Words that no rule assigns. -/
def refuses (w ext : W32) : Bool := decide ((decodeScalar w ext).toOption = none)

theorem test_decode_alu :
    (reads (0x01#6 ++ 1#6 ++ 2#6 ++ 3#6 ++ 0x00#8) 0 (.add 1 2 3) && reads (0x01#6 ++ 1#6 ++ 2#6 ++ 3#6 ++ 0x01#8) 0 (.sub 1 2 3) &&
     reads (0x01#6 ++ 1#6 ++ 2#6 ++ 3#6 ++ 0x02#8) 0 (.mul 1 2 3) && reads (0x01#6 ++ 1#6 ++ 2#6 ++ 3#6 ++ 0x03#8) 0 (.mulh 1 2 3) &&
     reads (0x01#6 ++ 1#6 ++ 2#6 ++ 3#6 ++ 0x04#8) 0 (.mulhn 1 2 3) && reads (0x01#6 ++ 1#6 ++ 2#6 ++ 3#6 ++ 0x05#8) 0 (.div 1 2 3) &&
     reads (0x01#6 ++ 1#6 ++ 2#6 ++ 3#6 ++ 0x06#8) 0 (.divn 1 2 3) && reads (0x01#6 ++ 1#6 ++ 2#6 ++ 3#6 ++ 0x07#8) 0 (.rem 1 2 3) &&
     reads (0x01#6 ++ 1#6 ++ 2#6 ++ 3#6 ++ 0x08#8) 0 (.remn 1 2 3) && reads (0x01#6 ++ 63#6 ++ 62#6 ++ 61#6 ++ 0x10#8) 0 (.and 63 62 61) &&
     reads (0x01#6 ++ 1#6 ++ 2#6 ++ 3#6 ++ 0x11#8) 0 (.or 1 2 3) && reads (0x01#6 ++ 1#6 ++ 2#6 ++ 3#6 ++ 0x12#8) 0 (.xor 1 2 3) &&
     reads (0x01#6 ++ 1#6 ++ 2#6 ++ 3#6 ++ 0x13#8) 0 (.andn 1 2 3) && reads (0x01#6 ++ 1#6 ++ 2#6 ++ 3#6 ++ 0x14#8) 0 (.shl 1 2 3) &&
     reads (0x01#6 ++ 1#6 ++ 2#6 ++ 3#6 ++ 0x15#8) 0 (.shr 1 2 3) && reads (0x01#6 ++ 1#6 ++ 2#6 ++ 3#6 ++ 0x16#8) 0 (.sar 1 2 3) &&
     reads (0x01#6 ++ 1#6 ++ 2#6 ++ 3#6 ++ 0x17#8) 0 (.rol 1 2 3) && reads (0x01#6 ++ 1#6 ++ 2#6 ++ 3#6 ++ 0x20#8) 0 (.min 1 2 3) &&
     reads (0x01#6 ++ 1#6 ++ 2#6 ++ 3#6 ++ 0x21#8) 0 (.max 1 2 3) && reads (0x01#6 ++ 1#6 ++ 2#6 ++ 3#6 ++ 0x22#8) 0 (.minn 1 2 3) &&
     reads (0x01#6 ++ 1#6 ++ 2#6 ++ 3#6 ++ 0x23#8) 0 (.maxn 1 2 3) && reads (0x01#6 ++ 1#6 ++ 2#6 ++ 0#6 ++ 0x24#8) 0 (.clz 1 2) &&
     reads (0x01#6 ++ 1#6 ++ 2#6 ++ 0#6 ++ 0x25#8) 0 (.popc 1 2) && reads (0x01#6 ++ 1#6 ++ 2#6 ++ 0#6 ++ 0x26#8) 0 (.brev 1 2) &&
     reads (0x01#6 ++ 1#6 ++ 2#6 ++ 15#6 ++ 0x27#8) 0 (.sext 1 2 15) && reads (0x01#6 ++ 1#6 ++ 2#6 ++ 63#6 ++ 0x28#8) 0 (.zext 1 2 63) &&
     reads (0x01#6 ++ 1#6 ++ 2#6 ++ 3#6 ++ 0x30#8) 0 (.set 1 2 3 .eq) && reads (0x01#6 ++ 1#6 ++ 2#6 ++ 3#6 ++ 0x31#8) 0 (.set 1 2 3 .ne) &&
     reads (0x01#6 ++ 1#6 ++ 2#6 ++ 3#6 ++ 0x32#8) 0 (.set 1 2 3 .lt) && reads (0x01#6 ++ 1#6 ++ 2#6 ++ 3#6 ++ 0x33#8) 0 (.set 1 2 3 .ge) &&
     reads (0x01#6 ++ 1#6 ++ 2#6 ++ 3#6 ++ 0x34#8) 0 (.set 1 2 3 .ltn) && reads (0x01#6 ++ 1#6 ++ 2#6 ++ 3#6 ++ 0x35#8) 0 (.set 1 2 3 .gen) &&
     refuses (0x01#6 ++ 1#6 ++ 2#6 ++ 3#6 ++ 0x09#8) 0 && refuses (0x01#6 ++ 1#6 ++ 2#6 ++ 3#6 ++ 0x36#8) 0 && refuses (0x01#6 ++ 1#6 ++ 2#6 ++ 3#6 ++ 0x24#8) 0 &&
     refuses 0 0) = true := by decide +kernel

theorem test_decode_immediates :
    (reads (0x02#6 ++ 1#6 ++ 2#6 ++ 0x2000#14) 0 (.addi 1 2 0x2000) && reads (0x03#6 ++ 1#6 ++ 2#6 ++ 0x1FFF#14) 0 (.andi 1 2 0x1FFF) &&
     reads (0x04#6 ++ 1#6 ++ 2#6 ++ 0x0001#14) 0 (.ori 1 2 1) && reads (0x05#6 ++ 1#6 ++ 2#6 ++ 0x3FFF#14) 0 (.xori 1 2 0x3FFF) &&
     reads (0x06#6 ++ 1#6 ++ 2#6 ++ 0#8 ++ 63#6) 0 (.shli 1 2 63) && reads (0x07#6 ++ 1#6 ++ 2#6 ++ 0#8 ++ 1#6) 0 (.shri 1 2 1) &&
     reads (0x08#6 ++ 1#6 ++ 2#6 ++ 0#8 ++ 32#6) 0 (.sari 1 2 32) && refuses (0x06#6 ++ 1#6 ++ 2#6 ++ 1#8 ++ 0#6) 0 &&
     reads (0x09#6 ++ 1#6 ++ 0#6 ++ 0x0005#14) 0x80000001 (.li 1 0x200000004005) && reads (0x09#6 ++ 1#6 ++ 1#6 ++ 0#14) 0xDEADBEEF (.liHi 1 0xDEADBEEF) &&
     refuses (0x09#6 ++ 1#6 ++ 2#6 ++ 0#14) 0 && refuses (0x09#6 ++ 1#6 ++ 1#6 ++ 1#14) 0 &&
     reads (0x0A#6 ++ 1#6 ++ 2#6 ++ 3#6 ++ 0#8) 4 (.sel 1 2 3 4) && refuses (0x0A#6 ++ 1#6 ++ 2#6 ++ 3#6 ++ 0#8) 64) = true := by decide +kernel

theorem test_decode_memory :
    (reads (0x0B#6 ++ 1#6 ++ 2#6 ++ 0#6 ++ 0b00#2 ++ 0b000#3 ++ 0b000#3) 0xFFFFFFFF (.sld 1 2 .n8 (.glob 0xFFFFFFFF)) &&
     reads (0x0B#6 ++ 1#6 ++ 2#6 ++ 0#6 ++ 0b01#2 ++ 0b110#3 ++ 0b000#3) 7 (.sld 1 2 .d64 (.tile 7)) &&
     reads (0x0B#6 ++ 1#6 ++ 2#6 ++ 0#6 ++ 0b00#2 ++ 0b011#3 ++ 0b001#3) 16 (.sst 1 2 .i16 (.glob 16)) &&
     reads (0x0B#6 ++ 1#6 ++ 2#6 ++ 0#6 ++ 0b01#2 ++ 0b101#3 ++ 0b001#3) 255 (.sst 1 2 .i32 (.tile 255)) &&
     reads (0x0B#6 ++ 1#6 ++ 2#6 ++ 3#6 ++ 0b01#2 ++ 0b100#3 ++ 0b010#3) (0#18 ++ 1#1 ++ 31#5 ++ 9#8) (.sldf 1 2 3 .n32 9 31 true) &&
     reads (0x0B#6 ++ 1#6 ++ 2#6 ++ 3#6 ++ 0b01#2 ++ 0b100#3 ++ 0b011#3) (0#18 ++ 0#1 ++ 4#5 ++ 9#8) (.sste 1 2 3 .n32 9 4) &&
     reads (0x0B#6 ++ 1#6 ++ 2#6 ++ 3#6 ++ 0b00#2 ++ 0b100#3 ++ 0b100#3) 0xA (.satom 1 2 3 .n32 .cas .glob) &&
     reads (0x0B#6 ++ 1#6 ++ 2#6 ++ 3#6 ++ 0b01#2 ++ 0b110#3 ++ 0b100#3) (0#14 ++ 0x9#4 ++ 0#6 ++ 9#8) (.satom 1 2 3 .d64 .swap (.tile 9)) &&
     refuses (0x0B#6 ++ 1#6 ++ 2#6 ++ 3#6 ++ 0b01#2 ++ 0b100#3 ++ 0b011#3) (0#18 ++ 1#1 ++ 4#5 ++ 9#8) && refuses (0x0B#6 ++ 1#6 ++ 2#6 ++ 1#6 ++ 0b00#2 ++ 0b000#3 ++ 0b000#3) 0 &&
     refuses (0x0B#6 ++ 1#6 ++ 2#6 ++ 0#6 ++ 0b01#2 ++ 0b000#3 ++ 0b000#3) 7 && refuses (0x0B#6 ++ 1#6 ++ 2#6 ++ 0#6 ++ 0b10#2 ++ 0b100#3 ++ 0b000#3) 7 &&
     refuses (0x0B#6 ++ 1#6 ++ 2#6 ++ 3#6 ++ 0b00#2 ++ 0b100#3 ++ 0b100#3) 0xD && refuses (0x0B#6 ++ 1#6 ++ 2#6 ++ 0#6 ++ 0b00#2 ++ 0b111#3 ++ 0b000#3) 0) = true := by decide +kernel

theorem test_decode_control :
    (reads (0x0C#6 ++ 0#6 ++ 0x80000#20) 0 (.b 0x80000) && reads (0x0D#6 ++ 5#6 ++ 1#20) 0 (.bz 5 1) && reads (0x0E#6 ++ 5#6 ++ 0xFFFFF#20) 0 (.bnz 5 0xFFFFF) &&
     reads (0x0F#6 ++ 0#6 ++ 2#20) 0 (.call 2) && reads (0x10#6 ++ 1#6 ++ 0xFFFFF#20) 0 (.loop 1 0xFFFFF) &&
     reads (0x11#6 ++ 7#3 ++ 0#3 ++ 4#20) 0 (.bmz 7 4) && reads (0x12#6 ++ 1#3 ++ 0#3 ++ 4#20) 0 (.bmnz 1 4) && refuses (0x12#6 ++ 1#3 ++ 1#3 ++ 4#20) 0 &&
     reads (0x13#6 ++ 0#6 ++ 2#6 ++ 3#6 ++ 0#5 ++ 5#3) 0x80000000 (.bcmp .gen 2 3 0x80000000) && refuses (0x13#6 ++ 0#6 ++ 2#6 ++ 3#6 ++ 0#5 ++ 6#3) 0 &&
     reads (0x1E#6 ++ 0#6 ++ 62#6 ++ 0#6 ++ 0x02#8) 0 (.jr 62) && refuses (0x0C#6 ++ 1#6 ++ 0#20) 0 &&
     reads (0x14#6 ++ 0#3 ++ 3#3 ++ 0#4 ++ 0#2 ++ 0#6 ++ 0x00#8) 0 (.mpush 3) && reads (0x14#6 ++ 0#3 ++ 0#3 ++ 0#4 ++ 0#2 ++ 0#6 ++ 0x01#8) 0 .melse &&
     reads (0x14#6 ++ 0#3 ++ 0#3 ++ 0#4 ++ 0#2 ++ 0#6 ++ 0x02#8) 0 .mpop && reads (0x14#6 ++ 1#3 ++ 2#3 ++ 0#4 ++ 0#2 ++ 0#6 ++ 0x03#8) 0 (.mmov 1 2) &&
     reads (0x14#6 ++ 1#3 ++ 2#3 ++ 3#4 ++ 0#2 ++ 0#6 ++ 0x04#8) 0 (.mand 1 2 3) && reads (0x14#6 ++ 1#3 ++ 2#3 ++ 3#4 ++ 0#2 ++ 0#6 ++ 0x05#8) 0 (.mor 1 2 3) &&
     reads (0x14#6 ++ 1#3 ++ 2#3 ++ 0#4 ++ 0#2 ++ 0#6 ++ 0x06#8) 0 (.mnot 1 2) && reads (0x14#6 ++ 0#3 ++ 2#3 ++ 0#4 ++ 0#2 ++ 9#6 ++ 0x07#8) 0 (.mcnt 9 2) &&
     reads (0x14#6 ++ 0#3 ++ 2#3 ++ 0#4 ++ 0#2 ++ 9#6 ++ 0x08#8) 0 (.mfirst 9 2) && refuses (0x14#6 ++ 1#3 ++ 2#3 ++ 8#4 ++ 0#2 ++ 0#6 ++ 0x04#8) 0 &&
     reads (0x15#6 ++ 0#6 ++ 0xFFFFD#20) 0 (.lq 0xFFFFD) && reads (0x16#6 ++ 0#6 ++ 0#6 ++ 0#2 ++ 0x801#12) 0 (.fwait 0x801) &&
     reads (0x16#6 ++ 0#6 ++ 1#6 ++ 0#2 ++ 0xFFF#12) 0 (.fclr 0xFFF) && reads (0x16#6 ++ 0#6 ++ 2#6 ++ 0#14) 0 .ldrain && refuses (0x16#6 ++ 0#6 ++ 0#6 ++ 1#2 ++ 0#12) 0 &&
     refuses (0x16#6 ++ 0#6 ++ 3#6 ++ 0#14) 0) = true := by decide +kernel

theorem test_decode_commands :
    (reads (0x17#6 ++ 0#6 ++ 4#6 ++ 8#6 ++ 0x07#8) 0 (.strmD 7 4 8) && reads (0x17#6 ++ 0#6 ++ 4#6 ++ 8#6 ++ 0x08#8) 0 (.strmC4 0 4 8) &&
     reads (0x17#6 ++ 0#6 ++ 60#6 ++ 0#6 ++ 0x13#8) 0 (.qld 3 60) && reads (0x17#6 ++ 0#6 ++ 0#6 ++ 0#6 ++ 0x1F#8) 0 (.qclose 7) &&
     refuses (0x17#6 ++ 0#6 ++ 5#6 ++ 8#6 ++ 0x07#8) 0 && refuses (0x17#6 ++ 0#6 ++ 4#6 ++ 9#6 ++ 0x07#8) 0 &&
     reads (0x19#6 ++ 0#6 ++ 8#6 ++ 15#6 ++ 0x00#8) 0 (.xwin 15 8) && reads (0x19#6 ++ 1#6 ++ 8#6 ++ 0#6 ++ 0x01#8) 0 (.xcopy 1 8) &&
     reads (0x19#6 ++ 1#6 ++ 8#6 ++ 0#6 ++ 0x02#8) 0 (.xred 1 8) && reads (0x19#6 ++ 1#6 ++ 0#6 ++ 0#6 ++ 0x03#8) 0 (.bclose 1) &&
     reads (0x19#6 ++ 1#6 ++ 2#6 ++ 31#6 ++ 0x04#8) 0 (.bwait 1 2 31) && reads (0x19#6 ++ 1#6 ++ 2#6 ++ 5#6 ++ 0x05#8) 0 (.mwait 1 2 5) &&
     reads (0x19#6 ++ 0#6 ++ 0#6 ++ 0#6 ++ 0x06#8) 0 .pbarPdomain && reads (0x19#6 ++ 0#6 ++ 0#6 ++ 0#6 ++ 0x07#8) 0 .pbarPspan &&
     reads (0x19#6 ++ 0#6 ++ 2#6 ++ 0#6 ++ 0x08#8) 0 (.stepmark 2) && refuses (0x19#6 ++ 1#6 ++ 2#6 ++ 32#6 ++ 0x04#8) 0 &&
     reads (0x1B#6 ++ 1#6 ++ 4#6 ++ 0#6 ++ 0x00#8) 0 (.wlinit 1 4) && reads (0x1B#6 ++ 1#6 ++ 4#6 ++ 3#6 ++ 0x01#8) 0 (.wltake 1 4 3) &&
     reads (0x1B#6 ++ 1#6 ++ 5#6 ++ 3#6 ++ 0x02#8) 0 (.tdwait 1 5 3) && refuses (0x1B#6 ++ 1#6 ++ 5#6 ++ 3#6 ++ 0x01#8) 0) = true := by decide +kernel

theorem test_decode_tiles_and_gates :
    (reads (0x18#6 ++ 1#6 ++ 2#6 ++ 3#6 ++ 0x00#8) 5 (.talloc 1 2 3 5) && reads (0x18#6 ++ 0#6 ++ 0#6 ++ 0#6 ++ 0x01#8) 255 (.tfree 255) &&
     reads (0x18#6 ++ 60#6 ++ 0#6 ++ 0#6 ++ 0x02#8) 5 (.tdesc 60 5) && refuses (0x18#6 ++ 1#6 ++ 0#6 ++ 0#6 ++ 0x02#8) 5 && refuses (0x18#6 ++ 62#6 ++ 0#6 ++ 0#6 ++ 0x02#8) 5 &&
     reads (0x18#6 ++ 1#6 ++ 0#6 ++ 0#6 ++ 0x03#8) (0#20 ++ 4#4 ++ 5#8) (.layout 1 5 4) && reads (0x18#6 ++ 0#6 ++ 0#6 ++ 0#6 ++ 0x04#8) 5 (.lwait 5) &&
     reads (0x18#6 ++ 1#6 ++ 2#6 ++ 0#6 ++ 0x05#8) 63 (.gbind 1 2 63) && refuses (0x18#6 ++ 1#6 ++ 2#6 ++ 0#6 ++ 0x05#8) 64 &&
     reads (0x18#6 ++ 1#6 ++ 2#6 ++ 0#6 ++ 0x06#8) 255 (.zfill 1 2 (.tile 255)) && reads (0x18#6 ++ 1#6 ++ 2#6 ++ 0#6 ++ 0x06#8) (0x1000 + 63) (.zfill 1 2 (.tensor 63)) &&
     reads (0x1A#6 ++ 0#6 ++ 2#6 ++ 3#6 ++ 0x00#8) 5 (.ginit 2 3 5) && reads (0x1A#6 ++ 1#6 ++ 2#6 ++ 0#6 ++ 0x01#8) 5 (.garrive 1 2 5) &&
     reads (0x1A#6 ++ 0#6 ++ 2#6 ++ 3#6 ++ 0x02#8) 5 (.gexpect 2 3 5) && reads (0x1A#6 ++ 1#6 ++ 2#6 ++ 3#6 ++ 0x03#8) (0#19 ++ 31#5 ++ 5#8) (.gwait 1 2 3 5 31)) = true := by decide +kernel

theorem test_decode_system :
    (reads (0x1C#6 ++ 1#6 ++ 2#6 ++ 3#6 ++ 0x00#8) 0 (.rgrow 1 2 3) && reads (0x1C#6 ++ 0#6 ++ 2#6 ++ 0#6 ++ 0x01#8) 0 (.rshrink 2) &&
     reads (0x1C#6 ++ 0#6 ++ 0#6 ++ 0#6 ++ 0x02#8) 0 .yield && reads (0x1C#6 ++ 0#6 ++ 0#6 ++ 0#6 ++ 0x03#8) 0 .guardBegin &&
     reads (0x1C#6 ++ 0#6 ++ 0#6 ++ 0#6 ++ 0x04#8) 0 .guardEnd && reads (0x1C#6 ++ 0#6 ++ 0#6 ++ 0#6 ++ 0x05#8) 0 .nopreBegin &&
     reads (0x1C#6 ++ 0#6 ++ 0#6 ++ 0#6 ++ 0x06#8) 0 .nopreEnd && reads (0x1C#6 ++ 1#6 ++ 0#6 ++ 0#6 ++ 0x07#8) 0 (.capq 1) &&
     reads (0x1C#6 ++ 1#6 ++ 2#6 ++ 0#6 ++ 0x08#8) 0 (.locq 1 2) && reads (0x1C#6 ++ 1#6 ++ 2#6 ++ 0#6 ++ 0x09#8) 0 (.launch 1 2) &&
     reads (0x1C#6 ++ 1#6 ++ 2#6 ++ 0#6 ++ 0x0A#8) 0 (.tclaim 1 2) && reads (0x1D#6 ++ 1#6 ++ 0x081#12 ++ 0x00#8) 0 (.sysr 1 0x081) &&
     reads (0x1D#6 ++ 1#6 ++ 0x021#12 ++ 0x01#8) 0 (.sysw 1 0x021) && reads (0x1D#6 ++ 1#6 ++ 0#12 ++ 0x02#8) 0 (.clk 1) &&
     reads (0x1D#6 ++ 0#6 ++ 0xFFF#12 ++ 0x03#8) 0 (.trap 0xFFF) && reads (0x1D#6 ++ 0#6 ++ 0#12 ++ 0x04#8) 0 .eret &&
     reads (0x1E#6 ++ 0#6 ++ 0#6 ++ 0#6 ++ 0x00#8) 0 .nop && reads (0x1E#6 ++ 0#6 ++ 0#6 ++ 0#6 ++ 0x01#8) 0 .exit &&
     reads (0x1E#6 ++ 0#6 ++ 0#6 ++ 0#6 ++ 0x45#8) 0 (.fenceAcq .span) && reads (0x1E#6 ++ 0#6 ++ 0#6 ++ 0#6 ++ 0x48#8) 0 (.fenceRel .team) &&
     reads (0x1E#6 ++ 0#6 ++ 0#6 ++ 0#6 ++ 0x52#8) 0 (.fenceAr .gang) && refuses (0x1E#6 ++ 0#6 ++ 0#6 ++ 0#6 ++ 0x46#8) 0 && refuses (0x1E#6 ++ 1#6 ++ 0#6 ++ 0#6 ++ 0x00#8) 0 &&
     refuses (0x1F#6 ++ 0#26) 0 && refuses (0x3F#6 ++ 0#26) 0 && refuses (0x1D#6 ++ 1#6 ++ 1#12 ++ 0x02#8) 0) = true := by decide +kernel

/-! ### Lane words (07 R148 to R152) -/

/-- w0 to w2 read as a lane instruction. -/
def laneReads (w0 w1 w2 : W32) (i : Instr) : Bool := decide ((decodeLane w0 w1 w2).toOption = some i)
def laneRefuses (w0 w1 w2 : W32) : Bool := decide ((decodeLane w0 w1 w2).toOption = none)

/-- A head with three sources v1, v2, v3, destination v10, guard pt. -/
def hd (ty : BitVec 4) : LaneHead := ⟨ty, 10, 1, 2, 3, false, false, false, 0, false, false, false, 15, false, false⟩
def hd2 (ty : BitVec 4) : LaneHead := { hd ty with s2 := 0 }
def hd1 (ty : BitVec 4) : LaneHead := { hd ty with s1 := 0, s2 := 0 }
def hd0 (ty : BitVec 4) : LaneHead := { hd ty with s0 := 0, s1 := 0, s2 := 0 }
def mA : ModA := ⟨0, 0, 0, 0, 0, 0, 0⟩

/-- Opcodes of layout A in order, each with three, two, one or no sources, type `ty`. -/
def readsA (op : Nat) (ty : BitVec 4) (n : Nat) (f : LaneHead → ModA → Instr) : Bool :=
  laneReads (BitVec.ofNat 10 op ++ ty ++ 10#9 ++ (if n = 0 then 0#9 else 1#9)) ((if n < 2 then 0#9 else 2#9) ++ (if n < 3 then 0#9 else 3#9) ++ 0b000#3 ++ 0b00#2 ++ 0b000#3 ++ 15#4 ++ 0#1 ++ 0#1) 0
    (f (if n = 0 then hd0 ty else if n = 1 then hd1 ty else if n = 2 then hd2 ty else hd ty) mA)

theorem test_decode_lane_integer :
    (readsA 0x000 0 2 .iadd && readsA 0x001 1 2 .isub && readsA 0x002 2 2 .imul && readsA 0x003 3 2 .imulh && readsA 0x004 4 3 .imad && readsA 0x005 5 1 .iabs &&
     readsA 0x006 6 1 .ineg && readsA 0x007 7 2 .imin && readsA 0x008 2 2 .imax && readsA 0x009 2 2 .iand && readsA 0x00A 2 2 .ior && readsA 0x00B 2 2 .ixor &&
     readsA 0x00C 2 1 .inot && readsA 0x00D 2 2 .ishl && readsA 0x00E 2 2 .ishr && readsA 0x00F 2 2 .isar && readsA 0x010 2 1 .ipopc && readsA 0x011 2 1 .iclz &&
     readsA 0x012 2 2 .ibfx && readsA 0x013 2 3 .ibfi && readsA 0x014 2 3 .isel && readsA 0x015 5 2 .iadds && readsA 0x016 5 2 .isubs && readsA 0x017 4 3 .idot4 &&
     readsA 0x018 2 2 .icmpEq && readsA 0x019 2 2 .icmpNe && readsA 0x01A 2 2 .icmpLt && readsA 0x01B 2 2 .icmpLe && readsA 0x01C 2 2 .icmpGt && readsA 0x01D 2 2 .icmpGe &&
     readsA 0x088 13 1 .mov && readsA 0x08A 7 0 .lidx && readsA 0x0C0 13 2 .shfl && readsA 0x0C1 8 2 .bcast) = true := by decide +kernel

theorem test_decode_lane_float :
    (readsA 0x040 8 2 .fadd && readsA 0x041 9 2 .fsub && readsA 0x042 10 2 .fmul && readsA 0x043 8 3 .ffma && readsA 0x044 8 2 .fmin && readsA 0x045 8 2 .fmax &&
     readsA 0x046 8 1 .fabs && readsA 0x047 8 1 .fneg && readsA 0x048 8 2 .fcmpEq && readsA 0x049 8 2 .fcmpNe && readsA 0x04A 8 2 .fcmpLt && readsA 0x04B 8 2 .fcmpLe &&
     readsA 0x04C 8 2 .fcmpGt && readsA 0x04D 8 2 .fcmpGe && readsA 0x04E 8 2 .fcmpUn && readsA 0x050 8 1 .frcp && readsA 0x051 8 1 .frsq && readsA 0x052 8 1 .fsqrt &&
     readsA 0x053 8 2 .fdiv && readsA 0x054 8 1 .fexp2 && readsA 0x055 8 1 .flog2 && readsA 0x056 8 1 .fsin && readsA 0x057 8 1 .fcos && readsA 0x058 8 1 .ftanh &&
     readsA 0x059 8 1 .fsigm && readsA 0x05A 8 1 .fround && readsA 0x05B 8 1 .fclass && readsA 0x05C 8 2 .fscale && readsA 0x085 8 1 .had32) = true := by decide +kernel

/-- Every field of w0, w1 and of layout A stands in its place. -/
theorem test_decode_lane_fields :
    (laneReads (0x004#10 ++ 2#4 ++ 0x155#9 ++ 0x0AA#9) (0x1FF#9 ++ 0x001#9 ++ 0b010#3 ++ 0b01#2 ++ 0b001#3 ++ 14#4 ++ 1#1 ++ 1#1) (2#5 ++ 3#5 ++ 2#5 ++ 3#5 ++ 0#4 ++ 0#4 ++ 0#3 ++ 0#1)
       (.imad ⟨2, 0x155, 0x0AA, 0x1FF, 1, false, true, false, 1, false, false, true, 14, true, true⟩ ⟨2, 3, 2, 3, 0, 0, 0⟩) &&
     laneReads (0x053#10 ++ 9#4 ++ 10#9 ++ 0#9) (0#9 ++ 0#9 ++ 0b000#3 ++ 0b10#2 ++ 0b000#3 ++ 0#4 ++ 0#1 ++ 0#1) (7#5 ++ 0#5 ++ 4#5 ++ 0#5 ++ 0b1111#4 ++ 0b1000#4 ++ 3#3 ++ 0#1)
       (.fdiv ⟨9, 10, 0, 0, 0, false, false, false, 2, false, false, false, 0, false, false⟩ ⟨7, 0, 4, 0, 15, 8, 3⟩) &&
     laneRefuses (0x004#10 ++ 2#4 ++ 10#9 ++ 1#9) (2#9 ++ 3#9 ++ 0b100#3 ++ 0#2 ++ 0b100#3 ++ 15#4 ++ 0#2) 0 && laneRefuses (0x000#10 ++ 2#4 ++ 10#9 ++ 1#9) (2#9 ++ 3#9 ++ 0#8 ++ 15#4 ++ 0#2) 0 &&
     laneRefuses (0x000#10 ++ 2#4 ++ 10#9 ++ 1#9) (2#9 ++ 0#9 ++ 0#8 ++ 15#4 ++ 0#2) (4#5 ++ 0#27) && laneRefuses (0x01E#10 ++ 2#4 ++ 10#9 ++ 1#9) (2#9 ++ 0#9 ++ 0#8 ++ 15#4 ++ 0#2) 0 &&
     laneRefuses (0x3FF#10 ++ 1#4 ++ 0#12 ++ 15#4 ++ 0#2) (15#4 ++ 0#28) 0 && laneRefuses (0x000#10 ++ 15#4 ++ 10#9 ++ 1#9) (2#9 ++ 0#9 ++ 0#8 ++ 15#4 ++ 0#2) 0 &&
     laneReads (0x180#10 ++ 0#22) 0 0 .lnop && laneRefuses (0x180#10 ++ 0#22) (0#26 ++ 15#4 ++ 0#2) 0) = true := by decide +kernel

theorem test_decode_lane_layouts :
    (laneReads (0x080#10 ++ 11#4 ++ 10#9 ++ 1#9) (4#9 ++ 0#9 ++ 0#8 ++ 15#4 ++ 0#1 ++ 1#1) (0#5 ++ 0#5 ++ 0#5 ++ 0#5 ++ 0#4 ++ 8#4 ++ 4#3 ++ 0#1)
       (.cvt { hd1 11 with s1 := 4, md := true } ⟨0, 0, 0, 0, 0, 8, 4⟩) &&
     laneReads (0x081#10 ++ 9#4 ++ 10#9 ++ 1#9) (2#9 ++ 0#9 ++ 0#8 ++ 15#4 ++ 0#2) (4#5 ++ 0#5 ++ 0#5 ++ 0#5 ++ 0#4 ++ 8#4 ++ 0#3 ++ 0#1) (.pack (hd2 9) ⟨4, 0, 0, 0, 0, 8, 0⟩) &&
     laneReads (0x082#10 ++ 8#4 ++ 10#9 ++ 1#9) (0#9 ++ 0#9 ++ 0#8 ++ 15#4 ++ 0#2) (0#5 ++ 6#5 ++ 0#5 ++ 0#5 ++ 0#4 ++ 9#4 ++ 0#3 ++ 0#1) (.unpk (hd1 8) ⟨0, 6, 0, 0, 0, 9, 0⟩) &&
     laneReads (0x083#10 ++ 8#4 ++ 10#9 ++ 1#9) (0#9 ++ 0#9 ++ 0#8 ++ 15#4 ++ 0#2) (2#5 ++ 3#5 ++ 0#5 ++ 0#5 ++ 0#4 ++ 16#5 ++ 0#3) (.qbp (hd1 8) ⟨2, 3, 0, 0, 0, 16⟩) &&
     laneReads (0x084#10 ++ 10#4 ++ 10#9 ++ 1#9) (0#9 ++ 0#9 ++ 0#8 ++ 15#4 ++ 0#2) (4#5 ++ 2#5 ++ 0#5 ++ 0#5 ++ 0#4 ++ 2#5 ++ 0#3) (.dqbp (hd1 10) ⟨4, 2, 0, 0, 0, 2⟩) &&
     laneRefuses (0x084#10 ++ 10#4 ++ 10#9 ++ 1#9) (0#9 ++ 0#9 ++ 0#8 ++ 15#4 ++ 0#2) (4#5 ++ 2#5 ++ 0#5 ++ 0#5 ++ 0#4 ++ 17#5 ++ 0#3) &&
     laneReads (0x086#10 ++ 8#4 ++ 10#9 ++ 1#9) (0#9 ++ 0#9 ++ 0#8 ++ 15#4 ++ 0#2) (0#24 ++ 5#4 ++ 0#4) (.frmax (hd1 8) ⟨0, 0, 0, 0, 0, 5, 0⟩) &&
     laneReads (0x087#10 ++ 9#4 ++ 10#9 ++ 1#9) (0#9 ++ 0#9 ++ 0#8 ++ 15#4 ++ 0#2) (0#24 ++ 6#4 ++ 0#4) (.fradd (hd1 9) ⟨0, 0, 0, 0, 0, 6, 0⟩) &&
     laneReads (0x089#10 ++ 8#4 ++ 10#9 ++ 0#4 ++ 3#5) (0#9 ++ 0#9 ++ 0#8 ++ 15#4 ++ 0#2) 0x3F800000 (.movi { hd0 8 with s0 := 3 } 0x3F800000) &&
     laneReads (0x0C2#10 ++ 0#4 ++ 7#9 ++ 14#9) (0#9 ++ 0#9 ++ 0#8 ++ 15#4 ++ 0#2) 0 (.vote { hd0 0 with dst := 7, s0 := 14 } ⟨0, 0, 0, 0, 0, 0, 0⟩) &&
     laneReads (0x0C3#10 ++ 6#4 ++ 10#9 ++ 14#9) (0#9 ++ 0#9 ++ 0#8 ++ 15#4 ++ 0#2) (0#24 ++ 5#4 ++ 2#4) (.pfxc { hd0 6 with s0 := 14 } ⟨0, 0, 0, 0, 0, 5, 2⟩) &&
     laneReads (0x0C4#10 ++ 2#4 ++ 10#9 ++ 1#9) (0#9 ++ 0#9 ++ 0#8 ++ 15#4 ++ 0#2) (0#24 ++ 1#4 ++ 0b1000#4) (.scan (hd1 2) ⟨0, 0, 0, 0, 0, 1, 8⟩) &&
     laneReads (0x0C5#10 ++ 2#4 ++ 10#9 ++ 1#9) (0#9 ++ 0#9 ++ 0#8 ++ 15#4 ++ 0#2) (0#24 ++ 1#4 ++ 5#4) (.red (hd1 2) ⟨0, 0, 0, 0, 0, 1, 5⟩)) = true := by decide +kernel

/-- The worked encodings of R218 and R241, and each opcode of layouts M and MX. -/
theorem test_decode_lane_memory :
    (laneReads 0x40A01404 0x0002C03C 0x05130800 (.tldf ⟨8, 10, 4, 0, 11, false, false, false, 0, false, false, false, 15, false, false⟩ ⟨5, 2, 12, true, false, 0, 0⟩) &&
     laneReads 0x50380004 0x0281803C 0x02033740 (.mma ⟨14, 0, 4, 5, 6, false, false, false, 0, false, false, false, 15, false, false⟩ ⟨2, 3, 3, 7, 1⟩) &&
     laneReads (0x100#10 ++ 2#4 ++ 10#9 ++ 1#9) (0#9 ++ 0#9 ++ 0#8 ++ 15#4 ++ 0#2) (7#8 ++ 2#5 ++ 0#19) (.tld (hd1 2) ⟨7, 2, 0, false, false, 0, 0⟩) &&
     laneReads (0x100#10 ++ 2#4 ++ 10#9 ++ 1#9) (0#9 ++ 3#9 ++ 0#8 ++ 15#4 ++ 0#2) (7#8 ++ 2#5 ++ 9#5 ++ 0b01#2 ++ 0#12) (.tldIfempty { hd1 2 with s2 := 3 } ⟨7, 2, 9, false, false, 0, 0⟩) &&
     laneReads (0x101#10 ++ 2#4 ++ 0#9 ++ 1#9) (2#9 ++ 0#9 ++ 0#8 ++ 15#4 ++ 0#2) (7#8 ++ 2#5 ++ 0#19) (.tst { hd2 2 with dst := 0 } ⟨7, 2, 0, false, false, 0, 0⟩) &&
     laneReads (0x101#10 ++ 2#4 ++ 0#9 ++ 1#9) (2#9 ++ 3#9 ++ 0#8 ++ 15#4 ++ 0#2) (7#8 ++ 2#5 ++ 9#5 ++ 0b01#2 ++ 0#12) (.tstIffull { hd 2 with dst := 0 } ⟨7, 2, 9, false, false, 0, 0⟩) &&
     laneReads (0x103#10 ++ 3#4 ++ 0#9 ++ 1#9) (2#9 ++ 3#9 ++ 0#8 ++ 15#4 ++ 0#2) (7#8 ++ 1#5 ++ 9#5 ++ 0#14) (.tste { hd 3 with dst := 0 } ⟨7, 1, 9, false, false, 0, 0⟩) &&
     laneReads (0x104#10 ++ 13#4 ++ 10#9 ++ 1#9) (0#9 ++ 0#9 ++ 0#8 ++ 15#4 ++ 0#2) (7#8 ++ 0#24) (.tldt (hd1 13) ⟨7, 0, 0, false, false, 0, 0⟩) &&
     laneReads (0x105#10 ++ 2#4 ++ 10#9 ++ 1#9) (0#9 ++ 0#9 ++ 0#8 ++ 15#4 ++ 0#2) (0#8 ++ 3#5 ++ 0#19) (.gld (hd1 2) ⟨0, 3, 0, false, false, 0, 0⟩) &&
     laneReads (0x106#10 ++ 2#4 ++ 0#9 ++ 0#9) (2#9 ++ 0#9 ++ 0#8 ++ 15#4 ++ 0#2) (0#8 ++ 3#5 ++ 0#13 ++ 0b1011#4 ++ 0#2) (.gst { hd0 2 with dst := 0, s1 := 2 } ⟨0, 3, 0, false, false, 0, 11⟩) &&
     laneReads (0x107#10 ++ 2#4 ++ 10#9 ++ 1#9) (2#9 ++ 3#9 ++ 0#8 ++ 15#4 ++ 0#2) (0#8 ++ 3#5 ++ 31#5 ++ 0#14) (.rld (hd 2) ⟨0, 3, 31, false, false, 0, 0⟩) &&
     laneReads (0x108#10 ++ 6#4 ++ 10#9 ++ 1#9) (2#9 ++ 3#9 ++ 0#8 ++ 15#4 ++ 0#2) (0#8 ++ 2#5 ++ 0#5 ++ 0#2 ++ 0#1 ++ 1#1 ++ 0xA#4 ++ 0#6) (.atom (hd 6) ⟨0, 2, 0, false, true, 10, 0⟩) &&
     laneReads (0x109#10 ++ 6#4 ++ 10#9 ++ 1#9) (2#9 ++ 3#9 ++ 0#8 ++ 15#4 ++ 0#2) (0#8 ++ 0#5 ++ 4#5 ++ 0#14) (.msgput (hd 6) ⟨0, 0, 4, false, false, 0, 0⟩) &&
     laneReads (0x10A#10 ++ 6#4 ++ 10#9 ++ 0#9) (0#9 ++ 3#9 ++ 0#8 ++ 15#4 ++ 0#2) (9#8 ++ 0#5 ++ 4#5 ++ 0#14) (.msgtake { hd0 6 with s2 := 3 } ⟨9, 0, 4, false, false, 0, 0⟩) &&
     laneReads (0x10B#10 ++ 7#4 ++ 10#9 ++ 1#9) (2#9 ++ 3#9 ++ 0#8 ++ 15#4 ++ 0#2) 0 (.wlapp (hd 7) ⟨0, 0, 0, false, false, 0, 0⟩) &&
     laneReads (0x0C6#10 ++ 2#4 ++ 10#9 ++ 1#9) (2#9 ++ 0#9 ++ 0#8 ++ 15#4 ++ 0#2) (9#8 ++ 2#5 ++ 0#19) (.cstore (hd2 2) ⟨9, 2, 0, false, false, 0, 0⟩) &&
     laneReads (0x0C7#10 ++ 2#4 ++ 10#9 ++ 1#9) (0#9 ++ 0#9 ++ 0#8 ++ 15#4 ++ 0#2) (0#8 ++ 2#5 ++ 0#8 ++ 1#1 ++ 0#10) (.xld (hd1 2) ⟨0, 2, 0, false, true, 0, 0⟩) &&
     laneReads (0x140#10 ++ 14#4 ++ 0#9 ++ 4#9) (5#9 ++ 6#9 ++ 0#8 ++ 15#4 ++ 0#2) (2#8 ++ 3#8 ++ 3#4 ++ 7#4 ++ 1#2 ++ 1#1 ++ 0#5) (.mmaPair ⟨14, 0, 4, 5, 6, false, false, false, 0, false, false, false, 15, false, false⟩ ⟨2, 3, 3, 7, 1⟩) &&
     laneReads (0x141#10 ++ 0#4 ++ 0#9 ++ 0#9) (0#9 ++ 0#9 ++ 0#8 ++ 15#4 ++ 0#2) (0#24 ++ 3#2 ++ 0#6) (.mzero { hd0 0 with dst := 0 } 3) &&
     laneReads (0x142#10 ++ 8#4 ++ 10#9 ++ 1#9) (0#9 ++ 0#9 ++ 0#8 ++ 15#4 ++ 0#2) (0#24 ++ 2#2 ++ 0#6) (.mread (hd1 8) 2) &&
     laneReads (0x143#10 ++ 8#4 ++ 0#9 ++ 1#9) (2#9 ++ 0#9 ++ 0#8 ++ 15#4 ++ 0#2) (0#24 ++ 2#2 ++ 0#6) (.mwrite { hd2 8 with dst := 0 } 2) &&
     laneReads (0x144#10 ++ 8#4 ++ 0#9 ++ 1#9) (2#9 ++ 3#9 ++ 0#8 ++ 15#4 ++ 0#1 ++ 1#1) (5#8 ++ 6#8 ++ 1#1 ++ 0#1 ++ 1#1 ++ 1#1 ++ 4#3 ++ 0#1 ++ 2#2 ++ 0#6)
       (.mdrain { hd 8 with dst := 0, md := true } ⟨5, 6, true, false, true, true, 4, 2⟩)) = true := by decide +kernel

/-- The four instructions of the softmax idiom (09 R213) are found by the fetch of a clause. -/
theorem test_fused_softmax_found :
    fuseSoftmax (.frmax { hd1 8 with dst := 4 } ⟨0, 0, 0, 0, 0, 5, 0⟩) (.fsub { hd0 8 with dst := 5, s0 := 1, s1 := 4 } mA) (.fexp2 { hd0 8 with dst := 6, s0 := 5 } mA)
      (.fradd { hd0 8 with dst := 7, s0 := 6 } ⟨0, 0, 0, 0, 0, 5, 0⟩) =
    some (.fusedSoftmax { hd1 8 with dst := 4 } ⟨0, 0, 0, 0, 0, 5, 0⟩ { hd0 8 with dst := 5, s0 := 1, s1 := 4 } mA { hd0 8 with dst := 6, s0 := 5 } mA
      { hd0 8 with dst := 7, s0 := 6 } ⟨0, 0, 0, 0, 0, 5, 0⟩) := by decide +kernel

/-! ### Ill-formed terms: each check of WellFormed.lean refuses one -/

def wC : ModC := ⟨0, 0, 0, 0, 0, 8, 0⟩
def wX : ModX := ⟨0, 0, 0, 0, 0, 5, 0⟩
def mP : ModP := ⟨2, 2, 0, 0, 0, 4⟩
def wM : ModM := ⟨7, 2, 0, false, false, 0, 0⟩
def wG : ModM := ⟨0, 2, 0, false, true, 0, 0⟩

theorem test_wf_scalar :
    (!(Instr.sld 1 2 .n8 (.tile 7)).wf && (Instr.sld 1 2 .n8 (.glob 7)).wf && !(Instr.sst 1 2 .i16 (.tile 7)).wf && !(Instr.sldf 1 2 3 .n16 7 0 false).wf &&
     !(Instr.sste 1 2 3 .i8 7 0).wf && !(Instr.satom 1 2 3 .d64 .fadd .glob).wf && !(Instr.satom 1 2 3 .n16 .add .glob).wf && (Instr.satom 1 2 3 .n32 .fadd .glob).wf &&
     !(Instr.strmD 0 2 4).wf && !(Instr.strmD 0 4 5).wf && !(Instr.strmC4 0 4 62).wf && !(Instr.qld 0 2).wf && !(Instr.xwin 0 1).wf && !(Instr.xcopy 0 61).wf && !(Instr.xred 0 62).wf &&
     !(Instr.wlinit 0 3).wf && !(Instr.wltake 0 3 0).wf && !(Instr.tdesc 3 0).wf && !(Instr.tdesc 62 0).wf) = true := by decide +kernel

theorem test_wf_layout_a :
    (!(Instr.iadd (hd2 8) mA).wf && !(Instr.iadd (hd 2) mA).wf && !(Instr.iadd { hd2 2 with z2 := true } mA).wf && !(Instr.iadd { hd2 2 with z0 := true, b0 := true } mA).wf &&
     !(Instr.iadd (hd2 2) { mA with q0 := 8 }).wf && (Instr.iadd { hd2 2 with s0 := 0 } { mA with q0 := 8 }).wf && !(Instr.iadd (hd2 2) { mA with q1 := 1 }).wf &&
     !(Instr.iadd { hd2 2 with z0 := true, s0 := 0 } { mA with q0 := 8 }).wf && !(Instr.iadd (hd2 2) { mA with s0sel := 4 }).wf && !(Instr.iadd (hd2 2) { mA with dsel := 1 }).wf &&
     !(Instr.iadd (hd2 2) { mA with rm := 1 }).wf && !(Instr.iand { hd2 2 with md := true } mA).wf && (Instr.iadd { hd2 2 with md := true } mA).wf && !(Instr.iadd { hd2 2 with retain := 3 } mA).wf &&
     !(Instr.iabs { hd1 2 with retain := 2 } mA).wf && !(Instr.fadd (hd2 8) { mA with rm := 4 }).wf && (Instr.fadd (hd2 8) { mA with rm := 3 }).wf && !(Instr.fadd (hd2 11) mA).wf &&
     !(Instr.icmpEq { hd2 2 with dst := 16 } mA).wf && !(Instr.icmpEq (hd2 2) { mA with dsel := 2 }).wf && !(Instr.fcmpUn (hd2 2) mA).wf && !(Instr.idot4 (hd 2) mA).wf &&
     !(Instr.idot4 (hd 0) { mA with s1sel := 8 }).wf && !(Instr.shfl (hd2 8) { mA with s0sel := 2 }).wf && !(Instr.shfl (hd2 8) { mA with s1sel := 4 }).wf && !(Instr.had32 (hd1 9) mA).wf &&
     !(Instr.had32 (hd1 8) { mA with dsel := 2 }).wf && !(Instr.mov (hd1 14) mA).wf && !(Instr.lidx (hd0 8) mA).wf && !(Instr.movi { hd0 8 with s0 := 32 } 0).wf && !(Instr.movi { hd0 8 with s1 := 1 } 0).wf) = true := by decide +kernel

theorem test_wf_other_layouts :
    (!(Instr.cvt (hd2 9) wC).wf && (Instr.cvt (hd2 9) { wC with rm := 4 }).wf && !(Instr.cvt (hd1 9) { wC with dsel := 4 }).wf && !(Instr.cvt (hd1 9) { wC with rm := 5 }).wf && !(Instr.cvt (hd1 14) wC).wf &&
     !(Instr.pack (hd2 8) wC).wf && !(Instr.pack (hd2 9) { wC with s0sel := 2 }).wf && !(Instr.pack (hd2 11) { wC with dsel := 9 }).wf && (Instr.pack (hd2 11) { wC with dsel := 12 }).wf &&
     !(Instr.unpk (hd1 8) { wC with sty := 9, s0sel := 5 }).wf && !(Instr.unpk (hd1 8) { wC with sty := 9, dsel := 2 }).wf && !(Instr.unpk (hd1 9) wC).wf &&
     !(Instr.qbp (hd1 8) { mP with p := 1 }).wf && !(Instr.qbp (hd1 8) { mP with dsel := 4 }).wf && !(Instr.qbp (hd1 2) mP).wf && !(Instr.dqbp (hd1 8) { mP with dsel := 0 }).wf &&
     !(Instr.frmax (hd1 8) { wX with op := 1 }).wf && !(Instr.fradd (hd1 8) { wX with range := 7 }).wf && !(Instr.red (hd1 2) { wX with op := 6 }).wf && !(Instr.red (hd1 2) { wX with op := 8 }).wf &&
     (Instr.scan (hd1 2) { wX with op := 8 }).wf && !(Instr.red (hd1 8) { wX with op := 3 }).wf && !(Instr.red { hd1 2 with md := true } { wX with op := 1 }).wf && !(Instr.vote (hd1 2) { wX with range := 0 }).wf &&
     !(Instr.vote { hd1 0 with dst := 8 } { wX with range := 0 }).wf && !(Instr.vote { hd1 0 with dst := 1, s0 := 16 } { wX with range := 0 }).wf && !(Instr.pfxc (hd1 8) wX).wf && !(Instr.pfxc (hd1 2) { wX with op := 3 }).wf) = true := by decide +kernel

theorem test_wf_memory :
    (!(Instr.tld (hd1 15) wM).wf && !(Instr.tld { hd1 2 with z0 := true } wM).wf && !(Instr.tld (hd2 2) wM).wf && !(Instr.tld (hd1 2) { wM with e := 1 }).wf && !(Instr.tld (hd1 2) { wM with consume := true }).wf &&
     !(Instr.tld (hd1 2) { wM with glob := true }).wf && !(Instr.tld (hd1 2) { wM with aop := 1 }).wf && !(Instr.tld (hd1 2) { wM with sel := 4 }).wf && !(Instr.tld (hd1 14) { wM with sel := 0 }).wf &&
     !(Instr.tld (hd1 2) { wM with q0 := 8 }).wf && !(Instr.tst (hd2 2) wM).wf && (Instr.tst { hd2 2 with dst := 0 } wM).wf && !(Instr.tldf (hd1 1) wM).wf && !(Instr.tldf { hd1 2 with s2 := 3, z2 := true } wM).wf &&
     !(Instr.tldf { hd1 2 with s2 := 3 } { wM with sel := 0 }).wf && !(Instr.tste { hd 2 with dst := 0, z1 := true, b1 := true } wM).wf && !(Instr.tldt (hd1 2) wM).wf && !(Instr.gld (hd1 13) { wM with handle := 0 }).wf &&
     !(Instr.gld (hd1 2) wM).wf && !(Instr.gst (hd2 2) { wM with handle := 0 }).wf && !(Instr.rld (hd 14) { wM with handle := 0 }).wf && !(Instr.atom (hd 2) wM).wf && (Instr.atom (hd2 2) wM).wf &&
     !(Instr.atom (hd2 2) { wM with aop := 1 }).wf && !(Instr.atom (hd2 8) wM).wf && !(Instr.atom (hd2 2) { wM with aop := 13 }).wf && !(Instr.atom (hd2 2) { wM with sel := 0 }).wf && !(Instr.msgput (hd 7) { wM with handle := 0, sel := 0 }).wf &&
     !(Instr.msgput { hd 6 with z1 := true, b1 := true } { wM with handle := 0, sel := 0 }).wf && (Instr.msgput { hd 6 with z1 := true } { wM with handle := 0, sel := 0 }).wf && !(Instr.msgtake { hd1 6 with s2 := 3 } { wM with sel := 0 }).wf && !(Instr.wlapp (hd 6) { wM with handle := 0, sel := 0 }).wf &&
     !(Instr.cstore (hd2 13) { wG with sel := 16 }).wf && !(Instr.cstore (hd2 2) { wM with sel := 0 }).wf && !(Instr.xld (hd1 2) { wG with handle := 1 }).wf && (Instr.xld (hd1 2) wG).wf) = true := by decide +kernel

theorem test_wf_matrix :
    (!(Instr.mma { hd 14 with dst := 0 } ⟨0, 0, 0, 7, 0⟩).wf && !(Instr.mma { hd 14 with dst := 0 } ⟨0, 0, 3, 0, 0⟩).wf && !(Instr.mma { hd 8 with dst := 0 } ⟨0, 0, 3, 7, 0⟩).wf && !(Instr.mma (hd 14) ⟨0, 0, 3, 7, 0⟩).wf &&
     !(Instr.mma { hd 14 with dst := 0, retain := 1 } ⟨0, 0, 3, 7, 0⟩).wf && !(Instr.mma { hd 14 with dst := 0, md := true } ⟨0, 0, 3, 7, 0⟩).wf && (Instr.mmaPair { hd 14 with dst := 0 } ⟨0, 0, 3, 7, 0⟩).wf &&
     !(Instr.mzero { hd0 0 with dst := 0, s0 := 1 } 0).wf && !(Instr.mread (hd1 2) 0).wf && !(Instr.mwrite (hd2 8) 0).wf && !(Instr.mdrain { hd1 8 with dst := 0 } ⟨0, 1, false, false, false, false, 0, 0⟩).wf &&
     !(Instr.mdrain { hd1 8 with dst := 0 } ⟨64, 0, true, false, false, false, 0, 0⟩).wf && !(Instr.mdrain { hd1 2 with dst := 0 } ⟨0, 0, false, true, false, false, 0, 0⟩).wf &&
     !(Instr.mdrain { hd1 8 with dst := 0 } ⟨0, 0, false, true, false, false, 1, 0⟩).wf && !(Instr.mdrain { hd1 8 with dst := 0 } ⟨0, 0, false, false, false, false, 5, 0⟩).wf &&
     !(Instr.mdrain { hd2 8 with dst := 0 } ⟨0, 0, false, false, false, false, 0, 0⟩).wf && (Instr.mdrain { hd1 8 with dst := 0 } ⟨0, 0, false, true, false, false, 0, 0⟩).wf &&
     !(Instr.fusedSoftmax (hd1 8) wX (hd2 8) mA (hd1 8) mA (hd1 8) wX).wf) = true := by decide +kernel

/-! ### Small states -/

/-- A booted package with one resident privileged team of 32 lanes on core 0 and one bound page at 0x1000000. -/
def W : State := { State.reset.place 32 0x78000000 with moves := [] }
def R : TeamRef := ⟨0, 0⟩
/-- Its team, with s2 the page's address, s3 = 5, s4 = −1, s5 = the page's address plus 1. -/
def T : Team := { placeTeam placeBase [] with sregs := [(2, 0x1000000), (3, 5), (4, 0xFFFFFFFFFFFFFFFF), (5, 0x1000001)] }
def C : Crew := placeCrew T
/-- The package with another team, or another crew, in that place. -/
def inCrew (c : Crew) : State := { W with crews := [c] }
def inTeam (t : Team) : State := inCrew (placeCrew t)
def S : State := inTeam T
/-- A started clause at the head of the lane queue. -/
def CL : Clause := placeClause
def TL : Team := { T with queue := [CL] }
/-- An open tagged tile of 64 × 64 32-bit integers under handle 5, and one of 64-bit integers under handle 6. -/
def tile5 : Tile := mkTile 1 5 0x0001000100400040 0x2002 false
def tile6 : Tile := mkTile 2 6 0x0001000100400040 0x2003 false
def CT : Crew := { C with tiles := [tile5, tile6], nextUid := 3 }
def ST : State := inCrew CT

/-! ### Scalar registers, arithmetic, control flow (R161 to R168) -/

theorem witness_acts : S.acts R C T := by decide +kernel
theorem witness_ScalarIntegerResults : S.acts R C T := by decide +kernel

theorem witness_ScalarRegisterInstructionsFrame_team : S.teamAt R = some (C, T) ∧ (⟨1, 0⟩ : TeamRef).crew ≠ R.crew ∧ (⟨0, 1⟩ : TeamRef).team ≠ R.team := by decide +kernel

theorem witness_ScalarRegisterInstructionsFrame : S.acts R C T ∧ scalarDest (.add 1 3 4) = some (1, 4) ∧ (∃ s', exec (.add 1 3 4) S = .next s') ∧
    scalarDest (.li 63 4) = some (63, 8) ∧ (∃ s', exec (.li 63 4) S = .next s') := by
  exact ⟨by decide +kernel, rfl, ⟨_, rfl⟩, rfl, ⟨_, rfl⟩⟩

theorem witness_BranchTargets : S.acts R C T ∧ (T.sreg 2).toNat % 4 = 0 ∧ (T.sreg 5).toNat % 4 ≠ 0 := by decide +kernel

theorem witness_MaskAndFlagInstructions :
    S.acts R C T ∧ T.stack.length < 16 ∧ T.stack = [] ∧ T.queue = [] ∧ T.retired = [] ∧
    (let t := { T with stack := List.replicate 15 0#1024 ++ [1#1024] }; (inTeam t).acts R (placeCrew t) t ∧ 16 ≤ t.stack.length ∧ t.stack = List.replicate 15 0#1024 ++ [1#1024]) ∧
    (let t := { T with retired := [{ CL with holds := 2 }] }; (inTeam t).acts R (placeCrew t) t ∧ (∃ cl, cl ∈ t.retired ++ t.queue ∧ cl.holds &&& 3#12 ≠ 0#12) ∧
      (∀ cl, cl ∈ t.retired ++ t.queue → cl.holds &&& 1#12 = 0#12) ∧ t.retired ≠ []) := by
  refine ⟨by decide +kernel, by decide +kernel, rfl, rfl, rfl, by decide +kernel, by decide +kernel, ⟨_, List.mem_singleton.2 rfl, by decide +kernel⟩, by decide +kernel, by decide +kernel⟩

/-- The team after an instruction of it. -/
def after (i : Instr) (s : State) : Option Team :=
  match exec i s with
  | .next s' => (s'.teamAt R).map (·.2)
  | _ => none
def reg (i : Instr) (s : State) (a : SReg) : Option Word := (after i s).map (·.sreg a)

/-- R161's corners by hand: s3 = 5, s4 = −1. -/
theorem test_alu : (reg (.add 1 3 4) S 1 == some 4 && reg (.sub 1 63 3) S 1 == some (-5) && reg (.mul 1 4 4) S 1 == some 1 && reg (.mulh 1 4 3) S 1 == some (-1) &&
    reg (.mulhn 1 4 3) S 1 == some 4 && reg (.div 1 4 63) S 1 == some (-1) && reg (.divn 1 4 3) S 1 == some 0x3333333333333333 && reg (.rem 1 4 3) S 1 == some (-1) &&
    reg (.remn 1 3 63) S 1 == some 5 && reg (.andn 1 4 3) S 1 == some (-6) && reg (.sar 1 4 3) S 1 == some (-1) && reg (.shr 1 4 4) S 1 == some 1 && reg (.shl 1 3 4) S 1 == some 0x8000000000000000 &&
    reg (.rol 1 3 4) S 1 == some 0x8000000000000002 && reg (.min 1 3 4) S 1 == some (-1) && reg (.minn 1 3 4) S 1 == some 5 && reg (.max 1 3 4) S 1 == some 5 && reg (.maxn 1 3 4) S 1 == some (-1) &&
    reg (.clz 1 3) S 1 == some 61 && reg (.clz 1 63) S 1 == some 64 && reg (.popc 1 4) S 1 == some 64 && reg (.brev 1 3) S 1 == some 0xA000000000000000 && reg (.sext 1 3 2) S 1 == some (-3) &&
    reg (.zext 1 4 63) S 1 == some (-1) && reg (.set 1 3 4 .lt) S 1 == some 0 && reg (.set 1 3 4 .ltn) S 1 == some 1 && reg (.addi 1 3 0x2000) S 1 == some (-8187) &&
    reg (.sari 1 4 63) S 1 == some (-1) && reg (.li 1 0x200000000000) S 1 == some 0xFFFFE00000000000 && reg (.liHi 4 1) S 4 == some 0x1FFFFFFFF && reg (.sel 1 3 4 63) S 1 == some (-1)) = true := by decide +kernel

/-- The LOOP of the worked example after R189: s3 = 5 falls to 4 and the branch is taken; a target two words back. -/
theorem test_loop : ((after (.loop 3 (-2#20)) S).map (fun t => (t.sreg 3, t.pc)) == some (4, 0xFFFFF8)) = true := by decide +kernel
theorem test_mpush_melse : ((after (.mpush 1) (inTeam { T with masks := [(0, 0xFF), (1, 0x0F)] })).map (fun t => (t.mask 0, t.stack)) == some (0x0F, [0xFF]) &&
    (after .melse (inTeam { T with masks := [(0, 0x0F)], stack := [0xFF] })).map (fun t => (t.mask 0, t.stack)) == some (0xF0, [0xFF])) = true := by decide +kernel

/-! ### Clauses, stream commands (R53 to R64, R169 to R172) -/

/-- The clause header: one instruction, wait mask f1, setA f0, setB f11. -/
def hw0 : W32 := 0x3FF#10 ++ 1#4 ++ 2#12 ++ 0#4 ++ 0#2
def hw1 : W32 := 11#4 ++ 0#28
/-- The package with that header at the lane entry. -/
def HS : State := { S with mem := (State.reset.place 96 (hw0.toNat + hw1.toNat * 2 ^ 32)).mem }

theorem test_decode_header : ((decodeHeader hw0 hw1 0).toOption == some ⟨1, 2, 0, 11⟩ && (decodeHeader (hw0 ||| 1) hw1 0).toOption.isNone &&
    (decodeHeader (0x3FF#10 ++ 0#4 ++ 0#12 ++ 15#4 ++ 0#2) (15#4 ++ 0#28) 0).toOption.isNone) = true := by decide +kernel

theorem witness_ClauseLife_append :
    (∃ s1 hd, HS.fetchWords C.core placeBase 3 = (s1, .ok [hw0, hw1, 0]) ∧ decodeHeader hw0 hw1 0 = .ok hd) ∧
    (let t := { T with queue := List.replicate 16 CL }; (inTeam t).acts R (placeCrew t) t ∧ 16 ≤ t.queue.length) ∧
    HS.acts R C T ∧ T.queue.length < 16 ∧ HS.launchOf C = some placeLaunch ∧ (BitVec.ofNat 64 (recLentry placeLaunch.record) + 4#64 * (0#20).signExtend 64).toNat = placeBase :=
  ⟨⟨(HS.fetchWords C.core placeBase 3).1, ⟨1, 2, 0, 11⟩, by decide +kernel⟩, by decide +kernel⟩

/-- A clause that waits on f1, an older clause that holds f1, one that has made its instruction. -/
def clWait : Clause := { CL with uid := 1, wait := 2, started := false }
def clHeld : Clause := { CL with uid := 0, holds := 2 }
theorem witness_ClauseLife :
    (let t := { T with queue := [clWait] }; (inTeam t).teamAt R = some (placeCrew t, t) ∧ t.faulted = false ∧ (inTeam t).crewRuns (placeCrew t) = true ∧ clWait.started = false ∧
      (∀ x, x ∈ t.retired ++ t.queue → x.uid < clWait.uid → x.holds &&& clWait.wait = 0#12)) ∧
    (let t := { T with queue := [clWait], retired := [clHeld] }; (inTeam t).teamAt R = some (placeCrew t, t) ∧ t.faulted = false ∧
      (∃ x, x ∈ t.retired ++ t.queue ∧ x.uid < clWait.uid ∧ x.holds &&& clWait.wait ≠ 0#12)) ∧
    (let t := { T with queue := [CL], lidx := 1 }; (inTeam t).teamAt R = some (placeCrew t, t) ∧ (inTeam t).crewStops (placeCrew t) = true ∧ CL.started = true ∧ CL.count ≤ t.lidx ∧ t.lwaits = []) ∧
    (let t := { T with retired := [clHeld] }; clHeld ∈ t.retired ∧ t.clausePending clHeld.uid = false ∧ t.slots = [] ∧ t.growWant = none ∧ (∀ i, i ∈ (inTeam t).wlItems → i.team = R → i.clause ≠ clHeld.uid) ∧
      (∀ m, m ∈ (inTeam t).matrix → m.team = R → m.clause ≠ clHeld.uid)) ∧
    (let t := { T with retired := [clHeld], pending := [⟨1, 1, .lane, 0, 0, .glob 0 0, 32, .load 1 0, 0, 0⟩] }; t.clausePending clHeld.uid = true) := by
  decide +kernel

/-- Descriptor groups: s8 to s11 for STRM (counts 4, 2, 0, 0), s12 to s15 for QLD of one vector of tile 6. -/
def TS : Team := { T with sregs := [(2, 0x1000000), (3, 5), (8, 100), (9, 0x00020004), (10, 1), (11, 10), (12, 0x10006), (14, 1)] }
def CS : Crew := { placeCrew TS with tiles := [tile5, tile6], nextUid := 3 }
theorem witness_StreamCommands_issue :
    (inCrew CS).acts R CS TS ∧ TS.scq.length < 8 ∧ 0 < getElem 16 0 (TS.sregK 8 1) ∧ (getElem 16 1 (TS.sregK 8 1) = 0 → getElem 16 2 (TS.sregK 8 1) = 0) ∧
    (getElem 16 2 (TS.sregK 8 1) = 0 → getElem 16 3 (TS.sregK 8 1) = 0) ∧ getElem 16 0 (TS.sregK 16 1) = 0 ∧
    getElem 8 1 (TS.sregK 12 0) = 0 ∧ getElem 32 1 (TS.sregK 12 0) = 0 ∧ getElem 16 1 (TS.sregK 12 0) ≠ 0 ∧ CS.tile ((TS.sregK 12 0).setWidth 8) = some tile6 ∧ tile6.queue = false ∧ tile6.fmt ≠ 14#4 ∧
    (∀ v, v < getElem 16 1 (TS.sregK 12 0) → ∀ l, l < TS.lanes → ∀ j, j < 64 / tile6.width →
      tile6.inside ⟨(getElem 16 0 (TS.sregK 12 1) + l * getElem 16 0 (TS.sregK 12 2) + v * getElem 16 0 (TS.sregK 12 3)) % 2 ^ 16,
        (getElem 16 1 (TS.sregK 12 1) + l * getElem 16 1 (TS.sregK 12 2) + v * getElem 16 1 (TS.sregK 12 3)) % 2 ^ 16 + j,
        (getElem 16 2 (TS.sregK 12 1) + l * getElem 16 2 (TS.sregK 12 2) + v * getElem 16 2 (TS.sregK 12 3)) % 2 ^ 16,
        (getElem 16 3 (TS.sregK 12 1) + l * getElem 16 3 (TS.sregK 12 2) + v * getElem 16 3 (TS.sregK 12 3)) % 2 ^ 16⟩ = true) ∧
    TS.queue = [] ∧ TL.queue ≠ [] := by
  decide +kernel

/-- base 100, counts 4 and 2, steps 1 and 10. -/
def K0 : StreamCmd := ⟨0, 3, 100, 0x00020004, 1, 10, 0, 0, 0, 0, 1⟩
theorem witness_StreamCommands_delivery :
    (getElem 16 1 K0.r1 = 0 → getElem 16 2 K0.r1 = 0) ∧ (getElem 16 2 K0.r1 = 0 → getElem 16 3 K0.r1 = 0) ∧ 3 < getElem 16 0 K0.r1 ∧ 1 < max 1 (getElem 16 1 K0.r1) ∧
    0 < max 1 (getElem 16 2 K0.r1) ∧ 0 < max 1 (getElem 16 3 K0.r1) ∧ K0.kind = 0 ∧ { K0 with kind := 1 }.kind = 1 ∧
    (let t := { T with scq := [K0] }; (inTeam t).teamAt R = some (placeCrew t, t) ∧ (inTeam t).crewRuns (placeCrew t) = true ∧ K0.kind ≠ 2 ∧ K0.q < t.queues.length ∧ (t.queues.getD K0.q []).length < 8) := by
  decide +kernel

/-- A QLD of tile 6 from row 1, one element further for each lane; nothing before it is outstanding. -/
def K2 : StreamCmd := { K0 with kind := 2, q := 2, r0 := 0x10006, r1 := 1, r2 := 0x10000, r3 := 0, uid := 2 }
def CQ2 : Crew := { placeCrew { T with scq := [K2] } with tiles := [tile5, tile6.write ⟨1, 31, 0, 0⟩ none 0x77], nextUid := 3 }
theorem witness_StreamCommands_qld : let t := { T with scq := [K2] }; let s := inCrew CQ2
    s.teamAt R = some (CQ2, t) ∧ s.crewStops CQ2 = true ∧ K2.q < t.queues.length ∧ (t.queues.getD K2.q []).length < 8 ∧
    ∃ tl, CQ2.tileUid K2.uid = some tl ∧ s.qldWaits R t K2 tl ((List.range 32).map (fun i => 32 * (K2.sent % t.bands) + i)) (K2.sent / t.bands) = false ∧ tl.inside ⟨1, 31, 0, 0⟩ = true ∧
      tl.poisoned ⟨1, 31, 0, 0⟩ none = false ∧ tl.inside ⟨1, 64, 0, 0⟩ = false := by
  exact ⟨by decide +kernel, by decide +kernel, by decide +kernel, by decide +kernel, tile6.write ⟨1, 31, 0, 0⟩ none 0x77, by decide +kernel⟩
/-- R171 by hand: lane 31 receives element (1, 31). -/
theorem test_qld_values : ((after (.streamDeliver R 0) (inCrew CQ2)).map (fun t => (t.queues.getD 2 []).map (fun b => (b.extractLsb' (64 * 31) 64, b.extractLsb' (64 * 30) 64))) == some [(0x77, 0)]) = true := by decide +kernel

/-- R170 by hand: element 7 has digits 3 and 1, so 100 + 3·1 + 1·10; the delivery gives eight elements and zeros. -/
theorem test_stream_values : (K0.elem 7 == 113 &&
    ((after (.streamDeliver R 0) (inTeam { T with scq := [K0] })).map (fun t => ((t.queues.getD 3 []).map (fun b => (b.extractLsb' (64 * 7) 64, b.extractLsb' (64 * 8) 64)), t.scq)) == some ([(113, 0)], []))) = true := by decide +kernel
theorem test_lq : ((after (.lq 0) HS).map (fun t => (t.queue.map (fun cl => (cl.addr, cl.count, cl.wait, cl.holds)), t.pc)) == some ([(0x1000000, 1, 2, 0x801)], 0x1000004)) = true := by decide +kernel

/-! ### Scalar loads, stores, atomics, tags -/

/-- The state after the translation of the page, which a read or a write of it meets. -/
def S1 : State := (S.translate (some 0) 0 placeBase false).1
def SW1 : State := (S.translate (some 0) 0 placeBase true).1
theorem reaches_page : S.reaches C.core placeBase 4 false S1 placePage ∧ S.reaches C.core placeBase 4 true SW1 placePage :=
  ⟨⟨by decide +kernel, by decide +kernel, ⟨BitVec.ofNat 64 placeEntry, by decide +kernel, by decide +kernel⟩, by decide +kernel, by decide +kernel, by decide +kernel⟩,
   ⟨by decide +kernel, by decide +kernel, ⟨BitVec.ofNat 64 placeEntry, by decide +kernel, by decide +kernel⟩, by decide +kernel, by decide +kernel, by decide +kernel⟩⟩

/-- The same with an L1 copy of the page's first line, all ones. -/
def L1S : State := { S with l1 := [⟨0, placePage / 64, -1⟩] }
theorem reaches_L1 : L1S.reaches C.core placeBase 4 false (L1S.translate (some 0) 0 placeBase false).1 placePage :=
  ⟨by decide +kernel, by decide +kernel, ⟨BitVec.ofNat 64 placeEntry, by decide +kernel⟩, by decide +kernel⟩
theorem witness_ScalarAccesses :
    S.reaches C.core placeBase 4 false S1 placePage ∧ S.reaches C.core placeBase 4 true SW1 placePage ∧
    (∃ s1, L1S.reaches C.core placeBase 4 false s1 placePage ∧ s1.l1Copy C.core (placePage / 64) = some (-1) ∧ s1.lineBusy C.core (placePage / 64) R T.nextOrd = false) ∧
    S.acts R C T ∧ S.mpopClear R T = true ∧ (T.sreg 2 + (0#32).signExtend 64).toNat = placeBase ∧ T.sctr ≠ 0xFFFF#16 ∧
    S.olderOverlap R T .scalar T.nextOrd false (.glob placeBase placePage) 32 = false ∧ S1.l1Copy C.core (placePage / 64) = none ∧
    (L1S.acts R C T ∧ L1S.mpopClear R T = true ∧ L1S.olderOverlap R T .scalar T.nextOrd false (.glob placeBase placePage) 32 = false) ∧
    (T.sreg 5 + (0#32).signExtend 64).toNat % 4 ≠ 0 ∧ C.tile 5 = none ∧
    (ST.acts R CT T ∧ ST.mpopClear R T = true ∧ CT.element 5 (T.sreg 3) 32 tile5 ∧ tile5.poisoned (coordOf (T.sreg 3)) none = false ∧
      ST.olderOverlap R T .scalar T.nextOrd false (.tile 0 1 (coordOf (T.sreg 3)) none) 32 = false) :=
  ⟨reaches_page.1, reaches_page.2, ⟨_, reaches_L1, by decide +kernel⟩, by decide +kernel⟩

/-- A team with one outstanding access of the page's first word. -/
def TP (st : Stream) (k : AccKind) : Team := { T with pending := [⟨1, 1, st, 0, 0, .glob placeBase placePage, 32, k, 0, 0⟩], sctr := 1, lctr := 1, nextOrd := 2 }
def accOf (st : Stream) (k : AccKind) : Access := ⟨1, 1, st, 0, 0, .glob placeBase placePage, 32, k, 0, 0⟩
theorem witness_AccessesPerform :
    (∀ k, k ∈ [AccKind.store 7 0, .load 1 0, .atom .add 7 0 1 0] → ∀ st, st ∈ [Stream.scalar, .lane] →
      let t := TP st k
      (inTeam t).teamAt R = some (placeCrew t, t) ∧ (placeCrew t).place = some 0 ∧ t.pending[0]? = some (accOf st k) ∧ (inTeam t).mayPerform R t (accOf st k) = true ∧ (inTeam t).muted 0 (accOf st k).loc = false ∧ ({ inTeam t with silent := [(0, 0)] } : State).muted 0 (accOf st k).loc = true ∧
      (accOf st k).loc = .glob placeBase placePage ∧ placePage + (accOf st k).width / 8 ≤ 2 ^ 40 ∧ pteTracked ((inTeam t).pteOf placeBase) = false ∧
      (inTeam t).isDead placePage 4 = false ∧ (inTeam t).l1Copy 0 (placePage / 64) = none ∧ (∀ y, y ∈ t.pending.eraseIdx 0 → y.stream ≠ st ∨ y.req ≠ 1)) := by decide +kernel
/-- A lane's load whose home has given no answer for the guard's cycles. -/
theorem witness_AccessesPerform_guard : let x : Access := { accOf .lane (.load 1 0) with age := 2 ^ 22 }; let t := { T with pending := [x] }; let s : State := { inTeam t with silent := [(0, 0)] }
    s.teamAt R = some (placeCrew t, t) ∧ s.mayPerform R t x = true ∧ s.muted 0 x.loc = true ∧ dieGuard ≤ x.age ∧ (accOf .lane (.load 1 0)).age < dieGuard ∧ t.finished = false ∧ t.faulted = false ∧ t.restart = none ∧
    t.slots = [] ∧ t.again = [] ∧ (after (.longLatencyComplete R 0) s).map (fun t => (t.faulted, t.lfm, t.again.length, t.pending.length)) = some (true, 1, 1, 0) := by decide +kernel
/-- R166 by hand, .f32: 1.5 + 2.25 = 3.75; the least of a NaN and 1 is 1; the most of −0 and 0 is 0. -/
theorem test_float_atomics : (atomNew .fadd 32 0x3FC00000 0x40100000 0 == 0x40700000 && atomNew .fmin 32 0x7FC00000 0x3F800000 0 == 0x3F800000 && atomNew .fmax 32 0x80000000 0 0 == 0 &&
    atomNew .fmin 32 0x3F800000 0xC0000000 0 == 0xC0000000) = true := by decide +kernel
theorem witness_AccessesPerform_atomics :
    S.reaches C.core placeBase 4 true SW1 placePage ∧
    S.acts R C T ∧ S.mpopClear R T = true ∧ T.sctr ≠ 0xFFFF#16 ∧ (T.sreg 2).toNat = placeBase ∧
    S.olderOverlap R T .scalar T.nextOrd true (.glob placeBase placePage) 32 = false ∧ pteTracked (SW1.pteOf placeBase) = false ∧
    (ST.acts R CT T ∧ ST.mpopClear R T = true ∧ CT.element 5 (T.sreg 3) (8 * sizeBytes .i32) tile5 ∧ isFloatOp .min = false ∧
      tile5.poisoned (coordOf (T.sreg 3)) none = false ∧ tile5.tracked = false ∧
      ST.olderOverlap R T .scalar T.nextOrd true (.tile 0 1 (coordOf (T.sreg 3)) none) 32 = false ∧ ST.mmaHeld 0 1 (coordOf (T.sreg 3)) = false) :=
  ⟨reaches_page.2, by decide +kernel⟩

/-- Tile 5 with element (5, 0) full. -/
def tile5f : Tile := tile5.setTag ⟨5, 0, 0, 0⟩ none true
def CTf : Crew := { CT with tiles := [tile5f, tile6] }
/-- What waits for element (5, 0) to be full, and for it to be empty. -/
def wantFull : TagWant := ⟨0, 1, ⟨5, 0, 0, 0⟩, true, none⟩
def wantEmpty : TagWant := { wantFull with full := false }
/-- Team 0 as it stands, and a team 1 of the crew with a lane that has waited for `w` since before any wait to come. -/
def behind (c : Crew) (w : TagWant) : State :=
  { inCrew { c with teams := c.teams ++ [{ T with id := 1, lwaits := [⟨0, .lnop, none, 0, some w, 0, 0, 0⟩] }] } with nextWait := 1 }
/-- Team 0 with an outstanding store to element (5, 0). -/
def TPt : Team := { T with pending := [⟨0, 0, .scalar, 0, 0, .tile 0 1 ⟨5, 0, 0, 0⟩ none, 32, .store 7 0, 0, 0⟩], nextOrd := 1, sctr := 1 }
theorem witness_TaggedScalarAccesses :
    (∀ c, c ∈ [CT, CTf] → (inCrew c).acts R c T ∧ (inCrew c).mpopClear R T = true ∧ T.swait = none ∧
      (inCrew c).olderOverlap R T .scalar T.nextOrd false (.tile 0 1 (coordOf (T.sreg 3)) none) 64 = false ∧ T.streamIdle .scalar = true ∧ T.sctr ≠ 0xFFFF#16) ∧
    CT.element 5 (T.sreg 3) 32 tile5 ∧ CTf.element 5 (T.sreg 3) 32 tile5f ∧ tile5.tags = true ∧ tile5f.tags = true ∧ coordOf (T.sreg 3) = ⟨5, 0, 0, 0⟩ ∧
    (let c := CT.putTeam 0 TPt; (inCrew c).acts R c TPt ∧ (inCrew c).mpopClear R TPt = true ∧ TPt.swait = none ∧ c.element 5 (TPt.sreg 3) 32 tile5 ∧
      (inCrew c).olderOverlap R TPt .scalar TPt.nextOrd false (.tile 0 1 ⟨5, 0, 0, 0⟩ none) 32 = true ∧ TPt.streamIdle .scalar = false ∧ TPt.sctr ≠ 0xFFFF#16) ∧
    ((inCrew CTf).servable 0 wantFull = true ∧ tile5f.poisoned ⟨5, 0, 0, 0⟩ none = false) ∧
    ((behind CTf wantFull).tagHolds wantFull = true ∧ (behind CTf wantFull).servable 1 wantFull = false) ∧
    (ST.tagHolds wantFull = false ∧ ST.servable 0 wantFull = false) ∧
    (ST.mmaHeld 0 1 ⟨5, 0, 0, 0⟩ = false ∧ tile5.tracked = false ∧ ST.servable 0 wantEmpty = true) ∧
    ((behind CT wantEmpty).tagHolds wantEmpty = true ∧ (behind CT wantEmpty).servable 1 wantEmpty = false) ∧
    (inCrew CTf).tagHolds wantEmpty = false := by
  decide +kernel

/-- Bytes 00 00 00 78 at the page: loads by size; a store goes out with s3; SATOM.add returns the old value. -/
theorem test_scalar_memory : (reg (.sld 1 2 .n32 (.glob 0)) S 1 == some 0x78000000 && reg (.sld 1 2 .i8 (.glob 3)) S 1 == some 0x78 && reg (.sld 1 2 .d64 (.glob 0)) L1S 1 == some (-1) &&
    (after (.sst 3 2 .n8 (.glob 9)) S).map (fun t => (t.pending.map (fun a => (a.loc, a.width, a.kind)), t.sctr)) == some ([(.glob 0x1000009 0x20009, 8, .store 5 0)], 1) &&
    reg (.satom 1 2 3 .n32 .add .glob) S 1 == some 0x78000000 &&
    (match exec (.satom 1 2 3 .n32 .add .glob) S with | .next s => s.byteAt 0x20000 == 5 && s.byteAt 0x20003 == 0x78 | _ => false)) = true := by decide +kernel
theorem test_tagged_scalar : (((after (.sldf 1 3 7 .i32 5 0 true) (inCrew CTf)).map (fun t => (t.sreg 1, t.sreg 7, t.pc)) == some (0, 0, 0x1000008)) &&
    (after (.sldf 1 3 7 .i32 5 0 true) ST).map (fun t => (t.sreg 7, t.swait)) == some (1, none) && (after (.sldf 1 3 7 .i32 5 4 true) ST).map (fun t => t.swait.map (·.remaining)) == some (some (some 16)) &&
    (match exec (.sste 4 3 7 .i32 5 0) ST with | .next s => (s.tileAt 0 1).map (fun t => (t.read ⟨5, 0, 0, 0⟩ none, t.isFull ⟨5, 0, 0, 0⟩ none)) == some (0xFFFFFFFF, true) | _ => false)) = true := by decide +kernel

/-! ### Traps, system registers, fences (R186 to R189, R341 to R343) -/

/-- Privileged with a handler; unprivileged; with a handler running. -/
def TV : Team := { T with trapVec := 0x2000, trapPc := 0x1234 }
def TU : Team := { T with priv := false }
theorem witness_TrapEntryAndReturn :
    S.acts R C T ∧ T.priv = true ∧ TU.priv = false ∧ (inTeam TU).acts R (placeCrew TU) TU ∧ (inTeam TV).acts R (placeCrew TV) TV ∧
    (TV.priv = true ∧ TV.trapVec ≠ 0#56 ∧ TV.trapInh = false) ∧ (TU.priv = false) ∧ (T.trapVec = 0#56 ∧ { T with lfm := 1 }.trapVec = 0#56 ∧ { T with lfm := 1 }.lfm ≠ 0#1024) ∧ ({ TV with trapInh := true }.trapInh = true) ∧ 0x18 < 2 ^ 16 ∧ 4095 < 2 ^ 12 ∧
    (inTeam TL).laneAt R (placeCrew TL) TL CL ∧ TL.restart = none ∧ CL.mask ≠ 0#1024 ∧
    (let cl := { CL with mask := 0#1024 }; let t := { T with queue := [cl] }; (inTeam t).laneAt R (placeCrew t) t cl ∧ cl.mask = 0#1024) := by decide +kernel

/-- R187, R343 by hand: TRAP 7 of a privileged team goes on at the handler with the next pc saved; of an unprivileged one it stops the team. -/
theorem test_trap : ((after (.trap 7) (inTeam TV)).map (fun t => (t.pc, t.trapPc, t.trapCause, t.trapInh, t.faulted)) == some (0x2000, 0x1000004, 0x70010, true, false) &&
    (after (.trap 7) (inTeam TU)).map (fun t => (t.pc, t.trapPc, t.trapCause, t.trapInh, t.faulted)) == some (0x1000000, 0x1000004, 0x70010, false, true) &&
    (after .eret (inTeam TV)).map (fun t => (t.pc, t.trapInh)) == some (0x1234, false) && (after .eret (inTeam TU)).map (fun t => (t.trapCause, t.trapPc)) == some (0x17, 0x1000000)) = true := by decide +kernel

theorem witness_SystemRegisters :
    (let t := { T with ctxSel := BitVec.ofNat 14 (7 + 256 * 32) }; (inTeam t).acts R (placeCrew t) t ∧ t.priv = true ∧ 7 < 8 ∧ 1 ≤ 32 ∧ 32 ≤ 32 ∧ t.ctxSel.toNat = 7 + 256 * 32) ∧
    0x041 ≤ (0x041#12).toNat ∧ (0x060#12).toNat ≤ 0x060 ∧ (0x013#12).toNat ≤ 0x013 ∧ ((0x070#12).toNat = 0x070 ∧ TU.priv = false) ∧ S.launchOf C = some placeLaunch ∧
    (∀ q, q ∈ [(0, 0), (8, 0), (31, 32), (8, 1), (32, 1), (0, 63)] → let t := { T with ctxSel := BitVec.ofNat 14 (q.1 + 256 * q.2), stack := List.replicate 16 3 }; (inTeam t).acts R (placeCrew t) t ∧ t.priv = true ∧ t.ctxSel.toNat = q.1 + 256 * q.2 ∧
      (31 - 16 < t.stack.length ∧ t.mask 3 = t.mask 3)) ∧ (T.sreg 3).toNat % 2 ^ 32 ≤ 16 ∧ 16 < (T.sreg 2).toNat % 2 ^ 32 := by decide +kernel

theorem test_system_registers : (reg (.sysr 1 0x003) S 1 == some 32 && reg (.sysr 1 0x031) S 1 == some 64 && reg (.sysr 1 0x032) S 1 == some 1 && reg (.sysr 1 0x010) S 1 == some 16 &&
    reg (.sysr 1 0x00B) S 1 == some 1 && (after (.sysw 3 0x072) S).map (·.trapVec) == some 5 && (after (.sysw 3 0x072) (inTeam TU)).map (fun t => (t.trapVec, t.trapCause, t.faulted)) == some (0, 0x17, true) &&
    (after (.sysw 3 0x081) (inTeam { T with ctxSel := 0x101 })).map (fun t => t.mask 1) == some 5 &&
    (after (.sysw 3 0x081) (inTeam { T with ctxSel := 8, stack := [7] })).map (fun t => t.stack) == some [7, 0, 0, 0, 0] && (after (.sysw 2 0x081) (inTeam { T with ctxSel := 8 })).map (·.trapCause) == some 0x12 &&
    (after (.sysr 1 0x081) (inTeam { T with ctxSel := 0x20 })).map (·.trapCause) == some 0x12) = true := by decide +kernel

theorem witness_FencesAndExit :
    S.acts R C T ∧ T.queue = [] ∧ ¬(∃ a, a ∈ T.pending ∧ ∀ v st, a.kind ≠ .store v st) ∧ T.sctr = 0#16 ∧ T.lctr = 0#16 ∧ TL.queue ≠ [] ∧
    (∃ a, a ∈ (TP .lane (.load 1 0)).pending ∧ ∀ v st, a.kind ≠ .store v st) ∧ (TP .scalar (.store 7 0)).sctr ≠ 0#16 ∧ (TP .lane (.store 7 0)).lctr ≠ 0#16 ∧
    T.finished = false ∧ (∀ i, i ∈ S.wlItems → i.team ≠ R) ∧ T.slots = [] ∧ T.growWant = none := by
  refine ⟨by decide +kernel, rfl, by simp [T, placeTeam], rfl, rfl, by decide +kernel, ⟨accOf .lane (.load 1 0), by decide +kernel, by simp [accOf]⟩, by decide +kernel, by decide +kernel, rfl, by decide +kernel, rfl, rfl⟩

theorem test_fence_exit : ((after (.fenceAcq .device) L1S).map (·.pc) == some 0x1000004 && (match exec (.fenceAcq .device) L1S with | .next s => s.l1 == [] | _ => false) &&
    (match exec (.fenceAcq .crew) L1S with | .next s => s.l1 == L1S.l1 | _ => false) && (after (.fenceRel .team) (inTeam (TP .scalar (.store 7 0)))).map (·.pc) == some 0x1000000 &&
    (after .exit S).map (fun t => (t.exited, t.finished)) == some (true, true) && (after .exit (inTeam TL)).map (fun t => (t.exited, t.finished)) == some (true, false)) = true := by decide +kernel

/-! ### Tiles, layouts, bindings, gates -/

/-- s8, s9 a descriptor of a 64 × 64 tagged tile of 32-bit integers, s10 a bad one. -/
def TD : Team := { T with sregs := [(2, 0x1000000), (3, 5), (8, 0x0001000100400040), (9, 0x2002), (10, 0xF)] }
def CD : Crew := { placeCrew TD with tiles := [tile5, tile6], nextUid := 3 }
theorem witness_TileInstructions :
    (inCrew CD).acts R CD TD ∧ CD.tile 7 = none ∧ tileDescOk (TD.sreg 8) ((TD.sreg 9).setWidth 32) = true ∧
    (inCrew CD).granulesFit CD.core (mkTile CD.nextUid 7 (TD.sreg 8) ((TD.sreg 9).setWidth 32) false).granules = true ∧ (CD.tile 5).isSome = true ∧
    tileDescOk (TD.sreg 8) ((TD.sreg 10).setWidth 32) = false ∧ CD.tile 5 = some tile5 ∧ (inCrew CD).tileHeld 0 1 = false ∧
    (∀ u, u ∈ CD.tiles → u.handle = 5 → u.freed = false → u.uid = tile5.uid) ∧ (∀ u, u ∈ CD.tiles → u.uid = tile5.uid → u.handle = 5) ∧
    (let s := { inCrew CD with matrix := [{ id := 1, core := 0, team := R, clause := 0, ord := 0, step := 0, instr := .mma { hd 14 with dst := 0 } ⟨5, 5, 3, 3, 0⟩, src := [0, 0, 1], uidA := 1, uidB := 1 }] }
     s.acts R CD TD ∧ s.tileHeld 0 1 = true) := by decide +kernel

/-- R93, R115 by hand: the tile of 64 × 64 words takes 4 granules of 4 KiB; TDESC reads the descriptor with the allocated bit. -/
theorem test_tiles : (tile5.granules == 4 && (after (.talloc 1 8 9 7) (inCrew CD)).map (fun t => (t.sreg 1, t.pc)) == some (0, 0x1000008) && reg (.talloc 1 8 9 5) (inCrew CD) 1 == some 7 &&
    reg (.tdesc 20 5) (inCrew CD) 20 == some 0x0001000100400040 && (reg (.tdesc 20 5) (inCrew CD) 21).map (fun v => v.extractLsb' 0 15) == some 0x2002 && reg (.tdesc 20 7) (inCrew CD) 21 == some 0 &&
    (match exec (.tfree 5) (inCrew CD) with | .next s => (s.crews.map (fun c => (c.tile 5).isNone)) == [true] | _ => false)) = true := by decide +kernel

/-- Tile 5 in conversion to tag 1, one block before its end. -/
def tile5v : Tile := { tile5 with conv := some { target := 1, done := 3, order := 0 } }
def CV : Crew := { CT with tiles := [tile5v, tile6] }
def tileQ : Tile := mkTile 3 7 0x0001000100040008 0x4006 false
theorem witness_LayoutConversions :
    ST.acts R CT T ∧ CT.tile 5 = some tile5 ∧ tileQ.queue = true ∧ layoutOk tile5.fmt 15 = false ∧ tile5.queue = false ∧ layoutOk tile5.fmt 1 = true ∧ (tile5.tags = true → 32 ≤ tile5.width) ∧
    (tile5.fmt = 14#4 → (1#4) = tile5.layout) ∧ tile5.conv = none ∧ (1#4) ≠ tile5.layout ∧ (0#4) = tile5.layout ∧ ST.granulesFit CT.core (ceilDiv (tile5.shapeAs 1).size 4096) = true ∧
    (inCrew CV).acts R CV T ∧ CV.tile 5 = some tile5v ∧ tile5v.conv.isSome = true ∧ CV.place = some 0 ∧ (∀ o, o ∈ (inCrew CV).convOrders 0 → 0 ≤ o) ∧ tile5v.newBlocks ≤ 3 + 1 ∧ 0 + 1 < tile5v.newBlocks ∧
    tile5v.fmt ≠ 14#4 ∧ layoutOk tile5v.fmt tile5v.layout.toNat = true ∧ layoutOk tile5v.fmt 1 = true ∧ tile5v.tags = true ∧ 32 ≤ tile5v.width ∧ (∀ v, tile5v.conv = some v → (∀ w, w ∈ v.full → w < 1024 * v.done) ∧ v.done = 3) ∧
    (∀ x, x ∈ [⟨0, 0, 0, 0⟩, ⟨63, 63, 0, 0⟩] → tile5v.inside x = true) := by decide +kernel

/-- The page with a descriptor of a one-dimensional tensor of 16 words at its own start, in .f32. -/
theorem test_layout : (reg (.layout 1 5 1) ST 1 == some 0 && reg (.layout 1 5 15) ST 1 == some 7 && (after (.lwait 5) (inCrew CV)).map (·.pc) == some 0x1000000 &&
    (match exec (.layoutBlockConvert 0 5) (inCrew CV) with | .next s => (s.tileAt 0 1).map (fun t => (t.conv, t.layout)) == some (none, 1) | _ => false)) = true := by decide +kernel

/-- What an operation that may fail answers. -/
def okOr (d : State) (x : Except Stop State) : State := match x with | .ok s => s | .error _ => d

/-- The page starts with a descriptor of a 4 × 4 tensor in .f32 at the page's own address. -/
def descW : Nat := 0x1000000 + 2 ^ 64 * 8 + 2 ^ 128 * 4 + 2 ^ 160 * 4 + 2 ^ 192 + 2 ^ 224 + 2 ^ 256 + 2 ^ 288
def SD : State := { S with mem := writeLE S.mem placePage 64 descW }
def SD1 : State := (SD.translate (some 0) 0 placeBase false).1
theorem reaches_descriptor : SD.reaches C.core placeBase 64 false SD1 placePage :=
  ⟨by decide +kernel, by decide +kernel, ⟨BitVec.ofNat 64 placeEntry, by decide +kernel⟩, by decide +kernel⟩
theorem witness_BindAndFill :
    SD.reaches C.core placeBase 64 false SD1 placePage ∧ SD.acts R C T ∧ (T.sreg 5).toNat % 64 ≠ 0 ∧
    SD1.olderOverlap R T .scalar T.nextOrd false (.glob placeBase placePage) 512 = false ∧
    SD1.l1Copy C.core (placePage / 64) = none ∧ descOk (BitVec.ofNat 512 (readLE SD1.mem placePage 64)) = true ∧
    ST.acts R CT T ∧ CT.tile 5 = some tile5 ∧ CT.tileUid 1 = some tile5 ∧ tile5.queue = false ∧ tile5.tracked = false ∧ ST.tileHeld 0 1 = false ∧
    T.fillWaits 0 1 [] = false ∧ CT.tile 9 = none :=
  ⟨reaches_descriptor, by decide +kernel⟩
/-- ZFILL of that tensor, its page bound or not. -/
def SZ (m : Memory) : State := { inCrew { C with globals := [(63, BitVec.ofNat 512 descW)] } with mem := m }
def SZ1 (m : Memory) : State := ((SZ m).translate none 0 placeBase true).1
theorem witness_BindAndFill_tensor : let c := { C with globals := [(63, BitVec.ofNat 512 descW)] }; let d := BitVec.ofNat 512 descW
    (SZ S.mem).acts R c T ∧ cellGet c.globals 63 = d ∧ d ≠ 0 ∧ descBase d = placeBase ∧ (descShape d).size = 64 ∧ (SZ S.mem).rangeOf placeBase = some placeRange ∧
    placeBase + 64 ≤ placeRange.base + ((placeBase - placeRange.base) / pageSize placeRange.z + 1) * pageSize placeRange.z ∧
    (SZ S.mem).translate none (coreDie c.core) placeBase true = (SZ1 S.mem, .ok placePage (BitVec.ofNat 64 placeEntry)) ∧ pteScm (BitVec.ofNat 64 placeEntry) = false ∧ pteTracked (BitVec.ofNat 64 placeEntry) = false ∧
    placePage + 64 ≤ 2 ^ 40 ∧ (SZ1 S.mem).isDead placePage 64 = false ∧ T.fillWaits R.crew 0 [(placeBase, placePage, 64, BitVec.ofNat 64 placeEntry)] = false ∧
    (SZ []).translate none (coreDie c.core) placeBase true = (SZ1 [], .empty placeRange.z) ∧ cellGet c.globals 62 = 0#512 := by decide +kernel
theorem test_bind_fill : (reg (.gbind 1 2 63) SD 1 == some 0 && (match exec (.gbind 1 2 63) SD with | .next s => s.crews.map (fun c => cellGet c.globals 63) == [BitVec.ofNat 512 descW] | _ => false) &&
    reg (.gbind 1 5 63) SD 1 == some 7 && reg (.zfill 1 3 (.tensor 63)) (SZ S.mem) 1 == some 0 && reg (.zfill 1 3 (.tensor 63)) (SZ []) 1 == some 8 && reg (.zfill 1 3 (.tensor 62)) (SZ S.mem) 1 == some 7 &&
    (match exec (.zfill 1 3 (.tensor 63)) (SZ S.mem) with | .next s => readLE s.mem 0x20000 4 == 0 | _ => false) && (match exec (.zfill 1 3 (.tile 5)) (inCrew CTf) with | .next s => (s.tileAt 0 1).map (fun t => (t.full, t.bstep)) == some ([], 5) | _ => false)) = true := by decide +kernel

/-- A gate of 64 bits at (5, 0) of tile 6: need 2, got 1, nothing owed, phase 7; s3 its place, s8 the token 7, s9 the token 6. -/
def gateW : Word := BitVec.ofNat 64 (7 + 2 ^ 16 * 2 + 2 ^ 32 * 1)
def TG : Team := { T with sregs := [(2, 0x1000000), (3, 5), (8, 7), (9, 6), (10, 3)] }
def CG : Crew := { placeCrew TG with tiles := [tile5, tile6.write ⟨5, 0, 0, 0⟩ none gateW.toNat], nextUid := 3 }
theorem witness_GateInstructions :
    (let tl := tile6.write ⟨5, 0, 0, 0⟩ none gateW.toNat
     (inCrew CG).acts R CG TG ∧ coordOf (TG.sreg 3) = ⟨5, 0, 0, 0⟩ ∧ CG.tile 6 = some tl ∧ CG.tileUid tl.uid = some tl ∧ (tl.fmt = 3#4 ∨ tl.fmt = 7#4) ∧ tl.inside ⟨5, 0, 0, 0⟩ = true ∧ tl.tags = true ∧
     tl.tracked = false ∧ (inCrew CG).mmaHeld 0 tl.uid ⟨5, 0, 0, 0⟩ = false ∧ (∀ w, w ∈ [false, true] → (inCrew CG).olderOverlap R TG .scalar TG.nextOrd w (.tile 0 tl.uid ⟨5, 0, 0, 0⟩ none) 64 = false) ∧ TG.streamIdle .scalar = true ∧
     tl.poisoned ⟨5, 0, 0, 0⟩ none = false ∧ TG.swait = none ∧ (gatePhase gateW + 65536 - (TG.sreg 8).toNat % 65536) % 65536 = 0 ∧ (gatePhase gateW + 65536 - (TG.sreg 9).toNat % 65536) % 65536 ≠ 0) ∧
    ((0 < 1 ∨ 0 < 0) ∧ gateNeed gateW ≤ min (gateGot gateW + 1) 65535 ∧ min (gateBytes gateW + 0 - 0) 65535 = 0) ∧ ¬((0 < 0 ∨ 0 < 0) ∧ gateNeed gateW ≤ min (gateGot gateW + 0) 65535 ∧ min (gateBytes gateW + 5 - 0) 65535 = 0) := by
  decide +kernel

/-- R103, R104 by hand: the second of two arrivals advances the phase and GARRIVE returns the old one. -/
theorem test_gates : (reg (.garrive 1 3 6) (inCrew CG) 1 == some 7 && reg (.gwait 1 3 9 6 0) (inCrew CG) 1 == some 0 && reg (.gwait 1 3 8 6 0) (inCrew CG) 1 == some 1 && reg (.gwait 1 3 10 6 0) (inCrew CG) 1 == some 2 &&
    (match exec (.garrive 1 3 6) (inCrew CG) with | .next s => (s.tileAt 0 2).map (fun t => let g : Word := BitVec.ofNat 64 (t.read ⟨5, 0, 0, 0⟩ none); (gatePhase g, gateGot g, gateNeed g)) == some (8, 0, 2) | _ => false) &&
    (match exec (.gexpect 3 10 6) (inCrew CG) with | .next s => (s.tileAt 0 2).map (fun t => let g : Word := BitVec.ofNat 64 (t.read ⟨5, 0, 0, 0⟩ none); (gatePhase g, gateGot g, gateBytes g)) == some (7, 1, 3) | _ => false)) = true := by decide +kernel

/-! ### Registers, regions, locality -/

def TR : Team := { T with sregs := [(2, 0x1000000), (3, 5), (4, 0xFFFFFFFFFFFFFFFF), (8, 64), (9, 72), (10, 56), (11, 520), (12, 512), (13, 8)] }
/-- A crew of 1,024 lanes by 64 registers; two crews that fill the core. -/
def TBig : Team := { TR with lanes := 1024 }
def TFull : Team := { TBig with regs := 96 }
def SFull : State := { W with crews := [placeCrew { TR with lanes := 512 }, placeCrew TFull] }
theorem witness_RegistersRegionsAndCapacity :
    (inTeam TR).acts R (placeCrew TR) TR ∧ (TR.sreg 3).toNat % 8 ≠ 0 ∧ (TR.sreg 10).toNat < TR.regs ∧ 512 < (TR.sreg 11).toNat ∧ (TR.sreg 8).toNat % 8 = 0 ∧ (TR.sreg 8).toNat ≤ 512 ∧ (TR.sreg 8).toNat = TR.regs ∧
    ((inTeam TBig).acts R (placeCrew TBig) TBig ∧ (TBig.sreg 12).toNat ≤ 512 ∧ TBig.regs < (TBig.sreg 12).toNat ∧ 131072 < (placeCrew TBig).footprint + TBig.lanes * ((TBig.sreg 12).toNat - TBig.regs)) ∧
    (TR.regs < (TR.sreg 9).toNat ∧ (TR.sreg 9).toNat % 8 = 0 ∧ (placeCrew TR).footprint + TR.lanes * ((TR.sreg 9).toNat - TR.regs) ≤ 131072 ∧
      (inTeam TR).coreRegsUsed 0 + TR.lanes * ((TR.sreg 9).toNat - TR.regs) ≤ 131072 ∧ (inTeam TR).growBefore 0 ((inTeam TR).scalarBegan TR) = false ∧ (inTeam TR).growBefore 0 (inTeam TR).nextWait = false ∧
      (∀ k, k ∈ (inTeam TR).residents 0 → ∀ x, x ∈ (inTeam TR).crewAt k → x.mirrored = false) ∧ R.crew ∈ (inTeam TR).residents 0) ∧
    (let t := { TR with lanes := 512 }; SFull.acts R (placeCrew t) t ∧ t.regs < (t.sreg 9).toNat ∧ (placeCrew t).footprint + t.lanes * ((t.sreg 9).toNat - t.regs) ≤ 131072 ∧
      131072 < SFull.coreRegsUsed 0 + t.lanes * ((t.sreg 9).toNat - t.regs)) ∧
    ((TR.sreg 13).toNat % 8 = 0 ∧ 8 ≤ (TR.sreg 13).toNat ∧ (TR.sreg 13).toNat ≤ TR.regs ∧ (inTeam TR).destAbove R (placeCrew TR) TR 8 = false ∧ TR.growWant = none) ∧ TR.regs < (TR.sreg 9).toNat ∧
    TR.guardDepth ≠ 15#4 ∧ TR.guardDepth = 0#4 ∧ { TR with guardDepth := 15 }.guardDepth = 15#4 ∧ { TR with guardDepth := 15 }.guardDepth ≠ 0#4 ∧ (inTeam TR).units = [] ∧ TR.nopreDepth ≠ 15#4 ∧ TR.nopreDepth = 0#4 ∧
    { TR with nopreDepth := 15 }.nopreDepth = 15#4 ∧ { TR with nopreDepth := 1 }.nopreDepth ≠ 0#4 ∧
    (placeCrew TR).core < 192 ∧ 2 ^ 56 ≤ (TR.sreg 4).toNat ∧ (inTeam TR).rangeOf (TR.sreg 3).toNat = none ∧ (TR.sreg 2).toNat < 2 ^ 56 ∧ (inTeam TR).inTether (TR.sreg 2).toNat = false ∧
    (inTeam TR).rangeOf (TR.sreg 2).toNat = some placeRange ∧ pteV ((inTeam TR).pte placeRange (TR.sreg 2).toNat) = true ∧ pteScm ((inTeam TR).pte placeRange (TR.sreg 2).toNat) = false ∧
    pteFrame ((inTeam TR).pte placeRange (TR.sreg 2).toNat) < 2 ^ 40 ∧ pteV (State.pte { inTeam TR with mem := [] } placeRange (TR.sreg 2).toNat) = false := by
  and_intros <;> decide +kernel
theorem test_registers : ((after (.rgrow 1 9 0) (inTeam TR)).map (fun t => (t.regs, t.sreg 1)) == some (72, 0) && (after (.rgrow 1 12 0) (inTeam TBig)).map (fun t => (t.regs, t.sreg 1)) == some (64, 7) &&
    (after (.rgrow 1 9 0) SFull).map (fun t => (t.regs, t.sreg 1)) == some (64, 1) && (after (.rgrow 1 3 0) (inTeam TR)).map (·.trapCause) == some 0x12 &&
    (after (.rshrink 13) (inTeam { TR with vregs := [(7 * 1024, 3), (8 * 1024, 4)] })).map (fun t => (t.regs, t.vreg 7 0, t.vreg 8 0)) == some (8, 3, 0) &&
    (after .guardEnd (inTeam TR)).map (·.trapCause) == some 0x12 && (after .nopreBegin (inTeam TR)).map (·.nopreDepth) == some 1 &&
    reg (.capq 1) (inTeam TR) 1 == some 0x103000C000000000 && reg (.locq 1 63) (inTeam TR) 1 == some 0 && reg (.locq 1 4) (inTeam TR) 1 == some 0x8000 && reg (.locq 1 2) (inTeam TR) 1 == some 0) = true := by decide +kernel

/-! ### Engine commands -/

def cmd0 : Command := { id := 1, xred := false, crew := 0, team := 0, core := 0, ticket := 0x000100000000, words := 0, swin := windowReset, dwin := windowReset, sdesc := 0, ddesc := 0, suid := 1, duid := 0, guid := 0, ord := 0, clauses := 0 }
/-- s8 to s11: a copy of one element of tile 5 to tile 7 that stamps the page's second word. -/
def TE : Team := { T with sregs := [(2, 0x1000000), (3, 1), (8, BitVec.ofNat 64 (5 + 2 ^ 9 * 7 + 2 ^ 37 + 2 ^ 39)), (9, 0x1000008)] }
def tile7 : Tile := mkTile 3 7 0x0001000100400040 0x2 false
def CE : Crew := { placeCrew TE with tiles := [tile5, tile7], nextUid := 4 }
def SE : State := inCrew CE
/-- The same copy that signals the gate (5, 0) of tile 6. -/
def TGt : Team := { TE with sregs := [(8, BitVec.ofNat 64 (5 + 2 ^ 9 * 7 + 2 ^ 37 * 2 + 2 ^ 39 + 2 ^ 43 * 6)), (9, 5)] }
def tileG : Tile := tile6.write ⟨5, 0, 0, 0⟩ none gateW.toNat
def CGt : Crew := { placeCrew TGt with tiles := [tile5, tileG, tile7], nextUid := 4 }
def SGt : State := inCrew CGt
theorem witness_EngineInstructions :
    (∃ s1, S.reaches C.core (T.sreg 2).toNat 8 false s1 placePage ∧ BitVec.ofNat 64 (readLE s1.mem placePage 8) ≠ T.sreg 3 ∧
      s1.olderOverlap R T .scalar T.nextOrd false (.glob (T.sreg 2).toNat placePage) 64 = false) ∧
    S.acts R C T ∧ T.swait = none ∧
    SE.acts R CE TE ∧ (SE.commands.filter (fun m => m.core == CE.core)).length < 128 ∧
    ((TE.sregK 8 0).extractLsb' 8 1 = 0#1 ∧ CE.tile ((TE.sregK 8 0).extractLsb' 0 8) = some tile5 ∧ (TE.sregK 8 0).extractLsb' 17 1 = 0#1 ∧ CE.tile ((TE.sregK 8 0).extractLsb' 9 8) = some tile7) ∧
    (SGt.acts R CGt TGt ∧ (TGt.sregK 8 0).extractLsb' 37 2 = 2#2 ∧ CGt.tile ((TGt.sregK 8 0).extractLsb' 43 8) = some tileG) ∧
    (let s := { SE with commands := List.replicate 128 cmd0 }; s.acts R CE TE ∧ 128 ≤ (s.commands.filter (fun m => m.core == CE.core)).length) ∧
    (∀ m, m ∈ SE.commands → ¬((m.crew = R.crew ∧ m.team = R.team) ∧ ((TE.sreg 3).setWidth 16 - m.ticket.extractLsb' 32 16).toNat < 32768)) ∧
    (let s := { SE with commands := [cmd0] }; s.acts R CE TE ∧ (cmd0 ∈ s.commands ∧ (cmd0.crew = R.crew ∧ cmd0.team = R.team) ∧ ((TE.sreg 3).setWidth 16 - cmd0.ticket.extractLsb' 32 16).toNat < 32768)) ∧
    (∀ m, m ∈ SE.commands → m.crew = R.crew ∧ m.team = R.team → m.writesScm = false) ∧ SE.span.count.toNat < 10 ∧ SE.pspanOpen = [] ∧
    (let m := { cmd0 with words := 2 ^ 17, ddesc := BitVec.ofNat 512 (2 ^ 77) }; m.writesScm = true ∧ (m.crew = R.crew ∧ m.team = R.team)) ∧ SE.comet.tooNew ((TE.sreg 3).setWidth 32) = false :=
  ⟨⟨S1, ⟨by decide +kernel, by decide +kernel, ⟨BitVec.ofNat 64 placeEntry, by decide +kernel⟩, by decide +kernel⟩, by decide +kernel⟩, by decide +kernel⟩

/-- The package with that copy issued and its element moved; and one whose command names no version. -/
def SC0 : State := match exec (.xcopy 1 8) SE with | .next s => s | _ => SE
def cmd1 : Command := match SC0.commands with | m :: _ => { m with done := [0] } | [] => cmd0
def SC : State := { SC0 with commands := [cmd1] }
def cmdBad0 : Command := { cmd1 with words := cmd1.words &&& ~~~(0x78000000000#256), done := [] }
theorem witness_CommandSignals :
    ∀ m, m ∈ [cmd1, cmdBad0] →
      let s := { SC with commands := [m] }
      let s1 := (s.translate none (coreDie m.core) m.signal.toNat true).1
      s.commands = [m] ∧ m.isSpan = false ∧ m.rel = false ∧ m.persist = false ∧ m.rootFail = false ∧ (∀ p, p < s.cmdPositions m → p ∈ m.done) ∧ s.cmdPositions m ≤ m.done.length ∧ m.sig = 1 ∧
      m.signal.toNat % 8 = 0 ∧ m.signal.toNat < 2 ^ 56 ∧ s.translate none (coreDie m.core) m.signal.toNat true = (s1, .ok (placePage + 8) (BitVec.ofNat 64 placeEntry)) ∧ pteScm (BitVec.ofNat 64 placeEntry) = false ∧
      pteTracked (BitVec.ofNat 64 placeEntry) = false ∧ placePage + 8 + 8 ≤ 2 ^ 40 ∧ s1.isDead (placePage + 8) 8 = false ∧
      (∀ k, k < 2 → s.crewAt k = none ∨ s.crewAt k = some (s.crews.getD 0 CE) ∧ (s.crews.getD 0 CE).state = .live ∧ ∃ t, t ∈ (s.crews.getD 0 CE).teams ∧ t.exited = false ∧ t.finished = false) := by
  decide +kernel
theorem witness_CommandSignals_crews (k : Nat) (h : 2 ≤ k) : SC.crewAt k = none := by
  have : SC.crews.length = 1 := by decide +kernel
  simp [State.crewAt, List.getElem?_eq_none (by omega : SC.crews.length ≤ k)]
/-- The gate form, its element moved. -/
def SGt0 : State := match exec (.xcopy 1 8) SGt with | .next s => s | _ => SGt
def cmdGt : Command := match SGt0.commands with | m :: _ => { m with done := [0] } | [] => cmd0
theorem witness_CommandSignals_gate : let s := { SGt0 with commands := [cmdGt] }; let c := s.crews.getD 0 CGt
    s.commands = [cmdGt] ∧ cmdGt.isSpan = false ∧ cmdGt.rel = false ∧ cmdGt.persist = false ∧ cmdGt.rootFail = false ∧ (∀ p, p < s.cmdPositions cmdGt → p ∈ cmdGt.done) ∧ s.cmdPositions cmdGt ≤ cmdGt.done.length ∧ cmdGt.sig = 2 ∧
    s.signalOk cmdGt = true ∧ s.crewAt cmdGt.crew = some c ∧ c.state = .live ∧ (c.teams.any (fun t => !t.exited && !t.finished)) = true ∧ c.tile 6 = some tileG ∧ c.tileUid tileG.uid = some tileG ∧ tileG.uid = cmdGt.guid ∧
    tileG.tracked = false ∧ s.mmaHeld cmdGt.crew tileG.uid (coordOf cmdGt.signal) = false := by decide +kernel
/-- R103, R264 by hand: four bytes of payload are one unit; nothing is owed, so the phase stays and no arrival is counted. -/
theorem test_gate_signal : (match exec (.commandSignal cmdGt.id) { SGt0 with commands := [{ cmdGt with id := cmdGt.id }] } with
    | .next s => (s.tileAt 0 2).map (fun t => let g : Word := BitVec.ofNat 64 (t.read ⟨5, 0, 0, 0⟩ none); (gatePhase g, gateGot g, gateBytes g)) == some (7, 1, 0) | _ => false) = true := by decide +kernel

/-- One element between tile 5 and tile 7, or the tensor of integers at the page's start. -/
def desc2 : BitVec 512 := BitVec.ofNat 512 (0x1000000 + 2 ^ 64 * 2 + 2 ^ 128 * 4 + 2 ^ 160 * 4 + 2 ^ 192 + 2 ^ 224 + 2 ^ 256 + 2 ^ 288)
def cmdE (red : Bool) (src dst : Nat) (more : BitVec 256) (so do_ : BitVec 256) : Command :=
  { cmd1 with xred := red, done := [], words := BitVec.ofNat 256 (2 ^ 37 + 2 ^ 39 + src + dst + 2 ^ 64 * 0x1000008) ||| more, sdesc := desc2, ddesc := desc2, swin := windowReset ||| so, dwin := windowReset ||| do_ }
def SCe (m : Command) : State := { SC with commands := [m] }
theorem witness_CommandSignals_elements (red : Bool) (src dst : Nat) (hs : src = 5 ∨ src = 2 ^ 8) (hd : dst = 2 ^ 9 * 7 ∨ dst = 2 ^ 17) :
    let m := cmdE red src dst 0 0 0; let s := SCe m
    s.commands = [m] ∧ m.acq = false ∧ m.isSpan = false ∧ m.rootFail = false ∧ (s.cmdSrc m) = some (if src = 5 then .tile tile5 else .tensor desc2) ∧ (s.cmdDst m) = some (if src = src ∧ dst = 2 ^ 17 then .tensor desc2 else .tile tile7) ∧
    0 < s.cmdPositions m ∧ 0 ∉ m.done ∧ m.waiting = none ∧ m.blocks = [] ∧ s.matrix = [] ∧ m.decomp = false ∧ (winE m.swin).getD m.axis 1 = 1 := by
  cases red <;> rcases hs with rfl | rfl <;> rcases hd with rfl | rfl <;> decide +kernel
theorem pageBound_place (m : Command) (n : Nat) (wr : Bool) (hn : n ≤ 65 * 64) : (SCe m).pageBound 0x1000000 n placePage (BitVec.ofNat 64 placeEntry) wr := by
  have h : ∀ a, a < 65 → ∀ b, b < 64 → 0x1000000 + (64 * a + b) < 2 ^ 56 ∧ SC.inTether (0x1000000 + (64 * a + b)) = false ∧ SC.rangeOf (0x1000000 + (64 * a + b)) = some placeRange := by decide +kernel
  refine ⟨by simp only [placePage]; omega, placeRange, ?_, by show SC.pte _ _ = _; decide +kernel, by show SC.isDead _ _ = _; decide +kernel, by decide +kernel, by decide +kernel, fun _ => by decide +kernel, by decide +kernel, ?_⟩
  · intro i hi
    have := h (i / 64) (by omega) (i % 64) (by omega)
    rwa [show 64 * (i / 64) + i % 64 = i by omega] at this
  · have : (0x1000000 - placeRange.base) % pageSize placeRange.z + 65 * 64 ≤ pageSize placeRange.z := by decide +kernel
    omega
/-- A read of either source, a destination that takes it, an address outside either, an element older than the buffer's step. -/
theorem witness_CommandSignals_elements_ends :
    (let m := cmdE false 5 (2 ^ 9 * 7) 0 0 0; let s := SCe m; s.cmdRead m (.tile tile5) (m.srcAt 0 0) = (s, .ok (0, none)) ∧ tile7.tags = false ∧ tile7.fmt ≠ 14#4 ∧ tile7.tracked = false ∧ tile7.shape.inside (m.dstAt 0) = true ∧
      s.tileAt m.crew tile7.uid = some tile7 ∧ s.mmaHeld m.crew tile7.uid (coord4 (m.dstAt 0)) = false ∧ tile5.poisoned (coord4 (m.srcAt 0 0)) none = false ∧
      (match s.teamAt m.ref with | some (_, t) => s.olderOverlap m.ref t .scalar m.ord false (.tile m.crew tile5.uid (coord4 (m.srcAt 0 0)) none) 64 | none => true) = false) ∧
    (descFmt desc2 ≠ 14#4 ∧ descScm desc2 = false ∧ (descShape desc2).inside ((cmdE false 5 (2 ^ 17) 0 0 0).dstAt 0) = true ∧ SC.dead = [] ∧ descElem desc2 ((cmdE false 5 (2 ^ 17) 0 0 0).dstAt 0) none = (0x1000000, 0) ∧ pteTracked (BitVec.ofNat 64 placeEntry) = false) ∧
    (let m := cmdE false 5 (2 ^ 9 * 7) 0 0 64; let s := SCe m; 0 < s.cmdPositions m ∧ tile7.shape.inside (m.dstAt 0) = false ∧ s.cmdGroup m (.tile tile7) 0 = [0]) ∧
    (let m := cmdE false 5 (2 ^ 9 * 7) 0 64 0; let s := SCe m; tile7.shape.inside (m.dstAt 0) = true ∧ s.cmdGroup m (.tile tile7) 0 = [0] ∧ s.cmdRead m (.tile tile5) (m.srcAt 0 0) = (s, .error (.code stBounds))) ∧
    (let m := cmdE true 5 (2 ^ 9 * 7) 0 0 0; let s := SCe m; s.cmdTerms m (.tile tile5) (.tile tile7) 0 1 = (s, .ok ([0], [], none)) ∧ tagOlder m.step tile7.bstep = false ∧ tile7.poisoned (coord4 (m.dstAt 0)) none = false ∧
      tagOlder m.step { tile7 with bstep := 1 }.bstep = true ∧ tagOlder m.step (cellGet s.lineStep (placePage / 64)) = false ∧ s.isPoisoned placePage 4 = false) ∧
    tagOlder 0 (cellGet ({ SC with lineStep := [(placePage / 64, 1)] } : State).lineStep (placePage / 64)) = true ∧
    (SC.rangeOf (0x1000000 + 2 ^ 24) = none) := by
  and_intros <;> decide +kernel
/-- A compressed block of zeros; headers of the methods' ranges; payloads of methods 2 and 3. -/
def SCb (h : Nat) : State := { SCe (cmdE false (2 ^ 8) (2 ^ 9 * 7) (2 ^ 32) 0 0) with mem := writeLE SC.mem placePage 8 h }
theorem witness_CommandSignals_elements_blocks :
    (let m := cmdE false (2 ^ 8) (2 ^ 9 * 7) (2 ^ 32) 0 0; m.decomp = true ∧ (match ((SCb 1).cmdBlock m desc2 0).2 with | .ok (_, none) => true | _ => false) = true ∧ (match ((SCb 4).cmdBlock m desc2 0).2 with | .error (.code k) => k | _ => 0) = stDecomp ∧
      (SCb 1).isPoisoned placePage 4104 = false ∧ readLE (SCb 1).mem placePage 8 % 2 ^ 16 < 4 ∧ ¬readLE (SCb 4).mem placePage 8 % 2 ^ 16 < 4 ∧ readLE (SCb (2 ^ 16 * 4097)).mem placePage 8 / 2 ^ 16 % 2 ^ 13 = 4097) ∧
    (List.replicate 128 0#8).length = 128 + 4 * ((List.range 1024).filter (fun i => ((List.replicate 128 0#8).getD (i / 8) 0#8).getLsbD (i % 8))).length ∧
    (let runs : List (Nat × Byte) := List.replicate 8 (255, 1#8) ++ [(8, 2#8)]; (∀ r, r ∈ runs → r.1 < 256) ∧ (∀ r, r ∈ runs → r.1 ≠ 0) ∧ (runs.map (·.1)).sum = 2048) ∧ (List.replicate 2048 0#8).length = 2048 := by
  and_intros <;> decide +kernel
/-- R268, R270 by hand: a copy writes the page's word 0x78000000 to tile 7; an .add of it to tile 7's element 5. -/
theorem test_elements : ((((SCe (cmdE false (2 ^ 8) (2 ^ 9 * 7) 0 0 0)).cmdMove cmd1.id 0).tileAt 0 3).map (fun t => t.read ⟨0, 0, 0, 0⟩ none) == some 0x78000000 &&
    (let s := SCe (cmdE true (2 ^ 8) (2 ^ 9 * 7) 0 0 0); ((({ s with crews := s.crews.map (fun c => { c with tiles := [tile5, tile7.write ⟨0, 0, 0, 0⟩ none 5] }) } : State).cmdMove cmd1.id 0).tileAt 0 3).map (fun t => t.read ⟨0, 0, 0, 0⟩ none) == some 0x78000005)) = true := by decide +kernel
/-- R262 to R264 by hand: the stamp of an OK command is its ticket; the version 0 ends ABORTED (5). -/
theorem test_commands : (cmd1.errs == [] && (SC.cmdBad cmd1).isNone && (SC.cmdBad cmdBad0).isSome && (match exec (.commandSignal 1) { SC with commands := [{ cmd1 with id := 1 }] } with | .next s => readLE s.mem 0x20008 8 == 0x100000000 | _ => false) &&
    (match exec (.commandSignal 1) { SC with commands := [{ cmdBad0 with id := 1 }] } with | .next s => readLE s.mem 0x20008 8 == stAborted * 2 ^ 48 + 0x100000000 | _ => false) &&
    reg (.xcopy 1 8) SE 1 == some 0x100000000 && reg (.bclose 1) SE 1 == some 1 && (after (.stepmark 3) SE).map (·.stepNow) == some 1 && reg (.mwait 3 2 0) S 3 == some 0x78000000) = true := by decide +kernel

/-! ### Work lists (R47 to R49, R181, R237, R273, R274) -/

/-- s8 to s11: WLINIT of one list of 4 items with a seed of 1 in the page; s12 to s15: a take of one item from list 0 to (0, 0) of tile 6. -/
def TWI : Team := { T with sregs := [(2, 0x1000000), (3, 5), (8, 0x1000000), (9, 0x100000001), (10, 0x1001000), (11, 4), (12, 0x1000000), (13, 0), (14, 0x60001), (15, 0)] }
def CWI : Crew := { placeCrew TWI with tiles := [tile5, tile6], nextUid := 3 }
def SWI : State := inCrew CWI
/-- A set of one list of capacity 4 with these counts and state; its entry (head, tail) follows it, and its first item is 0x77. -/
def blk (app tak infl st : Nat) : WlBlock := ⟨app, tak, infl, 1, 1, 0x1001000, 4, st, 0⟩
def setIn (s : State) (app tak infl st head tail : Nat) : State :=
  { s with mem := writeLE (writeLE (writeLE s.mem placePage 64 (blk app tak infl st).bits) (placePage + 64) 16 (head + 2 ^ 64 * tail)) (placePage + 0x1000) 8 0x77 }
/-- With the page's translation held by the core. -/
def named (s : State) : State := (s.wlNamed 0 0x1000000).1
def SQ : State := named (setIn SWI 0 0 0 0 0 0)
def SQ2 : State := (SQ.putWlBlock 0 0x1000000 (blk 0 0 0 1) 0).getD SQ
def SNT : State := named (setIn (inCrew { CWI with teams := [{ TWI with wl := [⟨0x1000000, 0, false⟩] }] }) 1 1 2 0 1 1)
theorem witness_WorkListInstructions :
    SWI.acts R CWI TWI ∧ (let t := { TWI with sregs := [(8, 0x1000001), (9, 0x100000001)] }; (inTeam t).acts R (placeCrew t) t ∧ (t.sregK 8 0).toNat % 64 ≠ 0) ∧
    (let t := { TWI with sregs := [(8, 0x1000000), (9, 0x100100000001)] }; (inTeam t).acts R (placeCrew t) t ∧ 4096 < ((t.sregK 8 1).extractLsb' 32 13).toNat) ∧
    ((TWI.sregK 8 0).toNat = 0x1000000 ∧ ((TWI.sregK 8 1).extractLsb' 32 13).toNat = 1 ∧ 0 < ((TWI.sregK 8 1).setWidth 32).toNat ∧ (TWI.sregK 8 1).toNat < 2 ^ 45 ∧ (TWI.sregK 8 2).toNat = 0x1001000 ∧
      (TWI.sregK 8 3).toNat = 4 ∧ SWI.wlUsable 2 0x1000000 (0x1000000 + 80) = true ∧ SWI.wlUsable 2 0x1001000 (0x1001000 + 32) = true ∧
      (SWI.wlLines CWI.core 2 0x1000000 80).2 = some [(0x1000000, 0x20000, 64, BitVec.ofNat 64 placeEntry), (0x1000040, 0x20040, 16, BitVec.ofNat 64 placeEntry)] ∧
      (SWI.wlLines CWI.core 2 0x1000000 80).1.dead = [] ∧ TWI.pending = [] ∧ pteTracked (BitVec.ofNat 64 placeEntry) = false) := by
  decide +kernel
/-- TDWAIT and WLTAKE of a set that is quiescent by its counts, of a team that owes nothing; and of one with items in flight. -/
def SQ0 : State := named (setIn (inCrew { CWI with teams := [{ TWI with wl := [⟨0x1000000, 0, false⟩] }] }) 1 1 0 0 1 1)
def SQ02 : State := (SQ0.putWlBlock 0 0x1000000 (blk 1 1 0 1) 0).getD SQ0
theorem witness_WorkListInstructions_waits :
    let t := { TWI with wl := [⟨0x1000000, 0, false⟩] }
    let c := { CWI with teams := [t] }
    (SQ0.acts R c t ∧ t.swait = none ∧ SQ0.wlNamed c.core (t.sreg 12).toNat = (SQ0, .ok (blk 1 1 0 0)) ∧ SQ0.wlBlock c.core (t.sreg 12).toNat = some (blk 1 1 0 0) ∧ SQ0.appendsDone R c t = true ∧
      t.setBusy (t.sreg 12).toNat (blk 1 1 0 0) = false ∧ SQ0.takeAfter R c t (t.take 12) (blk 1 1 0 0) = false ∧ SQ0.changeDue R (t.sreg 12).toNat = false ∧ t.wlOwed (t.sreg 12).toNat = 0 ∧ (blk 1 1 0 0).inflight = 0 ∧ (blk 1 1 0 0).appended = (blk 1 1 0 0).taken ∧
      SQ0.putWlBlock c.core (t.sreg 12).toNat { blk 1 1 0 0 with state := 1 } t.stepNow = some SQ02 ∧
      ((t.sregK 12 0).toNat < 2 ^ 56 ∧ (t.sregK 12 1).toNat % 4096 < (blk 1 1 0 0).lists ∧ ((t.take 12).tile c).isSome = true ∧ (SQ0.wlEntry c.core (t.sregK 12 0).toNat ((t.sregK 12 1).toNat % 4096)).isSome = true)) ∧
    (SNT.acts R c t ∧ SNT.wlNamed c.core (t.sreg 12).toNat = (SNT, .ok (blk 1 1 2 0)) ∧ SNT.wlBlock c.core (t.sreg 12).toNat = some (blk 1 1 2 0) ∧ SNT.appendsDone R c t = true ∧
      t.setBusy (t.sreg 12).toNat (blk 1 1 2 0) = false ∧ SNT.takeAfter R c t (t.take 12) (blk 1 1 2 0) = false ∧ t.swait = none ∧ t.wlOwed (t.sreg 12).toNat = 0 ∧ (t.take 12).list < (blk 1 1 2 0).lists ∧
      ((t.take 12).tile c).isSome = true ∧ SNT.wlEntry c.core (t.take 12).set (t.take 12).list = some (1, 1) ∧ SNT.changeDue R (t.sreg 12).toNat = false ∧ 0 < (blk 1 1 2 0).inflight ∧ (blk 1 1 2 0).state = 0) := by
  decide +kernel

/-- A set with one item to take. -/
def STK : State := named (setIn (inCrew { CWI with teams := [{ TWI with wl := [⟨0x1000000, 0, false⟩] }] }) 1 0 1 0 0 1)
def STK1 : State := okOr STK (STK.tileWrite 0 2 ⟨0, 0, 0, 0⟩ none 0x77 0 false)
def STK2 : State := (STK1.putWlEntry 0 0x1000000 0 1 1 0).getD STK1
def STK3 : State := (STK2.putWlBlock 0 0x1000000 (blk 1 1 2 0) 0).getD STK2
theorem witness_WorkListInstructions_take :
    let t := { TWI with wl := [⟨0x1000000, 0, false⟩] }
    let c := { CWI with teams := [t] }
    let k := t.take 12
    STK.acts R c t ∧ t.swait = none ∧ STK.wlNamed c.core k.set = (STK, .ok (blk 1 0 1 0)) ∧ STK.wlBlock c.core k.set = some (blk 1 0 1 0) ∧ STK.appendsDone R c t = true ∧ STK.changeDue R k.set = false ∧
    STK.takeAfter R c t k (blk 1 0 1 0) = false ∧ t.wlOwed k.set = 0 ∧ 0 < (blk 1 0 1 0).inflight ∧ (blk 1 0 1 0).state = 0 ∧ k.list < (blk 1 0 1 0).lists ∧ k.tile c = some tile6 ∧ STK.wlEntry c.core k.set k.list = some (0, 0 + 1) ∧
    STK.takeBefore STK.nextWait k = false ∧ STK.wlHoles = [] ∧ STK.wlItems = [] ∧ STK.wlRead c.core ((blk 1 0 1 0).itemAt k.list 0) 8 = some 0x77 ∧ STK.poison = [] ∧
    (match STK.tileWrite R.crew tile6.uid k.at_ none 0x77 t.stepNow false with | .ok s => s == STK1 | .error _ => false) = true ∧ STK1.putWlEntry c.core k.set k.list 1 1 t.stepNow = some STK2 ∧
    STK2.putWlBlock c.core k.set { blk 1 0 1 0 with taken := 0 + 1, inflight := 1 + 1 } t.stepNow = some STK3 := by
  decide +kernel

/-- An append of 0x77 to list 0 that waits at the set's master, unplaced and placed; then a retirement of one. -/
def item0 : WlItem := { team := R, lane := 0, set := 0x1000000, list := 0, item := 0x77, dest := 4, clause := 0, pos := none, ord := 0, gang := 0, run := 0, idx := 0 }
def SIT (pos : Option Nat) : State := { setIn SWI 0 0 1 0 0 0 with wlItems := [{ item0 with pos := pos }] }
def SIT1 : State := (SIT (some 0) |>.translate none 0 0x1001000 true).1
/-- The placed item with its address translated. -/
def itemAt : WlItem := { item0 with pos := some 0, at_ := some (0x21000, BitVec.ofNat 64 placeEntry) }
def SIW : State := { SIT (some 0) with wlItems := [itemAt] }
def SIT2 : State := okOr SIW (SIW.pageWrite 0x1001000 0x21000 (BitVec.ofNat 64 placeEntry) 0 8 0x77)
def SIT3 : State := (SIT2.putWlBlock 0 0x1000000 (blk 1 0 1 0) 0).getD SIT2
def SIA : State := ((SIT none).putWlEntry 0 0x1000000 0 0 1 0).getD (SIT none)
def SCH : State := { setIn SWI 1 1 1 0 1 1 with wlChanges := [⟨R, 0, 0x1000000, 1⟩] }
theorem witness_WorkListAppend_master :
    ((SIT none).appendFree item0 = true ∧ (SIT none).itemCore item0 = 0 ∧ (SIT none).wlRead 0 item0.set 64 = some (blk 0 0 1 0).bits ∧ wlBlockOf (blk 0 0 1 0).bits = blk 0 0 1 0 ∧ (blk 0 0 1 0).ok = true ∧ (blk 0 0 1 0).state = 0 ∧ (blk 0 0 1 0).inflight ≠ 0 ∧ item0.list < (blk 0 0 1 0).lists ∧
      (SIT none).wlEntry 0 item0.set item0.list = some (0, 0) ∧ 0 - 0 < (blk 0 0 1 0).cap ∧ (SIT none).putWlEntry 0 item0.set item0.list 0 (0 + 1) ((SIT none).itemStep item0) = some SIA ∧ SIA.wlItems = (SIT none).wlItems) ∧
    ((SIT (some 0)).wlRead 0 item0.set 64 = some (blk 0 0 1 0).bits ∧ (SIT (some 0)).translate none 0 ((blk 0 0 1 0).itemAt 0 0) true = (SIT1, .ok 0x21000 (BitVec.ofNat 64 placeEntry)) ∧
      pteScm (BitVec.ofNat 64 placeEntry) = false ∧ (SIT (some 0)).teamAt R = some (CWI, TWI)) ∧
    (SIW.wlRead 0 itemAt.set 64 = some (blk 0 0 1 0).bits ∧
      (match SIW.pageWrite ((blk 0 0 1 0).itemAt 0 0) 0x21000 (BitVec.ofNat 64 placeEntry) (SIW.itemStep itemAt) 8 0x77 with | .ok s => s == SIT2 | .error _ => false) = true ∧
      SIT2.putWlBlock 0 0x1000000 { blk 0 0 1 0 with appended := 0 + 1 } (SIW.itemStep itemAt) = some SIT3 ∧ SIT3.wlItems = SIW.wlItems ∧ SIT3.teamAt R = some (CWI, TWI)) ∧
    (SCH.wlBlock 0 0x1000000 = some (blk 1 1 1 0) ∧ ((SCH.putWlBlock 0 0x1000000 ((blk 1 1 1 0).retire 1) 0).map (·.wlChanges)) = some SCH.wlChanges) := by
  decide +kernel

/-- Its address does not translate: no range holds it. An item that keeps its position until its lane is placed again, and one whose write waits for an older store of the stream to its address. -/
def SIF : State := { SIT (some 0) with ranges := [{ placeRange with len := 0x1000 }] }
def SIF1 : State := (SIF.translate none 0 0x1001000 true).1
def slot0 : WlSlot := ⟨0, 0x1000000, 0, 0, 4, 0x77, 0, 0, 0⟩
def SIO : State := { SIW with crews := [{ CWI with teams := [{ TWI with pending := [⟨0, 0, .lane, 0, 0, .glob 0x1001000 0x21000, 64, .store 1 0, 0, 0⟩] }] }], wlItems := [{ itemAt with ord := 1 }] }
theorem witness_WorkListAppend_late :
    (SIF.wlRead 0 item0.set 64 = some (blk 0 0 1 0).bits ∧ SIF.translate none 0 ((blk 0 0 1 0).itemAt 0 0) true = (SIF1, .fail) ∧ SIF1.wlItems = SIF.wlItems ∧ (SIF1.teamAt R).isSome = true ∧ TWI.restart = none ∧ TWI.faulted = false ∧
      TWI.slots = [] ∧ TWI.again = []) ∧
    (let t := { TWI with slots := [slot0] }; (inTeam t).teamAt R = some (placeCrew t, t) ∧ t.again = [] ∧ ((inTeam t).rearmTeam R).wlItems.map (fun i => (i.item, i.pos)) = [(0x77, some 0)]) ∧
    SIW.appendFree itemAt = true ∧ (match SIW.teamAt R with | some (_, u) => SIW.olderOverlap R u .lane itemAt.ord true (.glob ((blk 0 0 1 0).itemAt 0 0) 0x21000) 64 | none => true) = false ∧
    SIO.wlItems.map SIO.appendFree = [true] ∧ (match SIO.teamAt R with | some (_, u) => SIO.olderOverlap R u .lane 1 true (.glob 0x1001000 0x21000) 64 | none => false) = true ∧
    (let t := { TWI with retired := [{ CL with uid := 5, fence := 1 }], pending := [⟨0, 0, .lane, 0, 0, .glob 0x1001000 0x21000, 64, .store 1 0, 0, 0⟩] }
     ({ SIW with crews := [{ CWI with teams := [t] }] } : State).appendFree { itemAt with clause := 5 } = false) := by
  and_intros <;> decide +kernel
/-- R237, R342 by hand: the lane is in the fault mask with cause TRANSLATION, its position is a hole and is kept. -/
theorem test_append_late : (match exec (.wlappItemWrite 0) SIF with
    | .next s => ((s.teamAt R).map (fun q => (q.2.faulted, q.2.trapCause, q.2.lfm, q.2.slots)) == some (true, 8, 1, [slot0])) && s.wlHoles.map (·.pos) == [0] && s.wlItems == [] | _ => false) = true := by decide +kernel

/-- WLAPP of lane 0: the set of v1, the item of v2, the list of v3, the answer in v10. -/
def CL1 : Clause := { CL with mask := 1 }
def TAP (bad : Bool) : Team := { T with queue := [CL1], vregs := [(1024, if bad then 0x1008000 else 0x1000000), (2048, 0x77)] }
def SAP (bad : Bool) : State := setIn (inTeam (TAP bad)) 0 0 1 0 0 0
def mM : ModM := ⟨5, 0, 0, false, false, 0, 0⟩
theorem witness_WorkListAppend :
    ∀ bad, bad ∈ [false, true] → let t := TAP bad
    let u := t.afterPops [memS0 (hd 3) mM, memS1 (hd 3), memS2 (hd 3)]
    (SAP bad).oneLane R (placeCrew t) t CL1 (hd 3) 0 ∧ t.lctr.toNat < 65535 ∧ (SAP bad).wlItems = [] ∧ t.laneReady CL1 [memS0 (hd 3) mM, memS1 (hd 3), memS2 (hd 3)] [10] ∧
    (let y := ((SAP bad).putTeam R { u with taken := u.popped, restart := none, lfm := t.lfm, obufNext := u.memKeep (hd 3) mM, nextOrd := t.nextOrd + 1 }).globCheck 0
        (u.src u.popped (memS0 (hd 3) mM) 0).toNat 64 true true
     y.2 = (.ok (if bad then 0x28000 else 0x20000, BitVec.ofNat 64 placeEntry), none) ∧ (wlBlockOf (y.1.physRead (if bad then 0x28000 else 0x20000) 64)).ok = !bad) := by
  decide +kernel

/-- R181, R182, R237 by hand. -/
def mem8 (i : Instr) (s : State) (pa n : Nat) : Nat := match exec i s with | .next s' => readLE s'.mem pa n | _ => 0
theorem test_work_lists : (reg (.wlinit 1 8) SWI 1 == some 0 && mem8 (.wlinit 1 8) SWI placePage 32 == 2 ^ 128 + 2 ^ 192 + 2 ^ 224 && mem8 (.wlinit 1 8) SWI (placePage + 32) 16 == 0x1001000 + 2 ^ 64 * 4 &&
    reg (.tdwait 1 12 0) SQ0 1 == some 0 && mem8 (.tdwait 1 12 0) SQ0 (placePage + 44) 4 == 1 && reg (.tdwait 1 12 0) SNT 1 == some 1 && reg (.wltake 1 12 0) STK 1 == some 1 &&
    mem8 (.wltake 1 12 0) STK (placePage + 8) 16 == 1 + 2 ^ 64 * 2 && (match exec (.wltake 1 12 0) STK with | .next s => (s.tileAt 0 2).map (fun t => t.read ⟨0, 0, 0, 0⟩ none) == some 0x77 | _ => false) &&
    mem8 (.wlappItemWrite 0) SIW 0x21000 8 == 0x77 && mem8 (.wlRunRequest 0) (SIT none) (placePage + 64) 16 == 2 ^ 64 && mem8 (.wlCountChange 0) SCH (placePage + 44) 4 == 1 &&
    (after (.wlapp (hd 3) mM) (SAP true)).map (·.vreg 10 0) == some 7 && (after (.wlapp (hd 3) mM) (SAP false)).map (·.lctr) == some 1) = true := by decide +kernel

/-! ### Launches (R184, R281, R282) -/

/-- s8 the record at the page's start, s9 a place not its multiple, s10 none that translates. -/
def TLa : Team := { T with sregs := [(8, 0x1000000), (9, 0x1000008), (10, 0x2000008)] }
def gateRecord : BitVec 1024 := placeRecord ||| BitVec.ofNat 1024 (2 ^ 320 * 0x1000100)
def SLa : State := let s := inTeam TLa; { s with mem := writeLE (writeLE s.mem placePage 128 placeRecord.toNat) (placePage + 0x100) 8 (2 ^ 32) }
def SLa1 : State := (SLa.readRecord 0 0x1000000).1
def SLa2 : State := (SLa1.checkRecord placeRecord true true).1
/-- Launch queue 0 with that record at its head; launches that wait, without and with a gate. -/
def ring0 : Ring := { prod := 1, k := 6, base := placePage, en := true, priv := true }
def SLq : State := { SLa with lqs := ring0 :: List.replicate 63 {} }
def SLq1 : State := (SLq.headRecord ring0).1
def SLq2 : State := (SLq1.checkRecord placeRecord true true).1
def lw (r : BitVec 1024) : Launch := { placeLaunch with id := 1, record := r, state := .waiting }
def SLw (r : BitVec 1024) : State := { SLa with launches := [placeLaunch, lw r] }
theorem witness_LaunchesAndGates :
    SLa.acts R (placeCrew TLa) TLa ∧ TLa.queue = [] ∧ TLa.pending = [] ∧ TLa.sctr = 0#16 ∧ TLa.lctr = 0#16 ∧ (SLa.readRecord 0 (TLa.sreg 10).toNat).2 = none ∧
    (let q := SLa.readRecord 0 (TLa.sreg 9).toNat; q.2.isSome = true ∧ (q.1.checkRecord (q.2.getD 0) TLa.priv ((TLa.sreg 9).toNat % 128 == 0)).2.2 ≠ 0) ∧
    ((TLa.sreg 8).toNat % 128 = 0 ∧ SLa.readRecord 0 (TLa.sreg 8).toNat = (SLa1, some placeRecord) ∧ SLa1.checkRecord placeRecord TLa.priv true = (SLa2, [], 0) ∧ SLa2.openLaunches < 4096 ∧
      SLa2.teamAt R = some (placeCrew TLa, TLa)) ∧
    (SLq.active = true ∧ SLq.platform.stage = 0xFF#8 ∧ SLq.queueTurn = some 0 ∧ SLq.lqs[0]? = some ring0 ∧ SLq.headRecord ring0 = (SLq1, placeRecord) ∧ SLq1.checkRecord placeRecord ring0.priv true = (SLq2, [], 0) ∧
      SLq2.lqs = SLq.lqs) ∧
    ((SLw placeRecord).active = true ∧ (SLw placeRecord).launches[1]? = some (lw placeRecord) ∧ (lw placeRecord).state = .waiting ∧ recGates placeRecord = []) ∧
    ((SLw gateRecord).launches[1]? = some (lw gateRecord) ∧ recGates gateRecord = [0x1000100] ∧ ((SLw gateRecord).gateWords [0x1000100]).2 = some [2 ^ 32]) ∧
    (((SLw gateRecord).modTeam R id).launches.length = 2 ∧ (({ SLw gateRecord with mem := writeLE SLa.mem (placePage + 0x100) 8 0 } : State).gateWords [0x1000100]).2 = none) := by
  decide +kernel
theorem test_launches : (reg (.launch 1 8) SLa 1 == some 0 && reg (.launch 1 9) SLa 1 == some 7 && reg (.launch 1 10) SLa 1 == some 8 &&
    (match exec (.launch 1 8) SLa with | .next s => s.launches.map (fun l => (l.id, l.state == .waiting)) == [(0, false), (1, true)] | _ => false) &&
    (match exec (.launchAccept 0) SLq with | .next s => (s.launches.length, s.turn, s.lqs.map (·.cons) == 1 :: List.replicate 63 0) == (2, 1, true) | _ => false) &&
    (match exec (.dependenceGatesResolved 1) (SLw gateRecord) with | .next s => s.launches.map (·.state == .eligible) == [true, true] | _ => false)) = true := by decide +kernel

/-! ### Lane arithmetic (R76, R194 to R202) -/

/-- Lane 0 alone executes, with these values in v1, v2, v3 and in v10. -/
def laneTeam (a b c d : Word) : Team := { T with queue := [CL1], vregs := cellSet (cellSet (cellSet (cellSet [] 1024 a) 2048 b) 3072 c) 10240 d }
def lane (i : Instr) (a b c : Word) : Option Word := (after i (inTeam (laneTeam a b c 0))).map (·.vreg 10 0)
def pr1 (i : Instr) (a b : Word) : Option Bool := (after i (inTeam (laneTeam a b 0 0))).map (·.pred 10 0)
/-- A team that reads a queue, the operand buffer and its highest register. -/
def TQ : Team := { TL with queues := [5] :: List.replicate 7 [], obuf := some [(0, 6)] }
def hQ (ty : BitVec 4) : LaneHead := { hd ty with dst := 63, b1 := true, s2 := 63 }
def mQ : ModA := { mA with q0 := 8 }
theorem witness_laneReady :
    (inTeam TL).laneAt R (placeCrew TL) TL CL ∧ TL.laneReady CL (srcs3 (hd 3) mA) [10] ∧ (inTeam TQ).laneAt R (placeCrew TQ) TQ CL ∧ TQ.laneReady CL (srcs3 (hQ 3) mQ) [63] ∧ srcs3 (hQ 3) mQ = [.queue 0, .buf, .reg 63] := by
  decide +kernel
theorem witness_LaneIntegerArithmetic :
    (∀ n, n ∈ [1, 2, 3] → TQ.laneReady CL ((srcs3 (hQ 3) mQ).take n) [(hQ 3).dst.toNat] ∧ (inTeam TQ).laneAt R (placeCrew TQ) TQ CL) ∧ (hQ 3).md = false ∧
    (∀ w, w ∈ [8, 16, 32, 64] → ∀ sg : Bool, (if sg then -(2 ^ (w - 1)) else 0 : Int) ≤ 0 ∧ (0 : Int) ≤ (if sg then 2 ^ (w - 1) - 1 else 2 ^ w - 1)) := by
  decide +kernel
theorem witness_LaneBitsAndComparisons :
    (∀ n, n ∈ [0, 1, 2, 3] → TQ.laneReady CL ((srcs3 (hQ 3) mQ).take n) [(hQ 3).dst.toNat] ∧ TQ.laneReady CL ((srcs3 (hQ 3) mQ).take n) []) ∧ (hQ 13).ty.toNat < 14 ∧ (hQ 7).ty.toNat < 8 := by decide +kernel
theorem witness_LaneFloatArithmetic :
    (∀ n, n ∈ [1, 2, 3] → TQ.laneReady CL ((srcs3 (hQ 8) mQ).take n) [63]) ∧ decodeF (fmtOf 8) 0x7FC00000 = .nan ∧ decodeF (fmtOf 8) 0x7F800000 = .inf false ∧ decodeF (fmtOf 8) 0xFF800000 = .inf true ∧
    (∃ d, decodeF (fmtOf 8) 0x80000000 = .fin true 0 d) ∧ (∃ d, decodeF (fmtOf 9) 0x8000 = .fin true 0 d) ∧ (9#4 ≠ 8#4) ∧ (∃ n d, decodeF (fmtOf 8) 0xBF800000 = .fin true n d ∧ 0 < n) := by
  exact ⟨by decide +kernel, by decide +kernel, by decide +kernel, by decide +kernel, ⟨_, rfl⟩, ⟨_, rfl⟩, by decide, ⟨_, _, rfl, by decide +kernel⟩⟩

theorem witness_LaneFieldInstructions : (hQ 7).ty.toNat < 8 ∧ TQ.laneReady CL ((srcs3 (hQ 7) mQ).take 2) [63] ∧ TQ.laneReady CL (srcs3 (hQ 7) mQ) [63] := by decide +kernel
/-- Finite values for the cases of R201 and R202: 2, 1/2, −2, 128, and the two kinds of exact value. -/
theorem witness_LaneFloatArithmetic_cases :
    (∃ n d, decodeF (fmtOf 8) 0x40000000 = .fin false n d ∧ 0 < n ∧ 0 < d ∧ n % d = 0 ∧ n / d ≤ (fmtOf 8).bias ∧ n = d * 2 ^ 1) ∧ (∃ n d, decodeF (fmtOf 8) 0x3F000000 = .fin false n d ∧ 0 < n ∧ 0 < d ∧ d = n * 2 ^ 1) ∧
    (∃ n d, decodeF (fmtOf 8) 0xC0000000 = .fin true n d ∧ n % d = 0 ∧ n / d ≤ (fmtOf 8).bias + ((fmtOf 8).fbits - 1)) ∧ (∃ n d, decodeF (fmtOf 8) 0x43000000 = .fin false n d ∧ 0 < d ∧ ((fmtOf 8).bias + 1) * d ≤ n) ∧
    0xFFFF < 2 ^ (fmtOf 9).width ∧ approxOnGrid 0x051 4 1 = true ∧ approxOnGrid 0x054 1 2 = false :=
  ⟨⟨_, _, rfl, by decide⟩, ⟨_, _, rfl, by decide⟩, ⟨_, _, rfl, by decide⟩, ⟨_, _, rfl, by decide⟩, by decide, by decide +kernel, by decide +kernel⟩
theorem witness_LaneFloatArithmetic_bounds : let v := approxExact 0x054 false 1 2; let k := approxLimits 0x054 (v - approxBound 0x054 v 1 2) (v + approxBound 0x054 v 1 2)
    ordinalF f32 (encodeF f32 .rup false (fixVal k.1)) ≤ ordinalF f32 (encodeF f32 .rdn false (fixVal k.2)) ∧
    ordinalF (fmtOf 9) (encodeF (fmtOf 9) .rdn false (fixVal v)) ≤ ordinalF (fmtOf 9) (encodeF (fmtOf 9) .rup false (fixVal (v + 1))) := by decide +kernel
/-- R194, R196 by hand: bytes of .s8 wrap and saturate, .s64 keeps the low half, IMULH the high one. -/
theorem test_lane_arith : (lane (.iadd (hd 0) mA) 0x7F01 0x01FF 0 == some 0x8000 && lane (.iadd { hd 0 with md := true } mA) 0x7F01 0x01FF 0 == some 0x7F00 && lane (.isub (hd 4) mA) 1 2 0 == some 0xFF &&
    lane (.isub { hd 4 with md := true } mA) 1 2 0 == some 0 && lane (.imul (hd 2) mA) 0x200010000 0x300010000 0 == some 0x600000000 && lane (.imulh (hd 2) mA) 0xFFFFFFFF 2 0 == some 0xFFFFFFFF &&
    lane (.imad (hd 7) mA) 3 4 5 == some 17 && lane (.iabs (hd 0) mA) 0x80FF 0 0 == some 0x8001 && lane (.ineg (hd 0) mA) 1 0 0 == some 0xFF && lane (.imin (hd 0) mA) 0xFF 1 0 == some 0xFF &&
    lane (.imax (hd 4) mA) 0xFF 1 0 == some 0xFF && lane (.iadds { hd 4 with md := true } mA) 1 0xFE 0 == some 0 && lane (.isubs { hd 4 with md := true } mA) 1 0xFE 0 == some 3 &&
    lane (.ishl { hd 0 with md := true } mA) 0x4001 0x0101 0 == some 0x7F02 && lane (.iadd (hd 3) { mA with dsel := 1 }) 1 2 0 == some 3) = true := by decide +kernel
theorem test_lane_bits : (lane (.iand (hd 3) mA) 12 10 0 == some 8 && lane (.ior (hd 3) mA) 12 10 0 == some 14 && lane (.ixor (hd 3) mA) 12 10 0 == some 6 && lane (.inot (hd 0) mA) 1 0 0 == some 0xFFFFFFFFFFFFFFFE &&
    lane (.ishr (hd 0) mA) 0x80 9 0 == some 0 && lane (.isar (hd 4) mA) 0x80 9 0 == some 0xFF && lane (.ipopc (hd 1) mA) 0xF0FF 0 0 == some 12 && lane (.iclz (hd 0) mA) 1 0 0 == some 0x0808080808080807 &&
    lane (.isel (hd 0) mA) 0x0102 0x0304 1 == some 0x0302 && lane (.ibfx (hd 2) mA) 0xF0 0x40004 0 == some 0xFFFFFFFF && lane (.ibfx (hd 6) mA) 0xF0 0x40004 0 == some 15 &&
    lane (.ibfi (hd 6) mA) 0xFFFF 5 0x40004 == some 0xFF5F && lane (.mov (hd 13) mA) 0x1234 0 0 == some 0x1234 && lane (.movi { hd 3 with s0 := 0 } 0x80000000) 0 0 0 == some 0xFFFFFFFF80000000 &&
    lane (.movi { hd 2 with s0 := 3 } 7) 0 0 0 == some 0x700000000 && lane (.lidx (hd 2) mA) 0 0 0 == some 0x100000000 && lane (.idot4 (hd 2) mA) 0x01020304 0xFF000001 10 == some 13) = true := by decide +kernel
theorem test_lane_compare : (pr1 (.icmpLt (hd 3) mA) 0xFFFFFFFFFFFFFFFF 1 == some true && pr1 (.icmpLt (hd 7) mA) 0xFFFFFFFFFFFFFFFF 1 == some false && pr1 (.icmpEq (hd 0) mA) 0x0101 0x0201 == some false &&
    pr1 (.icmpNe (hd 0) mA) 0x0101 0x0201 == some false && pr1 (.icmpLe (hd 3) mA) 5 5 == some true && pr1 (.icmpGt (hd 3) mA) 5 5 == some false && pr1 (.icmpGe (hd 3) mA) 5 5 == some true &&
    pr1 (.fcmpEq (hd 8) mA) 0x8000000080000000 0 == some true && pr1 (.fcmpNe (hd 8) mA) 0x7FC000007FC00000 0 == some true && pr1 (.fcmpUn (hd 8) mA) 0x7FC000007FC00000 0 == some true &&
    pr1 (.fcmpLt (hd 8) mA) 0xBF800000BF800000 0 == some true && pr1 (.fcmpLe (hd 8) mA) 0x7FC00000 0 == some false && pr1 (.fcmpGt (hd 8) mA) 0x3F8000003F800000 0 == some true &&
    pr1 (.fcmpGe (hd 8) mA) 0 0x8000000080000000 == some true) = true := by decide +kernel
/-- .f32 by hand: 1 + 2 = 3; 1.5 · 2 = 3; 1/3 rounds to 0x3EAAAAAB; √2 to 0x3FB504F3; the upper elements hold 0 and give 0 or a NaN. -/
theorem test_lane_float : (let lo (i : Instr) (a b c : Word) : Option Nat := (lane i a b c).map (fun v => v.toNat % 2 ^ 32)
    lo (.fadd (hd 8) mA) 0x3F800000 0x40000000 0 == some 0x40400000 && lo (.fsub (hd 8) mA) 0x3F800000 0x3F800000 0 == some 0 && lo (.fsub (hd 8) { mA with rm := 2 }) 0x3F800000 0x3F800000 0 == some 0x80000000 &&
    lo (.fmul (hd 8) mA) 0x3FC00000 0x40000000 0 == some 0x40400000 && lo (.ffma (hd 8) mA) 0x3FC00000 0x40000000 0x3F800000 == some 0x40800000 && lo (.fdiv (hd 8) mA) 0x3F800000 0x40400000 0 == some 0x3EAAAAAB &&
    lo (.frcp (hd 8) mA) 0x40400000 0 0 == some 0x3EAAAAAB && lo (.fsqrt (hd 8) mA) 0x40000000 0 0 == some 0x3FB504F3 && lo (.fmin (hd 8) mA) 0x7FC00000 0x3F800000 0 == some 0x3F800000 &&
    lo (.fmax (hd 8) mA) 0x80000000 0 0 == some 0 && lo (.fabs (hd 8) mA) 0x80000001 0 0 == some 1 && lo (.fneg (hd 8) mA) 0x7FC00000 0 0 == some 0xFFC00000 && lo (.fround (hd 8) mA) 0x40200000 0 0 == some 0x40000000 &&
    lo (.fscale (hd 8) mA) 0x3F800000 0xFFFFFFFF 0 == some 0x3F000000 && lo (.fexp2 (hd 8) mA) 0x7F800000 0 0 == some 0x7F800000 && lo (.frsq (hd 8) mA) 0x7F800000 0 0 == some 0 &&
    lo (.flog2 (hd 8) mA) 0 0 0 == some 0xFF800000 && lo (.fsin (hd 8) mA) 0x80000000 0 0 == some 0x80000000 && lo (.fcos (hd 8) mA) 0 0 0 == some 0x3F800000 && lo (.ftanh (hd 8) mA) 0x7F8000007F800000 0 0 == some 0x3F800000 &&
    lo (.fsigm (hd 8) mA) 0xFF800000FF800000 0 0 == some 0) = true := by decide +kernel

/-! ### Conversions, crossings, ranges, block planes (R203 to R216) -/

def mC : ModC := ⟨0, 0, 0, 0, 0, 10, 0⟩
def mX : ModX := ⟨0, 0, 0, 0, 0, 6, 0⟩
theorem witness_LaneConversions :
    (∀ n, n ∈ [1, 2, 3] → TL.laneReady CL ((srcsC (hd 8) mC).take n) [10]) ∧ mC.s0sel = 0#5 ∧ { mC with s0sel := 4#5 }.s0sel ≠ 0#5 ∧ 0 < 64 / elemWidth mC.sty ∧ mC.rm ≠ 4#3 ∧ { mC with rm := 4#3 }.rm = 4#3 := by decide +kernel
theorem witness_LaneCrossingsAndRanges :
    TL.lanes % 32 = 0 ∧ TL.laneReady CL [srcOf (hd 8).s0 false false mX.q0] [10] ∧ mX.op.getLsbD 3 = false ∧ { mX with op := 8#4 }.op.getLsbD 3 = true ∧ TL.laneReady CL ((srcs3 (hd 8) mA).take 2) [10] ∧ CL.mask ≠ 0#1024 ∧
    TL.laneReady CL [] [10] ∧ (0#4).toNat < 8 ∧ 0 < [1, 2].length ∧ (8 ≤ (8#4).toNat ∧ (8#4).toNat ≤ 10 ∧ decodeF (fmtOf 8) 0x7FC00000 = .nan) := by decide +kernel
/-- Three elements of a floating-point range, and one that is a NaN. -/
theorem witness_LaneCrossingsAndRanges_floats : let l := [0x3F800000, 0x40000000, 0x7FC00000]
    (∀ x, x ∈ l → x < 2 ^ elemWidth 8) ∧ 2 ≤ l.length ∧ l.length ≤ 2 ^ 2 ∧ 2 ^ 2 < 2 * l.length ∧ (∃ x, x ∈ l ∧ decodeF (fmtOf 8) x = .nan) := by
  refine ⟨by decide +kernel, by decide, by decide, by decide, 0x7FC00000, by decide, by decide +kernel⟩
/-- R87, R89 by hand, .f32: 1 + 2 + 3 by pairs is 6; its prefix sums are 1, 3, 6. -/
theorem test_float_ranges : (reduceRange 8 0 false [0x3F800000, 0x40000000, 0x40400000] == 0x40C00000 && scanRange 8 0 false [0x3F800000, 0x40000000, 0x40400000] == [0x3F800000, 0x40400000, 0x40C00000]) = true := by decide +kernel
/-- Two votes under way, of clauses 0 and 1: what a landing of the first, and of clause 0 whole, takes. -/
def votesTwo : List Vote := [⟨0, 1, 5⟩, ⟨1, 2, 3⟩]
theorem witness_LaneCrossingsAndRanges_votes : (∃ v vs, ({ TL with votes := votesTwo } : Team).votes = v :: vs) := ⟨_, _, rfl⟩
theorem witness_ClauseLife_votes : (∃ pre post : List Vote, votesTwo = pre ++ post ∧ (∀ v, v ∈ post → v.uid ≠ 0) ∧ pre.getLast? = some ⟨0, 1, 5⟩ ∧ (∀ v, pre.getLast? = some v → v.uid = 0)) :=
  ⟨[⟨0, 1, 5⟩], [⟨1, 2, 3⟩], rfl, by decide +kernel, rfl, by intro v h; cases h; rfl⟩
/-- R67 by hand: completion of clause 0 makes its write and leaves that of clause 1 under way; completion of clause 1 first makes both. -/
theorem test_votes_land : (let t : Team := { TL with votes := votesTwo }; ((t.landClause 0).mask 1, (t.landClause 0).mask 2, (t.landClause 0).votes.length) == (5, 0, 1) &&
    ((t.landClause 1).mask 1, (t.landClause 1).mask 2, (t.landClause 1).votes.length) == (5, 3, 0) && (t.landVotes.mask 2, (t.landClause 7).votes.length) == (3, 2)) = true := by decide +kernel
theorem witness_LaneBlockInstructions :
    (inTeam TL).laneAt R (placeCrew TL) TL CL ∧ TL.lanes % 32 = 0 ∧ TL.lanes ≤ 1024 ∧ TL.laneReady CL [srcOf (hd 8).s0 false false 0#4] [10] ∧ selIndex 3 < 2 ∧ CL.mask.extractLsb' (32 * (31 / 32)) 32 ≠ 0#32 ∧
    TL.laneReady CL [] [10, 1, 63, 10, 10] := by decide +kernel

/-- All 32 lanes; v1 of lane l is l + 1. -/
def TAll : Team := { TL with vregs := (List.range 32).map (fun l => (1024 + l, BitVec.ofNat 64 (l + 1))) }
def lanes (i : Instr) (l : Nat) : Option Word := (after i (inTeam TAll)).map (·.vreg 10 l)
/-- R211 to R216 by hand: sums over 32 lanes and over pairs, prefix sums, a maximum, a shuffle by position, votes and prefix counts. -/
theorem test_crossings : (lanes (.red (hd 7) mX) 3 == some 528 && lanes (.red (hd 7) { mX with range := 1 }) 3 == some 7 && lanes (.scan (hd 7) mX) 3 == some 10 && lanes (.scan (hd 7) { mX with op := 8 }) 3 == some 6 &&
    lanes (.red (hd 7) { mX with op := 2 }) 0 == some 32 && lanes (.shfl (hd1 7) mA) 0 == some 1 && lanes (.bcast { hd 7 with s1 := 1 } { mA with s1sel := 2 }) 4 == some 6 && lanes (.frmax (hd 8) { mX with range := 0 }) 4 == some 0x500000005 &&
    (after (.vote { hd0 0 with dst := 2, s0 := 15 } mX) (inTeam TAll)).map (fun t => (t.mask 2, (t.landClause CL.uid).mask 2)) == some (0, 0xFFFFFFFF) && lanes (.pfxc { hd0 7 with dst := 10, s0 := 15 } { mX with range := 0 }) 4 == some 0 &&
    lanes (.pfxc { hd0 7 with dst := 10, s0 := 15 } { mX with op := 1 }) 4 == some 5 && lanes (.pfxc { hd0 7 with dst := 10, s0 := 15 } { mX with op := 2 }) 4 == some 32) = true := by decide +kernel
/-- R203 by hand: 1.5 in .f16 is 0x3E00, in .f32 0x3FC00000; 3.5 rounds to 4 in an integer. -/
theorem test_conversions : (lane (.cvt (hd 8) { mC with s0sel := 4, dsel := 2 }) 0x3E00 0 0 == some 0x3FC00000 && lane (.unpk (hd 8) { mC with s0sel := 4 }) 0x3E003E00 0 0 == some 0x3FC000003FC00000 &&
    lane (.pack (hd 10) { mC with sty := 8, dsel := 4 }) 0x3FC000003F800000 0x40000000 0 == some 0x00004000_3E003C00 && lane (.cvt (hd 2) { mC with sty := 8 }) 0x40600000 0 0 == some 4) = true := by decide +kernel
theorem test_blocks : ((after (.fradd (hd 8) { mX with range := 0 }) (inTeam (laneTeam 0x3F800000 0 0 0))).map (·.vreg 10 0) == some 0x3F8000003F800000 &&
    (after (.had32 (hd1 2) mA) (inTeam (laneTeam 1 0 0 0))).map (·.lidx) == some 1 && (after (.qbp (hd1 8) ⟨2, 2, 0, 0, 0, 8⟩) (inTeam TAll)).map (·.lidx) == some 1 && (after (.dqbp (hd1 8) ⟨2, 2, 0, 0, 0, 8⟩) (inTeam TAll)).map (fun t => t.vreg 10 0) == some 765 &&
    (after .lnop (inTeam TL)).map (·.lidx) == some 1 &&
    (after (.fusedSoftmax (hd 8) mX (hd 8) mA (hd 8) mA (hd 8) mX) (inTeam { TAll with queue := [{ CL with count := 4 }] })).map (·.lidx) == some 4 && (lane (.fclass (hd 8) mA) 0x7FC00000 0 0).map (fun v => v.toNat % 2 ^ 32) == some 256) = true := by decide +kernel

/-! ### Lane memory (R219 to R236) -/

/-- Lanes 0 and 1 of a .s32 instruction; v1 names the first element and the last of tile 5, v2 holds 7 and 9. -/
def CL2 : Clause := { CL with mask := 3 }
def TM2 (a b : Word) : Team := { T with queue := [CL2], vregs := [(1024, a), (1025, b), (2048, 7), (2049, 9)] }
def CM2 (a b : Word) : Crew := { placeCrew (TM2 a b) with tiles := [tile5, tile6], nextUid := 3 }
def m5 : ModM := ⟨5, 2, 0, false, false, 0, 0⟩
def es5 (l : Nat) : List (Nat × Coord × Option Nat) := [(0, if l = 0 then ⟨0, 0, 0, 0⟩ else ⟨63, 63, 0, 0⟩, none)]
def esX (l : Nat) : List (Nat × Coord × Option Nat) := [(0, if l = 0 then ⟨0, 0, 0, 0⟩ else ⟨3, 62, 0, 0⟩, none)]
theorem witness_LaneTileAccesses :
    (let t := TM2 0 0x3F003F; let c := CM2 0 0x3F003F; let u := t.afterPops [memS0 (hd 2) m5]; let v := t.afterPops [memS0 (hd 2) m5, memS1 (hd 2)]
     (inCrew c).laneAt R c t CL2 ∧ t.restart = none ∧ c.laneTile (hd 2) m5 tile5 ∧ t.lctr.toNat + 1024 ≤ 65535 ∧ maskLanes (t.executing CL2.mask (hd 2)) t.lanes = [0, 1] ∧
     t.laneReady CL2 [memS0 (hd 2) m5] [10] ∧ (∀ l, l ∈ [0, 1] → ∀ e, e ∈ es5 l → tile5.poisoned e.2.1 e.2.2 = false) ∧
     (∀ l, l ∈ [0, 1] → laneElems tile5 2 m5.sel l (coordOf (u.src u.popped (memS0 (hd 2) m5) l)) = some (es5 l)) ∧
     t.laneReady CL2 [memS0 (hd 2) m5, memS1 (hd 2)] [10] ∧ t.laneReady CL2 [memS0 (hd 2) m5, memS1 (hd 2)] [] ∧
     (∀ l, l ∈ [0, 1] → laneElems tile5 2 m5.sel l (coordOf (v.src v.popped (memS0 (hd 2) m5) l)) = some (es5 l) ∧ tile5.inside (coordOf (v.src v.popped (memS0 (hd 2) m5) l)) = true ∧
       tile5.poisoned (coordOf (v.src v.popped (memS0 (hd 2) m5) l)) none = false) ∧ m5.glob = false ∧ (hd 2).ty ≠ 14#4 ∧ decodeAtomOp m5.aop = some .add ∧
     t.laneReady CL2 ([memS0 (hd 2) m5, memS1 (hd 2)] ++ [memS2 (hd 2)]) [10] ∧ decodeAtomOp 10#4 = some .cas) ∧
    (let t := TM2 0 0x3E0003; let c := CM2 0 0x3E0003; let u := t.afterPops [memS0 (hd 2) m5]; let v := t.afterPops [memS0 (hd 2) m5, memS1 (hd 2)]
     (inCrew c).laneAt R c t CL2 ∧ c.laneTile (hd 2) m5 tile5 ∧ (∀ l, l ∈ [0, 1] → (transposedElems tile5 32 (coordOf (u.src u.popped (memS0 (hd 2) m5) l))).isSome = true) ∧
     (∀ l, l ∈ [0, 1] → ∀ y, y ∈ [u, v] → tile5.inside ((coordOf (y.src y.popped (memS0 (hd 2) m5) l)).plus1 (slotOf (t.executing CL2.mask (hd 2)) l)) = true)) := by
  and_intros <;> decide +kernel

/-- The same of global words at the page's start and its end. -/
def mG : ModM := { m5 with glob := true }
theorem witness_LaneGlobalAccesses (sel : BitVec 5) (hs : sel ∈ [(0 : BitVec 5), 2]) :
    let t := TM2 0x1000000 0x100FFF0; let m := { mG with sel := sel }; let n := if sel = 0 then 8 else 4
    (inTeam t).laneAt R (placeCrew t) t CL2 ∧ t.restart = none ∧ t.lctr.toNat + 1024 ≤ 65535 ∧ t.laneReady CL2 [memS0 (hd 2) m] [10] ∧ t.laneReady CL2 [memS0 (hd 2) m, memS1 (hd 2)] [10] ∧
    t.laneReady CL2 [memS0 (hd 2) m, memS1 (hd 2)] [] ∧ t.laneReady CL2 ([memS0 (hd 2) m, memS1 (hd 2)] ++ [memS2 (hd 2)]) [10] ∧ m.glob = true ∧ decodeAtomOp m.aop = some .add ∧
    (∀ wr, wr ∈ [true, false] → ∀ rd, rd ∈ [true, false] → ∀ u, u ∈ [t.afterPops [memS0 (hd 2) m], t.afterPops [memS0 (hd 2) m, memS1 (hd 2)]] →
      ((inTeam t).laneReaches 0 n wr rd (fun l => (u.src u.popped (memS0 (hd 2) m) l).toNat) [0, 1]).2 = some [(0, 0x20000), (1, 0x2FFF0)] ∧
      ((inTeam t).laneReaches 0 4 wr rd (fun l => (u.src u.popped (memS0 (hd 2) m) l).toNat + slotOf 3 l * 4) [0, 1]).2 = some [(0, 0x20000), (1, 0x2FFF4)]) := by
  rcases List.mem_cons.1 hs with rfl | h
  · and_intros <;> decide +kernel
  · obtain rfl := List.mem_singleton.1 h
    and_intros <;> decide +kernel

/-- Lane 0 names (0, 1) of a tile whose tag there is full or empty. -/
def tile5t (full : Bool) : Tile := (tile5.write ⟨0, 1, 0, 0⟩ none 0x55).setTag ⟨0, 1, 0, 0⟩ none full
def TT1 : Team := { T with queue := [CL1], vregs := [(1024, 0x10000), (2048, 7)] }
def CT1 (full : Bool) : Crew := { placeCrew TT1 with tiles := [tile5t full], nextUid := 2 }
def hT : LaneHead := { hd 2 with s2 := 11 }
theorem witness_TaggedLaneAccesses (full : Bool) :
    let c := CT1 full; let s := inCrew c; let tl := tile5t full; let t := TT1; let u := t.afterPops [memS0 hT m5]; let v := t.afterPops [memS0 hT m5, memS1 hT]
    s.oneLane R c t CL1 hT 0 ∧ c.laneTile hT m5 tl ∧ c.tileUid tl.uid = some tl ∧ tl.tags = true ∧ tl.tracked = false ∧ s.mmaHeld R.crew tl.uid ⟨0, 1, 0, 0⟩ = false ∧ tl.poisoned ⟨0, 1, 0, 0⟩ none = false ∧
    t.pending = [] ∧ s.wlItems = [] ∧ s.matrix = [] ∧ t.lctr.toNat + t.bands ≤ 65535 ∧ s.tagHolds ⟨R.crew, tl.uid, ⟨0, 1, 0, 0⟩, true, none⟩ = full ∧ t.laneReady CL1 [memS0 hT m5] [10, 11] ∧ hT.dst ≠ hT.s2 ∧ selIndex m5.sel < 64 / 32 ∧ t.laneReady CL1 [memS0 hT m5, memS1 hT] [11] ∧
    laneElems tl 2 m5.sel 0 (coordOf (u.src u.popped (memS0 hT m5) 0)) = some [(0, ⟨0, 1, 0, 0⟩, none)] ∧ laneElems tl 2 m5.sel 0 (coordOf (v.src v.popped (memS0 hT m5) 0)) = some [(0, ⟨0, 1, 0, 0⟩, none)] ∧
    s.servable s.nextWait ⟨R.crew, tl.uid, ⟨0, 1, 0, 0⟩, true, none⟩ = full ∧ s.servable s.nextWait ⟨R.crew, tl.uid, ⟨0, 1, 0, 0⟩, false, none⟩ = !full ∧ m5.e = 0#5 ∧ { m5 with e := 31 }.e ≠ 0#5 := by
  cases full <;> and_intros <;> decide +kernel

/-- The full word, with an earlier waiter of another team to be served first. -/
theorem witness_TaggedLaneAccesses_later :
    let c := CT1 true; let w : TagWant := ⟨R.crew, 1, ⟨0, 1, 0, 0⟩, true, none⟩; let s := behind c w; let c' := { c with teams := c.teams ++ [{ T with id := 1, lwaits := [⟨0, .lnop, none, 0, some w, 0, 0, 0⟩] }] }
    s.oneLane R c' TT1 CL1 hT 0 ∧ s.tagHolds w = true ∧ s.servable s.nextWait w = false := by decide +kernel

/-- Lane 0 names, by v1, tile 5, queue 7 or nothing of its own crew; the queue has one entry of four words of eight. -/
def TRm (a : Word) : Team := { T with queue := [CL1], vregs := [(1024, a), (2048, 0x10000)] }
def tileQ1 : Tile := { tileQ with tail := 1 }
def CRm (a : Word) : Crew := { placeCrew (TRm a) with tiles := [tile5, tileQ1], nextUid := 4 }
def SQp : State := okOr (inCrew (CRm 0x700000000)) ((inCrew (CRm 0x700000000)).putEntry 0 3 1 0 (fun i => (TRm 0x700000000).groupWord hT 0x10000 0 i) (List.range 4))
theorem witness_RemoteAndMessages_names (a : Word) (ha : a = 0x700000000 ∨ a = 0x500000000 ∨ a = 0x900000000) :
    let t := TRm a; let c := CRm a; let s := inCrew c; let u := t.afterPops [memS0 hT m5, memS1 hT]
    s.oneLane R c t CL1 hT 0 ∧ t.pending = [] ∧ s.wlItems = [] ∧ s.matrix = [] ∧ t.lctr.toNat + t.bands ≤ 65535 ∧ t.laneReady CL1 [memS0 hT m5, memS1 hT] [10, 11] ∧ hT.dst ≠ hT.s2 ∧
    u.src u.popped (memS0 hT m5) 0 = a ∧ u.src u.popped (memS1 hT) 0 = 0x10000 ∧ coordOf (u.src u.popped (memS1 hT) 0) = ⟨0, 1, 0, 0⟩ ∧
    s.hears c 0 = true ∧
    s.remote c a = (if a = 0x700000000 then .tile 0 tileQ1 else if a = 0x500000000 then .tile 0 tile5 else .refused) := by
  rcases ha with rfl | rfl | rfl <;> and_intros <;> decide +kernel
theorem witness_RemoteAndMessages :
    (tile5.queue = false ∧ tile5.fmt ≠ 14#4 ∧ hT.ty ≠ 14#4 ∧ tile5.width = 32 ∧ m5.sel ≠ 0#5 ∧ tile5.inside ⟨0, 1, 0, 0⟩ = true ∧ tile5.poisoned ⟨0, 1, 0, 0⟩ none = false) ∧
    (tileQ1.queue = true ∧ tileQ1.fmt = 6#4 ∧ tileQ1.layout = 0#4 ∧ tileQ1.conv = none ∧ (inCrew (CRm 0x700000000)).tileAt 0 3 = some tileQ1 ∧ hT.z1 = false ∧ (TRm 0).laneErr = [] ∧ hT.s1.toNat + (tileQ1.n1.toNat + 1) / 2 ≤ (TRm 0).regs ∧ (tileQ1.tail - tileQ1.head).toNat < tileQ1.n0.toNat ∧
      (match (inCrew (CRm 0x700000000)).putEntry 0 3 (tileQ1.tail.toNat % tileQ1.n0.toNat) 0 (fun i => (TRm 0x700000000).groupWord hT 0x10000 0 i) (List.range 4) with | .ok s => s == SQp | .error _ => false) = true) ∧
    (let c := CRm 0; let s := inCrew c; let h := { hT with s2 := 12 }; let m := { m5 with handle := 7 }
     s.oneLane R c (TRm 0) CL1 h 0 ∧ (TRm 0).laneReady CL1 [] [10, 12] ∧ c.tile m.handle = some tileQ1 ∧ c.tileUid tileQ1.uid = some tileQ1 ∧ h.dst.toNat + (tileQ1.n1.toNat + 1) / 2 ≤ h.s2.toNat ∧ tileQ1.n1.toNat ≤ 64 ∧ h.dst.toNat + (tileQ1.n1.toNat + 1) / 2 ≤ (TRm 0).regs ∧ s.nextWait + 0 / 32 = s.nextWait ∧
     tileQ1.head ≠ tileQ1.tail ∧ s.takerBefore s.nextWait ⟨R.crew, tileQ1.uid, ⟨0, 0, 0, 0⟩, true, none⟩ = false ∧ (∀ i, i < 4 → tileQ1.poisoned ⟨0, i, 0, 0⟩ none = false)) := by
  and_intros <;> decide +kernel

/-- What the lanes of an instruction have outstanding. -/
def issued (i : Instr) (s : State) : Option (List (Nat × Loc × Nat × AccKind)) := (after i s).map (fun t => t.pending.map (fun a => (a.lane, a.loc, a.width, a.kind)))
theorem test_lane_memory : (issued (.tld (hd 2) m5) (inCrew (CM2 0 0x3F003F)) == some [(0, .tile 0 1 ⟨0, 0, 0, 0⟩ none, 32, .load 10 0), (1, .tile 0 1 ⟨63, 63, 0, 0⟩ none, 32, .load 10 0)] &&
    issued (.tst (hd 2) m5) (inCrew (CM2 0 0x3F003F)) == some [(0, .tile 0 1 ⟨0, 0, 0, 0⟩ none, 32, .store 7 0), (1, .tile 0 1 ⟨63, 63, 0, 0⟩ none, 32, .store 9 0)] &&
    (issued (.tldt (hd 2) { m5 with sel := 0 }) (inCrew (CM2 0 0x3E0003))).map (·.map (fun a => a.2.1)) == some [.tile 0 1 ⟨0, 0, 0, 0⟩ none, .tile 0 1 ⟨1, 0, 0, 0⟩ none, .tile 0 1 ⟨3, 62, 0, 0⟩ none, .tile 0 1 ⟨4, 62, 0, 0⟩ none] &&
    (issued (.xld (hd 2) m5) (inCrew (CM2 0 0x3E0003))).map (·.map (fun a => a.2.1)) == some [.tile 0 1 ⟨0, 0, 0, 0⟩ none, .tile 0 1 ⟨3, 63, 0, 0⟩ none] &&
    (after (.cstore (hd 2) m5) (inCrew (CM2 0 0x3E0003))).map (fun t => (t.vreg 10 0, t.vreg 10 1, t.lctr)) == some (2, 0x100000002, 1) &&
    (after (.atom (hd 2) m5) (inCrew (CM2 0 0x3E0003))).map (fun t => (t.pending.length, t.lctr)) == some (2, 2) &&
    (issued (.gld (hd 2) mG) (inTeam (TM2 0x1000000 0x100FFF0))).map (·.map (fun a => (a.2.1, a.2.2.1))) == some [(.glob 0x1000000 0x20000, 32), (.glob 0x100FFF0 0x2FFF0, 32)] &&
    (issued (.gst (hd 2) { mG with sel := 0 }) (inTeam (TM2 0x1000000 0x100FFF0))).map (·.map (fun a => (a.2.2.1, a.2.2.2))) == some [(64, .store 7 0), (64, .store 9 0)] &&
    (after (.gld (hd 2) mG) (inTeam (TM2 0x1000000 0x1000001))).map (·.faulted) == some true) = true := by decide +kernel
theorem test_lane_tags : ((after (.tldf hT { m5 with consume := true }) (inCrew (CT1 true))).map (fun t => (t.vreg 10 0, t.vreg 11 0)) == some (0x55, 0) && (match exec (.tldf hT { m5 with consume := true }) (inCrew (CT1 true)) with
      | .next s => (s.tileAt 0 1).map (·.full) == some [] | _ => false) && (after (.tldf hT m5) (inCrew (CT1 false))).map (fun t => (t.vreg 10 0, t.vreg 11 0)) == some (0, 1) &&
    (after (.tldIfempty hT m5) (inCrew (CT1 false))).map (fun t => (t.vreg 10 0, t.vreg 11 0)) == some (0x55, 0) && (match exec (.tste hT m5) (inCrew (CT1 false)) with
      | .next s => (s.tileAt 0 1).map (fun t => (t.full, t.words.map (·.2))) == some ([1], [7]) | _ => false) && (after (.tstIffull hT m5) (inCrew (CT1 true))).map (·.vreg 11 0) == some 0 &&
    (after (.rld hT m5) (inCrew (CRm 0x500000000))).map (fun t => (t.lwaits.map (·.remaining), t.lidx)) == some ([some 0], 0) && (after (.rld hT m5) (inCrew (CRm 0x900000000))).map (·.vreg 11 0) == some 7 &&
    (match exec (.msgput hT m5) (inCrew (CRm 0x700000000)) with | .next s => (s.tileAt 0 3).map (fun q => (q.tail, q.read ⟨1, 0, 0, 0⟩ none, q.read ⟨1, 1, 0, 0⟩ none)) == some (2, 0x10000, 0) | _ => false) &&
    (after (.msgput hT m5) (inCrew (CRm 0x700000000))).map (fun t => (t.vreg 10 0, t.vreg 11 0)) == some (6, 0) &&
    (after (.msgtake { hT with s2 := 12 } { m5 with handle := 7 }) (inCrew (CRm 0))).map (fun t => (t.vreg 12 0, t.lidx)) == some (0, 1)) = true := by decide +kernel

/-! ### The matrix engine (R238 to R256) -/

/-- A: 2 × 32 at 7 planes and one scale under handle 8, B: 32 × 2 under handle 9, the .f32 tile 10 of 2 × 2; the page's tensor of 4 × 4 under global handle 11. -/
def tA : Tile := mkTile 1 8 0x0001000100200002 0x108E false
def tB : Tile := mkTile 2 9 0x0001000100020020 0x128E false
def tD : Tile := mkTile 3 10 0x0001000100020002 0x8 false
/-- All 32 lanes; v3 of lane 0 asks for one chunk. -/
def TMx : Team := { TL with vregs := [(3072, 1)] }
def CMx : Crew := { placeCrew TMx with tiles := [tA, tB, tD], nextUid := 4, globals := [(11, BitVec.ofNat 512 descW)] }
def SMx : State := inCrew CMx
def kMma : ModMma := ⟨8, 9, 7, 7, 1⟩
def hMx (ty : BitVec 4) : LaneHead := { hd ty with dst := 4 }
theorem witness_MatrixInstructions_mma :
    SMx.laneAt R CMx TMx CL ∧ (SMx.queuedOn CMx.core).length < 8 ∧ TMx.pending = [] ∧
    (let u := TMx.afterPops [mxS0 (hMx 14), mxS1 (hMx 14), mxS2 (hMx 14)]; let v (y : Src) : Word := u.src u.popped y 0
     TMx.laneReady CL [mxS0 (hMx 14), mxS1 (hMx 14), mxS2 (hMx 14)] [] ∧ SMx.clausesDone R CL.fence = true ∧ TMx.executing CL.mask (hMx 14) = laneMask TMx.lanes ∧ getElem 16 0 (v (mxS2 (hMx 14))) = 1 ∧ (v (mxS2 (hMx 14))).toNat < 2 ^ 18 ∧
     CMx.tile kMma.hA = some tA ∧ tA.fmt = 14#4 ∧ tA.tagNow = 8#4 ∧ kMma.pa1.toNat + 1 ≤ tA.planes.toNat ∧ tA.poison = [] ∧ coordOf (v (mxS0 (hMx 14))) = ⟨0, 0, 0, 0⟩ ∧ 0 + 32 * 1 ≤ (tA.n1.toNat + 31) / 32 * 32 ∧
     0 < tA.n0.toNat ∧ 0 < tA.n2.toNat ∧ 0 < tA.n3.toNat ∧ CMx.tile kMma.hB = some tB ∧ tB.fmt = 14#4 ∧ tB.tagNow = 9#4 ∧ kMma.pb1.toNat + 1 ≤ tB.planes.toNat ∧ tB.poison = [] ∧
     coordOf (v (mxS1 (hMx 14))) = ⟨0, 0, 0, 0⟩ ∧ 32 * 1 ≤ (tB.n0.toNat + 31) / 32 * 32 ∧ 0 < tB.n1.toNat ∧ 0 < tB.n2.toNat ∧ 0 < tB.n3.toNat) := by
  and_intros <;> decide +kernel
/-- MREAD and MWRITE of lanes 0 and 1 at the first and the last places; MDRAIN to a tile, with a residual, and to global memory. -/
def TM3 : Team := { T with queue := [CL2], vregs := [(1025, 0x7E007F), (2048, 0x3F80000040000000)] }
def dTile : ModDrain := ⟨10, 10, false, false, true, true, 4, 1⟩
def dGlob : ModDrain := ⟨11, 0, true, false, false, false, 0, 1⟩
theorem witness_MatrixInstructions_others :
    (TMx.laneReady CL [] [] ∧ TMx.executing CL.mask (hMx 8) = laneMask TMx.lanes) ∧
    ((inTeam TM3).laneAt R (placeCrew TM3) TM3 CL2 ∧ maskLanes (TM3.executing CL2.mask (hMx 8)) TM3.lanes = [0, 1] ∧ TM3.laneReady CL2 [mxS0 (hMx 8)] [4] ∧ TM3.laneReady CL2 [mxS0 (hMx 8), mxS1 (hMx 8)] [] ∧
      (∀ y, y ∈ (⟨0, 0, 0, 0⟩ : Coord) :: [⟨127, 126, 0, 0⟩] → TM3.accErrAt 1 y = false) ∧ (∀ l, l ∈ [0, 1] → ∀ u, u ∈ [TM3.afterPops [mxS0 (hMx 8)], TM3.afterPops [mxS0 (hMx 8), mxS1 (hMx 8)]] →
        coordOf (u.src u.popped (mxS0 (hMx 8)) l) = if l = 0 then ⟨0, 0, 0, 0⟩ else ⟨127, 126, 0, 0⟩)) ∧
    (let srcs := [mxS0 (hMx 8), mxS1 (hMx 8), mxS2 (hMx 8)]; let v := drainSrc (TMx.afterPops srcs) (hMx 8) dTile
     TMx.laneReady CL srcs (nextReg (mxS2 (hMx 8)) (hMx 8).s2) ∧ (∀ y, y ∈ nextReg (mxS2 (hMx 8)) (hMx 8).s2 → y * 1024 ∉ TMx.laneErr) ∧ TMx.lctr.toNat + TMx.lanes / 32 ≤ 65535 ∧ dTile.glob = false ∧ CMx.tile dTile.dest = some tD ∧ tD.queue = false ∧ tD.fmt = 8#4 ∧ tD.poison = [] ∧
     0 < tD.n0.toNat ∧ 0 < tD.n1.toNat ∧ coordOf (v.getD 0 0) = ⟨0, 0, 0, 0⟩ ∧ coordOf (v.getD 2 0) = ⟨0, 0, 0, 0⟩ ∧ 0 < tD.n2.toNat ∧ 0 < tD.n3.toNat ∧ CMx.tile dTile.res = some tD ∧ isFloatTy tD.fmt = true ∧
     (∀ i, i < 2 → ∀ j, j < 2 → tD.inside ⟨0 + i, 0 + j, 0, 0⟩ = true) ∧ ¬(2 < tD.n0.toNat) ∧ ¬(2 < tD.n1.toNat)) ∧
    (let srcs := [mxS0 (hMx 8), mxS1 (hMx 8), mxS2 (hMx 8)]; let v := drainSrc (TMx.afterPops srcs) (hMx 8) dGlob; let d := cellGet CMx.globals dGlob.dest.toNat; let o := drainOrigin dGlob v
     TMx.laneReady CL srcs (nextReg (mxS0 (hMx 8)) (hMx 8).s0 ++ []) ∧ (∀ y, y ∈ nextReg (mxS0 (hMx 8)) (hMx 8).s0 ++ [] → y * 1024 ∉ TMx.laneErr) ∧ d ≠ 0#512 ∧ descFmt d = 8#4 ∧ descTag d ≠ 8 ∧ descTag d ≠ 9 ∧ descScm d = false ∧ (descShape d).inside (0 :: 0 :: o.drop 2) = true ∧
     (drainElems SMx CMx (hMx 8) dGlob (.tensor d) o (drainCells (descShape d) o)).2 = []) := by
  and_intros <;> decide +kernel

/-- A command of the placed team on core 0, alone in its queue, its accumulator held. -/
def cmdM (i : Instr) : MCmd := { id := 1, core := 0, team := R, clause := 0, ord := 0, step := 0, instr := i, src := [0, 0, 1, 0, 0], laneOps := [(0, 0, 0x3F80000040000000), (1, 0x7E007F, 5)], uidA := 1, uidB := 2 }
def qd (m : MCmd) : State := { SMx with matrix := [m], nextCmd := 2, accHold := [(1, R)] }
def mDrain : MCmd := { cmdM (.mdrain (hMx 8) { dTile with residual := false }) with uidA := 3 }
/-- That MDRAIN with its last value still to be written, and one that adds a residual. -/
def mDrain1 : MCmd := { mDrain with drain := some [(0, 5)] }
def mDrainR : MCmd := { cmdM (.mdrain (hMx 8) dTile) with uidA := 3, uidB := 3 }
theorem witness_MatrixArray :
    (∀ m, m ∈ [cmdM (.mzero (hMx 8) 1), cmdM (.mread (hMx 8) 1), cmdM (.mwrite (hMx 8) 1), mDrain, mDrainR, cmdM (.mma (hMx 14) kMma)] →
      (qd m).teamAt m.team = some (CMx, TMx) ∧ (qd m).arrayFree 0 = true ∧ (∀ y, y ∈ (qd m).matrix → y.phase ≠ .withdrawn) ∧
      (((qd m).allowedCmds 0).filter (fun y => (qd m).accHolder 0 y.accN == some y.team)).head? = some m) ∧
    (let m := cmdM (.mread (hMx 8) 1); (m.laneOps.map (·.1)).Nodup ∧ (∀ q, q ∈ m.laneOps → q.1 < 1024) ∧ (∀ q, q ∈ m.laneOps → (coordOf q.2.1).c0 ≤ 127 ∧ (coordOf q.2.1).c1 ≤ 126) ∧
      (m.laneOps.flatMap (fun q => [((coordOf q.2.1).c0, (coordOf q.2.1).c1), ((coordOf q.2.1).c0, (coordOf q.2.1).c1 + 1)])).Nodup) ∧
    (∀ m, m ∈ [mDrain, mDrainR] → (qd m).tileAt 0 3 = some tD ∧ TMx.pending = [] ∧ m.drain = none ∧ (∀ q, q ∈ (qd m).matrix → q.team = m.team → m.ord ≤ q.ord) ∧
      (TMx.clauseOf m.clause).isSome = true ∧ ((TMx.clauseOf m.clause).all (fun cl => (qd m).clausesDone m.team cl.fence)) = true ∧ ((qd m).tileAt 0 m.uidB).isSome = true ∧
      coordOf (m.src.getD 0 0#64) = ⟨0, 0, 0, 0⟩ ∧ 0 < tD.n0.toNat ∧ 0 < tD.n1.toNat ∧ TMx.accErr = []) ∧
    (mDrain1.drain = some [(0, 5)] ∧ ([(0, 5)].map (·.1) : List Nat).Nodup ∧ (0 * 128 + 0, 5) ∈ [(0, 5)] ∧ (qd mDrain1).tileAt 0 3 = some tD ∧ (qd mDrain1).teamAt R = some (CMx, TMx) ∧
      (qd mDrain1).matrix = [mDrain1] ∧ (qd mDrain1).commands = [] ∧ tD.freed = false ∧ tD.tracked = false ∧ (qd mDrain1).quiesced = false ∧ (qd mDrain1).powerLoss = none ∧ 1 ≤ TMx.bands ∧ TMx.bands ≤ 32) ∧
    (let m := { cmdM (.mma (hMx 14) kMma) with started := true }
     (qd m).runningOn 0 = some m ∧ (qd m).tileAt 0 m.uidA = some tA ∧ (qd m).tileAt 0 m.uidB = some tB ∧ m.cursor < m.chunks ∧ (qd m).quiesced = false ∧ (qd m).powerLoss = none) ∧
    (let m := { cmdM (.mma (hMx 14) kMma) with started := true, cursor := 1 }
     (qd m).runningOn 0 = some m ∧ m.chunks ≤ m.cursor ∧ (qd m).consumeReady m = true) ∧
    (let m := cmdM (.mzero (hMx 8) 1); let s := { qd m with accHold := [] }
     s.teamAt m.team = some (CMx, TMx) ∧ (s.allowedCmds 0).find? (fun y => y.accN == (1#2).toNat && s.accHolder 0 (1#2).toNat != some y.team) = some m ∧ s.matrix = [m] ∧ m.started = false ∧ m.phase = .idle) := by
  and_intros <;> decide +kernel
theorem witness_MatrixArray_held (y : Coord) : (qd mDrain).mmaHeld mDrain.team.crew mDrain.uidA y = false := by simp [State.mmaHeld, qd, MCmd.holds, mDrain, cmdM, MCmd.isMma]

/-- An MMA whose consume bits name both regions of tagged operands, after its last chunk. -/
def tAt : Tile := { tA with tags := true }.setTag ⟨0, 0, 0, 0⟩ (some 0) true
def tBt : Tile := { tB with tags := true }.setTag ⟨0, 0, 0, 0⟩ (some 0) true
def mCons : MCmd := { cmdM (.mma (hMx 14) kMma) with src := [0, 0, 1 + 3 * 2 ^ 16, 0, 0], started := true, cursor := 1 }
def SCons : State := { qd mCons with crews := [{ CMx with tiles := [tAt, tBt, tD] }] }
theorem witness_MatrixArray_consume :
    SCons.runningOn 0 = some mCons ∧ SCons.tileAt 0 mCons.uidA = some tAt ∧ SCons.tileAt 0 mCons.uidB = some tBt ∧ mCons.chunks ≤ mCons.cursor ∧ SCons.consumeReady mCons = true ∧ tAt.freed = false ∧ tBt.freed = false ∧
    mCons.uidA ≠ mCons.uidB ∧ mCons.uidB ≠ 0 ∧ (∀ i, i < 2 → (mCons.src.getD 2 0#64).getLsbD (16 + i) = true) ∧ tAt.tags = true ∧ tAt.conv = none ∧ tBt.tags = true ∧ tBt.conv = none ∧
    mCons.aOrigin.c0 + 1 < tAt.n0.toNat ∧ mCons.bOrigin.c1 + 1 < tBt.n1.toNat ∧ tAt.isFull ⟨0, 0, 0, 0⟩ (some 0) = true := by
  and_intros <;> decide +kernel
/-- R245 by hand: the full words of both regions are empty afterwards. -/
theorem test_consume : (match exec (.mmaComplete 0) SCons with | .next s => ((s.tileAt 0 1).map (·.full), (s.tileAt 0 2).map (·.full)) == (some [], some []) | _ => false) = true := by decide +kernel

/-- Two crews of one cohort on cores 0 and 1, each with one side of a paired MMA. -/
def R1 : TeamRef := ⟨1, 0⟩
def pairRecord : BitVec 1024 := BitVec.ofNat 1024 (placeRecord.toNat + 2 ^ 128 + 2 ^ 200)
def CP1 : Crew := { CMx with crewId := 1, place := some 1, born := 1 }
def SPr : State := { SMx with launches := [{ placeLaunch with record := pairRecord }], crews := [CMx, CP1] }
def side (r : TeamRef) (core : Nat) (ph : PairPhase) (st : Bool) (cur : Nat) : MCmd :=
  { cmdM (.mmaPair (hMx 14) kMma) with id := core + 1, core := core, team := r, phase := ph, started := st, cursor := cur, uidB := if core = 0 then 2 else 0 }
def offer (r : TeamRef) (core : Nat) (n : Nat) : Offer := ⟨core, r, 0, 8, 8, n⟩
/-- The package with both sides and some offers. -/
def prd (a b : PairPhase) (st : Bool) (cur : Nat) (os : List Offer) : State :=
  { SPr with matrix := [side R 0 a st cur, side R1 1 b st cur], nextCmd := 3, accHold := [(1, R), (5, R1)], offers := os, pairClk := [(0, 100)] }
theorem witness_MatrixInstructions_pair :
    SPr.laneAt R CMx TMx CL ∧ SPr.cohortSize CMx ≠ 1 ∧ CMx.leads = true ∧ CP1.leads = false ∧ ({ SPr with focus := some R1 } : State).laneAt R1 CP1 TMx CL ∧ SPr.cohortSize CP1 ≠ 1 := by
  and_intros <;> decide +kernel
/-- The commands of core 0 that may run and hold their accumulator. -/
def held0 (s : State) : List MCmd := (s.allowedCmds 0).filter (fun y => s.accHolder 0 y.accN == some y.team)
/-- A second team of the first crew, with a plain MMA that the core runs while the first team's pair offer is withdrawn. -/
def mPlain : MCmd := { cmdM (.mma (hMx 14) { kMma with acc := 2 }) with id := 3, team := ⟨0, 1⟩ }
def CMx2 : Crew := { CMx with teams := [TMx, { TMx with id := 1 }] }
def SWd : State := { prd .withdrawn .idle false 0 [] with crews := [CMx2, CP1], matrix := [side R 0 .withdrawn false 0, mPlain], accHold := [(1, R), (2, ⟨0, 1⟩)] }
theorem witness_PairedMma_start :
    (let s := prd .idle .idle false 0 []; let m := side R 0 .idle false 0
     m.core = 0 ∧ s.teamAt m.team = some (CMx, TMx) ∧ s.matrix.find? (fun y => y.id == m.id) = some m ∧ s.arrayFree 0 = true ∧ (held0 s).head? = some m ∧
     (∀ y, y ∈ s.matrix → y.core = 0 → y.phase ≠ .withdrawn) ∧ s.partnerGone m = false ∧ s.partnerRef m = some R1) ∧
    (let s := SWd; let m := side R 0 .withdrawn false 0
     m.core = 0 ∧ s.teamAt m.team = some (CMx2, TMx) ∧ s.matrix.find? (fun y => y.id == m.id) = some m ∧ s.arrayFree 0 = true ∧ m.phase = .withdrawn ∧
     ((held0 s).filter (fun x => x.phase != .withdrawn)).head? = some mPlain) ∧
    (let s := { prd .idle .idle false 0 [] with crews := [CMx, { CP1 with state := .completed }] }; let m := side R 0 .idle false 0
     s.arrayFree 0 = true ∧ (held0 s).head? = some m ∧ s.partnerGone m = true) ∧
    (let s := { prd (.offered 3) .idle false 0 [] with crews := [CMx, { CP1 with state := .completed }] }; s.offeredOn 0 = some (side R 0 (.offered 3) false 0) ∧ s.partnerGone (side R 0 (.offered 3) false 0) = true) := by
  and_intros <;> decide +kernel
theorem witness_PairedMma_offers :
    (let s := prd (.offered 65536) (.offered 0) false 0 []; let m := side R 0 (.offered 65536) false 0
     s.teamAt m.team = some (CMx, TMx) ∧ s.matrix.find? (fun y => y.id == m.id) = some m ∧ s.offeredOn 0 = some m ∧ s.partnerGone m = false ∧ s.offers.find? m.sentTo = none ∧ s.offers.any m.sentTo = false) ∧
    (∀ n, n ∈ [1, 2] → let s := prd (.offered 65535) (.offered 0) false 0 [offer R 1 n, offer R1 0 1]; let m := side R 0 (.offered 65535) false 0
     s.offeredOn 0 = some m ∧ s.partnerGone m = false ∧ s.offers.find? m.sentTo = some (offer R 1 n) ∧ s.partnerCmd m = some (side R1 1 (.offered 0) false 0) ∧ (n = 1 → (offer R 1 n).pa = 8 ∧ (offer R 1 n).pb = 8 ∧ (offer R 1 n).n = m.chunks) ∧
     (n = 2 → (offer R 1 n).n ≠ m.chunks) ∧ m.team.crew ≠ R1.crew ∧ s.teamAt R1 = some (CP1, TMx)) ∧
    (let s := prd (.armed 100) (.offered 0) false 0 [offer R 1 1]; let m := side R1 1 (.offered 0) false 0
     s.matrix.find? (fun y => y.id == m.id) = some m ∧ s.offeredOn 1 = some m ∧ s.partnerCmd m = some (side R 0 (.armed 100) false 0) ∧ (side R 0 (.armed 100) false 0).phase = .armed 100) := by
  and_intros <;> decide +kernel
theorem witness_PairedMma_run :
    (let s := prd (.armed 100) (.armed 100) false 0 []; let m := side R 0 (.armed 100) false 0
     s.matrix.find? (fun y => y.core == 0 && (match y.phase with | .armed _ => true | _ => false)) = some m ∧ s.partnerCmd m = some (side R1 1 (.armed 100) false 0) ∧ 100 ≤ s.pairNow 0) ∧
    (let s := prd (.armed 101) (.armed 101) false 0 []; s.pairNow 0 < 101 ∧ s.partnerCmd (side R 0 (.armed 101) false 0) = some (side R1 1 (.armed 101) false 0)) ∧
    (let s := prd .running .running true 1 []; let m := side R 0 .running true 1; let p := side R1 1 .running true 1
     s.runningOn 0 = some m ∧ s.partnerCmd m = some p ∧ p.started = true ∧ m.id ≠ p.id ∧ p.instr = m.instr ∧ s.consumeReady m = true ∧ s.consumeReady p = true ∧ m.chunks ≤ m.cursor ∧ p.chunks ≤ p.cursor) := by
  and_intros <;> decide +kernel

/-- The matrix queue after an instruction, as identifiers. -/
def mq (i : Instr) (s : State) : Option (List Nat) := match exec i s with | .next s' => some (s'.matrix.map (·.id)) | _ => none
theorem test_matrix : (mq (.mma (hMx 14) kMma) SMx == some [1] && mq (.mzero (hMx 8) 1) SMx == some [1] && mq (.mread (hMx 8) 1) (inTeam TM3) == some [1] && mq (.mwrite (hMx 8) 1) (inTeam TM3) == some [1] &&
    mq (.mdrain (hMx 8) { dTile with residual := false }) SMx == some [1] && mq (.mdrain (hMx 8) dGlob) SMx == some [1] && mq (.mmaPair (hMx 14) kMma) SPr == some [1] && mq (.mma (hMx 14) kMma) (inTeam TL) == some []) = true := by
  decide +kernel
theorem test_matrix_array : (mq (.matrixCommandStart 0) (qd (cmdM (.mread (hMx 8) 1))) == some [] && mq (.matrixCommandStart 0) (qd (cmdM (.mma (hMx 14) kMma))) == some [1] &&
    (match exec (.matrixCommandStart 0) (prd .idle .idle false 0 []) with | .next s => s.matrix.map (·.phase) == [.offered 0, .idle] && s.offers == [offer R1 1 1] | _ => false) &&
    (match exec (.pairOffer 0) (prd (.offered 3) (.offered 0) false 0 [offer R 1 1]) with | .next s => s.matrix.map (·.phase) == [.armed 164, .offered 0] | _ => false) &&
    (match exec (.pairStart 1 100) (prd (.armed 100) (.offered 0) false 0 [offer R 1 1]) with | .next s => s.matrix.map (·.phase) == [.armed 100, .armed 100] | _ => false) &&
    (match exec (.pairStartCycle 0) (prd (.armed 100) (.armed 100) false 0 []) with | .next s => s.matrix.map (·.started) == [true, true] | _ => false) &&
    (match exec (.accumulatorSwap 0 1) { qd (cmdM (.mzero (hMx 8) 1)) with accHold := [] } with | .next s => s.accHold == [(1, R)] | _ => false)) = true := by decide +kernel

/-! ### The ends of waits, first touch, placement, leases -/

/-- The placed team in a waiting scalar instruction; and its lane 0 in a tagged load of `full` or empty (0, 1) of tile 5. -/
def waitIn (i : Instr) (n : Option Nat) (w : Option TagWant) : Team := { T with sregs := [(2, 0x1000000), (3, 1), (4, 0x10000)], swait := some { instr := i, remaining := n, began := 0, want := w } }
def bw : Instr := .bwait 1 3 31
def w01 : TagWant := ⟨0, 1, ⟨0, 1, 0, 0⟩, true, none⟩
def ldf : Instr := .sldf 1 4 6 .i32 5 31 true
def inCrewT (t : Team) (full : Bool) : State := inCrew { placeCrew t with tiles := [tile5t full], nextUid := 2 }
def TLw (n : Option Nat) : Team := { TT1 with lwaits := [{ lane := 0, instr := .tldf hT m5, remaining := n, began := 0, want := some w01, a := 0x10000, b := 0 }] }
theorem witness_WaitsEnd_scalar :
    (S.teamAt R = some (C, T) ∧ S.crewRuns C = true ∧ T.faulted = false ∧ S.focus = some R) ∧
    (let t := waitIn .yield none none; (inTeam t).teamAt R = some (placeCrew t, t) ∧ (inTeam t).crewRuns (placeCrew t) = true ∧ t.faulted = false) ∧
    (let t := waitIn bw (some 0) none; (inTeam t).teamAt R = some (placeCrew t, t) ∧ (inTeam t).crewRuns (placeCrew t) = true ∧ (inTeam t).commands = []) ∧
    (let t := waitIn bw (some 1) none; let s := { inTeam t with commands := [cmd0] }; s.teamAt R = some (placeCrew t, t) ∧ s.crewRuns (placeCrew t) = true ∧
      (cmd0.crew = R.crew ∧ cmd0.team = R.team ∧ ((t.sreg 3).setWidth 16 - cmd0.ticket.extractLsb' 32 16).toNat < 32768)) := by
  and_intros <;> decide +kernel
theorem witness_WaitsEnd_tag (full : Bool) :
    let t := waitIn ldf (some 0) (some w01); let c := { placeCrew t with tiles := [tile5t full], nextUid := 2 }; let s := inCrewT t full
    s.teamAt R = some (c, t) ∧ s.crewRuns c = true ∧ c.element 5 (t.sreg 4) 32 (tile5t full) ∧ (tile5t full).tags = true ∧ coordOf (t.sreg 4) = ⟨0, 1, 0, 0⟩ ∧
    (tile5t full).poisoned ⟨0, 1, 0, 0⟩ none = false ∧ s.servable 0 w01 = full ∧ s.tagHolds w01 = full := by
  cases full <;> and_intros <;> decide +kernel
theorem witness_WaitsEnd_lane (full : Bool) :
    let t := TLw (some 0); let c := { placeCrew t with tiles := [tile5t full], nextUid := 2 }; let s := inCrewT t full
    s.teamAt R = some (c, t) ∧ s.crewRuns c = true ∧ t.faulted = false ∧ t.lwaits.map (·.lane) = [0] ∧ s.tileAt 0 1 = some (tile5t full) ∧ (tile5t full).freed = false ∧ t.restart = none ∧ hT.dst ≠ hT.s2 ∧
    selIndex m5.sel < 64 / elemWidth hT.ty ∧ s.servable 0 w01 = full ∧ (tile5t full).poisoned w01.c w01.blk = false := by
  cases full <;> and_intros <;> decide +kernel
/-- A lane whose RLD names crew 1 of a launch of two, which has not started. -/
def TRl : Team := { TLw (some 0) with lwaits := [⟨0, .rld hT m5, some 0, 0, none, 1, 0, 0⟩] }
def SRl : State := { inTeam TRl with launches := [{ placeLaunch with record := placeRecord + 0x100000000000000000000000000000000#1024, ranges := [(1, 1)] }] }
theorem witness_WaitsEnd_rld : SRl.teamAt R = some (placeCrew TRl, TRl) ∧ SRl.crewRuns (placeCrew TRl) = true ∧ TRl.faulted = false ∧ TRl.lwaits.map (fun w => (w.lane, w.remaining, w.want)) = [(0, some 0, none)] ∧
    TRl.restart = none ∧ SRl.remote (placeCrew TRl) 1 = .notStarted := by
  and_intros <;> decide +kernel
theorem test_waits : ((after (.teamWake R .scalar 0) (inTeam (waitIn .yield none none))).map (fun t => (t.pc, t.swait.isNone)) == some (0x1000004, true) &&
    (after (.waitTimeout R .scalar 0) { inTeam (waitIn bw (some 0) none) with commands := [cmd0] }).map (fun t => (t.sreg 1, t.swait.isNone)) == some (1, true) &&
    (after (.teamWake R .scalar 0) { inTeam (waitIn bw (some 0) none) with commands := [cmd0] }).map (·.swait.isNone) == some false &&
    (after (.teamWake R .scalar 0) (inCrewT (waitIn ldf none (some w01)) true)).map (fun t => (t.sreg 1, t.sreg 4, t.pc)) == some (0x55, 0x10000, 0x1000008) &&
    (after (.teamWake R .lane 0) (inCrewT (TLw none) true)).map (fun t => (t.vreg 10 0, t.lwaits.length)) == some (0x55, 0) && (after (.waitTimeout R .lane 0) (inCrewT (TLw (some 0)) false)).map (·.vreg 11 0) == some 1) = true := by decide +kernel

/-- Team 0 in wait 1, with a lane of team 1 that has waited for the same full word since wait 0. -/
def SLater (t : Team) : State := inCrew { placeCrew t with teams := [t, { T with id := 1, lwaits := [⟨0, .lnop, none, 0, some w01, 0, 0, 0⟩] }], tiles := [tile5t true], nextUid := 2 }
theorem witness_WaitsEnd_later :
    (let t := { TLw (some 0) with lwaits := (TLw (some 0)).lwaits.map (fun w => { w with began := 1 }) }; (SLater t).tagHolds w01 = true ∧ (SLater t).servable 1 w01 = false ∧ ((SLater t).teamAt R).map (·.2) = some t) ∧
    (let t := { waitIn ldf (some 0) (some w01) with swait := some ⟨ldf, some 0, 1, some w01, none, none⟩ }; (SLater t).tagHolds w01 = true ∧ (SLater t).servable 1 w01 = false ∧
      ((SLater t).teamAt R).map (·.2) = some t ∧ ((SLater t).tileAt 0 1).any (fun x => !x.freed) = true) := by
  and_intros <;> decide +kernel
/-- A gate wait of team 0, as it began, and woken by an update that left phase 8 where the token is 7. -/
def TGw (ph : Option Nat) : Team := { TG with swait := some ⟨.gwait 1 3 8 6 31, some 0, 0, none, some (2, ⟨5, 0, 0, 0⟩), ph⟩ }
theorem witness_WaitsEnd_gate : (∀ ph, ph ∈ [none, some 8] → (inTeam (TGw ph)).teamAt R = some (placeCrew (TGw ph), TGw ph) ∧ (inTeam (TGw ph)).crewRuns (placeCrew (TGw ph)) = true ∧ (TGw ph).faulted = false) ∧
    (8 + 2 ^ 16 - (TG.sreg 8).toNat % 2 ^ 16) % 2 ^ 16 = 1 := by decide +kernel
theorem test_gate_wait : ((after (.teamWake R .scalar 0) (inTeam (TGw (some 8)))).map (fun t => (t.sreg 1, t.swait.isNone)) == some (0, true) &&
    (after (.waitTimeout R .scalar 0) (inTeam (TGw none))).map (fun t => (t.sreg 1, t.swait.isNone)) == some (1, true)) = true := by decide +kernel

/-- An unbound page, and a pool of die 0 that is empty or holds the frame 0x40000. -/
def pool0 (n : BitVec 16) : Ring := { prod := n, k := 6, base := 0x30000, en := true }
def SFt (n : BitVec 16) : State := { S with mem := writeLE [] 0x30000 8 0x40000, pools := pool0 n :: S.pools.drop 1 }
theorem witness_FetchAndTranslation_touch (n : BitVec 16) (h : n = 0 ∨ n = 1) :
    (0x1000000#64).toNat < 2 ^ 56 ∧ (SFt n).inTether 0x1000000 = false ∧ (SFt n).rangeOf 0x1000000 = some placeRange ∧ pteV ((SFt n).pte placeRange 0x1000000) = false ∧ pteScm ((SFt n).pte placeRange 0x1000000) = false ∧
    (SFt n).pools[3 * 0 + placeRange.z]? = some (pool0 n) ∧ (SFt n).walks = [] ∧ (pool0 0).prod = (pool0 0).cons ∧ (pool0 1).prod ≠ (pool0 1).cons ∧ (pool0 1).en = true ∧
    (SFt 1).physRead ((pool0 1).base + 8 * ((pool0 1).cons.toNat % 2 ^ (pool0 1).k)) 8 = 0x40000 ∧ 0x40000 % pageSize placeRange.z = 0 ∧ paDie 0x40000 = 0 ∧ (SFt 1).isDead 0x40000 (pageSize placeRange.z) = false ∧
    placeRange.entryAddr 0x1000000 + 8 ≤ 0x40000 := by
  rcases h with rfl | rfl <;> and_intros <;> decide +kernel
/-- The walk of a page that is bound by now. -/
theorem witness_FetchAndTranslation_late : let v := { S with walks := [⟨3 * 0 + placeRange.z, 0x1000000, 0, 0x40000⟩] }
    v.rangeOf 0x1000000 = some placeRange ∧ v.pte placeRange 0x1000000 ≠ 0 := by decide +kernel
theorem test_first_touch : ((match exec (.firstTouchBind 0 0x1000000) (SFt 1) with | .next s => (readLE s.mem 0x10000 8, s.pools.map (·.cons) == 1 :: List.replicate 11 0) == (0x40001, true) | _ => false) &&
    (match exec (.firstTouchBind 0 0x1000000) (SFt 0) with | .next s => readLE s.mem 0x10000 8 == 0 | _ => false)) = true := by decide +kernel

/-! ### Placement (R29 to R42, R286 to R293) -/

/-- A launch whose one crew waits; it is dealt to region 0. -/
def placeL : Launch := { placeLaunch with ranges := [(0, 1)] }
def SPl : State := { W with crews := [], launches := [placeL] }
/-- The placed crew waits, in BWAIT for `n` cycles, in RGROW, or is FAULTED. -/
def TBw (n : Nat) : Team := { waitIn bw none none with blockedFor := n }
def TRg : Team := { waitIn (.rgrow 1 9 31) none none with sregs := [(9, 512)] }
def TFa : Team := { T with faulted := true, trapCause := 0x18 }
def SBw (n : Nat) : State := { inTeam (TBw n) with commands := [cmd0] }
/-- The second launch has priority 1 and wants all registers of a core of a package with one gang. -/
def bigRecord : BitVec 1024 := BitVec.ofNat 1024 (placeBase + 2 ^ 64 * placeBase + 2 ^ 128 * 1 + 2 ^ 160 * 1024 + 2 ^ 176 * 128 + 2 ^ 192 * 1 + 2 ^ 200 * 36 + 2 ^ 208 * 16)
def SPe : State :=
  { SBw 65536 with launches := [placeLaunch, { id := 1, record := bigRecord, ext := [], state := .eligible, epri := 1, ranges := [(0, 1)] }], vacantGangs := [1, 2], vacantCores := [1, 2, 3] }
def SAg : State := { SPl with launches := [{ placeL with aging := [(0, 262144)] }] }
theorem witness_Placement :
    ({ W with quiesced := true } : State).active = false ∧ SPl.active = true ∧
    (let w : Waiting := { launch := 0, cohort := 0, evicted := none, epri := 0 }; (SPl.waiting 0).find? (fun w => w.launch == 0 && w.cohort == 0) = some w ∧ w.evicted = none ∧ SPl.mayPlace 0 w none (SPl.waiting 0) = true ∧ SPl.launches[0]? = some placeL ∧
      SPl.fitsAt (recCohort placeL.record) (SPl.needsOf w) 2 3 = true ∧ (placeL.members 0).filter placeL.unstarted = [0]) ∧
    (let c := placeCrew (TBw 0); let s := { SBw 0 with closedCores := [0] }; s.active = true ∧ s.crewAt 0 = some c ∧ s.liveCohort c = [0] ∧ c.place = some 0 ∧ s.closedCores.contains 0 = true ∧ s.mayEvict 0 = true) ∧
    (let c := placeCrew TFa; let s := { inTeam TFa with closedCores := [0] }; s.active = true ∧ s.crewAt 0 = some c ∧ s.liveCohort c = [0] ∧ c.place = some 0 ∧ s.mayEvict 0 = true ∧ c.teams.any (·.faulted) = true ∧ c.poolZ = none) ∧
    (let c := placeCrew TFa; let s := inTeam TFa; s.active = true ∧ s.crewAt 0 = some c ∧ s.liveCohort c = [0] ∧ c.place.isSome = true ∧ c.state = .live ∧ c.teams.any (·.faulted) = true ∧ s.drained 0 = true ∧
      (∀ t, t ∈ c.teams → s.laneAtStop c t = true) ∧ c.poolZ = none) ∧
    (let c := placeCrew TRg; let s := inTeam TRg; s.crewAt 0 = some c ∧ s.liveCohort c = [0] ∧ c.place = some 0 ∧ s.youngest ((s.residents 0).filter s.mayChoose) = some 0 ∧ s.residents 0 = [0] ∧ s.cohortDrained 0 = true ∧
      (∀ t, t ∈ c.teams → (s.blocked c t || t.faulted || t.finished) = true) ∧ TRg ∈ c.teams ∧ s.blocked c TRg = true ∧ TRg.growWant.isSome = true) ∧
    (let c := placeCrew (TBw 65536); SPe.crewAt 0 = some c ∧ SPe.liveCohort c = [0] ∧ c.place = some 0 ∧
      (((SPe.waiting 0).filter (fun w => !SPe.fitsRegion (SPe.cohortZ w) (SPe.needsOf w) 0)).map (·.epri)).max? = some 1 ∧ SPe.victims 0 1 = [0] ∧ SPe.cohortDrained 0 = true) ∧
    (SAg.launches[0]? = some { placeL with aging := [(0, 262144)] } ∧ SAg.inBacklog { placeL with aging := [(0, 262144)] } 0 = true ∧
      placeL.epri < min 7 (recPriority placeL.record + (cellGet [(0, 262144#64)] 0).toNat / 2 ^ 18)) := by
  and_intros <;> decide +kernel
theorem witness_Placement_steal :
    let s := { SPl with regions := 2 }; let l := (List.range s.regions).filter (fun q => q != 1)
    1 < s.regions ∧ s.regionIdle 1 = true ∧ l.find? (fun q => l.all (fun x => decide (s.backlogLength x ≤ s.backlogLength q))) = some 0 ∧ 0 < s.backlogLength 0 ∧
    (s.waiting 0).find? (fun w => s.stealable 0 w && s.fitsRegion (s.cohortZ w) (s.needsOf w) 1) = some { launch := 0, cohort := 0, evicted := none, epri := 0 } ∧ s.launches[0]? = some placeL := by
  and_intros <;> decide +kernel
/-- The cores of the crews after an instruction. -/
def places (i : Instr) (s : State) : List (Option Nat) := match exec i s with | .next s' => s'.crews.map (·.place) | _ => []
theorem test_placement : (places (.crewPlace 0 0 2 3) SPl == [some 11] && places (.crewEvict 0) { SBw 0 with closedCores := [0] } == [none] && places (.crewEvict 0) (SBw 0) == [some 0] && places (.crewFaultSave 0) (inTeam TFa) == [none] &&
    places (.rgrowDeadlockEvict 0) (inTeam TRg) == [none] && places (.priorityEvict 0) SPe == [none] && places (.priorityEvict 0) { SPe with crews := [placeCrew (TBw 65535)] } == [some 0] &&
    (match exec (.priorityAging 0 0) SAg with | .next s => s.launches.map (·.epri) == [1] | _ => false) && (match exec (.cohortSteal 1) { SPl with regions := 2 } with | .next s => s.launches.map (·.stolen) == [[(0, 1)]] | _ => false)) = true := by decide +kernel

/-! ### The ends of the other waits -/

theorem witness_WaitsEnd_sste (full : Bool) :
    let w := { w01 with full := false }; let t := waitIn (.sste 3 4 6 .i32 5 31) (some 0) (some w); let c := { placeCrew t with tiles := [tile5t full], nextUid := 2 }; let s := inCrewT t full
    s.teamAt R = some (c, t) ∧ s.crewRuns c = true ∧ c.element 5 (t.sreg 4) 32 (tile5t full) ∧ (tile5t full).tags = true ∧ coordOf (t.sreg 4) = w.c ∧ t.streamIdle .scalar = true ∧ (tile5t full).tracked = false ∧
    s.mmaHeld 0 1 w.c = false ∧ s.servable 0 w = !full ∧ s.tagHolds w = !full := by
  cases full <;> and_intros <;> decide +kernel
/-- An MWAIT that compares s1 with the word of the page. -/
def TMw (v : Word) : Team := { waitIn (.mwait 1 2 31) (some 0) none with sregs := [(1, v), (2, 0x1000000)] }
def SMw (v : Word) : State := ((inTeam (TMw v)).translate (some 0) 0 placeBase false).1
theorem witness_WaitsEnd_mwait (v : Word) (h : v = 0 ∨ v = BitVec.ofNat 64 (readLE S.mem placePage 8)) :
    (inTeam (TMw v)).teamAt R = some (placeCrew (TMw v), TMw v) ∧ (inTeam (TMw v)).reaches 0 ((TMw v).sreg 2).toNat 8 false (SMw v) placePage ∧
    (BitVec.ofNat 64 (readLE (SMw v).mem placePage 8) = (TMw v).sreg 1 ↔ v ≠ 0) := by
  rcases h with rfl | rfl <;> exact ⟨by decide +kernel, ⟨by decide +kernel, by decide +kernel, ⟨BitVec.ofNat 64 placeEntry, by decide +kernel, by decide +kernel⟩, by decide +kernel⟩, by decide +kernel⟩
/-- An RGROW to 128 registers, alone in its core or beside a team that holds the whole file. -/
def TRw : Team := { waitIn (.rgrow 1 9 31) (some 0) none with sregs := [(9, 128)] }
def CRw (full : Bool) : Crew := { placeCrew TRw with teams := if full then [TRw, { T with id := 1, lanes := 1024, regs := 128 }] else [TRw] }
theorem witness_WaitsEnd_rgrow (full : Bool) :
    let c := CRw full; let s := inCrew c
    s.teamAt R = some (c, TRw) ∧ s.crewRuns c = true ∧ (TRw.sreg 9).toNat % 8 = 0 ∧ TRw.regs < (TRw.sreg 9).toNat ∧ (s.coreRegsUsed c.core + TRw.lanes * ((TRw.sreg 9).toNat - TRw.regs) ≤ 131072 ↔ full = false) ∧
    s.growBefore c.core 0 = false ∧ s.residents c.core = [0] ∧ s.crewAt 0 = some c ∧ c.mirrored = false := by
  cases full <;> and_intros <;> decide +kernel
/-- TDWAIT and WLTAKE that wait, at a set of these counts. -/
def TWw (i : Instr) : Team := { TWI with wl := [⟨0x1000000, 0, false⟩], swait := some { instr := i, remaining := some 0, began := 0 } }
def CWw (i : Instr) : Crew := { CWI with teams := [TWw i] }
def SWw (i : Instr) (app tak infl head tail : Nat) : State := named (setIn (inCrew (CWw i)) app tak infl 0 head tail)
theorem witness_WaitsEnd_lists (i : Instr) (h : i = .tdwait 1 12 31 ∨ i = .wltake 1 12 31) :
    (let s := SWw i 1 1 0 1 1; s.teamAt R = some (CWw i, TWw i) ∧ s.crewRuns (CWw i) = true ∧ s.changeDue R ((TWw i).sreg 12).toNat = false ∧ s.wlBlock 0 ((TWw i).sreg 12).toNat = some (blk 1 1 0 0) ∧
      (s.putWlBlock 0 ((TWw i).sreg 12).toNat { blk 1 1 0 0 with state := 1 } (TWw i).stepNow).isSome = true) ∧
    (let s := SWw i 1 1 2 1 1; s.teamAt R = some (CWw i, TWw i) ∧ s.crewRuns (CWw i) = true ∧ s.wlBlock 0 ((TWw i).sreg 12).toNat = some (blk 1 1 2 0) ∧ s.changeDue R ((TWw i).sreg 12).toNat = false) ∧
    (let s := SWw i 1 1 2 1 1; let k := (TWw i).take 12; k.set = ((TWw i).sreg 12).toNat ∧ k.list < (blk 1 1 2 0).lists ∧ k.tile (CWw i) = some tile6 ∧ s.wlEntry 0 k.set k.list = some (1, 1)) := by
  rcases h with rfl | rfl <;> and_intros <;> decide +kernel
def iTk : Instr := .wltake 1 12 31
def STw : State := SWw iTk 1 0 1 0 1
def STw1 : State := okOr STw (STw.tileWrite 0 2 ⟨0, 0, 0, 0⟩ none 0x77 0 false)
def STw2 : State := (STw1.putWlEntry 0 0x1000000 0 1 1 0).getD STw1
theorem witness_WaitsEnd_take :
    let k := (TWw iTk).take 12
    STw.teamAt R = some (CWw iTk, TWw iTk) ∧ STw.changeDue R k.set = false ∧ STw.wlBlock 0 k.set = some (blk 1 0 1 0) ∧ k.tile (CWw iTk) = some tile6 ∧ STw.wlEntry 0 k.set k.list = some (0, 0 + 1) ∧
    STw.takeBefore 0 k = false ∧ STw.wlHoles = [] ∧ STw.wlItems = [] ∧ STw.poison = [] ∧ 1 ≤ k.m ∧ STw.wlRead 0 ((blk 1 0 1 0).itemAt k.list 0) 8 = some 0x77 ∧
    (match STw.tileWrite 0 tile6.uid k.at_ none 0x77 (TWw iTk).stepNow false with | .ok s => s == STw1 | .error _ => false) = true ∧ STw1.putWlEntry 0 k.set k.list 1 1 (TWw iTk).stepNow = some STw2 ∧
    (STw2.putWlBlock 0 k.set { blk 1 0 1 0 with taken := 1, inflight := 2 } (TWw iTk).stepNow).isSome = true := by
  and_intros <;> decide +kernel
/-- Lane 0 in another tagged instruction at (0, 1) of tile 5, full or empty. -/
def TLi (i : Instr) (w : Option TagWant) (a b : Word) : Team := { TT1 with lwaits := [{ lane := 0, instr := i, remaining := some 0, began := 0, want := w, a := a, b := b }] }
theorem witness_WaitsEnd_lanes (i : Instr) (f full : Bool) (h : (i = .tldIfempty hT m5 ∨ i = .tste hT m5) ∧ f = false ∨ i = .tstIffull hT m5 ∧ f = true) :
    let g := { w01 with full := f }; let t := TLi i (some g) 0x10000 7; let s := inCrewT t full; let tl := tile5t full
    (s.teamAt R).map (·.2) = some t ∧ t.faulted = false ∧ t.restart = none ∧ s.tileAt g.crew g.uid = some tl ∧ tl.freed = false ∧ tl.tracked = false ∧ s.mmaHeld g.crew g.uid g.c = false ∧ tl.poisoned g.c g.blk = false ∧
    selIndex m5.sel < 64 / elemWidth hT.ty ∧ hT.dst ≠ hT.s2 ∧ s.servable 0 g = (full == f) ∧ s.tagHolds g = (full == f) := by
  rcases h with ⟨rfl | rfl, rfl⟩ | ⟨rfl, rfl⟩ <;> cases full <;> and_intros <;> decide +kernel
/-- Lane 0 in MSGTAKE of the queue with an entry or none, in MSGPUT to it with room or full, in RLD of tile 5. -/
def hT12 : LaneHead := { hT with s2 := 12 }
def wQ : TagWant := ⟨0, 3, ⟨0, 0, 0, 0⟩, true, none⟩
def SLq_ (t : Team) (q : Tile) : State := inCrew { placeCrew t with tiles := [tile5, q], nextUid := 4 }
theorem witness_WaitsEnd_msgtake (q : Tile) (h : q = tileQ1 ∨ q = tileQ) :
    let t := TLi (.msgtake hT12 { m5 with handle := 7 }) (some wQ) 0 0; let s := SLq_ t q
    (s.teamAt R).map (·.2) = some t ∧ s.tileAt 0 3 = some q ∧ q.freed = false ∧ q.n1.toNat ≤ 64 ∧ hT12.dst.toNat + (q.n1.toNat + 1) / 2 ≤ hT12.s2.toNat ∧ (q.head = q.tail ↔ q = tileQ) ∧
    s.takerBefore 0 wQ = false ∧ (∀ i, i < 4 → q.poisoned ⟨0, i, 0, 0⟩ none = false) := by
  rcases h with rfl | rfl <;> and_intros <;> decide +kernel
theorem witness_WaitsEnd_rldGo :
    let t := TLi (.rld hT m5) none 0x500000000 0x10000; let s := SLq_ t tileQ1; let c := { placeCrew t with tiles := [tile5, tileQ1], nextUid := 4 }
    s.teamAt R = some (c, t) ∧ s.crewRuns c = true ∧ hT.dst ≠ hT.s2 ∧ s.remote c 0x500000000 = .tile 0 tile5 ∧ s.hears c 0 = true ∧ tile5.queue = false ∧ tile5.fmt ≠ 14#4 ∧ hT.ty ≠ 14#4 ∧ tile5.width = elemWidth hT.ty ∧ m5.sel ≠ 0#5 ∧
    tile5.inside (coordOf 0x10000) = true ∧ tile5.poisoned (coordOf 0x10000) none = false := by
  and_intros <;> decide +kernel
theorem witness_WaitsEnd_msgput (q : Tile) (h : q = tileQ1 ∨ q = { tileQ1 with tail := 8 }) :
    let t := TLi (.msgput hT m5) none 0x700000000 0x10000; let s := SLq_ t q; let c := { placeCrew t with tiles := [tile5, q], nextUid := 4 }
    s.teamAt R = some (c, t) ∧ s.crewRuns c = true ∧ s.remote c 0x700000000 = .tile 0 q ∧ s.hears c 0 = true ∧ q.queue = true ∧ hT.s1.toNat + (q.n1.toNat + 1) / 2 ≤ t.regs ∧ t.laneErr = [] ∧
    ((q.tail - q.head).toNat < q.n0.toNat ↔ q = tileQ1) ∧
    (match s.putEntry 0 q.uid (q.tail.toNat % q.n0.toNat) t.headStep (fun i => t.groupWord hT 0x10000 0 i) (List.range q.n1.toNat) with | .ok _ => true | .error _ => false) = true := by
  rcases h with rfl | rfl <;> and_intros <;> decide +kernel
/-- A cohort chosen for eviction that is not drained yet stays. -/
theorem witness_Placement_undrained :
    (let t := { TRg with pending := [⟨0, 0, .lane, 0, 0, .glob placeBase placePage, 32, .store 7 0, 0, 0⟩] }; let c := placeCrew t; let s := inTeam t; s.crewAt 0 = some c ∧ s.liveCohort c = [0] ∧ c.place = some 0 ∧
      s.youngest ((s.residents 0).filter s.mayChoose) = some 0 ∧ s.residents 0 = [0] ∧ s.blocked c t = true ∧ t.growWant.isSome = true ∧ s.cohortDrained 0 = false) ∧
    (let t := { TBw 65536 with pending := [⟨0, 0, .lane, 0, 0, .glob placeBase placePage, 32, .store 7 0, 0, 0⟩] }; let s := { SPe with crews := [placeCrew t] }; s.victims 0 1 = [0] ∧ s.cohortDrained 0 = false) := by
  and_intros <;> decide +kernel

/-! ### Test leases (R294 to R298, R380 to R400) -/

def uc (p : Nat) : DevUnit := .core 0 p
/-- Core 1 of gang 0 under lease. -/
def lu (st : Nat) (sp : Bool) (n : Nat) : LeasedUnit := { u := uc 1, state := st, slot := 1, replaced := sp, drained := n, score := 320 }
def withUnit (s : State) (x : LeasedUnit) : State := { s with units := [x] }
def SNp : State := inTeam { T with nopreDepth := 1 }
/-- Slot `n` of the unit's group is the next, and many have arrived. -/
def dueIn (s : State) (u : DevUnit) (n : Nat) : State := { s with mgmt := 2 ^ 45, slotsUsed := [(groupHead u, n)] }
theorem slotIsDue_of {s : State} {u : DevUnit} (h : (s.slotsTaken u + 1) * rotationEvery u ≤ s.mgmt ∧ (groupUnits u)[s.slotsTaken u % (groupUnits u).length]? = some u) : s.slotIsDue u = true := by
  have e : 0 < rotationEvery u := by unfold rotationEvery; split <;> decide
  have : s.slotsTaken u < s.slotsArrived u := (Nat.le_div_iff_mul_le e).2 (h.1.trans (Nat.le_add_right _ _))
  simp [State.slotIsDue, this, h.2]
theorem witness_TestLeases_slots :
    (dueIn W (uc 0) 0).slotIsDue (uc 0) = true ∧ (dueIn SNp (uc 0) 0).slotIsDue (uc 0) = true ∧ (dueIn W (.port 23) 5).slotIsDue (.port 23) = true ∧ (dueIn W (.channel 15 31) 31).slotIsDue (.channel 15 31) = true ∧
    (dueIn W (uc 4) 4).slotIsDue (uc 4) = true ∧ ({ dueIn W (uc 0) 0 with vacantGangs := [0] } : State).slotIsDue (uc 0) = true := by
  and_intros <;> exact slotIsDue_of (by decide +kernel)
theorem witness_TestLeases_noSlot : W.slotIsDue (uc 1) = false ∧ (W.unit (uc 1)).state = 0 := by
  have h : (groupUnits (uc 1))[W.slotsTaken (uc 1) % (groupUnits (uc 1)).length]? = some (uc 1) ↔ False := by decide +kernel
  exact ⟨by simp [State.slotIsDue, h], by decide +kernel⟩
theorem witness_TestLeases_due :
    ({ dueIn W (uc 0) 0 with vacantGangs := [0] } : State).leasable (uc 0) = false ∧
    (∀ x, x ∈ [(uc 0, 0), (.port 23, 5), (.channel 15 31, 31), (uc 4, 4)] → let s := dueIn W x.1 x.2
      s.active = true ∧ s.leasable x.1 = true ∧ (∀ v, v ∈ groupUnits x.1 → v ≠ x.1 → (s.unit v).state = 0 ∨ (s.unit v).state = 6 ∨ (s.unit v).state = 7)) ∧
    ((dueIn W (uc 0) 0).unit (uc 0)).state = 0 ∧ (dueIn W (uc 0) 0).defers ((dueIn W (uc 0) 0).unit (uc 0)).slot = false ∧
    (let s := dueIn SNp (uc 0) 0; s.active = true ∧ s.leasable (uc 0) = true ∧ s.defers (s.unit (uc 0)).slot = true ∧ (s.unit (uc 0)).state = 0) ∧
    (((dueIn W (.port 23) 5).unit (.port 23)).state = 0 ∧ ((dueIn W (.port 23) 5).ports[23]?).isSome = true) ∧
    (let s := dueIn W (.channel 15 31) 31; (s.unit (.channel 15 31)).state = 0 ∧ .channel 15 32 ∈ groupUnits (.channel 15 31) ∧ (s.unit (.channel 15 32)).state = 6) ∧
    ((dueIn W (uc 4) 4).unit (uc 4)).state = 6 := by
  and_intros <;> decide +kernel
/-- A tile at handle 5 takes the crew's capacity note. -/
def CNo : Crew := { CT with capNote := 0x105, capPending := true }
theorem witness_TestLeases_notes :
    ((inCrew CNo).crewAt 0 = some CNo ∧ CNo.capPending = true ∧ CNo.state = .live ∧ CNo.capNote.getLsbD 8 = true ∧ CNo.tile (CNo.capNote.extractLsb' 0 8) = some tile5 ∧ CNo.tileUid tile5.uid = some tile5 ∧ tile5.tags = true ∧
      tile5.fmt ∈ [2#4, 3#4, 6#4, 7#4] ∧ tile5.tracked = false ∧ (inCrew CNo).mmaHeld 0 tile5.uid ⟨0, 0, 0, 0⟩ = false) ∧
    (S.teamAt R = some (C, T) ∧ T.nopreUsed < nopreBudget) ∧
    (let t := { T with nopreDepth := 1, nopreUsed := nopreBudget }; (inTeam t).teamAt R = some (placeCrew t, t) ∧ t.nopreDepth ≠ 0#4 ∧ nopreBudget ≤ t.nopreUsed ∧ t.nopreSpent = false) ∧
    (let x := { lu 3 false (2 ^ 24) with u := uc 0, slot := 0 }; let s := withUnit S x
     s.active = true ∧ s.inTheWay (s.unit (uc 0)) = [0] ∧ (s.unit (uc 0)).state = 3 ∧ s.crewAt 0 = some C ∧ C.place.isSome = true ∧ s.liveCohort C = [0] ∧ s.cohortStopped [0] = true) ∧
    (let x : LeasedUnit := { u := .channel 15 31, state := 3, slot := 31 }; let s := withUnit W x; s.active = true ∧ (s.unit (.channel 15 31)).state = 3 ∧ 2 ^ 25 - 1 < channelLines) := by
  and_intros <;> decide +kernel
theorem witness_TestLeases_test :
    (let s := withUnit W (lu 3 false 0)
     s.active = true ∧ (∀ y, y ∈ s.units → (s.unit y.u).state ≠ 1 ∧ (s.unit y.u).state ≠ 2) ∧ (s.unit (uc 1)).state = 3 ∧ s.residents 1 = [] ∧ s.vacantCores.contains 1 = false ∧ s.spareOf (uc 1) = some (uc 4) ∧ (s.unit (uc 4)).score.toNat < 2048) ∧
    (let s := { W with units := [lu 3 false 0, { defaultUnit (uc 4) with state := 7 }] }
     (∀ y, y ∈ s.units → (s.unit y.u).state ≠ 1 ∧ (s.unit y.u).state ≠ 2) ∧ (s.unit (uc 1)).state = 3 ∧ s.residents 1 = [] ∧ s.spareOf (uc 1) = none) ∧
    (let s := withUnit W { lu 3 false 0 with u := uc 0, slot := 0 }; (s.unit (uc 0)).state = 3 ∧ s.residents (s.unit (uc 0)).slot ≠ []) ∧
    (∀ sp, sp ∈ [true, false] → let s := withUnit W (lu 4 sp 0)
      s.active = true ∧ (∀ y, y ∈ s.units → (s.unit y.u).state ≠ 1 ∧ (s.unit y.u).state ≠ 2) ∧ (s.unit (uc 1)).state = 4 ∧ (s.unit (uc 1)).isSpare = false ∧ (s.unit (uc 1)).replaced = sp ∧
      (s.unit (uc 1)).charged = 0 ∧ (s.unit (uc 1)).failed = none ∧ s.vaux = true ∧ s.powerLoss = none ∧ s.decayAge < 2 ^ 28) := by
  and_intros <;> decide +kernel
/-- A run that agrees with its reference, and one of set 2 with a word in which two bits differ. -/
def okRun (k : Nat) : TestRun := ⟨k, 5, 5, 0, 0, 0⟩
def badRun : TestRun := { okRun 2 with wide := 1 }
def okRuns : List TestRun := (List.range 7).map okRun
def failedRuns : List TestRun := [okRun 0, okRun 1, badRun, badRun]
/-- What a test reports of runs beside their signatures. -/
def found (l : List TestRun) : List RunFound := l.map (fun r => ⟨r.set, r.wide, r.narrow, r.replays⟩)
theorem test_runs_of_report : testRuns (found okRuns) (okRuns.map (·.got)) (okRuns.map (·.expect)) = okRuns := by decide +kernel
theorem witness_TestLeases_runs :
    testEnd (uc 1) 0 false [okRun 1] = .noTest ∧ (okRuns.map (·.set) = List.range 7 ∧ okRuns.all (passesRun (uc 1)) = true ∧ testEnd (uc 1) 0 false okRuns = .ended) ∧
    (let once := [okRun 0, okRun 1, badRun, okRun 2, okRun 3, okRun 4, okRun 5, okRun 6]; testEnd (uc 1) 0 false once = .ended ∧ min 65535 (320 + 4096 * (once.filter (fun r => !passesRun (uc 1) r)).length) < 32768 ∧
      2048 ≤ min 65535 (320 + 4096 * (once.filter (fun r => !passesRun (uc 1) r)).length) / 2 ∧ 32768 ≤ min 65535 (30000 + 4096 * (once.filter (fun r => !passesRun (uc 1) r)).length)) ∧
    (let pre := [okRun 0, okRun 1]; pre.map (·.set) = List.range badRun.set ∧ pre.all (passesRun (uc 1)) = true ∧ badRun.set < 7 ∧ passesRun (uc 1) badRun = false) := by
  and_intros <;> decide +kernel
theorem witness_TestLeases_scores :
    (let m := { cmdM (.mma (hMx 14) kMma) with started := true }; (qd m).servingCore 0 = some (uc 0) ∧ ((qd m).runningOn 0).isSome = true) ∧
    2 ^ 28 ≤ ({ W with decayAge := 2 ^ 28 } : State).decayAge ∧ W.decayAge < 2 ^ 28 ∧ scrubFinds (uc 0) .correctedCore = true ∧ scrubFinds (.slice 0) .correctedSlice = true ∧ scrubFinds (.scm 0) .correctedScm = true ∧
    errorCell (uc 0) 5 ∉ W.corrected ∧ (let s := { W with corrected := [errorCell (uc 0) 5] }; s.corrected.filter (fun p => p == errorCell (uc 0) 5) = [errorCell (uc 0) 5]) ∧
    scrubFinds (.channel 0 0) .uncorrectable = true ∧ W.loadsOut (320 / 64 * 64) 64 = false ∧ (inTeam { T with pending := [⟨1, 1, .lane, 0, 0, .glob 0 320, 32, .load 1 0, 0, 0⟩] }).loadsOut (320 / 64 * 64) 64 = true ∧
    (let s := { withUnit W (lu 0 false 0) with decayAge := 2 ^ 28 }; s.decayAge < 2 ^ 29 ∧ ∀ y, y ∈ s.units → (s.unit y.u).score.toNat < 2048 ∧ y.score.toNat < 2048) := by
  and_intros <;> decide +kernel
/-- Port 23 under test while the package is quiesced. -/
def SQt : State := { withUnit W { u := .port 23, state := 4 } with quiesced := true }
def portRun (n : Nat) : RunFound := ⟨0, 0, n, 3⟩
theorem witness_TestLeases_quiesced : let x := SQt.unit (.port 23)
    SQt.quiesced = true ∧ SQt.decayAge < 2 ^ 28 ∧ (SQt.ports[23]?).isSome = true ∧ x.state = 4 ∧ x.charged = 0 ∧ x.failed = none ∧ x.score.toNat < 2048 ∧ SQt.vaux = true ∧ SQt.powerLoss = none ∧
    testRuns [portRun 1024] [0] [0] = [⟨0, 0, 0, 0, 1024, 3⟩] ∧ testRuns [portRun 1025, portRun 1025] [0, 0] [0, 0] = [⟨0, 0, 0, 0, 1025, 3⟩, ⟨0, 0, 0, 0, 1025, 3⟩] := by
  and_intros <;> decide +kernel
/-- R383, R386, R388: passed, the unit waits in RETURNING with its port DOWN; failed, in TESTING with both runs charged. R389: a run with three replays that fails. -/
theorem test_quiesced_lease : ((match exec (.testVerdict (.port 23) [portRun 1024] [0] [0]) SQt with | .next s => ((s.unit (.port 23)).state, (s.ports[23]?).map (·.state)) == (5, some 0) | _ => false) &&
    (match exec (.testVerdict (.port 23) [portRun 1025, portRun 1025] [0, 0] [0, 0]) SQt with | .next s => ((s.unit (.port 23)).state, (s.unit (.port 23)).score) == (4, 8192) | _ => false) &&
    (((withUnit W (lu 4 false 0)).testRun (uc 1) ⟨2, 1, 0, 3⟩ 0 0).unit (uc 1)).score == 320 + 3 + 4096) = true := by decide +kernel
/-- States of core 1 of gang 0 and of its spare after an instruction. -/
def unitsAfter (i : Instr) (s : State) : List Nat := match exec i s with | .next s' => [(s'.unit (uc 1)).state, (s'.unit (uc 4)).state, (s'.unit (uc 1)).score.toNat] | _ => []
/-- R380, R383: core 0's slot makes it DRAINING and uses the slot. -/
theorem test_lease_due : (match exec (.leaseDue (uc 0)) (dueIn W (uc 0) 0) with | .next s => ((s.unit (uc 0)).state, s.slotsTaken (uc 0), s.capGen, s.closedCores) == (3, 1, 1, [0]) | _ => false) = true := by
  have h := witness_TestLeases_slots.1
  have e : exec (.leaseDue (uc 0)) (dueIn W (uc 0) 0) = .next (((((dueIn W (uc 0) 0).useSlot (uc 0)).makeDue (uc 0) false).advanceLease (uc 0))) := by
    show execLeaseDue _ _ = _
    unfold execLeaseDue
    rw [h]
    rfl
  rw [e]
  decide +kernel
theorem test_leases : (unitsAfter (.leaseTestStart (uc 1)) (withUnit W (lu 3 false 0)) == [4, 0, 320] && unitsAfter (.testVerdict (uc 1) (found okRuns) (okRuns.map (·.got)) (okRuns.map (·.expect))) (withUnit W (lu 4 false 0)) == [0, 6, 160] &&
    unitsAfter (.testVerdict (uc 1) (found failedRuns) (failedRuns.map (·.got)) (failedRuns.map (·.expect))) (withUnit W (lu 4 false 0)) == [7, 6, 8512] && unitsAfter .scoreDecay { withUnit W (lu 0 false 0) with decayAge := 2 ^ 28 } == [0, 6, 310] &&
    unitsAfter (.patrolScrub (uc 1) (some .correctedCore) 5) (withUnit W (lu 0 false 0)) == [0, 6, 328] && places (.forcedMigration (uc 0)) (withUnit S { lu 3 false (2 ^ 24) with u := uc 0, slot := 0 }) == [none] &&
    (match exec (.capacityNotify 0) { inCrew CNo with capGen := 7 } with | .next s => (s.tileAt 0 1).map (fun t => (t.words, t.full)) == some ([(0, 7)], [0]) | _ => false) &&
    (after (.nopreBudgetSpent R) (inTeam { T with nopreDepth := 1, nopreUsed := nopreBudget })).map (·.nopreSpent) == some true &&
    (match exec (.shadowLatchReplay 0) (qd { cmdM (.mma (hMx 14) kMma) with started := true }) with | .next s => (s.unit (uc 0)).score == 1 | _ => false) &&
    (match exec (.channelLineMove 15 31 7) (withUnit W { u := .channel 15 31, state := 3, slot := 31 }) with | .next s => (s.unit (.channel 15 31)).moved == [7] | _ => false)) = true := by decide +kernel

/-! ### The host's registers and the mailbox (R300 to R312) -/

/-- Bytes of fields of n bytes, and a package with queue 0, pool 0 and the event ring enabled, and two events. -/
def pay (l : List (Nat × Nat)) : List Byte := l.flatMap (fun q => (List.range q.1).map (fun i => BitVec.ofNat 8 (q.2 / 256 ^ i)))
def ring00 : Ring := {}
def SHo : State := { W with lqs := ring0 :: List.replicate 63 ring00, pools := { pool0 5 with lowMark := 3 } :: List.replicate 11 ring00, evRing := { k := 4, base := 0x1000, en := true }, events := [7, 8] }
theorem witness_HostRings :
    State.reset.usable = false ∧ SHo.usable = true ∧ SHo.lqs[0]? = some ring0 ∧ ring0.en = true ∧ SHo.pools[0]? = some { pool0 5 with lowMark := 3 } ∧ (2 ^ 40 - 8) + 8 ≤ 2 ^ 40 ∧ SHo.isDead (2 ^ 40 - 8) 8 = false ∧
    SHo.isPoisoned (2 ^ 40 - 8) 8 = false ∧ 2 ^ 40 < (2 ^ 40 - 8) + 9 ∧ 8184 + 8 ≤ 128 * 2 ^ ring0.k ∧ SHo.isDead (ring0.base + 8184) 8 = false ∧ SHo.events = 7 :: [8] ∧ SHo.evRing.en = true ∧
    (SHo.evRing.prod - SHo.evRing.cons).toNat < 2 ^ SHo.evRing.k ∧ (let g := { SHo.evRing with prod := 16 }; 2 ^ g.k ≤ (g.prod - g.cons).toNat) := by
  and_intros <;> decide +kernel
theorem test_host : ((match exec (.launchQueueProdWrite 0 65) SHo with | .next s => s.lqs.map (·.err) == true :: List.replicate 63 false | _ => false) &&
    (match exec (.poolProdWrite 0 2) SHo with | .next s => (s.pools.map (·.low) == true :: List.replicate 11 false, s.events.length) == (true, 3) | _ => false) &&
    (match exec (.hostCxlMemWrite 0x500 [1, 2]) SHo with | .next s => readLE s.mem 0x500 2 == 0x201 | _ => false) && (match exec (.hostCxlMemRead 0x10000 3) SHo with | .next s => s.hostRead == [1, 0, 2] | _ => false) &&
    (match exec (.queueApertureWrite 0x100080 [9]) SHo with | .next s => readLE s.mem 0x20080 1 == 9 | _ => false) && (match exec .eventWrite SHo with | .next s => (s.events, s.evRing.prod, s.hostRing) == ([8], 1, [(0, 7)]) | _ => false) &&
    (match exec .functionReset SHo with | .next s => s.lqs == State.reset.lqs | _ => false) && (match exec (.eventRingConsWrite 3) SHo with | .next s => s.evRing.cons == 3 | _ => false)) = true := by decide +kernel

theorem witness_MailboxConfiguration :
    State.reset.usable = false ∧ SHo.usable = true ∧ SHo.quiescing = none ∧ (0x100#16).toNat / 256 ≠ 0 ∧ (pay [(15, 0)]).length < 16 ∧ SHo.lqs[63]? = some ring00 ∧ ring00.cons = ring00.prod ∧ ring0.cons ≠ ring0.prod ∧ ring0.err = false ∧
    SHo.pools.length = 12 ∧ SHo.span.joined = false ∧ SHo.rangeSlot < 1024 ∧ SHo.ranges[0]? = some placeRange ∧ placeRange.len ≠ 0 ∧ SHo.launchOpen = true ∧ SHo.xlateBusy 0 (2 ^ 64 - 1) = false ∧
    (SHo.ports[23]?).map (fun q => decide (q.state < 256)) = some true ∧ (pay [(21, 0)]).length = 21 ∧ ({ SHo with launches := [] } : State).launchOpen = false ∧ 1 ≤ Config.fabricVersion.toNat ∧ 1 ≤ Config.tetherVersion.toNat := by
  and_intros <;> decide +kernel
/-- With XLATE_INVAL running, a walk of pool 2, and an access outstanding. -/
def SHrun : State := { SHo with mailboxRun := some (0xC004, []) }
def SHwalk : State := { SHo with walks := [⟨2, 0, 0, 0⟩] }
def SHacc : State := { SHo with crews := [placeCrew (TP .lane (.load 1 0))] }
theorem witness_MailboxConfiguration_running :
    SHo.mailboxRun = none ∧ SHrun.mailboxRun = some (0xC004, []) ∧ SHrun.usable = true ∧ SHrun.quiescing = none ∧ SHwalk.walks.any (fun w => w.pool == 3 * 0 + 2) = true ∧ SHo.walks.any (fun w => w.pool == 3 * 0 + 2) = false ∧
    SHacc.usable = true ∧ SHacc.quiescing = none ∧ SHacc.mailboxRun = none ∧ SHacc.xlateBusy 0 (2 ^ 64 - 1) = true := by
  decide +kernel
theorem witness_MailboxConfiguration_opcodes : (0x100#16).toNat = 256 ∧ (0xC010#16).toNat = 49168 ∧ 256 / 256 ≠ 0 ∧ ¬49152 ≤ 256 ∧ 49168 / 256 ≠ 0 := by decide
/-- Operands at the ends of their ranges: a ring, a pool, a range of one page and a span. -/
theorem witness_MailboxConfiguration_operands (q p g w : Nat) (hq : q = 2 ^ 40 - 2 ^ 19) (hp : p = 2 ^ 40 - 2 ^ 18) (hg : g = 2 ^ 56 - 2 ^ 29) (hw : w = 2 ^ 56 - 2 ^ 36) :
    q + 2 ^ (12 + 7) ≤ 2 ^ 40 ∧ q % 2 ^ (12 + 7) = 0 ∧ p % 8 = 0 ∧ p + 8 * 2 ^ 15 ≤ 2 ^ 40 ∧ g % pageSize 2 = 0 ∧ 2 ^ 29 % pageSize 2 = 0 ∧ g + 2 ^ 29 ≤ 2 ^ 56 ∧ 2 ^ 40 - 8 + 8 * (2 ^ 29 / pageSize 2) ≤ 2 ^ 40 ∧
    (∀ r, r ∈ SHo.ranges → r.base + r.len ≤ g) ∧ w % 2 ^ 24 = 0 ∧ w + 2 ^ 24 * 4096 ≤ 2 ^ 56 ∧ (∀ r, r ∈ SHo.ranges → r.base + r.len ≤ w) := by
  subst hq hp hg hw
  and_intros <;> decide +kernel
/-- The code of the reply. -/
def code (i : Instr) (s : State) : Option Nat := match exec i s with | .next s' => s'.reply.map (·.code) | _ => none
theorem test_mailbox : (code (.mailboxUnsupportedOpcode 0x100) SHo == some 3 && code (.queueConfig (pay [(1, 63), (1, 6), (6, 1), (8, 0x4000)])) SHo == some 0 && code (.queueConfig (pay [(1, 0), (1, 6), (6, 1), (8, 0x4000)])) SHo == some 6 &&
    code (.queueConfig (pay [(1, 63), (1, 13), (6, 1), (8, 0)])) SHo == some 2 && code (.poolConfig (pay [(1, 3), (1, 2), (2, 4), (4, 1), (8, 8)])) SHo == some 0 && code (.poolConfig (pay [(1, 4), (1, 2), (2, 4), (4, 1), (8, 8)])) SHo == some 2 &&
    code (.eventConfig (pay [(8, 4), (8, 32)])) SHo == some 0 && code (.rangeReserve (pay [(8, 0x2000000), (8, 0x10000), (8, 0), (8, 0x100)])) SHo == some 0 && code (.rangeReserve (pay [(8, 0x1000000), (8, 0x10000), (8, 0), (8, 0x100)])) SHo == some 2 &&
    code (.rangeRelease (pay [(2, 0)])) SHo == some 6 && code (.rangeRelease (pay [(2, 0)])) { SHo with launches := [] } == some 0 && code (.xlateInval (pay [(8, 0), (8, 1)])) SHo == some 0 && code (.portStatus (pay [(1, 24)])) SHo == some 2 &&
    code (.spanLeave []) { SHo with launches := [] } == some 0 && code (.spanJoin (pay [(4, 1), (2, 2), (2, 1), (8, 0x40000000), (1, 1), (1, 1), (2, 0), (1, 0)])) { SHo with launches := [] } == some 0 &&
    code (.spanJoin (pay [(4, 1), (2, 2), (2, 2), (8, 0x40000000), (1, 1), (1, 1), (2, 0), (1, 0)])) { SHo with launches := [] } == some 2) = true := by decide +kernel

/-! ### Quiesce and restore (R362 to R378) -/

/-- An empty package, a request for an image at 0x100000 with the canonical matrix form, and that image, whose digest is H. -/
def SQc : State := { W with crews := [], launches := [] }
def pQ (cap : Nat) : List Byte := pay [(8, 0x100000), (8, cap), (1, 8), (1, 1)]
def cutQ : State := { SQc with quiesced := true, quiescing := none, cutSeq := SQc.cutSeq + 1#64 }
def img : List Byte := cutQ.image (saveFlags (pQ 4096))
def SIm : State := { SQc with mem := img.zipIdx.map (fun p => (0x100000 + p.2, p.1)) }
def pR (base len : Nat) : List Byte := pay [(8, base), (8, len)]
theorem img_length : img.length = 512 := by decide +kernel

theorem cellGet_listed (l : List Byte) : ∀ (a k i : Nat), cellGet ((l.zipIdx k).map (fun p => (a + p.2, p.1))) (a + k + i) = l.getD i 0#8 := by
  induction l with
  | nil => intro a k i; simp [cellGet]
  | cons b l ih =>
    intro a k i
    cases i with
    | zero => simp [cellGet]
    | succ i =>
      have h := ih a (k + 1) i
      rw [show a + k + (i + 1) = a + (k + 1) + i by omega]
      simp only [List.zipIdx_cons, List.map_cons, cellGet]
      rw [if_neg (by omega), h]; simp

theorem memBytes_img : SIm.memBytes 0x100000 512 = img := by
  apply List.ext_getElem
  · rw [img_length]; simp [State.memBytes]
  · intro i h1 h2
    have h := cellGet_listed img 0x100000 0 i
    simp only [State.memBytes, List.getElem_map, List.getElem_range, State.physRead, readLE]
    rw [if_neg (by simp [isScm, State.memBytes] at h1 ⊢; omega)]
    simp only [SIm, Nat.add_zero] at h ⊢
    rw [h, List.getD_eq_getElem _ _ h2]; simp

theorem bytesNat_leBytes (n : Nat) : ∀ v, bytesNat (leBytes n v) = v % 256 ^ n := by
  induction n with
  | zero => intro v; simp [leBytes, bytesNat, Nat.mod_one]
  | succ n ih =>
    intro v
    simp only [leBytes, bytesNat, ih, BitVec.toNat_ofNat]
    rw [show (256 : Nat) ^ (n + 1) = 256 * 256 ^ n from Nat.pow_succ', Nat.mod_mul, show (256 : Nat) = 2 ^ 8 from rfl]

theorem length_leBytes (n : Nat) : ∀ v, (leBytes n v).length = n := by
  induction n with
  | zero => intro v; rfl
  | succ n ih => intro v; simp [leBytes, ih]

theorem image_split (s : State) (f : SaveFlags) : ∃ A rest, s.image f = padTo 256 (A ++ leBytes 32 (Config.sha3 rest).toNat) ++ rest ∧ A.length = 64 := by
  unfold State.image
  rcases h : layOut (roundUp (256 + 32 * (s.sections f).length) 64) (s.sections f) with ⟨dir, body⟩
  refine ⟨_, _, rfl, ?_⟩
  simp [length_leBytes, zeros]

theorem digest_img : Config.sha3 (img.drop 256) = BitVec.ofNat 256 (payAt img 64 32) := by
  obtain ⟨A, rest, h, hA⟩ := image_split cutQ (saveFlags (pQ 4096))
  have hL := bytesNat_leBytes 32 (Config.sha3 rest).toNat
  have hB := length_leBytes 32 (Config.sha3 rest).toNat
  generalize leBytes 32 (Config.sha3 rest).toNat = B at h hB hL
  have hp : (padTo 256 (A ++ B)).length = 256 := by simp only [padTo, List.length_append, List.length_take, List.length_replicate, hA, hB]; omega
  have ht : (A ++ B).take 256 = A ++ B := List.take_of_length_le (by simp only [List.length_append, hA, hB]; omega)
  have h1 : img.drop 256 = rest := by
    rw [img, h, List.drop_append_of_le_length (by omega), List.drop_eq_nil_of_le (by omega), List.nil_append]
  have h2 : (img.drop 64).take 32 = B := by
    rw [img, h, padTo, ht, List.append_assoc, List.append_assoc, List.drop_append_of_le_length (by omega), List.drop_eq_nil_of_le (by omega), List.nil_append,
      List.take_append_of_le_length (by omega), List.take_of_length_le (by omega)]
  rw [h1, payAt, h2, hL, Nat.mod_eq_of_lt (lt_of_lt_of_le (Config.sha3 rest).isLt (by decide))]; simp

theorem image_good : SIm.checkImage 0x100000 512 img = 0 := by
  have h0 : recordZeros img = true := by decide +kernel
  have h1 : imageShapeOk img 512 = true := by decide +kernel
  have h2 : rawEntries img = [] := by decide +kernel
  have h3 : imageUnknown img = false := by
    unfold imageUnknown
    rw [h2]
    have : (decide (1 < payAt img 8 2) || decide (Config.isaLevel.toNat < payAt img 12 1) || [13, 14, 15].any (fun i => decide (Config.formatVersion < payAt img i 1)) ||
      (secEntries img).any (fun e => decide (e.kind < 0x8000) && (!knownKinds.contains e.kind || e.ver != 1))) = false := by decide +kernel
    rw [this]; simp
  have h4 : SIm.imageFits img = true := by decide +kernel
  have h5 : SIm.mapFits img = true := by decide +kernel
  unfold State.checkImage
  rw [if_neg (by simp [h0, h1]), if_neg (by simp [digest_img, (by decide +kernel : SIm.isDead 0x100000 512 = false), (by decide +kernel : SIm.isPoisoned 0x100000 512 = false)]), h3, h4, h5]; rfl

theorem witness_QuiesceAndRestore_image :
    SIm.checkImage 0x100000 512 (SIm.memBytes 0x100000 512) = 0 ∧
    SIm.usable = true ∧ SIm.mailboxRun = none ∧ SIm.quiescing = none ∧ 16 ≤ (pR 0x100000 512).length ∧ SIm.quiesced = false ∧ SIm.launchOpen = false ∧
    payAt (pR 0x100000 512) 0 8 = 0x100000 ∧ 0x100000 % 4096 = 0 ∧ payAt (pR 0x100000 512) 8 8 = 512 ∧ payAt (pR 0x100001 512) 0 8 % 4096 ≠ 0 := by
  rw [memBytes_img]; exact ⟨image_good, by decide +kernel⟩

def pay18 (flags ver base : Nat) : List Byte := pay [(8, base), (8, 4096), (1, flags), (1, ver)]
theorem witness_QuiesceAndRestore :
    SQc.usable = true ∧ SQc.mailboxRun = none ∧ SQc.crews = [] ∧ SQc.quiescing = none ∧ (pay [(17, 0)]).length < 18 ∧ 18 ≤ (pQ 512).length ∧ cutQ.quiesced = true ∧ SQc.quiesced = false ∧
    (∀ p, p ∈ [pay18 3 1 0, pay18 40 1 0, pay18 8 0 0, pay18 8 1 4095] → payAt p 16 1 / 4 % 4 = 0 ∨ 32 ≤ payAt p 16 1 ∨ payAt p 17 1 = 0 ∨ payAt p 0 8 % 4096 ≠ 0) ∧
    (payAt (pQ 512) 16 1 / 4 % 4 ≠ 0 ∧ payAt (pQ 512) 16 1 < 32 ∧ payAt (pQ 512) 17 1 ≠ 0 ∧ payAt (pQ 512) 0 8 % 4096 = 0 ∧ SQc.units = [] ∧ SQc.decayAge < 2 ^ 28) ∧
    (State.atCut { SIT none with quiescing := some (0, pQ 512) } true = false ∧ (SIT none).usable = true ∧ (SIT none).quiescing = none ∧ (SIT none).quiesced = false ∧ (SIT none).units = [] ∧ (saveFlags (pQ 512)).scm = false) ∧
    (State.atCut { SQc with quiescing := some (0, pQ 512) } false = true ∧ SQc.slices = [] ∧ SQc.comet.capture = none ∧ SQc.comet.preserved = [] ∧ payAt (pQ 512) 16 1 / 16 % 2 = 0) ∧
    (payAt (pQ 511) 8 8 < img.length ∧ img.length ≤ payAt (pQ 512) 8 8 ∧ 0x100000 + img.length ≤ 2 ^ 40 ∧ cutQ.isDead 0x100000 img.length = false) ∧ SQc.powerLoss = none ∧
    (cutQ.usable = true ∧ cutQ.units = []) ∧ W.launchOpen = true ∧ 2 ^ 40 < payAt (pR 0xFFFFFFF000 0x2000) 0 8 + payAt (pR 0xFFFFFFF000 0x2000) 8 8 := by
  rw [img_length]; and_intros <;> decide +kernel
/-- Status, the first two bytes of the reply. -/
def replyStatus (i : Instr) (s : State) : Option Nat := match exec i s with | .next s' => s'.reply.map (fun y => bytesNat (y.out.take 2)) | _ => none
theorem test_quiesce : (code (.quiesce (pQ 512)) cutQ == some 6 && replyStatus (.quiesce (pQ 511)) SQc == some 7 && (match exec (.quiesce (pQ 512)) (SIT none) with | .next s => s.quiescing == some (0, pQ 512) | _ => false) &&
    replyStatus .quiesceTimeout { SQc with quiescing := some (2 ^ 26, pQ 512) } == some 1 && replyStatus (.resume []) cutQ == some 0 && code (.resume []) SQc == some 6 && code (.restore (pR 0 0)) W == some 6 &&
    replyStatus (.restore (pR 0xFFFFFFF000 0x2000)) SQc == some 7) = true := by decide +kernel

/-! ### Commands on crews, units and records (R346, R395, R397, R415 to R417) -/

def SHe : State := inCrew { placeCrew TFa with place := none, heldFaulted := true }
def CAb : Crew := { placeCrew { T with finished := true } with place := none, state := .abandoned, owed := [⟨0x1000000, 1, true⟩] }
def retire0 : Retirement :=
  { boot := 1, mcyc := 0, u := uc 1, reason := 1, action := 1, score := 0xFFFF, subst := none, capgen := 1, set := 2, got := 0, expect := 0, nrep := 0, ncorr := 0, nunc := 0 }
def SRec : State := { SQc with nv := { SQc.nv with records := [retire0] } }
def SLo : State := { SQc with launches := [placeLaunch] }
def p00 : List Byte := pay [(4, 0), (4, 0)]
theorem witness_CrewAndRecordCommands :
    (∀ s, s ∈ [SHe, SQc, SRec, SLo, inCrew CAb, S] → s.usable = true ∧ s.quiescing = none ∧ s.mailboxRun = none ∧ s.decayAge < 2 ^ 28) ∧ 8 ≤ p00.length ∧ (pay [(3, 0)]).length < 4 ∧ (∀ c, c ∈ S.crews → c.heldFaulted = false) ∧
    (let c := { placeCrew TFa with place := none, heldFaulted := true }; SHe.crews.findIdx (fun c => c.launchId.toNat == payAt p00 0 4 && c.crewId.toNat == payAt p00 4 4) = 0 ∧ SHe.crewAt 0 = some c ∧ c.heldFaulted = true ∧ c.state = .live) ∧
    SQc.launches = [] ∧ (SLo.openLaunch (payAt p00 0 4) = some placeLaunch ∧ SLo.launches = [placeLaunch] ∧ SLo.crews = [] ∧ placeLaunch.state = .eligible ∧ recDone placeLaunch.record = 0) ∧ payAt p00 4 4 ≠ 0xFFFFFFFF ∧
    C.state ≠ .abandoned ∧ ((inCrew CAb).crews.findIdx (fun c => c.launchId.toNat == payAt p00 0 4 && c.crewId.toNat == payAt p00 4 4) = 0 ∧ (inCrew CAb).crewAt 0 = some CAb ∧ CAb.released = false ∧
      CAb.owed = [⟨0x1000000, 1, true⟩] ∧ (inCrew CAb).wlHoles = []) ∧
    S.statusUnit (payAt p00 0 1) (payAt p00 2 2) = none ∧ ((S.statusUnit (payAt (pay [(1, 3), (1, 0), (2, 23), (4, 0)]) 0 1) (payAt (pay [(1, 3), (1, 0), (2, 23), (4, 0)]) 2 2)).map (fun x => decide (x.state < 256)) = some true) ∧
    SQc.nv.records.length ≤ payAt p00 0 4 ∧ SRec.nv.records[payAt p00 0 4]? = some retire0 := by
  and_intros <;> decide +kernel
theorem test_crew_commands : ((match exec (.crewResume p00) SHe with | .next s => s.crews.map (·.placeable) == [true] | _ => false) && (match exec (.crewAbandon p00) SHe with | .next s => s.crews.map (·.state) == [.abandoned] | _ => false) &&
    (match exec (.launchAbandon p00) SLo with | .next s => s.launches.map (fun l => (l.state == .completed, l.aborted)) == [(true, true)] | _ => false) && code (.launchAbandon p00) SQc == some 2 &&
    (match exec (.wlRelease p00) (inCrew CAb) with | .next s => s.wlChanges.map (·.retire) == [2] | _ => false) && code (.unitStatus p00) S == some 2 && code (.recordRead p00) SQc == some 2 && code (.recordRead p00) SRec == some 0) = true := by decide +kernel

/-! ### Comet (R275 to R277, R404 to R419) -/

/-- The cells of a list of bytes from an address on. -/
def cellsAt (a : Nat) (l : List Byte) : Memory := l.zipIdx.map (fun p => (a + p.2, p.1))
theorem cellGet_cellsAt (m : Memory) (a : Nat) (l : List Byte) : ∀ k x, cellGet ((l.zipIdx k).map (fun p => (a + p.2, p.1)) ++ m) x = if a + k ≤ x ∧ x < a + k + l.length then l.getD (x - a - k) 0#8 else cellGet m x := by
  induction l with
  | nil => intro k x; rw [if_neg (by simp)]; rfl
  | cons b l ih =>
    intro k x
    simp only [List.zipIdx_cons, List.map_cons, List.cons_append, cellGet, List.length_cons]
    by_cases h : x = a + k
    · rw [if_pos h, if_pos (by omega), h]; simp
    · rw [if_neg h, ih (k + 1) x]
      by_cases h2 : a + (k + 1) ≤ x ∧ x < a + (k + 1) + l.length
      · rw [if_pos h2, if_pos (by omega), show x - a - k = (x - a - (k + 1)) + 1 by omega]; simp
      · rw [if_neg h2, if_neg (by omega)]

theorem memBytes_cells (s : State) (hb : s.ballast = []) (a : Nat) (l : List Byte) (m : Memory) (hm : s.mem = cellsAt a l ++ m) (k n : Nat) (hk : k + n ≤ l.length) : s.memBytes (a + k) n = (l.drop k).take n := by
  apply List.ext_getElem
  · simp [State.memBytes]; omega
  · intro i h1 h2
    simp only [State.memBytes, List.length_map, List.length_range] at h1
    simp only [State.memBytes, List.getElem_map, List.getElem_range, physRead_byte s hb, hm, cellsAt, cellGet_cellsAt m a l 0]
    rw [if_pos (by omega), show a + k + i - a - 0 = k + i by omega, List.getD_eq_getElem _ _ (by omega)]; simp

theorem memBytes_beyond (s s2 : State) (hb : s.ballast = []) (hb2 : s2.ballast = []) (a : Nat) (l : List Byte) (hm : s.mem = cellsAt a l ++ s2.mem) (x n : Nat) (hx : a + l.length ≤ x) : s.memBytes x n = s2.memBytes x n := by
  simp only [State.memBytes, physRead_byte s hb, physRead_byte s2 hb2, hm]
  apply List.map_congr_left
  intro i _
  rw [cellsAt, cellGet_cellsAt s2.mem a l 0, if_neg (by omega)]

/-- The record of step 0 of an image of no unit or of the one of a directory, in its slot; and the directory at the image's place. -/
def cometK : Comet := { configured := true, base := 0x100000000000, units := 8, presBase := 0x200000, presLen := 4096 }
def imgK (dir : List Byte) : List Byte := if dir = [] then [] else padTo 4096 dir
def rec0 (dir : List Byte) : StepRecord := ⟨2, 0, (imgK dir).length / 4096, Config.sha3 (imgK dir)⟩
def headK (dir : List Byte) : List Byte := ({ SQc with comet := cometK } : State).recordHead (rec0 dir)
def recBytes (dir : List Byte) : List Byte := headK dir ++ leBytes 32 (Config.sha3 (headK dir)).toNat
def portK : Port := { state := 3, rxSeq := 5 }
def SKd (dir : List Byte) : State := { SQc with comet := cometK, ports := portK :: SQc.ports.drop 1, mem := cellsAt 0x100000100000 dir ++ SQc.mem }
def SK (dir : List Byte) : State := { SKd dir with mem := cellsAt 0x100000000000 (recBytes dir) ++ (SKd dir).mem }
/-- A directory of one page that no range holds. -/
def dirBad : List Byte := pay [(8, 1), (8, 0x2000000), (8, 0), (8, 1)]

theorem head_split (dir : List Byte) : ∃ A, headK dir = A ++ leBytes 32 (Config.sha3 (imgK dir)).toNat ∧ A.length = 32 := by
  refine ⟨_, rfl, ?_⟩
  simp [length_leBytes]
theorem headK_length (dir : List Byte) : (headK dir).length = 64 := by
  obtain ⟨A, h, hA⟩ := head_split dir
  rw [h, List.length_append, hA, length_leBytes]
theorem recBytes_length (dir : List Byte) : (recBytes dir).length = 96 := by rw [recBytes, List.length_append, headK_length, length_leBytes]
theorem bytes_SK (dir : List Byte) : (SK dir).memBytes (0x100000000000) 96 = recBytes dir := by
  have hl := recBytes_length dir
  have h := memBytes_cells (SK dir) rfl (0x100000000000) (recBytes dir) _ rfl 0 96 (by rw [hl])
  rw [Nat.add_zero] at h; rw [h, List.drop_zero, List.take_of_length_le (by rw [hl])]
theorem digest_SK (dir : List Byte) : payAt (recBytes dir) 64 32 = (Config.sha3 ((recBytes dir).take 64)).toNat := by
  have h64 := headK_length dir
  unfold recBytes
  generalize headK dir = H at h64
  have hB := length_leBytes 32 (Config.sha3 H).toNat
  have hb := bytesNat_leBytes 32 (Config.sha3 H).toNat
  generalize leBytes 32 (Config.sha3 H).toNat = B at hB hb
  have e1 : (H ++ B).take 64 = H := by rw [List.take_append_of_le_length (by omega), List.take_of_length_le (by omega)]
  have e2 : ((H ++ B).drop 64).take 32 = B := by
    rw [List.drop_append_of_le_length (by omega), List.drop_eq_nil_of_le (by omega), List.nil_append, List.take_of_length_le (by omega)]
  rw [payAt, e1, e2, hb, Nat.mod_eq_of_lt (lt_of_lt_of_le (Config.sha3 H).isLt (by decide))]
theorem udigest_SK (dir : List Byte) : BitVec.ofNat 256 (payAt (recBytes dir) 32 32) = Config.sha3 (imgK dir) := by
  have : ((recBytes dir).drop 32).take 32 = leBytes 32 (Config.sha3 (imgK dir)).toNat := by
    obtain ⟨A, hA, hl⟩ := head_split dir
    unfold recBytes
    simp only [hA]
    rw [List.append_assoc, List.drop_append_of_le_length (by omega), List.drop_eq_nil_of_le (by omega), List.nil_append, List.take_append_of_le_length (by rw [length_leBytes]),
      List.take_of_length_le (by rw [length_leBytes])]
  rw [payAt, this, bytesNat_leBytes, Nat.mod_eq_of_lt (lt_of_lt_of_le (Config.sha3 (imgK dir)).isLt (by decide))]; simp
theorem record_SK (dir : List Byte) (hd : dir = [] ∨ dir = dirBad) : (SK dir).stepRecordAt 0 = some (rec0 dir) := by
  have h1 : (SK dir).isDead (0x100000000000) 4096 = false := by simp [State.isDead, show (SK dir).dead = [] from rfl]
  have h2 : (SK dir).isPoisoned (0x100000000000) 96 = false := by simp [State.isPoisoned, show (SK dir).poison = [] from rfl]
  have h3 : payAt (recBytes dir) 20 2 = (SK dir).span.group.toNat ∧ payAt (recBytes dir) 22 1 = (SK dir).span.member ∧ payAt (recBytes dir) 0 4 = 0x4D43434F ∧ payAt (recBytes dir) 4 2 = 1 ∧
      payAt (recBytes dir) 7 1 = 0 ∧ payAt (recBytes dir) 6 1 = 2 ∧ payAt (recBytes dir) 8 4 = 0 ∧ payAt (recBytes dir) 28 4 = (imgK dir).length / 4096 := by
    rcases hd with rfl | rfl <;> decide +kernel
  obtain ⟨h3, h4, h5, h6, h7, h8, h9, h10⟩ := h3
  unfold State.stepRecordAt
  simp only [show (SK dir).comet.base + 4096 * 0 = 0x100000000000 from rfl, bytes_SK dir, h1, h2, show (SK dir).comet.configured = true from rfl]
  rw [if_neg (by decide), if_pos ⟨h5, h6, h7, by rw [h9], by rw [h8]; simp, digest_SK dir, h3, h4⟩, udigest_SK dir, h8, h9, h10]; rfl

/-! ### Comet's capture and commands -/

/-- The placed crew with one tracked tile of one granule; its team has marked step 1, or has a clause of step 0 in its queue. -/
def tileK : Tile := mkTile 1 5 0x0001000100040004 0x2 true
def granK : Granule := .tile 0 1 0
def TK (old : Bool) : Team := { (if old then TL else T) with stepNow := 1 }
def CK (old : Bool) : Crew := { placeCrew (TK old) with tiles := [tileK], nextUid := 2 }
def kC : Comet := { cometK with units := 16, tracked := [0] }
def KS (old : Bool) (k : Comet) : State := { inCrew (CK old) with comet := k }
theorem witness_CometCapture_begin :
    State.reset.cometOn = false ∧ (KS false kC).cometOn = true ∧ kC.capture = none ∧ kC.tracked ≠ [] ∧ kC.barred ≠ some kC.target ∧ (KS false kC).allMarked kC.target = true ∧ (5#32) ≠ kC.target ∧
    (KS false kC).trackedGranules[0]? = some granK ∧ granK ∉ kC.captured ∧ kC.preserved = [] ∧ 4096 * (kC.preserved.length + 1) ≤ kC.presLen ∧ ((KS false kC).liveUnit granK).isSome = true := by
  and_intros <;> decide +kernel
theorem witness_CometCapture_end :
    (let k := { kC with capture := some 0 }; let s := KS false k
     s.cometOn = true ∧ k.ended = false ∧ (∀ p, p ∈ s.setCrews → s.olderWork 0 p.1 p.2 = false) ∧ s.uncaptured = [granK] ∧ dirUnits s.uncaptured.length + s.uncaptured.length ≤ k.units) ∧
    (let k := { kC with capture := some 0, units := 1 }; let s := KS false k; s.cometOn = true ∧ (∀ p, p ∈ s.setCrews → s.olderWork 0 p.1 p.2 = false) ∧ k.units < dirUnits s.uncaptured.length + s.uncaptured.length) ∧
    (let s := KS true { kC with capture := some 0 }; s.cometOn = true ∧ (0, CK true) ∈ s.setCrews ∧ s.olderWork 0 0 (CK true) = true) ∧
    (let k := { kC with capture := some 0, ended := true }; let s := KS false k
     s.cometOn = true ∧ k.written = false ∧ s.uncaptured[0]? = some granK ∧ k.preserved = [] ∧ (s.liveUnit granK).isSome = true ∧ dirUnits (k.image.length + 1) + (k.image.length + 1) ≤ k.units ∧ s.uncaptured = [granK]) ∧
    (let k := { kC with capture := some 0, ended := true, written := true }; let s := KS false k; s.cometOn = true ∧ k.prepared = none ∧ k.committing = none ∧ s.span.erasure = false ∧ s.span.index = 0#12) := by
  and_intros <;> decide +kernel
/-- A span of two members. -/
def span2 (i : BitVec 12) : Span := { SQc.span with joined := true, count := 2, index := i, base := 0x40000000, fver := 1, tver := 1 }
theorem witness_CometCapture_commit :
    (let k := { kC with capture := some 0, ended := true, written := true, prepared := some 0, reports := [(0, 0)] }; let s := KS false k
     s.cometOn = true ∧ k.committing = none ∧ s.span.index = 0#12 ∧ (∀ m, m < s.span.count.toNat → (m, 0#32) ∈ k.reports)) ∧
    (let k := { kC with capture := some 0, prepared := some 0 }; let s := { KS false k with span := span2 0 }; s.cometOn = true ∧ 1 < s.span.count.toNat ∧ (1, 0#32) ∉ k.reports ∧ s.otherMember 1 = true) ∧
    (span2 1).index ≠ 0#12 ∧ (KS false { kC with committing := some 0 }).active = true ∧ kC.committing = none := by
  and_intros <;> decide +kernel
def cometAfter (i : Instr) (s : State) : Option Comet := match exec i s with | .next s' => some s'.comet | _ => none
theorem test_comet : ((cometAfter (.cometCaptureBegin 0) (KS false kC)).map (·.capture) == some (some 0) && (cometAfter .cometCaptureEnd (KS false { kC with capture := some 0 })).map (·.ended) == some true &&
    (cometAfter .cometCaptureEnd (KS true { kC with capture := some 0 })).map (·.ended) == some false && (cometAfter (.cometGranulePreserve 0) (KS false kC)).map (·.preserved.length) == some 1 &&
    (cometAfter .cometPrepared (KS false { kC with capture := some 0, ended := true, written := true })).map (fun k => (k.prepared, k.reports)) == some (some 0, [(0, 0)]) &&
    (cometAfter (.cometPreparedReport 1 0) { KS false kC with span := span2 0 }).map (·.reports) == some [(1, 0)] &&
    (cometAfter .cometRecordDurable (KS false { kC with committing := some 0, joining := [7] })).map (fun k => (k.committed, k.tracked)) == some (some 0, [0, 7])) = true := by decide +kernel

theorem find_SK (dir : List Byte) (hd : dir = [] ∨ dir = dirBad) : (SK dir).validRecords.find? (fun r => r.n == 0) = some (rec0 dir) := by
  simp only [State.validRecords, List.filterMap_cons, record_SK dir hd]; rfl
theorem cellGet_low (m : Memory) (n x : Nat) (hm : ∀ p, p ∈ m → p.1 < n) (hx : n ≤ x) : cellGet m x = 0#8 := by
  induction m with
  | nil => rfl
  | cons p m ih =>
    rw [cellGet, if_neg (by have := hm p (List.mem_cons_self ..); omega), ih (fun q hq => hm q (List.mem_cons_of_mem _ hq))]
theorem dirUnit_SK (dir : List Byte) (h : dir.length ≤ 4096) : (SK dir).memBytes 0x100000100000 4096 = padTo 4096 dir := by
  have hl := recBytes_length dir
  rw [memBytes_beyond (SK dir) (SKd dir) rfl rfl 0x100000000000 (recBytes dir) rfl _ _ (by rw [hl]; decide)]
  apply List.ext_getElem
  · simp only [State.memBytes, padTo, List.length_map, List.length_range, List.length_append, List.length_take, List.length_replicate]; omega
  · intro i h1 h2
    have hc := cellGet_cellsAt SQc.mem 0x100000100000 dir 0 (0x100000100000 + i)
    rw [cellGet_low SQc.mem 0x100000 (0x100000100000 + i) (by decide +kernel) (by omega)] at hc
    simp only [State.memBytes, List.getElem_map, List.getElem_range, physRead_byte (SKd dir) rfl]
    rw [show (SKd dir).mem = dir.zipIdx.map (fun p => (0x100000100000 + p.2, p.1)) ++ SQc.mem from rfl, hc]
    simp only [padTo, List.take_of_length_le h, List.getElem_append]
    split
    · rw [dif_pos (by omega), show 0x100000100000 + i - 0x100000100000 - 0 = i by omega, List.getD_eq_getElem _ _ (by omega)]; simp
    · rw [dif_neg (by omega)]; simp

theorem loadEntries_SK (dir : List Byte) (h : dir.length ≤ 4096) (he : leastOf (((unitEntries (padTo 4096 dir)).filter (fun e => e.kind == 1 || e.kind == 2)).map (·.unit)) = none ∨
    leastOf (((unitEntries (padTo 4096 dir)).filter (fun e => e.kind == 1 || e.kind == 2)).map (·.unit)) = some 1) :
    (SK dir).loadEntries 0 1 = (unitEntries (padTo 4096 dir)).filter (fun e => e.kind == 1 || e.kind == 2) := by
  have hu : (SK dir).comet.unitAddr 0 0 = 0x100000100000 := by rw [show (SK dir).comet = cometK from rfl]; decide +kernel
  have h0 : (unitEntries ((SK dir).memBytes ((SK dir).comet.unitAddr 0 0) 4096)) = unitEntries (padTo 4096 dir) := by rw [hu, dirUnit_SK dir h]
  unfold State.loadEntries
  rw [if_neg (by decide)]
  simp only [h0]
  rcases he with he | he <;> simp only [he]
  · rcases hl : (unitEntries (padTo 4096 dir)).filter (fun e => e.kind == 1 || e.kind == 2) with _ | ⟨e, l⟩
    · rw [hl]
    · rw [hl] at he; simp only [List.map_cons, leastOf] at he; split at he <;> simp at he
  · simp only [List.range_one, List.flatMap_cons, List.flatMap_nil, List.append_nil, h0]

/-- A unit whose bytes beyond the first entry are zero has no other entry. -/
theorem entries_pad (l : List Byte) (h : l.length ≤ 32) :
    (unitEntries (padTo 4096 l)).filter (fun e => e.kind == 1 || e.kind == 2) = [loadEntry (padTo 32 l)].filter (fun e => e.kind == 1 || e.kind == 2) := by
  have h0 : ((padTo 4096 l).drop (32 * 0)).take 32 = padTo 32 l := by
    unfold padTo
    rw [List.take_of_length_le (l := l) (show l.length ≤ 4096 by omega), List.take_of_length_le h, Nat.mul_zero, List.drop_zero, List.take_append, List.take_of_length_le h, List.take_replicate]
    congr 2; omega
  have hz : ∀ i, i < 127 → ((padTo 4096 l).drop (32 * (i + 1))).take 32 = List.replicate 32 0#8 := by
    intro i hi
    unfold padTo
    rw [List.take_of_length_le (l := l) (show l.length ≤ 4096 by omega), List.drop_append, List.drop_eq_nil_of_le (show l.length ≤ 32 * (i + 1) by omega), List.drop_replicate, List.nil_append, List.take_replicate]
    congr 1; omega
  have hk : (loadEntry (List.replicate 32 0#8)).kind = 0 := by decide +kernel
  unfold unitEntries
  rw [List.range_succ_eq_map, List.map_cons, h0, List.filter_cons, List.filter_cons]
  have hn : (List.map (fun i => loadEntry (List.take 32 (List.drop (32 * i) (padTo 4096 l)))) (List.map Nat.succ (List.range 127))).filter (fun e => e.kind == 1 || e.kind == 2) = [] := by
    rw [List.filter_eq_nil_iff, List.map_map]
    intro e he
    obtain ⟨i, hi, rfl⟩ := List.mem_map.1 he
    have := hz i (List.mem_range.1 hi)
    simp only [Function.comp, Nat.succ_eq_add_one, this, hk]
    decide
  rw [hn, List.filter_nil]
theorem entries_bad : (unitEntries (padTo 4096 dirBad)).filter (fun e => e.kind == 1 || e.kind == 2) = [loadEntry dirBad] := by
  rw [entries_pad dirBad (by decide +kernel)]; decide +kernel
theorem entries_none : (unitEntries (padTo 4096 [])).filter (fun e => e.kind == 1 || e.kind == 2) = [] := by
  rw [entries_pad [] (by decide)]; decide +kernel
theorem digest_units (dir : List Byte) (hd : dir = [] ∨ dir = dirBad) : (SK dir).unitsDigest 0 (rec0 dir).used = (rec0 dir).udigest := by
  rcases hd with rfl | rfl
  · rfl
  · have hl : (imgK dirBad).length = 4096 := by decide +kernel
    have h1 : 4096 * (rec0 dirBad).used = 4096 := by unfold rec0; simp only [hl]
    have hu : (SK dirBad).comet.unitAddr 0 0 = 0x100000100000 := by rw [show (SK dirBad).comet = cometK from rfl]; decide +kernel
    rw [State.unitsDigest, h1, hu, dirUnit_SK dirBad (by decide +kernel)]
    show _ = Config.sha3 (imgK dirBad)
    rw [imgK, if_neg (by decide +kernel)]
theorem witness_CometCommands_load :
    (SK dirBad).usable = true ∧ (SK dirBad).mailboxRun = none ∧ (SK dirBad).quiescing = none ∧ (SK dirBad).launchOpen = false ∧ 4096 % 4096 = 0 ∧ (SK dirBad).validRecords.find? (fun r => r.n == 0) = some (rec0 dirBad) ∧
    (SK dirBad).isDead ((SK dirBad).comet.unitAddr 0 0) (4096 * (rec0 dirBad).used) = false ∧ (SK dirBad).unitsDigest 0 (rec0 dirBad).used = (rec0 dirBad).udigest ∧
    ((SK dirBad).loadPages 0 ((SK dirBad).loadEntries 0 (rec0 dirBad).used)).2 = false := by
  refine ⟨rfl, rfl, rfl, rfl, rfl, find_SK _ (.inr rfl), rfl, digest_units _ (.inr rfl), ?_⟩
  rw [show (rec0 dirBad).used = 1 by show (imgK dirBad).length / 4096 = 1; decide +kernel,
    loadEntries_SK dirBad (by decide +kernel) (.inr (by rw [entries_bad]; decide +kernel)), entries_bad]; decide +kernel
theorem witness_CometCommands_loaded :
    (SK []).usable = true ∧ (SK []).mailboxRun = none ∧ (SK []).quiescing = none ∧ (SK []).launchOpen = false ∧ (SK []).validRecords.find? (fun r => r.n == 0) = some (rec0 []) ∧ (SK []).isDead ((SK []).comet.unitAddr 0 0) (4096 * (rec0 []).used) = false ∧
    (SK []).unitsDigest 0 (rec0 []).used = (rec0 []).udigest ∧ (SK []).loadPages 0 ((SK []).loadEntries 0 (rec0 []).used) = (SK [], true) ∧
    ((SK []).loadKind2 0 0x1000000 (((SK []).loadEntries 0 (rec0 []).used).filter (fun e => e.kind == 2))).2 = true := by
  rw [show (SK []).loadEntries 0 (rec0 []).used = [] from rfl]
  exact ⟨rfl, rfl, rfl, rfl, find_SK _ (.inl rfl), rfl, digest_units _ (.inl rfl), rfl, by decide +kernel⟩
/-- The first unit beyond that image is intact and zero. -/
theorem intact_SK : (SK []).unitIn 0 0 = some zeroUnit := by
  have h : (SK []).digestHolds (rec0 []) = true := by
    have := digest_units [] (.inl rfl)
    unfold State.digestHolds
    rw [show (SK []).unitsDigest (rec0 []).n (rec0 []).used = (rec0 []).udigest from this]; simp
  unfold State.unitIn State.recordOf
  rw [find_SK [] (.inl rfl)]
  simp only [h]; rfl
theorem witness_CometCommands_intact : (SK []).intactUnit 0 0 = some zeroUnit := by
  show [(0x100000000000, 8)].findSome? (fun a => ((SK []).inArea a).unitIn 0 0) = _
  rw [List.findSome?_cons, show ((SK []).inArea (0x100000000000, 8)).unitIn 0 0 = some zeroUnit from intact_SK]

/-- Suspended, while a rebuild of step 0 runs, with the answer of member 1, which holds a committed record of it; and before that answer. -/
def shard0 : Shard := { member := 1, step := 0, kind := 6, index := 0, valid := false, data := [], held := 2 }
def SRb (u : Nat) : State := { SQc with span := span2 0, comet := { cometK with units := u, suspended := true, rebuilding := some 0, asked := [(1, 6, 0)] }, shards := [shard0] }
def SRw : State := { SRb 8 with comet := { (SRb 8).comet with rebuilding := none, asked := [] }, shards := [] }
def pC (b u pb pl : Nat) : List Byte := pay [(8, b), (8, u), (8, pb), (8, pl)]
theorem witness_CometCommands :
    W.usable = true ∧ W.quiescing = none ∧ W.mailboxRun = none ∧ (2 ^ 44 + 1) % 2 ^ 20 ≠ 0 ∧ (2 ^ 44 % 2 ^ 20 = 0 ∧ 2 ^ 44 ≤ 2 ^ 44 ∧ 2 ^ 44 + 2 ^ 20 + 10240 * 429496624 ≤ 2 ^ 44 + 2 ^ 42 ∧ 429496624 % 8 = 0 ∧ 429496624 < 2 ^ 32 ∧ 0 + 2 ^ 40 ≤ 2 ^ 40) ∧
    W.comet.capture = none ∧ ((KS false { kC with capture := some 0 }).comet.capture.isSome = true ∧ (KS false { kC with capture := some 0 }).comet.suspended = false ∧ (KS false { kC with capture := some 0 }).usable = true) ∧
    SQc.openLaunch 0 = none ∧ W.openLaunch 0 = some placeLaunch ∧ (KS false kC).setOpen = true ∧ (KS false kC).comet.suspended = false ∧ (SQc.setOpen = false ∧ SQc.comet.configured = false) ∧
    ((SRb 8).comet.suspended = true ∧ (SRb 8).comet.configured = true ∧ (SRb 8).shardAsks 0 = [(1, 6, 0)] ∧ (SRb 8).answered 0 (1, 6, 0) = true ∧ (SRb 8).heldCommitted 0 = true ∧ (SRb 8).restoreAll 0 = none) ∧
    ((SRb 0).shardAsks 0 = [(1, 6, 0)] ∧ (SRb 0).answered 0 (1, 6, 0) = true ∧ (SRb 0).heldCommitted 0 = true ∧ (SRb 0).restoreAll 0 = some []) ∧
    ((1, 6, 0) ∈ ({ SRw with comet := { SRw.comet with rebuilding := some 0, asked := [] } } : State).shardAsks 0 ∧ SRw.answered 0 (1, 6, 0) = false) ∧
    (let s := { SQc with comet := { cometK with suspended := true } }; s.shardAsks 0 = [] ∧ s.heldCommitted 0 = false) ∧ 4095 % 4096 ≠ 0 ∧
    W.launchOpen = true ∧ SQc.launchOpen = false ∧ SQc.validRecords = [] := by
  and_intros <;> decide +kernel
/-- A record whose image lies in lost memory. -/
theorem witness_CometCommands_dead :
    ({ SK [] with dead := [(0x100000100000, 64)] } : State).usable = true ∧ ({ cometK with units := 8 } : Comet).unitAddr 0 0 = 0x100000100000 ∧ ({ SQc with dead := [(0x100000100000, 64)] } : State).isDead 0x100000100000 4096 = true := by decide +kernel
theorem test_comet_commands : (code (.cometConfig (pC (2 ^ 44) 8 0 0)) SQc == some 0 && code (.cometConfig (pC (2 ^ 43) 8 0 0)) SQc == some 2 && code (.cometConfig (pC (2 ^ 44) 8 0 0)) (KS false { kC with capture := some 0 }) == some 6 &&
    code (.cometTrack (pay [(4, 1), (1, 1)])) W == some 2 && (cometAfter (.cometTrack (pay [(4, 0), (1, 1)])) W).map (·.tracked) == some [0] && code (.stepQuery []) W == some 0 && code (.stepRebuild (pay [(4, 0)])) (KS false kC) == some 6 &&
    replyStatus (.stepRebuild (pay [(4, 0)])) (SRb 8) == some 6 && replyStatus (.stepRebuild (pay [(4, 1)])) { SQc with comet := { cometK with suspended := true } } == some 5 &&
    (match exec (.stepRebuild (pay [(4, 0)])) SRw with | .next s => (s.mailboxRun.isSome, s.comet.rebuilding) == (true, some 0) | _ => false) && code (.stepLoad (pay [(8, 0), (8, 4095)])) SQc == some 2 && code (.stepLoad (pay [(8, 0), (8, 4096)])) W == some 6 &&
    replyStatus (.stepLoad (pay [(8, 0), (8, 4096)])) SQc == some 5) = true := by decide +kernel

/-! ### Platform (R317 to R329, R401, R402) -/

def atStage (n : BitVec 8) : State := { SQc with vin := true, platform := { SQc.platform with stage := n } }
def SBl : State := { SQc with ballast := [{ addr := 0x100000000040, data := 5 }] }
theorem witness_PlatformRegisters :
    SQc.usable = true ∧ SQc.vaux = true ∧ State.reset.usable = false ∧ (SQc.perf[3]?).isSome = true ∧ (0#32).getLsbD 1 = false ∧ (0x8FFF < 0x9000 ∧ 0x8008 ≤ 0x8FFF ∧ 0x7FFF < 0x8000 ∧ 0x9400 ≤ 0x9400) ∧
    ({ SQc with vaux := false } : State).vaux = false ∧ (0x3A#7) = SQc.i3c.getD 0x3A#7 := by
  and_intros <;> decide +kernel
theorem witness_PowerAndMonitors :
    (∀ n, n ∈ [5#8, 6#8, 7#8] → (atStage n).vaux = true ∧ (atStage n).vin = true ∧ (atStage n).powerLoss = none ∧ (atStage n).platform.stage = n ∧ (atStage n).platform.fail = 0#8) ∧
    ({ SQc with vin := false } : State).powered = false ∧ SQc.vaux = true ∧ ({ SQc with vaux := false } : State).vaux = false ∧ (SBl.vaux = true ∧ SBl.ballast = [{ addr := 0x100000000040, data := 5 }]) := by
  and_intros <;> decide +kernel
def plat (i : Instr) (s : State) : Option Platform := match exec i s with | .next s' => some s'.platform | _ => none
theorem test_platform : ((plat (.capWrite 5000 false) SQc).map (·.cap) == some 3600 && (plat (.capWrite 5 true) State.reset).map (·.cap) == some 1200 && (plat (.capWrite 5 false) State.reset).map (·.cap) == some 0x0E10 &&
    (plat .holdupCharged (atStage 6)).map (fun p => (p.stage, p.holdup)) == some (6, true) && (plat .bootRunning (atStage 7)).map (·.stage) == some 0xFF && (plat (.junctionHot 100) (atStage 7)).map (·.thermlim) == some true &&
    (plat (.junctionHot 99) (atStage 7)).map (·.thermlim) == some false && (plat (.monitorAlarm 90) (atStage 7)).map (fun p => (p.alarm, p.tmax)) == some (true, 90) &&
    (match exec .vinLoss (atStage 7) with | .next s => (s.vin, s.powerLoss) == (false, some 0) | _ => false) && (match exec (.ballastDrainLine 0) SBl with | .next s => (s.ballast.length, readLE s.mem 0x100000000040 8) == (0, 5) | _ => false) &&
    (match exec (.registerWrite 0x9000 1) SQc with | .next s => s.perf.map (·.en) == [true, false, false, false] | _ => false) && (match exec (.i3cSetdasa 9) SQc with | .next s => s.i3c == some 9 | _ => false) &&
    (SQc.barRead 0 0x8000).hostRead == [0x10, 0x0E, 0, 0] && ((SQc.i3cWrite 0x3A [2]).i3cRead 0x3A).hostRead == [0xFF, 0, 0, 0]) = true := by decide +kernel

/-- An image of nothing; VIN is there at stage 3. -/
def fw0 : Firmware := { kind := 1, copy := 0, image := [] }
theorem witness_BootAndAttestation :
    ({ SQc with vaux := false } : State).vaux = false ∧ ({ SQc with powerLoss := some (2 ^ 15 - 1) } : State).powerLoss = some (2 ^ 15 - 1) ∧ SQc.vaux = true ∧ SQc.powerLoss = none ∧
    (∀ n, n ∈ [1#8, 2#8, 3#8, 4#8, 5#8, 6#8] → (atStage n).vaux = true ∧ (atStage n).vin = true ∧ (atStage n).powerLoss = none ∧ (atStage n).platform.fail = 0#8 ∧ (atStage n).platform.stage = n) ∧
    (atStage 6).platform.holdup = false ∧ ({ (atStage 6) with platform := { (atStage 6).platform with holdup := true } } : State).platform.holdup = true ∧
    ({ (atStage 2) with platform := { (atStage 2).platform with fail := 1 } } : State).platform.fail ≠ 0#8 ∧ payAt fw0.image 6 2 ≠ 1 ∧ (∀ b, b ∈ SBl.ballast → b.addr % 64 = 0) := by
  and_intros <;> decide +kernel
theorem test_boot : ((match exec .coldReset W with | .next s => (s.nv.boots, s.platform.stage, s.crews.length, s.platform.fail) == (W.nv.boots + 1, 1, 0, 0) | _ => false) &&
    (atStage 3).bootStage.platform.stage == 4 && (atStage 4).bootStage.platform.stage == 5 && (match exec (.spdmUnsupportedRequest [0x13, 0x55]) SQc with | .next s => s.spdm == some [0x13, 0x7F, 0x07, 0x55] | _ => false) &&
    (match exec (.getVersion [0x10, 0x84]) SQc with | .next s => s.free == 1 | _ => false)) = true := by decide +kernel

/-! ### Ports, links, the span (R309 to R316) -/

def flit0 (k : BitVec 8) (q : BitVec 16) (p : List Byte) : Flit := sealed ⟨0, k, 1, 0, 0, 1, q, 0, p, 0⟩
/-- The same flit with one bit of its CRC wrong. -/
def spoiled (f : Flit) : Flit := { f with crc := f.crc ^^^ 1 }
def withPort (s : State) (q : Port) : State := { s with ports := q :: s.ports.drop 1 }
def upPort : Port := { state := 3, rxSeq := 5, unacked := [flit0 0 7 []] }
def atPort (st : Nat) : State := withPort SQc { state := st, age := 2 ^ 24 }
theorem witness_PortsAndLinks :
    ({ SQc with vaux := false } : State).fabricOn = false ∧ SQc.fabricOn = true ∧ SQc.ports[23]?.isSome = true ∧ SQc.ports[0]? = some { state := 0 } ∧
    (∀ n, n ∈ [1, 2, 3] → (atPort n).fabricOn = true ∧ (atPort n).ports[0]? = some { state := n, age := 2 ^ 24 }) ∧ (∀ g, g ∈ (atPort 2).outbox → g.port ≠ 24) ∧ (flit0 2 0 []).port = 0 ∧
    (withPort SQc upPort).ports[0]? = some upPort ∧ upPort.state = 3 ∧ (let q := { upPort with nakSeq := 8, naks := 15 }; 16 ≤ (if q.nakSeq = 8 ∧ q.naks ≠ 0 then q.naks + 1 else 1) ∧
      q.unacked.filter (fun x => x.seq == 8#16 || seqBefore 8 x.seq) = []) ∧ 0x41 ∉ [0, 1, 2, 3, 0x10, 0x11, 0x12, 0x20, 0x21, 0x30, 0x31, 0x32, 0x40] ∧
    crcOk (flit0 2 7 []) = true ∧ crcOk (spoiled (flit0 2 7 [])) = false ∧ SQc.decayAge < 2 ^ 28 ∧
    (flit0 0x10 5 []).seq = upPort.rxSeq ∧ seqBefore 4 upPort.rxSeq = true ∧ seqBefore 5 upPort.rxSeq = false ∧ seqBefore 6 upPort.rxSeq = false := by
  and_intros <;> decide +kernel
/-- State, next number to receive and unacknowledged numbers of port 0 after an instruction, with the kinds of flits sent. -/
def portAfter (i : Instr) (s : State) : Option (Nat × BitVec 16 × List (BitVec 16) × List (BitVec 8 × BitVec 16)) :=
  match exec i s with
  | .next s' => (s'.ports.head?).map (fun q => (q.state, q.rxSeq, q.unacked.map (·.seq), s'.outbox.map (fun f => (f.kind, f.seq))))
  | _ => none
def hello0 (id : Nat) : Flit := flit0 1 0 (pay [(1, 1), (1, 1), (1, 1), (1, 0), (4, id), (2, 1)])
theorem test_ports : (portAfter (.portSignalDetect 0) SQc == some (1, 0, [], []) && portAfter (.portLanesLocked 0) (atPort 1) == some (2, 0, [], [(1, 0)]) && portAfter (.portTrainTimeout 0) (atPort 1) == some (0, 0, [], []) &&
    portAfter (.hello (hello0 9)) { atPort 2 with span := { SQc.span with joined := true, id := 9, count := 2 } } == some (3, 0, [], []) && portAfter (.hello (hello0 8)) { atPort 2 with span := { SQc.span with joined := true, id := 9, count := 2 } } == some (4, 0, [], []) &&
    portAfter (.ack (flit0 2 7 [])) (withPort SQc upPort) == some (3, 5, [], []) && portAfter (.ack (spoiled (flit0 2 7 []))) (withPort SQc upPort) == some (3, 5, [7], [(3, 5)]) && portAfter (.nak (flit0 3 7 [])) (withPort SQc upPort) == some (3, 5, [7], [(0, 7)]) &&
    portAfter (.flitWrite (flit0 0x12 5 [])) (withPort SQc upPort) == some (3, 6, [7], [(2, 5)]) && portAfter (.flitReadRequest (flit0 0x10 6 [])) (withPort SQc upPort) == some (3, 5, [7], [(3, 5)])) = true := by decide +kernel

/-- A span of two members with one lost route, waited for 2^24 cycles. -/
def SSp : State := { SQc with span := { span2 0 with noRoute := [(1, 2 ^ 24)] }, ports := upPort :: SQc.ports.drop 1, slices := [⟨0, 2 ^ 18, .s, 0⟩] }
/-- What member 1 sends of command 1 of group 7: a node of two locals, or (`has`) the value 55 of element 0. -/
def contribOf (has : Nat) : Flit := flit0 0x31 5 (pay [(2, 7), (4, 1), (2, 1), (1, 1), (1, 0), (1, 0), (1, 1), (4, 0), (1, 0), (1, has), (2, 0), (4, 2), (4, 0), (8, 55)])
def contrib : Flit := contribOf 0
theorem witness_SpanMessages :
    (∀ f, f ∈ [contrib, contribOf 1] → f.port < 24 ∧ SSp.ports[f.port]? = some upPort ∧ upPort.state = 3 ∧ SSp.fabricOn = true ∧ crcOk f = true ∧ f.seq = upPort.rxSeq) ∧
    payAt contrib.payload 17 1 = 0 ∧ payAt (contribOf 1).payload 17 1 ≠ 0 ∧ SSp.commands = [] ∧ (∀ x, x ∈ SSp.spanNodes → sameNode (nodeOf contrib.payload) x = false) ∧
    payAt (pay [(4, 0), (1, 0), (1, 1), (1, 85)]) 6 1 < 86 ∧ sameNode (nodeOf contrib.payload) (nodeOf contrib.payload) = true ∧
    (let s := { SQc with span := span2 0 }; s.fabricOn = true ∧ s.otherMember 1 = true ∧ 1 ∉ s.span.lost ∧ ∀ x, x ∈ s.span.noRoute → x.1 ≠ 1) ∧ SSp.otherMember 0 = false ∧ SSp.otherMember 2 = false ∧
    (∀ x, x ∈ SSp.span.noRoute → x.1 ≠ 2 ∨ x.2 < 2 ^ 24) ∧ (1, 2 ^ 24) ∈ SSp.span.noRoute ∧ SSp.comet.capture = none := by
  and_intros <;> decide +kernel
/-- Requests of member 1 for the first unit of step 0, which this member holds intact, and for a unit of no kind; and a part of a shard. -/
def askOf (k : Nat) : Flit := flit0 0x40 5 (pay [(4, 0), (1, 5), (1, 0), (1, 0), (1, k), (8, 0)])
def partOf (v : Nat) : Flit := flit0 0x40 5 (pay [(4, 0), (1, 0), (1, v), (1, 85), (1, 2), (8, 3)])
theorem witness_SpanMessages_shards :
    (∀ f, f ∈ [askOf 0, askOf 3, partOf 1, partOf 0] → f.port < 24 ∧ (SK []).ports[f.port]? = some portK ∧ portK.state = 3 ∧ (SK []).fabricOn = true ∧ crcOk f = true ∧ f.seq = portK.rxSeq) ∧
    (∀ k, k ∈ [0, 3] → payAt (askOf k).payload 4 1 = 5 ∧ payAt (askOf k).payload 7 1 = k ∧ payAt (askOf k).payload 8 8 = 0 ∧ BitVec.ofNat 32 (payAt (askOf k).payload 0 4) = 0) ∧ cometK.shardUnit 0 0 = 0 ∧ 2 < 3 ∧
    (∀ v, v ∈ [0, 1] → payAt (partOf v).payload 4 1 ≠ 5 ∧ payAt (partOf v).payload 6 1 < 86 ∧ payAt (partOf v).payload 5 1 = v) ∧
    (let s := { SSp with comet := { SSp.comet with capture := some 0 } }; s.fabricOn = true ∧ (1, 2 ^ 24) ∈ s.span.noRoute ∧ s.comet.capture.isSome = true) := by
  and_intros <;> decide +kernel
/-- The request for the unit that is held is answered from the image. -/
theorem witness_SpanMessages_held : (SK []).intactUnit 0 ((SK []).comet.shardUnit 0 0) = some zeroUnit := witness_CometCommands_intact
theorem test_shards :
    ((match exec (.cometShard (askOf 3)) { SQc with ports := portK :: SQc.ports.drop 1 } with | .next s => s.outbox.map (fun f => (f.kind, payAt f.payload 5 1)) == [(2, 0), (0x40, 0)] | _ => false) &&
    (match exec (.cometShard (partOf 1)) (SK []) with | .next s => s.shards.map (fun x => (x.member, x.index, x.parts, x.held, x.valid)) == [(1, 3, [85], 2, true)] | _ => false) &&
    (match exec (.memberLost 1) { SSp with comet := { SSp.comet with capture := some 0 } } with | .next s => s.events.map eventKind == [0x0C, 0x0B] | _ => false)) = true := by decide +kernel
theorem test_span : ((match exec (.xredContribution contrib) SSp with | .next s => s.spanNodes.map (fun n => (n.group, n.k, n.member)) == [(7, 1, 1)] | _ => false) &&
    (match exec (.xredContribution (contribOf 1)) SSp with | .next s => (s.spanNodes, s.spanVals.map (fun n => (n.group, n.k, n.member, n.value))) == ([], [(7, 1, 1, 55)]) | _ => false) &&
    (match exec (.memberLost 1) SSp with | .next s => (s.span.lost, s.span.noRoute, s.slices.length, s.events.length, s.comet.suspended) == ([1], [], 0, 1, true) | _ => false) &&
    (match exec (.memberReachable 1) SSp with | .next s => s.span.noRoute == [] | _ => false)) = true := by decide +kernel

/-! ### Tether (R313 to R316) -/

/-- The team's s2 names the first line of member 0's part of the window; the team's gang is 0. -/
def TTe : Team := { T with sregs := [(2, 0x40000000), (3, 5), (5, 0x40000001)] }
def STe (h : List HomeLine) (sl : List SliceLine) (q : List TReq) : State := { inTeam TTe with span := span2 0, home := h, slices := sl, treqs := q }
def rq (k : TReqKind) (st : TReqState) : TReq := { team := R, gang := 0, line := 0, kind := k, tag := 9, st := st, age := 2 ^ 24 }
def cp (st : Mesi) : SliceLine := ⟨0, 0, st, 77⟩
theorem witness_TetherAccesses :
    (∀ l, l ∈ [[], [cp .s], [cp .e], [cp .m]] → (STe [] l []).acts R (placeCrew TTe) TTe ∧ (STe [] l []).treqOf R = none ∧ (STe [] l []).sliceCopy (coreGang (placeCrew TTe).core) 0 = l.head?) ∧
    (STe [] [] []).mpopClear R TTe = true ∧ (STe [] [] []).inTether (scalarAddr TTe 2 0) = true ∧ scalarAddr TTe 2 0 % 8 = 0 ∧ (scalarAddr TTe 2 0 - (STe [] [] []).span.base) / 64 = 0 ∧ (STe [] [] []).span.lost.contains (0 / 2 ^ 18) = false ∧ TTe.sctr ≠ 0xFFFF#16 ∧
    (∀ st, st ∈ [.waiting, .refused, .failed, .answered 1] → (STe [] [] [rq .read st]).acts R (placeCrew TTe) TTe ∧ (STe [] [] [rq .read st]).treqOf R = some (rq .read st)) ∧
    (TTe.sreg 5).toNat % 64 ≠ 0 ∧ (STe [] [] []).inTether (TTe.sreg 3).toNat = false ∧ (TTe.sreg 2).toNat % 64 = 0 ∧ (STe [] [] []).inTether (TTe.sreg 2).toNat = true ∧ cp .e ≠ cp .s := by
  and_intros <;> decide +kernel
/-- The request of an atomic on that line. -/
def rqA (st : TReqState) : TReq := rq (.atomic 0 64 .add 5 0) st
theorem witness_TetherAccesses_atomics :
    (STe [] [] []).acts R (placeCrew TTe) TTe ∧ (STe [] [] []).mpopClear R TTe = true ∧ (STe [] [] []).inTether (TTe.sreg 2).toNat = true ∧ (TTe.sreg 2).toNat % sizeBytes .d64 = 0 ∧ (STe [] [] []).treqOf R = none ∧ TTe.sctr ≠ 0xFFFF#16 ∧
    (STe [] [] []).sliceRoom (coreGang (placeCrew TTe).core) 0 = true ∧ TTe.faulted = false ∧
    (∀ st, st ∈ [.waiting, .refused, .failed, .answered 1] → (STe [] [] [rqA st]).acts R (placeCrew TTe) TTe ∧ (STe [] [] [rqA st]).treqOf R = some (rqA st)) ∧ (1#64).toNat < 2 ^ (8 * sizeBytes .d64) ∧
    (let t := { TTe with faulted := true }; let s := { inTeam t with span := span2 0, treqs := [rq .read .refused] }; s.acts R (placeCrew t) t ∧ s.treqOf R = some (rq .read .refused) ∧ t.faulted = true) := by
  and_intros <;> decide +kernel
theorem tether_acts (l : List SliceLine) : (STe [] l []).acts R (placeCrew TTe) TTe ∧ (STe [] l []).mpopClear R TTe = true ∧ (STe [] l []).treqOf R = none := ⟨⟨rfl, rfl⟩, rfl, rfl⟩
/-- Copies of n lines, none of them line 0. -/
def others (n : Nat) : List SliceLine := (List.range n).map (fun i => ⟨0, i + 1, .s, 0⟩)
theorem others_facts (n : Nat) : (others n).length = n ∧ (others n).filter (fun x => x.gang == 0) = others n ∧ (others n).find? (fun x => x.gang == 0 && x.line == 0) = none := by
  simp [others]
/-- A slice that holds 131,072 other lines has no room for this one. -/
theorem room_full (n : Nat) (l : List SliceLine) (hl : l = others n) (hn : n = sliceLines) : (STe [] l []).sliceCopy 0 0 = none ∧ (STe [] l []).sliceRoom 0 0 = false := by
  obtain ⟨h1, h2, h3⟩ := others_facts n
  have h4 : (STe [] l []).sliceCopy 0 0 = none := by rw [hl]; exact h3
  refine ⟨h4, ?_⟩
  rw [State.sliceRoom, h4]
  simp only [STe, hl, h2, h1, ← hn]
  simp
theorem witness_TetherAccesses_full :
    ∃ l, (STe [] l []).acts R (placeCrew TTe) TTe ∧ (STe [] l []).mpopClear R TTe = true ∧ (STe [] l []).treqOf R = none ∧ (STe [] l []).sliceCopy 0 0 = none ∧ (STe [] l []).sliceRoom 0 0 = false :=
  ⟨_, (tether_acts _).1, (tether_acts _).2.1, (tether_acts _).2.2, room_full _ _ rfl rfl⟩
theorem test_tether_accesses : (reg (.sld 1 2 .d64 (.glob 0)) (STe [] [cp .s] []) 1 == some 77 &&
    (match exec (.sst 3 2 .i16 (.glob 0)) (STe [] [cp .e] []) with | .next s => s.slices == [{ cp .m with value := 5 }] | _ => false) &&
    (match exec (.sst 3 2 .i16 (.glob 0)) (STe [] [cp .s] []) with | .next s => (s.slices, s.treqs.map (fun q => (q.kind, q.st))) == ([cp .s], [(.own, .waiting)]) | _ => false) &&
    reg (.tclaim 1 2) (STe [] [] [rq .claim (.answered 1)]) 1 == some 0 && reg (.tclaim 1 5) (STe [] [] []) 1 == some 7 && (after (.sld 1 2 .d64 (.glob 0)) (STe [] [] [rq .read .refused])).map (·.trapCause) == some 9) = true := by decide +kernel

/-- The home of line 0 in a directory state; a snoop that waits for slice 0; the home in the other package. -/
def hl (d : DirState) : List HomeLine := [⟨0, d, 77⟩]
def hw (k : TReqKind) (n : Nat) : HomeWait := { line := 0, slice := 65, tag := 4, kind := k, begun := true, snooped := [0], age := n }
def SWt (k : TReqKind) (n : Nat) : State := { STe (hl (.exclusive 0)) [cp .m] [] with homeWaits := [hw k n] }
/-- The same for a request of slice 1 of this package. -/
def SWn (k : TReqKind) : State := { SWt k 0 with homeWaits := [{ hw k 0 with slice := 1 }] }
def link5 : Link := ⟨0, 5⟩
def SFar (l : List SliceLine) (q : List TReq) : State := { STe [] l q with span := span2 1, ports := upPort :: SQc.ports.drop 1 }
def dirs : List DirState := [.uncached, .shared [], .shared [0], .shared [0, 65], .exclusive 0, .exclusive 65, .ownerLost 65]
theorem witness_TetherDirectory_home (d : DirState) (h : d ∈ dirs) :
    (STe (hl d) [] []).fabricOn = true ∧ (STe (hl d) [] []).span.joined = true ∧ 0 / 2 ^ 18 = (STe (hl d) [] []).span.index.toNat ∧ (STe (hl d) [] []).homeWaits = [] ∧ ((STe (hl d) [] []).homeLine 0).dir = d ∧
    (∀ o, o ∈ [0, 65] → (STe (hl d) [] []).span.lost.contains (o / 64) = false) := by
  simp only [dirs, List.mem_cons, List.not_mem_nil, or_false] at h
  rcases h with rfl | rfl | rfl | rfl | rfl | rfl | rfl <;> and_intros <;> decide +kernel
theorem witness_TetherDirectory_requests :
    (∀ k, k ∈ [.read, .own, .atomic 8 64 .add 1 0, .claim] → (STe (hl .uncached) [] [rq k .waiting]).treqs = [rq k .waiting] ∧ (rq k .waiting).tag = 9#32 ∧ (rq k .waiting).line = 0 ∧ (rq k .waiting).kind = k) ∧
    8 * sizeBytes .d64 = 64 ∧ (8#6).toNat % sizeBytes .d64 = 0 ∧ [0].filter (fun o => o != 0) = [] ∧ [0, 65].filter (fun o => o != 0) ≠ [] ∧ ({ SQc with vaux := false } : State).fabricOn = false := by
  and_intros <;> decide +kernel
theorem witness_TetherDirectory_messages :
    (let s := SFar [] [rq .read .waiting]; s.fabricOn = true ∧ ¬(s.span.joined = true ∧ 0 / 2 ^ 18 = s.span.index.toNat) ∧ s.ports[link5.port]? = some upPort ∧ s.treqs = [rq .read .waiting]) ∧ link5.port < 24 ∧ upPort.state = 3 ∧ link5.seq = upPort.rxSeq ∧
    (∀ k, k ∈ [.read, .own] → let s := SWn k; let w := { hw k 0 with slice := 1 }; s.fabricOn = true ∧ s.span.joined = true ∧ 0 / 2 ^ 18 = s.span.index.toNat ∧ s.homeWaits = [w] ∧ w.kind = k ∧ w.begun = true ∧ w.snooped = [64 * s.span.index.toNat + 0] ∧
      (s.homeLine 0).dir = .exclusive (64 * s.span.index.toNat + 0) ∧ s.sliceCopy 0 0 = some (cp .m) ∧ w.slice / 64 = s.span.index.toNat ∧ w.slice ≠ 64 * s.span.index.toNat + 0 ∧ s.treqs = []) ∧
    (∀ o, o ∈ [DirState.exclusive 64, .ownerLost 64] → let s := withPort (STe (hl o) [] []) upPort; s.ports[0]? = some upPort ∧ s.otherMember 1 = true ∧ s.homeWaits = [] ∧ (s.homeLine 0).dir = o) ∧
    (STe [] [] []).sliceCopy 0 0 = none ∧ (∀ st, st ∈ [Mesi.e, .m] → (STe (hl (.exclusive 0)) [cp st] []).sliceCopy 0 0 = some (cp st)) ∧
    (let s := SWt .own (2 ^ 20); s.homeWaits = [hw .own (2 ^ 20)] ∧ 2 ^ 20 ≤ (hw .own (2 ^ 20)).age ∧ s.requesterSilent (hw .own (2 ^ 20)) = false) ∧
    (let s := { SWt .own (2 ^ 20) with span := { span2 0 with noRoute := [(1, 0)] } }; s.requesterSilent (hw .own (2 ^ 20)) = true) := by
  and_intros <;> decide +kernel
/-- A request for ownership of this package's slice 1 whose snoop of sharer 0 has gone unanswered. -/
def SShare : State := { STe (hl (.shared [0])) [cp .s] [] with homeWaits := [{ hw .own (2 ^ 20) with slice := 1 }] }
theorem witness_TetherDirectory_silence :
    let w := { hw .own (2 ^ 20) with slice := 1 }
    SShare.homeWaits = [w] ∧ w.line = 0 ∧ w.begun = true ∧ SShare.fabricOn = true ∧ 2 ^ 20 ≤ w.age ∧ (SShare.homeLine 0).dir = .shared [0] ∧ w.kind = .own ∧ w.slice / 64 = SShare.span.index.toNat ∧ SShare.treqs = [] ∧
      64 * SShare.span.index.toNat + 0 ∈ w.snooped ∧ 64 * SShare.span.index.toNat + 1 ∉ w.snooped := by
  decide +kernel
/-- The directory, the copies and the requests after an instruction. -/
def home0 (i : Instr) (s : State) : Option (List DirState × List Mesi × List TReqState) :=
  match exec i s with
  | .next s' => some (s'.home.map (·.dir), s'.slices.map (·.st), s'.treqs.map (·.st))
  | _ => none
theorem test_directory : (home0 (.tetherReadRequest 0 0 0 9 link5) (STe (hl .uncached) [] [rq .read .waiting]) == some ([.exclusive 0], [.e], [.granted]) &&
    home0 (.tetherOwnershipRequest 0 0 0 9 link5) (STe (hl (.shared [0])) [cp .s] [rq .own .waiting]) == some ([.exclusive 0], [.m], [.granted]) &&
    home0 (.tetherReadRequest 0 0 0 9 link5) (STe (hl (.ownerLost 65)) [] [rq .read .waiting]) == some ([.ownerLost 65], [], [.refused]) &&
    home0 (.tetherSnoop 0 0 true link5) (SWn .own) == some ([.exclusive 1], [], []) && home0 (.tetherSnoopTimeout 0) (SWt .own (2 ^ 20)) == some ([.ownerLost 0], [.m], []) &&
    home0 (.tetherReplacement 0 0) (STe (hl (.exclusive 0)) [cp .m] []) == some ([.uncached], [], []) && home0 (.requestGuardExpiry R) (STe [] [] [rq .read .waiting]) == some ([], [], [.failed]) &&
    home0 (.tetherRevoke 0 0 link5) (SFar [cp .s] []) == some ([], [], []) && home0 (.tetherSnoopTimeout 0) SShare == some ([.exclusive 1], [], [])) = true := by decide +kernel

/-! ### Whole instructions, steps and translation -/

theorem witness_DecodeOfEncodeIsTheInstruction :
    (Instr.li 1 5).wf = true ∧ (Instr.li 1 5).stream = some .scalar ∧ (Instr.iadd (hd2 0) mA).wf = true ∧ (Instr.iadd (hd2 0) mA).stream = some .lane ∧ (encode (.iadd (hd2 0) mA)).length = 3 := by decide +kernel
theorem witness_EncodeOfDecodeIsTheWords :
    decodeScalar (0x09#6 ++ 1#6 ++ 0#6 ++ 0x0005#14) 0x80000001 = .ok (.li 1 0x200000004005) ∧ decodeScalar 0x04208100 0 = .ok (.add 2 2 1) ∧
    decodeLane (0x000#10 ++ 0#4 ++ 10#9 ++ 1#9) (2#9 ++ 0#9 ++ 0b000#3 ++ 0b00#2 ++ 0b000#3 ++ 15#4 ++ 0#1 ++ 0#1) 0 = .ok (.iadd (hd2 0) mA) := by decide +kernel
/-- The package about to run ADD s2, s2, s1; LI s1, 5; and IADD, whose words are iw0 to iw2. -/
def iw0 : W32 := 0x000#10 ++ 0#4 ++ 10#9 ++ 1#9
def iw1 : W32 := 2#9 ++ 0#9 ++ 0b000#3 ++ 0b00#2 ++ 0b000#3 ++ 15#4 ++ 0#1 ++ 0#1
def PS (nbits w : Nat) : State := { State.reset.place nbits w with moves := [] }
theorem witness_StepRunsTheDecodedInstruction :
    (∀ n, n ∈ [0x04208100, 0x24100005] → (State.reset.place 32 n).moves = [.run R .scalar] ∧ (State.reset.place 32 n).silentTo (coreDie (placeCrew (placeTeam placeBase [])).core) = [] ∧ State.slotChoice (PS 32 n) R .scalar = true ∧ (placeTeam placeBase []).scalarErr = [] ∧ (State.reset.place 32 n).teamAt R = some (placeCrew (placeTeam placeBase []), placeTeam placeBase []) ∧
      State.canRun { PS 32 n with focus := some R } R .scalar = true) ∧
    (∃ s1, State.fetchWord (PS 32 0x04208100) 0 placeBase = (s1, .ok 0x04208100) ∧ hasExt 0x04208100 = false ∧ decodeScalar 0x04208100 0 = .ok (.add 2 2 1)) ∧
    (∃ s1 s2, State.fetchWord (PS 32 0x24100005) 0 placeBase = (s1, .ok 0x24100005) ∧ hasExt 0x24100005 = true ∧ s1.fetchWord 0 (placeBase + 4) = (s2, .ok 0) ∧ decodeScalar 0x24100005 0 = .ok (.li 1 5)) := by
  refine ⟨?_, ⟨(State.fetchWord (PS 32 0x04208100) 0 placeBase).1, ?_⟩,
    ⟨(State.fetchWord (PS 32 0x24100005) 0 placeBase).1, ((State.fetchWord (PS 32 0x24100005) 0 placeBase).1.fetchWord 0 (placeBase + 4)).1, ?_⟩⟩ <;> decide +kernel
/-- The placed bytes of that lane instruction, and the states after fetching its first and second word. -/
def laneN : Nat := iw0.toNat + 2 ^ 32 * iw1.toNat
def fetched1 : State := (State.fetchWord (PS 96 laneN) 0 placeBase).1
def fetched2 : State := (fetched1.fetchWord 0 (placeBase + 4)).1
theorem witness_StepRunsTheDecodedInstruction_lane :
    (∃ s3, State.fetchWord (PS 96 laneN) 0 placeBase = (fetched1, .ok iw0) ∧ fetched1.fetchWord 0 (placeBase + 4) = (fetched2, .ok iw1) ∧ fetched2.fetchWord 0 (placeBase + 4 + 4) = (s3, .ok 0)) ∧
    (State.reset.place 96 laneN).moves = [.run R .lane] ∧ (State.reset.place 96 laneN).teamAt R = some (placeCrew (placeTeam placeBase [CL]), placeTeam placeBase [CL]) ∧
    (State.reset.place 96 laneN).silentTo (coreDie (placeCrew (placeTeam placeBase [CL])).core) = [] ∧ State.slotChoice (PS 96 laneN) R .lane = true ∧ (placeTeam placeBase [CL]).queue.head? = some CL ∧
    State.canRun (PS 96 laneN) R .lane = true ∧ CL.addr + 12 + 12 * (placeTeam placeBase [CL]).lidx = placeBase ∧ decodeLane iw0 iw1 0 = .ok (.iadd (hd2 0) mA) :=
  ⟨⟨(fetched2.fetchWord 0 (placeBase + 4 + 4)).1, by decide +kernel⟩, by decide +kernel⟩
/-- One step runs the placed instruction: LI writes 5 and moves the program counter by 8. -/
theorem test_step_runs : (match step (State.reset.withFetchWord 32 0x24100005) with | .next s => (s.teamAt R).map (fun p => (p.2.sreg 1, p.2.pc)) == some (5, 0x1000008) | _ => false) = true := by decide +kernel

/-- The page's entry is in the core's and the gang's translation caches after a first translation; or in the gang's alone. -/
theorem witness_FetchAndTranslation :
    (∃ s1 pa e, S.translate (some 0) (coreDie 0) placeBase false = (s1, .ok pa e) ∧ pteScm e = false ∧ pa < 2 ^ 40 ∧ s1.isDead pa 4 = false ∧ s1.isPoisoned (pa / 64 * 64) 64 = false) ∧
    (∀ s, s ∈ [S, S1, { S1 with tlb := [] }] → placeBase < 2 ^ 56 ∧ s.inTether placeBase = false ∧ s.rangeOf placeBase = some placeRange ∧ pteV (s.pte placeRange placeBase) = true ∧ pteRo (s.pte placeRange placeBase) = false ∧
      (∀ x ∈ s.tlb, x.core = 0 → x.entry = s.pte placeRange placeBase ∨ x.page ≠ (placeBase - placeRange.base) / pageSize placeRange.z * pageSize placeRange.z + placeRange.base) ∧
      ∀ x ∈ s.gangTlb, x.gang = coreGang 0 → x.entry = s.pte placeRange placeBase ∨ x.page ≠ (placeBase - placeRange.base) / pageSize placeRange.z * pageSize placeRange.z + placeRange.base) ∧
    S1.tlb.length = 1 ∧ S1.gangTlb.length = 1 := by
  refine ⟨⟨S1, placePage, BitVec.ofNat 64 placeEntry, ?_⟩, ?_⟩ <;> decide +kernel

/-- An outcome that goes on. -/
def goesOn (o : Host.Outcome State Fault Refusal) : Bool := match o with | .next _ => true | _ => false
theorem exists_next (o : Host.Outcome State Fault Refusal) (h : goesOn o = true) : ∃ s', o = .next s' := by
  cases o with
  | next s' => exact ⟨s', rfl⟩
  | _ => cases h

theorem reset_memory_canonical : State.reset.memOk := by decide +kernel
/-- A state with canonical memory whose next step writes memory. -/
theorem witness_StepKeepsMemoryCanonical : (State.reset.withFetchWord 32 0x78000000).memOk ∧ ∃ s', step (State.reset.withFetchWord 32 0x78000000) = .next s' :=
  ⟨by decide +kernel, exists_next _ (by decide +kernel)⟩
theorem witness_EveryInstructionGoesOn : S.acts R C T ∧ exec .nop State.reset = .fault .noTeam := ⟨by decide +kernel, rfl⟩
theorem witness_StreamCommands_drained : T.queue = [] ∧ S.acts R C T := by decide +kernel

end Sys2Proof.Tests
end

namespace Sys2Proof.Machine

/-! ### Platform registers and counters (15 R320, R323; 14 R299) -/

section PlatformRegisters

theorem exec_capWrite_host (s : State) (v : BitVec 32) : exec (.capWrite v false) s = .next (if s.usable then s.putPlatform 0 v else s) := rfl
theorem exec_capWrite_i3c (s : State) (v : BitVec 32) : exec (.capWrite v true) s = .next (if s.vaux then s.putPlatform 0 v else s) := rfl
theorem exec_alarmClear (s : State) (v : BitVec 32) : exec (.alarmClear v) s = .next (if s.vaux then s.putPlatform 1 v else s) := rfl
theorem exec_perfCounterClear (s : State) (d : Nat) :
    exec (.perfCounterClear d) s = .next (if s.usable then s.modPerf d (fun p => { p with cnt := [] }) else s) := rfl
theorem exec_registerWrite (s : State) (off : Nat) (v : BitVec 32) : exec (.registerWrite off v) s = .next (s.bar0Write off v) := rfl
theorem exec_i3cSetdasa (s : State) (a : BitVec 7) : exec (.i3cSetdasa a) s = .next (if s.vaux then { s with i3c := some a } else s) := rfl

/-- The bytes of a number depend on no more of it than they hold. -/
theorem leBytes_mod (n : Nat) : ∀ v, leBytes n (v % 256 ^ n) = leBytes n v := by
  induction n with
  | zero => intro v; rfl
  | succ n ih =>
    intro v
    have low : BitVec.ofNat 8 (v % 256 ^ (n + 1)) = BitVec.ofNat 8 v :=
      BitVec.eq_of_toNat_eq (Nat.mod_mod_of_dvd v (Dvd.intro_left (256 ^ n) rfl))
    rw [leBytes, leBytes, low, Nat.pow_succ', Nat.mod_mul_right_div_self, ih]

/-! Writes -/

theorem capClamp_eq (v : Nat) : capClamp v = max 1200 (min 3600 v) := by
  unfold capClamp; split_ifs <;> omega

theorem putPlatform_cap (s : State) (v : BitVec 32) :
    s.putPlatform 0 v = { s with platform := { s.platform with cap := BitVec.ofNat 16 (max 1200 (min 3600 (v.toNat % 65536))) } } := by
  simp only [State.putPlatform, Platform.put, capClamp_eq]; rfl

theorem putPlatform_alarm (s : State) (v : BitVec 32) :
    s.putPlatform 1 v = if v.getLsbD 3 then { s with platform := { s.platform with alarm := false } } else s := by
  cases h : v.getLsbD 3 <;> simp only [State.putPlatform, Platform.put, h] <;> rfl

/-- The registers behind the alarm's are read-only. -/
theorem putPlatform_readOnly (s : State) (k : Nat) (v : BitVec 32) (hk : 2 ≤ k) : s.putPlatform k v = s := by
  obtain ⟨j, rfl⟩ := Nat.exists_eq_add_of_le' hk
  rfl

theorem bar0Write_unusable {s : State} (hu : s.usable = false) (off : Nat) (v : BitVec 32) : s.bar0Write off v = s := by
  simp [State.bar0Write, hu]

/-- A write of platform register `k`. -/
theorem bar0Write_platform {s : State} (hu : s.usable = true) {k : Nat} (hk : k < 4) (v : BitVec 32) :
    s.bar0Write (0x8000 + 4 * k) v = s.putPlatform k v := by
  have hin : 0x8000 ≤ 0x8000 + 4 * k ∧ 0x8000 + 4 * k < 0x8010 ∧ (0x8000 + 4 * k) % 4 = 0 := by omega
  have hidx : (0x8000 + 4 * k - 0x8000) / 4 = k := by omega
  simp only [State.bar0Write, hu, Bool.not_true, Bool.false_eq_true, if_false, if_pos hin, hidx]

/-- A write at offset `o` of the counter block of die `d`. -/
theorem bar0Write_perf {s : State} (hu : s.usable = true) {d o : Nat} {p : Perf} (hp : s.perf[d]? = some p) (hd : d < 4) (ho : o < 0x100)
    (v : BitVec 32) : s.bar0Write (0x9000 + 0x100 * d + o) v = { s with perf := s.perf.set d (p.put o v) } := by
  have hout : ¬(0x8000 ≤ 0x9000 + 0x100 * d + o ∧ 0x9000 + 0x100 * d + o < 0x8010 ∧ (0x9000 + 0x100 * d + o) % 4 = 0) := by omega
  have hin : 0x9000 ≤ 0x9000 + 0x100 * d + o ∧ 0x9000 + 0x100 * d + o < 0x9400 := by omega
  have hblock : (0x9000 + 0x100 * d + o - 0x9000) / 0x100 = d := by omega
  have hoff : (0x9000 + 0x100 * d + o) % 0x100 = o := by omega
  simp only [State.bar0Write, hu, Bool.not_true, Bool.false_eq_true, if_false, if_neg hout, if_pos hin, hblock, hoff, State.modPerf, hp]

/-- Outside cap, alarm and the counter blocks nothing is written. -/
theorem bar0Write_elsewhere (s : State) (off : Nat) (v : BitVec 32) (h : off < 0x8000 ∨ (0x8008 ≤ off ∧ off < 0x9000) ∨ 0x9400 ≤ off) :
    s.bar0Write off v = s := by
  unfold State.bar0Write
  split
  · rfl
  split
  · exact putPlatform_readOnly s _ v (by omega)
  split
  · omega
  · rfl

theorem Perf.put_selector (p : Perf) {i : Nat} (hi : i < 8) (v : BitVec 32) :
    p.put (0x48 + 4 * i) v = { p with sel := cellSet p.sel i (v.setWidth 8) } := by
  have hin : 0x48 ≤ 0x48 + 4 * i ∧ 0x48 + 4 * i < 0x68 ∧ (0x48 + 4 * i) % 4 = 0 := by omega
  have hidx : (0x48 + 4 * i - 0x48) / 4 = i := by omega
  simp only [Perf.put, if_pos hin, hidx, show ¬(0x48 + 4 * i = 0) by omega, if_false]

/-! Reads -/

/-- A read of an aligned offset of BAR0 at which a register stands. -/
theorem barRead_bar0 {s : State} (hu : s.usable = true) {off : Nat} {v : BitVec 32} (ha : off % 4 = 0) (hv : s.bar0Word off = some v) :
    (s.barRead 0 off).hostRead = leBytes 4 v.toNat := by
  simp [State.barRead, hu, show off / 4 * 4 = off by omega, hv]

theorem bar0Word_platform (s : State) {k : Nat} (hk : k < 4) : s.bar0Word (0x8000 + 4 * k) = some (s.platform.word k) := by
  have hin : 0x8000 ≤ 0x8000 + 4 * k ∧ 0x8000 + 4 * k < 0x8010 := by omega
  simp only [State.bar0Word, if_pos hin, show (0x8000 + 4 * k - 0x8000) / 4 = k by omega]

theorem bar0Word_perf {s : State} {d o : Nat} {p : Perf} (hp : s.perf[d]? = some p) (hd : d < 4) (ho : o < 0x100) :
    s.bar0Word (0x9000 + 0x100 * d + o) = some (p.word o) := by
  have hout : ¬(0x8000 ≤ 0x9000 + 0x100 * d + o ∧ 0x9000 + 0x100 * d + o < 0x8010) := by omega
  have hin : 0x9000 ≤ 0x9000 + 0x100 * d + o ∧ 0x9000 + 0x100 * d + o < 0x9400 := by omega
  have hblock : (0x9000 + 0x100 * d + o - 0x9000) / 0x100 = d := by omega
  have hoff : (0x9000 + 0x100 * d + o) % 0x100 = o := by omega
  simp only [State.bar0Word, if_neg hout, if_pos hin, hblock, hoff, List.getD_eq_getElem?_getD, hp, Option.getD_some]

/-- The half `h` of counter `i`: 0 the low one, 1 the high one. -/
theorem Perf.word_counter (p : Perf) {i h : Nat} (hi : i < 8) (hh : h < 2) :
    p.word (8 + 8 * i + 4 * h) = BitVec.ofNat 32 ((cellGet p.cnt i).toNat / 2 ^ (32 * h)) := by
  have hctl : ¬((8 + 8 * i + 4 * h) / 4 = 0) := by omega
  have hin : 8 ≤ 8 + 8 * i + 4 * h ∧ 8 + 8 * i + 4 * h < 0x48 := by omega
  have hidx : (8 + 8 * i + 4 * h - 8) / 8 = i := by omega
  have hhalf : (8 + 8 * i + 4 * h) / 4 % 2 = h := by omega
  simp only [Perf.word, if_neg hctl, if_pos hin, hidx, hhalf]

theorem Perf.word_selector (p : Perf) {i : Nat} (hi : i < 8) : p.word (0x48 + 4 * i) = (cellGet p.sel i).setWidth 32 := by
  have hctl : ¬((0x48 + 4 * i) / 4 = 0) := by omega
  have hout : ¬(8 ≤ 0x48 + 4 * i ∧ 0x48 + 4 * i < 0x48) := by omega
  have hin : 0x48 ≤ 0x48 + 4 * i ∧ 0x48 + 4 * i < 0x68 := by omega
  simp only [Perf.word, if_neg hctl, if_neg hout, if_pos hin, show (0x48 + 4 * i - 0x48) / 4 = i by omega]

/-- A read of half `h` of counter `i` of die `d`. -/
theorem barRead_counter {s : State} (hu : s.usable = true) {d i h : Nat} {p : Perf} (hp : s.perf[d]? = some p) (hd : d < 4) (hi : i < 8) (hh : h < 2) :
    (s.barRead 0 (0x9000 + 0x100 * d + (8 + 8 * i + 4 * h))).hostRead = leBytes 4 ((cellGet p.cnt i).toNat / 2 ^ (32 * h)) := by
  rw [barRead_bar0 hu (by omega) (bar0Word_perf hp hd (by omega)), p.word_counter hi hh, BitVec.toNat_ofNat]
  exact leBytes_mod 4 _

theorem barRead_selector {s : State} (hu : s.usable = true) {d i : Nat} {p : Perf} (hp : s.perf[d]? = some p) (hd : d < 4) (hi : i < 8) :
    (s.barRead 0 (0x9000 + 0x100 * d + (0x48 + 4 * i))).hostRead = leBytes 4 (cellGet p.sel i).toNat := by
  rw [barRead_bar0 hu (by omega) (bar0Word_perf hp hd (by omega)), p.word_selector hi, BitVec.toNat_setWidth, Nat.mod_eq_of_lt (by omega)]

theorem Platform.word_cap (p : Platform) : (p.word 0).toNat = p.cap.toNat := by
  simp only [Platform.word, BitVec.toNat_setWidth]; omega

/-- A field put above the bits of a word adds to it. -/
theorem toNat_or_shiftLeft {a b : BitVec 32} {k : Nat} (ha : a.toNat < 2 ^ k) (hb : 2 ^ k * b.toNat < 2 ^ 32) :
    (a ||| b <<< k).toNat = a.toNat + 2 ^ k * b.toNat := by
  rw [BitVec.toNat_or, BitVec.toNat_shiftLeft, Nat.shiftLeft_eq, Nat.mul_comm, Nat.mod_eq_of_lt hb, Nat.or_comm,
    ← Nat.two_pow_add_eq_or_of_lt ha, Nat.add_comm]

theorem Platform.word_flags (p : Platform) :
    (p.word 1).toNat = p.holdup.toNat + 2 * p.caplim.toNat + 4 * p.thermlim.toNat + 8 * p.alarm.toNat + 256 * p.tmax.toNat := by
  have flags : (flagBit p.holdup 0 ||| flagBit p.caplim 1 ||| flagBit p.thermlim 2 ||| flagBit p.alarm 3).toNat =
      p.holdup.toNat + 2 * p.caplim.toNat + 4 * p.thermlim.toNat + 8 * p.alarm.toNat := by
    cases p.holdup <;> cases p.caplim <;> cases p.thermlim <;> cases p.alarm <;> rfl
  have small : p.holdup.toNat + 2 * p.caplim.toNat + 4 * p.thermlim.toNat + 8 * p.alarm.toNat < 2 ^ 8 := by
    have := p.holdup.toNat_le; have := p.caplim.toNat_le; have := p.thermlim.toNat_le; have := p.alarm.toNat_le
    omega
  have temp : (p.tmax.setWidth 32).toNat = p.tmax.toNat := by rw [BitVec.toNat_setWidth]; omega
  rw [Platform.word, toNat_or_shiftLeft (flags ▸ small) (by omega), flags, temp]; rfl

theorem Platform.word_boot (p : Platform) : (p.word 2).toNat = p.stage.toNat + 2 ^ 8 * p.fail.toNat + 2 ^ 16 * p.secver.toNat := by
  have wide (x : BitVec 8) : (x.setWidth 32).toNat = x.toNat := by rw [BitVec.toNat_setWidth]; omega
  have low : (p.stage.setWidth 32 ||| p.fail.setWidth 32 <<< 8).toNat = p.stage.toNat + 2 ^ 8 * p.fail.toNat := by
    rw [toNat_or_shiftLeft, wide, wide] <;> rw [wide] <;> omega
  rw [Platform.word, toNat_or_shiftLeft, low, wide]
  · rw [low]; omega
  · rw [wide]; omega

theorem Platform.word_power (p : Platform) : (p.word 3).toNat = p.power.toNat := by
  simp only [Platform.word, BitVec.toNat_setWidth]; omega

/-- The register at index `k`, its fields at their bits. -/
theorem Platform.word_fields (p : Platform) (k : Nat) :
    (p.word k).toNat = if k = 0 then p.cap.toNat
      else if k = 1 then p.holdup.toNat + 2 * p.caplim.toNat + 4 * p.thermlim.toNat + 8 * p.alarm.toNat + 256 * p.tmax.toNat
      else if k = 2 then p.stage.toNat + 2 ^ 8 * p.fail.toNat + 2 ^ 16 * p.secver.toNat else if k = 3 then p.power.toNat else 0 := by
  match k with
  | 0 => exact p.word_cap
  | 1 => exact p.word_flags
  | 2 => exact p.word_boot
  | 3 => exact p.word_power
  | _ + 4 => rfl

/-! I3C -/

/-- What a write of an index byte names is what the next read answers. -/
theorem i3cRead_i3cWrite {s : State} (hv : s.vaux = true) {a : BitVec 7} (ha : a = s.i3c.getD i3cStatic) (k : Byte) :
    ((s.i3cWrite a [k]).i3cRead a).hostRead = leBytes 4 (s.platform.word k.toNat).toNat := by
  have hears (j : Nat) : State.i3cHears { s with i3cIndex := j } a = true := by simp [State.i3cHears, hv, ha]
  have hw : s.i3cWrite a [k] = { s with i3cIndex := k.toNat } := by simp [State.i3cWrite, show s.i3cHears a = true from hears s.i3cIndex]
  rw [hw, State.i3cRead, if_pos (hears _)]

/-- Settles O54: each access is one of the writes or reads above. -/
theorem platformRegisters : Obligations.PlatformRegisters := by
  intro s
  refine ⟨?capHost, ?capI3c, ?noVaux, ?unusable, fun hu => ⟨?counters, ?registers, ?elsewhere, ?reads⟩, ?i3c⟩
  case capHost =>
    intro v hu
    rw [exec_capWrite_host, if_pos hu, putPlatform_cap]
  case capI3c =>
    intro v hv
    rw [exec_capWrite_i3c, exec_alarmClear, if_pos hv, if_pos hv, putPlatform_cap, putPlatform_alarm]
    exact ⟨rfl, rfl⟩
  case noVaux =>
    intro hv v
    simp [exec_capWrite_i3c, exec_alarmClear, hv]
  case unusable =>
    intro hu v n
    simp [exec_capWrite_host, exec_perfCounterClear, exec_registerWrite, hu, bar0Write_unusable hu]
  case counters =>
    intro d p hp hd
    refine ⟨?_, fun v => ?_, fun v i hi => ?_, fun i hi => ⟨?_, ?_, ?_⟩⟩
    · rw [exec_perfCounterClear, if_pos hu, State.modPerf, hp]
    · exact congrArg _ (bar0Write_perf hu hp hd (o := 0) (by omega) v)
    · refine ⟨_, { p with sel := cellSet p.sel i (v.setWidth 8) }, rfl, ?_, rfl, rfl, cellGet_cellSet_self .., fun j hj => cellGet_cellSet_other _ _ hj⟩
      rw [Nat.add_assoc _ 0x48, bar0Write_perf hu hp hd (by omega), p.put_selector hi]
    · rw [show 0x9000 + 0x100 * d + 8 + 8 * i = 0x9000 + 0x100 * d + (8 + 8 * i + 4 * 0) by omega, barRead_counter hu hp hd hi (by omega)]
      simp
    · rw [show 0x9000 + 0x100 * d + 12 + 8 * i = 0x9000 + 0x100 * d + (8 + 8 * i + 4 * 1) by omega]
      exact barRead_counter hu hp hd hi (by omega)
    · rw [Nat.add_assoc _ 0x48]
      exact barRead_selector hu hp hd hi
  case registers =>
    intro v
    have cap : s.bar0Write 0x8000 v = s.putPlatform 0 v := bar0Write_platform hu (k := 0) (by omega) v
    have alarm : s.bar0Write 0x8004 v = s.putPlatform 1 v := bar0Write_platform hu (k := 1) (by omega) v
    rw [exec_registerWrite, exec_registerWrite, cap, alarm, putPlatform_cap, putPlatform_alarm]
    exact ⟨rfl, rfl⟩
  case elsewhere =>
    intro off v hoff
    rw [exec_registerWrite, bar0Write_elsewhere s off v hoff]
  case reads =>
    intro k hk
    rw [barRead_bar0 hu (by omega) (bar0Word_platform s hk), Platform.word_fields]
  case i3c =>
    refine fun a => ⟨fun hv => ?_, fun hv => ?_, fun hv ha k => ?_⟩
    · rw [exec_i3cSetdasa, if_pos hv]
    · simp [exec_i3cSetdasa, hv]
    · rw [i3cRead_i3cWrite hv ha, Platform.word_fields]

end PlatformRegisters
end Sys2Proof.Machine

namespace Sys2Proof.Machine

section FetchAndTranslation

/-! ### Little-endian words (00 R5) -/

/-- Four bytes of memory as a word, the first the least significant. -/
theorem ofNat_readLE_four (m : Memory) (a : Nat) :
    BitVec.ofNat 32 (readLE m a 4) = cellGet m (a + 3) ++ cellGet m (a + 2) ++ cellGet m (a + 1) ++ cellGet m a := by
  have sum : readLE m a 4 =
      (cellGet m a).toNat + 256 * ((cellGet m (a + 1)).toNat + 256 * ((cellGet m (a + 2)).toNat + 256 * (cellGet m (a + 3)).toNat)) := rfl
  have lt : readLE m a 4 < 2 ^ 32 := readLE_lt m 4 a
  apply BitVec.eq_of_toNat_eq
  rw [BitVec.toNat_ofNat, Nat.mod_eq_of_lt lt, sum]
  simp only [BitVec.toNat_append, Nat.shiftLeft_eq, Nat.mul_comm _ (2 ^ 8), ← Nat.two_pow_add_eq_or_of_lt (BitVec.isLt _)]
  omega

/-! ### What counting and the low mark leave unchanged (15 R323; 14 R301) -/

theorem count_eq (s : State) (d code n : Nat) : ∃ p, s.count d code n = { s with perf := p } := by
  unfold State.count
  split
  · exact ⟨_, rfl⟩
  · split <;> exact ⟨_, rfl⟩

/-- Counting a request changes the performance counters, and takes a free value. -/
theorem countRequest_eq (s : State) (die pa : Nat) (wr : Bool) : ∃ p n, s.countRequest die pa wr = { s with perf := p, free := n } := by
  have ends : ∃ p, (if paDie pa = die then s else (s.count die 8 1).count (paDie pa) 9 1) = { s with perf := p } := by
    split
    · exact ⟨_, rfl⟩
    · obtain ⟨p, hp⟩ := count_eq s die 8 1
      rw [hp]
      exact count_eq { s with perf := p } (paDie pa) 9 1
  obtain ⟨p, hp⟩ := ends
  unfold State.countRequest
  simp only [hp]
  split
  · exact ⟨_, _, rfl⟩
  · split
    · obtain ⟨q, hq⟩ := count_eq { s with perf := p } (paDie pa) (if wr then 0x0B else 0x0A) (Config.freeValue s.free).toNat
      rw [hq]
      exact ⟨_, _, rfl⟩
    · exact ⟨_, _, rfl⟩

@[simp] theorem countRequest_isDead (s : State) (die a : Nat) (wr : Bool) (pa n : Nat) : (s.countRequest die a wr).isDead pa n = s.isDead pa n := by
  obtain ⟨p, k, h⟩ := countRequest_eq s die a wr
  rw [h]; rfl
@[simp] theorem countRequest_physRead (s : State) (die a : Nat) (wr : Bool) (pa n : Nat) : (s.countRequest die a wr).physRead pa n = s.physRead pa n := by
  obtain ⟨p, k, h⟩ := countRequest_eq s die a wr
  rw [h]; rfl
@[simp] theorem countRequest_pools (s : State) (die a : Nat) (wr : Bool) : (s.countRequest die a wr).pools = s.pools := by
  obtain ⟨p, k, h⟩ := countRequest_eq s die a wr
  rw [h]
@[simp] theorem countRequest_crews (s : State) (die a : Nat) (wr : Bool) : (s.countRequest die a wr).crews = s.crews := by
  obtain ⟨p, k, h⟩ := countRequest_eq s die a wr
  rw [h]

@[simp] theorem poolLow_crews (s : State) (p : Nat) : (s.poolLow p).crews = s.crews := by
  unfold State.poolLow
  split
  · rfl
  · dsimp only; split <;> rfl

theorem poolLow_cons (s : State) (p q : Nat) : ((s.poolLow p).pools[q]?).map (·.cons) = (s.pools[q]?).map (·.cons) := by
  unfold State.poolLow
  split
  · rfl
  · next r hr =>
    have hset (low : Bool) : ((s.pools.set p { r with low := low })[q]?).map (·.cons) = (s.pools[q]?).map (·.cons) := by
      by_cases hq : p = q
      · subst hq
        rw [List.getElem?_set_self (List.getElem?_eq_some_iff.1 hr).1, hr]
        rfl
      · rw [List.getElem?_set_ne hq]
    dsimp only
    split <;> exact hset _

/-! ### Translation of a bound page (14 R305, R306, R308) -/

/-- The first address of the page of an address. -/
abbrev Range.pageBase (r : Range) (va : Nat) : Nat := (va - r.base) / pageSize r.z * pageSize r.z + r.base

theorem rangeOf_base_le {s : State} {va : Nat} {r : Range} (h : s.rangeOf va = some r) : r.base ≤ va := by
  have := List.find?_some h
  simp only [decide_eq_true_eq] at this
  exact this.1

theorem Range.sub_pageBase (r : Range) {va : Nat} (h : r.base ≤ va) : va - r.pageBase va = (va - r.base) % pageSize r.z := by
  have := Nat.div_add_mod' (va - r.base) (pageSize r.z)
  unfold Range.pageBase
  omega

/-- A core's own cached entry for a page; none for an agent without caches. -/
abbrev State.ownEntry (s : State) (core : Option Nat) (page z : Nat) : Option TlbEntry :=
  s.tlb.find? (fun t => some t.core == core && t.page == page && t.z == z)

/-- What a core's own cache answers is an entry of that core for the page. -/
theorem ownEntry_some {s : State} {core page z : Nat} {t : TlbEntry} (h : s.ownEntry (some core) page z = some t) :
    t ∈ s.tlb ∧ t.core = core ∧ t.page = page := by
  have hp := List.find?_some h
  simp only [Bool.and_eq_true, beq_iff_eq, Option.some.injEq] at hp
  exact ⟨List.mem_of_find?_eq_some h, hp.1.1, hp.1.2⟩

/-- What a gang's cache answers is an entry of the core's gang for the page. -/
theorem gangEntry_some {s : State} {core page z c : Nat} {e : Word} (h : s.gangEntry (some core) page z = some (c, e)) :
    c = core ∧ ∃ x ∈ s.gangTlb, x.gang = coreGang core ∧ x.page = page ∧ x.entry = e := by
  simp only [State.gangEntry, Option.map_eq_some_iff, Prod.mk.injEq] at h
  obtain ⟨x, hx, rfl, rfl⟩ := h
  have hp := List.find?_some hx
  simp only [Bool.and_eq_true, beq_iff_eq] at hp
  exact ⟨rfl, x, List.mem_of_find?_eq_some hx, hp.1.1, hp.1.2, rfl⟩

section Translate
variable {s : State} {core : Option Nat} {die va : Nat} {wr : Bool} {r : Range}

theorem translate_ownEntry (h56 : va < 2 ^ 56) (ht : s.inTether va = false) (hr : s.rangeOf va = some r) {t : TlbEntry}
    (hl : s.ownEntry core (r.pageBase va) r.z = some t) (hro : wr = true → pteRo t.entry = false) :
    s.translate core die va wr = (s, .ok (pteFrame t.entry + (va - r.pageBase va)) t.entry) := by
  have hw : (wr && pteRo t.entry) = false := by cases wr <;> simp_all
  simp only [State.translate, hr, ht, hl, hw, show ¬(2 ^ 56 ≤ va) by omega]
  simp

theorem translate_gangEntry (h56 : va < 2 ^ 56) (ht : s.inTether va = false) (hr : s.rangeOf va = some r)
    (hl : s.ownEntry core (r.pageBase va) r.z = none)
    {c : Nat} {e : Word} (hg : s.gangEntry core (r.pageBase va) r.z = some (c, e)) (hro : wr = true → pteRo e = false) :
    s.translate core die va wr = ({ s with tlb := s.tlb ++ [TlbEntry.mk c (r.pageBase va) r.z e] }, .ok (pteFrame e + (va - r.pageBase va)) e) := by
  have hw : (wr && pteRo e) = false := by cases wr <;> simp_all
  simp only [State.translate, hr, ht, hl, hg, hw, show ¬(2 ^ 56 ≤ va) by omega]
  simp

/-- Without a cached entry the walker of the die reads the entry of a page. -/
theorem translate_walk (h56 : va < 2 ^ 56) (ht : s.inTether va = false) (hr : s.rangeOf va = some r)
    (hl : s.ownEntry core (r.pageBase va) r.z = none) (hg : s.gangEntry core (r.pageBase va) r.z = none) :
    s.translate core die va wr =
      (if pteV (s.pte r va) || pteScm (s.pte r va) then s else s.walkEnd (3 * die + r.z)).walk core r die va (r.pageBase va) wr := by
  simp only [State.translate, hr, ht, hl, hg, show ¬(2 ^ 56 ≤ va) by omega]
  simp

theorem walk_lost {page : Nat} (hd : s.isDead (r.entryAddr va) 8 = true) : (s.walk core r die va page wr).2 = .lost := by
  simp [State.walk, hd]

/-- The walker answers the frame of a bound page, and the caches keep its entry. -/
theorem walk_bound {page : Nat} (hd : s.isDead (r.entryAddr va) 8 = false) (hv : pteV (s.pte r va) = true)
    (hro : wr = true → pteRo (s.pte r va) = false) :
    s.walk core r die va page wr =
      ((s.countRequest die (r.entryAddr va) false).cacheEntry core page r.z (s.pte r va), .ok (pteFrame (s.pte r va) + (va - page)) (s.pte r va)) := by
  have hw : (wr && pteRo (s.pte r va)) = false := by cases wr <;> simp_all
  simp [State.walk, hd, hw, hv]

end Translate

/-- A bound page translates to its frame, from the core's cache, from its gang's, or by a walk. -/
theorem translate_bound {s : State} {core va : Nat} {g : Range} {wr : Bool}
    (h56 : va < 2 ^ 56) (ht : s.inTether va = false) (hr : s.rangeOf va = some g) (hd : s.isDead (g.entryAddr va) 8 = false)
    (hv : pteV (s.pte g va) = true) (hro : wr = true → pteRo (s.pte g va) = false)
    (hl : ∀ x ∈ s.tlb, x.core = core → x.entry = s.pte g va ∨ x.page ≠ g.pageBase va)
    (hg : ∀ x ∈ s.gangTlb, x.gang = coreGang core → x.entry = s.pte g va ∨ x.page ≠ g.pageBase va) :
    ∃ s1, s.translate (some core) (coreDie core) va wr = (s1, .ok (pteFrame (s.pte g va) + (va - g.base) % pageSize g.z) (s.pte g va)) ∧
      { s1 with tlb := s.tlb, gangTlb := s.gangTlb, perf := s.perf, free := s.free } = s := by
  rw [← g.sub_pageBase (rangeOf_base_le hr)]
  cases own : s.ownEntry (some core) (g.pageBase va) g.z with
  | some t =>
    obtain ⟨hmem, hcore, hpage⟩ := ownEntry_some own
    have he : t.entry = s.pte g va := (hl t hmem hcore).resolve_right (not_not_intro hpage)
    rw [translate_ownEntry h56 ht hr own (he ▸ hro), he]
    exact ⟨s, rfl, rfl⟩
  | none =>
    cases gang : s.gangEntry (some core) (g.pageBase va) g.z with
    | some ce =>
      obtain ⟨c, e⟩ := ce
      obtain ⟨-, x, hmem, hgang, hpage, rfl⟩ := gangEntry_some gang
      have he : x.entry = s.pte g va := (hg x hmem hgang).resolve_right (not_not_intro hpage)
      rw [translate_gangEntry h56 ht hr own gang (he ▸ hro), he]
      exact ⟨_, rfl, rfl⟩
    | none =>
      rw [translate_walk h56 ht hr own gang, hv, Bool.true_or, if_pos rfl, walk_bound hd hv hro]
      obtain ⟨p, n, hc⟩ := countRequest_eq s (coreDie core) (g.entryAddr va) false
      rw [hc]
      exact ⟨_, rfl, rfl⟩

/-! ### Fetching (05 R107, R108; 17 R344) -/

theorem isScm_of_lt {pa : Nat} (h : pa < 2 ^ 40) : isScm pa = false := by
  simp only [isScm, decide_eq_false_iff_not]; omega

theorem physRead_hbm (s : State) {pa : Nat} (h : pa < 2 ^ 40) (n : Nat) : s.physRead pa n = readLE s.mem pa n := by
  rw [State.physRead, isScm_of_lt h]; rfl

theorem fetchWord_ok {s s1 : State} {core va pa : Nat} {e : Word} (ht : s.translate (some core) (coreDie core) va false = (s1, .ok pa e))
    (he : pteScm e = false) (hpa : pa < 2 ^ 40) (hd : s1.isDead pa 4 = false) (hp : s1.isPoisoned (pa / 64 * 64) 64 = false) :
    s.fetchWord core va = (s1, .ok (s1.byteAt (pa + 3) ++ s1.byteAt (pa + 2) ++ s1.byteAt (pa + 1) ++ s1.byteAt pa)) := by
  simp only [State.fetchWord, ht, he, hd, hp, Bool.false_eq_true, if_false, physRead_hbm s1 hpa, ofNat_readLE_four]
  rfl

/-- A core that has no entry cached, nor its gang, meets the lost entry of a bound page by a walk. -/
theorem fetchWord_lost {s : State} {core va : Nat} {g : Range} (h56 : va < 2 ^ 56) (ht : s.inTether va = false) (hr : s.rangeOf va = some g)
    (hd : s.isDead (g.entryAddr va) 8 = true) (hv : pteV (s.pte g va) = true)
    (hl : ∀ x ∈ s.tlb, x.core ≠ core) (hg : ∀ x ∈ s.gangTlb, x.gang ≠ coreGang core) : (s.fetchWord core va).2 = .error .uncorrectable := by
  have own : s.ownEntry (some core) (g.pageBase va) g.z = none :=
    List.find?_eq_none.2 fun x hx => by simp [hl x hx]
  have gang : s.gangEntry (some core) (g.pageBase va) g.z = none := by
    have : s.gangTlb.find? (fun t => t.gang == coreGang core && t.page == g.pageBase va && t.z == g.z) = none :=
      List.find?_eq_none.2 fun x hx => by simp [hg x hx]
    rw [State.gangEntry, this]; rfl
  have lost : (s.translate (some core) (coreDie core) va false).2 = .lost := by
    rw [translate_walk h56 ht hr own gang, hv, Bool.true_or, if_pos rfl, walk_lost hd]
  unfold State.fetchWord
  split
  · next s1 pa e h => rw [h] at lost; cases lost
  · rfl
  · next s1 x _ hne h => rw [h] at lost; exact absurd lost hne

/-! ### First touch (05 R108; 14 R307) -/

theorem exec_firstTouchBind {die : Nat} (hd : die < 4) (va : BitVec 64) (s : State) :
    exec (.firstTouchBind die va) s = .next (s.translate none die va.toNat false).1 :=
  congrArg Host.Outcome.next (if_pos hd)

/-- Without a walk of the pool under way there is none to end. -/
theorem walkEnd_idle {s : State} {p : Nat} (h : ∀ w, w ∈ s.walks → w.pool ≠ p) : s.walkEnd p = s := by
  have : s.walks.find? (fun w => w.pool == p) = none := List.find?_eq_none.2 fun w hw => by simp [h w hw]
  rw [State.walkEnd, this]

/-- A walk whose entry has changed since ends without a swap. -/
theorem walkEnd_late {v : State} {p va f : Nat} {e : Word} {g : Range} (hw : v.walks = [⟨p, va, e, f⟩]) (hr : v.rangeOf va = some g)
    (he : v.pte g va ≠ e) : v.walkEnd p = { v with walks := [] } := by
  have hr' : State.rangeOf { v with walks := [] } va = some g := hr
  have he' : State.pte { v with walks := [] } g va ≠ e := he
  simp [State.walkEnd, hw, hr', he']

/-- An agent without caches translates by a walk. -/
theorem translate_none {s : State} {die va : Nat} {wr : Bool} {r : Range} (h56 : va < 2 ^ 56) (ht : s.inTether va = false) (hr : s.rangeOf va = some r)
    (hv : pteV (s.pte r va) = false) (hs : pteScm (s.pte r va) = false) (hw : ∀ w, w ∈ s.walks → w.pool ≠ 3 * die + r.z) :
    s.translate none die va wr = s.walk none r die va (r.pageBase va) wr := by
  rw [translate_walk h56 ht hr (List.find?_eq_none.2 fun x _ => by simp) rfl, hv, hs, walkEnd_idle hw]
  rfl

/-- The walker of an unbacked page without caches to fill goes on to the first touch. -/
theorem walk_unbacked {s : State} {die va page : Nat} {r : Range} (hd : s.isDead (r.entryAddr va) 8 = false)
    (hv : pteV (s.pte r va) = false) (hs : pteScm (s.pte r va) = false) :
    s.walk none r die va page false = (s.countRequest die (r.entryAddr va) false).firstTouch r die va (s.pte r va) := by
  simp only [State.walk, countRequest_isDead, hd, hv, hs, Bool.false_and, Bool.false_eq_true, if_false]
  split
  · next pa e h => rw [← h]; rfl
  · rfl

section PoolHead
variable {s : State} {die z : Nat} {p : Ring}

theorem poolHead_none (hp : s.pools[3 * die + z]? = some p) (he : p.en = false ∨ p.prod = p.cons) (fuel : Nat) :
    s.poolHead die z (fuel + 1) = (s, none) := by
  have : (!p.en || p.prod == p.cons) = true := by rcases he with h | h <;> simp [h]
  simp [State.poolHead, hp, this]

/-- A well-formed entry at the head of a pool that is not empty is the frame. -/
theorem poolHead_some (hp : s.pools[3 * die + z]? = some p) (hen : p.en = true) (hne : p.prod ≠ p.cons) {f : Nat}
    (hf : s.physRead (p.base + 8 * (p.cons.toNat % 2 ^ p.k)) 8 = f) (h40 : f < 2 ^ 40) (hal : f % pageSize z = 0) (hdie : paDie f = die)
    (hd : s.isDead f (pageSize z) = false) (fuel : Nat) :
    s.poolHead die z (fuel + 1) = (s.countRequest die (p.base + 8 * (p.cons.toNat % 2 ^ p.k)) false, some f) := by
  have hgo : (!p.en || p.prod == p.cons) = false := by simp [hen, hne]
  have hnat : (BitVec.ofNat 64 f).toNat = f := by rw [BitVec.toNat_ofNat]; omega
  have hok (a : Nat) : (s.countRequest die a false).poolEntryOk die z (BitVec.ofNat 64 f) = true := by
    simp only [State.poolEntryOk, hnat, countRequest_isDead, hal, hdie, hd, decide_eq_true h40, beq_self_eq_true]; rfl
  simp [State.poolHead, hp, hgo, hf, hok, hnat]

end PoolHead

theorem zeroFrame_mem (s : State) (f n : Nat) : (s.zeroFrame f n).mem = cellErase s.mem f n := State.countRequest_mem ..
theorem zeroFrame_pools (s : State) (f n : Nat) : (s.zeroFrame f n).pools = s.pools := countRequest_pools ..
theorem zeroFrame_crews (s : State) (f n : Nat) : (s.zeroFrame f n).crews = s.crews := countRequest_crews ..

/-- The entry of a page bound to a frame: v, the home die and the frame, with what the entry said of ro and tracked. -/
abbrev boundEntry (e : Word) (die f : Nat) : Word := (e &&& 0xC#64) ||| 1#64 ||| BitVec.ofNat 64 (16 * die) ||| BitVec.ofNat 64 f

section BindFrame
variable (s : State) (r : Range) (die va : Nat) (e : Word) (f : Nat)

theorem bindFrame_mem : (s.bindFrame r die va e f).1.mem = writeLE s.mem (r.entryAddr va) 8 (boundEntry e die f).toNat := by
  simp [State.bindFrame]
theorem bindFrame_crews : (s.bindFrame r die va e f).1.crews = s.crews := by
  simp [State.bindFrame]
/-- The pool that the frame came from moves on. -/
theorem bindFrame_cons {q : Ring} (hq : s.pools[3 * die + r.z]? = some q) :
    ((s.bindFrame r die va e f).1.pools[3 * die + r.z]?).map (·.cons) = some (q.cons + 1#16) := by
  simp only [State.bindFrame, countRequest_pools, poolLow_cons, hq]
  rw [List.getElem?_set_self (List.getElem?_eq_some_iff.1 hq).1]
  rfl

end BindFrame

section FirstTouch
variable {s : State} {die va : Nat} {g : Range} {p : Ring}

/-- A walker that meets an unbacked page goes straight to the pool's head. -/
theorem translate_firstTouch (h56 : va < 2 ^ 56) (ht : s.inTether va = false) (hr : s.rangeOf va = some g)
    (hdead : s.isDead (g.entryAddr va) 8 = false) (hv : pteV (s.pte g va) = false) (hs : pteScm (s.pte g va) = false)
    (hw : ∀ w, w ∈ s.walks → w.pool ≠ 3 * die + g.z) :
    s.translate none die va false = (s.countRequest die (g.entryAddr va) false).firstTouch g die va (s.pte g va) := by
  rw [translate_none h56 ht hr hv hs hw, walk_unbacked hdead hv hs]

/-- With no frame in the pool the page stays unbound. -/
theorem firstTouch_none (hp : s.pools[3 * die + g.z]? = some p) (he : p.en = false ∨ p.prod = p.cons) (e : Word) :
    s.firstTouch g die va e = (s.raise 2 stTranslation 0 va (die + 256 * g.z), .empty g.z) := by
  rw [State.firstTouch, poolHead_none hp he 65535]

/-- The frame at the pool's head is zeroed, its entry written, and the pool moves on. -/
theorem firstTouch_some (hp : s.pools[3 * die + g.z]? = some p) (hen : p.en = true) (hne : p.prod ≠ p.cons) {f : Nat}
    (hf : s.physRead (p.base + 8 * (p.cons.toNat % 2 ^ p.k)) 8 = f) (h40 : f < 2 ^ 40) (hal : f % pageSize g.z = 0) (hdie : paDie f = die)
    (hd : s.isDead f (pageSize g.z) = false) (e : Word) :
    (s.firstTouch g die va e).1.mem = writeLE (cellErase s.mem f (pageSize g.z)) (g.entryAddr va) 8 (boundEntry e die f).toNat ∧
      ((s.firstTouch g die va e).1.pools[3 * die + g.z]?).map (·.cons) = some (p.cons + 1#16) ∧ (s.firstTouch g die va e).1.crews = s.crews := by
  rw [State.firstTouch, poolHead_some hp hen hne hf h40 hal hdie hd 65535]
  refine ⟨?_, ?_, ?_⟩
  · simp only [bindFrame_mem, zeroFrame_mem, State.countRequest_mem]
  · exact bindFrame_cons _ _ _ _ _ _ (by simpa only [zeroFrame_pools, countRequest_pools] using hp)
  · simp only [bindFrame_crews, zeroFrame_crews, countRequest_crews]

end FirstTouch

/-- Settles O7: the fetch, the translation of a bound page and the first touch, each by the lemma of its name. -/
theorem fetchAndTranslation : Obligations.FetchAndTranslation := by
  refine ⟨⟨?word, ?lost, ?bound⟩, ?touch⟩
  case word => exact fun s s1 core va pa e ht he hpa hd hp => fetchWord_ok ht he hpa hd hp
  case lost => exact fun s core va g h56 ht hr hd hv hl hg => fetchWord_lost h56 ht hr hd hv hl hg
  case bound => exact fun s core va g wr h56 ht hr hd hv hro hl hg => translate_bound h56 ht hr hd hv hro hl hg
  case touch =>
    intro s die va g p hdie h56 ht hr e hdead hv hs hp hw
    have counted : (s.countRequest die (g.entryAddr va.toNat) false).pools[3 * die + g.z]? = some p := by
      rw [countRequest_pools]; exact hp
    rw [exec_firstTouchBind hdie, translate_firstTouch h56 ht hr hdead hv hs hw]
    refine ⟨fun v f hvw hvr hve => walkEnd_late hvw hvr hve, fun he => ?_, fun hen hne => ?_⟩
    · rw [firstTouch_none counted he]
      exact ⟨rfl, _, rfl, State.countRequest_mem .., countRequest_pools ..⟩
    · intro f at_ h40 hal hfd hd apart
      obtain ⟨hmem, hcons, hcrews⟩ := firstTouch_some counted hen hne (countRequest_physRead ..) h40 hal hfd ((countRequest_isDead ..).trans hd) e
      rw [State.countRequest_mem] at hmem
      refine ⟨_, rfl, ?entry, fun a ha hb => ?frame, fun a hout hent => ?rest, hcons, hcrews.trans (countRequest_crews ..)⟩
      case entry =>
        rw [hmem, readLE_writeLE]
        exact Nat.mod_eq_of_lt (BitVec.isLt (boundEntry e die f))
      case frame => rw [State.byteAt, hmem, cellGet_writeLE_other _ _ _ _ _ (by omega), cellGet_cellErase, if_pos ⟨ha, hb⟩]
      case rest =>
        rw [State.byteAt, hmem, cellGet_writeLE_other _ _ _ _ _ hent, cellGet_cellErase, if_neg (by omega)]
        rfl

end FetchAndTranslation
end Sys2Proof.Machine

namespace Sys2Proof.Machine

section BootAndAttestation

/-! ### Accepted SCM lines reach their place (06 R117, R131; 12 R278) -/

/-- The byte of an address within the data of its line. -/
def lineByte (d : BitVec 512) (a : Nat) : Byte := BitVec.ofNat 8 (d.toNat / 256 ^ (a % 64))

/-- Draining puts the newest accepted line of each address in place, and leaves every other byte alone. -/
theorem cellGet_drain (l : List BLine) (aligned : ∀ b, b ∈ l → b.addr % 64 = 0) (m : Memory) (a : Nat) :
    cellGet (l.foldl (fun m b => writeLE m b.addr 64 b.data.toNat) m) a =
      (ballastLine l (a / 64 * 64)).elim (cellGet m a) (lineByte · a) := by
  induction l generalizing m with
  | nil => rfl
  | cons b rest ih =>
    have hb : b.addr % 64 = 0 := aligned b List.mem_cons_self
    rw [List.foldl_cons, ih (fun c hc => aligned c (List.mem_cons_of_mem b hc)), ballastLine]
    cases ballastLine rest (a / 64 * 64) with
    | some d => rfl
    | none =>
      by_cases hline : b.addr = a / 64 * 64
      · rw [if_pos hline]
        have hin := cellGet_writeLE_same m b.addr 64 b.data.toNat (a % 64) (Nat.mod_lt a (by decide))
        rwa [show b.addr + a % 64 = a by omega] at hin
      · rw [if_neg hline]
        exact cellGet_writeLE_other _ _ _ _ _ (by omega)

/-- A read of an SCM byte answers from the newest accepted line of its address, or else from the stack. -/
theorem physRead_scm_byte (s : State) {a : Nat} (ha : 2 ^ 44 ≤ a) :
    s.physRead a 1 = ((ballastLine s.ballast (a / 64 * 64)).elim (cellGet s.mem a) (lineByte · a)).toNat := by
  have scm : isScm a = true := decide_eq_true ha
  have scmLine : isScm (a / 64 * 64) = true := decide_eq_true (by omega)
  cases accepted : ballastLine s.ballast (a / 64 * 64) with
  | some d => simp [State.physRead, State.lineData, scm, scmLine, accepted, lineByte, BitVec.toNat_ofNat]
  | none =>
    have stored : s.physRead a 1 = State.physRead { s with ballast := [] } a 1 := by
      simp only [State.physRead, State.lineData, scm, scmLine, accepted]; rfl
    rw [stored, physRead_byte _ rfl]; rfl

/-- After a cold reset SCM holds what was drained or accepted. -/
theorem afterReset_scm {s : State} (aligned : ∀ b, b ∈ s.ballast → b.addr % 64 = 0) {a : Nat} (ha : 2 ^ 44 ≤ a) :
    (cellGet s.afterReset.mem a).toNat = s.physRead a 1 := by
  have scm : isScm a = true := decide_eq_true ha
  rw [State.afterReset, cellGet_filter (w := 8), if_pos scm, physRead_scm_byte s ha, State.drainedLines, cellGet_drain _ aligned]

/-- After a cold reset HBM4E reads zero. -/
theorem afterReset_hbm (s : State) {a : Nat} (ha : a < 2 ^ 44) : cellGet s.afterReset.mem a = 0#8 := by
  have hbm : ¬isScm a = true := by simpa [isScm] using ha
  rw [State.afterReset, cellGet_filter (w := 8), if_neg hbm]

/-! ### The cold reset (15 R324; 21 R402) -/

section ColdReset
variable {s : State}

theorem exec_coldReset_dark (hv : s.vaux = false) : exec .coldReset s = .next s := by
  change execColdReset s = _
  rw [execColdReset, hv]; rfl

/-- The power-loss sequence is not interrupted. -/
theorem exec_coldReset_losing {n : Nat} (hp : s.powerLoss = some n) (hn : n < 2 ^ 15) : exec .coldReset s = .next s := by
  change execColdReset s = _
  rw [execColdReset, hp]
  exact congrArg Host.Outcome.next (if_pos (Bool.or_eq_true_iff.2 (.inr (decide_eq_true hn))))

theorem exec_coldReset_boots (hv : s.vaux = true) (hp : ∀ n, s.powerLoss = some n → 2 ^ 15 ≤ n) :
    exec .coldReset s = .next { s.afterReset with platform := { s.afterReset.platform with stage := 1#8 } } := by
  change execColdReset s = _
  rw [execColdReset, hv]
  cases h : s.powerLoss with
  | none => rfl
  | some n => exact congrArg Host.Outcome.next (if_neg fun losing => Nat.not_lt.2 (hp n h) (of_decide_eq_true losing))

end ColdReset

/-! ### The boot stages (15 R324) -/

/-- What a package on VAUX that has not failed enters from each stage. -/
def State.stageAfter (s : State) : Nat → State
  | 1 => s.enterStage 2 (s.nv.verifyAll [1])
  | 2 => s.enterStage 3 (s.nv.verifyAll [2, 3])
  | 3 => if s.vin then s.enterStage 4 0 else s
  | 4 => if s.vin then { s with platform := { s.platform with stage := 5#8, secver := s.nv.secver } } else s
  | 5 => if s.vin then s.enterStage 6 0 else s
  | 6 => if s.vin && s.platform.holdup then s.enterStage 7 0 else s
  | _ => s

theorem bootStage_eq_stageAfter {s : State} (hv : s.vaux = true) (hp : s.powerLoss = none) (hf : s.platform.fail = 0#8) :
    s.bootStage = s.stageAfter s.platform.stage.toNat := by
  have at_ (n : Nat) : s.bootAt n = (s.platform.stage.toNat == n) := by simp [State.bootAt, hf]
  have ready : (!s.vaux || s.powerLoss.isSome) = false := by rw [hv, hp]; rfl
  simp only [State.bootStage, at_, ready]
  generalize s.platform.stage.toNat = k
  match k with
  | 1 | 2 => rfl
  | 3 | 4 | 5 | 6 => cases hvin : s.vin <;> simp [State.stageAfter, hvin]
  | 0 | k + 7 => simp [State.stageAfter]

theorem bootStage_failed {s : State} (hf : s.platform.fail ≠ 0#8) : s.bootStage = s := by
  have at_ (n : Nat) : s.bootAt n = false := by simp [State.bootAt, hf]
  simp [State.bootStage, at_]

/-! ### Images (15 R325, R326) -/

/-- A field of the header stands in the image at the same offset. -/
theorem payAt_header (g : Firmware) {off n : Nat} (h : off + n ≤ 3780) : payAt g.header off n = payAt g.image off n := by
  rw [payAt, payAt, Firmware.header, List.drop_take, List.take_take, Nat.min_eq_left (by omega)]

/-- So does the key, which ends before the header does. -/
theorem header_key (g : Firmware) : (g.header.drop 48).take 1312 = (g.image.drop 48).take 1312 := by
  rw [Firmware.header, List.drop_take, List.take_take]; rfl

theorem le_length_of_header {g : Firmware} (h : g.header.length = 3780) : 3780 ≤ g.image.length := by
  rw [Firmware.header, List.length_take] at h; omega

/-- An accepted image is whole, of its kind, under a key that is not revoked, and not older than secver. -/
theorem of_imageCode_eq_zero {nv : NonVolatile} {kind : Nat} {g : Firmware} (h : imageCode nv kind g = 0) :
    g.header.length = 3780 ∧ payAt g.header 6 2 = kind ∧ nv.keys.any (fun k => k.1 == Config.sha3 ((g.header.drop 48).take 1312) && !k.2) = true ∧
      payAt g.header 12 4 = g.body.length ∧ payAt g.header 16 32 = (Config.sha3 g.body).toNat ∧ nv.secver.toNat ≤ payAt g.header 8 1 := by
  unfold imageCode at h
  dsimp only at h
  split_ifs at h with hform hkey hsig hbody hver
  simp only [not_or, not_not] at hform hbody
  obtain ⟨hlen, -, -, hkind, -⟩ := hform
  exact ⟨hlen, hkind, Bool.eq_true_of_not_eq_false hkey, hbody.1, hbody.2, Nat.le_of_not_lt hver⟩

/-- An image of another kind is malformed. -/
theorem imageCode_otherKind {nv : NonVolatile} {kind : Nat} {g : Firmware} (h : payAt g.image 6 2 ≠ kind) : imageCode nv kind g = 1 := by
  rw [← payAt_header g (by omega)] at h
  simp only [imageCode, h, ne_eq, not_false_eq_true, true_or, or_true, if_true]

theorem mem_unrevoked {keys : List (BitVec 256 × Bool)} {d : BitVec 256} (h : keys.any (fun k => k.1 == d && !k.2) = true) :
    ∃ k, k ∈ keys ∧ k.1 = d ∧ k.2 = false := by
  simpa using h

/-! ### The secondary mailbox (15 R327) -/

theorem secondaryMailbox_usable {s : State} (hu : s.usable = true) (f : State → State) : secondaryMailbox opSpdmMsg s f = .next (f s) := by
  rw [secondaryMailbox, hu]; rfl
theorem secondaryMailbox_unusable {s : State} (hu : s.usable = false) (f : State → State) : secondaryMailbox opSpdmMsg s f = .next s := by
  rw [secondaryMailbox, hu]; rfl

/-- An instruction that means an SPDM answer gives one through the secondary mailbox, where that is usable. -/
theorem exec_spdmAnswer {i : Instr} {msg : List Byte} {s : State} (hi : exec i s = spdmAnswer msg s) :
    (s.usable = true → exec i s = .next { s with spdm := some (Config.spdmResponse msg s.nv.spdmFacts s.free), free := s.free + 1 }) ∧
      (s.usable = false → exec i s = .next s) :=
  ⟨fun hu => hi.trans (secondaryMailbox_usable hu _), fun hu => hi.trans (secondaryMailbox_unusable hu _)⟩

theorem exec_spdmUnsupportedRequest (msg : List Byte) (s : State) :
    exec (.spdmUnsupportedRequest msg) s = secondaryMailbox opSpdmMsg s fun s => { s with spdm := some [0x13#8, 0x7F#8, 0x07#8, msg.getD 1 0#8] } := rfl

/-- Settles O56: the cold reset, the stages and the images by the lemmas above; every supported SPDM request is an `spdmAnswer`. -/
theorem bootAndAttestation : Obligations.BootAndAttestation := by
  intro s
  refine ⟨exec_coldReset_dark, fun n hp hn => exec_coldReset_losing hp hn, ?reset, ?stages, bootStage_failed, ?images, ?spdm⟩
  case reset =>
    intro hv hp
    exact ⟨_, exec_coldReset_boots hv hp, rfl, rfl, rfl, rfl, rfl, rfl, rfl, rfl, rfl, rfl, rfl, rfl, rfl, rfl, rfl, rfl, rfl, rfl, rfl, rfl, rfl, rfl, rfl,
      fun aligned a ha => afterReset_scm aligned ha, fun a ha => afterReset_hbm s ha⟩
  case stages =>
    intro hv hp hf
    rw [bootStage_eq_stageAfter hv hp hf]
    refine ⟨fun at1 => ?_, fun at2 => ?_, fun at3 vin => ?_, fun at3 vin => ?_, fun at4 vin => ?_, fun at5 vin => ?_, fun at6 vin full => ?_, fun at6 short => ?_⟩
    · rw [at1]; rfl
    · rw [at2]; rfl
    · rw [at3]; exact if_pos vin
    · rw [at3]; exact if_neg (Bool.eq_false_iff.1 vin)
    · rw [at4]; exact if_pos vin
    · rw [at5]; exact if_pos vin
    · rw [at6]; exact if_pos (by rw [vin, full]; rfl)
    · rw [at6]; exact if_neg (by rw [short, Bool.and_false]; exact Bool.false_ne_true)
  case images =>
    refine fun kind g => ⟨fun h => ?_, imageCode_otherKind⟩
    obtain ⟨hlen, hkind, hkey, hlength, hdigest, hver⟩ := of_imageCode_eq_zero h
    rw [payAt_header g (by omega)] at hkind hlength hdigest hver
    rw [header_key] at hkey
    exact ⟨hver, hkind, le_length_of_header hlen, hlength, hdigest, mem_unrevoked hkey⟩
  case spdm =>
    intro msg
    exact ⟨exec_spdmAnswer rfl, exec_spdmAnswer rfl, exec_spdmAnswer rfl, exec_spdmAnswer rfl, exec_spdmAnswer rfl, exec_spdmAnswer rfl, exec_spdmAnswer rfl,
      fun hu => (exec_spdmUnsupportedRequest msg s).trans (secondaryMailbox_usable hu _),
      fun hu => (exec_spdmUnsupportedRequest msg s).trans (secondaryMailbox_unusable hu _)⟩

end BootAndAttestation
end Sys2Proof.Machine

namespace Sys2Proof.Machine

section MasksAndFlags

/-! ### Mask registers (02 R27; 03 R66) -/

/-- Read after write of a mask register: a write keeps no bit at or above lane.count. -/
theorem Team.mask_setMask (t : Team) (m k : MReg) (v : Mask) : (t.setMask m v).mask k = if k = m then v &&& laneMask t.lanes else t.mask k := by
  simp only [Team.mask, Team.setMask, cellGet_cellSet, BitVec.toNat_inj]

theorem getLsbD_laneMask (n : Nat) {l : Nat} (hl : l < 1024) : (laneMask n).getLsbD l = decide (l < n) := by
  rw [laneMask, BitVec.getLsbD_ofNat, Nat.testBit_two_pow_sub_one, decide_eq_true hl, Bool.true_and]

theorem mem_maskLanes {m : Mask} {n l : Nat} : l ∈ maskLanes m n ↔ l < n ∧ m.getLsbD l = true := by simp [maskLanes]

/-- The lanes of a mask counted one by one. -/
theorem length_maskLanes (m : Mask) (n : Nat) : (maskLanes m n).length = (List.range n).countP (fun l => m.getLsbD l) :=
  List.countP_eq_length_filter.symm

/-- The lanes of a mask are listed in ascending order: those before the first are not in the mask. -/
theorem maskLanes_head {m : Mask} {n l : Nat} {rest : List Nat} (h : maskLanes m n = l :: rest) : ∀ k, k < l → m.getLsbD k = false := by
  intro k hk
  have asc : (l :: rest).Pairwise (· < ·) := h ▸ List.pairwise_lt_range.filter _
  have hl : l < n := (mem_maskLanes.1 (h ▸ List.mem_cons_self)).1
  by_contra hm
  have hmem : k ∈ l :: rest := h ▸ mem_maskLanes.2 ⟨by omega, by simpa using hm⟩
  rcases List.mem_cons.1 hmem with rfl | hr
  · omega
  · have := List.rel_of_pairwise_cons asc hr
    omega

theorem maskLanes_eq_nil {m : Mask} {n : Nat} (h : maskLanes m n = []) : ∀ l, l < n → m.getLsbD l = false := by
  intro l hl
  by_contra hm
  exact List.not_mem_nil (h ▸ mem_maskLanes.2 ⟨hl, by simpa using hm⟩)

/-- What MFIRST delivers: the first lane of a mask, or −1 where it has none (08 R168). -/
def firstLaneWord (m : Mask) (n : Nat) : Word := match maskLanes m n with | [] => BitVec.allOnes 64 | l :: _ => BitVec.ofNat 64 l

theorem firstLaneWord_spec (m : Mask) (n : Nat) :
    (firstLaneWord m n = -1#64 ∧ ∀ l, l < n → m.getLsbD l = false) ∨
    ((firstLaneWord m n).toNat < n ∧ m.getLsbD (firstLaneWord m n).toNat = true ∧ ∀ l, l < (firstLaneWord m n).toNat → m.getLsbD l = false) := by
  unfold firstLaneWord
  split
  · next h => exact .inl ⟨by decide, maskLanes_eq_nil h⟩
  · next l rest h =>
    obtain ⟨hl, hm⟩ := mem_maskLanes.1 (h ▸ List.mem_cons_self)
    have small : l < 2 ^ 64 := lt_of_lt_of_le (BitVec.lt_of_getLsbD hm) (by decide)
    rw [BitVec.toNat_ofNat, Nat.mod_eq_of_lt small]
    exact .inr ⟨hl, hm, maskLanes_head h⟩

/-! ### Mask instructions -/

section
variable {s : State} {r : TeamRef} {c : Crew} {t : Team} (h : s.acts r c t)
include h

theorem exec_mpush_room (ms : MReg) (room : t.stack.length < 16) :
    exec (.mpush ms) s = .next (s.putTeam r ((({ t with stack := t.stack ++ [t.mask 0#3] }).setMask 0#3 (t.mask 0#3 &&& t.mask ms)).advance 4)) :=
  (onTeam_acts h _).trans (by rw [if_neg (Nat.not_le.2 room)])

theorem exec_mpush_full (ms : MReg) (full : 16 ≤ t.stack.length) : exec (.mpush ms) s = .next (s.putTeam r (t.trapHere causeMaskstack)) :=
  (onTeam_acts h _).trans (by rw [if_pos full])

theorem exec_melse_top {low : List Mask} {top : Mask} (hs : t.stack = low ++ [top]) :
    exec .melse s = .next (s.putTeam r ((t.setMask 0#3 (top &&& ~~~(t.mask 0#3))).advance 4)) :=
  (onTeam_acts h _).trans (by simp [hs])

theorem exec_mpop_top {low : List Mask} {top : Mask} (hs : t.stack = low ++ [top]) :
    exec .mpop s = .next (s.putTeam r ((({ t with stack := low, fenceUid := t.nextClause }).setMask 0#3 top).advance 4)) :=
  (onTeam_acts h _).trans (by simp [hs])

theorem exec_melse_empty (hs : t.stack = []) : exec .melse s = .next (s.putTeam r (t.trapHere causeMaskstack)) :=
  (onTeam_acts h _).trans (by simp [hs])

theorem exec_mpop_empty (hs : t.stack = []) : exec .mpop s = .next (s.putTeam r (t.trapHere causeMaskstack)) :=
  (onTeam_acts h _).trans (by simp [hs])

theorem exec_mcnt (d : SReg) (ms : MReg) :
    exec (.mcnt d ms) s = .next (s.putTeam r ((t.setSreg d (BitVec.ofNat 64 ((List.range t.lanes).countP (fun l => (t.mask ms).getLsbD l)))).advance 4)) :=
  (onTeam_acts h _).trans (by rw [← length_maskLanes]; rfl)

theorem exec_mfirst (d : SReg) (ms : MReg) : exec (.mfirst d ms) s = .next (s.putTeam r ((t.setSreg d (firstLaneWord (t.mask ms) t.lanes)).advance 4)) :=
  onTeam_acts h _
end

/-! ### Completion flags (03 R58, R59) -/

/-- A flag reads set where some clause holds it. -/
theorem foldl_holds_and_eq_zero (m : BitVec 12) : ∀ (cls : List Clause) (f : BitVec 12),
    (cls.foldl (fun f c => f ||| c.holds) f &&& m = 0#12) ↔ (f &&& m = 0#12 ∧ ∀ cl ∈ cls, cl.holds &&& m = 0#12)
  | [], f => by simp
  | cl :: rest, f => by
    have split_or : (f ||| cl.holds) &&& m = 0#12 ↔ f &&& m = 0#12 ∧ cl.holds &&& m = 0#12 := by
      rw [BitVec.and_comm, BitVec.and_or_distrib_left, BitVec.or_eq_zero_iff, BitVec.and_comm m f, BitVec.and_comm m cl.holds]
    rw [List.foldl_cons, foldl_holds_and_eq_zero m rest, split_or, List.forall_mem_cons, and_assoc]

theorem Team.flagsBusy_eq_false {t : Team} {m : BitVec 12} : t.flagsBusy m = false ↔ ∀ cl, cl ∈ t.retired ++ t.queue → cl.holds &&& m = 0#12 := by
  simpa [Team.flagsBusy, Team.flags, Team.holders] using foldl_holds_and_eq_zero m t.holders 0#12

theorem Team.flagsBusy_eq_true {t : Team} {m : BitVec 12} : t.flagsBusy m = true ↔ ∃ cl, cl ∈ t.retired ++ t.queue ∧ cl.holds &&& m ≠ 0#12 := by
  rw [← Bool.not_eq_false, Team.flagsBusy_eq_false]
  simp only [not_forall, exists_prop, ne_eq]

section
variable {s : State} {r : TeamRef} {c : Crew} {t : Team} (h : s.acts r c t)
include h

theorem exec_fwait_free {m : BitVec 12} (free : t.flagsBusy m = false) : exec (.fwait m) s = .next (s.putTeam r (t.advance 4)) :=
  (onTeam_acts h _).trans (by simp [free])

/-- A hold: nothing changes. -/
theorem exec_fwait_busy {m : BitVec 12} (busy : t.flagsBusy m = true) : exec (.fwait m) s = .next s :=
  (onTeam_acts h _).trans (by simp [busy, putTeam_self h.2])

theorem exec_fclr (m : BitVec 12) : exec (.fclr m) s = .next (s.putTeam r ((t.dropFlags m).advance 4)) := onTeam_acts h _

theorem exec_ldrain_empty (hq : t.queue = []) (hr : t.retired = []) : exec .ldrain s = .next (s.putTeam r (t.advance 4)) :=
  (onTeam_acts h _).trans (by simp [hq, hr])

theorem exec_ldrain_busy (hb : t.queue ≠ [] ∨ t.retired ≠ []) : exec .ldrain s = .next s := by
  have busy : (t.queue.isEmpty && t.retired.isEmpty) = false := by
    rcases hb with hq | hr
    · simp [hq]
    · simp [hr]
  exact (onTeam_acts h _).trans (by simp [busy, putTeam_self h.2])
end

end MasksAndFlags

/-- Settles O11, instruction by instruction. -/
theorem maskAndFlagInstructions : Obligations.MaskAndFlagInstructions := by
  refine ⟨⟨Team.mask_setMask, fun n l hl => getLsbD_laneMask n hl, ?masks⟩, ?flags⟩
  case masks =>
    intro s r c t h md ms mt d
    exact ⟨exec_mpush_room h ms, exec_mpush_full h ms, fun low top hs => ⟨exec_melse_top h hs, exec_mpop_top h hs⟩,
      fun hs => ⟨exec_melse_empty h hs, exec_mpop_empty h hs⟩, onTeam_acts h _, onTeam_acts h _, onTeam_acts h _, onTeam_acts h _,
      exec_mcnt h d ms, _, exec_mfirst h d ms, firstLaneWord_spec (t.mask ms) t.lanes⟩
  case flags =>
    intro s r c t h m
    exact ⟨fun free => exec_fwait_free h (Team.flagsBusy_eq_false.2 free), fun busy => exec_fwait_busy h (Team.flagsBusy_eq_true.2 busy),
      ⟨_, exec_fclr h m, rfl, rfl, rfl⟩, exec_ldrain_empty h, exec_ldrain_busy h⟩

end Sys2Proof.Machine

namespace Sys2Proof.Machine

section PlacementOfCrews

/-! ### Crews after an update (02 R30) -/

theorem crewAt_putCrew {s : State} {k : Nat} {c : Crew} (h : s.crewAt k = some c) (d : Crew) : (s.putCrew k d).crewAt k = some d := by
  simp [State.crewAt, State.putCrew, (List.getElem?_eq_some_iff.1 h).1]

theorem modCrew_eq {s : State} {k : Nat} {c : Crew} (h : s.crewAt k = some c) (f : Crew → Crew) : s.modCrew k f = s.putCrew k (f c) := by
  rw [State.modCrew, h]

theorem crewAt_modCrew {s : State} {k : Nat} {c : Crew} (h : s.crewAt k = some c) (f : Crew → Crew) : (s.modCrew k f).crewAt k = some (f c) := by
  rw [modCrew_eq h, crewAt_putCrew h]

/-- The crews resident on a core have their place there. -/
theorem mem_residents {s : State} {core k : Nat} : k ∈ s.residents core ↔ ∃ c, s.crewAt k = some c ∧ c.place = some core := by
  simp [State.residents, State.crewAt, List.mem_zipIdx_iff_getElem?]

theorem youngest_mem {s : State} : ∀ {ks : List Nat} {k : Nat}, s.youngest ks = some k → k ∈ ks
  | j :: rest, k, h => by
    rw [State.youngest] at h
    split at h
    · cases h; exact List.mem_cons_self
    · next i hi =>
      split at h <;> cases h
      · exact List.mem_cons_self
      · exact List.mem_cons_of_mem _ (youngest_mem hi)

/-! ### What mirrors and granted registers leave unchanged (08 R182; 20 R400) -/

/-- An update that changes crews resident on one core, and nothing else of the package. -/
def State.changesResidents (s s' : State) (core : Nat) : Prop :=
  ∃ cs, s' = { s with crews := cs } ∧ ∀ k c, s.crewAt k = some c → c.place ≠ some core → s'.crewAt k = some c

theorem State.changesResidents.refl (s : State) (core : Nat) : s.changesResidents s core := ⟨s.crews, rfl, fun _ _ h _ => h⟩

theorem State.changesResidents.trans {s s1 s2 : State} {core : Nat} (h1 : s.changesResidents s1 core) (h2 : s1.changesResidents s2 core) :
    s.changesResidents s2 core := by
  obtain ⟨cs1, rfl, hk1⟩ := h1
  obtain ⟨cs2, rfl, hk2⟩ := h2
  exact ⟨cs2, rfl, fun k c hc hp => hk2 k c (hk1 k c hc hp) hp⟩

/-- A crew put where a resident stood. -/
theorem changesResidents_putCrew {s : State} {core j : Nat} {d : Crew} (hd : s.crewAt j = some d) (hp : d.place = some core) (e : Crew) :
    s.changesResidents (s.putCrew j e) core := by
  refine ⟨_, rfl, fun k c hc hne => ?_⟩
  have other : j ≠ k := by rintro rfl; exact hne ((Option.some.inj (hc.symm.trans hd)) ▸ hp)
  rw [State.crewAt, State.putCrew, List.getElem?_set_ne other]
  exact hc

theorem changesResidents_modTeam {s : State} {r : TeamRef} {c : Crew} {t : Team} {core : Nat} (h : s.teamAt r = some (c, t)) (hp : c.place = some core)
    (f : Team → Team) : s.changesResidents (s.modTeam r f) core := by
  have hm : s.modTeam r f = s.putCrew r.crew (c.putTeam r.team (f t)) := by rw [State.modTeam, h]; exact putTeam_eq h _
  rw [hm]
  exact changesResidents_putCrew (crewAt_of h) hp _

/-- Mirrors that go change the mirror flag of crews of the core, and nothing else. -/
theorem dropMirrors_frame (core : Nat) : ∀ (n : Nat) (s : State), s.changesResidents (s.dropMirrors core n) core ∧
    (s.dropMirrors core n).crews.length = s.crews.length ∧
    ∀ k c, s.crewAt k = some c → ∃ m, (s.dropMirrors core n).crewAt k = some { c with mirrored := m }
  | 0, s => ⟨.refl s core, rfl, fun k c hc => ⟨c.mirrored, hc⟩⟩
  | n + 1, s => by
    rw [State.dropMirrors]
    split
    · exact ⟨.refl s core, rfl, fun k c hc => ⟨c.mirrored, hc⟩⟩
    · split
      · exact ⟨.refl s core, rfl, fun k c hc => ⟨c.mirrored, hc⟩⟩
      · next j hj =>
        obtain ⟨d, hd, hp⟩ := mem_residents.1 (List.mem_of_mem_filter (youngest_mem hj))
        obtain ⟨frame, len, keeps⟩ := dropMirrors_frame core n (s.modCrew j (fun c => { c with mirrored := false }))
        rw [modCrew_eq hd] at frame len keeps ⊢
        refine ⟨(changesResidents_putCrew hd hp _).trans frame, len.trans (by simp [State.putCrew]), fun k c hc => ?_⟩
        by_cases hk : j = k
        · subst hk
          cases hc.symm.trans hd
          exact keeps j { d with mirrored := false } (crewAt_putCrew hd _)
        · exact keeps k c (by rw [State.crewAt, State.putCrew, List.getElem?_set_ne hk]; exact hc)

theorem attemptRgrow_frame {d a : SReg} {s s1 : State} {r : TeamRef} {c : Crew} {t : Team} {core : Nat} (h : s.teamAt r = some (c, t))
    (hp : c.place = some core) (hs : attemptRgrow d a s r c t = some s1) : s.changesResidents s1 core := by
  obtain rfl : c.core = core := by rw [Crew.core, hp]; rfl
  rw [attemptRgrow] at hs
  split at hs <;> cases hs
  exact (changesResidents_modTeam h hp _).trans (dropMirrors_frame c.core 16 _).1

/-- The requests for registers that a core grants are those of its residents. -/
theorem grantRgrow_frame (core : Nat) : ∀ (n : Nat) (s : State), s.changesResidents (s.grantRgrow core n) core
  | 0, s => .refl s core
  | n + 1, s => by
    rw [State.grantRgrow]
    split
    · exact .refl s core
    · next s1 hs1 =>
      refine State.changesResidents.trans ?_ (grantRgrow_frame core n s1)
      obtain ⟨r, -, hr⟩ := List.exists_of_findSome?_eq_some hs1
      split at hr
      · cases hr
      · next c t ht =>
        split at hr
        · cases hr
        · split at hr
          · split at hr
            · next hc =>
              rw [Bool.and_eq_true, beq_iff_eq] at hc
              exact attemptRgrow_frame ht hc.1 hr
            · cases hr
          · cases hr

/-! ### Leaving a core (02 R42; 06 R133; 13 R293; 17 R345) -/

/-- A crew off its core, which it leaves with its state kept. -/
def Crew.afterLeaving (c : Crew) (core : Nat) : Crew :=
  { c with place := none, lastRegion := coreRegion core, mirrored := false, waited := 0
           growEvicted := c.teams.any (fun t => t.growWant.isSome), teams := c.teams.map Team.landVotes }

/-- What leaving its core makes of crew `k`, and what of the package it leaves alone. -/
structure State.crewLeft (s s' : State) (k : Nat) (c' : Crew) : Prop where
  crew : s'.crewAt k = some c'
  accHold : ∀ p, p ∈ s'.accHold → p.2.crew ≠ k
  mem : s'.mem = s.mem

theorem leaveCore_eq {s : State} {k core : Nat} {c : Crew} (hc : s.crewAt k = some c) (hp : c.place = some core) :
    ∃ p o m, s.leaveCore k = (State.putCrew { s with perf := p, accHold := s.accHold.filter (fun q => q.2.crew != k), offers := o, matrix := m } k
      (c.afterLeaving core)).grantRgrow core 16 := by
  obtain ⟨p, hcount⟩ := count_eq s (coreDie core) 13 1
  refine ⟨p, ?_, ?_, ?eq⟩
  case eq =>
    unfold State.leaveCore
    simp only [hc, hp, hcount]
    rfl

theorem leaveCore_left {s : State} {k core : Nat} {c : Crew} (hc : s.crewAt k = some c) (hp : c.place = some core) :
    s.crewLeft (s.leaveCore k) k (c.afterLeaving core) ∧ (s.leaveCore k).events = s.events := by
  obtain ⟨p, o, m, heq⟩ := leaveCore_eq hc hp
  rw [heq]
  obtain ⟨cs, hcs, keeps⟩ := grantRgrow_frame core 16
    (State.putCrew { s with perf := p, accHold := s.accHold.filter (fun q => q.2.crew != k), offers := o, matrix := m } k (c.afterLeaving core))
  have crew := keeps k _ (crewAt_putCrew (c := c) hc _) (Option.some_ne_none core).symm
  rw [hcs] at crew ⊢
  exact ⟨⟨crew, fun q hq => by simpa using (List.mem_filter.1 hq).2, rfl⟩, rfl⟩

theorem eventKind_record (seq detail addr : Word) (info : BitVec 32) (status kind : BitVec 16) :
    eventKind (seq ++ detail ++ addr ++ info ++ status ++ kind) = kind.toNat := by
  rw [eventKind, BitVec.extractLsb'_append_eq_right]

theorem raise_raised (s : State) (status info addr detail : Nat) {kind : Nat} (hk : kind < 2 ^ 16) : raised s (s.raise kind status info addr detail) kind 1 := by
  refine ⟨_, rfl, rfl, fun e he => ?_⟩
  rw [List.mem_singleton.1 he, eventKind_record, BitVec.toNat_ofNat, Nat.mod_eq_of_lt hk]

theorem raised.trans {s s1 s2 : State} {kind n m : Nat} (h1 : raised s s1 kind n) (h2 : raised s1 s2 kind m) : raised s s2 kind (n + m) := by
  obtain ⟨es, he, hn, hk⟩ := h1
  obtain ⟨fs, hf, hm, hj⟩ := h2
  refine ⟨es ++ fs, by rw [hf, he, List.append_assoc], by rw [List.length_append, hn, hm], fun e hmem => ?_⟩
  rcases List.mem_append.1 hmem with h | h
  · exact hk e h
  · exact hj e h

/-- A faulted crew's record: one event 0x0A for each FAULTED team (17 R345). -/
theorem faultEvents_raised (s : State) (c : Crew) :
    raised s (s.faultEvents c) 0x0A (c.teams.countP (·.faulted)) ∧ (s.faultEvents c).crews = s.crews ∧ (s.faultEvents c).accHold = s.accHold ∧
      (s.faultEvents c).mem = s.mem := by
  unfold State.faultEvents
  generalize c.teams = ts
  induction ts generalizing s with
  | nil => exact ⟨⟨[], by simp, rfl, by simp⟩, rfl, rfl, rfl⟩
  | cons t ts ih =>
    rw [List.foldl_cons]
    by_cases hf : t.faulted = true
    · rw [if_pos hf, List.countP_cons_of_pos hf, Nat.add_comm (List.countP _ ts) 1]
      obtain ⟨hr, hcrews, hacc, hmem⟩ := ih (s.raise 0x0A (t.trapCause.toNat % 65536) c.launchId.toNat t.trapPc.toNat (c.crewId.toNat + 2 ^ 32 * t.id))
      exact ⟨(raise_raised s _ _ _ _ (by decide)).trans hr, hcrews, hacc, hmem⟩
    · rw [if_neg hf, List.countP_cons_of_neg hf]
      exact ih s

/-- A crew leaves its core; a faulted one is held, with an event for each FAULTED team where no pool is to blame. -/
theorem leaveOrHold_left {s : State} {k core : Nat} {c : Crew} (hc : s.crewAt k = some c) (hp : c.place = some core) :
    ∃ held, s.crewLeft (s.leaveOrHold k) k { c.afterLeaving core with heldFaulted := held } ∧
      (c.teams.any (·.faulted) = false → (s.leaveOrHold k).events = s.events) ∧
      (c.teams.any (·.faulted) = true → held = true ∧ (c.poolZ = none → raised s (s.leaveOrHold k) 0x0A (c.teams.countP (·.faulted)))) := by
  obtain ⟨left, events⟩ := leaveCore_left hc hp
  unfold State.leaveOrHold
  simp only [hc]
  by_cases hf : c.teams.any (·.faulted) = true
  · rw [if_pos hf, modCrew_eq left.crew]
    generalize hs1 : (s.leaveCore k).putCrew k _ = s1
    have left1 : s.crewLeft s1 k { c.afterLeaving core with heldFaulted := true } := by
      rw [← hs1]; exact ⟨crewAt_putCrew left.crew _, left.accHold, left.mem⟩
    refine ⟨true, ?_, fun h => absurd hf (by rw [h]; decide), fun _ => ⟨rfl, fun hz => ?_⟩⟩
    · split
      · exact left1
      · obtain ⟨-, hcrews, hacc, hmem⟩ := faultEvents_raised s1 c
        exact ⟨by rw [State.crewAt, hcrews]; exact left1.crew, hacc ▸ left1.accHold, hmem.trans left1.mem⟩
    · have events1 : s1.events = s.events := by rw [← hs1]; exact events
      rw [hz, if_neg (by decide)]
      obtain ⟨es, he, hn, hk⟩ := (faultEvents_raised s1 c).1
      exact ⟨es, events1 ▸ he, hn, hk⟩
  · rw [if_neg hf]
    exact ⟨c.heldFaulted, left, fun _ => events, fun h => absurd h hf⟩

/-! ### Which crew leaves -/

theorem evictChosen_undrained {s : State} {k : Nat} (hd : s.cohortDrained k = false) : s.evictChosen k = s := by simp [State.evictChosen, hd]

section
variable {s : State} {k core : Nat} {c : Crew} (hc : s.crewAt k = some c) (hl : s.liveCohort c = [k])
include hc hl

theorem evictChosen_drained (hd : s.cohortDrained k = true) : s.evictChosen k = s.leaveOrHold k := by
  simp [State.evictChosen, hd, hc, State.leaveCohort, hl]

theorem exec_crewEvict_leaves (ha : s.active = true) (hp : c.place = some core) (closed : s.closedCores.contains core = true) (may : s.mayEvict k = true) :
    exec (.crewEvict k) s = .next (s.leaveOrHold k) := by
  obtain ⟨-, hd⟩ := Bool.and_eq_true_iff.1 may
  have : exec (.crewEvict k) s = .next (s.evictChosen k) := by
    show execCrewEvict k s = _
    simp only [execCrewEvict, hc, hp, ha, closed, may, Bool.and_self, if_true]
  rw [this, evictChosen_drained hc hl hd]

theorem exec_crewFaultSave_leaves (ha : s.active = true) (hp : c.place.isSome = true) (live : c.state = .live) (hf : c.teams.any (·.faulted) = true)
    (hd : s.drained k = true) (stop : ∀ t, t ∈ c.teams → s.laneAtStop c t = true) : exec (.crewFaultSave k) s = .next (s.leaveOrHold k) := by
  have stops : c.teams.all (fun t => s.laneAtStop c t) = true := List.all_eq_true.2 stop
  show execCrewFaultSave k s = _
  simp [execCrewFaultSave, hc, hl, ha, hp, live, hf, hd, stops]
end

/-- A core all of whose teams are stuck, one of them in RGROW, gives up the youngest crew that R42 allows. -/
theorem exec_rgrowDeadlockEvict_chosen {s : State} {k core : Nat} (ha : s.active = true) (hy : s.youngest ((s.residents core).filter s.mayChoose) = some k)
    (stuck : ∀ j d, j ∈ s.residents core → s.crewAt j = some d → ∀ t, t ∈ d.teams → (s.blocked d t || t.faulted || t.finished) = true)
    (wants : ∃ j d t, j ∈ s.residents core ∧ s.crewAt j = some d ∧ t ∈ d.teams ∧ s.blocked d t = true ∧ t.growWant.isSome = true) :
    exec (.rgrowDeadlockEvict core) s = .next (s.evictChosen k) := by
  show execRgrowDeadlockEvict core s = _
  unfold execRgrowDeadlockEvict
  dsimp only
  rw [if_pos, hy]
  rw [Bool.and_eq_true, Bool.and_eq_true, List.all_eq_true, List.any_eq_true]
  refine ⟨⟨ha, fun j hj => ?_⟩, ?_⟩
  · split
    · rfl
    · next d hd => exact List.all_eq_true.2 (stuck j d hj hd)
  · obtain ⟨j, d, t, hj, hd, ht, hb, hg⟩ := wants
    refine ⟨j, hj, ?_⟩
    rw [hd]
    exact List.any_eq_true.2 ⟨t, ht, by rw [hb, hg]; rfl⟩

/-- The greatest of some priorities. -/
theorem foldl_max_eq_max? (ps : List Nat) : ps.foldl (fun o p => some (match o with | none => p | some q => max p q)) (none : Option Nat) = ps.max? := by
  have step : ∀ (l : List Nat) (a : Nat), l.foldl (fun o p => some (match o with | none => p | some q => max p q)) (some a) = some (l.foldl max a) := by
    intro l
    induction l with
    | nil => intro a; rfl
    | cons b l ih => intro a; rw [List.foldl_cons, List.foldl_cons, ih, max_comm]
  cases ps with
  | nil => rfl
  | cons a l => exact step l a

/-- The one crew that qualifies is taken, with a guard or without. -/
theorem preferred_singleton (f : Nat → Bool) (k : Nat) : (if ([k].filter f).isEmpty then [k] else [k].filter f) = [k] := by
  by_cases hk : f k = true
  · simp [List.filter, hk]
  · simp [List.filter, hk]

theorem lowest_singleton (s : State) (k : Nat) : s.lowest [k] = [k] := by simp [State.lowest]

/-- The one crew that may make room for the waiting cohort of the greatest priority is chosen, guard or no guard. -/
theorem exec_priorityEvict_chosen {s : State} {region p k : Nat} (ha : s.active = true)
    (hp : (((s.waiting region).filter (fun w => !s.fitsRegion (s.cohortZ w) (s.needsOf w) region)).map (·.epri)).max? = some p)
    (hv : s.victims region p = [k]) : exec (.priorityEvict region) s = .next (s.evictChosen k) := by
  show execPriorityEvict region s = _
  unfold execPriorityEvict
  dsimp only
  split
  · next h => exact absurd (hp.symm.trans ((foldl_max_eq_max? _).symm.trans h)) (Option.some_ne_none p)
  · next q h =>
    obtain rfl : p = q := Option.some.inj (hp.symm.trans ((foldl_max_eq_max? _).symm.trans h))
    rw [hv, preferred_singleton, lowest_singleton]
    exact congrArg Host.Outcome.next (if_pos ha)

/-- A crew that may make room for another has no FAULTED team: all its teams have been BLOCKED for long. -/
theorem victims_unfaulted {s : State} {region p k : Nat} {c : Crew} (hc : s.crewAt k = some c) (hk : k ∈ s.victims region p) :
    c.teams.any (·.faulted) = false := by
  obtain ⟨⟨d, j⟩, hd, rfl⟩ := List.mem_map.1 hk
  obtain ⟨hmem, hcond⟩ := List.mem_filter.1 hd
  have hdc : d = c := Option.some.inj ((List.mem_zipIdx_iff_getElem?.1 hmem).symm.trans hc)
  subst hdc
  simp only [Bool.and_eq_true] at hcond
  obtain ⟨⟨-, long⟩, -⟩ := hcond
  rw [List.any_eq_false]
  intro t ht
  have blocked := (Bool.and_eq_true_iff.1 (List.all_eq_true.1 long t ht)).1
  unfold State.blocked at blocked
  cases hf : t.faulted
  · decide
  · rw [hf] at blocked; simp at blocked

/-! ### Placing a cohort (02 R29, R31, R35; 13 R286) -/

/-- The range of unstarted crews is cut at a crew that starts. -/
theorem mem_cutRange (i j : Nat) (p : Nat × Nat) :
    (cutRange i p).any (fun q => decide (q.1 ≤ j ∧ j < q.1 + q.2)) = (decide (p.1 ≤ j ∧ j < p.1 + p.2) && j != i) := by
  rw [Bool.eq_iff_iff]
  unfold cutRange
  split
  · simp only [List.any_eq_true, List.mem_filter, List.mem_cons, List.not_mem_nil, or_false, bne_iff_ne, Bool.and_eq_true, decide_eq_true_eq]
    constructor
    · rintro ⟨q, ⟨rfl | rfl, -⟩, hq⟩ <;> simp only at hq ⊢ <;> omega
    · rintro ⟨hj, hne⟩
      rcases Nat.lt_or_gt_of_ne hne with h | h
      · exact ⟨(p.1, i - p.1), ⟨.inl rfl, by simp only; omega⟩, by simp only; omega⟩
      · exact ⟨(i + 1, p.1 + p.2 - i - 1), ⟨.inr rfl, by simp only; omega⟩, by simp only; omega⟩
  · simp only [List.any_cons, List.any_nil, Bool.or_false, Bool.and_eq_true, decide_eq_true_eq, bne_iff_ne]
    omega

theorem unstarted_cut (l : Launch) (i j : Nat) :
    Launch.unstarted { l with ranges := l.ranges.flatMap (cutRange i) } j = (l.unstarted j && j != i) := by
  simp only [Launch.unstarted]
  induction l.ranges with
  | nil => rfl
  | cons p ps ih => rw [List.flatMap_cons, List.any_append, ih, mem_cutRange, List.any_cons, Bool.and_or_distrib_right]

theorem arrived_eq (s : State) (k core : Nat) {c : Crew} (hc : s.crewAt k = some c) :
    ∃ p l m mirror, s.arrived k core = (State.putCrew { s with perf := p, l1 := l, matrix := m } k { c with mirrored := mirror }).dropMirrors core 16 := by
  obtain ⟨p, hcount⟩ := count_eq s (coreDie core) 12 1
  refine ⟨p, ?_, ?_, ?_, ?eq⟩
  case eq =>
    have there : s.crews[k]? = some c := hc
    simp only [State.arrived, hcount, State.modCrew, State.crewAt, State.l1Invalidate, there]
    rfl

/-- The crew that arrives on a core is mirrored or not; no other crew, launch or byte of memory changes with it. -/
theorem arrived_frame (s : State) (k core : Nat) {c : Crew} (hc : s.crewAt k = some c) :
    (∃ m, (s.arrived k core).crewAt k = some { c with mirrored := m }) ∧ (s.arrived k core).crews.length = s.crews.length ∧
      (s.arrived k core).launches = s.launches ∧ (s.arrived k core).mem = s.mem := by
  obtain ⟨p, l, m, mirror, heq⟩ := arrived_eq s k core hc
  rw [heq]
  obtain ⟨⟨cs, hcs, -⟩, len, keeps⟩ := dropMirrors_frame core 16 (State.putCrew { s with perf := p, l1 := l, matrix := m } k { c with mirrored := mirror })
  obtain ⟨b, hb⟩ := keeps k _ (crewAt_putCrew (c := c) hc _)
  refine ⟨⟨b, hb⟩, len.trans (List.length_set ..), ?_, ?_⟩
  · rw [hcs]; rfl
  · rw [hcs]; rfl

/-- The launch after crew `i` of its cohort `k` has been placed: its priority is that of its record again. -/
def Launch.afterPlacing (l : Launch) (k i : Nat) : Launch :=
  { l with epri := recPriority l.record, aging := [], stolen := l.stolen.filter (fun p => p.1 != k), ranges := l.ranges.flatMap (cutRange i) }

section
variable {s : State} {w : Waiting} {l : Launch} {g slot i : Nat} (hw : w.evicted = none) (hl : s.launches[w.launch]? = some l)
  (one : (l.members w.cohort).filter l.unstarted = [i])
include hw hl one

/-- A cohort of which one crew is to start is placed with that crew. -/
theorem placeCohort_eq : s.placeCohort w g slot =
    { State.arrived { s with crews := s.crews ++ [l.newCrew i (cohortCore (recCohort l.record) g slot i) s.nextBorn]
                             launches := s.launches.set w.launch (l.afterPlacing w.cohort i) }
        s.crews.length (cohortCore (recCohort l.record) g slot i) with nextBorn := s.nextBorn + 1 } := by
  have lt := (List.getElem?_eq_some_iff.1 hl).1
  unfold State.placeCohort
  simp only [hl, hw, one, List.foldl_cons, List.foldl_nil]
  unfold State.startCrew
  simp only [List.getElem?_set_self lt, List.set_set]
  rfl

theorem placeCohort_one :
    (∃ m, (s.placeCohort w g slot).crewAt s.crews.length = some { l.newCrew i (cohortCore (recCohort l.record) g slot i) s.nextBorn with mirrored := m }) ∧
      (s.placeCohort w g slot).crews.length = s.crews.length + 1 ∧
      (s.placeCohort w g slot).launches[w.launch]? = some (l.afterPlacing w.cohort i) ∧ (s.placeCohort w g slot).mem = s.mem := by
  rw [placeCohort_eq hw hl one]
  obtain ⟨hcrew, hlen, hlaunches, hmem⟩ := arrived_frame { s with crews := s.crews ++ [l.newCrew i (cohortCore (recCohort l.record) g slot i) s.nextBorn]
                                                                  launches := s.launches.set w.launch (l.afterPlacing w.cohort i) }
    s.crews.length (cohortCore (recCohort l.record) g slot i) List.getElem?_concat_length
  generalize State.arrived _ _ _ = s1 at hcrew hlen hlaunches hmem ⊢
  refine ⟨hcrew, hlen.trans List.length_append, ?_, hmem⟩
  rw [hlaunches]
  exact List.getElem?_set_self (List.getElem?_eq_some_iff.1 hl).1
end

theorem exec_crewPlace_places {s : State} {lp k g slot : Nat} {w : Waiting} {l : Launch} (ha : s.active = true)
    (hf : (s.waiting (g / 3)).find? (fun w => w.launch == lp && w.cohort == k) = some w) (may : s.mayPlace (g / 3) w none (s.waiting (g / 3)) = true)
    (hl : s.launches[lp]? = some l) (fits : s.fitsAt (recCohort l.record) (s.needsOf w) g slot = true) :
    w.launch = lp ∧ w.cohort = k ∧ exec (.crewPlace lp k g slot) s = .next (s.placeCohort w g slot) := by
  have hw := List.find?_some hf
  simp only [Bool.and_eq_true, beq_iff_eq] at hw
  have hz : s.cohortZ w = recCohort l.record := by rw [State.cohortZ, hw.1, hl]
  refine ⟨hw.1, hw.2, ?_⟩
  show execCrewPlace lp k g slot s = _
  simp only [execCrewPlace, hf, ha, may, hz, fits, Bool.and_self, if_true]

theorem newTeam_of_getElem? {l : Launch} {n j : Nat} {t : Team} (h : ((List.range n).map l.newTeam)[j]? = some t) : t = l.newTeam j := by
  rw [List.getElem?_map, Option.map_eq_some_iff] at h
  obtain ⟨i, hi, rfl⟩ := h
  obtain ⟨-, rfl⟩ := List.getElem?_eq_some_iff.1 hi
  rw [List.getElem_range]

/-- A team at its start reads zero in every scalar register, lane register and accumulator element (02 R35). -/
theorem newTeam_reads_zero (l : Launch) (j : Nat) :
    (∀ a, (l.newTeam j).sreg a = 0#64) ∧ (∀ v n, (l.newTeam j).vreg v n = 0#64) ∧ (∀ a n m, (l.newTeam j).accAt a n m = 0) :=
  ⟨fun a => by unfold Team.sreg; split <;> rfl, fun _ _ => rfl, fun _ _ _ => rfl⟩

/-! ### Stealing (13 R287) -/

theorem le_foldl_max (f : Nat → Nat) : ∀ (l : List Nat) (a : Nat), a ≤ l.foldl (fun m x => max m (f x)) a ∧ ∀ x ∈ l, f x ≤ l.foldl (fun m x => max m (f x)) a
  | [], a => ⟨le_rfl, by simp⟩
  | y :: l, a => by
    obtain ⟨h1, h2⟩ := le_foldl_max f l (max a (f y))
    rw [List.foldl_cons, List.forall_mem_cons]
    exact ⟨by omega, by omega, h2⟩

theorem foldl_max_le (f : Nat → Nat) (b : Nat) : ∀ (l : List Nat) (a : Nat), a ≤ b → (∀ x ∈ l, f x ≤ b) → l.foldl (fun m x => max m (f x)) a ≤ b
  | [], _, ha, _ => ha
  | y :: l, a, ha, h => by
    rw [List.forall_mem_cons] at h
    exact foldl_max_le f b l _ (max_le ha h.1) h.2

/-- A region's backlog is the longest where no other is longer. -/
theorem eq_foldl_max_iff (f : Nat → Nat) {l : List Nat} {q : Nat} (hq : q ∈ l) : f q = l.foldl (fun m x => max m (f x)) 0 ↔ ∀ x ∈ l, f x ≤ f q := by
  constructor
  · intro h x hx
    rw [h]
    exact (le_foldl_max f l 0).2 x hx
  · intro h
    exact le_antisymm ((le_foldl_max f l 0).2 q hq) (foldl_max_le f (f q) l 0 (Nat.zero_le _) h)

/-- The victim is the first region of the longest backlog, where that is not empty. -/
theorem find?_longest (f : Nat → Nat) {l : List Nat} {v : Nat} (hv : l.find? (fun q => l.all (fun x => decide (f x ≤ f q))) = some v) (pos : 0 < f v) :
    l.find? (fun q => decide (f q = l.foldl (fun m x => max m (f x)) 0) && decide (0 < l.foldl (fun m x => max m (f x)) 0)) = some v := by
  have hmem := List.mem_of_find?_eq_some hv
  have hall := List.find?_some hv
  simp only [List.all_eq_true, decide_eq_true_eq] at hall
  have most : 0 < l.foldl (fun m x => max m (f x)) 0 := (eq_foldl_max_iff f hmem).2 hall ▸ pos
  rw [← hv]
  refine List.find?_congr fun q hq => ?_
  rw [Bool.eq_iff_iff]
  simp only [most, decide_true, Bool.and_true, decide_eq_true_eq, List.all_eq_true, eq_foldl_max_iff f hq]

theorem mem_upsert_self {α : Type} (p : α → Bool) (x : α) : ∀ l : List α, x ∈ upsert p x l
  | [] => List.mem_singleton.2 rfl
  | y :: l => by
    rw [upsert]
    split
    · exact List.mem_cons_self
    · exact List.mem_cons_of_mem _ (mem_upsert_self p x l)

/-- An entry that the replaced one and its replacement do not match stays in the list, and no such entry comes to it. -/
theorem mem_upsert_of_not {α : Type} (p : α → Bool) {x : α} (hx : p x = true) {q : α} (hq : p q = false) : ∀ l : List α, q ∈ upsert p x l ↔ q ∈ l
  | [] => by
    rw [upsert, List.mem_singleton]
    exact ⟨fun h => absurd (h ▸ hx) (by rw [hq]; decide), fun h => absurd h List.not_mem_nil⟩
  | y :: l => by
    have hne : q ≠ x := by rintro rfl; rw [hq] at hx; cases hx
    rw [upsert]
    split
    · next hy =>
      have hne' : q ≠ y := by rintro rfl; rw [hq] at hy; cases hy
      simp [hne, hne']
    · simp [mem_upsert_of_not p hx hq l]

theorem exec_cohortSteal_steals {s : State} {region v : Nat} {w : Waiting} {l : Launch} (ha : s.active = true) (hr : region < s.regions)
    (idle : s.regionIdle region = true)
    (hv : ((List.range s.regions).filter (fun q => q != region)).find? (fun q =>
      ((List.range s.regions).filter (fun q => q != region)).all (fun x => decide (s.backlogLength x ≤ s.backlogLength q))) = some v)
    (pos : 0 < s.backlogLength v) (hw : (s.waiting v).find? (fun w => s.stealable v w && s.fitsRegion (s.cohortZ w) (s.needsOf w) region) = some w)
    (hl : s.launches[w.launch]? = some l) :
    exec (.cohortSteal region) s =
      .next { s with launches := s.launches.set w.launch { l with stolen := upsert (fun p => p.1 == w.cohort) (w.cohort, region) l.stolen } } := by
  show execCohortSteal region s = _
  simp only [execCohortSteal, find?_longest s.backlogLength hv pos, hw, hl, ha, decide_eq_true hr, idle, Bool.and_self, if_true]

/-! ### A package that is stopped (02 R42; 19 R363) -/

section
variable {s : State} (ha : s.active = false)
include ha

theorem exec_crewPlace_stopped (lp k g slot : Nat) : exec (.crewPlace lp k g slot) s = .next s := by
  show execCrewPlace lp k g slot s = _
  unfold execCrewPlace
  dsimp only
  split
  · rfl
  · simp [ha]
theorem exec_crewEvict_stopped (k : Nat) : exec (.crewEvict k) s = .next s := by
  show execCrewEvict k s = _
  unfold execCrewEvict
  split
  · rfl
  · split
    · rfl
    · simp [ha]
theorem exec_crewFaultSave_stopped (k : Nat) : exec (.crewFaultSave k) s = .next s := by
  show execCrewFaultSave k s = _
  unfold execCrewFaultSave
  split
  · rfl
  · simp [ha]
theorem exec_rgrowDeadlockEvict_stopped (core : Nat) : exec (.rgrowDeadlockEvict core) s = .next s := by
  show execRgrowDeadlockEvict core s = _
  simp [execRgrowDeadlockEvict, ha]
theorem exec_priorityAging_stopped (lp region : Nat) : exec (.priorityAging lp region) s = .next s := by
  show execPriorityAging lp region s = _
  unfold execPriorityAging
  split
  · rfl
  · simp [ha]
theorem exec_priorityEvict_stopped (region : Nat) : exec (.priorityEvict region) s = .next s := by
  show execPriorityEvict region s = _
  unfold execPriorityEvict
  dsimp only
  split
  · rfl
  · split
    · rfl
    · simp [ha]
theorem exec_cohortSteal_stopped (region : Nat) : exec (.cohortSteal region) s = .next s := by
  show execCohortSteal region s = _
  unfold execCohortSteal
  dsimp only
  split
  · rfl
  · split
    · rfl
    · split
      · rfl
      · simp [ha]
end

end PlacementOfCrews

/-- Settles O46: which crew leaves, starts or is stolen, by the `exec_` lemmas; what becomes of it, by `leaveOrHold_left` and `placeCohort_one`. -/
theorem placement : Obligations.Placement := by
  intro s leaves
  refine ⟨?stopped, fun ha => ⟨?place, ?leave, ?aging, ?steal⟩⟩
  case stopped =>
    exact fun ha a b g z => ⟨exec_crewPlace_stopped ha a b g z, exec_crewEvict_stopped ha a, exec_crewFaultSave_stopped ha a, exec_rgrowDeadlockEvict_stopped ha a,
      exec_priorityAging_stopped ha a b, exec_priorityEvict_stopped ha a, exec_cohortSteal_stopped ha a⟩
  case place =>
    intro lp k g slot i w l hf hw may hl fits one
    obtain ⟨rfl, rfl, hexec⟩ := exec_crewPlace_places ha hf may hl fits
    obtain ⟨⟨m, hcrew⟩, hlen, hlaunch, hmem⟩ := placeCohort_one (g := g) (slot := slot) hw hl one
    refine ⟨_, _, hexec, hlen, hcrew, rfl, rfl, rfl, rfl, rfl, by simp [Launch.newCrew], ?_, ⟨_, hlaunch, ?_, rfl, rfl, fun j hj => ?_⟩, hmem⟩
    · intro j t ht
      obtain rfl := newTeam_of_getElem? ht
      exact ⟨rfl, rfl, rfl, rfl, rfl, rfl, rfl, newTeam_reads_zero l j⟩
    · exact (unstarted_cut l i i).trans (by simp)
    · exact (unstarted_cut l i j).trans (by simp [hj])
  case leave =>
    intro k c hc hl
    have left (i : Instr) (core : Nat) (hp : c.place = some core) (hexec : exec i s = .next (s.leaveOrHold k)) (f : Crew → State → Prop)
        (hf : ∀ c', (c.teams.any (·.faulted) = true → c'.heldFaulted = true) → f c' (s.leaveOrHold k)) : leaves i k c f := by
      obtain ⟨held, hleft, -, hheld⟩ := leaveOrHold_left hc hp
      exact ⟨_, _, hexec, hleft.crew, rfl, rfl, rfl, by rw [hp]; rfl, hleft.accHold, hleft.mem, hf _ fun h => (hheld h).1⟩
    have quiet (core : Nat) (hp : c.place = some core) (nf : c.teams.any (·.faulted) = false) : (s.leaveOrHold k).events = s.events := by
      obtain ⟨held, -, hev, -⟩ := leaveOrHold_left hc hp
      exact hev nf
    have told (core : Nat) (hp : c.place = some core) (hf : c.teams.any (·.faulted) = true) (hz : c.poolZ = none) :
        raised s (s.leaveOrHold k) 0x0A (c.teams.countP (·.faulted)) := by
      obtain ⟨held, -, -, hheld⟩ := leaveOrHold_left hc hp
      exact (hheld hf).2 hz
    refine ⟨fun core hp closed may => ?evict, fun placed live hf hd stop hz => ?save, fun core hp hy stuck wants => ?grow, fun core region p hp hw hv => ?room⟩
    case evict =>
      have hexec := exec_crewEvict_leaves hc hl ha hp closed may
      exact ⟨fun nf => left _ core hp hexec _ fun _ _ => quiet core hp nf, fun hf hz => left _ core hp hexec _ fun _ held => ⟨held hf, told core hp hf hz⟩⟩
    case save =>
      obtain ⟨core, hp⟩ := Option.isSome_iff_exists.1 placed
      exact left _ core hp (exec_crewFaultSave_leaves hc hl ha placed live hf hd stop) _ fun _ held => ⟨held hf, told core hp hf hz⟩
    case grow =>
      have hexec := exec_rgrowDeadlockEvict_chosen ha hy stuck wants
      exact ⟨fun hd => hexec.trans (by rw [evictChosen_undrained hd]),
        fun hd => left _ core hp (hexec.trans (by rw [evictChosen_drained hc hl hd])) _ fun _ held => ⟨quiet core hp, held⟩⟩
    case room =>
      have hexec := exec_priorityEvict_chosen ha hw hv
      have nf := victims_unfaulted hc (hv ▸ List.mem_singleton_self k)
      exact ⟨fun hd => hexec.trans (by rw [evictChosen_undrained hd]),
        fun hd => left _ core hp (hexec.trans (by rw [evictChosen_drained hc hl hd])) _ fun _ _ => quiet core hp nf⟩
  case aging =>
    intro lp region l hl hb hlt
    show execPriorityAging lp region s = _
    simp only [execPriorityAging, hl, ha, hb, decide_eq_true hlt, Bool.and_self, if_true]
  case steal =>
    intro region v w l hr idle hv pos hw hl
    exact ⟨_, exec_cohortSteal_steals ha hr idle hv pos hw hl, mem_upsert_self _ _ _,
      fun q hq => mem_upsert_of_not (fun p : Nat × Nat => p.1 == w.cohort) (beq_self_eq_true _) (beq_eq_false_iff_ne.2 hq) _⟩

end Sys2Proof.Machine

namespace Sys2Proof.Machine

section ExpiryOfAHeldWait

/-- A scalar wait whose count has run out goes on while the model takes its condition to hold and its effect to be held (08 R160). -/
theorem exec_waitTimeout_held {s : State} {r : TeamRef} {c : Crew} {t : Team} {w : ScalarWait} (h : s.teamAt r = some (c, t)) (may : s.mayWake c t = true)
    (hw : t.swait = some w) (unmet : s.attempt r c t w = none) (held : s.scalarHeld c t w = true) (lane : Nat) :
    exec (.waitTimeout r .scalar lane) s = .next s := by
  show execWaitTimeout r .scalar lane s = _
  simp [execWaitTimeout, h, may, hw, unmet, held]

/-! ### A BWAIT with a word that it wants

`State.scalarHeld` asks of a wait with a `want` whether that word's tags stand as wanted, whatever its instruction is. No BWAIT begins
with a `want`, but the statement takes any wait of a BWAIT, and with a `want` whose tags stand so the expiry of its count has no effect. -/

/-- A tile of one 32-bit word with its tag empty. -/
def emptyWordTile : Tile := mkTile 1 5#8 0x0001000100010001#64 0x2006#32 false

/-- BWAIT s1, s3 with its count run out, and an empty word that it wants. -/
def wantingBwait : ScalarWait :=
  { instr := .bwait 1#6 3#6 31#5, remaining := some 0, began := 0, want := some ⟨0, 1, ⟨0, 0, 0, 0⟩, false, none⟩ }

def wantingTeam : Team := { id := 0, lanes := 32, regs := 64, priv := false, pc := 0#64, swait := some wantingBwait }

def wantingCrew : Crew :=
  { launchId := 0#32, crewId := 0#32, place := some 0, born := 0, lastRegion := 0, teams := [wantingTeam], tiles := [emptyWordTile], nextUid := 2 }

/-- A copy of the team's batch 0, which has not signalled. -/
def openCopy : Command :=
  { id := 1, xred := false, crew := 0, team := 0, core := 0, ticket := 0#48, words := 0#256, swin := windowReset, dwin := windowReset
    sdesc := 0#512, ddesc := 0#512, suid := 1, duid := 0, guid := 0, ord := 0, clauses := 0 }

def wantingState : State := { crews := [wantingCrew], commands := [openCopy] }

theorem wantingState_team : wantingState.teamAt ⟨0, 0⟩ = some (wantingCrew, wantingTeam) := rfl
theorem wantingState_runs : wantingState.crewRuns wantingCrew = true := by decide
theorem wantingState_unmet : wantingState.attempt ⟨0, 0⟩ wantingCrew wantingTeam wantingBwait = none := rfl
theorem wantingState_held : wantingState.scalarHeld wantingCrew wantingTeam wantingBwait = true := by decide

/-- Its wait goes on. -/
theorem exec_waitTimeout_wantingState : exec (.waitTimeout ⟨0, 0⟩ .scalar 0) wantingState = .next wantingState :=
  exec_waitTimeout_held wantingState_team (by rw [State.mayWake, wantingState_runs]; rfl) rfl wantingState_unmet wantingState_held 0

end ExpiryOfAHeldWait

/-- Refutes O45: the clause on the expiry of BWAIT does not ask that the wait wants no word, and `wantingState` is a state, though none that a run
from reset reaches, in which a BWAIT with a command open and its count run out waits on. -/
theorem not_waitsEnd : ¬ Obligations.WaitsEnd := by
  intro h
  obtain ⟨-, scalar, -⟩ := h wantingState ⟨0, 0⟩ wantingCrew wantingTeam 0 wantingState_team wantingState_runs rfl
  obtain ⟨-, bwait, -⟩ := scalar wantingBwait rfl
  obtain ⟨-, whileOpen⟩ := bwait 1#6 3#6 31#5 rfl
  obtain ⟨-, expires, -⟩ := whileOpen ⟨openCopy, List.mem_singleton_self _, rfl, rfl, by decide⟩
  have ends := exec_waitTimeout_wantingState.symm.trans (expires rfl)
  have same : some (wantingCrew, wantingTeam) = _ :=
    wantingState_team.symm.trans ((congrArg (fun s => s.teamAt ⟨0, 0⟩) (Host.Outcome.next.inj ends)).trans (teamAt_putTeam wantingState_team _))
  exact Option.some_ne_none wantingBwait (congrArg (fun p => p.2.swait) (Option.some.inj same))

end Sys2Proof.Machine

namespace Sys2Proof.Machine

section ScalarRegisterFrame

/-! ### Scalar registers read after write (03 R51) -/

/-- sz discards a write, and reads as zero. -/
theorem Team.sreg_setSreg (t : Team) (d a : SReg) (v : Word) : (t.setSreg d v).sreg a = if a = d ∧ d ≠ 63#6 then v else t.sreg a := by
  by_cases hd : d = 63#6
  · simp [Team.setSreg, hd]
  · by_cases ha : a = 63#6
    · have other : a ≠ d := fun h => hd (h ▸ ha)
      rw [Team.sreg, Team.sreg, if_pos ha, if_pos ha, if_neg fun h => other h.1]
    · rw [Team.sreg, Team.sreg, if_neg ha, if_neg ha, Team.setSreg, if_neg hd, cellGet_cellSet]
      simp only [BitVec.toNat_inj, ne_eq, hd, not_false_eq_true, and_true]

theorem Team.scalarErr_setSreg (t : Team) (d : SReg) (v : Word) :
    (t.setSreg d v).scalarErr = if d = 63#6 then t.scalarErr else t.scalarErr.filter (fun k => k != d.toNat) := by
  unfold Team.setSreg
  split <;> rfl

theorem Team.setSreg_frame (t : Team) (d : SReg) (v : Word) : { t.setSreg d v with sregs := t.sregs, scalarErr := t.scalarErr } = t := by
  unfold Team.setSreg
  split <;> rfl

theorem Team.result_sreg (t : Team) (d a : SReg) (v : Word) (n : Nat) : (t.result d v n).sreg a = if a = d ∧ d ≠ 63#6 then v else t.sreg a :=
  Team.sreg_setSreg t d a v

theorem Team.result_frame (t : Team) (d : SReg) (v : Word) (n : Nat) :
    { t.result d v n with sregs := t.sregs, scalarErr := t.scalarErr, pc := t.pc } = t :=
  (congrArg (fun u : Team => { u with pc := t.pc }) (Team.setSreg_frame t d v) :)

/-! ### A team's place in the package -/

section
variable {s : State} {r : TeamRef} {c : Crew} {t : Team} (h : s.teamAt r = some (c, t))
include h

theorem putTeam_crews_frame (u : Team) : { s.putTeam r u with crews := s.crews } = s := by rw [putTeam_eq h]

theorem teamAt_putTeam_otherCrew (u : Team) {q : TeamRef} (hq : q.crew ≠ r.crew) : (s.putTeam r u).teamAt q = s.teamAt q := by
  rw [putTeam_eq h]
  simp only [State.teamAt, State.crewAt, List.getElem?_set_ne hq.symm]

theorem teamAt_putTeam_otherTeam (u : Team) {q : TeamRef} (hq : q.team ≠ r.team) :
    ((s.putTeam r u).teamAt q).map (·.2) = (s.teamAt q).map (·.2) := by
  by_cases hc : q.crew = r.crew
  · obtain ⟨hcrew, -⟩ := teamAt_eq.1 h
    have lt := (List.getElem?_eq_some_iff.1 hcrew).1
    rw [putTeam_eq h]
    simp only [State.teamAt, State.crewAt, Crew.teamAt, hc, List.getElem?_set_self lt, hcrew, Crew.putTeam, List.getElem?_set_ne hq.symm]
    cases c.teams[q.team]? <;> rfl
  · rw [teamAt_putTeam_otherCrew h u hc]

theorem teamAt_putTeam_other (u : Team) {q : TeamRef} (hq : q ≠ r) : ((s.putTeam r u).teamAt q).map (·.2) = (s.teamAt q).map (·.2) := by
  by_cases hc : q.crew = r.crew
  · exact teamAt_putTeam_otherTeam h u fun ht => hq (by cases q; cases r; cases hc; cases ht; rfl)
  · rw [teamAt_putTeam_otherCrew h u hc]
end

/-! ### Instructions that write one register (08 R161 to R163, R168, R182, R183, R189) -/

/-- Each of them gives its register a value and moves past itself. -/
theorem exec_scalarDest {s : State} {r : TeamRef} {c : Crew} {t : Team} (h : s.acts r c t) {i : Instr} {d : SReg} {n : Nat}
    (hi : scalarDest i = some (d, n)) : ∃ v, exec i s = .next (s.putTeam r (t.result d v n)) := by
  unfold scalarDest at hi
  split at hi <;> cases hi <;> exact ⟨_, withTeam_acts h _⟩

end ScalarRegisterFrame

/-- Settles O8: the frame of an instruction is that of the one register write which `exec_scalarDest` finds in it. -/
theorem scalarRegisterInstructionsFrame : Obligations.ScalarRegisterInstructionsFrame := by
  refine ⟨⟨?write, ?place⟩, ?instr⟩
  case write => exact fun t d a v n => ⟨t.result_sreg d a v n, rfl, t.scalarErr_setSreg d v, t.result_frame d v n⟩
  case place =>
    exact fun s r q c t u h => ⟨teamAt_putTeam h u, putTeam_crews_frame h u, teamAt_putTeam_otherCrew h u, teamAt_putTeam_otherTeam h u⟩
  case instr =>
    intro s s' r c t i d n h hi hexec
    obtain ⟨v, hv⟩ := exec_scalarDest h hi
    cases hexec.symm.trans hv
    have fewer : ∀ k ∈ (t.setSreg d v).scalarErr, k ∈ t.scalarErr := by
      rw [Team.scalarErr_setSreg]
      split
      · exact fun k hk => hk
      · exact fun k hk => (List.mem_filter.1 hk).1
    exact ⟨t.result d v n, teamAt_putTeam h.2 _, fun a ha => (t.result_sreg d a v n).trans (if_neg fun hd => ha hd.1), rfl, t.result_pc d v n,
      fewer, t.result_frame d v n, putTeam_crews_frame h.2 _, fun a => by rw [State.byteAt, State.putTeam_mem]; rfl, fun q hq => teamAt_putTeam_other h.2 _ hq⟩

end Sys2Proof.Machine

namespace Sys2Proof.Machine

section CrewsAcrossMemory

/-! ### Translation and writes of memory leave the crews alone (14 R305 to R308; 12 R276) -/

@[simp] theorem count_crews (s : State) (d code n : Nat) : (s.count d code n).crews = s.crews := by
  obtain ⟨p, h⟩ := count_eq s d code n
  rw [h]

theorem poolHead_crews (die z : Nat) : ∀ (fuel : Nat) (s : State), (s.poolHead die z fuel).1.crews = s.crews
  | 0, _ => rfl
  | fuel + 1, s => by
    unfold State.poolHead
    dsimp only
    split
    · rfl
    · split
      · rfl
      · split
        · exact countRequest_crews ..
        · rw [poolHead_crews die z fuel, poolLow_crews]
          exact countRequest_crews ..

theorem firstTouch_crews (s : State) (r : Range) (die va : Nat) (e : Word) : (s.firstTouch r die va e).1.crews = s.crews := by
  have head := poolHead_crews die r.z 65536 s
  unfold State.firstTouch
  generalize s.poolHead die r.z 65536 = q at head ⊢
  obtain ⟨s1, f⟩ := q
  cases f with
  | none => exact head
  | some f => exact (bindFrame_crews ..).trans ((zeroFrame_crews ..).trans head)

theorem walkEnd_crews (s : State) (p : Nat) : (s.walkEnd p).crews = s.crews := by
  unfold State.walkEnd
  split
  · rfl
  · dsimp only
    split
    · rfl
    · split
      · rfl
      · exact bindFrame_crews ..

theorem walk_crews (s : State) (core : Option Nat) (r : Range) (die va page : Nat) (wr : Bool) : (s.walk core r die va page wr).1.crews = s.crews := by
  have counted : (s.countRequest die (r.entryAddr va) false).crews = s.crews := countRequest_crews ..
  have cached (s1 : State) (e : Word) : (s1.cacheEntry core page r.z e).crews = s1.crews := by cases core <;> rfl
  unfold State.walk
  dsimp only
  split
  · exact counted
  · split
    · exact counted
    · split
      · exact (cached _ _).trans counted
      · split
        · exact counted
        · have touched := (firstTouch_crews (s.countRequest die (r.entryAddr va) false) r die va (s.pte r va)).trans counted
          split
          · exact (cached _ _).trans touched
          · exact touched

@[simp] theorem translate_crews (s : State) (core : Option Nat) (die va : Nat) (wr : Bool) : (s.translate core die va wr).1.crews = s.crews := by
  unfold State.translate
  split
  · rfl
  · split
    · rfl
    · dsimp only
      split
      · split <;> rfl
      · split
        · split <;> rfl
        · refine (walk_crews ..).trans ?_
          split
          · rfl
          · exact walkEnd_crews ..

/-- Equal crews, equal teams. -/
theorem teamAt_congr {s s' : State} (h : s'.crews = s.crews) (r : TeamRef) : s'.teamAt r = s.teamAt r := by
  simp only [State.teamAt, State.crewAt, h]

@[simp] theorem fetchWord_crews (s : State) (core va : Nat) : (s.fetchWord core va).1.crews = s.crews := by
  have same := translate_crews s (some core) (coreDie core) va false
  unfold State.fetchWord
  generalize s.translate (some core) (coreDie core) va false = q at same ⊢
  obtain ⟨s1, x⟩ := q
  cases x with
  | ok pa e => dsimp only; split_ifs <;> exact same
  | fail => exact same
  | empty z => exact same
  | lost => exact same

theorem preserve_crews {s s' : State} {g : Granule} {u : ImageUnit} {st : BitVec 32} (h : s.preserve g u st = .ok s') : s'.crews = s.crews := by
  unfold State.preserve at h
  split at h
  · cases h
  · split at h
    · cases h; rfl
    · split at h <;> cases h
      rfl

@[simp] theorem alsoPreserved_crews (s : State) (g : Granule) (st : BitVec 32) (o n b w : Nat) (f : Nat → Nat) : (s.alsoPreserved g st o n b w f).crews = s.crews := by
  unfold State.alsoPreserved
  split <;> rfl

theorem physWrite_crews {s s' : State} {pa n v : Nat} (h : s.physWrite pa n v = .ok s') : s'.crews = s.crews := by
  unfold State.physWrite at h
  dsimp only at h
  split at h
  · cases h
  · split at h
    · split at h <;> cases h
      rfl
    · cases h
      rfl

theorem pageMerge_crews {s s' : State} {va pa n b k : Nat} {e : Word} {st : BitVec 32} {f : Nat → Nat} (h : s.pageMerge va pa e st n b k f = .ok s') :
    s'.crews = s.crews := by
  unfold State.pageMerge at h
  dsimp only at h
  split at h
  · split at h
    · cases h
    · next s1 hs1 => exact (physWrite_crews h).trans ((alsoPreserved_crews ..).trans (preserve_crews hs1))
  · exact physWrite_crews h

/-- A stamp that is written, or that is given up. -/
theorem stampWrite_crews {s s' : State} {die va v : Nat} (h : s.stampWrite die va v = some s') : s'.crews = s.crews := by
  have same := translate_crews s none die va true
  unfold State.stampWrite at h
  generalize s.translate none die va true = q at same h
  obtain ⟨s1, x⟩ := q
  cases x with
  | ok pa e =>
    dsimp only at h
    split at h
    · cases h; exact same
    · split at h
      · next hw => cases h; exact (pageMerge_crews hw).trans same
      · cases h
      · cases h; exact same
  | fail => cases h; exact same
  | empty z => cases h; exact same
  | lost => cases h; exact same

@[simp] theorem completeLaunch_crews (s : State) (id : BitVec 32) : (s.completeLaunch id).crews = s.crews := by
  unfold State.completeLaunch
  split
  · rfl
  · dsimp only
    split
    · split
      · rfl
      · next s1 hs1 =>
        have same : s1.crews = s.crews := by
          split at hs1
          · cases hs1; rfl
          · exact stampWrite_crews hs1
        split <;> exact same
    · rfl

end CrewsAcrossMemory

section EndsOfTeams

/-! ### What the ends of teams and crews leave of a team (02 R36; 13 R283, R290) -/

/-- Mirrors that go leave every team as it is. -/
theorem dropMirrors_team {s : State} {r : TeamRef} {c : Crew} {t : Team} (h : s.teamAt r = some (c, t)) (core n : Nat) :
    ∃ c', (s.dropMirrors core n).teamAt r = some (c', t) := by
  obtain ⟨hcrew, hteam⟩ := teamAt_eq.1 h
  obtain ⟨-, -, keeps⟩ := dropMirrors_frame core n s
  obtain ⟨m, hm⟩ := keeps r.crew c hcrew
  exact ⟨_, teamAt_eq.2 ⟨hm, hteam⟩⟩

theorem teamAt_modTeam {s : State} {r : TeamRef} {c : Crew} {t : Team} (h : s.teamAt r = some (c, t)) (f : Team → Team) :
    (s.modTeam r f).teamAt r = some (c.putTeam r.team (f t), f t) := by
  rw [State.modTeam, h]
  exact teamAt_putTeam h _

/-- A team whose crew may have changed. -/
theorem exists_teamAt_of_map {s s' : State} {r : TeamRef} {c : Crew} {t : Team} (h : s.teamAt r = some (c, t))
    (he : (s'.teamAt r).map (·.2) = (s.teamAt r).map (·.2)) : ∃ c', s'.teamAt r = some (c', t) := by
  rw [h, Option.map_some, Option.map_eq_some_iff] at he
  obtain ⟨⟨c', u⟩, hu, rfl⟩ := he
  exact ⟨c', hu⟩

theorem teamAt_modTeam_other {s : State} {r q : TeamRef} {c : Crew} {t : Team} (h : s.teamAt r = some (c, t)) (hq : r ≠ q) (f : Team → Team) :
    ∃ c', (s.modTeam q f).teamAt r = some (c', t) := by
  unfold State.modTeam
  split
  · exact ⟨c, h⟩
  · next d u hu => exact exists_teamAt_of_map h (teamAt_putTeam_other hu _ hq)

/-- A team that waits for no registers keeps what it has when the core grants requests. -/
theorem grantRgrow_team {r : TeamRef} {t : Team} (idle : t.growWant = none) (core : Nat) :
    ∀ (n : Nat) {s : State} {c : Crew}, s.teamAt r = some (c, t) → ∃ c', (s.grantRgrow core n).teamAt r = some (c', t)
  | 0, _, c, h => ⟨c, h⟩
  | n + 1, s, c, h => by
    rw [State.grantRgrow]
    split
    · exact ⟨c, h⟩
    · next s1 hs1 =>
      obtain ⟨q, -, hq⟩ := List.exists_of_findSome?_eq_some hs1
      have granted : ∃ c', s1.teamAt r = some (c', t) := by
        split at hq
        · cases hq
        · next d u hu =>
          split at hq
          · cases hq
          · next w hw =>
            split at hq
            · next e a _ hi =>
              have other : r ≠ q := by
                rintro rfl
                cases h.symm.trans hu
                simp [Team.growWant, hw, hi] at idle
              split at hq
              · unfold attemptRgrow at hq
                dsimp only at hq
                split at hq <;> cases hq
                obtain ⟨c', hc'⟩ := teamAt_modTeam_other h other fun t => { ({ t with regs := (u.sreg a).toNat }.status e stOk 4) with swait := none }
                exact dropMirrors_team hc' _ _
              · cases hq
            · cases hq
      obtain ⟨c', hc'⟩ := granted
      exact grantRgrow_team idle core n hc'

theorem finishTeam_team {s : State} {r : TeamRef} {c : Crew} {t : Team} (h : s.teamAt r = some (c, t)) (idle : t.growWant = none) (q : TeamRef) :
    ∃ c' f, (s.finishTeam q).teamAt r = some (c', { t with finished := f }) := by
  unfold State.finishTeam
  split
  · exact ⟨c, t.finished, h⟩
  · next d u hu =>
    split
    · have put : ∃ c' f, (s.putTeam q { u with finished := true }).teamAt r = some (c', { t with finished := f }) := by
        by_cases hq : r = q
        · subst hq
          cases h.symm.trans hu
          exact ⟨_, true, teamAt_putTeam h _⟩
        · obtain ⟨c', hc'⟩ := exists_teamAt_of_map h (teamAt_putTeam_other hu _ hq)
          exact ⟨c', t.finished, hc'⟩
      obtain ⟨c', f, hc'⟩ := put
      have released : State.teamAt { s.putTeam q { u with finished := true } with accHold := s.accHold.filter (fun p => !(p.2 == q)) } r =
          some (c', { t with finished := f }) := hc'
      obtain ⟨c'', hc''⟩ := grantRgrow_team (t := { t with finished := f }) idle d.core 16 released
      exact ⟨c'', f, hc''⟩
    · exact ⟨c, t.finished, h⟩

theorem finishTeams_team {r : TeamRef} {k : Nat} : ∀ (is : List Nat) {s : State} {c : Crew} {t : Team}, s.teamAt r = some (c, t) → t.growWant = none →
    ∃ c' f, (is.foldl (fun s i => s.finishTeam ⟨k, i⟩) s).teamAt r = some (c', { t with finished := f })
  | [], _, c, t, h, _ => ⟨c, t.finished, h⟩
  | i :: is, s, c, t, h, idle => by
    obtain ⟨c', f, h'⟩ := finishTeam_team h idle ⟨k, i⟩
    obtain ⟨c'', f', h''⟩ := finishTeams_team is (t := { t with finished := f }) h' idle
    exact ⟨c'', f', h''⟩

/-- No team of a crew finishes while none has exited. -/
theorem finishTeams_unexited {s : State} {k : Nat} {c : Crew} (hc : s.crewAt k = some c) (unexited : ∀ u, u ∈ c.teams → u.exited = false) :
    ∀ is : List Nat, is.foldl (fun s i => s.finishTeam ⟨k, i⟩) s = s
  | [] => rfl
  | i :: is => by
    have stays : s.finishTeam ⟨k, i⟩ = s := by
      unfold State.finishTeam
      split
      · rfl
      · next d u hu =>
        obtain ⟨hd, hu⟩ := teamAt_eq.1 hu
        cases hc.symm.trans hd
        rw [unexited u (List.mem_of_getElem? hu)]
        rfl
    rw [List.foldl_cons, stays]
    exact finishTeams_unexited hc unexited is

/-- Where a crew ends, its teams stay as they are, but for one that waits for registers. -/
theorem completeCrew_team {s : State} {r : TeamRef} {c : Crew} {t : Team} (h : s.teamAt r = some (c, t)) (idle : t.growWant = none ∨ t.finished = false) :
    ∃ c', (s.completeCrew r.crew).teamAt r = some (c', t) := by
  obtain ⟨hcrew, hteam⟩ := teamAt_eq.1 h
  have put (d : Crew) (hd : d.teams = c.teams) : (s.putCrew r.crew d).teamAt r = some (d, t) :=
    teamAt_eq.2 ⟨crewAt_putCrew hcrew d, hd ▸ hteam⟩
  unfold State.completeCrew
  simp only [crewAt_of h]
  split
  · next ended =>
    simp only [Bool.and_eq_true, List.all_eq_true] at ended
    obtain ⟨⟨-, all⟩, -⟩ := ended
    obtain ⟨⟨finished, -⟩, -⟩ := all t (List.mem_of_getElem? hteam)
    have waits : t.growWant = none := idle.resolve_right (by rw [finished]; decide)
    obtain ⟨c', hc'⟩ := grantRgrow_team waits c.core 16
      (put { c with state := .completed, place := none, tiles := [], globals := [], windows := List.replicate 16 windowReset } rfl)
    exact ⟨c', (teamAt_congr (completeLaunch_crews ..) r).trans hc'⟩
  · split
    · exact ⟨_, (teamAt_congr (completeLaunch_crews ..) r).trans
        (put { c with tiles := [], globals := [], windows := List.replicate 16 windowReset } rfl)⟩
    · exact ⟨c, h⟩

/-- The ends that follow a step of its crew may finish a team, and leave the rest of it alone: it waits for no registers that another's end
could free, or no team of the crew is about to end. -/
theorem settle_team {s : State} {r : TeamRef} {c : Crew} {t : Team} (h : s.teamAt r = some (c, t))
    (idle : t.growWant = none ∨ ∀ u, u ∈ c.teams → u.exited = false ∧ u.finished = false) :
    ∃ c' f, (s.settle r.crew).teamAt r = some (c', { t with finished := f }) := by
  unfold State.settle
  simp only [crewAt_of h]
  rcases idle with waits | running
  · obtain ⟨c1, f, h1⟩ := finishTeams_team (k := r.crew) (List.range c.teams.length) h waits
    obtain ⟨c2, h2⟩ := completeCrew_team (t := { t with finished := f }) h1 (.inl waits)
    exact ⟨c2, f, h2⟩
  · rw [finishTeams_unexited (crewAt_of h) fun u hu => (running u hu).1]
    obtain ⟨c2, h2⟩ := completeCrew_team h (.inr (running t (List.mem_of_getElem? (teamAt_eq.1 h).2)).2)
    exact ⟨c2, t.finished, h2⟩

end EndsOfTeams
end Sys2Proof.Machine

namespace Sys2Proof.Machine

section LivesOfClauses

/-! ### LQ (03 R53; 08 R169) -/

section
variable {s : State} {r : TeamRef} {c : Crew} {t : Team} (h : s.acts r c t)
include h

/-- A hold: nothing changes. -/
theorem exec_lq_full (off : BitVec 20) (full : 16 ≤ t.queue.length) : exec (.lq off) s = .next s :=
  (withTeam_acts h _).trans (by rw [if_pos full])

theorem exec_lq_append (off : BitVec 20) {l : Launch} {s1 : State} {w0 w1 w2 : W32} {hd : ClauseHeader} (room : t.queue.length < 16)
    (hl : s.launchOf c = some l) (hf : s.fetchWords c.core (lqAddr (some l) off) 3 = (s1, .ok [w0, w1, w2])) (hh : decodeHeader w0 w1 w2 = .ok hd) :
    exec (.lq off) s = .next (s1.putTeam r ((t.append (t.newClause (lqAddr (some l) off) hd)).advance 4)) := by
  refine (withTeam_acts h _).trans ?_
  rw [if_neg (Nat.not_le.2 room), hl]
  simp only [hf, List.getD_cons_zero, List.getD_cons_succ, hh]
end

/-- A clause holds the flags that its header sets (03 R58). -/
theorem getLsbD_headerHolds (a b : BitVec 4) {k : Nat} (hk : k < 12) : (headerHolds a b).getLsbD k = true ↔ k = a.toNat ∨ k = b.toNat := by
  rw [headerHolds, BitVec.getLsbD_or, BitVec.getLsbD_ofNat, BitVec.getLsbD_ofNat, Nat.testBit_two_pow, Nat.testBit_two_pow]
  simp only [hk, decide_true, Bool.true_and, Bool.or_eq_true, decide_eq_true_eq, @eq_comm _ k]

/-! ### Start and retirement (03 R54, R58) -/

theorem Team.waitBlocked_eq_true {t : Team} {uid : Nat} {w : BitVec 12} :
    t.waitBlocked uid w = true ↔ ∃ x, x ∈ t.retired ++ t.queue ∧ x.uid < uid ∧ x.holds &&& w ≠ 0#12 := by
  simp only [Team.waitBlocked, Team.holders, List.any_eq_true, Bool.and_eq_true, decide_eq_true_eq, Bool.not_eq_true', beq_eq_false_iff_ne]

theorem Team.waitBlocked_eq_false {t : Team} {uid : Nat} {w : BitVec 12} :
    t.waitBlocked uid w = false ↔ ∀ x, x ∈ t.retired ++ t.queue → x.uid < uid → x.holds &&& w = 0#12 := by
  rw [← Bool.not_eq_true, Team.waitBlocked_eq_true]
  simp only [not_exists, not_and, ne_eq, not_not]

section
variable {s : State} {r : TeamRef} {c : Crew} {t : Team} (h : s.teamAt r = some (c, t)) {cl : Clause} {rest : List Clause}
  (hq : t.queue = cl :: rest)
include h hq

theorem exec_clauseStart_starts (runs : s.crewRuns c = true) (hf : t.faulted = false) (new : cl.started = false) (free : t.waitBlocked cl.uid cl.wait = false) :
    exec (.clauseStart r) s = .next (s.putTeam r { t with queue := { cl with started := true } :: rest, lidx := 0, obuf := none, taken := [] }) := by
  show execClauseStart r s = _
  simp only [execClauseStart, h, hq, runs, hf, new, free, Bool.not_false, Bool.and_self, if_true]

theorem exec_clauseStart_blocked (blocked : t.waitBlocked cl.uid cl.wait = true) : exec (.clauseStart r) s = .next s := by
  show execClauseStart r s = _
  simp only [execClauseStart, h, hq, blocked, Bool.not_true, Bool.and_false, Bool.false_eq_true, if_false]

theorem exec_clauseRetire_retires (stops : s.crewStops c = true) (hf : t.faulted = false) (started : cl.started = true) (done : cl.count ≤ t.lidx)
    (idle : t.lwaits = []) :
    exec (.clauseRetire r) s = .next (s.putTeam r { t with queue := rest, retired := t.retired ++ [cl], lidx := 0, obuf := none, taken := [] }) := by
  show execClauseRetire r s = _
  simp only [execClauseRetire, h, hq, stops, hf, started, done, idle, List.isEmpty_nil, decide_true, Bool.not_false, Bool.and_self, if_true]
end

/-! ### Completion (03 R57, R58, R67) -/

/-- Landing changes mask registers and the writes under way alone. -/
theorem Team.landThrough_frame (p : Vote → Bool) : ∀ (vs : List Vote) (t : Team), ∃ m v, t.landThrough p vs = { t with masks := m, votes := v }
  | [], t => ⟨t.masks, [], rfl⟩
  | v :: vs, t => by
    rw [Team.landThrough]
    split
    · exact landThrough_frame p vs (t.setMask v.reg v.mask)
    · exact ⟨t.masks, v :: vs, rfl⟩

/-- The writes through the last that `p` names land in order; those behind it stay under way. -/
theorem Team.landThrough_append (p : Vote → Bool) {post : List Vote} (after : ∀ v, v ∈ post → p v = false) :
    ∀ (pre : List Vote) (t : Team), (∀ v, pre.getLast? = some v → p v = true) →
      t.landThrough p (pre ++ post) = { pre.foldl (fun u v => u.setMask v.reg v.mask) t with votes := post }
  | [], t, _ => by
    cases post with
    | nil => rfl
    | cons v vs =>
      have none_named : (v :: vs).any p = false := List.any_eq_false.2 fun x hx => by rw [after x hx]; decide
      rw [List.nil_append, Team.landThrough, none_named]
      rfl
  | v :: pre, t, last => by
    have named : (v :: (pre ++ post)).any p = true := by
      have hx := List.getLast?_eq_some_getLast (List.cons_ne_nil v pre)
      exact List.any_eq_true.2 ⟨_, List.mem_append_left post (List.getLast_mem (List.cons_ne_nil v pre)), last _ hx⟩
    rw [List.cons_append, Team.landThrough, if_pos named]
    refine landThrough_append p after pre _ fun x hx => last x ?_
    rw [List.getLast?_cons, hx]
    rfl

/-- Nothing of a clause is outstanding any more. -/
theorem clauseBusy_eq_false {s : State} {r : TeamRef} {t : Team} {uid : Nat} (hp : t.clausePending uid = false) (hs : ∀ w, w ∈ t.slots → w.clause ≠ uid)
    (hw : ∀ i, i ∈ s.wlItems → i.team = r → i.clause ≠ uid) (hm : ∀ m, m ∈ s.matrix → m.team = r → m.clause ≠ uid) : s.clauseBusy r t uid = false := by
  simp only [State.clauseBusy, hp, Bool.false_or, Bool.or_eq_false_iff, List.any_eq_false, Bool.and_eq_true, beq_iff_eq, not_and]
  exact ⟨⟨hs, hw⟩, hm⟩

/-- The team with its clause complete. -/
def Team.afterClause (t : Team) (uid : Nat) : Team := { t.landClause uid with retired := t.retired.filter (fun c => !(c.uid == uid)) }

theorem Team.afterClause_frame (t : Team) (uid : Nat) :
    ∃ m v, t.afterClause uid = { t with masks := m, votes := v, retired := t.retired.filter (fun c => !(c.uid == uid)) } := by
  obtain ⟨m, v, he⟩ := Team.landThrough_frame (fun x => x.uid == uid) t.votes t
  exact ⟨m, v, by rw [Team.afterClause, Team.landClause, he]⟩

section
variable {s : State} {r : TeamRef} {c : Crew} {t : Team} (h : s.teamAt r = some (c, t)) {uid : Nat}
include h

theorem exec_clauseComplete_busy (busy : s.clauseBusy r t uid = true) : exec (.clauseComplete r uid) s = .next s := by
  show execClauseComplete r uid s = _
  simp only [execClauseComplete, h, busy, Bool.not_true, Bool.and_false, Bool.false_eq_true, if_false]

theorem exec_clauseComplete_free {cl : Clause} (hr : cl ∈ t.retired) (hu : cl.uid = uid) (free : s.clauseBusy r t uid = false) :
    exec (.clauseComplete r uid) s = .next ((s.putTeam r (t.afterClause uid)).settle r.crew) := by
  have retired : t.retired.any (fun c => c.uid == uid) = true := List.any_eq_true.2 ⟨cl, hr, beq_iff_eq.2 hu⟩
  show execClauseComplete r uid s = _
  simp only [execClauseComplete, h, retired, free, Bool.not_false, Bool.and_self, if_true]
  rfl

/-- The team after its clause is complete: it may have finished, and the rest is `afterClause`. -/
theorem settle_afterClause (idle : t.growWant = none ∨ ∀ u, u ∈ c.teams → u.exited = false ∧ u.finished = false) (uid : Nat) :
    ∃ c' f, ((s.putTeam r (t.afterClause uid)).settle r.crew).teamAt r = some (c', { t.afterClause uid with finished := f }) := by
  obtain ⟨m, v, he⟩ := t.afterClause_frame uid
  refine settle_team (teamAt_putTeam h _) (idle.imp (fun waits => ?_) fun running u hu => ?_)
  · rw [he]; exact waits
  · rcases List.mem_or_eq_of_mem_set hu with hmem | rfl
    · exact running u hmem
    · rw [he]; exact running t (List.mem_of_getElem? (teamAt_eq.1 h).2)
end

end LivesOfClauses

/-- Settles O13: how a clause is appended, starts, retires and completes, one `exec_` lemma each. -/
theorem clauseLife : Obligations.ClauseLife := by
  refine ⟨?append, ?life⟩
  case append =>
    intro s r c t h off
    refine ⟨exec_lq_full h off, fun l s1 w0 w1 w2 hd room hl hf hh => ?_⟩
    exact ⟨t.append (t.newClause (lqAddr (some l) off) hd), _, exec_lq_append h off room hl hf hh, rfl, rfl, rfl, rfl, rfl, rfl, rfl, rfl, rfl, rfl,
      fun k hk => getLsbD_headerHolds hd.setA hd.setB hk⟩
  case life =>
    intro s r c t h hf cl rest
    refine ⟨fun hq runs new free => exec_clauseStart_starts h hq runs hf new (Team.waitBlocked_eq_false.2 free),
      fun hq blocked => exec_clauseStart_blocked h hq (Team.waitBlocked_eq_true.2 blocked),
      fun hq stops started done idle => exec_clauseRetire_retires h hq stops hf started done idle,
      fun hr hp hs idle hw hm => ?complete, fun hp => exec_clauseComplete_busy h (by simp [State.clauseBusy, hp])⟩
    case complete =>
      obtain ⟨c', f, hteam⟩ := settle_afterClause h idle cl.uid
      refine ⟨_, c', _, exec_clauseComplete_free h hr rfl (clauseBusy_eq_false hp hs hw hm), hteam, fun x => ?_, ?_, fun pre post hv after last => ?_⟩
      · simp [Team.afterClause]
      · obtain ⟨m, v, he⟩ := t.afterClause_frame cl.uid
        rw [he]
      · have landed : t.landClause cl.uid = { pre.foldl (fun u v => u.setMask v.reg v.mask) t with votes := post } := by
          rw [Team.landClause, hv]
          exact Team.landThrough_append _ (fun v hm => beq_eq_false_iff_ne.2 (after v hm)) pre t fun v hm => beq_iff_eq.2 (last v hm)
        rw [Team.afterClause, landed]
        exact ⟨rfl, rfl⟩

end Sys2Proof.Machine

namespace Sys2Proof.Machine

section StepsOfStreams

/-! ### Fetching whole instructions (07 R134, R135, R148) -/

theorem fetchWords_cons {s s1 s2 : State} {core va n : Nat} {w : W32} {ws : List W32} (hw : s.fetchWord core va = (s1, .ok w))
    (hs : s1.fetchWords core (va + 4) n = (s2, .ok ws)) : s.fetchWords core va (n + 1) = (s2, .ok (w :: ws)) := by
  simp only [State.fetchWords, hw, hs]

theorem fetchWords_one {s s1 : State} {core va : Nat} {w : W32} (hw : s.fetchWord core va = (s1, .ok w)) : s.fetchWords core va 1 = (s1, .ok [w]) :=
  fetchWords_cons hw rfl

theorem fetchScalar_short {s s1 : State} {core : Nat} {pc : BitVec 64} {w : W32} {i : Instr} (hw : s.fetchWord core pc.toNat = (s1, .ok w))
    (he : hasExt w = false) (hd : decodeScalar w 0#32 = .ok i) : s.fetchScalar core pc = (s1, .ok (some i)) := by
  simp only [State.fetchScalar, fetchWords_one hw, List.getD_cons_zero, he, Bool.false_eq_true, if_false, hd, Except.toOption]

theorem fetchScalar_long {s s1 s2 : State} {core : Nat} {pc : BitVec 64} {w x : W32} {i : Instr} (hw : s.fetchWord core pc.toNat = (s2, .ok w))
    (he : hasExt w = true) (hx : s2.fetchWord core (pc.toNat + 4) = (s1, .ok x)) (hd : decodeScalar w x = .ok i) :
    s.fetchScalar core pc = (s1, .ok (some i)) := by
  simp only [State.fetchScalar, fetchWords_one hw, List.getD_cons_zero, he, if_true, fetchWords_one hx, hd, Except.toOption]

theorem fetchLane_ok {s s1 s2 s3 : State} {core addr k : Nat} {w0 w1 w2 : W32} {i : Instr} (h0 : s.fetchWord core (addr + 12 + 12 * k) = (s2, .ok w0))
    (h1 : s2.fetchWord core (addr + 12 + 12 * k + 4) = (s3, .ok w1)) (h2 : s3.fetchWord core (addr + 12 + 12 * k + 4 + 4) = (s1, .ok w2))
    (hd : decodeLane w0 w1 w2 = .ok i) : s.fetchLane core addr k = (s1, .ok (some i)) := by
  simp only [State.fetchLane, fetchWords_cons h0 (fetchWords_cons h1 (fetchWords_one h2)), List.getD_cons_zero, List.getD_cons_succ, hd, Except.toOption]

/-- Only FRMAX begins the idiom that runs as one instruction (09 R213). -/
theorem fused_of_ne {s : State} {core k : Nat} {cl : Clause} {i : Instr} (hi : ∀ h m, i ≠ .frmax h m) : s.fused core cl k i = i := by
  unfold State.fused
  split
  · next h m => exact absurd rfl (hi h m)
  · rfl

section
variable {s s1 : State} {r : TeamRef} {c : Crew} {t : Team} {i : Instr} (h : s.teamAt r = some (c, t))
include h

theorem fetchNext_scalar (run : s.canRun r .scalar = true) (hf : s.fetchScalar c.core t.pc = (s1, .ok (some i))) : s.fetchNext r .scalar = some (s1, i) := by
  simp only [State.fetchNext, h, run, Bool.not_true, Bool.false_eq_true, if_false, State.nextScalar, hf]

theorem fetchNext_lane {cl : Clause} (run : s.canRun r .lane = true) (hq : t.queue.head? = some cl)
    (hf : s.fetchLane c.core cl.addr t.lidx = (s1, .ok (some i))) (hi : ∀ h m, i ≠ .frmax h m) : s.fetchNext r .lane = some (s1, i) := by
  obtain ⟨rest, hrest⟩ := List.head?_eq_some_iff.1 hq
  simp only [State.fetchNext, h, hrest, run, Bool.not_true, Bool.false_eq_true, if_false, State.nextLane, hf, fused_of_ne hi]
end

/-! ### The instruction is executed (17 R340, R344; 13 R288, R289) -/

theorem execRead_clean {s : State} {r : TeamRef} {c : Crew} {t : Team} {st : Stream} {i : Instr} (h : s.teamAt r = some (c, t)) (table : c.tableErr = [])
    (regs : st = .scalar → ∀ a ∈ scalarSources i, a.toNat ∉ t.scalarErr) : s.execRead r st i = exec i s := by
  have table_good : c.usesError t i = false := by simp [Crew.usesError, table]
  have regs_good : (st == .scalar && t.readsError i) = false := by
    cases st with
    | lane => rfl
    | scalar => simpa [Team.readsError] using fun _ => regs rfl
  simp only [State.execRead, h, table_good, regs_good, Bool.or_self, Bool.false_eq_true, if_false]

/-- A class of issue slots with one left lets no cycle pass. -/
theorem nextSlot_free {s : State} {core : Nat} {st : Stream} (free : s.usedSlots core st < slotWidth st) : s.nextSlot core st = s := by
  simp only [State.nextSlot, Nat.div_eq_of_lt free, if_true]

/-- The slot goes to the team, whose dies all answer, and its stream executes the instruction that it has fetched. -/
theorem stepSlot_executes {s s1 : State} {r : TeamRef} {c : Crew} {t : Team} {st : Stream} {i : Instr} (h : s.teamAt r = some (c, t))
    (heard : s.silentTo (coreDie c.core) = []) (free : s.usedSlots c.core st < slotWidth st) (chosen : s.slotChoice r st = true)
    (hf : State.fetchNext { s with focus := some r } r st = some (s1, i)) :
    s.stepSlot r st = afterSlot s r st c.core t (afterExec s1 r st (s1.execRead r st i)) := by
  simp only [State.stepSlot, h, nextSlot_free free, chosen, Bool.not_true, Bool.false_eq_true, if_false, State.stepHeard, heard, List.isEmpty_nil, if_true,
    State.stepTeam, hf]

theorem step_run {s : State} {r : TeamRef} {st : Stream} {rest : List Move} (hm : s.moves = .run r st :: rest) :
    step s = State.stepSlot { s with moves := rest } r st := by
  simp only [step, State.stepNext, hm, State.stepMove]

end StepsOfStreams

/-- Settles O6: the fetches leave the crews alone, so the team that executes is the one that was chosen. -/
theorem stepRunsTheDecodedInstruction : Obligations.StepRunsTheDecodedInstruction := by
  intro s s1 rest r c t i s0 ready runs
  have executes (st : Stream) (hr : ready st) (regs : st = .scalar → ∀ a ∈ scalarSources i, a.toNat ∉ t.scalarErr) (same : s1.crews = s0.crews)
      (hf : s0.fetchNext r st = some (s1, i)) : runs st := by
    obtain ⟨hm, h, heard, table, free, chosen, -⟩ := hr
    have there : s1.teamAt r = some (c, t) := (teamAt_congr same r).trans h
    exact (step_run hm).trans ((stepSlot_executes (s := { s with moves := rest }) h heard free chosen hf).trans (by rw [execRead_clean there table regs]))
  have crews {u v : State} {va : Nat} {w : W32} (hw : u.fetchWord c.core va = (v, .ok w)) : v.crews = u.crews :=
    (congrArg (fun p => p.1.crews) hw).symm.trans (fetchWord_crews u c.core va)
  refine ⟨fun w hr regs hw he hd => ?short, fun s2 w x hr regs hw he hx hd => ?long, fun s2 s3 cl w0 w1 w2 hr hq h0 h1 h2 hd hi => ?lane⟩
  case short =>
    obtain ⟨-, h, -, -, -, -, run⟩ := id hr
    exact executes .scalar hr (fun _ => regs) (crews hw) (fetchNext_scalar h run (fetchScalar_short hw he hd))
  case long =>
    obtain ⟨-, h, -, -, -, -, run⟩ := id hr
    exact executes .scalar hr (fun _ => regs) ((crews hx).trans (crews hw)) (fetchNext_scalar h run (fetchScalar_long hw he hx hd))
  case lane =>
    obtain ⟨-, h, -, -, -, -, run⟩ := id hr
    exact executes .lane hr (fun hs => absurd hs (by decide)) ((crews h2).trans ((crews h1).trans (crews h0)))
      (fetchNext_lane h run hq (fetchLane_ok h0 h1 h2 hd) hi)

end Sys2Proof.Machine

namespace Sys2Proof.Machine

section PackedFields

/-! ### Fields packed side by side (03 R52) -/

/-- Fields of `w` bits side by side, the first in the low bits. -/
def packFields (w : Nat) (f : Nat → Nat) (n : Nat) : Nat := (List.range n).foldl (fun a j => a + f j * 2 ^ (w * j)) 0

theorem packFields_succ (w : Nat) (f : Nat → Nat) (n : Nat) : packFields w f (n + 1) = packFields w f n + f n * 2 ^ (w * n) := by
  rw [packFields, List.range_succ, List.foldl_append]
  rfl

theorem packFields_lt {w : Nat} {f : Nat → Nat} : ∀ {n : Nat}, (∀ j, j < n → f j < 2 ^ w) → packFields w f n < 2 ^ (w * n)
  | 0, _ => Nat.two_pow_pos _
  | n + 1, hf => by
    have low := packFields_lt fun j hj => hf j (Nat.lt_succ_of_lt hj)
    calc packFields w f (n + 1) = packFields w f n + f n * 2 ^ (w * n) := packFields_succ w f n
      _ < 2 ^ (w * n) + f n * 2 ^ (w * n) := Nat.add_lt_add_right low _
      _ = (f n + 1) * 2 ^ (w * n) := by ring
      _ ≤ 2 ^ w * 2 ^ (w * n) := Nat.mul_le_mul_right _ (hf n n.lt_succ_self)
      _ = 2 ^ (w * (n + 1)) := by rw [← Nat.pow_add, Nat.mul_succ, Nat.add_comm]

/-- Each field is read back. -/
theorem packFields_field {w : Nat} {f : Nat → Nat} {i : Nat} : ∀ {n : Nat}, (∀ j, j < n → f j < 2 ^ w) → i < n → packFields w f n / 2 ^ (w * i) % 2 ^ w = f i
  | n + 1, hf, hi => by
    have below : ∀ j, j < n → f j < 2 ^ w := fun j hj => hf j (Nat.lt_succ_of_lt hj)
    rw [packFields_succ]
    rcases Nat.lt_succ_iff_lt_or_eq.1 hi with lt | rfl
    · obtain ⟨d, rfl⟩ := Nat.exists_eq_add_of_lt lt
      have split : 2 ^ (w * (i + d + 1)) = 2 ^ (w * i) * (2 ^ w * 2 ^ (w * d)) := by rw [← Nat.pow_add, ← Nat.pow_add]; congr 1; ring
      rw [split, Nat.mul_left_comm, Nat.add_mul_div_left _ _ (Nat.two_pow_pos _), Nat.mul_left_comm, Nat.add_mul_mod_self_left]
      exact packFields_field below lt
    · rw [Nat.add_mul_div_right _ _ (Nat.two_pow_pos _), Nat.div_eq_of_lt (packFields_lt below), Nat.zero_add, Nat.mod_eq_of_lt (hf i i.lt_succ_self)]

/-- An element of a register whose elements are packed. -/
theorem getElem_packFields {w n i : Nat} {f : Nat → Nat} (fits : w * n ≤ 64) (hf : ∀ j, j < n → f j < 2 ^ w) (hi : i < n) :
    getElem w i (BitVec.ofNat 64 (packFields w f n)) = f i := by
  have small : packFields w f n < 2 ^ 64 := lt_of_lt_of_le (packFields_lt hf) (Nat.pow_le_pow_right (by decide) fits)
  rw [getElem, BitVec.toNat_ofNat, Nat.mod_eq_of_lt small, packFields_field hf hi]

/-- A word of a vector whose 64-bit words are packed. -/
theorem extractLsb'_packFields {f : Nat → Word} {n i : Nat} (hi : i < n) :
    (BitVec.ofNat (64 * n) (packFields 64 (fun j => (f j).toNat) n)).extractLsb' (64 * i) 64 = f i := by
  have words : ∀ j, j < n → (f j).toNat < 2 ^ 64 := fun j _ => (f j).isLt
  apply BitVec.eq_of_toNat_eq
  rw [BitVec.extractLsb'_toNat, BitVec.toNat_ofNat, Nat.mod_eq_of_lt (packFields_lt words), Nat.shiftRight_eq_div_pow, packFields_field words hi]

end PackedFields

section StreamElements

/-! ### The elements of STRM (03 R60, R63; 08 R170) -/

/-- c0 is nonzero, and no nonzero count follows a zero count. -/
theorem countsOk_four {c0 c1 c2 c3 : Nat} (h0 : 0 < c0) (h1 : c1 = 0 → c2 = 0) (h2 : c2 = 0 → c3 = 0) : countsOk [c0, c1, c2, c3] = true := by
  rcases Nat.eq_zero_or_pos c1 with rfl | p1
  · simp [countsOk, leadCounts, h0.ne', h1, h2]
  · rcases Nat.eq_zero_or_pos c2 with rfl | p2
    · simp [countsOk, leadCounts, h0.ne', p1.ne', h2]
    · by_cases p3 : c3 = 0 <;> simp [countsOk, leadCounts, h0.ne', p1.ne', p2.ne', p3]

theorem countsOk_zero (l : List Nat) : countsOk (0 :: l) = false := rfl

/-- One digit of an element's number is taken off. -/
theorem strmField_digit {w i d n j : Nat} (hd : d < n) (x : Word) (ct : List (Nat × Word)) (b : Nat) :
    ((n, x) :: ct).foldl (fun (p : Nat × Nat) y => (p.1 + (p.2 % y.1) * getElem w i y.2, p.2 / y.1)) (b, d + n * j) =
      ct.foldl (fun (p : Nat × Nat) y => (p.1 + (p.2 % y.1) * getElem w i y.2, p.2 / y.1)) (b + d * getElem w i x, j) := by
  rw [List.foldl_cons, Nat.add_mul_mod_self_left, Nat.mod_eq_of_lt hd, Nat.add_mul_div_left _ _ (by omega), Nat.div_eq_of_lt hd, Nat.zero_add]

/-- The field of an element: the base plus each digit's multiple of its step. -/
theorem strmField_digits (w i : Nat) (b x0 x1 x2 x3 : Word) {c0 c1 c2 c3 d0 d1 d2 d3 : Nat} (h1 : c1 = 0 → c2 = 0) (h2 : c2 = 0 → c3 = 0)
    (l0 : d0 < c0) (l1 : d1 < max 1 c1) (l2 : d2 < max 1 c2) (l3 : d3 < max 1 c3) :
    strmField w i (d0 + c0 * (d1 + c1 * (d2 + c2 * d3))) b ((leadCounts [c0, c1, c2, c3]).zip [x0, x1, x2, x3]) =
      (getElem w i b + d0 * getElem w i x0 + d1 * getElem w i x1 + d2 * getElem w i x2 + d3 * getElem w i x3) % 2 ^ w := by
  have n0 : c0 ≠ 0 := by omega
  rw [strmField]
  congr 1
  rcases Nat.eq_zero_or_pos c1 with rfl | p1
  · obtain ⟨rfl, rfl, rfl⟩ : d1 = 0 ∧ d2 = 0 ∧ d3 = 0 := by have := h1 rfl; have := h2 this; omega
    simp only [leadCounts, if_neg n0, if_true, List.zip_cons_cons, List.zip_nil_left, strmField_digit l0, List.foldl_nil, Nat.zero_mul, Nat.add_zero]
  · rcases Nat.eq_zero_or_pos c2 with rfl | p2
    · obtain ⟨rfl, rfl⟩ : d2 = 0 ∧ d3 = 0 := by have := h2 rfl; omega
      simp only [leadCounts, if_neg n0, if_neg p1.ne', if_true, List.zip_cons_cons, List.zip_nil_left, strmField_digit l0,
        strmField_digit (show d1 < c1 by omega), List.foldl_nil, Nat.zero_mul, Nat.add_zero]
    · rcases Nat.eq_zero_or_pos c3 with rfl | p3
      · obtain rfl : d3 = 0 := by omega
        simp only [leadCounts, if_neg n0, if_neg p1.ne', if_neg p2.ne', if_true, List.zip_cons_cons, List.zip_nil_left, strmField_digit l0,
          strmField_digit (show d1 < c1 by omega), strmField_digit (show d2 < c2 by omega), List.foldl_nil, Nat.zero_mul, Nat.add_zero]
      · have top : d3 = d3 + c3 * 0 := rfl
        rw [top]
        simp only [leadCounts, if_neg n0, if_neg p1.ne', if_neg p2.ne', if_neg p3.ne', List.zip_cons_cons, List.zip_nil_left, strmField_digit l0,
          strmField_digit (show d1 < c1 by omega), strmField_digit (show d2 < c2 by omega), strmField_digit (show d3 < c3 by omega), List.foldl_nil]
        rfl

theorem getElem_64 (x : Word) : getElem 64 0 x = x.toNat := by
  rw [getElem, Nat.mul_zero, Nat.pow_zero, Nat.div_one, Nat.mod_eq_of_lt x.isLt]

section
variable (k : StreamCmd) {d0 d1 d2 d3 : Nat} (h1 : getElem 16 1 k.r1 = 0 → getElem 16 2 k.r1 = 0) (h2 : getElem 16 2 k.r1 = 0 → getElem 16 3 k.r1 = 0)
  (l0 : d0 < getElem 16 0 k.r1) (l1 : d1 < max 1 (getElem 16 1 k.r1)) (l2 : d2 < max 1 (getElem 16 2 k.r1)) (l3 : d3 < max 1 (getElem 16 3 k.r1))
include h1 h2 l0 l1 l2 l3

theorem StreamCmd.elem_d (hk : k.kind = 0) :
    k.elem (d0 + getElem 16 0 k.r1 * (d1 + getElem 16 1 k.r1 * (d2 + getElem 16 2 k.r1 * d3))) =
      k.r0 + BitVec.ofNat 64 d0 * k.r2 + BitVec.ofNat 64 d1 * k.r3 + BitVec.ofNat 64 d2 * k.t2 + BitVec.ofNat 64 d3 * k.t3 := by
  have digits := strmField_digits 64 0 k.r0 k.r2 k.r3 k.t2 k.t3 h1 h2 l0 l1 l2 l3
  simp only [getElem_64] at digits
  rw [StreamCmd.elem, if_pos hk]
  have mod (n : Nat) : BitVec.ofNat 64 (n % 2 ^ 64) = BitVec.ofNat 64 n := BitVec.eq_of_toNat_eq (by simp only [BitVec.toNat_ofNat, Nat.mod_mod])
  refine (congrArg (BitVec.ofNat 64) digits).trans ?_
  simp only [mod, BitVec.ofNat_add, BitVec.ofNat_mul, BitVec.ofNat_toNat, BitVec.setWidth_eq]

theorem StreamCmd.elem_c4 (hk : k.kind ≠ 0) {i : Nat} (hi : i < 4) :
    getElem 16 i (k.elem (d0 + getElem 16 0 k.r1 * (d1 + getElem 16 1 k.r1 * (d2 + getElem 16 2 k.r1 * d3)))) =
      (getElem 16 i k.r0 + d0 * getElem 16 i k.r2 + d1 * getElem 16 i k.r3 + d2 * getElem 16 i k.t2 + d3 * getElem 16 i k.t3) % 2 ^ 16 := by
  rw [StreamCmd.elem, if_neg hk]
  exact (getElem_packFields (f := fun i => strmField 16 i _ k.r0 _) (by decide) (fun j _ => Nat.mod_lt _ (Nat.two_pow_pos _)) hi).trans
    (strmField_digits 16 i k.r0 k.r2 k.r3 k.t2 k.t3 h1 h2 l0 l1 l2 l3)
end

end StreamElements
end Sys2Proof.Machine

namespace Sys2Proof.Machine

section StreamsAtIssue

/-! ### STRM, QLD and QCLOSE at issue (03 R62, R64; 08 R170 to R172) -/

theorem ofNat_getElem_zero (w : Nat) (x : Word) : BitVec.ofNat w (getElem w 0 x) = x.setWidth w := by
  apply BitVec.eq_of_toNat_eq
  rw [BitVec.toNat_ofNat, BitVec.toNat_setWidth, getElem, Nat.mul_zero, Nat.pow_zero, Nat.div_one, Nat.mod_mod]

/-- The command that STRM makes of the registers: t2 and t3 count where there is a third digit. -/
def Team.strmCmd (t : Team) (kind : Nat) (q : BitVec 3) (a b : SReg) : StreamCmd :=
  t.streamCmd kind q.toNat a (if getElem 16 2 (t.sregK a 1) != 0 then t.sregK b 0 else 0#64) (if getElem 16 2 (t.sregK a 1) != 0 then t.sregK b 1 else 0#64) 0

section
variable {s : State} {r : TeamRef} {c : Crew} {t : Team} (h : s.acts r c t) (kind : Nat) (q : BitVec 3) (a b : SReg)
include h

theorem strm_issues (room : t.scq.length < 8) (h0 : 0 < getElem 16 0 (t.sregK a 1)) (h1 : getElem 16 1 (t.sregK a 1) = 0 → getElem 16 2 (t.sregK a 1) = 0)
    (h2 : getElem 16 2 (t.sregK a 1) = 0 → getElem 16 3 (t.sregK a 1) = 0) (hb : getElem 16 2 (t.sregK a 1) = 0 → b = 0#6) :
    strm kind q a b s = .next (s.putTeam r ((t.enqueue (t.strmCmd kind q a b)).advance 4)) := by
  have counts : countsOk (t.strmCmd kind q a b).counts = true := countsOk_four h0 h1 h2
  have second : (getElem 16 2 (t.strmCmd kind q a b).r1 != 0 || b == 0#6) = true := by
    show (getElem 16 2 (t.sregK a 1) != 0 || b == 0#6) = true
    by_cases h3 : getElem 16 2 (t.sregK a 1) = 0
    · rw [hb h3]; simp
    · simp [h3]
  have ok : (t.strmCmd kind q a b).strmOk b = true := by rw [StreamCmd.strmOk, counts, second]; rfl
  refine (withTeam_acts h _).trans (congrArg Host.Outcome.next ?_)
  show (if !(t.strmCmd kind q a b).strmOk b then _ else _) = _
  rw [ok, Bool.not_true, if_neg Bool.false_ne_true, if_neg (Nat.not_le.2 room)]
  rfl

theorem strm_empty (h0 : getElem 16 0 (t.sregK a 1) = 0) : strm kind q a b s = .next (s.scalarFault r causeOperand none) := by
  have counts : countsOk (t.strmCmd kind q a b).counts = false := by
    show countsOk (getElem 16 0 (t.sregK a 1) :: _) = false
    rw [h0]
    exact countsOk_zero _
  have bad : (t.strmCmd kind q a b).strmOk b = false := by rw [StreamCmd.strmOk, counts, Bool.false_and]
  refine (withTeam_acts h _).trans (congrArg Host.Outcome.next ?_)
  show (if !(t.strmCmd kind q a b).strmOk b then _ else _) = _
  rw [bad]
  rfl

/-- The command that QLD makes of the registers, for the tile that it captures. -/
abbrev Team.qldCmd (t : Team) (q : BitVec 3) (a : SReg) (uid : Nat) : StreamCmd := t.streamCmd 2 q.toNat a 0#64 0#64 uid

omit h in
theorem qldTile_ok {lanes : Nat} {tl : Tile} (hb : getElem 8 1 (t.sregK a 0) = 0) (hw : getElem 32 1 (t.sregK a 0) = 0) (hn : getElem 16 1 (t.sregK a 0) ≠ 0)
    (ht : c.tile ((t.sregK a 0).setWidth 8) = some tl) (hq : tl.queue = false) (hf : tl.fmt ≠ 14#4)
    (inside : (t.qldCmd q a 0).qldInside tl lanes = true) : qldTile c (t.qldCmd q a 0) lanes = .ok tl := by
  have named : c.tile (BitVec.ofNat 8 (getElem 8 0 (t.qldCmd q a 0).r0)) = some tl := by rw [ofNat_getElem_zero]; exact ht
  have form : ¬(getElem 8 1 (t.qldCmd q a 0).r0 ≠ 0 ∨ getElem 32 1 (t.qldCmd q a 0).r0 ≠ 0 ∨ getElem 16 1 (t.qldCmd q a 0).r0 = 0) := by
    rintro (hx | hx | hx)
    · exact hx hb
    · exact hx hw
    · exact hn hx
  rw [qldTile, if_neg form]
  simp only [named, hq, beq_eq_false_iff_ne.2 hf, Bool.or_self, Bool.false_eq_true, if_false, inside, if_true]

theorem exec_qld_issues {tl : Tile} (room : t.scq.length < 8) (ht : qldTile c (t.qldCmd q a 0) t.lanes = .ok tl) :
    exec (.qld q a) s = .next (s.putTeam r ((t.enqueue (t.qldCmd q a tl.uid)).advance 4)) := by
  refine (withTeam_acts h _).trans (congrArg Host.Outcome.next ?_)
  simp only [ht]
  rw [if_neg (Nat.not_le.2 room)]

/-- A hold: nothing changes. -/
theorem exec_qclose_busy (hq : t.queue ≠ []) : exec (.qclose q) s = .next s := by
  refine (withTeam_acts h _).trans (congrArg Host.Outcome.next ?_)
  rw [Team.allRetired, List.isEmpty_eq_false_iff.2 hq]
  rfl

theorem exec_qclose_cancels (hq : t.queue = []) : exec (.qclose q) s = .next ((s.putTeam r
    ({ t with scq := t.scq.filter (fun k => k.q != q.toNat), queues := t.queues.set q.toNat [] }.advance 4)).sweepTiles r.crew) := by
  refine (withTeam_acts h _).trans (congrArg Host.Outcome.next ?_)
  rw [Team.allRetired, hq]
  rfl
end

/-- Tiles that go take no team with them. -/
theorem sweepTiles_team {s : State} {r : TeamRef} {c : Crew} {t : Team} (h : s.teamAt r = some (c, t)) : ∃ c', (s.sweepTiles r.crew).teamAt r = some (c', t) := by
  obtain ⟨hcrew, hteam⟩ := teamAt_eq.1 h
  exact ⟨_, teamAt_eq.2 ⟨crewAt_modCrew hcrew _, hteam⟩⟩

theorem StreamCmd.qldInside_iff {k : StreamCmd} (hk : k.kind = 2) {tl : Tile} {lanes : Nat} :
    k.qldInside tl lanes = true ↔ ∀ v l j, v < getElem 16 1 k.r0 → l < lanes → j < 64 / tl.width → tl.inside ((k.qldCoord l v).plus1 j) = true := by
  simp only [StreamCmd.qldInside, StreamCmd.vectors, if_pos hk, List.all_eq_true, List.mem_range]
  exact ⟨fun all v l j hv hl hj => all v hv l hl j hj, fun all v hv l hl j hj => all v l j hv hl hj⟩

end StreamsAtIssue

section StreamDelivery

/-! ### Delivery (03 R60 to R63; 08 R171) -/

theorem bitsOf_lt (m : SMap 32) (b w : Nat) : bitsOf m b w < 2 ^ w := by
  unfold bitsOf
  split
  · next hw =>
    have low := (cellGet m (b / 32)).isLt
    have high := (cellGet m (b / 32 + 1)).isLt
    rw [hw]
    omega
  · exact Nat.mod_lt _ (Nat.two_pow_pos _)

theorem Tile.accWidth_eq (tl : Tile) : tl.accWidth = tl.width := by
  unfold Tile.accWidth Tile.width
  split
  · next hf => rw [hf]; rfl
  · rfl

theorem Tile.read_lt (tl : Tile) (x : Coord) (blk : Option Nat) : tl.read x blk < 2 ^ tl.width := tl.accWidth_eq ▸ bitsOf_lt _ _ _

/-- One element of a QLD's lane: zero outside the shape, a free value where it is poisoned. -/
def State.qldElem (s : State) (k : StreamCmd) (tl : Tile) (l v j : Nat) : Nat :=
  let x := (k.qldCoord l v).plus1 j
  if !tl.inside x then 0 else if tl.poisoned x none then getElem tl.width j (Config.freeValue (s.free + l)) else tl.read x none

theorem getElem_qldValue (s : State) (k : StreamCmd) (tl : Tile) (l v : Nat) {j : Nat} (hj : j < 64 / tl.width) :
    getElem tl.width j (s.qldValue k tl l v) = s.qldElem k tl l v j := by
  refine getElem_packFields (f := s.qldElem k tl l v) (Nat.mul_div_le 64 tl.width) (fun i _ => ?_) hj
  unfold State.qldElem
  dsimp only
  split
  · exact Nat.two_pow_pos _
  · split
    · exact Nat.mod_lt _ (Nat.two_pow_pos _)
    · exact tl.read_lt _ _

/-- What lane `l` of the command's current vector receives. -/
def State.laneValue (s : State) (c : Crew) (t : Team) (q : StreamCmd) (l : Nat) : Word :=
  let v := q.sent / t.bands
  if q.kind = 2 then (match c.tileUid q.uid with | none => 0#64 | some tl => s.qldValue q tl l v)
  else if v * t.lanes + l < q.total then q.elem (v * t.lanes + l) else 0#64

/-- The lanes of a band. -/
def bandLanes (b : Nat) : List Nat := (List.range 32).map (fun i => 32 * b + i)

/-- The entry of a band whose lanes receive `f`. -/
def bandOf (f : Nat → Word) (b : Nat) : Band := BitVec.ofNat 2048 ((bandLanes b).foldl (fun a l => a + (f l).toNat * 2 ^ (64 * (l % 32))) 0)

theorem bandOf_lane (f : Nat → Word) (b : Nat) {i : Nat} (hi : i < 32) : (bandOf f b).extractLsb' (64 * i) 64 = f (32 * b + i) := by
  have packed : (bandLanes b).foldl (fun a l => a + (f l).toNat * 2 ^ (64 * (l % 32))) 0 = packFields 64 (fun i => (f (32 * b + i)).toNat) 32 := by
    rw [bandLanes, List.foldl_map, packFields]
    refine List.foldl_ext _ _ _ fun a i hi => ?_
    rw [Nat.mul_add_mod, Nat.mod_eq_of_lt (List.mem_range.1 hi)]
  rw [bandOf, packed]
  exact extractLsb'_packFields (f := fun i => f (32 * b + i)) (n := 32) hi

/-- The team after its first stream command has delivered the entry `e`. -/
def Team.afterDelivery (t : Team) (q : StreamCmd) (rest : List StreamCmd) (e : Band) : Team :=
  { t with queues := t.queues.set q.q (t.queues.getD q.q [] ++ [e])
           scq := if q.vectors t.lanes * t.bands ≤ q.sent + 1 then rest else { q with sent := q.sent + 1 } :: rest }

section
variable {s : State} {r : TeamRef} {c : Crew} {t : Team} {q : StreamCmd} {rest : List StreamCmd} (h : s.teamAt r = some (c, t))
  (stops : s.crewStops c = true) (hq : t.scq = q :: rest) (room : (t.queues.getD q.q []).length < 8)
  (free : q.kind = 2 → ∃ tl, c.tileUid q.uid = some tl ∧ s.qldWaits r t q tl (bandLanes (q.sent % t.bands)) (q.sent / t.bands) = false)
include h stops hq room free

theorem exec_streamDeliver_first : ∃ n, exec (.streamDeliver r 0) s = .next
    (if q.vectors t.lanes * t.bands ≤ q.sent + 1 then
      { s.putTeam r (t.afterDelivery q rest (bandOf (s.laneValue c t q) (q.sent % t.bands))) with free := n }.sweepTiles r.crew
    else { s.putTeam r (t.afterDelivery q rest (bandOf (s.laneValue c t q) (q.sent % t.bands))) with free := n }) := by
  have first : t.scq[0]? = some q := by rw [hq]; rfl
  refine ⟨s.free + t.lanes, congrArg Host.Outcome.next ?_⟩
  simp only [h, first]
  rw [if_neg (by rw [stops, decide_eq_false (Nat.not_le.2 room)]; decide), if_neg]
  · unfold Team.afterDelivery
    simp only [decide_eq_true_eq]
    by_cases last : q.vectors t.lanes * t.bands ≤ q.sent + 1
    · simp only [if_pos last, hq]
      rfl
    · simp only [if_neg last, hq]
      rfl
  · rw [Bool.and_eq_true, decide_eq_true_eq]
    rintro ⟨hk, hw⟩
    obtain ⟨tl, htl, free⟩ := free hk
    simp only [htl] at hw
    exact Bool.false_ne_true (free.symm.trans hw)

theorem exec_streamDeliver_team : ∃ s' c', exec (.streamDeliver r 0) s = .next s' ∧
    s'.teamAt r = some (c', t.afterDelivery q rest (bandOf (s.laneValue c t q) (q.sent % t.bands))) := by
  obtain ⟨n, hexec⟩ := exec_streamDeliver_first h stops hq room free
  have put := teamAt_putTeam h (t.afterDelivery q rest (bandOf (s.laneValue c t q) (q.sent % t.bands)))
  by_cases last : q.vectors t.lanes * t.bands ≤ q.sent + 1
  · obtain ⟨c', hc'⟩ := sweepTiles_team (s := { s.putTeam r _ with free := n }) put
    exact ⟨_, c', hexec.trans (congrArg Host.Outcome.next (if_pos last)), hc'⟩
  · exact ⟨_, _, hexec.trans (congrArg Host.Outcome.next (if_neg last)), put⟩
end

end StreamDelivery

/-- Settles O14: the commands at issue, the elements by their digits, and the entry that a delivery packs. -/
theorem streamCommands : Obligations.StreamCommands := by
  refine ⟨?issue, ?elements, ?delivery⟩
  case issue =>
    intro s r c t h q a b
    refine ⟨fun room h0 h1 h2 hb => ?strm, fun h0 => ⟨strm_empty h 0 q a b h0, strm_empty h 1 q a b h0⟩,
      fun tl room hz hw hn ht hq hf inside => ?qld, exec_qclose_busy h q, fun hq => ?qclose⟩
    case strm =>
      refine ⟨t.strmCmd 0 q a b, strm_issues h 0 q a b room h0 h1 h2 hb, strm_issues h 1 q a b room h0 h1 h2 hb, rfl, rfl, rfl, rfl, rfl, rfl, rfl, fun h3 => ?_⟩
      have two : (getElem 16 2 (t.sregK a 1) != 0) = true := bne_iff_ne.2 h3
      exact ⟨if_pos two, if_pos two⟩
    case qld =>
      have all : (t.qldCmd q a 0).qldInside tl t.lanes = true := (StreamCmd.qldInside_iff rfl).2 inside
      exact ⟨_, exec_qld_issues h q a room (qldTile_ok q a hz hw hn ht hq hf all), rfl, rfl, rfl, rfl, rfl, rfl, rfl, rfl⟩
    case qclose =>
      obtain ⟨c', hc'⟩ := sweepTiles_team (teamAt_putTeam h.2 ({ t with scq := t.scq.filter (fun k => k.q != q.toNat), queues := t.queues.set q.toNat [] }.advance 4))
      exact ⟨_, c', { t with scq := t.scq.filter (fun k => k.q != q.toNat), queues := t.queues.set q.toNat [] }, exec_qclose_cancels h q hq, hc',
        fun k => by simp, rfl, rfl⟩
  case elements =>
    intro k d0 d1 d2 d3 cnt h1 h2 l0 l1 l2 l3
    exact ⟨k.elem_d h1 h2 l0 l1 l2 l3, fun hk i hi => k.elem_c4 h1 h2 l0 l1 l2 l3 (by rw [hk]; decide) hi⟩
  case delivery =>
    intro s r c t q rest h stops hq lt room v lane free
    obtain ⟨s', c', hexec, hteam⟩ := exec_streamDeliver_team h stops hq room free
    have value (i : Nat) (hi : i < 32) := bandOf_lane (s.laneValue c t q) (q.sent % t.bands) hi
    refine ⟨s', c', t.afterDelivery q rest _, bandOf (s.laneValue c t q) (q.sent % t.bands), hexec, hteam, ?_, fun p hp => ?_, fun hk i hi => ?strm, fun tl i j hk htl hi hj => ?qld, rfl, rfl⟩
    · rw [Team.afterDelivery, List.getD_eq_getElem?_getD, List.getElem?_set_self lt, Option.getD_some]
    · rw [Team.afterDelivery, List.getD_eq_getElem?_getD, List.getElem?_set_ne (Ne.symm hp), ← List.getD_eq_getElem?_getD]
    case strm => rw [value i hi, State.laneValue, if_neg hk]
    case qld =>
      have element : getElem tl.width j ((bandOf (s.laneValue c t q) (q.sent % t.bands)).extractLsb' (64 * i) 64) = s.qldElem q tl (lane i) v j := by
        rw [value i hi, State.laneValue, if_pos hk, htl]
        exact getElem_qldValue s q tl (lane i) v hj
      refine ⟨fun inside good => ?_, fun outside => ?_⟩
      · replace inside : tl.inside ((q.qldCoord (lane i) v).plus1 j) = true := inside
        replace good : tl.poisoned ((q.qldCoord (lane i) v).plus1 j) none = false := good
        have read : s.qldElem q tl (lane i) v j = tl.read ((q.qldCoord (lane i) v).plus1 j) none :=
          (if_neg (by simpa using inside)).trans (if_neg (by simpa using good))
        exact element.trans (read.trans (Nat.mod_eq_of_lt (tl.read_lt _ _)).symm)
      · replace outside : tl.inside ((q.qldCoord (lane i) v).plus1 j) = false := outside
        exact element.trans (if_pos (by simpa using outside))

end Sys2Proof.Machine


namespace Sys2Proof.Machine

/-! ### An atomic access of 12 bits (06 R118, 08 R166)

An access is performed on its whole bytes: one of 12 bits reads, changes and writes the 8 bits of one byte. AccessesPerform asks of every
access of a state, whatever its width, that the new byte be the low byte of the operation at the access's own width, and the two part where the
operation looks at bits 8 to 11 of an operand. -/

/-- A compare-and-swap of 12 bits at address 0: it writes 1 where it finds 0x100. -/
def casOf12Bits : Access := ⟨0, 0, .scalar, 0, 0, .glob 0 0, 12, .atom .cas 1#64 0x100#64 0#9 0, 0, 0⟩

/-- A team of one lane with that access outstanding. -/
def casTeam : Team := { id := 0, lanes := 1, regs := 1, priv := false, pc := 0#64, pending := [casOf12Bits] }

/-- Its crew, placed on core 0. -/
def casCrew : Crew := { launchId := 0#32, crewId := 0#32, place := some 0, born := 0, lastRegion := 0, teams := [casTeam] }

/-- The package at reset with that crew in it: its memory reads as zero. -/
def casState : State := { State.reset with crews := [casCrew] }

/-- The byte at address 0 after an outcome that goes on. -/
def Out.byteAtZero : Out → Option Nat
  | .next s => some (readLE s.mem 0 1)
  | _ => none

/-- The byte's 8 bits of 0x100 are zero, so the access finds what it compares with and writes its operand. -/
theorem casOf12Bits_swaps : Out.byteAtZero (exec (.longLatencyComplete ⟨0, 0⟩ 0) casState) = some 1 := by decide +kernel

/-- At 12 bits the byte zero is not 0x100, and old stays. -/
theorem atomNew_cas_12_keeps : atomNew .cas 12 (readLE casState.mem 0 1) 1 0x100 % 256 = 0 := by decide

/-- Refutes O16: a 12-bit compare-and-swap on HBM4E is performed at the width of its whole bytes, 8 bits, where the statement asks for
the operation at 12 bits. -/
theorem not_accessesPerform : ¬ Obligations.AccessesPerform := by
  intro h
  obtain ⟨performed, -⟩ := h
  obtain ⟨-, -, -, -, atomic⟩ := performed casState ⟨0, 0⟩ casCrew casTeam 0 0 0 0 casOf12Bits rfl rfl rfl rfl rfl (by decide)
  obtain ⟨s', c', t', hexec, -, hbyte, -⟩ := atomic rfl .cas 1#64 0x100#64 0#9 0 rfl rfl rfl
  have swapped : readLE s'.mem 0 1 = 1 := Option.some.inj ((congrArg Out.byteAtZero hexec).symm.trans casOf12Bits_swaps)
  have kept : readLE s'.mem 0 1 = 0 := hbyte.trans atomNew_cas_12_keeps
  exact absurd (swapped.symm.trans kept) (by decide)

end Sys2Proof.Machine

namespace Sys2Proof.Machine

section IntegerReduction

/-! ### The reduction of an exact integer to w bits (04 R76) -/

theorem wrapBits_lt (w : Nat) (i : Int) : wrapBits w i < 2 ^ w := by
  have below : i % 2 ^ w < 2 ^ w := Int.emod_lt_of_pos i (by positivity)
  rw [wrapBits, Int.toNat_lt (Int.emod_nonneg i (by positivity))]
  exact_mod_cast below

theorem wrapBits_cast (w : Nat) (i : Int) : (wrapBits w i : Int) = i % 2 ^ w :=
  Int.toNat_of_nonneg (Int.emod_nonneg i (by positivity))

theorem reduceInt_lt (sg sat : Bool) (w : Nat) (i : Int) : reduceInt sg sat w i < 2 ^ w := wrapBits_lt w _

/-- Integers that agree modulo 2^w wrap to the same bits. -/
theorem wrapBits_congr {w : Nat} {i j : Int} (h : i % 2 ^ w = j % 2 ^ w) : wrapBits w i = wrapBits w j := by
  rw [wrapBits, wrapBits, h]

/-- Wrapping gives the bits of the two's complement word. -/
theorem wrapBits_eq_ofInt (w : Nat) (i : Int) : wrapBits w i = (BitVec.ofInt w i).toNat := by
  rw [wrapBits, BitVec.toNat_ofInt]
  norm_cast

theorem elemInt_unsigned (w x : Nat) : elemInt false w x = x := rfl

/-- A signed element is the two's complement value of its bits. -/
theorem elemInt_signed {w : Nat} (x : BitVec w) : elemInt true w x.toNat = x.toInt := by
  rw [BitVec.toInt_eq_msb_cond, BitVec.msb_eq_getLsbD_last, BitVec.getLsbD, elemInt, Bool.true_and]
  push_cast
  rfl

/-- An element's integer wraps back to its bits. -/
theorem wrapBits_elemInt (sg : Bool) {w x : Nat} (hx : x < 2 ^ w) : wrapBits w (elemInt sg w x) = x := by
  have back : ((x : Int) % 2 ^ w).toNat = x := by
    rw [Int.emod_eq_of_lt (Int.natCast_nonneg x) (by exact_mod_cast hx), Int.toNat_natCast]
  unfold elemInt
  split
  · rwa [wrapBits, Int.sub_emod_right]
  · exact back

/-- What the range of the type holds reads back from its low bits. -/
theorem elemInt_wrapBits (sg : Bool) {w : Nat} (hw : 0 < w) {i : Int} (lo : minInt sg w ≤ i) (hi : i ≤ maxInt sg w) :
    elemInt sg w (wrapBits w i) = i := by
  cases sg with
  | false =>
    have below : i < 2 ^ w := Int.lt_of_le_sub_one hi
    rw [elemInt_unsigned, wrapBits_cast, Int.emod_eq_of_lt lo below]
  | true =>
    have below : i < 2 ^ (w - 1) := Int.lt_of_le_sub_one hi
    rw [wrapBits_eq_ofInt, elemInt_signed, BitVec.toInt_ofInt_eq_self hw lo below]

theorem minInt_nonpos (sg : Bool) (w : Nat) : minInt sg w ≤ 0 := by
  cases sg
  · exact le_rfl
  · exact neg_nonpos.2 (by positivity)

theorem maxInt_nonneg (sg : Bool) (w : Nat) : 0 ≤ maxInt sg w := by
  cases sg
  · exact Int.sub_nonneg_of_le (one_le_pow₀ one_le_two)
  · exact Int.sub_nonneg_of_le (one_le_pow₀ one_le_two)

theorem clampInt_of_le {sg : Bool} {w : Nat} {i : Int} (h : i ≤ minInt sg w) : clampInt sg w i = minInt sg w :=
  max_eq_left ((min_le_right _ _).trans h)

theorem clampInt_of_ge {sg : Bool} {w : Nat} {i : Int} (h : maxInt sg w ≤ i) : clampInt sg w i = maxInt sg w := by
  rw [clampInt, min_eq_left h, max_eq_right ((minInt_nonpos sg w).trans (maxInt_nonneg sg w))]

theorem clampInt_of_mem {sg : Bool} {w : Nat} {i : Int} (lo : minInt sg w ≤ i) (hi : i ≤ maxInt sg w) : clampInt sg w i = i := by
  rw [clampInt, min_eq_right hi, max_eq_right lo]

theorem clampInt_eq (sg : Bool) (w : Nat) (i : Int) :
    clampInt sg w i = if i < minInt sg w then minInt sg w else if maxInt sg w < i then maxInt sg w else i := by
  split
  · next low => exact clampInt_of_le low.le
  · next low =>
    split
    · next high => exact clampInt_of_ge high.le
    · next high => exact clampInt_of_mem (not_lt.1 low) (not_lt.1 high)

/-- Saturation clamps to the type's range. -/
theorem elemInt_reduceInt_saturating (sg : Bool) {w : Nat} (hw : 0 < w) (i : Int) : elemInt sg w (reduceInt sg true w i) = clampInt sg w i :=
  elemInt_wrapBits sg hw (le_max_left _ _) (max_le ((minInt_nonpos sg w).trans (maxInt_nonneg sg w)) (min_le_left _ _))

/-- A reduced result is in range: wrapping keeps the low bits, saturation clamps, and what the type holds is kept. -/
theorem reduceInt_spec {w : Nat} (hw : 0 < w) (sg : Bool) (i : Int) :
    reduceInt sg false w i < 2 ^ w ∧ ((reduceInt sg false w i : Int) - i) % 2 ^ w = 0 ∧
      elemInt sg w (reduceInt sg true w i) = clampInt sg w i ∧ (minInt sg w ≤ i → i ≤ maxInt sg w → elemInt sg w (reduceInt sg false w i) = i) := by
  refine ⟨reduceInt_lt sg false w i, ?_, elemInt_reduceInt_saturating sg hw i, elemInt_wrapBits sg hw⟩
  rw [show (reduceInt sg false w i : Int) = i % 2 ^ w from wrapBits_cast w i, Int.emod_sub_emod, sub_self, Int.zero_emod]

/-! ### Shift amounts beyond the type (09 R196) -/

theorem le_mul_two_pow {w n : Nat} (hn : 2 * w ≤ n) {i : Int} (hi : 0 < i) : (2 : Int) ^ w ≤ i * 2 ^ n :=
  calc (2 : Int) ^ w ≤ 2 ^ n := pow_le_pow_right₀ (by decide) (by omega)
    _ ≤ i * 2 ^ n := le_mul_of_one_le_left (by positivity) hi

/-- From 2w on, every shift amount gives the same reduction: zero wraps to zero, and the others leave the range on their side. -/
theorem reduceInt_shift_of_le (sg sat : Bool) {w n : Nat} (hn : 2 * w ≤ n) (i : Int) :
    reduceInt sg sat w (i * 2 ^ n) = reduceInt sg sat w (i * 2 ^ (2 * w)) := by
  have multiple {k : Nat} (hk : 2 * w ≤ k) : i * 2 ^ k % 2 ^ w = 0 :=
    Int.emod_eq_zero_of_dvd ((pow_dvd_pow 2 (by omega)).mul_left i)
  cases sat with
  | false => exact wrapBits_congr ((multiple hn).trans (multiple le_rfl).symm)
  | true =>
    refine congrArg (wrapBits w) ?_
    have pos : (0 : Int) < 2 ^ w := by positivity
    have half : (2 : Int) ^ (w - 1) ≤ 2 ^ w := pow_le_pow_right₀ (by decide) (by omega)
    have top : maxInt sg w ≤ 2 ^ w := by cases sg <;> simp only [maxInt, if_true, Bool.false_eq_true, if_false] <;> omega
    have bottom : -2 ^ w ≤ minInt sg w := by cases sg <;> simp only [minInt, if_true, Bool.false_eq_true, if_false] <;> omega
    rcases lt_trichotomy i 0 with neg | rfl | pos
    · have below {k : Nat} (hk : 2 * w ≤ k) : i * 2 ^ k ≤ minInt sg w := by
        have := le_mul_two_pow hk (neg_pos.2 neg)
        rw [neg_mul] at this
        omega
      exact (clampInt_of_le (below hn)).trans (clampInt_of_le (below le_rfl)).symm
    · rw [zero_mul, zero_mul]
    · have above {k : Nat} (hk : 2 * w ≤ k) : maxInt sg w ≤ i * 2 ^ k := top.trans (le_mul_two_pow hk pos)
      exact (clampInt_of_ge (above hn)).trans (clampInt_of_ge (above le_rfl)).symm

theorem reduceInt_shlInt (sg sat : Bool) (w n : Nat) (i : Int) : reduceInt sg sat w (shlInt w i n) = reduceInt sg sat w (i * 2 ^ n) := by
  rw [shlInt]
  push_cast
  rcases le_total n (2 * w) with h | h
  · rw [min_eq_left h]
  · rw [min_eq_right h, reduceInt_shift_of_le sg sat h]

end IntegerReduction

section LaneElements

/-! ### Elements of a register (03 R52, 09 R190) -/

theorem getElem_lt (w k : Nat) (x : Word) : getElem w k x < 2 ^ w := Nat.mod_lt _ (Nat.two_pow_pos w)

theorem testBit_getElem (w k : Nat) (x : Word) (i : Nat) : (getElem w k x).testBit i = (decide (i < w) && x.toNat.testBit (w * k + i)) := by
  rw [getElem, Nat.testBit_mod_two_pow, Nat.testBit_div_two_pow, Nat.add_comm i]

/-- The bits of a value with element k replaced. -/
theorem testBit_putElem (w k : Nat) (x : Word) (v : Nat) {i : Nat} (hi : i < 64) :
    (putElem w k x v).toNat.testBit i = if w * k ≤ i ∧ i < w * k + w then v.testBit (i - w * k) else x.toNat.testBit i := by
  have low : x.toNat % 2 ^ (w * k) < 2 ^ (w * k) := Nat.mod_lt _ (Nat.two_pow_pos _)
  have upper : x.toNat / 2 ^ (w * k) = 2 ^ w * (x.toNat / 2 ^ (w * k) / 2 ^ w) + getElem w k x := (Nat.div_add_mod _ _).symm
  have parts : x.toNat - getElem w k x * 2 ^ (w * k) + v % 2 ^ w * 2 ^ (w * k) =
      2 ^ (w * k) * (2 ^ w * (x.toNat / 2 ^ (w * k) / 2 ^ w) + v % 2 ^ w) + x.toNat % 2 ^ (w * k) := by
    have whole := Nat.div_add_mod x.toNat (2 ^ (w * k))
    generalize x.toNat / 2 ^ (w * k) / 2 ^ w = hi at upper ⊢
    generalize x.toNat % 2 ^ (w * k) = lo at whole ⊢
    rw [upper] at whole
    rw [← whole, Nat.mul_add, Nat.mul_add, Nat.mul_comm (getElem w k x), Nat.mul_comm (v % 2 ^ w)]
    omega
  rw [putElem, BitVec.toNat_ofNat, parts, Nat.testBit_mod_two_pow, decide_eq_true hi, Bool.true_and, Nat.testBit_two_pow_mul_add _ low]
  split
  · next below => rw [if_neg (by omega), Nat.testBit_mod_two_pow, decide_eq_true below, Bool.true_and]
  · next above =>
    rw [Nat.testBit_two_pow_mul_add _ (Nat.mod_lt _ (Nat.two_pow_pos w))]
    split
    · next inside => rw [if_pos (by omega), Nat.testBit_mod_two_pow, decide_eq_true inside, Bool.true_and]
    · next outside =>
      rw [if_neg (by omega), Nat.testBit_div_two_pow, Nat.testBit_div_two_pow]
      congr 1
      omega

/-- Element e read after element k is written. -/
theorem getElem_putElem {w e : Nat} (he : w * (e + 1) ≤ 64) (k : Nat) (x : Word) (v : Nat) :
    getElem w e (putElem w k x v) = if e = k then v % 2 ^ w else getElem w e x := by
  have place : w * e + w ≤ 64 := he
  refine Nat.eq_of_testBit_eq fun i => ?_
  rw [testBit_getElem]
  by_cases hi : i < w
  · rw [testBit_putElem w k x v (by omega : w * e + i < 64), decide_eq_true hi, Bool.true_and]
    by_cases same : e = k
    · subst same
      rw [if_pos (by omega), if_pos rfl, Nat.add_sub_cancel_left, Nat.testBit_mod_two_pow, decide_eq_true hi, Bool.true_and]
    · have apart : w * e + w ≤ w * k ∨ w * k + w ≤ w * e := by
        rcases Nat.lt_or_gt_of_ne same with lt | gt
        · exact .inl (Nat.mul_le_mul_left w lt)
        · exact .inr (Nat.mul_le_mul_left w gt)
      rw [if_neg (by omega), if_neg same, testBit_getElem, decide_eq_true hi, Bool.true_and]
  · have small : (if e = k then v % 2 ^ w else getElem w e x) < 2 ^ w := by
      split
      · exact Nat.mod_lt _ (Nat.two_pow_pos w)
      · exact getElem_lt w e x
    rw [decide_eq_false hi, Bool.false_and,
      Nat.testBit_lt_two_pow (small.trans_le (Nat.pow_le_pow_right (by decide) (Nat.le_of_not_lt hi)))]

/-- Element e read after the elements of a list are written with a function of their number. -/
theorem getElem_putElems {w e : Nat} (he : w * (e + 1) ≤ 64) (f : Nat → Nat) : ∀ (l : List Nat) (x : Word),
    getElem w e (l.foldl (fun acc i => putElem w i acc (f i)) x) = if e ∈ l then f e % 2 ^ w else getElem w e x
  | [], _ => rfl
  | k :: l, x => by
    rw [List.foldl_cons, getElem_putElems he f l, getElem_putElem he]
    by_cases later : e ∈ l
    · rw [if_pos later, if_pos (List.mem_cons_of_mem k later)]
    · by_cases same : e = k
      · subst same; simp [later]
      · simp [later, same]

theorem getElem_mapElems {w e : Nat} (he : e < 64 / w) (sel : BitVec 5) (old : Word) (f : Nat → Nat) :
    getElem w e (mapElems w sel old f) = if e ∈ elemSet w sel then f e % 2 ^ w else getElem w e old :=
  getElem_putElems ((Nat.mul_le_mul_left w he).trans (Nat.mul_div_le 64 w)) f _ old

theorem Team.elem_lt (t : Team) (p : Pops) (srcs : List Src) (k w : Nat) (sel : BitVec 5) (i l : Nat) : t.elem p srcs k w sel i l < 2 ^ w :=
  getElem_lt w _ _

end LaneElements
end Sys2Proof.Machine

namespace Sys2Proof.Machine

section LaneFrame

/-! ### Masks of lanes (02 R27) -/

theorem maskOf_succ (n : Nat) (p : Nat → Bool) : maskOf (n + 1) p = if p n then maskOf n p ||| BitVec.ofNat 1024 (2 ^ n) else maskOf n p := by
  rw [maskOf, List.range_succ, List.foldl_append]
  rfl

theorem getLsbD_maskOf {p : Nat → Bool} {l : Nat} : ∀ {n : Nat}, (maskOf n p).getLsbD l = true ↔ l < 1024 ∧ l < n ∧ p l = true
  | 0 => by simp [maskOf]
  | n + 1 => by
    rw [maskOf_succ]
    split
    · next on =>
      rw [BitVec.getLsbD_or, Bool.or_eq_true, getLsbD_maskOf, BitVec.getLsbD_ofNat, Nat.testBit_two_pow, Bool.and_eq_true, decide_eq_true_eq, decide_eq_true_eq]
      constructor
      · rintro (⟨small, lt, hp⟩ | ⟨small, rfl⟩)
        · exact ⟨small, Nat.lt_succ_of_lt lt, hp⟩
        · exact ⟨small, Nat.lt_succ_self n, on⟩
      · rintro ⟨small, lt, hp⟩
        rcases Nat.lt_succ_iff_lt_or_eq.1 lt with earlier | rfl
        · exact .inl ⟨small, earlier, hp⟩
        · exact .inr ⟨small, rfl⟩
    · next off =>
      rw [getLsbD_maskOf]
      have step (hp : p l = true) : l < n ↔ l < n + 1 := by
        have : l ≠ n := by rintro rfl; exact off hp
        omega
      exact and_congr_right fun _ => and_congr_left step

theorem maskOf_eq_zero {n : Nat} {p : Nat → Bool} (h : ∀ l, l < n → l < 1024 → p l = false) : maskOf n p = 0#1024 := by
  refine BitVec.eq_of_getLsbD_eq fun l _ => ?_
  rw [BitVec.getLsbD_zero, Bool.eq_false_iff]
  intro on
  obtain ⟨small, lt, hp⟩ := getLsbD_maskOf.1 on
  exact absurd (hp.symm.trans (h l lt small)) (by decide)

/-- The lanes that execute are lanes of the team. -/
theorem Team.lt_lanes_of_executing {t : Team} {mask : Mask} {h : LaneHead} {l : Nat} (hl : (t.executing mask h).getLsbD l = true) : l < t.lanes := by
  have guarded : (maskOf t.lanes (fun l => mask.getLsbD l && (t.pred h.guard.toNat l != h.neg))).getLsbD l = true := by
    unfold Team.executing at hl
    split at hl
    · rw [BitVec.getLsbD_and, Bool.and_eq_true] at hl
      exact hl.1
    · exact hl
  obtain ⟨-, lt, -⟩ := getLsbD_maskOf.1 guarded
  exact lt

theorem mem_maskLanes_executing {t : Team} {mask : Mask} {h : LaneHead} {l : Nat} :
    l ∈ maskLanes (t.executing mask h) t.lanes ↔ (t.executing mask h).getLsbD l = true :=
  mem_maskLanes.trans ⟨And.right, fun hl => ⟨Team.lt_lanes_of_executing hl, hl⟩⟩

/-! ### The pops of an instruction (03 R61) -/

theorem Team.popQueues_frame (n : Nat) : ∀ (qs : List Nat) (t : Team), ∃ qu tk, qs.foldl (fun u q => u.popQueue n q) t = { t with queues := qu, taken := tk }
  | [], t => ⟨t.queues, t.taken, rfl⟩
  | _ :: qs, _ => popQueues_frame n qs _

/-- Pops change the queues and what has been taken of them alone. -/
theorem Team.afterPops_frame (t : Team) (srcs : List Src) : ∃ qu tk, t.afterPops srcs = { t with queues := qu, taken := tk } :=
  Team.popQueues_frame _ _ _

/-! ### Lane registers written (09 R190) -/

theorem Team.vreg_setVreg {d v l k : Nat} (hl : l < 1024) (hk : k < 1024) (t : Team) (x : Word) :
    (t.setVreg d l x).vreg v k = if v = d ∧ k = l then x else t.vreg v k := by
  have cells : (v * 1024 + k = d * 1024 + l) = (v = d ∧ k = l) := propext (by omega)
  simp only [Team.vreg, Team.setVreg, cellGet_cellSet, cells]

/-- A register read after it has been written in a list of lanes. -/
theorem Team.vreg_setVregs {d v k : Nat} (hk : k < 1024) (f : Nat → Word) : ∀ (ls : List Nat) (t : Team), (∀ l, l ∈ ls → l < 1024) →
    (ls.foldl (fun u l => u.setVreg d l (f l)) t).vreg v k = if v = d ∧ k ∈ ls then f k else t.vreg v k
  | [], t, _ => by simp
  | l :: ls, t, small => by
    rw [List.foldl_cons, vreg_setVregs hk f ls _ fun j hj => small j (List.mem_cons_of_mem l hj), Team.vreg_setVreg (small l List.mem_cons_self) hk]
    by_cases hv : v = d
    · by_cases later : k ∈ ls
      · simp [hv, later]
      · by_cases same : k = l
        · subst same; simp [hv, later]
        · simp [hv, later, same]
    · simp [hv]

/-- Writes of lane registers change the registers, and what is in error among them, alone; no register comes to hold an error. -/
theorem Team.setVregs_frame {d : Nat} (f : Nat → Word) : ∀ (ls : List Nat) (t : Team),
    ∃ vr le, ls.foldl (fun u l => u.setVreg d l (f l)) t = { t with vregs := vr, laneErr := le } ∧ ∀ k, k ∈ le → k ∈ t.laneErr
  | [], t => ⟨t.vregs, t.laneErr, rfl, fun _ hk => hk⟩
  | l :: ls, t => by
    obtain ⟨vr, le, eq, sub⟩ := setVregs_frame (d := d) f ls (t.setVreg d l (f l))
    exact ⟨vr, le, eq, fun k hk => List.mem_of_mem_filter (sub k hk)⟩

/-! ### An instruction whose operands are ready (09 R191; 18 R347) -/

/-- No executing lane reads a register in error. -/
theorem Team.errLanes_eq_zero {t : Team} {srcs : List Src} (clean : ∀ v, v ∈ srcs.filterMap Src.isReg → ∀ l, l < 1024 → v * 1024 + l ∉ t.laneErr) (x y : Mask) :
    t.errLanes srcs x (ownLane t y) = 0#1024 := by
  unfold Team.errLanes
  split
  · rfl
  refine maskOf_eq_zero fun l _ hl => Bool.and_eq_false_imp.2 fun _ => List.any_eq_false.2 fun p hp => ?_
  obtain ⟨src, k⟩ := p
  cases src with
  | reg v =>
    have named : v ∈ srcs.filterMap Src.isReg := List.mem_filterMap.2 ⟨.reg v, List.mem_of_getElem? (List.mem_zipIdx_iff_getElem?.1 hp), rfl⟩
    simpa [ownLane] using clean v named l hl
  | zero | buf | queue q => simp

section
variable {s : State} {r : TeamRef} {c : Crew} {t : Team} {cl : Clause} (at_ : s.laneAt r c t cl) {srcs : List Src} {regs : List Nat}
  (ready : t.laneReady cl srcs regs) (h : LaneHead)
include at_ ready

/-- The frame hands the popped team to the instruction's effect. -/
theorem laneFrame_ready (eff : TeamRef → Crew → Team → Clause → Mask → State) :
    laneFrame s h srcs regs eff = .next (eff r c (t.afterPops srcs) cl (t.executing cl.mask h)) := by
  obtain ⟨acts, head, started, idle, more⟩ := at_
  obtain ⟨lanes, buffer, whole, inAlloc, -⟩ := ready
  obtain ⟨rest, queue⟩ : ∃ rest, t.queue = cl :: rest := List.head?_eq_some_iff.1 head
  have stands : (!cl.started || (!t.lwaits.isEmpty && t.restart.isNone) || decide (cl.count ≤ t.lidx)) = false := by simp [started, idle, more]
  have valid : (srcs.contains .buf && t.obuf.isNone) = false := by
    by_cases named : Src.buf ∈ srcs
    · simp [Option.isNone_eq_false_iff.2 (buffer named)]
    · simp [named]
  have allocated : (srcs.filterMap Src.isReg ++ regs).any (fun v => decide (t.regs ≤ v)) = false :=
    List.any_eq_false.2 fun v hv => by simpa using inAlloc v hv
  refine (withTeam_acts acts _).trans (congrArg Host.Outcome.next ?_)
  simp only [queue, stands, valid, whole, allocated, if_neg lanes, Bool.not_true, Bool.false_eq_true, if_false]
  rfl

/-- A computing instruction whose sources hold no error completes in every executing lane. -/
theorem laneCompute_ready (eff : TeamRef → Crew → Team → Clause → Mask → State) :
    laneCompute s h srcs regs ownLane eff = .next (eff r c (t.afterPops srcs) cl (t.executing cl.mask h)) := by
  refine (laneFrame_ready at_ ready h _).trans ?_
  obtain ⟨-, -, -, -, clean⟩ := ready
  obtain ⟨qu, tk, pops⟩ := t.afterPops_frame srcs
  have none : (t.afterPops srcs).errLanes srcs (t.executing cl.mask h) (ownLane (t.afterPops srcs) (t.executing cl.mask h)) = 0#1024 :=
    Team.errLanes_eq_zero (by rw [pops]; exact clean) _ _
  rw [if_pos none]
end

/-! ### Elementwise instructions (09 R190) -/

/-- Elements written in the executing lanes of the popped team, and the passes made. -/
theorem laneWrites_mapElems {t : Team} {mask : Mask} {h : LaneHead} (srcs : List Src) (w d : Nat) (sel : BitVec 5) (f : Nat → Nat → Nat) (buf : Option (SMap 64)) :
    let u := t.afterPops srcs
    let x := t.executing mask h
    t.laneWrites ((u.writeLanes d x fun l => mapElems w sel (u.vreg d l) (f l)).laneDone buf) x w d (fun e => e ∈ elemSet w sel) f := by
  intro u x
  obtain ⟨qu, tk, pops⟩ := t.afterPops_frame srcs
  have same : u.lanes = t.lanes := by rw [show u = _ from pops]
  have kept (v k : Nat) : u.vreg v k = t.vreg v k := by rw [show u = _ from pops]; rfl
  have small : ∀ l, l ∈ maskLanes x u.lanes → l < 1024 := fun l hl => BitVec.lt_of_getLsbD (mem_maskLanes.1 hl).2
  have written {v k : Nat} (hk : k < 1024) :
      ((u.writeLanes d x fun l => mapElems w sel (u.vreg d l) (f l)).laneDone buf).vreg v k =
        if v = d ∧ x.getLsbD k = true then mapElems w sel (t.vreg d k) (f k) else t.vreg v k := by
    refine (Team.vreg_setVregs hk (fun l => mapElems w sel (u.vreg d l) (f l)) _ u small).trans ?_
    simp only [same, mem_maskLanes_executing, kept, x]
  obtain ⟨vr, le, writes, errs⟩ := Team.setVregs_frame (d := d) (fun l => mapElems w sel (u.vreg d l) (f l)) (maskLanes x u.lanes) u
  refine ⟨fun l e hl he on => ?_, fun l e hl he off => ?_, fun v l other hl => ?_, ?_, ?_, ?_⟩
  · rw [Team.laneElem, written (BitVec.lt_of_getLsbD hl), if_pos ⟨rfl, hl⟩, getElem_mapElems he, if_pos on]
  · rw [Team.laneElem, written (BitVec.lt_of_getLsbD hl), if_pos ⟨rfl, hl⟩, getElem_mapElems he, if_neg off, Team.laneElem]
  · rw [written hl, if_neg]
    rintro ⟨hv, on⟩
    rcases other with ne | off
    · exact ne hv
    · exact absurd (on.symm.trans off) (by decide)
  · rw [Team.writeLanes, writes, show u = _ from pops]
    rfl
  · rw [Team.writeLanes, writes, show u = _ from pops]
    rw [show u = _ from pops] at errs
    exact errs
  · rw [Team.writeLanes, writes, show u = _ from pops]
    rfl

/-- An instruction of layout A computes what its function gives on elements of the type's width, to that width. -/
theorem laneComputes_of_laneA {i : Instr} {h : LaneHead} {m : ModA} {n : Nat} {f g : Nat → Nat → Nat → Nat} (run : ∀ s, exec i s = laneA s h m n f)
    (agree : let w := elemWidth h.ty; ∀ x y z, x < 2 ^ w → y < 2 ^ w → z < 2 ^ w → f x y z % 2 ^ w = g x y z % 2 ^ w) : laneComputes i h m n g := by
  intro s r c t cl at_ ss w ready u
  refine ⟨_, (run s).trans (laneCompute_ready at_ ready h _), ?_⟩
  obtain ⟨onto, rest⟩ := laneWrites_mapElems (t := t) (mask := cl.mask) (h := h) (ss.take n) w h.dst.toNat m.dsel
    (fun l e => f (u.elem u.popped ss 0 w m.s0sel e l) (u.elem u.popped ss 1 w m.s1sel e l) (u.elem u.popped ss 2 w m.s2sel e l)) (u.keep u.popped h ss)
  exact ⟨fun l e hl he on => (onto l e hl he on).trans (agree _ _ _ (u.elem_lt ..) (u.elem_lt ..) (u.elem_lt ..)), rest⟩

theorem laneComputes_of_laneA_eq {i : Instr} {h : LaneHead} {m : ModA} {n : Nat} {f : Nat → Nat → Nat → Nat} (run : ∀ s, exec i s = laneA s h m n f) :
    laneComputes i h m n f := laneComputes_of_laneA run fun _ _ _ _ _ _ => Eq.refl _

end LaneFrame
end Sys2Proof.Machine

namespace Sys2Proof.Machine

section LaneIntegers

/-! ### Lane integer arithmetic (09 R194, R196) -/

/-- An element read as the instruction's type says. -/
abbrev laneInt (h : LaneHead) (x : Nat) : Int := elemInt (isSignedTy h.ty) (elemWidth h.ty) x

/-- An exact result reduced to the instruction's type, as its modifier asks. -/
abbrev laneReduced (h : LaneHead) (i : Int) : Nat := reduceInt (isSignedTy h.ty) h.md (elemWidth h.ty) i

variable {i : Instr} {h : LaneHead} {m : ModA} {n : Nat}

theorem intA_eq_laneA (s : State) (h : LaneHead) (m : ModA) (n : Nat) (g : Int → Int → Int → Int) :
    intA s h m n g = laneA s h m n (fun x y z => laneReduced h (g (laneInt h x) (laneInt h y) (laneInt h z))) := rfl

/-- An integer instruction computes the reduction of its exact result. -/
theorem laneComputes_of_intA {g : Int → Int → Int → Int} (run : ∀ s, exec i s = intA s h m n g) :
    laneComputes i h m n (fun x y z => laneReduced h (g (laneInt h x) (laneInt h y) (laneInt h z))) :=
  laneComputes_of_laneA_eq fun s => (run s).trans (intA_eq_laneA s h m n g)

/-- One that picks one of its operands gives that operand's bits. -/
theorem laneComputes_of_intA_operand {g : Int → Int → Int} {k : Nat → Nat → Nat} (wraps : h.md = false) (run : ∀ s, exec i s = intA s h m n (fun a b _ => g a b))
    (picks : ∀ x y, (k x y = x ∧ g (laneInt h x) (laneInt h y) = laneInt h x) ∨ (k x y = y ∧ g (laneInt h x) (laneInt h y) = laneInt h y)) : laneComputes i h m n (fun x y _ => k x y) :=
  laneComputes_of_laneA (fun s => (run s).trans (intA_eq_laneA s h m n _)) fun x y _ hx hy _ => by
    refine congrArg (· % 2 ^ elemWidth h.ty) ?_
    rw [laneReduced, wraps, reduceInt, if_neg Bool.false_ne_true]
    rcases picks x y with ⟨bits, value⟩ | ⟨bits, value⟩
    · rw [bits, value, wrapBits_elemInt _ hx]
    · rw [bits, value, wrapBits_elemInt _ hy]

variable (h m) (s : State)

theorem exec_imulh : exec (.imulh h m) s = intA s h m 2 (fun x y _ => x * y / 2 ^ elemWidth h.ty) := by
  have quotient : (fun x y _ : Int => x * y / ((2 ^ elemWidth h.ty : Nat) : Int)) = fun x y _ => x * y / 2 ^ elemWidth h.ty := by push_cast; rfl
  exact (show exec (.imulh h m) s = execImulh h m s from rfl).trans (congrArg (intA s h m 2) quotient)

theorem exec_iabs : exec (.iabs h m) s = intA s h m 1 (fun x _ _ => |x|) := by
  have magnitude : (fun x _ _ : Int => if x < 0 then -x else x) = fun x _ _ => |x| := by
    funext x _ _
    split
    · next neg => exact (abs_of_neg neg).symm
    · next pos => exact (abs_of_nonneg (not_lt.1 pos)).symm
  exact (show exec (.iabs h m) s = execIabs h m s from rfl).trans (congrArg (intA s h m 1) magnitude)

theorem exec_iadds : exec (.iadds h m) s = laneA s h m 2 (fun x y _ => laneReduced h (laneInt h x + elemInt (!isSignedTy h.ty) (elemWidth h.ty) y)) := rfl

theorem exec_isubs : exec (.isubs h m) s = laneA s h m 2 (fun x y _ => laneReduced h (laneInt h x - elemInt (!isSignedTy h.ty) (elemWidth h.ty) y)) := rfl

theorem exec_ishl : exec (.ishl h m) s = laneA s h m 2 (fun x y _ => laneReduced h (laneInt h x * 2 ^ y)) := by
  simp only [laneReduced, ← reduceInt_shlInt]
  rfl

end LaneIntegers

/-- Settles O31: every instruction of the family is elementwise on the popped operands; a shift amount beyond twice the width reduces as that
amount does, and a minimum or maximum wraps back to the operand's bits. -/
theorem laneIntegerArithmetic : Obligations.LaneIntegerArithmetic := by
  refine ⟨fun w sg i hw => ?_, fun h m => ?_⟩
  · have pos : 0 < w := by
      simp only [List.mem_cons, List.not_mem_nil, or_false] at hw
      omega
    obtain ⟨small, wraps, saturates, keeps⟩ := reduceInt_spec pos sg i
    refine ⟨small, wraps, ?_, fun x => ⟨elemInt_signed x, elemInt_unsigned w x.toNat⟩⟩
    rintro lo hi rfl rfl
    exact ⟨saturates.trans (clampInt_eq sg w i), keeps⟩
  · intro w sg I J R
    refine ⟨laneComputes_of_intA (g := fun a b _ => a + b) fun _ => rfl, laneComputes_of_intA (g := fun a b _ => a - b) fun _ => rfl,
      laneComputes_of_intA (g := fun a b _ => a * b) fun _ => rfl, laneComputes_of_intA (g := fun a b c => a * b + c) fun _ => rfl,
      fun _ => (laneComputes_of_intA (exec_imulh h m) :), (laneComputes_of_intA (exec_iabs h m) :), laneComputes_of_intA (g := fun a _ _ => -a) fun _ => rfl,
      fun wraps => ⟨laneComputes_of_intA_operand wraps (g := fun a b => if a ≤ b then a else b) (fun _ => rfl) fun x y => ?_,
        laneComputes_of_intA_operand wraps (g := fun a b => if a ≤ b then b else a) (fun _ => rfl) fun x y => ?_⟩,
      laneComputes_of_laneA_eq (exec_iadds h m), laneComputes_of_laneA_eq (exec_isubs h m), laneComputes_of_laneA_eq (exec_ishl h m)⟩
    · by_cases le : I x ≤ I y
      · exact .inl ⟨if_pos le, if_pos le⟩
      · exact .inr ⟨if_neg le, if_neg le⟩
    · by_cases le : I x ≤ I y
      · exact .inr ⟨if_pos le, if_pos le⟩
      · exact .inl ⟨if_neg le, if_neg le⟩

end Sys2Proof.Machine

namespace Sys2Proof.Machine

/-! ### A replay that comes when a decay is due (11 R250; 20 R390, R391)

A replay charges the core that serves the array, and a charge first applies the decays that are due, each with its test of the thresholds. One that
finds a channel DUE at 32,768 or more, in a stack that has no idle channel left, retires the channel: a capacity change, which every live crew with a
notification word comes to owe a delivery. -/

/-- A running MMA of the only team on core 0. -/
def runningMma : MCmd :=
  { id := 1, core := 0, team := ⟨0, 0⟩, clause := 0, ord := 0, step := 0#32
    instr := .mma ⟨14, 0, 0, 0, 0, false, false, false, 0, false, false, false, 15, false, false⟩ ⟨0, 0, 0, 0, 0⟩, src := [], started := true }

/-- Its team. -/
def replayTeam : Team := { id := 0, lanes := 32, regs := 1, priv := false, pc := 0#64 }

/-- Its crew, which has set a notification word and been notified of every capacity change so far. -/
def replayCrew : Crew :=
  { launchId := 0#32, crewId := 0#32, place := some 0, born := 0, lastRegion := 0, teams := [replayTeam], capNote := 0x100#9 }

/-- The package at reset with that crew and its MMA; a decay is due, the idle channel of stack 0 has been retired, and channel 0 is DUE with the greatest score. -/
def replayState : State :=
  { State.reset with crews := [replayCrew], matrix := [runningMma], decayAge := 2 ^ 28
                     units := [{ u := .channel 0 0, state := 1, score := 0xFFFF#16, early := true }, { u := .channel 0 32, state := 7, slot := 32 }] }

/-- Whether the crews of an outcome that goes on are to be notified. -/
def Out.capPendings : Out → List Bool
  | .next s => s.crews.map (·.capPending)
  | _ => []

theorem replay_notifies : Out.capPendings (exec (.shadowLatchReplay 0) replayState) = [true] := by decide +kernel

/-- Refutes O43: a replay that finds a decay due applies it, and where that retires a channel the crews come to owe the notification of a capacity
change, so they do not stay as they are. -/
theorem not_matrixArray : ¬ Obligations.MatrixArray := by
  intro h
  obtain ⟨⟨s', replay, crews, -⟩, -⟩ := h replayState 0 runningMma replayCrew replayTeam rfl
  have notified : s'.crews.map (·.capPending) = [true] := (congrArg Out.capPendings replay).symm.trans replay_notifies
  rw [crews] at notified
  exact absurd notified (by decide)

end Sys2Proof.Machine

namespace Sys2Proof.Machine

section ElementBits

/-! ### Elements in a storage of 32-bit words (05 R98, R99) -/

/-- Low bits are those of any residue that keeps them. -/
theorem mod_digit {n a w : Nat} (h : a + w ≤ n) (x : Nat) : x % 2 ^ n / 2 ^ a % 2 ^ w = x / 2 ^ a % 2 ^ w := by
  rw [show n = a + (n - a) by omega, Nat.pow_add, Nat.mod_mul_right_div_self, Nat.mod_mod_of_dvd _ (pow_dvd_pow 2 (by omega))]

/-- An element of at most 32 bits as an element of its word, widened. -/
theorem bitsOf_eq_getElem (m : SMap 32) {b w k : Nat} (hk : b % 32 = w * k) (hw : w ≠ 64) :
    bitsOf m b w = getElem w k ((cellGet m (b / 32)).setWidth 64) := by
  rw [bitsOf, if_neg hw, getElem, BitVec.toNat_setWidth_of_le (by decide), hk]

theorem cellGet_putBits (m : SMap 32) {b w k : Nat} (hk : b % 32 = w * k) (hw : w ≠ 64) (v a : Nat) :
    cellGet (putBits m b w v) a = if a = b / 32 then (putElem w k ((cellGet m (b / 32)).setWidth 64) v).setWidth 32 else cellGet m a := by
  rw [putBits, if_neg hw, cellGet_cellSet]
  split
  · have widened : ((cellGet m (b / 32)).setWidth 64).toNat = (cellGet m (b / 32)).toNat := BitVec.toNat_setWidth_of_le (by decide)
    refine BitVec.eq_of_toNat_eq ?_
    rw [putElem, getElem, widened, ← hk, BitVec.toNat_setWidth, BitVec.toNat_ofNat, BitVec.toNat_ofNat, Nat.mod_mod_of_dvd _ (by decide)]
  · rfl

/-- An element inside the low 32 bits reads the same in the low word. -/
theorem getElem_low {w k : Nat} (h : w * (k + 1) ≤ 32) (x : Word) : getElem w k ((x.setWidth 32).setWidth 64) = getElem w k x := by
  rw [getElem, getElem, BitVec.toNat_setWidth_of_le (by decide), BitVec.toNat_setWidth, mod_digit (a := w * k) h]

/-- Where an element that divides its word begins in the word, and that it ends there. -/
theorem exists_elem_of_dvd {b w : Nat} (hw : w ∣ 32) (hb : w ∣ b) : ∃ k, b % 32 = w * k ∧ w * (k + 1) ≤ 32 := by
  obtain ⟨k, hk⟩ := (Nat.dvd_mod_iff hw).2 hb
  obtain ⟨q, hq⟩ := hw
  have below : w * k < w * q := by omega
  refine ⟨k, hk, ?_⟩
  calc w * (k + 1) ≤ w * q := Nat.mul_le_mul_left w (Nat.lt_of_mul_lt_mul_left below)
    _ = 32 := hq.symm

/-- An element reads as written. -/
theorem bitsOf_putBits_same (m : SMap 32) {b w : Nat} (hb : w = 64 ∨ w ∣ 32 ∧ w ∣ b) (v : Nat) : bitsOf (putBits m b w v) b w = v % 2 ^ w := by
  rcases hb with rfl | ⟨hw, hb⟩
  · have high : b / 32 ≠ b / 32 + 1 := by omega
    simp only [bitsOf, putBits, if_true, cellGet_cellSet, if_neg high, BitVec.toNat_ofNat]
    omega
  · obtain ⟨k, hk, fits⟩ := exists_elem_of_dvd hw hb
    have narrow : w ≠ 64 := by rintro rfl; exact absurd hw (by decide)
    rw [bitsOf_eq_getElem _ hk narrow, cellGet_putBits m hk narrow, if_pos rfl, getElem_low fits, getElem_putElem (fits.trans (by decide)), if_pos rfl]

/-- The other elements keep their values. -/
theorem bitsOf_putBits_other (m : SMap 32) {a b w : Nat} (hw : w = 64 ∨ w ∣ 32) (ha : w ∣ a) (hb : w ∣ b) (hab : a ≠ b) (v : Nat) :
    bitsOf (putBits m b w v) a w = bitsOf m a w := by
  rcases hw with rfl | hw
  · obtain ⟨i, rfl⟩ := ha
    obtain ⟨j, rfl⟩ := hb
    simp only [bitsOf, putBits, if_true, cellGet_cellSet]
    rw [if_neg (by omega), if_neg (by omega), if_neg (by omega), if_neg (by omega)]
  · obtain ⟨k, hk, fits⟩ := exists_elem_of_dvd hw ha
    obtain ⟨l, hl, -⟩ := exists_elem_of_dvd hw hb
    have narrow : w ≠ 64 := by rintro rfl; exact absurd hw (by decide)
    rw [bitsOf_eq_getElem _ hk narrow, bitsOf_eq_getElem _ hk narrow, cellGet_putBits m hl narrow]
    split
    · next word =>
      have other : k ≠ l := by rintro rfl; exact hab (by omega)
      rw [getElem_low fits, getElem_putElem (fits.trans (by decide)), if_neg other, word]
    · rfl

/-- 32-bit words of an element, at least one. -/
def elemWords (w : Nat) : Nat := if w = 64 then 2 else 1

theorem wordsOf_eq_map (b w : Nat) : wordsOf b w = (List.range (elemWords w)).map (fun k => b / 32 + k) := by
  unfold wordsOf elemWords
  split <;> rfl

theorem mem_wordsOf {b w n : Nat} : n ∈ wordsOf b w ↔ ∃ k < elemWords w, b / 32 + k = n := by
  simp [wordsOf_eq_map]

/-- The words of two places of one element, side by side. -/
theorem mem_zip_wordsOf {a b w o n : Nat} : (o, n) ∈ (wordsOf a w).zip (wordsOf b w) ↔ ∃ k < elemWords w, a / 32 + k = o ∧ b / 32 + k = n := by
  simp [wordsOf_eq_map, List.zip_map']

/-- Elements of whole words share no word. -/
theorem word_injective {a b w j k : Nat} (hw : w = 64 ∨ w ∣ 32) (wide : 32 ≤ w) (ha : w ∣ a) (hb : w ∣ b) (hj : j < elemWords w) (hk : k < elemWords w)
    (h : a / 32 + j = b / 32 + k) : a = b ∧ j = k := by
  obtain ⟨i, rfl⟩ := ha
  obtain ⟨l, rfl⟩ := hb
  rcases hw with rfl | hw
  · simp only [elemWords, if_true] at hj hk
    omega
  · obtain rfl : w = 32 := Nat.le_antisymm (Nat.le_of_dvd (by decide) hw) wide
    simp only [elemWords, Nat.reduceEqDiff, if_false] at hj hk
    omega

theorem mem_natInsert {x y : Nat} : ∀ {l : List Nat}, y ∈ natInsert x l ↔ y = x ∨ y ∈ l
  | [] => by simp [natInsert]
  | z :: l => by
    unfold natInsert
    split
    · next same => simp [same]
    · split
      · simp
      · simp [mem_natInsert, or_left_comm]

theorem mem_foldl_natInsert {y : Nat} : ∀ {ws p : List Nat}, y ∈ ws.foldl (fun p w => natInsert w p) p ↔ y ∈ ws ∨ y ∈ p
  | [], p => by simp
  | w :: ws, p => by rw [List.foldl_cons, mem_foldl_natInsert, mem_natInsert, List.mem_cons, or_left_comm, or_assoc]

end ElementBits
end Sys2Proof.Machine

namespace Sys2Proof.Machine

section ElementPlaces

/-! ### Where elements lie (05 R98 to R100) -/

theorem elemWidth_divides {f : BitVec 4} (h : f ≠ 15#4) : elemWidth f = 64 ∨ elemWidth f ∣ 32 := by
  revert f
  decide

/-- The widths of the formats that take the tags below 8. -/
theorem elemWidth_cases {f : BitVec 4} (h : f.toNat < 14) : elemWidth f = 4 ∨ elemWidth f = 8 ∨ elemWidth f = 16 ∨ elemWidth f = 32 ∨ elemWidth f = 64 := by
  revert f
  decide

theorem layoutOk_of_plain {f : BitVec 4} {tag : Nat} (hf : f ≠ 14#4) (h : layoutOk f tag = true) : tag < 8 ∧ f.toNat < 14 := by
  rw [layoutOk, if_neg hf, Bool.and_eq_true, decide_eq_true_eq, decide_eq_true_eq] at h
  exact h

/-! Positions in mixed radix. -/

theorem radix_lt {a b A B : Nat} (ha : a < A) (hb : b < B) : a * B + b < A * B :=
  calc a * B + b < a * B + B := Nat.add_lt_add_left hb _
    _ = (a + 1) * B := (Nat.succ_mul a B).symm
    _ ≤ A * B := Nat.mul_le_mul_right B ha

theorem radix_inj {a b a' b' B : Nat} (hb : b < B) (hb' : b' < B) (h : a * B + b = a' * B + b') : a = a' ∧ b = b' := by
  have pos : 0 < B := Nat.zero_lt_of_lt hb
  have high := congrArg (· / B) h
  have low := congrArg (· % B) h
  simp only [Nat.mul_comm _ B, Nat.mul_add_div pos, Nat.div_eq_of_lt hb, Nat.div_eq_of_lt hb', Nat.mul_add_mod, Nat.mod_eq_of_lt hb, Nat.mod_eq_of_lt hb', Nat.add_zero] at high low
  exact ⟨high, low⟩

theorem div_lt_ceilDiv {a n k : Nat} (hk : 0 < k) (h : a < n) : a / k < ceilDiv n k := by
  rw [ceilDiv, Nat.div_lt_iff_lt_mul hk]
  have := Nat.lt_div_mul_add hk (a := n + k - 1)
  omega

theorem xor_div_eight (a : Nat) {b : Nat} (hb : b < 8) : (a ^^^ b) / 8 = a / 8 := by
  have := Nat.xor_div_two_pow (a := a) (b := b) (n := 3)
  rw [show (2 : Nat) ^ 3 = 8 from rfl, Nat.div_eq_of_lt hb, Nat.xor_zero] at this
  exact this

/-- 128-byte groups of a row under the swizzled tag. -/
def Shape.rowGroups (h : Shape) : Nat := ceilDiv (h.n 1 * h.width) 1024

/-- The number of an element's place in its plane, for the tags below 8, in units of the element's width. -/
def Shape.slot (h : Shape) (c0 c1 : Nat) : Nat :=
  if h.tag = 6 then (c0 * (8 * h.rowGroups) + (c1 / (128 / h.width) ^^^ c0 % 8)) * (128 / h.width) + c1 % (128 / h.width) else h.planeElem c0 c1

/-- The number of those places. -/
def Shape.slots (h : Shape) : Nat :=
  if h.tag < 2 then h.n 0 * h.n 1
  else if h.tag ≤ 5 then roundUp (h.n 0) (tileSide h.tag) * roundUp (h.n 1) (tileSide h.tag)
  else if h.tag = 6 then h.n 0 * (8 * h.rowGroups) * (128 / h.width)
  else ceilDiv (h.n 0) 2 * 2 * h.n 1

section
variable {h : Shape} {c0 c1 d0 d1 : Nat}

theorem Shape.slot_rows (ht : h.tag = 0) (c0 c1 : Nat) : h.slot c0 c1 = c0 * h.n 1 + c1 := by
  simp [Shape.slot, Shape.planeElem, ht]

theorem Shape.slot_columns (ht : h.tag = 1) (c0 c1 : Nat) : h.slot c0 c1 = c1 * h.n 0 + c0 := by
  simp [Shape.slot, Shape.planeElem, ht]

/-- The tiled tags number the tiles of the plane, the rows of a tile and the elements of a row. -/
theorem Shape.slot_tiled {k : Nat} (h2 : 2 ≤ h.tag) (h5 : h.tag ≤ 5) (hk : tileSide h.tag = k) (c0 c1 : Nat) :
    h.slot c0 c1 = ((c0 / k * ceilDiv (h.n 1) k + c1 / k) * k + c0 % k) * k + c1 % k := by
  subst hk
  have side : roundUp (h.n 1) (tileSide h.tag) / tileSide h.tag = ceilDiv (h.n 1) (tileSide h.tag) := Nat.mul_div_cancel _ (Nat.two_pow_pos _)
  rw [Shape.slot, if_neg (by omega), Shape.planeElem, if_neg (by omega), if_neg (by omega), if_pos h5]
  simp only [side]
  ring

theorem Shape.slot_swizzled {m : Nat} (ht : h.tag = 6) (hm : 128 / h.width = m) (c0 c1 : Nat) :
    h.slot c0 c1 = (c0 * (8 * h.rowGroups) + (c1 / m ^^^ c0 % 8)) * m + c1 % m := by
  rw [Shape.slot, if_pos ht, hm]

theorem Shape.slot_paired (ht : h.tag = 7) (c0 c1 : Nat) : h.slot c0 c1 = (c0 / 2 * h.n 1 + c1) * 2 + c0 % 2 := by
  simp only [Shape.slot, Shape.planeElem, ht, Nat.reduceEqDiff, Nat.reduceLeDiff, if_false]
  ring

theorem Shape.tag_cases (ht : h.tag < 8) : h.tag = 0 ∨ h.tag = 1 ∨ (2 ≤ h.tag ∧ h.tag ≤ 5) ∨ h.tag = 6 ∨ h.tag = 7 := by omega

/-- The chunk of 16 bytes in which an element lies, exchanged within its group of eight, lies in the row. -/
theorem Shape.chunk_lt (hf : h.fmt.toNat < 14) (h1 : c1 < h.n 1) {y : Nat} (hy : y < 8) : (c1 / (128 / h.width) ^^^ y) < 8 * h.rowGroups := by
  have group : c1 / (128 / h.width) / 8 < h.rowGroups := by
    unfold Shape.rowGroups Shape.width ceilDiv
    rcases elemWidth_cases hf with w | w | w | w | w <;> rw [w] <;> omega
  rw [← xor_div_eight _ hy] at group
  omega

theorem Shape.chunk_pos (hf : h.fmt.toNat < 14) : 0 < 128 / h.width := by
  unfold Shape.width
  rcases elemWidth_cases hf with w | w | w | w | w <;> rw [w] <;> decide

theorem Shape.slot_lt (hf : h.fmt.toNat < 14) (ht : h.tag < 8) (h0 : c0 < h.n 0) (h1 : c1 < h.n 1) : h.slot c0 c1 < h.slots := by
  rcases h.tag_cases ht with ht | ht | ⟨ht, ht'⟩ | ht | ht
  · rw [Shape.slot_rows ht, Shape.slots, if_pos (by omega)]
    exact radix_lt h0 h1
  · rw [Shape.slot_columns ht, Shape.slots, if_pos (by omega), Nat.mul_comm (h.n 0)]
    exact radix_lt h1 h0
  · have pos : 0 < tileSide h.tag := Nat.two_pow_pos _
    rw [Shape.slot_tiled ht ht' rfl, Shape.slots, if_neg (by omega), if_pos ht', roundUp, roundUp,
      show ∀ a b k : Nat, a * k * (b * k) = a * b * k * k by intros; ring]
    exact radix_lt (radix_lt (radix_lt (div_lt_ceilDiv pos h0) (div_lt_ceilDiv pos h1)) (Nat.mod_lt _ pos)) (Nat.mod_lt _ pos)
  · rw [Shape.slot_swizzled ht rfl, Shape.slots, if_neg (by omega), if_neg (by omega), if_pos ht]
    exact radix_lt (radix_lt h0 (Shape.chunk_lt hf h1 (Nat.mod_lt _ (by decide)))) (Nat.mod_lt _ (Shape.chunk_pos hf))
  · rw [Shape.slot_paired ht, Shape.slots, if_neg (by omega), if_neg (by omega), if_neg (by omega), Nat.mul_right_comm]
    exact radix_lt (radix_lt (div_lt_ceilDiv (by decide) h0) h1) (Nat.mod_lt _ (by decide))

theorem eq_of_div_mod {a b k : Nat} (hd : a / k = b / k) (hm : a % k = b % k) : a = b := by
  rw [← Nat.div_add_mod a k, ← Nat.div_add_mod b k, hd, hm]

theorem Shape.slot_inj (hf : h.fmt.toNat < 14) (ht : h.tag < 8) (hc0 : c0 < h.n 0) (hc1 : c1 < h.n 1) (hd0 : d0 < h.n 0) (hd1 : d1 < h.n 1)
    (e : h.slot c0 c1 = h.slot d0 d1) : c0 = d0 ∧ c1 = d1 := by
  rcases h.tag_cases ht with ht | ht | ⟨ht, ht'⟩ | ht | ht
  · rw [Shape.slot_rows ht, Shape.slot_rows ht] at e
    exact radix_inj hc1 hd1 e
  · rw [Shape.slot_columns ht, Shape.slot_columns ht] at e
    exact (radix_inj hc0 hd0 e).symm
  · have pos : 0 < tileSide h.tag := Nat.two_pow_pos _
    rw [Shape.slot_tiled ht ht' rfl, Shape.slot_tiled ht ht' rfl] at e
    obtain ⟨e, column⟩ := radix_inj (Nat.mod_lt _ pos) (Nat.mod_lt _ pos) e
    obtain ⟨e, row⟩ := radix_inj (Nat.mod_lt _ pos) (Nat.mod_lt _ pos) e
    obtain ⟨tileRow, tileColumn⟩ := radix_inj (div_lt_ceilDiv pos hc1) (div_lt_ceilDiv pos hd1) e
    exact ⟨eq_of_div_mod tileRow row, eq_of_div_mod tileColumn column⟩
  · have pos := Shape.chunk_pos hf
    rw [Shape.slot_swizzled ht rfl, Shape.slot_swizzled ht rfl] at e
    obtain ⟨e, inChunk⟩ := radix_inj (Nat.mod_lt _ pos) (Nat.mod_lt _ pos) e
    obtain ⟨rfl, chunk⟩ := radix_inj (Shape.chunk_lt hf hc1 (Nat.mod_lt _ (by decide))) (Shape.chunk_lt hf hd1 (Nat.mod_lt _ (by decide))) e
    exact ⟨rfl, eq_of_div_mod (Nat.xor_left_injective chunk) inChunk⟩
  · rw [Shape.slot_paired ht, Shape.slot_paired ht] at e
    obtain ⟨e, parity⟩ := radix_inj (Nat.mod_lt _ (by decide)) (Nat.mod_lt _ (by decide)) e
    obtain ⟨pair, column⟩ := radix_inj hc1 hd1 e
    exact ⟨eq_of_div_mod pair parity, column⟩

/-- The chunk of 16 bytes of an element of a row, and its place there in bits. -/
theorem chunk_place {w : Nat} (hw : w = 4 ∨ w = 8 ∨ w = 16 ∨ w = 32 ∨ w = 64) (c : Nat) :
    128 / w * w = 128 ∧ c * w / 8 / 16 = c / (128 / w) ∧ c * w / 8 % 16 * 8 + c * w % 8 = c % (128 / w) * w := by
  rcases hw with rfl | rfl | rfl | rfl | rfl <;> omega

/-- A plane is its places, filled up to a whole word. -/
theorem Shape.planeBits_eq (hf : h.fmt.toNat < 14) (ht : h.tag < 8) : 8 * h.planeBytes = 32 * ceilDiv (h.slots * h.width) 32 := by
  have packed (p : Nat) : 8 * (ceilDiv (p * h.width) 32 * 4) = 32 * ceilDiv (p * h.width) 32 := by ring
  rcases h.tag_cases ht with ht | ht | ⟨ht, ht'⟩ | ht | ht
  · rw [Shape.planeBytes, if_pos (by omega), Shape.slots, if_pos (by omega), packed]
  · rw [Shape.planeBytes, if_pos (by omega), Shape.slots, if_pos (by omega), packed]
  · rw [Shape.planeBytes, if_neg (by omega), if_pos ht', Shape.slots, if_neg (by omega), if_pos ht', packed]
  · obtain ⟨chunk, -, -⟩ := chunk_place (elemWidth_cases hf) 0
    have words (a : Nat) : ceilDiv (32 * a) 32 = a := by rw [ceilDiv]; omega
    rw [Shape.planeBytes, if_neg (by omega), if_neg (by omega), if_pos ht, Shape.slots, if_neg (by omega), if_neg (by omega), if_pos ht,
      Nat.mul_assoc (h.n 0 * _), Shape.width, chunk, Shape.rowGroups, Shape.width, show ∀ a b : Nat, a * (8 * b) * 128 = 32 * (a * b * 32) by intros; ring, words]
    ring
  · rw [Shape.planeBytes, if_neg (by omega), if_neg (by omega), if_neg (by omega), if_pos ht, Shape.slots, if_neg (by omega), if_neg (by omega), if_neg (by omega), packed]

/-- A plane holds a whole number of elements. -/
theorem Shape.width_dvd_planeBits (hf : h.fmt.toNat < 14) (ht : h.tag < 8) : h.width ∣ 8 * h.planeBytes := by
  rw [Shape.planeBits_eq hf ht]
  rcases elemWidth_divides (f := h.fmt) (by rintro e; simp [e] at hf) with w | w
  · rw [Shape.width, w, ceilDiv]
    omega
  · exact w.mul_right _

/-- An element's place lies in its plane. -/
theorem Shape.slot_end (hf : h.fmt.toNat < 14) (ht : h.tag < 8) (h0 : c0 < h.n 0) (h1 : c1 < h.n 1) : h.slot c0 c1 * h.width + h.width ≤ 8 * h.planeBytes := by
  have inside : (h.slot c0 c1 + 1) * h.width ≤ h.slots * h.width := Nat.mul_le_mul_right _ (h.slot_lt hf ht h0 h1)
  rw [Nat.succ_mul] at inside
  rw [Shape.planeBits_eq hf ht, ceilDiv]
  omega

/-- An element's offset in bits: the planes before its own, and its place there. -/
theorem Shape.bitOf_eq (hf : h.fmt.toNat < 14) (ht : h.tag < 8) (c : List Nat) :
    h.bitOf c = batchIndex (h.ns.drop 2) (c.drop 2) * (8 * h.planeBytes) + h.slot (c.getD 0 0) (c.getD 1 0) * h.width := by
  by_cases h6 : h.tag = 6
  · obtain ⟨chunk, place, rest⟩ := chunk_place (elemWidth_cases hf) (c.getD 1 0)
    rw [Shape.bitOf, if_neg (by omega), if_pos h6, Shape.slot_swizzled h6 rfl, Shape.rowGroups]
    simp only [Shape.width, place]
    generalize 128 / elemWidth h.fmt = m at chunk rest ⊢
    generalize batchIndex _ _ = batch, h.planeBytes = plane, ceilDiv _ 1024 = groups, (c.getD 1 0 / m ^^^ c.getD 0 0 % 8) = y
    calc _ = batch * (8 * plane) + (c.getD 0 0 * (8 * groups) + y) * 128 + (c.getD 1 0 * elemWidth h.fmt / 8 % 16 * 8 + c.getD 1 0 * elemWidth h.fmt % 8) := by ring
      _ = _ := by rw [rest, ← chunk]; ring
  · rw [Shape.bitOf, if_pos (by omega), Shape.slot, if_neg h6]
    ring

end
end ElementPlaces
end Sys2Proof.Machine

namespace Sys2Proof.Machine

section TileElements

/-! ### Elements of a tile (05 R96 to R99) -/

variable {tl : Tile} {x y : Coord} {tag : Nat}

theorem Tile.inside_iff : tl.inside x = true ↔ x.c0 < tl.n0.toNat ∧ x.c1 < tl.n1.toNat ∧ x.c2 < tl.n2.toNat ∧ x.c3 < tl.n3.toNat := by
  simp [Tile.inside, Shape.inside, Tile.shape, Tile.shapeAs, Shape.n, Coord.list, List.range_succ]

theorem Tile.mem_coords : x ∈ tl.coords ↔ tl.inside x = true := by
  rw [Tile.inside_iff]
  simp only [Tile.coords, List.mem_flatMap, List.mem_map, List.mem_range]
  constructor
  · rintro ⟨c3, h3, c2, h2, c0, h0, c1, h1, rfl⟩
    exact ⟨h0, h1, h2, h3⟩
  · rintro ⟨h0, h1, h2, h3⟩
    exact ⟨_, h3, _, h2, _, h0, _, h1, rfl⟩

/-- The bit offset of an element in a storage of a tag below 8. -/
theorem Tile.bitOf_eq (hf : tl.fmt.toNat < 14) (ht : tag < 8) (x : Coord) : (tl.shapeAs tag).bitOf x.list =
    (x.c3 * tl.n2.toNat + x.c2) * (8 * (tl.shapeAs tag).planeBytes) + (tl.shapeAs tag).slot x.c0 x.c1 * tl.width := by
  rw [Shape.bitOf_eq hf ht, show batchIndex ((tl.shapeAs tag).ns.drop 2) (x.list.drop 2) = x.c3 * tl.n2.toNat + x.c2 from
    show x.c2 + tl.n2.toNat * (x.c3 + tl.n3.toNat * 0) = _ by ring]
  rfl

theorem Tile.width_dvd_bitOf (hf : tl.fmt.toNat < 14) (ht : tag < 8) (x : Coord) : tl.width ∣ (tl.shapeAs tag).bitOf x.list := by
  rw [Tile.bitOf_eq hf ht]
  exact dvd_add ((Shape.width_dvd_planeBits (h := tl.shapeAs tag) hf ht).mul_left _) (dvd_mul_left _ _)

theorem Tile.width_pos (hf : tl.fmt.toNat < 14) : 0 < tl.width := by
  rcases elemWidth_cases hf with w | w | w | w | w <;> rw [Tile.width, w] <;> decide

/-- No two elements of a tile lie in one place. -/
theorem Tile.bitOf_inj (hf : tl.fmt.toNat < 14) (ht : tag < 8) (hx : tl.inside x = true) (hy : tl.inside y = true)
    (e : (tl.shapeAs tag).bitOf x.list = (tl.shapeAs tag).bitOf y.list) : x = y := by
  obtain ⟨hx0, hx1, hx2, hx3⟩ := Tile.inside_iff.1 hx
  obtain ⟨hy0, hy1, hy2, hy3⟩ := Tile.inside_iff.1 hy
  have pos := Tile.width_pos hf
  have inPlane (c : Coord) (h0 : c.c0 < tl.n0.toNat) (h1 : c.c1 < tl.n1.toNat) :
      (tl.shapeAs tag).slot c.c0 c.c1 * tl.width < 8 * (tl.shapeAs tag).planeBytes :=
    Nat.lt_of_lt_of_le (Nat.lt_add_of_pos_right pos) (Shape.slot_end (h := tl.shapeAs tag) hf ht h0 h1)
  rw [Tile.bitOf_eq hf ht, Tile.bitOf_eq hf ht] at e
  obtain ⟨batch, place⟩ := radix_inj (inPlane x hx0 hx1) (inPlane y hy0 hy1) e
  obtain ⟨e3, e2⟩ := radix_inj hx2 hy2 batch
  obtain ⟨e0, e1⟩ := Shape.slot_inj (h := tl.shapeAs tag) hf ht hx0 hx1 hy0 hy1 (Nat.eq_of_mul_eq_mul_right pos place)
  cases x; cases y; cases e0; cases e1; cases e2; cases e3; rfl

/-- An element lies in its storage. -/
theorem Tile.bitOf_lt (hf : tl.fmt.toNat < 14) (ht : tag < 8) (hx : tl.inside x = true) : (tl.shapeAs tag).bitOf x.list < 8 * (tl.shapeAs tag).size := by
  obtain ⟨h0, h1, h2, h3⟩ := Tile.inside_iff.1 hx
  have inPlane := Nat.lt_of_lt_of_le (Nat.lt_add_of_pos_right (Tile.width_pos hf)) (Shape.slot_end (h := tl.shapeAs tag) hf ht h0 h1)
  rw [Tile.bitOf_eq hf ht, show (tl.shapeAs tag).size = tl.n3.toNat * tl.n2.toNat * (tl.shapeAs tag).planeBytes from
    show 1 * tl.n2.toNat * tl.n3.toNat * _ = _ by ring, Nat.mul_left_comm 8]
  exact radix_lt (radix_lt h3 h2) inPlane

/-- Blocks of a block-plane layout begin at whole words. -/
theorem Shape.word_dvd_bitOf {h : Shape} (ht : 8 ≤ h.tag) (c : List Nat) : 32 ∣ h.bitOf c := by
  have plane : 4 ∣ h.planeBytes := by
    rw [Shape.planeBytes, if_neg (by omega), if_neg (by omega), if_neg (by omega), if_neg (by omega)]
    exact dvd_mul_left _ _
  simp only [Shape.bitOf, if_neg (show ¬(h.tag < 6 ∨ h.tag = 7) by omega), if_neg (show ¬h.tag = 6 by omega)]
  exact Nat.mul_dvd_mul (a := 4) (c := 8) (dvd_add (plane.mul_left _) (dvd_mul_left _ _)) dvd_rfl

/-- Whatever the tag, an element narrower than a word lies inside one. -/
theorem Tile.bitOf_fits (h14 : tl.fmt ≠ 14#4) (h15 : tl.fmt ≠ 15#4) (x : Coord) (tag : Nat) :
    tl.width = 64 ∨ tl.width ∣ 32 ∧ tl.width ∣ (tl.shapeAs tag).bitOf x.list := by
  refine (elemWidth_divides h15).imp id fun narrow => ⟨narrow, ?_⟩
  by_cases ht : tag < 8
  · have hf : tl.fmt.toNat < 14 := by
      simp only [ne_eq, ← BitVec.toNat_inj, BitVec.toNat_ofNat] at h14 h15
      omega
    exact Tile.width_dvd_bitOf hf ht x
  · exact narrow.trans (Shape.word_dvd_bitOf (h := tl.shapeAs tag) (Nat.le_of_not_lt ht) _)

end TileElements

section TileWrites

/-! ### Writes of elements and of tags (05 R98, R101; 18 R358) -/

variable (tl : Tile) (c : Coord) (blk : Option Nat)

/-- An element in the new storage is one of a tile under conversion. -/
theorem Tile.conv_of_bitAddr {tl : Tile} {c : Coord} {blk : Option Nat} (h : (tl.bitAddr c blk).1 = true) : tl.conv.isSome = true := by
  unfold Tile.bitAddr at h
  cases hc : tl.conv with
  | none => simp [hc] at h
  | some v => rfl

/-! Replacing a storage of a tile keeps the other parts, and the places of its elements. -/

section
variable (new : Bool) (m : SMap 32) (l : List Nat)

@[simp] theorem Tile.bitAddr_putWords : (tl.putWords new m).bitAddr c blk = tl.bitAddr c blk := by
  cases tl with | mk _ _ _ _ _ _ _ _ _ _ _ _ _ _ _ _ _ _ conv => cases conv <;> cases new <;> rfl
@[simp] theorem Tile.bitAddr_putFull : (tl.putFull new l).bitAddr c blk = tl.bitAddr c blk := by
  cases tl with | mk _ _ _ _ _ _ _ _ _ _ _ _ _ _ _ _ _ _ conv => cases conv <;> cases new <;> rfl
@[simp] theorem Tile.bitAddr_putPoison : (tl.putPoison new l).bitAddr c blk = tl.bitAddr c blk := by
  cases tl with | mk _ _ _ _ _ _ _ _ _ _ _ _ _ _ _ _ _ _ conv => cases conv <;> cases new <;> rfl

@[simp] theorem Tile.accWidth_putWords : (tl.putWords new m).accWidth = tl.accWidth := by cases new <;> rfl
@[simp] theorem Tile.accWidth_putFull : (tl.putFull new l).accWidth = tl.accWidth := by cases new <;> rfl
@[simp] theorem Tile.accWidth_putPoison : (tl.putPoison new l).accWidth = tl.accWidth := by cases new <;> rfl

@[simp] theorem Tile.wordsIn_putFull (k : Bool) : (tl.putFull new l).wordsIn k = tl.wordsIn k := by
  cases tl with | mk _ _ _ _ _ _ _ _ _ _ _ _ _ _ _ _ _ _ conv => cases conv <;> cases new <;> rfl
@[simp] theorem Tile.wordsIn_putPoison (k : Bool) : (tl.putPoison new l).wordsIn k = tl.wordsIn k := by
  cases tl with | mk _ _ _ _ _ _ _ _ _ _ _ _ _ _ _ _ _ _ conv => cases conv <;> cases new <;> rfl
@[simp] theorem Tile.fullIn_putWords (k : Bool) : (tl.putWords new m).fullIn k = tl.fullIn k := by
  cases tl with | mk _ _ _ _ _ _ _ _ _ _ _ _ _ _ _ _ _ _ conv => cases conv <;> cases new <;> rfl
@[simp] theorem Tile.fullIn_putPoison (k : Bool) : (tl.putPoison new l).fullIn k = tl.fullIn k := by
  cases tl with | mk _ _ _ _ _ _ _ _ _ _ _ _ _ _ _ _ _ _ conv => cases conv <;> cases new <;> rfl

variable {tl new} (there : new = true → tl.conv.isSome = true)
include there

theorem Tile.wordsIn_putWords : (tl.putWords new m).wordsIn new = m := by
  cases new with
  | false => rfl
  | true =>
    obtain ⟨v, hv⟩ := Option.isSome_iff_exists.1 (there rfl)
    simp [Tile.wordsIn, Tile.putWords, hv]
theorem Tile.fullIn_putFull : (tl.putFull new l).fullIn new = l := by
  cases new with
  | false => rfl
  | true =>
    obtain ⟨v, hv⟩ := Option.isSome_iff_exists.1 (there rfl)
    simp [Tile.fullIn, Tile.putFull, hv]
theorem Tile.poisonIn_putPoison : (tl.putPoison new l).poisonIn new = l := by
  cases new with
  | false => rfl
  | true =>
    obtain ⟨v, hv⟩ := Option.isSome_iff_exists.1 (there rfl)
    simp [Tile.poisonIn, Tile.putPoison, hv]
theorem Tile.conv_putWords : new = true → (tl.putWords new m).conv.isSome = true := by
  rintro rfl
  simpa [Tile.putWords] using there rfl
end

theorem Tile.write_eq (v : Nat) : tl.write c blk v =
    let p := tl.bitAddr c blk
    let u := tl.putWords p.1 (putBits (tl.wordsIn p.1) p.2 tl.accWidth v)
    if tl.accWidth < 32 then u else u.putPoison p.1 ((u.poisonIn p.1).filter (fun w => !(wordsOf p.2 tl.accWidth).contains w)) := by
  simp only [Tile.write, Tile.accWidth_putWords]

@[simp] theorem Tile.bitAddr_write (v : Nat) (y : Coord) (b : Option Nat) : (tl.write c blk v).bitAddr y b = tl.bitAddr y b := by
  rw [Tile.write_eq]
  dsimp only
  split <;> simp

@[simp] theorem Tile.accWidth_write (v : Nat) : (tl.write c blk v).accWidth = tl.accWidth := by
  rw [Tile.write_eq]
  dsimp only
  split <;> simp

@[simp] theorem Tile.fullIn_write (v : Nat) (k : Bool) : (tl.write c blk v).fullIn k = tl.fullIn k := by
  rw [Tile.write_eq]
  dsimp only
  split <;> simp

theorem Tile.wordsIn_write (v : Nat) :
    (tl.write c blk v).wordsIn (tl.bitAddr c blk).1 = putBits (tl.wordsIn (tl.bitAddr c blk).1) (tl.bitAddr c blk).2 tl.accWidth v := by
  rw [Tile.write_eq]
  dsimp only
  split
  · exact Tile.wordsIn_putWords _ Tile.conv_of_bitAddr
  · rw [Tile.wordsIn_putPoison]
    exact Tile.wordsIn_putWords _ Tile.conv_of_bitAddr

theorem Tile.write_frame (v : Nat) : { tl.write c blk v with words := tl.words, poison := tl.poison, conv := tl.conv } = tl := by
  rw [Tile.write_eq]
  dsimp only
  generalize (tl.bitAddr c blk).1 = new
  split <;> cases new <;> rfl

/-- What is written whole loses its poison. -/
theorem Tile.poisoned_write {tl : Tile} (h : 32 ≤ tl.accWidth) (v : Nat) : (tl.write c blk v).poisoned c blk = false := by
  unfold Tile.poisoned
  simp only [Tile.bitAddr_write, Tile.accWidth_write]
  rw [Tile.write_eq]
  dsimp only
  rw [if_neg (Nat.not_lt.2 h), Tile.poisonIn_putPoison _ (Tile.conv_putWords _ Tile.conv_of_bitAddr)]
  simp +contextual

theorem Tile.isFull_write (v : Nat) (y : Coord) (b : Option Nat) : (tl.write c blk v).isFull y b = tl.isFull y b := by
  simp only [Tile.isFull, Tile.bitAddr_write, Tile.accWidth_write, Tile.fullIn_write]

/-- An element reads as written. -/
theorem Tile.read_write {tl : Tile} (h14 : tl.fmt ≠ 14#4) (h15 : tl.fmt ≠ 15#4) (c : Coord) (v : Nat) : (tl.write c none v).read c none = v % 2 ^ tl.width := by
  have fits : tl.width = 64 ∨ tl.width ∣ 32 ∧ tl.width ∣ (tl.bitAddr c none).2 := by
    unfold Tile.bitAddr
    cases tl.conv with
    | none => exact Tile.bitOf_fits h14 h15 c _
    | some v =>
      dsimp only
      split
      · exact Tile.bitOf_fits h14 h15 c _
      · exact Tile.bitOf_fits h14 h15 c _
  simp only [Tile.read, Tile.bitAddr_write, Tile.accWidth_write, Tile.wordsIn_write]
  rw [Tile.accWidth_eq]
  exact bitsOf_putBits_same _ fits v

theorem Tile.read_setTag (b : Bool) (y : Coord) (i : Option Nat) : (tl.setTag c blk b).read y i = tl.read y i := by
  unfold Tile.setTag
  dsimp only
  split <;> simp only [Tile.read, Tile.bitAddr_putFull, Tile.accWidth_putFull, Tile.wordsIn_putFull]

theorem Tile.isFull_setTag : (tl.setTag c blk true).isFull c blk = true := by
  simp only [Tile.setTag, if_true, Tile.isFull, Tile.bitAddr_putFull, Tile.accWidth_putFull, Tile.fullIn_putFull _ Tile.conv_of_bitAddr]
  simp only [List.all_eq_true, List.contains_iff_mem, mem_foldl_natInsert]
  exact fun w hw => .inl hw

theorem Tile.isEmpty_setTag : (tl.setTag c blk false).isEmpty c blk = true := by
  simp only [Tile.setTag, Bool.false_eq_true, if_false, Tile.isEmpty, Tile.bitAddr_putFull, Tile.accWidth_putFull, Tile.fullIn_putFull _ Tile.conv_of_bitAddr]
  simp +contextual

end TileWrites
end Sys2Proof.Machine

namespace Sys2Proof.Machine

section LayoutEngine

/-! ### One block of a conversion (05 R113, R114; 12 R272) -/

/-- The marks of `old` (tags that are full, or poison) move with the words of an element: each pair is its old word and its new one. -/
def movedMarks (old : List Nat) (ws : List (Nat × Nat)) (new : List Nat) : List Nat :=
  ws.foldl (fun p w => if old.contains w.1 then natInsert w.2 p else p) new

/-- One element of a tile goes over to the new storage. -/
def Tile.moveElement (tl : Tile) (v : Conv) (c : Coord) : Conv :=
  let nb := tl.newShape.bitOf c.list
  let ob := tl.shape.bitOf c.list
  let ws := (wordsOf ob tl.width).zip (wordsOf nb tl.width)
  { v with words := putBits v.words nb tl.width (bitsOf tl.words ob tl.width), full := if tl.tags then movedMarks tl.full ws v.full else v.full
           poison := movedMarks tl.poison ws v.poison }

/-- The elements of a block of the new storage. -/
def Tile.blockCoords (tl : Tile) (j : Nat) : List Coord := tl.coords.filter (fun c => tl.newShape.bitOf c.list / 32768 == j)

/-- The conversion after its next block. -/
def Tile.movedBlock (tl : Tile) (v : Conv) : Conv := (tl.blockCoords v.done).foldl tl.moveElement { v with done := v.done + 1 }

/-- The tile when its conversion has ended: the new storage is its storage. -/
def Tile.converted (tl : Tile) (v : Conv) : Tile := { tl with layout := v.target, words := v.words, full := v.full, poison := v.poison, conv := none }

variable {tl : Tile} {v : Conv} {x y : Coord}

theorem Tile.convertBlock_eq (h : tl.conv = some v) : tl.convertBlock =
    if v.done + 1 < tl.newBlocks then { tl with conv := some (tl.movedBlock v) }
    else tl.converted (tl.movedBlock v) := by
  rw [Tile.convertBlock, h]
  rfl

theorem mem_movedMarks {old : List Nat} {n : Nat} : ∀ {ws : List (Nat × Nat)} {new : List Nat},
    n ∈ movedMarks old ws new ↔ n ∈ new ∨ ∃ o, (o, n) ∈ ws ∧ o ∈ old
  | [], new => by simp [movedMarks]
  | (a, b) :: ws, new => by
    rw [movedMarks, List.foldl_cons]
    refine (mem_movedMarks (ws := ws)).trans ?_
    by_cases ha : a ∈ old
    · simp only [List.contains_iff_mem.2 ha, if_true, mem_natInsert, List.mem_cons, Prod.mk.injEq]
      grind
    · simp only [List.contains_iff_mem, ha, if_false, List.mem_cons, Prod.mk.injEq]
      grind

theorem Tile.foldl_moveElement_fixed (cs : List Coord) : ∀ v : Conv, (cs.foldl tl.moveElement v).target = v.target ∧ (cs.foldl tl.moveElement v).done = v.done := by
  induction cs with
  | nil => exact fun v => ⟨rfl, rfl⟩
  | cons c cs ih => exact fun v => ih (tl.moveElement v c)

theorem Tile.movedBlock_target : (tl.movedBlock v).target = v.target := (Tile.foldl_moveElement_fixed _ _).1
theorem Tile.movedBlock_done : (tl.movedBlock v).done = v.done + 1 := (Tile.foldl_moveElement_fixed _ _).2

theorem Tile.mem_blockCoords {j : Nat} (hx : tl.inside x = true) : x ∈ tl.blockCoords j ↔ tl.newShape.bitOf x.list / 32768 = j := by
  simp [Tile.blockCoords, Tile.mem_coords, hx]

theorem Tile.inside_of_mem_blockCoords {j : Nat} (h : x ∈ tl.blockCoords j) : tl.inside x = true := Tile.mem_coords.1 (List.mem_filter.1 h).1

/-! What the new storage holds of an element. -/

section
variable (hf : tl.fmt.toNat < 14) (ht : tl.tagNow.toNat < 8) (hx : tl.inside x = true)
include hf ht hx

theorem Tile.moveElement_bits (hy : tl.inside y = true) (v : Conv) : bitsOf (tl.moveElement v y).words (tl.newShape.bitOf x.list) tl.width =
    if x = y then bitsOf tl.words (tl.shape.bitOf x.list) tl.width else bitsOf v.words (tl.newShape.bitOf x.list) tl.width := by
  have wide := elemWidth_divides (f := tl.fmt) (by rintro e; simp [e] at hf)
  split
  · next same =>
    subst same
    exact (bitsOf_putBits_same _ (wide.imp id fun n => ⟨n, Tile.width_dvd_bitOf hf ht x⟩) _).trans (Nat.mod_eq_of_lt (bitsOf_lt _ _ _))
  · next other => exact bitsOf_putBits_other _ wide (Tile.width_dvd_bitOf hf ht x) (Tile.width_dvd_bitOf hf ht y) (fun e => other (Tile.bitOf_inj hf ht hx hy e)) _

theorem Tile.foldl_moveElement_bits : ∀ (cs : List Coord), (∀ c, c ∈ cs → tl.inside c = true) → ∀ v : Conv,
    bitsOf (cs.foldl tl.moveElement v).words (tl.newShape.bitOf x.list) tl.width =
      if x ∈ cs then bitsOf tl.words (tl.shape.bitOf x.list) tl.width else bitsOf v.words (tl.newShape.bitOf x.list) tl.width
  | [], _, v => rfl
  | c :: cs, all, v => by
    rw [List.foldl_cons, Tile.foldl_moveElement_bits cs (fun d hd => all d (List.mem_cons_of_mem c hd)),
      Tile.moveElement_bits hf ht hx (all c List.mem_cons_self)]
    by_cases later : x ∈ cs <;> by_cases same : x = c <;> simp [later, same]

theorem Tile.movedBlock_bits : bitsOf (tl.movedBlock v).words (tl.newShape.bitOf x.list) tl.width =
    if tl.newShape.bitOf x.list / 32768 = v.done then bitsOf tl.words (tl.shape.bitOf x.list) tl.width
    else bitsOf v.words (tl.newShape.bitOf x.list) tl.width := by
  rw [Tile.movedBlock, Tile.foldl_moveElement_bits hf ht hx _ (fun c hc => Tile.inside_of_mem_blockCoords hc)]
  simp only [Tile.mem_blockCoords hx]

variable (tagged : tl.tags = true) (wide : 32 ≤ tl.width) {k : Nat} (hk : k < elemWords tl.width)
include tagged wide hk

theorem Tile.moveElement_full (hy : tl.inside y = true) (v : Conv) : tl.newShape.bitOf x.list / 32 + k ∈ (tl.moveElement v y).full ↔
    tl.newShape.bitOf x.list / 32 + k ∈ v.full ∨ x = y ∧ tl.shape.bitOf x.list / 32 + k ∈ tl.full := by
  have divides := elemWidth_divides (f := tl.fmt) (by rintro e; simp [e] at hf)
  simp only [Tile.moveElement, tagged, if_true, mem_movedMarks, mem_zip_wordsOf]
  refine or_congr_right ⟨?_, ?_⟩
  · rintro ⟨o, ⟨j, hj, rfl, same⟩, full⟩
    obtain ⟨place, rfl⟩ := word_injective divides wide (Tile.width_dvd_bitOf hf ht y) (Tile.width_dvd_bitOf hf ht x) hj hk same
    obtain rfl := Tile.bitOf_inj hf ht hy hx place
    exact ⟨rfl, full⟩
  · rintro ⟨rfl, full⟩
    exact ⟨_, ⟨k, hk, rfl, rfl⟩, full⟩

theorem Tile.foldl_moveElement_full : ∀ (cs : List Coord), (∀ c, c ∈ cs → tl.inside c = true) → ∀ v : Conv,
    (tl.newShape.bitOf x.list / 32 + k ∈ (cs.foldl tl.moveElement v).full ↔
      tl.newShape.bitOf x.list / 32 + k ∈ v.full ∨ x ∈ cs ∧ tl.shape.bitOf x.list / 32 + k ∈ tl.full)
  | [], _, v => by simp
  | c :: cs, all, v => by
    rw [List.foldl_cons, Tile.foldl_moveElement_full cs (fun d hd => all d (List.mem_cons_of_mem c hd)),
      Tile.moveElement_full hf ht hx tagged wide hk (all c List.mem_cons_self), or_assoc, ← or_and_right, List.mem_cons]

theorem Tile.movedBlock_full : tl.newShape.bitOf x.list / 32 + k ∈ (tl.movedBlock v).full ↔
    tl.newShape.bitOf x.list / 32 + k ∈ v.full ∨ tl.newShape.bitOf x.list / 32768 = v.done ∧ tl.shape.bitOf x.list / 32 + k ∈ tl.full := by
  rw [Tile.movedBlock, Tile.foldl_moveElement_full hf ht hx tagged wide hk _ (fun c hc => Tile.inside_of_mem_blockCoords hc)]
  simp only [Tile.mem_blockCoords hx]
end

/-! What is read of an element before, during and after. -/

/-- The tag of word `k` of an element is full. -/
def Tile.wordFull (tl : Tile) (x : Coord) (k : Nat) : Prop := (tl.bitAddr x none).2 / 32 + k ∈ tl.fullIn (tl.bitAddr x none).1

theorem Tile.isFull_iff : tl.isFull x none = true ↔ ∀ k < elemWords tl.width, tl.wordFull x k := by
  simp only [Tile.isFull, List.all_eq_true, List.contains_iff_mem, mem_wordsOf, Tile.accWidth_eq, Tile.wordFull]
  exact ⟨fun h k hk => h _ ⟨k, hk, rfl⟩, by rintro h _ ⟨k, hk, rfl⟩; exact h k hk⟩

theorem Tile.isEmpty_iff : tl.isEmpty x none = true ↔ ∀ k < elemWords tl.width, ¬tl.wordFull x k := by
  simp only [Tile.isEmpty, List.all_eq_true, Bool.not_eq_true', Bool.eq_false_iff, ne_eq, List.contains_iff_mem, mem_wordsOf, Tile.accWidth_eq, Tile.wordFull]
  exact ⟨fun h k hk => h _ ⟨k, hk, rfl⟩, by rintro h _ ⟨k, hk, rfl⟩; exact h k hk⟩

theorem Tile.isFull_congr {tl tl' : Tile} (hw : tl'.width = tl.width) (h : ∀ k < elemWords tl.width, tl'.wordFull x k ↔ tl.wordFull x k) :
    tl'.isFull x none = tl.isFull x none := by
  rw [Bool.eq_iff_iff, Tile.isFull_iff, Tile.isFull_iff, hw]
  exact forall₂_congr h

theorem Tile.isEmpty_congr {tl tl' : Tile} (hw : tl'.width = tl.width) (h : ∀ k < elemWords tl.width, tl'.wordFull x k ↔ tl.wordFull x k) :
    tl'.isEmpty x none = tl.isEmpty x none := by
  rw [Bool.eq_iff_iff, Tile.isEmpty_iff, Tile.isEmpty_iff, hw]
  exact forall₂_congr fun k hk => not_congr (h k hk)

/-- In a tile that is not under conversion. -/
theorem Tile.read_of_still (h : tl.conv = none) (x : Coord) : tl.read x none = bitsOf tl.words (tl.shape.bitOf x.list) tl.width := by
  rw [Tile.read, Tile.bitAddr, h, Tile.accWidth_eq]
  rfl

theorem Tile.wordFull_of_still (h : tl.conv = none) (x : Coord) (k : Nat) : tl.wordFull x k ↔ tl.shape.bitOf x.list / 32 + k ∈ tl.full := by
  rw [Tile.wordFull, Tile.bitAddr, h]
  rfl

/-- In a tile under conversion: the blocks converted so far are read in the new storage. -/
theorem Tile.bitAddr_of_conv (h : tl.conv = some v) (x : Coord) : tl.bitAddr x none =
    if tl.newShape.bitOf x.list / 32768 < v.done then (true, tl.newShape.bitOf x.list) else (false, tl.shape.bitOf x.list) := by
  rw [Tile.bitAddr, h]
  rfl

theorem Tile.read_of_conv (h : tl.conv = some v) (x : Coord) : tl.read x none =
    if tl.newShape.bitOf x.list / 32768 < v.done then bitsOf v.words (tl.newShape.bitOf x.list) tl.width else bitsOf tl.words (tl.shape.bitOf x.list) tl.width := by
  rw [Tile.read, Tile.bitAddr_of_conv h, Tile.accWidth_eq]
  by_cases done : tl.newShape.bitOf x.list / 32768 < v.done <;> simp [done, Tile.wordsIn, h]

theorem Tile.wordFull_of_conv (h : tl.conv = some v) (x : Coord) (k : Nat) : tl.wordFull x k ↔
    if tl.newShape.bitOf x.list / 32768 < v.done then tl.newShape.bitOf x.list / 32 + k ∈ v.full else tl.shape.bitOf x.list / 32 + k ∈ tl.full := by
  rw [Tile.wordFull, Tile.bitAddr_of_conv h]
  split
  · simp [Tile.fullIn, h]
  · rfl

section
variable (h : tl.conv = some v) (hf : tl.fmt.toNat < 14) (ht : v.target.toNat < 8) (hx : tl.inside x = true)
include h

theorem Tile.movedBlock_tag : (tl.movedBlock v).target = tl.tagNow := by rw [Tile.movedBlock_target, Tile.tagNow, h]

theorem Tile.newShape_movedBlock : ({ tl with conv := some (tl.movedBlock v) } : Tile).newShape = tl.newShape :=
  congrArg (fun g : BitVec 4 => tl.shapeAs g.toNat) (Tile.movedBlock_tag h)

theorem Tile.shape_converted : (tl.converted (tl.movedBlock v)).shape = tl.newShape :=
  congrArg (fun g : BitVec 4 => tl.shapeAs g.toNat) (Tile.movedBlock_tag h)

include ht
theorem Tile.tagNow_lt : tl.tagNow.toNat < 8 := by rwa [Tile.tagNow, h]

include hf hx

/-- An element's block is one of the blocks of the new storage. -/
theorem Tile.block_lt : tl.newShape.bitOf x.list / 32768 < tl.newBlocks := by
  have := Tile.bitOf_lt hf (Tile.tagNow_lt h ht) hx
  unfold Tile.newBlocks ceilDiv Tile.newShape
  omega

/-- With one more block counted as converted, every element has the value it had. -/
theorem Tile.read_movedBlock : (if tl.newShape.bitOf x.list / 32768 < v.done + 1 then bitsOf (tl.movedBlock v).words (tl.newShape.bitOf x.list) tl.width
    else bitsOf tl.words (tl.shape.bitOf x.list) tl.width) = tl.read x none := by
  rw [Tile.read_of_conv h, Tile.movedBlock_bits hf (Tile.tagNow_lt h ht) hx]
  rcases Nat.lt_trichotomy (tl.newShape.bitOf x.list / 32768) v.done with before | now | after
  · rw [if_pos (by omega), if_neg (by omega), if_pos before]
  · rw [if_pos (by omega), if_pos now, if_neg (by omega)]
  · rw [if_neg (by omega), if_neg (by omega)]

/-- And every word the tag it had. -/
theorem Tile.wordFull_movedBlock (tagged : tl.tags = true) (wide : 32 ≤ tl.width) (low : ∀ w, w ∈ v.full → w < 1024 * v.done) {k : Nat}
    (hk : k < elemWords tl.width) : (if tl.newShape.bitOf x.list / 32768 < v.done + 1 then tl.newShape.bitOf x.list / 32 + k ∈ (tl.movedBlock v).full
      else tl.shape.bitOf x.list / 32 + k ∈ tl.full) ↔ tl.wordFull x k := by
  rw [Tile.wordFull_of_conv h, Tile.movedBlock_full hf (Tile.tagNow_lt h ht) hx tagged wide hk]
  rcases Nat.lt_trichotomy (tl.newShape.bitOf x.list / 32768) v.done with before | now | after
  · rw [if_pos (by omega), if_pos before]
    exact or_iff_left fun moved => by omega
  · rw [if_pos (by omega), if_neg (by omega)]
    have new : tl.newShape.bitOf x.list / 32 + k ∉ v.full := fun old => by have := low _ old; omega
    simp only [new, now, false_or, true_and]
  · rw [if_neg (by omega), if_neg (by omega)]

theorem Tile.convertBlock_read : tl.convertBlock.read x none = tl.read x none := by
  rw [Tile.convertBlock_eq h, ← Tile.read_movedBlock h hf ht hx]
  split
  · rw [Tile.read_of_conv rfl, Tile.movedBlock_done, Tile.newShape_movedBlock h]
    rfl
  · next last =>
    have := Tile.block_lt h hf ht hx
    rw [Tile.read_of_still rfl, if_pos (by omega), Tile.shape_converted h]
    rfl

theorem Tile.convertBlock_wordFull (tagged : tl.tags = true) (wide : 32 ≤ tl.width) (low : ∀ w, w ∈ v.full → w < 1024 * v.done) {k : Nat}
    (hk : k < elemWords tl.width) : tl.convertBlock.wordFull x k ↔ tl.wordFull x k := by
  rw [Tile.convertBlock_eq h, ← Tile.wordFull_movedBlock h hf ht hx tagged wide low hk]
  split
  · rw [Tile.wordFull_of_conv rfl, Tile.movedBlock_done, Tile.newShape_movedBlock h]
    rfl
  · next last =>
    have := Tile.block_lt h hf ht hx
    rw [Tile.wordFull_of_still rfl, if_pos (by omega), Tile.shape_converted h]
    exact Iff.rfl
end

theorem Tile.convertBlock_width : tl.convertBlock.width = tl.width := by
  unfold Tile.convertBlock
  split
  · rfl
  · dsimp only
    split <;> rfl

end LayoutEngine
end Sys2Proof.Machine

namespace Sys2Proof.Machine

section TilesOfCrews

/-! ### Tiles and teams of a crew after an update (02 R30; 05 R93) -/

theorem modTeam_eq {s : State} {r : TeamRef} {c : Crew} {t : Team} (h : s.teamAt r = some (c, t)) (f : Team → Team) : s.modTeam r f = s.putTeam r (f t) := by
  rw [State.modTeam, h]

theorem tileStatus_eq {s : State} {r : TeamRef} {c : Crew} {t : Team} (h : s.teamAt r = some (c, t)) (d : SReg) (code : Nat) :
    s.tileStatus r d code = s.putTeam r (t.status d code 8) := modTeam_eq h _

theorem teamAt_tileStatus {s : State} {r : TeamRef} {c : Crew} {t : Team} (h : s.teamAt r = some (c, t)) (d : SReg) (code : Nat) :
    (s.tileStatus r d code).teamAt r = some (c.putTeam r.team (t.status d code 8), t.status d code 8) := teamAt_modTeam h _

/-- A change of a crew that leaves its teams. -/
theorem teamAt_modCrew {s : State} {r : TeamRef} {c : Crew} {t : Team} (h : s.teamAt r = some (c, t)) {f : Crew → Crew} (hf : (f c).teams = c.teams) :
    (s.modCrew r.crew f).teamAt r = some (f c, t) := by
  obtain ⟨hcrew, hteam⟩ := teamAt_eq.1 h
  exact teamAt_eq.2 ⟨crewAt_modCrew hcrew f, hf ▸ hteam⟩

theorem teamAt_putTile {s : State} {r : TeamRef} {c : Crew} {t : Team} (h : s.teamAt r = some (c, t)) (tl : Tile) :
    (s.putTile r.crew tl).teamAt r = some (c.putTile tl, t) := teamAt_modCrew (f := fun c => c.putTile tl) h rfl

theorem Crew.uid_of_tileUid {c : Crew} {u : Nat} {tl : Tile} (h : c.tileUid u = some tl) : tl.uid = u := by
  have := List.find?_some h
  simpa using this

/-- The tile that a uid names after a tile of that uid is put. -/
theorem Crew.tileUid_putTile {c : Crew} {u : Nat} {tl tl' : Tile} (h : c.tileUid u = some tl) (same : tl'.uid = u) : (c.putTile tl').tileUid u = some tl' := by
  have named : ((fun t : Tile => t.uid == u) ∘ fun x => if x.uid = tl'.uid then tl' else x) = fun t => t.uid == u := by
    funext x
    by_cases hx : x.uid = u <;> simp [same, hx]
  have uid := Crew.uid_of_tileUid h
  rw [Crew.tileUid] at h
  rw [Crew.tileUid, Crew.putTile, List.find?_map, named, h, Option.map_some, if_pos (uid.trans same.symm)]

theorem tileAt_of {s : State} {r : TeamRef} {c : Crew} {t : Team} (h : s.teamAt r = some (c, t)) (u : Nat) : s.tileAt r.crew u = c.tileUid u := by
  rw [State.tileAt, crewAt_of h]

theorem tileAt_putTile {s : State} {r : TeamRef} {c : Crew} {t : Team} (h : s.teamAt r = some (c, t)) {u : Nat} {tl tl' : Tile}
    (hu : c.tileUid u = some tl) (same : tl'.uid = u) : (s.putTile r.crew tl').tileAt r.crew u = some tl' := by
  rw [tileAt_of (teamAt_putTile h tl'), Crew.tileUid_putTile hu same]

/-- A change of a team leaves the tiles of its crew. -/
theorem tileAt_modTeam {s : State} {r : TeamRef} {c : Crew} {t : Team} (h : s.teamAt r = some (c, t)) (f : Team → Team) (u : Nat) :
    (s.modTeam r f).tileAt r.crew u = s.tileAt r.crew u := by
  rw [tileAt_of (teamAt_modTeam h f), tileAt_of h]
  rfl

@[simp] theorem putTile_mem (s : State) (k : Nat) (tl : Tile) : (s.putTile k tl).mem = s.mem := by
  unfold State.putTile State.modCrew
  split <;> rfl

@[simp] theorem tileStatus_mem (s : State) (r : TeamRef) (d : SReg) (code : Nat) : (s.tileStatus r d code).mem = s.mem := State.modTeam_mem s r _

/-- Memory that is the same list reads the same. -/
theorem sameBytes_of_mem {s s' : State} (h : s'.mem = s.mem) : sameBytes s s' := fun a => by rw [State.byteAt, State.byteAt, h]

/-- A write of an element that no MMA holds, of a tile that Comet does not track. -/
theorem tileUpdate_plain {s : State} {r : TeamRef} {c : Crew} {t : Team} (h : s.teamAt r = some (c, t)) {tl : Tile} {x : Coord} (hu : c.tileUid tl.uid = some tl)
    (held : s.mmaHeld r.crew tl.uid x = false) (untracked : tl.tracked = false) (f : Nat → Nat) (step : BitVec 32) (full : Bool) :
    s.tileUpdate r.crew tl.uid x none f step full =
      .ok (s.putTile r.crew (if full then (tl.write x none (f (tl.read x none))).setTag x none true else tl.write x none (f (tl.read x none)))) := by
  simp [State.tileUpdate, crewAt_of h, hu, held, untracked]

end TilesOfCrews

section TaggedScalarAccesses

/-! ### SLDF and SSTE (08 R165; 10 R227) -/

/-- The model's extension of a loaded value is the one of its size. -/
theorem extendBy_eq_loadedAs (z : ScalarSize) {v : Nat} (hv : v < 2 ^ (8 * sizeBytes z)) : extendBy z v = loadedAs z v := by
  have low : v % 2 ^ (8 * sizeBytes z) = v := Nat.mod_eq_of_lt hv
  have word : (2 : Nat) ^ (8 * sizeBytes z) ≤ 2 ^ 64 := Nat.pow_le_pow_right (by decide) (by cases z <;> decide)
  have pos : 0 < 8 * sizeBytes z := by cases z <;> decide
  refine BitVec.eq_of_toNat_eq ?_
  unfold extendBy loadedAs
  dsimp only
  cases sizeSigned z with
  | false => simp [low]
  | true =>
    have sign : (BitVec.ofNat (8 * sizeBytes z) v).msb = v.testBit (8 * sizeBytes z - 1) := by
      rw [BitVec.msb_eq_getLsbD_last, BitVec.getLsbD_ofNat, decide_eq_true (by omega), Bool.true_and]
    rw [Bool.true_and, if_pos rfl, BitVec.toNat_signExtend, sign, BitVec.toNat_setWidth, BitVec.toNat_ofNat, low, Nat.mod_eq_of_lt (hv.trans_le word)]
    split
    · rw [BitVec.toNat_ofNat, Nat.mod_eq_of_lt (by omega)]
    · rw [BitVec.toNat_ofNat, Nat.mod_eq_of_lt (hv.trans_le word), Nat.add_zero]

theorem scalarTile_element {c : Crew} {h : Handle} {x : Word} {w : Nat} {tl : Tile} (elem : c.element h x w tl) : scalarTile c h x w = .ok (tl, coordOf x) := by
  obtain ⟨named, -, plain, width, queue, inside⟩ := elem
  simp [scalarTile, named, plain, width, queue, inside]

theorem taggedTile_element {c : Crew} {h : Handle} {x : Word} {w : Nat} {tl : Tile} (elem : c.element h x w tl) (tagged : tl.tags = true) :
    taggedTile c h x w = .ok (tl, coordOf x) := by
  rw [taggedTile, scalarTile_element elem]
  simp [tagged]

theorem servable_eq_false_of_tagHolds {s : State} {w : TagWant} (h : s.tagHolds w = false) (n : Nat) : s.servable n w = false := by
  rw [State.servable, h, Bool.false_and]

section
variable {t : Team} (idle : t.swait = none)
include idle

theorem scalarBegan_idle (s : State) : s.scalarBegan t = s.nextWait := by rw [State.scalarBegan, idle]

theorem Team.sameWait_idle (u : Nat) : t.sameWait u = true := by rw [Team.sameWait, idle]
end

theorem statusTimeout_eq {s : State} {r : TeamRef} {c : Crew} {t : Team} (h : s.teamAt r = some (c, t)) (d : SReg) (n : Nat) :
    statusTimeout s r d n = s.putTeam r { t.status d 1 n with swait := none } := modTeam_eq h _

section
variable {s : State} {r : TeamRef} {c : Crew} {t : Team} {a : SReg} {z : ScalarSize} {h : Handle} {tl : Tile} (idle : t.swait = none)
  (elem : c.element h (t.sreg a) (8 * sizeBytes z) tl) (tagged : tl.tags = true) (d b : SReg)
include idle elem tagged

theorem attemptSldf_serves (cons : Bool) (serves : s.servable s.nextWait ⟨r.crew, tl.uid, coordOf (t.sreg a), true, none⟩ = true)
    (clean : tl.poisoned (coordOf (t.sreg a)) none = false) : attemptSldf d a b z h cons s r c t =
      some ((if cons then s.tileTag r.crew tl.uid (coordOf (t.sreg a)) false else s).putTeam r
        { (t.setSreg d (loadedAs z (tl.read (coordOf (t.sreg a)) none))).status b 0 8 with swait := none }) := by
  obtain ⟨-, -, -, width, -, -⟩ := id elem
  have small : tl.read (coordOf (t.sreg a)) none < 2 ^ (8 * sizeBytes z) := width ▸ tl.read_lt _ _
  rw [attemptSldf, taggedTile_element elem tagged]
  simp only [Team.sameWait_idle idle, scalarBegan_idle idle, serves, clean, extendBy_eq_loadedAs z small]
  rfl

theorem attemptSldf_waits (cons : Bool) (waits : s.servable s.nextWait ⟨r.crew, tl.uid, coordOf (t.sreg a), true, none⟩ = false) :
    attemptSldf d a b z h cons s r c t = none := by
  rw [attemptSldf, taggedTile_element elem tagged]
  simp only [scalarBegan_idle idle, waits, Bool.and_false]
  rfl

/-- SSTE's attempt at a word that no MMA holds, once the stream's accesses have been performed. -/
theorem attemptSste_serves (at_ : s.teamAt r = some (c, t)) (done : t.streamIdle .scalar = true) (held : s.mmaHeld r.crew tl.uid (coordOf (t.sreg a)) = false)
    (untracked : tl.tracked = false) (serves : s.servable s.nextWait ⟨r.crew, tl.uid, coordOf (t.sreg a), false, none⟩ = true) :
    attemptSste d a b z h s r c t = some
      ((s.putTile r.crew ((tl.write (coordOf (t.sreg a)) none (t.sreg d).toNat).setTag (coordOf (t.sreg a)) none true)).modTeam r
        (fun u => { u.status b 0 8 with swait := none })) := by
  obtain ⟨-, uid, -⟩ := id elem
  rw [attemptSste, taggedTile_element elem tagged]
  simp only [Team.sameWait_idle idle, scalarBegan_idle idle, serves, done, State.tileWrite, tileUpdate_plain at_ uid held untracked]
  rfl

theorem attemptSste_waits (waits : s.servable s.nextWait ⟨r.crew, tl.uid, coordOf (t.sreg a), false, none⟩ = false) :
    attemptSste d a b z h s r c t = none := by
  rw [attemptSste, taggedTile_element elem tagged]
  simp only [scalarBegan_idle idle, waits, Bool.and_false, Bool.false_and]
  rfl
end

section
variable {s : State} {r : TeamRef} {c : Crew} {t : Team} (acts : s.acts r c t) (clear : s.mpopClear r t = true) {a : SReg} {z : ScalarSize} {h : Handle} {tl : Tile}
  (elem : c.element h (t.sreg a) (8 * sizeBytes z) tl) (tagged : tl.tags = true) (d b : SReg) (e : BitVec 5)
include acts clear elem tagged

theorem exec_sldf_eq (idle : t.swait = none) (cons : Bool) : exec (.sldf d a b z h e cons) s = .next (
    if s.olderOverlap r t .scalar t.nextOrd false (.tile r.crew tl.uid (coordOf (t.sreg a)) none) (8 * sizeBytes z) then s
    else if e = 0#5 && s.heldBack s.nextWait ⟨r.crew, tl.uid, coordOf (t.sreg a), true, none⟩ then s
    else s.waitOr r (.sldf d a b z h e cons) e (some ⟨r.crew, tl.uid, coordOf (t.sreg a), true, none⟩) (attemptSldf d a b z h cons s r c t)
      (s.putTeam r { t.status b 1 8 with swait := none })) := by
  refine (withTeam_acts acts _).trans (congrArg Host.Outcome.next ?_)
  simp only [clear, taggedTile_element elem tagged, scalarBegan_idle idle, statusTimeout_eq acts.2]
  rfl

/-- SSTE holds until the stream's accesses have been performed. -/
theorem exec_sste_busy (room : t.sctr ≠ 0xFFFF#16) (busy : t.streamIdle .scalar = false) : exec (.sste d a b z h e) s = .next s := by
  refine (withTeam_acts acts _).trans (congrArg Host.Outcome.next ?_)
  simp only [clear, beq_false_of_ne room, taggedTile_element elem tagged, busy]
  rfl

theorem exec_sste_eq (room : t.sctr ≠ 0xFFFF#16) (done : t.streamIdle .scalar = true) : exec (.sste d a b z h e) s = .next (
    (attemptSste d a b z h s r c t).getD (if s.tagHolds ⟨r.crew, tl.uid, coordOf (t.sreg a), false, none⟩ then s
      else s.waitOr r (.sste d a b z h e) e (some ⟨r.crew, tl.uid, coordOf (t.sreg a), false, none⟩) none
        (s.putTeam r { t.status b 1 8 with swait := none }))) := by
  refine (withTeam_acts acts _).trans (congrArg Host.Outcome.next ?_)
  simp only [clear, beq_false_of_ne room, taggedTile_element elem tagged, done, statusTimeout_eq acts.2]
  cases attemptSste d a b z h s r c t <;> rfl
end

/-- A wait whose condition does not hold: with e = 0 its timeout, else it begins. -/
theorem waitOr_none (s : State) (r : TeamRef) (i : Instr) (e : BitVec 5) (want : Option TagWant) (timeout : State) :
    s.waitOr r i e want none timeout = if e = 0#5 then timeout else s.beginWait r i e want := rfl

end TaggedScalarAccesses

/-- Settles O17: an element by the bits of its place; SLDF and SSTE by the case of their attempt. -/
theorem taggedScalarAccesses : Obligations.TaggedScalarAccesses := by
  refine ⟨?element, ?accesses⟩
  case element =>
    intro tl x v h14 h15
    exact ⟨tl.read_write h14 h15 x v, fun wide => Tile.poisoned_write x none (tl.accWidth_eq ▸ wide) v, tl.isFull_write x none v x none, tl.write_frame x none v,
      fun b y => tl.read_setTag x none b y none, tl.isFull_setTag x none, tl.isEmpty_setTag x none⟩
  case accesses =>
    intro s r c t acts d a b z h e cons tl
    dsimp only
    intro clear idle elem tagged
    have sldf (e : BitVec 5) := exec_sldf_eq acts clear elem tagged d b e idle cons
    have sste (e : BitVec 5) := exec_sste_eq acts clear elem tagged d b e
    refine ⟨fun older => ?sldfHold, fun free => ⟨fun serves clean => ?sldf, fun holds waits => ?sldfBehind, fun other => ?sldfTimeout, fun waits he => ?sldfWait⟩,
      exec_sste_busy acts clear elem tagged d b e,
      fun room done held untracked => ⟨fun serves => ?sste, fun holds waits => ?ssteBehind, fun other => ⟨?ssteTimeout, fun he => ?ssteWait⟩⟩⟩
    case sldfHold => rw [sldf, if_pos older]
    case sldf =>
      rw [sldf, free, attemptSldf_serves idle elem tagged d b cons serves clean, State.heldBack, serves]
      simp only [Bool.not_true, Bool.and_false, Bool.false_eq_true, if_false]
      rfl
    case sldfBehind =>
      rw [sldf, free, State.heldBack, holds, waits]
      rfl
    case sldfTimeout =>
      rw [sldf, free, attemptSldf_waits idle elem tagged d b cons (servable_eq_false_of_tagHolds other _), State.heldBack, other]
      rfl
    case sldfWait =>
      rw [sldf, free, attemptSldf_waits idle elem tagged d b cons waits, decide_eq_false he, waitOr_none, if_neg he]
      rfl
    case sste => rw [sste e room done, attemptSste_serves idle elem tagged d b acts.2 done held untracked serves]; rfl
    case ssteBehind => rw [sste e room done, attemptSste_waits idle elem tagged d b waits, holds]; rfl
    case ssteTimeout => rw [sste 0#5 room done, attemptSste_waits idle elem tagged d b (servable_eq_false_of_tagHolds other _), other]; rfl
    case ssteWait =>
      rw [sste e room done, attemptSste_waits idle elem tagged d b (servable_eq_false_of_tagHolds other _), other, waitOr_none, if_neg he]
      rfl
end Sys2Proof.Machine

namespace Sys2Proof.Machine

section Gates

/-! ### The gate update (05 R103) -/

theorem getElem_gate {p n g b : Nat} (hp : p < 65536) (hn : n < 65536) (hg : g < 65536) (hb : b < 65536) :
    let x : Word := BitVec.ofNat 64 (p + 2 ^ 16 * n + 2 ^ 32 * g + 2 ^ 48 * b)
    gatePhase x = p ∧ gateNeed x = n ∧ gateGot x = g ∧ gateBytes x = b := by
  simp only [gatePhase, gateNeed, gateGot, gateBytes, getElem, BitVec.toNat_ofNat]
  refine ⟨?_, ?_, ?_, ?_⟩ <;> omega

theorem getElem16_lt (k : Nat) (x : Word) : getElem 16 k x < 65536 := getElem_lt 16 k x

/-- The fields of an updated gate. -/
theorem gateUpdate_fields (g : Word) (n add sub : Nat) :
    let got := min (gateGot g + n) 65535
    let bytes := min (gateBytes g + add - sub) 65535
    let adv := (decide (0 < n) || decide (0 < sub)) && decide (gateNeed g ≤ got) && bytes == 0
    gatePhase (gateUpdate g n add sub) = (if adv then (gatePhase g + 1) % 65536 else gatePhase g) ∧ gateNeed (gateUpdate g n add sub) = gateNeed g ∧
      gateGot (gateUpdate g n add sub) = (if adv then (if 0 < gateNeed g then got - gateNeed g else 0) else got) ∧
      gateBytes (gateUpdate g n add sub) = bytes := by
  intro got bytes adv
  have phase : (if adv then (gatePhase g + 1) % 65536 else gatePhase g) < 65536 := by
    split
    · omega
    · exact getElem16_lt 0 g
  have count : (if adv then (if 0 < gateNeed g then got - gateNeed g else 0) else got) < 65536 := by
    split
    · split <;> omega
    · omega
  exact getElem_gate phase (getElem16_lt 1 g) count (by omega)

/-! ### A gate and its waiters (05 R103, R104) -/

/-- Waking the waiters of a gate leaves the tiles, and a team that does not wait. -/
theorem teamAt_gateWake {s : State} {r : TeamRef} {c : Crew} {t : Team} (h : s.teamAt r = some (c, t)) (idle : t.swait = none) (uid : Nat) (x : Coord) (old new : Nat) :
    ∃ c', (s.gateWake r.crew uid x old new).teamAt r = some (c', t) ∧ c'.tiles = c.tiles := by
  unfold State.gateWake
  split
  · exact ⟨c, h, rfl⟩
  · obtain ⟨hcrew, hteam⟩ := teamAt_eq.1 h
    refine ⟨_, teamAt_eq.2 ⟨crewAt_modCrew hcrew _, ?_⟩, rfl⟩
    rw [List.getElem?_map, hteam]
    simp only [Option.map_some, idle, Option.map_none, Option.some.injEq]
    rw [← idle]

theorem gateTile_element {c : Crew} {h : Handle} {x : Word} {tl : Tile} (named : c.tile h = some tl) (fmt : tl.fmt = 3#4 ∨ tl.fmt = 7#4)
    (inside : tl.inside (coordOf x) = true) (tagged : tl.tags = true) : gateTile c h x = .ok (tl, coordOf x) := by
  have plain : ¬(tl.fmt ≠ 3#4 ∧ tl.fmt ≠ 7#4) := fun ⟨h3, h7⟩ => fmt.elim h3 h7
  simp only [gateTile, named, if_neg plain, inside, tagged]
  rfl

theorem Tile.uid_write (tl : Tile) (c : Coord) (blk : Option Nat) (v : Nat) : (tl.write c blk v).uid = tl.uid :=
  (congrArg Tile.uid (tl.write_frame c blk v) :)

theorem Tile.uid_setTag (tl : Tile) (c : Coord) (blk : Option Nat) (b : Bool) : (tl.setTag c blk b).uid = tl.uid := by
  unfold Tile.setTag Tile.putFull
  dsimp only
  split <;> split <;> rfl

section
variable {s : State} {r : TeamRef} {c : Crew} {t : Team} {h : Handle} {a : SReg} {tl : Tile}

/-- A write of a gate and the waking of its waiters. -/
def State.gateWritten (s : State) (r : TeamRef) (tl : Tile) (x : Coord) (v : Word) : State :=
  (s.putTile r.crew (tl.write x none v.toNat)).gateWake r.crew tl.uid x (gatePhase (BitVec.ofNat 64 (tl.read x none))) (gatePhase v)

theorem gateWritten_team (at_ : s.teamAt r = some (c, t)) (idle : t.swait = none) (uid : c.tileUid tl.uid = some tl) (x : Coord) (v : Word) :
    ∃ c', (s.gateWritten r tl x v).teamAt r = some (c', t) ∧ c'.tileUid tl.uid = some (tl.write x none v.toNat) := by
  obtain ⟨c', hteam, tiles⟩ := teamAt_gateWake (teamAt_putTile at_ (tl.write x none v.toNat)) idle tl.uid x (gatePhase (BitVec.ofNat 64 (tl.read x none))) (gatePhase v)
  exact ⟨c', hteam, (congrArg (List.find? _) tiles).trans (Crew.tileUid_putTile uid (tl.uid_write x none _))⟩

theorem gateApply_plain (at_ : s.teamAt r = some (c, t)) {x : Coord} (uid : c.tileUid tl.uid = some tl) (held : s.mmaHeld r.crew tl.uid x = false)
    (untracked : tl.tracked = false) (f : Word → Word) (step : BitVec 32) :
    s.gateApply r.crew tl.uid x f step = .ok (s.putTile r.crew (tl.write x none (f (BitVec.ofNat 64 (tl.read x none))).toNat)) := by
  rw [State.gateApply, tileAt_of at_, uid]
  exact tileUpdate_plain at_ uid held untracked _ step false

theorem gateStep_plain (at_ : s.teamAt r = some (c, t)) {x : Coord} (uid : c.tileUid tl.uid = some tl) (held : s.mmaHeld r.crew tl.uid x = false)
    (untracked : tl.tracked = false) (arrivals add sub : Nat) (step : BitVec 32) :
    s.gateStep r.crew tl.uid x arrivals add sub step =
      .ok (s.gateWritten r tl x (gateUpdate (BitVec.ofNat 64 (tl.read x none)) arrivals add sub)) := by
  rw [State.gateStep, tileAt_of at_, uid]
  dsimp only
  rw [gateApply_plain at_ uid held untracked]
  rfl

theorem gwaitAt_apart (at_ : s.teamAt r = some (c, t)) {d b : SReg} {phase : Nat} (apart : (phase + 65536 - (t.sreg b).toNat % 65536) % 65536 ≠ 0) :
    gwaitAt d b s r t phase = some (s.putTeam r
      { t.status d (if (phase + 65536 - (t.sreg b).toNat % 65536) % 65536 = 1 then 0 else 2) 8 with swait := none }) := by
  have token : getElem 16 0 (t.sreg b) = (t.sreg b).toNat % 65536 := congrArg (· % 65536) (Nat.div_one _)
  rw [gwaitAt, token]
  exact (if_neg apart).trans (congrArg some (modTeam_eq at_ _))

theorem gwaitAt_same {d b : SReg} {phase : Nat} (same : (phase + 65536 - (t.sreg b).toNat % 65536) % 65536 = 0) : gwaitAt d b s r t phase = none := by
  have token : getElem 16 0 (t.sreg b) = (t.sreg b).toNat % 65536 := congrArg (· % 65536) (Nat.div_one _)
  rw [gwaitAt, token]
  exact if_pos same

variable (acts : s.acts r c t) (gate : gateTile c h (t.sreg a) = .ok (tl, coordOf (t.sreg a)))
include acts gate

theorem gateOp_ok {rel : Bool} (older : s.olderOverlap r t .scalar t.nextOrd true (.tile r.crew tl.uid (coordOf (t.sreg a)) none) 64 = false)
    (release : rel = true → t.streamIdle .scalar = true ∧ tl.poisoned (coordOf (t.sreg a)) none = false)
    {f : TeamRef → Team → Tile → Coord → Except Stop State} {s1 : State} (ok : f r t tl (coordOf (t.sreg a)) = .ok s1)
    (fin : Word → Tile → Coord → TeamRef → State → State) :
    gateOp s h a rel f fin = .next (fin (BitVec.ofNat 64 (tl.read (coordOf (t.sreg a)) none)) tl (coordOf (t.sreg a)) r s1) := by
  refine (withTeam_acts acts _).trans (congrArg Host.Outcome.next ?_)
  simp only [gate, older]
  cases rel with
  | false => simp [ok]
  | true =>
    obtain ⟨done, clean⟩ := release rfl
    simp [done, clean, ok]

section
variable (uid : c.tileUid tl.uid = some tl) (untracked : tl.tracked = false) (held : s.mmaHeld r.crew tl.uid (coordOf (t.sreg a)) = false)
  (older : s.olderOverlap r t .scalar t.nextOrd true (.tile r.crew tl.uid (coordOf (t.sreg a)) none) 64 = false)
include uid untracked held older

theorem exec_ginit_eq (b : SReg) : exec (.ginit a b h) s = .next
    (((s.gateWritten r tl (coordOf (t.sreg a)) (t.sreg b)).tileTag r.crew tl.uid (coordOf (t.sreg a)) true).modTeam r (fun u => u.advance 8)) := by
  show execGinit a b h s = _
  unfold execGinit
  exact gateOp_ok acts gate older (fun rel => absurd rel Bool.false_ne_true) (by rw [gateApply_plain acts.2 uid held untracked]; rfl) _

variable (done : t.streamIdle .scalar = true) (clean : tl.poisoned (coordOf (t.sreg a)) none = false)
include done clean

theorem exec_garrive_eq (d : SReg) : exec (.garrive d a h) s = .next
    ((s.gateWritten r tl (coordOf (t.sreg a)) (gateUpdate (BitVec.ofNat 64 (tl.read (coordOf (t.sreg a)) none)) 1 0 0)).modTeam r
      (fun u => u.result d (BitVec.ofNat 64 (gatePhase (BitVec.ofNat 64 (tl.read (coordOf (t.sreg a)) none)))) 8)) := by
  show execGarrive d a h s = _
  unfold execGarrive
  exact gateOp_ok acts gate older (fun _ => ⟨done, clean⟩) (gateStep_plain acts.2 uid held untracked _ _ _ _) _

theorem exec_gexpect_eq (b : SReg) : exec (.gexpect a b h) s = .next
    ((s.gateWritten r tl (coordOf (t.sreg a)) (gateUpdate (BitVec.ofNat 64 (tl.read (coordOf (t.sreg a)) none)) 0 (min (t.sreg b).toNat 65535) 0)).modTeam r
      (fun u => u.advance 8)) := by
  show execGexpect a b h s = _
  unfold execGexpect
  exact gateOp_ok acts gate older (fun _ => ⟨done, clean⟩) (gateStep_plain acts.2 uid held untracked _ _ _ _) _
end

variable (idle : t.swait = none) (clean : tl.poisoned (coordOf (t.sreg a)) none = false)
  (older : s.olderOverlap r t .scalar t.nextOrd false (.tile r.crew tl.uid (coordOf (t.sreg a)) none) 64 = false)
include idle clean older

/-- A GWAIT that begins with the gate's phase at some distance from its token. -/
theorem exec_gwait_eq (d b : SReg) (e : BitVec 5) : exec (.gwait d a b h e) s = .next
    ((gwaitAt d b s r t (gatePhase (BitVec.ofNat 64 (tl.read (coordOf (t.sreg a)) none)))).getD
      (if e = 0#5 then s.putTeam r { t.status d 1 8 with swait := none }
       else (s.beginWait r (.gwait d a b h e) e none).modTeam r
        (fun u => { u with swait := u.swait.map (fun w => { w with gate := some (tl.uid, coordOf (t.sreg a)) }) }))) := by
  refine (withTeam_acts acts _).trans (congrArg Host.Outcome.next ?_)
  simp only [gate, older, attemptGwait, idle, clean, statusTimeout_eq acts.2]
  cases gwaitAt d b s r t (gatePhase (BitVec.ofNat 64 (tl.read (coordOf (t.sreg a)) none))) <;> rfl
end

end Gates

/-- Settles O24: the fields of an updated gate; each instruction writes its gate and moves on, GWAIT by the distance of the phase. -/
theorem gateInstructions : Obligations.GateInstructions := by
  refine ⟨?update, ?instructions⟩
  case update =>
    intro g n add sub got bytes g'
    obtain ⟨phase, need, count, owed⟩ := gateUpdate_fields g n add sub
    have advances : ((decide (0 < n) || decide (0 < sub)) && decide (gateNeed g ≤ got) && bytes == 0) = true ↔
        (0 < n ∨ 0 < sub) ∧ gateNeed g ≤ got ∧ bytes = 0 := by simp [and_assoc]
    refine ⟨need, owed, fun adv => ⟨phase.trans (if_pos (advances.2 adv)), (count.trans (if_pos (advances.2 adv))).trans ?_⟩,
      fun stays => ⟨phase.trans (if_neg (mt advances.1 stays)), count.trans (if_neg (mt advances.1 stays))⟩⟩
    by_cases none : gateNeed g = 0
    · rw [if_pos none, if_neg (by omega)]
    · rw [if_neg none, if_pos (by omega)]
  case instructions =>
    intro s r c t acts d a b h e tl
    dsimp only
    intro named uid fmt inside tagged untracked held older idle
    have gate := gateTile_element named fmt inside tagged
    have written (v : Word) (f : Team → Team) : ((s.gateWritten r tl (coordOf (t.sreg a)) v).modTeam r f).tileAt r.crew tl.uid =
        some (tl.write (coordOf (t.sreg a)) none v.toNat) ∧ (((s.gateWritten r tl (coordOf (t.sreg a)) v).modTeam r f).teamAt r).map (·.2) = some (f t) := by
      obtain ⟨c', hteam, htile⟩ := gateWritten_team acts.2 idle uid (coordOf (t.sreg a)) v
      exact ⟨by rw [tileAt_modTeam hteam, tileAt_of hteam, htile], by rw [teamAt_modTeam hteam]; rfl⟩
    refine ⟨⟨_, exec_ginit_eq acts gate uid untracked held (older true) b, ?ginit⟩,
      fun done clean => ⟨⟨_, exec_garrive_eq acts gate uid untracked held (older true) done clean d, written _ _⟩,
        ⟨_, exec_gexpect_eq acts gate uid untracked held (older true) done clean b, written _ _⟩⟩,
      fun clean => ?gwait⟩
    case ginit =>
      obtain ⟨c', hteam, htile⟩ := gateWritten_team acts.2 idle uid (coordOf (t.sreg a)) (t.sreg b)
      have put := teamAt_putTile hteam ((tl.write (coordOf (t.sreg a)) none (t.sreg b).toNat).setTag (coordOf (t.sreg a)) none true)
      rw [State.tileTag, tileAt_of hteam, htile]
      exact ⟨by rw [tileAt_modTeam put, tileAt_putTile hteam htile ((Tile.uid_setTag _ _ _ _).trans (tl.uid_write _ none _))],
        by rw [teamAt_modTeam put]; rfl⟩
    case gwait =>
      have gwait (e : BitVec 5) := exec_gwait_eq acts gate idle clean (older false) d b e
      exact ⟨fun apart => by rw [gwait, gwaitAt_apart acts.2 apart]; rfl,
        fun same => ⟨by rw [gwait, gwaitAt_same same]; rfl, fun he => by rw [gwait, gwaitAt_same same, if_neg he]; rfl⟩⟩
end Sys2Proof.Machine

namespace Sys2Proof.Machine

section TileTable

/-! ### TALLOC (05 R93, R95; 08 R173) -/

/-- D1 of a descriptor is the low half of its register. -/
theorem field_low (y : Word) : (field y 31 0 : BitVec 32) = y.setWidth 32 := (BitVec.setWidth_eq_extractLsb' (by decide)).symm

@[simp] theorem modCrew_mem (s : State) (k : Nat) (f : Crew → Crew) : (s.modCrew k f).mem = s.mem := by
  unfold State.modCrew
  split <;> rfl

/-- The crew with one more tile. -/
def Crew.withTile (c : Crew) (h : Handle) (tl : Tile) : Crew :=
  { c with tiles := c.tiles ++ [tl], nextUid := c.nextUid + 1, tableErr := c.tableErr.filter (fun k => k != h.toNat) }

section
variable {s : State} {r : TeamRef} {c : Crew} {t : Team} (acts : s.acts r c t) (d a b : SReg) (h : Handle)
include acts

theorem exec_talloc_ok (free : c.tile h = none) (ok : tileDescOk (t.sreg a) ((t.sreg b).setWidth 32) = true)
    (fits : s.granulesFit c.core (mkTile c.nextUid h (t.sreg a) ((t.sreg b).setWidth 32) false).granules = true) :
    exec (.talloc d a b h) s = .next
      ((s.modCrew r.crew (fun c => c.withTile h (mkTile c.nextUid h (t.sreg a) ((t.sreg b).setWidth 32) false))).tileStatus r d 0) := by
  have code : s.tallocCode c h (t.sreg a) (t.sreg b) = stOk := by
    rw [State.tallocCode, field_low, free, ok]
    exact if_pos fits
  refine (withTeam_acts acts _).trans (congrArg Host.Outcome.next ?_)
  dsimp only
  rw [code, if_pos rfl, field_low]
  rfl

theorem exec_talloc_refused (bad : (c.tile h).isSome = true ∨ tileDescOk (t.sreg a) ((t.sreg b).setWidth 32) = false) :
    exec (.talloc d a b h) s = .next (s.putTeam r (t.status d 7 8)) := by
  have code : s.tallocCode c h (t.sreg a) (t.sreg b) = stBounds := by
    rw [State.tallocCode, field_low]
    refine if_pos ?_
    rcases bad with used | bad
    · rw [used, Bool.true_or]
    · rw [bad, Bool.not_false, Bool.or_true]
  refine (withTeam_acts acts _).trans (congrArg Host.Outcome.next ?_)
  dsimp only
  rw [code, if_neg (by decide), tileStatus_eq acts.2]
  rfl
end

/-! ### TFREE (05 R94; 08 R171, R173; 11 R244) -/

/-- What a sweep leaves of a crew: tiles that are not freed stand as they are. -/
theorem Crew.tile_swept (keep kept : Tile → Bool) (tiles : List Tile) (g : Handle) :
    ((tiles.filter (fun t => !t.freed || keep t)).map (fun t => if t.freed && kept t then { t with released := true } else t)).find?
      (fun t => t.handle == g && !t.freed) = tiles.find? (fun t => t.handle == g && !t.freed) := by
  rw [List.find?_map, List.find?_filter]
  have same : tiles.find? (fun x => decide ((!x.freed || keep x) = true ∧
      ((fun t : Tile => t.handle == g && !t.freed) ∘ fun t => if t.freed && kept t then { t with released := true } else t) x = true)) =
      tiles.find? (fun t => t.handle == g && !t.freed) := by
    refine List.find?_congr fun x _ => ?_
    rw [Bool.eq_iff_iff]
    cases hx : x.freed <;> cases hk : kept x <;> simp [hx, hk]
  rw [same]
  cases found : tiles.find? (fun t => t.handle == g && !t.freed) with
  | none => rfl
  | some x =>
    have hx := List.find?_some found
    simp only [Bool.and_eq_true, Bool.not_eq_true'] at hx
    rw [Option.map_some, hx.2]
    rfl

theorem sweepTiles_crew {s : State} {k : Nat} {c : Crew} (h : s.crewAt k = some c) :
    ∃ c', (s.sweepTiles k).crewAt k = some c' ∧ c'.teams = c.teams ∧ ∀ g, c'.tile g = c.tile g :=
  ⟨_, crewAt_modCrew h _, rfl, fun g => Crew.tile_swept _ _ _ g⟩

/-- TFREE leaves a team but for the tiles that its stream commands name. -/
theorem Crew.freeTile_team {c : Crew} {k : Nat} {t : Team} (h : c.teams[k]? = some t) (tl : Tile) :
    ∃ q, (c.freeTile tl).teams[k]? = some { t with scq := q } := by
  unfold Crew.freeTile
  dsimp only
  split
  · exact ⟨_, by rw [List.getElem?_map, Crew.putTile, h]; rfl⟩
  · exact ⟨t.scq, h⟩

/-- A copy for stream commands is freed: no handle names it. -/
theorem Crew.freeTile_tile (c : Crew) (tl : Tile) (g : Handle) : (c.freeTile tl).tile g = (c.putTile { tl with freed := true }).tile g := by
  unfold Crew.freeTile
  dsimp only
  split
  · rw [Crew.tile, List.find?_append, List.find?_singleton, if_neg (by simp), Option.or_none]
    rfl
  · rfl

theorem Crew.putTile_freed_tile (c : Crew) (tl : Tile) (g : Handle) :
    (c.putTile { tl with freed := true }).tile g = c.tiles.find? (fun x => !(x.uid == tl.uid) && (x.handle == g && !x.freed)) := by
  rw [Crew.tile, Crew.putTile, List.find?_map]
  have same : ((fun t : Tile => t.handle == g && !t.freed) ∘ fun x => if x.uid = tl.uid then { tl with freed := true } else x) =
      fun x => !(x.uid == tl.uid) && (x.handle == g && !x.freed) := by
    funext x
    by_cases hx : x.uid = tl.uid <;> simp [hx]
  rw [same]
  cases found : c.tiles.find? (fun x => !(x.uid == tl.uid) && (x.handle == g && !x.freed)) with
  | none => rfl
  | some x =>
    have hx := List.find?_some found
    simp only [Bool.and_eq_true, Bool.not_eq_true', beq_eq_false_iff_ne] at hx
    rw [Option.map_some, if_neg hx.1]

/-- The handle is free. -/
theorem Crew.freeTile_same {c : Crew} {h : Handle} {tl : Tile} (only : ∀ u, u ∈ c.tiles → u.handle = h → u.freed = false → u.uid = tl.uid) :
    (c.freeTile tl).tile h = none := by
  rw [Crew.freeTile_tile, Crew.putTile_freed_tile, List.find?_eq_none]
  intro x hx
  simp only [Bool.and_eq_true, Bool.not_eq_true', beq_eq_false_iff_ne, beq_iff_eq]
  rintro ⟨other, handle, live⟩
  exact other (only x hx handle live)

/-- The other handles name what they named. -/
theorem Crew.freeTile_other {c : Crew} {h g : Handle} {tl : Tile} (hg : g ≠ h) (own : ∀ u, u ∈ c.tiles → u.uid = tl.uid → u.handle = h) :
    (c.freeTile tl).tile g = c.tile g := by
  rw [Crew.freeTile_tile, Crew.putTile_freed_tile]
  refine List.find?_congr fun x hx => ?_
  by_cases same : x.uid = tl.uid
  · simp [same, own x hx same, hg.symm]
  · simp [same]

section
variable {s : State} {r : TeamRef} {c : Crew} {t : Team} (acts : s.acts r c t) {h : Handle} {tl : Tile}
include acts

theorem exec_tfree_none (free : c.tile h = none) : exec (.tfree h) s = .next (s.putTeam r (t.advance 8)) := by
  refine (withTeam_acts acts _).trans (congrArg Host.Outcome.next ?_)
  simp only [free]

theorem exec_tfree_held (named : c.tile h = some tl) (held : s.tileHeld r.crew tl.uid = true) : exec (.tfree h) s = .next s := by
  refine (withTeam_acts acts _).trans (congrArg Host.Outcome.next ?_)
  simp only [named, held, if_true]

theorem exec_tfree_frees (named : c.tile h = some tl) (held : s.tileHeld r.crew tl.uid = false) :
    exec (.tfree h) s = .next (((s.putTeam r (t.advance 8)).modCrew r.crew (fun c => c.freeTile tl)).sweepTiles r.crew) := by
  refine (withTeam_acts acts _).trans (congrArg Host.Outcome.next ?_)
  simp only [named, held, Bool.false_eq_true, if_false]

/-- The crew after a TFREE: its handles are those of the freed table, and the team has moved on. -/
theorem tfree_crew (tl : Tile) : ∃ c' q, (((s.putTeam r (t.advance 8)).modCrew r.crew (fun c => c.freeTile tl)).sweepTiles r.crew).teamAt r =
    some (c', { t.advance 8 with scq := q }) ∧ ∀ g, c'.tile g = ((c.putTeam r.team (t.advance 8)).freeTile tl).tile g := by
  obtain ⟨hcrew, hteam⟩ := teamAt_eq.1 (teamAt_putTeam acts.2 (t.advance 8))
  obtain ⟨c', hc', teams, tiles⟩ := sweepTiles_crew (crewAt_modCrew hcrew (fun c => c.freeTile tl))
  obtain ⟨q, hq⟩ := Crew.freeTile_team hteam tl
  exact ⟨c', q, teamAt_eq.2 ⟨hc', teams ▸ hq⟩, tiles⟩

/-! ### TDESC (05 R93, R115) -/

theorem exec_tdesc_none (d : SReg) (free : c.tile h = none) :
    exec (.tdesc d h) s = .next (s.putTeam r (((t.setSreg d 0#64).setSreg (d + 1#6) 0#64).advance 8)) := by
  refine (withTeam_acts acts _).trans (congrArg Host.Outcome.next ?_)
  simp only [free]

theorem exec_tdesc_some (d : SReg) (named : c.tile h = some tl) :
    exec (.tdesc d h) s = .next (s.putTeam r (((t.setSreg d tl.d0).setSreg (d + 1#6) tl.d1).advance 8)) := by
  refine (withTeam_acts acts _).trans (congrArg Host.Outcome.next ?_)
  simp only [named]
end

/-- The fields of a word that holds those of D1 side by side (05 R93, R115). -/
theorem d1_word_fields {f l m : BitVec 4} {p : BitVec 5} {tags queue busy : Bool} {count granules : Nat} (hc : count < 2 ^ 16) (hg : granules < 2 ^ 10) {w : Word}
    (hw : w = BitVec.ofNat 64 (f.toNat + 2 ^ 4 * p.toNat + 2 ^ 9 * l.toNat + (if tags then 2 ^ 13 else 0) + (if queue then 2 ^ 14 else 0) +
      2 ^ 32 * count + 2 ^ 48 * m.toNat + (if busy then 2 ^ 52 else 0) + 2 ^ 53 * granules + 2 ^ 63)) :
    w.extractLsb' 0 4 = f ∧ w.extractLsb' 4 5 = p ∧ w.extractLsb' 9 4 = l ∧ w.getLsbD 13 = tags ∧ w.getLsbD 14 = queue ∧ w.getLsbD 52 = busy ∧
      w.getLsbD 63 = true := by
  have weigh (b : Bool) (n : Nat) : (if b then n else 0) = n * b.toNat := by cases b <;> simp
  have ht := tags.toNat_lt
  have hq := queue.toNat_lt
  have hb := busy.toNat_lt
  have hf := f.isLt
  have hl := l.isLt
  have hm := m.isLt
  have hp := p.isLt
  simp only [weigh] at hw
  have value := congrArg BitVec.toNat hw
  rw [BitVec.toNat_ofNat, Nat.mod_eq_of_lt (by omega)] at value
  have digits {lo n : Nat} {v : BitVec n} (hv : w.toNat / 2 ^ lo % 2 ^ n = v.toNat) : w.extractLsb' lo n = v := by
    refine BitVec.eq_of_toNat_eq ?_
    rw [BitVec.extractLsb'_toNat, Nat.shiftRight_eq_div_pow, hv]
  have flag {i : Nat} {b : Bool} (hb : w.toNat / 2 ^ i % 2 = b.toNat) : w.getLsbD i = b := by
    rw [BitVec.getLsbD, Nat.testBit_eq_decide_div_mod_eq, hb]
    cases b <;> rfl
  exact ⟨digits (by omega), digits (by omega), digits (by omega), flag (by omega), flag (by omega), flag (by omega), flag (by rw [Bool.toNat_true]; omega)⟩

theorem Tile.d1_fields (tl : Tile) : tl.d1.extractLsb' 0 4 = tl.fmt ∧ tl.d1.extractLsb' 4 5 = tl.planes ∧ tl.d1.extractLsb' 9 4 = tl.tagNow ∧
    tl.d1.getLsbD 13 = tl.tags ∧ tl.d1.getLsbD 14 = tl.queue ∧ tl.d1.getLsbD 52 = tl.conv.isSome ∧ tl.d1.getLsbD 63 = true :=
  d1_word_fields (Nat.mod_lt _ (by decide)) (Nat.mod_lt _ (by decide)) rfl

end TileTable

/-- Settles O21: TALLOC by its code, TFREE by what the swept table of its crew names, TDESC by the fields of D1. -/
theorem tileInstructions : Obligations.TileInstructions := by
  intro s r c t acts d a b h
  refine ⟨fun free ok fits => ?talloc, exec_talloc_refused acts d a b h, fun free => ⟨exec_tfree_none acts free, exec_tdesc_none acts d free⟩,
    fun tl named => ⟨exec_tfree_held acts named, fun held only => ?tfree, exec_tdesc_some acts d named, tl.d1_fields⟩⟩
  case talloc =>
    have team := teamAt_tileStatus (teamAt_modCrew acts.2
      (f := fun c => c.withTile h (mkTile c.nextUid h (t.sreg a) ((t.sreg b).setWidth 32) false)) rfl) d 0
    have part {lo n : Nat} (fits : lo + n ≤ 32) : ((t.sreg b).setWidth 32).extractLsb' lo n = (t.sreg b).extractLsb' lo n := BitVec.extractLsb'_setWidth_of_le fits
    have flag {i : Nat} (hi : i < 32) : ((t.sreg b).setWidth 32).getLsbD i = (t.sreg b).getLsbD i := by simp [hi]
    exact ⟨_, _, mkTile c.nextUid h (t.sreg a) ((t.sreg b).setWidth 32) false, exec_talloc_ok acts d a b h free ok fits, team, rfl, rfl, rfl, rfl, rfl, rfl,
      part (by decide), part (by decide), part (by decide), flag (by decide), flag (by decide), rfl, rfl, rfl, rfl, sameBytes_of_mem (by simp)⟩
  case tfree =>
    obtain ⟨c', q, hteam, tiles⟩ := tfree_crew acts tl
    exact ⟨_, c', _, exec_tfree_frees acts named held, hteam, (tiles h).trans (Crew.freeTile_same only), rfl, rfl,
      fun g hg own => (tiles g).trans (Crew.freeTile_other hg own)⟩

end Sys2Proof.Machine

namespace Sys2Proof.Machine

section LayoutInstructions

/-! ### LAYOUT, LWAIT and the layout engine (05 R112, R113; 12 R272) -/

/-- The conversion that a LAYOUT starts. -/
def State.newConv (s : State) (tag : BitVec 4) : Conv := { target := tag, done := 0, order := s.nextConv }

variable {s : State} {r : TeamRef} {c : Crew} {t : Team} {h : Handle} {tl : Tile}

theorem layoutBad_of_invalid {tag : BitVec 4} (bad : tl.queue = true ∨ layoutOk tl.fmt tag.toNat = false) : layoutBad tl tag = true := by
  rcases bad with bad | bad <;> simp [layoutBad, bad]

theorem layoutBad_of_valid {tag : BitVec 4} (plain : tl.queue = false) (ok : layoutOk tl.fmt tag.toNat = true) (wide : tl.tags = true → 32 ≤ tl.width)
    (blocks : tl.fmt = 14#4 → tag = tl.layout) : layoutBad tl tag = false := by
  have known : tag.toNat < 10 := by
    unfold layoutOk at ok
    split at ok
    · simp only [Bool.or_eq_true, beq_iff_eq] at ok
      omega
    · simp only [Bool.and_eq_true, decide_eq_true_eq] at ok
      omega
  have tagged : (tl.tags && decide (tl.width < 32)) = false := by
    cases ht : tl.tags with
    | false => rfl
    | true => exact decide_eq_false (Nat.not_lt.2 (wide ht))
  have plane : (tl.fmt == 14#4 && tag != tl.layout) = false := by
    by_cases hf : tl.fmt = 14#4
    · simp [blocks hf]
    · simp [hf]
  rw [layoutBad, plain, ok, tagged, plane, decide_eq_false (Nat.not_le.2 known)]
  rfl

section
variable (acts : s.acts r c t) (named : c.tile h = some tl)
include acts named

theorem exec_layout_eq (d : SReg) (tag : BitVec 4) : exec (.layout d h tag) s = .next
    (if layoutBad tl tag then s.tileStatus r d 7
     else if tl.conv.isSome then s
     else if tag = tl.layout then s.tileStatus r d 0
     else if s.granulesFit c.core (ceilDiv (tl.shapeAs tag.toNat).size 4096) then
       ({ s.putTile r.crew { tl with conv := some (s.newConv tag) } with nextConv := s.nextConv + 1 }).tileStatus r d 0
     else s.tileStatus r d 7) := by
  refine (withTeam_acts acts _).trans (congrArg Host.Outcome.next ?_)
  simp only [named]
  rfl

theorem exec_lwait_eq : exec (.lwait h) s = .next (if tl.conv.isSome then s else s.putTeam r (t.advance 8)) := by
  refine (withTeam_acts acts _).trans (congrArg Host.Outcome.next ?_)
  simp only [named]

/-- The engine converts a block of the tile whose LAYOUT is the oldest of its core. -/
theorem exec_layoutBlockConvert_eq {core : Nat} {v : Conv} (place : c.place = some core) (conv : tl.conv = some v)
    (oldest : ∀ o, o ∈ s.convOrders core → v.order ≤ o) : exec (.layoutBlockConvert r.crew h) s = .next (s.putTile r.crew tl.convertBlock) := by
  have first : (s.convOrders core).all (fun o => decide (v.order ≤ o)) = true := by simpa using oldest
  refine congrArg Host.Outcome.next ?_
  simp only [crewAt_of acts.2, place, named, conv, first, if_true]
end

theorem Tile.convertBlock_uid (tl : Tile) : tl.convertBlock.uid = tl.uid ∧ tl.convertBlock.handle = tl.handle := by
  unfold Tile.convertBlock
  split
  · exact ⟨rfl, rfl⟩
  · dsimp only
    split <;> exact ⟨rfl, rfl⟩

end LayoutInstructions

/-- Settles O22: LAYOUT and LWAIT by their cases; through a block of a conversion each element is read from the storage it then lies in. -/
theorem layoutConversions : Obligations.LayoutConversions := by
  intro s r c t acts d h tag tl named
  refine ⟨fun bad => ?refused, fun plain ok wide blocks => ?valid, fun still => ?lwait, fun busy => ?held, fun core v place conv oldest => ?block⟩
  case refused => rw [exec_layout_eq acts named, layoutBad_of_invalid bad, if_pos rfl, tileStatus_eq acts.2]
  case valid =>
    have layout : exec (.layout d h tag) s = _ := exec_layout_eq acts named d tag
    rw [layoutBad_of_valid plain ok wide blocks, if_neg Bool.false_ne_true] at layout
    refine ⟨fun busy => ?busy, fun still same => ?same, fun still other fits => ?starts⟩
    case busy => rw [layout, if_pos busy]
    case same => rw [layout, still, if_neg (by decide), if_pos same, tileStatus_eq acts.2]
    case starts =>
      rw [layout, still, if_neg (by decide), if_neg other, if_pos fits]
      have put := teamAt_putTile acts.2 { tl with conv := some (s.newConv tag) }
      exact ⟨_, rfl, teamAt_tileStatus (s := { s.putTile r.crew _ with nextConv := s.nextConv + 1 }) put d 0, sameBytes_of_mem (by simp)⟩
  case lwait => rw [exec_lwait_eq acts named, still]; rfl
  case held => rw [exec_lwait_eq acts named, if_pos busy]
  case block =>
    refine ⟨tl.convertBlock, exec_layoutBlockConvert_eq acts named place conv oldest, tl.convertBlock_uid.1, tl.convertBlock_uid.2, fun more => ?more, fun last => ?last,
      fun hf _ ok low x inside => ?elements⟩
    case more =>
      rw [Tile.convertBlock_eq conv, if_pos more]
      exact ⟨_, rfl, Tile.movedBlock_done, Tile.movedBlock_target, rfl⟩
    case last =>
      rw [Tile.convertBlock_eq conv, if_neg (Nat.not_lt.2 last)]
      exact ⟨rfl, Tile.movedBlock_target⟩
    case elements =>
      obtain ⟨ht, hfmt⟩ := layoutOk_of_plain hf ok
      refine ⟨Tile.convertBlock_read conv hfmt ht inside, fun tagged wide => ?_⟩
      have words (k : Nat) (hk : k < elemWords tl.width) := Tile.convertBlock_wordFull conv hfmt ht inside tagged wide low hk
      exact ⟨Tile.isFull_congr Tile.convertBlock_width words, Tile.isEmpty_congr Tile.convertBlock_width words⟩

end Sys2Proof.Machine

namespace Sys2Proof.Machine

section Bindings

/-! ### GBIND (05 R109; 06 R124) -/

theorem translate_fst_crews {s s1 : State} {core : Option Nat} {die va : Nat} {wr : Bool} {x : Xlate} (h : s.translate core die va wr = (s1, x)) :
    s1.crews = s.crews := by
  have := translate_crews s core die va wr
  rwa [h] at this

/-- An access that reaches HBM4E passes the checks. -/
theorem globCheck_of_reaches {s s1 : State} {core va n pa : Nat} {wr : Bool} (h : s.reaches core va n wr s1 pa) (rd : Bool) :
    s1.crews = s.crews ∧ pa + n ≤ 2 ^ 40 ∧ ∃ e, s.globCheck core va n wr rd = (s1, .ok (pa, e), none) := by
  obtain ⟨aligned, -, ⟨e, translated, plain⟩, built, alive, clean⟩ := h
  refine ⟨translate_fst_crews translated, built, e, ?_⟩
  rw [State.globCheck, if_neg (not_not_intro aligned), translated]
  simp only [plain, alive, clean, Bool.and_false, Bool.false_eq_true, if_false]

/-- A load that finds no copy of its line brings the bytes of memory. -/
theorem l1Load_miss {s : State} {core pa : Nat} (miss : s.l1Copy core (pa / 64) = none) (built : pa < 2 ^ 40) (busy : Bool) (n : Nat) :
    ∃ s2, s.l1Load busy core pa n = .ok (s2, readLE s.mem pa n) ∧ s2.mem = s.mem ∧ s2.crews = s.crews := by
  unfold State.l1Load
  rw [miss]
  dsimp only
  rw [physRead_hbm _ built, State.countRequest_mem, State.count_mem]
  exact ⟨_, rfl, by simp [State.l1Fill], by simp [State.l1Fill]⟩

/-- The crew with a global handle bound. -/
def Crew.bound (g : BitVec 6) (desc : BitVec 512) (c : Crew) : Crew :=
  { c with globals := cellSet c.globals g.toNat desc, tableErr := c.tableErr.filter (fun k => k != 256 + g.toNat) }

theorem Crew.bound_teams (g : BitVec 6) (desc : BitVec 512) (c : Crew) : (c.bound g desc).teams = c.teams := rfl

theorem Crew.bound_globals (g : BitVec 6) (desc : BitVec 512) (c : Crew) (k : Nat) :
    cellGet (c.bound g desc).globals k = if k = g.toNat then desc else cellGet c.globals k := cellGet_cellSet _ _ _ _

section
variable {s : State} {r : TeamRef} {c : Crew} {t : Team} (acts : s.acts r c t) (d a : SReg) (g : BitVec 6)
include acts

theorem exec_gbind_misaligned (h : (t.sreg a).toNat % 64 ≠ 0) : exec (.gbind d a g) s = .next (s.putTeam r (t.status d 7 8)) := by
  refine (withTeam_acts acts _).trans (congrArg Host.Outcome.next ?_)
  dsimp only
  rw [if_pos h, tileStatus_eq acts.2]
  rfl

theorem exec_gbind_binds {s1 : State} {pa : Nat} (reach : s.reaches c.core (t.sreg a).toNat 64 false s1 pa)
    (older : s1.olderOverlap r t .scalar t.nextOrd false (.glob (t.sreg a).toNat pa) 512 = false) (miss : s1.l1Copy c.core (pa / 64) = none)
    (ok : descOk (BitVec.ofNat 512 (readLE s1.mem pa 64)) = true) :
    ∃ s2 : State, s2.mem = s1.mem ∧ s2.crews = s.crews ∧
      exec (.gbind d a g) s = .next ((s2.modCrew r.crew (Crew.bound g (BitVec.ofNat 512 (readLE s1.mem pa 64)))).tileStatus r d 0) := by
  obtain ⟨crews, built, e, check⟩ := globCheck_of_reaches reach true
  obtain ⟨s2, load, mem, crews'⟩ := l1Load_miss miss (by omega) (s1.lineBusy c.core (pa / 64) r t.nextOrd) 64
  refine ⟨s2, mem, crews'.trans crews, (withTeam_acts acts _).trans (congrArg Host.Outcome.next ?_)⟩
  dsimp only
  rw [if_neg (not_not_intro reach.1), check]
  simp only [older, load, ok]
  rfl
end

end Bindings

section ZeroFill

/-! ### ZFILL of a tile (12 R269) -/

theorem bitsOf_nil (b w : Nat) : bitsOf [] b w = 0 := by
  unfold bitsOf
  split <;> simp [cellGet]

theorem Tile.wordsIn_zeroed (tl : Tile) (step : BitVec 32) (new : Bool) : (tl.zeroed step).wordsIn new = [] := by
  unfold Tile.wordsIn Tile.zeroed
  cases tl.conv <;> cases new <;> rfl

theorem Tile.fullIn_zeroed (tl : Tile) (step : BitVec 32) (new : Bool) : (tl.zeroed step).fullIn new = [] := by
  unfold Tile.fullIn Tile.zeroed
  cases tl.conv <;> cases new <;> rfl

theorem Tile.read_zeroed (tl : Tile) (step : BitVec 32) (x : Coord) (blk : Option Nat) : (tl.zeroed step).read x blk = 0 := by
  simp only [Tile.read, Tile.wordsIn_zeroed, bitsOf_nil]

theorem Tile.isEmpty_zeroed (tl : Tile) (step : BitVec 32) (x : Coord) (blk : Option Nat) : (tl.zeroed step).isEmpty x blk = true := by
  simp [Tile.isEmpty, Tile.fullIn_zeroed]

section
variable {s : State} {r : TeamRef} {c : Crew} {t : Team} (acts : s.acts r c t) (d a : SReg) {h : Handle}
include acts

theorem exec_zfill_free (free : c.tile h = none) : exec (.zfill d a (.tile h)) s = .next (s.putTeam r (t.status d 7 8)) := by
  refine (withTeam_acts acts _).trans (congrArg Host.Outcome.next ?_)
  simp only [free, tileStatus_eq acts.2]
  rfl

theorem exec_zfill_tile {tl : Tile} (named : c.tile h = some tl) (plain : tl.queue = false) (untracked : tl.tracked = false)
    (held : s.tileHeld r.crew tl.uid = false) (free : t.fillWaits r.crew tl.uid [] = false) :
    exec (.zfill d a (.tile h)) s = .next ((s.putTile r.crew (tl.zeroed ((t.sreg a).setWidth 32))).tileStatus r d 0) := by
  refine (withTeam_acts acts _).trans (congrArg Host.Outcome.next ?_)
  simp only [named, plain, untracked, held, free, field_low]
  rfl
end

/-! ### ZFILL of a global tensor in one page (08 R174; 14 R305) -/

section
variable {s s1 : State} {die va size : Nat} {g : Range} (scm : Bool) (range : s.rangeOf va = some g) (some_ : 0 < size)
include range some_

theorem fillPieces_page {pa : Nat} {e : Word} (inPage : va + size ≤ g.base + ((va - g.base) / pageSize g.z + 1) * pageSize g.z)
    (translated : s.translate none die va true = (s1, .ok pa e)) (plain : pteScm e = false) (fuel : Nat) :
    s.fillPieces die scm (fuel + 2) va (va + size) = (s1, some [(va, pa, size, e)]) := by
  have all : min (va + size) (g.base + ((va - g.base) / pageSize g.z + 1) * pageSize g.z) - va = size := by rw [min_eq_left inPage, Nat.add_sub_cancel_left]
  have rest : s1.fillPieces die scm (fuel + 1) (va + size) (va + size) = (s1, some []) := by
    rw [State.fillPieces]
    exact if_pos le_rfl
  rw [State.fillPieces, if_neg (by omega), range, translated]
  simp only [plain, Bool.false_and, Bool.false_eq_true, if_false, all, rest]

theorem fillPieces_fails {x : Xlate} (translated : s.translate none die va true = (s1, x)) (fails : x = .fail ∨ ∃ z, x = .empty z) (fuel : Nat) :
    s.fillPieces die scm (fuel + 1) va (va + size) = (s1, none) := by
  rw [State.fillPieces, if_neg (by omega), range, translated]
  rcases fails with rfl | ⟨z, rfl⟩ <;> rfl
end

/-- Bytes of HBM4E zeroed, and what stays. -/
theorem zeroPiece_hbm {s : State} {pa : Nat} (built : pa < 2 ^ 40) (core : Nat) (step : BitVec 32) (va n : Nat) (e : Word) :
    (s.zeroPiece core step (va, pa, n, e)).mem = cellErase s.mem pa n ∧ (s.zeroPiece core step (va, pa, n, e)).crews = s.crews := by
  rw [State.zeroPiece]
  dsimp only
  rw [isScm_of_lt built]
  exact ⟨rfl, rfl⟩

section
variable {s : State} {r : TeamRef} {c : Crew} {t : Team} (acts : s.acts r c t) (d a : SReg) {g : BitVec 6}
include acts

theorem exec_zfill_unbound (unbound : cellGet c.globals g.toNat = 0#512) : exec (.zfill d a (.tensor g)) s = .next (s.putTeam r (t.status d 7 8)) := by
  refine (withTeam_acts acts _).trans (congrArg Host.Outcome.next ?_)
  dsimp only
  rw [if_pos unbound, tileStatus_eq acts.2]
  rfl

variable (bound : cellGet c.globals g.toNat ≠ 0#512) {s1 : State}
include bound

theorem exec_zfill_untranslated (pieces : ∀ fuel, s.fillPieces (coreDie c.core) (descScm (cellGet c.globals g.toNat)) (fuel + 2)
      (descBase (cellGet c.globals g.toNat)) (descBase (cellGet c.globals g.toNat) + (descShape (cellGet c.globals g.toNat)).size) = (s1, none)) :
    exec (.zfill d a (.tensor g)) s = .next (s1.tileStatus r d 8) := by
  refine (withTeam_acts acts _).trans (congrArg Host.Outcome.next ?_)
  dsimp only
  rw [if_neg bound, pieces]
  rfl

theorem exec_zfill_page {va pa size : Nat} {e : Word} (pieces : ∀ fuel, s.fillPieces (coreDie c.core) (descScm (cellGet c.globals g.toNat)) (fuel + 2)
      (descBase (cellGet c.globals g.toNat)) (descBase (cellGet c.globals g.toNat) + (descShape (cellGet c.globals g.toNat)).size) =
        (s1, some [(va, pa, size, e)]))
    (built : pa < 2 ^ 40) (alive : s1.isDead pa size = false) (untracked : pteTracked e = false) (free : t.fillWaits r.crew 0 [(va, pa, size, e)] = false) :
    exec (.zfill d a (.tensor g)) s = .next ((s1.zeroPiece c.core ((t.sreg a).setWidth 32) (va, pa, size, e)).tileStatus r d 0) := by
  have kept : s1.preservePieces t.stepNow [(va, pa, size, e)] = .ok s1 := by
    simp only [State.preservePieces, State.preservePiece, untracked]
    rfl
  refine (withTeam_acts acts _).trans (congrArg Host.Outcome.next ?_)
  dsimp only
  rw [if_neg bound, pieces]
  simp only [List.any_cons, List.any_nil, alive, isScm_of_lt built, free, kept, field_low]
  rfl
end

end ZeroFill

/-- Settles O23: GBIND loads its descriptor and binds it; ZFILL zeroes a tile's storages, or the bytes of the one page piece. -/
theorem bindAndFill : Obligations.BindAndFill := by
  intro s r c t acts d a g h
  refine ⟨exec_gbind_misaligned acts d a g, fun s1 pa reach older miss ok => ?binds, fun tl named uid plain untracked held free => ?tile, exec_zfill_free acts d a,
    exec_zfill_unbound acts d a, fun gr bound size range inPage => ⟨fun s1 pa e translated plain untracked built alive free => ?page,
      fun s1 x translated fails => ?untranslated⟩⟩
  case binds =>
    obtain ⟨s2, mem, crews, hexec⟩ := exec_gbind_binds acts d a g reach older miss ok
    -- kept opaque: unification would else evaluate the 512-bit value
    generalize BitVec.ofNat 512 (readLE s1.mem pa 64) = desc at hexec ⊢
    have team := teamAt_modCrew (f := Crew.bound g desc) ((teamAt_congr crews r).trans acts.2) (Crew.bound_teams _ _ _)
    exact ⟨_, _, hexec, teamAt_tileStatus team d 0, sameBytes_of_mem (by simp [mem]), Crew.bound_globals g desc c⟩
  case tile =>
    have put := teamAt_putTile acts.2 (tl.zeroed ((t.sreg a).setWidth 32))
    exact ⟨_, _, tl.zeroed ((t.sreg a).setWidth 32), exec_zfill_tile acts d a named plain untracked held free, teamAt_tileStatus put d 0, sameBytes_of_mem (by simp),
      (tileAt_modTeam put _ _).trans (tileAt_putTile acts.2 uid rfl), rfl, tl.read_zeroed _, tl.isEmpty_zeroed _, rfl⟩
  case page =>
    have low : pa < 2 ^ 40 := by omega
    obtain ⟨mem, crews⟩ := zeroPiece_hbm (s := s1) low c.core ((t.sreg a).setWidth 32) (descBase (cellGet c.globals g.toNat))
      (descShape (cellGet c.globals g.toNat)).size e
    have team := (teamAt_congr (crews.trans (translate_fst_crews translated)) r).trans acts.2
    have pieces := fillPieces_page (descScm (cellGet c.globals g.toNat)) range size inPage translated plain
    refine ⟨_, _, exec_zfill_page acts d a bound pieces low alive untracked free, teamAt_tileStatus team d 0,
      fun x lo hi => ?_, fun x outside => ?_⟩
    · rw [State.byteAt, tileStatus_mem, mem, cellGet_cellErase, if_pos ⟨lo, hi⟩]
    · rw [State.byteAt, tileStatus_mem, mem, cellGet_cellErase, if_neg (by omega)]
      rfl
  case untranslated =>
    have team := (teamAt_congr (translate_fst_crews translated) r).trans acts.2
    exact ⟨_, _, exec_zfill_untranslated acts d a bound (fun fuel => fillPieces_fails _ range size translated fails (fuel + 1)), teamAt_tileStatus team d 8,
      sameBytes_of_mem (by simp)⟩

end Sys2Proof.Machine

namespace Sys2Proof.Machine

section OutsideMemory

/-! ### What the agents of memory leave unchanged (14 R305 to R308; 12 R276) -/

/-- The package without what translations, writes of memory, the free pools, Comet and the event ring keep. -/
def State.outsideMemory (s : State) : State :=
  { s with free := 0, mem := [], poison := [], ballast := [], tlb := [], gangTlb := [], pools := []
           evSeq := 0#64, events := [], walks := [], comet := {}, perf := [] }

theorem wlChanges_of_outsideMemory {s s' : State} (h : s'.outsideMemory = s.outsideMemory) : s'.wlChanges = s.wlChanges :=
  (congrArg State.wlChanges h :)

theorem countRequest_outsideMemory (s : State) (die pa : Nat) (wr : Bool) : (s.countRequest die pa wr).outsideMemory = s.outsideMemory := by
  obtain ⟨p, n, h⟩ := countRequest_eq s die pa wr
  rw [h]
  rfl

theorem poolLow_outsideMemory (s : State) (p : Nat) : (s.poolLow p).outsideMemory = s.outsideMemory := by
  unfold State.poolLow
  split
  · rfl
  · dsimp only; split <;> rfl

theorem poolHead_outsideMemory (die z : Nat) : ∀ (fuel : Nat) (s : State), (s.poolHead die z fuel).1.outsideMemory = s.outsideMemory
  | 0, _ => rfl
  | fuel + 1, s => by
    unfold State.poolHead
    dsimp only
    split
    · rfl
    · split
      · rfl
      · split
        · exact countRequest_outsideMemory ..
        · exact (poolHead_outsideMemory die z fuel _).trans ((poolLow_outsideMemory ..).trans (countRequest_outsideMemory s ..))

theorem bindFrame_outsideMemory (s : State) (r : Range) (die va : Nat) (e : Word) (f : Nat) :
    (s.bindFrame r die va e f).1.outsideMemory = s.outsideMemory :=
  (countRequest_outsideMemory ..).trans (poolLow_outsideMemory ..)

theorem firstTouch_outsideMemory (s : State) (r : Range) (die va : Nat) (e : Word) : (s.firstTouch r die va e).1.outsideMemory = s.outsideMemory := by
  have head := poolHead_outsideMemory die r.z 65536 s
  unfold State.firstTouch
  generalize s.poolHead die r.z 65536 = q at head ⊢
  obtain ⟨s1, _ | f⟩ := q
  · exact head
  · exact (bindFrame_outsideMemory ..).trans ((countRequest_outsideMemory ..).trans head)

theorem walkEnd_outsideMemory (s : State) (p : Nat) : (s.walkEnd p).outsideMemory = s.outsideMemory := by
  unfold State.walkEnd
  split
  · rfl
  · dsimp only
    split
    · rfl
    · split
      · rfl
      · exact bindFrame_outsideMemory ..

theorem cacheEntry_outsideMemory (s : State) (core : Option Nat) (page z : Nat) (e : Word) : (s.cacheEntry core page z e).outsideMemory = s.outsideMemory := by
  cases core <;> rfl

theorem walk_outsideMemory (s : State) (core : Option Nat) (r : Range) (die va page : Nat) (wr : Bool) :
    (s.walk core r die va page wr).1.outsideMemory = s.outsideMemory := by
  have counted := countRequest_outsideMemory s die (r.entryAddr va) false
  unfold State.walk
  dsimp only
  split
  · exact counted
  · split
    · exact counted
    · split
      · exact (cacheEntry_outsideMemory ..).trans counted
      · split
        · exact counted
        · have touched := (firstTouch_outsideMemory (s.countRequest die (r.entryAddr va) false) r die va (s.pte r va)).trans counted
          split
          · exact (cacheEntry_outsideMemory ..).trans touched
          · exact touched

theorem translate_outsideMemory (s : State) (core : Option Nat) (die va : Nat) (wr : Bool) : (s.translate core die va wr).1.outsideMemory = s.outsideMemory := by
  unfold State.translate
  split
  · rfl
  · split
    · rfl
    · dsimp only
      split
      · split <;> rfl
      · split
        · split <;> rfl
        · refine (walk_outsideMemory ..).trans ?_
          split
          · rfl
          · exact walkEnd_outsideMemory ..

theorem preserve_outsideMemory {s s' : State} {g : Granule} {u : ImageUnit} {st : BitVec 32} (h : s.preserve g u st = .ok s') :
    s'.outsideMemory = s.outsideMemory := by
  unfold State.preserve at h
  split at h
  · cases h
  · split at h
    · cases h; rfl
    · split at h <;> cases h
      rfl

theorem alsoPreserved_outsideMemory (s : State) (g : Granule) (st : BitVec 32) (o n b w : Nat) (f : Nat → Nat) :
    (s.alsoPreserved g st o n b w f).outsideMemory = s.outsideMemory := by
  unfold State.alsoPreserved
  split <;> rfl

theorem physWrite_outsideMemory {s s' : State} {pa n v : Nat} (h : s.physWrite pa n v = .ok s') : s'.outsideMemory = s.outsideMemory := by
  unfold State.physWrite at h
  dsimp only at h
  split at h
  · cases h
  · split at h
    · split at h <;> cases h
      rfl
    · cases h
      rfl

theorem pageMerge_outsideMemory {s s' : State} {va pa n b k : Nat} {e : Word} {st : BitVec 32} {f : Nat → Nat} (h : s.pageMerge va pa e st n b k f = .ok s') :
    s'.outsideMemory = s.outsideMemory := by
  unfold State.pageMerge at h
  dsimp only at h
  split at h
  · split at h
    · cases h
    · next s1 hs1 => exact (physWrite_outsideMemory h).trans ((alsoPreserved_outsideMemory ..).trans (preserve_outsideMemory hs1))
  · exact physWrite_outsideMemory h

theorem stampWrite_outsideMemory {s s' : State} {die va v : Nat} (h : s.stampWrite die va v = some s') : s'.outsideMemory = s.outsideMemory := by
  have same := translate_outsideMemory s none die va true
  unfold State.stampWrite at h
  generalize s.translate none die va true = q at same h
  obtain ⟨s1, x⟩ := q
  cases x with
  | ok pa e =>
    dsimp only at h
    split at h
    · cases h; exact same
    · split at h
      · next hw => cases h; exact (pageMerge_outsideMemory hw).trans same
      · cases h
      · cases h; exact same
  | fail => cases h; exact same
  | empty z => cases h; exact same
  | lost => cases h; exact same

end OutsideMemory

section WorkListCountsAtEnds

/-! ### The ends of teams, crews and launches change no work-list count (02 R36; 13 R283) -/

theorem completeLaunch_wlChanges (s : State) (id : BitVec 32) : (s.completeLaunch id).wlChanges = s.wlChanges := by
  unfold State.completeLaunch
  split
  · rfl
  · dsimp only
    split
    · split
      · rfl
      · next s1 hs1 =>
        have same : s1.wlChanges = s.wlChanges := by
          split at hs1
          · cases hs1; rfl
          · exact wlChanges_of_outsideMemory (stampWrite_outsideMemory hs1)
        split <;> exact same
    · rfl

theorem grantRgrow_wlChanges (s : State) (core n : Nat) : (s.grantRgrow core n).wlChanges = s.wlChanges := by
  obtain ⟨cs, h, -⟩ := grantRgrow_frame core n s
  rw [h]

theorem finishTeam_wlChanges (s : State) (r : TeamRef) : (s.finishTeam r).wlChanges = s.wlChanges := by
  unfold State.finishTeam
  split
  · rfl
  · split
    · exact (grantRgrow_wlChanges ..).trans (State.putTeam_wlChanges ..)
    · rfl

theorem finishTeams_wlChanges (k : Nat) : ∀ (is : List Nat) (s : State), (is.foldl (fun s i => s.finishTeam ⟨k, i⟩) s).wlChanges = s.wlChanges
  | [], _ => rfl
  | i :: is, s => (finishTeams_wlChanges k is _).trans (finishTeam_wlChanges s ⟨k, i⟩)

theorem completeCrew_wlChanges (s : State) (k : Nat) : (s.completeCrew k).wlChanges = s.wlChanges := by
  unfold State.completeCrew
  split
  · rfl
  · split
    · exact (completeLaunch_wlChanges ..).trans (grantRgrow_wlChanges ..)
    · split
      · exact completeLaunch_wlChanges ..
      · rfl

theorem settle_wlChanges (s : State) (k : Nat) : (s.settle k).wlChanges = s.wlChanges := by
  unfold State.settle
  split
  · rfl
  · exact (completeCrew_wlChanges ..).trans (finishTeams_wlChanges ..)

end WorkListCountsAtEnds

section FinishedTeams

/-! ### Which teams of a crew finish (02 R36) -/

/-- The team, finished where its scalar stream has ended, its lane queue is empty and its clauses are complete. -/
def Team.ended (t : Team) : Team := { t with finished := t.finished || (t.exited && t.queue.isEmpty && t.retired.isEmpty) }

theorem Team.ended_ended (t : Team) : t.ended.ended = t.ended := by
  simp [Team.ended]

section
variable {s : State} {r : TeamRef} {c : Crew} {t : Team} (h : s.teamAt r = some (c, t)) (idle : t.growWant = none)
include h idle

theorem finishTeam_self : ∃ c', (s.finishTeam r).teamAt r = some (c', t.ended) := by
  unfold State.finishTeam
  simp only [h]
  split
  · next ends =>
    have finishes : t.ended = { t with finished := true } := by
      simp only [Bool.and_eq_true] at ends
      obtain ⟨⟨⟨exited, -⟩, queue⟩, retired⟩ := ends
      simp [Team.ended, exited, queue, retired]
    rw [finishes]
    have put : State.teamAt { s.putTeam r { t with finished := true } with accHold := s.accHold.filter (fun p => !(p.2 == r)) } r =
        some (c.putTeam r.team { t with finished := true }, { t with finished := true }) := teamAt_putTeam h _
    exact grantRgrow_team (t := { t with finished := true }) idle c.core 16 put
  · next goesOn =>
    have stays : t.ended = t := by
      cases hf : t.finished
      · rw [hf] at goesOn
        simp only [Bool.not_false, Bool.and_true, Bool.not_eq_true] at goesOn
        rw [Team.ended, goesOn, hf, Bool.or_false, ← hf]
      · rw [Team.ended, hf, Bool.true_or, ← hf]
    exact ⟨c, stays.symm ▸ h⟩

theorem finishTeam_other {q : TeamRef} (hq : r ≠ q) : ∃ c', (s.finishTeam q).teamAt r = some (c', t) := by
  unfold State.finishTeam
  split
  · exact ⟨c, h⟩
  · next d u hu =>
    split
    · obtain ⟨c', put⟩ := exists_teamAt_of_map h (teamAt_putTeam_other hu { u with finished := true } hq)
      have released : State.teamAt { s.putTeam q { u with finished := true } with accHold := s.accHold.filter (fun p => !(p.2 == q)) } r = some (c', t) := put
      exact grantRgrow_team idle d.core 16 released
    · exact ⟨c, h⟩
end

theorem finishTeams_ended {r : TeamRef} : ∀ (is : List Nat) {s : State} {c : Crew} {t : Team}, s.teamAt r = some (c, t) → t.growWant = none →
    ∃ c', (is.foldl (fun s i => s.finishTeam ⟨r.crew, i⟩) s).teamAt r = some (c', if r.team ∈ is then t.ended else t)
  | [], _, c, _, h, _ => ⟨c, h⟩
  | i :: is, s, c, t, h, idle => by
    by_cases hi : r.team = i
    · subst hi
      obtain ⟨c1, h1⟩ := finishTeam_self h idle
      obtain ⟨c2, h2⟩ := finishTeams_ended is (t := t.ended) h1 idle
      rw [Team.ended_ended, ite_self] at h2
      exact ⟨c2, by simpa using h2⟩
    · obtain ⟨c1, h1⟩ := finishTeam_other h idle (q := ⟨r.crew, i⟩) fun hr => hi (congrArg TeamRef.team hr)
      obtain ⟨c2, h2⟩ := finishTeams_ended is h1 idle
      exact ⟨c2, by simpa [hi] using h2⟩

/-- The ends that follow a step of its crew finish a team that is to finish, and leave the rest of it alone. -/
theorem settle_ended {s : State} {r : TeamRef} {c : Crew} {t : Team} (h : s.teamAt r = some (c, t)) (idle : t.growWant = none) :
    ∃ c', (s.settle r.crew).teamAt r = some (c', t.ended) := by
  have listed : r.team ∈ List.range c.teams.length := List.mem_range.2 (List.getElem?_eq_some_iff.1 (teamAt_eq.1 h).2).1
  obtain ⟨c1, h1⟩ := finishTeams_ended (List.range c.teams.length) h idle
  rw [if_pos listed] at h1
  unfold State.settle
  simp only [crewAt_of h]
  exact completeCrew_team h1 (.inl idle)

end FinishedTeams

section FencesAndExits

/-! ### Fences (06 R121, R122, R124) -/

theorem Team.loadsDone_eq_true {t : Team} : t.loadsDone = true ↔ ¬∃ a, a ∈ t.pending ∧ ∀ v st, a.kind ≠ .store v st := by
  rw [Team.loadsDone, List.all_eq_true]
  simp only [not_exists, not_and]
  exact forall₂_congr fun a _ => by cases a.kind <;> simp

theorem Team.acqDone_eq_true {t : Team} :
    t.acqDone = true ↔ t.queue = [] ∧ ¬∃ a, a ∈ t.pending ∧ ∀ v st, a.kind ≠ .store v st := by
  rw [Team.acqDone, Bool.and_eq_true, Team.loadsDone_eq_true, Team.allRetired, List.isEmpty_iff]

theorem Team.relDone_eq_true {t : Team} : t.relDone = true ↔ t.acqDone = true ∧ t.sctr = 0#16 ∧ t.lctr = 0#16 := by
  rw [Team.relDone, Bool.and_eq_true, ← Team.acqDone, Team.storesDone, Bool.and_eq_true, beq_iff_eq, beq_iff_eq]

theorem two_le_scopeCode (sc : Scope) : 2 ≤ scopeCode sc ↔ sc = .gang ∨ sc = .region ∨ sc = .device ∨ sc = .span := by
  cases sc <;> decide

section
variable {s : State} {r : TeamRef} {c : Crew} {t : Team} (acts : s.acts r c t) (sc : Scope) {cond : Team → Bool}
include acts

theorem fence_holds (acq : Bool) (waits : cond t = false) : fence acq sc cond s = .next s := by
  refine (withTeam_acts acts _).trans (congrArg Host.Outcome.next ?_)
  rw [waits]
  rfl

theorem fence_advances {acq : Bool} (done : cond t = true) (keeps : (acq && decide (2 ≤ scopeCode sc)) = false) :
    fence acq sc cond s = .next (s.putTeam r (t.advance 4)) := by
  refine (withTeam_acts acts _).trans (congrArg Host.Outcome.next ?_)
  rw [done, keeps]
  rfl

theorem fence_invalidates (done : cond t = true) (wide : 2 ≤ scopeCode sc) :
    fence true sc cond s = .next ((s.putTeam r (t.advance 4)).l1Invalidate c.core) := by
  refine (withTeam_acts acts _).trans (congrArg Host.Outcome.next ?_)
  rw [done, decide_eq_true wide]
  rfl
end

theorem mem_l1Invalidate {s : State} {core : Nat} {x : L1Line} : x ∈ (s.l1Invalidate core).l1 ↔ x ∈ s.l1 ∧ x.core ≠ core := by
  simp [State.l1Invalidate]

/-- An acquire at a wide scope empties the core's L1, and changes nothing else of what it leaves behind. -/
theorem acquire_wide {s : State} {r : TeamRef} {c : Crew} {t : Team} (acts : s.acts r c t) {sc : Scope} {cond : Team → Bool} (done : cond t = true)
    (wide : 2 ≤ scopeCode sc) : ∃ s', fence true sc cond s = .next s' ∧ { s' with l1 := (s.putTeam r (t.advance 4)).l1 } = s.putTeam r (t.advance 4) ∧
      ∀ x, x ∈ s'.l1 ↔ x ∈ s.l1 ∧ x.core ≠ c.core :=
  ⟨_, fence_invalidates acts sc done wide, rfl, fun x => by rw [mem_l1Invalidate, State.putTeam_l1]⟩

theorem acquire_narrow {s : State} {r : TeamRef} {c : Crew} {t : Team} (acts : s.acts r c t) {sc : Scope} {cond : Team → Bool} (done : cond t = true)
    (narrow : ¬2 ≤ scopeCode sc) : fence true sc cond s = .next (s.putTeam r (t.advance 4)) :=
  fence_advances acts sc done (by rw [decide_eq_false narrow]; rfl)

/-! ### EXIT (02 R36, R47; 10 R238) -/

/-- The items and the seed that a team holds of a set. -/
def WlHold.holding (w : WlHold) : Nat := w.items + (if w.seed then 1 else 0)

/-- The changes that retire what a team holds of each set. -/
def retirements (r : TeamRef) (core : Nat) (ws : List WlHold) : List WlChange :=
  (ws.filter (fun w => w.holding ≠ 0)).map (fun w => ⟨r, coreGang core, w.set, w.holding⟩)

theorem retirements_cons (r : TeamRef) (core : Nat) (w : WlHold) (ws : List WlHold) :
    retirements r core (w :: ws) = (if w.holding = 0 then [] else [⟨r, coreGang core, w.set, w.holding⟩]) ++ retirements r core ws := by
  by_cases held : w.holding = 0 <;> simp [retirements, held]

theorem retireAll_cons (s : State) (r : TeamRef) (core : Nat) (w : WlHold) (ws : List WlHold) :
    s.retireAll r core (w :: ws) =
      (if w.holding = 0 then s else { s with wlChanges := s.wlChanges ++ [⟨r, coreGang core, w.set, w.holding⟩] }).retireAll r core ws :=
  rfl

theorem retireAll_eq (r : TeamRef) (core : Nat) : ∀ (ws : List WlHold) (s : State),
    s.retireAll r core ws = { s with wlChanges := s.wlChanges ++ retirements r core ws }
  | [], s => by rw [State.retireAll, retirements, List.filter_nil, List.map_nil, List.append_nil]
  | w :: ws, s => by
    rw [retireAll_cons, retireAll_eq r core ws, retirements_cons]
    by_cases held : w.holding = 0
    · rw [if_pos held, if_pos held, List.nil_append]
    · rw [if_neg held, if_neg held, List.append_assoc]

/-- The team with its scalar stream ended and nothing held of any set. -/
def Team.afterExit (t : Team) : Team := { t.advance 4 with exited := true, wl := [] }

/-- Nothing is left to be appended by a team without clauses. -/
theorem appendsDone_idle {s : State} {r : TeamRef} {t : Team} (items : ∀ i, i ∈ s.wlItems → i.team ≠ r) (slots : t.slots = []) (queue : t.queue = [])
    (c : Crew) : s.appendsDone r c t = true := by
  have none_under_way : s.wlItems.all (fun i => i.team != r) = true := List.all_eq_true.2 fun i hi => bne_iff_ne.2 (items i hi)
  simp [State.appendsDone, none_under_way, slots, queue]

theorem exec_exit_ends {s : State} {r : TeamRef} {c : Crew} {t : Team} (acts : s.acts r c t) (appended : s.appendsDone r c t = true) :
    exec .exit s = .next (((s.putTeam r t.afterExit).retireAll r c.core t.wl).settle r.crew) := by
  refine (withTeam_acts acts _).trans (congrArg Host.Outcome.next ?_)
  rw [appended]
  rfl

end FencesAndExits

/-- Settles O20: a fence holds or passes by what its team waits for; EXIT retires what the team holds by `retireAll_eq`, and the ends that follow
finish the team by `settle_ended`. -/
theorem fencesAndExit : Obligations.FencesAndExit := by
  refine ⟨?fences, ?exit⟩
  case fences =>
    intro s r c t acts sc
    simp only [← two_le_scopeCode]
    refine ⟨fun queue loads => ?pass, fun waits => ?acquire, fun waits => ?release⟩
    case pass =>
      have acq : t.acqDone = true := Team.acqDone_eq_true.2 ⟨queue, loads⟩
      refine ⟨acquire_wide acts acq, acquire_narrow acts acq, fun sctr lctr => ?_⟩
      have rel : t.relDone = true := Team.relDone_eq_true.2 ⟨acq, sctr, lctr⟩
      exact ⟨fence_advances acts sc rel rfl, acquire_wide acts rel, acquire_narrow acts rel⟩
    case acquire =>
      have busy : t.acqDone = false := Bool.eq_false_iff.2 fun done => by
        obtain ⟨queue, loads⟩ := Team.acqDone_eq_true.1 done
        exact waits.elim (· queue) loads
      exact fence_holds acts sc true busy
    case release =>
      have busy : t.relDone = false := Bool.eq_false_iff.2 fun done => by
        obtain ⟨acq, sctr, lctr⟩ := Team.relDone_eq_true.1 done
        obtain ⟨queue, loads⟩ := Team.acqDone_eq_true.1 acq
        rcases waits with waits | waits | waits | waits
        exacts [waits queue, loads waits, waits sctr, waits lctr]
      exact ⟨fence_holds acts sc false busy, fence_holds acts sc true busy⟩
  case exit =>
    intro s r c t acts running items slots queue idle
    have retired := retireAll_eq r c.core t.wl (s.putTeam r t.afterExit)
    have team : ((s.putTeam r t.afterExit).retireAll r c.core t.wl).teamAt r = some (c.putTeam r.team t.afterExit, t.afterExit) := by
      rw [retired]
      exact teamAt_putTeam acts.2 _
    obtain ⟨c', ended⟩ := settle_ended team idle
    refine ⟨_, c', _, exec_exit_ends acts (appendsDone_idle items slots queue c), ended, rfl, rfl, rfl, ?_, rfl, ?_⟩
    · simp [Team.ended, Team.afterExit, running, queue]
    · rw [settle_wlChanges, retired, State.putTeam_wlChanges]
      rfl

end Sys2Proof.Machine

namespace Sys2Proof

/-! ### The places of a word (00 R9) -/

section Places
variable {n j k lo : Nat} {w : BitVec n}

/-- The bits of `x` stand in `w` from bit `lo` up. -/
def StandsAt (w : BitVec n) (lo : Nat) (x : BitVec k) : Prop := w.extractLsb' lo k = x

theorem append_eq_append_iff {x x' : BitVec j} {y y' : BitVec k} : x ++ y = x' ++ y' ↔ x = x' ∧ y = y' := by
  refine ⟨fun h => ⟨?_, ?_⟩, fun ⟨hx, hy⟩ => hx ▸ hy ▸ rfl⟩
  · rw [← BitVec.extractLsb'_append_eq_left (a := x) (b := y), h, BitVec.extractLsb'_append_eq_left]
  · rw [← BitVec.extractLsb'_append_eq_right (a := x) (b := y), h, BitVec.extractLsb'_append_eq_right]

theorem standsAt_append {x : BitVec j} {y : BitVec k} : StandsAt w lo (x ++ y) ↔ StandsAt w (lo + k) x ∧ StandsAt w lo y := by
  have cut : w.extractLsb' lo (j + k) = w.extractLsb' (lo + k) j ++ w.extractLsb' lo k :=
    (BitVec.extractLsb'_append_extractLsb'_eq_extractLsb' rfl).symm
  rw [StandsAt, cut, append_eq_append_iff, StandsAt, StandsAt]

/-- A word is what stands in it from bit 0 up. -/
theorem eq_iff_standsAt {x : BitVec n} : w = x ↔ StandsAt w 0 x := by
  rw [StandsAt, BitVec.extractLsb'_eq_self]

theorem standsAt_ofBit {c : Bool} : StandsAt w lo (ofBit c) ↔ bitAt w lo = c := by
  have bit : w.extractLsb' lo 1 = ofBit (bitAt w lo) := by
    cases h : bitAt w lo <;> simp_all [bitAt, ofBit, BitVec.eq_of_getLsbD_eq_iff]
  rw [StandsAt, bit]
  cases bitAt w lo <;> cases c <;> decide

theorem standsAt_zero_bit : StandsAt w lo 0#1 ↔ bitAt w lo = false := standsAt_ofBit (c := false)

theorem standsAt_one_bit : StandsAt w lo 1#1 ↔ bitAt w lo = true := standsAt_ofBit (c := true)

end Places

/-! ### Scalar words (07 R134) -/

section ScalarWords
variable {w : W32}

theorem eq_wordSR_iff {m : BitVec 6} {d a b : SReg} {f : BitVec 8} :
    w = wordSR m d a b f ↔ field w 31 26 = m ∧ field w 25 20 = d ∧ field w 19 14 = a ∧ field w 13 8 = b ∧ field w 7 0 = f := by
  rw [eq_iff_standsAt, wordSR]
  simp only [standsAt_append, and_assoc]
  exact Iff.rfl

theorem eq_wordSI_iff {m : BitVec 6} {d a : SReg} {imm : BitVec 14} :
    w = wordSI m d a imm ↔ field w 31 26 = m ∧ field w 25 20 = d ∧ field w 19 14 = a ∧ field w 13 0 = imm := by
  rw [eq_iff_standsAt, wordSI]
  simp only [standsAt_append, and_assoc]
  exact Iff.rfl

theorem eq_wordSB_iff {m : BitVec 6} {a : SReg} {off : BitVec 20} :
    w = wordSB m a off ↔ field w 31 26 = m ∧ field w 25 20 = a ∧ field w 19 0 = off := by
  rw [eq_iff_standsAt, wordSB]
  simp only [standsAt_append, and_assoc]
  exact Iff.rfl

theorem eq_wordSM_iff {md ms : MReg} {mt : BitVec 3} {sd : SReg} {f : BitVec 8} :
    w = wordSM md ms mt sd f ↔ field w 31 26 = 0x14#6 ∧ field w 25 23 = md ∧ field w 22 20 = ms ∧ bitAt w 19 = false ∧
      field w 18 16 = mt ∧ field w 15 14 = 0#2 ∧ field w 13 8 = sd ∧ field w 7 0 = f := by
  rw [eq_iff_standsAt, wordSM]
  simp only [standsAt_append, standsAt_zero_bit, and_assoc]
  exact Iff.rfl

theorem eq_wordSY_iff {d : SReg} {r : BitVec 12} {f : BitVec 8} :
    w = wordSY d r f ↔ field w 31 26 = 0x1D#6 ∧ field w 25 20 = d ∧ field w 19 8 = r ∧ field w 7 0 = f := by
  rw [eq_iff_standsAt, wordSY]
  simp only [standsAt_append, and_assoc]
  exact Iff.rfl

/-! Fields made of fields -/

theorem reg_eq_zero_append_bits5 {e : BitVec 5} : field w 13 8 = 0#1 ++ e ↔ bitAt w 13 = false ∧ field w 12 8 = e := by
  rw [← standsAt_zero_bit]
  exact standsAt_append (w := w) (lo := 8) (x := 0#1) (y := e)

theorem reg_eq_zero_append_bits4 {x : BitVec 4} : field w 13 8 = 0#2 ++ x ↔ field w 13 12 = 0#2 ∧ field w 11 8 = x :=
  standsAt_append (w := w) (lo := 8) (x := 0#2) (y := x)

theorem reg_eq_mreg_append {m : MReg} {z : BitVec 3} : field w 25 20 = m ++ z ↔ field w 25 23 = m ∧ field w 22 20 = z :=
  standsAt_append (w := w) (lo := 20) (x := m) (y := z)

theorem func_eq_append {p : BitVec 5} {c : BitVec 3} : field w 7 0 = p ++ c ↔ field w 7 3 = p ∧ field w 2 0 = c :=
  standsAt_append (w := w) (lo := 0) (x := p) (y := c)

theorem func_toNat : (field w 7 0).toNat = 8 * (field w 7 3).toNat + (field w 2 0).toNat := by
  rw [func_eq_append.2 ⟨rfl, rfl⟩, BitVec.toNat_append, ← Nat.shiftLeft_add_eq_or_of_lt (BitVec.isLt _), Nat.shiftLeft_eq, Nat.mul_comm]

theorem func_parts : field w 7 3 = (field w 7 0).extractLsb' 3 5 ∧ field w 2 0 = (field w 7 0).extractLsb' 0 3 :=
  ⟨(BitVec.extractLsb'_extractLsb'_of_le (by decide)).symm, (BitVec.extractLsb'_extractLsb'_of_le (by decide)).symm⟩

theorem bits_19_14_eq_zero : field w 19 14 = 0#6 ↔ bitAt w 19 = false ∧ field w 18 16 = 0#3 ∧ field w 15 14 = 0#2 := by
  change StandsAt w 14 (0#1 ++ 0#3 ++ 0#2) ↔ _
  simp only [standsAt_append, standsAt_zero_bit, and_assoc]
  exact Iff.rfl

theorem imm_eq_zero_append_bits6 {sh : BitVec 6} : field w 13 0 = 0#8 ++ sh ↔ field w 13 6 = 0#8 ∧ field w 5 0 = sh :=
  standsAt_append (w := w) (lo := 0) (x := 0#8) (y := sh)

theorem imm_eq_zero_append_bits12 {f : BitVec 12} : field w 13 0 = 0#2 ++ f ↔ field w 13 12 = 0#2 ∧ field w 11 0 = f :=
  standsAt_append (w := w) (lo := 0) (x := 0#2) (y := f)

theorem func_eq_accessFunc {t : Bool} {z : ScalarSize} {op : BitVec 3} :
    field w 7 0 = accessFunc t z op ↔ bitAt w 7 = false ∧ bitAt w 6 = t ∧ field w 5 3 = encodeSize z ∧ field w 2 0 = op := by
  change StandsAt w 0 (accessFunc t z op) ↔ _
  rw [accessFunc]
  simp only [standsAt_append, standsAt_zero_bit, standsAt_ofBit, and_assoc]
  exact Iff.rfl

theorem space_eq_tile : field w 7 6 = 1#2 ↔ bitAt w 7 = false ∧ bitAt w 6 = true := by
  rw [← standsAt_zero_bit, ← standsAt_one_bit]
  exact standsAt_append (w := w) (lo := 6) (x := 0#1) (y := 1#1)

/-! Extension words (07 R135, R140, R145) -/

theorem eq_zero24_append_iff {h : Handle} : w = 0#24 ++ h ↔ field w 31 8 = 0#24 ∧ field w 7 0 = h := by
  rw [eq_iff_standsAt]
  exact standsAt_append

theorem bit_12_eq : bitAt w 12 = bitAt (field w 31 8) 4 := by simp [bitAt, field]

theorem eq_zero26_append_iff {g : BitVec 6} : w = 0#26 ++ g ↔ field w 31 6 = 0#26 ∧ field w 5 0 = g := by
  rw [eq_iff_standsAt]
  exact standsAt_append

theorem eq_zero28_append_iff {op : BitVec 4} : w = 0#28 ++ op ↔ field w 31 4 = 0#28 ∧ field w 3 0 = op := by
  rw [eq_iff_standsAt]
  exact standsAt_append

theorem eq_layoutExt_iff {h : Handle} {t : BitVec 4} : w = 0#20 ++ t ++ h ↔ field w 31 12 = 0#20 ∧ field w 11 8 = t ∧ field w 7 0 = h := by
  rw [eq_iff_standsAt]
  simp only [standsAt_append, and_assoc]
  exact Iff.rfl

theorem eq_gwaitExt_iff {h : Handle} {e : BitVec 5} : w = 0#19 ++ e ++ h ↔ field w 31 13 = 0#19 ∧ field w 12 8 = e ∧ field w 7 0 = h := by
  rw [eq_iff_standsAt]
  simp only [standsAt_append, and_assoc]
  exact Iff.rfl

theorem eq_tensorExt_iff {g : BitVec 6} :
    w = 1#20 ++ 0#6 ++ g ↔ field w 31 13 = 0#19 ∧ bitAt w 12 = true ∧ field w 11 6 = 0#6 ∧ field w 5 0 = g := by
  rw [eq_iff_standsAt, show (1#20 : BitVec 20) = 0#19 ++ 1#1 from rfl]
  simp only [standsAt_append, standsAt_one_bit, and_assoc]
  exact Iff.rfl

theorem eq_accessExt_iff {h : Handle} {e : BitVec 5} {c : Bool} {op : BitVec 4} :
    w = accessExt h e c op ↔ field w 31 18 = 0#14 ∧ field w 17 14 = op ∧ bitAt w 13 = c ∧ field w 12 8 = e ∧ field w 7 0 = h := by
  rw [eq_iff_standsAt, accessExt]
  simp only [standsAt_append, standsAt_ofBit, and_assoc]
  exact Iff.rfl

/-- The two pieces of LI's constant (07 R135). -/
theorem append_eq_iff_pieces {ext : W32} {imm : BitVec 14} {v : BitVec 46} :
    v = ext ++ imm ↔ field v 45 14 = ext ∧ field v 13 0 = imm := by
  rw [eq_iff_standsAt]
  exact standsAt_append

end ScalarWords

/-! ### Lane words (07 R148, R150) -/

section LaneWords
variable {w : W32}

theorem eq_encodeHead_iff {w0 w1 : W32} {op : BitVec 10} {h : LaneHead} :
    (w0 = (encodeHead op h).1 ∧ w1 = (encodeHead op h).2) ↔ field w0 31 22 = op ∧ decodeHead w0 w1 = h := by
  rw [eq_iff_standsAt, eq_iff_standsAt, encodeHead]
  simp only [standsAt_append, standsAt_ofBit, and_assoc]
  cases h
  simp only [decodeHead, LaneHead.mk.injEq]
  exact Iff.rfl

theorem eq_encodeModA_iff {m : ModA} : w = encodeModA m ↔ decodeModA w = m ∧ bitAt w 0 = false := by
  rw [eq_iff_standsAt, encodeModA]
  simp only [standsAt_append, standsAt_zero_bit, and_assoc]
  cases m
  simp only [decodeModA, ModA.mk.injEq, and_assoc]
  exact Iff.rfl

theorem eq_encodeModC_iff {m : ModC} : w = encodeModC m ↔ decodeModC w = m ∧ bitAt w 0 = false := by
  rw [eq_iff_standsAt, encodeModC]
  simp only [standsAt_append, standsAt_zero_bit, and_assoc]
  cases m
  simp only [decodeModC, ModC.mk.injEq, and_assoc]
  exact Iff.rfl

theorem eq_encodeModP_iff {m : ModP} : w = encodeModP m ↔ decodeModP w = m ∧ field w 2 0 = 0#3 := by
  rw [eq_iff_standsAt, encodeModP]
  simp only [standsAt_append, and_assoc]
  cases m
  simp only [decodeModP, ModP.mk.injEq, and_assoc]
  exact Iff.rfl

theorem eq_encodeModX_iff {m : ModX} : w = encodeModX m ↔ decodeModX w = m := by
  rw [eq_iff_standsAt, encodeModX]
  simp only [standsAt_append, and_assoc]
  cases m
  simp only [decodeModX, ModX.mk.injEq]
  exact Iff.rfl

theorem eq_encodeModM_iff {mode : BitVec 2} {m : ModM} :
    w = encodeModM mode m ↔ decodeModM w = m ∧ field w 13 12 = mode ∧ field w 1 0 = 0#2 := by
  rw [eq_iff_standsAt, encodeModM]
  simp only [standsAt_append, standsAt_ofBit, and_assoc]
  cases m
  simp only [decodeModM, ModM.mk.injEq, and_assoc]
  constructor
  · rintro ⟨handle, sel, e, tags, consume, glob, aop, q0, zero⟩
    exact ⟨handle, sel, e, consume, glob, aop, q0, tags, zero⟩
  · rintro ⟨handle, sel, e, consume, glob, aop, q0, tags, zero⟩
    exact ⟨handle, sel, e, tags, consume, glob, aop, q0, zero⟩

theorem eq_encodeModMma_iff {pair : Bool} {m : ModMma} :
    w = encodeModMma pair m ↔ decodeModMma w = m ∧ bitAt w 5 = pair ∧ field w 4 0 = 0#5 := by
  rw [eq_iff_standsAt, encodeModMma]
  simp only [standsAt_append, standsAt_ofBit, and_assoc]
  cases m
  simp only [decodeModMma, ModMma.mk.injEq, and_assoc]
  exact Iff.rfl

theorem eq_encodeModDrain_iff {m : ModDrain} :
    w = encodeModDrain m ↔ decodeModDrain w = m ∧ bitAt w 8 = false ∧ field w 5 0 = 0#6 := by
  rw [eq_iff_standsAt, encodeModDrain]
  simp only [standsAt_append, standsAt_ofBit, standsAt_zero_bit, and_assoc]
  cases m
  simp only [decodeModDrain, ModDrain.mk.injEq, and_assoc]
  constructor
  · rintro ⟨dest, res, glob, add, residual, dropout, rm, zero, acc, unused⟩
    exact ⟨dest, res, glob, add, residual, dropout, rm, acc, zero, unused⟩
  · rintro ⟨dest, res, glob, add, residual, dropout, rm, acc, zero, unused⟩
    exact ⟨dest, res, glob, add, residual, dropout, rm, zero, acc, unused⟩

theorem eq_encodeAcc_iff {acc : BitVec 2} : w = encodeAcc acc ↔ field w 31 8 = 0#24 ∧ field w 7 6 = acc ∧ field w 5 0 = 0#6 := by
  rw [eq_iff_standsAt, encodeAcc]
  simp only [standsAt_append, and_assoc]
  exact Iff.rfl

theorem eq_lnopHead_iff : w = 0x180#10 ++ 0#22 ↔ field w 31 22 = 0x180#10 ∧ field w 21 0 = 0#22 := by
  rw [eq_iff_standsAt]
  exact standsAt_append

end LaneWords

/-! ### Codes (06 R121; 07 R138, R140) -/

section Codes

theorem decodeCond_eq_some {c : BitVec 3} {x : Cond} : decodeCond c = some x ↔ c = encodeCond x := by
  revert c
  cases x <;> decide

theorem decodeSize_eq_some {c : BitVec 3} {x : ScalarSize} : decodeSize c = some x ↔ c = encodeSize x := by
  revert c
  cases x <;> decide

theorem decodeAtomOp_eq_some {c : BitVec 4} {x : AtomOp} : decodeAtomOp c = some x ↔ c = encodeAtomOp x := by
  revert c
  cases x <;> decide

theorem decodeScope_eq_some {c : BitVec 3} {x : Scope} : decodeScope c = some x ↔ c = encodeScope x := by
  revert c
  cases x <;> decide

end Codes

/-! ### What a decoder's answer is encoded by (07 R134 to R147) -/

/-- Whatever `r` answers is encoded by the words `ws`. -/
def Reads (r : Except DecodeError Instr) (ws : List W32) : Prop := ∀ i, r = .ok i → encode i = ws

section Reads
variable {ws : List W32} {i : Instr}

theorem Reads.ok (h : encode i = ws) : Reads (.ok i) ws := by
  rintro _ ⟨⟩
  exact h

theorem Reads.error {e : DecodeError} : Reads (.error e) ws := by
  intro i h
  cases h

theorem Reads.mustZero {c : Bool} (h : c = true → encode i = ws) : Reads (mustZero c i) ws := by
  cases c
  · exact .error
  · exact .ok (h rfl)

theorem Reads.assigned {α : Type} {x : Option α} {k : α → Except DecodeError Instr} (h : ∀ a, x = some a → Reads (k a) ws) :
    Reads (assigned x k) ws := by
  cases x
  · exact .error
  · exact h _ rfl

theorem Reads.ite {c : Prop} [Decidable c] {r r' : Except DecodeError Instr} (h : c → Reads r ws) (h' : ¬c → Reads r' ws) :
    Reads (if c then r else r') ws := by
  split
  · exact h ‹_›
  · exact h' ‹_›

theorem Reads.checkWf {r : Except DecodeError Instr} (h : Reads r ws) : Reads (checkWf r) ws := by
  intro j hj
  unfold Sys2Proof.checkWf at hj
  split at hj
  · split_ifs at hj
    exact h _ hj
  · cases hj

end Reads

/-! Majors without an extension word -/

section Words
variable {w : W32}

theorem wordSR_of_fields {m : BitVec 6} {d a b : SReg} {f : BitVec 8} (major : field w 31 26 = m) (func : (field w 7 0).toNat = f.toNat)
    (rest : field w 25 20 = d ∧ field w 19 14 = a ∧ field w 13 8 = b) : [wordSR m d a b f] = [w] := by
  obtain ⟨hd, ha, hb⟩ := rest
  rw [← eq_wordSR_iff.2 ⟨major, hd, ha, hb, BitVec.eq_of_toNat_eq func⟩]

theorem wordSM_of_fields {md ms : MReg} {mt : BitVec 3} {sd : SReg} {f : BitVec 8} (major : field w 31 26 = 0x14#6)
    (func : (field w 7 0).toNat = f.toNat)
    (rest : field w 25 23 = md ∧ field w 22 20 = ms ∧ bitAt w 19 = false ∧ field w 18 16 = mt ∧ field w 15 14 = 0#2 ∧ field w 13 8 = sd) :
    [wordSM md ms mt sd f] = [w] := by
  obtain ⟨hmd, hms, h19, hmt, h15, hsd⟩ := rest
  rw [← eq_wordSM_iff.2 ⟨major, hmd, hms, h19, hmt, h15, hsd, BitVec.eq_of_toNat_eq func⟩]

theorem decodeAlu_reads (major : field w 31 26 = 0x01#6) : Reads (decodeAlu w) [w] := by
  unfold decodeAlu
  split
  case h_22 | h_23 | h_24 => exact .mustZero fun zero => wordSR_of_fields major ‹_› ⟨rfl, rfl, eq_of_beq zero⟩
  case h_33 => exact .error
  all_goals exact .ok (wordSR_of_fields major ‹_› ⟨rfl, rfl, rfl⟩)

theorem decodeMask_reads (major : field w 31 26 = 0x14#6) : Reads (decodeMask w) [w] := by
  unfold decodeMask
  split
  case h_10 => exact .error
  all_goals
    refine .mustZero fun zero => wordSM_of_fields major ‹_› ?_
    simp only [Bool.and_eq_true, beq_iff_eq, bits_19_14_eq_zero, Bool.not_eq_true'] at zero
    simp [zero]

theorem decodeEngine_reads (major : field w 31 26 = 0x19#6) : Reads (decodeEngine w) [w] := by
  unfold decodeEngine
  split
  case h_10 => exact .error
  all_goals
    refine .mustZero fun zero => wordSR_of_fields major ‹_› ?_
    simp only [Bool.and_eq_true, beq_iff_eq, Bool.not_eq_true'] at zero
    simp [zero, reg_eq_zero_append_bits5, reg_eq_zero_append_bits4]

theorem decodeWorkList_reads (major : field w 31 26 = 0x1B#6) : Reads (decodeWorkList w) [w] := by
  unfold decodeWorkList
  split
  case h_4 => exact .error
  all_goals
    refine .mustZero fun zero => wordSR_of_fields major ‹_› ?_
    simp only [beq_iff_eq, Bool.not_eq_true'] at zero
    simp [zero, reg_eq_zero_append_bits5]

theorem decodeSched_reads (major : field w 31 26 = 0x1C#6) : Reads (decodeSched w) [w] := by
  unfold decodeSched
  split
  case h_12 => exact .error
  all_goals
    refine .mustZero fun zero => wordSR_of_fields major ‹_› ?_
    simp only [Bool.and_eq_true, beq_iff_eq, Bool.not_eq_true'] at zero
    simp [zero, reg_eq_zero_append_bits5]

/-- An SR word whose func ends in a code of three bits (07 R138, R144, R146). -/
theorem wordSR_of_coded_func {m : BitVec 6} {d a b : SReg} {p : BitVec 5} {c : BitVec 3} (major : field w 31 26 = m)
    (func : (field w 7 3).toNat = p.toNat) (code : field w 2 0 = c) (rest : field w 25 20 = d ∧ field w 19 14 = a ∧ field w 13 8 = b) :
    [wordSR m d a b (p ++ c)] = [w] :=
  wordSR_of_fields major (congrArg BitVec.toNat (func_eq_append.2 ⟨BitVec.eq_of_toNat_eq func, code⟩)) rest

theorem decodeStream_reads (major : field w 31 26 = 0x17#6) : Reads (decodeStream w) [w] := by
  unfold decodeStream
  split
  case h_5 => exact .error
  all_goals
    refine .mustZero fun zero => wordSR_of_coded_func major ‹_› rfl ?_
    simp only [Bool.and_eq_true, beq_iff_eq] at zero
    simp [zero]

theorem decodeFence_reads (major : field w 31 26 = 0x1E#6) {p : BitVec 5} (func : (field w 7 3).toNat = p.toNat) {f : Scope → Instr}
    (words : ∀ sc, encode (f sc) = [wordSR 0x1E#6 0#6 0#6 0#6 (p ++ encodeScope sc)]) :
    Reads (assigned (decodeScope (field w 2 0)) fun sc => mustZero (field w 25 20 == 0#6 && field w 19 14 == 0#6 && field w 13 8 == 0#6) (f sc)) [w] := by
  refine .assigned fun sc scope => .mustZero fun zero => (words sc).trans ?_
  simp only [Bool.and_eq_true, beq_iff_eq, and_assoc] at zero
  exact wordSR_of_coded_func major func (decodeScope_eq_some.1 scope) zero

theorem decodeMisc_reads (major : field w 31 26 = 0x1E#6) : Reads (decodeMisc w) [w] := by
  unfold decodeMisc
  split
  case h_1 func =>
    split
    case h_4 => exact .error
    all_goals
      refine .mustZero fun zero => wordSR_of_fields major (func_toNat.trans (by rw [func, ‹(field w 2 0).toNat = _›]; rfl)) ?_
      simp only [Bool.and_eq_true, beq_iff_eq] at zero
      simp [zero]
  case h_2 func => exact decodeFence_reads (p := 8#5) major func fun _ => rfl
  case h_3 func => exact decodeFence_reads (p := 9#5) major func fun _ => rfl
  case h_4 func => exact decodeFence_reads (p := 10#5) major func fun _ => rfl
  case h_5 => exact .error

theorem wordSY_of_fields {d : SReg} {r : BitVec 12} {f : BitVec 8} (major : field w 31 26 = 0x1D#6) (func : (field w 7 0).toNat = f.toNat)
    (rest : field w 25 20 = d ∧ field w 19 8 = r) : [wordSY d r f] = [w] := by
  obtain ⟨hd, hr⟩ := rest
  rw [← eq_wordSY_iff.2 ⟨major, hd, hr, BitVec.eq_of_toNat_eq func⟩]

theorem decodeSys_reads (major : field w 31 26 = 0x1D#6) : Reads (decodeSys w) [w] := by
  unfold decodeSys
  split
  case h_1 | h_2 => exact .ite (fun _ => .ok (wordSY_of_fields major ‹_› ⟨rfl, rfl⟩)) fun _ => .error
  case h_6 => exact .error
  all_goals
    refine .mustZero fun zero => wordSY_of_fields major ‹_› ?_
    simp only [Bool.and_eq_true, beq_iff_eq] at zero
    simp [zero]

end Words

/-! Majors with an extension word -/

section ExtendedWords
variable {w ext : W32}

theorem wordSR_ext_of_fields {m : BitVec 6} {d a b : SReg} {f : BitVec 8} {x : W32} (major : field w 31 26 = m)
    (func : (field w 7 0).toNat = f.toNat) (rest : (field w 25 20 = d ∧ field w 19 14 = a ∧ field w 13 8 = b) ∧ ext = x) :
    [wordSR m d a b f, x] = [w, ext] := by
  obtain ⟨⟨hd, ha, hb⟩, rfl⟩ := rest
  rw [← eq_wordSR_iff.2 ⟨major, hd, ha, hb, BitVec.eq_of_toNat_eq func⟩]

theorem decodeGate_reads (major : field w 31 26 = 0x1A#6) : Reads (decodeGate w ext) [w, ext] := by
  unfold decodeGate
  split
  case h_5 => exact .error
  all_goals
    refine .mustZero fun zero => wordSR_ext_of_fields major ‹_› ?_
    simp only [Bool.and_eq_true, beq_iff_eq] at zero
    simp [zero, eq_zero24_append_iff, eq_gwaitExt_iff]

theorem decodeTile_reads (major : field w 31 26 = 0x18#6) : Reads (decodeTile w ext) [w, ext] := by
  unfold decodeTile
  split
  case h_7 func =>
    refine .ite (fun tensor => ?_) fun _ => ?_
    all_goals
      refine .mustZero fun zero => wordSR_ext_of_fields major func ?_
      simp only [Bool.and_eq_true, beq_iff_eq] at zero
    · obtain ⟨⟨high, unused⟩, rb⟩ := zero
      exact ⟨⟨rfl, rfl, rb⟩, eq_tensorExt_iff.2 ⟨high, tensor, unused, rfl⟩⟩
    · simp [zero, eq_zero24_append_iff]
  case h_8 => exact .error
  all_goals
    refine .mustZero fun zero => wordSR_ext_of_fields major ‹_› ?_
    simp only [Bool.and_eq_true, beq_iff_eq] at zero
    simp [zero, eq_zero24_append_iff, eq_zero26_append_iff, eq_layoutExt_iff]

theorem accessWords_of_fields {t : Bool} {z : ScalarSize} {d a b : SReg} {op : BitVec 3} {x : W32} (major : field w 31 26 = 0x0B#6)
    (sign : ¬bitAt w 7 = true) (size : decodeSize (field w 5 3) = some z) (func : (field w 2 0).toNat = op.toNat)
    (space : bitAt w 6 = t) (rest : (field w 25 20 = d ∧ field w 19 14 = a ∧ field w 13 8 = b) ∧ ext = x) :
    [wordSR 0x0B#6 d a b (accessFunc t z op), x] = [w, ext] := by
  have access : field w 7 0 = accessFunc t z op :=
    func_eq_accessFunc.2 ⟨Bool.eq_false_iff.2 sign, space, decodeSize_eq_some.1 size, BitVec.eq_of_toNat_eq func⟩
  exact wordSR_ext_of_fields major (congrArg BitVec.toNat access) rest

theorem decodeAccess_reads (major : field w 31 26 = 0x0B#6) : Reads (decodeAccess w ext) [w, ext] := by
  unfold decodeAccess
  refine .ite (fun _ => .error) fun sign => .assigned fun z size => ?_
  have space : (field w 7 6 == 1#2) = bitAt w 6 := by
    rw [Bool.eq_iff_iff, beq_iff_eq, space_eq_tile]
    simp [sign]
  simp only [space]
  split
  case h_6 => exact .error
  case h_1 func | h_2 func =>
    refine .ite (fun tile => .mustZero fun zero => ?_) fun glob => .mustZero fun zero => ?_
    · refine accessWords_of_fields major sign size func tile ?_
      simp only [Bool.and_eq_true, beq_iff_eq, Bool.not_eq_true'] at zero
      simp [zero, eq_accessExt_iff]
    · exact accessWords_of_fields major sign size func (Bool.eq_false_iff.2 glob) ⟨⟨rfl, rfl, eq_of_beq zero⟩, rfl⟩
  case h_3 func | h_4 func =>
    refine .ite (fun tile => .mustZero fun zero => ?_) fun _ => .error
    refine accessWords_of_fields major sign size func tile ?_
    simp only [Bool.and_eq_true, beq_iff_eq, Bool.not_eq_true'] at zero
    simp [zero, eq_accessExt_iff]
  case h_5 func =>
    refine .ite (fun tile => .assigned fun op code => .mustZero fun zero => ?_) fun glob => .assigned fun op code => .mustZero fun zero => ?_
    · refine accessWords_of_fields major sign size func tile ?_
      simp only [Bool.and_eq_true, beq_iff_eq, Bool.not_eq_true'] at zero
      simp [zero, eq_accessExt_iff, ← decodeAtomOp_eq_some.1 code]
    · refine accessWords_of_fields major sign size func (Bool.eq_false_iff.2 glob) ⟨⟨rfl, rfl, rfl⟩, ?_⟩
      exact eq_zero28_append_iff.2 ⟨eq_of_beq zero, decodeAtomOp_eq_some.1 code⟩

end ExtendedWords

/-! The map of the majors (07 R137) -/

section Majors
variable {w ext : W32}

theorem hasExt_of_major {k : Nat} (major : (field w 31 26).toNat = k) : hasExt w = [0x09, 0x0A, 0x0B, 0x13, 0x18, 0x1A].contains k := by
  rw [hasExt, major]

theorem wordSI_of_fields {m : BitVec 6} {d a : SReg} {imm : BitVec 14} (major : (field w 31 26).toNat = m.toNat)
    (rest : field w 25 20 = d ∧ field w 19 14 = a ∧ field w 13 0 = imm) : [wordSI m d a imm] = [w] := by
  rw [← eq_wordSI_iff.2 ⟨BitVec.eq_of_toNat_eq major, rest⟩]

theorem wordSB_of_fields {m : BitVec 6} {a : SReg} {off : BitVec 20} (major : (field w 31 26).toNat = m.toNat)
    (rest : field w 25 20 = a ∧ field w 19 0 = off) : [wordSB m a off] = [w] := by
  rw [← eq_wordSB_iff.2 ⟨BitVec.eq_of_toNat_eq major, rest⟩]

theorem liWords_of_fields {d a : SReg} {imm : BitVec 14} {x : W32} (major : (field w 31 26).toNat = 0x09)
    (rest : field w 25 20 = d ∧ field w 19 14 = a ∧ field w 13 0 = imm) (extension : ext = x) : [wordSI 0x09#6 d a imm, x] = [w, ext] := by
  rw [← eq_wordSI_iff.2 ⟨BitVec.eq_of_toNat_eq major, rest⟩, extension]

theorem decodeMajor_reads : Reads (decodeMajor w ext) (if hasExt w then [w, ext] else [w]) := by
  unfold decodeMajor
  split
  case h_31 => exact .error
  all_goals rw [hasExt_of_major ‹(field w 31 26).toNat = _›]
  case h_1 major => exact decodeAlu_reads (BitVec.eq_of_toNat_eq major)
  case h_2 major | h_3 major | h_4 major | h_5 major => exact .ok (wordSI_of_fields major ⟨rfl, rfl, rfl⟩)
  case h_6 major | h_7 major | h_8 major =>
    exact .mustZero fun zero => wordSI_of_fields major ⟨rfl, rfl, imm_eq_zero_append_bits6.2 ⟨eq_of_beq zero, rfl⟩⟩
  case h_9 major =>
    refine .ite (fun low => .ok ?_) fun _ => .ite (fun high => .mustZero fun zero => ?_) fun _ => .error
    · obtain ⟨top, bottom⟩ := append_eq_iff_pieces.1 (rfl : ext ++ field w 13 0 = ext ++ field w 13 0)
      exact liWords_of_fields major ⟨rfl, eq_of_beq low, bottom.symm⟩ top.symm
    · exact liWords_of_fields major ⟨rfl, eq_of_beq high, eq_of_beq zero⟩ rfl
  case h_10 major =>
    refine .mustZero fun zero => ?_
    simp only [Bool.and_eq_true, beq_iff_eq] at zero
    obtain ⟨func, high⟩ := zero
    exact wordSR_ext_of_fields (BitVec.eq_of_toNat_eq major) (congrArg BitVec.toNat func) ⟨⟨rfl, rfl, rfl⟩, eq_zero26_append_iff.2 ⟨high, rfl⟩⟩
  case h_11 major => exact decodeAccess_reads (BitVec.eq_of_toNat_eq major)
  case h_12 major | h_15 major | h_21 major => exact .mustZero fun zero => wordSB_of_fields major ⟨eq_of_beq zero, rfl⟩
  case h_13 major | h_14 major | h_16 major => exact .ok (wordSB_of_fields major ⟨rfl, rfl⟩)
  case h_17 major | h_18 major =>
    exact .mustZero fun zero => wordSB_of_fields major ⟨reg_eq_mreg_append.2 ⟨rfl, eq_of_beq zero⟩, rfl⟩
  case h_19 major =>
    refine .assigned fun cc code => .mustZero fun zero => ?_
    simp only [Bool.and_eq_true, beq_iff_eq] at zero
    obtain ⟨rd, high⟩ := zero
    have func : field w 7 0 = 0#5 ++ encodeCond cc := func_eq_append.2 ⟨high, decodeCond_eq_some.1 code⟩
    exact wordSR_ext_of_fields (BitVec.eq_of_toNat_eq major) (congrArg BitVec.toNat func) ⟨⟨rd, rfl, rfl⟩, rfl⟩
  case h_20 major => exact decodeMask_reads (BitVec.eq_of_toNat_eq major)
  case h_22 major =>
    change Reads _ [w]
    dsimp only
    split
    case h_4 => exact .error
    all_goals
      refine .mustZero fun zero => wordSI_of_fields major ?_
      simp only [Bool.and_eq_true, beq_iff_eq] at zero
      obtain ⟨rd, imm⟩ := zero
    case h_1 ra | h_2 ra => exact ⟨rd, BitVec.eq_of_toNat_eq ra, imm_eq_zero_append_bits12.2 ⟨imm, rfl⟩⟩
    case h_3 ra => exact ⟨rd, BitVec.eq_of_toNat_eq ra, imm⟩
  case h_23 major => exact decodeStream_reads (BitVec.eq_of_toNat_eq major)
  case h_24 major => exact decodeTile_reads (BitVec.eq_of_toNat_eq major)
  case h_25 major => exact decodeEngine_reads (BitVec.eq_of_toNat_eq major)
  case h_26 major => exact decodeGate_reads (BitVec.eq_of_toNat_eq major)
  case h_27 major => exact decodeWorkList_reads (BitVec.eq_of_toNat_eq major)
  case h_28 major => exact decodeSched_reads (BitVec.eq_of_toNat_eq major)
  case h_29 major => exact decodeSys_reads (BitVec.eq_of_toNat_eq major)
  case h_30 major => exact decodeMisc_reads (BitVec.eq_of_toNat_eq major)
end Majors

/-! ### Lane instructions: what a decoder's answer is encoded by (07 R148, R150, R152) -/

section LaneTables
variable {op : Nat} (h : LaneHead)

theorem encode_laneOpA {f : LaneHead → ModA → Instr} (entry : laneOpA op = some f) (m : ModA) :
    encode (f h m) = laneWords (BitVec.ofNat 10 op) h (encodeModA m) := by
  unfold laneOpA at entry
  split at entry
  all_goals cases entry
  all_goals rfl

theorem encode_laneOpC {f : LaneHead → ModC → Instr} (entry : laneOpC op = some f) (m : ModC) :
    encode (f h m) = laneWords (BitVec.ofNat 10 op) h (encodeModC m) := by
  unfold laneOpC at entry
  split at entry
  all_goals cases entry
  all_goals rfl

theorem encode_laneOpP {f : LaneHead → ModP → Instr} (entry : laneOpP op = some f) (m : ModP) :
    encode (f h m) = laneWords (BitVec.ofNat 10 op) h (encodeModP m) := by
  unfold laneOpP at entry
  split at entry
  all_goals cases entry
  all_goals rfl

theorem encode_laneOpX {f : LaneHead → ModX → Instr} (entry : laneOpX op = some f) (m : ModX) :
    encode (f h m) = laneWords (BitVec.ofNat 10 op) h (encodeModX m) := by
  unfold laneOpX at entry
  split at entry
  all_goals cases entry
  all_goals rfl

theorem encode_laneOpM {f : LaneHead → ModM → Instr} (entry : laneOpM op = some f) (m : ModM) :
    encode (f h m) = laneWords (BitVec.ofNat 10 op) h (encodeModM 0#2 m) := by
  unfold laneOpM at entry
  split at entry
  all_goals cases entry
  all_goals rfl

end LaneTables

section LaneReads
variable {w0 w1 w2 : W32}

theorem laneWords_of_fields {k : Nat} {x : W32} (opcode : (field w0 31 22).toNat = k) (modifier : w2 = x) :
    laneWords (BitVec.ofNat 10 k) (decodeHead w0 w1) x = [w0, w1, w2] := by
  subst opcode modifier
  obtain ⟨first, second⟩ := eq_encodeHead_iff.2 (⟨rfl, rfl⟩ : field w0 31 22 = field w0 31 22 ∧ decodeHead w0 w1 = decodeHead w0 w1)
  rw [BitVec.ofNat_toNat, BitVec.setWidth_eq, laneWords, ← first, ← second]

theorem decodeTagMode_reads {k : Nat} (opcode : (field w0 31 22).toNat = k) (zero : field w2 1 0 = 0#2) :
    Reads (decodeTagMode k (decodeHead w0 w1) (decodeModM w2) (field w2 13 12)) [w0, w1, w2] := by
  unfold decodeTagMode
  split
  case h_5 => exact .error
  all_goals exact .ok (laneWords_of_fields opcode (eq_encodeModM_iff.2 ⟨rfl, BitVec.eq_of_toNat_eq ‹(field w2 13 12).toNat = _›, zero⟩))

theorem decodeLaneRaw_reads : Reads (decodeLaneRaw w0 w1 w2) [w0, w1, w2] := by
  unfold decodeLaneRaw
  dsimp only
  split
  next f entry =>
    refine .mustZero fun zero => (encode_laneOpA _ entry _).trans (laneWords_of_fields rfl (eq_encodeModA_iff.2 ⟨rfl, ?_⟩))
    simpa using zero
  split
  next f entry =>
    refine .mustZero fun zero => (encode_laneOpC _ entry _).trans (laneWords_of_fields rfl (eq_encodeModC_iff.2 ⟨rfl, ?_⟩))
    simpa using zero
  split
  next f entry =>
    exact .mustZero fun zero => (encode_laneOpP _ entry _).trans (laneWords_of_fields rfl (eq_encodeModP_iff.2 ⟨rfl, eq_of_beq zero⟩))
  split
  next f entry => exact .ok ((encode_laneOpX _ entry _).trans (laneWords_of_fields rfl (eq_encodeModX_iff.2 rfl)))
  split
  next f entry =>
    refine .mustZero fun zero => (encode_laneOpM _ entry _).trans (laneWords_of_fields rfl (eq_encodeModM_iff.2 ⟨rfl, ?_⟩))
    simpa [and_comm] using zero
  split
  case h_1 opcode => exact .ok (laneWords_of_fields opcode rfl)
  case h_2 opcode | h_3 opcode => exact .ite (fun zero => decodeTagMode_reads rfl (eq_of_beq zero)) fun _ => .error
  case h_4 opcode =>
    refine .mustZero fun zero => ?_
    by_cases pair : bitAt w2 5 = true
    · rw [if_pos pair]
      exact laneWords_of_fields opcode (eq_encodeModMma_iff.2 ⟨rfl, pair, eq_of_beq zero⟩)
    · rw [if_neg pair]
      exact laneWords_of_fields opcode (eq_encodeModMma_iff.2 ⟨rfl, Bool.eq_false_iff.2 pair, eq_of_beq zero⟩)
  case h_5 opcode | h_6 opcode | h_7 opcode =>
    refine .mustZero fun zero => laneWords_of_fields opcode (eq_encodeAcc_iff.2 ?_)
    simpa using zero
  case h_8 opcode =>
    refine .mustZero fun zero => laneWords_of_fields opcode (eq_encodeModDrain_iff.2 ⟨rfl, ?_⟩)
    simpa using zero
  case h_9 opcode =>
    refine .mustZero fun zero => ?_
    simp only [Bool.and_eq_true, beq_iff_eq] at zero
    obtain ⟨⟨unused, rfl⟩, rfl⟩ := zero
    rw [eq_lnopHead_iff.2 ⟨BitVec.eq_of_toNat_eq opcode, unused⟩]
    rfl
  case h_10 => exact .error

end LaneReads

/-- Settles O2: the decoders' maps read words that the encoding tables give back, and the admission of operands changes no word. -/
theorem encodeOfDecodeIsTheWords : Obligations.EncodeOfDecodeIsTheWords :=
  ⟨fun _ _ i => decodeMajor_reads.checkWf i, fun _ _ _ i => decodeLaneRaw_reads.checkWf i⟩

/-- Settles O3: the decoder is computed on each word. -/
theorem documentedWordsDecode : Obligations.DocumentedWordsDecode := ⟨rfl, rfl, rfl, rfl, rfl, rfl, rfl, rfl⟩

/-! ### Scalar instructions: the words of an instruction decode to it (07 R134 to R147) -/

/-- A system register that the instruction names is one of 08 R186 or 17 R341. -/
def Instr.sysRegNamed : Instr → Bool
  | .sysr _ r | .sysw _ r => sysRegAssigned r
  | _ => true

section ScalarWordsBack
variable {w ext x y : W32} {i : Instr}

theorem eq_of_one_word (words : [x] = [w] ∨ [x] = [w, ext]) : w = x := by
  rcases words with words | words
  all_goals cases words
  rfl

theorem eq_of_two_words (words : [x, y] = [w] ∨ [x, y] = [w, ext]) : w = x ∧ ext = y := by
  rcases words with words | words
  all_goals cases words
  exact ⟨rfl, rfl⟩

theorem wordSR_ext_fields {m : BitVec 6} {d a b : SReg} {f : BitVec 8} (words : [wordSR m d a b f, x] = [w] ∨ [wordSR m d a b f, x] = [w, ext]) :
    (field w 31 26 = m ∧ field w 25 20 = d ∧ field w 19 14 = a ∧ field w 13 8 = b ∧ field w 7 0 = f) ∧ ext = x :=
  (eq_of_two_words words).imp_left eq_wordSR_iff.1

/-! The majors that have a map of their own (07 R137) -/

theorem decodeMajor_alu (major : field w 31 26 = 0x01#6) : decodeMajor w ext = decodeAlu w := by rw [decodeMajor, major]; rfl
theorem decodeMajor_access (major : field w 31 26 = 0x0B#6) : decodeMajor w ext = decodeAccess w ext := by rw [decodeMajor, major]; rfl
theorem decodeMajor_mask (major : field w 31 26 = 0x14#6) : decodeMajor w ext = decodeMask w := by rw [decodeMajor, major]; rfl
theorem decodeMajor_stream (major : field w 31 26 = 0x17#6) : decodeMajor w ext = decodeStream w := by rw [decodeMajor, major]; rfl
theorem decodeMajor_tile (major : field w 31 26 = 0x18#6) : decodeMajor w ext = decodeTile w ext := by rw [decodeMajor, major]; rfl
theorem decodeMajor_engine (major : field w 31 26 = 0x19#6) : decodeMajor w ext = decodeEngine w := by rw [decodeMajor, major]; rfl
theorem decodeMajor_gate (major : field w 31 26 = 0x1A#6) : decodeMajor w ext = decodeGate w ext := by rw [decodeMajor, major]; rfl
theorem decodeMajor_workList (major : field w 31 26 = 0x1B#6) : decodeMajor w ext = decodeWorkList w := by rw [decodeMajor, major]; rfl
theorem decodeMajor_sched (major : field w 31 26 = 0x1C#6) : decodeMajor w ext = decodeSched w := by rw [decodeMajor, major]; rfl
theorem decodeMajor_sys (major : field w 31 26 = 0x1D#6) : decodeMajor w ext = decodeSys w := by rw [decodeMajor, major]; rfl
theorem decodeMajor_misc (major : field w 31 26 = 0x1E#6) : decodeMajor w ext = decodeMisc w := by rw [decodeMajor, major]; rfl

theorem decodeAccess_of_word {d a b : SReg} {t : Bool} {z : ScalarSize} {op : BitVec 3}
    (word : w = wordSR 0x0B#6 d a b (accessFunc t z op)) :
    decodeMajor w ext = decodeAccess w ext ∧ bitAt w 7 = false ∧ (field w 7 6 == 1#2) = t ∧ decodeSize (field w 5 3) = some z ∧
      field w 2 0 = op ∧ field w 25 20 = d ∧ field w 19 14 = a ∧ field w 13 8 = b := by
  obtain ⟨major, rd, ra, rb, func⟩ := eq_wordSR_iff.1 word
  obtain ⟨sign, space, size, code⟩ := func_eq_accessFunc.1 func
  refine ⟨decodeMajor_access major, sign, ?_, by rw [size, decodeSize_eq_some.2 rfl], code, rd, ra, rb⟩
  rw [Bool.eq_iff_iff, beq_iff_eq, space_eq_tile]
  simp [sign, space]

theorem decodeMajor_of_encode (scalar : i.stream = some .scalar) (named : i.sysRegNamed = true)
    (words : encode i = [w] ∨ encode i = [w, ext]) : decodeMajor w ext = .ok i := by
  cases i with
  | add d a b | sub d a b | mul d a b | mulh d a b | mulhn d a b | div d a b | divn d a b | rem d a b | remn d a b | and d a b | or d a b
  | xor d a b | andn d a b | shl d a b | shr d a b | sar d a b | rol d a b | min d a b | max d a b | minn d a b | maxn d a b | clz d a | popc d a
  | brev d a | sext d a b | zext d a b =>
    obtain ⟨major, rd, ra, rb, func⟩ := eq_wordSR_iff.1 (eq_of_one_word words)
    rw [decodeMajor_alu major, decodeAlu, func, rd, ra, rb]
    rfl
  | set d a b cc =>
    obtain ⟨major, rd, ra, rb, func⟩ := eq_wordSR_iff.1 (eq_of_one_word words)
    rw [decodeMajor_alu major, decodeAlu, func, rd, ra, rb]
    cases cc <;> rfl
  | addi d a imm | andi d a imm | ori d a imm | xori d a imm =>
    obtain ⟨major, rd, ra, imm14⟩ := eq_wordSI_iff.1 (eq_of_one_word words)
    rw [decodeMajor, major, rd, ra, imm14]
    rfl
  | shli d a sh | shri d a sh | sari d a sh =>
    obtain ⟨major, rd, ra, imm14⟩ := eq_wordSI_iff.1 (eq_of_one_word words)
    obtain ⟨zero, amount⟩ := imm_eq_zero_append_bits6.1 imm14
    rw [decodeMajor, major, rd, ra, zero, amount]
    rfl
  | li d imm =>
    obtain ⟨word, rfl⟩ := eq_of_two_words words
    obtain ⟨major, rd, ra, imm14⟩ := eq_wordSI_iff.1 word
    have whole : imm = field imm 45 14 ++ field imm 13 0 := append_eq_iff_pieces.2 ⟨rfl, rfl⟩
    rw [decodeMajor, major, rd, ra, imm14]
    exact congrArg Except.ok (congrArg (Instr.li d) whole.symm)
  | liHi d hi =>
    obtain ⟨word, rfl⟩ := eq_of_two_words words
    obtain ⟨major, rd, ra, imm14⟩ := eq_wordSI_iff.1 word
    rw [decodeMajor, major, rd, ra, imm14]
    rfl
  | sel d a b c =>
    obtain ⟨⟨major, rd, ra, rb, func⟩, extension⟩ := wordSR_ext_fields words
    obtain ⟨high, low⟩ := eq_zero26_append_iff.1 extension
    rw [decodeMajor, major, rd, ra, rb, func, high, low]
    rfl
  | sld d a z space | sst d a z space =>
    cases space with
    | glob off =>
      obtain ⟨word, rfl⟩ := eq_of_two_words words
      obtain ⟨major, sign, space, size, op, rd, ra, rb⟩ := decodeAccess_of_word word
      rw [major, decodeAccess, sign, space, size, op, rd, ra, rb]
      rfl
    | tile h =>
      obtain ⟨word, extension⟩ := eq_of_two_words words
      obtain ⟨major, sign, space, size, op, rd, ra, rb⟩ := decodeAccess_of_word word
      obtain ⟨high, aop, consume, e, handle⟩ := eq_accessExt_iff.1 extension
      rw [major, decodeAccess, sign, space, size, op, rd, ra, rb, high, aop, consume, e, handle]
      rfl
  | sldf d a b z h e c | sste d a b z h e =>
    obtain ⟨word, extension⟩ := eq_of_two_words words
    obtain ⟨major, sign, space, size, op, rd, ra, rb⟩ := decodeAccess_of_word word
    obtain ⟨high, aop, consume, e, handle⟩ := eq_accessExt_iff.1 extension
    rw [major, decodeAccess, sign, space, size, op, rd, ra, rb, high, aop, consume, e, handle]
    rfl
  | satom d a b z aop space =>
    cases space with
    | glob =>
      obtain ⟨word, extension⟩ := eq_of_two_words words
      obtain ⟨major, sign, space, size, op, rd, ra, rb⟩ := decodeAccess_of_word word
      obtain ⟨high, code⟩ := eq_zero28_append_iff.1 extension
      rw [major, decodeAccess, sign, space, size, op, rd, ra, rb, high, code, decodeAtomOp_eq_some.2 rfl]
      rfl
    | tile h =>
      obtain ⟨word, extension⟩ := eq_of_two_words words
      obtain ⟨major, sign, space, size, op, rd, ra, rb⟩ := decodeAccess_of_word word
      obtain ⟨high, code, consume, e, handle⟩ := eq_accessExt_iff.1 extension
      rw [major, decodeAccess, sign, space, size, op, rd, ra, rb, high, code, consume, e, handle, decodeAtomOp_eq_some.2 rfl]
      rfl
  | b off | call off | lq off | bz a off | bnz a off | loop a off =>
    obtain ⟨major, ra, target⟩ := eq_wordSB_iff.1 (eq_of_one_word words)
    rw [decodeMajor, major, ra, target]
    rfl
  | bmz m off | bmnz m off =>
    obtain ⟨major, ra, target⟩ := eq_wordSB_iff.1 (eq_of_one_word words)
    obtain ⟨rm, zero⟩ := reg_eq_mreg_append.1 ra
    rw [decodeMajor, major, rm, zero, target]
    rfl
  | bcmp cc a b off =>
    obtain ⟨⟨major, rd, ra, rb, func⟩, rfl⟩ := wordSR_ext_fields words
    obtain ⟨zero, code⟩ := func_eq_append.1 func
    rw [decodeMajor, major, rd, ra, rb, zero, code, decodeCond_eq_some.2 rfl]
    rfl
  | mpush ms | melse | mpop | mmov md ms | mand md ms mt | mor md ms mt | mnot md ms | mcnt sd ms | mfirst sd ms =>
    obtain ⟨major, rmd, rms, high, rmt, low, rsd, func⟩ := eq_wordSM_iff.1 (eq_of_one_word words)
    rw [decodeMajor_mask major, decodeMask, func]
    simp [mustZero, rmd, rms, high, rmt, low, rsd, bits_19_14_eq_zero]
  | fwait f | fclr f =>
    obtain ⟨major, rd, ra, imm14⟩ := eq_wordSI_iff.1 (eq_of_one_word words)
    obtain ⟨zero, flags⟩ := imm_eq_zero_append_bits12.1 imm14
    rw [decodeMajor, major, rd, ra, zero, flags]
    rfl
  | ldrain =>
    obtain ⟨major, rd, ra, imm14⟩ := eq_wordSI_iff.1 (eq_of_one_word words)
    rw [decodeMajor, major, rd, ra, imm14]
    rfl
  | strmD q a b | strmC4 q a b | qld q a | qclose q =>
    obtain ⟨major, rd, ra, rb, func⟩ := eq_wordSR_iff.1 (eq_of_one_word words)
    obtain ⟨code, queue⟩ := func_eq_append.1 func
    rw [decodeMajor_stream major, decodeStream, rd, ra, rb, code, queue]
    rfl
  | xwin win a =>
    obtain ⟨major, rd, ra, rb, func⟩ := eq_wordSR_iff.1 (eq_of_one_word words)
    obtain ⟨zero, window⟩ := reg_eq_zero_append_bits4.1 rb
    rw [decodeMajor_engine major, decodeEngine, func, rd, ra, zero, window]
    rfl
  | bwait d a e | mwait d a e =>
    obtain ⟨major, rd, ra, rb, func⟩ := eq_wordSR_iff.1 (eq_of_one_word words)
    obtain ⟨zero, limit⟩ := reg_eq_zero_append_bits5.1 rb
    rw [decodeMajor_engine major, decodeEngine, func, rd, ra, zero, limit]
    rfl
  | xcopy d a | xred d a | bclose d | pbarPdomain | pbarPspan | stepmark a =>
    obtain ⟨major, rd, ra, rb, func⟩ := eq_wordSR_iff.1 (eq_of_one_word words)
    rw [decodeMajor_engine major, decodeEngine, func, rd, ra, rb]
    rfl
  | talloc d a b h | tfree h | tdesc d h | lwait h =>
    obtain ⟨⟨major, rd, ra, rb, func⟩, extension⟩ := wordSR_ext_fields words
    obtain ⟨high, handle⟩ := eq_zero24_append_iff.1 extension
    rw [decodeMajor_tile major, decodeTile, func, rd, ra, rb, high, handle]
    rfl
  | layout d h t =>
    obtain ⟨⟨major, rd, ra, rb, func⟩, extension⟩ := wordSR_ext_fields words
    obtain ⟨high, tag, handle⟩ := eq_layoutExt_iff.1 extension
    rw [decodeMajor_tile major, decodeTile, func, rd, ra, rb, high, tag, handle]
    rfl
  | gbind d a g =>
    obtain ⟨⟨major, rd, ra, rb, func⟩, extension⟩ := wordSR_ext_fields words
    obtain ⟨high, handle⟩ := eq_zero26_append_iff.1 extension
    rw [decodeMajor_tile major, decodeTile, func, rd, ra, rb, high, handle]
    rfl
  | zfill d a target =>
    cases target with
    | tile h =>
      obtain ⟨⟨major, rd, ra, rb, func⟩, extension⟩ := wordSR_ext_fields words
      obtain ⟨high, handle⟩ := eq_zero24_append_iff.1 extension
      rw [decodeMajor_tile major, decodeTile, func, rd, ra, rb, bit_12_eq, high, handle]
      rfl
    | tensor g =>
      obtain ⟨⟨major, rd, ra, rb, func⟩, extension⟩ := wordSR_ext_fields words
      obtain ⟨high, tensor, unused, handle⟩ := eq_tensorExt_iff.1 extension
      rw [decodeMajor_tile major, decodeTile, func, rd, ra, rb, high, tensor, unused, handle]
      rfl
  | ginit a b h | garrive d a h | gexpect a b h =>
    obtain ⟨⟨major, rd, ra, rb, func⟩, extension⟩ := wordSR_ext_fields words
    obtain ⟨high, handle⟩ := eq_zero24_append_iff.1 extension
    rw [decodeMajor_gate major, decodeGate, func, rd, ra, rb, high, handle]
    rfl
  | gwait d a b h e =>
    obtain ⟨⟨major, rd, ra, rb, func⟩, extension⟩ := wordSR_ext_fields words
    obtain ⟨high, limit, handle⟩ := eq_gwaitExt_iff.1 extension
    rw [decodeMajor_gate major, decodeGate, func, rd, ra, rb, high, limit, handle]
    rfl
  | wlinit d a =>
    obtain ⟨major, rd, ra, rb, func⟩ := eq_wordSR_iff.1 (eq_of_one_word words)
    rw [decodeMajor_workList major, decodeWorkList, func, rd, ra, rb]
    rfl
  | wltake d a e | tdwait d a e =>
    obtain ⟨major, rd, ra, rb, func⟩ := eq_wordSR_iff.1 (eq_of_one_word words)
    obtain ⟨zero, limit⟩ := reg_eq_zero_append_bits5.1 rb
    rw [decodeMajor_workList major, decodeWorkList, func, rd, ra, zero, limit]
    rfl
  | rgrow d a e =>
    obtain ⟨major, rd, ra, rb, func⟩ := eq_wordSR_iff.1 (eq_of_one_word words)
    obtain ⟨zero, limit⟩ := reg_eq_zero_append_bits5.1 rb
    rw [decodeMajor_sched major, decodeSched, func, rd, ra, zero, limit]
    rfl
  | rshrink a | yield | guardBegin | guardEnd | nopreBegin | nopreEnd | capq d | locq d a | launch d a | tclaim d a =>
    obtain ⟨major, rd, ra, rb, func⟩ := eq_wordSR_iff.1 (eq_of_one_word words)
    rw [decodeMajor_sched major, decodeSched, func, rd, ra, rb]
    rfl
  | sysr d r | sysw d r =>
    obtain ⟨major, rd, reg, func⟩ := eq_wordSY_iff.1 (eq_of_one_word words)
    rw [decodeMajor_sys major, decodeSys, func, rd, reg]
    exact if_pos named
  | clk d | trap c | eret =>
    obtain ⟨major, rd, reg, func⟩ := eq_wordSY_iff.1 (eq_of_one_word words)
    rw [decodeMajor_sys major, decodeSys, func, rd, reg]
    rfl
  | nop | exit | jr a =>
    obtain ⟨major, rd, ra, rb, func⟩ := eq_wordSR_iff.1 (eq_of_one_word words)
    obtain ⟨high, low⟩ := func_parts (w := w)
    rw [decodeMajor_misc major, decodeMisc, high, low, func, rd, ra, rb]
    rfl
  | fenceAcq sc | fenceRel sc | fenceAr sc =>
    obtain ⟨major, rd, ra, rb, func⟩ := eq_wordSR_iff.1 (eq_of_one_word words)
    obtain ⟨high, low⟩ := func_eq_append.1 func
    rw [decodeMajor_misc major, decodeMisc, high, low, rd, ra, rb, decodeScope_eq_some.2 rfl]
    rfl
  | _ => cases scalar

end ScalarWordsBack

/-! ### Lane instructions: the words of an instruction decode to it (07 R148 to R152) -/

section LaneWordsBack
variable {w0 w1 w2 x : W32} {op : BitVec 10} {h : LaneHead}

theorem laneWords_eq_iff : laneWords op h x = [w0, w1, w2] ↔ (field w0 31 22 = op ∧ decodeHead w0 w1 = h) ∧ w2 = x := by
  rw [← eq_encodeHead_iff, laneWords]
  simp only [List.cons.injEq, and_true, and_assoc, eq_comm]

theorem mustZero_of_true {c : Bool} {i : Instr} (h : c = true) : mustZero c i = .ok i := if_pos h

section Layouts

theorem decodeLaneRaw_layoutA {f : LaneHead → ModA → Instr} {m : ModA} (entry : laneOpA op.toNat = some f)
    (words : laneWords op h (encodeModA m) = [w0, w1, w2]) : decodeLaneRaw w0 w1 w2 = .ok (f h m) := by
  obtain ⟨⟨opcode, head⟩, modifier⟩ := laneWords_eq_iff.1 words
  obtain ⟨fields, zero⟩ := eq_encodeModA_iff.1 modifier
  simp [decodeLaneRaw, mustZero, opcode, entry, head, fields, zero]

variable (notA : laneOpA op.toNat = none)
include notA

theorem decodeLaneRaw_layoutC {f : LaneHead → ModC → Instr} {m : ModC} (entry : laneOpC op.toNat = some f)
    (words : laneWords op h (encodeModC m) = [w0, w1, w2]) : decodeLaneRaw w0 w1 w2 = .ok (f h m) := by
  obtain ⟨⟨opcode, head⟩, modifier⟩ := laneWords_eq_iff.1 words
  obtain ⟨fields, zero⟩ := eq_encodeModC_iff.1 modifier
  simp [decodeLaneRaw, mustZero, opcode, notA, entry, head, fields, zero]

variable (notC : laneOpC op.toNat = none)
include notC

theorem decodeLaneRaw_layoutP {f : LaneHead → ModP → Instr} {m : ModP} (entry : laneOpP op.toNat = some f)
    (words : laneWords op h (encodeModP m) = [w0, w1, w2]) : decodeLaneRaw w0 w1 w2 = .ok (f h m) := by
  obtain ⟨⟨opcode, head⟩, modifier⟩ := laneWords_eq_iff.1 words
  obtain ⟨fields, zero⟩ := eq_encodeModP_iff.1 modifier
  simp [decodeLaneRaw, mustZero, opcode, notA, notC, entry, head, fields, zero]

variable (notP : laneOpP op.toNat = none)
include notP

theorem decodeLaneRaw_layoutX {f : LaneHead → ModX → Instr} {m : ModX} (entry : laneOpX op.toNat = some f)
    (words : laneWords op h (encodeModX m) = [w0, w1, w2]) : decodeLaneRaw w0 w1 w2 = .ok (f h m) := by
  obtain ⟨⟨opcode, head⟩, modifier⟩ := laneWords_eq_iff.1 words
  simp [decodeLaneRaw, opcode, notA, notC, notP, entry, head, eq_encodeModX_iff.1 modifier]

theorem decodeLaneRaw_layoutM {f : LaneHead → ModM → Instr} {m : ModM} (notX : laneOpX op.toNat = none) (entry : laneOpM op.toNat = some f)
    (words : laneWords op h (encodeModM 0#2 m) = [w0, w1, w2]) : decodeLaneRaw w0 w1 w2 = .ok (f h m) := by
  obtain ⟨⟨opcode, head⟩, modifier⟩ := laneWords_eq_iff.1 words
  obtain ⟨fields, mode, zero⟩ := eq_encodeModM_iff.1 modifier
  simp [decodeLaneRaw, mustZero, opcode, notA, notC, notP, notX, entry, head, fields, mode, zero]

end Layouts

theorem decodeLaneRaw_of_encode {i : Instr} (words : encode i = [w0, w1, w2]) : decodeLaneRaw w0 w1 w2 = .ok i := by
  cases i with
  | iadd h m | isub h m | imul h m | imulh h m | imad h m | iabs h m | ineg h m | imin h m | imax h m | iand h m | ior h m | ixor h m | inot h m
  | ishl h m | ishr h m | isar h m | ipopc h m | iclz h m | ibfx h m | ibfi h m | isel h m | iadds h m | isubs h m | idot4 h m | icmpEq h m
  | icmpNe h m | icmpLt h m | icmpLe h m | icmpGt h m | icmpGe h m | fadd h m | fsub h m | fmul h m | ffma h m | fmin h m | fmax h m | fabs h m
  | fneg h m | fcmpEq h m | fcmpNe h m | fcmpLt h m | fcmpLe h m | fcmpGt h m | fcmpGe h m | fcmpUn h m | frcp h m | frsq h m | fsqrt h m
  | fdiv h m | fexp2 h m | flog2 h m | fsin h m | fcos h m | ftanh h m | fsigm h m | fround h m | fclass h m | fscale h m | had32 h m | mov h m
  | lidx h m | shfl h m | bcast h m => exact decodeLaneRaw_layoutA rfl words
  | cvt h m | pack h m | unpk h m => exact decodeLaneRaw_layoutC rfl rfl words
  | qbp h m | dqbp h m => exact decodeLaneRaw_layoutP rfl rfl rfl words
  | frmax h m | fradd h m | vote h m | pfxc h m | scan h m | red h m => exact decodeLaneRaw_layoutX rfl rfl rfl rfl words
  | tldf h m | tste h m | tldt h m | gld h m | gst h m | rld h m | atom h m | msgput h m | msgtake h m | wlapp h m | cstore h m | xld h m =>
    exact decodeLaneRaw_layoutM rfl rfl rfl rfl rfl words
  | tld h m | tldIfempty h m | tst h m | tstIffull h m =>
    obtain ⟨⟨opcode, rfl⟩, modifier⟩ := laneWords_eq_iff.1 words
    obtain ⟨rfl, mode, zero⟩ := eq_encodeModM_iff.1 modifier
    rw [decodeLaneRaw, opcode, mode]
    exact if_pos (beq_iff_eq.2 zero)
  | movi h imm =>
    obtain ⟨⟨opcode, rfl⟩, rfl⟩ := laneWords_eq_iff.1 words
    rw [decodeLaneRaw, opcode]
    rfl
  | mma h m | mmaPair h m =>
    obtain ⟨⟨opcode, rfl⟩, modifier⟩ := laneWords_eq_iff.1 words
    obtain ⟨rfl, pair, zero⟩ := eq_encodeModMma_iff.1 modifier
    rw [decodeLaneRaw, opcode, pair]
    exact mustZero_of_true (beq_iff_eq.2 zero)
  | mzero h acc | mread h acc | mwrite h acc =>
    obtain ⟨⟨opcode, rfl⟩, modifier⟩ := laneWords_eq_iff.1 words
    obtain ⟨high, rfl, zero⟩ := eq_encodeAcc_iff.1 modifier
    rw [decodeLaneRaw, opcode, high, zero]
    rfl
  | mdrain h m =>
    obtain ⟨⟨opcode, rfl⟩, modifier⟩ := laneWords_eq_iff.1 words
    obtain ⟨rfl, unused, zero⟩ := eq_encodeModDrain_iff.1 modifier
    rw [decodeLaneRaw, opcode, unused, zero]
    rfl
  | lnop =>
    cases words
    rfl
  | sld d a z space | sst d a z space | satom d a b z op space | zfill d a space => cases space <;> cases words
  | _ => cases words

end LaneWordsBack

/-! ### From bytes to bytes (00 R5) -/

section Bytes
variable (w : W32) (rest : List Byte)

theorem takeWord_leBytes : takeWord (leBytes 4 w.toNat ++ rest) = some (w, rest) := by
  have byte (k : Nat) : StandsAt w (8 * k) (BitVec.ofNat 8 (w.toNat / 256 ^ k)) := by
    refine BitVec.eq_of_toNat_eq ?_
    rw [BitVec.extractLsb'_toNat, BitVec.toNat_ofNat, Nat.shiftRight_eq_div_pow, Nat.pow_mul]
  have word : w = BitVec.ofNat 8 (w.toNat / 256 ^ 3) ++ BitVec.ofNat 8 (w.toNat / 256 ^ 2) ++ BitVec.ofNat 8 (w.toNat / 256 ^ 1) ++
      BitVec.ofNat 8 (w.toNat / 256 ^ 0) := by
    rw [eq_iff_standsAt]
    simp only [standsAt_append]
    exact ⟨⟨⟨byte 3, byte 2⟩, byte 1⟩, byte 0⟩
  simp only [Nat.pow_zero, Nat.div_one, Nat.pow_succ, Nat.one_mul, ← Nat.div_div_eq_div_mul] at word
  exact congrArg (fun v => some (v, rest)) word.symm

end Bytes

section RoundTrip
variable {i : Instr} (rest : List Byte)

theorem checkWf_of_wf (wf : i.wf = true) : checkWf (.ok i) = .ok i := if_pos wf

/-- A scalar instruction has one word, or two (07 R134, R135). -/
theorem exists_words_of_scalar (scalar : i.stream = some .scalar) : ∃ w, encode i = [w] ∨ ∃ ext, encode i = [w, ext] := by
  unfold Instr.stream at scalar
  split at scalar
  case h_2 one =>
    obtain ⟨w, words⟩ := List.length_eq_one_iff.1 one
    exact ⟨w, .inl words⟩
  case h_3 two =>
    obtain ⟨w, ext, words⟩ := List.length_eq_two.1 two
    exact ⟨w, .inr ⟨ext, words⟩⟩
  all_goals cases scalar

theorem decodeScalarBytes_encodeBytes (wf : i.wf = true) (scalar : i.stream = some .scalar) (named : i.sysRegNamed = true) :
    decodeScalarBytes (encodeBytes i ++ rest) = .ok (i, rest) := by
  have read {w ext : W32} (words : encode i = [w] ∨ encode i = [w, ext]) :
      decodeScalar w ext = .ok i ∧ encode i = if hasExt w then [w, ext] else [w] := by
    have major := decodeMajor_of_encode scalar named words
    exact ⟨by rw [decodeScalar, major, checkWf_of_wf wf], decodeMajor_reads i major⟩
  obtain ⟨w, words | ⟨ext, words⟩⟩ := exists_words_of_scalar scalar
  · obtain ⟨decoded, form⟩ := read (ext := 0#32) (.inl words)
    have short : hasExt w = false := by simpa [words] using form
    simp [encodeBytes, words, decodeScalarBytes, takeWord_leBytes, short, decoded, Except.map]
  · obtain ⟨decoded, form⟩ := read (.inr words)
    have long : hasExt w = true := by simpa [words] using form
    simp [encodeBytes, words, decodeScalarBytes, List.append_assoc, takeWord_leBytes, long, decoded, Except.map]

theorem decodeLaneBytes_encodeBytes (wf : i.wf = true) (three : (encode i).length = 3) :
    decodeLaneBytes (encodeBytes i ++ rest) = .ok (i, rest) := by
  obtain ⟨w0, w1, w2, words⟩ := List.length_eq_three.1 three
  have read : decodeLane w0 w1 w2 = .ok i := by rw [decodeLane, decodeLaneRaw_of_encode words, checkWf_of_wf wf]
  simp [encodeBytes, words, decodeLaneBytes, List.append_assoc, takeWord_leBytes, read, Except.map]

end RoundTrip

/-- Refutes O1: `Instr.wf` admits SYSR of a number that 08 R186 and 17 R341 leave unassigned, and the decoder rejects it.
Of every other admitted instruction the statement holds: `decodeScalarBytes_encodeBytes`, `decodeLaneBytes_encodeBytes`. -/
theorem not_decodeOfEncodeIsTheInstruction : ¬ Obligations.DecodeOfEncodeIsTheInstruction := by
  intro h
  have read := (h (.sysr 0#6 0xFFF#12) [] rfl).1 rfl
  have rejected : decodeScalarBytes (encodeBytes (.sysr 0#6 0xFFF#12) ++ []) = .error .func := rfl
  rw [rejected] at read
  cases read

end Sys2Proof

namespace Sys2Proof.Machine

section BandSummaries

/-! ### The band-summary word of a mask (02 R27) -/

/-- The summary built from the bands below `n`. -/
theorem getLsbD_foldl_summary (m : Mask) {k : Nat} (hk : k < 32) : ∀ n, ((List.range n).foldl (fun s b => if bandWord m b = 0#32 then s
    else s ||| BitVec.ofNat 32 (2 ^ b)) 0#32).getLsbD k = true ↔ k < n ∧ bandWord m k ≠ 0#32
  | 0 => by simp
  | n + 1 => by
    have bit : (BitVec.ofNat 32 (2 ^ n)).getLsbD k = decide (n = k) := by
      rw [BitVec.getLsbD_ofNat, Nat.testBit_two_pow, decide_eq_true hk, Bool.true_and]
    rw [List.range_succ, List.foldl_append]
    simp only [List.foldl_cons, List.foldl_nil]
    split
    · next empty =>
      rw [getLsbD_foldl_summary m hk n]
      have other : bandWord m k ≠ 0#32 → k ≠ n := fun full same => full (same ▸ empty)
      exact ⟨fun ⟨lt, full⟩ => ⟨by omega, full⟩, fun ⟨lt, full⟩ => ⟨by have := other full; omega, full⟩⟩
    · next full =>
      rw [BitVec.getLsbD_or, Bool.or_eq_true, getLsbD_foldl_summary m hk n, bit, decide_eq_true_eq]
      constructor
      · rintro (⟨lt, full⟩ | rfl)
        · exact ⟨by omega, full⟩
        · exact ⟨by omega, full⟩
      · rintro ⟨lt, full⟩
        by_cases same : n = k
        · exact .inr same
        · exact .inl ⟨by omega, full⟩

theorem getLsbD_summaryWord (m : Mask) {k : Nat} (hk : k < 32) : (summaryWord m).getLsbD k = true ↔ bandWord m k ≠ 0#32 := by
  rw [summaryWord, getLsbD_foldl_summary m hk, and_iff_right hk]

theorem getLsbD_bandWord (m : Mask) {b i : Nat} (hi : i < 32) : (bandWord m b).getLsbD i = m.getLsbD (32 * b + i) := by
  rw [bandWord, BitVec.getLsbD_extractLsb', decide_eq_true hi, Bool.true_and]

/-- A mask is empty where its summary is. -/
theorem summaryWord_eq_zero {m : Mask} : summaryWord m = 0#32 ↔ m = 0#1024 := by
  constructor
  · intro empty
    apply BitVec.eq_of_getLsbD_eq
    intro l hl
    have band : bandWord m (l / 32) = 0#32 := by
      by_contra full
      have bit := (getLsbD_summaryWord m (show l / 32 < 32 by omega)).2 full
      rw [empty, BitVec.getLsbD_zero] at bit
      cases bit
    rw [← Nat.div_add_mod l 32, ← getLsbD_bandWord m (Nat.mod_lt l (by decide)), band]
    simp
  · rintro rfl
    apply BitVec.eq_of_getLsbD_eq
    intro k hk
    rw [BitVec.getLsbD_zero, Bool.eq_false_iff, Ne, getLsbD_summaryWord _ hk, bandWord]
    simp

end BandSummaries

section ControlFlow

/-! ### Control flow (08 R167) -/

variable {s : State} {r : TeamRef} {c : Crew} {t : Team} (h : s.acts r c t)

theorem branchIf_eq (t : Team) (taken : Bool) {n : Nat} (off : BitVec n) (len : Nat) :
    branchIf t taken off len = { t with pc := if taken = true then t.pc + 4#64 * off.signExtend 64 else t.pc + BitVec.ofNat 64 len } := by
  cases taken <;> rfl

/-- A branch form goes where its condition says. -/
theorem branch_acts (h : s.acts r c t) (u : Team → Team) (taken : Team → Bool) {n : Nat} (off : BitVec n) (len : Nat) {p : Word}
    (target : (if taken t = true then (u t).pc + 4#64 * off.signExtend 64 else (u t).pc + BitVec.ofNat 64 len) = p) :
    onTeam s (fun t => branchIf (u t) (taken t) off len) = .next (s.putTeam r { u t with pc := p }) := by
  rw [onTeam_acts h, branchIf_eq, target]

/-- What LOOP tests: its decremented register, or sz. -/
theorem loop_continues (t : Team) (a : SReg) :
    (!((t.setSreg a (t.sreg a - 1#64)).sreg a == 0#64)) = decide (a ≠ 63#6 ∧ t.sreg a ≠ 1#64) := by
  rw [Team.sreg_setSreg]
  by_cases sz : a = 63#6
  · simp [sz, Team.sreg]
  · have one : t.sreg a - 1#64 = 0#64 ↔ t.sreg a = 1#64 := by bv_omega
    rw [Bool.eq_iff_iff]
    simp [sz, one]

theorem low_bits_eq_zero (x : Word) : field x 1 0 = 0#2 ↔ x.toNat % 4 = 0 := by
  rw [← BitVec.toNat_inj, field, BitVec.extractLsb'_toNat]
  rfl

include h in
theorem exec_jr_aligned {a : SReg} (aligned : (t.sreg a).toNat % 4 = 0) : exec (.jr a) s = .next (s.putTeam r { t with pc := t.sreg a }) :=
  (onTeam_acts h _).trans (by rw [if_pos ((low_bits_eq_zero _).2 aligned)])

include h in
theorem exec_jr_misaligned {a : SReg} (misaligned : (t.sreg a).toNat % 4 ≠ 0) :
    exec (.jr a) s = .next (s.putTeam r (t.trapHere causeAlignment)) :=
  (onTeam_acts h _).trans (by rw [if_neg fun low => misaligned ((low_bits_eq_zero _).1 low)])

end ControlFlow

/-- Settles O10: every branch form is `branch_acts` with its condition; JR by the low bits of its target. -/
theorem branchTargets : Obligations.BranchTargets := by
  intro s r c t h a b m off far cc
  refine ⟨?b, ?bz, ?bnz, ?call, ?loop, ?bmz, ?bmnz, ?bcmp, exec_jr_aligned h, exec_jr_misaligned h, onTeam_acts h _⟩
  case b => exact branch_acts h id (fun _ => true) off 4 rfl
  case bz => exact branch_acts h id (fun t => t.sreg a == 0#64) off 4 (by simp)
  case bnz => exact branch_acts h id (fun t => !(t.sreg a == 0#64)) off 4 (by simp)
  case call => exact branch_acts h (fun t => t.setSreg 62#6 (t.pc + 4#64)) (fun _ => true) off 4 (by simp)
  case loop =>
    exact branch_acts h (fun t => t.setSreg a (t.sreg a - 1#64)) (fun t => !((t.setSreg a (t.sreg a - 1#64)).sreg a == 0#64)) off 4
      (by simp [loop_continues])
  case bmz => exact branch_acts h id (fun t => t.mask m == 0#1024) off 4 (by simp [summaryWord_eq_zero])
  case bmnz => exact branch_acts h id (fun t => !(t.mask m == 0#1024)) off 4 (by simp [summaryWord_eq_zero])
  case bcmp => exact branch_acts h id (fun t => condHolds cc (t.sreg a) (t.sreg b)) far 8 rfl

end Sys2Proof.Machine

namespace Sys2Proof.Machine

section ScalarIntegers

/-! ### Products, quotients and remainders (08 R161) -/

/-- The upper half of a double word is the quotient by 2^64, wrapped. -/
theorem extractLsb'_high (v : BitVec 128) : v.extractLsb' 64 64 = BitVec.ofNat 64 (v.toNat / 2 ^ 64) := by
  apply BitVec.eq_of_toNat_eq
  rw [BitVec.extractLsb'_toNat, BitVec.toNat_ofNat, Nat.shiftRight_eq_div_pow]

theorem mulHighU_eq (x y : Word) : mulHighU x y = (x.setWidth 128 * y.setWidth 128).extractLsb' 64 64 := by
  have small : x.toNat * y.toNat < 2 ^ 128 := (Nat.mul_lt_mul'' x.isLt y.isLt).trans_eq (by norm_num)
  have wide (z : Word) : (z.setWidth 128).toNat = z.toNat := BitVec.toNat_setWidth_of_le (by decide)
  rw [extractLsb'_high, BitVec.toNat_mul, wide, wide, Nat.mod_eq_of_lt small, mulHighU]

theorem mulHighS_eq (x y : Word) : mulHighS x y = (x.signExtend 128 * y.signExtend 128).extractLsb' 64 64 := by
  have product : x.signExtend 128 * y.signExtend 128 = BitVec.ofInt 128 (x.toInt * y.toInt) := (BitVec.ofInt_mul x.toInt y.toInt).symm
  apply BitVec.eq_of_toNat_eq
  rw [extractLsb'_high, product, mulHighS, BitVec.toNat_ofInt, BitVec.toNat_ofNat, BitVec.toNat_ofInt]
  omega

/-- A register value is the wrapped form of any integer that its signed value reduces. -/
theorem eq_ofInt_of_toInt {x : Word} {i : Int} (h : x.toInt = i.bmod (2 ^ 64)) : x = BitVec.ofInt 64 i := by
  rw [← BitVec.toInt_inj, BitVec.toInt_ofInt, h]

theorem divS_eq (x y : Word) : divS x y = if y = 0#64 then -1#64 else BitVec.ofInt 64 (x.toInt.tdiv y.toInt) := by
  rw [divS, eq_ofInt_of_toInt (BitVec.toInt_sdiv x y)]
  rfl

theorem divU_eq (x y : Word) : divU x y = if y = 0#64 then -1#64 else BitVec.ofNat 64 (x.toNat / y.toNat) := by
  have quotient : x / y = BitVec.ofNat 64 (x.toNat / y.toNat) := by
    rw [← BitVec.toNat_udiv, BitVec.ofNat_toNat, BitVec.setWidth_eq]
  rw [divU, quotient]
  rfl

theorem ofInt_sub_mul (x y : Word) (q : Int) : BitVec.ofInt 64 (x.toInt - y.toInt * q) = x - y * BitVec.ofInt 64 q := by
  rw [Int.sub_eq_add_neg, BitVec.ofInt_add, BitVec.ofInt_neg, BitVec.ofInt_mul, BitVec.ofInt_toInt, BitVec.ofInt_toInt, ← BitVec.sub_eq_add_neg]

theorem rem_eq_tmod (x y : Word) : x - y * divS x y = BitVec.ofInt 64 (x.toInt.tmod y.toInt) := by
  rw [Int.tmod_def, ofInt_sub_mul, divS_eq]
  split
  · next zero => rw [zero, BitVec.zero_mul, BitVec.zero_mul]
  · rfl

theorem remU_eq (x y : Word) : (if y = 0#64 then x else x % y) = BitVec.ofNat 64 (x.toNat % y.toNat) := by
  have remainder : BitVec.ofNat 64 (x.toNat % y.toNat) = x % y := by
    rw [← BitVec.toNat_umod, BitVec.ofNat_toNat, BitVec.setWidth_eq]
  rw [remainder]
  split
  · next zero => rw [zero, BitVec.umod_zero]
  · rfl

/-! ### Bit counts and bit orders -/

theorem shamt_eq (y : Word) : shamt y = y.toNat % 64 := by
  rw [shamt, field, BitVec.extractLsb'_toNat]
  rfl

theorem clz64_spec (x : Word) : (clz64 x).toNat ≤ 64 ∧ (∀ i, 64 - (clz64 x).toNat ≤ i → x.getLsbD i = false) ∧
    ((clz64 x).toNat < 64 → x.getLsbD (63 - (clz64 x).toNat) = true) := by
  by_cases zero : x = 0#64
  · subst zero
    simp [clz64]
  · have pos : x.toNat ≠ 0 := fun h => zero (BitVec.eq_of_toNat_eq h)
    have top : x.toNat.log2 < 64 := (Nat.log2_lt pos).2 x.isLt
    have value : (clz64 x).toNat = 63 - x.toNat.log2 := by
      rw [clz64, if_neg zero, BitVec.toNat_ofNat, Nat.mod_eq_of_lt (by omega)]
    rw [value]
    refine ⟨by omega, fun i hi => ?_, fun _ => ?_⟩
    · exact Nat.testBit_lt_two_pow (Nat.lt_log2_self.trans_le (Nat.pow_le_pow_right (by decide) (by omega)))
    · rw [show 63 - (63 - x.toNat.log2) = x.toNat.log2 by omega]
      exact Nat.testBit_log2 pos

/-- Counting by a running sum. -/
theorem foldl_count {α : Type} (p : α → Bool) : ∀ (l : List α) (n : Nat), l.foldl (fun n i => if p i then n + 1 else n) n = n + l.countP p
  | [], n => rfl
  | i :: rest, n => by
    rw [List.foldl_cons, foldl_count p rest, List.countP_cons]
    split <;> omega

theorem popc64_eq (x : Word) : popc64 x = BitVec.ofNat 64 ((List.range 64).countP (fun i => x.getLsbD i)) := by
  rw [popc64, foldl_count (fun i => x.getLsbD i), Nat.zero_add]

theorem getLsbD_brev64 (x : Word) {i : Nat} (hi : i < 64) : (brev64 x).getLsbD (63 - i) = x.getLsbD i := by
  rw [brev64, BitVec.getLsbD_reverse, BitVec.getMsbD_eq_getLsbD, decide_eq_true (by omega), Bool.true_and]
  congr 1
  omega

theorem sextLow_eq (x : Word) (w : BitVec 6) : sextLow x w = (x.setWidth (w.toNat + 1)).signExtend 64 := by
  have := w.isLt
  apply BitVec.eq_of_getLsbD_eq
  intro i hi
  rw [sextLow, BitVec.getLsbD_sshiftRight, BitVec.getLsbD_signExtend, BitVec.msb_eq_getLsbD_last, BitVec.msb_eq_getLsbD_last]
  simp only [BitVec.getLsbD_shiftLeft, BitVec.getLsbD_setWidth]
  by_cases low : i < w.toNat + 1
  · have hl : 63 - w.toNat + i < 64 := by omega
    simp [hl, low, hi, show ¬64 ≤ i by omega]
  · have hl : ¬63 - w.toNat + i < 64 := by omega
    simp [hl, low, hi, show ¬64 ≤ i by omega, show 63 - (63 - w.toNat) = w.toNat by omega]

theorem zextLow_eq (x : Word) (w : BitVec 6) : zextLow x w = (x.setWidth (w.toNat + 1)).setWidth 64 := by
  have := w.isLt
  apply BitVec.eq_of_getLsbD_eq
  intro i hi
  rw [zextLow]
  simp only [BitVec.getLsbD_ushiftRight, BitVec.getLsbD_shiftLeft, BitVec.getLsbD_setWidth]
  by_cases low : i < w.toNat + 1
  · simp [low, hi, show 63 - w.toNat + i < 64 by omega]
  · simp [low, show ¬63 - w.toNat + i < 64 by omega]

/-! ### Orders -/

/-- A choice by `<` is one by `≤`: where they could differ the two values are one. -/
theorem choice_of_lt {ι : Type} [LinearOrder ι] {f : Word → ι} (inj : ∀ {x y}, f x = f y → x = y) (x y : Word) :
    (if f x < f y then x else y) = (if f x ≤ f y then x else y) ∧ (if f x < f y then y else x) = (if f x ≤ f y then y else x) := by
  by_cases same : f x = f y
  · rw [inj same, ite_self, ite_self]
    exact ⟨rfl, rfl⟩
  · have lt_iff : f x < f y ↔ f x ≤ f y := ⟨le_of_lt, fun le => lt_of_le_of_ne le same⟩
    simp only [lt_iff, and_self]

theorem choice_signed (x y : Word) : (if x.slt y then x else y) = (if x.toInt ≤ y.toInt then x else y) ∧
    (if x.slt y then y else x) = (if x.toInt ≤ y.toInt then y else x) := by
  simp only [BitVec.slt_eq_decide, decide_eq_true_eq]
  exact choice_of_lt BitVec.toInt_inj.1 x y

theorem choice_natural (x y : Word) : (if x.ult y then x else y) = (if x.toNat ≤ y.toNat then x else y) ∧
    (if x.ult y then y else x) = (if x.toNat ≤ y.toNat then y else x) := by
  simp only [BitVec.ult_eq_decide, decide_eq_true_eq]
  exact choice_of_lt BitVec.toNat_inj.1 x y

/-- What SET delivers, condition by condition (07 R138). -/
theorem condWord (cc : Cond) (x y : Word) : (if condHolds cc x y then 1#64 else 0#64) = match cc with
    | .eq => if x = y then 1#64 else 0#64
    | .ne => if x = y then 0#64 else 1#64
    | .lt => if x.toInt < y.toInt then 1#64 else 0#64
    | .ge => if x.toInt < y.toInt then 0#64 else 1#64
    | .ltn => if x.toNat < y.toNat then 1#64 else 0#64
    | .gen => if x.toNat < y.toNat then 0#64 else 1#64 := by
  cases cc <;> simp only [condHolds, BitVec.slt_eq_decide, BitVec.ult_eq_decide, beq_iff_eq, decide_eq_true_eq, Bool.not_eq_true', decide_eq_false_iff_not,
    beq_eq_false_iff_ne, ne_eq, ite_not]

/-! ### Instructions -/

theorem wordSI_shift (m : BitVec 6) (d a : SReg) (sh : BitVec 6) : wordSI m d a (0#8 ++ sh) = m ++ d ++ a ++ 0#8 ++ sh := by
  rw [wordSI, BitVec.append_assoc (x₁ := m ++ d ++ a)]
  rfl

variable {s : State} {r : TeamRef} {c : Crew} {t : Team} 

/-- A register instruction delivers what its function makes of the team. -/
theorem scalarOp_acts (h : s.acts r c t) (d : SReg) (n : Nat) {f : Team → Word} {v : Word} (value : f t = v) :
    scalarOp s d n f = .next (s.putTeam r (t.result d v n)) := by
  rw [scalarOp, onTeam_acts h, value]

end ScalarIntegers

/-- Settles O9: each result is the value of `scalarOp_acts`, and the words stand as the encoder writes them. -/
theorem scalarIntegerResults : Obligations.ScalarIntegerResults := by
  refine ⟨?registers, ?immediates⟩
  case registers =>
    intro s r c t h d a b
    have gives {f : Team → Word} {v : Word} (value : f t = v) : scalarOp s d 4 f = .next (s.putTeam r (t.result d v 4)) := scalarOp_acts h d 4 value
    exact ⟨gives rfl, gives rfl, gives (BitVec.mul_def ..), gives (mulHighS_eq ..), gives (mulHighU_eq ..), gives (divS_eq ..), gives (divU_eq ..),
      gives (rem_eq_tmod ..), gives (remU_eq ..), gives rfl, gives rfl, gives rfl, gives rfl,
      gives (congrArg _ (shamt_eq _)), gives (congrArg _ (shamt_eq _)), gives (congrArg _ (shamt_eq _)), gives (congrArg _ (shamt_eq _)),
      gives (choice_signed ..).1, gives (choice_signed ..).2, gives (choice_natural ..).1, gives (choice_natural ..).2,
      ⟨_, gives rfl, clz64_spec _⟩, gives (popc64_eq _), ⟨_, gives rfl, fun i => getLsbD_brev64 _⟩,
      fun w => ⟨gives (sextLow_eq ..), gives (zextLow_eq ..)⟩,
      gives (condWord .eq _ _), gives (condWord .ne _ _), gives (condWord .lt _ _), gives (condWord .ge _ _), gives (condWord .ltn _ _), gives (condWord .gen _ _)⟩
  case immediates =>
    intro s r c t h d a b e imm sh big ext
    have gives {f : Team → Word} {v : Word} {n : Nat} (value : f t = v) : scalarOp s d n f = .next (s.putTeam r (t.result d v n)) := scalarOp_acts h d n value
    exact ⟨gives rfl, gives rfl, gives rfl, gives rfl, gives rfl, gives rfl, gives rfl, gives rfl, gives (congrArg _ (field_low _)), gives (ite_not ..).symm,
      rfl, rfl, rfl, rfl, congrArg (fun w => [w]) (wordSI_shift ..), congrArg (fun w => [w]) (wordSI_shift ..), congrArg (fun w => [w]) (wordSI_shift ..), rfl, rfl, rfl⟩

end Sys2Proof.Machine

namespace Sys2Proof.Machine

section MaskWords

/-! ### One band word of a mask replaced (08 R188) -/

theorem getLsbD_setBandWord (m : Mask) (b : Nat) (v : BitVec 32) {l : Nat} (hl : l < 1024) :
    (setBandWord m b v).getLsbD l = if l / 32 = b then v.getLsbD (l % 32) else m.getLsbD l := by
  have hole : (BitVec.ofNat 1024 ((2 ^ 32 - 1) * 2 ^ (32 * b))).getLsbD l = (decide (32 * b ≤ l) && decide (l - 32 * b < 32)) := by
    rw [BitVec.getLsbD_ofNat, Nat.testBit_mul_two_pow, Nat.testBit_two_pow_sub_one, decide_eq_true hl, Bool.true_and]
  have word : (BitVec.ofNat 1024 (v.toNat * 2 ^ (32 * b))).getLsbD l = (decide (32 * b ≤ l) && v.getLsbD (l - 32 * b)) := by
    rw [BitVec.getLsbD_ofNat, Nat.testBit_mul_two_pow, decide_eq_true hl, Bool.true_and]
    rfl
  rw [setBandWord, BitVec.getLsbD_or, BitVec.getLsbD_and, BitVec.getLsbD_not, hole, word, decide_eq_true hl, Bool.true_and]
  split
  · next here =>
    have place : l - 32 * b = l % 32 := by omega
    simp [show 32 * b ≤ l by omega, place, Nat.mod_lt l (show 0 < 32 by decide)]
  · next elsewhere =>
    by_cases above : 32 * b ≤ l
    · have beyond : ¬l - 32 * b < 32 := by omega
      simp [above, beyond, BitVec.getLsbD_of_ge v _ (Nat.not_lt.1 beyond)]
    · simp [above]

/-- The bits of a mask of the team after the write of a band word. -/
theorem getLsbD_maskWord (m : Mask) (lanes i : Nat) (v : Word) {l : Nat} (hl : l < 1024) :
    (setBandWord m i (field v 31 0) &&& laneMask lanes).getLsbD l =
      if l / 32 = i then v.getLsbD (l % 32) && decide (l < lanes) else m.getLsbD l && decide (l < lanes) := by
  have low : (field v 31 0).getLsbD (l % 32) = v.getLsbD (l % 32) := by
    rw [field_low, BitVec.getLsbD_setWidth, decide_eq_true (Nat.mod_lt l (by decide)), Bool.true_and]
  rw [BitVec.getLsbD_and, getLsbD_setBandWord m i _ hl, getLsbD_laneMask lanes hl, low]
  split <;> rfl

/-- A summary as a number: its bit `k` says whether band word `k` is nonzero. -/
theorem summaryWord_number (m : Mask) : (summaryWord m).toNat < 2 ^ 32 ∧
    ∀ k, k < 32 → ((summaryWord m).toNat.testBit k = true ↔ m.extractLsb' (32 * k) 32 ≠ 0#32) :=
  ⟨(summaryWord m).isLt, fun _ hk => getLsbD_summaryWord m hk⟩

end MaskWords

section SelectedWord

/-! ### The word that ctx.sel selects (08 R188) -/

variable {t : Team} {o i : Nat}

theorem Team.ctxObject_eq (ho : o < 256) (sel : t.ctxSel.toNat = o + 256 * i) : t.ctxObject = o := by
  rw [Team.ctxObject, BitVec.extractLsb'_toNat, sel, Nat.shiftRight_zero, Nat.add_mul_mod_self_left, Nat.mod_eq_of_lt ho]

theorem Team.ctxIndex_eq (ho : o < 256) (hi : i < 64) (sel : t.ctxSel.toNat = o + 256 * i) : t.ctxIndex = i := by
  rw [Team.ctxIndex, BitVec.extractLsb'_toNat, sel, Nat.shiftRight_eq_div_pow]
  omega

theorem Team.ctxMask_some (mask : o < 8 ∨ (16 ≤ o ∧ o < 32)) :
    t.ctxMask o = some (if o < 8 then t.mask (BitVec.ofNat 3 o) else t.stack.getD (o - 16) 0#1024) := by
  unfold Team.ctxMask
  split
  · rfl
  · next high => rw [if_pos (mask.resolve_left high)]

theorem Team.ctxMask_none (other : ¬(o < 8 ∨ (16 ≤ o ∧ o < 32))) : t.ctxMask o = none := by
  unfold Team.ctxMask
  rw [if_neg fun low => other (.inl low), if_neg fun entry => other (.inr entry)]

theorem Team.object_ne_depth {m : Mask} (mask : t.ctxMask o = some m) : o ≠ 8 := by
  rintro rfl
  exact Option.some_ne_none m (mask.symm.trans (Team.ctxMask_none (by decide)))

variable (object : t.ctxObject = o) (index : t.ctxIndex = i)
include object index

theorem Team.ctxRead_mask {m : Mask} (mask : t.ctxMask o = some m) :
    t.ctxRead = if i = 0 then some (summaryWord m).toNat else if i ≤ 32 then some (bandWord m (i - 1)).toNat else none := by
  have stack := Team.object_ne_depth mask
  rw [Team.ctxRead, object, index, if_neg stack, mask]

theorem Team.ctxRead_depth (depth : o = 8) : t.ctxRead = if i = 0 then some t.stack.length else none := by
  rw [Team.ctxRead, object, index, if_pos depth]

theorem Team.ctxRead_unselected (none_ : (¬(o < 8 ∨ (16 ≤ o ∧ o < 32)) ∧ o ≠ 8) ∨ (o = 8 ∧ i ≠ 0) ∨ 32 < i) : t.ctxRead = none := by
  by_cases depth : o = 8
  · rw [Team.ctxRead_depth object index depth, if_neg (by omega)]
  · by_cases mask : o < 8 ∨ (16 ≤ o ∧ o < 32)
    · rw [Team.ctxRead_mask object index (Team.ctxMask_some mask), if_neg (by omega), if_neg (by omega)]
    · rw [Team.ctxRead, object, index, if_neg depth, Team.ctxMask_none mask]

/-- The write of a mask's summary has no effect. -/
theorem Team.ctxWrite_summary {m : Mask} (mask : t.ctxMask o = some m) (summary : i = 0) (v : Word) : t.ctxWrite v = some t := by
  have stack := Team.object_ne_depth mask
  have reads := Team.ctxRead_mask object index mask
  rw [if_pos summary] at reads
  rw [Team.ctxWrite, reads, object, index]
  simp [stack, summary]

theorem Team.ctxWrite_band {m : Mask} (mask : t.ctxMask o = some m) (hi : 1 ≤ i) (hi' : i ≤ 32) (v : Word) :
    t.ctxWrite v = some (if o < 8 then t.setMask (BitVec.ofNat 3 o) (setBandWord m (i - 1) (field v 31 0))
      else { t with stack := t.stack.set (o - 16) (setBandWord m (i - 1) (field v 31 0) &&& laneMask t.lanes) }) := by
  have stack := Team.object_ne_depth mask
  have reads := Team.ctxRead_mask object index mask
  rw [if_neg (by omega), if_pos hi'] at reads
  rw [Team.ctxWrite, reads, object, index, mask]
  simp only [Option.isNone_some, Bool.false_eq_true, if_false, stack, show i ≠ 0 by omega]
  split <;> rfl

theorem Team.ctxWrite_depth (depth : o = 8) (hi : i = 0) (v : Word) :
    t.ctxWrite v = if 16 < v.toNat % 2 ^ 32 then none else some { t with stack := setDepth t.stack (v.toNat % 2 ^ 32) } := by
  have reads := Team.ctxRead_depth object index depth
  have number : (field v 31 0).toNat = v.toNat % 2 ^ 32 := by rw [field_low, BitVec.toNat_setWidth]
  rw [if_pos hi] at reads
  rw [Team.ctxWrite, reads, object, if_pos depth, number]
  rfl

end SelectedWord

/-- The low bits of a register value. -/
theorem field_of_low (v : Word) {n : Nat} (hn : n < 64) : field v n 0 = v.setWidth (n + 1) := (BitVec.setWidth_eq_extractLsb' (by omega)).symm

theorem length_setDepth (l : List Mask) (n : Nat) : (setDepth l n).length = n := by
  rw [setDepth, List.length_append, List.length_take, List.length_replicate]
  omega

theorem getD_setDepth (l : List Mask) {n k : Nat} (hk : k < n) : (setDepth l n).getD k 0#1024 = l.getD k 0#1024 := by
  rw [setDepth, List.getD_eq_getElem?_getD, List.getD_eq_getElem?_getD]
  by_cases listed : k < l.length
  · rw [List.getElem?_append_left (by rw [List.length_take]; omega), List.getElem?_take, if_pos hk]
  · rw [List.getElem?_append_right (by rw [List.length_take]; omega), List.getElem?_replicate, List.getElem?_eq_none (Nat.not_lt.1 listed)]
    split <;> rfl

section SystemRegisterInstructions

/-! ### SYSR and SYSW (08 R186) -/

variable {s : State} {r : TeamRef} {c : Crew} {t : Team} (h : s.acts r c t) {d : SReg}
include h

theorem exec_sysr_some {n : BitVec 12} {v : Nat} (value : s.sysReg c t n.toNat = some v) :
    exec (.sysr d n) s = .next (s.putTeam r (t.result d (BitVec.ofNat 64 v) 4)) :=
  (withTeam_acts h _).trans (by rw [value])

theorem exec_sysr_none {n : BitVec 12} (value : s.sysReg c t n.toNat = none) : exec (.sysr d n) s = .next (s.scalarFault r causeOperand none) :=
  (withTeam_acts h _).trans (by rw [value])

theorem exec_sysw_refused {n : BitVec 12} (note : n.toNat ≠ 0x021) (refused : (sysPriv n.toNat && t.priv) = false) :
    exec (.sysw d n) s = .next (s.scalarFault r causePrivilege none) :=
  (withTeam_acts h _).trans (by simp [note, refused])

/-- A privileged write of ctx.data. -/
theorem exec_sysw_selected (priv : t.priv = true) : exec (.sysw d 0x081#12) s = .next (match t.ctxWrite (t.sreg d) with
    | none => s.scalarFault r causeOperand none
    | some u => s.putTeam r (u.advance 4)) :=
  (withTeam_acts h _).trans (by simp [sysPriv, priv] <;> rfl)

theorem exec_sysw_some (priv : t.priv = true) {u : Team} (writes : t.ctxWrite (t.sreg d) = some u) :
    exec (.sysw d 0x081#12) s = .next (s.putTeam r (u.advance 4)) := by
  rw [exec_sysw_selected h priv, writes]

theorem exec_sysw_none (priv : t.priv = true) (refused : t.ctxWrite (t.sreg d) = none) :
    exec (.sysw d 0x081#12) s = .next (s.scalarFault r causeOperand none) := by
  rw [exec_sysw_selected h priv, refused]

/-- cap.note belongs to the crew. -/
theorem exec_sysw_note : exec (.sysw d 0x021#12) s = .next (s.putCrew r.crew { c.putTeam r.team (t.advance 4) with capNote := (t.sreg d).setWidth 9 }) := by
  have low : field (t.sreg d) 8 0 = (t.sreg d).setWidth 9 := (BitVec.setWidth_eq_extractLsb' (by decide)).symm
  refine (withTeam_acts h _).trans (congrArg Host.Outcome.next ?_)
  rw [if_pos (by decide), State.modCrew, crewAt_of (teamAt_putTeam h.2 _), putTeam_eq h.2, low]
  simp [State.putCrew, List.set_set]

end SystemRegisterInstructions

/-- Settles O19: SYSR by the value of its register, SYSW by who may write it, ctx.data by what ctx.sel selects. -/
theorem systemRegisters : Obligations.SystemRegisters := by
  intro s r c t h d
  have reads {n : BitVec 12} {v : Nat} (value : s.sysReg c t n.toNat = some v) := exec_sysr_some h (d := d) value
  refine ⟨reads rfl, ?crews, reads rfl, reads rfl, reads rfl, reads rfl, reads rfl, reads rfl, reads rfl, reads rfl, reads rfl, reads rfl, reads rfl, reads rfl,
    reads ?cores, reads rfl, reads rfl, reads rfl, reads rfl, reads rfl, reads rfl, reads rfl, reads rfl, reads rfl, reads rfl, reads rfl, reads rfl, reads rfl,
    reads ?trapState, reads rfl, ⟨_, reads rfl, summaryWord_number t.lfm⟩, ?bands, ⟨_, exec_sysw_note h, rfl, rfl⟩, ?privileged, ?selected, ?refused,
    withTeam_acts h _⟩
  case crews => exact fun l launch => reads (congrArg some (by rw [State.crewCount, launch]))
  case cores =>
    refine congrArg some ?_
    rw [State.devCores, ← List.countP_eq_length_filter]
    refine List.countP_congr fun k hk => ?_
    rw [State.coreExists, decide_eq_true (List.mem_range.1 hk), Bool.true_and]
    rfl
  case trapState =>
    refine congrArg some ?_
    cases t.trapLane <;> cases t.trapInh <;> rfl
  case bands =>
    intro n low high
    exact reads (if_pos ⟨low, high⟩)
  case privileged =>
    intro priv
    exact ⟨(withTeam_acts h _).trans (by simp [sysPriv, priv, field_of_low]), (withTeam_acts h _).trans (by simp [sysPriv, priv, field_of_low]),
      (withTeam_acts h _).trans (by simp [sysPriv, priv, field_of_low])⟩
  case selected =>
    intro o i ho hi sel
    have object := Team.ctxObject_eq ho sel
    have index := Team.ctxIndex_eq ho hi sel
    intro entry m mask
    have named (hm : mask) : t.ctxMask o = some m := Team.ctxMask_some hm
    have selects {x : Nat} (value : t.ctxRead = some x) : exec (.sysr d 0x081#12) s = .next (s.putTeam r (t.result d (BitVec.ofNat 64 x) 4)) := reads value
    refine ⟨fun hm zero => ⟨⟨_, selects ((Team.ctxRead_mask object index (named hm)).trans (if_pos zero)), summaryWord_number m⟩,
        fun priv => exec_sysw_some h priv (Team.ctxWrite_summary object index (named hm) zero _)⟩,
      fun hm lo hi => selects ?_, ?mask, ?entry, ?depth, ?outside⟩
    · rw [Team.ctxRead_mask object index (named hm), if_neg (by omega), if_pos hi]
      rfl
    case mask =>
      intro low lo hi priv
      have write := Team.ctxWrite_band object index (named (.inl low)) lo hi (t.sreg d)
      rw [if_pos low] at write
      refine ⟨_, exec_sysw_some h priv write, rfl, fun l hl => ?_, fun k other => ?_⟩
      · rw [Team.mask_setMask, if_pos rfl, getLsbD_maskWord _ _ _ _ hl]
      · rw [Team.mask_setMask, if_neg other]
    case entry =>
      intro lo16 hi32 lo hi priv
      have write := Team.ctxWrite_band object index (named (.inr ⟨lo16, hi32⟩)) lo hi (t.sreg d)
      rw [if_neg (by omega)] at write
      refine ⟨_, exec_sysw_some h priv write, rfl, List.length_set, fun k other => List.getElem?_set_ne other.symm, fun stands l hl => ?_⟩
      rw [List.getD_eq_getElem?_getD, List.getElem?_set_self stands, Option.getD_some, getLsbD_maskWord _ _ _ _ hl]
    case depth =>
      intro depth zero
      have write := Team.ctxWrite_depth object index depth zero (t.sreg d)
      refine ⟨selects ((Team.ctxRead_depth object index depth).trans (if_pos zero)), fun priv fits => ?_, fun priv deep => ?_⟩
      · rw [if_neg (Nat.not_lt.2 fits)] at write
        exact ⟨_, exec_sysw_some h priv write, rfl, length_setDepth _ _, fun k hk => getD_setDepth _ hk⟩
      · rw [if_pos deep] at write
        exact exec_sysw_none h priv write
    case outside =>
      intro none_
      have unselected := Team.ctxRead_unselected object index none_
      refine ⟨exec_sysr_none h unselected, fun priv => exec_sysw_none h priv ?_⟩
      rw [Team.ctxWrite, unselected]
      rfl
  case refused =>
    intro n k hk
    refine exec_sysw_refused h (by omega) ?_
    by_cases priv : t.priv = true
    · have readOnly : sysPriv n.toNat = false := by
        simp only [sysPriv, Bool.or_eq_false_iff, beq_eq_false_iff_ne]
        simp only [priv, Bool.true_eq_false, false_and, or_false] at hk
        omega
      rw [readOnly, Bool.false_and]
    · rw [Bool.not_eq_true] at priv
      rw [priv, Bool.and_false]

end Sys2Proof.Machine

namespace Sys2Proof.Machine

section RegisterGrowth

/-! ### RGROW and RSHRINK (08 R182; 13 R290) -/

/-- A core whose crews keep no mirrors drops none. -/
theorem dropMirrors_none {s : State} {core : Nat} (plain : ∀ k, k ∈ s.residents core → ∀ x, s.crewAt k = some x → x.mirrored = false) :
    ∀ fuel, s.dropMirrors core fuel = s
  | 0 => rfl
  | fuel + 1 => by
    rw [State.dropMirrors, List.filter_eq_nil_iff.2 ?plain]
    case plain =>
      intro k hk
      cases hx : s.crewAt k with
      | none => simp
      | some x => simp [plain k hk x hx]
    exact ite_self s

variable {s : State} {r : TeamRef} {c : Crew} {t : Team}

/-- A replaced team leaves the crews where they are. -/
theorem putTeam_crewAt (h : s.teamAt r = some (c, t)) (u : Team) (k : Nat) :
    (s.putTeam r u).crewAt k = if r.crew = k then some (c.putTeam r.team u) else s.crewAt k := by
  have lt := (List.getElem?_eq_some_iff.1 (crewAt_of h)).1
  rw [putTeam_eq h]
  simp only [State.crewAt, List.getElem?_set, if_pos lt]

theorem putTeam_unmirrored (h : s.teamAt r = some (c, t)) (u : Team) {core : Nat} (resident : r.crew ∈ s.residents core)
    (plain : ∀ k, k ∈ s.residents core → ∀ x, s.crewAt k = some x → x.mirrored = false) :
    ∀ k, k ∈ (s.putTeam r u).residents core → ∀ x, (s.putTeam r u).crewAt k = some x → x.mirrored = false := by
  intro k hk x hx
  obtain ⟨y, hy, place⟩ := mem_residents.1 hk
  cases hx.symm.trans hy
  rw [putTeam_crewAt h] at hx
  split at hx
  · cases hx
    exact plain r.crew resident c (crewAt_of h)
  · exact plain k (mem_residents.2 ⟨x, hx, place⟩) x hx

/-- A team that waits for no registers cannot be granted any. -/
theorem grantRgrow_idle {s : State} (idle : ∀ q u, (s.teamAt q).map (·.2) = some u → u.growWant = none) (core : Nat) : ∀ fuel, s.grantRgrow core fuel = s
  | 0 => rfl
  | fuel + 1 => by
    rw [State.grantRgrow, List.findSome?_eq_none_iff.2 ?idle]
    case idle =>
      intro q _
      cases at_ : s.teamAt q with
      | none => rfl
      | some p =>
        have wants := idle q p.2 (by rw [at_]; rfl)
        dsimp only
        cases wait : p.2.swait with
        | none => rfl
        | some w =>
          dsimp only
          split
          · next instr => simp [Team.growWant, wait, instr] at wants
          · rfl

section
variable (h : s.acts r c t) {d a : SReg} {e : BitVec 5}
include h

theorem exec_rgrow_refused (bad : (t.sreg a).toNat % 8 ≠ 0 ∨ (t.sreg a).toNat < t.regs ∨ 512 < (t.sreg a).toNat) :
    exec (.rgrow d a e) s = .next (s.scalarFault r causeOperand none) :=
  (withTeam_acts h _).trans (by rw [if_pos bad])

variable (whole : (t.sreg a).toNat % 8 = 0) (most : (t.sreg a).toNat ≤ 512)
include whole most

theorem exec_rgrow_same (same : (t.sreg a).toNat = t.regs) : exec (.rgrow d a e) s = .next (s.putTeam r (t.status d stOk 4)) :=
  (withTeam_acts h _).trans (by rw [if_neg (by omega), if_pos same])

variable (more : t.regs < (t.sreg a).toNat)
include more

theorem exec_rgrow_beyond (beyond : Config.coreRegs < c.footprint + t.growth (t.sreg a).toNat) :
    exec (.rgrow d a e) s = .next (s.putTeam r (t.status d stBounds 4)) :=
  (withTeam_acts h _).trans (by rw [if_neg (by omega), if_neg (by omega), if_pos beyond])

theorem exec_rgrow_eq (within : c.footprint + t.growth (t.sreg a).toNat ≤ Config.coreRegs) : exec (.rgrow d a e) s = .next
    (if e = 0#5 && s.growFits c.core t (t.sreg a).toNat && s.growBefore c.core s.nextWait then s
     else s.waitOr r (.rgrow d a e) e none (attemptRgrow d a s r c t) (statusTimeout s r d 4)) :=
  (withTeam_acts h _).trans (by rw [if_neg (by omega), if_neg (by omega), if_neg (by omega)])

variable (within : c.footprint + t.growth (t.sreg a).toNat ≤ Config.coreRegs)
include within

theorem exec_rgrow_granted (room : s.growFits c.core t (t.sreg a).toNat = true) (first : s.growBefore c.core (s.scalarBegan t) = false)
    (firstNow : e = 0#5 → s.growBefore c.core s.nextWait = false) (resident : r.crew ∈ s.residents c.core)
    (plain : ∀ k, k ∈ s.residents c.core → ∀ x, s.crewAt k = some x → x.mirrored = false) :
    exec (.rgrow d a e) s = .next (s.putTeam r { { t with regs := (t.sreg a).toNat }.status d stOk 4 with swait := none }) := by
  have now : (e = 0#5 && s.growFits c.core t (t.sreg a).toNat && s.growBefore c.core s.nextWait) = false := by
    by_cases zero : e = 0#5
    · rw [firstNow zero, Bool.and_false]
    · simp [zero]
  have granted : attemptRgrow d a s r c t = some (s.putTeam r { { t with regs := (t.sreg a).toNat }.status d stOk 4 with swait := none }) := by
    simp only [attemptRgrow, room, first, Bool.not_true, Bool.or_self, Bool.false_eq_true, if_false]
    rw [modTeam_eq h.2, dropMirrors_none (putTeam_unmirrored h.2 _ resident plain)]
  rw [exec_rgrow_eq h whole most more within, now, granted]
  rfl

theorem exec_rgrow_waits (full : s.growFits c.core t (t.sreg a).toNat = false) : exec (.rgrow d a e) s = .next
    (if e = 0#5 then s.putTeam r { t.status d 1 4 with swait := none } else s.beginWait r (.rgrow d a e) e none) := by
  have refused : attemptRgrow d a s r c t = none := by simp [attemptRgrow, full]
  rw [exec_rgrow_eq h whole most more within, full, refused, waitOr_none, statusTimeout_eq h.2,
    Bool.and_false, Bool.false_and]
  rfl
end

/-- What RSHRINK leaves of a team: registers at or above the new allocation cease to exist. -/
def Team.shrunk (t : Team) (n : Nat) : Team :=
  { t with regs := n, vregs := cellErase t.vregs (1024 * n) (1024 * 512), laneErr := t.laneErr.filter (fun k => decide (k < 1024 * n)) }

theorem Team.vreg_shrunk_below (t : Team) {n v l : Nat} (hv : v < n) (hl : l < 1024) : (t.shrunk n).vreg v l = t.vreg v l := by
  rw [Team.vreg, Team.shrunk, cellGet_cellErase, if_neg (by omega)]
  rfl

theorem Team.vreg_shrunk_above (t : Team) {n v l : Nat} (hn : n ≤ v) (hv : v < 512) (hl : l < 1024) : (t.shrunk n).vreg v l = 0#64 := by
  rw [Team.vreg, Team.shrunk, cellGet_cellErase, if_pos (by omega)]

section
variable (h : s.acts r c t) {a : SReg}
include h

theorem exec_rshrink_refused (bad : (t.sreg a).toNat % 8 ≠ 0 ∨ (t.sreg a).toNat < 8 ∨ t.regs < (t.sreg a).toNat) :
    exec (.rshrink a) s = .next (s.scalarFault r causeOperand none) :=
  (withTeam_acts h _).trans (by rw [if_pos bad])

theorem exec_rshrink_shrinks (whole : (t.sreg a).toNat % 8 = 0) (least : 8 ≤ (t.sreg a).toNat) (most : (t.sreg a).toNat ≤ t.regs)
    (free : s.destAbove r c t (t.sreg a).toNat = false) (idle : ∀ q u, (s.teamAt q).map (·.2) = some u → u.growWant = none) :
    exec (.rshrink a) s = .next (s.putTeam r ((t.shrunk (t.sreg a).toNat).advance 4)) := by
  have idle' (q : TeamRef) (u : Team) (at_ : ((s.putTeam r ((t.shrunk (t.sreg a).toNat).advance 4)).teamAt q).map (·.2) = some u) : u.growWant = none := by
    by_cases self : q = r
    · subst self
      rw [teamAt_putTeam h.2, Option.map_some] at at_
      cases at_
      exact idle q t (by rw [h.2, Option.map_some])
    · exact idle q u ((teamAt_putTeam_other h.2 _ self).symm.trans at_)
  refine (withTeam_acts h _).trans ?_
  rw [if_neg (by omega), free]
  exact congrArg Host.Outcome.next (grantRgrow_idle idle' _ _)
end

end RegisterGrowth

section Depths

/-! ### GUARD and NOPRE (08 R182; 18 R351) -/

variable {s : State} {r : TeamRef} {c : Crew} {t : Team} (h : s.acts r c t) {get : Team → BitVec 4} {put : Team → BitVec 4 → Team}
include h

theorem depthOp_limit {up : Bool} (limit : get t = if up then 15#4 else 0#4) : depthOp s get put up = .next (s.scalarFault r causeOperand none) :=
  (withTeam_acts h _).trans (by rw [if_pos limit])

theorem depthOp_begins (room : get t ≠ 15#4) : depthOp s get put true = .next (s.putTeam r ((put t (get t + 1#4)).advance 4)) :=
  (withTeam_acts h _).trans (by rw [if_neg (by exact room)]; rfl)

/-- The end of a section lets the leases go on: there are none here. -/
theorem depthOp_ends (begun : get t ≠ 0#4) (unleased : s.units = []) : depthOp s get put false = .next (s.putTeam r ((put t (get t - 1#4)).advance 4)) := by
  refine (withTeam_acts h _).trans ?_
  rw [if_neg (by exact begun)]
  simp [State.advanceLeases, unleased]

omit h

theorem exec_guardBegin (s : State) : exec .guardBegin s = depthOp s Team.guardDepth (fun t d => { t with guardDepth := d }) true := rfl
theorem exec_guardEnd (s : State) : exec .guardEnd s = depthOp s Team.guardDepth (fun t d => { t with guardDepth := d }) false := rfl
theorem exec_nopreBegin (s : State) : exec .nopreBegin s = depthOp s Team.nopreDepth Team.setNopre true := rfl
theorem exec_nopreEnd (s : State) : exec .nopreEnd s = depthOp s Team.nopreDepth Team.setNopre false := rfl

theorem Team.setNopre_spec (t : Team) (d : BitVec 4) : (t.setNopre d).nopreDepth = d ∧
    { t.setNopre d with nopreDepth := t.nopreDepth, nopreUsed := t.nopreUsed, nopreSpent := t.nopreSpent } = t ∧
    (t.nopreDepth = 0#4 → (t.setNopre d).nopreUsed = 0 ∧ (t.setNopre d).nopreSpent = false) := by
  unfold Team.setNopre
  split
  · exact ⟨rfl, rfl, fun _ => ⟨rfl, rfl⟩⟩
  · next inside => exact ⟨rfl, rfl, fun zero => absurd (.inl zero) inside⟩

end Depths

section Capacity

/-! ### CAPQ and LOCQ (08 R182, R183) -/

theorem capqWord_fields (s : State) : s.capqWord.extractLsb' 0 32 = s.capGen ∧ s.capqWord.extractLsb' 32 16 = BitVec.ofNat 16 s.devCores ∧
    s.capqWord.extractLsb' 48 8 = BitVec.ofNat 8 s.devGangs ∧ s.capqWord.extractLsb' 56 8 = BitVec.ofNat 8 s.regions := by
  have stands {n : Nat} (w : BitVec n) : StandsAt w 0 w := eq_iff_standsAt.1 rfl
  obtain ⟨⟨⟨regions, gangs⟩, cores⟩, gen⟩ : ((StandsAt s.capqWord 56 _ ∧ StandsAt s.capqWord 48 _) ∧ StandsAt s.capqWord 32 _) ∧ StandsAt s.capqWord 0 _ := by
    have all := stands s.capqWord
    nth_rewrite 2 [State.capqWord] at all
    rwa [standsAt_append, standsAt_append, standsAt_append] at all
  exact ⟨gen, cores, gangs, regions⟩

theorem toNat_field_ofNat {n lo w : Nat} (small : lo + w ≤ 64) : ((BitVec.ofNat 64 n : Word).extractLsb' lo w).toNat = n / 2 ^ lo % 2 ^ w := by
  rw [BitVec.extractLsb'_toNat, BitVec.toNat_ofNat, Nat.shiftRight_eq_div_pow, mod_digit small]

theorem dieHops_lt (a b : Nat) : dieHops a b < 4 := by
  unfold dieHops
  omega

theorem recHint_lt (rec : BitVec 1024) : recHint rec < 16 := Nat.mod_lt _ (by decide)

/-- LOCQ of the placement: the region in the low bits, the die above the hint (08 R183). -/
theorem locqPlace_fields (s : State) {c : Crew} (built : c.core < 192) :
    ((s.locqPlace c).extractLsb' 0 4).toNat = c.core / 12 ∧ ((s.locqPlace c).extractLsb' 10 2).toNat = c.core / 48 := by
  have split_ {hinted : Nat} (aligned : hinted % 16 = 0) (small : hinted < 2 ^ 10) :
      ((BitVec.ofNat 64 (c.core / 12 + hinted + 2 ^ 10 * (c.core / 48)) : Word).extractLsb' 0 4).toNat = c.core / 12 ∧
      ((BitVec.ofNat 64 (c.core / 12 + hinted + 2 ^ 10 * (c.core / 48)) : Word).extractLsb' 10 2).toNat = c.core / 48 := by
    have high : (c.core / 12 + hinted + 2 ^ 10 * (c.core / 48)) / 2 ^ 10 = c.core / 48 := by omega
    rw [toNat_field_ofNat (by decide), toNat_field_ofNat (by decide), high]
    omega
  unfold State.locqPlace coreRegion coreDie
  cases s.launchOf c with
  | none => exact split_ (hinted := 0) rfl (by decide)
  | some l =>
    have := recHint_lt l.record
    refine split_ ?_ ?_
    · split_ifs <;> omega
    · split_ifs <;> omega

theorem stackOf_hbm {pa : Nat} (built : pa < 2 ^ 40) : stackOf pa = pa / 2 ^ 36 := by
  rw [stackOf, isScm_of_lt built]
  rfl

theorem pteHome_lt (e : Word) : pteHome e < 4 := (field e 5 4).isLt

theorem locqPage_unbacked {s : State} {va : Nat} (none_ : 2 ^ 56 ≤ va ∨ s.rangeOf va = none) (c : Crew) : s.locqPage c va = 0x8000#64 := by
  unfold State.locqPage
  split
  · rfl
  · next within =>
    simp only [Bool.or_eq_true, decide_eq_true_eq, not_or] at within
    rw [none_.resolve_left within.1]

section
variable {s : State} {va : Nat} {g : Range} (within : va < 2 ^ 56) (local_ : s.inTether va = false) (range : s.rangeOf va = some g) (c : Crew)
include within local_ range

theorem locqPage_eq : s.locqPage c va = if !pteV (s.pte g va) then 0x8000#64 else
    BitVec.ofNat 64 ((if pteScm (s.pte g va) then 0 else stackOf (pteFrame (s.pte g va)) % 16) +
      2 ^ 8 * dieHops (coreDie c.core) (if pteScm (s.pte g va) then paDie (pteFrame (s.pte g va)) else pteHome (s.pte g va)) +
      2 ^ 10 * ((if pteScm (s.pte g va) then paDie (pteFrame (s.pte g va)) else pteHome (s.pte g va)) % 4)) := by
  rw [State.locqPage, local_, decide_eq_false (Nat.not_le.2 within), range]
  rfl

/-- LOCQ of a bound page of HBM4E: its stack, the hops to its die, its die. -/
theorem locqPage_fields (valid : pteV (s.pte g va) = true) (hbm : pteScm (s.pte g va) = false) (built : pteFrame (s.pte g va) < 2 ^ 40) :
    ((s.locqPage c va).extractLsb' 0 4).toNat = pteFrame (s.pte g va) / 2 ^ 36 % 16 ∧ ((s.locqPage c va).extractLsb' 10 2).toNat = pteHome (s.pte g va) ∧
    ((s.locqPage c va).extractLsb' 8 2).toNat = dieHops (coreDie c.core) (pteHome (s.pte g va)) := by
  have hops := dieHops_lt (coreDie c.core) (pteHome (s.pte g va))
  have home := pteHome_lt (s.pte g va)
  rw [locqPage_eq within local_ range, valid, hbm, stackOf_hbm built]
  simp only [Bool.not_true, Bool.false_eq_true, if_false]
  rw [toNat_field_ofNat (by decide), toNat_field_ofNat (by decide), toNat_field_ofNat (by decide)]
  omega
end

end Capacity

/-- Settles O25: each growth, shrinking and depth by its case; CAPQ and LOCQ by the fields of their words. -/
theorem registersRegionsAndCapacity : Obligations.RegistersRegionsAndCapacity := by
  refine ⟨?registers, ?queries⟩
  case registers =>
    intro s r c t h d a e n
    refine ⟨exec_rgrow_refused h, fun whole most => ⟨exec_rgrow_same h whole most, exec_rgrow_beyond h whole most,
        fun more within room first firstNow plain resident => exec_rgrow_granted h whole most more within (decide_eq_true room) first firstNow resident plain,
        fun more within full => ?waits⟩, ?shrinks, exec_rshrink_refused h, withTeam_acts h _, fun room => (exec_guardBegin s).trans (depthOp_begins h room),
      fun limit => (exec_guardBegin s).trans (depthOp_limit h limit), fun limit => (exec_guardEnd s).trans (depthOp_limit h limit),
      fun begun unleased => (exec_guardEnd s).trans (depthOp_ends h begun unleased),
      fun room => ⟨_, (exec_nopreBegin s).trans (depthOp_begins h room), Team.setNopre_spec t _⟩,
      fun limit => (exec_nopreBegin s).trans (depthOp_limit h limit), fun limit => (exec_nopreEnd s).trans (depthOp_limit h limit),
      fun begun unleased => ⟨_, (exec_nopreEnd s).trans (depthOp_ends h begun unleased), ?_⟩⟩
    case waits =>
      have waits (e : BitVec 5) := exec_rgrow_waits h (d := d) (e := e) whole most more within (decide_eq_false (Nat.not_le.2 full))
      exact ⟨(waits 0#5).trans (congrArg _ (if_pos rfl)), fun some_ => (waits e).trans (congrArg _ (if_neg some_))⟩
    case shrinks =>
      intro whole least most free idle
      exact ⟨_, exec_rshrink_shrinks h whole least most free idle, rfl, rfl, fun v l hv hl => t.vreg_shrunk_below hv hl,
        fun v l hn hv hl => t.vreg_shrunk_above hn hv hl, rfl⟩
    · obtain ⟨depth, frame, -⟩ := Team.setNopre_spec t (t.nopreDepth - 1#4)
      exact ⟨depth, frame⟩
  case queries =>
    intro s r c t h d a
    have page (other : a ≠ 63#6) : exec (.locq d a) s = .next (s.putTeam r (t.result d (s.locqPage c (t.sreg a).toNat) 4)) :=
      (withTeam_acts h _).trans (by rw [if_neg other])
    refine ⟨⟨_, withTeam_acts h _, capqWord_fields s⟩, ⟨_, withTeam_acts h _, locqPlace_fields s⟩,
      fun other unbacked => by rw [page other, locqPage_unbacked unbacked], fun g other within local_ range => ⟨fun invalid => ?_, fun valid hbm built => ?_⟩⟩
    · rw [page other, locqPage_eq within local_ range, invalid]
      rfl
    · obtain ⟨stack, home, hops⟩ := locqPage_fields within local_ range c valid hbm built
      exact ⟨_, page other, stack, home, fun _ => hops⟩

end Sys2Proof.Machine

namespace Sys2Proof.Machine

section TranslationRepeated

/-! ### A translation made again (14 R307, R308)

What a translation of a read answers stays in the core's cache, so that the same translation from the state it leaves answers the same and changes nothing. -/

theorem countRequest_tlb (s : State) (die pa : Nat) (wr : Bool) : (s.countRequest die pa wr).tlb = s.tlb := by
  obtain ⟨p, n, h⟩ := countRequest_eq s die pa wr
  rw [h]

theorem poolLow_tlb (s : State) (p : Nat) : (s.poolLow p).tlb = s.tlb := by
  unfold State.poolLow
  split
  · rfl
  · dsimp only
    split <;> rfl

theorem bindFrame_tlb (s : State) (r : Range) (die va : Nat) (e : Word) (f : Nat) : (s.bindFrame r die va e f).1.tlb = s.tlb :=
  (countRequest_tlb ..).trans (poolLow_tlb ..)

theorem walkEnd_tlb (s : State) (p : Nat) : (s.walkEnd p).tlb = s.tlb := by
  unfold State.walkEnd
  split
  · rfl
  · dsimp only
    split
    · rfl
    · split
      · rfl
      · exact bindFrame_tlb ..

/-- The walker's search of a pool leaves the caches, and a frame that it answers is one that the die may use. -/
theorem poolHead_spec (die z : Nat) : ∀ (fuel : Nat) (s : State), (s.poolHead die z fuel).1.tlb = s.tlb ∧
    ∀ f, (s.poolHead die z fuel).2 = some f → f < 2 ^ 40 ∧ f % pageSize z = 0 ∧ paDie f = die
  | 0, _ => ⟨rfl, fun _ h => nomatch h⟩
  | fuel + 1, s => by
    unfold State.poolHead
    dsimp only
    split
    · exact ⟨rfl, fun _ h => nomatch h⟩
    · split
      · exact ⟨rfl, fun _ h => nomatch h⟩
      · split
        · next usable =>
          refine ⟨countRequest_tlb .., fun f found => ?_⟩
          cases found
          simp only [State.poolEntryOk, Bool.and_eq_true, decide_eq_true_eq, beq_iff_eq] at usable
          obtain ⟨⟨⟨built, aligned⟩, die_⟩, -⟩ := usable
          exact ⟨built, aligned, die_⟩
        · obtain ⟨kept, found⟩ := poolHead_spec die z fuel _
          exact ⟨kept.trans ((poolLow_tlb ..).trans (countRequest_tlb s ..)), found⟩

theorem pageSize_dvd (z : Nat) : 2 ^ 16 ∣ pageSize z := by
  unfold pageSize
  split_ifs <;> decide

/-- A bound entry names its frame. -/
theorem pteFrame_boundEntry (e : Word) {die f : Nat} (hdie : die < 4) (built : f < 2 ^ 40) (aligned : f % 2 ^ 16 = 0) : pteFrame (boundEntry e die f) = f := by
  have flags : (e &&& 0xC#64).toNat < 2 ^ 16 := lt_of_le_of_lt Nat.and_le_right (by decide)
  have home : (BitVec.ofNat 64 (16 * die)).toNat < 2 ^ 16 := lt_of_le_of_lt (Nat.mod_le ..) (by omega)
  have low : ((e &&& 0xC#64) ||| 1#64 ||| BitVec.ofNat 64 (16 * die)).toNat < 2 ^ 16 := by
    rw [BitVec.toNat_or, BitVec.toNat_or]
    exact Nat.or_lt_two_pow (Nat.or_lt_two_pow flags (by decide)) home
  have frame : (BitVec.ofNat 64 f).toNat = f := Nat.mod_eq_of_lt (by omega)
  have above : (boundEntry e die f).toNat / 2 ^ 16 = f / 2 ^ 16 := by
    rw [BitVec.toNat_or, frame, ← Nat.shiftRight_eq_div_pow, Nat.shiftRight_or_distrib, Nat.shiftRight_eq_div_pow _ 16, Nat.div_eq_of_lt low, Nat.zero_or,
      Nat.shiftRight_eq_div_pow]
  rw [pteFrame, field, BitVec.extractLsb'_toNat, Nat.shiftRight_eq_div_pow, above]
  omega

theorem firstTouch_ok {s s1 : State} {r : Range} {die va pa : Nat} {e e' : Word} (h : s.firstTouch r die va e = (s1, .ok pa e')) :
    s1.tlb = s.tlb ∧ pa = pteFrame e' + (va - r.base) % pageSize r.z := by
  obtain ⟨kept, found⟩ := poolHead_spec die r.z 65536 s
  unfold State.firstTouch at h
  generalize s.poolHead die r.z 65536 = q at kept found h
  obtain ⟨s2, _ | f⟩ := q
  · cases h
  · obtain ⟨built, aligned, die_⟩ := found f rfl
    have hdie : die < 4 := by
      rw [← die_, paDie, isScm_of_lt built, stackOf, isScm_of_lt built]
      simp only [Bool.false_eq_true, if_false]
      omega
    cases h
    refine ⟨(bindFrame_tlb ..).trans ((countRequest_tlb ..).trans kept), ?_⟩
    exact congrArg (· + _) (pteFrame_boundEntry e hdie built (Nat.mod_eq_zero_of_dvd ((pageSize_dvd r.z).trans (Nat.dvd_of_mod_eq_zero aligned)))).symm

variable {s s1 : State} {core die va pa : Nat} {r : Range} {e : Word}

/-- A walk for a core caches the entry that it answers. -/
theorem walk_caches (base : r.base ≤ va) (h : s.walk (some core) r die va (r.pageBase va) false = (s1, .ok pa e)) :
    s1.tlb = s.tlb ++ [TlbEntry.mk core (r.pageBase va) r.z e] ∧ pa = pteFrame e + (va - r.pageBase va) := by
  have counted := countRequest_tlb s die (r.entryAddr va) false
  unfold State.walk at h
  simp only [Bool.false_and, Bool.false_eq_true, if_false] at h
  split at h
  · cases h
  · split at h
    · cases h
      exact ⟨congrArg (· ++ _) counted, rfl⟩
    · split at h
      · cases h
      · generalize touch : (s.countRequest die (r.entryAddr va) false).firstTouch r die va (s.pte r va) = q at h
        obtain ⟨s2, x⟩ := q
        cases x with
        | ok pa' e' =>
          obtain ⟨kept, place⟩ := firstTouch_ok touch
          cases h
          exact ⟨congrArg (· ++ _) (kept.trans counted), by rw [place, r.sub_pageBase base]⟩
        | fail => cases h
        | empty z => cases h
        | lost => cases h

theorem translate_cached {tlb : List TlbEntry} (h56 : va < 2 ^ 56) (ht : s.inTether va = false) (hr : s.rangeOf va = some r)
    (listed : s.tlb = tlb ++ [TlbEntry.mk core (r.pageBase va) r.z e])
    (first : tlb.find? (fun t => some t.core == some core && t.page == r.pageBase va && t.z == r.z) = none) :
    s.translate (some core) die va false = (s, .ok (pteFrame e + (va - r.pageBase va)) e) := by
  have own : s.ownEntry (some core) (r.pageBase va) r.z = some (TlbEntry.mk core (r.pageBase va) r.z e) := by
    rw [State.ownEntry, listed, List.find?_append, first]
    simp
  have hit := translate_ownEntry (die := die) (wr := false) h56 ht hr own (fun write => absurd write (by decide))
  exact hit

/-- An address that translates lies in a range, outside the Tether window. -/
theorem translate_ok_range {wr : Bool} (h : s.translate (some core) die va wr = (s1, .ok pa e)) :
    va < 2 ^ 56 ∧ s.inTether va = false ∧ ∃ r, s.rangeOf va = some r := by
  rw [State.translate] at h
  generalize outside : (decide (2 ^ 56 ≤ va) || s.inTether va) = out at h
  cases out with
  | true => exact absurd (congrArg Prod.snd h) (by simp)
  | false =>
    rw [Bool.or_eq_false_iff, decide_eq_false_iff_not, not_le] at outside
    generalize s.rangeOf va = found at h
    cases found with
    | none => exact absurd (congrArg Prod.snd h) (by simp)
    | some r => exact ⟨outside.1, outside.2, r, rfl⟩

theorem translate_again (h : s.translate (some core) die va false = (s1, .ok pa e)) : s1.translate (some core) die va false = (s1, .ok pa e) := by
  obtain ⟨h56, ht, r, hr⟩ := translate_ok_range h
  have same : s1.outsideMemory = s.outsideMemory := by
    rw [← translate_outsideMemory s (some core) die va false, h]
  have ht1 : s1.inTether va = false := by
    rw [State.inTether, show s1.span = s.span from (congrArg State.span same :)]
    exact ht
  have hr1 : s1.rangeOf va = some r := by
    rw [State.rangeOf, show s1.ranges = s.ranges from (congrArg State.ranges same :)]
    exact hr
  cases own : s.ownEntry (some core) (r.pageBase va) r.z with
  | some t =>
    rw [translate_ownEntry h56 ht hr own (fun write => absurd write (by decide))] at h
    cases h
    exact translate_ownEntry h56 ht hr own (fun write => absurd write (by decide))
  | none =>
    cases gang : s.gangEntry (some core) (r.pageBase va) r.z with
    | some ce =>
      obtain ⟨c, e'⟩ := ce
      obtain ⟨rfl, -⟩ := gangEntry_some gang
      rw [translate_gangEntry h56 ht hr own gang (fun write => absurd write (by decide))] at h
      cases h
      exact translate_cached h56 ht1 hr1 rfl own
    | none =>
      rw [translate_walk h56 ht hr own gang] at h
      obtain ⟨listed, place⟩ := walk_caches (rangeOf_base_le hr) h
      rw [place]
      refine translate_cached h56 ht1 hr1 listed ?_
      split
      · exact own
      · rw [walkEnd_tlb]
        exact own

end TranslationRepeated
end Sys2Proof.Machine

namespace Sys2Proof.Machine

section EngineCommands

/-! ### XWIN, XCOPY, XRED and BCLOSE (08 R176, R177; 12 R261, R262) -/

/-- A field of the first register of a group of four. -/
theorem extractLsb'_group (x3 x2 x1 x0 : Word) {lo n : Nat} (small : lo + n ≤ 64) :
    (x3 ++ x2 ++ x1 ++ x0).extractLsb' lo n = x0.extractLsb' lo n := by
  apply BitVec.eq_of_getLsbD_eq
  intro i hi
  rw [BitVec.getLsbD_extractLsb', BitVec.getLsbD_extractLsb', BitVec.getLsbD_append, if_pos (show lo + i < 64 by omega)]

theorem Crew.captureTile_some {c : Crew} {h : BitVec 8} {tl : Tile} (named : c.tile h = some tl) : c.captureTile h.toNat = tl.uid := by
  rw [Crew.captureTile, BitVec.ofNat_toNat, BitVec.setWidth_eq, named]

/-- The tile that a command captures where the selecting field of its first register has the value that names a handle. -/
theorem captured_uid {c : Crew} {x3 x2 x1 x0 : Word} {lo n at_ k : Nat} {tl : Tile} (small : lo + n ≤ 64) (at_small : at_ + 8 ≤ 64)
    (selects : (x0.extractLsb' lo n).toNat = k) (named : c.tile (x0.extractLsb' at_ 8) = some tl) :
    (if ((x3 ++ x2 ++ x1 ++ x0).extractLsb' lo n).toNat = k then c.captureTile ((x3 ++ x2 ++ x1 ++ x0).extractLsb' at_ 8).toNat else 0) = tl.uid := by
  rw [extractLsb'_group _ _ _ _ small, extractLsb'_group _ _ _ _ at_small, if_pos selects, Crew.captureTile_some named]

/-- A register result leaves the next ticket and the order of accesses. -/
theorem Team.result_keeps_order (t : Team) (d : SReg) (v : Word) (n : Nat) :
    { t.result d v n with seqNext := t.seqNext, nextOrd := t.nextOrd } = t.result d v n := by
  unfold Team.result Team.setSreg
  split <;> rfl

variable {s : State} {r : TeamRef} {c : Crew} {t : Team} (h : s.acts r c t)
include h

theorem exec_xwin (w : BitVec 4) (a : SReg) : exec (.xwin w a) s = .next (s.putCrew r.crew { c.putTeam r.team (t.advance 4) with
    windows := c.windows.set w.toNat (t.sregK a 3 ++ t.sregK a 2 ++ t.sregK a 1 ++ t.sregK a 0), tableErr := c.tableErr.filter (fun k => k != 320 + w.toNat) }) := by
  refine (withTeam_acts h _).trans (congrArg Host.Outcome.next ?_)
  rw [State.modCrew, crewAt_of (teamAt_putTeam h.2 _), putTeam_eq h.2]
  simp only [State.putCrew, List.set_set]
  rfl

omit h in
theorem teamAt_putCrew {s : State} {r : TeamRef} {c c' : Crew} {t u : Team} (h : s.teamAt r = some (c, t)) (team : c'.teams[r.team]? = some u) :
    (s.putCrew r.crew c').teamAt r = some (c', u) :=
  teamAt_eq.2 ⟨List.getElem?_set_self (List.getElem?_eq_some_iff.1 (teamAt_eq.1 h).1).1, team⟩

/-- A full engine queue holds the command. -/
theorem issueCommand_full (red : Bool) (d a : SReg) (full : 128 ≤ (s.commands.filter (fun m => m.core == c.core)).length) : issueCommand red d a s = .next s :=
  (withTeam_acts h _).trans (by rw [if_pos full])

omit h in
theorem exec_xcopy_or_xred (red : Bool) (d a : SReg) : exec (if red then .xred d a else .xcopy d a) s = issueCommand red d a s := by
  cases red <;> rfl

end EngineCommands

section EngineWaits

/-! ### BWAIT, MWAIT and PBAR (08 R178 to R180; 06 R131) -/

/-- The command belongs to a batch, not after `n`, of the team. -/
def Command.namedBy (m : Command) (r : TeamRef) (n : BitVec 16) : Prop := (m.crew = r.crew ∧ m.team = r.team) ∧ (n - m.ticket.extractLsb' 32 16).toNat < 32768

theorem reaches_again {s s1 : State} {core va n pa : Nat} (h : s.reaches core va n false s1 pa) : s1.reaches core va n false s1 pa := by
  obtain ⟨aligned, plain, ⟨e, translated, hbm⟩, rest⟩ := h
  have same : s1.span = s.span := by
    have := congrArg State.span (translate_outsideMemory s (some core) (coreDie core) va false)
    rwa [translated] at this
  refine ⟨aligned, ?_, ⟨e, translate_again translated, hbm⟩, rest⟩
  rwa [State.inTether, same]

variable {s : State} {r : TeamRef} {c : Crew} {t : Team} (h : s.acts r c t)
include h

theorem attemptBwait_done (d a : SReg) (done : ∀ m, m ∈ s.commands → ¬m.namedBy r ((t.sreg a).setWidth 16)) :
    attemptBwait d a s r t = some (s.putTeam r { t.status d 0 4 with swait := none }) := by
  refine (if_pos ?_).trans (congrArg some (modTeam_eq h.2 _))
  rw [field_of_low _ (by decide), List.all_eq_true]
  intro m hm
  rw [Bool.not_eq_true', Bool.eq_false_iff]
  intro named
  simp only [Bool.and_eq_true, beq_iff_eq, decide_eq_true_eq] at named
  exact done m hm named

omit h in
theorem attemptBwait_open (d a : SReg) (open_ : ∃ m, m ∈ s.commands ∧ m.namedBy r ((t.sreg a).setWidth 16)) : attemptBwait d a s r t = none := by
  obtain ⟨m, hm, named⟩ := open_
  refine if_neg fun all => ?_
  rw [field_of_low _ (by decide), List.all_eq_true] at all
  have other := all m hm
  rw [Bool.not_eq_true', Bool.eq_false_iff] at other
  exact other (by simp only [Bool.and_eq_true, beq_iff_eq, decide_eq_true_eq]; exact named)

theorem exec_bwait_eq (d a : SReg) (e : BitVec 5) :
    exec (.bwait d a e) s = .next (s.waitOr r (.bwait d a e) e none (attemptBwait d a s r t) (statusTimeout s r d 4)) := withTeam_acts h _

section MwaitStamp

variable {s1 : State} {pa : Nat} {a : SReg} (stamp : s.reaches c.core (t.sreg a).toNat 8 false s1 pa)
include stamp

theorem teamAt_of_reaches : s1.teamAt r = some (c, t) := by
  have := (globCheck_of_reaches stamp true).1
  rw [teamAt_eq, this]
  exact teamAt_eq.1 h.2

omit h in
/-- What an attempt of MWAIT does in the state after the translation of its stamp. -/
theorem attemptMwait_of_reaches (d : SReg) :
    attemptMwait d a s1 r c t = (if BitVec.ofNat 64 (readLE s1.mem pa 8) = t.sreg d then none else
      some (s1.modTeam r (fun u => { u.result d (BitVec.ofNat 64 (readLE s1.mem pa 8)) 4 with swait := none }))) := by
  obtain ⟨-, built, e, checked⟩ := globCheck_of_reaches (reaches_again stamp) true
  rw [attemptMwait, checked]
  simp only [physRead_hbm s1 (show pa < 2 ^ 40 by omega)]

theorem exec_mwait_of_reaches (older : s1.olderOverlap r t .scalar t.nextOrd false (.glob (t.sreg a).toNat pa) 64 = false) (d : SReg) (e : BitVec 5) :
    exec (.mwait d a e) s = .next (s1.waitOr r (.mwait d a e) e none (attemptMwait d a s1 r c t) (mwaitTimeout s1 r d)) := by
  obtain ⟨-, -, entry, checked⟩ := globCheck_of_reaches stamp true
  refine (withTeam_acts h _).trans ?_
  simp only [checked, older, Bool.false_eq_true, if_false]

end MwaitStamp

theorem exec_pbarPdomain (busy : Bool) (waits : s.commands.any (fun m => m.crew == r.crew && m.team == r.team && m.writesScm) = busy) :
    exec .pbarPdomain s = .next (if busy then s else s.putTeam r (t.advance 4)) :=
  (withTeam_acts h _).trans (by rw [waits])

theorem exec_pbarPspan_busy (waits : s.commands.any (fun m => m.crew == r.crew && m.team == r.team && m.writesScm) = true) : exec .pbarPspan s = .next s :=
  (withTeam_acts h _).trans (by rw [if_pos waits])

theorem exec_pbarPspan_free (waits : s.commands.any (fun m => m.crew == r.crew && m.team == r.team && m.writesScm) = false)
    (durable : s.span.count.toNat < 10 ∨ s.pspanOpen = []) : exec .pbarPspan s = .next (s.putTeam r (t.advance 4)) := by
  refine (withTeam_acts h _).trans ?_
  rw [waits]
  rcases durable with few | none_
  · simp [few]
  · simp [none_]

theorem exec_stepmark_of_not_new (a : SReg) (known : s.comet.tooNew ((t.sreg a).setWidth 32) = false) :
    exec (.stepmark a) s = .next (s.putTeam r ({ t with stepNow := (t.sreg a).setWidth 32 }.advance 4)) := by
  refine (withTeam_acts h _).trans ?_
  simp only [field_low, known, Bool.and_false, Bool.false_eq_true, if_false]

end EngineWaits

/-- Settles O26: the commands by what XCOPY and XRED capture, the waits by what their attempt finds. -/
theorem engineInstructions : Obligations.EngineInstructions := by
  unfold Obligations.EngineInstructions
  constructor
  · intro s r c t h d a w
    have inCrew : (c.putTeam r.team (t.advance 4)).teams[r.team]? = some (t.advance 4) :=
      List.getElem?_set_self (List.getElem?_eq_some_iff.1 (teamAt_eq.1 h.2).2).1
    refine ⟨⟨_, _, exec_xwin h w a, teamAt_putCrew h.2 inCrew, rfl, rfl, rfl⟩, fun full => ⟨issueCommand_full h false d a full, issueCommand_full h true d a full⟩,
      fun room red => ?_, onTeam_acts h _⟩
    · refine ⟨_, _, _, (exec_xcopy_or_xred red d a).trans ((withTeam_acts h _).trans (congrArg Host.Outcome.next (if_neg (Nat.not_le.2 room)))), rfl, rfl, rfl, rfl, rfl, rfl,
        rfl, rfl, rfl, ?_, ?_, ?_, ?_, ?_, ?_, ?_, teamAt_putTeam h.2 _, rfl, ?_, sameBytes_of_mem ?_⟩
      · exact congrArg (fun v : BitVec 4 => c.windows.getD v.toNat windowReset) (extractLsb'_group _ _ _ _ (by decide))
      · exact congrArg (fun v : BitVec 4 => c.windows.getD v.toNat windowReset) (extractLsb'_group _ _ _ _ (by decide))
      · exact congrArg (fun v : BitVec 8 => cellGet c.globals v.toNat) (extractLsb'_group _ _ _ _ (by decide))
      · exact congrArg (fun v : BitVec 8 => cellGet c.globals v.toNat) (extractLsb'_group _ _ _ _ (by decide))
      · exact fun tl global named => captured_uid (by decide) (by decide) (congrArg BitVec.toNat global) named
      · exact fun tl global named => captured_uid (by decide) (by decide) (congrArg BitVec.toNat global) named
      · exact fun tl gathers named => captured_uid (by decide) (by decide) (congrArg BitVec.toNat gathers) named
      · exact Team.result_keeps_order t d _ 4
      · exact State.putTeam_mem s r _
  · intro s r c t h d a e
    dsimp only
    refine ⟨fun done => ?_, fun open_ => ⟨?_, fun waits => ?_⟩, fun s1 pa stamp older => ⟨fun differs idle => ?_, fun same idle => ⟨?_, fun waits => ?_⟩⟩,
      fun signalled => ?_, fun ⟨m, hm, ⟨crew, team⟩, scm⟩ => ?_, exec_stepmark_of_not_new h a⟩
    · rw [exec_bwait_eq h, attemptBwait_done h d a done]; rfl
    · rw [exec_bwait_eq h, attemptBwait_open d a open_, waitOr_none, if_pos rfl, statusTimeout_eq h.2]
    · rw [exec_bwait_eq h, attemptBwait_open d a open_, waitOr_none, if_neg waits]
    · rw [exec_mwait_of_reaches h stamp older, attemptMwait_of_reaches stamp, if_neg differs, modTeam_eq (teamAt_of_reaches h stamp)]; rfl
    · rw [exec_mwait_of_reaches h stamp older, attemptMwait_of_reaches stamp, if_pos same, waitOr_none, if_pos rfl, mwaitTimeout, modTeam_eq (teamAt_of_reaches h stamp),
        field_of_low _ (by decide)]
      rfl
    · rw [exec_mwait_of_reaches h stamp older, attemptMwait_of_reaches stamp, if_pos same, waitOr_none, if_neg waits]
    · have free : s.commands.any (fun m => m.crew == r.crew && m.team == r.team && m.writesScm) = false := by
        refine List.any_eq_false.2 fun m hm writes => ?_
        simp only [Bool.and_eq_true, beq_iff_eq] at writes
        rw [signalled m hm writes.1] at writes
        exact absurd writes.2 (by decide)
      exact ⟨exec_pbarPdomain h false free, fun few => exec_pbarPspan_free h free (.inl few), fun none_ => exec_pbarPspan_free h free (.inr none_)⟩
    · have busy : s.commands.any (fun m => m.crew == r.crew && m.team == r.team && m.writesScm) = true :=
        List.any_eq_true.2 ⟨m, hm, by simp [crew, team, scm]⟩
      exact ⟨exec_pbarPdomain h true busy, exec_pbarPspan_busy h busy⟩

end Sys2Proof.Machine

namespace Sys2Proof.Machine

section ScalarLoadsAndStores

/-! ### SLD and SST (08 R164; 06 R123, R124) -/

/-- A load reads its low bytes only. -/
theorem loadedAs_mod (z : ScalarSize) (v : Nat) : loadedAs z (v % 2 ^ (8 * sizeBytes z)) = loadedAs z v := by
  have low : BitVec.ofNat (8 * sizeBytes z) (v % 2 ^ (8 * sizeBytes z)) = BitVec.ofNat (8 * sizeBytes z) v :=
    BitVec.eq_of_toNat_eq (by rw [BitVec.toNat_ofNat, BitVec.toNat_ofNat, Nat.mod_mod])
  rw [loadedAs, loadedAs, low]

theorem pow_bytes (n : Nat) : (256 : Nat) ^ n = 2 ^ (8 * n) := (Nat.pow_mul 2 8 n).symm

theorem extendBy_mod_bytes (z : ScalarSize) (v : Nat) : extendBy z (v % 256 ^ sizeBytes z) = loadedAs z v := by
  rw [pow_bytes, extendBy_eq_loadedAs z (Nat.mod_lt _ (Nat.two_pow_pos _)), loadedAs_mod]

theorem extendBy_readLE (z : ScalarSize) (m : Memory) (pa : Nat) : extendBy z (readLE m pa (sizeBytes z)) = loadedAs z (readLE m pa (sizeBytes z)) :=
  extendBy_eq_loadedAs z (by rw [← pow_bytes]; exact readLE_lt m _ pa)

theorem extendBy_tile_read (z : ScalarSize) {tl : Tile} (width : tl.width = 8 * sizeBytes z) (x : Coord) :
    extendBy z (tl.read x none) = loadedAs z (tl.read x none) :=
  extendBy_eq_loadedAs z (by rw [← width]; exact Tile.read_lt tl x none)

/-- A load that finds a copy of its line, which no store holds, brings the bytes of the copy. -/
theorem l1Load_hit {s : State} {core pa : Nat} {line : BitVec 512} (hit : s.l1Copy core (pa / 64) = some line) (n : Nat) :
    s.l1Load false core pa n = .ok (s.count (coreDie core) 6 1, line.toNat / 256 ^ (pa % 64) % 256 ^ n) := by
  unfold State.l1Load
  rw [hit]
  rfl

variable {s : State} {r : TeamRef} {c : Crew} {t : Team} (h : s.acts r c t) (clear : s.mpopClear r t = true) (d a : SReg) (z : ScalarSize)
include h clear

section GlobalLoad

variable {off : BitVec 32} {s1 : State} {pa : Nat} (place : s.reaches c.core (t.sreg a + off.signExtend 64).toNat (sizeBytes z) false s1 pa)
  (older : s.olderOverlap r t .scalar t.nextOrd false (.glob (t.sreg a + off.signExtend 64).toNat pa) (8 * sizeBytes z) = false)
include place older

/-- A global SLD that is not held by an earlier store writes what the L1 answers. -/
theorem exec_sld_glob {s2 : State} {v : Nat} (load : s1.l1Load (s1.lineBusy c.core (pa / 64) r t.nextOrd) c.core pa (sizeBytes z) = .ok (s2, v)) :
    exec (.sld d a z (.glob off)) s = .next (s2.putTeam r (t.result d (extendBy z v) 8)) := by
  obtain ⟨-, -, e, checked⟩ := globCheck_of_reaches place true
  obtain ⟨aligned, plain, -⟩ := place
  refine (withTeam_acts h _).trans ?_
  simp only [clear, scalarAddr, aligned, plain, checked, older, load, ne_eq, not_true_eq_false, Bool.not_true, Bool.false_eq_true, if_false]

/-- What a global SLD that loads `v` leaves. -/
theorem sld_glob_spec {s2 : State} {v : Nat} {w : Word} (load : s1.l1Load (s1.lineBusy c.core (pa / 64) r t.nextOrd) c.core pa (sizeBytes z) = .ok (s2, v))
    (mem : s2.mem = s1.mem) (crews : s2.crews = s1.crews) (extended : extendBy z v = w) :
    ∃ s', exec (.sld d a z (.glob off)) s = .next s' ∧ sameBytes s1 s' ∧ s'.teamAt r = some (c.putTeam r.team (t.result d w 8), t.result d w 8) := by
  have team : s2.teamAt r = some (c, t) := by
    rw [teamAt_eq, crews, (globCheck_of_reaches place true).1]
    exact teamAt_eq.1 h.2
  subst extended
  exact ⟨_, exec_sld_glob h clear d a z place older load, sameBytes_of_mem ((State.putTeam_mem s2 r _).trans mem), teamAt_putTeam team _⟩

end GlobalLoad

theorem exec_sld_misaligned {off : BitVec 32} (misaligned : (t.sreg a + off.signExtend 64).toNat % sizeBytes z ≠ 0) :
    exec (.sld d a z (.glob off)) s = .next (s.scalarFault r causeAlignment none) := by
  refine (withTeam_acts h _).trans ?_
  simp only [clear, Bool.not_true, Bool.false_eq_true, if_false]
  rw [if_pos (show scalarAddr t a off % sizeBytes z ≠ 0 from misaligned)]

theorem exec_sld_tile {hd : Handle} {tl : Tile} (elem : c.element hd (t.sreg a) (8 * sizeBytes z) tl) (clean : tl.poisoned (coordOf (t.sreg a)) none = false)
    (older : s.olderOverlap r t .scalar t.nextOrd false (.tile r.crew tl.uid (coordOf (t.sreg a)) none) (8 * sizeBytes z) = false) :
    exec (.sld d a z (.tile hd)) s = .next (s.putTeam r (t.result d (loadedAs z (tl.read (coordOf (t.sreg a)) none)) 8)) := by
  obtain ⟨-, -, -, width, -⟩ := id elem
  refine (withTeam_acts h _).trans ?_
  simp only [clear, scalarTile_element elem, older, clean, extendBy_tile_read z width, Bool.not_true, Bool.false_eq_true, if_false]

theorem exec_sld_tile_free {hd : Handle} (free : c.tile hd = none) : exec (.sld d a z (.tile hd)) s = .next (s.scalarFault r stBounds none) := by
  refine (withTeam_acts h _).trans ?_
  simp only [clear, scalarTile, free, Bool.not_true, Bool.false_eq_true, if_false]

section Stores

variable (room : t.sctr ≠ 0xFFFF#16)
include room

theorem exec_sst_glob {off : BitVec 32} {s1 : State} {pa : Nat} (place : s.reaches c.core (t.sreg a + off.signExtend 64).toNat (sizeBytes z) true s1 pa) :
    exec (.sst d a z (.glob off)) s =
      .next (s1.putTeam r ((t.issueStore (.glob (t.sreg a + off.signExtend 64).toNat pa) (8 * sizeBytes z) (t.sreg d)).advance 8)) := by
  obtain ⟨-, -, e, checked⟩ := globCheck_of_reaches place false
  obtain ⟨aligned, plain, -⟩ := place
  refine (withTeam_acts h _).trans ?_
  simp only [clear, beq_eq_false_iff_ne.2 room, scalarAddr, aligned, plain, checked, ne_eq, not_true_eq_false, Bool.not_true, Bool.false_and, Bool.or_false,
    Bool.false_eq_true, if_false]

theorem exec_sst_misaligned {off : BitVec 32} (misaligned : (t.sreg a + off.signExtend 64).toNat % sizeBytes z ≠ 0) :
    exec (.sst d a z (.glob off)) s = .next (s.scalarFault r causeAlignment none) := by
  refine (withTeam_acts h _).trans ?_
  simp only [clear, beq_eq_false_iff_ne.2 room, Bool.not_true, Bool.false_and, Bool.or_false, Bool.false_eq_true, if_false]
  rw [if_pos (show scalarAddr t a off % sizeBytes z ≠ 0 from misaligned)]

theorem exec_sst_tile {hd : Handle} {tl : Tile} (elem : c.element hd (t.sreg a) (8 * sizeBytes z) tl) :
    exec (.sst d a z (.tile hd)) s =
      .next (s.putTeam r ((t.issueStore (.tile r.crew tl.uid (coordOf (t.sreg a)) none) (8 * sizeBytes z) (t.sreg d)).advance 8)) := by
  refine (withTeam_acts h _).trans ?_
  simp only [clear, beq_eq_false_iff_ne.2 room, scalarTile_element elem, Bool.not_true, Bool.false_and, Bool.or_false, Bool.false_eq_true, if_false]

end Stores

end ScalarLoadsAndStores

/-- Settles O15: a global load by what the L1 finds, the store by what is issued. -/
theorem scalarAccesses : Obligations.ScalarAccesses := by
  unfold Obligations.ScalarAccesses
  constructor
  · intro s r c t h d a z off hd va n clear
    refine ⟨fun s1 pa place older => ⟨fun miss => ?_, fun line hit idle => ?_⟩, exec_sld_misaligned h clear d a z, fun tl elem clean older => exec_sld_tile h clear d a z elem clean older,
      exec_sld_tile_free h clear d a z⟩
    · have built : pa < 2 ^ 40 := by
        have := (globCheck_of_reaches place true).2.1
        have : 0 < n := by cases z <;> decide
        omega
      obtain ⟨s2, load, mem, crews⟩ := l1Load_miss miss built (s1.lineBusy c.core (pa / 64) r t.nextOrd) n
      exact sld_glob_spec h clear d a z place older load mem crews (extendBy_readLE z s1.mem pa)
    · have load := l1Load_hit hit n
      rw [← idle] at load
      exact sld_glob_spec h clear d a z place older load (State.count_mem ..) (count_crews ..) (extendBy_mod_bytes z _)
  · intro s r c t h d a z off hd va n issues clear room
    exact ⟨fun s1 pa place => ⟨_, _, exec_sst_glob h clear d a z room place, rfl, rfl, rfl, rfl, rfl, rfl, rfl⟩, exec_sst_misaligned h clear d a z room,
      fun tl elem => ⟨_, _, exec_sst_tile h clear d a z room elem, rfl, rfl, rfl, rfl, rfl, rfl, rfl⟩⟩

end Sys2Proof.Machine

namespace Sys2Proof.Machine

section TetherRequests

/-! ### Tether accesses of a team (08 R185; 14 R313, R314, R316) -/

/-- The parts of the package that a Tether request is about, and those that the teams see, are the same. -/
def State.sameTether (s s' : State) : Prop := s'.crews = s.crews ∧ s'.slices = s.slices ∧ s'.mem = s.mem ∧ s'.treqs = s.treqs

theorem State.sameTether.trans {s s' s'' : State} (h : s.sameTether s') (h' : s'.sameTether s'') : s.sameTether s'' := by
  obtain ⟨crews, slices, mem, treqs⟩ := h
  obtain ⟨crews', slices', mem', treqs'⟩ := h'
  exact ⟨crews'.trans crews, slices'.trans slices, mem'.trans mem, treqs'.trans treqs⟩

theorem count_sameTether (s : State) (d code n : Nat) : s.sameTether (s.count d code n) := by
  obtain ⟨p, counted⟩ := count_eq s d code n
  rw [counted]
  exact ⟨rfl, rfl, rfl, rfl⟩

/-- A flit that is sent changes the package's outbox, its ports and its counters. -/
theorem send_sameTether (s : State) (kind dst : Nat) (tag : BitVec 32) (payload : List Byte) : s.sameTether (s.send kind dst tag payload) := by
  unfold State.send State.route
  split
  · unfold State.sendOn
    split
    · exact ⟨rfl, rfl, rfl, rfl⟩
    · exact State.sameTether.trans ⟨rfl, rfl, rfl, rfl⟩ (count_sameTether _ _ 0x0E 1)
  · exact ⟨rfl, rfl, rfl, rfl⟩

/-- The package with one more request of a team. -/
def State.withTreq (s : State) (r : TeamRef) (gang line : Nat) (k : TReqKind) : State :=
  { s with treqs := s.treqs ++ [{ team := r, gang := gang, line := line, kind := k, tag := s.nextTag }], nextTag := s.nextTag + 1#32 }

/-- A team's request to a home that is not lost waits; the rest is as before. -/
theorem sendTreq_sameTether (s : State) (r : TeamRef) (gang line : Nat) (k : TReqKind) (alive : s.span.lost.contains (line / 2 ^ 18) = false) :
    (s.withTreq r gang line k).sameTether (s.sendTreq r gang line k) := by
  have counted := count_sameTether (s.withTreq r gang line k) (gang / 12) 0x0F 1
  unfold State.sendTreq
  dsimp only
  rw [alive, if_neg (by decide)]
  split
  · exact counted
  · exact counted.trans (send_sameTether _ _ _ _ _)

theorem putTeam_putTeam {s : State} {r : TeamRef} {c : Crew} {t : Team} (h : s.teamAt r = some (c, t)) (u v : Team) : (s.putTeam r u).putTeam r v = s.putTeam r v := by
  rw [putTeam_eq (teamAt_putTeam h u), putTeam_eq h u, putTeam_eq h v]
  simp only [Crew.putTeam, List.set_set]

/-- What an upsert has put is what its key finds. -/
theorem find?_upsert {α : Type} {p : α → Bool} {x : α} (keyed : p x = true) : ∀ l : List α, (upsert p x l).find? p = some x
  | [] => List.find?_cons_of_pos keyed
  | y :: l => by
    rw [upsert]
    split
    · exact List.find?_cons_of_pos keyed
    · next other => rw [List.find?_cons_of_neg other, find?_upsert keyed l]

theorem sliceCopy_key {s : State} {gang line : Nat} {x : SliceLine} (held : s.sliceCopy gang line = some x) : x.gang = gang ∧ x.line = line := by
  have key := List.find?_some held
  simpa only [Bool.and_eq_true, beq_iff_eq] using key

theorem sliceCopy_putSlice (s : State) {gang line : Nat} {x : SliceLine} (key : x.gang = gang ∧ x.line = line) : (s.putSlice x).sliceCopy gang line = some x := by
  obtain ⟨rfl, rfl⟩ := key
  exact find?_upsert (p := fun y : SliceLine => y.gang == x.gang && y.line == x.line) (by rw [beq_self_eq_true, beq_self_eq_true]; rfl) s.slices

theorem sliceRoom_of_copy {s : State} {gang line : Nat} {x : SliceLine} (held : s.sliceCopy gang line = some x) : s.sliceRoom gang line = true := by
  rw [State.sliceRoom, held]
  rfl

/-- How far a request raises the store counter of its team (06 R123). -/
def TReqKind.weight (k : TReqKind) : BitVec 16 := if k.counted then 1#16 else 0#16

section
variable {s : State} {r : TeamRef} {c : Crew} {t : Team} (h : s.teamAt r = some (c, t))
include h

theorem endTreq_eq (k : TReqKind) : s.endTreq r k = (s.dropTreq r).putTeam r { t with sctr := t.sctr - k.weight } := by
  have team : (s.dropTreq r).teamAt r = some (c, t) := h
  refine (modTeam_eq team _).trans (congrArg _ ?_)
  unfold TReqKind.weight
  split
  · rfl
  · rw [BitVec.sub_zero]

theorem teamAt_endTreq (k : TReqKind) :
    (s.endTreq r k).teamAt r = some (c.putTeam r.team { t with sctr := t.sctr - k.weight }, { t with sctr := t.sctr - k.weight }) := by
  rw [endTreq_eq h k]
  exact teamAt_putTeam (s := s.dropTreq r) h _

theorem endTreq_putTeam (k : TReqKind) (u : Team) : (s.endTreq r k).putTeam r u = (s.dropTreq r).putTeam r u := by
  rw [endTreq_eq h k]
  exact putTeam_putTeam (s := s.dropTreq r) h _ u

theorem tetherFault_running (running : t.faulted = false) (cause : Nat) : s.tetherFault r cause = s.scalarFault r cause none := by
  rw [State.tetherFault, h]
  simp only [running, Bool.false_eq_true, if_false]

theorem tetherFault_stopped (stopped : t.faulted = true) (cause : Nat) : s.tetherFault r cause = s := by
  rw [State.tetherFault, h]
  simp only [stopped, if_true]

theorem followPc_running (running : t.faulted = false) : s.followPc r = s := by
  rw [State.followPc, modTeam_eq h, running]
  exact putTeam_self h

theorem beginTreq_full {gang line : Nat} (full : s.sliceRoom gang line = false) (k : TReqKind) : s.beginTreq r gang line k = s := by
  rw [State.beginTreq, h]
  simp only [full, Bool.not_false, if_true]

/-- A request that is issued: it waits, and the counter has risen by its weight. -/
theorem beginTreq_spec {gang line : Nat} (room : s.sliceRoom gang line = true) (alive : s.span.lost.contains (line / 2 ^ 18) = false) (k : TReqKind)
    (counter : k.counted = true → t.sctr ≠ 0xFFFF#16) :
    ((s.beginTreq r gang line k).teamAt r).map (·.2) = some { t with sctr := t.sctr + k.weight } ∧ (s.beginTreq r gang line k).slices = s.slices ∧
      (s.beginTreq r gang line k).mem = s.mem ∧
      ∃ q, (s.beginTreq r gang line k).treqs = s.treqs ++ [q] ∧ q.team = r ∧ q.gang = gang ∧ q.line = line ∧ q.kind = k ∧ q.st = .waiting := by
  rw [State.beginTreq, h]
  simp only [room, Bool.not_true, Bool.false_eq_true, if_false]
  unfold TReqKind.weight
  split
  · next counted =>
    rw [if_neg (counter counted), putTeam_eq h]
    obtain ⟨crews, slices, mem, treqs⟩ := sendTreq_sameTether { s with crews := s.crews.set r.crew (c.putTeam r.team { t with sctr := t.sctr + 1#16 }) } r gang line k alive
    have team := teamAt_putTeam h { t with sctr := t.sctr + 1#16 }
    rw [putTeam_eq h] at team
    refine ⟨?_, slices, mem, _, treqs, rfl, rfl, rfl, rfl, rfl⟩
    rw [teamAt_eq.2 (crews ▸ teamAt_eq.1 team)]
    rfl
  · obtain ⟨crews, slices, mem, treqs⟩ := sendTreq_sameTether s r gang line k alive
    refine ⟨?_, slices, mem, _, treqs, rfl, rfl, rfl, rfl, rfl⟩
    rw [teamAt_eq.2 (crews ▸ teamAt_eq.1 h), BitVec.add_zero]
    rfl

end

section
variable {s : State} {r : TeamRef} {gang line : Nat} {k : TReqKind} {hit : Option SliceLine → Option State} {answer : Word → State → State}

theorem tetherAccess_hit (none_ : s.treqOf r = none) {s1 : State} (performed : hit (s.sliceCopy gang line) = some s1) :
    s.tetherAccess r gang line k hit answer = s1 := by
  rw [State.tetherAccess, none_]
  simp only [performed]

theorem tetherAccess_miss (none_ : s.treqOf r = none) (missed : hit (s.sliceCopy gang line) = none) :
    s.tetherAccess r gang line k hit answer = s.beginTreq r gang line k := by
  rw [State.tetherAccess, none_]
  simp only [missed]

variable {c : Crew} {t : Team} (h : s.teamAt r = some (c, t))
include h

/-- What an access makes of its request while it waits, when it is refused and when it fails. -/
theorem tetherAccess_ends {out : Out} (runs : out = .next (s.tetherAccess r gang line k hit answer)) {q : TReq} (asked : s.treqOf r = some q) {n : BitVec 16} (weighs : k.weight = n) :
    (q.st = .waiting → out = .next s) ∧
    (q.st = .refused → t.faulted = false → out = .next (((s.dropTreq r).putTeam r { t with sctr := t.sctr - n }).scalarFault r 9 none)) ∧
    (q.st = .failed → t.faulted = false → out = .next (((s.dropTreq r).putTeam r { t with sctr := t.sctr - n }).scalarFault r 6 none)) ∧
    (q.st = .refused ∨ q.st = .failed → t.faulted = true → out = .next ((s.dropTreq r).putTeam r { t with sctr := t.sctr - n })) := by
  subst runs weighs
  rw [State.tetherAccess, asked, ← endTreq_eq h]
  have team := teamAt_endTreq h k
  refine ⟨fun st => ?_, fun st running => ?_, fun st running => ?_, fun st stopped => ?_⟩
  · simp only [st]
  · simp only [st, tetherFault_running team running]; rfl
  · simp only [st, tetherFault_running team running]; rfl
  · rcases st with st | st <;> simp only [st, tetherFault_stopped team stopped]

/-- An answered request of a team that runs ends, and the access has its answer. -/
theorem tetherAccess_answered {q : TReq} (asked : s.treqOf r = some q) {old : Word} (answered : q.st = .answered old) {u : Team}
    (writes : answer old (s.endTreq r k) = (s.endTreq r k).putTeam r u) (running : u.faulted = false) :
    s.tetherAccess r gang line k hit answer = (s.dropTreq r).putTeam r u := by
  rw [State.tetherAccess, asked]
  simp only [answered, writes]
  rw [followPc_running (teamAt_putTeam (teamAt_endTreq h k) u) running, endTreq_putTeam h]

end

theorem extendBy_lineBytes (z : ScalarSize) (v : BitVec 512) (off : Nat) :
    extendBy z (lineBytes v off (sizeBytes z)) = loadedAs z (v.toNat / 256 ^ off % 256 ^ sizeBytes z) := by
  refine (extendBy_mod_bytes z _).trans ?_
  rw [pow_bytes, pow_bytes, loadedAs_mod]

section Instructions

variable {s : State} {r : TeamRef} {c : Crew} {t : Team} (h : s.acts r c t) (d a : SReg) (z : ScalarSize)
include h

/-- An access that asks its line's home. -/
theorem asks_of_beginTreq {out : Out} {gang line : Nat} {k : TReqKind} (runs : out = .next (s.beginTreq r gang line k)) (room : s.sliceRoom gang line = true)
    (alive : s.span.lost.contains (line / 2 ^ 18) = false) (counter : k.counted = true → t.sctr ≠ 0xFFFF#16) {n : BitVec 16} (weighs : k.weight = n) :
    ∃ s', out = .next s' ∧ (s'.teamAt r).map (·.2) = some { t with sctr := t.sctr + n } ∧ s'.slices = s.slices ∧ sameBytes s s' ∧
      ∃ q, s'.treqs = s.treqs ++ [q] ∧ q.team = r ∧ q.gang = gang ∧ q.line = line ∧ q.kind = k ∧ q.st = .waiting := by
  subst weighs
  obtain ⟨team, slices, mem, asked⟩ := beginTreq_spec h.2 room alive k counter
  exact ⟨_, runs, team, slices, sameBytes_of_mem mem, asked⟩

section
variable (clear : s.mpopClear r t = true) {off : BitVec 32} (tether : s.inTether (scalarAddr t a off) = true) (aligned : scalarAddr t a off % sizeBytes z = 0)
include clear tether aligned

theorem exec_sld_tether : exec (.sld d a z (.glob off)) s = .next (s.tetherAccess r (coreGang c.core) (s.tetherLine (scalarAddr t a off)) .read
    (fun x => x.map (fun l => s.putTeam r (t.result d (extendBy z (lineBytes l.value (scalarAddr t a off % 64) (sizeBytes z))) 8))) (fun _ s => s)) := by
  refine (withTeam_acts h _).trans ?_
  simp only [clear, tether, aligned, Bool.not_true, Bool.false_eq_true, if_false, if_true, ne_eq, not_true_eq_false]

/-- The copy after a store of a team to it. -/
def SliceLine.stored (x : SliceLine) (off n v : Nat) : SliceLine := { x with st := .m, value := patchLine x.value off n v }

/-- A store of a team to a copy that its slice holds in M or E. -/
def tetherStore (s : State) (r : TeamRef) (t : Team) (off n v : Nat) (x : Option SliceLine) : Option State :=
  match x with
  | none => none
  | some l => if l.st == .s then none else some ((s.putTeam r (t.advance 8)).putSlice (l.stored off n v))

omit h clear tether aligned in
theorem tetherStore_owned {o : Option SliceLine} {x : SliceLine} (held : o = some x) (owned : x.st ≠ .s) {off n v : Nat} :
    tetherStore s r t off n v o = some ((s.putTeam r (t.advance 8)).putSlice (x.stored off n v)) := by
  rw [held, tetherStore, beq_eq_false_iff_ne.2 owned]
  rfl

theorem exec_sst_tether (counter : (t.sctr == 0xFFFF#16 && (s.treqOf r).isNone) = false) :
    exec (.sst d a z (.glob off)) s = .next (s.tetherAccess r (coreGang c.core) (s.tetherLine (scalarAddr t a off)) .own
      (tetherStore s r t (scalarAddr t a off % 64) (sizeBytes z) (t.sreg d).toNat) (fun _ s => s)) := by
  refine (withTeam_acts h _).trans ?_
  simp only [clear, counter, tether, aligned, Bool.not_true, Bool.or_false, Bool.false_eq_true, if_false, if_true, ne_eq, not_true_eq_false]
  rfl

end

theorem exec_satom_tether (b : SReg) (op : AtomOp) (clear : s.mpopClear r t = true) (tether : s.inTether (t.sreg a).toNat = true)
    (aligned : (t.sreg a).toNat % sizeBytes z = 0) (counter : (t.sctr == 0xFFFF#16 && (s.treqOf r).isNone) = false) :
    exec (.satom d a b z op .glob) s = .next (s.tetherAccess r (coreGang c.core) (s.tetherLine (t.sreg a).toNat)
      (.atomic ((t.sreg a).toNat % 64) (8 * sizeBytes z) op (t.sreg b) (t.sreg d)) (fun _ => none) (fun old s => s.modTeam r (fun t => t.result d (extendBy z old.toNat) 8))) := by
  refine (withTeam_acts h _).trans ?_
  simp only [clear, counter, tether, aligned, Bool.not_true, Bool.or_false, Bool.false_eq_true, if_false, if_true, ne_eq, not_true_eq_false]

theorem exec_tclaim_outside (outside : (t.sreg a).toNat % 64 ≠ 0 ∨ s.inTether (t.sreg a).toNat = false) :
    exec (.tclaim d a) s = .next (s.putTeam r (t.status d 7 4)) := by
  refine (withTeam_acts h _).trans (congrArg Host.Outcome.next (if_pos ?_))
  simpa only [Bool.or_eq_true, decide_eq_true_eq, Bool.not_eq_true'] using outside

theorem exec_tclaim_tether (aligned : (t.sreg a).toNat % 64 = 0) (tether : s.inTether (t.sreg a).toNat = true) :
    exec (.tclaim d a) s = .next (s.tetherAccess r (coreGang c.core) (s.tetherLine (t.sreg a).toNat) .claim (fun _ => none)
      (fun old s => s.modTeam r (fun t => t.status d (if old = 1#64 then stOk else stAborted) 4))) := by
  refine (withTeam_acts h _).trans (congrArg Host.Outcome.next (if_neg ?_))
  simp only [aligned, tether, ne_eq, not_true_eq_false, decide_false, Bool.not_true, Bool.or_false, Bool.false_eq_true, not_false_eq_true]

end Instructions

/-- The store counter has room, or the access has its request already. -/
theorem counter_of_room {s : State} {r : TeamRef} {t : Team} (room : t.sctr ≠ 0xFFFF#16) : (t.sctr == 0xFFFF#16 && (s.treqOf r).isNone) = false := by
  rw [beq_eq_false_iff_ne.2 room, Bool.false_and]

theorem counter_of_asked {s : State} {r : TeamRef} {t : Team} {q : TReq} (asked : s.treqOf r = some q) : (t.sctr == 0xFFFF#16 && (s.treqOf r).isNone) = false := by
  rw [asked, Option.isNone_some, Bool.and_false]

end TetherRequests

/-- Settles O59: each instruction is one Tether access, by what its team has asked for and what the slice holds. -/
theorem tetherAccesses : Obligations.TetherAccesses := by
  unfold Obligations.TetherAccesses
  intro s r c t h d a z off va n line cl asks room ends
  refine ⟨fun b op clear tether aligned => ⟨fun none_ counter alive free => ?_, fun none_ counter full => ?_, fun q asked => ⟨?_, fun old answered small running => ?_⟩⟩,
    fun clear tether aligned => ⟨fun none_ => ⟨fun x held => ?_, fun missed free alive => ?_, fun missed full => ?_, fun counter => ⟨fun x held owned => ?_, fun missed alive => ?_⟩⟩,
      fun q asked => ⟨?_, ?_⟩⟩,
    exec_tclaim_outside h d a, fun aligned tether => ⟨fun none_ free alive => ?_, fun q old asked answered running => ?_⟩⟩
  · exact asks_of_beginTreq h ((exec_satom_tether h d a z b op clear tether aligned (counter_of_room counter)).trans (congrArg _ (tetherAccess_miss none_ rfl))) free alive
      (fun _ => counter) rfl
  · exact (exec_satom_tether h d a z b op clear tether aligned (counter_of_room counter)).trans (congrArg _ ((tetherAccess_miss none_ rfl).trans (beginTreq_full h.2 full _)))
  · exact tetherAccess_ends h.2 (exec_satom_tether h d a z b op clear tether aligned (counter_of_asked asked)) asked rfl
  · refine (exec_satom_tether h d a z b op clear tether aligned (counter_of_asked asked)).trans (congrArg _ (tetherAccess_answered h.2 asked answered ?_ ?_))
    · exact (modTeam_eq (teamAt_endTreq h.2 _) _).trans (congrArg (fun w => (s.endTreq r _).putTeam r (Team.result _ d w 8)) (extendBy_eq_loadedAs z small))
    · exact (Team.result_faulted _ _ _ _).trans running
  · refine (exec_sld_tether h d a z clear tether aligned).trans (congrArg _ (tetherAccess_hit none_ ?_))
    exact (congrArg (Option.map _) held).trans (congrArg (fun w => some (s.putTeam r (t.result d w 8))) (extendBy_lineBytes z x.value (va % 64)))
  · exact asks_of_beginTreq h ((exec_sld_tether h d a z clear tether aligned).trans (congrArg _ (tetherAccess_miss none_ (congrArg (Option.map _) missed)))) free alive
      (fun write => absurd write (by decide)) rfl
  · exact (exec_sld_tether h d a z clear tether aligned).trans (congrArg _ ((tetherAccess_miss none_ (congrArg (Option.map _) missed)).trans (beginTreq_full h.2 full _)))
  · refine ⟨_, (exec_sst_tether h d a z clear tether aligned (counter_of_room counter)).trans (congrArg _ (tetherAccess_hit none_ (tetherStore_owned held owned))),
      teamAt_putTeam h.2 _, sliceCopy_putSlice (s.putTeam r (t.advance 8)) (x := x.stored (va % 64) n (t.sreg d).toNat) (show x.gang = _ ∧ x.line = _ from sliceCopy_key held),
      State.putTeam_home s r _, State.putTeam_treqs s r _, sameBytes_of_mem (State.putTeam_mem s r _)⟩
  · have missing : tetherStore s r t (va % 64) n (t.sreg d).toNat (s.sliceCopy (coreGang c.core) line) = none := by
      rcases missed with ⟨none_', -⟩ | ⟨x, held, shared⟩
      · rw [none_']; rfl
      · rw [held, tetherStore, shared]; rfl
    have free : s.sliceRoom (coreGang c.core) line = true := by
      rcases missed with ⟨-, free⟩ | ⟨x, held, -⟩
      · exact free
      · exact sliceRoom_of_copy held
    exact asks_of_beginTreq h ((exec_sst_tether h d a z clear tether aligned (counter_of_room counter)).trans (congrArg _ (tetherAccess_miss none_ missing))) free alive
      (fun _ => counter) rfl
  · exact tetherAccess_ends h.2 (exec_sld_tether h d a z clear tether aligned) asked rfl
  · exact tetherAccess_ends h.2 (exec_sst_tether h d a z clear tether aligned (counter_of_asked asked)) asked rfl
  · exact asks_of_beginTreq h ((exec_tclaim_tether h d a aligned tether).trans (congrArg _ (tetherAccess_miss none_ rfl))) free alive
      (fun write => absurd write (by decide)) rfl
  · refine (exec_tclaim_tether h d a aligned tether).trans (congrArg _ (tetherAccess_answered h.2 asked answered ?_ ?_))
    · refine (modTeam_eq (teamAt_endTreq h.2 _) _).trans (congrArg ((s.endTreq r .claim).putTeam r) ?_)
      rw [show TReqKind.claim.weight = 0#16 from rfl, BitVec.sub_zero]
      split <;> rfl
    · exact (Team.result_faulted _ _ _ _).trans running

end Sys2Proof.Machine

namespace Sys2Proof.Machine

section ControlBlocks

/-! ### Control blocks in memory (12 R273) -/

/-- A part of a value that is stored reads back. -/
theorem readLE_writeLE_part (m : Memory) (a n v : Nat) : ∀ k i, i + k ≤ n → readLE (writeLE m a n v) (a + i) k = v / 256 ^ i % 256 ^ k
  | 0, i, _ => by rw [readLE, Nat.pow_zero, Nat.mod_one]
  | k + 1, i, inside => by
    rw [readLE, cellGet_writeLE_same m a n v i (by omega), Nat.add_assoc, readLE_writeLE_part m a n v k (i + 1) (by omega), BitVec.toNat_ofNat, Nat.pow_succ 256 k,
      Nat.mul_comm (256 ^ k) 256, Nat.mod_mul, Nat.div_div_eq_div_mul, ← Nat.pow_succ]

/-- Memories with the same bytes read the same. -/
theorem readLE_congr {m m' : Memory} : ∀ {n a : Nat}, (∀ x, a ≤ x → x < a + n → cellGet m' x = cellGet m x) → readLE m' a n = readLE m a n
  | 0, _, _ => rfl
  | n + 1, a, same => by
    rw [readLE, readLE, same a (Nat.le_refl a) (by omega), readLE_congr fun x low high => same x (by omega) (by omega)]

theorem readLE_zero_bytes {m : Memory} : ∀ {n a : Nat}, (∀ x, a ≤ x → x < a + n → cellGet m x = 0#8) → readLE m a n = 0
  | 0, _, _ => rfl
  | n + 1, a, zero => by
    rw [readLE, zero a (Nat.le_refl a) (by omega), readLE_zero_bytes fun x low high => zero x (by omega) (by omega)]
    rfl

/-- The block that a retirement brings to zero, or that has been quiescent before, is quiescent (02 R48). -/
theorem WlBlock.retire_spec (b : WlBlock) (n : Nat) : (b.retire n).inflight = b.inflight - n ∧
    ((b.retire n).quiescent = true ↔ (b.inflight ≤ n ∧ b.appended = b.taken) ∨ b.quiescent = true) := by
  have ends : (b.inflight - n = 0 ∧ b.appended = b.taken) ↔ (b.inflight ≤ n ∧ b.appended = b.taken) := by rw [Nat.sub_eq_zero_iff_le]
  unfold WlBlock.retire WlBlock.test
  dsimp only
  split
  · next now => exact ⟨rfl, iff_of_true rfl (.inl (ends.1 now))⟩
  · next not_yet => exact ⟨rfl, ⟨.inr, fun h => h.resolve_left fun now => not_yet (ends.2 now)⟩⟩

theorem WlBlock.test_done {b : WlBlock} (idle : b.inflight = 0) (all_taken : b.appended = b.taken) : b.test = { b with state := 1 } := if_pos ⟨idle, all_taken⟩

theorem WlBlock.test_busy {b : WlBlock} (busy : 0 < b.inflight) : b.test = b := if_neg fun done => absurd done.1 (Nat.ne_of_gt busy)

theorem WlBlock.not_quiescent {b : WlBlock} (open_ : b.state = 0) : b.quiescent = false := by rw [WlBlock.quiescent, open_]; rfl

theorem wlBlock_some {s : State} {core set : Nat} {b : WlBlock} (block : s.wlBlock core set = some b) :
    ∃ x, s.wlRead core set 64 = some x ∧ wlBlockOf x = b ∧ b.ok = true := by
  unfold State.wlBlock at block
  split at block
  · cases block
  · next x read =>
    split at block
    · next good => cases block; exact ⟨x, read, rfl, good⟩
    · cases block

theorem wlWrite_crews {s s' : State} {core va n v : Nat} {step : BitVec 32} (written : s.wlWrite core va n v step = some s') : s'.crews = s.crews := by
  have same := translate_crews s none (coreDie core) va true
  unfold State.wlWrite at written
  generalize s.translate none (coreDie core) va true = q at same written
  obtain ⟨s1, x⟩ := q
  cases x with
  | ok pa e =>
    dsimp only at written
    split at written
    · cases written
    · split at written
      · next s2 put => cases written; exact (pageMerge_crews put).trans same
      · cases written
  | fail => cases written
  | empty z => cases written
  | lost => cases written

end ControlBlocks

section Initialised

/-! ### WLINIT (08 R181) -/

/-- A write of whole bytes of an untracked page in HBM4E, where nothing is lost. -/
theorem pageWrite_plain {s : State} {pa n : Nat} {e : Word} (untracked : pteTracked e = false) (alive : s.dead = []) (built : pa + n ≤ 2 ^ 40) (va v : Nat) (step : BitVec 32) :
    s.pageWrite va pa e step n v = .ok ({ s with mem := writeLE s.mem pa n (v % 256 ^ n) }.clearPoison pa n) := by
  have hbm : isScm pa = false := decide_eq_false (by omega)
  have old : s.physRead pa n = readLE s.mem pa n := by rw [State.physRead, hbm]; rfl
  have small := readLE_lt s.mem n pa
  have whole : updateBits (readLE s.mem pa n) 0 (8 * n) (fun _ => v) = v % 256 ^ n := by
    rw [updateBits, patchBits, Nat.pow_zero, Nat.div_one, ← pow_bytes, Nat.mod_eq_of_lt small, Nat.mul_one, Nat.mul_one, Nat.sub_self, Nat.zero_add]
  have lives : s.isDead pa n = false := by rw [State.isDead, alive]; rfl
  rw [State.pageWrite, State.pageMerge, untracked, if_neg (by decide), old, whole, State.physWrite, lives, hbm]
  rfl

/-- A byte lies in one of the pieces. -/
def inPieces (l : List (Nat × Nat × Nat × Word)) (x : Nat) : Prop := ∃ p, p ∈ l ∧ p.2.1 ≤ x ∧ x < p.2.1 + p.2.2.1

/-- What filling plain pieces with zeros leaves. -/
theorem wlFill_zero (core : Nat) (step : BitVec 32) : ∀ (l : List (Nat × Nat × Nat × Word)) (s : State), s.dead = [] →
    (∀ p, p ∈ l → pteTracked p.2.2.2 = false ∧ p.2.1 + p.2.2.1 ≤ 2 ^ 40) →
    ∃ s', s.wlFill core step 0 l = .ok s' ∧ s'.crews = s.crews ∧ (∀ x, inPieces l x → s'.byteAt x = 0#8) ∧ (∀ x, ¬inPieces l x → s'.byteAt x = s.byteAt x)
  | [], s, _, _ => ⟨s, rfl, rfl, fun x ⟨_, h, _⟩ => absurd h List.not_mem_nil, fun _ _ => rfl⟩
  | (va, pa, n, e) :: rest, s, alive, plain => by
    obtain ⟨untracked, built⟩ := plain _ List.mem_cons_self
    let s1 := ({ s with mem := writeLE s.mem pa n (0 % 256 ^ n) }.clearPoison pa n).l1DropLine core (pa / 64)
    obtain ⟨s', filled, crews, zero, same⟩ := wlFill_zero core step rest s1 alive fun p hp => plain p (List.mem_cons_of_mem _ hp)
    have first : s.pageWrite va pa e step n 0 = .ok ({ s with mem := writeLE s.mem pa n (0 % 256 ^ n) }.clearPoison pa n) :=
      pageWrite_plain untracked alive built va 0 step
    refine ⟨s', ?_, crews, fun x inside => ?_, fun x outside => ?_⟩
    · rw [State.wlFill, first]; exact filled
    · by_cases later : inPieces rest x
      · exact zero x later
      · rw [same x later]
        obtain ⟨p, hp, low, high⟩ := inside
        rcases List.mem_cons.1 hp with rfl | hp
        · have byte := cellGet_writeLE_same s.mem pa n (0 % 256 ^ n) (x - pa) (by dsimp only at low high; omega)
          rw [Nat.add_sub_cancel' low, Nat.zero_mod, Nat.zero_div] at byte
          exact byte
        · exact absurd ⟨p, hp, low, high⟩ later
    · rw [same x fun ⟨p, hp, at_⟩ => outside ⟨p, List.mem_cons_of_mem _ hp, at_⟩]
      refine cellGet_writeLE_other _ _ _ _ _ ?_
      by_contra inside
      exact outside ⟨_, List.mem_cons_self, by dsimp only; omega⟩

theorem wlLines_crews (core : Nat) : ∀ (fuel : Nat) (s : State) (va n : Nat), (s.wlLines core fuel va n).1.crews = s.crews
  | 0, _, _, _ => rfl
  | fuel + 1, s, va, n => by
    have same := translate_crews s (some core) (coreDie core) va true
    unfold State.wlLines
    split
    · rfl
    · generalize s.translate (some core) (coreDie core) va true = q at same ⊢
      obtain ⟨s1, x⟩ := q
      cases x with
      | ok pa e =>
        have rest := wlLines_crews core fuel s1 (va + min n 64) (n - min n 64)
        dsimp only
        generalize s1.wlLines core fuel (va + min n 64) (n - min n 64) = q at rest ⊢
        obtain ⟨s2, l⟩ := q
        cases l <;> exact rest.trans same
      | fail => exact same
      | empty z => exact same
      | lost => exact same

/-- The team after its set began anew. -/
def Team.forgot (t : Team) (set : Nat) : Team := { t with wl := t.wl.filter (fun w => w.set != set) }

def Crew.forgot (c : Crew) (set : Nat) : Crew := { c with teams := c.teams.map (fun t => t.forgot set), owed := c.owed.filter (fun w => w.set != set) }

theorem teamAt_forgetSet {s : State} {r : TeamRef} {c : Crew} {t : Team} (h : s.teamAt r = some (c, t)) (set : Nat) :
    (s.forgetSet set).teamAt r = some (c.forgot set, t.forgot set) := by
  obtain ⟨crew, team⟩ := teamAt_eq.1 h
  refine teamAt_eq.2 ⟨?_, ?_⟩
  · rw [State.forgetSet, List.getElem?_map, crew]; rfl
  · rw [Crew.forgot, List.getElem?_map, team]; rfl

/-- The control block of a set that begins. -/
def newBlock (seed lists items cap : Nat) : WlBlock :=
  { appended := 0, taken := 0, inflight := seed, s := seed, lists := lists, items := items, cap := cap, state := 0, rest := 0 }

/-- The number of `n` bytes at a place, and what is packed behind it. -/
theorem packed_next {v i a n b : Nat} (at_ : v / 256 ^ i = a + 256 ^ n * b) (small : a < 256 ^ n) : v / 256 ^ i % 256 ^ n = a ∧ v / 256 ^ (i + n) = b := by
  constructor
  · rw [at_, Nat.add_mul_mod_self_left, Nat.mod_eq_of_lt small]
  · rw [Nat.pow_add, ← Nat.div_div_eq_div_mul, at_, Nat.add_mul_div_left _ _ (Nat.zero_lt_of_lt small), Nat.div_eq_of_lt small, Nat.zero_add]

/-- The block of a set that begins, packed from its last bytes on. -/
theorem newBlock_bits (seed lists items cap : Nat) : (newBlock seed lists items cap).bits =
    0 + 256 ^ 8 * (0 + 256 ^ 8 * (seed + 256 ^ 8 * (seed + 256 ^ 4 * (lists + 256 ^ 4 * (items + 256 ^ 8 * (cap + 256 ^ 4 * (0 + 256 ^ 4 * (0 + 256 ^ 16 * 0)))))))) := by
  obtain ⟨p, unit⟩ : ∃ p, p = 256 ^ 4 := ⟨_, rfl⟩
  have bits_power (n : Nat) : 2 ^ (32 * n) = p ^ n := by rw [unit, ← Nat.pow_mul, pow_bytes]; congr 1; omega
  have bytes_power (n : Nat) : 256 ^ (4 * n) = p ^ n := by rw [unit, ← Nat.pow_mul]
  have p4 := bits_power 4; have p6 := bits_power 6; have p7 := bits_power 7; have p8 := bits_power 8; have p10 := bits_power 10; have b2 := bytes_power 2; have b4 := bytes_power 4
  simp only [Nat.reduceMul] at p4 p6 p7 p8 p10 b2 b4
  simp only [newBlock, WlBlock.bits, p4, p6, p7, p8, p10, b2, b4, ← unit, Nat.mul_zero, Nat.add_zero]
  ring

theorem newBlock_fields {seed lists items cap : Nat} (seed_small : seed < 256 ^ 4) (lists_small : lists < 256 ^ 4) (items_small : items < 256 ^ 8) (cap_small : cap < 256 ^ 4) :
    let v := (newBlock seed lists items cap).bits
    v / 256 ^ 0 % 256 ^ 8 = 0 ∧ v / 256 ^ 8 % 256 ^ 8 = 0 ∧ v / 256 ^ 16 % 256 ^ 8 = seed ∧ v / 256 ^ 24 % 256 ^ 4 = seed ∧ v / 256 ^ 28 % 256 ^ 4 = lists ∧
      v / 256 ^ 32 % 256 ^ 8 = items ∧ v / 256 ^ 40 % 256 ^ 4 = cap ∧ v / 256 ^ 44 % 256 ^ 4 = 0 ∧ v / 256 ^ 48 % 256 ^ 16 = 0 := by
  intro v
  have packed : v / 256 ^ 0 = _ := (Nat.div_one v).trans (newBlock_bits seed lists items cap)
  obtain ⟨appended, packed⟩ := packed_next packed (by norm_num)
  obtain ⟨taken, packed⟩ := packed_next packed (by norm_num)
  obtain ⟨inflight, packed⟩ := packed_next packed (seed_small.trans (by norm_num))
  obtain ⟨s, packed⟩ := packed_next packed seed_small
  obtain ⟨l, packed⟩ := packed_next packed lists_small
  obtain ⟨i, packed⟩ := packed_next packed items_small
  obtain ⟨c, packed⟩ := packed_next packed cap_small
  obtain ⟨st, packed⟩ := packed_next packed (by norm_num)
  obtain ⟨rest, -⟩ := packed_next packed (by norm_num)
  exact ⟨appended, taken, inflight, s, l, i, c, st, rest⟩

/-- A field of a control block that is stored reads back. -/
theorem readLE_writeLE_field (m : Memory) (pa v : Nat) {i k : Nat} (inside : i + k ≤ 64) : readLE (writeLE m pa 64 (v % 256 ^ 64)) (pa + i) k = v / 256 ^ i % 256 ^ k := by
  rw [readLE_writeLE_part _ _ _ _ k i inside, pow_bytes, pow_bytes i, pow_bytes k, mod_digit (by omega)]

variable {s : State} {r : TeamRef} {c : Crew} {t : Team} (h : s.acts r c t) (d a : SReg)
include h

theorem exec_wlinit_refused
    (bad : (t.sregK a 0).toNat % 64 ≠ 0 ∨ ((t.sregK a 1).extractLsb' 32 13).toNat = 0 ∨ 4096 < ((t.sregK a 1).extractLsb' 32 13).toNat) :
    exec (.wlinit d a) s = .next (s.putTeam r (t.status d 7 4)) := by
  refine (withTeam_acts h _).trans (congrArg Host.Outcome.next ((if_pos ?_).trans (modTeam_eq h.2 _)))
  rcases bad with set | none_ | many
  · exact .inl set
  · exact .inr (.inr (.inr (.inl none_)))
  · exact .inr (.inr (.inr (.inr (.inl many))))

/-- WLINIT of a well-formed group whose pieces are filled. -/
theorem exec_wlinit_filled {set lists seed items cap : Nat} (set_eq : (t.sregK a 0).toNat = set) (lists_eq : ((t.sregK a 1).extractLsb' 32 13).toNat = lists)
    (seed_eq : ((t.sregK a 1).setWidth 32).toNat = seed) (items_eq : (t.sregK a 2).toNat = items) (cap_eq : (t.sregK a 3).toNat = cap)
    (aligned : set % 64 = 0) (set_small : set < 2 ^ 56) (some_ : 1 ≤ lists) (few : lists ≤ 4096) (seeded : 0 < seed) (clean : (t.sregK a 1).toNat < 2 ^ 45)
    (items_aligned : items % 8 = 0) (items_small : items < 2 ^ 56) (room : 0 < cap) (cap_small : cap < 2 ^ 32)
    (table : s.wlUsable ((64 + 16 * lists) / 2 ^ 16 + 2) set (set + (64 + 16 * lists)) = true)
    (store : s.wlUsable (lists * cap * 8 / 2 ^ 16 + 2) items (items + lists * cap * 8) = true)
    {s1 s2 : State} {l : List (Nat × Nat × Nat × Word)} (lines : s.wlLines c.core ((64 + 16 * lists) / 64 + 1) set (64 + 16 * lists) = (s1, some l))
    (idle : t.pending = []) (filled : s1.wlFill c.core t.stepNow (newBlock seed lists items cap).bits l = .ok s2) :
    exec (.wlinit d a) s = .next ((s2.forgetSet set).modTeam r (fun t => t.status d 0 4)) := by
  have listsField : (field (t.sregK a 1) 44 32).toNat = lists := lists_eq
  have seedField : (field (t.sregK a 1) 31 0).toNat = seed := by rw [field_low]; exact seed_eq
  have free : (l.any fun p => s1.olderOverlap r t .scalar t.nextOrd true (.glob p.1 p.2.1) (8 * p.2.2.1)) = false := by
    refine List.any_eq_false.2 fun p _ => ?_
    rw [State.olderOverlap, idle]
    simp
  refine (withTeam_acts h _).trans (congrArg Host.Outcome.next ((if_neg ?_).trans ?_))
  · rw [set_eq, listsField, seedField, items_eq, cap_eq]
    omega
  · simp only [set_eq, listsField, seedField, items_eq, cap_eq, table, store, lines, free, Bool.not_true, Bool.or_false, Bool.false_eq_true, if_false]
    rw [← newBlock, filled]
    rfl

omit h in
/-- What the fill of a set's pieces leaves: the block at the first, zeros in the others (12 R273). -/
theorem wlFill_block {s1 : State} {core set pa seed lists items cap : Nat} {e1 : Word} {rest : List (Nat × Nat × Nat × Word)} (step : BitVec 32)
    (built : pa + 64 ≤ 2 ^ 40) (untracked : pteTracked e1 = false) (alive : s1.dead = [])
    (plain : ∀ p, p ∈ rest → pteTracked p.2.2.2 = false ∧ p.2.1 + p.2.2.1 ≤ 2 ^ 40 ∧ (p.2.1 + p.2.2.1 ≤ pa ∨ pa + 64 ≤ p.2.1)) :
    ∃ s2, s1.wlFill core step (newBlock seed lists items cap).bits ((set, pa, 64, e1) :: rest) = .ok s2 ∧ s2.crews = s1.crews ∧
      (∀ x, (x < pa ∨ pa + 64 ≤ x) → (∀ p, p ∈ rest → x < p.2.1 ∨ p.2.1 + p.2.2.1 ≤ x) → s2.byteAt x = s1.byteAt x) ∧
      (∀ p, p ∈ rest → readLE s2.mem p.2.1 p.2.2.1 = 0) ∧
      (∀ i k, i + k ≤ 64 → readLE s2.mem (pa + i) k = (newBlock seed lists items cap).bits / 256 ^ i % 256 ^ k) := by
  let v := (newBlock seed lists items cap).bits
  let sb := ({ s1 with mem := writeLE s1.mem pa 64 (v % 256 ^ 64) }.clearPoison pa 64).l1DropLine core (pa / 64)
  have first : s1.pageWrite set pa e1 step 64 v = .ok ({ s1 with mem := writeLE s1.mem pa 64 (v % 256 ^ 64) }.clearPoison pa 64) := pageWrite_plain untracked alive built set v step
  obtain ⟨s2, filled, crews, zero, same⟩ := wlFill_zero core step rest sb alive fun p hp => ⟨(plain p hp).1, (plain p hp).2.1⟩
  refine ⟨s2, ?_, crews, fun x away others => ?_, fun p hp => ?_, fun i k inside => ?_⟩
  · rw [State.wlFill, first]; exact filled
  · rw [same x fun ⟨p, hp, low, high⟩ => (others p hp).elim (fun below => by omega) (fun above => by omega)]
    exact cellGet_writeLE_other _ _ _ _ _ away
  · exact readLE_zero_bytes fun x low high => zero x ⟨p, hp, low, high⟩
  · refine Eq.trans (readLE_congr fun x low high => ?_) (readLE_writeLE_field s1.mem pa v inside)
    exact same x fun ⟨p, hp, below, above⟩ => (plain p hp).2.2.elim (fun before => by omega) (fun behind => by omega)

end Initialised

section QuiescentSets

/-! ### TDWAIT and WLTAKE (08 R181; 12 R273) -/

variable {s : State} {r : TeamRef} {c : Crew} {t : Team} {b : WlBlock}

/-- What TDWAIT finds at a good block: the set quiescent, or nothing yet. -/
theorem attemptTdwait_eq (d a : SReg) (block : s.wlBlock c.core (t.sreg a).toNat = some b) (due : s.changeDue r (t.sreg a).toNat = false) :
    attemptTdwait d a s r c t = if b.test.quiescent then
      (s.putWlBlock c.core (t.sreg a).toNat b.test t.stepNow).map (fun s1 => s1.modTeam r (fun u => { u.status d 0 4 with swait := none })) else none := by
  obtain ⟨x, read, rfl, good⟩ := wlBlock_some block
  unfold attemptTdwait
  simp only [due, read, good, Bool.not_true, Bool.false_eq_true, if_false]
  rfl

/-- What WLTAKE finds at a good block with the list it names. -/
theorem attemptWltake_quiescent (d a : SReg) (block : s.wlBlock c.core (t.take a).set = some b) (due : s.changeDue r (t.take a).set = false) (listed : (t.take a).list < b.lists)
    (ends : b.test.quiescent = true) :
    attemptWltake d a s r c t = (s.putWlBlock c.core (t.take a).set b.test t.stepNow).map (fun s1 => s1.modTeam r (fun u => { u.result d 0#64 4 with swait := none })) := by
  obtain ⟨x, read, rfl, good⟩ := wlBlock_some block
  have lists : (wlBlockOf x).test.lists = (wlBlockOf x).lists := by unfold WlBlock.test; split <;> rfl
  unfold attemptWltake
  simp only [due, read, good, lists, decide_eq_false (Nat.not_le.2 listed), ends, Bool.not_true, Bool.or_false, Bool.false_eq_true, if_false, if_true]
  rfl

/-- What WLTAKE finds at a good block that is not quiescent, with nothing at the list's head: no item. -/
theorem attemptWltake_empty (d a : SReg) {head : Nat} (block : s.wlBlock c.core (t.take a).set = some b) (due : s.changeDue r (t.take a).set = false)
    (listed : (t.take a).list < b.lists) (busy : 0 < b.inflight) (open_ : b.state = 0) (tile : ((t.take a).tile c).isSome = true)
    (entry : s.wlEntry c.core (t.take a).set (t.take a).list = some (head, head)) : attemptWltake d a s r c t = none := by
  obtain ⟨x, read, rfl, good⟩ := wlBlock_some block
  obtain ⟨tl, tile⟩ := Option.isSome_iff_exists.1 tile
  unfold attemptWltake
  simp only [due, read, good, WlBlock.test_busy busy, decide_eq_false (Nat.not_le.2 listed), WlBlock.not_quiescent open_, tile, entry, Nat.sub_self, State.wlScan, List.isEmpty_nil,
    Bool.not_true, Bool.or_false, Bool.false_eq_true, if_false, if_true]
  split <;> rfl

theorem takeHeld_empty (a : SReg) {head : Nat} (block : s.wlBlock c.core (t.take a).set = some b) (busy : 0 < b.inflight) (open_ : b.state = 0)
    (entry : s.wlEntry c.core (t.take a).set (t.take a).list = some (head, head)) : s.takeHeld c t a = false := by
  unfold State.takeHeld
  simp only [block, WlBlock.test_busy busy, WlBlock.not_quiescent open_, entry, Nat.sub_self, State.wlScan, List.isEmpty_nil, Bool.not_true, Bool.or_false]

/-- The one item of a list that has no reserved position. -/
theorem wlScan_one (set list head m : Nat) (some_ : 1 ≤ m) (holes : s.wlHoles = []) (items : s.wlItems = []) :
    s.wlScan set list (head + 1 - head) head (head + 1) m = ([head], head + 1) := by
  rw [Nat.add_sub_cancel_left, State.wlScan, if_neg (by omega), holes, items]
  rfl

theorem Take.tile_count {k : Take} {tl : Tile} (named : k.tile c = some tl) : 1 ≤ k.m := by
  unfold Take.tile at named
  split at named
  · cases named
  · split at named
    · next fits =>
      simp only [Bool.and_eq_true, decide_eq_true_eq] at fits
      obtain ⟨⟨⟨-, some_, -⟩, -⟩, -⟩ := fits
      exact some_
    · cases named

/-- What one item taken leaves of the package and of its team. -/
theorem attemptWltake_one (d a : SReg) {tl : Tile} {head v : Nat} {s1 s2 s3 : State} (block : s.wlBlock c.core (t.take a).set = some b)
    (due : s.changeDue r (t.take a).set = false) (listed : (t.take a).list < b.lists) (busy : 0 < b.inflight) (open_ : b.state = 0) (idle : t.swait = none)
    (tile : (t.take a).tile c = some tl) (entry : s.wlEntry c.core (t.take a).set (t.take a).list = some (head, head + 1)) (before : s.takeBefore s.nextWait (t.take a) = false)
    (holes : s.wlHoles = []) (items : s.wlItems = []) (item : s.wlRead c.core (b.itemAt (t.take a).list head) 8 = some v) (clean : s.poison = [])
    (written : s.tileWrite r.crew tl.uid (t.take a).at_ none v t.stepNow false = .ok s1)
    (moved : s1.putWlEntry c.core (t.take a).set (t.take a).list (head + 1) (head + 1) t.stepNow = some s2)
    (counted : s2.putWlBlock c.core (t.take a).set { b with taken := b.taken + 1, inflight := b.inflight + 1 } t.stepNow = some s3) :
    ∃ holes', attemptWltake d a s r c t = some (({ s3 with wlHoles := holes' }.modTeam r (fun u => { u.result d 1#64 4 with swait := none })).modTeam r
      (fun u => u.putHold ⟨(t.take a).set, 1, false⟩)) := by
  obtain ⟨x, read, rfl, good⟩ := wlBlock_some block
  have scan := wlScan_one (s := s) (t.take a).set (t.take a).list head (t.take a).m (Take.tile_count tile) holes items
  have unpoisoned (pa : Nat) : s.isPoisoned pa 8 = false := by rw [State.isPoisoned, clean]; rfl
  have put : s.takeItems r tl.uid (t.take a) t.stepNow [(0, v)] = .ok s1 := by
    rw [State.takeItems, show (t.take a).at_.plus1 0 = (t.take a).at_ from rfl, written]
    rfl
  have values : [head].mapM (fun p => s.wlRead c.core ((wlBlockOf x).itemAt (t.take a).list p) 8) = some [v] := by
    rw [List.mapM_cons, item]
    rfl
  unfold attemptWltake
  simp only [due, read, good, WlBlock.test_busy busy, decide_eq_false (Nat.not_le.2 listed), WlBlock.not_quiescent open_, scalarBegan_idle idle, before, tile, entry, scan,
    List.isEmpty_cons, values, Bool.not_true, Bool.or_false, Bool.false_eq_true, if_false]
  refine ⟨s3.wlHoles.filter (fun h => !(h.set == (t.take a).set && h.list == (t.take a).list && h.void && decide (h.pos < head + 1))), ?_⟩
  split
  · next poisoned =>
    obtain ⟨p, -, found⟩ := List.any_eq_true.1 poisoned
    split at found
    · rw [unpoisoned] at found; cases found
    · cases found
  · simp only [List.zipIdx_cons, List.zipIdx_nil, List.map_cons, List.map_nil, put, moved, List.length_cons, List.length_nil, counted, Option.map_some]
    rfl

section
variable (h : s.acts r c t) (d a : SReg) (e : BitVec 5) (named : s.wlNamed c.core (t.sreg a).toNat = (s, .ok b)) (block : s.wlBlock c.core (t.sreg a).toNat = some b)
  (appended : s.appendsDone r c t = true) (busy : t.setBusy (t.sreg a).toNat b = false) (due : s.changeDue r (t.sreg a).toNat = false) (owed : t.wlOwed (t.sreg a).toNat = 0)
include h named block appended busy due owed

theorem exec_tdwait_eq :
    exec (.tdwait d a e) s = .next (if e = 0#5 && (attemptTdwait d a s r c t).isNone && b.test.quiescent then s
      else s.waitOr r (.tdwait d a e) e none (attemptTdwait d a s r c t) (statusTimeout s r d 4)) := by
  refine (withTeam_acts h _).trans (congrArg Host.Outcome.next ?_)
  simp only [named, appended, busy, due, owed, State.tdHeld, block, Bool.not_true, Bool.or_false, Bool.false_eq_true, if_false, ne_eq, not_true_eq_false]

theorem exec_tdwait_found {s1 : State} (found : attemptTdwait d a s r c t = some s1) : exec (.tdwait d a e) s = .next s1 := by
  rw [exec_tdwait_eq h d a e named block appended busy due owed, found, Option.isNone_some, Bool.and_false, Bool.false_and]
  rfl

theorem exec_tdwait_waits (waits : attemptTdwait d a s r c t = none) (unheld : b.test.quiescent = false) :
    exec (.tdwait d a e) s = .next (if e = 0#5 then statusTimeout s r d 4 else s.beginWait r (.tdwait d a e) e none) := by
  rw [exec_tdwait_eq h d a e named block appended busy due owed, waits, unheld, Bool.and_false, waitOr_none]
  rfl

end

section
variable (h : s.acts r c t) (d a : SReg) (e : BitVec 5) (named : s.wlNamed c.core (t.take a).set = (s, .ok b)) (listed : (t.take a).list < b.lists)
  (tile : ((t.take a).tile c).isSome = true) (entry : (s.wlEntry c.core (t.take a).set (t.take a).list).isSome = true)
  (appended : s.appendsDone r c t = true) (after : s.takeAfter r c t (t.take a) b = false) (due : s.changeDue r (t.take a).set = false) (owed : t.wlOwed (t.take a).set = 0)
include h named listed tile entry appended after due owed

theorem exec_wltake_eq :
    exec (.wltake d a e) s = .next (if e = 0#5 && (attemptWltake d a s r c t).isNone && s.takeHeld c t a then s
      else s.waitOr r (.wltake d a e) e none (attemptWltake d a s r c t) (wltakeTimeout s r d)) := by
  have noTile : ((t.take a).tile c).isNone = false := by rw [← Option.not_isSome, tile]; rfl
  have noEntry : (s.wlEntry c.core (t.take a).set (t.take a).list).isNone = false := by rw [← Option.not_isSome, entry]; rfl
  refine (withTeam_acts h _).trans (congrArg Host.Outcome.next ?_)
  simp only [named, noTile, noEntry, appended, after, due, owed, Nat.not_le.2 listed, Bool.not_true, Bool.or_false, Bool.false_eq_true, if_false, ne_eq, not_true_eq_false, or_self]

theorem exec_wltake_found {s1 : State} (found : attemptWltake d a s r c t = some s1) : exec (.wltake d a e) s = .next s1 := by
  rw [exec_wltake_eq h d a e named listed tile entry appended after due owed, found, Option.isNone_some, Bool.and_false, Bool.false_and]
  rfl

theorem exec_wltake_waits (waits : attemptWltake d a s r c t = none) (unheld : s.takeHeld c t a = false) :
    exec (.wltake d a e) s = .next (if e = 0#5 then wltakeTimeout s r d else s.beginWait r (.wltake d a e) e none) := by
  rw [exec_wltake_eq h d a e named listed tile entry appended after due owed, waits, unheld, Bool.and_false, waitOr_none]
  rfl

end

/-! The operands of a take (08 R181). -/

theorem Team.sregK_zero (t : Team) (a : SReg) : t.sregK a 0 = t.sreg a := congrArg t.sreg (BitVec.add_zero a)

theorem Team.take_set {a : SReg} (small : (t.sregK a 0).toNat < 2 ^ 56) : (t.take a).set = (t.sregK a 0).toNat := by
  rw [Team.take, field_of_low _ (by decide), BitVec.toNat_setWidth, Nat.mod_eq_of_lt small]

theorem Team.take_list (a : SReg) : (t.take a).list = (t.sregK a 1).toNat % 4096 :=
  (congrArg BitVec.toNat (field_of_low _ (by decide))).trans (BitVec.toNat_setWidth 12 _)

/-- The standing in a set that a team has taken is the one it has. -/
theorem Team.putHold_find (t : Team) (w : WlHold) : (t.putHold w).wl.find? (fun x => x.set == w.set) = some w :=
  find?_upsert (p := fun x : WlHold => x.set == w.set) (beq_self_eq_true _) t.wl

theorem Team.forgot_status (t : Team) (set : Nat) (d : SReg) (code n : Nat) : { (t.forgot set).status d code n with wl := t.wl } = t.status d code n := by
  unfold Team.status Team.result Team.setSreg
  split <;> rfl

theorem Team.status_wl (t : Team) (d : SReg) (code n : Nat) : (t.status d code n).wl = t.wl := Team.result_wl t d _ n

/-- A write of an element changes tiles of its crew, no team. -/
theorem teamAt_tileUpdate (h : s.teamAt r = some (c, t)) {uid : Nat} {x : Coord} {blk : Option Nat} {f : Nat → Nat} {step : BitVec 32} {full : Bool} {s1 : State}
    (written : s.tileUpdate r.crew uid x blk f step full = .ok s1) : ∃ c', s1.teamAt r = some (c', t) := by
  unfold State.tileUpdate at written
  rw [crewAt_of h] at written
  dsimp only at written
  split at written
  · cases written; exact ⟨c, h⟩
  · split at written
    · cases written
    · split at written
      · split at written
        · cases written
        · next s2 preserved =>
          cases written
          refine ⟨_, teamAt_putTile ((teamAt_congr ?_ r).trans h) _⟩
          rw [alsoPreserved_crews, preserve_crews preserved]
      · cases written
        exact ⟨_, teamAt_putTile h _⟩

end QuiescentSets

/-- Settles O28: WLINIT by the fill of its lines, TDWAIT and WLTAKE by what their attempt finds at the block. -/
theorem workListInstructions : Obligations.WorkListInstructions := by
  unfold Obligations.WorkListInstructions
  refine ⟨⟨WlBlock.retire_spec, fun s r c t h d a e => ?_⟩, fun s s1 s2 s3 r c t d a e b tl head v h idle => ?_⟩
  · dsimp only
    refine ⟨exec_wlinit_refused h d a,
      fun s1 pa e1 rest aligned set_small some_ few seeded clean items_aligned items_small room cap_small table store lines built untracked alive idle plain => ?_,
      fun b s2 idle named block appended busy due owed none_ all_taken written => ⟨?_, fun small listed tile after entry => ?_⟩,
      fun b idle named block appended busy due owed some_ open_ => ?_, fun b head idle named block appended after due owed some_ open_ listed tile entry => ?_⟩
    · obtain ⟨s2, filled, crews, same, zero, block⟩ := wlFill_block (seed := ((t.sregK a 1).setWidth 32).toNat) (lists := ((t.sregK a 1).extractLsb' 32 13).toNat)
        (items := (t.sregK a 2).toNat) (cap := (t.sregK a 3).toNat) t.stepNow built untracked alive plain
      have lineCrews : s1.crews = s.crews := by
        have := wlLines_crews c.core ((64 + 16 * ((t.sregK a 1).extractLsb' 32 13).toNat) / 64 + 1) s (t.sregK a 0).toNat (64 + 16 * ((t.sregK a 1).extractLsb' 32 13).toNat)
        rwa [lines] at this
      have team := teamAt_forgetSet ((teamAt_congr (crews.trans lineCrews) r).trans h.2) (t.sregK a 0).toNat
      obtain ⟨f0, f8, f16, f24, f28, f32, f40, f44, f48⟩ := newBlock_fields (seed := ((t.sregK a 1).setWidth 32).toNat) (lists := ((t.sregK a 1).extractLsb' 32 13).toNat)
        (items := (t.sregK a 2).toNat) (cap := (t.sregK a 3).toNat) (BitVec.isLt _) (lt_of_le_of_lt few (by norm_num)) (BitVec.isLt _) cap_small
      have mem : ((s2.forgetSet (t.sregK a 0).toNat).modTeam r (fun t => t.status d 0 4)).mem = s2.mem := State.modTeam_mem ..
      refine ⟨_, _, _, exec_wlinit_filled h d a rfl rfl rfl rfl rfl aligned set_small some_ few seeded clean items_aligned items_small room cap_small table store lines idle filled,
        teamAt_modTeam team _, ?_, fun w => ?_, ?_⟩
      · exact Team.forgot_status t (t.sregK a 0).toNat d 0 4
      · rw [Team.status_wl, Team.forgot, List.mem_filter, bne_iff_ne]
      · rw [mem]
        exact ⟨fun x away others => (congrArg (fun m => cellGet m x) mem).trans (same x away others), zero, (block 0 8 (by decide)).trans f0, (block 8 8 (by decide)).trans f8,
          (block 16 8 (by decide)).trans f16, (block 24 4 (by decide)).trans f24, (block 28 4 (by decide)).trans f28, (block 32 8 (by decide)).trans f32,
          (block 40 4 (by decide)).trans f40, (block 44 4 (by decide)).trans f44, (block 48 16 (by decide)).trans f48⟩
    · have found := attemptTdwait_eq (r := r) (t := t) d a block due
      rw [WlBlock.test_done none_ all_taken, written] at found
      exact exec_tdwait_found h d a e named block appended busy due owed found
    · have set_eq := Team.take_set small
      rw [← t.sregK_zero a] at named block due owed written
      rw [← set_eq] at named block due owed written entry
      rw [← Team.take_list] at listed entry
      have quiescent : b.test.quiescent = true := by rw [WlBlock.test_done none_ all_taken]; rfl
      have found := attemptWltake_quiescent (r := r) d a block due listed quiescent
      rw [WlBlock.test_done none_ all_taken, written] at found
      exact exec_wltake_found h d a e named listed tile entry appended after due owed found
    · have waits : attemptTdwait d a s r c t = none := by
        rw [attemptTdwait_eq d a block due, WlBlock.test_busy some_, WlBlock.not_quiescent open_]; rfl
      have quiescent : b.test.quiescent = false := by rw [WlBlock.test_busy some_, WlBlock.not_quiescent open_]
      have runs (e : BitVec 5) := exec_tdwait_waits h d a e named block appended busy due owed waits quiescent
      exact ⟨(runs 0#5).trans (congrArg Host.Outcome.next (statusTimeout_eq h.2 d 4)), fun long => (runs e).trans (congrArg Host.Outcome.next (if_neg long))⟩
    · have waits := attemptWltake_empty d a block due listed some_ open_ tile entry
      have unheld := takeHeld_empty a block some_ open_ entry
      have runs (e : BitVec 5) := exec_wltake_waits h d a e named listed tile (by rw [entry]; rfl) appended after due owed waits unheld
      exact ⟨(runs 0#5).trans (congrArg Host.Outcome.next (modTeam_eq h.2 _)), fun long => (runs e).trans (congrArg Host.Outcome.next (if_neg long))⟩
  · intro k named block appended due owed after some_ open_ listed tile entry before holes items item clean written moved counted
    obtain ⟨holes', found⟩ := attemptWltake_one d a block due listed some_ open_ idle tile entry before holes items item clean written moved counted
    obtain ⟨c1, team1⟩ := teamAt_tileUpdate h.2 written
    have team3 : State.teamAt { s3 with wlHoles := holes' } r = some (c1, t) := (teamAt_congr ((wlWrite_crews counted).trans (wlWrite_crews moved)) r).trans team1
    rw [modTeam_eq team3, modTeam_eq (teamAt_putTeam team3 _), putTeam_putTeam team3] at found
    have runs := exec_wltake_found h d a e named listed (by rw [tile]; rfl) (by rw [entry]; rfl) appended after due owed found
    refine ⟨_, _, runs, ?_, congrArg (Option.map _) (teamAt_putTeam team3 _), congrArg (· + 4#64) (Team.setSreg_pc t d 1#64), fun x => rfl, Team.putHold_find _ ⟨k.set, 1, false⟩⟩
    rw [putTeam_eq team3]

end Sys2Proof.Machine

namespace Sys2Proof.Machine

section LaunchRecords

/-! ### LAUNCH (08 R184; 13 R281) -/

/-- A record at a misaligned address is refused, for its misalignment or for a refusal that ranks before it. -/
theorem checkRecord_misaligned (s : State) (rec : BitVec 1024) (p : Bool) : (s.checkRecord rec p false).2.2 = 7 ∨ (s.checkRecord rec p false).2.2 = 8 := by
  unfold State.checkRecord
  dsimp only
  split
  · exact .inr rfl
  · generalize (if recXdecl rec % 16 = 0 then s.readExt (recXdecl rec) (3 * (recNtiles rec - 4)) else s.readExt (recXdecl rec / 4 * 4) (3 * (recNtiles rec - 4))) = q
    obtain ⟨s1, x⟩ := q
    cases x with
    | none => exact .inr rfl
    | some b => exact .inl rfl

/-- What a team that has nothing outstanding has released. -/
theorem Team.relDone_idle {t : Team} (queue : t.queue = []) (pending : t.pending = []) (scalar : t.sctr = 0#16) (lane : t.lctr = 0#16) : t.relDone = true := by
  simp [Team.relDone, Team.allRetired, Team.loadsDone, Team.storesDone, queue, pending, scalar, lane]

variable {s : State} {r : TeamRef} {c : Crew} {t : Team} (h : s.acts r c t) (released : t.relDone = true) (d a : SReg)
include h released

theorem exec_launch_unread {s1 : State} (unread : s.readRecord c.core (t.sreg a).toNat = (s1, none)) :
    exec (.launch d a) s = .next (s1.modTeam r (fun u => u.status d 8 4)) := by
  refine (withTeam_acts h _).trans ?_
  simp only [released, unread, Bool.not_true, Bool.false_eq_true, if_false]
  rfl

variable {s1 s2 : State} {rec : BitVec 1024} {ext : List (BitVec 96)} {code : Nat} (read : s.readRecord c.core (t.sreg a).toNat = (s1, some rec))
  (checked : s1.checkRecord rec t.priv ((t.sreg a).toNat % 128 == 0) = (s2, ext, code))
include read checked

theorem exec_launch_refused (refused : code ≠ 0) :
    exec (.launch d a) s = .next ((s2.refuseStamp (coreDie c.core) rec code).modTeam r (fun u => u.status d code 4)) := by
  have bad : ¬code = stOk := refused
  refine (withTeam_acts h _).trans ?_
  simp only [released, read, checked, bad, false_and, Bool.not_true, Bool.false_eq_true, if_false]

theorem exec_launch_accepted (accepted : code = 0) (room : s2.openLaunches < 4096) :
    exec (.launch d a) s = .next ((s2.acceptRecord rec ext).modTeam r (fun u => u.status d 0 4)) := by
  have good : code = stOk := accepted
  refine (withTeam_acts h _).trans ?_
  simp only [released, read, checked, good, Nat.not_le.2 room, and_false, Bool.not_true, Bool.false_eq_true, if_false, if_true]
  rfl

end LaunchRecords

section DeviceSteps

/-! ### The host queues and the gates (13 R281, R282) -/

variable {s : State} (active : s.active = true)
include active

theorem exec_launchAccept_accepted {q : Nat} {g : Ring} {s1 s2 : State} {rec : BitVec 1024} {ext : List (BitVec 96)} (booted : s.platform.stage = 0xFF#8)
    (turn : s.queueTurn = some q) (ring : s.lqs[q]? = some g) (head : s.headRecord g = (s1, rec)) (checked : s1.checkRecord rec g.priv true = (s2, ext, 0)) :
    exec (.launchAccept q) s = .next { s2.acceptRecord rec ext with lqs := s2.lqs.set q { g with cons := g.cons + 1#16 }, turn := (q + 1) % 64 } := by
  have taken : (!s.active || s.platform.stage != 0xFF#8 || s.queueTurn != some q) = false := by rw [active, booted, turn, bne_self_eq_false, bne_self_eq_false]; rfl
  refine congrArg Host.Outcome.next ((if_neg (Bool.eq_false_iff.1 taken)).trans ?_)
  simp only [ring, head, checked, show (0 : Nat) = stOk from rfl, if_true]
  rfl

variable {k : Nat} {l : Launch} (held : s.launches[k]? = some l) (waits : l.state = .waiting)
include held waits

omit held in
/-- The device looks at the gates of the launch. -/
theorem gates_looked_at : ¬(!s.active || l.state != .waiting) = true := by
  rw [active, waits]
  decide

theorem exec_gates_open {s1 : State} (unread : s.gateWords (recGates l.record) = (s1, none)) : exec (.dependenceGatesResolved k) s = .next s1 := by
  refine congrArg Host.Outcome.next ?_
  rw [held]
  refine (if_neg (gates_looked_at active waits)).trans ?_
  rw [unread]

theorem exec_gates_satisfied {s1 : State} {ws : List Nat} (read : s.gateWords (recGates l.record) = (s1, some ws)) (ok : ∀ w, w ∈ ws → w / 2 ^ 48 % 2 ^ 16 = 0) :
    exec (.dependenceGatesResolved k) s = .next (s1.putLaunch { l with state := .eligible }) := by
  have all : ws.all (fun w => w / 2 ^ 48 % 2 ^ 16 == stOk) = true := List.all_eq_true.2 fun w hw => beq_iff_eq.2 (ok w hw)
  refine congrArg Host.Outcome.next ?_
  rw [held]
  refine (if_neg (gates_looked_at active waits)).trans ?_
  rw [read]
  exact if_pos all

end DeviceSteps

/-- Settles O30: LAUNCH by what its record's reading and checks answer, the device's steps by their queue's head and their gates. -/
theorem launchesAndGates : Obligations.LaunchesAndGates := by
  unfold Obligations.LaunchesAndGates
  refine ⟨fun s r c t h d a queue pending scalar lane => ?_, fun s s1 s2 q g rec ext active booted turn ring head checked same => ?_, fun s k l active held waits => ?_⟩
  · have released := Team.relDone_idle queue pending scalar lane
    refine ⟨fun s1 unread => exec_launch_unread h released d a unread, fun s1 s2 rec ext code read checked refused => exec_launch_refused h released d a read checked refused,
      checkRecord_misaligned, fun s1 s2 rec ext aligned read checked room team => ?_⟩
    have checked' : s1.checkRecord rec t.priv ((t.sreg a).toNat % 128 == 0) = (s2, ext, 0) := by rw [aligned]; exact checked
    have team' : (s2.acceptRecord rec ext).teamAt r = some (c, t) := team
    refine ⟨_, _, exec_launch_accepted h released d a read checked' rfl room, State.modTeam_launches .., rfl, rfl, rfl, rfl, State.modTeam_nextId .., ?_,
      sameBytes_of_mem (State.modTeam_mem ..)⟩
    rw [teamAt_modTeam team']
    rfl
  · have inside := (List.getElem?_eq_some_iff.1 ring).1
    refine ⟨_, exec_launchAccept_accepted active booted turn ring head checked, ?_, fun p other => ?_, ⟨_, rfl, rfl, rfl, rfl⟩, rfl⟩
    · rw [same]; exact List.getElem?_set_self inside
    · rw [same]; exact List.getElem?_set_ne (Ne.symm other)
  · exact ⟨fun none_ => exec_gates_satisfied active held waits (by rw [none_]; rfl) (fun w hw => absurd hw List.not_mem_nil),
      fun s1 ws read ok => exec_gates_satisfied active held waits read ok, fun s1 unread => exec_gates_open active held waits unread⟩

end Sys2Proof.Machine


namespace Sys2Proof.Machine

section LaneValues

/-! ### Instructions that write one register in the executing lanes (09 R190) -/

/-- The popped team with register `d` written in a list of lanes and the passes made: what its registers hold, and that nothing else changes. -/
theorem laneDone_setVregs (t : Team) (srcs : List Src) (d : Nat) (f : Nat → Word) {ls : List Nat} (buf : Option (SMap 64)) (small : ∀ l, l ∈ ls → l < 1024) :
    let t' := (ls.foldl (fun u l => u.setVreg d l (f l)) (t.afterPops srcs)).laneDone buf
    (∀ v k, k < 1024 → t'.vreg v k = if v = d ∧ k ∈ ls then f k else t.vreg v k) ∧ t'.lidx = t.lidx + 1 ∧ t.laneKeeps t' := by
  obtain ⟨qu, tk, pops⟩ := t.afterPops_frame srcs
  obtain ⟨vr, le, writes, errs⟩ := Team.setVregs_frame (d := d) f ls (t.afterPops srcs)
  refine ⟨fun v k hk => ?_, ?_, ?_, ?_⟩
  · refine (Team.vreg_setVregs hk f ls _ small).trans ?_
    rw [pops]
    rfl
  · rw [writes, pops]
    rfl
  · rw [pops] at errs
    rw [writes, pops]
    exact errs
  · rw [writes, pops]
    rfl

/-- The popped team with register `d` written in the executing lanes, in whatever order, and the passes made. -/
theorem laneWrites_foldl {t : Team} {mask : Mask} {h : LaneHead} {srcs : List Src} {w d : Nat} {on : Nat → Prop} {val : Nat → Nat → Nat} {f : Nat → Word}
    {ls : List Nat} (buf : Option (SMap 64)) (lanes : ∀ l, l ∈ ls ↔ (t.executing mask h).getLsbD l = true)
    (onto : ∀ l e, (t.executing mask h).getLsbD l = true → e < 64 / w → on e → getElem w e (f l) = val l e % 2 ^ w)
    (kept : ∀ l e, (t.executing mask h).getLsbD l = true → e < 64 / w → ¬on e → getElem w e (f l) = getElem w e (t.vreg d l)) :
    t.laneWrites ((ls.foldl (fun u l => u.setVreg d l (f l)) (t.afterPops srcs)).laneDone buf) (t.executing mask h) w d on val := by
  obtain ⟨written, passes, keeps⟩ := laneDone_setVregs t srcs d f buf fun l hl => BitVec.lt_of_getLsbD ((lanes l).1 hl)
  refine ⟨fun l e hl he hon => ?_, fun l e hl he hon => ?_, fun v l other hl => ?_, passes, keeps⟩
  · rw [Team.laneElem, written _ _ (BitVec.lt_of_getLsbD hl), if_pos ⟨rfl, (lanes l).2 hl⟩, onto l e hl he hon]
  · rw [Team.laneElem, written _ _ (BitVec.lt_of_getLsbD hl), if_pos ⟨rfl, (lanes l).2 hl⟩, kept l e hl he hon, Team.laneElem]
  · rw [written _ _ hl, if_neg]
    rintro ⟨hv, on⟩
    rcases other with ne | off
    · exact ne hv
    · exact absurd (((lanes l).1 on).symm.trans off) (by decide)

theorem lanes_afterPops (t : Team) (srcs : List Src) : (t.afterPops srcs).lanes = t.lanes := by
  obtain ⟨qu, tk, pops⟩ := t.afterPops_frame srcs
  rw [pops]

/-- The same for a write of the executing lanes in their order. -/
theorem laneWrites_writeLanes {t : Team} {mask : Mask} {h : LaneHead} {srcs : List Src} {w d : Nat} {on : Nat → Prop} {val : Nat → Nat → Nat} {f : Nat → Word}
    (buf : Option (SMap 64))
    (onto : ∀ l e, (t.executing mask h).getLsbD l = true → e < 64 / w → on e → getElem w e (f l) = val l e % 2 ^ w)
    (kept : ∀ l e, (t.executing mask h).getLsbD l = true → e < 64 / w → ¬on e → getElem w e (f l) = getElem w e (t.vreg d l)) :
    t.laneWrites (((t.afterPops srcs).writeLanes d (t.executing mask h) f).laneDone buf) (t.executing mask h) w d on val := by
  refine laneWrites_foldl buf (fun l => ?_) onto kept
  rw [lanes_afterPops]
  exact mem_maskLanes_executing

/-- Values count to the element's width. -/
theorem Team.laneWrites_congr {t t' : Team} {x : Mask} {w d : Nat} {on : Nat → Prop} {f g : Nat → Nat → Nat} (writes : t.laneWrites t' x w d on f)
    (agree : ∀ l e, x.getLsbD l = true → e < 64 / w → f l e % 2 ^ w = g l e % 2 ^ w) : t.laneWrites t' x w d on g := by
  obtain ⟨onto, rest⟩ := writes
  exact ⟨fun l e hl he hon => (onto l e hl he hon).trans (agree l e hl he), rest⟩

/-- Pops keep every lane register. -/
@[simp] theorem Team.vreg_afterPops (t : Team) (srcs : List Src) (v l : Nat) : (t.afterPops srcs).vreg v l = t.vreg v l := by
  obtain ⟨qu, tk, pops⟩ := t.afterPops_frame srcs
  rw [pops]
  rfl

/-- A function and another that agrees with it on elements of the type's width. -/
theorem laneComputes_of_agree {i : Instr} {h : LaneHead} {m : ModA} {n : Nat} {f g : Nat → Nat → Nat → Nat} (run : ∀ s, exec i s = laneA s h m n f)
    (agree : ∀ x y z, x < 2 ^ elemWidth h.ty → y < 2 ^ elemWidth h.ty → z < 2 ^ elemWidth h.ty → f x y z = g x y z) : laneComputes i h m n g :=
  laneComputes_of_laneA run fun x y z hx hy hz => congrArg (· % 2 ^ elemWidth h.ty) (agree x y z hx hy hz)

variable {s : State} {r : TeamRef} {c : Crew} {t : Team} {cl : Clause} {h : LaneHead}

/-- An instruction without sources writes its elements. -/
theorem laneGen_writes (at_ : s.laneAt r c t cl) (ready : t.laneReady cl [] [h.dst.toNat]) (sel : BitVec 5) {f g : Nat → Nat → Nat}
    (agree : ∀ l e, f l e % 2 ^ elemWidth h.ty = g l e % 2 ^ elemWidth h.ty) :
    ∃ t', laneGen s h sel f = .next (s.putTeam r t') ∧ t.laneWrites t' (t.executing cl.mask h) (elemWidth h.ty) h.dst.toNat (fun e => e ∈ elemSet (elemWidth h.ty) sel) g := by
  unfold laneGen
  exact ⟨_, laneFrame_ready at_ ready h _,
    Team.laneWrites_congr (laneWrites_mapElems [] (elemWidth h.ty) h.dst.toNat sel f none) fun l e _ _ => agree l e⟩

end LaneValues

section LaneBits

/-! ### Bits of elements (09 R196) -/

theorem notBits_of_lt {w x : Nat} (hx : x < 2 ^ w) : notBits w x = 2 ^ w - 1 - x := by rw [notBits, Nat.mod_eq_of_lt hx]

/-- A shift amount beyond the width empties the element, as the width itself does. -/
theorem div_two_pow_min {w x : Nat} (hx : x < 2 ^ w) (n : Nat) : x / 2 ^ min n w = x >>> n := by
  rw [Nat.shiftRight_eq_div_pow]
  rcases le_total n w with le | le
  · rw [min_eq_left le]
  · rw [min_eq_right le, Nat.div_eq_of_lt hx, Nat.div_eq_of_lt (hx.trans_le (Nat.pow_le_pow_right (by decide) le))]

theorem elemInt_lt (sg : Bool) {w x : Nat} (hx : x < 2 ^ w) : elemInt sg w x < 2 ^ w := by
  have : (x : Int) < 2 ^ w := by exact_mod_cast hx
  unfold elemInt
  split <;> omega

theorem neg_two_pow_le_elemInt (sg : Bool) (w x : Nat) : -2 ^ w ≤ elemInt sg w x := by
  have : (0 : Int) < 2 ^ w := by positivity
  unfold elemInt
  split <;> omega

/-- An arithmetic shift beyond the width leaves the sign alone, as the width itself does. -/
theorem ediv_two_pow_min {w : Nat} {i : Int} (lo : -2 ^ w ≤ i) (hi : i < 2 ^ w) (n : Nat) : i / ((2 ^ min n w : Nat) : Int) = i / 2 ^ n := by
  push_cast
  rcases le_total n w with le | le
  · rw [min_eq_left le]
  · have grows : (2 : Int) ^ w ≤ 2 ^ n := pow_le_pow_right₀ (by decide) le
    rw [min_eq_right le]
    rcases lt_or_ge i 0 with neg | pos
    · rw [Int.ediv_eq_neg_one_of_neg_of_le neg (by omega), Int.ediv_eq_neg_one_of_neg_of_le neg (by omega)]
    · rw [Int.ediv_eq_zero_of_lt pos hi, Int.ediv_eq_zero_of_lt pos (by omega)]

theorem sarBits_of_lt {w x : Nat} (hx : x < 2 ^ w) (n : Nat) : sarBits w x n = (elemInt true w x / 2 ^ n % 2 ^ w).toNat := by
  rw [sarBits, wrapBits, ediv_two_pow_min (neg_two_pow_le_elemInt true w x) (elemInt_lt true hx)]

theorem popCount_eq_countP (w x : Nat) : popCount w x = (List.range w).countP (fun i => x.testBit i) :=
  (foldl_count _ _ 0).trans (Nat.zero_add _)

/-- How many of 0 … w − 1 come before the first of which `p` fails. -/
theorem length_takeWhile_range {p : Nat → Bool} {k w : Nat} (hk : k < w) (below : ∀ i, i < k → p i = true) (fails : p k = false) :
    ((List.range w).takeWhile p).length = k := by
  obtain ⟨n, rfl⟩ := Nat.exists_eq_add_of_le hk
  rw [List.range_add, List.range_succ, List.append_assoc, List.takeWhile_append_of_pos (by simpa using below)]
  simp [fails]

theorem leadingZeros_eq_length_takeWhile {w x : Nat} (hx : x < 2 ^ w) :
    leadingZeros w x = ((List.range w).takeWhile (fun i => !x.testBit (w - 1 - i))).length := by
  unfold leadingZeros
  split
  · next zero =>
    rw [zero, List.takeWhile_eq_self_iff.2 (by simp), List.length_range]
  · next nonzero =>
    have top : x.log2 < w := (Nat.log2_lt nonzero).2 hx
    refine (length_takeWhile_range (by omega) (fun i hi => ?_) ?_).symm
    · have above : x < 2 ^ (w - 1 - i) := (Nat.log2_lt nonzero).1 (by omega)
      rw [Nat.testBit_lt_two_pow above, Bool.not_false]
    · rw [show w - 1 - (w - 1 - x.log2) = x.log2 by omega, Nat.testBit_log2 nonzero, Bool.not_true]

theorem movImm_mod (ty : BitVec 4) (imm : BitVec 32) :
    movImm ty imm % 2 ^ elemWidth ty = (if ty = 3#4 then (imm.signExtend 64).toNat else imm.toNat) % 2 ^ elemWidth ty := by
  unfold movImm
  split
  · rfl
  · exact Nat.mod_mod _ _

/-- The two dot products of IDOT4, element by element. -/
theorem getElem_idot4Word (sg sat : Bool) (x y z : Word) {e : Nat} (he : e < 2) :
    getElem 32 e (idot4Word sg sat x y z) = reduceInt sg sat 32 (elemInt sg 32 (getElem 32 e z) +
      elemInt sg 8 (getElem 8 (4 * e) x) * elemInt sg 8 (getElem 8 (4 * e) y) + elemInt sg 8 (getElem 8 (4 * e + 1) x) * elemInt sg 8 (getElem 8 (4 * e + 1) y) +
      elemInt sg 8 (getElem 8 (4 * e + 2) x) * elemInt sg 8 (getElem 8 (4 * e + 2) y) + elemInt sg 8 (getElem 8 (4 * e + 3) x) * elemInt sg 8 (getElem 8 (4 * e + 3) y)) := by
  unfold idot4Word
  generalize sums : (fun i => reduceInt sg sat 32 ((List.range 4).foldl
    (fun acc j => acc + elemInt sg 8 (getElem 8 (4 * i + j) x) * elemInt sg 8 (getElem 8 (4 * i + j) y)) (elemInt sg 32 (getElem 32 i z)))) = f
  have small (i : Nat) : f i < 2 ^ 32 := sums ▸ reduceInt_lt ..
  have low := small 0
  have high := small 1
  have half : getElem 32 e (BitVec.ofNat 64 (f 0 + 2 ^ 32 * f 1)) = f e := by
    obtain rfl | rfl : e = 0 ∨ e = 1 := by omega
    all_goals
      rw [getElem, BitVec.toNat_ofNat]
      omega
  exact half.trans (sums ▸ rfl)

variable (s : State) (h : LaneHead) (m : ModA)

theorem exec_inot : exec (.inot h m) s = laneA s h m 1 (fun x _ _ => notBits (elemWidth h.ty) x) := rfl
theorem exec_ishr : exec (.ishr h m) s = laneA s h m 2 (fun x y _ => x / 2 ^ min y (elemWidth h.ty)) := rfl
theorem exec_isar : exec (.isar h m) s = laneA s h m 2 (fun x y _ => sarBits (elemWidth h.ty) x y) := rfl
theorem exec_ipopc : exec (.ipopc h m) s = laneA s h m 1 (fun x _ _ => popCount (elemWidth h.ty) x) := rfl
theorem exec_iclz : exec (.iclz h m) s = laneA s h m 1 (fun x _ _ => leadingZeros (elemWidth h.ty) x) := rfl
theorem exec_isel : exec (.isel h m) s = laneA s h m 3 (fun x y z => if z = 0 then y else x) := rfl

end LaneBits

section LaneCompares

/-! ### Predicates written (03 R55; 09 R197) -/

theorem Team.pred_setPred {p q l : Nat} (t : Team) (on v : Mask) (hl : l < 1024) :
    (t.setPred p on v).pred q l = if q = p ∧ q ≠ 15 ∧ on.getLsbD l = true then v.getLsbD l else t.pred q l := by
  unfold Team.setPred
  split
  · next discarded => rw [if_neg (by omega)]
  · by_cases same : q = p
    · subst same
      rw [Team.pred, Team.pred, cellGet_cellSet, if_pos rfl, BitVec.getLsbD_or, BitVec.getLsbD_and, BitVec.getLsbD_and, BitVec.getLsbD_not]
      cases on.getLsbD l <;> simp_all
    · rw [Team.pred, Team.pred, cellGet_cellSet, if_neg same, if_neg (fun c => same c.1)]

/-- A write of a predicate changes the predicates alone. -/
theorem Team.setPred_frame (t : Team) (p : Nat) (on v : Mask) : ∃ ps, t.setPred p on v = { t with preds := ps } := by
  unfold Team.setPred
  split
  · exact ⟨t.preds, rfl⟩
  · exact ⟨_, rfl⟩

variable {i : Instr} {h : LaneHead} {m : ModA}

/-- A compare whose condition on two elements is `G` writes its predicate. -/
theorem laneCompares_of_laneCmp {g : Nat → Nat → Bool} {G : Nat → Nat → Prop} (run : ∀ s, exec i s = laneCmp s h m g) (agree : ∀ x y, g x y = true ↔ G x y) :
    laneCompares i h m G := by
  intro s r c t cl at_ ss w ready u
  refine ⟨_, (run s).trans (laneCompute_ready at_ ready h _), ?_⟩
  obtain ⟨qu, tk, pops⟩ := t.afterPops_frame (ss.take 2)
  have lanes : u.lanes = t.lanes := by rw [show u = _ from pops]
  have before (q l : Nat) : u.pred q l = t.pred q l := by rw [show u = _ from pops]; rfl
  have number : (field h.dst 3 0).toNat = h.dst.toNat % 16 := by simp [field]
  refine ⟨fun l hl nontrivial => ?_, fun q l other hl => ?_, ?_⟩
  · refine (Bool.eq_iff_iff.1 (Team.pred_setPred u _ _ (BitVec.lt_of_getLsbD hl))).trans ?_
    rw [if_pos ⟨number.symm, nontrivial, hl⟩, getLsbD_maskOf, lanes]
    simp only [BitVec.lt_of_getLsbD hl, Team.lt_lanes_of_executing hl, true_and, List.all_eq_true, agree]
    simp [elemSet, w]
    rfl
  · refine (Team.pred_setPred u _ _ hl).trans ((if_neg ?_).trans (before q l))
    rw [number]
    rintro ⟨hq, hp, on⟩
    rcases other with ne | off | pt
    · exact ne hq
    · exact absurd (on.symm.trans off) (by decide)
    · exact hp pt
  · obtain ⟨ps, written⟩ := u.setPred_frame (field h.dst 3 0).toNat (t.executing cl.mask h)
      (maskOf u.lanes (fun l => (elemSet w 0#5).all (fun i => g (u.elem u.popped ss 0 w m.s0sel i l) (u.elem u.popped ss 1 w m.s1sel i l))))
    rw [show t.afterPops (ss.take 2) = u from rfl, written, show u = _ from pops]
    exact ⟨rfl, fun _ hk => hk, rfl⟩

/-- An integer compare writes its predicate. -/
theorem laneCompares_of_intCmp {g : Int → Int → Bool} {G : Int → Int → Prop} (run : ∀ s, exec i s = intCmp s h m g) (agree : ∀ x y, g x y = true ↔ G x y) :
    laneCompares i h m (fun x y => G (laneInt h x) (laneInt h y)) :=
  laneCompares_of_laneCmp (g := fun x y => g (laneInt h x) (laneInt h y)) run fun _ _ => agree _ _

/-- A floating-point compare writes its predicate. -/
theorem laneCompares_of_floatCmp {g : Bool → Bool → Bool → Bool} {G : FVal → FVal → Prop} (run : ∀ s, exec i s = floatCmp s h m g)
    (agree : ∀ x y, g (isNanV x || isNanV y) (ltV x y) (eqV x y) = true ↔ G x y) :
    laneCompares i h m (fun x y => G (decodeF (fmtOf h.ty) x) (decodeF (fmtOf h.ty) y)) :=
  laneCompares_of_laneCmp (g := fun x y => g (isNanV (decodeF (fmtOf h.ty) x) || isNanV (decodeF (fmtOf h.ty) y)) (ltV (decodeF (fmtOf h.ty) x) (decodeF (fmtOf h.ty) y))
    (eqV (decodeF (fmtOf h.ty) x) (decodeF (fmtOf h.ty) y))) run fun _ _ => agree _ _

theorem isNanV_iff {x : FVal} : isNanV x = true ↔ x = .nan := by cases x <;> simp [isNanV]

theorem isNanV_or {x y : FVal} : (isNanV x || isNanV y) = true ↔ x = .nan ∨ y = .nan := by
  rw [Bool.or_eq_true, isNanV_iff, isNanV_iff]

theorem ltV_not_nan {x y : FVal} (lt : ltV x y = true) : x ≠ .nan ∧ y ≠ .nan := by
  constructor <;> rintro rfl
  · cases lt
  · cases x <;> cases lt

theorem eqV_not_nan {x y : FVal} (eq : eqV x y = true) : x ≠ .nan ∧ y ≠ .nan := by
  constructor <;> rintro rfl
  · cases eq
  · cases x <;> cases eq

theorem ltV_fin (a b : Bool) (n d k e : Nat) :
    ltV (.fin a n d) (.fin b k e) = true ↔ (if a then -1 else 1 : Int) * n * e < (if b then -1 else 1 : Int) * k * d := by
  rw [ltV, decide_eq_true_eq]
  push_cast
  rw [mul_assoc, mul_assoc]

end LaneCompares
end Sys2Proof.Machine

namespace Sys2Proof.Machine

section LaneBitInstructions

variable {s : State} {r : TeamRef} {c : Crew} {t : Team} {cl : Clause} (h : LaneHead) (m : ModA)

/-- IDOT4 writes both halves of its register. -/
theorem idot4_writes (at_ : s.laneAt r c t cl) (ready : t.laneReady cl (srcs3 h m) [h.dst.toNat]) :
    let u := t.afterPops (srcs3 h m)
    let src (k l : Nat) : Word := u.src u.popped ((srcs3 h m).getD k .zero) l
    ∃ t', exec (.idot4 h m) s = .next (s.putTeam r t') ∧ t.laneWrites t' (t.executing cl.mask h) 32 h.dst.toNat (fun _ => True)
      (fun l e => getElem 32 e (idot4Word (isSignedTy h.ty) h.md (src 0 l) (src 1 l) (src 2 l))) := by
  intro u src
  have run : exec (.idot4 h m) s = execIdot4 h m s := rfl
  rw [run]
  unfold execIdot4
  exact ⟨_, laneCompute_ready at_ ready h _, laneWrites_writeLanes (f := fun l => idot4Word (isSignedTy h.ty) h.md (src 0 l) (src 1 l) (src 2 l)) _
    (fun l e _ _ _ => (Nat.mod_eq_of_lt (getElem_lt ..)).symm) fun _ _ _ _ off => absurd trivial off⟩

/-- LNOP makes its passes. -/
theorem exec_lnop (at_ : s.laneAt r c t cl) : exec .lnop s = .next (s.putTeam r (t.laneDone none)) := by
  obtain ⟨acts, head, started, idle, more⟩ := at_
  obtain ⟨rest, queue⟩ := List.head?_eq_some_iff.1 head
  refine (withTeam_acts acts _).trans (congrArg Host.Outcome.next ?_)
  simp [queue, started, idle, more]

/-- The compares of integers. -/
theorem laneIntegerCompares :
    laneCompares (.icmpEq h m) h m (fun x y => laneInt h x = laneInt h y) ∧ laneCompares (.icmpNe h m) h m (fun x y => laneInt h x ≠ laneInt h y) ∧
    laneCompares (.icmpLt h m) h m (fun x y => laneInt h x < laneInt h y) ∧ laneCompares (.icmpLe h m) h m (fun x y => laneInt h x ≤ laneInt h y) ∧
    laneCompares (.icmpGt h m) h m (fun x y => laneInt h y < laneInt h x) ∧ laneCompares (.icmpGe h m) h m (fun x y => laneInt h y ≤ laneInt h x) :=
  ⟨laneCompares_of_intCmp (g := fun x y => decide (x = y)) (G := fun x y => x = y) (fun _ => rfl) fun _ _ => decide_eq_true_iff,
    laneCompares_of_intCmp (g := fun x y => decide (x ≠ y)) (G := fun x y => x ≠ y) (fun _ => rfl) fun _ _ => decide_eq_true_iff,
    laneCompares_of_intCmp (g := fun x y => decide (x < y)) (G := fun x y => x < y) (fun _ => rfl) fun _ _ => decide_eq_true_iff,
    laneCompares_of_intCmp (g := fun x y => decide (x ≤ y)) (G := fun x y => x ≤ y) (fun _ => rfl) fun _ _ => decide_eq_true_iff,
    laneCompares_of_intCmp (g := fun x y => decide (x > y)) (G := fun x y => y < x) (fun _ => rfl) fun _ _ => decide_eq_true_iff,
    laneCompares_of_intCmp (g := fun x y => decide (x ≥ y)) (G := fun x y => y ≤ x) (fun _ => rfl) fun _ _ => decide_eq_true_iff⟩

/-- The compares of floating-point values: a NaN is neither less nor equal. -/
theorem laneFloatCompares :
    let V (x : Nat) : FVal := decodeF (fmtOf h.ty) x
    let nan (x y : Nat) : Prop := V x = .nan ∨ V y = .nan
    laneCompares (.fcmpEq h m) h m (fun x y => ¬nan x y ∧ eqV (V x) (V y) = true) ∧ laneCompares (.fcmpNe h m) h m (fun x y => nan x y ∨ eqV (V x) (V y) = false) ∧
    laneCompares (.fcmpLt h m) h m (fun x y => ltV (V x) (V y) = true) ∧ laneCompares (.fcmpLe h m) h m (fun x y => ltV (V x) (V y) = true ∨ eqV (V x) (V y) = true) ∧
    laneCompares (.fcmpGt h m) h m (fun x y => ¬nan x y ∧ ltV (V x) (V y) = false ∧ eqV (V x) (V y) = false) ∧
    laneCompares (.fcmpGe h m) h m (fun x y => ¬nan x y ∧ ltV (V x) (V y) = false) ∧ laneCompares (.fcmpUn h m) h m nan := by
  intro V nan
  refine ⟨laneCompares_of_floatCmp (g := fun nan _ eq => !nan && eq) (G := fun x y => ¬(x = .nan ∨ y = .nan) ∧ eqV x y = true) (fun _ => rfl) fun x y => ?_,
    laneCompares_of_floatCmp (g := fun nan _ eq => nan || !eq) (G := fun x y => (x = .nan ∨ y = .nan) ∨ eqV x y = false) (fun _ => rfl) fun x y => ?_,
    laneCompares_of_floatCmp (g := fun nan lt _ => !nan && lt) (G := fun x y => ltV x y = true) (fun _ => rfl) fun x y => ?_,
    laneCompares_of_floatCmp (g := fun nan lt eq => !nan && (lt || eq)) (G := fun x y => ltV x y = true ∨ eqV x y = true) (fun _ => rfl) fun x y => ?_,
    laneCompares_of_floatCmp (g := fun nan lt eq => !nan && !lt && !eq) (G := fun x y => ¬(x = .nan ∨ y = .nan) ∧ ltV x y = false ∧ eqV x y = false) (fun _ => rfl) fun x y => ?_,
    laneCompares_of_floatCmp (g := fun nan lt _ => !nan && !lt) (G := fun x y => ¬(x = .nan ∨ y = .nan) ∧ ltV x y = false) (fun _ => rfl) fun x y => ?_,
    laneCompares_of_floatCmp (g := fun nan _ _ => nan) (G := fun x y => x = .nan ∨ y = .nan) (fun _ => rfl) fun x y => isNanV_or⟩
  · rw [Bool.and_eq_true, Bool.not_eq_true', ← Bool.not_eq_true, isNanV_or]
  · rw [Bool.or_eq_true, Bool.not_eq_true', isNanV_or]
  · rw [Bool.and_eq_true, Bool.not_eq_true', ← Bool.not_eq_true, isNanV_or]
    exact and_iff_right_of_imp fun lt => not_or.2 (ltV_not_nan lt)
  · rw [Bool.and_eq_true, Bool.or_eq_true, Bool.not_eq_true', ← Bool.not_eq_true, isNanV_or]
    exact and_iff_right_of_imp fun le => not_or.2 (le.elim ltV_not_nan eqV_not_nan)
  · rw [Bool.and_eq_true, Bool.and_eq_true, Bool.not_eq_true', Bool.not_eq_true', Bool.not_eq_true', and_assoc, ← Bool.not_eq_true (_ || _), isNanV_or]
  · rw [Bool.and_eq_true, Bool.not_eq_true', Bool.not_eq_true', ← Bool.not_eq_true (_ || _), isNanV_or]

end LaneBitInstructions

/-- Settles O32: bit operations, moves and lane numbers are elementwise on the popped operands; IDOT4 writes whole registers; a compare holds
where its condition on values does. -/
theorem laneBitsAndComparisons : Obligations.LaneBitsAndComparisons := by
  refine ⟨fun h m imm => ?_, fun h m => ?_, fun a b n d k e _ _ => ⟨ltV_fin a b n d k e, rfl, rfl, by cases a <;> rfl, rfl⟩⟩
  · intro w
    refine ⟨fun _ => ⟨laneComputes_of_laneA_eq fun _ => rfl, fun s r c t cl at_ ready => ?_⟩, fun _ => ⟨laneComputes_of_laneA_eq fun _ => rfl,
      laneComputes_of_laneA_eq fun _ => rfl, laneComputes_of_laneA_eq fun _ => rfl,
      laneComputes_of_agree (fun s => exec_inot s h m) fun _ _ _ hx _ _ => notBits_of_lt hx,
      laneComputes_of_agree (fun s => exec_ishr s h m) fun _ y _ hx _ _ => div_two_pow_min hx y,
      laneComputes_of_agree (fun s => exec_isar s h m) fun _ y _ hx _ _ => sarBits_of_lt hx y,
      laneComputes_of_agree (fun s => exec_ipopc s h m) fun x _ _ _ _ _ => popCount_eq_countP w x,
      laneComputes_of_agree (fun s => exec_iclz s h m) fun _ _ _ hx _ _ => leadingZeros_eq_length_takeWhile hx,
      laneComputes_of_agree (fun s => exec_isel s h m) fun _ _ _ _ _ _ => (ite_not ..).symm,
      fun s r c t cl at_ ready => ?_, fun s r c t cl at_ => exec_lnop at_, fun s r c t cl at_ ready => ?_⟩⟩
    · exact laneGen_writes at_ ready _ fun _ _ => movImm_mod h.ty imm
    · exact laneGen_writes at_ ready _ fun _ _ => Nat.mod_mod _ _
    · obtain ⟨t', run, writes⟩ := idot4_writes h m at_ ready
      exact ⟨t', run, Team.laneWrites_congr writes fun l e _ he => congrArg (· % 2 ^ 32) (getElem_idot4Word _ _ _ _ _ he)⟩
  · intro I V nan
    obtain ⟨eq, ne, lt, le, gt, ge⟩ := laneIntegerCompares h m
    exact ⟨eq, ne, lt, le, gt, ge, laneFloatCompares h m⟩

end Sys2Proof.Machine

namespace Sys2Proof.Machine

section LaneFields

/-! ### Bit fields of elements (09 R195) -/

theorem elemWidth_half : ∀ ty : BitVec 4, elemWidth ty / 2 + elemWidth ty / 2 = elemWidth ty := by decide

/-- The length is the descriptor's whole high half. -/
theorem bfLen_of_lt {w f : Nat} (even : w / 2 + w / 2 = w) (hf : f < 2 ^ w) : bfLen w f = min (f / 2 ^ (w / 2)) (w - bfPos w f) := by
  have high : f / 2 ^ (w / 2) < 2 ^ (w / 2) := Nat.div_lt_of_lt_mul (by rwa [← pow_add, even])
  rw [bfLen, Nat.mod_eq_of_lt high]

/-- An empty field is zero and has no sign. -/
theorem bitExtract_eq (sg : Bool) (w x f : Nat) :
    bitExtract sg w x f = if sg = true ∧ 0 < bfLen w f ∧ (x / 2 ^ bfPos w f % 2 ^ bfLen w f).testBit (bfLen w f - 1) = true then
      x / 2 ^ bfPos w f % 2 ^ bfLen w f + (2 ^ w - 2 ^ bfLen w f) else x / 2 ^ bfPos w f % 2 ^ bfLen w f := by
  unfold bitExtract
  by_cases empty : bfLen w f = 0
  · simp [empty, Nat.mod_one]
  · simp [empty, Nat.pos_of_ne_zero empty]

/-- Replacing n bits from bit p keeps the bits above and below. -/
theorem replace_field (x v p n : Nat) :
    x - x / 2 ^ p % 2 ^ n * 2 ^ p + v % 2 ^ n * 2 ^ p = x / 2 ^ (p + n) * 2 ^ (p + n) + v % 2 ^ n * 2 ^ p + x % 2 ^ p := by
  have parts : x = x / 2 ^ (p + n) * 2 ^ (p + n) + x / 2 ^ p % 2 ^ n * 2 ^ p + x % 2 ^ p := by
    calc x = (x / 2 ^ p) * 2 ^ p + x % 2 ^ p := (Nat.div_add_mod' x (2 ^ p)).symm
      _ = (x / 2 ^ p / 2 ^ n * 2 ^ n + x / 2 ^ p % 2 ^ n) * 2 ^ p + x % 2 ^ p := by rw [Nat.div_add_mod' (x / 2 ^ p)]
      _ = _ := by rw [Nat.div_div_eq_div_mul, ← pow_add]; ring
  omega

variable (s : State) (h : LaneHead) (m : ModA)

theorem exec_ibfx : exec (.ibfx h m) s = laneA s h m 2 (fun x f _ => bitExtract (isSignedTy h.ty) (elemWidth h.ty) x f) := rfl
theorem exec_ibfi : exec (.ibfi h m) s = laneA s h m 3 (fun x v f => bitInsert (elemWidth h.ty) x v f) := rfl

end LaneFields

/-- Settles O33: a descriptor element has no bits beyond its two halves, so the length is the high half whole. -/
theorem laneFieldInstructions : Obligations.LaneFieldInstructions := by
  intro h m _ w pos len
  have length {f : Nat} (hf : f < 2 ^ w) : bfLen w f = len f := bfLen_of_lt (elemWidth_half h.ty) hf
  refine ⟨laneComputes_of_agree (fun s => exec_ibfx s h m) fun x f _ _ hf _ => ?_, laneComputes_of_agree (fun s => exec_ibfi s h m) fun x v f _ _ hf => ?_⟩
  · rw [bitExtract_eq, length hf]
    rfl
  · rw [bitInsert, length hf]
    exact replace_field x v (pos f) (len f)

end Sys2Proof.Machine

namespace Sys2Proof.Machine

section LaneConvertInstructions

/-! ### Elements placed by number (09 R203 to R205) -/

/-- Element e read after a list of numbered elements is written, whose values are a function of their numbers. -/
theorem getElem_numbered {w e : Nat} (he : e < 64 / w) {f : Nat → Nat} (old : Word) {l : List (Nat × Nat)} (values : ∀ p, p ∈ l → p.2 = f p.1) :
    getElem w e (putElems w old l) = if e ∈ l.map (·.1) then f e % 2 ^ w else getElem w e old := by
  have byNumber : putElems w old l = (l.map (·.1)).foldl (fun acc i => putElem w i acc (f i)) old := by
    rw [putElems, List.foldl_map]
    exact List.foldl_ext _ _ _ fun acc p hp => by rw [values p hp]
  rw [byNumber, getElem_putElems ((Nat.mul_le_mul_left w he).trans (Nat.mul_div_le 64 w))]

variable {i : Instr} {h : LaneHead} {m : ModC} {n : Nat}

/-- A conversion that places the elements `pairs` lists, each the value of its own number and mode. -/
theorem laneConverts_of_laneC {pairs : (Nat → Word) → (Nat → RMode) → List (Nat × Nat)} {on : Nat → Prop} {val : (Nat → Word) → RMode → Nat → Nat}
    (run : ∀ s, exec i s = laneC s h m n (fun old src mode => putElems (elemWidth h.ty) old (pairs src mode)))
    (values : ∀ src mode p, p ∈ pairs src mode → p.2 = val src (mode p.1) p.1)
    (places : ∀ src mode e, e < 64 / elemWidth h.ty → (e ∈ (pairs src mode).map (·.1) ↔ on e)) : laneConverts i h m n on val := by
  intro s r c t cl at_ ss ready u src
  have placed (l e : Nat) (he : e < 64 / elemWidth h.ty) := getElem_numbered (w := elemWidth h.ty) he (u.vreg h.dst.toNat l)
    (f := fun k => val (src l) (convMode m.rm (src l 1) cl.step l k) k) (values (src l) (convMode m.rm (src l 1) cl.step l))
  refine ⟨_, (run s).trans (laneCompute_ready at_ ready h _), laneWrites_writeLanes _ (fun l e _ he hon => ?_) fun l e _ he hoff => ?_⟩
  · exact (placed l e he).trans (if_pos ((places _ _ e he).2 hon))
  · exact ((placed l e he).trans (if_neg fun named => hoff ((places _ _ e he).1 named))).trans (by rw [Team.vreg_afterPops])

/-- What one conversion instruction does to an element of a source register. -/
def convertedElem (h : LaneHead) (m : ModC) (md : RMode) (v : Word) (j : Nat) : Nat := convertElem h.ty m.sty md h.md (getElem (elemWidth m.sty) j v)

/-- The number of a conversion's sources before its second register: the key of RSX is one (09 R206). -/
def convertSources (m : ModC) : Nat := if m.rm = 4#3 then 2 else 1

variable (h m) (s : State)

theorem exec_cvt_whole (whole : m.s0sel = 0#5) : exec (.cvt h m) s = laneC s h m (convertSources m) fun old src mode =>
    putElems (elemWidth h.ty) old ((List.range (min (64 / elemWidth m.sty) (64 / elemWidth h.ty))).map fun j => (j, convertedElem h m (mode j) (src 0) j)) := by
  refine (show exec (.cvt h m) s = execCvt h m s from rfl).trans ?_
  simp only [execCvt, if_pos whole]
  rfl

theorem exec_cvt_element (named : m.s0sel ≠ 0#5) : exec (.cvt h m) s = laneC s h m (convertSources m) fun old src mode =>
    putElems (elemWidth h.ty) old [(selIndex m.dsel, convertedElem h m (mode (selIndex m.dsel)) (src 0) (selIndex m.s0sel))] := by
  refine (show exec (.cvt h m) s = execCvt h m s from rfl).trans ?_
  simp only [execCvt, if_neg named]
  rfl

theorem exec_pack : exec (.pack h m) s = laneC s h m (convertSources m + 1) fun old src mode =>
    putElems (elemWidth h.ty) old
      ((List.range (64 / elemWidth m.sty)).map (fun j => (selIndex m.dsel + j, convertedElem h m (mode (selIndex m.dsel + j)) (src 0) j)) ++
        (List.range (64 / elemWidth m.sty)).map (fun j => (selIndex m.dsel + 64 / elemWidth m.sty + j,
          convertedElem h m (mode (selIndex m.dsel + 64 / elemWidth m.sty + j)) (src (convertSources m)) j))) := rfl

theorem exec_unpk : exec (.unpk h m) s = laneC s h m (convertSources m) fun old src mode =>
    putElems (elemWidth h.ty) old ((List.range (64 / elemWidth h.ty)).map fun j => (j, convertedElem h m (mode j) (src 0) (selIndex m.s0sel + j))) := rfl

end LaneConvertInstructions

/-- Settles O35: every form places numbered elements; PACK's two runs of them do not meet. -/
theorem laneConversions : Obligations.LaneConversions := by
  intro h m ws conv n
  refine ⟨fun whole => laneConverts_of_laneC (fun s => exec_cvt_whole h m s whole) (fun src mode p hp => ?_) fun src mode e he => ?_,
    fun named => laneConverts_of_laneC (fun s => exec_cvt_element h m s named) (fun src mode p hp => ?_) fun src mode e he => ?_,
    fun _ => laneConverts_of_laneC (fun s => exec_pack h m s) (fun src mode p hp => ?_) fun src mode e he => ?_,
    laneConverts_of_laneC (fun s => exec_unpk h m s) (fun src mode p hp => ?_) fun src mode e he => ?_⟩
  · obtain ⟨j, -, rfl⟩ := List.mem_map.1 hp
    rfl
  · simp [he, ws]
  · rw [List.mem_singleton.1 hp]
    rfl
  · simp
  · simp only [ws]
    rcases List.mem_append.1 hp with first | second
    · obtain ⟨j, hj, rfl⟩ := List.mem_map.1 first
      rw [if_pos (Nat.add_lt_add_left (List.mem_range.1 hj) _), Nat.add_sub_cancel_left]
      rfl
    · obtain ⟨j, -, rfl⟩ := List.mem_map.1 second
      rw [if_neg (by omega), Nat.add_assoc, Nat.add_sub_cancel_left, Nat.add_sub_cancel_left]
      rfl
  · simp only [ws, List.map_append, List.map_map, List.mem_append, List.mem_map, List.mem_range, Function.comp]
    constructor
    · rintro (⟨j, hj, rfl⟩ | ⟨j, hj, rfl⟩) <;> omega
    · rintro ⟨lo, hi⟩
      by_cases below : e < selIndex m.dsel + 64 / elemWidth m.sty
      · exact .inl ⟨e - selIndex m.dsel, by omega, by omega⟩
      · exact .inr ⟨e - selIndex m.dsel - 64 / elemWidth m.sty, by omega, by omega⟩
  · obtain ⟨j, -, rfl⟩ := List.mem_map.1 hp
    rfl
  · simp [he]

end Sys2Proof.Machine

namespace Sys2Proof.Machine

section LaneReads

/-! ### Instructions whose lanes read other lanes (09 R208 to R217; 18 R352) -/

/-- No executing lane meets a register in error, whichever lanes of the team it reads. -/
theorem Team.errLanes_eq_zero_of_reads {t : Team} {srcs : List Src} (clean : ∀ v, v ∈ srcs.filterMap Src.isReg → ∀ l, l < 1024 → v * 1024 + l ∉ t.laneErr)
    {x : Mask} {reads : Nat → Nat → List Nat} (small : ∀ k l, x.getLsbD l = true → ∀ j, j ∈ reads k l → j < 1024) : t.errLanes srcs x reads = 0#1024 := by
  unfold Team.errLanes
  split
  · rfl
  refine maskOf_eq_zero fun l _ _ => Bool.and_eq_false_imp.2 fun on => List.any_eq_false.2 fun p hp => ?_
  obtain ⟨src, k⟩ := p
  cases src with
  | reg v =>
    have named : v ∈ srcs.filterMap Src.isReg := List.mem_filterMap.2 ⟨.reg v, List.mem_of_getElem? (List.mem_zipIdx_iff_getElem?.1 hp), rfl⟩
    simpa using fun j hj => clean v named j (small k l on j hj)
  | zero | buf | queue q => simp

variable {s : State} {r : TeamRef} {c : Crew} {t : Team} {cl : Clause} (at_ : s.laneAt r c t cl) {srcs : List Src} {regs : List Nat}
  (ready : t.laneReady cl srcs regs) (h : LaneHead)
include at_ ready

/-- A computing instruction whose lanes read lanes below 1,024 completes in every executing lane. -/
theorem laneCompute_ready_of_reads {reads : Team → Mask → Nat → Nat → List Nat} (eff : TeamRef → Crew → Team → Clause → Mask → State)
    (small : ∀ k l, (t.executing cl.mask h).getLsbD l = true → ∀ j, j ∈ reads (t.afterPops srcs) (t.executing cl.mask h) k l → j < 1024) :
    laneCompute s h srcs regs reads eff = .next (eff r c (t.afterPops srcs) cl (t.executing cl.mask h)) := by
  refine (laneFrame_ready at_ ready h _).trans ?_
  obtain ⟨-, -, -, -, clean⟩ := ready
  obtain ⟨qu, tk, pops⟩ := t.afterPops_frame srcs
  have none : (t.afterPops srcs).errLanes srcs (t.executing cl.mask h) (reads (t.afterPops srcs) (t.executing cl.mask h)) = 0#1024 :=
    Team.errLanes_eq_zero_of_reads (by rw [pops]; exact clean) small
  rw [if_pos none]
end LaneReads

section LaneGroups

/-! ### Bands and blocks of lanes (02 R27; 09 R208) -/

/-- The lanes that execute are lanes of the clause mask. -/
theorem Team.mask_of_executing {t : Team} {mask : Mask} {h : LaneHead} {l : Nat} (hl : (t.executing mask h).getLsbD l = true) : mask.getLsbD l = true := by
  have guarded : (maskOf t.lanes (fun l => mask.getLsbD l && (t.pred h.guard.toNat l != h.neg))).getLsbD l = true := by
    unfold Team.executing at hl
    split at hl
    · rw [BitVec.getLsbD_and, Bool.and_eq_true] at hl
      exact hl.1
    · exact hl
  obtain ⟨-, -, both⟩ := getLsbD_maskOf.1 guarded
  exact (Bool.and_eq_true_iff.1 both).1

theorem bandWord_ne_zero {m : Mask} {l : Nat} (hl : m.getLsbD l = true) : bandWord m (l / 32) ≠ 0#32 := by
  intro none
  have bit : (bandWord m (l / 32)).getLsbD (l % 32) = true := by
    rw [bandWord, BitVec.getLsbD_extractLsb', Nat.div_add_mod, hl, decide_eq_true (Nat.mod_lt l (by decide)), Bool.and_true]
  rw [none, BitVec.getLsbD_zero] at bit
  exact absurd bit (by decide)

theorem mem_passBands {m : Mask} {lanes b : Nat} : b ∈ passBands m lanes ↔ b < lanes / 32 ∧ bandWord m b ≠ 0#32 := by simp [passBands]

/-- Writes of a register by groups of lanes are writes of the lanes of all the groups, where a value depends on its lane alone. -/
theorem setVregs_grouped {α β : Type} {d : Nat} {groups : List α} {members : α → List β} {lane : α → β → Nat} {word : α → β → Word} {f : Nat → Word}
    (values : ∀ a, a ∈ groups → ∀ b, b ∈ members a → word a b = f (lane a b)) (t : Team) :
    groups.foldl (fun u a => (members a).foldl (fun u b => u.setVreg d (lane a b) (word a b)) u) t =
      (groups.flatMap fun a => (members a).map (lane a)).foldl (fun u l => u.setVreg d l (f l)) t := by
  rw [List.foldl_flatMap]
  refine List.foldl_ext _ _ _ fun u a ha => ?_
  rw [List.foldl_map]
  exact List.foldl_ext _ _ _ fun u b hb => by rw [values a ha b hb]

theorem length_quantBlock (p : Nat) (v : List FVal) : (quantBlock p v).length = p + 1 := by simp [quantBlock]

theorem mem_zipIdx_getD {α : Type} {l : List α} {q : α × Nat} (d : α) (hq : q ∈ l.zipIdx) : q.2 < l.length ∧ q.1 = l.getD q.2 d := by
  have at_ := List.mem_zipIdx_iff_getElem?.1 hq
  exact ⟨(List.getElem?_eq_some_iff.1 at_).1, by rw [List.getD_eq_getElem?_getD, at_]; rfl⟩

end LaneGroups
end Sys2Proof.Machine

namespace Sys2Proof.Machine

section BlockPlanes

/-! ### QBP and DQBP (09 R208, R209) -/

/-- The values that QBP quantises of a block: zero stands for a lane that does not execute. -/
def blockVals (ty : BitVec 4) (e : Nat) (x : Mask) (src : Nat → Word) (b : Nat) : List FVal :=
  (List.range 32).map fun j => if x.getLsbD (b * 32 + j) then decodeF (fmtOf ty) (getElem (elemWidth ty) e (src (b * 32 + j))) else .fin false 0 1

/-- The lanes that QBP writes: the first p + 1 of each block with a pass. -/
def planeLanes (p : Nat) (mask : Mask) (lanes : Nat) : List Nat := (passBands mask lanes).flatMap fun b => (List.range (p + 1)).map fun i => 32 * b + i

theorem mem_planeLanes {p lanes l : Nat} {mask : Mask} (hp : p < 32) (whole : lanes % 32 = 0) :
    l ∈ planeLanes p mask lanes ↔ l < lanes ∧ bandWord mask (l / 32) ≠ 0#32 ∧ l % 32 ≤ p := by
  simp only [planeLanes, List.mem_flatMap, mem_passBands, List.mem_map, List.mem_range]
  constructor
  · rintro ⟨b, ⟨hb, on⟩, i, hi, rfl⟩
    have block : (32 * b + i) / 32 = b := by omega
    exact ⟨by omega, by rwa [block], by omega⟩
  · rintro ⟨hl, on, hi⟩
    exact ⟨l / 32, ⟨by omega, on⟩, l % 32, by omega, by omega⟩

variable {s : State} {r : TeamRef} {c : Crew} {t : Team} {cl : Clause} (at_ : s.laneAt r c t cl) (h : LaneHead) (m : ModP)
include at_

/-- QBP writes the words of each block in the first lanes of the block, each in its half of the register. -/
theorem exec_qbp_ready (ready : t.laneReady cl [srcOf h.s0 h.z0 h.b0 m.q0] [h.dst.toNat]) :
    let s0 := srcOf h.s0 h.z0 h.b0 m.q0
    let u := t.afterPops [s0]
    let words (b : Nat) := quantBlock m.p.toNat (blockVals h.ty (selIndex m.s0sel) (t.executing cl.mask h) (u.src u.popped s0) b)
    exec (.qbp h m) s = .next (s.putTeam r (((planeLanes m.p.toNat cl.mask t.lanes).foldl (fun u l =>
      u.setVreg h.dst.toNat l (putElem 32 (selIndex m.dsel) (t.vreg h.dst.toNat l) ((words (l / 32)).getD (l % 32) 0))) u).laneDone
        (u.retained u.popped (retainSrc h.retain s0 .zero .zero)))) := by
  intro s0 u words
  have small : ∀ k l, (t.executing cl.mask h).getLsbD l = true → ∀ j, j ∈ execBlock u (t.executing cl.mask h) k l → j < 1024 :=
    fun k l _ j hj => BitVec.lt_of_getLsbD (List.mem_filter.1 hj).2
  have short : m.p.toNat < 32 := m.p.isLt
  have places (b : Nat) : (words b).zipIdx.map (fun q => 32 * b + q.2) = (List.range (m.p.toNat + 1)).map fun i => 32 * b + i := by
    have numbers : (words b).zipIdx.map Prod.snd = List.range (m.p.toNat + 1) := by
      rw [List.zipIdx_map_snd, length_quantBlock, List.range_eq_range']
    rw [← numbers, List.map_map]
    rfl
  refine (show exec (.qbp h m) s = execQbp h m s from rfl).trans ((laneCompute_ready_of_reads at_ ready h _ small).trans ?_)
  refine congrArg (fun v : Team => Host.Outcome.next (s.putTeam r (v.laneDone _))) ?_
  rw [planeLanes]
  simp only [← places]
  refine (setVregs_grouped (f := fun l => putElem 32 (selIndex m.dsel) (t.vreg h.dst.toNat l) ((words (l / 32)).getD (l % 32) 0)) (fun b _ q hq => ?_) u).trans ?_
  · obtain ⟨hi, value⟩ := mem_zipIdx_getD 0 hq
    rw [length_quantBlock] at hi
    rw [value, Team.vreg_afterPops, show (32 * b + q.2) / 32 = b by omega, show (32 * b + q.2) % 32 = q.2 by omega]
    simp only [words, blockVals, Nat.mul_comm b 32]
    rfl
  · rw [lanes_afterPops]
    simp only [words, blockVals, Nat.mul_comm _ 32]
    rfl

/-- DQBP writes, in each executing lane, the product of its element of the block and the block's scale. -/
theorem dqbp_writes (ready : t.laneReady cl [srcOf h.s0 h.z0 h.b0 m.q0] [h.dst.toNat]) :
    let s0 := srcOf h.s0 h.z0 h.b0 m.q0
    let u := t.afterPops [s0]
    ∃ t', exec (.dqbp h m) s = .next (s.putTeam r t') ∧ t.laneWrites t' (t.executing cl.mask h) (elemWidth h.ty) h.dst.toNat (fun e => e = selIndex m.dsel) (fun l _ =>
      let word (i : Nat) := getElem 32 (selIndex m.s0sel) (u.src u.popped s0 (l / 32 * 32 + i))
      encodeF (fmtOf h.ty) .rne false (mulV (intV (blockElem m.p.toNat word (l % 32))) (decodeF f32 (word m.p.toNat)))) := by
  intro s0 u
  have small : ∀ k l, (t.executing cl.mask h).getLsbD l = true → ∀ j, j ∈ (blockLanes u (t.executing cl.mask h) k l).take (m.p.toNat + 1) → j < 1024 := by
    intro k l hl j hj
    obtain ⟨i, hi, rfl⟩ := List.mem_map.1 (List.mem_of_mem_take hj)
    have := BitVec.lt_of_getLsbD hl
    have := List.mem_range.1 hi
    omega
  have place {e : Nat} (he : e < 64 / elemWidth h.ty) : elemWidth h.ty * (e + 1) ≤ 64 := (Nat.mul_le_mul_left _ he).trans (Nat.mul_div_le 64 _)
  refine ⟨_, (show exec (.dqbp h m) s = execDqbp h m s from rfl).trans (laneCompute_ready_of_reads at_ ready h _ small),
    laneWrites_writeLanes _ (fun l e _ he hon => ?_) fun l e _ he hoff => ?_⟩
  · exact (getElem_putElem (place he) _ _ _).trans (if_pos hon)
  · exact ((getElem_putElem (place he) _ _ _).trans (if_neg hoff)).trans (by rw [Team.vreg_afterPops])

end BlockPlanes
end Sys2Proof.Machine

namespace Sys2Proof.Machine

section ElementWrites

/-! ### Elements written one at a time (09 R190) -/

/-- One element of register `d` written: its lane, its number, its value. -/
def Team.putLaneElem (w d : Nat) (t : Team) (p : Nat × Nat × Nat) : Team := t.setVreg d p.1 (putElem w p.2.1 (t.vreg d p.1) p.2.2)

theorem Team.laneElem_putLaneElem {w d l e : Nat} (t : Team) {p : Nat × Nat × Nat} (hp : p.1 < 1024) (hl : l < 1024) (he : e < 64 / w) :
    (t.putLaneElem w d p).laneElem w d l e = if (l, e) = (p.1, p.2.1) then p.2.2 % 2 ^ w else t.laneElem w d l e := by
  rw [Team.laneElem, Team.putLaneElem, Team.vreg_setVreg hp hl]
  by_cases lane : l = p.1
  · rw [if_pos ⟨rfl, lane⟩, getElem_putElem ((Nat.mul_le_mul_left w he).trans (Nat.mul_div_le 64 w)), ← lane, Team.laneElem]
    simp
  · rw [if_neg fun both => lane both.2, if_neg fun both => lane (congrArg Prod.fst both), Team.laneElem]

/-- An element read after a list of writes whose values depend on their places alone. -/
theorem Team.laneElem_putLaneElems {w d l e : Nat} (hl : l < 1024) (he : e < 64 / w) (val : Nat → Nat → Nat) : ∀ (ps : List (Nat × Nat × Nat)) (t : Team),
    (∀ p, p ∈ ps → p.1 < 1024 ∧ p.2.2 = val p.1 p.2.1) →
    (ps.foldl (Team.putLaneElem w d) t).laneElem w d l e = if (l, e) ∈ ps.map (fun p => (p.1, p.2.1)) then val l e % 2 ^ w else t.laneElem w d l e
  | [], _, _ => rfl
  | p :: ps, t, values => by
    obtain ⟨small, value⟩ := values p List.mem_cons_self
    rw [List.foldl_cons, laneElem_putLaneElems hl he val ps _ fun q hq => values q (List.mem_cons_of_mem p hq), Team.laneElem_putLaneElem t small hl he, List.map_cons]
    by_cases later : (l, e) ∈ ps.map (fun p => (p.1, p.2.1))
    · rw [if_pos later, if_pos (List.mem_cons_of_mem _ later)]
    · rw [if_neg later]
      by_cases same : (l, e) = (p.1, p.2.1)
      · obtain ⟨rfl, rfl⟩ := Prod.mk.inj same
        rw [if_pos rfl, if_pos List.mem_cons_self, value]
      · rw [if_neg same, if_neg (by simp only [List.mem_cons, same, later, or_self, not_false_eq_true])]

/-- Writes of elements change the registers of their lanes, and what is in error among them, alone. -/
theorem Team.putLaneElems_frame {w d : Nat} : ∀ (ps : List (Nat × Nat × Nat)) (t : Team), (∀ p, p ∈ ps → p.1 < 1024) →
    ∃ vr le, ps.foldl (Team.putLaneElem w d) t = { t with vregs := vr, laneErr := le } ∧ (∀ k, k ∈ le → k ∈ t.laneErr) ∧
      ∀ v l, l < 1024 → (v ≠ d ∨ l ∉ ps.map (·.1)) → (ps.foldl (Team.putLaneElem w d) t).vreg v l = t.vreg v l
  | [], t, _ => ⟨t.vregs, t.laneErr, rfl, fun _ hk => hk, fun _ _ _ _ => rfl⟩
  | p :: ps, t, small => by
    obtain ⟨vr, le, eq, sub, kept⟩ := putLaneElems_frame (w := w) (d := d) ps (t.putLaneElem w d p) fun q hq => small q (List.mem_cons_of_mem p hq)
    refine ⟨vr, le, eq, fun k hk => List.mem_of_mem_filter (sub k hk), fun v l hl other => ?_⟩
    have apart : ¬(v = d ∧ l = p.1) := fun both => other.elim (fun ne => ne both.1) fun out => out (both.2 ▸ List.mem_cons_self)
    refine (kept v l hl (other.imp_right fun out later => out (List.mem_cons_of_mem _ later))).trans ?_
    exact (Team.vreg_setVreg (small p List.mem_cons_self) hl t _).trans (if_neg apart)

/-- The popped team with elements of the executing lanes written and the passes made. -/
theorem laneWrites_putLaneElems {t : Team} {mask : Mask} {h : LaneHead} {srcs : List Src} {w d : Nat} {on : Nat → Prop} {val : Nat → Nat → Nat}
    {ps : List (Nat × Nat × Nat)} (buf : Option (SMap 64)) (values : ∀ p, p ∈ ps → p.2.2 = val p.1 p.2.1)
    (places : ∀ l e, (l, e) ∈ ps.map (fun p => (p.1, p.2.1)) ↔ (t.executing mask h).getLsbD l = true ∧ on e) :
    t.laneWrites ((ps.foldl (Team.putLaneElem w d) (t.afterPops srcs)).laneDone buf) (t.executing mask h) w d on val := by
  obtain ⟨qu, tk, pops⟩ := t.afterPops_frame srcs
  have executes {p : Nat × Nat × Nat} (hp : p ∈ ps) : (t.executing mask h).getLsbD p.1 = true := ((places p.1 p.2.1).1 (List.mem_map_of_mem hp)).1
  have small {p : Nat × Nat × Nat} (hp : p ∈ ps) : p.1 < 1024 := BitVec.lt_of_getLsbD (executes hp)
  obtain ⟨vr, le, writes, errs, kept⟩ := Team.putLaneElems_frame (w := w) (d := d) ps (t.afterPops srcs) fun p hp => small hp
  have read {l e : Nat} (hl : (t.executing mask h).getLsbD l = true) (he : e < 64 / w) :=
    Team.laneElem_putLaneElems (d := d) (BitVec.lt_of_getLsbD hl) he val ps (t.afterPops srcs) fun p hp => ⟨small hp, values p hp⟩
  refine ⟨fun l e hl he hon => ?_, fun l e hl he hoff => ?_, fun v l other hl => ?_, ?_, ?_, ?_⟩
  · exact (read hl he).trans (if_pos ((places l e).2 ⟨hl, hon⟩))
  · refine ((read hl he).trans (if_neg fun named => hoff ((places l e).1 named).2)).trans ?_
    rw [Team.laneElem, Team.vreg_afterPops, Team.laneElem]
  · refine (kept v l hl (other.imp_right fun off named => ?_)).trans (t.vreg_afterPops srcs v l)
    obtain ⟨p, hp, rfl⟩ := List.mem_map.1 named
    exact absurd ((executes hp).symm.trans off) (by decide)
  · rw [writes, pops]
    rfl
  · rw [pops] at errs
    rw [writes, pops]
    exact errs
  · rw [writes, pops]
    rfl

end ElementWrites

section Hadamard

/-! ### HAD32 (09 R210) -/

theorem length_hadStages (ks : List Nat) : ∀ y : List Nat, (ks.foldl (fun y k => hadStage k y) y).length = y.length := by
  induction ks with
  | nil => exact fun _ => rfl
  | cons k ks ih => exact fun y => (ih _).trans (by simp [hadStage])

theorem length_hadamard (norm : Bool) (y : List Nat) : (hadamard norm y).length = y.length := by
  unfold hadamard
  split
  · rw [List.length_map, length_hadStages]
  · exact length_hadStages _ y

/-- The values of one element of a block's lanes: −0 stands for a lane that does not execute. -/
def hadamardVals (x : Mask) (e : Nat) (src : Nat → Word) (b : Nat) : List Nat :=
  (List.range 32).map fun j => if x.getLsbD (b * 32 + j) then getElem 32 e (src (b * 32 + j)) else negZero f32

/-- The writes of HAD32: the executing lanes of each block with a pass, element by element. -/
def hadamardWrites (norm : Bool) (sel : BitVec 5) (mask x : Mask) (lanes : Nat) (src : Nat → Word) : List (Nat × Nat × Nat) :=
  (passBands mask lanes).flatMap fun b => (elemSet 32 sel).flatMap fun e =>
    ((hadamard norm (hadamardVals x e src b)).zipIdx.filter fun q => x.getLsbD (32 * b + q.2)).map fun q => (32 * b + q.2, e, q.1)

theorem mem_hadamardWrites {norm : Bool} {sel : BitVec 5} {mask x : Mask} {lanes : Nat} {src : Nat → Word} {p : Nat × Nat × Nat} :
    p ∈ hadamardWrites norm sel mask x lanes src ↔ p.1 / 32 ∈ passBands mask lanes ∧ p.2.1 ∈ elemSet 32 sel ∧ x.getLsbD p.1 = true ∧
      p.2.2 = (hadamard norm (hadamardVals x p.2.1 src (p.1 / 32))).getD (p.1 % 32) 0 := by
  have length (e b : Nat) : (hadamard norm (hadamardVals x e src b)).length = 32 := by rw [length_hadamard, hadamardVals, List.length_map, List.length_range]
  simp only [hadamardWrites, List.mem_flatMap, List.mem_map, List.mem_filter]
  constructor
  · rintro ⟨b, hb, e, he, q, ⟨hq, on⟩, rfl⟩
    obtain ⟨hi, value⟩ := mem_zipIdx_getD 0 hq
    rw [length] at hi
    have block : (32 * b + q.2) / 32 = b := by omega
    have offset : (32 * b + q.2) % 32 = q.2 := by omega
    exact ⟨block.symm ▸ hb, he, on, by rw [block, offset, value]⟩
  · obtain ⟨l, e, v⟩ := p
    rintro ⟨hb, he, on, value⟩
    have offset : l % 32 < (hadamard norm (hadamardVals x e src (l / 32))).length := (length e (l / 32)).symm ▸ Nat.mod_lt l (by decide)
    refine ⟨l / 32, hb, e, he, ((hadamard norm (hadamardVals x e src (l / 32)))[l % 32], l % 32), ⟨?_, ?_⟩, ?_⟩
    · exact List.mem_zipIdx_iff_getElem?.2 (List.getElem?_eq_getElem offset)
    · rwa [Nat.div_add_mod]
    · rw [Nat.div_add_mod]
      exact congrArg (fun v => (l, e, v)) ((List.getD_eq_getElem _ _ offset).symm.trans value.symm)

variable {s : State} {r : TeamRef} {c : Crew} {t : Team} {cl : Clause} (at_ : s.laneAt r c t cl) (h : LaneHead) (m : ModA)
include at_

/-- HAD32 writes the butterfly of each block in the block's executing lanes. -/
theorem had32_writes (whole : t.lanes % 32 = 0) (ready : t.laneReady cl [srcOf h.s0 h.z0 h.b0 m.q0] [h.dst.toNat]) :
    let s0 := srcOf h.s0 h.z0 h.b0 m.q0
    let u := t.afterPops [s0]
    ∃ t', exec (.had32 h m) s = .next (s.putTeam r t') ∧ t.laneWrites t' (t.executing cl.mask h) 32 h.dst.toNat (fun e => e ∈ elemSet 32 m.dsel)
      (fun l e => (hadamard h.md (hadamardVals (t.executing cl.mask h) e (u.src u.popped s0) (l / 32))).getD (l % 32) 0) := by
  intro s0 u
  have small : ∀ k l, (t.executing cl.mask h).getLsbD l = true → ∀ j, j ∈ execBlock u (t.executing cl.mask h) k l → j < 1024 :=
    fun k l _ j hj => BitVec.lt_of_getLsbD (List.mem_filter.1 hj).2
  let ps := hadamardWrites h.md m.dsel cl.mask (t.executing cl.mask h) t.lanes (u.src u.popped s0)
  refine ⟨(ps.foldl (Team.putLaneElem 32 h.dst.toNat) u).laneDone (u.retained u.popped (retainSrc h.retain s0 .zero .zero)),
    (show exec (.had32 h m) s = execHad32 h m s from rfl).trans ((laneCompute_ready_of_reads at_ ready h _ small).trans ?_),
    laneWrites_putLaneElems _ (fun p hp => ?_) fun l e => ?_⟩
  · refine congrArg (fun v : Team => Host.Outcome.next (s.putTeam r (v.laneDone _))) ?_
    simp only [ps, hadamardWrites, hadamardVals, List.foldl_flatMap, List.foldl_map, List.foldl_filter, Nat.mul_comm _ 32, lanes_afterPops]
    rfl
  · obtain ⟨-, -, -, value⟩ := mem_hadamardWrites.1 hp
    exact value
  · constructor
    · rintro named
      obtain ⟨p, hp, place⟩ := List.mem_map.1 named
      obtain ⟨rfl, rfl⟩ := Prod.mk.inj place
      obtain ⟨-, he, on, -⟩ := mem_hadamardWrites.1 hp
      exact ⟨on, he⟩
    · rintro ⟨on, he⟩
      have pass : l / 32 ∈ passBands cl.mask t.lanes := by
        have := Team.lt_lanes_of_executing on
        exact mem_passBands.2 ⟨by omega, bandWord_ne_zero (Team.mask_of_executing on)⟩
      exact List.mem_map.2 ⟨(l, e, (hadamard h.md (hadamardVals (t.executing cl.mask h) e (u.src u.popped s0) (l / 32))).getD (l % 32) 0),
        mem_hadamardWrites.2 ⟨pass, he, on, rfl⟩, rfl⟩

end Hadamard
end Sys2Proof.Machine

namespace Sys2Proof.Machine

section FocusedTeam

/-! ### The acting team stays (03 R54; 17 R342) -/

/-- Team `r` has the focus and stands in the package. -/
def State.focused (s : State) (r : TeamRef) : Prop := ∃ c t, s.acts r c t

variable {s : State} {r : TeamRef}

theorem focused_putTeam (here : s.focused r) (u : Team) : (s.putTeam r u).focused r := by
  obtain ⟨c, t, focus, team⟩ := here
  exact ⟨_, u, (s.putTeam_focus r u).trans focus, teamAt_putTeam team u⟩

theorem focused_modTeam (here : s.focused r) (f : Team → Team) : (s.modTeam r f).focused r := by
  obtain ⟨c, t, focus, team⟩ := here
  rw [modTeam_eq team]
  exact focused_putTeam ⟨c, t, focus, team⟩ _

/-- A change of the crew that keeps its teams. -/
theorem focused_modCrew (here : s.focused r) {f : Crew → Crew} (keeps : ∀ c, (f c).teams = c.teams) : (s.modCrew r.crew f).focused r := by
  obtain ⟨c, t, focus, team⟩ := here
  obtain ⟨crew, place⟩ := teamAt_eq.1 team
  refine ⟨f c, t, (s.modCrew_focus _ _).trans focus, teamAt_eq.2 ⟨?_, (keeps c).symm ▸ place⟩⟩
  rw [State.modCrew, crewAt_of team]
  exact List.getElem?_set_self (List.getElem?_eq_some_iff.1 crew).1

theorem focused_notePool (here : s.focused r) (again : Bool) (z : Option Nat) : (s.notePool r again z).focused r := by
  obtain ⟨c, t, focus, team⟩ := here
  unfold State.notePool
  simp only [team]
  split
  · exact ⟨c, t, focus, team⟩
  · exact focused_modCrew ⟨c, t, focus, team⟩ fun _ => rfl

theorem focused_laneFaultAt (here : s.focused r) (t : Team) (cause : Nat) (lanes : Mask) (x : Option Mask) (addr : Nat) :
    (s.laneFaultAt r t cause lanes x addr).focused r := focused_notePool (focused_putTeam here _) _ _

/-- The frame of a lane instruction goes on, whatever stands in the instruction's way, and keeps the acting team where its effect does. -/
theorem laneFrame_focused (here : s.focused r) {h : LaneHead} {srcs : List Src} {regs : List Nat} {eff : TeamRef → Crew → Team → Clause → Mask → State}
    (keeps : ∀ c t cl x, (eff r c t cl x).focused r) : ∃ s', laneFrame s h srcs regs eff = .next s' ∧ s'.focused r := by
  obtain ⟨c, t, acts⟩ := id here
  refine ⟨_, withTeam_acts acts _, ?_⟩
  split
  · exact here
  · split
    · exact here
    · dsimp only
      split
      · split
        · exact focused_putTeam here _
        · split
          · exact focused_putTeam here _
          · exact focused_putTeam here _
      · split
        · exact focused_laneFaultAt here _ _ _ _ _
        · split
          · exact focused_putTeam here _
          · split
            · exact focused_laneFaultAt here _ _ _ _ _
            · exact keeps ..

theorem laneCompute_focused (here : s.focused r) {h : LaneHead} {srcs : List Src} {regs : List Nat} {reads : Team → Mask → Nat → Nat → List Nat}
    {eff : TeamRef → Crew → Team → Clause → Mask → State} (keeps : ∀ c t cl x, (eff r c t cl x).focused r) :
    ∃ s', laneCompute s h srcs regs reads eff = .next s' ∧ s'.focused r := by
  refine laneFrame_focused here fun c t cl x => ?_
  dsimp only
  split
  · exact keeps ..
  · exact focused_notePool (focused_modTeam (keeps ..) _) _ _

theorem laneA_focused (here : s.focused r) (h : LaneHead) (m : ModA) (n : Nat) (f : Nat → Nat → Nat → Nat) : ∃ s', laneA s h m n f = .next s' ∧ s'.focused r :=
  laneCompute_focused here fun _ _ _ _ => focused_putTeam here _

theorem laneRange_focused (here : s.focused r) (h : LaneHead) (m : ModX) (ident : Nat) (g : List Nat → List Nat) :
    ∃ s', laneRange s h m ident g = .next s' ∧ s'.focused r :=
  laneCompute_focused here fun _ _ _ _ => focused_putTeam here _

end FocusedTeam

section FusedSoftmax

/-! ### The fused softmax idiom (09 R213) -/

variable {s : State} {r : TeamRef} {c : Crew} {t : Team} {cl : Clause}

/-- An instruction without sources is ready where one that reads registers alone is. -/
theorem laneReady_of_registers {v : Nat} {regs : List Nat} (ready : t.laneReady cl [.reg v] regs) : t.laneReady cl [] regs := by
  obtain ⟨lanes, -, whole, inAlloc, -⟩ := ready
  exact ⟨lanes, fun named => absurd named List.not_mem_nil, whole, fun w hw => inAlloc w (List.mem_append_right _ hw), fun w named => absurd named List.not_mem_nil⟩

theorem exec_frmax (h : LaneHead) (m : ModX) (s : State) :
    exec (.frmax h m) s = laneRange s h m (redIdent h.ty 2) (fun l => l.map fun _ => reduceRange h.ty 2 false l) := rfl
theorem exec_fradd (h : LaneHead) (m : ModX) (s : State) :
    exec (.fradd h m) s = laneRange s h m (redIdent h.ty 0) (fun l => l.map fun _ => reduceRange h.ty 0 false l) := rfl
theorem exec_fsub (h : LaneHead) (m : ModA) (s : State) : exec (.fsub h m) s = laneA s h m 2 (fun x y _ => subF (fmtOf h.ty) (rmodeOf m.rm) x y) := rfl
theorem exec_fexp2 (h : LaneHead) (m : ModA) (s : State) : exec (.fexp2 h m) s = laneA s h m 1 (fun x _ _ => approxF 0x054 h.ty x) := rfl

variable (at_ : s.laneAt r c t cl) (hm : LaneHead) (mm : ModX) (ht : LaneHead) (mt : ModA) (he : LaneHead) (me : ModA) (hs : LaneHead) (ms : ModX)
include at_

/-- Where nothing of it would trap, the idiom is its four instructions, one after another. -/
theorem exec_fusedSoftmax_ready (ready : t.laneReady cl [.reg hm.s0.toNat] [hm.dst.toNat, hm.s0.toNat, ht.dst.toNat, he.dst.toNat, hs.dst.toNat]) :
    exec (.fusedSoftmax hm mm ht mt he me hs ms) s =
      (let s1 := outState (exec (.frmax hm mm) s) s
       let s2 := outState (exec (.fsub ht mt) s1) s1
       let s3 := outState (exec (.fexp2 he me) s2) s2
       .next (outState (exec (.fradd hs ms) s3) s3)) := by
  refine (show exec (.fusedSoftmax hm mm ht mt he me hs ms) s = execFusedSoftmax hm mm ht mt he me hs ms s from rfl).trans ?_
  refine (laneFrame_ready at_ (laneReady_of_registers ready) hm _).trans (congrArg Host.Outcome.next ?_)
  obtain ⟨-, -, -, -, clean⟩ := ready
  obtain ⟨qu, tk, pops⟩ := t.afterPops_frame []
  have none : (t.afterPops []).errLanes [.reg hm.s0.toNat] (t.executing cl.mask hm) (fun _ l => [l]) = 0#1024 :=
    Team.errLanes_eq_zero_of_reads (by rw [pops]; exact clean) fun k l hl j hj => List.mem_singleton.1 hj ▸ BitVec.lt_of_getLsbD hl
  rw [if_neg (not_not_intro none)]
  rfl

theorem fusedSoftmax_is_sequence (ready : t.laneReady cl [.reg hm.s0.toNat] [hm.dst.toNat, hm.s0.toNat, ht.dst.toNat, he.dst.toNat, hs.dst.toNat]) :
    ∃ s1 s2 s3 s4, exec (.frmax hm mm) s = .next s1 ∧ exec (.fsub ht mt) s1 = .next s2 ∧ exec (.fexp2 he me) s2 = .next s3 ∧ exec (.fradd hs ms) s3 = .next s4 ∧
      exec (.fusedSoftmax hm mm ht mt he me hs ms) s = .next s4 := by
  obtain ⟨s1, max, here1⟩ : ∃ s1, exec (.frmax hm mm) s = .next s1 ∧ s1.focused r := exec_frmax hm mm s ▸ laneRange_focused ⟨c, t, at_.1⟩ hm mm _ _
  obtain ⟨s2, sub, here2⟩ : ∃ s2, exec (.fsub ht mt) s1 = .next s2 ∧ s2.focused r := exec_fsub ht mt s1 ▸ laneA_focused here1 ht mt 2 _
  obtain ⟨s3, exp, here3⟩ : ∃ s3, exec (.fexp2 he me) s2 = .next s3 ∧ s3.focused r := exec_fexp2 he me s2 ▸ laneA_focused here2 he me 1 _
  obtain ⟨s4, add, -⟩ : ∃ s4, exec (.fradd hs ms) s3 = .next s4 ∧ s4.focused r := exec_fradd hs ms s3 ▸ laneRange_focused here3 hs ms _ _
  refine ⟨s1, s2, s3, s4, max, sub, exp, add, (exec_fusedSoftmax_ready at_ hm mm ht mt he me hs ms ready).trans ?_⟩
  simp only [max, sub, exp, add, outState]

end FusedSoftmax

/-- Settles O37: QBP writes the first lanes of each block with a pass and HAD32 the executing ones; the idiom is its four instructions, none of
which stops the machine. -/
theorem laneBlockInstructions : Obligations.LaneBlockInstructions := by
  refine ⟨fun s r c t cl at_ whole few h m ma => ?_, fun s r c t cl at_ hm mm ht mt he me hs ms ready => fusedSoftmax_is_sequence at_ hm mm ht mt he me hs ms ready⟩
  intro w x p band s0 u
  refine ⟨fun ready => ⟨fun half => ?_, dqbp_writes at_ h m ready⟩, fun ready => had32_writes at_ h ma whole ready⟩
  · have short : p < 32 := m.p.isLt
    have mem (l : Nat) := mem_planeLanes (l := l) (mask := cl.mask) short whole
    refine ⟨_, exec_qbp_ready at_ h m ready, ?_⟩
    obtain ⟨written, passes, keeps⟩ := laneDone_setVregs t [s0] h.dst.toNat
      (fun l => putElem 32 (selIndex m.dsel) (t.vreg h.dst.toNat l) ((quantBlock p (blockVals h.ty (selIndex m.s0sel) x (u.src u.popped s0) (l / 32))).getD (l % 32) 0))
      (ls := planeLanes p cl.mask t.lanes) (u.retained u.popped (retainSrc h.retain s0 .zero .zero)) fun l hl => ((mem l).1 hl).1.trans_le few
    refine ⟨passes, keeps, fun l hl on hi => ?_, fun v l other hl => ?_⟩
    · rw [Team.laneElem, written _ _ (hl.trans_le few), if_pos ⟨rfl, (mem l).2 ⟨hl, on, hi⟩⟩, getElem_putElem (by omega), if_pos rfl]
      rfl
    · refine (written v l hl).trans (if_neg ?_)
      rintro ⟨hv, named⟩
      obtain ⟨inTeam, on, hi⟩ := (mem l).1 named
      rcases other with ne | off | beyond | outside
      · exact ne hv
      · exact off on
      · exact absurd hi (by omega)
      · exact absurd inTeam (by omega)

end Sys2Proof.Machine

namespace Sys2Proof.Machine

section LaneCrossings

/-! ### A shuffle in a team of more than 1,024 lanes (09 R215; 18 R352)

LaneCrossingsAndRanges bounds neither the lanes of a team nor, with laneReady, the lanes above 1,023 of a register in error. The model keeps the
mark of register v and lane l as v · 1,024 + l, so in a team of 2,048 lanes the mark of lane 1,025 of a register is that of lane 1 of the next
one: a shuffle that reads the first meets the error of the second, which is not among its sources. -/

/-- SHFL.s64 from register 0 at the positions in register 2 to register 3. -/
def wideHead : LaneHead := ⟨3, 3, 0, 2, 0, false, false, false, 0, false, false, false, 15, false, false⟩
def wideMod : ModA := ⟨0, 0, 0, 0, 0, 0, 0⟩

/-- A clause of one instruction in lane 0. -/
def wideClause : Clause := { uid := 0, addr := 0, count := 1, mask := 1#1024, wait := 0#12, holds := 0#12, step := 0#32, ord := 0, fence := 0, started := true }

/-- A team of 2,048 lanes: lane 0 asks for position 1,025, and lane 1 of register 1 holds an error. -/
def wideTeam : Team := { id := 0, lanes := 2048, regs := 4, priv := false, pc := 0#64, queue := [wideClause], vregs := [(2048, 1025#64)], laneErr := [1025] }

/-- Its crew, placed on core 0. -/
def wideCrew : Crew := { launchId := 0#32, crewId := 0#32, place := some 0, born := 0, lastRegion := 0, teams := [wideTeam] }

/-- The package at reset with that crew in it, its team acting. -/
def wideState : State := { State.reset with crews := [wideCrew], focus := some ⟨0, 0⟩ }

/-- Where the team stands in its clause after an outcome that goes on. -/
def Out.lidxOf (r : TeamRef) : Out → Option Nat
  | .next s => (s.teamAt r).map (·.2.lidx)
  | _ => none

/-- The shuffle faults: the team still stands at it. -/
theorem wideShuffle_faults : Out.lidxOf ⟨0, 0⟩ (exec (.shfl wideHead wideMod) wideState) = some 0 := by decide +kernel

theorem wideTeam_stands : wideState.laneAt ⟨0, 0⟩ wideCrew wideTeam wideClause := ⟨⟨rfl, rfl⟩, rfl, rfl, rfl, by decide⟩

theorem wideTeam_ready : wideTeam.laneReady wideClause ((srcs3 wideHead wideMod).take 2) [wideHead.dst.toNat] := by
  have sources : (srcs3 wideHead wideMod).take 2 = [.reg 0, .reg 2] := by decide
  rw [sources]
  refine ⟨by decide +kernel, by decide, by decide +kernel, by decide, fun v named l hl => ?_⟩
  have cell : v * 1024 + l ≠ 1025 := by
    simp only [List.filterMap_cons, List.filterMap_nil, Src.isReg, List.mem_cons, List.not_mem_nil, or_false] at named
    omega
  simpa [wideTeam] using cell

end LaneCrossings

/-- Refutes O36: in a team of 2,048 lanes a shuffle whose sources hold no error in lanes 0 to 1,023 meets the error of another register,
faults, and makes no passes. -/
theorem not_laneCrossingsAndRanges : ¬ Obligations.LaneCrossingsAndRanges := by
  intro h
  obtain ⟨crossings, -⟩ := h
  obtain ⟨-, -, -, -, -, teams⟩ := crossings wideHead ⟨0, 0, 0, 0, 0, 0, 0⟩ wideMod
  obtain ⟨shuffles, -⟩ := teams wideState ⟨0, 0⟩ wideCrew wideTeam wideClause wideTeam_stands
  obtain ⟨⟨t', run, -, -, -, passes, -⟩, -⟩ := shuffles wideTeam_ready
  have placed : (wideState.putTeam ⟨0, 0⟩ t').teamAt ⟨0, 0⟩ = some (wideCrew.putTeam 0 t', t') := teamAt_putTeam wideTeam_stands.1.2 t'
  have stands : some t'.lidx = some 0 := by
    rw [← wideShuffle_faults, run, Out.lidxOf, placed]
    rfl
  exact absurd (passes.symm.trans (Option.some.inj stands)) (by decide)
end Sys2Proof.Machine

namespace Sys2Proof.Machine

section BinaryLogarithm

/-! ### The binary logarithm of a fraction (04 R80) -/

theorem scaleFrac_value (n d : Nat) (k : Int) : ((scaleFrac n d k).1 : ℚ) / (scaleFrac n d k).2 = n / d * 2 ^ k := by
  unfold scaleFrac
  split
  · next up =>
    rw [← Int.toNat_of_nonneg up, zpow_natCast]
    push_cast
    rw [Int.toNat_natCast]
    ring
  · next down =>
    have power : (2 : ℚ) ^ k = (2 ^ (-k).toNat)⁻¹ := by
      rw [← zpow_natCast, ← zpow_neg, Int.toNat_of_nonneg (by omega), neg_neg]
    rw [power]
    push_cast
    rw [div_mul_eq_div_div, div_eq_mul_inv _ ((2 : ℚ) ^ _)]

theorem scaleFrac_den_pos {d : Nat} (hd : 0 < d) (n : Nat) (k : Int) : 0 < (scaleFrac n d k).2 := by
  unfold scaleFrac
  split
  · exact hd
  · exact Nat.mul_pos hd (Nat.two_pow_pos _)

theorem log_two_eq {r : ℚ} {z : Int} (lo : 2 ^ z ≤ r) (hi : r < 2 ^ (z + 1)) : Int.log 2 r = z := by
  have pos : 0 < r := (zpow_pos (by norm_num) z).trans_le lo
  have above : z ≤ Int.log 2 r := (Int.zpow_le_iff_le_log (by decide) pos).1 (by exact_mod_cast lo)
  have below : Int.log 2 r < z + 1 := (Int.lt_zpow_iff_log_lt (by decide) pos).1 (by exact_mod_cast hi)
  omega

theorem ilog2_eq_log {num den : Nat} (hn : 0 < num) (hd : 0 < den) : ilog2 num den = Int.log 2 ((num : ℚ) / den) := by
  have lowN : (2 : ℚ) ^ (num.log2 : Int) ≤ num := by rw [zpow_natCast]; exact_mod_cast Nat.log2_self_le hn.ne'
  have highN : (num : ℚ) < 2 ^ ((num.log2 : Int) + 1) := by exact_mod_cast Nat.lt_log2_self
  have lowD : (2 : ℚ) ^ (den.log2 : Int) ≤ den := by rw [zpow_natCast]; exact_mod_cast Nat.log2_self_le hd.ne'
  have highD : (den : ℚ) < 2 ^ ((den.log2 : Int) + 1) := by exact_mod_cast Nat.lt_log2_self
  have posD : (0 : ℚ) < den := by exact_mod_cast hd
  have two : (2 : ℚ) ≠ 0 := by norm_num
  generalize scale : (num.log2 : Int) - (den.log2 : Int) = e
  have low : (2 : ℚ) ^ (e - 1) ≤ num / den := by
    rw [le_div_iff₀ posD]
    calc (2 : ℚ) ^ (e - 1) * den ≤ 2 ^ (e - 1) * 2 ^ ((den.log2 : Int) + 1) := by gcongr
      _ = 2 ^ (num.log2 : Int) := by rw [← zpow_add₀ two]; congr 1; omega
      _ ≤ num := lowN
  have high : (num : ℚ) / den < 2 ^ (e + 1) := by
    rw [div_lt_iff₀ posD]
    calc (num : ℚ) < 2 ^ ((num.log2 : Int) + 1) := highN
      _ = 2 ^ (e + 1) * 2 ^ (den.log2 : Int) := by rw [← zpow_add₀ two]; congr 1; omega
      _ ≤ 2 ^ (e + 1) * den := by gcongr
  have posS : (0 : ℚ) < (scaleFrac num den (-e)).2 := by exact_mod_cast scaleFrac_den_pos hd num (-e)
  have less : (scaleFrac num den (-e)).1 < (scaleFrac num den (-e)).2 ↔ (num : ℚ) / den < 2 ^ e := by
    rw [← Nat.cast_lt (α := ℚ), ← div_lt_one posS, scaleFrac_value, zpow_neg, ← div_eq_mul_inv, div_lt_one (zpow_pos (by norm_num) e)]
  unfold ilog2
  simp only [scale]
  split
  · next lt => exact (log_two_eq low (by rw [sub_add_cancel]; exact less.1 lt)).symm
  · next ge => exact (log_two_eq (not_lt.1 fun lt => ge (less.2 lt)) high).symm

end BinaryLogarithm

section Rounding

/-! ### Rounding to a grid (04 R79, R80) -/

/-- The exponent of the grid at a magnitude, subnormal magnitudes at the least normal one. -/
def gridExp (f : Fmt) (num den : Nat) : Int := max (ilog2 num den) (1 - (f.bias : Int))

/-- The spacings below a magnitude, and the bits of the grid value there. -/
def gridSig (f : Fmt) (num den : Nat) : Nat := (scaleFrac num den (-quantum f num den)).1 / (scaleFrac num den (-quantum f num den)).2
def gridBelow (f : Fmt) (num den : Nat) : Nat := gridSig f num den + (gridExp f num den + f.bias - 1).toNat * 2 ^ f.fbits

theorem roundMag_eq (f : Fmt) (mode : RMode) (neg : Bool) (num den : Nat) : roundMag f mode neg num den =
    (if roundsUp mode neg (gridSig f num den) ((scaleFrac num den (-quantum f num den)).1 % (scaleFrac num den (-quantum f num den)).2)
      (scaleFrac num den (-quantum f num den)).2 then 1 else 0) + gridBelow f num den := by
  have exponent : quantum f num den + f.bias + f.fbits - 1 = gridExp f num den + f.bias - 1 := by
    simp only [quantum, gridExp]
    omega
  unfold roundMag gridBelow
  simp only [exponent]
  rw [gridSig]
  split
  · rw [Nat.add_right_comm, Nat.add_comm]
  · rw [Nat.zero_add]

theorem gridBelow_le_roundMag (f : Fmt) (mode : RMode) (neg : Bool) (num den : Nat) : gridBelow f num den ≤ roundMag f mode neg num den := by
  rw [roundMag_eq]
  exact Nat.le_add_left ..

theorem roundMag_le_succ (f : Fmt) (mode : RMode) (neg : Bool) (num den : Nat) : roundMag f mode neg num den ≤ gridBelow f num den + 1 := by
  rw [roundMag_eq]
  split <;> omega

/-- The mode that goes toward zero takes the grid value below. -/
theorem roundMag_down {f : Fmt} {mode : RMode} {neg : Bool} (toZero : ∀ lo rem d, roundsUp mode neg lo rem d = false) (num den : Nat) :
    roundMag f mode neg num den = gridBelow f num den := by
  rw [roundMag_eq, toZero]
  exact Nat.zero_add _

/-- A value of the grid is not rounded. -/
theorem roundsUp_exact (mode : RMode) (neg : Bool) (lo : Nat) {d : Nat} (hd : 0 < d) : roundsUp mode neg lo 0 d = false := by
  cases mode <;> simp [roundsUp, hd.ne]

variable {f : Fmt} {num den : Nat}

theorem gridSig_eq_floor (f : Fmt) (num den : Nat) : gridSig f num den = ⌊(num : ℚ) / den * 2 ^ (f.fbits - gridExp f num den)⌋₊ := by
  rw [gridSig, ← Nat.floor_div_eq_div (K := ℚ), scaleFrac_value]
  congr 3
  simp only [quantum, gridExp]
  omega

theorem gridExp_low (f : Fmt) (num den : Nat) : 1 - (f.bias : Int) ≤ gridExp f num den := le_max_right _ _

theorem gridSig_lt (hn : 0 < num) (hd : 0 < den) : gridSig f num den < 2 ^ (f.fbits + 1) := by
  have below : (num : ℚ) / den < 2 ^ (gridExp f num den + 1) := by
    refine (Int.lt_zpow_succ_log_self (b := 2) (by decide) ((num : ℚ) / den)).trans_le ?_
    rw [← ilog2_eq_log hn hd]
    exact zpow_le_zpow_right₀ (by norm_num) (add_le_add_left (le_max_left _ _) 1)
  rw [gridSig_eq_floor, Nat.floor_lt' (by positivity)]
  calc (num : ℚ) / den * 2 ^ (f.fbits - gridExp f num den) < 2 ^ (gridExp f num den + 1) * 2 ^ (f.fbits - gridExp f num den) := by gcongr
    _ = ((2 ^ (f.fbits + 1) : Nat) : ℚ) := by
      rw [← zpow_add₀ (by norm_num)]
      push_cast
      rw [← zpow_natCast]
      congr 1
      push_cast
      omega

/-- Above the subnormal range the significand has its leading bit. -/
theorem le_gridSig (hn : 0 < num) (hd : 0 < den) (normal : 1 - (f.bias : Int) < gridExp f num den) : 2 ^ f.fbits ≤ gridSig f num den := by
  have exponent : gridExp f num den = ilog2 num den := max_eq_left (le_of_lt ((lt_max_iff.1 normal).resolve_right (lt_irrefl _)))
  have above : (2 : ℚ) ^ gridExp f num den ≤ num / den := by
    rw [exponent, ilog2_eq_log hn hd]
    exact_mod_cast Int.zpow_log_le_self (R := ℚ) (b := 2) (r := num / den) (by decide) (by positivity)
  rw [gridSig_eq_floor, Nat.le_floor_iff (by positivity)]
  calc (((2 ^ f.fbits : Nat) : ℚ)) = 2 ^ gridExp f num den * 2 ^ (f.fbits - gridExp f num den) := by
        rw [← zpow_add₀ (by norm_num)]
        push_cast
        rw [← zpow_natCast]
        congr 1
        omega
    _ ≤ num / den * 2 ^ (f.fbits - gridExp f num den) := by gcongr

/-- The grid value below rises with the magnitude. -/
theorem gridBelow_mono {num' : Nat} (hn : 0 < num) (hd : 0 < den) (le : num ≤ num') : gridBelow f num den ≤ gridBelow f num' den := by
  have hn' : 0 < num' := hn.trans_le le
  have value : (num : ℚ) / den ≤ num' / den := by gcongr
  have exps : gridExp f num den ≤ gridExp f num' den := by
    refine max_le_max ?_ le_rfl
    rw [ilog2_eq_log hn hd, ilog2_eq_log hn' hd]
    exact Int.log_mono_right (by positivity) value
  have low := gridExp_low f num den
  rcases eq_or_lt_of_le exps with same | less
  · unfold gridBelow
    rw [same]
    refine Nat.add_le_add_right ?_ _
    rw [gridSig_eq_floor, gridSig_eq_floor, same]
    exact Nat.floor_le_floor (by gcongr)
  · have small := gridSig_lt (f := f) hn hd
    have large := le_gridSig (f := f) hn' hd (low.trans_lt less)
    have step : (gridExp f num den + f.bias - 1).toNat + 1 ≤ (gridExp f num' den + f.bias - 1).toNat := by omega
    calc gridBelow f num den ≤ 2 ^ (f.fbits + 1) + (gridExp f num den + f.bias - 1).toNat * 2 ^ f.fbits := Nat.add_le_add_right small.le _
      _ = 2 ^ f.fbits + ((gridExp f num den + f.bias - 1).toNat + 1) * 2 ^ f.fbits := by ring
      _ ≤ gridSig f num' den + (gridExp f num' den + f.bias - 1).toNat * 2 ^ f.fbits := Nat.add_le_add large (Nat.mul_le_mul_right _ step)

/-- The bits of 1. -/
def Fmt.oneBits (f : Fmt) : Nat := f.bias * 2 ^ f.fbits

/-- A magnitude up to 1 rounds to a magnitude up to 1. -/
theorem roundMag_le_oneBits (hb : 2 ≤ f.bias) (mode : RMode) (neg : Bool) (hn : 0 < num) (le : num ≤ den) : roundMag f mode neg num den ≤ f.oneBits := by
  have hd : 0 < den := hn.trans_le le
  rcases eq_or_lt_of_le le with rfl | less
  · have exponent : ilog2 num num = 0 := by
      rw [ilog2_eq_log hn hd, div_self (by positivity)]
      exact Int.log_one_right 2
    have quanta : quantum f num num = -(f.fbits : Int) := by
      simp only [quantum, exponent]
      omega
    have scaled : scaleFrac num num (-quantum f num num) = (num * 2 ^ f.fbits, num) := by
      rw [quanta, neg_neg, scaleFrac, if_pos (Int.natCast_nonneg _), Int.toNat_natCast]
    have bits : gridBelow f num num = f.oneBits := by
      rw [gridBelow, gridSig, scaled, gridExp, exponent, Nat.mul_div_cancel_left _ hn, Fmt.oneBits, show (max 0 (1 - (f.bias : Int)) + f.bias - 1).toNat = f.bias - 1 by omega,
        Nat.add_comm, ← Nat.succ_mul, Nat.succ_eq_add_one, Nat.sub_add_cancel (by omega)]
    rw [roundMag_eq, scaled, Nat.mul_mod_right, roundsUp_exact mode neg _ hn, bits]
    simp
  · have exponent : gridExp f num den ≤ -1 := by
      have : ilog2 num den < 0 := by
        rw [ilog2_eq_log hn hd, ← Int.lt_zpow_iff_log_lt (by decide) (by positivity), zpow_zero, div_lt_one (by positivity)]
        exact_mod_cast less
      simp only [gridExp]
      omega
    have small := gridSig_lt (f := f) hn hd
    calc roundMag f mode neg num den ≤ gridBelow f num den + 1 := roundMag_le_succ ..
      _ ≤ 2 ^ (f.fbits + 1) + (gridExp f num den + f.bias - 1).toNat * 2 ^ f.fbits := by unfold gridBelow; omega
      _ = ((gridExp f num den + f.bias - 1).toNat + 2) * 2 ^ f.fbits := by ring
      _ ≤ f.oneBits := Nat.mul_le_mul_right _ (by omega)

end Rounding
end Sys2Proof.Machine

namespace Sys2Proof.Machine

section BinaryFormats

/-! ### The formats with infinities and NaNs, .f32, .bf16 and .f16 (04 R72) -/

/-- What the three formats share: 1 and every other finite value lie below the infinity, whose bits and those of the NaN lie below the sign. -/
structure Fmt.Binary (f : Fmt) : Prop where
  ieee : f.ieee = true
  bias_ge : 2 ≤ f.bias
  bias_lt : f.bias < 2 ^ f.ebits - 1
  one_le : f.oneBits ≤ f.maxBits
  max_lt : f.maxBits < 2 ^ (f.width - 1)
  inf_lt : (2 ^ f.ebits - 1) * 2 ^ f.fbits < 2 ^ (f.width - 1)
  nan_lt : f.nanBits < 2 ^ (f.width - 1)

theorem binary_fmtOf {ty : BitVec 4} (h : ty ∈ [8#4, 9#4, 10#4]) : (fmtOf ty).Binary := by
  simp only [List.mem_cons, List.not_mem_nil, or_false] at h
  rcases h with rfl | rfl | rfl <;> constructor <;> decide

theorem width_pred (f : Fmt) : f.width - 1 = f.fbits + f.ebits := by
  unfold Fmt.width
  omega

theorem two_pow_width (f : Fmt) : 2 ^ f.width = 2 ^ (f.width - 1) + 2 ^ (f.width - 1) := by
  rw [width_pred, show f.width = f.fbits + f.ebits + 1 by unfold Fmt.width; omega, pow_succ, mul_two]

/-! ### Sign and magnitude -/

@[simp] theorem signBit_false (f : Fmt) : f.signBit false = 0 := rfl
@[simp] theorem signBit_true (f : Fmt) : f.signBit true = 2 ^ (f.width - 1) := rfl

variable {f : Fmt} {m : Nat}

theorem two_pow_add_eq_xor {k m : Nat} (hm : m < 2 ^ k) : 2 ^ k + m = 2 ^ k ^^^ m := by
  refine Nat.eq_of_testBit_eq fun j => ?_
  have sum := Nat.testBit_two_pow_mul_add 1 hm j
  rw [mul_one] at sum
  rw [sum, Nat.testBit_xor, Nat.testBit_two_pow]
  split
  · next low => rw [decide_eq_false (by omega), Bool.false_xor]
  · next high =>
    rw [Nat.testBit_lt_two_pow (hm.trans_le (Nat.pow_le_pow_right (by decide) (not_lt.1 high))), Bool.xor_false, show (1 : Nat).testBit (j - k) = decide (0 = j - k) from Nat.testBit_two_pow (n := 0), decide_eq_decide]
    omega

theorem signBit_add (hm : m < 2 ^ (f.width - 1)) (neg : Bool) : f.signBit neg + m = f.signBit neg ^^^ m := by
  cases neg with
  | false => rw [signBit_false, Nat.zero_add, Nat.zero_xor]
  | true => exact two_pow_add_eq_xor hm

theorem signBit_xor_signBit (f : Fmt) (a b : Bool) : f.signBit a ^^^ f.signBit b = f.signBit (a ^^ b) := by
  cases a <;> cases b <;> simp

/-- A change of sign. -/
theorem signBit_xor_signed (hm : m < 2 ^ (f.width - 1)) (a b : Bool) : f.signBit a ^^^ (f.signBit b + m) = f.signBit (a ^^ b) + m := by
  rw [signBit_add hm, signBit_add hm, ← Nat.xor_assoc, signBit_xor_signBit]

theorem signed_mod (hm : m < 2 ^ (f.width - 1)) (neg : Bool) : (f.signBit neg + m) % 2 ^ (f.width - 1) = m := by
  cases neg with
  | false => rw [signBit_false, Nat.zero_add, Nat.mod_eq_of_lt hm]
  | true => rw [signBit_true, Nat.add_mod_left, Nat.mod_eq_of_lt hm]

theorem signed_testBit (hm : m < 2 ^ (f.width - 1)) (neg : Bool) : (f.signBit neg + m).testBit (f.width - 1) = neg := by
  cases neg with
  | false => rw [signBit_false, Nat.zero_add, Nat.testBit_lt_two_pow hm]
  | true => rw [signBit_true, Nat.testBit_two_pow_add_eq, Nat.testBit_lt_two_pow hm, Bool.not_false]

/-- Every encoding is a sign and a magnitude. -/
theorem eq_signed {x : Nat} (hx : x < 2 ^ f.width) : x = f.signBit (x.testBit (f.width - 1)) + x % 2 ^ (f.width - 1) := by
  have split := Nat.div_add_mod x (2 ^ (f.width - 1))
  have double := two_pow_width f
  have small : x / 2 ^ (f.width - 1) < 2 := (Nat.div_lt_iff_lt_mul (Nat.two_pow_pos _)).2 (by omega)
  rw [Nat.testBit_eq_decide_div_mod_eq, Nat.mod_eq_of_lt small]
  rcases Nat.le_one_iff_eq_zero_or_eq_one.1 (Nat.le_of_lt_succ small) with high | high
  · rw [high, mul_zero] at split
    simp [high, split]
  · rw [high, mul_one] at split
    simp [high, split]

theorem signed_lt (hm : m < 2 ^ (f.width - 1)) (neg : Bool) : f.signBit neg + m < 2 ^ f.width := by
  have double := two_pow_width f
  cases neg with
  | false => rw [signBit_false]; omega
  | true => rw [signBit_true]; omega

/-- The value of an encoding is that of its magnitude with its sign. -/
theorem decodeF_signed (hm : m < 2 ^ (f.width - 1)) (neg : Bool) : decodeF f (f.signBit neg + m) = if neg then negV (decodeF f m) else decodeF f m := by
  have fields (x y : Nat) (same : x % 2 ^ (f.width - 1) = y % 2 ^ (f.width - 1)) : x / 2 ^ f.fbits % 2 ^ f.ebits = y / 2 ^ f.fbits % 2 ^ f.ebits ∧ x % 2 ^ f.fbits = y % 2 ^ f.fbits := by
    rw [width_pred, pow_add] at same
    refine ⟨?_, ?_⟩
    · rw [← Nat.mod_mul_right_div_self, same, Nat.mod_mul_right_div_self]
    · rw [← Nat.mod_mul_right_mod x _ (2 ^ f.ebits), same, Nat.mod_mul_right_mod]
  obtain ⟨exponent, fraction⟩ := fields (f.signBit neg + m) m (by rw [signed_mod hm, Nat.mod_eq_of_lt hm])
  unfold decodeF
  simp only [signed_testBit hm, Nat.testBit_lt_two_pow hm, exponent, fraction]
  cases neg with
  | false => rfl
  | true =>
    rw [if_pos rfl]
    split
    · split <;> rfl
    · split <;> rfl

/-! ### Values up to 1 -/

theorem scaleFrac_le {n : Nat} {k : Int} (hk : k ≤ 0) (le : n ≤ 2 ^ (-k).toNat) : (scaleFrac n 1 k).1 ≤ (scaleFrac n 1 k).2 := by
  unfold scaleFrac
  split
  · next pos =>
    obtain rfl : k = 0 := by omega
    simpa using le
  · simpa using le

theorem one_lt_sign (hf : f.Binary) : f.oneBits < 2 ^ (f.width - 1) := hf.one_le.trans_lt hf.max_lt

/-- A magnitude up to the bits of 1 is a value up to 1. -/
theorem decodeF_le_one (hf : f.Binary) (hm : m ≤ f.oneBits) : ∃ n d, decodeF f m = .fin false n d ∧ n ≤ d := by
  have small := hm.trans_lt (one_lt_sign hf)
  have exponent : m / 2 ^ f.fbits % 2 ^ f.ebits = m / 2 ^ f.fbits :=
    Nat.mod_eq_of_lt (Nat.div_lt_of_lt_mul (by rwa [← pow_add, ← width_pred]))
  have low : m / 2 ^ f.fbits ≤ f.bias := Nat.div_le_of_le_mul (by rwa [mul_comm])
  have parts := Nat.div_add_mod' m (2 ^ f.fbits)
  have fraction : m % 2 ^ f.fbits < 2 ^ f.fbits := Nat.mod_lt _ (Nat.two_pow_pos _)
  have bias := hf.bias_ge
  have finite : ((m / 2 ^ f.fbits == 2 ^ f.ebits - 1) = false) := beq_eq_false_iff_ne.2 (low.trans_lt hf.bias_lt).ne
  generalize field : m / 2 ^ f.fbits = e at exponent low parts finite
  refine ⟨_, _, ?_, scaleFrac_le (n := if e = 0 then m % 2 ^ f.fbits else 2 ^ f.fbits + m % 2 ^ f.fbits) (k := (if e = 0 then 1 else (e : Int)) - f.bias - f.fbits) ?_ ?_⟩
  · unfold decodeF
    simp only [field, exponent, finite, Bool.and_false, Fmt.isE4m3, hf.ieee, Bool.not_true, Bool.false_and, Bool.false_eq_true, if_false, Nat.testBit_lt_two_pow small]
  · split <;> omega
  · have top : e = f.bias → m % 2 ^ f.fbits = 0 := by
      rintro rfl
      unfold Fmt.oneBits at hm
      omega
    rcases eq_or_lt_of_le low with one | below
    · rw [if_neg (by omega), if_neg (by omega), top one, one, show (-((f.bias : Int) - f.bias - f.fbits)).toNat = f.fbits by omega]
      exact le_rfl
    · calc (if e = 0 then m % 2 ^ f.fbits else 2 ^ f.fbits + m % 2 ^ f.fbits) ≤ 2 ^ (f.fbits + 1) := by
            rw [pow_succ]
            split <;> omega
        _ ≤ _ := Nat.pow_le_pow_right (by decide) (by split <;> omega)

end BinaryFormats
end Sys2Proof.Machine

namespace Sys2Proof.Machine

section Positions

/-! ### The order of encodings (04 R72) -/

variable {f : Fmt} {m : Nat}

theorem ordinalF_signed (hm : m < 2 ^ (f.width - 1)) (neg : Bool) : ordinalF f (f.signBit neg + m) = if neg then -(m : Int) else m := by
  unfold ordinalF
  rw [signed_testBit hm, signed_mod hm]
  cases neg with
  | false => simp
  | true => rfl

theorem ofOrdinalF_eq (f : Fmt) (k : Int) : ofOrdinalF f k = f.signBit (decide (k < 0)) + k.natAbs := by
  unfold ofOrdinalF
  split
  · next neg => rw [decide_eq_true neg]
  · next pos => rw [decide_eq_false pos, signBit_false, Nat.zero_add]

theorem ordinalF_ofOrdinalF {k : Int} (hk : k.natAbs < 2 ^ (f.width - 1)) : ordinalF f (ofOrdinalF f k) = k := by
  rw [ofOrdinalF_eq, ordinalF_signed hk]
  by_cases neg : k < 0
  · rw [decide_eq_true neg, if_pos rfl]
    omega
  · rw [decide_eq_false neg, if_neg Bool.false_ne_true]
    omega

theorem natAbs_ordinalF_lt {x : Nat} (hx : x < 2 ^ f.width) : (ordinalF f x).natAbs < 2 ^ (f.width - 1) := by
  have small : x % 2 ^ (f.width - 1) < 2 ^ (f.width - 1) := Nat.mod_lt _ (Nat.two_pow_pos _)
  rw [eq_signed hx, ordinalF_signed small]
  split <;> omega

theorem infBits_lt (hf : f.Binary) (sat neg : Bool) : infBits f sat neg < 2 ^ f.width := by
  unfold infBits
  split
  · exact signed_lt hf.max_lt neg
  · rw [if_pos hf.ieee]
    exact signed_lt hf.inf_lt neg

/-- A rounded value is an encoding. -/
theorem encodeF_lt (hf : f.Binary) (mode : RMode) (sat : Bool) (v : FVal) : encodeF f mode sat v < 2 ^ f.width := by
  cases v with
  | nan => exact hf.nan_lt.trans_le (Nat.pow_le_pow_right (by decide) (Nat.sub_le ..))
  | inf neg => exact infBits_lt hf sat neg
  | fin neg n d =>
    rw [encodeF]
    split
    · exact signed_lt (m := 0) (Nat.two_pow_pos _) neg
    · dsimp only
      split
      · next fits => exact signed_lt (fits.trans_lt hf.max_lt) neg
      · exact infBits_lt hf _ neg

end Positions

section UnitValues

/-! ### Fixed-point values up to 1 (09 R201) -/

theorem fixOne_eq : fixOne = ((2 ^ fixBits : Nat) : Int) := by
  unfold fixOne
  push_cast
  rfl

theorem fixOne_pos : 0 < fixOne := by
  rw [fixOne_eq]
  exact_mod_cast Nat.two_pow_pos fixBits

/-- The magnitude bits of a fixed-point value in a mode. -/
def fixMag (f : Fmt) (mode : RMode) (v : Int) : Nat := if v = 0 then 0 else roundMag f mode (decide (v < 0)) v.natAbs (2 ^ fixBits)

/-- The encoding of a value up to 1, negative only where `nonneg` does not hold. -/
def Fmt.UnitBits (f : Fmt) (nonneg : Prop) (x : Nat) : Prop := ∃ neg m, m ≤ f.oneBits ∧ (nonneg → neg = false) ∧ x = f.signBit neg + m

variable {f : Fmt} {v : Int}

theorem natAbs_le_of_unit (lo : -fixOne ≤ v) (hi : v ≤ fixOne) : v.natAbs ≤ 2 ^ fixBits := by
  rw [fixOne_eq] at lo hi
  generalize 2 ^ fixBits = one at lo hi ⊢
  omega

theorem fixMag_le (hf : f.Binary) (mode : RMode) (lo : -fixOne ≤ v) (hi : v ≤ fixOne) : fixMag f mode v ≤ f.oneBits := by
  unfold fixMag
  split
  · exact Nat.zero_le _
  · next nonzero => exact roundMag_le_oneBits hf.bias_ge mode _ (Int.natAbs_pos.2 nonzero) (natAbs_le_of_unit lo hi)

/-- A value up to 1 does not overflow. -/
theorem encodeF_fixVal (hf : f.Binary) (mode : RMode) (lo : -fixOne ≤ v) (hi : v ≤ fixOne) :
    encodeF f mode false (fixVal v) = f.signBit (decide (v < 0)) + fixMag f mode v := by
  have small := fixMag_le hf mode lo hi
  unfold fixMag at small ⊢
  rw [fixVal, encodeF]
  by_cases zero : v = 0
  · rw [if_pos zero, if_pos (Int.natAbs_eq_zero.2 zero), Nat.add_zero]
  · rw [if_neg zero] at small ⊢
    rw [if_neg fun none => zero (Int.natAbs_eq_zero.1 none)]
    exact if_pos (small.trans hf.one_le)

theorem unitBits_encodeF (hf : f.Binary) (mode : RMode) (lo : -fixOne ≤ v) (hi : v ≤ fixOne) : f.UnitBits (0 ≤ v) (encodeF f mode false (fixVal v)) :=
  ⟨_, _, fixMag_le hf mode lo hi, fun nonneg => decide_eq_false (not_lt.2 nonneg), encodeF_fixVal hf mode lo hi⟩

theorem ordinalF_fixVal (hf : f.Binary) (mode : RMode) (lo : -fixOne ≤ v) (hi : v ≤ fixOne) :
    ordinalF f (encodeF f mode false (fixVal v)) = if v < 0 then -(fixMag f mode v : Int) else fixMag f mode v := by
  rw [encodeF_fixVal hf mode lo hi, ordinalF_signed ((fixMag_le hf mode lo hi).trans_lt (one_lt_sign hf))]
  simp only [decide_eq_true_eq]

/-- The neighbour below a value does not exceed the neighbour above a greater one. -/
theorem ordinalF_down_le_up (hf : f.Binary) (lo : -fixOne ≤ v) (hi : v + 1 ≤ fixOne) :
    ordinalF f (encodeF f .rdn false (fixVal v)) ≤ ordinalF f (encodeF f .rup false (fixVal (v + 1))) := by
  have pos : 0 < 2 ^ fixBits := Nat.two_pow_pos fixBits
  rw [ordinalF_fixVal hf .rdn lo (by omega), ordinalF_fixVal hf .rup (by omega) hi]
  rcases lt_trichotomy v 0 with neg | rfl | nonneg
  · rw [if_pos neg]
    by_cases last : v + 1 = 0
    · rw [if_neg (by omega)]
      omega
    · have up : fixMag f .rup (v + 1) = gridBelow f (v + 1).natAbs (2 ^ fixBits) := by
        rw [fixMag, if_neg last]
        exact roundMag_down (fun _ _ _ => by simp [roundsUp, show v + 1 < 0 by omega]) _ _
      have down : fixMag f .rdn v = roundMag f .rdn (decide (v < 0)) v.natAbs (2 ^ fixBits) := if_neg neg.ne
      rw [if_pos (by omega), up, down]
      have below := gridBelow_mono (f := f) (num := (v + 1).natAbs) (num' := v.natAbs) (by omega) pos (by omega)
      have above := gridBelow_le_roundMag f .rdn (decide (v < 0)) v.natAbs (2 ^ fixBits)
      omega
  · rw [if_neg (lt_irrefl 0), fixMag, if_pos rfl, if_neg (by omega)]
    exact Int.natCast_nonneg _
  · have down : fixMag f .rdn v = gridBelow f v.natAbs (2 ^ fixBits) := by
      rw [fixMag, if_neg nonneg.ne']
      exact roundMag_down (fun _ _ _ => by simp [roundsUp, nonneg.le]) _ _
    have up : fixMag f .rup (v + 1) = roundMag f .rup (decide (v + 1 < 0)) (v + 1).natAbs (2 ^ fixBits) := if_neg (by omega)
    rw [if_neg (by omega), if_neg (by omega), up, down]
    have below := gridBelow_mono (f := f) (num := v.natAbs) (num' := (v + 1).natAbs) (by omega) pos (by omega)
    have above := gridBelow_le_roundMag f .rup (decide (v + 1 < 0)) (v + 1).natAbs (2 ^ fixBits)
    omega

theorem ordinalF_unit (hf : f.Binary) (mode : RMode) (lo : -fixOne ≤ v) (hi : v ≤ fixOne) :
    -(f.oneBits : Int) ≤ ordinalF f (encodeF f mode false (fixVal v)) ∧ ordinalF f (encodeF f mode false (fixVal v)) ≤ f.oneBits ∧
      (0 ≤ v → 0 ≤ ordinalF f (encodeF f mode false (fixVal v))) := by
  have small := fixMag_le hf mode lo hi
  rw [ordinalF_fixVal hf mode lo hi]
  split <;> omega

theorem unitBits_ofOrdinalF {k : Int} {nonneg : Prop} (lo : -(f.oneBits : Int) ≤ k) (hi : k ≤ f.oneBits) (sign : nonneg → 0 ≤ k) : f.UnitBits nonneg (ofOrdinalF f k) :=
  ⟨_, _, by omega, fun h => decide_eq_false (not_lt.2 (sign h)), ofOrdinalF_eq f k⟩

theorem oneBits_value (hf : f.Binary) {nonneg : Prop} {x : Nat} (unit : f.UnitBits nonneg x) {neg : Bool} {n d : Nat} (value : decodeF f x = .fin neg n d) :
    n ≤ d ∧ (nonneg → neg = false) := by
  obtain ⟨neg', m, hm, sign, rfl⟩ := unit
  obtain ⟨n', d', magnitude, le⟩ := decodeF_le_one hf hm
  rw [decodeF_signed (hm.trans_lt (one_lt_sign hf)), magnitude] at value
  cases neg' with
  | false =>
    cases value
    exact ⟨le, fun _ => rfl⟩
  | true =>
    cases value
    exact ⟨le, fun h => absurd (sign h) (by decide)⟩

end UnitValues

section Choices

/-! ### The part's choice within a bound (09 R201, R202) -/

variable {f : Fmt}

theorem choice_between {a b : Int} (le : a ≤ b) (pick : Nat) : a ≤ a + (pick : Int) % (b - a + 1) ∧ a + (pick : Int) % (b - a + 1) ≤ b := by
  have low := Int.emod_nonneg (pick : Int) (show b - a + 1 ≠ 0 by omega)
  have high := Int.emod_lt_of_pos (pick : Int) (show 0 < b - a + 1 by omega)
  omega

/-- A chosen encoding stands between the two it is chosen from. -/
theorem ordinalF_choice {x y : Nat} (hx : x < 2 ^ f.width) (hy : y < 2 ^ f.width) (le : ordinalF f x ≤ ordinalF f y) (pick : Nat) :
    let k := ordinalF f (ofOrdinalF f (ordinalF f x + (pick : Int) % (ordinalF f y - ordinalF f x + 1)))
    ordinalF f x ≤ k ∧ k ≤ ordinalF f y := by
  obtain ⟨low, high⟩ := choice_between le pick
  have first := natAbs_ordinalF_lt hx
  have last := natAbs_ordinalF_lt hy
  rw [ordinalF_ofOrdinalF (by omega)]
  exact ⟨low, high⟩

theorem unitBits_choice {a b : Int} {nonneg : Prop} (lo : -(f.oneBits : Int) ≤ a) (hi : b ≤ f.oneBits) (sign : nonneg → 0 ≤ a) (le : a ≤ b) (pick : Nat) :
    f.UnitBits nonneg (ofOrdinalF f (a + (pick : Int) % (b - a + 1))) := by
  obtain ⟨low, high⟩ := choice_between le pick
  exact unitBits_ofOrdinalF (by omega) (by omega) fun h => (sign h).trans low

theorem unitBits_pickBetween (hf : f.Binary) {lo hi : Int} (loLow : -fixOne ≤ lo) (loHigh : lo ≤ fixOne) (hiLow : -fixOne ≤ hi) (hiHigh : hi ≤ fixOne) (pick : Nat) :
    f.UnitBits (0 ≤ lo) (pickBetween f lo hi pick) := by
  obtain ⟨low, -, sign⟩ := ordinalF_unit hf .rup loLow loHigh
  obtain ⟨-, high, -⟩ := ordinalF_unit hf .rdn hiLow hiHigh
  unfold pickBetween
  dsimp only
  split
  · next le => exact unitBits_choice low high sign le pick
  · exact unitBits_encodeF hf .rne loLow loHigh

variable (op : Nat) (pick n d : Nat) (neg : Bool)

theorem approxFinite_f32 : approxFinite op 8#4 pick neg n d =
    (let v := approxExact op neg n d
     pickBetween f32 (approxLimits op (v - approxBound op v n d) (v + approxBound op v n d)).1
      (approxLimits op (v - approxBound op v n d) (v + approxBound op v n d)).2 pick) := by
  unfold approxFinite
  dsimp only
  rw [if_pos (beq_self_eq_true _)]
  generalize approxLimits op _ _ = k
  rfl

theorem approxFinite_narrow {ty : BitVec 4} (narrow : ty = 9#4 ∨ ty = 10#4) : approxFinite op ty pick neg n d =
    (let f := fmtOf ty
     let v := approxExact op neg n d
     if approxOnGrid op n d then encodeF f .rne false (fixVal v)
     else ofOrdinalF f (ordinalF f (encodeF f .rdn false (fixVal v)) +
      (pick : Int) % (ordinalF f (encodeF f .rup false (fixVal (v + 1))) - ordinalF f (encodeF f .rdn false (fixVal v)) + 1))) := by
  have other : ¬(ty == 8#4) = true := by rcases narrow with rfl | rfl <;> decide
  unfold approxFinite
  dsimp only
  rw [if_neg other]

/-- Where the exact value lies in [−1, 1) and the bounds of the choice in [−1, 1], so does the choice. -/
theorem unitBits_approxFinite {ty : BitVec 4} (hty : ty ∈ [8#4, 9#4, 10#4]) {nonneg : Prop}
    (lo : -fixOne ≤ approxExact op neg n d) (hi : approxExact op neg n d + 1 ≤ fixOne) (sign : nonneg → 0 ≤ approxExact op neg n d)
    (limits : let v := approxExact op neg n d; let k := approxLimits op (v - approxBound op v n d) (v + approxBound op v n d);
      -fixOne ≤ k.1 ∧ k.1 ≤ fixOne ∧ -fixOne ≤ k.2 ∧ k.2 ≤ fixOne ∧ (nonneg → 0 ≤ k.1)) :
    (fmtOf ty).UnitBits nonneg (approxFinite op ty pick neg n d) := by
  have hf := binary_fmtOf hty
  by_cases wide : ty = 8#4
  · subst wide
    obtain ⟨loLow, loHigh, hiLow, hiHigh, limitSign⟩ := limits
    obtain ⟨neg', m, hm, sign', value⟩ := unitBits_pickBetween hf loLow loHigh hiLow hiHigh pick
    exact ⟨neg', m, hm, fun h => sign' (limitSign h), (approxFinite_f32 ..).trans value⟩
  · have narrow : ty = 9#4 ∨ ty = 10#4 := by simpa [wide] using hty
    rw [approxFinite_narrow op pick n d neg narrow]
    dsimp only
    obtain ⟨low, -, down⟩ := ordinalF_unit hf .rdn lo (by omega)
    obtain ⟨-, high, -⟩ := ordinalF_unit hf .rup (by omega) hi
    split
    · obtain ⟨neg', m, hm, sign', value⟩ := unitBits_encodeF hf .rne lo (by omega)
      exact ⟨neg', m, hm, fun h => sign' (sign h), value⟩
    · exact unitBits_choice low high (fun h => down (sign h)) (ordinalF_down_le_up hf lo hi) pick

theorem fixUnit_range (x : Int) : -fixOne ≤ fixUnit x ∧ fixUnit x + 1 ≤ fixOne := by
  have := fixOne_pos
  unfold fixUnit
  omega

theorem fixShift_nonneg {x : Int} (hx : 0 ≤ x) (k : Int) : 0 ≤ fixShift x k := by
  unfold fixShift
  split
  · exact Int.mul_nonneg hx (by positivity)
  · exact Int.ediv_nonneg hx (by positivity)

theorem approxBound_nonneg {op : Nat} (h : op ∈ [0x056, 0x057, 0x058, 0x059]) (v : Int) (n d : Nat) : 0 ≤ approxBound op v n d := by
  have unit (k : Int) : 0 ≤ fixShift fixOne k := fixShift_nonneg fixOne_pos.le k
  simp only [List.mem_cons, List.not_mem_nil, or_false] at h
  rcases h with rfl | rfl | rfl | rfl
  · exact unit (-21)
  · exact unit (-21)
  · exact le_max_of_le_right (unit (-24))
  · exact le_max_of_le_right (unit (-24))

/-- Sine, cosine and hyperbolic tangent stay within [−1, 1]. -/
theorem unitBits_approx {op : Nat} (h : op ∈ [0x056, 0x057, 0x058]) {ty : BitVec 4} (hty : ty ∈ [8#4, 9#4, 10#4]) :
    (fmtOf ty).UnitBits False (approxFinite op ty pick neg n d) := by
  obtain ⟨x, exact_⟩ : ∃ x, approxExact op neg n d = fixUnit x := by
    simp only [List.mem_cons, List.not_mem_nil, or_false] at h
    rcases h with rfl | rfl | rfl <;> exact ⟨_, rfl⟩
  have limits (lo hi : Int) : approxLimits op lo hi = (max lo (-fixOne), min hi fixOne) := by
    simp only [List.mem_cons, List.not_mem_nil, or_false] at h
    rcases h with rfl | rfl | rfl <;> rfl
  obtain ⟨lo, hi⟩ := fixUnit_range x
  have bound := approxBound_nonneg (op := op) (by simp at h ⊢; omega) (fixUnit x) n d
  refine unitBits_approxFinite op pick n d neg hty (by rw [exact_]; exact lo) (by rw [exact_]; exact hi) False.elim ?_
  dsimp only
  rw [exact_, limits]
  refine ⟨le_max_right _ _, ?_, ?_, min_le_right _ _, False.elim⟩ <;> dsimp only <;> omega

/-- The logistic function stays within [0, 1]. -/
theorem unitBits_logistic {ty : BitVec 4} (hty : ty ∈ [8#4, 9#4, 10#4]) : (fmtOf ty).UnitBits True (approxFinite 0x059 ty pick neg n d) := by
  obtain ⟨x, exact_⟩ : ∃ x, approxExact 0x059 neg n d = max 0 (fixUnit x) := ⟨_, rfl⟩
  have limits (lo hi : Int) : approxLimits 0x059 lo hi = (max lo 0, min hi fixOne) := rfl
  obtain ⟨lo, hi⟩ := fixUnit_range x
  have one := fixOne_pos
  have bound := approxBound_nonneg (op := 0x059) (by decide) (max 0 (fixUnit x)) n d
  refine unitBits_approxFinite 0x059 pick n d neg hty (by rw [exact_]; omega) (by rw [exact_]; omega) (fun _ => by rw [exact_]; omega) ?_
  dsimp only
  rw [exact_, limits]
  refine ⟨?_, ?_, ?_, min_le_right _ _, fun _ => le_max_right _ _⟩ <;> dsimp only <;> omega

end Choices
end Sys2Proof.Machine

namespace Sys2Proof.Machine

section ApproximatedFunctions

/-! ### The seven functions by the value of their argument (09 R201) -/

theorem ilog2_eq_of_value {n d : Nat} {z : Int} (hn : 0 < n) (hd : 0 < d) (value : (n : ℚ) / d = 2 ^ z) : ilog2 n d = z := by
  rw [ilog2_eq_log hn hd, value]
  exact_mod_cast Int.log_zpow (R := ℚ) (b := 2) (by decide) z

theorem ilog2_mul {d : Nat} (hd : 0 < d) (k : Nat) : ilog2 (d * 2 ^ k) d = k := by
  refine ilog2_eq_of_value (Nat.mul_pos hd (Nat.two_pow_pos k)) hd ?_
  have : (d : ℚ) ≠ 0 := by exact_mod_cast hd.ne'
  push_cast
  rw [mul_div_cancel_left₀ _ this, zpow_natCast]

theorem ilog2_div {n : Nat} (hn : 0 < n) (k : Nat) : ilog2 n (n * 2 ^ k) = -(k : Int) := by
  refine ilog2_eq_of_value hn (Nat.mul_pos hn (Nat.two_pow_pos k)) ?_
  have : (n : ℚ) ≠ 0 := by exact_mod_cast hn.ne'
  push_cast
  rw [zpow_neg, zpow_natCast, div_mul_eq_div_div, div_self this, one_div]

theorem scaleFrac_down (n d k : Nat) : scaleFrac n d (-(k : Int)) = (n, d * 2 ^ k) := by
  unfold scaleFrac
  split
  · obtain rfl : k = 0 := by omega
    simp
  · rw [neg_neg, Int.toNat_natCast]

theorem scaleFrac_up (n d k : Nat) : scaleFrac n d (k : Int) = (n * 2 ^ k, d) := by
  rw [scaleFrac, if_pos (Int.natCast_nonneg k), Int.toNat_natCast]

variable {ty : BitVec 4} {x : Nat}

theorem approxF_nan (value : decodeF (fmtOf ty) x = .nan) (op : Nat) : approxF op ty x = (fmtOf ty).nanBits := by
  unfold approxF
  simp only [value]

section Infinite
variable {neg : Bool} (value : decodeF (fmtOf ty) x = .inf neg)
include value

theorem approxF_frsq_inf : approxF 0x051 ty x = if neg then (fmtOf ty).nanBits else 0 := by
  unfold approxF
  simp only [value]
theorem approxF_fexp2_inf : approxF 0x054 ty x = if neg then 0 else infBits (fmtOf ty) false false := by
  unfold approxF
  simp only [value]
theorem approxF_flog2_inf : approxF 0x055 ty x = if neg then (fmtOf ty).nanBits else infBits (fmtOf ty) false false := by
  unfold approxF
  simp only [value]
theorem approxF_fsin_inf : approxF 0x056 ty x = (fmtOf ty).nanBits := by
  unfold approxF
  simp only [value]
theorem approxF_fcos_inf : approxF 0x057 ty x = (fmtOf ty).nanBits := by
  unfold approxF
  simp only [value]
theorem approxF_ftanh_inf : approxF 0x058 ty x = (fmtOf ty).signBit neg + encodeF (fmtOf ty) .rne false (intV 1) := by
  unfold approxF
  simp only [value]
theorem approxF_fsigm_inf : approxF 0x059 ty x = if neg then 0 else encodeF (fmtOf ty) .rne false (intV 1) := by
  unfold approxF
  simp only [value]
end Infinite

/-- The choice of the part at x. -/
abbrev chosenAt (op : Nat) (ty : BitVec 4) (x : Nat) : Nat := Config.approxPick op ty.toNat (BitVec.ofNat 64 x)

section Finite
variable {neg : Bool} {n d : Nat} (value : decodeF (fmtOf ty) x = .fin neg n d)
include value

theorem approxF_frsq_fin : approxF 0x051 ty x =
    if n = 0 then infBits (fmtOf ty) false neg else if neg then (fmtOf ty).nanBits else approxFinite 0x051 ty (chosenAt 0x051 ty x) neg n d := by
  unfold approxF
  simp only [value]

theorem approxF_fexp2_fin : approxF 0x054 ty x =
    if n % d = 0 ∧ n / d ≤ (fmtOf ty).bias + (if neg then (fmtOf ty).fbits - 1 else 0) then
      encodeF (fmtOf ty) .rne false (scaleV (intV 1) ((if neg then -1 else 1) * ((n / d : Nat) : Int)))
    else if !neg && decide (((fmtOf ty).bias + 1) * d ≤ n) then infBits (fmtOf ty) false false
    else approxFinite 0x054 ty (chosenAt 0x054 ty x) neg n d := by
  unfold approxF
  simp only [value]

theorem approxF_flog2_fin : approxF 0x055 ty x =
    if n = 0 then infBits (fmtOf ty) false true else if neg then (fmtOf ty).nanBits
    else if (scaleFrac n d (-ilog2 n d)).1 = (scaleFrac n d (-ilog2 n d)).2 then encodeF (fmtOf ty) .rne false (intV (ilog2 n d))
    else approxFinite 0x055 ty (chosenAt 0x055 ty x) neg n d := by
  unfold approxF
  simp only [value]

theorem approxF_fsin_fin : approxF 0x056 ty x = if n = 0 then x else approxFinite 0x056 ty (chosenAt 0x056 ty x) neg n d := by
  unfold approxF
  simp only [value]

theorem approxF_fcos_fin : approxF 0x057 ty x =
    if n = 0 then encodeF (fmtOf ty) .rne false (intV 1) else approxFinite 0x057 ty (chosenAt 0x057 ty x) neg n d := by
  unfold approxF
  simp only [value]

theorem approxF_ftanh_fin : approxF 0x058 ty x = if n = 0 ∧ ty ≠ 8#4 then x else
    (fmtOf ty).signBit neg ^^^ approxFinite 0x058 ty (chosenAt 0x058 ty (x % 2 ^ ((fmtOf ty).width - 1))) false n d := by
  unfold approxF
  simp only [value]

theorem approxF_fsigm_fin : approxF 0x059 ty x = approxFinite 0x059 ty (chosenAt 0x059 ty x) neg n d := by
  unfold approxF
  simp only [value]
end Finite

/-! ### Special values -/

theorem approxF_special_inf (value : decodeF (fmtOf ty) x = .inf false) :
    approxF 0x051 ty x = 0 ∧ approxF 0x054 ty x = infBits (fmtOf ty) false false ∧ approxF 0x055 ty x = infBits (fmtOf ty) false false ∧
      approxF 0x056 ty x = (fmtOf ty).nanBits ∧ approxF 0x057 ty x = (fmtOf ty).nanBits ∧ approxF 0x058 ty x = encodeF (fmtOf ty) .rne false (intV 1) ∧
      approxF 0x059 ty x = encodeF (fmtOf ty) .rne false (intV 1) :=
  ⟨approxF_frsq_inf value, approxF_fexp2_inf value, approxF_flog2_inf value, approxF_fsin_inf value, approxF_fcos_inf value,
    (approxF_ftanh_inf value).trans (Nat.zero_add _), approxF_fsigm_inf value⟩

theorem approxF_special_neg_inf (value : decodeF (fmtOf ty) x = .inf true) :
    approxF 0x051 ty x = (fmtOf ty).nanBits ∧ approxF 0x054 ty x = 0 ∧ approxF 0x055 ty x = (fmtOf ty).nanBits ∧ approxF 0x056 ty x = (fmtOf ty).nanBits ∧
      approxF 0x057 ty x = (fmtOf ty).nanBits ∧ approxF 0x059 ty x = 0 :=
  ⟨approxF_frsq_inf value, approxF_fexp2_inf value, approxF_flog2_inf value, approxF_fsin_inf value, approxF_fcos_inf value, approxF_fsigm_inf value⟩

theorem approxF_special_zero {neg : Bool} {d : Nat} (value : decodeF (fmtOf ty) x = .fin neg 0 d) :
    approxF 0x051 ty x = infBits (fmtOf ty) false neg ∧ approxF 0x055 ty x = infBits (fmtOf ty) false true ∧ approxF 0x056 ty x = x ∧
      approxF 0x057 ty x = encodeF (fmtOf ty) .rne false (intV 1) ∧ (ty ≠ 8#4 → approxF 0x058 ty x = x) ∧
      approxF 0x054 ty x = encodeF (fmtOf ty) .rne false (scaleV (intV 1) 0) := by
  refine ⟨approxF_frsq_fin value, approxF_flog2_fin value, approxF_fsin_fin value, approxF_fcos_fin value,
    fun narrow => (approxF_ftanh_fin value).trans (if_pos ⟨rfl, narrow⟩), (approxF_fexp2_fin value).trans ?_⟩
  rw [if_pos ⟨Nat.zero_mod d, by rw [Nat.zero_div]; exact Nat.zero_le _⟩, Nat.zero_div, Nat.cast_zero, mul_zero]

theorem approxF_fexp2_overflow {n d : Nat} (value : decodeF (fmtOf ty) x = .fin false n d) (hd : 0 < d) (large : ((fmtOf ty).bias + 1) * d ≤ n) :
    approxF 0x054 ty x = infBits (fmtOf ty) false false := by
  have beyond : (fmtOf ty).bias + 1 ≤ n / d := (Nat.le_div_iff_mul_le hd).2 large
  rw [approxF_fexp2_fin value, if_neg (by simp only [Bool.false_eq_true, if_false]; omega), if_pos (by simp [large])]

theorem approxF_flog2_power {n d k : Nat} (value : decodeF (fmtOf ty) x = .fin false n d) (hn : 0 < n) (hd : 0 < d) :
    (n = d * 2 ^ k → approxF 0x055 ty x = encodeF (fmtOf ty) .rne false (intV k)) ∧
      (d = n * 2 ^ k → approxF 0x055 ty x = encodeF (fmtOf ty) .rne false (intV (-(k : Int)))) := by
  constructor
  · rintro rfl
    rw [approxF_flog2_fin value, if_neg hn.ne', if_neg Bool.false_ne_true, ilog2_mul hd, scaleFrac_down, if_pos rfl]
  · rintro rfl
    rw [approxF_flog2_fin value, if_neg hn.ne', if_neg Bool.false_ne_true, ilog2_div hn, neg_neg, scaleFrac_up, if_pos rfl]

/-! ### Ranges and oddness -/

section Ranges
variable (hty : ty ∈ [8#4, 9#4, 10#4])
include hty

theorem encodeF_one : encodeF (fmtOf ty) .rne false (intV 1) = (fmtOf ty).oneBits := by
  simp only [List.mem_cons, List.not_mem_nil, or_false] at hty
  rcases hty with rfl | rfl | rfl <;> decide +kernel

theorem decodeF_nanBits : decodeF (fmtOf ty) (fmtOf ty).nanBits = .nan := by
  simp only [List.mem_cons, List.not_mem_nil, or_false] at hty
  rcases hty with rfl | rfl | rfl <;> decide +kernel

theorem unitBits_one (nonneg : Prop) : (fmtOf ty).UnitBits nonneg (encodeF (fmtOf ty) .rne false (intV 1)) :=
  ⟨false, _, le_rfl, fun _ => rfl, by rw [encodeF_one hty, signBit_false, Nat.zero_add]⟩

omit hty in
theorem unitBits_xor_signBit {f : Fmt} (hf : f.Binary) {y : Nat} (unit : f.UnitBits False y) (neg : Bool) : f.UnitBits False (f.signBit neg ^^^ y) := by
  obtain ⟨neg', m, hm, -, rfl⟩ := unit
  exact ⟨_, m, hm, False.elim, signBit_xor_signed (hm.trans_lt (one_lt_sign hf)) neg neg'⟩

/-- A finite sine, cosine or hyperbolic tangent is at most 1. -/
theorem approxF_range {op : Nat} (h : op ∈ [0x056, 0x057, 0x058]) (number : decodeF (fmtOf ty) x ≠ .nan) {neg : Bool} {n d : Nat}
    (result : decodeF (fmtOf ty) (approxF op ty x) = .fin neg n d) : n ≤ d := by
  have hf := binary_fmtOf hty
  have ofUnit {y : Nat} (unit : (fmtOf ty).UnitBits False y) (eq : approxF op ty x = y) : n ≤ d := (oneBits_value hf unit (eq ▸ result)).1
  have ofNan (eq : approxF op ty x = (fmtOf ty).nanBits) : n ≤ d := by
    rw [eq, decodeF_nanBits hty] at result
    cases result
  have ofZero {a : Bool} {e : Nat} (value : decodeF (fmtOf ty) x = .fin a 0 e) (eq : approxF op ty x = x) : n ≤ d := by
    rw [eq, value] at result
    cases result
    exact Nat.zero_le _
  cases value : decodeF (fmtOf ty) x with
  | nan => exact absurd value number
  | inf a =>
    simp only [List.mem_cons, List.not_mem_nil, or_false] at h
    rcases h with rfl | rfl | rfl
    · exact ofNan (approxF_fsin_inf value)
    · exact ofNan (approxF_fcos_inf value)
    · refine ofUnit ?_ (approxF_ftanh_inf value)
      exact ⟨a, _, le_rfl, False.elim, by rw [encodeF_one hty]⟩
  | fin a k e =>
    have unit (pick : Nat) (neg : Bool) := unitBits_approx pick k e neg h hty
    simp only [List.mem_cons, List.not_mem_nil, or_false] at h
    rcases h with rfl | rfl | rfl
    · by_cases zero : k = 0
      · exact ofZero (zero ▸ value) ((approxF_fsin_fin value).trans (if_pos zero))
      · exact ofUnit (unit _ _) ((approxF_fsin_fin value).trans (if_neg zero))
    · by_cases zero : k = 0
      · exact ofUnit (unitBits_one hty False) ((approxF_fcos_fin value).trans (if_pos zero))
      · exact ofUnit (unit _ _) ((approxF_fcos_fin value).trans (if_neg zero))
    · by_cases zero : k = 0 ∧ ty ≠ 8#4
      · exact ofZero (zero.1 ▸ value) ((approxF_ftanh_fin value).trans (if_pos zero))
      · exact ofUnit (unitBits_xor_signBit hf (unit _ _) a) ((approxF_ftanh_fin value).trans (if_neg zero))

/-- A logistic value is at least 0 and at most 1. -/
theorem approxF_logistic_range (number : decodeF (fmtOf ty) x ≠ .nan) {neg : Bool} {n d : Nat}
    (result : decodeF (fmtOf ty) (approxF 0x059 ty x) = .fin neg n d) : n ≤ d ∧ (neg = true → n = 0) := by
  have hf := binary_fmtOf hty
  have ofUnit {y : Nat} (unit : (fmtOf ty).UnitBits True y) (eq : approxF 0x059 ty x = y) : n ≤ d ∧ (neg = true → n = 0) := by
    obtain ⟨le, sign⟩ := oneBits_value hf unit (eq ▸ result)
    exact ⟨le, fun negative => absurd ((sign trivial).symm.trans negative) (by decide)⟩
  cases value : decodeF (fmtOf ty) x with
  | nan => exact absurd value number
  | inf a =>
    refine ofUnit ?_ (approxF_fsigm_inf value)
    split
    · exact ⟨false, 0, Nat.zero_le _, fun _ => rfl, rfl⟩
    · exact unitBits_one hty True
  | fin a k e => exact ofUnit (unitBits_logistic _ k e a hty) (approxF_fsigm_fin value)

/-- The hyperbolic tangent is odd, bit for bit. -/
theorem approxF_ftanh_odd (hx : x < 2 ^ (fmtOf ty).width) (number : decodeF (fmtOf ty) x ≠ .nan) :
    approxF 0x058 ty (x ^^^ (fmtOf ty).signBit true) = approxF 0x058 ty x ^^^ (fmtOf ty).signBit true := by
  have hf := binary_fmtOf hty
  generalize sign : x.testBit ((fmtOf ty).width - 1) = s
  have hm : x % 2 ^ ((fmtOf ty).width - 1) < 2 ^ ((fmtOf ty).width - 1) := Nat.mod_lt _ (Nat.two_pow_pos _)
  have parts := eq_signed hx
  rw [sign] at parts
  have flipped : x ^^^ (fmtOf ty).signBit true = (fmtOf ty).signBit (!s) + x % 2 ^ ((fmtOf ty).width - 1) := by
    conv_lhs => rw [parts]
    rw [Nat.xor_comm, signBit_xor_signed hm, Bool.true_xor]
  have low : (x ^^^ (fmtOf ty).signBit true) % 2 ^ ((fmtOf ty).width - 1) = x % 2 ^ ((fmtOf ty).width - 1) := by rw [flipped, signed_mod hm]
  have negated : decodeF (fmtOf ty) (x ^^^ (fmtOf ty).signBit true) = negV (decodeF (fmtOf ty) x) := by
    conv_rhs => rw [parts]
    rw [flipped, decodeF_signed hm, decodeF_signed hm]
    cases s <;> cases decodeF (fmtOf ty) (x % 2 ^ ((fmtOf ty).width - 1)) <;> simp [negV]
  cases value : decodeF (fmtOf ty) x with
  | nan => exact absurd value number
  | inf a =>
    rw [value] at negated
    rw [approxF_ftanh_inf value, approxF_ftanh_inf negated, encodeF_one hty, Nat.xor_comm, signBit_xor_signed (one_lt_sign hf), Bool.true_xor]
  | fin a k e =>
    rw [value] at negated
    rw [approxF_ftanh_fin value, approxF_ftanh_fin negated, low]
    split
    · rfl
    · rw [Nat.xor_right_comm, signBit_xor_signBit, Bool.xor_true]
end Ranges

/-- What the part chooses lies within the bound of .f32, and at a neighbour of the exact value in the narrow formats. -/
theorem approxFinite_bounds (op pick n d : Nat) (neg : Bool) :
    let v := approxExact op neg n d
    let pos (ty : BitVec 4) : Int := ordinalF (fmtOf ty) (approxFinite op ty pick neg n d)
    let lo := ordinalF f32 (encodeF f32 .rup false (fixVal (approxLimits op (v - approxBound op v n d) (v + approxBound op v n d)).1))
    let hi := ordinalF f32 (encodeF f32 .rdn false (fixVal (approxLimits op (v - approxBound op v n d) (v + approxBound op v n d)).2))
    (lo ≤ hi → lo ≤ pos 8#4 ∧ pos 8#4 ≤ hi) ∧
    (∀ ty, ty = 9#4 ∨ ty = 10#4 →
      (approxOnGrid op n d = true → approxFinite op ty pick neg n d = encodeF (fmtOf ty) .rne false (fixVal v)) ∧
      (let below := ordinalF (fmtOf ty) (encodeF (fmtOf ty) .rdn false (fixVal v))
       let above := ordinalF (fmtOf ty) (encodeF (fmtOf ty) .rup false (fixVal (v + 1)))
       approxOnGrid op n d = false → below ≤ above → below ≤ pos ty ∧ pos ty ≤ above)) := by
  intro v pos lo hi
  refine ⟨fun le => ?_, fun ty narrow => ⟨fun grid => ?_, fun grid le => ?_⟩⟩
  · have hf : f32.Binary := binary_fmtOf (by decide)
    have choice := ordinalF_choice (encodeF_lt hf .rup false _) (encodeF_lt hf .rdn false _) le pick
    simp only [pos]
    rw [approxFinite_f32]
    dsimp only [pickBetween]
    rw [if_pos le]
    exact choice
  · rw [approxFinite_narrow op pick n d neg narrow]
    exact if_pos grid
  · have hf : (fmtOf ty).Binary := binary_fmtOf (by rcases narrow with rfl | rfl <;> decide)
    have choice := ordinalF_choice (encodeF_lt hf .rdn false _) (encodeF_lt hf .rup false _) le pick
    simp only [pos]
    rw [approxFinite_narrow op pick n d neg narrow]
    dsimp only
    rw [if_neg (by rw [grid]; decide)]
    exact choice

end ApproximatedFunctions
end Sys2Proof.Machine

namespace Sys2Proof.Machine

section LaneFloats

/-! ### Elementwise floating-point instructions (09 R198, R200) -/

variable {i : Instr} {h : LaneHead} {m : ModA} {n : Nat}

/-- A floating-point instruction computes its function in the type's format and the instruction's mode. -/
theorem laneComputes_of_floatA {g : Fmt → RMode → Nat → Nat → Nat → Nat} {k : Nat → Nat → Nat → Nat} (run : ∀ s, exec i s = floatA s h m n g)
    (agree : ∀ x y z, g (fmtOf h.ty) (rmodeOf m.rm) x y z = k x y z) : laneComputes i h m n k :=
  laneComputes_of_agree (f := g (fmtOf h.ty) (rmodeOf m.rm)) run fun x y z _ _ _ => agree x y z

/-- One of the two operands, or the canonical NaN for two NaNs. -/
theorem minmaxF_eq (f : Fmt) (mx : Bool) (x y : Nat) : minmaxF f mx x y =
    if decodeF f x = .nan ∧ decodeF f y = .nan then f.nanBits else if decodeF f x = .nan then y else if decodeF f y = .nan then x
      else if beforeV (decodeF f x) (decodeF f y) = mx then y else x := by
  unfold minmaxF
  by_cases hx : decodeF f x = .nan
  · by_cases hy : decodeF f y = .nan
    · simp [hx, hy, isNanV]
    · simp [hx, hy, isNanV_iff]
  · by_cases hy : decodeF f y = .nan
    · simp [hx, hy, isNanV_iff]
    · simp [hx, hy, isNanV_iff]

theorem minF_eq (f : Fmt) (x y : Nat) : minmaxF f false x y =
    if decodeF f x = .nan ∧ decodeF f y = .nan then f.nanBits else if decodeF f x = .nan then y else if decodeF f y = .nan then x
      else if beforeV (decodeF f x) (decodeF f y) = true then x else y := by
  rw [minmaxF_eq]
  cases beforeV (decodeF f x) (decodeF f y) <;> rfl

theorem maxF_eq (f : Fmt) (x y : Nat) : minmaxF f true x y =
    if decodeF f x = .nan ∧ decodeF f y = .nan then f.nanBits else if decodeF f x = .nan then y else if decodeF f y = .nan then x
      else if beforeV (decodeF f x) (decodeF f y) = true then y else x := minmaxF_eq f true x y

theorem laneComputes_of_approxA {op : Nat} (run : ∀ s, exec i s = approxA s h m op) : laneComputes i h m 1 (fun x _ _ => approxF op h.ty x) :=
  laneComputes_of_agree (f := fun x _ _ => approxF op h.ty x) run fun _ _ _ _ _ _ => rfl

end LaneFloats

/-- Settles O34: an instruction computes its model function on each element; the approximated functions by the kind of their argument, their ranges
from the rounding of values up to 1. -/
theorem laneFloatArithmetic : Obligations.LaneFloatArithmetic := by
  refine ⟨fun h m => ?_, fun h m => ?_, fun ty x => ?_, approxFinite_bounds⟩
  · intro f md V R
    refine ⟨laneComputes_of_floatA (g := fun f r x y _ => addF f r x y) (fun _ => rfl) fun _ _ _ => rfl,
      laneComputes_of_floatA (g := fun f r x y _ => subF f r x y) (fun _ => rfl) fun _ _ _ => rfl,
      laneComputes_of_floatA (g := fun f r x y _ => mulF f r x y) (fun _ => rfl) fun _ _ _ => rfl,
      laneComputes_of_floatA (g := fun f r x y z => fmaF f r x y z) (fun _ => rfl) fun _ _ _ => rfl,
      laneComputes_of_floatA (g := fun f r x y _ => encodeF f r false (divV (decodeF f x) (decodeF f y))) (fun _ => rfl) fun _ _ _ => rfl,
      laneComputes_of_floatA (g := fun f r x _ _ => encodeF f r false (divV (.fin false 1 1) (decodeF f x))) (fun _ => rfl) fun _ _ _ => rfl,
      laneComputes_of_floatA (g := fun f r x _ _ => encodeF f r false (sqrtV (decodeF f x))) (fun _ => rfl) fun _ _ _ => rfl,
      laneComputes_of_floatA (g := fun f _ x y _ => minmaxF f false x y) (fun _ => rfl) fun x y _ => minF_eq f x y,
      laneComputes_of_floatA (g := fun f _ x y _ => minmaxF f true x y) (fun _ => rfl) fun x y _ => maxF_eq f x y,
      laneComputes_of_floatA (g := fun f _ x _ _ => x % 2 ^ (f.width - 1)) (fun _ => rfl) fun _ _ _ => rfl,
      laneComputes_of_floatA (g := fun f _ x _ _ => x ^^^ 2 ^ (f.width - 1)) (fun _ => rfl) fun _ _ _ => rfl,
      laneComputes_of_floatA (g := fun f r x _ _ => roundIntegralF f r x) (fun _ => rfl) fun x _ _ => ?_,
      laneComputes_of_floatA (g := fun f _ x _ _ => classF f x) (fun _ => rfl) fun _ _ _ => rfl,
      laneComputes_of_floatA (g := fun f r x y _ => scaleF f r x y) (fun _ => rfl) fun _ _ _ => rfl⟩
    unfold roundIntegralF
    rfl
  · exact ⟨laneComputes_of_approxA fun _ => rfl, laneComputes_of_approxA fun _ => rfl, laneComputes_of_approxA fun _ => rfl, laneComputes_of_approxA fun _ => rfl,
      laneComputes_of_approxA fun _ => rfl, laneComputes_of_approxA fun _ => rfl, laneComputes_of_approxA fun _ => rfl⟩
  · intro f V
    refine ⟨approxF_nan, approxF_special_inf, approxF_special_neg_inf, fun neg d value => approxF_special_zero value,
      fun n d value hn => ⟨(approxF_frsq_fin value).trans ((if_neg hn.ne').trans (if_pos rfl)), (approxF_flog2_fin value).trans ((if_neg hn.ne').trans (if_pos rfl))⟩,
      fun neg n d value integral small => (approxF_fexp2_fin value).trans (if_pos ⟨integral, small⟩),
      fun n d value hd large => approxF_fexp2_overflow value hd large, fun n d k value hn hd => approxF_flog2_power value hn hd,
      fun hty hx number => ⟨approxF_ftanh_odd hty hx number, fun neg n d => ⟨fun result => ?_, approxF_logistic_range hty number⟩⟩⟩
    rcases result with sine | cosine | tangent
    · exact approxF_range hty (by decide) number sine
    · exact approxF_range hty (by decide) number cosine
    · exact approxF_range hty (by decide) number tangent

end Sys2Proof.Machine

namespace Sys2Proof.Machine

section CountedOnce

/-! ### Lanes and write requests counted once (02 R27; 06 R123) -/

theorem length_eraseDups_eq_card (l : List Nat) : l.eraseDups.length = l.toFinset.card := by
  induction hn : l.length using Nat.strong_induction_on generalizing l with
  | _ n ih =>
    cases l with
    | nil => rfl
    | cons a l =>
      have shorter : (l.filter (fun b => !b == a)).length < n := by
        rw [← hn]
        exact Nat.lt_succ_of_le (List.length_filter_le _ l)
      have absent : a ∉ (l.filter (fun b => !b == a)).toFinset := by simp
      rw [List.eraseDups_cons, List.length_cons, ih _ shorter _ rfl, ← Finset.card_insert_of_notMem absent]
      congr 1
      ext b
      by_cases hb : b = a <;> simp [hb]

theorem nodup_maskLanes (x : Mask) (n : Nat) : (maskLanes x n).Nodup := List.nodup_range.filter _

theorem lt_of_mem_maskLanes {x : Mask} {n l : Nat} (hl : l ∈ maskLanes x n) : l < 1024 := BitVec.lt_of_getLsbD (mem_maskLanes.1 hl).2

/-- A mask has 1,024 lanes. -/
theorem length_maskLanes_le (x : Mask) (n : Nat) : (maskLanes x n).length ≤ 1024 := by
  have := ((nodup_maskLanes x n).subperm (l₂ := List.range 1024) fun l hl => List.mem_range.2 (lt_of_mem_maskLanes hl)).length_le
  rwa [List.length_range] at this

/-- The slot of a lane of X is the number of lanes of X below it. -/
theorem slotOf_eq_countP {x : Mask} {n l : Nat} (hl : l ∈ maskLanes x n) : slotOf x l = (maskLanes x n).countP (fun k => decide (k < l)) := by
  obtain ⟨k, rfl⟩ := Nat.exists_eq_add_of_lt (mem_maskLanes.1 hl).1
  have below : (maskLanes x l).countP (fun k => decide (k < l)) = (maskLanes x l).length :=
    List.countP_eq_length.2 fun j hj => decide_eq_true (mem_maskLanes.1 hj).1
  have above : (((List.range (k + 1)).map (l + ·)).filter (fun j => x.getLsbD j)).countP (fun k => decide (k < l)) = 0 :=
    List.countP_eq_zero.2 fun j hj => by
      obtain ⟨i, -, rfl⟩ := List.mem_map.1 (List.mem_filter.1 hj).1
      simp
  rw [maskLanes, Nat.add_assoc, List.range_add, List.filter_append, List.countP_append, above, Nat.add_zero]
  exact below.symm

end CountedOnce

section LanePlans

/-! ### The accesses of an instruction's lanes (10 R221; 06 R123) -/

theorem planLanes_congr {f g : State → Nat → State × LaneAcc} : ∀ {lanes : List Nat}, (∀ l, l ∈ lanes → ∀ s, f s l = g s l) → ∀ p, planLanes f lanes p = planLanes g lanes p
  | [], _, _ => rfl
  | l :: rest, same, p => by
    have later (p : LanePlan) := planLanes_congr (fun k hk => same k (List.mem_cons_of_mem l hk)) p
    rw [planLanes, planLanes, same l List.mem_cons_self p.s]
    rcases g p.s l with ⟨s1, e | as⟩ <;> exact later _

/-- The accesses that `acc` lists, with their lanes, in lane order. -/
def accsOf (lanes : List Nat) (acc : Nat → List (Loc × Nat × AccKind)) : List (Nat × Loc × Nat × AccKind) := lanes.flatMap (fun l => (acc l).map (fun q => (l, q)))

/-- Every lane has its accesses, and no translation changes the state. -/
theorem planLanes_of_ok {f : State → Nat → State × LaneAcc} {acc : Nat → List (Loc × Nat × AccKind)} {s : State} : ∀ {lanes : List Nat},
    (∀ l, l ∈ lanes → f s l = (s, .ok (acc l))) → ∀ before, planLanes f lanes ⟨s, before, []⟩ = ⟨s, before ++ accsOf lanes acc, []⟩
  | [], _, before => by rw [planLanes, accsOf, List.flatMap_nil, List.append_nil]
  | l :: rest, ok, before => by
    rw [planLanes, ok l List.mem_cons_self]
    exact (planLanes_of_ok (fun k hk => ok k (List.mem_cons_of_mem l hk)) _).trans (by rw [accsOf, accsOf, List.flatMap_cons, List.append_assoc])

section
variable {core n : Nat} {wr rd : Bool} {va : Nat → Nat} {k : Nat → AccKind} {f : State → Nat → State × LaneAcc}

/-- Every lane's access reaches memory: one access of each lane, in the order of the translations. -/
theorem planLanes_of_reaches (made : ∀ s l s1 pa e z, s.globCheck core (va l) n wr rd = (s1, .ok (pa, e), z) → f s l = (s1, .ok [(.glob (va l) pa, 8 * n, k l)])) {s1 : State} :
    ∀ {lanes : List Nat} {s : State} {ps : List (Nat × Nat)}, s.laneReaches core n wr rd va lanes = (s1, some ps) → ps.map (·.1) = lanes ∧
      ∀ before, planLanes f lanes ⟨s, before, []⟩ = ⟨s1, before ++ ps.map (fun p => (p.1, .glob (va p.1) p.2, 8 * n, k p.1)), []⟩
  | [], s, ps, reach => by
    obtain ⟨rfl, ⟨⟩⟩ := Prod.mk.inj reach
    exact ⟨rfl, fun before => by rw [planLanes, List.map_nil, List.append_nil]⟩
  | l :: rest, s, ps, reach => by
    rw [State.laneReaches] at reach
    generalize check : s.globCheck core (va l) n wr rd = q at reach
    obtain ⟨s2, e | ⟨pa, e⟩, z⟩ := q
    · exact absurd (congrArg Prod.snd reach) (by simp)
    · dsimp only at reach
      generalize later : s2.laneReaches core n wr rd va rest = q at reach
      obtain ⟨s3, _ | qs⟩ := q
      · exact absurd (congrArg Prod.snd reach) (by simp)
      · obtain ⟨rfl, ⟨⟩⟩ := Prod.mk.inj reach
        obtain ⟨firsts, plan⟩ := planLanes_of_reaches made later
        refine ⟨by rw [List.map_cons, firsts], fun before => ?_⟩
        rw [planLanes, made _ _ _ _ _ _ check]
        exact (plan _).trans (by rw [List.map_cons, List.append_assoc]; rfl)

theorem filter_fst_eq_singleton : ∀ {ps : List (Nat × Nat)} {p : Nat × Nat}, (ps.map (·.1)).Nodup → p ∈ ps → ps.filter (fun q => q.1 == p.1) = [p]
  | q :: ps, p, nodup, hp => by
    rw [List.map_cons, List.nodup_cons] at nodup
    rcases List.mem_cons.1 hp with rfl | later
    · rw [List.filter_cons_of_pos (by simp), List.filter_eq_nil_iff.2 fun o ho same => nodup.1 (List.mem_map.2 ⟨o, ho, beq_iff_eq.1 same⟩)]
    · rw [List.filter_cons_of_neg, filter_fst_eq_singleton nodup.2 later]
      exact fun same => nodup.1 (List.mem_map.2 ⟨p, later, (beq_iff_eq.1 same).symm⟩)

theorem accsOf_globAcc1 {ps : List (Nat × Nat)} (nodup : (ps.map (·.1)).Nodup) :
    accsOf (ps.map (·.1)) (globAcc1 ps n va k) = ps.map (fun p => (p.1, .glob (va p.1) p.2, 8 * n, k p.1)) := by
  rw [accsOf, List.flatMap_map, List.map_eq_flatMap]
  refine List.flatMap_congr fun p hp => ?_
  rw [globAcc1, filter_fst_eq_singleton nodup hp]
  rfl

theorem planLanes_globAcc1 (made : ∀ s l s1 pa e z, s.globCheck core (va l) n wr rd = (s1, .ok (pa, e), z) → f s l = (s1, .ok [(.glob (va l) pa, 8 * n, k l)])) {s s1 : State}
    {lanes : List Nat} (nodup : lanes.Nodup) {ps : List (Nat × Nat)} (reach : s.laneReaches core n wr rd va lanes = (s1, some ps)) :
    planLanes f lanes ⟨s, [], []⟩ = ⟨s1, accsOf lanes (globAcc1 ps n va k), []⟩ := by
  obtain ⟨rfl, plan⟩ := planLanes_of_reaches made reach
  rw [plan, accsOf_globAcc1 nodup, List.nil_append]

theorem globAcc1_ne_nil {ps : List (Nat × Nat)} {l : Nat} (hl : l ∈ ps.map (·.1)) : globAcc1 ps n va k l ≠ [] := by
  obtain ⟨p, hp, rfl⟩ := List.mem_map.1 hl
  rw [globAcc1, Ne, List.map_eq_nil_iff]
  exact List.ne_nil_of_mem (List.mem_filter.2 ⟨hp, beq_self_eq_true _⟩)
end

/-- An access that passes its checks is made. -/
theorem globAcc_of_ok {s s1 : State} {core n pa : Nat} {a : Word} {wr rd : Bool} {e : Word} {z : Option Nat} (check : s.globCheck core a.toNat n wr rd = (s1, .ok (pa, e), z))
    (k : AccKind) : globAcc s core n a wr rd k = (s1, .ok [(.glob a.toNat pa, 8 * n, k)]) := by
  rw [globAcc, check]

/-- An address that passes the checks is one of 56 bits. -/
theorem globCheck_ok_lt {s s1 : State} {core va n pa : Nat} {wr rd : Bool} {e : Word} {z : Option Nat} (check : s.globCheck core va n wr rd = (s1, .ok (pa, e), z)) : va < 2 ^ 56 := by
  rw [State.globCheck] at check
  split at check
  · exact absurd (congrArg (·.2.1) check) (by simp)
  · generalize found : s.translate (some core) (coreDie core) va wr = q at check
    obtain ⟨s2, x⟩ := q
    cases x with
    | ok pa e => exact (translate_ok_range found).1
    | fail | lost | empty z => exact absurd (congrArg (·.2.1) check) (by simp)

theorem slotAcc_of_ok {h : LaneHead} {m : ModM} (glob : m.glob = true) {r : TeamRef} {c : Crew} {t : Team} {x : Mask} {s s1 : State} {l pa : Nat} {wr : Bool} {e : Word} {z : Option Nat}
    (check : s.globCheck c.core ((t.src t.popped (memS0 h m) l).toNat + slotOf x l * (elemWidth h.ty / 8)) (elemWidth h.ty / 8) wr (!wr) = (s1, .ok (pa, e), z)) (k : AccKind) :
    slotAcc h m r c t x s l wr k = (s1, .ok [(.glob ((t.src t.popped (memS0 h m) l).toNat + slotOf x l * (elemWidth h.ty / 8)) pa, 8 * (elemWidth h.ty / 8), k)]) := by
  have small := globCheck_ok_lt check
  have word : (t.src t.popped (memS0 h m) l).toNat + slotOf x l * (elemWidth h.ty / 8) < 2 ^ 64 := by omega
  have same : (BitVec.ofNat 64 ((t.src t.popped (memS0 h m) l).toNat + slotOf x l * (elemWidth h.ty / 8))).toNat =
      (t.src t.popped (memS0 h m) l).toNat + slotOf x l * (elemWidth h.ty / 8) := by
    rw [BitVec.toNat_ofNat, Nat.mod_eq_of_lt word]
  rw [slotAcc, if_pos glob, if_pos word, globAcc_of_ok (by rw [same]; exact check), same]

/-- A tile access none of whose words is poisoned is made. -/
theorem tileAcc_of_clean {tl : Tile} {es : List (Nat × Coord × Option Nat)} (clean : ∀ e, e ∈ es → tl.poisoned e.2.1 e.2.2 = false) (crew w : Nat) (reads : Bool) (k : Nat → AccKind) :
    tileAcc crew tl w reads (some es) k = .ok (es.map (fun e => (.tile crew tl.uid e.2.1 e.2.2, w, k e.1))) := by
  have none_ : es.any (fun e => tl.poisoned e.2.1 e.2.2) = false := List.any_eq_false.2 fun e he => by simp [clean e he]
  simp only [tileAcc, none_, Bool.and_false, Bool.false_eq_true, if_false]

section
variable {c : Crew} {h : LaneHead} {m : ModM} {tl : Tile} (named : c.laneTile h m tl)
include named

theorem formTile_eq : formTile c m = tl := by rw [formTile, named.1, Option.getD_some]

theorem tileForm_none (tagged : Bool) (tags : tagged = true → tl.tags = true) : tileForm c h m tagged = none := by
  obtain ⟨named, plain, block, width⟩ := named
  have kinds : (tl.fmt == 14#4) = (h.ty == 14#4) := Bool.eq_iff_iff.2 (by simpa using block)
  have tagsHeld : (tagged && !tl.tags) = false := Bool.and_eq_false_imp.2 fun ht => by simp [tags ht]
  simp [tileForm, named, plain, kinds, width, tagsHeld]
end

end LanePlans

section IssueOfAccesses

/-! ### The issue of a lane access instruction (10 R221; 06 R123) -/

/-- The lanes' accesses as the instruction at lidx of the clause makes them. -/
def Team.laneAccesses (t : Team) (cl : Clause) (perLane : Bool) (lanes : List Nat) (acc : Nat → List (Loc × Nat × AccKind)) : List Access :=
  (accsOf lanes acc).map (fun q => Access.mk t.nextOrd (reqOf t.nextOrd perLane q.1) .lane cl.uid q.1 q.2.1 q.2.2.1 q.2.2.2 t.lidx 0)

/-- The write requests of an instruction's accesses. -/
def writeRequests (store : Bool) (new : List Access) : Nat := if store then ((new.map (·.req)).eraseDups).length else 0

/-- The accesses become outstanding, and their requests are counted. -/
def Team.withAccesses (t : Team) (new : List Access) (n : Nat) : Team := { t with pending := t.pending ++ new, nextOrd := t.nextOrd + 1, lctr := t.lctr + BitVec.ofNat 16 n }

section
variable (t : Team) (cl : Clause) {lanes : List Nat} (acc : Nat → List (Loc × Nat × AccKind))

theorem requests_toFinset (perLane : Bool) : ((t.laneAccesses cl perLane lanes acc).map (·.req)).toFinset =
    (lanes.filter (fun l => !(acc l).isEmpty)).toFinset.image (reqOf t.nextOrd perLane) := by
  ext q
  simp only [Team.laneAccesses, accsOf, List.map_map, List.mem_toFinset, List.mem_map, List.mem_flatMap, Function.comp_apply, Finset.mem_image, List.mem_filter]
  constructor
  · rintro ⟨_, ⟨l, hl, a, ha, rfl⟩, rfl⟩
    exact ⟨l, ⟨hl, by simpa using List.ne_nil_of_mem ha⟩, rfl⟩
  · rintro ⟨l, ⟨hl, some_⟩, rfl⟩
    obtain ⟨a, ha⟩ := List.exists_mem_of_ne_nil (acc l) (by simpa using some_)
    exact ⟨(l, a), ⟨l, hl, a, ha, rfl⟩, rfl⟩

/-- A store makes a request in each pass with an access (06 R123). -/
theorem writeRequests_pass : writeRequests true (t.laneAccesses cl false lanes acc) = passCount lanes acc := by
  have passes (S : Finset Nat) : S.image (reqOf t.nextOrd false) = (S.image (· / 32)).image (t.nextOrd * 2048 + ·) := by
    rw [Finset.image_image]
    rfl
  rw [writeRequests, if_pos rfl, passCount, length_eraseDups_eq_card, length_eraseDups_eq_card, requests_toFinset, passes,
    Finset.card_image_of_injective _ (add_right_injective _)]
  congr 1
  ext q
  simp

/-- An atomic makes a request in each lane (10 R232). -/
theorem writeRequests_lane (nodup : lanes.Nodup) (some_ : ∀ l, l ∈ lanes → acc l ≠ []) : writeRequests true (t.laneAccesses cl true lanes acc) = lanes.length := by
  have all : lanes.filter (fun l => !(acc l).isEmpty) = lanes := List.filter_eq_self.2 fun l hl => by simpa using some_ l hl
  have inj : Function.Injective (reqOf t.nextOrd true) := fun a b same => by
    simp only [reqOf, if_true] at same
    omega
  rw [writeRequests, if_pos rfl, length_eraseDups_eq_card, requests_toFinset, all, Finset.card_image_of_injective _ inj, List.toFinset_card_of_nodup nodup]

theorem writeRequests_le (store perLane : Bool) : writeRequests store (t.laneAccesses cl perLane lanes acc) ≤ lanes.length := by
  unfold writeRequests
  split
  · rw [length_eraseDups_eq_card, requests_toFinset]
    exact Finset.card_image_le.trans ((List.toFinset_card_le _).trans (List.length_filter_le _ lanes))
  · exact Nat.zero_le _
end

/-- No register of the sources holds an error in the lane. -/
theorem Team.laneErrAt_eq_false {t : Team} {srcs : List Src} {l : Nat} (clean : ∀ v, v ∈ srcs.filterMap Src.isReg → v * 1024 + l ∉ t.laneErr) : t.laneErrAt srcs l = false :=
  Bool.and_eq_false_imp.2 fun _ => List.any_eq_false.2 fun v hv => by simpa using clean v hv

theorem Team.headStep_eq {t : Team} {cl : Clause} (head : t.queue.head? = some cl) : t.headStep = cl.step := by
  obtain ⟨rest, queue⟩ := List.head?_eq_some_iff.1 head
  rw [Team.headStep, queue]

theorem Team.headStep_afterPops {t : Team} {cl : Clause} (head : t.queue.head? = some cl) (srcs : List Src) : (t.afterPops srcs).headStep = cl.step := by
  obtain ⟨qu, tk, pops⟩ := t.afterPops_frame srcs
  rw [pops]
  exact Team.headStep_eq head

/-- The issue as the statements give it: the popped team with the accesses, lane registers perhaps written, and the passes made. -/
theorem laneIssues_withAccesses (t : Team) (cl : Clause) (x : Mask) (srcs : List Src) (perLane : Bool) (acc : Nat → List (Loc × Nat × AccKind)) (n : Nat) {vr : SMap 64}
    {le : List Nat} (errs : ∀ k, k ∈ le → k ∈ t.laneErr) (buf : Option (SMap 64)) :
    t.laneIssues (({ (t.afterPops srcs).withAccesses (t.laneAccesses cl perLane (maskLanes x t.lanes) acc) n with vregs := vr, laneErr := le }).laneDone buf) cl x acc n := by
  obtain ⟨qu, tk, pops⟩ := t.afterPops_frame srcs
  rw [pops]
  refine ⟨t.laneAccesses cl perLane (maskLanes x t.lanes) acc, rfl, ?_, fun a ha => ?_, rfl, rfl, errs, rfl⟩
  · rw [Team.laneAccesses, List.map_map]
    exact List.map_id _
  · obtain ⟨q, -, rfl⟩ := List.mem_map.1 ha
    exact ⟨rfl, rfl, rfl⟩

section
variable {s : State} {r : TeamRef} {c : Crew} {t : Team} {cl : Clause} (at_ : s.laneAt r c t cl) (fresh : t.restart = none) (room : t.lctr.toNat + 1024 ≤ 65535)
  {srcs : List Src} {regs : List Nat} (ready : t.laneReady cl srcs regs) {h : LaneHead} {m : ModM} {whole : Crew → Option Nat} (formed : whole c = none) {store perLane : Bool}
  {f : TeamRef → Crew → Team → Mask → State → Nat → State × LaneAcc} {acc : Nat → List (Loc × Nat × AccKind)} {s1 : State}
  (plan : planLanes (f r c (t.afterPops srcs) (t.executing cl.mask h)) (maskLanes (t.executing cl.mask h) t.lanes) ⟨s, [], []⟩ =
    ⟨s1, accsOf (maskLanes (t.executing cl.mask h) t.lanes) acc, []⟩)
include at_ fresh room ready formed plan

/-- An instruction none of whose lanes faults issues its lanes' accesses. -/
theorem laneAccess_eq (fin : Team → Mask → List Nat → Team) : laneAccess s h m srcs regs whole store perLane f fin = .next (s1.putTeam r
    ((fin ((t.afterPops srcs).withAccesses (t.laneAccesses cl perLane (maskLanes (t.executing cl.mask h) t.lanes) acc)
      (writeRequests store (t.laneAccesses cl perLane (maskLanes (t.executing cl.mask h) t.lanes) acc))) (t.executing cl.mask h)
      (maskLanes (t.executing cl.mask h) t.lanes)).laneDone ((t.afterPops srcs).memKeep h m))) := by
  refine (laneFrame_ready at_ ready h _).trans (congrArg Host.Outcome.next ?_)
  obtain ⟨-, -, -, -, clean⟩ := ready
  obtain ⟨qu, tk, pops⟩ := t.afterPops_frame srcs
  have restart : (t.afterPops srcs).restart = none := by rw [pops]; exact fresh
  have counter : (t.afterPops srcs).lctr = t.lctr := by rw [pops]
  have errors (l : Nat) (hl : l ∈ maskLanes (t.executing cl.mask h) t.lanes) : (t.afterPops srcs).laneErrAt srcs l = false :=
    Team.laneErrAt_eq_false fun v hv => by rw [pops]; exact clean v hv l (lt_of_mem_maskLanes hl)
  have planned := (planLanes_congr (f := fun s l => if (t.afterPops srcs).laneErrAt srcs l && !laneBeyond c h m l then (s, .error (stUncorrectable, none))
    else f r c (t.afterPops srcs) (t.executing cl.mask h) s l) (fun l hl s => by rw [errors l hl]; rfl) _).trans plan
  have accs : (accsOf (maskLanes (t.executing cl.mask h) t.lanes) acc).map (fun q => Access.mk (t.afterPops srcs).nextOrd (reqOf (t.afterPops srcs).nextOrd perLane q.1) .lane
      cl.uid q.1 q.2.1 q.2.2.1 q.2.2.2 (t.afterPops srcs).lidx 0) = t.laneAccesses cl perLane (maskLanes (t.executing cl.mask h) t.lanes) acc := by rw [pops]; rfl
  have few := (writeRequests_le t cl acc (lanes := maskLanes (t.executing cl.mask h) t.lanes) store perLane).trans (length_maskLanes_le _ _)
  have counted : ¬65535 < t.lctr.toNat + writeRequests store (t.laneAccesses cl perLane (maskLanes (t.executing cl.mask h) t.lanes) acc) := by omega
  dsimp only
  simp only [formed, restart, lanes_afterPops, planned, List.any_nil, Bool.false_and, Bool.or_false, decide_eq_true_eq, Bool.not_false, List.filter_true, List.isEmpty_nil, if_true]
  rw [accs, counter]
  exact (if_neg counted).trans (by simp only [Team.withAccesses, restart, lanes_afterPops, counter]; rfl)

/-- One that writes no register. -/
theorem laneAccess_issues : ∃ t', laneAccess s h m srcs regs whole store perLane f noFin = .next (s1.putTeam r t') ∧ t'.vregs = t.vregs ∧
    t.laneIssues t' cl (t.executing cl.mask h) acc (writeRequests store (t.laneAccesses cl perLane (maskLanes (t.executing cl.mask h) t.lanes) acc)) := by
  refine ⟨_, laneAccess_eq at_ fresh room ready formed plan noFin, ?_, ?_⟩
  · obtain ⟨qu, tk, pops⟩ := t.afterPops_frame srcs
    rw [pops]
    rfl
  · have issued := laneIssues_withAccesses t cl (t.executing cl.mask h) srcs perLane acc
      (writeRequests store (t.laneAccesses cl perLane (maskLanes (t.executing cl.mask h) t.lanes) acc)) (fun k hk => hk) ((t.afterPops srcs).memKeep h m) (vr := t.vregs)
    obtain ⟨qu, tk, pops⟩ := t.afterPops_frame srcs
    rw [pops] at issued ⊢
    exact issued

/-- CSTORE returns the number of its lanes and each lane's slot. -/
theorem laneAccess_issues_cstore : ∃ t', laneAccess s h m srcs regs whole store perLane f (cstoreFin h) = .next (s1.putTeam r t') ∧
    t.laneIssues t' cl (t.executing cl.mask h) acc (writeRequests store (t.laneAccesses cl perLane (maskLanes (t.executing cl.mask h) t.lanes) acc)) ∧
    (∀ v l, l < 1024 → t'.vreg v l = if v = h.dst.toNat ∧ l ∈ maskLanes (t.executing cl.mask h) t.lanes then
      BitVec.ofNat 64 ((maskLanes (t.executing cl.mask h) t.lanes).length + ((maskLanes (t.executing cl.mask h) t.lanes).countP (fun k => decide (k < l))) * 2 ^ 32) else t.vreg v l) := by
  have lanes : ((t.afterPops srcs).withAccesses (t.laneAccesses cl perLane (maskLanes (t.executing cl.mask h) t.lanes) acc)
      (writeRequests store (t.laneAccesses cl perLane (maskLanes (t.executing cl.mask h) t.lanes) acc))).lanes = t.lanes := lanes_afterPops t srcs
  refine ⟨_, laneAccess_eq at_ fresh room ready formed plan (cstoreFin h), ?_, fun v l hl => ?_⟩
  · obtain ⟨vr, le, writes, errs⟩ := Team.setVregs_frame (d := h.dst.toNat)
      (fun l => BitVec.ofNat 64 ((maskLanes (t.executing cl.mask h) t.lanes).length + slotOf (t.executing cl.mask h) l * 2 ^ 32)) (maskLanes (t.executing cl.mask h) t.lanes)
      ((t.afterPops srcs).withAccesses (t.laneAccesses cl perLane (maskLanes (t.executing cl.mask h) t.lanes) acc)
        (writeRequests store (t.laneAccesses cl perLane (maskLanes (t.executing cl.mask h) t.lanes) acc)))
    have same : ((t.afterPops srcs).withAccesses (t.laneAccesses cl perLane (maskLanes (t.executing cl.mask h) t.lanes) acc)
      (writeRequests store (t.laneAccesses cl perLane (maskLanes (t.executing cl.mask h) t.lanes) acc))).laneErr = t.laneErr := by
      obtain ⟨qu, tk, pops⟩ := t.afterPops_frame srcs
      rw [pops]
      rfl
    rw [cstoreFin, lanes, writes]
    exact laneIssues_withAccesses t cl _ srcs perLane acc _ (same ▸ errs) _
  · rw [cstoreFin, lanes]
    refine (Team.vreg_setVregs hl _ _ _ fun k hk => lt_of_mem_maskLanes hk).trans ?_
    by_cases written : v = h.dst.toNat ∧ l ∈ maskLanes (t.executing cl.mask h) t.lanes
    · rw [if_pos written, if_pos written, slotOf_eq_countP written.2]
    · rw [if_neg written, if_neg written]
      exact Team.vreg_afterPops t srcs v l
end

end IssueOfAccesses

section TileAccesses

/-! ### Accesses of tiles (10 R225, R229, R232, R235, R236) -/

/-- What a source gives lane `l` once the instruction's pops are made. -/
abbrev Team.poppedSrc (t : Team) (srcs : List Src) (x : Src) (l : Nat) : Word := (t.afterPops srcs).src (t.afterPops srcs).popped x l

/-- The lanes that execute. -/
abbrev Team.executingLanes (t : Team) (cl : Clause) (h : LaneHead) : List Nat := maskLanes (t.executing cl.mask h) t.lanes

/-- The elements as accesses of the tile. -/
def tileAccs (r : TeamRef) (tl : Tile) (w : Nat) (es : Nat → List (Nat × Coord × Option Nat)) (k : Nat → Nat → AccKind) (l : Nat) : List (Loc × Nat × AccKind) :=
  (es l).map (fun e => (.tile r.crew tl.uid e.2.1 e.2.2, w, k l e.1))

theorem exec_tld (h : LaneHead) (m : ModM) (s : State) : exec (.tld h m) s = execTld h m s := rfl
theorem exec_tldt (h : LaneHead) (m : ModM) (s : State) : exec (.tldt h m) s = execTldt h m s := rfl
theorem exec_tst (h : LaneHead) (m : ModM) (s : State) : exec (.tst h m) s = execTst h m s := rfl
theorem exec_xld (h : LaneHead) (m : ModM) (s : State) : exec (.xld h m) s = execXld h m s := rfl
theorem exec_cstore (h : LaneHead) (m : ModM) (s : State) : exec (.cstore h m) s = execCstore h m s := rfl
theorem exec_atom (h : LaneHead) (m : ModM) (s : State) : exec (.atom h m) s = execAtom h m s := rfl
theorem exec_gld (h : LaneHead) (m : ModM) (s : State) : exec (.gld h m) s = execGld h m s := rfl
theorem exec_gst (h : LaneHead) (m : ModM) (s : State) : exec (.gst h m) s = execGst h m s := rfl

/-- The operand and compare values of an atomic are those of the popped team. -/
theorem atomKind_eq {h : LaneHead} {m : ModM} {op : AtomOp} (code : decodeAtomOp m.aop = some op) (t : Team) (l : Nat) : atomKind h m t l =
    .atom op (BitVec.ofNat 64 (getElem (elemWidth h.ty) (selIndex m.sel) (t.src t.popped (memS1 h) l)))
      (BitVec.ofNat 64 (getElem (elemWidth h.ty) (selIndex m.sel) (t.src t.popped (memS2 h) l))) h.dst (selIndex m.sel) := by
  rw [atomKind, code, Option.getD_some]

variable {s : State} {r : TeamRef} {c : Crew} {t : Team} {cl : Clause} {h : LaneHead} {m : ModM} {tl : Tile} (named : c.laneTile h m tl)
  {es : Nat → List (Nat × Coord × Option Nat)} (clean : ∀ l e, l ∈ t.executingLanes cl h → e ∈ es l → tl.poisoned e.2.1 e.2.2 = false)
include named clean

/-- The lanes of X at their slots. -/
theorem slotAcc_of_inside {srcs : List Src} (tile : m.glob = false) (elems : ∀ l, l ∈ t.executingLanes cl h →
      let y := (coordOf (t.poppedSrc srcs (memS0 h m) l)).plus1 (slotOf (t.executing cl.mask h) l)
      es l = [(selIndex m.sel, y, none)] ∧ tl.inside y = true) (wr : Bool) (k : Nat → Nat → AccKind) {l : Nat} (hl : l ∈ t.executingLanes cl h) :
    slotAcc h m r c (t.afterPops srcs) (t.executing cl.mask h) s l wr (k l (selIndex m.sel)) = (s, .ok (tileAccs r tl (elemWidth h.ty) es k l)) := by
  obtain ⟨one, inside⟩ := elems l hl
  have pure := clean l _ hl (one ▸ List.mem_singleton_self _)
  rw [slotAcc, if_neg (by simp [tile])]
  dsimp only
  rw [formTile_eq named, inside, if_pos rfl, tileAcc_of_clean fun e he => by rw [List.mem_singleton.1 he]; exact pure]
  rw [tileAccs, one]
  rfl

variable (at_ : s.laneAt r c t cl) (fresh : t.restart = none) (room : t.lctr.toNat + 1024 ≤ 65535)
include at_ fresh room

section
variable (ready : t.laneReady cl [memS0 h m] [h.dst.toNat])
include ready

theorem tld_issues (elems : ∀ l, l ∈ t.executingLanes cl h → laneElems tl h.ty m.sel l (coordOf (t.poppedSrc [memS0 h m] (memS0 h m) l)) = some (es l)) :
    ∃ t', exec (.tld h m) s = .next (s.putTeam r t') ∧ t'.vregs = t.vregs ∧
      t.laneIssues t' cl (t.executing cl.mask h) (tileAccs r tl (elemWidth h.ty) es (fun _ j => .load h.dst j)) 0 := by
  rw [exec_tld, execTld]
  refine laneAccess_issues at_ fresh room ready (tileForm_none named false nofun) (planLanes_of_ok (fun l hl => ?_) [])
  rw [formTile_eq named, elems l hl, tileAcc_of_clean fun e he => clean l e hl he]
  rfl

theorem tldt_issues (elems : ∀ l, l ∈ t.executingLanes cl h → let y := coordOf (t.poppedSrc [memS0 h m] (memS0 h m) l)
      transposedElems tl (elemWidth h.ty) y = some (es l) ∧ (elemWidth h.ty = 4 → y.c1 % 2 = 0)) :
    ∃ t', exec (.tldt h m) s = .next (s.putTeam r t') ∧ t'.vregs = t.vregs ∧
      t.laneIssues t' cl (t.executing cl.mask h) (tileAccs r tl (elemWidth h.ty) es (fun _ j => .load h.dst j)) 0 := by
  rw [exec_tldt, execTldt]
  refine laneAccess_issues at_ fresh room ready (tileForm_none named false nofun) (planLanes_of_ok (fun l hl => ?_) [])
  obtain ⟨column, even⟩ := elems l hl
  dsimp only
  rw [formTile_eq named, if_neg (fun odd => absurd ((even odd.1).symm.trans odd.2) (by decide)), column, tileAcc_of_clean fun e he => clean l e hl he]
  rfl

theorem xld_tile_issues (tile : m.glob = false) (elems : ∀ l, l ∈ t.executingLanes cl h →
      let y := (coordOf (t.poppedSrc [memS0 h m] (memS0 h m) l)).plus1 (slotOf (t.executing cl.mask h) l)
      es l = [(selIndex m.sel, y, none)] ∧ tl.inside y = true) :
    ∃ t', exec (.xld h m) s = .next (s.putTeam r t') ∧ t'.vregs = t.vregs ∧
      t.laneIssues t' cl (t.executing cl.mask h) (tileAccs r tl (elemWidth h.ty) es (fun _ j => .load h.dst j)) 0 := by
  rw [exec_xld, execXld]
  refine laneAccess_issues at_ fresh room ready (by simp [tile, tileForm_none named]) (planLanes_of_ok (fun l hl => ?_) [])
  exact slotAcc_of_inside named clean tile elems false (fun _ j => .load h.dst j) hl
end

/-- What a store of the executing lanes leaves outstanding. -/
def storeAccs (t : Team) (cl : Clause) (h : LaneHead) (m : ModM) (r : TeamRef) (tl : Tile) (es : Nat → List (Nat × Coord × Option Nat)) : Nat → List (Loc × Nat × AccKind) :=
  tileAccs r tl (elemWidth h.ty) es (fun l j => .store (BitVec.ofNat 64 (getElem (elemWidth h.ty) j (t.poppedSrc [memS0 h m, memS1 h] (memS1 h) l))) cl.step)

theorem tst_issues (ready : t.laneReady cl [memS0 h m, memS1 h] [])
    (elems : ∀ l, l ∈ t.executingLanes cl h → laneElems tl h.ty m.sel l (coordOf (t.poppedSrc [memS0 h m, memS1 h] (memS0 h m) l)) = some (es l)) :
    ∃ t', exec (.tst h m) s = .next (s.putTeam r t') ∧ t'.vregs = t.vregs ∧
      t.laneIssues t' cl (t.executing cl.mask h) (storeAccs t cl h m r tl es) (passCount (t.executingLanes cl h) (storeAccs t cl h m r tl es)) := by
  rw [← writeRequests_pass t cl, exec_tst, execTst]
  refine laneAccess_issues at_ fresh room ready (tileForm_none named false nofun) (planLanes_of_ok (fun l hl => ?_) [])
  rw [formTile_eq named, elems l hl, tileAcc_of_clean fun e he => clean l e hl he, Team.headStep_afterPops at_.2.1]
  rfl

theorem cstore_tile_issues (ready : t.laneReady cl [memS0 h m, memS1 h] [h.dst.toNat]) (tile : m.glob = false) (elems : ∀ l, l ∈ t.executingLanes cl h →
      let y := (coordOf (t.poppedSrc [memS0 h m, memS1 h] (memS0 h m) l)).plus1 (slotOf (t.executing cl.mask h) l)
      es l = [(selIndex m.sel, y, none)] ∧ tl.inside y = true) :
    let lanes := t.executingLanes cl h
    ∃ t', exec (.cstore h m) s = .next (s.putTeam r t') ∧ t.laneIssues t' cl (t.executing cl.mask h) (storeAccs t cl h m r tl es) (passCount lanes (storeAccs t cl h m r tl es)) ∧
      (∀ v l, l < 1024 → t'.vreg v l = if v = h.dst.toNat ∧ l ∈ lanes then BitVec.ofNat 64 (lanes.length + (lanes.countP (fun k => decide (k < l))) * 2 ^ 32) else t.vreg v l) := by
  intro lanes
  rw [← writeRequests_pass t cl, exec_cstore, execCstore]
  refine laneAccess_issues_cstore at_ fresh room ready (by simp [tile, tileForm_none named]) (planLanes_of_ok (fun l hl => ?_) [])
  rw [Team.headStep_afterPops at_.2.1]
  exact slotAcc_of_inside named clean tile elems true
    (fun l j => .store (BitVec.ofNat 64 (getElem (elemWidth h.ty) j (t.poppedSrc [memS0 h m, memS1 h] (memS1 h) l))) cl.step) hl

omit clean in
theorem atom_tile_issues {op : AtomOp} (code : decodeAtomOp m.aop = some op) (tile : m.glob = false) {srcs : List Src}
    (sources : [memS0 h m, memS1 h] ++ (if m.aop = 10#4 then [memS2 h] else []) = srcs) (ready : t.laneReady cl srcs [h.dst.toNat])
    (elems : ∀ l, l ∈ t.executingLanes cl h → let y := coordOf (t.poppedSrc srcs (memS0 h m) l); tl.inside y = true ∧ tl.poisoned y none = false) :
    ∃ t', exec (.atom h m) s = .next (s.putTeam r t') ∧ t'.vregs = t.vregs ∧ t.laneIssues t' cl (t.executing cl.mask h) (fun l =>
      [(.tile r.crew tl.uid (coordOf (t.poppedSrc srcs (memS0 h m) l)) none, elemWidth h.ty,
        .atom op (BitVec.ofNat 64 (getElem (elemWidth h.ty) (selIndex m.sel) (t.poppedSrc srcs (memS1 h) l)))
          (BitVec.ofNat 64 (getElem (elemWidth h.ty) (selIndex m.sel) (t.poppedSrc srcs (memS2 h) l))) h.dst (selIndex m.sel))]) (t.executingLanes cl h).length := by
  rw [← writeRequests_lane t cl _ (nodup_maskLanes _ _) fun l _ => List.cons_ne_nil _ _, exec_atom, execAtom, sources]
  refine laneAccess_issues at_ fresh room ready (by simp [tile, tileForm_none named]) (planLanes_of_ok (fun l hl => ?_) [])
  obtain ⟨inside, pure⟩ := elems l hl
  dsimp only
  rw [if_neg (by simp [tile]), formTile_eq named, inside, if_pos rfl, tileAcc_of_clean fun e he => by rw [List.mem_singleton.1 he]; exact pure, atomKind_eq code]
  rfl

end TileAccesses

/-- Settles O38: no lane's elements lie outside or are poisoned, so that each lane's accesses are issued as they are named. -/
theorem laneTileAccesses : Obligations.LaneTileAccesses := by
  intro s r c t cl h m tl at_ fresh named room w x lanes place clean
  refine ⟨?loads, ?stores, ?atomics⟩
  case loads =>
    intro es u xs ready pure
    exact ⟨tld_issues named pure at_ fresh room ready, tldt_issues named pure at_ fresh room ready, xld_tile_issues named pure at_ fresh room ready⟩
  case stores =>
    intro es u xs val acc pure
    exact ⟨tst_issues named pure at_ fresh room, cstore_tile_issues named pure at_ fresh room⟩
  case atomics =>
    intro srcs u xs ready tile plain elems op code
    exact atom_tile_issues named at_ fresh room code tile rfl ready elems

section GlobalAccesses

/-! ### Accesses of global memory (10 R230, R232, R235, R236) -/

variable {s s1 : State} {r : TeamRef} {c : Crew} {t : Team} {cl : Clause} {h : LaneHead} {m : ModM} {ps : List (Nat × Nat)} (at_ : s.laneAt r c t cl) (fresh : t.restart = none)
  (room : t.lctr.toNat + 1024 ≤ 65535)
include at_ fresh room

/-- A lane's place among the lanes of X, in elements from its base. -/
abbrev Team.slotAddress (t : Team) (cl : Clause) (h : LaneHead) (m : ModM) (srcs : List Src) (l : Nat) : Nat :=
  (t.poppedSrc srcs (memS0 h m) l).toNat + slotOf (t.executing cl.mask h) l * (elemWidth h.ty / 8)

section
variable (ready : t.laneReady cl [memS0 h m] [h.dst.toNat])
include ready

theorem gld_issues (reach : s.laneReaches c.core (globBytes h m) false true (fun l => (t.poppedSrc [memS0 h m] (memS0 h m) l).toNat) (t.executingLanes cl h) = (s1, some ps)) :
    ∃ t', exec (.gld h m) s = .next (s1.putTeam r t') ∧ t'.vregs = t.vregs ∧ t.laneIssues t' cl (t.executing cl.mask h)
      (globAcc1 ps (globBytes h m) (fun l => (t.poppedSrc [memS0 h m] (memS0 h m) l).toNat) (fun _ => .load h.dst (globElem m))) 0 := by
  rw [exec_gld, execGld]
  exact laneAccess_issues at_ fresh room ready rfl (planLanes_globAcc1 (fun s l s1 pa e z check => globAcc_of_ok check _) (nodup_maskLanes _ _) reach)

theorem xld_glob_issues (glob : m.glob = true) (reach : s.laneReaches c.core (elemWidth h.ty / 8) false true (t.slotAddress cl h m [memS0 h m]) (t.executingLanes cl h) = (s1, some ps)) :
    ∃ t', exec (.xld h m) s = .next (s1.putTeam r t') ∧ t'.vregs = t.vregs ∧ t.laneIssues t' cl (t.executing cl.mask h)
      (globAcc1 ps (elemWidth h.ty / 8) (t.slotAddress cl h m [memS0 h m]) (fun _ => .load h.dst (selIndex m.sel))) 0 := by
  rw [exec_xld, execXld]
  exact laneAccess_issues at_ fresh room ready (if_pos glob) (planLanes_globAcc1 (fun s l s1 pa e z check => slotAcc_of_ok glob check _) (nodup_maskLanes _ _) reach)
end

theorem gst_issues (ready : t.laneReady cl [memS0 h m, memS1 h] [])
    (reach : s.laneReaches c.core (globBytes h m) true false (fun l => (t.poppedSrc [memS0 h m, memS1 h] (memS0 h m) l).toNat) (t.executingLanes cl h) = (s1, some ps)) :
    let acc := globAcc1 ps (globBytes h m) (fun l => (t.poppedSrc [memS0 h m, memS1 h] (memS0 h m) l).toNat)
      (fun l => .store (BitVec.ofNat 64 (getElem (8 * globBytes h m) (globElem m) (t.poppedSrc [memS0 h m, memS1 h] (memS1 h) l))) cl.step)
    ∃ t', exec (.gst h m) s = .next (s1.putTeam r t') ∧ t'.vregs = t.vregs ∧ t.laneIssues t' cl (t.executing cl.mask h) acc (passCount (t.executingLanes cl h) acc) := by
  intro acc
  rw [← writeRequests_pass t cl, exec_gst, execGst]
  refine laneAccess_issues at_ fresh room ready rfl (planLanes_globAcc1 (fun s l s1 pa e z check => ?_) (nodup_maskLanes _ _) reach)
  rw [Team.headStep_afterPops at_.2.1]
  exact globAcc_of_ok check _

theorem cstore_glob_issues (ready : t.laneReady cl [memS0 h m, memS1 h] [h.dst.toNat]) (glob : m.glob = true)
    (reach : s.laneReaches c.core (elemWidth h.ty / 8) true false (t.slotAddress cl h m [memS0 h m, memS1 h]) (t.executingLanes cl h) = (s1, some ps)) :
    let lanes := t.executingLanes cl h
    let acc := globAcc1 ps (elemWidth h.ty / 8) (t.slotAddress cl h m [memS0 h m, memS1 h])
      (fun l => .store (BitVec.ofNat 64 (getElem (elemWidth h.ty) (selIndex m.sel) (t.poppedSrc [memS0 h m, memS1 h] (memS1 h) l))) cl.step)
    ∃ t', exec (.cstore h m) s = .next (s1.putTeam r t') ∧ t.laneIssues t' cl (t.executing cl.mask h) acc (passCount lanes acc) ∧
      (∀ v l, l < 1024 → t'.vreg v l = if v = h.dst.toNat ∧ l ∈ lanes then BitVec.ofNat 64 (lanes.length + (lanes.countP (fun k => decide (k < l))) * 2 ^ 32) else t.vreg v l) := by
  intro lanes acc
  rw [← writeRequests_pass t cl, exec_cstore, execCstore]
  refine laneAccess_issues_cstore at_ fresh room ready (if_pos glob) (planLanes_globAcc1 (fun s l s1 pa e z check => ?_) (nodup_maskLanes _ _) reach)
  rw [Team.headStep_afterPops at_.2.1]
  exact slotAcc_of_ok glob check _

theorem atom_glob_issues {op : AtomOp} (code : decodeAtomOp m.aop = some op) (glob : m.glob = true) {srcs : List Src}
    (sources : [memS0 h m, memS1 h] ++ (if m.aop = 10#4 then [memS2 h] else []) = srcs) (ready : t.laneReady cl srcs [h.dst.toNat])
    (reach : s.laneReaches c.core (elemWidth h.ty / 8) true true (fun l => (t.poppedSrc srcs (memS0 h m) l).toNat) (t.executingLanes cl h) = (s1, some ps)) :
    ∃ t', exec (.atom h m) s = .next (s1.putTeam r t') ∧ t'.vregs = t.vregs ∧ t.laneIssues t' cl (t.executing cl.mask h)
      (globAcc1 ps (elemWidth h.ty / 8) (fun l => (t.poppedSrc srcs (memS0 h m) l).toNat) (fun l =>
        .atom op (BitVec.ofNat 64 (getElem (elemWidth h.ty) (selIndex m.sel) (t.poppedSrc srcs (memS1 h) l)))
          (BitVec.ofNat 64 (getElem (elemWidth h.ty) (selIndex m.sel) (t.poppedSrc srcs (memS2 h) l))) h.dst (selIndex m.sel))) (t.executingLanes cl h).length := by
  have all : ps.map (·.1) = t.executingLanes cl h :=
    (planLanes_of_reaches (k := atomKind h m (t.afterPops srcs)) (f := fun s l => globAcc s c.core (elemWidth h.ty / 8) (t.poppedSrc srcs (memS0 h m) l) true true _)
      (fun s l s1 pa e z check => globAcc_of_ok check _) reach).1
  rw [← writeRequests_lane t cl _ (nodup_maskLanes _ _) fun l hl => globAcc1_ne_nil (by rw [all]; exact hl), exec_atom, execAtom, sources]
  refine laneAccess_issues at_ fresh room ready (if_pos glob) (planLanes_globAcc1 (fun s l s1 pa e z check => ?_) (nodup_maskLanes _ _) reach)
  dsimp only
  rw [if_pos glob, atomKind_eq code]
  exact globAcc_of_ok check _

end GlobalAccesses

/-- Settles O39: the model translates the lanes' addresses in the order of `laneReaches`, and each lane makes one access. -/
theorem laneGlobalAccesses : Obligations.LaneGlobalAccesses := by
  intro s s1 r c t cl h m ps at_ fresh room w n j x lanes
  refine ⟨?loads, ?stores, ?atomics⟩
  case loads =>
    intro u va slot ready
    exact ⟨gld_issues at_ fresh room ready, xld_glob_issues at_ fresh room ready⟩
  case stores =>
    intro u va slot acc acs
    exact ⟨gst_issues at_ fresh room, cstore_glob_issues at_ fresh room⟩
  case atomics =>
    intro srcs u va ready glob reach op code
    exact atom_glob_issues at_ fresh room code glob rfl ready reach

end Sys2Proof.Machine

namespace Sys2Proof.Machine

section AppendsAtTheMaster

/-! ### The master of a list set (10 R237; 12 R274) -/

theorem exec_wlRunRequest (k : Nat) (s : State) : exec (.wlRunRequest k) s = execWlRunRequest k s := rfl
theorem exec_wlappItemWrite (k : Nat) (s : State) : exec (.wlappItemWrite k) s = execWlappItemWrite k s := rfl
theorem exec_wlCountChange (k : Nat) (s : State) : exec (.wlCountChange k) s = execWlCountChange k s := rfl

/-- What a package notes of an empty pool is the crew's alone. -/
theorem notePool_frame {s : State} {r : TeamRef} {c : Crew} {t : Team} (h : s.teamAt r = some (c, t)) (again : Bool) (z : Option Nat) :
    { s.notePool r again z with crews := s.crews } = s ∧ ((s.notePool r again z).teamAt r).map (·.2) = some t := by
  rw [State.notePool, h]
  dsimp only
  split
  · exact ⟨rfl, by rw [h]; rfl⟩
  · exact ⟨by rw [modCrew_eq (crewAt_of h)]; rfl, by rw [teamAt_modCrew h rfl]; rfl⟩

theorem filter_not_self (it : WlItem) : [it].filter (fun i => !(i == it)) = [] := by simp

/-- The end of an append leaves of its team what it does not write. -/
theorem Team.appendDone_frame (t : Team) (lane : Nat) : ∃ f, t.appendDone lane = { t with lfm := f, lctr := t.lctr - 1#16 } := by
  unfold Team.appendDone Team.laneMended
  split <;> exact ⟨_, rfl⟩

theorem appendEnd_eq {s : State} {it : WlItem} {c : Crew} {t : Team} (items : s.wlItems = [it]) (at_ : s.teamAt it.team = some (c, t)) (code : Nat) :
    s.appendEnd it code = ({ s with wlItems := [] } : State).putTeam it.team ((t.setVreg it.dest.toNat it.lane (BitVec.ofNat 64 code)).appendDone it.lane) := by
  rw [State.appendEnd, items, filter_not_self]
  exact modTeam_eq (s := { s with wlItems := [] }) (c := c) at_ _

/-- What a failed translation of an append leaves of a team that has no trap and nothing to be made again. -/
def Team.lateAppend (t : Team) (q : WlSlot) (cause addr : Nat) : Team :=
  { t.laneTrap cause (BitVec.ofNat 1024 (2 ^ q.lane)) addr with trapLidx := BitVec.ofNat 4 q.idx, lctr := t.lctr - 1#16, slots := [q] }

theorem appendFault_eq {s : State} {it : WlItem} {c : Crew} {t : Team} (items : s.wlItems = [it]) (at_ : s.teamAt it.team = some (c, t)) (fresh : t.restart = none)
    (running : t.faulted = false) (slots : t.slots = []) (again : t.again = []) (pos cause : Nat) (z : Option Nat) : s.appendFault it pos cause z =
      (({ s with wlItems := [], wlHoles := s.wlHoles ++ [⟨it.set, it.list, pos, false, it.team⟩] } : State).putTeam it.team
        (t.lateAppend ⟨it.lane, it.set, it.list, pos, it.dest, it.item, it.clause, it.ord, it.idx⟩ cause (t.clauseAddr it.clause))).notePool it.team false z := by
  have standing : ({ s with wlItems := [], wlHoles := s.wlHoles ++ [⟨it.set, it.list, pos, false, it.team⟩] } : State).teamAt it.team = some (c, t) := at_
  have trap : t.lateTrap it.lane it.idx cause (t.clauseAddr it.clause) =
      { t.laneTrap cause (BitVec.ofNat 1024 (2 ^ it.lane)) (t.clauseAddr it.clause) with trapLidx := BitVec.ofNat 4 it.idx } := by
    simp [Team.lateTrap, fresh, running, slots, again]
  rw [State.appendFault, items, filter_not_self]
  dsimp only
  rw [standing]
  dsimp only
  rw [trap, slots, running]
  rfl

section
variable {s s1 : State} {it : WlItem} {x : Nat} (items : s.wlItems = [it])
include items

/-- A run of one item is granted the list's tail. -/
theorem exec_wlRunRequest_grants {head tail : Nat} (ungranted : it.pos = none) (free : s.appendFree it = true) (block : s.wlRead (s.itemCore it) it.set 64 = some x)
    (ok : (wlBlockOf x).ok = true) (open_ : (wlBlockOf x).state = 0) (busy : (wlBlockOf x).inflight ≠ 0) (listed : it.list < (wlBlockOf x).lists)
    (entry : s.wlEntry (s.itemCore it) it.set it.list = some (head, tail)) (room : tail - head < (wlBlockOf x).cap)
    (put : s.putWlEntry (s.itemCore it) it.set it.list head (tail + 1) (s.itemStep it) = some s1) (kept : s1.wlItems = s.wlItems) :
    exec (.wlRunRequest 0) s = .next { s1 with wlItems := [{ it with pos := some tail }] } := by
  rw [exec_wlRunRequest, execWlRunRequest]
  have run : [it].filter (fun i => i.run == it.run && i.pos.isNone) = [it] := by simp [ungranted]
  have first : [it].any (fun i => i.pos.isNone && i.gang == it.gang && i.set == it.set && decide (i.run < it.run)) = false := by simp
  have test : (wlBlockOf x).test = wlBlockOf x := WlBlock.test_busy (Nat.pos_of_ne_zero busy)
  have one : min ((wlBlockOf x).cap - (tail - head)) 1 = 1 := by omega
  have all : [it].drop ((wlBlockOf x).cap - (tail - head)) = [] := List.drop_eq_nil_of_le (by simp; omega)
  simp only [items, List.getElem?_cons_zero, run, first, ungranted, free, block, test, ok, WlBlock.not_quiescent open_, decide_eq_false (Nat.not_le_of_lt listed), entry,
    List.length_singleton, one, all, put, List.foldl_nil, kept, grantRun]
  simp

/-- An item whose position is granted has its address translated. -/
theorem exec_wlappItemWrite_translates {pos pa : Nat} {e : Word} (granted : it.pos = some pos) (first : it.at_ = none) (block : s.wlRead (s.itemCore it) it.set 64 = some x)
    (kept : s1.wlItems = s.wlItems) (translated : s.translate none (coreDie (s.itemCore it)) ((wlBlockOf x).itemAt it.list pos) true = (s1, .ok pa e)) (plain : pteScm e = false) :
    exec (.wlappItemWrite 0) s = .next { s1 with wlItems := [{ it with at_ := some (pa, e) }] } := by
  rw [exec_wlappItemWrite, execWlappItemWrite]
  simp only [items, List.getElem?_cons_zero, granted, block, first, translated, plain, kept]
  rfl

theorem exec_wlappItemWrite_fails {pos : Nat} (granted : it.pos = some pos) (first : it.at_ = none) (block : s.wlRead (s.itemCore it) it.set 64 = some x)
    (failed : s.translate none (coreDie (s.itemCore it)) ((wlBlockOf x).itemAt it.list pos) true = (s1, .fail)) :
    exec (.wlappItemWrite 0) s = .next (s1.appendFault it pos stTranslation none) := by
  rw [exec_wlappItemWrite, execWlappItemWrite]
  simp only [items, List.getElem?_cons_zero, granted, block, first, failed]

section
variable {pos pa : Nat} {e : Word} (granted : it.pos = some pos) (found : it.at_ = some (pa, e)) (block : s.wlRead (s.itemCore it) it.set 64 = some x)
include granted found block

theorem exec_wlappItemWrite_waits (held : s.appendFree it = false) : exec (.wlappItemWrite 0) s = .next s := by
  rw [exec_wlappItemWrite, execWlappItemWrite]
  simp only [items, List.getElem?_cons_zero, granted, block, found, held, Bool.not_false, Bool.true_or, if_true]

/-- The item is written, counted, and its append ends. -/
theorem exec_wlappItemWrite_writes {s2 s3 : State} (free : s.appendFree it = true)
    (first : ∀ d u, s.teamAt it.team = some (d, u) → s.olderOverlap it.team u .lane it.ord true (.glob ((wlBlockOf x).itemAt it.list pos) pa) 64 = false)
    (written : s.pageWrite ((wlBlockOf x).itemAt it.list pos) pa e (s.itemStep it) 8 it.item.toNat = .ok s2)
    (counted : s2.putWlBlock (s.itemCore it) it.set { wlBlockOf x with appended := (wlBlockOf x).appended + 1 } (s.itemStep it) = some s3) :
    exec (.wlappItemWrite 0) s = .next
      (((s3.l1Update (s.itemCore it) pa 8 it.item.toNat).countRequest (coreDie (s.itemCore it)) pa true).appendEnd it stOk) := by
  rw [exec_wlappItemWrite, execWlappItemWrite]
  cases standing : s.teamAt it.team with
  | none => simp only [items, List.getElem?_cons_zero, granted, block, found, free, standing, Bool.not_true, Bool.false_or, Bool.false_eq_true, if_false, written, counted]
  | some p =>
    have clear := first p.1 p.2 standing
    simp only [items, List.getElem?_cons_zero, granted, block, found, free, standing, clear, Bool.not_true, Bool.false_or, Bool.false_eq_true, if_false, written, counted]
end
end

/-- The item that a kept append is made again as. -/
def State.keptItem (s : State) (r : TeamRef) (c : Crew) (q : WlSlot) : WlItem :=
  { team := r, clause := q.clause, ord := q.ord, gang := coreGang c.core, lane := q.lane, set := q.set, list := q.list, dest := q.dest, item := q.item, run := s.nextRun, idx := q.idx, pos := some q.pos }

/-- The compaction unit has taken a kept append again. -/
def State.rearmed (s : State) (it : WlItem) (holes : List WlHole) : State := { s with wlItems := s.wlItems ++ [it], wlHoles := holes, nextRun := s.nextRun + 1 }

theorem teamAt_rearmed (s : State) (it : WlItem) (holes : List WlHole) (r : TeamRef) : (s.rearmed it holes).teamAt r = s.teamAt r := rfl

/-- A placed team's one kept append is made again at its reserved position. -/
theorem rearmTeam_one {s : State} {r : TeamRef} {c : Crew} {t : Team} {q : WlSlot} (at_ : s.teamAt r = some (c, t)) (slots : t.slots = [q]) (again : t.again = []) :
    ∃ holes, s.rearmTeam r = (s.rearmed (s.keptItem r c q) holes).putTeam r { t with slots := [], lctr := t.lctr + 1#16 } := by
  refine ⟨s.wlHoles.filter (fun h => !(h.owner == r && t.slots.any (fun q => q.set == h.set && q.list == h.list && q.pos == h.pos))), ?_⟩
  rw [State.rearmTeam, at_]
  dsimp only
  rw [again, slots]
  rfl

/-- The step that a change to a set carries. -/
def State.changeStep (s : State) (w : WlChange) : BitVec 32 :=
  match s.teamAt w.team with
  | none => 0#32
  | some (_, t) => t.stepNow

/-- A change reaches the master. -/
theorem exec_wlCountChange_retires {s s1 : State} {w : WlChange} {rest : List WlChange} {b : WlBlock} (changes : s.wlChanges = w :: rest) (block : s.wlBlock (4 * w.gang) w.set = some b)
    (put : s.putWlBlock (4 * w.gang) w.set (b.retire w.retire) (s.changeStep w) = some s1) (kept : s1.wlChanges = s.wlChanges) :
    exec (.wlCountChange 0) s = .next { s1 with wlChanges := rest } := by
  rw [State.changeStep] at put
  rw [exec_wlCountChange, execWlCountChange]
  cases standing : s.teamAt w.team <;>
  · rw [standing] at put
    dsimp only at put
    simp only [changes, List.getElem?_cons_zero, List.take_zero, List.any_nil, Bool.false_eq_true, if_false, block, standing, put, kept, List.eraseIdx_cons_zero]

end AppendsAtTheMaster
section AppendsOfLanes

/-! ### WLAPP (10 R221, R237; 02 R47) -/

theorem exec_wlapp (h : LaneHead) (m : ModM) (s : State) : exec (.wlapp h m) s = execWlapp h m s := rfl

theorem globCheck_outsideMemory (s : State) (core va n : Nat) (wr rd : Bool) : (s.globCheck core va n wr rd).1.outsideMemory = s.outsideMemory := by
  have kept := translate_outsideMemory s (some core) (coreDie core) va wr
  unfold State.globCheck
  split
  · rfl
  · generalize s.translate (some core) (coreDie core) va wr = q at kept ⊢
    obtain ⟨s1, x⟩ := q
    cases x with
    | ok pa e => dsimp only; split_ifs <;> exact kept
    | fail | lost | empty z => exact kept

/-- How an append begins once its control block is reached (08 R181). -/
def WlBlock.start (b : WlBlock) (list : Nat) : WlStart := if b.ok = false then .refused false else if b.lists ≤ list then .refused true else .item

theorem wlStart_of_check {s s1 : State} {core set pa : Nat} {e : Word} {z : Option Nat} (check : s.globCheck core set 64 true true = (s1, .ok (pa, e), z)) (list : Nat) :
    wlStart s core false set list = (s1, (wlBlockOf (s1.physRead pa 64)).start list) := by
  rw [wlStart, if_neg Bool.false_ne_true, check]
  dsimp only
  rw [WlBlock.start]
  simp

theorem getElem_word (x : Word) : getElem 32 0 x = x.toNat % 2 ^ 32 := by rw [getElem, Nat.mul_zero, Nat.pow_zero, Nat.div_one]

/-- A team that joins a set changes its standing in the sets alone. -/
theorem Team.joinSet_frame (t : Team) (set : Nat) : ∃ wl, t.joinSet set = { t with wl := wl } ∧ ∃ q, q ∈ wl ∧ q.set = set := by
  unfold Team.joinSet
  split
  · next joined =>
    obtain ⟨q, hq, same⟩ := List.any_eq_true.1 joined
    exact ⟨t.wl, rfl, q, hq, by simpa using same⟩
  · exact ⟨_, rfl, ⟨set, 0, true⟩, List.mem_append_right _ (List.mem_singleton_self _), rfl⟩

section
variable {s s1 : State} {r : TeamRef} {cl : Clause} {h : LaneHead} {core : Nat} {bad : Nat → Bool} {a b c : Nat → Word} {l : Nat} (ord idx base : Nat)

theorem wlLanes_refused {named : Bool} (start : wlStart s core (bad l) (a l).toNat (getElem 32 0 (c l)) = (s1, .refused named)) :
    wlLanes r cl h core bad a b c ord idx base [l] s [] = ((if named then s1.modTeam r (fun t => t.joinSet (a l).toNat) else s1).laneStatus r h.dst l stBounds, []) := by
  simp only [wlLanes, start]

/-- The item that a lane's append hands to the compaction unit. -/
def laneItem (r : TeamRef) (cl : Clause) (h : LaneHead) (core : Nat) (a b c : Nat → Word) (ord idx run l : Nat) : WlItem :=
  { team := r, clause := cl.uid, ord := ord, gang := coreGang core, lane := l, set := (a l).toNat, list := getElem 32 0 (c l), dest := h.dst, item := b l, run := run, idx := idx }

/-- The compaction unit has taken a run of one item. -/
def State.withItem (s : State) (it : WlItem) : State := { s with wlItems := [it], nextRun := max s.nextRun (s.nextRun + 1) }

theorem teamAt_withItem (s : State) (it : WlItem) (r : TeamRef) : (s.withItem it).teamAt r = s.teamAt r := rfl

theorem wlLanes_item (start : wlStart s core (bad l) (a l).toNat (getElem 32 0 (c l)) = (s1, .item)) (none_ : s1.wlItems = []) :
    wlLanes r cl h core bad a b c ord idx base [l] s [] =
      ((s1.withItem (laneItem r cl h core a b c ord idx s1.nextRun l)).modTeam r (fun t => { t.joinSet (a l).toNat with lctr := t.lctr + 1#16 }), []) := by
  simp only [wlLanes, start, none_, List.find?_nil, List.nil_append]
  rfl
end

/-- The sources of WLAPP: the set, the item, the list. -/
abbrev wlappSrcs (h : LaneHead) (m : ModM) : List Src := [memS0 h m, memS1 h, memS2 h]

/-- The team whose lanes append: the pops made, the instruction's place in the program order taken. -/
def Team.appending (t : Team) (h : LaneHead) (m : ModM) : Team := { t.afterPops (wlappSrcs h m) with nextOrd := (t.afterPops (wlappSrcs h m)).nextOrd + 1 }

theorem Team.appending_frame (t : Team) (h : LaneHead) (m : ModM) : ∃ qu tk, t.appending h m = { t with queues := qu, taken := tk, nextOrd := t.nextOrd + 1 } := by
  obtain ⟨qu, tk, pops⟩ := t.afterPops_frame (wlappSrcs h m)
  exact ⟨qu, tk, by rw [Team.appending, pops]⟩

/-- A lane's append is under way, and counted. -/
def Team.appended (t : Team) (set : Nat) : Team := { t.joinSet set with lctr := t.lctr + 1#16 }

/-- A lane's append is refused with BOUNDS; the set is joined where the control block passes its checks. -/
def Team.refused (t : Team) (named : Bool) (set d l : Nat) : Team := (if named then t.joinSet set else t).setVreg d l 7#64

theorem appended_spec (t : Team) (h : LaneHead) (m : ModM) (set : Nat) (buf : Option (SMap 64)) : let v := ((t.appending h m).appended set).laneDone buf
    v.lctr = t.lctr + 1#16 ∧ v.vregs = t.vregs ∧ v.lwaits = t.lwaits ∧ v.lidx = t.lidx + 1 ∧ ∃ q, q ∈ v.wl ∧ q.set = set := by
  obtain ⟨wl, joins, joined⟩ := (t.appending h m).joinSet_frame set
  obtain ⟨qu, tk, app⟩ := t.appending_frame h m
  rw [Team.appended, joins, app]
  exact ⟨rfl, rfl, rfl, rfl, joined⟩

theorem refused_spec (t : Team) (h : LaneHead) (m : ModM) (named : Bool) (set d l : Nat) (buf : Option (SMap 64)) : let v := ((t.appending h m).refused named set d l).laneDone buf
    v.vreg d l = 7#64 ∧ v.lidx = t.lidx + 1 ∧ (named = false → v.wl = t.wl) ∧ (named = true → ∃ q, q ∈ v.wl ∧ q.set = set) ∧ v.lctr = t.lctr := by
  obtain ⟨wl, joins, joined⟩ := (t.appending h m).joinSet_frame set
  obtain ⟨qu, tk, app⟩ := t.appending_frame h m
  have status : cellGet (cellSet t.vregs (d * 1024 + l) 7#64) (d * 1024 + l) = 7#64 := cellGet_cellSet_self _ _ _
  cases named with
  | false =>
    rw [Team.refused, if_neg Bool.false_ne_true, app]
    exact ⟨status, rfl, fun _ => rfl, nofun, rfl⟩
  | true =>
    rw [Team.refused, if_pos rfl, joins, app]
    exact ⟨status, rfl, nofun, fun _ => joined, rfl⟩

theorem exec_wlapp_one {s s1 : State} {r : TeamRef} {c : Crew} {t : Team} {cl : Clause} {h : LaneHead} {m : ModM} {l : Nat} (one : s.oneLane r c t cl h l) (room : t.lctr.toNat < 65535)
    (ready : t.laneReady cl (wlappSrcs h m) [h.dst.toNat])
    (lanes : wlLanes r cl h c.core ((t.afterPops (wlappSrcs h m)).laneErrAt (wlappSrcs h m)) (t.poppedSrc (wlappSrcs h m) (memS0 h m)) (t.poppedSrc (wlappSrcs h m) (memS1 h))
      (t.poppedSrc (wlappSrcs h m) (memS2 h)) t.nextOrd t.lidx s.nextRun [l] (s.putTeam r (t.appending h m)) [] = (s1, [])) :
    exec (.wlapp h m) s = .next (s1.modTeam r (fun v => v.laneDone ((t.afterPops (wlappSrcs h m)).memKeep h m))) := by
  obtain ⟨at_, -, -, single⟩ := one
  obtain ⟨qu, tk, pops⟩ := t.afterPops_frame (wlappSrcs h m)
  have same : (t.afterPops (wlappSrcs h m)).nextOrd = t.nextOrd ∧ (t.afterPops (wlappSrcs h m)).lidx = t.lidx ∧ (t.afterPops (wlappSrcs h m)).lctr = t.lctr := by
    rw [pops]
    exact ⟨rfl, rfl, rfl⟩
  obtain ⟨ord, idx, counter⟩ := same
  have alone : maskLanes (t.executing cl.mask h) (t.afterPops (wlappSrcs h m)).lanes = [l] := by rw [lanes_afterPops, single]
  have counted : ¬65535 < (t.afterPops (wlappSrcs h m)).lctr.toNat + (maskLanes (t.executing cl.mask h) (t.afterPops (wlappSrcs h m)).lanes).length := by
    rw [counter, alone, List.length_singleton]
    omega
  rw [← alone, ← ord, ← idx] at lanes
  rw [exec_wlapp, execWlapp]
  refine (laneFrame_ready at_ ready h _).trans (congrArg Host.Outcome.next ((if_neg counted).trans ?_))
  exact congrArg (fun q : State × List (Nat × Nat × Option Nat) => if q.2.isEmpty then q.1.modTeam r (fun u => u.laneDone ((t.afterPops (wlappSrcs h m)).memKeep h m))
    else q.1.lanesFault r cl (t.executing cl.mask h) q.2) lanes

/-- Two changes of a team are one. -/
theorem modTeam_modTeam {s : State} {r : TeamRef} {c : Crew} {t : Team} (h : s.teamAt r = some (c, t)) (f g : Team → Team) :
    (s.modTeam r f).modTeam r g = s.putTeam r (g (f t)) := by
  rw [modTeam_eq h, modTeam_eq (teamAt_putTeam h _), putTeam_putTeam h]

section
variable {s s1 : State} {r : TeamRef} {c : Crew} {t : Team} {cl : Clause} {h : LaneHead} {m : ModM} {l pa : Nat} {e : Word}
  (check : (s.putTeam r (t.appending h m)).globCheck c.core (t.poppedSrc (wlappSrcs h m) (memS0 h m) l).toNat 64 true true = (s1, .ok (pa, e), none))
include check

theorem wlItems_checked : s1.wlItems = s.wlItems := by
  have same := globCheck_outsideMemory (s.putTeam r (t.appending h m)) c.core (t.poppedSrc (wlappSrcs h m) (memS0 h m) l).toNat 64 true true
  rw [check] at same
  exact (congrArg State.wlItems same :).trans (State.putTeam_wlItems _ _ _)

variable (one : s.oneLane r c t cl h l)
include one

/-- The check of the control block leaves the team. -/
theorem teamAt_checked : s1.teamAt r = some (c.putTeam r.team (t.appending h m), t.appending h m) := by
  have same := globCheck_outsideMemory (s.putTeam r (t.appending h m)) c.core (t.poppedSrc (wlappSrcs h m) (memS0 h m) l).toNat 64 true true
  rw [check] at same
  exact (teamAt_congr (congrArg State.crews same :) r).trans (teamAt_putTeam one.1.1.2 _)

variable (ready : t.laneReady cl (wlappSrcs h m) [h.dst.toNat])
include ready

/-- How the one lane's append begins. -/
theorem wlStart_checked {k : WlStart} (block : (wlBlockOf (s1.physRead pa 64)).start ((t.poppedSrc (wlappSrcs h m) (memS2 h) l).toNat % 2 ^ 32) = k) :
    wlStart (s.putTeam r (t.appending h m)) c.core ((t.afterPops (wlappSrcs h m)).laneErrAt (wlappSrcs h m) l) (t.poppedSrc (wlappSrcs h m) (memS0 h m) l).toNat
      (getElem 32 0 (t.poppedSrc (wlappSrcs h m) (memS2 h) l)) = (s1, k) := by
  obtain ⟨-, -, -, -, clean⟩ := ready
  obtain ⟨qu, tk, pops⟩ := t.afterPops_frame (wlappSrcs h m)
  have small : l < 1024 := lt_of_mem_maskLanes (n := t.lanes) (by rw [one.2.2.2]; exact List.mem_singleton_self l)
  have errors : (t.afterPops (wlappSrcs h m)).laneErrAt (wlappSrcs h m) l = false := Team.laneErrAt_eq_false fun v hv => by rw [pops]; exact clean v hv l small
  rw [errors, wlStart_of_check check, ← block, getElem_word]

variable (room : t.lctr.toNat < 65535)
include room

/-- The lane's item goes to the compaction unit, and the team has joined the set. -/
theorem exec_wlapp_item (none_ : s.wlItems = []) (block : (wlBlockOf (s1.physRead pa 64)).start ((t.poppedSrc (wlappSrcs h m) (memS2 h) l).toNat % 2 ^ 32) = .item) :
    exec (.wlapp h m) s = .next ((s1.withItem
        (laneItem r cl h c.core (t.poppedSrc (wlappSrcs h m) (memS0 h m)) (t.poppedSrc (wlappSrcs h m) (memS1 h)) (t.poppedSrc (wlappSrcs h m) (memS2 h)) t.nextOrd t.lidx s1.nextRun l)).putTeam r
      (((t.appending h m).appended (t.poppedSrc (wlappSrcs h m) (memS0 h m) l).toNat).laneDone ((t.afterPops (wlappSrcs h m)).memKeep h m))) := by
  have start := wlStart_checked check one ready block
  refine (exec_wlapp_one one room ready (wlLanes_item _ _ _ start ((wlItems_checked check).trans none_))).trans (congrArg Host.Outcome.next ?_)
  exact modTeam_modTeam ((teamAt_withItem _ _ _).trans (teamAt_checked check one)) _ _

theorem exec_wlapp_refused {named : Bool} (block : (wlBlockOf (s1.physRead pa 64)).start ((t.poppedSrc (wlappSrcs h m) (memS2 h) l).toNat % 2 ^ 32) = .refused named) :
    exec (.wlapp h m) s = .next (s1.putTeam r
      (((t.appending h m).refused named (t.poppedSrc (wlappSrcs h m) (memS0 h m) l).toNat h.dst.toNat l).laneDone ((t.afterPops (wlappSrcs h m)).memKeep h m))) := by
  have start := wlStart_checked check one ready block
  refine (exec_wlapp_one one room ready (wlLanes_refused _ _ _ start)).trans (congrArg Host.Outcome.next ?_)
  have standing := teamAt_checked check one
  cases named with
  | false => exact modTeam_modTeam standing _ _
  | true =>
    rw [if_pos rfl, State.laneStatus, modTeam_eq standing, modTeam_modTeam (teamAt_putTeam standing _), putTeam_putTeam standing]
    rfl
end

end AppendsOfLanes

/-- Settles O29: the master's moves by the case of the one item or change; WLAPP by how its one lane's append begins. -/
theorem workListAppend : Obligations.WorkListAppend := by
  refine ⟨⟨?grants, ?translates, ?rearms, ?writes, ?retires⟩, ?appends⟩
  case grants =>
    intro s s1 it x head tail items ungranted free block b ok open_ busy listed entry room put kept
    exact exec_wlRunRequest_grants items ungranted free block ok open_ busy listed entry room put kept
  case translates =>
    intro s s1 it x pos items granted first block kept va
    refine ⟨fun pa e translated plain => exec_wlappItemWrite_translates items granted first block kept translated plain, ?_⟩
    intro c t failed at_ fresh running slots again q
    have fault := appendFault_eq (kept.trans items) at_ fresh running slots again pos stTranslation none
    have standing := teamAt_putTeam (s := { s1 with wlItems := [], wlHoles := s1.wlHoles ++ [⟨it.set, it.list, pos, false, it.team⟩] }) at_
      (t.lateAppend q stTranslation (t.clauseAddr it.clause))
    obtain ⟨frame, after⟩ := notePool_frame standing false none
    rw [← fault] at frame after
    refine ⟨_, _, exec_wlappItemWrite_fails items granted first block failed, ?_, ?_, sameBytes_of_mem ?_, after, rfl, rfl, rfl, rfl, rfl, rfl, rfl, rfl, rfl⟩
    · exact (congrArg State.wlItems frame :).trans (State.putTeam_wlItems _ _ _)
    · exact (congrArg State.wlHoles frame :).trans (State.putTeam_wlHoles _ _ _)
    · exact (congrArg State.mem frame :).trans (State.putTeam_mem _ _ _)
  case rearms =>
    intro s r c t q at_ slots again
    obtain ⟨holes, rearmed⟩ := rearmTeam_one at_ slots again
    rw [rearmed]
    exact ⟨_, State.putTeam_wlItems _ _ _, rfl, rfl, rfl, rfl, rfl, rfl, rfl, rfl, congrArg (Option.map (·.2)) (teamAt_putTeam ((teamAt_rearmed _ _ _ _).trans at_) _)⟩
  case writes =>
    intro s s2 s3 it x pos pa e c t items granted found block
    refine ⟨exec_wlappItemWrite_waits items granted found block, fun free first written counted kept at_ => ?_⟩
    obtain ⟨p, n, request⟩ := countRequest_eq (s3.l1Update (s.itemCore it) pa 8 it.item.toNat) (coreDie (s.itemCore it)) pa true
    have ended := appendEnd_eq (s := (s3.l1Update (s.itemCore it) pa 8 it.item.toNat).countRequest (coreDie (s.itemCore it)) pa true) (it := it) (c := c) (t := t)
      (by rw [request]; exact kept.trans items) (by rw [request]; exact at_) stOk
    have status : cellGet (cellSet t.vregs (it.dest.toNat * 1024 + it.lane) 0#64) (it.dest.toNat * 1024 + it.lane) = 0#64 := cellGet_cellSet_self _ _ _
    obtain ⟨f, done⟩ := (t.setVreg it.dest.toNat it.lane (BitVec.ofNat 64 stOk)).appendDone_frame it.lane
    rw [done, request] at ended
    refine ⟨_, { t.setVreg it.dest.toNat it.lane (BitVec.ofNat 64 stOk) with lfm := f, lctr := t.lctr - 1#16 },
      exec_wlappItemWrite_writes items granted found block free first written counted, ?_, sameBytes_of_mem ?_, ?_, status, rfl, rfl, rfl⟩
    · rw [request, ended]
      exact State.putTeam_wlItems _ _ _
    · rw [request, ended]
      exact State.putTeam_mem _ _ _
    · rw [request, ended]
      exact congrArg (Option.map (·.2)) (teamAt_putTeam (s := { (s3.l1Update (s.itemCore it) pa 8 it.item.toNat) with perf := p, free := n, wlItems := [] }) at_ _)
  case retires =>
    intro s s1 w rest b changes block put kept
    exact exec_wlCountChange_retires changes block put kept
  case appends =>
    intro s s1 r c t cl h m l pa e one room none_ u set list ready check b bounds
    have refuses (named : Bool) (block : b.start list = .refused named) : bounds named := by
      obtain ⟨status, passes, stays, joins, counter⟩ := refused_spec t h m named set h.dst.toNat l ((t.afterPops (wlappSrcs h m)).memKeep h m)
      exact ⟨_, _, exec_wlapp_refused check one ready room block, (State.putTeam_wlItems _ _ _).trans ((wlItems_checked check).trans none_),
        congrArg (Option.map (·.2)) (teamAt_putTeam (teamAt_checked check one) _), status, passes, stays, joins, counter, sameBytes_of_mem (State.putTeam_mem _ _ _)⟩
    refine ⟨fun ok listed => ?item, fun ok beyond => refuses true ?_, fun bad => refuses false ?_⟩
    case item =>
      have block : b.start list = .item := by rw [WlBlock.start, if_neg (by simp [ok]), if_neg (by omega)]
      obtain ⟨counter, registers, idle, passes, joined⟩ := appended_spec t h m set ((t.afterPops (wlappSrcs h m)).memKeep h m)
      refine ⟨_, _, _, exec_wlapp_item check one ready room none_ block, State.putTeam_wlItems _ _ _, rfl, rfl, rfl, getElem_word _, rfl, rfl, rfl, rfl, rfl,
        congrArg (Option.map (·.2)) (teamAt_putTeam ((teamAt_withItem _ _ _).trans (teamAt_checked check one)) _), counter, registers, idle.trans one.1.2.2.2.1,
        passes, joined, sameBytes_of_mem (State.putTeam_mem _ _ _)⟩
    · rw [WlBlock.start, if_neg (by simp [ok]), if_pos beyond]
    · rw [WlBlock.start, if_pos bad]

end Sys2Proof.Machine

namespace Sys2Proof.Machine

section WideQueue

/-! ### A message taken from a queue of 64-bit words (10 R234; 05 R105)

RemoteAndMessages asks of the queue of its MSGTAKE no format, and so speaks of queue tiles that TALLOC refuses too. MSGTAKE puts word 2j of an entry
and 2^32 times word 2j + 1 together in one register: where an element is wider than 32 bits, its high half is added to the next word. -/

/-- One entry of two 64-bit words, 2^32 and 0. -/
def wideQueue : Tile :=
  { uid := 1, handle := 7, n0 := 1, n1 := 2, n2 := 1, n3 := 1, fmt := 7, planes := 0, layout := 0, tags := false, queue := true, words := [(1, 1#32)], tail := 1#32 }

/-- MSGTAKE of lane 0 from handle 7, to register 0 with the status in register 1. -/
def takeHead : LaneHead := { ty := 6, dst := 0, s0 := 0, s1 := 0, s2 := 1, b0 := false, b1 := false, b2 := false, retain := 0, z0 := false, z1 := false, z2 := false, guard := 15, neg := false, md := false }
def takeMod : ModM := ⟨7, 0, 0, false, false, 0, 0⟩

def takeClause : Clause := { uid := 0, addr := 0, count := 1, mask := 1#1024, wait := 0#12, holds := 0#12, step := 0#32, ord := 0, fence := 0, started := true }
def takeTeam : Team := { id := 0, lanes := 32, regs := 8, priv := false, pc := 0#64, queue := [takeClause] }
def takeCrew : Crew := { launchId := 0#32, crewId := 0#32, place := some 0, born := 0, lastRegion := 0, teams := [takeTeam], tiles := [wideQueue] }
/-- The package at reset with that crew in it, its team acting. -/
def takeState : State := { State.reset with crews := [takeCrew], focus := some ⟨0, 0⟩ }

/-- A lane register of a team after an outcome that goes on. -/
def Out.vregOf (r : TeamRef) (v l : Nat) : Out → Option Word
  | .next s => (s.teamAt r).map (fun p => p.2.vreg v l)
  | _ => none

/-- The register's high half is 1, where word 1 of the entry is 0. -/
theorem wideTake_register : Out.vregOf ⟨0, 0⟩ 0 0 (exec (.msgtake takeHead takeMod) takeState) = some 0x100000000#64 := by decide +kernel

theorem takeTeam_stands : takeState.oneLane ⟨0, 0⟩ takeCrew takeTeam takeClause takeHead 0 :=
  ⟨⟨⟨rfl, rfl⟩, rfl, rfl, rfl, by decide⟩, rfl, rfl, by decide +kernel⟩

theorem takeTeam_ready : takeTeam.laneReady takeClause [] [takeHead.dst.toNat, takeHead.s2.toNat] := by decide +kernel

end WideQueue

/-- Refutes O41: MSGTAKE of a queue whose words are 64 bits wide adds the high half of one word to the next. -/
theorem not_remoteAndMessages : ¬ Obligations.RemoteAndMessages := by
  intro h
  obtain ⟨-, -, take⟩ := h takeState ⟨0, 0⟩ takeCrew takeTeam takeClause takeHead takeMod 0 0 wideQueue takeTeam_stands rfl (by decide) (by decide) (by decide)
  obtain ⟨s', t', run, at_, -, -, words⟩ := take takeTeam_ready rfl rfl rfl (by decide) (by decide) (.inr (by decide)) (by decide) (by decide +kernel) (by decide +kernel)
  obtain ⟨p, placed, rfl⟩ := Option.map_eq_some_iff.1 at_
  have register : p.2.vreg 0 0 = 0x100000000#64 := by
    have value := wideTake_register
    rw [run, Out.vregOf, placed] at value
    exact Option.some.inj value
  have word := words 1 (by decide)
  rw [show p.2.vreg (takeHead.dst.toNat + 1 / 2) 0 = p.2.vreg 0 0 from rfl, register] at word
  exact absurd word (by decide +kernel)
end Sys2Proof.Machine

namespace Sys2Proof.Machine

section TagsOfTiles

/-! ### Tags and waiters after an update of a team (05 R101; 10 R227) -/

/-- A member replaced by one that contributes the same. -/
theorem flatMap_set_eq {α β : Type} {l : List α} {i : Nat} {x y : α} {f : α → List β} (at_ : l[i]? = some x) (same : f y = f x) : (l.set i y).flatMap f = l.flatMap f := by
  obtain ⟨hi, value⟩ := List.getElem?_eq_some_iff.1 at_
  have kept : f y = (l.map f)[i]'(by simpa using hi) := by rw [List.getElem_map, value, same]
  rw [List.flatMap_def, List.map_set, kept, List.set_getElem_self, List.flatMap_def]

section
variable {s : State} {r : TeamRef} {c : Crew} {t u : Team} (at_ : s.teamAt r = some (c, t))
include at_

theorem tileAt_putTeam (k uid : Nat) : (s.putTeam r u).tileAt k uid = s.tileAt k uid := by
  rw [State.tileAt, putTeam_crewAt at_]
  by_cases own : r.crew = k
  · subst own
    rw [if_pos rfl, tileAt_of at_]
    rfl
  · rw [if_neg own, State.tileAt]

theorem tagWaiters_putTeam (scalar : u.swait = t.swait) (lanes : u.lwaits = t.lwaits) : (s.putTeam r u).tagWaiters = s.tagWaiters := by
  obtain ⟨crew, team⟩ := teamAt_eq.1 at_
  rw [State.tagWaiters, State.tagWaiters, State.putTeam_commands, putTeam_eq at_]
  refine congrArg (· ++ _) (flatMap_set_eq crew (flatMap_set_eq team ?_))
  rw [scalar, lanes]

theorem servable_putTeam (scalar : u.swait = t.swait) (lanes : u.lwaits = t.lwaits) (n : Nat) (g : TagWant) : (s.putTeam r u).servable n g = s.servable n g := by
  have holds (g : TagWant) : (s.putTeam r u).tagHolds g = s.tagHolds g := by rw [State.tagHolds, State.tagHolds, tileAt_putTeam at_]
  have overlap (a b : Loc) : (s.putTeam r u).locOverlap a 0 b 0 = s.locOverlap a 0 b 0 := by
    simp only [State.locOverlap, tileAt_putTeam at_]
  rw [State.servable, State.servable, tagWaiters_putTeam at_ scalar lanes]
  simp only [holds, overlap]
end

end TagsOfTiles

section BeginningsOfWaits

/-! ### The first pass of a waiting instruction (10 R221, R222) -/

/-- Nothing of the team's earlier instructions is outstanding. -/
abbrev State.nothingOut (s : State) (r : TeamRef) (t : Team) : Prop := t.pending = [] ∧ (∀ i, i ∈ s.wlItems → i.team ≠ r) ∧ ∀ k, k ∈ s.matrix → k.team ≠ r

section
variable {s : State} {r : TeamRef} {t : Team} (clear : s.nothingOut r t)
include clear

theorem clausesDone_of_nothingOut (uid : Nat) : s.clausesDone r uid = true := by
  obtain ⟨-, items, commands⟩ := clear
  exact Bool.and_eq_true_iff.2 ⟨List.all_eq_true.2 fun i hi => by simp [items i hi], List.all_eq_true.2 fun k hk => by simp [commands k hk]⟩

theorem clauseFree_of_nothingOut (cl : Clause) : s.clauseFree r t cl = true := by
  rw [State.clauseFree, clausesDone_of_nothingOut clear, clear.1]
  rfl

theorem laneIdle_of_nothingOut : s.laneIdle r t = true := by
  obtain ⟨none_, items, commands⟩ := clear
  have stream : t.streamIdle .lane = true := by rw [Team.streamIdle, none_]; rfl
  exact Bool.and_eq_true_iff.2 ⟨Bool.and_eq_true_iff.2 ⟨stream, List.all_eq_true.2 fun i hi => by simpa using items i hi⟩, List.all_eq_true.2 fun k hk => by simpa using commands k hk⟩

theorem olderOverlap_of_nothingOut (ord : Nat) (store : Bool) (a : Loc) (w : Nat) : s.olderOverlap r t .lane ord store a w = false := by
  obtain ⟨none_, items, commands⟩ := clear
  have noCommand : s.matrix.any (fun m => m.team == r && decide (m.ord < ord) && s.drainTouches m store a w) = false := List.any_eq_false.2 fun k hk => by simp [commands k hk]
  have noItem : s.wlItems.any (fun i => i.team == r && decide (i.ord < ord) && s.itemTouches i a w) = false := List.any_eq_false.2 fun i hi => by simp [items i hi]
  rw [State.olderOverlap, none_, noCommand, noItem]
  rfl

theorem nothingOut_afterPops (srcs : List Src) : s.nothingOut r (t.afterPops srcs) := by
  obtain ⟨qu, tk, pops⟩ := t.afterPops_frame srcs
  rw [pops]
  exact clear

theorem tagReady_of_nothingOut (h : LaneHead) (m : ModM) (store : Bool) (c : Crew) (x : Mask) : tagReady h m store s r c t x = true := by
  refine List.all_eq_true.2 fun l _ => ?_
  split
  · rw [olderOverlap_of_nothingOut clear]; rfl
  · rfl
end

/-- The team of a waiting instruction whose pass begins. -/
def Team.beginning (u : Team) (h : LaneHead) (m : ModM) : Team :=
  { u with taken := u.popped, restart := none, lfm := if u.restart.isSome then 0#1024 else u.lfm, obufNext := u.memKeep h m }

/-- The state in which its lanes are tried. -/
def State.beginning (s : State) (r : TeamRef) (t : Team) (srcs : List Src) (h : LaneHead) (m : ModM) : State :=
  { s.putTeam r ((t.afterPops srcs).beginning h m) with nextWait := s.nextWait + (t.afterPops srcs).bands }

/-- The wait of a lane. -/
def firstWait (s : State) (t : Team) (i : Instr) (m : ModM) (srcs : List Src) (a b : Src) (l : Nat) (g : Option TagWant) : LaneWait :=
  ⟨l, i, if m.e = 31#5 then none else some (2 ^ m.e.toNat), s.nextWait + l / 32, g, t.poppedSrc srcs a l, t.poppedSrc srcs b l, 0⟩

/-- `v` is `t` but for what an instruction under way may change: the pops, the operand buffer to come, lane registers, none of which comes to hold an error. -/
def Team.underWay (t v : Team) : Prop :=
  ∃ qu tk ob vr le, v = { t with queues := qu, taken := tk, obufNext := ob, vregs := vr, laneErr := le } ∧ ∀ k, k ∈ le → k ∈ t.laneErr

theorem Team.underWay_beginning {t : Team} (fresh : t.restart = none) (srcs : List Src) (h : LaneHead) (m : ModM) : t.underWay ((t.afterPops srcs).beginning h m) := by
  obtain ⟨qu, tk, pops⟩ := t.afterPops_frame srcs
  refine ⟨qu, (t.afterPops srcs).popped, (t.afterPops srcs).memKeep h m, t.vregs, t.laneErr, ?_, fun _ hk => hk⟩
  rw [Team.beginning, pops, fresh]
  rfl

theorem Team.underWay.setVreg {t v : Team} (way : t.underWay v) (d l : Nat) (x : Word) : t.underWay (v.setVreg d l x) := by
  obtain ⟨qu, tk, ob, vr, le, rfl, errs⟩ := way
  exact ⟨qu, tk, ob, _, _, rfl, fun k hk => errs k (List.mem_of_mem_filter hk)⟩

theorem Team.vreg_beginning (t : Team) (srcs : List Src) (h : LaneHead) (m : ModM) (v l : Nat) : ((t.afterPops srcs).beginning h m).vreg v l = t.vreg v l :=
  Team.vreg_afterPops t srcs v l

section
variable {s : State} {r : TeamRef} {c : Crew} {t : Team} {cl : Clause} {h : LaneHead} {l : Nat} (one : s.oneLane r c t cl h l) (srcs : List Src) (m : ModM)
include one

theorem teamAt_beginning : (s.beginning r t srcs h m).teamAt r = some (c.putTeam r.team ((t.afterPops srcs).beginning h m), (t.afterPops srcs).beginning h m) :=
  teamAt_putTeam one.1.1.2 _

omit one in
theorem beginning_waits : ((t.afterPops srcs).beginning h m).swait = t.swait ∧ ((t.afterPops srcs).beginning h m).lwaits = t.lwaits := by
  obtain ⟨qu, tk, pops⟩ := t.afterPops_frame srcs
  rw [pops]
  exact ⟨rfl, rfl⟩

theorem servable_beginning (n : Nat) (g : TagWant) : (s.beginning r t srcs h m).servable n g = s.servable n g := by
  obtain ⟨scalar, lanes⟩ := beginning_waits srcs m
  exact servable_putTeam one.1.1.2 scalar lanes n g

theorem tagHolds_beginning (g : TagWant) : (s.beginning r t srcs h m).tagHolds g = s.tagHolds g := by
  have same : (s.beginning r t srcs h m).tileAt g.crew g.uid = s.tileAt g.crew g.uid := tileAt_putTeam one.1.1.2 _ _
  rw [State.tagHolds, State.tagHolds, same]

omit one in
theorem mmaHeld_beginning (k uid : Nat) (x : Coord) : (s.beginning r t srcs h m).mmaHeld k uid x = s.mmaHeld k uid x :=
  congrArg (fun ms : List MCmd => ms.any _) (State.putTeam_matrix s r _)
end

/-- One lane tried in its pass. -/
def State.tried (s : State) (r : TeamRef) (e : BitVec 5) (x : LaneWait) : State × List (Nat × Nat × Option Nat) := waitLanes r e (fun _ _ => .ok x) [x.lane] s []

theorem waitLanes_one {r : TeamRef} {e : BitVec 5} {w : State → Nat → Except Nat LaneWait} {s : State} {l : Nat} {x : LaneWait} (lane : x.lane = l) (wait : w s l = .ok x) :
    waitLanes r e w [l] s [] = s.tried r e x := by
  rw [State.tried, lane, waitLanes, waitLanes, wait]
  rfl

section
variable {s : State} {r : TeamRef} {e : BitVec 5} {x : LaneWait}

theorem tried_resolves {s1 : State} (resolved : laneTryFirst s r x = some (.ok s1)) : s.tried r e x = (s1, []) := by
  simp only [State.tried, waitLanes, resolved]

variable (unserved : laneTryFirst s r x = none)
include unserved

theorem tried_expires (zero : e = 0#5) (free : s.laneHeld r x = false) : s.tried r e x = (s.laneExpire r x, []) := by
  simp only [State.tried, waitLanes, unserved, zero, free, decide_true, Bool.not_false, Bool.and_true, if_true]

theorem tried_waits (held : e = 0#5 → s.laneHeld r x = true) :
    s.tried r e x = (s.modTeam r (fun t => { t with lwaits := t.lwaits ++ [if e = 0#5 then { x with remaining := some 0 } else x] }), []) := by
  by_cases zero : e = 0#5
  · simp only [State.tried, waitLanes, unserved, zero, held zero, Bool.not_true, Bool.and_false, Bool.false_eq_true, if_false, if_true]
  · simp only [State.tried, waitLanes, unserved, zero, decide_false, Bool.false_and, Bool.false_eq_true, if_false]
end

section
variable {s : State} {r : TeamRef} {c : Crew} {t : Team} {cl : Clause} {h : LaneHead} {m : ModM} {l : Nat} (one : s.oneLane r c t cl h l) (clear : s.nothingOut r t)
  (room : t.lctr.toNat + t.bands ≤ 65535) {srcs : List Src} {regs : List Nat} (ready : t.laneReady cl srcs regs)
  {whole : State → Crew → Team → Mask → Option Nat} (formed : whole s c (t.afterPops srcs) (t.executing cl.mask h) = none)
  {may : State → TeamRef → Crew → Team → Mask → Bool} (goes : may s r c (t.afterPops srcs) (t.executing cl.mask h) = true)
  {want : TeamRef → Crew → Nat → Word → Except Nat (Option TagWant)} {g : Option TagWant} (wanted : want r c l (t.poppedSrc srcs (memS0 h m) l) = .ok g)
  {i : Instr} {s1 : State} (trial : (s.beginning r t srcs h m).tried r m.e (firstWait s t i m srcs (memS0 h m) (memS1 h) l g) = (s1, []))
include one clear room ready formed goes wanted trial

/-- The instruction of one lane is the trial of that lane. -/
theorem laneWaiting_one (store : Bool) : laneWaiting s i h m srcs regs store whole may want = .next (s1.modTeam r (fun t => t.laneSettle)) := by
  refine (laneFrame_ready one.1 ready h _).trans (congrArg Host.Outcome.next ?_)
  obtain ⟨qu, tk, pops⟩ := t.afterPops_frame srcs
  obtain ⟨-, -, -, single⟩ := one
  obtain ⟨-, -, -, -, clean⟩ := ready
  have small : l < 1024 := lt_of_mem_maskLanes (n := t.lanes) (by rw [single]; exact List.mem_singleton_self l)
  have errors : (t.afterPops srcs).laneErrAt (srcs ++ []) l = false := by
    rw [List.append_nil]
    exact Team.laneErrAt_eq_false fun v hv => by rw [pops]; exact clean v hv l small
  have outside := nothingOut_afterPops clear srcs
  have goesOn : (!s.clauseFree r (t.afterPops srcs) cl || !may s r c (t.afterPops srcs) (t.executing cl.mask h) ||
      (store && decide (65535 < (t.afterPops srcs).lctr.toNat + (t.afterPops srcs).bands))) = false := by
    have counted : ¬65535 < (t.afterPops srcs).lctr.toNat + (t.afterPops srcs).bands := by rw [pops]; exact Nat.not_lt.2 room
    rw [clauseFree_of_nothingOut outside, goes, decide_eq_false counted, Bool.and_false]
    rfl
  have alone : maskLanes (t.executing cl.mask h) (t.afterPops srcs).lanes = [l] := by rw [lanes_afterPops, single]
  dsimp only
  rw [formed]
  refine (if_neg (Bool.not_eq_true _ ▸ goesOn)).trans ?_
  rw [alone]
  refine congrArg (fun q : State × List (Nat × Nat × Option Nat) => if q.2.isEmpty then q.1.modTeam r (fun t => t.laneSettle) else q.1.lanesFault r cl (t.executing cl.mask h) q.2)
    ((waitLanes_one (l := l) rfl ?_).trans trial)
  rw [errors, Bool.false_and, if_neg Bool.false_ne_true, wanted]
  rfl
end

end BeginningsOfWaits

section TaggedLanes

/-! ### Tagged accesses of lanes (10 R222, R226, R228) -/

section
variable {s : State} {r : TeamRef} {c : Crew} {t : Team} (at_ : s.teamAt r = some (c, t)) {tl : Tile} (uid : c.tileUid tl.uid = some tl) (live : tl.freed = false) {w : LaneWait} {x : Coord}
  {blk : Option Nat} {full : Bool} (wants : w.want = some ⟨r.crew, tl.uid, x, full, blk⟩)
include at_ uid live wants

theorem tryTagged_unserved (waits : s.servable w.began ⟨r.crew, tl.uid, x, full, blk⟩ = false) (h : LaneHead) (m : ModM) (loads : Bool) (tag : Option Bool) :
    tryTagged h m loads tag s r w = none := by
  simp only [tryTagged, wants, tileAt_of at_, uid, at_, live, waits, Bool.not_false, Bool.or_true, if_true]

theorem laneHeld_tagged {h : LaneHead} {m : ModM} (instr : w.instr = .tldf h m) : s.laneHeld r w = s.tagHolds ⟨r.crew, tl.uid, x, full, blk⟩ := by
  simp only [State.laneHeld, instr, wants, tileAt_of at_, uid, live, Bool.not_false, Bool.true_and]

section
variable (serves : s.servable w.began ⟨r.crew, tl.uid, x, full, blk⟩ = true) (h : LaneHead) (m : ModM)
include serves

/-- An element that a tagged load delivers, with the status OK. -/
def Team.delivered (t : Team) (h : LaneHead) (m : ModM) (l v : Nat) : Team := (t.putLane h.dst l (elemWidth h.ty) (selIndex m.sel) v).setVreg h.s2.toNat l 0#64

theorem tryTagged_loads (clean : tl.poisoned x blk = false) : tryTagged h m true none s r w = some (.ok (s.putTeam r (t.delivered h m w.lane (tl.read x blk)))) := by
  simp only [tryTagged, wants, tileAt_of at_, uid, at_, live, serves, clean, Bool.not_true, Bool.or_false, Bool.false_eq_true, if_false, if_true]
  rw [State.laneStatus, modTeam_modTeam at_]
  rfl

theorem tryTagged_consumes (clean : tl.poisoned x blk = false) : tryTagged h m true (some false) s r w =
    some (.ok ((s.putTile r.crew (tl.setTag x blk false)).putTeam r (t.delivered h m w.lane (tl.read x blk)))) := by
  simp only [tryTagged, wants, tileAt_of at_, uid, at_, live, serves, clean, Bool.not_true, Bool.or_false, Bool.false_eq_true, if_false, if_true, State.modTile]
  rw [State.laneStatus, modTeam_modTeam (teamAt_putTile at_ _)]
  rfl

theorem tryTagged_stores (held : s.mmaHeld r.crew tl.uid x = false) (untracked : tl.tracked = false) (tag : Option Bool) : tryTagged h m false tag s r w =
    some (.ok ((s.putTile r.crew (if tag == some true then (tl.write x blk (getElem (elemWidth h.ty) (selIndex m.sel) w.b)).setTag x blk true
      else tl.write x blk (getElem (elemWidth h.ty) (selIndex m.sel) w.b))).putTeam r (t.setVreg h.s2.toNat w.lane 0#64))) := by
  have written (step : BitVec 32) (v : Nat) (b : Bool) : s.tileWrite r.crew tl.uid x blk v step b =
      .ok (s.putTile r.crew (if b then (tl.write x blk v).setTag x blk true else tl.write x blk v)) := by
    simp [State.tileWrite, State.tileUpdate, crewAt_of at_, uid, held, untracked]
  simp only [tryTagged, wants, tileAt_of at_, uid, at_, live, serves, written, Bool.not_true, Bool.or_false, Bool.false_eq_true, if_false]
  rw [State.laneStatus, modTeam_eq (teamAt_putTile at_ _)]
  rfl
end
end

theorem laneExpire_tldf {s : State} {r : TeamRef} {c : Crew} {t : Team} (at_ : s.teamAt r = some (c, t)) (idle : t.lwaits = []) {w : LaneWait} {h : LaneHead} {m : ModM}
    (instr : w.instr = .tldf h m) : s.laneExpire r w = s.putTeam r (t.setVreg h.s2.toNat w.lane 1#64) := by
  have same : { t with lwaits := [] } = t := congrArg (fun q => { t with lwaits := q }) idle.symm
  simp only [State.laneExpire, instr, modTeam_eq at_, idle, List.filter_nil, List.foldl_cons, List.foldl_nil, same]
  rfl

section
variable {t v : Team} (way : t.underWay v) (idle : t.lwaits = [])
include way idle

theorem Team.laneSettle_underWay (fresh : t.restart = none) (running : t.faulted = false) : v.laneSettle = v.laneDone v.obufNext := by
  obtain ⟨qu, tk, ob, vr, le, rfl, -⟩ := way
  rw [Team.laneSettle, if_pos (by simp [idle, fresh, running])]

/-- A waiting instruction whose lanes have all resolved. -/
theorem settled_underWay {s s1 : State} {r : TeamRef} {c : Crew} (at_ : s1.teamAt r = some (c, v)) (fresh : t.restart = none) (running : t.faulted = false) {u : Nat} {tl : Tile}
    (tile : s1.tileAt r.crew u = some tl) (mem : s1.mem = s.mem) :
    ((s1.modTeam r (fun t => t.laneSettle)).teamAt r).map (·.2) = some (v.laneDone v.obufNext) ∧ (s1.modTeam r (fun t => t.laneSettle)).tileAt r.crew u = some tl ∧
      sameBytes s (s1.modTeam r (fun t => t.laneSettle)) ∧ (v.laneDone v.obufNext).lidx = t.lidx + 1 ∧ (v.laneDone v.obufNext).lwaits = [] ∧ t.laneKeeps (v.laneDone v.obufNext) := by
  refine ⟨?_, (tileAt_modTeam at_ _ u).trans tile, sameBytes_of_mem ((State.modTeam_mem _ _ _).trans mem), ?_⟩
  · rw [teamAt_modTeam at_, Team.laneSettle_underWay way idle fresh running]
    rfl
  · obtain ⟨qu, tk, ob, vr, le, rfl, errs⟩ := way
    exact ⟨rfl, idle, errs, rfl⟩

/-- A waiting instruction one of whose lanes waits. -/
theorem waiting_underWay {s : State} {r : TeamRef} {c : Crew} (at_ : s.teamAt r = some (c, v)) (x : LaneWait) :
    (((s.modTeam r (fun t => { t with lwaits := t.lwaits ++ [x] })).modTeam r (fun t => t.laneSettle)).teamAt r).map (·.2) = some { v with lwaits := [x] } := by
  obtain ⟨qu, tk, ob, vr, le, rfl, -⟩ := way
  rw [modTeam_modTeam at_, teamAt_putTeam at_, Team.laneSettle, if_neg (by simp)]
  simp only [idle, List.nil_append, Option.map_some]
end

section
variable {t v : Team} {l : Nat} (small : l < 1024) (h : LaneHead) (m : ModM) (x : Nat)

theorem Team.underWay.delivered (way : t.underWay v) : t.underWay (v.delivered h m l x) := (way.setVreg _ _ _).setVreg _ _ _

include small

theorem Team.vreg_delivered_status : (v.delivered h m l x).vreg h.s2.toNat l = 0#64 := (Team.vreg_setVreg small small _ _).trans (if_pos ⟨rfl, rfl⟩)

theorem Team.laneElem_delivered (apart : h.dst ≠ h.s2) (fits : selIndex m.sel < 64 / elemWidth h.ty) :
    (v.delivered h m l x).laneElem (elemWidth h.ty) h.dst.toNat l (selIndex m.sel) = x % 2 ^ elemWidth h.ty := by
  have other : ¬(h.dst.toNat = h.s2.toNat ∧ l = l) := fun same => apart (BitVec.eq_of_toNat_eq same.1)
  have place : elemWidth h.ty * (selIndex m.sel + 1) ≤ 64 := (Nat.mul_le_mul_left _ fits).trans (Nat.mul_div_le 64 _)
  rw [Team.laneElem, Team.delivered, Team.vreg_setVreg small small, if_neg other, Team.putLane, Team.vreg_setVreg small small, if_pos ⟨rfl, rfl⟩, getElem_putElem place, if_pos rfl]
end

theorem tagWant_eq {h : LaneHead} {m : ModM} {r : TeamRef} {c : Crew} {tl : Tile} (named : c.laneTile h m tl) {l : Nat} {a : Word} {e : Nat × Coord × Option Nat}
    {rest : List (Nat × Coord × Option Nat)} (elems : laneElems tl h.ty m.sel l (coordOf a) = some (e :: rest)) (full : Bool) :
    tagWant h m full r c l a = .ok (some ⟨r.crew, tl.uid, e.2.1, full, e.2.2⟩) := by
  rw [tagWant, formTile_eq named, elems]

theorem live_of_laneTile {c : Crew} {h : LaneHead} {m : ModM} {tl : Tile} (named : c.laneTile h m tl) : tl.freed = false := by
  have found := List.find?_some named.1
  simpa using (Bool.and_eq_true_iff.1 found).2

theorem laneTryFirst_tldf {w : LaneWait} {h : LaneHead} {m : ModM} (instr : w.instr = .tldf h m) (s : State) (r : TeamRef) :
    laneTryFirst s r w = tryTagged h m true (if m.consume then some false else none) s r w := by
  simp only [laneTryFirst, laneTry, instr]

section
variable {s : State} {r : TeamRef} {c : Crew} {t : Team} {cl : Clause} {h : LaneHead} {m : ModM} {tl : Tile} {l : Nat} (one : s.oneLane r c t cl h l)

section
variable (named : c.laneTile h m tl) (tags : tl.tags = true) (clear : s.nothingOut r t) (room : t.lctr.toNat + t.bands ≤ 65535) {e : Nat × Coord × Option Nat}
  {rest : List (Nat × Coord × Option Nat)} {s1 : State}

section
variable (ready : t.laneReady cl [memS0 h m] [h.dst.toNat, h.s2.toNat]) (elems : laneElems tl h.ty m.sel l (coordOf (t.poppedSrc [memS0 h m] (memS0 h m) l)) = some (e :: rest))
include one named tags clear room ready elems

theorem exec_tldf_tried (trial : (s.beginning r t [memS0 h m] h m).tried r m.e (firstWait s t (.tldf h m) m [memS0 h m] (memS0 h m) (memS1 h) l
    (some ⟨r.crew, tl.uid, e.2.1, true, e.2.2⟩)) = (s1, [])) : exec (.tldf h m) s = .next (s1.modTeam r (fun t => t.laneSettle)) :=
  laneWaiting_one one clear room ready (whole := fun _ c _ _ => tileForm c h m true) (tileForm_none named true fun _ => tags)
    (tagReady_of_nothingOut (nothingOut_afterPops clear _) h m false c _) (tagWant_eq named elems true) trial false

theorem exec_tldIfempty_tried (trial : (s.beginning r t [memS0 h m] h m).tried r m.e (firstWait s t (.tldIfempty h m) m [memS0 h m] (memS0 h m) (memS1 h) l
    (some ⟨r.crew, tl.uid, e.2.1, false, e.2.2⟩)) = (s1, [])) : exec (.tldIfempty h m) s = .next (s1.modTeam r (fun t => t.laneSettle)) :=
  laneWaiting_one one clear room ready (whole := fun _ c _ _ => tileForm c h m true) (tileForm_none named true fun _ => tags)
    (tagReady_of_nothingOut (nothingOut_afterPops clear _) h m false c _) (tagWant_eq named elems false) trial false
end

section
variable (ready : t.laneReady cl [memS0 h m, memS1 h] [h.s2.toNat])
  (elems : laneElems tl h.ty m.sel l (coordOf (t.poppedSrc [memS0 h m, memS1 h] (memS0 h m) l)) = some (e :: rest))
include one named tags clear room ready elems

theorem exec_tstIffull_tried (trial : (s.beginning r t [memS0 h m, memS1 h] h m).tried r m.e (firstWait s t (.tstIffull h m) m [memS0 h m, memS1 h] (memS0 h m) (memS1 h) l
    (some ⟨r.crew, tl.uid, e.2.1, true, e.2.2⟩)) = (s1, [])) : exec (.tstIffull h m) s = .next (s1.modTeam r (fun t => t.laneSettle)) :=
  laneWaiting_one one clear room ready (whole := fun _ c _ _ => tileForm c h m true) (tileForm_none named true fun _ => tags)
    (tagReady_of_nothingOut (nothingOut_afterPops clear _) h m true c _) (tagWant_eq named elems true) trial true

/-- TST.e waits for the team's earlier accesses; there are none. -/
theorem exec_tste_tried (trial : (s.beginning r t [memS0 h m, memS1 h] h m).tried r m.e (firstWait s t (.tste h m) m [memS0 h m, memS1 h] (memS0 h m) (memS1 h) l
    (some ⟨r.crew, tl.uid, e.2.1, false, e.2.2⟩)) = (s1, [])) : exec (.tste h m) s = .next (s1.modTeam r (fun t => t.laneSettle)) :=
  laneWaiting_one one clear room ready (whole := fun _ c _ _ => tileForm c h m true) (may := fun s r _ t _ => s.laneIdle r t) (tileForm_none named true fun _ => tags)
    (laneIdle_of_nothingOut (nothingOut_afterPops clear _)) (tagWant_eq named elems false) trial true
end
end

section
variable (uid : c.tileUid tl.uid = some tl) (live : tl.freed = false) {srcs : List Src} {a b : Src} {x : Coord} {blk : Option Nat} {full : Bool}
include one uid live

section
variable (serves : s.servable (s.nextWait + l / 32) ⟨r.crew, tl.uid, x, full, blk⟩ = true)
include serves

/-- TLD.f and TLD.ifempty deliver the element. -/
theorem tried_loads (clean : tl.poisoned x blk = false) {i : Instr} (load : (i = .tldf h m ∧ m.consume = false) ∨ i = .tldIfempty h m) : (s.beginning r t srcs h m).tried r m.e
    (firstWait s t i m srcs a b l (some ⟨r.crew, tl.uid, x, full, blk⟩)) =
      ((s.beginning r t srcs h m).putTeam r (((t.afterPops srcs).beginning h m).delivered h m l (tl.read x blk)), []) := by
  have loads := tryTagged_loads (w := firstWait s t i m srcs a b l (some ⟨r.crew, tl.uid, x, full, blk⟩)) (teamAt_beginning one srcs m) uid live rfl
    ((servable_beginning one srcs m _ _).trans serves) h m clean
  refine tried_resolves (Eq.trans ?_ loads)
  rcases load with ⟨rfl, kept⟩ | rfl
  · rw [laneTryFirst_tldf rfl, kept]
    rfl
  · rfl

/-- The consuming TLD.f empties the tags too. -/
theorem tried_consumes (clean : tl.poisoned x blk = false) (consume : m.consume = true) : (s.beginning r t srcs h m).tried r m.e
    (firstWait s t (.tldf h m) m srcs a b l (some ⟨r.crew, tl.uid, x, full, blk⟩)) =
      (((s.beginning r t srcs h m).putTile r.crew (tl.setTag x blk false)).putTeam r (((t.afterPops srcs).beginning h m).delivered h m l (tl.read x blk)), []) := by
  have consumes := tryTagged_consumes (w := firstWait s t (.tldf h m) m srcs a b l (some ⟨r.crew, tl.uid, x, full, blk⟩)) (teamAt_beginning one srcs m) uid live rfl
    ((servable_beginning one srcs m _ _).trans serves) h m clean
  refine tried_resolves (Eq.trans ?_ consumes)
  rw [laneTryFirst_tldf rfl, consume]
  rfl

section
variable (held : s.mmaHeld r.crew tl.uid x = false) (untracked : tl.tracked = false)
include held untracked

theorem tried_stores : (s.beginning r t srcs h m).tried r m.e (firstWait s t (.tstIffull h m) m srcs a b l (some ⟨r.crew, tl.uid, x, full, blk⟩)) =
    (((s.beginning r t srcs h m).putTile r.crew (tl.write x blk (getElem (elemWidth h.ty) (selIndex m.sel) (t.poppedSrc srcs b l)))).putTeam r
      (((t.afterPops srcs).beginning h m).setVreg h.s2.toNat l 0#64), []) :=
  tried_resolves (tryTagged_stores (w := firstWait s t (.tstIffull h m) m srcs a b l (some ⟨r.crew, tl.uid, x, full, blk⟩)) (teamAt_beginning one srcs m) uid live rfl
    ((servable_beginning one srcs m _ _).trans serves) h m ((mmaHeld_beginning srcs m _ _ _).trans held) untracked none)

theorem tried_fills : (s.beginning r t srcs h m).tried r m.e (firstWait s t (.tste h m) m srcs a b l (some ⟨r.crew, tl.uid, x, full, blk⟩)) =
    (((s.beginning r t srcs h m).putTile r.crew ((tl.write x blk (getElem (elemWidth h.ty) (selIndex m.sel) (t.poppedSrc srcs b l))).setTag x blk true)).putTeam r
      (((t.afterPops srcs).beginning h m).setVreg h.s2.toNat l 0#64), []) :=
  tried_resolves (tryTagged_stores (w := firstWait s t (.tste h m) m srcs a b l (some ⟨r.crew, tl.uid, x, full, blk⟩)) (teamAt_beginning one srcs m) uid live rfl
    ((servable_beginning one srcs m _ _).trans serves) h m ((mmaHeld_beginning srcs m _ _ _).trans held) untracked (some true))
end
end

/-- A TLD.f that finds other tags, or an earlier waiter, is not served. -/
theorem laneTryFirst_beginning_unserved (waits : s.servable (s.nextWait + l / 32) ⟨r.crew, tl.uid, x, full, blk⟩ = false) :
    laneTryFirst (s.beginning r t srcs h m) r (firstWait s t (.tldf h m) m srcs a b l (some ⟨r.crew, tl.uid, x, full, blk⟩)) = none := by
  rw [laneTryFirst_tldf rfl]
  exact tryTagged_unserved (w := firstWait s t (.tldf h m) m srcs a b l (some ⟨r.crew, tl.uid, x, full, blk⟩)) (teamAt_beginning one srcs m) uid live rfl
    ((servable_beginning one srcs m _ _).trans waits) h m true _

theorem laneHeld_beginning : (s.beginning r t srcs h m).laneHeld r (firstWait s t (.tldf h m) m srcs a b l (some ⟨r.crew, tl.uid, x, full, blk⟩)) =
    s.tagHolds ⟨r.crew, tl.uid, x, full, blk⟩ :=
  (laneHeld_tagged (teamAt_beginning one srcs m) uid live rfl rfl).trans (tagHolds_beginning one srcs m _)

theorem tried_expires_beginning (unlike : s.tagHolds ⟨r.crew, tl.uid, x, full, blk⟩ = false) (zero : m.e = 0#5) : (s.beginning r t srcs h m).tried r m.e
    (firstWait s t (.tldf h m) m srcs a b l (some ⟨r.crew, tl.uid, x, full, blk⟩)) =
      ((s.beginning r t srcs h m).putTeam r (((t.afterPops srcs).beginning h m).setVreg h.s2.toNat l 1#64), []) := by
  rw [tried_expires (laneTryFirst_beginning_unserved one uid live (servable_eq_false_of_tagHolds unlike _)) zero ((laneHeld_beginning one uid live).trans unlike),
    laneExpire_tldf (teamAt_beginning one srcs m) ((beginning_waits srcs m).2.trans one.1.2.2.2.1) rfl]
  rfl

/-- What a TLD.f that waits has left to count. -/
theorem tried_waits_beginning (waits : s.servable (s.nextWait + l / 32) ⟨r.crew, tl.uid, x, full, blk⟩ = false)
    (alike : m.e = 0#5 → s.tagHolds ⟨r.crew, tl.uid, x, full, blk⟩ = true) :
    ∃ w : LaneWait, w.lane = l ∧ w.remaining = (if m.e = 0#5 then some 0 else if m.e = 31#5 then none else some (2 ^ m.e.toNat)) ∧
      (s.beginning r t srcs h m).tried r m.e (firstWait s t (.tldf h m) m srcs a b l (some ⟨r.crew, tl.uid, x, full, blk⟩)) =
        ((s.beginning r t srcs h m).modTeam r (fun t => { t with lwaits := t.lwaits ++ [w] }), []) := by
  refine ⟨_, ?_, ?_, tried_waits (laneTryFirst_beginning_unserved one uid live waits) fun zero => (laneHeld_beginning one uid live).trans (alike zero)⟩
  · split <;> rfl
  · split <;> rfl
end

/-- The access of the team's lane has ended: the team, the tile and memory as they then are. -/
abbrev State.accessEnds (s : State) (r : TeamRef) (t : Team) (u : Nat) (tl : Tile) (t' : Team) (s' : State) : Prop :=
  (s'.teamAt r).map (·.2) = some t' ∧ s'.tileAt r.crew u = some tl ∧ sameBytes s s' ∧ t'.lidx = t.lidx + 1 ∧ t'.lwaits = [] ∧ t.laneKeeps t'

section
variable (srcs : List Src) (uid : c.tileUid tl.uid = some tl) {v : Team} (way : t.underWay v)
include one uid way

theorem accessEnds_sameTile : s.accessEnds r t tl.uid tl (v.laneDone v.obufNext) (((s.beginning r t srcs h m).putTeam r v).modTeam r (fun t => t.laneSettle)) := by
  have began := teamAt_beginning one srcs m
  refine settled_underWay way one.1.2.2.2.1 (teamAt_putTeam began v) one.2.1 one.2.2.1 ((tileAt_putTeam began _ _).trans ((tileAt_of began _).trans uid)) ?_
  exact (State.putTeam_mem _ _ _).trans (State.putTeam_mem _ _ _)

theorem accessEnds_newTile {tl' : Tile} (same : tl'.uid = tl.uid) : s.accessEnds r t tl.uid tl' (v.laneDone v.obufNext)
    ((((s.beginning r t srcs h m).putTile r.crew tl').putTeam r v).modTeam r (fun t => t.laneSettle)) := by
  have began := teamAt_beginning one srcs m
  have put := teamAt_putTile began tl'
  refine settled_underWay way one.1.2.2.2.1 (teamAt_putTeam put v) one.2.1 one.2.2.1 ((tileAt_putTeam put _ _).trans (tileAt_putTile began (u := tl.uid) (tl := tl) uid same)) ?_
  exact (State.putTeam_mem _ _ _).trans ((putTile_mem _ _ _).trans (State.putTeam_mem _ _ _))
end
end

end TaggedLanes

/-- Settles O40: the lane is tried in its pass, and either its access is made there, or it expires, or it waits. -/
theorem taggedLaneAccesses : Obligations.TaggedLaneAccesses := by
  intro s r c t cl h m tl l e rest one named uid tags untracked held clean none_ items commands room w k holds full empty ends
  have clear : s.nothingOut r t := ⟨none_, items, commands⟩
  have small : l < 1024 := lt_of_mem_maskLanes (n := t.lanes) (by rw [one.2.2.2]; exact List.mem_singleton_self l)
  have live := live_of_laneTile named
  refine ⟨?loads, ?stores⟩
  case loads =>
    intro u ready apart fits elems
    have way := Team.underWay_beginning one.2.1 [memS0 h m] h m
    have served := way.delivered (l := l) h m (tl.read e.2.1 e.2.2)
    have value := Team.laneElem_delivered (v := u.beginning h m) small h m (tl.read e.2.1 e.2.2) apart fits
    have status := Team.vreg_delivered_status (v := u.beginning h m) small h m (tl.read e.2.1 e.2.2)
    refine ⟨fun serves => ?_, fun serves => ?_, fun unlike zero => ?_, fun waits free => ?_⟩
    · cases consume : m.consume with
      | false => exact ⟨_, ⟨_, exec_tldf_tried one named tags clear room ready elems (tried_loads one uid live serves clean (.inl ⟨rfl, consume⟩)),
          accessEnds_sameTile one _ uid served⟩, value, status⟩
      | true => exact ⟨_, ⟨_, exec_tldf_tried one named tags clear room ready elems (tried_consumes one uid live serves clean consume),
          accessEnds_newTile one _ uid served (tl.uid_setTag _ _ _)⟩, value, status⟩
    · exact ⟨_, ⟨_, exec_tldIfempty_tried one named tags clear room ready elems (tried_loads one uid live serves clean (.inr rfl)),
        accessEnds_sameTile one _ uid served⟩, value, status⟩
    · have other : ¬(h.dst.toNat = h.s2.toNat ∧ l = l) := fun same => apart (BitVec.eq_of_toNat_eq same.1)
      have timeout : ((u.beginning h m).setVreg h.s2.toNat l 1#64).vreg h.s2.toNat l = 1#64 := (Team.vreg_setVreg small small _ _).trans (if_pos ⟨rfl, rfl⟩)
      have kept : ((u.beginning h m).setVreg h.s2.toNat l 1#64).vreg h.dst.toNat l = t.vreg h.dst.toNat l :=
        (Team.vreg_setVreg small small _ _).trans ((if_neg other).trans (Team.vreg_beginning t _ h m _ l))
      exact ⟨_, ⟨_, exec_tldf_tried one named tags clear room ready elems (tried_expires_beginning one uid live unlike zero),
        accessEnds_sameTile one _ uid (way.setVreg _ _ _)⟩, timeout, kept⟩
    · obtain ⟨x, lane, count, waiting⟩ := tried_waits_beginning (srcs := [memS0 h m]) (a := memS0 h m) (b := memS1 h) one uid live waits free
      obtain ⟨qu, tk, pops⟩ := t.afterPops_frame [memS0 h m]
      refine ⟨_, _, x, exec_tldf_tried one named tags clear room ready elems waiting, waiting_underWay way one.1.2.2.2.1 (teamAt_beginning one _ m) x, rfl, lane, count, ?_, ?_⟩
      · rw [pops]
        rfl
      · rw [pops]
        rfl
  case stores =>
    intro u v ready elems
    have served := (Team.underWay_beginning one.2.1 [memS0 h m, memS1 h] h m).setVreg h.s2.toNat l 0#64
    have status : ((u.beginning h m).setVreg h.s2.toNat l 0#64).vreg h.s2.toNat l = 0#64 := (Team.vreg_setVreg small small _ _).trans (if_pos ⟨rfl, rfl⟩)
    refine ⟨fun serves => ?_, fun serves => ?_⟩
    · exact ⟨_, ⟨_, exec_tstIffull_tried one named tags clear room ready elems (tried_stores one uid live serves held untracked),
        accessEnds_newTile one _ uid served (tl.uid_write _ _ _)⟩, status⟩
    · exact ⟨_, ⟨_, exec_tste_tried one named tags clear room ready elems (tried_fills one uid live serves held untracked),
        accessEnds_newTile one _ uid served ((Tile.uid_setTag _ _ _ _).trans (tl.uid_write _ _ _))⟩, status⟩
end Sys2Proof.Machine

namespace Sys2Proof.Machine

/-- A fold of updates that each keep memory keeps memory. -/
@[simp] theorem foldl_mem {α : Type} {f : State → α → State} (keeps : ∀ s x, (f s x).mem = s.mem) (l : List α) (s : State) : (l.foldl f s).mem = s.mem := by
  induction l generalizing s with
  | nil => rfl
  | cons x l ih => rw [List.foldl_cons, ih, keeps]
@[simp] theorem State.notePool_mem (s : State) (r : TeamRef) (b : Bool) (x : Option ℕ) : (s.notePool r b x).mem = s.mem := by unfold State.notePool; (repeat' split) <;> simp
@[simp] theorem State.sendOn_mem (s : State) (n : ℕ) (f : Flit) : (s.sendOn n f).mem = s.mem := by unfold State.sendOn; split <;> simp
@[simp] theorem State.route_mem (s : State) (f : Flit) : (s.route f).mem = s.mem := by unfold State.route; split <;> simp
@[simp] theorem State.send_mem (s : State) (n n2 : ℕ) (x : BitVec 32) (x2 : List Byte) : (s.send n n2 x x2).mem = s.mem := by simp [State.send]
@[simp] theorem State.sendData_mem (s : State) (n n2 : ℕ) (x : BitVec 32) (x2 : List Byte) (x3 : Option (BitVec 512)) : (s.sendData n n2 x x2 x3).mem = s.mem := by unfold State.sendData; split <;> simp
@[simp] theorem State.linkFlit_mem (s : State) (n n2 : ℕ) (x : BitVec 16) (x2 : List Byte) : (s.linkFlit n n2 x x2).mem = s.mem := by simp [State.linkFlit]
@[simp] theorem State.putPort_mem (s : State) (n : ℕ) (x : Port) : (s.putPort n x).mem = s.mem := rfl
@[simp] theorem State.portTo_mem (s : State) (n n2 : ℕ) : (s.portTo n n2).mem = s.mem := by unfold State.portTo; (repeat' split) <;> simp
@[simp] theorem State.portDown_mem (s : State) (p st : ℕ) : (s.portDown p st).mem = s.mem := by simp [State.portDown]
@[simp] theorem State.takeSeq_mem (s : State) (n n2 : ℕ) : (s.takeSeq n n2).mem = s.mem := by simp [State.takeSeq]
@[simp] theorem State.sendNak_mem (s : State) (n : ℕ) : (s.sendNak n).mem = s.mem := by simp [State.sendNak]
theorem State.inOrder_mem (s : State) (l : Link) (n : ℕ) {f : State → State} (keeps : ∀ u, (f u).mem = u.mem) : (s.inOrder l n f).mem = s.mem := by
  unfold State.inOrder
  (repeat' split) <;> simp [keeps]
@[simp] theorem State.setPoison_mem (s : State) (n n2 : ℕ) : (s.setPoison n n2).mem = s.mem := rfl
@[simp] theorem State.cacheEntry_mem (s : State) (x : Option ℕ) (n n2 : ℕ) (x2 : Word) : (s.cacheEntry x n n2 x2).mem = s.mem := by unfold State.cacheEntry; split <;> simp
@[simp] theorem State.l1Invalidate_mem (s : State) (n : ℕ) : (s.l1Invalidate n).mem = s.mem := rfl
@[simp] theorem State.l1DropLine_mem (s : State) (n n2 : ℕ) : (s.l1DropLine n n2).mem = s.mem := rfl
@[simp] theorem State.l1Update_mem (s : State) (n n2 n3 n4 : ℕ) : (s.l1Update n n2 n3 n4).mem = s.mem := rfl
@[simp] theorem State.l1Fill_mem (s : State) (n n2 : ℕ) (x : BitVec 512) : (s.l1Fill n n2 x).mem = s.mem := rfl
theorem State.l1Load_mem {s s' : State} {busy : Bool} {core pa n v : ℕ} (e : s.l1Load busy core pa n = .ok (s', v)) : s'.mem = s.mem := by
  unfold State.l1Load at e
  dsimp only at e
  (repeat' split at e) <;> cases e <;> simp
@[simp] theorem State.putTile_mem (s : State) (n : ℕ) (tl : Tile) : (s.putTile n tl).mem = s.mem := by simp [State.putTile]
theorem State.tileUpdate_mem {s s' : State} {k uid : ℕ} {c : Coord} {blk : Option ℕ} {f : ℕ → ℕ} {st : BitVec 32} {full : Bool}
    (e : s.tileUpdate k uid c blk f st full = .ok s') : s'.mem = s.mem := by
  unfold State.tileUpdate at e
  dsimp only at e
  split at e
  · cases e; rfl
  split at e
  · cases e; rfl
  split at e
  · cases e
  split at e
  · split at e
    · cases e
    · cases e
      rw [putTile_mem, State.alsoPreserved_mem, preserve_mem ‹_›]
  · cases e
    exact putTile_mem _ _ _
theorem State.tileWrite_mem {s s' : State} {k uid v : ℕ} {c : Coord} {blk : Option ℕ} {st : BitVec 32} {full : Bool}
    (e : s.tileWrite k uid c blk v st full = .ok s') : s'.mem = s.mem := State.tileUpdate_mem e
@[simp] theorem State.tileTag_mem (s : State) (n n2 : ℕ) (x : Coord) (b : Bool) : (s.tileTag n n2 x b).mem = s.mem := by unfold State.tileTag; split <;> simp
theorem State.gateApply_mem {s s' : State} {k uid : ℕ} {c : Coord} {f : Word → Word} {st : BitVec 32} (e : s.gateApply k uid c f st = .ok s') : s'.mem = s.mem := by
  unfold State.gateApply at e
  split at e
  · cases e; rfl
  · exact State.tileUpdate_mem e
@[simp] theorem State.laneFaultAt_mem (s : State) (r : TeamRef) (t : Team) (n : ℕ) (x : Mask) (x2 : Option Mask) (n2 : ℕ) : (s.laneFaultAt r t n x x2 n2).mem = s.mem := by simp [State.laneFaultAt]
@[simp] theorem State.dropMirrors_mem (s : State) (core n : ℕ) : (s.dropMirrors core n).mem = s.mem := by
  induction n generalizing s with
  | zero => rfl
  | succ n ih =>
    simp only [State.dropMirrors]
    (repeat' split) <;> simp [ih]
theorem attemptRgrow_mem {d a : SReg} {s s' : State} {r : TeamRef} {c : Crew} {t : Team} (e : attemptRgrow d a s r c t = some s') : s'.mem = s.mem := by
  unfold attemptRgrow at e
  dsimp only at e
  split at e
  · cases e
  · rw [← Option.some.inj e, State.dropMirrors_mem, State.modTeam_mem]
@[simp] theorem State.grantRgrow_mem (s : State) (core n : ℕ) : (s.grantRgrow core n).mem = s.mem := by
  induction n generalizing s with
  | zero => rfl
  | succ n ih =>
    rw [State.grantRgrow]
    split
    · rfl
    · rename_i u found
      obtain ⟨r, -, granted⟩ := List.exists_of_findSome?_eq_some found
      (repeat' split at granted) <;> first | (rw [ih, attemptRgrow_mem granted]) | cases granted
@[simp] theorem State.finishTeam_mem (s : State) (r : TeamRef) : (s.finishTeam r).mem = s.mem := by unfold State.finishTeam; (repeat' split) <;> simp
@[simp] theorem State.sweepTiles_mem (s : State) (n : ℕ) : (s.sweepTiles n).mem = s.mem := by simp [State.sweepTiles]
@[simp] theorem State.beginWait_mem (s : State) (r : TeamRef) (x : Instr) (x2 : BitVec 5) (x3 : Option TagWant) : (s.beginWait r x x2 x3).mem = s.mem := by simp [State.beginWait]
theorem State.waitOr_mem {s : State} (r : TeamRef) (i : Instr) (e : BitVec 5) (want : Option TagWant) {att : Option State} {timeout : State}
    (made : ∀ u, att = some u → u.mem = s.mem) (late : timeout.mem = s.mem) : (s.waitOr r i e want att timeout).mem = s.mem := by
  unfold State.waitOr
  split
  · exact made _ rfl
  · split
    · exact late
    · simp
@[simp] theorem State.scalarFault_mem (s : State) (r : TeamRef) (n : ℕ) (x : Option ℕ) : (s.scalarFault r n x).mem = s.mem := by simp [State.scalarFault]
@[simp] theorem State.putSlice_mem (s : State) (x : SliceLine) : (s.putSlice x).mem = s.mem := rfl
@[simp] theorem State.dropTreq_mem (s : State) (r : TeamRef) : (s.dropTreq r).mem = s.mem := rfl
@[simp] theorem State.sendTreq_mem (s : State) (r : TeamRef) (gang line : ℕ) (k : TReqKind) : (s.sendTreq r gang line k).mem = s.mem := by
  unfold State.sendTreq
  dsimp only
  split
  · simp
  · split <;> simp
@[simp] theorem State.endTreq_mem (s : State) (r : TeamRef) (x : TReqKind) : (s.endTreq r x).mem = s.mem := by simp [State.endTreq]
@[simp] theorem State.beginTreq_mem (s : State) (r : TeamRef) (n n2 : ℕ) (x : TReqKind) : (s.beginTreq r n n2 x).mem = s.mem := by unfold State.beginTreq; (repeat' split) <;> simp
@[simp] theorem State.tetherFault_mem (s : State) (r : TeamRef) (n : ℕ) : (s.tetherFault r n).mem = s.mem := by unfold State.tetherFault; (repeat' split) <;> simp
@[simp] theorem State.followPc_mem (s : State) (r : TeamRef) : (s.followPc r).mem = s.mem := by simp [State.followPc]
theorem State.tetherAccess_mem {s : State} (r : TeamRef) (gang line : ℕ) (k : TReqKind) {hit : Option SliceLine → Option State} {answer : Word → State → State}
    (hits : ∀ x u, hit x = some u → u.mem = s.mem) (answers : ∀ w u, (answer w u).mem = u.mem) : (s.tetherAccess r gang line k hit answer).mem = s.mem := by
  unfold State.tetherAccess
  split
  · split
    · rfl
    · simp
    · simp
    · simp [answers]
    · split
      · rw [State.followPc_mem, State.endTreq_mem, hits _ _ ‹_›]
      · simp
  · split
    · exact hits _ _ ‹_›
    · simp
theorem State.attemptFault_mem {s s' : State} {r : TeamRef} {t : Team} {n : ℕ} (e : s.attemptFault r t n = some s') : s'.mem = s.mem := by
  unfold State.attemptFault at e
  split at e <;> cases e
  exact State.scalarFault_mem _ _ _ _
theorem attemptSldf_mem {s s' : State} {d a b : SReg} {z : ScalarSize} {h : Handle} {consume : Bool} {r : TeamRef} {c : Crew} {t : Team} (e : attemptSldf d a b z h consume s r c t = some s') : s'.mem = s.mem := by
  unfold attemptSldf at e
  split at e
  · exact State.attemptFault_mem e
  · dsimp only at e
    (repeat' split at e) <;> cases e <;> simp
theorem attemptSste_mem {s s' : State} {d a b : SReg} {z : ScalarSize} {h : Handle} {r : TeamRef} {c : Crew} {t : Team} (e : attemptSste d a b z h s r c t = some s') : s'.mem = s.mem := by
  unfold attemptSste at e
  split at e
  · exact State.attemptFault_mem e
  · split at e
    · split at e
      · cases e
      · cases e
        rw [State.modTeam_mem, State.tileWrite_mem ‹_›]
    · cases e
@[simp] theorem statusTimeout_mem (s : State) (r : TeamRef) (x : SReg) (n : ℕ) : (statusTimeout s r x n).mem = s.mem := by simp [statusTimeout]
@[simp] theorem State.tileStatus_mem (s : State) (r : TeamRef) (x : SReg) (n : ℕ) : (s.tileStatus r x n).mem = s.mem := by simp [State.tileStatus]
theorem State.preserveTile_mem {s s' : State} {k : ℕ} {cr : Crew} {t : Tile} {st : BitVec 32} {l : List ℕ} (e : s.preserveTile k cr t st l = .ok s') : s'.mem = s.mem := by
  induction l generalizing s with
  | nil => cases e; rfl
  | cons j l ih =>
    rw [State.preserveTile] at e
    split at e
    · cases e
    · rw [ih e, State.alsoPreserved_mem, preserve_mem ‹_›]
/-- A fold that stops at the first failure, each step of which keeps memory, keeps memory. -/
theorem foldl_ok_mem {α : Type} {f : Except Stop State → α → Except Stop State} (stops : ∀ x a, f (.error x) a = .error x)
    (keeps : ∀ {u u' : State} {a : α}, f (.ok u) a = .ok u' → u'.mem = u.mem) {l : List α} {s s' : State} (e : l.foldl f (.ok s) = .ok s') : s'.mem = s.mem := by
  induction l generalizing s with
  | nil => cases e; rfl
  | cons a l ih =>
    rw [List.foldl_cons] at e
    cases made : f (.ok s) a with
    | ok u => rw [made] at e; rw [ih e, keeps made]
    | error x =>
      have stopped : l.foldl f (.error x) = .error x := by
        clear e ih
        induction l with
        | nil => rfl
        | cons a l ih => rw [List.foldl_cons, stops, ih]
      rw [made, stopped] at e
      cases e
theorem State.preservePiece_mem {s s' : State} {st : BitVec 32} {p : ℕ × ℕ × ℕ × Word} (e : s.preservePiece st p = .ok s') : s'.mem = s.mem := by
  unfold State.preservePiece at e
  dsimp only at e
  split at e
  · cases e; rfl
  · refine foldl_ok_mem (fun x a => rfl) (fun made => ?_) e
    dsimp only at made
    split at made
    · cases made; rfl
    · split at made
      · cases made
      · cases made
        rw [State.alsoPreserved_mem, preserve_mem ‹_›]
theorem State.preservePieces_mem {s s' : State} {st : BitVec 32} {l : List (ℕ × ℕ × ℕ × Word)} (e : s.preservePieces st l = .ok s') : s'.mem = s.mem := by
  induction l generalizing s with
  | nil => cases e; rfl
  | cons p l ih =>
    rw [State.preservePieces] at e
    split at e
    · cases e
    · rw [ih e, State.preservePiece_mem ‹_›]
@[simp] theorem State.gateWake_mem (s : State) (n n2 : ℕ) (x : Coord) (n3 n4 : ℕ) : (s.gateWake n n2 x n3 n4).mem = s.mem := by unfold State.gateWake; split <;> simp
theorem State.gateStep_mem {s s' : State} {k uid a p q : ℕ} {c : Coord} {st : BitVec 32} (e : s.gateStep k uid c a p q st = .ok s') : s'.mem = s.mem := by
  unfold State.gateStep at e
  split at e
  · cases e; rfl
  · cases applied : s.gateApply k uid c (fun g => gateUpdate g a p q) st with
    | error x => rw [applied] at e; cases e
    | ok u =>
      rw [applied] at e
      cases e
      simp [State.gateApply_mem applied]
theorem gwaitAt_mem {s s' : State} {d b : SReg} {r : TeamRef} {t : Team} {n : ℕ} (e : gwaitAt d b s r t n = some s') : s'.mem = s.mem := by
  unfold gwaitAt at e
  simp only at e
  split at e <;> cases e
  exact State.modTeam_mem _ _ _
theorem attemptGwait_mem {s s' : State} {d a b : SReg} {h : Handle} {r : TeamRef} {c : Crew} {t : Team} (e : attemptGwait d a b h s r c t = some s') : s'.mem = s.mem := by
  unfold attemptGwait at e
  split at e
  · obtain ⟨p, -, waited⟩ := Option.bind_eq_some_iff.mp e
    exact gwaitAt_mem waited
  · split at e
    · cases e; simp
    · split at e
      · cases e; simp
      · exact gwaitAt_mem e
@[simp] theorem State.cmdL1Drop_mem (s : State) (m : Command) (n : ℕ) : (s.cmdL1Drop m n).mem = s.mem := by unfold State.cmdL1Drop; (repeat' split) <;> simp
theorem State.cmdTileStore_mem {s s' : State} {m : Command} {uid : ℕ} {x : Coord} {blk : Option ℕ} {f : ℕ → ℕ} {poison full : Bool}
    (e : s.cmdTileStore m uid x blk f poison full = .ok s') : s'.mem = s.mem := by
  unfold State.cmdTileStore at e
  dsimp only at e
  split at e
  · cases e; rfl
  · split at e
    · cases e
    · split at e
      · cases e
      · have stored := State.tileUpdate_mem ‹_›
        (repeat' split at e) <;> cases e <;> simp [stored]
theorem State.cmdBlockStore_mem {s s' : State} {put : State → ℕ → (ℕ → ℕ) → Except Stop State} (keeps : ∀ {u u' : State} {i : ℕ} {f : ℕ → ℕ}, put u i f = .ok u' → u'.mem = u.mem)
    {planes bit v : ℕ} {l : List ℕ} (e : s.cmdBlockStore put planes bit v l = .ok s') : s'.mem = s.mem := by
  induction l generalizing s with
  | nil => cases e; rfl
  | cons i l ih =>
    rw [State.cmdBlockStore] at e
    split at e
    · cases e
    · rw [ih e, keeps ‹_›]
@[simp] theorem State.putCommand_mem (s : State) (m : Command) : (s.putCommand m).mem = s.mem := rfl
@[simp] theorem State.copyWait_mem (s : State) (m : Command) (x : TagWant) : (s.copyWait m x).mem = s.mem := by unfold State.copyWait; split <;> simp
@[simp] theorem State.postNode_mem (s : State) (n : SpanNode) : (s.postNode n).mem = s.mem := by simp [State.postNode]
@[simp] theorem State.sendNode_mem (s : State) (n : SpanNode) (dest a i : ℕ) (vals : List Word) : (s.sendNode n dest a i vals).mem = s.mem := by simp [State.sendNode]
@[simp] theorem State.postRoot_mem (s : State) (m : Command) (n : SpanNode) (vals : List Word) : (s.postRoot m n vals).mem = s.mem := by simp [State.postRoot]
@[simp] theorem State.closeReduction_mem (s : State) (g : BitVec 16) (k : ℕ) : (s.closeReduction g k).mem = s.mem := by
  unfold State.closeReduction
  dsimp only
  (repeat' split) <;> simp
theorem attemptBwait_mem {s s' : State} {d a : SReg} {r : TeamRef} {t : Team} (e : attemptBwait d a s r t = some s') : s'.mem = s.mem := by
  unfold attemptBwait at e
  dsimp only at e
  split at e
  · rw [← Option.some.inj e, State.modTeam_mem]
  · cases e
@[simp] theorem mwaitTimeout_mem (s : State) (r : TeamRef) (x : SReg) : (mwaitTimeout s r x).mem = s.mem := by simp [mwaitTimeout]
@[simp] theorem State.lanesFault_mem (s : State) (r : TeamRef) (x : Clause) (x2 : Mask) (x3 : List (ℕ × ℕ × Option ℕ)) : (s.lanesFault r x x2 x3).mem = s.mem := by simp [State.lanesFault]
@[simp] theorem State.laneStatus_mem (s : State) (r : TeamRef) (x : BitVec 9) (n n2 : ℕ) : (s.laneStatus r x n n2).mem = s.mem := by simp [State.laneStatus]
@[simp] theorem State.modTile_mem (s : State) (n n2 : ℕ) (x : Tile → Tile) : (s.modTile n n2 x).mem = s.mem := by unfold State.modTile; split <;> simp
theorem tryTagged_mem {s s' : State} {h : LaneHead} {m : ModM} {loads : Bool} {tag : Option Bool} {r : TeamRef} {w : LaneWait} (e : tryTagged h m loads tag s r w = some (.ok s')) : s'.mem = s.mem := by
  unfold tryTagged at e
  split at e
  · cases e; rfl
  split at e
  · split at e
    · cases e
    split at e
    · split at e
      · cases e
      · cases e
        split <;> simp
    · split at e <;> cases e
      rw [State.laneStatus_mem, State.tileWrite_mem ‹_›]
  · cases e
@[simp] theorem State.countReach_mem (s : State) (c : Crew) (n : ℕ) : (s.countReach c n).mem = s.mem := by unfold State.countReach; (repeat' split) <;> simp
theorem tryRld_mem {s s' : State} {h : LaneHead} {m : ModM} {r : TeamRef} {w : LaneWait} (e : tryRld h m s r w = some (.ok s')) : s'.mem = s.mem := by
  unfold tryRld at e
  dsimp only at e
  (repeat' split at e) <;> cases e <;> simp
theorem State.putEntry_mem {s s' : State} {k uid row : ℕ} {st : BitVec 32} {v : ℕ → ℕ} {l : List ℕ} (e : s.putEntry k uid row st v l = .ok s') : s'.mem = s.mem := by
  induction l generalizing s with
  | nil => cases e; rfl
  | cons i l ih =>
    rw [State.putEntry] at e
    split at e
    · cases e
    · rw [ih e, State.tileWrite_mem ‹_›]
theorem tryMsgput_mem {s s' : State} {h : LaneHead} {r : TeamRef} {w : LaneWait} (e : tryMsgput h s r w = some (.ok s')) : s'.mem = s.mem := by
  unfold tryMsgput at e
  dsimp only at e
  (repeat' split at e) <;> cases e <;> first | (simp; done) | simp [State.putEntry_mem ‹_›]
theorem tryMsgtake_mem {s s' : State} {h : LaneHead} {r : TeamRef} {w : LaneWait} (e : tryMsgtake h s r w = some (.ok s')) : s'.mem = s.mem := by
  unfold tryMsgtake at e
  dsimp only at e
  (repeat' split at e) <;> cases e <;> simp
theorem laneTry_mem {s s' : State} {r : TeamRef} {w : LaneWait} (e : laneTry s r w = some (.ok s')) : s'.mem = s.mem := by
  unfold laneTry at e
  split at e
  · exact tryTagged_mem e
  · exact tryTagged_mem e
  · exact tryTagged_mem e
  · exact tryTagged_mem e
  · exact tryRld_mem e
  · exact tryMsgput_mem e
  · exact tryMsgtake_mem e
  · cases e
theorem laneTryFirst_mem {s s' : State} {r : TeamRef} {w : LaneWait} (e : laneTryFirst s r w = some (.ok s')) : s'.mem = s.mem := by
  unfold laneTryFirst at e
  split at e
  · exact tryRld_mem (Option.ite_none_right_eq_some.mp e).2
  · exact laneTry_mem e
@[simp] theorem State.laneExpire_mem (s : State) (r : TeamRef) (x : LaneWait) : (s.laneExpire r x).mem = s.mem := by simp [State.laneExpire]
theorem waitLanes_mem (r : TeamRef) (x : BitVec 5) (w : State → ℕ → Except ℕ LaneWait) (l : List ℕ) (s : State) (fs : List (ℕ × ℕ × Option ℕ)) : (waitLanes r x w l s fs).1.mem = s.mem := by
  induction l generalizing s fs with
  | nil => rfl
  | cons i l ih =>
    rw [waitLanes]
    split
    · exact ih _ _
    split
    · rw [ih, laneTryFirst_mem ‹_›]
    · exact ih _ _
    · (repeat' split) <;> simp [ih]
@[simp] theorem State.sweepLoc_mem (s : State) (x : Loc) : (s.sweepLoc x).mem = s.mem := by unfold State.sweepLoc; split <;> simp
@[simp] theorem State.retireHold_mem (s : State) (r : TeamRef) (core set : ℕ) : (s.retireHold r core set).mem = s.mem := by
  unfold State.retireHold
  dsimp only
  (repeat' split) <;> simp
@[simp] theorem State.forgetSet_mem (s : State) (n : ℕ) : (s.forgetSet n).mem = s.mem := rfl
theorem State.takeItems_mem {s s' : State} {r : TeamRef} {uid : ℕ} {k : Take} {st : BitVec 32} {l : List (ℕ × ℕ)} (e : s.takeItems r uid k st l = .ok s') : s'.mem = s.mem := by
  induction l generalizing s with
  | nil => cases e; rfl
  | cons p l ih =>
    rw [State.takeItems] at e
    split at e
    · cases e
    · rw [ih e, State.tileWrite_mem ‹_›]
@[simp] theorem wltakeTimeout_mem (s : State) (r : TeamRef) (x : SReg) : (wltakeTimeout s r x).mem = s.mem := by simp [wltakeTimeout]
@[simp] theorem State.appendEnd_mem (s : State) (x : WlItem) (n : ℕ) : (s.appendEnd x n).mem = s.mem := by simp [State.appendEnd]
@[simp] theorem State.appendFault_mem (s : State) (it : WlItem) (pos cause : ℕ) (z : Option ℕ) : (s.appendFault it pos cause z).mem = s.mem := by
  unfold State.appendFault
  dsimp only
  (repeat' split) <;> simp
theorem attemptYield_mem {s s' : State} {r : TeamRef} (e : attemptYield s r = some s') : s'.mem = s.mem := by
  cases e
  simp
@[simp] theorem State.retireAll_mem (s : State) (r : TeamRef) (core : ℕ) (l : List WlHold) : (s.retireAll r core l).mem = s.mem := by
  induction l generalizing s with
  | nil => rfl
  | cons w l ih =>
    rw [State.retireAll, ih]
    generalize w.items + (if w.seed then 1 else 0) = n
    split <;> rfl
@[simp] theorem State.putMCmd_mem (s : State) (m : MCmd) : (s.putMCmd m).mem = s.mem := rfl
@[simp] theorem State.dropMCmd_mem (s : State) (m : MCmd) : (s.dropMCmd m).mem = s.mem := rfl
@[simp] theorem State.mmaChunk_mem (s : State) (m : MCmd) : (s.mmaChunk m).mem = s.mem := by
  unfold State.mmaChunk
  dsimp only
  (repeat' split) <;> simp
@[simp] theorem State.countChunk_mem (s : State) (m : MCmd) : (s.countChunk m).mem = s.mem := by simp [State.countChunk]
@[simp] theorem State.chunkStep_mem (s : State) (n : ℕ) : (s.chunkStep n).mem = s.mem := by unfold State.chunkStep; (repeat' split) <;> simp
@[simp] theorem State.enterMatrix_mem (s : State) (m : MCmd) (x : Team → Team) : (s.enterMatrix m x).mem = s.mem := by unfold State.enterMatrix; split <;> simp
@[simp] theorem State.drainFault_mem (s : State) (m : MCmd) : (s.drainFault m).mem = s.mem := by unfold State.drainFault; (repeat' split) <;> simp
theorem State.performMatrix_mem {s s' : State} {m : MCmd} (e : s.performMatrix m = some s') : s'.mem = s.mem := by
  unfold State.performMatrix at e
  (repeat' split at e) <;> cases e <;> simp
@[simp] theorem State.pairNan_mem (s : State) (m : MCmd) : (s.pairNan m).mem = s.mem := by simp [State.pairNan]
@[simp] theorem State.consume_mem (s : State) (n n2 : ℕ) (b : Bool) (x : Coord) (n3 : ℕ) : (s.consume n n2 b x n3).mem = s.mem := by simp [State.consume]
@[simp] theorem State.finishMma_mem (s : State) (m : MCmd) : (s.finishMma m).mem = s.mem := by
  unfold State.finishMma
  dsimp only
  (repeat' split) <;> simp
@[simp] theorem State.expire_mem (s : State) (r : TeamRef) (x : ScalarWait) : (s.expire r x).mem = s.mem := by unfold State.expire; split <;> simp
@[simp] theorem State.laneResolved_mem (s : State) (r : TeamRef) (n : ℕ) : (s.laneResolved r n).mem = s.mem := by simp [State.laneResolved]
theorem State.laneAttempt_mem {s s' : State} {r : TeamRef} {t : Team} {w : LaneWait} (e : s.laneAttempt r t w = some s') : s'.mem = s.mem := by
  unfold State.laneAttempt at e
  split at e
  · cases e
  · rename_i u tried
    cases e
    split at tried
    · cases tried
    · rw [State.laneResolved_mem, laneTry_mem tried]
  · split at e <;> cases e
    simp
@[simp] theorem State.laneRunOut_mem (s : State) (r : TeamRef) (t : Team) (w : LaneWait) : (s.laneRunOut r t w).mem = s.mem := by
  unfold State.laneRunOut
  cases tried : s.laneAttempt r t w with
  | some u => exact State.laneAttempt_mem tried
  | none => simp only [Option.getD_none]; split <;> simp
@[simp] theorem State.rldRunOut_mem (s : State) (r : TeamRef) (t : Team) (x : LaneWait) : (s.rldRunOut r t x).mem = s.mem := by unfold State.rldRunOut; split <;> simp
@[simp] theorem State.sliceTick_mem (s : State) (n n2 : ℕ) : (s.sliceTick n n2).mem = s.mem := rfl
@[simp] theorem State.tlbDrop_mem (s : State) (n n2 : ℕ) : (s.tlbDrop n n2).mem = s.mem := rfl
@[simp] theorem State.gangTlbDrop_mem (s : State) (n n2 : ℕ) : (s.gangTlbDrop n n2).mem = s.mem := rfl
@[simp] theorem State.devRead_mem (s : State) (pa n : ℕ) : (s.devRead pa n).1.mem = s.mem := by
  induction n generalizing s with
  | zero => rfl
  | succ n ih =>
    rw [State.devRead]
    split
    · exact ih { s with free := s.free + 1 }
    · exact ih s
@[simp] theorem State.acceptRecord_mem (s : State) (x : BitVec 1024) (x2 : List (BitVec 96)) : (s.acceptRecord x x2).mem = s.mem := rfl
@[simp] theorem State.headRecord_mem (s : State) (q : Ring) : (s.headRecord q).1.mem = s.mem := by
  unfold State.headRecord
  exact s.devRead_mem _ _
@[simp] theorem State.putLaunch_mem (s : State) (x : Launch) : (s.putLaunch x).mem = s.mem := rfl
@[simp] theorem State.arrived_mem (s : State) (n n2 : ℕ) : (s.arrived n n2).mem = s.mem := by simp [State.arrived]
@[simp] theorem State.startCrew_mem (s : State) (n n2 n3 n4 : ℕ) : (s.startCrew n n2 n3 n4).mem = s.mem := by unfold State.startCrew; split <;> simp
@[simp] theorem State.leaveCore_mem (s : State) (n : ℕ) : (s.leaveCore n).mem = s.mem := by unfold State.leaveCore; (repeat' split) <;> simp
@[simp] theorem State.faultEvents_mem (s : State) (c : Crew) : (s.faultEvents c).mem = s.mem := by
  unfold State.faultEvents
  exact foldl_mem (fun u t => by split <;> simp) _ _
@[simp] theorem State.leaveOrHold_mem (s : State) (n : ℕ) : (s.leaveOrHold n).mem = s.mem := by unfold State.leaveOrHold; (repeat' split) <;> simp
@[simp] theorem State.leaveCohort_mem (s : State) (c : Crew) : (s.leaveCohort c).mem = s.mem := by simp [State.leaveCohort]
@[simp] theorem State.evictChosen_mem (s : State) (n : ℕ) : (s.evictChosen n).mem = s.mem := by unfold State.evictChosen; (repeat' split) <;> simp
@[simp] theorem State.putUnit_mem (s : State) (x : LeasedUnit) : (s.putUnit x).mem = s.mem := rfl
@[simp] theorem State.capacityChange_mem (s : State) : (s.capacityChange).mem = s.mem := rfl
@[simp] theorem State.useSlot_mem (s : State) (u : DevUnit) : (s.useSlot u).mem = s.mem := rfl
@[simp] theorem State.enterDraining_mem (s : State) (x : LeasedUnit) : (s.enterDraining x).mem = s.mem := by unfold State.enterDraining; split <;> simp
@[simp] theorem State.advanceLease_mem (s : State) (u : DevUnit) : (s.advanceLease u).mem = s.mem := by
  unfold State.advanceLease
  dsimp only
  (repeat' split) <;> simp
@[simp] theorem State.advanceLeases_mem (s : State) : s.advanceLeases.mem = s.mem := by simp [State.advanceLeases]
@[simp] theorem State.makeDue_mem (s : State) (u : DevUnit) (b : Bool) : (s.makeDue u b).mem = s.mem := rfl
@[simp] theorem State.recordRetirement_mem (s : State) (x : LeasedUnit) (n n2 : ℕ) (x2 : Option DevUnit) (n3 : ℕ) (x3 x4 : BitVec 64) : (s.recordRetirement x n n2 x2 n3 x3 x4).mem = s.mem := rfl
@[simp] theorem State.cometAbandon_mem (s : State) (n : ℕ) : (s.cometAbandon n).mem = s.mem := by unfold State.cometAbandon; split <;> simp
@[simp] theorem State.cometSuspend_mem (s : State) : (s.cometSuspend).mem = s.mem := rfl
@[simp] theorem State.retireStack_mem (s : State) (n : ℕ) : (s.retireStack n).mem = s.mem := by simp [State.retireStack]
@[simp] theorem State.retireSlice_mem (s : State) (n : ℕ) : (s.retireSlice n).mem = s.mem := rfl
@[simp] theorem State.retireChannel_mem (s : State) (n n2 : ℕ) : (s.retireChannel n n2).mem = s.mem := rfl
@[simp] theorem State.earlyLease_mem (s : State) (x : LeasedUnit) : (s.earlyLease x).mem = s.mem := by unfold State.earlyLease; (repeat' split) <;> simp
@[simp] theorem State.threshold_mem (s : State) (u : DevUnit) : (s.threshold u).mem = s.mem := by
  unfold State.threshold
  dsimp only
  (repeat' split) <;> simp
@[simp] theorem State.decayed_mem (s : State) : s.decayed.mem = s.mem := by
  unfold State.decayed
  dsimp only
  (repeat' split) <;> simp
@[simp] theorem State.charge_mem (s : State) (u : DevUnit) (x : ScoreEvent) : (s.charge u x).mem = s.mem := by simp [State.charge]
@[simp] theorem State.scrubPoison_mem (s : State) (u : DevUnit) (n : ℕ) : (s.scrubPoison u n).mem = s.mem := by unfold State.scrubPoison; (repeat' split) <;> simp
@[simp] theorem State.chargeCorrected_mem (s : State) (u : DevUnit) (e : ScoreEvent) (addr : ℕ) : (s.chargeCorrected u e addr).mem = s.mem := by
  unfold State.chargeCorrected
  dsimp only
  (repeat' split) <;> simp
@[simp] theorem State.unitError_mem (s : State) (u : DevUnit) (x : ScoreEvent) (n : ℕ) : (s.unitError u x n).mem = s.mem := by unfold State.unitError; (repeat' split) <;> simp
@[simp] theorem State.leaseReturn_mem (s : State) (u : DevUnit) : (s.leaseReturn u).mem = s.mem := by
  unfold State.leaseReturn
  dsimp only
  rw [State.threshold_mem]
  (repeat' split) <;> simp
@[simp] theorem State.unitRetire_mem (s : State) (x : LeasedUnit) (reason set : ℕ) (got expect : BitVec 64) : (s.unitRetire x reason set got expect).mem = s.mem := by
  unfold State.unitRetire
  dsimp only
  rw [State.recordRetirement_mem, State.capacityChange_mem]
  split <;> simp
@[simp] theorem State.testRun_mem (s : State) (u : DevUnit) (found : RunFound) (got expect : BitVec 64) : (s.testRun u found got expect).mem = s.mem := by
  unfold State.testRun
  dsimp only
  (repeat' split) <;> simp
@[simp] theorem State.failUnit_mem (s : State) (x : LeasedUnit) (n n2 : ℕ) (x2 x3 : BitVec 64) : (s.failUnit x n n2 x2 x3).mem = s.mem := by unfold State.failUnit; split <;> simp
@[simp] theorem State.leasesReturn_mem (s : State) : s.leasesReturn.mem = s.mem := by
  unfold State.leasesReturn
  exact (foldl_mem (fun u x => by split <;> simp) _ _).trans s.decayed_mem
@[simp] theorem State.hostCount_mem (s : State) (addr n : ℕ) (wr : Bool) : (s.hostCount addr n wr).mem = s.mem := by simp [State.hostCount]
@[simp] theorem State.putQueueProd_mem (s : State) (n : ℕ) (x : BitVec 16) : (s.putQueueProd n x).mem = s.mem := by unfold State.putQueueProd; (repeat' split) <;> simp
@[simp] theorem State.putPoolProd_mem (s : State) (n : ℕ) (x : BitVec 16) : (s.putPoolProd n x).mem = s.mem := by unfold State.putPoolProd; (repeat' split) <;> simp
@[simp] theorem State.putEventCons_mem (s : State) (x : BitVec 16) : (s.putEventCons x).mem = s.mem := by unfold State.putEventCons; split <;> simp
@[simp] theorem State.answer_mem (s : State) (n : ℕ) (x : List Byte) : (s.answer n x).mem = s.mem := rfl
@[simp] theorem State.keepRunning_mem (s : State) (n : ℕ) (x : List Byte) : (s.keepRunning n x).mem = s.mem := rfl
@[simp] theorem State.tlbDropIn_mem (s : State) (n n2 : ℕ) : (s.tlbDropIn n n2).mem = s.mem := rfl
@[simp] theorem State.portHello_mem (s : State) (n : ℕ) : (s.portHello n).mem = s.mem := by simp [State.portHello]
@[simp] theorem State.rehello_mem (s : State) : s.rehello.mem = s.mem := by
  unfold State.rehello
  exact foldl_mem (fun u x => by (repeat' split) <;> simp) _ _
@[simp] theorem State.clearTether_mem (s : State) : (s.clearTether).mem = s.mem := rfl
@[simp] theorem State.abortSpan_mem (s : State) (m : Command) : (s.abortSpan m).mem = s.mem := by unfold State.abortSpan; split <;> simp
@[simp] theorem State.releaseCrew_mem (s : State) (n : ℕ) : (s.releaseCrew n).mem = s.mem := by unfold State.releaseCrew; split <;> simp
@[simp] theorem State.putPlatform_mem (s : State) (n : ℕ) (x : BitVec 32) : (s.putPlatform n x).mem = s.mem := rfl
@[simp] theorem State.modPerf_mem (s : State) (n : ℕ) (x : Perf → Perf) : (s.modPerf n x).mem = s.mem := by unfold State.modPerf; split <;> simp
@[simp] theorem State.bar0Write_mem (s : State) (off : ℕ) (v : BitVec 32) : (s.bar0Write off v).mem = s.mem := by
  unfold State.bar0Write
  split
  · rfl
  split
  · exact State.putPlatform_mem _ _ _
  split
  · exact State.modPerf_mem _ _ _
  · rfl
@[simp] theorem State.barRead_mem (s : State) (n n2 : ℕ) : (s.barRead n n2).mem = s.mem := by unfold State.barRead; (repeat' split) <;> simp
@[simp] theorem State.i3cWrite_mem (s : State) (x : BitVec 7) (x2 : List Byte) : (s.i3cWrite x x2).mem = s.mem := by unfold State.i3cWrite; (repeat' split) <;> simp
@[simp] theorem State.i3cRead_mem (s : State) (x : BitVec 7) : (s.i3cRead x).mem = s.mem := by unfold State.i3cRead; split <;> simp
@[simp] theorem State.losePower_mem (s : State) : (s.losePower).mem = s.mem := rfl
@[simp] theorem State.heat_mem (s : State) (x : BitVec 8) : (s.heat x).mem = s.mem := by unfold State.heat; split <;> simp
@[simp] theorem State.monitor_mem (s : State) (x : BitVec 16) (b : Bool) (x2 : BitVec 8) : (s.monitor x b x2).mem = s.mem := by unfold State.monitor; split <;> simp
@[simp] theorem State.enterStage_mem (s : State) (n n2 : ℕ) : (s.enterStage n n2).mem = s.mem := rfl
@[simp] theorem State.bootStage_mem (s : State) : (s.bootStage).mem = s.mem := by unfold State.bootStage; (repeat' split) <;> simp
@[simp] theorem State.flushOut_mem (s : State) (p : ℕ) : (s.flushOut p).mem = s.mem := by simp [State.flushOut]
@[simp] theorem State.heardLeave_mem (s : State) (x : Port) (x2 : HelloInfo) : (s.heardLeave x x2).mem = s.mem := by unfold State.heardLeave; split <;> simp
@[simp] theorem State.crcNak_mem (s : State) (n : ℕ) : (s.crcNak n).mem = s.mem := by simp [State.crcNak]
@[simp] theorem State.replayFrom_mem (s : State) (f : Flit) : (s.replayFrom f).mem = s.mem := by
  unfold State.replayFrom
  dsimp only
  (repeat' split) <;> simp
@[simp] theorem State.contribute_mem (s : State) (x : SpanNode) : (s.contribute x).mem = s.mem := by unfold State.contribute; split <;> simp
@[simp] theorem State.contributeValue_mem (s : State) (x : SpanNode) (x2 : ℕ × Word) : (s.contributeValue x x2).mem = s.mem := by simp [State.contributeValue]
@[simp] theorem State.sendShard_mem (s : State) (dst : ℕ) (step : BitVec 32) (kind index record : ℕ) (data : List Byte) : (s.sendShard dst step kind index record data).mem = s.mem := by simp [State.sendShard]
@[simp] theorem State.sendNoShard_mem (s : State) (n : ℕ) (x : BitVec 32) (n2 n3 n4 : ℕ) : (s.sendNoShard n x n2 n3 n4).mem = s.mem := by simp [State.sendNoShard]
@[simp] theorem State.askShard_mem (s : State) (n : ℕ) (x : BitVec 32) (n2 n3 : ℕ) : (s.askShard n x n2 n3).mem = s.mem := by simp [State.askShard]
@[simp] theorem State.putHome_mem (s : State) (x : HomeLine) : (s.putHome x).mem = s.mem := rfl
@[simp] theorem State.dropSlice_mem (s : State) (n n2 : ℕ) : (s.dropSlice n n2).mem = s.mem := rfl
@[simp] theorem State.takeAnswer_mem (s : State) (n n2 : ℕ) (x : BitVec 32) (x2 : TAnswer) : (s.takeAnswer n n2 x x2).mem = s.mem := by unfold State.takeAnswer; (repeat' split) <;> simp
@[simp] theorem State.answerSlice_mem (s : State) (n n2 : ℕ) (x : BitVec 32) (x2 : TAnswer) : (s.answerSlice n n2 x x2).mem = s.mem := by unfold State.answerSlice; split <;> simp
@[simp] theorem State.loseOwner_mem (s : State) (line owner : ℕ) : (s.loseOwner line owner).mem = s.mem := by
  unfold State.loseOwner
  dsimp only
  (repeat' split) <;> simp
@[simp] theorem State.sendSnoop_mem (s : State) (n n2 : ℕ) (b : Bool) : (s.sendSnoop n n2 b).mem = s.mem := by unfold State.sendSnoop; split <;> simp
@[simp] theorem State.finishRequest_mem (s : State) (w : HomeWait) : (s.finishRequest w).mem = s.mem := by
  unfold State.finishRequest
  dsimp only
  (repeat' split) <;> simp
theorem State.beginRequest_mem (s : State) (w : HomeWait) : (s.beginRequest w).1.mem = s.mem := by
  unfold State.beginRequest
  dsimp only
  split
  · split <;> simp
  · split
    · simp
    · split <;> simp
@[simp] theorem State.pumpLine_mem (s : State) (line n : ℕ) : (s.pumpLine line n).mem = s.mem := by
  induction n generalizing s with
  | zero => rfl
  | succ n ih =>
    rw [State.pumpLine]
    split
    · rfl
    · rename_i w _
      have begun := s.beginRequest_mem w
      split
      · rfl
      · split <;> simp_all
@[simp] theorem State.endRequest_mem (s : State) (w : HomeWait) : (s.endRequest w).mem = s.mem := by simp [State.endRequest]
@[simp] theorem State.enterRequest_mem (s : State) (w : HomeWait) : (s.enterRequest w).mem = s.mem := by unfold State.enterRequest; split <;> simp
@[simp] theorem State.homeRequest_mem (s : State) (line pkg gang : ℕ) (tag : BitVec 32) (k : TReqKind) (l : Link) : (s.homeRequest line pkg gang tag k l).mem = s.mem := by
  unfold State.homeRequest
  (repeat' split) <;> first | (simp; done) | exact State.inOrder_mem _ _ _ (fun u => by split <;> simp)
@[simp] theorem State.snoopSlice_mem (s : State) (gang line : ℕ) (b : Bool) : (s.snoopSlice gang line b).1.mem = s.mem := by
  unfold State.snoopSlice
  cases s.sliceCopy gang line with
  | none => rfl
  | some x => cases b <;> simp
@[simp] theorem State.homeAnswer_mem (s : State) (line slice : ℕ) (data : Option (BitVec 512)) : (s.homeAnswer line slice data).mem = s.mem := by
  unfold State.homeAnswer
  dsimp only
  (repeat' split) <;> simp
@[simp] theorem State.silence_mem (s : State) (w : HomeWait) : (s.silence w).mem = s.mem := by
  unfold State.silence
  dsimp only
  (repeat' split) <;> simp
@[simp] theorem State.poisonLines_mem (s : State) (pa : ℕ) (ws : List ℕ) : (s.poisonLines pa ws).mem = s.mem := foldl_mem (fun u _ => State.setPoison_mem u _ _) ws s
@[simp] theorem State.inArea_mem (s : State) (x : ℕ × ℕ) : (s.inArea x).mem = s.mem := rfl
@[simp] theorem State.serveShard_mem (s : State) (n : ℕ) (x : BitVec 32) (n2 n3 : ℕ) : (s.serveShard n x n2 n3).mem = s.mem := by unfold State.serveShard; (repeat' split) <;> simp
@[simp] theorem State.takeShard_mem (s : State) (n : ℕ) (x : List Byte) : (s.takeShard n x).mem = s.mem := by unfold State.takeShard; grind
@[simp] theorem State.askAll_mem (s : State) (n : BitVec 32) (l : List (ℕ × ℕ × ℕ)) : (s.askAll n l).mem = s.mem := by simp [State.askAll]
@[simp] theorem State.rebuildOver_mem (s : State) (x : BitVec 32) : (s.rebuildOver x).mem = s.mem := rfl
theorem outState_mem {o : Out} {s : State} (keeps : ∀ u, o = .next u → u.mem = s.mem) : (outState o s).mem = s.mem := by
  cases o with
  | next u => exact keeps u rfl
  | fault => rfl
  | refused => rfl
@[simp] theorem State.holdLease_mem (s : State) (x : LeasedUnit) : (s.holdLease x).mem = s.mem := by
  unfold State.holdLease
  dsimp only
  (repeat' split) <;> simp
@[simp] theorem State.holdLeases_mem (s : State) : s.holdLeases.mem = s.mem := by simp [State.holdLeases]
@[simp] theorem State.writeBack_mem (s : State) (x : SliceLine) : (s.writeBack x).mem = s.mem := by
  unfold State.writeBack
  dsimp only
  (repeat' split) <;> simp
@[simp] theorem State.dropPreserved_mem (s : State) : (s.dropPreserved).mem = s.mem := by unfold State.dropPreserved; split <;> simp
@[simp] theorem State.cut_mem (s : State) : s.cut.mem = s.mem := by simp [State.cut]
@[simp] theorem State.resumeAll_mem (s : State) : (s.resumeAll).mem = s.mem := by simp [State.resumeAll]
@[simp] theorem State.cutTimeout_mem (s : State) : (s.cutTimeout).mem = s.mem := by simp [State.cutTimeout]
@[simp] theorem State.restoreTether_mem (s : State) (b : List Byte) : (s.restoreTether b).mem = s.mem := by
  unfold State.restoreTether
  generalize List.range (2 ^ 18) = l
  split
  · rfl
  · rename_i fits
    clear fits
    induction l generalizing s with
    | nil => rfl
    | cons i l ih => exact (ih _).trans (State.putHome_mem _ _)
@[simp] theorem State.restoreCommand_mem (s : State) (x : List (List (List ℕ))) (x2 : List Byte) : (s.restoreCommand x x2).mem = s.mem := by unfold State.restoreCommand; (repeat' split) <;> simp
@[simp] theorem State.restoreMatrix_mem (s : State) (es : List (List (List ℕ))) (b : List Byte) : (s.restoreMatrix es b).mem = s.mem := by
  unfold State.restoreMatrix
  dsimp only
  split
  · split <;> simp
  · rfl
@[simp] theorem State.restoreTable_mem (s : State) (x : List Byte) : (s.restoreTable x).mem = s.mem := rfl
@[simp] theorem State.hush_mem (s : State) (x : List ℕ) : (s.hush x).mem = s.mem := rfl
@[simp] theorem State.unhush_mem (s : State) (x : List ℕ) : (s.unhush x).mem = s.mem := rfl
@[simp] theorem keepWrites_mem (s u1 : State) : (keepWrites s u1).mem = s.mem := rfl
theorem keepStores_mem (r : TeamRef) (a b : State) : (keepStores r a b).mem = a.mem ∨ (keepStores r a b).mem = b.mem := by
  unfold keepStores
  split
  · exact .inl (State.putTeam_mem _ _ _)
  · exact .inr rfl
@[simp] theorem State.markChosen_mem (s : State) (r : TeamRef) (x : Stream) (n : ℕ) (t : Team) : (s.markChosen r x n t).mem = s.mem := by simp [State.markChosen]
@[simp] theorem State.chargeCore_mem (s : State) (n : ℕ) (x : Option ℕ) : (s.chargeCore n x).mem = s.mem := by unfold State.chargeCore; split <;> simp
@[simp] theorem State.laneError_mem (s : State) (r : TeamRef) (n n2 : ℕ) : (s.laneError r n n2).mem = s.mem := by unfold State.laneError; (repeat' split) <;> simp
@[simp] theorem State.scalarError_mem (s : State) (r : TeamRef) (n : ℕ) : (s.scalarError r n).mem = s.mem := by unfold State.scalarError; (repeat' split) <;> simp
@[simp] theorem State.accError_mem (s : State) (r : TeamRef) (n : ℕ) : (s.accError r n).mem = s.mem := by unfold State.accError; (repeat' split) <;> simp
@[simp] theorem State.tableError_mem (s : State) (n n2 : ℕ) : (s.tableError n n2).mem = s.mem := by unfold State.tableError; (repeat' split) <;> simp

end Sys2Proof.Machine

namespace Sys2Proof.Machine

@[simp] theorem memOk_iff {s : State} : s.memOk ↔ s.mem.wf = true := Iff.rfl
theorem memOk_of_mem {s s' : State} (h : s.memOk) (same : s'.mem = s.mem) : s'.memOk := by
  rw [State.memOk, same]
  exact h
/-- A fold of updates that each keep the canonical form keeps it. -/
theorem foldl_memOk {α : Type} {f : State → α → State} (keeps : ∀ s x, s.memOk → (f s x).memOk) (l : List α) {s : State} (h : s.memOk) : (l.foldl f s).memOk := by
  induction l generalizing s with
  | nil => exact h
  | cons x l ih => exact ih (keeps s x h)

theorem memOk_fetchWord {s : State} (h : s.memOk) (core va : ℕ) : (s.fetchWord core va).1.memOk := by
  unfold State.fetchWord
  have walked := memOk_translate h (some core) (coreDie core) va false
  (repeat' split) <;> simp_all
theorem memOk_fetchWords {s : State} (h : s.memOk) (core va n : ℕ) : (s.fetchWords core va n).1.memOk := by
  induction n generalizing s va with
  | zero => exact h
  | succ n ih =>
    rw [State.fetchWords]
    have first := memOk_fetchWord h core va
    have rest := ih first (va + 4)
    (repeat' split) <;> simp_all
theorem memOk_fetchScalar {s : State} (h : s.memOk) (core : ℕ) (pc : BitVec 64) : (s.fetchScalar core pc).1.memOk := by
  unfold State.fetchScalar
  have first := memOk_fetchWords h core pc.toNat 1
  have second := memOk_fetchWords first core (pc.toNat + 4) 1
  dsimp only
  (repeat' split) <;> simp_all
theorem memOk_fetchLane {s : State} (h : s.memOk) (core addr i : ℕ) : (s.fetchLane core addr i).1.memOk := by
  unfold State.fetchLane
  have words := memOk_fetchWords h core (addr + 12 + 12 * i) 3
  split <;> simp_all
theorem memOk_stampWrite {s s' : State} (h : s.memOk) {die va v : ℕ} (e : s.stampWrite die va v = some s') : s'.memOk := by
  unfold State.stampWrite at e
  have walked := memOk_translate h none die va true
  split at e
  · rename_i there
    rw [there] at walked
    split at e
    · cases e; exact walked
    · split at e <;> cases e
      · exact memOk_pageWrite walked ‹_›
      · exact walked
  · rename_i there
    rw [there] at walked
    cases e; exact walked
theorem memOk_completeLaunch {s : State} (h : s.memOk) (id : BitVec 32) : (s.completeLaunch id).memOk := by
  unfold State.completeLaunch
  split
  · exact h
  split
  · dsimp only
    split
    · exact h
    · rename_i u stamped
      have there : u.memOk := by
        split at stamped
        · cases stamped; exact h
        · exact memOk_stampWrite h stamped
      split
      · exact memOk_of_mem there (by simp)
      · exact there
  · exact h
theorem memOk_completeCrew {s : State} (h : s.memOk) (k : ℕ) : (s.completeCrew k).memOk := by
  unfold State.completeCrew
  split
  · exact h
  split
  · exact memOk_completeLaunch (memOk_of_mem h (by simp)) _
  split
  · exact memOk_completeLaunch (memOk_of_mem h (by simp)) _
  · exact h
theorem memOk_settle {s : State} (h : s.memOk) (k : ℕ) : (s.settle k).memOk := by
  unfold State.settle
  split
  · exact h
  · exact memOk_completeCrew (memOk_of_mem h (by simp)) _
theorem memOk_globAtom {s s' : State} (h : s.memOk) {core va pa n v : ℕ} {op : AtomOp} {x cmp : Word} {st : BitVec 32} (e : s.globAtom core va pa n op x cmp st = .ok (s', v)) : s'.memOk := by
  unfold State.globAtom at e
  dsimp only at e
  split at e <;> cases e
  exact memOk_of_mem (memOk_pageMerge h ‹_›) (by simp)
@[simp] theorem State.laneFetchFault_mem (s : State) (r : TeamRef) (c : Crew) (t : Team) (cause : ℕ) (z : Option ℕ) : (s.laneFetchFault r c t cause z).mem = s.mem := by
  unfold State.laneFetchFault
  dsimp only
  (repeat' split) <;> simp
theorem memOk_fillPieces {s : State} (h : s.memOk) (die : ℕ) (scm : Bool) (n va stop : ℕ) : (s.fillPieces die scm n va stop).1.memOk := by
  induction n generalizing s va with
  | zero => exact h
  | succ n ih =>
    rw [State.fillPieces]
    have walked := memOk_translate h none die va true
    split
    · exact h
    split
    · rename_i g u pa e _ there
      rw [there] at walked
      split
      · exact walked
      · have rest := ih walked (va + (min stop (g.base + ((va - g.base) / pageSize g.z + 1) * pageSize g.z) - va))
        dsimp only
        split <;> simp_all
    · rename_i g u _ there
      rw [there] at walked
      have rest := ih walked (g.base + ((va - g.base) / pageSize g.z + 1) * pageSize g.z)
      split <;> simp_all
    · simp_all
theorem memOk_cmdPage {s : State} (h : s.memOk) (m : Command) (scm : Bool) (va : ℕ) (wr : Bool) : (s.cmdPage m scm va wr).1.memOk := by
  unfold State.cmdPage
  have walked := memOk_translate h none (coreDie m.core) va wr
  (repeat' split) <;> simp_all
theorem memOk_cmdLoad {s : State} (h : s.memOk) (m : Command) (scm : Bool) (va n : ℕ) : (s.cmdLoad m scm va n).1.memOk := by
  unfold State.cmdLoad
  have page := memOk_cmdPage h m scm va false
  (repeat' split) <;> simp_all
theorem memOk_cmdBytes {s : State} (h : s.memOk) (m : Command) (scm : Bool) (k va n : ℕ) : (s.cmdBytes m scm k va n).1.memOk := by
  induction k generalizing s va n with
  | zero => exact h
  | succ k ih =>
    rw [State.cmdBytes]
    have first := memOk_cmdLoad h m scm va (min n (64 - va % 64))
    have rest := ih first (va + min n (64 - va % 64)) (n - min n (64 - va % 64))
    dsimp only
    (repeat' split) <;> simp_all
theorem memOk_cmdBlock {s : State} (h : s.memOk) (m : Command) (d : BitVec 512) (j : ℕ) : (s.cmdBlock m d j).1.memOk := by
  unfold State.cmdBlock
  dsimp only
  have head := memOk_cmdLoad h m (descScm d) (descBase d + 4104 * j) 8
  split
  · simp_all
  · rename_i u v p read
    rw [read] at head
    have rest := memOk_cmdBytes head m (descScm d) (v / 2 ^ 16 % 2 ^ 13 + 1) (descBase d + 4104 * j + 8) (v / 2 ^ 16 % 2 ^ 13)
    split
    · exact head
    split
    · exact head
    split
    · simp_all
    · rename_i there
      rw [there] at rest
      (repeat' split) <;> exact rest
theorem memOk_cmdStorage {s : State} (h : s.memOk) (m : Command) (d : BitVec 512) (b n : ℕ) : (s.cmdStorage m d b n).1.memOk := by
  unfold State.cmdStorage
  have block := memOk_cmdBlock h m d (b / 4096)
  split
  · split <;> simp_all
  · exact memOk_cmdLoad h _ _ _ _
theorem memOk_cmdWords {s : State} (h : s.memOk) (m : Command) (d : BitVec 512) (b n : ℕ) : (s.cmdWords m d b n).1.memOk := by
  induction n with
  | zero => exact h
  | succ n ih =>
    rw [State.cmdWords]
    have last := memOk_cmdStorage ih m d (b + 4 * n) 4
    (repeat' split) <;> simp_all
theorem memOk_cmdRead {s : State} (h : s.memOk) (m : Command) (e : CEnd) (c : List ℕ) : (s.cmdRead m e c).1.memOk := by
  unfold State.cmdRead
  split
  · exact h
  · split
    · dsimp only
      (repeat' split) <;> exact h
    · rename_i d _
      dsimp only
      have words := memOk_cmdWords h m d ((descShape d).bitOf c / 8) (descPlanes d + 1)
      have stored := memOk_cmdStorage h m d ((descShape d).bitOf c / 8) (ceilDiv (CEnd.tensor d).width 8)
      (repeat' split) <;> simp_all
theorem memOk_cmdTarget {s : State} (h : s.memOk) (m : Command) (d : BitVec 512) (c : List ℕ) (blk : Option ℕ) : (s.cmdTarget m d c blk).1.memOk := by
  unfold State.cmdTarget
  have page := memOk_cmdPage h m (descScm d) (descElem d c blk).1 true
  dsimp only
  (repeat' split) <;> simp_all
theorem memOk_cmdBlocked {s : State} (h : s.memOk) (m : Command) (e : CEnd) (c : List ℕ) : (s.cmdBlocked m e c).1.memOk := by
  unfold State.cmdBlocked
  split
  · exact h
  split
  · exact h
  · rename_i d _
    have target := memOk_cmdTarget h m d c (if descFmt d = 14#4 then some (descPlanes d) else none)
    split <;> simp_all
theorem memOk_cmdStore {s s' : State} (h : s.memOk) {m : Command} {d : BitVec 512} {c : List ℕ} {blk : Option ℕ} {w : ℕ} {f : ℕ → ℕ} {poison : Bool}
    (e : s.cmdStore m d c blk w f poison = .ok s') : s'.memOk := by
  unfold State.cmdStore at e
  have target := memOk_cmdTarget h m d c blk
  split at e
  · cases e
  · rename_i there
    rw [there] at target
    dsimp only at e
    split at e
    · cases e
    split at e
    · cases e
    · cases e
      refine memOk_of_mem (memOk_pageMerge target ‹_›) ?_
      rw [State.cmdL1Drop_mem]
      split <;> simp

/-- Storing the words of a block-plane element keeps the canonical form where storing one does. -/
theorem memOk_cmdBlockStore {s s' : State} (h : s.memOk) {put : State → ℕ → (ℕ → ℕ) → Except Stop State} (keeps : ∀ {u u' : State} {i : ℕ} {f : ℕ → ℕ}, u.memOk → put u i f = .ok u' → u'.memOk)
    {planes bit v : ℕ} {l : List ℕ} (e : s.cmdBlockStore put planes bit v l = .ok s') : s'.memOk := by
  induction l generalizing s with
  | nil => cases e; exact h
  | cons i l ih =>
    rw [State.cmdBlockStore] at e
    split at e
    · cases e
    · exact ih (keeps h ‹_›) e
theorem Except.map_eq_ok {ε α β : Type} {f : α → β} {x : Except ε α} {b : β} (e : x.map f = .ok b) : ∃ a, x = .ok a ∧ f a = b := by
  cases x with
  | error => cases e
  | ok a => exact ⟨a, rfl, Except.ok.inj e⟩
theorem memOk_cmdWrite {s s' : State} (h : s.memOk) {m : Command} {x : CEnd} {c ws : List ℕ} {f : ℕ → ℕ} {poison : Bool} {k : Option ℕ}
    (e : s.cmdWrite m x c ws f poison = .ok (s', k)) : s'.memOk := by
  unfold State.cmdWrite at e
  split at e
  · dsimp only at e
    split at e
    · obtain ⟨u, stored, same⟩ := Except.map_eq_ok e
      cases same
      exact memOk_cmdBlockStore h (fun ok put => memOk_of_mem ok (State.cmdTileStore_mem put)) stored
    · obtain ⟨u, stored, same⟩ := Except.map_eq_ok e
      cases same
      exact memOk_of_mem h (State.cmdTileStore_mem stored)
  · dsimp only at e
    split at e
    · obtain ⟨u, stored, same⟩ := Except.map_eq_ok e
      cases same
      exact memOk_cmdBlockStore h (fun ok put => memOk_cmdStore ok put) stored
    · obtain ⟨u, stored, same⟩ := Except.map_eq_ok e
      cases same
      exact memOk_cmdStore h stored
theorem memOk_cmdTerms {s : State} (h : s.memOk) (m : Command) (a b : CEnd) (p n : ℕ) : (s.cmdTerms m a b p n).1.memOk := by
  induction n with
  | zero => exact h
  | succ n ih =>
    rw [State.cmdTerms]
    have last := memOk_cmdRead ih m a (m.srcAt p n)
    (repeat' split) <;> simp_all

end Sys2Proof.Machine

namespace Sys2Proof.Machine

theorem fst_memOk {α : Type} {p : State × α} {u : State} {x : α} (h : p.1.memOk) (e : p = (u, x)) : u.memOk := by
  rw [e] at h
  exact h

theorem memOk_copyOne {s : State} (h : s.memOk) (m : Command) (a b : CEnd) (ws : List ℕ) (p : ℕ) : (s.copyOne m a b ws p).1.memOk := by
  unfold State.copyOne
  have source := memOk_cmdRead h m a (m.srcAt p 0)
  have target := memOk_cmdBlocked source m b (m.dstAt p)
  split
  · exact fst_memOk source ‹_›
  · rename_i there
    rw [there] at target
    exact target
  · rename_i u v q there
    rw [there] at target
    split
    · rename_i w free
      rw [free] at target
      split
      · exact target
      · exact target
      · exact memOk_cmdWrite target ‹_›
    · exact fst_memOk target ‹_›
theorem memOk_copyAll {s : State} (h : s.memOk) (m : Command) (a b : CEnd) (ws l : List ℕ) : (s.copyAll m a b ws l).1.memOk := by
  induction l generalizing s with
  | nil => exact h
  | cons p l ih =>
    rw [State.copyAll]
    have first := memOk_copyOne h m a b ws p
    have rest := ih first
    (repeat' split) <;> simp_all
theorem memOk_moveCopy {s : State} (h : s.memOk) (m : Command) (a b : CEnd) (p : ℕ) : (s.moveCopy m a b p).memOk := by
  unfold State.moveCopy
  have moved (ws : List ℕ) := memOk_copyAll h m a b ws (s.cmdGroup m b p)
  dsimp only
  split
  · split
    · exact h
    · exact memOk_of_mem (fst_memOk (moved _) ‹_›) (by simp)
  · split
    · split
      · exact h
      · split <;> exact memOk_of_mem (fst_memOk (moved _) ‹_›) (by simp)
    · split
      · split
        · exact memOk_of_mem h (by simp)
        · split
          · exact h
          · split <;> exact memOk_of_mem (fst_memOk (moved _) ‹_›) (by simp)
      · split
        · exact memOk_of_mem h (by simp)
        · split
          · exact h
          · exact memOk_of_mem (fst_memOk (moved _) ‹_›) (by simp)
theorem memOk_redOne {s : State} (h : s.memOk) (m : Command) (a b : CEnd) (p : ℕ) : (s.redOne m a b p).1.memOk := by
  unfold State.redOne
  have terms := memOk_cmdTerms h m a b p ((winE m.swin).getD m.axis 1)
  have target := memOk_cmdBlocked terms m b (m.dstAt p)
  split
  · exact fst_memOk terms ‹_›
  · rename_i there
    rw [there] at target
    exact target
  · rename_i u l es q there
    rw [there] at target
    dsimp only
    split
    · rename_i w free
      rw [free] at target
      split
      · exact target
      · exact target
      · exact memOk_cmdWrite target ‹_›
    · exact fst_memOk target ‹_›
theorem memOk_redAll {s : State} (h : s.memOk) (m : Command) (a b : CEnd) (l : List ℕ) : (s.redAll m a b l).1.memOk := by
  induction l generalizing s with
  | nil => exact h
  | cons p l ih =>
    rw [State.redAll]
    have first := memOk_redOne h m a b p
    have rest := ih first
    (repeat' split) <;> simp_all
theorem memOk_moveRed {s : State} (h : s.memOk) (m : Command) (a b : CEnd) (p : ℕ) : (s.moveRed m a b p).memOk := by
  unfold State.moveRed
  dsimp only
  split
  · exact h
  split
  · exact h
  · exact memOk_of_mem (fst_memOk (memOk_redAll h m a b (s.cmdGroup m b p)) ‹_›) (by simp)
theorem memOk_redLocals {s : State} (h : s.memOk) (m : Command) (a b : CEnd) (n : ℕ) : (s.redLocals m a b n).1.memOk := by
  induction n with
  | zero => exact h
  | succ p ih =>
    rw [State.redLocals]
    have last := memOk_cmdTerms ih m a b p ((winE m.swin).getD m.axis 1)
    (repeat' split) <;> simp_all
theorem memOk_formLocal {s : State} (h : s.memOk) (m : Command) : (s.formLocal m).memOk := by
  unfold State.formLocal
  dsimp only
  split
  · exact memOk_of_mem h (by simp)
  split
  · split
    · exact h
    · exact memOk_of_mem (fst_memOk (memOk_redLocals h m _ _ _) ‹_›) (by simp)
  · exact memOk_of_mem h (by simp)
theorem memOk_cmdMove {s : State} (h : s.memOk) (id p : ℕ) : (s.cmdMove id p).memOk := by
  unfold State.cmdMove
  split
  · exact h
  split
  · split
    · exact h
    split
    · exact memOk_of_mem (memOk_formLocal h _) (State.closeReduction_mem _ _ _)
    split
    · exact h
    split
    · exact memOk_moveRed h _ _ _ _
    · exact memOk_moveCopy h _ _ _ _
  · exact h
theorem memOk_cmdSignal {s s' : State} (h : s.memOk) {m : Command} {code : ℕ} (e : s.cmdSignal m code = some s') : s'.memOk := by
  unfold State.cmdSignal at e
  have walked := memOk_translate h none (coreDie m.core) m.signal.toNat true
  split at e
  · split at e
    · cases e; exact h
    split at e
    · rename_i there
      rw [there] at walked
      split at e
      · cases e; exact walked
      · split at e <;> cases e
        · exact memOk_of_mem (memOk_pageWrite walked ‹_›) (by simp)
        · exact walked
    · cases e
      exact fst_memOk walked ‹_›
  split at e
  · split at e
    · cases e; exact h
    · split at e <;> cases e
      exact memOk_of_mem h (State.gateStep_mem ‹_›)
  · cases e; exact h
theorem memOk_attemptMwait {s s' : State} (h : s.memOk) {d a : SReg} {r : TeamRef} {c : Crew} {t : Team} (e : attemptMwait d a s r c t = some s') : s'.memOk := by
  unfold attemptMwait at e
  have checked := memOk_globCheck h c.core (t.sreg a).toNat 8 false true
  split at e
  · split at e <;> cases e
    exact memOk_of_mem (fst_memOk checked ‹_›) (by simp)
  · dsimp only at e
    split at e <;> cases e
    exact memOk_of_mem (fst_memOk checked ‹_›) (by simp)
theorem memOk_globAcc {s : State} (h : s.memOk) (core n : ℕ) (va : Word) (wr rd : Bool) (k : AccKind) : (globAcc s core n va wr rd k).1.memOk := by
  unfold globAcc
  have checked := memOk_globCheck h core va.toNat n wr rd
  split <;> exact fst_memOk checked ‹_›
theorem memOk_slotAcc {s : State} (hd : LaneHead) (m : ModM) (r : TeamRef) (c : Crew) (t : Team) (x : Mask) (h : s.memOk) (l : ℕ) (wr : Bool) (k : AccKind) :
    (slotAcc hd m r c t x s l wr k).1.memOk := by
  unfold slotAcc
  dsimp only
  split
  · split
    · exact memOk_globAcc h _ _ _ _ _ _
    · exact h
  · exact h
theorem memOk_wlStart {s : State} (h : s.memOk) (core : ℕ) (bad : Bool) (set list : ℕ) : (wlStart s core bad set list).1.memOk := by
  unfold wlStart
  have checked := memOk_globCheck h core set 64 true true
  split
  · exact h
  · split <;> exact fst_memOk checked ‹_›
theorem memOk_wlLanes (r : TeamRef) (cl : Clause) (hd : LaneHead) (core : ℕ) (bad : ℕ → Bool) (a b c : ℕ → Word) (ord idx base : ℕ) (l : List ℕ) {s : State} (h : s.memOk)
    (fs : List (ℕ × ℕ × Option ℕ)) : (wlLanes r cl hd core bad a b c ord idx base l s fs).1.memOk := by
  induction l generalizing s fs with
  | nil => exact h
  | cons i l ih =>
    rw [wlLanes]
    have began := memOk_wlStart h core (bad i) (a i).toNat (getElem 32 0 (c i))
    dsimp only
    split
    · exact ih (fst_memOk began ‹_›) _
    · refine ih (memOk_of_mem (fst_memOk began ‹_›) ?_) _
      split <;> simp
    · exact ih (memOk_of_mem (fst_memOk began ‹_›) (by simp)) _
theorem State.performLoad_mem {s s' : State} {r : TeamRef} {core v : ℕ} {a : Access} (e : s.performLoad r core a = .ok (s', v)) : s'.mem = s.mem := by
  unfold State.performLoad at e
  split at e
  · cases e; rfl
  · exact State.l1Load_mem e
theorem memOk_performWrite {s s' : State} (h : s.memOk) {core v : ℕ} {st : BitVec 32} {a : Access} (e : s.performWrite core st a = .ok (s', v)) : s'.memOk := by
  unfold State.performWrite at e
  split at e
  · obtain ⟨u, made, same⟩ := Except.map_eq_ok e
    cases same
    exact memOk_of_mem h (State.tileWrite_mem made)
  · obtain ⟨u, made, same⟩ := Except.map_eq_ok e
    cases same
    exact memOk_of_mem h (State.tileUpdate_mem made)
  · obtain ⟨u, made, same⟩ := Except.map_eq_ok e
    cases same
    exact memOk_of_mem (memOk_pageWrite h made) (by simp)
  · exact memOk_globAtom h e
  · cases e; exact h
theorem memOk_accessFails {s : State} (h : s.memOk) (r : TeamRef) (k : ℕ) (a : Access) : (s.accessFails r k a).memOk := by
  unfold State.accessFails
  split
  · exact h
  split
  · exact h
  · rename_i c t _ _
    dsimp only
    generalize outcome : (if (a.isStore && (Config.freeValue s.free).getLsbD 0) = true then s.performWrite c.core (t.accessStep a) a else Except.ok (s, 0)) = o
    cases o with
    | error x =>
      dsimp only
      split
      · exact memOk_completeCrew (memOk_of_mem h (by simp)) _
      · (repeat' split) <;> exact memOk_of_mem h (by simp)
    | ok p =>
      have kept : p.1.memOk := by
        split at outcome
        · exact memOk_performWrite h outcome
        · cases outcome; exact h
      dsimp only
      split
      · exact memOk_completeCrew (memOk_of_mem kept (by simp)) _
      · (repeat' split) <;> exact memOk_of_mem kept (by simp)
theorem memOk_wlWrite {s s' : State} (h : s.memOk) {core va n v : ℕ} {st : BitVec 32} (e : s.wlWrite core va n v st = some s') : s'.memOk := by
  unfold State.wlWrite at e
  have walked := memOk_translate h none (coreDie core) va true
  split at e
  · rename_i there
    rw [there] at walked
    split at e
    · cases e
    · split at e <;> cases e
      exact memOk_pageWrite walked ‹_›
  · cases e
theorem memOk_putWlBlock {s s' : State} (h : s.memOk) {core set : ℕ} {b : WlBlock} {st : BitVec 32} (e : s.putWlBlock core set b st = some s') : s'.memOk := memOk_wlWrite h e
theorem memOk_putWlEntry {s s' : State} (h : s.memOk) {core set i head tail : ℕ} {st : BitVec 32} (e : s.putWlEntry core set i head tail st = some s') : s'.memOk := memOk_wlWrite h e
theorem memOk_wlLines {s : State} (h : s.memOk) (core k va n : ℕ) : (s.wlLines core k va n).1.memOk := by
  induction k generalizing s va n with
  | zero => exact h
  | succ k ih =>
    rw [State.wlLines]
    have walked := memOk_translate h (some core) (coreDie core) va true
    have rest := ih walked (va + min n 64) (n - min n 64)
    (repeat' split) <;> simp_all
theorem memOk_wlFill {s s' : State} (h : s.memOk) {core first : ℕ} {st : BitVec 32} {l : List (ℕ × ℕ × ℕ × Word)} (e : s.wlFill core st first l = .ok s') : s'.memOk := by
  induction l generalizing s first with
  | nil => cases e; exact h
  | cons p l ih =>
    rw [State.wlFill] at e
    split at e
    · cases e
    · exact ih (memOk_of_mem (memOk_pageWrite h ‹_›) (by simp)) e
theorem memOk_attemptWltake {s s' : State} (h : s.memOk) {d a : SReg} {r : TeamRef} {c : Crew} {t : Team} (e : attemptWltake d a s r c t = some s') : s'.memOk := by
  unfold attemptWltake at e
  dsimp only at e
  split at e
  · cases e
  split at e
  · cases e
  split at e
  · cases e; exact memOk_of_mem h (by simp)
  split at e
  · obtain ⟨u, written, same⟩ := Option.map_eq_some_iff.mp e
    cases same
    exact memOk_of_mem (memOk_putWlBlock h written) (by simp)
  split at e
  · cases e
  split at e
  · split at e
    · cases e
    split at e
    · cases e
    split at e
    · cases e; exact memOk_of_mem h (by simp)
    split at e
    · cases e
    · rename_i u taken
      split at e
      · cases e
      · rename_i w put
        obtain ⟨x, written, same⟩ := Option.map_eq_some_iff.mp e
        cases same
        exact memOk_of_mem (memOk_putWlBlock (memOk_putWlEntry (memOk_of_mem h (State.takeItems_mem taken)) put) written) (by simp)
  · cases e
theorem memOk_wlNamed {s : State} (h : s.memOk) (core set : ℕ) : (s.wlNamed core set).1.memOk := by
  unfold State.wlNamed
  have checked := memOk_globCheck h core set 64 true true
  dsimp only
  split
  · exact fst_memOk checked ‹_›
  · rename_i there
    rw [there] at checked
    (repeat' split) <;> exact checked
theorem memOk_attemptTdwait {s s' : State} (h : s.memOk) {d a : SReg} {r : TeamRef} {c : Crew} {t : Team} (e : attemptTdwait d a s r c t = some s') : s'.memOk := by
  unfold attemptTdwait at e
  dsimp only at e
  split at e
  · cases e
  split at e
  · cases e
  split at e
  · cases e; exact memOk_of_mem h (by simp)
  split at e
  · obtain ⟨u, written, same⟩ := Option.map_eq_some_iff.mp e
    cases same
    exact memOk_of_mem (memOk_putWlBlock h written) (by simp)
  · cases e
theorem memOk_remake {s : State} (h : s.memOk) (r : TeamRef) (a : Access) : (s.remake r a).memOk := by
  unfold State.remake
  split
  · rename_i c t va _ _ _
    have walked := memOk_translate h (some c.core) (coreDie c.core) va a.isStore
    dsimp only
    split <;> exact memOk_of_mem (fst_memOk walked ‹_›) (by simp)
  · exact h
theorem memOk_rearmTeam {s : State} (h : s.memOk) (r : TeamRef) : (s.rearmTeam r).memOk := by
  unfold State.rearmTeam
  split
  · exact h
  · exact foldl_memOk (fun u a ok => memOk_remake ok r a) _ (memOk_of_mem h (by simp))
theorem memOk_rearmSlots {s : State} (h : s.memOk) (k : ℕ) : (s.rearmSlots k).memOk := by
  unfold State.rearmSlots
  split
  · exact h
  · exact foldl_memOk (fun u i ok => memOk_rearmTeam ok _) _ h

end Sys2Proof.Machine

namespace Sys2Proof.Machine

theorem ite_memOk {p : Prop} [Decidable p] {a b : State} (yes : a.memOk) (no : b.memOk) : (if p then a else b).memOk := by
  split
  · exact yes
  · exact no

theorem memOk_drainElems {s : State} (h : s.memOk) (c : Crew) (hd : LaneHead) (md : ModDrain) (e : CEnd) (o : List ℕ) (l : List (ℕ × ℕ)) : (drainElems s c hd md e o l).1.memOk := by
  induction l generalizing s with
  | nil => exact h
  | cons p l ih =>
    rw [drainElems.eq_def]
    dsimp only
    split
    · exact ih h
    · rename_i d
      have checked := memOk_globCheck h c.core (descElem d (drainAt o p.1 p.2) none).1 (ceilDiv (elemWidth hd.ty) 8) true md.add
      split <;> exact ih (fst_memOk checked ‹_›)
theorem memOk_drainStore {s s' : State} (h : s.memOk) {m : MCmd} {hd : LaneHead} {md : ModDrain} {p : ℕ × ℕ} {x : ℕ} (e : s.drainStore m hd md p x = .ok s') : s'.memOk := by
  unfold State.drainStore at e
  have walked := memOk_translate h none (coreDie m.core) (descElem m.desc (drainAt (drainOrigin md m.src) p.1 p.2) none).1 true
  dsimp only at e
  split at e
  · split at e
    · rename_i there
      have counted := memOk_countRequest (fst_memOk walked there) (coreDie m.core) ‹ℕ› true
      split at e
      · cases e; exact fst_memOk walked there
      split at e
      · cases e
      split at e
      · cases e
      · cases e; exact counted
      · cases e
        refine memOk_of_mem (memOk_pageMerge counted ‹_›) ?_
        (repeat' split) <;> simp
    · cases e; exact fst_memOk walked ‹_›
  · split at e
    · cases e; exact h
    split at e
    · cases e
    split at e
    · cases e
    · cases e; exact h
    · cases e
      refine memOk_of_mem h (Eq.trans ?_ (State.tileUpdate_mem ‹_›))
      split <;> simp
theorem State.drainBegin_mem {s s' : State} {m : MCmd} {hd : LaneHead} {md : ModDrain} (e : s.drainBegin m hd md = some s') : s'.mem = s.mem := by
  unfold State.drainBegin at e
  dsimp only at e
  split at e
  · cases e
  · obtain ⟨-, made⟩ := Option.ite_none_left_eq_some.mp e
    rw [← Option.some.inj made]
    split <;> simp
theorem memOk_drainElem {s : State} (h : s.memOk) (id key : ℕ) : (s.drainElem id key).memOk := by
  unfold State.drainElem
  dsimp only
  split
  · exact h
  split
  · split
    · exact h
    refine ite_memOk h ?_
    split
    · exact h
    · refine memOk_of_mem (memOk_drainStore h ‹_›) ?_
      (repeat' split) <;> simp
  · exact h
theorem State.startCmd_mem {s s' : State} {core : ℕ} {m : MCmd} (e : s.startCmd core m = some s') : s'.mem = s.mem := by
  unfold State.startCmd at e
  split at e
  · cases e; simp
  · split at e
    · cases e; simp
    · obtain ⟨q, -, same⟩ := Option.map_eq_some_iff.mp e
      cases same; simp
  · split at e
    · cases e
    · exact State.drainBegin_mem e
  · obtain ⟨u, made, same⟩ := Option.map_eq_some_iff.mp e
    cases same
    simp [State.performMatrix_mem made]
theorem memOk_attempt {s s' : State} (h : s.memOk) {r : TeamRef} {c : Crew} {t : Team} {w : ScalarWait} (e : s.attempt r c t w = some s') : s'.memOk := by
  obtain ⟨i⟩ := w
  cases i
  case sldf => exact memOk_of_mem h (attemptSldf_mem e)
  case sste => exact memOk_of_mem h (attemptSste_mem e)
  case gwait => exact memOk_of_mem h (attemptGwait_mem e)
  case bwait => exact memOk_of_mem h (attemptBwait_mem e)
  case mwait => exact memOk_attemptMwait h e
  case wltake => exact memOk_attemptWltake h e
  case tdwait => exact memOk_attemptTdwait h e
  case rgrow => exact memOk_of_mem h (attemptRgrow_mem e)
  case yield => exact memOk_of_mem h (attemptYield_mem e)
  all_goals exact absurd e.symm (Option.some_ne_none s')
@[simp] theorem State.coreTick_mem (s : State) (core n : ℕ) : (s.coreTick core n).mem = s.mem := by
  unfold State.coreTick
  dsimp only
  split <;> simp
theorem memOk_mgmtTick {s : State} (h : s.memOk) (n : ℕ) : (s.mgmtTick n).memOk := by
  unfold State.mgmtTick State.memOk
  dsimp only
  split
  · exact memOk_drainedLines h
  · exact h
theorem memOk_elapse {s : State} (h : s.memOk) (c : Clock) (n : ℕ) : (s.elapse c n).memOk := by
  cases c with
  | core c => exact memOk_of_mem h (State.coreTick_mem _ _ _)
  | mgmt => exact memOk_mgmtTick h n
  | slice r => exact memOk_of_mem h (State.sliceTick_mem _ _ _)
  | port p => exact h
  | pair c => exact h
theorem memOk_readExt {s : State} (h : s.memOk) (va n : ℕ) : (s.readExt va n).1.memOk := by
  induction n generalizing s va with
  | zero => exact h
  | succ n ih =>
    rw [State.readExt]
    have walked := memOk_translate h none 0 va false
    split
    · rename_i u pa e there
      have rest := ih (memOk_of_mem (fst_memOk walked there) (State.devRead_mem u pa 4)) (va + 4)
      dsimp only
      split <;> exact fst_memOk rest ‹_›
    · exact fst_memOk walked ‹_›
theorem memOk_checkRecord {s : State} (h : s.memOk) (r : BitVec 1024) (priv aligned : Bool) : (s.checkRecord r priv aligned).1.memOk := by
  unfold State.checkRecord
  dsimp only
  split
  · exact h
  · generalize read : (if recXdecl r % 16 = 0 then s.readExt (recXdecl r) (3 * (recNtiles r - 4)) else s.readExt (recXdecl r / 4 * 4) (3 * (recNtiles r - 4))) = p
    have kept : p.1.memOk := by
      rw [← read]
      split <;> exact memOk_readExt h _ _
    split
    · exact kept
    · (repeat' split) <;> exact kept
theorem memOk_oweStamp {s : State} (h : s.memOk) (o : OwedStamp) : (s.oweStamp o).memOk := by
  unfold State.oweStamp
  cases made : s.stampWrite o.die o.va o.value with
  | none => exact h
  | some u => exact memOk_stampWrite h made
theorem memOk_payStamp {s : State} (h : s.memOk) (k : ℕ) : (s.payStamp k).memOk := by
  unfold State.payStamp
  split
  · exact h
  · split
    · exact h
    · have paid := memOk_stampWrite h ‹_›
      exact paid
theorem memOk_refuseStamp {s : State} (h : s.memOk) (die : ℕ) (r : BitVec 1024) (code : ℕ) : (s.refuseStamp die r code).memOk := by
  unfold State.refuseStamp
  split
  · exact h
  · exact memOk_oweStamp h _
theorem memOk_readVirtual {s : State} (h : s.memOk) (core va n : ℕ) : (s.readVirtual core va n).1.memOk := by
  induction n generalizing s va with
  | zero => exact h
  | succ n ih =>
    rw [State.readVirtual]
    have walked := memOk_translate h (some core) (coreDie core) va false
    split
    · rename_i u pa e there
      have rest := ih (memOk_of_mem (fst_memOk walked there) (State.devRead_mem u pa 1)) (va + 1)
      dsimp only
      split <;> exact fst_memOk rest ‹_›
    · exact fst_memOk walked ‹_›
theorem memOk_readRecord {s : State} (h : s.memOk) (core va : ℕ) : (s.readRecord core va).1.memOk := by
  unfold State.readRecord
  have walked := memOk_translate h (some core) (coreDie core) va false
  split
  · split
    · rename_i u pa e there
      exact memOk_of_mem (fst_memOk walked there) (State.devRead_mem u pa 128)
    · exact fst_memOk walked ‹_›
  · have read := memOk_readVirtual h core va 128
    split <;> exact fst_memOk read ‹_›
theorem memOk_gateWord {s : State} (h : s.memOk) (va : ℕ) : (s.gateWord va).1.memOk := by
  unfold State.gateWord
  have walked := memOk_translate h none 0 va false
  split <;> exact fst_memOk walked ‹_›
theorem memOk_gateWords {s : State} (h : s.memOk) (l : List ℕ) : (s.gateWords l).1.memOk := by
  induction l generalizing s with
  | nil => exact h
  | cons g l ih =>
    rw [State.gateWords]
    have first := memOk_gateWord h g
    have rest := ih first
    (repeat' split) <;> simp_all
theorem memOk_cancelLaunch {s : State} (h : s.memOk) (l : Launch) : (s.cancelLaunch l).memOk := memOk_completeLaunch (memOk_of_mem h (by simp)) _
theorem memOk_placeCohort {s : State} (h : s.memOk) (w : Waiting) (g slot : ℕ) : (s.placeCohort w g slot).memOk := by
  unfold State.placeCohort
  dsimp only
  split
  · exact h
  split
  · exact memOk_of_mem h (by simp)
  · split
    · exact h
    · refine foldl_memOk (fun u j ok => ?_) _ h
      split
      · exact ok
      · exact memOk_rearmSlots (memOk_of_mem ok (by simp)) _
theorem memOk_apertureWrite {s : State} (h : s.memOk) (off : ℕ) (bytes : List Byte) : (s.apertureWrite off bytes).memOk := by
  unfold State.apertureWrite
  split
  · exact h
  split
  · exact h
  split
  · exact memOk_hostStore h _ _
  · exact h
theorem memOk_bar2Write {s : State} (h : s.memOk) (off : ℕ) (v : BitVec 32) : (s.bar2Write off v).memOk := by
  unfold State.bar2Write
  split
  · exact memOk_apertureWrite h _ _
  · split
    · split
      · exact memOk_of_mem h (by simp)
      · exact h
    · split
      · exact memOk_of_mem h (by simp)
      · exact h
    · split
      · exact memOk_of_mem h (by simp)
      · exact h
    · exact h
theorem memOk_abandonCrew {s : State} (h : s.memOk) (k : ℕ) : (s.abandonCrew k).memOk := by
  unfold State.abandonCrew
  split
  · exact h
  split
  · exact h
  · exact memOk_completeCrew (memOk_of_mem h (by simp)) _
theorem memOk_barWrite {s : State} (h : s.memOk) (bar off : ℕ) (v : BitVec 32) : (s.barWrite bar off v).memOk := by
  unfold State.barWrite
  split
  · exact memOk_of_mem h (by simp)
  · exact memOk_bar2Write h _ _

end Sys2Proof.Machine

namespace Sys2Proof.Machine

theorem memOk_acceptLine {s : State} (h : s.memOk) (pa : ℕ) (d : BitVec 512) : (s.acceptLine pa d).memOk := by
  unfold State.acceptLine
  refine ite_memOk h ?_
  have room : (if s.ballastRoom (paDie pa) = true then s else s.drainLine (paDie pa)).memOk := ite_memOk h (memOk_drainLine h _)
  exact room
theorem memOk_acceptBytes {s : State} (h : s.memOk) (pa : ℕ) (b : List Byte) : (s.acceptBytes pa b).memOk :=
  foldl_memOk (fun _ _ ok => memOk_acceptLine ok _ _) _ h
theorem memOk_writeRecord {s : State} (h : s.memOk) (r : StepRecord) : (s.writeRecord r).memOk := memOk_acceptBytes h _ _
theorem memOk_writeImage {s : State} (h : s.memOk) : s.writeImage.memOk := by
  unfold State.writeImage
  split
  · exact h
  · rename_i n _
    dsimp only
    have units := foldl_memOk (f := fun s (u : List Byte × ℕ) => s.acceptBytes (s.comet.unitAddr n u.2) u.1) (fun u x ok => memOk_acceptBytes ok _ _)
      (imageUnits s.comet.image).zipIdx h
    refine memOk_of_mem units ?_
    dsimp only
    split
    · exact foldl_mem (fun u x => by simp) _ _
    · exact (foldl_mem (fun u x => by simp) _ _).trans (foldl_mem (fun u x => by simp) _ _)
theorem memOk_imageWhole {s : State} (h : s.memOk) : s.imageWhole.memOk := ite_memOk (memOk_writeImage h) h
theorem memOk_rebuildStep {s : State} (h : s.memOk) (n : BitVec 32) : (s.rebuildStep n).memOk := by
  unfold State.rebuildStep
  split
  · exact memOk_of_mem h (by simp)
  split
  · exact memOk_of_mem h (by simp)
  · dsimp only
    rename_i us _
    have units := foldl_memOk (f := fun s (u : ℕ × List Byte) => s.acceptBytes (s.comet.unitAddr n u.1) u.2) (fun u x ok => memOk_acceptBytes ok _ _) us h
    refine memOk_of_mem ?_ (State.answer_mem _ _ _)
    exact memOk_of_mem (memOk_writeRecord units _) (State.rebuildOver_mem _ n)
theorem memOk_loadWrite {s : State} (h : s.memOk) (pa : ℕ) (b : List Byte) : (s.loadWrite pa b).memOk := ite_memOk (memOk_acceptLine h _ _) (memOk_hostStore h _ _)
theorem memOk_loadBytes {s : State} (h : s.memOk) (va n : ℕ) (b : List Byte) : (s.loadBytes va n b).1.memOk := by
  induction n generalizing s va b with
  | zero => exact h
  | succ n ih =>
    rw [State.loadBytes]
    have walked := memOk_translate h none 0 va false
    split
    · exact h
    · dsimp only
      split
      · exact ih (memOk_loadWrite (fst_memOk walked ‹_›) _ _) _ _
      · exact fst_memOk walked ‹_›
theorem memOk_loadPoison {s : State} (h : s.memOk) (va : ℕ) (l : List ℕ) : (s.loadPoison va l).memOk := by
  refine foldl_memOk (fun u i ok => ?_) l h
  have walked := memOk_translate ok none 0 (va + 64 * i) false
  split
  · exact memOk_of_mem (fst_memOk walked ‹_›) (State.setPoison_mem _ _ _)
  · exact fst_memOk walked ‹_›
theorem memOk_loadBlock {s : State} (h : s.memOk) (n : BitVec 32) (unit va : ℕ) : (s.loadBlock n unit va).1.memOk := by
  unfold State.loadBlock
  dsimp only
  generalize made : s.loadBytes va 65 (s.memBytes (s.comet.unitAddr n unit) 4096) = p
  have loaded : p.1.memOk := made ▸ memOk_loadBytes h _ _ _
  obtain ⟨u, done⟩ := p
  cases done with
  | true => exact memOk_loadPoison loaded _ _
  | false => exact loaded
/-- One page is loaded and marked, and the rest follow. Its recursion is opened by hand: the equation that Lean derives evaluates the bytes of a block. -/
theorem loadPages_cons (s : State) (n : BitVec 32) (e : LoadEntry) (l : List LoadEntry) : s.loadPages n (e :: l) =
    if e.kind ≠ 1 then s.loadPages n l
    else if (s.loadBlock n e.unit e.key).2 then ((s.loadBlock n e.unit e.key).1.setTracked e.key).loadPages n l else ((s.loadBlock n e.unit e.key).1, false) := by
  generalize made : s.loadBlock n e.unit e.key = p
  delta State.loadPages
  dsimp only [List.brecOn, List.brecOn.go]
  delta State.loadPages._f
  dsimp only
  rw [made]
  obtain ⟨u, done⟩ := p
  cases done <;> rfl
theorem loadTiles_cons (s : State) (n : BitVec 32) (va : ℕ) (e : LoadEntry) (l : List LoadEntry) : s.loadTiles n va (e :: l) =
    if (s.loadBlock n e.unit va).2 then (s.loadBlock n e.unit va).1.loadTiles n (va + 4096) l else ((s.loadBlock n e.unit va).1, false) := by
  generalize made : s.loadBlock n e.unit va = p
  delta State.loadTiles
  dsimp only [List.brecOn, List.brecOn.go]
  delta State.loadTiles._f
  dsimp only
  rw [made]
  obtain ⟨u, done⟩ := p
  cases done <;> rfl
theorem memOk_loadPages {s : State} (h : s.memOk) (n : BitVec 32) (l : List LoadEntry) : (s.loadPages n l).1.memOk := by
  induction l generalizing s with
  | nil => exact h
  | cons e l ih =>
    rw [loadPages_cons]
    have loaded := memOk_loadBlock h n e.unit e.key
    generalize s.loadBlock n e.unit e.key = p at loaded ⊢
    split
    · exact ih h
    split
    · exact ih (memOk_setTracked loaded _)
    · exact loaded
theorem memOk_loadTiles {s : State} (h : s.memOk) (n : BitVec 32) (va : ℕ) (l : List LoadEntry) : (s.loadTiles n va l).1.memOk := by
  induction l generalizing s va with
  | nil => exact h
  | cons e l ih =>
    rw [loadTiles_cons]
    have loaded := memOk_loadBlock h n e.unit va
    generalize s.loadBlock n e.unit va = p at loaded ⊢
    split
    · exact ih loaded _
    · exact loaded
theorem memOk_loadKind2 {s : State} (h : s.memOk) (n : BitVec 32) (a : ℕ) (es : List LoadEntry) : (s.loadKind2 n a es).1.memOk := by
  unfold State.loadKind2
  dsimp only
  split
  · exact memOk_loadTiles (fst_memOk (memOk_loadBytes h _ _ _) ‹_›) _ _ _
  · exact fst_memOk (memOk_loadBytes h _ _ _) ‹_›
theorem memOk_nextScalar {s : State} (h : s.memOk) (c : Crew) (t : Team) : (s.nextScalar c t).1.memOk := by
  unfold State.nextScalar
  have fetched := memOk_fetchScalar h c.core t.pc
  split <;> exact fst_memOk fetched ‹_›
theorem memOk_nextLane {s : State} (h : s.memOk) (c : Crew) (t : Team) (cl : Clause) : (s.nextLane c t cl).1.memOk := by
  unfold State.nextLane
  have fetched := memOk_fetchLane h c.core cl.addr t.lidx
  split <;> exact fst_memOk fetched ‹_›
theorem memOk_fetchNext {s s' : State} (h : s.memOk) {r : TeamRef} {st : Stream} {i : Instr} (e : s.fetchNext r st = some (s', i)) : s'.memOk := by
  unfold State.fetchNext at e
  split at e
  · cases e
  · rename_i c t _
    obtain ⟨-, next⟩ := Option.ite_none_left_eq_some.mp e
    split at next
    · exact fst_memOk (memOk_nextScalar h c t) (Option.some.inj next)
    · exact fst_memOk (memOk_nextLane h c t _) (Option.some.inj next)
    · cases next
@[simp] theorem State.countIssue_mem (s0 s : State) (r : TeamRef) (st : Stream) : (State.countIssue s0 s r st).mem = s.mem := by
  unfold State.countIssue
  (repeat' split) <;> simp
theorem memOk_save {s : State} (h : s.memOk) (p : List Byte) : (s.save p).memOk := by
  unfold State.save
  dsimp only
  split
  · exact memOk_of_mem h (by simp)
  · refine memOk_of_mem (memOk_hostStore h (payAt p 0 8) (s.image (saveFlags p))) ?_
    rw [State.answer_mem]
    split <;> simp
theorem memOk_settleGates {s : State} (h : s.memOk) : s.settleGates.memOk := by
  refine foldl_memOk (fun u r ok => ?_) _ h
  split
  · exact ok
  split
  · exact ok
  split
  · rename_i c t _ _ w _ _
    cases made : u.attempt r c t w with
    | none => exact ok
    | some v => exact memOk_attempt ok made
  · exact ok
theorem memOk_tryCut {s : State} (h : s.memOk) (p : List Byte) : (s.tryCut p).memOk := ite_memOk (memOk_save (memOk_of_mem (memOk_settleGates h) (State.cut_mem _)) p) h
theorem memOk_restorePage {s : State} (h : s.memOk) (va flags : ℕ) (b : List Byte) : (s.restorePage va flags b).memOk := by
  unfold State.restorePage
  split
  · exact h
  · rename_i r _
    dsimp only
    have bound : (if pteV (s.pte r va) = true then s else ({ s with mem := writeLE s.mem (r.entryAddr va) 8 (s.pte r va &&& ~~~2#64).toNat }.translate none (s.poolDie r.z) va false).1).memOk :=
      ite_memOk h (memOk_translate (wf_writeLE h _ _ _) _ _ _ _)
    refine memOk_of_mem (wf_writeLE (ite_memOk (memOk_acceptBytes bound _ b) (memOk_hostStore bound _ b)) _ _ _) (State.tlbDropIn_mem _ _ _)
theorem memOk_restorePages {s : State} (h : s.memOk) (n : ℕ) (es cs : List Byte) : (s.restorePages n es cs).memOk := by
  induction n generalizing s es cs with
  | zero => exact h
  | succ n ih => exact ih (memOk_restorePage h _ _ _) _ _
theorem memOk_restoreMemory {s : State} (h : s.memOk) (b : List Byte) : (s.restoreMemory b).memOk := ite_memOk (memOk_restorePages h _ _ _) h
theorem memOk_restoreBallast {s : State} (h : s.memOk) (b : List Byte) : (s.restoreBallast b).memOk := by
  refine foldl_memOk (fun u p ok => ?_) _ h
  have walked := memOk_translate ok none 0 p.1 false
  split
  · exact ite_memOk (memOk_acceptLine (fst_memOk walked ‹_›) _ _) (memOk_hostStore (fst_memOk walked ‹_›) _ _)
  · exact fst_memOk walked ‹_›
@[simp] theorem State.rearm_mem (s : State) (r : TeamRef) (ti : TeamImage) (es : List (List (List ℕ))) : (s.rearm r ti es).mem = s.mem := by
  unfold State.rearm
  split
  · rfl
  · exact State.putTeam_mem _ _ _
@[simp] theorem State.restoreCrew_mem (s : State) (es : List (List (List ℕ))) (x : CrewImage) : (s.restoreCrew es x).mem = s.mem := by
  unfold State.restoreCrew
  dsimp only
  split <;> simp
theorem memOk_restoreAllFrom {s : State} (h : s.memOk) (b : List Byte) : (s.restoreAllFrom b).memOk :=
  memOk_of_mem (memOk_restoreBallast (memOk_restoreMemory h b) b) (by simp [State.restoreAllFrom])
@[simp] theorem State.slotTick_mem (s : State) (core n : ℕ) : (s.slotTick core n).mem = s.mem := by
  unfold State.slotTick
  split
  · rfl
  · simp
theorem memOk_nextSlot {s : State} (h : s.memOk) (core : ℕ) (st : Stream) : (s.nextSlot core st).memOk :=
  ite_memOk h (memOk_elapse (memOk_of_mem h (by simp)) _ _)

end Sys2Proof.Machine

namespace Sys2Proof.Machine

/-! ### Outcomes -/

/-- How the meaning of an instruction ends in `s`: it goes on in a next state, whose memory is canonical where that of `s` is, or no team acts, which is the model's one stop. -/
def State.goesOn (s : State) : Out → Prop
  | .next u => s.memOk → u.memOk
  | .fault .noTeam => ∀ r c t, ¬s.acts r c t
  | .refused _ => False

@[simp] theorem goesOn_next {s u : State} : s.goesOn (.next u) ↔ (s.memOk → u.memOk) := Iff.rfl
theorem goesOn_of_mem {s u : State} (same : u.mem = s.mem) : s.goesOn (.next u) := fun h => memOk_of_mem h same
theorem ite_mem {p : Prop} [Decidable p] {s a b : State} (yes : a.mem = s.mem) (no : b.mem = s.mem) : (if p then a else b).mem = s.mem := by
  split
  · exact yes
  · exact no
theorem goesOn_withTeam {s : State} {f : TeamRef → Crew → Team → State} (keeps : ∀ r c t, s.memOk → (f r c t).memOk) : s.goesOn (withTeam s f) := by
  unfold withTeam
  split
  · rename_i none_
    intro r c t acts
    rw [acts.1] at none_
    cases none_
  · rename_i r focus
    split
    · rename_i none_
      intro r' c t acts
      rw [acts.1] at focus
      cases focus
      rw [acts.2] at none_
      cases none_
    · exact keeps _ _ _
theorem goesOn_withTeam_mem {s : State} {f : TeamRef → Crew → Team → State} (keeps : ∀ r c t, (f r c t).mem = s.mem) : s.goesOn (withTeam s f) :=
  goesOn_withTeam (fun r c t h => memOk_of_mem h (keeps r c t))
theorem goesOn_onTeam (s : State) (f : Team → Team) : s.goesOn (onTeam s f) := goesOn_withTeam_mem (fun _ _ _ => State.putTeam_mem _ _ _)
theorem goesOn_scalarOp (s : State) (d : SReg) (n : ℕ) (f : Team → Word) : s.goesOn (scalarOp s d n f) := goesOn_onTeam _ _
theorem goesOn_alu (s : State) (d a b : SReg) (f : Word → Word → Word) : s.goesOn (alu s d a b f) := goesOn_scalarOp _ _ _ _
theorem goesOn_laneFrame {s : State} {h : LaneHead} {srcs : List Src} {regs : List ℕ} {eff : TeamRef → Crew → Team → Clause → Mask → State}
    (keeps : ∀ r c t cl x, s.memOk → (eff r c t cl x).memOk) : s.goesOn (laneFrame s h srcs regs eff) := by
  refine goesOn_withTeam (fun r c t ok => ?_)
  split
  · exact ok
  · dsimp only
    refine ite_memOk ok (ite_memOk ?_ (ite_memOk ?_ (ite_memOk ?_ (ite_memOk ?_ (keeps _ _ _ _ _ ok)))))
    · (repeat' split) <;> exact memOk_of_mem ok (State.putTeam_mem _ _ _)
    · exact memOk_of_mem ok (State.laneFaultAt_mem _ _ _ _ _ _ _)
    · exact memOk_of_mem ok (State.putTeam_mem _ _ _)
    · exact memOk_of_mem ok (State.laneFaultAt_mem _ _ _ _ _ _ _)
theorem goesOn_laneFrame_mem {s : State} {h : LaneHead} {srcs : List Src} {regs : List ℕ} {eff : TeamRef → Crew → Team → Clause → Mask → State}
    (keeps : ∀ r c t cl x, (eff r c t cl x).mem = s.mem) : s.goesOn (laneFrame s h srcs regs eff) := goesOn_laneFrame (fun r c t cl x ok => memOk_of_mem ok (keeps r c t cl x))
theorem goesOn_laneCompute {s : State} {h : LaneHead} {srcs : List Src} {regs : List ℕ} {reads : Team → Mask → ℕ → ℕ → List ℕ} {eff : TeamRef → Crew → Team → Clause → Mask → State}
    (keeps : ∀ r c t cl x, (eff r c t cl x).mem = s.mem) : s.goesOn (laneCompute s h srcs regs reads eff) := by
  refine goesOn_laneFrame_mem (fun r c t cl x => ?_)
  dsimp only
  split
  · exact keeps _ _ _ _ _
  · rw [State.notePool_mem, State.modTeam_mem, keeps]
theorem goesOn_laneA (s : State) (h : LaneHead) (m : ModA) (n : ℕ) (f : ℕ → ℕ → ℕ → ℕ) : s.goesOn (laneA s h m n f) := goesOn_laneCompute (fun _ _ _ _ _ => State.putTeam_mem _ _ _)
theorem goesOn_laneC (s : State) (h : LaneHead) (m : ModC) (n : ℕ) (f : Word → (ℕ → Word) → (ℕ → RMode) → Word) : s.goesOn (laneC s h m n f) :=
  goesOn_laneCompute (fun _ _ _ _ _ => State.putTeam_mem _ _ _)
theorem goesOn_laneCmp (s : State) (h : LaneHead) (m : ModA) (g : ℕ → ℕ → Bool) : s.goesOn (laneCmp s h m g) := goesOn_laneCompute (fun _ _ _ _ _ => State.putTeam_mem _ _ _)
theorem goesOn_laneShfl (s : State) (h : LaneHead) (m : ModA) (n : ℕ) : s.goesOn (laneShfl s h m n) := by
  unfold laneShfl
  exact goesOn_laneCompute (fun r c t cl x => State.putTeam_mem _ _ _)
theorem goesOn_laneRange (s : State) (h : LaneHead) (m : ModX) (n : ℕ) (g : List ℕ → List ℕ) : s.goesOn (laneRange s h m n g) := by
  unfold laneRange
  exact goesOn_laneCompute (fun r c t cl x => State.putTeam_mem _ _ _)
theorem goesOn_laneGen (s : State) (h : LaneHead) (x : BitVec 5) (f : ℕ → ℕ → ℕ) : s.goesOn (laneGen s h x f) := by
  unfold laneGen
  exact goesOn_laneFrame_mem (fun r c t cl x => State.putTeam_mem _ _ _)

/-- Planning the accesses of the lanes keeps the canonical form where the plan of each lane does. -/
theorem memOk_planLanes {f : State → ℕ → State × LaneAcc} (keeps : ∀ s l, s.memOk → (f s l).1.memOk) (ls : List ℕ) (p : LanePlan) (h : p.s.memOk) : (planLanes f ls p).s.memOk := by
  induction ls generalizing p with
  | nil => exact h
  | cons l ls ih =>
    rw [planLanes]
    have planned := keeps p.s l h
    split
    · exact ih _ (fst_memOk planned ‹_›)
    · exact ih _ (fst_memOk planned ‹_›)
theorem goesOn_laneAccess {s : State} {h : LaneHead} {m : ModM} {srcs : List Src} {regs : List ℕ} {whole : Crew → Option ℕ} {store perLane : Bool}
    {f : TeamRef → Crew → Team → Mask → State → ℕ → State × LaneAcc} {fin : Team → Mask → List ℕ → Team} (keeps : ∀ r c t x u l, u.memOk → (f r c t x u l).1.memOk) :
    s.goesOn (laneAccess s h m srcs regs whole store perLane f fin) := by
  refine goesOn_laneFrame (fun r c t cl x ok => ?_)
  dsimp only
  split
  · exact memOk_of_mem ok (State.laneFaultAt_mem _ _ _ _ _ _ _)
  · refine ite_memOk ok ?_
    have planned := memOk_planLanes (f := fun s l => if t.laneErrAt srcs l && !laneBeyond c h m l then (s, .error (stUncorrectable, none)) else f r c t ((match t.restart with | none => x | some q => q.x.getD x)) s l)
      (fun u l good => by split; exacts [good, keeps _ _ _ _ _ _ good]) (maskLanes x t.lanes) ⟨s, [], []⟩ ok
    exact ite_memOk (memOk_of_mem planned (State.putTeam_mem _ _ _)) (memOk_of_mem planned ((State.lanesFault_mem _ _ _ _ _).trans (State.putTeam_mem _ _ _)))
theorem goesOn_laneWaiting {s : State} {i : Instr} {h : LaneHead} {m : ModM} {srcs : List Src} {regs : List ℕ} {store : Bool} {whole : State → Crew → Team → Mask → Option ℕ}
    {ready : State → TeamRef → Crew → Team → Mask → Bool} {want : TeamRef → Crew → ℕ → Word → Except ℕ (Option TagWant)} {group : State → Crew → Word → List Src} :
    s.goesOn (laneWaiting s i h m srcs regs store whole ready want group) := by
  refine goesOn_laneFrame_mem (fun r c t cl x => ?_)
  dsimp only
  split
  · exact State.laneFaultAt_mem _ _ _ _ _ _ _
  split
  · rfl
  · have waited := (waitLanes_mem r m.e · (maskLanes x t.lanes) { s.putTeam r { t with taken := t.popped, restart := none, lfm := if t.restart.isSome then 0#1024 else t.lfm, obufNext := t.memKeep h m } with nextWait := s.nextWait + t.bands } [])
    refine ite_mem ((State.modTeam_mem _ _ _).trans ((waited _).trans (State.putTeam_mem _ _ _))) ((State.lanesFault_mem _ _ _ _ _).trans ((waited _).trans (State.putTeam_mem _ _ _)))
theorem goesOn_enterLanes (s : State) (i : Instr) (h : LaneHead) (srcs : List Src) (regs : List ℕ) (reads : Option ℕ) (val : Team → ℕ → Word) :
    s.goesOn (enterLanes s i h srcs regs reads val) := by
  refine goesOn_laneFrame_mem (fun r c t cl x => ?_)
  refine ite_mem rfl (ite_mem (ite_mem ?_ ?_) (ite_mem rfl (ite_mem ?_ ?_)))
  · exact State.putTeam_mem _ _ _
  · exact State.lanesFault_mem _ _ _ _ _
  · exact State.enterMatrix_mem _ _ _
  · exact (State.lanesFault_mem _ _ _ _ _).trans (State.modTeam_mem _ _ _)
theorem goesOn_enterMma (s : State) (i : Instr) (h : LaneHead) (m : ModMma) (pair : Bool) : s.goesOn (enterMma s i h m pair) := by
  refine goesOn_laneFrame_mem (fun r c t cl x => ?_)
  refine ite_mem rfl ?_
  split
  · exact State.laneFaultAt_mem _ _ _ _ _ _ _
  · exact ite_mem (State.laneFaultAt_mem _ _ _ _ _ _ _) (State.enterMatrix_mem _ _ _)
theorem goesOn_gateOp {s : State} {h : Handle} {a : SReg} {rel : Bool} {f : TeamRef → Team → Tile → Coord → Except Stop State} {fin : Word → Tile → Coord → TeamRef → State → State}
    (keeps : ∀ {r t tl x u}, f r t tl x = .ok u → u.mem = s.mem) (ends : ∀ w tl x r u, (fin w tl x r u).mem = u.mem) : s.goesOn (gateOp s h a rel f fin) := by
  refine goesOn_withTeam_mem (fun r c t => ?_)
  split
  · simp
  split
  · rfl
  split
  · simp
  split
  · rfl
  · rw [ends, keeps ‹_›]
theorem goesOn_issueCommand (xred : Bool) (d a : SReg) (s : State) : s.goesOn (issueCommand xred d a s) := by
  refine goesOn_withTeam_mem (fun r c t => ?_)
  dsimp only
  split
  · rfl
  · exact State.putTeam_mem _ _ _
theorem goesOn_fence (acq : Bool) (sc : Scope) (cond : Team → Bool) (s : State) : s.goesOn (fence acq sc cond s) := by
  refine goesOn_withTeam_mem (fun r c t => ?_)
  dsimp only
  (repeat' split) <;> simp
theorem goesOn_strm (kind : ℕ) (q : BitVec 3) (a b : SReg) (s : State) : s.goesOn (strm kind q a b s) := by
  refine goesOn_withTeam_mem (fun r c t => ?_)
  dsimp only
  (repeat' split) <;> simp
theorem goesOn_depthOp (s : State) (get : Team → BitVec 4) (put : Team → BitVec 4 → Team) (up : Bool) : s.goesOn (depthOp s get put up) := by
  refine goesOn_withTeam_mem (fun r c t => ?_)
  dsimp only
  split <;> split <;> simp
theorem goesOn_mailbox {s : State} {op : ℕ} {p : List Byte} {n : ℕ} {f : State → State} (keeps : s.memOk → (f s).memOk) : s.goesOn (mailbox s op p n f) :=
  fun h => ite_memOk h (ite_memOk (memOk_of_mem h (State.answer_mem _ _ _)) (keeps h))
theorem goesOn_mailbox_mem {s : State} {op : ℕ} {p : List Byte} {n : ℕ} {f : State → State} (keeps : (f s).mem = s.mem) : s.goesOn (mailbox s op p n f) :=
  goesOn_mailbox (fun h => memOk_of_mem h keeps)
theorem goesOn_secondaryMailbox {op : ℕ} {s : State} {f : State → State} (keeps : (f s).mem = s.mem) : s.goesOn (secondaryMailbox op s f) :=
  fun h => ite_memOk (memOk_of_mem h keeps) h
theorem goesOn_spdmAnswer (msg : List Byte) (s : State) : s.goesOn (spdmAnswer msg s) := goesOn_secondaryMailbox rfl
theorem goesOn_checkedIn {f : Flit} {s : State} {g : State → State} (keeps : (g s).mem = s.mem) : s.goesOn (checkedIn f s g) := by
  refine goesOn_of_mem ?_
  (repeat' split) <;> simp [keeps]
theorem goesOn_linkIn {f : Flit} {s : State} {g : State → State} (keeps : ∀ u, (g u).mem = u.mem) : s.goesOn (linkIn f s g) := goesOn_checkedIn (State.inOrder_mem _ _ _ keeps)

end Sys2Proof.Machine

namespace Sys2Proof.Machine

/-! ### Meanings that leave memory as it is -/

theorem goesOn_execIshl (h : LaneHead) (m : ModA) (s : State) : s.goesOn (execIshl h m s) := by
  unfold execIshl
  refine goesOn_laneCompute (fun r c t cl x => ?_)
  simp
theorem goesOn_execIdot4 (h : LaneHead) (m : ModA) (s : State) : s.goesOn (execIdot4 h m s) := by
  unfold execIdot4
  refine goesOn_laneCompute (fun r c t cl x => ?_)
  simp
theorem goesOn_execLnop (s : State) : s.goesOn (execLnop s) := by
  unfold execLnop
  refine goesOn_withTeam_mem (fun r c t => ?_)
  (repeat' split) <;> simp
theorem goesOn_execCvt (h : LaneHead) (x : ModC) (s : State) : s.goesOn (execCvt h x s) := by
  unfold execCvt
  refine goesOn_laneCompute (fun r c t cl x => ?_)
  simp
theorem goesOn_execPack (h : LaneHead) (x : ModC) (s : State) : s.goesOn (execPack h x s) := by
  unfold execPack
  refine goesOn_laneCompute (fun r c t cl x => ?_)
  simp
theorem goesOn_execUnpk (h : LaneHead) (x : ModC) (s : State) : s.goesOn (execUnpk h x s) := by
  unfold execUnpk
  refine goesOn_laneCompute (fun r c t cl x => ?_)
  simp
theorem goesOn_execQbp (h : LaneHead) (x : ModP) (s : State) : s.goesOn (execQbp h x s) := by
  unfold execQbp
  refine goesOn_laneCompute (fun r c t cl x => ?_)
  simp
theorem goesOn_execDqbp (h : LaneHead) (x : ModP) (s : State) : s.goesOn (execDqbp h x s) := by
  unfold execDqbp
  refine goesOn_laneCompute (fun r c t cl x => ?_)
  simp
theorem goesOn_execHad32 (h : LaneHead) (m : ModA) (s : State) : s.goesOn (execHad32 h m s) := by
  unfold execHad32
  refine goesOn_laneCompute (fun r c t cl x => ?_)
  simp
theorem goesOn_execClauseStart (r : TeamRef) (s : State) : s.goesOn (execClauseStart r s) := by
  unfold execClauseStart
  refine goesOn_of_mem ?_
  (repeat' split) <;> simp
theorem goesOn_execClauseRetire (r : TeamRef) (s : State) : s.goesOn (execClauseRetire r s) := by
  unfold execClauseRetire
  refine goesOn_of_mem ?_
  (repeat' split) <;> simp
theorem goesOn_execQld (x : BitVec 3) (a : SReg) (s : State) : s.goesOn (execQld x a s) := by
  unfold execQld
  refine goesOn_withTeam_mem (fun r c t => ?_)
  (repeat' split) <;> simp
theorem goesOn_execQclose (x : BitVec 3) (s : State) : s.goesOn (execQclose x s) := by
  unfold execQclose
  refine goesOn_withTeam_mem (fun r c t => ?_)
  (repeat' split) <;> simp
theorem goesOn_execTalloc (a a2 a3 : SReg) (h : Handle) (s : State) : s.goesOn (execTalloc a a2 a3 h s) := by
  unfold execTalloc
  refine goesOn_withTeam_mem (fun r c t => ?_)
  dsimp only
  (repeat' split) <;> simp
theorem goesOn_execTfree (h : Handle) (s : State) : s.goesOn (execTfree h s) := by
  unfold execTfree
  refine goesOn_withTeam_mem (fun r c t => ?_)
  (repeat' split) <;> simp
theorem goesOn_execTdesc (a : SReg) (h : Handle) (s : State) : s.goesOn (execTdesc a h s) := by
  unfold execTdesc
  refine goesOn_withTeam_mem (fun r c t => ?_)
  simp
theorem goesOn_execLayout (a : SReg) (h : Handle) (x : BitVec 4) (s : State) : s.goesOn (execLayout a h x s) := by
  unfold execLayout
  refine goesOn_withTeam_mem (fun r c t => ?_)
  (repeat' split) <;> simp
theorem goesOn_execLwait (h : Handle) (s : State) : s.goesOn (execLwait h s) := by
  unfold execLwait
  refine goesOn_withTeam_mem (fun r c t => ?_)
  (repeat' split) <;> simp
theorem goesOn_execLayoutBlockConvert (n : ℕ) (h : Handle) (s : State) : s.goesOn (execLayoutBlockConvert n h s) := by
  unfold execLayoutBlockConvert
  refine goesOn_of_mem ?_
  (repeat' split) <;> simp
theorem goesOn_execXwin (x : BitVec 4) (a : SReg) (s : State) : s.goesOn (execXwin x a s) := by
  unfold execXwin
  refine goesOn_withTeam_mem (fun r c t => ?_)
  simp
theorem goesOn_execPbarPdomain (s : State) : s.goesOn (execPbarPdomain s) := by
  unfold execPbarPdomain
  refine goesOn_withTeam_mem (fun r c t => ?_)
  (repeat' split) <;> simp
theorem goesOn_execPbarPspan (s : State) : s.goesOn (execPbarPspan s) := by
  unfold execPbarPspan
  refine goesOn_withTeam_mem (fun r c t => ?_)
  (repeat' split) <;> simp
theorem goesOn_execStepmark (a : SReg) (s : State) : s.goesOn (execStepmark a s) := by
  unfold execStepmark
  refine goesOn_withTeam_mem (fun r c t => ?_)
  dsimp only
  (repeat' split) <;> simp
theorem goesOn_execRshrink (a : SReg) (s : State) : s.goesOn (execRshrink a s) := by
  unfold execRshrink
  refine goesOn_withTeam_mem (fun r c t => ?_)
  dsimp only
  (repeat' split) <;> simp
theorem goesOn_execYield (s : State) : s.goesOn (execYield s) := by
  unfold execYield
  refine goesOn_withTeam_mem (fun r c t => ?_)
  simp
theorem goesOn_execCapq (a : SReg) (s : State) : s.goesOn (execCapq a s) := by
  unfold execCapq
  refine goesOn_withTeam_mem (fun r c t => ?_)
  simp
theorem goesOn_execLocq (a a2 : SReg) (s : State) : s.goesOn (execLocq a a2 s) := by
  unfold execLocq
  refine goesOn_withTeam_mem (fun r c t => ?_)
  simp
theorem goesOn_execSysr (a : SReg) (x : BitVec 12) (s : State) : s.goesOn (execSysr a x s) := by
  unfold execSysr
  refine goesOn_withTeam_mem (fun r c t => ?_)
  (repeat' split) <;> simp
theorem goesOn_execSysw (a : SReg) (x : BitVec 12) (s : State) : s.goesOn (execSysw a x s) := by
  unfold execSysw
  refine goesOn_withTeam_mem (fun r c t => ?_)
  dsimp only
  (repeat' split) <;> simp
theorem goesOn_execClk (a : SReg) (s : State) : s.goesOn (execClk a s) := by
  unfold execClk
  refine goesOn_withTeam_mem (fun r c t => ?_)
  simp
theorem goesOn_execTrap (x : BitVec 12) (s : State) : s.goesOn (execTrap x s) := by
  unfold execTrap
  refine goesOn_withTeam_mem (fun r c t => ?_)
  simp
theorem goesOn_execEret (s : State) : s.goesOn (execEret s) := by
  unfold execEret
  refine goesOn_withTeam_mem (fun r c t => ?_)
  (repeat' split) <;> simp
theorem goesOn_execMzero (h : LaneHead) (x : BitVec 2) (s : State) : s.goesOn (execMzero h x s) := by
  unfold execMzero
  refine goesOn_laneFrame_mem (fun r c t cl x => ?_)
  (repeat' split) <;> simp
theorem goesOn_execAccumulatorSwap (n : ℕ) (x : BitVec 2) (s : State) : s.goesOn (execAccumulatorSwap n x s) := by
  unfold execAccumulatorSwap
  refine goesOn_of_mem ?_
  (repeat' split) <;> simp
theorem goesOn_execMmaComplete (n : ℕ) (s : State) : s.goesOn (execMmaComplete n s) := by
  unfold execMmaComplete
  refine goesOn_of_mem ?_
  (repeat' split) <;> simp
theorem goesOn_execPairOffer (n : ℕ) (s : State) : s.goesOn (execPairOffer n s) := by
  unfold execPairOffer
  refine goesOn_of_mem ?_
  (repeat' split) <;> simp
theorem goesOn_execPairStart (n n2 : ℕ) (s : State) : s.goesOn (execPairStart n n2 s) := by
  unfold execPairStart
  refine goesOn_of_mem ?_
  (repeat' split) <;> simp
theorem goesOn_execPairStartCycle (n : ℕ) (s : State) : s.goesOn (execPairStartCycle n s) := by
  unfold execPairStartCycle
  refine goesOn_of_mem ?_
  (repeat' split) <;> simp
theorem goesOn_execPairOfferWithdraw (n : ℕ) (s : State) : s.goesOn (execPairOfferWithdraw n s) := by
  unfold execPairOfferWithdraw
  refine goesOn_of_mem ?_
  (repeat' split) <;> simp
theorem goesOn_execPriorityAging (n n2 : ℕ) (s : State) : s.goesOn (execPriorityAging n n2 s) := by
  unfold execPriorityAging
  refine goesOn_of_mem ?_
  dsimp only
  (repeat' split) <;> simp
theorem goesOn_execLeaseDue (u : DevUnit) (s : State) : s.goesOn (execLeaseDue u s) := by
  unfold execLeaseDue
  refine goesOn_of_mem ?_
  dsimp only
  (repeat' split) <;> simp
theorem goesOn_execNopreBudgetSpent (r : TeamRef) (s : State) : s.goesOn (execNopreBudgetSpent r s) := by
  unfold execNopreBudgetSpent
  refine goesOn_of_mem ?_
  (repeat' split) <;> simp
theorem goesOn_execChannelLineMove (n n2 n3 : ℕ) (s : State) : s.goesOn (execChannelLineMove n n2 n3 s) := by
  unfold execChannelLineMove
  refine goesOn_of_mem ?_
  dsimp only
  (repeat' split) <;> simp
theorem goesOn_execLeaseTestStart (u : DevUnit) (s : State) : s.goesOn (execLeaseTestStart u s) := by
  unfold execLeaseTestStart
  refine goesOn_of_mem ?_
  dsimp only
  (repeat' split) <;> simp
theorem goesOn_execShadowLatchReplay (n : ℕ) (s : State) : s.goesOn (execShadowLatchReplay n s) := by
  unfold execShadowLatchReplay
  refine goesOn_of_mem ?_
  (repeat' split) <;> simp
theorem goesOn_execScoreDecay (s : State) : s.goesOn (execScoreDecay s) := by
  unfold execScoreDecay
  refine goesOn_of_mem ?_
  simp
theorem goesOn_execPatrolScrub (u : DevUnit) (x : Option ScoreEvent) (n : ℕ) (s : State) : s.goesOn (execPatrolScrub u x n s) := by
  unfold execPatrolScrub
  refine goesOn_of_mem ?_
  (repeat' split) <;> simp
theorem goesOn_execTestVerdict (u : DevUnit) (x : List RunFound) (x2 x3 : List (BitVec 64)) (s : State) : s.goesOn (execTestVerdict u x x2 x3 s) := by
  unfold execTestVerdict
  refine goesOn_of_mem ?_
  dsimp only
  (repeat' split) <;> simp
theorem goesOn_execHostCxlMemRead (n n2 : ℕ) (s : State) : s.goesOn (execHostCxlMemRead n n2 s) := by
  unfold execHostCxlMemRead
  refine goesOn_of_mem ?_
  dsimp only
  (repeat' split) <;> simp
theorem goesOn_execLaunchQueueProdWrite (n : ℕ) (x : BitVec 16) (s : State) : s.goesOn (execLaunchQueueProdWrite n x s) := by
  unfold execLaunchQueueProdWrite
  refine goesOn_of_mem ?_
  simp
theorem goesOn_execPoolProdWrite (n : ℕ) (x : BitVec 16) (s : State) : s.goesOn (execPoolProdWrite n x s) := by
  unfold execPoolProdWrite
  refine goesOn_of_mem ?_
  simp
theorem goesOn_execEventRingConsWrite (x : BitVec 16) (s : State) : s.goesOn (execEventRingConsWrite x s) := by
  unfold execEventRingConsWrite
  refine goesOn_of_mem ?_
  simp
theorem goesOn_execFunctionReset (s : State) : s.goesOn (execFunctionReset s) := by
  unfold execFunctionReset
  refine goesOn_of_mem ?_
  simp
theorem goesOn_execEventWrite (s : State) : s.goesOn (execEventWrite s) := by
  unfold execEventWrite
  refine goesOn_of_mem ?_
  dsimp only
  (repeat' split) <;> simp
theorem goesOn_execMailboxUnsupportedOpcode (x : BitVec 16) (s : State) : s.goesOn (execMailboxUnsupportedOpcode x s) := by
  unfold execMailboxUnsupportedOpcode
  refine goesOn_mailbox_mem ?_
  (repeat' split) <;> simp
theorem goesOn_execQueueConfig (p : List Byte) (s : State) : s.goesOn (execQueueConfig p s) := by
  unfold execQueueConfig
  refine goesOn_mailbox_mem ?_
  dsimp only
  (repeat' split) <;> simp
theorem goesOn_execRangeReserve (p : List Byte) (s : State) : s.goesOn (execRangeReserve p s) := by
  unfold execRangeReserve
  refine goesOn_mailbox_mem ?_
  dsimp only
  (repeat' split) <;> simp
theorem goesOn_execRangeRelease (p : List Byte) (s : State) : s.goesOn (execRangeRelease p s) := by
  unfold execRangeRelease
  refine goesOn_mailbox_mem ?_
  dsimp only
  (repeat' split) <;> simp
theorem goesOn_execPoolConfig (p : List Byte) (s : State) : s.goesOn (execPoolConfig p s) := by
  unfold execPoolConfig
  refine goesOn_mailbox_mem ?_
  dsimp only
  (repeat' split) <;> simp
theorem goesOn_execEventConfig (p : List Byte) (s : State) : s.goesOn (execEventConfig p s) := by
  unfold execEventConfig
  refine goesOn_mailbox_mem ?_
  dsimp only
  (repeat' split) <;> simp
theorem goesOn_execPortStatus (p : List Byte) (s : State) : s.goesOn (execPortStatus p s) := by
  unfold execPortStatus
  refine goesOn_mailbox_mem ?_
  (repeat' split) <;> simp
theorem goesOn_execSpanJoin (p : List Byte) (s : State) : s.goesOn (execSpanJoin p s) := by
  unfold execSpanJoin
  refine goesOn_mailbox_mem ?_
  dsimp only
  (repeat' split) <;> simp
theorem goesOn_execSpanLeave (p : List Byte) (s : State) : s.goesOn (execSpanLeave p s) := by
  unfold execSpanLeave
  refine goesOn_mailbox_mem ?_
  (repeat' split) <;> simp
theorem goesOn_execCrewResume (p : List Byte) (s : State) : s.goesOn (execCrewResume p s) := by
  unfold execCrewResume
  refine goesOn_mailbox_mem ?_
  (repeat' split) <;> simp
theorem goesOn_execWlRelease (p : List Byte) (s : State) : s.goesOn (execWlRelease p s) := by
  unfold execWlRelease
  refine goesOn_mailbox_mem ?_
  (repeat' split) <;> simp
theorem goesOn_execUnitStatus (p : List Byte) (s : State) : s.goesOn (execUnitStatus p s) := by
  unfold execUnitStatus
  refine goesOn_mailbox_mem ?_
  dsimp only
  (repeat' split) <;> simp
theorem goesOn_execRecordRead (p : List Byte) (s : State) : s.goesOn (execRecordRead p s) := by
  unfold execRecordRead
  refine goesOn_mailbox_mem ?_
  dsimp only
  (repeat' split) <;> simp
theorem goesOn_execCapWrite (x : BitVec 32) (b : Bool) (s : State) : s.goesOn (execCapWrite x b s) := by
  unfold execCapWrite
  refine goesOn_of_mem ?_
  (repeat' split) <;> simp
theorem goesOn_execAlarmClear (x : BitVec 32) (s : State) : s.goesOn (execAlarmClear x s) := by
  unfold execAlarmClear
  refine goesOn_of_mem ?_
  (repeat' split) <;> simp
theorem goesOn_execPerfCounterClear (n : ℕ) (s : State) : s.goesOn (execPerfCounterClear n s) := by
  unfold execPerfCounterClear
  refine goesOn_of_mem ?_
  (repeat' split) <;> simp
theorem goesOn_execRegisterWrite (n : ℕ) (x : BitVec 32) (s : State) : s.goesOn (execRegisterWrite n x s) := by
  unfold execRegisterWrite
  refine goesOn_of_mem ?_
  simp
theorem goesOn_execI3cSetdasa (x : BitVec 7) (s : State) : s.goesOn (execI3cSetdasa x s) := by
  unfold execI3cSetdasa
  refine goesOn_of_mem ?_
  (repeat' split) <;> simp
theorem goesOn_execVinLoss (s : State) : s.goesOn (execVinLoss s) := by
  unfold execVinLoss
  refine goesOn_of_mem ?_
  (repeat' split) <;> simp
theorem goesOn_execVauxRemoval (s : State) : s.goesOn (execVauxRemoval s) := by
  unfold execVauxRemoval
  refine goesOn_of_mem ?_
  simp
theorem goesOn_execVauxApply (s : State) : s.goesOn (execVauxApply s) := by
  unfold execVauxApply
  refine goesOn_of_mem ?_
  simp
theorem goesOn_execJunctionHot (x : BitVec 8) (s : State) : s.goesOn (execJunctionHot x s) := by
  unfold execJunctionHot
  refine goesOn_of_mem ?_
  (repeat' split) <;> simp
theorem goesOn_execMonitorAlarm (x : BitVec 8) (s : State) : s.goesOn (execMonitorAlarm x s) := by
  unfold execMonitorAlarm
  refine goesOn_of_mem ?_
  (repeat' split) <;> simp
theorem goesOn_execThermalTrip (s : State) : s.goesOn (execThermalTrip s) := by
  unfold execThermalTrip
  refine goesOn_of_mem ?_
  (repeat' split) <;> simp
theorem goesOn_execVoltageDroop (n : ℕ) (s : State) : s.goesOn (execVoltageDroop n s) := by
  unfold execVoltageDroop
  refine goesOn_of_mem ?_
  simp
theorem goesOn_execVinApply (s : State) : s.goesOn (execVinApply s) := by
  unfold execVinApply
  refine goesOn_of_mem ?_
  (repeat' split) <;> simp
theorem goesOn_execHoldupCharged (s : State) : s.goesOn (execHoldupCharged s) := by
  unfold execHoldupCharged
  refine goesOn_of_mem ?_
  (repeat' split) <;> simp
theorem goesOn_execBootRunning (s : State) : s.goesOn (execBootRunning s) := by
  unfold execBootRunning
  refine goesOn_of_mem ?_
  (repeat' split) <;> simp
theorem goesOn_execSpdmUnsupportedRequest (p : List Byte) (s : State) : s.goesOn (execSpdmUnsupportedRequest p s) := by
  unfold execSpdmUnsupportedRequest
  refine goesOn_secondaryMailbox ?_
  simp
theorem goesOn_execPortSignalDetect (n : ℕ) (s : State) : s.goesOn (execPortSignalDetect n s) := by
  unfold execPortSignalDetect
  refine goesOn_of_mem ?_
  (repeat' split) <;> simp
theorem goesOn_execPortLanesLocked (n : ℕ) (s : State) : s.goesOn (execPortLanesLocked n s) := by
  unfold execPortLanesLocked
  refine goesOn_of_mem ?_
  (repeat' split) <;> simp
theorem goesOn_execPortTrainTimeout (n : ℕ) (s : State) : s.goesOn (execPortTrainTimeout n s) := by
  unfold execPortTrainTimeout
  refine goesOn_of_mem ?_
  (repeat' split) <;> simp
theorem goesOn_execPortSignalLoss (n : ℕ) (s : State) : s.goesOn (execPortSignalLoss n s) := by
  unfold execPortSignalLoss
  refine goesOn_of_mem ?_
  (repeat' split) <;> simp
theorem goesOn_execAck (f : Flit) (s : State) : s.goesOn (execAck f s) := by
  unfold execAck
  refine goesOn_checkedIn ?_
  simp
theorem goesOn_execNak (f : Flit) (s : State) : s.goesOn (execNak f s) := by
  unfold execNak
  refine goesOn_of_mem ?_
  (repeat' split) <;> simp
theorem goesOn_execHello (f : Flit) (s : State) : s.goesOn (execHello f s) := by
  unfold execHello
  refine goesOn_of_mem ?_
  dsimp only
  (repeat' split) <;> simp
theorem goesOn_execFlitCrcError (f : Flit) (s : State) : s.goesOn (execFlitCrcError f s) := by
  unfold execFlitCrcError
  refine goesOn_checkedIn ?_
  simp
theorem goesOn_execFlitUnassigned (f : Flit) (s : State) : s.goesOn (execFlitUnassigned f s) := by
  unfold execFlitUnassigned
  refine goesOn_checkedIn ?_
  (repeat' split) <;> simp
theorem goesOn_execFlitWrite (f : Flit) (s : State) : s.goesOn (execFlitWrite f s) := by
  unfold execFlitWrite
  refine goesOn_linkIn (fun u => ?_)
  simp
theorem goesOn_execFlitReadRequest (f : Flit) (s : State) : s.goesOn (execFlitReadRequest f s) := by
  unfold execFlitReadRequest
  refine goesOn_linkIn (fun u => ?_)
  simp
theorem goesOn_execFlitReadResponse (f : Flit) (s : State) : s.goesOn (execFlitReadResponse f s) := by
  unfold execFlitReadResponse
  refine goesOn_linkIn (fun u => ?_)
  simp
theorem goesOn_execXredContribution (f : Flit) (s : State) : s.goesOn (execXredContribution f s) := by
  unfold execXredContribution
  refine goesOn_linkIn (fun u => ?_)
  (repeat' split) <;> simp
theorem goesOn_execXredResult (f : Flit) (s : State) : s.goesOn (execXredResult f s) := by
  unfold execXredResult
  refine goesOn_linkIn (fun u => ?_)
  (repeat' split) <;> simp
theorem goesOn_execRouteLost (n : ℕ) (s : State) : s.goesOn (execRouteLost n s) := by
  unfold execRouteLost
  refine goesOn_of_mem ?_
  (repeat' split) <;> simp
theorem goesOn_execMemberReachable (n : ℕ) (s : State) : s.goesOn (execMemberReachable n s) := by
  unfold execMemberReachable
  refine goesOn_of_mem ?_
  simp
theorem goesOn_execMemberLost (n : ℕ) (s : State) : s.goesOn (execMemberLost n s) := by
  unfold execMemberLost
  refine goesOn_of_mem ?_
  (repeat' split) <;> simp
theorem goesOn_execTetherReadRequest (n n2 n3 : ℕ) (x : BitVec 32) (x2 : Link) (s : State) : s.goesOn (execTetherReadRequest n n2 n3 x x2 s) := by
  unfold execTetherReadRequest
  refine goesOn_of_mem ?_
  (repeat' split) <;> simp
theorem goesOn_execTetherOwnershipRequest (n n2 n3 : ℕ) (x : BitVec 32) (x2 : Link) (s : State) : s.goesOn (execTetherOwnershipRequest n n2 n3 x x2 s) := by
  unfold execTetherOwnershipRequest
  refine goesOn_of_mem ?_
  (repeat' split) <;> simp
theorem goesOn_execTetherReplacement (n n2 : ℕ) (s : State) : s.goesOn (execTetherReplacement n n2 s) := by
  unfold execTetherReplacement
  refine goesOn_of_mem ?_
  dsimp only
  (repeat' split) <;> simp
theorem goesOn_execTetherSnoopTimeout (n : ℕ) (s : State) : s.goesOn (execTetherSnoopTimeout n s) := by
  unfold execTetherSnoopTimeout
  refine goesOn_of_mem ?_
  dsimp only
  (repeat' split) <;> simp
theorem goesOn_execRequestGuardExpiry (r : TeamRef) (s : State) : s.goesOn (execRequestGuardExpiry r s) := by
  unfold execRequestGuardExpiry
  refine goesOn_of_mem ?_
  simp
theorem goesOn_execHomeGuardExpiry (n : ℕ) (s : State) : s.goesOn (execHomeGuardExpiry n s) := by
  unfold execHomeGuardExpiry
  refine goesOn_of_mem ?_
  (repeat' split) <;> simp
theorem goesOn_execCometShard (f : Flit) (s : State) : s.goesOn (execCometShard f s) := by
  unfold execCometShard
  refine goesOn_linkIn (fun u => ?_)
  (repeat' split) <;> simp
theorem goesOn_execCometCaptureBegin (x : BitVec 32) (s : State) : s.goesOn (execCometCaptureBegin x s) := by
  unfold execCometCaptureBegin
  refine goesOn_of_mem ?_
  (repeat' split) <;> simp
theorem goesOn_execCometGranulePreserve (n : ℕ) (s : State) : s.goesOn (execCometGranulePreserve n s) := by
  unfold execCometGranulePreserve
  refine goesOn_of_mem ?_
  (repeat' split) <;> simp
theorem goesOn_execCometPreparedReport (n : ℕ) (x : BitVec 32) (s : State) : s.goesOn (execCometPreparedReport n x s) := by
  unfold execCometPreparedReport
  refine goesOn_of_mem ?_
  (repeat' split) <;> simp
theorem goesOn_execCometRecordDurable (s : State) : s.goesOn (execCometRecordDurable s) := by
  unfold execCometRecordDurable
  refine goesOn_of_mem ?_
  (repeat' split) <;> simp
theorem goesOn_execCometConfig (p : List Byte) (s : State) : s.goesOn (execCometConfig p s) := by
  unfold execCometConfig
  refine goesOn_mailbox_mem ?_
  dsimp only
  (repeat' split) <;> simp
theorem goesOn_execCometTrack (p : List Byte) (s : State) : s.goesOn (execCometTrack p s) := by
  unfold execCometTrack
  refine goesOn_mailbox_mem ?_
  (repeat' split) <;> simp
theorem goesOn_execStepQuery (p : List Byte) (s : State) : s.goesOn (execStepQuery p s) := by
  unfold execStepQuery
  refine goesOn_mailbox_mem ?_
  simp
theorem goesOn_execRed (h : LaneHead) (x : ModX) (s : State) : s.goesOn (execRed h x s) := by
  unfold execRed
  refine goesOn_laneCompute (fun r c t cl x => ?_)
  simp
theorem goesOn_execScan (h : LaneHead) (x : ModX) (s : State) : s.goesOn (execScan h x s) := by
  unfold execScan
  refine goesOn_laneCompute (fun r c t cl x => ?_)
  simp
theorem goesOn_execVote (h : LaneHead) (x : ModX) (s : State) : s.goesOn (execVote h x s) := by
  unfold execVote
  refine goesOn_laneFrame_mem (fun r c t cl x => ?_)
  simp
theorem goesOn_execQuiesceTimeout (s : State) : s.goesOn (execQuiesceTimeout s) := by
  unfold execQuiesceTimeout
  refine goesOn_of_mem ?_
  (repeat' split) <;> simp
theorem goesOn_execResume (p : List Byte) (s : State) : s.goesOn (execResume p s) := by
  unfold execResume
  refine goesOn_mailbox_mem ?_
  (repeat' split) <;> simp
theorem goesOn_execLidx (h : LaneHead) (m : ModA) (s : State) : s.goesOn (execLidx h m s) := by
  unfold execLidx
  exact goesOn_laneGen _ _ _ _
theorem goesOn_execSste (d a b : SReg) (z : ScalarSize) (h : Handle) (e : BitVec 5) (s : State) : s.goesOn (execSste d a b z h e s) := by
  refine goesOn_withTeam_mem (fun r c t => ite_mem rfl ?_)
  split
  · simp
  · refine ite_mem rfl ?_
    split
    · exact attemptSste_mem ‹_›
    · exact ite_mem rfl (State.waitOr_mem _ _ _ _ (fun u e => absurd e (Option.some_ne_none u).symm) (by simp))
theorem goesOn_execBwait (d a : SReg) (e : BitVec 5) (s : State) : s.goesOn (execBwait d a e s) :=
  goesOn_withTeam_mem (fun _ _ _ => State.waitOr_mem _ _ _ _ (fun _ e => attemptBwait_mem e) (by simp))
theorem goesOn_execTld (h : LaneHead) (m : ModM) (s : State) : s.goesOn (execTld h m s) := by
  unfold execTld
  exact goesOn_laneAccess (fun r c t x u l ok => ok)
theorem goesOn_execTst (h : LaneHead) (m : ModM) (s : State) : s.goesOn (execTst h m s) := by
  unfold execTst
  exact goesOn_laneAccess (fun r c t x u l ok => ok)
theorem goesOn_execTldt (h : LaneHead) (m : ModM) (s : State) : s.goesOn (execTldt h m s) := by
  unfold execTldt
  refine goesOn_laneAccess (fun r c t x u l ok => ?_)
  dsimp only
  split <;> exact ok
theorem goesOn_execRgrow (d a : SReg) (e : BitVec 5) (s : State) : s.goesOn (execRgrow d a e s) := by
  refine goesOn_withTeam_mem (fun r c t => ?_)
  exact ite_mem (by simp) (ite_mem (by simp) (ite_mem (by simp) (ite_mem rfl (State.waitOr_mem _ _ _ _ (fun _ e => attemptRgrow_mem e) (by simp)))))
theorem goesOn_execTclaim (d a : SReg) (s : State) : s.goesOn (execTclaim d a s) := by
  refine goesOn_withTeam_mem (fun r c t => ?_)
  exact ite_mem (by simp) (State.tetherAccess_mem _ _ _ _ (fun _ u e => absurd e (Option.some_ne_none u).symm) (by simp))
theorem goesOn_execCapacityNotify (crew : ℕ) (s : State) : s.goesOn (execCapacityNotify crew s) := by
  refine goesOn_of_mem ?_
  split
  · rfl
  · refine ite_mem rfl ?_
    dsimp only
    refine ite_mem (by simp) ?_
    split
    · simp
    · refine ite_mem (by simp) ?_
      split
      · rfl
      · rw [State.modCrew_mem, State.tileWrite_mem ‹_›]
theorem goesOn_execTetherGrant (n g : ℕ) (x : BitVec 32) (b b2 b3 : Bool) (x2 : BitVec 512) (x3 : Word) (x4 : Link) (s : State) : s.goesOn (execTetherGrant n g x b b2 b3 x2 x3 x4 s) := by
  refine goesOn_of_mem (State.inOrder_mem _ _ _ (fun u => ?_))
  refine ite_mem rfl ?_
  split <;> simp
theorem goesOn_execTetherSnoop (n n2 : ℕ) (b : Bool) (x : Link) (s : State) : s.goesOn (execTetherSnoop n n2 b x s) := by
  refine goesOn_of_mem (ite_mem rfl (ite_mem ?_ (State.inOrder_mem _ _ _ (fun u => by simp))))
  dsimp only
  split
  · rfl
  · exact ite_mem rfl (by simp)
theorem goesOn_execTetherWriteBack (n n2 n3 : ℕ) (x : Option (BitVec 512)) (x2 : Link) (s : State) : s.goesOn (execTetherWriteBack n n2 n3 x x2 s) :=
  goesOn_of_mem (State.inOrder_mem _ _ _ (fun _ => ite_mem (by simp) rfl))
theorem goesOn_execTetherRevoke (n n2 : ℕ) (x : Link) (s : State) : s.goesOn (execTetherRevoke n n2 x s) := by
  refine goesOn_of_mem (ite_mem ?_ (State.inOrder_mem _ _ _ (fun u => by simp)))
  split
  · rfl
  · exact ite_mem rfl (by simp)
theorem goesOn_execPfxc (h : LaneHead) (m : ModX) (s : State) : s.goesOn (execPfxc h m s) := by
  unfold execPfxc
  exact goesOn_laneFrame_mem (fun r c t cl x => State.putTeam_mem _ _ _)

end Sys2Proof.Machine

namespace Sys2Proof.Machine

/-! ### Meanings that write memory -/

theorem memOk_waitOr {s : State} (h : s.memOk) (r : TeamRef) (i : Instr) (e : BitVec 5) (want : Option TagWant) {att : Option State} {timeout : State}
    (made : ∀ u, att = some u → u.memOk) (late : timeout.memOk) : (s.waitOr r i e want att timeout).memOk := by
  unfold State.waitOr
  split
  · exact made _ rfl
  · exact ite_memOk late (memOk_of_mem h (by simp))
theorem goesOn_execSld (d a : SReg) (z : ScalarSize) (sp : ScalarSpace) (s : State) : s.goesOn (execSld d a z sp s) := by
  refine goesOn_withTeam (fun r c t h => ?_)
  refine ite_memOk h ?_
  split
  · have checked := memOk_globCheck h c.core (scalarAddr t a ‹_›) (sizeBytes z) false true
    refine ite_memOk (memOk_of_mem h (by simp)) (ite_memOk (memOk_of_mem h ?_) ?_)
    · refine State.tetherAccess_mem _ _ _ _ (fun x u e => ?_) (fun _ _ => rfl)
      obtain ⟨l, -, rfl⟩ := Option.map_eq_some_iff.mp e
      simp
    split
    · exact ite_memOk h (memOk_of_mem (fst_memOk checked ‹_›) (by simp))
    · have walked := fst_memOk checked ‹_›
      refine ite_memOk walked ?_
      split
      · exact walked
      · exact memOk_of_mem walked ((State.putTeam_mem _ _ _).trans (State.l1Load_mem ‹_›))
  · split
    · exact memOk_of_mem h (by simp)
    · exact memOk_of_mem h (ite_mem rfl (ite_mem (by simp) (by simp)))
theorem goesOn_execSst (d a : SReg) (z : ScalarSize) (sp : ScalarSpace) (s : State) : s.goesOn (execSst d a z sp s) := by
  refine goesOn_withTeam (fun r c t h => ?_)
  refine ite_memOk h ?_
  split
  · have checked := memOk_globCheck h c.core (scalarAddr t a ‹_›) (sizeBytes z) true false
    refine ite_memOk (memOk_of_mem h (by simp)) (ite_memOk (memOk_of_mem h ?_) ?_)
    · refine State.tetherAccess_mem _ _ _ _ (fun x u e => ?_) (fun _ _ => rfl)
      (repeat' split at e) <;> cases e
      simp
    split
    · exact ite_memOk h (memOk_of_mem (fst_memOk checked ‹_›) (by simp))
    · exact memOk_of_mem (fst_memOk checked ‹_›) (by simp)
  · split <;> exact memOk_of_mem h (by simp)
theorem goesOn_execSldf (d a b : SReg) (z : ScalarSize) (h : Handle) (e : BitVec 5) (consume : Bool) (s : State) : s.goesOn (execSldf d a b z h e consume s) := by
  refine goesOn_withTeam_mem (fun r c t => ite_mem rfl ?_)
  split
  · simp
  · exact ite_mem rfl (ite_mem rfl (State.waitOr_mem _ _ _ _ (fun _ e => attemptSldf_mem e) (by simp)))
theorem goesOn_execSatom (d a b : SReg) (z : ScalarSize) (op : AtomOp) (sp : AtomSpace) (s : State) : s.goesOn (execSatom d a b z op sp s) := by
  refine goesOn_withTeam (fun r c t h => ?_)
  refine ite_memOk h ?_
  split
  · have checked := memOk_globCheck h c.core (t.sreg a).toNat (sizeBytes z) true true
    refine ite_memOk (memOk_of_mem h (by simp)) (ite_memOk (memOk_of_mem h ?_) ?_)
    · exact State.tetherAccess_mem _ _ _ _ (fun _ u e => absurd e (Option.some_ne_none u).symm) (by simp)
    split
    · exact ite_memOk h (memOk_of_mem (fst_memOk checked ‹_›) (by simp))
    · have walked := fst_memOk checked ‹_›
      refine ite_memOk walked ?_
      split
      · exact walked
      · exact memOk_of_mem (memOk_globAtom walked ‹_›) (by simp)
  · split
    · exact memOk_of_mem h (by simp)
    · refine memOk_of_mem h (ite_mem (by simp) (ite_mem rfl (ite_mem (by simp) ?_)))
      dsimp only
      split
      · rfl
      · exact (State.modTeam_mem _ _ _).trans (State.tileUpdate_mem ‹_›)
theorem goesOn_execLq (off : BitVec 20) (s : State) : s.goesOn (execLq off s) := by
  refine goesOn_withTeam (fun r c t h => ite_memOk h ?_)
  have read := memOk_fetchWords h c.core (lqAddr (s.launchOf c) off) 3
  dsimp only
  split
  · exact memOk_of_mem (fst_memOk read ‹_›) (ite_mem (by simp) (by simp))
  · split <;> exact memOk_of_mem (fst_memOk read ‹_›) (by simp)
theorem goesOn_execClauseComplete (r : TeamRef) (n : ℕ) (s : State) : s.goesOn (execClauseComplete r n s) := by
  intro h
  split
  · exact h
  · exact ite_memOk (memOk_settle (memOk_of_mem h (by simp)) _) h
theorem goesOn_execStreamDeliver (r : TeamRef) (k : ℕ) (s : State) : s.goesOn (execStreamDeliver r k s) := by
  refine goesOn_of_mem ?_
  split
  · rfl
  · split
    · rfl
    · refine ite_mem rfl (ite_mem rfl (ite_mem ?_ ?_))
      · exact (State.sweepTiles_mem _ _).trans (State.putTeam_mem _ _ _)
      · exact State.putTeam_mem _ _ _
theorem goesOn_execUnassignedEncoding (st : Stream) (s : State) : s.goesOn (execUnassignedEncoding st s) := by
  refine goesOn_withTeam_mem (fun r c t => ?_)
  split <;> simp
theorem goesOn_execInstructionFetchFault (st : Stream) (why : FetchFault) (x : BitVec 64) (s : State) : s.goesOn (execInstructionFetchFault st why x s) := by
  refine goesOn_withTeam_mem (fun r c t => ?_)
  dsimp only
  split <;> simp
theorem goesOn_execGbind (d a : SReg) (g : BitVec 6) (s : State) : s.goesOn (execGbind d a g s) := by
  refine goesOn_withTeam (fun r c t h => ite_memOk (memOk_of_mem h (by simp)) ?_)
  have checked := memOk_globCheck h c.core (t.sreg a).toNat 64 false true
  split
  · have walked := fst_memOk checked ‹_›
    exact ite_memOk (memOk_of_mem walked (by simp)) (ite_memOk h (memOk_of_mem walked (by simp)))
  · have walked := fst_memOk checked ‹_›
    refine ite_memOk walked ?_
    split
    · exact walked
    · have loaded := memOk_of_mem walked (State.l1Load_mem ‹_›)
      exact memOk_of_mem loaded (ite_mem (by simp) (by simp))
theorem goesOn_execZfill (d a : SReg) (tgt : FillTarget) (s : State) : s.goesOn (execZfill d a tgt s) := by
  refine goesOn_withTeam (fun r c t h => ?_)
  dsimp only
  split
  · refine memOk_of_mem h ?_
    split
    · simp
    · refine ite_mem (by simp) (ite_mem rfl (ite_mem ?_ (by simp)))
      split
      · rfl
      · simp [State.preserveTile_mem ‹_›]
  · rename_i g
    refine ite_memOk (memOk_of_mem h (by simp)) ?_
    have filled := memOk_fillPieces h (coreDie c.core) (descScm (cellGet c.globals g.toNat)) ((descShape (cellGet c.globals g.toNat)).size / 2 ^ 16 + 2)
      (descBase (cellGet c.globals g.toNat)) (descBase (cellGet c.globals g.toNat) + (descShape (cellGet c.globals g.toNat)).size)
    split
    · exact memOk_of_mem (fst_memOk filled ‹_›) (by simp)
    · have pieces := fst_memOk filled ‹_›
      refine ite_memOk (memOk_of_mem pieces (by simp)) (ite_memOk pieces ?_)
      split
      · exact pieces
      · exact memOk_of_mem (foldl_memOk (fun s p ok => memOk_zeroPiece ok _ _ _) _ (memOk_of_mem pieces (State.preservePieces_mem ‹_›))) (State.tileStatus_mem _ _ _ _)
theorem goesOn_execGinit (a b : SReg) (h : Handle) (s : State) : s.goesOn (execGinit a b h s) := by
  refine goesOn_gateOp (fun e => ?_) (by simp)
  obtain ⟨u, made, rfl⟩ := Except.map_eq_ok e
  rw [State.gateWake_mem, State.gateApply_mem made]
theorem goesOn_execGarrive (d a : SReg) (h : Handle) (s : State) : s.goesOn (execGarrive d a h s) := goesOn_gateOp (fun e => State.gateStep_mem e) (by simp)
theorem goesOn_execGexpect (a b : SReg) (h : Handle) (s : State) : s.goesOn (execGexpect a b h s) := goesOn_gateOp (fun e => State.gateStep_mem e) (by simp)
theorem goesOn_execGwait (d a b : SReg) (h : Handle) (e : BitVec 5) (s : State) : s.goesOn (execGwait d a b h e s) := by
  refine goesOn_withTeam_mem (fun r c t => ?_)
  split
  · simp
  · refine ite_mem rfl ?_
    split
    · exact attemptGwait_mem ‹_›
    · exact ite_mem (by simp) (by simp)
theorem goesOn_execCommandSignal (id : ℕ) (s : State) : s.goesOn (execCommandSignal id s) := by
  intro h
  split
  · exact h
  · rename_i m0 _
    have formed : (if m0.isSpan && !m0.formed && s.cmdMayRead m0 then (s.formLocal m0).closeReduction m0.group m0.spanK else s).memOk :=
      ite_memOk (memOk_of_mem (memOk_formLocal h m0) (by simp)) h
    generalize (if m0.isSpan && !m0.formed && s.cmdMayRead m0 then (s.formLocal m0).closeReduction m0.group m0.spanK else s) = s0 at formed
    have moved : ((List.range (s0.cmdPositions m0)).foldl (fun s p => s.cmdMove id p) s0).memOk := foldl_memOk (fun _ _ ok => memOk_cmdMove ok _ _) _ formed
    dsimp only
    generalize (List.range (s0.cmdPositions m0)).foldl (fun s p => s.cmdMove id p) s0 = s1 at moved
    split
    · exact h
    · refine ite_memOk (ite_memOk formed h) ?_
      split
      · exact h
      · exact memOk_settle (memOk_of_mem (memOk_cmdSignal moved ‹_›) (by simp)) _
theorem goesOn_execMwait (d a : SReg) (e : BitVec 5) (s : State) : s.goesOn (execMwait d a e s) := by
  refine goesOn_withTeam (fun r c t h => ?_)
  have checked := memOk_globCheck h c.core (t.sreg a).toNat 8 false true
  split
  · have walked := fst_memOk checked ‹_›
    exact memOk_of_mem walked (ite_mem rfl (by simp))
  · have walked := fst_memOk checked ‹_›
    exact ite_memOk walked (memOk_waitOr walked _ _ _ _ (fun _ e => memOk_attemptMwait walked e) (memOk_of_mem walked (by simp)))
theorem goesOn_execGld (h : LaneHead) (m : ModM) (s : State) : s.goesOn (execGld h m s) := by
  unfold execGld
  exact goesOn_laneAccess (fun r c t x u l ok => memOk_globAcc ok _ _ _ _ _ _)
theorem goesOn_execGst (h : LaneHead) (m : ModM) (s : State) : s.goesOn (execGst h m s) := by
  unfold execGst
  exact goesOn_laneAccess (fun r c t x u l ok => memOk_globAcc ok _ _ _ _ _ _)
theorem goesOn_execAtom (h : LaneHead) (m : ModM) (s : State) : s.goesOn (execAtom h m s) := by
  unfold execAtom
  refine goesOn_laneAccess (fun r c t x u l ok => ?_)
  dsimp only
  split
  · exact memOk_globAcc ok _ _ _ _ _ _
  · exact ok
theorem goesOn_execCstore (h : LaneHead) (m : ModM) (s : State) : s.goesOn (execCstore h m s) := by
  unfold execCstore
  exact goesOn_laneAccess (fun r c t x u l ok => memOk_slotAcc _ _ _ _ _ _ ok _ _ _)
theorem goesOn_execXld (h : LaneHead) (m : ModM) (s : State) : s.goesOn (execXld h m s) := by
  unfold execXld
  exact goesOn_laneAccess (fun r c t x u l ok => memOk_slotAcc _ _ _ _ _ _ ok _ _ _)
theorem goesOn_execWlapp (h : LaneHead) (m : ModM) (s : State) : s.goesOn (execWlapp h m s) := by
  refine goesOn_laneFrame (fun r c t cl x ok => ite_memOk ok ?_)
  have appended := memOk_wlLanes r cl h c.core (t.laneErrAt [memS0 h m, memS1 h, memS2 h]) (t.src t.popped (memS0 h m)) (t.src t.popped (memS1 h)) (t.src t.popped (memS2 h))
    t.nextOrd t.lidx s.nextRun (maskLanes x t.lanes) (memOk_of_mem ok (State.putTeam_mem s r { t with nextOrd := t.nextOrd + 1 })) []
  exact ite_memOk (memOk_of_mem appended (by simp)) (memOk_of_mem appended (by simp))

end Sys2Proof.Machine

namespace Sys2Proof.Machine

theorem goesOn_execLongLatencyComplete (r : TeamRef) (k : ℕ) (s : State) : s.goesOn (execLongLatencyComplete r k s) := by
  intro h
  split
  · exact h
  · split
    · exact h
    · rename_i a _
      refine ite_memOk h (ite_memOk ?_ ?_)
      · split
        · exact h
        · exact memOk_accessFails h _ _ _
      · split
        · exact h
        · split
          · exact h
          · exact memOk_of_mem h (by simp [State.performLoad_mem ‹_›])
        · split
          · exact h
          · exact memOk_of_mem (memOk_performWrite h ‹_›) (by simp)
theorem goesOn_execStoreAck (r : TeamRef) (st : Stream) (k : ℕ) (s : State) : s.goesOn (execStoreAck r st k s) := by
  intro h
  split
  · exact h
  · split
    · exact h
    · rename_i a _
      refine ite_memOk h (ite_memOk ?_ ?_)
      · split
        · exact memOk_accessFails h _ _ _
        · exact h
      · split
        · split
          · exact h
          · exact memOk_completeCrew (memOk_of_mem h (by simp)) _
          · exact memOk_completeCrew (memOk_of_mem (memOk_performWrite h ‹_›) (by simp)) _
        · exact h
theorem goesOn_execWlinit (d a : SReg) (s : State) : s.goesOn (execWlinit d a s) := by
  refine goesOn_withTeam (fun r c t h => ?_)
  dsimp only
  refine ite_memOk (memOk_of_mem h (by simp)) (ite_memOk (memOk_of_mem h (by simp)) ?_)
  have lines := memOk_wlLines h c.core ((64 + 16 * (field (t.sregK a 1) 44 32).toNat) / 64 + 1) (t.sregK a 0).toNat (64 + 16 * (field (t.sregK a 1) 44 32).toNat)
  split
  · exact memOk_of_mem (fst_memOk lines ‹_›) (by simp)
  · have named := fst_memOk lines ‹_›
    refine ite_memOk named ?_
    split
    · exact named
    · exact memOk_of_mem named (by simp)
    · exact memOk_of_mem (memOk_wlFill named ‹_›) (by simp)
theorem goesOn_execWltake (d a : SReg) (e : BitVec 5) (s : State) : s.goesOn (execWltake d a e s) := by
  refine goesOn_withTeam (fun r c t h => ?_)
  have named := memOk_wlNamed h c.core (t.take a).set
  dsimp only
  split
  · exact memOk_of_mem (fst_memOk named ‹_›) (by simp)
  · exact memOk_of_mem (fst_memOk named ‹_›) (by simp)
  · have there := fst_memOk named ‹_›
    refine ite_memOk (memOk_of_mem there (by simp)) (ite_memOk (memOk_of_mem there (by simp)) (ite_memOk there (ite_memOk there (ite_memOk (memOk_of_mem there (by simp)) (ite_memOk there ?_)))))
    exact memOk_waitOr there _ _ _ _ (fun _ e => memOk_attemptWltake there e) (memOk_of_mem there (by simp))
theorem goesOn_execTdwait (d a : SReg) (e : BitVec 5) (s : State) : s.goesOn (execTdwait d a e s) := by
  refine goesOn_withTeam (fun r c t h => ?_)
  have named := memOk_wlNamed h c.core (t.sreg a).toNat
  dsimp only
  split
  · exact memOk_of_mem (fst_memOk named ‹_›) (by simp)
  · exact memOk_of_mem (fst_memOk named ‹_›) (by simp)
  · have there := fst_memOk named ‹_›
    refine ite_memOk there (ite_memOk there (ite_memOk (memOk_of_mem there (by simp)) (ite_memOk there ?_)))
    exact memOk_waitOr there _ _ _ _ (fun _ e => memOk_attemptTdwait there e) (memOk_of_mem there (by simp))
theorem goesOn_execWlRunRequest (k : ℕ) (s : State) : s.goesOn (execWlRunRequest k s) := by
  intro h
  split
  · exact h
  · rename_i it _
    refine ite_memOk h ?_
    split
    · exact h
    · rename_i x _
      refine ite_memOk ?_ ?_
      · have tested : (if (wlBlockOf x).ok then (s.putWlBlock (s.itemCore it) it.set (wlBlockOf x).test (s.itemStep it)).getD s else s).memOk := by
          refine ite_memOk ?_ h
          cases put : s.putWlBlock (s.itemCore it) it.set (wlBlockOf x).test (s.itemStep it) with
          | none => exact h
          | some u => exact memOk_putWlBlock h put
        exact foldl_memOk (fun _ _ ok => memOk_of_mem ok (by simp)) _ tested
      · split
        · exact h
        · dsimp only
          split
          · exact h
          · exact foldl_memOk (fun _ _ ok => memOk_of_mem ok (by simp)) _ (memOk_putWlEntry h ‹_›)
theorem goesOn_execWlappItemWrite (k : ℕ) (s : State) : s.goesOn (execWlappItemWrite k s) := by
  intro h
  split
  · exact h
  · rename_i it _
    split
    · exact h
    · dsimp only
      split
      · exact h
      · rename_i pos _ _ x _
        split
        · have walked := memOk_translate h none (coreDie (s.itemCore it)) ((wlBlockOf x).itemAt it.list pos) true
          split
          · rename_i there
            have good := fst_memOk walked there
            exact ite_memOk (memOk_of_mem good (State.appendFault_mem _ _ _ _ _)) (memOk_of_mem good rfl)
          · exact memOk_of_mem (fst_memOk walked ‹_›) (by simp)
          · exact memOk_of_mem (fst_memOk walked ‹_›) (by simp)
          · exact memOk_of_mem (fst_memOk walked ‹_›) (by simp)
        · refine ite_memOk h ?_
          split
          · exact h
          · split
            · exact h
            · exact memOk_of_mem (memOk_putWlBlock (memOk_pageWrite h ‹_›) ‹_›) (by simp)
theorem goesOn_execWlCountChange (k : ℕ) (s : State) : s.goesOn (execWlCountChange k s) := by
  intro h
  split
  · exact h
  · refine ite_memOk h ?_
    dsimp only
    split
    · exact h
    · split
      · exact h
      · rename_i put
        exact memOk_of_mem (memOk_putWlBlock h put) rfl
theorem goesOn_execExit (s : State) : s.goesOn (execExit s) :=
  goesOn_withTeam (fun _ _ _ h => ite_memOk h (memOk_settle (memOk_of_mem h (by simp)) _))
theorem goesOn_execMdrain (h : LaneHead) (m : ModDrain) (s : State) : s.goesOn (execMdrain h m s) := by
  unfold execMdrain
  refine goesOn_laneFrame (fun r c t cl x ok => ?_)
  dsimp only
  split
  · exact memOk_of_mem ok (by simp)
  · rename_i d _
    refine ite_memOk (memOk_of_mem ok (by simp)) ?_
    have drained (p : Prop) [Decidable p] (o : List ℕ) (cells : List (ℕ × ℕ)) : (if p then drainElems s c h m d o cells else (s, [])).1.memOk := by
      split
      · exact memOk_drainElems ok _ _ _ _ _ _
      · exact ok
    split
    · exact ite_memOk ok (memOk_of_mem (drained _ _ _) ((State.notePool_mem _ _ _ _).trans (State.modTeam_mem _ _ _)))
    · exact ite_memOk (drained _ _ _) (memOk_of_mem (drained _ _ _) (State.enterMatrix_mem _ _ _))
theorem goesOn_execMatrixCommandStart (core : ℕ) (s : State) : s.goesOn (execMatrixCommandStart core s) := by
  refine goesOn_of_mem (ite_mem rfl ?_)
  dsimp only
  split
  · rename_i m s1 found
    obtain ⟨m', -, started⟩ := List.exists_of_findSome?_eq_some found
    obtain ⟨u, start, same⟩ := Option.map_eq_some_iff.mp started
    cases same
    exact (State.modTeam_mem _ _ _).trans (State.startCmd_mem start)
  · rfl
theorem memOk_attempt_getD {s u : State} (h : s.memOk) (r : TeamRef) (c : Crew) (t : Team) (w : ScalarWait) (other : u.memOk) : ((s.attempt r c t w).getD u).memOk := by
  cases tried : s.attempt r c t w with
  | none => exact other
  | some x => exact memOk_attempt h tried
theorem goesOn_execTeamWake (r : TeamRef) (st : Stream) (lane : ℕ) (s : State) : s.goesOn (execTeamWake r st lane s) := by
  intro h
  split
  · exact h
  · rename_i c t _
    split
    · refine ite_memOk h ?_
      split
      · exact h
      · exact memOk_attempt_getD h _ _ _ _ h
    · refine ite_memOk h ?_
      split
      · exact h
      · rename_i w _
        cases tried : s.laneAttempt r t w with
        | none => exact h
        | some u => exact memOk_of_mem h (State.laneAttempt_mem tried)
theorem goesOn_execWaitTimeout (r : TeamRef) (st : Stream) (lane : ℕ) (s : State) : s.goesOn (execWaitTimeout r st lane s) := by
  intro h
  split
  · exact h
  · rename_i c t _
    split
    · refine ite_memOk h ?_
      split
      · exact h
      · exact ite_memOk (memOk_attempt_getD h _ _ _ _ (ite_memOk h (memOk_of_mem h (by simp)))) h
    · refine ite_memOk h ?_
      split
      · exact h
      · refine ite_memOk h ?_
        split <;> exact memOk_of_mem h (by simp)
theorem goesOn_execLaunch (d a : SReg) (s : State) : s.goesOn (execLaunch d a s) := by
  refine goesOn_withTeam (fun r c t h => ite_memOk h ?_)
  have read := memOk_readRecord h c.core (t.sreg a).toNat
  dsimp only
  split
  · exact memOk_of_mem (fst_memOk read ‹_›) (by simp)
  · rename_i s1 rec _
    have checked := memOk_checkRecord (fst_memOk read ‹_›) rec t.priv ((t.sreg a).toNat % 128 == 0)
    exact ite_memOk (memOk_of_mem checked (by simp)) (memOk_of_mem (memOk_refuseStamp checked _ _ _) (State.modTeam_mem _ _ _))
theorem goesOn_execLaunchAccept (q : ℕ) (s : State) : s.goesOn (execLaunchAccept q s) := by
  refine fun h => ite_memOk h ?_
  split
  · exact h
  · rename_i ring _
    have read := memOk_of_mem h (State.headRecord_mem s ring)
    have checked := memOk_checkRecord read (s.headRecord ring).2 ring.priv true
    dsimp only
    refine memOk_of_mem (s := if _ then _ else _) (ite_memOk (memOk_of_mem checked (State.acceptRecord_mem _ _ _)) (memOk_refuseStamp checked _ _ _)) rfl
theorem goesOn_execDependenceGatesResolved (launch : ℕ) (s : State) : s.goesOn (execDependenceGatesResolved launch s) := by
  intro h
  split
  · exact h
  · rename_i l _
    refine ite_memOk h ?_
    have read := memOk_gateWords h (recGates l.record)
    split
    · exact fst_memOk read ‹_›
    · exact ite_memOk (memOk_of_mem (fst_memOk read ‹_›) (by simp)) (memOk_cancelLaunch (fst_memOk read ‹_›) _)
theorem goesOn_execCrewPlace (a b c d : ℕ) (s : State) : s.goesOn (execCrewPlace a b c d s) := by
  intro h
  dsimp only
  split
  · exact h
  · exact ite_memOk (memOk_placeCohort h _ _ _) h
theorem goesOn_execCrewEvict (crew : ℕ) (s : State) : s.goesOn (execCrewEvict crew s) := by
  refine goesOn_of_mem ?_
  split
  · rfl
  · split
    · rfl
    · exact ite_mem (by simp) rfl
theorem goesOn_execRgrowDeadlockEvict (core : ℕ) (s : State) : s.goesOn (execRgrowDeadlockEvict core s) := by
  refine goesOn_of_mem (ite_mem ?_ rfl)
  split <;> simp
theorem leaveOrHold_foldl_mem (ks : List ℕ) (s : State) : (ks.foldl (fun s j => s.leaveOrHold j) s).mem = s.mem := foldl_mem (fun _ _ => State.leaveOrHold_mem _ _) ks s
theorem goesOn_execCrewFaultSave (crew : ℕ) (s : State) : s.goesOn (execCrewFaultSave crew s) := by
  refine goesOn_of_mem ?_
  split
  · rfl
  · exact ite_mem (leaveOrHold_foldl_mem _ _) rfl
theorem goesOn_execPriorityEvict (region : ℕ) (s : State) : s.goesOn (execPriorityEvict region s) := by
  refine goesOn_of_mem ?_
  dsimp only
  split
  · rfl
  · split
    · rfl
    · exact ite_mem (by simp) rfl
theorem goesOn_execCohortSteal (region : ℕ) (s : State) : s.goesOn (execCohortSteal region s) := by
  refine goesOn_of_mem ?_
  dsimp only
  split
  · rfl
  · split
    · rfl
    · split
      · rfl
      · exact ite_mem rfl rfl
theorem goesOn_execForcedMigration (u : DevUnit) (s : State) : s.goesOn (execForcedMigration u s) := by
  refine goesOn_of_mem ?_
  split
  · refine ite_mem rfl ((State.advanceLease_mem _ _).trans (foldl_mem (fun u k => ?_) _ _))
    split
    · rfl
    · exact ite_mem (leaveOrHold_foldl_mem _ _) rfl
  · rfl
theorem goesOn_execHostCxlMemWrite (addr : ℕ) (b : List Byte) (s : State) : s.goesOn (execHostCxlMemWrite addr b s) :=
  fun h => ite_memOk (memOk_hostStore (memOk_of_mem h (by simp)) _ _) h
theorem goesOn_execQueueApertureWrite (off : ℕ) (b : List Byte) (s : State) : s.goesOn (execQueueApertureWrite off b s) := fun h => memOk_apertureWrite h _ _
theorem goesOn_execFirstTouchBind (die : ℕ) (va : BitVec 64) (s : State) : s.goesOn (execFirstTouchBind die va s) := fun h => ite_memOk (memOk_translate h _ _ _ _) h
theorem goesOn_execXlateInval (p : List Byte) (s : State) : s.goesOn (execXlateInval p s) := goesOn_mailbox_mem (by dsimp only; split <;> simp)
theorem goesOn_execCrewAbandon (p : List Byte) (s : State) : s.goesOn (execCrewAbandon p s) := by
  refine goesOn_mailbox (fun h => ?_)
  split
  · exact memOk_of_mem h (by simp)
  · exact memOk_of_mem (memOk_abandonCrew h _) (State.answer_mem _ _ _)
theorem goesOn_execLaunchAbandon (p : List Byte) (s : State) : s.goesOn (execLaunchAbandon p s) := by
  refine goesOn_mailbox (fun h => ?_)
  split
  · exact memOk_of_mem h (by simp)
  · refine ite_memOk (memOk_of_mem (memOk_cancelLaunch h _) (State.answer_mem _ _ _)) (ite_memOk (memOk_of_mem h (by simp)) ?_)
    refine memOk_of_mem (memOk_completeLaunch (foldl_memOk (fun _ _ ok => memOk_abandonCrew ok _) _ ?_) _) (State.answer_mem _ _ _)
    exact memOk_of_mem h (by simp)
theorem goesOn_execBallastDrainLine (die : ℕ) (s : State) : s.goesOn (execBallastDrainLine die s) := fun h => ite_memOk (memOk_drainLine h _) h
theorem goesOn_execColdReset (s : State) : s.goesOn (execColdReset s) := by
  intro h
  have reset := memOk_afterReset h
  exact ite_memOk h reset
theorem goesOn_execCometCaptureEnd (s : State) : s.goesOn (execCometCaptureEnd s) := by
  intro h
  split
  · exact h
  · exact ite_memOk h (ite_memOk (memOk_of_mem h (by simp)) (memOk_imageWhole (memOk_of_mem h rfl)))
theorem goesOn_execCometStreamGranule (g : ℕ) (s : State) : s.goesOn (execCometStreamGranule g s) := by
  refine fun h => ite_memOk h ?_
  split
  · exact h
  · dsimp only
    split
    · exact h
    · exact ite_memOk (memOk_of_mem h (State.cometAbandon_mem _ _)) (memOk_imageWhole (memOk_of_mem h rfl))
theorem goesOn_execCometPrepared (s : State) : s.goesOn (execCometPrepared s) := by
  intro h
  split
  · exact h
  · rename_i n _
    refine ite_memOk h ?_
    split
    · exact h
    · rename_i ps _
      have parity := foldl_memOk (f := fun (s : State) (p : (List Byte × List Byte) × ℕ) => (s.acceptBytes (s.comet.unitAddr n (s.comet.pUnit p.2)) p.1.1).acceptBytes (s.comet.unitAddr n (s.comet.qUnit p.2)) p.1.2)
        (fun s p ok => memOk_acceptBytes (memOk_acceptBytes ok _ _) _ _) ps.zipIdx h
      dsimp only
      exact ite_memOk (memOk_writeRecord parity _) (memOk_of_mem (memOk_writeRecord parity _) (State.send_mem _ _ _ _ _))
theorem goesOn_execCometCommit (n : BitVec 32) (s : State) : s.goesOn (execCometCommit n s) := by
  unfold execCometCommit
  rw [goesOn_next]
  intro h
  have record (used : ℕ) : (s.writeRecord ⟨2, n, used, s.unitsDigest n used⟩).memOk := memOk_writeRecord h _
  dsimp only
  split
  · exact h
  · split
    · exact h
    · split
      · exact foldl_memOk (fun _ _ ok => memOk_of_mem ok (State.send_mem _ _ _ _ _)) _ (record _)
      · exact record _
theorem goesOn_execStepRebuild (p : List Byte) (s : State) : s.goesOn (execStepRebuild p s) := by
  unfold execStepRebuild
  refine goesOn_mailbox (fun h => ?_)
  have begun (b : Bool) (c : Comet) (l : List Shard) : (if b then s else { s with comet := c, shards := l }).memOk := ite_memOk h h
  extract_lets n comet s1 asks new
  refine ite_memOk (memOk_of_mem h (State.answer_mem _ _ _)) (ite_memOk (memOk_of_mem h (State.answer_mem _ _ _)) ?_)
  have ok : s1.memOk := begun _ _ _
  exact ite_memOk (memOk_rebuildStep ok _) (memOk_of_mem ok ((State.keepRunning_mem _ _ _).trans (State.askAll_mem _ _ _)))
theorem goesOn_execStepLoad (p : List Byte) (s : State) : s.goesOn (execStepLoad p s) := by
  refine goesOn_mailbox (fun h => ite_memOk (memOk_of_mem h (by simp)) (ite_memOk (memOk_of_mem h (by simp)) ?_))
  split
  · exact memOk_of_mem h (by simp)
  · rename_i rc _
    refine ite_memOk (memOk_of_mem h (by simp)) ?_
    have pages := memOk_loadPages h (BitVec.ofNat 32 (payAt p 0 4)) (s.loadEntries (BitVec.ofNat 32 (payAt p 0 4)) rc.used)
    dsimp only
    split
    · exact memOk_of_mem (fst_memOk pages ‹_›) (by simp)
    · rename_i s1 _
      have tiles := memOk_loadKind2 (fst_memOk pages ‹_›) (BitVec.ofNat 32 (payAt p 0 4)) (payAt p 8 8) ((s.loadEntries (BitVec.ofNat 32 (payAt p 0 4)) rc.used).filter (fun e => e.kind == 2))
      split
      · exact memOk_of_mem (fst_memOk tiles ‹_›) (by simp)
      · exact memOk_of_mem (fst_memOk tiles ‹_›) (by simp)
theorem goesOn_execQuiesce (p : List Byte) (s : State) : s.goesOn (execQuiesce p s) := by
  refine fun h => ite_memOk h ?_
  split
  · exact ite_memOk h (ite_memOk (memOk_of_mem h (by simp)) (memOk_tryCut h _))
  · refine ite_memOk (memOk_of_mem h (by simp)) (ite_memOk (memOk_of_mem h (by simp)) (ite_memOk (memOk_of_mem h (by simp)) (memOk_tryCut (memOk_of_mem h ?_) _)))
    rw [State.holdLeases_mem]
theorem goesOn_execRestore (p : List Byte) (s : State) : s.goesOn (execRestore p s) := by
  refine goesOn_mailbox (fun h => ite_memOk (memOk_of_mem h (by simp)) (ite_memOk (memOk_of_mem h (by simp)) ?_))
  dsimp only
  exact ite_memOk (memOk_of_mem h (by simp)) (memOk_of_mem (memOk_restoreAllFrom h _) (State.answer_mem _ _ _))

end Sys2Proof.Machine

namespace Sys2Proof.Machine

theorem goesOn_intA (s : State) (h : LaneHead) (m : ModA) (n : ℕ) (g : ℤ → ℤ → ℤ → ℤ) : s.goesOn (intA s h m n g) := by
  unfold intA
  exact goesOn_laneA _ _ _ _ _
theorem goesOn_mixedA (s : State) (h : LaneHead) (m : ModA) (g : ℤ → ℤ → ℤ) : s.goesOn (mixedA s h m g) := by
  unfold mixedA
  exact goesOn_laneA _ _ _ _ _
theorem goesOn_floatA (s : State) (h : LaneHead) (m : ModA) (n : ℕ) (g : Fmt → RMode → ℕ → ℕ → ℕ → ℕ) : s.goesOn (floatA s h m n g) := by
  unfold floatA
  exact goesOn_laneA _ _ _ _ _
theorem goesOn_approxA (s : State) (h : LaneHead) (m : ModA) (op : ℕ) : s.goesOn (approxA s h m op) := by
  unfold approxA
  exact goesOn_laneA _ _ _ _ _
theorem goesOn_intCmp (s : State) (h : LaneHead) (m : ModA) (g : ℤ → ℤ → Bool) : s.goesOn (intCmp s h m g) := by
  unfold intCmp
  exact goesOn_laneCmp _ _ _ _
theorem goesOn_floatCmp (s : State) (h : LaneHead) (m : ModA) (g : (nan lt eq : Bool) → Bool) : s.goesOn (floatCmp s h m g) := by
  unfold floatCmp
  exact goesOn_laneCmp _ _ _ _
theorem memOk_outState {o : Out} {s : State} (h : s.memOk) (goes : s.goesOn o) : (outState o s).memOk := by
  unfold outState
  split
  · exact goes h
  · exact h
theorem goesOn_execFusedSoftmax (hm : LaneHead) (mm : ModX) (ht : LaneHead) (mt : ModA) (he : LaneHead) (me : ModA) (hs : LaneHead) (ms : ModX) (s : State) :
    s.goesOn (execFusedSoftmax hm mm ht mt he me hs ms s) := by
  refine goesOn_laneFrame (fun r c t cl x ok => ite_memOk (memOk_of_mem ok (by simp)) ?_)
  have greatest : (outState (execFrmax hm mm s) s).memOk := memOk_outState ok (goesOn_laneRange _ _ _ _ _)
  extract_lets s1 s2 s3
  have shifted : s2.memOk := memOk_outState greatest (goesOn_floatA _ _ _ _ _)
  have powers : s3.memOk := memOk_outState shifted (goesOn_approxA _ _ _ _)
  exact memOk_outState powers (goesOn_laneRange _ _ _ _ _)
theorem goesOn_execTetherAtomicRequest (line pkg gang : ℕ) (tag : BitVec 32) (off : BitVec 6) (size : ScalarSize) (op : AtomOp) (operand cmp : Word) (claim : Bool) (link : Link) (s : State) :
    s.goesOn (execTetherAtomicRequest line pkg gang tag off size op operand cmp claim link s) := goesOn_of_mem (ite_mem (by simp) rfl)

/-! ### Every instruction goes on -/

/-- Every instruction and event goes on: by the family of each. -/
theorem goesOn_exec (i : Instr) (s : State) : s.goesOn (exec i s) := by
  unfold exec
  cases i
  case add | sub | mul | mulh | mulhn | div | divn | rem | remn | and | or | xor | andn | shl | shr | sar | rol | min | max | minn | maxn =>
    exact goesOn_alu _ _ _ _ _
  case clz | popc | brev | sext | zext | set | addi | andi | ori | xori | shli | shri | sari | li | liHi | sel | mcnt | mfirst =>
    exact goesOn_scalarOp _ _ _ _
  case b | bz | bnz | call | loop | bmz | bmnz | bcmp | jr | mpush | melse | mpop | mmov | mand | mor | mnot | fwait | fclr | ldrain | bclose | nop =>
    exact goesOn_onTeam _ _
  case strmD | strmC4 =>
    exact goesOn_strm _ _ _ _ _
  case xcopy | xred =>
    exact goesOn_issueCommand _ _ _ _
  case guardBegin | guardEnd | nopreBegin | nopreEnd =>
    exact goesOn_depthOp _ _ _ _
  case fenceAcq | fenceRel | fenceAr =>
    exact goesOn_fence _ _ _ _
  case iadd | isub | imul | imulh | imad | iabs | ineg | imin | imax =>
    exact goesOn_intA _ _ _ _ _
  case iand | ior | ixor | inot | ishr | isar | ipopc | iclz | ibfx | ibfi | isel | mov =>
    exact goesOn_laneA _ _ _ _ _
  case iadds | isubs =>
    exact goesOn_mixedA _ _ _ _
  case icmpEq | icmpNe | icmpLt | icmpLe | icmpGt | icmpGe =>
    exact goesOn_intCmp _ _ _ _
  case fadd | fsub | fmul | ffma | fmin | fmax | fabs | fneg | frcp | fsqrt | fdiv | fround | fclass | fscale =>
    exact goesOn_floatA _ _ _ _ _
  case fcmpEq | fcmpNe | fcmpLt | fcmpLe | fcmpGt | fcmpGe | fcmpUn =>
    exact goesOn_floatCmp _ _ _ _
  case frsq | fexp2 | flog2 | fsin | fcos | ftanh | fsigm =>
    exact goesOn_approxA _ _ _ _
  case frmax | fradd =>
    exact goesOn_laneRange _ _ _ _ _
  case movi =>
    exact goesOn_laneGen _ _ _ _
  case shfl | bcast =>
    exact goesOn_laneShfl _ _ _ _
  case tldIfempty | tstIffull | tldf | tste | rld | msgput | msgtake =>
    exact goesOn_laneWaiting
  case mma | mmaPair =>
    exact goesOn_enterMma _ _ _ _ _
  case mread | mwrite =>
    exact goesOn_enterLanes _ _ _ _ _ _ _
  case getVersion | getCapabilities | negotiateAlgorithms | getDigests | getCertificate | challenge | getMeasurements =>
    exact goesOn_spdmAnswer _ _
  case unassignedEncoding => exact goesOn_execUnassignedEncoding _ _
  case instructionFetchFault => exact goesOn_execInstructionFetchFault _ _ _ _
  case sld => exact goesOn_execSld _ _ _ _ _
  case sst => exact goesOn_execSst _ _ _ _ _
  case sldf => exact goesOn_execSldf _ _ _ _ _ _ _ _
  case sste => exact goesOn_execSste _ _ _ _ _ _ _
  case satom => exact goesOn_execSatom _ _ _ _ _ _ _
  case lq => exact goesOn_execLq _ _
  case qld => exact goesOn_execQld _ _ _
  case qclose => exact goesOn_execQclose _ _
  case xwin => exact goesOn_execXwin _ _ _
  case bwait => exact goesOn_execBwait _ _ _ _
  case mwait => exact goesOn_execMwait _ _ _ _
  case pbarPdomain => exact goesOn_execPbarPdomain _
  case pbarPspan => exact goesOn_execPbarPspan _
  case stepmark => exact goesOn_execStepmark _ _
  case talloc => exact goesOn_execTalloc _ _ _ _ _
  case tfree => exact goesOn_execTfree _ _
  case tdesc => exact goesOn_execTdesc _ _ _
  case layout => exact goesOn_execLayout _ _ _ _
  case lwait => exact goesOn_execLwait _ _
  case gbind => exact goesOn_execGbind _ _ _ _
  case zfill => exact goesOn_execZfill _ _ _ _
  case ginit => exact goesOn_execGinit _ _ _ _
  case garrive => exact goesOn_execGarrive _ _ _ _
  case gexpect => exact goesOn_execGexpect _ _ _ _
  case gwait => exact goesOn_execGwait _ _ _ _ _ _
  case wlinit => exact goesOn_execWlinit _ _ _
  case wltake => exact goesOn_execWltake _ _ _ _
  case tdwait => exact goesOn_execTdwait _ _ _ _
  case rgrow => exact goesOn_execRgrow _ _ _ _
  case rshrink => exact goesOn_execRshrink _ _
  case yield => exact goesOn_execYield _
  case capq => exact goesOn_execCapq _ _
  case locq => exact goesOn_execLocq _ _ _
  case launch => exact goesOn_execLaunch _ _ _
  case tclaim => exact goesOn_execTclaim _ _ _
  case sysr => exact goesOn_execSysr _ _ _
  case sysw => exact goesOn_execSysw _ _ _
  case clk => exact goesOn_execClk _ _
  case trap => exact goesOn_execTrap _ _
  case eret => exact goesOn_execEret _
  case exit => exact goesOn_execExit _
  case ishl => exact goesOn_execIshl _ _ _
  case idot4 => exact goesOn_execIdot4 _ _ _
  case cvt => exact goesOn_execCvt _ _ _
  case pack => exact goesOn_execPack _ _ _
  case unpk => exact goesOn_execUnpk _ _ _
  case qbp => exact goesOn_execQbp _ _ _
  case dqbp => exact goesOn_execDqbp _ _ _
  case had32 => exact goesOn_execHad32 _ _ _
  case fusedSoftmax => exact goesOn_execFusedSoftmax _ _ _ _ _ _ _ _ _
  case lidx => exact goesOn_execLidx _ _ _
  case vote => exact goesOn_execVote _ _ _
  case pfxc => exact goesOn_execPfxc _ _ _
  case scan => exact goesOn_execScan _ _ _
  case red => exact goesOn_execRed _ _ _
  case lnop => exact goesOn_execLnop _
  case tld => exact goesOn_execTld _ _ _
  case tst => exact goesOn_execTst _ _ _
  case tldt => exact goesOn_execTldt _ _ _
  case gld => exact goesOn_execGld _ _ _
  case gst => exact goesOn_execGst _ _ _
  case atom => exact goesOn_execAtom _ _ _
  case wlapp => exact goesOn_execWlapp _ _ _
  case cstore => exact goesOn_execCstore _ _ _
  case xld => exact goesOn_execXld _ _ _
  case mzero => exact goesOn_execMzero _ _ _
  case mdrain => exact goesOn_execMdrain _ _ _
  case clauseStart => exact goesOn_execClauseStart _ _
  case clauseRetire => exact goesOn_execClauseRetire _ _
  case clauseComplete => exact goesOn_execClauseComplete _ _ _
  case longLatencyComplete => exact goesOn_execLongLatencyComplete _ _ _
  case storeAck => exact goesOn_execStoreAck _ _ _ _
  case teamWake => exact goesOn_execTeamWake _ _ _ _
  case waitTimeout => exact goesOn_execWaitTimeout _ _ _ _
  case streamDeliver => exact goesOn_execStreamDeliver _ _ _
  case commandSignal => exact goesOn_execCommandSignal _ _
  case layoutBlockConvert => exact goesOn_execLayoutBlockConvert _ _ _
  case firstTouchBind => exact goesOn_execFirstTouchBind _ _ _
  case matrixCommandStart => exact goesOn_execMatrixCommandStart _ _
  case accumulatorSwap => exact goesOn_execAccumulatorSwap _ _ _
  case mmaComplete => exact goesOn_execMmaComplete _ _
  case shadowLatchReplay => exact goesOn_execShadowLatchReplay _ _
  case pairOffer => exact goesOn_execPairOffer _ _
  case pairStart => exact goesOn_execPairStart _ _ _
  case pairStartCycle => exact goesOn_execPairStartCycle _ _
  case pairOfferWithdraw => exact goesOn_execPairOfferWithdraw _ _
  case crewFaultSave => exact goesOn_execCrewFaultSave _ _
  case crewPlace => exact goesOn_execCrewPlace _ _ _ _ _
  case crewEvict => exact goesOn_execCrewEvict _ _
  case rgrowDeadlockEvict => exact goesOn_execRgrowDeadlockEvict _ _
  case priorityAging => exact goesOn_execPriorityAging _ _ _
  case priorityEvict => exact goesOn_execPriorityEvict _ _
  case cohortSteal => exact goesOn_execCohortSteal _ _
  case launchAccept => exact goesOn_execLaunchAccept _ _
  case dependenceGatesResolved => exact goesOn_execDependenceGatesResolved _ _
  case leaseDue => exact goesOn_execLeaseDue _ _
  case capacityNotify => exact goesOn_execCapacityNotify _ _
  case nopreBudgetSpent => exact goesOn_execNopreBudgetSpent _ _
  case forcedMigration => exact goesOn_execForcedMigration _ _
  case channelLineMove => exact goesOn_execChannelLineMove _ _ _ _
  case leaseTestStart => exact goesOn_execLeaseTestStart _ _
  case testVerdict => exact goesOn_execTestVerdict _ _ _ _ _
  case scoreDecay => exact goesOn_execScoreDecay _
  case patrolScrub => exact goesOn_execPatrolScrub _ _ _ _
  case launchQueueProdWrite => exact goesOn_execLaunchQueueProdWrite _ _ _
  case poolProdWrite => exact goesOn_execPoolProdWrite _ _ _
  case eventRingConsWrite => exact goesOn_execEventRingConsWrite _ _
  case queueApertureWrite => exact goesOn_execQueueApertureWrite _ _ _
  case hostCxlMemRead => exact goesOn_execHostCxlMemRead _ _ _
  case hostCxlMemWrite => exact goesOn_execHostCxlMemWrite _ _ _
  case eventWrite => exact goesOn_execEventWrite _
  case queueConfig => exact goesOn_execQueueConfig _ _
  case rangeReserve => exact goesOn_execRangeReserve _ _
  case rangeRelease => exact goesOn_execRangeRelease _ _
  case poolConfig => exact goesOn_execPoolConfig _ _
  case xlateInval => exact goesOn_execXlateInval _ _
  case spanJoin => exact goesOn_execSpanJoin _ _
  case spanLeave => exact goesOn_execSpanLeave _ _
  case eventConfig => exact goesOn_execEventConfig _ _
  case portStatus => exact goesOn_execPortStatus _ _
  case crewResume => exact goesOn_execCrewResume _ _
  case crewAbandon => exact goesOn_execCrewAbandon _ _
  case quiesce => exact goesOn_execQuiesce _ _
  case quiesceTimeout => exact goesOn_execQuiesceTimeout _
  case resume => exact goesOn_execResume _ _
  case restore => exact goesOn_execRestore _ _
  case unitStatus => exact goesOn_execUnitStatus _ _
  case recordRead => exact goesOn_execRecordRead _ _
  case cometConfig => exact goesOn_execCometConfig _ _
  case cometTrack => exact goesOn_execCometTrack _ _
  case stepQuery => exact goesOn_execStepQuery _ _
  case stepRebuild => exact goesOn_execStepRebuild _ _
  case stepLoad => exact goesOn_execStepLoad _ _
  case launchAbandon => exact goesOn_execLaunchAbandon _ _
  case wlRelease => exact goesOn_execWlRelease _ _
  case mailboxUnsupportedOpcode => exact goesOn_execMailboxUnsupportedOpcode _ _
  case spdmUnsupportedRequest => exact goesOn_execSpdmUnsupportedRequest _ _
  case capWrite => exact goesOn_execCapWrite _ _ _
  case alarmClear => exact goesOn_execAlarmClear _ _
  case perfCounterClear => exact goesOn_execPerfCounterClear _ _
  case registerWrite => exact goesOn_execRegisterWrite _ _ _
  case i3cSetdasa => exact goesOn_execI3cSetdasa _ _
  case vauxApply => exact goesOn_execVauxApply _
  case vinApply => exact goesOn_execVinApply _
  case vinLoss => exact goesOn_execVinLoss _
  case thermalTrip => exact goesOn_execThermalTrip _
  case junctionHot => exact goesOn_execJunctionHot _ _
  case monitorAlarm => exact goesOn_execMonitorAlarm _ _
  case voltageDroop => exact goesOn_execVoltageDroop _ _
  case coldReset => exact goesOn_execColdReset _
  case holdupCharged => exact goesOn_execHoldupCharged _
  case bootRunning => exact goesOn_execBootRunning _
  case ballastDrainLine => exact goesOn_execBallastDrainLine _ _
  case portSignalDetect => exact goesOn_execPortSignalDetect _ _
  case portLanesLocked => exact goesOn_execPortLanesLocked _ _
  case portTrainTimeout => exact goesOn_execPortTrainTimeout _ _
  case portSignalLoss => exact goesOn_execPortSignalLoss _ _
  case hello => exact goesOn_execHello _ _
  case ack => exact goesOn_execAck _ _
  case nak => exact goesOn_execNak _ _
  case flitCrcError => exact goesOn_execFlitCrcError _ _
  case flitUnassigned => exact goesOn_execFlitUnassigned _ _
  case flitWrite => exact goesOn_execFlitWrite _ _
  case flitReadRequest => exact goesOn_execFlitReadRequest _ _
  case flitReadResponse => exact goesOn_execFlitReadResponse _ _
  case xredContribution => exact goesOn_execXredContribution _ _
  case xredResult => exact goesOn_execXredResult _ _
  case cometShard => exact goesOn_execCometShard _ _
  case routeLost => exact goesOn_execRouteLost _ _
  case memberLost => exact goesOn_execMemberLost _ _
  case tetherReadRequest => exact goesOn_execTetherReadRequest _ _ _ _ _ _
  case tetherOwnershipRequest => exact goesOn_execTetherOwnershipRequest _ _ _ _ _ _
  case tetherAtomicRequest => exact goesOn_execTetherAtomicRequest _ _ _ _ _ _ _ _ _ _ _ _
  case tetherGrant => exact goesOn_execTetherGrant _ _ _ _ _ _ _ _ _ _
  case tetherSnoop => exact goesOn_execTetherSnoop _ _ _ _ _
  case tetherWriteBack => exact goesOn_execTetherWriteBack _ _ _ _ _ _
  case tetherReplacement => exact goesOn_execTetherReplacement _ _ _
  case tetherSnoopTimeout => exact goesOn_execTetherSnoopTimeout _ _
  case tetherRevoke => exact goesOn_execTetherRevoke _ _ _ _
  case requestGuardExpiry => exact goesOn_execRequestGuardExpiry _ _
  case homeGuardExpiry => exact goesOn_execHomeGuardExpiry _ _
  case wlRunRequest => exact goesOn_execWlRunRequest _ _
  case wlappItemWrite => exact goesOn_execWlappItemWrite _ _
  case wlCountChange => exact goesOn_execWlCountChange _ _
  case cometCaptureBegin => exact goesOn_execCometCaptureBegin _ _
  case cometGranulePreserve => exact goesOn_execCometGranulePreserve _ _
  case cometCaptureEnd => exact goesOn_execCometCaptureEnd _
  case cometStreamGranule => exact goesOn_execCometStreamGranule _ _
  case cometPrepared => exact goesOn_execCometPrepared _
  case cometCommit => exact goesOn_execCometCommit _ _
  case cometRecordDurable => exact goesOn_execCometRecordDurable _
  case functionReset => exact goesOn_execFunctionReset _
  case vauxRemoval => exact goesOn_execVauxRemoval _
  case cometPreparedReport => exact goesOn_execCometPreparedReport _ _ _
  case memberReachable => exact goesOn_execMemberReachable _ _

theorem exec_next_or_noTeam (i : Instr) (s : State) : (∃ s', exec i s = .next s') ∨ (exec i s = .fault .noTeam ∧ ∀ r c t, ¬s.acts r c t) := by
  have goes := goesOn_exec i s
  cases ends : exec i s with
  | next s' => exact .inl ⟨s', rfl⟩
  | fault f =>
    cases f
    rw [ends] at goes
    exact .inr ⟨rfl, goes⟩
  | refused x =>
    rw [ends] at goes
    exact absurd goes not_false

/-- Settles O12: by the family of each instruction, each of which goes on where a team acts. -/
theorem everyInstructionGoesOn : Obligations.EveryInstructionGoesOn := by
  refine ⟨fun s r c t acts i => ?_, exec_next_or_noTeam⟩
  obtain next | ⟨-, noTeam⟩ := exec_next_or_noTeam i s
  · exact next
  · exact absurd acts (noTeam r c t)

/-! ### Every step keeps memory canonical -/

/-- An outcome whose next state, where it has one, has memory in its canonical form. -/
def Out.canonical (o : Out) : Prop := ∀ s', o = .next s' → s'.memOk

theorem canonical_next {s : State} (h : s.memOk) : Out.canonical (.next s) := by
  rintro s' ⟨⟩
  exact h
theorem canonical_exec {s : State} (h : s.memOk) (i : Instr) : Out.canonical (exec i s) := by
  intro s' e
  have goes := goesOn_exec i s
  rw [e] at goes
  exact goes h
theorem canonical_execRead {s : State} (h : s.memOk) (r : TeamRef) (st : Stream) (i : Instr) : Out.canonical (s.execRead r st i) := by
  unfold State.execRead
  have executed := canonical_exec h i
  split
  · exact executed
  · split
    · split
      · rename_i s1 e
        have kept := canonical_next (executed s1 e)
        split
        · split
          · exact kept
          · exact canonical_exec h _
        · exact kept
      · exact executed
    · exact executed
theorem canonical_stepTeam {s : State} (h : s.memOk) (r : TeamRef) (st : Stream) : Out.canonical (s.stepTeam r st) := by
  unfold State.stepTeam
  have focused : State.memOk { s with focus := some r } := h
  split
  · exact canonical_next h
  · rename_i s1 i e
    have executed := canonical_execRead (memOk_fetchNext focused e) r st i
    cases ends : s1.execRead r st i with
    | next u => exact canonical_next (memOk_of_mem (executed u ends) (by simp))
    | fault f => rintro s' ⟨⟩
    | refused x => rintro s' ⟨⟩
theorem memOk_guarded {s a b : State} (h : s.memOk) (good : a.memOk) (failed : b.memOk) (team : Option TeamRef) (command : ℕ) {maybe : State → State → State}
    (either : (maybe a b).mem = a.mem ∨ (maybe a b).mem = b.mem) : (s.guarded team command a b maybe).memOk := by
  unfold State.guarded
  refine ite_memOk good ?_
  split
  · exact h
  · have chosen : (if (Config.freeValue s.free).getLsbD 0 then maybe a b else b).memOk :=
      ite_memOk (either.elim (memOk_of_mem good) (memOk_of_mem failed)) failed
    exact ite_memOk h chosen
theorem State.memOk_hush {s : State} (h : s.memOk) (ds : List ℕ) : (s.hush ds).memOk := h
theorem State.memOk_unhush {s : State} (h : s.memOk) (ds : List ℕ) : (s.unhush ds).memOk := h
theorem canonical_stepHeard {s : State} (h : s.memOk) (r : TeamRef) (st : Stream) : Out.canonical (s.stepHeard r st) := by
  unfold State.stepHeard
  split
  · exact canonical_next h
  · rename_i c t _
    have answered := canonical_stepTeam h r st
    have silent := canonical_stepTeam (State.memOk_hush h (s.silentTo (coreDie c.core))) r st
    dsimp only
    split
    · exact answered
    · split
      · rename_i a b ends fails
        exact canonical_next (memOk_guarded h (answered a ends) (State.memOk_unhush (silent b fails) _) _ _ (keepStores_mem r _ _))
      · exact answered
theorem memOk_cmdHeard {s : State} (h : s.memOk) (id p : ℕ) : (s.cmdHeard id p).memOk := by
  unfold State.cmdHeard
  split
  · exact h
  · rename_i m _
    have silent := State.memOk_unhush (memOk_cmdMove (State.memOk_hush h (s.silentTo (coreDie m.core))) id p) (s.silentTo (coreDie m.core))
    exact ite_memOk (memOk_cmdMove h _ _) (memOk_guarded h (memOk_cmdMove h _ _) silent _ _ (.inl rfl))
theorem memOk_drainHeard {s : State} (h : s.memOk) (id key : ℕ) : (s.drainHeard id key).memOk := by
  unfold State.drainHeard
  split
  · exact h
  · rename_i m _
    have silent := State.memOk_unhush (memOk_drainElem (State.memOk_hush h (s.silentTo (coreDie m.core))) id key) (s.silentTo (coreDie m.core))
    dsimp only
    refine ite_memOk (memOk_drainElem h _ _) (memOk_guarded h (memOk_drainElem h _ _) (ite_memOk silent (memOk_of_mem silent ?_)) _ _ (.inl rfl))
    exact State.drainFault_mem _ _
theorem canonical_stepSlot {s : State} (h : s.memOk) (r : TeamRef) (st : Stream) : Out.canonical (s.stepSlot r st) := by
  unfold State.stepSlot
  split
  · exact canonical_next h
  · rename_i c _ _
    have passed := memOk_nextSlot h c.core st
    dsimp only
    generalize s.nextSlot c.core st = s1 at passed
    split
    · exact canonical_next h
    · split
      · exact canonical_next h
      · have heard := canonical_stepHeard passed r st
        cases ends : s1.stepHeard r st with
        | next u =>
          have good := heard u ends
          exact canonical_next (ite_memOk (memOk_of_mem good (State.markChosen_mem _ _ _ _ _)) good)
        | fault f => rintro s' ⟨⟩
        | refused x => rintro s' ⟨⟩
theorem canonical_stepMove {s : State} (h : s.memOk) (m : Move) : Out.canonical (s.stepMove m) := by
  cases m
  case run => exact canonical_stepSlot h _ _
  case event i =>
    unfold State.stepMove
    dsimp only
    split
    · exact canonical_exec h i
    · exact canonical_next h
  case elapse c n => exact canonical_next (memOk_elapse (memOk_of_mem h (by split <;> simp)) c n)
  case voteLand => exact canonical_next (ite_memOk (memOk_of_mem h (by simp)) h)
  case chunkStep => exact canonical_next (ite_memOk (memOk_of_mem h (by simp)) h)
  case cmdElem => exact canonical_next (ite_memOk (memOk_cmdHeard h _ _) h)
  case drainElem => exact canonical_next (ite_memOk (memOk_drainHeard h _ _) h)
  case walkBegin => exact canonical_next (ite_memOk (memOk_walkBegin h _ _) h)
  case walkEnd => exact canonical_next (ite_memOk (memOk_walkEnd h _) h)
  case owedStamp => exact canonical_next (ite_memOk (memOk_payStamp h _) h)
  case launchDone => exact canonical_next (ite_memOk (memOk_completeLaunch h _) h)
  case barWrite => exact canonical_next (memOk_barWrite h _ _ _)
  case unitError => exact canonical_next (ite_memOk (memOk_of_mem h (by simp)) h)
  case mailboxInterrupt => exact canonical_next (ite_memOk h h)
  case l1Drop | tlbDrop | gangTlbDrop | laneError | scalarError | accError | tableError | testRun | dieSilent | barRead | i3cWrite | i3cRead | monitor | bootStage =>
    exact canonical_next (memOk_of_mem h (by simp))
theorem canonical_stepFocus {s : State} (h : s.memOk) : Out.canonical s.stepFocus := by
  unfold State.stepFocus
  split
  · exact canonical_next h
  · split
    · exact canonical_stepSlot h _ _
    · split
      · exact canonical_stepSlot h _ _
      · exact canonical_next h
theorem canonical_step {s : State} (h : s.memOk) : Out.canonical (step s) := by
  unfold step State.stepNext
  split
  · rename_i m rest _
    exact canonical_stepMove (s := { s with moves := rest }) h m
  · exact canonical_stepFocus h

/-- Settles O5: every move keeps the canonical form, the steps of the streams by `goesOn_exec`. -/
theorem stepKeepsMemoryCanonical : Obligations.StepKeepsMemoryCanonical := fun _ s' h e => canonical_step h s' e

/-- Settles O4: the reset state is a literal. -/
theorem resetState : Obligations.ResetState := by
  refine ⟨?_, Tests.reset_memory_canonical⟩
  decide +kernel

end Sys2Proof.Machine

namespace Sys2Proof.Machine

/-! ### Power and its monitors -/

theorem bytesNat_lt : ∀ l : List Byte, bytesNat l < 256 ^ l.length
  | [] => by simp [bytesNat]
  | b :: l => by
    have rest := bytesNat_lt l
    have byte := b.isLt
    rw [bytesNat, List.length_cons, Nat.pow_succ]
    omega
theorem payAt_lt (p : List Byte) (off n : ℕ) : payAt p off n < 256 ^ n :=
  lt_of_lt_of_le (bytesNat_lt _) (Nat.pow_le_pow_right (by decide) (by simp))

/-- The raised security version is no less than the stored one, and a byte. -/
theorem NonVolatile.raisedSecver_bounds (nv : NonVolatile) : nv.secver.toNat ≤ nv.raisedSecver ∧ nv.raisedSecver < 256 := by
  refine List.foldlRecOn (motive := fun v => nv.secver.toNat ≤ v ∧ v < 256) [1, 2, 3] _ ⟨le_rfl, nv.secver.isLt⟩ (fun v bounds k _ => ?_)
  obtain ⟨low, high⟩ := bounds
  split
  · rename_i f _
    have byte := payAt_lt f.header 8 1
    split <;> omega
  · exact ⟨low, high⟩

theorem State.bootAt_iff (s : State) (n : ℕ) : s.bootAt n = true ↔ s.platform.stage.toNat = n ∧ s.platform.fail = 0#8 := by simp [State.bootAt]
theorem State.bootAt_of_ne {s : State} {n : ℕ} (small : n < 256) (other : s.platform.stage ≠ BitVec.ofNat 8 n) : s.bootAt n = false := by
  refine Bool.eq_false_iff.mpr (fun there => other (BitVec.eq_of_toNat_eq ?_))
  rw [((s.bootAt_iff n).mp there).1, BitVec.toNat_ofNat, Nat.mod_eq_of_lt small]
theorem State.powered_iff (s : State) : s.powered = true ↔ s.vaux = true ∧ s.vin = true ∧ s.powerLoss = none := by simp [State.powered, and_assoc]
theorem exec_unpowered {s : State} (off : s.powered = false) :
    exec .vinLoss s = .next { s with vin := false } ∧ (∀ x : BitVec 8, exec (.junctionHot x) s = .next s ∧ exec (.monitorAlarm x) s = .next s) ∧ exec .thermalTrip s = .next s := by
  simp [exec, execVinLoss, execJunctionHot, execMonitorAlarm, execThermalTrip, off]

/-- A Ballast line reaches its stack: the first line that the die has accepted is written and leaves. -/
theorem exec_ballastDrainLine {s : State} {b : BLine} {rest : List BLine} (vaux : s.vaux = true) (head : s.ballast = b :: rest) :
    exec (.ballastDrainLine (paDie b.addr)) s = .next { s with mem := writeLE s.mem b.addr 64 b.data.toNat, ballast := rest } := by
  simp [exec, execBallastDrainLine, vaux, State.drainLine, head]
theorem readLE_writeLE_line (m : Memory) (a : ℕ) (d : BitVec 512) : readLE (writeLE m a 64 d.toNat) a 64 = d.toNat := by
  rw [readLE_writeLE, Nat.mod_eq_of_lt]
  exact lt_of_lt_of_eq d.isLt (by decide +kernel)

/-- Settles O55. -/
theorem powerAndMonitors : Obligations.PowerAndMonitors := by
  intro s f
  refine ⟨rfl, rfl, fun on => ?_, fun off => ?_, fun _ => rfl, exec_unpowered, fun vaux vin full => ?_, fun b rest vaux head => ?_⟩
  · simp [exec, execVinApply, on]
  · simp [exec, execVinApply, off]
  · have on : s.powered = true := s.powered_iff.mpr ⟨vaux, vin, full⟩
    refine ⟨by simp [exec, execVinLoss, on, State.losePower], fun x => ?_, fun stage fine => ?_, fun other => ?_, fun stage fine => ?_, fun other => ?_⟩
    · have heats (p : Platform) : State.heat { s with platform := p } x = { s with platform := p.heat x, powerLoss := if 115 ≤ x.toNat then some 0 else none } := by
        rw [State.heat, State.losePower, ← full]
        split <;> rfl
      refine ⟨?_, fun hot => ?_, fun cool => ?_, fun trip => ?_⟩
      · exact congrArg Host.Outcome.next ((if_pos on).trans (heats _))
      · exact congrArg Host.Outcome.next ((if_pos (by simp [on, hot])).trans (heats _))
      · simp [exec, execJunctionHot, Nat.not_le.mpr cool]
      · subst trip
        exact congrArg Host.Outcome.next ((if_pos on).trans (heats _))
    · have at6 := (s.bootAt_iff 6).mpr ⟨by rw [stage]; rfl, fine⟩
      simp [exec, execHoldupCharged, on, at6, f]
    · have not6 : s.bootAt 6 = false := State.bootAt_of_ne (by decide) other
      simp [exec, execHoldupCharged, not6]
    · have at7 := (s.bootAt_iff 7).mpr ⟨by rw [stage]; rfl, fine⟩
      obtain ⟨low, high⟩ := s.nv.raisedSecver_bounds
      refine ⟨_, congrArg Host.Outcome.next (if_pos (by simp [on, at7])), rfl, rfl, ?_, rfl⟩
      rwa [BitVec.toNat_ofNat, Nat.mod_eq_of_lt high]
    · have not7 : s.bootAt 7 = false := State.bootAt_of_ne (by decide) other
      simp [exec, execBootRunning, not7]
  · refine ⟨_, exec_ballastDrainLine vaux head, rfl, readLE_writeLE_line _ _ _, fun a away => ?_, rfl⟩
    exact cellGet_writeLE_other _ _ _ _ _ away

end Sys2Proof.Machine

namespace Sys2Proof.Machine

/-! ### Traps -/

/-- The team has a handler that a trap enters (17 R341). -/
abbrev Team.hasHandler (t : Team) : Prop := t.priv = true ∧ t.trapVec ≠ 0#56 ∧ t.trapInh = false

theorem Team.trap_handler {t : Team} (handler : t.hasHandler) (cause code : ℕ) (save : Word) : t.trap cause code save =
    { t with trapCause := BitVec.ofNat 28 (code * 65536 + cause), trapPc := save.setWidth 56, trapLane := false, trapLclause := 0#56, trapLidx := 0#4, swait := none
             trapInh := true, pc := t.trapVec.setWidth 64 } := by
  obtain ⟨priv, vec, inh⟩ := handler
  simp [Team.trap, priv, vec, inh]
theorem Team.trap_record {t : Team} (noHandler : ¬t.hasHandler) (own : t.lfm = 0#1024 ∨ t.trapInh = true) (cause code : ℕ) (save : Word) : t.trap cause code save =
    { t with trapCause := BitVec.ofNat 28 (code * 65536 + cause), trapPc := save.setWidth 56, trapLane := false, trapLclause := 0#56, trapLidx := 0#4, swait := none
             faulted := true } := by
  unfold Team.trap
  dsimp only
  rw [if_neg (by simpa using noHandler), if_pos (by simpa using own)]
theorem Team.trap_keeps {t : Team} (noHandler : ¬t.hasHandler) (lanes : t.lfm ≠ 0#1024) (inh : t.trapInh = false) (cause code : ℕ) (save : Word) : t.trap cause code save =
    { t with trapPc := save.setWidth 56, swait := none, faulted := true } := by
  unfold Team.trap
  dsimp only
  rw [if_neg (by simpa using noHandler), if_neg (by simp [lanes, inh])]

theorem trapCause_toNat {cause code : ℕ} (small : cause < 2 ^ 16) (short : code < 2 ^ 12) : (BitVec.ofNat 28 (code * 65536 + cause)).toNat = code * 2 ^ 16 + cause := by
  rw [BitVec.toNat_ofNat, Nat.mod_eq_of_lt (by omega)]
  norm_num

/-- What a trap of the scalar stream does to its team, as `Obligations.TrapEntryAndReturn` states it. -/
theorem Team.trap_spec (t : Team) {cause code : ℕ} (save : Word) (small : cause < 2 ^ 16) (short : code < 2 ^ 12) :
    let u := t.trap cause code save
    u.trapPc = save.setWidth 56 ∧ u.swait = none ∧
    (t.hasHandler ∨ t.lfm = 0#1024 ∨ t.trapInh = true → u.trapCause.toNat = code * 2 ^ 16 + cause ∧ u.trapLane = false ∧ u.trapLclause = 0#56 ∧ u.trapLidx = 0#4) ∧
    (¬t.hasHandler ∧ t.lfm ≠ 0#1024 ∧ t.trapInh = false → u.trapCause = t.trapCause ∧ u.trapLane = t.trapLane ∧ u.trapLclause = t.trapLclause ∧ u.trapLidx = t.trapLidx) ∧
    (t.hasHandler → u.pc = t.trapVec.setWidth 64 ∧ u.trapInh = true ∧ u.faulted = t.faulted) ∧
    (¬t.hasHandler → u.pc = t.pc ∧ u.trapInh = t.trapInh ∧ u.faulted = true) ∧
    { u with trapCause := t.trapCause, trapPc := t.trapPc, trapLane := t.trapLane, pc := t.pc, trapInh := t.trapInh, faulted := t.faulted
             trapLclause := t.trapLclause, trapLidx := t.trapLidx, swait := t.swait } = t := by
  dsimp only
  have recorded := trapCause_toNat small short
  by_cases handler : t.hasHandler
  · rw [t.trap_handler handler]
    exact ⟨rfl, rfl, fun _ => ⟨recorded, rfl, rfl, rfl⟩, fun none_ => absurd handler none_.1, fun _ => ⟨rfl, rfl, rfl⟩, fun none_ => absurd handler none_, rfl⟩
  · by_cases own : t.lfm = 0#1024 ∨ t.trapInh = true
    · rw [t.trap_record handler own]
      refine ⟨rfl, rfl, fun _ => ⟨recorded, rfl, rfl, rfl⟩, fun kept => ?_, fun here => absurd here handler, fun _ => ⟨rfl, rfl, rfl⟩, rfl⟩
      obtain ⟨-, lanes, inh⟩ := kept
      simp [lanes, inh] at own
    · obtain ⟨lanes, inh⟩ := not_or.mp own
      rw [t.trap_keeps handler lanes (by simpa using inh)]
      exact ⟨rfl, rfl, fun here => absurd here (by simp only [handler, own, or_self, not_false_eq_true]), fun _ => ⟨rfl, rfl, rfl, rfl⟩,
        fun here => absurd here handler, fun _ => ⟨rfl, rfl, rfl⟩, rfl⟩

section
variable {s : State} {r : TeamRef} {c : Crew} {t : Team}

theorem exists_teamAt_notePool (h : s.teamAt r = some (c, t)) (again : Bool) (z : Option ℕ) : ∃ c', (s.notePool r again z).teamAt r = some (c', t) := by
  refine exists_teamAt_of_map h ?_
  rw [(notePool_frame h again z).2, h]
  rfl
theorem exists_teamAt_putTeam_notePool (h : s.teamAt r = some (c, t)) (u : Team) (again : Bool) (z : Option ℕ) : ∃ c', ((s.putTeam r u).notePool r again z).teamAt r = some (c', u) :=
  exists_teamAt_notePool (teamAt_putTeam h u) again z
theorem scalarFault_spec (h : s.teamAt r = some (c, t)) (cause : ℕ) (z : Option ℕ) :
    ∃ c', (s.scalarFault r cause z).teamAt r = some (c', t.trap cause 0 t.pc) ∧ sameBytes s (s.scalarFault r cause z) := by
  obtain ⟨c', team⟩ := exists_teamAt_putTeam_notePool h (t.trapHere cause) false z
  exact ⟨c', by rw [State.scalarFault, modTeam_eq h, team]; rfl, sameBytes_of_mem (State.scalarFault_mem _ _ _ _)⟩

theorem exec_trap (h : s.acts r c t) (code : BitVec 12) : exec (.trap code) s = .next ((s.putTeam r (t.trap causeSoftware code.toNat (t.pc + 4#64))).notePool r false none) :=
  withTeam_acts h _
theorem exec_eret (h : s.acts r c t) : exec .eret s = .next (if t.priv then s.putTeam r t.eret else s.scalarFault r causePrivilege none) := withTeam_acts h _
theorem exec_unassignedEncoding_scalar (h : s.acts r c t) : exec (.unassignedEncoding .scalar) s = .next (s.scalarFault r causeEncoding none) := withTeam_acts h _
theorem exec_unassignedEncoding_lane (h : s.acts r c t) : exec (.unassignedEncoding .lane) s = .next (s.laneFetchFault r c t causeEncoding none) := withTeam_acts h _
theorem exec_instructionFetchFault_scalar (h : s.acts r c t) (why : FetchFault) (at_ : Word) : ∃ z, exec (.instructionFetchFault .scalar why at_) s =
    .next ((s.putTeam r (t.trap (fetchCause why) 0 at_)).notePool r false z) := ⟨_, withTeam_acts h _⟩
theorem exec_instructionFetchFault_lane (h : s.acts r c t) (why : FetchFault) (at_ : Word) : ∃ z, exec (.instructionFetchFault .lane why at_) s =
    .next (s.laneFetchFault r c t (fetchCause why) z) := ⟨_, withTeam_acts h _⟩

/-- The lanes that a failed fetch of a lane instruction names are lanes of the clause mask. -/
theorem wouldExecute_subset (s : State) (c : Crew) {t : Team} (fresh : t.restart = none) (cl : Clause) : s.wouldExecute c t cl &&& ~~~cl.mask = 0#1024 := by
  unfold State.wouldExecute
  split
  · refine BitVec.eq_of_getLsbD_eq (fun l hl => ?_)
    rw [BitVec.getLsbD_and, BitVec.getLsbD_not, BitVec.getLsbD_zero, decide_eq_true hl, Bool.true_and]
    refine Bool.eq_false_iff.mpr (fun both => ?_)
    obtain ⟨executes, outside⟩ := Bool.and_eq_true_iff.mp both
    rw [Team.mask_of_executing executes] at outside
    cases outside
  · rw [fresh]
    exact BitVec.and_not_self cl.mask
theorem wholeLanes_spec {x mask : Mask} (some_ : mask ≠ 0#1024) (inside : x &&& ~~~mask = 0#1024) : wholeLanes x mask ≠ 0#1024 ∧ wholeLanes x mask &&& ~~~mask = 0#1024 := by
  unfold wholeLanes
  split
  · exact ⟨some_, BitVec.and_not_self mask⟩
  · exact ⟨‹_›, inside⟩

section
variable {cl : Clause} (h : s.laneAt r c t cl) (fresh : t.restart = none)
include h

theorem laneFetchFault_at (cause : ℕ) (z : Option ℕ) : s.laneFetchFault r c t cause z =
    if cl.mask = 0#1024 then
      s.putTeam r (t.laneDone (match (s.fetchWords c.core (cl.addr + 16 + 12 * t.lidx) 1).2 with
        | .ok ws => if (decodeHead 0#32 (ws.getD 0 0#32)).retain = 0#2 then none else some []
        | .error _ => none))
    else (s.putTeam r (t.laneFault cause (wholeLanes (s.wouldExecute c t cl) cl.mask) none cl.addr)).notePool r false z := by
  obtain ⟨-, head, started, free, more⟩ := h
  obtain ⟨rest, queue⟩ := List.head?_eq_some_iff.mp head
  simp only [State.laneFetchFault, queue, started, free]
  rw [if_neg (by simp [more])] <;> (split <;> rfl)

include fresh in
/-- A fetch or encoding that fails in the lane stream faults the team, with the record of 17 R342. -/
theorem laneFetchFault_faults (some_ : cl.mask ≠ 0#1024) (cause : ℕ) (z : Option ℕ) : ∃ c' u, (s.laneFetchFault r c t cause z).teamAt r = some (c', u) ∧ u.trapCause = BitVec.ofNat 28 cause ∧
    u.faulted = true ∧ u.trapLane = true ∧ u.trapPc = (if t.faulted then t.trapPc else t.pc.setWidth 56) ∧ u.trapLclause = BitVec.ofNat 56 cl.addr ∧
    u.trapLidx = BitVec.ofNat 4 t.lidx ∧ u.lfm ≠ 0#1024 ∧ u.lfm &&& ~~~cl.mask = 0#1024 ∧ u.vregs = t.vregs ∧ u.queues = t.queues ∧ u.pc = t.pc := by
  obtain ⟨c', team⟩ := exists_teamAt_putTeam_notePool h.1.2 (t.laneFault cause (wholeLanes (s.wouldExecute c t cl) cl.mask) none cl.addr) false z
  obtain ⟨lanes, inside⟩ := wholeLanes_spec some_ (wouldExecute_subset s c fresh cl)
  rw [laneFetchFault_at h, if_neg some_]
  exact ⟨c', _, team, rfl, rfl, rfl, rfl, rfl, rfl, lanes, inside, rfl, rfl, rfl⟩
theorem laneFetchFault_passes (empty : cl.mask = 0#1024) (cause : ℕ) (z : Option ℕ) : ∃ b, s.laneFetchFault r c t cause z = s.putTeam r (t.laneDone b) ∧ (b = none ∨ b = some []) := by
  rw [laneFetchFault_at h, if_pos empty]
  refine ⟨_, rfl, ?_⟩
  split
  · split
    · exact .inl rfl
    · exact .inr rfl
  · exact .inl rfl
end
end

/-- Settles O18. -/
theorem trapEntryAndReturn : Obligations.TrapEntryAndReturn := by
  refine ⟨⟨fun t cause code save small short => t.trap_spec save small short, fun s r c t acts => ⟨fun code => ?_, fun priv => ?_, fun user => ?_, ?_, fun why at_ => ?_⟩,
    fun s r c t cause z team => scalarFault_spec team cause z⟩, fun s r c t cl at_ fresh why addr => ⟨fun some_ => ?_, fun empty => ?_⟩⟩
  · obtain ⟨c', team⟩ := exists_teamAt_putTeam_notePool acts.2 (t.trap causeSoftware code.toNat (t.pc + 4#64)) false none
    exact ⟨_, c', exec_trap acts code, team, sameBytes_of_mem (by simp)⟩
  · rw [exec_eret acts, if_pos priv]
    rfl
  · rw [exec_eret acts, if_neg (by simp [user])]
    rfl
  · obtain ⟨c', team, bytes⟩ := scalarFault_spec acts.2 causeEncoding none
    exact ⟨_, c', exec_unassignedEncoding_scalar acts, team, bytes⟩
  · obtain ⟨z, runs⟩ := exec_instructionFetchFault_scalar acts why at_
    obtain ⟨c', team⟩ := exists_teamAt_putTeam_notePool acts.2 (t.trap (fetchCause why) 0 at_) false z
    refine ⟨_, c', runs, team.trans ?_, sameBytes_of_mem (by simp)⟩
    cases why <;> rfl
  · obtain ⟨z, runs⟩ := exec_instructionFetchFault_lane at_.1 why addr
    obtain ⟨c1, t1, team1, cause1, rest1⟩ := laneFetchFault_faults at_ fresh some_ causeEncoding none
    obtain ⟨c2, t2, team2, cause2, rest2⟩ := laneFetchFault_faults at_ fresh some_ (fetchCause why) z
    refine ⟨_, _, c1, c2, t1, t2, exec_unassignedEncoding_lane at_.1, team1, runs, team2, cause1, cause2.trans ?_, ?_⟩
    · cases why <;> rfl
    · rintro u (rfl | rfl)
      · exact rest1
      · exact rest2
  · obtain ⟨b, passes, buffer⟩ := laneFetchFault_passes at_ empty causeEncoding none
    exact ⟨b, (exec_unassignedEncoding_lane at_.1).trans (congrArg _ passes), buffer⟩

end Sys2Proof.Machine

namespace Sys2Proof.Machine

/-! ### Bytes of payloads and answers -/

theorem length_leBytes (n : ℕ) : ∀ v, (leBytes n v).length = n := by
  induction n with
  | zero => exact fun _ => rfl
  | succ n ih => exact fun v => congrArg (· + 1) (ih (v / 256))
/-- The bytes as the statements write them. -/
theorem range_map_leBytes (n v : ℕ) : (List.range n).map (fun i => BitVec.ofNat 8 (v / 256 ^ i)) = leBytes n v := by
  induction n generalizing v with
  | zero => rfl
  | succ n ih =>
    rw [List.range_succ_eq_map, List.map_cons, List.map_map, leBytes, ← ih (v / 256)]
    refine congrArg₂ _ (by simp) (List.map_congr_left fun i _ => ?_)
    simp [Nat.pow_succ', Nat.div_div_eq_div_mul]
theorem payAt_append_left {l1 : List Byte} {off n : ℕ} (inside : off + n ≤ l1.length) (l2 : List Byte) : payAt (l1 ++ l2) off n = payAt l1 off n := by
  rw [payAt, payAt, List.drop_append_of_le_length (by omega), List.take_append_of_le_length (by rw [List.length_drop]; omega)]
theorem payAt_append_right {l1 : List Byte} {off : ℕ} (beyond : l1.length ≤ off) (l2 : List Byte) (n : ℕ) : payAt (l1 ++ l2) off n = payAt l2 (off - l1.length) n := by
  rw [payAt, payAt, List.drop_append, List.drop_eq_nil_of_le beyond, List.nil_append]
theorem payAt_leBytes (n v : ℕ) : payAt (leBytes n v) 0 n = v % 256 ^ n := by
  rw [payAt, List.drop_zero, List.take_of_length_le (length_leBytes n v).le, Tests.bytesNat_leBytes]
theorem payAt_take {l : List Byte} {off n k : ℕ} (inside : off + n ≤ k) : payAt (l.take k) off n = payAt l off n := by
  rw [payAt, payAt, List.drop_take, List.take_take, Nat.min_eq_left (by omega)]
theorem length_padTo (n : ℕ) (l : List Byte) : (padTo n l).length = n := by
  rw [padTo, List.length_append, List.length_take, List.length_replicate]
  omega
theorem payAt_padTo {l : List Byte} {off n k : ℕ} (short : off + n ≤ k) (inside : off + n ≤ l.length) : payAt (padTo k l) off n = payAt l off n := by
  rw [padTo, payAt_append_left (by rw [List.length_take]; omega), payAt_take short]

/-! ### The mailbox -/

/-- The mailbox takes a command. -/
structure State.takesCommand (s : State) : Prop where
  usable : s.usable = true
  quiescing : s.quiescing = none
  idle : s.mailboxRun = none

/-- A mailbox command ends with this code in a state such as `f` says, and raises vector 0 where the mailbox interrupt is enabled. -/
abbrev State.answers (s : State) (i : Instr) (code : ℕ) (f : State → Prop) : Prop :=
  ∃ s', exec i s = .next s' ∧ s'.reply.map (·.code) = some code ∧ s'.msix.getLsbD 0 = (s.mailboxIrq || s.msix.getLsbD 0) ∧ f s'

/-- Nothing but the mailbox's answer changes. -/
abbrev State.onlyAnswers (s s' : State) : Prop := { s' with reply := s.reply, msix := s.msix } = s

theorem mailbox_busy {s : State} {op : ℕ} {p : List Byte} (busy : s.mailboxFree op p = false) (n : ℕ) (f : State → State) : mailbox s op p n f = .next s := by
  rw [mailbox, busy]
  rfl
section
variable {s : State} (takes : s.takesCommand)
include takes

theorem State.takesCommand.free (op : ℕ) (p : List Byte) : s.mailboxFree op p = true := by simp [State.mailboxFree, takes.usable, takes.quiescing, takes.idle]
theorem mailbox_short {op n : ℕ} {p : List Byte} (short : p.length < n) (f : State → State) : mailbox s op p n f = .next (s.answer rcInvalid []) := by
  rw [mailbox, takes.free, if_pos short]
  rfl
theorem mailbox_runs {op n : ℕ} {p : List Byte} (long : n ≤ p.length) (f : State → State) : mailbox s op p n f = .next (f s) := by
  rw [mailbox, takes.free, if_neg (Nat.not_lt.mpr long)]
  rfl
theorem onlyAnswers_answer (code : ℕ) (out : List Byte) : s.onlyAnswers (s.answer code out) := by
  have idle := takes.idle
  cases s
  subst idle
  rfl
end
theorem answer_msix (u : State) (code : ℕ) (out : List Byte) : (u.answer code out).msix.getLsbD 0 = (u.mailboxIrq || u.msix.getLsbD 0) := by
  cases irq : u.mailboxIrq <;> simp [State.answer, irq]
theorem answers_of {s u : State} {i : Instr} {code : ℕ} {out : List Byte} {f : State → Prop} (runs : exec i s = .next (u.answer code out)) (irq : u.mailboxIrq = s.mailboxIrq)
    (msix : u.msix = s.msix) (holds : f (u.answer code out)) : s.answers i code f :=
  ⟨_, runs, rfl, by rw [answer_msix, irq, msix], holds⟩
theorem answers_self {s : State} {i : Instr} {code : ℕ} {out : List Byte} {f : State → Prop} (runs : exec i s = .next (s.answer code out)) (holds : f (s.answer code out)) : s.answers i code f :=
  answers_of runs rfl rfl holds
/-- A command that is refused changes nothing but the answer. -/
theorem answers_only {s : State} (takes : s.takesCommand) {i : Instr} {code : ℕ} {out : List Byte} (runs : exec i s = .next (s.answer code out)) : s.answers i code s.onlyAnswers :=
  answers_self runs (onlyAnswers_answer takes code out)
/-- A command whose payload is too short is refused. -/
theorem answers_short {s : State} (takes : s.takesCommand) {i : Instr} {op n : ℕ} {p : List Byte} {f : State → State} (runs : exec i s = mailbox s op p n f) (short : p.length < n) :
    s.answers i 2 s.onlyAnswers := answers_only takes (runs.trans (mailbox_short takes short f))

end Sys2Proof.Machine

namespace Sys2Proof.Machine

/-! ### What leaves the crews and the mailbox's answer as they are -/

/-- The package without what sending to other members, a stamp and the end of a launch change. -/
def State.outsideLaunch (s : State) : State := { s.outsideMemory with launches := [], outbox := [], ports := [], spanNodes := [], commands := [] }

theorem outsideLaunch_of_memory {s s' : State} (h : s'.outsideMemory = s.outsideMemory) : s'.outsideLaunch = s.outsideLaunch := by
  rw [State.outsideLaunch, h]
  rfl
theorem State.send_outsideLaunch (s : State) (kind dst : ℕ) (tag : BitVec 32) (payload : List Byte) : (s.send kind dst tag payload).outsideLaunch = s.outsideLaunch := by
  unfold State.send State.route State.sendOn
  split
  · split
    · rfl
    · obtain ⟨p, counted⟩ := count_eq _ _ _ _
      dsimp only
      rw [counted]
      rfl
  · rfl
theorem foldl_outsideLaunch {α : Type} {f : State → α → State} (keeps : ∀ s x, (f s x).outsideLaunch = s.outsideLaunch) (l : List α) (s : State) :
    (l.foldl f s).outsideLaunch = s.outsideLaunch := by
  induction l generalizing s with
  | nil => rfl
  | cons x l ih => exact (ih _).trans (keeps s x)
theorem State.abortSpan_outsideLaunch (s : State) (m : Command) : (s.abortSpan m).outsideLaunch = s.outsideLaunch := by
  unfold State.abortSpan State.postNode
  split
  · rfl
  · exact foldl_outsideLaunch (fun u d => u.send_outsideLaunch _ _ _ _) _ _
theorem State.completeLaunch_outsideLaunch (s : State) (id : BitVec 32) : (s.completeLaunch id).outsideLaunch = s.outsideLaunch := by
  unfold State.completeLaunch
  split
  · rfl
  · dsimp only
    split
    · split
      · rfl
      · rename_i s1 stamped
        have same : s1.outsideLaunch = s.outsideLaunch := by
          split at stamped
          · cases stamped
            rfl
          · exact outsideLaunch_of_memory (stampWrite_outsideMemory stamped)
        split <;> exact same
    · rfl
/-- What of a package its fields outside a launch determine. -/
theorem outsideLaunch_fields {s s' : State} (h : s'.outsideLaunch = s.outsideLaunch) : s'.crews = s.crews ∧ s'.matrix = s.matrix ∧ s'.mailboxIrq = s.mailboxIrq ∧ s'.msix = s.msix :=
  ⟨(congrArg State.crews h :), (congrArg State.matrix h :), (congrArg State.mailboxIrq h :), (congrArg State.msix h :)⟩

/-! ### Crews that leave (13 R293; 21 R416) -/

theorem Team.landThrough_wl (through : Vote → Bool) (vs : List Vote) (t : Team) : (t.landThrough through vs).wl = t.wl := by
  induction vs generalizing t with
  | nil => rfl
  | cons v vs ih =>
    rw [Team.landThrough]
    split
    · exact ih _
    · rfl
theorem Team.landVotes_wl (t : Team) : t.landVotes.wl = t.wl := t.landThrough_wl _ _

/-- A crew that has left its core holds what it held. -/
theorem leaveCore_crew {s : State} {k : ℕ} {c : Crew} (here : s.crewAt k = some c) :
    ∃ c', (s.leaveCore k).crewAt k = some c' ∧ c'.place = none ∧ c'.teams.flatMap (fun t => t.wl) = c.teams.flatMap (fun t => t.wl) ∧ c'.state = c.state ∧ c'.launchId = c.launchId ∧
      (s.leaveCore k).mailboxIrq = s.mailboxIrq ∧ (s.leaveCore k).msix = s.msix := by
  cases place : c.place with
  | none =>
    have stays : s.leaveCore k = s := by simp [State.leaveCore, here, place]
    rw [stays]
    exact ⟨c, here, place, rfl, rfl, rfl, rfl, rfl⟩
  | some core =>
    have left := (leaveCore_left here place).1
    obtain ⟨p, o, m, eq⟩ := leaveCore_eq here place
    obtain ⟨cs, granted, -⟩ := grantRgrow_frame core 16 (State.putCrew { s with perf := p, accHold := s.accHold.filter (fun q => q.2.crew != k), offers := o, matrix := m } k (c.afterLeaving core))
    refine ⟨_, left.crew, rfl, ?_, rfl, rfl, ?_, ?_⟩
    · simp only [Crew.afterLeaving, List.flatMap_map, Team.landVotes_wl]
    · rw [eq, granted]
      rfl
    · rw [eq, granted]
      rfl

/-- The end of an abandoned crew leaves it, and the array. -/
theorem completeCrew_abandoned {s : State} {k : ℕ} {c : Crew} (here : s.crewAt k = some c) (gone : c.state = .abandoned) :
    ∃ tiles globals windows, (s.completeCrew k).crewAt k = some { c with tiles := tiles, globals := globals, windows := windows } ∧
      (s.completeCrew k).matrix = s.matrix ∧ (s.completeCrew k).mailboxIrq = s.mailboxIrq ∧ (s.completeCrew k).msix = s.msix := by
  unfold State.completeCrew
  rw [here]
  dsimp only
  rw [if_neg (by simp [gone])]
  split
  · obtain ⟨crews, matrix, irq, msix⟩ := outsideLaunch_fields ((s.putCrew k { c with tiles := [], globals := [], windows := List.replicate 16 windowReset }).completeLaunch_outsideLaunch c.launchId)
    refine ⟨[], [], List.replicate 16 windowReset, ?_, matrix, irq, msix⟩
    rw [State.crewAt, crews]
    exact crewAt_putCrew here _
  · exact ⟨c.tiles, c.globals, c.windows, here, rfl, rfl, rfl⟩

/-- A crew that is abandoned: its teams are gone, and what they held is owed. -/
def Crew.abandon (c : Crew) : Crew :=
  { c with state := .abandoned, teams := c.teams.map Team.gone, owed := c.teams.flatMap (·.wl), heldFaulted := false, placeable := false, growEvicted := false, capPending := false }
/-- The package without the array's commands of a crew, whose launch is marked. -/
def State.withoutCrew (s : State) (k : ℕ) (id : BitVec 32) : State :=
  { s with matrix := s.matrix.filter (fun m => m.team.crew != k), launches := s.launches.map (fun (l : Launch) => if l.id == id then { l with aborted := true } else l) }
/-- The spans of a crew end. -/
def State.abortSpans (s : State) (k : ℕ) : State := (s.commands.filter (fun m => m.crew == k)).foldl (fun s m => s.abortSpan m) s

theorem abandonCrew_eq {s : State} {k : ℕ} {c c1 : Crew} (here : s.crewAt k = some c) (live : c.state = .live) (left : (s.leaveCore k).crewAt k = some c1) :
    s.abandonCrew k = ((((s.leaveCore k).putCrew k c1.abandon).withoutCrew k c.launchId).abortSpans k).completeCrew k := by
  unfold State.abandonCrew
  rw [here]
  dsimp only
  rw [if_neg (by simp [live]), modCrew_eq left]
  rfl

/-- Abandoning a crew retires its teams, keeps what they held as owed, and takes it off the array. -/
theorem abandonCrew_spec {s : State} {k : ℕ} {c : Crew} (here : s.crewAt k = some c) (live : c.state = .live) :
    ∃ c', (s.abandonCrew k).crewAt k = some c' ∧ c'.state = .abandoned ∧ c'.place = none ∧ c'.heldFaulted = false ∧ (∀ t, t ∈ c'.teams → t.finished = true ∧ t.wl = []) ∧
      c'.owed = c.teams.flatMap (fun t => t.wl) ∧ (∀ m, m ∈ (s.abandonCrew k).matrix → m.team.crew ≠ k) ∧
      (s.abandonCrew k).mailboxIrq = s.mailboxIrq ∧ (s.abandonCrew k).msix = s.msix := by
  obtain ⟨c1, left, place, wl, -, -, irq1, msix1⟩ := leaveCore_crew here
  rw [abandonCrew_eq here live left]
  obtain ⟨crews, matrix, irq, msix⟩ := outsideLaunch_fields (foldl_outsideLaunch (fun s m => s.abortSpan_outsideLaunch m) _ (((s.leaveCore k).putCrew k c1.abandon).withoutCrew k c.launchId))
  have aborted : ((((s.leaveCore k).putCrew k c1.abandon).withoutCrew k c.launchId).abortSpans k).crewAt k = some c1.abandon := by
    rw [State.crewAt, State.abortSpans, crews]
    exact crewAt_putCrew left c1.abandon
  obtain ⟨tiles, globals, windows, ends, matrix', irq', msix'⟩ := completeCrew_abandoned aborted rfl
  refine ⟨_, ends, rfl, place, rfl, fun t member => ?_, wl, fun m member => ?_, irq'.trans (irq.trans irq1), msix'.trans (msix.trans msix1)⟩
  · obtain ⟨u, -, rfl⟩ := List.mem_map.mp member
    exact ⟨rfl, rfl⟩
  · rw [matrix', State.abortSpans, matrix] at member
    simpa using (List.mem_filter.mp member).2

end Sys2Proof.Machine

namespace Sys2Proof.Machine

/-! ### Mailbox commands on crews, launches, units and records -/

/-- The crew that a payload names by launch and crew. -/
abbrev namedCrew (p : List Byte) (c : Crew) : Bool := c.launchId.toNat == payAt p 0 4 && c.crewId.toNat == payAt p 4 4

section
variable {s : State} {p : List Byte}

theorem findCrew_eq {k : ℕ} {c : Crew} (index : s.crews.findIdx (namedCrew p) = k) (here : s.crewAt k = some c) : s.findCrew (payAt p 0 4) (payAt p 4 4) = some k := by
  unfold State.findCrew
  dsimp only
  rw [index, if_pos (List.getElem?_eq_some_iff.mp here).1]
/-- What the payload names is a crew that it names. -/
theorem named_of_findCrew {k : ℕ} (found : s.findCrew (payAt p 0 4) (payAt p 4 4) = some k) : ∃ c, s.crewAt k = some c ∧ c ∈ s.crews ∧ namedCrew p c = true := by
  unfold State.findCrew at found
  dsimp only at found
  split at found
  · rename_i inside
    cases found
    exact ⟨_, List.getElem?_eq_getElem inside, List.getElem_mem inside, List.findIdx_getElem (w := inside)⟩
  · cases found
theorem heldCrew_eq {k : ℕ} {c : Crew} (index : s.crews.findIdx (namedCrew p) = k) (here : s.crewAt k = some c) (held : c.heldFaulted = true) (live : c.state = .live) :
    s.heldCrew p = some k := by
  simp [State.heldCrew, findCrew_eq index here, here, held, live]
theorem heldCrew_none (none_ : ∀ c, c ∈ s.crews → namedCrew p c = true → c.heldFaulted = false) : s.heldCrew p = none := by
  unfold State.heldCrew
  split
  · rfl
  · rename_i k found
    obtain ⟨c, here, member, named⟩ := named_of_findCrew found
    simp [here, none_ c member named]
theorem releaseCrews_eq {k : ℕ} {c : Crew} (one : payAt p 4 4 ≠ 0xFFFFFFFF) (index : s.crews.findIdx (namedCrew p) = k) (here : s.crewAt k = some c) (gone : c.state = .abandoned)
    (holds : c.released = false) : s.releaseCrews (payAt p 0 4) (payAt p 4 4) = some [k] := by
  simp [State.releaseCrews, one, findCrew_eq index here, here, gone, holds]
theorem releaseCrews_none (one : payAt p 4 4 ≠ 0xFFFFFFFF) (none_ : ∀ c, c ∈ s.crews → namedCrew p c = true → c.state ≠ .abandoned ∨ c.released = true) :
    s.releaseCrews (payAt p 0 4) (payAt p 4 4) = none := by
  unfold State.releaseCrews
  rw [if_neg one]
  split
  · rfl
  · rename_i k found
    obtain ⟨c, here, member, named⟩ := named_of_findCrew found
    obtain live | released := none_ c member named
    · simp [here, live]
    · simp [here, released]
theorem openLaunch_none {id : ℕ} (done : ∀ l, l ∈ s.launches → l.id.toNat = id → l.state = .completed) : s.openLaunch id = none := by
  refine List.find?_eq_none.mpr (fun l member opened => ?_)
  obtain ⟨same, running⟩ := Bool.and_eq_true_iff.mp opened
  simp [done l member (by simpa using same)] at running
theorem decayed_self (young : s.decayAge < 2 ^ 28) : s.decayed = s := by
  unfold State.decayed
  dsimp only
  rw [if_pos (by rw [Nat.div_eq_of_lt young]; rfl)]

/-! #### Launches -/

/-- The end of an eligible launch that no page, no gate and no crew keeps, and whose done stamp is nowhere. -/
theorem completeLaunch_alone {l : Launch} (only : s.launches = [l]) (eligible : l.state = .eligible) (free : l.ranges = []) (aborted : l.aborted = true) (crews : s.crews = [])
    (nowhere : recDone l.record = 0) : ∃ s', s.completeLaunch l.id = s' ∧ s'.launches = [{ l with state := .completed }] ∧ s'.mem = s.mem ∧
      raised s s' 1 (if recIrq l.record then 1 else 0) ∧ s'.mailboxIrq = s.mailboxIrq ∧ s'.msix = s.msix := by
  obtain ⟨-, -, irq, msix⟩ := outsideLaunch_fields (s.completeLaunch_outsideLaunch l.id)
  refine ⟨_, rfl, ?_, ?_, ?_, irq, msix⟩ <;>
    simp only [State.completeLaunch, only, crews, nowhere, List.find?_cons, beq_self_eq_true, eligible, free, List.isEmpty_nil, List.zipIdx_nil, List.all_nil, Bool.and_self, if_true, upsert]
  · split <;> rfl
  · split <;> rfl
  · split
    · exact raise_raised _ _ _ _ _ (by decide)
    · exact ⟨[], by simp, rfl, by simp⟩

theorem exec_launchAbandon (takes : s.takesCommand) (long : 4 ≤ p.length) {l : Launch} (opened : s.openLaunch (payAt p 0 4) = some l) (only : s.launches = [l]) (crews : s.crews = [])
    (open_ : l.state = .waiting ∨ l.state = .eligible) :
    exec (.launchAbandon p) s = .next (((s.putLaunch { l with state := .eligible, ranges := [], aborted := true }).completeLaunch l.id).answer rcSuccess []) := by
  rw [show exec (.launchAbandon p) s = execLaunchAbandon p s from rfl, execLaunchAbandon, mailbox_runs takes long, opened]
  dsimp only
  obtain waiting | eligible := open_
  · rw [if_pos waiting]
    rfl
  · have noCrew : s.crewsOf l = [] := by simp [State.crewsOf, crews]
    rw [if_neg (by simp [eligible]), noCrew, if_neg (by simp [State.cohortStopped]), ← eligible]
    rfl

/-! #### Holdings of an abandoned crew -/

theorem releaseCrew_one {k : ℕ} {c : Crew} {h : WlHold} (here : s.crewAt k = some c) (owed : c.owed = [h]) (some_ : 0 < h.items + (if h.seed then 1 else 0)) (holes : s.wlHoles = []) :
    s.releaseCrew k = { s with crews := s.crews.set k { c with owed := [], released := true }
                               wlChanges := s.wlChanges ++ [⟨⟨k, 0⟩, coreGang (12 * c.lastRegion), h.set, h.items + (if h.seed then 1 else 0)⟩] } := by
  have here' : State.crewAt { s with wlChanges := s.wlChanges ++ [⟨⟨k, 0⟩, coreGang (12 * c.lastRegion), h.set, h.items + (if h.seed then 1 else 0)⟩] } k = some c := here
  unfold State.releaseCrew
  rw [here]
  dsimp only
  rw [owed, State.retireAll, State.retireAll, if_neg (Nat.pos_iff_ne_zero.mp some_), modCrew_eq here', State.putCrew]
  dsimp only
  rw [holes]
  rfl
theorem owedSets_one {k : ℕ} {c : Crew} {h : WlHold} (here : s.crewAt k = some c) (owed : c.owed = [h]) (some_ : 0 < h.items + (if h.seed then 1 else 0)) (holes : s.wlHoles = []) :
    s.owedSets [k] = [h.set] := by
  have kept : (decide (0 < h.items) || h.seed) = true := by
    cases seed : h.seed
    · simpa [seed] using some_
    · simp
  simp [State.owedSets, here, owed, kept, holes]
  rfl

/-! #### Records -/

theorem recordBytes_length (i : ℕ) (r : Retirement) : (recordBytes i r).length = 4096 := length_padTo _ _
theorem payAt_recordBytes {i : ℕ} {r : Retirement} {off n : ℕ} (inside : off + n ≤ 30) : payAt (recordBytes i r) off n = payAt (leBytes 4 0x5452434F ++ (leBytes 2 1 ++ (leBytes 2 512 ++
    (leBytes 4 i ++ (leBytes 4 r.boot.toNat ++ (leBytes 8 r.mcyc.toNat ++ (leBytes 2 (unitId r.u) ++ ([r.reason, r.action] ++ leBytes 2 r.score.toNat)))))))) off n := by
  have body : (recordBody i r).length = 512 := length_padTo _ _
  unfold recordBytes
  dsimp only
  rw [payAt_padTo (by omega) (by rw [List.length_append, body]; omega), payAt_append_left (by rw [body]; omega)]
  unfold recordBody
  simp only [List.append_assoc]
  rw [payAt_padTo (by omega) (by simp only [List.length_append, length_leBytes]; omega)]
  simp only [← List.append_assoc]
  iterate 10 rw [payAt_append_left (by simp only [List.length_append, length_leBytes, List.length_cons, List.length_nil]; omega)]

/-- What a record's bytes say of the retirement that it is of. -/
theorem recordBytes_fields (r : Retirement) {i : ℕ} (small : i < 2 ^ 32) : payAt (recordBytes i r) 0 4 = 0x5452434F ∧ payAt (recordBytes i r) 8 4 = i ∧
    payAt (recordBytes i r) 12 4 = r.boot.toNat ∧ payAt (recordBytes i r) 24 2 = unitId r.u % 65536 ∧ payAt (recordBytes i r) 26 1 = r.reason.toNat ∧
    payAt (recordBytes i r) 27 1 = r.action.toNat ∧ payAt (recordBytes i r) 28 2 = r.score.toNat := by
  have boot := r.boot.isLt
  have score := r.score.isLt
  have fields : ∀ off n, off + n ≤ 30 → _ := fun off n => payAt_recordBytes (i := i) (r := r) (off := off) (n := n)
  simp only [fields, Nat.reduceAdd, Nat.reduceLeDiff, payAt_append_left, payAt_append_right, length_leBytes, payAt_leBytes, zero_add, Nat.reduceSub, List.length_cons, List.length_nil, tsub_zero, Nat.sub_self, le_refl]
  refine ⟨by decide, Nat.mod_eq_of_lt (by simpa using small), Nat.mod_eq_of_lt (by simpa using boot), rfl, ?_, ?_, Nat.mod_eq_of_lt (by simpa using score)⟩
  · simp [payAt, bytesNat]
  · simp [payAt, bytesNat]
end

section
variable {s : State} {p : List Byte} (takes : s.takesCommand) (long : 8 ≤ p.length)
include takes

theorem crewCommands_refused (long : 8 ≤ p.length) (none_ : s.heldCrew p = none) : s.answers (.crewResume p) 2 s.onlyAnswers ∧ s.answers (.crewAbandon p) 2 s.onlyAnswers := by
  constructor
  · refine answers_only takes (code := 2) (out := []) ?_
    rw [show exec (.crewResume p) s = execCrewResume p s from rfl, execCrewResume, mailbox_runs takes long, none_]
    rfl
  · refine answers_only takes (code := 2) (out := []) ?_
    rw [show exec (.crewAbandon p) s = execCrewAbandon p s from rfl, execCrewAbandon, mailbox_runs takes long, none_]
    rfl
theorem crewResume_answers (long : 8 ≤ p.length) {k : ℕ} {c : Crew} (named : s.heldCrew p = some k) (here : s.crewAt k = some c) :
    s.answers (.crewResume p) 0 (fun s' => s'.crewAt k = some { c with placeable := true } ∧ { s' with crews := s.crews, reply := s.reply, msix := s.msix } = s) := by
  have runs : exec (.crewResume p) s = .next ((s.putCrew k { c with placeable := true }).answer rcSuccess []) := by
    rw [show exec (.crewResume p) s = execCrewResume p s from rfl, execCrewResume, mailbox_runs takes long, named]
    dsimp only
    rw [modCrew_eq here]
  exact answers_of runs rfl rfl ⟨crewAt_putCrew here _, onlyAnswers_answer takes rcSuccess []⟩
theorem crewAbandon_answers (long : 8 ≤ p.length) {k : ℕ} {c : Crew} (named : s.heldCrew p = some k) (here : s.crewAt k = some c) (live : c.state = .live) :
    s.answers (.crewAbandon p) 0 (fun s' => ∃ c', s'.crewAt k = some c' ∧ c'.state = .abandoned ∧ c'.place = none ∧ c'.heldFaulted = false ∧ (∀ t, t ∈ c'.teams → t.finished = true ∧ t.wl = []) ∧
        c'.owed = c.teams.flatMap (·.wl) ∧ (∀ m, m ∈ s'.matrix → m.team.crew ≠ k)) := by
  obtain ⟨c', there, gone, place, held, teams, owed, matrix, irq, msix⟩ := abandonCrew_spec here live
  have runs : exec (.crewAbandon p) s = .next ((s.abandonCrew k).answer rcSuccess []) := by
    rw [show exec (.crewAbandon p) s = execCrewAbandon p s from rfl, execCrewAbandon, mailbox_runs takes long, named]
  exact answers_of runs irq msix ⟨c', there, gone, place, held, teams, owed, matrix⟩
theorem launchAbandon_answers (long : 8 ≤ p.length) {l : Launch} (opened : s.openLaunch (payAt p 0 4) = some l) (only : s.launches = [l]) (crews : s.crews = [])
    (open_ : l.state = .waiting ∨ l.state = .eligible) (nowhere : recDone l.record = 0) :
    s.answers (.launchAbandon p) 0 (fun s' => s'.launches.map (·.state) = [.completed] ∧ s'.launches.map (·.aborted) = [true] ∧ s'.launches.map (·.ranges) = [[]] ∧ s'.mem = s.mem ∧
      raised s s' 1 (if recIrq l.record then 1 else 0)) := by
  have put : (s.putLaunch { l with state := .eligible, ranges := [], aborted := true }).launches = [{ l with state := .eligible, ranges := [], aborted := true }] := by simp [State.putLaunch, only]
  obtain ⟨u, ends, launches, mem, events, irq, msix⟩ := completeLaunch_alone put rfl rfl rfl crews nowhere
  have runs := exec_launchAbandon takes (by omega) opened only crews open_
  change exec _ _ = .next ((State.completeLaunch _ l.id).answer _ _) at runs
  rw [ends] at runs
  exact answers_of runs irq msix ⟨by rw [State.answer, launches]; rfl, by rw [State.answer, launches]; rfl, by rw [State.answer, launches]; rfl, mem, events⟩
theorem wlRelease_answers (long : 8 ≤ p.length) {k : ℕ} {c : Crew} {h : WlHold} (named : s.releaseCrews (payAt p 0 4) (payAt p 4 4) = some [k]) (here : s.crewAt k = some c) (owed : c.owed = [h])
    (some_ : 0 < h.items + (if h.seed then 1 else 0)) (holes : s.wlHoles = []) :
    s.answers (.wlRelease p) 0 (fun s' => s'.reply.map (·.out) = some [1#8, 0#8, 0#8, 0#8] ∧ (s'.crewAt k).map (·.owed) = some [] ∧ (s'.crewAt k).map (·.released) = some true ∧
        (∃ w, s'.wlChanges = s.wlChanges ++ [w] ∧ w.set = h.set ∧ w.retire = h.items + (if h.seed then 1 else 0)) ∧ s'.mem = s.mem) := by
  have runs : exec (.wlRelease p) s = .next ((s.releaseCrew k).answer rcSuccess (leBytes 4 1)) := by
    rw [show exec (.wlRelease p) s = execWlRelease p s from rfl, execWlRelease, mailbox_runs takes long, named]
    dsimp only
    rw [owedSets_one here owed some_ holes]
    rfl
  rw [releaseCrew_one here owed some_ holes] at runs
  have there : (s.crews.set k { c with owed := [], released := true })[k]? = some { c with owed := [], released := true } := crewAt_putCrew here _
  exact answers_of runs rfl rfl ⟨rfl, congrArg (Option.map Crew.owed) there, congrArg (Option.map Crew.released) there, ⟨_, rfl, rfl, rfl⟩, rfl⟩
theorem unitStatus_answers (long : 8 ≤ p.length) (young : s.decayAge < 2 ^ 28) {x : LeasedUnit} (unit : s.statusUnit (payAt p 0 1) (payAt p 2 2) = some x) :
    s.answers (.unitStatus p) 0 (fun s' => s.onlyAnswers s' ∧ s'.reply.map (·.out) = some [BitVec.ofNat 8 x.state, 0#8, BitVec.ofNat 8 x.score.toNat, BitVec.ofNat 8 (x.score.toNat / 256)]) := by
  have runs : exec (.unitStatus p) s = .next (s.answer rcSuccess (leBytes 1 x.state ++ leBytes 1 0 ++ leBytes 2 x.score.toNat)) := by
    rw [show exec (.unitStatus p) s = execUnitStatus p s from rfl, execUnitStatus, mailbox_runs takes (by omega)]
    dsimp only
    rw [decayed_self young, unit]
  exact answers_self runs ⟨onlyAnswers_answer takes _ _, rfl⟩
theorem recordRead_answers (long : 8 ≤ p.length) {r : Retirement} (kept : s.nv.records[payAt p 0 4]? = some r) :
    s.answers (.recordRead p) 0 (fun s' => s.onlyAnswers s' ∧ s'.reply.map (·.out.length) = some 4096 ∧
      (∀ o, s'.reply.map (·.out) = some o → payAt o 0 4 = 0x5452434F ∧ payAt o 8 4 = payAt p 0 4 ∧ payAt o 12 4 = r.boot.toNat ∧ payAt o 24 2 = unitId r.u % 65536 ∧ payAt o 26 1 = r.reason.toNat ∧
        payAt o 27 1 = r.action.toNat ∧ payAt o 28 2 = r.score.toNat)) := by
  have runs : exec (.recordRead p) s = .next (s.answer rcSuccess (recordBytes (payAt p 0 4) r)) := by
    rw [show exec (.recordRead p) s = execRecordRead p s from rfl, execRecordRead, mailbox_runs takes (by omega)]
    dsimp only
    rw [kept]
  refine answers_self runs ⟨onlyAnswers_answer takes _ _, congrArg some (recordBytes_length _ _), ?_⟩
  intro o out
  rw [← Option.some.inj out]
  exact recordBytes_fields r (payAt_lt p 0 4)
theorem unitStatus_refused (long : 8 ≤ p.length) (young : s.decayAge < 2 ^ 28) (none_ : s.statusUnit (payAt p 0 1) (payAt p 2 2) = none) : s.answers (.unitStatus p) 2 s.onlyAnswers := by
  refine answers_only takes (code := 2) (out := []) ?_
  rw [show exec (.unitStatus p) s = execUnitStatus p s from rfl, execUnitStatus, mailbox_runs takes (by omega)]
  dsimp only
  rw [decayed_self young, none_]
  rfl
theorem recordRead_refused (long : 8 ≤ p.length) (beyond : s.nv.records.length ≤ payAt p 0 4) : s.answers (.recordRead p) 2 s.onlyAnswers := by
  refine answers_only takes (code := 2) (out := []) ?_
  rw [show exec (.recordRead p) s = execRecordRead p s from rfl, execRecordRead, mailbox_runs takes (by omega)]
  dsimp only
  rw [List.getElem?_eq_none beyond]
  rfl
theorem launchAbandon_refused (long : 8 ≤ p.length) (none_ : s.openLaunch (payAt p 0 4) = none) : s.answers (.launchAbandon p) 2 s.onlyAnswers := by
  refine answers_only takes (code := 2) (out := []) ?_
  rw [show exec (.launchAbandon p) s = execLaunchAbandon p s from rfl, execLaunchAbandon, mailbox_runs takes (by omega), none_]
  rfl
theorem wlRelease_refused (long : 8 ≤ p.length) (none_ : s.releaseCrews (payAt p 0 4) (payAt p 4 4) = none) : s.answers (.wlRelease p) 2 s.onlyAnswers := by
  refine answers_only takes (code := 2) (out := []) ?_
  rw [show exec (.wlRelease p) s = execWlRelease p s from rfl, execWlRelease, mailbox_runs takes long, none_]
  rfl
end

/-- Settles O51. -/
theorem crewAndRecordCommands : Obligations.CrewAndRecordCommands := by
  intro s p usable quiescing idle long answers same named
  have takes : s.takesCommand := ⟨usable, quiescing, idle⟩
  refine ⟨fun q short => ?_, fun none_ => crewCommands_refused takes long (heldCrew_none none_), fun k c index here held live => ?_, fun done => launchAbandon_refused takes long (openLaunch_none done),
    fun l opened only crews open_ nowhere => launchAbandon_answers takes long opened only crews open_ nowhere, fun one none_ => wlRelease_refused takes long (releaseCrews_none one none_),
    fun k c h one index here gone holds owed some_ holes => wlRelease_answers takes long (releaseCrews_eq one index here gone holds) here owed some_ holes,
    fun young none_ => unitStatus_refused takes long young none_, fun x young unit _ => unitStatus_answers takes long young unit, fun beyond => recordRead_refused takes long beyond,
    fun r kept => recordRead_answers takes long kept⟩
  · exact ⟨answers_short takes (show exec (.launchAbandon q) s = execLaunchAbandon q s from rfl) short, answers_short takes (show exec (.unitStatus q) s = execUnitStatus q s from rfl) short,
      answers_short takes (show exec (.recordRead q) s = execRecordRead q s from rfl) short⟩
  · exact ⟨crewResume_answers takes long (heldCrew_eq index here held live) here, crewAbandon_answers takes long (heldCrew_eq index here held live) here live⟩

end Sys2Proof.Machine

namespace Sys2Proof.Machine

/-! ### What lines accepted and blocks loaded leave unchanged (21 R407, R414) -/

theorem foldl_outsideMemory {α : Type} {f : State → α → State} (keeps : ∀ s x, (f s x).outsideMemory = s.outsideMemory) (l : List α) (s : State) :
    (l.foldl f s).outsideMemory = s.outsideMemory := by
  induction l generalizing s with
  | nil => rfl
  | cons x l ih => exact (ih _).trans (keeps s x)
theorem outsideMemory_fst {α : Type} {s u : State} {p : State × α} {x : α} (h : p.1.outsideMemory = s.outsideMemory) (e : p = (u, x)) : u.outsideMemory = s.outsideMemory := by
  subst e
  exact h
theorem State.drainLine_outsideMemory (s : State) (die : ℕ) : (s.drainLine die).outsideMemory = s.outsideMemory := by
  unfold State.drainLine
  split <;> rfl
theorem State.acceptLine_outsideMemory (s : State) (pa : ℕ) (d : BitVec 512) : (s.acceptLine pa d).outsideMemory = s.outsideMemory := by
  unfold State.acceptLine
  split
  · rfl
  · have room : (if s.ballastRoom (paDie pa) = true then s else s.drainLine (paDie pa)).outsideMemory = s.outsideMemory := by
      split
      · rfl
      · exact s.drainLine_outsideMemory _
    exact room
theorem State.acceptBytes_outsideMemory (s : State) (pa : ℕ) (b : List Byte) : (s.acceptBytes pa b).outsideMemory = s.outsideMemory :=
  foldl_outsideMemory (fun u i => u.acceptLine_outsideMemory _ _) _ s
theorem State.writeRecord_outsideMemory (s : State) (r : StepRecord) : (s.writeRecord r).outsideMemory = s.outsideMemory := s.acceptBytes_outsideMemory _ _
theorem State.hostStore_outsideMemory (s : State) (pa : ℕ) (b : List Byte) : (s.hostStore pa b).outsideMemory = s.outsideMemory :=
  foldl_outsideMemory (fun u p => by split <;> rfl) _ s
theorem State.loadWrite_outsideMemory (s : State) (pa : ℕ) (b : List Byte) : (s.loadWrite pa b).outsideMemory = s.outsideMemory := by
  unfold State.loadWrite
  split
  · exact s.acceptLine_outsideMemory _ _
  · exact s.hostStore_outsideMemory _ _
theorem State.loadBytes_outsideMemory (n : ℕ) (s : State) (va : ℕ) (b : List Byte) : (s.loadBytes va n b).1.outsideMemory = s.outsideMemory := by
  induction n generalizing s va b with
  | zero => rfl
  | succ n ih =>
    rw [State.loadBytes]
    have walked := translate_outsideMemory s none 0 va false
    split
    · rfl
    · dsimp only
      split
      · exact (ih _ _ _).trans ((State.loadWrite_outsideMemory _ _ _).trans (outsideMemory_fst walked ‹_›))
      · exact outsideMemory_fst walked ‹_›
theorem State.loadPoison_outsideMemory (s : State) (va : ℕ) (l : List ℕ) : (s.loadPoison va l).outsideMemory = s.outsideMemory := by
  refine foldl_outsideMemory (fun u i => ?_) l s
  have walked := translate_outsideMemory u none 0 (va + 64 * i) false
  split
  · rename_i u1 _ _ there
    exact (outsideMemory_fst walked there : u1.outsideMemory = u.outsideMemory)
  · exact outsideMemory_fst walked ‹_›
theorem State.loadBlock_outsideMemory (s : State) (n : BitVec 32) (unit va : ℕ) : (s.loadBlock n unit va).1.outsideMemory = s.outsideMemory := by
  unfold State.loadBlock
  dsimp only
  generalize made : s.loadBytes va 65 (s.memBytes (s.comet.unitAddr n unit) 4096) = p
  have loaded : p.1.outsideMemory = s.outsideMemory := made ▸ State.loadBytes_outsideMemory _ _ _ _
  obtain ⟨u, done⟩ := p
  cases done with
  | true => exact (State.loadPoison_outsideMemory _ _ _).trans loaded
  | false => exact loaded
theorem State.setTracked_outsideMemory (s : State) (va : ℕ) : (s.setTracked va).outsideMemory = s.outsideMemory := by
  unfold State.setTracked
  split <;> rfl
theorem State.loadPages_outsideMemory (n : BitVec 32) (l : List LoadEntry) (s : State) : (s.loadPages n l).1.outsideMemory = s.outsideMemory := by
  induction l generalizing s with
  | nil => rfl
  | cons e l ih =>
    rw [loadPages_cons]
    have loaded := s.loadBlock_outsideMemory n e.unit e.key
    generalize s.loadBlock n e.unit e.key = p at loaded ⊢
    split
    · exact ih s
    split
    · exact (ih _).trans ((State.setTracked_outsideMemory _ _).trans loaded)
    · exact loaded
theorem State.loadTiles_outsideMemory (n : BitVec 32) (l : List LoadEntry) (s : State) (va : ℕ) : (s.loadTiles n va l).1.outsideMemory = s.outsideMemory := by
  induction l generalizing s va with
  | nil => rfl
  | cons e l ih =>
    rw [loadTiles_cons]
    have loaded := s.loadBlock_outsideMemory n e.unit va
    generalize s.loadBlock n e.unit va = p at loaded ⊢
    split
    · exact (ih _ _).trans loaded
    · exact loaded
theorem State.loadKind2_outsideMemory (s : State) (n : BitVec 32) (a : ℕ) (es : List LoadEntry) : (s.loadKind2 n a es).1.outsideMemory = s.outsideMemory := by
  unfold State.loadKind2
  dsimp only
  split
  · exact (State.loadTiles_outsideMemory _ _ _ _).trans (outsideMemory_fst (State.loadBytes_outsideMemory _ _ _ _) ‹_›)
  · exact outsideMemory_fst (State.loadBytes_outsideMemory _ _ _ _) ‹_›

end Sys2Proof.Machine

namespace Sys2Proof.Machine

/-! ### Comet's mailbox commands (21 R409, R413, R414, R419) -/

/-- The first two bytes of an answer: its status. -/
abbrev State.statusIs (s' : State) (n : ℕ) : Prop := s'.reply.map (fun y => bytesNat (y.out.take 2)) = some n

theorem take_leBytes {n k : ℕ} (short : k ≤ n) (v : ℕ) : (leBytes n v).take k = leBytes k v := by
  induction n generalizing k v with
  | zero =>
    obtain rfl : k = 0 := by omega
    rfl
  | succ n ih =>
    cases k with
    | zero => rfl
    | succ k => rw [leBytes, List.take_succ_cons, ih (by omega), leBytes]
theorem payAt_leBytes_prefix {n k : ℕ} (short : k ≤ n) (v : ℕ) : payAt (leBytes n v) 0 k = v % 256 ^ k := by
  rw [payAt, List.drop_zero, take_leBytes short, Tests.bytesNat_leBytes]
theorem statusIs_answer (u : State) (code n : ℕ) (rest : List Byte) (small : n < 65536) : (u.answer code (leBytes 2 n ++ rest)).statusIs n := by
  refine congrArg some ?_
  change bytesNat ((leBytes 2 n ++ rest).take 2) = n
  rw [List.take_append_of_le_length (by rw [length_leBytes]), List.take_of_length_le (by rw [length_leBytes]), Tests.bytesNat_leBytes]
  exact Nat.mod_eq_of_lt small
theorem statusIs_answer_only (u : State) (code n : ℕ) (small : n < 65536) : (u.answer code (leBytes 2 n)).statusIs n := by
  have status := statusIs_answer u code n [] small
  rwa [List.append_nil] at status

theorem mem_idle_tracked (k : Comet) (l : BitVec 32) : l ∈ k.idle.tracked ↔ (l ∈ k.tracked ∧ l ∉ k.leaving) ∨ (l ∈ k.joining ∧ l ∉ k.tracked) := by simp [Comet.idle]

/-- The newest committed step depends on the areas and on memory, not on what Comet holds of it. -/
theorem newestCommitted_setCommitted (s : State) (n : Option (BitVec 32)) : State.newestCommitted { s with comet := { s.comet with committed := n } } = s.newestCommitted := rfl

section
variable {s : State} (takes : s.takesCommand)
include takes

/-! #### COMET_CONFIG -/

/-- Whether the words of a COMET_CONFIG are in range. -/
abbrev cometArea (b u pb pl : ℕ) : Prop := b % 2 ^ 20 = 0 ∧ u % 8 = 0 ∧ 2 ^ 44 ≤ b ∧ b + 2 ^ 20 + 10240 * u ≤ 2 ^ 44 + 2 ^ 42 ∧ pb % 4096 = 0 ∧ pb + pl ≤ 2 ^ 40
/-- Comet as a COMET_CONFIG leaves it, but for the newest committed step of the area. -/
def Comet.configure (k : Comet) (b u pb pl : ℕ) : Comet :=
  { tracked := k.idle.tracked, suspended := k.suspended, configured := true, base := b, units := u, presBase := pb, presLen := pl
    earlier := if k.configured then (k.base, k.units) :: k.earlier.filter (fun a => a != (k.base, k.units)) else k.earlier }

theorem exec_cometConfig {b u pb pl : ℕ} (unitsFit : u < 2 ^ 32) (baseFits : b < 2 ^ 64) (presFits : pb < 2 ^ 64) (lenFits : pl < 2 ^ 64) :
    exec (.cometConfig (leBytes 8 b ++ leBytes 8 u ++ leBytes 8 pb ++ leBytes 8 pl)) s = .next (
      if ¬cometArea b u pb pl then s.answer rcInvalid []
      else if s.comet.capture.isSome ∧ s.comet.suspended = false then s.answer rcBusy []
      else { s with comet := { s.comet.configure b u pb pl with committed := State.newestCommitted { s with comet := s.comet.configure b u pb pl } } }.answer rcSuccess []) := by
  rw [show exec (.cometConfig (leBytes 8 b ++ leBytes 8 u ++ leBytes 8 pb ++ leBytes 8 pl)) s = execCometConfig (leBytes 8 b ++ leBytes 8 u ++ leBytes 8 pb ++ leBytes 8 pl) s from rfl,
    execCometConfig, mailbox_runs takes (by simp [length_leBytes])]
  simp only [List.append_assoc, Nat.reduceLeDiff, payAt_append_left, payAt_append_right, length_leBytes, payAt_leBytes, payAt_leBytes_prefix, zero_add, Nat.reduceSub, Nat.sub_self, le_refl,
    Nat.reducePow, Nat.mod_eq_of_lt (show b < 18446744073709551616 from baseFits), Nat.mod_eq_of_lt (show u < 4294967296 from unitsFit), Nat.mod_eq_of_lt (show pb < 18446744073709551616 from presFits),
    Nat.mod_eq_of_lt (show pl < 18446744073709551616 from lenFits)]
  refine congrArg Host.Outcome.next (if_congr ?_ rfl rfl)
  unfold cometArea scmEnd
  omega


/-! #### COMET_TRACK -/

/-- Comet as a COMET_TRACK of a launch leaves it. -/
def Comet.track (k : Comet) (id : BitVec 32) (add : Bool) : Comet :=
  if k.capture.isNone then (if add then { k with tracked := k.tracked.filter (fun x => x != id) ++ [id] } else { k with tracked := k.tracked.filter (fun x => x != id) })
  else if add then { k with joining := k.joining.filter (fun x => x != id) ++ [id], leaving := k.leaving.filter (fun x => x != id) }
  else { k with leaving := k.leaving.filter (fun x => x != id) ++ [id], joining := k.joining.filter (fun x => x != id) }

omit takes in
theorem payAt_track (id : BitVec 32) (add : Bool) : payAt (leBytes 4 id.toNat ++ [if add then 1#8 else 0#8]) 0 4 = id.toNat ∧
    (payAt (leBytes 4 id.toNat ++ [if add then 1#8 else 0#8]) 4 1 % 2 == 1) = add := by
  constructor
  · rw [payAt_append_left (by rw [length_leBytes]), payAt_leBytes]
    exact Nat.mod_eq_of_lt id.isLt
  · rw [payAt_append_right (by rw [length_leBytes]), length_leBytes]
    cases add <;> rfl
theorem exec_cometTrack (id : BitVec 32) (add : Bool) : exec (.cometTrack (leBytes 4 id.toNat ++ [if add then 1#8 else 0#8])) s = .next (match s.openLaunch id.toNat with
    | none => s.answer rcInvalid []
    | some l => State.answer { s with comet := s.comet.track l.id add } rcSuccess []) := by
  obtain ⟨id_, add_⟩ := payAt_track id add
  rw [show exec (.cometTrack (leBytes 4 id.toNat ++ [if add then 1#8 else 0#8])) s = execCometTrack (leBytes 4 id.toNat ++ [if add then 1#8 else 0#8]) s from rfl,
    execCometTrack, mailbox_runs takes (by simp [length_leBytes]), id_]
  dsimp only
  rw [add_]
  cases s.openLaunch id.toNat <;> rfl
omit takes in
theorem Comet.track_idle {k : Comet} (idle : k.capture = none) (id : BitVec 32) (add : Bool) (x : BitVec 32) : x ∈ (k.track id add).tracked ↔ (x ∈ k.tracked ∧ x ≠ id) ∨ (add = true ∧ x = id) := by
  cases add <;> simp [Comet.track, idle]
omit takes in
theorem Comet.track_capturing {k : Comet} (capturing : k.capture.isSome = true) (id : BitVec 32) (add : Bool) :
    (k.track id add).tracked = k.tracked ∧ (id ∈ (k.track id add).joining ↔ add = true) ∧ (id ∈ (k.track id add).leaving ↔ add = false) := by
  have busy : k.capture.isNone = false := by rw [← Option.not_isSome, capturing]; rfl
  cases add <;> simp [Comet.track, busy]

/-! #### STEP_QUERY -/

/-- The units of the step that a STEP_QUERY counts as lost. -/
def State.queriedLoss (s : State) : ℕ :=
  match s.newestPrepared, s.newestCommitted, s.comet.committed with
  | some n, _, _ => s.lostUnits n
  | none, some n, _ => s.lostUnits n
  | none, none, some n => s.lostUnits n
  | none, none, none => 0
/-- The bytes of a STEP_QUERY's answer. -/
def State.queryBytes (s : State) : List Byte :=
  bit2 s.nv.powerLost s.nv.drained ++ leBytes 3 0 ++ stepBytes s.newestCommitted ++ bit2 s.newestCommitted.isSome s.comet.suspended ++ leBytes 3 0 ++ stepBytes s.newestPrepared ++
    bit2 s.newestPrepared.isSome false ++ leBytes 3 0 ++ leBytes 4 s.queriedLoss

theorem exec_stepQuery (q : List Byte) : exec (.stepQuery q) s = .next (s.answer rcSuccess s.queryBytes) := by
  rw [show exec (.stepQuery q) s = execStepQuery q s from rfl, execStepQuery, mailbox_runs takes (Nat.zero_le _)]
  rfl
omit takes in
theorem State.queryBytes_fields (s : State) : s.queryBytes.length = 24 ∧ payAt s.queryBytes 0 1 % 2 = (if s.nv.powerLost then 1 else 0) ∧ payAt s.queryBytes 4 4 = (s.newestCommitted.getD 0#32).toNat ∧
    payAt s.queryBytes 8 1 % 2 = (if s.newestCommitted.isSome then 1 else 0) ∧ payAt s.queryBytes 12 4 = (s.newestPrepared.getD 0#32).toNat ∧
    payAt s.queryBytes 16 1 = (if s.newestPrepared.isSome then 1 else 0) ∧ payAt s.queryBytes 20 4 = s.queriedLoss % 2 ^ 32 := by
  have fits (n : Option (BitVec 32)) : (n.getD 0#32).toNat % 256 ^ 4 = (n.getD 0#32).toNat := Nat.mod_eq_of_lt (n.getD 0#32).isLt
  have low (a b : Bool) : ((if a then 1 else 0) + (if b then 2 else 0)) % 256 ^ 1 % 2 = if a then 1 else 0 := by cases a <;> cases b <;> rfl
  have one (a : Bool) : ((if a then 1 else 0) + (if false then 2 else 0)) % 256 ^ 1 = if a then 1 else 0 := by cases a <;> rfl
  simp only [State.queryBytes, bit2, stepBytes, List.append_assoc, List.length_append, Nat.reduceAdd, Nat.reduceLeDiff, payAt_append_left, payAt_append_right, length_leBytes, payAt_leBytes,
    zero_add, Nat.reduceSub, Nat.sub_self, le_refl, fits, low, one, and_self, true_and]
  norm_num


/-! #### STEP_REBUILD -/

/-- The package as a STEP_REBUILD of a step starts or goes on. -/
def State.rebuilds (s : State) (n : BitVec 32) : State :=
  if s.comet.rebuilding = some n then s else { s with comet := { s.comet with rebuilding := some n, asked := [] }, shards := s.shards.filter (fun x => x.step != n) }

omit takes in
theorem payAt_step (n : BitVec 32) : BitVec.ofNat 32 (payAt (leBytes 4 n.toNat) 0 4) = n := by
  rw [payAt_leBytes, Nat.mod_eq_of_lt (show n.toNat < 256 ^ 4 from n.isLt), BitVec.ofNat_toNat, BitVec.setWidth_eq]
theorem exec_stepRebuild (n : BitVec 32) : exec (.stepRebuild (leBytes 4 n.toNat)) s = .next (
    if s.comet.suspended = false ∧ s.setOpen = true ∧ s.comet.rebuilding ≠ some n then s.answer rcBusy []
    else if !s.comet.configured then s.answer rcSuccess (leBytes 2 stAborted)
    else if ((s.rebuilds n).shardAsks n).all ((s.rebuilds n).answered n) then (s.rebuilds n).rebuildStep n
    else ((s.rebuilds n).askAll n (((s.rebuilds n).shardAsks n).filter (fun a => !(s.rebuilds n).comet.asked.contains a))).keepRunning opStepRebuild (leBytes 4 n.toNat)) := by
  have begun : (if s.comet.rebuilding == some n then s else { s with comet := { s.comet with rebuilding := some n, asked := [] }, shards := s.shards.filter (fun x => x.step != n) }) = s.rebuilds n :=
    if_congr beq_iff_eq rfl rfl
  rw [show exec (.stepRebuild (leBytes 4 n.toNat)) s = execStepRebuild (leBytes 4 n.toNat) s from rfl, execStepRebuild, mailbox_runs takes (length_leBytes 4 _).ge, payAt_step]
  dsimp only
  rw [begun]
end

/-- A package that differs from another in what it has sent alone. -/
def State.onlySends (s s' : State) : Prop := ∃ o p f, s' = { s with outbox := o, ports := p, perf := f }

theorem State.onlySends.refl (s : State) : s.onlySends s := ⟨s.outbox, s.ports, s.perf, rfl⟩
theorem State.onlySends.trans {s s1 s2 : State} (first : s.onlySends s1) (second : s1.onlySends s2) : s.onlySends s2 := by
  obtain ⟨o, p, f, rfl⟩ := first
  obtain ⟨o', p', f', rfl⟩ := second
  exact ⟨o', p', f', rfl⟩
theorem State.onlySends_foldl {α : Type} {f : State → α → State} (sends : ∀ (s : State) x, s.onlySends (f s x)) (l : List α) (s : State) : s.onlySends (l.foldl f s) := by
  induction l generalizing s with
  | nil => exact .refl s
  | cons x l ih => exact (sends s x).trans (ih _)
theorem State.onlySends_sendOn (s : State) (p : ℕ) (f : Flit) : s.onlySends (s.sendOn p f) := by
  unfold State.sendOn
  split
  · exact .refl s
  · obtain ⟨perf, counted⟩ := count_eq _ _ _ _
    dsimp only
    rw [counted]
    exact ⟨_, _, _, rfl⟩
theorem State.onlySends_route (s : State) (f : Flit) : s.onlySends (s.route f) := by
  unfold State.route
  split
  · exact s.onlySends_sendOn _ _
  · exact ⟨_, _, _, rfl⟩
theorem State.onlySends_send (s : State) (kind dst : ℕ) (tag : BitVec 32) (payload : List Byte) : s.onlySends (s.send kind dst tag payload) := s.onlySends_route _
theorem State.askAll_sends (s : State) (n : BitVec 32) (l : List (ℕ × ℕ × ℕ)) : State.onlySends { s with comet := { s.comet with asked := s.comet.asked ++ l } } (s.askAll n l) :=
  State.onlySends_foldl (fun u _ => u.onlySends_send _ _ _ _) l _

section
variable (s : State) (n : BitVec 32)

theorem State.rebuilds_rebuilding : (s.rebuilds n).comet.rebuilding = some n := by
  unfold State.rebuilds
  split
  · assumption
  · rfl
/-- A rebuild begins with nothing else changed. -/
theorem State.rebuilds_frame : ∃ k l, s.rebuilds n = { s with comet := k, shards := l } ∧ k.suspended = s.comet.suspended ∧ k.barred = s.comet.barred := by
  unfold State.rebuilds
  split
  · exact ⟨_, _, rfl, rfl, rfl⟩
  · exact ⟨_, _, rfl, rfl, rfl⟩

theorem State.rebuildStep_notHeld {s : State} {n : BitVec 32} (held : s.heldCommitted n = false) : s.rebuildStep n = (s.rebuildOver n).answer rcSuccess (leBytes 2 stAborted) := by
  rw [State.rebuildStep, held]
  rfl
theorem State.rebuildStep_lost {s : State} {n : BitVec 32} (held : s.heldCommitted n = true) (lost : s.restoreAll n = none) :
    s.rebuildStep n = (s.rebuildOver n).answer rcSuccess (leBytes 2 stUncorrectable) := by
  rw [State.rebuildStep, held, lost]
  rfl
/-- A step that is restored: its units and its record are accepted, and the rebuild is over. -/
theorem State.rebuildStep_restores {s : State} {n : BitVec 32} {us : List (ℕ × List Byte)} (held : s.heldCommitted n = true) (whole : s.restoreAll n = some us) :
    ∃ u : State, u.outsideMemory = s.outsideMemory ∧ ∃ c, s.rebuildStep n =
      State.answer { u.rebuildOver n with comet := { (u.rebuildOver n).comet with suspended := false, committed := c, barred := none } } rcSuccess (leBytes 2 stOk) := by
  rw [State.rebuildStep, held, whole]
  exact ⟨_, (State.writeRecord_outsideMemory _ _).trans (foldl_outsideMemory (fun u x => u.acceptBytes_outsideMemory _ _) us s), _, rfl⟩
theorem mem_rebuildOver_shards {s : State} {n : BitVec 32} {x : Shard} (member : x ∈ (s.rebuildOver n).shards) : x.step ≠ n := by
  simpa using (List.mem_filter.mp member).2
end

theorem inArea_memBytes (s : State) (a : ℕ × ℕ) (pa n : ℕ) : (s.inArea a).memBytes pa n = s.memBytes pa n := rfl
/-- The units of a step that stand intact do so in an area with a valid record of the step. -/
theorem intactUnit_some {s : State} {n : BitVec 32} {i : ℕ} {x : List Byte} (intact : s.intactUnit n i = some x) :
    ∃ (a : ℕ × ℕ) (r : StepRecord), (a = (s.comet.base, s.comet.units) ∨ a ∈ s.comet.earlier ∧ a.2 = s.comet.units) ∧ (s.inArea a).recordOf n = some r ∧ (s.inArea a).digestHolds r = true ∧
      ((r.used ≤ i ∧ i < s.comet.units ∧ x = List.replicate 4096 0#8) ∨ x = s.memBytes ((s.inArea a).comet.unitAddr n i) 4096) := by
  obtain ⟨a, area, unit⟩ := List.exists_of_findSome?_eq_some intact
  have known : a = (s.comet.base, s.comet.units) ∨ a ∈ s.comet.earlier ∧ a.2 = s.comet.units := by simpa using area
  have same : a.2 = s.comet.units := by
    obtain rfl | ⟨-, same⟩ := known
    · rfl
    · exact same
  unfold State.unitIn at unit
  split at unit
  · cases unit
  · rename_i r record
    dsimp only at unit
    refine ⟨a, r, known, record, ?_⟩
    split at unit
    · cases unit
    · rename_i digest
      refine ⟨by simpa using digest, ?_⟩
      split at unit
      · rename_i beyond
        rw [zeroUnit] at unit
        exact .inl ⟨beyond.1, same ▸ beyond.2, (Option.some.inj unit).symm⟩
      · split at unit
        · cases unit
        · rw [inArea_memBytes] at unit
          exact .inr (Option.some.inj unit).symm

section
variable {s : State} (takes : s.takesCommand)
include takes

theorem stepRebuild_keepsAsking {n : BitVec 32} (may : s.comet.suspended = true ∨ s.setOpen = false ∨ s.comet.rebuilding = some n) (configured : s.comet.configured = true)
    (asks : ∃ a, a ∈ (s.rebuilds n).shardAsks n ∧ (s.rebuilds n).answered n a = false) :
    ∃ s', exec (.stepRebuild (leBytes 4 n.toNat)) s = .next s' ∧ s'.mailboxRun = some (0xC014, leBytes 4 n.toNat) ∧ s'.comet.rebuilding = some n ∧
      (∀ a, a ∈ (s.rebuilds n).shardAsks n → a ∈ s'.comet.asked) ∧ s'.comet.suspended = s.comet.suspended ∧ s'.mem = s.mem ∧ s'.ballast = s.ballast ∧ s'.crews = s.crews := by
  have mayGo : ¬(s.comet.suspended = false ∧ s.setOpen = true ∧ s.comet.rebuilding ≠ some n) := by
    rintro ⟨running, opened, other⟩
    simp [running, opened, other] at may
  obtain ⟨a, asked, silent⟩ := asks
  have waits : ¬((s.rebuilds n).shardAsks n).all ((s.rebuilds n).answered n) = true := fun all => by
    rw [List.all_eq_true.mp all a asked] at silent
    cases silent
  have runs := exec_stepRebuild takes n
  rw [if_neg mayGo, if_neg (by simp [configured]), if_neg waits] at runs
  obtain ⟨k, l, begun, suspended, -⟩ := s.rebuilds_frame n
  have rebuilding := s.rebuilds_rebuilding n
  obtain ⟨o, p, f, sent⟩ := (s.rebuilds n).askAll_sends n (((s.rebuilds n).shardAsks n).filter (fun a => !(s.rebuilds n).comet.asked.contains a))
  refine ⟨_, runs, rfl, ?_, fun b member => ?_, ?_, ?_, ?_, ?_⟩ <;> rw [sent]
  · exact rebuilding
  · by_cases before : b ∈ (s.rebuilds n).comet.asked
    · exact List.mem_append_left _ before
    · exact List.mem_append_right _ (List.mem_filter.mpr ⟨member, by simpa using before⟩)
  all_goals rw [begun]
  · exact suspended
  all_goals rfl
end

/-- What stands once a STEP_REBUILD is over. -/
abbrev State.rebuildEnded (s : State) (n : BitVec 32) (code : ℕ) (s' : State) : Prop :=
  s'.statusIs code ∧ s'.comet.rebuilding = none ∧ s'.comet.asked = [] ∧ (∀ x, x ∈ s'.shards → x.step ≠ n) ∧ s'.crews = s.crews

section
variable {s : State} (takes : s.takesCommand)
include takes

theorem exec_stepRebuild_answered {n : BitVec 32} (may : s.comet.suspended = true ∨ s.setOpen = false ∨ s.comet.rebuilding = some n) (configured : s.comet.configured = true)
    (all : ∀ a, a ∈ (s.rebuilds n).shardAsks n → (s.rebuilds n).answered n a = true) : exec (.stepRebuild (leBytes 4 n.toNat)) s = .next ((s.rebuilds n).rebuildStep n) := by
  have mayGo : ¬(s.comet.suspended = false ∧ s.setOpen = true ∧ s.comet.rebuilding ≠ some n) := by
    rintro ⟨running, opened, other⟩
    simp [running, opened, other] at may
  rw [exec_stepRebuild takes n, if_neg mayGo, if_neg (by simp [configured]), if_pos (List.all_eq_true.mpr all)]
omit takes in
/-- A rebuild that ends without the step: the package is as it was, but for what the rebuild kept. -/
theorem rebuildOver_answers {n : BitVec 32} {code : ℕ} (small : code < 65536) (runs : exec (.stepRebuild (leBytes 4 n.toNat)) s = .next (((s.rebuilds n).rebuildOver n).answer rcSuccess (leBytes 2 code))) :
    s.answers (.stepRebuild (leBytes 4 n.toNat)) 0 (fun s' => s.rebuildEnded n code s' ∧ s'.comet.suspended = s.comet.suspended ∧ s'.mem = s.mem ∧ s'.ballast = s.ballast) := by
  obtain ⟨k, l, begun, suspended, -⟩ := s.rebuilds_frame n
  refine answers_of runs ?_ ?_ ⟨⟨statusIs_answer_only _ _ _ small, rfl, rfl, fun x member => mem_rebuildOver_shards (s := s.rebuilds n) member, ?_⟩, ?_, ?_, ?_⟩ <;> rw [begun]
  case refine_4 => exact suspended
  all_goals rfl
omit takes in
theorem stepRebuild_restores {n : BitVec 32} {us : List (ℕ × List Byte)} (held : (s.rebuilds n).heldCommitted n = true) (whole : (s.rebuilds n).restoreAll n = some us)
    (runs : exec (.stepRebuild (leBytes 4 n.toNat)) s = .next ((s.rebuilds n).rebuildStep n)) :
    s.answers (.stepRebuild (leBytes 4 n.toNat)) 0 (fun s' => s.rebuildEnded n 0 s' ∧ s'.comet.suspended = false ∧ s'.comet.barred = none) := by
  obtain ⟨u, same, c, ends⟩ := State.rebuildStep_restores held whole
  obtain ⟨k, l, begun, -, -⟩ := s.rebuilds_frame n
  rw [begun] at same
  have crews : u.crews = s.crews := (congrArg State.crews same :)
  have irq : u.mailboxIrq = s.mailboxIrq := (congrArg State.mailboxIrq same :)
  have msix : u.msix = s.msix := (congrArg State.msix same :)
  rw [ends] at runs
  exact answers_of runs irq msix ⟨⟨statusIs_answer_only _ _ _ (by decide), rfl, rfl, fun x member => mem_rebuildOver_shards (s := u) member, crews⟩, rfl, rfl⟩

/-! #### STEP_LOAD -/

theorem exec_stepLoad (n : BitVec 32) {a : ℕ} (small : a < 2 ^ 56) : exec (.stepLoad (leBytes 8 n.toNat ++ leBytes 8 a)) s = .next (
    if a % 4096 ≠ 0 then s.answer rcInvalid []
    else if s.launchOpen then s.answer rcBusy []
    else match s.recordOf n with
      | none => s.answer rcSuccess (leBytes 2 stAborted)
      | some r =>
        if s.isDead (s.comet.unitAddr n 0) (4096 * r.used) || s.unitsDigest n r.used != r.udigest then s.answer rcSuccess (leBytes 2 stAborted)
        else match s.loadPages n (s.loadEntries n r.used) with
          | (s1, false) => s1.answer rcSuccess (leBytes 2 stTranslation)
          | (s1, true) => match s1.loadKind2 n a ((s.loadEntries n r.used).filter (fun e => e.kind == 2)) with
            | (s2, false) => s2.answer rcSuccess (leBytes 2 stTranslation)
            | (s2, true) => State.answer { s2 with comet := { s2.comet.idle with committed := some n, suspended := false, barred := none, committing := none, reports := [] }, shards := [] }
                rcSuccess (leBytes 2 stOk)) := by
  have step : BitVec.ofNat 32 (payAt (leBytes 8 n.toNat ++ leBytes 8 a) 0 4) = n := by
    rw [payAt_append_left (by rw [length_leBytes]; decide), payAt_leBytes_prefix (by decide), Nat.mod_eq_of_lt (show n.toNat < 256 ^ 4 from n.isLt), BitVec.ofNat_toNat, BitVec.setWidth_eq]
  have addr : payAt (leBytes 8 n.toNat ++ leBytes 8 a) 8 8 = a := by
    rw [payAt_append_right (by rw [length_leBytes]), length_leBytes, payAt_leBytes]
    exact Nat.mod_eq_of_lt (lt_of_lt_of_le small (by decide))
  rw [show exec (.stepLoad (leBytes 8 n.toNat ++ leBytes 8 a)) s = execStepLoad (leBytes 8 n.toNat ++ leBytes 8 a) s from rfl, execStepLoad, mailbox_runs takes (by simp [length_leBytes]), step, addr] <;> rfl

theorem stepRebuild_answers (n : BitVec 32) :
    let p := leBytes 4 n.toNat
    let k := s.comet
    let s1 := s.rebuilds n
    (k.suspended = false → s.setOpen = true → k.rebuilding ≠ some n → s.answers (.stepRebuild p) 6 s.onlyAnswers) ∧
    (k.suspended = true ∨ s.setOpen = false ∨ k.rebuilding = some n →
      (k.configured = false → s.answers (.stepRebuild p) 0 (fun s' => s'.statusIs 5 ∧ s.onlyAnswers s')) ∧
      (k.configured = true → (∃ a, a ∈ s1.shardAsks n ∧ s1.answered n a = false) → ∃ s', exec (.stepRebuild p) s = .next s' ∧ s'.mailboxRun = some (0xC014, p) ∧ s'.comet.rebuilding = some n ∧
        (∀ a, a ∈ s1.shardAsks n → a ∈ s'.comet.asked) ∧ s'.comet.suspended = k.suspended ∧ s'.mem = s.mem ∧ s'.ballast = s.ballast ∧ s'.crews = s.crews) ∧
      (k.configured = true → (∀ a, a ∈ s1.shardAsks n → s1.answered n a = true) →
        (s1.heldCommitted n = false → s.answers (.stepRebuild p) 0 (fun s' => s.rebuildEnded n 5 s' ∧ s'.comet.suspended = k.suspended ∧ s'.mem = s.mem ∧ s'.ballast = s.ballast)) ∧
        (s1.heldCommitted n = true → s1.restoreAll n = none → s.answers (.stepRebuild p) 0 (fun s' => s.rebuildEnded n 6 s' ∧ s'.comet.suspended = k.suspended ∧ s'.mem = s.mem ∧ s'.ballast = s.ballast)) ∧
        (∀ us, s1.heldCommitted n = true → s1.restoreAll n = some us → s.answers (.stepRebuild p) 0 (fun s' => s.rebuildEnded n 0 s' ∧ s'.comet.suspended = false ∧ s'.comet.barred = none)))) := by
  refine ⟨fun running opened other => ?_, fun may => ⟨fun off => ?_, fun on asks => stepRebuild_keepsAsking takes may on asks, fun on all => ?_⟩⟩
  · exact answers_only takes (by rw [exec_stepRebuild takes n, if_pos ⟨running, opened, other⟩]; rfl)
  · have mayGo : ¬(s.comet.suspended = false ∧ s.setOpen = true ∧ s.comet.rebuilding ≠ some n) := by
      rintro ⟨running, opened, other⟩
      simp [running, opened, other] at may
    have runs := exec_stepRebuild takes n
    rw [if_neg mayGo, if_pos (by simp [off])] at runs
    exact answers_self runs ⟨statusIs_answer_only _ _ _ (by decide), onlyAnswers_answer takes _ _⟩
  · have runs := exec_stepRebuild_answered takes may on all
    refine ⟨fun held => ?_, fun held lost => ?_, fun us held whole => stepRebuild_restores held whole runs⟩
    · exact rebuildOver_answers (by decide) (runs.trans (congrArg _ (State.rebuildStep_notHeld held)))
    · exact rebuildOver_answers (by decide) (runs.trans (congrArg _ (State.rebuildStep_lost held lost)))

theorem stepLoad_answers (n : BitVec 32) {a : ℕ} (small : a < 2 ^ 56) :
    let p := leBytes 8 n.toNat ++ leBytes 8 a
    let k := s.comet
    (a % 4096 ≠ 0 → s.answers (.stepLoad p) 2 s.onlyAnswers) ∧ (a % 4096 = 0 → s.launchOpen = true → s.answers (.stepLoad p) 6 s.onlyAnswers) ∧
    (a % 4096 = 0 → s.launchOpen = false →
      ((∀ r, r ∈ s.validRecords → r.n ≠ n) → s.answers (.stepLoad p) 0 (fun s' => s'.statusIs 5 ∧ s.onlyAnswers s')) ∧
      (∀ r s1 s2, s.validRecords.find? (fun r => r.n == n) = some r → s.isDead (k.unitAddr n 0) (4096 * r.used) = false → s.unitsDigest n r.used = r.udigest →
        (s.loadPages n (s.loadEntries n r.used) = (s1, false) → s.answers (.stepLoad p) 0 (fun s' => s'.statusIs 8)) ∧
        (s.loadPages n (s.loadEntries n r.used) = (s1, true) → s1.loadKind2 n a ((s.loadEntries n r.used).filter (fun e => e.kind == 2)) = (s2, true) →
          s.answers (.stepLoad p) 0 (fun s' => s'.statusIs 0 ∧ s'.comet.committed = some n ∧ s'.comet.suspended = false ∧ s'.comet.capture = none ∧ s'.comet.reports = [] ∧ s'.shards = [] ∧ s'.mem = s2.mem))) ∧
      (∀ r, s.validRecords.find? (fun r => r.n == n) = some r → s.isDead (k.unitAddr n 0) (4096 * r.used) = true ∨ s.unitsDigest n r.used ≠ r.udigest →
        s.answers (.stepLoad p) 0 (fun s' => s'.statusIs 5 ∧ s.onlyAnswers s'))) := by
  have runs := exec_stepLoad takes n small
  refine ⟨fun odd => ?_, fun aligned opened => ?_, fun aligned closed => ?_⟩
  · rw [if_pos odd] at runs
    exact answers_only takes runs
  · rw [if_neg (not_not.mpr aligned), if_pos opened] at runs
    exact answers_only takes runs
  rw [if_neg (not_not.mpr aligned), if_neg (by simp [closed])] at runs
  have aborts (answer : exec (.stepLoad (leBytes 8 n.toNat ++ leBytes 8 a)) s = .next (s.answer rcSuccess (leBytes 2 stAborted))) :
      s.answers (.stepLoad (leBytes 8 n.toNat ++ leBytes 8 a)) 0 (fun s' => s'.statusIs 5 ∧ s.onlyAnswers s') :=
    answers_self answer ⟨statusIs_answer_only _ _ _ (by decide), onlyAnswers_answer takes _ _⟩
  refine ⟨fun none_ => aborts ?_, fun r s1 s2 record alive digest => ?_, fun r record bad => aborts ?_⟩
  · have noRecord : s.recordOf n = none := List.find?_eq_none.mpr (fun r member same => none_ r member (by simpa using same))
    rw [runs, noRecord]
  · rw [show s.recordOf n = some r from record] at runs
    dsimp only at runs
    rw [if_neg (by simp [alive, digest])] at runs
    have kept1 := State.loadPages_outsideMemory n (s.loadEntries n r.used) s
    refine ⟨fun stops => ?_, fun pages tiles => ?_⟩
    · rw [stops] at runs kept1
      exact answers_of runs (congrArg State.mailboxIrq kept1 :) (congrArg State.msix kept1 :) (statusIs_answer_only _ _ _ (by decide))
    · have kept2 := s1.loadKind2_outsideMemory n a ((s.loadEntries n r.used).filter (fun e => e.kind == 2))
      rw [pages] at runs kept1
      dsimp only at runs
      rw [tiles] at runs kept2
      have kept := kept2.trans kept1
      exact answers_of runs (congrArg State.mailboxIrq kept :) (congrArg State.msix kept :) ⟨statusIs_answer_only _ _ _ (by decide), rfl, rfl, rfl, rfl, rfl, rfl⟩
  · rw [runs, show s.recordOf n = some r from record]
    dsimp only
    rw [if_pos (by obtain dead | other := bad <;> simp [*])]
end

/-- Settles O53. -/
theorem cometCommands : Obligations.CometCommands := by
  intro s usable quiescing idle answers same le status k
  have takes : s.takesCommand := ⟨usable, quiescing, idle⟩
  have bytes (n v : ℕ) : le n v = leBytes n v := range_map_leBytes n v
  refine ⟨fun b u pb pl unitsFit baseFits presFits lenFits => ?_, fun id add => ?_, fun q => ?_, fun n => ?_, fun n a small => ?_⟩
  · rw [bytes, bytes, bytes, bytes]
    have runs := exec_cometConfig takes unitsFit baseFits presFits lenFits
    refine ⟨fun bad => ?_, fun ok capturing running => ?_, fun ok may => ?_⟩
    · rw [if_pos bad] at runs
      exact answers_only takes runs
    · rw [if_neg (not_not.mpr ok), if_pos ⟨capturing, running⟩] at runs
      exact answers_only takes runs
    · have mayGo : ¬(s.comet.capture.isSome ∧ s.comet.suspended = false) := by
        rintro ⟨capturing, running⟩
        obtain none_ | suspended := may
        · rw [show s.comet.capture = none from none_] at capturing
          cases capturing
        · rw [show s.comet.suspended = true from suspended] at running
          cases running
      rw [if_neg (not_not.mpr ok), if_neg mayGo] at runs
      refine answers_of runs rfl rfl ⟨rfl, rfl, rfl, rfl, rfl, mem_idle_tracked k, rfl, rfl, rfl, fun on => ?_, rfl, rfl, rfl, rfl⟩
      change (k.base, k.units) ∈ (if k.configured then (k.base, k.units) :: k.earlier.filter (fun a => a != (k.base, k.units)) else k.earlier)
      rw [if_pos on]
      exact List.mem_cons_self
  · rw [bytes]
    have runs := exec_cometTrack takes id add
    refine ⟨fun none_ => ?_, fun l opened => ?_⟩
    · rw [none_] at runs
      exact answers_only takes runs
    · rw [opened] at runs
      exact answers_of runs rfl rfl ⟨rfl, rfl, rfl, fun idle' => k.track_idle idle' l.id add, fun capturing => k.track_capturing capturing l.id add⟩
  · obtain ⟨length, lost, committed, isCommitted, prepared, isPrepared, loss⟩ := s.queryBytes_fields
    refine answers_self (exec_stepQuery takes q) ⟨onlyAnswers_answer takes _ _, fun o out => ?_⟩
    rw [← Option.some.inj out]
    refine ⟨length, lost, committed, isCommitted, prepared, isPrepared, fun n newest => loss.trans ?_, fun n none_ newest => loss.trans ?_⟩
    · rw [State.queriedLoss, newest]
    · rw [State.queriedLoss, none_, newest]
  · rw [bytes]
    obtain ⟨busy, goes⟩ := stepRebuild_answers takes n
    refine ⟨busy, goes, fun m i plain => ?_, fun i x intact => intactUnit_some intact⟩
    change (s.rebuilds n).span.erasure = false at plain
    change (s.rebuilds n).restoreShard n i m i = (s.rebuilds n).intactUnit n i
    unfold State.restoreShard
    rw [plain]
    cases (s.rebuilds n).intactUnit n i <;> rfl
  · rw [bytes, bytes]
    exact stepLoad_answers takes n small

end Sys2Proof.Machine

namespace Sys2Proof.Machine

/-! ### The capture of a step (12 R276; 21 R404 to R408) -/

theorem foldl_comet {α : Type} {f : State → α → State} (keeps : ∀ (s : State) x, (f s x).comet = s.comet) (l : List α) (s : State) : (l.foldl f s).comet = s.comet := by
  induction l generalizing s with
  | nil => rfl
  | cons x l ih => exact (ih _).trans (keeps s x)
theorem foldl_crews {α : Type} {f : State → α → State} (keeps : ∀ (s : State) x, (f s x).crews = s.crews) (l : List α) (s : State) : (l.foldl f s).crews = s.crews := by
  induction l generalizing s with
  | nil => rfl
  | cons x l ih => exact (ih _).trans (keeps s x)
theorem State.drainLine_comet (s : State) (die : ℕ) : (s.drainLine die).comet = s.comet := by
  unfold State.drainLine
  split <;> rfl
theorem State.acceptLine_comet (s : State) (pa : ℕ) (d : BitVec 512) : (s.acceptLine pa d).comet = s.comet := by
  unfold State.acceptLine
  split
  · rfl
  · have room : (if s.ballastRoom (paDie pa) = true then s else s.drainLine (paDie pa)).comet = s.comet := by
      split
      · rfl
      · exact s.drainLine_comet _
    exact room
theorem State.acceptBytes_comet (s : State) (pa : ℕ) (b : List Byte) : (s.acceptBytes pa b).comet = s.comet := foldl_comet (fun u i => u.acceptLine_comet _ _) _ s
theorem State.writeRecord_comet (s : State) (r : StepRecord) : (s.writeRecord r).comet = s.comet := s.acceptBytes_comet _ _
theorem State.poisonLines_comet (s : State) (pa : ℕ) (ws : List ℕ) : (s.poisonLines pa ws).comet = s.comet := by
  unfold State.poisonLines
  refine foldl_comet (fun _ _ => ?_) ws s
  rfl
theorem State.poisonLines_crews (s : State) (pa : ℕ) (ws : List ℕ) : (s.poisonLines pa ws).crews = s.crews := by
  unfold State.poisonLines
  refine foldl_crews (fun _ _ => ?_) ws s
  rfl
theorem State.onlySends_sendShard (s : State) (dst : ℕ) (step : BitVec 32) (kind index record : ℕ) (data : List Byte) : s.onlySends (s.sendShard dst step kind index record data) :=
  State.onlySends_foldl (fun u _ => u.onlySends_send _ _ _ _) _ s
theorem State.onlySends.comet {s s' : State} (sends : s.onlySends s') : s'.comet = s.comet := by
  obtain ⟨o, p, f, rfl⟩ := sends
  rfl
theorem State.onlySends.crews {s s' : State} (sends : s.onlySends s') : s'.crews = s.crews := by
  obtain ⟨o, p, f, rfl⟩ := sends
  rfl
theorem State.acceptBytes_crews (s : State) (pa : ℕ) (b : List Byte) : (s.acceptBytes pa b).crews = s.crews := (congrArg State.crews (s.acceptBytes_outsideMemory pa b) :)
theorem State.writeRecord_crews (s : State) (r : StepRecord) : (s.writeRecord r).crews = s.crews := s.acceptBytes_crews _ _

/-- The image written: Comet notes it, and no crew changes. -/
theorem writeImage_frame {s : State} {n : BitVec 32} (capture : s.comet.capture = some n) : s.writeImage.comet = { s.comet with written := true } ∧ s.writeImage.crews = s.crews := by
  unfold State.writeImage
  rw [capture]
  dsimp only
  generalize shown : (imageUnits s.comet.image).zipIdx.foldl (fun (s : State) (u : List Byte × ℕ) => s.acceptBytes (s.comet.unitAddr n u.2) u.1) s = s1
  have comet1 : s1.comet = s.comet := by rw [← shown]; exact foldl_comet (fun u x => u.acceptBytes_comet _ _) _ s
  have crews1 : s1.crews = s.crews := by rw [← shown]; exact foldl_crews (fun u x => u.acceptBytes_crews _ _) _ s
  generalize marked : s.comet.image.zipIdx.foldl (fun (s' : State) (u : ImageUnit × ℕ) => s'.poisonLines (s'.comet.unitAddr n (dirUnits s.comet.image.length + u.2)) (u.1.poison.map (fun w => w % 1024))) s1 = s2
  have comet2 : s2.comet = s.comet := by rw [← marked]; exact (foldl_comet (fun u x => u.poisonLines_comet _ _) _ s1).trans comet1
  have crews2 : s2.crews = s.crews := by rw [← marked]; exact (foldl_crews (fun u x => u.poisonLines_crews _ _) _ s1).trans crews1
  split
  · rw [comet2]
    exact ⟨rfl, crews2⟩
  · have sends := State.onlySends_foldl (f := fun (s' : State) u => (s'.sendShard (s'.memberAt ((stripeOf s'.span.member (u % 8) + 8) % 10)) n 0 u 0 ((imageUnits s.comet.image).getD u zeroUnit)).sendShard
        (s'.memberAt ((stripeOf s'.span.member (u % 8) + 9) % 10)) n 0 u 0 ((imageUnits s.comet.image).getD u zeroUnit)) (fun u x => (u.onlySends_sendShard _ _ _ _ _ _).trans (State.onlySends_sendShard _ _ _ _ _ _ _))
      (List.range s2.comet.units) s2
    exact ⟨congrArg (fun k : Comet => { k with written := true }) (sends.comet.trans comet2), sends.crews.trans crews2⟩

/-- What stands once the whole image may have been written. -/
theorem imageWhole_frame {s : State} {n : BitVec 32} (capture : s.comet.capture = some n) :
    ∃ w, s.imageWhole.comet = { s.comet with written := w } ∧ s.imageWhole.crews = s.crews ∧ (s.comet.ended = true → s.uncaptured = [] → w = true) := by
  unfold State.imageWhole
  split
  · obtain ⟨comet, crews⟩ := writeImage_frame capture
    exact ⟨true, comet, crews, fun _ _ => rfl⟩
  · rename_i waits
    refine ⟨s.comet.written, rfl, rfl, fun ended empty => ?_⟩
    simpa [ended, empty] using waits

section
variable {s : State}

theorem mem_uncaptured {y : Granule} : y ∈ s.uncaptured ↔ (∃ p, p ∈ s.comet.preserved ∧ p.unit.gran = y) ∨
    (y ∈ s.trackedGranules ∧ y ∉ s.comet.captured ∧ ∀ p, p ∈ s.comet.preserved → p.unit.gran ≠ y) := by
  simp [State.uncaptured]

/-- Comet once a granule has been streamed to the image. -/
def Comet.streams (k : Comet) (x : Granule) (u : ImageUnit) : Comet :=
  { k with captured := k.captured ++ [x], image := k.image ++ [u], preserved := k.preserved.filter (fun p => p.unit.gran != x) }

theorem uncaptured_streams {x : Granule} (last : s.uncaptured = [x]) (u : ImageUnit) : State.uncaptured { s with comet := s.comet.streams x u } = [] := by
  refine List.eq_nil_iff_forall_not_mem.mpr (fun y member => ?_)
  have before : y ∈ s.uncaptured ∧ y ≠ x := by
    obtain ⟨p, kept, rfl⟩ | ⟨tracked, uncaptured, unpreserved⟩ := mem_uncaptured.mp member
    · obtain ⟨kept, other⟩ := List.mem_filter.mp kept
      exact ⟨mem_uncaptured.mpr (.inl ⟨p, kept, rfl⟩), by simpa using other⟩
    · obtain ⟨before, other⟩ : y ∉ s.comet.captured ∧ y ≠ x := by simpa [Comet.streams] using uncaptured
      refine ⟨mem_uncaptured.mpr (.inr ⟨tracked, before, fun p kept same => unpreserved p ?_ same⟩), other⟩
      exact List.mem_filter.mpr ⟨kept, by simpa [same] using other⟩
  rw [last] at before
  exact before.2 (List.mem_singleton.mp before.1)

theorem comet_off (off : s.cometOn = false) (n : BitVec 32) (g : ℕ) : exec (.cometCaptureBegin n) s = .next s ∧ exec (.cometGranulePreserve g) s = .next s ∧ exec .cometCaptureEnd s = .next s ∧
    exec (.cometStreamGranule g) s = .next s ∧ exec .cometPrepared s = .next s ∧ exec (.cometCommit n) s = .next s := by
  refine ⟨?_, ?_, ?_, ?_, ?_, ?_⟩
  · simp [exec, execCometCaptureBegin, off]
  · simp [exec, execCometGranulePreserve, off]
  · simp only [exec, execCometCaptureEnd, off]
    cases s.comet.capture <;> rfl
  · simp [exec, execCometStreamGranule, off]
  · simp only [exec, execCometPrepared, off]
    cases s.comet.capture <;> rfl
  · simp [exec, execCometCommit, off]

section
variable (on : s.cometOn = true)
include on

theorem captureBegin_begins (free : s.comet.capture = none) (some_ : s.comet.tracked ≠ []) (open_ : s.comet.barred ≠ some s.comet.target) (marked : s.allMarked s.comet.target = true) :
    exec (.cometCaptureBegin s.comet.target) s =
      .next { s with comet := { s.comet with capture := some s.comet.target, ended := false, captured := [], image := [], written := false, prepared := none } } := by
  refine congrArg Host.Outcome.next (if_pos ?_)
  simp [on, free, some_, open_, marked]
omit on in
theorem captureBegin_waits {n : BitVec 32} (waits : n ≠ s.comet.target ∨ s.comet.capture.isSome = true ∨ s.allMarked n = false) : exec (.cometCaptureBegin n) s = .next s := by
  refine congrArg Host.Outcome.next (if_neg (fun goes => ?_))
  simp only [Bool.and_eq_true, beq_iff_eq, Option.isNone_iff_eq_none] at goes
  obtain ⟨⟨⟨⟨⟨-, free⟩, same⟩, -⟩, -⟩, marked⟩ := goes
  subst same
  simp [free, marked] at waits
theorem granulePreserve_keeps {g : ℕ} {x : Granule} {u : ImageUnit} (tracked : s.trackedGranules[g]? = some x) (uncaptured : x ∉ s.comet.captured)
    (unpreserved : ∀ p, p ∈ s.comet.preserved → p.unit.gran ≠ x) (room : 4096 * (s.comet.preserved.length + 1) ≤ s.comet.presLen) (live : s.liveUnit x = some u) :
    exec (.cometGranulePreserve g) s = .next { s with comet := { s.comet with preserved := s.comet.preserved ++ [Preserved.mk u] } } := by
  have fresh : s.comet.preserved.any (fun p => p.unit.gran == x) = false := by simpa using unpreserved
  simp [exec, execCometGranulePreserve, on, tracked, uncaptured, fresh, Nat.not_lt.mpr room, live]

section
variable {n : BitVec 32} (capture : s.comet.capture = some n)
include capture

omit on in
theorem exec_cometCaptureEnd : exec .cometCaptureEnd s = .next (if !s.cometOn || s.comet.ended || s.setCrews.any (fun p => s.olderWork n p.1 p.2) then s
    else if s.comet.units < dirUnits s.uncaptured.length + s.uncaptured.length then s.cometAbandon 1
    else State.imageWhole { s with comet := { s.comet with ended := true } }) := by
  rw [show exec .cometCaptureEnd s = execCometCaptureEnd s from rfl, execCometCaptureEnd, capture]
omit on in
theorem captureEnd_older (older : ∃ p, p ∈ s.setCrews ∧ s.olderWork n p.1 p.2 = true) : exec .cometCaptureEnd s = .next s := by
  rw [exec_cometCaptureEnd capture, if_pos (by simp [List.any_eq_true.mpr older])]

section
variable (going : s.comet.ended = false) (done : ∀ p, p ∈ s.setCrews → s.olderWork n p.1 p.2 = false)
include going done

theorem captureEnd_ends : exec .cometCaptureEnd s = .next (if s.comet.units < dirUnits s.uncaptured.length + s.uncaptured.length then s.cometAbandon 1
    else State.imageWhole { s with comet := { s.comet with ended := true } }) := by
  have young : s.setCrews.any (fun p => s.olderWork n p.1 p.2) = false := List.any_eq_false.mpr (fun p member => by simp [done p member])
  rw [exec_cometCaptureEnd capture, if_neg (by simp [on, going, young])]
theorem captureEnd_waits (fits : dirUnits s.uncaptured.length + s.uncaptured.length ≤ s.comet.units) (some_ : s.uncaptured ≠ []) :
    exec .cometCaptureEnd s = .next { s with comet := { s.comet with ended := true } } := by
  have more : (State.uncaptured { s with comet := { s.comet with ended := true } }).isEmpty = false := List.isEmpty_eq_false_iff.mpr some_
  rw [captureEnd_ends on capture going done, if_neg (Nat.not_lt.mpr fits), State.imageWhole, more, Bool.and_false]
  rfl
theorem captureEnd_abandons (big : s.comet.units < dirUnits s.uncaptured.length + s.uncaptured.length) :
    ∃ s', exec .cometCaptureEnd s = .next s' ∧ s'.comet.capture = none ∧ s'.comet.preserved = [] ∧ s'.comet.committed = s.comet.committed ∧
      s'.comet.barred = some n ∧ (∀ r, r ∈ s'.comet.reports ↔ r ∈ s.comet.reports ∧ r.2 ≠ n) ∧ (∀ x, x ∈ s'.shards ↔ x ∈ s.shards ∧ x.step ≠ n) ∧ raised s s' 0x0B 1 ∧ s'.mem = s.mem ∧
      s'.ballast = s.ballast := by
  have runs := captureEnd_ends on capture going done
  rw [if_pos big, State.cometAbandon, capture] at runs
  refine ⟨_, runs, rfl, rfl, rfl, rfl, fun r => ?_, fun x => ?_, ?_, rfl, rfl⟩
  · exact List.mem_filter.trans (and_congr_right fun _ => by simp)
  · exact List.mem_filter.trans (and_congr_right fun _ => by simp)
  · exact raise_raised _ _ _ _ _ (by decide)
end

theorem streamGranule_streams {g : ℕ} {x : Granule} {u : ImageUnit} (ended : s.comet.ended = true) (unwritten : s.comet.written = false) (uncaptured : s.uncaptured[g]? = some x)
    (unit : (s.comet.preserved.find? (fun p => p.unit.gran == x)).map (·.unit) = some u ∨ ((∀ p, p ∈ s.comet.preserved → p.unit.gran ≠ x) ∧ s.liveUnit x = some u))
    (fits : dirUnits (s.comet.image.length + 1) + (s.comet.image.length + 1) ≤ s.comet.units) :
    exec (.cometStreamGranule g) s = .next (State.imageWhole { s with comet := s.comet.streams x u }) := by
  have room : ¬s.comet.units < dirUnits (s.comet.image ++ [u]).length + (s.comet.image ++ [u]).length := by
    rw [List.length_append]
    exact Nat.not_lt.mpr fits
  rw [show exec (.cometStreamGranule g) s = execCometStreamGranule g s from rfl, execCometStreamGranule, if_neg (by simp [on, capture, ended, unwritten]), uncaptured]
  dsimp only
  obtain kept | ⟨none_, live⟩ := unit
  · rw [kept]
    dsimp only
    rw [if_neg room]
    rfl
  · rw [List.find?_eq_none.mpr (fun p member => by simpa using none_ p member), Option.map_none]
    dsimp only
    rw [live]
    dsimp only
    rw [if_neg room]
    rfl
end

/-! #### Preparation and commitment -/

omit on in
/-- The parity units are accepted, the prepared record is written, and the coordinator hears of it. -/
def State.prepares (s : State) (n : BitVec 32) (ps : List (List Byte × List Byte)) : State :=
  let s1 := ps.zipIdx.foldl (fun s p => (s.acceptBytes (s.comet.unitAddr n (s.comet.pUnit p.2)) p.1.1).acceptBytes (s.comet.unitAddr n (s.comet.qUnit p.2)) p.1.2) s
  let used := dirUnits s1.comet.image.length + s1.comet.image.length
  let s2 := s1.writeRecord ⟨1, n, used, s1.unitsDigest n used⟩
  let s3 := { s2 with comet := { s2.comet with prepared := some n } }
  if s3.span.index = 0#12 then { s3 with comet := { s3.comet with reports := s3.comet.reports ++ [(0, n)] } }
  else s3.send 0x40 0 0#32 (stepMessage 3 n)
omit on in
theorem exec_cometPrepared {n : BitVec 32} (capture : s.comet.capture = some n) : exec .cometPrepared s = .next (
    if !s.cometOn || !s.comet.written || s.comet.prepared.isSome || s.comet.committing.isSome then s
    else match (if s.span.erasure then s.parityUnits n else some []) with
      | none => s
      | some ps => s.prepares n ps) := by
  rw [show exec .cometPrepared s = execCometPrepared s from rfl, execCometPrepared, capture]
  rfl
omit on in
/-- With no parity to accept, the record is written, and Comet notes the step as prepared. -/
theorem prepares_nil (n : BitVec 32) : ∃ u : State, u.comet = { s.comet with prepared := some n } ∧ u.outsideMemory = s.outsideMemory ∧ s.prepares n [] =
    if u.span.index = 0#12 then { u with comet := { u.comet with reports := u.comet.reports ++ [(0, n)] } } else u.send 0x40 0 0#32 (stepMessage 3 n) := by
  let used := dirUnits s.comet.image.length + s.comet.image.length
  let u := s.writeRecord ⟨1, n, used, s.unitsDigest n used⟩
  have comet : u.comet = s.comet := s.writeRecord_comet _
  exact ⟨{ u with comet := { u.comet with prepared := some n } }, congrArg (fun k : Comet => { k with prepared := some n }) comet, s.writeRecord_outsideMemory _, rfl⟩

theorem cometPrepared_prepares {n : BitVec 32} (capture : s.comet.capture = some n) (written : s.comet.written = true) (unprepared : s.comet.prepared = none) (idle : s.comet.committing = none)
    (plain : s.span.erasure = false) :
    ∃ s', exec .cometPrepared s = .next s' ∧ s'.comet.prepared = some n ∧ s'.comet.committed = s.comet.committed ∧
      (s.span.index = 0#12 → s'.comet.reports = s.comet.reports ++ [(0, n)] ∧ s'.outbox = s.outbox) ∧ (s.span.index ≠ 0#12 → s'.comet.reports = s.comet.reports) ∧ s'.crews = s.crews := by
  have noParity : (if s.span.erasure then s.parityUnits n else some []) = some [] := if_neg (by simp [plain])
  have runs := exec_cometPrepared capture
  rw [if_neg (by simp [on, written, unprepared, idle]), noParity] at runs
  obtain ⟨u, comet, memory, prepares⟩ := prepares_nil (s := s) n
  dsimp only at runs
  have span : u.span = s.span := (congrArg State.span memory :)
  have outbox : u.outbox = s.outbox := (congrArg State.outbox memory :)
  have crews : u.crews = s.crews := (congrArg State.crews memory :)
  have step : u.comet.prepared = some n := by rw [comet]
  have committed : u.comet.committed = s.comet.committed := by rw [comet]
  have reports : u.comet.reports = s.comet.reports := by rw [comet]
  rw [prepares, span] at runs
  by_cases first : s.span.index = 0#12
  · rw [if_pos first] at runs
    exact ⟨_, runs, step, committed, fun _ => ⟨congrArg (· ++ [(0, n)]) reports, outbox⟩, fun other => (other first).elim, crews⟩
  · rw [if_neg first] at runs
    have sends := u.onlySends_send 0x40 0 0#32 (stepMessage 3 n)
    have kept := sends.comet
    refine ⟨_, runs, ?_, ?_, fun here => (first here).elim, fun _ => ?_, sends.crews.trans crews⟩
    · exact (congrArg Comet.prepared kept).trans step
    · exact (congrArg Comet.committed kept).trans committed
    · exact (congrArg Comet.reports kept).trans reports

section
variable {n : BitVec 32} (prepared : s.comet.prepared = some n) (idle : s.comet.committing = none) (first : s.span.index = 0#12)
include prepared idle first

theorem cometCommit_commits (all : ∀ m, m < s.span.count.toNat → (m, n) ∈ s.comet.reports) :
    ∃ s', exec (.cometCommit n) s = .next s' ∧ s'.comet.committing = some n ∧ (∀ r, r ∈ s'.comet.reports ↔ r ∈ s.comet.reports ∧ r.2 ≠ n) ∧ s'.crews = s.crews := by
  have reported : (List.range s.span.count.toNat).all (fun m => s.comet.reports.contains (m, n)) = true :=
    List.all_eq_true.mpr (fun m member => List.contains_iff_mem.mpr (all m (List.mem_range.mp member)))
  have runs : exec (.cometCommit n) s = execCometCommit n s := rfl
  rw [execCometCommit, if_neg (by simp [on, prepared, idle]), reported, first] at runs
  dsimp only [Bool.not_true, Bool.and_false, Bool.false_eq_true, if_false, beq_self_eq_true, if_true] at runs
  generalize recorded : s.writeRecord ⟨2, n, dirUnits s.comet.image.length + s.comet.image.length, s.unitsDigest n (dirUnits s.comet.image.length + s.comet.image.length)⟩ = u at runs
  have comet : u.comet = s.comet := recorded ▸ s.writeRecord_comet _
  have crews : u.crews = s.crews := recorded ▸ s.writeRecord_crews _
  have sends := State.onlySends_foldl (f := fun (v : State) d => v.send 0x40 d 0#32 (stepMessage 4 n)) (fun v d => v.onlySends_send _ _ _ _)
    (State.others { u with comet := { u.comet with committing := some n, reports := u.comet.reports.filter (fun r => r.2 != n) } })
    { u with comet := { u.comet with committing := some n, reports := u.comet.reports.filter (fun r => r.2 != n) } }
  refine ⟨_, runs, congrArg Comet.committing sends.comet, fun r => ?_, sends.crews.trans crews⟩
  refine (iff_of_eq (congrArg (fun k : Comet => r ∈ k.reports) sends.comet)).trans ?_
  change r ∈ u.comet.reports.filter (fun r => r.2 != n) ↔ _
  rw [comet]
  exact List.mem_filter.trans (and_congr_right fun _ => by simp)
theorem cometCommit_waits (missing : ∃ m, m < s.span.count.toNat ∧ (m, n) ∉ s.comet.reports) : exec (.cometCommit n) s = .next s := by
  obtain ⟨m, member, none_⟩ := missing
  have waits : (List.range s.span.count.toNat).all (fun m => s.comet.reports.contains (m, n)) = false :=
    List.all_eq_false.mpr ⟨m, List.mem_range.mpr member, by simpa using none_⟩
  have runs : exec (.cometCommit n) s = execCometCommit n s := rfl
  rw [execCometCommit, if_neg (by simp [on, prepared, idle]), waits, first] at runs
  exact runs
end
omit on in
theorem cometPreparedReport_spec (m : ℕ) (n : BitVec 32) : (s.span.index = 0#12 → s.otherMember m = true → (m, n) ∉ s.comet.reports →
      exec (.cometPreparedReport m n) s = .next { s with comet := { s.comet with reports := s.comet.reports ++ [(m, n)] } }) ∧
    (s.span.index ≠ 0#12 → exec (.cometPreparedReport m n) s = .next s) :=
  ⟨fun first other new => congrArg Host.Outcome.next (if_pos ⟨first, other, by simpa using new⟩), fun other => congrArg Host.Outcome.next (if_neg (fun here => other here.1))⟩
omit on in
theorem exec_cometRecordDurable {n : BitVec 32} (committing : s.comet.committing = some n) (active : s.active = true) : exec .cometRecordDurable s =
    .next { s with comet := { s.comet.idle with committed := some n, committing := none }
                   shards := s.shards.filter (fun x => tagOlder n x.step || s.comet.rebuilding == some x.step), pspanOpen := s.pspanOpen.filter (fun p => tagOlder n p.2) } := by
  rw [show exec .cometRecordDurable s = execCometRecordDurable s from rfl, execCometRecordDurable, committing]
  dsimp only
  rw [if_neg (by simp [active])]
omit on in
theorem cometRecordDurable_idle (idle : s.comet.committing = none) : exec .cometRecordDurable s = .next s := by
  rw [show exec .cometRecordDurable s = execCometRecordDurable s from rfl, execCometRecordDurable, idle]
end

end

/-- Settles O52. -/
theorem cometCapture : Obligations.CometCapture := by
  intro s k comets
  refine ⟨fun off n g => comet_off off n g, fun on => ⟨fun free some_ open_ marked => ⟨_, captureBegin_begins on free some_ open_ marked, rfl⟩, fun n waits => captureBegin_waits waits,
    fun g x u tracked uncaptured unpreserved room live => ⟨_, granulePreserve_keeps on tracked uncaptured unpreserved room live, rfl⟩, fun n capture => ⟨fun going done => ⟨fun fits some_ => ?_, fun big => ?_⟩,
    fun older => captureEnd_older capture older, fun g x u ended unwritten uncaptured unit fits => ?_, fun written unprepared idle plain => cometPrepared_prepares on capture written unprepared idle plain⟩,
    fun n prepared idle first => ⟨fun all => cometCommit_commits on prepared idle first all, fun missing => cometCommit_waits on prepared idle first missing⟩⟩, fun m n => ?_, fun n committing active => ?_,
    fun idle => cometRecordDurable_idle idle⟩
  · exact ⟨_, captureEnd_waits on capture going done fits some_, rfl⟩
  · exact captureEnd_abandons on capture going done big
  · obtain ⟨w, comet, crews, last⟩ := imageWhole_frame (s := { s with comet := s.comet.streams x u }) capture
    refine ⟨_, streamGranule_streams on capture ended unwritten uncaptured unit fits, ?_, ?_, fun p member => ?_, ?_, crews, fun only => ?_⟩
    · rw [comet]
      rfl
    · rw [comet]
      rfl
    · rw [comet] at member
      simpa using (List.mem_filter.mp (show p ∈ (s.comet.streams x u).preserved from member)).2
    · rw [comet]
      exact capture
    · rw [comet]
      exact last ended (uncaptured_streams only u)
  · obtain ⟨reports, waits⟩ := cometPreparedReport_spec (s := s) m n
    exact ⟨fun first other new => ⟨_, reports first other new, rfl⟩, waits⟩
  · exact ⟨_, exec_cometRecordDurable committing active, rfl, rfl, rfl, rfl, mem_idle_tracked k, rfl, rfl, rfl, rfl⟩

end Sys2Proof.Machine

/-! ## The host's accesses, rings and events (14 R300 to R304) -/

namespace Sys2Proof.Machine

/-! ### Bytes stored by the host -/

/-- The memory after bytes, each with its place, are stored from an address on. -/
def storeBytes (m : Memory) (pa : ℕ) (l : List (Byte × ℕ)) : Memory := l.foldl (fun m p => cellSet m (pa + p.2) p.1) m

theorem cellGet_storeBytes (b : List Byte) (m : Memory) (pa k a : ℕ) :
    cellGet (storeBytes m pa (b.zipIdx k)) a = if pa + k ≤ a ∧ a < pa + k + b.length then b.getD (a - (pa + k)) 0#8 else cellGet m a := by
  induction b generalizing m k with
  | nil => rw [if_neg (by rw [List.length_nil]; omega)]; rfl
  | cons x b ih =>
    rw [List.zipIdx_cons, storeBytes, List.foldl_cons, ← storeBytes, ih, cellGet_cellSet, List.length_cons]
    by_cases first : a = pa + k
    · rw [if_neg (by omega), if_pos first, if_pos (by omega), first, Nat.sub_self, List.getD_cons_zero]
    · rw [if_neg first]
      by_cases later : pa + (k + 1) ≤ a ∧ a < pa + (k + 1) + b.length
      · rw [if_pos later, if_pos (by omega), show a - (pa + k) = a - (pa + (k + 1)) + 1 by omega, List.getD_cons_succ]
      · rw [if_neg later, if_neg (by omega)]

/-- Within a span that is not lost no byte is. -/
theorem isDead_byte {s : State} {pa n i : ℕ} (alive : s.isDead pa n = false) (h : i < n) : s.isDead (pa + i) 1 = false := by
  rw [State.isDead, List.any_eq_false] at alive ⊢
  intro d hd
  have := alive d hd
  simp only [decide_eq_true_eq] at this ⊢
  omega

/-- The same of poison, which covers whole words. -/
theorem isPoisoned_byte {s : State} {pa n i : ℕ} (clean : s.isPoisoned pa n = false) (h : i < n) : s.isPoisoned (pa + i) 1 = false := by
  rw [State.isPoisoned, List.any_eq_false] at clean ⊢
  intro d hd
  have := clean d hd
  simp only [decide_eq_true_eq] at this ⊢
  omega

theorem foldl_store (pa : ℕ) (l : List (Byte × ℕ)) : ∀ (s : State), (∀ p, p ∈ l → s.isDead (pa + p.2) 1 = false) →
    l.foldl (fun (s : State) p => if s.isDead (pa + p.2) 1 then s else { s with mem := cellSet s.mem (pa + p.2) p.1 }) s = { s with mem := storeBytes s.mem pa l } := by
  induction l with
  | nil => intro s _; rfl
  | cons p l ih =>
    intro s alive
    rw [List.foldl_cons, if_neg (by rw [alive p List.mem_cons_self]; exact Bool.false_ne_true)]
    exact ih { s with mem := cellSet s.mem (pa + p.2) p.1 } (fun q hq => alive q (List.mem_cons_of_mem _ hq))

theorem hostStore_alive {s : State} {pa : ℕ} {b : List Byte} (alive : s.isDead pa b.length = false) :
    s.hostStore pa b = { s with mem := storeBytes s.mem pa b.zipIdx }.clearPoison pa b.length := by
  rw [State.hostStore, foldl_store]
  intro p hp
  have := (List.mem_zipIdx' hp).1
  exact isDead_byte alive this

/-- Bytes stored over no lost line are there, and no other byte changes. -/
theorem hostStore_bytes {s : State} {pa : ℕ} {b : List Byte} (alive : s.isDead pa b.length = false) :
    (∀ i, i < b.length → (s.hostStore pa b).byteAt (pa + i) = b.getD i 0#8) ∧ sameBytesBut s (s.hostStore pa b) pa b.length := by
  have stored (a : ℕ) : (s.hostStore pa b).byteAt a = if pa ≤ a ∧ a < pa + b.length then b.getD (a - pa) 0#8 else s.byteAt a := by
    rw [hostStore_alive alive]
    exact cellGet_storeBytes b s.mem pa 0 a
  refine ⟨fun i h => ?_, fun a h => ?_⟩
  · rw [stored, if_pos (by omega), Nat.add_sub_cancel_left]
  · rw [stored, if_neg (by omega)]

/-! ### What the host's requests count and read -/

theorem hostCount_eq (s : State) (addr n : ℕ) (wr : Bool) : ∃ p k, s.hostCount addr n wr = { s with perf := p, free := k } := by
  unfold State.hostCount
  generalize List.range _ = l
  induction l generalizing s with
  | nil => exact ⟨s.perf, s.free, rfl⟩
  | cons i l ih =>
    obtain ⟨p, k, first⟩ := countRequest_eq s (paDie (addr / 64 * 64 + 64 * i)) (addr / 64 * 64 + 64 * i) wr
    obtain ⟨p', k', rest⟩ := ih { s with perf := p, free := k }
    exact ⟨p', k', by rw [List.foldl_cons, first, rest]⟩

theorem devRead_alive (s : State) (pa n : ℕ) (alive : s.isDead pa n = false) (clean : s.isPoisoned pa n = false) (hbm : pa + n ≤ 2 ^ 40) :
    s.devRead pa n = (s, (List.range n).map (fun i => s.byteAt (pa + i))) := by
  suffices ∀ m, m ≤ n → s.devRead pa m = (s, (List.range m).map (fun i => s.byteAt (pa + i))) from this n le_rfl
  intro m hm
  induction m with
  | zero => rfl
  | succ m ih =>
    have byte : BitVec.ofNat 8 (s.physRead (pa + m) 1) = s.byteAt (pa + m) := by
      rw [physRead_hbm s (by omega)]
      simp [readLE, State.byteAt]
    rw [State.devRead, isDead_byte alive hm, isPoisoned_byte clean hm, if_neg (by simp), ih (by omega), byte, List.range_succ, List.map_append]
    rfl

/-! ### Rings -/

theorem apertureQueue_at {q o : ℕ} (hq : q < 64) (ho : o < 0x80000) : apertureQueue (0x100000 + 0x80000 * q + o) = some (q, o) := by
  have below : ¬ 0x100000 + 0x80000 * q + o < 0x100000 := by omega
  have queue : (0x100000 + 0x80000 * q + o - 0x100000) / 0x80000 = q := by omega
  have place : (0x100000 + 0x80000 * q + o - 0x100000) % 0x80000 = o := by omega
  simp only [apertureQueue, if_neg below, queue, place, if_pos hq]

theorem apertureQueue_inside {off : ℕ} (lo : 0x100000 ≤ off) (hi : off < 0x100000 + 64 * 0x80000) : (apertureQueue off).isSome = true := by
  simp only [apertureQueue, if_neg (not_lt.2 lo), if_pos (show (off - 0x100000) / 0x80000 < 64 by omega), Option.isSome_some]

theorem apertureQueue_below {off : ℕ} (h : off < 0x100000) : apertureQueue off = none := if_pos h

theorem ringAt_queue {q o : ℕ} (hq : q < 64) (ho : o < 16) : ringAt (16 * q + o) = some (.queue q) := by
  simp only [ringAt, show (16 * q + o) / 16 = q by omega, if_pos hq]

theorem bar2Word_queue {s : State} {q o : ℕ} {g : Ring} (hq : q < 64) (ho : o < 16) (hg : s.lqs[q]? = some g) : s.bar2Word (16 * q + o) = some (g.word o) := by
  rw [State.bar2Word, apertureQueue_below (by omega), ringAt_queue hq ho, show (16 * q + o) % 16 = o by omega]
  simp [State.ring, List.getD_eq_getElem?_getD, hg]

theorem barRead_bar2 {s : State} (hu : s.usable = true) {off : ℕ} {v : BitVec 32} (hv : s.bar2Word (off / 4 * 4) = some v) : (s.barRead 2 off).hostRead = leBytes 4 v.toNat := by
  simp [State.barRead, hu, hv]

theorem barRead_queue {s : State} (hu : s.usable = true) {q o : ℕ} {g : Ring} (hq : q < 64) (ho : o < 16) (aligned : o % 4 = 0) (hg : s.lqs[q]? = some g) :
    (s.barRead 2 (16 * q + o)).hostRead = leBytes 4 (g.word o).toNat :=
  barRead_bar2 hu (by rw [show (16 * q + o) / 4 * 4 = 16 * q + o by omega, bar2Word_queue hq ho hg])

theorem Ring.word_flags (g : Ring) : (g.word 8).toNat = g.en.toNat + 2 * g.priv.toNat + 4 * g.err.toNat + 8 * g.low.toNat := by
  have : g.word 8 = flagBit g.en 0 ||| flagBit g.priv 1 ||| flagBit g.err 2 ||| flagBit g.low 3 := rfl
  rw [this]
  generalize g.en = a; generalize g.priv = b; generalize g.err = c; generalize g.low = d
  decide +revert

/-- What the mark of a low pool follows, and the event of its rise. -/
theorem poolLow_spec {s : State} {p : ℕ} {g : Ring} (hg : s.pools[p]? = some g) :
    (s.poolLow p).pools = s.pools.set p { g with low := g.en && decide ((g.prod - g.cons).toNat < g.lowMark.toNat) } ∧
      raised s (s.poolLow p) 3 (if (g.en && decide ((g.prod - g.cons).toNat < g.lowMark.toNat)) = true ∧ g.low = false then 1 else 0) := by
  unfold State.poolLow
  rw [hg]
  dsimp only
  generalize (g.en && decide ((g.prod - g.cons).toNat < g.lowMark.toNat)) = low
  by_cases rises : low = true ∧ g.low = false
  · rw [if_pos (by simp [rises]), if_pos rises]
    exact ⟨rfl, raise_raised { s with pools := s.pools.set p { g with low := low } } 0 0 0 p (by decide)⟩
  · rw [if_neg (by simpa using rises), if_neg rises]
    exact ⟨rfl, [], (List.append_nil _).symm, rfl, fun e he => absurd he List.not_mem_nil⟩

/-- A new prod of a pool with its registers on: the mark of a low pool and its event follow, and the crews that it had stopped may be placed. -/
theorem putPoolProd_spec {s : State} (hu : s.usable = true) {p : ℕ} {g : Ring} (v : BitVec 16) (hg : s.pools[p]? = some g) (on : g.en = true) :
    (s.putPoolProd p v).pools[p]? = some { g with prod := v, low := decide ((v - g.cons).toNat < g.lowMark.toNat) } ∧ (∀ q, q ≠ p → (s.putPoolProd p v).pools[q]? = s.pools[q]?) ∧
      raised s (s.putPoolProd p v) 3 (if g.low = false ∧ (v - g.cons).toNat < g.lowMark.toNat then 1 else 0) ∧ (s.putPoolProd p v).mem = s.mem ∧
      (∀ (k : ℕ) (c : Crew), s.crewAt k = some c → (s.putPoolProd p v).crewAt k = some { c with placeable := c.placeable || (v != g.prod && c.poolZ == some (p % 3)) }) := by
  have hp : p < s.pools.length := (List.getElem?_eq_some_iff.1 hg).1
  obtain ⟨pools, event⟩ := poolLow_spec (s := { s with pools := s.pools.set p { g with prod := v } }) (List.getElem?_set_self hp)
  have form : s.putPoolProd p v =
      if v = g.prod then { s with pools := s.pools.set p { g with prod := v } }.poolLow p
      else { { s with pools := s.pools.set p { g with prod := v } }.poolLow p with
        crews := ({ s with pools := s.pools.set p { g with prod := v } }.poolLow p).crews.map (fun (c : Crew) => if c.poolZ == some (p % 3) then { c with placeable := true } else c) } := by
    unfold State.putPoolProd
    rw [hg]
    dsimp only
    rw [hu, on, if_neg (by decide)]
  have keptCrews : ({ s with pools := s.pools.set p { g with prod := v } }.poolLow p).crews = s.crews := poolLow_crews _ p
  have keptMem : ({ s with pools := s.pools.set p { g with prod := v } }.poolLow p).mem = s.mem := State.poolLow_mem _ p
  rw [form]
  generalize { s with pools := s.pools.set p { g with prod := v } }.poolLow p = u at *
  have after : (if v = g.prod then u else { u with crews := u.crews.map (fun (c : Crew) => if c.poolZ == some (p % 3) then { c with placeable := true } else c) }) =
      { u with crews := s.crews.map (fun (c : Crew) => { c with placeable := c.placeable || (v != g.prod && c.poolZ == some (p % 3)) }) } := by
    by_cases hv : v = g.prod
    · have unchanged : s.crews.map (fun (c : Crew) => { c with placeable := c.placeable || (v != g.prod && c.poolZ == some (p % 3)) }) = s.crews := by
        refine (List.map_congr_left fun c _ => ?_).trans (List.map_id _)
        rw [bne_eq_false_iff_eq.2 hv, Bool.false_and, Bool.or_false]
        rfl
      rw [if_pos hv, unchanged, ← keptCrews]
    · rw [if_neg hv, keptCrews, (bne_iff_ne.2 hv : (v != g.prod) = true)]
      refine congrArg (fun l => { u with crews := l }) (List.map_congr_left fun c _ => ?_)
      cases c.poolZ == some (p % 3)
      · rw [if_neg Bool.false_ne_true, Bool.and_false, Bool.or_false]
      · rw [if_pos rfl, Bool.and_true, Bool.or_true]
  rw [after]
  refine ⟨?_, fun q hq => ?_, ?_, keptMem, fun k c hc => ?_⟩
  · rw [pools, List.getElem?_set_self (by rwa [List.length_set]), on, Bool.true_and]
  · rw [pools, List.getElem?_set_ne (Ne.symm hq), List.getElem?_set_ne (Ne.symm hq)]
  · simp only [on, Bool.true_and, decide_eq_true_eq, and_comm] at event
    exact event
  · rw [State.crewAt, List.getElem?_map, show s.crews[k]? = some c from hc]
    rfl

/-! ### Events and the settlement -/

theorem eventWrite_room {s : State} (hu : s.usable = true) {e : BitVec 256} {rest : List (BitVec 256)} (he : s.events = e :: rest) (on : s.evRing.en = true)
    (room : (s.evRing.prod - s.evRing.cons).toNat < 2 ^ s.evRing.k) :
    exec .eventWrite s = .next { s with events := rest, hostRing := upsert (fun p => p.1 == s.evRing.prod.toNat % 2 ^ s.evRing.k) (s.evRing.prod.toNat % 2 ^ s.evRing.k, e) s.hostRing, evRing := { s.evRing with prod := s.evRing.prod + 1#16 }, msix := if s.evRing.prod = s.evRing.cons then s.msix ||| 2#2 else s.msix } := by
  rw [show exec .eventWrite s = execEventWrite s from rfl, execEventWrite, he]
  dsimp only
  rw [hu, on, decide_eq_false (not_le.2 room), if_neg (by decide)]

theorem eventWrite_full {s : State} (hu : s.usable = true) {e : BitVec 256} {rest : List (BitVec 256)} (he : s.events = e :: rest) (on : s.evRing.en = true)
    (full : 2 ^ s.evRing.k ≤ (s.evRing.prod - s.evRing.cons).toNat) : exec .eventWrite s = .next s := by
  rw [show exec .eventWrite s = execEventWrite s from rfl, execEventWrite, he]
  dsimp only
  rw [hu, on, decide_eq_true full, if_pos (by decide)]

/-- Before the last boot stage the host reaches nothing. -/
theorem host_unusable {s : State} (h : s.usable = false) (q off : ℕ) (v : BitVec 16) (bs : List Byte) :
    exec (.launchQueueProdWrite q v) s = .next s ∧ exec (.poolProdWrite q v) s = .next s ∧ exec (.eventRingConsWrite v) s = .next s ∧
      exec (.queueApertureWrite off bs) s = .next s ∧ exec (.hostCxlMemRead q off) s = .next s ∧ exec (.hostCxlMemWrite q bs) s = .next s ∧ exec .eventWrite s = .next s := by
  have queue : s.putQueueProd q v = s := by unfold State.putQueueProd; split <;> simp [h]
  have pool : s.putPoolProd q v = s := by unfold State.putPoolProd; split <;> simp [h]
  have event : s.putEventCons v = s := by simp [State.putEventCons, h]
  have aperture : s.apertureWrite off bs = s := by
    unfold State.apertureWrite
    split
    · rfl
    · split <;> simp [h]
  have write : execEventWrite s = .next s := by unfold execEventWrite; split <;> simp [h]
  have read : execHostCxlMemRead q off s = .next s := by simp [execHostCxlMemRead, h]
  have stores : execHostCxlMemWrite q bs s = .next s := by simp [execHostCxlMemWrite, h]
  exact ⟨congrArg Host.Outcome.next queue, congrArg Host.Outcome.next pool, congrArg Host.Outcome.next event, congrArg Host.Outcome.next aperture, read, stores, write⟩

theorem exec_hostCxlMemRead {s : State} (hu : s.usable = true) {addr n : ℕ} (inside : addr + n ≤ 2 ^ 40) (alive : s.isDead addr n = false) (clean : s.isPoisoned addr n = false) :
    ∃ s', exec (.hostCxlMemRead addr n) s = .next s' ∧ s'.hostRead = (List.range n).map (fun i => s.byteAt (addr + i)) ∧ { s' with hostRead := s.hostRead, perf := s.perf, free := s.free } = s := by
  obtain ⟨p, k, counted⟩ := hostCount_eq s addr n false
  have bytes := devRead_alive { s with perf := p, free := k } addr n alive clean inside
  refine ⟨{ s with perf := p, free := k, hostRead := (List.range n).map (fun i => s.byteAt (addr + i)) }, ?_, rfl, rfl⟩
  rw [show exec (.hostCxlMemRead addr n) s = execHostCxlMemRead addr n s from rfl, execHostCxlMemRead, hu, hostRange, decide_eq_true inside, Bool.and_self, if_pos rfl, counted, bytes]
  rfl

theorem exec_hostCxlMemWrite {s : State} (hu : s.usable = true) {addr : ℕ} {bs : List Byte} (inside : addr + bs.length ≤ 2 ^ 40) (alive : s.isDead addr bs.length = false) :
    ∃ s', exec (.hostCxlMemWrite addr bs) s = .next s' ∧ (∀ i, i < bs.length → s'.byteAt (addr + i) = bs.getD i 0#8) ∧ sameBytesBut s s' addr bs.length ∧
      { s' with mem := s.mem, poison := s.poison, perf := s.perf, free := s.free } = s := by
  obtain ⟨p, k, counted⟩ := hostCount_eq s addr bs.length true
  have runs : exec (.hostCxlMemWrite addr bs) s = .next (({ s with perf := p, free := k } : State).hostStore addr bs) := by
    rw [show exec (.hostCxlMemWrite addr bs) s = execHostCxlMemWrite addr bs s from rfl, execHostCxlMemWrite, hu, hostRange, decide_eq_true inside, Bool.and_self, if_pos rfl, counted]
  have alive' : ({ s with perf := p, free := k } : State).isDead addr bs.length = false := alive
  obtain ⟨stored, others⟩ := hostStore_bytes alive'
  refine ⟨_, runs, stored, others, ?_⟩
  rw [hostStore_alive alive']
  rfl

theorem exec_queueApertureWrite {s : State} (hu : s.usable = true) {q o : ℕ} {bs : List Byte} {g : Ring} (hq : q < 64) (fits : o + bs.length ≤ 128 * 2 ^ g.k) (ho : o < 0x80000)
    (hg : s.lqs[q]? = some g) (on : g.en = true) (alive : s.isDead (g.base + o) bs.length = false) :
    ∃ s', exec (.queueApertureWrite (0x100000 + 0x80000 * q + o) bs) s = .next s' ∧ (∀ i, i < bs.length → s'.byteAt (g.base + o + i) = bs.getD i 0#8) ∧ sameBytesBut s s' (g.base + o) bs.length ∧
      { s' with mem := s.mem, poison := s.poison } = s := by
  have runs : exec (.queueApertureWrite (0x100000 + 0x80000 * q + o) bs) s = .next (s.hostStore (g.base + o) bs) := by
    rw [show exec (.queueApertureWrite (0x100000 + 0x80000 * q + o) bs) s = execQueueApertureWrite (0x100000 + 0x80000 * q + o) bs s from rfl, execQueueApertureWrite, State.apertureWrite, apertureQueue_at hq ho]
    dsimp only
    rw [hg]
    dsimp only
    rw [hu, on, Bool.and_self, if_pos rfl, List.take_of_length_le (by omega)]
  obtain ⟨stored, others⟩ := hostStore_bytes alive
  refine ⟨_, runs, stored, others, ?_⟩
  rw [hostStore_alive alive]
  rfl

/-- The registers of a launch queue: what a read returns, and that cons takes no write. -/
theorem queueRegisters {s : State} (hu : s.usable = true) {q : ℕ} {g : Ring} (hq : q < 64) (hg : s.lqs[q]? = some g) :
    (s.barRead 2 (16 * q)).hostRead = leBytes 4 g.prod.toNat ∧ (s.barRead 2 (16 * q + 4)).hostRead = leBytes 4 g.cons.toNat ∧ (s.barRead 2 (16 * q + 12)).hostRead = leBytes 4 0 ∧
      (s.barRead 2 (16 * q + 8)).hostRead = leBytes 4 (g.en.toNat + 2 * g.priv.toNat + 4 * g.err.toNat + 8 * g.low.toNat) ∧
      (∀ v : BitVec 32, s.barWrite 2 (16 * q) v = s.putQueueProd q (v.setWidth 16) ∧ s.barWrite 2 (16 * q + 4) v = s) := by
  have prod : (g.word 0).toNat = g.prod.toNat := BitVec.toNat_setWidth_of_le (b := g.prod) (w' := 32) (by decide)
  have cons : (g.word 4).toNat = g.cons.toNat := BitVec.toNat_setWidth_of_le (b := g.cons) (w' := 32) (by decide)
  have write (o : ℕ) (ho : o < 16) (v : BitVec 32) : s.barWrite 2 (16 * q + o) v = if o = 0 then s.putQueueProd q (v.setWidth 16) else s := by
    rw [State.barWrite, if_neg (by decide), State.bar2Write, apertureQueue_below (by omega), Option.isSome_none, if_neg Bool.false_ne_true, ringAt_queue hq ho,
      show (16 * q + o) % 16 = o by omega]
  refine ⟨?_, ?_, ?_, ?_, fun v => ⟨write 0 (by decide) v, write 4 (by decide) v⟩⟩
  · rw [← prod]; exact barRead_queue hu hq (o := 0) (by decide) rfl hg
  · rw [← cons]; exact barRead_queue hu hq (o := 4) (by decide) rfl hg
  · exact barRead_queue hu hq (o := 12) (by decide) rfl hg
  · rw [← g.word_flags]; exact barRead_queue hu hq (o := 8) (by decide) rfl hg

theorem exec_launchQueueProdWrite {s : State} (hu : s.usable = true) {q : ℕ} {v : BitVec 16} {g : Ring} (hg : s.lqs[q]? = some g) (on : g.en = true) :
    exec (.launchQueueProdWrite q v) s = .next { s with lqs := s.lqs.set q { g with prod := v, err := g.err || decide (2 ^ g.k < (v - g.cons).toNat) } } := by
  rw [show exec (.launchQueueProdWrite q v) s = .next (s.putQueueProd q v) from rfl, State.putQueueProd, hg]
  dsimp only
  rw [hu, on, if_neg (by decide)]

theorem exec_eventRingConsWrite {s : State} (hu : s.usable = true) (v : BitVec 16) :
    exec (.eventRingConsWrite v) s = .next (if s.evRing.en then { s with evRing := { s.evRing with cons := v } } else s) := by
  rw [show exec (.eventRingConsWrite v) s = .next (s.putEventCons v) from rfl, State.putEventCons, hu, Bool.true_and]

theorem exec_hostCxlMemRead_outside {s : State} {addr n : ℕ} (outside : 2 ^ 40 < addr + n) : exec (.hostCxlMemRead addr n) s = .next s := by
  rw [show exec (.hostCxlMemRead addr n) s = execHostCxlMemRead addr n s from rfl, execHostCxlMemRead, hostRange, decide_eq_false (not_le.2 outside), Bool.and_false, if_neg Bool.false_ne_true]

/-- Settles O48. -/
theorem hostRings : Obligations.HostRings := by
  unfold Obligations.HostRings
  refine fun s => ⟨fun h q off v bs => host_unusable h q off v bs, fun hu => ⟨fun q v g hg on => exec_launchQueueProdWrite hu hg on,
    fun p v g hg on => ⟨_, rfl, putPoolProd_spec hu v hg on⟩, exec_eventRingConsWrite hu, fun addr n inside alive clean => exec_hostCxlMemRead hu inside alive clean,
    fun addr n outside => exec_hostCxlMemRead_outside outside, fun addr bs inside alive => exec_hostCxlMemWrite hu inside alive,
    fun q o bs g hq fits ho hg on alive => exec_queueApertureWrite hu hq fits ho hg on alive, fun e rest he on => ⟨eventWrite_full hu he on, fun room => ?_⟩,
    fun q g hq hg => queueRegisters hu hq hg, fun off lo hi => ?_⟩, ?_⟩
  · refine ⟨_, eventWrite_room hu he on room, rfl, mem_upsert_self _ _ _, rfl, fun empty => ?_, rfl⟩
    rw [if_pos empty, BitVec.getLsbD_or]
    exact Bool.or_true _
  · have zero : s.bar2Word (off / 4 * 4) = some 0#32 := if_pos (apertureQueue_inside (by omega) (by omega))
    exact barRead_bar2 hu zero
  · exact ⟨_, rfl, rfl, rfl, rfl, rfl, rfl⟩

end Sys2Proof.Machine

/-! ## Mailbox commands that configure queues, pools, ranges and the span (14 R303, R305 to R312) -/

namespace Sys2Proof.Machine

/-! ### What the fabric's own work changes -/

/-- Nothing but the ports, what they send and count, and the events they raise changes. -/
def State.onlyPorts (s s' : State) : Prop := ∃ o p f e n, s' = { s with outbox := o, ports := p, perf := f, events := e, evSeq := n }

theorem State.onlyPorts.refl (s : State) : s.onlyPorts s := ⟨s.outbox, s.ports, s.perf, s.events, s.evSeq, rfl⟩
theorem State.onlyPorts.trans {s s1 s2 : State} (first : s.onlyPorts s1) (second : s1.onlyPorts s2) : s.onlyPorts s2 := by
  obtain ⟨o, p, f, e, n, rfl⟩ := first
  obtain ⟨o', p', f', e', n', rfl⟩ := second
  exact ⟨o', p', f', e', n', rfl⟩
theorem State.onlyPorts_foldl {α : Type} {f : State → α → State} (only : ∀ (s : State) x, s.onlyPorts (f s x)) (l : List α) (s : State) : s.onlyPorts (l.foldl f s) := by
  induction l generalizing s with
  | nil => exact .refl s
  | cons x l ih => exact (only s x).trans (ih _)
theorem State.onlySends.onlyPorts {s s' : State} (sends : s.onlySends s') : s.onlyPorts s' := by
  obtain ⟨o, p, f, rfl⟩ := sends
  exact ⟨o, p, f, s.events, s.evSeq, rfl⟩
theorem State.onlyPorts_portTo (s : State) (p st : ℕ) : s.onlyPorts (s.portTo p st) := by
  unfold State.portTo
  split
  · exact .refl s
  · split
    · exact .refl s
    · exact ⟨_, _, _, _, _, rfl⟩
theorem State.onlySends_linkFlit (s : State) (p kind : ℕ) (seq : BitVec 16) (payload : List Byte) : s.onlySends (s.linkFlit p kind seq payload) := by
  obtain ⟨perf, counted⟩ := count_eq { s with outbox := s.outbox ++ [sealed { port := p, kind := BitVec.ofNat 8 kind, fver := Config.fabricVersion.setWidth 4, vc := 0#4, dst := 0#12, src := s.span.index, seq := seq, tag := 0#32, payload := flitPayload payload, crc := 0#32 }] } (p / 6) 0x0E 1
  exact ⟨_, _, _, counted⟩
theorem State.onlyPorts_portHello (s : State) (p : ℕ) : s.onlyPorts (s.portHello p) := (s.onlyPorts_portTo p 2).trans (State.onlySends_linkFlit _ _ _ _ _).onlyPorts
theorem State.onlyPorts_rehello (s : State) : s.onlyPorts s.rehello := by
  refine State.onlyPorts_foldl (fun u p => ?_) _ s
  split
  · exact .refl u
  · split
    · exact u.onlyPorts_portHello p
    · exact .refl u

/-! ### When no command runs -/

/-- The commands that configure the device, with the opcode each runs under. -/
def configures : Instr → Option (ℕ × List Byte)
  | .queueConfig p => some (opQueueConfig, p)
  | .rangeReserve p => some (opRangeReserve, p)
  | .rangeRelease p => some (opRangeRelease, p)
  | .poolConfig p => some (opPoolConfig, p)
  | .xlateInval p => some (opXlateInval, p)
  | .eventConfig p => some (opEventConfig, p)
  | .portStatus p => some (opPortStatus, p)
  | .spanJoin p => some (opSpanJoin, p)
  | .spanLeave p => some (opSpanLeave, p)
  | _ => none

theorem configures_busy {s : State} {i : Instr} {op : ℕ} {p : List Byte} (is : configures i = some (op, p)) (busy : s.mailboxFree op p = false) : exec i s = .next s := by
  cases i <;> cases is
  case queueConfig => exact (mailbox_busy busy _ _ : execQueueConfig p s = .next s)
  case rangeReserve => exact (mailbox_busy busy _ _ : execRangeReserve p s = .next s)
  case rangeRelease => exact (mailbox_busy busy _ _ : execRangeRelease p s = .next s)
  case poolConfig => exact (mailbox_busy busy _ _ : execPoolConfig p s = .next s)
  case xlateInval => exact (mailbox_busy busy _ _ : execXlateInval p s = .next s)
  case spanJoin => exact (mailbox_busy busy _ _ : execSpanJoin p s = .next s)
  case spanLeave => exact (mailbox_busy busy _ _ : execSpanLeave p s = .next s)
  case eventConfig => exact (mailbox_busy busy _ _ : execEventConfig p s = .next s)
  case portStatus => exact (mailbox_busy busy _ _ : execPortStatus p s = .next s)

theorem mailboxFree_unusable {s : State} (h : s.usable = false) (op : ℕ) (p : List Byte) : s.mailboxFree op p = false := by simp [State.mailboxFree, h]

theorem mailboxFree_running {s : State} {op op' : ℕ} {p q : List Byte} (run : s.mailboxRun = some (op', q)) (other : op' = op → q ≠ p) : s.mailboxFree op p = false := by
  have : ((op', q) == (op, p)) = false := beq_eq_false_iff_ne.2 fun h => other (congrArg Prod.fst h) (congrArg Prod.snd h)
  rw [State.mailboxFree, run]
  exact (congrArg _ this).trans (Bool.and_false _)

/-! ### Answers that keep memory and crews -/

/-- A mailbox command ends with this code, memory and the crews stay, and the state is such as `f` says. -/
abbrev State.answersKept (s : State) (i : Instr) (code : ℕ) (f : State → Prop) : Prop := s.answers i code fun s' => s'.mem = s.mem ∧ s'.crews = s.crews ∧ f s'

theorem answersKept_of {s u : State} {i : Instr} {code : ℕ} {out : List Byte} {f : State → Prop} (runs : exec i s = .next (u.answer code out)) (irq : u.mailboxIrq = s.mailboxIrq)
    (msix : u.msix = s.msix) (mem : u.mem = s.mem) (crews : u.crews = s.crews) (holds : f (u.answer code out)) : s.answersKept i code f :=
  answers_of runs irq msix ⟨mem, crews, holds⟩
theorem answersKept_only {s : State} (takes : s.takesCommand) {i : Instr} {code : ℕ} {out : List Byte} (runs : exec i s = .next (s.answer code out)) : s.answersKept i code s.onlyAnswers :=
  answersKept_of runs rfl rfl rfl rfl (onlyAnswers_answer takes code out)
theorem answersKept_short {s : State} (takes : s.takesCommand) {i : Instr} {op n : ℕ} {p : List Byte} {f : State → State} (runs : exec i s = mailbox s op p n f) (short : p.length < n) :
    s.answersKept i 2 s.onlyAnswers := answersKept_only takes (runs.trans (mailbox_short takes short f))

section
variable {s : State} (takes : s.takesCommand)
include takes

/-! ### Queues, pools and the event ring -/

theorem exec_queueConfig {q k flags base : ℕ} {g : Ring} (hg : s.lqs[q]? = some g) (hq : q < 64) (hk : k ≤ 12) (hf : flags < 256) (fits : base + 2 ^ (k + 7) ≤ 2 ^ 40) (aligned : base % 2 ^ (k + 7) = 0) :
    exec (.queueConfig (leBytes 1 q ++ leBytes 1 k ++ leBytes 6 flags ++ leBytes 8 base)) s = .next (
      if g.cons ≠ g.prod ∧ g.err = false then s.answer rcBusy []
      else { s with lqs := s.lqs.set q { k := k, base := base, en := decide (k ≠ 0), priv := decide (flags % 2 = 1) } }.answer rcSuccess []) := by
  rw [show exec (.queueConfig (leBytes 1 q ++ leBytes 1 k ++ leBytes 6 flags ++ leBytes 8 base)) s = execQueueConfig (leBytes 1 q ++ leBytes 1 k ++ leBytes 6 flags ++ leBytes 8 base) s from rfl,
    execQueueConfig, mailbox_runs takes (by simp [length_leBytes])]
  simp only [List.append_assoc, Nat.reduceLeDiff, payAt_append_left, payAt_append_right, length_leBytes, payAt_leBytes, payAt_leBytes_prefix, zero_add, Nat.reduceSub, Nat.sub_self, le_refl,
    Nat.reducePow, Nat.mod_eq_of_lt (show q < 256 by omega), Nat.mod_eq_of_lt (show k < 256 by omega), Nat.mod_eq_of_lt hf, Nat.mod_eq_of_lt (show base < 18446744073709551616 by omega), hg]
  rw [if_neg (by omega)]

/-- Payloads shorter than their fields. -/
theorem configuration_short {p : List Byte} (short : p.length < 16) : s.answersKept (.queueConfig p) 2 s.onlyAnswers ∧ s.answersKept (.poolConfig p) 2 s.onlyAnswers ∧
    s.answersKept (.eventConfig p) 2 s.onlyAnswers ∧ s.answersKept (.xlateInval p) 2 s.onlyAnswers ∧ s.answersKept (.rangeReserve p) 2 s.onlyAnswers ∧ s.answersKept (.spanJoin p) 2 s.onlyAnswers :=
  ⟨answersKept_only takes (mailbox_short takes short _ : execQueueConfig p s = _), answersKept_only takes (mailbox_short takes short _ : execPoolConfig p s = _),
    answersKept_only takes (mailbox_short takes short _ : execEventConfig p s = _), answersKept_only takes (mailbox_short takes short _ : execXlateInval p s = _),
    answersKept_only takes (mailbox_short takes (by omega) _ : execRangeReserve p s = _), answersKept_only takes (mailbox_short takes (by omega) _ : execSpanJoin p s = _)⟩

theorem exec_mailboxUnsupportedOpcode {op : BitVec 16} (vendor : op.toNat / 256 ≠ 0) (unlisted : ¬(0xC000 ≤ op.toNat ∧ op.toNat ≤ 0xC017 ∧ op.toNat ≠ 0xC010)) :
    exec (.mailboxUnsupportedOpcode op) s = .next (s.answer rcUnsupported []) := by
  have listed : mailboxListed op.toNat = false := by
    rw [Bool.eq_false_iff]
    intro h
    rw [mailboxListed, Bool.and_eq_true, decide_eq_true_eq, bne_iff_ne] at h
    obtain ⟨⟨lo, hi⟩, other⟩ := h
    exact unlisted ⟨lo, hi, other⟩
  rw [show exec (.mailboxUnsupportedOpcode op) s = execMailboxUnsupportedOpcode op s from rfl, execMailboxUnsupportedOpcode, mailbox_runs takes (Nat.zero_le _), listed,
    if_neg (by simp [vendor])]

theorem exec_poolConfig {die z k low base : ℕ} (hd : die < 4) (hz : z < 3) (hk : 1 ≤ k) (hk' : k ≤ 15) (hl : low < 65536) (aligned : base % 8 = 0) (fits : base + 8 * 2 ^ k ≤ 2 ^ 40) :
    exec (.poolConfig (leBytes 1 die ++ leBytes 1 z ++ leBytes 2 k ++ leBytes 4 low ++ leBytes 8 base)) s = .next (
      if s.walks.any (fun w => w.pool == 3 * die + z) then s.answer rcBusy []
      else ({ s with pools := s.pools.set (3 * die + z) { k := k, base := base, en := true, lowMark := BitVec.ofNat 16 low } }.poolLow (3 * die + z)).answer rcSuccess []) := by
  rw [show exec (.poolConfig (leBytes 1 die ++ leBytes 1 z ++ leBytes 2 k ++ leBytes 4 low ++ leBytes 8 base)) s = execPoolConfig (leBytes 1 die ++ leBytes 1 z ++ leBytes 2 k ++ leBytes 4 low ++ leBytes 8 base) s from rfl,
    execPoolConfig, mailbox_runs takes (by simp [length_leBytes])]
  have kByte : payAt (leBytes 2 k ++ (leBytes 4 low ++ leBytes 8 base)) 0 1 = k := by
    rw [payAt_append_left (by simp [length_leBytes]), payAt_leBytes_prefix (by decide), Nat.mod_eq_of_lt (by omega)]
  have lowBytes : payAt (leBytes 4 low ++ leBytes 8 base) 0 2 = low := by
    rw [payAt_append_left (by simp [length_leBytes]), payAt_leBytes_prefix (by decide), Nat.mod_eq_of_lt (by omega)]
  simp only [List.append_assoc, Nat.reduceLeDiff, payAt_append_left, payAt_append_right, length_leBytes, payAt_leBytes, zero_add, Nat.reduceSub, Nat.sub_self, le_refl,
    Nat.reducePow, Nat.mod_eq_of_lt (show die < 256 by omega), Nat.mod_eq_of_lt (show z < 256 by omega), Nat.mod_eq_of_lt (show base < 18446744073709551616 by omega), kByte, lowBytes]
  rw [if_neg (by omega)]

theorem exec_eventConfig {k base : ℕ} (hk : 4 ≤ k) (hk' : k ≤ 15) (aligned : base % 32 = 0) (hb : base < 2 ^ 64) :
    exec (.eventConfig (leBytes 8 k ++ leBytes 8 base)) s = .next ({ s with evRing := { k := k, base := base, en := true }, hostRing := [] }.answer rcSuccess []) := by
  rw [show exec (.eventConfig (leBytes 8 k ++ leBytes 8 base)) s = execEventConfig (leBytes 8 k ++ leBytes 8 base) s from rfl, execEventConfig, mailbox_runs takes (by simp [length_leBytes])]
  simp only [Nat.reduceLeDiff, payAt_append_left, payAt_append_right, length_leBytes, payAt_leBytes, payAt_leBytes_prefix, zero_add, Nat.sub_self, le_refl,
    Nat.reducePow, Nat.mod_eq_of_lt (show k < 256 by omega), Nat.mod_eq_of_lt (show base < 18446744073709551616 from hb)]
  rw [if_neg (by omega)]

/-! ### Ranges and translations -/

theorem exec_rangeReserve {base len z table : ℕ} (hz : z < 3) (hb : base % pageSize z = 0) (hl : len % pageSize z = 0) (some_ : 0 < len) (fits : base + len ≤ 2 ^ 56) (aligned : table % 8 = 0)
    (tableFits : table + 8 * (len / pageSize z) ≤ 2 ^ 40) (apart : ∀ r, r ∈ s.ranges → base + len ≤ r.base ∨ r.base + r.len ≤ base) (alone : s.span.joined = false) (slot : s.rangeSlot < 1024) :
    exec (.rangeReserve (leBytes 8 base ++ leBytes 8 len ++ leBytes 8 z ++ leBytes 8 table)) s = .next (
      { s with ranges := if s.rangeSlot < s.ranges.length then s.ranges.set s.rangeSlot ⟨base, len, z, table⟩ else s.ranges ++ [(⟨base, len, z, table⟩ : Range)] }.answer rcSuccess (leBytes 2 s.rangeSlot)) := by
  rw [show exec (.rangeReserve (leBytes 8 base ++ leBytes 8 len ++ leBytes 8 z ++ leBytes 8 table)) s = execRangeReserve (leBytes 8 base ++ leBytes 8 len ++ leBytes 8 z ++ leBytes 8 table) s from rfl,
    execRangeReserve, mailbox_runs takes (by simp [length_leBytes])]
  have zByte : payAt (leBytes 8 z ++ leBytes 8 table) 0 1 = z := by
    rw [payAt_append_left (by simp [length_leBytes]), payAt_leBytes_prefix (by decide), Nat.mod_eq_of_lt (by omega)]
  have free : s.ranges.any (fun r => overlaps r.base r.len base len) = false := by
    rw [List.any_eq_false]
    intro r hr
    have := apart r hr
    simp only [overlaps, decide_eq_true_eq]
    omega
  simp only [List.append_assoc, Nat.reduceLeDiff, payAt_append_left, payAt_append_right, length_leBytes, payAt_leBytes, zero_add, Nat.reduceSub, Nat.sub_self, le_refl,
    Nat.reducePow, Nat.mod_eq_of_lt (show base < 18446744073709551616 by omega), Nat.mod_eq_of_lt (show len < 18446744073709551616 by omega), Nat.mod_eq_of_lt (show table < 18446744073709551616 by omega), zByte]
  rw [if_neg (by rw [free, alone]; simp; omega)]

theorem exec_rangeRelease {i : ℕ} {r : Range} (hi : i < 65536) (hr : s.ranges[i]? = some r) (some_ : r.len ≠ 0) :
    exec (.rangeRelease (leBytes 2 i)) s = .next (
      if s.launchOpen then s.answer rcBusy [] else ({ s with ranges := s.ranges.set i ⟨0, 0, 0, 0⟩ }.tlbDropIn r.base r.len).answer rcSuccess []) := by
  have slot : payAt (leBytes 2 i) 0 2 = i := by rw [payAt_leBytes, Nat.mod_eq_of_lt (by omega)]
  rw [show exec (.rangeRelease (leBytes 2 i)) s = execRangeRelease (leBytes 2 i) s from rfl, execRangeRelease, mailbox_runs takes (by simp [length_leBytes]), slot]
  dsimp only
  rw [hr]
  dsimp only
  rw [if_neg some_]

theorem exec_xlateInval {base len : ℕ} (hb : base < 2 ^ 64) (hl : len < 2 ^ 64) :
    exec (.xlateInval (leBytes 8 base ++ leBytes 8 len)) s = .next (
      if s.xlateBusy base len then (s.tlbDropIn base len).keepRunning opXlateInval (leBytes 8 base ++ leBytes 8 len) else (s.tlbDropIn base len).answer rcSuccess []) := by
  rw [show exec (.xlateInval (leBytes 8 base ++ leBytes 8 len)) s = execXlateInval (leBytes 8 base ++ leBytes 8 len) s from rfl, execXlateInval, mailbox_runs takes (by simp [length_leBytes])]
  simp only [Nat.reduceLeDiff, payAt_append_left, payAt_append_right, length_leBytes, payAt_leBytes, zero_add, Nat.sub_self, le_refl,
    Nat.reducePow, Nat.mod_eq_of_lt (show base < 18446744073709551616 from hb), Nat.mod_eq_of_lt (show len < 18446744073709551616 from hl)]

omit takes in
/-- A range goes to the first free slot, which may be the one after the last; the others stay. -/
theorem reserveSlot {l : List Range} {i : ℕ} (hi : i ≤ l.length) (r : Range) :
    (if i < l.length then l.set i r else l ++ [r])[i]? = some r ∧ ∀ j, j ≠ i → (if i < l.length then l.set i r else l ++ [r])[j]? = l[j]? := by
  by_cases inside : i < l.length
  · rw [if_pos inside]
    exact ⟨List.getElem?_set_self inside, fun j hj => List.getElem?_set_ne (Ne.symm hj)⟩
  · obtain rfl : i = l.length := by omega
    rw [if_neg inside]
    refine ⟨List.getElem?_concat_length, fun j hj => ?_⟩
    obtain before | after := Nat.lt_or_gt_of_ne hj
    · exact List.getElem?_append_left before
    · rw [List.getElem?_eq_none_iff.2 (by rw [List.length_append, List.length_singleton]; omega), List.getElem?_eq_none_iff.2 after.le]

omit takes in
theorem keepRunning_frame (idle : s.mailboxRun = none) (base len : ℕ) {op : ℕ} {p : List Byte} :
    { (s.tlbDropIn base len).keepRunning op p with tlb := s.tlb, gangTlb := s.gangTlb, mailboxRun := none } = s := by
  cases s
  subst idle
  rfl

omit takes in
theorem mem_tlbDropIn (base len : ℕ) : (∀ x, x ∈ (s.tlbDropIn base len).tlb ↔ x ∈ s.tlb ∧ overlaps x.page (pageSize x.z) base len = false) ∧
    (∀ x, x ∈ (s.tlbDropIn base len).gangTlb ↔ x ∈ s.gangTlb ∧ overlaps x.page (pageSize x.z) base len = false) :=
  ⟨fun x => by rw [State.tlbDropIn, List.mem_filter, Bool.not_eq_true'], fun x => by rw [State.tlbDropIn, List.mem_filter, Bool.not_eq_true']⟩

/-! ### Ports and the span -/

theorem exec_portStatus {i : ℕ} {q : Port} (hi : i < 24) (hq : s.ports[i]? = some q) :
    exec (.portStatus (leBytes 1 i)) s = .next (s.answer rcSuccess (leBytes 1 q.state ++ [q.fver, q.tver] ++ leBytes 1 0 ++ leBytes 4 q.peerSpan.toNat ++ leBytes 2 q.peerIndex.toNat ++ [q.peerPort])) := by
  have port : payAt (leBytes 1 i) 0 1 = i := by rw [payAt_leBytes, Nat.mod_eq_of_lt (by omega)]
  rw [show exec (.portStatus (leBytes 1 i)) s = execPortStatus (leBytes 1 i) s from rfl, execPortStatus, mailbox_runs takes (by simp [length_leBytes]), port]
  rw [hq]

theorem exec_spanJoin_busy {p : List Byte} (long : 21 ≤ p.length) (opened : s.launchOpen = true) : exec (.spanJoin p) s = .next (s.answer rcBusy []) := by
  rw [show exec (.spanJoin p) s = execSpanJoin p s from rfl, execSpanJoin, mailbox_runs takes long]
  exact congrArg Host.Outcome.next (if_pos opened)

theorem exec_spanLeave (p : List Byte) : exec (.spanLeave p) s = .next (if s.launchOpen then s.answer rcBusy [] else ({ s.clearTether with span := {} }.rehello).answer rcSuccess []) := by
  rw [show exec (.spanLeave p) s = execSpanLeave p s from rfl, execSpanLeave, mailbox_runs takes (Nat.zero_le _)]

/-- The span that a SPAN_JOIN with these fields makes. -/
def Span.ofJoin (id count index base fver tver group m : ℕ) : Span :=
  { joined := true, id := BitVec.ofNat 32 id, index := BitVec.ofNat 12 index, count := BitVec.ofNat 13 count, base := base, fver := BitVec.ofNat 8 fver, tver := BitVec.ofNat 8 tver,
    group := BitVec.ofNat 16 group, member := m, erasure := decide (10 ≤ count) }

theorem exec_spanJoin {id count index base fver tver group m : ℕ} (hid : id < 2 ^ 32) (some_ : 1 ≤ count) (hc : count ≤ 4096) (hi : index < count) (aligned : base % 2 ^ 24 = 0)
    (fits : base + 2 ^ 24 * count ≤ 2 ^ 56) (hf : 1 ≤ fver) (hf' : fver ≤ Config.fabricVersion.toNat) (ht : 1 ≤ tver) (ht' : tver ≤ Config.tetherVersion.toNat) (hg : group < 2 ^ 16) (hm : m ≤ 9)
    (apart : ∀ r, r ∈ s.ranges → base + 2 ^ 24 * count ≤ r.base ∨ r.base + r.len ≤ base) (closed : s.launchOpen = false) :
    exec (.spanJoin (leBytes 4 id ++ leBytes 2 count ++ leBytes 2 index ++ leBytes 8 base ++ leBytes 1 fver ++ leBytes 1 tver ++ leBytes 2 group ++ leBytes 1 m)) s = .next (
      ({ s.clearTether with span := Span.ofJoin id count index base fver tver group m }.rehello).answer rcSuccess []) := by
  have free : s.ranges.any (fun r => overlaps r.base r.len base (2 ^ 24 * count)) = false := by
    rw [List.any_eq_false]
    intro r hr
    have := apart r hr
    simp only [overlaps, decide_eq_true_eq]
    omega
  have fByte : fver < 256 := lt_of_le_of_lt hf' Config.fabricVersion.isLt
  have tByte : tver < 256 := lt_of_le_of_lt ht' Config.tetherVersion.isLt
  rw [show exec (.spanJoin (leBytes 4 id ++ leBytes 2 count ++ leBytes 2 index ++ leBytes 8 base ++ leBytes 1 fver ++ leBytes 1 tver ++ leBytes 2 group ++ leBytes 1 m)) s =
    execSpanJoin (leBytes 4 id ++ leBytes 2 count ++ leBytes 2 index ++ leBytes 8 base ++ leBytes 1 fver ++ leBytes 1 tver ++ leBytes 2 group ++ leBytes 1 m) s from rfl,
    execSpanJoin, mailbox_runs takes (by simp [length_leBytes])]
  simp only [List.append_assoc, Nat.reduceLeDiff, payAt_append_left, payAt_append_right, length_leBytes, payAt_leBytes, zero_add, Nat.reduceSub, Nat.sub_self, le_refl,
    Nat.reducePow, Nat.mod_eq_of_lt (show id < 4294967296 from hid), Nat.mod_eq_of_lt (show count < 65536 by omega), Nat.mod_eq_of_lt (show index < 65536 by omega),
    Nat.mod_eq_of_lt (show base < 18446744073709551616 by omega), Nat.mod_eq_of_lt fByte, Nat.mod_eq_of_lt tByte, Nat.mod_eq_of_lt (show group < 65536 from hg), Nat.mod_eq_of_lt (show m < 256 by omega)]
  rw [if_neg (by rw [closed]; exact Bool.false_ne_true), if_neg (by rw [show (16777216 : ℕ) = 2 ^ 24 from rfl, free]; simp; omega)]
  rfl

omit takes in
/-- What a change of membership leaves when no launch is open. -/
theorem answersKept_rehello (span : Span) {i : Instr} {out : List Byte} {f : State → Prop} (runs : exec i s = .next (({ s.clearTether with span := span }.rehello).answer rcSuccess out))
    (holds : ∀ s' : State, s'.span = span → s'.home = [] → s'.slices = [] → f s') : s.answersKept i 0 f := by
  obtain ⟨o, p, pf, e, n, ports⟩ := State.onlyPorts_rehello { s.clearTether with span := span }
  rw [ports] at runs
  exact answersKept_of runs rfl rfl rfl rfl (holds _ rfl rfl rfl)

end

/-- While a XLATE_INVAL runs no other command does. -/
theorem configuration_running {s : State} {q : List Byte} (run : s.mailboxRun = some (0xC004, q)) (p : List Byte) :
    exec (.queueConfig p) s = .next s ∧ exec (.rangeReserve p) s = .next s ∧ exec (.rangeRelease p) s = .next s ∧ exec (.poolConfig p) s = .next s ∧
      exec (.eventConfig p) s = .next s ∧ exec (.portStatus p) s = .next s ∧ exec (.spanJoin p) s = .next s ∧ exec (.spanLeave p) s = .next s ∧ (p ≠ q → exec (.xlateInval p) s = .next s) := by
  have other {i : Instr} {op : ℕ} (is : configures i = some (op, p)) (ne : ¬ 0xC004 = op) : exec i s = .next s := configures_busy is (mailboxFree_running run fun h => absurd h ne)
  exact ⟨other rfl (by decide), other rfl (by decide), other rfl (by decide), other rfl (by decide), other rfl (by decide), other rfl (by decide), other rfl (by decide), other rfl (by decide),
    fun ne => configures_busy rfl (mailboxFree_running run fun _ => ne.symm)⟩

theorem configuration_unusable {s : State} (h : s.usable = false) (p : List Byte) :
    exec (.queueConfig p) s = .next s ∧ exec (.rangeReserve p) s = .next s ∧ exec (.rangeRelease p) s = .next s ∧ exec (.poolConfig p) s = .next s ∧ exec (.xlateInval p) s = .next s ∧
      exec (.eventConfig p) s = .next s ∧ exec (.portStatus p) s = .next s ∧ exec (.spanJoin p) s = .next s ∧ exec (.spanLeave p) s = .next s := by
  have off {i : Instr} {op : ℕ} (is : configures i = some (op, p)) : exec i s = .next s := configures_busy is (mailboxFree_unusable h op p)
  exact ⟨off rfl, off rfl, off rfl, off rfl, off rfl, off rfl, off rfl, off rfl, off rfl⟩

/-- Settles O49. -/
theorem mailboxConfiguration : Obligations.MailboxConfiguration := by
  unfold Obligations.MailboxConfiguration
  intro s
  have bytes (n v : ℕ) : (List.range n).map (fun i => BitVec.ofNat 8 (v / 256 ^ i)) = leBytes n v := range_map_leBytes n v
  refine ⟨configuration_unusable, fun _ _ q run p => configuration_running run p, fun usable quiescing idle => ?_⟩
  have takes : s.takesCommand := ⟨usable, quiescing, idle⟩
  refine ⟨fun op vendor unlisted => answersKept_only takes (exec_mailboxUnsupportedOpcode takes vendor unlisted), fun p short => configuration_short takes short,
    fun q k flags base g hg hq hk hf fits aligned => ?_, fun die z k low base hd hz hk hk' hl aligned fits pools => ?_, fun k base hk hk' aligned hb => ?_,
    fun base len z table hz hb hl some_ fits aligned tableFits apart alone slot => ?_, fun i r hi hr some_ => ?_, fun base len hb hl idle' => ?_, fun base len hb hl busy => ?_,
    fun i q hi hq _ => ?_, fun opened p long => ?_, fun closed => ⟨fun p => ?_, ?_⟩⟩
  · have runs := exec_queueConfig takes hg hq hk hf fits aligned
    simp only [bytes]
    refine ⟨fun may => ?_, fun ne clean => ?_⟩
    · rw [if_neg (by rintro ⟨ne, clean⟩; cases may with | inl h => exact ne h | inr h => rw [h] at clean; cases clean)] at runs
      exact answersKept_of runs rfl rfl rfl rfl rfl
    · rw [if_pos ⟨ne, clean⟩] at runs
      exact answersKept_only takes runs
  · have runs := exec_poolConfig takes hd hz hk hk' hl aligned fits
    simp only [bytes]
    refine ⟨fun walking => ?_, fun quiet => ?_⟩
    · rw [if_pos walking] at runs
      exact answersKept_only takes runs
    · rw [if_neg (by rw [quiet]; exact Bool.false_ne_true)] at runs
      have inside : 3 * die + z < s.pools.length := by omega
      have kept := poolLow_outsideMemory { s with pools := s.pools.set (3 * die + z) { k := k, base := base, en := true, lowMark := BitVec.ofNat 16 low } } (3 * die + z)
      obtain ⟨set, -⟩ := poolLow_spec (s := { s with pools := s.pools.set (3 * die + z) { k := k, base := base, en := true, lowMark := BitVec.ofNat 16 low } }) (p := 3 * die + z) (List.getElem?_set_self inside)
      refine answersKept_of runs (congrArg State.mailboxIrq kept :) (congrArg State.msix kept :) (State.poolLow_mem _ _) (congrArg State.crews kept :) ⟨_, (congrArg (·[3 * die + z]?) set).trans (List.getElem?_set_self (by rwa [List.length_set])), rfl, rfl, rfl, rfl, rfl, rfl⟩
  · simp only [bytes]
    exact answersKept_of (exec_eventConfig takes hk hk' aligned hb) rfl rfl rfl rfl ⟨rfl, rfl⟩
  · simp only [bytes]
    refine answersKept_of (exec_rangeReserve takes hz hb hl some_ fits aligned tableFits apart alone slot) rfl rfl rfl rfl ⟨rfl, ?_⟩
    exact reserveSlot (List.findIdx_le_length (p := fun r => r.len == 0)) ⟨base, len, z, table⟩
  · have runs := exec_rangeRelease takes hi hr some_
    simp only [bytes]
    refine ⟨fun opened => ?_, fun closed => ?_⟩
    · rw [if_pos opened] at runs
      exact answersKept_only takes runs
    · rw [if_neg (by rw [closed]; exact Bool.false_ne_true)] at runs
      obtain ⟨tlb, gang⟩ := mem_tlbDropIn (s := { s with ranges := s.ranges.set i ⟨0, 0, 0, 0⟩ }) r.base r.len
      refine answersKept_of runs rfl rfl rfl rfl ⟨?_, fun j hj => List.getElem?_set_ne (Ne.symm hj), fun x hx => (tlb x).1 hx, fun x hx => (gang x).1 hx⟩
      exact congrArg (Option.map Range.len) (List.getElem?_set_self (List.getElem?_eq_some_iff.1 hr).1)
  · have runs := exec_xlateInval takes hb hl
    simp only [bytes]
    rw [if_neg (by rw [idle']; exact Bool.false_ne_true)] at runs
    obtain ⟨tlb, gang⟩ := mem_tlbDropIn (s := s) base len
    exact answersKept_of runs rfl rfl rfl rfl ⟨tlb, gang, onlyAnswers_answer takes 0 []⟩
  · have runs := exec_xlateInval takes hb hl
    simp only [bytes]
    rw [if_pos busy] at runs
    exact ⟨_, runs, rfl, keepRunning_frame idle base len⟩
  · simp only [bytes]
    exact answersKept_of (exec_portStatus takes hi hq) rfl rfl rfl rfl ⟨rfl, onlyAnswers_answer takes _ _⟩
  · have leave := exec_spanLeave takes p
    rw [if_pos opened] at leave
    exact ⟨answersKept_only takes (exec_spanJoin_busy takes long opened), answersKept_only takes leave⟩
  · have leave := exec_spanLeave takes p
    rw [if_neg (by rw [closed]; exact Bool.false_ne_true)] at leave
    exact answersKept_rehello {} leave fun s' span home slices => ⟨span, home, slices⟩
  · intro id count index base fver tver group m hid some_ hc hi aligned fits hf hf' ht ht' hg hm apart
    simp only [bytes]
    refine answersKept_rehello (Span.ofJoin id count index base fver tver group m) (exec_spanJoin takes hid some_ hc hi aligned fits hf hf' ht ht' hg hm apart closed) fun s' span home slices => ?_
    rw [span]
    exact ⟨rfl, rfl, BitVec.toNat_ofNat _ _ ▸ Nat.mod_eq_of_lt (by omega), BitVec.toNat_ofNat _ _ ▸ Nat.mod_eq_of_lt (by omega), rfl, BitVec.toNat_ofNat _ _ ▸ Nat.mod_eq_of_lt hg, rfl, home, slices⟩

end Sys2Proof.Machine

/-! ## Leased units and their scores (20 R380 to R391) -/

namespace Sys2Proof.Machine

/-! ### What is known of a unit -/

theorem State.unit_u (s : State) (u : DevUnit) : (s.unit u).u = u := by
  unfold State.unit
  cases found : s.units.find? (fun x => x.u == u) with
  | none => cases u <;> rfl
  | some x => exact beq_iff_eq.1 (List.find?_some (p := fun x : LeasedUnit => x.u == u) found)

theorem unit_putUnit (s : State) {x : LeasedUnit} {u : DevUnit} (hx : x.u = u) : (s.putUnit x).unit u = x := by
  subst hx
  rw [State.unit, State.putUnit]
  dsimp only
  rw [find?_upsert (by simp)]
  rfl

theorem score_putUnit (s : State) {x : LeasedUnit} {u : DevUnit} (hx : x.u = u) : ((s.putUnit x).unit u).score = x.score := congrArg LeasedUnit.score (unit_putUnit s hx)

theorem find?_upsert_other {α : Type} {p q : α → Bool} {x : α} (new : q x = false) (apart : ∀ y, p y = true → q y = false) : ∀ l : List α, (upsert p x l).find? q = l.find? q
  | [] => List.find?_cons_of_neg (by rw [new]; exact Bool.false_ne_true)
  | y :: l => by
    rw [upsert]
    split
    · next old => rw [List.find?_cons_of_neg (by rw [new]; exact Bool.false_ne_true), List.find?_cons_of_neg (by rw [apart y old]; exact Bool.false_ne_true)]
    · rw [List.find?_cons, List.find?_cons, find?_upsert_other new apart l]

theorem unit_putUnit_other (s : State) {x : LeasedUnit} {u : DevUnit} (hx : x.u ≠ u) : (s.putUnit x).unit u = s.unit u := by
  rw [State.unit, State.unit, State.putUnit]
  dsimp only
  rw [find?_upsert_other (p := fun y : LeasedUnit => y.u == x.u) (q := fun y : LeasedUnit => y.u == u) (beq_false_of_ne hx)]
  exact fun y hy => beq_false_of_ne fun h => hx ((beq_iff_eq.1 hy).symm.trans h)

/-! ### What a score's rise changes -/

/-- Nothing but what is known of the units changes. -/
def State.onlyUnits (s s' : State) : Prop := ∃ units due, s' = { s with units := units, nextDue := due }

theorem earlyLease_spec (s : State) (u : DevUnit) : s.onlyUnits (s.earlyLease (s.unit u)) ∧ ((s.earlyLease (s.unit u)).unit u).score = (s.unit u).score := by
  have name := s.unit_u u
  unfold State.earlyLease
  rw [name]
  split
  · exact ⟨⟨_, _, rfl⟩, (score_putUnit s name : ((s.putUnit { s.unit u with state := 1, early := true, due := s.nextDue, deferred := 0 }).unit u).score = _)⟩
  · split
    · exact ⟨⟨_, s.nextDue, rfl⟩, score_putUnit s rfl⟩
    · exact ⟨⟨s.units, s.nextDue, rfl⟩, rfl⟩

/-- A NAK sent costs its port 1, and nothing else but an early lease follows. -/
theorem charge_flitNak {s : State} (young : s.decayAge < 2 ^ 28) (p : ℕ) : s.onlyUnits (s.charge (.port p) .flitNak) ∧
    ((s.charge (.port p) .flitNak).unit (.port p)).score = BitVec.ofNat 16 (min 65535 ((s.unit (.port p)).score.toNat + 1)) := by
  have form : s.charge (.port p) .flitNak = (s.putUnit { s.unit (.port p) with score := satScore (s.unit (.port p)).score 1 }).earlyLease
      ((s.putUnit { s.unit (.port p) with score := satScore (s.unit (.port p)).score 1 }).unit (.port p)) := by
    unfold State.charge
    rw [decayed_self young]
    rfl
  have raised : ((s.putUnit { s.unit (.port p) with score := satScore (s.unit (.port p)).score 1 }).unit (.port p)) = { s.unit (.port p) with score := satScore (s.unit (.port p)).score 1 } :=
    unit_putUnit s (s.unit_u (.port p))
  obtain ⟨⟨units, due, frame⟩, score⟩ := earlyLease_spec (s.putUnit { s.unit (.port p) with score := satScore (s.unit (.port p)).score 1 }) (.port p)
  refine ⟨⟨units, due, form.trans frame⟩, ?_⟩
  rw [form, score, raised]
  rfl

end Sys2Proof.Machine

/-! ## Ports and their links (14 R309 to R311) -/

namespace Sys2Proof.Machine

/-! ### One port's flits and state -/

theorem portAt_of {s : State} {p : ℕ} {q : Port} (hq : s.ports[p]? = some q) : s.portAt p = q := by rw [State.portAt, List.getD_eq_getElem?_getD, hq]; rfl

theorem crcOk_sealed (f : Flit) : crcOk (sealed f) = true := beq_iff_eq.2 rfl

/-- A flit of the link itself, as a port sends it. -/
structure LinkFlit (f : Flit) (p : ℕ) (kind : BitVec 8) (seq : BitVec 16) (payload : List Byte) : Prop where
  port : f.port = p
  kind : f.kind = kind
  seq : f.seq = seq
  payload : f.payload = flitPayload payload
  crc : crcOk f = true

theorem linkFlit_spec (s : State) (p kind : ℕ) (seq : BitVec 16) (payload : List Byte) :
    ∃ f perf, s.linkFlit p kind seq payload = { s with outbox := s.outbox ++ [f], perf := perf } ∧ LinkFlit f p (BitVec.ofNat 8 kind) seq payload := by
  obtain ⟨perf, counted⟩ := count_eq { s with outbox := s.outbox ++ [sealed { port := p, kind := BitVec.ofNat 8 kind, fver := Config.fabricVersion.setWidth 4, vc := 0#4, dst := 0#12, src := s.span.index, seq := seq, tag := 0#32, payload := flitPayload payload, crc := 0#32 }] } (p / 6) 0x0E 1
  exact ⟨_, perf, counted, rfl, rfl, rfl, rfl, crcOk_sealed _⟩

/-- A port in another state changes to this one, with event 0x07. -/
theorem portTo_changes {s : State} {p st : ℕ} {q : Port} (hq : s.ports[p]? = some q) (other : q.state ≠ st) :
    s.portTo p st = { s with ports := s.ports.set p { q with state := st, age := 0 } }.raise 7 0 p 0 st := by
  unfold State.portTo
  rw [hq]
  exact if_neg other

theorem portHello_spec {s : State} {p : ℕ} {q : Port} (hq : s.ports[p]? = some q) (other : q.state ≠ 2) :
    ∃ f perf e n, s.portHello p = { s with ports := s.ports.set p { q with state := 2, age := 0 }, outbox := s.outbox ++ [f], perf := perf, events := e, evSeq := n } ∧
      raised s (s.portHello p) 7 1 ∧ LinkFlit f p 1#8 0#16 (s.helloPayload p) := by
  obtain ⟨f, perf, sent, link⟩ := linkFlit_spec (s.portTo p 2) p 1 0#16 (s.helloPayload p)
  rw [portTo_changes hq other] at sent
  have form : s.portHello p = (s.portTo p 2).linkFlit p 1 0#16 (s.helloPayload p) := rfl
  rw [form, portTo_changes hq other, sent]
  exact ⟨f, perf, _, _, rfl, raise_raised { s with ports := s.ports.set p { q with state := 2, age := 0 } } 0 p 0 2 (kind := 7) (by decide), link⟩

/-! ### Flits that find another way -/

theorem upPort_some {s : State} {p : ℕ} (h : s.upPort = some p) : ∃ q, s.ports[p]? = some q ∧ q.state = 3 := by
  unfold State.upPort at h
  dsimp only at h
  split at h
  · next inside =>
    obtain rfl := Option.some.inj h
    exact ⟨_, List.getElem?_eq_getElem inside, beq_iff_eq.1 (List.findIdx_getElem (p := fun q : Port => q.state == 3) (w := inside))⟩
  · cases h

theorem upPort_none {s : State} (h : ∀ (j : ℕ) (x : Port), s.ports[j]? = some x → x.state ≠ 3) : s.upPort = none := by
  cases up : s.upPort with
  | none => rfl
  | some p =>
    obtain ⟨q, hq, st⟩ := upPort_some up
    exact absurd st (h p q hq)

/-- A flit that is handed on while port `p` is not UP leaves that port alone. -/
theorem route_spec {s : State} {p : ℕ} {q : Port} (hq : s.ports[p]? = some q) (notUp : q.state ≠ 3) (f : Flit) :
    (s.route f).ports[p]? = some q ∧ (s.route f).outbox.length = s.outbox.length + 1 := by
  unfold State.route
  split
  · next p' up =>
    obtain ⟨x, hx, st⟩ := upPort_some up
    have other : p' ≠ p := fun h => by
      rw [h, hq] at hx
      exact notUp (Option.some.inj hx ▸ st)
    unfold State.sendOn
    rw [hx]
    dsimp only
    obtain ⟨perf, counted⟩ := count_eq { s with outbox := s.outbox ++ [sealed { f with port := p', seq := x.txSeq }], ports := s.ports.set p' { x with txSeq := x.txSeq + 1#16, unacked := x.unacked ++ [sealed { f with port := p', seq := x.txSeq }] } } (p' / 6) 0x0E 1
    rw [counted]
    exact ⟨(List.getElem?_set_ne other).trans hq, List.length_append⟩
  · exact ⟨hq, List.length_append⟩

theorem routes_spec {s : State} {p : ℕ} {q : Port} (hq : s.ports[p]? = some q) (notUp : q.state ≠ 3) (l : List Flit) :
    (l.foldl (fun s f => s.route f) s).ports[p]? = some q ∧ (l.foldl (fun s f => s.route f) s).outbox.length = s.outbox.length + l.length := by
  induction l generalizing s with
  | nil => exact ⟨hq, rfl⟩
  | cons f l ih =>
    obtain ⟨port, one⟩ := route_spec hq notUp f
    obtain ⟨port', rest⟩ := ih port
    exact ⟨port', rest.trans (by rw [one, List.length_cons]; omega)⟩

/-- With no port UP the flits wait in the package. -/
theorem routes_wait {s : State} (none_ : ∀ (j : ℕ) (x : Port), s.ports[j]? = some x → x.state ≠ 3) (l : List Flit) :
    l.foldl (fun s f => s.route f) s = { s with outbox := s.outbox ++ l.map (fun f => { f with port := 24 }) } := by
  induction l generalizing s with
  | nil => rw [List.map_nil, List.append_nil]; rfl
  | cons f l ih =>
    have one : s.route f = { s with outbox := s.outbox ++ [{ f with port := 24 }] } := by rw [State.route, upPort_none none_]; rfl
    rw [List.foldl_cons, one]
    refine (ih (s := { s with outbox := s.outbox ++ [{ f with port := 24 }] }) none_).trans ?_
    exact congrArg (fun o => { s with outbox := o }) (List.append_assoc _ _ _)

/-- A port goes down: its numbers begin again and its flits are handed on. -/
def State.wentDown (s s' : State) (p : ℕ) (left : List Flit) : Prop :=
  ∃ q' : Port, s'.ports[p]? = some q' ∧ q'.state = 0 ∧ q'.unacked = [] ∧ q'.txSeq = 0#16 ∧ q'.rxSeq = 0#16 ∧ raised s s' 7 1 ∧
    s'.outbox.length = s.outbox.length + left.length ∧ s'.crews = s.crews ∧ s'.mem = s.mem ∧
    ((∀ (j : ℕ) (x : Port), j ≠ p → s.ports[j]? = some x → x.state ≠ 3) → s'.outbox = s.outbox ++ left.map (fun f => { f with port := 24 }) ∧ ∀ j, j ≠ p → s'.ports[j]? = s.ports[j]?)

theorem portDown_spec {s : State} {p : ℕ} {q : Port} (hq : s.ports[p]? = some q) (up : q.state = 3) : s.wentDown (s.portDown p 0) p q.unacked := by
  have inside : p < s.ports.length := (List.getElem?_eq_some_iff.1 hq).1
  have form : s.portDown p 0 = q.unacked.foldl (fun s f => s.route f)
      ({ s with ports := s.ports.set p { q with state := 0, age := 0, unacked := [], txSeq := 0#16, rxSeq := 0#16, nakSeq := 0#16, naks := 0 } }.raise 7 0 p 0 0) := by
    unfold State.portDown
    rw [portAt_of hq]
    dsimp only
    rw [State.putPort, portTo_changes (List.getElem?_set_self inside) (by rw [up]; decide)]
    dsimp only
    rw [List.set_set]
  rw [form]
  have port : ({ s with ports := s.ports.set p { q with state := 0, age := 0, unacked := [], txSeq := 0#16, rxSeq := 0#16, nakSeq := 0#16, naks := 0 } }.raise 7 0 p 0 0).ports[p]? =
      some { q with state := 0, age := 0, unacked := [], txSeq := 0#16, rxSeq := 0#16, nakSeq := 0#16, naks := 0 } := List.getElem?_set_self inside
  obtain ⟨port', length⟩ := routes_spec port (by decide : 0 ≠ 3) q.unacked
  obtain ⟨o, ps, pf, routed⟩ := State.onlySends_foldl (fun u f => u.onlySends_route f) q.unacked
    ({ s with ports := s.ports.set p { q with state := 0, age := 0, unacked := [], txSeq := 0#16, rxSeq := 0#16, nakSeq := 0#16, naks := 0 } }.raise 7 0 p 0 0)
  refine ⟨_, port', rfl, rfl, rfl, rfl, ?_, length, ?_, ?_, fun alone => ?_⟩
  · rw [routed]
    exact raise_raised { s with ports := _ } 0 p 0 0 (kind := 7) (by decide)
  · rw [routed]; rfl
  · rw [routed]; rfl
  · rw [routes_wait]
    · exact ⟨rfl, fun j hj => List.getElem?_set_ne (Ne.symm hj)⟩
    · intro j x hx
      by_cases here : j = p
      · subst here
        rw [port] at hx
        exact Option.some.inj hx ▸ (by decide : 0 ≠ 3)
      · exact alone j x here ((List.getElem?_set_ne (Ne.symm here)).symm.trans hx)

/-! ### HELLO -/

/-- What a HELLO that is heard makes of its port: the versions, the peer, and whether the link carries the span. -/
def State.meet (s : State) (p : ℕ) (h : HelloInfo) : State :=
  let s2 := s.putPort p { s.portAt p with fver := leastVer Config.fabricVersion h.fver, tver := leastVer Config.tetherVersion h.tver, peerSpan := h.span, peerIndex := h.index, peerPort := h.port }
  if s2.span.joined && h.joined && h.span == s2.span.id && !s2.span.lost.contains h.index.toNat then (s2.portTo p 3).flushOut p else s2.portTo p 4

/-- The peer is of this part's span. -/
def State.sameSpan (s : State) (f : Flit) : Prop := s.span.joined = true ∧ payAt f.payload 2 1 = 1 ∧ payAt f.payload 4 4 = s.span.id.toNat ∧ payAt f.payload 8 2 ∉ s.span.lost

theorem sameSpan_iff (s : State) (f : Flit) :
    (s.span.joined && (helloInfo f).joined && (helloInfo f).span == s.span.id && !s.span.lost.contains (helloInfo f).index.toNat) = true ↔ s.sameSpan f := by
  have id : (helloInfo f).span = s.span.id ↔ payAt f.payload 4 4 = s.span.id.toNat := by
    rw [← BitVec.toNat_inj, show (helloInfo f).span.toNat = payAt f.payload 4 4 % 2 ^ 32 from BitVec.toNat_ofNat _ _, Nat.mod_eq_of_lt (show _ < 2 ^ 32 from payAt_lt f.payload 4 4)]
  have index : (helloInfo f).index.toNat = payAt f.payload 8 2 := (BitVec.toNat_ofNat _ _).trans (Nat.mod_eq_of_lt (payAt_lt f.payload 8 2))
  rw [Bool.and_eq_true, Bool.and_eq_true, Bool.and_eq_true, beq_iff_eq, id, index, Bool.not_eq_true', List.contains_eq_mem, decide_eq_false_iff_not, and_assoc, and_assoc]
  exact and_congr_right fun _ => and_congr_left fun _ => beq_iff_eq

theorem leastVer_toNat (a : BitVec 8) {n : ℕ} (small : n < 256) : (leastVer a (BitVec.ofNat 8 n)).toNat = min a.toNat n := by
  have size : (BitVec.ofNat 8 n).toNat = n := (BitVec.toNat_ofNat _ _).trans (Nat.mod_eq_of_lt small)
  unfold leastVer
  split <;> omega

/-- A port after HELLO. -/
structure Met (s : State) (q : Port) (f : Flit) : Prop where
  up : s.sameSpan f → q.state = 3
  foreign : ¬s.sameSpan f → q.state = 4
  fver : q.fver.toNat = min Config.fabricVersion.toNat (payAt f.payload 0 1)
  tver : q.tver.toNat = min Config.tetherVersion.toNat (payAt f.payload 1 1)
  span : q.peerSpan.toNat = payAt f.payload 4 4
  index : q.peerIndex.toNat = payAt f.payload 8 2

theorem flushOut_empty {s : State} (clear : ∀ g, g ∈ s.outbox → g.port ≠ 24) (p : ℕ) : s.flushOut p = s := by
  have none_ : s.outbox.filter (fun f => f.port == noPort) = [] := List.filter_eq_nil_iff.2 fun g hg => by rw [beq_iff_eq]; exact clear g hg
  have all : s.outbox.filter (fun f => f.port != noPort) = s.outbox := List.filter_eq_self.2 fun g hg => bne_iff_ne.2 (clear g hg)
  rw [State.flushOut, none_, all]
  rfl

theorem meet_spec {s : State} {p : ℕ} {q : Port} (hq : s.ports[p]? = some q) (st : q.state = 2) (clear : ∀ g, g ∈ s.outbox → g.port ≠ 24) (f : Flit) :
    ∃ q' e n, s.meet p (helloInfo f) = { s with ports := s.ports.set p q', events := e, evSeq := n } ∧ raised s (s.meet p (helloInfo f)) 7 1 ∧ Met s q' f := by
  have inside : p < s.ports.length := (List.getElem?_eq_some_iff.1 hq).1
  let q1 : Port := { q with fver := leastVer Config.fabricVersion (helloInfo f).fver, tver := leastVer Config.tetherVersion (helloInfo f).tver, peerSpan := (helloInfo f).span, peerIndex := (helloInfo f).index, peerPort := (helloInfo f).port }
  have turns (st' : ℕ) (ne : q1.state ≠ st') : (s.putPort p q1).portTo p st' = { s with ports := s.ports.set p { q1 with state := st', age := 0 } }.raise 7 0 p 0 st' := by
    rw [State.putPort, portTo_changes (List.getElem?_set_self inside) ne]
    dsimp only
    rw [List.set_set]
  have form : s.meet p (helloInfo f) = if (s.span.joined && (helloInfo f).joined && (helloInfo f).span == s.span.id && !s.span.lost.contains (helloInfo f).index.toNat) = true
      then ((s.putPort p q1).portTo p 3).flushOut p else (s.putPort p q1).portTo p 4 := by
    rw [State.meet, portAt_of hq]
    rfl
  have fver : q1.fver.toNat = min Config.fabricVersion.toNat (payAt f.payload 0 1) := leastVer_toNat _ (payAt_lt f.payload 0 1)
  have tver : q1.tver.toNat = min Config.tetherVersion.toNat (payAt f.payload 1 1) := leastVer_toNat _ (payAt_lt f.payload 1 1)
  have span : q1.peerSpan.toNat = payAt f.payload 4 4 := (BitVec.toNat_ofNat _ _).trans (Nat.mod_eq_of_lt (payAt_lt f.payload 4 4))
  have index : q1.peerIndex.toNat = payAt f.payload 8 2 := (BitVec.toNat_ofNat _ _).trans (Nat.mod_eq_of_lt (payAt_lt f.payload 8 2))
  by_cases same : s.sameSpan f
  · have clear' : ∀ g, g ∈ ({ s with ports := s.ports.set p { q1 with state := 3, age := 0 } }.raise 7 0 p 0 3).outbox → g.port ≠ 24 := clear
    rw [form, if_pos ((sameSpan_iff s f).2 same), turns 3 (by rw [show q1.state = q.state from rfl, st]; decide), flushOut_empty clear']
    exact ⟨{ q1 with state := 3, age := 0 }, _, _, rfl, raise_raised { s with ports := _ } 0 p 0 3 (kind := 7) (by decide), fun _ => rfl, fun h => absurd same h, fver, tver, span, index⟩
  · rw [form, if_neg (mt (sameSpan_iff s f).1 same), turns 4 (by rw [show q1.state = q.state from rfl, st]; decide)]
    exact ⟨{ q1 with state := 4, age := 0 }, _, _, rfl, raise_raised { s with ports := _ } 0 p 0 4 (kind := 7) (by decide), fun h => absurd h same, fun _ => rfl, fver, tver, span, index⟩

/-! ### Flits that arrive -/

/-- The instructions of flits other than HELLO. -/
noncomputable def otherFlits (f : Flit) : List Instr := [.ack f, .nak f, .flitCrcError f, .flitUnassigned f, .flitWrite f, .flitReadRequest f, .flitReadResponse f]

/-- What a flit does before its own effect: nothing at a port that does not hear, a NAK for a wrong CRC, and nothing at a port in HELLO. -/
structure Checked (f : Flit) (s : State) (i : Instr) : Prop where
  deaf : s.portHears f.port = false → exec i s = .next s
  bad : s.portHears f.port = true → crcOk f = false → exec i s = .next (s.crcNak f.port)
  hello : i ≠ .nak f → s.portHears f.port = true → crcOk f = true → s.linkUp f.port = false → exec i s = .next s

theorem checkedIn_bad {s : State} {f : Flit} (hears : s.portHears f.port = true) (bad : crcOk f = false) (g : State → State) : checkedIn f s g = .next (s.crcNak f.port) := by
  rw [checkedIn, hears, bad]
  rfl
theorem checkedIn_up {s : State} {f : Flit} (hears : s.portHears f.port = true) (good : crcOk f = true) (up : s.linkUp f.port = true) (g : State → State) : checkedIn f s g = .next (g s) := by
  rw [checkedIn, hears, good, if_pos up]
  rfl
theorem checked_of {f : Flit} {s : State} {i : Instr} {g : State → State} (runs : exec i s = checkedIn f s g) : Checked f s i where
  deaf deaf := by rw [runs, checkedIn, deaf]; rfl
  bad hears bad := runs.trans (checkedIn_bad hears bad g)
  hello _ hears good down := by rw [runs, checkedIn, hears, good, down]; rfl

theorem otherFlits_checked (s : State) (f : Flit) : ∀ i, i ∈ otherFlits f → Checked f s i := by
  have nak : Checked f s (.nak f) :=
    ⟨fun deaf => by rw [show exec (.nak f) s = execNak f s from rfl, execNak, deaf]; rfl,
      fun hears bad => by rw [show exec (.nak f) s = execNak f s from rfl, execNak, hears, bad]; rfl, fun ne => absurd rfl ne⟩
  intro i hi
  simp only [otherFlits, List.mem_cons, List.not_mem_nil, or_false] at hi
  obtain rfl | rfl | rfl | rfl | rfl | rfl | rfl := hi
  · exact checked_of (show exec (.ack f) s = execAck f s from rfl)
  · exact nak
  · exact checked_of (show exec (.flitCrcError f) s = execFlitCrcError f s from rfl)
  · exact checked_of (show exec (.flitUnassigned f) s = execFlitUnassigned f s from rfl)
  · exact checked_of (g := fun s => s.inOrder ⟨f.port, f.seq⟩ 1 id) (show exec (.flitWrite f) s = execFlitWrite f s from rfl)
  · exact checked_of (g := fun s => s.inOrder ⟨f.port, f.seq⟩ 1 id) (show exec (.flitReadRequest f) s = execFlitReadRequest f s from rfl)
  · exact checked_of (g := fun s => s.inOrder ⟨f.port, f.seq⟩ 1 id) (show exec (.flitReadResponse f) s = execFlitReadResponse f s from rfl)

/-- The flits of traffic: each is taken in its link's order. -/
theorem traffic_inOrder {s : State} {f : Flit} (hears : s.portHears f.port = true) (good : crcOk f = true) (up : s.linkUp f.port = true) {i : Instr}
    (hi : i ∈ [Instr.flitWrite f, .flitReadRequest f, .flitReadResponse f]) : exec i s = .next (s.inOrder ⟨f.port, f.seq⟩ 1 id) := by
  have runs : linkIn f s id = .next (s.inOrder ⟨f.port, f.seq⟩ 1 id) := checkedIn_up hears good up _
  simp only [List.mem_cons, List.not_mem_nil, or_false] at hi
  obtain rfl | rfl | rfl := hi
  · exact (show exec (.flitWrite f) s = execFlitWrite f s from rfl).trans runs
  · exact (show exec (.flitReadRequest f) s = execFlitReadRequest f s from rfl).trans runs
  · exact (show exec (.flitReadResponse f) s = execFlitReadResponse f s from rfl).trans runs

/-! ### One port of the fabric -/

section
variable {s : State} {p : ℕ} {q : Port} (hp : p < 24) (hq : s.ports[p]? = some q)
include hp hq

theorem portHears_iff : s.portHears p = true ↔ s.fabricOn = true ∧ (q.state = 2 ∨ q.state = 3) := by
  simp [State.portHears, portAt_of hq, hp]

theorem linkUp_iff : s.linkUp p = true ↔ s.fabricOn = true ∧ q.state = 3 := by
  simp [State.linkUp, portAt_of hq, hp]

omit hp in
/-- The state with this port replaced, and what else the fabric's work may change. -/
theorem ports_set (q' : Port) : (s.ports.set p q')[p]? = some q' ∧ ∀ j, j ≠ p → (s.ports.set p q')[j]? = s.ports[j]? :=
  ⟨List.getElem?_set_self (List.getElem?_eq_some_iff.1 hq).1, fun _ hj => List.getElem?_set_ne (Ne.symm hj)⟩

theorem exec_portSignalDetect (on : s.fabricOn = true) : exec (.portSignalDetect p) s = .next (if q.state = 0 ∧ q.retired = false then s.portTo p 1 else s) := by
  rw [show exec (.portSignalDetect p) s = execPortSignalDetect p s from rfl, execPortSignalDetect, portAt_of hq]
  exact congrArg Host.Outcome.next (if_congr (by simp [on, hp]) rfl rfl)

theorem exec_portLanesLocked (on : s.fabricOn = true) : exec (.portLanesLocked p) s = .next (if q.state = 1 then s.portHello p else s) := by
  rw [show exec (.portLanesLocked p) s = execPortLanesLocked p s from rfl, execPortLanesLocked, portAt_of hq]
  exact congrArg Host.Outcome.next (if_congr (by simp [on, hp]) rfl rfl)

theorem exec_portTrainTimeout (on : s.fabricOn = true) : exec (.portTrainTimeout p) s = .next (if q.state = 1 ∧ 2 ^ 24 ≤ q.age then s.portTo p 0 else s) := by
  rw [show exec (.portTrainTimeout p) s = execPortTrainTimeout p s from rfl, execPortTrainTimeout, portAt_of hq]
  exact congrArg Host.Outcome.next (if_congr (by simp [on, hp]) rfl rfl)

theorem exec_portSignalLoss (on : s.fabricOn = true) : exec (.portSignalLoss p) s = .next (if q.state = 3 then s.portDown p 0 else s) := by
  rw [show exec (.portSignalLoss p) s = execPortSignalLoss p s from rfl, execPortSignalLoss, portAt_of hq]
  exact congrArg Host.Outcome.next (if_congr (by simp [on, hp]) rfl rfl)

omit hp hq in
theorem ports_off (off : s.fabricOn = false) : exec (.portSignalDetect p) s = .next s ∧ exec (.portLanesLocked p) s = .next s ∧ exec (.portTrainTimeout p) s = .next s ∧ exec (.portSignalLoss p) s = .next s := by
  refine ⟨?_, ?_, ?_, ?_⟩
  · rw [show exec (.portSignalDetect p) s = execPortSignalDetect p s from rfl, execPortSignalDetect, off]; rfl
  · rw [show exec (.portLanesLocked p) s = execPortLanesLocked p s from rfl, execPortLanesLocked, off]; rfl
  · rw [show exec (.portTrainTimeout p) s = execPortTrainTimeout p s from rfl, execPortTrainTimeout, off]; rfl
  · rw [show exec (.portSignalLoss p) s = execPortSignalLoss p s from rfl, execPortSignalLoss, off]; rfl

/-! ### HELLO, ACK and NAK at a port -/

theorem exec_hello_met {f : Flit} (here : f.port = p) (on : s.fabricOn = true) (good : crcOk f = true) (st : q.state = 2 ∨ q.state = 4) :
    exec (.hello f) s = .next (((if q.state = 4 then s.portHello p else s).heardLeave q (helloInfo f)).meet p (helloInfo f)) := by
  subst here
  have hears : (!s.portHears f.port && (!s.fabricOn || decide (24 ≤ f.port) || q.state != 4)) = false := by
    obtain st | st := st
    · rw [(portHears_iff hp hq).2 ⟨on, .inl st⟩]; rfl
    · rw [on, st, decide_eq_false (by omega)]; simp
  rw [show exec (.hello f) s = execHello f s from rfl, execHello, portAt_of hq]
  dsimp only
  rw [hears, good, if_neg Bool.false_ne_true, if_neg (by decide), if_neg (by omega)]
  rfl

theorem exec_hello_deaf {f : Flit} (here : f.port = p) (deaf : s.fabricOn = false ∨ q.state ≠ 2 ∧ q.state ≠ 3 ∧ q.state ≠ 4) : exec (.hello f) s = .next s := by
  subst here
  have deaf' : (!s.portHears f.port && (!s.fabricOn || decide (24 ≤ f.port) || q.state != 4)) = true := by
    have hears : s.portHears f.port = false := Bool.eq_false_iff.2 fun h => by
      obtain ⟨on, st⟩ := (portHears_iff hp hq).1 h
      obtain off | ⟨n2, n3, -⟩ := deaf
      · rw [on] at off; cases off
      · exact st.elim n2 n3
    obtain off | ⟨-, -, n4⟩ := deaf
    · rw [hears, off]; rfl
    · rw [hears, bne_iff_ne.2 n4]; simp
  rw [show exec (.hello f) s = execHello f s from rfl, execHello, portAt_of hq]
  exact congrArg Host.Outcome.next (if_pos deaf')

theorem exec_hello_bad {f : Flit} (here : f.port = p) (on : s.fabricOn = true) (bad : crcOk f = false) :
    (q.state = 2 ∨ q.state = 3 → exec (.hello f) s = .next (s.crcNak p)) ∧ (q.state = 4 → exec (.hello f) s = .next s) := by
  subst here
  rw [show exec (.hello f) s = execHello f s from rfl, execHello, portAt_of hq]
  dsimp only
  refine ⟨fun st => ?_, fun st => ?_⟩
  · rw [(portHears_iff hp hq).2 ⟨on, st⟩, bad, if_neg (by simp), if_pos (by decide), if_neg (by omega)]
  · have hears : s.portHears f.port = false := Bool.eq_false_iff.2 fun h => by
      have := (portHears_iff hp hq).1 h
      omega
    rw [hears, on, st, decide_eq_false (by omega), bad, if_neg (by decide), if_pos (by decide), if_pos rfl]

theorem exec_hello_up {f : Flit} (here : f.port = p) (on : s.fabricOn = true) (good : crcOk f = true) (st : q.state = 3) : exec (.hello f) s = .next s := by
  subst here
  rw [show exec (.hello f) s = execHello f s from rfl, execHello, portAt_of hq]
  dsimp only
  rw [(portHears_iff hp hq).2 ⟨on, .inr st⟩, good, if_neg (by simp), if_neg (by decide), if_pos st]

omit hp hq in
/-- What an instruction leaves of this port, of the others, of the crews and of memory. -/
abbrev State.linked (s : State) (p : ℕ) (i : Instr) (f : State → Port → Prop) : Prop :=
  ∃ (s' : State) (q' : Port), exec i s = .next s' ∧ s'.ports[p]? = some q' ∧ (∀ j, j ≠ p → s'.ports[j]? = s.ports[j]?) ∧ s'.crews = s.crews ∧ s'.mem = s.mem ∧ f s' q'

omit hp hq in
/-- One flit of the link leaves on a port. -/
abbrev State.sendsLink (s s' : State) (p : ℕ) (kind : BitVec 8) (seq : BitVec 16) : Prop := ∃ f : Flit, s'.outbox = s.outbox ++ [f] ∧ f.port = p ∧ f.kind = kind ∧ f.seq = seq ∧ crcOk f = true

omit hp hq in
/-- The port's HELLO leaves on it. -/
abbrev State.sendsHello (s s' : State) (p : ℕ) : Prop :=
  ∃ f : Flit, s'.outbox = s.outbox ++ [f] ∧ f.port = p ∧ f.kind = 1#8 ∧ f.seq = 0#16 ∧ f.payload = flitPayload (s.helloPayload p) ∧ crcOk f = true

omit hp in
theorem linked_portTo {i : Instr} {st : ℕ} (runs : exec i s = .next (s.portTo p st)) (other : q.state ≠ st) :
    s.linked p i fun s' q' => q'.state = st ∧ q'.age = 0 ∧ raised s s' 7 1 ∧ s'.outbox = s.outbox := by
  rw [portTo_changes hq other] at runs
  obtain ⟨port, others⟩ := ports_set hq { q with state := st, age := 0 }
  exact ⟨_, _, runs, port, others, rfl, rfl, rfl, rfl, raise_raised { s with ports := s.ports.set p { q with state := st, age := 0 } } 0 p 0 st (kind := 7) (by decide), rfl⟩

omit hp in
theorem linked_portHello {i : Instr} (runs : exec i s = .next (s.portHello p)) (other : q.state ≠ 2) :
    s.linked p i fun s' q' => q'.state = 2 ∧ q'.age = 0 ∧ raised s s' 7 1 ∧ s.sendsHello s' p := by
  obtain ⟨f, perf, e, n, form, event, link⟩ := portHello_spec hq other
  rw [form] at runs event
  obtain ⟨port, others⟩ := ports_set hq { q with state := 2, age := 0 }
  exact ⟨_, _, runs, port, others, rfl, rfl, rfl, rfl, event, f, rfl, link.port, link.kind, link.seq, link.payload, link.crc⟩

omit hp in
/-- A NAK for a flit whose CRC is wrong. -/
theorem linked_crcNak {i : Instr} (runs : exec i s = .next (s.crcNak p)) (young : s.decayAge < 2 ^ 28) :
    s.linked p i fun s' q' => q' = q ∧ s.sendsLink s' p 3#8 q.rxSeq ∧ (s'.unit (.port p)).score = BitVec.ofNat 16 (min 65535 ((s.unit (.port p)).score.toNat + 1)) := by
  obtain ⟨f, perf, sent, link⟩ := linkFlit_spec s p 3 q.rxSeq []
  have nak : s.sendNak p = { s with outbox := s.outbox ++ [f], perf := perf } := by rw [State.sendNak, portAt_of hq, sent]
  obtain ⟨⟨units, due, frame⟩, score⟩ := charge_flitNak (s := { s with outbox := s.outbox ++ [f], perf := perf }) young p
  rw [State.crcNak, nak] at runs
  refine ⟨_, q, runs, ?_, fun j _ => ?_, ?_, ?_, rfl, ⟨f, ?_, link.port, link.kind, link.seq, link.crc⟩, score⟩ <;> rw [frame]
  exact hq

omit hp in
theorem linked_sendNak {i : Instr} (runs : exec i s = .next (s.sendNak p)) : s.linked p i fun s' q' => q' = q ∧ s.sendsLink s' p 3#8 q.rxSeq := by
  obtain ⟨f, perf, sent, link⟩ := linkFlit_spec s p 3 q.rxSeq []
  rw [State.sendNak, portAt_of hq, sent] at runs
  exact ⟨_, q, runs, hq, fun _ _ => rfl, rfl, rfl, rfl, f, rfl, link.port, link.kind, link.seq, link.crc⟩

/-- The package after a HELLO that is heard: the link carries the span if the peer is of it. -/
abbrev State.metAt (s : State) (f : Flit) (s' : State) (q' : Port) : Prop :=
  (s.sameSpan f → q'.state = 3) ∧ (¬s.sameSpan f → q'.state = 4) ∧ q'.fver.toNat = min Config.fabricVersion.toNat (payAt f.payload 0 1) ∧
    q'.tver.toNat = min Config.tetherVersion.toNat (payAt f.payload 1 1) ∧ q'.peerSpan.toNat = payAt f.payload 4 4 ∧ q'.peerIndex.toNat = payAt f.payload 8 2 ∧ s'.slices = s.slices

omit hp hq in
/-- A HELLO of a member that has left takes it from the lost ones, which matters to no HELLO of a joined one. -/
theorem heardLeave_spec (s : State) (q : Port) (f : Flit) : ∃ lost, s.heardLeave q (helloInfo f) = { s with span := { s.span with lost := lost } } ∧
    (({ s with span := { s.span with lost := lost } } : State).sameSpan f ↔ s.sameSpan f) := by
  unfold State.heardLeave
  split
  · next left =>
    refine ⟨_, rfl, ?_⟩
    have away : payAt f.payload 2 1 ≠ 1 := fun h => by
      rw [show (helloInfo f).joined = true from beq_iff_eq.2 h] at left
      cases left
    exact ⟨fun h => absurd h.2.1 away, fun h => absurd h.2.1 away⟩
  · exact ⟨s.span.lost, rfl, Iff.rfl⟩

theorem linked_hello {f : Flit} (here : f.port = p) (on : s.fabricOn = true) (good : crcOk f = true) (st : q.state = 2) (clear : ∀ g, g ∈ s.outbox → g.port ≠ 24) :
    s.linked p (.hello f) fun s' q' => s.metAt f s' q' ∧ raised s s' 7 1 ∧ s'.outbox = s.outbox := by
  have runs := exec_hello_met hp hq here on good (.inl st)
  obtain ⟨lost, left, same⟩ := heardLeave_spec s q f
  rw [if_neg (by omega), left] at runs
  obtain ⟨q', e, n, form, event, met⟩ := meet_spec (s := { s with span := { s.span with lost := lost } }) hq st clear f
  rw [form] at runs event
  obtain ⟨port, others⟩ := ports_set hq q'
  exact ⟨_, q', runs, port, others, rfl, rfl, ⟨fun h => met.up (same.2 h), fun h => met.foreign (mt same.1 h), met.fver, met.tver, met.span, met.index, rfl⟩, event, rfl⟩

theorem linked_hello_foreign {f : Flit} (here : f.port = p) (on : s.fabricOn = true) (good : crcOk f = true) (st : q.state = 4) (clear : ∀ g, g ∈ s.outbox → g.port ≠ 24) :
    s.linked p (.hello f) fun s' q' => s.metAt f s' q' ∧ raised s s' 7 2 ∧ s.sendsHello s' p := by
  have runs := exec_hello_met hp hq here on good (.inr st)
  obtain ⟨g, perf, e, n, hello, event, link⟩ := portHello_spec hq (by omega)
  rw [if_pos st, hello] at runs
  rw [hello] at event
  generalize hu : ({ s with ports := s.ports.set p { q with state := 2, age := 0 }, outbox := s.outbox ++ [g], perf := perf, events := e, evSeq := n } : State) = u at runs event
  obtain ⟨lost, left, same⟩ := heardLeave_spec u q f
  rw [left] at runs
  have clear' : ∀ x, x ∈ ({ u with span := { u.span with lost := lost } } : State).outbox → x.port ≠ 24 := by
    subst hu
    intro x hx
    obtain old | new := List.mem_append.1 hx
    · exact clear x old
    · rw [List.mem_singleton.1 new, link.port]; omega
  have port2 : ({ u with span := { u.span with lost := lost } } : State).ports[p]? = some { q with state := 2, age := 0 } := by subst hu; exact (ports_set hq _).1
  obtain ⟨q', e', n', form, event', met⟩ := meet_spec port2 rfl clear' f
  rw [form] at runs event'
  subst hu
  refine ⟨_, q', runs, ?_, ?_, rfl, rfl, ⟨fun h => met.up (same.2 h), fun h => met.foreign (mt same.1 h), met.fver, met.tver, met.span, met.index, rfl⟩, event.trans event',
    g, rfl, link.port, link.kind, link.seq, link.payload, link.crc⟩
  · exact (ports_set port2 q').1
  · exact fun j hj => ((ports_set port2 q').2 j hj).trans ((ports_set hq _).2 j hj)

theorem exec_ack_up {f : Flit} (here : f.port = p) (on : s.fabricOn = true) (good : crcOk f = true) (st : q.state = 3) :
    exec (.ack f) s = .next (s.putPort p { q with unacked := q.unacked.filter (fun x => seqBefore f.seq x.seq) }) := by
  subst here
  rw [show exec (.ack f) s = execAck f s from rfl, execAck, checkedIn_up ((portHears_iff hp hq).2 ⟨on, .inr st⟩) good ((linkUp_iff hp hq).2 ⟨on, st⟩), portAt_of hq]

omit hp hq in
/-- The NAKs in a row with this number, with the one that arrives. -/
def Port.nakCount (q : Port) (f : Flit) : ℕ := if q.nakSeq = f.seq ∧ q.naks ≠ 0 then q.naks + 1 else 1
omit hp hq in
/-- What a NAK leaves to be replayed. -/
def Port.toReplay (q : Port) (f : Flit) : List Flit := q.unacked.filter (fun x => x.seq == f.seq || seqBefore f.seq x.seq)

theorem exec_nak_up {f : Flit} (here : f.port = p) (on : s.fabricOn = true) (good : crcOk f = true) (st : q.state = 3) :
    exec (.nak f) s = .next (
      if 16 ≤ q.nakCount f then (s.putPort p { q with unacked := q.toReplay f, nakSeq := f.seq, naks := q.nakCount f }).portDown p 0
      else ({ s with ports := s.ports.set p { q with unacked := q.toReplay f, nakSeq := f.seq, naks := q.nakCount f }, outbox := s.outbox ++ q.toReplay f } : State).count (p / 6) 0x0E (q.toReplay f).length) := by
  subst here
  rw [show exec (.nak f) s = execNak f s from rfl, execNak, (portHears_iff hp hq).2 ⟨on, .inr st⟩, good, (linkUp_iff hp hq).2 ⟨on, st⟩, State.replayFrom, portAt_of hq]
  rfl

theorem linked_nak_replay {f : Flit} (here : f.port = p) (on : s.fabricOn = true) (good : crcOk f = true) (st : q.state = 3) (few : q.nakCount f < 16) :
    s.linked p (.nak f) fun s' q' => q' = { q with unacked := q.toReplay f, nakSeq := f.seq, naks := q.nakCount f } ∧ s'.outbox = s.outbox ++ q.toReplay f := by
  have runs := exec_nak_up hp hq here on good st
  obtain ⟨perf, counted⟩ := count_eq ({ s with ports := s.ports.set p { q with unacked := q.toReplay f, nakSeq := f.seq, naks := q.nakCount f }, outbox := s.outbox ++ q.toReplay f } : State) (p / 6) 0x0E (q.toReplay f).length
  rw [if_neg (by omega), counted] at runs
  obtain ⟨port, others⟩ := ports_set hq { q with unacked := q.toReplay f, nakSeq := f.seq, naks := q.nakCount f }
  exact ⟨_, _, runs, port, others, rfl, rfl, rfl, rfl⟩

theorem nak_down {f : Flit} (here : f.port = p) (on : s.fabricOn = true) (good : crcOk f = true) (st : q.state = 3) (many : 16 ≤ q.nakCount f) :
    ∃ s', exec (.nak f) s = .next s' ∧ s.wentDown s' p (q.toReplay f) := by
  have runs := exec_nak_up hp hq here on good st
  rw [if_pos many] at runs
  obtain ⟨port, others⟩ := ports_set hq { q with unacked := q.toReplay f, nakSeq := f.seq, naks := q.nakCount f }
  obtain ⟨q', port', zero, none_, tx, rx, event, length, crews, mem, alone⟩ :=
    portDown_spec (s := s.putPort p { q with unacked := q.toReplay f, nakSeq := f.seq, naks := q.nakCount f }) (q := { q with unacked := q.toReplay f, nakSeq := f.seq, naks := q.nakCount f }) port st
  refine ⟨_, runs, q', port', zero, none_, tx, rx, event, length, crews, mem, fun h => ?_⟩
  obtain ⟨box, kept⟩ := alone fun j x hj hx => h j x hj ((others j hj).symm.trans hx)
  exact ⟨box, fun j hj => (kept j hj).trans (others j hj)⟩

/-- A NAK at a port in HELLO: its HELLO goes again. -/
theorem linked_nak_hello {f : Flit} (here : f.port = p) (on : s.fabricOn = true) (good : crcOk f = true) (st : q.state = 2) :
    s.linked p (.nak f) fun s' q' => q' = q ∧ s.sendsHello s' p := by
  subst here
  have down : s.linkUp f.port = false := Bool.eq_false_iff.2 fun h => by
    have := ((linkUp_iff hp hq).1 h).2
    omega
  have runs : exec (.nak f) s = .next (s.linkFlit f.port 1 0#16 (s.helloPayload f.port)) := by
    rw [show exec (.nak f) s = execNak f s from rfl, execNak, (portHears_iff hp hq).2 ⟨on, .inl st⟩, good, down]
    rfl
  obtain ⟨g, perf, sent, link⟩ := linkFlit_spec s f.port 1 0#16 (s.helloPayload f.port)
  rw [sent] at runs
  exact ⟨_, q, runs, hq, fun _ _ => rfl, rfl, rfl, rfl, g, rfl, link.port, link.kind, link.seq, link.payload, link.crc⟩

theorem exec_flitUnassigned_up {f : Flit} (here : f.port = p) (on : s.fabricOn = true) (good : crcOk f = true) (st : q.state = 3) (unassigned : f.kind.toNat ∉ flitKinds) :
    exec (.flitUnassigned f) s = .next (s.sendNak p) := by
  subst here
  have : flitKinds.contains f.kind.toNat = false := by rwa [List.contains_eq_mem, decide_eq_false_iff_not]
  rw [show exec (.flitUnassigned f) s = execFlitUnassigned f s from rfl, execFlitUnassigned, checkedIn_up ((portHears_iff hp hq).2 ⟨on, .inr st⟩) good ((linkUp_iff hp hq).2 ⟨on, st⟩), this]
  rfl

theorem exec_flitCrcError_up {f : Flit} (here : f.port = p) (on : s.fabricOn = true) (good : crcOk f = true) (st : q.state = 3) : exec (.flitCrcError f) s = .next s := by
  subst here
  rw [show exec (.flitCrcError f) s = execFlitCrcError f s from rfl, execFlitCrcError, checkedIn_up ((portHears_iff hp hq).2 ⟨on, .inr st⟩) good ((linkUp_iff hp hq).2 ⟨on, st⟩)]
  rfl

theorem inOrder_one (f : State → State) (seq : BitVec 16) (up : s.linkUp p = true) : s.inOrder ⟨p, seq⟩ 1 f =
    if seq = q.rxSeq then f (s.takeSeq p 1) else if seqBefore seq q.rxSeq then s else s.sendNak p := by
  rw [State.inOrder, up, portAt_of hq, BitVec.add_sub_cancel]
  rfl

omit hp in
/-- The next flit of a link is taken with an ACK. -/
theorem takeSeq_one : ∃ f perf, s.takeSeq p 1 = { s with ports := s.ports.set p { q with rxSeq := q.rxSeq + 1#16 }, outbox := s.outbox ++ [f], perf := perf } ∧ LinkFlit f p 2#8 q.rxSeq [] := by
  obtain ⟨f, perf, sent, link⟩ := linkFlit_spec (s.putPort p { q with rxSeq := q.rxSeq + 1#16 }) p 2 (q.rxSeq + 1#16 - 1#16) []
  rw [BitVec.add_sub_cancel] at link
  refine ⟨f, perf, ?_, link⟩
  rw [State.takeSeq, portAt_of hq]
  exact sent

/-- Traffic on a link that is UP: the next flit is taken, an earlier one ignored, and a gap answered with a NAK. -/
theorem traffic_up {f : Flit} (here : f.port = p) (on : s.fabricOn = true) (good : crcOk f = true) (st : q.state = 3) {i : Instr} (hi : i ∈ [Instr.flitWrite f, .flitReadRequest f, .flitReadResponse f]) :
    (f.seq = q.rxSeq → s.linked p i fun s' q' => q' = { q with rxSeq := q.rxSeq + 1#16 } ∧ s.sendsLink s' p 2#8 q.rxSeq) ∧ (seqBefore f.seq q.rxSeq = true → exec i s = .next s) ∧
      (f.seq ≠ q.rxSeq → seqBefore f.seq q.rxSeq = false → s.linked p i fun s' q' => q' = q ∧ s.sendsLink s' p 3#8 q.rxSeq) := by
  subst here
  have up := (linkUp_iff hp hq).2 ⟨on, st⟩
  have runs := traffic_inOrder ((portHears_iff hp hq).2 ⟨on, .inr st⟩) good up hi
  rw [inOrder_one hp hq id f.seq up] at runs
  refine ⟨fun next => ?_, fun before => ?_, fun gap later => ?_⟩
  · obtain ⟨g, perf, taken, link⟩ := takeSeq_one hq
    rw [if_pos next, taken] at runs
    obtain ⟨port, others⟩ := ports_set hq { q with rxSeq := q.rxSeq + 1#16 }
    exact ⟨_, _, runs, port, others, rfl, rfl, rfl, g, rfl, link.port, link.kind, link.seq, link.crc⟩
  · have other : f.seq ≠ q.rxSeq := fun h => by
      rw [h, seqBefore, BitVec.sub_self] at before
      cases before
    rwa [if_neg other, if_pos before] at runs
  · rw [if_neg gap, if_neg (by rw [later]; exact Bool.false_ne_true)] at runs
    exact linked_sendNak hq runs

/-- A loss of signal at a port that is UP. -/
theorem signalLoss_down (on : s.fabricOn = true) (st : q.state = 3) : ∃ s', exec (.portSignalLoss p) s = .next s' ∧ s.wentDown s' p q.unacked := by
  have runs := exec_portSignalLoss hp hq on
  rw [if_pos st] at runs
  exact ⟨_, runs, portDown_spec hq st⟩

end

/-- Settles O57. -/
theorem portsAndLinks : Obligations.PortsAndLinks := by
  unfold Obligations.PortsAndLinks
  intro s p q hp hq
  refine ⟨fun off => ?_, fun on => ⟨fun st here => ?_, fun other => ?_, fun st => ⟨?_, fun old => ?_, fun young => ?_⟩, fun other => ⟨?_, ?_⟩, fun st => ?_, fun other => ?_, fun f here => ?_⟩⟩
  · obtain ⟨detect, locked, timeout, loss⟩ := ports_off (p := p) off
    refine ⟨detect, locked, timeout, loss, fun f here => ⟨exec_hello_deaf hp hq here (.inl off), fun i hi => (otherFlits_checked s f i hi).deaf (Bool.eq_false_iff.2 fun h => ?_)⟩⟩
    rw [here] at h
    rw [((portHears_iff hp hq).1 h).1] at off
    cases off
  · have runs := exec_portSignalDetect hp hq on
    rw [if_pos ⟨st, here⟩] at runs
    exact linked_portTo hq runs (by omega)
  · have runs := exec_portSignalDetect hp hq on
    rwa [if_neg (by rintro ⟨st, here⟩; rw [here] at other; exact other.elim (absurd st) Bool.false_ne_true)] at runs
  · have runs := exec_portLanesLocked hp hq on
    rw [if_pos st] at runs
    exact linked_portHello hq runs (by omega)
  · have runs := exec_portTrainTimeout hp hq on
    rw [if_pos ⟨st, old⟩] at runs
    exact linked_portTo hq runs (by omega)
  · have runs := exec_portTrainTimeout hp hq on
    rwa [if_neg (by omega)] at runs
  · have runs := exec_portLanesLocked hp hq on
    rwa [if_neg other] at runs
  · have runs := exec_portTrainTimeout hp hq on
    rwa [if_neg fun h => other h.1] at runs
  · obtain ⟨s', runs, q', down⟩ := signalLoss_down hp hq on st
    exact ⟨s', q', runs, down⟩
  · have runs := exec_portSignalLoss hp hq on
    rwa [if_neg other] at runs
  · subst here
    have checked := otherFlits_checked s f
    refine ⟨fun n2 n3 => ⟨fun i hi => (checked i hi).deaf (Bool.eq_false_iff.2 fun h => ?_), fun n4 => exec_hello_deaf hp hq rfl (.inr ⟨n2, n3, n4⟩)⟩, fun st bad young => ⟨?_, fun i hi => ?_⟩,
      fun st good => ⟨fun clear => linked_hello hp hq rfl on good st clear, linked_nak_hello hp hq rfl on good st, fun i hi other => ?_⟩,
      fun st => ⟨fun bad => (exec_hello_bad hp hq rfl on bad).2 st, fun good clear => linked_hello_foreign hp hq rfl on good st clear⟩,
      fun st good => ⟨exec_hello_up hp hq rfl on good st, ⟨_, exec_ack_up hp hq rfl on good st, (ports_set hq _).1, rfl⟩,
        ⟨fun few => linked_nak_replay hp hq rfl on good st few, fun many => ?_⟩, exec_flitCrcError_up hp hq rfl on good st,
        fun unassigned => linked_sendNak hq (exec_flitUnassigned_up hp hq rfl on good st unassigned), fun i hi => traffic_up hp hq rfl on good st hi⟩⟩
    · exact ((portHears_iff hp hq).1 h).2.elim n2 n3
    · exact linked_crcNak hq ((exec_hello_bad hp hq rfl on bad).1 st) young
    · exact linked_crcNak hq ((checked i hi).bad ((portHears_iff hp hq).2 ⟨on, st⟩) bad) young
    · refine (checked i hi).hello other ((portHears_iff hp hq).2 ⟨on, .inl st⟩) good (Bool.eq_false_iff.2 fun h => ?_)
      have := ((linkUp_iff hp hq).1 h).2
      omega
    · obtain ⟨s', runs, q', down⟩ := nak_down hp hq rfl on good st many
      exact ⟨s', q', runs, down⟩

end Sys2Proof.Machine

/-! ## Span reductions, Comet shards and lost members (12 R271, R277; 14 R310; 21 R411) -/

namespace Sys2Proof.Machine

/-! ### A numbered flit that is the next in order -/

section
variable {s : State} {f : Flit} {q : Port} (hp : f.port < 24) (hq : s.ports[f.port]? = some q) (st : q.state = 3) (on : s.fabricOn = true) (good : crcOk f = true) (next : f.seq = q.rxSeq)
include hp hq st on good next

/-- The state in which a flit that is the next in order acts: its ACK has left, and the port counts on. -/
theorem linkIn_next (g : State → State) : ∃ (a : Flit) (perf : List Perf), linkIn f s g =
    .next (g { s with ports := s.ports.set f.port { q with rxSeq := q.rxSeq + 1#16 }, outbox := s.outbox ++ [a], perf := perf }) := by
  obtain ⟨a, perf, taken, -⟩ := takeSeq_one hq
  refine ⟨a, perf, ?_⟩
  have up := (linkUp_iff hp hq).2 ⟨on, st⟩
  rw [linkIn, checkedIn_up ((portHears_iff hp hq).2 ⟨on, .inr st⟩) good up, inOrder_one hp hq g f.seq up, if_pos next, taken]

end

/-! ### Span reductions -/

/-- With no command in flight a reduction closes nothing. -/
theorem closeReduction_idle {s : State} (idle : s.commands = []) (g : BitVec 16) (k : ℕ) : s.closeReduction g k = s := by
  unfold State.closeReduction
  rw [idle]
  rfl

theorem contribute_idle {s : State} (idle : s.commands = []) (n : SpanNode) : ∃ nodes, s.contribute n = { s with spanNodes := nodes } ∧
    ((∀ x, x ∈ s.spanNodes → sameNode n x = false) → nodes = s.spanNodes ++ [n]) ∧ ((∃ x, x ∈ s.spanNodes ∧ sameNode n x = true) → nodes.length = s.spanNodes.length) := by
  unfold State.contribute
  cases found : s.spanNodes.find? (sameNode n) with
  | none =>
    refine ⟨_, closeReduction_idle (s := { s with spanNodes := s.spanNodes ++ [n] }) idle n.group n.k, fun _ => rfl, fun ⟨x, hx, same⟩ => ?_⟩
    exact absurd same (by simpa using List.find?_eq_none.1 found x hx)
  | some y =>
    refine ⟨_, closeReduction_idle (s := { s with spanNodes := s.spanNodes.map (fun x => if sameNode n x then { x with ok := x.ok && n.ok } else x) }) idle n.group n.k, fun new => ?_, fun _ => List.length_map _⟩
    have := new y (List.mem_of_find?_eq_some found)
    rw [List.find?_some found] at this
    cases this

theorem contributeValue_idle {s : State} (idle : s.commands = []) (n : SpanNode) (v : ℕ × Word) :
    s.contributeValue n v = { s with spanVals := s.spanVals ++ [⟨n.group, n.k, n.member, n.cbase, n.logb, v.1, v.2⟩] } :=
  closeReduction_idle (s := { s with spanVals := s.spanVals ++ [SpanVal.mk n.group n.k n.member n.cbase n.logb v.1 v.2] }) idle n.group n.k

/-! ### Comet shards -/

theorem send_spec (s : State) (kind dst : ℕ) (tag : BitVec 32) (payload : List Byte) :
    ∃ a : Flit, (s.send kind dst tag payload).outbox = s.outbox ++ [a] ∧ a.kind = BitVec.ofNat 8 kind ∧ a.dst = BitVec.ofNat 12 dst ∧ a.payload = flitPayload payload := by
  unfold State.send State.route
  split
  · next p up =>
    obtain ⟨x, hx, -⟩ := upPort_some up
    unfold State.sendOn
    rw [hx]
    dsimp only
    generalize hg : (sealed _ : Flit) = g
    obtain ⟨perf, counted⟩ := count_eq { s with outbox := s.outbox ++ [g], ports := s.ports.set p { x with txSeq := x.txSeq + 1#16, unacked := x.unacked ++ [g] } } (p / 6) 0x0E 1
    rw [counted]
    subst hg
    exact ⟨_, rfl, rfl, rfl, rfl⟩
  · exact ⟨_, rfl, rfl, rfl, rfl⟩

/-- The last flit that leaves for a member's request. -/
structure ShardFlit (a : Flit) (dst : ℕ) (step : BitVec 32) (kind record : ℕ) (valid : Bool) : Prop where
  flit : a.kind = 0x40#8
  dst : a.dst = BitVec.ofNat 12 dst
  step : payAt a.payload 0 4 = step.toNat
  kind : payAt a.payload 4 1 = kind % 256
  valid : payAt a.payload 5 1 = valid.toNat
  record : payAt a.payload 7 1 = record % 256

theorem shardFlit_of {a : Flit} {dst kind index part record : ℕ} {step : BitVec 32} {valid : Bool} {data : List Byte} (flit : a.kind = 0x40#8) (to_ : a.dst = BitVec.ofNat 12 dst)
    (payload : a.payload = flitPayload (shardPayload step kind index part valid record data)) : ShardFlit a dst step kind record valid := by
  have field (off n : ℕ) (h : off + n ≤ 8) : payAt a.payload off n = payAt (leBytes 4 step.toNat ++ (leBytes 1 kind ++ (leBytes 1 (if valid then 1 else 0) ++ (leBytes 1 part ++ leBytes 1 record)))) off n := by
    have length : (leBytes 4 step.toNat ++ (leBytes 1 kind ++ (leBytes 1 (if valid then 1 else 0) ++ (leBytes 1 part ++ leBytes 1 record)))).length = 8 := by simp [length_leBytes]
    have form : shardPayload step kind index part valid record data = (leBytes 4 step.toNat ++ (leBytes 1 kind ++ (leBytes 1 (if valid then 1 else 0) ++ (leBytes 1 part ++ leBytes 1 record)))) ++
        (leBytes 8 index ++ padTo shardPart ((data.drop (shardPart * part)).take shardPart)) := by simp only [shardPayload, List.append_assoc]
    rw [payload, flitPayload, form, payAt_padTo (by omega) (by rw [List.length_append, length]; omega), payAt_append_left (by omega)]
  refine ⟨flit, to_, ?_, ?_, ?_, ?_⟩ <;> rw [field _ _ (by decide)]
  · rw [payAt_append_left (by rw [length_leBytes]), payAt_leBytes]
    exact Nat.mod_eq_of_lt step.isLt
  · simp only [Nat.reduceLeDiff, payAt_append_left, payAt_append_right, length_leBytes, payAt_leBytes, zero_add, Nat.sub_self, le_refl, Nat.reducePow]
  · simp only [Nat.reduceLeDiff, payAt_append_left, payAt_append_right, length_leBytes, payAt_leBytes, zero_add, Nat.reduceSub, Nat.sub_self, le_refl, Nat.reducePow]
    cases valid <;> rfl
  · simp only [Nat.reduceLeDiff, payAt_append_left, payAt_append_right, length_leBytes, payAt_leBytes, zero_add, Nat.reduceSub, Nat.sub_self, le_refl, Nat.reducePow]

theorem foldl_send_length {α : Type} {f : State → α → State} (one : ∀ (s : State) x, (f s x).outbox.length = s.outbox.length + 1) (l : List α) (s : State) :
    (l.foldl f s).outbox.length = s.outbox.length + l.length := by
  induction l generalizing s with
  | nil => rfl
  | cons x l ih => rw [List.foldl_cons, ih, one, List.length_cons]; omega

theorem sendShard_spec (s : State) (dst : ℕ) (step : BitVec 32) (kind index record : ℕ) (data : List Byte) :
    s.onlySends (s.sendShard dst step kind index record data) ∧ (s.sendShard dst step kind index record data).outbox.length = s.outbox.length + 86 ∧
      ∀ a, (s.sendShard dst step kind index record data).outbox.getLast? = some a → ShardFlit a dst step kind record true := by
  refine ⟨State.onlySends_foldl (fun u p => u.onlySends_send _ _ _ _) _ s, ?_, fun a last => ?_⟩
  · rw [State.sendShard, foldl_send_length, List.length_range]
    · rfl
    · intro u p
      obtain ⟨a, sent, -⟩ := send_spec u 0x40 dst 0#32 (shardPayload step kind index p true record data)
      rw [sent, List.length_append, List.length_singleton]
  · have split : s.sendShard dst step kind index record data =
        ((List.range 85).foldl (fun s p => s.send 0x40 dst 0#32 (shardPayload step kind index p true record data)) s).send 0x40 dst 0#32 (shardPayload step kind index 85 true record data) := by
      rw [State.sendShard, show shardParts = 85 + 1 from rfl, List.range_succ, List.foldl_append, List.foldl_cons, List.foldl_nil]
    obtain ⟨b, sent, flit, to_, payload⟩ := send_spec ((List.range 85).foldl (fun s p => s.send 0x40 dst 0#32 (shardPayload step kind index p true record data)) s) 0x40 dst 0#32 (shardPayload step kind index 85 true record data)
    rw [split, sent, List.getLast?_concat] at last
    obtain rfl := Option.some.inj last
    exact shardFlit_of flit to_ payload

theorem sendNoShard_spec (s : State) (dst : ℕ) (step : BitVec 32) (kind index record : ℕ) :
    s.onlySends (s.sendNoShard dst step kind index record) ∧ (s.sendNoShard dst step kind index record).outbox.length = s.outbox.length + 1 ∧
      ∀ a, (s.sendNoShard dst step kind index record).outbox.getLast? = some a → ShardFlit a dst step kind record false := by
  obtain ⟨b, sent, flit, to_, payload⟩ := send_spec s 0x40 dst 0#32 (shardPayload step kind index 0 false record [])
  refine ⟨s.onlySends_send _ _ _ _, ?_, fun a last => ?_⟩
  · rw [State.sendNoShard, sent, List.length_append, List.length_singleton]
  · rw [State.sendNoShard, sent, List.getLast?_concat] at last
    obtain rfl := Option.some.inj last
    exact shardFlit_of flit to_ payload

/-- A record that is valid says prepared or committed. -/
theorem stepRecordAt_state {s : State} {z : ℕ} {r : StepRecord} (h : s.stepRecordAt z = some r) : r.state ≤ 2 := by
  unfold State.stepRecordAt at h
  dsimp only at h
  split at h
  · cases h
  · split at h
    · next valid =>
      obtain ⟨-, -, -, -, st, -⟩ := valid
      rw [← Option.some.inj h]
      exact st.elim (fun h => (le_of_eq h).trans (Nat.le_succ 1)) le_of_eq
    · cases h

theorem foldl_state_le {l : List StepRecord} {n : ℕ} (small : ∀ r, r ∈ l → r.state ≤ n) : ∀ b, b ≤ n → l.foldl (fun b r => max b r.state) b ≤ n := by
  induction l with
  | nil => exact fun b hb => hb
  | cons r l ih => exact fun b hb => ih (fun x hx => small x (List.mem_cons_of_mem _ hx)) _ (max_le hb (small r List.mem_cons_self))

theorem recordState_le (s : State) (n : BitVec 32) : s.recordState n ≤ 2 := by
  refine foldl_state_le (fun r hr => ?_) 0 (Nat.zero_le _)
  obtain ⟨a, -, found⟩ := List.mem_filterMap.1 hr
  obtain ⟨z, -, valid⟩ := List.mem_filterMap.1 (List.mem_of_find?_eq_some (show (s.inArea a).validRecords.find? (fun r => r.n == n) = some r from found))
  exact stepRecordAt_state valid

/-! What a member still holds does not depend on what it sends. -/

section
variable {s s' : State} (bytes : s'.memBytes = s.memBytes) (dead : s'.isDead = s.isDead) (poison : s'.isPoisoned = s.isPoisoned) (comet : s'.comet = s.comet) (span : s'.span = s.span)
include bytes dead poison comet span

theorem recordOf_congr (n : BitVec 32) : s'.recordOf n = s.recordOf n := by
  unfold State.recordOf State.validRecords State.stepRecordAt
  rw [bytes, dead, poison, comet, span]

theorem unitIn_congr (n : BitVec 32) (i : ℕ) : s'.unitIn n i = s.unitIn n i := by
  unfold State.unitIn State.digestHolds State.unitsDigest
  rw [recordOf_congr bytes dead poison comet span, bytes, dead, poison, comet]

end

theorem intactUnit_sends {s s' : State} (sends : s.onlySends s') (n : BitVec 32) (i : ℕ) : s'.intactUnit n i = s.intactUnit n i := by
  obtain ⟨o, p, f, rfl⟩ := sends
  exact congrArg (fun g => List.findSome? g ((s.comet.base, s.comet.units) :: s.comet.earlier.filter (fun a => a.2 == s.comet.units))) (funext fun a => unitIn_congr (s := s.inArea a) (s' := State.inArea { s with outbox := o, ports := p, perf := f } a) rfl rfl rfl rfl rfl n i)
theorem recordState_sends {s s' : State} (sends : s.onlySends s') (n : BitVec 32) : s'.recordState n = s.recordState n := by
  obtain ⟨o, p, f, rfl⟩ := sends
  exact congrArg (fun g => (List.filterMap g ((s.comet.base, s.comet.units) :: s.comet.earlier)).foldl (fun b r => max b r.state) 0) (funext fun a => recordOf_congr (s := s.inArea a) (s' := State.inArea { s with outbox := o, ports := p, perf := f } a) rfl rfl rfl rfl rfl n)

/-! ### Members without a route -/

theorem exec_routeLost {s : State} {m : ℕ} (on : s.fabricOn = true) (other : s.otherMember m = true) (held : m ∉ s.span.lost) (reached : ∀ x, x ∈ s.span.noRoute → x.1 ≠ m) :
    exec (.routeLost m) s = .next ({ s with span := { s.span with noRoute := s.span.noRoute ++ [(m, 0)] } }.raise 9 0 m 0 m) := by
  have lost : s.span.lost.contains m = false := by rwa [List.contains_eq_mem, decide_eq_false_iff_not]
  have route : s.span.noRoute.any (fun p => p.1 == m) = false := List.any_eq_false.2 fun x hx => by rw [beq_iff_eq]; exact reached x hx
  rw [show exec (.routeLost m) s = execRouteLost m s from rfl, execRouteLost, on, other, lost, route]
  rfl

theorem exec_routeLost_stranger {s : State} {m : ℕ} (stranger : s.otherMember m = false) : exec (.routeLost m) s = .next s := by
  rw [show exec (.routeLost m) s = execRouteLost m s from rfl, execRouteLost, stranger]
  exact congrArg Host.Outcome.next (if_pos (by simp))

/-- The package once a member is lost, before its events: the commands of span reductions, the copies of its lines and the requests to it. -/
def State.withoutMember (s : State) (m : ℕ) : State :=
  { s with
    span := { s.span with noRoute := s.span.noRoute.filter (fun p => p.1 != m), lost := natInsert m s.span.lost }
    commands := s.commands.map (fun (x : Command) => if x.isSpan then { x with formed := true, rootFail := true } else x)
    slices := s.slices.filter (fun x => lineHome x.line != m)
    treqs := s.treqs.map (fun (q : TReq) => if lineHome q.line = m ∧ q.st = TReqState.waiting then { q with st := .failed } else q) }

theorem exec_memberLost (s : State) (m : ℕ) : exec (.memberLost m) s =
    .next (if !s.fabricOn || !s.span.noRoute.any (fun p => p.1 == m && decide (2 ^ 24 ≤ p.2)) then s else (((s.withoutMember m).raise 0x0C 0 m 0 0).cometAbandon 2).cometSuspend) := rfl

/-- What the loss of a member leaves of the span, the slices and the commands. -/
structure MemberGone (s s' : State) (m : ℕ) : Prop where
  lost : m ∈ s'.span.lost
  routes : ∀ x, x ∈ s'.span.noRoute → x.1 ≠ m
  slices : ∀ x, x ∈ s'.slices ↔ x ∈ s.slices ∧ x.line / 2 ^ 18 ≠ m
  treqs : ∀ x, x ∈ s'.treqs → x.line / 2 ^ 18 = m → x.st ≠ .waiting
  commands : ∀ x, x ∈ s'.commands → x.isSpan = true → x.formed = true ∧ x.rootFail = true

theorem withoutMember_gone (s : State) (m : ℕ) : MemberGone s (s.withoutMember m) m where
  lost := mem_natInsert.2 (.inl rfl)
  routes x hx := bne_iff_ne.1 (List.mem_filter.1 hx).2
  slices x := List.mem_filter.trans (and_congr_right fun _ => bne_iff_ne)
  treqs x hx home := by
    obtain ⟨q, -, rfl⟩ := List.mem_map.1 hx
    split
    · exact fun h => by cases h
    · next kept =>
      rw [if_neg kept] at home
      exact fun waiting => kept ⟨home, waiting⟩
  commands x hx isSpan := by
    obtain ⟨c, -, rfl⟩ := List.mem_map.1 hx
    split
    · exact ⟨rfl, rfl⟩
    · next plain =>
      rw [if_neg plain] at isSpan
      exact absurd isSpan plain

/-- The end of a capture that the loss of a member abandons, and the suspension. -/
theorem cometAbandon_spec (s : State) (reason : ℕ) : ∃ k shards e n, (s.cometAbandon reason).cometSuspend = { s with comet := k, shards := shards, events := e, evSeq := n } ∧ k.suspended = true ∧ k.capture = none ∧
    (s.comet.capture = none → e = s.events) ∧ (s.comet.capture.isSome = true → ∃ b, e = s.events ++ [b] ∧ eventKind b = 0x0B) := by
  unfold State.cometAbandon
  cases capture : s.comet.capture with
  | none => exact ⟨{ s.comet with suspended := true }, s.shards, s.events, s.evSeq, rfl, rfl, capture, fun _ => rfl, fun h => absurd h Bool.false_ne_true⟩
  | some n =>
    obtain ⟨es, events, length, kind⟩ := raise_raised s 0 s.span.index.toNat 0 (n.toNat + 2 ^ 32 * reason) (kind := 0x0B) (by decide)
    obtain ⟨b, rfl⟩ := List.length_eq_one_iff.1 length
    exact ⟨_, _, _, _, rfl, rfl, rfl, fun h => absurd h (Option.some_ne_none n), fun _ => ⟨b, events, kind b (List.mem_singleton.2 rfl)⟩⟩

/-! ### The statement's messages -/

/-- A root value at a command that waits for it. -/
def Command.takesRoot (m : Command) (n : SpanNode) (v : ℕ × Word) : Bool :=
  m.isSpan && m.group == n.group && m.spanK == n.k && m.formed && !m.rootFail && m.root.all (fun u => u.1 != v.1)

theorem Command.takesRoot_iff (m : Command) (n : SpanNode) (v : ℕ × Word) : m.takesRoot n v = true ↔
    m.isSpan = true ∧ m.group = n.group ∧ m.spanK = n.k ∧ m.formed = true ∧ m.rootFail = false ∧ m.root.all (fun u => u.1 != v.1) = true := by
  simp only [Command.takesRoot, Bool.and_eq_true, beq_iff_eq, Bool.not_eq_true', and_assoc]

/-- What a part of a shard leaves: it is kept with what has come of the shard before. -/
theorem takeShard_spec (s : State) (src : ℕ) {p : List Byte} (part : payAt p 6 1 < 86) : ∃ (l : List Shard) (x : Shard), s.takeShard src p = { s with shards := l } ∧ x ∈ l ∧ x.member = src ∧
    x.step = BitVec.ofNat 32 (payAt p 0 4) ∧ x.kind = payAt p 4 1 ∧ x.index = payAt p 8 8 ∧ payAt p 6 1 ∈ x.parts ∧ x.held = payAt p 7 1 ∧ (payAt p 5 1 ≠ 1 → x.valid = false) := by
  unfold State.takeShard
  dsimp only
  rw [if_neg (show ¬shardParts ≤ payAt p 6 1 from not_le.2 part)]
  have old : ∀ o : Shard, (s.shards.find? fun x => x.member == src && x.step == BitVec.ofNat 32 (payAt p 0 4) && x.kind == payAt p 4 1 && x.index == payAt p 8 8).getD
      ⟨src, BitVec.ofNat 32 (payAt p 0 4), payAt p 4 1, payAt p 8 8, true, List.replicate 4096 0#8, [], 0⟩ = o →
      o.member = src ∧ o.step = BitVec.ofNat 32 (payAt p 0 4) ∧ o.kind = payAt p 4 1 ∧ o.index = payAt p 8 8 := by
    intro o ho
    cases found : s.shards.find? (fun x => x.member == src && x.step == BitVec.ofNat 32 (payAt p 0 4) && x.kind == payAt p 4 1 && x.index == payAt p 8 8) with
    | none =>
      rw [found, Option.getD_none] at ho
      rw [← ho]
      exact ⟨rfl, rfl, rfl, rfl⟩
    | some y =>
      rw [found, Option.getD_some] at ho
      have keyed := List.find?_some found
      simp only [Bool.and_eq_true, beq_iff_eq, and_assoc] at keyed
      rwa [ho] at keyed
  generalize Option.getD _ _ = o at old ⊢
  obtain ⟨member, step, kind, index⟩ := old o rfl
  refine ⟨_, _, rfl, mem_upsert_self _ _ _, member, step, kind, index, mem_natInsert.2 (.inl rfl), rfl, fun bad => ?_⟩
  change (o.valid && payAt p 5 1 == 1) = false
  rw [beq_false_of_ne bad, Bool.and_false]

section
variable {s : State} {f : Flit} {q : Port} (hp : f.port < 24) (hq : s.ports[f.port]? = some q) (st : q.state = 3) (on : s.fabricOn = true) (good : crcOk f = true) (next : f.seq = q.rxSeq)
include hp hq st on good next

theorem exec_xredContribution_idle (idle : s.commands = []) : ∃ s', exec (.xredContribution f) s = .next s' ∧ s'.crews = s.crews ∧ s'.mem = s.mem ∧ (s'.ports[f.port]?).map (·.rxSeq) = some (q.rxSeq + 1#16) ∧
    (payAt f.payload 17 1 ≠ 0 → s'.spanNodes = s.spanNodes ∧ s'.spanVals = s.spanVals ++ [⟨(nodeOf f.payload).group, (nodeOf f.payload).k, (nodeOf f.payload).member, (nodeOf f.payload).cbase, (nodeOf f.payload).logb, payAt f.payload 24 4, BitVec.ofNat 64 (payAt f.payload 28 8)⟩]) ∧
    (payAt f.payload 17 1 = 0 → s'.spanVals = s.spanVals ∧ ((∀ x, x ∈ s.spanNodes → sameNode (nodeOf f.payload) x = false) → s'.spanNodes = s.spanNodes ++ [nodeOf f.payload]) ∧
      ((∃ x, x ∈ s.spanNodes ∧ sameNode (nodeOf f.payload) x = true) → s'.spanNodes.length = s.spanNodes.length)) := by
  have form : exec (.xredContribution f) s = linkIn f s fun s =>
      if payAt f.payload 17 1 = 0 then s.contribute (nodeOf f.payload) else s.contributeValue (nodeOf f.payload) (payAt f.payload 24 4, BitVec.ofNat 64 (payAt f.payload 28 8)) := by
    rw [show exec (.xredContribution f) s = execXredContribution f s from rfl, execXredContribution]
    refine congrArg (linkIn f s) (funext fun u => ?_)
    unfold nodeValue
    by_cases none_ : payAt f.payload 17 1 = 0
    · rw [if_pos none_, if_pos none_]
    · rw [if_neg none_, if_neg none_]
  obtain ⟨a, perf, runs⟩ := linkIn_next hp hq st on good next fun s =>
      if payAt f.payload 17 1 = 0 then s.contribute (nodeOf f.payload) else s.contributeValue (nodeOf f.payload) (payAt f.payload 24 4, BitVec.ofNat 64 (payAt f.payload 28 8))
  rw [← form] at runs
  have port := (ports_set hq { q with rxSeq := q.rxSeq + 1#16 }).1
  by_cases known : payAt f.payload 17 1 = 0
  · obtain ⟨nodes, kept, new, old⟩ := contribute_idle (s := { s with ports := s.ports.set f.port { q with rxSeq := q.rxSeq + 1#16 }, outbox := s.outbox ++ [a], perf := perf }) idle (nodeOf f.payload)
    rw [if_pos known, kept] at runs
    exact ⟨_, runs, rfl, rfl, congrArg (Option.map Port.rxSeq) port, fun h => absurd known h, fun _ => ⟨rfl, new, old⟩⟩
  · rw [if_neg known, contributeValue_idle (by exact idle)] at runs
    exact ⟨_, runs, rfl, rfl, congrArg (Option.map Port.rxSeq) port, fun _ => ⟨rfl, rfl⟩, fun h => absurd h known⟩

theorem exec_xredResult_next : ∃ s', exec (.xredResult f) s = .next s' ∧ s'.crews = s.crews ∧ s'.mem = s.mem ∧ s'.commands.length = s.commands.length ∧
    (payAt f.payload 17 1 = 0 → s'.commands = s.commands) ∧
    (payAt f.payload 17 1 ≠ 0 → ∀ (i : ℕ) (m : Command), s.commands[i]? = some m → s'.commands[i]? =
      some (if m.takesRoot (nodeOf f.payload) (payAt f.payload 24 4, BitVec.ofNat 64 (payAt f.payload 28 8)) then { m with root := m.root ++ [(payAt f.payload 24 4, BitVec.ofNat 64 (payAt f.payload 28 8))] } else m)) := by
  have form : exec (.xredResult f) s = linkIn f s fun s =>
      if payAt f.payload 17 1 = 0 then s else { s with commands := s.commands.map (fun m =>
        if m.takesRoot (nodeOf f.payload) (payAt f.payload 24 4, BitVec.ofNat 64 (payAt f.payload 28 8)) then { m with root := m.root ++ [(payAt f.payload 24 4, BitVec.ofNat 64 (payAt f.payload 28 8))] } else m) } := by
    rw [show exec (.xredResult f) s = execXredResult f s from rfl, execXredResult]
    refine congrArg (linkIn f s) (funext fun u => ?_)
    unfold nodeValue
    by_cases none_ : payAt f.payload 17 1 = 0
    · rw [if_pos none_, if_pos none_]
    · rw [if_neg none_, if_neg none_]
      rfl
  obtain ⟨a, perf, runs⟩ := linkIn_next hp hq st on good next fun s =>
      if payAt f.payload 17 1 = 0 then s else { s with commands := s.commands.map (fun m =>
        if m.takesRoot (nodeOf f.payload) (payAt f.payload 24 4, BitVec.ofNat 64 (payAt f.payload 28 8)) then { m with root := m.root ++ [(payAt f.payload 24 4, BitVec.ofNat 64 (payAt f.payload 28 8))] } else m) }
  rw [← form] at runs
  by_cases empty : payAt f.payload 17 1 = 0
  · rw [if_pos empty] at runs
    exact ⟨_, runs, rfl, rfl, rfl, fun _ => rfl, fun h => absurd empty h⟩
  · rw [if_neg empty] at runs
    refine ⟨_, runs, rfl, rfl, List.length_map _, fun h => absurd h empty, fun _ i m hm => ?_⟩
    exact (List.getElem?_map).trans (congrArg _ hm)

/-- A request for a shard is served from what this member still holds. -/
theorem exec_cometShard_asked (asks : payAt f.payload 4 1 = 5) : ∃ s', exec (.cometShard f) s = .next s' ∧ s.onlySends s' ∧
    (2 < payAt f.payload 7 1 ∨ s.intactUnit (BitVec.ofNat 32 (payAt f.payload 0 4)) (s.comet.shardUnit (payAt f.payload 7 1) (payAt f.payload 8 8)) = none →
      s'.outbox.length = s.outbox.length + 2 ∧ ∀ a, s'.outbox.getLast? = some a →
        ShardFlit a f.src.toNat (BitVec.ofNat 32 (payAt f.payload 0 4)) (payAt f.payload 7 1) (s.recordState (BitVec.ofNat 32 (payAt f.payload 0 4))) false) ∧
    (¬(2 < payAt f.payload 7 1 ∨ s.intactUnit (BitVec.ofNat 32 (payAt f.payload 0 4)) (s.comet.shardUnit (payAt f.payload 7 1) (payAt f.payload 8 8)) = none) →
      s'.outbox.length = s.outbox.length + 87 ∧ ∀ a, s'.outbox.getLast? = some a →
        ShardFlit a f.src.toNat (BitVec.ofNat 32 (payAt f.payload 0 4)) (payAt f.payload 7 1) (s.recordState (BitVec.ofNat 32 (payAt f.payload 0 4))) true) := by
  obtain ⟨a, perf, runs⟩ := linkIn_next hp hq st on good next fun s =>
    if payAt f.payload 4 1 = 5 then s.serveShard f.src.toNat (BitVec.ofNat 32 (payAt f.payload 0 4)) (payAt f.payload 7 1) (payAt f.payload 8 8) else s.takeShard f.src.toNat f.payload
  rw [if_pos asks] at runs
  have acked : s.onlySends { s with ports := s.ports.set f.port { q with rxSeq := q.rxSeq + 1#16 }, outbox := s.outbox ++ [a], perf := perf } := ⟨_, _, _, rfl⟩
  have one : ({ s with ports := s.ports.set f.port { q with rxSeq := q.rxSeq + 1#16 }, outbox := s.outbox ++ [a], perf := perf } : State).outbox.length = s.outbox.length + 1 := List.length_append
  have comet : ({ s with ports := s.ports.set f.port { q with rxSeq := q.rxSeq + 1#16 }, outbox := s.outbox ++ [a], perf := perf } : State).comet = s.comet := rfl
  generalize ({ s with ports := s.ports.set f.port { q with rxSeq := q.rxSeq + 1#16 }, outbox := s.outbox ++ [a], perf := perf } : State) = u at runs acked one comet
  refine ⟨_, (show exec (.cometShard f) s = execCometShard f s from rfl).trans runs, ?_⟩
  generalize BitVec.ofNat 32 (payAt f.payload 0 4) = n
  have record := recordState_sends acked n
  have intact := intactUnit_sends acked n (u.comet.shardUnit (payAt f.payload 7 1) (payAt f.payload 8 8))
  rw [comet] at intact
  obtain ⟨noSends, noLength, noLast⟩ := sendNoShard_spec u f.src.toNat n (payAt f.payload 7 1) (payAt f.payload 8 8) (s.recordState n)
  unfold State.serveShard
  rw [record, comet, intact]
  dsimp only
  split
  · next big => exact ⟨acked.trans noSends, fun _ => ⟨by rw [noLength, one], noLast⟩, fun h => absurd (.inl big) h⟩
  · next small =>
    cases unit : s.intactUnit n (s.comet.shardUnit (payAt f.payload 7 1) (payAt f.payload 8 8)) with
    | none => exact ⟨acked.trans noSends, fun _ => ⟨by rw [noLength, one], noLast⟩, fun h => absurd (.inr rfl) h⟩
    | some b =>
      obtain ⟨sends, length, last⟩ := sendShard_spec u f.src.toNat n (payAt f.payload 7 1) (payAt f.payload 8 8) (s.recordState n) b
      exact ⟨acked.trans sends, fun h => absurd h (by simpa using small), fun _ => ⟨by rw [length, one], last⟩⟩

theorem exec_cometShard_part (brings : payAt f.payload 4 1 ≠ 5) (part : payAt f.payload 6 1 < 86) : ∃ (s' : State) (x : Shard), exec (.cometShard f) s = .next s' ∧ x ∈ s'.shards ∧ x.member = f.src.toNat ∧
    x.step = BitVec.ofNat 32 (payAt f.payload 0 4) ∧ x.kind = payAt f.payload 4 1 ∧ x.index = payAt f.payload 8 8 ∧ payAt f.payload 6 1 ∈ x.parts ∧ x.held = payAt f.payload 7 1 ∧
    (payAt f.payload 5 1 ≠ 1 → x.valid = false) ∧ s'.crews = s.crews ∧ s'.mem = s.mem := by
  obtain ⟨a, perf, runs⟩ := linkIn_next hp hq st on good next fun s =>
    if payAt f.payload 4 1 = 5 then s.serveShard f.src.toNat (BitVec.ofNat 32 (payAt f.payload 0 4)) (payAt f.payload 7 1) (payAt f.payload 8 8) else s.takeShard f.src.toNat f.payload
  obtain ⟨l, x, taken, mem, member, step, kind, index, parts, held, valid⟩ := takeShard_spec { s with ports := s.ports.set f.port { q with rxSeq := q.rxSeq + 1#16 }, outbox := s.outbox ++ [a], perf := perf } f.src.toNat part
  rw [if_neg brings, taken] at runs
  exact ⟨_, x, (show exec (.cometShard f) s = execCometShard f s from rfl).trans runs, mem, member, step, kind, index, parts, held, valid, rfl, rfl⟩

end

/-- The package after a member is lost. -/
theorem memberLost_spec {s : State} {m age : ℕ} (on : s.fabricOn = true) (waits : (m, age) ∈ s.span.noRoute) (old : 2 ^ 24 ≤ age) :
    ∃ s', exec (.memberLost m) s = .next s' ∧ MemberGone s s' m ∧ (s.comet.capture = none → raised s s' 0x0C 1) ∧ s'.comet.suspended = true ∧ s'.comet.capture = none ∧
      (s.comet.capture.isSome = true → ∃ a b, s'.events = s.events ++ [a, b] ∧ eventKind a = 0x0C ∧ eventKind b = 0x0B) ∧ s'.crews = s.crews ∧ s'.mem = s.mem := by
  have any : s.span.noRoute.any (fun p => p.1 == m && decide (2 ^ 24 ≤ p.2)) = true :=
    List.any_eq_true.2 ⟨_, waits, by rw [Bool.and_eq_true, beq_iff_eq, decide_eq_true_eq]; exact ⟨rfl, old⟩⟩
  have runs := exec_memberLost s m
  rw [on, any, if_neg (by decide)] at runs
  obtain ⟨es, events, length, kind⟩ := raise_raised (s.withoutMember m) 0 m 0 0 (kind := 0x0C) (by decide)
  obtain ⟨a, rfl⟩ := List.length_eq_one_iff.1 length
  have kindA := kind a (List.mem_singleton.2 rfl)
  obtain ⟨k, shards, e, n, form, suspended, ended, quiet, abandoned⟩ := cometAbandon_spec ((s.withoutMember m).raise 0x0C 0 m 0 0) 2
  rw [form] at runs
  have gone := withoutMember_gone s m
  refine ⟨_, runs, ⟨gone.lost, gone.routes, gone.slices, gone.treqs, gone.commands⟩, fun idle => ⟨[a], (quiet idle).trans events, rfl, kind⟩, suspended, ended, fun capturing => ?_, rfl, rfl⟩
  obtain ⟨b, last, kindB⟩ := abandoned capturing
  exact ⟨a, b, last.trans (by rw [events, List.append_assoc]; rfl), kindA, kindB⟩

theorem memberLost_early {s : State} {m : ℕ} (early : ∀ x, x ∈ s.span.noRoute → x.1 ≠ m ∨ x.2 < 2 ^ 24) : exec (.memberLost m) s = .next s := by
  have none_ : s.span.noRoute.any (fun p => p.1 == m && decide (2 ^ 24 ≤ p.2)) = false := by
    refine List.any_eq_false.2 fun x hx => ?_
    rw [Bool.and_eq_true, beq_iff_eq, decide_eq_true_eq]
    rintro ⟨is, old⟩
    exact (early x hx).elim (absurd is) (not_lt.2 old)
  rw [exec_memberLost, none_]
  exact congrArg Host.Outcome.next (if_pos (by simp))

/-- Settles O58. -/
theorem spanMessages : Obligations.SpanMessages := by
  unfold Obligations.SpanMessages
  intro s
  refine ⟨fun f q hp hq st on good next => ⟨exec_xredContribution_idle hp hq st on good next, ?_, fun asks => ?_, exec_cometShard_part hp hq st on good next⟩,
    fun m => ⟨fun on other held reached => ?_, exec_routeLost_stranger, ?_, memberLost_early, fun age on waits old => ?_⟩⟩
  · obtain ⟨s', runs, crews, mem, length, none_, value⟩ := exec_xredResult_next hp hq st on good next
    refine ⟨s', runs, crews, mem, length, none_, fun some_ i m hm => (value some_ i m hm).trans (congrArg some (if_congr (m.takesRoot_iff _ _) rfl rfl))⟩
  · obtain ⟨s', runs, sends, lacks, has⟩ := exec_cometShard_asked hp hq st on good next asks
    have flit {a : Flit} {valid : Bool} (h : ShardFlit a f.src.toNat (BitVec.ofNat 32 (payAt f.payload 0 4)) (payAt f.payload 7 1) (s.recordState (BitVec.ofNat 32 (payAt f.payload 0 4))) valid) :
        a.kind = 0x40#8 ∧ a.dst = f.src ∧ payAt a.payload 0 4 = payAt f.payload 0 4 ∧ payAt a.payload 4 1 = payAt f.payload 7 1 ∧ payAt a.payload 7 1 = s.recordState (BitVec.ofNat 32 (payAt f.payload 0 4)) :=
      ⟨h.flit, h.dst.trans (BitVec.ofNat_toNat _ _ |>.trans (BitVec.setWidth_eq _)), h.step.trans ((BitVec.toNat_ofNat _ _).trans (Nat.mod_eq_of_lt (payAt_lt f.payload 0 4))),
        h.kind.trans (Nat.mod_eq_of_lt (payAt_lt f.payload 7 1)), h.record.trans (Nat.mod_eq_of_lt (lt_of_le_of_lt (recordState_le s _) (by decide)))⟩
    have kept : s'.crews = s.crews ∧ s'.mem = s.mem ∧ s'.comet = s.comet ∧ s'.shards = s.shards := by
      obtain ⟨o, p, pf, rfl⟩ := sends
      exact ⟨rfl, rfl, rfl, rfl⟩
    obtain ⟨crews, mem, comet, shards⟩ := kept
    refine ⟨s', runs, crews, mem, comet, shards, fun h => (lacks h).1, fun h => (has h).1, fun a last => ?_⟩
    by_cases h : 2 < payAt f.payload 7 1 ∨ s.intactUnit (BitVec.ofNat 32 (payAt f.payload 0 4)) (s.comet.shardUnit (payAt f.payload 7 1) (payAt f.payload 8 8)) = none
    · have shard := (lacks h).2 a last
      obtain ⟨kind, dst, step, k, record⟩ := flit shard
      exact ⟨kind, dst, step, k, record, fun _ => shard.valid, fun h' => absurd h h'⟩
    · have shard := (has h).2 a last
      obtain ⟨kind, dst, step, k, record⟩ := flit shard
      exact ⟨kind, dst, step, k, record, fun h' => absurd h' h, fun _ => shard.valid⟩
  · exact ⟨_, exec_routeLost on other held reached, rfl, raise_raised { s with span := { s.span with noRoute := s.span.noRoute ++ [(m, 0)] } } 0 m 0 m (kind := 9) (by decide), rfl, rfl, rfl⟩
  · exact ⟨_, rfl, fun x => List.mem_filter.trans (and_congr_right fun _ => bne_iff_ne), rfl, rfl⟩
  · obtain ⟨s', runs, gone, event, suspended, ended, events, crews, mem⟩ := memberLost_spec on waits old
    exact ⟨s', runs, gone.lost, gone.routes, event, suspended, ended, events, gone.slices, gone.treqs, gone.commands, crews, mem⟩

end Sys2Proof.Machine

/-! ## The Tether directory and the slices (14 R314 to R316; 17 R344; 21 R418) -/

namespace Sys2Proof.Machine

/-! ### The home's copy of a line and the slices' -/

theorem homeLine_line (s : State) (line : ℕ) : (s.homeLine line).line = line := by
  unfold State.homeLine
  cases found : s.home.find? (fun h => h.line == line) with
  | none => rfl
  | some h => exact beq_iff_eq.1 (List.find?_some (p := fun h : HomeLine => h.line == line) found)

theorem homeLine_eta (s : State) (line : ℕ) : s.homeLine line = ⟨line, (s.homeLine line).dir, (s.homeLine line).value⟩ := by
  have name := homeLine_line s line
  cases h : s.homeLine line
  rw [h] at name
  cases name
  rfl

theorem find?_filter_none {α : Type} {p : α → Bool} (l : List α) : (l.filter (fun x => !p x)).find? p = none :=
  List.find?_eq_none.2 fun x hx => by
    have := (List.mem_filter.1 hx).2
    rw [Bool.not_eq_true'] at this
    rw [this]
    exact Bool.false_ne_true

/-- A line at home is what was put there, also where it was cleared. -/
theorem homeLine_putHome (s : State) (h : HomeLine) : (s.putHome h).homeLine h.line = h := by
  unfold State.putHome State.homeLine
  dsimp only
  split
  · next cleared =>
    obtain ⟨dir, value⟩ := cleared
    rw [show s.home.filter (fun x => x.line != h.line) = s.home.filter (fun x => !(x.line == h.line)) from rfl, find?_filter_none]
    cases h
    cases dir
    cases value
    rfl
  · rw [find?_upsert (p := fun x : HomeLine => x.line == h.line) (beq_self_eq_true h.line)]
    rfl

theorem sliceCopy_dropSlice (s : State) (gang line : ℕ) : (s.dropSlice gang line).sliceCopy gang line = none := find?_filter_none _

/-! ### Requests that a slice of this package waits for -/

section
variable {s : State} {q : TReq} {line gang : ℕ} {tag : BitVec 32} (one : s.treqs = [q]) (itsTag : q.tag = tag) (itsGang : q.gang = gang) (itsLine : q.line = line) (waiting : q.st = .waiting)
include one itsTag itsGang itsLine waiting

theorem takeAnswer_finds : s.treqs.find? (fun q => q.tag == tag && q.gang == gang && q.line == line && q.st == .waiting) = some q := by
  rw [one]
  exact List.find?_cons_of_pos (by simp [itsTag, itsGang, itsLine, waiting])

omit itsGang itsLine waiting in
theorem treqs_marked (st : TReqState) : s.treqs.map (fun (x : TReq) => if x.tag == tag then { x with st := st } else x) = [{ q with st := st }] := by
  rw [one, List.map_cons, List.map_nil, itsTag, if_pos (beq_self_eq_true tag)]

theorem takeAnswer_refused : s.takeAnswer line gang tag .refused = { s with treqs := [{ q with st := .refused }] } := by
  unfold State.takeAnswer
  rw [takeAnswer_finds one itsTag itsGang itsLine waiting]
  refine Eq.trans ?_ (congrArg (fun l => { s with treqs := l }) (treqs_marked one itsTag .refused))
  cases q.kind <;> rfl

theorem takeAnswer_copy {st : Mesi} {d : BitVec 512} (kind : q.kind = .read ∨ q.kind = .own ∧ st = .m) :
    s.takeAnswer line gang tag (.copy st d) = { s.putSlice ⟨gang, line, st, d⟩ with treqs := [{ q with st := .granted }] } := by
  unfold State.takeAnswer
  rw [takeAnswer_finds one itsTag itsGang itsLine waiting]
  refine Eq.trans ?_ (congrArg (fun l => { s.putSlice ⟨gang, line, st, d⟩ with treqs := l }) (treqs_marked one itsTag .granted))
  obtain kind | ⟨kind, rfl⟩ := kind <;> dsimp only <;> rw [kind] <;> rfl

theorem takeAnswer_old {v : Word} (kind : q.kind = .claim ∨ ∃ off width op x y, q.kind = .atomic off width op x y) :
    s.takeAnswer line gang tag (.old v) = { s with treqs := [{ q with st := .answered v }] } := by
  unfold State.takeAnswer
  rw [takeAnswer_finds one itsTag itsGang itsLine waiting]
  refine Eq.trans ?_ (congrArg (fun l => { s with treqs := l }) (treqs_marked one itsTag (.answered v)))
  obtain kind | ⟨off, width, op, x, y, kind⟩ := kind <;> dsimp only <;> rw [kind]

end

theorem takeAnswer_none {s : State} (none_ : s.treqs = []) (line gang : ℕ) (tag : BitVec 32) (a : TAnswer) : s.takeAnswer line gang tag a = s := by
  unfold State.takeAnswer
  rw [none_]
  rfl

theorem answerSlice_mine {s : State} {gang : ℕ} (hg : gang < 48) (line : ℕ) (tag : BitVec 32) (a : TAnswer) :
    s.answerSlice line (64 * s.span.index.toNat + gang) tag a = s.takeAnswer line gang tag a := by
  rw [State.answerSlice, if_pos (show s.mySlice _ = true from beq_iff_eq.2 (by omega)), show (64 * s.span.index.toNat + gang) % 64 = gang by omega]

theorem answerSlice_nobody {s : State} {slice : ℕ} (mine : slice / 64 = s.span.index.toNat) (none_ : s.treqs = []) (line : ℕ) (tag : BitVec 32) (a : TAnswer) : s.answerSlice line slice tag a = s := by
  rw [State.answerSlice, if_pos (show s.mySlice _ = true from beq_iff_eq.2 mine), takeAnswer_none none_]

/-! ### What an answer changes -/

/-- Nothing but slices, requests and what is sent changes. -/
def State.onlyReplies (s s' : State) : Prop := ∃ slices treqs o p f, s' = { s with slices := slices, treqs := treqs, outbox := o, ports := p, perf := f }

theorem State.onlySends.onlyReplies {s s' : State} (sends : s.onlySends s') : s.onlyReplies s' := by
  obtain ⟨o, p, f, rfl⟩ := sends
  exact ⟨s.slices, s.treqs, o, p, f, rfl⟩

theorem takeAnswer_replies (s : State) (line gang : ℕ) (tag : BitVec 32) (a : TAnswer) : s.onlyReplies (s.takeAnswer line gang tag a) := by
  unfold State.takeAnswer
  split
  · exact ⟨s.slices, s.treqs, s.outbox, s.ports, s.perf, rfl⟩
  · dsimp only
    split <;> exact ⟨_, _, s.outbox, s.ports, s.perf, rfl⟩

theorem State.onlySends_sendData (s : State) (kind dst : ℕ) (tag : BitVec 32) (head : List Byte) (data : Option (BitVec 512)) : s.onlySends (s.sendData kind dst tag head data) := by
  unfold State.sendData
  split
  · exact s.onlySends_send _ _ _ _
  · exact (s.onlySends_send _ _ _ _).trans (State.onlySends_send _ _ _ _ _)

theorem answerSlice_replies (s : State) (line slice : ℕ) (tag : BitVec 32) (a : TAnswer) : s.onlyReplies (s.answerSlice line slice tag a) := by
  unfold State.answerSlice
  split
  · exact takeAnswer_replies s line _ tag a
  · exact (s.onlySends_sendData _ _ _ _ _).onlyReplies

theorem sendSnoop_sends (s : State) (line slice : ℕ) (inval : Bool) : s.onlySends (s.sendSnoop line slice inval) := by
  unfold State.sendSnoop
  split
  · exact .refl s
  · exact s.onlySends_send _ _ _ _

/-- A line is owner-lost, with event 0x08, and a revoke to its owner. -/
theorem loseOwner_spec (s : State) (line owner : ℕ) : ∃ e n o p f, s.loseOwner line owner = { s.putHome { s.homeLine line with dir := .ownerLost owner } with events := e, evSeq := n, outbox := o, ports := p, perf := f } ∧
    raised s (s.loseOwner line owner) 8 1 := by
  have event : raised s ((s.putHome { s.homeLine line with dir := .ownerLost owner }).raise 8 0 (owner / 64) (s.span.base + 64 * line) (owner / 64)) 8 1 :=
    raise_raised (s.putHome { s.homeLine line with dir := .ownerLost owner }) 0 (owner / 64) (s.span.base + 64 * line) (owner / 64) (kind := 8) (by decide)
  unfold State.loseOwner
  dsimp only
  split
  · exact ⟨_, _, _, _, _, rfl, event⟩
  · obtain ⟨o, p, f, sent⟩ := State.onlySends_send ((s.putHome { s.homeLine line with dir := .ownerLost owner }).raise 8 0 (owner / 64) (s.span.base + 64 * line) (owner / 64)) 0x31 (owner / 64) 0#32
      (leBytes 8 line ++ leBytes 1 (owner % 64) ++ leBytes 1 2)
    rw [sent]
    exact ⟨_, _, _, _, _, rfl, event⟩

/-! ### A request at the directory -/

section
variable {s : State} {w : HomeWait} (here : s.homedHere w.line = true) (fresh : w.begun = false)

include fresh in
theorem pumpLine_first (fuel : ℕ) (one : s.homeWaits = [w]) {s1 : State} (done : s.beginRequest w = (s1, none)) : s.pumpLine w.line (fuel + 1) = { s1 with homeWaits := [] } := by
  have found : s.homeWaits.find? (fun x => x.line == w.line) = some w := by rw [one]; exact List.find?_cons_of_pos (beq_self_eq_true w.line)
  have others : s.homeWaits.filter (fun x => !(x.slice == w.slice && x.tag == w.tag)) = [] := by
    rw [one]
    exact List.filter_cons_of_neg (by simp)
  rw [State.pumpLine, found]
  dsimp only
  rw [fresh, if_neg Bool.false_ne_true, done, others]
  cases fuel <;> rfl

include fresh in
theorem pumpLine_waits (fuel : ℕ) (one : s.homeWaits = [w]) {s1 : State} {w1 : HomeWait} (begins : s.beginRequest w = (s1, some w1)) (kept : s1.homeWaits = [w]) :
    s.pumpLine w.line (fuel + 1) = { s1 with homeWaits := [w1] } := by
  have found : s.homeWaits.find? (fun x => x.line == w.line) = some w := by rw [one]; exact List.find?_cons_of_pos (beq_self_eq_true w.line)
  rw [State.pumpLine, found]
  dsimp only
  rw [fresh, if_neg Bool.false_ne_true, begins]
  dsimp only
  rw [kept]
  simp

include here in
theorem enterRequest_first (idle : s.homeWaits = []) : s.enterRequest w = { s with homeWaits := [w] }.pumpLine w.line 2 := by
  rw [State.enterRequest, here, idle]
  rfl

/-- The last waiting request of the package is over. -/
theorem endRequest_last {w : HomeWait} (one : s.homeWaits = [w]) : s.endRequest w = { s with homeWaits := [] } := by
  have others : s.homeWaits.filter (fun x => !(x.slice == w.slice && x.tag == w.tag)) = [] := by
    rw [one]
    exact List.filter_cons_of_neg (by simp)
  rw [State.endRequest, others]
  rfl

end

/-! What the directory does with a request, by the line's state. -/

section
variable {s : State} {w : HomeWait}

theorem beginRequest_lost {o : ℕ} (dir : (s.homeLine w.line).dir = .ownerLost o) : s.beginRequest w =
    if w.kind = .claim then ((s.putHome { s.homeLine w.line with dir := .uncached }).answerSlice w.line w.slice w.tag (.old 1#64), none)
    else (s.answerSlice w.line w.slice w.tag .refused, none) := by
  unfold State.beginRequest
  dsimp only
  rw [dir]

/-- With no slice to snoop the request takes its effect at once. -/
theorem beginRequest_alone (kept : ∀ o, (s.homeLine w.line).dir ≠ .ownerLost o) (alone : snoopList (s.homeLine w.line).dir w.kind w.slice = []) : s.beginRequest w = (s.finishRequest w, none) := by
  unfold State.beginRequest
  dsimp only
  split
  · next o dir => exact absurd dir (kept o)
  · rw [alone]
    cases (s.homeLine w.line).dir <;> rfl

/-- The slices that hold the line are snooped first, where none is known to be lost. -/
theorem beginRequest_snoops (kept : ∀ o, (s.homeLine w.line).dir ≠ .ownerLost o) (some_ : snoopList (s.homeLine w.line).dir w.kind w.slice ≠ [])
    (reached : ∀ o, o ∈ snoopList (s.homeLine w.line).dir w.kind w.slice → s.span.lost.contains (o / 64) = false) :
    s.beginRequest w = ((snoopList (s.homeLine w.line).dir w.kind w.slice).foldl (fun s o => s.sendSnoop w.line o w.kind.invalidates) s,
      some { w with begun := true, snooped := snoopList (s.homeLine w.line).dir w.kind w.slice, age := 0 }) := by
  have none_ : (snoopList (s.homeLine w.line).dir w.kind w.slice).find? (fun o => s.span.lost.contains (o / 64)) = none :=
    List.find?_eq_none.2 fun o ho => by rw [reached o ho]; exact Bool.false_ne_true
  unfold State.beginRequest
  dsimp only
  split
  · next o dir => exact absurd dir (kept o)
  · rw [none_]
    generalize snoopList (s.homeLine w.line).dir w.kind w.slice = l at some_ ⊢
    cases (s.homeLine w.line).dir <;> exact if_neg (by rw [List.isEmpty_iff]; exact some_)

end

/-- A request of a team of this package at its own home. -/
theorem homeRequest_mine {s : State} {q : TReq} {line gang : ℕ} {tag : BitVec 32} {kind : TReqKind} (hg : gang < 48) (one : s.treqs = [q]) (itsTag : q.tag = tag) (itsGang : q.gang = gang) (itsLine : q.line = line)
    (waiting : q.st = .waiting) (itsKind : q.kind = kind) (link : Link) :
    s.homeRequest line s.span.index.toNat gang tag kind link = s.enterRequest { line := line, slice := 64 * s.span.index.toNat + gang, tag := tag, kind := kind, snooped := [] } := by
  have found : s.treqs.any (fun q => q.tag == tag && q.gang == gang && q.line == line && q.kind == kind && q.st == .waiting) = true := by
    rw [one]
    simp [itsTag, itsGang, itsLine, waiting, itsKind]
  rw [State.homeRequest, if_neg (by omega), if_pos rfl, found]
  rfl

/-! ### Requests of this package at its own home -/

theorem homeLine_with_dir (s : State) (line : ℕ) (dir : DirState) : { s.homeLine line with dir := dir } = (⟨line, dir, (s.homeLine line).value⟩ : HomeLine) :=
  congrArg (fun l => (⟨l, dir, (s.homeLine line).value⟩ : HomeLine)) (homeLine_line s line)

theorem homeLine_with (s : State) (line : ℕ) (dir : DirState) (v : BitVec 512) : { s.homeLine line with dir := dir, value := v } = (⟨line, dir, v⟩ : HomeLine) :=
  congrArg (fun l => (⟨l, dir, v⟩ : HomeLine)) (homeLine_line s line)

theorem putHome_homeLine (s : State) (line : ℕ) (dir : DirState) (v : BitVec 512) : (s.putHome ⟨line, dir, v⟩).homeLine line = ⟨line, dir, v⟩ := homeLine_putHome s ⟨line, dir, v⟩

/-- The request as the directory keeps it. -/
def TReq.waitAt (q : TReq) (me : ℕ) : HomeWait := { line := q.line, slice := 64 * me + q.gang, tag := q.tag, kind := q.kind, snooped := [] }

/-- A team's request waits for its answer, and no other request of the package does. -/
structure State.awaits (s : State) (q : TReq) : Prop where
  gang : q.gang < 48
  home : s.homedHere q.line = true
  idle : s.homeWaits = []
  one : s.treqs = [q]
  waiting : q.st = .waiting

section
variable {s : State} {q : TReq} (a : s.awaits q)
include a

theorem request_answered {s1 : State} (done : ({ s with homeWaits := [q.waitAt s.span.index.toNat] } : State).beginRequest (q.waitAt s.span.index.toNat) = (s1, none)) (link : Link) :
    s.homeRequest q.line s.span.index.toNat q.gang q.tag q.kind link = { s1 with homeWaits := [] } := by
  rw [homeRequest_mine a.gang a.one rfl rfl rfl a.waiting rfl]
  exact (enterRequest_first (w := q.waitAt s.span.index.toNat) a.home a.idle).trans (pumpLine_first (w := q.waitAt s.span.index.toNat) rfl 1 rfl done)

theorem request_waits {s1 : State} {w1 : HomeWait} (begins : ({ s with homeWaits := [q.waitAt s.span.index.toNat] } : State).beginRequest (q.waitAt s.span.index.toNat) = (s1, some w1))
    (kept : s1.homeWaits = [q.waitAt s.span.index.toNat]) (link : Link) :
    s.homeRequest q.line s.span.index.toNat q.gang q.tag q.kind link = { s1 with homeWaits := [w1] } := by
  rw [homeRequest_mine a.gang a.one rfl rfl rfl a.waiting rfl]
  exact (enterRequest_first (w := q.waitAt s.span.index.toNat) a.home a.idle).trans (pumpLine_waits (w := q.waitAt s.span.index.toNat) rfl 1 rfl begins kept)

/-! The answers that the request takes, in a state of this package where it still waits. -/

section
variable {u : State} (span : u.span = s.span) (one : u.treqs = [q])
include span one

theorem reply_refused : u.answerSlice q.line (64 * s.span.index.toNat + q.gang) q.tag .refused = { u with treqs := [{ q with st := .refused }] } := by
  rw [← span, answerSlice_mine a.gang, takeAnswer_refused one rfl rfl rfl a.waiting]
theorem reply_copy {st : Mesi} {d : BitVec 512} (kind : q.kind = .read ∨ q.kind = .own ∧ st = .m) :
    u.answerSlice q.line (64 * s.span.index.toNat + q.gang) q.tag (.copy st d) = { u.putSlice ⟨q.gang, q.line, st, d⟩ with treqs := [{ q with st := .granted }] } := by
  rw [← span, answerSlice_mine a.gang, takeAnswer_copy one rfl rfl rfl a.waiting kind]
theorem reply_old {v : Word} (kind : q.kind = .claim ∨ ∃ off width op x y, q.kind = .atomic off width op x y) :
    u.answerSlice q.line (64 * s.span.index.toNat + q.gang) q.tag (.old v) = { u with treqs := [{ q with st := .answered v }] } := by
  rw [← span, answerSlice_mine a.gang, takeAnswer_old one rfl rfl rfl a.waiting kind]

end

section
variable {i : Instr} {link : Link} (runs : exec i s = .next (s.homeRequest q.line s.span.index.toNat q.gang q.tag q.kind link))
include runs

theorem gets_of {st : Mesi} {dir : DirState} (kind : q.kind = .read ∨ q.kind = .own ∧ st = .m)
    (done : ({ s with homeWaits := [q.waitAt s.span.index.toNat] } : State).beginRequest (q.waitAt s.span.index.toNat) =
      ((({ s with homeWaits := [q.waitAt s.span.index.toNat] } : State).putHome { s.homeLine q.line with dir := dir }).answerSlice q.line (64 * s.span.index.toNat + q.gang) q.tag (.copy st (s.homeLine q.line).value), none)) :
    ∃ s', exec i s = .next s' ∧ s'.treqs = [{ q with st := .granted }] ∧ s'.sliceCopy q.gang q.line = some ⟨q.gang, q.line, st, (s.homeLine q.line).value⟩ ∧
      s'.homeLine q.line = ⟨q.line, dir, (s.homeLine q.line).value⟩ ∧ s'.homeWaits = [] ∧ s'.crews = s.crews ∧ s'.mem = s.mem := by
  rw [homeLine_with_dir, reply_copy a (u := ({ s with homeWaits := [q.waitAt s.span.index.toNat] } : State).putHome ⟨q.line, dir, (s.homeLine q.line).value⟩) rfl a.one kind] at done
  refine ⟨_, runs.trans (congrArg Host.Outcome.next (request_answered a done link)), rfl, sliceCopy_putSlice _ ⟨rfl, rfl⟩, ?_, rfl, rfl, rfl⟩
  exact putHome_homeLine { s with homeWaits := [q.waitAt s.span.index.toNat] } q.line dir _

theorem refuses_of (done : ({ s with homeWaits := [q.waitAt s.span.index.toNat] } : State).beginRequest (q.waitAt s.span.index.toNat) =
      (({ s with homeWaits := [q.waitAt s.span.index.toNat] } : State).answerSlice q.line (64 * s.span.index.toNat + q.gang) q.tag .refused, none)) :
    ∃ s', exec i s = .next s' ∧ s'.treqs = [{ q with st := .refused }] ∧ s'.home = s.home ∧ s'.slices = s.slices ∧ s'.homeWaits = [] ∧ s'.crews = s.crews ∧ s'.mem = s.mem := by
  rw [reply_refused a (u := { s with homeWaits := [q.waitAt s.span.index.toNat] }) rfl a.one] at done
  exact ⟨_, runs.trans (congrArg Host.Outcome.next (request_answered a done link)), rfl, rfl, rfl, rfl, rfl, rfl⟩

theorem answersOld_of {u : State} {old : Word} {dir : DirState} {v : BitVec 512} (kind : q.kind = .claim ∨ ∃ off width op x y, q.kind = .atomic off width op x y)
    (keeps : ∃ home, u = { s with home := home, homeWaits := [q.waitAt s.span.index.toNat] }) (home : u.homeLine q.line = ⟨q.line, dir, v⟩)
    (done : ({ s with homeWaits := [q.waitAt s.span.index.toNat] } : State).beginRequest (q.waitAt s.span.index.toNat) = (u.answerSlice q.line (64 * s.span.index.toNat + q.gang) q.tag (.old old), none)) :
    ∃ s', exec i s = .next s' ∧ s'.treqs = [{ q with st := .answered old }] ∧ s'.homeLine q.line = ⟨q.line, dir, v⟩ ∧ s'.slices = s.slices ∧ s'.homeWaits = [] ∧ s'.crews = s.crews ∧ s'.mem = s.mem := by
  obtain ⟨lines, rfl⟩ := keeps
  rw [reply_old a (u := { s with home := lines, homeWaits := [q.waitAt s.span.index.toNat] }) rfl a.one kind] at done
  exact ⟨_, runs.trans (congrArg Host.Outcome.next (request_answered a done link)), rfl, home, rfl, rfl, rfl, rfl⟩

theorem waits_of {l : List ℕ} (kept : ∀ o, (s.homeLine q.line).dir ≠ .ownerLost o) (list : snoopList (s.homeLine q.line).dir q.kind (64 * s.span.index.toNat + q.gang) = l) (some_ : l ≠ [])
    (reached : ∀ o, o ∈ l → s.span.lost.contains (o / 64) = false) :
    ∃ s' w, exec i s = .next s' ∧ s'.homeWaits = [w] ∧ w.line = q.line ∧ w.slice = 64 * s.span.index.toNat + q.gang ∧ w.begun = true ∧ w.snooped = l ∧ w.age = 0 ∧ s'.treqs = [q] ∧ s'.home = s.home ∧
      s'.crews = s.crews ∧ s'.mem = s.mem := by
  subst list
  have begins := beginRequest_snoops (s := { s with homeWaits := [q.waitAt s.span.index.toNat] }) (w := q.waitAt s.span.index.toNat) kept some_ reached
  obtain ⟨o, p, f, sent⟩ := State.onlySends_foldl (fun u o => sendSnoop_sends u (q.waitAt s.span.index.toNat).line o (q.waitAt s.span.index.toNat).kind.invalidates)
    (snoopList (({ s with homeWaits := [q.waitAt s.span.index.toNat] } : State).homeLine (q.waitAt s.span.index.toNat).line).dir (q.waitAt s.span.index.toNat).kind (q.waitAt s.span.index.toNat).slice)
    { s with homeWaits := [q.waitAt s.span.index.toNat] }
  rw [sent] at begins
  exact ⟨_, _, runs.trans (congrArg Host.Outcome.next (request_waits a begins rfl link)), rfl, rfl, rfl, rfl, rfl, rfl, a.one, rfl, rfl, rfl⟩

end

/-! The requests by kind and directory state. -/

omit a in
theorem exec_readRequest (on : s.fabricOn = true) (kind : q.kind = .read) (link : Link) :
    exec (.tetherReadRequest q.line s.span.index.toNat q.gang q.tag link) s = .next (s.homeRequest q.line s.span.index.toNat q.gang q.tag q.kind link) := by
  rw [kind]
  exact (show exec (.tetherReadRequest q.line s.span.index.toNat q.gang q.tag link) s = execTetherReadRequest q.line s.span.index.toNat q.gang q.tag link s from rfl).trans (congrArg Host.Outcome.next (if_pos on))

omit a in
theorem exec_ownershipRequest (on : s.fabricOn = true) (kind : q.kind = .own) (link : Link) :
    exec (.tetherOwnershipRequest q.line s.span.index.toNat q.gang q.tag link) s = .next (s.homeRequest q.line s.span.index.toNat q.gang q.tag q.kind link) := by
  rw [kind]
  exact (show exec (.tetherOwnershipRequest q.line s.span.index.toNat q.gang q.tag link) s = execTetherOwnershipRequest q.line s.span.index.toNat q.gang q.tag link s from rfl).trans
    (congrArg Host.Outcome.next (if_pos on))

omit a in
theorem exec_atomicRequest (on : s.fabricOn = true) {off : BitVec 6} {z : ScalarSize} {op : AtomOp} {x y : Word} {b : Bool} (kind : q.kind = if b then .claim else .atomic off.toNat (8 * sizeBytes z) op x y)
    (aligned : off.toNat % sizeBytes z = 0) (link : Link) :
    exec (.tetherAtomicRequest q.line s.span.index.toNat q.gang q.tag off z op x y b link) s = .next (s.homeRequest q.line s.span.index.toNat q.gang q.tag q.kind link) := by
  rw [kind]
  exact (show exec (.tetherAtomicRequest q.line s.span.index.toNat q.gang q.tag off z op x y b link) s = execTetherAtomicRequest q.line s.span.index.toNat q.gang q.tag off z op x y b link s from rfl).trans
    (congrArg Host.Outcome.next (if_pos (by rw [on, aligned]; simp)))

omit a in
theorem finish_read {s : State} {w : HomeWait} (kind : w.kind = .read) :
    ((s.homeLine w.line).dir = .uncached → s.finishRequest w = (s.putHome { s.homeLine w.line with dir := .exclusive w.slice }).answerSlice w.line w.slice w.tag (.copy .e (s.homeLine w.line).value)) ∧
    (∀ l, (s.homeLine w.line).dir = .shared l → s.finishRequest w = (s.putHome { s.homeLine w.line with dir := .shared (natInsert w.slice l) }).answerSlice w.line w.slice w.tag (.copy .s (s.homeLine w.line).value)) ∧
    (∀ o, (s.homeLine w.line).dir = .exclusive o → s.finishRequest w = (s.putHome { s.homeLine w.line with dir := .shared (natInsert w.slice [o]) }).answerSlice w.line w.slice w.tag (.copy .s (s.homeLine w.line).value)) := by
  unfold State.finishRequest
  rw [kind]
  refine ⟨fun dir => ?_, fun l dir => ?_, fun o dir => ?_⟩ <;> dsimp only <;> rw [dir]

omit a in
theorem finish_own {s : State} {w : HomeWait} (kind : w.kind = .own) :
    s.finishRequest w = (s.putHome { s.homeLine w.line with dir := .exclusive w.slice }).answerSlice w.line w.slice w.tag (.copy .m (s.homeLine w.line).value) := by
  unfold State.finishRequest
  rw [kind]

omit a in
theorem finish_claim {s : State} {w : HomeWait} (kind : w.kind = .claim) : s.finishRequest w = s.answerSlice w.line w.slice w.tag (.old 0#64) := by
  unfold State.finishRequest
  rw [kind]

omit a in
theorem finish_atomic {s : State} {w : HomeWait} {off width : ℕ} {op : AtomOp} {x y : Word} (kind : w.kind = .atomic off width op x y) :
    s.finishRequest w = (s.putHome ⟨w.line, .uncached, patchLine (s.homeLine w.line).value off (width / 8) (atomNew op width (lineBytes (s.homeLine w.line).value off (width / 8)) x.toNat y.toNat)⟩).answerSlice
      w.line w.slice w.tag (.old (BitVec.ofNat 64 (lineBytes (s.homeLine w.line).value off (width / 8)))) := by
  rw [← homeLine_with]
  unfold State.finishRequest
  rw [kind]

/-- A read request: an uncached line goes out E, a shared one S, an owned one is snooped, an owner-lost one is refused. -/
theorem read_request (on : s.fabricOn = true) (kind : q.kind = .read) (link : Link) :
    ((s.homeLine q.line).dir = .uncached → ∃ s', exec (.tetherReadRequest q.line s.span.index.toNat q.gang q.tag link) s = .next s' ∧ s'.treqs = [{ q with st := .granted }] ∧
      s'.sliceCopy q.gang q.line = some ⟨q.gang, q.line, .e, (s.homeLine q.line).value⟩ ∧ s'.homeLine q.line = ⟨q.line, .exclusive (64 * s.span.index.toNat + q.gang), (s.homeLine q.line).value⟩ ∧ s'.homeWaits = [] ∧ s'.crews = s.crews ∧ s'.mem = s.mem) ∧
    (∀ l, (s.homeLine q.line).dir = .shared l → ∃ s', exec (.tetherReadRequest q.line s.span.index.toNat q.gang q.tag link) s = .next s' ∧ s'.treqs = [{ q with st := .granted }] ∧
      s'.sliceCopy q.gang q.line = some ⟨q.gang, q.line, .s, (s.homeLine q.line).value⟩ ∧ s'.homeLine q.line = ⟨q.line, .shared (natInsert (64 * s.span.index.toNat + q.gang) l), (s.homeLine q.line).value⟩ ∧ s'.homeWaits = [] ∧ s'.crews = s.crews ∧ s'.mem = s.mem) ∧
    (∀ o, (s.homeLine q.line).dir = .exclusive o → s.span.lost.contains (o / 64) = false → ∃ s' w, exec (.tetherReadRequest q.line s.span.index.toNat q.gang q.tag link) s = .next s' ∧ s'.homeWaits = [w] ∧ w.line = q.line ∧
      w.slice = 64 * s.span.index.toNat + q.gang ∧ w.begun = true ∧ w.snooped = [o] ∧ w.age = 0 ∧ s'.treqs = [q] ∧ s'.home = s.home ∧ s'.crews = s.crews ∧ s'.mem = s.mem) ∧
    (∀ o, (s.homeLine q.line).dir = .ownerLost o → ∃ s', exec (.tetherReadRequest q.line s.span.index.toNat q.gang q.tag link) s = .next s' ∧ s'.treqs = [{ q with st := .refused }] ∧ s'.home = s.home ∧ s'.slices = s.slices ∧
      s'.homeWaits = [] ∧ s'.crews = s.crews ∧ s'.mem = s.mem) := by
  have runs := exec_readRequest on kind link
  obtain ⟨uncached, shared, -⟩ := finish_read (s := { s with homeWaits := [q.waitAt s.span.index.toNat] }) (w := q.waitAt s.span.index.toNat) kind
  refine ⟨fun dir => gets_of a runs (.inl kind) ?_, fun l dir => gets_of a runs (.inl kind) ?_, fun o dir reached => waits_of a runs (fun o' h => ?_) ?_ (List.cons_ne_nil _ _) (fun o' ho => ?_), fun o dir => refuses_of a runs ?_⟩
  · rw [beginRequest_alone (fun o h => by cases dir.symm.trans h) (show snoopList (s.homeLine q.line).dir q.kind _ = [] by rw [dir, kind]; rfl), uncached dir]
    rfl
  · rw [beginRequest_alone (fun o h => by cases dir.symm.trans h) (show snoopList (s.homeLine q.line).dir q.kind _ = [] by rw [dir, kind]; rfl), shared l dir]
    rfl
  · cases dir.symm.trans h
  · rw [dir, kind]; rfl
  · rw [List.mem_singleton.1 ho]; exact reached
  · rw [beginRequest_lost dir, if_neg (by rw [show (q.waitAt s.span.index.toNat).kind = .read from kind]; exact fun h => by cases h)]
    rfl

/-- A request for ownership: it is given when no other slice holds the line, and its holders are snooped first. -/
theorem own_request (on : s.fabricOn = true) (kind : q.kind = .own) (link : Link) :
    let i : Instr := .tetherOwnershipRequest q.line s.span.index.toNat q.gang q.tag link
    let slice := 64 * s.span.index.toNat + q.gang
    let gets : Prop := ∃ s', exec i s = .next s' ∧ s'.treqs = [{ q with st := .granted }] ∧ s'.sliceCopy q.gang q.line = some ⟨q.gang, q.line, .m, (s.homeLine q.line).value⟩ ∧
      s'.homeLine q.line = ⟨q.line, .exclusive slice, (s.homeLine q.line).value⟩ ∧ s'.homeWaits = [] ∧ s'.crews = s.crews ∧ s'.mem = s.mem
    let waits (l : List ℕ) : Prop := ∃ s' w, exec i s = .next s' ∧ s'.homeWaits = [w] ∧ w.line = q.line ∧ w.slice = slice ∧ w.begun = true ∧ w.snooped = l ∧ w.age = 0 ∧ s'.treqs = [q] ∧ s'.home = s.home ∧
      s'.crews = s.crews ∧ s'.mem = s.mem
    ((s.homeLine q.line).dir = .uncached → gets) ∧ (∀ l, (s.homeLine q.line).dir = .shared l → l.filter (fun o => o != slice) = [] → gets) ∧
    (∀ l, (s.homeLine q.line).dir = .shared l → l.filter (fun o => o != slice) ≠ [] → (∀ o, o ∈ l → s.span.lost.contains (o / 64) = false) → waits (l.filter (fun o => o != slice))) ∧
    (∀ o, (s.homeLine q.line).dir = .exclusive o → s.span.lost.contains (o / 64) = false → waits [o]) ∧
    (∀ o, (s.homeLine q.line).dir = .ownerLost o → ∃ s', exec i s = .next s' ∧ s'.treqs = [{ q with st := .refused }] ∧ s'.home = s.home ∧ s'.slices = s.slices ∧ s'.homeWaits = [] ∧ s'.crews = s.crews ∧ s'.mem = s.mem) := by
  intro i slice gets waits
  have runs := exec_ownershipRequest on kind link
  have alone (kept : ∀ o, (s.homeLine q.line).dir ≠ .ownerLost o) (none_ : snoopList (s.homeLine q.line).dir .own slice = []) : gets := by
    refine gets_of a runs (.inr ⟨kind, rfl⟩) ?_
    rw [beginRequest_alone kept (show snoopList (s.homeLine q.line).dir q.kind slice = [] by rw [kind]; exact none_), finish_own (show (q.waitAt s.span.index.toNat).kind = .own from kind)]
    rfl
  refine ⟨fun dir => alone (fun o h => by cases dir.symm.trans h) (by rw [dir]; rfl), fun l dir none_ => alone (fun o h => by cases dir.symm.trans h) (by rw [dir]; exact none_),
    fun l dir some_ reached => waits_of a runs (fun o' h => by cases dir.symm.trans h) (by rw [dir, kind]; rfl) some_ fun o ho => reached o (List.mem_of_mem_filter ho),
    fun o dir reached => waits_of a runs (fun o' h => by cases dir.symm.trans h) (by rw [dir, kind]; rfl) (List.cons_ne_nil _ _) fun o' ho => ?_, fun o dir => refuses_of a runs ?_⟩
  · rw [List.mem_singleton.1 ho]; exact reached
  · rw [beginRequest_lost dir, if_neg (by rw [show (q.waitAt s.span.index.toNat).kind = .own from kind]; exact fun h => by cases h)]
    rfl

/-- SATOM's and TCLAIM's requests. -/
theorem atomic_request (on : s.fabricOn = true) {off : BitVec 6} {z : ScalarSize} {op : AtomOp} {x y : Word} {b : Bool} (kind : q.kind = if b then .claim else .atomic off.toNat (8 * sizeBytes z) op x y)
    (aligned : off.toNat % sizeBytes z = 0) (link : Link) :
    let i : Instr := .tetherAtomicRequest q.line s.span.index.toNat q.gang q.tag off z op x y b link
    let h := s.homeLine q.line
    let old := h.value.toNat / 256 ^ off.toNat % 256 ^ sizeBytes z
    let answers (old : Word) (dir : DirState) (v : BitVec 512) : Prop := ∃ s', exec i s = .next s' ∧ s'.treqs = [{ q with st := .answered old }] ∧ s'.homeLine q.line = ⟨q.line, dir, v⟩ ∧
      s'.slices = s.slices ∧ s'.homeWaits = [] ∧ s'.crews = s.crews ∧ s'.mem = s.mem
    (b = false → h.dir = .uncached → answers (BitVec.ofNat 64 old) .uncached (patchLine h.value off.toNat (8 * sizeBytes z / 8) (atomNew op (8 * sizeBytes z) old x.toNat y.toNat))) ∧
    (b = false → ∀ o, h.dir = .ownerLost o → ∃ s', exec i s = .next s' ∧ s'.treqs = [{ q with st := .refused }] ∧ s'.home = s.home ∧ s'.slices = s.slices ∧ s'.homeWaits = [] ∧ s'.crews = s.crews ∧ s'.mem = s.mem) ∧
    (b = false → ∀ o, h.dir = .exclusive o → s.span.lost.contains (o / 64) = false → ∃ s' w, exec i s = .next s' ∧ s'.homeWaits = [w] ∧ w.line = q.line ∧ w.slice = 64 * s.span.index.toNat + q.gang ∧ w.begun = true ∧
      w.snooped = [o] ∧ w.age = 0 ∧ s'.treqs = [q] ∧ s'.home = s.home ∧ s'.crews = s.crews ∧ s'.mem = s.mem) ∧
    (b = true → (∀ o, h.dir = .ownerLost o → answers 1#64 .uncached h.value) ∧ ((∀ o, h.dir ≠ .ownerLost o) → answers 0#64 h.dir h.value)) := by
  intro i h old answers
  have runs := exec_atomicRequest on kind aligned link
  have atomic (no : b = false) : q.kind = .atomic off.toNat (8 * sizeBytes z) op x y := by rw [kind, no]; rfl
  have claim (yes : b = true) : q.kind = .claim := by rw [kind, yes]; rfl
  refine ⟨fun no dir => ?_, fun no o dir => refuses_of a runs ?_, fun no o dir reached => waits_of a runs (fun o' h => by cases dir.symm.trans h) (by rw [show (s.homeLine q.line).dir = _ from dir, atomic no]; rfl) (List.cons_ne_nil _ _) fun o' ho => ?_,
    fun yes => ⟨fun o dir => ?_, fun kept => ?_⟩⟩
  · have width : 8 * sizeBytes z / 8 = sizeBytes z := Nat.mul_div_cancel_left _ (by decide)
    refine answersOld_of a runs (.inr ⟨_, _, _, _, _, atomic no⟩) ⟨_, rfl⟩ (u := State.putHome { s with homeWaits := [q.waitAt s.span.index.toNat] }
      ⟨q.line, .uncached, patchLine h.value off.toNat (8 * sizeBytes z / 8) (atomNew op (8 * sizeBytes z) old x.toNat y.toNat)⟩) (putHome_homeLine _ _ _ _) ?_
    rw [beginRequest_alone (fun o h' => by cases dir.symm.trans h') (show snoopList (s.homeLine q.line).dir q.kind _ = [] by rw [show (s.homeLine q.line).dir = _ from dir, atomic no]; rfl),
      finish_atomic (show (q.waitAt s.span.index.toNat).kind = _ from atomic no), lineBytes, width]
    rfl
  · rw [beginRequest_lost dir, if_neg (by rw [show (q.waitAt s.span.index.toNat).kind = _ from atomic no]; exact fun h => by cases h)]
    rfl
  · rw [List.mem_singleton.1 ho]; exact reached
  · refine answersOld_of a runs (.inl (claim yes)) ⟨_, rfl⟩ (u := State.putHome { s with homeWaits := [q.waitAt s.span.index.toNat] } ⟨q.line, .uncached, h.value⟩) (putHome_homeLine _ _ _ _) ?_
    rw [beginRequest_lost dir, if_pos (show (q.waitAt s.span.index.toNat).kind = .claim from claim yes), homeLine_with_dir]
    rfl
  · refine answersOld_of a runs (.inl (claim yes)) ⟨s.home, rfl⟩ (homeLine_eta _ _) ?_
    rw [beginRequest_alone kept (show snoopList (s.homeLine q.line).dir q.kind _ = [] by rw [claim yes]; rfl), finish_claim (show (q.waitAt s.span.index.toNat).kind = .claim from claim yes)]
    rfl

end

end Sys2Proof.Machine

namespace Sys2Proof.Machine

/-! ### Messages of other packages about a line -/

theorem takeSeq_sends (s : State) (p n : ℕ) : s.onlySends (s.takeSeq p n) := by
  unfold State.takeSeq
  dsimp only
  exact State.onlySends.trans (s1 := s.putPort p { s.portAt p with rxSeq := (s.portAt p).rxSeq + BitVec.ofNat 16 n }) ⟨_, _, _, rfl⟩ (State.onlySends_linkFlit _ _ _ _ _)

/-- A message whose last flit has the number that is due acts, once its flits are acknowledged. -/
theorem inOrder_due {s : State} {link : Link} {q : Port} (on : s.fabricOn = true) (hp : link.port < 24) (hq : s.ports[link.port]? = some q) (st : q.state = 3) {n : ℕ}
    (due : link.seq = q.rxSeq + BitVec.ofNat 16 n - 1#16) : ∃ o p pf, ∀ f : State → State, s.inOrder link n f = f { s with outbox := o, ports := p, perf := pf } := by
  obtain ⟨o, p, pf, taken⟩ := takeSeq_sends s link.port n
  refine ⟨o, p, pf, fun f => ?_⟩
  rw [State.inOrder, (linkUp_iff hp hq).2 ⟨on, st⟩, portAt_of hq, ← taken]
  exact if_pos due

theorem homedHere_iff (s : State) (line : ℕ) : s.homedHere line = true ↔ s.span.joined = true ∧ line / 2 ^ 18 = s.span.index.toNat := by
  rw [State.homedHere, Bool.and_eq_true, beq_iff_eq]
  rfl

/-- The grant of another package's home. -/
theorem grant_spec {s : State} {q : TReq} {pt : Port} {link : Link} (on : s.fabricOn = true) (away : s.homedHere q.line = false) (hp : link.port < 24) (hq : s.ports[link.port]? = some pt) (st : pt.state = 3)
    (one : s.treqs = [q]) (waiting : q.st = .waiting) (excl modified : Bool) (data : BitVec 512) (old : Word) :
    (link.seq = pt.rxSeq → ∃ s', exec (.tetherGrant q.line q.gang q.tag excl modified true data old link) s = .next s' ∧ s'.treqs = [{ q with st := .refused }] ∧ s'.slices = s.slices ∧ s'.crews = s.crews ∧ s'.mem = s.mem) ∧
    (q.kind = .read → link.seq = pt.rxSeq + 1#16 → ∃ s', exec (.tetherGrant q.line q.gang q.tag excl modified false data old link) s = .next s' ∧ s'.treqs = [{ q with st := .granted }] ∧
      s'.sliceCopy q.gang q.line = some ⟨q.gang, q.line, if modified then .m else if excl then .e else .s, data⟩ ∧ s'.crews = s.crews ∧ s'.mem = s.mem) ∧
    (q.kind = .claim → link.seq = pt.rxSeq → ∃ s', exec (.tetherGrant q.line q.gang q.tag excl modified false data old link) s = .next s' ∧ s'.treqs = [{ q with st := .answered old }] ∧ s'.slices = s.slices ∧
      s'.crews = s.crews ∧ s'.mem = s.mem) := by
  have found : s.treqs.find? (fun x => x.tag == q.tag) = some q := by rw [one]; exact List.find?_cons_of_pos (beq_self_eq_true q.tag)
  have plain (n : ℕ) (due : link.seq = pt.rxSeq + BitVec.ofNat 16 n - 1#16) (refused : Bool) (flits : s.grantFlits q.tag refused link = n) :
      ∃ u : State, u.treqs = [q] ∧ u.slices = s.slices ∧ u.crews = s.crews ∧ u.mem = s.mem ∧ exec (.tetherGrant q.line q.gang q.tag excl modified refused data old link) s = .next (u.takeAnswer q.line q.gang q.tag (
        if refused then .refused else if q.kind = .read ∨ q.kind = .own then .copy (if modified then .m else if excl then .e else .s) data else .old old)) := by
    obtain ⟨o, p, pf, acts⟩ := inOrder_due on hp hq st due
    refine ⟨{ s with outbox := o, ports := p, perf := pf }, one, rfl, rfl, rfl, ?_⟩
    rw [show exec (.tetherGrant q.line q.gang q.tag excl modified refused data old link) s = execTetherGrant q.line q.gang q.tag excl modified refused data old link s from rfl, execTetherGrant, flits, acts]
    dsimp only
    rw [show State.homedHere { s with outbox := o, ports := p, perf := pf } q.line = false from away, if_neg Bool.false_ne_true, found]
    dsimp only
    cases refused
    · cases q.kind <;> rfl
    · rfl
  refine ⟨fun due => ?_, fun kind due => ?_, fun kind due => ?_⟩
  · obtain ⟨u, treqs, slices, crews, mem, runs⟩ := plain 1 (by rw [due]; exact (BitVec.add_sub_cancel _ _).symm) true rfl
    rw [if_pos rfl, takeAnswer_refused treqs rfl rfl rfl waiting] at runs
    exact ⟨_, runs, rfl, slices, crews, mem⟩
  · have flits : s.grantFlits q.tag false link = 2 := by
      rw [State.grantFlits, found, if_neg Bool.false_ne_true]
      dsimp only
      rw [kind]
    obtain ⟨u, treqs, slices, crews, mem, runs⟩ := plain 2 (by rw [due]; bv_omega) false flits
    rw [if_neg Bool.false_ne_true, if_pos (.inl kind), takeAnswer_copy treqs rfl rfl rfl waiting (.inl kind)] at runs
    exact ⟨_, runs, rfl, sliceCopy_putSlice _ ⟨rfl, rfl⟩, crews, mem⟩
  · have flits : s.grantFlits q.tag false link = 1 := by
      rw [State.grantFlits, found, if_neg Bool.false_ne_true]
      dsimp only
      rw [kind]
    obtain ⟨u, treqs, slices, crews, mem, runs⟩ := plain 1 (by rw [due]; exact (BitVec.add_sub_cancel _ _).symm) false flits
    rw [if_neg Bool.false_ne_true, if_neg (by rw [kind]; exact fun h => h.elim (fun h => by cases h) fun h => by cases h), takeAnswer_old treqs rfl rfl rfl waiting (.inl kind)] at runs
    exact ⟨_, runs, rfl, slices, crews, mem⟩

/-! ### Snoops, write-backs and replacements -/

theorem homeLine_of_dir {s : State} {line : ℕ} {dir : DirState} (h : (s.homeLine line).dir = dir) : s.homeLine line = ⟨line, dir, (s.homeLine line).value⟩ := by
  rw [← h]
  exact homeLine_eta s line

/-- The owner's line at home with the data that its slice wrote back, if it had any. -/
def State.wroteBack (s : State) (line owner : ℕ) (data : Option (BitVec 512)) : State := data.elim s fun d => s.putHome ⟨line, .exclusive owner, d⟩

theorem wroteBack_line {s : State} {line o : ℕ} (dir : (s.homeLine line).dir = .exclusive o) (data : Option (BitVec 512)) :
    (s.wroteBack line o data).homeLine line = ⟨line, .exclusive o, data.getD (s.homeLine line).value⟩ ∧ ∃ home, s.wroteBack line o data = { s with home := home } := by
  cases data with
  | none => exact ⟨homeLine_of_dir dir, s.home, rfl⟩
  | some d => exact ⟨putHome_homeLine s line _ d, _, rfl⟩

/-- The last answer that a request waits for. -/
theorem homeAnswer_last {s : State} {w : HomeWait} {slice : ℕ} (one : s.homeWaits = [w]) (begun : w.begun = true) (snooped : w.snooped = [slice]) (dir : (s.homeLine w.line).dir = .exclusive slice)
    (data : Option (BitVec 512)) : s.homeAnswer w.line slice data = ((s.wroteBack w.line slice data).finishRequest w).endRequest w := by
  have found (u : State) (h : u.homeWaits = [w]) : u.homeWaits.find? (fun x => x.line == w.line && x.begun && x.snooped.contains slice) = some w := by
    rw [h]
    exact List.find?_cons_of_pos (by simp [begun, snooped])
  have left : (w.snooped.filter (fun o => o != slice)).isEmpty = true := by simp [snooped]
  unfold State.homeAnswer
  rw [homeLine_of_dir dir]
  cases data with
  | none =>
    dsimp only
    rw [found s one]
    exact if_pos left
  | some d =>
    dsimp only
    rw [if_pos rfl, found (s.putHome ⟨w.line, .exclusive slice, d⟩) one]
    exact if_pos left

/-- Data of an owner that no request waits for is written back. -/
theorem homeAnswer_writeBack {s : State} {line slice : ℕ} (idle : s.homeWaits = []) (dir : (s.homeLine line).dir = .exclusive slice) (d : BitVec 512) :
    ∃ home, s.homeAnswer line slice (some d) = { s with home := home } ∧ (s.homeAnswer line slice (some d)).homeLine line = ⟨line, .uncached, d⟩ := by
  have form : s.homeAnswer line slice (some d) = (s.putHome ⟨line, .exclusive slice, d⟩).putHome ⟨line, .uncached, d⟩ := by
    unfold State.homeAnswer
    rw [homeLine_of_dir dir]
    dsimp only
    rw [if_pos rfl, show (s.putHome ⟨line, .exclusive slice, d⟩).homeWaits = [] from idle]
    exact if_pos rfl
  rw [form]
  exact ⟨_, rfl, putHome_homeLine _ _ _ _⟩

/-- Data of an owner that is lost is discarded. -/
theorem homeAnswer_late {s : State} {line slice o : ℕ} (idle : s.homeWaits = []) (dir : (s.homeLine line).dir = .ownerLost o) (data : Option (BitVec 512)) : s.homeAnswer line slice data = s := by
  unfold State.homeAnswer
  dsimp only
  rw [dir]
  dsimp only
  rw [idle]
  rfl

/-- The request that the last answer ends, where its team does not wait any more. -/
theorem homeAnswer_ends {s : State} {w : HomeWait} {slice : ℕ} (one : s.homeWaits = [w]) (begun : w.begun = true) (snooped : w.snooped = [slice]) (dir : (s.homeLine w.line).dir = .exclusive slice)
    (mine : w.slice / 64 = s.span.index.toNat) (nobody : s.treqs = []) (data : Option (BitVec 512)) {d : DirState}
    (kind : w.kind = .read ∧ d = .shared (natInsert w.slice [slice]) ∨ w.kind = .own ∧ d = .exclusive w.slice) :
    ∃ home, s.homeAnswer w.line slice data = { s with home := home, homeWaits := [] } ∧ (s.homeAnswer w.line slice data).homeLine w.line = ⟨w.line, d, data.getD (s.homeLine w.line).value⟩ := by
  obtain ⟨line, home, back⟩ := wroteBack_line dir data
  rw [homeAnswer_last one begun snooped dir, back]
  rw [back] at line
  have line_dir := congrArg HomeLine.dir line
  have value := congrArg HomeLine.value line
  have finish : State.finishRequest { s with home := home } w = State.putHome { s with home := home } ⟨w.line, d, data.getD (s.homeLine w.line).value⟩ := by
    obtain ⟨kind, rfl⟩ | ⟨kind, rfl⟩ := kind
    · rw [(finish_read kind).2.2 slice line_dir, answerSlice_nobody (by exact mine) (by exact nobody), line]
    · rw [finish_own kind, answerSlice_nobody (by exact mine) (by exact nobody), line]
  rw [finish, endRequest_last (by exact one)]
  exact ⟨_, rfl, putHome_homeLine _ _ _ _⟩

/-- A local snoop of a slice that holds the line. -/
theorem exec_tetherSnoop_held {s : State} {w : HomeWait} {gang : ℕ} {x : SliceLine} (on : s.fabricOn = true) (home : s.homedHere w.line = true) (one : s.homeWaits = [w]) (begun : w.begun = true)
    (snooped : w.snooped = [64 * s.span.index.toNat + gang]) (held : s.sliceCopy gang w.line = some x) {inval : Bool} (kind : w.kind.invalidates = inval) (link : Link) :
    exec (.tetherSnoop w.line gang inval link) s = .next ((if inval then s.dropSlice gang w.line else s.putSlice { x with st := .s }).homeAnswer w.line (64 * s.span.index.toNat + gang) (if x.st = .m then some x.value else none)) := by
  have found : s.homeWaits.find? (fun y => y.line == w.line && y.begun && y.snooped.contains (sliceOf s.span.index.toNat gang)) = some w := by
    rw [one]
    exact List.find?_cons_of_pos (by simp [begun, snooped, sliceOf])
  rw [show exec (.tetherSnoop w.line gang inval link) s = execTetherSnoop w.line gang inval link s from rfl, execTetherSnoop, on, if_neg (by decide), if_pos home]
  dsimp only
  rw [found]
  dsimp only
  rw [kind, bne_self_eq_false, if_neg Bool.false_ne_true, State.snoopSlice, held]
  rfl

theorem snoop_spec {s : State} {w : HomeWait} {gang : ℕ} {x : SliceLine} (on : s.fabricOn = true) (home : s.homedHere w.line = true) (one : s.homeWaits = [w]) (begun : w.begun = true)
    (snooped : w.snooped = [64 * s.span.index.toNat + gang]) (dir : (s.homeLine w.line).dir = .exclusive (64 * s.span.index.toNat + gang)) (held : s.sliceCopy gang w.line = some x)
    (mine : w.slice / 64 = s.span.index.toNat) (nobody : s.treqs = []) (link : Link) :
    (w.kind = .read → ∃ s', exec (.tetherSnoop w.line gang false link) s = .next s' ∧ s'.sliceCopy gang w.line = some { x with st := .s } ∧
      s'.homeLine w.line = ⟨w.line, .shared (natInsert w.slice [64 * s.span.index.toNat + gang]), if x.st = .m then x.value else (s.homeLine w.line).value⟩ ∧ s'.homeWaits = [] ∧ s'.crews = s.crews ∧ s'.mem = s.mem) ∧
    (w.kind = .own → ∃ s', exec (.tetherSnoop w.line gang true link) s = .next s' ∧ s'.sliceCopy gang w.line = none ∧
      s'.homeLine w.line = ⟨w.line, .exclusive w.slice, if x.st = .m then x.value else (s.homeLine w.line).value⟩ ∧ s'.homeWaits = [] ∧ s'.crews = s.crews ∧ s'.mem = s.mem) := by
  have data : (if x.st = .m then some x.value else none).getD (s.homeLine w.line).value = if x.st = .m then x.value else (s.homeLine w.line).value := by split <;> rfl
  rw [← data]
  refine ⟨fun kind => ?_, fun kind => ?_⟩
  · have runs := exec_tetherSnoop_held on home one begun snooped held (inval := false) (by rw [kind]; rfl) link
    obtain ⟨lines, form, line⟩ := homeAnswer_ends (s := s.putSlice { x with st := .s }) one begun snooped dir mine nobody (if x.st = .m then some x.value else none) (.inl ⟨kind, rfl⟩)
    rw [if_neg Bool.false_ne_true] at runs
    refine ⟨_, runs, ?_, line, congrArg State.homeWaits form, (congrArg State.crews form :), (congrArg State.mem form :)⟩
    · rw [form]
      have key : x.gang = gang ∧ x.line = w.line := sliceCopy_key held
      exact sliceCopy_putSlice s (x := { x with st := .s }) key
  · have runs := exec_tetherSnoop_held on home one begun snooped held (inval := true) (by rw [kind]; rfl) link
    obtain ⟨lines, form, line⟩ := homeAnswer_ends (s := s.dropSlice gang w.line) one begun snooped dir mine nobody (if x.st = .m then some x.value else none) (.inr ⟨kind, rfl⟩)
    rw [if_pos rfl] at runs
    refine ⟨_, runs, ?_, line, congrArg State.homeWaits form, (congrArg State.crews form :), (congrArg State.mem form :)⟩
    · rw [form]
      exact sliceCopy_dropSlice s gang w.line

theorem writeBack_spec {s : State} {line pkg gang : ℕ} {d : BitVec 512} {pt : Port} {link : Link} (hg : gang < 48) (on : s.fabricOn = true) (home : s.homedHere line = true) (hp : link.port < 24)
    (hq : s.ports[link.port]? = some pt) (st : pt.state = 3) (due : link.seq = pt.rxSeq + 1#16) (other : s.otherMember pkg = true) (idle : s.homeWaits = []) :
    ((s.homeLine line).dir = .exclusive (64 * pkg + gang) → ∃ s', exec (.tetherWriteBack line pkg gang (some d) link) s = .next s' ∧ s'.homeLine line = ⟨line, .uncached, d⟩ ∧ s'.crews = s.crews ∧ s'.mem = s.mem) ∧
    (∀ o, (s.homeLine line).dir = .ownerLost o → ∃ s', exec (.tetherWriteBack line pkg gang (some d) link) s = .next s' ∧ s'.home = s.home ∧ s'.crews = s.crews ∧ s'.mem = s.mem) := by
  obtain ⟨o, p, pf, acts⟩ := inOrder_due (n := 2) on hp hq st (by rw [due]; bv_omega)
  have runs : exec (.tetherWriteBack line pkg gang (some d) link) s = .next (State.homeAnswer { s with outbox := o, ports := p, perf := pf } line (64 * pkg + gang) (some d)) := by
    rw [show exec (.tetherWriteBack line pkg gang (some d) link) s = execTetherWriteBack line pkg gang (some d) link s from rfl, execTetherWriteBack, show dataFlits (some d) = 2 from rfl, acts]
    refine congrArg Host.Outcome.next (if_pos ?_)
    rw [show State.homedHere { s with outbox := o, ports := p, perf := pf } line = true from home, show State.otherMember { s with outbox := o, ports := p, perf := pf } pkg = true from other, decide_eq_true hg]
    rfl
  refine ⟨fun dir => ?_, fun l dir => ?_⟩
  · obtain ⟨lines, form, line⟩ := homeAnswer_writeBack (s := { s with outbox := o, ports := p, perf := pf }) idle dir d
    refine ⟨_, runs, line, ?_, ?_⟩ <;> rw [form]
  · rw [homeAnswer_late (by exact idle) (by exact dir)] at runs
    exact ⟨_, runs, rfl, rfl, rfl⟩

theorem replacement_spec {s : State} {line gang : ℕ} {x : SliceLine} (held : s.sliceCopy gang line = some x) (on : s.fabricOn = true) :
    (x.st ≠ .m → exec (.tetherReplacement line gang) s = .next (s.dropSlice gang line)) ∧
    (x.st = .m → s.homedHere line = true → (s.homeLine line).dir = .exclusive (64 * s.span.index.toNat + gang) → s.homeWaits = [] →
      ∃ s', exec (.tetherReplacement line gang) s = .next s' ∧ s'.sliceCopy gang line = none ∧ s'.homeLine line = ⟨line, .uncached, x.value⟩ ∧ s'.crews = s.crews ∧ s'.mem = s.mem) := by
  rw [show exec (.tetherReplacement line gang) s = execTetherReplacement line gang s from rfl, execTetherReplacement, held]
  dsimp only
  rw [on, if_neg (by decide)]
  refine ⟨fun clean => congrArg Host.Outcome.next (if_pos clean), fun dirty home dir idle => ?_⟩
  rw [if_neg (not_not.2 dirty), if_pos (show (s.dropSlice gang line).homedHere line = true from home)]
  have line_ : (s.dropSlice gang line).homeLine line = ⟨line, .exclusive (64 * s.span.index.toNat + gang), (s.homeLine line).value⟩ := homeLine_of_dir (s := s) dir
  rw [line_]
  refine ⟨_, congrArg Host.Outcome.next ((if_neg fun h => h rfl).trans (if_neg ?_)), sliceCopy_dropSlice s gang line, putHome_homeLine _ _ _ _, rfl, rfl⟩
  rw [show (s.dropSlice gang line).homeWaits = [] from idle]
  exact Bool.false_ne_true

/-! ### Silence (14 R316; 17 R344; 21 R418) -/

theorem snoopLate_one {s : State} {w : HomeWait} (one : s.homeWaits = [w]) (begun : w.begun = true) : s.snoopLate w.line = if 2 ^ 20 ≤ w.age then some w else none := by
  unfold State.snoopLate
  rw [one]
  split
  · next late => exact List.find?_cons_of_pos (by rw [begun, decide_eq_true late]; simp)
  · next early => exact List.find?_cons_of_neg (by rw [decide_eq_false early]; simp)

theorem exec_silence_early {s : State} {w : HomeWait} (one : s.homeWaits = [w]) (begun : w.begun = true) (early : w.age < 2 ^ 20) :
    exec (.tetherSnoopTimeout w.line) s = .next s ∧ exec (.homeGuardExpiry w.line) s = .next s := by
  have none_ : (if s.fabricOn = true then s.snoopLate w.line else none) = none := by
    rw [snoopLate_one one begun, if_neg (not_le.2 early), ite_self]
  exact ⟨by rw [show exec (.tetherSnoopTimeout w.line) s = execTetherSnoopTimeout w.line s from rfl, execTetherSnoopTimeout, none_],
    by rw [show exec (.homeGuardExpiry w.line) s = execHomeGuardExpiry w.line s from rfl, execHomeGuardExpiry, none_]⟩

section
variable {s : State} {w : HomeWait} (on : s.fabricOn = true) (one : s.homeWaits = [w]) (begun : w.begun = true) (late : 2 ^ 20 ≤ w.age)
include on one begun late

theorem exec_homeGuardExpiry_late : exec (.homeGuardExpiry w.line) s = .next (if s.requesterSilent w then (s.silence w).endRequest w else s) := by
  rw [show exec (.homeGuardExpiry w.line) s = execHomeGuardExpiry w.line s from rfl, execHomeGuardExpiry, on, if_pos rfl, snoopLate_one one begun, if_pos late]

theorem exec_snoopTimeout_lost {o : ℕ} (lost : ((s.silence w).homeLine w.line).dir = .ownerLost o) :
    exec (.tetherSnoopTimeout w.line) s = .next (((s.silence w).answerSlice w.line w.slice w.tag .refused).endRequest w) := by
  rw [show exec (.tetherSnoopTimeout w.line) s = execTetherSnoopTimeout w.line s from rfl, execTetherSnoopTimeout, on, if_pos rfl, snoopLate_one one begun, if_pos late]
  dsimp only
  rw [lost]

theorem exec_snoopTimeout_shared {l : List ℕ} (shared : ((s.silence w).homeLine w.line).dir = .shared l) : exec (.tetherSnoopTimeout w.line) s = .next (((s.silence w).finishRequest w).endRequest w) := by
  rw [show exec (.tetherSnoopTimeout w.line) s = execTetherSnoopTimeout w.line s from rfl, execTetherSnoopTimeout, on, if_pos rfl, snoopLate_one one begun, if_pos late]
  dsimp only
  rw [shared]

/-- An owner's silence. -/
theorem silence_owner {o : ℕ} (dir : (s.homeLine w.line).dir = .exclusive o) :
    (∃ s', exec (.tetherSnoopTimeout w.line) s = .next s' ∧ s'.homeLine w.line = ⟨w.line, .ownerLost o, (s.homeLine w.line).value⟩ ∧ s'.homeWaits = [] ∧ raised s s' 8 1 ∧ s'.crews = s.crews ∧ s'.mem = s.mem) ∧
    (s.requesterSilent w = true → ∃ s', exec (.homeGuardExpiry w.line) s = .next s' ∧ s'.homeWaits = [] ∧ s'.homeLine w.line = ⟨w.line, .ownerLost o, (s.homeLine w.line).value⟩ ∧ s'.crews = s.crews ∧ s'.mem = s.mem) ∧
    (s.requesterSilent w = false → exec (.homeGuardExpiry w.line) s = .next s) := by
  have silent : s.silence w = s.loseOwner w.line o := by
    unfold State.silence
    dsimp only
    rw [dir]
  obtain ⟨e, n, ob, p, pf, form, event⟩ := loseOwner_spec s w.line o
  rw [homeLine_with_dir] at form
  have line : (s.silence w).homeLine w.line = ⟨w.line, .ownerLost o, (s.homeLine w.line).value⟩ := by
    rw [silent, form]
    exact putHome_homeLine s w.line (.ownerLost o) (s.homeLine w.line).value
  have guard := exec_homeGuardExpiry_late on one begun late
  refine ⟨?_, fun gone => ?_, fun stays => ?_⟩
  · have runs := exec_snoopTimeout_lost on one begun late (congrArg HomeLine.dir line)
    obtain ⟨slices, treqs, ob', p', pf', replied⟩ := answerSlice_replies (s.silence w) w.line w.slice w.tag .refused
    rw [replied] at runs
    have waits : (s.silence w).homeWaits = [w] := by rw [silent, form]; exact one
    rw [endRequest_last (by exact waits)] at runs
    refine ⟨_, runs, line, rfl, ?_, ?_, ?_⟩
    · rw [← silent] at event; exact event
    · exact (congrArg State.crews (silent.trans form) :)
    · exact (congrArg State.mem (silent.trans form) :)
  · have waits : (s.silence w).homeWaits = [w] := by rw [silent, form]; exact one
    rw [if_pos gone, endRequest_last waits] at guard
    exact ⟨_, guard, rfl, line, (congrArg State.crews (silent.trans form) :), (congrArg State.mem (silent.trans form) :)⟩
  · rwa [stays, if_neg Bool.false_ne_true] at guard

/-- The silence of sharers: their copies count as invalid, and the request goes on. -/
theorem silence_sharers {l : List ℕ} {gang : ℕ} (dir : (s.homeLine w.line).dir = .shared l) (kind : w.kind = .own) (mine : w.slice / 64 = s.span.index.toNat) (nobody : s.treqs = []) :
    ∃ s', exec (.tetherSnoopTimeout w.line) s = .next s' ∧ s'.homeLine w.line = ⟨w.line, .exclusive w.slice, (s.homeLine w.line).value⟩ ∧ s'.homeWaits = [] ∧
      (64 * s.span.index.toNat + gang ∈ w.snooped → s'.sliceCopy gang w.line = none) ∧ (64 * s.span.index.toNat + gang ∉ w.snooped → s'.sliceCopy gang w.line = s.sliceCopy gang w.line) ∧
      s'.events = s.events ∧ s'.crews = s.crews ∧ s'.mem = s.mem := by
  have silent : s.silence w = { s.putHome ⟨w.line, .shared (l.filter (fun o => !w.snooped.contains o)), (s.homeLine w.line).value⟩ with
      slices := s.slices.filter (fun x => !(x.line == w.line && w.snooped.contains (sliceOf s.span.index.toNat x.gang))) } := by
    unfold State.silence
    rw [homeLine_of_dir dir]
    rfl
  have line : (s.silence w).homeLine w.line = ⟨w.line, .shared (l.filter (fun o => !w.snooped.contains o)), (s.homeLine w.line).value⟩ := by
    rw [silent]
    exact putHome_homeLine s w.line (.shared (l.filter (fun o => !w.snooped.contains o))) (s.homeLine w.line).value
  have runs := exec_snoopTimeout_shared on one begun late (congrArg HomeLine.dir line)
  have waits : (s.silence w).homeWaits = [w] := by rw [silent]; exact one
  have nobody' : (s.silence w).treqs = [] := by rw [silent]; exact nobody
  have mine' : w.slice / 64 = (s.silence w).span.index.toNat := by rw [silent]; exact mine
  have finish : (s.silence w).finishRequest w = (s.silence w).putHome ⟨w.line, .exclusive w.slice, (s.homeLine w.line).value⟩ := by
    rw [finish_own kind, line, answerSlice_nobody (by exact mine') (by exact nobody')]
  rw [finish, endRequest_last (by exact waits)] at runs
  have slices : (s.silence w).slices = s.slices.filter (fun x => !(x.line == w.line && w.snooped.contains (sliceOf s.span.index.toNat x.gang))) := by rw [silent]
  refine ⟨_, runs, (putHome_homeLine (s.silence w) w.line (.exclusive w.slice) (s.homeLine w.line).value :), rfl, fun snooped => ?_, fun other => ?_,
    (congrArg State.events silent :), (congrArg State.crews silent :), (congrArg State.mem silent :)⟩
  · refine (congrArg (fun l => List.find? _ l) slices).trans (List.find?_eq_none.2 fun x hx => ?_)
    have kept := (List.mem_filter.1 hx).2
    rw [Bool.not_eq_true', Bool.and_eq_false_iff] at kept
    rw [Bool.and_eq_true, beq_iff_eq, beq_iff_eq]
    rintro ⟨rfl, here⟩
    obtain away | unasked := kept
    · exact beq_eq_false_iff_ne.1 away here
    · rw [List.contains_eq_mem, decide_eq_false_iff_not] at unasked
      exact unasked snooped
  · refine (congrArg (fun l => List.find? _ l) slices).trans (List.find?_filter.trans (congrArg (fun f => s.slices.find? f) (funext fun x => ?_)))
    by_cases named : (x.gang == gang && x.line == w.line) = true
    · obtain ⟨here, -⟩ := Bool.and_eq_true_iff.1 named
      have unasked : w.snooped.contains (sliceOf s.span.index.toNat x.gang) = false := by
        rw [List.contains_eq_mem, decide_eq_false_iff_not, beq_iff_eq.1 here]
        exact other
      rw [named, unasked, Bool.and_false]
      rfl
    · rw [Bool.eq_false_iff.2 named]
      simp

end

/-! ### The statement -/

theorem tether_off {s : State} (off : s.fabricOn = false) (line pkg gang : ℕ) (tag : BitVec 32) (link : Link) :
    exec (.tetherReadRequest line pkg gang tag link) s = .next s ∧ exec (.tetherOwnershipRequest line pkg gang tag link) s = .next s ∧ exec (.tetherSnoopTimeout line) s = .next s ∧
      exec (.homeGuardExpiry line) s = .next s := by
  have no : ¬s.fabricOn = true := by rw [off]; exact Bool.false_ne_true
  refine ⟨?_, ?_, ?_, ?_⟩
  · exact (show exec (.tetherReadRequest line pkg gang tag link) s = execTetherReadRequest line pkg gang tag link s from rfl).trans (congrArg Host.Outcome.next (if_neg no))
  · exact (show exec (.tetherOwnershipRequest line pkg gang tag link) s = execTetherOwnershipRequest line pkg gang tag link s from rfl).trans (congrArg Host.Outcome.next (if_neg no))
  · rw [show exec (.tetherSnoopTimeout line) s = execTetherSnoopTimeout line s from rfl, execTetherSnoopTimeout, if_neg no]
  · rw [show exec (.homeGuardExpiry line) s = execHomeGuardExpiry line s from rfl, execHomeGuardExpiry, if_neg no]

theorem revoke_spec {s : State} {line gang : ℕ} {pt : Port} {link : Link} (on : s.fabricOn = true) (away : s.homedHere line = false) (hp : link.port < 24) (hq : s.ports[link.port]? = some pt) (st : pt.state = 3)
    (due : link.seq = pt.rxSeq) : ∃ s', exec (.tetherRevoke line gang link) s = .next s' ∧ s'.sliceCopy gang line = none ∧ s'.home = s.home ∧ s'.crews = s.crews ∧ s'.mem = s.mem := by
  obtain ⟨o, p, pf, acts⟩ := inOrder_due (n := 1) on hp hq st (by rw [due]; exact (BitVec.add_sub_cancel _ _).symm)
  refine ⟨State.dropSlice { s with outbox := o, ports := p, perf := pf } gang line, ?_, sliceCopy_dropSlice _ _ _, rfl, rfl, rfl⟩
  rw [show exec (.tetherRevoke line gang link) s = execTetherRevoke line gang link s from rfl, execTetherRevoke, away, if_neg Bool.false_ne_true, acts]

theorem replacement_none {s : State} {line gang : ℕ} (none_ : s.sliceCopy gang line = none) : exec (.tetherReplacement line gang) s = .next s := by
  rw [show exec (.tetherReplacement line gang) s = execTetherReplacement line gang s from rfl, execTetherReplacement, none_]

/-- Settles O60. -/
theorem tetherDirectory : Obligations.TetherDirectory := by
  unfold Obligations.TetherDirectory
  intro s line gang link tag hg
  have home_of (h : s.span.joined = true ∧ line / 2 ^ 18 = s.span.index.toNat) : s.homedHere line = true := (homedHere_iff s line).2 h
  have away_of (h : ¬(s.span.joined = true ∧ line / 2 ^ 18 = s.span.index.toNat)) : s.homedHere line = false := Bool.eq_false_iff.2 (mt (homedHere_iff s line).1 h)
  refine ⟨fun off => tether_off off line _ gang tag link, fun q on home idle one itsTag itsGang itsLine waiting => ?_, fun q pt on away hp hq st one itsTag itsGang itsLine waiting excl modified data old => ?_,
    fun w x on home one itsLine begun snooped dir held mine nobody => ?_, fun pkg d pt on home hp hq st due other idle => writeBack_spec hg on (home_of home) hp hq st due other idle,
    replacement_none, fun x held on => ⟨(replacement_spec held on).1, fun dirty home dir idle => (replacement_spec held on).2 dirty (home_of home) dir idle⟩,
    fun w one itsLine begun on => ?_, fun pt on away hp hq st due => revoke_spec on (away_of away) hp hq st due, fun r => ?_⟩
  · subst itsTag itsGang itsLine
    have a : s.awaits q := ⟨hg, home_of home, idle, one, waiting⟩
    exact ⟨fun kind => read_request a on kind link, fun kind => own_request a on kind link, fun off z op x y b kind aligned => atomic_request a on kind aligned link⟩
  · subst itsTag itsGang itsLine
    exact grant_spec on (away_of away) hp hq st one waiting excl modified data old
  · subst itsLine
    obtain ⟨read, own⟩ := snoop_spec on (home_of home) one begun snooped dir held mine nobody link
    exact ⟨read, fun kind _ => own kind⟩
  · subst itsLine
    exact ⟨exec_silence_early one begun, fun late o dir => silence_owner on one begun late dir, fun late l dir kind mine nobody => silence_sharers on one begun late dir kind mine nobody⟩
  · exact ⟨_, rfl, rfl, List.length_map _, fun i q hq => List.getElem?_map.trans (congrArg _ hq)⟩

end Sys2Proof.Machine

/-! ## QUIESCE, RESUME and RESTORE (19 R362 to R366, R377, R378) -/

namespace Sys2Proof.Machine

/-- A fold of updates that each keep a view of the state keeps it. -/
theorem foldl_keeps {α β : Type} (g : State → β) {f : State → α → State} (keeps : ∀ (s : State) x, g (f s x) = g s) (l : List α) (s : State) : g (l.foldl f s) = g s := by
  induction l generalizing s with
  | nil => rfl
  | cons x l ih => exact (ih _).trans (keeps s x)

/-! ### The cut -/

/-- No team's wait has a wake that settles it. -/
def State.noneWoken (s : State) : Prop := ∀ c t w, c ∈ s.crews → t ∈ c.teams → t.swait = some w → w.woken = none

theorem foldl_fixed {α : Type} {f : State → α → State} {s : State} : ∀ {l : List α}, (∀ x, x ∈ l → f s x = s) → l.foldl f s = s
  | [], _ => rfl
  | x :: l, fixed => by rw [List.foldl_cons, fixed x List.mem_cons_self, foldl_fixed fun y hy => fixed y (List.mem_cons_of_mem _ hy)]

theorem settleGates_quiet {s : State} (quiet : s.noneWoken) : s.settleGates = s := by
  refine foldl_fixed fun r _ => ?_
  split
  · rfl
  · next c t found =>
    obtain ⟨crew, team⟩ := teamAt_eq.1 found
    split
    · rfl
    · next w waits =>
      rw [quiet c t w (List.mem_of_getElem? crew) (List.mem_of_getElem? team) waits]
      rfl

theorem cut_plain {s : State} (slices : s.slices = []) (capture : s.comet.capture = none) (preserved : s.comet.preserved = []) :
    s.cut = { s with quiesced := true, quiescing := none, cutSeq := s.cutSeq + 1#64 } := by
  have ended : s.cometAbandon 3 = s := by rw [State.cometAbandon, capture]
  have kept : s.dropPreserved = s := by rw [State.dropPreserved, preserved]; rfl
  have written : s.slices.foldl (fun s x => s.writeBack x) s = s := by rw [slices]; rfl
  unfold State.cut
  rw [ended, kept]
  dsimp only
  rw [written]

theorem holdLeases_none {s : State} (units : s.units = []) (young : s.decayAge < 2 ^ 28) : s.holdLeases = s := by
  rw [State.holdLeases, decayed_self young, units]
  rfl

/-- An image begins with its magic number. -/
theorem image_magic (s : State) (f : SaveFlags) : bytesNat ((s.image f).take 8) = 0x455641534C56434F := by
  have head : ∃ t r, s.image f = padTo 256 (leBytes 8 0x455641534C56434F ++ t) ++ r := by
    unfold State.image
    dsimp only
    simp only [List.append_assoc]
    exact ⟨_, _, rfl⟩
  obtain ⟨t, r, form⟩ := head
  have size : 8 ≤ (padTo 256 (leBytes 8 0x455641534C56434F ++ t)).length := by rw [length_padTo]; decide
  have first := payAt_padTo (l := leBytes 8 0x455641534C56434F ++ t) (off := 0) (n := 8) (k := 256) (by decide) (by rw [List.length_append, length_leBytes]; omega)
  rw [payAt_append_left (by rw [length_leBytes]), payAt_leBytes] at first
  rw [form, List.take_append_of_le_length size]
  exact first

/-! ### QUIESCE -/

section
variable {s : State} (takes : s.takesCommand)
include takes

theorem exec_quiesce_fresh (p : List Byte) : exec (.quiesce p) s = .next (
    if p.length < 18 then s.answer rcInvalid []
    else if s.quiesced then s.answer rcBusy []
    else if payAt p 16 1 / 4 % 4 = 0 ∨ 32 ≤ payAt p 16 1 ∨ payAt p 17 1 = 0 ∨ payAt p 0 8 % 4096 ≠ 0 then s.answer rcInvalid []
    else State.tryCut (State.holdLeases { s with quiescing := some (0, p) }) p) := by
  rw [show exec (.quiesce p) s = execQuiesce p s from rfl, execQuiesce, takes.usable, takes.idle, takes.quiescing]
  rfl

/-- A QUIESCE with a good payload begins; it waits while the package is not at its cut. -/
theorem exec_quiesce_begins {p : List Byte} (long : 18 ≤ p.length) (runs : s.quiesced = false) (what : payAt p 16 1 / 4 % 4 ≠ 0) (flags : payAt p 16 1 < 32) (budget : payAt p 17 1 ≠ 0)
    (aligned : payAt p 0 8 % 4096 = 0) (units : s.units = []) (young : s.decayAge < 2 ^ 28) : exec (.quiesce p) s = .next (State.tryCut { s with quiescing := some (0, p) } p) := by
  rw [exec_quiesce_fresh takes, if_neg (by omega), runs, if_neg Bool.false_ne_true, if_neg (by omega), holdLeases_none (by exact units) (by exact young)]

end

/-- At the cut, where nothing is in flight that the cut itself would settle, the package is quiesced and saved. -/
theorem tryCut_plain {s : State} {p : List Byte} (at_ : s.atCut (saveFlags p).scm = true) (quiet : s.noneWoken) (slices : s.slices = []) (capture : s.comet.capture = none) (preserved : s.comet.preserved = []) :
    s.tryCut p = State.save { s with quiesced := true, quiescing := none, cutSeq := s.cutSeq + 1#64 } p := by
  rw [State.tryCut, if_pos at_, settleGates_quiet quiet, cut_plain slices capture preserved]

theorem save_noRoom {s : State} {p : List Byte} (short : payAt p 8 8 < (s.image (saveFlags p)).length) : s.save p = s.answer rcSuccess (quiesceOut stBounds 0 0 s.cutSeq) := if_pos (.inl short)

theorem save_ok {s : State} {p : List Byte} (room : (s.image (saveFlags p)).length ≤ payAt p 8 8) (inside : payAt p 0 8 + (s.image (saveFlags p)).length ≤ 2 ^ 40) (stays : payAt p 16 1 / 16 % 2 = 0) :
    s.save p = (s.hostStore (payAt p 0 8) (s.image (saveFlags p))).answer rcSuccess (quiesceOut stOk 1 (s.image (saveFlags p)).length (s.hostStore (payAt p 0 8) (s.image (saveFlags p))).cutSeq) := by
  have bit : (payAt p 16 1).testBit 4 = false := by
    rw [Nat.testBit_eq_decide_div_mod_eq, decide_eq_false_iff_not]
    omega
  unfold State.save
  dsimp only
  rw [if_neg (by omega), bit, if_neg Bool.false_ne_true]

theorem quiesceOut_status {u : State} {st ver len : ℕ} {seq : BitVec 64} (small : st < 65536) : (u.answer rcSuccess (quiesceOut st ver len seq)).statusIs st := by
  rw [quiesceOut, List.append_assoc, List.append_assoc, List.append_assoc]
  exact statusIs_answer u rcSuccess st _ small

/-- The package once it is quiesced and saved. -/
theorem quiesce_saves {s : State} {p : List Byte} {i : Instr} (u : State) (hu : u = { s with quiesced := true, quiescing := none, cutSeq := s.cutSeq + 1#64 }) (runs : exec i s = .next (u.save p)) (stays : payAt p 16 1 / 16 % 2 = 0) :
    (payAt p 8 8 < (u.image (saveFlags p)).length → s.answers i 0 fun s' => s'.statusIs 7 ∧ s'.quiesced = true ∧ s'.mem = s.mem) ∧
    ((u.image (saveFlags p)).length ≤ payAt p 8 8 → payAt p 0 8 + (u.image (saveFlags p)).length ≤ 2 ^ 40 → s.isDead (payAt p 0 8) (u.image (saveFlags p)).length = false →
      s.answers i 0 fun s' => s'.statusIs 0 ∧ s'.quiesced = true ∧ s'.quiescing = none ∧ s'.cutSeq = s.cutSeq + 1#64 ∧ s'.crews = s.crews ∧ s'.launches = s.launches ∧
        (∀ k, k < (u.image (saveFlags p)).length → s'.byteAt (payAt p 0 8 + k) = (u.image (saveFlags p)).getD k 0#8) ∧ sameBytesBut s s' (payAt p 0 8) (u.image (saveFlags p)).length) := by
  refine ⟨fun short => ?_, fun room inside alive => ?_⟩
  · rw [save_noRoom short] at runs
    subst hu
    exact answers_of runs rfl rfl ⟨quiesceOut_status (by decide), rfl, rfl⟩
  · rw [save_ok room inside stays] at runs
    generalize u.image (saveFlags p) = img at runs room inside alive ⊢
    subst hu
    obtain ⟨bytes, others⟩ := hostStore_bytes (s := { s with quiesced := true, quiescing := none, cutSeq := s.cutSeq + 1#64 }) alive
    have kept := hostStore_alive (s := { s with quiesced := true, quiescing := none, cutSeq := s.cutSeq + 1#64 }) alive
    refine answers_of runs (congrArg State.mailboxIrq kept :) (congrArg State.msix kept :) ⟨quiesceOut_status (by decide), (congrArg State.quiesced kept :), (congrArg State.quiescing kept :), (congrArg State.cutSeq kept :),
      (congrArg State.crews kept :), (congrArg State.launches kept :), bytes, others⟩

/-! ### The end of the budget, and RESUME -/

/-- With no unit known a decay has nothing to act on. -/
theorem decayed_none {s : State} (units : s.units = []) : ∃ age corrected, s.decayed = { s with decayAge := age, corrected := corrected, units := [] } := by
  unfold State.decayed
  dsimp only
  rw [units]
  split
  · exact ⟨s.decayAge, s.corrected, congrArg (fun l => { s with units := l }) units⟩
  · exact ⟨_, _, rfl⟩

/-- With no unit known, going on returns no lease. -/
theorem resumeAll_none {s : State} (units : s.units = []) : ∃ age corrected, s.resumeAll = { s with quiesced := false, quiescing := none, decayAge := age, corrected := corrected, units := [] } := by
  obtain ⟨age, corrected, form⟩ := decayed_none (s := { s with quiesced := false, quiescing := none }) units
  refine ⟨age, corrected, ?_⟩
  have returned : State.leasesReturn { s with quiesced := false, quiescing := none } = State.decayed { s with quiesced := false, quiescing := none } := by
    rw [State.leasesReturn, show ({ s with quiesced := false, quiescing := none } : State).units = [] from units]
    rfl
  rw [State.resumeAll, returned, form]
  rfl

theorem resumed_answers {s : State} (units : s.units = []) {i : Instr} {out : List Byte} (runs : exec i s = .next (s.resumeAll.answer rcSuccess out)) {f : State → Prop}
    (holds : ∀ s' : State, s'.reply = some ⟨rcSuccess, out⟩ → s'.quiescing = none → s'.quiesced = false → s'.crews = s.crews → s'.mem = s.mem → f s') : s.answers i 0 f := by
  obtain ⟨age, corrected, form⟩ := resumeAll_none units
  rw [form] at runs
  exact answers_of runs rfl rfl (holds _ rfl rfl rfl rfl rfl)

theorem timeout_spec {s : State} {p : List Byte} {age : ℕ} (usable : s.usable = true) (idle : s.mailboxRun = none) (running : s.quiescing = some (age, p)) (power : s.powerLoss = none) (units : s.units = []) :
    (age < 2 ^ 26 → exec .quiesceTimeout s = .next s) ∧
    (2 ^ 26 ≤ age → s.answers .quiesceTimeout 0 (fun s' => s'.statusIs 1 ∧ s'.quiescing = none ∧ s'.quiesced = false ∧ s'.crews = s.crews ∧ s'.mem = s.mem) ∧ exec (.quiesce p) s = exec .quiesceTimeout s) := by
  have runs : exec .quiesceTimeout s = .next (if age < 2 ^ 26 then s else s.cutTimeout) := by
    rw [show exec .quiesceTimeout s = execQuiesceTimeout s from rfl, execQuiesceTimeout, running]
    dsimp only
    rw [power]
    simp
  refine ⟨fun young => by rw [runs, if_pos young], fun old => ?_⟩
  rw [if_neg (by omega)] at runs
  refine ⟨resumed_answers units runs fun s' reply quiescing quiesced crews mem => ⟨?_, quiescing, quiesced, crews, mem⟩, ?_⟩
  · have := quiesceOut_status (u := s) (st := stTimeout) (ver := 0) (len := 0) (seq := 0#64) (by decide)
    rwa [State.statusIs, show (s.answer rcSuccess (quiesceOut stTimeout 0 0 0#64)).reply = s'.reply from reply.symm] at this
  · rw [runs, show exec (.quiesce p) s = execQuiesce p s from rfl, execQuiesce, usable, idle, running]
    dsimp only
    rw [power, if_neg (by decide), if_neg (by simp), if_pos old]

theorem resume_spec {s : State} (takes : s.takesCommand) (p : List Byte) : (s.quiesced = false → s.answers (.resume p) 6 s.onlyAnswers) ∧
    (s.quiesced = true → s.units = [] → s.answers (.resume p) 0 fun s' => s'.statusIs 0 ∧ s'.quiesced = false ∧ s'.crews = s.crews ∧ s'.mem = s.mem) := by
  have runs : exec (.resume p) s = .next (if s.quiesced then s.resumeAll.answer rcSuccess (leBytes 2 stOk) else s.answer rcBusy []) := by
    rw [show exec (.resume p) s = execResume p s from rfl, execResume, mailbox_runs takes (Nat.zero_le _)]
  refine ⟨fun goes => ?_, fun stands units => ?_⟩
  · rw [goes, if_neg Bool.false_ne_true] at runs
    exact answers_only takes runs
  · rw [stands, if_pos rfl] at runs
    refine resumed_answers units runs fun s' reply quiescing quiesced crews mem => ⟨?_, quiesced, crews, mem⟩
    have := statusIs_answer_only s rcSuccess stOk (by decide)
    rwa [State.statusIs, show (s.answer rcSuccess (leBytes 2 stOk)).reply = s'.reply from reply.symm] at this

/-! ### RESTORE -/

theorem exec_restore {s : State} (takes : s.takesCommand) {p : List Byte} (long : 16 ≤ p.length) {b : List Byte} (hb : b = s.memBytes (payAt p 0 8) (payAt p 8 8)) : exec (.restore p) s = .next (
    if payAt p 0 8 % 4096 ≠ 0 then s.answer rcInvalid []
    else if s.quiesced || s.launchOpen then s.answer rcBusy []
    else if s.checkImage (payAt p 0 8) (payAt p 8 8) b ≠ stOk then
      s.answer rcSuccess (leBytes 2 (s.checkImage (payAt p 0 8) (payAt p 8 8) b) ++ zeros 1)
    else (s.restoreAllFrom b).answer rcSuccess (leBytes 2 stOk ++ leBytes 1 ((if hasSection b 0x8009 && !s.tetherFits b then 1 else 0) + (if hasSection b 0x8005 && rawUsable b then 2 else 0)))) := by
  subst hb
  rw [show exec (.restore p) s = execRestore p s from rfl, execRestore, mailbox_runs takes long]

theorem checkImage_small (s : State) (base len : ℕ) (b : List Byte) : s.checkImage base len b < 65536 := by
  unfold State.checkImage
  split
  · decide
  · split
    · decide
    · split
      · decide
      · split
        · decide
        · split <;> decide

theorem checkImage_outside (s : State) {base len : ℕ} (outside : 2 ^ 40 < base + len) (b : List Byte) : s.checkImage base len b = 7 := if_pos (.inl outside)


/-- What no step of a RESTORE but its own touches: the mailbox's interrupt, the generation, the launch table and its next name. -/
def State.table (s : State) : Bool × BitVec 2 × BitVec 32 × List Launch × BitVec 32 := (s.mailboxIrq, s.msix, s.capGen, s.launches, s.nextId)

/-- Where each crew stands. -/
def State.places (s : State) : List (Option Nat) := s.crews.map (·.place)

theorem table_of_outsideMemory {s s' : State} (h : s'.outsideMemory = s.outsideMemory) : s'.table = s.table := (congrArg State.table h :)

theorem restorePage_outsideMemory (s : State) (va flags : ℕ) (b : List Byte) : (s.restorePage va flags b).outsideMemory = s.outsideMemory := by
  unfold State.restorePage
  split
  · rfl
  · next r _ =>
    dsimp only
    generalize firstForm : (if pteV (s.pte r va) = true then s else _) = first
    have begun : first.outsideMemory = s.outsideMemory := by
      subst firstForm
      split
      · rfl
      · exact translate_outsideMemory _ _ _ _ _
    generalize storedForm : (if isScm (pteFrame (first.pte r va)) = true then _ else _) = stored
    have stores : stored.outsideMemory = first.outsideMemory := by
      subst storedForm
      split
      · exact first.acceptBytes_outsideMemory _ _
      · exact first.hostStore_outsideMemory _ _
    exact (show _ = stored.outsideMemory from rfl).trans (stores.trans begun)

theorem restorePages_outsideMemory : ∀ (n : ℕ) (s : State) (es cs : List Byte), (s.restorePages n es cs).outsideMemory = s.outsideMemory
  | 0, _, _, _ => rfl
  | n + 1, s, _, _ => (restorePages_outsideMemory n _ _ _).trans (restorePage_outsideMemory s _ _ _)

theorem restoreMemory_outsideMemory (s : State) (b : List Byte) : (s.restoreMemory b).outsideMemory = s.outsideMemory := by
  unfold State.restoreMemory
  split
  · exact restorePages_outsideMemory _ _ _ _
  · rfl

theorem restoreBallast_outsideMemory (s : State) (b : List Byte) : (s.restoreBallast b).outsideMemory = s.outsideMemory := by
  refine foldl_outsideMemory (fun s p => ?_) _ s
  split
  · next s1 pa _ found =>
    have reached := outsideMemory_fst (translate_outsideMemory s none 0 p.1 false) found
    split
    · exact (s1.acceptLine_outsideMemory _ _).trans reached
    · exact (s1.hostStore_outsideMemory _ _).trans reached
  · next found => exact outsideMemory_fst (translate_outsideMemory s none 0 p.1 false) found

theorem restoreTether_table (s : State) (b : List Byte) : (s.restoreTether b).table = s.table := by
  unfold State.restoreTether
  split
  · rfl
  · generalize List.range (2 ^ 18) = lines
    refine foldl_keeps State.table (fun s i => ?_) lines s
    rfl

/-! The crews of the image enter one by one, unplaced. -/

theorem places_putCrew {s : State} {k : ℕ} {c d : Crew} (h : s.crewAt k = some c) (place : d.place = c.place) : (s.putCrew k d).places = s.places := by
  rw [State.places, State.putCrew, List.map_set, place]
  exact list_set_self _ _ _ (by rw [List.getElem?_map, show s.crews[k]? = some c from h]; rfl)

theorem places_modCrew (s : State) (k : ℕ) {f : Crew → Crew} (place : ∀ c, (f c).place = c.place) : (s.modCrew k f).places = s.places := by
  unfold State.modCrew
  split
  · rfl
  · next c found => exact places_putCrew found (place c)

theorem places_putTeam (s : State) (r : TeamRef) (t : Team) : (s.putTeam r t).places = s.places := by
  unfold State.putTeam
  split
  · rfl
  · next c found => exact places_putCrew found rfl

theorem places_modTeam (s : State) (r : TeamRef) (f : Team → Team) : (s.modTeam r f).places = s.places := by
  unfold State.modTeam
  split
  · rfl
  · exact places_putTeam _ _ _

theorem table_modCrew (s : State) (k : ℕ) (f : Crew → Crew) : (s.modCrew k f).table = s.table := by
  unfold State.modCrew
  split <;> rfl

theorem table_putTeam (s : State) (r : TeamRef) (t : Team) : (s.putTeam r t).table = s.table := by simp [State.table]

theorem table_modTeam (s : State) (r : TeamRef) (f : Team → Team) : (s.modTeam r f).table = s.table := by simp [State.table]

/-- The table and the places together: what re-arming a team and restoring a command keep. -/
def State.standing (s : State) : (Bool × BitVec 2 × BitVec 32 × List Launch × BitVec 32) × List (Option Nat) := (s.table, s.places)

theorem standing_eq {s s' : State} (table : s'.table = s.table) (places : s'.places = s.places) : s'.standing = s.standing := by
  rw [State.standing, table, places]; rfl

theorem standing_putTeam (s : State) (r : TeamRef) (t : Team) (opens : List (TeamRef × BitVec 32)) (wait : ℕ) (holes : List WlHole) :
    State.standing { s.putTeam r t with pspanOpen := opens, nextWait := wait, wlHoles := holes } = s.standing :=
  standing_eq (table_putTeam s r t) (places_putTeam s r t)

theorem standing_rearm (s : State) (r : TeamRef) (ti : TeamImage) (es : List (List (List ℕ))) : (s.rearm r ti es).standing = s.standing := by
  unfold State.rearm
  split
  · rfl
  · exact standing_putTeam s r _ _ _ _

theorem standing_modCrew (s : State) (k : ℕ) {f : Crew → Crew} (place : ∀ c, (f c).place = c.place) : (s.modCrew k f).standing = s.standing := standing_eq (table_modCrew s k f) (places_modCrew s k place)

theorem standing_faultEvents (s : State) (c : Crew) : (s.faultEvents c).standing = s.standing := by
  refine foldl_keeps State.standing (fun s t => ?_) _ s
  split <;> rfl

theorem restoreCrew_spec (s0 : State) (es : List (List (List ℕ))) (x : CrewImage) : (s0.restoreCrew es x).table = s0.table ∧ (s0.restoreCrew es x).places = s0.places ++ [x.crew.place] := by
  have both : (s0.restoreCrew es x).standing = (s0.table, s0.places ++ [x.crew.place]) := by
    unfold State.restoreCrew
    dsimp only
    generalize enteredForm : ({ s0 with crews := s0.crews ++ _, nextBorn := s0.nextBorn + 1 } : State) = entered
    have enters : entered.standing = (s0.table, s0.places ++ [x.crew.place]) := by
      subst enteredForm
      exact congrArg (Prod.mk s0.table) List.map_append
    have armed : ∀ l : List (TeamImage × ℕ), (l.foldl (fun s p => s.rearm ⟨s0.crews.length, p.2⟩ p.1 es) entered).standing = entered.standing := fun l => foldl_keeps State.standing (fun s p => standing_rearm s _ _ es) l entered
    rw [← enters, ← armed x.teams.zipIdx]
    generalize x.teams.zipIdx.foldl _ entered = armedState
    have noted := standing_modCrew armedState s0.crews.length (f := fun c => { c with growEvicted := c.teams.any (fun t => t.growWant.isSome) }) fun _ => rfl
    split
    · exact (standing_faultEvents _ _).trans noted
    · exact noted
  exact ⟨congrArg Prod.fst both, congrArg Prod.snd both⟩

theorem restoreCrews_spec (es : List (List (List ℕ))) (l : List CrewImage) (s : State) :
    (l.foldl (fun s c => s.restoreCrew es c) s).table = s.table ∧ (l.foldl (fun s c => s.restoreCrew es c) s).places = s.places ++ l.map (·.crew.place) := by
  induction l generalizing s with
  | nil => exact ⟨rfl, (List.append_nil _).symm⟩
  | cons x l ih =>
    obtain ⟨table, places⟩ := ih (s.restoreCrew es x)
    obtain ⟨first, placed⟩ := restoreCrew_spec s es x
    exact ⟨table.trans first, places.trans (by rw [placed, List.append_assoc]; rfl)⟩

theorem standing_restoreCommand (s : State) (es : List (List (List ℕ))) (b : List Byte) : (s.restoreCommand es b).standing = s.standing := by
  unfold State.restoreCommand
  split
  · rfl
  · split <;> rfl

theorem standing_restoreMatrix (s : State) (es : List (List (List ℕ))) (b : List Byte) : (s.restoreMatrix es b).standing = s.standing := by
  unfold State.restoreMatrix
  dsimp only
  split
  · split
    · rfl
    · exact standing_eq (table_modTeam s _ _) (places_modTeam s _ _)
  · rfl

theorem parseCrew_place (ls : List Launch) (b : List Byte) : (parseCrew ls b).1.crew.place = none := rfl

theorem parseMany_all {α : Type} {f : List Byte → α × ℕ} {P : α → Prop} (each : ∀ b, P (f b).1) : ∀ (n : ℕ) (b : List Byte) (x : α), x ∈ parseMany f n b → P x
  | 0, _, _, h => absurd h List.not_mem_nil
  | n + 1, b, x, h => by
    obtain rfl | h := List.mem_cons.1 h
    · exact each b
    · exact parseMany_all each n _ x h

theorem imageCrews_place (b : List Byte) : ∀ x, x ∈ imageCrews b → x.crew.place = none := parseMany_all (fun y => parseCrew_place _ y) _ _

theorem capacityChange_spec (s : State) : s.capacityChange.table = (s.mailboxIrq, s.msix, s.capGen + 1#32, s.launches, s.nextId) ∧ s.capacityChange.places = s.places := by
  refine ⟨rfl, (List.map_map).trans (List.map_congr_left fun c _ => ?_)⟩
  show Crew.place (if _ then _ else _) = _
  split <;> rfl

/-- What a RESTORE leaves of the launch table and the crews. -/
theorem restoreAllFrom_spec (s : State) (b : List Byte) : (s.restoreAllFrom b).table = (s.mailboxIrq, s.msix, s.capGen + 1#32, imageLaunches b, BitVec.ofNat 32 (payAt b 40 4)) ∧
    (s.restoreAllFrom b).places = (imageCrews b).map (·.crew.place) := by
  have memory : (((s.restoreMemory b).restoreBallast b).restoreTether b).table = s.table :=
    (restoreTether_table _ b).trans (table_of_outsideMemory ((restoreBallast_outsideMemory _ b).trans (restoreMemory_outsideMemory s b)))
  unfold State.restoreAllFrom
  dsimp only
  generalize ((s.restoreMemory b).restoreBallast b).restoreTether b = s1 at memory ⊢
  obtain ⟨crewTable, crewPlaces⟩ := restoreCrews_spec (imageExtra b) (imageCrews b) (s1.restoreTable b)
  generalize (imageCrews b).foldl _ (s1.restoreTable b) = s2 at crewTable crewPlaces ⊢
  have commands : ((commandEntries b).foldl (fun s e => s.restoreCommand (imageExtra b) e) s2).standing = s2.standing := foldl_keeps State.standing (fun s e => standing_restoreCommand s _ e) _ s2
  generalize (commandEntries b).foldl _ s2 = s3 at commands ⊢
  have matrix : ((matrixEntries b).foldl (fun s e => s.restoreMatrix (imageExtra b) e) s3).standing = s3.standing := foldl_keeps State.standing (fun s e => standing_restoreMatrix s _ e) _ s3
  generalize (matrixEntries b).foldl _ s3 = s4 at matrix ⊢
  have both := matrix.trans commands
  have table : s4.table = (s.mailboxIrq, s.msix, s.capGen, imageLaunches b, BitVec.ofNat 32 (payAt b 40 4)) := by
    have first : s1.mailboxIrq = s.mailboxIrq ∧ s1.msix = s.msix ∧ s1.capGen = s.capGen := by
      simp only [State.table, Prod.mk.injEq] at memory
      exact ⟨memory.1, memory.2.1, memory.2.2.1⟩
    have whole : s4.table = s2.table := congrArg Prod.fst both
    rw [whole, crewTable]
    obtain ⟨irq, msix, gen⟩ := first
    show (s1.mailboxIrq, s1.msix, s1.capGen, imageLaunches b, BitVec.ofNat 32 (payAt b 40 4)) = _
    rw [irq, msix, gen]
  have places : s4.places = s2.places := congrArg Prod.snd both
  simp only [State.table, Prod.mk.injEq] at table
  obtain ⟨irq, msix, gen, launches, next⟩ := table
  obtain ⟨changed, placed⟩ := capacityChange_spec { s4 with comet := { s4.comet with tracked := imageTracked b } }
  refine ⟨changed.trans ?_, placed.trans (places.trans crewPlaces)⟩
  show (s4.mailboxIrq, s4.msix, s4.capGen + 1#32, s4.launches, s4.nextId) = _
  rw [irq, msix, gen, launches, next]

theorem restore_spec {s : State} (takes : s.takesCommand) {p : List Byte} (long : 16 ≤ p.length) {b : List Byte} (hb : b = s.memBytes (payAt p 0 8) (payAt p 8 8)) :
    (payAt p 0 8 % 4096 ≠ 0 → s.answers (.restore p) 2 s.onlyAnswers) ∧
    (payAt p 0 8 % 4096 = 0 → s.quiesced = true ∨ s.launchOpen = true → s.answers (.restore p) 6 s.onlyAnswers) ∧
    (payAt p 0 8 % 4096 = 0 → s.quiesced = false → s.launchOpen = false →
      (s.checkImage (payAt p 0 8) (payAt p 8 8) b ≠ 0 → s.answers (.restore p) 0 fun s' => s'.statusIs (s.checkImage (payAt p 0 8) (payAt p 8 8) b) ∧ s.onlyAnswers s') ∧
      (s.checkImage (payAt p 0 8) (payAt p 8 8) b = 0 → s.answers (.restore p) 0 fun s' => s'.statusIs 0 ∧ s'.launches = imageLaunches b ∧ s'.crews.length = (imageCrews b).length ∧ (∀ c, c ∈ s'.crews → c.place = none) ∧
        s'.nextId = BitVec.ofNat 32 (payAt b 40 4) ∧ s'.capGen = s.capGen + 1#32) ∧
      (2 ^ 40 < payAt p 0 8 + payAt p 8 8 → s.checkImage (payAt p 0 8) (payAt p 8 8) b = 7)) := by
  have runs := exec_restore takes long hb
  refine ⟨fun misaligned => ?_, fun aligned stands => ?_, fun aligned goes closed => ⟨fun bad => ?_, fun good => ?_, fun outside => checkImage_outside s outside b⟩⟩
  · rw [if_pos misaligned] at runs
    exact answers_only takes runs
  · rw [if_neg (by omega), if_pos (by simpa using stands)] at runs
    exact answers_only takes runs
  · rw [if_neg (by omega), if_neg (by simp [goes, closed]), if_pos (show _ ≠ stOk from bad)] at runs
    exact answers_self runs ⟨statusIs_answer s rcSuccess _ _ (checkImage_small s _ _ b), onlyAnswers_answer takes _ _⟩
  · rw [if_neg (by omega), if_neg (by simp [goes, closed]), if_neg (show ¬ _ ≠ stOk from not_not.2 good)] at runs
    obtain ⟨table, places⟩ := restoreAllFrom_spec s b
    have placesNone := imageCrews_place b
    generalize s.restoreAllFrom b = u at runs table places
    simp only [State.table, Prod.mk.injEq] at table
    obtain ⟨irq, msix, gen, launches, next⟩ := table
    refine answers_of runs irq msix ⟨statusIs_answer u rcSuccess stOk _ (by decide), launches, ?_, fun c member => ?_, next, gen⟩
    · have := congrArg List.length places
      rwa [State.places, List.length_map, List.length_map] at this
    · have : c.place ∈ u.places := List.mem_map_of_mem member
      rw [places] at this
      obtain ⟨x, member, eq⟩ := List.mem_map.1 this
      rw [← eq]
      exact placesNone x member

/-- Settles O50. -/
theorem quiesceAndRestore : Obligations.QuiesceAndRestore := by
  intro s p usable idle
  refine ⟨fun none => ?_, fun age running power units => timeout_spec usable idle running power units, fun none => resume_spec ⟨usable, none, idle⟩ p, fun none long => restore_spec ⟨usable, none, idle⟩ long rfl⟩
  have takes : s.takesCommand := ⟨usable, none, idle⟩
  have runs := exec_quiesce_fresh takes p
  refine ⟨fun short => ?_, fun long stands => ?_, fun long goes bad => ?_, fun long goes what flags budget aligned units young => ?_⟩
  · rw [if_pos short] at runs
    exact answers_only takes runs
  · rw [if_neg (by omega), if_pos stands] at runs
    exact answers_only takes runs
  · rw [if_neg (by omega), goes, if_neg Bool.false_ne_true, if_pos bad] at runs
    exact answers_only takes runs
  · have begins := exec_quiesce_begins takes long goes what flags budget aligned units young
    refine ⟨fun early => ?_, fun at_ slices capture preserved quiet stays => ?_⟩
    · rw [begins, State.tryCut, if_neg (by rw [early]; exact Bool.false_ne_true)]
    · have quiets : State.noneWoken { s with quiescing := some (0, p) } := fun c t w crew team wait => quiet c t w crew team wait
      rw [tryCut_plain at_ quiets slices capture preserved] at begins
      exact ⟨image_magic _ _, quiesce_saves _ rfl begins stays⟩

end Sys2Proof.Machine

/-! ## Paired MMAs (11 R252 to R254; 18 R356) -/

namespace Sys2Proof.Machine

/-! ### What the teams keep -/

/-- Every team stands as before. -/
def State.sameTeams (s s' : State) : Prop := ∀ r, (s'.teamAt r).map (·.2) = (s.teamAt r).map (·.2)

theorem State.sameTeams.trans {s s' s'' : State} (h : s.sameTeams s') (k : s'.sameTeams s'') : s.sameTeams s'' := fun r => (k r).trans (h r)

theorem sameTeams_of_crews {s s' : State} (h : s'.crews = s.crews) : s.sameTeams s' := fun r => by
  unfold State.teamAt State.crewAt
  rw [h]

theorem sameTeams_modCrew (s : State) (k : ℕ) {f : Crew → Crew} (teams : ∀ c, (f c).teams = c.teams) : s.sameTeams (s.modCrew k f) := fun r => by
  unfold State.modCrew
  split
  · rfl
  · next c found =>
    have there : s.crews[k]? = some c := found
    by_cases same : k = r.crew
    · subst same
      have at_ : (s.putCrew r.crew (f c)).crewAt r.crew = some (f c) := crewAt_putCrew found _
      unfold State.teamAt
      rw [at_, found]
      unfold Crew.teamAt
      dsimp only
      rw [teams]
      cases c.teams[r.team]? <;> rfl
    · unfold State.teamAt
      rw [show (s.putCrew k (f c)).crewAt r.crew = s.crewAt r.crew from List.getElem?_set_ne same]

theorem sameTeams_modTile (s : State) (k u : ℕ) (f : Tile → Tile) : s.sameTeams (s.modTile k u f) := by
  unfold State.modTile
  split
  · exact fun _ => rfl
  · exact sameTeams_modCrew s k fun _ => rfl

theorem sameTeams_sweepTiles (s : State) (k : ℕ) : s.sameTeams (s.sweepTiles k) := sameTeams_modCrew s k fun _ => rfl

/-- A change of one team is the only change of a team. -/
theorem team_modTeam_other (s : State) (f : Team → Team) {q r : TeamRef} (other : q ≠ r) : ((s.modTeam r f).teamAt q).map (·.2) = (s.teamAt q).map (·.2) := by
  unfold State.modTeam
  split
  · rfl
  · next found => exact teamAt_putTeam_other found _ other

theorem team_modTeam {s : State} {r : TeamRef} {t : Team} (f : Team → Team) (here : (s.teamAt r).map (·.2) = some t) : ((s.modTeam r f).teamAt r).map (·.2) = some (f t) := by
  obtain ⟨⟨c, u⟩, found, rfl⟩ := Option.map_eq_some_iff.1 here
  rw [teamAt_modTeam found]
  rfl

/-! ### What becomes of the matrix queue -/

@[simp] theorem State.sweepTiles_matrix (s : State) (k : ℕ) : (s.sweepTiles k).matrix = s.matrix := State.modCrew_matrix s k _
@[simp] theorem State.modTile_matrix (s : State) (k u : ℕ) (f : Tile → Tile) : (s.modTile k u f).matrix = s.matrix := by
  unfold State.modTile
  split
  · rfl
  · exact State.modCrew_matrix s k _

theorem mem_dropMCmd {s : State} {m y : MCmd} : y ∈ (s.dropMCmd m).matrix ↔ y ∈ s.matrix ∧ y.id ≠ m.id := by
  rw [State.dropMCmd]
  simp [List.mem_filter]

/-! ### An accumulator set whole -/

theorem cellGet_append_left {w : ℕ} {l m : SMap w} {b : ℕ} (free : ∀ p, p ∈ m → p.1 ≠ b) : cellGet (l ++ m) b = cellGet l b := by
  induction l with
  | nil =>
    induction m with
    | nil => rfl
    | cons p m ih => exact (if_neg (free p List.mem_cons_self).symm).trans (ih fun q hq => free q (List.mem_cons_of_mem _ hq))
  | cons p l ih => exact ite_congr rfl (fun _ => rfl) fun _ => ih

theorem cellGet_append_right {w : ℕ} {l m : SMap w} {b : ℕ} (free : ∀ p, p ∈ l → p.1 ≠ b) : cellGet (l ++ m) b = cellGet m b := by
  induction l with
  | nil => rfl
  | cons p l ih => exact (if_neg (free p List.mem_cons_self).symm).trans (ih fun q hq => free q (List.mem_cons_of_mem _ hq))

/-- The cells that a function gives, zeros left out. -/
theorem cellGet_filterMap {w : ℕ} (g : ℕ → BitVec w) (base x : ℕ) (l : List ℕ) :
    cellGet (l.filterMap fun k => if g k = 0#w then none else some (base + k, g k)) (base + x) = if x ∈ l then g x else 0#w := by
  induction l with
  | nil => rfl
  | cons k l ih =>
    by_cases zero : g k = 0#w
    · simp only [List.filterMap_cons, if_pos zero]
      rw [ih]
      by_cases same : x = k
      · subst same
        rw [zero, ite_self, ite_self]
      · simp [same]
    · simp only [List.filterMap_cons, if_neg zero]
      by_cases same : x = k
      · subst same
        simp [cellGet]
      · simp [cellGet, same, ih]

theorem setAcc_accAt (t : Team) (n : ℕ) (f : ℕ → ℕ → ℕ) {a i j : ℕ} (row : i < 128) (column : j < 128) :
    (t.setAcc n f).accAt a i j = if a = n then (BitVec.ofNat 32 (f i j)).toNat else t.accAt a i j := by
  have cells : ∀ l : List ℕ, ∀ p, p ∈ (l.filterMap fun k => if BitVec.ofNat 32 (f (k / 128) (k % 128)) = 0#32 then none else some (n * 16384 + k, BitVec.ofNat 32 (f (k / 128) (k % 128)))) →
      ∃ k, k ∈ l ∧ p.1 = n * 16384 + k := by
    intro l p member
    obtain ⟨k, inside, is_⟩ := List.mem_filterMap.1 member
    split at is_
    · cases is_
    · exact ⟨k, inside, by rw [← Option.some.inj is_]⟩
  unfold Team.accAt Team.setAcc
  dsimp only
  have form := cellGet_filterMap (fun k => BitVec.ofNat 32 (f (k / 128) (k % 128))) (n * 16384) (i * 128 + j) (List.range 16384)
  have bounded : ∀ k, k ∈ List.range 16384 → k < 16384 := fun k => List.mem_range.1
  have member : i * 128 + j ∈ List.range 16384 := List.mem_range.2 (by omega)
  generalize List.range 16384 = l at form bounded member
  have low : ∀ (p : ℕ × BitVec 32), p ∈ t.acc.filter (fun p => decide (p.1 < n * 16384)) → p.1 < n * 16384 := fun p h => of_decide_eq_true (List.mem_filter.1 h).2
  have high : ∀ (p : ℕ × BitVec 32), p ∈ t.acc.filter (fun p => decide ((n + 1) * 16384 ≤ p.1)) → (n + 1) * 16384 ≤ p.1 := fun p h => of_decide_eq_true (List.mem_filter.1 h).2
  obtain below | same | above := Nat.lt_trichotomy a n
  · rw [if_neg (by omega), cellGet_append_left fun p h => ?_, cellGet_append_left fun p h => ?_, cellGet_filter t.acc (fun k => decide (k < n * 16384)), if_pos (by rw [decide_eq_true_iff, accKey]; omega)]
    · obtain ⟨k, _, is_⟩ := cells l p h
      rw [is_, accKey]; omega
    · have := high p h
      rw [accKey]; omega
  · subst same
    rw [if_pos rfl, cellGet_append_left fun p h => ?_, cellGet_append_right fun p h => ?_, accKey, Nat.add_assoc, form, if_pos member]
    · congr 3 <;> omega
    · have := low p h
      rw [accKey]; omega
    · have := high p h
      rw [accKey]; omega
  · rw [if_neg (by omega), cellGet_append_right fun p h => ?_, cellGet_filter t.acc (fun k => decide ((n + 1) * 16384 ≤ k)), if_pos (by rw [decide_eq_true_iff, accKey]; omega)]
    obtain inLow | inCells := List.mem_append.1 h
    · have := low p inLow
      rw [accKey]; omega
    · obtain ⟨k, inside, is_⟩ := cells l p inCells
      have := bounded k inside
      rw [is_, accKey]; omega

/-! ### The end with canonical NaNs (18 R356) -/

/-- The team after its accumulator became canonical NaNs. -/
def Team.nanAcc (t : Team) (n : ℕ) : Team := { t.setAcc n (fun _ _ => 0x7FC00000) with accErr := t.accErr.filter (fun k => k / 16384 != n) }

theorem nanAcc_accAt (t : Team) (n : ℕ) {a i j : ℕ} (row : i < 128) (column : j < 128) : (t.nanAcc n).accAt a i j = if a = n then 0x7FC00000 else t.accAt a i j :=
  (show (t.nanAcc n).accAt a i j = (t.setAcc n fun _ _ => 0x7FC00000).accAt a i j from rfl).trans (setAcc_accAt t n _ row column)

/-- The command has ended in canonical NaNs: nothing of its team changed but its accumulators and the slot of its array, and it left the queue. -/
def State.endsNan (s' : State) (x : MCmd) (old : Team) : Prop := ∃ t' : Team, (s'.teamAt x.team).map (·.2) = some t' ∧ { t' with acc := old.acc, accUsed := old.accUsed, accErr := old.accErr, matrixSlot := old.matrixSlot } = old ∧
  (∀ a i j, i < 128 → j < 128 → t'.accAt a i j = if a = x.accN then 0x7FC00000 else old.accAt a i j) ∧ (∀ y, y ∈ s'.matrix → y.id ≠ x.id)

theorem pairNan_endsNan {s : State} {m : MCmd} {t : Team} (here : (s.teamAt m.team).map (·.2) = some t) : (s.pairNan m).endsNan m t := by
  refine ⟨t.nanAcc m.accN, ?_, rfl, fun a i j row column => nanAcc_accAt t m.accN row column, fun y member => (mem_dropMCmd.1 member).2⟩
  have kept := sameTeams_of_crews (s := s.modTeam m.team fun t => t.nanAcc m.accN) (s' := s.pairNan m) rfl
  rw [kept]
  exact team_modTeam _ here

/-- What leaves teams alone and adds no command. -/
theorem endsNan_keeps {s s' : State} {x : MCmd} {t : Team} (ends : s.endsNan x t) (teams : s.sameTeams s') (fewer : ∀ y, y ∈ s'.matrix → ∃ z, z ∈ s.matrix ∧ z.id = y.id) : s'.endsNan x t := by
  obtain ⟨t', here, others, acc, gone⟩ := ends
  refine ⟨t', (teams _).trans here, others, acc, fun y member => ?_⟩
  obtain ⟨z, member, same⟩ := fewer y member
  exact same ▸ gone z member

theorem endsNan_sweepTiles {s : State} {x : MCmd} {t : Team} (ends : s.endsNan x t) (k : ℕ) : (s.sweepTiles k).endsNan x t :=
  endsNan_keeps ends (sameTeams_sweepTiles s k) fun y member => ⟨y, by rwa [State.sweepTiles_matrix] at member, rfl⟩

theorem pairNan_sameTeam (s : State) (m : MCmd) {q : TeamRef} (other : q ≠ m.team) : ((s.pairNan m).teamAt q).map (·.2) = (s.teamAt q).map (·.2) :=
  (sameTeams_of_crews (s := s.modTeam m.team fun t => t.nanAcc m.accN) (s' := s.pairNan m) rfl q).trans (team_modTeam_other s _ other)

theorem mem_pairNan {s : State} {m y : MCmd} (member : y ∈ (s.pairNan m).matrix) : y ∈ s.matrix := by
  have := (mem_dropMCmd.1 member).1
  rwa [State.modTeam_matrix] at this

/-- The other side's end leaves this side ended. -/
theorem endsNan_pairNan {s : State} {m p : MCmd} {t : Team} (ends : s.endsNan m t) (other : m.team ≠ p.team) : (s.pairNan p).endsNan m t := by
  obtain ⟨t', here, others, acc, gone⟩ := ends
  exact ⟨t', (pairNan_sameTeam s p other).trans here, others, acc, fun y member => gone y (mem_pairNan member)⟩

/-- Both sides end. -/
theorem bothNan {s : State} {m p : MCmd} {t u : Team} (mine : (s.teamAt m.team).map (·.2) = some t) (theirs : (s.teamAt p.team).map (·.2) = some u) (apart : m.team ≠ p.team) :
    ((((s.pairNan m).pairNan p).sweepTiles m.team.crew).sweepTiles p.team.crew).endsNan m t ∧ ((((s.pairNan m).pairNan p).sweepTiles m.team.crew).sweepTiles p.team.crew).endsNan p u := by
  constructor
  · exact endsNan_sweepTiles (endsNan_sweepTiles (endsNan_pairNan (pairNan_endsNan mine) apart) _) _
  · exact endsNan_sweepTiles (endsNan_sweepTiles (pairNan_endsNan ((pairNan_sameTeam s m apart.symm).trans theirs)) _) _

/-! ### The array takes the next command (R253) -/

/-- The withdrawn commands of a core stand for an offer again. -/
def State.offerAgain (s : State) (core : ℕ) : State := { s with matrix := s.matrix.map (fun m => if m.core = core ∧ m.phase = .withdrawn then { m with phase := .idle } else m) }

/-- The array has begun the command of this team. -/
def State.slotTaken (s : State) (r : TeamRef) : State := s.modTeam r (fun t => { t with matrixSlot := { t.matrixSlot with count := 0, got := true } })

/-- The commands of a core that R247 allows and whose accumulator their team holds. -/
def State.holding (s : State) (core : ℕ) : List MCmd := (s.allowedCmds core).filter (fun m => s.accHolder core m.accN == some m.team)

/-- The first command that is not withdrawn begins, where it can. -/
theorem exec_matrixCommandStart_first {s : State} {core : ℕ} {m : MCmd} {s1 : State} (free : s.arrayFree core = true) (first : ((s.holding core).filter (fun x => x.phase != .withdrawn)).head? = some m)
    (starts : s.startCmd core m = some s1) : exec (.matrixCommandStart core) s = .next ((s1.slotTaken m.team).offerAgain core) := by
  rw [show exec (.matrixCommandStart core) s = execMatrixCommandStart core s from rfl, execMatrixCommandStart, free]
  obtain ⟨rest, form⟩ : ∃ rest, (s.holding core).filter (fun x => x.phase != .withdrawn) = m :: rest := by
    cases h : (s.holding core).filter (fun x => x.phase != .withdrawn) with
    | nil => rw [h] at first; cases first
    | cons x rest =>
      rw [h] at first
      exact ⟨rest, by rw [Option.some.inj first]⟩
  dsimp only
  rw [show (s.allowedCmds core).filter (fun m => s.accHolder core m.accN == some m.team) = s.holding core from rfl, form, List.cons_append, List.findSome?_cons, starts]
  rfl

/-- No team changed but for the slot of its array, and memory stands. -/
def State.slotsOnly (s s' : State) : Prop := s'.mem = s.mem ∧ ∀ r u, (s.teamAt r).map (·.2) = some u → ∃ u' : Team, (s'.teamAt r).map (·.2) = some u' ∧ { u' with matrixSlot := u.matrixSlot } = u

theorem slotTaken_team {s : State} (q : TeamRef) {r : TeamRef} {u : Team} (here : (s.teamAt r).map (·.2) = some u) : ∃ v, ((s.slotTaken q).teamAt r).map (·.2) = some { u with matrixSlot := v } := by
  by_cases same : r = q
  · subst same
    exact ⟨_, team_modTeam _ here⟩
  · exact ⟨u.matrixSlot, (team_modTeam_other s _ same).trans here⟩

theorem started_slotsOnly {s s1 : State} (mem : s1.mem = s.mem) (crews : s1.crews = s.crews) (r : TeamRef) (core : ℕ) : s.slotsOnly ((s1.slotTaken r).offerAgain core) := by
  refine ⟨(State.modTeam_mem s1 r _).trans mem, fun q u here => ?_⟩
  obtain ⟨v, taken⟩ := slotTaken_team r ((sameTeams_of_crews crews q).trans here)
  exact ⟨_, (sameTeams_of_crews (s := s1.slotTaken r) (s' := (s1.slotTaken r).offerAgain core) rfl q).trans taken, rfl⟩

theorem offerAgain_matrix (s : State) (r : TeamRef) (core : ℕ) : ((s.slotTaken r).offerAgain core).matrix = s.matrix.map (fun x => if x.core = core ∧ x.phase = .withdrawn then { x with phase := .idle } else x) := by
  rw [State.offerAgain, State.slotTaken, State.modTeam_matrix]

/-- Where no command of the core is withdrawn, none is taken back. -/
theorem offerAgain_none {s : State} {core : ℕ} (none : ∀ y, y ∈ s.matrix → y.core = core → y.phase ≠ .withdrawn) (r : TeamRef) : ((s.slotTaken r).offerAgain core).matrix = s.matrix := by
  rw [offerAgain_matrix]
  refine (List.map_congr_left fun x member => ?_).trans (List.map_id _)
  exact if_neg fun h => none x member h.1 h.2

theorem endsNan_started {s : State} {x : MCmd} {t : Team} (ends : s.endsNan x t) (r : TeamRef) (core : ℕ) : ((s.slotTaken r).offerAgain core).endsNan x t := by
  obtain ⟨t', here, others, acc, gone⟩ := ends
  obtain ⟨v, taken⟩ := slotTaken_team r here
  refine ⟨_, (sameTeams_of_crews (s := s.slotTaken r) (s' := (s.slotTaken r).offerAgain core) rfl x.team).trans taken, others, acc, fun y member => ?_⟩
  rw [offerAgain_matrix] at member
  obtain ⟨z, inQueue, rfl⟩ := List.mem_map.1 member
  split <;> exact gone z inQueue

/-! ### Completion -/

theorem sameTeams_consume (s : State) (k uid : ℕ) (isA : Bool) (o : Coord) (n : ℕ) : s.sameTeams (s.consume k uid isA o n) := sameTeams_modTile s k uid _
@[simp] theorem State.consume_matrix (s : State) (k uid : ℕ) (isA : Bool) (o : Coord) (n : ℕ) : (s.consume k uid isA o n).matrix = s.matrix := State.modTile_matrix s k uid _

/-- A side that completes leaves every team as it was and takes its command out of the queue. -/
theorem finishMma_spec (s : State) (m : MCmd) : s.sameTeams (s.finishMma m) ∧ ∀ y, y ∈ (s.finishMma m).matrix ↔ y ∈ s.matrix ∧ y.id ≠ m.id := by
  unfold State.finishMma
  dsimp only
  generalize firstForm : (if (m.src.getD 2 0#64).toNat.testBit 16 = true then s.consume m.team.crew m.uidA true m.aOrigin m.chunks else s) = s1
  have first : s.sameTeams s1 ∧ s1.matrix = s.matrix := by
    subst firstForm
    split
    · exact ⟨sameTeams_consume s _ _ _ _ _, State.consume_matrix s _ _ _ _ _⟩
    · exact ⟨fun _ => rfl, rfl⟩
  generalize secondForm : (if ((m.src.getD 2 0#64).toNat.testBit 17 && m.uidB != 0) = true then s1.consume m.team.crew m.uidB false m.bOrigin m.chunks else s1) = s2
  have second : s1.sameTeams s2 ∧ s2.matrix = s1.matrix := by
    subst secondForm
    split
    · exact ⟨sameTeams_consume s1 _ _ _ _ _, State.consume_matrix s1 _ _ _ _ _⟩
    · exact ⟨fun _ => rfl, rfl⟩
  obtain ⟨teams1, matrix1⟩ := first
  obtain ⟨teams2, matrix2⟩ := second
  have dropped := sameTeams_of_crews (s := s2) (s' := s2.dropMCmd m) rfl
  refine ⟨((teams1.trans teams2).trans dropped).trans (sameTeams_sweepTiles _ _), fun y => ?_⟩
  rw [State.sweepTiles_matrix, mem_dropMCmd, matrix2, matrix1]

section
variable {s : State} {core : ℕ} {m p : MCmd} {c : Crew} {t : Team} {h : LaneHead} {k : ModMma} (pair : m.instr = .mmaPair h k)
include pair

theorem isPair_of : m.isPair = true := by rw [MCmd.isPair, pair]
theorem prec_of : m.prec = (k.pa1.toNat + 1, k.pb1.toNat + 1) := by rw [MCmd.prec, pair]

theorem startCmd_gone (gone : s.partnerGone m = true) : s.startCmd core m = some ((s.pairNan m).sweepTiles m.team.crew) := by
  rw [State.startCmd, pair]
  exact if_pos gone

theorem startCmd_offers {r : TeamRef} (there : s.partnerGone m = false) (partner : s.partnerRef m = some r) :
    s.startCmd core m = some { s.putMCmd { m with phase := .offered 0 } with offers := s.offers ++ [Offer.mk (core ^^^ 1) r m.pairSeq (k.pa1.toNat + 1) (k.pb1.toNat + 1) m.chunks] } := by
  rw [State.startCmd, pair]
  dsimp only
  rw [if_neg (by rw [there]; exact Bool.false_ne_true), partner, prec_of pair]
  rfl

end

/-- A withdrawn side serves another command before it offers again. -/
theorem serves_other {s : State} {core : ℕ} {y : MCmd} {h : LaneHead} {k : ModMma} (free : s.arrayFree core = true) (first : ((s.holding core).filter (fun x => x.phase != .withdrawn)).head? = some y)
    (single : y.instr = .mma h k) : ∃ s', exec (.matrixCommandStart core) s = .next s' ∧ s.slotsOnly s' ∧
      s'.matrix = (s.putMCmd { y with started := true }).matrix.map (fun x => if x.core = core ∧ x.phase = .withdrawn then { x with phase := .idle } else x) := by
  have starts : s.startCmd core y = some (s.putMCmd { y with started := true }) := by rw [State.startCmd, single]
  exact ⟨_, exec_matrixCommandStart_first free first starts, started_slotsOnly rfl rfl _ _, offerAgain_matrix _ _ _⟩

/-- The head of the commands that none of is withdrawn. -/
theorem holding_unwithdrawn {s : State} {core : ℕ} {m : MCmd} (first : (s.holding core).head? = some m) (none : ∀ y, y ∈ s.matrix → y.core = core → y.phase ≠ .withdrawn) :
    ((s.holding core).filter (fun x => x.phase != .withdrawn)).head? = some m ∧ m.phase ≠ .withdrawn := by
  have each : ∀ y, y ∈ s.holding core → y.phase ≠ .withdrawn := by
    intro y member
    have queued : y ∈ s.queuedOn core := (List.mem_filter.1 (List.mem_filter.1 member).1).1
    obtain ⟨inQueue, on⟩ := List.mem_filter.1 queued
    exact none y inQueue (by simpa using (Bool.and_eq_true_iff.1 on).1)
  refine ⟨?_, each m (List.mem_of_mem_head? first)⟩
  rw [List.filter_eq_self.2 fun y member => by simpa using each y member]
  exact first

section
variable {s : State} {core : ℕ} {m p : MCmd} {t : Team} {h : LaneHead} {k : ModMma} (pair : m.instr = .mmaPair h k)
include pair

theorem start_offers {r : TeamRef} (free : s.arrayFree core = true) (first : (s.holding core).head? = some m) (none : ∀ y, y ∈ s.matrix → y.core = core → y.phase ≠ .withdrawn)
    (there : s.partnerGone m = false) (partner : s.partnerRef m = some r) : ∃ s', exec (.matrixCommandStart core) s = .next s' ∧ s.slotsOnly s' ∧ s'.matrix = (s.putMCmd { m with phase := .offered 0 }).matrix ∧
      s'.offers = s.offers ++ [Offer.mk (core ^^^ 1) r m.pairSeq (k.pa1.toNat + 1) (k.pb1.toNat + 1) m.chunks] := by
  obtain ⟨head, _⟩ := holding_unwithdrawn first none
  refine ⟨_, exec_matrixCommandStart_first free head (startCmd_offers pair there partner), started_slotsOnly rfl rfl _ _, offerAgain_none (fun y member on => ?_) _, State.modTeam_offers _ _ _⟩
  obtain ⟨z, inQueue, is_⟩ := List.mem_map.1 member
  by_cases same : z.id = m.id
  · rw [if_pos (by exact same)] at is_
    rw [← is_]
    exact PairPhase.noConfusion
  · rw [if_neg (by exact same)] at is_
    exact is_ ▸ none z inQueue (is_ ▸ on)

theorem start_gone (here : (s.teamAt m.team).map (·.2) = some t) (free : s.arrayFree core = true) (first : (s.holding core).head? = some m) (none : ∀ y, y ∈ s.matrix → y.core = core → y.phase ≠ .withdrawn)
    (gone : s.partnerGone m = true) : ∃ s', exec (.matrixCommandStart core) s = .next s' ∧ s'.endsNan m t := by
  obtain ⟨head, _⟩ := holding_unwithdrawn first none
  exact ⟨_, exec_matrixCommandStart_first free head (startCmd_gone pair gone), endsNan_started (endsNan_sweepTiles (pairNan_endsNan here) _) _ _⟩

/-! ### The handshake of an OFFERED side -/

theorem exec_pairOffer (offered : s.offeredOn core = some m) : exec (.pairOffer core) s = .next (if s.partnerGone m then (s.pairNan m).sweepTiles m.team.crew else match s.offers.find? m.sentTo, s.partnerCmd m with
    | some o, some p =>
      if o.pa ≠ k.pa1.toNat + 1 ∨ o.pb ≠ k.pb1.toNat + 1 ∨ o.n ≠ m.chunks then (((s.pairNan m).pairNan p).sweepTiles m.team.crew).sweepTiles p.team.crew
      else if core % 2 = 0 then s.putMCmd { m with phase := .armed (s.pairNow core + 64) }
      else s
    | _, _ => s) := by
  rw [show exec (.pairOffer core) s = execPairOffer core s from rfl, execPairOffer, offered]
  dsimp only
  rw [prec_of pair] <;> rfl

end

section
variable {s : State} {core : ℕ} {m p : MCmd} (offered : s.offeredOn core = some m)
include offered

theorem exec_pairStart {n : ℕ} (partner : s.partnerCmd m = some p) : exec (.pairStart core n) s = .next (if p.phase == .armed n && core % 2 == 1 then s.putMCmd { m with phase := .armed n } else s) := by
  rw [show exec (.pairStart core n) s = execPairStart core n s from rfl, execPairStart, offered]
  dsimp only
  rw [partner]

theorem exec_pairOfferWithdraw {age : ℕ} (phase : m.phase = .offered age) (unanswered : s.offers.any m.sentTo = false) :
    exec (.pairOfferWithdraw core) s = .next (if 65536 ≤ age then { s.putMCmd { m with phase := .withdrawn } with offers := s.offers.filter (fun o => !s.sentBy m o) } else s) := by
  rw [show exec (.pairOfferWithdraw core) s = execPairOfferWithdraw core s from rfl, execPairOfferWithdraw, offered]
  dsimp only
  rw [phase, unanswered]
  simp

end

/-! ### The agreed cycle -/

/-- The ARMED command of a core. -/
def State.armedOn (s : State) (core : ℕ) : Option MCmd := s.matrix.find? (fun y => y.core == core && (match y.phase with | .armed _ => true | _ => false))

theorem exec_pairStartCycle {s : State} {core n : ℕ} {m p : MCmd} (phase : m.phase = .armed n) (armed : s.armedOn core = some m) (partner : s.partnerCmd m = some p) :
    exec (.pairStartCycle core) s = .next (if m.phase == p.phase && decide (n ≤ s.pairNow core) then
      ({ s with offers := s.offers.filter (fun o => !s.sentBy m o && !m.sentTo o) }.putMCmd { m with phase := .running, started := true }).putMCmd { p with phase := .running, started := true }
    else s) := by
  rw [show exec (.pairStartCycle core) s = .next (match s.armedOn core with
    | none => s
    | some m => match s.partnerCmd m with
      | none => s
      | some p =>
        if m.phase == p.phase && (match m.phase with | .armed t => decide (t ≤ s.pairNow core) | _ => false) then
          ({ s with offers := s.offers.filter (fun o => !s.sentBy m o && !m.sentTo o) }.putMCmd
            { m with phase := .running, started := true }).putMCmd { p with phase := .running, started := true }
        else s) from rfl, armed]
  dsimp only
  rw [partner]
  dsimp only
  rw [phase]

/-- Both sides have finished their chunks. -/
theorem exec_mmaComplete_pair {s : State} {core : ℕ} {m p : MCmd} (pair : m.isPair = true) (runs : s.runningOn core = some m) (partner : s.partnerCmd m = some p) (started : p.started = true)
    (mine : m.chunks ≤ m.cursor) (theirs : p.chunks ≤ p.cursor) (ready : s.consumeReady m = true) (ready' : s.consumeReady p = true) : exec (.mmaComplete core) s = .next ((s.finishMma m).finishMma p) := by
  rw [show exec (.mmaComplete core) s = execMmaComplete core s from rfl, execMmaComplete, runs]
  dsimp only
  rw [if_neg (by rw [ready]; simpa using mine), if_pos pair, partner]
  dsimp only
  rw [if_pos (by rw [started, ready']; simpa using theirs)]

/-- Settles O44. -/
theorem pairedMma : Obligations.PairedMma := by
  intro s core m p c t h k pair on found inQueue
  have here : (s.teamAt m.team).map (·.2) = some t := by rw [found]; rfl
  refine ⟨fun free withdrawn y h2 k2 first single => serves_other free first single, fun free first none => ⟨fun r there partner => start_offers pair free first none there partner, start_gone pair here free first none⟩,
    fun age phase offered => ⟨fun gone => ?_, fun there => ⟨fun silent => ?_, fun o answer partner => ⟨fun pa pb n => ⟨fun leads => ?_, fun follows => ?_⟩, fun unequal apart different c2 t2 partnerTeam => ?_⟩⟩,
      fun n partner => ⟨fun armed follows => ?_, fun other => ?_⟩, fun unanswered => ⟨fun old => ?_, fun young => ?_⟩⟩,
    fun n phase armed partner => ⟨fun same reached => ?_, fun other => ?_⟩, fun runs partner started different _ mine theirs ready ready' => ?_⟩
  · exact ⟨_, (exec_pairOffer pair offered).trans (by rw [if_pos gone]), endsNan_sweepTiles (pairNan_endsNan here) _⟩
  · rw [exec_pairOffer pair offered, there, if_neg Bool.false_ne_true, silent]
  · rw [exec_pairOffer pair offered, there, if_neg Bool.false_ne_true, answer, partner]
    dsimp only
    rw [if_neg (by simp [pa, pb, n]), if_pos leads]
  · rw [exec_pairOffer pair offered, there, if_neg Bool.false_ne_true, answer, partner]
    dsimp only
    rw [if_neg (by simp [pa, pb, n]), if_neg (by omega)]
  · have runs := exec_pairOffer pair offered
    rw [there, if_neg Bool.false_ne_true, answer, partner] at runs
    dsimp only at runs
    rw [if_pos unequal] at runs
    exact ⟨_, runs, bothNan here (by rw [partnerTeam]; rfl) fun same => apart (congrArg TeamRef.crew same)⟩
  · rw [exec_pairStart offered partner, armed, if_pos (by simp [follows])]
  · rw [exec_pairStart offered partner, if_neg (by
      rw [Bool.and_eq_true, beq_iff_eq, beq_iff_eq]
      rintro ⟨same, odd⟩
      exact other.elim (fun different => different same) fun even => by omega)]
  · have runs := exec_pairOfferWithdraw offered phase unanswered
    rw [if_pos old] at runs
    exact ⟨_, runs, rfl, fun o => by simp [List.mem_filter], rfl⟩
  · rw [exec_pairOfferWithdraw offered phase unanswered, if_neg (by omega)]
  · have runs := exec_pairStartCycle phase armed partner
    rw [if_pos (by rw [phase, same]; simpa using reached)] at runs
    exact ⟨_, runs, rfl, rfl⟩
  · rw [exec_pairStartCycle phase armed partner, if_neg]
    rw [phase, Bool.and_eq_true, beq_iff_eq, decide_eq_true_iff]
    rintro ⟨same, reached⟩
    exact other.elim (fun early => by omega) fun different => different same.symm
  · obtain ⟨teams, queue⟩ := finishMma_spec s m
    obtain ⟨teams', queue'⟩ := finishMma_spec (s.finishMma m) p
    refine ⟨_, exec_mmaComplete_pair (isPair_of pair) runs partner started mine theirs ready ready', fun y => ?_, ((teams.trans teams') _).trans here⟩
    rw [queue', queue, and_assoc]

end Sys2Proof.Machine

/-! ## Matrix instructions enter the matrix queue (11 R241, R242, R247, R255) -/

namespace Sys2Proof.Machine

theorem enterMatrix_eq {s : State} {m : MCmd} {c : Crew} {t : Team} (found : s.teamAt m.team = some (c, t)) (room : s.queueFull m.core = false) (f : Team → Team) :
    s.enterMatrix m f = State.putTeam { s with matrix := s.matrix ++ [m], nextCmd := s.nextCmd + 1 } m.team ((f { t with nextOrd := t.nextOrd + 1 }).laneDone none) := by
  have found' : State.teamAt { s with matrix := s.matrix ++ [m], nextCmd := s.nextCmd + 1 } m.team = some (c, t) := found
  rw [State.enterMatrix, if_neg (by rw [room]; exact Bool.false_ne_true), modTeam_eq found, putTeam_eq found, putTeam_eq found']

/-- The instruction of a team put a command into the matrix queue of its core, and is done in the lane stream. -/
def State.enters (s : State) (r : TeamRef) (c : Crew) (t : Team) (cl : Clause) (i : Instr) (f : MCmd → Team → State → Prop) : Prop :=
  ∃ (s' : State) (t' : Team) (m : MCmd), exec i s = .next s' ∧ (s'.teamAt r).map (·.2) = some t' ∧
    s'.matrix = s.matrix ++ [m] ∧ m.instr = i ∧ m.team = r ∧ m.core = c.core ∧ m.clause = cl.uid ∧ m.step = cl.step ∧ m.started = false ∧ m.cursor = 0 ∧ m.phase = .idle ∧
    t'.lidx = t.lidx + 1 ∧ t'.vregs = t.vregs ∧ t'.acc = t.acc ∧ t'.preds = t.preds ∧ s'.mem = s.mem ∧ f m t' s'

/-- A matrix command as its instruction makes it, whatever it captures. -/
structure MCmd.fresh (m : MCmd) (r : TeamRef) (c : Crew) (cl : Clause) (i : Instr) : Prop where
  instr : m.instr = i
  team : m.team = r
  core : m.core = c.core
  clause : m.clause = cl.uid
  step : m.step = cl.step
  started : m.started = false
  cursor : m.cursor = 0
  phase : m.phase = .idle

/-- What the instruction changes of its team beside its place in the stream. -/
structure Team.sameValues (t u : Team) : Prop where
  lidx : u.lidx = t.lidx
  vregs : u.vregs = t.vregs
  acc : u.acc = t.acc
  preds : u.preds = t.preds

section
variable {s : State} {r : TeamRef} {c : Crew} {t : Team} {cl : Clause} (at_ : s.laneAt r c t cl) (room : (s.queuedOn c.core).length < 8)
include at_ room

theorem enters_of {i : Instr} {m : MCmd} {f : Team → Team} {P : MCmd → Team → State → Prop} (runs : exec i s = .next (s.enterMatrix m f)) (fresh : m.fresh r c cl i)
    (same : t.sameValues (f { t with nextOrd := t.nextOrd + 1 }))
    (holds : P m ((f { t with nextOrd := t.nextOrd + 1 }).laneDone none) (State.putTeam { s with matrix := s.matrix ++ [m], nextCmd := s.nextCmd + 1 } r ((f { t with nextOrd := t.nextOrd + 1 }).laneDone none))) :
    s.enters r c t cl i P := by
  obtain ⟨⟨_, found⟩, _⟩ := at_
  obtain ⟨instr, rfl, core, clause, step, started, cursor, phase⟩ := fresh
  obtain ⟨lidx, vregs, acc, preds⟩ := same
  have free : s.queueFull m.core = false := by
    rw [State.queueFull, core, decide_eq_false (by omega), Bool.and_false]
  rw [enterMatrix_eq found free] at runs
  have found' : State.teamAt { s with matrix := s.matrix ++ [m], nextCmd := s.nextCmd + 1 } m.team = some (c, t) := found
  refine ⟨_, (f { t with nextOrd := t.nextOrd + 1 }).laneDone none, m, runs, by rw [teamAt_putTeam found']; rfl, State.putTeam_matrix _ _ _, instr, rfl, core, clause, step, started, cursor, phase, congrArg (· + 1) lidx, vregs, acc, preds, State.putTeam_mem _ _ _, holds⟩
end

/-- The registers of the sources that an instruction uses are among those of its sources. -/
theorem regs_of_named {named srcs : List Src} (each : ∀ y, y ∈ named → y = .zero ∨ y ∈ srcs) {v : ℕ} (h : v ∈ named.filterMap Src.isReg) : v ∈ srcs.filterMap Src.isReg := by
  obtain ⟨y, member, is_⟩ := List.mem_filterMap.1 h
  obtain rfl | inSrcs := each y member
  · cases is_
  · exact List.mem_filterMap.2 ⟨y, inSrcs, is_⟩

/-! ### MMA and MMA.pair -/

/-- A tile that serves as an operand of an MMA: its format and layout, its planes, the chunk range along K and the origin (11 R242). -/
def Tile.operand (tl : Tile) (isA : Bool) (q n : ℕ) (o : Coord) : Prop := tl.fmt = 14#4 ∧ tl.tagNow = (if isA then 8#4 else 9#4) ∧ q ≤ tl.planes.toNat ∧ tl.poison = [] ∧
  (let k := if isA then o.c1 else o.c0
   k % 32 = 0 ∧ k + 32 * n ≤ ((if isA then tl.n1.toNat else tl.n0.toNat) + 31) / 32 * 32) ∧
  (if isA then o.c0 < tl.n0.toNat else o.c1 < tl.n1.toNat) ∧ o.c2 < tl.n2.toNat ∧ o.c3 < tl.n3.toNat

theorem operandCauses_operand {tl : Tile} {isA : Bool} {q n : ℕ} {o : Coord} (good : tl.operand isA q n o) : operandCauses (some tl) isA q n o = [] := by
  obtain ⟨fmt, tag, planes, _, chunks, origin, c2, c3⟩ := good
  cases isA <;>
  · obtain ⟨aligned, fits⟩ := chunks
    simp only [if_true, Bool.false_eq_true, if_false] at aligned fits origin tag
    simp only [operandCauses, Bool.false_eq_true, if_true, if_false, fmt, tag, aligned, ne_eq, not_true, false_or, ceilDiv]
    rw [if_neg (by omega), if_neg (by omega)]
    rfl

theorem operandPoison_clean {tl : Tile} {isA : Bool} {q n : ℕ} {o : Coord} (clean : tl.poison = []) : operandPoison tl isA q n o = false := by
  rw [operandPoison, clean]
  rfl

section
variable {s : State} {r : TeamRef} {c : Crew} {t : Team} {cl : Clause} (at_ : s.laneAt r c t cl) (room : (s.queuedOn c.core).length < 8) (settled : t.pending = [])
include at_ settled

/-- With no access outstanding no store reaches an operand. -/
theorem regionBusy_settled {m : MCmd} (team : m.team = r) : s.regionBusy m = false := by
  obtain ⟨⟨_, found⟩, _⟩ := at_
  rw [State.regionBusy, team, found]
  dsimp only
  rw [settled]
  rfl

omit at_ in
theorem clauseFree_settled (earlier : s.clausesDone r cl.fence = true) (srcs : List Src) : s.clauseFree r (t.afterPops srcs) cl = true := by
  obtain ⟨qu, tk, pops⟩ := t.afterPops_frame srcs
  rw [State.clauseFree, pops, earlier]
  dsimp only
  rw [settled]
  rfl

omit at_ settled in
theorem laneErrAt_afterPops {srcs named : List Src} {l : ℕ} (clean : ∀ v, v ∈ named.filterMap Src.isReg → v * 1024 + l ∉ t.laneErr) : (t.afterPops srcs).laneErrAt named l = false := by
  obtain ⟨qu, tk, pops⟩ := t.afterPops_frame srcs
  exact Team.laneErrAt_eq_false fun v named => by rw [pops]; exact clean v named

include room

theorem exec_enterMma {h : LaneHead} {m : ModMma} {i : Instr} {pair : Bool} {ta : Tile} {own : Bool} (hown : own = (!pair || c.leads)) (ready : t.laneReady cl [mxS0 h, mxS1 h, mxS2 h] []) (earlier : s.clausesDone r cl.fence = true)
    (whole : t.executing cl.mask h = laneMask t.lanes) (pairs : pair = true → s.cohortSize c ≠ 1) :
    let u := t.afterPops [mxS0 h, mxS1 h, mxS2 h]
    let v (y : Src) : Word := u.src u.popped y 0
    let n := getElem 16 0 (v (mxS2 h))
    1 ≤ n → n ≤ 2047 → (v (mxS2 h)).toNat < 2 ^ 18 → c.tile m.hA = some ta → ta.operand true (m.pa1.toNat + 1) n (coordOf (v (mxS0 h))) →
    (own = true → ∃ tb, c.tile m.hB = some tb ∧ tb.operand false (m.pb1.toNat + 1) n (coordOf (v (mxS1 h)))) →
    enterMma s i h m pair = .next (s.enterMatrix { mkMCmd s r c u cl i [v (mxS0 h), v (mxS1 h), v (mxS2 h)] with
      uidA := c.captureTile m.hA.toNat, uidB := if own then c.captureTile m.hB.toNat else 0, pairSeq := if pair then u.pairSeq else 0#16 } (fun t => if pair then { t with pairSeq := t.pairSeq + 1#16 } else t)) := by
  intro u v n least most small ha opA opB
  refine (laneFrame_ready at_ ready h _).trans (congrArg Host.Outcome.next ?_)
  have free : s.queueFull c.core = false := by rw [State.queueFull, decide_eq_false (by omega), Bool.and_false]
  obtain ⟨_, _, _, _, clean⟩ := ready
  dsimp only
  rw [free, regionBusy_settled at_ settled (by rfl), clauseFree_settled settled earlier]
  have errs : operandErr u [mxS0 h, if !pair || c.leads then mxS1 h else .zero, mxS2 h] = [] := by
    refine if_neg (by
      rw [laneErrAt_afterPops fun v named => clean v (regs_of_named (fun y member => ?_) named) 0 (by decide)]
      · exact Bool.false_ne_true
      · split at member <;> simp only [List.mem_cons, List.not_mem_nil, or_false] at member ⊢ <;> grind)
  obtain ⟨qu, tk, pops⟩ := t.afterPops_frame [mxS0 h, mxS1 h, mxS2 h]
  have together : collective u (t.executing cl.mask h) = [] := if_pos (by rw [whole, show u.lanes = t.lanes from lanes_afterPops t _])
  have count : (if n = 0 ∨ 2047 < n ∨ 2 ^ 18 ≤ (v (mxS2 h)).toNat then [causeOperand] else []) = [] := if_neg (by omega)
  have single : (if (pair && s.cohortSize c == 1) = true then [causeOperand] else []) = [] := if_neg (by
    rw [Bool.and_eq_true, beq_iff_eq]
    exact fun h => pairs h.1 h.2)
  have firstOperand : operandCauses (c.tile m.hA) true (m.pa1.toNat + 1) n (coordOf (v (mxS0 h))) = [] := by rw [ha, operandCauses_operand opA]
  have secondOperand : (if (!pair || c.leads) = true then operandCauses (c.tile m.hB) false (m.pb1.toNat + 1) n (coordOf (v (mxS1 h))) else []) = [] := by
    split
    · next holds =>
      obtain ⟨tb, hb, opB⟩ := opB (hown.trans holds)
      rw [hb, operandCauses_operand opB]
    · rfl
  have clean1 : (match c.tile m.hA with | none => false | some tl => operandPoison tl true (m.pa1.toNat + 1) n (coordOf (v (mxS0 h)))) = false := by
    rw [ha]
    obtain ⟨_, _, _, unpoisoned, _⟩ := opA
    exact operandPoison_clean unpoisoned
  have clean2 : ((!pair || c.leads) && (match c.tile m.hB with | none => false | some tl => operandPoison tl false (m.pb1.toNat + 1) n (coordOf (v (mxS1 h))))) = false := by
    refine Bool.and_eq_false_imp.2 fun holds => ?_
    obtain ⟨tb, hb, _, _, _, unpoisoned, _⟩ := opB (hown.trans holds)
    rw [hb]
    exact operandPoison_clean unpoisoned
  rw [if_neg (by decide), errs, together, count, single, firstOperand, secondOperand]
  subst hown
  rw [show firstCause _ = none from rfl]
  dsimp only
  rw [if_neg (by
    rw [Bool.or_eq_true, not_or]
    exact ⟨fun h => Bool.false_ne_true (clean1.symm.trans h), fun h => Bool.false_ne_true (clean2.symm.trans h)⟩)]
end

/-! ### MZERO, MREAD and MWRITE -/

/-- An accumulator element in error that the lane's coordinates name. -/
def readErr (u : Team) (reads : Option ℕ) (at_ : Word) : Bool := match reads with | none => false | some n => u.accErrAt n (coordOf at_)

/-- Why a lane of MREAD or MWRITE faults. -/
def laneCause (u : Team) (srcs : List Src) (reads : Option ℕ) (at_ : Word) (l : ℕ) : Option ℕ :=
  if u.laneErrAt srcs l then some stUncorrectable else if !accInside (coordOf at_) then some stBounds else if readErr u reads at_ then some stUncorrectable else none

/-- What MREAD and MWRITE do once their lanes' faults are known. -/
def State.lanesEnter (s : State) (r : TeamRef) (t : Team) (cl : Clause) (x : Mask) (busy : Bool) (cmd : MCmd) (good : List ℕ) (bad : List (ℕ × ℕ × Option ℕ)) : State :=
  if busy then s
  else if good.isEmpty then (if bad.isEmpty then s.putTeam r (t.laneDone none) else s.lanesFault r cl x bad)
  else if s.queueFull cmd.core then s
  else if bad.isEmpty then s.enterMatrix cmd id
  else ({ s.modTeam r (fun t => { t with nextOrd := t.nextOrd + 1 }) with matrix := s.matrix ++ [cmd], nextCmd := s.nextCmd + 1 }).lanesFault r cl x bad

theorem enterLanes_eq (s : State) (i : Instr) (h : LaneHead) (srcs : List Src) (regs : List ℕ) (reads : Option ℕ) (val : Team → ℕ → Word) : enterLanes s i h srcs regs reads val =
    laneFrame s h srcs regs fun r c t cl x =>
      let at_ (l : ℕ) : Word := t.src t.popped (mxS0 h) l
      let cause (l : ℕ) : Option ℕ := laneCause t srcs reads (at_ l) l
      let lanes := maskLanes x t.lanes
      let good := lanes.filter (fun l => (cause l).isNone)
      s.lanesEnter r t cl x (lanes.any (fun l => readErr t reads (at_ l)) && s.accBusy r (reads.getD 0)) { mkMCmd s r c t cl i [] with laneOps := good.map (fun l => (l, at_ l, val t l)) } good
        (lanes.filterMap (fun l => (cause l).map (fun e => (l, e, none)))) := rfl

section
variable {s : State} {r : TeamRef} {c : Crew} {t : Team} {cl : Clause} (at_ : s.laneAt r c t cl) (room : (s.queuedOn c.core).length < 8)
include room

theorem queueFull_room : s.queueFull c.core = false := by rw [State.queueFull, decide_eq_false (by omega), Bool.and_false]

include at_

omit room in
theorem exec_mzero {h : LaneHead} {acc : BitVec 2} (ready : t.laneReady cl [] []) (whole : t.executing cl.mask h = laneMask t.lanes) :
    exec (.mzero h acc) s = .next (s.enterMatrix (mkMCmd s r c (t.afterPops []) cl (.mzero h acc) []) id) := by
  rw [show exec (.mzero h acc) s = execMzero h acc s from rfl, execMzero, laneFrame_ready at_ ready h]
  have together : collective (t.afterPops []) (t.executing cl.mask h) = [] := if_pos (by rw [whole, show (t.afterPops []).lanes = t.lanes from lanes_afterPops t _])
  rw [together]
  rfl

/-- The lanes of MREAD and MWRITE enter together where none of them faults. -/
theorem enterLanes_good {i : Instr} {h : LaneHead} {srcs : List Src} {regs : List ℕ} {reads : Option ℕ} {val : Team → ℕ → Word} (ready : t.laneReady cl srcs regs) (some_ : maskLanes (t.executing cl.mask h) t.lanes ≠ []) :
    let u := t.afterPops srcs
    let at_ (l : ℕ) : Word := u.src u.popped (mxS0 h) l
    (∀ n, reads = some n → ∀ l, l ∈ maskLanes (t.executing cl.mask h) t.lanes → u.accErrAt n (coordOf (at_ l)) = false) → (∀ l, l ∈ maskLanes (t.executing cl.mask h) t.lanes → accInside (coordOf (at_ l)) = true) →
    enterLanes s i h srcs regs reads val = .next (s.enterMatrix { mkMCmd s r c u cl i [] with laneOps := (maskLanes (t.executing cl.mask h) t.lanes).map (fun l => (l, at_ l, val u l)) } id) := by
  intro u at_ clean inside
  rw [enterLanes_eq]
  refine (laneFrame_ready ‹_› ready h _).trans (congrArg Host.Outcome.next ?_)
  obtain ⟨_, _, _, _, regClean⟩ := ready
  have size : u.lanes = t.lanes := lanes_afterPops t _
  have registers : ∀ l, l ∈ maskLanes (t.executing cl.mask h) t.lanes → u.laneErrAt srcs l = false := fun l member => laneErrAt_afterPops fun v named => regClean v named l (lt_of_mem_maskLanes member)
  dsimp only
  rw [show (t.afterPops srcs).lanes = t.lanes from size]
  generalize maskLanes (t.executing cl.mask h) t.lanes = lanes at *
  have none_ : ∀ P : ℕ → Bool, (∀ l, l ∈ lanes → P l = false) → lanes.any P = false := fun P each => List.any_eq_false.2 fun l member => by rw [each l member]; exact Bool.false_ne_true
  have all_ : ∀ cause : ℕ → Option ℕ, (∀ l, l ∈ lanes → cause l = none) → lanes.filter (fun l => (cause l).isNone) = lanes ∧ lanes.filterMap (fun l => (cause l).map (fun e => (l, e, (none : Option ℕ)))) = [] :=
    fun cause each => ⟨List.filter_eq_self.2 fun l member => by rw [each l member]; rfl, List.filterMap_eq_nil_iff.2 fun l member => by rw [each l member]; rfl⟩
  have errs : ∀ l, l ∈ lanes → readErr u reads (at_ l) = false := by
    intro l member
    cases reads with
    | none => rfl
    | some n => exact clean n rfl l member
  have causes : ∀ l, l ∈ lanes → laneCause u srcs reads (at_ l) l = none := by
    intro l member
    rw [laneCause, if_neg (by rw [registers l member]; exact Bool.false_ne_true), if_neg (by rw [inside l member]; decide), if_neg (by rw [errs l member]; exact Bool.false_ne_true)]
  obtain ⟨good, bad⟩ := all_ _ causes
  rw [show (lanes.filter fun l => (laneCause (t.afterPops srcs) srcs reads ((t.afterPops srcs).src (t.afterPops srcs).popped (mxS0 h) l) l).isNone) = lanes from good,
    show (lanes.filterMap fun l => (laneCause (t.afterPops srcs) srcs reads ((t.afterPops srcs).src (t.afterPops srcs).popped (mxS0 h) l) l).map fun e => (l, e, (none : Option ℕ))) = [] from bad,
    show (lanes.any fun l => readErr (t.afterPops srcs) reads ((t.afterPops srcs).src (t.afterPops srcs).popped (mxS0 h) l)) = false from none_ _ errs, Bool.false_and]
  unfold State.lanesEnter
  exact (if_neg Bool.false_ne_true).trans ((if_neg (by simpa using some_)).trans ((if_neg (show ¬ s.queueFull c.core = true by rw [queueFull_room room]; exact Bool.false_ne_true)).trans (if_pos rfl)))
end

/-! ### MDRAIN -/

/-- The checks of a destination's elements change what memory's translation keeps, no more. -/
theorem drainElems_outsideMemory (c : Crew) (h : LaneHead) (md : ModDrain) (e : CEnd) (o : List ℕ) : ∀ (cells : List (ℕ × ℕ)) (s : State), (drainElems s c h md e o cells).1.outsideMemory = s.outsideMemory
  | [], _ => rfl
  | p :: rest, s => by
    unfold drainElems
    cases e with
    | tile t => exact drainElems_outsideMemory c h md _ o rest s
    | tensor d =>
      dsimp only
      have checked := globCheck_outsideMemory s c.core (descElem d (drainAt o p.1 p.2) none).1 (ceilDiv (elemWidth h.ty) 8) true md.add
      split
      · next found => exact (drainElems_outsideMemory c h md _ o rest _).trans (outsideMemory_fst checked found)
      · next found => exact (drainElems_outsideMemory c h md _ o rest _).trans (outsideMemory_fst checked found)

/-- No element of a clean tile faults. -/
theorem drainElems_clean {tl : Tile} (clean : tl.poison = []) (s : State) (c : Crew) (h : LaneHead) (md : ModDrain) (o : List ℕ) : ∀ cells : List (ℕ × ℕ), drainElems s c h md (.tile tl) o cells = (s, [])
  | [] => rfl
  | p :: rest => by
    rw [drainElems, drainElems_clean clean s c h md o rest, clean]
    rfl

/-- The elements of a destination: its rows and columns within 128 of the origin. -/
theorem mem_drainCells {sh : Shape} {o : List ℕ} {p : ℕ × ℕ} : p ∈ drainCells sh o ↔ (p.1 < 128 ∧ o.getD 0 0 + p.1 < sh.n 0) ∧ p.2 < 128 ∧ o.getD 1 0 + p.2 < sh.n 1 := by
  obtain ⟨i, j⟩ := p
  simp [drainCells]

/-- A residual tile every element of which the drain reads cleanly. -/
theorem residCauses_clean {c : Crew} {md : ModDrain} {src : List Word} {cells : List (ℕ × ℕ)} (good : md.residual = true → ∃ res, c.tile md.res = some res ∧ res.poison = [] ∧ ∀ p, p ∈ cells → res.inside (residAt src p) = true) :
    residCauses c md src cells = [] := by
  rw [residCauses]
  split
  · rfl
  · next reads =>
    obtain ⟨res, named, clean, inside⟩ := good (by simpa using reads)
    rw [named]
    dsimp only
    rw [if_pos (List.all_eq_true.2 inside), clean]
    rfl

/-- A drain whose form is good. -/
theorem drainForm_good {c : Crew} {h : LaneHead} {md : ModDrain} {e : CEnd} {o : List ℕ} (plain : (match e with | .tile t => t.queue = false | .tensor d => descTag d ≠ 8 ∧ descTag d ≠ 9 ∧ descScm d = false)) (fmt : e.fmt = h.ty)
    (inside : e.shape.inside (0 :: 0 :: o.drop 2) = true) (resid : md.residual = true → ∃ res, c.tile md.res = some res ∧ isFloatTy res.fmt = true ∧ res.queue = false) : drainForm c h md (some e) o = [] := by
  unfold drainForm
  refine List.append_eq_nil_iff.2 ⟨?_, ?_⟩
  · dsimp only
    rw [if_neg (not_not.2 fmt), if_pos inside]
    cases e with
    | tile t =>
      dsimp only at plain ⊢
      rw [plain]
      rfl
    | tensor d =>
      obtain ⟨notA, notB, resident⟩ := plain
      dsimp only
      rw [if_neg (not_or.2 ⟨notA, notB⟩), resident]
      rfl
  · split
    · next reads =>
      obtain ⟨res, named, float, lane⟩ := resid reads
      rw [named]
      simp [float, lane]
    · rfl

section
variable {s : State} {r : TeamRef} {c : Crew} {t : Team} {cl : Clause} (at_ : s.laneAt r c t cl)
include at_

/-- A drain whose operands and elements are good enters the queue. -/
theorem exec_mdrain {h : LaneHead} {m : ModDrain} {d : CEnd} {s1 : State}
    (ready : t.laneReady cl [mxS0 h, mxS1 h, mxS2 h] ((if m.glob then nextReg (mxS0 h) h.s0 else []) ++ (if drainKeyed m then nextReg (mxS2 h) h.s2 else [])))
    (clean : ∀ y, y ∈ (if m.glob then nextReg (mxS0 h) h.s0 else []) ++ (if drainKeyed m then nextReg (mxS2 h) h.s2 else []) → y * 1024 ∉ t.laneErr)
    (whole : t.executing cl.mask h = laneMask t.lanes) (passes : t.lctr.toNat + t.lanes / 32 ≤ 65535) (ends : drainEnd c m = some d) :
    let u := t.afterPops [mxS0 h, mxS1 h, mxS2 h]
    let v := drainSrc u h m
    let o := drainOrigin m v
    drainForm c h m (some d) o = [] → d.shape.inside (0 :: 0 :: o.drop 2) = true → drainElems s c h m d o (drainCells d.shape o) = (s1, []) → residCauses c m v (drainCells d.shape o) = [] →
    exec (.mdrain h m) s = .next (s1.enterMatrix { mkMCmd s1 r c u cl (.mdrain h m) v with
      uidA := if m.glob then 0 else c.captureTile m.dest.toNat, uidB := if m.residual then c.captureTile m.res.toNat else 0
      desc := if m.glob then cellGet c.globals m.dest.toNat else 0#512 } (fun t => { t with lctr := t.lctr + BitVec.ofNat 16 (u.lanes / 32) })) := by
  intro u v o form inside elems resid
  rw [show exec (.mdrain h m) s = execMdrain h m s from rfl, execMdrain, laneFrame_ready at_ ready h]
  obtain ⟨_, _, _, _, regClean⟩ := ready
  obtain ⟨qu, tk, pops⟩ := t.afterPops_frame [mxS0 h, mxS1 h, mxS2 h]
  dsimp only
  have errs : operandErr u ([mxS0 h, if m.residual then mxS1 h else .zero, if drainKeyed m then mxS2 h else .zero] ++ ((if m.glob then nextReg (mxS0 h) h.s0 else []) ++ (if drainKeyed m then nextReg (mxS2 h) h.s2 else [])).map Src.reg) = [] := by
    refine if_neg (by
      rw [laneErrAt_afterPops fun v named => ?_]
      · exact Bool.false_ne_true
      · rw [List.filterMap_append, List.mem_append] at named
        obtain inSrcs | inRegs := named
        · refine regClean v (regs_of_named (fun y member => ?_) inSrcs) 0 (by decide)
          simp only [List.mem_cons, List.not_mem_nil, or_false] at member ⊢
          obtain rfl | is_ | is_ := member
          · exact .inr (.inl rfl)
          · split at is_
            · exact .inr (.inr (.inl is_))
            · exact .inl is_
          · split at is_
            · exact .inr (.inr (.inr is_))
            · exact .inl is_
        · obtain ⟨y, member, is_⟩ := List.mem_filterMap.1 inRegs
          obtain ⟨x, register, rfl⟩ := List.mem_map.1 member
          obtain rfl := Option.some.inj is_
          rw [Nat.add_zero]
          exact clean x register)
  have together : collective u (t.executing cl.mask h) = [] := if_pos (by rw [whole, show u.lanes = t.lanes from lanes_afterPops t _])
  have counter : ¬ 65535 < u.lctr.toNat + u.lanes / 32 := by
    rw [show u.lctr = t.lctr by rw [show u = _ from pops], show u.lanes = t.lanes from lanes_afterPops t _]
    omega
  rw [ends]
  dsimp only
  rw [errs, together, List.nil_append, List.nil_append, form]
  refine congrArg Host.Outcome.next ((if_neg Bool.false_ne_true).trans ?_)
  rw [List.nil_append, show residCauses c m (drainSrc (t.afterPops [mxS0 h, mxS1 h, mxS2 h]) h m) _ = [] from resid, if_pos (show (_ && d.shape.inside (0 :: 0 :: o.drop 2) && _) = true by rw [inside]; rfl)]
  rw [show drainElems s c h m d (drainOrigin m (drainSrc (t.afterPops [mxS0 h, mxS1 h, mxS2 h]) h m)) _ = (s1, []) from elems]
  exact if_neg counter
end

section
variable {s : State} {r : TeamRef} {c : Crew} {t : Team} {cl : Clause} (at_ : s.laneAt r c t cl) (room : (s.queuedOn c.core).length < 8) (settled : t.pending = [])
include at_ room settled

theorem mma_enters {h : LaneHead} {m : ModMma} {ta tb : Tile} (ready : t.laneReady cl [mxS0 h, mxS1 h, mxS2 h] []) (earlier : s.clausesDone r cl.fence = true) (whole : t.executing cl.mask h = laneMask t.lanes) :
    let u := t.afterPops [mxS0 h, mxS1 h, mxS2 h]
    let v (y : Src) : Word := u.src u.popped y 0
    let n := getElem 16 0 (v (mxS2 h))
    1 ≤ n → n ≤ 2047 → (v (mxS2 h)).toNat < 2 ^ 18 → c.tile m.hA = some ta → ta.operand true (m.pa1.toNat + 1) n (coordOf (v (mxS0 h))) →
    (c.tile m.hB = some tb → tb.operand false (m.pb1.toNat + 1) n (coordOf (v (mxS1 h))) →
      s.enters r c t cl (.mma h m) (fun k t' _ => k.src = [v (mxS0 h), v (mxS1 h), v (mxS2 h)] ∧ k.uidA = ta.uid ∧ k.uidB = tb.uid ∧ t'.pairSeq = t.pairSeq)) ∧
    (s.cohortSize c ≠ 1 → (c.leads = true → c.tile m.hB = some tb ∧ tb.operand false (m.pb1.toNat + 1) n (coordOf (v (mxS1 h)))) →
      s.enters r c t cl (.mmaPair h m) (fun k t' _ => k.src = [v (mxS0 h), v (mxS1 h), v (mxS2 h)] ∧ k.uidA = ta.uid ∧ k.uidB = (if c.leads then tb.uid else 0) ∧ k.pairSeq = t.pairSeq ∧ t'.pairSeq = t.pairSeq + 1#16)) := by
  intro u v n least most small ha opA
  have uidA := Crew.captureTile_some ha
  refine ⟨fun hb opB => ?_, fun pairs leads => ?_⟩
  · have runs := exec_enterMma (i := .mma h m) (own := true) (pair := false) at_ room settled rfl ready earlier whole (fun h => absurd h Bool.false_ne_true) least most small ha opA (fun _ => ⟨tb, hb, opB⟩)
    exact enters_of at_ room runs ⟨rfl, rfl, rfl, rfl, rfl, rfl, rfl, rfl⟩ ⟨rfl, rfl, rfl, rfl⟩ ⟨rfl, uidA, Crew.captureTile_some hb, rfl⟩
  · have runs := exec_enterMma (i := .mmaPair h m) (own := c.leads) (pair := true) at_ room settled rfl ready earlier whole (fun _ => pairs) least most small ha opA (fun own => ⟨tb, leads own⟩)
    have seq : u.pairSeq = t.pairSeq := by
      obtain ⟨qu, tk, pops⟩ := t.afterPops_frame [mxS0 h, mxS1 h, mxS2 h]
      rw [show u = _ from pops]
    refine enters_of at_ room runs ⟨rfl, rfl, rfl, rfl, rfl, rfl, rfl, rfl⟩ ⟨rfl, rfl, rfl, rfl⟩ ⟨rfl, uidA, ?_, seq, rfl⟩
    show (if c.leads then c.captureTile m.hB.toNat else 0) = _
    split
    · next own => exact Crew.captureTile_some (leads own).1
    · rfl

omit settled in
theorem mreadMwrite_enter {h : LaneHead} {acc : BitVec 2} (some_ : maskLanes (t.executing cl.mask h) t.lanes ≠ []) :
    (let u := t.afterPops [mxS0 h]
     let at_ (l : ℕ) : Word := u.src u.popped (mxS0 h) l
     t.laneReady cl [mxS0 h] [h.dst.toNat] → (∀ l, l ∈ maskLanes (t.executing cl.mask h) t.lanes → t.accErrAt acc.toNat (coordOf (at_ l)) = false) →
      (∀ l, l ∈ maskLanes (t.executing cl.mask h) t.lanes → accInside (coordOf (at_ l)) = true) →
     s.enters r c t cl (.mread h acc) (fun m _ _ => m.accN = acc.toNat ∧ m.laneOps = (maskLanes (t.executing cl.mask h) t.lanes).map (fun l => (l, at_ l, 0#64)))) ∧
    (let u := t.afterPops [mxS0 h, mxS1 h]
     let at_ (l : ℕ) : Word := u.src u.popped (mxS0 h) l
     t.laneReady cl [mxS0 h, mxS1 h] [] → (∀ l, l ∈ maskLanes (t.executing cl.mask h) t.lanes → accInside (coordOf (at_ l)) = true) →
     s.enters r c t cl (.mwrite h acc) (fun m _ _ => m.accN = acc.toNat ∧ m.laneOps = (maskLanes (t.executing cl.mask h) t.lanes).map (fun l => (l, at_ l, u.src u.popped (mxS1 h) l)))) := by
  refine ⟨fun ready clean inside => ?_, fun ready inside => ?_⟩
  · have runs := enterLanes_good (i := .mread h acc) (reads := some acc.toNat) (val := fun _ _ => 0#64) at_ room ready some_ (fun n named l member => by
      obtain rfl := Option.some.inj named
      obtain ⟨qu, tk, pops⟩ := t.afterPops_frame [mxS0 h]
      have : ∀ y, (t.afterPops [mxS0 h]).accErrAt acc.toNat y = t.accErrAt acc.toNat y := fun y => by rw [pops]; rfl
      exact (this _).trans (clean l member)) inside
    exact enters_of at_ room (i := .mread h acc) runs ⟨rfl, rfl, rfl, rfl, rfl, rfl, rfl, rfl⟩ ⟨rfl, rfl, rfl, rfl⟩ ⟨rfl, rfl⟩
  · have runs := enterLanes_good (i := .mwrite h acc) (reads := none) (val := fun t l => t.src t.popped (mxS1 h) l) at_ room ready some_ (fun n named => by cases named) inside
    exact enters_of at_ room (i := .mwrite h acc) runs ⟨rfl, rfl, rfl, rfl, rfl, rfl, rfl, rfl⟩ ⟨rfl, rfl, rfl, rfl⟩ ⟨rfl, rfl⟩

end

section
variable {s : State} {r : TeamRef} {c : Crew} {t : Team} {cl : Clause} (at_ : s.laneAt r c t cl) (room : (s.queuedOn c.core).length < 8)
include at_ room

/-- A drain to a tile (R255). -/
theorem mdrain_tile {h : LaneHead} {m : ModDrain} {tl res : Tile} :
    let srcs := [mxS0 h, mxS1 h, mxS2 h]
    let u := t.afterPops srcs
    let v := drainSrc u h m
    let o := coordOf (v.getD 0 0#64)
    let q := coordOf (v.getD 2 0#64)
    let more := if m.dropout || m.rm == 4#3 then nextReg (mxS2 h) h.s2 else []
    t.laneReady cl srcs more → (∀ y ∈ more, y * 1024 ∉ t.laneErr) → t.executing cl.mask h = laneMask t.lanes → t.lctr.toNat + t.lanes / 32 ≤ 65535 →
    m.glob = false → c.tile m.dest = some tl → tl.queue = false → tl.fmt = h.ty → tl.poison = [] → 0 < tl.n0.toNat → 0 < tl.n1.toNat → o.c2 < tl.n2.toNat → o.c3 < tl.n3.toNat →
    (m.residual = true → c.tile m.res = some res ∧ isFloatTy res.fmt = true ∧ res.queue = false ∧ res.poison = [] ∧
      (∀ i j, i < 128 → j < 128 → o.c0 + i < tl.n0.toNat → o.c1 + j < tl.n1.toNat → res.inside { q with c0 := q.c0 + i, c1 := q.c1 + j } = true)) →
    s.enters r c t cl (.mdrain h m) (fun k t' s' => k.src = v ∧ k.uidA = tl.uid ∧ k.uidB = (if m.residual then res.uid else 0) ∧ t'.lctr = t.lctr + BitVec.ofNat 16 (t.lanes / 32) ∧
      s' = ({ s with matrix := s.matrix ++ [k], nextCmd := s.nextCmd + 1 }).putTeam r t') := by
  intro srcs u v o q more ready clean whole passes local_ dest lane fmt unpoisoned rows columns c2 c3 resid
  have origin : drainOrigin m v = o.list := by
    rw [drainOrigin, local_]
    rfl
  have shape : CEnd.shape (.tile tl) = ⟨[tl.n0.toNat, tl.n1.toNat, tl.n2.toNat, tl.n3.toNat], tl.fmt, tl.planes.toNat, tl.layout.toNat⟩ := rfl
  have inside : (CEnd.shape (.tile tl)).inside (0 :: 0 :: o.list.drop 2) = true := by
    rw [shape]
    refine List.all_eq_true.2 fun i below => decide_eq_true ?_
    match i, List.mem_range.1 below with
    | 0, _ => exact rows
    | 1, _ => exact columns
    | 2, _ => exact c2
    | 3, _ => exact c3
    | 4, _ => exact Nat.one_pos
    | 5, _ => exact Nat.one_pos
  have regs : (if m.glob then nextReg (mxS0 h) h.s0 else []) ++ (if drainKeyed m then nextReg (mxS2 h) h.s2 else []) = more := by rw [local_]; rfl
  have ends : drainEnd c m = some (.tile tl) := by rw [drainEnd, local_, dest]; rfl
  have runs := exec_mdrain at_ (d := .tile tl) (s1 := s) (by rw [regs]; exact ready) (by rw [regs]; exact clean) whole passes ends
    (drainForm_good lane fmt (by rw [origin]; exact inside) fun reads => by
      obtain ⟨named, float, laneRes, _⟩ := resid reads
      exact ⟨res, named, float, laneRes⟩)
    (by rw [origin]; exact inside) (drainElems_clean unpoisoned s c h m _ _) (residCauses_clean fun reads => by
      obtain ⟨named, _, _, cleanRes, within⟩ := resid reads
      refine ⟨res, named, cleanRes, fun p member => ?_⟩
      obtain ⟨⟨row, belowRows⟩, column, belowColumns⟩ := mem_drainCells.1 member
      rw [show drainOrigin m (drainSrc (t.afterPops [mxS0 h, mxS1 h, mxS2 h]) h m) = o.list from origin] at belowRows belowColumns
      exact within p.1 p.2 row column belowRows belowColumns)
  have size : u.lanes = t.lanes := lanes_afterPops t _
  refine enters_of at_ room runs ⟨rfl, rfl, rfl, rfl, rfl, rfl, rfl, rfl⟩ ⟨rfl, rfl, rfl, rfl⟩ ⟨rfl, ?_, ?_, congrArg (fun n => t.lctr + BitVec.ofNat 16 (n / 32)) size, rfl⟩
  · show (if m.glob then 0 else c.captureTile m.dest.toNat) = _
    rw [local_]
    exact Crew.captureTile_some dest
  · show (if m.residual then c.captureTile m.res.toNat else 0) = _
    split
    · next reads => exact Crew.captureTile_some (resid reads).1
    · rfl

/-- A drain to a global tensor, whose pages the check reaches. -/
theorem mdrain_tensor {h : LaneHead} {m : ModDrain} {s1 : State} :
    let srcs := [mxS0 h, mxS1 h, mxS2 h]
    let u := t.afterPops srcs
    let v := drainSrc u h m
    let d := cellGet c.globals m.dest.toNat
    let o := drainOrigin m v
    let more := nextReg (mxS0 h) h.s0 ++ if m.dropout || m.rm == 4#3 then nextReg (mxS2 h) h.s2 else []
    t.laneReady cl srcs more → (∀ y ∈ more, y * 1024 ∉ t.laneErr) → t.executing cl.mask h = laneMask t.lanes → t.lctr.toNat + t.lanes / 32 ≤ 65535 →
    m.glob = true → m.residual = false → d ≠ 0#512 → descFmt d = h.ty → descTag d ≠ 8 → descTag d ≠ 9 → descScm d = false → (descShape d).inside (0 :: 0 :: o.drop 2) = true →
    drainElems s c h m (.tensor d) o (drainCells (descShape d) o) = (s1, []) →
    ∃ (t' : Team) (k : MCmd), exec (.mdrain h m) s = .next (({ s1 with matrix := s1.matrix ++ [k], nextCmd := s1.nextCmd + 1 }).putTeam r t') ∧ k.instr = .mdrain h m ∧ k.team = r ∧ k.src = v ∧ k.desc = d ∧
      k.step = cl.step ∧ t'.lidx = t.lidx + 1 ∧ t'.vregs = t.vregs ∧ t'.acc = t.acc ∧ t'.lctr = t.lctr + BitVec.ofNat 16 (t.lanes / 32) := by
  intro srcs u v d o more ready clean whole passes global alone bound fmt notA notB resident inside elems
  have regs : (if m.glob then nextReg (mxS0 h) h.s0 else []) ++ (if drainKeyed m then nextReg (mxS2 h) h.s2 else []) = more := by rw [global]; rfl
  have ends : drainEnd c m = some (.tensor d) := by
    rw [drainEnd, global, if_pos rfl]
    exact if_neg bound
  have runs := exec_mdrain at_ (d := .tensor d) (s1 := s1) (by rw [regs]; exact ready) (by rw [regs]; exact clean) whole passes ends
    (drainForm_good ⟨notA, notB, resident⟩ fmt inside fun reads => absurd (alone.symm.trans reads) Bool.false_ne_true) inside elems
    (residCauses_clean fun reads => absurd (alone.symm.trans reads) Bool.false_ne_true)
  have size : u.lanes = t.lanes := lanes_afterPops t _
  have frame : s1.outsideMemory = s.outsideMemory := by
    have := drainElems_outsideMemory c h m (.tensor d) o (drainCells (descShape d) o) s
    rwa [elems] at this
  have crews : s1.crews = s.crews := (congrArg State.crews frame :)
  have found : s1.teamAt r = some (c, t) := by
    obtain ⟨⟨_, found⟩, _⟩ := at_
    rw [State.teamAt, State.crewAt, crews]
    exact found
  have free : s1.queueFull c.core = false := by
    refine (Eq.trans ?_ (queueFull_room room) : s1.queueFull c.core = false)
    have queued : s1.queuedOn c.core = s.queuedOn c.core := by
      unfold State.queuedOn State.crewAt
      rw [crews, show s1.matrix = s.matrix from (congrArg State.matrix frame :)]
    rw [State.queueFull, State.queueFull, queued, show s1.quiescing = s.quiescing from (congrArg State.quiescing frame :)]
  rw [enterMatrix_eq (c := c) (t := t) (by exact found) (by exact free)] at runs
  refine ⟨_, _, runs, rfl, rfl, rfl, ?_, rfl, rfl, rfl, rfl, congrArg (fun n => t.lctr + BitVec.ofNat 16 (n / 32)) size⟩
  exact if_pos global

end

/-- The coordinates of MREAD and MWRITE within an accumulator, as the rule gives them. -/
theorem accInside_of {y : Coord} (h : y.c0 ≤ 127 ∧ y.c1 ≤ 126 ∧ y.c2 = 0 ∧ y.c3 = 0) : accInside y = true := decide_eq_true h

/-- Settles O42. -/
theorem matrixInstructions : Obligations.MatrixInstructions := by
  intro s r c t cl h at_ room settled
  refine ⟨fun m ta tb => ?_, fun acc ready whole => ?_, fun acc some_ => ?_, fun m tl res => ?_, fun m s1 => ?_⟩
  · intro srcs u v n ready earlier whole least most small ha opA
    exact mma_enters at_ room settled ready earlier whole least most small ha opA
  · exact enters_of at_ room (exec_mzero at_ ready whole) ⟨rfl, rfl, rfl, rfl, rfl, rfl, rfl, rfl⟩ ⟨rfl, rfl, rfl, rfl⟩ rfl
  · obtain ⟨reads, writes⟩ := mreadMwrite_enter (acc := acc) at_ room some_
    exact ⟨fun ready clean inside => reads ready clean fun l member => accInside_of (inside l member), fun ready inside => writes ready fun l member => accInside_of (inside l member)⟩
  · exact mdrain_tile at_ room
  · exact mdrain_tensor at_ room

end Sys2Proof.Machine

/-! ## The elements of engine commands: a tensor of the reserved format (12 R263)

An element of the reserved format 15 has no bits, so that a page bound for its zero bytes says nothing of its address. -/

namespace Sys2Proof.Machine

/-- A tensor of one element of format 15. -/
def reservedTensor : BitVec 512 :=
  BitVec.ofNat 512 (15 * 2 ^ 64 + ((List.range 6).map fun i => 2 ^ (128 + 32 * i)).sum)

/-- A memory that holds a valid entry at address 0, and no range. -/
def unrangedState : State := { State.reset with mem := writeLE [] 0 8 1 }

def plainCommand : Command :=
  { id := 0, xred := false, crew := 0, team := 0, core := 0, ticket := 0#48, words := 0#256, swin := 0#256, dwin := 0#256, sdesc := 0#512, ddesc := 0#512, suid := 0, duid := 0, guid := 0, ord := 0, clauses := 0 }

theorem reservedTensor_bound : unrangedState.pageBound (descBase reservedTensor + (descShape reservedTensor).bitOf [0, 0, 0, 0, 0, 0] / 8) (ceilDiv (elemWidth (descFmt reservedTensor)) 8) 0 1#64 false := by
  refine ⟨by decide, ⟨0, 0, 0, 0⟩, fun i h => absurd h (by decide +revert), by decide, by decide, by decide, by decide, fun h => absurd h (by decide), by decide, by decide⟩

/-- Refutes O27: the element of a tensor of the reserved format 15 has no bytes, so that a page is bound for it though no range holds its address; the statement gives its read a value and the code TRANSLATION. -/
theorem not_commandSignals : ¬ Obligations.CommandSignals := by
  intro h
  obtain ⟨_, _, _, reads, _⟩ := h
  obtain ⟨_, _, tensors, _⟩ := reads unrangedState plainCommand [0, 0, 0, 0, 0, 0]
  obtain ⟨raw, _⟩ := tensors reservedTensor (by decide) (by decide)
  obtain ⟨value, code⟩ := raw (by decide)
  obtain ⟨s1, read, _⟩ := value 0 1#64 reservedTensor_bound rfl
  have translation := code rfl
  rw [read] at translation
  cases translation

end Sys2Proof.Machine

/-! ## Test leases (13 R294 to R298; 20 R380 to R388) -/

namespace Sys2Proof.Machine

/-! ### Units of which none is DUE or DEFERRED -/

/-- No unit is DUE or DEFERRED. -/
def State.calm (s : State) : Prop := ∀ u, (s.unit u).state ≠ 1 ∧ (s.unit u).state ≠ 2

theorem calm_of_units {s : State} (quiet : ∀ y, y ∈ s.units → (s.unit y.u).state ≠ 1 ∧ (s.unit y.u).state ≠ 2) : s.calm := by
  intro u
  cases found : s.units.find? (fun x => x.u == u) with
  | none =>
    have default : s.unit u = defaultUnit u := by rw [State.unit, found]; rfl
    rw [default]
    cases u with
    | core g p =>
      show (if p = 4 then 6 else 0) ≠ 1 ∧ (if p = 4 then 6 else 0) ≠ 2
      split <;> decide
    | channel r c =>
      show (if c = 32 then 6 else 0) ≠ 1 ∧ (if c = 32 then 6 else 0) ≠ 2
      split <;> decide
    | port p => exact ⟨Nat.zero_ne_one, Nat.zero_ne_add_one 1⟩
    | scm j => exact ⟨Nat.zero_ne_one, Nat.zero_ne_add_one 1⟩
    | slice g => exact ⟨Nat.zero_ne_one, Nat.zero_ne_add_one 1⟩
  | some x =>
    have name : x.u = u := beq_iff_eq.1 (List.find?_some (p := fun x : LeasedUnit => x.u == u) found)
    exact name ▸ quiet x (List.mem_of_find?_eq_some found)

theorem calm_putUnit {s : State} {x : LeasedUnit} (calm : s.calm) (one : x.state ≠ 1) (two : x.state ≠ 2) : (s.putUnit x).calm := by
  intro u
  by_cases same : x.u = u
  · rw [unit_putUnit s same]
    exact ⟨one, two⟩
  · rw [unit_putUnit_other s same]
    exact calm u

theorem advanceLease_rests {s : State} {u : DevUnit} (one : (s.unit u).state ≠ 1) (two : (s.unit u).state ≠ 2) : s.advanceLease u = s := by
  unfold State.advanceLease
  dsimp only
  rw [if_neg fun h => one h.1, if_neg fun h => two h.1]

theorem advanceLeases_calm {s : State} (calm : s.calm) : s.advanceLeases = s := foldl_fixed fun u _ => advanceLease_rests (calm u).1 (calm u).2

/-! ### Rotation slots (R380) -/

@[simp] theorem unit_useSlot (s : State) (u v : DevUnit) : (s.useSlot u).unit v = s.unit v := rfl

theorem slotsTaken_useSlot (s : State) (u : DevUnit) : (s.useSlot u).slotsTaken u = s.slotsTaken u + 1 := by
  have found : ((s.useSlot u).slotsUsed.find? fun p => p.1 == groupHead u) = some (groupHead u, s.slotsTaken u + 1) := find?_upsert (by simp) _
  rw [State.slotsTaken, found]
  rfl

theorem slotsTaken_of {s s' : State} (slots : s'.slotsUsed = s.slotsUsed) (u : DevUnit) : s'.slotsTaken u = s.slotsTaken u := by rw [State.slotsTaken, slots]; rfl

/-- No other unit of the group is under lease or waits for one. -/
def State.alone (s : State) (u : DevUnit) : Prop := ∀ v, v ∈ groupUnits u → v ≠ u → (s.unit v).state = 0 ∨ (s.unit v).state = 6 ∨ (s.unit v).state = 7

theorem groupBusy_alone {s s' : State} {u : DevUnit} (alone : s.alone u) (others : ∀ v, v ≠ u → s'.unit v = s.unit v) : s'.groupBusy u = false := by
  refine List.any_eq_false.2 fun v member => ?_
  by_cases same : v = u
  · rw [same]; simp
  · have := alone v member same
    rw [others v same, Bool.and_eq_true, decide_eq_true_iff]
    omega

theorem leaseTurn_alone {s s' : State} {u : DevUnit} (alone : s.alone u) (others : ∀ v, v ≠ u → s'.unit v = s.unit v) : s'.leaseTurn u = true := by
  refine List.all_eq_true.2 fun v member => ?_
  by_cases same : v = u
  · rw [same]; simp
  · have := alone v member same
    have waits : ((s'.unit v).state != 1) = true := by
      rw [others v same, bne_iff_ne]
      omega
    dsimp only
    rw [waits, Bool.or_true, Bool.true_or, Bool.true_or]

/-- A unit that is DUE moves on: a core to DEFERRED while R297 holds, else to DRAINING. -/
def State.movesOn (s : State) (u : DevUnit) : State :=
  match u with
  | .core _ _ => if s.defers (s.unit u).slot then s.putUnit { s.unit u with state := 2 } else s.enterDraining (s.unit u)
  | _ => s.enterDraining (s.unit u)

theorem advanceLease_due {s s' : State} {u : DevUnit} (alone : s.alone u) (others : ∀ v, v ≠ u → s'.unit v = s.unit v) (active : s'.active = true) (due : (s'.unit u).state = 1)
    (idle : ∀ r c, u = .channel r c → (s'.spareOf u).isSome = true) : s'.advanceLease u = s'.movesOn u := by
  have free : ∀ b : Bool, b = true → (s'.active && !s'.groupBusy u && s'.leaseTurn u && b) = true := fun b h => by
    rw [active, groupBusy_alone alone others, leaseTurn_alone alone others, h]
    rfl
  unfold State.advanceLease State.movesOn
  cases u with
  | channel r c => exact if_pos ⟨due, free _ (idle r c rfl)⟩
  | _ => exact if_pos ⟨due, free _ rfl⟩

/-- The unit of a slot that has arrived, DUE. -/
def State.dueNow (s : State) (u : DevUnit) : State := (s.useSlot u).makeDue u false

theorem dueNow_frame (s : State) (u : DevUnit) : (s.dueNow u).capGen = s.capGen ∧ (s.dueNow u).events = s.events ∧ (s.dueNow u).closedCores = s.closedCores ∧ (s.dueNow u).crews = s.crews := by
  unfold State.dueNow State.makeDue State.useSlot State.putUnit
  exact ⟨rfl, rfl, rfl, rfl⟩

theorem dueNow_kept (s : State) (u : DevUnit) : (s.dueNow u).active = s.active ∧ (s.dueNow u).mem = s.mem ∧ (s.dueNow u).launches = s.launches ∧ (s.dueNow u).slotsUsed = (s.useSlot u).slotsUsed := by
  unfold State.dueNow State.makeDue State.putUnit State.active
  exact ⟨rfl, rfl, rfl, rfl⟩

theorem dueNow_unit (s : State) (u : DevUnit) : ((s.dueNow u).unit u) = { s.unit u with state := 1, early := false, due := s.nextDue, deferred := 0 } := unit_putUnit (s.useSlot u) (s.unit_u u)

theorem dueNow_others (s : State) (u : DevUnit) {v : DevUnit} (other : v ≠ u) : (s.dueNow u).unit v = s.unit v := by
  have name : ({ (s.useSlot u).unit u with state := 1, early := false, due := (s.useSlot u).nextDue, deferred := 0 } : LeasedUnit).u = u := s.unit_u u
  exact unit_putUnit_other (s.useSlot u) (x := { (s.useSlot u).unit u with state := 1, early := false, due := (s.useSlot u).nextDue, deferred := 0 }) (by rw [name]; exact other.symm)

/-- DRAINING changes the units, what the lease closes and the capacity's generation. -/
def State.drainsTo (s s' : State) (u : DevUnit) : Prop := (s'.unit u).state = 3 ∧ (s'.unit u).slot = (s.unit u).slot ∧ s'.capGen = s.capGen + 1#32 ∧ s'.slotsUsed = s.slotsUsed ∧ s'.mem = s.mem ∧ s'.launches = s.launches

/-- A unit's own part of DRAINING. -/
theorem draining_unit (s : State) (x : LeasedUnit) : (s.putUnit { x with state := 3, drained := 0, moved := [] }).unit x.u = { x with state := 3, drained := 0, moved := [] } := unit_putUnit s rfl

theorem enterDraining_core {s : State} {x : LeasedUnit} {g p : ℕ} (name : x.u = .core g p) : ∃ vacant, s.enterDraining x =
    State.capacityChange { s.putUnit { x with state := 3, drained := 0, moved := [] } with closedCores := natInsert x.slot s.closedCores, vacantCores := vacant } := by
  unfold State.enterDraining
  dsimp only
  rw [name]
  exact ⟨_, rfl⟩

theorem enterDraining_channel {s : State} {x : LeasedUnit} {r c : ℕ} (name : x.u = .channel r c) : s.enterDraining x = State.capacityChange (s.putUnit { x with state := 3, drained := 0, moved := [] }) := by
  unfold State.enterDraining
  dsimp only
  rw [name]

theorem enterDraining_port {s : State} {x : LeasedUnit} {p : ℕ} (name : x.u = .port p) : s.enterDraining x = State.capacityChange ((s.putUnit { x with state := 3, drained := 0, moved := [] }).portDown p 5) := by
  unfold State.enterDraining
  dsimp only
  rw [name]

theorem State.onlyPorts_portDown (s : State) (p st : ℕ) : s.onlyPorts (s.portDown p st) := by
  unfold State.portDown
  have moved : s.onlyPorts (s.putPort p { s.portAt p with unacked := [], txSeq := 0#16, rxSeq := 0#16, nakSeq := 0#16, naks := 0 }) := ⟨s.outbox, _, s.perf, s.events, s.evSeq, rfl⟩
  exact (moved.trans (State.onlyPorts_portTo _ p st)).trans (State.onlyPorts_foldl (fun u f => (u.onlySends_route f).onlyPorts) _ _)

/-- A port that leaves the links is in its new state. -/
theorem portDown_state {s : State} {p st : ℕ} {q : Port} (hq : s.ports[p]? = some q) (notUp : st ≠ 3) : ((s.portDown p st).ports[p]?).map (·.state) = some st := by
  have inside : p < s.ports.length := (List.getElem?_eq_some_iff.1 hq).1
  unfold State.portDown
  dsimp only
  rw [portAt_of hq]
  have at_ : (s.putPort p { q with unacked := [], txSeq := 0#16, rxSeq := 0#16, nakSeq := 0#16, naks := 0 }).ports[p]? = some { q with unacked := [], txSeq := 0#16, rxSeq := 0#16, nakSeq := 0#16, naks := 0 } := List.getElem?_set_self inside
  obtain ⟨q', there, state⟩ : ∃ q', ((s.putPort p { q with unacked := [], txSeq := 0#16, rxSeq := 0#16, nakSeq := 0#16, naks := 0 }).portTo p st).ports[p]? = some q' ∧ q'.state = st := by
    by_cases same : q.state = st
    · refine ⟨{ q with unacked := [], txSeq := 0#16, rxSeq := 0#16, nakSeq := 0#16, naks := 0 }, ?_, same⟩
      rw [State.portTo, at_]
      dsimp only
      rw [if_pos same, at_]
    · rw [portTo_changes at_ same]
      exact ⟨_, List.getElem?_set_self (by simpa [State.putPort] using inside), rfl⟩
  rw [(routes_spec there (by rw [state]; exact notUp) q.unacked).1, Option.map_some, state]

theorem enterDraining_portState {s : State} {x : LeasedUnit} {p : ℕ} {q : Port} (name : x.u = .port p) (hq : s.ports[p]? = some q) : ((s.enterDraining x).ports[p]?).map (·.state) = some 5 := by
  rw [enterDraining_port name]
  generalize formS : s.putUnit { x with state := 3, drained := 0, moved := [] } = s1
  have hq1 : s1.ports[p]? = some q := by subst formS; exact hq
  exact portDown_state hq1 (by decide)

theorem raised_of_events {s s1 s' : State} {kind n : ℕ} (same : s1.events = s.events) (h : raised s1 s' kind n) : raised s s' kind n := by
  obtain ⟨es, events, rest⟩ := h
  exact ⟨es, same ▸ events, rest⟩

theorem capacityChange_raised (s : State) : raised s s.capacityChange 5 1 := by
  unfold State.capacityChange
  dsimp only
  generalize formS : ({ s with capGen := s.capGen + 1#32, crews := _ } : State) = s1
  exact raised_of_events (by subst formS; rfl) (raise_raised s1 0 0 0 _ (kind := 5) (by decide))

/-- A core that drains is closed, and the teams hear of a capacity change. -/
theorem enterDraining_closes {s : State} {x : LeasedUnit} {g p : ℕ} (name : x.u = .core g p) : x.slot ∈ (s.enterDraining x).closedCores ∧ raised s (s.enterDraining x) 5 1 := by
  obtain ⟨vacant, form⟩ := enterDraining_core (s := s) name
  rw [form]
  generalize formS : ({ s.putUnit { x with state := 3, drained := 0, moved := [] } with closedCores := natInsert x.slot s.closedCores, vacantCores := vacant } : State) = s1
  have closed : s1.closedCores = natInsert x.slot s.closedCores := by subst formS; rfl
  have events : s1.events = s.events := by subst formS; rfl
  refine ⟨?_, raised_of_events events (capacityChange_raised s1)⟩
  have kept : s1.capacityChange.closedCores = s1.closedCores := rfl
  rw [kept, closed]
  exact mem_natInsert.2 (.inl rfl)

/-- What DRAINING leaves of what a lease's rule names. -/
theorem enterDraining_drains (s : State) {u : DevUnit} {x : LeasedUnit} (name : x.u = u) (slot : x.slot = (s.unit u).slot) (leased : (∃ g p, u = .core g p) ∨ (∃ r c, u = .channel r c) ∨ ∃ p, u = .port p) :
    s.drainsTo (s.enterDraining x) u := by
  subst name
  have unit := draining_unit s x
  obtain ⟨g, p, name⟩ | ⟨r, c, name⟩ | ⟨p, name⟩ := leased
  · obtain ⟨vacant, form⟩ := enterDraining_core (s := s) name
    rw [form]
    exact ⟨congrArg LeasedUnit.state unit, (congrArg LeasedUnit.slot unit).trans slot, rfl, rfl, rfl, rfl⟩
  · rw [enterDraining_channel name]
    exact ⟨congrArg LeasedUnit.state unit, (congrArg LeasedUnit.slot unit).trans slot, rfl, rfl, rfl, rfl⟩
  · rw [enterDraining_port name]
    obtain ⟨o, ps, pf, e, n, down⟩ := (s.putUnit { x with state := 3, drained := 0, moved := [] }).onlyPorts_portDown p 5
    rw [down]
    exact ⟨congrArg LeasedUnit.state unit, (congrArg LeasedUnit.slot unit).trans slot, rfl, rfl, rfl, rfl⟩

section
variable {s : State} {u : DevUnit}

theorem exec_leaseDue : exec (.leaseDue u) s = .next (
    if !s.slotIsDue u then s.advanceLease u
    else if !s.leasable u then s.useSlot u
    else if (s.unit u).state = 0 then (if s.noChannelLease u then s.useSlot u else (s.dueNow u).advanceLease u)
    else if (s.unit u).state = 6 then (if s.mayTestSpare u then (s.useSlot u).putUnit { s.unit u with state := 4, replaced := false } else s)
    else (s.useSlot u).advanceLease u) := rfl

variable (active : s.active = true) (due : s.slotIsDue u = true) (leasable : s.leasable u = true) (alone : s.alone u)
include active due leasable alone

/-- A spare goes to its test at once. -/
theorem leaseDue_spare (spare : (s.unit u).state = 6) : exec (.leaseDue u) s = .next ((s.useSlot u).putUnit { s.unit u with state := 4, replaced := false }) := by
  have may : s.mayTestSpare u = true := by
    rw [State.mayTestSpare, active, groupBusy_alone alone fun _ _ => rfl]
    refine List.all_eq_true.2 fun v member => bne_iff_ne.2 ?_
    by_cases same : v = u
    · rw [same, spare]; decide
    · have := alone v member same
      omega
  rw [exec_leaseDue, due, leasable, if_neg (by decide), if_neg (by decide), if_neg (by rw [spare]; decide), if_pos spare, if_pos may]

variable (inService : (s.unit u).state = 0)
include inService

omit active alone in
theorem leaseDue_inService (idle : s.noChannelLease u = false) : exec (.leaseDue u) s = .next ((s.dueNow u).advanceLease u) := by
  rw [exec_leaseDue, due, leasable, if_neg (by decide), if_neg (by decide), if_pos inService, idle, if_neg Bool.false_ne_true]

theorem leaseDue_moves (idle : s.noChannelLease u = false) (spare : ∀ r c, u = .channel r c → ((s.dueNow u).spareOf u).isSome = true) : exec (.leaseDue u) s = .next ((s.dueNow u).movesOn u) := by
  rw [leaseDue_inService due leasable inService idle, advanceLease_due alone (fun v other => dueNow_others s u other) ((dueNow_kept s u).1.trans active) (by rw [dueNow_unit]) spare]

end

/-- A lease in its slot is DRAINING, with a capacity change. -/
def State.leaseDrains (s s' : State) (u : DevUnit) : Prop := (s'.unit u).state = 3 ∧ (s'.unit u).slot = (s.unit u).slot ∧ s'.capGen = s.capGen + 1#32 ∧ s'.slotsTaken u = s.slotsTaken u + 1 ∧ s'.mem = s.mem ∧ s'.launches = s.launches

theorem leaseDrains_dueNow (s : State) {u : DevUnit} (leased : (∃ g p, u = .core g p) ∨ (∃ r c, u = .channel r c) ∨ ∃ p, u = .port p) : s.leaseDrains ((s.dueNow u).enterDraining ((s.dueNow u).unit u)) u := by
  obtain ⟨state, slot, gen, slots, mem, launches⟩ := enterDraining_drains (s.dueNow u) ((s.dueNow u).unit_u u) rfl leased
  obtain ⟨gen', -⟩ := dueNow_frame s u
  obtain ⟨-, mem', launches', slots'⟩ := dueNow_kept s u
  refine ⟨state, slot.trans (by rw [dueNow_unit]), gen'.subst (motive := fun n => _ = n + 1#32) gen, ?_, mem.trans mem', launches.trans launches'⟩
  rw [slotsTaken_of slots, slotsTaken_of slots', slotsTaken_useSlot]

/-- The idle channel of a stack stands in for another. -/
theorem idleChannel {s : State} {r c : ℕ} {v : DevUnit} (member : v ∈ groupUnits (.channel r c)) (idle : (s.unit v).state = 6) : s.noChannelLease (.channel r c) = false := by
  obtain ⟨i, inRange, rfl⟩ := List.mem_map.1 member
  rw [State.noChannelLease, State.noIdle]
  refine List.all_eq_false.2 ⟨i, inRange, ?_⟩
  rw [idle]
  decide

theorem spareOf_dueNow {s : State} {r c : ℕ} {v : DevUnit} (member : v ∈ groupUnits (.channel r c)) (other : v ≠ .channel r c) (idle : (s.unit v).state = 6) : ((s.dueNow (.channel r c)).spareOf (.channel r c)).isSome = true := by
  refine List.find?_isSome.2 ⟨v, member, ?_⟩
  rw [dueNow_others s _ other, idle]
  simpa using other

section
variable {s : State} {u : DevUnit} (active : s.active = true) (due : s.slotIsDue u = true) (leasable : s.leasable u = true) (alone : s.alone u)
include active due leasable alone

theorem leaseDue_core {g p : ℕ} (name : u = .core g p) (inService : (s.unit u).state = 0) :
    (s.defers (s.unit u).slot = false → ∃ s', exec (.leaseDue u) s = .next s' ∧ s.leaseDrains s' u ∧ (s.unit u).slot ∈ s'.closedCores ∧ raised s s' 5 1) ∧
    (s.defers (s.unit u).slot = true → ∃ s', exec (.leaseDue u) s = .next s' ∧ (s'.unit u).state = 2 ∧ s'.capGen = s.capGen ∧ s'.closedCores = s.closedCores ∧ s'.crews = s.crews) := by
  subst name
  have runs := leaseDue_moves active due leasable alone inService rfl fun r c h => DevUnit.noConfusion h
  have drains := leaseDrains_dueNow s (.inl ⟨g, p, rfl⟩)
  have slot : ((s.dueNow (.core g p)).unit (.core g p)).slot = (s.unit (.core g p)).slot := by rw [dueNow_unit]
  have sameDefers : (s.dueNow (.core g p)).defers (s.unit (.core g p)).slot = s.defers (s.unit (.core g p)).slot := rfl
  obtain ⟨gen, events, closed, crews⟩ := dueNow_frame s (.core g p)
  generalize s.dueNow (.core g p) = s1 at *
  have moves : s1.movesOn (.core g p) = if s1.defers (s1.unit (.core g p)).slot then s1.putUnit { s1.unit (.core g p) with state := 2 } else s1.enterDraining (s1.unit (.core g p)) := rfl
  rw [moves, slot, sameDefers] at runs
  have name := s1.unit_u (.core g p)
  refine ⟨fun free => ?_, fun held => ?_⟩
  · rw [free, if_neg Bool.false_ne_true] at runs
    obtain ⟨inside, told⟩ := enterDraining_closes (s := s1) name
    exact ⟨_, runs, drains, slot ▸ inside, raised_of_events events told⟩
  · rw [held, if_pos rfl] at runs
    exact ⟨_, runs, congrArg LeasedUnit.state (unit_putUnit s1 (x := { s1.unit (.core g p) with state := 2 }) name), gen, closed, crews⟩

theorem leaseDue_port {p : ℕ} {q : Port} (name : u = .port p) (inService : (s.unit u).state = 0) (hq : s.ports[p]? = some q) :
    ∃ s', exec (.leaseDue u) s = .next s' ∧ s.leaseDrains s' u ∧ (s'.ports[p]?).map (·.state) = some 5 := by
  subst name
  have runs := leaseDue_moves active due leasable alone inService rfl fun r c h => DevUnit.noConfusion h
  refine ⟨_, runs, leaseDrains_dueNow s (.inr (.inr ⟨p, rfl⟩)), ?_⟩
  generalize formS : s.dueNow (.port p) = s1
  have hq1 : s1.ports[p]? = some q := by subst formS; exact hq
  exact enterDraining_portState (s1.unit_u (.port p)) hq1

theorem leaseDue_channel {r c : ℕ} {v : DevUnit} (name : u = .channel r c) (inService : (s.unit u).state = 0) (member : v ∈ groupUnits u) (other : v ≠ u) (idle : (s.unit v).state = 6) :
    ∃ s', exec (.leaseDue u) s = .next s' ∧ s.leaseDrains s' u := by
  subst name
  have runs := leaseDue_moves active due leasable alone inService (idleChannel member idle) fun r' c' h => by
    obtain ⟨rfl, rfl⟩ := DevUnit.channel.inj h
    exact spareOf_dueNow member other idle
  exact ⟨_, runs, leaseDrains_dueNow s (.inr (.inl ⟨r, c, rfl⟩))⟩

theorem leaseDue_spareTests (spare : (s.unit u).state = 6) : ∃ s', exec (.leaseDue u) s = .next s' ∧ (s'.unit u).state = 4 ∧ s'.slotsTaken u = s.slotsTaken u + 1 ∧ s'.capGen = s.capGen ∧ s'.crews = s.crews :=
  ⟨_, leaseDue_spare active due leasable alone spare, congrArg LeasedUnit.state (unit_putUnit (s.useSlot u) (x := { s.unit u with state := 4, replaced := false }) (s.unit_u u)), slotsTaken_useSlot s u, rfl, rfl⟩

end

theorem leaseDue_early {s : State} {u : DevUnit} (early : s.slotIsDue u = false) (stands : (s.unit u).state = 0 ∨ (s.unit u).state = 6) : exec (.leaseDue u) s = .next s := by
  rw [exec_leaseDue, early, if_pos (by decide), advanceLease_rests (by omega) (by omega)]

theorem leaseDue_unleasable {s : State} {u : DevUnit} (due : s.slotIsDue u = true) (none_ : s.leasable u = false) : exec (.leaseDue u) s = .next (s.useSlot u) := by
  rw [exec_leaseDue, due, none_, if_neg (by decide), if_pos (by decide)]

end Sys2Proof.Machine

/-! ## What else happens to a crew under a lease (13 R296 to R298) -/

namespace Sys2Proof.Machine

/-! ### The word of a capacity change -/

/-- A write of an element that no MMA holds, of a crew's tile that Comet does not track. -/
theorem tileWrite_untracked {s : State} {k : ℕ} {c : Crew} (hc : s.crewAt k = some c) {tl : Tile} {x : Coord} (uid : c.tileUid tl.uid = some tl) (free : s.mmaHeld k tl.uid x = false) (untracked : tl.tracked = false)
    (v : ℕ) (step : BitVec 32) : s.tileWrite k tl.uid x none v step true = .ok (s.putTile k ((tl.write x none v).setTag x none true)) := by
  unfold State.tileWrite State.tileUpdate
  simp only [hc, uid, free, untracked]
  rfl

/-- A tensor that takes a word has a format of 32 bits or more. -/
theorem takesWord {f : BitVec 4} (member : f ∈ [2#4, 3#4, 6#4, 7#4]) : (f == 2#4 || f == 6#4 || f == 3#4 || f == 7#4) = true := by
  revert f
  decide

theorem exec_capacityNotify {s : State} {k : ℕ} {c : Crew} {tl : Tile} (hc : s.crewAt k = some c) (pending : c.capPending = true) (live : c.state = .live) (note : c.capNote.getLsbD 8 = true)
    (tile : c.tile (c.capNote.extractLsb' 0 8) = some tl) (uid : c.tileUid tl.uid = some tl) (tags : tl.tags = true) (fmt : tl.fmt ∈ [2#4, 3#4, 6#4, 7#4]) (untracked : tl.tracked = false)
    (free : s.mmaHeld k tl.uid ⟨0, 0, 0, 0⟩ = false) :
    exec (.capacityNotify k) s = .next ((s.putTile k ((tl.write ⟨0, 0, 0, 0⟩ none s.capGen.toNat).setTag ⟨0, 0, 0, 0⟩ none true)).modCrew k fun c => { c with capPending := false }) := by
  have runs : exec (.capacityNotify k) s = execCapacityNotify k s := rfl
  rw [runs, execCapacityNotify]
  simp only [hc, pending, live, note, tile, tags, takesWord fmt, tileWrite_untracked hc uid free untracked]
  rfl

theorem capacityNotify_writes {s : State} {k : ℕ} {c : Crew} {tl : Tile} (hc : s.crewAt k = some c) (pending : c.capPending = true) (live : c.state = .live) (note : c.capNote.getLsbD 8 = true)
    (tile : c.tile (c.capNote.extractLsb' 0 8) = some tl) (uid : c.tileUid tl.uid = some tl) (tags : tl.tags = true) (fmt : tl.fmt ∈ [2#4, 3#4, 6#4, 7#4]) (untracked : tl.tracked = false)
    (free : s.mmaHeld k tl.uid ⟨0, 0, 0, 0⟩ = false) :
    ∃ (s' : State) (c' : Crew), exec (.capacityNotify k) s = .next s' ∧ s'.crewAt k = some c' ∧ c'.capPending = false ∧ c'.teams = c.teams ∧
      s'.tileAt k tl.uid = some ((tl.write ⟨0, 0, 0, 0⟩ none s.capGen.toNat).setTag ⟨0, 0, 0, 0⟩ none true) ∧ s'.mem = s.mem := by
  have runs := exec_capacityNotify hc pending live note tile uid tags fmt untracked free
  have sameUid : ((tl.write ⟨0, 0, 0, 0⟩ none s.capGen.toNat).setTag ⟨0, 0, 0, 0⟩ none true).uid = tl.uid := (Tile.uid_setTag _ _ _ _).trans (tl.uid_write _ none _)
  generalize (tl.write ⟨0, 0, 0, 0⟩ none s.capGen.toNat).setTag ⟨0, 0, 0, 0⟩ none true = tl' at *
  have there : ((s.putTile k tl').modCrew k fun c => { c with capPending := false }).crewAt k = some { c.putTile tl' with capPending := false } := crewAt_modCrew (crewAt_modCrew hc _) _
  refine ⟨_, _, runs, there, rfl, rfl, ?_, by rw [State.modCrew_mem, putTile_mem]⟩
  rw [State.tileAt, there]
  exact Crew.tileUid_putTile uid sameUid

/-! ### The advance of leases -/

/-- Memory stays, and of a crew only that a change of capacity is to be told to it. -/
def State.leasesOnly (s s' : State) : Prop := s'.mem = s.mem ∧ ∀ k c, s.crewAt k = some c → ∃ b, s'.crewAt k = some { c with capPending := b }

theorem State.leasesOnly.refl (s : State) : s.leasesOnly s := ⟨rfl, fun _ c hc => ⟨c.capPending, hc⟩⟩

theorem State.leasesOnly.trans {s s1 s2 : State} (first : s.leasesOnly s1) (second : s1.leasesOnly s2) : s.leasesOnly s2 := by
  refine ⟨second.1.trans first.1, fun k c hc => ?_⟩
  obtain ⟨b, one⟩ := first.2 k c hc
  obtain ⟨b', two⟩ := second.2 k { c with capPending := b } one
  exact ⟨b', two⟩

theorem leasesOnly_of_crews {s s' : State} (mem : s'.mem = s.mem) (crews : s'.crews = s.crews) : s.leasesOnly s' :=
  ⟨mem, fun k c hc => ⟨c.capPending, by rw [State.crewAt, crews]; exact hc⟩⟩

theorem capacityChange_leasesOnly (s : State) : s.leasesOnly s.capacityChange := by
  refine ⟨rfl, fun k c hc => ?_⟩
  have mapped : s.capacityChange.crewAt k = (s.crewAt k).map fun c : Crew => if c.state == CrewState.live && c.capNote.getLsbD 8 then { c with capPending := true } else c := List.getElem?_map
  rw [mapped, hc, Option.map_some]
  split
  · exact ⟨true, rfl⟩
  · exact ⟨c.capPending, rfl⟩

theorem portDown_leasesOnly (s : State) (p st : ℕ) : s.leasesOnly (s.portDown p st) := by
  obtain ⟨o, ps, pf, e, n, down⟩ := s.onlyPorts_portDown p st
  exact leasesOnly_of_crews (by rw [down]) (by rw [down])

theorem enterDraining_leasesOnly (s : State) (x : LeasedUnit) : s.leasesOnly (s.enterDraining x) := by
  have moved : s.leasesOnly (s.putUnit { x with state := 3, drained := 0, moved := [] }) := leasesOnly_of_crews rfl rfl
  cases name : x.u with
  | core g p =>
    obtain ⟨vacant, form⟩ := enterDraining_core (s := s) name
    rw [form]
    exact (leasesOnly_of_crews rfl rfl).trans (capacityChange_leasesOnly _)
  | port p =>
    rw [enterDraining_port name]
    exact (moved.trans (portDown_leasesOnly _ p 5)).trans (capacityChange_leasesOnly _)
  | channel r c =>
    rw [enterDraining_channel name]
    exact moved.trans (capacityChange_leasesOnly _)
  | _ =>
    unfold State.enterDraining
    dsimp only
    rw [name]
    exact moved.trans (capacityChange_leasesOnly _)

theorem leasesOnly_ite {p : Prop} [Decidable p] {s a b : State} (yes : s.leasesOnly a) (no : s.leasesOnly b) : s.leasesOnly (if p then a else b) := by
  split
  · exact yes
  · exact no

theorem advanceLease_leasesOnly (s : State) (u : DevUnit) : s.leasesOnly (s.advanceLease u) := by
  have drains := enterDraining_leasesOnly s (s.unit u)
  refine leasesOnly_ite ?_ (leasesOnly_ite drains (State.leasesOnly.refl s))
  cases u with
  | core g p => exact leasesOnly_ite (leasesOnly_of_crews rfl rfl) drains
  | _ => exact drains

theorem advanceLeases_leasesOnly (s : State) : s.leasesOnly s.advanceLeases := by
  unfold State.advanceLeases
  generalize s.units.map (·.u) = us
  induction us generalizing s with
  | nil => exact State.leasesOnly.refl s
  | cons u us ih => exact (advanceLease_leasesOnly s u).trans (ih _)

/-! ### The end of NOPRE's budget, and a crew in the way -/

theorem exec_nopreBudgetSpent {s : State} {r : TeamRef} {c : Crew} {t : Team} (h : s.teamAt r = some (c, t)) : exec (.nopreBudgetSpent r) s = .next (
    if t.nopreDepth != 0#4 && !t.nopreSpent && decide (nopreBudget ≤ t.nopreUsed) then (s.putTeam r { t with nopreSpent := true }).advanceLeases else s) := by
  have runs : exec (.nopreBudgetSpent r) s = execNopreBudgetSpent r s := rfl
  rw [runs, execNopreBudgetSpent, h]

theorem nopreBudgetSpent_unspent {s : State} {r : TeamRef} {c : Crew} {t : Team} (h : s.teamAt r = some (c, t)) (left : t.nopreUsed < nopreBudget) : exec (.nopreBudgetSpent r) s = .next s := by
  rw [exec_nopreBudgetSpent h, decide_eq_false (by omega), Bool.and_false, if_neg Bool.false_ne_true]

theorem nopreBudgetSpent_spends {s : State} {r : TeamRef} {c : Crew} {t : Team} (h : s.teamAt r = some (c, t)) (inside : t.nopreDepth ≠ 0#4) (spent : nopreBudget ≤ t.nopreUsed) (fresh : t.nopreSpent = false) :
    ∃ s', exec (.nopreBudgetSpent r) s = .next s' ∧ (s'.teamAt r).map (·.2) = some { t with nopreSpent := true } ∧ s'.mem = s.mem := by
  have ends : (t.nopreDepth != 0#4 && !t.nopreSpent && decide (nopreBudget ≤ t.nopreUsed)) = true := by rw [bne_iff_ne.2 inside, fresh, decide_eq_true spent]; rfl
  refine ⟨_, by rw [exec_nopreBudgetSpent h, if_pos ends], ?_, ?_⟩
  · obtain ⟨crew, team⟩ := teamAt_eq.1 (teamAt_putTeam h { t with nopreSpent := true })
    obtain ⟨b, kept⟩ := (advanceLeases_leasesOnly (s.putTeam r { t with nopreSpent := true })).2 r.crew _ crew
    rw [teamAt_eq.2 ⟨kept, team⟩]
    rfl
  · rw [(advanceLeases_leasesOnly _).1, State.putTeam_mem]

theorem exec_forcedMigration {s : State} {g p k : ℕ} {c : Crew} (active : s.active = true) (only : s.inTheWay (s.unit (.core g p)) = [k]) (hc : s.crewAt k = some c) (placed : c.place.isSome = true)
    (alone : s.liveCohort c = [k]) (stopped : s.cohortStopped [k] = true) : exec (.forcedMigration (.core g p)) s = .next ((s.leaveOrHold k).advanceLease (.core g p)) := by
  have runs : exec (.forcedMigration (.core g p)) s = execForcedMigration (.core g p) s := rfl
  rw [runs, execForcedMigration]
  simp only [active, only, hc, placed, alone, stopped, List.foldl_cons, List.foldl_nil]
  rfl

theorem forcedMigration_leaves {s : State} {g p k : ℕ} {c : Crew} (active : s.active = true) (only : s.inTheWay (s.unit (.core g p)) = [k]) (hc : s.crewAt k = some c) (placed : c.place.isSome = true)
    (alone : s.liveCohort c = [k]) (stopped : s.cohortStopped [k] = true) :
    ∃ (s' : State) (c' : Crew), exec (.forcedMigration (.core g p)) s = .next s' ∧ s'.crewAt k = some c' ∧ c'.place = none ∧ c'.teams = c.teams.map Team.landVotes ∧ c'.tiles = c.tiles ∧
      (c.teams.any (·.faulted) = true → c'.heldFaulted = true) ∧ s'.mem = s.mem := by
  obtain ⟨core, place⟩ := Option.isSome_iff_exists.1 placed
  obtain ⟨held, left, -, faulted⟩ := leaveOrHold_left hc place
  obtain ⟨mem, crews⟩ := advanceLease_leasesOnly (s.leaveOrHold k) (.core g p)
  obtain ⟨b, kept⟩ := crews k _ left.crew
  exact ⟨_, _, exec_forcedMigration active only hc placed alone stopped, kept, rfl, rfl, rfl, fun h => (faulted h).1, mem.trans left.mem⟩

/-! ### The copy of a channel's lines -/

/-- A unit with one more line copied. -/
def LeasedUnit.withLine (x : LeasedUnit) (line : ℕ) : LeasedUnit := { x with moved := natInsert line x.moved }

theorem exec_channelLineMove (g ch line : ℕ) (s : State) : exec (.channelLineMove g ch line) s = .next (
    if s.active && (s.unit (.channel g ch)).state == 3 && decide (line < channelLines) then s.putUnit ((s.unit (.channel g ch)).withLine line) else s) := rfl

theorem channelLineMove_moves {s : State} {g ch line : ℕ} (active : s.active = true) (draining : (s.unit (.channel g ch)).state = 3) (inside : line < channelLines) :
    ∃ s', exec (.channelLineMove g ch line) s = .next s' ∧ line ∈ (s'.unit (.channel g ch)).moved ∧ (∀ l, l ∈ (s.unit (.channel g ch)).moved → l ∈ (s'.unit (.channel g ch)).moved) ∧ { s' with units := s.units } = s := by
  have moves : (s.active && (s.unit (.channel g ch)).state == 3 && decide (line < channelLines)) = true := by rw [active, draining, decide_eq_true inside]; rfl
  refine ⟨s.putUnit ((s.unit (.channel g ch)).withLine line), by rw [exec_channelLineMove, if_pos moves], ?_, fun l member => ?_, rfl⟩
  · rw [unit_putUnit s (x := (s.unit (.channel g ch)).withLine line) (s.unit_u (.channel g ch))]
    exact mem_natInsert.2 (.inl rfl)
  · rw [unit_putUnit s (x := (s.unit (.channel g ch)).withLine line) (s.unit_u (.channel g ch))]
    exact mem_natInsert.2 (.inr member)

end Sys2Proof.Machine

/-! ## Scores (20 R389 to R391) -/

namespace Sys2Proof.Machine

/-! ### What a rise of a score changes -/

/-- The same unit, its score and its counts, in another state of its lease. -/
def LeasedUnit.restated (x y : LeasedUnit) : Prop := ∃ st early due deferred, y = { x with state := st, early := early, due := due, deferred := deferred }

theorem LeasedUnit.restated.refl (x : LeasedUnit) : x.restated x := ⟨x.state, x.early, x.due, x.deferred, rfl⟩

theorem LeasedUnit.restated.score {x y : LeasedUnit} (h : x.restated y) : y.score = x.score := by
  obtain ⟨st, early, due, deferred, rfl⟩ := h
  rfl

theorem LeasedUnit.restated.nrep {x y : LeasedUnit} (h : x.restated y) : y.nrep = x.nrep := by
  obtain ⟨st, early, due, deferred, rfl⟩ := h
  rfl

/-- What a threshold that is passed leaves: the unit but for its lease's state, poison and the age of the scores. -/
def State.passes (s s' : State) (u : DevUnit) : Prop := (s.unit u).restated (s'.unit u) ∧ s'.poison = s.poison ∧ s'.decayAge = s.decayAge ∧ s'.corrected = s.corrected

theorem State.passes.refl (s : State) (u : DevUnit) : s.passes s u := ⟨.refl _, rfl, rfl, rfl⟩

theorem passes_of_put {s s1 s' : State} {u : DevUnit} {x : LeasedUnit} (name : x.u = u) (same : (s.unit u).restated x) (put : s1 = s.putUnit x) (units : s'.units = s1.units) (poison : s'.poison = s.poison)
    (age : s'.decayAge = s.decayAge) (corrected : s'.corrected = s.corrected) : s.passes s' u := by
  have unit : s'.unit u = (s.putUnit x).unit u := by rw [State.unit, units, put]; rfl
  exact ⟨by rw [unit, unit_putUnit s name]; exact same, poison, age, corrected⟩

theorem passes_ite {p : Prop} [Decidable p] {s a b : State} {u : DevUnit} (yes : s.passes a u) (no : s.passes b u) : s.passes (if p then a else b) u := by
  split
  · exact yes
  · exact no

theorem earlyLease_passes (s : State) (u : DevUnit) : s.passes (s.earlyLease (s.unit u)) u := by
  have name := s.unit_u u
  refine passes_ite ?_ (passes_ite ?_ (.refl s u))
  · rw [name]
    exact passes_of_put (x := { s.unit u with state := 1, early := true, due := s.nextDue, deferred := 0 }) name ⟨1, true, s.nextDue, 0, rfl⟩ rfl rfl rfl rfl rfl
  · exact passes_of_put (x := { s.unit u with early := true }) name ⟨(s.unit u).state, true, (s.unit u).due, (s.unit u).deferred, rfl⟩ rfl rfl rfl rfl rfl

theorem cometAbandon_frame (s : State) (reason : ℕ) : (s.cometAbandon reason).units = s.units ∧ (s.cometAbandon reason).poison = s.poison ∧ (s.cometAbandon reason).decayAge = s.decayAge ∧
    (s.cometAbandon reason).corrected = s.corrected := by
  unfold State.cometAbandon
  split <;> exact ⟨rfl, rfl, rfl, rfl⟩

theorem retireStack_passes (s : State) (j : ℕ) : s.passes (s.retireStack j) (.scm j) := by
  unfold State.retireStack
  dsimp only [State.cometSuspend]
  generalize form : State.recordRetirement _ _ _ _ _ _ _ _ = s1
  obtain ⟨units, poison, age, corrected⟩ := cometAbandon_frame s1 4
  subst form
  exact passes_of_put (x := { s.unit (.scm j) with state := 7 }) (s.unit_u (.scm j)) ⟨7, _, _, _, rfl⟩ rfl units poison age corrected

theorem retireSlice_passes (s : State) (g : ℕ) : s.passes (s.retireSlice g) (.slice g) :=
  passes_of_put (x := { s.unit (.slice g) with state := 7 }) (s.unit_u (.slice g)) ⟨7, _, _, _, rfl⟩ rfl rfl rfl rfl rfl

theorem retireChannel_passes (s : State) (r c : ℕ) : s.passes (s.retireChannel r c) (.channel r c) :=
  passes_of_put (x := { s.unit (.channel r c) with state := 7 }) (s.unit_u (.channel r c)) ⟨7, _, _, _, rfl⟩ rfl rfl rfl rfl rfl

theorem threshold_passes (s : State) (u : DevUnit) : s.passes (s.threshold u) u := by
  cases u with
  | scm j => exact passes_ite (retireStack_passes s j) (.refl s _)
  | slice g => exact passes_ite (retireSlice_passes s g) (.refl s _)
  | channel r c => exact passes_ite (retireChannel_passes s r c) (earlyLease_passes s _)
  | core g p => exact earlyLease_passes s _
  | port p => exact earlyLease_passes s _

/-- Below the thresholds nothing follows. -/
theorem earlyLease_low {s : State} {x : LeasedUnit} (low : x.score.toNat < 2048) : s.earlyLease x = s := by
  unfold State.earlyLease
  rw [if_neg (by omega), if_neg (by omega)]

theorem threshold_low {s : State} {u : DevUnit} (low : (s.unit u).score.toNat < 2048) : s.threshold u = s := by
  have below : ¬ 32768 ≤ (s.unit u).score.toNat := by omega
  cases u with
  | scm j => exact if_neg fun h => below h.2
  | slice g => exact if_neg fun h => below h.2
  | channel r c => exact (if_neg fun h => below h.2.1).trans (earlyLease_low low)
  | core g p => exact earlyLease_low low
  | port p => exact earlyLease_low low

/-! ### Charges -/

/-- A unit's counts of what was charged to it. -/
def LeasedUnit.counted (x : LeasedUnit) (e : ScoreEvent) : LeasedUnit :=
  match e with
  | .replay => { x with nrep := x.nrep + 1 }
  | .correctedCore | .correctedSlice | .correctedChannel | .correctedScm => { x with ncorr := x.ncorr + 1 }
  | .uncorrectable => { x with nunc := x.nunc + 1 }
  | _ => x

theorem LeasedUnit.counted_score (x : LeasedUnit) (e : ScoreEvent) : (x.counted e).score = x.score := by cases e <;> rfl

theorem LeasedUnit.counted_u (x : LeasedUnit) (e : ScoreEvent) : (x.counted e).u = x.u := by cases e <;> rfl

theorem charge_eq {s : State} (young : s.decayAge < 2 ^ 28) (u : DevUnit) (e : ScoreEvent) :
    s.charge u e = (s.putUnit (({ s.unit u with score := satScore (s.unit u).score (scoreOf e) } : LeasedUnit).counted e)).threshold u := by
  unfold State.charge
  rw [decayed_self young]
  cases e <;> rfl

theorem charge_spec {s : State} (young : s.decayAge < 2 ^ 28) (u : DevUnit) (e : ScoreEvent) :
    ((s.charge u e).unit u).score = satScore (s.unit u).score (scoreOf e) ∧ (s.charge u e).poison = s.poison ∧ (s.charge u e).decayAge = s.decayAge := by
  rw [charge_eq young]
  generalize form : ({ s.unit u with score := satScore (s.unit u).score (scoreOf e) } : LeasedUnit) = x
  have name : x.u = u := by subst form; exact s.unit_u u
  have score : x.score = satScore (s.unit u).score (scoreOf e) := by subst form; rfl
  obtain ⟨same, poison, age, -⟩ := threshold_passes (s.putUnit (x.counted e)) u
  rw [unit_putUnit s ((x.counted_u e).trans name)] at same
  exact ⟨same.score.trans ((x.counted_score e).trans score), poison, age⟩

/-- Charges add up, as far as a score can rise. -/
theorem satScore_satScore (a : BitVec 16) (m n : ℕ) : satScore (satScore a m) n = satScore a (m + n) := by
  unfold satScore
  rw [BitVec.toNat_ofNat, Nat.mod_eq_of_lt (by omega)]
  congr 1
  omega

theorem fecUncorrectable_score {s : State} (young : s.decayAge < 2 ^ 28) (p addr : ℕ) :
    ((s.unitError (.port p) .fecUncorrectable addr).unit (.port p)).score = BitVec.ofNat 16 (min 65535 ((s.unit (.port p)).score.toNat + 16)) :=
  (charge_spec young (.port p) .fecUncorrectable).1

/-- A core is served by a unit of its gang. -/
theorem servingCore_core {s : State} {core : ℕ} {u : DevUnit} (serves : s.servingCore core = some u) : ∃ g p, u = .core g p := by
  obtain ⟨p, -, rfl⟩ := List.mem_map.1 (List.mem_of_find?_eq_some serves)
  exact ⟨core / 4, p, rfl⟩

/-- A core with a replay charged to it. -/
def LeasedUnit.replayed (x : LeasedUnit) : LeasedUnit := { x with score := satScore x.score 1, nrep := x.nrep + 1 }

/-- A replay costs its core 1, and nothing else but an early lease follows. -/
theorem charge_replay {s : State} (young : s.decayAge < 2 ^ 28) (g p : ℕ) : s.onlyUnits (s.charge (.core g p) .replay) ∧
    ((s.charge (.core g p) .replay).unit (.core g p)).score = satScore (s.unit (.core g p)).score 1 ∧ ((s.charge (.core g p) .replay).unit (.core g p)).nrep = (s.unit (.core g p)).nrep + 1 := by
  have name : (s.unit (.core g p)).replayed.u = .core g p := s.unit_u _
  have form : s.charge (.core g p) .replay = (s.putUnit (s.unit (.core g p)).replayed).earlyLease ((s.putUnit (s.unit (.core g p)).replayed).unit (.core g p)) := charge_eq young _ _
  obtain ⟨⟨units, due, frame⟩, -⟩ := earlyLease_spec (s.putUnit (s.unit (.core g p)).replayed) (.core g p)
  obtain ⟨same, -⟩ := earlyLease_passes (s.putUnit (s.unit (.core g p)).replayed) (.core g p)
  have counts := unit_putUnit s name
  refine ⟨⟨units, due, form.trans frame⟩, ?_, ?_⟩
  · rw [form, same.score, counts]; rfl
  · rw [form, same.nrep, counts]; rfl

theorem shadowLatchReplay_charges {s : State} (young : s.decayAge < 2 ^ 28) {core : ℕ} {u : DevUnit} (serves : s.servingCore core = some u) (running : (s.runningOn core).isSome = true) :
    ∃ s', exec (.shadowLatchReplay core) s = .next s' ∧ (s'.unit u).score = BitVec.ofNat 16 (min 65535 ((s.unit u).score.toNat + 1)) ∧ (s'.unit u).nrep = (s.unit u).nrep + 1 ∧ s'.matrix = s.matrix ∧ s'.crews = s.crews := by
  have runs : exec (.shadowLatchReplay core) s = .next ((s.count (coreDie core) 5 1).charge u .replay) := by
    have unfolded : exec (.shadowLatchReplay core) s = execShadowLatchReplay core s := rfl
    rw [unfolded, execShadowLatchReplay, serves]
    exact congrArg Host.Outcome.next (if_pos running)
  obtain ⟨perf, counted⟩ := count_eq s (coreDie core) 5 1
  obtain ⟨g, p, rfl⟩ := servingCore_core serves
  rw [counted] at runs
  obtain ⟨⟨units, due, frame⟩, score, nrep⟩ := charge_replay (s := { s with perf := perf }) young g p
  exact ⟨_, runs, score, nrep, by rw [frame], by rw [frame]⟩

/-! ### Patrol scrubs -/

theorem exec_patrolScrub {s : State} {u : DevUnit} {e : ScoreEvent} {addr : ℕ} (finds : scrubFinds u e = true) : exec (.patrolScrub u (some e) addr) s = .next (
    if e = .uncorrectable then (if s.scrubWaits u addr then s else (s.scrubPoison u addr).charge u e) else s.chargeCorrected u e addr) := by
  have runs : exec (.patrolScrub u (some e) addr) s = execPatrolScrub u (some e) addr s := rfl
  rw [runs, execPatrolScrub]
  rw [finds, if_neg (by decide)]

/-- What a scrub finds and corrects costs 8. -/
theorem scoreOf_corrected {u : DevUnit} {e : ScoreEvent} (finds : scrubFinds u e = true) (corrected : e ≠ .uncorrectable) : scoreOf e = 8 := by
  cases e with
  | uncorrectable => exact absurd rfl corrected
  | correctedCore | correctedSlice | correctedChannel | correctedScm => rfl
  | _ => cases u <;> cases finds

theorem chargeCorrected_eq {s : State} (young : s.decayAge < 2 ^ 28) (u : DevUnit) (e : ScoreEvent) (addr : ℕ) : s.chargeCorrected u e addr =
    if (s.corrected.filter fun p => p == errorCell u addr).length = 1 then (({ s with corrected := s.corrected ++ [errorCell u addr] } : State).charge u e).charge u .secondCorrected
    else ({ s with corrected := s.corrected ++ [errorCell u addr] } : State).charge u e := by
  unfold State.chargeCorrected
  rw [decayed_self young]

theorem patrolScrub_first {s : State} (young : s.decayAge < 2 ^ 28) {u : DevUnit} {e : ScoreEvent} {addr : ℕ} (finds : scrubFinds u e = true) (corrected : e ≠ .uncorrectable) (fresh : errorCell u addr ∉ s.corrected) :
    ∃ s', exec (.patrolScrub u (some e) addr) s = .next s' ∧ (s'.unit u).score = BitVec.ofNat 16 (min 65535 ((s.unit u).score.toNat + 8)) ∧ s'.mem = s.mem ∧ s'.poison = s.poison := by
  have none_ : (s.corrected.filter fun p => p == errorCell u addr) = [] := List.filter_eq_nil_iff.2 fun p member same => fresh (beq_iff_eq.1 same ▸ member)
  obtain ⟨score, poison, -⟩ := charge_spec (s := { s with corrected := s.corrected ++ [errorCell u addr] }) young u e
  rw [scoreOf_corrected finds corrected] at score
  refine ⟨_, by rw [exec_patrolScrub finds, if_neg corrected, chargeCorrected_eq young, none_, if_neg (by decide)], score, ?_, poison⟩
  exact State.charge_mem _ u e

theorem patrolScrub_second {s : State} (young : s.decayAge < 2 ^ 28) {u : DevUnit} {e : ScoreEvent} {addr : ℕ} (finds : scrubFinds u e = true) (corrected : e ≠ .uncorrectable)
    (once : (s.corrected.filter fun p => p == errorCell u addr) = [errorCell u addr]) :
    ∃ s', exec (.patrolScrub u (some e) addr) s = .next s' ∧ (s'.unit u).score = BitVec.ofNat 16 (min 65535 ((s.unit u).score.toNat + 264)) ∧ s'.mem = s.mem ∧ s'.poison = s.poison := by
  obtain ⟨score, poison, age⟩ := charge_spec (s := { s with corrected := s.corrected ++ [errorCell u addr] }) young u e
  rw [scoreOf_corrected finds corrected] at score
  have mem : (({ s with corrected := s.corrected ++ [errorCell u addr] } : State).charge u e).mem = s.mem := State.charge_mem _ u e
  have runs : exec (.patrolScrub u (some e) addr) s = .next ((({ s with corrected := s.corrected ++ [errorCell u addr] } : State).charge u e).charge u .secondCorrected) := by
    rw [exec_patrolScrub finds, if_neg corrected, chargeCorrected_eq young, once, if_pos (List.length_singleton ..)]
  generalize ({ s with corrected := s.corrected ++ [errorCell u addr] } : State).charge u e = s1 at *
  obtain ⟨score2, poison2, -⟩ := charge_spec (s := s1) (age ▸ young) u .secondCorrected
  refine ⟨_, runs, ?_, (State.charge_mem s1 u _).trans mem, poison2.trans poison⟩
  rw [score2, score]
  exact satScore_satScore _ 8 256

theorem setPoison_isPoisoned (s : State) (line : ℕ) : (s.setPoison (line * 64) 64).isPoisoned (line * 64) 64 = true := by
  refine List.any_eq_true.2 ⟨line * 16, mem_foldl_natInsert.2 (.inl (List.mem_map.2 ⟨0, List.mem_range.2 (by omega), by omega⟩)), decide_eq_true (by omega)⟩

/-- An uncorrectable line of a channel waits for the loads of it. -/
theorem patrolScrub_waits {s : State} {r c addr : ℕ} (out : s.loadsOut (addr / 64 * 64) 64 = true) : exec (.patrolScrub (.channel r c) (some .uncorrectable) addr) s = .next s := by
  have waits : s.scrubWaits (.channel r c) addr = true := out
  rw [exec_patrolScrub rfl, if_pos rfl, if_pos waits]

theorem patrolScrub_poisons {s : State} (young : s.decayAge < 2 ^ 28) {r c addr : ℕ} (idle : s.loadsOut (addr / 64 * 64) 64 = false) :
    ∃ s', exec (.patrolScrub (.channel r c) (some .uncorrectable) addr) s = .next s' ∧ s'.isPoisoned (addr / 64 * 64) 64 = true ∧
      (s'.unit (.channel r c)).score = BitVec.ofNat 16 (min 65535 ((s.unit (.channel r c)).score.toNat + 16384)) ∧ s'.mem = s.mem := by
  have waits : s.scrubWaits (.channel r c) addr = false := idle
  obtain ⟨score, poison, -⟩ := charge_spec (s := s.setPoison (addr / 64 * 64) 64) young (.channel r c) .uncorrectable
  refine ⟨(s.setPoison (addr / 64 * 64) 64).charge (.channel r c) .uncorrectable, ?_, ?_, score, State.charge_mem _ _ _⟩
  · rw [exec_patrolScrub rfl, if_pos rfl, waits, if_neg Bool.false_ne_true]
    rfl
  · rw [State.isPoisoned, poison]
    exact setPoison_isPoisoned s (addr / 64)

/-! ### Decay -/

theorem scoreDecay_young {s : State} (young : s.decayAge < 2 ^ 28) : exec .scoreDecay s = .next s := congrArg Host.Outcome.next (decayed_self young)

/-- A unit whose score has decayed once. -/
def LeasedUnit.decayedOnce (x : LeasedUnit) : LeasedUnit := { x with score := BitVec.ofNat 16 (decayScore x.score.toNat) }

theorem decayedOnce_low {x : LeasedUnit} (low : x.score.toNat < 2048) : x.decayedOnce.score.toNat < 2048 := by
  have form : x.decayedOnce.score.toNat = (x.score.toNat - (x.score.toNat + 31) / 32) % 2 ^ 16 := BitVec.toNat_ofNat ..
  rw [form]
  exact (Nat.mod_le _ _).trans_lt (by omega)

/-- The state with every score decayed once, before the thresholds. -/
def State.scoresDecayed (s : State) : State := { s with decayAge := s.decayAge % 2 ^ 28, corrected := [], units := s.units.map LeasedUnit.decayedOnce }

theorem scoresDecayed_unit {s : State} {y : LeasedUnit} (member : y ∈ s.units) : s.scoresDecayed.unit y.u = (s.unit y.u).decayedOnce := by
  have found : (s.units.find? fun x => x.u == y.u).isSome = true := List.find?_isSome.2 ⟨y, member, beq_self_eq_true _⟩
  obtain ⟨x, at_⟩ := Option.isSome_iff_exists.1 found
  have mapped : (s.units.map LeasedUnit.decayedOnce).find? (fun x => x.u == y.u) = some x.decayedOnce := by
    rw [List.find?_map]
    exact congrArg (Option.map LeasedUnit.decayedOnce) at_
  have here : s.scoresDecayed.unit y.u = ((s.units.map LeasedUnit.decayedOnce).find? fun x => x.u == y.u).getD (defaultUnit y.u) := rfl
  rw [here, mapped, State.unit, at_]
  rfl

theorem decayed_once {s : State} (old : 2 ^ 28 ≤ s.decayAge) (younger : s.decayAge < 2 ^ 29) (low : ∀ y, y ∈ s.units → (s.unit y.u).score.toNat < 2048) : s.decayed = s.scoresDecayed := by
  have periods : min 512 (s.decayAge / 2 ^ 28) = 1 := by omega
  have form : s.decayed = (s.scoresDecayed.units.map (·.u)).foldl (fun s u => s.threshold u) s.scoresDecayed := by
    unfold State.decayed
    rw [periods]
    rfl
  rw [form]
  refine foldl_fixed fun u member => threshold_low ?_
  obtain ⟨x, inUnits, rfl⟩ := List.mem_map.1 member
  obtain ⟨y, here, rfl⟩ := List.mem_map.1 inUnits
  have name : y.decayedOnce.u = y.u := rfl
  rw [name, scoresDecayed_unit here]
  exact decayedOnce_low (low y here)

theorem scoreDecay_once {s : State} (old : 2 ^ 28 ≤ s.decayAge) (younger : s.decayAge < 2 ^ 29) (low : ∀ y, y ∈ s.units → (s.unit y.u).score.toNat < 2048) :
    ∃ s', exec .scoreDecay s = .next s' ∧ s'.decayAge = s.decayAge - 2 ^ 28 ∧
      (∀ y, y ∈ s.units → (s'.unit y.u).score = BitVec.ofNat 16 ((s.unit y.u).score.toNat - ((s.unit y.u).score.toNat + 31) / 32)) ∧ { s' with decayAge := s.decayAge, corrected := s.corrected, units := s.units } = s := by
  refine ⟨s.scoresDecayed, congrArg Host.Outcome.next (decayed_once old younger low), ?_, fun y member => ?_, rfl⟩
  · have age : s.scoresDecayed.decayAge = s.decayAge % 2 ^ 28 := rfl
    omega
  · rw [scoresDecayed_unit member]
    rfl

end Sys2Proof.Machine

/-! ## The start of a unit's test (20 R381, R386) -/

namespace Sys2Proof.Machine

/-! ### What the advance of leases changes of a unit -/

theorem calm_congr {s s' : State} (calm : s.calm) (units : s'.units = s.units) : s'.calm := fun u => by
  rw [State.unit, units]
  exact calm u

theorem unit_congr {s s' : State} (units : s'.units = s.units) (u : DevUnit) : s'.unit u = s.unit u := by rw [State.unit, units]; rfl

/-- A unit that begins to drain. -/
def LeasedUnit.drains (x : LeasedUnit) : LeasedUnit := { x with state := 3, drained := 0, moved := [] }

theorem portDown_units (s : State) (p st : ℕ) : (s.portDown p st).units = s.units := by
  obtain ⟨o, ps, pf, e, n, down⟩ := s.onlyPorts_portDown p st
  rw [down]

theorem enterDraining_units (s : State) (x : LeasedUnit) : (s.enterDraining x).units = (s.putUnit x.drains).units := by
  rcases x with ⟨u⟩
  cases u with
  | port p => exact portDown_units _ p 5
  | _ => rfl

/-- The unit has this score and is under an early lease that has not reached its test. -/
def State.earlyLeased (s : State) (u : DevUnit) (score : BitVec 16) : Prop := (s.unit u).score = score ∧ (s.unit u).early = true ∧ 1 ≤ (s.unit u).state ∧ (s.unit u).state ≤ 3

theorem earlyLeased_put {s : State} {u v : DevUnit} {score : BitVec 16} {x : LeasedUnit} (leased : s.earlyLeased u score) (name : x.u = v)
    (same : x.score = (s.unit v).score ∧ x.early = (s.unit v).early) (state : 1 ≤ x.state ∧ x.state ≤ 3) : (s.putUnit x).earlyLeased u score := by
  by_cases one : v = u
  · subst one
    rw [State.earlyLeased, unit_putUnit s name, same.1, same.2]
    exact ⟨leased.1, leased.2.1, state⟩
  · rw [State.earlyLeased, unit_putUnit_other s (name ▸ one)]
    exact leased

theorem enterDraining_earlyLeased {s : State} {u : DevUnit} {score : BitVec 16} (leased : s.earlyLeased u score) (v : DevUnit) : (s.enterDraining (s.unit v)).earlyLeased u score := by
  have put := earlyLeased_put (x := (s.unit v).drains) leased (s.unit_u v) ⟨rfl, rfl⟩ ⟨(by decide : 1 ≤ 3), (by decide : 3 ≤ 3)⟩
  rw [State.earlyLeased, unit_congr (enterDraining_units s (s.unit v)) u]
  exact put

theorem earlyLeased_ite {p : Prop} [Decidable p] {a b : State} {u : DevUnit} {score : BitVec 16} (yes : a.earlyLeased u score) (no : b.earlyLeased u score) : (if p then a else b).earlyLeased u score := by
  split
  · exact yes
  · exact no

theorem advanceLease_earlyLeased {s : State} {u : DevUnit} {score : BitVec 16} (leased : s.earlyLeased u score) (v : DevUnit) : (s.advanceLease v).earlyLeased u score := by
  have drains := enterDraining_earlyLeased leased v
  refine earlyLeased_ite ?_ (earlyLeased_ite drains leased)
  cases v with
  | core g p => exact earlyLeased_ite (earlyLeased_put (x := { s.unit (.core g p) with state := 2 }) leased (s.unit_u _) ⟨rfl, rfl⟩ ⟨(by decide : 1 ≤ 2), (by decide : 2 ≤ 3)⟩) drains
  | _ => exact drains

theorem advanceLeases_earlyLeased {s : State} {u : DevUnit} {score : BitVec 16} (leased : s.earlyLeased u score) : s.advanceLeases.earlyLeased u score := by
  unfold State.advanceLeases
  generalize s.units.map (·.u) = vs
  induction vs generalizing s with
  | nil => exact leased
  | cons v vs ih => exact ih (advanceLease_earlyLeased leased v)

/-! ### The start of the test of a core -/

/-- A unit that enters its test, its spare in its place or not. -/
def LeasedUnit.testing (x : LeasedUnit) (replaced : Bool) : LeasedUnit := { x with state := 4, replaced := replaced }

/-- A spare in the place of another unit. -/
def LeasedUnit.standsIn (v : LeasedUnit) (slot : ℕ) : LeasedUnit := { v with state := 0, slot := slot }

/-- A core's slot is no longer closed. -/
def State.reopened (s : State) (slot : ℕ) : State := { s with closedCores := s.closedCores.filter fun c => c != slot }

theorem not_mem_reopened (s : State) (slot : ℕ) : slot ∉ (s.reopened slot).closedCores := fun member => bne_iff_ne.1 (List.mem_filter.1 member).2 rfl

section
variable {s : State} {g p : ℕ} (young : s.decayAge < 2 ^ 28) (active : s.active = true) (draining : (s.unit (.core g p)).state = 3)
include young active draining

theorem exec_leaseTestStart : exec (.leaseTestStart (.core g p)) s = .next (
    if !(s.residents (s.unit (.core g p)).slot).isEmpty then s
    else (match (if s.vacantCores.contains (s.unit (.core g p)).slot then none else s.spareOf (.core g p)) with
      | some v => (((s.reopened (s.unit (.core g p)).slot).putUnit (((s.reopened (s.unit (.core g p)).slot).unit v).standsIn (s.unit (.core g p)).slot)).putUnit ((s.unit (.core g p)).testing true)).threshold v
      | none => (s.reopened (s.unit (.core g p)).slot).putUnit ((s.unit (.core g p)).testing false)).advanceLeases) := by
  have runs : exec (.leaseTestStart (.core g p)) s = execLeaseTestStart (.core g p) s := rfl
  rw [runs, execLeaseTestStart, decayed_self young]
  dsimp only
  rw [active, draining, if_neg (by decide)]
  rfl

theorem leaseTestStart_occupied (occupied : s.residents (s.unit (.core g p)).slot ≠ []) : exec (.leaseTestStart (.core g p)) s = .next s := by
  have some_ : (!(s.residents (s.unit (.core g p)).slot).isEmpty) = true := by simpa using occupied
  rw [exec_leaseTestStart young active draining, if_pos some_]

variable (calm : s.calm) (empty : s.residents (s.unit (.core g p)).slot = [])
include calm empty

theorem leaseTestStart_replaced {v : DevUnit} (held : s.vacantCores.contains (s.unit (.core g p)).slot = false) (spare : s.spareOf (.core g p) = some v) (low : (s.unit v).score.toNat < 2048) :
    ∃ s', exec (.leaseTestStart (.core g p)) s = .next s' ∧ (s'.unit (.core g p)).state = 4 ∧ (s'.unit (.core g p)).replaced = true ∧
      (s'.unit v).state = 0 ∧ (s'.unit v).slot = (s.unit (.core g p)).slot ∧ (s.unit (.core g p)).slot ∉ s'.closedCores ∧ s'.crews = s.crews := by
  have runs := exec_leaseTestStart young active draining
  rw [empty, held, spare, if_neg (by decide)] at runs
  have other : v ≠ .core g p := by
    have found := List.find?_some (p := fun v => v != DevUnit.core g p && (s.unit v).state == 6) spare
    exact bne_iff_ne.1 (Bool.and_eq_true_iff.1 found).1
  have opened := not_mem_reopened s (s.unit (.core g p)).slot
  have crews : (s.reopened (s.unit (.core g p)).slot).crews = s.crews := rfl
  have units : (s.reopened (s.unit (.core g p)).slot).units = s.units := rfl
  have name := s.unit_u (.core g p)
  generalize (s.unit (.core g p)).slot = slot at *
  generalize s.reopened slot = s1 at *
  have spareName : ((s1.unit v).standsIn slot).u = v := s1.unit_u v
  have coreName : ((s.unit (.core g p)).testing true).u = .core g p := name
  have calm2 : ((s1.putUnit ((s1.unit v).standsIn slot)).putUnit ((s.unit (.core g p)).testing true)).calm :=
    calm_putUnit (calm_putUnit (calm_congr calm units) (by decide : 0 ≠ 1) (by decide : 0 ≠ 2)) (by decide : 4 ≠ 1) (by decide : 4 ≠ 2)
  have spareUnit : ((s1.putUnit ((s1.unit v).standsIn slot)).putUnit ((s.unit (.core g p)).testing true)).unit v = (s1.unit v).standsIn slot := by
    rw [unit_putUnit_other _ fun same => other (same.symm.trans coreName), unit_putUnit s1 spareName]
  have low2 : (((s1.putUnit ((s1.unit v).standsIn slot)).putUnit ((s.unit (.core g p)).testing true)).unit v).score.toNat < 2048 := by
    rw [spareUnit]
    show (s1.unit v).score.toNat < 2048
    rw [unit_congr units]
    exact low
  have swapped : exec (.leaseTestStart (.core g p)) s = .next ((s1.putUnit ((s1.unit v).standsIn slot)).putUnit ((s.unit (.core g p)).testing true)) := by
    rw [runs]
    refine congrArg Host.Outcome.next ?_
    refine Eq.trans (congrArg State.advanceLeases (threshold_low low2)) (advanceLeases_calm calm2)
  refine ⟨_, swapped, ?_, ?_, ?_, ?_, opened, crews⟩
  · rw [unit_putUnit _ coreName]; rfl
  · rw [unit_putUnit _ coreName]; rfl
  · rw [spareUnit]; rfl
  · rw [spareUnit]; rfl

theorem leaseTestStart_vacant (none_ : s.spareOf (.core g p) = none) :
    ∃ s', exec (.leaseTestStart (.core g p)) s = .next s' ∧ (s'.unit (.core g p)).state = 4 ∧ (s'.unit (.core g p)).replaced = false ∧ s'.vacantCores = s.vacantCores ∧ s'.crews = s.crews := by
  have runs := exec_leaseTestStart young active draining
  rw [empty, none_, ite_self, if_neg (by decide)] at runs
  have coreName : ((s.unit (.core g p)).testing false).u = .core g p := s.unit_u (.core g p)
  have calm2 : ((s.reopened (s.unit (.core g p)).slot).putUnit ((s.unit (.core g p)).testing false)).calm := calm_putUnit (calm_congr calm rfl) (by decide : 4 ≠ 1) (by decide : 4 ≠ 2)
  refine ⟨_, runs.trans (congrArg Host.Outcome.next (advanceLeases_calm calm2)), ?_, ?_, rfl, rfl⟩
  · rw [unit_putUnit _ coreName]; rfl
  · rw [unit_putUnit _ coreName]; rfl

end

end Sys2Proof.Machine

/-! ## The verdict of a unit's test (20 R387 to R391) -/

namespace Sys2Proof.Machine

/-! ### How a test ends -/

/-- A test of which every set passes ends. -/
theorem testEnd_passes {u : DevUnit} : ∀ {runs : List TestRun} {k n : ℕ}, runs.map (·.set) = List.range' k n → runs.all (passesRun u) = true → k + n = patternSets u → testEnd u k false runs = .ended
  | [], k, 0, _, _, total => by rw [testEnd, if_pos ⟨total, rfl⟩]
  | [], _, _ + 1, sets, _, _ => absurd sets (List.cons_ne_nil _ _).symm
  | _ :: _, _, 0, sets, _, _ => absurd sets (List.cons_ne_nil _ _)
  | r :: rest, k, n + 1, sets, pass, total => by
    obtain ⟨here, later⟩ : r.set = k ∧ _ := List.cons.inj sets
    obtain ⟨passes, others⟩ := Bool.and_eq_true_iff.1 (List.all_cons ▸ pass)
    rw [testEnd, if_neg (by omega), if_pos passes]
    exact testEnd_passes later others (by omega)

/-- A set that fails once more ends the test. -/
theorem testEnd_fails {u : DevUnit} {r r' : TestRun} (same : r'.set = r.set) (inside : r.set < patternSets u) (fails : passesRun u r = false) (again : passesRun u r' = false) :
    ∀ {pre : List TestRun} {k n : ℕ}, pre.map (·.set) = List.range' k n → pre.all (passesRun u) = true → k + n = r.set → testEnd u k false (pre ++ [r, r']) = .failedTwice r'
  | [], k, 0, _, _, total => by
    obtain rfl : k = r.set := total
    rw [List.nil_append, testEnd, if_neg (by omega), fails, if_neg (by decide), if_pos (by decide), testEnd, if_neg (by omega), again, if_neg (by decide), if_neg (by decide), if_pos List.isEmpty_nil]
  | [], _, _ + 1, sets, _, _ => absurd sets (List.cons_ne_nil _ _).symm
  | _ :: _, _, 0, sets, _, _ => absurd sets (List.cons_ne_nil _ _)
  | q :: rest, k, n + 1, sets, pass, total => by
    obtain ⟨here, later⟩ : q.set = k ∧ _ := List.cons.inj sets
    obtain ⟨passes, others⟩ := Bool.and_eq_true_iff.1 (List.all_cons ▸ pass)
    rw [List.cons_append, testEnd, if_neg (by omega), if_pos passes]
    exact testEnd_fails same inside fails again later others (by omega)

/-! ### What the runs of a test cost -/

/-- What a run costs its unit. -/
def runCost (u : DevUnit) (r : TestRun) : ℕ := (match u with | .core _ _ => r.replays | .port _ => 16 * r.wide | _ => 0) + (if passesRun u r then 0 else 4096)

/-- The same unit with another score and another count of replays. -/
def LeasedUnit.scored (x : LeasedUnit) (score : BitVec 16) (nrep : ℕ) : LeasedUnit := { x with score := score, nrep := nrep }

theorem chargeRun_eq (x : LeasedUnit) (r : TestRun) : ∃ nrep, x.chargeRun r = x.scored (satScore x.score (runCost x.u r)) nrep := ⟨_, rfl⟩

theorem satScore_zero (a : BitVec 16) : satScore a 0 = a := by
  have := a.isLt
  rw [satScore, Nat.add_zero, Nat.min_eq_right (by omega), BitVec.ofNat_toNat, BitVec.setWidth_eq]

theorem chargeRuns_eq : ∀ (runs : List TestRun) (x : LeasedUnit), ∃ nrep, runs.foldl LeasedUnit.chargeRun x = x.scored (satScore x.score (runs.map (runCost x.u)).sum) nrep
  | [], x => ⟨x.nrep, by
    have zero : satScore x.score (([] : List TestRun).map (runCost x.u)).sum = x.score := satScore_zero x.score
    rw [zero]; rfl⟩
  | r :: rest, x => by
    obtain ⟨n, one⟩ := chargeRun_eq x r
    obtain ⟨nrep, others⟩ := chargeRuns_eq rest (x.scored (satScore x.score (runCost x.u r)) n)
    refine ⟨nrep, ?_⟩
    rw [List.foldl_cons, one, others, List.map_cons, List.sum_cons, ← satScore_satScore]
    rfl

theorem runCosts_core (g p : ℕ) (runs : List TestRun) : (runs.map (runCost (.core g p))).sum = (runs.map (·.replays)).sum + 4096 * (runs.filter fun r => !passesRun (.core g p) r).length := by
  induction runs with
  | nil => rfl
  | cons r rest ih =>
    rw [List.map_cons, List.sum_cons, ih, List.map_cons, List.sum_cons, runCost]
    cases passes : passesRun (.core g p) r with
    | true => rw [List.filter_cons_of_neg (by rw [passes]; decide), if_pos rfl]; omega
    | false => rw [List.filter_cons_of_pos (by rw [passes]; rfl), List.length_cons, if_neg (by decide)]; omega

/-! ### A run that is charged as it ends -/

/-- A unit whose run has been charged. -/
def LeasedUnit.runCharged (x : LeasedUnit) (r : TestRun) : LeasedUnit := { x.chargeRun r with charged := x.charged + 1 }

theorem testRun_eq {s : State} (young : s.decayAge < 2 ^ 28) {u : DevUnit} (testing : (s.unit u).state = 4) (unfailed : (s.unit u).failed = none) (vaux : s.vaux = true) (powered : s.powerLoss = none)
    (f : RunFound) (got expect : BitVec 64) : s.testRun u f got expect = s.putUnit ((s.unit u).runCharged ⟨f.set, got, expect, f.wide, f.narrow, f.replays⟩) := by
  unfold State.testRun
  rw [decayed_self young]
  dsimp only
  rw [testing, unfailed, vaux, powered, if_neg (by decide)]
  rfl

theorem testRun_core {s : State} (young : s.decayAge < 2 ^ 28) {g p : ℕ} (testing : (s.unit (.core g p)).state = 4) (unfailed : (s.unit (.core g p)).failed = none) (vaux : s.vaux = true) (powered : s.powerLoss = none)
    (f : RunFound) (got expect : BitVec 64) :
    ((s.testRun (.core g p) f got expect).unit (.core g p)).score = BitVec.ofNat 16 (min 65535 ((s.unit (.core g p)).score.toNat + f.replays +
      (if passesRun (.core g p) ⟨f.set, got, expect, f.wide, f.narrow, f.replays⟩ = true then 0 else 4096))) ∧
    ((s.testRun (.core g p) f got expect).unit (.core g p)).charged = (s.unit (.core g p)).charged + 1 ∧ ((s.testRun (.core g p) f got expect).unit (.core g p)).state = 4 ∧
    (s.testRun (.core g p) f got expect).crews = s.crews := by
  rw [testRun_eq young testing unfailed vaux powered]
  have name := s.unit_u (.core g p)
  generalize form : (⟨f.set, got, expect, f.wide, f.narrow, f.replays⟩ : TestRun) = r
  have replays : f.replays = r.replays := by subst form; rfl
  have charged : ((s.unit (.core g p)).runCharged r).u = .core g p := name
  rw [unit_putUnit s charged]
  refine ⟨?_, rfl, testing, rfl⟩
  have cost : ((s.unit (.core g p)).runCharged r).score = satScore (s.unit (.core g p)).score (runCost (s.unit (.core g p)).u r) := rfl
  rw [cost, name, satScore, replays, Nat.add_assoc]
  rfl

/-! ### The verdict -/

/-- A unit with the runs of its test charged. -/
def State.tested (s : State) (u : DevUnit) (runs : List TestRun) : LeasedUnit := { (runs.drop (s.unit u).charged).foldl LeasedUnit.chargeRun (s.unit u) with charged := 0 }

/-- What the runs of a test change of a unit is its score and its count of replays. -/
theorem tested_eq {s : State} {u : DevUnit} (uncharged : (s.unit u).charged = 0) (runs : List TestRun) : ∃ nrep, s.tested u runs = (s.unit u).scored (satScore (s.unit u).score (runs.map (runCost u)).sum) nrep := by
  obtain ⟨nrep, charged⟩ := chargeRuns_eq runs (s.unit u)
  rw [s.unit_u u] at charged
  refine ⟨nrep, ?_⟩
  rw [State.tested, uncharged, List.drop_zero, charged, ← uncharged]
  rfl

/-- A unit whose test ended below the limit. -/
def LeasedUnit.passed (x : LeasedUnit) : LeasedUnit := { x with state := 5, score := BitVec.ofNat 16 (x.score.toNat / 2) }

/-- The state with a unit whose test ended below the limit; a port is DOWN. -/
def State.concludes (s : State) (u : DevUnit) (x : LeasedUnit) : State :=
  match u with
  | .port p => (s.putUnit x.passed).portTo p 0
  | _ => s.putUnit x.passed

/-- The unit returns to service, but while the package is quiesced. -/
def State.returns (s : State) (u : DevUnit) : State := if s.active then (s.leaseReturn u).advanceLeases else s

/-- The verdict of a test, of a unit with its runs charged. -/
def State.verdict (s : State) (u : DevUnit) (runs : List TestRun) (x : LeasedUnit) : State :=
  if x.state != 4 || x.failed.isSome || s.powerLoss.isSome || !s.vaux then s
  else match testEnd u 0 false runs with
  | .noTest => s
  | .failedTwice r => s.failUnit x 1 r.set (if signedSet u r.set then r.got else 0#64) (if signedSet u r.set then r.expect else 0#64)
  | .ended =>
    if 32768 ≤ x.score.toNat then s.failUnit x 2 0xFFFF 0#64 0#64
    else (s.concludes u x).returns u

theorem exec_testVerdict (u : DevUnit) (found : List RunFound) (got expect : List (BitVec 64)) (s : State) :
    exec (.testVerdict u found got expect) s = .next (s.decayed.verdict u (testRuns found got expect) (s.decayed.tested u (testRuns found got expect))) := rfl

section
variable {s : State} {u : DevUnit} {found : List RunFound} {got expect : List (BitVec 64)} (young : s.decayAge < 2 ^ 28) (testing : (s.unit u).state = 4) (uncharged : (s.unit u).charged = 0)
  (unfailed : (s.unit u).failed = none) (vaux : s.vaux = true) (powered : s.powerLoss = none)
include young testing uncharged unfailed vaux powered

theorem testVerdict_judges : exec (.testVerdict u found got expect) s = .next (
    match testEnd u 0 false (testRuns found got expect) with
    | .noTest => s
    | .failedTwice r => s.failUnit (s.tested u (testRuns found got expect)) 1 r.set (if signedSet u r.set then r.got else 0#64) (if signedSet u r.set then r.expect else 0#64)
    | .ended =>
      if 32768 ≤ (s.tested u (testRuns found got expect)).score.toNat then s.failUnit (s.tested u (testRuns found got expect)) 2 0xFFFF 0#64 0#64
      else (s.concludes u (s.tested u (testRuns found got expect))).returns u) := by
  obtain ⟨nrep, form⟩ := tested_eq uncharged (testRuns found got expect)
  have state : (s.tested u (testRuns found got expect)).state = 4 := by rw [form]; exact testing
  have failed : (s.tested u (testRuns found got expect)).failed = none := by rw [form]; exact unfailed
  rw [exec_testVerdict, decayed_self young]
  unfold State.verdict
  rw [state, failed, vaux, powered, if_neg (by decide)]

end

/-! ### The verdict of a core -/

theorem earlyLease_idle {s : State} {x : LeasedUnit} (zero : x.state ≠ 0) (one : x.state ≠ 1) : s.earlyLease x = s := by
  unfold State.earlyLease
  rw [if_neg fun h => zero h.1, if_neg fun h => one h.1]

/-- A record of retirement says what it is of. -/
theorem recordRetirement_record (s : State) (x : LeasedUnit) (reason action : ℕ) (subst : Option DevUnit) (set : ℕ) (got expect : BitVec 64) :
    ∃ y : Retirement, (s.recordRetirement x reason action subst set got expect).nv.records = s.nv.records ++ [y] ∧ y.u = x.u ∧ y.reason = BitVec.ofNat 8 reason ∧ y.score = x.score ∧
      y.set = BitVec.ofNat 16 set ∧ y.got = got ∧ y.expect = expect := ⟨_, rfl, rfl, rfl, rfl, rfl, rfl, rfl⟩

/-- A unit that is retired. -/
def LeasedUnit.retired (x : LeasedUnit) : LeasedUnit := { x with failed := none, state := 7, early := false }

/-- A retired core: its unit, its record and the change of capacity. -/
theorem failUnit_core {s : State} (active : s.active = true) (calm : s.calm) {x : LeasedUnit} {g p : ℕ} (name : x.u = .core g p) (reason set : ℕ) (got expect : BitVec 64) :
    ∃ (s' : State) (y : Retirement), s.failUnit x reason set got expect = s' ∧ (s'.unit (.core g p)).state = 7 ∧ s'.nv.records = s.nv.records ++ [y] ∧ y.u = .core g p ∧ y.score = x.score ∧
      s'.capGen = s.capGen + 1#32 ∧ s'.crews.length = s.crews.length ∧ y.reason = BitVec.ofNat 8 reason ∧ y.set = BitVec.ofNat 16 set ∧ y.got = got ∧ y.expect = expect := by
  have retired : ∃ action subst, s.unitRetire { x with failed := none } reason set got expect = (s.putUnit x.retired).capacityChange.recordRetirement x.retired reason action subst set got expect := by
    rcases x with ⟨u⟩
    obtain rfl : u = .core g p := name
    exact ⟨_, _, rfl⟩
  obtain ⟨action, subst, form⟩ := retired
  have put : x.retired.u = .core g p := name
  have calm2 : ((s.putUnit x.retired).capacityChange.recordRetirement x.retired reason action subst set got expect).calm :=
    calm_congr (calm_putUnit (x := x.retired) calm (by decide : 7 ≠ 1) (by decide : 7 ≠ 2)) rfl
  have runs : s.failUnit x reason set got expect = (s.putUnit x.retired).capacityChange.recordRetirement x.retired reason action subst set got expect := by
    rw [State.failUnit, if_pos active, form, advanceLeases_calm calm2]
  obtain ⟨y, records, of, cause, score, set_, got_, expect_⟩ := recordRetirement_record (s.putUnit x.retired).capacityChange x.retired reason action subst set got expect
  refine ⟨_, y, runs, ?_, records, of.trans put, score, rfl, ?_, cause, set_, got_, expect_⟩
  · have unit := unit_putUnit s put
    exact congrArg LeasedUnit.state unit
  · exact List.length_map ..

/-- A unit without what its lease kept of it. -/
def LeasedUnit.rested (x : LeasedUnit) : LeasedUnit := { x with early := false, deferred := 0, drained := 0, moved := [] }

/-- A unit that was replaced is the spare. -/
def LeasedUnit.spared (x : LeasedUnit) (slot : ℕ) : LeasedUnit := { x.rested with state := 6, slot := slot, replaced := false }

/-- A unit that is back in its own slot. -/
def LeasedUnit.served (x : LeasedUnit) : LeasedUnit := { x.rested with state := 0 }

/-- A core's slot is no longer vacant. -/
def State.occupied (s : State) (slot : ℕ) : State := { s with vacantCores := s.vacantCores.filter fun c => c != slot }

theorem not_mem_occupied (s : State) (slot : ℕ) : slot ∉ (s.occupied slot).vacantCores := fun member => bne_iff_ne.1 (List.mem_filter.1 member).2 rfl

/-- The return of a core that is not the spare. -/
theorem leaseReturn_core {s : State} {g p : ℕ} {x : LeasedUnit} (unit : s.unit (.core g p) = x) (returning : x.state = 5) (own : x.isSpare = false) :
    s.leaseReturn (.core g p) = (if x.replaced then (s.putUnit (x.spared (4 * g + 4))).capacityChange else ((s.putUnit x.served).occupied x.slot).capacityChange).threshold (.core g p) := by
  have spare : x.rested.isSpare = false := own
  unfold State.leaseReturn
  rw [unit, ← LeasedUnit.rested]
  exact congrArg (fun s : State => s.threshold (.core g p)) ((if_neg fun h => h returning).trans (if_neg (Bool.eq_false_iff.1 spare)))

theorem leaseReturn_replaced {s : State} {g p : ℕ} {x : LeasedUnit} (unit : s.unit (.core g p) = x) (returning : x.state = 5) (own : x.isSpare = false) (replaced : x.replaced = true) :
    s.leaseReturn (.core g p) = (s.putUnit (x.spared (4 * g + 4))).capacityChange := by
  have name : (x.spared (4 * g + 4)).u = .core g p := unit ▸ s.unit_u (.core g p)
  have after : (s.putUnit (x.spared (4 * g + 4))).capacityChange.unit (.core g p) = x.spared (4 * g + 4) := unit_putUnit s name
  rw [leaseReturn_core unit returning own, replaced, if_pos rfl]
  exact earlyLease_idle (by rw [after]; exact (by decide : 6 ≠ 0)) (by rw [after]; exact (by decide : 6 ≠ 1))

/-- A core back in its own slot, with a capacity change. -/
def State.resumed (s : State) (x : LeasedUnit) : State := ((s.putUnit x.served).occupied x.slot).capacityChange

theorem resumed_spec {s : State} (calm : s.calm) {x : LeasedUnit} {u : DevUnit} (name : x.u = u) :
    (s.resumed x).unit u = x.served ∧ x.slot ∉ (s.resumed x).vacantCores ∧ (s.resumed x).capGen = s.capGen + 1#32 ∧ (s.resumed x).calm :=
  ⟨unit_putUnit s (x := x.served) name, not_mem_occupied (s.putUnit x.served) x.slot, rfl, calm_congr (calm_putUnit (x := x.served) calm (by decide : 0 ≠ 1) (by decide : 0 ≠ 2)) rfl⟩

/-- A core that was replaced, back as the spare, with a capacity change. -/
def State.sparedBack (s : State) (x : LeasedUnit) (slot : ℕ) : State := (s.putUnit (x.spared slot)).capacityChange

theorem sparedBack_spec {s : State} (calm : s.calm) {x : LeasedUnit} {u : DevUnit} (name : x.u = u) (slot : ℕ) :
    (s.sparedBack x slot).unit u = x.spared slot ∧ (s.sparedBack x slot).capGen = s.capGen + 1#32 ∧ (s.sparedBack x slot).mem = s.mem ∧ (s.sparedBack x slot).calm :=
  ⟨unit_putUnit s (x := x.spared slot) name, rfl, rfl, calm_congr (calm_putUnit (x := x.spared slot) calm (by decide : 6 ≠ 1) (by decide : 6 ≠ 2)) rfl⟩

/-- A core in service whose score has reached the limit of an early lease is DUE. -/
theorem threshold_early {s : State} {g p : ℕ} (service : (s.unit (.core g p)).state = 0) (high : 2048 ≤ (s.unit (.core g p)).score.toNat) : s.threshold (.core g p) = s.makeDue (.core g p) true := by
  have form : s.threshold (.core g p) = s.earlyLease (s.unit (.core g p)) := rfl
  rw [form, State.earlyLease, if_pos ⟨service, high⟩, s.unit_u]

theorem makeDue_earlyLeased (s : State) (u : DevUnit) : (s.makeDue u true).earlyLeased u (s.unit u).score := by
  have unit : (s.makeDue u true).unit u = { s.unit u with state := 1, early := true, due := s.nextDue, deferred := 0 } := unit_putUnit s (s.unit_u u)
  rw [State.earlyLeased, unit]
  exact ⟨rfl, rfl, (by decide : 1 ≤ 1), (by decide : 1 ≤ 3)⟩

section
variable {s : State} {g p : ℕ} {found : List RunFound} {got expect : List (BitVec 64)} (young : s.decayAge < 2 ^ 28) (active : s.active = true) (calm : s.calm) (testing : (s.unit (.core g p)).state = 4)
  (own : (s.unit (.core g p)).isSpare = false) (uncharged : (s.unit (.core g p)).charged = 0) (unfailed : (s.unit (.core g p)).failed = none) (vaux : s.vaux = true) (powered : s.powerLoss = none)

/-- The score of a core after its test. -/
def State.testScore (s : State) (u : DevUnit) (runs : List TestRun) : ℕ := min 65535 ((s.unit u).score.toNat + (runs.map (·.replays)).sum + 4096 * (runs.filter fun r => !passesRun u r).length)

include uncharged in
theorem tested_core (runs : List TestRun) : ∃ nrep, s.tested (.core g p) runs = (s.unit (.core g p)).scored (BitVec.ofNat 16 (s.testScore (.core g p) runs)) nrep := by
  obtain ⟨nrep, form⟩ := tested_eq uncharged runs
  refine ⟨nrep, form.trans ?_⟩
  rw [runCosts_core, satScore, ← Nat.add_assoc]
  rfl

theorem testScore_toNat (u : DevUnit) (runs : List TestRun) : (BitVec.ofNat 16 (s.testScore u runs)).toNat = s.testScore u runs := by
  rw [BitVec.toNat_ofNat, Nat.mod_eq_of_lt]
  have : s.testScore u runs ≤ 65535 := Nat.min_le_left ..
  omega

include young testing uncharged unfailed vaux powered

theorem testVerdict_noTest (ends : testEnd (.core g p) 0 false (testRuns found got expect) = .noTest) : exec (.testVerdict (.core g p) found got expect) s = .next s := by
  rw [testVerdict_judges young testing uncharged unfailed vaux powered, ends]

/-- What a retirement after a test leaves. -/
def retiredAs (s s' : State) (u : DevUnit) (score : ℕ) (y : Retirement) : Prop :=
  (s'.unit u).state = 7 ∧ s'.nv.records = s.nv.records ++ [y] ∧ y.u = u ∧ y.score = BitVec.ofNat 16 score ∧ s'.capGen = s.capGen + 1#32 ∧ s'.crews.length = s.crews.length

include active calm

theorem testVerdict_high (ends : testEnd (.core g p) 0 false (testRuns found got expect) = .ended) (high : 32768 ≤ s.testScore (.core g p) (testRuns found got expect)) :
    ∃ (s' : State) (y : Retirement), exec (.testVerdict (.core g p) found got expect) s = .next s' ∧ retiredAs s s' (.core g p) (s.testScore (.core g p) (testRuns found got expect)) y ∧ y.reason = 2#8 ∧ y.set = 0xFFFF#16 := by
  have runs := testVerdict_judges (found := found) (got := got) (expect := expect) young testing uncharged unfailed vaux powered
  obtain ⟨nrep, form⟩ := tested_core uncharged (testRuns found got expect)
  have score : (s.tested (.core g p) (testRuns found got expect)).score = BitVec.ofNat 16 (s.testScore (.core g p) (testRuns found got expect)) := by rw [form]; rfl
  have name : (s.tested (.core g p) (testRuns found got expect)).u = .core g p := by rw [form]; exact s.unit_u _
  rw [ends] at runs
  dsimp only at runs
  rw [if_pos (by rw [score, testScore_toNat]; exact high)] at runs
  obtain ⟨s', y, fails, state, records, of, score', gen, crews, cause, set_, -⟩ := failUnit_core active calm name 2 0xFFFF 0#64 0#64
  exact ⟨s', y, runs.trans (congrArg _ fails), ⟨state, records, of, score'.trans score, gen, crews⟩, cause, set_⟩

theorem testVerdict_failed {r : TestRun} (ends : testEnd (.core g p) 0 false (testRuns found got expect) = .failedTwice r) :
    ∃ (s' : State) (y : Retirement), exec (.testVerdict (.core g p) found got expect) s = .next s' ∧ retiredAs s s' (.core g p) (s.testScore (.core g p) (testRuns found got expect)) y ∧ y.reason = 1#8 ∧
      y.set = BitVec.ofNat 16 r.set ∧ (r.set ∈ [0, 1, 6] → y.got = r.got ∧ y.expect = r.expect) := by
  have runs := testVerdict_judges (found := found) (got := got) (expect := expect) young testing uncharged unfailed vaux powered
  obtain ⟨nrep, form⟩ := tested_core uncharged (testRuns found got expect)
  have score : (s.tested (.core g p) (testRuns found got expect)).score = BitVec.ofNat 16 (s.testScore (.core g p) (testRuns found got expect)) := by rw [form]; rfl
  have name : (s.tested (.core g p) (testRuns found got expect)).u = .core g p := by rw [form]; exact s.unit_u _
  rw [ends] at runs
  obtain ⟨s', y, fails, state, records, of, score', gen, crews, cause, set_, got_, expect_⟩ := failUnit_core active calm name 1 r.set (if signedSet (.core g p) r.set then r.got else 0#64)
    (if signedSet (.core g p) r.set then r.expect else 0#64)
  refine ⟨s', y, runs.trans (congrArg _ fails), ⟨state, records, of, score'.trans score, gen, crews⟩, cause, set_, fun member => ?_⟩
  have signed : signedSet (.core g p) r.set = true := by
    rcases List.mem_cons.1 member with zero | member
    · rw [zero]; rfl
    rcases List.mem_cons.1 member with one | member
    · rw [one]; rfl
    · rw [List.mem_singleton.1 member]; rfl
  rw [got_, expect_, signed, if_pos rfl, if_pos rfl]
  exact ⟨rfl, rfl⟩

include own

omit calm in
/-- A core whose test ended below the limit returns, with half its score. -/
theorem testVerdict_returns (ends : testEnd (.core g p) 0 false (testRuns found got expect) = .ended) (low : s.testScore (.core g p) (testRuns found got expect) < 32768) :
    ∃ x : LeasedUnit, (x.u = .core g p ∧ x.state = 5 ∧ x.isSpare = false ∧ x.replaced = (s.unit (.core g p)).replaced ∧ x.slot = (s.unit (.core g p)).slot ∧
      x.score = BitVec.ofNat 16 (s.testScore (.core g p) (testRuns found got expect) / 2)) ∧ exec (.testVerdict (.core g p) found got expect) s = .next ((s.putUnit x).leaseReturn (.core g p)).advanceLeases := by
  have runs := testVerdict_judges (found := found) (got := got) (expect := expect) young testing uncharged unfailed vaux powered
  obtain ⟨nrep, form⟩ := tested_core uncharged (testRuns found got expect)
  rw [ends, form] at runs
  generalize s.testScore (.core g p) (testRuns found got expect) = score at *
  have value : ((s.unit (.core g p)).scored (BitVec.ofNat 16 score) nrep).score.toNat = score := (BitVec.toNat_ofNat ..).trans (Nat.mod_eq_of_lt (by omega))
  have half : ((s.unit (.core g p)).scored (BitVec.ofNat 16 score) nrep).passed.score = BitVec.ofNat 16 (((s.unit (.core g p)).scored (BitVec.ofNat 16 score) nrep).score.toNat / 2) := rfl
  refine ⟨((s.unit (.core g p)).scored (BitVec.ofNat 16 score) nrep).passed, ⟨s.unit_u _, rfl, own, rfl, rfl, half.trans (by rw [value])⟩, ?_⟩
  dsimp only at runs
  rw [if_neg (by rw [value]; omega)] at runs
  exact runs.trans (congrArg Host.Outcome.next (if_pos active))

theorem testVerdict_replaced (ends : testEnd (.core g p) 0 false (testRuns found got expect) = .ended) (low : s.testScore (.core g p) (testRuns found got expect) < 32768) (replaced : (s.unit (.core g p)).replaced = true) :
    ∃ s', exec (.testVerdict (.core g p) found got expect) s = .next s' ∧ (s'.unit (.core g p)).state = 6 ∧ (s'.unit (.core g p)).slot = 4 * g + 4 ∧
      (s'.unit (.core g p)).score = BitVec.ofNat 16 (s.testScore (.core g p) (testRuns found got expect) / 2) ∧ s'.capGen = s.capGen + 1#32 ∧ s'.mem = s.mem := by
  obtain ⟨x, ⟨name, returning, ownSlot, same, -, score⟩, runs⟩ := testVerdict_returns young active testing own uncharged unfailed vaux powered ends low
  have calm1 : (s.putUnit x).calm := calm_putUnit calm (by omega) (by omega)
  have gen : (s.putUnit x).capGen = s.capGen := rfl
  have mem : (s.putUnit x).mem = s.mem := rfl
  have unit := unit_putUnit s name
  generalize s.putUnit x = s1 at *
  obtain ⟨unit2, gen2, mem2, calm2⟩ := sparedBack_spec calm1 name (4 * g + 4)
  rw [leaseReturn_replaced unit returning ownSlot (same.trans replaced), ← State.sparedBack, advanceLeases_calm calm2] at runs
  refine ⟨_, runs, ?_, ?_, ?_, gen2.trans (gen ▸ rfl), mem2.trans mem⟩
  · rw [unit2]; rfl
  · rw [unit2]; rfl
  · rw [unit2]; exact score

theorem testVerdict_vacant (ends : testEnd (.core g p) 0 false (testRuns found got expect) = .ended) (low : s.testScore (.core g p) (testRuns found got expect) < 32768) (unreplaced : (s.unit (.core g p)).replaced = false) :
    ∃ s', exec (.testVerdict (.core g p) found got expect) s = .next s' ∧ (s'.unit (.core g p)).score = BitVec.ofNat 16 (s.testScore (.core g p) (testRuns found got expect) / 2) ∧
      (s.testScore (.core g p) (testRuns found got expect) / 2 < 2048 → (s'.unit (.core g p)).state = 0 ∧ (s.unit (.core g p)).slot ∉ s'.vacantCores ∧ s'.capGen = s.capGen + 1#32) ∧
      (2048 ≤ s.testScore (.core g p) (testRuns found got expect) / 2 → (s'.unit (.core g p)).early = true ∧ 1 ≤ (s'.unit (.core g p)).state ∧ (s'.unit (.core g p)).state ≤ 3) := by
  obtain ⟨x, ⟨name, returning, ownSlot, same, slot, score⟩, runs⟩ := testVerdict_returns young active testing own uncharged unfailed vaux powered ends low
  generalize s.testScore (.core g p) (testRuns found got expect) = n at *
  have calm1 : (s.putUnit x).calm := calm_putUnit calm (by omega) (by omega)
  have gen : (s.putUnit x).capGen = s.capGen := rfl
  have unit := unit_putUnit s name
  generalize s.putUnit x = s1 at *
  obtain ⟨unit2, vacant, gen2, calm2⟩ := resumed_spec calm1 name
  rw [leaseReturn_core unit returning ownSlot, same, unreplaced, if_neg Bool.false_ne_true, ← State.resumed] at runs
  rw [slot] at vacant
  generalize s1.resumed x = s2 at *
  have service : (s2.unit (.core g p)).state = 0 := by rw [unit2]; rfl
  have points : (s2.unit (.core g p)).score = BitVec.ofNat 16 (n / 2) := by rw [unit2]; exact score
  have value : (s2.unit (.core g p)).score.toNat = n / 2 := by rw [points, BitVec.toNat_ofNat, Nat.mod_eq_of_lt (by omega)]
  by_cases few : n / 2 < 2048
  · rw [threshold_low (value ▸ few), advanceLeases_calm calm2] at runs
    exact ⟨s2, runs, points, fun _ => ⟨service, vacant, gen2.trans (gen ▸ rfl)⟩, fun many => absurd few (Nat.not_lt.2 many)⟩
  · obtain ⟨kept, early, after, before⟩ := advanceLeases_earlyLeased (makeDue_earlyLeased s2 (.core g p))
    rw [threshold_early service (value ▸ Nat.not_lt.1 few)] at runs
    exact ⟨_, runs, kept.trans points, fun less => absurd less few, fun _ => ⟨early, after, before⟩⟩

end

end Sys2Proof.Machine

/-! ## The verdict of a port's test while the package is quiesced, and the rules of leases -/

namespace Sys2Proof.Machine

theorem satScore_fits {a : BitVec 16} {n : ℕ} (fits : a.toNat + n ≤ 65535) : satScore a n = a + BitVec.ofNat 16 n := by
  rw [satScore, Nat.min_eq_right fits, BitVec.ofNat_add, BitVec.ofNat_toNat, BitVec.setWidth_eq]

section
variable {s : State} {p : ℕ} {found : List RunFound} {got expect : List (BitVec 64)} (quiesced : s.quiesced = true) (young : s.decayAge < 2 ^ 28) (testing : (s.unit (.port p)).state = 4)
  (uncharged : (s.unit (.port p)).charged = 0) (unfailed : (s.unit (.port p)).failed = none) (low : (s.unit (.port p)).score.toNat < 2048) (vaux : s.vaux = true) (powered : s.powerLoss = none)

/-- A quiesced package is not active. -/
theorem active_quiesced {s : State} (quiesced : s.quiesced = true) : s.active = false := by
  rw [State.active, quiesced]
  rfl

/-- A port's run without wide errors costs it nothing but its failure. -/
theorem runCost_port {p : ℕ} {r : TestRun} (wide : r.wide = 0) : passesRun (.port p) r = decide (r.narrow ≤ 1024) ∧ runCost (.port p) r = if passesRun (.port p) r then 0 else 4096 := by
  have criterion : passesRun (.port p) r = (r.wide == 0 && decide (r.narrow ≤ 1024)) := rfl
  have cost : runCost (.port p) r = 16 * r.wide + if passesRun (.port p) r then 0 else 4096 := rfl
  exact ⟨by rw [criterion, wide]; exact Bool.true_and _, by rw [cost, wide, Nat.mul_zero, Nat.zero_add]⟩

theorem ports_state_portTo {s : State} {p st : ℕ} {q : Port} (hq : s.ports[p]? = some q) : ((s.portTo p st).ports[p]?).map (·.state) = some st := by
  by_cases same : q.state = st
  · have kept : s.portTo p st = s := by
      rw [State.portTo, hq]
      exact if_pos same
    rw [kept, hq, Option.map_some, same]
  · have inside : p < s.ports.length := (List.getElem?_eq_some_iff.1 hq).1
    rw [portTo_changes hq same]
    exact congrArg (Option.map (·.state)) (List.getElem?_set_self inside)

include quiesced young testing uncharged unfailed vaux powered

theorem testVerdict_portPasses {q : Port} (hq : s.ports[p]? = some q) {r : TestRun} (one : testRuns found got expect = [r]) (set : r.set = 0) (wide : r.wide = 0) (few : r.narrow ≤ 1024) (low : (s.unit (.port p)).score.toNat < 2048) :
    ∃ s', exec (.testVerdict (.port p) found got expect) s = .next s' ∧ (s'.unit (.port p)).state = 5 ∧ (s'.ports[p]?).map (·.state) = some 0 ∧ s'.capGen = s.capGen := by
  have runs := testVerdict_judges (found := found) (got := got) (expect := expect) young testing uncharged unfailed vaux powered
  obtain ⟨nrep, form⟩ := tested_eq uncharged (testRuns found got expect)
  obtain ⟨criterion, cost⟩ := runCost_port (p := p) wide
  have passes : passesRun (.port p) r = true := by rw [criterion, decide_eq_true few]
  have ends : testEnd (.port p) 0 false [r] = .ended := testEnd_passes (k := 0) (n := 1) (congrArg (fun n => [n]) set) (by rw [List.all_cons, passes]; rfl) rfl
  have total : ([r].map (runCost (.port p))).sum = 0 := by rw [List.map_singleton, List.sum_singleton, cost, passes]; rfl
  rw [one, total, satScore_zero] at form
  rw [one, ends, form] at runs
  have name : ((s.unit (.port p)).scored (s.unit (.port p)).score nrep).passed.u = .port p := s.unit_u _
  have state : ((s.unit (.port p)).scored (s.unit (.port p)).score nrep).passed.state = 5 := rfl
  have score : ((s.unit (.port p)).scored (s.unit (.port p)).score nrep).score = (s.unit (.port p)).score := rfl
  have concludes : s.concludes (.port p) ((s.unit (.port p)).scored (s.unit (.port p)).score nrep) = (s.putUnit ((s.unit (.port p)).scored (s.unit (.port p)).score nrep).passed).portTo p 0 := rfl
  dsimp only at runs
  rw [if_neg (by rw [score]; omega), concludes] at runs
  generalize ((s.unit (.port p)).scored (s.unit (.port p)).score nrep).passed = x at *
  have unit := unit_putUnit s name
  have hq1 : (s.putUnit x).ports[p]? = some q := hq
  have idle : (s.putUnit x).quiesced = true := quiesced
  have gen : (s.putUnit x).capGen = s.capGen := rfl
  generalize s.putUnit x = s1 at *
  have down := ports_state_portTo (st := 0) hq1
  obtain ⟨o, ps, pf, e, n, frame⟩ := State.onlyPorts_portTo s1 p 0
  have still : (s1.portTo p 0).active = false := active_quiesced (by rw [frame]; exact idle)
  rw [State.returns, still, if_neg Bool.false_ne_true] at runs
  refine ⟨_, runs, ?_, down, by rw [frame]; exact gen⟩
  have kept : (s1.portTo p 0).unit (.port p) = s1.unit (.port p) := unit_congr (by rw [frame]) _
  rw [kept, unit]
  exact state

/-- A unit whose failure is to take effect at RESUME. -/
def LeasedUnit.failing (x : LeasedUnit) (reason set : ℕ) (got expect : BitVec 64) : LeasedUnit := { x with failed := some (reason, set, got, expect) }

theorem testVerdict_portFails {r r' : TestRun} (two : testRuns found got expect = [r, r']) (set : r.set = 0) (set' : r'.set = 0) (wide : r.wide = 0) (wide' : r'.wide = 0) (many : 1024 < r.narrow) (many' : 1024 < r'.narrow)
    (low : (s.unit (.port p)).score.toNat < 2048) :
    ∃ s', exec (.testVerdict (.port p) found got expect) s = .next s' ∧ (s'.unit (.port p)).state = 4 ∧ (s'.unit (.port p)).failed.isSome = true ∧ (s'.unit (.port p)).score = (s.unit (.port p)).score + 8192#16 ∧
      s'.capGen = s.capGen ∧ s'.ports = s.ports := by
  have runs := testVerdict_judges (found := found) (got := got) (expect := expect) young testing uncharged unfailed vaux powered
  obtain ⟨nrep, form⟩ := tested_eq uncharged (testRuns found got expect)
  obtain ⟨criterion, cost⟩ := runCost_port (p := p) wide
  obtain ⟨criterion', cost'⟩ := runCost_port (p := p) wide'
  have fails : passesRun (.port p) r = false := by rw [criterion, decide_eq_false (by omega)]
  have fails' : passesRun (.port p) r' = false := by rw [criterion', decide_eq_false (by omega)]
  have ends : testEnd (.port p) 0 false [r, r'] = .failedTwice r' := testEnd_fails (pre := []) (n := 0) (set'.trans set.symm) (set ▸ Nat.zero_lt_one) fails fails' rfl rfl set.symm
  have total : ([r, r'].map (runCost (.port p))).sum = 8192 := by
    rw [List.map_cons, List.map_singleton, List.sum_cons, List.sum_singleton, cost, cost', fails, fails', if_neg Bool.false_ne_true]
  rw [two, total, satScore_fits (n := 8192) (by omega)] at form
  rw [two, ends, form] at runs
  dsimp only at runs
  have fail : ∀ (x : LeasedUnit) (reason set : ℕ) (got expect : BitVec 64), s.failUnit x reason set got expect = s.putUnit (x.failing reason set got expect) := fun x reason set got expect => by
    rw [State.failUnit, active_quiesced quiesced, if_neg Bool.false_ne_true]
    rfl
  rw [fail] at runs
  generalize (s.unit (.port p)).score + 8192#16 = score at *
  have name : ∀ (reason set : ℕ) (got expect : BitVec 64), (((s.unit (.port p)).scored score nrep).failing reason set got expect).u = .port p := fun _ _ _ _ => s.unit_u _
  refine ⟨_, runs, ?_, ?_, ?_, rfl, rfl⟩
  · rw [unit_putUnit s (name ..)]; exact testing
  · rw [unit_putUnit s (name ..)]; rfl
  · rw [unit_putUnit s (name ..)]; rfl

end

/-! ### The rules of leases -/

/-- A core's test (R386 to R391), by what its runs were. -/
theorem testVerdict_core {s : State} {g p : ℕ} (young : s.decayAge < 2 ^ 28) (active : s.active = true) (calm : s.calm) (testing : (s.unit (.core g p)).state = 4) (own : (s.unit (.core g p)).isSpare = false)
    (uncharged : (s.unit (.core g p)).charged = 0) (unfailed : (s.unit (.core g p)).failed = none) (vaux : s.vaux = true) (powered : s.powerLoss = none) (found : List RunFound) (got expect : List (BitVec 64)) :
    let runs := testRuns found got expect
    let score := s.testScore (.core g p) runs
    let retires (y : Retirement) (s' : State) : Prop := exec (.testVerdict (.core g p) found got expect) s = .next s' ∧ retiredAs s s' (.core g p) score y
    (testEnd (.core g p) 0 false runs = .noTest → exec (.testVerdict (.core g p) found got expect) s = .next s) ∧
    (runs.map (·.set) = List.range 7 → runs.all (passesRun (.core g p)) = true → testEnd (.core g p) 0 false runs = .ended ∧ score = min 65535 ((s.unit (.core g p)).score.toNat + (runs.map (·.replays)).sum)) ∧
    (testEnd (.core g p) 0 false runs = .ended → score < 32768 → (s.unit (.core g p)).replaced = true → ∃ s', exec (.testVerdict (.core g p) found got expect) s = .next s' ∧ (s'.unit (.core g p)).state = 6 ∧
      (s'.unit (.core g p)).slot = 4 * g + 4 ∧ (s'.unit (.core g p)).score = BitVec.ofNat 16 (score / 2) ∧ s'.capGen = s.capGen + 1#32 ∧ s'.mem = s.mem) ∧
    (testEnd (.core g p) 0 false runs = .ended → score < 32768 → (s.unit (.core g p)).replaced = false → ∃ s', exec (.testVerdict (.core g p) found got expect) s = .next s' ∧ (s'.unit (.core g p)).score = BitVec.ofNat 16 (score / 2) ∧
      (score / 2 < 2048 → (s'.unit (.core g p)).state = 0 ∧ (s.unit (.core g p)).slot ∉ s'.vacantCores ∧ s'.capGen = s.capGen + 1#32) ∧
      (2048 ≤ score / 2 → (s'.unit (.core g p)).early = true ∧ 1 ≤ (s'.unit (.core g p)).state ∧ (s'.unit (.core g p)).state ≤ 3)) ∧
    (testEnd (.core g p) 0 false runs = .ended → 32768 ≤ score → ∃ (s' : State) (y : Retirement), retires y s' ∧ y.reason = 2#8 ∧ y.set = 0xFFFF#16) ∧
    (∀ (pre : List TestRun) (r r' : TestRun), runs = pre ++ [r, r'] → pre.map (·.set) = List.range r.set → pre.all (passesRun (.core g p)) = true → r.set < 7 → r'.set = r.set → passesRun (.core g p) r = false →
      passesRun (.core g p) r' = false → ∃ (s' : State) (y : Retirement), retires y s' ∧ y.reason = 1#8 ∧ y.set = BitVec.ofNat 16 r.set ∧
        score = min 65535 ((s.unit (.core g p)).score.toNat + (runs.map (·.replays)).sum + 8192) ∧ (r.set ∈ [0, 1, 6] → y.got = r'.got ∧ y.expect = r'.expect)) := by
  intro runs score retires
  refine ⟨testVerdict_noTest young testing uncharged unfailed vaux powered, fun sets pass => ⟨?_, ?_⟩, testVerdict_replaced young active calm testing own uncharged unfailed vaux powered,
    testVerdict_vacant young active calm testing own uncharged unfailed vaux powered, fun ends high => ?_, fun pre r r' form sets pass inside same fails again => ?_⟩
  · exact testEnd_passes (sets.trans (List.range_eq_range' ..)) pass rfl
  · have none_ : (runs.filter fun r => !passesRun (.core g p) r) = [] := List.filter_eq_nil_iff.2 fun r member => by rw [List.all_eq_true.1 pass r member]; decide
    show State.testScore s (.core g p) runs = _
    rw [State.testScore, none_]
    rfl
  · obtain ⟨s', y, step, left, cause, set⟩ := testVerdict_high young active calm testing uncharged unfailed vaux powered ends high
    exact ⟨s', y, ⟨step, left⟩, cause, set⟩
  · have ends : testEnd (.core g p) 0 false runs = .failedTwice r' := form ▸ testEnd_fails (u := .core g p) same inside fails again (sets.trans (List.range_eq_range' ..)) pass (Nat.zero_add _)
    obtain ⟨s', y, step, left, cause, set, signatures⟩ := testVerdict_failed young active calm testing uncharged unfailed vaux powered ends
    have none_ : (pre.filter fun r => !passesRun (.core g p) r) = [] := List.filter_eq_nil_iff.2 fun r member => by rw [List.all_eq_true.1 pass r member]; decide
    have both : (runs.filter fun r => !passesRun (.core g p) r) = [r, r'] := by
      rw [form, List.filter_append, none_, List.nil_append, List.filter_cons_of_pos (by rw [fails]; rfl), List.filter_cons_of_pos (by rw [again]; rfl), List.filter_nil]
    refine ⟨s', y, ⟨step, left⟩, cause, set.trans (by rw [same]), ?_, fun member => signatures (by rw [same]; exact member)⟩
    show State.testScore s (.core g p) runs = _
    rw [State.testScore, both]
    rfl

/-- Settles O47: the rules of leases one by one, a core’s test by `testVerdict_core`. -/
theorem testLeases : Obligations.TestLeases := by
  unfold Obligations.TestLeases
  intro s alone quiet
  refine ⟨fun u => leaseDue_early, fun u => leaseDue_unleasable, ?slot, ?note, fun r c t h => ⟨nopreBudgetSpent_unspent h, nopreBudgetSpent_spends h⟩, ?forced, fun g ch line => channelLineMove_moves, ?core, ?port, ?scores,
    fun old younger low => scoreDecay_once old younger fun y member => (low y member).1⟩
  case slot =>
    intro u active due leasable alone x drains
    exact ⟨fun g p name service => leaseDue_core active due leasable alone name service, fun p q name service hq => leaseDue_port active due leasable alone name service hq,
      fun g ch v name service member other idle => leaseDue_channel active due leasable alone name service member other idle, leaseDue_spareTests active due leasable alone⟩
  case note =>
    intro k c tl hc pending live note tile uid tags fmt untracked free
    exact capacityNotify_writes hc pending live note tile uid tags fmt untracked free
  case forced =>
    intro g p k c active only draining hc placed cohort stopped
    exact forcedMigration_leaves active only hc placed cohort stopped
  case core =>
    intro g p u x young
    refine ⟨fun active quiet => ⟨fun draining empty => ⟨fun v held spare low => ?_, leaseTestStart_vacant young active draining (calm_of_units quiet) empty⟩, leaseTestStart_occupied young active, ?_⟩, ?_⟩
    · exact leaseTestStart_replaced young active draining (calm_of_units quiet) empty held spare low
    · intro testing own uncharged unfailed vaux powered found got expect
      exact testVerdict_core young active (calm_of_units quiet) testing own uncharged unfailed vaux powered found got expect
    · intro testing unfailed vaux powered f got expect
      exact testRun_core young testing unfailed vaux powered f got expect
  case port =>
    intro p q found got expect x runs quiesced young hq testing uncharged unfailed low vaux powered
    exact ⟨fun r one set wide few => testVerdict_portPasses quiesced young testing uncharged unfailed vaux powered hq one set wide few low,
      fun r r' two set set' wide wide' many many' => testVerdict_portFails quiesced young testing uncharged unfailed vaux powered two set set' wide wide' many many' low⟩
  case scores =>
    intro young
    refine ⟨fun core u => shadowLatchReplay_charges young, scoreDecay_young young, fecUncorrectable_score young, fun u addr => ⟨rfl, fun e => patrolScrub_first young, fun e => patrolScrub_second young, ?_⟩⟩
    rintro ⟨r, c, rfl⟩
    exact ⟨patrolScrub_waits, patrolScrub_poisons young⟩

end Sys2Proof.Machine
